-- ==== Sys2Proof/Word.lean ====
section
/-! DEFINITION. The word types of the machine and their plainest arithmetic (R4, R5). -/
namespace Sys2Proof

/-- A 32-bit lane register, instruction word or control word. -/
abbrev Word := BitVec 32
/-- A 64-bit value: a pair, a pointer, an identifier. -/
abbrev DWord := BitVec 64
/-- A 48-bit program counter (R14). -/
abbrev Pc := BitVec 48
/-- A byte of memory. -/
abbrev Byte := BitVec 8
/-- A set of lanes, bit l for lane l. -/
abbrev Mask := BitVec 32
/-- A lane number, 0 to 31 (R2). -/
abbrev Lane := Fin 32
/-- One item per lane of a wave. -/
abbrev Lanes (α : Type) := Vector α 32

/-- The PC of an exited lane (R14). -/
def exitedPc : Pc := 0xFFFFFFFFFFFF#48

/-- All lanes in ascending order. -/
def laneList : List Lane := List.finRange 32

/-- One item per lane from a rule. -/
def Lanes.of {α : Type} (f : Lane → α) : Lanes α := Vector.ofFn f

/-- Is lane l in the set? -/
def Mask.has (m : Mask) (l : Lane) : Bool := m.getLsbD l.val

/-- The set of the lanes for which the test holds. -/
def Mask.of (p : Lane → Bool) : Mask :=
  BitVec.ofNat 32 (laneList.foldl (fun n l => if p l then n + 2 ^ l.val else n) 0)

/-- The lanes of a set, ascending. -/
def Mask.lanes (m : Mask) : List Lane := laneList.filter m.has

/-- The lowest lane of a set. -/
def Mask.lowest (m : Mask) : Option Lane := m.lanes.head?

/-- The highest lane of a set. -/
def Mask.highest (m : Mask) : Option Lane := m.lanes.getLast?

/-- The number of lanes in a set. -/
def Mask.count (m : Mask) : Nat := m.lanes.length

end Sys2Proof
end

