-- ==== Sys2Proof/Machine/Bits.lean ====
section
/-! DEFINITION. Bit fields, signed readings and the halves of a pair (R49, R69). -/
namespace Sys2Proof

/-- Bits [lo + n - 1 : lo] of a natural number. -/
def bitsOf (x lo n : Nat) : Nat := x / 2 ^ lo % 2 ^ n

/-- The value of an n-bit pattern read as signed two's complement (R69). -/
def signedOf (x n : Nat) : Int := if x % 2 ^ n < 2 ^ (n - 1) then (x % 2 ^ n : Nat) else (x % 2 ^ n : Nat) - (2 ^ n : Nat)

/-- The low word of a pair (R49). -/
def lo32 (x : DWord) : Word := x.extractLsb' 0 32
/-- The high word of a pair (R49). -/
def hi32 (x : DWord) : Word := x.extractLsb' 32 32
/-- The 64-bit value of a pair (R49). -/
def pair (lo hi : Word) : DWord := hi ++ lo

end Sys2Proof
end

