-- ==== Sys2Proof/Fields.lean ====
section
/-! DEFINITION. What an instruction field can name: registers (R48), rounding codes (R55), formats (R56),
conditions (R54), lane and memory variants (R58, R59), scopes (R60), atomic operations (R61) and tile states (R63). -/
namespace Sys2Proof

/-- A 7-bit register field (R48): codes 0 to 95, 96 to 111, 112 to 119, 120 to 127. -/
inductive Reg where
  | v (n : Fin 96)
  | g (n : Fin 16)
  | q (n : Fin 8)
  /-- `b ⟨k⟩` is latch b(k + 1). -/
  | b (n : Fin 8)
deriving DecidableEq, Repr, Inhabited

/-- A predicate p0 to p7 (R50). -/
abbrev Pred := Fin 8

/-- Rounding modes (R55, R83). -/
inductive Rnd where
  | rne | rtz | rdn | rup | rna | dth
deriving DecidableEq, Repr, Inhabited

/-- Conversion formats (R56). -/
inductive Fmt where
  | s8 | z8 | s16 | z16 | s32 | z32 | s64 | z64 | f32 | f16 | bf16 | e4m3 | e5m2 | e5m3
deriving DecidableEq, Repr, Inhabited

/-- The conditions of CMP (R54). -/
inductive Cond where
  | eq | ne | ltS | leS | ltZ | leZ
deriving DecidableEq, Repr, Inhabited

/-- The conditions of FCMP (R54). -/
inductive FCond where
  | eq | ne | lt | le | un | num
deriving DecidableEq, Repr, Inhabited

/-- The modes of SHFL (R58, R109). -/
inductive Shfl where
  | idx | up | down | xor
deriving DecidableEq, Repr, Inhabited

/-- The operations of WRED, WSCAN (R58, R111) and of major 0x30 and 0x32 (R61), but for their order there. -/
inductive RedOp where
  | add | minS | maxS | minZ | maxZ | and | or | xor
deriving DecidableEq, Repr, Inhabited

/-- The variants of LD and LD.r (R59). -/
inductive LdW where
  | s8 | z8 | s16 | z16 | b32 | b64 | b128
deriving DecidableEq, Repr, Inhabited

/-- The variants of ST (R59). -/
inductive StW where
  | b8 | b16 | b32 | b64 | b128
deriving DecidableEq, Repr, Inhabited

/-- The widths of LDA and STA (R59). -/
inductive BufW where
  | b16 | b32 | b64 | b128
deriving DecidableEq, Repr, Inhabited

/-- The widths of LDC (R59). -/
inductive LdcW where
  | b32 | b64 | b128
deriving DecidableEq, Repr, Inhabited

/-- Scopes (R60). -/
inductive Scope where
  | thread | wave | group | clus | die | dev | sys
deriving DecidableEq, Repr, Inhabited

/-- The ATOM operations of major 0x31 (R61). -/
inductive AtomX where
  | exch32 | cas32 | addF | minF | maxF | exch64 | cas64 | add64
deriving DecidableEq, Repr, Inhabited

/-- The RED operations of major 0x33 (R61). -/
inductive RedX where
  | addF | minF | maxF | add64
deriving DecidableEq, Repr, Inhabited

/-- Tile states (R63, R198). -/
inductive TileState where
  | empty | filling | ready | draining
deriving DecidableEq, Repr, Inhabited

/-- Watch scopes (R64). -/
inductive WScope where
  | thread | group | die
deriving DecidableEq, Repr, Inhabited

/-- Engine kinds (R63). -/
inductive Eng where
  | copy | gather | coll | drain
deriving DecidableEq, Repr, Inhabited

end Sys2Proof
end

