-- ==== Sys2Proof/Machine/Codes.lean ====
section
/-! DEFINITION. The code in the word of each thing that a field can name (R48, R54 to R64), and the widths that a
variant gives (R59, R61). -/
namespace Sys2Proof

/-- The field code of a register (R48). -/
def Reg.code : Reg → Nat
  | .v n => n.val
  | .g n => 96 + n.val
  | .q n => 112 + n.val
  | .b n => 120 + n.val

/-- The register a field code names (R48); the code is taken modulo 128, the width of the field. -/
def Reg.ofCode (c : Nat) : Reg :=
  if c % 128 < 96 then .v (Fin.ofNat 96 (c % 128))
  else if c % 128 < 112 then .g (Fin.ofNat 16 (c % 128 - 96))
  else if c % 128 < 120 then .q (Fin.ofNat 8 (c % 128 - 112))
  else .b (Fin.ofNat 8 (c % 128 - 120))

def Rnd.code : Rnd → Nat
  | .rne => 0 | .rtz => 1 | .rdn => 2 | .rup => 3 | .rna => 4 | .dth => 5

def Rnd.ofCode? : Nat → Option Rnd
  | 0 => some .rne | 1 => some .rtz | 2 => some .rdn | 3 => some .rup | 4 => some .rna | 5 => some .dth
  | _ => none

def Fmt.code : Fmt → Nat
  | .s8 => 0 | .z8 => 1 | .s16 => 2 | .z16 => 3 | .s32 => 4 | .z32 => 5 | .s64 => 6 | .z64 => 7
  | .f32 => 8 | .f16 => 9 | .bf16 => 10 | .e4m3 => 11 | .e5m2 => 12 | .e5m3 => 13

def Fmt.ofCode? : Nat → Option Fmt
  | 0 => some .s8 | 1 => some .z8 | 2 => some .s16 | 3 => some .z16 | 4 => some .s32 | 5 => some .z32
  | 6 => some .s64 | 7 => some .z64 | 8 => some .f32 | 9 => some .f16 | 10 => some .bf16 | 11 => some .e4m3
  | 12 => some .e5m2 | 13 => some .e5m3 | _ => none

def Cond.code : Cond → Nat
  | .eq => 0 | .ne => 1 | .ltS => 2 | .leS => 3 | .ltZ => 4 | .leZ => 5

def Cond.ofCode? : Nat → Option Cond
  | 0 => some .eq | 1 => some .ne | 2 => some .ltS | 3 => some .leS | 4 => some .ltZ | 5 => some .leZ
  | _ => none

def FCond.code : FCond → Nat
  | .eq => 0 | .ne => 1 | .lt => 2 | .le => 3 | .un => 4 | .num => 5

def FCond.ofCode? : Nat → Option FCond
  | 0 => some .eq | 1 => some .ne | 2 => some .lt | 3 => some .le | 4 => some .un | 5 => some .num
  | _ => none

def Shfl.code : Shfl → Nat
  | .idx => 0 | .up => 1 | .down => 2 | .xor => 3

def Shfl.ofCode? : Nat → Option Shfl
  | 0 => some .idx | 1 => some .up | 2 => some .down | 3 => some .xor | _ => none

def RedOp.code : RedOp → Nat
  | .add => 0 | .minS => 1 | .maxS => 2 | .minZ => 3 | .maxZ => 4 | .and => 5 | .or => 6 | .xor => 7

def RedOp.ofCode? : Nat → Option RedOp
  | 0 => some .add | 1 => some .minS | 2 => some .maxS | 3 => some .minZ | 4 => some .maxZ
  | 5 => some .and | 6 => some .or | 7 => some .xor | _ => none

def LdW.code : LdW → Nat
  | .s8 => 0 | .z8 => 1 | .s16 => 2 | .z16 => 3 | .b32 => 4 | .b64 => 5 | .b128 => 6

def LdW.ofCode? : Nat → Option LdW
  | 0 => some .s8 | 1 => some .z8 | 2 => some .s16 | 3 => some .z16 | 4 => some .b32 | 5 => some .b64
  | 6 => some .b128 | _ => none

/-- The access width in bytes (R59). -/
def LdW.bytes : LdW → Nat
  | .s8 => 1 | .z8 => 1 | .s16 => 2 | .z16 => 2 | .b32 => 4 | .b64 => 8 | .b128 => 16

def StW.code : StW → Nat
  | .b8 => 0 | .b16 => 1 | .b32 => 2 | .b64 => 3 | .b128 => 4

def StW.ofCode? : Nat → Option StW
  | 0 => some .b8 | 1 => some .b16 | 2 => some .b32 | 3 => some .b64 | 4 => some .b128 | _ => none

def StW.bytes : StW → Nat
  | .b8 => 1 | .b16 => 2 | .b32 => 4 | .b64 => 8 | .b128 => 16

def BufW.code : BufW → Nat
  | .b16 => 0 | .b32 => 1 | .b64 => 2 | .b128 => 3

def BufW.ofCode? : Nat → Option BufW
  | 0 => some .b16 | 1 => some .b32 | 2 => some .b64 | 3 => some .b128 | _ => none

def BufW.bytes : BufW → Nat
  | .b16 => 2 | .b32 => 4 | .b64 => 8 | .b128 => 16

def LdcW.code : LdcW → Nat
  | .b32 => 0 | .b64 => 1 | .b128 => 2

def LdcW.ofCode? : Nat → Option LdcW
  | 0 => some .b32 | 1 => some .b64 | 2 => some .b128 | _ => none

def LdcW.bytes : LdcW → Nat
  | .b32 => 4 | .b64 => 8 | .b128 => 16

def Scope.code : Scope → Nat
  | .thread => 0 | .wave => 1 | .group => 2 | .clus => 3 | .die => 4 | .dev => 5 | .sys => 6

def Scope.ofCode? : Nat → Option Scope
  | 0 => some .thread | 1 => some .wave | 2 => some .group | 3 => some .clus | 4 => some .die
  | 5 => some .dev | 6 => some .sys | _ => none

def AtomX.code : AtomX → Nat
  | .exch32 => 0 | .cas32 => 1 | .addF => 2 | .minF => 3 | .maxF => 4 | .exch64 => 5 | .cas64 => 6 | .add64 => 7

def AtomX.ofCode? : Nat → Option AtomX
  | 0 => some .exch32 | 1 => some .cas32 | 2 => some .addF | 3 => some .minF | 4 => some .maxF
  | 5 => some .exch64 | 6 => some .cas64 | 7 => some .add64 | _ => none

def AtomX.bytes : AtomX → Nat
  | .exch64 => 8 | .cas64 => 8 | .add64 => 8 | .exch32 => 4 | .cas32 => 4 | .addF => 4 | .minF => 4 | .maxF => 4

def RedX.code : RedX → Nat
  | .addF => 0 | .minF => 1 | .maxF => 2 | .add64 => 3

def RedX.ofCode? : Nat → Option RedX
  | 0 => some .addF | 1 => some .minF | 2 => some .maxF | 3 => some .add64 | _ => none

def TileState.code : TileState → Nat
  | .empty => 0 | .filling => 1 | .ready => 2 | .draining => 3

def TileState.ofCode? : Nat → Option TileState
  | 0 => some .empty | 1 => some .filling | 2 => some .ready | 3 => some .draining | _ => none

def WScope.code : WScope → Nat
  | .thread => 0 | .group => 1 | .die => 2

def WScope.ofCode? : Nat → Option WScope
  | 0 => some .thread | 1 => some .group | 2 => some .die | _ => none

def Eng.code : Eng → Nat
  | .copy => 0 | .gather => 1 | .coll => 2 | .drain => 3

def Eng.ofCode? : Nat → Option Eng
  | 0 => some .copy | 1 => some .gather | 2 => some .coll | 3 => some .drain | _ => none

end Sys2Proof
end

