-- ==== Sys2Proof/Machine/Flags.lean ====
section
/-! DEFINITION. The sticky flags of NFLG (R33, R88). -/
namespace Sys2Proof.Machine

/-- A set of sticky flags in the layout of NFLG [6:0] (R33). -/
abbrev Flags := BitVec 7

def fNV : Flags := 1#7
def fDZ : Flags := 2#7
def fOF : Flags := 4#7
def fUF : Flags := 8#7
def fNX : Flags := 16#7
def fSAT : Flags := 32#7
def fNS : Flags := 64#7

/-- The flag when the cause holds. -/
def flagIf (b : Bool) (f : Flags) : Flags := if b then f else 0

/-- No flag in any lane: the integer forms but for DIV and REM (R70). -/
def noFlags (_ : Lane) : Flags := 0

end Sys2Proof.Machine
end

