-- ==== Sys2Proof/Machine/Formats.lean ====
section
/-! DEFINITION. Number formats and rounding (chapter 03): the value of a pattern (R71 to R80), exact sums and products
(R74, R75), RoundTo (R83 to R88, R127), and the functions of R133 to more bits than a rounding needs. -/
namespace Sys2Proof.Machine

/-- A value: a NaN (signalling or quiet), an infinity by its sign, or plus or minus m × 2^e (R73). -/
inductive Num where
  | nan (sig : Bool)
  | inf (neg : Bool)
  | fin (neg : Bool) (m : Nat) (e : Int)
deriving DecidableEq, Repr, Inhabited

/-- Two to a natural power given as an integer; one when it is negative. -/
def pow2 (k : Int) : Nat := 2 ^ k.toNat

/-! ### Float formats -/

/-- The layout of a float format (R72, R76, R80): fraction bits, bias, pattern of the largest finite magnitude,
pattern of infinity, canonical NaN, whether bit `sgn` is a sign, and whether its NaNs can signal. -/
structure FloatFmt where
  w : Nat
  bias : Nat
  big : Nat
  inf : Option Nat
  nan : Nat
  sgn : Option Nat
  signals : Bool
deriving DecidableEq, Repr, Inhabited

def f32Fmt : FloatFmt := ⟨23, 127, 0x7F7FFFFF, some 0x7F800000, 0x7FC00000, some 31, true⟩
def f16Fmt : FloatFmt := ⟨10, 15, 0x7BFF, some 0x7C00, 0x7E00, some 15, true⟩
def bf16Fmt : FloatFmt := ⟨7, 127, 0x7F7F, some 0x7F80, 0x7FC0, some 15, true⟩
def e4m3Fmt : FloatFmt := ⟨3, 7, 0x7E, none, 0x7F, some 7, false⟩
def e5m2Fmt : FloatFmt := ⟨2, 15, 0x7B, some 0x7C, 0x7E, some 7, false⟩
def e5m3Fmt : FloatFmt := ⟨3, 15, 0xFE, none, 0xFF, none, false⟩

/-- The float format of a format code; none for the integers. -/
def fmtFloat : Fmt → Option FloatFmt
  | .f32 => some f32Fmt | .f16 => some f16Fmt | .bf16 => some bf16Fmt
  | .e4m3 => some e4m3Fmt | .e5m2 => some e5m2Fmt | .e5m3 => some e5m3Fmt
  | .s8 | .z8 | .s16 | .z16 | .s32 | .z32 | .s64 | .z64 => none

/-- Width and signedness of an integer format (R69). -/
def fmtInt : Fmt → Nat × Bool
  | .s8 => (8, true) | .z8 => (8, false) | .s16 => (16, true) | .z16 => (16, false)
  | .s32 => (32, true) | .z32 => (32, false) | .s64 => (64, true) | .z64 => (64, false)
  | .f32 | .f16 | .bf16 | .e4m3 | .e5m2 | .e5m3 => (32, false)

/-- The magnitude of a pattern without its sign (R73, R76, R80). -/
def magOf (f : FloatFmt) (neg : Bool) (p : Nat) : Num :=
  if p ≤ f.big then
    let e := p / 2 ^ f.w
    let m := p % 2 ^ f.w
    if e = 0 then .fin neg m (1 - f.bias - f.w) else .fin neg (m + 2 ^ f.w) (e - f.bias - f.w)
  else if some p = f.inf then .inf neg
  else .nan (f.signals && p / 2 ^ (f.w - 1) % 2 = 0)

/-- Val(p, F) for a float format (R127). -/
def floatVal (f : FloatFmt) (p : Nat) : Num :=
  match f.sgn with
  | some b => magOf f (p / 2 ^ b % 2 = 1) (p % 2 ^ b)
  | none => magOf f false (p % 256)

/-- Val(p, F) for an integer format, the narrow ones from their low bits (R71). -/
def intVal (w : Nat) (signed : Bool) (p : Nat) : Num :=
  let x : Int := if signed then signedOf p w else (p % 2 ^ w : Nat)
  .fin (decide (x < 0)) x.natAbs 0

/-- Val(p, F) (R127). -/
def valOf (f : Fmt) (p : Nat) : Num :=
  match fmtFloat f with
  | some g => floatVal g p
  | none => intVal (fmtInt f).1 (fmtInt f).2 p

def isNan (x : Num) : Bool := match x with | .nan _ => true | .inf _ | .fin .. => false
def isSig (x : Num) : Bool := match x with | .nan b => b | .inf _ | .fin .. => false

/-! ### Rounding (R83, R84) -/

/-- bitreverse5 of R84. -/
def bitrev5 (x : Nat) : Nat := 16 * (x % 2) + 8 * (x / 2 % 2) + 4 * (x / 4 % 2) + 2 * (x / 8 % 2) + x / 16 % 2

/-- Of the neighbours n and n + 1 of the magnitude n + r / q, is the greater one taken (R83, R84)? `t` is position plus
phase of DTH. -/
def roundsUp (m : Rnd) (t : Nat) (neg : Bool) (n r q : Nat) : Bool :=
  if r = 0 then false
  else match m with
    | .rne => q < 2 * r || (2 * r = q && n % 2 = 1)
    | .rtz => false
    | .rdn => neg
    | .rup => !neg
    | .rna => q ≤ 2 * r
    | .dth =>
      let th := 2 * bitrev5 (t % 32) + 1
      if neg then !(th * q ≤ 64 * (q - r)) else th * q ≤ 64 * r

/-- The magnitude m × 2^e in units of 2^u: its floor, and the remainder over a divisor. -/
def split (m : Nat) (e u : Int) : Nat × Nat × Nat :=
  if u ≤ e then (m * pow2 (e - u), 0, 1) else (m / pow2 (u - e), m % pow2 (u - e), pow2 (u - e))

/-- The magnitude rounded to a multiple of 2^u, in units of 2^u, and whether it was inexact. -/
def roundUnit (md : Rnd) (t : Nat) (neg : Bool) (m : Nat) (e u : Int) : Nat × Bool :=
  let (n, r, q) := split m e u
  (if roundsUp md t neg n r q then n + 1 else n, r ≠ 0)

/-- Is m × 2^e greater than m' × 2^e'? -/
def magGt (m : Nat) (e : Int) (m' : Nat) (e' : Int) : Bool :=
  let u := min e e'
  m' * pow2 (e' - u) < m * pow2 (e - u)

/-- A pattern with its sign. -/
def signed (f : FloatFmt) (neg : Bool) (p : Nat) : Nat :=
  match f.sgn with
  | some b => if neg then p + 2 ^ b else p
  | none => p

/-- What R86 gives for a finite magnitude that rounds above the largest finite value. -/
def overflowTo (f : FloatFmt) (md : Rnd) (neg : Bool) : Nat × Flags :=
  match f.inf with
  | none => (signed f neg f.big, fSAT ||| fNX)
  | some i =>
    let toInf := match md with
      | .rtz => false
      | .rdn => neg
      | .rup => !neg
      | .rne | .rna | .dth => true
    (signed f neg (if toInf then i else f.big), fOF ||| fNX)

/-- A non-zero finite value rounded to a float format (R83, R84, R86, R87). Into E5M3 every value above its largest
overflows, whatever it would round to (R138, log 36). -/
def roundFin (f : FloatFmt) (md0 : Rnd) (t : Nat) (neg : Bool) (m : Nat) (e : Int) : Nat × Flags :=
  let (bm, be) := match magOf f false f.big with | .fin _ bm be => (bm, be) | .nan _ | .inf _ => (0, 0)
  let md := if md0 = .dth && magGt m e bm be then .rne else md0
  let low : Int := 1 - f.bias
  let top : Int := m.log2 + e
  let (n, nx) := roundUnit md t neg m e (max top low - f.w)
  let p := ((max top low - low).toNat) * 2 ^ f.w + n
  if f.big < p || (f.sgn.isNone && magGt m e bm be) then overflowTo f md neg
  else
    let un := (roundUnit md t neg m e (top - f.w)).1
    let tiny := decide (top < low) && !(decide (top + 1 = low) && un = 2 ^ (f.w + 1))
    (signed f neg p, flagIf nx fNX ||| flagIf (nx && tiny) fUF)

/-- RoundTo for a float format (R127): the pattern and its flags. -/
def roundTo (f : FloatFmt) (md : Rnd) (t : Nat) (x : Num) : Nat × Flags :=
  match x with
  | .nan sig => (f.nan, flagIf sig fNV)
  | .inf neg =>
    match f.inf, f.sgn with
    | some i, _ => (signed f neg i, 0)
    | none, some _ => (signed f neg f.big, fSAT)
    | none, none => (if neg then 0 else f.big, fSAT)
  | .fin neg m e =>
    if m = 0 then (signed f neg 0, 0)
    else if neg && f.sgn.isNone then (0, fSAT ||| fNX)
    else roundFin f md t neg m e

/-- The bounds of an integer format (R69). -/
def intLo (w : Nat) (signed : Bool) : Int := if signed then -(2 ^ (w - 1) : Nat) else 0
def intHi (w : Nat) (signed : Bool) : Int := if signed then (2 ^ (w - 1) : Nat) - 1 else (2 ^ w : Nat) - 1

/-- Conversion to an integer format (R137, R86): the value and its flags. -/
def roundInt (w : Nat) (sg : Bool) (md0 : Rnd) (t : Nat) (x : Num) : Int × Flags :=
  match x with
  | .nan _ => (0, fNV)
  | .inf neg => (if neg then intLo w sg else intHi w sg, fSAT)
  | .fin neg m e =>
    if !sg && neg && m ≠ 0 then (0, fSAT ||| fNX)
    else
      let bound : Nat := if neg then (intLo w sg).natAbs else (intHi w sg).natAbs
      let md := if md0 = .dth && magGt m e bound 0 then .rne else md0
      let (n, nx) := roundUnit md t neg m e 0
      let v : Int := if neg then -(n : Int) else n
      if v < intLo w sg then (intLo w sg, fSAT ||| fNX)
      else if intHi w sg < v then (intHi w sg, fSAT ||| fNX)
      else (v, flagIf nx fNX)

/-- CVT for one lane (R137, R138): the bits of the destination as R71 places them, in 64 bits, and the flags. -/
def convert (src dst : Fmt) (md : Rnd) (t p : Nat) : DWord × Flags :=
  let x := valOf src p
  let sig := flagIf (isSig x) fNV
  match fmtFloat dst with
  | some f => let r := roundTo f md t x; (BitVec.ofNat 64 r.1, r.2 ||| sig)
  | none =>
    let (w, sg) := fmtInt dst
    let r := roundInt w sg md t x
    (if w = 64 then BitVec.ofInt 64 r.1 else (BitVec.ofInt 32 r.1).zeroExtend 64, r.2 ||| sig)

/-! ### Exact arithmetic (R74, R75, R93) -/

/-- A signed integer times 2^e; zero has the sign given. -/
def numOf (z : Bool) (x : Int) (e : Int) : Num := if x = 0 then .fin z 0 0 else .fin (decide (x < 0)) x.natAbs e

/-- The signed mantissa of a finite value. -/
def mant (neg : Bool) (m : Nat) : Int := if neg then -(m : Int) else m

/-- The sign of a value; a NaN has none. -/
def signOf (x : Num) : Bool := match x with | .nan _ => false | .inf n => n | .fin n _ _ => n

/-- Is the value a zero? -/
def isZero (x : Num) : Bool := match x with | .fin _ 0 _ => true | .nan _ | .inf _ | .fin .. => false

/-- The exact sum, with its flags; the mode decides the sign of an exact zero (R74). -/
def addNum (md : Rnd) (x y : Num) : Num × Flags :=
  match x, y with
  | .nan a, y => (.nan false, flagIf (a || isSig y) fNV)
  | x, .nan b => (.nan false, flagIf (b || isSig x) fNV)
  | .inf a, .inf b => if a = b then (.inf a, 0) else (.nan false, fNV)
  | .inf a, .fin .. => (.inf a, 0)
  | .fin .., .inf b => (.inf b, 0)
  | .fin n m e, .fin n' m' e' =>
    let u := min e e'
    let s := mant n m * pow2 (e - u) + mant n' m' * pow2 (e' - u)
    (numOf (if m = 0 && m' = 0 && n = n' then n else decide (md = .rdn)) s u, 0)

/-- The exact product, with its flags; its sign is the exclusive OR of the signs (R74). -/
def mulNum (x y : Num) : Num × Flags :=
  match x, y with
  | .nan a, y => (.nan false, flagIf (a || isSig y) fNV)
  | x, .nan b => (.nan false, flagIf (b || isSig x) fNV)
  | .fin n m e, .fin n' m' e' => (.fin (n != n') (m * m') (e + e'), 0)
  | x, y => if isZero x || isZero y then (.nan false, fNV) else (.inf (signOf x != signOf y), 0)

/-- The value with its sign inverted (R93). -/
def negNum (x : Num) : Num := match x with | .nan s => .nan s | .inf n => .inf !n | .fin n m e => .fin (!n) m e

/-- The exact x × y + z, with its flags (R129). -/
def fmaNum (md : Rnd) (x y z : Num) : Num × Flags :=
  let p := mulNum x y
  let r := addNum md p.1 z
  (r.1, p.2 ||| r.2)

/-- An operation rounded once, with the flags of both. -/
def rounded (f : FloatFmt) (md : Rnd) (r : Num × Flags) : Nat × Flags :=
  let q := roundTo f md 0 r.1
  (q.1, q.2 ||| r.2)

/-- The order of two values; none when either is a NaN (R131: the zeros are equal). -/
def cmpNum (x y : Num) : Option Ordering :=
  match x, y with
  | .nan _, _ => none
  | _, .nan _ => none
  | .inf a, .inf b => some (if a = b then .eq else if a then .lt else .gt)
  | .inf a, .fin .. => some (if a then .lt else .gt)
  | .fin .., .inf b => some (if b then .gt else .lt)
  | .fin n m e, .fin n' m' e' =>
    let u := min e e'
    some (compare (mant n m * pow2 (e - u)) (mant n' m' * pow2 (e' - u)))

/-- FMIN or FMAX on FP32 patterns (R130): a pattern and its flags. -/
def minMax (least : Bool) (a b : Nat) : Nat × Flags :=
  let x := floatVal f32Fmt a
  let y := floatVal f32Fmt b
  let fl := flagIf (isSig x || isSig y) fNV
  match cmpNum x y with
  | some .lt => (if least then a else b, fl)
  | some .gt => (if least then b else a, fl)
  | some .eq => (if signOf x = least then a else b, fl)
  | none => (if isNan x && isNan y then f32Fmt.nan else if isNan x then b else a, fl)

/-- FCMP (R54, R131, R88). -/
def fcmpNum (c : FCond) (x y : Num) : Bool × Flags :=
  let o := cmpNum x y
  let sig := flagIf (isSig x || isSig y) fNV
  match c with
  | .eq => (o = some .eq, sig)
  | .ne => (o ≠ some .eq, sig)
  | .lt => (o = some .lt, flagIf o.isNone fNV)
  | .le => (o = some .lt || o = some .eq, flagIf o.isNone fNV)
  | .un => (o.isNone, sig)
  | .num => (o.isSome, sig)

/-- The class bit of FCLASS (R132). -/
def classBit (p : Nat) : Nat :=
  match floatVal f32Fmt p with
  | .nan s => if s then 0 else 1
  | .inf n => if n then 2 else 9
  | .fin n m _ =>
    let c := if m = 0 then 2 else if m < 2 ^ 23 then 1 else 0
    if n then 3 + c else 8 - c

/-- FRND (R136): the FP32 pattern and its flags. -/
def integral (md : Rnd) (p : Nat) : Nat × Flags :=
  match floatVal f32Fmt p with
  | .nan s => (f32Fmt.nan, flagIf s fNV)
  | .inf n => (signed f32Fmt n 0x7F800000, 0)
  | .fin n m e =>
    let (k, nx) := roundUnit md 0 n m e 0
    ((roundTo f32Fmt .rne 0 (.fin n k 0)).1, flagIf nx fNX)

/-! ### Functions of R133

Each function gives either its exact value or a value with an odd last bit far below any bit that rounding to FP32
looks at (log 20): for a result that is not exact, rounding the one or the other is the same. -/

/-- The integer square root, one bit at a time from bit k down. -/
def isqrtFrom : Nat → Nat → Nat → Nat
  | 0, r, _ => r
  | k + 1, r, x => if (r + 2 ^ k) * (r + 2 ^ k) ≤ x then isqrtFrom k (r + 2 ^ k) x else isqrtFrom k r x
/-- The integer square root of a number below 2^1024. -/
def isqrt (x : Nat) : Nat := isqrtFrom (x.log2 / 2 + 1) 0 x

/-- A value just above n × 2^e. -/
def above (neg : Bool) (n : Nat) (e : Int) : Num := .fin neg (2 * n + 1) (e - 1)

/-- Is the number a power of two? -/
def isPow2 (m : Nat) : Bool := m ≠ 0 && 2 ^ m.log2 = m

/-- 1/x of a non-zero finite x. -/
def rcpFin (neg : Bool) (m : Nat) (e : Int) : Num :=
  if isPow2 m then .fin neg 1 (-(m.log2 : Int) - e) else above neg (2 ^ 128 / m) (-128 - e)

/-- The mantissa and exponent with an even exponent. -/
def evenExp (m : Nat) (e : Int) : Nat × Int := if e % 2 = 0 then (m, e) else (2 * m, e - 1)

/-- √x of a positive finite x. -/
def sqrtFin (m0 : Nat) (e0 : Int) : Num :=
  let (m, e) := evenExp m0 e0
  let r := isqrt (m * 2 ^ 128)
  if r * r = m * 2 ^ 128 then .fin false r (e / 2 - 64) else above false r (e / 2 - 64)

/-- 1/√x of a positive finite x. -/
def rsqFin (m0 : Nat) (e0 : Int) : Num :=
  let (m, e) := evenExp m0 e0
  if isPow2 m && m.log2 % 2 = 0 then .fin false 1 (-(m.log2 / 2 : Nat) - e / 2)
  else above false (isqrt (2 ^ 256 / m)) (-128 - e / 2)

/-- Bits of the fixed-point constants and series. -/
def fixBits : Nat := 320
/-- π × 2^320, truncated. -/
def fixPi : Nat := 6710401180212168915155840974220003240804194089427148950727106424351713218671805380099500388914039
/-- ln 2 × 2^320, truncated. -/
def fixLn2 : Nat := 1480553391661173448385607439722553250922680800745876974795605978609098082859138712941075737848984

/-- Terms of the series of e^y from the k-th on; t is the k-th. -/
def expSeries (y : Nat) : Nat → Nat → Nat → Nat → Nat
  | 0, _, _, acc => acc
  | n + 1, k, t, acc => expSeries y n (k + 1) (t * y / 2 ^ fixBits / (k + 1)) (acc + t)

/-- Terms of u + u^3/3 + u^5/5 + ... from the k-th on; t is u^(2k + 1). -/
def atanhSeries (u2 : Nat) : Nat → Nat → Nat → Nat → Nat
  | 0, _, _, acc => acc
  | n + 1, k, t, acc => atanhSeries u2 n (k + 1) (t * u2 / 2 ^ fixBits) (acc + t / (2 * k + 1))

/-- Terms of y - y^3/3! + ... from the k-th on; t is the size of the k-th. -/
def sinSeries (y2 : Nat) : Nat → Nat → Nat → Int → Int
  | 0, _, _, acc => acc
  | n + 1, k, t, acc =>
    sinSeries y2 n (k + 1) (t * y2 / 2 ^ fixBits / ((2 * k + 2) * (2 * k + 3))) (if k % 2 = 0 then acc + t else acc - t)

/-- 2^x of a finite x. -/
def exp2Fin (neg : Bool) (m : Nat) (e : Int) : Num :=
  if magGt m e 1024 0 then (if neg then above false 1 (-2048) else .fin false 1 2048)
  else
    let k := (-e).toNat
    let x : Int := mant neg (m * pow2 e)
    let n := x / (2 ^ k : Nat)
    let f := (x - n * (2 ^ k : Nat)).toNat
    if f = 0 then .fin false 1 n
    else above false (expSeries (f * fixLn2 / 2 ^ k) 80 0 (2 ^ fixBits) 0) (n - fixBits)

/-- log2 x of a positive finite x. -/
def log2Fin (m : Nat) (e : Int) : Num :=
  let k := m.log2
  if isPow2 m then numOf false (k + e) 0
  else
    let u := (m - 2 ^ k) * 2 ^ fixBits / (m + 2 ^ k)
    let ln := 2 * atanhSeries (u * u / 2 ^ fixBits) 110 0 u 0
    let t : Int := (k + e) * (2 ^ fixBits : Nat) + (ln * 2 ^ fixBits / fixLn2 : Nat)
    above (decide (t < 0)) t.natAbs (-fixBits)

/-- sin(πt) for 0 < t ≤ 1/2, t in units of 2^-k. -/
def sinOf (neg : Bool) (t k : Nat) : Num :=
  let y := t * fixPi / 2 ^ k
  above neg (sinSeries (y * y / 2 ^ fixBits) 40 0 y 0).toNat (-fixBits)

/-- sin(πx) of a finite x: the sine has period 2 and changes its sign after 1. -/
def sinpiFin (neg : Bool) (m : Nat) (e : Int) : Num :=
  let k := (-e).toNat
  let r := m * pow2 e % 2 ^ (k + 1)
  let s := if r < 2 ^ k then neg else !neg
  let t := r % 2 ^ k
  if t = 0 then .fin neg 0 0
  else if 2 * t = 2 ^ k then .fin s 1 0
  else sinOf s (if 2 ^ k < 2 * t then 2 ^ k - t else t) k

/-- cos(πx) of a finite x. -/
def cospiFin (m : Nat) (e : Int) : Num :=
  let k := (-e).toNat + 1
  let r0 := 2 * m * pow2 e % 2 ^ (k + 1)
  let r := if 2 ^ k < r0 then 2 ^ (k + 1) - r0 else r0
  let h := 2 ^ (k - 1)
  if r = 0 then .fin false 1 0
  else if r = 2 ^ k then .fin true 1 0
  else if r = h then .fin false 0 0
  else if r * 2 ^ 40 < 2 ^ k then .fin false (2 ^ 64 - 1) (-64)
  else if r < h then sinOf false (h - r) k else sinOf true (r - h) k

/-- The functions of R133. -/
inductive Fn where
  | rcp | rsq | sqrt | exp2 | log2 | sinpi | cospi
deriving DecidableEq, Repr

/-- f(x) with the flags of the special cases (R133). -/
def fnNum (f : Fn) (x : Num) : Num × Flags :=
  match f, x with
  | _, .nan s => (.nan false, flagIf s fNV)
  | .rcp, .inf n => (.fin n 0 0, 0)
  | .rcp, .fin n m e => if m = 0 then (.inf n, fDZ) else (rcpFin n m e, 0)
  | .rsq, .inf n => if n then (.nan false, fNV) else (.fin false 0 0, 0)
  | .rsq, .fin n m e => if m = 0 then (.inf n, fDZ) else if n then (.nan false, fNV) else (rsqFin m e, 0)
  | .sqrt, .inf n => if n then (.nan false, fNV) else (.inf false, 0)
  | .sqrt, .fin n m e => if m = 0 then (.fin n 0 0, 0) else if n then (.nan false, fNV) else (sqrtFin m e, 0)
  | .exp2, .inf n => (if n then .fin false 0 0 else .inf false, 0)
  | .exp2, .fin n m e => (exp2Fin n m e, 0)
  | .log2, .inf n => if n then (.nan false, fNV) else (.inf false, 0)
  | .log2, .fin n m e => if m = 0 then (.inf true, fDZ) else if n then (.nan false, fNV) else (log2Fin m e, 0)
  | .sinpi, .inf _ => (.nan false, fNV)
  | .sinpi, .fin n m e => (sinpiFin n m e, 0)
  | .cospi, .inf _ => (.nan false, fNV)
  | .cospi, .fin _ m e => (cospiFin m e, 0)

/-- A function of R133 on an FP32 pattern: the pattern and the flags. -/
def fn32 (f : Fn) (p : Nat) : Nat × Flags := rounded f32Fmt .rne (fnNum f (floatVal f32Fmt p))

end Sys2Proof.Machine
end

