-- ==== Sys2Proof/Tables.lean ====
section
/-! DEFINITION. The records that system software, the host and the environment hand to the machine: table entries
written by Sweolo (R294, R307, R313, R315, R371, R376), packets and inbound operations (R370, R372, R375), error
sites (R355), fences (R361), sensor readings (R408, R409) and firmware images (R382, R403). -/
namespace Sys2Proof

/-- A range register (R294). -/
structure RangeReg where
  v : Bool
  rp : Bool
  wp : Bool
  xp : Bool
  remote : Bool
  /-- virtual address bits [56:16] of the first byte -/
  vbase : BitVec 41
  /-- virtual address bits [56:16] of the last 64 KiB unit -/
  vlast : BitVec 41
  /-- IA bits [51:16] of the first byte -/
  iabase : BitVec 36
deriving DecidableEq, Repr, Inhabited

/-- A leaf of a second-stage table (R307) with the level it stands at (R306: 0 for 64 GiB, 3 for 64 KiB). -/
structure Leaf where
  v : Bool
  level : Fin 4
  res : Bool
  rp : Bool
  wp : Bool
  xp : Bool
  ab : Bool
  db : Bool
  keyix : Byte
  /-- die-local frame offset F, bits [53:16] of the entry -/
  frame : BitVec 38
deriving DecidableEq, Repr, Inhabited

/-- A queue descriptor as Sweolo writes it (R315); TAIL, START and HEAD are the machine's. -/
structure QueueDesc where
  v : Bool
  task : Bool
  pri : BitVec 3
  tenant : BitVec 6
  log2n : BitVec 5
  base : BitVec 52
  cbase : BitVec 52
deriving DecidableEq, Repr, Inhabited

/-- A tenant-table entry (R371); `qmap` is the address, in the protected region, of the bitmap of its queues. -/
structure TenantEntry where
  v : Bool
  keyix : Byte
  job : BitVec 24
  sdi : BitVec 16
  parts : BitVec 64
  qmap : DWord
deriving DecidableEq, Repr, Inhabited

/-- What Sweolo writes of a tenant (R371): its entry, and the bitmap that its QMAP names, bit q for queue q. -/
structure TenantWrite where
  entry : TenantEntry
  queues : BitVec 4096
deriving DecidableEq, Repr, Inhabited

/-- A partition descriptor (R376). -/
structure PartDesc where
  v : Bool
  tenant : BitVec 6
  savei : BitVec 10
  marki : BitVec 9
  clusters : BitVec 64
  owned : BitVec 64
  banks : BitVec 256
  channels : BitVec 384
  engines : BitVec 24
deriving DecidableEq, Repr, Inhabited

/-- What Sweolo writes of a partition: its descriptor, and the bytes of its undo log (R348, R376). -/
structure PartWrite where
  desc : PartDesc
  log : Nat
deriving DecidableEq, Repr, Inhabited

/-- A remote-memory table entry (R313). -/
structure RemoteEntry where
  v : Bool
  rp : Bool
  wp : Bool
  endpoint : Word
  iabase : BitVec 52
  last : DWord
  raddr : DWord
deriving DecidableEq, Repr, Inhabited

/-- The structures that hold a consumed uncorrectable error (R342, R355). -/
inductive Struck where
  | memory | metadata | register | buffer | matrix | context | unknown
deriving DecidableEq, Repr, Inhabited

/-- The send header of an operation on Ultra Ethernet (R370). -/
structure SendHeader where
  origin : Word
  launch : DWord
  name : DWord
  n : DWord
  key : BitVec 4
  spn : Bool
deriving DecidableEq, Repr, Inhabited

/-- An uncorrectable error that a launch consumes (R342, R357): the launch, the logical name of the thread, whether that is a spawn
serial, and the structure that held the error. -/
structure Consumed where
  launch : DWord
  name : DWord
  spn : Bool
  what : Struck
deriving DecidableEq, Repr, Inhabited

/-- What is asked of a trace session beside its partition and buffer: the sampling period in µs, and that its requester is the
management job (R386, R388, R392). -/
structure SessionAsk where
  period : Option Nat
  mgmt : Bool
deriving DecidableEq, Repr, Inhabited

/-- A launch packet as it reaches an I/O die (R372): the port at which it arrives (R369), its job and secure domain, its header,
its length and its 136 bytes, byte i in bits [8i+7:8i]. -/
structure Packet where
  port : Fin 16
  job : BitVec 24
  sdi : BitVec 16
  hdr : SendHeader
  len : Nat
  bytes : BitVec 1088
deriving DecidableEq, Repr, Inhabited

/-- An inbound RMA operation (R375), with the port at which it arrives (R369). -/
structure Inbound where
  port : Fin 16
  job : BitVec 24
  sdi : BitVec 16
  hdr : SendHeader
  ia : BitVec 52
  /-- bytes written; empty for a read -/
  data : List Byte
  /-- bytes read; 0 for a write -/
  len : Nat
deriving DecidableEq, Repr, Inhabited

/-- A second-stage entry to be written: the level of its table, and its 64 bits (R306, R307). -/
structure EntryWrite where
  level : Fin 4
  entry : DWord
deriving DecidableEq, Repr, Inhabited

/-- Where a soft error strikes (R355). -/
inductive ErrorSite where
  /-- device memory or a last-level cache line: a physical byte address -/
  | memory (phys : Nat)
  | l1 (die core : Nat) (line : Nat)
  | register (wave : Nat) (lane : Lane) (reg : Nat)
  | abuf (group off : Nat)
  | wbuf (group off : Nat)
  | cbuf (group off : Nat)
  | pageTable (part : Nat)
  /-- a replica that a die holds of the line of an IA -/
  | replica (die line : Nat)
  /-- the context of a saved group in memory -/
  | context (group : Nat)
  /-- a Campion entry, range-lock table or queue-controller cache used by a partition -/
  | partStructure (part : Nat)
deriving DecidableEq, Repr, Inhabited

/-- A fenced part (R361): a link of a die boundary, a link of a port, a die-boundary router, a peer endpoint; or an HBM4E channel
that failed its training (R402). -/
inductive FenceId where
  | boundaryLink (boundary link : Nat)
  | portLink (port : Nat)
  | router (die : Nat)
  | peer (tenant : Nat) (endpoint : Word)
  | channel (n : Nat)
deriving DecidableEq, Repr, Inhabited

/-- What fails while the module boots (R402): key slot 0 or the zeroing of the protected region, and the parts that step 4 fences. -/
structure BootFailures where
  step2 : Bool
  parts : List FenceId
deriving DecidableEq, Repr, Inhabited

/-- A firmware image offered to the module (R382): which of the three images, its security version, the root slot
whose key signed it, and whether the ML-DSA-87 signature over its SHA3-512 digest verifies. -/
structure Image where
  /-- 0 Sweolo, 1 I/O dies, 2 compute dies -/
  which : Fin 3
  version : Nat
  root : Fin 4
  sigOk : Bool
deriving DecidableEq, Repr, Inhabited

/-- Sensor readings that Sweolo reports or acts on (R408, R409); temperatures in °C, power in W, flow in mL/min. -/
structure Readings where
  modulePower : Nat
  diePower : List Nat
  dieTemp : List Nat
  coolantIn : Nat
  coolantOut : Nat
deriving DecidableEq, Repr, Inhabited

/-- Why the module shuts down (R409). -/
inductive ThermalCause where
  | dieTemp (die temp : Nat)
  | inletTemp (temp : Nat)
  | flow (mLPerMin : Nat) (ms : Nat)
deriving DecidableEq, Repr, Inhabited

/-- Why module reset is applied (R402). -/
inductive ResetCause where
  | powerGood | resetLine | management
deriving DecidableEq, Repr, Inhabited

/-- What Sweolo finds for each operating point of a die when it chooses one (R407): the module power averaged over 1 ms and the
die's temperature at that point, and whether the supply current limits are kept. -/
structure Forecast where
  watts : Vector Nat 8
  celsius : Vector Nat 8
  current : Vector Bool 8
deriving DecidableEq, Repr, Inhabited

/-- Why a clock lock is broken (R390 type 0x0D, R401). -/
inductive BreakCause where
  | temperature | power | current | sweolo
deriving DecidableEq, Repr, Inhabited

/-- Inbound traffic that the module does not support (R369). -/
inductive BadPacket where
  | rudi | uud | unsecured | atomic
deriving DecidableEq, Repr, Inhabited

/-- The algorithms that the module negotiates (R383). -/
inductive SignAlgo where
  | mlDsa87
deriving DecidableEq, Repr, Inhabited
inductive HashAlgo where
  | sha3_512
deriving DecidableEq, Repr, Inhabited

/-- Who asks for an SPDM measurement block (R384): the management job, or a secure domain. -/
inductive Requester where
  | management
  | domain (sdi : BitVec 16)
deriving DecidableEq, Repr, Inhabited

end Sys2Proof
end

