-- ==== Sys2Proof/Config.lean ====
section
/-! DEFINITION. What the module fixes (R1) and the free values: constants without a body, which stand for values the
spec leaves open. -/
namespace Sys2Proof.Config

/-- Compute dies of the module (R1). -/
def dies : Nat := 4
/-- Cores of a die (R1). -/
def cores : Nat := 64
/-- Wave slots of a quadrant (R1). -/
def slotsPerQuad : Nat := 16
/-- Register blocks of a quadrant: 1,024 wave-registers of 32 (R1, R115). -/
def blocksPerQuad : Nat := 32
/-- Entries of a core's tile table (R1, R292). -/
def tileEntries : Nat := 64
/-- Buckets of a spawn gatherer (R325). -/
def buckets : Nat := 16
/-- Instructions after which a run ends (R16). -/
def runLimit : Nat := 24
/-- Spin count at which a run is redirected (R19). -/
def spinLimit : Nat := 64
/-- Levels of a return stack that the chip holds (R35). -/
def chipLevels : Nat := 16
/-- Levels written or read back together (R35). -/
def spillLevels : Nat := 8
/-- Command words of a queue register (R212). -/
def commandWords : Nat := 64
/-- Completion words of a queue register (R212). -/
def completionWords : Nat := 16
/-- Entries of a die's range-lock table (R216). -/
def rangeEntries : Nat := 256
/-- Bytes of a channel that frames use, 1,984 MiB (R272, R308). -/
def frameBytes : Nat := 1984 * 2 ^ 20
/-- Bytes of a channel, 2 GiB (R308). -/
def channelBytes : Nat := 2 ^ 31
/-- Channels of a die (R308). -/
def channelsPerDie : Nat := 96
/-- The first physical byte of the protected region that holds tables and rings (R306): DESIGN CHOICE, log 63. -/
def protectBase : Nat := 2 ^ 39
/-- Bytes of an I/O die's held buffer (R351). -/
def heldBuffer : Nat := 64 * 2 ^ 20
/-- Bytes of the held buffer that a partition's outbound effects may take (R351; its share is the whole: log 66). -/
def heldShare : Nat := heldBuffer
/-- Bytes of a partition's undo log (R348: Sweolo sets it; DESIGN CHOICE, log 72). -/
def undoLog : Nat := 64 * 2 ^ 20
/-- Bytes of a level-0, level-1, level-2 or level-3 table (R306). -/
def tableBytes (l : Nat) : Nat := 8 * (if l = 0 then 4096 else if l = 1 then 128 else if l = 2 then 256 else 32)
/-- Entries of a core's page-attribute cache (R309). -/
def pacEntries : Nat := 256
/-- Entries of a page-request ring (R311). -/
def ringEntries : Nat := 4096
/-- Main clock of each operating point in MHz (R406). -/
def clockMHz : List Nat := [500, 800, 1000, 1200, 1400, 1600, 1800, 2000]
/-- Module power limit in W (R401, R408). -/
def powerLimit : Nat := 2600

/-- FREE VALUE: the cycles counted when a cycle counter is read (R228: the number of cycles an instruction takes is
not given), and the value of a counter that counts cycles or slots. -/
opaque freeCount : Nat → DWord

/-- FREE VALUE: a byte that a peer module or the host holds at a remote address when a remote load reads it (R313). -/
opaque freeByte : Nat → Byte

/-- FREE VALUE: a line with its metadata word, encrypted under one key and read under another (R381: which bits come
out is not given): the key it was written under, the key it is read under, its physical address, and its contents. -/
opaque garble : BitVec 512 → BitVec 512 → Nat → BitVec 528 → BitVec 528

/-- FREE VALUE: the 512-bit key of each draw of the module's random bit generator (R380). -/
opaque keyBits : Nat → BitVec 512

/-- FREE VALUE: which outbound SPDM value the module answers (certificate chain, digests, signature: R383 and R384
name their kinds and lengths, not their bits), for a request kind and its arguments. -/
opaque spdmValue : Nat → Nat → List Byte

/-- FREE VALUE: byte k of the signature of a challenge (R383: 4,627 bytes, which the identity key decides), for its nonce. -/
opaque signatureByte : Nat → Nat → Byte

/-- FREE VALUE: the digest of the public key in each root slot of the fuses (R382). -/
opaque rootDigest : Fin 4 → BitVec 512

/-- FREE VALUE: the I/O die whose held buffer takes a partition's outbound effects (R351: the spec does not say which, log 66). -/
opaque heldDie : Nat → Fin 2

/-- FREE VALUE: the module's identifier in its send headers (R370). -/
opaque moduleId : BitVec 32

/-- FREE VALUE: the SHA3-512 digest of a measured text (R384). -/
opaque sha3_512 : List Nat → BitVec 512

/-- FREE VALUE: where the waiter record of a lane of a wave lies in its partition's context area (R276): the partition, the
model's number of the wave, the lane. -/
opaque waiterRecord : Nat → Nat → Nat → DWord

/-- FREE VALUE: a byte of a saved context in the partition's context area (R291, R330: its form is not given): the number
of the save and the byte's offset. -/
opaque contextByte : Nat → Nat → Byte

/-- FREE VALUE: the 64 KiB pieces that the snapshot area of a partition has room for (R358: its size is not given). -/
opaque snapshotArea : Nat → Nat

end Sys2Proof.Config
end

