-- ==== Sys2Proof/Syntax.lean ====
section
/-! DEFINITION. The ONE instruction type: one constructor per row of spec/opcode_table.json. The first 157 are
the 32-bit instruction words of R52 to R64, with the fields of their words (`e` ends the run, `k` keeps the
destination unwritten). The others are the rows that have no word: the steps of the machine's other agents, of the
I/O dies, of Sweolo and of the outside (95_what_each_step_holds.md), with what names the step. A wave, a group, a
launch and a partition are named by their numbers; a `die`, `core` (0 to 63 in its die), `quad` and `slot` by
their place. -/
namespace Sys2Proof

inductive Instr where
  /-- Adds two 32-bit registers per lane, modulo 2^32 (R98) -/
  | addS32 (e k : Bool) (d a b : Reg)
  /-- Subtracts two 32-bit registers per lane (R98) -/
  | subS32 (e k : Bool) (d a b : Reg)
  /-- Multiplies two 32-bit registers per lane and keeps the low 32 bits (R98) -/
  | mulS32 (e k : Bool) (d a b : Reg)
  /-- Writes the high 32 bits of the signed product (R98) -/
  | mulhS32 (e k : Bool) (d a b : Reg)
  /-- Writes the high 32 bits of the unsigned product (R98) -/
  | mulhZ32 (e k : Bool) (d a b : Reg)
  /-- Writes the signed minimum of two registers (R98) -/
  | minS32 (e k : Bool) (d a b : Reg)
  /-- Writes the signed maximum of two registers (R98) -/
  | maxS32 (e k : Bool) (d a b : Reg)
  /-- Writes the unsigned minimum of two registers (R98) -/
  | minZ32 (e k : Bool) (d a b : Reg)
  /-- Writes the unsigned maximum of two registers (R98) -/
  | maxZ32 (e k : Bool) (d a b : Reg)
  /-- Signed division rounding toward zero, with defined results and DZ for a zero divisor (R99) -/
  | divS32 (e k : Bool) (d a b : Reg)
  /-- Unsigned division, with defined results and DZ for a zero divisor (R99) -/
  | divZ32 (e k : Bool) (d a b : Reg)
  /-- Signed remainder x − y × DIV(x, y) (R99) -/
  | remS32 (e k : Bool) (d a b : Reg)
  /-- Unsigned remainder (R99) -/
  | remZ32 (e k : Bool) (d a b : Reg)
  /-- Writes the absolute value of a signed 32-bit register (R98) -/
  | absS32 (e k : Bool) (d a : Reg)
  /-- Negates a 32-bit register (R98) -/
  | negS32 (e k : Bool) (d a : Reg)
  /-- Counts the 1 bits of a register (R98) -/
  | popc (e k : Bool) (d a : Reg)
  /-- Bitwise AND of two registers (R98) -/
  | andB32 (e k : Bool) (d a b : Reg)
  /-- Bitwise OR of two registers (R98) -/
  | orB32 (e k : Bool) (d a b : Reg)
  /-- Bitwise XOR of two registers (R98) -/
  | xorB32 (e k : Bool) (d a b : Reg)
  /-- Bitwise x AND NOT y (R98) -/
  | andnB32 (e k : Bool) (d a b : Reg)
  /-- Shifts left by a register count (R100) -/
  | shlB32 (e k : Bool) (d a b : Reg)
  /-- Shifts right, zero-filled, by a register count (R100) -/
  | shrB32 (e k : Bool) (d a b : Reg)
  /-- Shifts right, sign-filled, by a register count (R100) -/
  | shraS32 (e k : Bool) (d a b : Reg)
  /-- Rotates left by a register count modulo 32 (R100) -/
  | rotB32 (e k : Bool) (d a b : Reg)
  /-- Counts the leading zero bits of a register (R98) -/
  | clz (e k : Bool) (d a : Reg)
  /-- Reverses the bits of a register (R98) -/
  | brev (e k : Bool) (d a : Reg)
  /-- Extracts a sign-extended bit field (R101) -/
  | bfxS32 (e k : Bool) (d a b : Reg)
  /-- Extracts a zero-extended bit field (R101) -/
  | bfxZ32 (e k : Bool) (d a b : Reg)
  /-- Inserts a bit field into the old destination (R101) -/
  | bfi (e k : Bool) (d a b : Reg)
  /-- Writes x × y + old d, modulo 2^32 (R98) -/
  | madS32 (e k : Bool) (d a b : Reg)
  /-- Copies a register (R98) -/
  | mov (e k : Bool) (d a : Reg)
  /-- Adds two register pairs modulo 2^64 (R102) -/
  | addS64 (e k : Bool) (d a b : Reg)
  /-- Subtracts two register pairs (R102) -/
  | subS64 (e k : Bool) (d a b : Reg)
  /-- Multiplies two pairs, keeping the low 64 bits (R102) -/
  | mulS64 (e k : Bool) (d a b : Reg)
  /-- Signed 64-bit minimum (R102) -/
  | minS64 (e k : Bool) (d a b : Reg)
  /-- Signed 64-bit maximum (R102) -/
  | maxS64 (e k : Bool) (d a b : Reg)
  /-- Unsigned 64-bit minimum (R102) -/
  | minZ64 (e k : Bool) (d a b : Reg)
  /-- Unsigned 64-bit maximum (R102) -/
  | maxZ64 (e k : Bool) (d a b : Reg)
  /-- Negates a register pair (R102) -/
  | negS64 (e k : Bool) (d a : Reg)
  /-- Shifts a pair left by a single-register count (R102) -/
  | shlB64 (e k : Bool) (d a b : Reg)
  /-- Shifts a pair right, zero-filled (R102) -/
  | shrB64 (e k : Bool) (d a b : Reg)
  /-- Shifts a pair right, sign-filled (R102) -/
  | shraS64 (e k : Bool) (d a b : Reg)
  /-- Writes bits [127:64] of the signed 64-bit product (R102) -/
  | mulhS64 (e k : Bool) (d a b : Reg)
  /-- Writes bits [127:64] of the unsigned 64-bit product (R102) -/
  | mulhZ64 (e k : Bool) (d a b : Reg)
  /-- Absolute value of a signed pair (R102) -/
  | absS64 (e k : Bool) (d a : Reg)
  /-- Writes x × y + old d on pairs, modulo 2^64 (R102) -/
  | madS64 (e k : Bool) (d a b : Reg)
  /-- Writes pair a + (sign-extended b << minor), modulo 2^64 (R104) -/
  | lea (e k : Bool) (d a b : Reg) (s : Fin 8)
  /-- Selects a or b per lane by a predicate (R105) -/
  | sel (e k : Bool) (d a b : Reg) (p : Fin 8)
  /-- Compares two 32-bit registers and writes a predicate (R106) -/
  | cmp32 (e : Bool) (d : Pred) (a b : Reg) (c : Cond)
  /-- Compares two register pairs and writes a predicate (R106) -/
  | cmp64 (e : Bool) (d : Pred) (a b : Reg) (c : Cond)
  /-- Shifts left by an immediate count held in the b field (R100) -/
  | shlB32Imm (e k : Bool) (d a : Reg) (n : BitVec 7)
  /-- Shifts right, zero-filled, by an immediate count (R100) -/
  | shrB32Imm (e k : Bool) (d a : Reg) (n : BitVec 7)
  /-- Shifts right, sign-filled, by an immediate count (R100) -/
  | shraS32Imm (e k : Bool) (d a : Reg) (n : BitVec 7)
  /-- Rotates left by an immediate count (R100) -/
  | rotB32Imm (e k : Bool) (d a : Reg) (n : BitVec 7)
  /-- Shifts a pair left by an immediate count (R100) -/
  | shlB64Imm (e k : Bool) (d a : Reg) (n : BitVec 7)
  /-- Shifts a pair right, zero-filled, by an immediate count (R100) -/
  | shrB64Imm (e k : Bool) (d a : Reg) (n : BitVec 7)
  /-- Shifts a pair right, sign-filled, by an immediate count (R100) -/
  | shraS64Imm (e k : Bool) (d a : Reg) (n : BitVec 7)
  /-- Adds a signed 10-bit immediate (R103) -/
  | addS32Imm (e k : Bool) (d a : Reg) (i : BitVec 10)
  /-- Multiplies by a signed 10-bit immediate (R103) -/
  | mulS32Imm (e k : Bool) (d a : Reg) (i : BitVec 10)
  /-- Writes a sign-extended 17-bit immediate (R103) -/
  | ldi (e k : Bool) (d : Reg) (i : BitVec 17)
  /-- Writes an immediate into bits [31:16], keeping bits [15:0] (R103) -/
  | ldhi (e k : Bool) (d : Reg) (i : BitVec 16)
  /-- FP32 add with one rounding in the coded mode (R129) -/
  | fadd (e k : Bool) (d a b : Reg) (r : Rnd)
  /-- FP32 subtract with one rounding (R129) -/
  | fsub (e k : Bool) (d a b : Reg) (r : Rnd)
  /-- FP32 multiply with one rounding (R129) -/
  | fmul (e k : Bool) (d a b : Reg) (r : Rnd)
  /-- FP32 fused multiply-add with d as addend, one rounding (R129) -/
  | ffma (e k : Bool) (d a b : Reg) (r : Rnd)
  /-- FP32 minimum returning an operand pattern or canonical NaN (R130) -/
  | fmin (e k : Bool) (d a b : Reg)
  /-- FP32 maximum returning an operand pattern or canonical NaN (R130) -/
  | fmax (e k : Bool) (d a b : Reg)
  /-- Correctly rounded reciprocal (R133) -/
  | frcp (e k : Bool) (d a : Reg)
  /-- Correctly rounded reciprocal square root (R133) -/
  | frsq (e k : Bool) (d a : Reg)
  /-- Correctly rounded square root (R133) -/
  | fsqrt (e k : Bool) (d a : Reg)
  /-- Correctly rounded 2^x (R133) -/
  | fexp2 (e k : Bool) (d a : Reg)
  /-- Correctly rounded log2 x (R133) -/
  | flog2 (e k : Bool) (d a : Reg)
  /-- Correctly rounded sin(πx) (R133) -/
  | fsinpi (e k : Bool) (d a : Reg)
  /-- Correctly rounded cos(πx) (R133) -/
  | fcospi (e k : Bool) (d a : Reg)
  /-- Writes a one-hot mask of the FP32 class of the operand (R132) -/
  | fclass (e k : Bool) (d a : Reg)
  /-- Adds packed FP16 pairs (R134) -/
  | hadd2 (e k : Bool) (d a b : Reg)
  /-- Multiplies packed FP16 pairs (R134) -/
  | hmul2 (e k : Bool) (d a b : Reg)
  /-- Fused multiply-add on packed FP16 pairs with d as addend (R134) -/
  | hfma2 (e k : Bool) (d a b : Reg)
  /-- Accumulates four signed byte products into d (R135) -/
  | dot4S8 (e k : Bool) (d a b : Reg)
  /-- Accumulates four unsigned byte products into d (R135) -/
  | dot4Z8 (e k : Bool) (d a b : Reg)
  /-- Compares two FP32 values and writes a predicate (R131) -/
  | fcmp (e : Bool) (d : Pred) (a b : Reg) (c : FCond)
  /-- Converts between formats with source code 0 to 7 (R137) -/
  | cvt (e k : Bool) (d a : Reg) (f : Fmt) (r : Rnd) (s : Fin 8)
  /-- Converts between formats with source code 8 to 15 (R137) -/
  | cvtFloatSource (e k : Bool) (d a : Reg) (f : Fmt) (r : Rnd) (s : Fin 8)
  /-- Rounds an FP32 value to an integral FP32 value (R136) -/
  | frnd (e k : Bool) (d a : Reg) (r : Rnd)
  /-- Reads a register from another lane by idx, up, down or xor mode (R109) -/
  | shfl (e k : Bool) (d a b : Reg) (m : Shfl)
  /-- Writes the OR of a predicate over EXEC (R110) -/
  | voteAny (e : Bool) (d a : Pred)
  /-- Writes the AND of a predicate over EXEC (R110) -/
  | voteAll (e : Bool) (d a : Pred)
  /-- Writes a 32-bit mask of lanes whose predicate is true (R110) -/
  | voteBallot (e k : Bool) (d : Reg) (a : Pred)
  /-- Writes true when a register is equal in every lane of EXEC (R110) -/
  | voteEq (e : Bool) (d : Pred) (a : Reg)
  /-- Writes a reduction over EXEC to every lane (R111) -/
  | wred (e k : Bool) (d a : Reg) (o : RedOp)
  /-- Writes an inclusive or exclusive scan over EXEC (R111) -/
  | wscan (e k : Bool) (d a : Reg) (x : Bool) (o : RedOp)
  /-- Sets a predicate to register ≠ 0 (R108) -/
  | pmovR2p (e : Bool) (d : Pred) (a : Reg)
  /-- Writes 1 or 0 from a predicate into a register (R108) -/
  | pmovP2r (e k : Bool) (d : Reg) (a : Pred)
  /-- Predicate AND (R108) -/
  | pmovAnd (e : Bool) (d a b : Pred)
  /-- Predicate OR (R108) -/
  | pmovOr (e : Bool) (d a b : Pred)
  /-- Predicate XOR (R108) -/
  | pmovXor (e : Bool) (d a b : Pred)
  /-- Predicate a AND NOT b (R108) -/
  | pmovAndn (e : Bool) (d a b : Pred)
  /-- Predicate NOT (R108) -/
  | pmovNot (e : Bool) (d a : Pred)
  /-- Sets the register window base block (R114) -/
  | winb (e : Bool) (n : Fin 8)
  /-- Claims n extension register blocks, waiting or trapping as needed (R115) -/
  | rclaim (e : Bool) (n : Fin 8)
  /-- Returns the n highest-numbered register blocks (R116) -/
  | rgive (e : Bool) (n : Fin 8)
  /-- Sends every lane of EXEC to the target (R117) -/
  | bra (e : Bool) (o : BitVec 20)
  /-- Branches the lanes whose predicate matches the sense (R117) -/
  | brp (e : Bool) (p : Fin 8) (s : Bool) (o : BitVec 20)
  /-- Pushes a return entry, raises depth and branches, spilling as needed (R120) -/
  | call (e : Bool) (o : BitVec 20)
  /-- Calls through a per-lane target pair (R120) -/
  | callr (e : Bool) (a : Reg)
  /-- Pops the return entry, lowers depth and releases colours acquired at that depth (R121) -/
  | ret (e : Bool)
  /-- Exits lanes, releases their colours and decrements spawned lanes' join counters (R122) -/
  | exit (e : Bool)
  /-- Changes no state (R123) -/
  | nop (e : Bool)
  /-- Loads from global memory per lane after the checks of R42 (R145) -/
  | ld (e k : Bool) (d a : Reg) (o : BitVec 7) (v : LdW)
  /-- Loads from global memory and writes a residency predicate (R145) -/
  | ldR (e k : Bool) (d a : Reg) (p : Fin 8) (o : BitVec 4) (v : LdW)
  /-- Stores to global memory per lane (R146) -/
  | st (e : Bool) (d a : Reg) (o : BitVec 7) (v : StW)
  /-- Loads from the A-buffer or a peer's A-buffer (R147) -/
  | lda (e k : Bool) (d a : Reg) (o : BitVec 7) (s : Bool) (w : BufW)
  /-- Stores to the A-buffer or a peer's A-buffer (R147) -/
  | sta (e : Bool) (d a : Reg) (o : BitVec 7) (s : Bool) (w : BufW)
  /-- Reads raw accumulator words from a C tile (R148) -/
  | ldc (e k : Bool) (d a : Reg) (o : BitVec 7) (w : LdcW)
  /-- Hints a line into L1 and the last-level cache (R152) -/
  | prefL1 (e : Bool) (a : Reg) (o : BitVec 7)
  /-- Hints a line into the last-level cache (R152) -/
  | prefLlc (e : Bool) (a : Reg) (o : BitVec 7)
  /-- Requests residency of each lane's page (R153) -/
  | pagereq (e : Bool) (a : Reg) (o : BitVec 7)
  /-- Sets the colour of a range of granules (R155) -/
  | colour (e : Bool) (d a : Reg) (o : BitVec 7)
  /-- Sets the tag key of a range of granules (R155) -/
  | tagset (e : Bool) (d a : Reg) (o : BitVec 7)
  /-- Reads a granule's metadata word (R156) -/
  | tagget (e k : Bool) (d a : Reg) (o : BitVec 7)
  /-- Performs REL then ACQ at the scope (R158) -/
  | fence (e : Bool) (s : Scope)
  /-- Acquire at the scope (R158) -/
  | acq (e : Bool) (s : Scope)
  /-- Release at the scope (R158) -/
  | rel (e : Bool) (s : Scope)
  /-- Joins the group to a sharing group by key and writes a status word (R160) -/
  | cjoin (e k : Bool) (d : Reg)
  /-- Removes the group from its sharing group (R162) -/
  | cleave (e : Bool)
  /-- Atomic 32-bit integer or logic operation returning the old value (R176) -/
  | atomInt (e k : Bool) (d a : Reg) (s : Scope) (o : BitVec 4) (v : RedOp)
  /-- Atomic exchange, compare-and-swap, float or 64-bit operation (R176) -/
  | atomExt (e k : Bool) (d a : Reg) (s : Scope) (o : BitVec 4) (v : AtomX)
  /-- Reduction with the 32-bit integer operations, returning nothing (R176) -/
  | redInt (e : Bool) (d a : Reg) (s : Scope) (o : BitVec 4) (v : RedOp)
  /-- Reduction with float or 64-bit add operations (R176) -/
  | redExt (e : Bool) (d a : Reg) (s : Scope) (o : BitVec 4) (v : RedX)
  /-- Adds n to a semaphore with a release and grants waiters (R177) -/
  | semsig (e : Bool) (d a : Reg) (s : Scope) (o : BitVec 4)
  /-- Takes n from a semaphore or queues and parks in FIFO order (R177) -/
  | semwait (e : Bool) (d a : Reg) (s : Scope) (o : BitVec 4)
  /-- Takes n from a semaphore or traps SEM_UNDER (R177) -/
  | semtake (e : Bool) (d a : Reg) (s : Scope) (o : BitVec 4)
  /-- Creates spawn records per lane, raising join counters, with a success predicate (R183) -/
  | spawn (e : Bool) (n : BitVec 5) (c : Fin 4) (j t : Reg) (p : Fin 8)
  /-- Waits until a join counter is at or below a threshold (R188) -/
  | joinw (e : Bool) (d a : Reg) (o : BitVec 7)
  /-- Arrives at the group barrier with a release and parks (R180) -/
  | bar (e : Bool)
  /-- Releases colours and waits on a condition word (R181) -/
  | cwait (e : Bool) (d a : Reg) (o : BitVec 7)
  /-- Increments a condition word and wakes up to n waiters (R182) -/
  | csig (e : Bool) (d a : Reg) (o : BitVec 7)
  /-- Appends a task record to a task queue (R189) -/
  | enqt (e : Bool) (d a : Reg) (o : BitVec 7)
  /-- Arrives at the gang rendezvous for a dense matrix multiply-accumulate (R202) -/
  | mma (e : Bool) (a b c : Fin 64) (j : Fin 4) (s : Fin 16)
  /-- Arrives at the gang rendezvous for a doubly sparse matrix multiply-accumulate (R202) -/
  | mmas (e : Bool) (a b c : Fin 64) (j : Fin 4) (s : Fin 16)
  /-- Clears a C tile with its checksums and flags (R206) -/
  | cinit (e : Bool) (c : Fin 64)
  /-- Checks and converts a C tile into an A tile (R210) -/
  | cdrain (e : Bool) (a c : Fin 64) (r : Rnd)
  /-- Defines or releases a tile from a descriptor quad (R196) -/
  | tdef (e : Bool) (t : Fin 64) (q : Reg)
  /-- Sets a tile's state (R199) -/
  | tset (e : Bool) (t : Fin 64) (s : TileState)
  /-- Sets the wave's checksum mode (R209) -/
  | ckmode (e : Bool) (m : BitVec 3)
  /-- Binds a queue register to an engine (R211) -/
  | qbind (e : Bool) (q : Fin 8) (g i : BitVec 3)
  /-- Reads the state of a queue register (R214) -/
  | qstat (e k : Bool) (q : Fin 8) (d : Reg)
  /-- Reads a special register (R227) -/
  | srd (e k : Bool) (d : Reg) (i : BitVec 8)
  /-- Writes a special register under its access rules (R227) -/
  | swr (e : Bool) (s : Reg) (i : BitVec 8)
  /-- Raises TRAP with a code in every lane of EXEC (R221) -/
  | trap (e : Bool) (c : BitVec 14)
  /-- Ends handler lanes and, when the handler ends, resumes the wave at RPC (R226) -/
  | rte (e : Bool)
  /-- Raises BKPT, or stops the wave under debug intercept (R221) -/
  | bkpt (e : Bool) (c : BitVec 14)
  /-- Issues one instruction of a stopped wave of the group (R232) -/
  | step (e : Bool) (a : Reg)
  /-- Writes a trace marker, optionally forcing a checkpoint mark (R233) -/
  | mark (e f : Bool) (c : BitVec 14)
  /-- Reads a 64-bit performance counter (R228) -/
  | pcnt (e k : Bool) (d : Reg) (n : BitVec 14)
  /-- Arms a watchpoint slot (R230) -/
  | wset (e : Bool) (s : WScope) (l : BitVec 5) (a c : Reg)
  /-- Disarms a watchpoint slot (R230) -/
  | wclr (e : Bool) (s : WScope) (l : BitVec 5)
  /-- An issue slot with no run picks the ready wave of highest effective priority and starts a run (R332) -/
  | runSelect (die core quad slot : Nat)
  /-- A wave ready for 4,096 cycles without issuing takes effective priority 8 (R332) -/
  | waveAge (wave : Nat)
  /-- The spin count reaches 64 and the next run issues above the minimum (R19) -/
  | spinRedirect (wave : Nat)
  /-- A load's data, and LD.r's predicate, are written when the load returns (R145) -/
  | loadReturn (wave n : Nat)
  /-- A write is acknowledged and the wave's store count falls (R144) -/
  | storeAck (n : Nat)
  /-- A write takes its place in its location's order at the home bank and is announced (R257) -/
  | writePerformHome (n : Nat)
  /-- A die applies or counts a write once its clock counts the write's predecessors (R263) -/
  | writeApply (n die : Nat)
  /-- An atomic or counter step executes indivisibly at its bank (R170) -/
  | atomicAtBank (n : Nat)
  /-- The home serves a line and the requesting die installs a replica (R301) -/
  | replicaFill (die line : Nat)
  /-- Every quadrant of the cluster stops within 40 cycles of a stop-cluster hit (R394) -/
  | clusterStop (n : Nat)
  /-- WATCH is raised at the run boundary after the hitting instruction completes (R231) -/
  | watchTrap (wave : Nat)
  /-- A colour request arrives at the Campion home and is granted or queued (R277) -/
  | monitorRequest (n : Nat)
  /-- A grant is delivered once the lane's die counts CLOCK, and the lane is unparked (R279) -/
  | monitorGrant (wave : Nat) (lane : Lane)
  /-- Once stores and commands are done, the release is sent and the home grants the next waiter (R282) -/
  | monitorRelease (wave : Nat)
  /-- A parked lane is woken with wait-satisfied and becomes live (R174) -/
  | laneWake (wave : Nat) (lane : Lane)
  /-- A wave whose last lane exited finishes after its outstanding commands complete (R343) -/
  | waveFinishAfterCommands (wave : Nat)
  /-- A waiting register claim is granted when blocks become free (R115) -/
  | regClaimGrant (wave : Nat)
  /-- A claim that waits longer than the group-save interval causes a group save (R115) -/
  | claimWaitTimeout (wave : Nat)
  /-- Every unfinished wave of a group has waited for the group-save interval (R329) -/
  | groupSaveTimeout (group : Nat)
  /-- A signalled saved group is placed again and resumes (R331) -/
  | groupRelaunch (group : Nat)
  /-- A wave blocked over 200 cycles on a load miss enters scout (R335) -/
  | scoutEnter (wave : Nat)
  /-- Scout ends 2,000 cycles after entry (R337) -/
  | scoutTimeout (wave : Nat)
  /-- Scout ends and the shadow is discarded (R337) -/
  | scoutExit (wave : Nat)
  /-- The gang leaves the rendezvous once its tiles are ready and the array accepts the operation (R202) -/
  | mmaAccept (group : Nat)
  /-- The array finishes accumulating into tC and the tiles stop being busy (R204) -/
  | mmaComplete (group : Nat)
  /-- 2 ms after the first arrival without every member, the arrived members trap with GANG (R202) -/
  | rendezvousTimeout (group : Nat)
  /-- The drain's checksum and conversion passes end and the tiles become ready (R210) -/
  | cdrainComplete (wave : Nat)
  /-- Copy engine command copying rows between global ranges (R218) -/
  | copy (wave : Nat) (q : Fin 8)
  /-- Copy engine command filling an A tile from memory (R218) -/
  | loada (wave : Nat) (q : Fin 8)
  /-- Copy engine command filling a B tile from memory (R218) -/
  | loadw (wave : Nat) (q : Fin 8)
  /-- Copy engine command storing an A tile to memory (R218) -/
  | storea (wave : Nat) (q : Fin 8)
  /-- Gather engine command filling tile rows from indexed table rows (R218) -/
  | gather (wave : Nat) (q : Fin 8)
  /-- Collective command writing a source to up to four destinations (R218) -/
  | mcast (wave : Nat) (q : Fin 8)
  /-- Collective command reducing a source into destinations element by element (R218) -/
  | rstore (wave : Nat) (q : Fin 8)
  /-- Drain engine command converting a C tile to memory (R218) -/
  | drain (wave : Nat) (q : Fin 8)
  /-- An engine command releases at SCOPE, frees its ranges and pushes its completion (R216) -/
  | engineCommandComplete (wave : Nat) (q : Fin 8)
  /-- A push blocked 256 cycles sends a probe token along the chain (R339) -/
  | probeToken (wave : Nat) (q : Fin 8)
  /-- An I/O die checks a launch packet and appends it to a launch queue (R373) -/
  | launchPacket (p : Packet)
  /-- An inbound write to device memory is checked and held for the next mark (R375) -/
  | inboundRmaWrite (x : Inbound)
  /-- An inbound read of device memory is checked and served at the next mark (R375) -/
  | inboundRmaRead (x : Inbound)
  /-- A dispatcher checks an entry at START and places its next group on a core (R321) -/
  | groupDispatch (die : Nat)
  /-- The last wave of a task group finishes and its successor count is decremented (R191) -/
  | taskGroupFinish (group : Nat)
  /-- A gatherer bucket reaching 32 records forms a wave (R325) -/
  | bucketFull (die core n : Nat)
  /-- 2 µs after its first record, a bucket forms a wave (R325) -/
  | bucketFlush (die core n : Nat)
  /-- Clover forms a one-wave group once a wave slot is free (R325) -/
  | waveForm (die core n : Nat)
  /-- The oldest pool record moves to a gatherer with room (R327) -/
  | poolRecordMove (launch : DWord) (die core : Nat)
  /-- The partition's mark interval expires (R347) -/
  | markIntervalTimeout (part : Nat)
  /-- Teasel stops the partition, drains work and closes the undo log at a mark (R349) -/
  | checkpointMark (part : Nat)
  /-- The closed log is written and held outbound effects are released (R350) -/
  | markCommit (part : Nat)
  /-- A tenant's slice ends and the partition rolls back to its last committed mark (R353) -/
  | sliceEnd (part : Nat)
  /-- A stored value suffers an error that is corrected or marked poisoned (R355) -/
  | softError (site : ErrorSite) (corrected : Bool)
  /-- A launch consumes a poisoned value and is stopped, faulted or replayed (R357) -/
  | uncorrectable (x : Consumed)
  /-- Sweolo kills a launch at the driver's request (R346) -/
  | launchKill (launch : DWord)
  /-- A link unacknowledged for 2 µs is fenced and its traffic rerouted (R361) -/
  | linkTimeout (part : FenceId)
  /-- A router without progress for 20 µs is fenced (R361) -/
  | switchTimeout (die : Nat)
  /-- A peer silent for 2 ms is fenced for the tenant (R361) -/
  | peerTimeout (tenant : Nat) (endpoint : Word)
  /-- Sweolo lifts a fence at the driver's request (R361) -/
  | fenceLift (part : FenceId)
  /-- Sweolo changes a second-stage leaf and invalidates cached copies (R310) -/
  | pageShootdown (part : Nat) (ia : BitVec 52) (leaf : EntryWrite)
  /-- A pending page request is written to the page-request ring and forwarded to the pager (R311) -/
  | pageRequestForward (part : Nat)
  /-- Sweolo writes a partition's range registers (R295) -/
  | rangeRegisterWrite (part : Nat) (i : Fin 16) (r : RangeReg)
  /-- Sweolo assigns a 64 GiB IA window to a partition, or exports it read-only to other partitions (R306) -/
  | windowAssignment (window : Nat) (owner : Option Nat) (exports : List Nat)
  /-- Sweolo writes a queue descriptor (R315) -/
  | queueDescriptorWrite (q : Nat) (r : QueueDesc)
  /-- Sweolo writes a tenant table entry (R371) -/
  | tenantTableWrite (t : Nat) (r : TenantWrite)
  /-- A tenant's key slot is erased and its frames are zeroed (R381) -/
  | tenantRemove (t : Nat)
  /-- Sweolo writes a partition descriptor (R377) -/
  | partitionDescriptorWrite (part : Nat) (r : PartWrite)
  /-- Sweolo writes a remote-memory table entry (R313) -/
  | remoteTableWrite (t i : Nat) (r : RemoteEntry)
  /-- Sweolo sets a tenant's line quota in a bank (R302) -/
  | quotaWrite (t bank lines : Nat)
  /-- A lender lends a cluster to a borrower partition (R378) -/
  | clusterLend (lender borrower cluster : Nat)
  /-- A lender reclaims a cluster, rolling the borrower back (R379) -/
  | clusterReclaim (lender cluster : Nat)
  /-- Sweolo sets debug intercept for a partition (R221) -/
  | debugInterceptSet (part : Nat) (on : Bool)
  /-- Sweolo enables die watchpoints for a partition (R230) -/
  | dieWatchEnable (part : Nat) (on : Bool)
  /-- The driver opens a trace session for a partition (R388) -/
  | traceSessionOpen (part bytes : Nat) (ask : SessionAsk)
  /-- A trace session closes, releasing any clock lock (R388) -/
  | traceSessionClose (part : Nat)
  /-- The requester acknowledges trace records and their space is freed (R388) -/
  | traceAck (part n : Nat)
  /-- Each period of 2^k cycles a core samples an issue slot's class (R392) -/
  | sample (die core : Nat)
  /-- Sweolo reads the issue-slot tree counters of a core in one cycle (R399) -/
  | treeSnapshot (part die core : Nat)
  /-- A session locks the dies' operating point (R400) -/
  | clockLock (part : Nat) (point : Fin 8)
  /-- A session releases its clock lock (R400) -/
  | clockRelease (part : Nat)
  /-- A limit forces a locked die to a lower operating point (R401) -/
  | clockBreak (die : Nat) (cause : BreakCause) (found : Forecast)
  /-- 10 ms after the cause is gone the die returns to the locked point (R401) -/
  | clockRestore (die : Nat)
  /-- Sweolo lifts a stop and resumes the cluster (R397) -/
  | clusterResume (die cluster : Nat)
  /-- Sweolo steps one stopped wave and emits a STEP record (R397) -/
  | sweoloStep (wave : Nat)
  /-- Sweolo dumps a wave's saved state (R397) -/
  | waveDump (wave : Nat)
  /-- Sweolo moves a die to another operating point (R407) -/
  | operatingPointChange (die : Nat) (found : Forecast)
  /-- The operator sets a lower module power limit (R408) -/
  | powerLimitSet (watts : Nat)
  /-- Every 1 ms Sweolo reports power, temperatures and coolant temperatures (R408) -/
  | telemetryReport (r : Readings)
  /-- Over-temperature or low coolant flow shuts the module down (R409) -/
  | thermalShutdown (cause : ThermalCause)
  /-- Power good, the reset line or a management request brings the module through boot (R402) -/
  | moduleReset (cause : ResetCause) (failed : BootFailures)
  /-- An image is written to the inactive copy, verified and marked active (R404) -/
  | imageUpdate (image : Image)
  /-- SPDM GET_VERSION request (R383) -/
  | getVersion (io : Fin 2)
  /-- SPDM GET_CAPABILITIES request (R383) -/
  | getCapabilities (io : Fin 2)
  /-- SPDM NEGOTIATE_ALGORITHMS request (R383) -/
  | negotiateAlgorithms (io : Fin 2)
  /-- SPDM GET_DIGESTS request (R383) -/
  | getDigests (io : Fin 2)
  /-- SPDM GET_CERTIFICATE request (R383) -/
  | getCertificate (io : Fin 2)
  /-- SPDM CHALLENGE request (R383) -/
  | challenge (io : Fin 2) (nonce : Nat)
  /-- SPDM GET_MEASUREMENTS request returning SHA3-512 measurement blocks (R384) -/
  | getMeasurements (io : Fin 2) (who : Requester) (index : Nat)
  /-- KEY_EXCHANGE, PSK_EXCHANGE and session requests return UnsupportedRequest (R383) -/
  | spdmUnsupportedRequest (io : Fin 2) (request : Byte)
  /-- A receiving module gets a launch's completion notice and forgets that launch's send keys (R360) -/
  | completionNotice (origin : Word) (launch : DWord)
  /-- When one I/O die fails, the other takes over its tenant tables, held buffers, endpoint addresses and management role (R368) -/
  | ioDieFailure (io : Fin 2)
  /-- An inbound RUDI, UUD or unsecured packet is dropped and counted, and an inbound atomic operation is refused with MALFORMED (R369) -/
  | unsupportedPacket (kind : BadPacket)
  /-- On the debugger's request, Sweolo stops a cluster and emits a STOP record with cause 2 (R390) -/
  | sweoloStopRequest (die cluster : Nat)
  /-- Through Sweolo, the pager writes a page's data and metadata into its frame before setting RES (R312) -/
  | pagerFrameWrite (part : Nat) (ia : BitVec 52) (data : List Byte) (words : List (BitVec 16))
deriving DecidableEq, Repr, Inhabited

end Sys2Proof
end

