-- ==== Sys2Proof/Machine/State.lean ====
section
/-! DEFINITION. The state of the module as plain data: every piece of state the spec names (INVENTORY.md, State), and
`State.reset`, the module right after reset (R402, R405). -/
namespace Sys2Proof.Machine

/-- A sparse map from keys to words: keys strictly rising, no entry equal to zero, which an unlisted key reads as. -/
abbrev Sparse (w : Nat) := List (Nat × BitVec w)

/-- Device memory by PHYSICAL byte address ((96 × die + channel) × 2^31 + address in the channel, R308), and the
buffers by offset. Reset zeroes memory (R402, R405), so an unlisted byte reads zero. -/
abbrev Memory := List Host.Cell

/-! ### Lanes -/

/-- What a parked lane waits for (R14, R174). -/
inductive ParkKind where
  | monitor (colour : Nat) | semaphore | condition | join | barrier
deriving DecidableEq, Repr, Inhabited

/-- The state of a lane (R14). -/
inductive LaneState where
  | live | parked (why : ParkKind) | exited
deriving DecidableEq, Repr, Inhabited

/-- An entry of a held-colour set (R32), with the marks of R181 and R150. -/
structure Held where
  colour : BitVec 6
  depth : BitVec 12
  /-- released by CWAIT and to be taken again (R181, R283) -/
  suspended : Bool
  /-- granted for the instruction that is still to complete in this lane (R150) -/
  fresh : Bool
deriving DecidableEq, Repr, Inhabited

/-- The state of one lane: a thread. -/
structure LaneCtx where
  /-- PC of the PC vector (R14) -/
  pc : Pc
  state : LaneState
  /-- wave registers 0 to 255 of this lane (R20) -/
  regs : Sparse 32
  /-- p0 to p6 (R27) -/
  preds : BitVec 7
  /-- frame depth (R34) -/
  depth : BitVec 12
  /-- return entries held on chip, the highest level first (R34, R35) -/
  ret : List DWord
  /-- the trap-entry level, when the lane runs a handler (R223) -/
  trapLevel : Option (BitVec 12)
  /-- held colours, ascending (R32) -/
  held : List Held
  /-- sticky flags (R33) -/
  nflg : BitVec 7
  /-- the hidden wait-satisfied bit (R174) -/
  waitSat : Bool
  /-- spawn serial (R13) -/
  serial : Word
  /-- JOIN address of a spawned lane (R185, R187) -/
  join : DWord
  /-- words popped for the instruction that is still to complete in this lane (R24) -/
  kept : List Word
  /-- outbound sends made so far (R360) -/
  sends : DWord
deriving DecidableEq, Repr, Inhabited

/-! ### Runs, traps, watchpoints -/

/-- A run in progress, or one whose instruction waits (R15, R16, R25, R394). -/
structure Run where
  exec : Mask
  /-- lanes of EXEC that an instruction of the run has parked (R16, R17) -/
  gone : Mask
  pc : Pc
  /-- instructions issued in this run -/
  count : Nat
  /-- b1, b2, ...: the results of the instructions before, none where there is no latch value (R25) -/
  latches : List (Option (Lanes Word))
  /-- lanes live when the run began (R19) -/
  liveAtStart : Mask
  /-- the run was redirected by spin detection (R19) -/
  redirected : Bool
  /-- the spin floor before the run was chosen (R19) -/
  base : Option Pc
  /-- the run was cut by a stop and continues (R394) -/
  cut : Bool
deriving DecidableEq, Repr, Inhabited

/-- Why a wave's next instruction does not issue or complete yet; the names are those of R341. -/
inductive Hold where
  | monitor | tile | rendezvous | engineQueue | claim | operand | latch | barrier | commit | fence
deriving DecidableEq, Repr, Inhabited

/-- The trap names of R222 in the order of their codes. -/
inductive Trap where
  | illegalOp | illegalLatch | window | regClaim | align | tag | perm | nonresStore
  | rangeLock | colourOrder | colourLimit | monitorWait | semOver | semUnder | callStack | peerGone
  | watch | bkpt | trap | engine | gang | queueCycle | uncorrectable | double
deriving DecidableEq, Repr, Inhabited

/-- What a trap holds aside (R223, R226). -/
structure Aside where
  pcs : Lanes Pc
  states : Lanes LaneState
  /-- the trap's lanes: EXEC of the trapping run, or TMASK (R226) -/
  lanes : Mask
  pc : Pc
  stand : Pc
  trap : Trap
  spin : Nat
  floor : Option Pc
  /-- the popped words that each lane keeps for the instruction that trapped (R24) -/
  words : Lanes (List Word)
  /-- done-masks of instructions that were still to be resumed when the trap was taken (R223, R344) -/
  skip : List (Pc × Mask)
deriving DecidableEq, Repr, Inhabited

/-- An armed watch slot (R229, R230): its address, its control pair and its owner (the wave's, group's or launch's
number). -/
structure WatchSlot where
  addr : DWord
  ctl : DWord
  owner : Nat
deriving DecidableEq, Repr, Inhabited

/-- A watch hit with action trap that is still to be taken (R231). -/
structure WatchHit where
  scope : WScope
  slot : Nat
  lanes : Mask
  addr : DWord
  pc : Pc
  /-- EXEC of the hitting instruction -/
  exec : Mask
  /-- for an engine hit: OP, TAG, header PC -/
  eng : Option (Byte × Byte × Pc)
deriving DecidableEq, Repr, Inhabited

/-! ### Engine queues -/

/-- Where a command stands (R216). -/
inductive CmdState where
  | pushed | accepted
deriving DecidableEq, Repr, Inhabited

/-- A command of a stream (R212, R215): its words, the lane and PC that pushed its header. -/
structure Command where
  words : List Word
  lane : Lane
  pc : Pc
  /-- die and core in the die from which the header was pushed -/
  die : Nat
  core : Nat
  /-- its header was pushed by handler code (R224) -/
  byHandler : Bool
  /-- the number of the instruction that pushed its last word: the command's place in its thread's program order (R360) -/
  order : Nat
  state : CmdState
  /-- the model's number of an accepted command -/
  id : Nat
  /-- the completion as far as it is known: status, destination mask, flags, failing address -/
  status : BitVec 4
  dmask : BitVec 4
  flags : BitVec 7
  addr : DWord
deriving DecidableEq, Repr, Inhabited

/-- A completion that waits to be popped (R213, R217). -/
structure Completion where
  word : Word
  reported : Bool
  lane : Lane
  pc : Pc
  op : Byte
  scope : BitVec 3
  addr : DWord
  /-- it stands in an emergency entry (R339) -/
  extra : Bool
deriving DecidableEq, Repr, Inhabited

/-- A queue register (R211, R212). -/
structure QReg where
  bound : Option (Eng × Nat)
  /-- the command whose words are still being pushed -/
  part : Option Command
  /-- commands pushed whole and not yet completed, oldest first -/
  cmds : List Command
  /-- completions waiting -/
  done : List Completion
  /-- emergency entries granted in the completion buffer and not yet consumed, each with the queues of its chain: class,
  wave, queue register (R339) -/
  emergency : List (List (Nat × Nat × Nat))
deriving DecidableEq, Repr, Inhabited

/-! ### Waves and groups -/

/-- A die's clock (R263): entry e counts the writes originated on die e. -/
structure Clock where
  c0 : Word
  c1 : Word
  c2 : Word
  c3 : Word
deriving DecidableEq, Repr, Inhabited

/-- A load or atomic whose data has not been written yet (R145). -/
structure PendLoad where
  /-- number of the flight that will supply the value; none when the value is known -/
  flight : Option Nat
  /-- destination and its number of registers, none when K keeps only the latch: a wave register by its number, gn as
  256 + n, qn as 272 + n -/
  dst : Option (Nat × Nat)
  /-- PC of the instruction -/
  pc : Pc
  /-- predicate destination of LD.r and its values (R145) -/
  pred : Option (Pred × Mask)
  mask : Mask
  vals : Lanes (BitVec 128)
  /-- number of the instruction, so that its latch can be filled (R25) -/
  tick : Nat
  /-- clock that the core's die must count before the value is delivered (R263) -/
  clock : Clock
  /-- LD or LD.r that missed the last-level cache (R335) -/
  missed : Bool
deriving DecidableEq, Repr, Inhabited

/-- A join counter that an EXIT has still to decrement: its address, and the EXIT that does it (R187, R231). -/
structure JoinDue where
  addr : DWord
  lane : Lane
  pc : Pc
  exec : Mask
  /-- executed by handler code (R224) -/
  byHandler : Bool
deriving DecidableEq, Repr, Inhabited

/-- Wave counters (R228). -/
structure WaveCounters where
  retired : DWord
  runs : DWord
  scoutEntries : DWord
  scoutDrops : DWord
  prefDrops : DWord
  redirects : DWord
  parks : DWord
  watch0 : DWord
  watch1 : DWord
  /-- its instructions that a scalar unit has executed (R334) -/
  scalar : DWord
deriving DecidableEq, Repr, Inhabited

/-- Where a wave stands: die, core in the die, quadrant, slot of the quadrant, and whether the slot is the reserved
one of R326. -/
structure Place where
  die : Nat
  core : Nat
  quad : Nat
  slot : Nat
  reserved : Bool
deriving DecidableEq, Repr, Inhabited

/-- Register tags (R28, R334). -/
inductive RegTag where
  | uni | aff | vec
deriving DecidableEq, Repr, Inhabited

structure Wave where
  /-- the model's number of the logical wave -/
  id : Nat
  group : Nat
  launch : DWord
  part : Nat
  /-- wave index in the group (R29) -/
  index : BitVec 5
  role : BitVec 2
  gang : Word
  winb : BitVec 3
  blks : BitVec 4
  /-- STAT.H (R33, R223) -/
  h : Bool
  spn : Bool
  snap : Bool
  pri : BitVec 3
  widf : Word
  /-- WID of lane 0; zero for a spawned wave (R225) -/
  baseWid : DWord
  arg : DWord
  csp : DWord
  csz : BitVec 12
  handler : DWord
  /-- context index (R323) -/
  ctx : Option Nat
  lanes : Lanes LaneCtx
  rmiss : Word
  aside : Option Aside
  /-- after RTE: the instructions to resume and the lanes that each skips (R226, R344) -/
  skip : List (Pc × Mask)
  spin : Nat
  floor : Option Pc
  run : Option Run
  hold : Option Hold
  /-- the slot of its quadrant (0 or 1) in which its run is in progress (R332) -/
  issue : Option Nat
  queues : Vector QReg 8
  ckmode : BitVec 3
  /-- store count (R144) -/
  stores : Nat
  pend : List PendLoad
  /-- releases that wait for the store count (R37, R282) -/
  release : List (Lane × BitVec 6)
  /-- join counters to be decremented when the store count is zero (R187) -/
  joins : List JoinDue
  watchPend : List WatchHit
  watch : List (Option WatchSlot)
  counters : WaveCounters
  /-- blocks claimed and not yet granted, and the order of the claim (R115) -/
  claim : Option (Nat × Nat)
  granted : Bool
  place : Option Place
  stopped : Bool
  /-- stopped by its own BKPT under debug intercept (R397) -/
  intercepted : Bool
  /-- issues one instruction for Sweolo, or for the STEP of a wave, given with the number of its instruction (R232,
  R397); the second field says whether the run was cut before -/
  stepping : Option (Option (Nat × Nat) × Bool)
  /-- the STEP that the wave issued has completed (R232) -/
  stepDone : Bool
  /-- effective priority 8 (R332) -/
  aged : Bool
  lastRun : Nat
  /-- number of instructions issued so far, names pending results -/
  tick : Nat
  /-- arrived in the current barrier generation (R180) -/
  arrived : Bool
  /-- started with every register block tag U (R28); registers with another tag -/
  tags : List (Nat × RegTag)
  /-- the commit of the mark this wave forced (R233) -/
  waitMark : Option Nat
  /-- the load that has been sent to remote memory and waits for its answer (R313) -/
  asked : Option Pc
  /-- drain in progress (R210): tA, tC, rounding, phase -/
  drain : Option (Fin 64 × Fin 64 × Rnd × BitVec 5)
  finished : Bool
deriving DecidableEq, Repr, Inhabited

/-- A checksum of a row or column (R207): the exact sum of the finite values in units of 2^-149 (.f32) or 1 (.s32),
and the counts of +infinity, -infinity and NaN. -/
structure CkSum where
  fin : Int
  pinf : Nat
  ninf : Nat
  nan : Nat
deriving DecidableEq, Repr, Inhabited

/-- A defined tile (R193, R292). -/
structure Tile where
  n : Fin 64
  desc : BitVec 128
  state : TileState
  busy : Nat
  rows : List CkSum
  cols : List CkSum
  flags : BitVec 7
deriving DecidableEq, Repr, Inhabited

/-- A matrix operation (R202 to R204). -/
structure MatOp where
  sparse : Bool
  ta : Fin 64
  tb : Fin 64
  tc : Fin 64
  j : Fin 4
  gang : Word
deriving DecidableEq, Repr, Inhabited

/-- A member that has arrived at a rendezvous: its wave index and its scale register, and whether a lane of that is
poisoned (R203, R355). -/
structure Arrival where
  index : BitVec 5
  scales : Lanes Word
  poisoned : Bool
deriving DecidableEq, Repr, Inhabited

structure Group where
  id : Nat
  launch : DWord
  part : Nat
  /-- die and core in the die; none when saved -/
  place : Option (Nat × Nat)
  waves : Nat
  g : Vector Word 16
  abufKiB : Nat
  wbufKiB : Nat
  cbufKiB : Nat
  abuf : Memory
  wbuf : Memory
  cbuf : Memory
  tiles : List Tile
  /-- barrier generation (R180) -/
  barrier : Nat
  /-- sharing-group key (R160) -/
  sharing : Option Word
  /-- the rendezvous that wait, by their gangs, in the order of their first arrivals -/
  rendezvous : List (MatOp × List Arrival)
  /-- operations the array has accepted, oldest first -/
  array : List (MatOp × List Arrival)
  task : Bool
  spawned : Bool
  /-- the task-queue entry it was started from: queue and sequence number (R316) -/
  entry : Option (Nat × Word)
  /-- successor block (R190, R191) -/
  succ : DWord
  /-- the successor count has reached zero and the append waits: queue and record (R191, R316) -/
  appending : Option (Nat × Nat)
  blocks : Nat
  /-- order of its relaunch signal, none when not signalled (R331) -/
  signal : Option Nat
  /-- priority raised by a reclaim (R331) -/
  raised : Bool
  /-- clock of its start (R261), or of the die that saved it -/
  clock : Clock
  /-- the bytes of its context in the partition's context area while it is saved (R291, R330): free values, by their
  number (log 55) -/
  context : Option Nat
  finished : Bool
deriving DecidableEq, Repr, Inhabited

/-- The wave before it entered scout, and what scout has poisoned (R335, R336). -/
structure Shadow where
  wave : Nat
  saved : Wave
  /-- poisoned lanes of each wave register -/
  poison : List (Nat × Mask)
  /-- poisoned lanes of each predicate -/
  poisonP : List (Nat × Mask)
  /-- poisoned lanes of the latches b1, b2, ... -/
  poisonL : List Mask
  /-- registers written in the shadow -/
  written : List Nat
  /-- shadow copies of group registers -/
  g : List (Nat × Word)
  /-- the awaited results: the numbers of their instructions (R335) -/
  awaits : List Nat
  /-- scout ends with the run in progress (R337) -/
  ending : Bool
deriving DecidableEq, Repr, Inhabited

/-! ### Memory system -/

/-- The operations of ATOM and RED (R61, R176). -/
inductive AtOp where
  | i (op : RedOp)
  | x (op : AtomX)
deriving DecidableEq, Repr, Inhabited

/-- What travels (R257): a store, a metadata write, or an atomic with its lanes' operands and, for ATOM, the number of
the pending result. -/
inductive FlightKind where
  | store (bytes : List Byte)
  | colour (c : BitVec 6)
  | key (k : BitVec 4)
  | atom (op : AtOp) (scope : Scope) (lanes : List (Lane × DWord × DWord)) (tick : Option Nat)
deriving DecidableEq, Repr, Inhabited

/-- A write or atomic on its way (R257, R263). -/
structure Flight where
  /-- the model's number of the flight -/
  id : Nat
  wave : Nat
  launch : DWord
  part : Nat
  /-- issuing die and core in the die -/
  die : Nat
  core : Nat
  /-- lane and PC of the instruction, its EXEC, and the pointer as presented (R230, R231) -/
  lane : Lane
  pc : Pc
  exec : Mask
  ptr : DWord
  /-- issued by handler code (R224) -/
  byHandler : Bool
  /-- IA of the first byte -/
  ia : Nat
  kind : FlightKind
  /-- counted in the wave's store count (R144) -/
  counted : Bool
  /-- the die it left and its stamp, once it has left (R263) -/
  left : Option (Nat × Clock)
  /-- its place in the order in which writes were performed at their homes, once it has been performed (R262) -/
  performed : Option Nat
  acked : Bool
  /-- dies that have still to apply or count it -/
  todo : List Nat
  /-- the number under which its core issued it -/
  issued : Nat
  /-- the result of an atomic that its die's replica holds already (R170) -/
  atReplica : Bool
deriving DecidableEq, Repr, Inhabited

/-- A line of an L1 superblock (R297). -/
structure L1Line where
  data : BitVec 512
  meta16 : BitVec 16
  /-- clock that came with the value (R263) -/
  clock : Clock
  /-- the poison marks that travel with the line: its data, its metadata word (R355) -/
  poison : Bool
  poisonMeta : Bool
deriving DecidableEq, Repr, Inhabited

/-- An L1 superblock (R297): die, core, IA / 256, its four lines; the most recently used stands first in the list. -/
structure L1Block where
  die : Nat
  core : Nat
  tag : Nat
  lines : Vector (Option L1Line) 4
deriving DecidableEq, Repr, Inhabited

/-- A line in a last-level cache bank (R300): the tenant that filled it, dirty, and for a replica its contents. -/
structure LlcLine where
  tenant : Nat
  dirty : Bool
  replica : Option L1Line
deriving DecidableEq, Repr, Inhabited

/-- A superblock of a last-level cache bank (R300): die, IA / 256, its lines; the most recently used stands first. -/
structure LlcBlock where
  die : Nat
  tag : Nat
  /-- the way of its set, 0 to 15 (R300, R305) -/
  way : Nat
  lines : Vector (Option LlcLine) 4
deriving DecidableEq, Repr, Inhabited

/-- An entry of a core's page-attribute cache (R309): the core, the page by its first IA with its level, its attributes,
and whether this core has already set AB and DB. -/
structure PacEntry where
  die : Nat
  core : Nat
  base : Nat
  level : Fin 4
  rp : Bool
  wp : Bool
  xp : Bool
  res : Bool
  keyix : Byte
  ab : Bool
  db : Bool
deriving DecidableEq, Repr, Inhabited

/-- A registered range of an engine command (R151, R216): the partition's virtual addresses, or a group's A-buffer
offsets, first and last byte. -/
structure RangeLock where
  /-- the number of the accepted command -/
  cmd : Nat
  dest : Bool
  part : Nat
  abuf : Option Nat
  lo : Nat
  hi : Nat
deriving DecidableEq, Repr, Inhabited

/-- A request message to the monitor table (R277, R278): the lanes of one instruction with colour and depth. -/
structure MonRequest where
  wave : Nat
  tenant : Nat
  lanes : List (Lane × BitVec 6 × BitVec 12)
deriving DecidableEq, Repr, Inhabited

/-- A lane that waits for a monitor (R276). -/
structure Waiter where
  wave : Nat
  lane : Lane
  depth : BitVec 12
deriving DecidableEq, Repr, Inhabited

/-- An entry of the monitor table Campion (R274, R275). -/
structure Campion where
  tenant : Nat
  colour : BitVec 6
  owner : Waiter
  clock : Clock
  queue : List Waiter
deriving DecidableEq, Repr, Inhabited

/-- A grant on its way (R277, R279). -/
structure Grant where
  wave : Nat
  lane : Lane
  colour : BitVec 6
  depth : BitVec 12
  clock : Clock
deriving DecidableEq, Repr, Inhabited

/-- A lane queued on a word (R178, R181, R188): the word's IA, and n for a semaphore or the threshold for a join. -/
structure WordWaiter where
  kind : ParkKind
  ia : Nat
  wave : Nat
  lane : Lane
  n : Word
deriving DecidableEq, Repr, Inhabited

/-- A wake on its way (R174, R263). -/
structure Wake where
  wave : Nat
  lane : Lane
  clock : Clock
deriving DecidableEq, Repr, Inhabited

/-! ### Work -/

/-- Where a launch stands. -/
inductive LaunchState where
  | running | done | faulted (t : Trap) | killed
deriving DecidableEq, Repr, Inhabited

/-- A launch (R2, R319 to R323, R357). -/
structure Launch where
  id : DWord
  queue : Nat
  seq : Word
  part : Nat
  tenant : Nat
  /-- the launch record as accepted (R319) -/
  record : BitVec 1024
  /-- groups of the launch and groups dispatched so far (R321) -/
  groups : Nat
  next : Nat
  /-- next spawn serial (R184) -/
  serial : Nat
  /-- ring sequence numbers of the spawn pool (R186) -/
  poolHead : Nat
  poolTail : Nat
  state : LaunchState
  /-- the completion record has been written (R318) -/
  reported : Bool
  /-- replays so far (R357) -/
  replays : Nat
  /-- its start mark has been taken (R347) -/
  started : Bool
  /-- it has consumed an error and starts again once its work has stopped (R357) -/
  replay : Bool
  /-- the 64 KiB pieces (IA / 65,536) that its snapshot holds, while it keeps one (R358) -/
  snapshot : Option (List Nat)
  /-- the granules (IA / 64) of those pieces, metadata word above data, as they were before its first write to the piece -/
  copies : Sparse 528
  /-- granules the launch has written since its start mark (R358) -/
  dirty : List Nat
  /-- clock of the die that accepted it (R261) -/
  clock : Clock
  /-- clocks of the dies that wrote the records in its spawn pool, oldest first (R261) -/
  poolClocks : List Clock
  /-- the sender whose inbound writes it waits for (R374): operations held when the packet was accepted -/
  after : Nat
  /-- its waves that own monitors until its snapshot has been restored (R286, R357) -/
  owing : List Nat
deriving DecidableEq, Repr, Inhabited

/-- A queue entry that has completed and whose record waits for a commit (R318): what the record holds, the partition of
its work (none when it never had one), and whether the mark that follows has committed. -/
structure Ended where
  seq : Word
  status : Nat
  trap : Nat
  launch : DWord
  part : Option Nat
  committed : Bool
deriving DecidableEq, Repr, Inhabited

/-- A task record that waits in an emergency entry for room in its queue's ring (R316, R339): the enqueuing launch, the
record, die and core from which it was enqueued, and the die's clock. -/
structure Reserved where
  launch : DWord
  record : BitVec 512
  die : Nat
  core : Nat
  clock : Clock
deriving DecidableEq, Repr, Inhabited

/-- A queue (R315): its number, descriptor and sequence numbers, and the entries that have completed. -/
structure Queue where
  n : Nat
  desc : QueueDesc
  tail : Word
  start : Word
  head : Word
  done : List Ended
  /-- for each appended entry not yet started: inbound operations that must be applied first (R374) -/
  after : List (Word × Nat)
  /-- for each task entry not yet started: die and core from which it was enqueued (R190, LOCAL), and that die's clock
  (R261) -/
  origins : List (Word × Nat × Nat × Clock)
  /-- task entries discarded because their launch ended (R346): sequence number, status, trap code, partition -/
  void : List (Word × Nat × Nat × Nat)
  /-- emergency entries granted for its appends, each with the queues of its chain, and the appends that hold them (R339) -/
  emergency : List (List (Nat × Nat × Nat))
  reserved : List Reserved
  /-- dispatch turn, for round-robin service (R321) -/
  turn : Nat
deriving DecidableEq, Repr, Inhabited

/-- A bucket of a spawn gatherer (R325). -/
structure Bucket where
  launch : DWord
  entry : DWord
  recs : List (BitVec 512)
  forming : Bool
  pri : BitVec 3
  /-- clocks of the dies that wrote its records (R261) -/
  clock : Clock
deriving DecidableEq, Repr, Inhabited

/-- A core's state beyond its waves and groups; cores not listed are as after reset. -/
structure Core where
  die : Nat
  core : Nat
  /-- dither phase (R85) -/
  phase : BitVec 5
  watch : List (Option WatchSlot)
  buckets : List Bucket
  /-- checksum corrections, emergency entries, hits of the group slots (R228) -/
  corrections : DWord
  emergencies : DWord
  hits : List DWord
  /-- the classes of its issue-slot tree as they stood when its cluster stopped, while it is stopped (R399) -/
  tree : Option (List DWord)
deriving DecidableEq, Repr, Inhabited

/-- A die (R263, R230, R405, R406). -/
structure Die where
  clock : Clock
  watch : List (Option WatchSlot)
  point : Fin 8
  /-- the highest point that the limits last found allow, and the cause of a break to it (R390, R401, R407) -/
  limit : Fin 8
  cause : Nat
  /-- locked point and whether the lock is broken (R400, R401) -/
  lock : Option (Fin 8)
  broken : Bool
  /-- pages with a request pending: IA of the first byte and level (R311) -/
  pages : List (Nat × Fin 4 × Nat)
deriving DecidableEq, Repr, Inhabited

/-- Counters of a die for one partition (R228). -/
structure DieCounters where
  die : Nat
  llcHits : DWord
  llcMisses : DWord
  rangeLocks : DWord
  watch : List DWord
deriving DecidableEq, Repr, Inhabited

/-- What leaves the module when a mark commits (R350, R351). -/
inductive Outbound where
  /-- a write to remote memory: endpoint, remote address, bytes, and its send header with the key of R360 (R370) -/
  | write (endpoint : Word) (raddr : DWord) (bytes : List Byte) (hdr : SendHeader)
  /-- the reply to an inbound read (R375) -/
  | reply (hdr : SendHeader) (bytes : List Byte)
  /-- a launch's completion notice (R360), with its header (R370) -/
  | notice (hdr : SendHeader)
  /-- a load of remote memory: endpoint, remote address, bytes, header (R313, R370) -/
  | read (endpoint : Word) (raddr : DWord) (len : Nat) (hdr : SendHeader)
deriving DecidableEq, Repr, Inhabited

/-- A partition (R376): descriptor, range registers, the root of its second-stage table, and Teasel's state for it (R347 to
R353). -/
structure Part where
  n : Nat
  desc : PartDesc
  ranges : Vector RangeReg 16
  /-- physical address of its level-0 table (R306) -/
  root : Nat
  intercept : Bool
  dieWatch : Bool
  /-- page-request ring: its physical address, the entries forwarded and not yet served, and the next sequence number
  (R311) -/
  ringBase : Nat
  ring : List (BitVec 128)
  ringSeq : Word
  /-- sequence number of the last mark, and whether it has committed (R349, R350) -/
  mark : Nat
  committed : Bool
  markDue : Bool
  /-- bytes of its undo log, as Sweolo sets it, and the lines (physical address / 64) logged since the last mark (R347,
  R348) -/
  logSize : Nat
  logged : List Nat
  /-- outbound effects since the last mark, and those of the mark that has not committed -/
  held : List Outbound
  closing : List Outbound
  /-- inbound operations that wait for the next mark (R375), and how many have been performed -/
  inbound : List Inbound
  inboundDone : Nat
  /-- trace records of MARK dropped because no session was open (R233) -/
  unrecorded : Nat
  counters : List DieCounters
deriving DecidableEq, Repr, Inhabited

/-- The state of a partition at a mark, to which a rollback returns (R348, R353). -/
structure MarkImage where
  part : Nat
  mark : Nat
  mem : Memory
  lineKeys : List (Nat × Nat)
  waves : List Wave
  groups : List Group
  launches : List Launch
  campion : List Campion
  waiters : List WordWaiter
  wakes : List Wake
  grants : List Grant
  requests : List MonRequest
  queues : List Queue
  pages : List (Nat × Fin 4 × Nat)
  ranges : List RangeLock
  /-- die, core and bucket of the partition's launches -/
  buckets : List (Nat × Nat × Bucket)
deriving DecidableEq, Repr, Inhabited

/-- A trace record (R389, R390). -/
structure TraceRec where
  typ : Nat
  size : Nat
  spn : Bool
  ix : Bool
  brk : Bool
  launch : DWord
  name : DWord
  lmask : Mask
  pc : Pc
  /-- die, core, quadrant and slot, for a record delivered to the management job (R386) -/
  place : Option (Nat × Nat × Nat × Nat)
  body : Nat
deriving DecidableEq, Repr, Inhabited

/-- A trace session (R388, R392, R400). -/
structure Session where
  part : Nat
  /-- its requester is the management job, whose records carry PLACE (R386) -/
  mgmt : Bool
  /-- its buffer in the protected region: physical address and bytes; it holds the records not yet acknowledged -/
  base : Nat
  bytes : Nat
  period : Option Nat
  recs : List TraceRec
  lost : Nat
  /-- the point that it locks, and the dies that held a cluster of its partition when the lock was granted (R400) -/
  lock : Option (Fin 8)
  locked : List Nat
  /-- the next issue slot to be sampled of a core: die, core, slot (R392) -/
  sample : List (Nat × Nat × Nat)
deriving DecidableEq, Repr, Inhabited

/-- A wave that ran a run when a stop was asked for: instructions retired by then, and the PC of the first one after
(R396). -/
structure Skid where
  wave : Nat
  retired : DWord
  first : Option Pc
deriving DecidableEq, Repr, Inhabited

/-- A stop of a cluster that has been asked for and not yet taken effect (R393, R394). -/
structure StopReq where
  cause : Nat
  die : Nat
  cluster : Nat
  launch : DWord
  name : DWord
  spn : Bool
  lanes : Mask
  pc : Pc
  skids : List Skid
deriving DecidableEq, Repr, Inhabited

/-! ### Management -/

/-- What the module answers over Ultra Ethernet or the management job. -/
inductive Output where
  /-- status of a launch packet (R373) -/
  | packet (hdr : SendHeader) (status : Nat)
  /-- acknowledgement or refusal of an inbound operation (R375): 0 OK, else the status code of R217 -/
  | rma (hdr : SendHeader) (status : Nat)
  /-- an operation that leaves, under the job and the secure domain of its tenant (R350, R370) -/
  | sent (job : BitVec 24) (sdi : BitVec 16) (x : Outbound)
  /-- an SPDM response: its code and its bytes (R383) -/
  | spdm (io : Fin 2) (code : Nat) (bytes : List Byte)
  /-- the answer to NEGOTIATE_ALGORITHMS: the extended asymmetric algorithm, the base hash and the bytes that the spec does not
  give (R383) -/
  | algorithms (io : Fin 2) (extAsym : SignAlgo) (baseHash : HashAlgo) (bytes : List Byte)
  /-- a measurement block (R384) -/
  | measurement (io : Fin 2) (index : Nat) (digest : Option (BitVec 512))
  /-- a refused Sweolo request (R411) -/
  | refused (what : Nat)
  /-- a wave dump: the saved state of R39 without physical coordinates, its group's g registers, and the monitor entries that
  its lanes own or wait for (R275, R386, R397) -/
  | dump (w : Wave) (g : Vector Word 16) (monitors : List (BitVec 512))
  /-- a trace record, delivered as soon as it has been written (R388) -/
  | trace (part : Nat) (r : TraceRec)
  /-- a page request forwarded to the host's pager (R311) -/
  | pageRequest (entry : BitVec 128)
  /-- a shootdown is complete at every core (R310) -/
  | unmapped (part : Nat) (ia : BitVec 52)
  /-- an uncorrectable error has been consumed: launch, logical thread and structure (R342) -/
  | consumed (launch name : DWord) (spn : Bool) (what : Struck)
  /-- a corrected error (R355) -/
  | corrected (site : ErrorSite)
  /-- the module is split and has stopped (R363) -/
  | split
  | telemetry (r : Readings)
  | shutdown (c : ThermalCause)
  | ready
  | event (f : FenceId)
  /-- an unsupported inbound operation was refused with MALFORMED (R369) -/
  | malformed
deriving DecidableEq, Repr, Inhabited

/-- Firmware copies A and B of the three images and their state (R382, R403, R404). -/
structure Firmware where
  a : Vector (Option Image) 3
  b : Vector (Option Image) 3
  /-- copy A is the active one -/
  activeA : Vector Bool 3
  /-- security-version counters of 64 steps (R382) -/
  counters : Vector (Fin 65) 3
  /-- an image that has been written and has not yet passed step 5 -/
  fresh : Vector Bool 3
  revoked : Vector Bool 4
deriving DecidableEq, Repr, Inhabited

structure Sweolo where
  firmware : Firmware
  recovery : Bool
  /-- the images that the last reset loaded (R402, R404) -/
  loaded : Vector (Option Image) 3
  /-- filled key slots, each with the draw of its 512-bit key, Config.keyBits of that number (R380) -/
  keySlots : List (Nat × Nat)
  /-- the job identifier of management traffic (R370) -/
  job : BitVec 24
  powerLimit : Nat
  /-- why the module is shut down, and the shutdown to be reported at step 5 (R409) -/
  shutdown : Option ThermalCause
  report : Option ThermalCause
  /-- requests that have arrived and are not served yet, oldest first (R411) -/
  pending : List Instr
  out : List Output
deriving DecidableEq, Repr, Inhabited

/-! ### The module -/

structure State where
  /-- MODEL'S OWN: the steps that the environment and the arbitration have chosen to come next, oldest first -/
  agenda : List Instr
  /-- MODEL'S OWN: the wave whose run issues next -/
  cur : Option Nat
  /-- MODEL'S OWN: counter of free values -/
  free : Nat
  /-- MODEL'S OWN: next number for a wave, group, flight, claim, signal or turn -/
  fresh : Nat
  waves : List Wave
  groups : List Group
  shadows : List Shadow
  mem : Memory
  /-- MODEL'S OWN: the first byte of the protected region that Sweolo has not given away -/
  protectNext : Nat
  /-- the protected region of device memory (R306, R311): 8-byte words by physical address / 8 -/
  protect : Sparse 64
  /-- the key under which each line that has been written is encrypted: physical address / 64, draw (R380, R381) -/
  lineKeys : List (Nat × Nat)
  /-- poisoned lines: physical address / 64 (R355) -/
  poisonMem : List Nat
  /-- lines whose metadata word is poisoned: physical address / 64 (R355) -/
  poisonMeta : List Nat
  /-- poisoned registers: wave, lane, register (R355) -/
  poisonReg : List (Nat × Nat × Nat)
  /-- poisoned buffer words: group, buffer (0 A, 1 W, 2 C), offset / 4 (R355) -/
  poisonBuf : List (Nat × Nat × Nat)
  /-- saved groups whose context is poisoned (R355, R356) -/
  poisonCtx : List Nat
  /-- corrected errors so far (R355) -/
  corrected : Nat
  flights : List Flight
  l1 : List L1Block
  llc : List LlcBlock
  /-- the homes' sharer masks, by superblock (IA / 256): the dies that may hold a replica (R300, R301) -/
  sharers : Sparse 4
  /-- page-attribute caches, the most recently used entry first (R309) -/
  pac : List PacEntry
  /-- replicas requested and not yet installed: die, IA of the line / 64, requesting partition (R301) -/
  fills : List (Nat × Nat × Nat)
  ranges : List RangeLock
  requests : List MonRequest
  grants : List Grant
  campion : List Campion
  waiters : List WordWaiter
  wakes : List Wake
  launches : List Launch
  queues : List Queue
  cores : List Core
  dies : Vector Die 4
  parts : List Part
  /-- the descriptors of the partitions that are not defined (R376) -/
  idle : Vector PartDesc 64
  /-- the channels whose frames each tenant's partitions have owned since they were last zeroed (R381) -/
  frames : Vector (BitVec 384) 64
  images : List MarkImage
  tenants : Vector TenantEntry 64
  /-- remote-memory tables: tenant, index, entry (R313) -/
  remotes : List (Nat × Nat × RemoteEntry)
  /-- windows: number, owner, exports (R306) -/
  windows : List (Nat × Nat × List Nat)
  /-- quotas: tenant, bank, lines (R302) -/
  quotas : List (Nat × Nat × Nat)
  /-- lent clusters: cluster, lender, borrower (R378) -/
  loans : List (Nat × Nat × Nat)
  /-- stopped clusters: die, cluster (R394) -/
  stopped : List (Nat × Nat)
  stops : List StopReq
  sessions : List Session
  fences : List FenceId
  /-- accepted send keys: the header with the highest n of each origin, launch and thread (R360, R370) -/
  keys : List SendHeader
  ioDead : List Nat
  /-- inbound packets dropped (R369), prefetches or sends dropped at commit (R364) -/
  dropped : Nat
  /-- snapshots that lapsed (R358) -/
  lapsed : Nat
  sweolo : Sweolo
deriving DecidableEq, Repr, Inhabited

/-- Why the machine stops with a fault. -/
inductive Fault where
  /-- Raised by a step of a stopped module with nothing on its agenda: after a shutdown (R409), in recovery (R403), or
  split by a second router fence (R363). Safe: the module does nothing there. -/
  | halted
deriving DecidableEq, Repr, Inhabited

/-- Why the model gives an instruction no meaning. -/
inductive Refusal where
  /-- Raised by `exec` for an instruction that has no meaning yet. Safe. -/
  | notModelled (mnemonic : String)
  /-- Raised by every instruction word when no wave is issuing: a word has no effect outside a run (R15). `step`
  never reaches it. Safe. -/
  | noIssuingWave
deriving DecidableEq, Repr, Inhabited

/-! ### Reset -/

def Clock.zero : Clock := ⟨0, 0, 0, 0⟩

/-- A lane that started exited, with every register zero (R14, R38). -/
def LaneCtx.empty : LaneCtx :=
  { pc := exitedPc, state := .exited, regs := [], preds := 0, depth := 0, ret := [], trapLevel := none, held := [],
    nflg := 0, waitSat := false, serial := 0xFFFFFFFF#32, join := 0, kept := [], sends := 0 }

def WaveCounters.zero : WaveCounters := ⟨0, 0, 0, 0, 0, 0, 0, 0, 0, 0⟩

/-- An unbound queue register (R211). -/
def QReg.unbound : QReg := ⟨none, none, [], [], []⟩

/-- A die after reset: clock zero (R263), operating point 3 (R405). -/
def Die.reset : Die := { clock := Clock.zero, watch := List.replicate 16 none, point := 3, limit := 7, cause := 0, lock := none, broken := false, pages := [] }

/-- A tenant-table entry that is not in use (R371, R405). -/
def TenantEntry.unused : TenantEntry := { v := false, keyix := 0, job := 0, sdi := 0, parts := 0, qmap := 0 }

/-- The descriptor of a partition that nothing has defined (R376). -/
def PartDesc.unused : PartDesc :=
  { v := false, tenant := 0, savei := 20, marki := 50, clusters := 0, owned := 0, banks := 0, channels := 0, engines := 0 }

/-- The image that a copy of the flash holds from manufacture (log 14). -/
def Image.first (k : Fin 3) : Image := { which := k, version := 0, root := 0, sigOk := true }

/-- The flash, the fuses and the counters of a module that has booted once (R382, R403; log 14). -/
def Firmware.reset : Firmware :=
  { a := #v[some (Image.first 0), some (Image.first 1), some (Image.first 2)],
    b := #v[some (Image.first 0), some (Image.first 1), some (Image.first 2)],
    activeA := #v[true, true, true], counters := #v[0, 0, 0], fresh := #v[false, false, false],
    revoked := #v[false, false, false, false] }

/-- The module right after reset, ready (R402, R405): nothing defined, memory zero, counters zero. -/
def State.reset : State :=
  { agenda := [], cur := none, free := 0, fresh := 0, waves := [], groups := [], shadows := [], mem := [],
    protectNext := Config.protectBase, protect := [], lineKeys := [], poisonMem := [], poisonMeta := [], poisonReg := [], poisonBuf := [], poisonCtx := [], corrected := 0, flights := [], l1 := [], llc := [], sharers := [], pac := [], fills := [], ranges := [], requests := [],
    grants := [], campion := [], waiters := [], wakes := [], launches := [], queues := [], cores := [],
    dies := #v[Die.reset, Die.reset, Die.reset, Die.reset], parts := [], idle := Vector.replicate 64 PartDesc.unused
    frames := Vector.replicate 64 0, images := [],
    tenants := Vector.replicate 64 TenantEntry.unused, remotes := [], windows := [], quotas := [], loans := [],
    stopped := [], stops := [], sessions := [], fences := [], keys := [], ioDead := [], dropped := 0, lapsed := 0,
    sweolo := { firmware := Firmware.reset, recovery := false
                loaded := #v[some (Image.first 0), some (Image.first 1), some (Image.first 2)], keySlots := [(0, 0)]
                job := 0xFFFFFF, powerLimit := Config.powerLimit, shutdown := none, report := none, pending := [], out := [] } }

end Sys2Proof.Machine
end

