-- ==== Sys2Proof/Machine/Cells.lean ====
section
/-! DEFINITION. Sparse maps, device memory and the buffers as bytes: one read and one write, and the wider accesses
built from them, least significant byte at the lowest address (R5). -/
namespace Sys2Proof.Machine

/-- The value at key k. -/
def spGet {w : Nat} : Sparse w → Nat → BitVec w
  | [], _ => 0
  | (a, v) :: m, k => if k = a then v else spGet m k

/-- The entry (k, v) put in front of the first larger key. -/
def spInsert {w : Nat} (k : Nat) (v : BitVec w) : Sparse w → Sparse w
  | [] => [(k, v)]
  | (a, x) :: m => if k < a then (k, v) :: (a, x) :: m else (a, x) :: spInsert k v m

/-- The map with value v at key k, in canonical form: writing zero removes the entry. -/
def spSet {w : Nat} (m : Sparse w) (k : Nat) (v : BitVec w) : Sparse w :=
  if v = 0 then m.filter fun c => c.1 ≠ k else spInsert k v (m.filter fun c => c.1 ≠ k)

/-- Keys strictly rise from lo on, and no entry is zero. -/
def spWfFrom {w : Nat} : Nat → Sparse w → Bool
  | _, [] => true
  | lo, (a, v) :: m => decide (lo ≤ a) && v != 0 && spWfFrom (a + 1) m

/-- The canonical form. -/
def spWf {w : Nat} (m : Sparse w) : Bool := spWfFrom 0 m

/-- The canonical form of a memory. -/
def memWf (m : Memory) : Bool := spWf m

/-- One byte. -/
def readByte (m : Memory) (a : Nat) : Byte := spGet m a
/-- One byte written. -/
def writeByte (m : Memory) (a : Nat) (b : Byte) : Memory := spSet m a b

/-- n bytes at a, as a number. -/
def readN (m : Memory) (a : Nat) : Nat → Nat
  | 0 => 0
  | n + 1 => (readByte m a).toNat + 256 * readN m (a + 1) n

/-- n bytes at a. -/
def readBytes (m : Memory) (a : Nat) : Nat → List Byte
  | 0 => []
  | n + 1 => readByte m a :: readBytes m (a + 1) n

/-- A list of bytes written at a. -/
def writeBytes (m : Memory) (a : Nat) : List Byte → Memory
  | [] => m
  | b :: bs => writeBytes (writeByte m a b) (a + 1) bs

/-- The n low bytes of a number. -/
def bytesOf (x : Nat) : Nat → List Byte
  | 0 => []
  | n + 1 => BitVec.ofNat 8 x :: bytesOf (x / 256) n

/-- The number that bytes spell. -/
def natOfBytes : List Byte → Nat
  | [] => 0
  | b :: bs => b.toNat + 256 * natOfBytes bs

/-- A number written as n bytes at a. -/
def writeN (m : Memory) (a n x : Nat) : Memory := writeBytes m a (bytesOf x n)

/-- Bytes lo to lo + n - 1 set to zero. -/
def zeroBytes (m : Memory) (lo n : Nat) : Memory := m.filter (fun c => c.1 < lo || lo + n ≤ c.1)

/-- Keep an element of a list when there is one, else put it at the end: replace every element the test accepts. -/
def putBy {α : Type} (p : α → Bool) (x : α) (l : List α) : List α :=
  if l.any p then l.map (fun y => if p y then x else y) else l ++ [x]

/-- Insert in ascending order of a key. -/
def insBy {α : Type} (f : α → Nat) (x : α) : List α → List α
  | [] => [x]
  | y :: l => if f x < f y then x :: y :: l else y :: insBy f x l

/-- Sort in ascending order of a key, stably. -/
def sortBy {α : Type} (f : α → Nat) (l : List α) : List α := l.foldl (fun acc x => insBy f x acc) []

/-- The element with the least key, the first on a tie. -/
def minBy {α : Type} (f : α → Nat) : List α → Option α
  | [] => none
  | x :: l =>
    match minBy f l with
    | none => some x
    | some y => if f y < f x then some y else some x

/-- Distinct elements, first occurrences. -/
def distinct {α : Type} [DecidableEq α] (l : List α) : List α :=
  l.foldl (fun acc x => if acc.contains x then acc else acc ++ [x]) []

/-- Element k, or a default. -/
def nthD {α : Type} (l : List α) (k : Nat) (d : α) : α := (l[k]?).getD d

/-- One element replaced. -/
def setNth {α : Type} (l : List α) (k : Nat) (x : α) : List α := l.set k x

end Sys2Proof.Machine
end

