-- ==== Sys2Proof/Machine/Trace.lean ====
section
/-! DEFINITION. The trace stream of Sweolo: records, the buffer of a session and its losses (R388 to R391). -/
namespace Sys2Proof.Machine

/-- Bytes of a record by its SIZE (R389). -/
def recBytes (r : TraceRec) : Nat := 64 * (r.size + 1)

/-- What a session's buffer takes of a record: a DROP record before the first one written after room returns (R391), PLACE only
for the management job (R386); nothing when the buffer is full, where the record is lost. -/
def recordsFor (x : Session) (r : TraceRec) : List TraceRec :=
  let used := x.recs.foldl (fun n y => n + recBytes y) 0
  let drop : List TraceRec := if x.lost = 0 then [] else
    [{ typ := 0x0F, size := 0, spn := false, ix := false, brk := r.brk, launch := 0, name := 0, lmask := 0, pc := 0, place := none, body := x.lost }]
  if used + recBytes r + 64 * drop.length ≤ x.bytes then drop ++ [{ r with place := if x.mgmt then r.place else none }] else []

/-- A record written to the session of a partition, or lost when the buffer is full (R388, R391); what is written is delivered
at once. Without a session it goes nowhere. -/
def emit (s : State) (part : Nat) (r : TraceRec) : State :=
  let new (x : Session) : List TraceRec := if x.part = part then recordsFor x r else []
  { s with
    sessions := s.sessions.map fun x =>
      if x.part = part then { x with recs := x.recs ++ recordsFor x r, lost := if (recordsFor x r).isEmpty then x.lost + 1 else 0 }
      else x
    sweolo := { s.sweolo with out := s.sweolo.out ++ (s.sessions.flatMap new).map fun y => .trace part y } }

/-- A field of a record body. -/
def fld (x lo n : Nat) : Nat := x % 2 ^ n * 2 ^ lo

/-- PLACE and MGMT of a record: zero in one that is not for the management job (R386). -/
def placeBits : Option (Nat × Nat × Nat × Nat) → Nat
  | none => 0
  | some (die, core, quad, slot) => fld 1 12 1 + fld die 304 2 + fld core 306 6 + fld quad 312 2 + fld slot 314 4

/-- A record of a partition's session as it is delivered (R389), for a module time in ns: the header and then the body. -/
def recordBits (part : Nat) (time : DWord) (r : TraceRec) : BitVec 1536 :=
  BitVec.ofNat (512 * (r.size + 1)) (fld r.typ 0 8 + fld r.size 8 2 + fld r.spn.toNat 10 1 + fld r.ix.toNat 11 1 + placeBits r.place + fld r.brk.toNat 13 1
    + fld part 16 6 + fld time.toNat 32 64 + fld r.launch.toNat 96 64 + fld r.name.toNat 160 64 + fld r.lmask.toNat 224 32
    + fld r.pc.toNat 256 48 + r.body * 2 ^ 320) |>.zeroExtend 1536

/-- A record that concerns no thread (R385). -/
def plainRec (typ size body : Nat) (brk : Bool) : TraceRec :=
  { typ := typ, size := size, spn := false, ix := false, brk := brk, launch := 0, name := 0, lmask := 0, pc := 0, place := none, body := body }

/-- A TEASEL record: 0 mark taken, 1 committed, 2 rollback, 3 snapshot lapse (R390). -/
def emitTeasel (s : State) (part kind seq : Nat) : State := emit s part (plainRec 0x0B 0 (fld kind 0 2 + fld seq 32 32) false)

/-- What the module answers. -/
def answer (s : State) (x : Output) : State := { s with sweolo := { s.sweolo with out := s.sweolo.out ++ [x] } }

/-- An operation that leaves under the job and the secure domain of a tenant (R370). -/
def sendFor (s : State) (tenant : Nat) (x : Outbound) : State :=
  let e := s.tenants.get (Fin.ofNat 64 tenant)
  answer s (.sent e.job e.sdi x)

end Sys2Proof.Machine
end

