-- ==== Sys2Proof/Machine/Space.lean ====
section
/-! DEFINITION. The address path of a global access: pointer (R140), range registers (R295), windows, leaves and
frames (R296, R306 to R308, R381), remote memory (R313), metadata words (R271, R314), clocks (R263), the L1 (R297 to
R299) and the last-level cache (R300 to R304). -/
namespace Sys2Proof.Machine

/-! ### Clocks -/

/-- Entry e of a clock. -/
def clockAt (c : Clock) (e : Nat) : Word :=
  if e = 0 then c.c0 else if e = 1 then c.c1 else if e = 2 then c.c2 else c.c3

/-- The clock with entry e set. -/
def clockSet (c : Clock) (e : Nat) (x : Word) : Clock :=
  if e = 0 then { c with c0 := x } else if e = 1 then { c with c1 := x }
  else if e = 2 then { c with c2 := x } else { c with c3 := x }

/-- Serial-number comparison modulo 2^32 (R263). -/
def serialGe (a b : Word) : Bool := decide ((a - b).toNat < 2 ^ 31)

/-- Does clock a count everything in clock b? -/
def clockCounts (a b : Clock) : Bool :=
  serialGe a.c0 b.c0 && serialGe a.c1 b.c1 && serialGe a.c2 b.c2 && serialGe a.c3 b.c3

/-- The later of two entries, entry by entry. -/
def clockMax (a b : Clock) : Clock :=
  let m (x y : Word) : Word := if serialGe x y then x else y
  ⟨m a.c0 b.c0, m a.c1 b.c1, m a.c2 b.c2, m a.c3 b.c3⟩

/-- The state of die d. -/
def dieAt (s : State) (d : Nat) : Die := s.dies.get (Fin.ofNat 4 d)

/-- A die changed. -/
def modDie (s : State) (d : Nat) (f : Die → Die) : State :=
  { s with dies := Vector.ofFn fun k => if k = Fin.ofNat 4 d then f (s.dies.get k) else s.dies.get k }

/-- The clock of die d. -/
def clockOf (s : State) (d : Nat) : Clock := (dieAt s d).clock

/-! ### Pointers, ranges and pages -/

/-- The 57-bit virtual address of a pointer, none when [62:60] differ from [63] (R140). -/
def pointerVa (p : DWord) : Option Nat :=
  let top := bitsOf p.toNat 63 1
  if bitsOf p.toNat 60 3 = (if top = 1 then 7 else 0) then some (bitsOf p.toNat 0 56 + 2 ^ 56 * top) else none

/-- The tag key of a pointer (R140). -/
def pointerKey (p : DWord) : Nat := bitsOf p.toNat 56 4

/-- The virtual address whether or not [62:60] are legal: what a watch slot compares (R230). -/
def pointerBits (p : DWord) : Nat := bitsOf p.toNat 0 56 + 2 ^ 56 * bitsOf p.toNat 63 1

/-- Partition n. -/
def findPart (s : State) (n : Nat) : Option Part := s.parts.find? (fun p => p.n = n)

/-- A partition changed. -/
def modPart (s : State) (n : Nat) (f : Part → Part) : State :=
  { s with parts := s.parts.map fun p => if p.n = n then f p else p }

/-- The tenant of partition n. -/
def tenantOf (s : State) (n : Nat) : Nat :=
  match findPart s n with
  | some p => p.desc.tenant.toNat
  | none => 0

/-- The register that covers a virtual address (R295). -/
def rangeOf (p : Part) (va : Nat) : Option RangeReg :=
  p.ranges.toList.find? fun r => r.v && r.vbase.toNat ≤ va / 2 ^ 16 && va / 2 ^ 16 ≤ r.vlast.toNat

/-- Bytes of a page at a level of the tables (R306). -/
def pageBytes (l : Fin 4) : Nat :=
  match l with
  | 0 => 2 ^ 36 | 1 => 2 ^ 29 | 2 => 2 ^ 21 | 3 => 2 ^ 16

/-- The home die of an IA (R296). -/
def homeDie (ia : Nat) : Nat := ia / 4096 % 4

/-- The bank of an IA on its die (R296). -/
def bankOf (ia : Nat) : Nat := 16 * (ia / 2 ^ 14 % 4) + ia / 256 % 16

/-- The channels that a partition owns on die d, ascending (R308, R376). -/
def channelsOn (p : Part) (d : Nat) : List Nat :=
  (List.range Config.channelsPerDie).filter fun c => p.desc.channels.getLsbD (96 * d + c)

/-- The owner of the window of an IA (R306). -/
def windowOwner (s : State) (ia : Nat) : Option (Nat × List Nat) :=
  (s.windows.find? fun x => x.1 = ia / 2 ^ 36).map (·.2)

/-- A page found: its first IA, its leaf, the partition whose table holds it, and the physical address of the entry. -/
structure Page where
  base : Nat
  leaf : Leaf
  owner : Part
  entry : Nat

/-! ### Second-stage tables (R306, R307) -/

/-- A word of the protected region. -/
def protectGet (s : State) (a : Nat) : DWord := spGet s.protect (a / 8)
def protectSet (s : State) (a : Nat) (x : DWord) : State := { s with protect := spSet s.protect (a / 8) x }

/-- Entries of a table at a level. -/
def tableEntries (l : Fin 4) : Nat :=
  match l with
  | 0 => 4096 | 1 => 128 | 2 => 256 | 3 => 32

/-- The physical address of the entry of a table that an IA selects. -/
def entryAddr (table : Nat) (l : Fin 4) (ia : Nat) : Nat := table + 8 * (ia / pageBytes l % tableEntries l)

/-- The fields of an entry (R307). -/
def entryV (e : DWord) : Bool := e.getLsbD 0
def entryLeaf (e : DWord) : Bool := e.getLsbD 1
/-- The address of the next table, ADDR of a non-leaf. -/
def entryTable (e : DWord) : Nat := bitsOf e.toNat 16 40

/-- A leaf entry as its fields. -/
def leafOfEntry (l : Fin 4) (e : DWord) : Leaf :=
  { v := e.getLsbD 0, level := l, res := e.getLsbD 2, rp := e.getLsbD 3, wp := e.getLsbD 4, xp := e.getLsbD 5, ab := e.getLsbD 6
    db := e.getLsbD 7, keyix := e.extractLsb' 8 8, frame := e.extractLsb' 16 38 }

/-- Does an entry keep its map at a level (R307): mapped, [63:56] zero, a leaf at level 3, [55:54] of a leaf zero, and the
next table 256-byte aligned? -/
def entryOk (l : Fin 4) (e : DWord) : Bool :=
  entryV e && bitsOf e.toNat 56 8 = 0 &&
    if entryLeaf e then bitsOf e.toNat 54 2 = 0 else decide (l.val < 3) && entryTable e % 256 = 0

/-- The walk of `n` levels from a table: the leaf entry it ends at with its level and address; none where an entry is
unmapped or breaks its map. -/
def walkFrom (s : State) (ia : Nat) : Nat → Nat → Option (Fin 4 × DWord × Nat)
  | 0, _ => none
  | n + 1, table =>
    let l : Fin 4 := Fin.ofNat 4 (3 - n)
    let a := entryAddr table l ia
    let e := protectGet s a
    if !entryOk l e then none
    else if entryLeaf e then some (l, e, a)
    else walkFrom s ia n (entryTable e)

/-- The walk of a partition's table. -/
def walk (s : State) (p : Part) (ia : Nat) : Option (Fin 4 × DWord × Nat) := walkFrom s ia 4 p.root

/-- Does the walker accept a leaf (R307, R308, R381)? -/
def leafOk (s : State) (o : Part) (l : Leaf) : Bool :=
  let t := s.tenants.get (Fin.ofNat 64 o.desc.tenant.toNat)
  l.v && l.frame.toNat % (pageBytes l.level / 4) = 0 && t.v && l.keyix = t.keyix
    && (List.range 4).all fun d =>
      l.frame.toNat + pageBytes l.level / 4 ≤ Config.frameBytes * (channelsOn o d).length

/-- The page of a device IA in the table of its window's owner; none when the walker finds it unmapped. -/
def pageOf (s : State) (ia : Nat) : Option Page :=
  match windowOwner s ia with
  | none => none
  | some (o, _) =>
    match findPart s o with
    | none => none
    | some p =>
      match walk s p ia with
      | none => none
      | some (l, e, a) => if leafOk s p (leafOfEntry l e) then some ⟨ia / pageBytes l * pageBytes l, leafOfEntry l e, p, a⟩ else none

/-- The physical byte address of an IA in a page (R308). -/
def physIn (g : Page) (ia : Nat) : Nat :=
  let d := homeDie ia
  let o := g.leaf.frame.toNat + 4096 * ((ia - g.base) / 16384) + ia % 4096
  let cs := channelsOn g.owner d
  let c := nthD cs (o / 256 % cs.length) 0
  (Config.channelsPerDie * d + c) * Config.channelBytes + 256 * (o / (256 * cs.length)) + o % 256

/-- The physical address of an IA. -/
def physOf (s : State) (ia : Nat) : Option Nat := (pageOf s ia).map (physIn · ia)

/-- The physical address of the metadata word of the granule of a physical address (R314). -/
def metaAddr (phys : Nat) : Nat :=
  phys / Config.channelBytes * Config.channelBytes + Config.frameBytes + 2 * (phys % Config.channelBytes / 64)

/-- The channel of a physical address among those of a partition: its die and its place in the die's list (R308). -/
def channelAt (p : Part) (a : Nat) : Option (Nat × Nat × Nat) :=
  let ch := a / Config.channelBytes
  let cs := channelsOn p (ch / Config.channelsPerDie)
  if p.desc.channels.getLsbD ch then some (ch / Config.channelsPerDie, (cs.filter fun c => c < ch % Config.channelsPerDie).length, cs.length) else none

/-- The die-local frame offset of the granule whose metadata word holds a physical byte (R308, R314). -/
def metaOffset (p : Part) (a : Nat) : Option Nat :=
  let x := a % Config.channelBytes
  match channelAt p a with
  | some (_, k, n) => if x < Config.frameBytes then none else
      let y := 64 * ((x - Config.frameBytes) / 2)
      some (y / 256 * (256 * n) + 256 * k + y % 256)
  | none => none

/-- The die-local frame offset of a physical data byte (R308). -/
def frameOffset (p : Part) (a : Nat) : Option Nat :=
  let x := a % Config.channelBytes
  match channelAt p a with
  | some (_, k, n) => if x < Config.frameBytes then some (x / 256 * (256 * n) + 256 * k + x % 256) else none
  | none => none

/-- Where a global address leads. -/
structure Spot where
  ia : Nat
  /-- none for remote memory -/
  page : Option Page
  remote : Option RemoteEntry
  rp : Bool
  wp : Bool
  xp : Bool
  res : Bool

/-- The remote-memory entry of an IA (R313). -/
def remoteOf (s : State) (tenant ia : Nat) : Option RemoteEntry :=
  (s.remotes.find? fun x => x.1 = tenant && x.2.2.v && x.2.2.iabase.toNat ≤ ia
    && ia ≤ x.2.2.iabase.toNat + x.2.2.last.toNat).map (·.2.2)

/-- A device or remote IA seen from a partition, with the register that led to it. An exported window is read-only to those that
do not own it, whatever their registers said when they did (R306). -/
def spotOf (s : State) (p : Part) (r : RangeReg) (ia : Nat) : Option Spot :=
  if ia / 2 ^ 51 % 2 = 1 then
    match remoteOf s p.desc.tenant.toNat ia with
    | none => none
    | some e =>
      some ⟨ia, none, some e, r.rp && e.rp && !s.fences.contains (.peer p.desc.tenant.toNat e.endpoint), r.wp && e.wp, false, true⟩
  else if ia / 2 ^ 48 % 8 ≠ 0 then none
  else
    match pageOf s ia with
    | none => none
    | some g =>
      let own : Bool := g.owner.n = p.n
      let here := own || (match windowOwner s ia with | some (_, xs) => xs.contains p.n | none => false)
      if here then some ⟨ia, some g, none, r.rp && g.leaf.rp, r.wp && g.leaf.wp && own, r.xp && g.leaf.xp && own, g.leaf.res⟩ else none

/-- Stages 1 and 2 of R293: where a pointer leads in a partition; none when it is unmapped. -/
def locate (s : State) (part : Nat) (ptr : DWord) : Option Spot :=
  match findPart s part, pointerVa ptr with
  | some p, some va =>
    match rangeOf p va with
    | some r => spotOf s p r (r.iabase.toNat * 2 ^ 16 + (va - r.vbase.toNat * 2 ^ 16))
    | none => none
  | _, _ => none

/-- AB, and DB for a write, of a page set in its entry (R309). -/
def markPage (s : State) (g : Page) (write : Bool) : State :=
  if g.leaf.ab && (g.leaf.db || !write) then s
  else protectSet s g.entry (protectGet s g.entry ||| (if write then 0xC0 else 0x40))

/-- AB, and DB for a write, of the page of an IA (R309): an access of an engine or of the hardware. -/
def markAccessed (s : State) (ia : Nat) (write : Bool) : State :=
  match pageOf s ia with
  | none => s
  | some g => markPage s g write

/-- The entry of a page that a core's page-attribute cache is filled with. -/
def newPac (die core : Nat) (g : Page) : PacEntry :=
  { die := die, core := core, base := g.base, level := g.leaf.level, rp := g.leaf.rp, wp := g.leaf.wp, xp := g.leaf.xp
    res := g.leaf.res, keyix := g.leaf.keyix, ab := false, db := false }

/-- An entry of a core's page-attribute cache used last; the least recently used one makes way (log 64). -/
def pacPut (s : State) (e : PacEntry) : State :=
  let rest := s.pac.filter fun x => !(x.die = e.die && x.core = e.core && x.base = e.base && x.level = e.level)
  let mine := rest.filter fun x => x.die = e.die && x.core = e.core
  let kept := match (if mine.length < Config.pacEntries then none else mine.getLast?) with
    | some v => rest.filter fun x => x ≠ v
    | none => rest
  { s with pac := e :: kept }

/-- A page met by a core (R309): its page-attribute cache holds it. Scout and prefetch (`mark` none) send no message; an
access sets AB, and a write DB, by a message that this core has not yet sent. -/
def pacTouch (s : State) (die core ia : Nat) (mark : Option Bool) : State :=
  match pageOf s ia with
  | none => s
  | some g =>
    let old := (s.pac.find? fun x => x.die = die && x.core = core && x.base = g.base && x.level = g.leaf.level).getD (newPac die core g)
    match mark with
    | none => pacPut s old
    | some w =>
      let s1 := pacPut s { old with ab := true, db := old.db || w }
      if old.ab && (old.db || !w) then s1 else markPage s1 g w

/-- An access of a core to a page (R309). -/
def coreAccess (s : State) (die core ia : Nat) (write : Bool) : State := pacTouch s die core ia (some write)

/-! ### Lines -/

/-- The key that a slot holds, by its draw (R380). -/
def slotKey (s : State) (slot : Nat) : Nat := ((s.sweolo.keySlots.find? fun x => x.1 = slot).map (·.2)).getD 0

/-- The key of a page: that of the slot that its leaf names (R381). -/
def pageKey (s : State) (g : Page) : Nat := slotKey s g.leaf.keyix.toNat

/-- The key under which a line is encrypted, none for a line that nothing has written since memory was zeroed (R381). -/
def lineKeyOf (s : State) (a : Nat) : Option Nat := (s.lineKeys.find? fun x => x.1 = a / 64).map (·.2)

/-- A line and its metadata word as they stand. -/
def lineRaw (s : State) (a : Nat) : BitVec 528 :=
  BitVec.ofNat 16 (readN s.mem (metaAddr (64 * (a / 64))) 2) ++ BitVec.ofNat 512 (readN s.mem (64 * (a / 64)) 64)

/-- A line, with its metadata word above it, read under a key (R381). -/
def lineView (s : State) (key : Nat) (a : Nat) : BitVec 528 :=
  match lineKeyOf s a with
  | some k => if k = key then lineRaw s a else Config.garble (Config.keyBits k) (Config.keyBits key) (a / 64) (lineRaw s a)
  | none => lineRaw s a

/-- The line encrypted under a key from now on: what a write under that key leaves of its other bytes (R381). -/
def underKey (s : State) (key : Nat) (a : Nat) : State :=
  match lineKeyOf s a with
  | some k =>
    if k = key then s
    else
      let v := lineView s key a
      let m := writeN s.mem (64 * (a / 64)) 64 (v.extractLsb' 0 512).toNat
      { s with mem := writeN m (metaAddr (64 * (a / 64))) 2 (v.extractLsb' 512 16).toNat
               lineKeys := putBy (fun x => x.1 = a / 64) (a / 64, key) s.lineKeys }
  | none => { s with lineKeys := s.lineKeys ++ [(a / 64, key)] }

/-- Is a line of a page encrypted under the page's key, or not written at all? -/
def keyHere (s : State) (g : Page) (a : Nat) : Bool := (lineKeyOf s a).all (· = pageKey s g)

/-- A byte of a page, decrypted with the page's key. -/
def pageByte (s : State) (g : Page) (ia : Nat) : Byte :=
  let a := physIn g ia
  if keyHere s g a then readByte s.mem a else (lineView s (pageKey s g) a).extractLsb' (8 * (a % 64)) 8

/-- The line at the home: data and metadata word (R272, R293), with its poison marks; zeros where nothing is mapped. -/
def homeLine (s : State) (line : Nat) : L1Line :=
  match pageOf s (64 * line) with
  | none => ⟨0, 0, Clock.zero, false, false⟩
  | some g =>
    let a := physIn g (64 * line)
    let v := lineView s (pageKey s g) a
    ⟨v.extractLsb' 0 512, v.extractLsb' 512 16, Clock.zero, s.poisonMem.contains (a / 64), s.poisonMeta.contains (a / 64)⟩

/-- Bytes written into a line. -/
def linePut (x : L1Line) (off : Nat) (bs : List Byte) : L1Line :=
  let keep := x.data.toNat % 2 ^ (8 * off)
  let top := x.data.toNat / 2 ^ (8 * (off + bs.length)) * 2 ^ (8 * (off + bs.length))
  { x with data := BitVec.ofNat 512 (top + natOfBytes bs * 2 ^ (8 * off) + keep) }

/-- A metadata word with a new colour (R271). -/
def metaColour (m : BitVec 16) (c : BitVec 6) : BitVec 16 := c ++ m.extractLsb' 6 4 ++ (0 : BitVec 6)
/-- A metadata word with a new key. -/
def metaKey (m : BitVec 16) (k : BitVec 4) : BitVec 16 := m.extractLsb' 10 6 ++ k ++ (0 : BitVec 6)
/-- The key of a metadata word. -/
def keyOf (m : BitVec 16) : Nat := bitsOf m.toNat 6 4
/-- The colour of a metadata word. -/
def colourOf (m : BitVec 16) : BitVec 6 := m.extractLsb' 10 6

/-- A write in flight laid over a line. -/
def lineWith (line : Nat) (x : L1Line) (f : Flight) : L1Line :=
  if f.ia / 64 = line then
    match f.kind with
    | .store bs => linePut x (f.ia % 64) bs
    | .colour c => { x with meta16 := metaColour x.meta16 c }
    | .key k => { x with meta16 := metaKey x.meta16 k }
    | .atom .. => x
  else x

/-- The L1 copy of a line (R297). -/
def l1Find (s : State) (die core line : Nat) : Option L1Line :=
  match s.l1.find? (fun b => b.die = die && b.core = core && b.tag = line / 4) with
  | some b => b.lines.get (Fin.ofNat 4 line)
  | none => none

/-- The block of the last-level cache of a die that holds a line's superblock. -/
def llcFind (s : State) (die line : Nat) : Option LlcBlock := s.llc.find? (fun b => b.die = die && b.tag = line / 4)

/-- The line of a die's last-level cache. -/
def llcLine (s : State) (die line : Nat) : Option LlcLine :=
  match llcFind s die line with
  | some b => b.lines.get (Fin.ofNat 4 line)
  | none => none

/-- A die's replica of a line. -/
def replicaOf (s : State) (die line : Nat) : Option L1Line :=
  match llcLine s die line with
  | some x => x.replica
  | none => none

/-- Is a write that has been performed still missing in a die's replica: the die has to apply it, and the replica was not
filled from the home after it (R262, R263)? -/
def lacks (die : Nat) (x : L1Line) (f : Flight) : Bool :=
  f.todo.contains die && match f.left with
    | some (o, st) => !serialGe (clockAt x.clock o) (clockAt st o)
    | none => false

/-- Does the copy that a die reads not show a store of its own yet? Its replica shows a store once it is applied there, and an
atomic executed there at once; the home, where the die holds no copy, shows it once it has been performed there, in its place
among the writes to the line (R170, R257, R262). -/
def unshown (s : State) (die line : Nat) (f : Flight) : Bool :=
  match replicaOf s die line with
  | some x => !f.atReplica && (f.performed.isNone || lacks die x f)
  | none => f.performed.isNone

/-- The stores of a core that its die's copy does not show yet laid over it (R143, R257). -/
def overlay (s : State) (die core line : Nat) (x : L1Line) : L1Line :=
  s.flights.foldl (fun acc f =>
    if f.die = die && f.core = core && f.ia / 64 = line && unshown s die line f then lineWith line acc f else acc) x

/-- What a load of a core that misses its L1 reads of a line (R262, R263). -/
def dieLine (s : State) (die core line : Nat) : L1Line :=
  let h := homeDie (64 * line)
  overlay s die core line
    (if h = die then homeLine s line
     else match replicaOf s die line with
       | some x => x
       | none => { homeLine s line with clock := clockOf s h })

/-- What a load of a core reads of a line. -/
def coreLine (s : State) (die core line : Nat) : L1Line :=
  match l1Find s die core line with
  | some x => x
  | none => dieLine s die core line

/-- n bytes of a line at an offset, as a number. -/
def lineGet (x : L1Line) (off n : Nat) : Nat := bitsOf x.data.toNat (8 * off) (8 * n)

/-! ### L1 -/

/-- A line made valid in an L1: least recently used superblock of the set evicted whole (R297, R298). -/
def l1Fill (s : State) (die core line : Nat) (x : L1Line) : State :=
  let row (t : Nat) : Nat := t % 128
  let mine := fun (b : L1Block) => b.die = die && b.core = core && b.tag = line / 4
  let old : L1Block := (s.l1.find? mine).getD ⟨die, core, line / 4, #v[none, none, none, none]⟩
  let new : L1Block := { old with lines := Vector.ofFn fun k => if k = Fin.ofNat 4 line then some x else old.lines.get k }
  let rest := s.l1.filter fun b => !mine b
  let same := fun (b : L1Block) => b.die = die && b.core = core && row b.tag = row (line / 4)
  let n := (rest.filter same).length
  let victim := if n < 8 then none else (rest.filter same).getLast?
  { s with l1 := new :: (match victim with | none => rest | some v => rest.filter fun b => b ≠ v) }

/-- Lines of an L1 block that the test accepts made invalid. -/
def l1Filter (s : State) (p : L1Block → Fin 4 → L1Line → Bool) : State :=
  let keep (b : L1Block) : L1Block :=
    { b with lines := Vector.ofFn fun k => (b.lines.get k).bind fun x => if p b k x then none else some x }
  { s with l1 := (s.l1.map keep).filter fun b => b.lines.toList.any Option.isSome }

/-- The whole L1 of a core invalidated (R299). -/
def l1DropAll (s : State) (die core : Nat) : State := l1Filter s fun b _ _ => b.die = die && b.core = core
/-- The L1 lines of a core whose copy carries colour c invalidated (R149, R299). -/
def l1DropColour (s : State) (die core : Nat) (c : BitVec 6) : State :=
  l1Filter s fun b _ x => b.die = die && b.core = core && colourOf x.meta16 = c
/-- A line invalidated in one L1 (R169, R298). -/
def l1DropLine (s : State) (die core line : Nat) : State :=
  l1Filter s fun b k _ => b.die = die && b.core = core && 4 * b.tag + k.val = line
/-- A line invalidated in every L1 (R273). -/
def l1DropEvery (s : State) (line : Nat) : State := l1Filter s fun b k _ => 4 * b.tag + k.val = line

/-- A store of the core updates a valid copy (R298). -/
def l1Update (s : State) (die core line : Nat) (f : L1Line → L1Line) : State :=
  { s with l1 := s.l1.map fun b =>
      if b.die = die && b.core = core && b.tag = line / 4 then
        { b with lines := Vector.ofFn fun k => if k = Fin.ofNat 4 line then (b.lines.get k).map f else b.lines.get k }
      else b }

/-! ### The last-level cache -/

/-- Do two superblocks share bank and set (R296)? -/
def sameSet (a b : Nat) : Bool := a % 16 = b % 16 && a / 64 % 4 = b / 64 % 4 && a / 256 % 256 = b / 256 % 256

/-! Monitor-table entries are pinned lines (R274, R305): the entry of colour c of tenant t lies in bank 4 × (t mod 16) +
c div 16 of die c mod 4. The set and the line of way 15 are the model's choice: set 4 × (t div 16) + (c div 4 mod 4), line 0,
so that no set has two entries (DESIGN CHOICE, log 65). -/

/-- Where the entry of a colour of a tenant is pinned: die, bank, set. -/
def pinOf (tenant : Nat) (c : BitVec 6) : Nat × Nat × Nat :=
  (c.toNat % 4, 4 * (tenant % 16) + c.toNat / 16, 4 * (tenant / 16) + c.toNat / 4 % 4)

/-- Is a line of way 15 of the set of a superblock pinned on a die (R305)? -/
def pinned (s : State) (die tag : Nat) : Bool :=
  s.campion.any fun e => pinOf e.tenant e.colour = (die, bankOf (256 * tag), tag / 256 % 256)

/-- Does a block stand in way 15 beside a pinned line? -/
def besidePin (s : State) (b : LlcBlock) : Bool := b.way = 15 && pinned s b.die b.tag

/-- Lines charged to a tenant in a bank (R302, R274). -/
def chargeOf (s : State) (die bank tenant : Nat) : Nat :=
  (s.llc.filter fun b => b.die = die && bankOf (256 * b.tag) = bank).foldl (fun n b =>
    n + (b.lines.toList.filter fun x => match x with | some y => y.tenant = tenant | none => false).length) 0
  + (s.campion.filter fun c => c.tenant = tenant && (pinOf c.tenant c.colour).1 = die && (pinOf c.tenant c.colour).2.1 = bank).length

/-- The quota of a tenant in a bank of the module (R302). -/
def quotaOf (s : State) (tenant bank : Nat) : Nat :=
  match s.quotas.find? (fun q => q.1 = tenant && q.2.1 = bank) with
  | some q => q.2.2
  | none => 0

/-- The superblock that a fill evicts from a full set; one with a monitor-table entry is never chosen (R303). -/
def victimOf (s : State) (die tag tenant : Nat) : Option LlcBlock :=
  let row := s.llc.filter fun b => b.die = die && sameSet b.tag tag && !besidePin s b
  let bank := bankOf (256 * tag)
  let above := fun (t : Nat) => quotaOf s t (64 * die + bank) < chargeOf s die bank t
  let lines := fun (b : LlcBlock) => b.lines.toList.filterMap id
  match (row.filter fun b => (lines b).any fun x => above x.tenant).getLast? with
  | some b => some b
  | none =>
    match (row.filter fun b => (lines b).all fun x => x.tenant = tenant).getLast? with
    | some b => some b
    | none => row.getLast?

/-- The way that a new superblock takes, with the superblock it evicts: the lowest free way, way 15 beside a pin only for
lines that the entry leaves (R303, R305). -/
def wayFor (s : State) (die line tenant : Nat) : Option (Nat × Option LlcBlock) :=
  let tag := line / 4
  let used := (s.llc.filter fun b => b.die = die && sameSet b.tag tag).map (·.way)
  let top := if pinned s die tag && line % 4 = 0 then 15 else 16
  match (List.range top).find? fun w => !used.contains w with
  | some w => some (w, none)
  | none => (victimOf s die tag tenant).map fun v => (v.way, some v)

/-- A line in a superblock. -/
def blockPut (b : LlcBlock) (line : Nat) (x : LlcLine) : LlcBlock :=
  { b with lines := Vector.ofFn fun k => if k = Fin.ofNat 4 line then some x else b.lines.get k }

/-- A superblock put into a way that can hold the line, the most recently used standing first. -/
def llcSeat (s : State) (b : LlcBlock) (line tenant : Nat) : State :=
  match wayFor s b.die line tenant with
  | none => s
  | some (w, v) => { s with llc := { b with way := w } :: (match v with | some y => s.llc.filter fun z => z ≠ y | none => s.llc) }

/-- A line put into a die's bank (R300), the most recently used superblock standing first. A superblock of way 15 whose line 0 a
monitor-table entry keeps out moves to another way for that line (R305; log 65). -/
def llcPut (s : State) (die line tenant : Nat) (x : LlcLine) : State :=
  let tag := line / 4
  let mine := fun (b : LlcBlock) => b.die = die && b.tag = tag
  let others : State := { s with llc := s.llc.filter fun b => !mine b }
  match s.llc.find? mine with
  | some b =>
    if besidePin s b && line % 4 = 0 then llcSeat others (blockPut b line x) line tenant
    else { others with llc := blockPut b line x :: others.llc }
  | none => llcSeat s (blockPut ⟨die, tag, 0, #v[none, none, none, none]⟩ line x) line tenant

/-- The lines of way 15 that monitor-table entries occupy hold nothing else: the line there is evicted as an entry is
made (R305). -/
def pinLines (s : State) : State :=
  let clear (b : LlcBlock) : LlcBlock :=
    if besidePin s b then { b with lines := Vector.ofFn fun k => if k = 0 then none else b.lines.get k } else b
  { s with llc := (s.llc.map clear).filter fun b => b.lines.toList.any Option.isSome }

/-- Die counters of a partition changed (R228). -/
def modDieCounters (s : State) (part die : Nat) (f : DieCounters → DieCounters) : State :=
  modPart s part fun p =>
    let old := (p.counters.find? fun c => c.die = die).getD ⟨die, 0, 0, 0, List.replicate 16 0⟩
    { p with counters := putBy (fun c => c.die = die) (f old) p.counters }

/-- A line met in a die's bank: a hit by the line's own tenant renews its recency, and a write makes a home line dirty
(R300, R304); a miss allocates, at the home. -/
def llcMeet (s : State) (tenant die line : Nat) (write : Bool) : State :=
  match llcLine s die line with
  | some x =>
    let y := if write && homeDie (64 * line) = die then { x with dirty := true } else x
    if x.tenant = tenant then llcPut s die line tenant y
    else { s with llc := s.llc.map fun b =>
        if b.die = die && b.tag = line / 4 then
          { b with lines := Vector.ofFn fun k => if k = Fin.ofNat 4 line then some y else b.lines.get k }
        else b }
  | none => if homeDie (64 * line) = die then llcPut s die line tenant ⟨tenant, write, none⟩ else s

/-- A lookup of a line in a die's bank for a partition's thread or command: counted (R228). -/
def llcTouch (s : State) (part tenant die line : Nat) (write : Bool) : State :=
  let hit := (llcLine s die line).isSome
  llcMeet (modDieCounters s part die fun c =>
    if hit then { c with llcHits := c.llcHits + 1 } else { c with llcMisses := c.llcMisses + 1 }) tenant die line write

/-- A replica changed where the die holds one (R263, R301). -/
def replicaUpdate (s : State) (die line : Nat) (f : L1Line → L1Line) : State :=
  { s with llc := s.llc.map fun b =>
      if b.die = die && b.tag = line / 4 then
        { b with lines := Vector.ofFn fun k =>
            if k = Fin.ofNat 4 line then (b.lines.get k).map fun x => { x with replica := x.replica.map f }
            else b.lines.get k }
      else b }

/-- Lines dropped from every die's cache: the replicas of a line (R273). -/
def dropReplicas (s : State) (line : Nat) : State :=
  { s with llc := (s.llc.map fun b =>
      if b.tag = line / 4 && b.die ≠ homeDie (64 * line) then
        { b with lines := Vector.ofFn fun k => if k = Fin.ofNat 4 line then none else b.lines.get k }
      else b).filter fun b => b.lines.toList.any Option.isSome }

/-- Does a die other than the home hold a replica of the line? -/
def hasReplica (s : State) (line : Nat) : Bool :=
  (List.range 4).any fun d => d ≠ homeDie (64 * line) && (replicaOf s d line).isSome

/-! ### Memory at the home -/

/-- 64 KiB pieces that the snapshots of a partition hold (R358). -/
def snapshotPieces (s : State) (part : Nat) : Nat :=
  (s.launches.filter fun l => l.part = part).foldl (fun n l => n + (l.snapshot.getD []).length) 0

/-- The granules of a 64 KiB piece of a page as they stand. -/
def pieceCopy (s : State) (g : Page) (piece : Nat) (m : Sparse 528) : Sparse 528 :=
  (List.range 1024).foldl (fun m k => spSet m (1024 * piece + k) (lineView s (pageKey s g) (physIn g (64 * (1024 * piece + k))))) m

/-- Granules that the writes of a launch with a snapshot make dirty: its first write to a 64 KiB piece copies the piece
first; a snapshot that no longer fits in the partition's snapshot area lapses (R358). -/
def markDirty (s : State) (launch : DWord) (g : Page) (ia : Nat) : State :=
  match s.launches.find? fun l => l.id = launch with
  | none => s
  | some l =>
    match l.snapshot with
    | none => s
    | some ps =>
      let put (f : Launch → Launch) (t : State) : State :=
        { t with launches := t.launches.map fun x => if x.id = launch then f x else x }
      let dirty := if l.dirty.contains (ia / 64) then l.dirty else ia / 64 :: l.dirty
      if ps.contains (ia / 65536) then put (fun x => { x with dirty := dirty }) s
      else if snapshotPieces s l.part < Config.snapshotArea l.part then
        put (fun x => { x with snapshot := some (ia / 65536 :: ps), dirty := dirty, copies := pieceCopy s g (ia / 65536) l.copies }) s
      else
        emitTeasel (put (fun x => { x with snapshot := none, dirty := [], copies := [] }) { s with lapsed := s.lapsed + 1 }) l.part 3
          (match findPart s l.part with | some p => p.mark | none => 0)

/-- The line of a physical address logged, before its first write since the last mark (R348). -/
def logLine (s : State) (part a : Nat) : State :=
  modPart s part fun p => if p.logged.contains (a / 64) then p else { p with logged := a / 64 :: p.logged }

/-- What comes before a write to a granule at its home: the undo log (R348), the snapshot (R358), the page's key (R381). -/
def beforeWrite (s : State) (launch : DWord) (g : Page) (ia : Nat) : State :=
  underKey (markDirty (logLine s g.owner.n (physIn g ia)) launch g ia) (pageKey s g) (physIn g ia)

/-- A lookup of a line in its home bank for a partition (R300). -/
def homeTouch (s : State) (part line : Nat) (write : Bool) : State :=
  llcTouch s part (tenantOf s part) (homeDie (64 * line)) line write

/-- A write performed at the home bank: bytes of one line, under the page's key (R381). Overwriting a poisoned line whole
clears its mark (R356). -/
def homeWrite (s : State) (launch : DWord) (ia : Nat) (bs : List Byte) : State :=
  match pageOf s ia with
  | none => s
  | some g =>
    if bs.isEmpty then s
    else
      let a := physIn g ia
      let s1 := beforeWrite s launch g ia
      { s1 with mem := writeBytes s1.mem a bs
                poisonMem := s1.poisonMem.filter fun q => !(a ≤ 64 * q && 64 * q + 64 ≤ a + bs.length) }

/-- A metadata word written at the home bank for a partition; the line leaves every L1 and every replica (R273). -/
def homeMeta (s : State) (part : Nat) (launch : DWord) (ia : Nat) (f : BitVec 16 → BitVec 16) : State :=
  match pageOf s ia with
  | none => s
  | some g =>
    let a := physIn g ia
    let s1 := homeTouch (beforeWrite s launch g ia) part (ia / 64) true
    let m := f (BitVec.ofNat 16 (readN s1.mem (metaAddr a) 2))
    dropReplicas (l1DropEvery { s1 with mem := writeN s1.mem (metaAddr a) 2 m.toNat
                                        poisonMeta := s1.poisonMeta.filter (· ≠ a / 64) } (ia / 64)) (ia / 64)

/-- The partition of a launch; for a write of the module's own, the partition whose page it is. -/
def partFor (s : State) (launch : DWord) (ia : Nat) : Nat :=
  match s.launches.find? fun l => l.id = launch with
  | some l => l.part
  | none => match pageOf s ia with
    | some g => g.owner.n
    | none => 0

/-- The pieces of n bytes from an IA by lines: IA, offset in the bytes, length. -/
def iaPieces (a n : Nat) : List (Nat × Nat × Nat) :=
  (List.range ((a + n + 63) / 64 - a / 64)).filterMap fun k =>
    let lo := max a (64 * (a / 64 + k))
    let hi := min (a + n) (64 * (a / 64 + k) + 64)
    if lo < hi then some (lo, lo - a, hi - lo) else none

/-- A write by the hardware itself (fault records, queue entries, rings): performed at the home at once, its page marked
(R309), its lines in the home's bank (R300), and no other cached copy left behind. -/
def hardWrite (s : State) (launch : DWord) (ia : Nat) (bs : List Byte) : State :=
  let tenant := tenantOf s (partFor s launch ia)
  (iaPieces ia bs.length).foldl (fun t q =>
    let t1 := homeWrite (markAccessed t q.1 true) launch q.1 ((bs.drop q.2.1).take q.2.2)
    dropReplicas (l1DropEvery (llcMeet t1 tenant (homeDie q.1) (q.1 / 64) true) (q.1 / 64)) (q.1 / 64)) s

/-- n bytes at the home, as a number; the bytes may cross lines of one page. -/
def homeRead (s : State) (ia n : Nat) : Nat :=
  natOfBytes ((List.range n).map fun k =>
    match pageOf s (ia + k) with
    | some g => pageByte s g (ia + k)
    | none => 0)

/-- The metadata word at the home. -/
def homeMetaOf (s : State) (ia : Nat) : BitVec 16 := (homeLine s (ia / 64)).meta16

end Sys2Proof.Machine
end

