-- ==== Sys2Proof/Machine/Applying.lean ====
section
/-! DEFINITION. Writes counted and applied by the dies (R262, R263), the home's sharer masks (R301), and a die that catches up
with what has been performed. -/
namespace Sys2Proof.Machine

/-- Flight n. -/
def findFlight (s : State) (n : Nat) : Option Flight := s.flights.find? fun f => f.id = n

/-- A flight changed. -/
def modFlight (s : State) (n : Nat) (f : Flight → Flight) : State :=
  { s with flights := s.flights.map fun g => if g.id = n then f g else g }

/-- Flights with nothing left to do are over. -/
def dropFlights (s : State) : State :=
  { s with flights := s.flights.filter fun f => !(f.performed.isSome && f.acked && f.todo.isEmpty) }

/-- Does a clock count every causal predecessor of a write that left a die with a stamp (R263)? -/
def countsBefore (c : Clock) (o : Nat) (stamp : Clock) : Bool :=
  (List.range 4).all fun e => serialGe (clockAt c e) (if e = o then clockAt stamp e - 1 else clockAt stamp e)

/-- May a die apply or count a write: it has been performed, the die counts its predecessors, and earlier writes to the
line have been applied there? -/
def applyMay (s : State) (f : Flight) (d : Nat) : Bool :=
  f.todo.contains d && match f.performed, f.left with
  | some k, some (o, st) =>
    (o = d || countsBefore (clockOf s d) o st)
      && !(s.flights.any fun g => g.id ≠ f.id && g.ia / 64 = f.ia / 64 && g.todo.contains d && match g.performed with
        | some j => decide (j < k)
        | none => false)
  | _, _ => false

/-- Is byte a of a line one that an atomic of die d has written to its replica and that its home will order later? -/
def coveredAt (s : State) (d : Nat) (f : Flight) (ia : Nat) : Bool :=
  s.flights.any fun g => g.atReplica && g.die = d && g.id ≠ f.id && (g.performed.isNone || g.todo.contains d)
    && match g.kind with
      | .store bs => g.ia ≤ ia && ia < g.ia + bs.length
      | .colour _ | .key _ | .atom .. => false

/-- A store written into a replica that does not show it yet, but for bytes that a later atomic has written there. -/
def applyReplica (s : State) (f : Flight) (d : Nat) : State :=
  match f.kind, f.left, replicaOf s d (f.ia / 64) with
  | .store bs, some (o, st), some x =>
    if (f.atReplica && f.die = d) || serialGe (clockAt x.clock o) (clockAt st o) then s
    else (List.range bs.length).foldl (fun t k =>
      if coveredAt s d f (f.ia + k) then t
      else replicaUpdate t d (f.ia / 64) fun y => linePut y ((f.ia + k) % 64) [nthD bs k 0]) s
  | _, _, _ => s

/-- The sharer mask of a line's superblock at its home (R300, R301). -/
def sharersOf (s : State) (line : Nat) : BitVec 4 := spGet s.sharers (line / 4)

/-- The home's sharer bit of a die for a line's superblock set or cleared (R301). -/
def setSharer (s : State) (line d : Nat) (on : Bool) : State :=
  let bit := BitVec.ofNat 4 (2 ^ d)
  { s with sharers := spSet s.sharers (line / 4) (if on then sharersOf s line ||| bit else sharersOf s line &&& ~~~bit) }

/-- Does a die hold a replica of some line of a superblock? -/
def sharesBlock (s : State) (d line : Nat) : Bool := (List.range 4).any fun k => (replicaOf s d (4 * (line / 4) + k)).isSome

/-- A die applies a write to its replica, or counts it (R263); the home that sends it to a die without a copy clears that die's
sharer bit (R301). -/
def applyWrite (s : State) (n d : Nat) : State :=
  match findFlight s n with
  | none => s
  | some f =>
    if !applyMay s f d then s
    else
      let s1 := applyReplica s f d
      let s2 := if sharesBlock s d (f.ia / 64) then s1 else setSharer s1 (f.ia / 64) d false
      let s3 := match f.left with
        | some (o, st) => if o = d then s2 else modDie s2 d fun x => { x with clock := clockSet x.clock o (clockAt st o) }
        | none => s2
      dropFlights (modFlight s3 n fun g => { g with todo := g.todo.filter (· ≠ d) })

/-- A die applies or counts what it can of the writes that have been performed, in the order in which they were (R263): it may do
so at any time. -/
def catchUp (s : State) (d : Nat) : State :=
  ((sortBy (fun f => f.performed.getD 0) (s.flights.filter fun f => f.performed.isSome && f.todo.contains d)).map (·.id)).foldl
    (fun t n => applyWrite t n d) s

/-- Does die h count everything that each of the dies counts, so that a step at h has every write of theirs before it (R263)? -/
def countsAll (s : State) (h : Nat) (ds : List Nat) : Bool := ds.all fun d => clockCounts (clockOf s h) (clockOf s d)

/-- Do the homes of a step count what the die it comes from counts, and what each other counts (R263)? The writes that the step
makes at one of them can then be counted at once by the next. -/
def homesCount (s : State) (o : Nat) (hs : List Nat) : Bool := hs.all fun h => countsAll s h (o :: hs)

end Sys2Proof.Machine
end

