-- ==== Sys2Proof/Machine/Lookup.lean ====
section
/-! DEFINITION. Finding and changing the pieces of the state by their numbers, lane sets of a wave (R14, R15), logical
names (R385) and the trace stream (R388 to R391). -/
namespace Sys2Proof.Machine

/-! ### Pieces of the state -/

def findWave (s : State) (n : Nat) : Option Wave := s.waves.find? (fun w => w.id = n)
def modWave (s : State) (n : Nat) (f : Wave → Wave) : State :=
  { s with waves := s.waves.map fun w => if w.id = n then f w else w }
def findGroup (s : State) (n : Nat) : Option Group := s.groups.find? (fun g => g.id = n)
def modGroup (s : State) (n : Nat) (f : Group → Group) : State :=
  { s with groups := s.groups.map fun g => if g.id = n then f g else g }
def findLaunch (s : State) (n : DWord) : Option Launch := s.launches.find? (fun l => l.id = n)
def modLaunch (s : State) (n : DWord) (f : Launch → Launch) : State :=
  { s with launches := s.launches.map fun l => if l.id = n then f l else l }
def findQueue (s : State) (n : Nat) : Option Queue := s.queues.find? (fun q => q.n = n)
def modQueue (s : State) (n : Nat) (f : Queue → Queue) : State :=
  { s with queues := s.queues.map fun q => if q.n = n then f q else q }

/-- A core as it is after reset (R405). -/
def Core.reset (die core : Nat) : Core :=
  { die := die, core := core, phase := 0, watch := List.replicate 4 none, buckets := [], corrections := 0,
    emergencies := 0, hits := List.replicate 4 0, tree := none }

def coreAt (s : State) (die core : Nat) : Core :=
  (s.cores.find? fun c => c.die = die && c.core = core).getD (Core.reset die core)
def modCore (s : State) (die core : Nat) (f : Core → Core) : State :=
  { s with cores := putBy (fun c => c.die = die && c.core = core) (f (coreAt s die core)) s.cores }

/-- The next free number, and the state that has used it. -/
def freshId (s : State) : Nat × State := (s.fresh, { s with fresh := s.fresh + 1 })

/-- The next free value's index, and the state that has used it. -/
def freeIx (s : State) : Nat × State := (s.free, { s with free := s.free + 1 })

/-- The waves of a group. -/
def wavesOf (s : State) (g : Nat) : List Wave := s.waves.filter fun w => w.group = g

/-- A field of a launch record (R319). -/
def recField (r : BitVec 1024) (lo n : Nat) : Nat := bitsOf r.toNat lo n

/-! ### Lanes of a wave -/

def laneOf (w : Wave) (l : Lane) : LaneCtx := w.lanes.get l
/-- The lanes of a set changed. -/
def mapLanes (w : Wave) (m : Mask) (f : Lane → LaneCtx → LaneCtx) : Wave :=
  { w with lanes := Lanes.of fun l => if m.has l then f l (w.lanes.get l) else w.lanes.get l }
def modLane (w : Wave) (l : Lane) (f : LaneCtx → LaneCtx) : Wave :=
  { w with lanes := Lanes.of fun k => if k = l then f (w.lanes.get k) else w.lanes.get k }

def isParked (x : LaneState) : Bool :=
  match x with
  | .parked _ => true
  | .live | .exited => false

def liveMask (w : Wave) : Mask := Mask.of fun l => (laneOf w l).state = .live
def parkedMask (w : Wave) : Mask := Mask.of fun l => isParked (laneOf w l).state
/-- Every lane has exited (R18); in a handler, the held-aside lanes decide. -/
def allExited (w : Wave) : Bool :=
  match w.aside with
  | none => laneList.all fun l => (laneOf w l).state = .exited
  | some _ => false

/-- The least PC over a set of lanes. -/
def minPc (w : Wave) (m : Mask) : Option Pc := (minBy BitVec.toNat (m.lanes.map fun l => (laneOf w l).pc))

/-- The value of a predicate; p7 is true (R27). -/
def predOf (w : Wave) (l : Lane) (p : Pred) : Bool := p = 7 || (laneOf w l).preds.getLsbD p.val

/-- A predicate written; p7 is discarded (R27). -/
def setPred (x : LaneCtx) (p : Pred) (b : Bool) : LaneCtx :=
  if p = 7 then x
  else { x with preds := if b then x.preds ||| BitVec.ofNat 7 (2 ^ p.val) else x.preds &&& ~~~BitVec.ofNat 7 (2 ^ p.val) }

/-- Does lane l hold colour c now? Suspended entries are not held (R181). -/
def holds (x : LaneCtx) (c : BitVec 6) : Bool := x.held.any fun h => h.colour = c && !h.suspended

/-! ### Names -/

/-- The WID of a lane; zero in a spawned thread (R12, R13). -/
def widOf (w : Wave) (l : Lane) : DWord := if w.spn then 0 else w.baseWid + BitVec.ofNat 64 l.val
/-- NAME: the WID, or the spawn serial (R385). -/
def nameOf (w : Wave) (l : Lane) : DWord := if w.spn then (laneOf w l).serial.zeroExtend 64 else widOf w l

/-! ### The trace stream -/

/-- Does a stop keep a wave from issuing? One in its handler runs on, but for a BKPT intercept (R394, R397). -/
def heldStopped (w : Wave) : Bool := w.stopped && (!w.h || w.intercepted)

/-- The lanes that a record about a wave names (R385): of a run, its EXEC; else the live lanes; else those that are parked, in a
handler those held aside too; a wave whose lanes have all exited is named by its lowest lane that had a thread (DESIGN CHOICE,
log 88). -/
def recordMask (w : Wave) : Mask :=
  let waits (l : Lane) : Bool := isParked (laneOf w l).state || w.aside.any fun a => isParked (a.states.get l)
  let had (l : Lane) : Bool := !w.spn || (laneOf w l).serial ≠ 0xFFFFFFFF#32
  match w.run with
  | some r => r.exec
  | none =>
    if liveMask w ≠ 0 then liveMask w
    else if Mask.of waits ≠ 0 then Mask.of waits
    else match (Mask.of had).lowest with
      | some l => Mask.of (· = l)
      | none => 0

/-- Is a forced clock break in force on the die of a wave (R401)? -/
def brkOf (s : State) (w : Wave) : Bool :=
  match w.place with
  | some p => (dieAt s p.die).broken
  | none => false

/-- A record about lanes of a wave (R385, R389). -/
def waveRec (s : State) (w : Wave) (typ size : Nat) (m : Mask) (pc : Pc) (body : Nat) : TraceRec :=
  { typ := typ, size := size, spn := w.spn, ix := false, brk := brkOf s w, launch := w.launch,
    name := match m.lowest with | some l => nameOf w l | none => 0, lmask := m, pc := pc
    place := w.place.map fun p => (p.die, p.core, p.quad, p.slot), body := body }

/-- A record that names a wave, emitted for its partition. -/
def emitWave (s : State) (w : Wave) (typ size : Nat) (m : Mask) (pc : Pc) (body : Nat) : State :=
  emit s w.part (waveRec s w typ size m pc body)

/-! ### Sharing groups -/

/-- Two groups are members of one sharing group: same partition, key and cluster (R160). -/
def sameSharing (a b : Group) : Bool :=
  match a.sharing, b.sharing, a.place, b.place with
  | some k, some k', some (d, c), some (d', c') => k = k' && a.part = b.part && d = d' && c / 4 = c' / 4
  | _, _, _, _ => false

/-- The priority of a group's waves. -/
def groupPri (s : State) (g : Nat) : Nat := ((wavesOf s g).map fun w => w.pri.toNat).foldl max 0

/-- A saved group is signalled for relaunch (R331). -/
def signalGroup (s : State) (g : Nat) : State :=
  match findGroup s g with
  | some x =>
    if x.place.isNone && x.signal.isNone && !x.finished then
      modGroup { s with fresh := s.fresh + 1 } g fun y => { y with signal := some s.fresh }
    else s
  | none => s

/-- The shadow of a wave that scouts. -/
def shadowOf (s : State) (wid : Nat) : Option Shadow := s.shadows.find? fun h => h.wave = wid

/-- A wave as it was before scout, in everything that scout's own instructions change (R40, R336): what happened to the
wave from outside meanwhile (acknowledged stores, completions, watch hits) and its counters stay. -/
def unscout (saved w : Wave) : Wave :=
  { w with lanes := saved.lanes, skip := saved.skip, spin := saved.spin, floor := saved.floor, issue := none, hold := none
           run := saved.run.map fun r => { r with cut := true }
           tick := saved.tick, tags := saved.tags, aged := saved.aged }

/-- Scout ends (R337). -/
def endScout (s : State) (wid : Nat) : State :=
  match shadowOf s wid with
  | none => s
  | some h =>
    { s with
      shadows := s.shadows.filter fun x => x.wave ≠ wid
      waves := s.waves.map fun w => if w.id = wid then unscout h.saved w else w
      cur := s.cur.bind fun c => if c = wid then none else some c }

/-- The clock that a wave's releases carry: that of its die, or, while it is saved, its group's: that of the die that saved it,
and of what has been sent to the group since (R282, R263). -/
def waveClock (s : State) (w : Wave) : Clock :=
  match w.place, findGroup s w.group with
  | some p, _ => clockOf s p.die
  | none, some g => match g.place with | some p => clockOf s p.1 | none => g.clock
  | none, none => Clock.zero

/-- What is sent to a saved group carries its sender's clock: its relaunch waits for it (R261, R263). -/
def noteClock (s : State) (g : Nat) (c : Clock) : State :=
  modGroup s g fun x => if x.place.isNone then { x with clock := clockMax x.clock c } else x

/-- The lane is made live, with the wait-satisfied bit when `sat`, in the held-aside PCV when it is parked there
(R224); a saved group is signalled, and keeps the clock of the wake or grant (R174, R263, R331). -/
def unpark (s0 : State) (wid : Nat) (l : Lane) (sat : Bool) (clock : Clock) : State :=
  let s := endScout s0 wid
  match findWave s wid with
  | none => s
  | some w =>
    let s1 := modWave s wid fun w =>
      match w.aside with
      | some a =>
        if isParked (a.states.get l) then
          modLane { w with aside := some { a with states := Lanes.of fun k => if k = l then .live else a.states.get k } } l
            fun x => { x with waitSat := x.waitSat || sat }
        else if isParked (laneOf w l).state then modLane w l fun x => { x with state := .live, waitSat := x.waitSat || sat } else w
      | none =>
        if isParked (laneOf w l).state then modLane w l fun x => { x with state := .live, waitSat := x.waitSat || sat } else w
    signalGroup (noteClock s1 w.group clock) w.group

end Sys2Proof.Machine
end

