-- ==== Sys2Proof/Machine/Campion.lean ====
section
/-! DEFINITION. The monitor table Campion: requests, grants and releases at the home of a colour (R274 to R286). -/
namespace Sys2Proof.Machine

/-- The home die of a colour (R274). -/
def colourHome (c : BitVec 6) : Nat := c.toNat % 4

def findCampion (s : State) (tenant : Nat) (c : BitVec 6) : Option Campion :=
  s.campion.find? fun e => e.tenant = tenant && e.colour = c

/-- A saved group that owns a monitor with a waiter is queued for relaunch (R286, R331). -/
def signalOwner (s : State) (e : Campion) : State :=
  match findWave s e.owner.wave with
  | some w => if w.place.isNone && !e.queue.isEmpty then signalGroup s w.group else s
  | none => s

/-- The saved groups that own a monitor of the tenant with a waiter are queued for relaunch (R286). -/
def signalOwners (s : State) (tenant : Nat) : State :=
  (s.campion.filter fun e => e.tenant = tenant).foldl signalOwner s

/-- One lane's request at the home: granted when the entry is free, else queued and the lane parked (R277, R278). The
grant carries the home's clock (R263). A new entry takes its line of way 15 (R305); a saved owner that now has a waiter is queued
for relaunch (R286). -/
def campionRequest (s : State) (tenant wave : Nat) (x : Lane × BitVec 6 × BitVec 12) : State :=
  let me : Waiter := ⟨wave, x.1, x.2.2⟩
  match findCampion s tenant x.2.1 with
  | none =>
    pinLines { s with campion := s.campion ++ [⟨tenant, x.2.1, me, Clock.zero, []⟩],
                      grants := s.grants ++ [⟨wave, x.1, x.2.1, x.2.2, clockOf s (colourHome x.2.1)⟩] }
  | some e =>
    modWave { signalOwner s { e with queue := e.queue ++ [me] } with campion := s.campion.map fun e =>
        if e.tenant = tenant && e.colour = x.2.1 then { e with queue := e.queue ++ [me] } else e } wave fun w =>
      { modLane w x.1 (fun y => { y with state := .parked (.monitor x.2.1.toNat) }) with
        counters := { w.counters with parks := w.counters.parks + 1 },
        run := w.run.map fun r => { r with gone := r.gone ||| Mask.of (· = x.1) } }

/-- The entry's head waiter becomes owner and is granted, or the entry is freed (R282). -/
def campionNext (s : State) (tenant : Nat) (c : BitVec 6) (clock : Clock) : State :=
  match findCampion s tenant c with
  | none => s
  | some e =>
    match e.queue with
    | [] => { s with campion := s.campion.filter fun y => !(y.tenant = tenant && y.colour = c) }
    | h :: q =>
      { s with
        campion := s.campion.map fun y =>
          if y.tenant = tenant && y.colour = c then { y with owner := h, clock := clock, queue := q } else y,
        grants := s.grants ++ [⟨h.wave, h.lane, c, h.depth, clockMax clock (clockOf s (colourHome c))⟩] }

/-- The owner gives colour c back with a clock (R282); a lane that does not own it releases nothing. -/
def campionRelease (s : State) (tenant wave : Nat) (l : Lane) (c : BitVec 6) (clock : Clock) : State :=
  match findCampion s tenant c with
  | some e => if e.owner.wave = wave && e.owner.lane = l then campionNext s tenant c clock else s
  | none => s

/-- A lane's waiter records and requests are withdrawn (R150, R279). -/
def withdraw (s : State) (wave : Nat) (l : Lane) : State :=
  { s with campion := s.campion.map fun e => { e with queue := e.queue.filter fun q => !(q.wave = wave && q.lane = l) },
           requests := (s.requests.map fun r =>
             if r.wave = wave then { r with lanes := r.lanes.filter fun x => x.1 ≠ l } else r).filter fun r => !r.lanes.isEmpty }

/-- A held-colour set with an entry inserted in ascending colour order (R32, R277). -/
def heldInsert (h : Held) : List Held → List Held
  | [] => [h]
  | x :: xs => if h.colour.toNat < x.colour.toNat then h :: x :: xs else x :: heldInsert h xs

/-- Everything a set of waves holds or waits for is freed as by a release, with no store wait (R282, R286, launch killed):
grants on their way to them are dropped. -/
def freeMonitors (s : State) (mine : Nat → Bool) : State :=
  let keep (e : Campion) : Campion := { e with queue := e.queue.filter fun q => !mine q.wave }
  let s1 : State :=
    { s with
      campion := s.campion.map keep
      requests := s.requests.filter fun r => !mine r.wave
      grants := s.grants.filter fun g => !mine g.wave
      waiters := s.waiters.filter fun q => !mine q.wave
      wakes := s.wakes.filter fun q => !mine q.wave }
  (s1.campion.filter fun e => mine e.owner.wave).foldl (fun t e =>
    campionNext t e.tenant e.colour (match findWave s e.owner.wave with | some w => waveClock s w | none => e.clock)) s1

/-- Where the waiter record of a lane of a wave lies in its partition's context area (R276): a free value. -/
def waiterRecord (s : State) (x : Waiter) : Nat :=
  match findWave s x.wave with
  | some w => (Config.waiterRecord w.part w.id x.lane.val).toNat
  | none => 0

/-- A Campion entry as Sweolo reads it (R275). -/
def campionEntry (s : State) (e : Campion) : BitVec 512 :=
  let name := match findWave s e.owner.wave with
    | some w => fld w.launch.toNat 0 64 + fld (nameOf w e.owner.lane).toNat 64 64 + fld w.spn.toNat 129 1
    | none => 0
  let ends := match e.queue.head?, e.queue.getLast? with
    | some a, some b => fld (waiterRecord s a) 320 64 + fld (waiterRecord s b) 384 64
    | _, _ => 0
  BitVec.ofNat 512 (name + fld 1 128 1 + fld e.owner.depth.toNat 136 12 + fld e.queue.length 160 20
    + fld e.clock.c0.toNat 192 32 + fld e.clock.c1.toNat 224 32 + fld e.clock.c2.toNat 256 32 + fld e.clock.c3.toNat 288 32 + ends)

/-- The monitor entries that lanes of a wave own or wait for. -/
def monitorsOf (s : State) (wid : Nat) : List (BitVec 512) :=
  (s.campion.filter fun e => e.owner.wave = wid || e.queue.any fun q => q.wave = wid).map (campionEntry s)

/-- The order in which Acquire tests a lane (R277): 0 COLOUR_ORDER, 1 COLOUR_LIMIT, none when the request is sent. -/
def acquireFault (x : LaneCtx) (c : BitVec 6) : Option Nat :=
  if x.held.any fun h => c.toNat < h.colour.toNat then some 0
  else if 8 ≤ x.held.length then some 1
  else none

/-- A grant delivered to a lane: recorded in the held set, the L1 lines of the colour invalidated (R149, R277, R279). A
re-acquisition after CWAIT clears the suspended mark (R181). The grant is the instruction's own, which could give it back
(R150), when the lane did not wait, or was parked by the very instruction that is still to complete. -/
def deliverGrant (st : State) (g : Grant) : State :=
  let s := endScout st g.wave
  match findWave s g.wave with
  | none => s
  | some w =>
    let s0 := match w.place with
      | some p => l1DropColour s p.die p.core g.colour
      | none => s
    let parked := match w.aside with
      | some a => isParked (a.states.get g.lane) || isParked (laneOf w g.lane).state
      | none => isParked (laneOf w g.lane).state
    let s1 := modWave s0 g.wave fun w => modLane w g.lane fun x =>
      if x.held.any (fun h => h.colour = g.colour) then
        { x with held := x.held.map fun h => if h.colour = g.colour then { h with suspended := false } else h }
      else { x with held := heldInsert ⟨g.colour, g.depth, false, !parked || w.run.any fun r => r.gone.has g.lane⟩ x.held }
    if parked then unpark s1 g.wave g.lane false g.clock else s1

end Sys2Proof.Machine
end

