-- ==== Sys2Proof/Machine/Watch.lean ====
section
/-! DEFINITION. Watch slots: which performed accesses hit them and what a hit does (R166, R229 to R231, R393, R398). -/
namespace Sys2Proof.Machine

/-- An access as it is performed. -/
structure Access where
  wave : Nat
  lane : Lane
  /-- PC and EXEC of the instruction -/
  pc : Pc
  exec : Mask
  /-- 0 load, 1 store, 2 atomic -/
  kind : Nat
  /-- OP, TAG and header PC of an engine access -/
  eng : Option (Byte × Byte × Pc)
  /-- the pointer as presented; the offset for an A-buffer access -/
  ptr : DWord
  len : Nat
  /-- where the access was issued -/
  die : Nat
  core : Nat
  /-- the die whose bank executed an atomic -/
  bank : Option Nat
  /-- the group whose A-buffer reservation it reaches -/
  abuf : Option Nat
  /-- made by handler code (R224) -/
  byHandler : Bool

/-- Fields of a control pair (R229). -/
def watchLen (ctl : DWord) : Nat := 2 ^ bitsOf ctl.toNat 8 6
def watchSpace (ctl : DWord) : Nat := bitsOf ctl.toNat 6 2
def watchAct (ctl : DWord) (k : Nat) : Bool := ctl.getLsbD (16 + k)

/-- Does the control pair select the kind of access (R229)? -/
def watchKind (ctl : DWord) (a : Access) : Bool := ctl.getLsbD a.kind && (a.eng.isNone || ctl.getLsbD 3)

/-- Does the range of a slot meet the access (R230)? -/
def watchMeets (x : WatchSlot) (a : Access) : Bool :=
  match a.abuf with
  | none =>
    watchSpace x.ctl = 0 && pointerBits x.addr < pointerBits a.ptr + a.len
      && pointerBits a.ptr < pointerBits x.addr + watchLen x.ctl
  | some _ =>
    watchSpace x.ctl = 1 && x.addr.toNat < a.ptr.toNat + a.len && a.ptr.toNat < x.addr.toNat + watchLen x.ctl

/-- The slots an access hits: scope, slot, the die and core that hold the slot, and the slot (R230). -/
def watchHits (s : State) (a : Access) : List (WScope × Nat × Nat × Nat × WatchSlot) :=
  match findWave s a.wave with
  | none => []
  | some w =>
    let numbered (l : List (Option WatchSlot)) : List (Nat × WatchSlot) :=
      (List.range l.length).filterMap fun k => (nthD l k none).map fun x => (k, x)
    let fits (x : WatchSlot) : Bool := watchKind x.ctl a && watchMeets x a
    let thread := if a.eng.isSome || a.abuf.isSome then [] else
      (numbered w.watch).filterMap fun kx =>
        if fits kx.2 && kx.2.ctl.getLsbD (32 + a.lane.val) then some (WScope.thread, kx.1, a.die, a.core, kx.2) else none
    let group := s.cores.flatMap fun c => (numbered c.watch).filterMap fun kx =>
      let reach : Bool := match findGroup s kx.2.owner with
        | none => false
        | some g =>
          match a.abuf with
          | some t => t = g.id
          | none =>
            g.part = w.part && ((c.die = a.die && c.core = a.core) ||
              (match findGroup s w.group with | some h => sameSharing g h | none => false))
      if fits kx.2 && reach then some (WScope.group, kx.1, c.die, c.core, kx.2) else none
    let dies := if a.bank = some a.die || a.bank.isNone then [a.die] else a.die :: a.bank.toList
    let die := if a.abuf.isSome then [] else dies.flatMap fun d => (numbered (dieAt s d).watch).filterMap fun kx =>
      let reach : Bool := match findLaunch s (BitVec.ofNat 64 kx.2.owner) with
        | some l => l.part = w.part
        | none => false
      if fits kx.2 && reach then some (WScope.die, kx.1, d, 0, kx.2) else none
    thread ++ group ++ die

/-- The lanes that skip the instruction at a PC on its next execution (R226, R344). -/
def skipAt (w : Wave) (pc : Pc) : Mask := ((w.skip.find? fun x => x.1 = pc).map (·.2)).getD 0

/-- Are two hits of one instruction: a thread's by its PC and lanes, on its resumption too, an engine's by its command (R231)? -/
def sameHit (h x : WatchHit) : Bool :=
  x.pc = h.pc && x.eng = h.eng && (if h.eng.isSome then x.exec = h.exec else x.exec &&& h.exec ≠ 0)

/-- A hit merged into the hits that wait to be taken: one per instruction, its record naming the lowest scope and then
the lowest slot (R231). -/
def addHit (h : WatchHit) (l : List WatchHit) : List WatchHit :=
  let rank (x : WatchHit) : Nat := 32 * x.scope.code + x.slot
  match l.find? (sameHit h) with
  | none => l ++ [h]
  | some x =>
    let y := { (if rank h < rank x then h else x) with lanes := h.lanes ||| x.lanes, exec := h.exec ||| x.exec }
    l.map fun z => if sameHit h z then y else z

/-- The waves of a cluster that run a run (R396), with the instruction in progress of wave `mid` counted as retired. -/
def skidsOf (s : State) (die cluster : Nat) (mid : Option Nat) : List Skid :=
  (s.waves.filter fun w => w.run.isSome && w.issue.isSome && !w.h && match w.place with
    | some p => p.die = die && p.core / 4 = cluster
    | none => false).map fun w =>
      ⟨w.id, w.counters.retired + (if mid = some w.id then 1 else 0), none⟩

/-- The counter action of a hit (R393): the slot's own hit counter goes up. -/
def hitCount (s : State) (a : Access) (w : Wave) (scope : WScope) (slot die core : Nat) (ctl : DWord) : State :=
  if watchAct ctl 2 then
    match scope with
    | .thread => modWave s a.wave fun w =>
      { w with counters := if slot = 0 then { w.counters with watch0 := w.counters.watch0 + 1 }
          else { w.counters with watch1 := w.counters.watch1 + 1 } }
    | .group => modCore s die core fun c => { c with hits := setNth c.hits slot (nthD c.hits slot 0 + 1) }
    | .die => modDieCounters s w.part die fun c => { c with watch := setNth c.watch slot (nthD c.watch slot 0 + 1) }
  else s

/-- Is the cluster of an access stopped, or stopping (R398)? -/
def stopBusy (s : State) (a : Access) : Bool :=
  s.stopped.contains (a.die, a.core / 4) || s.stops.any fun q => q.die = a.die && q.cluster = a.core / 4

/-- The stop action of a hit (R398): the wave's cluster stops, unless it is stopping or stopped. -/
def hitStop (s : State) (a : Access) (w : Wave) (ctl : DWord) : State :=
  let cluster := a.core / 4
  if watchAct ctl 1 && !stopBusy s a then
    let mid := if s.cur = some w.id && w.run.any (fun r => r.pc = a.pc) then some w.id else none
    { s with stops := s.stops ++ [⟨0, a.die, cluster, w.launch, nameOf w a.lane, w.spn, Mask.of (· = a.lane), a.pc,
        skidsOf s a.die cluster mid⟩] }
  else s

/-- One hit taken (R231, R393, R398). Only a hit of handler code loses its trap (R224): one of an earlier access that
is performed while the handler runs is taken after it. -/
def takeHit (s : State) (a : Access) (h : WScope × Nat × Nat × Nat × WatchSlot) : State :=
  match findWave s a.wave with
  | none => s
  | some w =>
    let (scope, slot, die, core, x) := h
    let lanes := Mask.of (· = a.lane)
    let gone := w.finished
    let trap := watchAct x.ctl 0 && !a.byHandler && !gone
    let acts := bitsOf x.ctl.toNat 16 4 - (if watchAct x.ctl 0 && !trap then 1 else 0)
      - (if watchAct x.ctl 1 && stopBusy s a then 2 else 0)
    let s1 := hitCount s a w scope slot die core x.ctl
    let body := fld scope.code 0 2 + fld slot 2 5 + fld (if a.eng.isSome then 3 else a.kind) 7 3 + fld acts 10 4
      + (match a.eng with
        | some (op, tag, hdr) => fld a.kind 14 2 + fld op.toNat 128 8 + fld tag.toNat 136 8 + fld hdr.toNat 144 48
        | none => 0) + fld a.ptr.toNat 64 64
    let s2 := if watchAct x.ctl 3 then emit s1 w.part { waveRec s1 w 0x02 0 lanes a.pc body with ix := gone } else s1
    let s3 := hitStop s2 a w x.ctl
    if trap then
      modWave s3 a.wave fun w => { w with watchPend := addHit ⟨scope, slot, lanes, a.ptr, a.pc, a.exec, a.eng⟩ w.watchPend }
    else s3

/-- A thread's write as it is performed at its home: an access of the core that issued it (R166, R393). -/
def flightAccess (f : Flight) (n : Nat) : Access :=
  { wave := f.wave, lane := f.lane, pc := f.pc, exec := f.exec, kind := 1, eng := none, ptr := f.ptr, len := n, die := f.die
    core := f.core, bank := none, abuf := none, byHandler := f.byHandler }

/-- The bytes at a slot's addresses that a thread's write on its way reaches, none for a write that has been performed, that an
engine makes, or that carries an atomic's result: a granule write reaches its granule. -/
def writeLength (f : Flight) : Nat :=
  if f.performed.isSome || f.atReplica || !f.counted then 0
  else match f.kind with
    | .store bs => bs.length
    | .colour _ | .key _ => 64
    | .atom .. => 0

/-- Has a wave a store on its way that a slot with action trap waits for? WATCH is raised before the wave's next run (R231), which
waits for it (DEDUCED, log 81). -/
def hitComing (s : State) (wid : Nat) : Bool :=
  s.flights.any fun f => f.wave = wid && !f.byHandler && writeLength f ≠ 0 &&
    (watchHits s (flightAccess f (writeLength f))).any fun h => watchAct h.2.2.2.2.ctl 0

/-- An access performed: every slot it hits takes its actions. -/
def watchAccess (s : State) (a : Access) : State := (watchHits s a).foldl (fun t h => takeHit t a h) s

end Sys2Proof.Machine
end

