-- ==== Sys2Proof/Machine/Ops.lean ====
section
/-! DEFINITION. The named operations that instructions and events share: ending a run (R16, R19), finishing waves and
groups (R18, R343), faulting a launch (R346), TAKING A TRAP (R223, R225, R345) and the end of a handler (R226), and the
steps of control words at their homes (R170, R174). -/
namespace Sys2Proof.Machine

/-! ### Runs -/

/-- The end of a run: spin count and floor by R19, the latches lost, the slot given up. -/
def endRun (w : Wave) (back : Bool) : Wave :=
  match w.run with
  | none => { w with hold := none, issue := none }
  | some r =>
    let all := r.liveAtStart &&& ~~~r.exec = 0
    let n := if all then 0 else if r.redirected then 0 else if back then min Config.spinLimit (w.spin + 1) else w.spin
    { w with run := none, hold := none, issue := none, spin := n, floor := if all then none else w.floor }

/-- The least PC over live lanes that is above the bounds. -/
def pcAbove (w : Wave) (lo : List Pc) : Option Pc :=
  minBy BitVec.toNat (((liveMask w).lanes.map fun l => (laneOf w l).pc).filter fun p => lo.all fun b => b.toNat < p.toNat)

/-- The issue address of the next run and the floor it leaves, and whether spin detection redirected it (R15, R19). -/
def issueAddress (w : Wave) : Option (Pc × Option Pc × Bool) :=
  match minPc w (liveMask w) with
  | none => none
  | some m =>
    if w.spin < Config.spinLimit then some (m, w.floor, false)
    else match pcAbove w (m :: w.floor.toList) with
      | some p => some (p, some p, true)
      | none => match pcAbove w [m] with
        | some p => some (p, some p, true)
        | none => some (m, none, true)

/-- The run of an instruction that waits is a later run: EXEC is every lane live at its address when it issues (R15,
R16, R333). -/
def reformRun (w : Wave) (r : Run) : Run :=
  { r with exec := Mask.of fun l => (laneOf w l).state = .live && (laneOf w l).pc = r.pc
           gone := 0, liveAtStart := liveMask w }

/-- The run of a wave that waited, at the end of its wait. -/
def reformWave (w : Wave) : Wave := { w with run := w.run.map fun r => if r.count = 0 then reformRun w r else r }

/-- A run at an address (R15). -/
def runAt (w : Wave) (p : Pc) (redir : Bool) : Run :=
  { exec := Mask.of fun l => (laneOf w l).state = .live && (laneOf w l).pc = p
    gone := 0, pc := p, count := 0, latches := [], liveAtStart := liveMask w, redirected := redir, base := w.floor, cut := false }

/-- Does the wave wait with an instruction that has had no effect yet and that no event of its own completes? Its next
run is chosen anew (R15, R16). -/
def waitsFree (w : Wave) (r : Run) : Bool :=
  r.count = 0 && w.drain.isNone && match w.hold with
    | some .tile | some .engineQueue | some .operand | some .barrier => true
    | some .monitor | some .rendezvous | some .claim | some .latch | some .commit | some .fence | none => false

/-- A new run of the wave in a slot, at its issue address (R15, R19). -/
def newRun (w : Wave) (slot turn : Nat) (x : Pc × Option Pc × Bool) : Wave :=
  { w with
    run := some (runAt w x.1 x.2.2), floor := x.2.1, issue := some slot, lastRun := turn, aged := false
    counters := { w.counters with runs := w.counters.runs + 1,
                                  redirects := w.counters.redirects + if x.2.2 && x.2.1.isSome then 1 else 0 } }

/-- A wave that wins a slot starts its run, or continues the run that was cut or that waits (R15, R19, R394). A wave
whose instruction waits issues at the least PC over its live lanes, as ever. -/
def startRun (w : Wave) (slot : Nat) (turn : Nat) : Wave :=
  let go (r : Run) : Wave := { w with issue := some slot, lastRun := turn, aged := false, run := some { r with cut := false } }
  match w.run with
  | some r =>
    match waitsFree w r, issueAddress w with
    | true, some x =>
      if x.1 = r.pc then { go { reformRun w r with redirected := x.2.2, base := w.floor } with floor := x.2.1 } else newRun w slot turn x
    | true, none => go (reformRun w r)
    | false, _ => go (if r.count = 0 && w.hold.isSome && w.hold ≠ some .monitor then reformRun w r else r)
  | none =>
    match issueAddress w with
    | none => w
    | some x => newRun w slot turn x

/-- The lanes in which an instruction executes now: EXEC but for lanes the run has parked and, on the first execution
after RTE, the lanes of the done-mask (R226, R344). -/
def execMask (w : Wave) (r : Run) : Mask := r.exec &&& ~~~r.gone &&& ~~~skipAt w r.pc

/-! ### Work that ends -/

/-- Watch slots whose owner has finished (R230). -/
def freeGroupSlots (s : State) (g : Nat) : State :=
  let keep (x : Option WatchSlot) : Option WatchSlot := x.bind fun y => if y.owner = g then none else some y
  { s with cores := s.cores.map fun c => { c with watch := c.watch.map keep } }
def freeDieSlots (s : State) (launch : DWord) : State :=
  let keep (x : Option WatchSlot) : Option WatchSlot := x.bind fun y => if y.owner = launch.toNat then none else some y
  { s with dies := Vector.ofFn fun d => { s.dies.get d with watch := (s.dies.get d).watch.map keep } }

/-- The IA of entry seq of a queue (R315). -/
def entryIa (q : Queue) (seq : Word) : Nat := q.desc.base.toNat + 128 * (seq.toNat % 2 ^ q.desc.log2n.toNat)

/-- Sequence numbers from START to TAIL. -/
def waitingSeqs (q : Queue) : List Word := (List.range (q.tail - q.start).toNat).map fun k => q.start + BitVec.ofNat 32 k

/-- The entries of a task queue that wait and belong to a launch (R316). -/
def tasksOf (s : State) (q : Queue) (launch : DWord) : List Word :=
  if q.desc.task then (waitingSeqs q).filter fun n => !(q.void.any fun v => v.1 = n) && homeRead s (entryIa q n + 64) 8 = launch.toNat else []

/-- Does a task entry of the launch wait in some task queue (R316)? -/
def tasksQueued (s : State) (launch : DWord) : Bool :=
  s.queues.any fun q => !(tasksOf s q launch).isEmpty || q.reserved.any fun r => r.launch = launch

/-- A queue entry has completed: its record waits for a commit (R318). -/
def entryDone (s : State) (q : Nat) (seq : Word) (status trap : Nat) (launch : DWord) (part : Option Nat) : State :=
  modQueue s q fun x => { x with done := x.done ++ [⟨seq, status, trap, launch, part, part.isNone⟩] }

/-- The launch is complete when every group and spawned wave has finished and nothing of it waits (R321). -/
def settleLaunch (s : State) (id : DWord) : State :=
  match findLaunch s id with
  | none => s
  | some l =>
    if l.state = .running && l.next = l.groups && l.poolHead = l.poolTail
        && s.groups.all (fun g => g.launch ≠ id) && s.cores.all (fun c => c.buckets.all fun b => b.launch ≠ id)
        && !tasksQueued s id then
      freeDieSlots (entryDone (modLaunch s id fun x => { x with state := .done }) l.queue l.seq 0 0 id (some l.part)) id
    else s

/-- A write on its way that is left to be counted only: what it was to write is undone (R353, R357). One that has not left
its die is gone. -/
def hollow (f : Flight) : Option Flight :=
  match f.left with
  | none => if f.performed.isSome && !f.todo.isEmpty then some { f with kind := .store [], counted := false, acked := true, atReplica := false } else none
  | some _ => some { f with kind := .store [], counted := false, acked := true, atReplica := false }

/-- The writes on their way that a test selects are undone: dies still count what has left (R263). -/
def hollowFlights (s : State) (p : Flight → Bool) : State :=
  { s with flights := s.flights.filterMap fun f => if p f then hollow f else some f }

/-- A launch's granules return to their values before its first write to their piece; no cached copy stays (R358). -/
def restoreSnapshot (s : State) (l : Launch) : State :=
  l.dirty.foldl (fun t g =>
    match pageOf t (64 * g) with
    | none => t
    | some p =>
      let a := physIn p (64 * g)
      let v := spGet l.copies g
      let t1 := underKey (logLine t p.owner.n a) (pageKey t p) a
      let m1 := writeN t1.mem a 64 (v.extractLsb' 0 512).toNat
      dropReplicas (l1DropEvery { t1 with mem := writeN m1 (metaAddr a) 2 (v.extractLsb' 512 16).toNat
                                          poisonMem := t1.poisonMem.filter (· ≠ a / 64)
                                          poisonMeta := t1.poisonMeta.filter (· ≠ a / 64) } g) g) s

/-- A launch that has consumed an error starts again from its queue entry, under the same identifier, once its work has
stopped: its snapshot is restored, a new start mark is due (R357 to R359), and its colours are free: a waiter that is granted one
reads the granules as restored (R286). -/
def restartLaunch (s : State) (id : DWord) : State :=
  match findLaunch s id with
  | none => s
  | some l =>
    if l.replay && s.groups.all fun g => g.launch ≠ id then
      let s1 := modLaunch (restoreSnapshot (hollowFlights s fun f => f.launch = id) l) id fun x =>
        { x with state := .running, next := 0, serial := 0, poolHead := 0, poolTail := 0, poolClocks := []
                 replays := l.replays + 1, started := false, replay := false, snapshot := none, dirty := [], copies := []
                 owing := [] }
      freeMonitors (modPart s1 l.part fun p => { p with markDue := true }) l.owing.contains
    else s

/-- A group and its waves leave the machine (R18, R193, R288). -/
def removeGroup (s : State) (g : Nat) : State :=
  match findGroup s g with
  | none => s
  | some x =>
    let s1 := freeGroupSlots { s with groups := s.groups.filter fun y => y.id ≠ g
                                      waves := s.waves.filter fun w => w.group ≠ g
                                      shadows := s.shadows.filter fun h => h.saved.group ≠ g
                                      cur := s.cur.bind fun c => if s.waves.any (fun w => w.id = c && w.group = g) then none else some c
                                      poisonReg := s.poisonReg.filter fun p => !(s.waves.any fun w => w.id = p.1 && w.group = g)
                                      poisonBuf := s.poisonBuf.filter fun p => p.1 ≠ g
                                      poisonCtx := s.poisonCtx.filter (· ≠ g) } g
    let s2 := match x.entry with
      | some (q, n) => entryDone s1 q n 0 0 0 (some x.part)
      | none => s1
    restartLaunch (settleLaunch s2 x.launch) x.launch

/-- A finished group of a faulted launch leaves once its accepted commands have completed (R346). -/
def reap (s : State) (g : Nat) : State :=
  match findGroup s g with
  | none => s
  | some x =>
    if x.finished && x.succ = 0 && x.appending.isNone && (wavesOf s g).all fun w => w.finished && w.queues.toList.all fun q => q.cmds.isEmpty then removeGroup s g else s

/-- The last wave of a group has finished: the group finishes, once its successor step (R191) is done. -/
def groupFinish (s : State) (g : Nat) : State :=
  match findGroup s g with
  | none => s
  | some x =>
    if x.finished then reap s g
    else if x.task && x.succ ≠ 0 then freeGroupSlots (modGroup s g fun y => { y with finished := true, sharing := none }) g
    else removeGroup s g

/-- The barrier generation completes when every unfinished wave has arrived: parked lanes are woken (R180). -/
def barrierCheck (s : State) (g : Nat) : State :=
  let ws := (wavesOf s g).filter fun w => !w.finished
  if ws.any (fun w => w.arrived) && ws.all fun w => w.arrived then
    let lanes (w : Wave) : List Lane := laneList.filter fun l =>
      (laneOf w l).state = .parked .barrier || match w.aside with | some a => a.states.get l = .parked .barrier | none => false
    let s1 := modGroup s g fun x => { x with barrier := x.barrier + 1 }
    ws.foldl (fun t w => modWave { t with wakes := t.wakes ++ (lanes w).map fun l => ⟨w.id, l, Clock.zero⟩ } w.id
      fun v => { v with arrived := false }) s1
  else s

/-- What is left of a wave whose launch has been faulted: its accepted commands alone (R346). -/
def husk (w : Wave) : Wave :=
  { w with
    lanes := Lanes.of fun l => { w.lanes.get l with state := .exited, pc := exitedPc, held := [], kept := [] }
    run := none, hold := none, issue := none, release := [], joins := [], pend := [], aside := none, h := false
    watchPend := [], claim := none, granted := false, place := none, ctx := none, finished := true, stopped := false
    skip := [], drain := none, waitMark := none, stepping := none, stepDone := false
    queues := Vector.ofFn fun k =>
      let q := w.queues.get k
      { q with part := none, done := [], cmds := q.cmds.filter fun c => c.state = .accepted } }

/-- The task entries of an ended launch: those its groups were started from complete, those that wait are discarded
(R346). -/
def endTasks (s : State) (gs : List Group) (id : DWord) (part status trap : Nat) : State :=
  let s1 := gs.foldl (fun t g => match g.entry with | some (q, n) => entryDone t q n status trap 0 (some g.part) | none => t) s
  let own (r : Reserved) : Bool := r.launch = id
  { s1 with queues := s1.queues.map fun q =>
      { q with void := q.void ++ (tasksOf s q id).map fun n => (n, status, trap, part)
               reserved := q.reserved.filter fun r => !own r, emergency := q.emergency.drop (q.reserved.filter own).length } }

/-- The STEP that issued an instruction of another wave has completed (R232). -/
def endStepOf (s : State) (n : Nat) (tick : Nat) : State := modWave s n fun v => if v.tick = tick then { v with stepDone := true } else v

/-- The waves in the middle of a run: they stop at its end (R346). -/
def midRun (w : Wave) : Bool :=
  w.issue.isSome && !w.stopped && match w.run with
    | some r => !r.cut && match w.hold with
      | none | some .operand | some .latch => true
      | some .monitor | some .tile | some .rendezvous | some .engineQueue | some .claim | some .barrier | some .commit | some .fence => false
    | none => false

/-- The colours of a wave of an ended launch are freed once its accepted commands have completed (R282, R346); of a launch that is to
start again, once its snapshot has been restored (R286). -/
def releaseHusk (s : State) (wid : Nat) : State :=
  match findWave s wid with
  | none => s
  | some w =>
    if !w.finished || w.queues.toList.any (fun q => !q.cmds.isEmpty) then s
    else if (findLaunch s w.launch).any (·.replay) then modLaunch s w.launch fun l => { l with owing := distinct (wid :: l.owing) }
    else freeMonitors s (· = wid)

/-- A wave waits for nothing any more: its waiter records, requests, grants and wakes are gone (R286). -/
def dropWaits (s : State) (wid : Nat) : State :=
  { s with campion := s.campion.map fun e => { e with queue := e.queue.filter fun q => q.wave ≠ wid }
           requests := s.requests.filter fun r => r.wave ≠ wid
           grants := s.grants.filter fun g => g.wave ≠ wid
           waiters := s.waiters.filter fun q => q.wave ≠ wid
           wakes := s.wakes.filter fun q => q.wave ≠ wid }

/-- A wave of an ended launch stops for good: its scout ends, it waits for nothing, its accepted commands alone stay, and its
colours are freed after them (R346). -/
def stopWave (s0 : State) (wid : Nat) : State :=
  let s := endScout s0 wid
  match findWave s wid with
  | none => s
  | some w =>
    let s1 := { releaseHusk (modWave (dropWaits s wid) wid husk) wid with cur := s.cur.bind fun c => if c = wid then none else some c }
    match w.stepping with
    | some (by', _) =>
      let s2 := emitWave s1 w 0x05 0 (liveMask w) ((minPc w (liveMask w)).getD exitedPc) 3
      match by' with
      | some (n, tick) => endStepOf s2 n tick
      | none => s2
    | none => s1

/-- Has the launch of a wave ended (R346)? -/
def launchEnded (s : State) (w : Wave) : Bool := (findLaunch s w.launch).any fun l => l.state ≠ .running

/-- A wave of an ended launch that has come to its run boundary stops, and its group may leave (R346). -/
def boundaryStop (s : State) (wid : Nat) : State :=
  match findWave s wid with
  | none => s
  | some w => if launchEnded s w && !w.finished && !midRun w then reap (stopWave s wid) w.group else s

/-- A launch is faulted or killed (R346): its waves stop at their run boundaries, its work is freed; what it wrote stays.
With `record` its completion record is to be written. -/
def endLaunch (s : State) (id : DWord) (st : LaunchState) (status trap : Nat) (record : Bool) : State :=
  match findLaunch s id with
  | none => s
  | some l =>
    if l.state ≠ .running then s
    else
      let s1 := ((s.waves.filter fun w => w.launch = id && !midRun w).map (·.id)).foldl stopWave
        (((s.waves.filter fun w => w.launch = id).map (·.id)).foldl endScout s)
      let s2 : State :=
        { s1 with
          groups := s1.groups.map fun g => if g.launch = id then
              { g with finished := true, sharing := none, rendezvous := [], array := []
                       entry := none, succ := 0, appending := none } else g
          cores := s1.cores.map fun c => { c with buckets := c.buckets.filter fun b => b.launch ≠ id } }
      let s3 := freeDieSlots (modLaunch s2 id fun x => { x with state := st, poolHead := x.poolTail, poolClocks := [], next := x.groups }) id
      let s4 := endTasks (if record then entryDone s3 l.queue l.seq status trap id (some l.part) else s3) (s1.groups.filter fun g => g.launch = id) id l.part status trap
      ((s4.groups.filter fun g => g.launch = id).map (·.id)).foldl reap s4

/-- A launch that waits to start again is killed (R346): it starts no more, and its colours are free. -/
def endReplay (s : State) (l : Launch) : State :=
  let s1 := modLaunch s l.id fun x => { x with state := .killed, replay := false, owing := [] }
  freeMonitors (entryDone s1 l.queue l.seq 4 0 l.id (some l.part)) l.owing.contains

/-- The driver has a launch killed (R346). -/
def killLaunch (s : State) (id : DWord) : State :=
  match findLaunch s id with
  | none => s
  | some l => if l.replay then endReplay s l else endLaunch s id .killed 4 0 true

/-- The code of a trap (R222). -/
def trapCode : Trap → Nat
  | .illegalOp => 0 | .illegalLatch => 1 | .window => 2 | .regClaim => 3 | .align => 4 | .tag => 5 | .perm => 6
  | .nonresStore => 7 | .rangeLock => 8 | .colourOrder => 9 | .colourLimit => 10 | .monitorWait => 11
  | .semOver => 12 | .semUnder => 13 | .callStack => 14 | .peerGone => 15 | .watch => 16 | .bkpt => 17
  | .trap => 18 | .engine => 19 | .gang => 20 | .queueCycle => 21 | .uncorrectable => 22 | .double => 23

/-- A launch is faulted by a trap (R346). -/
def faultLaunch (s : State) (id : DWord) (t : Trap) : State := endLaunch s id (.faulted t) 3 (trapCode t) true

/-! ### Traps -/

/-- What a trap reports (R225, R226). -/
structure TrapInfo where
  trap : Trap
  mask : Mask
  dmask : Mask
  pc : Pc
  rpc : Pc
  addr : DWord
  code : BitVec 14
  eng : Option (Byte × Byte × Pc)
  wscope : Nat
  wslot : Nat
  /-- the trap's lanes (R226) -/
  lanes : Mask
  /-- the stand address S (R226) -/
  stand : Pc
deriving DecidableEq, Repr

/-- The fault record (R225), 64 bytes. -/
def faultRecord (w : Wave) (x : TrapInfo) : Nat :=
  fld w.launch.toNat 0 64 + fld (if w.spn then 0 else w.baseWid.toNat) 64 64 + fld x.mask.toNat 128 32
  + fld x.dmask.toNat 160 32 + fld x.pc.toNat 192 48 + fld (trapCode x.trap) 240 5 + fld w.spn.toNat 245 1
  + fld x.eng.isSome.toNat 246 1 + fld w.index.toNat 248 5 + fld x.addr.toNat 256 64 + fld x.rpc.toNat 320 48
  + fld x.code.toNat 368 14
  + (match x.eng with
    | some (op, tag, hdr) => fld op.toNat 384 8 + fld tag.toNat 392 8 + fld hdr.toNat 400 48
    | none => 0)
  + fld x.wscope 448 2 + fld x.wslot 450 5
  + fld (if w.spn then (match x.mask.lowest with | some l => (laneOf w l).serial.toNat | none => 0xFFFFFFFF) else 0xFFFFFFFF) 456 32

/-- The record slot of a wave (R223). -/
def recordSlot (w : Wave) : DWord := w.csp - 64

/-- Where the record slot lies, when it meets R223: mapped device memory, writable, resident, of colour 0 and with the
key of CSPHI[27:24]. -/
def recordPlace (s : State) (w : Wave) : Option Nat :=
  match locate s w.part (recordSlot w) with
  | none => none
  | some p =>
    if p.page.isSome && p.wp && p.res && colourOf (homeMetaOf s p.ia) = 0
        && keyOf (homeMetaOf s p.ia) = bitsOf w.csp.toNat 56 4 then some p.ia else none

/-- The PCV of a handler, and what is held aside with it, the done-masks of instructions still to be resumed among it (R223,
steps 5 to 7; R344). The trap-entry level has a place on the return
stack and no entry in it. The spec gives no spin count or floor with which a handler starts: it starts with those of the
trapped wave (DESIGN CHOICE, log 56). -/
def formHandler (w : Wave) (handler : DWord) (x : TrapInfo) : Wave :=
  { w with
    aside := some { pcs := Lanes.of fun l => (laneOf w l).pc, states := Lanes.of fun l => (laneOf w l).state,
                    lanes := x.lanes, pc := x.pc, stand := x.stand, trap := x.trap, spin := w.spin, floor := w.floor
                    words := Lanes.of fun l => (laneOf w l).kept, skip := w.skip }
    h := true
    skip := []
    lanes := Lanes.of fun l =>
      let c := laneOf w l
      if x.mask.has l then
        { c with pc := handler.extractLsb' 0 48, state := .live, depth := c.depth + 1, trapLevel := some (c.depth + 1), ret := 0 :: c.ret, kept := [] }
      else { c with pc := exitedPc, state := .exited, kept := [] } }

/-- The issuing wave gives the slot up. -/
def dropCur (s : State) (wid : Nat) : State := { s with cur := s.cur.bind fun c => if c = wid then none else some c }

/-- The run of a wave is over: it waits for a slot from now on (R332). -/
def yieldSlot (s : State) (wid : Nat) : State :=
  dropCur { modWave s wid (fun w => { w with lastRun := s.fresh }) with fresh := s.fresh + 1 } wid

/-- A wave that has issued its one instruction stops again: a run that was cut before stays cut, any other ends. -/
def stopAgain (w : Wave) (cut : Bool) : Wave :=
  let v := { w with stepping := none, issue := none }
  if cut then { v with run := v.run.map fun r => { r with cut := true } }
  else if v.hold.isSome then v else endRun v false

/-- The instruction of a single step has completed (outcome 0), parked its lanes (1) or trapped (2): the wave is stopped
again, the record is emitted, and the STEP that asked for it can complete (R232, R390, R397). -/
def endStep (s : State) (wid : Nat) (m : Mask) (pc : Pc) (outcome : Nat) : State :=
  match findWave s wid with
  | none => s
  | some w =>
    match w.stepping with
    | none => s
    | some (by', cut) =>
      let s1 := emitWave (dropCur (modWave s wid fun v => stopAgain v cut) wid) w 0x05 0 m pc outcome
      match by' with
      | some (n, tick) => endStepOf s1 n tick
      | none => s1

/-- A wave takes a trap (R223, R345): the run ends, the record is written, and the handler is formed, or the launch is
faulted with the trap's own name when it names no handler, or with DOUBLE. -/
def trapWave (s : State) (wid : Nat) (x : TrapInfo) : State :=
  match findWave s wid with
  | none => s
  | some w0 =>
    let w := { endRun w0 false with stepDone := false }
    let s0 := endStep (yieldSlot (modWave s wid fun _ => w) wid) wid x.lanes x.pc 2
    let body := faultRecord w x
    match recordPlace s w with
    | none => faultLaunch (emitWave s0 w 0x06 1 x.mask x.pc (fld body 192 512)) w.launch .double
    | some ia =>
      let s2 := hardWrite s0 w.launch ia (bytesOf body 64)
      if w.handler = 0 then faultLaunch s2 w.launch x.trap
      else if w.h || (w.spn && w.ctx.isNone) || x.mask.lanes.any (fun l => (laneOf w l).depth = 4095) then
        faultLaunch s2 w.launch .double
      else modWave s2 wid fun w => formHandler w w.handler x

/-- The rendezvous of a gang of the group fails: every arrived member traps (R202). -/
def failRendezvous (s : State) (g : Nat) (gang : Word) (x : Trap) : State :=
  match findGroup s g with
  | none => s
  | some y =>
    match y.rendezvous.find? fun z => z.1.gang = gang with
    | none => s
    | some (_, arr) =>
      arr.foldl (fun t a =>
        match ((wavesOf t g).find? fun w => w.index = a.index).map reformWave with
        | none => t
        | some w =>
          match w.run with
          | none => t
          | some r =>
            trapWave t w.id { trap := x, mask := execMask w r, dmask := 0, pc := r.pc, rpc := r.pc, addr := 0, code := 0,
                              eng := none, wscope := 0, wslot := 0, lanes := r.exec, stand := r.pc })
        (modGroup s g fun y => { y with rendezvous := y.rendezvous.filter fun z => z.1.gang ≠ gang })

/-- The gangs of a group whose rendezvous waits for, or holds, wave `index` (R202). -/
def gangsOf (s : State) (g : Nat) (index : BitVec 5) : List Word :=
  match findGroup s g with
  | some y => (y.rendezvous.map fun z => z.1.gang).filter fun m => m.getLsbD index.toNat
  | none => []

/-- A member traps or finishes while others wait at a rendezvous (R202). -/
def abortRendezvous (s : State) (g : Nat) (gangs : List Word) : State :=
  gangs.foldl (fun t m => failRendezvous t g m .gang) s

/-- TAKING A TRAP. A member that traps in another instruction while others wait at a rendezvous fails it (R202). -/
def enterTrap (s : State) (wid : Nat) (x : TrapInfo) : State :=
  match findWave s wid with
  | none => s
  | some w =>
    abortRendezvous (trapWave s wid x) w.group (gangsOf s w.group w.index)

/-- A trap of an instruction: PC, RPC and S are its address (R225, R226). -/
def TrapInfo.at (t : Trap) (mask dmask : Mask) (r : Run) (a : DWord) : TrapInfo :=
  { trap := t, mask := mask, dmask := dmask, pc := r.pc, rpc := r.pc, addr := a, code := 0, eng := none, wscope := 0,
    wslot := 0, lanes := r.exec, stand := r.pc }

/-! ### Waves that finish -/

/-- A wave finishes: its slot, blocks and context are free; it may complete a barrier, fail a rendezvous, or be the
last of its group (R18, R180, R202). -/
def waveFinish (s : State) (wid : Nat) : State :=
  match findWave s wid with
  | none => s
  | some w =>
    let s1 := { modWave s wid fun w =>
                  { w with finished := true, lastRun := s.fresh, place := none, ctx := none, run := none, issue := none, hold := none, pend := []
                           queues := Vector.replicate 8 QReg.unbound, watch := [none, none], arrived := false }
                with fresh := s.fresh + 1, cur := s.cur.bind fun c => if c = wid then none else some c }
    let s2 := abortRendezvous s1 w.group (gangsOf s w.group w.index)
    if (wavesOf s2 w.group).all fun v => v.finished then groupFinish s2 w.group else barrierCheck s2 w.group

/-- Statuses of a completion that trap when popped (R213): TAG, PERM, MALFORMED. -/
def completionTrap (c : Completion) : Option Trap :=
  match bitsOf c.word.toNat 0 4 with
  | 8 => some .tag
  | 9 => some .perm
  | 10 => some .engine
  | _ => none

/-- Does a completion trap that no pop has reported? -/
def badDone (c : Completion) : Bool := (completionTrap c).isSome && !c.reported

/-- The first completion that traps and is not yet reported marked as reported (R343: one trap each). -/
def reportFirst : List Completion → List Completion
  | [] => []
  | c :: cs => if badDone c then { c with reported := true } :: cs else c :: reportFirst cs

/-- The first completion of a wave that traps and that no pop has reported. -/
def badCompletion (w : Wave) : Option (Fin 8 × Completion) :=
  (List.finRange 8).findSome? fun k =>
    match (w.queues.get k).done.find? badDone with
    | some c => some (k, c)
    | none => none

/-- Has the wave no lane, release, join or store left to wait for (R18, R187, R343)? -/
def readyToFinish (w : Wave) : Bool :=
  allExited w && !w.finished && w.release.isEmpty && w.joins.isEmpty && w.stores = 0 && w.watchPend.isEmpty

/-- A wave whose lanes have all exited and whose commands have completed takes the traps of R343 one at a time, and then
finishes. -/
def finishWave (s : State) (wid : Nat) : State :=
  match findWave s wid with
  | none => s
  | some w =>
    match badCompletion w with
    | none => waveFinish s wid
    | some (k, c) =>
      let s1 := modWave s wid fun w =>
        let q := w.queues.get k
        { modLane w c.lane (fun x => { x with depth := 0 }) with
          queues := w.queues.set k.val { q with done := reportFirst q.done } k.isLt }
      trapWave s1 wid
        { trap := (completionTrap c).getD .engine, mask := Mask.of (· = c.lane), dmask := 0, pc := exitedPc, rpc := exitedPc
          addr := c.addr, code := 0, eng := some (c.op, c.word.extractLsb' 16 8, c.pc), wscope := 0, wslot := 0
          lanes := Mask.of (· = c.lane), stand := exitedPc }

/-- Commands pushed whole that have not completed. -/
def hasCommands (w : Wave) : Bool := w.queues.toList.any fun q => !q.cmds.isEmpty

/-- The wave finishes now unless it waits for commands (R343). -/
def tryFinish (s : State) (wid : Nat) : State :=
  match findWave s wid with
  | none => s
  | some w => if readyToFinish w && !hasCommands w then finishWave s wid else s

/-! ### Control words at their homes -/

/-- A write performed at the home takes its place in the order of writes; when it originates on the home die and a
replica exists it leaves with a stamp and is announced (R257, R263). -/
def announce (s : State) (f : Flight) : State :=
  let h := homeDie f.ia
  match f.left with
  | some _ =>
    { s with flights := s.flights.map fun g => if g.id = f.id then { g with performed := some s.fresh } else g
             fresh := s.fresh + 1 }
  | none =>
    if hasReplica s (f.ia / 64) then
      let c := clockSet (clockOf s h) h (clockAt (clockOf s h) h + 1)
      let s1 := modDie s h fun d => { d with clock := c }
      { s1 with flights := putBy (fun g => g.id = f.id)
                  { f with performed := some s.fresh, left := some (h, c), todo := (List.range 4).filter (· ≠ h) } s1.flights
                fresh := s.fresh + 1 }
    else { s with flights := s.flights.map fun g => if g.id = f.id then { g with performed := some s.fresh, todo := [] } else g
                  fresh := s.fresh + 1 }

/-- A 32-bit control word at its home. -/
def counterWord (s : State) (ia : Nat) : Word := BitVec.ofNat 32 (homeRead s ia 4)

/-- An access of a wave's core to a page (R309); of a wave that has no core, one of the hardware. -/
def waveAccess (s : State) (w : Wave) (ia : Nat) (write : Bool) : State :=
  match w.place with
  | some p => coreAccess s p.die p.core ia write
  | none => markAccessed s ia write

/-- The copy of a line in the L1 of a wave's core is invalid (R298). -/
def waveDrop (s : State) (w : Wave) (line : Nat) : State :=
  match w.place with
  | some p => l1DropLine s p.die p.core line
  | none => s

/-- A write made from die o, performed at its home in one step, takes its place among the dies' writes: from a remote die it
leaves with that die's stamp, which the home counts once it has counted what comes before; on the home die it is announced where
a replica exists (R257, R263). A counted write is acknowledged at once unless the die holds a replica that has still to apply it
(R144, R257). -/
def placeWrite (s0 : State) (o : Nat) (f : Flight) : State :=
  let h := homeDie f.ia
  if o = h then
    if hasReplica s0 (f.ia / 64) then
      let g : Flight := { f with counted := false, acked := true }
      announce { s0 with fresh := s0.fresh + 1, flights := s0.flights ++ [g] } g
    else s0
  else
    let s := catchUp s0 h
    let waits := f.counted && (replicaOf s o (f.ia / 64)).isSome
    let c := clockSet (clockOf s o) o (clockAt (clockOf s o) o + 1)
    let s1 := modDie (modDie s o fun d => { d with clock := c }) h fun d => { d with clock := clockSet d.clock o (clockAt c o) }
    let s2 := if waits then modWave s1 f.wave fun w => { w with stores := w.stores + 1 } else s1
    { s2 with flights := s2.flights ++ [{ f with counted := waits, acked := !waits, left := some (o, c), performed := some (s.fresh + 1)
                                                 todo := (List.range 4).filter (· ≠ h) }]
              fresh := s.fresh + 2 }

/-- A control word written at its home in one step, from die o: it is counted (R169), the issuing core's copy is invalid (R298),
and the other dies follow as for any write. -/
def counterWrite (s : State) (o : Nat) (w : Wave) (l : Lane) (pc : Pc) (exec : Mask) (ptr : DWord) (ia : Nat) (x : Word) : State :=
  let s1 := homeTouch (waveDrop (homeWrite (waveAccess s w ia true) w.launch ia (bytesOf x.toNat 4)) w (ia / 64)) w.part (ia / 64) true
  placeWrite s1 o
    { id := s1.fresh, wave := w.id, launch := w.launch, part := w.part, die := o, core := (w.place.map (·.core)).getD 0
      lane := l, pc := pc, exec := exec, ptr := ptr, byHandler := w.h, ia := ia, kind := .store (bytesOf x.toNat 4)
      counted := true, left := none, performed := none, acked := false, todo := [], issued := s1.fresh, atReplica := false }

/-- The die from which a wave's step of a control word comes; the home's own of a wave that has no core. -/
def dieFrom (w : Wave) (ia : Nat) : Nat := (w.place.map (·.die)).getD (homeDie ia)

/-- A watched access of a control word or record of n bytes (R229: the instructions of majors 0x34 to 0x36 match A). -/
def counterWatch (s : State) (w : Wave) (l : Lane) (pc : Pc) (exec : Mask) (ptr : DWord) (ia n : Nat) (h : Bool) : State :=
  let (die, core) := match w.place with | some p => (p.die, p.core) | none => (homeDie ia, 0)
  watchAccess s { wave := w.id, lane := l, pc := pc, exec := exec, kind := 2, eng := none, ptr := ptr, len := n, die := die,
                  core := core, bank := some (homeDie ia), abuf := none, byHandler := h }

/-- Join waiters whose threshold the word has reached are woken (R188). -/
def wakeJoins (s : State) (ia : Nat) : State :=
  let x := (counterWord s ia).toInt
  let hit (q : WordWaiter) : Bool := q.kind = .join && q.ia = ia && decide (x ≤ q.n.toInt)
  { s with waiters := s.waiters.filter fun q => !hit q
           wakes := s.wakes ++ (s.waiters.filter hit).map fun q => ⟨q.wave, q.lane, clockOf s (homeDie ia)⟩ }

/-- The homes of the words at which a wave's exited lanes have a step to take. -/
def joinHomes (s : State) (w : Wave) : List Nat :=
  distinct (w.joins.filterMap fun j => (locate s w.part j.addr).map fun p => homeDie p.ia)

/-- The join counters of exited lanes are decremented, as a device-scope release: when the store count is zero and the
counters' homes count what the wave's die sent, and what each other sent (R187, R263). -/
def joinsReady (s : State) (w : Wave) : Bool :=
  w.stores = 0 && (joinHomes s w).all fun h => clockCounts (clockOf s h) (waveClock s w) && countsAll s h (joinHomes s w)

/-- The step of an exited lane at its join counter (R187). -/
def joinStep (w : Wave) (t : State) (j : JoinDue) : State :=
  match locate t w.part j.addr with
  | none => t
  | some p =>
    let t1 := counterWrite t (dieFrom w p.ia) w j.lane j.pc j.exec j.addr p.ia (counterWord t p.ia - 1)
    wakeJoins (counterWatch t1 w j.lane j.pc j.exec j.addr p.ia 4 j.byHandler) p.ia

/-- The decrements of a wave's exited lanes, once they may be made. -/
def flushJoins (s : State) (wid : Nat) : State :=
  match findWave s wid with
  | none => s
  | some w =>
    if w.joins.isEmpty || !joinsReady s w then s
    else w.joins.foldl (joinStep w) (modWave s wid fun w => { w with joins := [] })

/-! ### The end of a handler -/

/-- RPC and DMASK as the record slot holds them, the wave's own stores included (R143, R226). -/
def readRecord (s : State) (w : Wave) : Option (Pc × Mask) :=
  match locate s w.part (recordSlot w), w.place with
  | some p, some pl =>
    if p.page.isSome && p.rp && p.res then
      let x := (coreLine s pl.die pl.core (p.ia / 64)).data.toNat
      some (BitVec.ofNat 48 (bitsOf x 320 48), BitVec.ofNat 32 (bitsOf x 160 32))
    else none
  | _, _ => none

/-- The done-masks after a handler: that of the trapping instruction is the record's when the instruction is resumed, and
none otherwise; those of other instructions stay (R226, R344). -/
def skipAfter (a : Aside) (rpc : Pc) (dmask : Mask) : List (Pc × Mask) :=
  if a.trap = .watch then a.skip
  else
    let others := a.skip.filter fun x => x.1 ≠ a.pc
    if rpc ≠ exitedPc && rpc = a.pc then (a.pc, dmask) :: others else others

/-- The held-aside PCV restored, with the trap's lanes at S moved to RPC (R226). -/
def resumeWave (w : Wave) (a : Aside) (rpc : Pc) (dmask : Mask) : Wave :=
  let moves (l : Lane) : Bool :=
    rpc ≠ exitedPc && a.lanes.has l && a.pcs.get l = a.stand && !isParked (a.states.get l) && a.states.get l ≠ .exited
  { w with
    aside := none, h := false, spin := a.spin, floor := a.floor
    skip := skipAfter a rpc dmask
    lanes := Lanes.of fun l =>
      let c := laneOf w l
      { c with
        pc := if moves l then rpc else a.pcs.get l
        state := a.states.get l
        kept := if rpc ≠ exitedPc && rpc ≠ a.stand && a.lanes.has l then [] else a.words.get l } }

/-- The end of a handler traps with DOUBLE (R226): the record names the lanes and the address of the trap that the
handler served (log 57). -/
def endDouble (s : State) (w : Wave) (a : Aside) : State :=
  trapWave s w.id { trap := .double, mask := a.lanes, dmask := 0, pc := a.pc, rpc := a.pc, addr := 0, code := 0, eng := none,
                    wscope := 0, wslot := 0, lanes := a.lanes, stand := a.stand }

/-- The handler ends when no handler lane is live or parked (R226). A record slot that can no longer be read (unmapped,
RP = 0 or not resident) has no outcome in the spec; the model takes DOUBLE (DESIGN CHOICE, log 57). -/
def handlerEnd (s : State) (wid : Nat) : State :=
  match findWave s wid with
  | none => s
  | some w =>
    match w.aside with
    | none => s
    | some a =>
      if laneList.any fun l => (laneOf w l).state ≠ .exited then s
      else
        match readRecord s w with
        | none => endDouble s w a
        | some (rpc, dmask) =>
          if rpc ≠ exitedPc && bitsOf rpc.toNat 0 2 ≠ 0 then endDouble s w a
          else tryFinish (modWave s wid fun w => resumeWave w a rpc dmask) wid

/-! ### Registers of a wave -/

/-- Wave register k of a lane (R20). -/
def waveReg (w : Wave) (l : Lane) (k : Nat) : Word := spGet (laneOf w l).regs k

/-- The wave-register number of vN (R21). -/
def windowReg (w : Wave) (n : Nat) : Nat := 32 * w.winb.toNat + n

end Sys2Proof.Machine
end

