-- ==== Sys2Proof/Machine/Recovery.lean ====
section
/-! DEFINITION. Teasel: the image of a partition at a mark (R348), rollback to it (R353), and the path of an
uncorrectable error with replay from a snapshot (R357 to R359). -/
namespace Sys2Proof.Machine

/-- Does the channel of a physical address belong to the partition (R376)? -/
def inChannels (p : Part) (a : Nat) : Bool := p.desc.channels.getLsbD (a / Config.channelBytes)

/-- Is a wave of the partition? -/
def waveOfPart (s : State) (part n : Nat) : Bool := s.waves.any fun w => w.id = n && w.part = part

/-- Does a launch belong to the partition? -/
def launchOfPart (s : State) (part : Nat) (id : DWord) : Bool := s.launches.any fun l => l.id = id && l.part = part

/-- The buckets that hold records of the partition's launches. -/
def bucketsOf (s : State) (part : Nat) : List (Nat × Nat × Bucket) :=
  s.cores.flatMap fun c => (c.buckets.filter fun b => launchOfPart s part b.launch).map fun b => (c.die, c.core, b)

/-- The image of a partition as it stands (R348). -/
def imageOf (s : State) (part mark : Nat) : MarkImage :=
  let tenant := tenantOf s part
  let mine (n : Nat) : Bool := waveOfPart s part n
  { part := part, mark := mark, mem := s.mem, lineKeys := s.lineKeys
    waves := s.waves.filter fun w => w.part = part
    groups := s.groups.filter fun g => g.part = part
    launches := s.launches.filter fun l => l.part = part
    campion := s.campion.filter fun e => e.tenant = tenant
    waiters := s.waiters.filter fun q => mine q.wave
    wakes := s.wakes.filter fun q => mine q.wave
    grants := s.grants.filter fun q => mine q.wave
    requests := s.requests.filter fun q => mine q.wave
    queues := s.queues.filter fun q => q.desc.tenant.toNat = tenant
    pages := s.dies.toList.flatMap fun d => d.pages.filter fun x => x.2.2 = part
    ranges := s.ranges.filter fun r => r.part = part
    buckets := bucketsOf s part }

/-- The image of the latest committed mark of a partition (R350). -/
def committedImage (s : State) (p : Part) : Option MarkImage :=
  (s.images.filter fun i => i.part = p.n && (i.mark < p.mark || p.committed)).getLast?

/-- A wave taken off its slot (R330): it goes on where it stood. -/
def saveWave (w : Wave) : Wave :=
  { w with place := none, issue := none, hold := if w.run.isSome then w.hold else none, stopped := w.stopped && w.intercepted }

/-- A group saved to memory (R330): its context is written (free bytes, log 55); its waves' slots and blocks, its
reservations and its tile entries are free; it leaves its sharing group (R163), and its group watch slots are freed (R426).
One that owns a monitor with a waiter is queued for relaunch (R286). -/
def saveGroup (s0 : State) (g : Nat) : State :=
  let s := ((wavesOf s0 g).map (·.id)).foldl endScout s0
  let s1 := freeGroupSlots
    { modGroup s g (fun x => { x with place := none, sharing := none, context := some s.free
                                      clock := match x.place with | some c => clockOf s c.1 | none => x.clock }) with
      free := s.free + 1
      waves := s.waves.map fun w => if w.group = g then saveWave w else w
      cur := s.cur.bind fun c => if s.waves.any (fun w => w.id = c && w.group = g) then none else some c } g
  match findGroup s1 g with
  | some x => signalOwners s1 (tenantOf s1 x.part)
  | none => s1

/-- Byte k of the context of a saved group, in the partition's context area (R291, R330). -/
def contextBytes (x : Group) (k : Nat) : Option Byte := x.context.map fun n => Config.contextByte n k

/-- Memory with the bytes of a partition's channels as in an image, but for the entries that launch packets appended
since (R352). -/
def restoreMemory (s : State) (p : Part) (i : MarkImage) : Memory :=
  let others := s.mem.filter fun c => !inChannels p c.1
  let own := i.mem.filter fun c => inChannels p c.1
  let base := own.foldl (fun m c => writeByte m c.1 c.2) others
  let kept := s.queues.filter fun q => !q.desc.task
  kept.foldl (fun m q =>
    let from' := match i.queues.find? fun x => x.n = q.n with | some x => x.tail | none => q.tail
    (List.range (q.tail - from').toNat).foldl (fun m k =>
      match physOf s (entryIa q (from' + BitVec.ofNat 32 k)) with
      | some _ =>
        (List.range 128).foldl (fun m b =>
          match physOf s (entryIa q (from' + BitVec.ofNat 32 k) + b) with
          | some a => if inChannels p a then writeByte m a (readByte s.mem a) else m
          | none => m) m
      | none => m) m) base

/-- A queue returned to a partition's mark (R353): START and HEAD go back; what a commit has reported since is part of
every image (log 25); the TAIL of a task queue goes back when every entry appended since is of the partition, else such entries are discarded. What
belongs to other partitions stays (log 25). -/
def queueBack (s : State) (part : Nat) (q x : Queue) : Queue :=
  let since := (List.range (q.tail - x.tail).toNat).map fun k => x.tail + BitVec.ofNat 32 k
  let mine (n : Word) : Bool := launchOfPart s part (BitVec.ofNat 64 (homeRead s (entryIa q n + 64) 8))
  let back := q.desc.task && since.all mine
  let own (r : Reserved) : Bool := launchOfPart s part r.launch
  { q with
    start := if (x.start - x.head).toNat < 2 ^ 31 then x.start else x.head
    head := x.head
    tail := if back then x.tail else q.tail
    after := x.after ++ q.after.filter fun y => !x.after.contains y
    origins := if back then x.origins else x.origins ++ q.origins.filter fun y => !x.origins.contains y
    emergency := x.emergency.take (x.reserved.filter own).length ++ q.emergency.take (q.reserved.filter fun r => !own r).length
    reserved := x.reserved.filter own ++ q.reserved.filter fun r => !own r
    void := x.void.filter (fun v => v.2.2.2 = part) ++ q.void.filter (fun v => v.2.2.2 ≠ part)
      ++ (if q.desc.task && !back then (since.filter mine).map fun n => (n, 0, 0, part) else [])
    done := q.done.filter (fun y => y.part ≠ some part) ++ x.done.filter fun y => y.part = some part && decide ((y.seq - q.head).toNat < 2 ^ 31) }

/-- The partition returns to its latest committed mark and its groups are saved from there (R353): as for every saved group, the
group slots that its groups held are free (R426), and so are the die slots of launches that had not started. -/
def rollback (s : State) (part : Nat) : State :=
  match findPart s part with
  | none => s
  | some p =>
    match committedImage s p with
    | none => s
    | some i =>
      let mine (n : Nat) : Bool := waveOfPart s part n || i.waves.any fun w => w.id = n
      let resident := i.groups.filter fun g => g.place.isSome
      let back (q : Queue) : Queue := match i.queues.find? fun x => x.n = q.n with | some x => queueBack s part q x | none => q
      let theirs (n : Nat) : Bool := (s.groups ++ i.groups).any fun g => g.id = n && g.part = part
      let gone (n : Nat) : Bool := launchOfPart s part (BitVec.ofNat 64 n) && i.launches.all fun l => l.id.toNat ≠ n
      let free (f : Nat → Bool) (x : Option WatchSlot) : Option WatchSlot := x.bind fun y => if f y.owner then none else some y
      let s0 := hollowFlights s fun f => f.part = part
      let s1 : State :=
        { s0 with
          mem := restoreMemory s p i
          lineKeys := s.lineKeys.filter (fun x => !inChannels p (64 * x.1)) ++ i.lineKeys.filter fun x => inChannels p (64 * x.1)
          poisonMem := s.poisonMem.filter fun x => !p.logged.contains x
          poisonMeta := s.poisonMeta.filter fun x => !p.logged.contains x
          poisonReg := s.poisonReg.filter fun x => !mine x.1
          poisonBuf := s.poisonBuf.filter fun x => !(s.groups.any fun g => g.id = x.1 && g.part = part)
          waves := s.waves.filter (fun w => w.part ≠ part) ++ i.waves
          groups := s.groups.filter (fun g => g.part ≠ part) ++ i.groups
          shadows := s.shadows.filter fun h => h.saved.part ≠ part
          launches := s.launches.filter (fun l => l.part ≠ part) ++ i.launches
          campion := s.campion.filter (fun e => e.tenant ≠ tenantOf s part) ++ i.campion
          waiters := s.waiters.filter (fun q => !mine q.wave) ++ i.waiters
          wakes := s.wakes.filter (fun q => !mine q.wave) ++ i.wakes
          grants := s.grants.filter (fun q => !mine q.wave) ++ i.grants
          requests := s.requests.filter (fun q => !mine q.wave) ++ i.requests
          queues := s.queues.map back
          cores := s.cores.map fun c =>
            { c with watch := c.watch.map (free theirs)
                     buckets := c.buckets.filter (fun b => !launchOfPart s part b.launch)
                ++ ((i.buckets.filter fun x => x.1 = c.die && x.2.1 = c.core).map fun x => x.2.2) }
          ranges := s.ranges.filter (fun x => x.part ≠ part) ++ i.ranges
          l1 := (s.l1.filter fun b => match physOf s (256 * b.tag) with | some a => !inChannels p a | none => false)
          llc := (s.llc.filter fun b => match physOf s (256 * b.tag) with | some a => !inChannels p a | none => false)
          images := s.images.filter fun x => x.part ≠ part || x.mark ≤ i.mark
          cur := s.cur.bind fun c => if mine c then none else some c
          dies := Vector.ofFn fun d =>
            let x := s.dies.get d
            { x with watch := x.watch.map (free gone)
                     pages := x.pages.filter (fun y => y.2.2 ≠ part) ++ i.pages.filter fun y => homeDie y.1 = d.val } }
      let s2 := modPart s1 part fun p => { p with held := [], closing := [], mark := i.mark, committed := true, markDue := false, logged := [] }
      let s3 := resident.foldl (fun t g => signalGroup (saveGroup t g.id) g.id) (pinLines s2)
      emitTeasel s3 part 2 i.mark

/-- Does an outbound effect come from the launch? -/
def outboundOf (launch : DWord) : Outbound → Bool
  | .write _ _ _ h => h.launch = launch
  | .reply .. | .notice _ | .read .. => false

/-- The fault record of a consumed uncorrectable error (R225, R342): the launch, the logical thread, TRAPNO 22. -/
def errorRecord (id name : DWord) (spn : Bool) : Nat :=
  fld id.toNat 0 64 + fld (if spn then 0 else name.toNat) 64 64 + fld (trapCode .uncorrectable) 240 5 + fld spn.toNat 245 1
  + fld (if spn then name.toNat else 0xFFFFFFFF) 456 32

/-- Is a forced clock break in force on a die that holds a wave of the logical thread (R401)? -/
def nameBroken (s : State) (id name : DWord) (spn : Bool) : Bool :=
  s.waves.any fun w => w.launch = id && w.spn = spn && brkOf s w && laneList.any fun l => nameOf w l = name

/-- A launch consumes an uncorrectable error (R357) in a logical thread: the error is reported with the launch, the thread and
the structure (R342); the launch stops; it is faulted, or it starts again from its snapshot once its work has stopped. -/
def consumeError (s : State) (id name : DWord) (spn : Bool) (what : Struck) : State :=
  match findLaunch s id with
  | none => s
  | some l =>
    if l.state ≠ .running then s
    else
      let drop (x : List Outbound) : List Outbound := x.filter fun y => !outboundOf id y
      let r : TraceRec := { typ := 0x06, size := 1, spn := spn, ix := false, brk := nameBroken s id name spn, launch := id, name := name
                            lmask := 0, pc := 0, place := none, body := fld (errorRecord id name spn) 192 512 }
      let s0 := modPart (emit (answer s (.consumed id name spn what)) l.part r) l.part fun p =>
        { p with held := drop p.held, closing := drop p.closing }
      if l.snapshot.isNone || 2 ≤ l.replays then faultLaunch s0 id .uncorrectable
      else
        restartLaunch (endLaunch (modLaunch s0 id fun x => { x with replay := true }) id (.faulted .uncorrectable) 3
          (trapCode .uncorrectable) false) id

/-- The launch of a wave consumes an error in the lowest of its lanes m: the instruction completes in no lane, and the
wave's run is at its end. -/
def consumeBy (s : State) (w : Wave) (m : Mask) (what : Struck) : State :=
  consumeError (dropCur (modWave s w.id fun v => endRun v false) w.id) w.launch (match m.lowest with | some l => nameOf w l | none => 0) w.spn what

/-! ### Marks that are due (R347) -/

/-- Bytes that the undo log of a partition holds since the last mark (R348): the lines logged with their metadata words, and
the register blocks and buffer pieces that differ from the last image (log 72). -/
def undoBytes (s : State) (p : Part) : Nat :=
  let lines := 66 * p.logged.length
  match (s.images.filter fun i => i.part = p.n).getLast? with
  | none => lines
  | some i =>
    let old (w : Wave) : Option Wave := i.waves.find? fun v => v.id = w.id
    let block (w : Wave) (k : Nat) : List (List (Nat × Word)) := laneList.map fun l => (laneOf w l).regs.filter fun r => r.1 / 32 = k
    let blocks := (s.waves.filter fun w => w.part = p.n && w.place.isSome).foldl (fun n w => n + ((List.range w.blks.toNat).filter fun k =>
      match old w with | some v => block v k ≠ block w k | none => true).length) 0
    let piece (m : Memory) (k : Nat) : Memory := m.filter fun c => c.1 / 1024 = k
    let differ (kib : Nat) (a b : Memory) : Nat := ((List.range kib).filter fun k => piece a k ≠ piece b k).length
    let pieces := (s.groups.filter fun g => g.part = p.n).foldl (fun n g => match i.groups.find? fun x => x.id = g.id with
      | some x => n + differ g.abufKiB g.abuf x.abuf + differ g.wbufKiB g.wbuf x.wbuf + differ g.cbufKiB g.cbuf x.cbuf
      | none => n) 0
    lines + 4096 * blocks + 1024 * pieces

/-- Bytes of the outbound effects that a partition holds (R351). -/
def heldBytes (p : Part) : Nat :=
  let size (x : Outbound) : Nat := match x with
    | .write _ _ bs _ => bs.length
    | .reply _ bs => bs.length
    | .notice _ | .read .. => 0
  ((p.closing ++ p.held).map size).sum

/-- Is a mark of the partition due: asked for, or its undo log or its share of the held buffer three-quarters full (R347)? A
log of no size given has no bound. -/
def markIsDue (s : State) (p : Part) : Bool :=
  p.markDue || (p.logSize ≠ 0 && 3 * p.logSize ≤ 4 * undoBytes s p) || 3 * Config.heldShare ≤ 4 * heldBytes p

/-! ### Completion records (R318) -/

/-- Every image of a mark changed: what is never undone (R350, R352). -/
def inImages (s : State) (f : MarkImage → MarkImage) : State := { s with images := s.images.map f }

/-- Bytes written into the memory of every image: what is never undone (R352). -/
def imageWrite (s : State) (a : Nat) (bs : List Byte) : State := inImages s fun i => { i with mem := writeBytes i.mem a bs }

/-- The completion record of an entry (R318). -/
def completionRecord (x : Ended) : Nat := fld x.seq.toNat 0 32 + fld x.status 32 4 + fld x.trap 36 5 + fld x.launch.toNat 64 64

/-- The identifier of a launch (R320). -/
def launchId (q : Nat) (seq : Word) : DWord := BitVec.ofNat 64 (q * 2 ^ 48 + seq.toNat)

/-- An identifier that no launch has: what the machine itself writes makes nothing dirty for a launch (R358). -/
def noLaunch : DWord := 0xFFFFFFFFFFFFFFFF

/-- HEAD of a queue past an entry that has been reported. -/
def passHead (x : Ended) (y : Queue) : Queue := { y with head := x.seq + 1, done := y.done.filter fun z => z.seq ≠ x.seq }

/-- A launch that has been reported: its snapshot is freed (R358). -/
def reportedLaunch (l : Launch) : Launch := { l with reported := true, snapshot := none, dirty := [], copies := [] }

/-- A completion record written, HEAD advanced; the launch's snapshot is freed and its notice sent (R318, R358, R360). A
commit is never undone, so the images of marks show it too (R350, log 25). -/
def writeCompletion (s : State) (q : Queue) (x : Ended) : State :=
  let at' := q.desc.cbase.toNat + 16 * (x.seq.toNat % 2 ^ q.desc.log2n.toNat)
  let bs := bytesOf (completionRecord x) 16
  let s1 := hardWrite s noLaunch at' bs
  let gone (l : Launch) : Bool := !q.desc.task && l.id = x.launch && s.groups.all fun g => g.launch ≠ l.id
  let report (ls : List Launch) : List Launch :=
    (ls.filter fun l => !gone l).map fun l => if !q.desc.task && l.id = x.launch then reportedLaunch l else l
  let s2 := inImages (modQueue s1 q.n (passHead x)) fun i =>
    { i with mem := match physOf s1 at' with | some a => writeBytes i.mem a bs | none => i.mem
             queues := i.queues.map fun y => if y.n = q.n then passHead x y else y
             launches := report i.launches }
  if q.desc.task || (findLaunch s x.launch).isNone then s2
  else sendFor { s2 with launches := report s2.launches } q.desc.tenant.toNat
    (.notice { origin := Config.moduleId, launch := x.launch, name := 0, n := 0, key := 0, spn := false })

/-- Completion records written in sequence order, from HEAD, as far as they have committed. -/
def advanceHead : Nat → State → Nat → State
  | 0, s, _ => s
  | n + 1, s, k =>
    match findQueue s k with
    | none => s
    | some q =>
      match q.done.find? fun x => x.seq = q.head && x.committed with
      | some x => advanceHead n (writeCompletion s q x) k
      | none => s

end Sys2Proof.Machine
end

