-- ==== Sys2Proof/Machine/Shapes.lean ====
section
/-! DEFINITION. The shape of each instruction word (the registers and predicates it reads and writes, whether it ends its
run by its kind), what of R67 the shape and the other fields decide, and the banks a word uses (R65). -/
namespace Sys2Proof

/-- A register source of a word: its first register, how many registers it takes (R49), and whether a q code or a
latch code may stand there. -/
structure Src where
  r : Reg
  n : Nat
  q : Bool
  b : Bool
deriving DecidableEq, Repr, Inhabited

/-- A single-register source of any code (R48). -/
def Src.one (r : Reg) : Src := ⟨r, 1, true, true⟩
/-- A single-register source where a q code traps (R97, R109, R126, R141, R175). -/
def Src.noQ (r : Reg) : Src := ⟨r, 1, false, true⟩
/-- A pair (R49). -/
def Src.pair (r : Reg) : Src := ⟨r, 2, false, false⟩
/-- A quad (R49). -/
def Src.quad (r : Reg) : Src := ⟨r, 4, false, false⟩
/-- A data operand of n registers. -/
def Src.data (r : Reg) (n : Nat) : Src := if n = 1 then Src.one r else ⟨r, n, false, false⟩

/-- What the word alone fixes of an instruction (R43, R16, R26, R48 to R50). -/
structure Shape where
  /-- the E bit -/
  e : Bool
  /-- the K bit -/
  k : Bool
  /-- the form has a register destination that K may suppress (R26) -/
  kOk : Bool
  /-- the register destination and its number of registers -/
  dst : Option (Reg × Nat)
  /-- the register sources in the order of R97 -/
  srcs : List Src
  predsR : List Pred
  predsW : List Pred
  /-- the form ends its run by its kind (R16) -/
  ends : Bool
deriving DecidableEq, Repr, Inhabited

/-- A register destination of n registers and its sources. -/
def Shape.reg (e k : Bool) (d : Reg) (n : Nat) (srcs : List Src) : Shape := ⟨e, k, true, some (d, n), srcs, [], [], false⟩
/-- A predicate destination and register sources. -/
def Shape.pred (e : Bool) (p : Pred) (srcs : List Src) : Shape := ⟨e, false, false, none, srcs, [], [p], false⟩
/-- No destination; `ends` says whether the form ends its run. -/
def Shape.plain (e : Bool) (srcs : List Src) (ends : Bool) : Shape := ⟨e, false, false, none, srcs, [], [], ends⟩

/-- Registers of a .b32, .b64 or .b128 operand. -/
def regsOfBytes (w : Nat) : Nat := if w ≤ 4 then 1 else if w = 8 then 2 else 4

/-- Registers of an operand of a conversion format (R137). -/
def Fmt.regs : Fmt → Nat
  | .s64 | .z64 => 2
  | _ => 1

/-- The source format of CVT (R56): code s under major 0x17, 8 + s under 0x18. -/
def cvtSource (float : Bool) (s : Fin 8) : Option Fmt := Fmt.ofCode? (if float then 8 + s.val else s.val)

/-- Registers of the data operand of the operations of major 0x31 (R175). -/
def AtomX.dataRegs : AtomX → Nat
  | .cas32 | .exch64 | .add64 => 2
  | .cas64 => 4
  | .exch32 | .addF | .minF | .maxF => 1
/-- Registers to which the operations of major 0x31 return the old value (R175). -/
def AtomX.oldRegs : AtomX → Nat
  | .exch64 | .cas64 | .add64 => 2
  | .cas32 | .exch32 | .addF | .minF | .maxF => 1

/-- The shape of an instruction word; none for the rows that have no word. -/
def Instr.shape : Instr → Option Shape
  -- R53, R98 to R101: three registers
  | .addS32 e k d a b | .subS32 e k d a b | .mulS32 e k d a b | .mulhS32 e k d a b | .mulhZ32 e k d a b
  | .minS32 e k d a b | .maxS32 e k d a b | .minZ32 e k d a b | .maxZ32 e k d a b
  | .divS32 e k d a b | .divZ32 e k d a b | .remS32 e k d a b | .remZ32 e k d a b
  | .andB32 e k d a b | .orB32 e k d a b | .xorB32 e k d a b | .andnB32 e k d a b
  | .shlB32 e k d a b | .shrB32 e k d a b | .shraS32 e k d a b | .rotB32 e k d a b
  | .bfxS32 e k d a b | .bfxZ32 e k d a b => some (.reg e k d 1 [.one a, .one b])
  | .absS32 e k d a | .negS32 e k d a | .popc e k d a | .clz e k d a | .brev e k d a | .mov e k d a =>
    some (.reg e k d 1 [.one a])
  | .bfi e k d a b | .madS32 e k d a b => some (.reg e k d 1 [.one a, .one b, .noQ d])
  -- R102: pairs
  | .addS64 e k d a b | .subS64 e k d a b | .mulS64 e k d a b | .minS64 e k d a b | .maxS64 e k d a b
  | .minZ64 e k d a b | .maxZ64 e k d a b | .mulhS64 e k d a b | .mulhZ64 e k d a b =>
    some (.reg e k d 2 [.pair a, .pair b])
  | .negS64 e k d a | .absS64 e k d a => some (.reg e k d 2 [.pair a])
  | .shlB64 e k d a b | .shrB64 e k d a b | .shraS64 e k d a b => some (.reg e k d 2 [.pair a, .one b])
  | .madS64 e k d a b => some (.reg e k d 2 [.pair a, .pair b, .pair d])
  | .lea e k d a b _ => some (.reg e k d 2 [.pair a, .one b])
  | .sel e k d a b p => some ⟨e, k, true, some (d, 1), [.one a, .one b], [p], [], false⟩
  | .cmp32 e d a b _ => some (.pred e d [.one a, .one b])
  | .cmp64 e d a b _ => some (.pred e d [.pair a, .pair b])
  | .shlB32Imm e k d a _ | .shrB32Imm e k d a _ | .shraS32Imm e k d a _ | .rotB32Imm e k d a _ =>
    some (.reg e k d 1 [.one a])
  | .shlB64Imm e k d a _ | .shrB64Imm e k d a _ | .shraS64Imm e k d a _ => some (.reg e k d 2 [.pair a])
  | .addS32Imm e k d a _ | .mulS32Imm e k d a _ => some (.reg e k d 1 [.one a])
  | .ldi e k d _ => some (.reg e k d 1 [])
  | .ldhi e k d _ => some (.reg e k d 1 [.noQ d])
  -- chapter 05
  | .fadd e k d a b _ | .fsub e k d a b _ | .fmul e k d a b _ => some (.reg e k d 1 [.one a, .one b])
  | .ffma e k d a b _ => some (.reg e k d 1 [.one a, .one b, .noQ d])
  | .fmin e k d a b | .fmax e k d a b | .hadd2 e k d a b | .hmul2 e k d a b => some (.reg e k d 1 [.one a, .one b])
  | .hfma2 e k d a b | .dot4S8 e k d a b | .dot4Z8 e k d a b => some (.reg e k d 1 [.one a, .one b, .noQ d])
  | .frcp e k d a | .frsq e k d a | .fsqrt e k d a | .fexp2 e k d a | .flog2 e k d a | .fsinpi e k d a
  | .fcospi e k d a | .fclass e k d a => some (.reg e k d 1 [.one a])
  | .fcmp e d a b _ => some (.pred e d [.one a, .one b])
  | .cvt e k d a f _ s =>
    some (.reg e k d f.regs [.data a (match cvtSource false s with | some g => g.regs | none => 1)])
  | .cvtFloatSource e k d a f _ _ => some (.reg e k d f.regs [.one a])
  | .frnd e k d a _ => some (.reg e k d 1 [.one a])
  -- R58
  | .shfl e k d a b _ => some (.reg e k d 1 [.noQ a, .one b])
  | .voteAny e d a | .voteAll e d a => some ⟨e, false, false, none, [], [a], [d], false⟩
  | .voteBallot e k d a => some ⟨e, k, true, some (d, 1), [], [a], [], false⟩
  | .voteEq e d a => some (.pred e d [.one a])
  | .wred e k d a _ => some (.reg e k d 1 [.one a])
  | .wscan e k d a _ _ => some (.reg e k d 1 [.one a])
  | .pmovR2p e d a => some (.pred e d [.one a])
  | .pmovP2r e k d a => some ⟨e, k, true, some (d, 1), [], [a], [], false⟩
  | .pmovAnd e d a b | .pmovOr e d a b | .pmovXor e d a b | .pmovAndn e d a b =>
    some ⟨e, false, false, none, [], [a, b], [d], false⟩
  | .pmovNot e d a => some ⟨e, false, false, none, [], [a], [d], false⟩
  | .winb e _ | .rclaim e _ | .rgive e _ => some (.plain e [] true)
  -- chapter 04, control flow
  | .bra e _ | .call e _ => some (.plain e [] true)
  | .brp e p _ _ => some ⟨e, false, false, none, [], [p], [], true⟩
  | .callr e a => some (.plain e [.pair a] true)
  | .ret e | .exit e => some (.plain e [] true)
  | .nop e => some (.plain e [] false)
  -- chapter 06
  | .ld e k d a _ v => some (.reg e k d (regsOfBytes v.bytes) [.pair a])
  | .ldR e k d a p _ v => some ⟨e, k, true, some (d, regsOfBytes v.bytes), [.pair a], [], [p], false⟩
  | .st e d a _ v => some (.plain e [.pair a, .data d (regsOfBytes v.bytes)] false)
  | .lda e k d a _ _ w => some (.reg e k d (regsOfBytes w.bytes) [.noQ a])
  | .sta e d a _ _ w => some (.plain e [.noQ a, .data d (regsOfBytes w.bytes)] false)
  | .ldc e k d a _ w => some (.reg e k d (regsOfBytes w.bytes) [.noQ a])
  | .prefL1 e a _ | .prefLlc e a _ | .pagereq e a _ => some (.plain e [.pair a] false)
  | .colour e d a _ | .tagset e d a _ => some (.plain e [.pair a, .one d] true)
  | .tagget e k d a _ => some (.reg e k d 1 [.pair a])
  | .fence e _ | .acq e _ | .rel e _ => some (.plain e [] true)
  | .cjoin e k d => some ⟨e, k, true, some (d, 1), [⟨d, 1, false, false⟩], [], [], true⟩
  | .cleave e => some (.plain e [] true)
  -- chapter 07
  | .atomInt e k d a _ _ _ => some (.reg e k d 1 [.pair a, .noQ d])
  | .atomExt e k d a _ _ v =>
    some (.reg e k d v.oldRegs [.pair a, if v.dataRegs = 1 then .noQ d else .data d v.dataRegs])
  | .redInt e d a _ _ _ => some (.plain e [.pair a, .one d] false)
  | .redExt e d a _ _ v => some (.plain e [.pair a, .data d (if v = .add64 then 2 else 1)] false)
  | .semsig e d a _ _ | .semwait e d a _ _ | .semtake e d a _ _ => some (.plain e [.pair a, .one d] true)
  | .spawn e n c j t p =>
    some ⟨e, false, false, none,
      .pair j :: .pair t :: (List.range (c.val + 1)).map (fun i => .one (Reg.ofCode (4 * n.toNat + i))), [], [p], true⟩
  | .joinw e d a _ | .cwait e d a _ | .csig e d a _ | .enqt e d a _ => some (.plain e [.pair a, .one d] true)
  | .bar e => some (.plain e [] true)
  -- chapter 08
  | .mma e _ _ _ _ s | .mmas e _ _ _ _ s => some (.plain e [.one (.v ⟨s.val, by omega⟩)] true)
  | .cinit e _ | .cdrain e _ _ _ | .tset e _ _ | .ckmode e _ | .qbind e _ _ _ => some (.plain e [] true)
  | .tdef e _ q => some (.plain e [.quad q] true)
  | .qstat e k _ d => some (.reg e k d 1 [])
  -- chapter 09
  | .srd e k d _ => some (.reg e k d 1 [])
  | .swr e s _ => some (.plain e [.one s] true)
  | .trap e _ | .bkpt e _ | .rte e => some (.plain e [] true)
  | .step e a => some (.plain e [.one a] true)
  | .mark e f _ => some (.plain e [] f)
  | .pcnt e k d _ => some (.reg e k d 2 [])
  | .wset e _ _ a c => some (.plain e [.pair a, .pair c] true)
  | .wclr e _ _ => some (.plain e [] true)
  -- the rows that have no word
  | .runSelect .. | .waveAge .. | .spinRedirect .. | .loadReturn .. | .storeAck .. | .writePerformHome ..
  | .writeApply .. | .atomicAtBank .. | .replicaFill .. | .clusterStop .. | .watchTrap .. | .monitorRequest ..
  | .monitorGrant .. | .monitorRelease .. | .laneWake .. | .waveFinishAfterCommands .. | .regClaimGrant ..
  | .claimWaitTimeout .. | .groupSaveTimeout .. | .groupRelaunch .. | .scoutEnter .. | .scoutTimeout ..
  | .scoutExit .. | .mmaAccept .. | .mmaComplete .. | .rendezvousTimeout .. | .cdrainComplete .. | .copy ..
  | .loada .. | .loadw .. | .storea .. | .gather .. | .mcast .. | .rstore .. | .drain ..
  | .engineCommandComplete .. | .probeToken .. | .launchPacket .. | .inboundRmaWrite .. | .inboundRmaRead ..
  | .groupDispatch .. | .taskGroupFinish .. | .bucketFull .. | .bucketFlush .. | .waveForm .. | .poolRecordMove ..
  | .markIntervalTimeout .. | .checkpointMark .. | .markCommit .. | .sliceEnd .. | .softError .. | .uncorrectable ..
  | .launchKill .. | .linkTimeout .. | .switchTimeout .. | .peerTimeout .. | .fenceLift .. | .pageShootdown ..
  | .pageRequestForward .. | .rangeRegisterWrite .. | .queueDescriptorWrite .. | .tenantTableWrite ..
  | .tenantRemove .. | .partitionDescriptorWrite .. | .remoteTableWrite .. | .quotaWrite .. | .clusterLend ..
  | .clusterReclaim .. | .debugInterceptSet .. | .dieWatchEnable .. | .traceSessionOpen .. | .traceSessionClose ..
  | .traceAck .. | .sample .. | .treeSnapshot .. | .clockLock .. | .clockRelease .. | .clockBreak .. | .clockRestore ..
  | .clusterResume .. | .sweoloStep .. | .waveDump .. | .operatingPointChange .. | .powerLimitSet ..
  | .telemetryReport .. | .thermalShutdown .. | .moduleReset .. | .imageUpdate .. | .getVersion .. | .getCapabilities ..
  | .negotiateAlgorithms .. | .getDigests .. | .getCertificate .. | .challenge .. | .getMeasurements ..
  | .spdmUnsupportedRequest .. | .completionNotice .. | .ioDieFailure .. | .unsupportedPacket ..
  | .sweoloStopRequest .. | .windowAssignment .. | .pagerFrameWrite .. => none

/-- Why a word is not an instruction (R67), as far as its fields decide. -/
inductive IllFormed where
  /-- a latch code in a destination field (R25) -/
  | latchDest
  /-- an odd pair code, or a q or latch code in a pair field (R49) -/
  | badPair
  /-- a quad code that is not a multiple of 4, or a q or latch code in a quad field (R49) -/
  | badQuad
  /-- K = 1 where R26 forbids it -/
  | kForbidden
  /-- a q code where it traps (R97, R109, R126, R141, R160, R175) -/
  | qForbidden
  /-- a latch code in the data field of CJOIN (R160) -/
  | latchForbidden
  /-- an immediate outside R51, a count of 0 (R58), a payload quad above 23 (R62) -/
  | immediate
  /-- rounding code 5 outside CVT and CDRAIN (R55) -/
  | rounding
  /-- a reserved format code (R56) -/
  | format
  /-- an undefined mode of CKMODE, engine kind or index of QBIND (R63) -/
  | modeOrEngine
  /-- a special-register index that R29 does not list -/
  | specialIndex
  /-- a counter number that R228 does not list -/
  | counterNumber
  /-- a watch slot above its scope's limit (R64) -/
  | watchSlot
deriving DecidableEq, Repr, Inhabited

/-- Is the code one that may name n registers (R49)? -/
def Reg.group? (r : Reg) (n : Nat) : Bool :=
  match r with
  | .v m => m.val % n = 0
  | .g m => m.val % n = 0
  | .q _ | .b _ => n = 1

/-- The indexes of R29. -/
def specialListed (i : Nat) : Bool := i ≤ 0x0D || (0x10 ≤ i && i ≤ 0x13) || (0x18 ≤ i && i ≤ 0x22)

/-- The counters of R228. -/
def counterListed (n : Nat) : Bool :=
  n ≤ 0x009 || (0x100 ≤ n && n ≤ 0x102) || (0x10F ≤ n && n ≤ 0x11B) || (0x120 ≤ n && n ≤ 0x123)
    || (0x200 ≤ n && n ≤ 0x203) || (0x220 ≤ n && n ≤ 0x22F)

/-- The highest slot of a watch scope (R64). -/
def WScope.lastSlot : WScope → Nat
  | .thread => 1 | .group => 3 | .die => 15

/-- What is wrong with a source field. -/
def Src.error (s : Src) : Option IllFormed :=
  if s.n = 1 then
    match s.r with
    | .q _ => if s.q then none else some .qForbidden
    | .b _ => if s.b then none else some .latchForbidden
    | _ => none
  else if s.r.group? s.n then none
  else if s.n = 2 then some .badPair else some .badQuad

/-- What is wrong with a destination field. -/
def dstError (d : Reg × Nat) : Option IllFormed :=
  match d with
  | (.b _, 1) => some .latchDest
  | (r, n) => if r.group? n then none else if n = 2 then some .badPair else some .badQuad

/-- Is K legal (R26)? -/
def Shape.kLegal (s : Shape) : Bool :=
  !s.k || (s.kOk && match s.dst with
    | some (.v _, _) => true
    | some (.g _, _) => true
    | _ => false)

/-- What the shape shows wrong. -/
def Shape.error (s : Shape) : Option IllFormed :=
  match s.dst.bind dstError with
  | some x => some x
  | none =>
    match s.srcs.findSome? Src.error with
    | some x => some x
    | none => if s.kLegal then none else some .kForbidden

/-- What a field that is no register shows wrong. -/
def Instr.fieldError : Instr → Option IllFormed
  | .shlB32Imm _ _ _ _ n | .shrB32Imm _ _ _ _ n | .shraS32Imm _ _ _ _ n | .rotB32Imm _ _ _ _ n =>
    if n.toNat ≤ 31 then none else some .immediate
  | .shlB64Imm _ _ _ _ n | .shrB64Imm _ _ _ _ n | .shraS64Imm _ _ _ _ n =>
    if n.toNat ≤ 63 then none else some .immediate
  | .fadd _ _ _ _ _ r | .fsub _ _ _ _ _ r | .fmul _ _ _ _ _ r | .ffma _ _ _ _ _ r | .frnd _ _ _ _ r =>
    if r = .dth then some .rounding else none
  | .cvtFloatSource _ _ _ _ _ _ s => if s.val < 6 then none else some .format
  | .rclaim _ n | .rgive _ n => if n.val = 0 then some .immediate else none
  | .spawn _ n _ _ _ _ => if n.toNat < 24 then none else some .immediate
  | .ckmode _ m => if m.toNat < 3 then none else some .modeOrEngine
  | .qbind _ _ g i =>
    if g.toNat = 0 then (if i.toNat < 4 then none else some .modeOrEngine)
    else if g.toNat < 4 && i.toNat = 0 then none else some .modeOrEngine
  | .srd _ _ _ i | .swr _ _ i => if specialListed i.toNat then none else some .specialIndex
  | .pcnt _ _ _ n => if counterListed n.toNat then none else some .counterNumber
  | .wset _ s l _ _ | .wclr _ s l => if l.toNat ≤ s.lastSlot then none else some .watchSlot
  | _ => none

/-- The registers of a group of n from r on. -/
def Reg.span (r : Reg) (n : Nat) : List Reg := (List.range n).map (fun i => Reg.ofCode (r.code + i))

/-- Every register a shape names, source or destination. -/
def Shape.named (s : Shape) : List Reg :=
  s.srcs.flatMap (fun x => x.r.span x.n) ++ (match s.dst with | some (d, n) => d.span n | none => [])

/-- The bank-use vector of a word (R65): bit k is set when a source register v0 to v95 lies in bank k (R22). -/
def Instr.banks (i : Instr) : BitVec 8 :=
  match i.shape with
  | none => 0
  | some s =>
    (s.srcs.flatMap (fun x => x.r.span x.n)).foldl
      (fun m r => match r with | .v n => m ||| BitVec.ofNat 8 (2 ^ (n.val % 8)) | _ => m) 0

end Sys2Proof
end

