-- ==== Sys2Proof/WellFormed.lean ====
section
/-! DEFINITION. Which instructions are instruction words of the machine (R67): the checks are those of
Sys2Proof/Machine/Shapes.lean. -/
namespace Sys2Proof

/-- What makes an instruction ill-formed (R67), none for a well-formed one. -/
def Instr.error (i : Instr) : Option IllFormed :=
  match i.fieldError with
  | some x => some x
  | none =>
    match i.shape with
    | some s => s.error
    | none => none

/-- An instruction that R67 does not list. -/
def Instr.wellFormed (i : Instr) : Bool := i.error.isNone

end Sys2Proof
end

