-- ==== Sys2Proof/Machine/Operands.lean ====
section
/-! DEFINITION. Every operand form (R48, R49): window registers (R21), group registers (R23), queue registers (R24,
R212, R213), latches (R25), pairs and quads; destinations with K (R26); and how an instruction issues: the checks of
R68, readiness (R16, R333), pops, its own operation, and its completion in the run. -/
namespace Sys2Proof.Machine

/-- What the body of an instruction sees: the state after the pops, the issuing wave, its run, the lanes that execute,
and the shape of the word. -/
structure Ctx where
  s : State
  w : Wave
  r : Run
  exec : Mask
  sh : Shape
  i : Instr

/-- An instruction that completes: the state it leaves, the lanes that go on to the next word, the latch value, whether
it ends its run, and whether it is a taken backward branch (R19, R118). -/
structure Done where
  s : State
  adv : Mask
  vals : Option (Lanes Word)
  ends : Bool
  back : Bool
  /-- where a lane goes that does not go on to the next word -/
  goes : Lane → Option Pc

/-- Every lane goes on to the next word. -/
def onward (_ : Lane) : Option Pc := none

/-- What becomes of an instruction: it completes, it traps, it waits and is tried again, or an event that it set off has
already settled its wave. -/
inductive Res where
  | done (d : Done)
  | trap (s : State) (x : TrapInfo)
  | wait (s : State) (h : Hold)
  | settled (s : State)

/-- What scout does with an instruction (R336 and the rules it cites): scout ends before it, or it completes with the
given lanes of its destination and predicate poisoned. -/
inductive Scout where
  | ends
  | done (d : Done) (poison : Mask)
  /-- the instruction is passed over with no effect at all -/
  | skip

/-! ### Reading -/

/-- The value of a group register: in scout, its shadow copy when there is one (R336). -/
def gGet (s : State) (w : Wave) (n : Nat) : Word :=
  match (shadowOf s w.id).bind fun h => h.g.find? fun x => x.1 = n with
  | some x => x.2
  | none =>
    match findGroup s w.group with
    | some g => g.g.get (Fin.ofNat 16 n)
    | none => 0

/-- The number of q codes before source field k: which of the lane's kept words field k takes (R24). -/
def qIndex (srcs : List Src) (k : Nat) : Nat :=
  ((srcs.take k).filter fun x => match x.r with | .q _ => true | _ => false).length

/-- A register as a source in lane l; `j` is the place of the kept word when it is a queue register (R41). -/
def readReg (s : State) (w : Wave) (r : Run) (exec : Mask) (x : Reg) (j : Nat) (l : Lane) : Word :=
  match x with
  | .v n => waveReg w l (windowReg w n.val)
  | .g n => gGet s w n.val
  | .q _ => nthD (laneOf w l).kept j 0
  | .b k => if exec.has l then ((nthD r.latches k.val none).map fun v => v.get l).getD 0 else 0

/-- Source field k of the instruction, word i of its group, in lane l (R49, R97). -/
def Ctx.word (c : Ctx) (k i : Nat) (l : Lane) : Word :=
  match c.sh.srcs[k]? with
  | none => 0
  | some x => readReg c.s c.w c.r c.r.exec (if i = 0 then x.r else Reg.ofCode (x.r.code + i)) (qIndex c.sh.srcs k) l

/-- Source field k as one register. -/
def Ctx.x (c : Ctx) (k : Nat) (l : Lane) : Word := c.word k 0 l
/-- Source field k as a pair (R49). -/
def Ctx.pair (c : Ctx) (k : Nat) (l : Lane) : DWord := Sys2Proof.pair (c.word k 0 l) (c.word k 1 l)
/-- Source field k as a quad (R49). -/
def Ctx.quad (c : Ctx) (k : Nat) (l : Lane) : BitVec 128 := c.word k 3 l ++ c.word k 2 l ++ c.word k 1 l ++ c.word k 0 l
/-- Source field k with n registers, as 128 bits. -/
def Ctx.data (c : Ctx) (k n : Nat) (l : Lane) : BitVec 128 :=
  if n = 1 then (c.x k l).zeroExtend 128 else if n = 2 then (c.pair k l).zeroExtend 128 else c.quad k l
/-- A predicate of the issuing wave. -/
def Ctx.p (c : Ctx) (k : Pred) (l : Lane) : Bool := predOf c.w l k
/-- The highest lane of EXEC, which gives wave-scope operands (R29). -/
def Ctx.top (c : Ctx) : Lane := c.exec.highest.getD 0

/-! ### Writing -/

/-- Word i of a 128-bit value. -/
def wordOf128 (v : BitVec 128) (i : Nat) : Word := v.extractLsb' (32 * i) 32

/-- n registers of a lane written from wave register k on. -/
def putRegs (x : LaneCtx) (k : Nat) (v : BitVec 128) : Nat → LaneCtx
  | 0 => x
  | n + 1 => { putRegs x k v n with regs := spSet (putRegs x k v n).regs (k + n) (wordOf128 v n) }

/-- Command words that a queue register holds (R212). -/
def usedWords (q : QReg) : Nat :=
  q.cmds.foldl (fun n c => n + c.words.length) (match q.part with | some c => c.words.length | none => 0)

/-- One word pushed to the stream of a queue register by a lane: a header, or a further word; the command is whole once
it has LEN words after its header (R212, R215). -/
def pushWord (q : QReg) (l : Lane) (pc : Pc) (h : Bool) (place : Option Place) (tick : Nat) (x : Word) : QReg :=
  let c : Command := match q.part with
    | some c => { c with words := c.words ++ [x], order := tick }
    | none => { words := [x], lane := l, pc := pc, byHandler := h, order := tick, die := (place.map (·.die)).getD 0, core := (place.map (·.core)).getD 0, state := .pushed
                id := 0, status := 0, dmask := 0, flags := 0, addr := 0 }
  let len := bitsOf (nthD c.words 0 0).toNat 8 4
  if c.words.length = len + 1 then { q with part := none, cmds := q.cmds ++ [c] } else { q with part := some c }

/-- A group register written, to its shadow copy in scout (R23, R336). -/
def gSet (s : State) (w : Wave) (n : Nat) (x : Word) : State :=
  match shadowOf s w.id with
  | some _ =>
    { s with shadows := s.shadows.map fun h =>
        if h.wave = w.id then { h with g := (n, x) :: h.g.filter fun y => y.1 ≠ n } else h }
  | none => modGroup s w.group fun g => { g with g := Vector.ofFn fun k => if k = Fin.ofNat 16 n then x else g.g.get k }

/-- Poison marks of registers that a write overwrites are cleared (R356). -/
def clearPoison (s : State) (wid k n : Nat) (m : Mask) : State :=
  if s.poisonReg.isEmpty then s
  else { s with poisonReg := s.poisonReg.filter fun p => !(p.1 = wid && m.has (Fin.ofNat 32 p.2.1) && k ≤ p.2.2 && p.2.2 < k + n) }

/-- A destination of n registers written in the lanes of m (R23, R24, R26, R41). -/
def writeReg (s : State) (w : Wave) (pc : Pc) (m : Mask) (d : Reg) (n : Nat) (k : Bool) (f : Lane → BitVec 128) : State :=
  match d with
  | .v x =>
    if k then s
    else modWave (clearPoison s w.id (windowReg w x.val) n m) w.id fun w' =>
      mapLanes w' m fun l y => putRegs y (windowReg w x.val) (f l) n
  | .g x =>
    if k then s
    else match m.highest with
      | none => s
      | some l => (List.range n).foldl (fun t i => gSet t w (x.val + i) (wordOf128 (f l) i)) s
  | .q x =>
    modWave s w.id fun w' =>
      { w' with queues := w'.queues.set x.val (m.lanes.foldl (fun q l => pushWord q l pc w'.h w'.place w'.tick (wordOf128 (f l) 0)) (w'.queues.get x)) x.isLt }
  | .b _ => s

/-- A predicate written in the lanes of m. -/
def writePred (s : State) (w : Wave) (m : Mask) (p : Pred) (f : Lane → Bool) : State :=
  modWave s w.id fun w' => mapLanes w' m fun l x => setPred x p (f l)

/-- The latch that a result leaves: its first word in the lanes of EXEC; a lane that skipped the instruction keeps the
value its register has (R25, R344). -/
def latchOf (c : Ctx) (d : Reg) (f : Lane → BitVec 128) : Option (Lanes Word) :=
  match d with
  | .v x => some (Lanes.of fun l =>
      if c.exec.has l then wordOf128 (f l) 0 else if c.r.exec.has l then waveReg c.w l (windowReg c.w x.val) else 0)
  | .g _ => some (Lanes.of fun l => if c.exec.has l then wordOf128 (f l) 0 else 0)
  | .q _ => none
  | .b _ => none

/-- Sticky flags ORed into the lanes of m (R33, R88). -/
def orFlags (s : State) (wid : Nat) (m : Mask) (f : Lane → BitVec 7) : State :=
  modWave s wid fun w => mapLanes w m fun l x => { x with nflg := x.nflg ||| f l }

/-- An instruction that writes its destination in every lane of EXEC, with flags, and goes on. -/
def Ctx.write (c : Ctx) (f : Lane → BitVec 128) (fl : Lane → BitVec 7) : Res :=
  match c.sh.dst with
  | none => .done ⟨c.s, c.exec, none, c.sh.ends, false, onward⟩
  | some (d, n) =>
    .done ⟨orFlags (writeReg c.s c.w c.r.pc c.exec d n c.sh.k f) c.w.id c.exec fl, c.exec, latchOf c d f, c.sh.ends, false, onward⟩

/-- An instruction that writes a predicate in every lane of EXEC, with flags, and goes on. -/
def Ctx.writeP (c : Ctx) (p : Pred) (f : Lane → Bool) (fl : Lane → BitVec 7) : Res :=
  .done ⟨orFlags (writePred c.s c.w c.exec p f) c.w.id c.exec fl, c.exec, none, c.sh.ends, false, onward⟩

/-- An instruction that completes with a state of its own. -/
def Ctx.done (c : Ctx) (s : State) : Res := .done ⟨s, c.exec, none, c.sh.ends, false, onward⟩

/-- A trap of the instruction for lanes m, with no lane done. -/
def Ctx.trap (c : Ctx) (t : Trap) (m : Mask) (a : DWord) : Res := .trap c.s (.at t m 0 c.r a)

/-! ### The checks of R68 -/

/-- Does a register of the word lie outside the wave's blocks (R21)? -/
def outsideWindow (w : Wave) (sh : Shape) : Bool :=
  sh.named.any fun r => match r with
    | .v n => decide (32 * w.blks.toNat ≤ windowReg w n.val)
    | _ => false

/-- Does a source read a latch that has no value (R25)? -/
def badLatch (r : Run) (sh : Shape) : Bool :=
  sh.srcs.any fun x => match x.r with
    | .b k => (nthD r.latches k.val none).isNone
    | _ => false

/-- The checks of R68 in their order. -/
def wordTrap (i : Instr) (sh : Shape) (w : Wave) (r : Run) : Option Trap :=
  if !i.wellFormed then some .illegalOp
  else if outsideWindow w sh then some .window
  else if badLatch r sh then some .illegalLatch
  else none

/-! ### Readiness -/

/-- The number of a register: wave registers as they are, gn as 256 + n, qn as 272 + n, latches as 280 + n. -/
def regKey (w : Wave) (x : Reg) : Nat :=
  match x with
  | .v n => windowReg w n.val
  | .g n => 256 + n.val
  | .q n => 272 + n.val
  | .b n => 280 + n.val

/-- Is a result still to be written to a register of the word (R16, R145)? -/
def pendsOn (w : Wave) (p : PendLoad) (d : Reg) (n : Nat) : Bool :=
  match p.dst with
  | some (x, k) => decide (x < regKey w d + n) && decide (regKey w d < x + k)
  | none => false

/-- The loads and atomics of the wave whose results the word waits for. A latch of a pending result is not ready either
(R25). -/
def waitsFor (w : Wave) (sh : Shape) : List PendLoad :=
  w.pend.filter fun p =>
    (sh.srcs.any fun x => match x.r with
      | .b k => p.tick + k.val + 1 = w.tick
      | r => pendsOn w p r x.n)
    || (match sh.dst with | some (d, n) => !sh.k && pendsOn w p d n | none => false)
    || (match p.pred with | some (q, _) => sh.predsR.contains q || sh.predsW.contains q | none => false)

/-- Does the word wait for a load or atomic of the wave? -/
def notReady (w : Wave) (sh : Shape) : Bool := !(waitsFor w sh).isEmpty

/-- Does the word read a latch (R16, R333)? -/
def readsLatch (sh : Shape) : Bool := sh.srcs.any fun x => match x.r with | .b _ => true | _ => false

/-! ### Pops and pushes -/

/-- The queue registers of the source fields, in order. -/
def qSources (sh : Shape) : List (Fin 8) := sh.srcs.filterMap fun x => match x.r with | .q k => some k | _ => none

/-- Words that the lanes of m still need from queue register k: fields of the word that name it and that a lane's kept
words do not cover (R24). -/
def popNeed (w : Wave) (m : Mask) (qs : List (Fin 8)) (k : Fin 8) : Nat :=
  m.lanes.foldl (fun n l => n + ((qs.drop (laneOf w l).kept.length).filter (· = k)).length) 0

/-- Commands of a queue register that can still deliver a word (R212). -/
def dueWords (q : QReg) : Nat := (q.cmds.filter fun c => !(nthD c.words 0 0).getLsbD 15).length

/-- What the pop step finds before it pops (R212): ENGINE, a wait, or that it may pop. -/
inductive PopCheck where
  | engine | wait | go
deriving DecidableEq

def popCheck (w : Wave) (m : Mask) (qs : List (Fin 8)) : PopCheck :=
  let need (k : Fin 8) : Nat := popNeed w m qs k
  let q (k : Fin 8) : QReg := w.queues.get k
  if qs.any fun k => need k ≠ 0 && ((q k).bound.isNone || (q k).done.length + dueWords (q k) < need k) then .engine
  else if qs.any fun k => (q k).done.length < need k then .wait
  else .go

/-- The acquire of a pop at the command's SCOPE (R159, R213). -/
def popAcquire (s : State) (w : Wave) (scope : Nat) : State :=
  match w.place with
  | some p => if 3 ≤ scope then l1DropAll s p.die p.core else s
  | none => s

/-- One word popped by a lane, or the trap of R213 with the word marked as reported; a word that stood in an emergency entry
returns it (R339). -/
def popWord (s : State) (wid : Nat) (l : Lane) (k : Fin 8) : State × Option (Trap × Completion) :=
  match findWave s wid with
  | none => (s, none)
  | some w =>
    let q := w.queues.get k
    match q.done with
    | [] => (s, none)
    | c :: rest =>
      match completionTrap c, c.reported with
      | some t, false =>
        (modWave s wid fun w => { w with queues := w.queues.set k.val { q with done := { c with reported := true } :: rest } k.isLt },
          some (t, c))
      | _, _ =>
        (popAcquire (modWave s wid fun w =>
          { modLane w l (fun x => { x with kept := x.kept ++ [c.word] }) with
            queues := w.queues.set k.val { q with done := rest, emergency := q.emergency.drop c.extra.toNat } k.isLt }) w c.scope.toNat, none)

/-- The pops of an instruction, field by field, lane by lane (R24, R97, R213). -/
def popAll (s : State) (wid : Nat) (m : Mask) (qs : List (Fin 8)) : State × Option (Lane × Trap × Completion) :=
  (List.range qs.length).foldl (fun acc j =>
    m.lanes.foldl (fun (t : State × Option (Lane × Trap × Completion)) l =>
      match t.2, findWave t.1 wid with
      | none, some w =>
        if j < (laneOf w l).kept.length then t
        else
          let r := popWord t.1 wid l (nthD qs j 0)
          (r.1, r.2.map fun x => (l, x.1, x.2))
      | _, _ => t) acc) (s, none)

/-- A destination queue register with no room for one word per lane waits; an unbound one traps (R212). -/
def pushCheck (w : Wave) (m : Mask) (sh : Shape) : PopCheck :=
  match sh.dst with
  | some (.q k, _) =>
    if (w.queues.get k).bound.isNone then .engine
    else if Config.commandWords < usedWords (w.queues.get k) + m.count then .wait
    else .go
  | _ => .go

/-! ### Completion -/

/-- A lane of a trapping instruction outside its done-mask: grants made within the instruction are gone, and a lane that
it parked on a monitor is live again (R150). -/
def ungranted (gone : Mask) (l : Lane) (x : LaneCtx) : LaneCtx :=
  { x with held := x.held.filter fun h => !h.fresh
           state := match x.state with
             | .parked (.monitor k) => if gone.has l then .live else .parked (.monitor k)
             | y => y }

/-- A colour that a lane owns given back without a release: the entry's clock stays (R150). -/
def returnColour (wid : Nat) (s : State) (x : Lane × BitVec 6) : State :=
  match findWave s wid with
  | none => s
  | some w => match findCampion s (tenantOf s w.part) x.2 with
    | some e => campionRelease s e.tenant wid x.1 x.2 e.clock
    | none => s

/-- What a trapping instruction gives back (R150): lanes of its EXEC outside the done-mask lose the grants made within
it, recorded or still on their way, and their requests and waiter records are withdrawn. Lanes that an earlier
instruction parked keep theirs. -/
def giveBack (s : State) (wid : Nat) (dmask : Mask) : State :=
  match (findWave s wid).bind fun w => w.run.map fun r => (w, r) with
  | none => s
  | some (w, r) =>
    let mine := r.exec &&& ~~~dmask
    let coming := s.grants.filter fun g => g.wave = wid && mine.has g.lane
    let back := mine.lanes.flatMap (fun l => ((laneOf w l).held.filter (·.fresh)).map fun h => (l, h.colour))
      ++ coming.map fun g => (g.lane, g.colour)
    let s1 := mine.lanes.foldl (fun t l => withdraw t wid l) { s with grants := s.grants.filter fun g => !coming.contains g }
    modWave (back.foldl (returnColour wid) s1) wid fun w => mapLanes w mine (ungranted r.gone)

/-- The lanes that skipped the instruction: those of the done-mask on its first execution after RTE (R226, R344). -/
def skipMask (w : Wave) (r : Run) : Mask := r.exec &&& ~~~r.gone &&& skipAt w r.pc

/-- The tag of a source register (R28, R334). -/
def tagOf (w : Wave) (x : Reg) : RegTag :=
  match x with
  | .v n => ((w.tags.find? fun y => y.1 = windowReg w n.val).map (·.2)).getD .uni
  | .g _ => .uni
  | .q _ | .b _ => .vec

/-- Special registers of wave scope (R29). -/
def waveScope (i : Nat) : Bool := (1 ≤ i && i ≤ 5) || i = 8 || (0x0A ≤ i && i ≤ 0x12) || i = 0x21 || i = 0x22

/-- A tag of two sources of which one may be affine. -/
def affine (a b : RegTag) : RegTag :=
  match a, b with
  | .uni, .uni => .uni
  | .aff, .uni | .uni, .aff => .aff
  | .aff, .aff | .vec, _ | _, .vec => .vec

/-- The tag that a write gives its register (R334). -/
def newTag (i : Instr) (w : Wave) (sh : Shape) (m : Mask) : RegTag :=
  if m ≠ liveMask w ||| parkedMask w then .vec
  else match i with
    | .ldi .. | .ldhi .. => .uni
    | .srd _ _ _ x => if x = 0 then .aff else if waveScope x.toNat then .uni else .vec
    | .addS32 _ _ _ a b | .subS32 _ _ _ a b | .mulS32 _ _ _ a b => affine (tagOf w a) (tagOf w b)
    | .shlB32 _ _ _ a b => if tagOf w b = .uni then tagOf w a else .vec
    | .addS32Imm _ _ _ a _ | .mulS32Imm _ _ _ a _ | .shlB32Imm _ _ _ a _ => tagOf w a
    | _ => if sh.predsR.isEmpty && (sh.srcs.flatMap fun x => x.r.span x.n).all fun x => tagOf w x = .uni then .uni else .vec

/-- The register tags once a destination has been written with tag t. -/
def tagsAfter (w : Wave) (sh : Shape) (t : RegTag) : List (Nat × RegTag) :=
  match sh.dst with
  | some (.v x, n) =>
    if sh.k then w.tags
    else
      let k := windowReg w x.val
      let rest := w.tags.filter fun y => !(k ≤ y.1 && y.1 < k + n)
      if t = .uni then rest else sortBy (·.1) (rest ++ (List.range n).map fun j => (k + j, t))
  | _ => w.tags

/-- The wave with the tag of a destination written. -/
def setTag (w : Wave) (sh : Shape) (t : RegTag) : Wave := { w with tags := tagsAfter w sh t }

/-- Does a scalar unit execute the instruction: are its register sources all uniform or affine (R334)? -/
def onScalar (w : Wave) (sh : Shape) : Bool := (sh.srcs.flatMap fun x => x.r.span x.n).all fun x => tagOf w x ≠ .vec

/-- The counters of a wave that has retired an instruction (R228, R334). -/
def countRetired (x : WaveCounters) (scalar : Bool) : WaveCounters :=
  { x with retired := x.retired + 1, scalar := if scalar then x.scalar + 1 else x.scalar }

/-- A lane whose grants stand: no instruction that could give them back is left (R150). -/
def settled (x : LaneCtx) : LaneCtx := { x with held := x.held.map fun h => { h with fresh := false } }

/-- A lane that has the instruction behind it: its PC, and the end of its kept words and fresh grants (R16, R24, R150). -/
def laneBehind (d : Done) (l : Lane) (x : LaneCtx) : LaneCtx :=
  settled { x with pc := if d.adv.has l then (d.goes l).getD (x.pc + 4) else x.pc + 4, kept := [] }

/-- The lanes that instructions of the wave's run have parked. -/
def goneOf (w : Wave) (r : Run) : Mask :=
  match w.run with
  | some r' => r'.gone
  | none => r.gone

/-- The run with one more instruction behind it, and its latch (R16, R25). -/
def runNext (w : Wave) (r : Run) (v : Option (Lanes Word)) : Run :=
  { r with gone := goneOf w r, count := r.count + 1, pc := r.pc + 4, latches := (v :: r.latches).take 8 }

/-- The lanes that skip an instruction after RTE skip it once (R226). -/
def skipNext (w : Wave) (pc : Pc) : List (Pc × Mask) := w.skip.filter fun x => x.1 ≠ pc

/-- The wave with a completed instruction behind it, its run still to go on or to end. -/
def retired (w : Wave) (c : Ctx) (d : Done) (skip : Mask) : Wave :=
  { w with
    lanes := Lanes.of fun l => if (d.adv ||| skip).has l then laneBehind d l (w.lanes.get l) else settled (w.lanes.get l)
    tags := tagsAfter w c.sh (newTag c.i c.w c.sh c.exec)
    tick := w.tick + 1
    counters := countRetired w.counters (onScalar c.w c.sh)
    skip := skipNext w c.r.pc, asked := if w.asked = some c.r.pc then none else w.asked
    hold := none
    run := some (runNext w c.r d.vals) }

/-- Does the run end with the instruction (R16, R17)? -/
def runEnds (w : Wave) (c : Ctx) (d : Done) : Bool :=
  c.sh.e || d.ends || Config.runLimit ≤ c.r.count + 1 || goneOf w c.r ≠ 0

/-- The wave after an instruction has completed: PCs, kept words and grants of the lanes done, latches, counters, and
the end of the run (R16, R24, R25, R344). -/
def retire (w : Wave) (c : Ctx) (d : Done) (skip : Mask) : Wave :=
  if runEnds w c d then endRun (retired w c d skip) d.back else retired w c d skip

/-- Is the wave's run over? -/
def runOver (s : State) (wid : Nat) : Bool :=
  match findWave s wid with
  | some w => w.run.isNone
  | none => true

/-- An instruction of a wave retires while a stop is on its way: the first one gives the first skid PC (R396). -/
def noteSkid (s : State) (w : Wave) (pc : Pc) : State :=
  if s.stops.isEmpty then s
  else { s with stops := s.stops.map fun q => { q with skids := q.skids.map fun k =>
    if k.wave = w.id && k.first.isNone && k.retired.toNat ≤ w.counters.retired.toNat then { k with first := some pc } else k } }

/-- An instruction that waits before it has an effect: it ends the run first and issues in a run of its own, unless it
reads a latch, which holds the slot, or its lanes have asked for colours (R16, R277, R333). A run that ends before its
first instruction changes no spin count and no floor (R19). -/
def waitRun (w : Wave) (r : Run) (sh : Shape) (h : Hold) : Wave :=
  if readsLatch sh then { w with hold := some h }
  else if h = .monitor then { w with hold := some h, issue := none }
  else
    let own : Run := reformRun w { r with count := 0, latches := [], redirected := false, cut := false }
    if r.count = 0 then { w with run := some { own with redirected := r.redirected }, floor := r.base, hold := some h, issue := none }
    else
      { endRun w false with
        run := some { own with base := (endRun w false).floor }, hold := some h, counters := { w.counters with runs := w.counters.runs + 1 } }

/-- Has the instruction parked lanes of its EXEC (R390)? -/
def parksLanes (c : Ctx) (d : Done) : Bool :=
  match findWave d.s c.w.id with
  | some v => goneOf v c.r &&& ~~~d.adv ≠ 0
  | none => false

/-- What follows from the result of an instruction. -/
def settle (c : Ctx) (res : Res) : State :=
  match res with
  | .done d =>
    let s1 := modWave (noteSkid d.s c.w c.r.pc) c.w.id fun w => retire w c d (skipMask c.w c.r)
    let s2 := if runOver s1 c.w.id then yieldSlot s1 c.w.id else s1
    let s3 := endStep s2 c.w.id c.r.exec c.r.pc (if parksLanes c d then 1 else 0)
    tryFinish (handlerEnd s3 c.w.id) c.w.id
  | .trap s x =>
    let s1 := giveBack s c.w.id x.dmask
    let s2 := modWave s1 c.w.id fun w0 =>
      let w := { w0 with tick := w0.tick + 1 }
      mapLanes (if x.dmask = 0 then w else setTag w c.sh .vec) x.dmask fun _ y => { y with kept := [], held := y.held.map fun h => { h with fresh := false } }
    enterTrap s2 c.w.id x
  | .wait s h => yieldSlot (modWave s c.w.id fun w => waitRun w c.r c.sh h) c.w.id
  | .settled s => s

/-- The instruction of a wave that waited for an event completes: its lanes go on and its run ends. -/
def completeWave (s : State) (wid : Nat) : State :=
  match findWave s wid with
  | none => s
  | some w =>
    match w.run with
    | none => s
    | some r =>
      let c : Ctx := ⟨s, w, r, execMask w r, Shape.plain false [] true, .nop false⟩
      settle c (.done ⟨c.s, c.exec, none, true, false, onward⟩)

/-! ### Single steps (R232, R397) -/

/-- The record of a single step of a wave that only waits: it has no effect (R232, R390). -/
def idleStep (s : State) (w : Wave) : State := emitWave s w 0x05 0 (liveMask w ||| parkedMask w) 0 3

/-- A wave issues one instruction: the run that was cut or that waits, or a run of its own (R15, R19, R232). Where that
instruction must wait, the step lasts until it has completed, parked its lanes or trapped. -/
def beginStep (s0 : State) (w0 : Wave) (by' : Option (Nat × Nat)) : State :=
  let s := endScout s0 w0.id
  let w := (findWave s w0.id).getD w0
  let cut := match w.run with | some r => r.cut | none => false
  { modWave { s with fresh := s.fresh + 1 } w.id (fun v => { startRun v 0 s.fresh with stepping := some (by', cut), hold := none }) with
    cur := some w.id }

/-- Has a stopped wave an instruction to issue, or does it only wait (R18)? -/
def canStep (w : Wave) : Bool := w.run.isSome || liveMask w ≠ 0

/-! ### Scout -/

/-- The poisoned lanes of a source register (R336). -/
def poisonAt (h : Shadow) (w : Wave) (x : Reg) : Mask :=
  match x with
  | .v n => ((h.poison.find? fun y => y.1 = windowReg w n.val).map (·.2)).getD 0
  | .g n => ((h.poison.find? fun y => y.1 = 256 + n.val).map (·.2)).getD 0
  | .q _ => 0
  | .b k => nthD h.poisonL k.val 0

/-- The poisoned lanes of any source of a word, its predicates included. -/
def poisonOf (h : Shadow) (w : Wave) (sh : Shape) : Mask :=
  let regs := sh.srcs.flatMap fun x => x.r.span x.n
  (regs.map (poisonAt h w)).foldl (· ||| ·) 0
    ||| (sh.predsR.map fun p => ((h.poisonP.find? fun y => y.1 = p.val).map (·.2)).getD 0).foldl (· ||| ·) 0

/-- A poison map with the lanes of m set or cleared as p says. -/
def setPoison (l : List (Nat × Mask)) (k : Nat) (m p : Mask) : List (Nat × Mask) :=
  let old := ((l.find? fun y => y.1 = k).map (·.2)).getD 0
  (k, (old &&& ~~~m) ||| (p &&& m)) :: l.filter fun y => y.1 ≠ k

/-- Keys of the registers that a destination names: wave registers, and 256 + n for gn. -/
def dstKeys (w : Wave) (sh : Shape) : List Nat :=
  match sh.dst with
  | some (d, n) => if sh.k then [] else (d.span n).filterMap fun r => match r with
    | .v x => some (windowReg w x.val)
    | .g x => some (256 + x.val)
    | _ => none
  | none => []

/-- A register poisoned by a write in the lanes of m. A group register gets the value of the highest lane (R23), so it
is poisoned for every reader when that lane's value is (DEDUCED, log 58). -/
def poisonReg (l : List (Nat × Mask)) (k : Nat) (m p : Mask) : List (Nat × Mask) :=
  if k < 256 then setPoison l k m p
  else match m.highest with
    | some t => setPoison l k (BitVec.allOnes 32) (if p.has t then BitVec.allOnes 32 else 0)
    | none => l

/-- The registers that the shadow holds once an instruction has written its destination. -/
def shadowRegs (h : Shadow) (w : Wave) (sh : Shape) : List Nat := distinct (h.written ++ (dstKeys w sh).filter (· < 256))

/-- Registers of a shadow (R335). -/
def shadowSize : Nat := 64

/-- The shadow after an instruction has completed in scout (R336); a write of p7 is discarded (R27), a latch supplies zero
outside EXEC (R25), and a full shadow ends scout with the run (R337). -/
def markShadow (h : Shadow) (w : Wave) (sh : Shape) (m p : Mask) : Shadow :=
  { h with
    poison := (dstKeys w sh).foldl (fun l k => poisonReg l k m p) h.poison
    poisonP := (sh.predsW.filter (· ≠ 7)).foldl (fun l k => setPoison l k.val m p) h.poisonP
    poisonL := ((p &&& m) :: h.poisonL).take 8
    written := shadowRegs h w sh
    ending := h.ending || shadowSize ≤ (shadowRegs h w sh).length }

/-- The wave has passed an instruction in scout: its run goes on, or ends, and scout with it when it was to end (R337). -/
def scoutPast (s : State) (wid : Nat) : State :=
  if runOver s wid then
    match shadowOf s wid with
    | some h => if h.ending then endScout s wid else yieldSlot s wid
    | none => yieldSlot s wid
  else s

/-- An instruction of a wave in scout (R336). -/
def scoutWave (i : Instr) (s : State) (w : Wave) (r : Run) (h : Shadow) (sh : Shape) (sc : Ctx → Scout) : State :=
  let c : Ctx := ⟨s, w, r, execMask w r, sh, i⟩
  let full := shadowSize < (shadowRegs h w sh).length
  let usesQ := sh.named.any fun x => match x with | .q _ => true | _ => false
  if (wordTrap i sh w r).isSome || usesQ then endScout s w.id
  else match sc c with
    | .ends => endScout s w.id
    | .done d p =>
      if full then endScout s w.id
      else
        let s1 := modWave d.s w.id fun v => retire v c d 0
        scoutPast { s1 with shadows := s1.shadows.map fun y => if y.wave = w.id then markShadow y w sh c.exec p else y } w.id
    | .skip =>
      let d : Done := ⟨s, c.exec, if sh.dst.isSome then some (Lanes.of fun _ => 0) else none, sh.ends, false, onward⟩
      let s1 := modWave s w.id fun v => { retire v c d 0 with tags := v.tags }
      scoutPast { s1 with shadows := s1.shadows.map fun y =>
        if y.wave = w.id then { y with poisonL := (c.exec :: y.poisonL).take 8 } else y } w.id

/-- Scout ends before the instruction (R125, R173, R219, R234, R336). -/
def scoutEnds (_ : Ctx) : Scout := .ends

/-- The instruction executes on the shadow state; a result is poisoned in a lane when a source is poisoned there
(R112, R125, R128, R336). -/
def scoutRuns (body : Ctx → Res) (c : Ctx) : Scout :=
  match body c with
  | .done d =>
    match shadowOf c.s c.w.id with
    | some h => .done d (poisonOf h c.w c.sh)
    | none => .ends
  | _ => .ends

/-- The instruction executes on the shadow state, its result poisoned in the lanes given. -/
def scoutWith (body : Ctx → Res) (poison : Shadow → Ctx → Mask) (c : Ctx) : Scout :=
  match body c with
  | .done d =>
    match shadowOf c.s c.w.id with
    | some h => .done d (poison h c)
    | none => .ends
  | _ => .ends

/-- A vote or a reduction: any poisoned input in EXEC poisons the result in every lane of EXEC (R112). -/
def scoutCrosses (body : Ctx → Res) : Ctx → Scout :=
  scoutWith body fun h c => if poisonOf h c.w c.sh &&& c.exec = 0 then 0 else BitVec.allOnes 32

/-- The instruction is skipped in scout, its destination poisoned (R167, R173). -/
def scoutSkips (c : Ctx) : Scout := .done ⟨c.s, c.exec, if c.sh.dst.isSome then some (Lanes.of fun _ => 0) else none, c.sh.ends, false, onward⟩ c.exec

/-! ### Issue -/

/-- The wave whose run issues next, and its run. -/
def current (s : State) : Option (Wave × Run) :=
  match s.cur with
  | none => none
  | some n =>
    match findWave s n with
    | none => none
    | some w => match w.run with
      | some r => some (w, r)
      | none => none

/-- Does an instruction read its registers in other lanes than EXEC? MMA and MMAS read the scale register in all 32
lanes (R203), and not before the gang is complete: the array consumes its error (R356). -/
def readsLater (i : Instr) : Bool :=
  match i with
  | .mma .. | .mmas .. => true
  | _ => false

/-- The lanes of m that read a poisoned register (R355). -/
def poisonedLanes (s : State) (w : Wave) (m : Mask) (sh : Shape) : Mask :=
  m &&& Mask.of fun l => s.poisonReg.any fun p => p.1 = w.id && l.val = p.2.1 &&
    (sh.srcs.flatMap fun x => x.r.span x.n).any fun x => match x with
      | .v n => windowReg w n.val = p.2.2
      | _ => false

/-- Does a lane of EXEC read a poisoned register (R355, R356)? -/
def readsPoison (s : State) (w : Wave) (m : Mask) (i : Instr) (sh : Shape) : Bool :=
  !s.poisonReg.isEmpty && !readsLater i && poisonedLanes s w m sh ≠ 0

/-- An operand that is not ready: a word that reads a latch holds its slot; any other ends the run before it (R16, R333). -/
def holdWave (s : State) (w : Wave) (r : Run) (sh : Shape) : State :=
  if readsLatch sh then dropCur (modWave s w.id fun v => { v with hold := some .latch }) w.id
  else yieldSlot (modWave s w.id fun v =>
    if r.count = 0 then { v with run := none, issue := none, hold := none, floor := r.base } else endRun v false) w.id

/-- An instruction of the issuing wave: pops, then its own operation, or a trap or a wait before it. A failed completion traps in
the lane that receives it; where another lane issued the command, the fault record's TMASK still holds the receiving lane alone
(DESIGN CHOICE, log 79: R213 has the record name the issuing lane, and its layout has no field for it). -/
def operate (i : Instr) (s : State) (w : Wave) (r : Run) (sh : Shape) (body : Ctx → Res) : State :=
  let m := execMask w r
  let qs := qSources sh
  if m = 0 then settle ⟨s, w, r, m, sh, i⟩ (.done ⟨s, 0, none, sh.ends, false, onward⟩)
  else match popCheck w m qs with
    | .engine => settle ⟨s, w, r, m, sh, i⟩ (.trap s (.at .engine m 0 r 0))
    | .wait => settle ⟨s, w, r, m, sh, i⟩ (.wait s .engineQueue)
    | .go =>
      let pr := popAll s w.id m qs
      match pr.2, findWave pr.1 w.id with
      | some (l, t, x), _ =>
        settle ⟨s, w, r, m, sh, i⟩ (.trap pr.1 { TrapInfo.at t (Mask.of (· = l)) 0 r x.addr with
          eng := some (x.op, x.word.extractLsb' 16 8, x.pc) })
      | none, some w1 =>
        match pushCheck w1 m sh with
        | .engine => settle ⟨pr.1, w1, r, m, sh, i⟩ (.trap pr.1 (.at .engine m 0 r 0))
        | .wait => settle ⟨pr.1, w1, r, m, sh, i⟩ (.wait pr.1 .engineQueue)
        | .go => settle ⟨pr.1, w1, r, m, sh, i⟩ (body ⟨pr.1, w1, r, m, sh, i⟩)
      | none, none => s

/-- An instruction word of the issuing wave. -/
def issueWave (i : Instr) (s : State) (w : Wave) (r : Run) (sh : Shape) (sc : Ctx → Scout) (body : Ctx → Res) : State :=
  match shadowOf s w.id with
  | some h => scoutWave i s w r h sh sc
  | none =>
    match wordTrap i sh w r with
    | some t => enterTrap s w.id (.at t (execMask w r) 0 r (r.pc.zeroExtend 64))
    | none =>
      if notReady w sh || (!(qSources sh).isEmpty && !w.pend.isEmpty) then holdWave s w r sh
      else if readsPoison s w (execMask w r) i sh then consumeBy s w (poisonedLanes s w (execMask w r) sh) .register
      else operate i s w r sh body

/-- THE MEANING OF A WORD: what `sc` says in scout, and otherwise what `body` says after the checks of R68. -/
def issue (i : Instr) (s : State) (sc : Ctx → Scout) (body : Ctx → Res) : Host.Outcome State Fault Refusal :=
  match current s, i.shape with
  | some (w, r), some sh => .next (issueWave i s w r sh sc body)
  | _, _ => .refused .noIssuingWave

end Sys2Proof.Machine
end

