-- ==== Sys2Proof/Machine/Tiles.lean ====
section
/-! DEFINITION. The tile table: descriptors (R195), regions and element layout (R197), states (R198), and the busy
count (R194). -/
namespace Sys2Proof.Machine

/-! ### Descriptors (R195) -/

def tdKind (d : BitVec 128) : Nat := bitsOf d.toNat 0 2
def tdFmt (d : BitVec 128) : Nat := bitsOf d.toNat 2 4
def tdPlanes (d : BitVec 128) : Nat := bitsOf d.toNat 6 4
def tdBmap (d : BitVec 128) : Nat := bitsOf d.toNat 10 1
def tdTrans (d : BitVec 128) : Bool := d.getLsbD 11
def tdRb (d : BitVec 128) : Nat := bitsOf d.toNat 12 3
/-- K-blocks held. -/
def tdKb (d : BitVec 128) : Nat := bitsOf d.toNat 15 2 + 1
def tdBase (d : BitVec 128) : Nat := bitsOf d.toNat 32 32
def tdStride (d : BitVec 128) : Nat := bitsOf d.toNat 64 32
/-- Rows in use of an A tile; 0 means all. -/
def tdRows (d : BitVec 128) : Nat := if bitsOf d.toNat 96 8 = 0 then 32 * tdRb d else bitsOf d.toNat 96 8
/-- Columns in use of a B tile; 0 means all. -/
def tdCols (d : BitVec 128) : Nat := if bitsOf d.toNat 104 8 = 0 then 128 else bitsOf d.toNat 104 8

/-- The element format of an A tile. -/
def tdFmtA (d : BitVec 128) : Option Fmt :=
  match tdFmt d with
  | 0 => some .s8 | 1 => some .e4m3 | 2 => some .bf16 | 3 => some .e5m2 | 4 => some .f16 | 5 => some .f32 | 6 => some .s32
  | _ => none

/-- Bytes of an element (R197). -/
def Fmt.bytes (f : Fmt) : Nat :=
  match f with
  | .s8 | .z8 | .e4m3 | .e5m2 | .e5m3 => 1
  | .s16 | .z16 | .f16 | .bf16 => 2
  | .s32 | .z32 | .f32 => 4
  | .s64 | .z64 => 8

/-- Bytes of an element of an A tile. -/
def tdEsz (d : BitVec 128) : Nat := match tdFmtA d with | some f => Fmt.bytes f | none => 1

/-- Stored rows of an A tile, and the bytes of one (R195). -/
def tdStored (d : BitVec 128) : Nat × Nat :=
  if tdTrans d then (32 * tdKb d, 32 * tdRb d * tdEsz d) else (32 * tdRb d, 32 * tdKb d * tdEsz d)

/-- Does the descriptor keep R195? With KIND 3 only the reserved bits count (R196). -/
def tdOk (d : BitVec 128) : Bool :=
  let vr := bitsOf d.toNat 96 8
  let vc := bitsOf d.toNat 104 8
  bitsOf d.toNat 17 15 = 0 && bitsOf d.toNat 112 16 = 0 &&
  match tdKind d with
  | 0 => (tdFmtA d).isSome && tdPlanes d = 0 && 1 ≤ tdRb d && tdRb d ≤ 6 && tdStride d % 4 = 0
      && (tdStored d).2 ≤ tdStride d && vr ≤ 32 * tdRb d && vc = 0
  | 1 => tdFmt d < 3 && (if tdFmt d = 0 then 2 ≤ tdPlanes d && tdPlanes d ≤ 8 else tdPlanes d = 0) && !tdTrans d
      && tdRb d = 0 && tdStride d = 0 && vr = 0 && vc ≤ 128
  | 2 => tdFmt d < 2 && tdPlanes d = 0 && tdBmap d = 0 && !tdTrans d && 1 ≤ tdRb d && tdRb d ≤ 6 && tdKb d = 1
      && tdStride d = 0 && vr = 0 && vc = 0
  | _ => true

/-- Bytes of a K-block section of a B tile (R197). -/
def tdSection (d : BitVec 128) : Nat :=
  128 + 512 * tdBmap d + (match tdFmt d with | 0 => 512 * tdPlanes d | 1 => 4096 | _ => 8192)

/-- Bytes of the bitmap area of an A tile (R197). -/
def tdBitmapBytes (d : BitVec 128) : Nat := if tdBmap d = 1 then 4 * (32 * tdRb d) * tdKb d else 0

/-- Bytes of the whole region of a tile (R197). Where STRIDE exceeds the stored row, the region of an A tile ends with the
data of its last row, without that row's padding (DESIGN CHOICE, log 62). -/
def tdBytes (d : BitVec 128) : Nat :=
  match tdKind d with
  | 0 => tdBitmapBytes d + ((tdStored d).1 - 1) * tdStride d + (tdStored d).2
  | 1 => tdKb d * tdSection d
  | _ => 16384 * tdRb d

/-- The offset of element (r, k) of an A tile in the A-buffer (R197). -/
def aElement (d : BitVec 128) (r k : Nat) : Nat :=
  tdBase d + tdBitmapBytes d + (if tdTrans d then k * tdStride d + r * tdEsz d else r * tdStride d + k * tdEsz d)

/-- The offset of the bitmap word of row r and K-block kb of an A tile (R197). -/
def aBitmap (d : BitVec 128) (r kb : Nat) : Nat := tdBase d + 4 * (r * tdKb d + kb)

/-- The offset of cell (r, c) of a C tile in the C-buffer (R197). -/
def cCell (d : BitVec 128) (r c : Nat) : Nat := tdBase d + 512 * r + 4 * c

/-! ### Buffers -/

/-- The buffer of a kind and its reserved bytes (R288). -/
def bufOf (g : Group) (kind : Nat) : Memory × Nat :=
  match kind with
  | 0 => (g.abuf, 1024 * g.abufKiB)
  | 1 => (g.wbuf, 1024 * g.wbufKiB)
  | _ => (g.cbuf, 1024 * g.cbufKiB)

/-- A buffer replaced. -/
def setBuf (g : Group) (kind : Nat) (m : Memory) : Group :=
  match kind with
  | 0 => { g with abuf := m }
  | 1 => { g with wbuf := m }
  | _ => { g with cbuf := m }

/-! ### Entries -/

/-- The tile of a number that the group has defined. -/
def findTile (g : Group) (n : Fin 64) : Option Tile := g.tiles.find? fun t => t.n = n

/-- A tile changed. -/
def modTile (s : State) (g : Nat) (n : Fin 64) (f : Tile → Tile) : State :=
  modGroup s g fun x => { x with tiles := x.tiles.map fun t => if t.n = n then f t else t }

/-- The state of a tile changed (R198). -/
def setTile (s : State) (g : Nat) (n : Fin 64) (st : TileState) : State := modTile s g n fun t => { t with state := st }

/-- A tile becomes the operand of something that has not completed (R194). -/
def busyTile (s : State) (g : Nat) (n : Fin 64) : State := modTile s g n fun t => { t with busy := t.busy + 1 }
/-- What had the tile as an operand completes (R194). -/
def idleTile (s : State) (g : Nat) (n : Fin 64) : State := modTile s g n fun t => { t with busy := t.busy - 1 }

/-- Entries of a core's tile table in use (R292). -/
def entriesUsed (s : State) (place : Option (Nat × Nat)) : Nat :=
  (s.groups.filter fun g => g.place.isSome && g.place = place).foldl (fun n g => n + g.tiles.length) 0

/-- A checksum of nothing (R207). -/
def CkSum.zero : CkSum := ⟨0, 0, 0, 0⟩

/-- Cleared checksums of a C tile; other tiles have none (R196, R206). -/
def clearSums (d : BitVec 128) : List CkSum × List CkSum :=
  if tdKind d = 2 then (List.replicate (32 * tdRb d) CkSum.zero, List.replicate 128 CkSum.zero) else ([], [])

/-- A tile just defined (R196). -/
def newTile (n : Fin 64) (d : BitVec 128) : Tile :=
  { n := n, desc := d, state := .empty, busy := 0, rows := (clearSums d).1, cols := (clearSums d).2, flags := 0 }

/-- Do two byte ranges meet? -/
def meets (lo n lo' n' : Nat) : Bool := decide (lo < lo' + n') && decide (lo' < lo + n)

/-- Does a drain in progress of a wave of the group write bytes of the A-buffer (R200, R210)? -/
def drainCovers (s : State) (g off n : Nat) : Bool :=
  (wavesOf s g).any fun w =>
    match w.drain, findGroup s g with
    | some (ta, _, _, _), some x =>
      match findTile x ta with
      | some t => meets off n (tdBase t.desc) (tdBytes t.desc)
      | none => false
    | _, _ => false

/-- Do the bytes belong to an A tile that the array reads (R200)? -/
def arrayReads (g : Group) (off n : Nat) : Bool :=
  g.array.any fun op => match findTile g op.1.ta with
    | some t => meets off n (tdBase t.desc) (tdBytes t.desc)
    | none => false

end Sys2Proof.Machine
end

