-- ==== Sys2Proof/Machine/Access.lean ====
section
/-! DEFINITION. Accesses to global memory by the lanes of an instruction: the checks of R42 and R171 in their order, what
is reported when lanes fail different ones (R42, R164), the colours that lanes acquire (R149), and the performing of
loads, stores and atomics (R143 to R146, R169). -/
namespace Sys2Proof.Machine

/-! ### Checks -/

/-- What the checks find in a lane: it may perform its access; its page is not resident (a read gives 0); it needs a
colour; it would consume an uncorrectable error (R356); or it fails the check of the given rank. -/
inductive Verdict where
  | ok (p : Spot)
  | absent (p : Spot)
  | need (c : BitVec 6)
  | poison (what : Struck)
  | fail (rank : Nat) (t : Trap) (a : DWord)

/-- The order of the checks (R42, R171, R277). -/
def rankOf : Trap → Nat
  | .monitorWait => 0 | .align => 1 | .peerGone => 2 | .perm => 3 | .tag => 4 | .colourOrder => 5 | .colourLimit => 6
  | .rangeLock => 7 | .nonresStore => 8 | .semOver => 9 | .semUnder => 10 | .engine => 11
  | .illegalOp | .illegalLatch | .window | .regClaim | .callStack | .watch | .bkpt | .trap | .gang | .queueCycle
  | .uncorrectable | .double => 12

/-- A failed check. -/
def failAt (t : Trap) (a : DWord) : Verdict := .fail (rankOf t) t a

/-- Does a range lock of the partition cover an access (R151)? -/
def rangeCovers (s : State) (part : Nat) (a : DWord) (n : Nat) (write : Bool) : Bool :=
  match pointerVa a with
  | none => false
  | some lo => s.ranges.any fun r =>
    r.abuf.isNone && r.part = part && decide (r.lo < lo + n) && decide (lo ≤ r.hi) && (r.dest || write)

/-- Does a range lock, or a drain in progress, cover bytes of a group's A-buffer reservation (R151, R200)? -/
def bufferCovers (s : State) (g off n : Nat) (write : Bool) : Bool :=
  (s.ranges.any fun r => r.abuf = some g && decide (r.lo < off + n) && decide (off ≤ r.hi) && (r.dest || write))
    || drainCovers s g off n

/-- The line that a wave sees. -/
def waveLine (s : State) (w : Wave) (line : Nat) : L1Line :=
  match w.place with
  | some p => coreLine s p.die p.core line
  | none => homeLine s line

/-- The metadata word of the granule of a spot as the wave reads it; remote memory has key 0 and colour 0 (R313). -/
def metaAt (s : State) (w : Wave) (p : Spot) : BitVec 16 :=
  match p.page with
  | none => 0
  | some _ => (waveLine s w (p.ia / 64)).meta16

/-- Is the metadata word of a spot poisoned as the wave reads it (R355)? -/
def metaPoisoned (s : State) (w : Wave) (p : Spot) : Bool :=
  !s.poisonMeta.isEmpty && p.page.isSome && (waveLine s w (p.ia / 64)).poisonMeta

/-- Do n bytes at a spot lie in what it leads to: remote memory ends with its entry's last byte (R313)? -/
def spotFits (p : Spot) (n : Nat) : Bool :=
  match p.remote with
  | some e => p.ia + n ≤ e.iabase.toNat + e.last.toNat + 1
  | none => true

/-- The colour check of R42: none when the lane holds the colour or there is none. -/
def colourCheck (x : LaneCtx) (c : BitVec 6) (a : DWord) : Option Verdict :=
  if c = 0 || holds x c then none
  else match acquireFault x c with
    | some 0 => some (failAt .colourOrder a)
    | some _ => some (failAt .colourLimit a)
    | none => some (.need c)

/-- The checks of R42 for one lane of width n. -/
def verdictOf (s : State) (w : Wave) (l : Lane) (a : DWord) (n : Nat) (write : Bool) : Verdict :=
  if a.toNat % n ≠ 0 then failAt .align a
  else match locate s w.part a with
    | none => failAt .perm a
    | some p =>
      let m := metaAt s w p
      if !((if write then p.wp else p.rp) && spotFits p n) then failAt .perm a
      else if metaPoisoned s w p then .poison .metadata
      else if pointerKey a ≠ keyOf m then failAt .tag a
      else match colourCheck (laneOf w l) (colourOf m) a with
        | some v => v
        | none =>
          if rangeCovers s w.part a n write then failAt .rangeLock a
          else if p.res then .ok p
          else if write then failAt .nonresStore a
          else .absent p

/-- Is a line under an access of n bytes at the home poisoned (R355)? -/
def memPoisoned (s : State) (ia n : Nat) : Bool :=
  !s.poisonMem.isEmpty && (iaPieces ia n).any fun q => (homeLine s (q.1 / 64)).poison

/-- The checks of R168, R169 and R171 for a control word or record of n bytes: device memory of colour 0 only. -/
def verdictWord (s : State) (w : Wave) (a : DWord) (n : Nat) : Verdict :=
  if a.toNat % n ≠ 0 then failAt .align a
  else match locate s w.part a with
    | none => failAt .perm a
    | some p =>
      let m := metaAt s w p
      if !p.wp || p.page.isNone then failAt .perm a
      else if metaPoisoned s w p then .poison .metadata
      else if colourOf m ≠ 0 then failAt .perm a
      else if pointerKey a ≠ keyOf m then failAt .tag a
      else if rangeCovers s w.part a n true then failAt .rangeLock a
      else if !p.res then failAt .nonresStore a
      else if memPoisoned s p.ia n then .poison .memory
      else .ok p

/-- The effective address of a lane: base pair plus the offset times the width (R140). -/
def effective (base : DWord) (off : Int) (n : Nat) : DWord := base + BitVec.ofInt 64 (off * n)

/-! ### What the lanes of an instruction do together -/

def rankIn (v : Verdict) : Option (Nat × Trap × DWord) :=
  match v with
  | .fail r t a => some (r, t, a)
  | .ok _ | .absent _ | .need _ | .poison _ => none
def poisonIn (v : Verdict) : Option Struck :=
  match v with
  | .poison x => some x
  | .ok _ | .absent _ | .need _ | .fail .. => none
def mayDo (v : Verdict) : Bool :=
  match v with
  | .ok _ | .absent _ => true
  | .need _ | .poison _ | .fail .. => false
def spotIn (v : Verdict) : Option Spot :=
  match v with
  | .ok p => some p
  | .absent _ | .need _ | .poison _ | .fail .. => none

/-- The earliest check that a lane of m fails, and the lanes that fail it with the lowest one's address (R42). -/
def worst (v : Lanes Verdict) (m : Mask) : Option (Trap × Mask × DWord) :=
  let fails := m.lanes.filterMap fun l => (rankIn (v.get l)).map fun x => (l, x)
  match minBy (fun x => x.2.1) fails with
  | none => none
  | some (_, r, t, a) => some (t, Mask.of (fun l => m.has l && (match rankIn (v.get l) with | some x => x.1 = r | none => false)), a)

/-- The lanes of m that need a colour (R149, R278). -/
def needs (w : Wave) (v : Lanes Verdict) (m : Mask) : List (Lane × BitVec 6 × BitVec 12) :=
  m.lanes.filterMap fun l => match v.get l with
    | .need c => some (l, c, (laneOf w l).depth)
    | .ok _ | .absent _ | .poison _ | .fail .. => none

/-- Counter 0x203 of the die (R228): one trap counts once, however many of the wave's lanes it names; "the RANGE_LOCK traps taken by
threads" does not say whether it counts once for each (DESIGN CHOICE, log 93). -/
def countTrap (s : State) (w : Wave) (t : Trap) : State :=
  match t, w.place with
  | .rangeLock, some p => modDieCounters s w.part p.die fun c => { c with rangeLocks := c.rangeLocks + 1 }
  | _, _ => s

/-- The request messages of an instruction whose lanes need colours, one to each home die (R277, R278). -/
def requestsOf (wave tenant : Nat) (n : List (Lane × BitVec 6 × BitVec 12)) : List MonRequest :=
  ((List.range 4).map fun h => (⟨wave, tenant, n.filter fun x => colourHome x.2.1 = h⟩ : MonRequest)).filter fun r => !r.lanes.isEmpty

/-- An instruction whose lanes need colours asks for them and waits (R277, R278). -/
def askColours (c : Ctx) (s : State) (n : List (Lane × BitVec 6 × BitVec 12)) : Res :=
  .wait { s with requests := s.requests ++ requestsOf c.w.id (tenantOf s c.w.part) n } .monitor

/-- The lanes of m whose access would consume an error, and the structure that the lowest of them meets (R356). -/
def poisoned (v : Lanes Verdict) (m : Mask) : Option (Mask × Struck) :=
  match m.lanes.filterMap fun l => (poisonIn (v.get l)).map fun x => (l, x) with
  | [] => none
  | (_, x) :: _ => some (Mask.of fun l => m.has l && (poisonIn (v.get l)).isSome, x)

/-- The access of an instruction: an error that a lane would consume ends its launch (R357); lanes that need a colour ask for it and the instruction waits (R277); then, when a lane
fails, the lanes that may do theirs have done it and form the done-mask, with those that had done it before a trap and skip
the instruction now (R164, R344; DEDUCED, log 96); else every lane does its access. -/
def access (c : Ctx) (v : Lanes Verdict) (perform : Mask → State) (finish : State → Res) : Res :=
  let okm := Mask.of fun l => c.exec.has l && mayDo (v.get l)
  match poisoned v c.exec, needs c.w v c.exec with
  | some (m, x), _ => .settled (consumeBy c.s c.w m x)
  | none, [] => match worst v c.exec with
    | some (t, m, a) => .trap (countTrap (perform okm) c.w t) (.at t m (okm ||| skipMask c.w c.r) c.r a)
    | none => finish (perform okm)
  | none, n => askColours c c.s n

/-- An instruction whose lanes do not complete independently: one lane that fails stops it whole (R9). -/
def accessWhole (c : Ctx) (v : Lanes Verdict) (finish : Res) : Res :=
  match poisoned v c.exec, worst v c.exec with
  | some (m, x), _ => .settled (consumeBy c.s c.w m x)
  | none, some (t, m, a) => .trap (countTrap c.s c.w t) (.at t m 0 c.r a)
  | none, none =>
    match needs c.w v c.exec with
    | [] => finish
    | n => askColours c c.s n

/-! ### Performing -/

/-- Where the wave stands. -/
def Ctx.die (c : Ctx) : Nat := match c.w.place with | some p => p.die | none => 0
def Ctx.core (c : Ctx) : Nat := match c.w.place with | some p => p.core | none => 0

/-- An access that is performed meets the watch slots (R166, R230). -/
def Ctx.watch (c : Ctx) (s : State) (l : Lane) (kind : Nat) (ptr : DWord) (n : Nat) : State :=
  watchAccess s { wave := c.w.id, lane := l, pc := c.r.pc, exec := c.r.exec, kind := kind, eng := none, ptr := ptr, len := n
                  die := c.die, core := c.core, bank := none, abuf := none, byHandler := c.w.h }

/-- Is the data that a load of the wave would read poisoned? A clean copy in L1 is not (R355, R356). -/
def dataPoisoned (s : State) (w : Wave) (p : Spot) : Bool :=
  !(s.poisonMem.isEmpty && s.l1.isEmpty && s.llc.isEmpty) && p.page.isSome && (waveLine s w (p.ia / 64)).poison

/-- A line looked up in a die's last-level cache; a replica is requested for a line whose home is another die and that
the die does not hold (R300, R301). -/
def bankLine (s : State) (part die line : Nat) : State :=
  let s1 := llcTouch s part (tenantOf s part) die line false
  if homeDie (64 * line) = die || (replicaOf s die line).isSome then s1
  else
    let s2 := llcTouch s1 part (tenantOf s part) (homeDie (64 * line)) line false
    if s2.fills.any fun x => x.1 = die && x.2.1 = line then s2 else { s2 with fills := s2.fills ++ [(die, line, part)] }

/-- A line read by the core: L1, else the die's cache and the home (R297, R300, R301). -/
def touchLine (s : State) (part die core ia : Nat) : State :=
  let line := ia / 64
  match l1Find s die core line with
  | some x => l1Fill s die core line x
  | none => l1Fill (bankLine s part die line) die core line (dieLine s die core line)

/-- Did a load of the line miss the last-level cache (R335)? -/
def missesLlc (s : State) (die core ia : Nat) : Bool :=
  (l1Find s die core (ia / 64)).isNone && (llcLine s die (ia / 64)).isNone

/-- The bytes that a partition's held writes show at a remote address (R143, R313): the latest one that covers each
byte, else a free value. -/
def remoteByte (s : State) (part : Nat) (endpoint : Word) (raddr : Nat) (k : Nat) : Byte :=
  let held := match findPart s part with | some p => p.closing ++ p.held | none => []
  let hit (x : Outbound) : Option Byte := match x with
    | .write e r bs _ => if e = endpoint && r.toNat ≤ raddr && raddr < r.toNat + bs.length then some (nthD bs (raddr - r.toNat) 0) else none
    | .reply .. | .notice _ | .read .. => none
  match (held.filterMap hit).getLast? with
  | some b => b
  | none => Config.freeByte k

/-- The remote address of an IA in an entry (R313). -/
def remoteAddr (e : RemoteEntry) (ia : Nat) : Nat := (e.raddr.toNat + (ia - e.iabase.toNat)) % 2 ^ 64

/-- n bytes loaded from a spot, the clock that came with them, and the state that has used the free values. -/
def loadSpot (s : State) (c : Ctx) (p : Spot) (n : Nat) : Nat × Clock × State :=
  match p.remote with
  | some e =>
    (natOfBytes ((List.range n).map fun k => remoteByte s c.w.part e.endpoint (remoteAddr e p.ia + k) (s.free + k)), Clock.zero,
      { s with free := s.free + n })
  | none =>
    let x := coreLine s c.die c.core (p.ia / 64)
    (lineGet x (p.ia % 64) n, x.clock, touchLine (coreAccess s c.die c.core p.ia false) c.w.part c.die c.core p.ia)

/-- An atomic of the wave on the line that its core's die does not show yet: a later load of the wave waits for it
(R169). -/
def atomPending (s : State) (w : Wave) (die line : Nat) : Bool :=
  s.flights.any fun f => f.wave = w.id && f.ia / 64 = line && (f.performed.isNone || f.todo.contains die) &&
    (match f.kind with | .atom .. => true | .store _ | .colour _ | .key _ => false)

/-- A store on its way: the core's own copy shows it at once (R143, R146); it is counted until it has been performed at
its home (R144). -/
def sendStore (s : State) (c : Ctx) (l : Lane) (ptr : DWord) (ia : Nat) (k : FlightKind) : State :=
  let f : Flight :=
    { id := s.fresh, wave := c.w.id, launch := c.w.launch, part := c.w.part, die := c.die, core := c.core, lane := l
      pc := c.r.pc, exec := c.r.exec, ptr := ptr, byHandler := c.w.h, ia := ia, kind := k, counted := true, left := none, performed := none
      acked := false, todo := [], issued := s.fresh, atReplica := false }
  let s1 := l1Update (coreAccess s c.die c.core ia true) c.die c.core (ia / 64) fun x => lineWith (ia / 64) x f
  modWave { s1 with flights := s1.flights ++ [f], fresh := s1.fresh + 1 } c.w.id fun w => { w with stores := w.stores + 1 }

/-- The send header of a lane's next outbound send (R360, R370); remote memory carries key 0 (R313). -/
def sendHeader (w : Wave) (l : Lane) : SendHeader :=
  { origin := Config.moduleId, launch := w.launch, name := nameOf w l, n := (laneOf w l).sends, key := 0, spn := w.spn }

/-- A lane's count of outbound sends raised (R360). -/
def countSend (s : State) (wid : Nat) (l : Lane) : State :=
  modWave s wid fun w => modLane w l fun x => { x with sends := x.sends + 1 }

/-- Has the launch consumed an uncorrectable error: what it still sends is discarded (R357)? -/
def struckLaunch (s : State) (id : DWord) : Bool := (findLaunch s id).any fun l => l.state = .faulted .uncorrectable

/-- Is a store to an entry of remote memory dropped, its endpoint fenced (R364, log 27)? -/
def sendDropped (s : State) (part : Nat) (e : RemoteEntry) : Bool := s.fences.contains (.peer (tenantOf s part) e.endpoint)

/-- A send of a lane to remote or host memory: it enters the I/O die's held buffer (R159, R313, R351); to a fenced
endpoint it is denied at once and counted (R364, log 27). -/
def holdSend (s : State) (wid : Nat) (l : Lane) (e : RemoteEntry) (ia : Nat) (bs : List Byte) : State :=
  match findWave s wid with
  | none => s
  | some w =>
    let s1 := if sendDropped s w.part e then { s with dropped := s.dropped + 1 }
      else if struckLaunch s w.launch then s
      else modPart s w.part fun p =>
        { p with held := p.held ++ [.write e.endpoint (BitVec.ofNat 64 (remoteAddr e ia)) bs (sendHeader w l)] }
    countSend s1 w.id l

/-- A load of a lane from remote memory leaves (R313) with a header that carries the thread's next send number: a load is no send
and takes none (DESIGN CHOICE, log 89). -/
def askRemote (s : State) (w : Wave) (l : Lane) (p : Spot) (n : Nat) : State :=
  match p.remote with
  | some e => sendFor s (tenantOf s w.part) (.read e.endpoint (BitVec.ofNat 64 (remoteAddr e p.ia)) n (sendHeader w l))
  | none => s

/-- A store that has been performed where it goes, and is counted until it is acknowledged (R144): what is on its way is the
acknowledgement alone. -/
def awaitAck (s : State) (c : Ctx) (l : Lane) (ptr : DWord) (ia : Nat) : State :=
  let f : Flight :=
    { id := s.fresh, wave := c.w.id, launch := c.w.launch, part := c.w.part, die := c.die, core := c.core, lane := l
      pc := c.r.pc, exec := c.r.exec, ptr := ptr, byHandler := c.w.h, ia := ia, kind := .store [], counted := true, left := none
      performed := some s.fresh, acked := false, todo := [], issued := s.fresh, atReplica := false }
  modWave { s with flights := s.flights ++ [f], fresh := s.fresh + 1 } c.w.id fun w => { w with stores := w.stores + 1 }

/-- Bytes of an I/O die's held buffer in use: what the partitions hold there (R351). -/
def heldOn (s : State) (io : Fin 2) : Nat := ((s.parts.filter fun p => Config.heldDie p.n = io).map heldBytes).sum

/-- Has the partition's share of an I/O die's held buffer, and the buffer itself, room for n more bytes (R351)? -/
def heldRoom (s : State) (part n : Nat) : Bool :=
  match findPart s part with
  | some p => heldBytes p + n ≤ Config.heldShare && heldOn s (Config.heldDie part) + n ≤ Config.heldBuffer
  | none => true

/-- A store to remote or host memory: held at the I/O die, which acknowledges it (R144, R159). -/
def sendRemote (s : State) (c : Ctx) (l : Lane) (ptr : DWord) (e : RemoteEntry) (ia : Nat) (bs : List Byte) : State :=
  awaitAck (holdSend s c.w.id l e ia bs) c l ptr ia

/-- A store of one lane performed at its core (R146). It meets the watch slots where it is performed: in device memory at its
home (R166, R393), in remote memory as it is held, unless it is dropped. -/
def storeSpot (s : State) (c : Ctx) (l : Lane) (ptr : DWord) (p : Spot) (bs : List Byte) : State :=
  match p.remote with
  | some e =>
    let t := sendRemote s c l ptr e p.ia bs
    if sendDropped s c.w.part e then t else c.watch t l 1 ptr bs.length
  | none => sendStore s c l ptr p.ia (.store bs)

end Sys2Proof.Machine
end

