-- ==== Sys2Proof/Machine/Alu.lean ====
section
/-! DEFINITION. The integer operations on 32-bit and 64-bit patterns (R98 to R105, R111), and the forms of words that
apply one operation in every lane of EXEC. -/
namespace Sys2Proof.Machine

/-- A one-register result. -/
def w32 (x : Word) : BitVec 128 := x.zeroExtend 128
/-- A pair as a result. -/
def w64 (x : DWord) : BitVec 128 := x.zeroExtend 128

/-! ### Operations -/

/-- Bits [2n-1:n] of the exact signed product (R98, R102). -/
def mulHighS {n : Nat} (x y : BitVec n) : BitVec n := BitVec.ofInt n (x.toInt * y.toInt / (2 ^ n : Nat))
/-- Bits [2n-1:n] of the exact unsigned product. -/
def mulHighZ {n : Nat} (x y : BitVec n) : BitVec n := BitVec.ofNat n (x.toNat * y.toNat / 2 ^ n)
def minS {n : Nat} (x y : BitVec n) : BitVec n := if x.toInt ≤ y.toInt then x else y
def maxS {n : Nat} (x y : BitVec n) : BitVec n := if x.toInt ≤ y.toInt then y else x
def minZ {n : Nat} (x y : BitVec n) : BitVec n := if x.toNat ≤ y.toNat then x else y
def maxZ {n : Nat} (x y : BitVec n) : BitVec n := if x.toNat ≤ y.toNat then y else x
def absS {n : Nat} (x : BitVec n) : BitVec n := if x.toInt < 0 then -x else x

/-- DIV.s32 and its flag (R99). -/
def divS (x y : Word) : Word × Flags :=
  if y = 0 then (if 0 ≤ x.toInt then 0x7FFFFFFF#32 else 0x80000000#32, fDZ)
  else (BitVec.ofInt 32 (x.toInt.tdiv y.toInt), 0)
/-- DIV.z32 and its flag (R99). -/
def divZ (x y : Word) : Word × Flags :=
  if y = 0 then (0xFFFFFFFF#32, fDZ) else (BitVec.ofNat 32 (x.toNat / y.toNat), 0)
/-- REM.s32: x - y × DIV(x, y) (R99). -/
def remS (x y : Word) : Word × Flags := if y = 0 then (x, fDZ) else (x - y * (divS x y).1, 0)
/-- REM.z32 (R99). -/
def remZ (x y : Word) : Word × Flags := if y = 0 then (x, fDZ) else (x - y * (divZ x y).1, 0)

/-- The number of 1 bits in the n low bits. -/
def popCount (x : Nat) : Nat → Nat
  | 0 => 0
  | n + 1 => x % 2 + popCount (x / 2) n
/-- The number of 0 bits above the highest 1 bit of a 32-bit pattern (R98). -/
def leadingZeros (x : Word) : Nat := if x = 0 then 32 else 31 - x.toNat.log2
/-- The n low bits of x in the other order. -/
def revBits (x : Nat) : Nat → Nat
  | 0 => 0
  | n + 1 => x % 2 * 2 ^ n + revBits (x / 2) n

/-- SHL (R100). -/
def shl {n : Nat} (x : BitVec n) (k : Nat) : BitVec n := if n ≤ k then 0 else BitVec.ofNat n (x.toNat * 2 ^ k)
/-- SHR (R100). -/
def shr {n : Nat} (x : BitVec n) (k : Nat) : BitVec n := if n ≤ k then 0 else BitVec.ofNat n (x.toNat / 2 ^ k)
/-- SHRA (R100). -/
def shra {n : Nat} (x : BitVec n) (k : Nat) : BitVec n :=
  if n ≤ k then (if 0 ≤ x.toInt then 0 else BitVec.allOnes n) else BitVec.ofInt n (x.toInt / (2 ^ k : Nat))
/-- ROT.b32 (R100). -/
def rot (x : Word) (k : Nat) : Word := BitVec.ofNat 32 (x.toNat * 2 ^ (k % 32) + x.toNat / 2 ^ (32 - k % 32))

/-- Position and effective width of a bit field (R101). -/
def fieldPos (y : Word) : Nat := bitsOf y.toNat 0 5
def fieldWidth (y : Word) : Nat := min (min (bitsOf y.toNat 8 6) 32) (32 - fieldPos y)
/-- BFX.z32 (R101). -/
def bfxZ (x y : Word) : Word := BitVec.ofNat 32 (bitsOf x.toNat (fieldPos y) (fieldWidth y))
/-- BFX.s32 (R101). -/
def bfxS (x y : Word) : Word :=
  if fieldWidth y = 0 then 0 else BitVec.ofInt 32 (signedOf (bitsOf x.toNat (fieldPos y) (fieldWidth y)) (fieldWidth y))
/-- BFI (R101). -/
def bfi (x y z : Word) : Word :=
  let p := fieldPos y
  let n := fieldWidth y
  BitVec.ofNat 32 (z.toNat % 2 ^ p + bitsOf x.toNat 0 n * 2 ^ p + z.toNat / 2 ^ (p + n) * 2 ^ (p + n))

/-- LEA (R104). -/
def leaSum (x : DWord) (y : Word) (n : Nat) : DWord := x + BitVec.ofInt 64 (y.toInt * (2 ^ n : Nat))

/-- CMP on patterns of one width (R54, R106). -/
def cmpBits {n : Nat} (c : Cond) (x y : BitVec n) : Bool :=
  match c with
  | .eq => x = y
  | .ne => x ≠ y
  | .ltS => decide (x.toInt < y.toInt)
  | .leS => decide (x.toInt ≤ y.toInt)
  | .ltZ => decide (x.toNat < y.toNat)
  | .leZ => decide (x.toNat ≤ y.toNat)

/-- The operations of WRED, WSCAN and of integer atomics (R111, R61). -/
def redOp (o : RedOp) (x y : Word) : Word :=
  match o with
  | .add => x + y
  | .minS => minS x y
  | .maxS => maxS x y
  | .minZ => minZ x y
  | .maxZ => maxZ x y
  | .and => x &&& y
  | .or => x ||| y
  | .xor => x ^^^ y
/-- The identity of an operation (R111). -/
def redUnit : RedOp → Word
  | .add => 0 | .minS => 0x7FFFFFFF#32 | .maxS => 0x80000000#32 | .minZ => 0xFFFFFFFF#32 | .maxZ => 0
  | .and => 0xFFFFFFFF#32 | .or => 0 | .xor => 0

/-! ### Forms -/

/-- A word that runs its body, in scout too (R125, R128). -/
def runWord (i : Instr) (s : State) (body : Ctx → Res) : Host.Outcome State Fault Refusal := issue i s (scoutRuns body) body
/-- A cross-lane word (R112). -/
def crossWord (i : Instr) (s : State) (body : Ctx → Res) : Host.Outcome State Fault Refusal := issue i s (scoutCrosses body) body

/-- d := f(a). -/
def unary (f : Word → Word) (c : Ctx) : Res := c.write (fun l => w32 (f (c.x 0 l))) noFlags
/-- d := f(a, b). -/
def binary (f : Word → Word → Word) (c : Ctx) : Res := c.write (fun l => w32 (f (c.x 0 l) (c.x 1 l))) noFlags
/-- d := f(a, b), with flags. -/
def binaryF (f : Word → Word → Word × Flags) (c : Ctx) : Res :=
  c.write (fun l => w32 (f (c.x 0 l) (c.x 1 l)).1) fun l => (f (c.x 0 l) (c.x 1 l)).2
/-- d := f(a, b, old d). -/
def ternary (f : Word → Word → Word → Word) (c : Ctx) : Res :=
  c.write (fun l => w32 (f (c.x 0 l) (c.x 1 l) (c.x 2 l))) noFlags
/-- d := f(a) on pairs. -/
def unary64 (f : DWord → DWord) (c : Ctx) : Res := c.write (fun l => w64 (f (c.pair 0 l))) noFlags
/-- d := f(a, b) on pairs. -/
def binary64 (f : DWord → DWord → DWord) (c : Ctx) : Res := c.write (fun l => w64 (f (c.pair 0 l) (c.pair 1 l))) noFlags
/-- d := f(a pair, b). -/
def shift64 (f : DWord → Word → DWord) (c : Ctx) : Res := c.write (fun l => w64 (f (c.pair 0 l) (c.x 1 l))) noFlags

end Sys2Proof.Machine
end

