-- ==== Sys2Proof/Decode.lean ====
section
/-! DEFINITION. Decoding: from a 32-bit word to an instruction or a named rejection (R43 to R64, R67), total on every
word; and AFTER it the encoder, from the same layouts. The table of spec/opcode_table.json and chapter 02 agree on
every row. -/
namespace Sys2Proof

/-- Why a word is rejected. Each rejected word traps with ILLEGAL_OP (R67). -/
inductive DecodeError where
  /-- a reserved major opcode (R52) -/
  | reservedMajor (major : Nat)
  /-- a reserved minor, variant or selector (R53 to R64) -/
  | reservedMinor (major minor : Nat)
  /-- a reserved field that is not zero (R7) -/
  | reservedField
  /-- K = 1 on a form without a v or g destination (R26) -/
  | kForbidden
  /-- a reserved rounding code (R55) -/
  | rounding
  /-- a reserved format code (R56) -/
  | format
  /-- condition code 6 or 7 (R54) -/
  | condition
  /-- scope code 7 (R60), watch scope 3 (R64) -/
  | scope
  /-- a reserved variant (R59) -/
  | variant
  /-- a predicate code above 7 (R50) -/
  | predicate
  /-- what the fields together show wrong (R67) -/
  | illFormed (why : IllFormed)
deriving DecidableEq, Repr, Inhabited

/-- One bit of a word. -/
def bitB (w lo : Nat) : Bool := bitsOf w lo 1 = 1
/-- A register field (R48). -/
def regF (w lo : Nat) : Reg := Reg.ofCode (bitsOf w lo 7)
/-- A field of n bits. -/
def bvF (w lo n : Nat) : BitVec n := BitVec.ofNat n (w / 2 ^ lo)
/-- A 7-bit field that names a predicate (R50). -/
def predF (w lo : Nat) : Except DecodeError Pred :=
  if bitsOf w lo 7 < 8 then .ok (Fin.ofNat 8 (bitsOf w lo 7)) else .error .predicate
/-- A coded field. -/
def enumF {α : Type} (f : Nat → Option α) (x : DecodeError) (w lo n : Nat) : Except DecodeError α :=
  match f (bitsOf w lo n) with
  | some a => .ok a
  | none => .error x
/-- A reserved field must be zero (R7). -/
def reserved (f : Nat) (r : Except DecodeError Instr) : Except DecodeError Instr :=
  if f = 0 then r else .error .reservedField
/-- K must be zero (R26). -/
def kZero (w : Nat) (r : Except DecodeError Instr) : Except DecodeError Instr :=
  if bitsOf w 24 1 = 0 then r else .error .kForbidden

/-- The fields of a word of major 1. -/
def fields1 (w : Nat) : Except DecodeError Instr :=
  match bitsOf w 0 3 with
  | 0 =>
    .ok (.addS32 (bitB w 31) (bitB w 24) (regF w 17) (regF w 10) (regF w 3))
  | 1 =>
    .ok (.subS32 (bitB w 31) (bitB w 24) (regF w 17) (regF w 10) (regF w 3))
  | 2 =>
    .ok (.mulS32 (bitB w 31) (bitB w 24) (regF w 17) (regF w 10) (regF w 3))
  | 3 =>
    .ok (.mulhS32 (bitB w 31) (bitB w 24) (regF w 17) (regF w 10) (regF w 3))
  | 4 =>
    .ok (.mulhZ32 (bitB w 31) (bitB w 24) (regF w 17) (regF w 10) (regF w 3))
  | 5 =>
    .ok (.minS32 (bitB w 31) (bitB w 24) (regF w 17) (regF w 10) (regF w 3))
  | 6 =>
    .ok (.maxS32 (bitB w 31) (bitB w 24) (regF w 17) (regF w 10) (regF w 3))
  | 7 =>
    .ok (.minZ32 (bitB w 31) (bitB w 24) (regF w 17) (regF w 10) (regF w 3))
  | m => .error (.reservedMinor 1 m)

/-- The fields of a word of major 2. -/
def fields2 (w : Nat) : Except DecodeError Instr :=
  match bitsOf w 0 3 with
  | 0 =>
    .ok (.maxZ32 (bitB w 31) (bitB w 24) (regF w 17) (regF w 10) (regF w 3))
  | 1 =>
    .ok (.divS32 (bitB w 31) (bitB w 24) (regF w 17) (regF w 10) (regF w 3))
  | 2 =>
    .ok (.divZ32 (bitB w 31) (bitB w 24) (regF w 17) (regF w 10) (regF w 3))
  | 3 =>
    .ok (.remS32 (bitB w 31) (bitB w 24) (regF w 17) (regF w 10) (regF w 3))
  | 4 =>
    .ok (.remZ32 (bitB w 31) (bitB w 24) (regF w 17) (regF w 10) (regF w 3))
  | 5 =>
    reserved (bitsOf w 3 7)
      (.ok (.absS32 (bitB w 31) (bitB w 24) (regF w 17) (regF w 10)))
  | 6 =>
    reserved (bitsOf w 3 7)
      (.ok (.negS32 (bitB w 31) (bitB w 24) (regF w 17) (regF w 10)))
  | 7 =>
    reserved (bitsOf w 3 7)
      (.ok (.popc (bitB w 31) (bitB w 24) (regF w 17) (regF w 10)))
  | m => .error (.reservedMinor 2 m)

/-- The fields of a word of major 3. -/
def fields3 (w : Nat) : Except DecodeError Instr :=
  match bitsOf w 0 3 with
  | 0 =>
    .ok (.andB32 (bitB w 31) (bitB w 24) (regF w 17) (regF w 10) (regF w 3))
  | 1 =>
    .ok (.orB32 (bitB w 31) (bitB w 24) (regF w 17) (regF w 10) (regF w 3))
  | 2 =>
    .ok (.xorB32 (bitB w 31) (bitB w 24) (regF w 17) (regF w 10) (regF w 3))
  | 3 =>
    .ok (.andnB32 (bitB w 31) (bitB w 24) (regF w 17) (regF w 10) (regF w 3))
  | 4 =>
    .ok (.shlB32 (bitB w 31) (bitB w 24) (regF w 17) (regF w 10) (regF w 3))
  | 5 =>
    .ok (.shrB32 (bitB w 31) (bitB w 24) (regF w 17) (regF w 10) (regF w 3))
  | 6 =>
    .ok (.shraS32 (bitB w 31) (bitB w 24) (regF w 17) (regF w 10) (regF w 3))
  | 7 =>
    .ok (.rotB32 (bitB w 31) (bitB w 24) (regF w 17) (regF w 10) (regF w 3))
  | m => .error (.reservedMinor 3 m)

/-- The fields of a word of major 4. -/
def fields4 (w : Nat) : Except DecodeError Instr :=
  match bitsOf w 0 3 with
  | 0 =>
    reserved (bitsOf w 3 7)
      (.ok (.clz (bitB w 31) (bitB w 24) (regF w 17) (regF w 10)))
  | 1 =>
    reserved (bitsOf w 3 7)
      (.ok (.brev (bitB w 31) (bitB w 24) (regF w 17) (regF w 10)))
  | 2 =>
    .ok (.bfxS32 (bitB w 31) (bitB w 24) (regF w 17) (regF w 10) (regF w 3))
  | 3 =>
    .ok (.bfxZ32 (bitB w 31) (bitB w 24) (regF w 17) (regF w 10) (regF w 3))
  | 4 =>
    .ok (.bfi (bitB w 31) (bitB w 24) (regF w 17) (regF w 10) (regF w 3))
  | 5 =>
    .ok (.madS32 (bitB w 31) (bitB w 24) (regF w 17) (regF w 10) (regF w 3))
  | 6 =>
    reserved (bitsOf w 3 7)
      (.ok (.mov (bitB w 31) (bitB w 24) (regF w 17) (regF w 10)))
  | m => .error (.reservedMinor 4 m)

/-- The fields of a word of major 5. -/
def fields5 (w : Nat) : Except DecodeError Instr :=
  match bitsOf w 0 3 with
  | 0 =>
    .ok (.addS64 (bitB w 31) (bitB w 24) (regF w 17) (regF w 10) (regF w 3))
  | 1 =>
    .ok (.subS64 (bitB w 31) (bitB w 24) (regF w 17) (regF w 10) (regF w 3))
  | 2 =>
    .ok (.mulS64 (bitB w 31) (bitB w 24) (regF w 17) (regF w 10) (regF w 3))
  | 3 =>
    .ok (.minS64 (bitB w 31) (bitB w 24) (regF w 17) (regF w 10) (regF w 3))
  | 4 =>
    .ok (.maxS64 (bitB w 31) (bitB w 24) (regF w 17) (regF w 10) (regF w 3))
  | 5 =>
    .ok (.minZ64 (bitB w 31) (bitB w 24) (regF w 17) (regF w 10) (regF w 3))
  | 6 =>
    .ok (.maxZ64 (bitB w 31) (bitB w 24) (regF w 17) (regF w 10) (regF w 3))
  | 7 =>
    reserved (bitsOf w 3 7)
      (.ok (.negS64 (bitB w 31) (bitB w 24) (regF w 17) (regF w 10)))
  | m => .error (.reservedMinor 5 m)

/-- The fields of a word of major 6. -/
def fields6 (w : Nat) : Except DecodeError Instr :=
  match bitsOf w 0 3 with
  | 0 =>
    .ok (.shlB64 (bitB w 31) (bitB w 24) (regF w 17) (regF w 10) (regF w 3))
  | 1 =>
    .ok (.shrB64 (bitB w 31) (bitB w 24) (regF w 17) (regF w 10) (regF w 3))
  | 2 =>
    .ok (.shraS64 (bitB w 31) (bitB w 24) (regF w 17) (regF w 10) (regF w 3))
  | 3 =>
    .ok (.mulhS64 (bitB w 31) (bitB w 24) (regF w 17) (regF w 10) (regF w 3))
  | 4 =>
    .ok (.mulhZ64 (bitB w 31) (bitB w 24) (regF w 17) (regF w 10) (regF w 3))
  | 5 =>
    reserved (bitsOf w 3 7)
      (.ok (.absS64 (bitB w 31) (bitB w 24) (regF w 17) (regF w 10)))
  | 6 =>
    .ok (.madS64 (bitB w 31) (bitB w 24) (regF w 17) (regF w 10) (regF w 3))
  | m => .error (.reservedMinor 6 m)

/-- The fields of a word of major 7. -/
def fields7 (w : Nat) : Except DecodeError Instr :=
    .ok (.lea (bitB w 31) (bitB w 24) (regF w 17) (regF w 10) (regF w 3) (Fin.ofNat 8 (bitsOf w 0 3)))

/-- The fields of a word of major 8. -/
def fields8 (w : Nat) : Except DecodeError Instr :=
    .ok (.sel (bitB w 31) (bitB w 24) (regF w 17) (regF w 10) (regF w 3) (Fin.ofNat 8 (bitsOf w 0 3)))

/-- The fields of a word of major 9. -/
def fields9 (w : Nat) : Except DecodeError Instr :=
    kZero w ((predF w 17).bind fun xd =>
      (enumF Cond.ofCode? .condition w 0 3).bind fun xc =>
      .ok (.cmp32 (bitB w 31) xd (regF w 10) (regF w 3) xc))

/-- The fields of a word of major 10. -/
def fields10 (w : Nat) : Except DecodeError Instr :=
    kZero w ((predF w 17).bind fun xd =>
      (enumF Cond.ofCode? .condition w 0 3).bind fun xc =>
      .ok (.cmp64 (bitB w 31) xd (regF w 10) (regF w 3) xc))

/-- The fields of a word of major 11. -/
def fields11 (w : Nat) : Except DecodeError Instr :=
  match bitsOf w 0 3 with
  | 0 =>
    .ok (.shlB32Imm (bitB w 31) (bitB w 24) (regF w 17) (regF w 10) (bvF w 3 7))
  | 1 =>
    .ok (.shrB32Imm (bitB w 31) (bitB w 24) (regF w 17) (regF w 10) (bvF w 3 7))
  | 2 =>
    .ok (.shraS32Imm (bitB w 31) (bitB w 24) (regF w 17) (regF w 10) (bvF w 3 7))
  | 3 =>
    .ok (.rotB32Imm (bitB w 31) (bitB w 24) (regF w 17) (regF w 10) (bvF w 3 7))
  | 4 =>
    .ok (.shlB64Imm (bitB w 31) (bitB w 24) (regF w 17) (regF w 10) (bvF w 3 7))
  | 5 =>
    .ok (.shrB64Imm (bitB w 31) (bitB w 24) (regF w 17) (regF w 10) (bvF w 3 7))
  | 6 =>
    .ok (.shraS64Imm (bitB w 31) (bitB w 24) (regF w 17) (regF w 10) (bvF w 3 7))
  | m => .error (.reservedMinor 11 m)

/-- The fields of a word of major 12. -/
def fields12 (w : Nat) : Except DecodeError Instr :=
    .ok (.addS32Imm (bitB w 31) (bitB w 24) (regF w 17) (regF w 10) (bvF w 0 10))

/-- The fields of a word of major 13. -/
def fields13 (w : Nat) : Except DecodeError Instr :=
    .ok (.mulS32Imm (bitB w 31) (bitB w 24) (regF w 17) (regF w 10) (bvF w 0 10))

/-- The fields of a word of major 14. -/
def fields14 (w : Nat) : Except DecodeError Instr :=
    .ok (.ldi (bitB w 31) (bitB w 24) (regF w 17) (bvF w 0 17))

/-- The fields of a word of major 15. -/
def fields15 (w : Nat) : Except DecodeError Instr :=
    reserved (bitsOf w 16 1)
      (.ok (.ldhi (bitB w 31) (bitB w 24) (regF w 17) (bvF w 0 16)))

/-- The fields of a word of major 16. -/
def fields16 (w : Nat) : Except DecodeError Instr :=
    (enumF Rnd.ofCode? .rounding w 0 3).bind fun xr =>
      .ok (.fadd (bitB w 31) (bitB w 24) (regF w 17) (regF w 10) (regF w 3) xr)

/-- The fields of a word of major 17. -/
def fields17 (w : Nat) : Except DecodeError Instr :=
    (enumF Rnd.ofCode? .rounding w 0 3).bind fun xr =>
      .ok (.fsub (bitB w 31) (bitB w 24) (regF w 17) (regF w 10) (regF w 3) xr)

/-- The fields of a word of major 18. -/
def fields18 (w : Nat) : Except DecodeError Instr :=
    (enumF Rnd.ofCode? .rounding w 0 3).bind fun xr =>
      .ok (.fmul (bitB w 31) (bitB w 24) (regF w 17) (regF w 10) (regF w 3) xr)

/-- The fields of a word of major 19. -/
def fields19 (w : Nat) : Except DecodeError Instr :=
    (enumF Rnd.ofCode? .rounding w 0 3).bind fun xr =>
      .ok (.ffma (bitB w 31) (bitB w 24) (regF w 17) (regF w 10) (regF w 3) xr)

/-- The fields of a word of major 20. -/
def fields20 (w : Nat) : Except DecodeError Instr :=
  match bitsOf w 0 3 with
  | 0 =>
    .ok (.fmin (bitB w 31) (bitB w 24) (regF w 17) (regF w 10) (regF w 3))
  | 1 =>
    .ok (.fmax (bitB w 31) (bitB w 24) (regF w 17) (regF w 10) (regF w 3))
  | 2 =>
    reserved (bitsOf w 3 7)
      (.ok (.frcp (bitB w 31) (bitB w 24) (regF w 17) (regF w 10)))
  | 3 =>
    reserved (bitsOf w 3 7)
      (.ok (.frsq (bitB w 31) (bitB w 24) (regF w 17) (regF w 10)))
  | 4 =>
    reserved (bitsOf w 3 7)
      (.ok (.fsqrt (bitB w 31) (bitB w 24) (regF w 17) (regF w 10)))
  | 5 =>
    reserved (bitsOf w 3 7)
      (.ok (.fexp2 (bitB w 31) (bitB w 24) (regF w 17) (regF w 10)))
  | 6 =>
    reserved (bitsOf w 3 7)
      (.ok (.flog2 (bitB w 31) (bitB w 24) (regF w 17) (regF w 10)))
  | 7 =>
    reserved (bitsOf w 3 7)
      (.ok (.fsinpi (bitB w 31) (bitB w 24) (regF w 17) (regF w 10)))
  | m => .error (.reservedMinor 20 m)

/-- The fields of a word of major 21. -/
def fields21 (w : Nat) : Except DecodeError Instr :=
  match bitsOf w 0 3 with
  | 0 =>
    reserved (bitsOf w 3 7)
      (.ok (.fcospi (bitB w 31) (bitB w 24) (regF w 17) (regF w 10)))
  | 1 =>
    reserved (bitsOf w 3 7)
      (.ok (.fclass (bitB w 31) (bitB w 24) (regF w 17) (regF w 10)))
  | 2 =>
    .ok (.hadd2 (bitB w 31) (bitB w 24) (regF w 17) (regF w 10) (regF w 3))
  | 3 =>
    .ok (.hmul2 (bitB w 31) (bitB w 24) (regF w 17) (regF w 10) (regF w 3))
  | 4 =>
    .ok (.hfma2 (bitB w 31) (bitB w 24) (regF w 17) (regF w 10) (regF w 3))
  | 5 =>
    .ok (.dot4S8 (bitB w 31) (bitB w 24) (regF w 17) (regF w 10) (regF w 3))
  | 6 =>
    .ok (.dot4Z8 (bitB w 31) (bitB w 24) (regF w 17) (regF w 10) (regF w 3))
  | m => .error (.reservedMinor 21 m)

/-- The fields of a word of major 22. -/
def fields22 (w : Nat) : Except DecodeError Instr :=
    kZero w ((predF w 17).bind fun xd =>
      (enumF FCond.ofCode? .condition w 0 3).bind fun xc =>
      .ok (.fcmp (bitB w 31) xd (regF w 10) (regF w 3) xc))

/-- The fields of a word of major 23. -/
def fields23 (w : Nat) : Except DecodeError Instr :=
    (enumF Fmt.ofCode? .format w 6 4).bind fun xf =>
      (enumF Rnd.ofCode? .rounding w 3 3).bind fun xr =>
      .ok (.cvt (bitB w 31) (bitB w 24) (regF w 17) (regF w 10) xf xr (Fin.ofNat 8 (bitsOf w 0 3)))

/-- The fields of a word of major 24. -/
def fields24 (w : Nat) : Except DecodeError Instr :=
    (enumF Fmt.ofCode? .format w 6 4).bind fun xf =>
      (enumF Rnd.ofCode? .rounding w 3 3).bind fun xr =>
      .ok (.cvtFloatSource (bitB w 31) (bitB w 24) (regF w 17) (regF w 10) xf xr (Fin.ofNat 8 (bitsOf w 0 3)))

/-- The fields of a word of major 25. -/
def fields25 (w : Nat) : Except DecodeError Instr :=
    reserved (bitsOf w 3 7)
      ((enumF Rnd.ofCode? .rounding w 0 3).bind fun xr =>
      .ok (.frnd (bitB w 31) (bitB w 24) (regF w 17) (regF w 10) xr))

/-- The fields of a word of major 26. -/
def fields26 (w : Nat) : Except DecodeError Instr :=
  match bitsOf w 0 3 with
  | 0 | 1 | 2 | 3 =>
    (enumF Shfl.ofCode? .variant w 0 2).bind fun xm =>
      .ok (.shfl (bitB w 31) (bitB w 24) (regF w 17) (regF w 10) (regF w 3) xm)
  | m => .error (.reservedMinor 26 m)

/-- The fields of a word of major 27. -/
def fields27 (w : Nat) : Except DecodeError Instr :=
  match bitsOf w 0 3 with
  | 0 =>
    kZero w (reserved (bitsOf w 3 7)
      ((predF w 17).bind fun xd =>
      (predF w 10).bind fun xa =>
      .ok (.voteAny (bitB w 31) xd xa)))
  | 1 =>
    kZero w (reserved (bitsOf w 3 7)
      ((predF w 17).bind fun xd =>
      (predF w 10).bind fun xa =>
      .ok (.voteAll (bitB w 31) xd xa)))
  | 2 =>
    reserved (bitsOf w 3 7)
      ((predF w 10).bind fun xa =>
      .ok (.voteBallot (bitB w 31) (bitB w 24) (regF w 17) xa))
  | 3 =>
    kZero w (reserved (bitsOf w 3 7)
      ((predF w 17).bind fun xd =>
      .ok (.voteEq (bitB w 31) xd (regF w 10))))
  | m => .error (.reservedMinor 27 m)

/-- The fields of a word of major 28. -/
def fields28 (w : Nat) : Except DecodeError Instr :=
    reserved (bitsOf w 3 7)
      ((enumF RedOp.ofCode? .variant w 0 3).bind fun xo =>
      .ok (.wred (bitB w 31) (bitB w 24) (regF w 17) (regF w 10) xo))

/-- The fields of a word of major 29. -/
def fields29 (w : Nat) : Except DecodeError Instr :=
    reserved (bitsOf w 4 6)
      ((enumF RedOp.ofCode? .variant w 0 3).bind fun xo =>
      .ok (.wscan (bitB w 31) (bitB w 24) (regF w 17) (regF w 10) (bitB w 3) xo))

/-- The fields of a word of major 30. -/
def fields30 (w : Nat) : Except DecodeError Instr :=
  match bitsOf w 0 3 with
  | 0 =>
    kZero w (reserved (bitsOf w 3 7)
      ((predF w 17).bind fun xd =>
      .ok (.pmovR2p (bitB w 31) xd (regF w 10))))
  | 1 =>
    reserved (bitsOf w 3 7)
      ((predF w 10).bind fun xa =>
      .ok (.pmovP2r (bitB w 31) (bitB w 24) (regF w 17) xa))
  | 2 =>
    kZero w ((predF w 17).bind fun xd =>
      (predF w 10).bind fun xa =>
      (predF w 3).bind fun xb =>
      .ok (.pmovAnd (bitB w 31) xd xa xb))
  | 3 =>
    kZero w ((predF w 17).bind fun xd =>
      (predF w 10).bind fun xa =>
      (predF w 3).bind fun xb =>
      .ok (.pmovOr (bitB w 31) xd xa xb))
  | 4 =>
    kZero w ((predF w 17).bind fun xd =>
      (predF w 10).bind fun xa =>
      (predF w 3).bind fun xb =>
      .ok (.pmovXor (bitB w 31) xd xa xb))
  | 5 =>
    kZero w ((predF w 17).bind fun xd =>
      (predF w 10).bind fun xa =>
      (predF w 3).bind fun xb =>
      .ok (.pmovAndn (bitB w 31) xd xa xb))
  | 6 =>
    kZero w (reserved (bitsOf w 3 7)
      ((predF w 17).bind fun xd =>
      (predF w 10).bind fun xa =>
      .ok (.pmovNot (bitB w 31) xd xa)))
  | m => .error (.reservedMinor 30 m)

/-- The fields of a word of major 31. -/
def fields31 (w : Nat) : Except DecodeError Instr :=
  match bitsOf w 14 3 with
  | 0 =>
    kZero w (reserved (bitsOf w 3 11)
      (reserved (bitsOf w 17 7)
      (.ok (.winb (bitB w 31) (Fin.ofNat 8 (bitsOf w 0 3))))))
  | 1 =>
    kZero w (reserved (bitsOf w 3 11)
      (reserved (bitsOf w 17 7)
      (.ok (.rclaim (bitB w 31) (Fin.ofNat 8 (bitsOf w 0 3))))))
  | 2 =>
    kZero w (reserved (bitsOf w 3 11)
      (reserved (bitsOf w 17 7)
      (.ok (.rgive (bitB w 31) (Fin.ofNat 8 (bitsOf w 0 3))))))
  | m => .error (.reservedMinor 31 m)

/-- The fields of a word of major 32. -/
def fields32 (w : Nat) : Except DecodeError Instr :=
    kZero w (reserved (bitsOf w 20 4)
      (.ok (.bra (bitB w 31) (bvF w 0 20))))

/-- The fields of a word of major 33. -/
def fields33 (w : Nat) : Except DecodeError Instr :=
    kZero w (.ok (.brp (bitB w 31) (Fin.ofNat 8 (bitsOf w 21 3)) (bitB w 20) (bvF w 0 20)))

/-- The fields of a word of major 34. -/
def fields34 (w : Nat) : Except DecodeError Instr :=
    kZero w (reserved (bitsOf w 20 4)
      (.ok (.call (bitB w 31) (bvF w 0 20))))

/-- The fields of a word of major 35. -/
def fields35 (w : Nat) : Except DecodeError Instr :=
  match bitsOf w 0 3 with
  | 0 =>
    kZero w (reserved (bitsOf w 3 7)
      (reserved (bitsOf w 17 7)
      (.ok (.callr (bitB w 31) (regF w 10)))))
  | m => .error (.reservedMinor 35 m)

/-- The fields of a word of major 36. -/
def fields36 (w : Nat) : Except DecodeError Instr :=
  match bitsOf w 0 3 with
  | 0 =>
    kZero w (reserved (bitsOf w 3 21)
      (.ok (.ret (bitB w 31))))
  | 1 =>
    kZero w (reserved (bitsOf w 3 21)
      (.ok (.exit (bitB w 31))))
  | 2 =>
    kZero w (reserved (bitsOf w 3 21)
      (.ok (.nop (bitB w 31))))
  | m => .error (.reservedMinor 36 m)

/-- The fields of a word of major 40. -/
def fields40 (w : Nat) : Except DecodeError Instr :=
    (enumF LdW.ofCode? .variant w 0 3).bind fun xv =>
      .ok (.ld (bitB w 31) (bitB w 24) (regF w 17) (regF w 10) (bvF w 3 7) xv)

/-- The fields of a word of major 41. -/
def fields41 (w : Nat) : Except DecodeError Instr :=
    (enumF LdW.ofCode? .variant w 0 3).bind fun xv =>
      .ok (.ldR (bitB w 31) (bitB w 24) (regF w 17) (regF w 10) (Fin.ofNat 8 (bitsOf w 7 3)) (bvF w 3 4) xv)

/-- The fields of a word of major 42. -/
def fields42 (w : Nat) : Except DecodeError Instr :=
    kZero w ((enumF StW.ofCode? .variant w 0 3).bind fun xv =>
      .ok (.st (bitB w 31) (regF w 17) (regF w 10) (bvF w 3 7) xv))

/-- The fields of a word of major 43. -/
def fields43 (w : Nat) : Except DecodeError Instr :=
    (enumF BufW.ofCode? .variant w 0 2).bind fun xw =>
      .ok (.lda (bitB w 31) (bitB w 24) (regF w 17) (regF w 10) (bvF w 3 7) (bitB w 2) xw)

/-- The fields of a word of major 44. -/
def fields44 (w : Nat) : Except DecodeError Instr :=
    kZero w ((enumF BufW.ofCode? .variant w 0 2).bind fun xw =>
      .ok (.sta (bitB w 31) (regF w 17) (regF w 10) (bvF w 3 7) (bitB w 2) xw))

/-- The fields of a word of major 45. -/
def fields45 (w : Nat) : Except DecodeError Instr :=
  match bitsOf w 0 3 with
  | 0 | 1 | 2 | 3 =>
    (enumF LdcW.ofCode? .variant w 0 2).bind fun xw =>
      .ok (.ldc (bitB w 31) (bitB w 24) (regF w 17) (regF w 10) (bvF w 3 7) xw)
  | 4 =>
    kZero w (reserved (bitsOf w 17 7)
      (.ok (.prefL1 (bitB w 31) (regF w 10) (bvF w 3 7))))
  | 5 =>
    kZero w (reserved (bitsOf w 17 7)
      (.ok (.prefLlc (bitB w 31) (regF w 10) (bvF w 3 7))))
  | 6 =>
    kZero w (reserved (bitsOf w 17 7)
      (.ok (.pagereq (bitB w 31) (regF w 10) (bvF w 3 7))))
  | m => .error (.reservedMinor 45 m)

/-- The fields of a word of major 46. -/
def fields46 (w : Nat) : Except DecodeError Instr :=
  match bitsOf w 0 3 with
  | 0 =>
    kZero w (.ok (.colour (bitB w 31) (regF w 17) (regF w 10) (bvF w 3 7)))
  | 1 =>
    kZero w (.ok (.tagset (bitB w 31) (regF w 17) (regF w 10) (bvF w 3 7)))
  | 2 =>
    .ok (.tagget (bitB w 31) (bitB w 24) (regF w 17) (regF w 10) (bvF w 3 7))
  | 3 =>
    kZero w (reserved (bitsOf w 3 14)
      (reserved (bitsOf w 20 4)
      ((enumF Scope.ofCode? .scope w 17 3).bind fun xs =>
      .ok (.fence (bitB w 31) xs))))
  | 4 =>
    kZero w (reserved (bitsOf w 3 14)
      (reserved (bitsOf w 20 4)
      ((enumF Scope.ofCode? .scope w 17 3).bind fun xs =>
      .ok (.acq (bitB w 31) xs))))
  | 5 =>
    kZero w (reserved (bitsOf w 3 14)
      (reserved (bitsOf w 20 4)
      ((enumF Scope.ofCode? .scope w 17 3).bind fun xs =>
      .ok (.rel (bitB w 31) xs))))
  | 6 =>
    reserved (bitsOf w 3 14)
      (.ok (.cjoin (bitB w 31) (bitB w 24) (regF w 17)))
  | 7 =>
    kZero w (reserved (bitsOf w 3 21)
      (.ok (.cleave (bitB w 31))))
  | m => .error (.reservedMinor 46 m)

/-- The fields of a word of major 48. -/
def fields48 (w : Nat) : Except DecodeError Instr :=
    (enumF Scope.ofCode? .scope w 7 3).bind fun xs =>
      (enumF RedOp.ofCode? .variant w 0 3).bind fun xv =>
      .ok (.atomInt (bitB w 31) (bitB w 24) (regF w 17) (regF w 10) xs (bvF w 3 4) xv)

/-- The fields of a word of major 49. -/
def fields49 (w : Nat) : Except DecodeError Instr :=
    (enumF Scope.ofCode? .scope w 7 3).bind fun xs =>
      (enumF AtomX.ofCode? .variant w 0 3).bind fun xv =>
      .ok (.atomExt (bitB w 31) (bitB w 24) (regF w 17) (regF w 10) xs (bvF w 3 4) xv)

/-- The fields of a word of major 50. -/
def fields50 (w : Nat) : Except DecodeError Instr :=
    kZero w ((enumF Scope.ofCode? .scope w 7 3).bind fun xs =>
      (enumF RedOp.ofCode? .variant w 0 3).bind fun xv =>
      .ok (.redInt (bitB w 31) (regF w 17) (regF w 10) xs (bvF w 3 4) xv))

/-- The fields of a word of major 51. -/
def fields51 (w : Nat) : Except DecodeError Instr :=
  match bitsOf w 0 3 with
  | 0 | 1 | 2 | 3 =>
    kZero w ((enumF Scope.ofCode? .scope w 7 3).bind fun xs =>
      (enumF RedX.ofCode? .variant w 0 2).bind fun xv =>
      .ok (.redExt (bitB w 31) (regF w 17) (regF w 10) xs (bvF w 3 4) xv))
  | m => .error (.reservedMinor 51 m)

/-- The fields of a word of major 52. -/
def fields52 (w : Nat) : Except DecodeError Instr :=
  match bitsOf w 0 3 with
  | 0 =>
    kZero w ((enumF Scope.ofCode? .scope w 7 3).bind fun xs =>
      .ok (.semsig (bitB w 31) (regF w 17) (regF w 10) xs (bvF w 3 4)))
  | 1 =>
    kZero w ((enumF Scope.ofCode? .scope w 7 3).bind fun xs =>
      .ok (.semwait (bitB w 31) (regF w 17) (regF w 10) xs (bvF w 3 4)))
  | 2 =>
    kZero w ((enumF Scope.ofCode? .scope w 7 3).bind fun xs =>
      .ok (.semtake (bitB w 31) (regF w 17) (regF w 10) xs (bvF w 3 4)))
  | m => .error (.reservedMinor 52 m)

/-- The fields of a word of major 53. -/
def fields53 (w : Nat) : Except DecodeError Instr :=
    kZero w (.ok (.spawn (bitB w 31) (bvF w 19 5) (Fin.ofNat 4 (bitsOf w 17 2)) (regF w 10) (regF w 3) (Fin.ofNat 8 (bitsOf w 0 3))))

/-- The fields of a word of major 54. -/
def fields54 (w : Nat) : Except DecodeError Instr :=
  match bitsOf w 0 3 with
  | 0 =>
    kZero w (.ok (.joinw (bitB w 31) (regF w 17) (regF w 10) (bvF w 3 7)))
  | 1 =>
    kZero w (reserved (bitsOf w 3 21)
      (.ok (.bar (bitB w 31))))
  | 2 =>
    kZero w (.ok (.cwait (bitB w 31) (regF w 17) (regF w 10) (bvF w 3 7)))
  | 3 =>
    kZero w (.ok (.csig (bitB w 31) (regF w 17) (regF w 10) (bvF w 3 7)))
  | 4 =>
    kZero w (.ok (.enqt (bitB w 31) (regF w 17) (regF w 10) (bvF w 3 7)))
  | m => .error (.reservedMinor 54 m)

/-- The fields of a word of major 56. -/
def fields56 (w : Nat) : Except DecodeError Instr :=
    kZero w (.ok (.mma (bitB w 31) (Fin.ofNat 64 (bitsOf w 18 6)) (Fin.ofNat 64 (bitsOf w 12 6)) (Fin.ofNat 64 (bitsOf w 6 6)) (Fin.ofNat 4 (bitsOf w 4 2)) (Fin.ofNat 16 (bitsOf w 0 4))))

/-- The fields of a word of major 57. -/
def fields57 (w : Nat) : Except DecodeError Instr :=
    kZero w (.ok (.mmas (bitB w 31) (Fin.ofNat 64 (bitsOf w 18 6)) (Fin.ofNat 64 (bitsOf w 12 6)) (Fin.ofNat 64 (bitsOf w 6 6)) (Fin.ofNat 4 (bitsOf w 4 2)) (Fin.ofNat 16 (bitsOf w 0 4))))

/-- The fields of a word of major 58. -/
def fields58 (w : Nat) : Except DecodeError Instr :=
  match bitsOf w 0 3 with
  | 0 =>
    kZero w (reserved (bitsOf w 3 3)
      (reserved (bitsOf w 12 12)
      (.ok (.cinit (bitB w 31) (Fin.ofNat 64 (bitsOf w 6 6))))))
  | 1 =>
    kZero w (reserved (bitsOf w 12 6)
      ((enumF Rnd.ofCode? .rounding w 3 3).bind fun xr =>
      .ok (.cdrain (bitB w 31) (Fin.ofNat 64 (bitsOf w 18 6)) (Fin.ofNat 64 (bitsOf w 6 6)) xr)))
  | 2 =>
    kZero w (reserved (bitsOf w 3 7)
      (reserved (bitsOf w 17 1)
      (.ok (.tdef (bitB w 31) (Fin.ofNat 64 (bitsOf w 18 6)) (regF w 10)))))
  | 3 =>
    kZero w (reserved (bitsOf w 3 13)
      ((enumF TileState.ofCode? .variant w 16 2).bind fun xs =>
      .ok (.tset (bitB w 31) (Fin.ofNat 64 (bitsOf w 18 6)) xs)))
  | 4 =>
    kZero w (reserved (bitsOf w 6 18)
      (.ok (.ckmode (bitB w 31) (bvF w 3 3))))
  | 5 =>
    kZero w (reserved (bitsOf w 3 12)
      (.ok (.qbind (bitB w 31) (Fin.ofNat 8 (bitsOf w 21 3)) (bvF w 18 3) (bvF w 15 3))))
  | 6 =>
    reserved (bitsOf w 3 7)
      (reserved (bitsOf w 17 4)
      (.ok (.qstat (bitB w 31) (bitB w 24) (Fin.ofNat 8 (bitsOf w 21 3)) (regF w 10))))
  | m => .error (.reservedMinor 58 m)

/-- The fields of a word of major 60. -/
def fields60 (w : Nat) : Except DecodeError Instr :=
  match bitsOf w 16 1 with
  | 0 =>
    reserved (bitsOf w 8 8)
      (.ok (.srd (bitB w 31) (bitB w 24) (regF w 17) (bvF w 0 8)))
  | 1 =>
    kZero w (reserved (bitsOf w 8 8)
      (.ok (.swr (bitB w 31) (regF w 17) (bvF w 0 8))))
  | m => .error (.reservedMinor 60 m)

/-- The fields of a word of major 61. -/
def fields61 (w : Nat) : Except DecodeError Instr :=
  match bitsOf w 0 3 with
  | 0 =>
    kZero w (reserved (bitsOf w 17 7)
      (.ok (.trap (bitB w 31) (bvF w 3 14))))
  | 1 =>
    kZero w (reserved (bitsOf w 3 21)
      (.ok (.rte (bitB w 31))))
  | 2 =>
    kZero w (reserved (bitsOf w 17 7)
      (.ok (.bkpt (bitB w 31) (bvF w 3 14))))
  | 3 =>
    kZero w (reserved (bitsOf w 3 7)
      (reserved (bitsOf w 17 7)
      (.ok (.step (bitB w 31) (regF w 10)))))
  | 4 =>
    kZero w (reserved (bitsOf w 18 6)
      (.ok (.mark (bitB w 31) (bitB w 17) (bvF w 3 14))))
  | 5 =>
    .ok (.pcnt (bitB w 31) (bitB w 24) (regF w 17) (bvF w 3 14))
  | 6 =>
    kZero w ((enumF WScope.ofCode? .scope w 22 2).bind fun xs =>
      .ok (.wset (bitB w 31) xs (bvF w 17 5) (regF w 10) (regF w 3)))
  | 7 =>
    kZero w (reserved (bitsOf w 3 14)
      ((enumF WScope.ofCode? .scope w 22 2).bind fun xs =>
      .ok (.wclr (bitB w 31) xs (bvF w 17 5))))
  | m => .error (.reservedMinor 61 m)

/-- The fields of a word, by major opcode (R52) and minor, variant or selector. -/
def decodeFields (w : Nat) : Except DecodeError Instr :=
  match bitsOf w 25 6 with
  | 1 => fields1 w
  | 2 => fields2 w
  | 3 => fields3 w
  | 4 => fields4 w
  | 5 => fields5 w
  | 6 => fields6 w
  | 7 => fields7 w
  | 8 => fields8 w
  | 9 => fields9 w
  | 10 => fields10 w
  | 11 => fields11 w
  | 12 => fields12 w
  | 13 => fields13 w
  | 14 => fields14 w
  | 15 => fields15 w
  | 16 => fields16 w
  | 17 => fields17 w
  | 18 => fields18 w
  | 19 => fields19 w
  | 20 => fields20 w
  | 21 => fields21 w
  | 22 => fields22 w
  | 23 => fields23 w
  | 24 => fields24 w
  | 25 => fields25 w
  | 26 => fields26 w
  | 27 => fields27 w
  | 28 => fields28 w
  | 29 => fields29 w
  | 30 => fields30 w
  | 31 => fields31 w
  | 32 => fields32 w
  | 33 => fields33 w
  | 34 => fields34 w
  | 35 => fields35 w
  | 36 => fields36 w
  | 40 => fields40 w
  | 41 => fields41 w
  | 42 => fields42 w
  | 43 => fields43 w
  | 44 => fields44 w
  | 45 => fields45 w
  | 46 => fields46 w
  | 48 => fields48 w
  | 49 => fields49 w
  | 50 => fields50 w
  | 51 => fields51 w
  | 52 => fields52 w
  | 53 => fields53 w
  | 54 => fields54 w
  | 56 => fields56 w
  | 57 => fields57 w
  | 58 => fields58 w
  | 60 => fields60 w
  | 61 => fields61 w
  | m => .error (.reservedMajor m)

/-- Decoding of a word: its fields, then the checks of R67 that they decide together. -/
def decode (w : Word) : Except DecodeError Instr :=
  (decodeFields w.toNat).bind fun i =>
    match i.error with
    | none => .ok i
    | some x => .error (.illFormed x)

/-- A word from its major opcode, E, K and bits [23:0] (R43). -/
def wordOf (major : Nat) (e k : Bool) (body : Nat) : Nat :=
  body + k.toNat * 2 ^ 24 + major * 2 ^ 25 + e.toNat * 2 ^ 31

/-- The word of an instruction as a number; none for the rows that have no word. -/
def encodeNat : Instr → Option Nat
  | .addS32 e k d a b => some (wordOf 1 e k (d.code * 131072 + a.code * 1024 + b.code * 8))
  | .subS32 e k d a b => some (wordOf 1 e k (1 + d.code * 131072 + a.code * 1024 + b.code * 8))
  | .mulS32 e k d a b => some (wordOf 1 e k (2 + d.code * 131072 + a.code * 1024 + b.code * 8))
  | .mulhS32 e k d a b => some (wordOf 1 e k (3 + d.code * 131072 + a.code * 1024 + b.code * 8))
  | .mulhZ32 e k d a b => some (wordOf 1 e k (4 + d.code * 131072 + a.code * 1024 + b.code * 8))
  | .minS32 e k d a b => some (wordOf 1 e k (5 + d.code * 131072 + a.code * 1024 + b.code * 8))
  | .maxS32 e k d a b => some (wordOf 1 e k (6 + d.code * 131072 + a.code * 1024 + b.code * 8))
  | .minZ32 e k d a b => some (wordOf 1 e k (7 + d.code * 131072 + a.code * 1024 + b.code * 8))
  | .maxZ32 e k d a b => some (wordOf 2 e k (d.code * 131072 + a.code * 1024 + b.code * 8))
  | .divS32 e k d a b => some (wordOf 2 e k (1 + d.code * 131072 + a.code * 1024 + b.code * 8))
  | .divZ32 e k d a b => some (wordOf 2 e k (2 + d.code * 131072 + a.code * 1024 + b.code * 8))
  | .remS32 e k d a b => some (wordOf 2 e k (3 + d.code * 131072 + a.code * 1024 + b.code * 8))
  | .remZ32 e k d a b => some (wordOf 2 e k (4 + d.code * 131072 + a.code * 1024 + b.code * 8))
  | .absS32 e k d a => some (wordOf 2 e k (5 + d.code * 131072 + a.code * 1024))
  | .negS32 e k d a => some (wordOf 2 e k (6 + d.code * 131072 + a.code * 1024))
  | .popc e k d a => some (wordOf 2 e k (7 + d.code * 131072 + a.code * 1024))
  | .andB32 e k d a b => some (wordOf 3 e k (d.code * 131072 + a.code * 1024 + b.code * 8))
  | .orB32 e k d a b => some (wordOf 3 e k (1 + d.code * 131072 + a.code * 1024 + b.code * 8))
  | .xorB32 e k d a b => some (wordOf 3 e k (2 + d.code * 131072 + a.code * 1024 + b.code * 8))
  | .andnB32 e k d a b => some (wordOf 3 e k (3 + d.code * 131072 + a.code * 1024 + b.code * 8))
  | .shlB32 e k d a b => some (wordOf 3 e k (4 + d.code * 131072 + a.code * 1024 + b.code * 8))
  | .shrB32 e k d a b => some (wordOf 3 e k (5 + d.code * 131072 + a.code * 1024 + b.code * 8))
  | .shraS32 e k d a b => some (wordOf 3 e k (6 + d.code * 131072 + a.code * 1024 + b.code * 8))
  | .rotB32 e k d a b => some (wordOf 3 e k (7 + d.code * 131072 + a.code * 1024 + b.code * 8))
  | .clz e k d a => some (wordOf 4 e k (d.code * 131072 + a.code * 1024))
  | .brev e k d a => some (wordOf 4 e k (1 + d.code * 131072 + a.code * 1024))
  | .bfxS32 e k d a b => some (wordOf 4 e k (2 + d.code * 131072 + a.code * 1024 + b.code * 8))
  | .bfxZ32 e k d a b => some (wordOf 4 e k (3 + d.code * 131072 + a.code * 1024 + b.code * 8))
  | .bfi e k d a b => some (wordOf 4 e k (4 + d.code * 131072 + a.code * 1024 + b.code * 8))
  | .madS32 e k d a b => some (wordOf 4 e k (5 + d.code * 131072 + a.code * 1024 + b.code * 8))
  | .mov e k d a => some (wordOf 4 e k (6 + d.code * 131072 + a.code * 1024))
  | .addS64 e k d a b => some (wordOf 5 e k (d.code * 131072 + a.code * 1024 + b.code * 8))
  | .subS64 e k d a b => some (wordOf 5 e k (1 + d.code * 131072 + a.code * 1024 + b.code * 8))
  | .mulS64 e k d a b => some (wordOf 5 e k (2 + d.code * 131072 + a.code * 1024 + b.code * 8))
  | .minS64 e k d a b => some (wordOf 5 e k (3 + d.code * 131072 + a.code * 1024 + b.code * 8))
  | .maxS64 e k d a b => some (wordOf 5 e k (4 + d.code * 131072 + a.code * 1024 + b.code * 8))
  | .minZ64 e k d a b => some (wordOf 5 e k (5 + d.code * 131072 + a.code * 1024 + b.code * 8))
  | .maxZ64 e k d a b => some (wordOf 5 e k (6 + d.code * 131072 + a.code * 1024 + b.code * 8))
  | .negS64 e k d a => some (wordOf 5 e k (7 + d.code * 131072 + a.code * 1024))
  | .shlB64 e k d a b => some (wordOf 6 e k (d.code * 131072 + a.code * 1024 + b.code * 8))
  | .shrB64 e k d a b => some (wordOf 6 e k (1 + d.code * 131072 + a.code * 1024 + b.code * 8))
  | .shraS64 e k d a b => some (wordOf 6 e k (2 + d.code * 131072 + a.code * 1024 + b.code * 8))
  | .mulhS64 e k d a b => some (wordOf 6 e k (3 + d.code * 131072 + a.code * 1024 + b.code * 8))
  | .mulhZ64 e k d a b => some (wordOf 6 e k (4 + d.code * 131072 + a.code * 1024 + b.code * 8))
  | .absS64 e k d a => some (wordOf 6 e k (5 + d.code * 131072 + a.code * 1024))
  | .madS64 e k d a b => some (wordOf 6 e k (6 + d.code * 131072 + a.code * 1024 + b.code * 8))
  | .lea e k d a b s => some (wordOf 7 e k (d.code * 131072 + a.code * 1024 + b.code * 8 + s.val))
  | .sel e k d a b p => some (wordOf 8 e k (d.code * 131072 + a.code * 1024 + b.code * 8 + p.val))
  | .cmp32 e d a b c => some (wordOf 9 e false (d.val * 131072 + a.code * 1024 + b.code * 8 + c.code))
  | .cmp64 e d a b c => some (wordOf 10 e false (d.val * 131072 + a.code * 1024 + b.code * 8 + c.code))
  | .shlB32Imm e k d a n => some (wordOf 11 e k (d.code * 131072 + a.code * 1024 + n.toNat * 8))
  | .shrB32Imm e k d a n => some (wordOf 11 e k (1 + d.code * 131072 + a.code * 1024 + n.toNat * 8))
  | .shraS32Imm e k d a n => some (wordOf 11 e k (2 + d.code * 131072 + a.code * 1024 + n.toNat * 8))
  | .rotB32Imm e k d a n => some (wordOf 11 e k (3 + d.code * 131072 + a.code * 1024 + n.toNat * 8))
  | .shlB64Imm e k d a n => some (wordOf 11 e k (4 + d.code * 131072 + a.code * 1024 + n.toNat * 8))
  | .shrB64Imm e k d a n => some (wordOf 11 e k (5 + d.code * 131072 + a.code * 1024 + n.toNat * 8))
  | .shraS64Imm e k d a n => some (wordOf 11 e k (6 + d.code * 131072 + a.code * 1024 + n.toNat * 8))
  | .addS32Imm e k d a i => some (wordOf 12 e k (d.code * 131072 + a.code * 1024 + i.toNat))
  | .mulS32Imm e k d a i => some (wordOf 13 e k (d.code * 131072 + a.code * 1024 + i.toNat))
  | .ldi e k d i => some (wordOf 14 e k (d.code * 131072 + i.toNat))
  | .ldhi e k d i => some (wordOf 15 e k (d.code * 131072 + i.toNat))
  | .fadd e k d a b r => some (wordOf 16 e k (d.code * 131072 + a.code * 1024 + b.code * 8 + r.code))
  | .fsub e k d a b r => some (wordOf 17 e k (d.code * 131072 + a.code * 1024 + b.code * 8 + r.code))
  | .fmul e k d a b r => some (wordOf 18 e k (d.code * 131072 + a.code * 1024 + b.code * 8 + r.code))
  | .ffma e k d a b r => some (wordOf 19 e k (d.code * 131072 + a.code * 1024 + b.code * 8 + r.code))
  | .fmin e k d a b => some (wordOf 20 e k (d.code * 131072 + a.code * 1024 + b.code * 8))
  | .fmax e k d a b => some (wordOf 20 e k (1 + d.code * 131072 + a.code * 1024 + b.code * 8))
  | .frcp e k d a => some (wordOf 20 e k (2 + d.code * 131072 + a.code * 1024))
  | .frsq e k d a => some (wordOf 20 e k (3 + d.code * 131072 + a.code * 1024))
  | .fsqrt e k d a => some (wordOf 20 e k (4 + d.code * 131072 + a.code * 1024))
  | .fexp2 e k d a => some (wordOf 20 e k (5 + d.code * 131072 + a.code * 1024))
  | .flog2 e k d a => some (wordOf 20 e k (6 + d.code * 131072 + a.code * 1024))
  | .fsinpi e k d a => some (wordOf 20 e k (7 + d.code * 131072 + a.code * 1024))
  | .fcospi e k d a => some (wordOf 21 e k (d.code * 131072 + a.code * 1024))
  | .fclass e k d a => some (wordOf 21 e k (1 + d.code * 131072 + a.code * 1024))
  | .hadd2 e k d a b => some (wordOf 21 e k (2 + d.code * 131072 + a.code * 1024 + b.code * 8))
  | .hmul2 e k d a b => some (wordOf 21 e k (3 + d.code * 131072 + a.code * 1024 + b.code * 8))
  | .hfma2 e k d a b => some (wordOf 21 e k (4 + d.code * 131072 + a.code * 1024 + b.code * 8))
  | .dot4S8 e k d a b => some (wordOf 21 e k (5 + d.code * 131072 + a.code * 1024 + b.code * 8))
  | .dot4Z8 e k d a b => some (wordOf 21 e k (6 + d.code * 131072 + a.code * 1024 + b.code * 8))
  | .fcmp e d a b c => some (wordOf 22 e false (d.val * 131072 + a.code * 1024 + b.code * 8 + c.code))
  | .cvt e k d a f r s => some (wordOf 23 e k (d.code * 131072 + a.code * 1024 + f.code * 64 + r.code * 8 + s.val))
  | .cvtFloatSource e k d a f r s => some (wordOf 24 e k (d.code * 131072 + a.code * 1024 + f.code * 64 + r.code * 8 + s.val))
  | .frnd e k d a r => some (wordOf 25 e k (d.code * 131072 + a.code * 1024 + r.code))
  | .shfl e k d a b m => some (wordOf 26 e k (d.code * 131072 + a.code * 1024 + b.code * 8 + m.code))
  | .voteAny e d a => some (wordOf 27 e false (d.val * 131072 + a.val * 1024))
  | .voteAll e d a => some (wordOf 27 e false (1 + d.val * 131072 + a.val * 1024))
  | .voteBallot e k d a => some (wordOf 27 e k (2 + d.code * 131072 + a.val * 1024))
  | .voteEq e d a => some (wordOf 27 e false (3 + d.val * 131072 + a.code * 1024))
  | .wred e k d a o => some (wordOf 28 e k (d.code * 131072 + a.code * 1024 + o.code))
  | .wscan e k d a x o => some (wordOf 29 e k (d.code * 131072 + a.code * 1024 + x.toNat * 8 + o.code))
  | .pmovR2p e d a => some (wordOf 30 e false (d.val * 131072 + a.code * 1024))
  | .pmovP2r e k d a => some (wordOf 30 e k (1 + d.code * 131072 + a.val * 1024))
  | .pmovAnd e d a b => some (wordOf 30 e false (2 + d.val * 131072 + a.val * 1024 + b.val * 8))
  | .pmovOr e d a b => some (wordOf 30 e false (3 + d.val * 131072 + a.val * 1024 + b.val * 8))
  | .pmovXor e d a b => some (wordOf 30 e false (4 + d.val * 131072 + a.val * 1024 + b.val * 8))
  | .pmovAndn e d a b => some (wordOf 30 e false (5 + d.val * 131072 + a.val * 1024 + b.val * 8))
  | .pmovNot e d a => some (wordOf 30 e false (6 + d.val * 131072 + a.val * 1024))
  | .winb e n => some (wordOf 31 e false (n.val))
  | .rclaim e n => some (wordOf 31 e false (16384 + n.val))
  | .rgive e n => some (wordOf 31 e false (32768 + n.val))
  | .bra e o => some (wordOf 32 e false (o.toNat))
  | .brp e p s o => some (wordOf 33 e false (p.val * 2097152 + s.toNat * 1048576 + o.toNat))
  | .call e o => some (wordOf 34 e false (o.toNat))
  | .callr e a => some (wordOf 35 e false (a.code * 1024))
  | .ret e => some (wordOf 36 e false (0))
  | .exit e => some (wordOf 36 e false (1))
  | .nop e => some (wordOf 36 e false (2))
  | .ld e k d a o v => some (wordOf 40 e k (d.code * 131072 + a.code * 1024 + o.toNat * 8 + v.code))
  | .ldR e k d a p o v => some (wordOf 41 e k (d.code * 131072 + a.code * 1024 + p.val * 128 + o.toNat * 8 + v.code))
  | .st e d a o v => some (wordOf 42 e false (d.code * 131072 + a.code * 1024 + o.toNat * 8 + v.code))
  | .lda e k d a o s w => some (wordOf 43 e k (d.code * 131072 + a.code * 1024 + o.toNat * 8 + s.toNat * 4 + w.code))
  | .sta e d a o s w => some (wordOf 44 e false (d.code * 131072 + a.code * 1024 + o.toNat * 8 + s.toNat * 4 + w.code))
  | .ldc e k d a o w => some (wordOf 45 e k (d.code * 131072 + a.code * 1024 + o.toNat * 8 + w.code))
  | .prefL1 e a o => some (wordOf 45 e false (4 + a.code * 1024 + o.toNat * 8))
  | .prefLlc e a o => some (wordOf 45 e false (5 + a.code * 1024 + o.toNat * 8))
  | .pagereq e a o => some (wordOf 45 e false (6 + a.code * 1024 + o.toNat * 8))
  | .colour e d a o => some (wordOf 46 e false (d.code * 131072 + a.code * 1024 + o.toNat * 8))
  | .tagset e d a o => some (wordOf 46 e false (1 + d.code * 131072 + a.code * 1024 + o.toNat * 8))
  | .tagget e k d a o => some (wordOf 46 e k (2 + d.code * 131072 + a.code * 1024 + o.toNat * 8))
  | .fence e s => some (wordOf 46 e false (3 + s.code * 131072))
  | .acq e s => some (wordOf 46 e false (4 + s.code * 131072))
  | .rel e s => some (wordOf 46 e false (5 + s.code * 131072))
  | .cjoin e k d => some (wordOf 46 e k (6 + d.code * 131072))
  | .cleave e => some (wordOf 46 e false (7))
  | .atomInt e k d a s o v => some (wordOf 48 e k (d.code * 131072 + a.code * 1024 + s.code * 128 + o.toNat * 8 + v.code))
  | .atomExt e k d a s o v => some (wordOf 49 e k (d.code * 131072 + a.code * 1024 + s.code * 128 + o.toNat * 8 + v.code))
  | .redInt e d a s o v => some (wordOf 50 e false (d.code * 131072 + a.code * 1024 + s.code * 128 + o.toNat * 8 + v.code))
  | .redExt e d a s o v => some (wordOf 51 e false (d.code * 131072 + a.code * 1024 + s.code * 128 + o.toNat * 8 + v.code))
  | .semsig e d a s o => some (wordOf 52 e false (d.code * 131072 + a.code * 1024 + s.code * 128 + o.toNat * 8))
  | .semwait e d a s o => some (wordOf 52 e false (1 + d.code * 131072 + a.code * 1024 + s.code * 128 + o.toNat * 8))
  | .semtake e d a s o => some (wordOf 52 e false (2 + d.code * 131072 + a.code * 1024 + s.code * 128 + o.toNat * 8))
  | .spawn e n c j t p => some (wordOf 53 e false (n.toNat * 524288 + c.val * 131072 + j.code * 1024 + t.code * 8 + p.val))
  | .joinw e d a o => some (wordOf 54 e false (d.code * 131072 + a.code * 1024 + o.toNat * 8))
  | .bar e => some (wordOf 54 e false (1))
  | .cwait e d a o => some (wordOf 54 e false (2 + d.code * 131072 + a.code * 1024 + o.toNat * 8))
  | .csig e d a o => some (wordOf 54 e false (3 + d.code * 131072 + a.code * 1024 + o.toNat * 8))
  | .enqt e d a o => some (wordOf 54 e false (4 + d.code * 131072 + a.code * 1024 + o.toNat * 8))
  | .mma e a b c j s => some (wordOf 56 e false (a.val * 262144 + b.val * 4096 + c.val * 64 + j.val * 16 + s.val))
  | .mmas e a b c j s => some (wordOf 57 e false (a.val * 262144 + b.val * 4096 + c.val * 64 + j.val * 16 + s.val))
  | .cinit e c => some (wordOf 58 e false (c.val * 64))
  | .cdrain e a c r => some (wordOf 58 e false (1 + a.val * 262144 + c.val * 64 + r.code * 8))
  | .tdef e t q => some (wordOf 58 e false (2 + t.val * 262144 + q.code * 1024))
  | .tset e t s => some (wordOf 58 e false (3 + t.val * 262144 + s.code * 65536))
  | .ckmode e m => some (wordOf 58 e false (4 + m.toNat * 8))
  | .qbind e q g i => some (wordOf 58 e false (5 + q.val * 2097152 + g.toNat * 262144 + i.toNat * 32768))
  | .qstat e k q d => some (wordOf 58 e k (6 + q.val * 2097152 + d.code * 1024))
  | .srd e k d i => some (wordOf 60 e k (d.code * 131072 + i.toNat))
  | .swr e s i => some (wordOf 60 e false (65536 + s.code * 131072 + i.toNat))
  | .trap e c => some (wordOf 61 e false (c.toNat * 8))
  | .rte e => some (wordOf 61 e false (1))
  | .bkpt e c => some (wordOf 61 e false (2 + c.toNat * 8))
  | .step e a => some (wordOf 61 e false (3 + a.code * 1024))
  | .mark e f c => some (wordOf 61 e false (4 + f.toNat * 131072 + c.toNat * 8))
  | .pcnt e k d n => some (wordOf 61 e k (5 + d.code * 131072 + n.toNat * 8))
  | .wset e s l a c => some (wordOf 61 e false (6 + s.code * 4194304 + l.toNat * 131072 + a.code * 1024 + c.code * 8))
  | .wclr e s l => some (wordOf 61 e false (7 + s.code * 4194304 + l.toNat * 131072))
  | .runSelect .. | .waveAge .. | .spinRedirect .. | .loadReturn .. | .storeAck .. | .writePerformHome .. |
  .writeApply .. | .atomicAtBank .. | .replicaFill .. | .clusterStop .. | .watchTrap .. | .monitorRequest .. |
  .monitorGrant .. | .monitorRelease .. | .laneWake .. | .waveFinishAfterCommands .. | .regClaimGrant .. |
  .claimWaitTimeout .. | .groupSaveTimeout .. | .groupRelaunch .. | .scoutEnter .. | .scoutTimeout .. |
  .scoutExit .. | .mmaAccept .. | .mmaComplete .. | .rendezvousTimeout .. | .cdrainComplete .. | .copy .. |
  .loada .. | .loadw .. | .storea .. | .gather .. | .mcast .. | .rstore .. | .drain .. |
  .engineCommandComplete .. | .probeToken .. | .launchPacket .. | .inboundRmaWrite .. | .inboundRmaRead .. |
  .groupDispatch .. | .taskGroupFinish .. | .bucketFull .. | .bucketFlush .. | .waveForm .. |
  .poolRecordMove .. | .markIntervalTimeout .. | .checkpointMark .. | .markCommit .. | .sliceEnd .. |
  .softError .. | .uncorrectable .. | .launchKill .. | .linkTimeout .. | .switchTimeout .. | .peerTimeout .. |
  .fenceLift .. | .pageShootdown .. | .pageRequestForward .. | .rangeRegisterWrite .. |
  .queueDescriptorWrite .. | .tenantTableWrite .. | .tenantRemove .. | .partitionDescriptorWrite .. |
  .remoteTableWrite .. | .quotaWrite .. | .clusterLend .. | .clusterReclaim .. | .debugInterceptSet .. |
  .dieWatchEnable .. | .traceSessionOpen .. | .traceSessionClose .. | .traceAck .. | .sample .. |
  .treeSnapshot .. | .clockLock .. | .clockRelease .. | .clockBreak .. | .clockRestore .. | .clusterResume ..
  | .sweoloStep .. | .waveDump .. | .operatingPointChange .. | .powerLimitSet .. | .telemetryReport .. |
  .thermalShutdown .. | .moduleReset .. | .imageUpdate .. | .getVersion .. | .getCapabilities .. |
  .negotiateAlgorithms .. | .getDigests .. | .getCertificate .. | .challenge .. | .getMeasurements .. |
  .spdmUnsupportedRequest .. | .completionNotice .. | .ioDieFailure .. | .unsupportedPacket .. |
  .sweoloStopRequest .. | .windowAssignment .. | .pagerFrameWrite .. => none

/-- The word of an instruction. -/
def encode (i : Instr) : Option Word := (encodeNat i).map (BitVec.ofNat 32)

/-- The instruction the decoder reads from an instruction whose bits are w, numbered as the opcode table numbers
them: an instruction is one 32-bit word, so the bits from nbits up to 32 are zero. -/
def decodeTableWord (nbits w : Nat) : Option Instr :=
  match decode (BitVec.ofNat 32 (w % 2 ^ nbits)) with
  | .ok i => some i
  | .error _ => none

end Sys2Proof
end

