-- ==== Sys2Proof/Machine/Fetch.lean ====
section
/-! DEFINITION. Instruction fetch (R43 to R45), page requests (R153, R311), and what step does with the word that the
issuing wave meets. -/
namespace Sys2Proof.Machine

/-- Is a request for the page pending? -/
def requested (s : State) (g : Page) : Bool := s.dies.toList.any fun d => d.pages.any fun x => x.1 = g.base

/-- A request for a page of a partition, merged with a pending one (R153, R311): kept by the walker of the home die of
the page's first byte. -/
def requestPage (s : State) (part : Nat) (g : Page) : State :=
  if requested s g then s
  else modDie s (homeDie g.base) fun d => { d with pages := d.pages ++ [(g.base, g.leaf.level, part)] }

/-- What a fetch of a word finds (R44). -/
inductive Fetched where
  | trap (t : Trap)
  | absent (g : Page)
  /-- it waits until the core's die counts what the home has sent (R263) -/
  | late
  /-- the word or its metadata would be an uncorrectable error (R356) -/
  | poison (what : Struck)
  | word (ia : Nat) (x : Word)

/-- The replica that a fetch reads: none where a narrow atomic has written the die's replica and the home has not performed it,
since a fetch gets only words that are complete at device scope (R44, R170). -/
def fetchReplica (s : State) (die line : Nat) : Option L1Line :=
  if s.flights.any fun f => f.atReplica && f.die = die && f.ia / 64 = line && f.performed.isNone then none
  else replicaOf s die line

/-- The line a fetch reads: the die's replica, else the home; the core's own stores that have not been performed are not
in it (R44). -/
def fetchLine (s : State) (w : Wave) (line : Nat) : L1Line :=
  match w.place with
  | some pl => (fetchReplica s pl.die line).getD (homeLine s line)
  | none => homeLine s line

/-- May a fetch read its line now? A remote home's line once the wave's die counts what the home has sent (R263); a replica
once it shows every write to the line that is complete, so that a launch started after stores to its code were complete
fetches the stored words (R44). -/
def fetchCounted (s : State) (w : Wave) (line : Nat) : Bool :=
  match w.place with
  | some pl =>
    let h := homeDie (64 * line)
    h = pl.die || match fetchReplica s pl.die line with
      | some x => !(s.flights.any fun f => f.ia / 64 = line && f.performed.isSome && f.acked && lacks pl.die x f)
      | none => clockCounts (clockOf s pl.die) (clockOf s h)
  | none => true

/-- The poison marks of the copy that a fetch meets: the core's own copy, else the line (R355, R356). -/
def fetchPoison (s : State) (w : Wave) (line : Nat) : Bool × Bool :=
  let x := match w.place with
    | some pl => (l1Find s pl.die pl.core line).getD (fetchLine s w line)
    | none => fetchLine s w line
  (x.poisonMeta, x.poison)

/-- The fetch of the word at a PC by a wave (R44): key 0, XP, colour 0. -/
def fetchAt (s : State) (w : Wave) (pc : Pc) : Fetched :=
  match locate s w.part (pc.zeroExtend 64) with
  | none => .trap .perm
  | some p =>
    match p.page with
    | none => .trap .perm
    | some g =>
      let x := fetchLine s w (p.ia / 64)
      if !p.xp then .trap .perm
      else if !fetchCounted s w (p.ia / 64) then .late
      else if (fetchPoison s w (p.ia / 64)).1 then .poison .metadata
      else if keyOf x.meta16 ≠ 0 then .trap .tag
      else if colourOf x.meta16 ≠ 0 then .trap .perm
      else if !p.res then .absent g
      else if (fetchPoison s w (p.ia / 64)).2 then .poison .memory
      else .word p.ia (BitVec.ofNat 32 (lineGet x (p.ia % 64) 4))

/-- A fault of the fetch or of the decoder, reported against the word's address (R45). Resumed after RTE with every lane
of EXEC in the done-mask that the handler wrote, the word traps again, its trap mask empty: the spec does not say whether
it traps (DESIGN CHOICE, log 59). -/
def fetchTrap (s : State) (w : Wave) (r : Run) (t : Trap) : State :=
  enterTrap (endScout s w.id) w.id (.at t (execMask w r) 0 r (r.pc.zeroExtend 64))

/-- The wave waits for a page of its code (R44); in scout, scout ends. -/
def fetchWait (s : State) (w : Wave) (g : Page) : State :=
  match shadowOf s w.id with
  | some _ => endScout s w.id
  | none =>
    dropCur (modWave (requestPage s w.part g) w.id fun v => { v with hold := some .operand, issue := none }) w.id

/-- The wave waits for a clock before its word comes (R263). -/
def fetchLate (s : State) (w : Wave) : State :=
  match shadowOf s w.id with
  | some _ => endScout s w.id
  | none => dropCur (modWave s w.id fun v => { v with hold := some .operand, issue := none }) w.id

/-- What a fetch leaves in the core's caches (R298, R309): its page in the page-attribute cache, marked accessed, and its line
valid in L1, unless an atomic of the wave on its way will change it (R169). -/
def fetchTouch (s : State) (w : Wave) (ia : Nat) (scout : Bool) : State :=
  match w.place with
  | none => s
  | some pl =>
    let s1 := pacTouch s pl.die pl.core ia (if scout then none else some false)
    if atomPending s1 w pl.die (ia / 64) then s1 else touchLine s1 w.part pl.die pl.core ia

/-- The next word of the issuing wave: the instruction it decodes to, with what the fetch leaves in the core's caches, or
the state that a fault or a wait leaves. -/
def fetchNext (s : State) (w : Wave) (r : Run) : Instr × State ⊕ State :=
  let scout := (shadowOf s w.id).isSome
  match fetchAt s w r.pc with
  | .trap t => .inr (if scout then endScout s w.id else fetchTrap s w r t)
  | .absent g => .inr (fetchWait s w g)
  | .late => .inr (fetchLate s w)
  | .poison x => .inr (if scout then endScout s w.id else consumeBy s w (execMask w r) x)
  | .word ia x =>
    let s1 := fetchTouch s w ia scout
    match decode x with
    | .ok i => .inl (i, s1)
    | .error _ => .inr (if scout then endScout s1 w.id else fetchTrap s1 w r .illegalOp)

end Sys2Proof.Machine
end

