-- ==== Sys2Proof/Machine/Sides.lean ====
section
/-! DEFINITION. The words of an engine command (R215, R218), the sides it touches, and what of them lies in remote memory (R313,
R360). -/
namespace Sys2Proof.Machine

/-! ### Words -/

/-- Word k of a command. -/
def Command.w (c : Command) (k : Nat) : Nat := (nthD c.words k 0).toNat
/-- The pair at word k. -/
def Command.at2 (c : Command) (k : Nat) : DWord := pair (nthD c.words k 0) (nthD c.words (k + 1) 0)

def Command.op (c : Command) : Nat := bitsOf (c.w 0) 0 8
def Command.len (c : Command) : Nat := bitsOf (c.w 0) 8 4
def Command.scope (c : Command) : Nat := bitsOf (c.w 0) 12 3
def Command.nc (c : Command) : Bool := bitsOf (c.w 0) 15 1 = 1
def Command.tag (c : Command) : Nat := bitsOf (c.w 0) 16 8

/-- The engine of an OP (R218). -/
def opEngine (op : Nat) : Option Eng :=
  if 1 ≤ op && op ≤ 4 then some .copy else if op = 0x10 then some .gather
  else if op = 0x20 || op = 0x21 then some .coll else if op = 0x30 then some .drain else none

/-- Is LEN right for the OP (R218)? -/
def lenOk (op len : Nat) : Bool :=
  match op with
  | 1 => len = 7
  | 2 | 3 | 4 => len = 3
  | 0x10 => len = 6
  | 0x20 | 0x21 => 5 ≤ len && len ≤ 11 && len % 2 = 1
  | 0x30 => len = 4
  | _ => false

/-- Destinations of a collective. -/
def Command.dests (c : Command) : List DWord := (List.range ((c.len - 3) / 2)).map fun k => c.at2 (4 + 2 * k)

/-- The word that names a tile, and the tile. -/
def Command.tileWord (c : Command) : Option Nat :=
  match c.op with
  | 2 | 3 => some (c.w 3)
  | 4 => some (c.w 1)
  | 0x10 => some (c.w 6)
  | 0x30 => some (c.w 1)
  | _ => none
def Command.tileNo (c : Command) : Option (Fin 64) := c.tileWord.map fun x => Fin.ofNat 64 x

/-- The KIND that the tile of an OP must have. -/
def opKind (op : Nat) : Nat := if op = 3 then 1 else if op = 0x30 then 2 else 0

/-- The destination format of a DRAIN (R218). -/
def drainFmt (x : Nat) : Option Fmt := if bitsOf x 6 4 = 6 || bitsOf x 6 4 = 7 then none else Fmt.ofCode? (bitsOf x 6 4)

/-- Do the words after the header lie inside their limits (R218)? -/
def wordsOk (c : Command) : Bool :=
  match c.op with
  | 1 =>
    1 ≤ c.w 5 && c.w 5 ≤ 2 ^ 24 && 1 ≤ c.w 6 && c.w 6 ≤ 65536
      && (c.w 6 = 1 || (c.w 5 ≤ 64 * bitsOf (c.w 7) 0 16 && c.w 5 ≤ 64 * bitsOf (c.w 7) 16 16))
  | 2 | 3 => c.w 3 < 64
  | 4 => c.w 1 < 64
  | 0x10 => c.w 6 < 64 && bitsOf (c.w 5) 0 16 % 4 = 0 && 1 ≤ bitsOf (c.w 5) 16 16 && bitsOf (c.w 5) 16 16 ≤ 192
  | 0x20 => 1 ≤ c.w 3 && c.w 3 ≤ 2 ^ 24
  | 0x21 => bitsOf (c.w 3) 24 4 ≤ 5 && bitsOf (c.w 3) 28 4 = 0
  | 0x30 => (match drainFmt (c.w 1) with | some f => 128 * Fmt.bytes f ≤ c.w 4 | none => false) && bitsOf (c.w 1) 10 3 ≤ 5 && c.w 1 < 2 ^ 13
  | _ => false

/-- Does a defined tile meet what the command states of it? -/
def tileFits (c : Command) (t : Tile) : Bool :=
  tdKind t.desc = opKind c.op
    && (c.op ≠ 0x10 || (!tdTrans t.desc && bitsOf (c.w 5) 0 16 ≤ (tdStored t.desc).2 && bitsOf (c.w 5) 16 16 ≤ 32 * tdRb t.desc))

/-- Step 1 of R216: is the command well-formed for the engine its register is bound to? -/
def commandOk (g : Group) (bound : Option (Eng × Nat)) (c : Command) : Bool :=
  opEngine c.op = bound.map (·.1) && bound.isSome && lenOk c.op c.len && c.scope < 7 && bitsOf (c.w 0) 24 8 = 0 && wordsOk c
    && match c.tileNo.bind (findTile g) with
      | some t => tileFits c t
      | none => true

/-- The state in which a command must find its tile (R198). -/
def fromState (op : Nat) : TileState := if op = 4 || op = 0x30 then .ready else .empty

/-- Step 2 of R216: does the command find its tile as it must? -/
def tileOk (g : Group) (c : Command) : Bool :=
  match c.tileNo with
  | none => true
  | some n => match findTile g n with
    | some t => t.state = fromState c.op
    | none => false

/-! ### Sides -/

/-- A range of a command: its pointer, its bytes, and whether it is a destination. -/
structure Side where
  ptr : DWord
  n : Nat
  dest : Bool

/-- Bytes of the tile that the command names. -/
def tileLen (g : Group) (c : Command) : Nat :=
  match c.tileNo.bind (findTile g) with
  | some t => tdBytes t.desc
  | none => 0

/-- Bytes from the first to the last byte of rows with a pitch. -/
def spanOf (rows pitch bytes : Nat) : Nat := (rows - 1) * pitch + bytes

/-- Rows of the tile of a command. -/
def tileRows (g : Group) (c : Command) : Nat :=
  match c.tileNo.bind (findTile g) with
  | some t => 32 * tdRb t.desc
  | none => 0

/-- Bytes that a DRAIN writes for one row. -/
def drainRow (c : Command) : Nat := match drainFmt (c.w 1) with | some f => 128 * Fmt.bytes f | none => 0

/-- The global ranges that a command registers (R216, step 4). -/
def sidesOf (g : Group) (c : Command) : List Side :=
  match c.op with
  | 1 => [⟨c.at2 1, spanOf (c.w 6) (64 * bitsOf (c.w 7) 0 16) (c.w 5), false⟩, ⟨c.at2 3, spanOf (c.w 6) (64 * bitsOf (c.w 7) 16 16) (c.w 5), true⟩]
  | 2 | 3 => [⟨c.at2 1, tileLen g c, false⟩]
  | 4 => [⟨c.at2 2, tileLen g c, true⟩]
  | 0x10 => [⟨c.at2 3, 4 * bitsOf (c.w 5) 16 16, false⟩]
  | 0x20 => ⟨c.at2 1, c.w 3, false⟩ :: c.dests.map fun d => ⟨d, c.w 3, true⟩
  | 0x21 => ⟨c.at2 1, 4 * bitsOf (c.w 3) 0 24, false⟩ :: c.dests.map fun d => ⟨d, 4 * bitsOf (c.w 3) 0 24, true⟩
  | 0x30 => [⟨c.at2 2, spanOf (tileRows g c) (c.w 4) (drainRow c), true⟩]
  | _ => []

/-- The pieces of a range, line by line: pointer, bytes before it, bytes in it. -/
def piecesOf (a : DWord) (n : Nat) : List (DWord × Nat × Nat) :=
  let o := a.toNat % 64
  if n = 0 then []
  else (List.range ((o + n + 63) / 64)).map fun k =>
    let lo := if k = 0 then 0 else 64 * k - o
    (a + BitVec.ofNat 64 lo, lo, min n (64 * (k + 1) - o) - lo)

/-- The remote entry that holds all of n bytes from a pointer, and their IA: they go as one send (R372). -/
def wholeRemote (s : State) (part : Nat) (a : DWord) (n : Nat) : Option (RemoteEntry × Nat) :=
  match locate s part a with
  | none => none
  | some p => p.remote.bind fun e => if p.ia + n ≤ e.iabase.toNat + e.last.toNat + 1 then some (e, p.ia) else none

/-- Bytes of a side that lie in host or remote memory. -/
def sideRemote (s : State) (part : Nat) (y : Side) : Nat :=
  if (wholeRemote s part y.ptr y.n).isSome then y.n
  else (piecesOf y.ptr y.n).foldl (fun n q => match locate s part q.1 with
    | some p => if p.remote.isSome then n + q.2.2 else n
    | none => n) 0

/-- The destinations of a command. -/
def destSides (g : Group) (c : Command) : List Side := (sidesOf g c).filter (·.dest)

/-- Bytes that a command sends to host or remote memory. -/
def commandSends (s : State) (g : Group) (c : Command) : Nat := ((destSides g c).map (sideRemote s g.part)).sum

/-- Has a lane pushed, before instruction `before` of its wave, a command that sends and that no engine has accepted yet? A later
send of the lane waits for it, so that sends are numbered in program order (R360; DEDUCED, log 85). -/
def sendsAhead (s : State) (w : Wave) (l : Lane) (before : Nat) : Bool :=
  (findGroup s w.group).any fun g => w.queues.toList.any fun q => q.cmds.any fun c =>
    c.state = .pushed && c.lane = l && c.order < before && commandSends s g c ≠ 0

end Sys2Proof.Machine
end

