-- ==== Sys2Proof/Machine/Memory.lean ====
section
/-! DEFINITION. Loads, stores and hints of global memory (R145, R146, R152, R153), the metadata instructions (R154 to
R156), and FENCE, ACQ, REL (R158, R159), CJOIN and CLEAVE (R160 to R163). -/
namespace Sys2Proof.Machine

/-! ### LD and LD.r -/

/-- A loaded value extended by its variant (R71, R145). -/
def extend (v : LdW) (x : Nat) : BitVec 128 :=
  match v with
  | .s8 => w32 (BitVec.ofInt 32 (signedOf x 8))
  | .s16 => w32 (BitVec.ofInt 32 (signedOf x 16))
  | .z8 | .z16 | .b32 | .b64 | .b128 => BitVec.ofNat 128 x

/-- What the lanes of a load have read so far. -/
structure Loaded where
  s : State
  vals : List (Lane × BitVec 128)
  clock : Clock
  missed : Bool

/-- One lane's load performed (R42, R143): its value sampled, or 0 with RMISS when its page is not resident. -/
def loadLane (c : Ctx) (v : Lanes Verdict) (a : Lane → DWord) (n : Nat) (ext : Nat → BitVec 128) (x : Loaded) (l : Lane) : Loaded :=
  match v.get l with
  | .ok p =>
    let (y, k, s1) := loadSpot x.s c p n
    { s := c.watch s1 l 0 (a l) n, vals := x.vals ++ [(l, ext y)], clock := clockMax x.clock k
      missed := x.missed || (p.remote.isNone && missesLlc x.s c.die c.core p.ia) }
  | .absent _ =>
    { x with s := modWave x.s c.w.id fun w => { w with rmiss := w.rmiss ||| Mask.of (· = l) } }
  | .need _ | .poison _ | .fail .. => x

/-- The value a lane has read. -/
def Loaded.val (x : Loaded) (l : Lane) : BitVec 128 := ((x.vals.find? fun y => y.1 = l).map (·.2)).getD 0

/-- Does the verdict find a resident page? -/
def resident (v : Verdict) : Bool :=
  match v with
  | .ok _ => true
  | .absent _ | .need _ | .poison _ | .fail .. => false

/-- The load of the lanes of m sent: its result will be written when it returns (R145). -/
def sendLoad (c : Ctx) (v : Lanes Verdict) (a : Lane → DWord) (n : Nat) (ext : Nat → BitVec 128) (pred : Option Pred) (m : Mask) : State :=
  let x := m.lanes.foldl (loadLane c v a n ext) { s := c.s, vals := [], clock := Clock.zero, missed := false }
  let p : PendLoad :=
    { flight := none
      dst := match c.sh.dst with | some (d, k) => if c.sh.k then none else some (regKey c.w d, k) | none => none
      pc := c.r.pc, pred := pred.map fun q => (q, m &&& Mask.of fun l => resident (v.get l)), mask := m
      vals := Lanes.of x.val, tick := c.w.tick, clock := x.clock, missed := x.missed }
  modWave x.s c.w.id fun w => { w with pend := w.pend ++ [p] }

/-- The verdict of a load, which consumes the poison of the data it would read (R356). -/
def loadVerdict (s : State) (w : Wave) (v : Verdict) : Verdict :=
  match v with
  | .ok p => if dataPoisoned s w p then .poison .memory else v
  | .absent _ | .need _ | .poison _ | .fail .. => v

/-- Does a lane read remote memory, and has the load not been sent yet (R313)? -/
def remoteUnasked (c : Ctx) (v : Lanes Verdict) : Bool :=
  c.w.asked ≠ some c.r.pc && c.exec.lanes.any fun l => match spotIn (v.get l) with
    | some p => p.remote.isSome
    | none => false

/-- The remote loads of an instruction leave, in ascending order of lanes. -/
def askLoads (c : Ctx) (v : Lanes Verdict) (n : Nat) : State :=
  c.exec.lanes.foldl (fun s l => match spotIn (v.get l) with
    | some p => askRemote s c.w l p n
    | none => s) c.s

/-- Does a lane meet a line with an atomic of the wave on its way (R169)? -/
def meetsAtomic (c : Ctx) (v : Lanes Verdict) : Bool :=
  c.exec.lanes.any fun l => match spotIn (v.get l) with
    | some p => atomPending c.s c.w c.die (p.ia / 64)
    | none => false

/-- LD and LD.r (R145): each lane's address, the width, the extension and the predicate of LD.r. A load of remote memory is
sent first and waits for its answer; an endpoint that is fenced meanwhile makes it trap with PERM (R313). -/
def loadBody (c : Ctx) (a : Lane → DWord) (n : Nat) (ext : Nat → BitVec 128) (pred : Option Pred) : Res :=
  let v := Lanes.of fun l => loadVerdict c.s c.w (verdictOf c.s c.w l (a l) n false)
  if meetsAtomic c v then .wait c.s .operand
  else if remoteUnasked c v then .wait (modWave (askLoads c v n) c.w.id fun w => { w with asked := some c.r.pc }) .operand
  else access c v (sendLoad c v a n ext pred) fun t =>
    .done { s := t, adv := c.exec, vals := match c.sh.dst with | some (.q _, _) => none | _ => some (Lanes.of fun _ => 0)
            ends := c.sh.ends, back := false, goes := onward }

/-- The effective pointer of a lane (R140). -/
def Ctx.ptr (c : Ctx) (off : Int) (n : Nat) (l : Lane) : DWord := effective (c.pair 0 l) off n

/-- A lane's load in scout: the value of an L1 hit, or none with what it leaves (R167). A line with an atomic of the wave on
its way is not read, as outside scout (R169). -/
def scoutLoad (c : Ctx) (h : Shadow) (a : DWord) (n : Nat) (s : State) (l : Lane) : Option Nat × State :=
  let drop : State := modWave s c.w.id fun w => { w with counters := { w.counters with scoutDrops := w.counters.scoutDrops + 1 } }
  if (poisonOf h c.w c.sh).has l then (none, s)
  else match verdictOf c.s c.w l a n false with
    | .ok p =>
      if p.remote.isSome || dataPoisoned s c.w p then (none, drop)
      else if atomPending s c.w c.die (p.ia / 64) then (none, s)
      else match l1Find s c.die c.core (p.ia / 64) with
        | some x => (some (lineGet x (p.ia % 64) n), s)
        | none => (none, touchLine (pacTouch s c.die c.core p.ia none) c.w.part c.die c.core p.ia)
    | .absent _ | .need _ | .poison _ | .fail .. => (none, drop)

/-- LD and LD.r in scout (R167). -/
def scoutLoads (off : Int) (n : Nat) (ext : Nat → BitVec 128) (pred : Option Pred) (c : Ctx) : Scout :=
  match shadowOf c.s c.w.id with
  | none => .ends
  | some h =>
    let start : State × List (Lane × Nat) := (c.s, [])
    let x := c.exec.lanes.foldl (fun (x : State × List (Lane × Nat)) l =>
      let y := scoutLoad c h (c.ptr off n l) n x.1 l
      (y.2, match y.1 with | some v => x.2 ++ [(l, v)] | none => x.2)) start
    let hit (l : Lane) : Bool := x.2.any fun y => y.1 = l
    let val (l : Lane) : BitVec 128 := ext (((x.2.find? fun y => y.1 = l).map (·.2)).getD 0)
    let s1 := match c.sh.dst with
      | some (d, k) => writeReg x.1 c.w c.r.pc c.exec d k c.sh.k val
      | none => x.1
    let s2 := match pred with
      | some p => writePred s1 c.w c.exec p hit
      | none => s1
    .done ⟨s2, c.exec, match c.sh.dst with | some (d, _) => latchOf c d val | none => none, c.sh.ends, false, onward⟩
      (c.exec &&& Mask.of fun l => !hit l)

/-- LD (R145). -/
def execLd (e k : Bool) (d a : Reg) (o : BitVec 7) (v : LdW) (s : State) : Host.Outcome State Fault Refusal :=
  issue (.ld e k d a o v) s (scoutLoads o.toInt v.bytes (extend v) none) fun c =>
    loadBody c (c.ptr o.toInt v.bytes) v.bytes (extend v) none

/-- LD.r (R145). -/
def execLdR (e k : Bool) (d a : Reg) (p : Fin 8) (o : BitVec 4) (v : LdW) (s : State) : Host.Outcome State Fault Refusal :=
  issue (.ldR e k d a p o v) s (scoutLoads o.toInt v.bytes (extend v) (some p)) fun c =>
    loadBody c (c.ptr o.toInt v.bytes) v.bytes (extend v) (some p)

/-! ### ST -/

/-- The stores of the lanes of m, in ascending order (R143, R146). -/
def storeLanes (c : Ctx) (v : Lanes Verdict) (a : Lane → DWord) (bytes : Lane → List Byte) (m : Mask) : State :=
  m.lanes.foldl (fun s l => match spotIn (v.get l) with
    | some p => storeSpot s c l (a l) p (bytes l)
    | none => s) c.s

/-- The lanes whose word lies in remote memory. -/
def remoteLanes (c : Ctx) (v : Lanes Verdict) : Mask := c.exec &&& Mask.of fun l => match spotIn (v.get l) with
  | some p => p.remote.isSome
  | none => false

/-- Do stores to remote memory wait: for room in the partition's share of the held buffer (R351), or for a command that sends before
them (R360)? -/
def storeWaits (c : Ctx) (v : Lanes Verdict) (n : Nat) : Bool :=
  let m := remoteLanes c v
  m ≠ 0 && (!heldRoom c.s c.w.part (n * m.count) || m.lanes.any fun l => sendsAhead c.s c.w l c.w.tick)

/-- ST (R146). -/
def storeBody (c : Ctx) (off : Int) (n : Nat) : Res :=
  let v := Lanes.of fun l => verdictOf c.s c.w l (c.ptr off n l) n true
  if storeWaits c v n then .wait c.s .operand
  else access c v (storeLanes c v (c.ptr off n) fun l => bytesOf (c.data 1 (regsOfBytes n) l).toNat n) c.done

/-- ST (R146). -/
def execSt (e : Bool) (d a : Reg) (o : BitVec 7) (v : StW) (s : State) : Host.Outcome State Fault Refusal :=
  issue (.st e d a o v) s scoutSkips fun c => storeBody c o.toInt v.bytes

/-! ### PREF and PAGEREQ -/

/-- One lane's hint (R152): none when it is dropped. -/
def prefSpot (s : State) (c : Ctx) (a : DWord) (l : Lane) : Option Spot :=
  match locate s c.w.part a with
  | none => none
  | some p =>
    let m := metaAt s c.w p
    if p.rp && pointerKey a = keyOf m && (colourOf m = 0 || holds (laneOf c.w l) (colourOf m)) && p.res && p.remote.isNone
    then some p else none

/-- The hint of the lanes of m (R152); `l1` says whether the line goes into L1 too, `count` counts a drop. A line with an
atomic of the wave on its way does not go into L1: what a later load reads would change (R169, R269). -/
def hint (c : Ctx) (off : Int) (l1 : Bool) (count : Wave → Wave) (m : Mask) : State :=
  m.lanes.foldl (fun s l =>
    match prefSpot s c (c.ptr off 1 l) l with
    | some p =>
      let s1 := pacTouch s c.die c.core p.ia none
      if l1 && !atomPending s c.w c.die (p.ia / 64) then touchLine s1 c.w.part c.die c.core p.ia
      else bankLine s1 c.w.part c.die (p.ia / 64)
    | none => modWave s c.w.id count) c.s

/-- A dropped hint counted (R228). -/
def prefDrop (w : Wave) : Wave := { w with counters := { w.counters with prefDrops := w.counters.prefDrops + 1 } }
/-- A hint dropped in scout (R167). -/
def scoutDrop (w : Wave) : Wave := { w with counters := { w.counters with scoutDrops := w.counters.scoutDrops + 1 } }

/-- PREF in scout: nothing for a poisoned address, else as outside, its drops counted as scout drops (R167). -/
def scoutPref (off : Int) (l1 : Bool) (c : Ctx) : Scout :=
  match shadowOf c.s c.w.id with
  | none => .ends
  | some h => .done ⟨hint c off l1 scoutDrop (c.exec &&& ~~~poisonOf h c.w c.sh), c.exec, none, c.sh.ends, false, onward⟩ 0

/-- PREF.l1 (R152). -/
def execPrefL1 (e : Bool) (a : Reg) (o : BitVec 7) (s : State) : Host.Outcome State Fault Refusal :=
  issue (.prefL1 e a o) s (scoutPref o.toInt true) fun c => c.done (hint c o.toInt true prefDrop c.exec)

/-- PREF.llc (R152). -/
def execPrefLlc (e : Bool) (a : Reg) (o : BitVec 7) (s : State) : Host.Outcome State Fault Refusal :=
  issue (.prefLlc e a o) s (scoutPref o.toInt false) fun c => c.done (hint c o.toInt false prefDrop c.exec)

/-- PAGEREQ's own check (R153). -/
def verdictPage (s : State) (w : Wave) (a : DWord) : Verdict :=
  match locate s w.part a with
  | none => failAt .perm a
  | some p => if p.rp || p.wp then .ok p else failAt .perm a

/-- Requests for the pages of the lanes of m (R153). -/
def requestPages (c : Ctx) (v : Lanes Verdict) (m : Mask) : State :=
  m.lanes.foldl (fun s l => match spotIn (v.get l) with
    | some p => match p.page with
      | some g => if p.res then s else requestPage s c.w.part g
      | none => s
    | none => s) c.s

/-- PAGEREQ (R153). -/
def execPagereq (e : Bool) (a : Reg) (o : BitVec 7) (s : State) : Host.Outcome State Fault Refusal :=
  issue (.pagereq e a o) s scoutSkips fun c =>
    let v := Lanes.of fun l => verdictPage c.s c.w (c.ptr o.toInt 1 l)
    accessWhole c v (c.done (requestPages c v c.exec))

/-! ### COLOUR, TAGSET and TAGGET -/

/-- The granules of a range of COLOUR or TAGSET (R154, R155). -/
def granules (a : DWord) (x : Word) : List DWord :=
  (List.range (bitsOf x.toNat 16 16 + 1)).map fun k => a + BitVec.ofNat 64 (64 * k)

/-- The colours of a range that the lane does not hold, ascending (R155). -/
def rangeColours (s : State) (w : Wave) (l : Lane) (ps : List (DWord × Spot)) : List (BitVec 6) :=
  let cs := ps.map fun p => colourOf (metaAt s w p.2)
  (List.range 64).filterMap fun k =>
    let c := BitVec.ofNat 6 k
    if c ≠ 0 && cs.contains c && !holds (laneOf w l) c then some c else none

/-- The checks of R155 for one lane: the granules it may write, or what its range meets. A granule of remote memory has
no metadata word to write (log 22). -/
def verdictRange (s : State) (w : Wave) (l : Lane) (a : DWord) (x : Word) (colour : Bool) : Verdict ⊕ List Spot :=
  let gs := granules a x
  if a.toNat % 64 ≠ 0 then .inl (failAt .align a)
  else
    let ps := gs.filterMap fun g => (locate s w.part g).bind fun p => if p.wp && p.page.isSome then some (g, p) else none
    match gs.find? fun g => !(ps.any fun p => p.1 = g) with
    | some g => .inl (failAt .perm g)
    | none =>
      if ps.any fun p => metaPoisoned s w p.2 then .inl (.poison .metadata)
      else match if colour then ps.find? (fun p => pointerKey a ≠ keyOf (metaAt s w p.2)) else none with
      | some p => .inl (failAt .tag p.1)
      | none =>
        match rangeColours s w l ps with
        | c :: _ => .inl ((colourCheck (laneOf w l) c a).getD (.need c))
        | [] =>
          match gs.find? fun g => rangeCovers s w.part g 64 true with
          | some g => .inl (failAt .rangeLock g)
          | none =>
            match ps.find? fun p => !p.2.res with
            | some p => .inl (failAt .nonresStore p.1)
            | none => .inr (ps.map (·.2))

/-- The granules of one lane written (R155), each by a write of its own under its own pointer (R144, R166). -/
def writeRange (s : State) (c : Ctx) (l : Lane) (a : DWord) (ps : List Spot) (k : FlightKind) : State :=
  (List.range ps.length).foldl (fun t n => match ps[n]? with
    | some p => sendStore t c l (a + BitVec.ofNat 64 (64 * n)) p.ia k
    | none => t) s

/-- COLOUR and TAGSET lane by lane: the state, and the verdict of each lane with its granules written before the next
lane's check (R155). -/
def rangeLanes (c : Ctx) (off : Int) (colour : Bool) (kind : Word → FlightKind) : State × List (Lane × Verdict) :=
  c.exec.lanes.foldl (fun (x : State × List (Lane × Verdict)) l =>
    match verdictRange x.1 c.w l (c.ptr off 64 l) (c.x 1 l) colour with
    | .inl v => (x.1, x.2 ++ [(l, v)])
    | .inr ps => (writeRange x.1 c l (c.ptr off 64 l) ps (kind (c.x 1 l)), x.2)) (c.s, [])

/-- COLOUR and TAGSET (R155, R164): a lane that needs a colour makes the instruction wait before any granule is written. -/
def rangeBody (c : Ctx) (off : Int) (colour : Bool) (kind : Word → FlightKind) : Res :=
  let x := rangeLanes c off colour kind
  let v : Lanes Verdict := Lanes.of fun l => ((x.2.find? fun y => y.1 = l).map (·.2)).getD (.absent ⟨0, none, none, true, true, true, true⟩)
  access c v (fun _ => x.1) c.done

/-- COLOUR (R155). -/
def execColour (e : Bool) (d a : Reg) (o : BitVec 7) (s : State) : Host.Outcome State Fault Refusal :=
  issue (.colour e d a o) s scoutSkips fun c => rangeBody c o.toInt true fun x => .colour (x.extractLsb' 0 6)

/-- TAGSET (R155). -/
def execTagset (e : Bool) (d a : Reg) (o : BitVec 7) (s : State) : Host.Outcome State Fault Refusal :=
  issue (.tagset e d a o) s scoutSkips fun c => rangeBody c o.toInt false fun x => .key (x.extractLsb' 0 4)

/-- TAGGET's own checks (R156). -/
def verdictTag (s : State) (w : Wave) (a : DWord) : Verdict :=
  if a.toNat % 64 ≠ 0 then failAt .align a
  else match locate s w.part a with
    | none => failAt .perm a
    | some p => if !p.rp then failAt .perm a else if metaPoisoned s w p then .poison .metadata else if p.res then .ok p else .absent p

/-- The word that TAGGET writes in a lane: the metadata word, whose bits [5:0] read as zero (R271), 0 where the page is not resident (R156). -/
def tagValue (c : Ctx) (v : Verdict) : BitVec 128 :=
  match v with
  | .ok p => ((metaAt c.s c.w p).extractLsb' 6 10 ++ (0 : BitVec 6)).zeroExtend 128
  | .absent _ | .need _ | .poison _ | .fail .. => 0

/-- One lane of TAGGET performed: it reads the metadata word from L1, else from the bank, and makes no line valid (R298). -/
def tagLane (c : Ctx) (v : Lanes Verdict) (a : Lane → DWord) (s : State) (l : Lane) : State :=
  match v.get l with
  | .ok p =>
    let s1 := coreAccess s c.die c.core p.ia false
    c.watch (if p.remote.isSome then s else if (l1Find s c.die c.core (p.ia / 64)).isSome then s1
      else bankLine s1 c.w.part c.die (p.ia / 64)) l 0 (a l) 64
  | .absent _ => modWave s c.w.id fun w => { w with rmiss := w.rmiss ||| Mask.of (· = l) }
  | .need _ | .poison _ | .fail .. => s

/-- A destination written in the lanes of m. -/
def deliver (c : Ctx) (s : State) (m : Mask) (f : Lane → BitVec 128) : State :=
  match c.sh.dst with
  | some (d, n) => writeReg s c.w c.r.pc m d n c.sh.k f
  | none => s

/-- The completion of an instruction whose destination has been delivered. -/
def delivered (c : Ctx) (f : Lane → BitVec 128) (s : State) : Res :=
  .done ⟨s, c.exec, match c.sh.dst with | some (d, _) => latchOf c d f | none => none, c.sh.ends, false, onward⟩

/-- Does the wave's die count what the home of a line has sent it, where the wave reads the home (R263)? -/
def homeCounted (c : Ctx) (v : Verdict) : Bool :=
  match spotIn v with
  | some p =>
    let line := p.ia / 64
    p.remote.isSome || (l1Find c.s c.die c.core line).isSome || (replicaOf c.s c.die line).isSome
      || clockCounts (clockOf c.s c.die) (clockOf c.s (homeDie p.ia))
  | none => true

/-- TAGGET (R156): what comes from a remote home is delivered once the wave's die counts that home's clock (R263). -/
def tagBody (c : Ctx) (off : Int) : Res :=
  let v := Lanes.of fun l => verdictTag c.s c.w (c.ptr off 64 l)
  let f (l : Lane) : BitVec 128 := tagValue c (v.get l)
  if !(c.exec.lanes.all fun l => homeCounted c (v.get l)) then .wait c.s .operand
  else access c v (fun m => deliver c (m.lanes.foldl (tagLane c v (c.ptr off 64)) c.s) m f) (delivered c f)

/-- Is the metadata word of a line cached where a wave's core reads it: in its L1, in its die's LLC, or in the home's, whose
answer counts once the die counts what the home has sent (R263, R272, R297, R300)? -/
def tagCached (s : State) (die core line : Nat) : Bool :=
  let h := homeDie (64 * line)
  (l1Find s die core line).isSome || (llcLine s die line).isSome
    || ((llcLine s h line).isSome && clockCounts (clockOf s die) (clockOf s h))

/-- TAGGET in scout: delivered where the metadata word is cached (R167). -/
def scoutTag (off : Int) (c : Ctx) : Scout :=
  match shadowOf c.s c.w.id with
  | none => .ends
  | some h =>
    let v (l : Lane) : Verdict := verdictTag c.s c.w (c.ptr off 64 l)
    let hit (l : Lane) : Bool := !(poisonOf h c.w c.sh).has l && match spotIn (v l) with
      | some p => tagCached c.s c.die c.core (p.ia / 64)
      | none => false
    let f (l : Lane) : BitVec 128 := if hit l then tagValue c (v l) else 0
    .done ⟨deliver c c.s c.exec f, c.exec, match c.sh.dst with | some (d, _) => latchOf c d f | none => none, c.sh.ends, false, onward⟩
      (c.exec &&& Mask.of fun l => !hit l)

/-- TAGGET (R156). -/
def execTagget (e k : Bool) (d a : Reg) (o : BitVec 7) (s : State) : Host.Outcome State Fault Refusal :=
  issue (.tagget e k d a o) s (scoutTag o.toInt) fun c => tagBody c o.toInt

/-! ### FENCE, ACQ and REL -/

/-- Has the release at a scope completed (R159)? -/
def released (w : Wave) (sc : Scope) : Bool :=
  match sc with
  | .thread => true
  | .wave | .group => w.pend.isEmpty
  | .clus | .die | .dev | .sys => w.pend.isEmpty && w.stores = 0

/-- Can the acquire at a scope complete (R159)? -/
def acquirable (w : Wave) (sc : Scope) : Bool :=
  match sc with
  | .thread => true
  | .wave | .group | .clus | .die | .dev | .sys => w.pend.isEmpty

/-- What an acquire at a scope does to the core's L1 (R159). -/
def acquireAt (s : State) (c : Ctx) (sc : Scope) : State :=
  match sc with
  | .thread | .wave | .group => s
  | .clus | .die | .dev | .sys => l1DropAll s c.die c.core

/-- FENCE (R158, R159). -/
def execFence (e : Bool) (sc : Scope) (s : State) : Host.Outcome State Fault Refusal :=
  issue (.fence e sc) s scoutSkips fun c =>
    if released c.w sc then c.done (acquireAt c.s c sc) else .wait c.s .fence

/-- ACQ (R158, R159). -/
def execAcq (e : Bool) (sc : Scope) (s : State) : Host.Outcome State Fault Refusal :=
  issue (.acq e sc) s scoutSkips fun c =>
    if acquirable c.w sc then c.done (acquireAt c.s c sc) else .wait c.s .fence

/-- REL (R158, R159). -/
def execRel (e : Bool) (sc : Scope) (s : State) : Host.Outcome State Fault Refusal :=
  issue (.rel e sc) s scoutSkips fun c => if released c.w sc then c.done c.s else .wait c.s .fence

/-! ### CJOIN and CLEAVE -/

/-- The members that a sharing group of a key has in the cluster of a group, one bit per core (R160, R161). -/
def membersOf (s : State) (g : Group) (key : Word) : Word :=
  match g.place with
  | none => 0
  | some (d, k) =>
    BitVec.ofNat 32 ((List.range 4).foldl (fun n j =>
      if s.groups.any fun x => x.sharing = some key && x.part = g.part && x.place = some (d, 4 * (k / 4) + j) then n + 2 ^ j else n) 0)

/-- CJOIN for the group: the state and the status word (R160, R161). -/
def joinSharing (s : State) (g : Group) (key : Word) : State × Word :=
  match g.sharing with
  | some k => (s, membersOf s g k ||| 0x40000000#32)
  | none =>
    if key = 0 then (s, 0x80000000#32)
    else if s.groups.any fun x => x.sharing = some key && x.part = g.part && x.place = g.place && g.place.isSome then
      (s, membersOf s g key ||| 0x80000000#32)
    else
      let s1 := modGroup s g.id fun x => { x with sharing := some key }
      (s1, membersOf s1 { g with sharing := some key } key)

/-- CJOIN (R160); in scout it is skipped, with no effect (R167). -/
def execCjoin (e k : Bool) (d : Reg) (s : State) : Host.Outcome State Fault Refusal :=
  issue (.cjoin e k d) s (fun _ => .skip) fun c =>
    match findGroup c.s c.w.group with
    | none => c.done c.s
    | some g =>
      let x := joinSharing c.s g (c.x 0 c.top)
      delivered c (fun _ => w32 x.2) (deliver c x.1 c.exec fun _ => w32 x.2)

/-- CLEAVE (R162): the group's accesses to peers are performed as they issue, so nothing is left to wait for. -/
def execCleave (e : Bool) (s : State) : Host.Outcome State Fault Refusal :=
  issue (.cleave e) s scoutSkips fun c => c.done (modGroup c.s c.w.group fun g => { g with sharing := none })

end Sys2Proof.Machine
end

