-- ==== Sys2Proof/Machine/Atomics.lean ====
section
/-! DEFINITION. ATOM and RED (R94, R168 to R176): the operations, the combining of lanes, and the request that leaves
the core. -/
namespace Sys2Proof.Machine

/-- A pattern read as an FP32 value. -/
def f32 (x : Nat) : Num := floatVal f32Fmt x

/-- An operation on words of w bits: the new value from the old one, the operand, and the new value of a
compare-and-swap (R176). No flag is set (R90). -/
def atStep (op : AtOp) (old v y : Nat) : Nat :=
  match op with
  | .i o => (redOp o (BitVec.ofNat 32 old) (BitVec.ofNat 32 v)).toNat
  | .x .exch32 | .x .exch64 => v
  | .x .cas32 | .x .cas64 => if old = v then y else old
  | .x .addF => (rounded f32Fmt .rne (addNum .rne (f32 old) (f32 v))).1
  | .x .minF => (minMax true old v).1
  | .x .maxF => (minMax false old v).1
  | .x .add64 => (old + v) % 2 ^ 64

/-- Bytes of the word that an operation acts on (R175). -/
def atBytes (op : AtOp) : Nat :=
  match op with
  | .i _ => 4
  | .x o => o.bytes

/-- Does the operation combine its operands before it meets the location (R94)? The others give what separate atomics in
ascending lane order give. -/
def combines (op : AtOp) : Bool :=
  match op with
  | .x .addF => true
  | .x .exch32 | .x .exch64 | .x .cas32 | .x .cas64 | .x .minF | .x .maxF | .x .add64 | .i _ => false

/-- The lanes of one address at the location: the value left and the value each lane is given (R94). -/
def atLanes (op : AtOp) (old : Nat) : List (Lane × DWord × DWord) → Nat × List (Lane × Nat)
  | [] => (old, [])
  | (l, v, y) :: rest =>
    let r := atLanes op (atStep op old v.toNat y.toNat) rest
    (r.1, (l, old) :: r.2)

/-- The operands combined one after another: each partial value with its lane (R94). -/
def partials (op : AtOp) (acc : Nat) : List (Lane × DWord × DWord) → List (Lane × Nat)
  | [] => []
  | (l, v, _) :: rest => let p := atStep op acc v.toNat 0; (l, p) :: partials op p rest

/-- The one indivisible step at the location for the lanes of one address (R94). -/
def atCombine (op : AtOp) (old : Nat) (ls : List (Lane × DWord × DWord)) : Nat × List (Lane × Nat) :=
  if combines op then
    match ls with
    | [] => (old, [])
    | (l1, v1, _) :: rest =>
      let ps := (l1, v1.toNat) :: partials op v1.toNat rest
      let olds := (l1, old) :: (rest.zip ps).map fun x => (x.1.1, atStep op old x.2.2 0)
      (atStep op old ((ps.getLast?.map (·.2)).getD 0) 0, olds)
  else atLanes op old ls

/-- The operand of a lane and, for a compare-and-swap, its new value (R175). -/
def atOperand (c : Ctx) (op : AtOp) (l : Lane) : DWord × DWord :=
  match op with
  | .x .cas32 => ((c.word 1 0 l).zeroExtend 64, (c.word 1 1 l).zeroExtend 64)
  | .x .cas64 => (Sys2Proof.pair (c.word 1 0 l) (c.word 1 1 l), Sys2Proof.pair (c.word 1 2 l) (c.word 1 3 l))
  | .x .exch64 | .x .add64 => (c.pair 1 l, 0)
  | .i _ | .x .exch32 | .x .addF | .x .minF | .x .maxF => ((c.x 1 l).zeroExtend 64, 0)

/-- One request for the lanes of one address: counted, the line leaves the core's L1, and the result of an ATOM is
pending (R169, R144, R145). -/
def sendAtom (c : Ctx) (op : AtOp) (sc : Scope) (ret : Bool) (ptr : Lane → DWord) (s : State) (x : Nat × List Lane) : State :=
  let f : Flight :=
    { id := s.fresh, wave := c.w.id, launch := c.w.launch, part := c.w.part, die := c.die, core := c.core
      lane := x.2.head?.getD 0, pc := c.r.pc, exec := c.r.exec, ptr := ptr (x.2.head?.getD 0), byHandler := c.w.h, ia := x.1
      kind := .atom op sc (x.2.map fun l => (l, atOperand c op l)) (if ret then some c.w.tick else none)
      counted := true, left := none, performed := none, acked := false, todo := [], issued := s.fresh, atReplica := false }
  let p : PendLoad :=
    { flight := some s.fresh
      dst := match c.sh.dst with | some (d, k) => if c.sh.k then none else some (regKey c.w d, k) | none => none
      pc := c.r.pc, pred := none, mask := Mask.of fun l => x.2.contains l, vals := Lanes.of fun _ => 0, tick := c.w.tick
      clock := Clock.zero, missed := false }
  let s1 := l1DropLine (coreAccess s c.die c.core x.1 true) c.die c.core (x.1 / 64)
  modWave { s1 with flights := s1.flights ++ [f], fresh := s1.fresh + 1 } c.w.id fun w =>
    { w with stores := w.stores + 1, pend := if ret then w.pend ++ [p] else w.pend }

/-- The lanes of m grouped by the address they reach, in ascending order of their first lanes (R94). -/
def byAddress (v : Lanes Verdict) (m : Mask) : List (Nat × List Lane) :=
  let ias := distinct (m.lanes.filterMap fun l => (spotIn (v.get l)).map (·.ia))
  ias.map fun ia => (ia, m.lanes.filter fun l => match spotIn (v.get l) with | some p => p.ia = ia | none => false)

/-- Remote memory takes no atomic (R168). -/
def verdictAtom (s : State) (w : Wave) (l : Lane) (a : DWord) (n : Nat) : Verdict :=
  if a.toNat % n = 0 && (match locate s w.part a with | some p => p.page.isNone | none => false) then failAt .perm a
  else verdictOf s w l a n true

/-- ATOM and RED (R172, R176). -/
def atomBody (c : Ctx) (op : AtOp) (sc : Scope) (off : Int) (ret : Bool) : Res :=
  let n := atBytes op
  let v := Lanes.of fun l => verdictAtom c.s c.w l (c.ptr off n l) n
  access c v (fun m => (byAddress v m).foldl (sendAtom c op sc ret (c.ptr off n)) c.s) fun t =>
    .done { s := t, adv := c.exec, vals := if ret then some (Lanes.of fun _ => 0) else none, ends := c.sh.ends, back := false
            goes := onward }

/-- ATOM with the 32-bit integer operations (R176). -/
def execAtomInt (e k : Bool) (d a : Reg) (sc : Scope) (o : BitVec 4) (v : RedOp) (s : State) : Host.Outcome State Fault Refusal :=
  issue (.atomInt e k d a sc o v) s scoutSkips fun c => atomBody c (.i v) sc o.toInt true

/-- ATOM with exchange, compare-and-swap, float and 64-bit operations (R176). -/
def execAtomExt (e k : Bool) (d a : Reg) (sc : Scope) (o : BitVec 4) (v : AtomX) (s : State) : Host.Outcome State Fault Refusal :=
  issue (.atomExt e k d a sc o v) s scoutSkips fun c => atomBody c (.x v) sc o.toInt true

/-- RED with the 32-bit integer operations (R176). -/
def execRedInt (e : Bool) (d a : Reg) (sc : Scope) (o : BitVec 4) (v : RedOp) (s : State) : Host.Outcome State Fault Refusal :=
  issue (.redInt e d a sc o v) s scoutSkips fun c => atomBody c (.i v) sc o.toInt false

/-- The operation of a RED of major 0x33 (R61). -/
def redX (v : RedX) : AtomX :=
  match v with
  | .addF => .addF | .minF => .minF | .maxF => .maxF | .add64 => .add64

/-- RED with the float operations and 64-bit add (R176). -/
def execRedExt (e : Bool) (d a : Reg) (sc : Scope) (o : BitVec 4) (v : RedX) (s : State) : Host.Outcome State Fault Refusal :=
  issue (.redExt e d a sc o v) s scoutSkips fun c => atomBody c (.x (redX v)) sc o.toInt false

end Sys2Proof.Machine
end

