-- ==== Sys2Proof/Machine/Buffers.lean ====
section
/-! DEFINITION. Thread access to the A-buffer, to a peer's A-buffer and to the C-buffer (R142, R147, R148, R200). -/
namespace Sys2Proof.Machine

/-- A place in the A-buffer reservation of a group. -/
structure BufSpot where
  group : Nat
  off : Nat
  /-- a peer's reservation, by .pa -/
  peer : Bool

/-- What the checks find for a lane's buffer access: it may be done, it waits, or it fails. -/
inductive BufVerdict where
  | ok (p : BufSpot)
  | wait
  | fail (rank : Nat) (t : Trap) (a : DWord)

/-- The 32-bit address of a lane (R142). -/
def Ctx.off32 (c : Ctx) (o : Int) (n : Nat) (l : Lane) : Word := c.x 0 l + BitVec.ofInt 32 (o * n)

/-- The group whose reservation a .pa address names (R142). -/
def peerOf (s : State) (g : Group) (a : Word) : Option Group :=
  match g.place, g.sharing with
  | some (d, k), some _ => s.groups.find? fun x => sameSharing x g && x.place = some (d, 4 * (k / 4) + bitsOf a.toNat 24 2)
  | _, _ => none

/-- A failed check of a buffer access, its address zero-extended. -/
def bufFail (t : Trap) (a : Word) : BufVerdict := .fail (rankOf t) t (a.zeroExtend 64)

/-- The checks of an access of n bytes of a reservation (R142, R151), and the wait of R200. -/
def verdictOff (s : State) (x : Group) (off n : Nat) (a : Word) (peer write : Bool) : BufVerdict :=
  if 1024 * x.abufKiB < off + n then bufFail .perm a
  else if bufferCovers s x.id off n write then bufFail .rangeLock a
  else if write && arrayReads x off n then .wait
  else .ok ⟨x.id, off, peer⟩

/-- The checks of LDA and STA for one lane (R141, R142). -/
def verdictBuf (s : State) (w : Wave) (a : Word) (n : Nat) (peer write : Bool) : BufVerdict :=
  if a.toNat % n ≠ 0 then bufFail .align a
  else match findGroup s w.group with
    | none => bufFail .perm a
    | some g =>
      if !peer then verdictOff s g a.toNat n a false write
      else match peerOf s g a with
        | none => bufFail .peerGone a
        | some x =>
          if bitsOf a.toNat 19 5 ≠ 0 || bitsOf a.toNat 26 6 ≠ 0 then bufFail .perm a
          else verdictOff s x (bitsOf a.toNat 0 19) n a true write

/-- A verdict as `worst` reads it. -/
def bufRank (v : BufVerdict) : Verdict :=
  match v with
  | .ok _ | .wait => .absent ⟨0, none, none, true, true, true, true⟩
  | .fail r t a => .fail r t a

/-- The place a lane may access. -/
def bufSpot (v : BufVerdict) : Option BufSpot :=
  match v with
  | .ok p => some p
  | .wait | .fail .. => none

/-- Does a lane wait? -/
def bufWaits (v : BufVerdict) : Bool :=
  match v with
  | .wait => true
  | .ok _ | .fail .. => false

/-- Is a 4-byte word under n bytes of a buffer poisoned (R355)? -/
def bufPoisoned (s : State) (g buf off n : Nat) : Bool :=
  s.poisonBuf.any fun q => q.1 = g && q.2.1 = buf && 4 * q.2.2 < off + n && off < 4 * q.2.2 + 4

/-- Would the lane read a poisoned word of a buffer (R356)? -/
def bufDirty (s : State) (v : BufVerdict) (buf n : Nat) : Bool :=
  match bufSpot v with
  | some p => bufPoisoned s p.group buf p.off n
  | none => false

/-- n bytes of a group's A-buffer reservation. -/
def abufRead (s : State) (p : BufSpot) (n : Nat) : Nat :=
  match findGroup s p.group with
  | some g => readN g.abuf p.off n
  | none => 0

/-- An access of the A-buffer meets the watch slots (R229, R230). -/
def watchBuf (s : State) (c : Ctx) (l : Lane) (kind : Nat) (p : BufSpot) (n : Nat) : State :=
  watchAccess s { wave := c.w.id, lane := l, pc := c.r.pc, exec := c.r.exec, kind := kind, eng := none
                  ptr := BitVec.ofNat 64 p.off, len := n, die := c.die, core := c.core, bank := none, abuf := some p.group, byHandler := c.w.h }

/-- Bytes written to a group's buffer; a word overwritten whole loses its poison mark (R356). -/
def bufWrite (s : State) (g buf off : Nat) (bs : List Byte) : State :=
  modGroup { s with poisonBuf := s.poisonBuf.filter fun q => !(q.1 = g && q.2.1 = buf && off ≤ 4 * q.2.2 && 4 * q.2.2 + 4 ≤ off + bs.length) } g
    fun x => setBuf x buf (writeBytes (bufOf x buf).1 off bs)

/-- An access of lanes of a buffer: a lane that fails is reported, the others done but for those that must wait; else
the instruction waits while a lane must; else every lane does its access (R147, R148, R164, R200). -/
def bufAccess (c : Ctx) (v : Lanes BufVerdict) (perform : Mask → State) (finish : State → Res) : Res :=
  let okm := Mask.of fun l => c.exec.has l && (bufSpot (v.get l)).isSome
  match worst (Lanes.of fun l => bufRank (v.get l)) c.exec with
  | some (t, m, a) => .trap (countTrap (perform okm) c.w t) (.at t m okm c.r a)
  | none =>
    if c.exec.lanes.any fun l => bufWaits (v.get l) then .wait c.s .tile else finish (perform okm)

/-- LDA (R147). -/
def ldaBody (c : Ctx) (o : Int) (n : Nat) (peer : Bool) : Res :=
  let v := Lanes.of fun l => verdictBuf c.s c.w (c.off32 o n l) n peer false
  let f (l : Lane) : BitVec 128 := match bufSpot (v.get l) with
    | some p => BitVec.ofNat 128 (abufRead c.s p n)
    | none => 0
  let dirty := c.exec &&& Mask.of fun l => bufDirty c.s (v.get l) 0 n
  if dirty ≠ 0 then .settled (consumeBy c.s c.w dirty .buffer)
  else bufAccess c v
    (fun m => deliver c (m.lanes.foldl (fun s l => match bufSpot (v.get l) with
      | some p => watchBuf s c l 0 p n
      | none => s) c.s) m f)
    (delivered c f)

/-- Any poisoned source poisons its lanes; a .pa access poisons every lane (R167). -/
def scoutLda (o : Int) (n : Nat) (peer : Bool) (c : Ctx) : Scout :=
  match shadowOf c.s c.w.id with
  | none => .ends
  | some h =>
    let p := poisonOf h c.w c.sh
    let v (l : Lane) : BufVerdict := verdictBuf c.s c.w (c.off32 o n l) n peer false
    let hit (l : Lane) : Bool := !peer && !p.has l && (bufSpot (v l)).isSome && !bufDirty c.s (v l) 0 n
    let f (l : Lane) : BitVec 128 := if hit l then (match bufSpot (v l) with | some q => BitVec.ofNat 128 (abufRead c.s q n) | none => 0) else 0
    .done ⟨deliver c c.s c.exec f, c.exec, match c.sh.dst with | some (d, _) => latchOf c d f | none => none, c.sh.ends, false, onward⟩
      (c.exec &&& Mask.of fun l => !hit l)

/-- LDA (R147). -/
def execLda (e k : Bool) (d a : Reg) (o : BitVec 7) (u : Bool) (w : BufW) (s : State) : Host.Outcome State Fault Refusal :=
  issue (.lda e k d a o u w) s (scoutLda o.toInt w.bytes u) fun c => ldaBody c o.toInt w.bytes u

/-- A lane's store into a reservation; one into a peer's is counted until it is acknowledged (R144). -/
def staLane (c : Ctx) (n : Nat) (s : State) (l : Lane) (p : BufSpot) : State :=
  let bs := bytesOf (c.data 1 (regsOfBytes n) l).toNat n
  let s1 := watchBuf (bufWrite s p.group 0 p.off bs) c l 1 p n
  if p.peer then awaitAck s1 c l ((c.x 0 l).zeroExtend 64) p.off else s1

/-- STA (R147): performed as it issues, at the group's own reservation and at a peer's. -/
def staBody (c : Ctx) (o : Int) (n : Nat) (peer : Bool) : Res :=
  let v := Lanes.of fun l => verdictBuf c.s c.w (c.off32 o n l) n peer true
  bufAccess c v
    (fun m => m.lanes.foldl (fun s l => match bufSpot (v.get l) with
      | some p => staLane c n s l p
      | none => s) c.s)
    c.done

/-- STA (R147). -/
def execSta (e : Bool) (d a : Reg) (o : BitVec 7) (u : Bool) (w : BufW) (s : State) : Host.Outcome State Fault Refusal :=
  issue (.sta e d a o u w) s scoutSkips fun c => staBody c o.toInt w.bytes u

/-- The C tile that holds n bytes at an offset whole; the lowest-numbered where regions overlap (log 23). -/
def tileAt (g : Group) (off n : Nat) : Option Tile :=
  minBy (fun t => t.n.val) (g.tiles.filter fun t => tdKind t.desc = 2 && tdBase t.desc ≤ off && off + n ≤ tdBase t.desc + tdBytes t.desc)

/-- The checks of LDC for one lane (R142, R148, R200). -/
def verdictCell (s : State) (w : Wave) (a : Word) (n : Nat) : BufVerdict :=
  if a.toNat % n ≠ 0 then bufFail .align a
  else match findGroup s w.group with
    | none => bufFail .perm a
    | some g =>
      if bitsOf a.toNat 18 14 ≠ 0 || 1024 * g.cbufKiB < a.toNat + n then bufFail .perm a
      else match tileAt g a.toNat n with
        | none => bufFail .perm a
        | some t =>
          if t.busy ≠ 0 then .wait
          else match t.state with
            | .ready | .draining => .ok ⟨g.id, a.toNat, false⟩
            | .filling => .wait
            | .empty => bufFail .perm a

/-- n bytes of a group's C-buffer reservation. -/
def cbufRead (s : State) (p : BufSpot) (n : Nat) : Nat :=
  match findGroup s p.group with
  | some g => readN g.cbuf p.off n
  | none => 0

/-- LDC (R148). It meets no watch slot: the .c space is neither of the two that a slot can name, .g and the .a accesses of a
reservation, though R229 lists LDC among the loads (DESIGN CHOICE, log 87). -/
def ldcBody (c : Ctx) (o : Int) (n : Nat) : Res :=
  let v := Lanes.of fun l => verdictCell c.s c.w (c.off32 o n l) n
  let f (l : Lane) : BitVec 128 := match bufSpot (v.get l) with
    | some p => BitVec.ofNat 128 (cbufRead c.s p n)
    | none => 0
  let dirty := c.exec &&& Mask.of fun l => bufDirty c.s (v.get l) 2 n
  if dirty ≠ 0 then .settled (consumeBy c.s c.w dirty .buffer)
  else bufAccess c v (fun m => deliver c c.s m f) (delivered c f)

/-- The checks of LDC in scout: a ready or draining tile is read, busy or not (R167). -/
def verdictCellScout (s : State) (w : Wave) (a : Word) (n : Nat) : BufVerdict :=
  verdictCell (modGroup s w.group fun g => { g with tiles := g.tiles.map fun t => { t with busy := 0 } }) w a n

/-- LDC in scout: read on a ready or draining tile, else poisoned (R167). -/
def scoutLdc (o : Int) (n : Nat) (c : Ctx) : Scout :=
  match shadowOf c.s c.w.id with
  | none => .ends
  | some h =>
    let p := poisonOf h c.w c.sh
    let v (l : Lane) : BufVerdict := verdictCellScout c.s c.w (c.off32 o n l) n
    let hit (l : Lane) : Bool := !p.has l && (bufSpot (v l)).isSome && !bufDirty c.s (v l) 2 n
    let f (l : Lane) : BitVec 128 := if hit l then (match bufSpot (v l) with | some q => BitVec.ofNat 128 (cbufRead c.s q n) | none => 0) else 0
    .done ⟨deliver c c.s c.exec f, c.exec, match c.sh.dst with | some (d, _) => latchOf c d f | none => none, c.sh.ends, false, onward⟩
      (c.exec &&& Mask.of fun l => !hit l)

/-- LDC (R148). -/
def execLdc (e k : Bool) (d a : Reg) (o : BitVec 7) (w : LdcW) (s : State) : Host.Outcome State Fault Refusal :=
  issue (.ldc e k d a o w) s (scoutLdc o.toInt w.bytes) fun c => ldcBody c o.toInt w.bytes

end Sys2Proof.Machine
end

