-- ==== Sys2Proof/Machine/Quadrant.lean ====
section
/-! DEFINITION. The register blocks of a quadrant (R20, R115, R326, R335). -/
namespace Sys2Proof.Machine

/-- The waves resident in a quadrant. -/
def quadWaves (s : State) (die core quad : Nat) : List Wave :=
  s.waves.filter fun w => match w.place with
    | some p => p.die = die && p.core = core && p.quad = quad
    | none => false

/-- Is the reserved Clover slot of the quadrant free (R326)? -/
def reservedFree (s : State) (die core quad : Nat) : Bool :=
  (quadWaves s die core quad).all fun w => match w.place with | some p => !p.reserved | none => true

/-- Shadows that hold blocks of the quadrant (R335). -/
def quadShadows (s : State) (die core quad : Nat) : List Nat :=
  (s.shadows.map (·.wave)).filter fun n => (quadWaves s die core quad).any fun w => w.id = n

/-- Register blocks of the quadrant that no wave, shadow or reserve holds. -/
def freeBlocks (s : State) (die core quad : Nat) : Nat :=
  Config.blocksPerQuad - (quadWaves s die core quad).foldl (fun n w => n + w.blks.toNat) 0
    - 2 * (quadShadows s die core quad).length - (if reservedFree s die core quad then 1 else 0)

/-- Waves whose claim waits in the quadrant, with their claims (R115). -/
def quadClaims (s : State) (die core quad : Nat) : List (Wave × Nat × Nat) :=
  (quadWaves s die core quad).filterMap fun w => w.claim.map fun c => (w, c.1, c.2)

/-- Free blocks that pass to the oldest waiting claim of the quadrant and to nobody else (R116). -/
def claimReserve (s : State) (die core quad : Nat) : Nat :=
  match minBy (fun x => x.2.2) (quadClaims s die core quad) with
  | some x => min x.2.1 (freeBlocks s die core quad)
  | none => 0

/-- Free blocks of the quadrant that a wave which is placed there may take (R116). -/
def openBlocks (s : State) (die core quad : Nat) : Nat := freeBlocks s die core quad - claimReserve s die core quad

/-- The most blocks that a claim of a wave may add before it traps (R115), when `extra` more waves stood in the
quadrant. -/
def claimBound (s : State) (w : Wave) (p : Place) (extra : Nat) : Nat :=
  Config.blocksPerQuad - w.blks.toNat - ((quadWaves s p.die p.core p.quad).filter fun v => v.id ≠ w.id).length - extra
    - (if reservedFree s p.die p.core p.quad then 1 else 0)

/-- Blocks granted to a wave: numbered on from its last, and zero (R20, R115). -/
def addBlocks (w : Wave) (n : Nat) : Wave := { w with blks := w.blks + BitVec.ofNat 4 n }

/-- No error mark of registers that stood there before stays in blocks that a wave is granted (R115, R356). -/
def freshBlocks (s : State) (w : Wave) (n : Nat) : State := clearPoison s w.id (32 * w.blks.toNat) (32 * n) (Mask.of fun _ => true)

/-- Every scout of the quadrant ends (R115). -/
def endScouts (s : State) (die core quad : Nat) : State := (quadShadows s die core quad).foldl endScout s

/-- The n highest-numbered blocks given back: their contents are lost (R116). -/
def dropBlocks (w : Wave) (n : Nat) : Wave :=
  let top := 32 * (w.blks.toNat - n)
  { w with
    blks := w.blks - BitVec.ofNat 4 n
    lanes := Lanes.of fun l => { w.lanes.get l with regs := (w.lanes.get l).regs.filter fun r => r.1 < top }
    tags := w.tags.filter fun t => t.1 < top
    pend := w.pend.map fun p => { p with dst := p.dst.bind fun d => if top ≤ d.1 && d.1 < 256 then none else some d } }

end Sys2Proof.Machine
end

