-- ==== Sys2Proof/Machine/Control.lean ====
section
/-! DEFINITION. The register window (R113 to R116), branches (R117 to R119), calls and returns (R34 to R37, R120, R121),
EXIT (R122, R187) and NOP. -/
namespace Sys2Proof.Machine

/-! ### Window and blocks -/

/-- WINB (R114). -/
def execWinb (e : Bool) (n : Fin 8) (s : State) : Host.Outcome State Fault Refusal :=
  issue (.winb e n) s scoutEnds fun c =>
    if c.w.blks.toNat ≤ n.val then c.trap .window c.exec 0
    else c.done (modWave c.s c.w.id fun w => { w with winb := BitVec.ofFin n })

/-- RCLAIM for a wave at a place (R115). -/
def claimBlocks (c : Ctx) (p : Place) (n : Nat) : Res :=
  if c.w.granted then c.done (modWave c.s c.w.id fun w => { w with granted := false })
  else if 8 < c.w.blks.toNat + n || claimBound c.s c.w p 0 < n then c.trap .regClaim c.exec 0
  else
    let s1 := endScouts c.s p.die p.core p.quad
    let older := (quadClaims s1 p.die p.core p.quad).any fun x => x.1.id ≠ c.w.id &&
      (match c.w.claim with | some y => x.2.2 < y.2 | none => true)
    if n ≤ freeBlocks c.s p.die p.core p.quad && !older then
      c.done (modWave (freshBlocks c.s c.w n) c.w.id fun w => { addBlocks w n with claim := none })
    else
      .wait (modWave { s1 with fresh := s1.fresh + 1 } c.w.id fun w =>
        { w with claim := some (w.claim.getD (n, c.s.fresh)) }) .claim

/-- RCLAIM (R115). -/
def execRclaim (e : Bool) (n : Fin 8) (s : State) : Host.Outcome State Fault Refusal :=
  issue (.rclaim e n) s scoutEnds fun c =>
    match c.w.place with
    | some p => claimBlocks c p n.val
    | none => .wait c.s .claim

/-- RGIVE (R116). -/
def execRgive (e : Bool) (n : Fin 8) (s : State) : Host.Outcome State Fault Refusal :=
  issue (.rgive e n) s scoutEnds fun c =>
    if c.w.blks.toNat ≤ n.val then c.trap .regClaim c.exec 0
    else if c.w.blks.toNat - n.val ≤ c.w.winb.toNat then c.trap .window c.exec 0
    else c.done (modWave c.s c.w.id fun w => dropBlocks w n.val)

/-! ### Branches -/

/-- The target of a branch (R51). -/
def target (pc : Pc) (o : BitVec 20) : Pc := pc + 4 * o.signExtend 48

/-- Lanes for which the test holds go to the target; the others go on (R117, R118). -/
def branch (c : Ctx) (o : BitVec 20) (taken : Lane → Bool) : Res :=
  let t := target c.r.pc o
  .done { s := c.s, adv := c.exec, vals := none, ends := true
          back := c.exec.lanes.any taken && decide (t.toNat ≤ c.r.pc.toNat)
          goes := fun l => if taken l then some t else none }

/-- BRA (R117). -/
def execBra (e : Bool) (o : BitVec 20) (s : State) : Host.Outcome State Fault Refusal :=
  runWord (.bra e o) s fun c => branch c o fun _ => true

/-- BRP (R117); scout ends before a poisoned predicate (R124). -/
def execBrp (e : Bool) (p : Fin 8) (u : Bool) (o : BitVec 20) (s : State) : Host.Outcome State Fault Refusal :=
  issue (.brp e p u o) s
    (fun c => match shadowOf c.s c.w.id with
      | some h => if poisonOf h c.w c.sh &&& c.exec = 0 then scoutRuns (fun c => branch c o fun l => c.p p l != u) c else .ends
      | none => .ends)
    fun c => branch c o fun l => c.p p l != u

/-! ### The return stack -/

/-- The home of a level of a lane (R35). -/
def levelHome (w : Wave) (l : Lane) (level : Nat) : DWord := w.csp + BitVec.ofNat 64 ((level - 1) * 256 + l.val * 8)

/-- The checks of a spill or fill of one level (R36), those of a store or load of 8 bytes by the lane for alignment, permission
and tag; a fill consumes the error of a poisoned word as a load does (R356). The order among them is the model's: CSZ before
every other check and ADDR the level's home in every one of these traps, which the spec leaves open (DESIGN CHOICE,
log 86). -/
def verdictLevel (s : State) (w : Wave) (l : Lane) (write : Bool) (level : Nat) : Verdict :=
  let a := levelHome w l level
  if write && w.csz.toNat < level then .fail 0 .callStack a
  else match locate s w.part a with
    | none => failAt .perm a
    | some p =>
      let m := metaAt s w p
      if a.toNat % 8 ≠ 0 then failAt .align a
      else if !((if write then p.wp else p.rp) && spotFits p 8) then failAt .perm a
      else if metaPoisoned s w p then .poison .metadata
      else if pointerKey a ≠ keyOf m then failAt .tag a
      else if colourOf m ≠ 0 then .fail (rankOf .colourOrder) .callStack a
      else if p.res then (if !write && dataPoisoned s w p then .poison .memory else .ok p)
      else .fail (rankOf .nonresStore) (if write then .nonresStore else .callStack) a

/-- The verdict of a lane over several levels: the earliest check that fails, else ok. -/
def verdictLevels (s : State) (w : Wave) (l : Lane) (write : Bool) (levels : List Nat) : Option Verdict :=
  (minBy (fun x => x.1) (levels.filterMap fun v =>
    let y := verdictLevel s w l write v
    (rankIn y).map fun x => (x.1, y))).map (·.2)

/-- The worst check over lanes that spill or fill. -/
def worstLevels (c : Ctx) (write : Bool) (levels : Lane → List Nat) : Option (Trap × Mask × DWord) :=
  let okV : Verdict := .need 0
  worst (Lanes.of fun l => (verdictLevels c.s c.w l write (levels l)).getD okV) c.exec

/-- What the lanes' spills or fills of levels meet, one verdict a level. -/
def levelVerdicts (c : Ctx) (write : Bool) (levels : Lane → List Nat) : List (Lane × Verdict) :=
  c.exec.lanes.flatMap fun l => (levels l).map fun v => (l, verdictLevel c.s c.w l write v)

/-- What the wave waits for before it spills or fills, as for the lane's stores and loads: spills to remote memory for room in
the held buffer and for commands that send before them (R351, R360); fills for an atomic of the wave on its way (R169) and for
the answer of remote memory (R313). -/
def levelsWait (c : Ctx) (write : Bool) (v : List (Lane × Verdict)) : Option State :=
  let spots := v.filterMap fun x => (spotIn x.2).map fun p => (x.1, p)
  let far := spots.filter fun x => x.2.remote.isSome
  if write then
    if !far.isEmpty && (!heldRoom c.s c.w.part (8 * far.length) || far.any fun x => sendsAhead c.s c.w x.1 c.w.tick) then some c.s
    else none
  else if spots.any fun x => x.2.page.isSome && atomPending c.s c.w c.die (x.2.ia / 64) then some c.s
  else if c.w.asked ≠ some c.r.pc && !far.isEmpty then some (modWave (far.foldl (fun s x => askRemote s c.w x.1 x.2 8) c.s) c.w.id fun w => { w with asked := some c.r.pc })
  else none

/-- What keeps the lanes' spills or fills of levels from being performed: an error consumed, a trap, a wait. -/
def levelsStop (c : Ctx) (write : Bool) (levels : Lane → List Nat) : Option Res :=
  let v := levelVerdicts c write levels
  match v.filterMap fun x => (poisonIn x.2).map fun y => (x.1, y) with
  | (l, y) :: rest => some (.settled (consumeBy c.s c.w (Mask.of fun k => k = l || rest.any fun x => x.1 = k) y))
  | [] => match worstLevels c write levels with
    | some (t, m, a) => some (c.trap t m a)
    | none => (levelsWait c write v).map fun s => .wait s .operand

/-- The levels that a push spills: the 8 lowest of 16 or more held on chip, but for a trap-entry level (R35, R223). The place of
a trap-entry level, which has no entry, counts among the 16: the spec does not say so (DESIGN CHOICE, log 86). -/
def spillLevelsOf (x : LaneCtx) : List Nat :=
  if Config.chipLevels ≤ x.ret.length then
    ((List.range Config.spillLevels).map fun k => x.depth.toNat - x.ret.length + 1 + k).filter fun v => x.trapLevel ≠ some (BitVec.ofNat 12 v)
  else []

/-- The entry of a level held on chip. -/
def entryOf (x : LaneCtx) (level : Nat) : DWord := nthD x.ret (x.depth.toNat - level) 0

/-- One level written to its home, as a store of the lane, which meets the watch slots as one (DEDUCED, log 86). -/
def spillOne (s : State) (c : Ctx) (l : Lane) (level : Nat) : State :=
  match locate s c.w.part (levelHome c.w l level) with
  | none => s
  | some p => storeSpot s c l (levelHome c.w l level) p (bytesOf (entryOf (laneOf c.w l) level).toNat 8)

/-- The pushes of CALL and CALLR once every check has passed (R120). -/
def pushCalls (c : Ctx) (t : Lane → Pc) : Res :=
  let s1 := c.exec.lanes.foldl (fun s l => (spillLevelsOf (laneOf c.w l)).foldl (fun s v => spillOne s c l v) s) c.s
  let ret : DWord := (c.r.pc + 4).zeroExtend 64
  .done { s := modWave s1 c.w.id fun w => mapLanes w c.exec fun _ x =>
            { x with depth := x.depth + 1
                     ret := ret :: x.ret.take (x.ret.length - if Config.chipLevels ≤ x.ret.length then Config.spillLevels else 0) }
          adv := c.exec, vals := none, ends := true, back := false, goes := fun l => some (t l) }

/-- CALL and CALLR with their targets (R120). -/
def callTo (c : Ctx) (t : Lane → Pc) : Res :=
  let bad := Mask.of fun l => c.exec.has l && bitsOf (t l).toNat 0 2 ≠ 0
  let full := Mask.of fun l => c.exec.has l && (laneOf c.w l).depth = 4095
  match bad.lowest, full.lowest with
  | some l, _ => c.trap .align bad ((t l).zeroExtend 64)
  | none, some _ => c.trap .callStack full (c.r.pc.zeroExtend 64)
  | none, none =>
    match levelsStop c true fun l => spillLevelsOf (laneOf c.w l) with
    | some x => x
    | none => pushCalls c t

/-- Would a call of the wave spill (R124)? -/
def callSpills (c : Ctx) : Bool := c.exec.lanes.any fun l => !(spillLevelsOf (laneOf c.w l)).isEmpty

/-- CALL (R120). -/
def execCall (e : Bool) (o : BitVec 20) (s : State) : Host.Outcome State Fault Refusal :=
  issue (.call e o) s (fun c => if callSpills c then .ends else scoutRuns (fun c => callTo c fun _ => target c.r.pc o) c)
    fun c => callTo c fun _ => target c.r.pc o

/-- CALLR (R120); scout ends before a poisoned target (R124). -/
def execCallr (e : Bool) (a : Reg) (s : State) : Host.Outcome State Fault Refusal :=
  issue (.callr e a) s
    (fun c => match shadowOf c.s c.w.id with
      | some h =>
        if callSpills c || poisonOf h c.w c.sh &&& c.exec ≠ 0 then .ends
        else scoutRuns (fun c => callTo c fun l => (c.pair 0 l).extractLsb' 0 48) c
      | none => .ends)
    fun c => callTo c fun l => (c.pair 0 l).extractLsb' 0 48

/-- The levels that a RET reads back, the highest first: those below the ones on chip when it would leave none there
(R35). A lane whose RTE has left it without a level on chip is refilled by its next RET, from its own level down: R35 names only
RET (DESIGN CHOICE, log 86). -/
def refillLevels (x : LaneCtx) : List Nat :=
  let d := x.depth.toNat
  let top := if x.ret.isEmpty then d else if x.ret.length = 1 then d - 1 else 0
  (List.range (min Config.spillLevels top)).map fun k => top - k

/-- Is a level the lane's trap-entry level, which has a place and no entry (R223)? -/
def isEntryLevel (x : LaneCtx) (v : Nat) : Bool := x.trapLevel = some (BitVec.ofNat 12 v)

/-- The levels whose homes a RET reads: a trap-entry level has none (R121). -/
def fillLevelsOf (x : LaneCtx) : List Nat := (refillLevels x).filter fun v => !isEntryLevel x v

/-- The entry that a lane's home holds; each entry in remote memory has free values of its own. -/
def fillOne (c : Ctx) (l : Lane) (level : Nat) : DWord :=
  match locate c.s c.w.part (levelHome c.w l level) with
  | some p => BitVec.ofNat 64 (loadSpot { c.s with free := c.s.free + 8 * (32 * level + l.val) } c p 8).1
  | none => 0

/-- What a fill leaves of its load of a level: the caches, and the watch slots that it meets (DEDUCED, log 86). -/
def fillTouch (c : Ctx) (l : Lane) (s : State) (level : Nat) : State :=
  match locate s c.w.part (levelHome c.w l level) with
  | some p => c.watch (if p.remote.isSome then s else (loadSpot s c p 8).2.2) l 0 (levelHome c.w l level) 8
  | none => s

/-- The fills of the lanes of a RET (R35): nothing where none reads its levels back. -/
def fillLevels (c : Ctx) : State :=
  c.exec.lanes.foldl (fun s l => (fillLevelsOf (laneOf c.w l)).foldl (fillTouch c l) s) { c.s with free := c.s.free + 2 ^ 20 }

/-- Does a lane of a RET read levels back? -/
def retFills (c : Ctx) : Bool := c.exec.lanes.any fun l => !(refillLevels (laneOf c.w l)).isEmpty

/-- A lane with the levels of a fill on chip. -/
def filled (c : Ctx) (l : Lane) : LaneCtx :=
  let x := laneOf c.w l
  { x with ret := x.ret ++ (refillLevels x).map fun v => if isEntryLevel x v then 0 else fillOne c l v }

/-- The colours that a lane gives back when its depth falls below d (R37, R121). -/
def releasesAt (x : LaneCtx) (d : BitVec 12) (l : Lane) : List (Lane × BitVec 6) :=
  (x.held.filter fun h => d ≤ h.depth).map fun h => (l, h.colour)

/-- Releases wait with the wave; in scout nothing is released (R37, R124). -/
def addReleases (s : State) (w : Wave) (r : List (Lane × BitVec 6)) : State :=
  match shadowOf s w.id with
  | some _ => s
  | none => modWave s w.id fun v => { v with release := v.release ++ r }

/-- RET once the levels it needs are on chip (R121); of the lanes whose entry is bad the first met traps (R8, R9). -/
def popReturns (c : Ctx) : Res :=
  let e (l : Lane) : DWord := nthD (filled c l).ret 0 0
  let bad := Mask.of fun l => c.exec.has l && (bitsOf (e l).toNat 48 16 ≠ 0 || bitsOf (e l).toNat 0 2 ≠ 0)
  match bad.lowest with
  | some l => c.trap .callStack (Mask.of (· = l)) (c.r.pc.zeroExtend 64)
  | none =>
    let s1 := addReleases (if retFills c then fillLevels c else c.s) c.w (c.exec.lanes.flatMap fun l => releasesAt (laneOf c.w l) (laneOf c.w l).depth l)
    .done { s := modWave s1 c.w.id fun w => mapLanes w c.exec fun l x => { x with depth := x.depth - 1, ret := (filled c l).ret.drop 1 }
            adv := c.exec, vals := none, ends := true, back := false, goes := fun l => some ((e l).extractLsb' 0 48) }

/-- RET (R121). -/
def retBody (c : Ctx) : Res :=
  let zero := Mask.of fun l => c.exec.has l && (laneOf c.w l).depth = 0
  let entry := Mask.of fun l => c.exec.has l && (laneOf c.w l).trapLevel = some (laneOf c.w l).depth
  if zero ≠ 0 then c.trap .callStack zero (c.r.pc.zeroExtend 64)
  else if entry ≠ 0 then c.trap .callStack entry (c.r.pc.zeroExtend 64)
  else match levelsStop c false fun l => fillLevelsOf (laneOf c.w l) with
    | some x => x
    | none => popReturns c

/-- RET (R121). -/
def execRet (e : Bool) (s : State) : Host.Outcome State Fault Refusal :=
  issue (.ret e) s
    (fun c => if retFills c then .ends else scoutRuns retBody c) retBody

/-! ### EXIT and NOP -/

/-- The check of a spawned lane's join counter at its EXIT (R187). -/
def exitVerdict (c : Ctx) (l : Lane) : Verdict :=
  let j := (laneOf c.w l).join
  if c.w.spn && j ≠ 0 then verdictWord c.s c.w j 4 else .absent ⟨0, none, none, true, true, true, true⟩

/-- Lanes that exit: no return stack, every colour to be released, the join counter to be decremented (R122, R187); in a
handler the thread itself exits (R224). -/
def exitLanes (s : State) (c : Ctx) (m : Mask) : State :=
  let s1 := addReleases s c.w (m.lanes.flatMap fun l => releasesAt (laneOf c.w l) 0 l)
  modWave s1 c.w.id fun w =>
    let js : List JoinDue := if w.spn then (m.lanes.filter fun l => (laneOf w l).join ≠ 0).map fun l =>
      ⟨(laneOf w l).join, l, c.r.pc, c.r.exec, c.w.h⟩ else []
    { mapLanes w m (fun _ x => { x with pc := exitedPc, state := .exited, ret := [], trapLevel := none }) with
      joins := w.joins ++ js
      aside := w.aside.map fun a =>
        { a with pcs := Lanes.of fun l => if m.has l then exitedPc else a.pcs.get l
                 states := Lanes.of fun l => if m.has l then .exited else a.states.get l } }

/-- EXIT (R122, R187). -/
def execExit (e : Bool) (s : State) : Host.Outcome State Fault Refusal :=
  issue (.exit e) s scoutEnds fun c =>
    access c (Lanes.of fun l => exitVerdict c l) (fun m => flushJoins (exitLanes c.s c m) c.w.id) fun t =>
      .done { s := t, adv := c.exec, vals := none, ends := true, back := false, goes := fun _ => some exitedPc }

/-- NOP (R123). -/
def execNop (e : Bool) (s : State) : Host.Outcome State Fault Refusal := runWord (.nop e) s fun c => c.done c.s

end Sys2Proof.Machine
end

