-- ==== Sys2Proof/Machine/Cross.lean ====
section
/-! DEFINITION. Predicate and cross-lane instructions (R108 to R112). -/
namespace Sys2Proof.Machine

/-- The source lane of SHFL, none when it is out of range (R109). -/
def shflLane (m : Shfl) (l : Lane) (k : Word) : Option Lane :=
  let n := k.toNat
  match m with
  | .idx => if h : n < 32 then some ⟨n, h⟩ else none
  | .up => if n ≤ l.val then some (Fin.ofNat 32 (l.val - n)) else none
  | .down => if h : l.val + n < 32 then some ⟨l.val + n, h⟩ else none
  | .xor => if n < 32 then some (Fin.ofNat 32 (l.val ^^^ n)) else none

def shflBody (m : Shfl) (c : Ctx) : Res :=
  c.write (fun l => w32 (c.x 0 ((shflLane m l (c.x 1 l)).getD l))) noFlags

/-- A received value is poisoned when the count or the value is (R112). -/
def shflPoison (m : Shfl) (h : Shadow) (c : Ctx) : Mask :=
  let at' (k : Nat) : Mask := match c.sh.srcs[k]? with | some x => poisonAt h c.w x.r | none => 0
  Mask.of fun l => (at' 1).has l || (at' 0).has ((shflLane m l (c.x 1 l)).getD l)

/-- SHFL (R109). -/
def execShfl (e k : Bool) (d a b : Reg) (m : Shfl) (s : State) : Host.Outcome State Fault Refusal :=
  issue (.shfl e k d a b m) s (scoutWith (shflBody m) (shflPoison m)) (shflBody m)

/-- VOTE.any (R110). -/
def execVoteAny (e : Bool) (d a : Pred) (s : State) : Host.Outcome State Fault Refusal :=
  crossWord (.voteAny e d a) s fun c => c.writeP d (fun _ => c.exec.lanes.any fun l => c.p a l) noFlags

/-- VOTE.all (R110). -/
def execVoteAll (e : Bool) (d a : Pred) (s : State) : Host.Outcome State Fault Refusal :=
  crossWord (.voteAll e d a) s fun c => c.writeP d (fun _ => c.exec.lanes.all fun l => c.p a l) noFlags

/-- VOTE.ballot (R110). -/
def execVoteBallot (e k : Bool) (d : Reg) (a : Pred) (s : State) : Host.Outcome State Fault Refusal :=
  crossWord (.voteBallot e k d a) s fun c => c.write (fun _ => w32 (Mask.of fun l => c.exec.has l && c.p a l)) noFlags

/-- VOTE.eq (R110). -/
def execVoteEq (e : Bool) (d : Pred) (a : Reg) (s : State) : Host.Outcome State Fault Refusal :=
  crossWord (.voteEq e d a) s fun c =>
    c.writeP d (fun _ => c.exec.lanes.all fun l => c.x 0 l = c.x 0 (c.exec.lowest.getD 0)) noFlags

/-- A reduction over a list of lanes, from the identity of its operation (R111). -/
def reduceOver (o : RedOp) (c : Ctx) (ls : List Lane) : Word := ls.foldl (fun acc l => redOp o acc (c.x 0 l)) (redUnit o)

/-- WRED (R111). -/
def execWred (e k : Bool) (d a : Reg) (o : RedOp) (s : State) : Host.Outcome State Fault Refusal :=
  crossWord (.wred e k d a o) s fun c => c.write (fun _ => w32 (reduceOver o c c.exec.lanes)) noFlags

/-- The lanes of EXEC that a scan combines for lane l (R111). -/
def scanLanes (x : Bool) (m : Mask) (l : Lane) : List Lane := m.lanes.filter fun k => k < l || (!x && k = l)

def wscanBody (x : Bool) (o : RedOp) (c : Ctx) : Res :=
  c.write (fun l => w32 (reduceOver o c (scanLanes x c.exec l))) noFlags

/-- WSCAN (R111). -/
def execWscan (e k : Bool) (d a : Reg) (x : Bool) (o : RedOp) (s : State) : Host.Outcome State Fault Refusal :=
  issue (.wscan e k d a x o) s
    (scoutWith (wscanBody x o) fun h c => Mask.of fun l => (scanLanes x c.exec l).any fun j => (poisonOf h c.w c.sh).has j)
    (wscanBody x o)

/-- PMOV from a register (R108). -/
def execPmovR2p (e : Bool) (d : Pred) (a : Reg) (s : State) : Host.Outcome State Fault Refusal :=
  runWord (.pmovR2p e d a) s fun c => c.writeP d (fun l => c.x 0 l ≠ 0) noFlags

/-- PMOV to a register (R108). -/
def execPmovP2r (e k : Bool) (d : Reg) (a : Pred) (s : State) : Host.Outcome State Fault Refusal :=
  runWord (.pmovP2r e k d a) s fun c => c.write (fun l => w32 (if c.p a l then 1 else 0)) noFlags

/-- PMOV.and (R108). -/
def execPmovAnd (e : Bool) (d a b : Pred) (s : State) : Host.Outcome State Fault Refusal :=
  runWord (.pmovAnd e d a b) s fun c => c.writeP d (fun l => c.p a l && c.p b l) noFlags

/-- PMOV.or (R108). -/
def execPmovOr (e : Bool) (d a b : Pred) (s : State) : Host.Outcome State Fault Refusal :=
  runWord (.pmovOr e d a b) s fun c => c.writeP d (fun l => c.p a l || c.p b l) noFlags

/-- PMOV.xor (R108). -/
def execPmovXor (e : Bool) (d a b : Pred) (s : State) : Host.Outcome State Fault Refusal :=
  runWord (.pmovXor e d a b) s fun c => c.writeP d (fun l => c.p a l != c.p b l) noFlags

/-- PMOV.andn (R108). -/
def execPmovAndn (e : Bool) (d a b : Pred) (s : State) : Host.Outcome State Fault Refusal :=
  runWord (.pmovAndn e d a b) s fun c => c.writeP d (fun l => c.p a l && !c.p b l) noFlags

/-- PMOV.not (R108). -/
def execPmovNot (e : Bool) (d a : Pred) (s : State) : Host.Outcome State Fault Refusal :=
  runWord (.pmovNot e d a) s fun c => c.writeP d (fun l => !c.p a l) noFlags

end Sys2Proof.Machine
end

