-- ==== Sys2Proof/Machine/Work.lean ====
section
/-! DEFINITION. Launch records and task records (R11, R190, R319, R320), queues (R315, R316), and the spawn gatherer and
pool (R185, R186, R325). -/
namespace Sys2Proof.Machine

/-! ### WIDF (R11) -/

/-- The boundaries B1 to B5. -/
def widBounds (x : Nat) : List Nat := (List.range 5).map fun k => bitsOf x (6 * k) 6

/-- Is a list strictly rising and then zero? -/
def risesThenZero : Nat → List Nat → Bool
  | _, [] => true
  | lo, x :: l => if x = 0 then l.all (· = 0) else decide (lo < x) && risesThenZero x l

/-- Does WIDF keep R11? -/
def widOk (x : Nat) : Bool :=
  let b := widBounds x
  bitsOf x 30 2 = 0 && 5 ≤ nthD b 0 0 && nthD b 0 0 ≤ 10 && risesThenZero 4 b

/-- B1. -/
def widB1 (x : Nat) : Nat := bitsOf x 0 6

/-- The lowest bit of Fk, k from 1 to 5; 0 when the field is not used. -/
def widLow (x k : Nat) : Nat := nthD (widBounds x) (k - 1) 0

/-- The width of Fk, k from 1 to 5; 0 when the field is not used. -/
def widWidth (x k : Nat) : Nat :=
  if widLow x k = 0 then 0 else (if widLow x (k + 1) = 0 then 64 else widLow x (k + 1)) - widLow x k

/-! ### The launch record (R319) -/

def lrWidf (r : BitVec 1024) : Nat := recField r 128 32
def lrWaves (r : BitVec 1024) : Nat := recField r 160 5 + 1
def lrBlocks (r : BitVec 1024) : Nat := recField r 168 4
def lrAbuf (r : BitVec 1024) : Nat := recField r 176 10
def lrCbuf (r : BitVec 1024) : Nat := recField r 192 9
def lrWbuf (r : BitVec 1024) : Nat := recField r 208 11
def lrPart (r : BitVec 1024) : Nat := recField r 224 6
def lrLevels (r : BitVec 1024) : Nat := recField r 232 12
def lrPool (r : BitVec 1024) : Nat := recField r 320 64
def lrPoolN (r : BitVec 1024) : Nat := recField r 384 24
def lrSpn (r : BitVec 1024) : Nat := recField r 408 12
def lrHandler (r : BitVec 1024) : Nat := recField r 448 64
def lrBalance (r : BitVec 1024) : Nat := recField r 512 64
def lrCtx (r : BitVec 1024) : Nat := recField r 576 64
def lrCtxN (r : BitVec 1024) : Nat := recField r 640 32
/-- EXTk, k from 1 to 5. -/
def lrExt (r : BitVec 1024) (k : Nat) : Nat := recField r (704 + 64 * (k - 1)) 64

/-- The groups of a launch (R321). -/
def lrGroups (r : BitVec 1024) : Nat := ((List.range 5).map fun k => lrExt r (k + 1) + 1).foldl (· * ·) 1

/-- The value of Fk of group n (R321). -/
def lrField (r : BitVec 1024) (n k : Nat) : Nat :=
  n / (((List.range (k - 1)).map fun j => lrExt r (j + 1) + 1).foldl (· * ·) 1) % (lrExt r k + 1)

/-- The WID of lane 0 of wave w of group n (R12, R321). -/
def lrWid (r : BitVec 1024) (n w : Nat) : DWord :=
  BitVec.ofNat 64 (((List.range 5).map fun k => lrField r n (k + 1) * 2 ^ widLow (lrWidf r) (k + 1)).foldl (· + ·) 0 + 32 * w)

/-- Are bits lo to lo + n - 1 of a record zero? -/
def zeroBits (x lo n : Nat) : Bool := bitsOf x lo n = 0

/-- Are the roles of waves beyond the group zero? -/
def rolesOk (roles waves : Nat) : Bool := roles / 2 ^ (2 * waves) = 0

/-- Does a launch record pass the checks of R320 but for the balance table? -/
def lrOk (s : State) (tenant : Nat) (r : BitVec 1024) : Bool :=
  let x := r.toNat
  let w := lrWidf r
  [(165, 3), (172, 4), (186, 6), (201, 7), (219, 5), (231, 1), (244, 12), (420, 28), (672, 32)].all (fun b => zeroBits x b.1 b.2)
    && widOk w && lrWaves r ≤ 2 ^ (widB1 w - 5)
    && 1 ≤ lrBlocks r && lrBlocks r ≤ 8 && lrAbuf r ≤ 512 && lrCbuf r ≤ 256 && lrWbuf r ≤ 1024
    && 1 ≤ lrCtxN r && rolesOk (recField r 256 64) (lrWaves r)
    && ((List.range 5).all fun k => lrExt r (k + 1) < 2 ^ widWidth w (k + 1))
    && zeroBits x 0 2 && zeroBits x 48 16 && lrPool r % 64 = 0 && zeroBits x 448 2 && zeroBits x 496 16
    && lrBalance r % 64 = 0 && lrCtx r % 256 = 0
    && (match findPart s (lrPart r) with | some p => p.desc.v && p.desc.tenant.toNat = tenant | none => false)
    && lrBlocks r * ((lrWaves r + 3) / 4) ≤ 31

/-! ### The task record (R190) -/

def trEntry (x : Nat) : Nat := bitsOf x 0 64
def trArg (x : Nat) : Nat := bitsOf x 64 64
def trCoord (x : Nat) : Nat := bitsOf x 128 64
def trSucc (x : Nat) : Nat := bitsOf x 192 64
def trWaves (x : Nat) : Nat := bitsOf x 256 5 + 1
def trBlocks (x : Nat) : Nat := bitsOf x 264 4
def trAbuf (x : Nat) : Nat := bitsOf x 272 10
def trCbuf (x : Nat) : Nat := bitsOf x 288 9
def trWbuf (x : Nat) : Nat := bitsOf x 304 11
def trPri (x : Nat) : Nat := bitsOf x 320 3
def trLocal (x : Nat) : Bool := bitsOf x 328 1 = 1
def trRoles (x : Nat) : Nat := bitsOf x 384 64

/-- Does a task record keep its map, under the B1 of its launch? -/
def trOk (b1 x : Nat) : Bool :=
  [(261, 3), (268, 4), (282, 6), (297, 7), (315, 5), (323, 5), (329, 55), (448, 64)].all (fun b => zeroBits x b.1 b.2)
    && zeroBits x 0 2 && zeroBits x 48 16 && trSucc x % 128 = 0 && trWaves x ≤ 2 ^ (b1 - 5)
    && 1 ≤ trBlocks x && trBlocks x ≤ 8 && trAbuf x ≤ 512 && trCbuf x ≤ 256 && trWbuf x ≤ 1024
    && rolesOk (trRoles x) (trWaves x)

/-- The WID of lane 0 of wave w of a task group (R190). -/
def trWid (b1 x w : Nat) : DWord := BitVec.ofNat 64 (trCoord x * 2 ^ b1 + 32 * w)

/-! ### Queues -/

/-- Is the ring of a queue full (R316)? -/
def ringFull (q : Queue) : Bool := 2 ^ q.desc.log2n.toNat ≤ (q.tail - q.head).toNat

/-- Has a queue no entry left for an append, those granted in an emergency counted (R316, R339)? -/
def queueFull (q : Queue) : Bool := ringFull q && q.emergency.length ≤ q.reserved.length

/-- Is the queue a task queue in use of the tenant (R189)? -/
def taskQueue (s : State) (n tenant : Nat) : Option Queue :=
  match findQueue s n with
  | some q => if q.desc.v && q.desc.task && q.desc.tenant.toNat = tenant then some q else none
  | none => none

/-- A task record appended at TAIL, from a core, with its die's clock (R261, R316). -/
def ringTask (s : State) (q : Queue) (x : Reserved) : State :=
  let s1 := hardWrite s x.launch (entryIa q q.tail) (bytesOf x.record.toNat 64)
  let s2 := hardWrite s1 x.launch (entryIa q q.tail + 64) (bytesOf x.launch.toNat 64)
  modQueue s2 q.n fun y => { y with tail := y.tail + 1, origins := y.origins ++ [(q.tail, x.die, x.core, x.clock)] }

/-- Status and trap code of the entries of a launch that has ended, with its partition (R318, R346). -/
def endedAs (s : State) (launch : DWord) : Option (Nat × Nat × Nat) :=
  match findLaunch s launch with
  | none => none
  | some l => match l.state with
    | .running | .done => none
    | .faulted t => some (3, trapCode t, l.part)
    | .killed => some (4, 0, l.part)

/-- A task record appended: in the ring, or in an emergency entry while the ring is full or others wait there (R339). That of a wave
whose launch has ended meanwhile is discarded as the launch's other entries are (R346). -/
def appendTask (s : State) (q : Queue) (launch : DWord) (x : Nat) (place : Nat × Nat) : State :=
  let r : Reserved := ⟨launch, BitVec.ofNat 512 x, place.1, place.2, clockOf s place.1⟩
  match endedAs s launch with
  | some y => if ringFull q then s else modQueue (ringTask s q r) q.n fun z => { z with void := z.void ++ [(q.tail, y)] }
  | none => if ringFull q || !q.reserved.isEmpty then modQueue s q.n fun y => { y with reserved := y.reserved ++ [r] }
  else ringTask s q r

/-- Appends in emergency entries that the ring now has room for: each entry is returned (R339). -/
def moveReserved : Nat → State → Nat → State
  | 0, s, _ => s
  | n + 1, s, k =>
    match findQueue s k with
    | none => s
    | some q =>
      match q.reserved with
      | [] => s
      | r :: _ =>
        if ringFull q then s
        else moveReserved n (ringTask (modQueue s k fun y => { y with reserved := y.reserved.drop 1, emergency := y.emergency.drop 1 }) q r) k

/-- Every queue's emergency entries looked after, once HEADs have moved. -/
def moveAllReserved (s : State) : State := s.queues.foldl (fun t q => moveReserved q.reserved.length t q.n) s

/-! ### Spawn records (R185) -/

/-- A spawn record, but for SEQ. -/
def spawnRecord (w : Wave) (l : Lane) (entry : Pc) (join : DWord) (payload : List Word) (serial : Nat) : Nat :=
  entry.toNat + ((List.range payload.length).map fun k => fld (nthD payload k 0).toNat (64 + 32 * k) 32).foldl (· + ·) 0
  + fld join.toNat 192 64 + fld w.launch.toNat 256 64 + fld (nameOf w l).toNat 320 64 + fld serial 384 32
  + fld (payload.length - 1) 416 2 + fld w.spn.toNat 418 1

def srEntry (r : BitVec 512) : DWord := r.extractLsb' 0 64
def srPayload (r : BitVec 512) (k : Nat) : Word := r.extractLsb' (64 + 32 * k) 32
def srJoin (r : BitVec 512) : DWord := r.extractLsb' 192 64
/-- Are the reserved fields of a spawn record zero, and the payload words beyond its count (R7, R185)? -/
def srOk (r : BitVec 512) : Bool :=
  bitsOf r.toNat 48 16 = 0 && bitsOf r.toNat 419 29 = 0 && bitsOf r.toNat 480 32 = 0
    && (List.range 4).all fun k => k ≤ bitsOf r.toNat 416 2 || bitsOf r.toNat (64 + 32 * k) 32 = 0
def srSerial (r : BitVec 512) : Word := r.extractLsb' 384 32

/-- Can a gatherer take a record of a launch and an entry: a bucket with room, or a free bucket (R186, R325)? -/
def gathererRoom (c : Core) (launch entry : DWord) : Bool :=
  (c.buckets.any fun b => b.launch = launch && b.entry = entry && !b.forming && b.recs.length < 32)
    || c.buckets.length < Config.buckets

/-- A record received by a bucket of the list, or by a fresh one. -/
def bucketInsert (launch entry : DWord) (pri : BitVec 3) (clock : Clock) (r : BitVec 512) : List Bucket → List Bucket
  | [] => [{ launch := launch, entry := entry, recs := [r], forming := false, pri := pri, clock := clock }]
  | b :: l =>
    if b.launch = launch && b.entry = entry && !b.forming && b.recs.length < 32 then
      { b with recs := b.recs ++ [r], clock := clockMax b.clock clock } :: l
    else b :: bucketInsert launch entry pri clock r l

/-- A record received by the gatherer of a core (R325), with the clock of the die that wrote it (R261); one of a launch that
has ended is discarded (R346). -/
def gather (s : State) (die core : Nat) (launch : DWord) (pri : BitVec 3) (clock : Clock) (r : BitVec 512) : State :=
  if (findLaunch s launch).any fun l => l.state ≠ .running then s
  else modCore s die core fun c => { c with buckets := bucketInsert launch (srEntry r) pri clock r c.buckets }

/-- The IA of an entry of a launch's pool (R186). The hardware asks that the page be mapped and nothing more: the spec does not
say whether it must be resident (DESIGN CHOICE, log 67). -/
def poolIa (s : State) (l : Launch) (n : Nat) : Option Nat :=
  if lrPoolN l.record = 0 then none
  else match locate s l.part (BitVec.ofNat 64 (lrPool l.record + 64 * (n % lrPoolN l.record))) with
    | some p => if p.page.isSome then some p.ia else none
    | none => none

/-- Has the pool a free entry (R186)? -/
def poolRoom (s : State) (l : Launch) : Bool := l.poolTail - l.poolHead < lrPoolN l.record && (poolIa s l l.poolTail).isSome

/-- A record appended at the tail of the launch's pool, with the clock of the die that wrote it (R261). -/
def poolAppend (s : State) (l : Launch) (clock : Clock) (r : Nat) : State :=
  match poolIa s l l.poolTail with
  | some ia =>
    modLaunch (hardWrite s l.id ia (bytesOf (r + fld l.poolTail 448 32) 64)) l.id fun x =>
      { x with poolTail := x.poolTail + 1, poolClocks := x.poolClocks ++ [clock] }
  | none => s

end Sys2Proof.Machine
end

