-- ==== Sys2Proof/Machine/Place.lean ====
section
/-! DEFINITION. Placing a group on a core (R322 to R324, R326, R331): what a core must have free, the core that is taken,
contexts (R323), and the start acquire (R261). -/
namespace Sys2Proof.Machine

/-- What a group needs of a core: for each wave its index, its blocks and the blocks of its waiting claim; its
reservations in KiB; its tile entries. -/
structure Need where
  waves : List (Nat × Nat × Nat)
  abuf : Nat
  wbuf : Nat
  cbuf : Nat
  tiles : Nat

/-- The quadrant of a wave (R322). -/
def quadOf (index : Nat) : Nat := index % 4

/-- Ordinary wave slots of a quadrant in use (R326). -/
def slotsUsed (s : State) (die core quad : Nat) : List Nat :=
  (quadWaves s die core quad).filterMap fun w => match w.place with
    | some p => if p.reserved then none else some p.slot
    | none => none

/-- Ordinary wave slots of a quadrant: all but the one kept for Clover (R326). -/
def ordinarySlots : Nat := Config.slotsPerQuad - 1

/-- Free ordinary slots of a quadrant, ascending. -/
def freeSlots (s : State) (die core quad : Nat) : List Nat := (List.range ordinarySlots).filter fun k => !(slotsUsed s die core quad).contains k

/-- Bytes of the buffers of a core in KiB, and what its groups have reserved (R1, R288). -/
def bufferTotals : Nat × Nat × Nat := (512, 1024, 256)
def reserved (s : State) (die core : Nat) : Nat × Nat × Nat :=
  (s.groups.filter fun g => g.place = some (die, core)).foldl
    (fun n g => (n.1 + g.abufKiB, n.2.1 + g.wbufKiB, n.2.2 + g.cbufKiB)) (0, 0, 0)

/-- May n more waves be placed in a quadrant without making a waiting claim trap (R115)? -/
def claimsAllow (s : State) (die core quad n : Nat) : Bool :=
  (quadClaims s die core quad).all fun x => match x.1.place with
    | some p => x.2.1 ≤ claimBound s x.1 p n
    | none => true

/-- Does a quadrant have what the waves that go to it need (R322)? -/
def quadFits (s : State) (die core : Nat) (x : Need) (quad : Nat) : Bool :=
  let ws := x.waves.filter fun w => quadOf w.1 = quad
  ws.isEmpty || (ws.length ≤ (freeSlots s die core quad).length
    && ws.foldl (fun n w => n + w.2.1 + w.2.2) 0 ≤ openBlocks s die core quad
    && claimsAllow s die core quad ws.length)

/-- Does a core fit a group (R322, R292)? -/
def coreFits (s : State) (x : Need) (die core : Nat) : Bool :=
  let r := reserved s die core
  (List.range 4).all (quadFits s die core x)
    && r.1 + x.abuf ≤ bufferTotals.1 && r.2.1 + x.wbuf ≤ bufferTotals.2.1 && r.2.2 + x.cbuf ≤ bufferTotals.2.2
    && entriesUsed s (some (die, core)) + x.tiles ≤ Config.tileEntries

/-- The cores of a partition's clusters, by number (R322, R376). -/
def coresOf (p : Part) : List (Nat × Nat) :=
  ((List.range 64).filter fun k => p.desc.clusters.getLsbD k).flatMap fun k => (List.range 4).map fun j => (k / 16, 4 * (k % 16) + j)

/-- Free wave slots of a core. -/
def coreSlots (s : State) (die core : Nat) : Nat := ((List.range 4).map fun q => (freeSlots s die core q).length).foldl (· + ·) 0

/-- Has a die applied every write that the clock of a start carries (R261)? -/
def startReady (s : State) (die : Nat) (c : Clock) : Bool := clockCounts (clockOf s die) c

/-- The core that a group takes: `first` if it fits, then one of the dispatcher's die, then the core with the most free
slots, then the lowest number (R322, R324). -/
def chooseCore (s : State) (p : Part) (x : Need) (die : Nat) (first : Option (Nat × Nat)) (clock : Clock) :
    Option (Nat × Nat) :=
  let cs := (coresOf p).filter fun c => coreFits s x c.1 c.2 && startReady s c.1 clock
  match first with
  | some f => if cs.contains f then some f else best cs
  | none => best cs
where
  /-- The best of the cores that fit. -/
  best (cs : List (Nat × Nat)) : Option (Nat × Nat) :=
    let own := cs.filter fun c => c.1 = die
    minBy (fun c => 1000 * (60 - coreSlots s c.1 c.2) + 64 * c.1 + c.2) (if own.isEmpty then cs else own)

/-- Is the cluster of a core stopped (R394)? -/
def clusterStopped (s : State) (die core : Nat) : Bool := s.stopped.contains (die, core / 4)

/-- A queue register on a new core: commands that no engine has accepted go to the engine of the new die (R211). -/
def requeue (die core : Nat) (q : QReg) : QReg :=
  let here (c : Command) : Command := if c.state = .pushed then { c with die := die, core := core } else c
  { q with part := q.part.map here, cmds := q.cmds.map here }

/-- A wave put into a slot of its quadrant; on a stopped cluster it starts stopped (R395). -/
def seatWave (s : State) (wid die core quad : Nat) : State :=
  let slot := match freeSlots s die core quad with
    | k :: _ => (k, false)
    | [] => (ordinarySlots, true)
  modWave s wid fun w =>
    { w with place := some ⟨die, core, quad, slot.1, slot.2⟩, stopped := w.stopped || clusterStopped s die core
             lastRun := s.fresh, queues := w.queues.map (requeue die core) }

/-- The waves of a group put into slots, after the start acquire (R261, R322). -/
def seatGroup (s : State) (g die core : Nat) : State :=
  let s1 := modGroup (l1DropAll s die core) g fun x => { x with place := some (die, core), signal := none, raised := false, context := none }
  ((wavesOf s1 g).filter fun w => !w.finished).foldl (fun t w => seatWave t w.id die core (quadOf w.index.toNat)) s1

/-- What a saved group needs (R331): its waves' blocks with their claims, its reservations and its tile entries. -/
def needOf (s : State) (g : Group) : Need :=
  { waves := ((wavesOf s g.id).filter fun w => !w.finished).map fun w => (w.index.toNat, w.blks.toNat, match w.claim with | some c => c.1 | none => 0)
    abuf := g.abufKiB, wbuf := g.wbufKiB, cbuf := g.cbufKiB, tiles := g.tiles.length }

/-! ### Contexts (R323) -/

/-- Context indices of a launch in use. -/
def contextsUsed (s : State) (launch : DWord) : List Nat :=
  (s.waves.filter fun w => w.launch = launch && !w.finished).filterMap (·.ctx)

/-- The n lowest free indices from lo to hi - 1, when there are so many. -/
def freeContexts (s : State) (launch : DWord) (lo hi n : Nat) : Option (List Nat) :=
  let used := contextsUsed s launch
  let xs := ((List.range (min (hi - lo) (used.length + n))).map (· + lo)).filter fun k => !used.contains k
  if n ≤ xs.length then some (xs.take n) else none

/-- CSP of a context index. -/
def contextCsp (r : BitVec 1024) (i : Nat) : DWord := BitVec.ofNat 64 (lrCtx r + 256 * (lrLevels r + 1) * i + 256)

/-! ### Waves that start (R38) -/

/-- A wave before its first instruction; its launch, role, priority, contexts and lanes are its starter's. -/
def startWave (id group : Nat) (l : Launch) (index blks : Nat) (role : Nat) (pri : Nat) (ctx : Option Nat) (spn : Bool)
    (baseWid : DWord) (lanes : Lanes LaneCtx) : Wave :=
  { id := id, group := group, launch := l.id, part := l.part, index := BitVec.ofNat 5 index, role := BitVec.ofNat 2 role
    gang := 0, winb := 0, blks := BitVec.ofNat 4 blks, h := false, spn := spn, snap := recField l.record 230 1 = 1
    pri := BitVec.ofNat 3 pri, widf := BitVec.ofNat 32 (lrWidf l.record), baseWid := baseWid
    arg := BitVec.ofNat 64 (recField l.record 64 64)
    csp := match ctx with | some i => contextCsp l.record i | none => 0
    csz := if ctx.isSome then BitVec.ofNat 12 (lrLevels l.record) else 0
    handler := BitVec.ofNat 64 (lrHandler l.record), ctx := ctx, lanes := lanes, rmiss := 0, aside := none, skip := []
    spin := 0, floor := none, run := none, hold := none, issue := none, queues := Vector.replicate 8 QReg.unbound
    ckmode := 0, stores := 0, pend := [], release := [], joins := [], watchPend := [], watch := [none, none]
    counters := WaveCounters.zero, claim := none, granted := false, place := none, stopped := false, intercepted := false
    stepping := none, stepDone := false, asked := none, aged := false, lastRun := 0, tick := 0, arrived := false, tags := [], waitMark := none, drain := none
    finished := false }

/-- A live lane at an entry. -/
def startLane (entry : DWord) : LaneCtx := { LaneCtx.empty with pc := entry.extractLsb' 0 48, state := .live }

/-- A group without waves in it yet. -/
def startGroup (id : Nat) (l : Launch) (waves ab wb cb : Nat) (task spawned : Bool) (entry : Option (Nat × Word)) (succ : DWord)
    (blocks : Nat) (clock : Clock) : Group :=
  { id := id, launch := l.id, part := l.part, place := none, waves := waves, g := Vector.replicate 16 0, abufKiB := ab
    wbufKiB := wb, cbufKiB := cb, abuf := [], wbuf := [], cbuf := [], tiles := [], barrier := 0, sharing := none
    rendezvous := [], array := [], task := task, spawned := spawned, entry := entry, succ := succ, appending := none, blocks := blocks
    signal := none, raised := false, clock := clock, context := none, finished := false }

end Sys2Proof.Machine
end

