-- ==== Sys2Proof/Machine/Dispatchers.lean ====
section
/-! DEFINITION. From a queue to a core: the dispatchers (R320, R321, R324, R374), balance tables (R255), successors
(R191), Clover (R325 to R327), launch packets and inbound operations (R372 to R375). -/
namespace Sys2Proof.Machine

/-! ### The balance table (R255, R320) -/

/-- What a check of a balance table finds. -/
inductive Balance where
  | good
  | bad (status : Nat)
  | absent (g : Page)

/-- One granule of the table, through the partition's translation and with the pointer's key. -/
def balanceGranule (s : State) (p : Part) (a : DWord) : Balance :=
  match locate s p.n a with
  | none => .bad 1
  | some x =>
    if !x.rp then .bad 1
    else match x.page with
      | none => if pointerKey a = 0 then .good else .bad 1
      | some g =>
        let m := homeMetaOf s x.ia
        if pointerKey a ≠ keyOf m || colourOf m ≠ 0 then .bad 1
        else if x.res then .good
        else .absent g

/-- Two checks together: a failure comes before a page that is not resident. -/
def Balance.join (a b : Balance) : Balance :=
  match a, b with
  | .bad n, _ => .bad n
  | _, .bad n => .bad n
  | .absent g, _ => .absent g
  | .good, x => x

/-- The granules of n bytes from a 64-byte aligned pointer. -/
def balanceSpan (s : State) (p : Part) (a : DWord) (n : Nat) : Balance :=
  (List.range ((n + 63) / 64)).foldl (fun b k => Balance.join b (balanceGranule s p (a + BitVec.ofNat 64 (64 * k)))) .good

/-- A granule of the table as a number. -/
def balanceRead (s : State) (p : Part) (a : DWord) (k : Nat) : Nat :=
  match locate s p.n a with
  | none => 0
  | some x =>
    match x.remote with
    | some e => natOfBytes ((List.range 64).map fun i => remoteByte s p.n e.endpoint (remoteAddr e x.ia + i) (s.free + 64 * k + i))
    | none => homeRead s x.ia 64

/-- Does an entry's sum come out (R255)? -/
def balanceEntry (groups x : Nat) : Bool :=
  bitsOf x 224 32 = 0 &&
    signedOf (bitsOf x 64 32) 32 + signedOf (bitsOf x 128 32) 32
      + (groups : Int) * ((bitsOf x 160 32 : Nat) - (bitsOf x 192 32 : Nat) : Int) = signedOf (bitsOf x 96 32) 32

/-- The balance table of a launch record checked, and the state that has used the free values of a remote table. -/
def balanceCheck (s : State) (p : Part) (r : BitVec 1024) : Balance × State :=
  let a := BitVec.ofNat 64 (lrBalance r)
  if a = 0 then (.good, s)
  else match balanceSpan s p a 64 with
    | .bad n => (.bad n, s)
    | .absent g => (.absent g, s)
    | .good =>
      let h := balanceRead s p a 0
      let s1 := { s with free := s.free + 64 * 33 }
      let n := bitsOf h 0 32
      if n > 64 || bitsOf h 32 480 ≠ 0 then (.bad 2, s1)
      else match balanceSpan s p (a + 64) (32 * n) with
        | .bad k => (.bad k, s)
        | .absent g => (.absent g, s)
        | .good =>
          let ok := (List.range n).all fun k =>
            balanceEntry (lrGroups r) (bitsOf (balanceRead s p (a + BitVec.ofNat 64 (64 * (k / 2 + 1))) (k / 2 + 1)) (256 * (k % 2)) 256)
          (if ok then .good else .bad 2, s1)

/-! ### Dispatch (R321, R324) -/

/-- START passes an entry (R321). -/
def passStart (s : State) (q : Nat) (seq : Word) : State :=
  modQueue s q fun x =>
    { x with start := seq + 1, after := x.after.filter fun y => y.1 ≠ seq, origins := x.origins.filter fun y => y.1 ≠ seq
             void := x.void.filter fun y => y.1 ≠ seq }

/-- The turn of a queue passes (R321). -/
def passTurn (s : State) (q : Nat) : State := modQueue { s with fresh := s.fresh + 1 } q fun x => { x with turn := s.fresh }

/-- A launch accepted by the dispatcher of a die, whose clock its start carries (R261, R320); with SNAP it waits for its start mark (R347). -/
def acceptLaunch (s : State) (die : Nat) (q : Queue) (r : BitVec 1024) : State :=
  let snap := recField r 230 1 = 1
  let l : Launch :=
    { id := launchId q.n q.start, queue := q.n, seq := q.start, part := lrPart r, tenant := q.desc.tenant.toNat, record := r
      groups := lrGroups r, next := 0, serial := 0, poolHead := 0, poolTail := 0, state := .running, reported := false
      replays := 0, started := !snap, replay := false, snapshot := none, copies := [], dirty := [], clock := clockOf s die, poolClocks := [], owing := []
      after := match q.after.find? fun y => y.1 = q.start with | some y => y.2 | none => 0 }
  let s1 := { s with launches := s.launches.filter (fun x => x.id ≠ l.id) ++ [l] }
  if snap then modPart s1 l.part fun p => { p with markDue := true } else s1

/-- The waves of a group, by index: role, blocks, priority, contexts, WIDs and entry are the group's. -/
def groupWaves (l : Launch) (gid : Nat) (waves blks roles pri : Nat) (ctx : List Nat) (entry : DWord) (wid : Nat → DWord) : List Wave :=
  (List.range waves).map fun i =>
    startWave (gid + 1 + i) gid l i blks (bitsOf roles (2 * i) 2) pri ctx[i]? false (wid i) (Lanes.of fun _ => startLane entry)

/-- A group and its waves put on a core. -/
def placeGroup (s : State) (g : Group) (ws : List Wave) (die core : Nat) : State :=
  seatGroup { s with groups := s.groups ++ [g], waves := s.waves ++ ws, fresh := g.id + 1 + ws.length } g.id die core

/-- What a new group needs. -/
def freshNeed (waves blks ab wb cb : Nat) : Need :=
  { waves := (List.range waves).map fun i => (i, blks, 0), abuf := ab, wbuf := wb, cbuf := cb, tiles := 0 }

/-- The next group of a launch placed, when its contexts and a core are free (R321 to R324). -/
def placeNext (s : State) (die : Nat) (q : Queue) (l : Launch) : Option State :=
  match findPart s l.part with
  | none => none
  | some p =>
    let r := l.record
    let k := lrWaves r
    if !l.started || p.inboundDone < l.after || l.groups ≤ l.next then none
    else
      match freeContexts s l.id 0 (lrCtxN r) k, chooseCore s p (freshNeed k (lrBlocks r) (lrAbuf r) (lrWbuf r) (lrCbuf r)) die none l.clock with
      | some ctx, some (d, c) =>
        let g := startGroup s.fresh l k (lrAbuf r) (lrWbuf r) (lrCbuf r) false false none 0 (lrBlocks r) l.clock
        let ws := groupWaves l g.id k (lrBlocks r) (recField r 256 64) q.desc.pri.toNat ctx (r.extractLsb' 0 64) (lrWid r l.next)
        let s1 := modLaunch (placeGroup s g ws d c) l.id fun x => { x with next := x.next + 1 }
        let s2 := if l.next + 1 = l.groups && q.start = l.seq then passStart s1 q.n l.seq else s1
        some (passTurn s2 q.n)
      | _, _ => none

/-- An entry that completes without starting (R318, R320): its record is written after the next mark of the partition has
committed; of no partition there is nothing to undo, and it is written as soon as its turn comes. -/
def refuseEntry (s : State) (q : Queue) (status trap : Nat) (launch : DWord) (part : Option Nat) : State :=
  let s1 := passStart (entryDone s q.n q.start status trap launch part) q.n q.start
  if part.isNone then moveAllReserved (advanceHead (q.done.length + 1) s1 q.n) else s1

/-- The partition whose marks a malformed record waits for: the one it names when that is the tenant's, else the tenant's
first (DESIGN CHOICE, log 69). -/
def refusalPart (s : State) (q : Queue) (r : BitVec 1024) : Option Nat :=
  let own := s.parts.filter fun p => p.desc.v && p.desc.tenant = q.desc.tenant
  ((own.find? fun p => p.n = lrPart r).or (minBy (·.n) own)).map (·.n)

/-- A launch queue's entry at START: checked and accepted, and its next group placed. -/
def serveLaunch (s : State) (die : Nat) (q : Queue) : Option State :=
  let id := launchId q.n q.start
  match s.launches.find? fun l => l.id = id && !l.reported with
  | some l => if l.state ≠ .running || l.groups ≤ l.next then some (passStart s q.n q.start) else placeNext s die q l
  | none =>
    let r := BitVec.ofNat 1024 (homeRead s (entryIa q q.start) 128)
    if q.done.any fun y => y.seq = q.start then some (passStart s q.n q.start)
    else if !lrOk s q.desc.tenant.toNat r then some (refuseEntry s q 1 0 id (refusalPart s q r))
    else match findPart s (lrPart r) with
      | none => some (refuseEntry s q 1 0 id (refusalPart s q r))
      | some p =>
        match balanceCheck s p r with
        | (.bad n, s1) => some (refuseEntry s1 q n 0 id (some p.n))
        | (.absent g, s1) => if (requestPage s1 p.n g).dies = s1.dies then none else some (requestPage s1 p.n g)
        | (.good, s1) =>
          let s2 := acceptLaunch s1 die q r
          match findLaunch s2 id with
          | none => some s2
          | some l => some ((placeNext s2 die q l).getD s2)

/-- A task queue's entry at START: its group placed (R321, R324); an entry of an ended launch is discarded (R346). A record that breaks
its map in the ring is refused with status 1 (R7, R318). -/
def serveTask (s : State) (die : Nat) (q : Queue) : Option State :=
  let x := homeRead s (entryIa q q.start) 64
  let id := BitVec.ofNat 64 (homeRead s (entryIa q q.start + 64) 8)
  match q.void.find? fun v => v.1 = q.start with
  | some v => some (refuseEntry s q v.2.1 v.2.2.1 0 (some v.2.2.2))
  | none =>
    if (q.done.any fun y => y.seq = q.start) || s.groups.any (fun g => g.entry = some (q.n, q.start)) then some (passStart s q.n q.start)
    else match findLaunch s id with
    | none => none
    | some l => match findPart s l.part with
      | none => none
      | some p =>
        if !trOk (widB1 (lrWidf l.record)) x then some (refuseEntry s q 1 0 0 (some l.part))
        else
        let k := trWaves x
        let origin := q.origins.find? fun y => y.1 = q.start
        let first := if trLocal x then origin.map fun y => (y.2.1, y.2.2.1) else none
        let clock := match origin with | some y => y.2.2.2 | none => Clock.zero
        match freeContexts s l.id 0 (lrCtxN l.record) k,
          chooseCore s p (freshNeed k (trBlocks x) (trAbuf x) (trWbuf x) (trCbuf x)) die first clock with
        | some ctx, some (d, c) =>
          let g := startGroup s.fresh l k (trAbuf x) (trWbuf x) (trCbuf x) true false (some (q.n, q.start)) (BitVec.ofNat 64 (trSucc x)) (trBlocks x) clock
          let ws := (groupWaves l g.id k (trBlocks x) (trRoles x) (trPri x) ctx (BitVec.ofNat 64 (trEntry x)) (trWid (widB1 (lrWidf l.record)) x)).map
            fun w => { w with arg := BitVec.ofNat 64 (trArg x) }
          some (passTurn (passStart (placeGroup s g ws d c) q.n q.start) q.n)
        | _, _ => none

/-- A launch of the queue that is replayed from an entry which START has passed (R359). -/
def replayed (s : State) (q : Queue) : Option Launch :=
  minBy (fun l => l.seq.toNat) (s.launches.filter fun l => l.queue = q.n && l.state = .running && l.next < l.groups && l.seq ≠ q.start)

/-- What a queue's turn does, none when it can do nothing now. -/
def serveQueue (s : State) (die : Nat) (q : Queue) : Option State :=
  let head : Option State :=
    if q.start = q.tail then none
    else if q.desc.task then serveTask s die q
    else serveLaunch s die q
  match (replayed s q).bind (placeNext s die q) with
  | some t => some t
  | none => head

/-- A decision of a die's dispatcher: the queue of the highest PRI, then of the oldest turn, that can be served. -/
def dispatchNext (s : State) (die : Nat) : Option State :=
  let qs := s.queues.filter fun q => q.desc.v && q.n % 4 = die
  (sortBy (fun q => ((7 - q.desc.pri.toNat) * (s.fresh + 1) + q.turn) * 4096 + q.n) qs).findSome? (serveQueue s die)

/-- GROUP_DISPATCH (R321). -/
def execGroupDispatch (die : Nat) (s : State) : Host.Outcome State Fault Refusal := .next ((dispatchNext s die).getD s)

/-! ### Successors (R191) -/

/-- The wave of a group that finished last. -/
def lastWave (s : State) (g : Nat) : Option Wave := minBy (fun w => s.fresh - w.lastRun) (wavesOf s g)

/-- The launch of a finishing group is faulted; the fault names the group's last wave. -/
def successorFault (s : State) (g : Group) (t : Trap) : State :=
  let s1 := match lastWave s g.id with
    | none => s
    | some w =>
      let x : TrapInfo := { trap := t, mask := 0, dmask := 0, pc := exitedPc, rpc := exitedPc, addr := g.succ, code := 0, eng := none
                            wscope := 0, wslot := 0, lanes := 0, stand := exitedPc }
      emitWave s w 0x06 1 1 exitedPc (fld (faultRecord w x) 192 512)
  faultLaunch s1 g.launch t

/-- Where the group finished; after a save, the home die of its successor block. -/
def finishPlace (g : Group) (ia : Nat) : Nat × Nat := match g.place with | some p => p | none => (homeDie ia, 0)

/-- A successor append that waits (R316): done when the queue has room. A queue that fails the test of R189 faults the launch with
ENGINE (R191). -/
def appendSuccessor (s : State) (g : Group) (q x : Nat) : Option State :=
  match taskQueue s q (tenantOf s g.part) with
  | none => some (successorFault s g .engine)
  | some y =>
    if queueFull y then none
    else some (removeGroup (modGroup (appendTask s y g.launch x (finishPlace g 0)) g.id fun z => { z with appending := none }) g.id)

/-- The count of a finished task group's successor decremented as a device-scope release; at 0 its record is to be
appended, which waits while the queue is full. -/
def decrementSuccessor (s : State) (g : Group) : Option State :=
  match lastWave s g.id with
  | none => some (removeGroup s g.id)
  | some w =>
    match verdictWord s w g.succ 4, verdictWord s w (g.succ + 64) 64 with
    | .ok p, .ok r =>
      let waits := (s.groups.filter fun y => y.appending.isSome && (y.place.map (·.1)) = (g.place.map (·.1))).length
      if !clockCounts (clockOf s (homeDie p.ia)) (clockOf s (finishPlace g p.ia).1) || 256 ≤ waits then none
      else
        let n := counterWord s p.ia - 1
        let s1 := wakeJoins (counterWrite s (finishPlace g p.ia).1 w 0 exitedPc 0 g.succ p.ia n) p.ia
        if n ≠ 0 then some (removeGroup s1 g.id)
        else
          let block := homeRead s1 p.ia 64
          let q := bitsOf block 32 12
          let x := homeRead s1 r.ia 64
          let b1 := match findLaunch s g.launch with | some l => widB1 (lrWidf l.record) | none => 5
          if memPoisoned s1 p.ia 64 || memPoisoned s1 r.ia 64 then some (consumeBy s1 w 0 .memory)
          else if bitsOf block 44 468 ≠ 0 || !trOk b1 x then some (successorFault s1 g .engine)
          else if (taskQueue s1 q (tenantOf s g.part)).isNone then some (successorFault s1 g .engine)
          else
            let g1 := { g with succ := 0, appending := some (q, x) }
            some ((appendSuccessor (modGroup s1 g.id fun _ => g1) g1 q x).getD (modGroup s1 g.id fun _ => g1))
    | .poison x, _ | _, .poison x => some (consumeBy s w 0 x)
    | _, _ => some (successorFault s g .engine)

/-- The end of a task group with a successor. -/
def finishTask (s : State) (gid : Nat) : Option State :=
  match findGroup s gid with
  | none => none
  | some g =>
    match g.appending with
    | some (q, x) => appendSuccessor s g q x
    | none => if g.finished && g.task && g.succ ≠ 0 then decrementSuccessor s g else none

/-- TASK_GROUP_FINISH (R191). -/
def execTaskGroupFinish (group : Nat) (s : State) : Host.Outcome State Fault Refusal := .next ((finishTask s group).getD s)

/-! ### Clover (R325 to R327) -/

/-- Bucket n of a core starts to form its wave, when the test allows. -/
def startForming (s : State) (die core n : Nat) (ok : Bucket → Bool) : State :=
  modCore s die core fun c =>
    match c.buckets[n]? with
    | some b => if !b.forming && ok b then { c with buckets := c.buckets.set n { b with forming := true } } else c
    | none => c

/-- BUCKET_FULL (R325). -/
def execBucketFull (die core n : Nat) (s : State) : Host.Outcome State Fault Refusal :=
  .next (startForming s die core n fun b => b.recs.length = 32)

/-- BUCKET_FLUSH (R325). -/
def execBucketFlush (die core n : Nat) (s : State) : Host.Outcome State Fault Refusal :=
  .next (startForming s die core n fun b => !b.recs.isEmpty)

/-- May a Clover wave take an ordinary slot of a quadrant? -/
def ordinaryRoom (s : State) (die core quad : Nat) : Bool :=
  !(freeSlots s die core quad).isEmpty && 1 ≤ openBlocks s die core quad && claimsAllow s die core quad 1

/-- The base blocks of a quadrant that a forming wave could use (R325). -/
def usableBlocks (s : State) (die core quad : Nat) : Nat :=
  openBlocks s die core quad + (if reservedFree s die core quad then 1 else 0)

/-- The quadrant that a forming wave takes. -/
def cloverQuad (s : State) (die core : Nat) : Option Nat :=
  minBy (fun q => 64 - usableBlocks s die core q)
    ((List.range 4).filter fun q => ordinaryRoom s die core q || reservedFree s die core q)

/-- A Clover wave put into an ordinary slot, or into the reserved one (R326). -/
def seatClover (s : State) (wid g die core quad : Nat) : State :=
  let slot := match freeSlots s die core quad with
    | k :: _ => if ordinaryRoom s die core quad then (k, false) else (ordinarySlots, true)
    | [] => (ordinarySlots, true)
  let s1 := modGroup (l1DropAll s die core) g fun x => { x with place := some (die, core) }
  modWave s1 wid fun w =>
    { w with place := some ⟨die, core, quad, slot.1, slot.2⟩, stopped := clusterStopped s die core, lastRun := s.fresh }

/-- A lane that runs a spawn record (R38, R187). -/
def cloverLane (r : BitVec 512) : LaneCtx :=
  { startLane (srEntry r) with
    regs := (List.range 4).foldl (fun m k => spSet m k (srPayload r k)) []
    serial := srSerial r, join := srJoin r }

/-- The group and the wave of a bucket, not yet placed. Its payload registers differ by lane: their tag is V (R334). -/
def cloverGroup (s : State) (l : Launch) (b : Bucket) : State × Nat :=
  let gid := s.fresh
  let ctx := (freeContexts s l.id (lrCtxN l.record) (lrCtxN l.record + lrSpn l.record) 1).bind List.head?
  let lanes : Lanes LaneCtx := Lanes.of fun k => match b.recs[k.val]? with | some r => cloverLane r | none => LaneCtx.empty
  let w := { startWave (gid + 1) gid l 0 1 0 b.pri.toNat ctx true 0 lanes with tags := (List.range 4).map fun k => (k, .vec) }
  let g := startGroup gid l 1 0 0 0 false true none 0 1 b.clock
  ({ s with groups := s.groups ++ [g], waves := s.waves ++ [w], fresh := gid + 2 }, gid)

/-- The WAVEFORM record of a spawned wave, formed on a die (R387). -/
def waveformRecord (s : State) (w : Wave) (die : Nat) : State :=
  let live := liveMask w
  let r := waveRec s w 0x07 2 live (match minPc w live with | some p => p | none => 0)
    ((laneList.map fun l => fld (laneOf w l).serial.toNat (192 + 32 * l.val) 32).foldl (· + ·) 0)
  emit s w.part { r with brk := (dieAt s die).broken }

/-- A bucket taken from its core. -/
def takeBucket (s : State) (die core n : Nat) : State := modCore s die core fun c => { c with buckets := c.buckets.eraseIdx n }

/-- A wave formed from a bucket, once a slot is free. -/
def formWave (s : State) (die core n : Nat) : Option State :=
  match (coreAt s die core).buckets[n]? with
  | none => none
  | some b =>
    match findLaunch s b.launch with
    | none => none
    | some l =>
      let own := match findPart s l.part with | some p => (coresOf p).contains (die, core) | none => false
      if !b.forming || !own || !startReady s die b.clock then none
      else match cloverQuad s die core with
        | none => none
        | some quad =>
          let (s1, gid) := cloverGroup (takeBucket s die core n) l b
          let s2 := seatClover s1 (gid + 1) gid die core quad
          some (match findWave s2 (gid + 1) with | some w => waveformRecord s2 w die | none => s2)

/-- WAVE_FORM (R325). -/
def execWaveForm (die core n : Nat) (s : State) : Host.Outcome State Fault Refusal := .next ((formWave s die core n).getD s)

/-- The priority of a record that comes from the pool: that of the spawning wave while it runs, else of the launch's
queue. -/
def parentPri (s : State) (l : Launch) (r : BitVec 512) : BitVec 3 :=
  let name : DWord := r.extractLsb' 320 64
  let spn := r.getLsbD 418
  match s.waves.find? fun w => w.launch = l.id && w.spn = spn && laneList.any fun k => nameOf w k = name with
  | some w => w.pri
  | none => match findQueue s l.queue with | some q => q.desc.pri | none => 0

/-- The oldest pool record moved to the gatherer of a core of the partition that has room (R327). A record whose reserved
fields are not zero is rejected (R7): R185 names no status, and it forms no wave (DESIGN CHOICE, log 68). -/
def movePool (s : State) (id : DWord) (die core : Nat) : Option State :=
  match findLaunch s id with
  | none => none
  | some l =>
    match findPart s l.part, poolIa s l l.poolHead with
    | some p, some ia =>
      let r := BitVec.ofNat 512 (homeRead s ia 64)
      if l.state ≠ .running || l.poolHead = l.poolTail || !(coresOf p).contains (die, core)
          || !gathererRoom (coreAt s die core) id (srEntry r) then none
      else if memPoisoned s ia 64 then some (consumeError s id (r.extractLsb' 320 64) (r.getLsbD 418) .memory)
      else
        let s1 := if srOk r then gather s die core id (parentPri s l r) (l.poolClocks.head?.getD Clock.zero) r else s
        some (settleLaunch (modLaunch s1 id fun x => { x with poolHead := x.poolHead + 1, poolClocks := x.poolClocks.drop 1 }) id)
    | _, _ => none

/-- POOL_RECORD_MOVE (R327). -/
def execPoolRecordMove (launch : DWord) (die core : Nat) (s : State) : Host.Outcome State Fault Refusal :=
  .next ((movePool s launch die core).getD s)

/-! ### Launch packets (R370 to R374) -/

/-- The tenant of a job and secure domain (R371). -/
def tenantOfJob (s : State) (job : BitVec 24) (sdi : BitVec 16) : Option Nat :=
  (List.range 64).find? fun t => let e := s.tenants.get (Fin.ofNat 64 t); e.v && e.job = job && e.sdi = sdi

/-- Do two headers name one thread of one launch of one module (R360, R385)? -/
def sameSender (h k : SendHeader) : Bool := k.origin = h.origin && k.launch = h.launch && k.name = h.name && k.spn = h.spn

/-- Has the key of a send been accepted (R360, R370)? -/
def keySeen (s : State) (h : SendHeader) : Bool := s.keys.any fun k => sameSender h k && h.n.toNat ≤ k.n.toNat

/-- The key of a send accepted. -/
def keepKey (s : State) (h : SendHeader) : State := { s with keys := putBy (sameSender h) h s.keys }

/-- Bit q of the bitmap that a tenant's QMAP names (R371). -/
def qmapBit (s : State) (e : TenantEntry) (q : Nat) : Bool := (protectGet s (e.qmap.toNat + 8 * (q / 64))).getLsbD (q % 64)

/-- The first status that applies to a packet, or the queue that takes it (R373). -/
def packetCheck (s : State) (p : Packet) : Except Nat (Option Queue) :=
  let b := p.bytes.toNat
  let n := bitsOf b 1024 12
  let part := bitsOf b 224 6
  if p.len ≠ 136 || bitsOf b 1036 52 ≠ 0 then .error 6
  else match tenantOfJob s p.job p.sdi with
    | none => .error 1
    | some t =>
      let e := s.tenants.get (Fin.ofNat 64 t)
      if keySeen s p.hdr then .ok none
      else match findQueue s n with
        | none => .error 2
        | some q =>
          if !qmapBit s e n || !q.desc.v || q.desc.tenant.toNat ≠ t then .error 2
          else if q.desc.task then .error 4
          else if !e.parts.getLsbD part then .error 3
          else if queueFull q then .error 5
          else .ok (some q)

/-- Inbound operations of a partition that a sender has sent so far: what a packet of that sender waits for (R374). -/
def sentBefore (s : State) (part : Nat) (origin : Word) : Nat :=
  match findPart s part with
  | none => 0
  | some p =>
    (List.range p.inbound.length).foldl (fun n k => match p.inbound[k]? with
      | some x => if x.hdr.origin = origin then p.inboundDone + k + 1 else n
      | none => n) 0

/-- Does a port reach its I/O die: port p that of die p div 8, the failed die's traffic the other die's ports (R368, R369)? -/
def portUp (s : State) (port : Fin 16) : Bool := !s.ioDead.contains (port.val / 8)

/-- A launch packet checked and appended (R316, R373). -/
def takePacket (s : State) (p : Packet) : State :=
  if !portUp s p.port then s
  else match packetCheck s p with
  | .error n => answer s (.packet p.hdr n)
  | .ok none => answer s (.packet p.hdr 0)
  | .ok (some q) =>
    let s1 := hardWrite (keepKey s p.hdr) (launchId q.n q.tail) (entryIa q q.tail) (bytesOf p.bytes.toNat 128)
    let n := sentBefore s (bitsOf p.bytes.toNat 224 6) p.hdr.origin
    answer (modQueue s1 q.n fun x => { x with tail := x.tail + 1, after := x.after ++ [(q.tail, n)] }) (.packet p.hdr 0)

/-- LAUNCH_PACKET (R373). -/
def execLaunchPacket (p : Packet) (s : State) : Host.Outcome State Fault Refusal := .next (takePacket s p)

/-! ### Inbound memory operations (R375) -/

/-- Bytes of an inbound operation. -/
def inboundLen (x : Inbound) : Nat := if x.data.isEmpty then x.len else x.data.length

/-- The IAs that stand for the granules of an inbound operation. -/
def inboundGranules (x : Inbound) : List Nat :=
  let a := x.ia.toNat
  (List.range ((a + max (inboundLen x) 1 - 1) / 64 + 1 - a / 64)).map fun k => if k = 0 then a else 64 * (a / 64 + k)

/-- May a tenant reach the window of an IA: one of a partition of its own, or, to read, one exported to such (R306)? -/
def windowFor (s : State) (tenant ia : Nat) (write : Bool) : Bool :=
  ia / 2 ^ 48 = 0 && match windowOwner s ia with
    | none => false
    | some (o, xs) =>
      (match findPart s o with | some p => p.desc.v && p.desc.tenant.toNat = tenant | none => false)
        || (!write && xs.any fun n => match findPart s n with | some p => p.desc.v && p.desc.tenant.toNat = tenant | none => false)

/-- The check that an inbound operation fails first (R375): its status of R217. -/
def inboundStatus (s : State) (x : Inbound) (write : Bool) : Nat :=
  let gs := inboundGranules x
  match tenantOfJob s x.job x.sdi with
  | none => 9
  | some t =>
    if !gs.all (fun a => windowFor s t a write) then 9
    else if !gs.all (fun a => match pageOf s a with | some g => if write then g.leaf.wp else g.leaf.rp | none => false) then 9
    else if !gs.all (fun a => keyOf (homeMetaOf s a) = x.hdr.key.toNat) then 8
    else if !gs.all (fun a => colourOf (homeMetaOf s a) = 0) then 2
    else if !gs.all (fun a => match pageOf s a with | some g => g.leaf.res | none => false) then 4
    else 0

/-- Does a write with a header still wait for its mark (R375)? -/
def inboundWaits (s : State) (h : SendHeader) : Bool := s.parts.any fun p => p.inbound.any fun x => x.hdr = h && !(x.data.isEmpty && x.len ≠ 0)

/-- An inbound operation checked; one that passes waits for the next mark of the window's owner. A duplicate of a write is
discarded: it has the answer of the first, which comes when that is applied (R370, R375). A read is no send and leaves no key
(DESIGN CHOICE, log 89). -/
def takeInbound (s : State) (x : Inbound) (write : Bool) : State :=
  if !portUp s x.port then s
  else if write && keySeen s x.hdr then (if inboundWaits s x.hdr then s else answer s (.rma x.hdr 0))
  else match inboundStatus s x write with
    | 0 => match windowOwner s x.ia.toNat with
      | some (o, _) => modPart (if write then keepKey s x.hdr else s) o fun p => { p with inbound := p.inbound ++ [x] }
      | none => s
    | n => answer s (.rma x.hdr n)

/-- INBOUND_RMA_WRITE (R375). -/
def execInboundRmaWrite (x : Inbound) (s : State) : Host.Outcome State Fault Refusal :=
  .next (takeInbound s { x with len := 0 } true)

/-- INBOUND_RMA_READ (R375). -/
def execInboundRmaRead (x : Inbound) (s : State) : Host.Outcome State Fault Refusal :=
  .next (takeInbound s { x with data := [] } false)

end Sys2Proof.Machine
end

