-- ==== Sys2Proof/Machine/Drain.lean ====
section
/-! DEFINITION. The arithmetic of the matrix array (R77 to R81, R95, R204), the checksums of C tiles (R207), and the
drain of a C tile with its check, its correction and its conversion (R208 to R210). -/
namespace Sys2Proof.Machine

/-! ### Checksums (R207) -/

/-- What one cell adds to a checksum: its finite value in units of 2^-149 (.f32) or 1 (.s32), or a count. -/
def ckOf (isInt : Bool) (p : Nat) : CkSum :=
  if isInt then ⟨signedOf p 32, 0, 0, 0⟩
  else match floatVal f32Fmt p with
    | .fin n m e => ⟨mant n m * pow2 (e + 149), 0, 0, 0⟩
    | .inf false => ⟨0, 1, 0, 0⟩
    | .inf true => ⟨0, 0, 1, 0⟩
    | .nan _ => ⟨0, 0, 0, 1⟩

def ckAdd (a b : CkSum) : CkSum := ⟨a.fin + b.fin, a.pinf + b.pinf, a.ninf + b.ninf, a.nan + b.nan⟩
/-- A checksum with one cell's contribution taken out and another's put in. -/
def ckSwap (a old new : CkSum) : CkSum :=
  ⟨a.fin + new.fin - old.fin, a.pinf + new.pinf - old.pinf, a.ninf + new.ninf - old.ninf, a.nan + new.nan - old.nan⟩

/-- Do the counts of two checksums agree? -/
def ckCounts (a b : CkSum) : Bool := a.pinf = b.pinf && a.ninf = b.ninf && a.nan = b.nan

/-- Is the tile one of .s32? -/
def cInt (d : BitVec 128) : Bool := tdFmt d = 1

/-! ### MMA and MMAS (R203, R204) -/

/-- The three tiles of an operation when R201 accepts them. -/
def matTiles (g : Group) (op : MatOp) : Option (Tile × Tile × Tile) :=
  match findTile g op.ta, findTile g op.tb, findTile g op.tc with
  | some a, some b, some c =>
    let n := Mask.count op.gang
    let path := (tdFmt a.desc, tdFmt b.desc, tdFmt c.desc)
    if tdKind a.desc = 0 && tdKind b.desc = 1 && tdKind c.desc = 2
        && (path = (0, 0, 1) || path = (1, 0, 0) || path = (1, 1, 0) || path = (2, 2, 0))
        && tdRb a.desc = n && tdRb c.desc = n && op.j.val < tdKb a.desc && op.j.val < tdKb b.desc
        && (!op.sparse || (tdBmap a.desc = 1 && tdBmap b.desc = 1)) then some (a, b, c) else none
  | _, _, _ => none

/-- Element i of column c of K-block j of a B tile (R77, R78, R197). -/
def bElement (m : Memory) (d : BitVec 128) (j c i : Nat) : Num :=
  let data := tdBase d + j * tdSection d + 128 + 512 * tdBmap d
  match tdFmt d with
  | 0 =>
    let k := tdPlanes d
    let u := (List.range k).foldl (fun u p => 2 * u + bitsOf (readN m (data + 512 * p + 4 * c) 4) i 1) 0
    let q := signedOf u k
    let v : Int := if k = 8 then q else q * (2 ^ (8 - k) : Nat) + (2 ^ (7 - k) : Nat)
    numOf false v 0
  | 1 => floatVal e4m3Fmt (readN m (data + 32 * c + i) 1)
  | _ => floatVal bf16Fmt (readN m (data + 64 * c + 2 * i) 2)

/-- Element (r, k) of an A tile. -/
def aValue (m : Memory) (d : BitVec 128) (r k : Nat) : Num :=
  match tdFmtA d with
  | some f => valOf f (readN m (aElement d r k) (Fmt.bytes f))
  | none => .fin false 0 0

/-- The shift count of column c of K-block j (R81). -/
def bShift (m : Memory) (d : BitVec 128) (j c : Nat) : Int := signedOf (readN m (tdBase d + j * tdSection d + c) 1) 8

/-- The products that are formed: the elements whose bitmap bits are 1 (R204). -/
def formed (g : Group) (op : MatOp) (da db : BitVec 128) (r c : Nat) : List Nat :=
  let am := if op.sparse then readN g.abuf (aBitmap da r op.j.val) 4 else 0xFFFFFFFF
  let bm := if tdBmap db = 1 then readN g.wbuf (tdBase db + op.j.val * tdSection db + 128 + 4 * c) 4 else 0xFFFFFFFF
  (List.range 32).filter fun i => bitsOf am i 1 = 1 && bitsOf bm i 1 = 1

/-- The exact sum of the products of a block (R95), taken in ascending k: in a block with a NaN product and products of
infinities of both signs, NV is set when the infinities meet before the first NaN (DESIGN CHOICE, log 60: the exact sum
has no order in the spec). -/
def blockSum (xs : List (Num × Num)) : Num × Flags :=
  match xs with
  | [] => (.fin false 0 0, 0)
  | x :: rest =>
    rest.foldl (fun acc y =>
      let p := mulNum y.1 y.2
      let r := addNum .rne acc.1 p.1
      (r.1, acc.2 ||| p.2 ||| r.2)) (mulNum x.1 x.2)

/-- A value times 2^s. -/
def shiftNum (x : Num) (s : Int) : Num :=
  match x with
  | .fin n m e => .fin n m (e + s)
  | .inf n => .inf n
  | .nan b => .nan b

/-- The A scale of row r, K-block j: byte j of lane r mod 32 of the scale register of member r / 32 (R203). -/
def aScale (arr : List Arrival) (j r : Nat) : Nat :=
  match (sortBy (fun a => a.index.toNat) arr)[r / 32]? with
  | some a => bitsOf (a.scales.get (Fin.ofNat 32 r)).toNat (8 * j) 8
  | none => 0

/-- The new value of a cell and its flags (R95, R204). -/
def newCell (isInt : Bool) (old : Nat) (sum : Num × Flags) (sa : Nat) (s : Int) : Nat × Flags :=
  if isInt then
    match addNum .rne (intVal 32 true old) sum.1 with
    | (x, _) => let r := roundInt 32 true .rne 0 x; ((BitVec.ofInt 32 r.1).toNat, r.2)
  else
    let x := mulNum sum.1 (floatVal e5m3Fmt sa)
    let y := addNum .rne (floatVal f32Fmt old) (shiftNum x.1 s)
    let z := roundTo f32Fmt .rne 0 y.1
    (z.1, sum.2 ||| x.2 ||| y.2 ||| z.2)

/-- A C tile as an operation builds it up. -/
structure CTile where
  buf : Memory
  rows : List CkSum
  cols : List CkSum
  flags : Flags

/-- One cell written, with its checksums (R204, R207). -/
def putCell (d : BitVec 128) (x : CTile) (r c : Nat) (new : Nat) (fl : Flags) : CTile :=
  let old := ckOf (cInt d) (readN x.buf (cCell d r c) 4)
  let now := ckOf (cInt d) new
  { buf := writeN x.buf (cCell d r c) 4 new
    rows := setNth x.rows r (ckSwap (nthD x.rows r CkSum.zero) old now)
    cols := setNth x.cols c (ckSwap (nthD x.cols c CkSum.zero) old now), flags := x.flags ||| fl }

/-- One cell of an operation (R204). -/
def matCell (g : Group) (op : MatOp) (arr : List Arrival) (da db dc : BitVec 128) (r : Nat) (x : CTile) (c : Nat) : CTile :=
  let j := op.j.val
  let s := bShift g.wbuf db j c
  let ks := formed g op da db r c
  if s = -128 || ks.isEmpty then x
  else
    let sum := blockSum (ks.map fun i => (aValue g.abuf da r (32 * j + i), bElement g.wbuf db j c i))
    let n := newCell (cInt dc) (readN x.buf (cCell dc r c) 4) sum (aScale arr j r) s
    putCell dc x r c n.1 n.2

/-- An operation on its C tile (R204). -/
def matApply (g : Group) (op : MatOp) (arr : List Arrival) (a b c : Tile) : CTile :=
  let rows := min (tdRows a.desc) (32 * tdRb c.desc)
  (List.range rows).foldl (fun x r =>
    let ns := !cInt c.desc && aScale arr op.j.val r = 0xFF
    let y := { x with flags := x.flags ||| flagIf ns fNS }
    (List.range (tdCols b.desc)).foldl (matCell g op arr a.desc b.desc c.desc r) y)
    { buf := g.cbuf, rows := c.rows, cols := c.cols, flags := c.flags }

/-! ### The drain (R208 to R210) -/

/-- Every cell of a C tile, row by row. -/
def cellsOf (m : Memory) (d : BitVec 128) : List (List Nat) :=
  (List.range (32 * tdRb d)).map fun r => (List.range 128).map fun c => readN m (cCell d r c) 4

/-- The checksum of a list of cells. -/
def ckList (isInt : Bool) (l : List Nat) : CkSum := l.foldl (fun a p => ckAdd a (ckOf isInt p)) CkSum.zero

/-- Positions at which two lists of checksums differ. -/
def ckDiffer (a b : List CkSum) : List Nat := (List.range b.length).filter fun k => nthD a k CkSum.zero ≠ nthD b k CkSum.zero

/-- A finite checksum value as a cell of the format, when it is one (R208). A corrected zero is written as +0: the sums do
not tell +0 from -0 (DESIGN CHOICE, log 61). -/
def cellOfSum (isInt : Bool) (v : Int) : Option Nat :=
  if isInt then (if -(2 ^ 31 : Nat) ≤ v && v < (2 ^ 31 : Nat) then some (BitVec.ofInt 32 v).toNat else none)
  else
    let r := roundTo f32Fmt .rne 0 (numOf false v (-149))
    if r.2 &&& (fNX ||| fOF) = 0 then some r.1 else none

/-- What the check of a drain finds: the buffer as it is converted, with the cell corrected, or none when the tile is
uncorrectable (R208). -/
def checkTile (m : Memory) (t : Tile) (detect : Bool) : Option (Memory × Option (Nat × Nat)) :=
  let d := t.desc
  let cells := cellsOf m d
  let rs := cells.map (ckList (cInt d))
  let cs := (List.range 128).map fun c => ckList (cInt d) (cells.map fun row => nthD row c 0)
  match ckDiffer rs t.rows, ckDiffer cs t.cols with
  | [], [] => some (m, none)
  | [r], [c] =>
    if detect then none
    else
      let old := readN m (cCell d r c) 4
      let x := ckOf (cInt d) old
      let cr := nthD t.rows r CkSum.zero
      let cc := nthD t.cols c CkSum.zero
      let v := cr.fin - ((nthD rs r CkSum.zero).fin - x.fin)
      let v' := cc.fin - ((nthD cs c CkSum.zero).fin - x.fin)
      if ckCounts cr (nthD rs r CkSum.zero) && ckCounts cc (nthD cs c CkSum.zero) && x.pinf = 0 && x.ninf = 0 && x.nan = 0 && v = v'
      then (cellOfSum (cInt d) v).map fun p => (writeN m (cCell d r c) 4 p, some (r, c))
      else none
  | _, _ => none

/-- The inversion of checksum mode inject: bit 16 of stored cell (3, 5) (R209). -/
def injectCell (m : Memory) (d : BitVec 128) : Memory :=
  writeN m (cCell d 3 5) 4 ((BitVec.ofNat 32 (readN m (cCell d 3 5) 4)) ^^^ 0x10000#32).toNat

/-- Cell (r, c) converted as CVT does, DTH with i = c mod 32 and the drain's phase (R85, R210). -/
def drainCell (m : Memory) (d : BitVec 128) (fmt : Fmt) (md : Rnd) (ph : Nat) (r c : Nat) : Nat × Flags :=
  let x := convert (if cInt d then .s32 else .f32) fmt md ((c + ph) % 32) (readN m (cCell d r c) 4)
  (x.1.toNat % 2 ^ (8 * Fmt.bytes fmt), x.2)

/-- Is a converted pattern plus or minus zero (R210)? -/
def zeroPattern (fmt : Fmt) (p : Nat) : Bool :=
  match fmtFloat fmt with
  | some f => match f.sgn with
    | some b => p % 2 ^ b = 0
    | none => p = 0
  | none => p = 0

end Sys2Proof.Machine
end

