-- ==== Sys2Proof/Machine/Matrix.lean ====
section
/-! DEFINITION. TDEF, TSET, CKMODE (R196, R199, R209), MMA and MMAS with their rendezvous and the array (R201 to R205),
CINIT (R206) and CDRAIN (R210). -/
namespace Sys2Proof.Machine

/-! ### TDEF, TSET, CKMODE -/

/-- The definition put in the place of a tile's, or as a new entry (R196). -/
def defineTile (s : State) (g : Nat) (n : Fin 64) (d : BitVec 128) : State :=
  modGroup s g fun x => { x with tiles := sortBy (fun t => t.n.val) (putBy (fun t => t.n = n) (newTile n d) x.tiles) }

/-- The entry of a tile freed (R196). -/
def freeTile (s : State) (g : Nat) (n : Fin 64) : State := modGroup s g fun x => { x with tiles := x.tiles.filter fun t => t.n ≠ n }

/-- The own checks of TDEF and its effect (R196). -/
def tdefBody (c : Ctx) (g : Group) (n : Fin 64) (d : BitVec 128) : Res :=
  if !tdOk d then c.trap .engine c.exec 0
  else if tdKind d = 3 then c.done (freeTile c.s g.id n)
  else if tdBase d % 64 ≠ 0 then c.trap .align c.exec (BitVec.ofNat 64 (tdBase d))
  else if (bufOf g (tdKind d)).2 < tdBase d + tdBytes d then c.trap .perm c.exec (BitVec.ofNat 64 (tdBase d))
  else if (findTile g n).isNone && Config.tileEntries ≤ entriesUsed c.s g.place then c.trap .engine c.exec 0
  else c.done (defineTile c.s g.id n d)

/-- TDEF (R196). -/
def execTdef (e : Bool) (t : Fin 64) (q : Reg) (s : State) : Host.Outcome State Fault Refusal :=
  issue (.tdef e t q) s scoutEnds fun c =>
    match findGroup c.s c.w.group with
    | none => c.done c.s
    | some g =>
      let held : Bool := match findTile g t with
        | some x => x.busy ≠ 0 || x.state = .filling || x.state = .draining
        | none => false
      if held then .wait c.s .tile else tdefBody c g t (c.quad 0 c.top)

/-- TSET (R199). -/
def execTset (e : Bool) (t : Fin 64) (st : TileState) (s : State) : Host.Outcome State Fault Refusal :=
  issue (.tset e t st) s scoutEnds fun c =>
    match (findGroup c.s c.w.group).bind fun g => findTile g t with
    | none => c.trap .engine c.exec 0
    | some x => if x.busy ≠ 0 then .wait c.s .tile else c.done (setTile c.s c.w.group t st)

/-- CKMODE (R209). -/
def execCkmode (e : Bool) (m : BitVec 3) (s : State) : Host.Outcome State Fault Refusal :=
  issue (.ckmode e m) s scoutEnds fun c => c.done (modWave c.s c.w.id fun w => { w with ckmode := m })

/-! ### The rendezvous -/

/-- Is the gang legal for the wave (R202, stage 2)? -/
def gangOk (g : Group) (w : Wave) : Bool :=
  2 ≤ Mask.count w.gang && Mask.count w.gang ≤ 6 && w.gang.getLsbD w.index.toNat && decide (w.gang.toNat < 2 ^ g.waves)

/-- Have all members of the gang arrived? -/
def allArrived (op : MatOp) (arr : List Arrival) : Bool :=
  (Mask.lanes op.gang).all fun k => arr.any fun a => a.index.toNat = k.val

/-- The arrival of the issuing wave. -/
def arrival (c : Ctx) : Arrival :=
  { index := c.w.index, scales := Lanes.of fun l => c.x 0 l
    poisoned := poisonedLanes c.s c.w (Mask.of fun _ => true) c.sh ≠ 0 }

/-- The rendezvous of the group that names a wave and still waits for it, or holds it (R202). Of two that name the wave it is the
one that was made first: the spec does not say with which the wave is compared (DESIGN CHOICE, log 94). -/
def rendezvousOf (g : Group) (index : BitVec 5) : Option (MatOp × List Arrival) :=
  match g.rendezvous.find? fun z => z.2.any fun a => a.index = index with
  | some z => some z
  | none => g.rendezvous.find? fun z => z.1.gang.getLsbD index.toNat && !allArrived z.1 z.2

/-- The rendezvous of a gang with its arrivals: the first arrival makes it, a later one adds to it. -/
def putGang (g : Group) (op : MatOp) (arr : List Arrival) : Group :=
  { g with rendezvous :=
      if g.rendezvous.any fun z => z.1.gang = op.gang then g.rendezvous.map fun z => if z.1.gang = op.gang then (op, arr) else z
      else g.rendezvous ++ [(op, arr)] }

/-- A wave at the rendezvous of the gang that names it, or at one of its own (R202, stages 3 and 4): it waits; a member
whose fields differ fails all with GANG, and tiles that R201 refuses fail all with ENGINE. -/
def meetGang (c : Ctx) (g : Group) (op : MatOp) : Res :=
  let z := (rendezvousOf g c.w.index).getD (op, [])
  if z.2.any fun a => a.index = c.w.index then .wait c.s (if allArrived z.1 z.2 then .tile else .rendezvous)
  else
    let arr := z.2 ++ [arrival c]
    let s1 := modGroup c.s g.id fun x => putGang x z.1 arr
    if op ≠ z.1 then .settled (failRendezvous s1 g.id z.1.gang .gang)
    else if !allArrived op arr then .wait s1 .rendezvous
    else if (matTiles g op).isNone then .settled (failRendezvous s1 g.id op.gang .engine)
    else .wait s1 .tile

/-- MMA and MMAS (R202). -/
def matBody (c : Ctx) (sparse : Bool) (a b t : Fin 64) (j : Fin 4) : Res :=
  match findGroup c.s c.w.group with
  | none => c.done c.s
  | some g =>
    if gangOk g c.w then meetGang c g { sparse := sparse, ta := a, tb := b, tc := t, j := j, gang := c.w.gang }
    else c.trap .gang c.exec 0

/-- MMA (R202). -/
def execMma (e : Bool) (a b t : Fin 64) (j : Fin 4) (u : Fin 16) (s : State) : Host.Outcome State Fault Refusal :=
  issue (.mma e a b t j u) s scoutEnds fun c => matBody c false a b t j

/-- MMAS (R202). -/
def execMmas (e : Bool) (a b t : Fin 64) (j : Fin 4) (u : Fin 16) (s : State) : Host.Outcome State Fault Refusal :=
  issue (.mmas e a b t j u) s scoutEnds fun c => matBody c true a b t j

/-- The gang leaves the rendezvous: the array takes the operation, its tiles are busy, and the members go on (R202,
stage 6; R194). -/
def leaveGang (s : State) (g : Group) (op : MatOp) (arr : List Arrival) : State :=
  let s1 := modGroup s g.id fun x =>
    { x with rendezvous := x.rendezvous.filter fun z => z.1.gang ≠ op.gang, array := x.array ++ [(op, arr)] }
  let s2 := busyTile (busyTile (busyTile s1 g.id op.ta) g.id op.tb) g.id op.tc
  arr.foldl (fun t a => match (wavesOf t g.id).find? fun w => w.index = a.index with
    | some w => completeWave (modWave t w.id reformWave) w.id
    | none => t) s2

/-- Are the three tiles of an operation ready (R202, stage 5)? -/
def tilesReady (x : Tile × Tile × Tile) : Bool := x.1.state = .ready && x.2.1.state = .ready && x.2.2.state = .ready

/-- Can a gang whose members have all arrived go on: its tiles are ready, or R201 refuses them? -/
def gangGoes (g : Group) (z : MatOp × List Arrival) : Bool :=
  allArrived z.1 z.2 && match matTiles g z.1 with
    | none => true
    | some x => tilesReady x

/-- The first gang of a group whose members have all arrived and that can go on leaves the rendezvous, or fails (R202). R201 is
checked again here, and fails the gang with ENGINE, since a tile may have been redefined or freed while it waited: the spec does
not say whether that stage is repeated (DESIGN CHOICE, log 94). -/
def acceptGang (s : State) (gid : Nat) : State :=
  match findGroup s gid with
  | none => s
  | some g =>
    match g.rendezvous.find? (gangGoes g) with
    | none => s
    | some (op, arr) =>
      if g.place.isNone then s
      else match matTiles g op with
        | none => failRendezvous s gid op.gang .engine
        | some _ => leaveGang s g op arr

/-- MMA_ACCEPT (R202). -/
def execMmaAccept (group : Nat) (s : State) : Host.Outcome State Fault Refusal := .next (acceptGang s group)

/-- Has a gang of waves none of which is stopped (R395) still members to wait for? -/
def gangWaits (s : State) (gid : Nat) (z : MatOp × List Arrival) : Bool :=
  !allArrived z.1 z.2 && !((wavesOf s gid).any fun w => w.stopped && z.2.any fun a => a.index = w.index)

/-- The rendezvous that has waited longest for a member fails (R202, R395). -/
def expireGang (s : State) (gid : Nat) : State :=
  match findGroup s gid with
  | none => s
  | some g =>
    match g.rendezvous.find? (gangWaits s gid) with
    | none => s
    | some (op, _) => if g.place.isNone then s else failRendezvous s gid op.gang .gang

/-- RENDEZVOUS_TIMEOUT (R202). -/
def execRendezvousTimeout (group : Nat) (s : State) : Host.Outcome State Fault Refusal := .next (expireGang s group)

/-- The columns in use whose K-block is not all zero: of the others nothing but the count is fetched (R81, R290). -/
def fetchedCols (g : Group) (op : MatOp) (b : Tile) : List Nat :=
  (List.range (tdCols b.desc)).filter fun c => bShift g.wbuf b.desc op.j.val c ≠ -128

/-- Is a word poisoned that the decompressor reads for column c of the K-block (R290)? -/
def colPoisoned (s : State) (g : Group) (op : MatOp) (d : BitVec 128) (c : Nat) : Bool :=
  let base := tdBase d + op.j.val * tdSection d
  let data := base + 128 + 512 * tdBmap d
  (tdBmap d = 1 && bufPoisoned s g.id 1 (base + 128 + 4 * c) 4)
    || match tdFmt d with
      | 0 => (List.range (tdPlanes d)).any fun p => bufPoisoned s g.id 1 (data + 512 * p + 4 * c) 4
      | 1 => bufPoisoned s g.id 1 (data + 32 * c) 32
      | _ => bufPoisoned s g.id 1 (data + 64 * c) 64

/-- Does an operation use a poisoned word (R204, R356)? A stored element whose products are all skipped is not read. -/
def matPoisoned (s : State) (g : Group) (op : MatOp) (arr : List Arrival) (a b c : Tile) : Bool :=
  let cols := fetchedCols g op b
  let rows := List.range (tdRows a.desc)
  (!cInt c.desc && arr.any (·.poisoned)) || !s.poisonBuf.isEmpty &&
    (bufPoisoned s g.id 1 (tdBase b.desc + op.j.val * tdSection b.desc) (tdCols b.desc)
    || cols.any (colPoisoned s g op b.desc)
    || rows.any fun r =>
      (op.sparse && !cols.isEmpty && bufPoisoned s g.id 0 (aBitmap a.desc r op.j.val) 4)
      || cols.any fun k =>
        let ks := formed g op a.desc b.desc r k
        (!ks.isEmpty && bufPoisoned s g.id 2 (cCell c.desc r k) 4)
          || ks.any fun i => bufPoisoned s g.id 0 (aElement a.desc r (32 * op.j.val + i)) (tdEsz a.desc))

/-- The launch of a group consumes an error at the array, in the name of the operation's first arrival (R356). -/
def consumeArray (s : State) (g : Group) (arr : List Arrival) : State :=
  match (wavesOf s g.id).find? fun w => arr.head?.any fun a => a.index = w.index with
  | some w => consumeError s g.launch (nameOf w 0) w.spn .buffer
  | none => consumeError s g.launch 0 g.spawned .buffer

/-- The oldest operation of the array accumulates into its C tile, and its tiles stop being busy (R204, R205, R194). -/
def finishArray (s : State) (gid : Nat) : State :=
  match findGroup s gid with
  | none => s
  | some g =>
    match g.array with
    | [] => s
    | (op, arr) :: rest =>
      let s1 := modGroup s gid fun x => { x with array := rest }
      let s2 := idleTile (idleTile (idleTile s1 gid op.ta) gid op.tb) gid op.tc
      match findTile g op.ta, findTile g op.tb, findTile g op.tc with
      | some a, some b, some c =>
        if matPoisoned s g op arr a b c then consumeArray s2 g arr
        else
          let x := matApply g op arr a b c
          modTile (modGroup s2 gid fun y => { y with cbuf := x.buf }) gid op.tc fun t =>
            { t with rows := x.rows, cols := x.cols, flags := x.flags }
      | _, _, _ => s2

/-- MMA_COMPLETE (R204). -/
def execMmaComplete (group : Nat) (s : State) : Host.Outcome State Fault Refusal := .next (finishArray s group)

/-! ### CINIT and CDRAIN -/

/-- Every cell of a C tile 0, its checksums and flags cleared (R206). -/
def clearTile (s : State) (g : Group) (t : Tile) : State :=
  let s1 := modGroup s g.id fun x => { x with cbuf := zeroBytes x.cbuf (tdBase t.desc) (tdBytes t.desc) }
  let s2 := { s1 with poisonBuf := s1.poisonBuf.filter fun q =>
    !(q.1 = g.id && q.2.1 = 2 && tdBase t.desc ≤ 4 * q.2.2 && 4 * q.2.2 < tdBase t.desc + tdBytes t.desc) }
  modTile s2 g.id t.n fun x => { x with rows := (clearSums t.desc).1, cols := (clearSums t.desc).2, flags := 0 }

/-- CINIT (R206). -/
def execCinit (e : Bool) (t : Fin 64) (s : State) : Host.Outcome State Fault Refusal :=
  issue (.cinit e t) s scoutEnds fun c =>
    match findGroup c.s c.w.group with
    | none => c.done c.s
    | some g =>
      match findTile g t with
      | none => c.trap .engine c.exec 0
      | some x =>
        if tdKind x.desc ≠ 2 then c.trap .engine c.exec 0
        else if x.state ≠ .ready || x.busy ≠ 0 then .wait c.s .tile
        else c.done (clearTile c.s g x)

/-- The tiles of a CDRAIN when its checks pass (R210). -/
def drainTiles (g : Group) (a t : Fin 64) : Option (Tile × Tile) :=
  match findTile g a, findTile g t with
  | some x, some y =>
    if tdKind x.desc = 0 && tdKind y.desc = 2 && tdRb x.desc = tdRb y.desc && tdKb x.desc = 4 then some (x, y) else none
  | _, _ => none

/-- CDRAIN issued (R198, R210): the phase taken, the tiles busy, draining and filling. -/
def startDrain (s : State) (w : Wave) (die core : Nat) (a t : Fin 64) (r : Rnd) : State :=
  let ph := (coreAt s die core).phase
  let s1 := modCore s die core fun x => { x with phase := x.phase + 1 }
  let s2 := setTile (setTile s1 w.group t .draining) w.group a .filling
  modWave (busyTile (busyTile s2 w.group a) w.group t) w.id fun v => { v with drain := some (a, t, r, ph) }

/-- CDRAIN up to its start (R210): it then holds the wave until the drain completes. -/
def cdrainBody (c : Ctx) (a t : Fin 64) (r : Rnd) : Res :=
  if c.w.drain.isSome then .wait c.s .tile
  else match findGroup c.s c.w.group with
    | none => c.done c.s
    | some g =>
      match drainTiles g a t with
      | none => c.trap .engine c.exec 0
      | some (x, y) =>
        if y.state ≠ .ready || y.busy ≠ 0 || x.state ≠ .empty || x.busy ≠ 0 then .wait c.s .tile
        else .wait (startDrain c.s c.w c.die c.core a t r) .tile

/-- CDRAIN (R210). -/
def execCdrain (e : Bool) (a t : Fin 64) (r : Rnd) (s : State) : Host.Outcome State Fault Refusal :=
  issue (.cdrain e a t r) s scoutEnds fun c => cdrainBody c a t r

/-- One converted cell written as an element of the A tile, with its bitmap bit, and its flags (R210). -/
def putElement (d : BitVec 128) (fmt : Fmt) (x : Memory × Flags) (r c : Nat) (y : Nat × Flags) : Memory × Flags :=
  let m := writeN x.1 (aElement d r c) (Fmt.bytes fmt) y.1
  let m' := if tdBmap d = 1 then
      let old := readN m (aBitmap d r (c / 32)) 4
      let bit := if zeroPattern fmt y.1 then 0 else 2 ^ (c % 32)
      writeN m (aBitmap d r (c / 32)) 4 (old - bitsOf old (c % 32) 1 * 2 ^ (c % 32) + bit)
    else m
  (m', x.2 ||| y.2)

/-- The conversion of every cell into the A tile (R210). -/
def convertTile (abuf cbuf : Memory) (da dc : BitVec 128) (fmt : Fmt) (md : Rnd) (ph : Nat) : Memory × Flags :=
  (List.range (32 * tdRb dc)).foldl (fun x r =>
    (List.range 128).foldl (fun x c => putElement da fmt x r c (drainCell cbuf dc fmt md ph r c)) x) (abuf, 0)

/-- The cells of a tile that a drain reads: after the inversion of mode inject (R209), checked (R208). -/
def drainCheck (g : Group) (t : Tile) (mode : Nat) : Option (Memory × Option (Nat × Nat)) :=
  checkTile (if mode = 2 then injectCell g.cbuf t.desc else g.cbuf) t (mode = 1)

/-- A correction counted and traced, under the names of the lanes that drain (R208, R228, R386, R390). -/
def countCorrection (s : State) (w : Wave) (m : Mask) (die core : Nat) (t : Fin 64) (fix : Option (Nat × Nat)) : State :=
  match fix with
  | none => s
  | some (r, c) =>
    emitWave (modCore s die core fun x => { x with corrections := x.corrections + 1 }) w 0x09 0 m 0
      (fld t.val 0 6 + fld r 8 8 + fld c 16 7)

/-- The tiles of a CDRAIN as it ends, and the checksum mode after inject (R198, R209). -/
def endDrain (s : State) (w : Wave) (a t : Fin 64) (st : TileState) : State :=
  let s1 := setTile (setTile (idleTile (idleTile s w.group a) w.group t) w.group t .ready) w.group a st
  modWave s1 w.id fun v => { v with drain := none, ckmode := if v.ckmode = 2 then 0 else v.ckmode }

/-- A CDRAIN that traps leaves no effect of its own (R9, R210): the tiles are as they were, the cell is not inverted, the
mode stays, and the core's phase goes back. -/
def dropDrain (s : State) (w : Wave) (g : Group) (a t : Fin 64) : State :=
  let s1 := setTile (setTile (idleTile (idleTile s g.id a) g.id t) g.id t .ready) g.id a .empty
  let (die, core) := g.place.getD (0, 0)
  modWave (modCore s1 die core fun x => { x with phase := x.phase - 1 }) w.id fun v => { v with drain := none }

/-- The passes of a CDRAIN end (R210). -/
def finishDrain (s : State) (wid : Nat) : State :=
  match findWave s wid with
  | none => s
  | some w =>
    match w.drain, findGroup s w.group with
    | some (a, t, md, ph), some g =>
      match findTile g a, findTile g t with
      | some x, some y =>
        match (if bufPoisoned s g.id 2 (tdBase y.desc) (tdBytes y.desc) then none else drainCheck g y w.ckmode.toNat), tdFmtA x.desc with
        | some (m, fix), some fmt =>
          let out := convertTile g.abuf m x.desc y.desc fmt md ph.toNat
          let (die, core) := g.place.getD (0, 0)
          let s1 := countCorrection (modGroup s g.id fun z => { z with abuf := out.1, cbuf := m }) w (recordMask w) die core t fix
          let s2 := { s1 with poisonBuf := s1.poisonBuf.filter fun q => !(q.1 = g.id && q.2.1 = 0 && tdBase x.desc ≤ 4 * q.2.2 && 4 * q.2.2 < tdBase x.desc + tdBytes x.desc) }
          let m' := match w.run with | some r => execMask w r | none => 0
          let s3 := orFlags s2 wid m' fun _ => y.flags ||| out.2
          completeWave (endDrain s3 w a t .ready) wid
        | _, _ => consumeBy (dropDrain s w g a t) w (match w.run with | some r => execMask w r | none => 0) .matrix
      | _, _ => s
    | _, _ => s

/-- CDRAIN_COMPLETE (R210). -/
def execCdrainComplete (wave : Nat) (s : State) : Host.Outcome State Fault Refusal := .next (finishDrain s wave)

end Sys2Proof.Machine
end

