-- ==== Sys2Proof/Machine/Sync.lean ====
section
/-! DEFINITION. Semaphores (R177, R178), BAR (R180), CWAIT and CSIG (R181, R182), SPAWN (R183 to R186), JOINW (R188)
and ENQT (R189). -/
namespace Sys2Proof.Machine

/-! ### Lanes that take a step at a control word -/

/-- What a lane's step does: it is done, the lane parks with a word of its own, or it traps. -/
inductive Stepped where
  | done (s : State)
  | park (s : State) (n : Word)
  | fail (rank : Nat) (t : Trap)

/-- The steps of an instruction so far: the state, the lanes done, those that park with the word's IA, those that
failed, and the words at which a lane failed (R177). -/
structure Steps where
  s : State
  done : Mask
  parks : List (Lane × Nat × Word)
  fails : List (Lane × Verdict)
  shut : List Nat

/-- The next lane's step; a lane above one that failed at its word does nothing (R177). -/
def stepLane (c : Ctx) (v : Lanes Verdict) (a : Lane → DWord) (n : Nat) (f : Steps → Nat → Lane → Stepped) (x : Steps) (l : Lane) : Steps :=
  match spotIn (v.get l) with
  | none => x
  | some p =>
    if x.shut.contains p.ia then x
    else match f x p.ia l with
      | .done t => { x with s := counterWatch t c.w l c.r.pc c.r.exec (a l) p.ia n c.w.h, done := x.done ||| Mask.of (· = l) }
      | .park t n => { x with s := t, parks := x.parks ++ [(l, p.ia, n)] }
      | .fail r t => { x with fails := x.fails ++ [(l, .fail r t (a l))], shut := p.ia :: x.shut }

/-- The steps of every lane, in ascending order. -/
def stepLanes (c : Ctx) (v : Lanes Verdict) (a : Lane → DWord) (n : Nat) (f : Steps → Nat → Lane → Stepped) : Steps :=
  c.exec.lanes.foldl (stepLane c v a n f) { s := c.s, done := 0, parks := [], fails := [], shut := [] }

/-- A wave's lanes that its instruction parks (R14, R16, R174). -/
def parkMask (s : State) (wid : Nat) (m : Mask) (k : ParkKind) : State :=
  modWave s wid fun w =>
    { mapLanes w m (fun _ x => { x with state := .parked k, waitSat := false }) with
      run := w.run.map fun r => { r with gone := r.gone ||| m } }

/-- Lanes that queue on words and park (R178, R181, R188). -/
def parkLanes (s : State) (wid : Nat) (k : ParkKind) (ps : List (Lane × Nat × Word)) : State :=
  parkMask { s with waiters := s.waiters ++ ps.map fun p => ⟨k, p.2.1, wid, p.1, p.2.2⟩ } wid
    (Mask.of fun l => ps.any fun p => p.1 = l) k

/-- The hidden bit of a lane cleared (R174). -/
def clearSat (s : State) (wid : Nat) (l : Lane) : State := modWave s wid fun w => modLane w l fun x => { x with waitSat := false }

/-- The instruction after its steps: a trap, with the lanes done in the done-mask and no lane parked (R9, R172), or its
completion with the lanes that park. `after` is done once for the lanes that are done. -/
def stepsEnd (c : Ctx) (v : Lanes Verdict) (k : ParkKind) (after : State → State) (x : Steps) : Res :=
  let all : Lanes Verdict := Lanes.of fun l => ((x.fails.find? fun y => y.1 = l).map (·.2)).getD (v.get l)
  let s1 := if x.done = 0 then x.s else after x.s
  match poisoned v c.exec, worst all c.exec with
  | some (m, y), _ => .settled (consumeBy c.s c.w m y)
  | none, some (t, m, a) => .trap (countTrap s1 c.w t) (.at t m x.done c.r a)
  | none, none => .done { s := parkLanes s1 c.w.id k x.parks, adv := x.done, vals := none, ends := c.sh.ends, back := false, goes := onward }

/-- The checks of a control word of n bytes; `refuse` says whether a held colour is refused first (R171, R192). -/
def verdictCtl (s : State) (w : Wave) (l : Lane) (a : DWord) (n : Nat) (refuse : Bool) : Verdict :=
  if refuse && !(laneOf w l).held.isEmpty then failAt .monitorWait a else verdictWord s w a n

/-- The homes of the lanes' words. -/
def stepHomes (c : Ctx) (v : Lanes Verdict) : List Nat :=
  distinct (c.exec.lanes.filterMap fun l => (spotIn (v.get l)).map fun p => homeDie p.ia)

/-- Do the homes of the lanes' words count what the wave's die has sent, and what each other has sent (R263)? -/
def homesReady (c : Ctx) (v : Lanes Verdict) : Bool := homesCount c.s c.die (stepHomes c v)

/-- Does the wave's die count what the homes of the lanes' words have sent? A step that completes at once delivers its result,
and the acquire that follows it, under the home's clock (R259, R263); the wave waits for that before the step (log 70). -/
def homesCounted (c : Ctx) (v : Lanes Verdict) : Bool := countsAll c.s c.die (stepHomes c v)

/-- May the lanes take their steps at the homes with an acquire after them (R259, R263)? -/
def acquireReady (c : Ctx) (v : Lanes Verdict) (sc : Scope) : Bool := acquirable c.w sc && homesReady c v && homesCounted c v

/-- A step at a control word that leaves it as it is: its page is marked, its bank looked up, and the core's copy invalid
(R298, R300, R309). -/
def Ctx.meetWord (c : Ctx) (s : State) (ia : Nat) : State :=
  homeTouch (waveDrop (waveAccess s c.w ia true) c.w (ia / 64)) c.w.part (ia / 64) true

/-- Does a lane pass every check? -/
def someMay (c : Ctx) (v : Lanes Verdict) : Bool := c.exec.lanes.any fun l => mayDo (v.get l)

/-- A control word set to x for a lane, at its home, from the wave's die (R170). -/
def Ctx.setWord (c : Ctx) (s : State) (l : Lane) (a : DWord) (ia : Nat) (x : Word) : State :=
  counterWrite s (dieFrom c.w ia) c.w l c.r.pc c.r.exec a ia x

/-! ### Semaphores -/

/-- Waiters granted from the head while their n is at most the semaphore (R178). -/
def grantSem (c : Ctx) (l : Lane) (a : DWord) (ia : Nat) : Nat → State → State
  | 0, s => s
  | n + 1, s =>
    match s.waiters.find? fun q => q.kind = .semaphore && q.ia = ia with
    | none => s
    | some q =>
      if (q.n.toNat : Int) ≤ (counterWord s ia).toInt then
        let s1 := counterWrite s (homeDie ia) c.w l c.r.pc c.r.exec a ia (counterWord s ia - q.n)
        grantSem c l a ia n { s1 with waiters := s1.waiters.erase q
                                      wakes := s1.wakes ++ [⟨q.wave, q.lane, clockOf s1 (homeDie ia)⟩] }
      else s

/-- The grants that follow a SEMSIG at each word that a lane of m raised (R178). -/
def grantAfter (c : Ctx) (v : Lanes Verdict) (a : Lane → DWord) (m : Mask) (s : State) : State :=
  (byWord v).foldl (fun t x => grantSem c x.2 (a x.2) x.1 t.waiters.length t) s
where
  /-- The words that the lanes reach, each with its lowest lane. -/
  byWord (v : Lanes Verdict) : List (Nat × Lane) :=
    m.lanes.foldl (fun acc l => match spotIn (v.get l) with
      | some p => if acc.any fun y => y.1 = p.ia then acc else acc ++ [(p.ia, l)]
      | none => acc) []

/-- SEMSIG in one lane (R177). -/
def semsigLane (c : Ctx) (a : Lane → DWord) (x : Steps) (ia : Nat) (l : Lane) : Stepped :=
  let y := (counterWord x.s ia).toInt
  let n := ((c.x 1 l).toNat : Int)
  if y < 0 then .fail (rankOf .semUnder) .semUnder
  else if 2 ^ 31 - 1 < y + n then .fail (rankOf .semOver) .semOver
  else .done (c.setWord x.s l (a l) ia (BitVec.ofInt 32 (y + n)))

/-- SEMTAKE in one lane (R177). -/
def semtakeLane (c : Ctx) (a : Lane → DWord) (x : Steps) (ia : Nat) (l : Lane) : Stepped :=
  let y := (counterWord x.s ia).toInt
  let n := ((c.x 1 l).toNat : Int)
  if y < 0 || y - n < 0 then .fail (rankOf .semUnder) .semUnder
  else .done (c.setWord x.s l (a l) ia (BitVec.ofInt 32 (y - n)))

/-- SEMWAIT in one lane (R177, R178). -/
def semwaitLane (c : Ctx) (a : Lane → DWord) (x : Steps) (ia : Nat) (l : Lane) : Stepped :=
  let y := (counterWord x.s ia).toInt
  let n := ((c.x 1 l).toNat : Int)
  if y < 0 then .fail (rankOf .semUnder) .semUnder
  else if (laneOf c.w l).waitSat then .done (clearSat x.s c.w.id l)
  else if n = 0 then .done (c.meetWord x.s ia)
  else if 2 ^ 31 - 1 < n then .fail (rankOf .semUnder) .semUnder
  else if n ≤ y && !(x.s.waiters.any fun q => q.kind = .semaphore && q.ia = ia) && !(x.parks.any fun q => q.2.1 = ia) then
    .done (c.setWord x.s l (a l) ia (BitVec.ofInt 32 (y - n)))
  else .park (c.meetWord x.s ia) (c.x 1 l)

/-- SEMSIG (R177, R178): a release at the scope comes first. -/
def execSemsig (e : Bool) (d a : Reg) (sc : Scope) (o : BitVec 4) (s : State) : Host.Outcome State Fault Refusal :=
  issue (.semsig e d a sc o) s scoutSkips fun c =>
    let v := Lanes.of fun l => verdictCtl c.s c.w l (c.ptr o.toInt 4 l) 4 false
    if someMay c v && !(released c.w sc && homesReady c v) then .wait c.s .operand
    else
      let x := stepLanes c v (c.ptr o.toInt 4) 4 (semsigLane c (c.ptr o.toInt 4))
      stepsEnd c v .semaphore (grantAfter c v (c.ptr o.toInt 4) x.done) x

/-- SEMWAIT (R177, R178): an acquire at the scope follows. -/
def execSemwait (e : Bool) (d a : Reg) (sc : Scope) (o : BitVec 4) (s : State) : Host.Outcome State Fault Refusal :=
  issue (.semwait e d a sc o) s scoutEnds fun c =>
    let v := Lanes.of fun l => verdictCtl c.s c.w l (c.ptr o.toInt 4 l) 4 true
    if someMay c v && !acquireReady c v sc then .wait c.s .operand
    else stepsEnd c v .semaphore (acquireAt · c sc) (stepLanes c v (c.ptr o.toInt 4) 4 (semwaitLane c (c.ptr o.toInt 4)))

/-- SEMTAKE (R177, R178): an acquire at the scope follows. -/
def execSemtake (e : Bool) (d a : Reg) (sc : Scope) (o : BitVec 4) (s : State) : Host.Outcome State Fault Refusal :=
  issue (.semtake e d a sc o) s scoutSkips fun c =>
    let v := Lanes.of fun l => verdictCtl c.s c.w l (c.ptr o.toInt 4 l) 4 false
    if someMay c v && !acquireReady c v sc then .wait c.s .operand
    else stepsEnd c v .semaphore (acquireAt · c sc) (stepLanes c v (c.ptr o.toInt 4) 4 (semtakeLane c (c.ptr o.toInt 4)))

/-! ### JOINW -/

/-- JOINW in one lane (R188). -/
def joinwLane (c : Ctx) (x : Steps) (ia : Nat) (l : Lane) : Stepped :=
  if (counterWord x.s ia).toInt ≤ (c.x 1 l).toInt then .done (clearSat (c.meetWord x.s ia) c.w.id l)
  else .park (c.meetWord x.s ia) (c.x 1 l)

/-- JOINW (R188): a device-scope acquire follows. -/
def execJoinw (e : Bool) (d a : Reg) (o : BitVec 7) (s : State) : Host.Outcome State Fault Refusal :=
  issue (.joinw e d a o) s scoutEnds fun c =>
    let v := Lanes.of fun l => verdictCtl c.s c.w l (c.ptr o.toInt 4 l) 4 true
    if someMay c v && !acquireReady c v .dev then .wait c.s .operand
    else stepsEnd c v .join (acquireAt · c .dev) (stepLanes c v (c.ptr o.toInt 4) 4 (joinwLane c))

/-! ### BAR -/

/-- BAR in the lanes that no barrier has woken yet: they park and the wave arrives (R180). -/
def arrive (s : State) (c : Ctx) (m : Mask) : State :=
  if m = 0 then s
  else barrierCheck (modWave (parkMask s c.w.id m .barrier) c.w.id fun w => { w with arrived := true }) c.w.group

/-- BAR (R180). -/
def execBar (e : Bool) (s : State) : Host.Outcome State Fault Refusal :=
  issue (.bar e) s scoutEnds fun c =>
    let held := Mask.of fun l => c.exec.has l && !(laneOf c.w l).held.isEmpty
    let sat := Mask.of fun l => c.exec.has l && (laneOf c.w l).waitSat
    if held ≠ 0 then c.trap .monitorWait held 0
    else if !c.w.pend.isEmpty then .wait c.s .operand
    else
      let s1 := sat.lanes.foldl (fun t l => clearSat t c.w.id l) c.s
      .done { s := arrive s1 c (c.exec &&& ~~~sat), adv := sat, vals := none, ends := c.sh.ends, back := false, goes := onward }

/-! ### CWAIT and CSIG -/

/-- The lowest suspended colour of a lane with its depth (R181). -/
def suspendedOf (x : LaneCtx) : Option Held := x.held.find? (·.suspended)

/-- Every held entry suspended, and the colours to be released once for the instruction (R181). -/
def suspendAll (s : State) (wid : Nat) (m : Mask) : State :=
  modWave s wid fun w =>
    let rel := m.lanes.flatMap fun l => ((laneOf w l).held.filter fun h => !h.suspended).map fun h => (l, h.colour)
    { mapLanes w m (fun _ x => { x with held := x.held.map fun h => { h with suspended := true } }) with release := w.release ++ rel }

/-- CWAIT in one lane at the home bank (R181): the word differs and the lane is woken at once, or it parks. -/
def cwaitLane (c : Ctx) (x : Steps) (ia : Nat) (l : Lane) : Stepped :=
  if counterWord x.s ia ≠ c.x 1 l then
    .done (modWave (c.meetWord x.s ia) c.w.id fun w => modLane w l fun y => { y with waitSat := true })
  else .park (c.meetWord x.s ia) (c.x 1 l)

/-- The end of CWAIT: lanes that hold every suspended colour again go on after a device-scope acquire; the others take
their step at the word (R181). A lane that parks makes no watch hit (R166), and a CWAIT lane none when it completes after its wake, while
a woken SEMWAIT or JOINW lane, which meets its word again, makes one: the spec does not say which (DESIGN CHOICE, log 95). A lane
whose word has gone since its checks is woken at once, as where the word differs (DESIGN CHOICE, log 82). -/
def cwaitSteps (c : Ctx) (v : Lanes Verdict) (a : Lane → DWord) (sat : Mask) : Res :=
  let x := stepLanes { c with exec := c.exec &&& ~~~sat } v a 4 (cwaitLane c)
  let lost := Mask.of fun l => c.exec.has l && !sat.has l && (spotIn (v.get l)).isNone
  let s1 := sat.lanes.foldl (fun t l => clearSat t c.w.id l) (if sat = 0 then x.s else acquireAt x.s c .dev)
  let s2 := modWave s1 c.w.id fun w => mapLanes w lost fun _ y => { y with waitSat := true }
  .done { s := parkLanes s2 c.w.id .condition x.parks, adv := sat, vals := none, ends := c.sh.ends, back := false, goes := onward }

/-- The lanes of a CWAIT that need nothing more: they were woken, and hold again what they released (R172, R181). -/
def cwaitDone (c : Ctx) (sat : Mask) : Mask := sat &&& Mask.of fun l => (suspendedOf (laneOf c.w l)).isNone

/-- The lanes that have been woken, those that the checks let release their colours, and those that have released them: once a
lane has, no lane of the instruction is checked again (R9, R181). -/
def cwaitSat (c : Ctx) : Mask := Mask.of fun l => c.exec.has l && (laneOf c.w l).waitSat
def cwaitMark (c : Ctx) : Mask :=
  Mask.of fun l => c.exec.has l && !(laneOf c.w l).waitSat && (laneOf c.w l).held.any fun h => !h.suspended
def cwaitBegun (c : Ctx) : Bool :=
  c.exec.lanes.any fun l => !(laneOf c.w l).waitSat && (laneOf c.w l).held.any fun h => h.suspended

/-- Where a lane stands whose checks are behind it: at its word, while that is there. -/
def pastChecks (s : State) (w : Wave) (a : DWord) (v : Verdict) : Verdict :=
  match v with
  | .fail .. => match locate s w.part a with
    | some p => if p.page.isSome then .ok p else .need 0
    | none => .need 0
  | x => x

/-- What each lane of CWAIT meets (R171, R181). -/
def cwaitVerdict (c : Ctx) (off : Int) : Lanes Verdict := Lanes.of fun l =>
  let a := c.ptr off 4 l
  let v := verdictCtl c.s c.w l a 4 false
  if (laneOf c.w l).waitSat then .need 0 else if cwaitBegun c then pastChecks c.s c.w a v else v

/-- Must the lanes of CWAIT still wait before they go on: for the release, for what they have loaded, for the homes (R181, R260)? -/
def cwaitHolds (c : Ctx) (off : Int) : Bool :=
  let sat := cwaitSat c
  !c.w.release.isEmpty || !c.w.pend.isEmpty || (c.exec &&& ~~~sat ≠ 0 && !released c.w .dev)
    || ((sat.lanes.all fun l => (suspendedOf (laneOf c.w l)).isNone)
        && !(homesReady c (cwaitVerdict c off) && homesCounted c (cwaitVerdict c off)))

/-- CWAIT (R181, R283). A lane that fails traps beside lanes that are done, since CWAIT completes its lanes independently
(R172); on entry a device-scope release comes first (R260). From the release on, no other run of the wave comes between. -/
def cwaitBody (c : Ctx) (off : Int) : Res :=
  let sat := cwaitSat c
  let v := cwaitVerdict c off
  let again := sat.lanes.filterMap fun l => (suspendedOf (laneOf c.w l)).map fun h => (l, h.colour, h.depth)
  match poisoned v c.exec, worst v c.exec with
  | some (m, x), _ => .settled (consumeBy c.s c.w m x)
  | none, some (t, m, x) =>
    let d := cwaitDone c sat
    let s1 := d.lanes.foldl (fun s l => clearSat s c.w.id l) (if d = 0 then c.s else acquireAt c.s c .dev)
    .trap (countTrap s1 c.w t) (.at t m d c.r x)
  | none, none =>
    if cwaitMark c ≠ 0 then .wait (suspendAll c.s c.w.id (cwaitMark c)) .monitor
    else if cwaitHolds c off then .wait c.s (if cwaitBegun c then .monitor else .operand)
    else if !again.isEmpty then askColours c (acquireAt c.s c .dev) again
    else cwaitSteps c v (c.ptr off 4) sat

/-- CWAIT (R181). -/
def execCwait (e : Bool) (d a : Reg) (o : BitVec 7) (s : State) : Host.Outcome State Fault Refusal :=
  issue (.cwait e d a o) s scoutEnds fun c => cwaitBody c o.toInt

/-- The first n lanes queued on a condition word woken, every one for n = 0 (R182). -/
def wakeConditions (s : State) (ia n : Nat) : State :=
  let all := s.waiters.filter fun q => q.kind = .condition && q.ia = ia
  let hit := if n = 0 then all else all.take n
  { s with waiters := s.waiters.filter fun q => !hit.contains q
           wakes := s.wakes ++ hit.map fun q => ⟨q.wave, q.lane, clockOf s (homeDie ia)⟩ }

/-- CSIG in one lane (R182). -/
def csigLane (c : Ctx) (a : Lane → DWord) (x : Steps) (ia : Nat) (l : Lane) : Stepped :=
  .done (wakeConditions (c.setWord x.s l (a l) ia (counterWord x.s ia + 1)) ia (c.x 1 l).toNat)

/-- CSIG (R182): a device-scope release comes first. -/
def execCsig (e : Bool) (d a : Reg) (o : BitVec 7) (s : State) : Host.Outcome State Fault Refusal :=
  issue (.csig e d a o) s scoutSkips fun c =>
    let v := Lanes.of fun l => verdictCtl c.s c.w l (c.ptr o.toInt 4 l) 4 false
    if someMay c v && !(released c.w .dev && homesReady c v) then .wait c.s .operand
    else stepsEnd c v .condition id (stepLanes c v (c.ptr o.toInt 4) 4 (csigLane c (c.ptr o.toInt 4)))

/-! ### SPAWN -/

/-- The checks of SPAWN in one lane (R183): its entry, then its join counter. -/
def verdictSpawn (c : Ctx) (l : Lane) : Verdict :=
  let t := c.pair 1 l
  let j := c.pair 0 l
  if bitsOf t.toNat 0 2 ≠ 0 then failAt .align ((t.extractLsb' 0 48).zeroExtend 64)
  else if j = 0 then .absent ⟨0, none, none, true, true, true, true⟩
  else verdictWord c.s c.w j 4

/-- One lane's record made, or nothing where no serial, bucket or pool entry is left (R183, R184, R186). -/
def spawnLane (c : Ctx) (n : Nat) (v : Lanes Verdict) (x : State × Mask) (l : Lane) : State × Mask :=
  match findLaunch x.1 c.w.launch with
  | none => x
  | some k =>
    let entry : DWord := ((c.pair 1 l).extractLsb' 0 48).zeroExtend 64
    let room := gathererRoom (coreAt x.1 c.die c.core) c.w.launch entry
    if 0xFFFFFFFE < k.serial || !(room || poolRoom x.1 k) then x
    else
      let j := c.pair 0 l
      let s1 := match spotIn (v.get l) with
        | some p => counterWatch (c.setWord x.1 l j p.ia (counterWord x.1 p.ia + 1)) c.w l c.r.pc c.r.exec j p.ia 4 c.w.h
        | none => x.1
      let rec' := spawnRecord c.w l (entry.extractLsb' 0 48) j ((List.range n).map fun i => c.x (2 + i) l) k.serial
      let s2 := modLaunch s1 k.id fun y => { y with serial := y.serial + 1 }
      let s3 := if room then gather s2 c.die c.core k.id c.w.pri (clockOf s2 c.die) (BitVec.ofNat 512 rec')
        else poolAppend s2 k (clockOf s2 c.die) rec'
      (s3, x.2 ||| Mask.of (· = l))

/-- SPAWN (R183). -/
def spawnBody (c : Ctx) (n : Nat) (p : Pred) : Res :=
  let v := Lanes.of (verdictSpawn c)
  accessWhole c v
    (if !(released c.w .dev && homesReady c v) then .wait c.s .operand
     else
       let x := c.exec.lanes.foldl (spawnLane c n v) (c.s, 0)
       c.done (writePred x.1 c.w c.exec p x.2.has))

/-- SPAWN (R183). -/
def execSpawn (e : Bool) (n : BitVec 5) (k : Fin 4) (j t : Reg) (p : Fin 8) (s : State) : Host.Outcome State Fault Refusal :=
  issue (.spawn e n k j t p) s scoutSkips fun c => spawnBody c (k.val + 1) p

/-! ### ENQT -/

/-- The checks of ENQT in one lane before its release: R171, then the queue (R189). -/
def verdictEnqt (c : Ctx) (off : Int) (l : Lane) : Verdict :=
  let a := c.ptr off 64 l
  match verdictCtl c.s c.w l a 64 false with
  | .ok p => if (taskQueue c.s (bitsOf (c.x 1 l).toNat 0 12) (tenantOf c.s c.w.part)).isSome then .ok p
             else .fail (rankOf .nonresStore + 1) .perm a
  | v => v

/-- ENQT in one lane (R189): appended, a record that breaks its map, or a full queue, which is left for a later run of
the instruction in this lane and those above it (log 24). -/
def enqtLane (c : Ctx) (x : Steps) (ia : Nat) (l : Lane) : Stepped :=
  match taskQueue x.s (bitsOf (c.x 1 l).toNat 0 12) (tenantOf x.s c.w.part) with
  | none => .park x.s 0
  | some q =>
    let r := homeRead x.s ia 64
    if !trOk (widB1 c.w.widf.toNat) r then .fail (rankOf .engine) .engine
    else if queueFull q || !x.parks.isEmpty then .park x.s 0
    else .done (appendTask (homeTouch (waveAccess x.s c.w ia true) c.w.part (ia / 64) false) q c.w.launch r (c.die, c.core))

/-- ENQT (R189): a device-scope release comes first; it waits while no lane can append. -/
def enqtBody (c : Ctx) (off : Int) : Res :=
  let v := Lanes.of (verdictEnqt c off)
  if someMay c v && !(released c.w .dev && homesReady c v) then .wait c.s .operand
  else
    let x := stepLanes c v (c.ptr off 64) 64 (enqtLane c)
    if x.fails.isEmpty && (worst v c.exec).isNone && x.done = 0 then .wait c.s .engineQueue
    else stepsEnd c v .join id { x with parks := [] }

/-- ENQT (R189). -/
def execEnqt (e : Bool) (d a : Reg) (o : BitVec 7) (s : State) : Host.Outcome State Fault Refusal :=
  issue (.enqt e d a o) s scoutSkips fun c => enqtBody c o.toInt

end Sys2Proof.Machine
end

