-- ==== Sys2Proof/Machine/System.lean ====
section
/-! DEFINITION. Special registers (R29 to R33, R227), TRAP and BKPT (R221), RTE (R226), STEP (R232), MARK (R233), PCNT
(R228), WSET and WCLR (R229, R230). -/
namespace Sys2Proof.Machine

/-! ### SRD and SWR -/

/-- A held-colour entry (R32). -/
def heldWord (x : LaneCtx) (k : Nat) : Word :=
  match x.held[k]? with
  | none => 0
  | some h => BitVec.ofNat 32 (h.colour.toNat + 64 * h.depth.toNat + 2 ^ 31)

/-- STAT (R33). -/
def statWord (w : Wave) : Word := BitVec.ofNat 32 (w.h.toNat + 2 * w.spn.toNat + 4 * w.snap.toNat + 16 * w.pri.toNat)

/-- The special register of an index in a lane (R29). -/
def specialReg (w : Wave) (l : Lane) (i : Nat) : Word :=
  match i with
  | 0x00 => BitVec.ofNat 32 l.val
  | 0x01 => w.index.zeroExtend 32
  | 0x02 => w.role.zeroExtend 32
  | 0x03 => w.gang
  | 0x04 => w.winb.zeroExtend 32
  | 0x05 => w.blks.zeroExtend 32
  | 0x06 => lo32 (widOf w l)
  | 0x07 => hi32 (widOf w l)
  | 0x08 => w.widf
  | 0x09 => (laneOf w l).serial
  | 0x0A => lo32 w.launch
  | 0x0B => hi32 w.launch
  | 0x0C => lo32 w.arg
  | 0x0D => hi32 w.arg
  | 0x10 => lo32 w.csp
  | 0x11 => hi32 w.csp
  | 0x12 => w.csz.zeroExtend 32
  | 0x13 => (laneOf w l).depth.zeroExtend 32
  | 0x20 => (laneOf w l).nflg.zeroExtend 32
  | 0x21 => w.rmiss
  | 0x22 => statWord w
  | n => if 0x18 ≤ n && n ≤ 0x1F then heldWord (laneOf w l) (n - 0x18) else 0

/-- SRD (R227). -/
def srdBody (i : Nat) (c : Ctx) : Res := c.write (fun l => w32 (specialReg c.w l i)) (fun _ => 0)

/-- SRD (R227). -/
def execSrd (e k : Bool) (d : Reg) (i : BitVec 8) (s : State) : Host.Outcome State Fault Refusal :=
  issue (.srd e k d i) s (scoutRuns (srdBody i.toNat)) (srdBody i.toNat)

/-- Has a lane that has not exited a level spilled to memory (R35, R227)? -/
def spilled (w : Wave) (l : Lane) : Bool :=
  let gone := match w.aside with
    | some a => a.states.get l = .exited
    | none => (laneOf w l).state = .exited
  !gone && (laneOf w l).ret.length < (laneOf w l).depth.toNat

/-- The wave after a write of the spill-area registers (R31). -/
def writeSpill (w : Wave) (i : Nat) (x : Word) : Wave :=
  if i = 0x10 then { w with csp := Sys2Proof.pair (x &&& 0xFFFFFF00#32) (hi32 w.csp) }
  else if i = 0x11 then { w with csp := Sys2Proof.pair (lo32 w.csp) x }
  else { w with csz := x.extractLsb' 0 12 }

/-- SWR (R227). -/
def swrBody (c : Ctx) (i : Nat) : Res :=
  let x := c.x 0 c.top
  if i = 0x03 then c.done (modWave c.s c.w.id fun w => { w with gang := x })
  else if i = 0x20 then
    c.done (modWave c.s c.w.id fun w => mapLanes w c.exec fun l y => { y with nflg := y.nflg &&& ~~~(c.x 0 l).extractLsb' 0 7 })
  else if i = 0x21 then c.done (modWave c.s c.w.id fun w => { w with rmiss := w.rmiss &&& ~~~x })
  else if 0x10 ≤ i && i ≤ 0x12 then
    if laneList.any (spilled c.w) then c.trap .perm c.exec 0
    else c.done (modWave c.s c.w.id fun w => writeSpill w i x)
  else c.done c.s

/-- SWR (R227). -/
def execSwr (e : Bool) (u : Reg) (i : BitVec 8) (s : State) : Host.Outcome State Fault Refusal :=
  issue (.swr e u i) s scoutEnds fun c => swrBody c i.toNat

/-! ### TRAP, BKPT, RTE -/

/-- A trap with a code and resumption behind it (R221, R225). -/
def codeTrap (c : Ctx) (t : Trap) (code : BitVec 14) : Res :=
  .trap c.s { TrapInfo.at t c.exec 0 c.r 0 with rpc := c.r.pc + 4, code := code }

/-- TRAP (R221). -/
def execTrap (e : Bool) (k : BitVec 14) (s : State) : Host.Outcome State Fault Refusal :=
  issue (.trap e k) s scoutEnds fun c => codeTrap c .trap k

/-- Has Sweolo set debug intercept for a partition (R221)? -/
def intercepts (s : State) (part : Nat) : Bool :=
  match findPart s part with
  | some p => p.intercept
  | none => false

/-- A STOP record: cause, cluster and die (R390). -/
def stopBody (cause die cluster : Nat) : Nat := fld cause 0 2 + fld cluster 2 6 + fld die 8 2

/-- BKPT under debug intercept: the wave alone stops, behind the instruction (R397). -/
def interceptWave (c : Ctx) : Res :=
  let s1 := match c.w.place with
    | some p => emitWave c.s c.w 0x03 0 c.exec c.r.pc (stopBody 1 p.die (p.core / 4))
    | none => c.s
  c.done (modWave s1 c.w.id fun w => { w with stopped := true, intercepted := true })

/-- BKPT (R221, R397). -/
def execBkpt (e : Bool) (k : BitVec 14) (s : State) : Host.Outcome State Fault Refusal :=
  issue (.bkpt e k) s scoutEnds fun c => if intercepts c.s c.w.part then interceptWave c else codeTrap c .bkpt k

/-- A lane's handler ends: the colours of its depth are to be released, its depth falls, and the level it leaves is
dropped (R226). -/
def leaveHandler (x : LaneCtx) : LaneCtx :=
  { x with depth := x.depth - 1, ret := x.ret.drop 1, state := .exited
           trapLevel := if x.trapLevel = some x.depth then none else x.trapLevel }

/-- RTE (R226). -/
def rteBody (c : Ctx) : Res :=
  if !c.w.h then c.trap .perm c.exec 0
  else
    let rel := c.exec.lanes.flatMap fun l =>
      ((laneOf c.w l).held.filter fun h => (laneOf c.w l).depth ≤ h.depth).map fun h => (l, h.colour)
    .done { s := modWave c.s c.w.id fun w => { mapLanes w c.exec (fun _ x => leaveHandler x) with release := w.release ++ rel }
            adv := c.exec, vals := none, ends := true, back := false, goes := fun _ => some exitedPc }

/-- RTE (R226). -/
def execRte (e : Bool) (s : State) : Host.Outcome State Fault Refusal := issue (.rte e) s scoutEnds rteBody

/-! ### STEP and MARK -/

/-- The wave of the group that STEP names, when it may step it (R232). -/
def stepTarget (c : Ctx) : Option Wave :=
  (wavesOf c.s c.w.group).find? fun w => !w.finished && w.index.toNat = (c.x 0 c.top).toNat && w.id ≠ c.w.id && w.stopped && !w.h

/-- STEP (R232): the stepped wave issues its instruction next, and STEP completes once that has completed, parked its
lanes or trapped; on a wave that only waits it has no effect. -/
def stepBody (c : Ctx) : Res :=
  if c.w.stepDone then c.done (modWave c.s c.w.id fun w => { w with stepDone := false })
  else match stepTarget c with
  | none => c.trap .perm c.exec 0
  | some w =>
    if canStep w then
      .settled (beginStep (modWave c.s c.w.id fun v => { v with hold := some .fence, issue := none }) w (some (c.w.id, c.w.tick)))
    else c.done (idleStep c.s w)

/-- STEP (R232). -/
def execStep (e : Bool) (a : Reg) (s : State) : Host.Outcome State Fault Refusal := issue (.step e a) s scoutEnds stepBody

/-- Is a trace session of the partition open? -/
def hasSession (s : State) (part : Nat) : Bool := s.sessions.any fun x => x.part = part

/-- The record of MARK, or its loss (R233). -/
def markRecord (c : Ctx) (k : BitVec 14) : State :=
  if hasSession c.s c.w.part then emitWave c.s c.w 0x01 0 c.exec c.r.pc k.toNat
  else modPart c.s c.w.part fun p => { p with unrecorded := p.unrecorded + 1 }

/-- Has the mark of a number committed (R350)? -/
def markDone (s : State) (part n : Nat) : Bool :=
  match findPart s part with
  | some p => n < p.mark || (n = p.mark && p.committed)
  | none => true

/-- The mark after the latest one. -/
def nextMark (s : State) (part : Nat) : Nat :=
  match findPart s part with
  | some p => p.mark + 1
  | none => 0

/-- MARK (R233). -/
def markBody (c : Ctx) (f : Bool) (k : BitVec 14) : Res :=
  match c.w.waitMark with
  | some n =>
    if markDone c.s c.w.part n then c.done (modWave c.s c.w.id fun w => { w with waitMark := none }) else .wait c.s .commit
  | none =>
    let s1 := markRecord c k
    if f then
      .wait (modWave (modPart s1 c.w.part fun p => { p with markDue := true }) c.w.id
        fun w => { w with waitMark := some (nextMark s1 c.w.part) }) .commit
    else c.done s1

/-- MARK (R233). -/
def execMark (e f : Bool) (k : BitVec 14) (s : State) : Host.Outcome State Fault Refusal :=
  issue (.mark e f k) s scoutEnds fun c => markBody c f k

/-! ### PCNT -/

/-- Wave counters 0x001 to 0x009 (R228). -/
def waveCounter (w : WaveCounters) (n : Nat) : DWord :=
  match n with
  | 1 => w.retired | 2 => w.runs | 3 => w.scoutEntries | 4 => w.scoutDrops | 5 => w.prefDrops | 6 => w.redirects
  | 7 => w.parks | 8 => w.watch0 | _ => w.watch1

/-- The counters of a die for a partition (R228). -/
def dieCounters (s : State) (part die : Nat) : DieCounters :=
  match (findPart s part).bind fun p => p.counters.find? fun c => c.die = die with
  | some c => c
  | none => ⟨die, 0, 0, 0, List.replicate 16 0⟩

/-- Does a counter count cycles or issue slots (R228), whose number the spec leaves to timing (log 3)? -/
def countsTime (n : Nat) : Bool := n = 0 || n = 0x100 || (0x10F ≤ n && n ≤ 0x11B) || n = 0x200

/-- A counter that counts events (R228). -/
def counter (s : State) (w : Wave) (die core n : Nat) : DWord :=
  if n < 0x100 then waveCounter w.counters n
  else if n = 0x101 then (coreAt s die core).corrections
  else if n = 0x102 then (coreAt s die core).emergencies
  else if n < 0x200 then nthD (coreAt s die core).hits (n - 0x120) 0
  else if n = 0x201 then (dieCounters s w.part die).llcHits
  else if n = 0x202 then (dieCounters s w.part die).llcMisses
  else if n = 0x203 then (dieCounters s w.part die).rangeLocks
  else nthD (dieCounters s w.part die).watch (n - 0x220) 0

/-- PCNT (R228). -/
def pcntBody (c : Ctx) (n : Nat) : Res :=
  let (die, core) := match c.w.place with | some p => (p.die, p.core) | none => (0, 0)
  if countsTime n then
    let x := freeIx c.s
    ({ c with s := x.2 }).write (fun _ => w64 (Config.freeCount x.1)) (fun _ => 0)
  else c.write (fun _ => w64 (counter c.s c.w die core n)) (fun _ => 0)

/-- PCNT (R228). -/
def execPcnt (e k : Bool) (d : Reg) (n : BitVec 14) (s : State) : Host.Outcome State Fault Refusal :=
  issue (.pcnt e k d n) s scoutSkips fun c => pcntBody c n.toNat

/-! ### WSET and WCLR -/

/-- Does a control pair keep R229 at its scope? -/
def controlOk (sc : WScope) (x : DWord) : Bool :=
  let n := x.toNat
  bitsOf n 4 2 = 0 && bitsOf n 14 2 = 0 && bitsOf n 20 12 = 0 && bitsOf n 8 6 ≤ 21 && bitsOf n 16 4 ≠ 0 &&
  match sc with
  | .thread => bitsOf n 3 1 = 0 && bitsOf n 6 2 = 0
  | .group => bitsOf n 32 32 = 0 && bitsOf n 6 2 ≤ 1
  | .die => bitsOf n 32 32 = 0 && bitsOf n 6 2 = 0

/-- Is a watch address aligned to its range (R229, R230)? -/
def controlAligned (a x : DWord) : Bool :=
  (if watchSpace x = 1 then a.toNat else pointerBits a) % watchLen x = 0

/-- The slots of a scope that a wave reaches, and the owner it arms them for (R230). -/
def slotsOf (c : Ctx) (sc : WScope) : List (Option WatchSlot) × Nat :=
  let (die, core) := match c.w.place with | some p => (p.die, p.core) | none => (0, 0)
  match sc with
  | .thread => (c.w.watch, c.w.id)
  | .group => ((coreAt c.s die core).watch, c.w.group)
  | .die => ((dieAt c.s die).watch, c.w.launch.toNat)

/-- The slots of a scope replaced. -/
def putSlots (c : Ctx) (sc : WScope) (l : List (Option WatchSlot)) : State :=
  let (die, core) := match c.w.place with | some p => (p.die, p.core) | none => (0, 0)
  match sc with
  | .thread => modWave c.s c.w.id fun w => { w with watch := l }
  | .group => modCore c.s die core fun x => { x with watch := l }
  | .die => modDie c.s die fun x => { x with watch := l }

/-- Does another owner hold the slot? -/
def slotTaken (c : Ctx) (sc : WScope) (k : Nat) : Bool :=
  match nthD (slotsOf c sc).1 k none with
  | some x => x.owner ≠ (slotsOf c sc).2
  | none => false

/-- Are die watchpoints enabled for a partition (R230)? -/
def dieWatchOn (s : State) (part : Nat) : Bool :=
  match findPart s part with
  | some p => p.dieWatch
  | none => false

/-- WSET (R230). -/
def wsetBody (c : Ctx) (sc : WScope) (k : Nat) : Res :=
  let a := c.pair 0 c.top
  let x := c.pair 1 c.top
  if !controlOk sc x then c.trap .engine c.exec 0
  else if !controlAligned a x then c.trap .align c.exec a
  else if slotTaken c sc k || (sc = .die && !dieWatchOn c.s c.w.part) then c.trap .perm c.exec 0
  else c.done (putSlots c sc (setNth (slotsOf c sc).1 k (some ⟨a, x, (slotsOf c sc).2⟩)))

/-- WSET (R230). -/
def execWset (e : Bool) (sc : WScope) (l : BitVec 5) (a x : Reg) (s : State) : Host.Outcome State Fault Refusal :=
  issue (.wset e sc l a x) s scoutEnds fun c => wsetBody c sc l.toNat

/-- WCLR (R230). -/
def execWclr (e : Bool) (sc : WScope) (l : BitVec 5) (s : State) : Host.Outcome State Fault Refusal :=
  issue (.wclr e sc l) s scoutEnds fun c =>
    if slotTaken c sc l.toNat then c.trap .perm c.exec 0 else c.done (putSlots c sc (setNth (slotsOf c sc).1 l.toNat none))

end Sys2Proof.Machine
end

