-- ==== Sys2Proof/Machine/Runs.lean ====
section
/-! DEFINITION. How runs are chosen (R15, R19, R332), what comes back to waves (R145, R174, R231, R343), claims (R115),
saving and relaunching groups (R329 to R331) and scout (R335 to R337). -/
namespace Sys2Proof.Machine

/-! ### Readiness (R332) -/

/-- Would the instruction wait again? -/
def waitsOn (r : Res) : Bool :=
  match r with
  | .wait _ _ => true
  | .done _ | .trap _ _ | .settled _ => false

/-- Does an instruction that waited still wait for something that no event of its own ends (R194, R200, R148, R189)? -/
def stillWaits (c : Ctx) (i : Instr) : Bool :=
  match i with
  | .fence _ sc | .rel _ sc => !released c.w sc
  | .acq _ sc => !acquirable c.w sc
  | .tdef _ t _ => match (findGroup c.s c.w.group).bind fun g => findTile g t with
    | some x => x.busy ≠ 0 || x.state = .filling || x.state = .draining
    | none => false
  | .tset _ t _ => match (findGroup c.s c.w.group).bind fun g => findTile g t with
    | some x => x.busy ≠ 0
    | none => false
  | .cinit _ t => match (findGroup c.s c.w.group).bind fun g => findTile g t with
    | some x => x.state ≠ .ready || x.busy ≠ 0
    | none => false
  | .cdrain _ a t _ => c.w.drain.isSome || (match (findGroup c.s c.w.group).bind fun g => drainTiles g a t with
    | some (x, y) => y.state ≠ .ready || y.busy ≠ 0 || x.state ≠ .empty || x.busy ≠ 0
    | none => false)
  | .sta _ _ _ o u w => waitsOn (staBody c o.toInt w.bytes u)
  | .ldc _ _ _ _ o w => waitsOn (ldcBody c o.toInt w.bytes)
  | .enqt _ _ _ o => waitsOn (enqtBody c o.toInt)
  | .cwait _ _ _ o => cwaitMark c = 0 && cwaitHolds c o.toInt
  | _ => false

/-- Has the wave arrived at a rendezvous that it has not left (R202)? -/
def atRendezvous (s : State) (w : Wave) : Bool :=
  match findGroup s w.group with
  | some g => g.rendezvous.any fun z => z.2.any fun a => a.index = w.index
  | none => false

/-- Does the word hold the run for an operand, a pop or a push? A word that reads a latch is ready whatever else it
waits for (R332), and in scout no result is awaited (R336). -/
def operandWaits (s : State) (w : Wave) (r : Run) (i : Instr) : Bool :=
  match i.shape with
  | none => false
  | some sh =>
    let m := execMask w r
    let qs := qSources sh
    ((shadowOf s w.id).isNone && !readsLatch sh && (notReady w sh || (!qs.isEmpty && !w.pend.isEmpty)))
      || (w.hold.isSome && m ≠ 0 && (popCheck w m qs = .wait || pushCheck w m sh = .wait || stillWaits ⟨s, w, r, m, sh, i⟩ i))

/-- Does the next word of a run wait for the result of a load or atomic (R341)? -/
def wordAwaits (s : State) (w : Wave) (r : Run) : Bool :=
  match fetchAt s w r.pc with
  | .word _ x => match decode x with
    | .ok i => i.shape.any fun sh => (shadowOf s w.id).isNone && (notReady w sh || (!(qSources sh).isEmpty && !w.pend.isEmpty))
    | .error _ => false
  | .trap _ | .poison _ | .absent _ | .late => false

/-- Does the next word of a run wait? A word that cannot be fetched or decoded traps when it issues, and one whose page is
absent asks for the page then (R44). -/
def wordWaits (s : State) (w : Wave) (r : Run) : Bool :=
  match fetchAt s w r.pc with
  | .trap _ => false
  | .poison _ => false
  | .absent g => requested s g
  | .late => true
  | .word _ x => match decode x with
    | .ok i => operandWaits s w r i
    | .error _ => false

/-- Is the wave held by a wait that an event ends: a release, a grant, a claim, a rendezvous, a drain, a commit, a single
step of another wave (R332)? -/
def held (s : State) (w : Wave) : Bool :=
  !w.release.isEmpty || s.requests.any (fun r => r.wave = w.id) || s.grants.any (fun g => g.wave = w.id && w.hold = some .monitor)
    || w.claim.isSome || atRendezvous s w || (match w.waitMark with | some n => !markDone s w.part n | none => false)
    || s.waves.any fun v => match v.stepping with | some (some x, _) => x.1 = w.id | _ => false

/-- Does the wave stand between two runs (R231)? -/
def atBoundary (w : Wave) : Bool :=
  match w.run with
  | none => true
  | some r => waitsFree w r

/-- The watch hits that are taken before the wave's next run (R231): an engine hit at once, a thread's once no lane of
its instruction is left to a resumption. -/
def watchWaits (w : Wave) : List WatchHit :=
  if !atBoundary w || w.h then []
  else w.watchPend.filter fun h => h.eng.isSome || w.skip.all fun x => x.1 ≠ h.pc

/-- Has the instruction of a hit completed in every lane: no result of it is pending and no atomic of it on its way? -/
def hitComplete (s : State) (w : Wave) (h : WatchHit) : Bool :=
  h.eng.isSome || !(w.pend.any (fun p => p.pc = h.pc) || s.flights.any fun f =>
    f.wave = w.id && f.pc = h.pc && f.exec = h.exec && f.performed.isNone && match f.kind with | .atom .. => true | _ => false)

/-- The watch hit that is to be taken now (R231). -/
def watchDue (s : State) (w : Wave) : Option WatchHit := (watchWaits w).find? (hitComplete s w)

/-- The run that the wave would issue: the one that waits or was cut, or a new one. -/
def nextRun (w : Wave) : Option Run := (startRun w 0 0).run

/-- Do the waves of a partition stand at their run boundaries because its mark is due (R349, step 1)? -/
def markStops (s : State) (w : Wave) : Bool := !midRun w && (findPart s w.part).any (markIsDue s)

/-- May the launch of a wave go on: it runs, or the wave is in the middle of the run at whose end it stops (R346)? -/
def launchGoes (s : State) (w : Wave) : Bool :=
  match findLaunch s w.launch with
  | some l => l.state = .running || midRun w
  | none => true

/-- Is a wave ready (R332)? -/
def ready (s : State) (w : Wave) : Bool :=
  w.place.isSome && !w.finished && (!w.stopped || (w.h && !w.intercepted) || w.stepping.isSome) && (liveMask w ≠ 0 || w.run.isSome)
    && (watchWaits w).isEmpty && !(atBoundary w && !w.h && hitComing s w.id) && !held s w
    && launchGoes s w && !markStops s w
    && match nextRun w with
      | some r => !wordWaits s w r
      | none => false

/-- A wave's effective priority (R332). -/
def effective8 (w : Wave) : Nat := if w.aged then 8 else w.pri.toNat

/-- The wave whose run is in progress in a slot. -/
def slotWave (s : State) (die core quad slot : Nat) : Option Wave := (quadWaves s die core quad).find? fun w => w.issue = some slot

/-- The wave that a free slot takes (R332). -/
def pickWave (s : State) (die core quad : Nat) : Option Wave :=
  minBy (fun w => (8 - effective8 w) * (s.fresh + 1) + w.lastRun)
    ((quadWaves s die core quad).filter fun w => w.issue.isNone && ready s w)

/-- A wave starts, or goes on with, a run in a slot. -/
def takeSlot (s : State) (w : Wave) (slot : Nat) : State :=
  { modWave { s with fresh := s.fresh + 1 } w.id (fun v => { startRun v slot s.fresh with hold := none }) with cur := some w.id }

/-- A slot's turn (R332, R333): it goes on with its run, unless that run is held, or takes a ready wave. -/
def slotTurn (s : State) (die core quad slot : Nat) : State :=
  match slotWave s die core quad slot with
  | some w => if w.hold.isNone || ready s w then { s with cur := some w.id } else s
  | none =>
    if slot < 2 then
      match pickWave s die core quad with
      | some w => takeSlot s w slot
      | none => s
    else s

/-- RUN_SELECT (R332). -/
def execRunSelect (die core quad slot : Nat) (s : State) : Host.Outcome State Fault Refusal := .next (slotTurn s die core quad slot)

/-- WAVE_AGE (R332): a ready wave that has not issued for 4,096 cycles. -/
def ageWave (s : State) (wid : Nat) : State :=
  match findWave s wid with
  | some w => if w.issue.isNone && ready s w then modWave s wid fun v => { v with aged := true } else s
  | none => s

/-- WAVE_AGE (R332). -/
def execWaveAge (wave : Nat) (s : State) : Host.Outcome State Fault Refusal := .next (ageWave s wave)

/-- SPIN_REDIRECT (R19): the next run of a wave whose spin count has reached 64, when a slot takes it. -/
def redirectWave (s : State) (wid : Nat) : State :=
  match findWave s wid with
  | none => s
  | some w =>
    match w.place with
    | none => s
    | some p =>
      if w.spin < Config.spinLimit || w.run.isSome then s
      else match [0, 1].find? fun k => (slotWave s p.die p.core p.quad k).isNone, pickWave s p.die p.core p.quad with
        | some k, some v => if v.id = wid then takeSlot s w k else s
        | _, _ => s

/-- SPIN_REDIRECT (R19). -/
def execSpinRedirect (wave : Nat) (s : State) : Host.Outcome State Fault Refusal := .next (redirectWave s wave)

/-! ### Results that return -/

/-- May a value that carries a clock be delivered to a wave (R263)? -/
def clockReaches (s : State) (w : Wave) (c : Clock) : Bool :=
  match w.place with
  | some p => clockCounts (clockOf s p.die) c
  | none => true

/-- The latch of the result filled in its lanes, while the run that sent it goes on (R25). -/
def fillLatch (w : Wave) (p : PendLoad) : Wave :=
  match w.run with
  | none => w
  | some r =>
    let k := w.tick - 1 - p.tick
    if w.tick ≤ p.tick || r.count ≤ k then w
    else
      let put (x : Option (Lanes Word)) : Option (Lanes Word) :=
        x.map fun v => Lanes.of fun l => if p.mask.has l then wordOf128 (p.vals.get l) 0 else v.get l
      { w with run := some { r with latches := setNth r.latches k (put (nthD r.latches k none)) } }

/-- The destination of a result written (R145): wave registers by number, gn as 256 + n, qn as 272 + n. -/
def writePending (s : State) (w : Wave) (p : PendLoad) : State :=
  match p.dst with
  | none => s
  | some (k, n) =>
    if k < 256 then
      let n' := min n (32 * w.blks.toNat - k)
      modWave (clearPoison s w.id k n' p.mask) w.id fun v => mapLanes v p.mask fun l y => putRegs y k (p.vals.get l) n'
    else if k < 272 then
      match p.mask.highest with
      | some l => (List.range n).foldl (fun t i => gSet t w (k - 256 + i) (wordOf128 (p.vals.get l) i)) s
      | none => s
    else writeReg s w p.pc p.mask (.q (Fin.ofNat 8 (k - 272))) 1 false fun l => p.vals.get l

/-- A result delivered. -/
def deliverLoad (s : State) (wid n : Nat) : State :=
  match findWave s wid with
  | none => s
  | some w =>
    match w.pend[n]? with
    | none => s
    | some p =>
      let s1 := writePending (modWave s wid fun v => { fillLatch v p with pend := v.pend.eraseIdx n }) w p
      let s2 := match p.pred with
        | some (q, m) => modWave s1 wid fun v => mapLanes v p.mask fun l x => setPred x q (m.has l)
        | none => s1
      flushJoins (tryFinish s2 wid) wid

/-- Can result n of a wave be delivered? In scout only an awaited one that has not arrived yet is (R337); any other result is
written once scout has ended. -/
def loadReady (s : State) (wid n : Nat) : Bool :=
  match findWave s wid with
  | none => false
  | some w => match w.pend[n]? with
    | none => false
    | some p => p.flight.isNone && clockReaches s w p.clock && match shadowOf s wid with
      | some h => h.awaits.contains p.tick && !h.ending
      | none => true

/-- Data that scout awaits has arrived: scout ends at the end of the run in progress, or at once between runs (R337). -/
def arriveInScout (s : State) (wid n : Nat) : State :=
  match findWave s wid with
  | none => s
  | some w =>
    if w.run.isSome then
      { s with shadows := s.shadows.map fun x => if x.wave = wid then { x with ending := true } else x }
    else deliverLoad (endScout s wid) wid n

/-- LOAD_RETURN (R145, R263). -/
def execLoadReturn (wave n : Nat) (s : State) : Host.Outcome State Fault Refusal :=
  .next (if loadReady s wave n then match shadowOf s wave with
    | some _ => arriveInScout s wave n
    | none => deliverLoad s wave n
  else s)

/-- A wake that can be delivered to a lane (R174, R263). -/
def wakeFor (s : State) (wid : Nat) (l : Lane) : Option Wake :=
  s.wakes.find? fun q => q.wave = wid && q.lane = l && match findWave s wid with
    | some w => clockReaches s w q.clock
    | none => true

/-- A wake delivered. -/
def wakeLane (s : State) (wid : Nat) (l : Lane) : State :=
  match wakeFor s wid l with
  | none => s
  | some q => unpark { s with wakes := s.wakes.erase q } wid l true q.clock

/-- LANE_WAKE (R174). -/
def execLaneWake (wave : Nat) (lane : Lane) (s : State) : Host.Outcome State Fault Refusal := .next (wakeLane s wave lane)

/-! ### WATCH (R231) -/

/-- What WATCH reports. -/
def watchInfo (w : Wave) (h : WatchHit) : TrapInfo :=
  let next := match issueAddress w with | some (p, _) => p | none => exitedPc
  let stand := match h.eng with
    | some _ => next
    | none => (minPc w h.exec).getD exitedPc
  { trap := .watch, mask := h.lanes, dmask := if h.eng.isSome then 0 else h.exec, pc := if h.eng.isSome then next else h.pc
    rpc := stand, addr := h.addr, code := 0, eng := h.eng, wscope := h.scope.code, wslot := h.slot
    lanes := if h.eng.isSome then h.lanes else h.exec, stand := stand }

/-- WATCH taken. -/
def takeWatch (s0 : State) (wid : Nat) : State :=
  match (findWave s0 wid).bind (watchDue s0) with
  | none => s0
  | some h =>
    let s := endScout s0 wid
    match findWave s wid with
    | none => s
    | some w => enterTrap (modWave s wid fun v => { v with watchPend := v.watchPend.erase h, run := none, hold := none }) wid (watchInfo w h)

/-- WATCH_TRAP (R231). -/
def execWatchTrap (wave : Nat) (s : State) : Host.Outcome State Fault Refusal := .next (takeWatch s wave)

/-- WAVE_FINISH_AFTER_COMMANDS (R343); a wave of an ended launch stops at its run boundary (R346). -/
def execWaveFinishAfterCommands (wave : Nat) (s : State) : Host.Outcome State Fault Refusal :=
  .next (boundaryStop (tryFinish s wave) wave)

/-! ### Claims (R115) -/

/-- The claim of a wave when it is the oldest of its quadrant and fits. -/
def grantable (s : State) (w : Wave) : Option Nat :=
  match w.place, w.claim with
  | some p, some (n, ord) =>
    if n ≤ freeBlocks s p.die p.core p.quad && (quadClaims s p.die p.core p.quad).all fun x => ord ≤ x.2.2 then some n else none
  | _, _ => none

/-- A claim granted. -/
def grantClaim (s : State) (wid : Nat) : State :=
  match findWave s wid with
  | none => s
  | some w =>
    match grantable s w with
    | some n => modWave (freshBlocks s w n) wid fun v => { addBlocks v n with claim := none, granted := true }
    | none => s

/-- REG_CLAIM_GRANT (R115). -/
def execRegClaimGrant (wave : Nat) (s : State) : Host.Outcome State Fault Refusal := .next (grantClaim s wave)

/-! ### Saving and relaunching -/

/-- Does a command name a tile (R218)? -/
def tileCommand (c : Command) : Bool :=
  let op := bitsOf (nthD c.words 0 0).toNat 0 8
  op = 2 || op = 3 || op = 4 || op = 0x10 || op = 0x30

/-- Has the group no tile work left (R291)? Members that wait at the rendezvous are saved as they wait (R202). A save also waits
until its waves' stores are acknowledged: wherever they go on, their stores are performed and counted (R143; DESIGN CHOICE, log 80). -/
def saveable (s : State) (g : Group) : Bool :=
  g.place.isSome && !g.finished && g.array.isEmpty && g.tiles.all (fun t => t.busy = 0)
    && (wavesOf s g.id).all fun w => w.stores = 0 && w.drain.isNone && w.queues.toList.all fun q => q.cmds.all fun c => !tileCommand c

/-- Does a wave wait for a page of its code (R44)? -/
def codeWaits (s : State) (w : Wave) : Bool :=
  match nextRun w with
  | some r => match fetchAt s w r.pc with
    | .absent g => requested s g
    | .trap _ | .late | .poison _ | .word _ _ => false
  | none => false

/-- Does a wave wait (R18, R329)? -/
def waiting (s : State) (w : Wave) : Bool :=
  !w.stopped && ((liveMask w = 0 && parkedMask w ≠ 0 && w.run.isNone) || (w.issue.isNone && codeWaits s w))

/-- The die of the dispatcher that serves a launch's queue (R321). -/
def launchDie (s : State) (launch : DWord) : Nat := match findLaunch s launch with | some l => l.queue % 4 | none => 0

/-- Would some core of its partition take a saved group now? -/
def groupFits (s : State) (g : Group) : Bool :=
  match findPart s g.part with
  | some p => (chooseCore s p (needOf s g) (launchDie s g.launch) none g.clock).isSome
  | none => false

/-- A claim that has waited too long: its group is saved (R115, R329), but the interval of a stopped wave does not run (R395); a quadrant free for the claim is the signal that queues
it for relaunch (R331). -/
def claimTimeout (s : State) (wid : Nat) : State :=
  match findWave s wid with
  | none => s
  | some w =>
    match findGroup s w.group with
    | none => s
    | some g =>
      if w.claim.isNone || heldStopped w then s
      else if g.place.isNone then (if groupFits s g then signalGroup s g.id else s)
      else if saveable s g then saveGroup s g.id else s

/-- CLAIM_WAIT_TIMEOUT (R115). -/
def execClaimWaitTimeout (wave : Nat) (s : State) : Host.Outcome State Fault Refusal := .next (claimTimeout s wave)

/-- A group of waiting waves saved (R329). -/
def saveTimeout (s : State) (gid : Nat) : State :=
  match findGroup s gid with
  | none => s
  | some g =>
    if saveable s g && (wavesOf s gid).all fun w => w.finished || waiting s w then saveGroup s gid else s

/-- GROUP_SAVE_TIMEOUT (R329). -/
def execGroupSaveTimeout (group : Nat) (s : State) : Host.Outcome State Fault Refusal := .next (saveTimeout s group)

/-- The highest priority of a wave that waits for a monitor the group owns (R286). -/
def waiterPri (s : State) (g : Nat) : Nat :=
  let mine (q : Waiter) : Bool := (wavesOf s g).any fun w => w.id = q.wave
  (s.campion.filter fun e => mine e.owner).foldl (fun n e => e.queue.foldl (fun n q =>
    match findWave s q.wave with
    | some w => max n w.pri.toNat
    | none => n) n) 0

/-- The priority of a saved group in the relaunch queue (R331). -/
def relaunchPri (s : State) (g : Group) : Nat :=
  max (if g.raised then min 7 (groupPri s g.id + 1) else groupPri s g.id) (waiterPri s g.id)

/-- The group that its partition's relaunch queue serves next (R331). -/
def relaunchHead (s : State) (part : Nat) : Option Group :=
  minBy (fun g => (7 - relaunchPri s g) * (s.fresh + 1) + g.signal.getD 0)
    (s.groups.filter fun g => g.part = part && g.place.isNone && !g.finished && g.signal.isSome)

/-- Waves that were resumed elsewhere: a waiting claim is made again by its RCLAIM (R115). -/
def relaunchWave (w : Wave) : Wave := { w with claim := none, run := w.run.map fun r => { r with cut := true } }

/-- A signalled group placed again (R331); a poisoned context is consumed as it is read (R356). -/
def relaunch (s : State) (gid : Nat) : State :=
  match findGroup s gid with
  | none => s
  | some g =>
    match findPart s g.part with
    | none => s
    | some p =>
      if (relaunchHead s g.part).map (·.id) = some gid then
        match chooseCore s p (needOf s g) (launchDie s g.launch) none g.clock with
        | some (d, c) =>
          if s.poisonCtx.contains gid then
            consumeError s g.launch (match wavesOf s gid with | w :: _ => nameOf w 0 | [] => 0) g.spawned .context
          else
          let s1 := seatGroup s gid d c
          { s1 with waves := s1.waves.map fun w => if w.group = gid then relaunchWave w else w }
        | none => s
      else s

/-- GROUP_RELAUNCH (R331). -/
def execGroupRelaunch (group : Nat) (s : State) : Host.Outcome State Fault Refusal := .next (relaunch s group)

/-! ### Scout (R335 to R337) -/

/-- The word at which a wave is blocked, with its shape, when it waits for the result of a load that missed the last-level
cache (R335). -/
def blockedAt (s : State) (w : Wave) : Option (Run × Shape) :=
  match nextRun w with
  | none => none
  | some r =>
    match fetchAt s w r.pc with
    | .word _ x => match decode x with
      | .ok i => match i.shape with
        | some sh => if (waitsFor w sh).any (fun p => p.missed && p.flight.isNone) then some (r, sh) else none
        | none => none
      | .error _ => none
    | .trap _ | .absent _ | .late | .poison _ => none

/-- May a wave enter scout (R335)? -/
def mayScout (s : State) (w : Wave) : Bool :=
  !w.h && !w.stopped && !w.finished && (shadowOf s w.id).isNone && match w.place with
  | some p => (quadClaims s p.die p.core p.quad).isEmpty && 2 ≤ freeBlocks s p.die p.core p.quad
      && (quadShadows s p.die p.core p.quad).length < 2
  | none => false

/-- Registers that results of the wave are still to be written to, poisoned in their lanes. -/
def pendPoison (w : Wave) : List (Nat × Mask) :=
  w.pend.foldl (fun l p => match p.dst with
    | some (k, n) => (List.range n).foldl (fun l i => setPoison l (k + i) p.mask p.mask) l
    | none => l) []
def pendPoisonP (w : Wave) : List (Nat × Mask) :=
  w.pend.foldl (fun l p => match p.pred with
    | some (q, _) => setPoison l q.val p.mask p.mask
    | none => l) []

/-- A wave enters scout: the blocked instruction is passed over, its own results poisoned with those awaited (R335). -/
def enterScout (s : State) (wid : Nat) : State :=
  match findWave s wid with
  | none => s
  | some w =>
    match blockedAt s w with
    | none => s
    | some (r, sh) =>
      if !mayScout s w then s
      else
        let m := execMask w r
        let h : Shadow := { wave := wid, saved := w, poison := pendPoison w, poisonP := pendPoisonP w, poisonL := [], written := [], g := []
                            awaits := ((waitsFor w sh).filter (·.missed)).map (·.tick), ending := false }
        let s1 := { s with shadows := s.shadows ++ [markShadow h w sh m m] }
        modWave s1 wid fun v =>
          { mapLanes v m (fun _ x => { x with pc := r.pc + 4 }) with
            run := none, hold := none, issue := none
            counters := { v.counters with scoutEntries := v.counters.scoutEntries + 1 } }

/-- SCOUT_ENTER (R335). -/
def execScoutEnter (wave : Nat) (s : State) : Host.Outcome State Fault Refusal := .next (enterScout s wave)

/-- Scout ends at the end of the current run (R337). -/
def leaveScout (s : State) (wid : Nat) : State :=
  match findWave s wid with
  | some w => if w.run.isNone then endScout s wid else s
  | none => s

/-- SCOUT_TIMEOUT (R337). -/
def execScoutTimeout (wave : Nat) (s : State) : Host.Outcome State Fault Refusal := .next (leaveScout s wave)

/-- Have data that the scout awaits arrived (R337)? -/
def scoutArrived (s : State) (w : Wave) (h : Shadow) : Bool :=
  h.ending || w.pend.any fun p => h.awaits.contains p.tick && p.flight.isNone && clockReaches s w p.clock

/-- Scout whose data have arrived ends at the end of the current run (R337). -/
def exitScout (s : State) (wid : Nat) : State :=
  match findWave s wid, shadowOf s wid with
  | some w, some h => if scoutArrived s w h then leaveScout s wid else s
  | _, _ => s

/-- SCOUT_EXIT (R337). -/
def execScoutExit (wave : Nat) (s : State) : Host.Outcome State Fault Refusal := .next (exitScout s wave)

end Sys2Proof.Machine
end

