-- ==== Sys2Proof/Machine/Sweolo.lean ====
section
/-! DEFINITION. What Sweolo writes (R306 to R315, R371, R376 to R381, R410, R411): leaves and pages, range registers,
tables, partitions, tenants, quotas, lent clusters. A request that is refused changes nothing but the answer; a request
that has to wait stays pending, and those that arrive later wait behind it (R411). -/
namespace Sys2Proof.Machine

/-- A request refused (R411), named by the number of its row's rule. -/
def refuse (s : State) (what : Nat) : State := answer s (.refused what)

/-- Is a group of the partition resident? -/
def anyResident (s : State) (part : Nat) : Bool := s.groups.any fun g => g.part = part && g.place.isSome && !g.finished

/-- Is a group of a partition of the tenant resident? -/
def tenantResident (s : State) (t : Nat) : Bool := s.parts.any fun p => p.desc.tenant.toNat = t && anyResident s p.n

/-- A request that waits joins those that are pending (R411). -/
def awaitTurn (s : State) (i : Instr) : State := { s with sweolo := { s.sweolo with pending := s.sweolo.pending ++ [i] } }

/-- A request that may have to wait: performed now, or pending until it can be (R411). -/
def served (i : Instr) (x : Option State) (s : State) : Host.Outcome State Fault Refusal := .next (x.getD (awaitTurn s i))

/-! ### Pages -/

/-- A table of level l made at the first free place of the protected region, empty (R306, log 63). -/
def newTable (s : State) (l : Nat) : Nat × State := (s.protectNext, { s with protectNext := s.protectNext + Config.tableBytes l })

/-- An entry that leads to a table. -/
def tableEntry (table : Nat) : DWord := 1 ||| BitVec.ofNat 64 (table * 2 ^ 16)

/-- The table of level `k` + (levels walked) that an IA selects below a table of level k: tables that are missing, or where a
leaf or a broken entry stands, are made (R306). -/
def tableFor (ia : Nat) : Nat → Nat → Nat → State → Nat × State
  | 0, _, table, s => (table, s)
  | n + 1, k, table, s =>
    let a := entryAddr table (Fin.ofNat 4 k) ia
    let e := protectGet s a
    if entryOk (Fin.ofNat 4 k) e && !entryLeaf e then tableFor ia n (k + 1) (entryTable e) s
    else
      let (t, s1) := newTable s (k + 1)
      tableFor ia n (k + 1) t (protectSet s1 a (tableEntry t))

/-- An entry written at a level of a partition's table (R306, R310). -/
def putEntry (s : State) (p : Part) (l : Fin 4) (ia : Nat) (e : DWord) : State :=
  let (t, s1) := tableFor ia l.val 0 p.root s
  protectSet s1 (entryAddr t l ia) e

/-- The entry that stands at a level for an IA, with the level at which the walk found it: a leaf above it, or its own. -/
def entryAt (s : State) (ia : Nat) : Nat → Nat → Nat → Nat × DWord
  | 0, k, table => (k, protectGet s (entryAddr table (Fin.ofNat 4 k) ia))
  | n + 1, k, table =>
    let e := protectGet s (entryAddr table (Fin.ofNat 4 k) ia)
    if entryOk (Fin.ofNat 4 k) e && !entryLeaf e then entryAt s ia n (k + 1) (entryTable e) else (k, e)

/-- Does a change of an entry make cached lines of its page stale (R310, step 4): V, RES or a permission is cleared, or ADDR,
KEYIX or what the entry is changes? An entry that was not mapped has no lines. -/
def entryLoses (old new : DWord) : Bool :=
  entryV old && (!entryV new || (List.range 4).any (fun k => old.getLsbD (k + 2) && !new.getLsbD (k + 2))
    || entryLeaf old ≠ entryLeaf new || old.extractLsb' 8 48 ≠ new.extractLsb' 8 48)

/-- Lines of a range of IAs dropped from every cache. -/
def dropLines (s : State) (lo hi : Nat) : State :=
  let inside (line : Nat) : Bool := lo ≤ 64 * line && 64 * line < hi
  let s1 := l1Filter s fun b k _ => inside (4 * b.tag + k.val)
  { s1 with llc := s1.llc.filter fun b => !inside (4 * b.tag)
            fills := s1.fills.filter fun f => !inside f.2.1 }

/-- Groups whose wave waited for a code page that is there now are signalled (R331). -/
def signalCode (old new : State) : State :=
  (old.groups.filter fun g => g.place.isNone && (wavesOf old g.id).any fun w => codeWaits old w && !codeWaits new w).foldl
    (fun t (g : Group) => signalGroup t g.id) new

/-- Lines that a test selects, encrypted under a key from now on (R381). -/
def rekeyed (s : State) (key : Nat) (p : Nat → Bool) : State :=
  (s.lineKeys.filter fun x => p x.1).foldl (fun t x => underKey t key (64 * x.1)) s

/-- The metadata words of the frame of a page are 0 when the page is first mapped to it, under the page's key; that is never
undone (R157, R314, R381). -/
def zeroMeta (s : State) (p : Part) (l : Fin 4) (e : DWord) : State :=
  let f := (leafOfEntry l e).frame.toNat
  let key := slotKey s (leafOfEntry l e).keyix.toNat
  let inside (o : Option Nat) : Bool := o.any fun x => f ≤ x && x < f + pageBytes l / 4
  let keep (c : Host.Cell) : Bool := !inside (metaOffset p c.1)
  let t := rekeyed s key fun x => inside (frameOffset p (64 * x))
  inImages { t with mem := t.mem.filter keep, poisonMeta := t.poisonMeta.filter fun x => !inside (frameOffset p (64 * x)) }
    fun i =>
      let u := rekeyed { s with mem := i.mem, lineKeys := i.lineKeys } key fun x => inside (frameOffset p (64 * x))
      { i with mem := u.mem.filter keep, lineKeys := u.lineKeys }

/-- An entry of a partition's table changed (R310): performed once no access under the old entry is on its way; the cores'
page-attribute caches lose the page; completion is reported. Requests for pages that it makes resident are served (R311). -/
def shootdown (s : State) (part ia : Nat) (l : Fin 4) (e : DWord) : Option State :=
  match findPart s part with
  | none => some (refuse s 310)
  | some p =>
    if ia % pageBytes l ≠ 0 || ia / 2 ^ 48 ≠ 0 || (windowOwner s ia).map (·.1) ≠ some part then some (refuse s 310)
    else
      let (k, old) := entryAt s ia l.val 0 p.root
      let size := pageBytes (if entryLeaf old then Fin.ofNat 4 k else l)
      let lo := ia / size * size
      let hi := lo + size
      if s.flights.any fun f => lo ≤ f.ia && f.ia < hi then none
      else
        let leaf := entryLeaf e && entryV e
        let moved := leaf && !(entryV old && entryLeaf old && k = l.val && old.extractLsb' 16 40 = e.extractLsb' 16 40)
        let s1 := putEntry s p l ia e
        let s2 := if moved then zeroMeta s1 p l e else s1
        let s3 := if entryLoses old e || (entryV old && k ≠ l.val) then dropLines s2 lo hi else s2
        let served (b : Nat) : Bool := leaf && e.getLsbD 2 && ia ≤ b && b < ia + pageBytes l
        let s4 : State :=
          { s3 with
            pac := s3.pac.filter fun x => !(lo ≤ x.base && x.base < hi)
            dies := Vector.ofFn fun d => { s3.dies.get d with pages := (s3.dies.get d).pages.filter fun x => !served x.1 }
            parts := s3.parts.map fun y => { y with ring := y.ring.filter fun x => !served (bitsOf x.toNat 0 52) } }
        some (answer (signalCode s s4) (.unmapped part (BitVec.ofNat 52 ia)))

/-- PAGE_SHOOTDOWN (R310). -/
def execPageShootdown (part : Nat) (ia : BitVec 52) (leaf : EntryWrite) (s : State) : Host.Outcome State Fault Refusal :=
  served (.pageShootdown part ia leaf) (shootdown s part ia.toNat leaf.level leaf.entry) s

/-- The code of a page size in a request (R311). -/
def sizeCode (l : Fin 4) : Nat := 3 - l.val

/-- An entry of the page-request ring (R311). -/
def pageEntry (part : Nat) (x : Nat × Fin 4 × Nat) (seq : Word) : BitVec 128 :=
  BitVec.ofNat 128 (fld x.1 0 52 + fld (sizeCode x.2.1) 52 2 + fld part 54 6 + fld seq.toNat 64 32)

/-- A pending request of the partition that its ring does not hold yet. -/
def unringed (s : State) (p : Part) : Option (Nat × Fin 4 × Nat) :=
  (s.dies.toList.flatMap (·.pages)).find? fun x => x.2.2 = p.n && p.ring.all fun e => bitsOf e.toNat 0 52 ≠ x.1

/-- Is the ring's next place free: no entry that stands in it still waits to be served (R311)? -/
def ringRoom (p : Part) : Bool :=
  p.ring.all fun e => bitsOf e.toNat 64 32 % Config.ringEntries ≠ p.ringSeq.toNat % Config.ringEntries

/-- A pending request written to the ring and forwarded to the host's pager, while the ring has room. -/
def forwardPage (s : State) (part : Nat) : State :=
  match findPart s part with
  | none => s
  | some p =>
    match unringed s p with
    | none => s
    | some x =>
      if !ringRoom p then s
      else
        let e := pageEntry part x p.ringSeq
        let a := p.ringBase + 16 * (p.ringSeq.toNat % Config.ringEntries)
        let s1 := protectSet (protectSet s a (e.extractLsb' 0 64)) (a + 8) (e.extractLsb' 64 64)
        answer (modPart s1 part fun y => { y with ring := y.ring ++ [e], ringSeq := y.ringSeq + 1 }) (.pageRequest e)

/-- PAGE_REQUEST_FORWARD (R311). -/
def execPageRequestForward (part : Nat) (s : State) : Host.Outcome State Fault Refusal := .next (forwardPage s part)

/-- The page that holds an IA in a partition's own table, resident or not. -/
def ownPage (s : State) (part ia : Nat) : Option Page :=
  match pageOf s ia with
  | some g => if g.owner.n = part then some g else none
  | none => none

/-- Bytes of a page written to its frame, line by line, under the page's key (R381). -/
def frameBytesPut (s : State) (g : Page) (a : Nat) (bs : List Byte) : State :=
  (iaPieces a bs.length).foldl (fun t q =>
    let p := physIn g q.1
    let put (m : Memory) : Memory := writeBytes m p ((bs.drop q.2.1).take q.2.2)
    let t1 := underKey t (pageKey t g) p
    inImages { t1 with mem := put t1.mem, poisonMem := t1.poisonMem.filter fun k => !(p ≤ 64 * k && 64 * k + 64 ≤ p + q.2.2) }
      fun i => { i with mem := put i.mem, lineKeys := putBy (fun x => x.1 = p / 64) (p / 64, pageKey s g) i.lineKeys }) s

/-- A metadata word of a page's frame written by the pager; bits [5:0] read as zero (R271, R312). -/
def frameWordPut (s : State) (g : Page) (a : Nat) (x : BitVec 16) : State :=
  let p := physIn g a
  let put (m : Memory) : Memory := writeN m (metaAddr p) 2 (x &&& 0xFFC0).toNat
  let s1 := underKey s (pageKey s g) p
  inImages { s1 with mem := put s1.mem, poisonMeta := s1.poisonMeta.filter (· ≠ p / 64) }
    fun i => { i with mem := put i.mem, lineKeys := putBy (fun y => y.1 = p / 64) (p / 64, pageKey s g) i.lineKeys }

/-- A page's data and metadata words written into its frame, before it is made resident (R312): what the pager has written no
rollback undoes. -/
def fillFrame (s : State) (part ia : Nat) (data : List Byte) (words : List (BitVec 16)) : State :=
  match ownPage s part ia with
  | none => refuse s 312
  | some g =>
    let room := g.base + pageBytes g.leaf.level - ia
    if g.leaf.res || room < data.length || room < 64 * words.length then refuse s 312
    else
      let s1 := frameBytesPut s g ia data
      (List.range words.length).foldl (fun t k => frameWordPut t g (64 * (ia / 64 + k)) (nthD words k 0)) s1

/-- PAGER_FRAME_WRITE (R312). -/
def execPagerFrameWrite (part : Nat) (ia : BitVec 52) (data : List Byte) (words : List (BitVec 16)) (s : State) :
    Host.Outcome State Fault Refusal := .next (fillFrame s part ia.toNat data words)

/-! ### Range registers and windows -/

/-- May a partition's register map a device window (R295, R306)? -/
def mayMap (s : State) (part : Nat) (r : RangeReg) (k : Nat) : Bool :=
  match s.windows.find? fun x => x.1 = k with
  | none => false
  | some (_, o, xs) => o = part || (xs.contains part && !r.wp && !r.xp)

/-- Is a range register one that Sweolo accepts beside the others (R295)? -/
def rangeOk (s : State) (p : Part) (i : Fin 16) (r : RangeReg) : Bool :=
  let units := r.vlast.toNat - r.vbase.toNat + 1
  let first := r.iabase.toNat
  let last := first + units - 1
  !r.v || (decide (r.vbase.toNat ≤ r.vlast.toNat)
    && ((List.finRange 16).all fun k => k = i || !(p.ranges.get k).v
      || (p.ranges.get k).vlast.toNat < r.vbase.toNat || r.vlast.toNat < (p.ranges.get k).vbase.toNat)
    && r.remote = decide (2 ^ 35 ≤ first)
    && (if r.remote then decide (last < 2 ^ 36)
        else decide (last < 2 ^ 32) && (List.range (last / 2 ^ 20 + 1 - first / 2 ^ 20)).all fun k => mayMap s p.n r (first / 2 ^ 20 + k)))

/-- A range register written, while no group of the partition is resident. -/
def writeRangeReg (s : State) (part : Nat) (i : Fin 16) (r : RangeReg) : Option State :=
  match findPart s part with
  | none => some (refuse s 295)
  | some p =>
    if !rangeOk s p i r then some (refuse s 295)
    else if anyResident s part then none
    else some (modPart s part fun y => { y with ranges := y.ranges.set i.val r i.isLt })

/-- RANGE_REGISTER_WRITE (R295). -/
def execRangeRegisterWrite (part : Nat) (i : Fin 16) (r : RangeReg) (s : State) : Host.Outcome State Fault Refusal :=
  served (.rangeRegisterWrite part i r) (writeRangeReg s part i r) s

/-- A window assigned, exported or taken back, while no group of its owners is resident. -/
def assignWindow (s : State) (k : Nat) (owner : Option Nat) (exports : List Nat) : Option State :=
  let old := (s.windows.find? fun x => x.1 = k).map (·.2.1)
  if 4096 ≤ k || (match owner with | some o => (findPart s o).isNone | none => false) then some (refuse s 306)
  else if old ≠ owner && (old.toList ++ owner.toList).any (anyResident s) then none
  else
    let rest := s.windows.filter fun x => x.1 ≠ k
    some { s with windows := match owner with | some o => rest ++ [(k, o, exports)] | none => rest }

/-- WINDOW_ASSIGNMENT (R306). -/
def execWindowAssignment (window : Nat) (owner : Option Nat) (exports : List Nat) (s : State) : Host.Outcome State Fault Refusal :=
  served (.windowAssignment window owner exports) (assignWindow s window owner exports) s

/-! ### Queues, tenants, remote memory, quotas -/

/-- A queue descriptor written: the sequence numbers are the machine's (R315). -/
def writeQueue (s : State) (n : Nat) (d : QueueDesc) : Option State :=
  let size := 128 * 2 ^ d.log2n.toNat
  let old := findQueue s n
  if 4096 ≤ n || (d.v && (d.log2n.toNat < 4 || 20 < d.log2n.toNat || d.base.toNat % size ≠ 0)) then some (refuse s 315)
  else if tenantResident s d.tenant.toNat || (match old with | some q => tenantResident s q.desc.tenant.toNat | none => false) then none
  else some (match old with
    | some _ => modQueue s n fun q => { q with desc := d }
    | none => { s with queues := s.queues ++ [{ n := n, desc := d, tail := 0, start := 0, head := 0, done := [], after := [], origins := [], void := [], emergency := [], reserved := [], turn := 0 }] })

/-- QUEUE_DESCRIPTOR_WRITE (R315). -/
def execQueueDescriptorWrite (q : Nat) (r : QueueDesc) (s : State) : Host.Outcome State Fault Refusal :=
  served (.queueDescriptorWrite q r) (writeQueue s q r) s

/-- A bitmap of queues written to the protected region (R371). -/
def putBitmap (s : State) (a : Nat) (x : BitVec 4096) : State :=
  (List.range 64).foldl (fun t k => protectSet t (a + 8 * k) (x.extractLsb' (64 * k) 64)) s

/-- Does a physical address lie in a frame that a tenant's partitions have owned since it was zeroed (R381)? -/
def tenantFrame (s : State) (t a : Nat) : Bool := (s.frames.get (Fin.ofNat 64 t)).getLsbD (a / Config.channelBytes)

/-- A tenant removed: its key slot is erased, and its frames with their metadata are zero, in the images of marks too (R381). -/
def dropTenant (s : State) (t : Nat) : State :=
  let k := (s.tenants.get (Fin.ofNat 64 t)).keyix.toNat
  let cached (ia : Nat) : Bool := match physOf s ia with | some a => tenantFrame s t a | none => false
  let s1 := l1Filter s fun b _ _ => cached (256 * b.tag)
  inImages { s1 with
      mem := s1.mem.filter fun c => !tenantFrame s t c.1
      lineKeys := s1.lineKeys.filter fun x => !tenantFrame s t (64 * x.1)
      poisonMem := s1.poisonMem.filter fun q => !tenantFrame s t (64 * q)
      poisonMeta := s1.poisonMeta.filter fun q => !tenantFrame s t (64 * q)
      llc := s1.llc.filter fun b => !cached (256 * b.tag)
      frames := Vector.ofFn fun j => if j = Fin.ofNat 64 t then 0 else s.frames.get j
      tenants := Vector.ofFn fun j => if j = Fin.ofNat 64 t then TenantEntry.unused else s.tenants.get j
      sweolo := { s.sweolo with keySlots := s.sweolo.keySlots.filter fun x => x.1 ≠ k || x.1 = 0 } }
    fun i => { i with mem := i.mem.filter fun c => !tenantFrame s t c.1
                      lineKeys := i.lineKeys.filter fun x => !tenantFrame s t (64 * x.1) }

/-- A tenant removed, while none of its groups is resident (R381, R411). -/
def removeTenant (s : State) (t : Nat) : Option State :=
  if 64 ≤ t then some (refuse s 381) else if tenantResident s t then none else some (dropTenant s t)

/-- TENANT_REMOVE (R381). -/
def execTenantRemove (t : Nat) (s : State) : Host.Outcome State Fault Refusal := served (.tenantRemove t) (removeTenant s t) s

/-- A key slot filled with a new draw (R380). -/
def fillSlot (s : State) (k : Nat) : State :=
  { s with fresh := s.fresh + 1, sweolo := { s.sweolo with keySlots := s.sweolo.keySlots.filter (fun x => x.1 ≠ k) ++ [(k, s.fresh + 1)] } }

/-- A tenant's entry, with the bitmap that it names (R371). Its slot is filled when it is defined or takes another index, and the
slot that it leaves is erased: one slot for each tenant (R380). -/
def putTenant (s : State) (t : Nat) (w : TenantWrite) : State :=
  let old := s.tenants.get (Fin.ofNat 64 t)
  let s1 := putBitmap s w.entry.qmap.toNat w.queues
  let s2 := if old.v && old.keyix = w.entry.keyix then s1
    else fillSlot { s1 with sweolo := { s1.sweolo with keySlots := s1.sweolo.keySlots.filter fun x => !old.v || x.1 ≠ old.keyix.toNat } } w.entry.keyix.toNat
  { s2 with tenants := Vector.ofFn fun k => if k = Fin.ofNat 64 t then w.entry else s.tenants.get k }

/-- A tenant entry written (R371): V = 0 removes a tenant (R381). The job of management traffic is no tenant's (R370). -/
def writeTenant (s : State) (t : Nat) (w : TenantWrite) : Option State :=
  let r := w.entry
  let taken := (List.range 64).any fun k => let e := s.tenants.get (Fin.ofNat 64 k); k ≠ t && e.v && e.keyix = r.keyix
  if 64 ≤ t || (r.v && (r.keyix = 0 || taken || r.job = s.sweolo.job)) then some (refuse s 371)
  else if tenantResident s t then none
  else if r.v then some (putTenant s t w)
  else
    let s1 := if (s.tenants.get (Fin.ofNat 64 t)).v then dropTenant s t else s
    some { s1 with tenants := Vector.ofFn fun k => if k = Fin.ofNat 64 t then r else s.tenants.get k }

/-- TENANT_TABLE_WRITE (R371). -/
def execTenantTableWrite (t : Nat) (r : TenantWrite) (s : State) : Host.Outcome State Fault Refusal :=
  served (.tenantTableWrite t r) (writeTenant s t r) s

/-- A remote-memory entry written (R313). -/
def writeRemote (s : State) (t i : Nat) (r : RemoteEntry) : Option State :=
  let used := s.remotes.any fun x => x.1 = t && x.2.1 = i && x.2.2.v
  if 64 ≤ t || 256 ≤ i || (r.v && (r.iabase.toNat < 2 ^ 51 || r.iabase.toNat % 4096 ≠ 0)) then some (refuse s 313)
  else if used && tenantResident s t then none
  else some { s with remotes := s.remotes.filter (fun x => !(x.1 = t && x.2.1 = i)) ++ (if r.v then [(t, i, r)] else []) }

/-- REMOTE_TABLE_WRITE (R313). -/
def execRemoteTableWrite (t i : Nat) (r : RemoteEntry) (s : State) : Host.Outcome State Fault Refusal :=
  served (.remoteTableWrite t i r) (writeRemote s t i r) s

/-- The quotas of a bank, summed over tenants but one. -/
def quotaSum (s : State) (bank but : Nat) : Nat :=
  (s.quotas.filter fun q => q.2.1 = bank && q.1 ≠ but).foldl (fun n q => n + q.2.2) 0

/-- The banks in which a tenant has a quota above zero (R302, R376). -/
def quotaBanks (s : State) (t : Nat) : BitVec 256 :=
  (s.quotas.filter fun q => q.1 = t).foldl (fun b q => b ||| BitVec.ofNat 256 (2 ^ q.2.1)) 0

/-- The BANKS fields of a tenant's partitions follow its quotas (R302). -/
def followQuotas (s : State) (t : Nat) : State :=
  { s with parts := s.parts.map fun p => if p.desc.v && p.desc.tenant.toNat = t then { p with desc := { p.desc with banks := quotaBanks s t } } else p }

/-- A quota written, within the capacity of the bank (R302). -/
def writeQuota (s : State) (t bank lines : Nat) : State :=
  if 64 ≤ t || 256 ≤ bank || 16384 < quotaSum s bank t + lines then refuse s 302
  else followQuotas { s with quotas := s.quotas.filter (fun q => !(q.1 = t && q.2.1 = bank)) ++ (if lines = 0 then [] else [(t, bank, lines)]) } t

/-- QUOTA_WRITE (R302). -/
def execQuotaWrite (t bank lines : Nat) (s : State) : Host.Outcome State Fault Refusal := .next (writeQuota s t bank lines)

/-! ### Partitions -/

/-- Does Sweolo accept a descriptor beside those of the other partitions (R377), its BANKS those of its tenant's quotas
(R302)? -/
def descOk (s : State) (n : Nat) (d : PartDesc) : Bool :=
  let others := s.parts.filter fun p => p.n ≠ n && p.desc.v
  n < 64 && (!d.v || (decide (1 ≤ d.savei.toNat) && decide (d.savei.toNat ≤ 1000) && decide (10 ≤ d.marki.toNat) && decide (d.marki.toNat ≤ 500)
    && others.all (fun p => p.desc.clusters &&& d.clusters = 0 && p.desc.owned &&& d.owned = 0
      && p.desc.channels &&& d.channels = 0 && p.desc.engines &&& d.engines = 0)
    && d.banks = quotaBanks s d.tenant.toNat))

/-- A partition as it is when Sweolo defines it: no register, an empty table, a committed mark 0; its table's root and its ring
lie at the places given. -/
def freshPart (n : Nat) (d : PartDesc) (root ring : Nat) : Part :=
  { n := n, desc := d
    ranges := Vector.replicate 16 { v := false, rp := false, wp := false, xp := false, remote := false, vbase := 0, vlast := 0, iabase := 0 }
    root := root, intercept := false, dieWatch := false, ringBase := ring, ring := [], ringSeq := 0, mark := 0, committed := true, markDue := false, logSize := Config.undoLog, logged := []
    held := [], closing := [], inbound := [], inboundDone := 0, unrecorded := 0, counters := [] }

/-- The cores of cluster k. -/
def clusterCores (k : Nat) : List (Nat × Nat) := (List.range 4).map fun j => (k / 16, 4 * (k % 16) + j)

/-- The L1s of a cluster invalidated and its core counters at zero (R228, R378). -/
def restartCores (s : State) (k : Nat) : State :=
  let s1 := (clusterCores k).foldl (fun t c => l1DropAll t c.1 c.2) s
  { s1 with cores := s1.cores.map fun c =>
      if 16 * c.die + c.core / 4 = k then { c with corrections := 0, emergencies := 0, hits := List.replicate 4 0 } else c }

/-- The descriptor of partition n of the 64, defined or not (R376). -/
def descOf (s : State) (n : Nat) : PartDesc :=
  match findPart s n with
  | some p => p.desc
  | none => s.idle.get (Fin.ofNat 64 n)

/-- The clusters of a bitmap. -/
def clustersIn (b : BitVec 64) : List Nat := (List.range 64).filter fun k => b.getLsbD k

/-- The channels of a descriptor's partition are its tenant's from now on, and no other tenant's (R381). -/
def takeFrames (s : State) (d : PartDesc) : State :=
  { s with frames := Vector.ofFn fun k =>
      if k = Fin.ofNat 64 d.tenant.toNat then s.frames.get k ||| d.channels else s.frames.get k &&& ~~~d.channels }

/-- A partition defined: its core counters start (R228), with an empty table and ring, and its first mark is an empty one. -/
def definePart (s : State) (n : Nat) (w : PartWrite) : State :=
  let (root, s0) := newTable s 0
  let s1 := { s0 with parts := s0.parts ++ [{ freshPart n w.desc root s0.protectNext with logSize := w.log }]
                      protectNext := s0.protectNext + 16 * Config.ringEntries }
  (clustersIn w.desc.clusters).foldl restartCores (takeFrames { s1 with images := s1.images.filter (fun i => i.part ≠ n) ++ [imageOf s1 n 0] } w.desc)

/-- A partition that is defined no longer; its descriptor stays as written. -/
def undefinePart (s : State) (p : Part) (d : PartDesc) : State :=
  (clustersIn p.desc.clusters).foldl restartCores
    { s with parts := s.parts.filter (fun q => q.n ≠ p.n), images := s.images.filter fun i => i.part ≠ p.n
             idle := Vector.ofFn fun k => if k = Fin.ofNat 64 p.n then d else s.idle.get k }

/-- A partition descriptor written, with the size of the undo log (R348, R376, R377): what a resident group uses changes only
while none is resident. The die counters of a defined partition go on when its descriptor is written again with V = 1: the spec
does not say whether they restart (DESIGN CHOICE, log 90). -/
def writePart (s : State) (n : Nat) (w : PartWrite) : Option State :=
  let d := w.desc
  if !descOk s n d then some (refuse s 377)
  else match findPart s n with
    | none =>
      if d.v then some (definePart s n w)
      else some { s with idle := Vector.ofFn fun k => if k = Fin.ofNat 64 n then d else s.idle.get k }
    | some p =>
      let same := { d with savei := p.desc.savei, marki := p.desc.marki } = p.desc
      if !d.v then (if s.groups.any fun g => g.part = n then none else some (undefinePart s p d))
      else if !same && anyResident s n then none
      else
        let moved := clustersIn (d.clusters &&& ~~~p.desc.clusters)
        some (moved.foldl restartCores (takeFrames (modPart s n fun y => { y with desc := d, logSize := w.log }) d))

/-- PARTITION_DESCRIPTOR_WRITE (R377). -/
def execPartitionDescriptorWrite (part : Nat) (r : PartWrite) (s : State) : Host.Outcome State Fault Refusal :=
  served (.partitionDescriptorWrite part r) (writePart s part r) s

/-- DEBUG_INTERCEPT_SET (R221). -/
def execDebugInterceptSet (part : Nat) (on : Bool) (s : State) : Host.Outcome State Fault Refusal :=
  .next (if (findPart s part).isNone then refuse s 221 else modPart s part fun p => { p with intercept := on })

/-- DIE_WATCH_ENABLE (R230). -/
def execDieWatchEnable (part : Nat) (on : Bool) (s : State) : Host.Outcome State Fault Refusal :=
  .next (if (findPart s part).isNone then refuse s 230 else modPart s part fun p => { p with dieWatch := on })

/-! ### Lent clusters (R378, R379) -/

/-- Does a group stand on cluster k? -/
def onCluster (g : Group) (k : Nat) : Bool := match g.place with | some (d, c) => 16 * d + c / 4 = k | none => false

/-- The buckets of a cluster's cores become saved groups, to be placed on the partition's other clusters. -/
def saveBuckets (s : State) (k : Nat) : State :=
  (clusterCores k).foldl (fun t c =>
    (coreAt t c.1 c.2).buckets.foldl (fun u b =>
      match findLaunch u b.launch with
      | none => u
      | some l =>
        let x := cloverGroup (takeBucket u c.1 c.2 0) l b
        let v := match findWave x.1 (x.2 + 1) with | some w => waveformRecord x.1 w c.1 | none => x.1
        signalGroup v x.2) t) s

/-- Bit k of a cluster bitmap. -/
def bitOf (k : Nat) : BitVec 64 := BitVec.ofNat 64 (2 ^ k)

/-- May every group of a cluster be saved now: no tile work, and every wave between runs or waiting (R330)? -/
def clusterSaveable (s : State) (k : Nat) : Bool :=
  (s.groups.filter fun g => onCluster g k && !g.finished).all fun g =>
    saveable s g && (wavesOf s g.id).all fun w => w.finished || w.run.isNone || w.hold.isSome || w.stopped

/-- A cluster lent by its owner (R378). -/
def lend (s : State) (lender borrower k : Nat) : Option State :=
  match findPart s lender, findPart s borrower with
  | some p, some b =>
    if 64 ≤ k || lender = borrower || !b.desc.v || !p.desc.owned.getLsbD k || !p.desc.clusters.getLsbD k then some (refuse s 378)
    else if !clusterSaveable s k then none
    else
      let gs := (s.groups.filter fun g => onCluster g k && !g.finished).map (·.id)
      let s1 := saveBuckets (gs.foldl (fun t g => signalGroup (saveGroup t g) g) s) k
      let s2 := modPart s1 lender fun y => { y with desc := { y.desc with clusters := y.desc.clusters &&& ~~~bitOf k } }
      let s3 := modPart s2 borrower fun y => { y with desc := { y.desc with clusters := y.desc.clusters ||| bitOf k } }
      some (restartCores { s3 with loans := s3.loans ++ [(k, lender, borrower)] } k)
  | _, _ => some (refuse s 378)

/-- CLUSTER_LEND (R378). -/
def execClusterLend (lender borrower cluster : Nat) (s : State) : Host.Outcome State Fault Refusal :=
  served (.clusterLend lender borrower cluster) (lend s lender borrower cluster) s

/-- A lent cluster reclaimed (R379), once a mark that the borrower is taking has committed. -/
def reclaim (s : State) (lender k : Nat) : Option State :=
  match s.loans.find? fun x => x.1 = k && x.2.1 = lender with
  | none => some (refuse s 379)
  | some (_, _, b) =>
    match findPart s b with
    | none => some (refuse s 379)
    | some p =>
      if !p.committed then none
      else
        let stood : List Nat := match committedImage s p with
          | some i => (i.groups.filter fun g => onCluster g k).map (·.id)
          | none => []
        let s1 := saveBuckets (rollback s b) k
        let s2 := stood.foldl (fun t n => modGroup t n fun x => { x with raised := true }) s1
        let s3 := modPart s2 b fun y => { y with desc := { y.desc with clusters := y.desc.clusters &&& ~~~bitOf k } }
        let s4 := modPart s3 lender fun y => { y with desc := { y.desc with clusters := y.desc.clusters ||| bitOf k } }
        some (restartCores { s4 with loans := s4.loans.filter fun x => x.1 ≠ k } k)

/-- CLUSTER_RECLAIM (R379). -/
def execClusterReclaim (lender cluster : Nat) (s : State) : Host.Outcome State Fault Refusal :=
  served (.clusterReclaim lender cluster) (reclaim s lender cluster) s

/-! ### The order of requests (R411) -/

/-- A request that may have to wait, performed; none while it must. -/
def attempt (s : State) (i : Instr) : Option State :=
  match i with
  | .pageShootdown part ia leaf => shootdown s part ia.toNat leaf.level leaf.entry
  | .rangeRegisterWrite part k r => writeRangeReg s part k r
  | .windowAssignment k owner exports => assignWindow s k owner exports
  | .queueDescriptorWrite q r => writeQueue s q r
  | .tenantTableWrite t r => writeTenant s t r
  | .tenantRemove t => removeTenant s t
  | .remoteTableWrite t k r => writeRemote s t k r
  | .partitionDescriptorWrite part r => writePart s part r
  | .clusterLend lender borrower k => lend s lender borrower k
  | .clusterReclaim lender k => reclaim s lender k
  | _ => some s

/-- Is a row a request that Sweolo serves in the order of arrival? -/
def isRequest (i : Instr) : Bool :=
  match i with
  | .pageShootdown .. | .pagerFrameWrite .. | .rangeRegisterWrite .. | .windowAssignment .. | .queueDescriptorWrite ..
  | .tenantTableWrite .. | .tenantRemove .. | .remoteTableWrite .. | .quotaWrite .. | .partitionDescriptorWrite ..
  | .debugInterceptSet .. | .dieWatchEnable .. | .clusterLend .. | .clusterReclaim .. | .sweoloStopRequest .. | .clusterResume ..
  | .sweoloStep .. | .waveDump .. | .traceSessionOpen .. | .traceSessionClose .. | .treeSnapshot .. | .clockLock ..
  | .clockRelease .. | .powerLimitSet .. | .imageUpdate .. | .fenceLift .. => true
  | _ => false

/-- The oldest pending request, once it can be performed. -/
def pendingRequest (s : State) : Option Instr :=
  match s.sweolo.pending with
  | i :: _ => if (attempt s i).isSome then some i else none
  | [] => none

/-- A row taken as the next event: a pending request leaves those that wait. -/
def takeRequest (s : State) (i : Instr) : State :=
  if pendingRequest s = some i then { s with sweolo := { s.sweolo with pending := s.sweolo.pending.drop 1 } } else s

end Sys2Proof.Machine
end

