-- ==== Sys2Proof/Machine/Debugger.lean ====
section
/-! DEFINITION. The debugger and the profiler: stops, skids and resumption (R393 to R398), single steps and dumps (R397),
trace sessions (R388), samples and tree snapshots (R392, R399), clock locks (R400, R401). -/
namespace Sys2Proof.Machine

/-! ### Stops -/

/-- The partition in which a cluster's groups run (R376). -/
def clusterPart (s : State) (die cluster : Nat) : Option Nat :=
  (s.parts.find? fun p => p.desc.v && p.desc.clusters.getLsbD (16 * die + cluster)).map (·.n)

/-- Does a wave stand on a cluster? -/
def waveOn (w : Wave) (die cluster : Nat) : Bool := match w.place with | some p => p.die = die && p.core / 4 = cluster | none => false

/-- A wave stopped where it stands; a run in progress is cut and gives up its slot (R394). A handler runs on. -/
def haltWave (w : Wave) : Wave :=
  if w.h then { w with stopped := true }
  else { w with stopped := true, issue := none, run := w.run.map fun r => { r with cut := r.cut || w.issue.isSome } }

/-- Where a wave issues next. -/
def nextPc (w : Wave) : Pc :=
  match w.run with
  | some r => r.pc
  | none => match issueAddress w with | some (p, _) => p | none => 0

/-- The SKID record of a wave (R390, R396). COUNT starts after the instruction that hit: where that one traps, and does not retire,
the count is 0. -/
def skidRecord (s : State) (part : Nat) (k : Skid) : State :=
  match findWave s k.wave with
  | none => s
  | some w =>
    let count := w.counters.retired.toNat - k.retired.toNat
    let body := fld count 0 6 + fld (w.run.any (·.cut)).toNat 6 1
      + fld (match k.first with | some p => p.toNat | none => 0) 64 48 + fld (nextPc w).toNat 128 48
    emit s part (waveRec s w 0x04 0 (recordMask w) (nextPc w) body)

/-- The STOP record of a stop (R390): its header names the thread that caused it. -/
def stopRecord (q : StopReq) (brk : Bool) : TraceRec :=
  { typ := 0x03, size := 0, spn := q.spn, ix := false, brk := brk, launch := q.launch, name := q.name, lmask := q.lanes, pc := q.pc
    place := none, body := stopBody q.cause q.die q.cluster }

/-- The twelve classes of a core's issue-slot tree, free values (R228, log 3), held while its cluster is stopped (R399). -/
def freezeTree (s : State) (die cluster : Nat) : State :=
  (List.range 4).foldl (fun t j =>
    let n := t.free
    modCore { t with free := n + 12 } die (4 * cluster + j) fun c => { c with tree := some ((List.range 12).map fun k => Config.freeCount (n + k)) }) s

/-- The trees of a cluster count again once it is resumed. -/
def thawTree (s : State) (die cluster : Nat) : State :=
  { s with cores := s.cores.map fun c => if c.die = die && c.core / 4 = cluster then { c with tree := none } else c }

/-- A stop takes effect (R394, R396): the STOP record, the waves stopped, and a SKID record for each that ran a run. -/
def stopCluster (s : State) (q : StopReq) : State :=
  let part := (clusterPart s q.die q.cluster).getD 64
  let s1 := emit s part (stopRecord q (dieAt s q.die).broken)
  let s2 : State :=
    { s1 with
      stopped := s1.stopped ++ [(q.die, q.cluster)], stops := s1.stops.erase q
      waves := s1.waves.map fun w => if waveOn w q.die q.cluster && !w.finished then haltWave w else w
      cur := s1.cur.bind fun c => if s1.waves.any (fun w => w.id = c && waveOn w q.die q.cluster && !w.h) then none else some c }
  q.skids.foldl (fun t k => skidRecord t part k) (freezeTree s2 q.die q.cluster)

/-- CLUSTER_STOP (R394): request n takes effect. -/
def execClusterStop (n : Nat) (s : State) : Host.Outcome State Fault Refusal :=
  .next (match s.stops[n]? with
    | some q => stopCluster s q
    | none => s)

/-- Is a cluster stopped, or about to stop? -/
def stopping (s : State) (die cluster : Nat) : Bool :=
  s.stopped.contains (die, cluster) || s.stops.any fun q => q.die = die && q.cluster = cluster

/-- SWEOLO_STOP_REQUEST (R390): a stop of cause 2. -/
def execSweoloStopRequest (die cluster : Nat) (s : State) : Host.Outcome State Fault Refusal :=
  .next (if stopping s die cluster then s
    else { s with stops := s.stops ++ [⟨2, die, cluster, 0, 0, false, 0, 0, skidsOf s die cluster none⟩] })

/-- CLUSTER_RESUME (R397): the stop is lifted, for waves stopped by BKPT too. -/
def execClusterResume (die cluster : Nat) (s : State) : Host.Outcome State Fault Refusal :=
  .next { thawTree s die cluster with
    stopped := s.stopped.filter (· ≠ (die, cluster))
    waves := s.waves.map fun w => if waveOn w die cluster then { w with stopped := false, intercepted := false } else w }

/-- A stopped wave issues one instruction for Sweolo; one that only waits has no effect, and the record says so (R397). -/
def stepForSweolo (s : State) (wid : Nat) : State :=
  match findWave s wid with
  | none => s
  | some w =>
    if !w.stopped || (w.h && !w.intercepted) || w.finished || w.stepping.isSome then refuse s 397
    else if canStep w then beginStep s w none
    else idleStep s w

/-- SWEOLO_STEP (R397). -/
def execSweoloStep (wave : Nat) (s : State) : Host.Outcome State Fault Refusal := .next (stepForSweolo s wave)

/-- A wave as it is dumped: its saved state of R39, as if its scout had ended (R40), without physical coordinates (R386). -/
def dumpOf (s : State) (wid : Nat) : Option Wave :=
  let plain (c : Command) : Command := { c with die := 0, core := 0 }
  (findWave (endScout s wid) wid).map fun w =>
    { w with place := none
             queues := Vector.ofFn fun k =>
               let q := w.queues.get k
               { q with part := q.part.map plain, cmds := q.cmds.map plain } }

/-- WAVE_DUMP (R397), with the g registers of its group (R39) and the Campion entries that the debug path reads beside it (R275). -/
def execWaveDump (wave : Nat) (s : State) : Host.Outcome State Fault Refusal :=
  .next (match dumpOf s wave with
    | some w => answer s (.dump w (match findGroup s w.group with | some g => g.g | none => Vector.replicate 16 0) (monitorsOf s wave))
    | none => refuse s 397)

/-! ### Sessions -/

/-- Sessions of partitions with clusters on a die. -/
def sessionsOn (s : State) (die : Nat) : List Session :=
  s.sessions.filter fun x => match findPart s x.part with
    | some p => bitsOf p.desc.clusters.toNat (16 * die) 16 ≠ 0
    | none => false

/-- The dies that hold a cluster of a partition. -/
def diesOf (s : State) (part : Nat) : List Nat :=
  match findPart s part with
  | some p => (List.range 4).filter fun d => bitsOf p.desc.clusters.toNat (16 * d) 16 ≠ 0
  | none => []

/-- A CLOCK record to every session with clusters on the die (R390, R400, R401). -/
def clockRecord (s : State) (die kind cause : Nat) : State :=
  let body := fld kind 0 2 + fld (dieAt s die).point.val 2 3 + fld cause 5 3 + fld die 8 2
  (sessionsOn s die).foldl (fun t x => emit t x.part (plainRec 0x0D 0 body (dieAt s die).broken)) s

/-- The session of a partition. -/
def findSession (s : State) (part : Nat) : Option Session := s.sessions.find? fun x => x.part = part

/-- A session changed. -/
def modSession (s : State) (part : Nat) (f : Session → Session) : State :=
  { s with sessions := s.sessions.map fun x => if x.part = part then f x else x }

/-- Does another session hold a lock on a die? -/
def lockedByOther (s : State) (part die : Nat) : Option (Fin 8) :=
  (s.sessions.find? fun x => x.part ≠ part && x.lock.isSome && x.locked.contains die).bind (·.lock)

/-- A session gives its lock up: on each die that it locked and no other session locks, the lock ends (R400). -/
def releaseLock (s : State) (part : Nat) : State :=
  match findSession s part with
  | none => s
  | some x =>
    let free := x.locked.filter fun d => (lockedByOther s part d).isNone && (dieAt s d).lock.isSome
    let s1 := free.foldl (fun t d => clockRecord (modDie t d fun y => { y with lock := none, broken := false }) d 3 0) s
    modSession s1 part fun y => { y with lock := none, locked := [] }

/-- The die's lock recorded, and the forced break that follows at once where a limit allows only a lower point: the limit prevails
(R400, R401, R407). -/
def lockDie (s : State) (d : Nat) (pt : Fin 8) : State :=
  let x := dieAt s d
  let s1 := clockRecord (modDie s d fun y => { y with lock := some pt, point := if y.broken then y.point else pt }) d 0 0
  if !x.broken && x.limit < pt then clockRecord (modDie s1 d fun y => { y with broken := true, point := y.limit }) d 1 x.cause else s1

/-- A session locks the dies that hold a cluster of its partition now at a point, unless another session holds one of them at
another point (R400; DESIGN CHOICE, log 91: a cluster lent or taken back later moves no lock). -/
def lockClock (s : State) (part : Nat) (pt : Fin 8) : State :=
  if (findSession s part).isNone || (diesOf s part).any fun d => match lockedByOther s part d with | some p => p ≠ pt | none => false
  then refuse s 400
  else
    let s0 := releaseLock s part
    (diesOf s part).foldl (fun t d => lockDie t d pt) (modSession s0 part fun x => { x with lock := some pt, locked := diesOf s part })

/-- CLOCK_LOCK (R400). -/
def execClockLock (part : Nat) (point : Fin 8) (s : State) : Host.Outcome State Fault Refusal := .next (lockClock s part point)

/-- CLOCK_RELEASE (R400). -/
def execClockRelease (part : Nat) (s : State) : Host.Outcome State Fault Refusal := .next (releaseLock s part)

/-! ### Limits (R401, R407 to R409) -/

/-- The code of a cause (R390). -/
def breakCode (c : BreakCause) : Nat :=
  match c with
  | .temperature => 0 | .power => 1 | .current => 2 | .sweolo => 3

/-- The temperature limit of a die (R409). -/
def dieLimit : Nat := 105

/-- Is a point within the power limit in force, the temperature limit and the supply current limits (R407, R408, R409)? -/
def withinLimits (s : State) (x : Forecast) (k : Fin 8) : Bool :=
  x.watts.get k ≤ s.sweolo.powerLimit && x.celsius.get k < dieLimit && x.current.get k

/-- The highest point within the limits; point 0 where none is (R407). -/
def highestPoint (s : State) (x : Forecast) : Fin 8 :=
  (((List.finRange 8).filter (withinLimits s x)).getLast?).getD 0

/-- Does a cause of R401 hold at a point? -/
def causeHolds (s : State) (x : Forecast) (c : BreakCause) (k : Fin 8) : Bool :=
  match c with
  | .temperature => dieLimit ≤ x.celsius.get k
  | .power => s.sweolo.powerLimit < x.watts.get k
  | .current => !x.current.get k
  | .sweolo => true

/-- CLOCK_BREAK (R401): a die on which a cause holds runs at the highest point that meets the limits; on a locked die its lock is
broken. -/
def execClockBreak (die : Nat) (cause : BreakCause) (found : Forecast) (s : State) : Host.Outcome State Fault Refusal :=
  let x := dieAt s die
  let k := highestPoint s found
  .next (if !causeHolds s found cause x.point then s
    else
      let s1 := modDie s die fun y => { y with limit := k, cause := breakCode cause, point := k, broken := x.lock.isSome }
      if x.lock.isSome then clockRecord s1 die 1 (breakCode cause) else s1)

/-- CLOCK_RESTORE (R401): no limit holds any longer, and a locked die returns to the locked point. -/
def execClockRestore (die : Nat) (s : State) : Host.Outcome State Fault Refusal :=
  let s1 := modDie s die fun x => { x with limit := 7 }
  .next (match (dieAt s die).lock with
    | some p => if (dieAt s die).broken then clockRecord (modDie s1 die fun x => { x with broken := false, point := p }) die 2 0 else s1
    | none => s1)

/-- A session opened: at most one for a partition, its buffer 1 MiB to 1 GiB in the protected region, its period 2^10 to 2^20,
for the tenant's requester or for the management job (R386, R388, R392). -/
def openSession (s : State) (part bytes : Nat) (period : Option Nat) (mgmt : Bool) : State :=
  let periodOk := match period with | some k => decide (10 ≤ k) && decide (k ≤ 20) | none => true
  if (findPart s part).isNone || (findSession s part).isSome || bytes < 2 ^ 20 || 2 ^ 30 < bytes || !periodOk then refuse s 388
  else
    let x : Session := { part := part, mgmt := mgmt, base := s.protectNext, bytes := bytes, period := period, recs := [], lost := 0
                         lock := none, locked := [], sample := [] }
    { s with sessions := s.sessions ++ [x], protectNext := s.protectNext + bytes }

/-- TRACE_SESSION_OPEN (R388). -/
def execTraceSessionOpen (part bytes : Nat) (ask : SessionAsk) (s : State) : Host.Outcome State Fault Refusal :=
  .next (openSession s part bytes ask.period ask.mgmt)

/-- TRACE_SESSION_CLOSE (R388, R400). -/
def execTraceSessionClose (part : Nat) (s : State) : Host.Outcome State Fault Refusal :=
  let s1 := releaseLock s part
  .next { s1 with sessions := s1.sessions.filter fun x => x.part ≠ part }

/-- TRACE_ACK (R388): the n oldest records are freed. -/
def execTraceAck (part n : Nat) (s : State) : Host.Outcome State Fault Refusal :=
  .next (modSession s part fun x => { x with recs := x.recs.drop n })

/-! ### Samples (R341, R392) -/

/-- Does a lane of the wave wait in a way that the test accepts, in a handler a held-aside lane too (R224)? -/
def laneParked (w : Wave) (p : ParkKind → Bool) : Bool :=
  let waits (x : LaneState) : Bool := match x with
    | .parked k => p k
    | .live | .exited => false
  laneList.any fun l => waits (laneOf w l).state || w.aside.any fun a => waits (a.states.get l)

/-- Is a parking a wait for a colour? -/
def parkMonitor (k : ParkKind) : Bool :=
  match k with
  | .monitor _ => true
  | .semaphore | .condition | .join | .barrier => false

/-- Does the next instruction of a wave wait for a result, between runs or in a run that holds its slot (R341)? -/
def nextWaits (s : State) (w : Wave) : Bool :=
  match nextRun w with
  | some r => (w.hold.isNone && wordWaits s w r) || wordAwaits s w r
  | none => false

/-- Does the append of the wave's group wait (R191, R316)? -/
def appendWaits (s : State) (w : Wave) : Bool := (findGroup s w.group).any fun g => g.appending.isSome

/-- The first reason of R341 that a candidate has; 11 for none. A wave that a due mark holds counts as stopped (R349); one with
a WATCH to take enters its handler. -/
def reasonOf (s : State) (w : Wave) : Nat :=
  if w.finished then (if appendWaits s w then 5 else 11)
  else if heldStopped w || markStops s w || (watchDue s w).isSome then 1
  else if laneParked w parkMonitor || !w.release.isEmpty || w.hold = some .monitor then 2
  else if w.drain.isSome || w.hold = some .tile then 3
  else if w.hold = some .rendezvous || atRendezvous s w then 4
  else if w.hold = some .engineQueue || (allExited w && hasCommands w) then 5
  else if w.claim.isSome then 6
  else if w.hold = some .operand || w.hold = some .fence || codeWaits s w || w.hold = some .commit || nextWaits s w then 7
  else if w.hold = some .latch then 8
  else if laneParked w (fun k => !parkMonitor k) then 10
  else 11

/-- The class of an issue slot, and the wave it names (R341, R392). -/
def slotClass (s : State) (die core slot : Nat) : Nat × Option Wave :=
  let quad := slot / 2
  match slotWave s die core quad (slot % 2) with
  | some w => if w.hold.isNone then (0, none) else (reasonOf s w, some w)
  | none =>
    let ending := (s.groups.filter fun g => g.appending.isSome && g.place = some (die, core)).filterMap fun g => lastWave s g.id
    let cs := ((quadWaves s die core quad).filter fun w => !w.finished && w.issue.isNone)
      ++ ending.filter fun w => quadOf w.index.toNat = quad
    match minBy (reasonOf s) cs with
    | some w => (reasonOf s w, some w)
    | none => (11, none)

/-- The SAMPLE record of a slot (R390). -/
def sampleRecord (s : State) (die core slot : Nat) : TraceRec :=
  let (k, w) := slotClass s die core slot
  let body := fld k 0 4 + fld (slot % 2) 4 1
  match w with
  | some v => waveRec s v 0x08 0 (recordMask v) (nextPc v) body
  | none => plainRec 0x08 0 body (dieAt s die).broken

/-- A core samples its next slot for the session that asked for it (R392). -/
def sampleCore (s : State) (die core : Nat) : State :=
  (s.sessions.filter fun x => x.period.isSome && match findPart s x.part with
    | some p => p.desc.clusters.getLsbD (16 * die + core / 4)
    | none => false).foldl (fun t x =>
      let k := match x.sample.find? fun y => y.1 = die && y.2.1 = core with | some y => y.2.2 | none => 0
      modSession (emit t x.part (sampleRecord s die core k)) x.part fun y =>
        { y with sample := putBy (fun z => z.1 = die && z.2.1 = core) (die, core, (k + 1) % 8) y.sample }) s

/-- SAMPLE (R392). -/
def execSample (die core : Nat) (s : State) : Host.Outcome State Fault Refusal := .next (sampleCore s die core)

/-- The twelve classes of a core's tree: free values while it runs (log 3); while its cluster is stopped those of the stop, with
fault pending, the class of reason 1, gone on (R399). -/
def treeCounts (s : State) (die core : Nat) : List Nat :=
  match (coreAt s die core).tree with
  | some xs => (List.range 12).map fun k =>
      if k = 1 then (nthD xs 1 0).toNat + (Config.freeCount s.free).toNat else (nthD xs k 0).toNat
  | none => (List.range 12).map fun k => (Config.freeCount (s.free + k)).toNat

/-- A tree snapshot: the twelve classes and their exact sum (R399). -/
def snapshotTree (s : State) (part die core : Nat) : State :=
  if (findSession s part).isNone then refuse s 399
  else
    let xs := treeCounts s die core
    let body := fld core 0 6 + fld die 6 2 + fld xs.sum 192 64 + ((List.range 12).map fun k => fld (nthD xs k 0) (256 + 64 * k) 64).sum
    let r := { plainRec 0x0E 2 body (dieAt s die).broken with place := some (die, core, 0, 0) }
    emit { s with free := s.free + 12 } part r

/-- TREE_SNAPSHOT (R399). -/
def execTreeSnapshot (part die core : Nat) (s : State) : Host.Outcome State Fault Refusal := .next (snapshotTree s part die core)

end Sys2Proof.Machine
end

