-- ==== Sys2Proof/Machine/Fabric.lean ====
section
/-! DEFINITION. Writes and atomics on their way: leaving a die with a stamp, taking their place at the home, applied at
every die, acknowledged (R144, R257, R262, R263); atomics at their banks (R94, R170); replicas (R301). -/
namespace Sys2Proof.Machine

/-- Must a flight wait for an earlier one of its die to its line: one its core issued before, or an atomic that the
replica executed before (R143)? -/
def queuedBehind (s : State) (f : Flight) : Bool :=
  s.flights.any fun g => g.die = f.die && g.ia / 64 = f.ia / 64 && g.id ≠ f.id && g.left.isNone && g.performed.isNone
    && ((g.core = f.core && decide (g.issued < f.issued)) || (g.atReplica && f.atReplica && decide (g.id < f.id)))

/-- A write to a remote home leaves its die: it takes the next value of the die's own entry, carries the die's clock, and
is announced (R263). -/
def leaveDie (s : State) (f : Flight) : State :=
  let c := clockSet (clockOf s f.die) f.die (clockAt (clockOf s f.die) f.die + 1)
  modFlight (modDie s f.die fun d => { d with clock := c }) f.id fun g => { g with left := some (f.die, c), todo := List.range 4 }

/-- The home die counts a write that came from another die (R263). -/
def countHome (s : State) (f : Flight) : State :=
  match f.left with
  | some (o, st) =>
    let h := homeDie f.ia
    modFlight (modDie s h fun d => { d with clock := clockSet d.clock o (clockAt st o) }) f.id
      fun g => { g with todo := g.todo.filter (· ≠ h) }
  | none => s

/-- What a write writes at its home (R257, R271, R273). -/
def writeHome (s : State) (f : Flight) : State :=
  match f.kind with
  | .store bs => if bs.isEmpty then s else homeTouch (homeWrite s f.launch f.ia bs) f.part (f.ia / 64) true
  | .colour c => homeMeta s f.part f.launch f.ia fun m => metaColour m c
  | .key k => homeMeta s f.part f.launch f.ia fun m => metaKey m k
  | .atom .. => s

/-- Is a flight at the point where its home may perform it: it has left, and its predecessors are counted there, or it
was made on the home die (R263)? -/
def homeMay (s : State) (f : Flight) : Bool :=
  f.performed.isNone && match f.left with
    | some (o, st) => countsBefore (clockOf s (homeDie f.ia)) o st
    | none => f.die = homeDie f.ia && !queuedBehind s f

/-- Has a flight still to leave its die, and may it? -/
def mayLeave (s : State) (f : Flight) : Bool := f.left.isNone && f.performed.isNone && f.die ≠ homeDie f.ia && !queuedBehind s f

/-- A write performed at its home, in its place in the order of writes. -/
def performHome (s : State) (f : Flight) : State :=
  let s1 := countHome (writeHome s f) f
  dropFlights (announce s1 ((findFlight s1 f.id).getD f))

/-- A thread's write meets the watch slots as it is performed at its home (R166, R393). -/
def watchWrite (s : State) (f : Flight) : State :=
  if writeLength f = 0 then s else watchAccess s (flightAccess f (writeLength f))

/-- Is a flight a plain write? -/
def isWrite (f : Flight) : Bool :=
  match f.kind with
  | .store _ | .colour _ | .key _ => true
  | .atom .. => false

/-- WRITE_PERFORM_HOME: a write leaves its die, and then takes its place at its home (R257, R263). -/
def performWrite (s : State) (n : Nat) : State :=
  match findFlight s n with
  | none => s
  | some f =>
    if !isWrite f then s
    else if mayLeave s f then leaveDie s f
    else if homeMay s f then watchWrite (performHome s f) f
    else s

/-- WRITE_PERFORM_HOME (R257). -/
def execWritePerformHome (n : Nat) (s : State) : Host.Outcome State Fault Refusal := .next (performWrite s n)

/-! ### Applying (R262, R263) -/

/-- WRITE_APPLY (R263). -/
def execWriteApply (n die : Nat) (s : State) : Host.Outcome State Fault Refusal := .next (applyWrite s n die)

/-! ### Acknowledgement (R144, R257) -/

/-- Has a write been performed, and applied at its die when that holds a replica? -/
def ackMay (s : State) (f : Flight) : Bool :=
  f.performed.isSome && !f.acked && !(f.todo.contains f.die && (replicaOf s f.die (f.ia / 64)).isSome)

/-- The store count of a wave falls; what waited for it goes on (R187, R343). -/
def storeDone (s : State) (wid : Nat) : State :=
  tryFinish (flushJoins (modWave s wid fun w => { w with stores := w.stores - 1 }) wid) wid

/-- A write acknowledged. -/
def ackWrite (s : State) (n : Nat) : State :=
  match findFlight s n with
  | none => s
  | some f =>
    if ackMay s f then
      let s1 := dropFlights (modFlight s n fun g => { g with acked := true })
      if f.counted then storeDone s1 f.wave else s1
    else s

/-- STORE_ACK (R144). -/
def execStoreAck (n : Nat) (s : State) : Host.Outcome State Fault Refusal := .next (ackWrite s n)

/-! ### Replicas (R301) -/

/-- A line with the results of the die's atomics that its home has still to order: they were executed at the die's bank, and
every later one there finds them (R170). -/
def pendingAtomics (s : State) (die line : Nat) (x : L1Line) : L1Line :=
  s.flights.foldl (fun acc f => if f.atReplica && f.die = die && f.performed.isNone then lineWith line acc f else acc) x

/-- A die installs a replica of a line as its home holds it, with the home die's clock; the line is charged to the tenant that
fills it (R302), and the home's superblock, which the fill allocates where it is missing, gets the die's sharer bit (R300,
R301). -/
def installReplica (s : State) (die line tenant : Nat) : State :=
  let h := homeDie (64 * line)
  let x : L1Line := pendingAtomics s die line { homeLine s line with clock := clockOf s h }
  let s1 := if (llcLine s h line).isSome then s else llcPut s h line tenant ⟨tenant, false, none⟩
  setSharer (llcPut s1 die line tenant ⟨tenant, false, some x⟩) line die true

/-- A requested replica arrives (R301). -/
def fillReplica (s : State) (die line : Nat) : State :=
  match s.fills.find? fun x => x.1 = die && x.2.1 = line with
  | none => s
  | some x =>
    if clockCounts (clockOf s die) (clockOf s (homeDie (64 * line))) then
      let s1 := { s with fills := s.fills.erase x }
      if (replicaOf s die line).isSome || (physOf s (64 * line)).isNone then s1 else installReplica s1 die line (tenantOf s x.2.2)
    else s

/-- REPLICA_FILL (R301). -/
def execReplicaFill (die line : Nat) (s : State) : Host.Outcome State Fault Refusal := .next (fillReplica s die line)

/-! ### Atomics at their banks (R170) -/

/-- Does the scope choose the issuing die's bank, and is the home on another die? -/
def atReplicaOf (f : Flight) (sc : Scope) : Bool :=
  homeDie f.ia ≠ f.die && match sc with
    | .thread | .wave | .group | .clus | .die => true
    | .dev | .sys => false

/-- The values that the lanes of an ATOM are given, with the clock that comes with them (R94, R263). -/
def giveOld (s : State) (f : Flight) (n : Nat) (olds : List (Lane × Nat)) (c : Clock) : State :=
  modWave s f.wave fun w =>
    { w with pend := w.pend.map fun p =>
        if p.flight = some f.id then
          { p with flight := none, clock := c
                   vals := Lanes.of fun l => BitVec.ofNat 128 (((olds.find? fun x => x.1 = l).map (·.2)).getD 0 % 2 ^ (8 * n)) }
        else p }

/-- The watch slots that an atomic meets, lane by lane (R230). -/
def watchAtom (s : State) (f : Flight) (n bank : Nat) (lanes : List (Lane × DWord × DWord)) : State :=
  lanes.foldl (fun t x => watchAccess t
    { wave := f.wave, lane := x.1, pc := f.pc, exec := f.exec, kind := 2, eng := none, ptr := f.ptr, len := n, die := f.die
      core := f.core, bank := some bank, abuf := none, byHandler := f.byHandler }) s

/-- An atomic at its home bank: it takes its place as a write does, and is acknowledged as one (R144, R257). -/
def atomHome (s : State) (f : Flight) (op : AtOp) (lanes : List (Lane × DWord × DWord)) : State :=
  let n := atBytes op
  let h := homeDie f.ia
  let (new, olds) := atCombine op (homeRead s f.ia n) lanes
  let g : Flight := { f with kind := .store (bytesOf new n) }
  let s1 := performHome (modFlight s f.id fun _ => g) g
  watchAtom (giveOld s1 f n olds (clockOf s1 h)) f n h lanes

/-- The lookups of an atomic that executes at its die's replica: in the die's bank, and, for a replica that is fetched first, in
the home's (R228, R300); the replica it then finds there (R170). -/
def reachReplica (s : State) (f : Flight) : State :=
  let line := f.ia / 64
  let t := tenantOf s f.part
  let s1 := llcTouch s f.part t f.die line true
  if (replicaOf s1 f.die line).isSome then s1 else installReplica (homeTouch s1 f.part line false) f.die line t

/-- An atomic at the replica of its die, which is fetched first where there is none; its result goes to the home as a write of
its own, acknowledged as one (R144, R257). -/
def atomReplica (s0 : State) (f : Flight) (op : AtOp) (lanes : List (Lane × DWord × DWord)) : State :=
  let n := atBytes op
  let line := f.ia / 64
  let s := reachReplica s0 f
  let old := match replicaOf s f.die line with | some x => lineGet x (f.ia % 64) n | none => 0
  let (new, olds) := atCombine op old lanes
  let s1 := replicaUpdate s f.die line fun x => linePut x (f.ia % 64) (bytesOf new n)
  let s2 := modFlight { s1 with fresh := s1.fresh + 1 } f.id fun g =>
    { g with id := s1.fresh, kind := .store (bytesOf new n), atReplica := true }
  watchAtom (giveOld s2 f n olds Clock.zero) f n f.die lanes

/-- Does the replica show every earlier store of the core to the line (R143)? -/
def replicaCurrent (s : State) (f : Flight) : Bool :=
  !(s.flights.any fun g => g.die = f.die && g.core = f.core && g.ia / 64 = f.ia / 64 && g.issued < f.issued
    && !g.atReplica && (g.performed.isNone || g.todo.contains f.die))

/-- May an atomic execute at its replica: there is one, or it can be fetched now (R170, R263)? -/
def replicaMay (s : State) (f : Flight) : Bool :=
  replicaCurrent s f && ((replicaOf s f.die (f.ia / 64)).isSome || clockCounts (clockOf s f.die) (clockOf s (homeDie f.ia)))

/-- Is the line that an atomic would read poisoned: the die's copy where it executes there, else the home's (R355, R356)? -/
def atomPoisoned (s : State) (f : Flight) (op : AtOp) (sc : Scope) : Bool :=
  !s.poisonMem.isEmpty && match (if atReplicaOf f sc then replicaOf s f.die (f.ia / 64) else none) with
    | some x => x.poison
    | none => memPoisoned s f.ia (atBytes op)

/-- The launch of an atomic consumes an error in its lowest lane (R356); the atomic does nothing, and one that has left its
die is still counted (R263). -/
def consumeAtom (s : State) (f : Flight) : State :=
  let s1 := hollowFlights s fun g => g.id = f.id
  match findWave s f.wave with
  | some w => consumeError s1 f.launch (nameOf w f.lane) w.spn .memory
  | none => consumeError s1 f.launch 0 false .memory

/-- An atomic reaches its bank: a device-scope one for a remote home leaves its die first (R170, R263). -/
def atomBank (s : State) (n : Nat) : State :=
  match findFlight s n with
  | none => s
  | some f =>
    match f.kind with
    | .store _ | .colour _ | .key _ => s
    | .atom op sc lanes _ =>
      if atomPoisoned s f op sc then consumeAtom s f
      else if atReplicaOf f sc then (if replicaMay s f then atomReplica s f op lanes else s)
      else if mayLeave s f then leaveDie s f
      else if homeMay s f then atomHome s f op lanes
      else s

/-- ATOMIC_AT_BANK (R170). -/
def execAtomicAtBank (n : Nat) (s : State) : Host.Outcome State Fault Refusal := .next (atomBank s n)

end Sys2Proof.Machine
end

