-- ==== Sys2Proof/Machine/Commands.lean ====
section
/-! DEFINITION. Engine commands as data (R215, R216, R218): the ranges they register, and the checks of a side. -/
namespace Sys2Proof.Machine

/-- The A-buffer range that a command registers: the region of its A tile, as a destination unless it is stored. -/
def abufSide (g : Group) (c : Command) : Option (Nat × Nat × Bool) :=
  if c.op = 2 || c.op = 4 || c.op = 0x10 then
    (c.tileNo.bind (findTile g)).map fun t => (tdBase t.desc, tdBytes t.desc, c.op ≠ 4)
  else none

/-- The granules of a range (R216). -/
def lockOf (cmd part : Nat) (x : Side) : RangeLock :=
  { cmd := cmd, dest := x.dest, part := part, abuf := none, lo := pointerBits x.ptr / 64 * 64
    hi := (pointerBits x.ptr + x.n + 63) / 64 * 64 - 1 }

/-- The entries of a command. -/
def locksOf (g : Group) (cmd : Nat) (c : Command) : List RangeLock :=
  (sidesOf g c).map (lockOf cmd g.part) ++ match abufSide g c with
    | some (lo, n, d) => [{ cmd := cmd, dest := d, part := g.part, abuf := some g.id, lo := lo, hi := lo + n - 1 }]
    | none => []

/-- Do two entries concern the same bytes, one of them as a destination? -/
def locksClash (a b : RangeLock) : Bool :=
  (a.dest || b.dest) && a.abuf = b.abuf && (a.abuf.isSome || a.part = b.part) && a.lo ≤ b.hi && b.lo ≤ a.hi

/-- Entries of a die's range-lock table in use: global ranges, and the A-buffer ranges of its own cores. The region that a CDRAIN
in progress registers (R200) takes none of them, and a CDRAIN waits for no range that overlaps it: R216 gives entries and the
wait to commands, and the spec does not say what a CDRAIN's range does there (DESIGN CHOICE, log 83). -/
def tableUse (s : State) (die : Nat) (xs : List RangeLock) : Nat :=
  (xs.filter fun r => match r.abuf with
    | none => true
    | some n => match findGroup s n with
      | some g => g.place.any fun p => p.1 = die
      | none => false).length

/-- May all entries of a command be registered (R216, step 4; R200 for a CDRAIN in progress)? -/
def locksMay (s : State) (xs : List RangeLock) : Bool :=
  (xs.all fun x => s.ranges.all fun r => !locksClash x r)
    && (xs.all fun x => match x.abuf with | some n => !drainCovers s n x.lo (x.hi + 1 - x.lo) | none => true)
    && (List.range 4).all fun d => tableUse s d xs = 0 || tableUse s d (s.ranges ++ xs) ≤ Config.rangeEntries

/-! ### The checks of a side (R216, step 5) -/

/-- The status of a piece: 9 PERM, 8 TAG, 2 COLOUR, 4 NONRES, 5 TIMEOUT, or none (R217), with its place in the order of the
checks. -/
def pieceStatus (s : State) (w : Wave) (l : Lane) (a : DWord) (n : Nat) (dest : Bool) : Option (Nat × Nat) :=
  match locate s w.part a with
  | none => some (0, 9)
  | some p =>
    let m := match p.page with | some _ => homeMetaOf s p.ia | none => 0
    if !((if dest then p.wp else p.rp) && spotFits p n) then some (0, 9)
    else if dest && (match p.remote with | some e => s.fences.contains (.peer (tenantOf s w.part) e.endpoint) | none => false) then some (1, 5)
    else if pointerKey a ≠ keyOf m then some (2, 8)
    else if colourOf m ≠ 0 && !holds (laneOf w l) (colourOf m) then some (3, 2)
    else if !p.res then some (4, 4)
    else none

/-- The status of a side and the address that fails, none when every granule passes. -/
def sideStatus (s : State) (w : Wave) (l : Lane) (x : Side) : Option (Nat × DWord) :=
  (minBy (fun y => y.1.1) ((piecesOf x.ptr x.n).filterMap fun q => (pieceStatus s w l q.1 q.2.2 x.dest).map fun y => (y, q.1))).map
    fun y => (y.1.2, y.2)

/-- The first coloured granule of a side whose colour the issuing thread does not hold, whatever else the side fails (R216, R284). -/
def sideColour (s : State) (w : Wave) (l : Lane) (x : Side) : Option (Nat × DWord) :=
  (piecesOf x.ptr x.n).findSome? fun q => match locate s w.part q.1 with
    | some p =>
      let c := colourOf (homeMetaOf s p.ia)
      if p.page.isSome && c ≠ 0 && !holds (laneOf w l) c then some (2, q.1) else none
    | none => none

/-- Would the check of a side read a poisoned metadata word (R355, R356)? -/
def sideMetaStruck (s : State) (w : Wave) (x : Side) : Bool :=
  !s.poisonMeta.isEmpty && (piecesOf x.ptr x.n).any fun q => match locate s w.part q.1 with
    | some p => p.page.isSome && (if x.dest then p.wp else p.rp) && (homeLine s (p.ia / 64)).poisonMeta
    | none => false

/-- Is data that an engine on a die would read poisoned (R355, R356)? -/
def sideDataStruck (s : State) (w : Wave) (die : Nat) (x : Side) : Bool :=
  !(s.poisonMem.isEmpty && s.llc.isEmpty) && (piecesOf x.ptr x.n).any fun q => match locate s w.part q.1 with
    | some p => p.page.isSome && (dieLine s die Config.cores (p.ia / 64)).poison
    | none => false

/-- The ranges whose data a command reads: the rows of a COPY, the destinations of an RSTORE beside its source (R218). -/
def readSides (g : Group) (c : Command) : List Side :=
  if c.op = 1 then
    (List.range (c.w 6)).map fun n => ⟨c.at2 1 + BitVec.ofNat 64 (n * 64 * bitsOf (c.w 7) 0 16), c.w 5, false⟩
  else (sidesOf g c).filter fun x => !x.dest || c.op = 0x21

/-- The uncorrectable error that a command with these sides and reads would consume (R356). -/
def struckIn (s : State) (w : Wave) (die : Nat) (sides reads : List Side) : Option Struck :=
  if sides.any (sideMetaStruck s w) then some .metadata
  else if reads.any (sideDataStruck s w die) then some .memory else none

/-! ### What a command touches -/

/-- Bytes of a range as an engine on a die reads them; none where the range leaves device memory. -/
def rangeBytes (s : State) (part die : Nat) (a : DWord) (n : Nat) : Option (List Byte) :=
  (piecesOf a n).foldl (fun acc q => match acc, locate s part q.1 with
    | some bs, some p => if p.page.isSome then some (bs ++ bytesOf (lineGet (dieLine s die Config.cores (p.ia / 64)) (p.ia % 64) q.2.2) q.2.2) else none
    | _, _ => none) (some [])

/-- The table row of a GATHER that an index word selects. -/
def gatherRow (c : Command) (i : Nat) : DWord := c.at2 1 + BitVec.ofNat 64 (i * bitsOf (c.w 5) 0 16)

/-- The index words of a GATHER. -/
def indexWords (n : Nat) (bs : List Byte) : List Nat := (List.range n).map fun k => natOfBytes ((bs.drop (4 * k)).take 4)

/-- The table rows that index words select, as sources. -/
def rowSides (c : Command) (ix : List Nat) : List Side :=
  (ix.filter (· ≠ 0xFFFFFFFF)).map fun i => ⟨gatherRow c i, bitsOf (c.w 5) 0 16, false⟩

/-- Does a side have a granule of a colour? -/
def sideHas (s : State) (part : Nat) (k : BitVec 6) (x : Side) : Bool :=
  (piecesOf x.ptr x.n).any fun q => match locate s part q.1 with
    | some p => p.page.isSome && colourOf (homeMetaOf s p.ia) = k
    | none => false

/-- Does a command touch a granule of a colour (R282, R284)? The rows that a GATHER reads are touched too; where its index
words do not lie in device memory the model takes every colour as touched until the command completes (log 76). -/
def commandTouches (s : State) (w : Wave) (g : Group) (c : Command) (k : BitVec 6) : Bool :=
  (sidesOf g c).any (sideHas s w.part k) || (c.op = 0x10 &&
    match rangeBytes s w.part c.die (c.at2 3) (4 * bitsOf (c.w 5) 16 16) with
    | some bs => (rowSides c (indexWords (bitsOf (c.w 5) 16 16) bs)).any (sideHas s w.part k)
    | none => true)

end Sys2Proof.Machine
end

