-- ==== Sys2Proof/Machine/Engines.lean ====
section
/-! DEFINITION. The engines (R216 to R218): a command accepted, its ranges registered and checked, its data moved; its
completion (R213, R217); and the probe token of a blocked push (R339). -/
namespace Sys2Proof.Machine

/-- An engine at work on a command. -/
structure Eng1 where
  w : Wave
  g : Group
  q : Fin 8
  c : Command

/-- An engine's access meets the watch slots under its issuing thread (R215, R230, R231). -/
def engineWatch (s : State) (x : Eng1) (kind : Nat) (a : DWord) (n : Nat) (bank : Option Nat) : State :=
  watchAccess s { wave := x.w.id, lane := x.c.lane, pc := x.c.pc, exec := Mask.of (· = x.c.lane), kind := kind
                  eng := some (BitVec.ofNat 8 x.c.op, BitVec.ofNat 8 x.c.tag, x.c.pc), ptr := a, len := n, die := x.c.die
                  core := x.c.core, bank := bank, abuf := none, byHandler := x.c.byHandler }

/-- Bytes of one piece as the engine reads them at its die (R262, R300). -/
def readPiece (s : State) (x : Eng1) (q : DWord × Nat × Nat) : List Byte × State :=
  match locate s x.w.part q.1 with
  | none => ([], s)
  | some p =>
    match p.remote with
    | some e => ((List.range q.2.2).map fun k => remoteByte s x.w.part e.endpoint (remoteAddr e p.ia + k) (s.free + k), { s with free := s.free + q.2.2 })
    | none =>
      (bytesOf (lineGet (dieLine s x.c.die Config.cores (p.ia / 64)) (p.ia % 64) q.2.2) q.2.2,
        bankLine (markAccessed s p.ia false) x.w.part x.c.die (p.ia / 64))

/-- n bytes read by the engine. -/
def engineRead (s : State) (x : Eng1) (a : DWord) (n : Nat) : List Byte × State :=
  let start : List Byte × State := ([], s)
  let r := (piecesOf a n).foldl (fun (acc : List Byte × State) q => let y := readPiece acc.2 x q; (acc.1 ++ y.1, y.2)) start
  (r.1, engineWatch r.2 x 0 a n none)

/-- Bytes of one line written by an engine: performed at the home, in the order of the writes of the engine's die, and applied at
once to a replica that die holds, as its acknowledgement asks (R257); the other dies follow (R263). -/
def writeLine (s : State) (x : Eng1) (a : DWord) (ia : Nat) (bs : List Byte) : State :=
  let s1 := homeTouch (homeWrite (markAccessed s ia true) x.w.launch ia bs) x.w.part (ia / 64) true
  let s2 := placeWrite s1 x.c.die
    { id := s1.fresh, wave := x.w.id, launch := x.w.launch, part := x.w.part, die := x.c.die, core := Config.cores
      lane := x.c.lane, pc := x.c.pc, exec := 0, ptr := a, byHandler := x.c.byHandler, ia := ia, kind := .store bs, counted := false
      left := none, performed := none, acked := true, todo := [], issued := s1.fresh, atReplica := false }
  if (replicaOf s2 x.c.die (ia / 64)).isSome then catchUp s2 x.c.die else s2

/-- One piece written: to device memory, or as a send of the issuing thread (R159, R360). -/
def writePiece (s : State) (x : Eng1) (bs : List Byte) (q : DWord × Nat × Nat) : State :=
  match locate s x.w.part q.1 with
  | none => s
  | some p =>
    match p.remote with
    | some e => holdSend s x.w.id x.c.lane e p.ia ((bs.drop q.2.1).take q.2.2)
    | none => writeLine s x q.1 p.ia ((bs.drop q.2.1).take q.2.2)

/-- Bytes written by the engine. -/
def engineWrite (s : State) (x : Eng1) (a : DWord) (bs : List Byte) : State :=
  let s1 := match wholeRemote s x.w.part a bs.length with
    | some (e, ia) => holdSend s x.w.id x.c.lane e ia bs
    | none => (piecesOf a bs.length).foldl (fun t q => writePiece t x bs q) s
  engineWatch s1 x 1 a bs.length none

/-! ### What the commands do (R218) -/

/-- COPY: row by row. -/
def copyRows (s : State) (x : Eng1) : State :=
  (List.range (x.c.w 6)).foldl (fun t n =>
    let r := engineRead t x (x.c.at2 1 + BitVec.ofNat 64 (n * 64 * bitsOf (x.c.w 7) 0 16)) (x.c.w 5)
    engineWrite r.2 x (x.c.at2 3 + BitVec.ofNat 64 (n * 64 * bitsOf (x.c.w 7) 16 16)) r.1) s

/-- Bytes written to a tile's buffer. -/
def tileWrite (s : State) (x : Eng1) (kind off : Nat) (bs : List Byte) : State := bufWrite s x.g.id kind off bs

/-- LOADA and LOADW: the tile's whole region from SRC. -/
def loadTile (s : State) (x : Eng1) (t : Tile) : State :=
  let r := engineRead s x (x.c.at2 1) (tdBytes t.desc)
  tileWrite r.2 x (tdKind t.desc) (tdBase t.desc) r.1

/-- STOREA: the tile's whole region to DST. -/
def storeTile (s : State) (x : Eng1) (t : Tile) : State :=
  match findGroup s x.g.id with
  | some g => engineWrite s x (x.c.at2 2) (readBytes g.abuf (tdBase t.desc) (tdBytes t.desc))
  | none => s

/-- The index words of a GATHER, and the state that has read them. -/
def gatherIndex (s : State) (x : Eng1) : List Nat × State :=
  let n := bitsOf (x.c.w 5) 16 16
  let r := engineRead s x (x.c.at2 3) (4 * n)
  (indexWords n r.1, r.2)

/-- GATHER: each row as it stands, or zeros. -/
def gatherRows (s : State) (x : Eng1) (t : Tile) (ix : List Nat) : State :=
  let n := bitsOf (x.c.w 5) 0 16
  (List.range ix.length).foldl (fun u r =>
    let i := nthD ix r 0
    let y := if i = 0xFFFFFFFF then (List.replicate n (0 : Byte), u) else engineRead u x (gatherRow x.c i) n
    tileWrite y.2 x 0 (aElement t.desc r 0) y.1) s

/-- The operation of an RSTORE (R218). -/
def rstoreOp (x : Nat) : AtOp :=
  match x with
  | 0 => .i .add | 1 => .x .addF | 2 => .i .minS | 3 => .i .maxS | 4 => .x .minF | _ => .x .maxF

/-- One element of a destination updated at its home in one step. -/
def rstoreElement (s : State) (x : Eng1) (op : AtOp) (a : DWord) (v : Nat) : State :=
  let old := (piecesOf a 4).foldl (fun (acc : List Byte × State) q =>
    match locate acc.2 x.w.part q.1 with
    | some p => match p.remote with
      | some _ => let y := readPiece acc.2 x q; (acc.1 ++ y.1, y.2)
      | none => (acc.1 ++ bytesOf (homeRead acc.2 p.ia q.2.2) q.2.2, acc.2)
    | none => acc) (([], s) : List Byte × State)
  let bs := bytesOf (atStep op (natOfBytes old.1) v 0) 4
  let s1 := (piecesOf a 4).foldl (fun t q => writePiece t x bs q) old.2
  let bank := (locate s1 x.w.part a).map fun p => homeDie p.ia
  engineWatch s1 x 2 a 4 bank

/-- RSTORE into one destination. -/
def rstoreDest (s : State) (x : Eng1) (src : List Byte) (d : DWord) : State :=
  let op := rstoreOp (bitsOf (x.c.w 3) 24 4)
  (List.range (bitsOf (x.c.w 3) 0 24)).foldl (fun t e =>
    rstoreElement t x op (d + BitVec.ofNat 64 (4 * e)) (natOfBytes ((src.drop (4 * e)).take 4))) s

/-- One row of a DRAIN: its bytes and flags (R210). -/
def drainBytes (m : Memory) (d : BitVec 128) (fmt : Fmt) (md : Rnd) (ph r : Nat) : List Byte × Flags :=
  (List.range 128).foldl (fun acc c => let y := drainCell m d fmt md ph r c; (acc.1 ++ bytesOf y.1 (Fmt.bytes fmt), acc.2 ||| y.2)) ([], 0)

/-- DRAIN's conversion pass. -/
def drainRows (s : State) (x : Eng1) (t : Tile) (m : Memory) (fmt : Fmt) (md : Rnd) (ph : Nat) : State × Flags :=
  (List.range (32 * tdRb t.desc)).foldl (fun acc r =>
    let y := drainBytes m t.desc fmt md ph r
    (engineWrite acc.1 x (x.c.at2 2 + BitVec.ofNat 64 (r * x.c.w 4)) y.1, acc.2 ||| y.2)) (s, 0)

/-! ### Results -/

/-- What a command has come to: its completion, or the structure whose uncorrectable error it has consumed. -/
structure Ran where
  s : State
  status : Nat
  dmask : Nat
  flags : Flags
  addr : DWord
  fatal : Option Struck

/-- A command that is denied. -/
def denied (s : State) (y : Nat × DWord) : Ran := ⟨s, y.1, 0, 0, y.2, none⟩

/-- A command with one destination, once its checks have passed. -/
def wrote (s : State) : Ran := ⟨s, 0, 1, 0, 0, none⟩

/-- A command that consumes an uncorrectable error: it has no effect (R356, R357). -/
def struck (s : State) (what : Struck) : Ran := ⟨s, 0, 0, 0, 0, some what⟩

/-- The first side of a list that fails its checks. -/
def firstBad (s : State) (x : Eng1) (l : List Side) : Option (Nat × DWord) := l.findSome? fun y => sideStatus s x.w x.c.lane y

/-- The sides that are sources. -/
def sources (x : Eng1) : List Side := (sidesOf x.g x.c).filter fun y => !y.dest
def destinations (x : Eng1) : List Side := (sidesOf x.g x.c).filter fun y => y.dest

/-- The uncorrectable error that a command meets in memory. -/
def meetsError (s : State) (x : Eng1) : Option Struck := struckIn s x.w x.c.die (sidesOf x.g x.c) (readSides x.g x.c)

/-- Steps 5 and 6 of R216 for a command with one destination. -/
def runSingle (s : State) (x : Eng1) (work : State → State) : Ran :=
  match firstBad s x (sources x), firstBad s x (destinations x), meetsError s x with
  | some y, _, _ => denied s y
  | none, some y, _ => denied s y
  | none, none, some what => struck s what
  | none, none, none => wrote (work s)

/-- STOREA: a poisoned word of the tile is consumed (R356). -/
def runStore (s : State) (x : Eng1) (t : Tile) : Ran :=
  match firstBad s x (destinations x), meetsError s x with
  | some y, _ => denied s y
  | none, some what => struck s what
  | none, none => if bufPoisoned s x.g.id 0 (tdBase t.desc) (tdBytes t.desc) then struck s .buffer else wrote (storeTile s x t)

/-- GATHER: its table rows are checked as sources too. -/
def runGather (s : State) (x : Eng1) (t : Tile) : Ran :=
  match firstBad s x (sources x), meetsError s x with
  | some y, _ => denied s y
  | none, some what => struck s what
  | none, none =>
    let r := gatherIndex s x
    let rows := rowSides x.c r.1
    match firstBad r.2 x rows, struckIn s x.w x.c.die rows rows with
    | some y, _ => denied r.2 y
    | none, some what => struck s what
    | none, none => wrote (gatherRows r.2 x t r.1)

/-- The status of a command with several destinations, from what their checks found (R217): OK, PARTIAL when some are written, and
the first denial when none is; a destination at a fenced endpoint is denied with TIMEOUT (R364; DEDUCED, log 84). -/
def eachStatus (bad : List (Option (Nat × DWord))) : Nat × DWord :=
  match bad.findSome? id with
  | some y => if bad.any (·.isNone) then (1, y.2) else y
  | none => (0, 0)

/-- MCAST and RSTORE: each destination that its checks permit; none when one has a colour that is not held (R217, R284). -/
def runEach (s : State) (x : Eng1) (each : State → List Byte → DWord → State) : Ran :=
  match firstBad s x (sources x), meetsError s x with
  | some y, _ => denied s y
  | none, some what => struck s what
  | none, none =>
    let ds := destinations x
    let bad := ds.map fun d => sideStatus s x.w x.c.lane d
    let st := eachStatus bad
    match ds.findSome? (sideColour s x.w x.c.lane) with
    | some y => denied s y
    | none =>
      let src := engineRead s x (x.c.at2 1) ((sources x).foldl (fun n y => n + y.n) 0)
      let ok := (List.range ds.length).filter fun k => (nthD bad k none).isNone
      let s1 := ok.foldl (fun t k => match ds[k]? with | some d => each t src.1 d.ptr | none => t) src.2
      ⟨s1, st.1, ok.foldl (fun n k => n + 2 ^ k) 0, 0, st.2, none⟩

/-- DRAIN: checked as CDRAIN (R208 to R210), under the mode that the pushing wave has as the command runs (DESIGN CHOICE,
log 75). One that is denied at its destination has taken the dither phase (DESIGN CHOICE, log 73) and is no drain for inject
mode (DESIGN CHOICE, log 74). -/
def runDrain (s : State) (x : Eng1) (t : Tile) : Ran :=
  let ph := (coreAt s x.c.die x.c.core).phase
  let s1 := modCore s x.c.die x.c.core fun y => { y with phase := y.phase + 1 }
  match firstBad s1 x (destinations x), meetsError s1 x with
  | some y, _ => denied s1 y
  | none, some what => struck s1 what
  | none, none =>
    let s2 := modWave s1 x.w.id fun w => if w.ckmode = 2 then { w with ckmode := 0 } else w
    let bad := bufPoisoned s x.g.id 2 (tdBase t.desc) (tdBytes t.desc)
    match (if bad then none else drainCheck x.g t x.w.ckmode.toNat), drainFmt (x.c.w 1), Rnd.ofCode? (bitsOf (x.c.w 1) 10 3) with
    | some (m, fix), some fmt, some md =>
      let s3 := countCorrection (modGroup s2 x.g.id fun g => { g with cbuf := m }) x.w (Mask.of (· = x.c.lane)) x.c.die x.c.core t.n fix
      let r := drainRows s3 x t m fmt md ph.toNat
      { wrote r.1 with flags := t.flags ||| r.2 }
    | _, _, _ =>
      let m := if x.w.ckmode = 2 then injectCell x.g.cbuf t.desc else x.g.cbuf
      struck (modGroup s2 x.g.id fun g => { g with cbuf := m }) (if bad then .buffer else .matrix)

/-! ### Acceptance (R216) -/

/-- A queue register of a wave replaced. -/
def putQueue (s : State) (wid : Nat) (k : Fin 8) (f : QReg → QReg) : State :=
  modWave s wid fun w => { w with queues := w.queues.set k.val (f (w.queues.get k)) k.isLt }

/-- The first command of a queue register that its engine has not accepted. -/
def nextCommand (q : QReg) : Option Command := q.cmds.find? fun c => c.state = .pushed

/-- That command replaced. -/
def acceptAs (s : State) (wid : Nat) (k : Fin 8) (c : Command) : State :=
  let put (l : List Command) : List Command :=
    (l.takeWhile fun y => y.state ≠ .pushed) ++ c :: ((l.dropWhile fun y => y.state ≠ .pushed).drop 1)
  putQueue s wid k fun q => { q with cmds := put q.cmds }

/-- A command completes without having been registered: MALFORMED or TILE. -/
def rejectCommand (s : State) (wid : Nat) (k : Fin 8) (c : Command) (status : Nat) : State :=
  acceptAs { s with fresh := s.fresh + 1 } wid k { c with state := .accepted, id := s.fresh, status := BitVec.ofNat 4 status }

/-- Tiles of an accepted command: busy, and filling or draining (R194, R198). -/
def holdTile (s : State) (g : Nat) (c : Command) : State :=
  match c.tileNo with
  | some n => setTile (busyTile s g n) g n (if fromState c.op = .ready then .draining else .filling)
  | none => s

/-- Tiles of a command that has ended (R198). -/
def freeHeld (s : State) (g : Nat) (c : Command) (fatal : Bool) : State :=
  match c.tileNo with
  | some n => setTile (idleTile s g n) g n (if c.op = 0x30 && !fatal then .empty else .ready)
  | none => s

/-- A command that meets an uncorrectable error ends without a completion, and its launch consumes the error (R218,
R357) in the issuing thread. -/
def fatalCommand (x : Eng1) (s : State) (what : Struck) : State :=
  let s1 := freeHeld s x.g.id x.c true
  let s2 := putQueue s1 x.w.id x.q fun q => { q with cmds := (q.cmds.takeWhile fun y => y.state ≠ .pushed) ++ ((q.cmds.dropWhile fun y => y.state ≠ .pushed).drop 1) }
  consumeError s2 x.w.launch (nameOf x.w x.c.lane) x.w.spn what

/-- A command taken by its engine: ranges registered, checked, and the permitted destinations written. -/
def acceptCommand (s : State) (x : Eng1) (work : State → Eng1 → Ran) : State :=
  let id := s.fresh
  let s1 := holdTile { s with fresh := s.fresh + 1, ranges := s.ranges ++ locksOf x.g id x.c } x.g.id x.c
  let r := work s1 x
  match r.fatal with
  | some what => fatalCommand x { r.s with ranges := r.s.ranges.filter fun y => y.cmd ≠ id } what
  | none =>
    acceptAs r.s x.w.id x.q
      { x.c with state := .accepted, id := id, status := BitVec.ofNat 4 r.status, dmask := BitVec.ofNat 4 r.dmask, flags := r.flags
                 addr := r.addr }

/-- The IAs of the device lines of some sides. -/
def linesOf (s : State) (part : Nat) (l : List Side) : List Nat :=
  l.flatMap fun x => (piecesOf x.ptr x.n).filterMap fun q => match locate s part q.1 with
    | some p => if p.page.isSome then some p.ia else none
    | none => none

/-- The sides that a command reads; the rows of a GATHER among them. -/
def readsOf (s : State) (x : Eng1) : List Side :=
  let rows := if x.c.op = 0x10 then match rangeBytes s x.w.part x.c.die (x.c.at2 3) (4 * bitsOf (x.c.w 5) 16 16) with
    | some bs => rowSides x.c (indexWords (bitsOf (x.c.w 5) 16 16) bs)
    | none => [] else []
  readSides x.g x.c ++ rows

/-- Is a command in its place among the writes of the dies (R262, R263)? The engine's die counts what the homes it reads from
have sent; the homes it writes to count what that die has sent; and no write to their lines is on its way. -/
def orderMay (s : State) (x : Eng1) : Bool :=
  let dst := linesOf s x.w.part ((sidesOf x.g x.c).filter (·.dest))
  let here := clockOf s x.c.die
  ((linesOf s x.w.part (readsOf s x)).all fun a => clockCounts here (clockOf s (homeDie a)))
    && dst.all (fun a => clockCounts (clockOf s (homeDie a)) here)
    && !(s.flights.any fun f => dst.any fun a => a / 64 = f.ia / 64)

/-- Has the held buffer room for what a command sends (R351)? One that is larger than the whole share is taken when nothing is
held (log 66). -/
def heldMay (s : State) (x : Eng1) : Bool :=
  let n := commandSends s x.g x.c
  n = 0 || heldRoom s x.w.part n || (findPart s x.w.part).any fun p => heldBytes p = 0

/-- Are the sends of the commands that the issuing thread pushed before this one numbered (R360)? -/
def sendsInOrder (s : State) (x : Eng1) : Bool := commandSends s x.g x.c = 0 || !sendsAhead s x.w x.c.lane x.c.order

/-- May the engine take the command: the wave's loads and stores are ordered before it, its entries are free, it is in its
place among the writes of the dies, and the held buffer takes what it sends (R216, R263, R351)? A DRAIN waits for the array
(R205). -/
def commandMay (s : State) (x : Eng1) : Bool :=
  released x.w ((Scope.ofCode? x.c.scope).getD .sys) && locksMay s (locksOf x.g s.fresh x.c) && orderMay s x && heldMay s x && sendsInOrder s x
    && (x.c.op ≠ 0x30 || match x.c.tileNo.bind (findTile x.g) with | some t => t.busy = 0 | none => true)

/-- While a mark of its partition is due, an engine accepts no command (R349). -/
def markHolds (s : State) (part : Nat) : Bool := (findPart s part).any (markIsDue s)

/-- The engine of a queue register meets its next command, when that has the OP of the event. -/
def engineTakes (s : State) (wid : Nat) (k : Fin 8) (op : Nat) (work : State → Eng1 → Ran) : State :=
  match findWave s wid with
  | none => s
  | some w =>
    match nextCommand (w.queues.get k), findGroup s w.group with
    | some c, some g =>
      let x : Eng1 := ⟨w, g, k, c⟩
      if c.op ≠ op || w.finished || markHolds s w.part then s
      else if !commandOk g (w.queues.get k).bound c then rejectCommand s wid k c 10
      else if !tileOk g c then rejectCommand s wid k c 3
      else if commandMay s x then acceptCommand s x work
      else s
    | _, _ => s

/-- The work of a command on its tile. -/
def onTile (f : State → Eng1 → Tile → Ran) (s : State) (x : Eng1) : Ran :=
  match x.c.tileNo.bind (findTile x.g) with
  | some t => f s x t
  | none => denied s (3, 0)

/-- COPY (R218). -/
def execCopy (wave : Nat) (q : Fin 8) (s : State) : Host.Outcome State Fault Refusal :=
  .next (engineTakes s wave q 1 fun t x => runSingle t x fun u => copyRows u x)

/-- LOADA (R218). -/
def execLoada (wave : Nat) (q : Fin 8) (s : State) : Host.Outcome State Fault Refusal :=
  .next (engineTakes s wave q 2 (onTile fun t x y => runSingle t x fun u => loadTile u x y))

/-- LOADW (R218). -/
def execLoadw (wave : Nat) (q : Fin 8) (s : State) : Host.Outcome State Fault Refusal :=
  .next (engineTakes s wave q 3 (onTile fun t x y => runSingle t x fun u => loadTile u x y))

/-- STOREA (R218). -/
def execStorea (wave : Nat) (q : Fin 8) (s : State) : Host.Outcome State Fault Refusal :=
  .next (engineTakes s wave q 4 (onTile runStore))

/-- GATHER (R218). -/
def execGather (wave : Nat) (q : Fin 8) (s : State) : Host.Outcome State Fault Refusal :=
  .next (engineTakes s wave q 0x10 (onTile runGather))

/-- MCAST (R218). -/
def execMcast (wave : Nat) (q : Fin 8) (s : State) : Host.Outcome State Fault Refusal :=
  .next (engineTakes s wave q 0x20 fun t x => runEach t x fun u src d => engineWrite u x d src)

/-- RSTORE (R218). -/
def execRstore (wave : Nat) (q : Fin 8) (s : State) : Host.Outcome State Fault Refusal :=
  .next (engineTakes s wave q 0x21 fun t x => runEach t x fun u src d => rstoreDest u x src d)

/-- DRAIN (R218). -/
def execDrain (wave : Nat) (q : Fin 8) (s : State) : Host.Outcome State Fault Refusal :=
  .next (engineTakes s wave q 0x30 (onTile runDrain))

/-! ### Completion (R216, step 7; R217) -/

/-- The completion word (R217). -/
def completionWord (c : Command) : Word :=
  BitVec.ofNat 32 (c.status.toNat + 16 * c.dmask.toNat + 256 * c.flags.toNat + 2 ^ 16 * c.tag)

/-- Does the command deliver a word (R215)? -/
def delivers (c : Command) : Bool := !c.nc || c.status ≠ 0

/-- Are the completion buffer's own entries taken, those granted in an emergency not counted (R212, R339)? -/
def ordinaryFull (q : QReg) : Bool := Config.completionWords ≤ (q.done.filter fun x => !x.extra).length

/-- Has the completion buffer room (R212, R339)? -/
def completionRoom (q : QReg) : Bool :=
  !ordinaryFull q || (q.done.filter (·.extra)).length < q.emergency.length

/-- Are the engine's writes visible at its die (R159, R216)? -/
def engineReleased (s : State) (wid die : Nat) : Bool :=
  !(s.flights.any fun f => f.wave = wid && f.core = Config.cores && f.todo.contains die)

/-- A command ends: its ranges and its tile are freed, and its word is pushed. -/
def endCommand (s : State) (w : Wave) (k : Fin 8) (c : Command) : State :=
  let s1 := { s with ranges := s.ranges.filter fun r => r.cmd ≠ c.id }
  let s2 := if c.status = 3 || c.status = 10 then s1 else freeHeld s1 w.group c false
  let x : Completion := { word := completionWord c, reported := false, lane := c.lane, pc := c.pc, op := BitVec.ofNat 8 c.op
                          scope := BitVec.ofNat 3 c.scope, addr := c.addr, extra := ordinaryFull (w.queues.get k) }
  let s3 := putQueue s2 w.id k fun q =>
    { q with cmds := q.cmds.drop 1, done := if delivers c && !w.finished then q.done ++ [x] else q.done }
  tryFinish (reap (releaseHusk s3 w.id) w.group) w.id

/-- The oldest command of a queue register completes; one with an OP that no engine knows is MALFORMED. -/
def completeCommand (s : State) (wid : Nat) (k : Fin 8) : State :=
  match findWave s wid with
  | none => s
  | some w =>
    match (w.queues.get k).cmds with
    | [] => s
    | c :: _ =>
      let room := w.finished || !delivers c || completionRoom (w.queues.get k)
      match c.state with
      | .accepted => if room && engineReleased s wid c.die then endCommand s w k c else s
      | .pushed => if (opEngine c.op).isNone && !markHolds s w.part then rejectCommand s wid k c 10 else s

/-- ENGINE_COMMAND_COMPLETE (R216). -/
def execEngineCommandComplete (wave : Nat) (q : Fin 8) (s : State) : Host.Outcome State Fault Refusal := .next (completeCommand s wave q)

/-! ### Probe tokens (R338, R339, R430)

A chain is a list of queues, each given as its class (R430: 0 command buffer, 1 completion buffer, 2 engine stream, 3 task or
successor append), the wave that owns the element, and the number of the queue register or task queue. The record paths of
spawn gatherers (class 4) are part of no chain: SPAWN never waits for room (R183, R328). -/

/-- What the wave's next word is, with its run. -/
def nextWord (s : State) (w : Wave) : Option (Run × Instr × Shape) :=
  match w.run with
  | none => none
  | some r =>
    match fetchAt s w r.pc with
    | .word _ x => match decode x with
      | .ok i => i.shape.map fun sh => (r, i, sh)
      | .error _ => none
    | .trap _ | .absent _ | .late | .poison _ => none

/-- The task queue whose ring is full for the lowest lane of a waiting ENQT. -/
def enqtBlocked (s : State) (w : Wave) (r : Run) (i : Instr) (sh : Shape) : Option Nat :=
  let c : Ctx := ⟨s, w, r, execMask w r, sh, i⟩
  match i, c.exec.lowest with
  | .enqt .., some l =>
    let n := bitsOf (c.x 1 l).toNat 0 12
    (taskQueue s n (tenantOf s w.part)).bind fun q => if queueFull q then some n else none
  | _, _ => none

/-- The queue that a wave is blocked on by a push of its own (R212, R316, R338). -/
def blockedOn (s : State) (w : Wave) : Option (Nat × Nat × Nat) :=
  if w.hold ≠ some .engineQueue then none
  else match nextWord s w with
    | none => none
    | some (r, i, sh) =>
      match sh.dst with
      | some (.q k, _) => if pushCheck w (execMask w r) sh = .wait then some (0, w.id, k.val) else none
      | _ => (enqtBlocked s w r i sh).map fun n => (3, w.id, n)

/-- The append of a finished task group that waits for room, as its last wave's (R316). -/
def appendBlocked (s : State) (g : Group) : Option (Nat × Nat × Nat) :=
  match g.appending, lastWave s g.id with
  | some (q, _), some w => (taskQueue s q (tenantOf s g.part)).bind fun y => if queueFull y then some (3, w.id, q) else none
  | _, _ => none

/-- Is the engine blocked on the completion of the register's oldest command? -/
def blockedCompletion (q : QReg) : Bool :=
  match q.cmds with
  | c :: _ => c.state = .accepted && delivers c && !completionRoom q
  | [] => false

/-- The queues that the consumer of a queue is blocked on: the engine of a command buffer on its stream and the completion
buffer, the wave of a completion buffer on its own push, and, of a task queue, the group whose completion lets HEAD pass, on
the pushes of its waves and its successor append (DESIGN CHOICE, log 77). -/
def consumerBlocked (s : State) (x : Nat × Nat × Nat) : List (Nat × Nat × Nat) :=
  match x with
  | (0, n, k) => match findWave s n with
    | some w => if blockedCompletion (w.queues.get (Fin.ofNat 8 k)) then [(2, n, k)] else []
    | none => []
  | (2, n, k) => [(1, n, k)]
  | (1, n, _) => ((findWave s n).bind (blockedOn s)).toList
  | (3, _, t) => match findQueue s t with
    | none => []
    | some q => match s.groups.find? fun g => g.entry = some (t, q.head) with
      | some g => (wavesOf s g.id).filterMap (blockedOn s) ++ (appendBlocked s g).toList
      | none => []
  | _ => []

/-- The way of a token from a queue back to its origin: at most eight queues (R390). -/
def tokenPath (s : State) (origin : Nat × Nat × Nat) : Nat → Nat × Nat × Nat → Option (List (Nat × Nat × Nat))
  | 0, _ => none
  | n + 1, x =>
    let ys := consumerBlocked s x
    if ys.contains origin then some [x] else ys.findSome? fun y => (tokenPath s origin n y).map (x :: ·)

/-- A chain by its queues: a task queue is the same whoever appends. -/
def chainKey (l : List (Nat × Nat × Nat)) : List (Nat × Nat × Nat) := l.map fun x => if x.1 = 3 then (3, 0, x.2.2) else x

/-- An element of a QUEUE record (R430). -/
def chainElement (s : State) (x : Nat × Nat × Nat) : Nat :=
  match findWave s x.2.1 with
  | none => 0
  | some w =>
    let q := w.queues.get (Fin.ofNat 8 x.2.2)
    fld w.launch.toNat 0 64 + fld (w.ctx.getD 0xFFFFFFFF) 64 32 + fld x.1 96 3
    + (if x.1 = 3 then fld x.2.2 112 12 else fld x.2.2 99 3)
    + (match q.bound with
      | some (g, i) => if x.1 = 2 then fld g.code 102 3 + fld i 105 2 else 0
      | none => 0)

/-- The QUEUE record of a chain (R390). -/
def chainBody (s : State) (l : List (Nat × Nat × Nat)) (kind : Nat) : Nat :=
  (List.range l.length).foldl (fun n k => n + fld (chainElement s (nthD l k (0, 0, 0))) (64 + 128 * k) 128) (fld kind 0 1 + fld (l.length - 1) 1 3)

/-- The chains whose emergency entries in a queue have not been consumed. -/
def grantsOf (s : State) (x : Nat × Nat × Nat) : List (List (Nat × Nat × Nat)) :=
  if x.1 = 3 then match findQueue s x.2.2 with | some q => q.emergency | none => []
  else match findWave s x.2.1 with | some w => (w.queues.get (Fin.ofNat 8 x.2.2)).emergency | none => []

/-- An emergency entry granted to a queue, counted at the origin's core (R228, R339). -/
def grantEntry (s : State) (w : Wave) (x : Nat × Nat × Nat) (key : List (Nat × Nat × Nat)) : State :=
  let s1 := match w.place.map (fun p => (p.die, p.core)), (findGroup s w.group).bind (·.place) with
    | some p, _ | none, some p => modCore s p.1 p.2 fun c => { c with emergencies := c.emergencies + 1 }
    | none, none => s
  if x.1 = 3 then modQueue s1 x.2.2 fun q => { q with emergency := q.emergency ++ [key] }
  else putQueue s1 x.2.1 (Fin.ofNat 8 x.2.2) fun q => { q with emergency := q.emergency ++ [key] }

/-- QUEUE_CYCLE in the lanes of the origin's push; the append of a group that has finished faults its launch with it. -/
def queueCycle (s : State) (w : Wave) : State :=
  match w.run, findGroup s w.group with
  | some r, _ => enterTrap s w.id (.at .queueCycle (execMask w r) 0 r 0)
  | none, some g => successorFault s g .queueCycle
  | none, none => s

/-- A token returns to its origin (R339): an emergency entry in the last queue of the chain, or QUEUE_CYCLE while an entry
granted for the same queues is unconsumed. -/
def returnToken (s : State) (w : Wave) (l : List (Nat × Nat × Nat)) : State :=
  let last := (l.getLast?).getD (0, 0, 0)
  let key := chainKey l
  let (m, pc) := match w.run with | some r => (execMask w r, r.pc) | none => (0, exitedPc)
  if (grantsOf s last).contains key then queueCycle (emitWave s w 0x0A 2 m pc (chainBody s l 1)) w
  else grantEntry (emitWave s w 0x0A 2 m pc (chainBody s l 0)) w last key

/-- The blocked push that a token of a wave leaves from: to queue register k, or an append (R339). -/
def originOf (s : State) (w : Wave) (k : Fin 8) : Option (Nat × Nat × Nat) :=
  let own := if w.finished then (findGroup s w.group).bind (appendBlocked s) else blockedOn s w
  own.bind fun x => if x.2.1 = w.id && (x.1 = 3 || x.2.2 = k.val) then some x else none

/-- A token leaves a wave that has been blocked on a push (R339). -/
def probe (s : State) (wid : Nat) (k : Fin 8) : State :=
  match findWave s wid with
  | none => s
  | some w =>
    match originOf s w k with
    | none => s
    | some x => match tokenPath s x 8 x with
      | some l => returnToken s w l
      | none => s

/-- PROBE_TOKEN (R339). -/
def execProbeToken (wave : Nat) (q : Fin 8) (s : State) : Host.Outcome State Fault Refusal := .next (probe s wave q)

end Sys2Proof.Machine
end

