-- ==== Sys2Proof/Machine/Float.lean ====
section
/-! DEFINITION. Floating-point and conversion instructions (R126 to R138). -/
namespace Sys2Proof.Machine

/-- A one-register result with flags, from a rule on FP32 patterns of a, b and old d. -/
def floatWord (f : Nat → Nat → Nat → Nat × Flags) (c : Ctx) : Res :=
  let r (l : Lane) : Nat × Flags := f (c.x 0 l).toNat (c.x 1 l).toNat (c.x 2 l).toNat
  c.write (fun l => w32 (BitVec.ofNat 32 (r l).1)) fun l => (r l).2

/-- FP32 value of a pattern. -/
def v32 (p : Nat) : Num := floatVal f32Fmt p

/-- Two FP16 elements of a packed register, one rounding each (R134). -/
def packed (f : Num → Num → Num → Num × Flags) (a b d : Nat) : Nat × Flags :=
  let e (j : Nat) : Nat × Flags :=
    rounded f16Fmt .rne (f (floatVal f16Fmt (bitsOf a (16 * j) 16)) (floatVal f16Fmt (bitsOf b (16 * j) 16))
      (floatVal f16Fmt (bitsOf d (16 * j) 16)))
  ((e 0).1 + 2 ^ 16 * (e 1).1, (e 0).2 ||| (e 1).2)

/-- DOT4 (R135): four byte products and the old d. -/
def dot4 (sg : Bool) (x y z : Word) : Word :=
  let e (p : Word) (j : Nat) : Int := if sg then signedOf (bitsOf p.toNat (8 * j) 8) 8 else (bitsOf p.toNat (8 * j) 8 : Nat)
  z + BitVec.ofInt 32 (e x 0 * e y 0 + e x 1 * e y 1 + e x 2 * e y 2 + e x 3 * e y 3)

/-- CVT (R137). -/
def cvtWord (src dst : Fmt) (r : Rnd) (c : Ctx) : Res :=
  let v (l : Lane) : DWord × Flags := convert src dst r l.val (if src.regs = 2 then (c.pair 0 l).toNat else (c.x 0 l).toNat)
  c.write (fun l => w64 (v l).1) fun l => (v l).2

/-- FADD (R129). -/
def execFadd (e k : Bool) (d a b : Reg) (r : Rnd) (s : State) : Host.Outcome State Fault Refusal :=
  runWord (.fadd e k d a b r) s (floatWord fun x y _ => rounded f32Fmt r (addNum r (v32 x) (v32 y)))

/-- FSUB (R129). -/
def execFsub (e k : Bool) (d a b : Reg) (r : Rnd) (s : State) : Host.Outcome State Fault Refusal :=
  runWord (.fsub e k d a b r) s (floatWord fun x y _ => rounded f32Fmt r (addNum r (v32 x) (negNum (v32 y))))

/-- FMUL (R129). -/
def execFmul (e k : Bool) (d a b : Reg) (r : Rnd) (s : State) : Host.Outcome State Fault Refusal :=
  runWord (.fmul e k d a b r) s (floatWord fun x y _ => rounded f32Fmt r (mulNum (v32 x) (v32 y)))

/-- FFMA (R129). -/
def execFfma (e k : Bool) (d a b : Reg) (r : Rnd) (s : State) : Host.Outcome State Fault Refusal :=
  runWord (.ffma e k d a b r) s (floatWord fun x y z => rounded f32Fmt r (fmaNum r (v32 x) (v32 y) (v32 z)))

/-- FMIN (R130). -/
def execFmin (e k : Bool) (d a b : Reg) (s : State) : Host.Outcome State Fault Refusal :=
  runWord (.fmin e k d a b) s (floatWord fun x y _ => minMax true x y)

/-- FMAX (R130). -/
def execFmax (e k : Bool) (d a b : Reg) (s : State) : Host.Outcome State Fault Refusal :=
  runWord (.fmax e k d a b) s (floatWord fun x y _ => minMax false x y)

/-- FRCP (R133). -/
def execFrcp (e k : Bool) (d a : Reg) (s : State) : Host.Outcome State Fault Refusal :=
  runWord (.frcp e k d a) s (floatWord fun x _ _ => fn32 .rcp x)

/-- FRSQ (R133). -/
def execFrsq (e k : Bool) (d a : Reg) (s : State) : Host.Outcome State Fault Refusal :=
  runWord (.frsq e k d a) s (floatWord fun x _ _ => fn32 .rsq x)

/-- FSQRT (R133). -/
def execFsqrt (e k : Bool) (d a : Reg) (s : State) : Host.Outcome State Fault Refusal :=
  runWord (.fsqrt e k d a) s (floatWord fun x _ _ => fn32 .sqrt x)

/-- FEXP2 (R133). -/
def execFexp2 (e k : Bool) (d a : Reg) (s : State) : Host.Outcome State Fault Refusal :=
  runWord (.fexp2 e k d a) s (floatWord fun x _ _ => fn32 .exp2 x)

/-- FLOG2 (R133). -/
def execFlog2 (e k : Bool) (d a : Reg) (s : State) : Host.Outcome State Fault Refusal :=
  runWord (.flog2 e k d a) s (floatWord fun x _ _ => fn32 .log2 x)

/-- FSINPI (R133). -/
def execFsinpi (e k : Bool) (d a : Reg) (s : State) : Host.Outcome State Fault Refusal :=
  runWord (.fsinpi e k d a) s (floatWord fun x _ _ => fn32 .sinpi x)

/-- FCOSPI (R133). -/
def execFcospi (e k : Bool) (d a : Reg) (s : State) : Host.Outcome State Fault Refusal :=
  runWord (.fcospi e k d a) s (floatWord fun x _ _ => fn32 .cospi x)

/-- FCLASS (R132). -/
def execFclass (e k : Bool) (d a : Reg) (s : State) : Host.Outcome State Fault Refusal :=
  runWord (.fclass e k d a) s (floatWord fun x _ _ => (2 ^ classBit x, flagIf (isSig (v32 x)) fNV))

/-- HADD2 (R134). -/
def execHadd2 (e k : Bool) (d a b : Reg) (s : State) : Host.Outcome State Fault Refusal :=
  runWord (.hadd2 e k d a b) s (floatWord (packed fun x y _ => addNum .rne x y))

/-- HMUL2 (R134). -/
def execHmul2 (e k : Bool) (d a b : Reg) (s : State) : Host.Outcome State Fault Refusal :=
  runWord (.hmul2 e k d a b) s (floatWord (packed fun x y _ => mulNum x y))

/-- HFMA2 (R134). -/
def execHfma2 (e k : Bool) (d a b : Reg) (s : State) : Host.Outcome State Fault Refusal :=
  runWord (.hfma2 e k d a b) s (floatWord (packed fun x y z => fmaNum .rne x y z))

/-- DOT4.S8 (R135). -/
def execDot4S8 (e k : Bool) (d a b : Reg) (s : State) : Host.Outcome State Fault Refusal :=
  runWord (.dot4S8 e k d a b) s (ternary (dot4 true))

/-- DOT4.Z8 (R135). -/
def execDot4Z8 (e k : Bool) (d a b : Reg) (s : State) : Host.Outcome State Fault Refusal :=
  runWord (.dot4Z8 e k d a b) s (ternary (dot4 false))

/-- FCMP (R131). -/
def execFcmp (e : Bool) (d : Pred) (a b : Reg) (c : FCond) (s : State) : Host.Outcome State Fault Refusal :=
  runWord (.fcmp e d a b c) s fun q =>
    let v (l : Lane) : Bool × Flags := fcmpNum c (v32 (q.x 0 l).toNat) (v32 (q.x 1 l).toNat)
    q.writeP d (fun l => (v l).1) fun l => (v l).2

/-- CVT (R137). -/
def execCvt (e k : Bool) (d a : Reg) (f : Fmt) (r : Rnd) (u : Fin 8) (s : State) : Host.Outcome State Fault Refusal :=
  runWord (.cvt e k d a f r u) s (cvtWord ((cvtSource false u).getD .s8) f r)

/-- CVT (R137). -/
def execCvtFloatSource (e k : Bool) (d a : Reg) (f : Fmt) (r : Rnd) (u : Fin 8) (s : State) : Host.Outcome State Fault Refusal :=
  runWord (.cvtFloatSource e k d a f r u) s (cvtWord ((cvtSource true u).getD .f32) f r)

/-- FRND (R136). -/
def execFrnd (e k : Bool) (d a : Reg) (r : Rnd) (s : State) : Host.Outcome State Fault Refusal :=
  runWord (.frnd e k d a r) s (floatWord fun x _ _ => integral r x)

end Sys2Proof.Machine
end

