-- ==== Sys2Proof/Machine/Integer.lean ====
section
/-! DEFINITION. The integer instructions (R98 to R106). -/
namespace Sys2Proof.Machine

/-- ADD.S32 (R98). -/
def execAddS32 (e k : Bool) (d a b : Reg) (s : State) : Host.Outcome State Fault Refusal :=
  runWord (.addS32 e k d a b) s (binary fun x y => x + y)

/-- SUB.S32 (R98). -/
def execSubS32 (e k : Bool) (d a b : Reg) (s : State) : Host.Outcome State Fault Refusal :=
  runWord (.subS32 e k d a b) s (binary fun x y => x - y)

/-- MUL.S32 (R98). -/
def execMulS32 (e k : Bool) (d a b : Reg) (s : State) : Host.Outcome State Fault Refusal :=
  runWord (.mulS32 e k d a b) s (binary fun x y => x * y)

/-- MULH.S32 (R98). -/
def execMulhS32 (e k : Bool) (d a b : Reg) (s : State) : Host.Outcome State Fault Refusal :=
  runWord (.mulhS32 e k d a b) s (binary fun x y => mulHighS x y)

/-- MULH.Z32 (R98). -/
def execMulhZ32 (e k : Bool) (d a b : Reg) (s : State) : Host.Outcome State Fault Refusal :=
  runWord (.mulhZ32 e k d a b) s (binary fun x y => mulHighZ x y)

/-- MIN.S32 (R98). -/
def execMinS32 (e k : Bool) (d a b : Reg) (s : State) : Host.Outcome State Fault Refusal :=
  runWord (.minS32 e k d a b) s (binary fun x y => minS x y)

/-- MAX.S32 (R98). -/
def execMaxS32 (e k : Bool) (d a b : Reg) (s : State) : Host.Outcome State Fault Refusal :=
  runWord (.maxS32 e k d a b) s (binary fun x y => maxS x y)

/-- MIN.Z32 (R98). -/
def execMinZ32 (e k : Bool) (d a b : Reg) (s : State) : Host.Outcome State Fault Refusal :=
  runWord (.minZ32 e k d a b) s (binary fun x y => minZ x y)

/-- MAX.Z32 (R98). -/
def execMaxZ32 (e k : Bool) (d a b : Reg) (s : State) : Host.Outcome State Fault Refusal :=
  runWord (.maxZ32 e k d a b) s (binary fun x y => maxZ x y)

/-- DIV.S32 (R99). -/
def execDivS32 (e k : Bool) (d a b : Reg) (s : State) : Host.Outcome State Fault Refusal :=
  runWord (.divS32 e k d a b) s (binaryF divS)

/-- DIV.Z32 (R99). -/
def execDivZ32 (e k : Bool) (d a b : Reg) (s : State) : Host.Outcome State Fault Refusal :=
  runWord (.divZ32 e k d a b) s (binaryF divZ)

/-- REM.S32 (R99). -/
def execRemS32 (e k : Bool) (d a b : Reg) (s : State) : Host.Outcome State Fault Refusal :=
  runWord (.remS32 e k d a b) s (binaryF remS)

/-- REM.Z32 (R99). -/
def execRemZ32 (e k : Bool) (d a b : Reg) (s : State) : Host.Outcome State Fault Refusal :=
  runWord (.remZ32 e k d a b) s (binaryF remZ)

/-- ABS.S32 (R98). -/
def execAbsS32 (e k : Bool) (d a : Reg) (s : State) : Host.Outcome State Fault Refusal :=
  runWord (.absS32 e k d a) s (unary absS)

/-- NEG.S32 (R98). -/
def execNegS32 (e k : Bool) (d a : Reg) (s : State) : Host.Outcome State Fault Refusal :=
  runWord (.negS32 e k d a) s (unary fun x => -x)

/-- POPC (R98). -/
def execPopc (e k : Bool) (d a : Reg) (s : State) : Host.Outcome State Fault Refusal :=
  runWord (.popc e k d a) s (unary fun x => BitVec.ofNat 32 (popCount x.toNat 32))

/-- AND.B32 (R98). -/
def execAndB32 (e k : Bool) (d a b : Reg) (s : State) : Host.Outcome State Fault Refusal :=
  runWord (.andB32 e k d a b) s (binary fun x y => x &&& y)

/-- OR.B32 (R98). -/
def execOrB32 (e k : Bool) (d a b : Reg) (s : State) : Host.Outcome State Fault Refusal :=
  runWord (.orB32 e k d a b) s (binary fun x y => x ||| y)

/-- XOR.B32 (R98). -/
def execXorB32 (e k : Bool) (d a b : Reg) (s : State) : Host.Outcome State Fault Refusal :=
  runWord (.xorB32 e k d a b) s (binary fun x y => x ^^^ y)

/-- ANDN.B32 (R98). -/
def execAndnB32 (e k : Bool) (d a b : Reg) (s : State) : Host.Outcome State Fault Refusal :=
  runWord (.andnB32 e k d a b) s (binary fun x y => x &&& ~~~y)

/-- SHL.B32 (R100). -/
def execShlB32 (e k : Bool) (d a b : Reg) (s : State) : Host.Outcome State Fault Refusal :=
  runWord (.shlB32 e k d a b) s (binary fun x y => shl x y.toNat)

/-- SHR.B32 (R100). -/
def execShrB32 (e k : Bool) (d a b : Reg) (s : State) : Host.Outcome State Fault Refusal :=
  runWord (.shrB32 e k d a b) s (binary fun x y => shr x y.toNat)

/-- SHRA.S32 (R100). -/
def execShraS32 (e k : Bool) (d a b : Reg) (s : State) : Host.Outcome State Fault Refusal :=
  runWord (.shraS32 e k d a b) s (binary fun x y => shra x y.toNat)

/-- ROT.B32 (R100). -/
def execRotB32 (e k : Bool) (d a b : Reg) (s : State) : Host.Outcome State Fault Refusal :=
  runWord (.rotB32 e k d a b) s (binary fun x y => rot x y.toNat)

/-- CLZ (R98). -/
def execClz (e k : Bool) (d a : Reg) (s : State) : Host.Outcome State Fault Refusal :=
  runWord (.clz e k d a) s (unary fun x => BitVec.ofNat 32 (leadingZeros x))

/-- BREV (R98). -/
def execBrev (e k : Bool) (d a : Reg) (s : State) : Host.Outcome State Fault Refusal :=
  runWord (.brev e k d a) s (unary fun x => BitVec.ofNat 32 (revBits x.toNat 32))

/-- BFX.S32 (R101). -/
def execBfxS32 (e k : Bool) (d a b : Reg) (s : State) : Host.Outcome State Fault Refusal :=
  runWord (.bfxS32 e k d a b) s (binary bfxS)

/-- BFX.Z32 (R101). -/
def execBfxZ32 (e k : Bool) (d a b : Reg) (s : State) : Host.Outcome State Fault Refusal :=
  runWord (.bfxZ32 e k d a b) s (binary bfxZ)

/-- BFI (R101). -/
def execBfi (e k : Bool) (d a b : Reg) (s : State) : Host.Outcome State Fault Refusal :=
  runWord (.bfi e k d a b) s (ternary bfi)

/-- MAD.S32 (R98). -/
def execMadS32 (e k : Bool) (d a b : Reg) (s : State) : Host.Outcome State Fault Refusal :=
  runWord (.madS32 e k d a b) s (ternary fun x y z => x * y + z)

/-- MOV (R98). -/
def execMov (e k : Bool) (d a : Reg) (s : State) : Host.Outcome State Fault Refusal :=
  runWord (.mov e k d a) s (unary fun x => x)

/-- ADD.S64 (R102). -/
def execAddS64 (e k : Bool) (d a b : Reg) (s : State) : Host.Outcome State Fault Refusal :=
  runWord (.addS64 e k d a b) s (binary64 fun x y => x + y)

/-- SUB.S64 (R102). -/
def execSubS64 (e k : Bool) (d a b : Reg) (s : State) : Host.Outcome State Fault Refusal :=
  runWord (.subS64 e k d a b) s (binary64 fun x y => x - y)

/-- MUL.S64 (R102). -/
def execMulS64 (e k : Bool) (d a b : Reg) (s : State) : Host.Outcome State Fault Refusal :=
  runWord (.mulS64 e k d a b) s (binary64 fun x y => x * y)

/-- MIN.S64 (R102). -/
def execMinS64 (e k : Bool) (d a b : Reg) (s : State) : Host.Outcome State Fault Refusal :=
  runWord (.minS64 e k d a b) s (binary64 fun x y => minS x y)

/-- MAX.S64 (R102). -/
def execMaxS64 (e k : Bool) (d a b : Reg) (s : State) : Host.Outcome State Fault Refusal :=
  runWord (.maxS64 e k d a b) s (binary64 fun x y => maxS x y)

/-- MIN.Z64 (R102). -/
def execMinZ64 (e k : Bool) (d a b : Reg) (s : State) : Host.Outcome State Fault Refusal :=
  runWord (.minZ64 e k d a b) s (binary64 fun x y => minZ x y)

/-- MAX.Z64 (R102). -/
def execMaxZ64 (e k : Bool) (d a b : Reg) (s : State) : Host.Outcome State Fault Refusal :=
  runWord (.maxZ64 e k d a b) s (binary64 fun x y => maxZ x y)

/-- NEG.S64 (R102). -/
def execNegS64 (e k : Bool) (d a : Reg) (s : State) : Host.Outcome State Fault Refusal :=
  runWord (.negS64 e k d a) s (unary64 fun x => -x)

/-- SHL.B64 (R102). -/
def execShlB64 (e k : Bool) (d a b : Reg) (s : State) : Host.Outcome State Fault Refusal :=
  runWord (.shlB64 e k d a b) s (shift64 fun x y => shl x y.toNat)

/-- SHR.B64 (R102). -/
def execShrB64 (e k : Bool) (d a b : Reg) (s : State) : Host.Outcome State Fault Refusal :=
  runWord (.shrB64 e k d a b) s (shift64 fun x y => shr x y.toNat)

/-- SHRA.S64 (R102). -/
def execShraS64 (e k : Bool) (d a b : Reg) (s : State) : Host.Outcome State Fault Refusal :=
  runWord (.shraS64 e k d a b) s (shift64 fun x y => shra x y.toNat)

/-- MULH.S64 (R102). -/
def execMulhS64 (e k : Bool) (d a b : Reg) (s : State) : Host.Outcome State Fault Refusal :=
  runWord (.mulhS64 e k d a b) s (binary64 mulHighS)

/-- MULH.Z64 (R102). -/
def execMulhZ64 (e k : Bool) (d a b : Reg) (s : State) : Host.Outcome State Fault Refusal :=
  runWord (.mulhZ64 e k d a b) s (binary64 mulHighZ)

/-- ABS.S64 (R102). -/
def execAbsS64 (e k : Bool) (d a : Reg) (s : State) : Host.Outcome State Fault Refusal :=
  runWord (.absS64 e k d a) s (unary64 absS)

/-- MAD.S64 (R102). -/
def execMadS64 (e k : Bool) (d a b : Reg) (s : State) : Host.Outcome State Fault Refusal :=
  runWord (.madS64 e k d a b) s (fun c => c.write (fun l => w64 (c.pair 0 l * c.pair 1 l + c.pair 2 l)) noFlags)

/-- LEA (R104). -/
def execLea (e k : Bool) (d a b : Reg) (u : Fin 8) (s : State) : Host.Outcome State Fault Refusal :=
  runWord (.lea e k d a b u) s (shift64 fun x y => leaSum x y u.val)

/-- SEL (R105). -/
def execSel (e k : Bool) (d a b : Reg) (p : Fin 8) (s : State) : Host.Outcome State Fault Refusal :=
  runWord (.sel e k d a b p) s (fun c => c.write (fun l => w32 (if c.p p l then c.x 0 l else c.x 1 l)) noFlags)

/-- CMP (R106). -/
def execCmp32 (e : Bool) (d : Pred) (a b : Reg) (c : Cond) (s : State) : Host.Outcome State Fault Refusal :=
  runWord (.cmp32 e d a b c) s (fun q => q.writeP d (fun l => cmpBits c (q.x 0 l) (q.x 1 l)) noFlags)

/-- CMP (R106). -/
def execCmp64 (e : Bool) (d : Pred) (a b : Reg) (c : Cond) (s : State) : Host.Outcome State Fault Refusal :=
  runWord (.cmp64 e d a b c) s (fun q => q.writeP d (fun l => cmpBits c (q.pair 0 l) (q.pair 1 l)) noFlags)

/-- SHL.B32 (R100). -/
def execShlB32Imm (e k : Bool) (d a : Reg) (n : BitVec 7) (s : State) : Host.Outcome State Fault Refusal :=
  runWord (.shlB32Imm e k d a n) s (unary fun x => shl x n.toNat)

/-- SHR.B32 (R100). -/
def execShrB32Imm (e k : Bool) (d a : Reg) (n : BitVec 7) (s : State) : Host.Outcome State Fault Refusal :=
  runWord (.shrB32Imm e k d a n) s (unary fun x => shr x n.toNat)

/-- SHRA.S32 (R100). -/
def execShraS32Imm (e k : Bool) (d a : Reg) (n : BitVec 7) (s : State) : Host.Outcome State Fault Refusal :=
  runWord (.shraS32Imm e k d a n) s (unary fun x => shra x n.toNat)

/-- ROT.B32 (R100). -/
def execRotB32Imm (e k : Bool) (d a : Reg) (n : BitVec 7) (s : State) : Host.Outcome State Fault Refusal :=
  runWord (.rotB32Imm e k d a n) s (unary fun x => rot x n.toNat)

/-- SHL.B64 (R100). -/
def execShlB64Imm (e k : Bool) (d a : Reg) (n : BitVec 7) (s : State) : Host.Outcome State Fault Refusal :=
  runWord (.shlB64Imm e k d a n) s (unary64 fun x => shl x n.toNat)

/-- SHR.B64 (R100). -/
def execShrB64Imm (e k : Bool) (d a : Reg) (n : BitVec 7) (s : State) : Host.Outcome State Fault Refusal :=
  runWord (.shrB64Imm e k d a n) s (unary64 fun x => shr x n.toNat)

/-- SHRA.S64 (R100). -/
def execShraS64Imm (e k : Bool) (d a : Reg) (n : BitVec 7) (s : State) : Host.Outcome State Fault Refusal :=
  runWord (.shraS64Imm e k d a n) s (unary64 fun x => shra x n.toNat)

/-- ADD.S32 (R103). -/
def execAddS32Imm (e k : Bool) (d a : Reg) (i : BitVec 10) (s : State) : Host.Outcome State Fault Refusal :=
  runWord (.addS32Imm e k d a i) s (unary fun x => x + i.signExtend 32)

/-- MUL.S32 (R103). -/
def execMulS32Imm (e k : Bool) (d a : Reg) (i : BitVec 10) (s : State) : Host.Outcome State Fault Refusal :=
  runWord (.mulS32Imm e k d a i) s (unary fun x => x * i.signExtend 32)

/-- LDI (R103). -/
def execLdi (e k : Bool) (d : Reg) (i : BitVec 17) (s : State) : Host.Outcome State Fault Refusal :=
  runWord (.ldi e k d i) s (fun c => c.write (fun _ => w32 (i.signExtend 32)) noFlags)

/-- LDHI (R103). -/
def execLdhi (e k : Bool) (d : Reg) (i : BitVec 16) (s : State) : Host.Outcome State Fault Refusal :=
  runWord (.ldhi e k d i) s (unary fun z => i ++ z.extractLsb' 0 16)

end Sys2Proof.Machine
end

