-- ==== Sys2Proof/Machine/Teasel.lean ====
section
/-! DEFINITION. Teasel: checkpoint marks and their commits (R347 to R352), rollback at a slice end (R353), errors (R355 to
R357), kills (R346), and fences (R361 to R364). -/
namespace Sys2Proof.Machine

/-! ### Marks -/

/-- MARK_INTERVAL_TIMEOUT (R347): the partition's next mark is due. -/
def execMarkIntervalTimeout (part : Nat) (s : State) : Host.Outcome State Fault Refusal :=
  .next (modPart s part fun p => { p with markDue := true })

/-- Does a wave stand where a mark can take it: between runs, stopped, or with an instruction that waits, which is taken as it
stands (R349)? -/
def markable (w : Wave) : Bool :=
  w.finished || w.place.isNone || w.run.isNone || (if w.stepping.isSome then w.hold.isSome else !midRun w)

/-- Has a queue register no accepted command under way? One that waits only for room for its completion word stands as a waiting
wave does: its consumer is stopped (DESIGN CHOICE, log 71). -/
def registerStill (q : QReg) : Bool := q.cmds.all (fun c => c.state = .pushed) || blockedCompletion q

/-- May the partition's mark be taken: its waves stand still, no tile work, command, store or write of it is under way, and
the mark before has committed (R349)? -/
def markMay (s : State) (p : Part) : Bool :=
  let ws := s.waves.filter fun w => w.part = p.n
  markIsDue s p && p.committed && ws.all (fun w => markable w && w.stores = 0 && w.drain.isNone && w.queues.toList.all registerStill)
    && (s.groups.filter fun g => g.part = p.n).all (fun g => g.array.isEmpty && g.tiles.all fun t => t.busy = 0)
    && s.flights.all (fun f => f.part ≠ p.n)

/-- An inbound write performed at its homes, in their banks, and at every replica (R375). -/
def inboundWrite (s : State) (part : Nat) (a : Nat) (bs : List Byte) : State :=
  (iaPieces a bs.length).foldl (fun t q =>
    let xs := (bs.drop q.2.1).take q.2.2
    let t1 := llcMeet (homeWrite (markAccessed t q.1 true) noLaunch q.1 xs) (tenantOf t part) (homeDie q.1) (q.1 / 64) true
    let t2 := (List.range 4).foldl (fun u d => replicaUpdate u d (q.1 / 64) fun x => linePut x (q.1 % 64) xs) t1
    match physOf t2 q.1 with
    | some b => imageWrite t2 b xs
    | none => t2) s

/-- An inbound operation performed at step 4 of a mark: a write is acknowledged; a read's reply is held (R375). -/
def performInbound (s : State) (part : Nat) (x : Inbound) : State :=
  if x.data.isEmpty && x.len ≠ 0 then
    modPart s part fun p => { p with held := p.held ++ [.reply x.hdr (bytesOf (homeRead s x.ia.toNat x.len) x.len)] }
  else answer (inboundWrite s part x.ia.toNat x.data) (.rma x.hdr 0)

/-- Launches that waited for their start mark may dispatch, with a snapshot from now on that holds no piece yet (R347, R358). -/
def startSnapshots (s : State) (part : Nat) : State :=
  { s with launches := s.launches.map fun l =>
      if l.part = part && l.state = .running && !l.started then
        { l with started := true, snapshot := some [], copies := [], dirty := [] }
      else l }

/-- A mark taken (R349). -/
def takeMark (s : State) (p : Part) : State :=
  let s1 := ((s.waves.filter fun w => w.part = p.n).map (·.id)).foldl endScout s
  let s2 := p.inbound.foldl (fun t x => performInbound t p.n x) s1
  let s3 := modPart s2 p.n fun y =>
    { y with mark := p.mark + 1, committed := false, markDue := false, closing := y.held, held := [], inbound := [], logged := []
             inboundDone := p.inboundDone + p.inbound.length }
  let s4 := startSnapshots s3 p.n
  emitTeasel { s4 with images := s4.images ++ [imageOf s4 p.n (p.mark + 1)] } p.n 0 (p.mark + 1)

/-- CHECKPOINT_MARK (R349). -/
def execCheckpointMark (part : Nat) (s : State) : Host.Outcome State Fault Refusal :=
  .next (match findPart s part with
    | some p => if markMay s p then takeMark s p else s
    | none => s)

/-! ### Commits -/

/-- An outbound effect released; a send to a fenced endpoint is dropped and counted (R350, R364). -/
def releaseSend (s : State) (tenant : Nat) (x : Outbound) : State :=
  match x with
  | .write e _ _ _ => if s.fences.contains (.peer tenant e) then { s with dropped := s.dropped + 1 } else sendFor s tenant x
  | .reply .. | .notice _ | .read .. => sendFor s tenant x

/-- Had an entry of the partition completed at its mark? -/
def endedAt (i : MarkImage) (q : Nat) (x : Ended) : Bool :=
  match i.queues.find? fun y => y.n = q with
  | some y => x.part = some i.part && y.done.any fun z => z.seq = x.seq
  | none => false

/-- The entries of a partition that completed before its mark are committed. -/
def commitEntries (s : State) (i : MarkImage) : State :=
  { s with queues := s.queues.map fun q =>
      { q with done := q.done.map fun x => if endedAt i q.n x then { x with committed := true } else x } }

/-- A mark commits (R350). -/
def commitMark (s : State) (p : Part) : State :=
  let s1 := p.closing.foldl (fun t x => releaseSend t p.desc.tenant.toNat x) s
  let s2 := modPart s1 p.n fun y => { y with closing := [], committed := true }
  let s3 := match s2.images.find? fun i => i.part = p.n && i.mark = p.mark with
    | some i => commitEntries s2 i
    | none => s2
  let s4 := moveAllReserved (s3.queues.foldl (fun t q => advanceHead q.done.length t q.n) s3)
  emitTeasel { s4 with images := s4.images.filter fun i => i.part ≠ p.n || p.mark ≤ i.mark } p.n 1 p.mark

/-- MARK_COMMIT (R350). -/
def execMarkCommit (part : Nat) (s : State) : Host.Outcome State Fault Refusal :=
  .next (match findPart s part with
    | some p => if p.committed then s else commitMark s p
    | none => s)

/-! ### Rollback, errors, kills -/

/-- SLICE_END (R353). -/
def execSliceEnd (part : Nat) (s : State) : Host.Outcome State Fault Refusal := .next (rollback s part)

/-- The lines (physical address / 64) whose metadata words stand in a line of the metadata carve-out (R314). -/
def carvedLines (a : Nat) : List Nat :=
  let x := a % Config.channelBytes - Config.frameBytes
  (List.range 32).map fun k => a / Config.channelBytes * (Config.channelBytes / 64) + 32 * (x / 64) + k

/-- An uncorrected error in a stored value (R355): poison, or the loss of a copy, or a rollback. -/
def strike (s : State) (x : ErrorSite) : State :=
  match x with
  | .memory a =>
    if a % Config.channelBytes < Config.frameBytes then { s with poisonMem := distinct (a / 64 :: s.poisonMem) }
    else { s with poisonMeta := distinct (carvedLines a ++ s.poisonMeta) }
  | .l1 d c line => l1DropLine s d c line
  | .register w l r => { s with poisonReg := distinct ((w, l.val, r) :: s.poisonReg) }
  | .abuf g off => { s with poisonBuf := distinct ((g, 0, off / 4) :: s.poisonBuf) }
  | .wbuf g off => { s with poisonBuf := distinct ((g, 1, off / 4) :: s.poisonBuf) }
  | .cbuf g off => { s with poisonBuf := distinct ((g, 2, off / 4) :: s.poisonBuf) }
  | .pageTable _ => s
  | .replica d line => replicaUpdate s d line fun y => { y with poison := true }
  | .context g => if (findGroup s g).any fun y => y.context.isSome then { s with poisonCtx := distinct (g :: s.poisonCtx) } else s
  | .partStructure p => rollback s p

/-- SOFT_ERROR (R355, R356): a corrected error is counted, and has no other effect. -/
def execSoftError (site : ErrorSite) (corrected : Bool) (s : State) : Host.Outcome State Fault Refusal :=
  .next (if corrected then answer { s with corrected := s.corrected + 1 } (.corrected site) else strike s site)

/-- UNCORRECTABLE (R357): the launch consumes an error in a thread and a structure (R342). -/
def execUncorrectable (x : Consumed) (s : State) : Host.Outcome State Fault Refusal :=
  .next (consumeError s x.launch x.name x.spn x.what)

/-- LAUNCH_KILL (R346). -/
def execLaunchKill (launch : DWord) (s : State) : Host.Outcome State Fault Refusal := .next (killLaunch s launch)

/-! ### Fences (R361 to R364) -/

/-- Is there such a part: 4 boundaries of 8 links, 16 ports, 4 routers, 64 tenants, 384 channels (R361, R366, R369, R371)? -/
def partExists (f : FenceId) : Bool :=
  match f with
  | .boundaryLink b l => b < 4 && l < 8
  | .portLink p => p < 16
  | .router d => d < 4
  | .peer t _ => t < 64
  | .channel n => n < 384

/-- The level of a fence, and the number of the part it names in a FENCE record (log 26). A channel is fenced only as the module
boots, with no session to hear of it (R402). -/
def fenceLevel (f : FenceId) : Nat :=
  match f with
  | .boundaryLink _ _ | .portLink _ | .channel _ => 0
  | .router _ => 1
  | .peer _ _ => 2
def fencePart (f : FenceId) : Nat :=
  match f with
  | .portLink p => p
  | .boundaryLink b l => 16 + 8 * b + l
  | .channel n => 48 + n
  | .router d => d
  | .peer _ e => e.toNat

/-- Does a session hear of a fence: every one of a module part, a tenant's own of a peer? -/
def fenceHeard (s : State) (f : FenceId) (x : Session) : Bool :=
  match f with
  | .peer t _ => tenantOf s x.part = t
  | .boundaryLink _ _ | .portLink _ | .router _ | .channel _ => true

/-- Is a forced clock break in force on the die that a fenced part belongs to: boundary and router d to die d (R366, R401)? -/
def fenceBroken (s : State) (f : FenceId) : Bool :=
  match f with
  | .boundaryLink d _ | .router d => (dieAt s d).broken
  | .portLink _ | .peer _ _ | .channel _ => false

/-- A part fenced: its record, and the event to Sweolo. -/
def fence (s : State) (f : FenceId) : State :=
  if s.fences.contains f || !partExists f then s
  else
    let r := plainRec 0x0C 0 (fld (fenceLevel f) 0 2 + fld (fencePart f) 32 32) (fenceBroken s f)
    let s1 := (s.sessions.filter (fenceHeard s f)).foldl (fun t x => emit t x.part r) { s with fences := s.fences ++ [f] }
    answer s1 (.event f)

/-- The boundaries crossed from one die to another round the ring, upwards and downwards: boundary d joins die d and die d + 1
(R366). -/
def upwards (o h : Nat) : List Nat := (List.range ((h + 4 - o) % 4)).map fun k => (o + k) % 4
def downwards (o h : Nat) : List Nat := (List.range ((o + 4 - h) % 4)).map fun k => (o + 3 - k) % 4

/-- The way of traffic between two dies (R366): across their boundary where they are adjacent, between d and d + 2 through d + 1;
the other way round where the router of a boundary on that way is fenced; none where both ways are cut (R363). -/
def route (s : State) (o h : Nat) : Option (List Nat) :=
  let up (w : List Nat) : Bool := w.all fun b => !s.fences.contains (.router b)
  let first := if (h + 4 - o) % 4 ≤ 2 then upwards o h else downwards o h
  let other := if (h + 4 - o) % 4 ≤ 2 then downwards o h else upwards o h
  if up first then some first else if up other then some other else none

/-- Are the dies split: is there a pair of them with no way left (R363)? -/
def diesSplit (s : State) : Bool := (List.range 4).any fun o => (List.range 4).any fun h => (route s o h).isNone

/-- The links of a boundary that carry its traffic: each fenced one takes an eighth of its bandwidth (R362, R366). -/
def linksUp (s : State) (boundary : Nat) : Nat := ((List.range 8).filter fun l => !s.fences.contains (.boundaryLink boundary l)).length

/-- LINK_TIMEOUT (R361, R362). -/
def execLinkTimeout (part : FenceId) (s : State) : Host.Outcome State Fault Refusal :=
  .next (match part with
    | .boundaryLink _ _ | .portLink _ => fence s part
    | .router _ | .peer _ _ | .channel _ => s)

/-- SWITCH_TIMEOUT (R361, R363): a fence that splits the dies rolls every partition back; the module stops and Sweolo reports it. -/
def execSwitchTimeout (die : Nat) (s : State) : Host.Outcome State Fault Refusal :=
  let s1 := fence s (.router die)
  .next (if diesSplit s1 && !diesSplit s then answer ((s1.parts.map (·.n)).foldl rollback s1) .split else s1)

/-- PEER_TIMEOUT (R361, R364). -/
def execPeerTimeout (tenant : Nat) (endpoint : Word) (s : State) : Host.Outcome State Fault Refusal :=
  .next (fence s (.peer tenant endpoint))

/-- FENCE_LIFT (R361). -/
def execFenceLift (part : FenceId) (s : State) : Host.Outcome State Fault Refusal :=
  .next { s with fences := s.fences.erase part }

end Sys2Proof.Machine
end

