-- ==== Sys2Proof/Machine/Module.lean ====
section
/-! DEFINITION. The module as a whole: operating points and power (R405 to R409), reset, boot and firmware (R382, R402 to
R404), attestation (R383, R384), and what else reaches it from outside (R360, R368, R369). -/
namespace Sys2Proof.Machine

/-! ### Operating points and power -/

/-- OPERATING_POINT_CHANGE (R406, R407): Sweolo finds the highest point within the limits, and a die that no lock holds runs at
it. -/
def execOperatingPointChange (die : Nat) (found : Forecast) (s : State) : Host.Outcome State Fault Refusal :=
  let k := highestPoint s found
  .next (if (dieAt s die).lock.isNone then modDie s die fun x => { x with point := k, limit := k } else s)

/-- POWER_LIMIT_SET (R408): from 1,200 W up to the module's own limit. -/
def execPowerLimitSet (watts : Nat) (s : State) : Host.Outcome State Fault Refusal :=
  .next (if 1200 ≤ watts && watts ≤ Config.powerLimit then { s with sweolo := { s.sweolo with powerLimit := watts } } else refuse s 408)

/-- TELEMETRY_REPORT (R408). -/
def execTelemetryReport (r : Readings) (s : State) : Host.Outcome State Fault Refusal := .next (answer s (.telemetry r))

/-- Does a reading shut the module down (R409)? -/
def shutsDown (c : ThermalCause) : Bool :=
  match c with
  | .dieTemp _ t => 115 ≤ t
  | .inletTemp t => 55 < t
  | .flow q ms => q < 1000 && 100 ≤ ms

/-- THERMAL_SHUTDOWN (R409): nothing runs until the next module reset. -/
def execThermalShutdown (cause : ThermalCause) (s : State) : Host.Outcome State Fault Refusal :=
  .next (if shutsDown cause then { s with cur := none, sweolo := { s.sweolo with shutdown := some cause, report := some cause } } else s)

/-! ### Boot (R382, R402 to R404) -/

/-- Does an image verify (R382)? -/
def imageOk (f : Firmware) (x : Image) : Bool :=
  x.sigOk && !f.revoked.get x.root && decide ((f.counters.get x.which).val ≤ x.version)

/-- The image that boots: that of the active copy, else that of the other (R403). -/
def bootImage (f : Firmware) (k : Fin 3) : Option Image :=
  let (x, y) := if f.activeA.get k then (f.a.get k, f.b.get k) else (f.b.get k, f.a.get k)
  match x.filter (imageOk f) with
  | some i => some i
  | none => y.filter (imageOk f)

/-- A counter moved up to a version, at most to the last of its 64 steps (R382, R404; DESIGN CHOICE, log 92). -/
def counterTo (c : Fin 65) (version : Nat) : Fin 65 := Fin.ofNat 65 (max c.val (min version 64))

/-- Every image that has booted once moves its counter up to its version (R404). -/
def advanceCounters (f : Firmware) : Firmware :=
  { f with
    counters := Vector.ofFn fun k =>
      if f.fresh.get k then (match bootImage f k with | some i => counterTo (f.counters.get k) i.version | none => f.counters.get k)
      else f.counters.get k
    fresh := #v[false, false, false] }

/-- The step of R402 that fails: 1, 3 or 4 where an image does not verify, 2 where the key slot or the protected region fails;
none where the module boots. -/
def failingStep (f : Firmware) (x : BootFailures) : Option Nat :=
  if (bootImage f 0).isNone then some 1
  else if x.step2 then some 2
  else if (bootImage f 1).isNone then some 3
  else if (bootImage f 2).isNone then some 4
  else none

/-- The images that are loaded before a step fails (R402). -/
def loadedImages (f : Firmware) (step : Option Nat) : Vector (Option Image) 3 :=
  Vector.ofFn fun k => match step with
    | none => bootImage f k
    | some n => if (if k = 0 then 1 else k.val + 2) < n then bootImage f k else none

/-- The module in recovery after a step of R402: what the steps before it have done, and nothing more. Key slot 0 is filled and the
protected region zero from step 2 on; the frames, which step 4 zeroes, keep what they held. -/
def recover (s base : State) (step : Nat) : State :=
  let f := s.sweolo.firmware
  { base with
    mem := s.mem, lineKeys := s.lineKeys, protect := if step ≤ 2 then s.protect else base.protect
    sweolo := { base.sweolo with firmware := f, recovery := true, loaded := loadedImages f (some step)
                                 keySlots := if step ≤ 2 then [] else [(0, 0)], report := s.sweolo.report, out := s.sweolo.out } }

/-- The module after a reset: ready, or in recovery (R402, R403). What the environment has planned, and the counters of
free values and numbers, are the model's own and go on. A shutdown is reported at step 5 (R409). -/
def resetModule (s : State) (failed : BootFailures) : State :=
  let f := s.sweolo.firmware
  let parts := failed.parts.filter partExists
  let base : State := { State.reset with agenda := s.agenda, free := s.free, fresh := s.fresh }
  match failingStep f failed with
  | none =>
    { base with
      fences := parts
      sweolo := { base.sweolo with
        firmware := advanceCounters f, loaded := loadedImages f none
        out := s.sweolo.out ++ parts.map Output.event ++ s.sweolo.report.toList.map Output.shutdown ++ [.ready] } }
  | some n => recover s base n

/-- MODULE_RESET (R402): every cause brings the module through the same steps. -/
def execModuleReset (_ : ResetCause) (failed : BootFailures) (s : State) : Host.Outcome State Fault Refusal :=
  .next (resetModule s failed)

/-- A verified image written to the inactive copy and marked active; the images that run stay as they are (R404). -/
def writeImage (f : Firmware) (x : Image) : Firmware :=
  let k := x.which
  let toB := f.activeA.get k
  let g := if toB then { f with b := f.b.set k.val (some x) k.isLt } else { f with a := f.a.set k.val (some x) k.isLt }
  { g with activeA := g.activeA.set k.val (!toB) k.isLt, fresh := g.fresh.set k.val true k.isLt }

/-- IMAGE_UPDATE (R404): one that does not verify is refused and changes nothing (R411). -/
def execImageUpdate (image : Image) (s : State) : Host.Outcome State Fault Refusal :=
  .next (if imageOk s.sweolo.firmware image then { s with sweolo := { s.sweolo with firmware := writeImage s.sweolo.firmware image } }
    else refuse s 404)

/-! ### Attestation (R383, R384) -/

/-- An answer over an I/O die that is up: the kind of message, and bytes that the spec does not give. -/
def spdm (s : State) (io : Fin 2) (kind arg : Nat) : State :=
  if s.ioDead.contains io.val then s else answer s (.spdm io kind (Config.spdmValue kind arg))

/-- GET_VERSION (R383). -/
def execGetVersion (io : Fin 2) (s : State) : Host.Outcome State Fault Refusal := .next (spdm s io 0 0)
/-- GET_CAPABILITIES (R383). -/
def execGetCapabilities (io : Fin 2) (s : State) : Host.Outcome State Fault Refusal := .next (spdm s io 1 0)
/-- NEGOTIATE_ALGORITHMS (R383): ML-DSA-87 as an extended asymmetric algorithm, SHA3-512 as the base hash. -/
def execNegotiateAlgorithms (io : Fin 2) (s : State) : Host.Outcome State Fault Refusal :=
  .next (if s.ioDead.contains io.val then s else answer s (.algorithms io .mlDsa87 .sha3_512 (Config.spdmValue 2 0)))
/-- GET_DIGESTS (R383). -/
def execGetDigests (io : Fin 2) (s : State) : Host.Outcome State Fault Refusal := .next (spdm s io 3 0)
/-- GET_CERTIFICATE (R383). -/
def execGetCertificate (io : Fin 2) (s : State) : Host.Outcome State Fault Refusal := .next (spdm s io 4 0)
/-- The signature of a challenge: 4,627 bytes (R383). -/
def signature (nonce : Nat) : List Byte := (List.range 4627).map (Config.signatureByte nonce)

/-- CHALLENGE (R383): signed. -/
def execChallenge (io : Fin 2) (nonce : Nat) (s : State) : Host.Outcome State Fault Refusal :=
  .next (if s.ioDead.contains io.val then s else answer s (.spdm io 5 (Config.spdmValue 5 nonce ++ signature nonce)))

/-- What a measurement of an image that runs hashes (R384, R404). -/
def imageText (s : State) (k : Fin 3) : List Nat :=
  match s.sweolo.loaded.get k with
  | some i => [1, i.which.val, i.version, i.root.val, i.sigOk.toNat]
  | none => [0]

/-- The bits of a partition descriptor (R376). -/
def descBits (d : PartDesc) : Nat :=
  fld d.v.toNat 0 1 + fld d.tenant.toNat 1 6 + fld d.savei.toNat 16 10 + fld d.marki.toNat 26 9 + fld d.clusters.toNat 64 64
    + fld d.owned.toNat 128 64 + fld d.banks.toNat 192 256 + fld d.channels.toNat 448 384 + fld d.engines.toNat 832 24

/-- What identifies a range register (R295). -/
def rangeBits (r : RangeReg) : List Nat :=
  [r.v.toNat, r.rp.toNat, r.wp.toNat, r.xp.toNat, r.remote.toNat, r.vbase.toNat, r.vlast.toNat, r.iabase.toNat]

/-- The tree below a table, `n` levels deep: its entries with AB, DB and RES cleared, depth first, in ascending index (R384). -/
def treeText (s : State) : Nat → Nat → List Nat
  | 0, _ => []
  | n + 1, table =>
    let l : Fin 4 := Fin.ofNat 4 (3 - n)
    (List.range (tableEntries l)).flatMap fun k =>
      let e := protectGet s (table + 8 * k)
      (e &&& ~~~0xC4#64).toNat :: (if entryOk l e && !entryLeaf e then treeText s n (entryTable e) else [])

/-- What a tenant-table entry holds (R371). -/
def tenantBits (e : TenantEntry) : List Nat :=
  [e.v.toNat, e.keyix.toNat, e.job.toNat, e.sdi.toNat, e.parts.toNat, e.qmap.toNat]

/-- The measured text of a block, none for an index that has no block (R384, log 28). -/
def measured (s : State) (index : Nat) : Option (List Nat) :=
  let f := s.sweolo.firmware
  if index = 1 then some (imageText s 0)
  else if index = 2 then some (imageText s 1)
  else if index = 3 then some (imageText s 2)
  else if index = 4 then some ((List.finRange 4).map (fun k => (Config.rootDigest k).toNat) ++ f.revoked.toList.map Bool.toNat ++ f.counters.toList.map (·.val))
  else if index = 5 then some (s.tenants.toList.flatMap tenantBits ++ (List.range 64).map fun n => descBits (descOf s n))
  else if 0x40 ≤ index && index < 0x80 then
    some (descBits (descOf s (index - 0x40)) :: match findPart s (index - 0x40) with
      | some p => p.ranges.toList.flatMap rangeBits ++ treeText s 4 p.root
      | none => (List.replicate 16 (default : RangeReg)).flatMap rangeBits)
  else none

/-- May a requester see the block of a partition (R384)? -/
def maySee (s : State) (who : Requester) (index : Nat) : Bool :=
  index < 0x40 || match who with
    | .management => true
    | .domain d => (findPart s (index - 0x40)).isSome
        && (s.tenants.get (Fin.ofNat 64 (descOf s (index - 0x40)).tenant.toNat)).sdi = d

/-- GET_MEASUREMENTS (R384): a digest, or an empty block. -/
def execGetMeasurements (io : Fin 2) (who : Requester) (index : Nat) (s : State) : Host.Outcome State Fault Refusal :=
  .next (if s.ioDead.contains io.val then s
    else answer s (.measurement io index (if maySee s who index then (measured s index).map Config.sha3_512 else none)))

/-- Requests that are not supported (R383): UnsupportedRequest. -/
def execSpdmUnsupportedRequest (io : Fin 2) (request : Byte) (s : State) : Host.Outcome State Fault Refusal :=
  .next (spdm s io 7 request.toNat)

/-! ### From outside -/

/-- COMPLETION_NOTICE (R360): the keys of the launch are forgotten. -/
def execCompletionNotice (origin : Word) (launch : DWord) (s : State) : Host.Outcome State Fault Refusal :=
  .next { s with keys := s.keys.filter fun k => !(k.origin = origin && k.launch = launch) }

/-- IO_DIE_FAILURE (R365, R368): the other I/O die goes on with the tables, the held buffers and the management job. -/
def execIoDieFailure (io : Fin 2) (s : State) : Host.Outcome State Fault Refusal :=
  .next { s with ioDead := distinct (s.ioDead ++ [io.val]) }

/-- UNSUPPORTED_PACKET (R369). -/
def execUnsupportedPacket (kind : BadPacket) (s : State) : Host.Outcome State Fault Refusal :=
  .next (match kind with
    | .rudi | .uud | .unsecured => { s with dropped := s.dropped + 1 }
    | .atomic => answer s .malformed)

/-! ### What a stopped module still does -/

/-- Is the module stopped: shut down (R409), in recovery (R403), or split by a second router fence (R363)? -/
def halted (s : State) : Bool := s.sweolo.shutdown.isSome || s.sweolo.recovery || diesSplit s

/-- Is a row an SPDM message (R383)? -/
def isSpdm (i : Instr) : Bool :=
  match i with
  | .getVersion _ | .getCapabilities _ | .negotiateAlgorithms _ | .getDigests _ | .getCertificate _ | .challenge _ _
  | .getMeasurements _ _ _ | .spdmUnsupportedRequest _ _ => true
  | _ => false

/-- Does a stopped module take a row: a reset always, a shutdown unless it is shut down (R409); in recovery SPDM and image writes
(R403); after a split, the management job (R363). -/
def takesHalted (s : State) (i : Instr) : Bool :=
  match i with
  | .moduleReset _ _ => true
  | .imageUpdate _ | .thermalShutdown _ => s.sweolo.shutdown.isNone
  | .telemetryReport _ | .fenceLift _ | .waveDump _ | .traceAck _ _ | .powerLimitSet _ | .ioDieFailure _ =>
    s.sweolo.shutdown.isNone && !s.sweolo.recovery
  | _ => s.sweolo.shutdown.isNone && isSpdm i

/-- Does a row not reach the module: an instruction word, which comes only by a fetch; what a stopped module does not take; a
request while neither I/O die has a management job to bring it (R368, R410)? -/
def unheard (s : State) (i : Instr) : Bool :=
  i.shape.isSome || (halted s && !takesHalted s i) || (isRequest i && s.ioDead.contains 0 && s.ioDead.contains 1)

/-- Does a request that arrives wait behind those that are pending (R411)? -/
def queuesUp (s : State) (i : Instr) : Bool := isRequest i && !halted s && !s.sweolo.pending.isEmpty

end Sys2Proof.Machine
end

