-- ==== Sys2Proof/Machine/Monitor.lean ====
section
/-! DEFINITION. Monitor requests, grants and releases as they reach their homes and their lanes (R277 to R284). -/
namespace Sys2Proof.Machine

/-- A request message served at its home, lane by lane (R278). -/
def serveRequest (s : State) (n : Nat) : State :=
  match s.requests[n]? with
  | none => s
  | some r => r.lanes.foldl (fun t x => campionRequest t r.tenant r.wave x) { s with requests := s.requests.eraseIdx n }

/-- MONITOR_REQUEST (R277). -/
def execMonitorRequest (n : Nat) (s : State) : Host.Outcome State Fault Refusal := .next (serveRequest s n)

/-- A grant on its way to a lane whose die counts its clock (R277, R267). -/
def grantFor (s : State) (wid : Nat) (l : Lane) : Option Grant :=
  s.grants.find? fun g => g.wave = wid && g.lane = l && match findWave s wid with
    | some w => match w.place with
      | some p => clockCounts (clockOf s p.die) g.clock
      | none => true
    | none => true

/-- A grant delivered (R279). -/
def grantLane (s : State) (wid : Nat) (l : Lane) : State :=
  match grantFor s wid l with
  | none => s
  | some g => deliverGrant { s with grants := s.grants.erase g } g

/-- MONITOR_GRANT (R279). -/
def execMonitorGrant (wave : Nat) (lane : Lane) (s : State) : Host.Outcome State Fault Refusal := .next (grantLane s wave lane)

/-- Is a command that the lane pushed, and that touches a granule of the colour, still to complete (R282, R284)? -/
def commandHolds (s : State) (w : Wave) (l : Lane) (k : BitVec 6) : Bool :=
  match findGroup s w.group with
  | none => false
  | some g => w.queues.toList.any fun q => q.cmds.any fun c => c.lane = l && commandTouches s w g c k

/-- May the wave's releases be sent: stores acknowledged, loads returned, commands done, and the homes counting the clock
that is sent (R282, R159, R263)? -/
def releaseMay (s : State) (w : Wave) : Bool :=
  !w.release.isEmpty && w.stores = 0 && w.pend.isEmpty
    && (w.release.all fun x => !commandHolds s w x.1 x.2 && clockCounts (clockOf s (colourHome x.2)) (waveClock s w))

/-- A lane's entry of a colour gone, unless CWAIT has suspended it (R282, R283). -/
def dropHeld (w : Wave) (l : Lane) (k : BitVec 6) : Wave :=
  modLane w l fun x => { x with held := x.held.filter fun h => h.colour ≠ k || h.suspended }

/-- The releases of a wave sent together (R282). -/
def sendReleases (s : State) (wid : Nat) : State :=
  match findWave s wid with
  | none => s
  | some w =>
    if !releaseMay s w then s
    else
      let s1 := modWave s wid fun v => w.release.foldl (fun v x => dropHeld v x.1 x.2) { v with release := [] }
      tryFinish (w.release.foldl (fun t x => campionRelease t (tenantOf t w.part) wid x.1 x.2 (waveClock s w)) s1) wid

/-- MONITOR_RELEASE (R282). -/
def execMonitorRelease (wave : Nat) (s : State) : Host.Outcome State Fault Refusal := .next (sendReleases s wave)

end Sys2Proof.Machine
end

