-- ==== Sys2Proof/Machine/Queues.lean ====
section
/-! DEFINITION. QBIND and QSTAT (R211, R214). -/
namespace Sys2Proof.Machine

/-- Does a partition own an engine of a die (R211, R376)? -/
def ownsEngine (s : State) (part die : Nat) (g : Eng) (i : Nat) : Bool :=
  match findPart s part with
  | none => false
  | some p =>
    match g with
    | .copy => p.desc.engines.getLsbD (6 * die + i)
    | .gather => p.desc.engines.getLsbD (6 * die + 4)
    | .coll => p.desc.engines.getLsbD (6 * die + 5)
    | .drain => true

/-- Does a queue register hold part of a command, a command, or a completion? -/
def qBusy (q : QReg) : Bool := q.part.isSome || !q.cmds.isEmpty || !q.done.isEmpty

/-- QBIND for the wave (R211). -/
def bindQueue (c : Ctx) (k : Fin 8) (g : Eng) (i : Nat) : Res :=
  let q := c.w.queues.get k
  let die := match c.w.place with | some p => p.die | none => 0
  if q.bound = some (g, i) then c.done c.s
  else if !ownsEngine c.s c.w.part die g i then c.trap .perm c.exec 0
  else if qBusy q then c.trap .engine c.exec 0
  else c.done (modWave c.s c.w.id fun w => { w with queues := w.queues.set k.val { q with bound := some (g, i) } k.isLt })

/-- QBIND (R211). -/
def execQbind (e : Bool) (q : Fin 8) (g i : BitVec 3) (s : State) : Host.Outcome State Fault Refusal :=
  issue (.qbind e q g i) s scoutEnds fun c =>
    match Eng.ofCode? g.toNat with
    | some k => bindQueue c q k i.toNat
    | none => c.trap .illegalOp c.exec (c.r.pc.zeroExtend 64)

/-- The state of a queue register as QSTAT reads it (R214). -/
def queueStatus (q : QReg) : Word :=
  match q.bound with
  | none => 7
  | some (g, i) =>
    BitVec.ofNat 32 (g.code + 8 * i + 256 * (match q.part with | some c => c.words.length | none => 0)
      + 2 ^ 12 * q.cmds.length + 2 ^ 19 * q.done.length + 2 ^ 24 * (Config.commandWords - usedWords q))

/-- QSTAT (R214). -/
def execQstat (e k : Bool) (q : Fin 8) (d : Reg) (s : State) : Host.Outcome State Fault Refusal :=
  issue (.qstat e k q d) s scoutEnds fun c => c.write (fun _ => w32 (queueStatus (c.w.queues.get q))) (fun _ => 0)

end Sys2Proof.Machine
end

