-- ==== Sys2Proof/Machine/Dispatch.lean ====
section
/-! DEFINITION. What each instruction does: one direct call of its meaning per constructor. -/
namespace Sys2Proof.Machine

def exec (i : Instr) (s : State) : Host.Outcome State Fault Refusal :=
  match i with
  | .addS32 e k d a b => Sys2Proof.Machine.execAddS32 e k d a b s
  | .subS32 e k d a b => Sys2Proof.Machine.execSubS32 e k d a b s
  | .mulS32 e k d a b => Sys2Proof.Machine.execMulS32 e k d a b s
  | .mulhS32 e k d a b => Sys2Proof.Machine.execMulhS32 e k d a b s
  | .mulhZ32 e k d a b => Sys2Proof.Machine.execMulhZ32 e k d a b s
  | .minS32 e k d a b => Sys2Proof.Machine.execMinS32 e k d a b s
  | .maxS32 e k d a b => Sys2Proof.Machine.execMaxS32 e k d a b s
  | .minZ32 e k d a b => Sys2Proof.Machine.execMinZ32 e k d a b s
  | .maxZ32 e k d a b => Sys2Proof.Machine.execMaxZ32 e k d a b s
  | .divS32 e k d a b => Sys2Proof.Machine.execDivS32 e k d a b s
  | .divZ32 e k d a b => Sys2Proof.Machine.execDivZ32 e k d a b s
  | .remS32 e k d a b => Sys2Proof.Machine.execRemS32 e k d a b s
  | .remZ32 e k d a b => Sys2Proof.Machine.execRemZ32 e k d a b s
  | .absS32 e k d a => Sys2Proof.Machine.execAbsS32 e k d a s
  | .negS32 e k d a => Sys2Proof.Machine.execNegS32 e k d a s
  | .popc e k d a => Sys2Proof.Machine.execPopc e k d a s
  | .andB32 e k d a b => Sys2Proof.Machine.execAndB32 e k d a b s
  | .orB32 e k d a b => Sys2Proof.Machine.execOrB32 e k d a b s
  | .xorB32 e k d a b => Sys2Proof.Machine.execXorB32 e k d a b s
  | .andnB32 e k d a b => Sys2Proof.Machine.execAndnB32 e k d a b s
  | .shlB32 e k d a b => Sys2Proof.Machine.execShlB32 e k d a b s
  | .shrB32 e k d a b => Sys2Proof.Machine.execShrB32 e k d a b s
  | .shraS32 e k d a b => Sys2Proof.Machine.execShraS32 e k d a b s
  | .rotB32 e k d a b => Sys2Proof.Machine.execRotB32 e k d a b s
  | .clz e k d a => Sys2Proof.Machine.execClz e k d a s
  | .brev e k d a => Sys2Proof.Machine.execBrev e k d a s
  | .bfxS32 e k d a b => Sys2Proof.Machine.execBfxS32 e k d a b s
  | .bfxZ32 e k d a b => Sys2Proof.Machine.execBfxZ32 e k d a b s
  | .bfi e k d a b => Sys2Proof.Machine.execBfi e k d a b s
  | .madS32 e k d a b => Sys2Proof.Machine.execMadS32 e k d a b s
  | .mov e k d a => Sys2Proof.Machine.execMov e k d a s
  | .addS64 e k d a b => Sys2Proof.Machine.execAddS64 e k d a b s
  | .subS64 e k d a b => Sys2Proof.Machine.execSubS64 e k d a b s
  | .mulS64 e k d a b => Sys2Proof.Machine.execMulS64 e k d a b s
  | .minS64 e k d a b => Sys2Proof.Machine.execMinS64 e k d a b s
  | .maxS64 e k d a b => Sys2Proof.Machine.execMaxS64 e k d a b s
  | .minZ64 e k d a b => Sys2Proof.Machine.execMinZ64 e k d a b s
  | .maxZ64 e k d a b => Sys2Proof.Machine.execMaxZ64 e k d a b s
  | .negS64 e k d a => Sys2Proof.Machine.execNegS64 e k d a s
  | .shlB64 e k d a b => Sys2Proof.Machine.execShlB64 e k d a b s
  | .shrB64 e k d a b => Sys2Proof.Machine.execShrB64 e k d a b s
  | .shraS64 e k d a b => Sys2Proof.Machine.execShraS64 e k d a b s
  | .mulhS64 e k d a b => Sys2Proof.Machine.execMulhS64 e k d a b s
  | .mulhZ64 e k d a b => Sys2Proof.Machine.execMulhZ64 e k d a b s
  | .absS64 e k d a => Sys2Proof.Machine.execAbsS64 e k d a s
  | .madS64 e k d a b => Sys2Proof.Machine.execMadS64 e k d a b s
  | .lea e k d a b u => Sys2Proof.Machine.execLea e k d a b u s
  | .sel e k d a b p => Sys2Proof.Machine.execSel e k d a b p s
  | .cmp32 e d a b c => Sys2Proof.Machine.execCmp32 e d a b c s
  | .cmp64 e d a b c => Sys2Proof.Machine.execCmp64 e d a b c s
  | .shlB32Imm e k d a n => Sys2Proof.Machine.execShlB32Imm e k d a n s
  | .shrB32Imm e k d a n => Sys2Proof.Machine.execShrB32Imm e k d a n s
  | .shraS32Imm e k d a n => Sys2Proof.Machine.execShraS32Imm e k d a n s
  | .rotB32Imm e k d a n => Sys2Proof.Machine.execRotB32Imm e k d a n s
  | .shlB64Imm e k d a n => Sys2Proof.Machine.execShlB64Imm e k d a n s
  | .shrB64Imm e k d a n => Sys2Proof.Machine.execShrB64Imm e k d a n s
  | .shraS64Imm e k d a n => Sys2Proof.Machine.execShraS64Imm e k d a n s
  | .addS32Imm e k d a n => Sys2Proof.Machine.execAddS32Imm e k d a n s
  | .mulS32Imm e k d a n => Sys2Proof.Machine.execMulS32Imm e k d a n s
  | .ldi e k d n => Sys2Proof.Machine.execLdi e k d n s
  | .ldhi e k d n => Sys2Proof.Machine.execLdhi e k d n s
  | .fadd e k d a b r => Sys2Proof.Machine.execFadd e k d a b r s
  | .fsub e k d a b r => Sys2Proof.Machine.execFsub e k d a b r s
  | .fmul e k d a b r => Sys2Proof.Machine.execFmul e k d a b r s
  | .ffma e k d a b r => Sys2Proof.Machine.execFfma e k d a b r s
  | .fmin e k d a b => Sys2Proof.Machine.execFmin e k d a b s
  | .fmax e k d a b => Sys2Proof.Machine.execFmax e k d a b s
  | .frcp e k d a => Sys2Proof.Machine.execFrcp e k d a s
  | .frsq e k d a => Sys2Proof.Machine.execFrsq e k d a s
  | .fsqrt e k d a => Sys2Proof.Machine.execFsqrt e k d a s
  | .fexp2 e k d a => Sys2Proof.Machine.execFexp2 e k d a s
  | .flog2 e k d a => Sys2Proof.Machine.execFlog2 e k d a s
  | .fsinpi e k d a => Sys2Proof.Machine.execFsinpi e k d a s
  | .fcospi e k d a => Sys2Proof.Machine.execFcospi e k d a s
  | .fclass e k d a => Sys2Proof.Machine.execFclass e k d a s
  | .hadd2 e k d a b => Sys2Proof.Machine.execHadd2 e k d a b s
  | .hmul2 e k d a b => Sys2Proof.Machine.execHmul2 e k d a b s
  | .hfma2 e k d a b => Sys2Proof.Machine.execHfma2 e k d a b s
  | .dot4S8 e k d a b => Sys2Proof.Machine.execDot4S8 e k d a b s
  | .dot4Z8 e k d a b => Sys2Proof.Machine.execDot4Z8 e k d a b s
  | .fcmp e d a b c => Sys2Proof.Machine.execFcmp e d a b c s
  | .cvt e k d a f r u => Sys2Proof.Machine.execCvt e k d a f r u s
  | .cvtFloatSource e k d a f r u => Sys2Proof.Machine.execCvtFloatSource e k d a f r u s
  | .frnd e k d a r => Sys2Proof.Machine.execFrnd e k d a r s
  | .shfl e k d a b m => Sys2Proof.Machine.execShfl e k d a b m s
  | .voteAny e d a => Sys2Proof.Machine.execVoteAny e d a s
  | .voteAll e d a => Sys2Proof.Machine.execVoteAll e d a s
  | .voteBallot e k d a => Sys2Proof.Machine.execVoteBallot e k d a s
  | .voteEq e d a => Sys2Proof.Machine.execVoteEq e d a s
  | .wred e k d a o => Sys2Proof.Machine.execWred e k d a o s
  | .wscan e k d a x o => Sys2Proof.Machine.execWscan e k d a x o s
  | .pmovR2p e d a => Sys2Proof.Machine.execPmovR2p e d a s
  | .pmovP2r e k d a => Sys2Proof.Machine.execPmovP2r e k d a s
  | .pmovAnd e d a b => Sys2Proof.Machine.execPmovAnd e d a b s
  | .pmovOr e d a b => Sys2Proof.Machine.execPmovOr e d a b s
  | .pmovXor e d a b => Sys2Proof.Machine.execPmovXor e d a b s
  | .pmovAndn e d a b => Sys2Proof.Machine.execPmovAndn e d a b s
  | .pmovNot e d a => Sys2Proof.Machine.execPmovNot e d a s
  | .winb e n => Sys2Proof.Machine.execWinb e n s
  | .rclaim e n => Sys2Proof.Machine.execRclaim e n s
  | .rgive e n => Sys2Proof.Machine.execRgive e n s
  | .bra e o => Sys2Proof.Machine.execBra e o s
  | .brp e p u o => Sys2Proof.Machine.execBrp e p u o s
  | .call e o => Sys2Proof.Machine.execCall e o s
  | .callr e a => Sys2Proof.Machine.execCallr e a s
  | .ret e => Sys2Proof.Machine.execRet e s
  | .exit e => Sys2Proof.Machine.execExit e s
  | .nop e => Sys2Proof.Machine.execNop e s
  | .ld e k d a o v => Sys2Proof.Machine.execLd e k d a o v s
  | .ldR e k d a p o v => Sys2Proof.Machine.execLdR e k d a p o v s
  | .st e d a o v => Sys2Proof.Machine.execSt e d a o v s
  | .lda e k d a o u w => Sys2Proof.Machine.execLda e k d a o u w s
  | .sta e d a o u w => Sys2Proof.Machine.execSta e d a o u w s
  | .ldc e k d a o w => Sys2Proof.Machine.execLdc e k d a o w s
  | .prefL1 e a o => Sys2Proof.Machine.execPrefL1 e a o s
  | .prefLlc e a o => Sys2Proof.Machine.execPrefLlc e a o s
  | .pagereq e a o => Sys2Proof.Machine.execPagereq e a o s
  | .colour e d a o => Sys2Proof.Machine.execColour e d a o s
  | .tagset e d a o => Sys2Proof.Machine.execTagset e d a o s
  | .tagget e k d a o => Sys2Proof.Machine.execTagget e k d a o s
  | .fence e u => Sys2Proof.Machine.execFence e u s
  | .acq e u => Sys2Proof.Machine.execAcq e u s
  | .rel e u => Sys2Proof.Machine.execRel e u s
  | .cjoin e k d => Sys2Proof.Machine.execCjoin e k d s
  | .cleave e => Sys2Proof.Machine.execCleave e s
  | .atomInt e k d a u o v => Sys2Proof.Machine.execAtomInt e k d a u o v s
  | .atomExt e k d a u o v => Sys2Proof.Machine.execAtomExt e k d a u o v s
  | .redInt e d a u o v => Sys2Proof.Machine.execRedInt e d a u o v s
  | .redExt e d a u o v => Sys2Proof.Machine.execRedExt e d a u o v s
  | .semsig e d a u o => Sys2Proof.Machine.execSemsig e d a u o s
  | .semwait e d a u o => Sys2Proof.Machine.execSemwait e d a u o s
  | .semtake e d a u o => Sys2Proof.Machine.execSemtake e d a u o s
  | .spawn e n c j t p => Sys2Proof.Machine.execSpawn e n c j t p s
  | .joinw e d a o => Sys2Proof.Machine.execJoinw e d a o s
  | .bar e => Sys2Proof.Machine.execBar e s
  | .cwait e d a o => Sys2Proof.Machine.execCwait e d a o s
  | .csig e d a o => Sys2Proof.Machine.execCsig e d a o s
  | .enqt e d a o => Sys2Proof.Machine.execEnqt e d a o s
  | .mma e a b c j u => Sys2Proof.Machine.execMma e a b c j u s
  | .mmas e a b c j u => Sys2Proof.Machine.execMmas e a b c j u s
  | .cinit e c => Sys2Proof.Machine.execCinit e c s
  | .cdrain e a c r => Sys2Proof.Machine.execCdrain e a c r s
  | .tdef e t q => Sys2Proof.Machine.execTdef e t q s
  | .tset e t u => Sys2Proof.Machine.execTset e t u s
  | .ckmode e m => Sys2Proof.Machine.execCkmode e m s
  | .qbind e q g n => Sys2Proof.Machine.execQbind e q g n s
  | .qstat e k q d => Sys2Proof.Machine.execQstat e k q d s
  | .srd e k d n => Sys2Proof.Machine.execSrd e k d n s
  | .swr e u n => Sys2Proof.Machine.execSwr e u n s
  | .trap e c => Sys2Proof.Machine.execTrap e c s
  | .rte e => Sys2Proof.Machine.execRte e s
  | .bkpt e c => Sys2Proof.Machine.execBkpt e c s
  | .step e a => Sys2Proof.Machine.execStep e a s
  | .mark e f c => Sys2Proof.Machine.execMark e f c s
  | .pcnt e k d n => Sys2Proof.Machine.execPcnt e k d n s
  | .wset e u l a c => Sys2Proof.Machine.execWset e u l a c s
  | .wclr e u l => Sys2Proof.Machine.execWclr e u l s
  | .runSelect die core quad slot => Sys2Proof.Machine.execRunSelect die core quad slot s
  | .waveAge wave => Sys2Proof.Machine.execWaveAge wave s
  | .spinRedirect wave => Sys2Proof.Machine.execSpinRedirect wave s
  | .loadReturn wave n => Sys2Proof.Machine.execLoadReturn wave n s
  | .storeAck n => Sys2Proof.Machine.execStoreAck n s
  | .writePerformHome n => Sys2Proof.Machine.execWritePerformHome n s
  | .writeApply n die => Sys2Proof.Machine.execWriteApply n die s
  | .atomicAtBank n => Sys2Proof.Machine.execAtomicAtBank n s
  | .replicaFill die line => Sys2Proof.Machine.execReplicaFill die line s
  | .clusterStop n => Sys2Proof.Machine.execClusterStop n s
  | .watchTrap wave => Sys2Proof.Machine.execWatchTrap wave s
  | .monitorRequest n => Sys2Proof.Machine.execMonitorRequest n s
  | .monitorGrant wave lane => Sys2Proof.Machine.execMonitorGrant wave lane s
  | .monitorRelease wave => Sys2Proof.Machine.execMonitorRelease wave s
  | .laneWake wave lane => Sys2Proof.Machine.execLaneWake wave lane s
  | .waveFinishAfterCommands wave => Sys2Proof.Machine.execWaveFinishAfterCommands wave s
  | .regClaimGrant wave => Sys2Proof.Machine.execRegClaimGrant wave s
  | .claimWaitTimeout wave => Sys2Proof.Machine.execClaimWaitTimeout wave s
  | .groupSaveTimeout group => Sys2Proof.Machine.execGroupSaveTimeout group s
  | .groupRelaunch group => Sys2Proof.Machine.execGroupRelaunch group s
  | .scoutEnter wave => Sys2Proof.Machine.execScoutEnter wave s
  | .scoutTimeout wave => Sys2Proof.Machine.execScoutTimeout wave s
  | .scoutExit wave => Sys2Proof.Machine.execScoutExit wave s
  | .mmaAccept group => Sys2Proof.Machine.execMmaAccept group s
  | .mmaComplete group => Sys2Proof.Machine.execMmaComplete group s
  | .rendezvousTimeout group => Sys2Proof.Machine.execRendezvousTimeout group s
  | .cdrainComplete wave => Sys2Proof.Machine.execCdrainComplete wave s
  | .copy wave q => Sys2Proof.Machine.execCopy wave q s
  | .loada wave q => Sys2Proof.Machine.execLoada wave q s
  | .loadw wave q => Sys2Proof.Machine.execLoadw wave q s
  | .storea wave q => Sys2Proof.Machine.execStorea wave q s
  | .gather wave q => Sys2Proof.Machine.execGather wave q s
  | .mcast wave q => Sys2Proof.Machine.execMcast wave q s
  | .rstore wave q => Sys2Proof.Machine.execRstore wave q s
  | .drain wave q => Sys2Proof.Machine.execDrain wave q s
  | .engineCommandComplete wave q => Sys2Proof.Machine.execEngineCommandComplete wave q s
  | .probeToken wave q => Sys2Proof.Machine.execProbeToken wave q s
  | .launchPacket p => Sys2Proof.Machine.execLaunchPacket p s
  | .inboundRmaWrite x => Sys2Proof.Machine.execInboundRmaWrite x s
  | .inboundRmaRead x => Sys2Proof.Machine.execInboundRmaRead x s
  | .groupDispatch die => Sys2Proof.Machine.execGroupDispatch die s
  | .taskGroupFinish group => Sys2Proof.Machine.execTaskGroupFinish group s
  | .bucketFull die core n => Sys2Proof.Machine.execBucketFull die core n s
  | .bucketFlush die core n => Sys2Proof.Machine.execBucketFlush die core n s
  | .waveForm die core n => Sys2Proof.Machine.execWaveForm die core n s
  | .poolRecordMove launch die core => Sys2Proof.Machine.execPoolRecordMove launch die core s
  | .markIntervalTimeout part => Sys2Proof.Machine.execMarkIntervalTimeout part s
  | .checkpointMark part => Sys2Proof.Machine.execCheckpointMark part s
  | .markCommit part => Sys2Proof.Machine.execMarkCommit part s
  | .sliceEnd part => Sys2Proof.Machine.execSliceEnd part s
  | .softError site corrected => Sys2Proof.Machine.execSoftError site corrected s
  | .uncorrectable x => Sys2Proof.Machine.execUncorrectable x s
  | .launchKill launch => Sys2Proof.Machine.execLaunchKill launch s
  | .linkTimeout part => Sys2Proof.Machine.execLinkTimeout part s
  | .switchTimeout die => Sys2Proof.Machine.execSwitchTimeout die s
  | .peerTimeout tenant endpoint => Sys2Proof.Machine.execPeerTimeout tenant endpoint s
  | .fenceLift part => Sys2Proof.Machine.execFenceLift part s
  | .pageShootdown part ia leaf => Sys2Proof.Machine.execPageShootdown part ia leaf s
  | .pageRequestForward part => Sys2Proof.Machine.execPageRequestForward part s
  | .rangeRegisterWrite part n r => Sys2Proof.Machine.execRangeRegisterWrite part n r s
  | .queueDescriptorWrite q r => Sys2Proof.Machine.execQueueDescriptorWrite q r s
  | .tenantTableWrite t r => Sys2Proof.Machine.execTenantTableWrite t r s
  | .tenantRemove t => Sys2Proof.Machine.execTenantRemove t s
  | .partitionDescriptorWrite part r => Sys2Proof.Machine.execPartitionDescriptorWrite part r s
  | .remoteTableWrite t n r => Sys2Proof.Machine.execRemoteTableWrite t n r s
  | .quotaWrite t bank lines => Sys2Proof.Machine.execQuotaWrite t bank lines s
  | .clusterLend lender borrower cluster => Sys2Proof.Machine.execClusterLend lender borrower cluster s
  | .clusterReclaim lender cluster => Sys2Proof.Machine.execClusterReclaim lender cluster s
  | .debugInterceptSet part on => Sys2Proof.Machine.execDebugInterceptSet part on s
  | .dieWatchEnable part on => Sys2Proof.Machine.execDieWatchEnable part on s
  | .traceSessionOpen part bytes ask => Sys2Proof.Machine.execTraceSessionOpen part bytes ask s
  | .traceSessionClose part => Sys2Proof.Machine.execTraceSessionClose part s
  | .traceAck part n => Sys2Proof.Machine.execTraceAck part n s
  | .sample die core => Sys2Proof.Machine.execSample die core s
  | .treeSnapshot part die core => Sys2Proof.Machine.execTreeSnapshot part die core s
  | .clockLock part point => Sys2Proof.Machine.execClockLock part point s
  | .clockRelease part => Sys2Proof.Machine.execClockRelease part s
  | .clockBreak die cause found => Sys2Proof.Machine.execClockBreak die cause found s
  | .clockRestore die => Sys2Proof.Machine.execClockRestore die s
  | .clusterResume die cluster => Sys2Proof.Machine.execClusterResume die cluster s
  | .sweoloStep wave => Sys2Proof.Machine.execSweoloStep wave s
  | .waveDump wave => Sys2Proof.Machine.execWaveDump wave s
  | .operatingPointChange die found => Sys2Proof.Machine.execOperatingPointChange die found s
  | .powerLimitSet watts => Sys2Proof.Machine.execPowerLimitSet watts s
  | .telemetryReport r => Sys2Proof.Machine.execTelemetryReport r s
  | .thermalShutdown cause => Sys2Proof.Machine.execThermalShutdown cause s
  | .moduleReset cause failed => Sys2Proof.Machine.execModuleReset cause failed s
  | .imageUpdate image => Sys2Proof.Machine.execImageUpdate image s
  | .getVersion io => Sys2Proof.Machine.execGetVersion io s
  | .getCapabilities io => Sys2Proof.Machine.execGetCapabilities io s
  | .negotiateAlgorithms io => Sys2Proof.Machine.execNegotiateAlgorithms io s
  | .getDigests io => Sys2Proof.Machine.execGetDigests io s
  | .getCertificate io => Sys2Proof.Machine.execGetCertificate io s
  | .challenge io nonce => Sys2Proof.Machine.execChallenge io nonce s
  | .getMeasurements io who index => Sys2Proof.Machine.execGetMeasurements io who index s
  | .spdmUnsupportedRequest io request => Sys2Proof.Machine.execSpdmUnsupportedRequest io request s
  | .completionNotice origin launch => Sys2Proof.Machine.execCompletionNotice origin launch s
  | .ioDieFailure io => Sys2Proof.Machine.execIoDieFailure io s
  | .unsupportedPacket kind => Sys2Proof.Machine.execUnsupportedPacket kind s
  | .sweoloStopRequest die cluster => Sys2Proof.Machine.execSweoloStopRequest die cluster s
  | .windowAssignment window owner exports => Sys2Proof.Machine.execWindowAssignment window owner exports s
  | .pagerFrameWrite part ia data words => Sys2Proof.Machine.execPagerFrameWrite part ia data words s

end Sys2Proof.Machine
end

