-- ==== Sys2Proof/Machine/Schedule.lean ====
section
/-! DEFINITION. The order in which the module's other agents move when the agenda is empty (log 1): each event here can
happen now. What time alone brings about (timeouts, flushes, aging, saves, scout) comes only from the agenda. -/
namespace Sys2Proof.Machine

/-- The first of several events that can happen. -/
def firstOf : List (Option Instr) → Option Instr
  | [] => none
  | some i :: _ => some i
  | none :: l => firstOf l

/-- Writes and atomics on their way. -/
def flightEvent (s : State) : Option Instr :=
  s.flights.findSome? fun f =>
    match f.kind with
    | .atom op sc _ _ =>
      if atomPoisoned s f op sc then some (.atomicAtBank f.id)
      else if atReplicaOf f sc then (if replicaMay s f then some (.atomicAtBank f.id) else none)
      else if mayLeave s f || homeMay s f then some (.atomicAtBank f.id) else none
    | .store _ | .colour _ | .key _ =>
      if mayLeave s f || homeMay s f then some (.writePerformHome f.id)
      else match f.todo.find? (applyMay s f) with
        | some d => some (.writeApply f.id d)
        | none => if ackMay s f then some (.storeAck f.id) else none

/-- Results, wakes, grants, releases and claims of waves. -/
def returnEvent (s : State) : Option Instr :=
  s.waves.findSome? fun w => firstOf [
    if launchEnded s w && !w.finished && !midRun w then some (.waveFinishAfterCommands w.id) else none,
    ((List.range w.pend.length).find? (loadReady s w.id)).map fun n => .loadReturn w.id n,
    if releaseMay s w then some (.monitorRelease w.id) else none,
    if (grantable s w).isSome then some (.regClaimGrant w.id) else none,
    if w.drain.isSome then some (.cdrainComplete w.id) else none,
    if w.place.isSome && (watchDue s w).isSome then some (.watchTrap w.id) else none,
    if readyToFinish w && !hasCommands w then some (.waveFinishAfterCommands w.id) else none]

/-- Messages to lanes and homes. -/
def messageEvent (s : State) : Option Instr := firstOf [
  if s.requests.isEmpty then none else some (.monitorRequest 0),
  s.grants.findSome? fun g => if (grantFor s g.wave g.lane).isSome then some (.monitorGrant g.wave g.lane) else none,
  s.wakes.findSome? fun q => if (wakeFor s q.wave q.lane).isSome then some (.laneWake q.wave q.lane) else none,
  s.fills.findSome? fun f =>
    if clockCounts (clockOf s f.1) (clockOf s (homeDie (64 * f.2.1))) then some (.replicaFill f.1 f.2.1) else none]

/-- The row of an engine command by its OP (R218). -/
def commandRow (op wave : Nat) (q : Fin 8) : Instr :=
  match op with
  | 1 => .copy wave q
  | 2 => .loada wave q
  | 3 => .loadw wave q
  | 4 => .storea wave q
  | 0x10 => .gather wave q
  | 0x20 => .mcast wave q
  | 0x21 => .rstore wave q
  | 0x30 => .drain wave q
  | _ => .engineCommandComplete wave q

/-- What the engine of one queue register can do: complete its oldest command, or accept the next. -/
def registerEvent (s : State) (w : Wave) (k : Fin 8) : Option Instr :=
  let q := w.queues.get k
  match q.cmds with
  | [] => none
  | c :: _ =>
    let done := c.state = .accepted && (w.finished || !delivers c || completionRoom q) && engineReleased s w.id c.die
    if done then some (.engineCommandComplete w.id k)
    else match nextCommand q, findGroup s w.group with
      | some n, some g =>
        let x : Eng1 := ⟨w, g, k, n⟩
        if w.finished || markHolds s w.part then none
        else if (opEngine n.op).isNone then (if c.state = .pushed then some (.engineCommandComplete w.id k) else none)
        else if !commandOk g q.bound n || !tileOk g n || commandMay s x then some (commandRow n.op w.id k)
        else none
      | _, _ => none

/-- Engines and arrays. -/
def engineEvent (s : State) : Option Instr := firstOf [
  s.waves.findSome? fun w => (List.finRange 8).findSome? (registerEvent s w),
  s.groups.findSome? fun g => firstOf [
    if g.array.isEmpty then none else some (.mmaComplete g.id),
    if g.place.isSome && g.rendezvous.any (gangGoes g) then some (.mmaAccept g.id) else none]]

/-- Work that starts and ends. -/
def workEvent (s : State) : Option Instr := firstOf [
  s.groups.findSome? fun g => if (finishTask s g.id).isSome then some (.taskGroupFinish g.id) else none,
  s.cores.findSome? fun c => (List.range c.buckets.length).findSome? fun n => match c.buckets[n]? with
    | none => none
    | some b =>
      if b.forming then (if (formWave s c.die c.core n).isSome then some (.waveForm c.die c.core n) else none)
      else if b.recs.length = 32 then some (.bucketFull c.die c.core n)
      else none,
  s.launches.findSome? fun l => if l.poolHead = l.poolTail then none else match findPart s l.part with
    | some p => ((coresOf p).find? fun c => (movePool s l.id c.1 c.2).isSome).map fun c => .poolRecordMove l.id c.1 c.2
    | none => none,
  s.waves.findSome? fun w => if w.claim.isSome && (match findGroup s w.group with
    | some g => g.place.isNone && g.signal.isNone && !g.finished && groupFits s g
    | none => false) then some (.claimWaitTimeout w.id) else none,
  s.parts.findSome? fun p => firstOf [
    if p.committed then none else some (.markCommit p.n),
    if markMay s p then some (.checkpointMark p.n) else none,
    match relaunchHead s p.n with
    | some g => if groupFits s g then some (.groupRelaunch g.id) else none
    | none => none,
    if (unringed s p).isSome && ringRoom p then some (.pageRequestForward p.n) else none],
  (List.range 4).findSome? fun d => if (dispatchNext s d).isSome then some (.groupDispatch d) else none]

/-- The slots of a quadrant that can take their turn, with the turn of the wave that would issue. -/
def slotTurns (s : State) (die core quad : Nat) : List (Nat × Instr) :=
  [0, 1].filterMap fun k => match slotWave s die core quad k with
    | some w => if w.hold.isNone || ready s w then some (w.lastRun, .runSelect die core quad k) else none
    | none => (pickWave s die core quad).map fun w => (w.lastRun, .runSelect die core quad k)

/-- The slot whose wave has waited longest for its turn (R332). -/
def runEvent (s : State) : Option Instr :=
  let quads := distinct (s.waves.filterMap fun w => w.place.map fun p => (p.die, p.core, p.quad))
  (minBy (·.1) (quads.flatMap fun q => slotTurns s q.1 q.2.1 q.2.2)).map (·.2)

/-- The first event that can happen now. -/
def nextEvent (s : State) : Option Instr := firstOf [
  if s.stops.isEmpty then none else some (.clusterStop 0),
  pendingRequest s, flightEvent s, returnEvent s, messageEvent s, engineEvent s, workEvent s, runEvent s]

end Sys2Proof.Machine
end

