-- ==== Sys2Proof/Machine/Setup.lean ====
section
/-! DEFINITION. A word placed where step fetches its next instruction (log 21): in the code of the wave that issues
next, or, where none does, in the code of a one-wave launch laid out for it. -/
namespace Sys2Proof.Machine

/-- The partition of the laid-out launch: tenant 0, core 0 of die 0's cluster 0, one channel of each die (R376). -/
def setupPart (n root ring : Nat) : Part :=
  { n := n
    desc := { v := true, tenant := 0, savei := 0, marki := 0, clusters := 1, owned := 1, banks := 0
              channels := 0x1000000000000000000000001000000000000000000000001000000000000000000000001#384, engines := 0xFFFFFF }
    ranges := Vector.ofFn fun k =>
      if k = 0 then { v := true, rp := true, wp := true, xp := true, remote := false, vbase := 0, vlast := 0, iabase := 0 }
      else { v := false, rp := false, wp := false, xp := false, remote := false, vbase := 0, vlast := 0, iabase := 0 }
    root := root, intercept := false, dieWatch := false, ringBase := ring, ring := [], ringSeq := 0, mark := 0, committed := true
    markDue := false, logSize := Config.undoLog, logged := [], held := [], closing := [], inbound := [], inboundDone := 0
    unrecorded := 0, counters := [] }

/-- The launch: one group of one wave; entry 0x1000, trap handler 0x2000, spill area from 0x8000. -/
def setupLaunch (id : DWord) (part : Nat) : Launch :=
  { id := id, queue := 0, seq := 0, part := part, tenant := 0, record := 0, groups := 1, next := 1, serial := 0
    poolHead := 0, poolTail := 0, state := .running, reported := false, replays := 0, started := true, replay := false, snapshot := none
    copies := [], dirty := [], clock := Clock.zero, poolClocks := [], after := 0, owing := [] }

/-- The group: 64 KiB of each buffer. -/
def setupGroup (id part : Nat) (launch : DWord) : Group :=
  { id := id, launch := launch, part := part, place := some (0, 0), waves := 1, g := Vector.replicate 16 0, abufKiB := 64
    wbufKiB := 64, cbufKiB := 64, abuf := [], wbuf := [], cbuf := [], tiles := [], barrier := 0, sharing := none
    rendezvous := [], array := [], task := false, spawned := false, entry := none, succ := 0, appending := none, blocks := 3, signal := none
    raised := false, clock := Clock.zero, context := none, finished := false }

/-- The wave: every lane live at 0x1000, three register blocks, its run about to issue. -/
def setupWave (id group part : Nat) (launch : DWord) : Wave :=
  { id := id, group := group, launch := launch, part := part, index := 0, role := 0, gang := 0, winb := 0, blks := 3
    h := false, spn := false, snap := false, pri := 0, widf := 0, baseWid := 0, arg := 0, csp := 0x8000, csz := 16
    handler := 0x2000, ctx := some 0
    lanes := Vector.replicate 32 { LaneCtx.empty with pc := 0x1000, state := .live }
    rmiss := 0, aside := none, skip := [], spin := 0, floor := none
    run := some { exec := 0xFFFFFFFF#32, gone := 0, pc := 0x1000, count := 0, latches := [], liveAtStart := 0xFFFFFFFF#32
                  redirected := false, base := none, cut := false }
    hold := none, issue := some 0, queues := Vector.replicate 8 QReg.unbound, ckmode := 0, stores := 0, pend := []
    release := [], joins := [], watchPend := [], watch := [none, none], counters := WaveCounters.zero, claim := none
    granted := false, place := some ⟨0, 0, 0, 0, false⟩, stopped := false, intercepted := false, stepping := none, stepDone := false, aged := false
    lastRun := 0, tick := 0, arrived := false, tags := [], waitMark := none, asked := none, drain := none, finished := false }

/-- The launch laid out beside what the state holds, its wave issuing next; the one leaf of its table maps 64 KiB at IA 0. -/
def setupLaunched (s : State) : State :=
  let n := s.fresh
  let id : DWord := BitVec.ofNat 64 n
  let (root, s1) := newTable s 0
  let p := setupPart n root s1.protectNext
  let s2 := putEntry { s1 with protectNext := s1.protectNext + 16 * Config.ringEntries } p 3 0 0x13F
  { s2 with
    tenants := s.tenants.set 0 { v := true, keyix := 1, job := 0, sdi := 0, parts := 1, qmap := 0 }
    parts := p :: s.parts
    windows := (0, n, []) :: s.windows
    launches := setupLaunch id n :: s.launches
    groups := setupGroup n n id :: s.groups
    waves := setupWave n n n id :: s.waves
    cur := some n, fresh := n + 1 }

/-- The state with a word at a PC of a wave; none where nothing can be fetched there. -/
def writeCode (s : State) (w : Wave) (pc : Pc) (x : Word) : Option State :=
  match fetchAt s w pc with
  | .word ia _ => some (hardWrite s w.launch ia (bytesOf x.toNat 4))
  | .trap _ | .absent _ | .late | .poison _ => none

/-- The state with the word where the issuing wave fetches next. -/
def placeAt (s : State) (x : Word) : Option State :=
  match current s with
  | some (w, r) => writeCode s w r.pc x
  | none => none

/-- The state whose very next step fetches and runs the word. -/
def placeWord (s : State) (x : Word) : State :=
  let isRouter (f : FenceId) : Bool := match f with
    | .router _ => true
    | .boundaryLink _ _ | .portLink _ | .peer _ _ | .channel _ => false
  let s0 : State := { s with agenda := [], sweolo := { s.sweolo with shutdown := none, recovery := false }, fences := s.fences.filter fun f => !isRouter f }
  match placeAt s0 x with
  | some t => t
  | none => (placeAt (setupLaunched s0) x).getD (setupLaunched s0)

end Sys2Proof.Machine
end

