-- ==== Sys2Proof/Machine/Step.lean ====
section
/-! DEFINITION. One step of the module, and the placing of a word to be fetched. -/
namespace Sys2Proof.Machine

/-- One step: the head of the agenda; else the next word of the wave that issues; else the first event that can happen;
else nothing changes (log 1). A word comes only by a fetch: on the agenda it has no effect. A stopped module takes only
what it still serves, and otherwise stands still (R363, R403, R409). Requests are served in the order of their arrival (R411). -/
def step (s : State) : Host.Outcome State Fault Refusal :=
  match s.agenda with
  | i :: rest =>
    if unheard s i then .next { s with agenda := rest }
    else if queuesUp s i then .next (awaitTurn { s with agenda := rest } i)
    else exec i { s with agenda := rest }
  | [] =>
    if halted s then .fault .halted
    else
      match current s with
      | some (w, r) =>
        match fetchNext s w r with
        | .inl (i, s1) => exec i s1
        | .inr s1 => .next s1
      | none =>
        match nextEvent s with
        | some i => exec i (takeRequest s i)
        | none => .next s

/-- The state with an instruction word where step fetches next (log 21); bits above nbits are zero. -/
def State.withFetchWord (s : State) (nbits w : Nat) : State := placeWord s (BitVec.ofNat 32 (w % 2 ^ nbits))

end Sys2Proof.Machine
end

