-- ==== Sys2Proof/Safety.lean ====
section
/-! DEFINITION. What counts as a safe run: the canonical form of the memories (R5); and the terms that the statements
use: when a word of the issuing wave comes to its own operation, what its completion leaves, and the frame. -/
namespace Sys2Proof.Machine

/-- Device memory and the memories of the marks are in their canonical form. -/
def CanonOf (m : Memory) (l : List MarkImage) : Prop := memWf m = true ∧ ∀ i ∈ l, memWf i.mem = true

/-- The memories of a state are in their canonical form. -/
def Canon (s : State) : Prop := CanonOf s.mem s.images

/-- The issuing wave, and what the word's own operation sees, when the word comes to it: the wave is not in scout, no
check of R68 fails, no operand is still to be written (R16), no source is poisoned (R355), a lane executes, and every
pop and push can be made (R212, R213). The pops have been made in the state given. -/
def begins (i : Instr) (s : State) : Option (Wave × Ctx) :=
  match current s, i.shape with
  | some (w, r), some sh =>
    let m := execMask w r
    if (shadowOf s w.id).isSome || (wordTrap i sh w r).isSome || notReady w sh
        || (!(qSources sh).isEmpty && !w.pend.isEmpty) || readsPoison s w m i sh || m = 0
        || popCheck w m (qSources sh) ≠ .go then none
    else
      match (popAll s w.id m (qSources sh)).2, findWave (popAll s w.id m (qSources sh)).1 w.id with
      | none, some v =>
        if pushCheck v m sh = .go then some (w, ⟨(popAll s w.id m (qSources sh)).1, v, r, m, sh, i⟩) else none
      | _, _ => none
  | _, _ => none

/-- The state after the word's own operation has given its result: the wave's run and lanes go on as the result says, and
a single step ends (R16, R232). -/
def finish (c : Ctx) (res : Res) : State := settle c res

/-- The wave issues for no single step, and the lanes that execute are live (R14, R16). -/
def Steady (c : Ctx) : Prop := c.w.stepping = none ∧ ∀ l, c.exec.has l = true → (laneOf c.w l).state = .live

/-- The lanes that have the word behind them: those that executed it, and those that skip it after RTE (R226). -/
def passed (c : Ctx) : Mask := c.exec ||| skipMask c.w c.r

/-- What a completed word may change in a lane: its PC goes on by 4 when the word is behind it, its registers, predicates
and sticky flags are as given, and it keeps no popped words then. The colours of every lane stand: no instruction that could give
them back is left (R150). -/
def LaneAfter (c : Ctx) (v : Wave) (regs : Lane → Sparse 32) (preds : Lane → BitVec 7) (fl : Lane → Flags) : Prop :=
  ∀ l, laneOf v l =
    if (passed c).has l then
      { laneOf c.w l with
        pc := (laneOf c.w l).pc + 4, regs := regs l, preds := preds l, nflg := fl l, kept := []
        held := (laneOf c.w l).held.map fun h => { h with fresh := false } }
    else { laneOf c.w l with held := (laneOf c.w l).held.map fun h => { h with fresh := false } }

/-- The frame of a completed word: of its wave only the lanes, the queue registers, the register tags and what a run
changes are new; of the state only the waves, the group registers, the issue slot, the count that orders the ends of runs (R332), the skid PCs of a
stop and the marks of poisoned registers; every other wave and every byte of memory are as before. -/
def Framed (c : Ctx) (v : Wave) (t : State) : Prop :=
  findWave t c.w.id = some v
  ∧ v = { c.w with lanes := v.lanes, queues := v.queues, tags := v.tags, tick := c.w.tick + 1, skip := v.skip, hold := v.hold
                   run := v.run, issue := v.issue, spin := v.spin, floor := v.floor, lastRun := v.lastRun
                   asked := if c.w.asked = some c.r.pc then none else c.w.asked
                   counters := countRetired c.w.counters (onScalar c.w c.sh) }
  ∧ (∀ k, k ≠ c.w.id → findWave t k = findWave c.s k)
  ∧ t = { c.s with waves := t.waves, groups := t.groups, cur := t.cur, fresh := t.fresh, stops := t.stops, poisonReg := t.poisonReg }

/-- The registers of lane l after n registers from k on have been written with the words of a value. -/
def RegsHave (old new : Sparse 32) (k n : Nat) (x : BitVec 128) : Prop :=
  ∀ j, spGet new j = if k ≤ j ∧ j < k + n then wordOf128 x (j - k) else spGet old j

/-- A word that has written value f to its destination, and has raised the flags fl, has completed in t (R21, R23 to R26,
R33): a wave register takes the value in every lane that executed and no other register changes; a group register takes the
value of the highest such lane; a queue register takes one word from each such lane in lane order; with K set only the
latch takes the value. -/
def Writes (c : Ctx) (f : Lane → BitVec 128) (fl : Lane → Flags) (t : State) : Prop :=
  ∃ v, Framed c v t
    ∧ (∃ regs, LaneAfter c v regs (fun l => (laneOf c.w l).preds)
          (fun l => if c.exec.has l then (laneOf c.w l).nflg ||| fl l else (laneOf c.w l).nflg)
        ∧ ∀ l, match c.sh.dst with
          | some (.v x, n) =>
            if c.exec.has l && !c.sh.k then RegsHave (laneOf c.w l).regs (regs l) (windowReg c.w x.val) n (f l)
            else regs l = (laneOf c.w l).regs
          | _ => regs l = (laneOf c.w l).regs)
    ∧ (match c.sh.dst with
        | some (.g x, n) =>
          if c.sh.k then t.groups = c.s.groups
          else ∀ g, findGroup c.s c.w.group = some g → ∃ g', findGroup t c.w.group = some g' ∧ g' = { g with g := g'.g }
            ∧ ∀ j : Fin 16, g'.g.get j =
                if x.val ≤ j.val ∧ j.val < x.val + n then wordOf128 (f c.top) (j.val - x.val) else g.g.get j
        | _ => t.groups = c.s.groups)
    ∧ (match c.sh.dst with
        | some (.q x, _) =>
          v.queues.get x = c.exec.lanes.foldl (fun q l => pushWord q l c.r.pc c.w.h c.w.place c.w.tick (wordOf128 (f l) 0)) (c.w.queues.get x)
            ∧ ∀ k, k ≠ x → v.queues.get k = c.w.queues.get k
        | _ => v.queues = c.w.queues)
    ∧ (∀ r, v.run = some r → r.latches.head? = some (match c.sh.dst with | some (d, _) => latchOf c d f | none => none))

/-- A word that has written predicate p with f, and has raised the flags fl, has completed in t (R27, R33): p7 is discarded,
and no register changes. -/
def WritesP (c : Ctx) (p : Pred) (f : Lane → Bool) (fl : Lane → Flags) (t : State) : Prop :=
  ∃ v, Framed c v t ∧ t.groups = c.s.groups ∧ v.queues = c.w.queues
    ∧ (∃ preds, LaneAfter c v (fun l => (laneOf c.w l).regs) preds
          (fun l => if c.exec.has l then (laneOf c.w l).nflg ||| fl l else (laneOf c.w l).nflg)
        ∧ ∀ l (k : Fin 7), (preds l).getLsbD k.val =
            if c.exec.has l && p.val == k.val then f l else (laneOf c.w l).preds.getLsbD k.val)

/-- The word has the destination d of n registers, suppressed where K says so, and the register sources rs in this order. -/
def Form (i : Instr) (k : Bool) (d : Reg) (n : Nat) (rs : List Reg) : Prop :=
  ∃ sh, i.shape = some sh ∧ sh.k = k ∧ sh.dst = some (d, n) ∧ sh.srcs.map (·.r) = rs

/-- The word has no register destination, and the register sources rs in this order. -/
def FormP (i : Instr) (rs : List Reg) : Prop := ∃ sh, i.shape = some sh ∧ sh.dst = none ∧ sh.srcs.map (·.r) = rs

/-- The word completes, for every state in which it comes to its own operation, with f written to its destination: `c.x j`,
`c.pair j` are its source j in the list. -/
def Gives (i : Instr) (k : Bool) (d : Reg) (n : Nat) (rs : List Reg) (f : Ctx → Lane → BitVec 128) (fl : Ctx → Lane → Flags) : Prop :=
  Form i k d n rs ∧ ∀ s w c, begins i s = some (w, c) → Steady c → ∃ t, exec i s = .next t ∧ Writes c (f c) (fl c) t

/-- The word completes, for every state in which it comes to its own operation, with f written to predicate p. -/
def GivesP (i : Instr) (p : Pred) (rs : List Reg) (f : Ctx → Lane → Bool) (fl : Ctx → Lane → Flags) : Prop :=
  FormP i rs ∧ ∀ s w c, begins i s = some (w, c) → Steady c → ∃ t, exec i s = .next t ∧ WritesP c p (f c) (fl c) t

/-- No lane that executes fails its checks or needs a colour (R42, R149). -/
def Passes (c : Ctx) (v : Lanes Verdict) : Prop := ∀ l, c.exec.has l = true → mayDo (v.get l) = true

/-- The word completes, for every state in which it comes to its own operation and the given condition holds, with the
given result of that operation. -/
def Ends (i : Instr) (P : Ctx → Prop) (res : Ctx → Res) : Prop :=
  ∀ s w c, begins i s = some (w, c) → P c → exec i s = .next (finish c (res c))

end Sys2Proof.Machine
end

