-- ==== Sys2Proof/Certificates/Slice0/Obligations.lean ====
section
/-! DEFINITION. What is claimed of the model: the statements for the provers. The terms begins, finish, Steady, Writes,
Gives and Ends are those of Sys2Proof/Safety.lean. -/
open Sys2Proof Sys2Proof.Machine

/-- R99, and the arithmetic of R98. x is source 0 and y source 1; DZ is the only flag raised. -/
def Obligations.IntegerArithmetic : Prop := ∀ (e k : Bool) (d a b : Reg),
  Gives (.addS32 e k d a b) k d 1 [a, b] (fun c l => w32 (c.x 0 l + c.x 1 l)) (fun _ _ => 0)
  ∧ Gives (.subS32 e k d a b) k d 1 [a, b] (fun c l => w32 (c.x 0 l - c.x 1 l)) (fun _ _ => 0)
  ∧ Gives (.mulS32 e k d a b) k d 1 [a, b] (fun c l => w32 (c.x 0 l * c.x 1 l)) (fun _ _ => 0)
  ∧ Gives (.mulhS32 e k d a b) k d 1 [a, b]
      (fun c l => w32 (((c.x 0 l).signExtend 64 * (c.x 1 l).signExtend 64).extractLsb' 32 32)) (fun _ _ => 0)
  ∧ Gives (.mulhZ32 e k d a b) k d 1 [a, b]
      (fun c l => w32 (((c.x 0 l).zeroExtend 64 * (c.x 1 l).zeroExtend 64).extractLsb' 32 32)) (fun _ _ => 0)
  ∧ Gives (.madS32 e k d a b) k d 1 [a, b, d] (fun c l => w32 (c.x 0 l * c.x 1 l + c.x 2 l)) (fun _ _ => 0)
  ∧ Gives (.minS32 e k d a b) k d 1 [a, b] (fun c l => w32 (if (c.x 0 l).slt (c.x 1 l) then c.x 0 l else c.x 1 l)) (fun _ _ => 0)
  ∧ Gives (.maxS32 e k d a b) k d 1 [a, b] (fun c l => w32 (if (c.x 0 l).slt (c.x 1 l) then c.x 1 l else c.x 0 l)) (fun _ _ => 0)
  ∧ Gives (.minZ32 e k d a b) k d 1 [a, b] (fun c l => w32 (if (c.x 0 l).ult (c.x 1 l) then c.x 0 l else c.x 1 l)) (fun _ _ => 0)
  ∧ Gives (.maxZ32 e k d a b) k d 1 [a, b] (fun c l => w32 (if (c.x 0 l).ult (c.x 1 l) then c.x 1 l else c.x 0 l)) (fun _ _ => 0)
  ∧ Gives (.absS32 e k d a) k d 1 [a] (fun c l => w32 (if (c.x 0 l).msb then -c.x 0 l else c.x 0 l)) (fun _ _ => 0)
  ∧ Gives (.negS32 e k d a) k d 1 [a] (fun c l => w32 (-c.x 0 l)) (fun _ _ => 0)
  ∧ Gives (.mov e k d a) k d 1 [a] (fun c l => w32 (c.x 0 l)) (fun _ _ => 0)
  ∧ Gives (.divS32 e k d a b) k d 1 [a, b]
      (fun c l => w32 (if c.x 1 l = 0 then (if (c.x 0 l).msb then 0x80000000#32 else 0x7FFFFFFF#32) else (c.x 0 l).sdiv (c.x 1 l)))
      (fun c l => if c.x 1 l = 0 then fDZ else 0)
  ∧ Gives (.divZ32 e k d a b) k d 1 [a, b] (fun c l => w32 (if c.x 1 l = 0 then 0xFFFFFFFF#32 else c.x 0 l / c.x 1 l))
      (fun c l => if c.x 1 l = 0 then fDZ else 0)
  ∧ Gives (.remS32 e k d a b) k d 1 [a, b] (fun c l => w32 (if c.x 1 l = 0 then c.x 0 l else (c.x 0 l).srem (c.x 1 l)))
      (fun c l => if c.x 1 l = 0 then fDZ else 0)
  ∧ Gives (.remZ32 e k d a b) k d 1 [a, b] (fun c l => w32 (c.x 0 l % c.x 1 l)) (fun c l => if c.x 1 l = 0 then fDZ else 0)

/-- R98, R100, R102, R103: the words on single bits and the shifts. A shift by the width or more gives 0, or the sign. -/
def Obligations.IntegerBitsAndShifts : Prop := ∀ (e k : Bool) (d a b : Reg) (n : BitVec 7),
  Gives (.andB32 e k d a b) k d 1 [a, b] (fun c l => w32 (c.x 0 l &&& c.x 1 l)) (fun _ _ => 0)
  ∧ Gives (.orB32 e k d a b) k d 1 [a, b] (fun c l => w32 (c.x 0 l ||| c.x 1 l)) (fun _ _ => 0)
  ∧ Gives (.xorB32 e k d a b) k d 1 [a, b] (fun c l => w32 (c.x 0 l ^^^ c.x 1 l)) (fun _ _ => 0)
  ∧ Gives (.andnB32 e k d a b) k d 1 [a, b] (fun c l => w32 (c.x 0 l &&& ~~~(c.x 1 l))) (fun _ _ => 0)
  ∧ Gives (.popc e k d a) k d 1 [a] (fun c l => w32 (BitVec.ofNat 32 (laneList.countP fun i => (c.x 0 l).getLsbD i.val))) (fun _ _ => 0)
  ∧ Gives (.clz e k d a) k d 1 [a]
      (fun c l => w32 (BitVec.ofNat 32 (((List.range 32).find? fun i => (c.x 0 l).getLsbD (31 - i)).getD 32))) (fun _ _ => 0)
  ∧ Gives (.brev e k d a) k d 1 [a] (fun c l => w32 (Mask.of fun i => (c.x 0 l).getLsbD (31 - i.val))) (fun _ _ => 0)
  ∧ Gives (.shlB32 e k d a b) k d 1 [a, b] (fun c l => w32 (c.x 0 l <<< c.x 1 l)) (fun _ _ => 0)
  ∧ Gives (.shrB32 e k d a b) k d 1 [a, b] (fun c l => w32 (c.x 0 l >>> c.x 1 l)) (fun _ _ => 0)
  ∧ Gives (.shraS32 e k d a b) k d 1 [a, b] (fun c l => w32 ((c.x 0 l).sshiftRight' (c.x 1 l))) (fun _ _ => 0)
  ∧ Gives (.rotB32 e k d a b) k d 1 [a, b] (fun c l => w32 ((c.x 0 l).rotateLeft (c.x 1 l).toNat)) (fun _ _ => 0)
  ∧ Gives (.shlB64 e k d a b) k d 2 [a, b] (fun c l => w64 (c.pair 0 l <<< c.x 1 l)) (fun _ _ => 0)
  ∧ Gives (.shrB64 e k d a b) k d 2 [a, b] (fun c l => w64 (c.pair 0 l >>> c.x 1 l)) (fun _ _ => 0)
  ∧ Gives (.shraS64 e k d a b) k d 2 [a, b] (fun c l => w64 ((c.pair 0 l).sshiftRight' (c.x 1 l))) (fun _ _ => 0)
  ∧ Gives (.shlB32Imm e k d a n) k d 1 [a] (fun c l => w32 (c.x 0 l <<< n)) (fun _ _ => 0)
  ∧ Gives (.shrB32Imm e k d a n) k d 1 [a] (fun c l => w32 (c.x 0 l >>> n)) (fun _ _ => 0)
  ∧ Gives (.shraS32Imm e k d a n) k d 1 [a] (fun c l => w32 ((c.x 0 l).sshiftRight' n)) (fun _ _ => 0)
  ∧ Gives (.rotB32Imm e k d a n) k d 1 [a] (fun c l => w32 ((c.x 0 l).rotateLeft n.toNat)) (fun _ _ => 0)
  ∧ Gives (.shlB64Imm e k d a n) k d 2 [a] (fun c l => w64 (c.pair 0 l <<< n)) (fun _ _ => 0)
  ∧ Gives (.shrB64Imm e k d a n) k d 2 [a] (fun c l => w64 (c.pair 0 l >>> n)) (fun _ _ => 0)
  ∧ Gives (.shraS64Imm e k d a n) k d 2 [a] (fun c l => w64 ((c.pair 0 l).sshiftRight' n)) (fun _ _ => 0)

/-- R101: BFX and BFI bit by bit, with pos = y[4:0] and w = min(wid, 32 − pos), wid = y[13:8] but at most 32. -/
def Obligations.IntegerBitFields : Prop := ∀ (e k : Bool) (d a b : Reg),
  let pos (c : Ctx) (l : Lane) : Nat := ((c.x 1 l).extractLsb' 0 5).toNat
  let w (c : Ctx) (l : Lane) : Nat := min (min ((c.x 1 l).extractLsb' 8 6).toNat 32) (32 - pos c l)
  Gives (.bfxZ32 e k d a b) k d 1 [a, b]
      (fun c l => w32 (Mask.of fun j => decide (j.val < w c l) && (c.x 0 l).getLsbD (pos c l + j.val))) (fun _ _ => 0)
  ∧ Gives (.bfxS32 e k d a b) k d 1 [a, b]
      (fun c l => w32 (Mask.of fun j => decide (w c l ≠ 0) && (c.x 0 l).getLsbD (pos c l + min j.val (w c l - 1)))) (fun _ _ => 0)
  ∧ Gives (.bfi e k d a b) k d 1 [a, b, d]
      (fun c l => w32 (Mask.of fun j =>
        if pos c l ≤ j.val ∧ j.val < pos c l + w c l then (c.x 0 l).getLsbD (j.val - pos c l) else (c.x 2 l).getLsbD j.val))
      (fun _ _ => 0)

/-- R102, R104: the words on pairs. -/
def Obligations.Integer64 : Prop := ∀ (e k : Bool) (d a b : Reg) (u : Fin 8),
  Gives (.addS64 e k d a b) k d 2 [a, b] (fun c l => w64 (c.pair 0 l + c.pair 1 l)) (fun _ _ => 0)
  ∧ Gives (.subS64 e k d a b) k d 2 [a, b] (fun c l => w64 (c.pair 0 l - c.pair 1 l)) (fun _ _ => 0)
  ∧ Gives (.mulS64 e k d a b) k d 2 [a, b] (fun c l => w64 (c.pair 0 l * c.pair 1 l)) (fun _ _ => 0)
  ∧ Gives (.minS64 e k d a b) k d 2 [a, b]
      (fun c l => w64 (if (c.pair 0 l).slt (c.pair 1 l) then c.pair 0 l else c.pair 1 l)) (fun _ _ => 0)
  ∧ Gives (.maxS64 e k d a b) k d 2 [a, b]
      (fun c l => w64 (if (c.pair 0 l).slt (c.pair 1 l) then c.pair 1 l else c.pair 0 l)) (fun _ _ => 0)
  ∧ Gives (.minZ64 e k d a b) k d 2 [a, b]
      (fun c l => w64 (if (c.pair 0 l).ult (c.pair 1 l) then c.pair 0 l else c.pair 1 l)) (fun _ _ => 0)
  ∧ Gives (.maxZ64 e k d a b) k d 2 [a, b]
      (fun c l => w64 (if (c.pair 0 l).ult (c.pair 1 l) then c.pair 1 l else c.pair 0 l)) (fun _ _ => 0)
  ∧ Gives (.negS64 e k d a) k d 2 [a] (fun c l => w64 (-c.pair 0 l)) (fun _ _ => 0)
  ∧ Gives (.absS64 e k d a) k d 2 [a] (fun c l => w64 (if (c.pair 0 l).msb then -c.pair 0 l else c.pair 0 l)) (fun _ _ => 0)
  ∧ Gives (.mulhS64 e k d a b) k d 2 [a, b]
      (fun c l => w64 (((c.pair 0 l).signExtend 128 * (c.pair 1 l).signExtend 128).extractLsb' 64 64)) (fun _ _ => 0)
  ∧ Gives (.mulhZ64 e k d a b) k d 2 [a, b]
      (fun c l => w64 (((c.pair 0 l).zeroExtend 128 * (c.pair 1 l).zeroExtend 128).extractLsb' 64 64)) (fun _ _ => 0)
  ∧ Gives (.madS64 e k d a b) k d 2 [a, b, d] (fun c l => w64 (c.pair 0 l * c.pair 1 l + c.pair 2 l)) (fun _ _ => 0)
  ∧ Gives (.lea e k d a b u) k d 2 [a, b] (fun c l => w64 (c.pair 0 l + (c.x 1 l).signExtend 64 <<< u.val)) (fun _ _ => 0)

/-- R103, R105: immediates and SEL. -/
def Obligations.ImmediatesAndSelect : Prop :=
  ∀ (e k : Bool) (d a b : Reg) (p : Pred) (i10 : BitVec 10) (i17 : BitVec 17) (i16 : BitVec 16),
  Gives (.addS32Imm e k d a i10) k d 1 [a] (fun c l => w32 (c.x 0 l + i10.signExtend 32)) (fun _ _ => 0)
  ∧ Gives (.mulS32Imm e k d a i10) k d 1 [a] (fun c l => w32 (c.x 0 l * i10.signExtend 32)) (fun _ _ => 0)
  ∧ Gives (.ldi e k d i17) k d 1 [] (fun _ _ => w32 (i17.signExtend 32)) (fun _ _ => 0)
  ∧ Gives (.ldhi e k d i16) k d 1 [d] (fun c l => w32 (i16 ++ (c.x 0 l).extractLsb' 0 16)) (fun _ _ => 0)
  ∧ Gives (.sel e k d a b p) k d 1 [a, b] (fun c l => w32 (if predOf c.w l p then c.x 0 l else c.x 1 l)) (fun _ _ => 0)

/-- R54, R106, R131: CMP and FCMP write a predicate with their condition, on registers, on pairs and on FP32 values; the codes of the conditions; codes 6 and 7 trap with ILLEGAL_OP. -/
def Obligations.Compares : Prop :=
  (∀ (e : Bool) (d : Pred) (a b : Reg),
  GivesP (.cmp32 e d a b .eq) d [a, b] (fun c l => c.x 0 l == c.x 1 l) (fun _ _ => 0)
  ∧ GivesP (.cmp32 e d a b .ne) d [a, b] (fun c l => c.x 0 l != c.x 1 l) (fun _ _ => 0)
  ∧ GivesP (.cmp32 e d a b .ltS) d [a, b] (fun c l => (c.x 0 l).slt (c.x 1 l)) (fun _ _ => 0)
  ∧ GivesP (.cmp32 e d a b .leS) d [a, b] (fun c l => (c.x 0 l).sle (c.x 1 l)) (fun _ _ => 0)
  ∧ GivesP (.cmp32 e d a b .ltZ) d [a, b] (fun c l => (c.x 0 l).ult (c.x 1 l)) (fun _ _ => 0)
  ∧ GivesP (.cmp32 e d a b .leZ) d [a, b] (fun c l => (c.x 0 l).ule (c.x 1 l)) (fun _ _ => 0)
  ∧ GivesP (.cmp64 e d a b .eq) d [a, b] (fun c l => c.pair 0 l == c.pair 1 l) (fun _ _ => 0)
  ∧ GivesP (.cmp64 e d a b .ne) d [a, b] (fun c l => c.pair 0 l != c.pair 1 l) (fun _ _ => 0)
  ∧ GivesP (.cmp64 e d a b .ltS) d [a, b] (fun c l => (c.pair 0 l).slt (c.pair 1 l)) (fun _ _ => 0)
  ∧ GivesP (.cmp64 e d a b .leS) d [a, b] (fun c l => (c.pair 0 l).sle (c.pair 1 l)) (fun _ _ => 0)
  ∧ GivesP (.cmp64 e d a b .ltZ) d [a, b] (fun c l => (c.pair 0 l).ult (c.pair 1 l)) (fun _ _ => 0)
  ∧ GivesP (.cmp64 e d a b .leZ) d [a, b] (fun c l => (c.pair 0 l).ule (c.pair 1 l)) (fun _ _ => 0))
  ∧ (∀ (e : Bool) (d : Pred) (a b : Reg),
  let o (c : Ctx) (l : Lane) : Option Ordering := cmpNum (floatVal f32Fmt (c.x 0 l).toNat) (floatVal f32Fmt (c.x 1 l).toNat)
  let sig (c : Ctx) (l : Lane) : Flags :=
    flagIf (isSig (floatVal f32Fmt (c.x 0 l).toNat) || isSig (floatVal f32Fmt (c.x 1 l).toNat)) fNV
  let un (c : Ctx) (l : Lane) : Flags :=
    flagIf (isNan (floatVal f32Fmt (c.x 0 l).toNat) || isNan (floatVal f32Fmt (c.x 1 l).toNat)) fNV
  GivesP (.fcmp e d a b .eq) d [a, b] (fun c l => o c l == some .eq) sig
  ∧ GivesP (.fcmp e d a b .ne) d [a, b] (fun c l => o c l != some .eq) sig
  ∧ GivesP (.fcmp e d a b .lt) d [a, b] (fun c l => o c l == some .lt) un
  ∧ GivesP (.fcmp e d a b .le) d [a, b] (fun c l => o c l == some .lt || o c l == some .eq) un
  ∧ GivesP (.fcmp e d a b .un) d [a, b] (fun c l => o c l == none) sig
  ∧ GivesP (.fcmp e d a b .num) d [a, b] (fun c l => o c l != none) sig)
  ∧ ([Cond.eq, .ne, .ltS, .leS, .ltZ, .leZ].map Cond.code = [0, 1, 2, 3, 4, 5]
  ∧ [FCond.eq, .ne, .lt, .le, .un, .num].map FCond.code = [0, 1, 2, 3, 4, 5]
  ∧ ∀ w : Word, w.extractLsb' 25 6 ∈ [0x09#6, 0x0A#6, 0x16#6] → w.extractLsb' 0 3 ∈ [6#3, 7#3] → (∃ x, decode w = .error x)
      ∧ ∀ (s : State) (v : Wave) (r : Run) (ia : Nat), s.agenda = [] → halted s = false → current s = some (v, r) → shadowOf s v.id = none →
        fetchAt s v r.pc = .word ia w →
        step s = .next (enterTrap (fetchTouch s v ia false) v.id (.at .illegalOp (execMask v r) 0 r (r.pc.zeroExtend 64))))

/-- R129, R134: each result is the exact sum or product of the values, rounded once; the flags are those of the exact operation and of the rounding. -/
def Obligations.FloatArithmetic : Prop := ∀ (e k : Bool) (d a b : Reg) (r : Rnd),
  let v (c : Ctx) (j : Nat) (l : Lane) : Machine.Num := floatVal f32Fmt (c.x j l).toNat
  let h (c : Ctx) (j : Nat) (i : Nat) (l : Lane) : Machine.Num := floatVal f16Fmt ((c.x j l).extractLsb' (16 * i) 16).toNat
  let word (g : Ctx → Lane → Nat × Flags) (c : Ctx) (l : Lane) : BitVec 128 := w32 (BitVec.ofNat 32 (g c l).1)
  let both (lo hi : Nat × Flags) : Nat × Flags := (lo.1 + 65536 * hi.1, lo.2 ||| hi.2)
  let add (c : Ctx) (l : Lane) := rounded f32Fmt r (addNum r (v c 0 l) (v c 1 l))
  let sub (c : Ctx) (l : Lane) := rounded f32Fmt r (addNum r (v c 0 l) (negNum (v c 1 l)))
  let mul (c : Ctx) (l : Lane) := rounded f32Fmt r (mulNum (v c 0 l) (v c 1 l))
  let fma (c : Ctx) (l : Lane) := rounded f32Fmt r (fmaNum r (v c 0 l) (v c 1 l) (v c 2 l))
  let hadd (c : Ctx) (l : Lane) := both (rounded f16Fmt .rne (addNum .rne (h c 0 0 l) (h c 1 0 l)))
    (rounded f16Fmt .rne (addNum .rne (h c 0 1 l) (h c 1 1 l)))
  let hmul (c : Ctx) (l : Lane) := both (rounded f16Fmt .rne (mulNum (h c 0 0 l) (h c 1 0 l)))
    (rounded f16Fmt .rne (mulNum (h c 0 1 l) (h c 1 1 l)))
  let hfma (c : Ctx) (l : Lane) := both (rounded f16Fmt .rne (fmaNum .rne (h c 0 0 l) (h c 1 0 l) (h c 2 0 l)))
    (rounded f16Fmt .rne (fmaNum .rne (h c 0 1 l) (h c 1 1 l) (h c 2 1 l)))
  Gives (.fadd e k d a b r) k d 1 [a, b] (word add) (fun c l => (add c l).2)
  ∧ Gives (.fsub e k d a b r) k d 1 [a, b] (word sub) (fun c l => (sub c l).2)
  ∧ Gives (.fmul e k d a b r) k d 1 [a, b] (word mul) (fun c l => (mul c l).2)
  ∧ Gives (.ffma e k d a b r) k d 1 [a, b, d] (word fma) (fun c l => (fma c l).2)
  ∧ Gives (.hadd2 e k d a b) k d 1 [a, b] (word hadd) (fun c l => (hadd c l).2)
  ∧ Gives (.hmul2 e k d a b) k d 1 [a, b] (word hmul) (fun c l => (hmul c l).2)
  ∧ Gives (.hfma2 e k d a b) k d 1 [a, b, d] (word hfma) (fun c l => (hfma c l).2)

/-- R74, R75, R93, R129: the exact operations on special values. -/
def Obligations.FloatSpecialValues : Prop :=
  (∀ md s x, (addNum md (.nan s) x).1 = .nan false ∧ (addNum md x (.nan s)).1 = .nan false
    ∧ (mulNum (.nan s) x).1 = .nan false ∧ (mulNum x (.nan s)).1 = .nan false)
  ∧ (∀ md x y, (isSig x = true ∨ isSig y = true) → (addNum md x y).2 = fNV ∧ (mulNum x y).2 = fNV)
  ∧ (∀ md x y, isNan x = true → isSig x = false → isSig y = false → (addNum md x y).2 = 0 ∧ (mulNum x y).2 = 0)
  ∧ (∀ md n, addNum md (.inf n) (.inf !n) = (.nan false, fNV) ∧ addNum md (.inf n) (.inf n) = (.inf n, 0))
  ∧ (∀ md n n' m e, addNum md (.inf n) (.fin n' m e) = (.inf n, 0) ∧ addNum md (.fin n' m e) (.inf n) = (.inf n, 0))
  ∧ (∀ n n' e, mulNum (.inf n) (.fin n' 0 e) = (.nan false, fNV) ∧ mulNum (.fin n' 0 e) (.inf n) = (.nan false, fNV))
  ∧ (∀ n n' m e, m ≠ 0 → mulNum (.inf n) (.fin n' m e) = (.inf (n != n'), 0) ∧ mulNum (.fin n' m e) (.inf n) = (.inf (n' != n), 0))
  ∧ (∀ n n', mulNum (.inf n) (.inf n') = (.inf (n != n'), 0))
  ∧ (∀ md n z, (fmaNum md (.inf n) (.fin false 0 0) z).1 = .nan false ∧ (fmaNum md (.inf n) (.fin false 0 0) z).2 &&& fNV = fNV)
  ∧ (∀ md n m e, m ≠ 0 → signOf (addNum md (.fin n m e) (.fin (!n) m e)).1 = decide (md = .rdn)
      ∧ isZero (addNum md (.fin n m e) (.fin (!n) m e)).1 = true)
  ∧ ∀ md n e e', signOf (addNum md (.fin n 0 e) (.fin n 0 e')).1 = n

/-- R83: a value of a float format is rounded to itself in every mode, and a NaN to the canonical NaN (R75). -/
def Obligations.RoundingKeepsValues : Prop := ∀ (f : Fmt) (g : FloatFmt) (md : Rnd) (t p : Nat), fmtFloat f = some g →
  p < 2 ^ (match f with | .f32 => 32 | .f16 | .bf16 => 16 | .e4m3 | .e5m2 | .e5m3 | .s8 | .z8 | .s16 | .z16 | .s32 | .z32 | .s64 | .z64 => 8) →
  roundTo g md t (floatVal g p) = if isNan (floatVal g p) then (g.nan, flagIf (isSig (floatVal g p)) fNV) else (p, 0)

/-- R83: rounding a magnitude to a unit gives one of its two neighbours, the lower one when it is exact, and the nearer one under RNE and RNA (ties to even, or away). R84: under DTH, x between a and b = a + unit goes to b where (x − a) / (b − a) is at least the threshold of its position, whose five bits are reversed. -/
def Obligations.RoundingIsToANeighbour : Prop :=
  (∀ k j : Nat, j < 5 → (bitrev5 k).testBit j = k.testBit (4 - j))
  ∧ ∀ (md : Rnd) (t : Nat) (neg : Bool) (n r q : Nat), r < q →
  (r = 0 → roundsUp md t neg n r q = false)
  ∧ (roundsUp .rtz t neg n r q = false) ∧ (0 < r → roundsUp .rdn t neg n r q = neg ∧ roundsUp .rup t neg n r q = !neg)
  ∧ (2 * r < q → roundsUp .rne t neg n r q = false ∧ roundsUp .rna t neg n r q = false)
  ∧ (q < 2 * r → roundsUp .rne t neg n r q = true ∧ roundsUp .rna t neg n r q = true)
  ∧ (0 < r → 2 * r = q → roundsUp .rne t neg n r q = (n % 2 == 1) ∧ roundsUp .rna t neg n r q = true)
  ∧ (0 < r →
      let part : Rat := if neg then 1 - (r : Rat) / q else (r : Rat) / q
      let toB : Prop := ((bitrev5 (t % 32) : Rat) + 1 / 2) / 32 ≤ part
      roundsUp .dth t neg n r q = if neg then !decide toB else decide toB)

/-- R130, R132, R133, R136: FMIN, FMAX, FCLASS and FRND; and the functions, with the table of special cases for zeros, infinities and NaNs. fn32 gives the rounded function value (log 20). -/
def Obligations.FloatSelectionsAndFunctions : Prop :=
  (∀ (e k : Bool) (d a b : Reg) (r : Rnd),
  let v (c : Ctx) (j : Nat) (l : Lane) : Machine.Num := floatVal f32Fmt (c.x j l).toNat
  let lt (x y : Machine.Num) : Bool := cmpNum x y = some .lt || (cmpNum x y = some .eq && signOf x && !signOf y)
  let sig (c : Ctx) (l : Lane) : Flags := flagIf (isSig (v c 0 l) || isSig (v c 1 l)) fNV
  let pick (least : Bool) (c : Ctx) (l : Lane) : Word :=
    if isNan (v c 0 l) && isNan (v c 1 l) then 0x7FC00000#32
    else if isNan (v c 0 l) then c.x 1 l
    else if isNan (v c 1 l) then c.x 0 l
    else if lt (v c 0 l) (v c 1 l) = least then c.x 0 l else c.x 1 l
  let cls (x : Machine.Num) : Nat := match x with
    | .nan s => if s then 0 else 1
    | .inf n => if n then 2 else 9
    | .fin n m _ => if m = 0 then (if n then 5 else 6) else if m < 2 ^ 23 then (if n then 4 else 7) else (if n then 3 else 8)
  Gives (.fmin e k d a b) k d 1 [a, b] (fun c l => w32 (pick true c l)) sig
  ∧ Gives (.fmax e k d a b) k d 1 [a, b] (fun c l => w32 (pick false c l)) sig
  ∧ Gives (.fclass e k d a) k d 1 [a] (fun c l => w32 (BitVec.ofNat 32 (2 ^ cls (v c 0 l)))) (fun c l => flagIf (isSig (v c 0 l)) fNV)
  ∧ Gives (.frnd e k d a r) k d 1 [a] (fun c l => w32 (BitVec.ofNat 32 (integral r (c.x 0 l).toNat).1))
      (fun c l => (integral r (c.x 0 l).toNat).2))
  ∧ (∀ (e k : Bool) (d a : Reg),
  let word (f : Fn) (c : Ctx) (l : Lane) : BitVec 128 := w32 (BitVec.ofNat 32 (fn32 f (c.x 0 l).toNat).1)
  let fl (f : Fn) (c : Ctx) (l : Lane) : Flags := (fn32 f (c.x 0 l).toNat).2
  (Gives (.frcp e k d a) k d 1 [a] (word .rcp) (fl .rcp) ∧ Gives (.frsq e k d a) k d 1 [a] (word .rsq) (fl .rsq)
    ∧ Gives (.fsqrt e k d a) k d 1 [a] (word .sqrt) (fl .sqrt) ∧ Gives (.fexp2 e k d a) k d 1 [a] (word .exp2) (fl .exp2)
    ∧ Gives (.flog2 e k d a) k d 1 [a] (word .log2) (fl .log2) ∧ Gives (.fsinpi e k d a) k d 1 [a] (word .sinpi) (fl .sinpi)
    ∧ Gives (.fcospi e k d a) k d 1 [a] (word .cospi) (fl .cospi))
  ∧ [Fn.rcp, .rsq, .sqrt, .exp2, .log2, .sinpi, .cospi].map (fn32 · 0x00000000) =
      [(0x7F800000, fDZ), (0x7F800000, fDZ), (0, 0), (0x3F800000, 0), (0xFF800000, fDZ), (0, 0), (0x3F800000, 0)]
  ∧ [Fn.rcp, .rsq, .sqrt, .exp2, .log2, .sinpi, .cospi].map (fn32 · 0x80000000) =
      [(0xFF800000, fDZ), (0xFF800000, fDZ), (0x80000000, 0), (0x3F800000, 0), (0xFF800000, fDZ), (0x80000000, 0), (0x3F800000, 0)]
  ∧ [Fn.rcp, .rsq, .sqrt, .exp2, .log2, .sinpi, .cospi].map (fn32 · 0x7F800000) =
      [(0, 0), (0, 0), (0x7F800000, 0), (0x7F800000, 0), (0x7F800000, 0), (0x7FC00000, fNV), (0x7FC00000, fNV)]
  ∧ [Fn.rcp, .rsq, .sqrt, .exp2, .log2, .sinpi, .cospi].map (fn32 · 0xFF800000) =
      [(0x80000000, 0), (0x7FC00000, fNV), (0x7FC00000, fNV), (0, 0), (0x7FC00000, fNV), (0x7FC00000, fNV), (0x7FC00000, fNV)]
  ∧ (∀ f p s, floatVal f32Fmt p = .nan s → fn32 f p = (0x7FC00000, flagIf s fNV))
  ∧ ∀ p m e, floatVal f32Fmt p = .fin true m e → m ≠ 0 →
      fn32 .rsq p = (0x7FC00000, fNV) ∧ fn32 .sqrt p = (0x7FC00000, fNV) ∧ fn32 .log2 p = (0x7FC00000, fNV))

/-- R137, R56, R85: CVT converts the value of the source, at position the lane's number under DTH; a format converted to itself, and values that an integer destination has no room for. -/
def Obligations.Conversions : Prop :=
  (∀ (e k : Bool) (d a : Reg) (f src : Fmt) (r : Rnd) (u : Fin 8),
  let from' (c : Ctx) (l : Lane) : Nat := if src.regs = 2 then (c.pair 0 l).toNat else (c.x 0 l).toNat
  (Fmt.ofCode? u.val = some src → Gives (.cvt e k d a f r u) k d f.regs [a]
      (fun c l => w64 (convert src f r l.val (from' c l)).1) (fun c l => (convert src f r l.val (from' c l)).2))
  ∧ (Fmt.ofCode? (8 + u.val) = some src → Gives (.cvtFloatSource e k d a f r u) k d f.regs [a]
      (fun c l => w64 (convert src f r l.val (from' c l)).1) (fun c l => (convert src f r l.val (from' c l)).2)))
  ∧ ((∀ (md : Rnd) (t : Nat) (x : Word), convert .s32 .s32 md t x.toNat = (x.zeroExtend 64, 0) ∧ convert .z32 .z32 md t x.toNat = (x.zeroExtend 64, 0))
  ∧ (∀ (md : Rnd) (t : Nat) (x : DWord), convert .s64 .s64 md t x.toNat = (x, 0) ∧ convert .z64 .z64 md t x.toNat = (x, 0))
  ∧ (∀ (md : Rnd) (t : Nat) (x : Word), isNan (floatVal f32Fmt x.toNat) = false → convert .f32 .f32 md t x.toNat = (x.zeroExtend 64, 0))
  ∧ (∀ w sg md t, (∀ s, roundInt w sg md t (.nan s) = (0, fNV)) ∧ roundInt w sg md t (.inf true) = (intLo w sg, fSAT)
      ∧ roundInt w sg md t (.inf false) = (intHi w sg, fSAT))
  ∧ ∀ w md t m e, m ≠ 0 → roundInt w false md t (.fin true m e) = (0, fSAT ||| fNX))

/-- R135: DOT4. -/
def Obligations.ByteDotProducts : Prop := ∀ (e k : Bool) (d a b : Reg),
  let sb (c : Ctx) (j i : Nat) (l : Lane) : Word := ((c.x j l).extractLsb' (8 * i) 8).signExtend 32
  let zb (c : Ctx) (j i : Nat) (l : Lane) : Word := ((c.x j l).extractLsb' (8 * i) 8).zeroExtend 32
  Gives (.dot4S8 e k d a b) k d 1 [a, b, d]
    (fun c l => w32 (c.x 2 l + sb c 0 0 l * sb c 1 0 l + sb c 0 1 l * sb c 1 1 l + sb c 0 2 l * sb c 1 2 l + sb c 0 3 l * sb c 1 3 l))
    (fun _ _ => 0)
  ∧ Gives (.dot4Z8 e k d a b) k d 1 [a, b, d]
    (fun c l => w32 (c.x 2 l + zb c 0 0 l * zb c 1 0 l + zb c 0 1 l * zb c 1 1 l + zb c 0 2 l * zb c 1 2 l + zb c 0 3 l * zb c 1 3 l))
    (fun _ _ => 0)

/-- R108: PMOV. -/
def Obligations.PredicateMoves : Prop := ∀ (e k : Bool) (d : Pred) (r : Reg) (a b : Pred),
  GivesP (.pmovR2p e d r) d [r] (fun c l => c.x 0 l != 0) (fun _ _ => 0)
  ∧ Gives (.pmovP2r e k r a) k r 1 [] (fun c l => w32 (if predOf c.w l a then 1 else 0)) (fun _ _ => 0)
  ∧ GivesP (.pmovAnd e d a b) d [] (fun c l => predOf c.w l a && predOf c.w l b) (fun _ _ => 0)
  ∧ GivesP (.pmovOr e d a b) d [] (fun c l => predOf c.w l a || predOf c.w l b) (fun _ _ => 0)
  ∧ GivesP (.pmovXor e d a b) d [] (fun c l => predOf c.w l a ^^ predOf c.w l b) (fun _ _ => 0)
  ∧ GivesP (.pmovAndn e d a b) d [] (fun c l => predOf c.w l a && !predOf c.w l b) (fun _ _ => 0)
  ∧ GivesP (.pmovNot e d a) d [] (fun c l => !predOf c.w l a) (fun _ _ => 0)

/-- R109 to R111: SHFL, VOTE, WRED and WSCAN over the lanes of EXEC; the operations they combine with, and their identities. -/
def Obligations.CrossLane : Prop :=
  (∀ (e k x : Bool) (d a b : Reg) (p q : Pred) (o : RedOp),
  let from' (c : Ctx) (l : Lane) (s : Int) : Word := if h : 0 ≤ s ∧ s < 32 then c.x 0 ⟨s.toNat, by omega⟩ else c.x 0 l
  Gives (.shfl e k d a b .idx) k d 1 [a, b] (fun c l => w32 (from' c l (c.x 1 l).toNat)) (fun _ _ => 0)
  ∧ Gives (.shfl e k d a b .up) k d 1 [a, b] (fun c l => w32 (from' c l (l.val - (c.x 1 l).toNat))) (fun _ _ => 0)
  ∧ Gives (.shfl e k d a b .down) k d 1 [a, b] (fun c l => w32 (from' c l (l.val + (c.x 1 l).toNat))) (fun _ _ => 0)
  ∧ Gives (.shfl e k d a b .xor) k d 1 [a, b]
      (fun c l => w32 (if (c.x 1 l).toNat ≤ 31 then from' c l ((l.val ^^^ (c.x 1 l).toNat : Nat) : Int) else c.x 0 l)) (fun _ _ => 0)
  ∧ GivesP (.voteAny e p q) p [] (fun c _ => decide (∃ l, c.exec.has l = true ∧ predOf c.w l q = true)) (fun _ _ => 0)
  ∧ GivesP (.voteAll e p q) p [] (fun c _ => decide (∀ l, c.exec.has l = true → predOf c.w l q = true)) (fun _ _ => 0)
  ∧ Gives (.voteBallot e k d q) k d 1 [] (fun c _ => w32 (Mask.of fun l => c.exec.has l && predOf c.w l q)) (fun _ _ => 0)
  ∧ GivesP (.voteEq e p a) p [a]
      (fun c _ => decide (∀ l m, c.exec.has l = true → c.exec.has m = true → c.x 0 l = c.x 0 m)) (fun _ _ => 0)
  ∧ Gives (.wred e k d a o) k d 1 [a]
      (fun c _ => w32 ((laneList.filter c.exec.has).foldl (fun acc l => redOp o acc (c.x 0 l)) (redUnit o))) (fun _ _ => 0)
  ∧ Gives (.wscan e k d a x o) k d 1 [a]
      (fun c l => w32 ((laneList.filter fun m => c.exec.has m && (decide (m < l) || (!x && decide (m = l)))).foldl
        (fun acc m => redOp o acc (c.x 0 m)) (redUnit o))) (fun _ _ => 0))
  ∧ (∀ x y : Word,
  redOp .add x y = x + y ∧ redOp .minS x y = (if x.slt y then x else y) ∧ redOp .maxS x y = (if x.slt y then y else x)
  ∧ redOp .minZ x y = (if x.ult y then x else y) ∧ redOp .maxZ x y = (if x.ult y then y else x)
  ∧ redOp .and x y = x &&& y ∧ redOp .or x y = x ||| y ∧ redOp .xor x y = x ^^^ y
  ∧ ∀ o z, redOp o (redUnit o) x = x ∧ redOp o x y = redOp o y x ∧ redOp o (redOp o x y) z = redOp o x (redOp o y z))

/-- R114 to R119, R123: WINB, RCLAIM and RGIVE, and when they trap; a claim clears the error marks of the registers it adds; BRA, BRP and NOP: a taken lane goes to PC + 4 × offset, and the run ends. That a claim met at once leaves no wait is log 1's order of events. -/
def Obligations.WindowsAndBranches : Prop :=
  (∀ (e : Bool) (n : Fin 8),
  Ends (.winb e n) (fun c => n.val < c.w.blks.toNat) (fun c => c.done (modWave c.s c.w.id fun w => { w with winb := BitVec.ofFin n }))
  ∧ Ends (.winb e n) (fun c => c.w.blks.toNat ≤ n.val) (fun c => .trap c.s (.at .window c.exec 0 c.r 0))
  ∧ Ends (.rclaim e n) (fun c => ∃ p, c.w.place = some p ∧ c.w.granted = false ∧ c.w.claim = none ∧ c.w.blks.toNat + n.val ≤ 8
        ∧ n.val ≤ claimBound c.s c.w p 0 ∧ n.val ≤ freeBlocks c.s p.die p.core p.quad
        ∧ ∀ x ∈ quadClaims (endScouts c.s p.die p.core p.quad) p.die p.core p.quad, x.1.id = c.w.id)
      (fun c => c.done (modWave (clearPoison c.s c.w.id (32 * c.w.blks.toNat) (32 * n.val) (Mask.of fun _ => true)) c.w.id
        fun w => { addBlocks w n.val with claim := none }))
  ∧ Ends (.rclaim e n) (fun c => c.w.place.isSome ∧ c.w.granted = true) (fun c => c.done (modWave c.s c.w.id fun w => { w with granted := false }))
  ∧ Ends (.rclaim e n) (fun c => ∃ p, c.w.place = some p ∧ c.w.granted = false ∧ (8 < c.w.blks.toNat + n.val ∨ claimBound c.s c.w p 0 < n.val))
      (fun c => .trap c.s (.at .regClaim c.exec 0 c.r 0))
  ∧ Ends (.rgive e n) (fun c => n.val < c.w.blks.toNat ∧ c.w.winb.toNat < c.w.blks.toNat - n.val)
      (fun c => c.done (modWave c.s c.w.id fun w => dropBlocks w n.val))
  ∧ Ends (.rgive e n) (fun c => c.w.blks.toNat ≤ n.val) (fun c => .trap c.s (.at .regClaim c.exec 0 c.r 0))
  ∧ Ends (.rgive e n) (fun c => n.val < c.w.blks.toNat ∧ c.w.blks.toNat - n.val ≤ c.w.winb.toNat)
      (fun c => .trap c.s (.at .window c.exec 0 c.r 0)))
  ∧ (∀ (e u : Bool) (p : Pred) (o : BitVec 20),
  let goal (c : Ctx) : Pc := c.r.pc + 4 * o.signExtend 48
  Ends (.bra e o) (fun c => c.exec ≠ 0) (fun c => .done
      { s := c.s, adv := c.exec, vals := none, ends := true, back := c.exec.lanes.any (fun _ => true) && decide ((goal c).toNat ≤ c.r.pc.toNat)
        goes := fun _ => some (goal c) })
  ∧ Ends (.brp e p u o) (fun c => c.exec ≠ 0) (fun c => .done
      { s := c.s, adv := c.exec, vals := none, ends := true
        back := c.exec.lanes.any (fun l => predOf c.w l p != u) && decide ((goal c).toNat ≤ c.r.pc.toNat)
        goes := fun l => if predOf c.w l p != u then some (goal c) else none })
  ∧ Ends (.nop e) (fun c => c.exec ≠ 0) (fun c => .done ⟨c.s, c.exec, none, false, false, fun _ => none⟩))

/-- R34 to R37, R120 to R122, R187: CALL and CALLR of lanes whose levels fit on chip, and of lanes that spill; RET of lanes whose entry is on chip, and of lanes that read levels back; EXIT where each lane's join counter passes its checks; and the traps of a target that is not aligned (ADDR of CALLR's is the lowest lane's target, log 37), of a full stack, of an empty one, of a bad entry, of a spill or fill, and of the join counter's access. Which levels count among those on chip, and the order of a spill's checks, are log 86's choices. -/
def Obligations.CallsAndReturns : Prop :=
  (∀ (e : Bool) (o : BitVec 20) (a : Reg),
  let pushed (c : Ctx) (goal : Lane → Pc) : Res := .done
    { s := modWave c.s c.w.id fun w => mapLanes w c.exec fun _ x =>
        { x with depth := x.depth + 1
                 ret := (c.r.pc + 4).zeroExtend 64 :: if 16 ≤ x.ret.length then x.ret.take (x.ret.length - 8) else x.ret }
      adv := c.exec, vals := none, ends := true, back := false, goes := fun l => some (goal l) }
  let room (c : Ctx) : Prop := ∀ l, c.exec.has l = true → (laneOf c.w l).depth ≠ 4095 ∧ (laneOf c.w l).ret.length < 16
  let rel (c : Ctx) : Pc := c.r.pc + 4 * o.signExtend 48
  let abs (c : Ctx) (l : Lane) : Pc := (c.pair 0 l).extractLsb' 0 48
  Ends (.call e o) (fun c => room c ∧ (rel c).extractLsb' 0 2 = 0) (fun c => pushed c fun _ => rel c)
  ∧ Ends (.callr e a) (fun c => room c ∧ ∀ l, c.exec.has l = true → (abs c l).extractLsb' 0 2 = 0) (fun c => pushed c (abs c)))
  ∧ (∀ (e : Bool) (o : BitVec 20) (a : Reg),
  let home (c : Ctx) (l : Lane) (v : Nat) : DWord := c.w.csp + BitVec.ofNat 64 ((v - 1) * 256 + l.val * 8)
  let spill (c : Ctx) (l : Lane) (s : State) (v : Nat) : State := match locate s c.w.part (home c l v) with
    | none => s
    | some p => storeSpot s c l (home c l v) p (bytesOf (((laneOf c.w l).ret[(laneOf c.w l).depth.toNat - v]?).getD 0).toNat 8)
  let spilt (c : Ctx) : State := c.exec.lanes.foldl (fun s l => (spillLevelsOf (laneOf c.w l)).foldl (spill c l) s) c.s
  let pushed (c : Ctx) (goal : Lane → Pc) : Res := .done
    { s := modWave (spilt c) c.w.id fun w => mapLanes w c.exec fun _ x =>
        { x with depth := x.depth + 1
                 ret := (c.r.pc + 4).zeroExtend 64 :: if 16 ≤ x.ret.length then x.ret.take (x.ret.length - 8) else x.ret }
      adv := c.exec, vals := none, ends := true, back := false, goes := fun l => some (goal l) }
  let room (c : Ctx) : Prop := ∀ l, c.exec.has l = true → (laneOf c.w l).depth ≠ 4095
  let rel (c : Ctx) : Pc := c.r.pc + 4 * o.signExtend 48
  let abs (c : Ctx) (l : Lane) : Pc := (c.pair 0 l).extractLsb' 0 48
  let stops (c : Ctx) : Option Res := levelsStop c true fun l => spillLevelsOf (laneOf c.w l)
  let worst (c : Ctx) : Option (Trap × Mask × DWord) := worstLevels c true fun l => spillLevelsOf (laneOf c.w l)
  let sound (c : Ctx) : Prop := ∀ x ∈ levelVerdicts c true (fun l => spillLevelsOf (laneOf c.w l)), poisonIn x.2 = none
  (∀ (x : LaneCtx) (v : Nat), v ∈ spillLevelsOf x ↔ 16 ≤ x.ret.length ∧ x.depth.toNat - x.ret.length < v ∧ v ≤ x.depth.toNat - x.ret.length + 8
      ∧ x.trapLevel ≠ some (BitVec.ofNat 12 v))
  ∧ (∀ (s : State) (w : Wave) (l : Lane) (v : Nat) wr, wr = true → w.csz.toNat < v →
      verdictLevel s w l wr v = .fail 0 .callStack (w.csp + BitVec.ofNat 64 ((v - 1) * 256 + l.val * 8)))
  ∧ Ends (.call e o) (fun c => room c ∧ (rel c).extractLsb' 0 2 = 0 ∧ stops c = none) (fun c => pushed c fun _ => rel c)
  ∧ Ends (.callr e a) (fun c => room c ∧ (∀ l, c.exec.has l = true → (abs c l).extractLsb' 0 2 = 0) ∧ stops c = none) (fun c => pushed c (abs c))
  ∧ Ends (.call e o) (fun c => room c ∧ (rel c).extractLsb' 0 2 = 0 ∧ sound c ∧ (worst c).isSome)
      (fun c => match worst c with | some (t, m, x) => .trap c.s (.at t m 0 c.r x) | none => .settled c.s)
  ∧ Ends (.callr e a) (fun c => room c ∧ (∀ l, c.exec.has l = true → (abs c l).extractLsb' 0 2 = 0) ∧ sound c ∧ (worst c).isSome)
      (fun c => match worst c with | some (t, m, x) => .trap c.s (.at t m 0 c.r x) | none => .settled c.s))
  ∧ (∀ (e : Bool) (o : BitVec 20) (a : Reg),
  let abs (c : Ctx) (l : Lane) : Pc := (c.pair 0 l).extractLsb' 0 48
  let bad (c : Ctx) (l : Lane) : Bool := c.exec.has l && (abs c l).extractLsb' 0 2 != 0
  Ends (.callr e a) (fun c => ∃ l, bad c l = true)
    (fun c => .trap c.s (.at .align (Mask.of (bad c)) 0 c.r ((abs c ((Mask.of (bad c)).lowest.getD 0)).zeroExtend 64)))
  ∧ Ends (.call e o) (fun c => (c.r.pc + 4 * o.signExtend 48).extractLsb' 0 2 = 0 ∧ ∃ l, c.exec.has l = true ∧ (laneOf c.w l).depth = 4095)
      (fun c => .trap c.s (.at .callStack (Mask.of fun l => c.exec.has l && (laneOf c.w l).depth = 4095) 0 c.r (c.r.pc.zeroExtend 64))))
  ∧ (∀ (e : Bool),
  let entry (c : Ctx) (l : Lane) : DWord := (laneOf c.w l).ret.head?.getD 0
  Ends (.ret e) (fun c => ∀ l, c.exec.has l = true → (laneOf c.w l).depth ≠ 0 ∧ (laneOf c.w l).trapLevel ≠ some (laneOf c.w l).depth
        ∧ (2 ≤ (laneOf c.w l).ret.length ∨ (laneOf c.w l).ret.length = 1 ∧ (laneOf c.w l).depth = 1)
        ∧ (entry c l).extractLsb' 48 16 = 0 ∧ (entry c l).extractLsb' 0 2 = 0)
    (fun c => .done
      { s := modWave (addReleases c.s c.w (c.exec.lanes.flatMap fun l => releasesAt (laneOf c.w l) (laneOf c.w l).depth l)) c.w.id
          fun w => mapLanes w c.exec fun l x => { x with depth := x.depth - 1, ret := (laneOf c.w l).ret.drop 1 }
        adv := c.exec, vals := none, ends := true, back := false, goes := fun l => some ((entry c l).extractLsb' 0 48) })
  ∧ Ends (.ret e) (fun c => ∃ l, c.exec.has l = true ∧ (laneOf c.w l).depth = 0)
    (fun c => .trap c.s (.at .callStack (Mask.of fun l => c.exec.has l && (laneOf c.w l).depth = 0) 0 c.r (c.r.pc.zeroExtend 64))))
  ∧ (∀ (e : Bool),
  let home (c : Ctx) (l : Lane) (v : Nat) : DWord := c.w.csp + BitVec.ofNat 64 ((v - 1) * 256 + l.val * 8)
  let read (c : Ctx) (l : Lane) (v : Nat) : DWord := match locate c.s c.w.part (home c l v) with
    | some p => BitVec.ofNat 64 (loadSpot { c.s with free := c.s.free + 8 * (32 * v + l.val) } c p 8).1
    | none => 0
  let all (c : Ctx) (l : Lane) : List DWord := (laneOf c.w l).ret
    ++ (refillLevels (laneOf c.w l)).map fun v => if (laneOf c.w l).trapLevel = some (BitVec.ofNat 12 v) then 0 else read c l v
  let entry (c : Ctx) (l : Lane) : DWord := (all c l).head?.getD 0
  let live (c : Ctx) : Prop := ∀ l, c.exec.has l = true → (laneOf c.w l).depth ≠ 0 ∧ (laneOf c.w l).trapLevel ≠ some (laneOf c.w l).depth
  let stops (c : Ctx) : Option Res := levelsStop c false fun l => fillLevelsOf (laneOf c.w l)
  let fills (c : Ctx) : Prop := ∃ l, c.exec.has l = true ∧ refillLevels (laneOf c.w l) ≠ []
  let bad (c : Ctx) (l : Lane) : Bool := c.exec.has l && ((entry c l).extractLsb' 48 16 != 0 || (entry c l).extractLsb' 0 2 != 0)
  let worst (c : Ctx) : Option (Trap × Mask × DWord) := worstLevels c false fun l => fillLevelsOf (laneOf c.w l)
  let sound (c : Ctx) : Prop := ∀ x ∈ levelVerdicts c false (fun l => fillLevelsOf (laneOf c.w l)), poisonIn x.2 = none
  (∀ x : LaneCtx, x.ret.length = 1 → refillLevels x = (List.range (min 8 (x.depth.toNat - 1))).map fun k => x.depth.toNat - 1 - k)
  ∧ (∀ x : LaneCtx, 2 ≤ x.ret.length → refillLevels x = [])
  ∧ (∀ (x : LaneCtx) (v : Nat), v ∈ fillLevelsOf x ↔ v ∈ refillLevels x ∧ x.trapLevel ≠ some (BitVec.ofNat 12 v))
  ∧ Ends (.ret e) (fun c => live c ∧ stops c = none ∧ fills c ∧ ∀ l, bad c l = false)
    (fun c => .done
      { s := modWave (addReleases (fillLevels c) c.w (c.exec.lanes.flatMap fun l => releasesAt (laneOf c.w l) (laneOf c.w l).depth l)) c.w.id
          fun w => mapLanes w c.exec fun l x => { x with depth := x.depth - 1, ret := (all c l).drop 1 }
        adv := c.exec, vals := none, ends := true, back := false, goes := fun l => some ((entry c l).extractLsb' 0 48) })
  ∧ Ends (.ret e) (fun c => live c ∧ stops c = none ∧ ∃ l, bad c l = true)
    (fun c => .trap c.s (.at .callStack (Mask.of fun l => some l = (Mask.of (bad c)).lowest) 0 c.r (c.r.pc.zeroExtend 64)))
  ∧ Ends (.ret e) (fun c => (∀ l, c.exec.has l = true → (laneOf c.w l).depth ≠ 0)
      ∧ ∃ l, c.exec.has l = true ∧ (laneOf c.w l).trapLevel = some (laneOf c.w l).depth)
    (fun c => .trap c.s (.at .callStack (Mask.of fun l => c.exec.has l && (laneOf c.w l).trapLevel = some (laneOf c.w l).depth) 0 c.r
      (c.r.pc.zeroExtend 64)))
  ∧ Ends (.ret e) (fun c => live c ∧ sound c ∧ (worst c).isSome)
      (fun c => match worst c with | some (t, m, x) => .trap c.s (.at t m 0 c.r x) | none => .settled c.s))
  ∧ (∀ (e : Bool),
  let join (c : Ctx) : Lanes Verdict := Lanes.of fun l =>
    if c.w.spn && (laneOf c.w l).join ≠ 0 then verdictWord c.s c.w (laneOf c.w l).join 4 else .absent ⟨0, none, none, true, true, true, true⟩
  let left (c : Ctx) (m : Mask) : State :=
    flushJoins (modWave (addReleases c.s c.w (m.lanes.flatMap fun l => releasesAt (laneOf c.w l) 0 l)) c.w.id fun w =>
      { mapLanes w m (fun _ x => { x with pc := exitedPc, state := .exited, ret := [], trapLevel := none }) with
        joins := w.joins ++ if w.spn then (m.lanes.filter fun l => (laneOf w l).join ≠ 0).map fun l =>
          ⟨(laneOf w l).join, l, c.r.pc, c.r.exec, c.w.h⟩ else []
        aside := w.aside.map fun a =>
          { a with pcs := Lanes.of fun l => if m.has l then exitedPc else a.pcs.get l
                   states := Lanes.of fun l => if m.has l then .exited else a.states.get l } }) c.w.id
  let went (c : Ctx) : Mask := Mask.of fun l => c.exec.has l && mayDo ((join c).get l)
  Ends (.exit e) (fun c => Passes c (join c))
    (fun c => .done { s := left c c.exec, adv := c.exec, vals := none, ends := true, back := false, goes := fun _ => some exitedPc })
  ∧ Ends (.exit e) (fun c => poisoned (join c) c.exec = none ∧ needs c.w (join c) c.exec = [] ∧ (worst (join c) c.exec).isSome)
    (fun c => match worst (join c) c.exec with
      | some (t, m, a) => .trap (countTrap (left c (went c)) c.w t) (.at t m (went c ||| skipMask c.w c.r) c.r a)
      | none => .settled c.s))

/-- R140, R145: LD and LD.r. Every lane that executes passes the checks of its access (a page that is absent gives 0), no atomic of the wave is on its way to a line of it, no line of it is poisoned, and a load of remote memory has been sent to its endpoint: the values are sampled, and the result is to be written when it returns. -/
def Obligations.Loads : Prop := ∀ (e k : Bool) (d a : Reg) (p : Pred) (o7 : BitVec 7) (o4 : BitVec 4) (v : LdW),
  let at' (c : Ctx) (o : Int) (l : Lane) : DWord := c.pair 0 l + BitVec.ofInt 64 (o * v.bytes)
  let ok (c : Ctx) (o : Int) : Lanes Verdict := Lanes.of fun l => loadVerdict c.s c.w (verdictOf c.s c.w l (at' c o l) v.bytes false)
  let may (c : Ctx) (o : Int) : Prop := Passes c (ok c o) ∧ meetsAtomic c (ok c o) = false ∧ remoteUnasked c (ok c o) = false
  let res (c : Ctx) (o : Int) (q : Option Pred) : Res := .done
    ⟨sendLoad c (ok c o) (at' c o) v.bytes (extend v) q c.exec, c.exec,
      match d with | .q _ => none | .v _ | .g _ | .b _ => some (Lanes.of fun _ => 0), false, false, fun _ => none⟩
  Ends (.ld e k d a o7 v) (fun c => may c o7.toInt) (fun c => res c o7.toInt none)
  ∧ Ends (.ldR e k d a p o4 v) (fun c => may c o4.toInt) (fun c => res c o4.toInt (some p))

/-- R146: ST, where every lane passes its checks and a store to remote memory finds room in the held buffer (R351). -/
def Obligations.Stores : Prop := ∀ (e : Bool) (d a : Reg) (o : BitVec 7) (v : StW),
  let at' (c : Ctx) (l : Lane) : DWord := c.pair 0 l + BitVec.ofInt 64 (o.toInt * v.bytes)
  let ok (c : Ctx) : Lanes Verdict := Lanes.of fun l => verdictOf c.s c.w l (at' c l) v.bytes true
  Ends (.st e d a o v) (fun c => Passes c (ok c) ∧ storeWaits c (ok c) v.bytes = false)
    (fun c => .done ⟨storeLanes c (ok c) (at' c) (fun l => bytesOf (c.data 1 (regsOfBytes v.bytes) l).toNat v.bytes) c.exec,
      c.exec, none, false, false, fun _ => none⟩)

/-- R71, R142 to R147: what a load samples and how it is extended; a store on its way changes no byte of device memory before it is performed; a store to a reservation changes exactly its bytes. -/
def Obligations.AccessEffects : Prop :=
  (∀ (x : Nat),
  extend .s8 x = ((BitVec.ofNat 8 x).signExtend 32).zeroExtend 128 ∧ extend .s16 x = ((BitVec.ofNat 16 x).signExtend 32).zeroExtend 128
  ∧ (∀ b : BitVec 8, extend .z8 b.toNat = b.zeroExtend 128) ∧ (∀ b : BitVec 16, extend .z16 b.toNat = b.zeroExtend 128)
  ∧ (∀ b : BitVec 32, extend .b32 b.toNat = b.zeroExtend 128) ∧ (∀ b : BitVec 64, extend .b64 b.toNat = b.zeroExtend 128)
  ∧ ∀ b : BitVec 128, extend .b128 b.toNat = b)
  ∧ (∀ (c : Ctx) (v : Lanes Verdict) (a : Lane → DWord) (n : Nat) (ext : Nat → BitVec 128)
    (q : Option Pred) (l : Lane) (p : Spot) (w : Wave), v.get l = .ok p → p.remote = none → findWave c.s c.w.id = some w →
  let t := sendLoad c v a n ext q (Mask.of (· = l))
  t.mem = c.s.mem ∧ ∃ w' x, findWave t c.w.id = some w' ∧ w'.lanes = w.lanes ∧ w'.pend = w.pend ++ [x] ∧ x.mask = Mask.of (· = l)
    ∧ x.vals.get l = ext (lineGet (coreLine c.s c.die c.core (p.ia / 64)) (p.ia % 64) n))
  ∧ (∀ (s : State) (c : Ctx) (l : Lane) (a : DWord) (ia : Nat) (k : FlightKind) (w : Wave),
  findWave s c.w.id = some w →
  let t := sendStore s c l a ia k
  t.mem = s.mem ∧ (∃ f, t.flights = s.flights ++ [f] ∧ f.ia = ia ∧ f.kind = k ∧ f.wave = c.w.id ∧ f.performed = none)
  ∧ ∃ w', findWave t c.w.id = some w' ∧ w' = { w with stores := w.stores + 1 })
  ∧ (∀ (s : State) (g off : Nat) (bs : List Byte) (x : Group), findGroup s g = some x →
  let t := bufWrite s g 0 off bs
  t.mem = s.mem ∧ t.waves = s.waves ∧ ∃ y, findGroup t g = some y ∧ y.wbuf = x.wbuf ∧ y.cbuf = x.cbuf
    ∧ ∀ j, readByte y.abuf j = if off ≤ j ∧ j < off + bs.length then bs.getD (j - off) 0 else readByte x.abuf j)

/-- R152, R153, R158, R159: the hints, which never trap but for PAGEREQ's own check; FENCE, ACQ and REL once nothing of the wave is on its way. -/
def Obligations.HintsAndBarriers : Prop :=
  (∀ (e : Bool) (a : Reg) (o : BitVec 7),
  let at' (c : Ctx) (l : Lane) : DWord := c.pair 0 l + BitVec.ofInt 64 (o.toInt * 1)
  let page (c : Ctx) : Lanes Verdict := Lanes.of fun l => verdictPage c.s c.w (at' c l)
  Ends (.prefL1 e a o) (fun c => c.exec ≠ 0)
    (fun c => .done ⟨hint c o.toInt true prefDrop c.exec, c.exec, none, false, false, fun _ => none⟩)
  ∧ Ends (.prefLlc e a o) (fun c => c.exec ≠ 0)
    (fun c => .done ⟨hint c o.toInt false prefDrop c.exec, c.exec, none, false, false, fun _ => none⟩)
  ∧ Ends (.pagereq e a o) (fun c => ∀ l, c.exec.has l = true → ∃ q, locate c.s c.w.part (at' c l) = some q ∧ (q.rp || q.wp) = true)
    (fun c => .done ⟨requestPages c (page c) c.exec, c.exec, none, false, false, fun _ => none⟩))
  ∧ (∀ (e : Bool) (sc : Scope),
  let wide (sc : Scope) : Bool := match sc with | .thread | .wave | .group => false | .clus | .die | .dev | .sys => true
  let seen (c : Ctx) : State := if wide sc then l1DropAll c.s c.die c.core else c.s
  Ends (.fence e sc) (fun c => c.w.pend = [] ∧ (wide sc = true → c.w.stores = 0)) (fun c => .done ⟨seen c, c.exec, none, true, false, fun _ => none⟩)
  ∧ Ends (.acq e sc) (fun c => c.w.pend = []) (fun c => .done ⟨seen c, c.exec, none, true, false, fun _ => none⟩)
  ∧ Ends (.rel e sc) (fun c => c.w.pend = [] ∧ (wide sc = true → c.w.stores = 0)) (fun c => .done ⟨c.s, c.exec, none, true, false, fun _ => none⟩)
  ∧ Ends (.fence e sc) (fun c => wide sc = true ∧ c.w.stores ≠ 0) (fun c => .wait c.s .fence)
  ∧ Ends (.rel e sc) (fun c => wide sc = true ∧ c.w.stores ≠ 0) (fun c => .wait c.s .fence))

/-- R154 to R156, R160 to R162: COLOUR, TAGSET and TAGGET where every lane's checks pass, TAGGET once the die counts what the home has sent (R263); CJOIN with a key that no group of the core has joined, and CLEAVE. -/
def Obligations.MetadataAndSharing : Prop :=
  (∀ (e k : Bool) (d a : Reg) (o : BitVec 7),
  let at' (c : Ctx) (l : Lane) : DWord := c.pair 0 l + BitVec.ofInt 64 (o.toInt * 64)
  let tag (c : Ctx) : Lanes Verdict := Lanes.of fun l => verdictTag c.s c.w (at' c l)
  let colour (x : Word) : FlightKind := .colour (x.extractLsb' 0 6)
  let key (x : Word) : FlightKind := .key (x.extractLsb' 0 4)
  Ends (.colour e d a o) (fun c => (rangeLanes c o.toInt true colour).2 = [])
    (fun c => .done ⟨(rangeLanes c o.toInt true colour).1, c.exec, none, true, false, fun _ => none⟩)
  ∧ Ends (.tagset e d a o) (fun c => (rangeLanes c o.toInt false key).2 = [])
    (fun c => .done ⟨(rangeLanes c o.toInt false key).1, c.exec, none, true, false, fun _ => none⟩)
  ∧ Ends (.tagget e k d a o) (fun c => Passes c (tag c) ∧ ∀ l, homeCounted c ((tag c).get l) = true)
    (fun c => delivered c (fun l => tagValue c ((tag c).get l))
      (deliver c (c.exec.lanes.foldl (tagLane c (tag c) (at' c)) c.s) c.exec fun l => tagValue c ((tag c).get l))))
  ∧ (∀ (e k : Bool) (d : Reg),
  Ends (.cjoin e k d) (fun c => ∃ g, findGroup c.s c.w.group = some g ∧ g.sharing = none ∧ c.x 0 c.top ≠ 0
        ∧ (c.s.groups.any fun x => x.sharing = some (c.x 0 c.top) && x.part = g.part && x.place = g.place && g.place.isSome) = false)
    (fun c =>
      let t := modGroup c.s c.w.group fun x => { x with sharing := some (c.x 0 c.top) }
      let st (l : Lane) : BitVec 128 := w32 (match findGroup c.s c.w.group with
        | some g => membersOf t { g with sharing := some (c.x 0 c.top) } (c.x 0 c.top)
        | none => (l.val : Word))
      delivered c st (deliver c t c.exec st))
  ∧ Ends (.cjoin e k d) (fun c => ∃ g q, findGroup c.s c.w.group = some g ∧ g.sharing = some q)
    (fun c =>
      let st (l : Lane) : BitVec 128 := w32 (match findGroup c.s c.w.group with
        | some g => membersOf c.s g (g.sharing.getD 0) ||| 0x40000000#32
        | none => (l.val : Word))
      delivered c st (deliver c c.s c.exec st))
  ∧ Ends (.cleave e) (fun c => c.exec ≠ 0)
    (fun c => .done ⟨modGroup c.s c.w.group fun g => { g with sharing := none }, c.exec, none, true, false, fun _ => none⟩))

/-- R141, R142, R147, R148: LDA, STA and LDC where every lane may access its place. -/
def Obligations.BufferWords : Prop := ∀ (e k u : Bool) (d a : Reg) (o : BitVec 7) (w : BufW) (z : LdcW),
  let at' (c : Ctx) (l : Lane) : Word := c.x 0 l + BitVec.ofInt 32 (o.toInt * w.bytes)
  let vb (c : Ctx) (wr : Bool) (l : Lane) : Option BufSpot := bufSpot (verdictBuf c.s c.w (at' c l) w.bytes u wr)
  let vc (c : Ctx) (l : Lane) : Option BufSpot := bufSpot (verdictCell c.s c.w (c.x 0 l + BitVec.ofInt 32 (o.toInt * z.bytes)) z.bytes)
  let lda (c : Ctx) (l : Lane) : BitVec 128 := match vb c false l with
    | some p => BitVec.ofNat 128 (abufRead c.s p w.bytes) | none => 0
  let ldc (c : Ctx) (l : Lane) : BitVec 128 := match vc c l with
    | some p => BitVec.ofNat 128 (cbufRead c.s p z.bytes) | none => 0
  Ends (.lda e k d a o u w) (fun c => ∀ l, c.exec.has l = true → ∃ p, vb c false l = some p ∧ bufPoisoned c.s p.group 0 p.off w.bytes = false)
    (fun c => delivered c (lda c) (deliver c (c.exec.lanes.foldl (fun s l => match vb c false l with
      | some p => watchBuf s c l 0 p w.bytes | none => s) c.s) c.exec (lda c)))
  ∧ Ends (.sta e d a o u w) (fun c => ∀ l, c.exec.has l = true → (vb c true l).isSome)
    (fun c => .done ⟨c.exec.lanes.foldl (fun s l => match vb c true l with
      | some p =>
        let t := watchBuf (bufWrite s p.group 0 p.off (bytesOf (c.data 1 (regsOfBytes w.bytes) l).toNat w.bytes)) c l 1 p w.bytes
        if p.peer then awaitAck t c l ((c.x 0 l).zeroExtend 64) p.off else t
      | none => s) c.s, c.exec, none, false, false, fun _ => none⟩)
  ∧ Ends (.ldc e k d a o z) (fun c => ∀ l, c.exec.has l = true → ∃ p, vc c l = some p ∧ bufPoisoned c.s p.group 2 p.off z.bytes = false)
    (fun c => delivered c (ldc c) (deliver c c.s c.exec (ldc c)))

/-- R168 to R176: ATOM and RED where every lane passes: one request for each address, in the order of their first lanes. -/
def Obligations.AtomicWords : Prop := ∀ (e k : Bool) (d a : Reg) (sc : Scope) (o : BitVec 4) (i : RedOp) (x : AtomX) (r : RedX),
  let at' (c : Ctx) (n : Nat) (l : Lane) : DWord := c.pair 0 l + BitVec.ofInt 64 (o.toInt * n)
  let ok (c : Ctx) (n : Nat) : Lanes Verdict := Lanes.of fun l => verdictAtom c.s c.w l (at' c n l) n
  let sent (c : Ctx) (op : AtOp) (n : Nat) (ret : Bool) : Res := .done
    ⟨(byAddress (ok c n) c.exec).foldl (sendAtom c op sc ret (at' c n)) c.s, c.exec,
      if ret then some (Lanes.of fun _ => 0) else none, false, false, fun _ => none⟩
  let rx : AtomX := match r with | .addF => .addF | .minF => .minF | .maxF => .maxF | .add64 => .add64
  Ends (.atomInt e k d a sc o i) (fun c => Passes c (ok c 4)) (fun c => sent c (.i i) 4 true)
  ∧ Ends (.atomExt e k d a sc o x) (fun c => Passes c (ok c x.bytes)) (fun c => sent c (.x x) x.bytes true)
  ∧ Ends (.redInt e d a sc o i) (fun c => Passes c (ok c 4)) (fun c => sent c (.i i) 4 false)
  ∧ Ends (.redExt e d a sc o r) (fun c => Passes c (ok c rx.bytes)) (fun c => sent c (.x rx) rx.bytes false)

/-- R94, R175, R176: what each operation leaves at the location, and what lanes of one address get: each the value before its own step, in ascending lane order, and for the float add the sum of the operands combined in that order. -/
def Obligations.AtomicOperations : Prop :=
  (∀ (o : RedOp) (old v y : Word), atStep (.i o) old.toNat v.toNat y.toNat = (redOp o old v).toNat)
  ∧ (∀ old v y : Nat, atStep (.x .exch32) old v y = v ∧ atStep (.x .exch64) old v y = v
      ∧ atStep (.x .cas32) old v y = (if old = v then y else old) ∧ atStep (.x .cas64) old v y = (if old = v then y else old)
      ∧ atStep (.x .add64) old v y = (old + v) % 2 ^ 64)
  ∧ (∀ (op : AtOp) (old : Nat), combines op = false → atCombine op old [] = (old, []) ∧
      ∀ (l : Lane) (v y : DWord) (rest : List (Lane × DWord × DWord)),
        (atCombine op old ((l, v, y) :: rest)).1 = (atCombine op (atStep op old v.toNat y.toNat) rest).1
        ∧ (atCombine op old ((l, v, y) :: rest)).2 = (l, old) :: (atCombine op (atStep op old v.toNat y.toNat) rest).2)
  ∧ ∀ (op : AtOp) (old : Nat) (ls : List (Lane × DWord × DWord)), (atCombine op old ls).2.map (·.1) = ls.map (·.1)

/-- R171, R177, R178, R181, R182, R188: the words that take a step at a control word: once the wave's earlier accesses allow it, each lane takes its step, and with no lane failing the word completes for the lanes done, while the others park. -/
def Obligations.ControlWords : Prop := ∀ (e : Bool) (d a : Reg) (sc : Scope) (o4 : BitVec 4) (o7 : BitVec 7),
  let at' (c : Ctx) (o : Int) (l : Lane) : DWord := c.pair 0 l + BitVec.ofInt 64 (o * 4)
  let ok (c : Ctx) (o : Int) (h : Bool) : Lanes Verdict := Lanes.of fun l => verdictCtl c.s c.w l (at' c o l) 4 h
  let ended (c : Ctx) (k : ParkKind) (after : State → State) (x : Steps) : Res :=
    .done ⟨parkLanes (if x.done = 0 then x.s else after x.s) c.w.id k x.parks, x.done, none, true, false, fun _ => none⟩
  let sig (c : Ctx) : Steps := stepLanes c (ok c o4.toInt false) (at' c o4.toInt) 4 (semsigLane c (at' c o4.toInt))
  let take (c : Ctx) : Steps := stepLanes c (ok c o4.toInt false) (at' c o4.toInt) 4 (semtakeLane c (at' c o4.toInt))
  let wait (c : Ctx) : Steps := stepLanes c (ok c o4.toInt true) (at' c o4.toInt) 4 (semwaitLane c (at' c o4.toInt))
  let join (c : Ctx) : Steps := stepLanes c (ok c o7.toInt true) (at' c o7.toInt) 4 (joinwLane c)
  let csig (c : Ctx) : Steps := stepLanes c (ok c o7.toInt false) (at' c o7.toInt) 4 (csigLane c (at' c o7.toInt))
  Ends (.semsig e d a sc o4) (fun c => Passes c (ok c o4.toInt false) ∧ released c.w sc = true ∧ homesReady c (ok c o4.toInt false) = true
      ∧ (sig c).fails = []) (fun c => ended c .semaphore (grantAfter c (ok c o4.toInt false) (at' c o4.toInt) (sig c).done) (sig c))
  ∧ Ends (.semtake e d a sc o4) (fun c => Passes c (ok c o4.toInt false) ∧ acquireReady c (ok c o4.toInt false) sc = true
      ∧ (take c).fails = []) (fun c => ended c .semaphore (acquireAt · c sc) (take c))
  ∧ Ends (.semwait e d a sc o4) (fun c => Passes c (ok c o4.toInt true) ∧ acquireReady c (ok c o4.toInt true) sc = true
      ∧ (wait c).fails = []) (fun c => ended c .semaphore (acquireAt · c sc) (wait c))
  ∧ Ends (.joinw e d a o7) (fun c => Passes c (ok c o7.toInt true) ∧ acquireReady c (ok c o7.toInt true) .dev = true
      ∧ (join c).fails = []) (fun c => ended c .join (acquireAt · c .dev) (join c))
  ∧ Ends (.csig e d a o7) (fun c => Passes c (ok c o7.toInt false) ∧ released c.w .dev = true ∧ homesReady c (ok c o7.toInt false) = true
      ∧ (csig c).fails = []) (fun c => ended c .condition (fun t => t) (csig c))

/-- R177, R178, R180, R181, R283: one lane's step at a semaphore word with the traps SEM_UNDER and SEM_OVER; BAR; CWAIT of lanes that hold no colour. -/
def Obligations.Synchronisation : Prop :=
  (∀ (c : Ctx) (a : Lane → DWord) (x : Steps) (ia : Nat) (l : Lane),
  let y : Int := (counterWord x.s ia).toInt
  let n : Int := (c.x 1 l).toNat
  let queued : Bool := x.s.waiters.any (fun q => q.kind = .semaphore && q.ia = ia) || x.parks.any fun q => q.2.1 = ia
  (y < 0 → semsigLane c a x ia l = .fail (rankOf .semUnder) .semUnder ∧ semtakeLane c a x ia l = .fail (rankOf .semUnder) .semUnder
      ∧ semwaitLane c a x ia l = .fail (rankOf .semUnder) .semUnder)
  ∧ (0 ≤ y → y + n < 2 ^ 31 → semsigLane c a x ia l = .done (c.setWord x.s l (a l) ia (BitVec.ofInt 32 (y + n))))
  ∧ (0 ≤ y → 2 ^ 31 ≤ y + n → semsigLane c a x ia l = .fail (rankOf .semOver) .semOver)
  ∧ (0 ≤ y → n ≤ y → semtakeLane c a x ia l = .done (c.setWord x.s l (a l) ia (BitVec.ofInt 32 (y - n))))
  ∧ (0 ≤ y → y < n → semtakeLane c a x ia l = .fail (rankOf .semUnder) .semUnder)
  ∧ (0 ≤ y → (laneOf c.w l).waitSat = false → 0 < n → n ≤ y → queued = false →
      semwaitLane c a x ia l = .done (c.setWord x.s l (a l) ia (BitVec.ofInt 32 (y - n))))
  ∧ (0 ≤ y → (laneOf c.w l).waitSat = false → 0 < n → n < 2 ^ 31 → (y < n ∨ queued = true) → semwaitLane c a x ia l = .park (c.meetWord x.s ia) (c.x 1 l))
  ∧ (0 ≤ y → (laneOf c.w l).waitSat = true → semwaitLane c a x ia l = .done (clearSat x.s c.w.id l)))
  ∧ (∀ (e : Bool),
  let sat (c : Ctx) : Mask := Mask.of fun l => c.exec.has l && (laneOf c.w l).waitSat
  Ends (.bar e) (fun c => (∀ l, c.exec.has l = true → (laneOf c.w l).held = []) ∧ c.w.pend = [])
    (fun c => .done ⟨arrive ((sat c).lanes.foldl (fun t l => clearSat t c.w.id l) c.s) c (c.exec &&& ~~~sat c), sat c, none, true, false,
      fun _ => none⟩)
  ∧ Ends (.bar e) (fun c => ∃ l, c.exec.has l = true ∧ (laneOf c.w l).held ≠ [])
    (fun c => .trap c.s (.at .monitorWait (Mask.of fun l => c.exec.has l && !(laneOf c.w l).held.isEmpty) 0 c.r 0)))
  ∧ (∀ (e : Bool) (d a : Reg) (o : BitVec 7),
  let at' (c : Ctx) (l : Lane) : DWord := c.pair 0 l + BitVec.ofInt 64 (o.toInt * 4)
  let sat (c : Ctx) : Mask := Mask.of fun l => c.exec.has l && (laneOf c.w l).waitSat
  let ok (c : Ctx) : Lanes Verdict := Lanes.of fun l => if (sat c).has l then .need 0 else verdictCtl c.s c.w l (at' c l) 4 false
  let x (c : Ctx) : Steps := stepLanes { c with exec := c.exec &&& ~~~sat c } (ok c) (at' c) 4 (cwaitLane c)
  Ends (.cwait e d a o) (fun c => (∀ l, c.exec.has l = true → (sat c).has l = false → mayDo ((ok c).get l) = true)
      ∧ (∀ l, c.exec.has l = true → (laneOf c.w l).held = []) ∧ c.w.release = [] ∧ c.w.pend = []
      ∧ (sat c ≠ c.exec → released c.w .dev = true) ∧ homesReady c (ok c) = true ∧ homesCounted c (ok c) = true)
    (fun c => .done ⟨parkLanes ((sat c).lanes.foldl (fun t l => clearSat t c.w.id l) (if sat c = 0 then (x c).s else acquireAt (x c).s c .dev))
      c.w.id .condition (x c).parks, sat c, none, true, false, fun _ => none⟩))

/-- R183 to R186, R189: SPAWN and ENQT. ENQT completes for the lanes that have appended; where lower lanes have appended and the others find the queue full, these wait (log 24, an inference). -/
def Obligations.SpawnAndEnqueue : Prop := ∀ (e : Bool) (n : BitVec 5) (k : Fin 4) (j t : Reg) (p : Pred) (d a : Reg) (o : BitVec 7),
  let sp (c : Ctx) : Lanes Verdict := Lanes.of (verdictSpawn c)
  let made (c : Ctx) : State × Mask := c.exec.lanes.foldl (spawnLane c (k.val + 1) (sp c)) (c.s, 0)
  let at' (c : Ctx) (l : Lane) : DWord := c.pair 0 l + BitVec.ofInt 64 (o.toInt * 64)
  let eq (c : Ctx) : Lanes Verdict := Lanes.of (verdictEnqt c o.toInt)
  let x (c : Ctx) : Steps := stepLanes c (eq c) (at' c) 64 (enqtLane c)
  Ends (.spawn e n k j t p) (fun c => Passes c (sp c) ∧ released c.w .dev = true ∧ homesReady c (sp c) = true)
    (fun c => .done ⟨writePred (made c).1 c.w c.exec p (made c).2.has, c.exec, none, true, false, fun _ => none⟩)
  ∧ Ends (.enqt e d a o) (fun c => Passes c (eq c) ∧ released c.w .dev = true ∧ homesReady c (eq c) = true ∧ (x c).fails = [] ∧ (x c).done ≠ 0)
    (fun c => .done ⟨parkLanes (x c).s c.w.id .join [], (x c).done, none, true, false, fun _ => none⟩)

/-- R194, R196, R199, R202, R206, R209 to R212, R214: TDEF defines, redefines and frees a tile, and waits or traps; TSET, CINIT, CKMODE, QBIND and QSTAT; MMA and MMAS arrive at the rendezvous of their gang, the first arrival making it and each later one joining it, where the event MMA_ACCEPT takes the operation once all have arrived (MatrixEvents); fields that differ fail the gang with GANG, tiles that R201 refuses with ENGINE; CDRAIN starts the drain, with the tiles busy until its event ends it. Which rendezvous a wave that two gangs name meets is the model's choice (log 94). -/
def Obligations.MatrixAndQueueWords : Prop :=
  (∀ (e : Bool) (n : Fin 64) (q : Reg) (st : TileState) (m : BitVec 3),
  let d (c : Ctx) : BitVec 128 := c.quad 0 c.top
  let trap (t : Trap) (a : Ctx → DWord) (c : Ctx) : Res := .trap c.s (.at t c.exec 0 c.r (a c))
  let ok (f : Ctx → State) (c : Ctx) : Res := .done ⟨f c, c.exec, none, true, false, fun _ => none⟩
  let tile (c : Ctx) (P : Tile → Prop) : Prop := ∃ g x, findGroup c.s c.w.group = some g ∧ findTile g n = some x ∧ P x
  let noTile (c : Ctx) : Prop := ∃ g, findGroup c.s c.w.group = some g ∧ findTile g n = none
  let held (x : Tile) : Prop := x.busy ≠ 0 ∨ x.state = .filling ∨ x.state = .draining
  let may (P : Ctx → Group → Prop) (c : Ctx) : Prop := (noTile c ∨ tile c fun x => ¬ held x)
    ∧ ∃ g, findGroup c.s c.w.group = some g ∧ P c g
  let fits (c : Ctx) (g : Group) : Prop := tdBase (d c) + tdBytes (d c) ≤ (bufOf g (tdKind (d c))).2
  let room (c : Ctx) (g : Group) : Prop := (findTile g n).isSome ∨ entriesUsed c.s g.place < Config.tileEntries
  let sound (c : Ctx) : Prop := tdOk (d c) = true ∧ tdKind (d c) ≠ 3
  let base (c : Ctx) : DWord := BitVec.ofNat 64 (tdBase (d c))
  Ends (.tdef e n q) (fun c => tile c held) (fun c => .wait c.s .tile)
  ∧ Ends (.tdef e n q) (may fun c g => sound c ∧ tdBase (d c) % 64 = 0 ∧ fits c g ∧ room c g) (ok fun c => defineTile c.s c.w.group n (d c))
  ∧ Ends (.tdef e n q) (may fun c _ => tdOk (d c) = true ∧ tdKind (d c) = 3) (ok fun c => freeTile c.s c.w.group n)
  ∧ Ends (.tdef e n q) (may fun c _ => tdOk (d c) = false) (trap .engine fun _ => 0)
  ∧ Ends (.tdef e n q) (may fun c _ => sound c ∧ tdBase (d c) % 64 ≠ 0) (trap .align base)
  ∧ Ends (.tdef e n q) (may fun c g => sound c ∧ tdBase (d c) % 64 = 0 ∧ ¬ fits c g) (trap .perm base)
  ∧ Ends (.tdef e n q) (may fun c g => sound c ∧ tdBase (d c) % 64 = 0 ∧ fits c g ∧ ¬ room c g) (trap .engine fun _ => 0)
  ∧ Ends (.tset e n st) (fun c => tile c fun x => x.busy = 0) (ok fun c => setTile c.s c.w.group n st)
  ∧ Ends (.tset e n st) (fun c => tile c fun x => x.busy ≠ 0) (fun c => .wait c.s .tile)
  ∧ Ends (.tset e n st) noTile (trap .engine fun _ => 0)
  ∧ Ends (.cinit e n) (fun c => tile c fun x => tdKind x.desc = 2 ∧ x.state = .ready ∧ x.busy = 0)
    (ok fun c => match findGroup c.s c.w.group with
      | some g => (match findTile g n with | some x => clearTile c.s g x | none => c.s)
      | none => c.s)
  ∧ Ends (.cinit e n) (fun c => tile c fun x => tdKind x.desc = 2 ∧ (x.state ≠ .ready ∨ x.busy ≠ 0)) (fun c => .wait c.s .tile)
  ∧ Ends (.cinit e n) (fun c => noTile c ∨ tile c fun x => tdKind x.desc ≠ 2) (trap .engine fun _ => 0)
  ∧ Ends (.ckmode e m) (fun c => c.exec ≠ 0) (ok fun c => modWave c.s c.w.id fun w => { w with ckmode := m }))
  ∧ (∀ (s : State) (g : Group) (n : Fin 64) (d : BitVec 128) (st : TileState), findGroup s g.id = some g →
    let tiles (t : State) (P : Option Tile → Prop) : Prop := (∀ k, k ≠ g.id → findGroup t k = findGroup s k)
      ∧ ∃ h, findGroup t g.id = some h ∧ h = { g with tiles := h.tiles } ∧ P (findTile h n) ∧ ∀ k, k ≠ n → findTile h k = findTile g k
    let zero : CkSum := ⟨0, 0, 0, 0⟩
    let sums : List CkSum × List CkSum :=
      if tdKind d = 2 then (List.replicate (32 * tdRb d) zero, List.replicate 128 zero) else ([], [])
    tiles (defineTile s g.id n d) (· = some ⟨n, d, .empty, 0, sums.1, sums.2, 0⟩)
    ∧ tiles (freeTile s g.id n) (· = none)
    ∧ tiles (setTile s g.id n st) (· = (findTile g n).map fun x => { x with state := st })
    ∧ (∀ t ∈ [defineTile s g.id n d, freeTile s g.id n, setTile s g.id n st], t = { s with groups := t.groups })
    ∧ ∀ x, findTile g n = some x → tdKind x.desc = 2 →
        clearTile s g x = { s with groups := (clearTile s g x).groups, poisonBuf := (clearTile s g x).poisonBuf }
        ∧ ∃ h, findGroup (clearTile s g x) g.id = some h ∧ h = { g with tiles := h.tiles, cbuf := h.cbuf }
          ∧ findTile h n = some { x with rows := List.replicate (32 * tdRb x.desc) zero, cols := List.replicate 128 zero, flags := 0 }
          ∧ (∀ k, k ≠ n → findTile h k = findTile g k)
          ∧ ∀ a, readByte h.cbuf a = if tdBase x.desc ≤ a ∧ a < tdBase x.desc + tdBytes x.desc then 0 else readByte g.cbuf a)
  ∧ (∀ (e : Bool) (a b t : Fin 64) (j : Fin 4) (u : Fin 16) (r : Rnd) (sp : Bool),
  let i : Instr := if sp then .mmas e a b t j u else .mma e a b t j u
  let op (c : Ctx) : MatOp := { sparse := sp, ta := a, tb := b, tc := t, j := j, gang := c.w.gang }
  let me (c : Ctx) : Arrival := ⟨c.w.index, Lanes.of fun l => c.x 0 l, poisonedLanes c.s c.w (Mask.of fun _ => true) c.sh ≠ 0⟩
  let legal (c : Ctx) (P : Group → Prop) : Prop := ∃ g, findGroup c.s c.w.group = some g
    ∧ (2 ≤ Mask.count c.w.gang ∧ Mask.count c.w.gang ≤ 6 ∧ c.w.gang.getLsbD c.w.index.toNat = true ∧ c.w.gang.toNat < 2 ^ g.waves) ∧ P g
  let z (c : Ctx) : MatOp × List Arrival := ((findGroup c.s c.w.group).bind fun g => rendezvousOf g c.w.index).getD (op c, [])
  let s1 (c : Ctx) : State := modGroup c.s c.w.group fun x => putGang x (z c).1 ((z c).2 ++ [me c])
  let joins (P : Ctx → Group → Prop) (c : Ctx) : Prop :=
    legal c fun g => (rendezvousOf g c.w.index).isSome ∧ (∀ y ∈ (z c).2, y.index ≠ c.w.index) ∧ P c g
  let all (c : Ctx) : Bool := allArrived (z c).1 ((z c).2 ++ [me c])
  Ends i (fun c => ∃ g, findGroup c.s c.w.group = some g ∧ gangOk g c.w = false) (fun c => .trap c.s (.at .gang c.exec 0 c.r 0))
  ∧ Ends i (fun c => legal c fun _ => ∀ x ∈ c.s.groups, x.id = c.w.group → ∀ y ∈ x.rendezvous, y.1.gang.getLsbD c.w.index.toNat = false
        ∧ ∀ v ∈ y.2, v.index ≠ c.w.index)
    (fun c => .wait (modGroup c.s c.w.group fun x => { x with rendezvous := x.rendezvous ++ [(op c, [me c])] }) .rendezvous)
  ∧ Ends i (joins fun c _ => op c = (z c).1 ∧ all c = false) (fun c => .wait (s1 c) .rendezvous)
  ∧ Ends i (joins fun c g => op c = (z c).1 ∧ all c = true ∧ (matTiles g (op c)).isSome) (fun c => .wait (s1 c) .tile)
  ∧ Ends i (joins fun c g => op c = (z c).1 ∧ all c = true ∧ matTiles g (op c) = none)
    (fun c => .settled (failRendezvous (s1 c) c.w.group (z c).1.gang .engine))
  ∧ Ends i (joins fun c _ => op c ≠ (z c).1) (fun c => .settled (failRendezvous (s1 c) c.w.group (z c).1.gang .gang))
  ∧ Ends (.cdrain e a t r) (fun c => c.w.drain = none ∧ ∃ g x y, findGroup c.s c.w.group = some g ∧ drainTiles g a t = some (x, y)
        ∧ y.state = .ready ∧ y.busy = 0 ∧ x.state = .empty ∧ x.busy = 0)
    (fun c => .wait (startDrain c.s c.w c.die c.core a t r) .tile)
  ∧ Ends (.cdrain e a t r) (fun c => c.w.drain = none ∧ ∃ g x y, findGroup c.s c.w.group = some g ∧ drainTiles g a t = some (x, y)
        ∧ (y.state ≠ .ready ∨ y.busy ≠ 0 ∨ x.state ≠ .empty ∨ x.busy ≠ 0)) (fun c => .wait c.s .tile)
  ∧ Ends (.cdrain e a t r) (fun c => c.w.drain = none ∧ ∃ g, findGroup c.s c.w.group = some g ∧ drainTiles g a t = none)
    (fun c => .trap c.s (.at .engine c.exec 0 c.r 0)))
  ∧ (∀ (e k : Bool) (q : Fin 8) (g i : BitVec 3) (d : Reg) (x : Eng), Eng.ofCode? g.toNat = some x →
  let bound (c : Ctx) : Option (Eng × Nat) := (c.w.queues.get q).bound
  let owns (c : Ctx) : Bool := ownsEngine c.s c.w.part c.die x i.toNat
  Ends (.qbind e q g i) (fun c => bound c = some (x, i.toNat)) (fun c => .done ⟨c.s, c.exec, none, true, false, fun _ => none⟩)
  ∧ Ends (.qbind e q g i) (fun c => bound c ≠ some (x, i.toNat) ∧ owns c = true ∧ qBusy (c.w.queues.get q) = false)
    (fun c => .done ⟨modWave c.s c.w.id fun w => { w with
      queues := w.queues.set q.val { c.w.queues.get q with bound := some (x, i.toNat) } q.isLt }, c.exec, none, true, false, fun _ => none⟩)
  ∧ Ends (.qbind e q g i) (fun c => bound c ≠ some (x, i.toNat) ∧ owns c = false) (fun c => .trap c.s (.at .perm c.exec 0 c.r 0))
  ∧ Ends (.qbind e q g i) (fun c => bound c ≠ some (x, i.toNat) ∧ owns c = true ∧ qBusy (c.w.queues.get q) = true)
    (fun c => .trap c.s (.at .engine c.exec 0 c.r 0))
  ∧ Gives (.qstat e k q d) k d 1 [] (fun c _ => w32 (queueStatus (c.w.queues.get q))) (fun _ _ => 0))

/-- R29 to R33, R227: SRD reads each special register, and SWR writes those that software may write. A level counts as spilled only for a lane that has not exited (log 42). -/
def Obligations.SpecialRegisters : Prop :=
  (∀ (e k : Bool) (d : Reg) (i : BitVec 8),
  Gives (.srd e k d i) k d 1 [] (fun c l => w32 (specialReg c.w l i.toNat)) (fun _ _ => 0)
  ∧ ∀ (w : Wave) (l : Lane),
    specialReg w l 0x00 = BitVec.ofNat 32 l.val ∧ specialReg w l 0x01 = w.index.zeroExtend 32 ∧ specialReg w l 0x02 = w.role.zeroExtend 32
    ∧ specialReg w l 0x03 = w.gang
    ∧ specialReg w l 0x04 = w.winb.zeroExtend 32 ∧ specialReg w l 0x05 = w.blks.zeroExtend 32
    ∧ specialReg w l 0x07 ++ specialReg w l 0x06 = widOf w l ∧ specialReg w l 0x08 = w.widf ∧ specialReg w l 0x09 = (laneOf w l).serial
    ∧ specialReg w l 0x0B ++ specialReg w l 0x0A = w.launch
    ∧ specialReg w l 0x0D ++ specialReg w l 0x0C = w.arg ∧ specialReg w l 0x11 ++ specialReg w l 0x10 = w.csp
    ∧ specialReg w l 0x12 = w.csz.zeroExtend 32 ∧ specialReg w l 0x13 = (laneOf w l).depth.zeroExtend 32
    ∧ (∀ k, k < 8 → specialReg w l (0x18 + k) = match (laneOf w l).held[k]? with
        | some h => 1#1 ++ 0#13 ++ h.depth ++ h.colour
        | none => 0#32)
    ∧ specialReg w l 0x20 = (laneOf w l).nflg.zeroExtend 32 ∧ specialReg w l 0x21 = w.rmiss
    ∧ specialReg w l 0x22 = 0#25 ++ w.pri ++ 0#1 ++ BitVec.ofBool w.snap ++ BitVec.ofBool w.spn ++ BitVec.ofBool w.h)
  ∧ (∀ (e : Bool) (r : Reg),
  let x (c : Ctx) : Word := c.x 0 c.top
  let wr (c : Ctx) (f : Wave → Wave) : Res := .done ⟨modWave c.s c.w.id f, c.exec, none, true, false, fun _ => none⟩
  let free (c : Ctx) : Prop := ∀ l, spilled c.w l = false
  Ends (.swr e r 0x03#8) (fun c => c.exec ≠ 0) (fun c => wr c fun w => { w with gang := x c })
  ∧ Ends (.swr e r 0x10#8) free (fun c => wr c fun w => { w with csp := w.csp.extractLsb' 32 32 ++ (x c &&& 0xFFFFFF00#32) })
  ∧ Ends (.swr e r 0x11#8) free (fun c => wr c fun w => { w with csp := x c ++ w.csp.extractLsb' 0 32 })
  ∧ Ends (.swr e r 0x12#8) free (fun c => wr c fun w => { w with csz := (x c).extractLsb' 0 12 })
  ∧ Ends (.swr e r 0x20#8) (fun c => c.exec ≠ 0)
      (fun c => wr c fun w => mapLanes w c.exec fun l y => { y with nflg := y.nflg &&& ~~~(c.x 0 l).extractLsb' 0 7 })
  ∧ Ends (.swr e r 0x21#8) (fun c => c.exec ≠ 0) (fun c => wr c fun w => { w with rmiss := w.rmiss &&& ~~~x c })
  ∧ ∀ i : BitVec 8, i ∈ [0x10#8, 0x11#8, 0x12#8] →
      Ends (.swr e r i) (fun c => ∃ l, spilled c.w l = true) (fun c => .trap c.s (.at .perm c.exec 0 c.r 0)))
  ∧ ∀ (w : Wave) (l : Lane), w.aside = none →
    (spilled w l = true ↔ (laneOf w l).state ≠ .exited ∧ (laneOf w l).ret.length < (laneOf w l).depth.toNat)

/-- R29 to R33, R227: SRD and SWR complete with every index that has a meaning; SWR on a register that it cannot write has no effect, and on CSPLO, CSPHI and CSZ it completes while no level is spilled. -/
def Obligations.SpecialRegisterWords : Prop := ∀ (e k : Bool) (d r : Reg) (i : BitVec 8),
  let put (c : Ctx) (x : Word) (w : Wave) : Wave :=
    if i = 0x03 then { w with gang := x }
    else if i = 0x10 then { w with csp := w.csp.extractLsb' 32 32 ++ (x &&& 0xFFFFFF00#32) }
    else if i = 0x11 then { w with csp := x ++ w.csp.extractLsb' 0 32 }
    else if i = 0x12 then { w with csz := x.extractLsb' 0 12 }
    else if i = 0x20 then mapLanes w c.exec fun l y => { y with nflg := y.nflg &&& ~~~(c.x 0 l).extractLsb' 0 7 }
    else if i = 0x21 then { w with rmiss := w.rmiss &&& ~~~x }
    else w
  (∀ s w c, begins (.srd e k d i) s = some (w, c) → Steady c →
      ∃ t, exec (.srd e k d i) s = .next t ∧ Writes c (fun l => w32 (specialReg c.w l i.toNat)) (fun _ => 0) t)
  ∧ ∀ s w c, begins (.swr e r i) s = some (w, c) → (i ∈ [0x10#8, 0x11#8, 0x12#8] → ∀ l, spilled c.w l = false) →
      exec (.swr e r i) s = .next (finish c (.done ⟨modWave c.s c.w.id (put c (c.x 0 c.top)), c.exec, none, true, false, fun _ => none⟩))

/-- R221, R225, R226: TRAP and BKPT trap with their code and resume behind the word; under debug intercept BKPT stops its wave; RTE in a handler ends the handler's lanes, and outside one traps with PERM. -/
def Obligations.TrapAndReturnWords : Prop :=
  (∀ (e : Bool) (k : BitVec 14),
  let code (c : Ctx) (t : Trap) : Res := .trap c.s
    { trap := t, mask := c.exec, dmask := 0, pc := c.r.pc, rpc := c.r.pc + 4, addr := 0, code := k, eng := none, wscope := 0, wslot := 0
      lanes := c.r.exec, stand := c.r.pc }
  Ends (.trap e k) (fun c => c.exec ≠ 0) (fun c => code c .trap)
  ∧ Ends (.bkpt e k) (fun c => intercepts c.s c.w.part = false) (fun c => code c .bkpt)
  ∧ Ends (.bkpt e k) (fun c => intercepts c.s c.w.part = true) interceptWave)
  ∧ (∀ (e : Bool),
  Ends (.rte e) (fun c => c.w.h = true)
    (fun c => .done
      { s := modWave c.s c.w.id fun w => { mapLanes w c.exec (fun _ x => { x with
            depth := x.depth - 1, ret := x.ret.drop 1, state := .exited, trapLevel := if x.trapLevel = some x.depth then none else x.trapLevel }) with
          release := w.release ++ c.exec.lanes.flatMap fun l => releasesAt (laneOf c.w l) (laneOf c.w l).depth l }
        adv := c.exec, vals := none, ends := true, back := false, goes := fun _ => some exitedPc })
  ∧ Ends (.rte e) (fun c => c.w.h = false) (fun c => .trap c.s (.at .perm c.exec 0 c.r 0)))

/-- R228 to R233: STEP, MARK and PCNT; WSET and WCLR. A counter of cycles or issue slots gives a free value (log 3), so the statement says nothing of its value. -/
def Obligations.DebugWords : Prop :=
  (∀ (e k f : Bool) (d a : Reg) (n : BitVec 14),
  Ends (.step e a) (fun c => c.w.stepDone = false ∧ ∃ w, stepTarget c = some w ∧ canStep w = true)
    (fun c => .settled (match stepTarget c with
      | some w => beginStep (modWave c.s c.w.id fun v => { v with hold := some .fence, issue := none }) w (some (c.w.id, c.w.tick))
      | none => c.s))
  ∧ Ends (.step e a) (fun c => c.w.stepDone = true)
    (fun c => .done ⟨modWave c.s c.w.id fun w => { w with stepDone := false }, c.exec, none, true, false, fun _ => none⟩)
  ∧ Ends (.step e a) (fun c => c.w.stepDone = false ∧ ∃ w, stepTarget c = some w ∧ canStep w = false)
    (fun c => .done ⟨match stepTarget c with
      | some w => emitWave c.s w 0x05 0 (liveMask w ||| parkedMask w) 0 3
      | none => c.s, c.exec, none, true, false, fun _ => none⟩)
  ∧ Ends (.step e a) (fun c => c.w.stepDone = false ∧ stepTarget c = none) (fun c => .trap c.s (.at .perm c.exec 0 c.r 0))
  ∧ Ends (.mark e false n) (fun c => c.w.waitMark = none ∧ hasSession c.s c.w.part = true)
    (fun c => .done ⟨emitWave c.s c.w 0x01 0 c.exec c.r.pc n.toNat, c.exec, none, false, false, fun _ => none⟩)
  ∧ Ends (.mark e false n) (fun c => c.w.waitMark = none ∧ hasSession c.s c.w.part = false)
    (fun c => .done ⟨modPart c.s c.w.part fun p => { p with unrecorded := p.unrecorded + 1 }, c.exec, none, false, false, fun _ => none⟩)
  ∧ Ends (.mark e true n) (fun c => c.w.waitMark = none ∧ hasSession c.s c.w.part = true)
    (fun c => .wait (modWave (modPart (emitWave c.s c.w 0x01 0 c.exec c.r.pc n.toNat) c.w.part fun p => { p with markDue := true }) c.w.id
      fun w => { w with waitMark := some (nextMark (emitWave c.s c.w 0x01 0 c.exec c.r.pc n.toNat) c.w.part) }) .commit)
  ∧ Ends (.mark e true n) (fun c => c.w.waitMark = none ∧ hasSession c.s c.w.part = false ∧ (findPart c.s c.w.part).isSome)
    (fun c => .wait (modWave (modPart c.s c.w.part fun p => { p with unrecorded := p.unrecorded + 1, markDue := true }) c.w.id
      fun w => { w with waitMark := (findPart c.s c.w.part).map fun p => p.mark + 1 }) .commit)
  ∧ Ends (.mark e f n) (fun c => ∃ m, c.w.waitMark = some m ∧ markDone c.s c.w.part m = false) (fun c => .wait c.s .commit)
  ∧ Ends (.mark e f n) (fun c => ∃ m, c.w.waitMark = some m ∧ markDone c.s c.w.part m = true)
    (fun c => .done ⟨modWave c.s c.w.id fun w => { w with waitMark := none }, c.exec, none, f, false, fun _ => none⟩)
  ∧ (countsTime n.toNat = false → Gives (.pcnt e k d n) k d 2 [] (fun c _ => w64 (counter c.s c.w c.die c.core n.toNat)) (fun _ _ => 0))
  ∧ (countsTime n.toNat = true → Ends (.pcnt e k d n) (fun c => c.exec ≠ 0)
      (fun c => ({ c with s := { c.s with free := c.s.free + 1 } }).write (fun _ => w64 (Config.freeCount c.s.free)) (fun _ => 0))))
  ∧ (∀ (e : Bool) (sc : WScope) (n : BitVec 5) (a x : Reg),
  let mine (c : Ctx) : Prop := slotTaken c sc n.toNat = false ∧ (sc = .die → dieWatchOn c.s c.w.part = true)
  let ad (c : Ctx) : DWord := c.pair 0 c.top
  let ct (c : Ctx) : DWord := c.pair 1 c.top
  Ends (.wset e sc n a x) (fun c => controlOk sc (ct c) = true ∧ controlAligned (ad c) (ct c) = true ∧ mine c)
    (fun c => .done ⟨putSlots c sc (setNth (slotsOf c sc).1 n.toNat (some ⟨ad c, ct c, (slotsOf c sc).2⟩)), c.exec, none, true, false,
      fun _ => none⟩)
  ∧ Ends (.wset e sc n a x) (fun c => controlOk sc (ct c) = false) (fun c => .trap c.s (.at .engine c.exec 0 c.r 0))
  ∧ Ends (.wset e sc n a x) (fun c => controlOk sc (ct c) = true ∧ controlAligned (ad c) (ct c) = false)
    (fun c => .trap c.s (.at .align c.exec 0 c.r (ad c)))
  ∧ Ends (.wset e sc n a x) (fun c => controlOk sc (ct c) = true ∧ controlAligned (ad c) (ct c) = true
        ∧ (slotTaken c sc n.toNat = true ∨ (sc = .die ∧ dieWatchOn c.s c.w.part = false))) (fun c => .trap c.s (.at .perm c.exec 0 c.r 0))
  ∧ Ends (.wclr e sc n) (fun c => slotTaken c sc n.toNat = false)
    (fun c => .done ⟨putSlots c sc (setNth (slotsOf c sc).1 n.toNat none), c.exec, none, true, false, fun _ => none⟩)
  ∧ Ends (.wclr e sc n) (fun c => slotTaken c sc n.toNat = true) (fun c => .trap c.s (.at .perm c.exec 0 c.r 0)))

/-- R13, R15, R19, R332: a slot goes on with its run, or takes the ready wave of the highest effective priority that has waited longest; a wave that has aged has priority 8; the lanes of the run that starts, and of a redirected one. -/
def Obligations.RunSelection : Prop :=
  (∀ (s : State) (d c q k : Nat) (w : Wave),
  (slotWave s d c q k = some w → w.hold = none → exec (.runSelect d c q k) s = .next { s with cur := some w.id })
  ∧ (slotWave s d c q k = none → k < 2 → pickWave s d c q = some w →
      exec (.runSelect d c q k) s = .next { s with
          waves := s.waves.map fun v => if v.id = w.id then { startRun v k s.fresh with hold := none } else v
          fresh := s.fresh + 1, cur := some w.id }
        ∧ w ∈ quadWaves s d c q ∧ w.issue = none ∧ ready s w = true
        ∧ ((∀ v ∈ s.waves, v.lastRun ≤ s.fresh) → ∀ v ∈ quadWaves s d c q, v.issue = none → ready s v = true →
            effective8 v ≤ effective8 w ∧ (effective8 v = effective8 w → w.lastRun ≤ v.lastRun)))
  ∧ (findWave s w.id = some w → w.issue = none → ready s w = true →
      exec (.waveAge w.id) s = .next { s with waves := s.waves.map fun v => if v.id = w.id then { v with aged := true } else v })
  ∧ (findWave s w.id = some w → w.place = some ⟨d, c, q, k, false⟩ → 64 ≤ w.spin → w.run = none → pickWave s d c q = some w →
      slotWave s d c q 0 = none →
      exec (.spinRedirect w.id) s = .next { s with
          waves := s.waves.map fun v => if v.id = w.id then { startRun v 0 s.fresh with hold := none } else v
          fresh := s.fresh + 1, cur := some w.id }))
  ∧ (∀ (w : Wave) (k n : Nat) (m : Pc), w.run = none → minPc w (liveMask w) = some m →
  (∀ l, (laneOf w l).state = .live → m.toNat ≤ (laneOf w l).pc.toNat)
  ∧ (w.spin < 64 → ∃ r, (startRun w k n).run = some r ∧ r.pc = m ∧ r.count = 0
      ∧ ∀ l, r.exec.has l = true ↔ (laneOf w l).state = .live ∧ (laneOf w l).pc = m)
  ∧ (64 ≤ w.spin → (∃ l, (laneOf w l).state = .live ∧ (laneOf w l).pc ≠ m) →
      ∃ r, (startRun w k n).run = some r ∧ m.toNat < r.pc.toNat ∧ (startRun w k n).floor = some r.pc
        ∧ ∀ l, r.exec.has l = true ↔ (laneOf w l).state = .live ∧ (laneOf w l).pc = r.pc))

/-- R145, R174, R231, R343: a result is written to its registers in the lanes it was sent for; a wake makes its lane live; a watch hit is taken as WATCH; a wave whose lanes have exited finishes after its commands, and a wave of an ended launch then stops for good. -/
def Obligations.Results : Prop := ∀ (s : State) (w : Wave) (n : Nat) (l : Lane), findWave s w.id = some w → shadowOf s w.id = none →
  (∀ p k c, w.pend[n]? = some p → p.flight = none → p.pred = none → p.dst = some (k, c) → k + c ≤ 32 * w.blks.toNat →
      32 * w.blks.toNat ≤ 256 → clockReaches s w p.clock = true → allExited w = false → w.joins = [] →
      ∃ t v, exec (.loadReturn w.id n) s = .next t ∧ findWave t w.id = some v ∧ v.pend = w.pend.eraseIdx n
        ∧ t = { s with waves := t.waves, poisonReg := t.poisonReg } ∧ (∀ j, j ≠ w.id → findWave t j = findWave s j)
        ∧ ∀ l, (laneOf v l).preds = (laneOf w l).preds ∧ (laneOf v l).pc = (laneOf w l).pc
          ∧ if p.mask.has l then RegsHave (laneOf w l).regs (laneOf v l).regs k c (p.vals.get l)
            else (laneOf v l).regs = (laneOf w l).regs)
  ∧ (∀ q, wakeFor s w.id l = some q → isParked (laneOf w l).state = true → w.aside = none →
      ∃ t v, exec (.laneWake w.id l) s = .next t ∧ findWave t w.id = some v ∧ (laneOf v l).state = .live
        ∧ (laneOf v l).waitSat = true ∧ t.wakes = s.wakes.erase q ∧ t.mem = s.mem)
  ∧ (∀ h, watchDue s w = some h →
      exec (.watchTrap w.id) s =
        .next (enterTrap (modWave s w.id fun v => { v with watchPend := v.watchPend.erase h, run := none, hold := none }) w.id (watchInfo w h))
        ∧ (watchInfo w h).trap = .watch ∧ (watchInfo w h).addr = h.addr ∧ (watchInfo w h).mask = h.lanes)
  ∧ (readyToFinish w = true → hasCommands w = false → badCompletion w = none →
      exec (.waveFinishAfterCommands w.id) s = .next (boundaryStop (waveFinish s w.id) w.id))

/-- R143, R144, R170, R257, R262, R263, R301: a write leaves its die with a stamp, is performed at its home when the home counts its predecessors, is applied at each die, and is acknowledged; an atomic is performed at the bank of its scope; and a replica is installed. The moment of each is the model's order of events (log 1). -/
def Obligations.WritesOnTheirWay : Prop := ∀ (s : State) (f : Flight), findFlight s f.id = some f →
  (isWrite f = true → mayLeave s f = true →
      exec (.writePerformHome f.id) s = .next (leaveDie s f)
        ∧ clockAt (clockOf (leaveDie s f) f.die) f.die = clockAt (clockOf s f.die) f.die + 1 ∧ (leaveDie s f).mem = s.mem)
  ∧ (isWrite f = true → mayLeave s f = false → homeMay s f = true →
      exec (.writePerformHome f.id) s = .next (watchWrite (performHome s f) f)
        ∧ (∀ bs g, f.kind = .store bs → bs ≠ [] → pageOf s f.ia = some g → keyHere s g (physIn g f.ia) = true →
            f.ia % 64 + bs.length ≤ 64 → (watchWrite (performHome s f) f).mem = writeBytes s.mem (physIn g f.ia) bs))
  ∧ (∀ d, applyMay s f d = true → ∃ t, exec (.writeApply f.id d) s = .next t ∧ t.mem = s.mem
        ∧ ∀ g, findFlight t f.id = some g → d ∉ g.todo)
  ∧ (ackMay s f = true → f.counted = false → ∃ t, exec (.storeAck f.id) s = .next t ∧ t.mem = s.mem ∧ t.waves = s.waves
        ∧ ∀ g, findFlight t f.id = some g → g.acked = true)
  ∧ (∀ w, ackMay s f = true → f.counted = true → findWave s f.wave = some w → allExited w = false → w.joins = [] →
      ∃ t, exec (.storeAck f.id) s = .next t ∧ findWave t f.wave = some { w with stores := w.stores - 1 }
        ∧ (∀ k, k ≠ f.wave → findWave t k = findWave s k) ∧ t = { s with waves := t.waves, flights := t.flights }
        ∧ ∀ g, findFlight t f.id = some g → g.acked = true)
  ∧ (∀ op sc ls n, f.kind = .atom op sc ls n → atomPoisoned s f op sc = false →
      let given (t : State) (olds : List (Lane × Nat)) : Prop := ∀ w, findWave s f.wave = some w → ∃ v, findWave t f.wave = some v
        ∧ v.pend.map (fun p => (p.flight, p.vals)) = w.pend.map fun p => if p.flight = some f.id then
            (none, Lanes.of fun l => BitVec.ofNat 128 (((olds.find? fun x => x.1 = l).map (·.2)).getD 0 % 2 ^ (8 * atBytes op)))
          else (p.flight, p.vals)
      (atReplicaOf f sc = true → replicaMay s f = true →
        let t := atomReplica s f op ls
        let r := reachReplica s f
        let x := atCombine op (match replicaOf r f.die (f.ia / 64) with | some x => lineGet x (f.ia % 64) (atBytes op) | none => 0) ls
        exec (.atomicAtBank f.id) s = .next t ∧ t.mem = s.mem ∧ given t x.2
          ∧ replicaOf t f.die (f.ia / 64) = (replicaOf r f.die (f.ia / 64)).map (fun y => linePut y (f.ia % 64) (bytesOf x.1 (atBytes op)))
          ∧ ∃ g ∈ t.flights, g.kind = .store (bytesOf x.1 (atBytes op)) ∧ g.ia = f.ia ∧ g.atReplica = true ∧ g.performed = f.performed)
      ∧ (atReplicaOf f sc = false → mayLeave s f = true → exec (.atomicAtBank f.id) s = .next (leaveDie s f))
      ∧ (atReplicaOf f sc = false → mayLeave s f = false → homeMay s f = true →
        let t := atomHome s f op ls
        let x := atCombine op (homeRead s f.ia (atBytes op)) ls
        exec (.atomicAtBank f.id) s = .next t ∧ given t x.2
          ∧ ∀ g, pageOf s f.ia = some g → keyHere s g (physIn g f.ia) = true →
              t.mem = writeBytes s.mem (physIn g f.ia) (bytesOf x.1 (atBytes op))))
  ∧ (∀ d line x, (s.fills.find? fun y => y.1 = d && y.2.1 = line) = some x → clockCounts (clockOf s d) (clockOf s (homeDie (64 * line))) = true →
      ∃ t, exec (.replicaFill d line) s = .next t ∧ t.mem = s.mem ∧ t.fills = s.fills.erase x)

/-- R277 to R283: a request is granted when its entry is free and queued otherwise; a grant is recorded in the held set, and the lane goes on; a release frees the entry, or hands it to the head of its queue. -/
def Obligations.MonitorMessages : Prop := ∀ (s : State),
  (∀ (n : Nat) (r : MonRequest), s.requests[n]? = some r →
      exec (.monitorRequest n) s = .next (r.lanes.foldl (fun t x => campionRequest t r.tenant r.wave x) { s with requests := s.requests.eraseIdx n }))
  ∧ (∀ (t w : Nat) (l : Lane) (c : BitVec 6) (d : BitVec 12),
      (findCampion s t c = none → campionRequest s t w (l, c, d) =
        { s with campion := s.campion ++ [⟨t, c, ⟨w, l, d⟩, Clock.zero, []⟩]
                 grants := s.grants ++ [⟨w, l, c, d, clockOf s (c.toNat % 4)⟩]
                 llc := (campionRequest s t w (l, c, d)).llc })
      ∧ (∀ e, findCampion s t c = some e → findCampion (campionRequest s t w (l, c, d)) t c = some { e with queue := e.queue ++ [⟨w, l, d⟩] }
          ∧ (campionRequest s t w (l, c, d)).grants = s.grants
          ∧ ∀ v, findWave s w = some v → ∃ v', findWave (campionRequest s t w (l, c, d)) w = some v'
              ∧ (laneOf v' l).state = .parked (.monitor c.toNat) ∧ ∀ k, k ≠ l → laneOf v' k = laneOf v k))
  ∧ (∀ (w : Wave) (l : Lane) (g : Grant), findWave s w.id = some w → shadowOf s w.id = none → grantFor s w.id l = some g →
      (laneOf w l).held.any (fun h => h.colour = g.colour) = false →
      ∃ t v, exec (.monitorGrant w.id l) s = .next t ∧ findWave t w.id = some v ∧ t.grants = s.grants.erase g
        ∧ (∃ h, h ∈ (laneOf v l).held ∧ h.colour = g.colour ∧ h.depth = g.depth ∧ h.suspended = false)
        ∧ (w.aside = none → isParked (laneOf v l).state = false) ∧ t.mem = s.mem)
  ∧ (∀ (w : Wave) (l : Lane) (c : BitVec 6), findWave s w.id = some w → releaseMay s w = true → w.release = [(l, c)] → allExited w = false →
      ∃ t v, exec (.monitorRelease w.id) s = .next t ∧ findWave t w.id = some v ∧ v.release = [] ∧ t.mem = s.mem
        ∧ (∀ h ∈ (laneOf v l).held, h.colour = c → h.suspended = true)
        ∧ ∀ e, findCampion s (tenantOf s w.part) c = some e → e.owner.wave = w.id → e.owner.lane = l →
            match e.queue with
            | [] => findCampion t (tenantOf s w.part) c = none
            | h :: q => (∃ e', findCampion t (tenantOf s w.part) c = some e' ∧ e'.owner = h ∧ e'.queue = q)
                ∧ ∃ g ∈ t.grants, g.wave = h.wave ∧ g.lane = h.lane ∧ g.colour = c ∧ g.depth = h.depth)

/-- R115, R329 to R331, R335 to R337: the oldest claim of a quadrant is granted when it fits; groups are saved and placed again; a wave enters scout past the word at which it waits, and leaves it with its registers as they were and no write performed. That the bytes of the context region stay as they are at a save is the model's choice (log 55). -/
def Obligations.ClaimsSavesAndScout : Prop :=
  (∀ (s : State),
  (∀ (w : Wave) (p : Place) (n ord : Nat), findWave s w.id = some w → w.place = some p → w.claim = some (n, ord) →
      n ≤ freeBlocks s p.die p.core p.quad → (∀ x ∈ quadClaims s p.die p.core p.quad, ord ≤ x.2.2) →
      let t := clearPoison s w.id (32 * w.blks.toNat) (32 * n) (Mask.of fun _ => true)
      exec (.regClaimGrant w.id) s = .next { t with waves := s.waves.map fun v =>
        if v.id = w.id then { v with blks := v.blks + BitVec.ofNat 4 n, claim := none, granted := true } else v }
        ∧ t = { s with poisonReg := t.poisonReg }
        ∧ ∀ x, x ∈ t.poisonReg ↔ x ∈ s.poisonReg ∧ ¬ (x.1 = w.id ∧ 32 * w.blks.toNat ≤ x.2.2 ∧ x.2.2 < 32 * w.blks.toNat + 32 * n))
  ∧ (∀ (w : Wave) (g : Group), findWave s w.id = some w → findGroup s w.group = some g → w.claim.isSome → heldStopped w = false →
      (saveable s g = true → exec (.claimWaitTimeout w.id) s = .next (saveGroup s g.id))
      ∧ (g.place = none → groupFits s g = true → exec (.claimWaitTimeout w.id) s = .next (signalGroup s g.id)))
  ∧ (∀ g : Group, findGroup s g.id = some g → saveable s g = true → (∀ w ∈ wavesOf s g.id, w.finished = true ∨ waiting s w = true) →
      exec (.groupSaveTimeout g.id) s = .next (saveGroup s g.id))
  ∧ (∀ (g : Group) (p : Part) (d c : Nat), findGroup s g.id = some g → findPart s g.part = some p →
      (relaunchHead s g.part).map (·.id) = some g.id → chooseCore s p (needOf s g) (launchDie s g.launch) none g.clock = some (d, c) →
      s.poisonCtx.contains g.id = false →
      exec (.groupRelaunch g.id) s = .next { seatGroup s g.id d c with
        waves := (seatGroup s g.id d c).waves.map fun w => if w.group = g.id then relaunchWave w else w })
  ∧ (∀ g : Group, s.shadows = [] → findGroup s g.id = some g →
      (saveGroup s g.id).mem = s.mem
        ∧ (∃ y, findGroup (saveGroup s g.id) g.id = some y ∧ (∀ d c, g.place = some (d, c) → y.clock = clockOf s d)
            ∧ y = { g with place := none, sharing := none, context := some s.free, clock := y.clock, signal := y.signal })
        ∧ (saveGroup s g.id).waves = s.waves.map fun w => if w.group = g.id then saveWave w else w))
  ∧ (∀ (s : State) (w : Wave), findWave s w.id = some w →
  (∀ r sh, blockedAt s w = some (r, sh) → mayScout s w = true →
      ∃ t v h, exec (.scoutEnter w.id) s = .next t ∧ findWave t w.id = some v ∧ shadowOf t w.id = some h ∧ h.saved = w ∧ t.mem = s.mem
        ∧ v.pend = w.pend ∧ v.run = none ∧ h.ending = false
        ∧ h.awaits = ((waitsFor w sh).filter (·.missed)).map (·.tick)
        ∧ ∀ l, (laneOf v l).regs = (laneOf w l).regs ∧ (laneOf v l).pc = if (execMask w r).has l then r.pc + 4 else (laneOf w l).pc)
  ∧ (w.run = none → ∀ h, shadowOf s w.id = some h →
      exec (.scoutTimeout w.id) s = .next (endScout s w.id)
        ∧ (scoutArrived s w h = true → exec (.scoutExit w.id) s = .next (endScout s w.id))
        ∧ (∀ n p, w.pend[n]? = some p → p.flight = none → clockReaches s w p.clock = true → h.awaits.contains p.tick = true → h.ending = false →
            exec (.loadReturn w.id n) s = .next (deliverLoad (endScout s w.id) w.id n))
        ∧ (endScout s w.id).mem = s.mem ∧ shadowOf (endScout s w.id) w.id = none
        ∧ ∀ v, findWave (endScout s w.id) w.id = some v → v.lanes = h.saved.lanes ∧ v.pend = w.pend ∧ v.stores = w.stores))

/-- R202, R205, R210: a gang whose members have arrived, and whose tiles are ready, leaves the rendezvous for the array, and its MMA or MMAS is behind it; a gang that is not complete in time fails with GANG; the array writes its sums; CDRAIN converts its tile. -/
def Obligations.MatrixEvents : Prop := ∀ (s : State) (g : Group), findGroup s g.id = some g →
  (∀ pre op arr post x, g.rendezvous = pre ++ (op, arr) :: post → (∀ z ∈ pre, gangGoes g z = false) →
      allArrived op arr = true → g.place.isSome → matTiles g op = some x → tilesReady x = true →
      exec (.mmaAccept g.id) s = .next (leaveGang s g op arr)
        ∧ ((∀ w ∈ s.waves, w.aside = none ∧ allExited w = false) → ∀ h, findGroup (leaveGang s g op arr) g.id = some h →
            h.rendezvous = g.rendezvous.filter (fun z => z.1.gang ≠ op.gang) ∧ h.array = g.array ++ [(op, arr)])
        ∧ ((∀ w ∈ s.waves, w.aside = none ∧ allExited w = false ∧ w.stepping = none) → ∀ a ∈ arr, ∀ w r,
            (wavesOf s g.id).find? (fun v => v.index = a.index) = some w → findWave s w.id = some w → (reformWave w).run = some r →
            ∃ v, findWave (leaveGang s g op arr) w.id = some v ∧ v.run = none ∧ v.counters.retired = w.counters.retired + 1
              ∧ ∀ l, (laneOf v l).pc = if (execMask (reformWave w) r ||| skipMask (reformWave w) r).has l then (laneOf w l).pc + 4
                  else (laneOf w l).pc))
  ∧ (∀ pre op arr post, g.rendezvous = pre ++ (op, arr) :: post → (∀ z ∈ pre, gangGoes g z = false) →
      allArrived op arr = true → g.place.isSome → matTiles g op = none →
      exec (.mmaAccept g.id) s = .next (failRendezvous s g.id op.gang .engine))
  ∧ (∀ pre op arr post, g.rendezvous = pre ++ (op, arr) :: post → (∀ z ∈ pre, gangWaits s g.id z = false) →
      allArrived op arr = false → g.place.isSome →
      (∀ w ∈ wavesOf s g.id, w.stopped = false) → exec (.rendezvousTimeout g.id) s = .next (failRendezvous s g.id op.gang .gang))
  ∧ (∀ op arr rest a b c, g.array = (op, arr) :: rest → matTiles g op = some (a, b, c) → matPoisoned s g op arr a b c = false →
      exec (.mmaComplete g.id) s = .next (finishArray s g.id)
        ∧ (finishArray s g.id).mem = s.mem
        ∧ ∀ h, findGroup (finishArray s g.id) g.id = some h → h.array = rest ∧ h.abuf = g.abuf ∧ h.wbuf = g.wbuf
            ∧ h.cbuf = (matApply g op arr a b c).buf)
  ∧ (∀ (w : Wave) a t md ph x y m fix fmt, findWave s w.id = some w → w.group = g.id → w.drain = some (a, t, md, ph) →
      findTile g a = some x → findTile g t = some y → bufPoisoned s g.id 2 (tdBase y.desc) (tdBytes y.desc) = false →
      allExited w = false → drainCheck g y w.ckmode.toNat = some (m, fix) → tdFmtA x.desc = some fmt →
      exec (.cdrainComplete w.id) s = .next (finishDrain s w.id)
        ∧ ∀ h, findGroup (finishDrain s w.id) g.id = some h → h.abuf = (convertTile g.abuf m x.desc y.desc fmt md ph.toNat).1 ∧ h.cbuf = m)

/-- R216 to R218: a command that its engine can take runs the work of its OP; what was taken is registered and holds its status; one whose checks fail has written no byte and reports the first failure. What the work changes: a write goes line by line to the bytes of its range, or is held as a send; a read changes no byte; the work of a tile changes the bytes of its buffer that it names, and of memory none. -/
def Obligations.EngineCommands : Prop :=
  (∀ (s : State) (w : Wave) (k : Fin 8) (g : Group) (c : Command) (n : Nat),
  let x : Eng1 := ⟨w, g, k, c⟩
  let takes (op : Nat) : Prop := findWave s w.id = some w ∧ findGroup s w.group = some g ∧ nextCommand (w.queues.get k) = some c ∧ w.finished = false
    ∧ markHolds s w.part = false ∧ c.op = op ∧ commandOk g (w.queues.get k).bound c = true
  let runs (op : Nat) : Prop := takes op ∧ tileOk g c = true ∧ commandMay s x = true
  (runs 1 → exec (.copy w.id k) s = .next (acceptCommand s x fun t x => runSingle t x fun u => copyRows u x))
  ∧ (runs 2 → exec (.loada w.id k) s = .next (acceptCommand s x (onTile fun t x y => runSingle t x fun u => loadTile u x y)))
  ∧ (runs 3 → exec (.loadw w.id k) s = .next (acceptCommand s x (onTile fun t x y => runSingle t x fun u => loadTile u x y)))
  ∧ (runs 4 → exec (.storea w.id k) s = .next (acceptCommand s x (onTile runStore)))
  ∧ (runs 16 → exec (.gather w.id k) s = .next (acceptCommand s x (onTile runGather)))
  ∧ (runs 32 → exec (.mcast w.id k) s = .next (acceptCommand s x fun t x => runEach t x fun u src d => engineWrite u x d src))
  ∧ (runs 33 → exec (.rstore w.id k) s = .next (acceptCommand s x fun t x => runEach t x fun u src d => rstoreDest u x src d))
  ∧ (runs 48 → exec (.drain w.id k) s = .next (acceptCommand s x (onTile runDrain)))
  ∧ (takes n → tileOk g c = false → ∀ i, (n, i) ∈ [(2, Instr.loada w.id k), (3, .loadw w.id k), (4, .storea w.id k), (16, .gather w.id k), (48, .drain w.id k)] →
      exec i s = .next (rejectCommand s w.id k c 3)))
  ∧ (∀ (s : State) (x : Eng1) (work : State → Eng1 → Ran),
  let s1 := holdTile { s with fresh := s.fresh + 1, ranges := s.ranges ++ locksOf x.g s.fresh x.c } x.g.id x.c
  let r := work s1 x
  (r.fatal = none → acceptCommand s x work = acceptAs r.s x.w.id x.q
      { x.c with state := .accepted, id := s.fresh, status := BitVec.ofNat 4 r.status, dmask := BitVec.ofNat 4 r.dmask, flags := r.flags, addr := r.addr })
  ∧ (∀ t y f, (firstBad t x (sources x) = some y ∨ (firstBad t x (sources x) = none ∧ firstBad t x (destinations x) = some y)) →
      runSingle t x f = ⟨t, y.1, 0, 0, y.2, none⟩)
  ∧ (∀ t y f, firstBad t x (sources x) = some y → runEach t x f = ⟨t, y.1, 0, 0, y.2, none⟩)
  ∧ (∀ t f, firstBad t x (sources x) = none → firstBad t x (destinations x) = none →
      (meetsError t x = none → runSingle t x f = ⟨f t, 0, 1, 0, 0, none⟩)
      ∧ ∀ what, meetsError t x = some what → runSingle t x f = ⟨t, 0, 0, 0, 0, some what⟩)
  ∧ (∀ t f, firstBad t x (sources x) = none → meetsError t x = none →
      let ds := destinations x
      let bad := ds.map fun d => sideStatus t x.w x.c.lane d
      let src := engineRead t x (x.c.at2 1) ((sources x).foldl (fun n y => n + y.n) 0)
      let ok := (List.range ds.length).filter fun k => (nthD bad k none).isNone
      (∀ y, ds.findSome? (sideColour t x.w x.c.lane) = some y → runEach t x f = ⟨t, y.1, 0, 0, y.2, none⟩)
      ∧ (ds.findSome? (sideColour t x.w x.c.lane) = none →
          (runEach t x f).s = ok.foldl (fun u k => match ds[k]? with | some d => f u src.1 d.ptr | none => u) src.2
          ∧ (runEach t x f).dmask = ok.foldl (fun n k => n + 2 ^ k) 0 ∧ (runEach t x f).fatal = none
          ∧ ((∀ b ∈ bad, b = none) → (runEach t x f).status = 0)
          ∧ ((∃ b ∈ bad, b = none) → (∃ b ∈ bad, b ≠ none) → (runEach t x f).status = 1)
          ∧ (∀ y l, bad = some y :: l → (∀ b ∈ l, b ≠ none) → (runEach t x f).status = y.1 ∧ (runEach t x f).addr = y.2)))
  ∧ (∀ t y, firstBad t x (destinations x) = none → meetsError t x = none → bufPoisoned t x.g.id 0 (tdBase y.desc) (tdBytes y.desc) = false →
      runStore t x y = ⟨storeTile t x y, 0, 1, 0, 0, none⟩)
  ∧ (∀ t y, firstBad t x (sources x) = none → meetsError t x = none →
      let r := gatherIndex t x
      firstBad r.2 x (rowSides x.c r.1) = none → struckIn t x.w x.c.die (rowSides x.c r.1) (rowSides x.c r.1) = none →
      runGather t x y = ⟨gatherRows r.2 x y r.1, 0, 1, 0, 0, none⟩))
  ∧ (∀ (s : State) (x : Eng1) (a : DWord) (bs : List Byte) (n kind off v : Nat) (q : DWord × Nat × Nat) (t : Tile) (op : AtOp),
  let seg : List Byte := (bs.drop q.2.1).take q.2.2
  let here (p : Spot) (g : Page) : Prop := p.remote = none ∧ pageOf s p.ia = some g ∧ keyHere s g (physIn g p.ia) = true
  ((∀ y ∈ piecesOf a n, y.1 = a + BitVec.ofNat 64 y.2.1 ∧ 0 < y.2.2 ∧ y.1.toNat % 64 + y.2.2 ≤ 64)
    ∧ (piecesOf a n).flatMap (fun y => List.range' y.2.1 y.2.2) = List.range n)
  ∧ (∀ p g, locate s x.w.part q.1 = some p → here p g → (writePiece s x bs q).mem = writeBytes s.mem (physIn g p.ia) seg)
  ∧ (∀ p e, locate s x.w.part q.1 = some p → p.remote = some e → writePiece s x bs q = holdSend s x.w.id x.c.lane e p.ia seg
        ∧ (writePiece s x bs q).mem = s.mem)
  ∧ (writePiece s x bs q).groups = s.groups
  ∧ (∀ k b, (engineWatch s x k a n b).mem = s.mem ∧ (engineWatch s x k a n b).groups = s.groups)
  ∧ (∀ e ia, wholeRemote s x.w.part a bs.length = some (e, ia) →
      engineWrite s x a bs = engineWatch (holdSend s x.w.id x.c.lane e ia bs) x 1 a bs.length none)
  ∧ (wholeRemote s x.w.part a bs.length = none →
      engineWrite s x a bs = engineWatch ((piecesOf a bs.length).foldl (fun t q => writePiece t x bs q) s) x 1 a bs.length none)
  ∧ ((engineRead s x a n).2.mem = s.mem ∧ (engineRead s x a n).2.groups = s.groups)
  ∧ (∀ p, n ≠ 0 → a.toNat % 64 + n ≤ 64 → locate s x.w.part a = some p → p.remote = none →
      (engineRead s x a n).1 = bytesOf (lineGet (dieLine s x.c.die Config.cores (p.ia / 64)) (p.ia % 64) n) n)
  ∧ (copyRows s x = (List.range (x.c.w 6)).foldl (fun t k =>
      let r := engineRead t x (x.c.at2 1 + BitVec.ofNat 64 (k * 64 * bitsOf (x.c.w 7) 0 16)) (x.c.w 5)
      engineWrite r.2 x (x.c.at2 3 + BitVec.ofNat 64 (k * 64 * bitsOf (x.c.w 7) 16 16)) r.1) s)
  ∧ (∀ g, findGroup s x.g.id = some g →
      findGroup (tileWrite s x kind off bs) x.g.id = some (setBuf g kind (writeBytes (bufOf g kind).1 off bs))
      ∧ (∀ k, k ≠ x.g.id → findGroup (tileWrite s x kind off bs) k = findGroup s k)
      ∧ (let u := tileWrite s x kind off bs; u = { s with groups := u.groups, poisonBuf := u.poisonBuf })
      ∧ (loadTile s x t).mem = s.mem
      ∧ findGroup (loadTile s x t) x.g.id = some (setBuf g (tdKind t.desc)
          (writeBytes (bufOf g (tdKind t.desc)).1 (tdBase t.desc) (engineRead s x (x.c.at2 1) (tdBytes t.desc)).1))
      ∧ storeTile s x t = engineWrite s x (x.c.at2 2) (readBytes g.abuf (tdBase t.desc) (tdBytes t.desc)))
  ∧ (gatherRows s x t [] = s ∧ ∀ ix i,
      let u := gatherRows s x t ix
      let w := bitsOf (x.c.w 5) 0 16
      let y := if i = 0xFFFFFFFF then (List.replicate w (0 : Byte), u) else engineRead u x (gatherRow x.c i) w
      gatherRows s x t (ix ++ [i]) = tileWrite y.2 x 0 (aElement t.desc ix.length 0) y.1 ∧ u.mem = s.mem)
  ∧ (∀ src, rstoreDest s x src a = (List.range (bitsOf (x.c.w 3) 0 24)).foldl (fun u e =>
      rstoreElement u x (rstoreOp (bitsOf (x.c.w 3) 24 4)) (a + BitVec.ofNat 64 (4 * e)) (natOfBytes ((src.drop (4 * e)).take 4))) s)
  ∧ (∀ p g, a.toNat % 64 ≤ 60 → locate s x.w.part a = some p → here p g →
      (rstoreElement s x op a v).mem = writeBytes s.mem (physIn g p.ia) (bytesOf (atStep op (homeRead s p.ia 4) v 0) 4)
      ∧ (rstoreElement s x op a v).groups = s.groups))

/-- R212, R213, R217, R339: a command that has been taken completes: its ranges are freed and its word is pushed, unless NC asks for none; a push that nothing can serve sends a probe token, which opens an emergency entry, and the next one traps. -/
def Obligations.EngineCompletion : Prop := ∀ (s : State) (w : Wave) (k : Fin 8) (c : Command) (rest : List Command),
  findWave s w.id = some w → (w.queues.get k).cmds = c :: rest →
  (c.state = .accepted → w.finished = false → allExited w = false → delivers c = true → completionRoom (w.queues.get k) = true →
      engineReleased s w.id c.die = true → (∀ g, findGroup s w.group = some g → g.finished = false) →
      ∃ t v, exec (.engineCommandComplete w.id k) s = .next t ∧ findWave t w.id = some v ∧ (v.queues.get k).cmds = rest
        ∧ (v.queues.get k).done.map (·.word) = (w.queues.get k).done.map (·.word)
              ++ [c.status.zeroExtend 32 + 16 * c.dmask.zeroExtend 32 + 256 * c.flags.zeroExtend 32 + BitVec.ofNat 32 (65536 * c.tag)]
        ∧ t.ranges = s.ranges.filter (fun r => r.cmd ≠ c.id) ∧ t.mem = s.mem)
  ∧ (c.state = .accepted → w.finished = false → delivers c = false → engineReleased s w.id c.die = true →
      exec (.engineCommandComplete w.id k) s = .next (endCommand s w k c))
  ∧ (originOf s w k = none → exec (.probeToken w.id k) s = .next s)
  ∧ (∀ r, w.run = some r → w.finished = false → blockedOn s w = some (0, w.id, k.val) → blockedCompletion (w.queues.get k) = true →
      let l := [(0, w.id, k.val), (2, w.id, k.val), (1, w.id, k.val)]
      (l ∉ (w.queues.get k).emergency → ∃ t v, exec (.probeToken w.id k) s = .next t ∧ findWave t w.id = some v ∧ t.mem = s.mem
        ∧ (v.queues.get k).emergency = (w.queues.get k).emergency ++ [l] ∧ (v.queues.get k).done = (w.queues.get k).done)
      ∧ (l ∈ (w.queues.get k).emergency → exec (.probeToken w.id k) s =
        .next (enterTrap (emitWave s w 0x0A 2 (execMask w r) r.pc (chainBody s l 1)) w.id (.at .queueCycle (execMask w r) 0 r 0))))

/-- R191, R321 to R327: a dispatcher places the next group of a launch; a task group's end decrements its successor, and at 0 appends its record, which waits while the queue is full, or faults the launch; buckets form their waves; a pool record moves to a gatherer. Which queue a dispatcher serves first is DEDUCED and not stated here. -/
def Obligations.Dispatching : Prop := ∀ (s : State),
  (∀ d t, dispatchNext s d = some t → exec (.groupDispatch d) s = .next t)
  ∧ (∀ (q : Queue) (l : Launch) t, s.queues = [q] → q.desc.v = true → q.desc.task = false → q.start ≠ q.tail → replayed s q = none →
      (s.launches.find? fun y => y.id = launchId q.n q.start && !y.reported) = some l → l.state = .running → l.next < l.groups →
      placeNext s (q.n % 4) q l = some t → dispatchNext s (q.n % 4) = some t)
  ∧ (∀ (die : Nat) (q : Queue) (l : Launch) (p : Part) ctx d c, findPart s l.part = some p → l.started = true → l.after ≤ p.inboundDone →
      l.next < l.groups → freeContexts s l.id 0 (lrCtxN l.record) (lrWaves l.record) = some ctx →
      chooseCore s p (freshNeed (lrWaves l.record) (lrBlocks l.record) (lrAbuf l.record) (lrWbuf l.record) (lrCbuf l.record)) die none l.clock = some (d, c) →
      ∃ t g, placeNext s die q l = some t ∧ g ∈ t.groups ∧ g.id = s.fresh ∧ g.place = some (d, c) ∧ g.launch = l.id ∧ g.waves = lrWaves l.record
        ∧ ∀ i, i < lrWaves l.record → ∃ w ∈ t.waves, w.group = s.fresh ∧ w.index = BitVec.ofNat 5 i ∧ w.launch = l.id
          ∧ ∀ k, (laneOf w k).state = .live ∧ (laneOf w k).pc = l.record.extractLsb' 0 48 ∧ (laneOf w k).regs = [])
  ∧ (∀ (x : Nat) t, finishTask s x = some t → exec (.taskGroupFinish x) s = .next t)
  ∧ (∀ (g : Group) (w : Wave) (p r : Spot) (n : Word), findGroup s g.id = some g → g.finished = true → g.task = true → g.succ ≠ 0 → g.appending = none →
      lastWave s g.id = some w → verdictWord s w g.succ 4 = .ok p → verdictWord s w (g.succ + 64) 64 = .ok r →
      clockCounts (clockOf s (homeDie p.ia)) (clockOf s (finishPlace g p.ia).1) = true →
      (s.groups.filter fun y => y.appending.isSome && (y.place.map (·.1)) = (g.place.map (·.1))).length < 256 →
      counterWord s p.ia = n + 1 → n ≠ 0 →
      exec (.taskGroupFinish g.id) s = .next (removeGroup (wakeJoins (counterWrite s (finishPlace g p.ia).1 w 0 exitedPc 0 g.succ p.ia n) p.ia) g.id))
  ∧ (∀ (g : Group) (w : Wave) (p r : Spot) (l : Launch), findGroup s g.id = some g → g.finished = true → g.task = true → g.succ ≠ 0 → g.appending = none →
      lastWave s g.id = some w → verdictWord s w g.succ 4 = .ok p → verdictWord s w (g.succ + 64) 64 = .ok r →
      clockCounts (clockOf s (homeDie p.ia)) (clockOf s (finishPlace g p.ia).1) = true →
      (s.groups.filter fun y => y.appending.isSome && (y.place.map (·.1)) = (g.place.map (·.1))).length < 256 →
      counterWord s p.ia = 1 → findLaunch s g.launch = some l →
      let s1 := wakeJoins (counterWrite s (finishPlace g p.ia).1 w 0 exitedPc 0 g.succ p.ia 0) p.ia
      let n := bitsOf (homeRead s1 p.ia 64) 32 12
      let x := homeRead s1 r.ia 64
      let s2 := modGroup s1 g.id fun _ => { g with succ := 0, appending := some (n, x) }
      let good : Prop := bitsOf (homeRead s1 p.ia 64) 44 468 = 0 ∧ trOk (widB1 (lrWidf l.record)) x = true
      memPoisoned s1 p.ia 64 = false → memPoisoned s1 r.ia 64 = false →
      (∀ q, good → taskQueue s1 n (tenantOf s g.part) = some q →
        exec (.taskGroupFinish g.id) s = .next (if queueFull q then s2
          else removeGroup (modGroup (appendTask s2 q g.launch x (finishPlace g 0)) g.id fun z => { z with appending := none }) g.id))
      ∧ (¬ good ∨ taskQueue s1 n (tenantOf s g.part) = none → exec (.taskGroupFinish g.id) s = .next (successorFault s1 g .engine)))
  ∧ (∀ (g : Group) (n x : Nat) (q : Queue), findGroup s g.id = some g → g.appending = some (n, x) → taskQueue s n (tenantOf s g.part) = some q →
      exec (.taskGroupFinish g.id) s = .next (if queueFull q then s
        else removeGroup (modGroup (appendTask s q g.launch x (finishPlace g 0)) g.id fun z => { z with appending := none }) g.id))
  ∧ (∀ d c n b, (coreAt s d c).buckets[n]? = some b → b.forming = false →
      (b.recs.length = 32 → exec (.bucketFull d c n) s =
          .next (modCore s d c fun x => { x with buckets := x.buckets.set n { b with forming := true } }))
      ∧ (b.recs ≠ [] → exec (.bucketFlush d c n) s =
          .next (modCore s d c fun x => { x with buckets := x.buckets.set n { b with forming := true } })))
  ∧ (∀ d c n b l p q, (coreAt s d c).buckets[n]? = some b → b.forming = true → findLaunch s b.launch = some l → findPart s l.part = some p →
      (d, c) ∈ coresOf p → startReady s d b.clock = true → cloverQuad s d c = some q → (∀ v ∈ s.waves, v.id < s.fresh) →
      ∃ t w, exec (.waveForm d c n) s = .next t ∧ findWave t (s.fresh + 1) = some w ∧ w.launch = l.id ∧ w.blks = 1 ∧ w.spn = true
        ∧ (∃ y, w.place = some y ∧ y.die = d ∧ y.core = c ∧ y.quad = q)
        ∧ ∀ k : Lane, (laneOf w k).state = (if k.val < b.recs.length then .live else .exited)
          ∧ ∀ r, b.recs[k.val]? = some r → (laneOf w k).pc = (srEntry r).extractLsb' 0 48 ∧ (laneOf w k).serial = srSerial r
            ∧ ∀ j, j < 4 → spGet (laneOf w k).regs j = srPayload r j)
  ∧ (∀ (l : Launch) (p : Part) ia d c, findLaunch s l.id = some l → findPart s l.part = some p → poolIa s l l.poolHead = some ia →
      l.state = .running → l.poolHead ≠ l.poolTail → (d, c) ∈ coresOf p →
      gathererRoom (coreAt s d c) l.id (srEntry (BitVec.ofNat 512 (homeRead s ia 64))) = true → memPoisoned s ia 64 = false →
      srOk (BitVec.ofNat 512 (homeRead s ia 64)) = true →
      ∃ t, exec (.poolRecordMove l.id d c) s = .next t ∧ t.mem = s.mem
        ∧ t.launches = s.launches.map (fun x => if x.id = l.id then { x with poolHead := x.poolHead + 1, poolClocks := x.poolClocks.drop 1 } else x)
        ∧ ∃ b ∈ (coreAt t d c).buckets, b.launch = l.id ∧ BitVec.ofNat 512 (homeRead s ia 64) ∈ b.recs)

/-- R360, R368, R369, R373, R375: what reaches the module from outside, by a port whose I/O die has not failed. That a read keeps no key is the model's choice (log 89). -/
def Obligations.FromOutside : Prop := ∀ (s : State),
  (∀ (p : Packet), portUp s p.port = false → exec (.launchPacket p) s = .next s)
  ∧ (∀ (x : Inbound), portUp s x.port = false → exec (.inboundRmaWrite x) s = .next s ∧ exec (.inboundRmaRead x) s = .next s)
  ∧ (∀ x : Fin 16, portUp s x = true ↔ x.val / 8 ∉ s.ioDead)
  ∧ (∀ (p : Packet) n, portUp s p.port = true → packetCheck s p = .error n →
      exec (.launchPacket p) s = .next { s with sweolo := { s.sweolo with out := s.sweolo.out ++ [.packet p.hdr n] } })
  ∧ (∀ (p : Packet), portUp s p.port = true → packetCheck s p = .ok none → exec (.launchPacket p) s = .next (answer s (.packet p.hdr 0)))
  ∧ (∀ (p : Packet) (q : Queue), portUp s p.port = true → packetCheck s p = .ok (some q) →
      ∃ t, exec (.launchPacket p) s = .next t ∧ t.sweolo.out = s.sweolo.out ++ [.packet p.hdr 0]
        ∧ t.queues = s.queues.map fun x => if x.n = q.n then
            { x with tail := x.tail + 1, after := x.after ++ [(q.tail, sentBefore s (bitsOf p.bytes.toNat 224 6) p.hdr.origin)] } else x)
  ∧ (∀ p : Packet, p.len ≠ 136 → packetCheck s p = .error 6)
  ∧ (∀ p : Packet, p.len = 136 → bitsOf p.bytes.toNat 1036 52 = 0 → tenantOfJob s p.job p.sdi = none → packetCheck s p = .error 1)
  ∧ (∀ (x : Inbound) (wr : Bool), portUp s x.port = true → (wr = true → keySeen s x.hdr = false) →
      let y := if wr then { x with len := 0 } else { x with data := [] }
      let i : Instr := if wr then .inboundRmaWrite x else .inboundRmaRead x
      (∀ n, inboundStatus s y wr = n + 1 → exec i s = .next { s with sweolo := { s.sweolo with out := s.sweolo.out ++ [.rma x.hdr (n + 1)] } })
      ∧ (∀ o xs, inboundStatus s y wr = 0 → windowOwner s x.ia.toNat = some (o, xs) →
          exec i s = .next (modPart (if wr then keepKey s x.hdr else s) o fun p => { p with inbound := p.inbound ++ [y] })))
  ∧ (∀ (x : Inbound), portUp s x.port = true → keySeen s x.hdr = true →
      exec (.inboundRmaWrite x) s = .next (if inboundWaits s x.hdr then s else answer s (.rma x.hdr 0)))
  ∧ (∀ o l, exec (.completionNotice o l) s = .next { s with keys := s.keys.filter fun k => !(k.origin = o && k.launch = l) })
  ∧ (∀ io : Fin 2, ∃ t, exec (.ioDieFailure io) s = .next t ∧ io.val ∈ t.ioDead ∧ t = { s with ioDead := t.ioDead })
  ∧ (∀ k : BadPacket, k ≠ .atomic → exec (.unsupportedPacket k) s = .next { s with dropped := s.dropped + 1 })
  ∧ exec (.unsupportedPacket .atomic) s = .next { s with sweolo := { s.sweolo with out := s.sweolo.out ++ [.malformed] } }

/-- R346 to R366: a mark is due, is taken and commits, with what it held released in order; a slice end rolls the partition back to its committed mark, its groups saved; errors poison what they strike; a launch that consumes one is reported, loses the sends it holds and ends or starts again, and one that is killed ends; parts are fenced and unfenced, and two fenced routers split the dies. -/
def Obligations.MarksErrorsAndFences : Prop :=
  (∀ (s : State) (p : Part), findPart s p.n = some p →
  exec (.markIntervalTimeout p.n) s = .next { s with parts := s.parts.map fun x => if x.n = p.n then { x with markDue := true } else x }
  ∧ (markMay s p = true → p.inbound = [] → s.shadows = [] → s.sessions = [] →
      ∃ t x i, exec (.checkpointMark p.n) s = .next t ∧ findPart t p.n = some x ∧ x.mark = p.mark + 1 ∧ x.committed = false ∧ x.markDue = false
        ∧ x.closing = p.held ∧ x.held = [] ∧ t.images = s.images ++ [i] ∧ i.part = p.n ∧ i.mark = p.mark + 1 ∧ i.mem = s.mem
        ∧ i.waves = s.waves.filter (fun w => w.part = p.n) ∧ t.mem = s.mem ∧ t.waves = s.waves)
  ∧ (p.committed = false →
      let r := p.closing.foldl (fun u x => releaseSend u p.desc.tenant.toNat x) s
      ∃ t x, exec (.markCommit p.n) s = .next t ∧ findPart t p.n = some x ∧ x.committed = true ∧ x.closing = [] ∧ x.held = p.held
        ∧ (∃ l, t.sweolo.out = r.sweolo.out ++ l) ∧ t.dropped = r.dropped ∧ t.waves = s.waves ∧ (∀ i ∈ t.images, i.part = p.n → p.mark ≤ i.mark)
        ∧ (s.queues = [] → s.sessions = [] → t.sweolo = r.sweolo ∧ t.mem = s.mem ∧ t.images = s.images.filter fun i => i.part ≠ p.n || p.mark ≤ i.mark))
  ∧ (∀ (u : State) (tn : Nat) (x : Outbound), (∀ e a bs k, x = .write e a bs k → .peer tn e ∉ u.fences) →
      let e := u.tenants.get (Fin.ofNat 64 tn)
      releaseSend u tn x = { u with sweolo := { u.sweolo with out := u.sweolo.out ++ [.sent e.job e.sdi x] } })
  ∧ (∀ i, committedImage s p = some i → s.shadows = [] →
      let resident (n : Nat) : Bool := i.groups.any fun g => g.place.isSome && g.id = n
      ∃ t x, exec (.sliceEnd p.n) s = .next t ∧ findPart t p.n = some x ∧ x.mark = i.mark ∧ x.committed = true ∧ x.held = [] ∧ x.closing = []
        ∧ t.waves = (s.waves.filter (fun w => w.part ≠ p.n) ++ i.waves).map (fun w => if resident w.group then saveWave w else w)
        ∧ (∀ g ∈ t.groups, g.part = p.n → g.place = none)
        ∧ ((∀ g ∈ i.groups, g.place = none) → t.groups = s.groups.filter (fun g => g.part ≠ p.n) ++ i.groups)
        ∧ t.mem = restoreMemory s p i ∧ ∀ f ∈ t.flights, f.part = p.n → f.kind = .store [] ∧ f.counted = false)
  ∧ (∀ a, a % Config.channelBytes < Config.frameBytes →
      ∃ t, exec (.softError (.memory a) false) s = .next t ∧ a / 64 ∈ t.poisonMem ∧ t = { s with poisonMem := t.poisonMem })
  ∧ (∀ w l r, ∃ t, exec (.softError (.register w l r) false) s = .next t ∧ (w, l.val, r) ∈ t.poisonReg ∧ t = { s with poisonReg := t.poisonReg })
  ∧ (∀ x, exec (.softError x true) s = .next { s with
        corrected := s.corrected + 1, sweolo := { s.sweolo with out := s.sweolo.out ++ [.corrected x] } })
  ∧ (∀ l : Launch, findLaunch s l.id = some l →
      let ends (t : State) (st : LaunchState) (e : Ended) : Prop := t.mem = s.mem ∧ (∀ x, findLaunch t l.id = some x → x.state = st)
        ∧ (∀ q ∈ t.queues, q.n = l.queue → e ∈ q.done) ∧ t.queues.map (·.n) = s.queues.map (·.n)
      let stopped (t : State) : Prop := (∀ g ∈ t.groups, g.launch = l.id → g.finished = true)
        ∧ (s.shadows = [] → ∀ w ∈ s.waves, w.launch = l.id → midRun w = false → ∀ v ∈ t.waves, v.id = w.id → v.finished = true)
      (l.state = .running → l.replay = false → ∃ t, exec (.launchKill l.id) s = .next t ∧ stopped t ∧ ends t .killed ⟨l.seq, 4, 0, l.id, some l.part, false⟩)
      ∧ (l.replay = true → ∃ t, exec (.launchKill l.id) s = .next t ∧ ends t .killed ⟨l.seq, 4, 0, l.id, some l.part, false⟩)
      ∧ (∀ name spn what, l.state = .running → l.replay = false →
          let dropped (t : State) : Prop := .consumed l.id name spn what ∈ t.sweolo.out
            ∧ ∀ x, findPart t l.part = some x → ∀ y ∈ x.held ++ x.closing, outboundOf l.id y = false
          (l.snapshot = none ∨ 2 ≤ l.replays → ∃ t, exec (.uncorrectable ⟨l.id, name, spn, what⟩) s = .next t ∧ dropped t ∧ stopped t
            ∧ ends t (.faulted .uncorrectable) ⟨l.seq, 3, trapCode .uncorrectable, l.id, some l.part, false⟩)
          ∧ (l.snapshot.isSome → l.replays < 2 → ∃ t, exec (.uncorrectable ⟨l.id, name, spn, what⟩) s = .next t ∧ dropped t
            ∧ ∀ x, findLaunch t l.id = some x →
                (x.state = .faulted .uncorrectable ∧ x.replay = true ∧ x.replays = l.replays)
                ∨ (x.state = .running ∧ x.replay = false ∧ x.next = 0 ∧ x.started = false ∧ x.replays = l.replays + 1)))))
  ∧ (∀ (s : State), s.sessions = [] →
  let fenced (f : FenceId) : State := { s with fences := s.fences ++ [f], sweolo := { s.sweolo with out := s.sweolo.out ++ [.event f] } }
  (∀ p, p < 16 → .portLink p ∉ s.fences → exec (.linkTimeout (.portLink p)) s = .next (fenced (.portLink p)))
  ∧ (∀ b l, b < 4 → l < 8 → .boundaryLink b l ∉ s.fences → exec (.linkTimeout (.boundaryLink b l)) s = .next (fenced (.boundaryLink b l)))
  ∧ (∀ d, d < 4 → .router d ∉ s.fences →
      (diesSplit (fenced (.router d)) = false ∨ diesSplit s = true → exec (.switchTimeout d) s = .next (fenced (.router d)))
      ∧ (diesSplit (fenced (.router d)) = true → diesSplit s = false → s.parts = [] →
          exec (.switchTimeout d) s = .next (answer (fenced (.router d)) .split) ∧ halted (answer (fenced (.router d)) .split) = true))
  ∧ (∀ d, (∀ e, .router e ∈ s.fences → e = d) → diesSplit s = false)
  ∧ (∀ d e, d < 4 → e < 4 → d ≠ e → .router d ∈ s.fences → .router e ∈ s.fences → diesSplit s = true)
  ∧ (∀ t e, t < 64 → .peer t e ∉ s.fences → exec (.peerTimeout t e) s = .next (fenced (.peer t e)))
  ∧ (∀ f, f ∈ s.fences ∨ partExists f = false → exec (.linkTimeout f) s = .next s)
  ∧ (∀ f, exec (.fenceLift f) s = .next { s with fences := s.fences.erase f })
  ∧ (∀ t e a bs k, .peer t e ∈ s.fences → releaseSend s t (.write e a bs k) = { s with dropped := s.dropped + 1 }))

/-- R221, R230, R295, R302, R306, R313, R315, R371, R377, R381: what Sweolo writes at the driver's request, while no resident group uses it; a request that must wait stays pending. -/
def Obligations.TableWrites : Prop := ∀ (s : State),
  (∀ t bank n, t < 64 → bank < 256 → quotaSum s bank t + n ≤ 16384 →
      let u : State := { s with quotas := s.quotas.filter (fun q => !(q.1 = t && q.2.1 = bank)) ++ (if n = 0 then [] else [(t, bank, n)]) }
      exec (.quotaWrite t bank n) s = .next { u with parts := s.parts.map fun p =>
        if p.desc.v && p.desc.tenant.toNat = t then { p with desc := { p.desc with banks := quotaBanks u t } } else p })
  ∧ (∀ t i r, t < 64 → i < 256 → r.v = true → 2 ^ 51 ≤ r.iabase.toNat → r.iabase.toNat % 4096 = 0 → tenantResident s t = false →
      exec (.remoteTableWrite t i r) s = .next { s with remotes := s.remotes.filter (fun x => !(x.1 = t && x.2.1 = i)) ++ [(t, i, r)] })
  ∧ (∀ t (r : TenantWrite), t < 64 → r.entry.v = true → r.entry.keyix ≠ 0 → r.entry.job ≠ s.sweolo.job → tenantResident s t = false →
      (∀ k : Fin 64, k.val ≠ t → (s.tenants.get k).v = true → (s.tenants.get k).keyix ≠ r.entry.keyix) →
      let old := s.tenants.get (Fin.ofNat 64 t)
      ∃ u, exec (.tenantTableWrite t r) s = .next u ∧ u.tenants.get (Fin.ofNat 64 t) = r.entry
        ∧ (old.v = true → old.keyix = r.entry.keyix → u.sweolo.keySlots = s.sweolo.keySlots)
        ∧ (old.v = false ∨ old.keyix ≠ r.entry.keyix → (∀ d, (r.entry.keyix.toNat, d) ∈ u.sweolo.keySlots ↔ d = s.fresh + 1)
            ∧ (old.v = true → ∀ d, (old.keyix.toNat, d) ∉ u.sweolo.keySlots))
        ∧ (∀ q, q < 4096 → r.entry.qmap.toNat % 8 = 0 → qmapBit u r.entry q = r.queues.getLsbD q)
        ∧ (∀ k : Fin 64, k.val ≠ t → u.tenants.get k = s.tenants.get k) ∧ u.mem = s.mem)
  ∧ (∀ t, t < 64 → tenantResident s t = false →
      let k := (s.tenants.get (Fin.ofNat 64 t)).keyix.toNat
      ∃ u, exec (.tenantRemove t) s = .next u ∧ (u.tenants.get (Fin.ofNat 64 t)).v = false
        ∧ (∀ a x, (a, x) ∈ u.mem ↔ (a, x) ∈ s.mem ∧ tenantFrame s t a = false) ∧ (∀ i ∈ u.images, ∀ c ∈ i.mem, tenantFrame s t c.1 = false)
        ∧ (∀ j d, (j, d) ∈ u.sweolo.keySlots ↔ (j, d) ∈ s.sweolo.keySlots ∧ (j = k → k = 0)))
  ∧ (∀ n d, n < 4096 → d.v = true → 4 ≤ d.log2n.toNat → d.log2n.toNat ≤ 20 → d.base.toNat % (128 * 2 ^ d.log2n.toNat) = 0 →
      tenantResident s d.tenant.toNat = false →
      (findQueue s n = none → exec (.queueDescriptorWrite n d) s = .next { s with queues := s.queues ++
          [{ n := n, desc := d, tail := 0, start := 0, head := 0, done := [], after := [], origins := [], void := [], emergency := [], reserved := [], turn := 0 }] })
      ∧ (∀ q, findQueue s n = some q → tenantResident s q.desc.tenant.toNat = false →
          exec (.queueDescriptorWrite n d) s = .next (modQueue s n fun q => { q with desc := d })))
  ∧ (∀ k o xs p, k < 4096 → findPart s o = some p → anyResident s o = false → (s.windows.find? fun x => x.1 = k) = none →
      exec (.windowAssignment k (some o) xs) s = .next { s with windows := s.windows.filter (fun x => x.1 ≠ k) ++ [(k, o, xs)] })
  ∧ (∀ p i r, findPart s p.n = some p → rangeOk s p i r = true → anyResident s p.n = false →
      exec (.rangeRegisterWrite p.n i r) s = .next (modPart s p.n fun y => { y with ranges := y.ranges.set i.val r i.isLt }))
  ∧ (∀ n (w : PartWrite), descOk s n w.desc = true → w.desc.v = true → findPart s n = none →
      ∃ u, exec (.partitionDescriptorWrite n w) s = .next u ∧ u.mem = s.mem
        ∧ u.parts = s.parts ++ [{ freshPart n w.desc s.protectNext (s.protectNext + Config.tableBytes 0) with logSize := w.log }]
        ∧ (∀ k, u.frames.get k = if k = Fin.ofNat 64 w.desc.tenant.toNat then s.frames.get k ||| w.desc.channels
            else s.frames.get k &&& ~~~w.desc.channels)
        ∧ ∀ d c, w.desc.clusters.getLsbD (16 * d + c / 4) = true →
            (coreAt u d c).corrections = 0 ∧ (coreAt u d c).emergencies = 0 ∧ ∀ x ∈ (coreAt u d c).hits, x = 0)
  ∧ (∀ p (w : PartWrite), findPart s p.n = some p → descOk s p.n w.desc = true → w.desc.v = true → anyResident s p.n = false →
      ∃ u, exec (.partitionDescriptorWrite p.n w) s = .next u
        ∧ u = { modPart s p.n fun y => { y with desc := w.desc, logSize := w.log } with frames := u.frames, l1 := u.l1, cores := u.cores })
  ∧ (∀ n (w : PartWrite), descOk s n w.desc = true → w.desc.v = false → (∀ g ∈ s.groups, g.part ≠ n) →
      ∃ u, exec (.partitionDescriptorWrite n w) s = .next u ∧ u.mem = s.mem ∧ findPart u n = none ∧ descOf u n = w.desc)
  ∧ (∀ n b, (findPart s n = none → exec (.debugInterceptSet n b) s = .next (refuse s 221) ∧ exec (.dieWatchEnable n b) s = .next (refuse s 230))
      ∧ ((findPart s n).isSome → exec (.debugInterceptSet n b) s = .next (modPart s n fun p => { p with intercept := b })
          ∧ exec (.dieWatchEnable n b) s = .next (modPart s n fun p => { p with dieWatch := b })))
  ∧ (∀ i, attempt s i = none → exec i s = .next { s with sweolo := { s.sweolo with pending := s.sweolo.pending ++ [i] } })

/-- R310 to R312, R378, R379: an entry of the page table changed; a page request forwarded; a page filled before it is made resident; clusters lent and reclaimed. -/
def Obligations.PagesAndClusters : Prop := ∀ (s : State) (p : Part), findPart s p.n = some p →
  (∀ (ia : BitVec 52) (l : EntryWrite), ia.toNat % pageBytes l.level = 0 → ia.toNat < 2 ^ 48 → (windowOwner s ia.toNat).map (·.1) = some p.n →
      s.flights = [] →
      ∃ t, exec (.pageShootdown p.n ia l) s = .next t ∧ t.waves = s.waves
        ∧ protectGet t (entryAddr (tableFor ia.toNat l.level.val 0 p.root s).1 l.level ia.toNat) = l.entry
        ∧ (∀ a, a % Config.channelBytes < Config.frameBytes → readByte t.mem a = readByte s.mem a)
        ∧ t.sweolo.out = s.sweolo.out ++ [.unmapped p.n ia])
  ∧ (∀ x, unringed s p = some x → ringRoom p = true →
      let e := pageEntry p.n x p.ringSeq
      let a := p.ringBase + 16 * (p.ringSeq.toNat % Config.ringEntries)
      ∃ t, exec (.pageRequestForward p.n) s = .next t
        ∧ protectGet t a = e.extractLsb' 0 64 ∧ protectGet t (a + 8) = e.extractLsb' 64 64
        ∧ t = { modPart s p.n fun y => { y with ring := y.ring ++ [e], ringSeq := y.ringSeq + 1 } with
                protect := t.protect, sweolo := { s.sweolo with out := s.sweolo.out ++ [.pageRequest e] } })
  ∧ (∀ (ia : BitVec 52) g data, ownPage s p.n ia.toNat = some g → g.leaf.res = false → ia.toNat + data.length ≤ g.base + pageBytes g.leaf.level →
      data ≠ [] → ia.toNat % 64 + data.length ≤ 64 → keyHere s g (physIn g ia.toNat) = true →
      ∃ t, exec (.pagerFrameWrite p.n ia data []) s = .next t ∧ t.mem = writeBytes s.mem (physIn g ia.toNat) data ∧ t.waves = s.waves)
  ∧ (∀ (b : Part) (k : Nat), findPart s b.n = some b → b.n ≠ p.n → b.desc.v = true → k < 64 → p.desc.owned.getLsbD k = true →
      p.desc.clusters.getLsbD k = true → clusterSaveable s k = true → s.cores = [] →
      ∃ t x y, exec (.clusterLend p.n b.n k) s = .next t ∧ findPart t p.n = some x ∧ findPart t b.n = some y ∧ t.loans = s.loans ++ [(k, p.n, b.n)]
        ∧ x.desc.clusters.getLsbD k = false ∧ y.desc.clusters.getLsbD k = true ∧ t.mem = s.mem)
  ∧ (∀ (b : Part) (k : Nat), findPart s b.n = some b → b.n ≠ p.n → b.committed = true → k < 64 →
      (s.loans.find? fun x => x.1 = k && x.2.1 = p.n) = some (k, p.n, b.n) →
      ∃ t x y, exec (.clusterReclaim p.n k) s = .next t ∧ findPart t p.n = some x ∧ findPart t b.n = some y
        ∧ (∀ z ∈ t.loans, z.1 ≠ k) ∧ x.desc.clusters.getLsbD k = true ∧ y.desc.clusters.getLsbD k = false)

/-- R390, R393 to R397: stops, what they leave, single steps for Sweolo, dumps, and resumption. -/
def Obligations.StopsAndSteps : Prop := ∀ (s : State),
  (∀ (n : Nat) (q : StopReq), s.stops[n]? = some q → ∃ t, exec (.clusterStop n) s = .next t ∧ (q.die, q.cluster) ∈ t.stopped ∧ t.mem = s.mem
      ∧ t.stops = s.stops.erase q
      ∧ t.waves = s.waves.map fun w => if waveOn w q.die q.cluster && !w.finished then haltWave w else w)
  ∧ (∀ d c, stopping s d c = false → ∃ k, exec (.sweoloStopRequest d c) s = .next { s with stops := s.stops ++ [⟨2, d, c, 0, 0, false, 0, 0, k⟩] })
  ∧ (∀ d c, exec (.clusterResume d c) s = .next { s with
        cores := s.cores.map fun x => if x.die = d && x.core / 4 = c then { x with tree := none } else x
        stopped := s.stopped.filter (· ≠ (d, c))
        waves := s.waves.map fun w => if waveOn w d c then { w with stopped := false, intercepted := false } else w })
  ∧ (∀ w v : Wave, findWave s w.id = some w → dumpOf s w.id = some v →
      (∀ g, findGroup s w.group = some g → exec (.waveDump w.id) s = .next (answer s (.dump v g.g (monitorsOf s w.id))))
      ∧ v = { w with place := none, queues := v.queues, lanes := v.lanes, skip := v.skip, spin := v.spin, floor := v.floor, issue := v.issue
                     hold := v.hold, run := v.run, tick := v.tick, tags := v.tags, aged := v.aged }
      ∧ (shadowOf s w.id = none → v = { w with place := none, queues := v.queues })
      ∧ (∀ h, shadowOf s w.id = some h → v.lanes = h.saved.lanes)
      ∧ ∀ k, (v.queues.get k).bound = (w.queues.get k).bound ∧ (v.queues.get k).done = (w.queues.get k).done
          ∧ (v.queues.get k).cmds = (w.queues.get k).cmds.map fun c => { c with die := 0, core := 0 })
  ∧ (∀ w : Wave, findWave s w.id = some w → w.stopped = true → w.h = false → w.finished = false → w.stepping = none → canStep w = true → shadowOf s w.id = none →
      ∃ t v, exec (.sweoloStep w.id) s = .next t ∧ t.cur = some w.id ∧ findWave t w.id = some v ∧ v.stepping.isSome ∧ v.stopped = true
        ∧ v.run.isSome ∧ t.mem = s.mem)
  ∧ (∀ w : Wave, findWave s w.id = some w → w.stopped = true → w.h = false → w.finished = false → w.stepping = none → canStep w = false →
      ∃ t, exec (.sweoloStep w.id) s = .next t ∧ t = { s with sessions := t.sessions, sweolo := t.sweolo })

/-- R388, R391, R392, R399 to R401, R407: a trace session opens and closes; a record is kept while there is room, and lost otherwise; samples and snapshots; the clock of a die is locked, breaks under a limit, returns to the locked point and is released. The counts of a snapshot are free values (log 3). -/
def Obligations.TraceAndClocks : Prop :=
  (∀ (s : State),
  (∀ p n k m, (findPart s p).isSome → findSession s p = none → 2 ^ 20 ≤ n → n ≤ 2 ^ 30 → 10 ≤ k → k ≤ 20 →
      exec (.traceSessionOpen p n ⟨some k, m⟩) s = .next { s with
        sessions := s.sessions ++ [⟨p, m, s.protectNext, n, some k, [], 0, none, [], []⟩], protectNext := s.protectNext + n })
  ∧ (∀ p n k m, (findPart s p = none ∨ (findSession s p).isSome ∨ n < 2 ^ 20 ∨ 2 ^ 30 < n ∨ k < 10 ∨ 20 < k) →
      exec (.traceSessionOpen p n ⟨some k, m⟩) s = .next (refuse s 388))
  ∧ (∀ p x, findSession s p = some x → x.lock = none → x.locked = [] →
      exec (.traceSessionClose p) s = .next { s with sessions := s.sessions.filter fun y => y.part ≠ p })
  ∧ (∀ p n, exec (.traceAck p n) s = .next { s with sessions := s.sessions.map fun x => if x.part = p then { x with recs := x.recs.drop n } else x })
  ∧ (∀ p r x, s.sessions = [x] → x.part = p →
      let used := x.recs.foldl (fun n y => n + recBytes y) 0
      let mine : TraceRec := { r with place := if x.mgmt then r.place else none }
      let out (l : List TraceRec) : Sweolo := { s.sweolo with out := s.sweolo.out ++ l.map fun y => .trace p y }
      (x.lost = 0 → used + recBytes r ≤ x.bytes → emit s p r = { s with sessions := [{ x with recs := x.recs ++ [mine] }], sweolo := out [mine] })
      ∧ (0 < x.lost → used + recBytes r + 64 ≤ x.bytes → ∃ d, d.typ = 0x0F ∧ d.body = x.lost ∧ d.place = none
          ∧ emit s p r = { s with sessions := [{ x with recs := x.recs ++ [d, mine], lost := 0 }], sweolo := out [d, mine] })
      ∧ (x.bytes < used + recBytes r → emit s p r = { s with sessions := [{ x with lost := x.lost + 1 }] }))
  ∧ (∀ d c p x k, s.sessions = [x] → findPart s x.part = some p → p.desc.clusters.getLsbD (16 * d + c / 4) = true → x.period = some k → x.sample = [] → x.lost = 0 →
      x.recs = [] → 64 ≤ x.bytes →
      let r : TraceRec := { sampleRecord s d c 0 with place := if x.mgmt then (sampleRecord s d c 0).place else none }
      exec (.sample d c) s = .next { s with
        sessions := [{ x with recs := [r], sample := [(d, c, 1)] }], sweolo := { s.sweolo with out := s.sweolo.out ++ [.trace x.part r] } })
  ∧ (∀ p d c, (findSession s p).isSome → ∃ t, exec (.treeSnapshot p d c) s = .next t
      ∧ t = { s with free := s.free + 12, sessions := t.sessions, sweolo := t.sweolo }))
  ∧ (∀ (s : State) (x : Session), s.sessions = [x] →
  (∀ p pt d, findPart s x.part = some p → d ∈ diesOf s x.part → (dieAt s d).broken = false →
      ∃ t, exec (.clockLock x.part pt) s = .next t ∧ (dieAt t d).lock = some pt ∧ t.waves = s.waves
        ∧ (pt ≤ (dieAt s d).limit → (dieAt t d).point = pt ∧ (dieAt t d).broken = false)
        ∧ ((dieAt s d).limit < pt → (dieAt t d).point = (dieAt s d).limit ∧ (dieAt t d).broken = true))
  ∧ (∀ d c found, d < 4 → causeHolds s found c (dieAt s d).point = true →
      ∃ t, exec (.clockBreak d c found) s = .next t ∧ (dieAt t d).broken = (dieAt s d).lock.isSome ∧ (dieAt t d).point = highestPoint s found
        ∧ (dieAt t d).limit = highestPoint s found ∧ (dieAt t d).lock = (dieAt s d).lock)
  ∧ (∀ d c found, causeHolds s found c (dieAt s d).point = false → exec (.clockBreak d c found) s = .next s)
  ∧ (∀ found k, withinLimits s found k = true → k ≤ highestPoint s found ∧ withinLimits s found (highestPoint s found) = true)
  ∧ (∀ found, (∀ k, withinLimits s found k = false) → highestPoint s found = 0)
  ∧ (∀ d, d < 4 → ∃ t, exec (.clockRestore d) s = .next t ∧ (dieAt t d).limit = 7 ∧ (dieAt t d).lock = (dieAt s d).lock
        ∧ (∀ p, (dieAt s d).lock = some p → (dieAt s d).broken = true → (dieAt t d).broken = false ∧ (dieAt t d).point = p)
        ∧ ((dieAt s d).lock = none ∨ (dieAt s d).broken = false → (dieAt t d).point = (dieAt s d).point ∧ (dieAt t d).broken = (dieAt s d).broken))
  ∧ (∀ d, d ∈ x.locked → (dieAt s d).lock.isSome →
      ∃ t, exec (.clockRelease x.part) s = .next t ∧ (dieAt t d).lock = none ∧ (dieAt t d).broken = false)
  ∧ (∀ d found, ((dieAt s d).lock = none → ∃ t, exec (.operatingPointChange d found) s = .next t ∧ (dieAt t d).point = highestPoint s found
          ∧ t = { s with dies := t.dies })
        ∧ ((dieAt s d).lock.isSome → exec (.operatingPointChange d found) s = .next s)))

/-- R383, R384, R402 to R404, R408, R409: power, temperature, reset, images and attestation. The bytes of SPDM messages are opaque (log 14), and so is the hash. -/
def Obligations.ModuleEvents : Prop := ∀ (s : State),
  let fw := s.sweolo.firmware
  let answers (i : Instr) (x : Output) : Prop := exec i s = .next { s with sweolo := { s.sweolo with out := s.sweolo.out ++ [x] } }
  (∀ n, 1200 ≤ n → n ≤ Config.powerLimit → exec (.powerLimitSet n) s = .next { s with sweolo := { s.sweolo with powerLimit := n } })
  ∧ (∀ n, n < 1200 ∨ Config.powerLimit < n → answers (.powerLimitSet n) (.refused 408))
  ∧ (∀ r, answers (.telemetryReport r) (.telemetry r))
  ∧ (∀ x, shutsDown x = true → ∃ u, exec (.thermalShutdown x) s = .next u ∧ u.cur = none ∧ halted u = true ∧ u.mem = s.mem ∧ u.sweolo.report = some x)
  ∧ (∀ x, shutsDown x = false → exec (.thermalShutdown x) s = .next s)
  ∧ (∀ d t, shutsDown (.dieTemp d t) = decide (115 ≤ t) ∧ shutsDown (.inletTemp t) = decide (55 < t))
  ∧ (∀ q ms, shutsDown (.flow q ms) = decide (q < 1000 ∧ 100 ≤ ms))
  ∧ (∀ x, failingStep fw x = none ↔ (∀ k : Fin 3, (bootImage fw k).isSome) ∧ x.step2 = false)
  ∧ (∀ c x, failingStep fw x = none → ∃ t, exec (.moduleReset c x) s = .next t ∧ t.waves = [] ∧ t.mem = [] ∧ t.fences = x.parts.filter partExists
      ∧ t.sweolo.recovery = false ∧ t.sweolo.shutdown = none ∧ .ready ∈ t.sweolo.out ∧ (∀ y, s.sweolo.report = some y → .shutdown y ∈ t.sweolo.out)
      ∧ ∀ k : Fin 3, t.sweolo.loaded.get k = bootImage fw k
        ∧ (fw.fresh.get k = false → t.sweolo.firmware.counters.get k = fw.counters.get k)
        ∧ ∀ i, fw.fresh.get k = true → bootImage fw k = some i →
            (t.sweolo.firmware.counters.get k).val = max (fw.counters.get k).val (min i.version 64))
  ∧ (∀ c x n, failingStep fw x = some n → ∃ t, exec (.moduleReset c x) s = .next t ∧ t.sweolo.recovery = true ∧ t.sweolo.shutdown = none
      ∧ halted t = true ∧ t.waves = [] ∧ t.mem = s.mem ∧ t.sweolo.firmware = fw)
  ∧ (∀ i : Image, i.sigOk = true → fw.revoked.get i.root = false → (fw.counters.get i.which).val ≤ i.version →
      ∃ t, exec (.imageUpdate i) s = .next t ∧ t.sweolo.firmware.activeA.get i.which = (!fw.activeA.get i.which)
        ∧ bootImage t.sweolo.firmware i.which = some i ∧ (∀ k, k ≠ i.which → bootImage t.sweolo.firmware k = bootImage fw k)
        ∧ t.sweolo.loaded = s.sweolo.loaded ∧ t.sweolo.firmware.counters = fw.counters)
  ∧ (∀ i : Image, i.sigOk = false ∨ fw.revoked.get i.root = true ∨ i.version < (fw.counters.get i.which).val →
      answers (.imageUpdate i) (.refused 404))
  ∧ (∀ io : Fin 2, io.val ∉ s.ioDead →
      let gives (i : Instr) (k : Nat) : Prop := ∃ b, answers i (.spdm io k b)
      gives (.getVersion io) 0 ∧ gives (.getCapabilities io) 1 ∧ gives (.getDigests io) 3 ∧ gives (.getCertificate io) 4
        ∧ (∃ b, answers (.negotiateAlgorithms io) (.algorithms io .mlDsa87 .sha3_512 b))
        ∧ (∀ n, ∃ b x, x.length = 4627 ∧ answers (.challenge io n) (.spdm io 5 (b ++ x))) ∧ (∀ r, gives (.spdmUnsupportedRequest io r) 7)
        ∧ ∀ who n, answers (.getMeasurements io who n)
            (.measurement io n (if maySee s who n then (measured s n).map Config.sha3_512 else none)))
  ∧ (∀ io : Fin 2, io.val ∈ s.ioDead → ∀ i ∈ [Instr.getVersion io, .getCapabilities io, .negotiateAlgorithms io, .getDigests io, .getCertificate io],
      exec i s = .next s)

/-- Every well-formed instruction that has a word has one that decodes to it, with every operand at every value (R43 to R64). -/
def Obligations.EncodingRoundTrip : Prop := ∀ i : Instr, i.wellFormed = true → i.shape.isSome → ∃ w, encode i = some w ∧ decode w = .ok i

/-- A word that decodes is the word of what it decodes to: no two words stand for one instruction, and no bit is ignored (R7, R43, R67). -/
def Obligations.DecodingIsExact : Prop := ∀ (w : Word) (i : Instr), decode w = .ok i → i.wellFormed = true ∧ encode i = some w

/-- Words of the spec's own listings, of several families, decode to the instructions beside them (05, 08, 09, 19 to 23); and the reserved majors of R52 decode in no encoding. -/
def Obligations.WordsDecode : Prop :=
  (decode 0x26060411#32 = .ok (.ffma false false (.v 3) (.v 1) (.v 2) .rtz)
  ∧ decode 0x300A12E8#32 = .ok (.cvtFloatSource false false (.v 5) (.v 4) .e4m3 .dth 0)
  ∧ decode 0x02285018#32 = .ok (.addS32 false false (.v 20) (.v 20) (.v 3))
  ∧ decode 0x0E2C300A#32 = .ok (.lea false false (.v 22) (.v 12) (.v 1) 2)
  ∧ decode 0x10242842#32 = .ok (.sel false false (.v 18) (.v 10) (.v 8) 2)
  ∧ decode 0x12020414#32 = .ok (.cmp32 false 1 (.v 1) (.v 2) .ltZ)
  ∧ decode 0xC24FFFF4#32 = .ok (.brp true 2 false 0xFFFF4#20)
  ∧ decode 0x500403DC#32 = .ok (.ld false false (.v 2) (.v 0) 0x7B#7 .b32)
  ∧ decode 0xD412600A#32 = .ok (.st true (.v 9) (.v 24) 1#7 .b32)
  ∧ decode 0x60261A80#32 = .ok (.atomInt false false (.v 19) (.v 6) .dev 0#4 .add)
  ∧ decode 0xEA283082#32 = .ok (.spawn true 5#5 0 (.v 12) (.v 16) 2)
  ∧ decode 0xF008A518#32 = .ok (.mma true 2 10 20 1 8)
  ∧ decode 0xF4008005#32 = .ok (.qbind true 0 0#3 1#3)
  ∧ decode 0xF8130003#32 = .ok (.swr true (.v 9) 3#8))
  ∧ (∀ w : Word,
  w.extractLsb' 25 6 ∈ [0x00#6, 0x25#6, 0x26#6, 0x27#6, 0x2F#6, 0x37#6, 0x3B#6, 0x3E#6, 0x3F#6] →
  decode w = .error (.reservedMajor (w.extractLsb' 25 6).toNat))

/-- A step runs what the word at the PC of the issuing wave decodes to, takes the trap when there is no such instruction (R42, R67, R68), and takes an event of the agenda, or else the next one that can happen (log 1). -/
def Obligations.StepRunsTheWord : Prop := ∀ (s : State),
  (∀ w r, s.agenda = [] → halted s = false → current s = some (w, r) → shadowOf s w.id = none →
      let traps (u : State) (t : Trap) : Host.Outcome State Fault Refusal := .next (enterTrap u w.id (.at t (execMask w r) 0 r (r.pc.zeroExtend 64)))
      (∀ ia x i, fetchAt s w r.pc = .word ia x → decode x = .ok i → step s = exec i (fetchTouch s w ia false))
      ∧ (∀ ia x e, fetchAt s w r.pc = .word ia x → decode x = .error e → step s = traps (fetchTouch s w ia false) .illegalOp)
      ∧ (∀ t, fetchAt s w r.pc = .trap t → step s = traps s t)
      ∧ (∀ g, fetchAt s w r.pc = .absent g → step s = .next (fetchWait s w g))
      ∧ (fetchAt s w r.pc = .late → step s = .next (fetchLate s w))
      ∧ (∀ x, fetchAt s w r.pc = .poison x → step s = .next (consumeBy s w (execMask w r) x)))
  ∧ (∀ i rest, s.agenda = i :: rest →
      let u : State := { s with agenda := rest }
      (unheard s i = true → step s = .next u)
      ∧ (unheard s i = false → queuesUp s i = true → step s = .next { u with sweolo := { s.sweolo with pending := s.sweolo.pending ++ [i] } })
      ∧ (unheard s i = false → queuesUp s i = false → step s = exec i u))
  ∧ (∀ i, s.agenda = [] → halted s = false → current s = none → nextEvent s = some i →
      (pendingRequest s ≠ some i → step s = exec i s)
      ∧ (pendingRequest s = some i → step s = exec i { s with sweolo := { s.sweolo with pending := s.sweolo.pending.drop 1 } }))
  ∧ (s.agenda = [] → halted s = false → current s = none → nextEvent s = none → step s = .next s)

/-- A step answers a next state in every state, but for a module that is stopped and is sent nothing (R363, R403, R409). -/
def Obligations.StepAnswers : Prop := ∀ s : State, (∃ t, step s = .next t) ∨ (s.agenda = [] ∧ halted s = true ∧ step s = .fault .halted)

/-- Device memory and the memories of the marks keep their canonical form (addresses rising, no byte that an unlisted address reads as) through every step (R5, R405). -/
def Obligations.StepKeepsCanonicalMemory : Prop := ∀ s t : State, Canon s → step s = .next t → Canon t

/-- The canonical form holds after reset. -/
def Obligations.ResetIsCanonical : Prop := Canon State.reset

/-- R405: what a module reset leaves. The range registers are part of a partition and the counters of a die, core, wave or partition part of these, so none is defined where its owner is not. The fields named last are the firmware's and the fences, which R402 to R404 give, and the model's own counters. -/
def Obligations.ResetState : Prop :=
  (State.reset.queues = [] ∧ (∀ k : Fin 64, (State.reset.tenants.get k).v = false) ∧ State.reset.parts = [] ∧ State.reset.remotes = []
    ∧ (∀ d c, (coreAt State.reset d c).phase = 0)
    ∧ (∀ d c, (coreAt State.reset d c).corrections = 0 ∧ (coreAt State.reset d c).emergencies = 0 ∧ ∀ x ∈ (coreAt State.reset d c).hits, x = 0)
    ∧ State.reset.waves = [] ∧ State.reset.dropped = 0 ∧ State.reset.lapsed = 0 ∧ (∀ d, clockOf State.reset d = Clock.zero)
    ∧ State.reset.sessions = [] ∧ (∀ d : Fin 4, (State.reset.dies.get d).point = 3) ∧ ∀ a, readByte State.reset.mem a = 0)
  ∧ (∀ n, (descOf State.reset n).v = false ∧ (descOf State.reset n).savei = 20 ∧ (descOf State.reset n).marki = 50)
  ∧ ∀ (s : State) (c : ResetCause) (x : BootFailures), ∃ t, exec (.moduleReset c x) s = .next t
    ∧ t = { State.reset with agenda := s.agenda, free := s.free, fresh := s.fresh, fences := t.fences, sweolo := t.sweolo
                             mem := t.mem, lineKeys := t.lineKeys, protect := t.protect }
    ∧ (failingStep s.sweolo.firmware x = none → t.mem = [] ∧ t.lineKeys = [] ∧ t.protect = State.reset.protect)

/-- R21, R23, R25, R27, R67, R68: the checks of a word, in their order; the first that fails is the trap, at the PC of the word; and what the sources of a word read. -/
def Obligations.WordChecksAndSources : Prop :=
  (∀ (i : Instr) (s : State) (w : Wave) (r : Run) (sh : Shape), current s = some (w, r) → i.shape = some sh →
  shadowOf s w.id = none →
  (∀ t, (if i.wellFormed = false then some Trap.illegalOp else if outsideWindow w sh then some .window
        else if badLatch r sh then some .illegalLatch else none) = some t →
      exec i s = .next (enterTrap s w.id (.at t (execMask w r) 0 r (r.pc.zeroExtend 64))))
  ∧ (i.wellFormed = true → (outsideWindow w sh = true ↔ ∃ k n, (sh.dst = some (.v k, n) ∨ ∃ x ∈ sh.srcs, x.r = .v k ∧ x.n = n) ∧ 32 * w.blks.toNat < 32 * w.winb.toNat + k.val + n)))
  ∧ (∀ (c : Ctx) (k : Nat) (x : Src) (l : Lane), c.sh.srcs[k]? = some x →
  (∀ n : Fin 96, x.r = .v n → c.x k l = spGet (laneOf c.w l).regs (32 * c.w.winb.toNat + n.val)
      ∧ (n.val + 1 < 96 → c.pair k l = spGet (laneOf c.w l).regs (32 * c.w.winb.toNat + n.val + 1) ++ spGet (laneOf c.w l).regs (32 * c.w.winb.toNat + n.val)))
  ∧ (∀ (n : Fin 16) g, x.r = .g n → findGroup c.s c.w.group = some g → shadowOf c.s c.w.id = none → c.x k l = g.g.get n)
  ∧ (∀ (n : Fin 8) v, x.r = .b n → c.r.latches[n.val]? = some (some v) → c.x k l = if c.r.exec.has l then v.get l else 0)
  ∧ (predOf c.w l 7 = true ∧ ∀ p : Pred, p ≠ 7 → predOf c.w l p = (laneOf c.w l).preds.getLsbD p.val))

/-- R16, R25: after a completed word every other wave, and of its own wave every lane that did not execute, is as the operation left it, with its fresh grants settled (R150); the lanes that executed go on by 4, or where the operation sends them; the run ends after a word with E set, one whose kind ends it, the 24th, and one that parked a lane; else it goes on, and its value is in latch b1. -/
def Obligations.CompletionFrame : Prop := ∀ (c : Ctx) (d : Done) (v : Wave) (k : Lane),
  v.stepping = none → findWave d.s c.w.id = some v → (laneOf v k).state ≠ .exited →
  let t := finish c (.done d)
  let behind (l : Lane) : Bool := (d.adv ||| skipMask c.w c.r).has l
  (∀ j, j ≠ c.w.id → findWave t j = findWave d.s j)
  ∧ t = { d.s with waves := t.waves, cur := t.cur, fresh := t.fresh, stops := t.stops }
  ∧ ∃ u, findWave t c.w.id = some u ∧ u.queues = v.queues ∧ u.pend = v.pend ∧ u.counters.retired = v.counters.retired + 1
    ∧ u.stepping = none
    ∧ (∀ l, behind l = false → laneOf u l = settled (laneOf v l))
    ∧ (∀ l, behind l = true → (laneOf u l).regs = (laneOf v l).regs ∧ (laneOf u l).preds = (laneOf v l).preds
        ∧ (laneOf u l).nflg = (laneOf v l).nflg ∧ (laneOf u l).state = (laneOf v l).state
        ∧ (laneOf u l).pc = if d.adv.has l then (d.goes l).getD ((laneOf v l).pc + 4) else (laneOf v l).pc + 4)
    ∧ (if c.sh.e || d.ends || decide (24 ≤ c.r.count + 1) then u.run = none
       else if goneOf v c.r = 0 then ∃ r, u.run = some r ∧ r.pc = c.r.pc + 4 ∧ r.count = c.r.count + 1 ∧ r.exec = c.r.exec ∧ r.latches.head? = some d.vals
       else u.run = none)

/-- R223, R224: the handler is entered: the record is written, the lanes of the trap mask start in the handler one level deeper, every other lane is exited in it, and what the trap must not change is unchanged; without a handler, or in one, the launch is faulted. -/
def Obligations.TrapEntry : Prop := ∀ (s : State) (w : Wave) (x : TrapInfo) (ia : Nat), findWave s w.id = some w → w.stepping = none →
  gangsOf s w.group w.index = [] → recordPlace s w = some ia →
  (w.handler ≠ 0 → w.h = false → (w.spn = true → w.ctx.isSome) → (∀ l, x.mask.has l = true → (laneOf w l).depth ≠ 4095) →
      let t := enterTrap s w.id x
      (∀ g, pageOf s ia = some g → ia % 64 = 0 → keyHere s g (physIn g ia) = true →
          t.mem = writeBytes s.mem (physIn g ia) (bytesOf (faultRecord w x) 64))
        ∧ (∀ k, k ≠ w.id → findWave t k = findWave s k) ∧ t.groups = s.groups
        ∧ ∃ v y, findWave t w.id = some v ∧ v.h = true ∧ v.run = none ∧ v.aside = some y ∧ y.stand = x.stand ∧ y.lanes = x.lanes ∧ y.pc = x.pc
          ∧ v.winb = w.winb ∧ v.blks = w.blks ∧ v.queues = w.queues
          ∧ ∀ l, y.pcs.get l = (laneOf w l).pc ∧ y.states.get l = (laneOf w l).state
            ∧ (laneOf v l).regs = (laneOf w l).regs ∧ (laneOf v l).preds = (laneOf w l).preds ∧ (laneOf v l).nflg = (laneOf w l).nflg
            ∧ (laneOf v l).held = (laneOf w l).held
            ∧ if x.mask.has l then (laneOf v l).pc = w.handler.extractLsb' 0 48 ∧ (laneOf v l).state = .live
                ∧ (laneOf v l).depth = (laneOf w l).depth + 1 ∧ (laneOf v l).trapLevel = some ((laneOf w l).depth + 1)
              else (laneOf v l).pc = exitedPc ∧ (laneOf v l).state = .exited ∧ (laneOf v l).depth = (laneOf w l).depth)
  ∧ (∀ l, findLaunch s w.launch = some l → l.state = .running →
      (w.handler = 0 → ∀ y, findLaunch (enterTrap s w.id x) w.launch = some y → y.state = .faulted x.trap)
      ∧ (w.handler ≠ 0 → w.h = true → ∀ y, findLaunch (enterTrap s w.id x) w.launch = some y → y.state = .faulted .double))
end

