-- ==== Sys2Proof/Laws/Memory.lean ====
section
/-! SUPPORT. Sparse maps and memories: a read after a write, and the canonical form kept by every operation (R5). -/
namespace Sys2Proof.Machine

/-! ### The canonical form -/

theorem spWfFrom_mono {w : Nat} {m : Sparse w} {lo lo' : Nat} (h : lo' ≤ lo) (hm : spWfFrom lo m = true) :
    spWfFrom lo' m = true := by
  cases m with
  | nil => rfl
  | cons c m =>
    obtain ⟨a, v⟩ := c
    simp only [spWfFrom, Bool.and_eq_true, decide_eq_true_eq] at hm ⊢
    exact ⟨⟨by omega, hm.1.2⟩, hm.2⟩

theorem spWfFrom_filter {w : Nat} (p : Nat × BitVec w → Bool) (m : Sparse w) (lo : Nat) (hm : spWfFrom lo m = true) :
    spWfFrom lo (m.filter p) = true := by
  induction m generalizing lo with
  | nil => rfl
  | cons c m ih =>
    obtain ⟨a, v⟩ := c
    simp only [spWfFrom, Bool.and_eq_true, decide_eq_true_eq] at hm
    rw [List.filter_cons]
    split
    · simp only [spWfFrom, Bool.and_eq_true, decide_eq_true_eq]
      exact ⟨hm.1, ih _ hm.2⟩
    · exact spWfFrom_mono (by omega) (ih _ hm.2)

theorem spWfFrom_spInsert {w : Nat} (m : Sparse w) (lo k : Nat) (v : BitVec w) (hk : lo ≤ k) (hv : v ≠ 0)
    (hn : ∀ c ∈ m, c.1 ≠ k) (hm : spWfFrom lo m = true) : spWfFrom lo (spInsert k v m) = true := by
  induction m generalizing lo with
  | nil => simpa [spInsert, spWfFrom, hk] using hv
  | cons c m ih =>
    obtain ⟨a, x⟩ := c
    have ha : a ≠ k := hn (a, x) (List.mem_cons_self ..)
    simp only [spWfFrom, Bool.and_eq_true, decide_eq_true_eq] at hm
    unfold spInsert
    split
    · simp only [spWfFrom, Bool.and_eq_true, decide_eq_true_eq]
      exact ⟨⟨hk, by simpa using hv⟩, ⟨by omega, hm.1.2⟩, hm.2⟩
    · simp only [spWfFrom, Bool.and_eq_true, decide_eq_true_eq]
      exact ⟨hm.1, ih (a + 1) (by omega) (fun d hd => hn d (List.mem_cons_of_mem _ hd)) hm.2⟩

theorem spWfFrom_spSet {w : Nat} (m : Sparse w) (lo k : Nat) (v : BitVec w) (hk : lo ≤ k) (hm : spWfFrom lo m = true) :
    spWfFrom lo (spSet m k v) = true := by
  unfold spSet
  split
  · exact spWfFrom_filter _ m lo hm
  · rename_i hv
    exact spWfFrom_spInsert _ lo k v hk hv (fun c hc => by simpa using (List.mem_filter.1 hc).2) (spWfFrom_filter _ m lo hm)

@[simp] theorem memWf_nil : memWf [] = true := rfl

theorem memWf_writeByte {m : Memory} (h : memWf m = true) (a : Nat) (b : Byte) : memWf (writeByte m a b) = true :=
  spWfFrom_spSet m 0 a b (Nat.zero_le a) h

theorem memWf_writeBytes {m : Memory} (h : memWf m = true) (a : Nat) (bs : List Byte) : memWf (writeBytes m a bs) = true := by
  induction bs generalizing m a with
  | nil => exact h
  | cons b bs ih => exact ih (memWf_writeByte h a b) (a + 1)

theorem memWf_writeN {m : Memory} (h : memWf m = true) (a n x : Nat) : memWf (writeN m a n x) = true :=
  memWf_writeBytes h a _

theorem memWf_filter {m : Memory} (h : memWf m = true) (p : Host.Cell → Bool) : memWf (m.filter p) = true :=
  spWfFrom_filter p m 0 h

theorem memWf_zeroBytes {m : Memory} (h : memWf m = true) (lo n : Nat) : memWf (zeroBytes m lo n) = true := memWf_filter h _

/-! ### Reading back -/

theorem spGet_spInsert {w : Nat} (m : Sparse w) (k j : Nat) (v : BitVec w) (hn : ∀ c ∈ m, c.1 ≠ k) :
    spGet (spInsert k v m) j = if j = k then v else spGet m j := by
  induction m with
  | nil => simp [spInsert, spGet]
  | cons c m ih =>
    obtain ⟨a, x⟩ := c
    have ha : a ≠ k := hn (a, x) (List.mem_cons_self ..)
    have := ih fun d hd => hn d (List.mem_cons_of_mem _ hd)
    unfold spInsert
    split
    · simp [spGet]
    · simp only [spGet, this]
      by_cases hj : j = a
      · simp [hj, ha]
      · simp [hj]

theorem spGet_filter {w : Nat} (m : Sparse w) (k j : Nat) :
    spGet (m.filter fun c => c.1 ≠ k) j = if j = k then 0 else spGet m j := by
  induction m with
  | nil => simp [spGet]
  | cons c m ih =>
    obtain ⟨a, x⟩ := c
    by_cases ha : a = k
    · subst ha
      rw [List.filter_cons_of_neg (by simp), ih]
      by_cases hj : j = a <;> simp [spGet, hj]
    · rw [List.filter_cons_of_pos (by simpa using ha)]
      simp only [spGet, ih]
      by_cases hj : j = a
      · simp [hj, ha]
      · simp [hj]

/-- A read after a write: the value written at its key, and what was there at every other. -/
@[simp] theorem spGet_spSet {w : Nat} (m : Sparse w) (k j : Nat) (v : BitVec w) :
    spGet (spSet m k v) j = if j = k then v else spGet m j := by
  unfold spSet
  split
  · rename_i hv
    rw [spGet_filter, hv]
  · rw [spGet_spInsert _ _ _ _ (fun c hc => by simpa using (List.mem_filter.1 hc).2), spGet_filter]
    by_cases hj : j = k <;> simp [hj]

theorem readByte_writeByte (m : Memory) (a x : Nat) (b : Byte) :
    readByte (writeByte m a b) x = if x = a then b else readByte m x := spGet_spSet m a x b

/-- A write leaves every byte outside it alone, and a byte inside it reads as written. -/
theorem readByte_writeBytes (m : Memory) (a x : Nat) (bs : List Byte) :
    readByte (writeBytes m a bs) x = if a ≤ x ∧ x < a + bs.length then (bs[x - a]?).getD 0 else readByte m x := by
  induction bs generalizing m a with
  | nil => simp [writeBytes, show ¬ (a ≤ x ∧ x < a) by omega]
  | cons b bs ih =>
    rw [writeBytes, ih, readByte_writeByte]
    by_cases h1 : a + 1 ≤ x ∧ x < a + 1 + bs.length
    · rw [if_pos h1, if_pos (by simp; omega), show x - a = x - (a + 1) + 1 by omega, List.getElem?_cons_succ]
    · rw [if_neg h1]
      by_cases h2 : x = a
      · subst h2; simp
      · rw [if_neg h2, if_neg (by simp; omega)]

end Sys2Proof.Machine
end

