-- ==== Sys2Proof/Laws/State.lean ====
section
/-! SUPPORT. What each update of the state leaves: one lemma per field that the update does not name. -/
namespace Sys2Proof.Machine

/-! ### modWave -/

theorem modWave_waves (s : State) (n : Nat) (f : Wave → Wave) : (modWave s n f).waves = s.waves.map fun w => if w.id = n then f w else w := rfl
@[simp] theorem modWave_agenda (s : State) (n : Nat) (f : Wave → Wave) : (modWave s n f).agenda = s.agenda := rfl
@[simp] theorem modWave_cur (s : State) (n : Nat) (f : Wave → Wave) : (modWave s n f).cur = s.cur := rfl
@[simp] theorem modWave_free (s : State) (n : Nat) (f : Wave → Wave) : (modWave s n f).free = s.free := rfl
@[simp] theorem modWave_fresh (s : State) (n : Nat) (f : Wave → Wave) : (modWave s n f).fresh = s.fresh := rfl
@[simp] theorem modWave_groups (s : State) (n : Nat) (f : Wave → Wave) : (modWave s n f).groups = s.groups := rfl
@[simp] theorem modWave_shadows (s : State) (n : Nat) (f : Wave → Wave) : (modWave s n f).shadows = s.shadows := rfl
@[simp] theorem modWave_mem (s : State) (n : Nat) (f : Wave → Wave) : (modWave s n f).mem = s.mem := rfl
@[simp] theorem modWave_protectNext (s : State) (n : Nat) (f : Wave → Wave) : (modWave s n f).protectNext = s.protectNext := rfl
@[simp] theorem modWave_protect (s : State) (n : Nat) (f : Wave → Wave) : (modWave s n f).protect = s.protect := rfl
@[simp] theorem modWave_lineKeys (s : State) (n : Nat) (f : Wave → Wave) : (modWave s n f).lineKeys = s.lineKeys := rfl
@[simp] theorem modWave_poisonMem (s : State) (n : Nat) (f : Wave → Wave) : (modWave s n f).poisonMem = s.poisonMem := rfl
@[simp] theorem modWave_poisonMeta (s : State) (n : Nat) (f : Wave → Wave) : (modWave s n f).poisonMeta = s.poisonMeta := rfl
@[simp] theorem modWave_poisonReg (s : State) (n : Nat) (f : Wave → Wave) : (modWave s n f).poisonReg = s.poisonReg := rfl
@[simp] theorem modWave_poisonBuf (s : State) (n : Nat) (f : Wave → Wave) : (modWave s n f).poisonBuf = s.poisonBuf := rfl
@[simp] theorem modWave_poisonCtx (s : State) (n : Nat) (f : Wave → Wave) : (modWave s n f).poisonCtx = s.poisonCtx := rfl
@[simp] theorem modWave_corrected (s : State) (n : Nat) (f : Wave → Wave) : (modWave s n f).corrected = s.corrected := rfl
@[simp] theorem modWave_flights (s : State) (n : Nat) (f : Wave → Wave) : (modWave s n f).flights = s.flights := rfl
@[simp] theorem modWave_l1 (s : State) (n : Nat) (f : Wave → Wave) : (modWave s n f).l1 = s.l1 := rfl
@[simp] theorem modWave_llc (s : State) (n : Nat) (f : Wave → Wave) : (modWave s n f).llc = s.llc := rfl
@[simp] theorem modWave_pac (s : State) (n : Nat) (f : Wave → Wave) : (modWave s n f).pac = s.pac := rfl
@[simp] theorem modWave_fills (s : State) (n : Nat) (f : Wave → Wave) : (modWave s n f).fills = s.fills := rfl
@[simp] theorem modWave_ranges (s : State) (n : Nat) (f : Wave → Wave) : (modWave s n f).ranges = s.ranges := rfl
@[simp] theorem modWave_requests (s : State) (n : Nat) (f : Wave → Wave) : (modWave s n f).requests = s.requests := rfl
@[simp] theorem modWave_grants (s : State) (n : Nat) (f : Wave → Wave) : (modWave s n f).grants = s.grants := rfl
@[simp] theorem modWave_campion (s : State) (n : Nat) (f : Wave → Wave) : (modWave s n f).campion = s.campion := rfl
@[simp] theorem modWave_waiters (s : State) (n : Nat) (f : Wave → Wave) : (modWave s n f).waiters = s.waiters := rfl
@[simp] theorem modWave_wakes (s : State) (n : Nat) (f : Wave → Wave) : (modWave s n f).wakes = s.wakes := rfl
@[simp] theorem modWave_launches (s : State) (n : Nat) (f : Wave → Wave) : (modWave s n f).launches = s.launches := rfl
@[simp] theorem modWave_queues (s : State) (n : Nat) (f : Wave → Wave) : (modWave s n f).queues = s.queues := rfl
@[simp] theorem modWave_cores (s : State) (n : Nat) (f : Wave → Wave) : (modWave s n f).cores = s.cores := rfl
@[simp] theorem modWave_dies (s : State) (n : Nat) (f : Wave → Wave) : (modWave s n f).dies = s.dies := rfl
@[simp] theorem modWave_parts (s : State) (n : Nat) (f : Wave → Wave) : (modWave s n f).parts = s.parts := rfl
@[simp] theorem modWave_images (s : State) (n : Nat) (f : Wave → Wave) : (modWave s n f).images = s.images := rfl
@[simp] theorem modWave_tenants (s : State) (n : Nat) (f : Wave → Wave) : (modWave s n f).tenants = s.tenants := rfl
@[simp] theorem modWave_remotes (s : State) (n : Nat) (f : Wave → Wave) : (modWave s n f).remotes = s.remotes := rfl
@[simp] theorem modWave_windows (s : State) (n : Nat) (f : Wave → Wave) : (modWave s n f).windows = s.windows := rfl
@[simp] theorem modWave_quotas (s : State) (n : Nat) (f : Wave → Wave) : (modWave s n f).quotas = s.quotas := rfl
@[simp] theorem modWave_loans (s : State) (n : Nat) (f : Wave → Wave) : (modWave s n f).loans = s.loans := rfl
@[simp] theorem modWave_stopped (s : State) (n : Nat) (f : Wave → Wave) : (modWave s n f).stopped = s.stopped := rfl
@[simp] theorem modWave_stops (s : State) (n : Nat) (f : Wave → Wave) : (modWave s n f).stops = s.stops := rfl
@[simp] theorem modWave_sessions (s : State) (n : Nat) (f : Wave → Wave) : (modWave s n f).sessions = s.sessions := rfl
@[simp] theorem modWave_fences (s : State) (n : Nat) (f : Wave → Wave) : (modWave s n f).fences = s.fences := rfl
@[simp] theorem modWave_keys (s : State) (n : Nat) (f : Wave → Wave) : (modWave s n f).keys = s.keys := rfl
@[simp] theorem modWave_ioDead (s : State) (n : Nat) (f : Wave → Wave) : (modWave s n f).ioDead = s.ioDead := rfl
@[simp] theorem modWave_dropped (s : State) (n : Nat) (f : Wave → Wave) : (modWave s n f).dropped = s.dropped := rfl
@[simp] theorem modWave_lapsed (s : State) (n : Nat) (f : Wave → Wave) : (modWave s n f).lapsed = s.lapsed := rfl
@[simp] theorem modWave_sweolo (s : State) (n : Nat) (f : Wave → Wave) : (modWave s n f).sweolo = s.sweolo := rfl
@[simp] theorem modWave_sharers (s : State) (n : Nat) (f : Wave → Wave) : (modWave s n f).sharers = s.sharers := rfl
@[simp] theorem modWave_idle (s : State) (n : Nat) (f : Wave → Wave) : (modWave s n f).idle = s.idle := rfl
@[simp] theorem modWave_frames (s : State) (n : Nat) (f : Wave → Wave) : (modWave s n f).frames = s.frames := rfl

/-! ### modGroup -/

theorem modGroup_groups (s : State) (n : Nat) (f : Group → Group) : (modGroup s n f).groups = s.groups.map fun g => if g.id = n then f g else g := rfl
@[simp] theorem modGroup_agenda (s : State) (n : Nat) (f : Group → Group) : (modGroup s n f).agenda = s.agenda := rfl
@[simp] theorem modGroup_cur (s : State) (n : Nat) (f : Group → Group) : (modGroup s n f).cur = s.cur := rfl
@[simp] theorem modGroup_free (s : State) (n : Nat) (f : Group → Group) : (modGroup s n f).free = s.free := rfl
@[simp] theorem modGroup_fresh (s : State) (n : Nat) (f : Group → Group) : (modGroup s n f).fresh = s.fresh := rfl
@[simp] theorem modGroup_waves (s : State) (n : Nat) (f : Group → Group) : (modGroup s n f).waves = s.waves := rfl
@[simp] theorem modGroup_shadows (s : State) (n : Nat) (f : Group → Group) : (modGroup s n f).shadows = s.shadows := rfl
@[simp] theorem modGroup_mem (s : State) (n : Nat) (f : Group → Group) : (modGroup s n f).mem = s.mem := rfl
@[simp] theorem modGroup_protectNext (s : State) (n : Nat) (f : Group → Group) : (modGroup s n f).protectNext = s.protectNext := rfl
@[simp] theorem modGroup_protect (s : State) (n : Nat) (f : Group → Group) : (modGroup s n f).protect = s.protect := rfl
@[simp] theorem modGroup_lineKeys (s : State) (n : Nat) (f : Group → Group) : (modGroup s n f).lineKeys = s.lineKeys := rfl
@[simp] theorem modGroup_poisonMem (s : State) (n : Nat) (f : Group → Group) : (modGroup s n f).poisonMem = s.poisonMem := rfl
@[simp] theorem modGroup_poisonMeta (s : State) (n : Nat) (f : Group → Group) : (modGroup s n f).poisonMeta = s.poisonMeta := rfl
@[simp] theorem modGroup_poisonReg (s : State) (n : Nat) (f : Group → Group) : (modGroup s n f).poisonReg = s.poisonReg := rfl
@[simp] theorem modGroup_poisonBuf (s : State) (n : Nat) (f : Group → Group) : (modGroup s n f).poisonBuf = s.poisonBuf := rfl
@[simp] theorem modGroup_poisonCtx (s : State) (n : Nat) (f : Group → Group) : (modGroup s n f).poisonCtx = s.poisonCtx := rfl
@[simp] theorem modGroup_corrected (s : State) (n : Nat) (f : Group → Group) : (modGroup s n f).corrected = s.corrected := rfl
@[simp] theorem modGroup_flights (s : State) (n : Nat) (f : Group → Group) : (modGroup s n f).flights = s.flights := rfl
@[simp] theorem modGroup_l1 (s : State) (n : Nat) (f : Group → Group) : (modGroup s n f).l1 = s.l1 := rfl
@[simp] theorem modGroup_llc (s : State) (n : Nat) (f : Group → Group) : (modGroup s n f).llc = s.llc := rfl
@[simp] theorem modGroup_pac (s : State) (n : Nat) (f : Group → Group) : (modGroup s n f).pac = s.pac := rfl
@[simp] theorem modGroup_fills (s : State) (n : Nat) (f : Group → Group) : (modGroup s n f).fills = s.fills := rfl
@[simp] theorem modGroup_ranges (s : State) (n : Nat) (f : Group → Group) : (modGroup s n f).ranges = s.ranges := rfl
@[simp] theorem modGroup_requests (s : State) (n : Nat) (f : Group → Group) : (modGroup s n f).requests = s.requests := rfl
@[simp] theorem modGroup_grants (s : State) (n : Nat) (f : Group → Group) : (modGroup s n f).grants = s.grants := rfl
@[simp] theorem modGroup_campion (s : State) (n : Nat) (f : Group → Group) : (modGroup s n f).campion = s.campion := rfl
@[simp] theorem modGroup_waiters (s : State) (n : Nat) (f : Group → Group) : (modGroup s n f).waiters = s.waiters := rfl
@[simp] theorem modGroup_wakes (s : State) (n : Nat) (f : Group → Group) : (modGroup s n f).wakes = s.wakes := rfl
@[simp] theorem modGroup_launches (s : State) (n : Nat) (f : Group → Group) : (modGroup s n f).launches = s.launches := rfl
@[simp] theorem modGroup_queues (s : State) (n : Nat) (f : Group → Group) : (modGroup s n f).queues = s.queues := rfl
@[simp] theorem modGroup_cores (s : State) (n : Nat) (f : Group → Group) : (modGroup s n f).cores = s.cores := rfl
@[simp] theorem modGroup_dies (s : State) (n : Nat) (f : Group → Group) : (modGroup s n f).dies = s.dies := rfl
@[simp] theorem modGroup_parts (s : State) (n : Nat) (f : Group → Group) : (modGroup s n f).parts = s.parts := rfl
@[simp] theorem modGroup_images (s : State) (n : Nat) (f : Group → Group) : (modGroup s n f).images = s.images := rfl
@[simp] theorem modGroup_tenants (s : State) (n : Nat) (f : Group → Group) : (modGroup s n f).tenants = s.tenants := rfl
@[simp] theorem modGroup_remotes (s : State) (n : Nat) (f : Group → Group) : (modGroup s n f).remotes = s.remotes := rfl
@[simp] theorem modGroup_windows (s : State) (n : Nat) (f : Group → Group) : (modGroup s n f).windows = s.windows := rfl
@[simp] theorem modGroup_quotas (s : State) (n : Nat) (f : Group → Group) : (modGroup s n f).quotas = s.quotas := rfl
@[simp] theorem modGroup_loans (s : State) (n : Nat) (f : Group → Group) : (modGroup s n f).loans = s.loans := rfl
@[simp] theorem modGroup_stopped (s : State) (n : Nat) (f : Group → Group) : (modGroup s n f).stopped = s.stopped := rfl
@[simp] theorem modGroup_stops (s : State) (n : Nat) (f : Group → Group) : (modGroup s n f).stops = s.stops := rfl
@[simp] theorem modGroup_sessions (s : State) (n : Nat) (f : Group → Group) : (modGroup s n f).sessions = s.sessions := rfl
@[simp] theorem modGroup_fences (s : State) (n : Nat) (f : Group → Group) : (modGroup s n f).fences = s.fences := rfl
@[simp] theorem modGroup_keys (s : State) (n : Nat) (f : Group → Group) : (modGroup s n f).keys = s.keys := rfl
@[simp] theorem modGroup_ioDead (s : State) (n : Nat) (f : Group → Group) : (modGroup s n f).ioDead = s.ioDead := rfl
@[simp] theorem modGroup_dropped (s : State) (n : Nat) (f : Group → Group) : (modGroup s n f).dropped = s.dropped := rfl
@[simp] theorem modGroup_lapsed (s : State) (n : Nat) (f : Group → Group) : (modGroup s n f).lapsed = s.lapsed := rfl
@[simp] theorem modGroup_sweolo (s : State) (n : Nat) (f : Group → Group) : (modGroup s n f).sweolo = s.sweolo := rfl
@[simp] theorem modGroup_sharers (s : State) (n : Nat) (f : Group → Group) : (modGroup s n f).sharers = s.sharers := rfl
@[simp] theorem modGroup_idle (s : State) (n : Nat) (f : Group → Group) : (modGroup s n f).idle = s.idle := rfl
@[simp] theorem modGroup_frames (s : State) (n : Nat) (f : Group → Group) : (modGroup s n f).frames = s.frames := rfl

/-! ### modLaunch -/

theorem modLaunch_launches (s : State) (n : DWord) (f : Launch → Launch) : (modLaunch s n f).launches = s.launches.map fun l => if l.id = n then f l else l := rfl
@[simp] theorem modLaunch_agenda (s : State) (n : DWord) (f : Launch → Launch) : (modLaunch s n f).agenda = s.agenda := rfl
@[simp] theorem modLaunch_cur (s : State) (n : DWord) (f : Launch → Launch) : (modLaunch s n f).cur = s.cur := rfl
@[simp] theorem modLaunch_free (s : State) (n : DWord) (f : Launch → Launch) : (modLaunch s n f).free = s.free := rfl
@[simp] theorem modLaunch_fresh (s : State) (n : DWord) (f : Launch → Launch) : (modLaunch s n f).fresh = s.fresh := rfl
@[simp] theorem modLaunch_waves (s : State) (n : DWord) (f : Launch → Launch) : (modLaunch s n f).waves = s.waves := rfl
@[simp] theorem modLaunch_groups (s : State) (n : DWord) (f : Launch → Launch) : (modLaunch s n f).groups = s.groups := rfl
@[simp] theorem modLaunch_shadows (s : State) (n : DWord) (f : Launch → Launch) : (modLaunch s n f).shadows = s.shadows := rfl
@[simp] theorem modLaunch_mem (s : State) (n : DWord) (f : Launch → Launch) : (modLaunch s n f).mem = s.mem := rfl
@[simp] theorem modLaunch_protectNext (s : State) (n : DWord) (f : Launch → Launch) : (modLaunch s n f).protectNext = s.protectNext := rfl
@[simp] theorem modLaunch_protect (s : State) (n : DWord) (f : Launch → Launch) : (modLaunch s n f).protect = s.protect := rfl
@[simp] theorem modLaunch_lineKeys (s : State) (n : DWord) (f : Launch → Launch) : (modLaunch s n f).lineKeys = s.lineKeys := rfl
@[simp] theorem modLaunch_poisonMem (s : State) (n : DWord) (f : Launch → Launch) : (modLaunch s n f).poisonMem = s.poisonMem := rfl
@[simp] theorem modLaunch_poisonMeta (s : State) (n : DWord) (f : Launch → Launch) : (modLaunch s n f).poisonMeta = s.poisonMeta := rfl
@[simp] theorem modLaunch_poisonReg (s : State) (n : DWord) (f : Launch → Launch) : (modLaunch s n f).poisonReg = s.poisonReg := rfl
@[simp] theorem modLaunch_poisonBuf (s : State) (n : DWord) (f : Launch → Launch) : (modLaunch s n f).poisonBuf = s.poisonBuf := rfl
@[simp] theorem modLaunch_poisonCtx (s : State) (n : DWord) (f : Launch → Launch) : (modLaunch s n f).poisonCtx = s.poisonCtx := rfl
@[simp] theorem modLaunch_corrected (s : State) (n : DWord) (f : Launch → Launch) : (modLaunch s n f).corrected = s.corrected := rfl
@[simp] theorem modLaunch_flights (s : State) (n : DWord) (f : Launch → Launch) : (modLaunch s n f).flights = s.flights := rfl
@[simp] theorem modLaunch_l1 (s : State) (n : DWord) (f : Launch → Launch) : (modLaunch s n f).l1 = s.l1 := rfl
@[simp] theorem modLaunch_llc (s : State) (n : DWord) (f : Launch → Launch) : (modLaunch s n f).llc = s.llc := rfl
@[simp] theorem modLaunch_pac (s : State) (n : DWord) (f : Launch → Launch) : (modLaunch s n f).pac = s.pac := rfl
@[simp] theorem modLaunch_fills (s : State) (n : DWord) (f : Launch → Launch) : (modLaunch s n f).fills = s.fills := rfl
@[simp] theorem modLaunch_ranges (s : State) (n : DWord) (f : Launch → Launch) : (modLaunch s n f).ranges = s.ranges := rfl
@[simp] theorem modLaunch_requests (s : State) (n : DWord) (f : Launch → Launch) : (modLaunch s n f).requests = s.requests := rfl
@[simp] theorem modLaunch_grants (s : State) (n : DWord) (f : Launch → Launch) : (modLaunch s n f).grants = s.grants := rfl
@[simp] theorem modLaunch_campion (s : State) (n : DWord) (f : Launch → Launch) : (modLaunch s n f).campion = s.campion := rfl
@[simp] theorem modLaunch_waiters (s : State) (n : DWord) (f : Launch → Launch) : (modLaunch s n f).waiters = s.waiters := rfl
@[simp] theorem modLaunch_wakes (s : State) (n : DWord) (f : Launch → Launch) : (modLaunch s n f).wakes = s.wakes := rfl
@[simp] theorem modLaunch_queues (s : State) (n : DWord) (f : Launch → Launch) : (modLaunch s n f).queues = s.queues := rfl
@[simp] theorem modLaunch_cores (s : State) (n : DWord) (f : Launch → Launch) : (modLaunch s n f).cores = s.cores := rfl
@[simp] theorem modLaunch_dies (s : State) (n : DWord) (f : Launch → Launch) : (modLaunch s n f).dies = s.dies := rfl
@[simp] theorem modLaunch_parts (s : State) (n : DWord) (f : Launch → Launch) : (modLaunch s n f).parts = s.parts := rfl
@[simp] theorem modLaunch_images (s : State) (n : DWord) (f : Launch → Launch) : (modLaunch s n f).images = s.images := rfl
@[simp] theorem modLaunch_tenants (s : State) (n : DWord) (f : Launch → Launch) : (modLaunch s n f).tenants = s.tenants := rfl
@[simp] theorem modLaunch_remotes (s : State) (n : DWord) (f : Launch → Launch) : (modLaunch s n f).remotes = s.remotes := rfl
@[simp] theorem modLaunch_windows (s : State) (n : DWord) (f : Launch → Launch) : (modLaunch s n f).windows = s.windows := rfl
@[simp] theorem modLaunch_quotas (s : State) (n : DWord) (f : Launch → Launch) : (modLaunch s n f).quotas = s.quotas := rfl
@[simp] theorem modLaunch_loans (s : State) (n : DWord) (f : Launch → Launch) : (modLaunch s n f).loans = s.loans := rfl
@[simp] theorem modLaunch_stopped (s : State) (n : DWord) (f : Launch → Launch) : (modLaunch s n f).stopped = s.stopped := rfl
@[simp] theorem modLaunch_stops (s : State) (n : DWord) (f : Launch → Launch) : (modLaunch s n f).stops = s.stops := rfl
@[simp] theorem modLaunch_sessions (s : State) (n : DWord) (f : Launch → Launch) : (modLaunch s n f).sessions = s.sessions := rfl
@[simp] theorem modLaunch_fences (s : State) (n : DWord) (f : Launch → Launch) : (modLaunch s n f).fences = s.fences := rfl
@[simp] theorem modLaunch_keys (s : State) (n : DWord) (f : Launch → Launch) : (modLaunch s n f).keys = s.keys := rfl
@[simp] theorem modLaunch_ioDead (s : State) (n : DWord) (f : Launch → Launch) : (modLaunch s n f).ioDead = s.ioDead := rfl
@[simp] theorem modLaunch_dropped (s : State) (n : DWord) (f : Launch → Launch) : (modLaunch s n f).dropped = s.dropped := rfl
@[simp] theorem modLaunch_lapsed (s : State) (n : DWord) (f : Launch → Launch) : (modLaunch s n f).lapsed = s.lapsed := rfl
@[simp] theorem modLaunch_sweolo (s : State) (n : DWord) (f : Launch → Launch) : (modLaunch s n f).sweolo = s.sweolo := rfl
@[simp] theorem modLaunch_sharers (s : State) (n : DWord) (f : Launch → Launch) : (modLaunch s n f).sharers = s.sharers := rfl
@[simp] theorem modLaunch_idle (s : State) (n : DWord) (f : Launch → Launch) : (modLaunch s n f).idle = s.idle := rfl
@[simp] theorem modLaunch_frames (s : State) (n : DWord) (f : Launch → Launch) : (modLaunch s n f).frames = s.frames := rfl

/-! ### modQueue -/

theorem modQueue_queues (s : State) (n : Nat) (f : Queue → Queue) : (modQueue s n f).queues = s.queues.map fun q => if q.n = n then f q else q := rfl
@[simp] theorem modQueue_agenda (s : State) (n : Nat) (f : Queue → Queue) : (modQueue s n f).agenda = s.agenda := rfl
@[simp] theorem modQueue_cur (s : State) (n : Nat) (f : Queue → Queue) : (modQueue s n f).cur = s.cur := rfl
@[simp] theorem modQueue_free (s : State) (n : Nat) (f : Queue → Queue) : (modQueue s n f).free = s.free := rfl
@[simp] theorem modQueue_fresh (s : State) (n : Nat) (f : Queue → Queue) : (modQueue s n f).fresh = s.fresh := rfl
@[simp] theorem modQueue_waves (s : State) (n : Nat) (f : Queue → Queue) : (modQueue s n f).waves = s.waves := rfl
@[simp] theorem modQueue_groups (s : State) (n : Nat) (f : Queue → Queue) : (modQueue s n f).groups = s.groups := rfl
@[simp] theorem modQueue_shadows (s : State) (n : Nat) (f : Queue → Queue) : (modQueue s n f).shadows = s.shadows := rfl
@[simp] theorem modQueue_mem (s : State) (n : Nat) (f : Queue → Queue) : (modQueue s n f).mem = s.mem := rfl
@[simp] theorem modQueue_protectNext (s : State) (n : Nat) (f : Queue → Queue) : (modQueue s n f).protectNext = s.protectNext := rfl
@[simp] theorem modQueue_protect (s : State) (n : Nat) (f : Queue → Queue) : (modQueue s n f).protect = s.protect := rfl
@[simp] theorem modQueue_lineKeys (s : State) (n : Nat) (f : Queue → Queue) : (modQueue s n f).lineKeys = s.lineKeys := rfl
@[simp] theorem modQueue_poisonMem (s : State) (n : Nat) (f : Queue → Queue) : (modQueue s n f).poisonMem = s.poisonMem := rfl
@[simp] theorem modQueue_poisonMeta (s : State) (n : Nat) (f : Queue → Queue) : (modQueue s n f).poisonMeta = s.poisonMeta := rfl
@[simp] theorem modQueue_poisonReg (s : State) (n : Nat) (f : Queue → Queue) : (modQueue s n f).poisonReg = s.poisonReg := rfl
@[simp] theorem modQueue_poisonBuf (s : State) (n : Nat) (f : Queue → Queue) : (modQueue s n f).poisonBuf = s.poisonBuf := rfl
@[simp] theorem modQueue_poisonCtx (s : State) (n : Nat) (f : Queue → Queue) : (modQueue s n f).poisonCtx = s.poisonCtx := rfl
@[simp] theorem modQueue_corrected (s : State) (n : Nat) (f : Queue → Queue) : (modQueue s n f).corrected = s.corrected := rfl
@[simp] theorem modQueue_flights (s : State) (n : Nat) (f : Queue → Queue) : (modQueue s n f).flights = s.flights := rfl
@[simp] theorem modQueue_l1 (s : State) (n : Nat) (f : Queue → Queue) : (modQueue s n f).l1 = s.l1 := rfl
@[simp] theorem modQueue_llc (s : State) (n : Nat) (f : Queue → Queue) : (modQueue s n f).llc = s.llc := rfl
@[simp] theorem modQueue_pac (s : State) (n : Nat) (f : Queue → Queue) : (modQueue s n f).pac = s.pac := rfl
@[simp] theorem modQueue_fills (s : State) (n : Nat) (f : Queue → Queue) : (modQueue s n f).fills = s.fills := rfl
@[simp] theorem modQueue_ranges (s : State) (n : Nat) (f : Queue → Queue) : (modQueue s n f).ranges = s.ranges := rfl
@[simp] theorem modQueue_requests (s : State) (n : Nat) (f : Queue → Queue) : (modQueue s n f).requests = s.requests := rfl
@[simp] theorem modQueue_grants (s : State) (n : Nat) (f : Queue → Queue) : (modQueue s n f).grants = s.grants := rfl
@[simp] theorem modQueue_campion (s : State) (n : Nat) (f : Queue → Queue) : (modQueue s n f).campion = s.campion := rfl
@[simp] theorem modQueue_waiters (s : State) (n : Nat) (f : Queue → Queue) : (modQueue s n f).waiters = s.waiters := rfl
@[simp] theorem modQueue_wakes (s : State) (n : Nat) (f : Queue → Queue) : (modQueue s n f).wakes = s.wakes := rfl
@[simp] theorem modQueue_launches (s : State) (n : Nat) (f : Queue → Queue) : (modQueue s n f).launches = s.launches := rfl
@[simp] theorem modQueue_cores (s : State) (n : Nat) (f : Queue → Queue) : (modQueue s n f).cores = s.cores := rfl
@[simp] theorem modQueue_dies (s : State) (n : Nat) (f : Queue → Queue) : (modQueue s n f).dies = s.dies := rfl
@[simp] theorem modQueue_parts (s : State) (n : Nat) (f : Queue → Queue) : (modQueue s n f).parts = s.parts := rfl
@[simp] theorem modQueue_images (s : State) (n : Nat) (f : Queue → Queue) : (modQueue s n f).images = s.images := rfl
@[simp] theorem modQueue_tenants (s : State) (n : Nat) (f : Queue → Queue) : (modQueue s n f).tenants = s.tenants := rfl
@[simp] theorem modQueue_remotes (s : State) (n : Nat) (f : Queue → Queue) : (modQueue s n f).remotes = s.remotes := rfl
@[simp] theorem modQueue_windows (s : State) (n : Nat) (f : Queue → Queue) : (modQueue s n f).windows = s.windows := rfl
@[simp] theorem modQueue_quotas (s : State) (n : Nat) (f : Queue → Queue) : (modQueue s n f).quotas = s.quotas := rfl
@[simp] theorem modQueue_loans (s : State) (n : Nat) (f : Queue → Queue) : (modQueue s n f).loans = s.loans := rfl
@[simp] theorem modQueue_stopped (s : State) (n : Nat) (f : Queue → Queue) : (modQueue s n f).stopped = s.stopped := rfl
@[simp] theorem modQueue_stops (s : State) (n : Nat) (f : Queue → Queue) : (modQueue s n f).stops = s.stops := rfl
@[simp] theorem modQueue_sessions (s : State) (n : Nat) (f : Queue → Queue) : (modQueue s n f).sessions = s.sessions := rfl
@[simp] theorem modQueue_fences (s : State) (n : Nat) (f : Queue → Queue) : (modQueue s n f).fences = s.fences := rfl
@[simp] theorem modQueue_keys (s : State) (n : Nat) (f : Queue → Queue) : (modQueue s n f).keys = s.keys := rfl
@[simp] theorem modQueue_ioDead (s : State) (n : Nat) (f : Queue → Queue) : (modQueue s n f).ioDead = s.ioDead := rfl
@[simp] theorem modQueue_dropped (s : State) (n : Nat) (f : Queue → Queue) : (modQueue s n f).dropped = s.dropped := rfl
@[simp] theorem modQueue_lapsed (s : State) (n : Nat) (f : Queue → Queue) : (modQueue s n f).lapsed = s.lapsed := rfl
@[simp] theorem modQueue_sweolo (s : State) (n : Nat) (f : Queue → Queue) : (modQueue s n f).sweolo = s.sweolo := rfl
@[simp] theorem modQueue_sharers (s : State) (n : Nat) (f : Queue → Queue) : (modQueue s n f).sharers = s.sharers := rfl
@[simp] theorem modQueue_idle (s : State) (n : Nat) (f : Queue → Queue) : (modQueue s n f).idle = s.idle := rfl
@[simp] theorem modQueue_frames (s : State) (n : Nat) (f : Queue → Queue) : (modQueue s n f).frames = s.frames := rfl

/-! ### modPart -/

theorem modPart_parts (s : State) (n : Nat) (f : Part → Part) : (modPart s n f).parts = s.parts.map fun p => if p.n = n then f p else p := rfl
@[simp] theorem modPart_agenda (s : State) (n : Nat) (f : Part → Part) : (modPart s n f).agenda = s.agenda := rfl
@[simp] theorem modPart_cur (s : State) (n : Nat) (f : Part → Part) : (modPart s n f).cur = s.cur := rfl
@[simp] theorem modPart_free (s : State) (n : Nat) (f : Part → Part) : (modPart s n f).free = s.free := rfl
@[simp] theorem modPart_fresh (s : State) (n : Nat) (f : Part → Part) : (modPart s n f).fresh = s.fresh := rfl
@[simp] theorem modPart_waves (s : State) (n : Nat) (f : Part → Part) : (modPart s n f).waves = s.waves := rfl
@[simp] theorem modPart_groups (s : State) (n : Nat) (f : Part → Part) : (modPart s n f).groups = s.groups := rfl
@[simp] theorem modPart_shadows (s : State) (n : Nat) (f : Part → Part) : (modPart s n f).shadows = s.shadows := rfl
@[simp] theorem modPart_mem (s : State) (n : Nat) (f : Part → Part) : (modPart s n f).mem = s.mem := rfl
@[simp] theorem modPart_protectNext (s : State) (n : Nat) (f : Part → Part) : (modPart s n f).protectNext = s.protectNext := rfl
@[simp] theorem modPart_protect (s : State) (n : Nat) (f : Part → Part) : (modPart s n f).protect = s.protect := rfl
@[simp] theorem modPart_lineKeys (s : State) (n : Nat) (f : Part → Part) : (modPart s n f).lineKeys = s.lineKeys := rfl
@[simp] theorem modPart_poisonMem (s : State) (n : Nat) (f : Part → Part) : (modPart s n f).poisonMem = s.poisonMem := rfl
@[simp] theorem modPart_poisonMeta (s : State) (n : Nat) (f : Part → Part) : (modPart s n f).poisonMeta = s.poisonMeta := rfl
@[simp] theorem modPart_poisonReg (s : State) (n : Nat) (f : Part → Part) : (modPart s n f).poisonReg = s.poisonReg := rfl
@[simp] theorem modPart_poisonBuf (s : State) (n : Nat) (f : Part → Part) : (modPart s n f).poisonBuf = s.poisonBuf := rfl
@[simp] theorem modPart_poisonCtx (s : State) (n : Nat) (f : Part → Part) : (modPart s n f).poisonCtx = s.poisonCtx := rfl
@[simp] theorem modPart_corrected (s : State) (n : Nat) (f : Part → Part) : (modPart s n f).corrected = s.corrected := rfl
@[simp] theorem modPart_flights (s : State) (n : Nat) (f : Part → Part) : (modPart s n f).flights = s.flights := rfl
@[simp] theorem modPart_l1 (s : State) (n : Nat) (f : Part → Part) : (modPart s n f).l1 = s.l1 := rfl
@[simp] theorem modPart_llc (s : State) (n : Nat) (f : Part → Part) : (modPart s n f).llc = s.llc := rfl
@[simp] theorem modPart_pac (s : State) (n : Nat) (f : Part → Part) : (modPart s n f).pac = s.pac := rfl
@[simp] theorem modPart_fills (s : State) (n : Nat) (f : Part → Part) : (modPart s n f).fills = s.fills := rfl
@[simp] theorem modPart_ranges (s : State) (n : Nat) (f : Part → Part) : (modPart s n f).ranges = s.ranges := rfl
@[simp] theorem modPart_requests (s : State) (n : Nat) (f : Part → Part) : (modPart s n f).requests = s.requests := rfl
@[simp] theorem modPart_grants (s : State) (n : Nat) (f : Part → Part) : (modPart s n f).grants = s.grants := rfl
@[simp] theorem modPart_campion (s : State) (n : Nat) (f : Part → Part) : (modPart s n f).campion = s.campion := rfl
@[simp] theorem modPart_waiters (s : State) (n : Nat) (f : Part → Part) : (modPart s n f).waiters = s.waiters := rfl
@[simp] theorem modPart_wakes (s : State) (n : Nat) (f : Part → Part) : (modPart s n f).wakes = s.wakes := rfl
@[simp] theorem modPart_launches (s : State) (n : Nat) (f : Part → Part) : (modPart s n f).launches = s.launches := rfl
@[simp] theorem modPart_queues (s : State) (n : Nat) (f : Part → Part) : (modPart s n f).queues = s.queues := rfl
@[simp] theorem modPart_cores (s : State) (n : Nat) (f : Part → Part) : (modPart s n f).cores = s.cores := rfl
@[simp] theorem modPart_dies (s : State) (n : Nat) (f : Part → Part) : (modPart s n f).dies = s.dies := rfl
@[simp] theorem modPart_images (s : State) (n : Nat) (f : Part → Part) : (modPart s n f).images = s.images := rfl
@[simp] theorem modPart_tenants (s : State) (n : Nat) (f : Part → Part) : (modPart s n f).tenants = s.tenants := rfl
@[simp] theorem modPart_remotes (s : State) (n : Nat) (f : Part → Part) : (modPart s n f).remotes = s.remotes := rfl
@[simp] theorem modPart_windows (s : State) (n : Nat) (f : Part → Part) : (modPart s n f).windows = s.windows := rfl
@[simp] theorem modPart_quotas (s : State) (n : Nat) (f : Part → Part) : (modPart s n f).quotas = s.quotas := rfl
@[simp] theorem modPart_loans (s : State) (n : Nat) (f : Part → Part) : (modPart s n f).loans = s.loans := rfl
@[simp] theorem modPart_stopped (s : State) (n : Nat) (f : Part → Part) : (modPart s n f).stopped = s.stopped := rfl
@[simp] theorem modPart_stops (s : State) (n : Nat) (f : Part → Part) : (modPart s n f).stops = s.stops := rfl
@[simp] theorem modPart_sessions (s : State) (n : Nat) (f : Part → Part) : (modPart s n f).sessions = s.sessions := rfl
@[simp] theorem modPart_fences (s : State) (n : Nat) (f : Part → Part) : (modPart s n f).fences = s.fences := rfl
@[simp] theorem modPart_keys (s : State) (n : Nat) (f : Part → Part) : (modPart s n f).keys = s.keys := rfl
@[simp] theorem modPart_ioDead (s : State) (n : Nat) (f : Part → Part) : (modPart s n f).ioDead = s.ioDead := rfl
@[simp] theorem modPart_dropped (s : State) (n : Nat) (f : Part → Part) : (modPart s n f).dropped = s.dropped := rfl
@[simp] theorem modPart_lapsed (s : State) (n : Nat) (f : Part → Part) : (modPart s n f).lapsed = s.lapsed := rfl
@[simp] theorem modPart_sweolo (s : State) (n : Nat) (f : Part → Part) : (modPart s n f).sweolo = s.sweolo := rfl
@[simp] theorem modPart_sharers (s : State) (n : Nat) (f : Part → Part) : (modPart s n f).sharers = s.sharers := rfl
@[simp] theorem modPart_idle (s : State) (n : Nat) (f : Part → Part) : (modPart s n f).idle = s.idle := rfl
@[simp] theorem modPart_frames (s : State) (n : Nat) (f : Part → Part) : (modPart s n f).frames = s.frames := rfl

/-! ### modDie -/

@[simp] theorem modDie_agenda (s : State) (n : Nat) (f : Die → Die) : (modDie s n f).agenda = s.agenda := rfl
@[simp] theorem modDie_cur (s : State) (n : Nat) (f : Die → Die) : (modDie s n f).cur = s.cur := rfl
@[simp] theorem modDie_free (s : State) (n : Nat) (f : Die → Die) : (modDie s n f).free = s.free := rfl
@[simp] theorem modDie_fresh (s : State) (n : Nat) (f : Die → Die) : (modDie s n f).fresh = s.fresh := rfl
@[simp] theorem modDie_waves (s : State) (n : Nat) (f : Die → Die) : (modDie s n f).waves = s.waves := rfl
@[simp] theorem modDie_groups (s : State) (n : Nat) (f : Die → Die) : (modDie s n f).groups = s.groups := rfl
@[simp] theorem modDie_shadows (s : State) (n : Nat) (f : Die → Die) : (modDie s n f).shadows = s.shadows := rfl
@[simp] theorem modDie_mem (s : State) (n : Nat) (f : Die → Die) : (modDie s n f).mem = s.mem := rfl
@[simp] theorem modDie_protectNext (s : State) (n : Nat) (f : Die → Die) : (modDie s n f).protectNext = s.protectNext := rfl
@[simp] theorem modDie_protect (s : State) (n : Nat) (f : Die → Die) : (modDie s n f).protect = s.protect := rfl
@[simp] theorem modDie_lineKeys (s : State) (n : Nat) (f : Die → Die) : (modDie s n f).lineKeys = s.lineKeys := rfl
@[simp] theorem modDie_poisonMem (s : State) (n : Nat) (f : Die → Die) : (modDie s n f).poisonMem = s.poisonMem := rfl
@[simp] theorem modDie_poisonMeta (s : State) (n : Nat) (f : Die → Die) : (modDie s n f).poisonMeta = s.poisonMeta := rfl
@[simp] theorem modDie_poisonReg (s : State) (n : Nat) (f : Die → Die) : (modDie s n f).poisonReg = s.poisonReg := rfl
@[simp] theorem modDie_poisonBuf (s : State) (n : Nat) (f : Die → Die) : (modDie s n f).poisonBuf = s.poisonBuf := rfl
@[simp] theorem modDie_poisonCtx (s : State) (n : Nat) (f : Die → Die) : (modDie s n f).poisonCtx = s.poisonCtx := rfl
@[simp] theorem modDie_corrected (s : State) (n : Nat) (f : Die → Die) : (modDie s n f).corrected = s.corrected := rfl
@[simp] theorem modDie_flights (s : State) (n : Nat) (f : Die → Die) : (modDie s n f).flights = s.flights := rfl
@[simp] theorem modDie_l1 (s : State) (n : Nat) (f : Die → Die) : (modDie s n f).l1 = s.l1 := rfl
@[simp] theorem modDie_llc (s : State) (n : Nat) (f : Die → Die) : (modDie s n f).llc = s.llc := rfl
@[simp] theorem modDie_pac (s : State) (n : Nat) (f : Die → Die) : (modDie s n f).pac = s.pac := rfl
@[simp] theorem modDie_fills (s : State) (n : Nat) (f : Die → Die) : (modDie s n f).fills = s.fills := rfl
@[simp] theorem modDie_ranges (s : State) (n : Nat) (f : Die → Die) : (modDie s n f).ranges = s.ranges := rfl
@[simp] theorem modDie_requests (s : State) (n : Nat) (f : Die → Die) : (modDie s n f).requests = s.requests := rfl
@[simp] theorem modDie_grants (s : State) (n : Nat) (f : Die → Die) : (modDie s n f).grants = s.grants := rfl
@[simp] theorem modDie_campion (s : State) (n : Nat) (f : Die → Die) : (modDie s n f).campion = s.campion := rfl
@[simp] theorem modDie_waiters (s : State) (n : Nat) (f : Die → Die) : (modDie s n f).waiters = s.waiters := rfl
@[simp] theorem modDie_wakes (s : State) (n : Nat) (f : Die → Die) : (modDie s n f).wakes = s.wakes := rfl
@[simp] theorem modDie_launches (s : State) (n : Nat) (f : Die → Die) : (modDie s n f).launches = s.launches := rfl
@[simp] theorem modDie_queues (s : State) (n : Nat) (f : Die → Die) : (modDie s n f).queues = s.queues := rfl
@[simp] theorem modDie_cores (s : State) (n : Nat) (f : Die → Die) : (modDie s n f).cores = s.cores := rfl
@[simp] theorem modDie_parts (s : State) (n : Nat) (f : Die → Die) : (modDie s n f).parts = s.parts := rfl
@[simp] theorem modDie_images (s : State) (n : Nat) (f : Die → Die) : (modDie s n f).images = s.images := rfl
@[simp] theorem modDie_tenants (s : State) (n : Nat) (f : Die → Die) : (modDie s n f).tenants = s.tenants := rfl
@[simp] theorem modDie_remotes (s : State) (n : Nat) (f : Die → Die) : (modDie s n f).remotes = s.remotes := rfl
@[simp] theorem modDie_windows (s : State) (n : Nat) (f : Die → Die) : (modDie s n f).windows = s.windows := rfl
@[simp] theorem modDie_quotas (s : State) (n : Nat) (f : Die → Die) : (modDie s n f).quotas = s.quotas := rfl
@[simp] theorem modDie_loans (s : State) (n : Nat) (f : Die → Die) : (modDie s n f).loans = s.loans := rfl
@[simp] theorem modDie_stopped (s : State) (n : Nat) (f : Die → Die) : (modDie s n f).stopped = s.stopped := rfl
@[simp] theorem modDie_stops (s : State) (n : Nat) (f : Die → Die) : (modDie s n f).stops = s.stops := rfl
@[simp] theorem modDie_sessions (s : State) (n : Nat) (f : Die → Die) : (modDie s n f).sessions = s.sessions := rfl
@[simp] theorem modDie_fences (s : State) (n : Nat) (f : Die → Die) : (modDie s n f).fences = s.fences := rfl
@[simp] theorem modDie_keys (s : State) (n : Nat) (f : Die → Die) : (modDie s n f).keys = s.keys := rfl
@[simp] theorem modDie_ioDead (s : State) (n : Nat) (f : Die → Die) : (modDie s n f).ioDead = s.ioDead := rfl
@[simp] theorem modDie_dropped (s : State) (n : Nat) (f : Die → Die) : (modDie s n f).dropped = s.dropped := rfl
@[simp] theorem modDie_lapsed (s : State) (n : Nat) (f : Die → Die) : (modDie s n f).lapsed = s.lapsed := rfl
@[simp] theorem modDie_sweolo (s : State) (n : Nat) (f : Die → Die) : (modDie s n f).sweolo = s.sweolo := rfl
@[simp] theorem modDie_sharers (s : State) (n : Nat) (f : Die → Die) : (modDie s n f).sharers = s.sharers := rfl
@[simp] theorem modDie_idle (s : State) (n : Nat) (f : Die → Die) : (modDie s n f).idle = s.idle := rfl
@[simp] theorem modDie_frames (s : State) (n : Nat) (f : Die → Die) : (modDie s n f).frames = s.frames := rfl

/-! ### modCore -/

@[simp] theorem modCore_agenda (s : State) (d n : Nat) (f : Core → Core) : (modCore s d n f).agenda = s.agenda := rfl
@[simp] theorem modCore_cur (s : State) (d n : Nat) (f : Core → Core) : (modCore s d n f).cur = s.cur := rfl
@[simp] theorem modCore_free (s : State) (d n : Nat) (f : Core → Core) : (modCore s d n f).free = s.free := rfl
@[simp] theorem modCore_fresh (s : State) (d n : Nat) (f : Core → Core) : (modCore s d n f).fresh = s.fresh := rfl
@[simp] theorem modCore_waves (s : State) (d n : Nat) (f : Core → Core) : (modCore s d n f).waves = s.waves := rfl
@[simp] theorem modCore_groups (s : State) (d n : Nat) (f : Core → Core) : (modCore s d n f).groups = s.groups := rfl
@[simp] theorem modCore_shadows (s : State) (d n : Nat) (f : Core → Core) : (modCore s d n f).shadows = s.shadows := rfl
@[simp] theorem modCore_mem (s : State) (d n : Nat) (f : Core → Core) : (modCore s d n f).mem = s.mem := rfl
@[simp] theorem modCore_protectNext (s : State) (d n : Nat) (f : Core → Core) : (modCore s d n f).protectNext = s.protectNext := rfl
@[simp] theorem modCore_protect (s : State) (d n : Nat) (f : Core → Core) : (modCore s d n f).protect = s.protect := rfl
@[simp] theorem modCore_lineKeys (s : State) (d n : Nat) (f : Core → Core) : (modCore s d n f).lineKeys = s.lineKeys := rfl
@[simp] theorem modCore_poisonMem (s : State) (d n : Nat) (f : Core → Core) : (modCore s d n f).poisonMem = s.poisonMem := rfl
@[simp] theorem modCore_poisonMeta (s : State) (d n : Nat) (f : Core → Core) : (modCore s d n f).poisonMeta = s.poisonMeta := rfl
@[simp] theorem modCore_poisonReg (s : State) (d n : Nat) (f : Core → Core) : (modCore s d n f).poisonReg = s.poisonReg := rfl
@[simp] theorem modCore_poisonBuf (s : State) (d n : Nat) (f : Core → Core) : (modCore s d n f).poisonBuf = s.poisonBuf := rfl
@[simp] theorem modCore_poisonCtx (s : State) (d n : Nat) (f : Core → Core) : (modCore s d n f).poisonCtx = s.poisonCtx := rfl
@[simp] theorem modCore_corrected (s : State) (d n : Nat) (f : Core → Core) : (modCore s d n f).corrected = s.corrected := rfl
@[simp] theorem modCore_flights (s : State) (d n : Nat) (f : Core → Core) : (modCore s d n f).flights = s.flights := rfl
@[simp] theorem modCore_l1 (s : State) (d n : Nat) (f : Core → Core) : (modCore s d n f).l1 = s.l1 := rfl
@[simp] theorem modCore_llc (s : State) (d n : Nat) (f : Core → Core) : (modCore s d n f).llc = s.llc := rfl
@[simp] theorem modCore_pac (s : State) (d n : Nat) (f : Core → Core) : (modCore s d n f).pac = s.pac := rfl
@[simp] theorem modCore_fills (s : State) (d n : Nat) (f : Core → Core) : (modCore s d n f).fills = s.fills := rfl
@[simp] theorem modCore_ranges (s : State) (d n : Nat) (f : Core → Core) : (modCore s d n f).ranges = s.ranges := rfl
@[simp] theorem modCore_requests (s : State) (d n : Nat) (f : Core → Core) : (modCore s d n f).requests = s.requests := rfl
@[simp] theorem modCore_grants (s : State) (d n : Nat) (f : Core → Core) : (modCore s d n f).grants = s.grants := rfl
@[simp] theorem modCore_campion (s : State) (d n : Nat) (f : Core → Core) : (modCore s d n f).campion = s.campion := rfl
@[simp] theorem modCore_waiters (s : State) (d n : Nat) (f : Core → Core) : (modCore s d n f).waiters = s.waiters := rfl
@[simp] theorem modCore_wakes (s : State) (d n : Nat) (f : Core → Core) : (modCore s d n f).wakes = s.wakes := rfl
@[simp] theorem modCore_launches (s : State) (d n : Nat) (f : Core → Core) : (modCore s d n f).launches = s.launches := rfl
@[simp] theorem modCore_queues (s : State) (d n : Nat) (f : Core → Core) : (modCore s d n f).queues = s.queues := rfl
@[simp] theorem modCore_dies (s : State) (d n : Nat) (f : Core → Core) : (modCore s d n f).dies = s.dies := rfl
@[simp] theorem modCore_parts (s : State) (d n : Nat) (f : Core → Core) : (modCore s d n f).parts = s.parts := rfl
@[simp] theorem modCore_images (s : State) (d n : Nat) (f : Core → Core) : (modCore s d n f).images = s.images := rfl
@[simp] theorem modCore_tenants (s : State) (d n : Nat) (f : Core → Core) : (modCore s d n f).tenants = s.tenants := rfl
@[simp] theorem modCore_remotes (s : State) (d n : Nat) (f : Core → Core) : (modCore s d n f).remotes = s.remotes := rfl
@[simp] theorem modCore_windows (s : State) (d n : Nat) (f : Core → Core) : (modCore s d n f).windows = s.windows := rfl
@[simp] theorem modCore_quotas (s : State) (d n : Nat) (f : Core → Core) : (modCore s d n f).quotas = s.quotas := rfl
@[simp] theorem modCore_loans (s : State) (d n : Nat) (f : Core → Core) : (modCore s d n f).loans = s.loans := rfl
@[simp] theorem modCore_stopped (s : State) (d n : Nat) (f : Core → Core) : (modCore s d n f).stopped = s.stopped := rfl
@[simp] theorem modCore_stops (s : State) (d n : Nat) (f : Core → Core) : (modCore s d n f).stops = s.stops := rfl
@[simp] theorem modCore_sessions (s : State) (d n : Nat) (f : Core → Core) : (modCore s d n f).sessions = s.sessions := rfl
@[simp] theorem modCore_fences (s : State) (d n : Nat) (f : Core → Core) : (modCore s d n f).fences = s.fences := rfl
@[simp] theorem modCore_keys (s : State) (d n : Nat) (f : Core → Core) : (modCore s d n f).keys = s.keys := rfl
@[simp] theorem modCore_ioDead (s : State) (d n : Nat) (f : Core → Core) : (modCore s d n f).ioDead = s.ioDead := rfl
@[simp] theorem modCore_dropped (s : State) (d n : Nat) (f : Core → Core) : (modCore s d n f).dropped = s.dropped := rfl
@[simp] theorem modCore_lapsed (s : State) (d n : Nat) (f : Core → Core) : (modCore s d n f).lapsed = s.lapsed := rfl
@[simp] theorem modCore_sweolo (s : State) (d n : Nat) (f : Core → Core) : (modCore s d n f).sweolo = s.sweolo := rfl
@[simp] theorem modCore_sharers (s : State) (d n : Nat) (f : Core → Core) : (modCore s d n f).sharers = s.sharers := rfl
@[simp] theorem modCore_idle (s : State) (d n : Nat) (f : Core → Core) : (modCore s d n f).idle = s.idle := rfl
@[simp] theorem modCore_frames (s : State) (d n : Nat) (f : Core → Core) : (modCore s d n f).frames = s.frames := rfl

/-! ### modFlight -/

theorem modFlight_flights (s : State) (n : Nat) (f : Flight → Flight) : (modFlight s n f).flights = s.flights.map fun g => if g.id = n then f g else g := rfl
@[simp] theorem modFlight_agenda (s : State) (n : Nat) (f : Flight → Flight) : (modFlight s n f).agenda = s.agenda := rfl
@[simp] theorem modFlight_cur (s : State) (n : Nat) (f : Flight → Flight) : (modFlight s n f).cur = s.cur := rfl
@[simp] theorem modFlight_free (s : State) (n : Nat) (f : Flight → Flight) : (modFlight s n f).free = s.free := rfl
@[simp] theorem modFlight_fresh (s : State) (n : Nat) (f : Flight → Flight) : (modFlight s n f).fresh = s.fresh := rfl
@[simp] theorem modFlight_waves (s : State) (n : Nat) (f : Flight → Flight) : (modFlight s n f).waves = s.waves := rfl
@[simp] theorem modFlight_groups (s : State) (n : Nat) (f : Flight → Flight) : (modFlight s n f).groups = s.groups := rfl
@[simp] theorem modFlight_shadows (s : State) (n : Nat) (f : Flight → Flight) : (modFlight s n f).shadows = s.shadows := rfl
@[simp] theorem modFlight_mem (s : State) (n : Nat) (f : Flight → Flight) : (modFlight s n f).mem = s.mem := rfl
@[simp] theorem modFlight_protectNext (s : State) (n : Nat) (f : Flight → Flight) : (modFlight s n f).protectNext = s.protectNext := rfl
@[simp] theorem modFlight_protect (s : State) (n : Nat) (f : Flight → Flight) : (modFlight s n f).protect = s.protect := rfl
@[simp] theorem modFlight_lineKeys (s : State) (n : Nat) (f : Flight → Flight) : (modFlight s n f).lineKeys = s.lineKeys := rfl
@[simp] theorem modFlight_poisonMem (s : State) (n : Nat) (f : Flight → Flight) : (modFlight s n f).poisonMem = s.poisonMem := rfl
@[simp] theorem modFlight_poisonMeta (s : State) (n : Nat) (f : Flight → Flight) : (modFlight s n f).poisonMeta = s.poisonMeta := rfl
@[simp] theorem modFlight_poisonReg (s : State) (n : Nat) (f : Flight → Flight) : (modFlight s n f).poisonReg = s.poisonReg := rfl
@[simp] theorem modFlight_poisonBuf (s : State) (n : Nat) (f : Flight → Flight) : (modFlight s n f).poisonBuf = s.poisonBuf := rfl
@[simp] theorem modFlight_poisonCtx (s : State) (n : Nat) (f : Flight → Flight) : (modFlight s n f).poisonCtx = s.poisonCtx := rfl
@[simp] theorem modFlight_corrected (s : State) (n : Nat) (f : Flight → Flight) : (modFlight s n f).corrected = s.corrected := rfl
@[simp] theorem modFlight_l1 (s : State) (n : Nat) (f : Flight → Flight) : (modFlight s n f).l1 = s.l1 := rfl
@[simp] theorem modFlight_llc (s : State) (n : Nat) (f : Flight → Flight) : (modFlight s n f).llc = s.llc := rfl
@[simp] theorem modFlight_pac (s : State) (n : Nat) (f : Flight → Flight) : (modFlight s n f).pac = s.pac := rfl
@[simp] theorem modFlight_fills (s : State) (n : Nat) (f : Flight → Flight) : (modFlight s n f).fills = s.fills := rfl
@[simp] theorem modFlight_ranges (s : State) (n : Nat) (f : Flight → Flight) : (modFlight s n f).ranges = s.ranges := rfl
@[simp] theorem modFlight_requests (s : State) (n : Nat) (f : Flight → Flight) : (modFlight s n f).requests = s.requests := rfl
@[simp] theorem modFlight_grants (s : State) (n : Nat) (f : Flight → Flight) : (modFlight s n f).grants = s.grants := rfl
@[simp] theorem modFlight_campion (s : State) (n : Nat) (f : Flight → Flight) : (modFlight s n f).campion = s.campion := rfl
@[simp] theorem modFlight_waiters (s : State) (n : Nat) (f : Flight → Flight) : (modFlight s n f).waiters = s.waiters := rfl
@[simp] theorem modFlight_wakes (s : State) (n : Nat) (f : Flight → Flight) : (modFlight s n f).wakes = s.wakes := rfl
@[simp] theorem modFlight_launches (s : State) (n : Nat) (f : Flight → Flight) : (modFlight s n f).launches = s.launches := rfl
@[simp] theorem modFlight_queues (s : State) (n : Nat) (f : Flight → Flight) : (modFlight s n f).queues = s.queues := rfl
@[simp] theorem modFlight_cores (s : State) (n : Nat) (f : Flight → Flight) : (modFlight s n f).cores = s.cores := rfl
@[simp] theorem modFlight_dies (s : State) (n : Nat) (f : Flight → Flight) : (modFlight s n f).dies = s.dies := rfl
@[simp] theorem modFlight_parts (s : State) (n : Nat) (f : Flight → Flight) : (modFlight s n f).parts = s.parts := rfl
@[simp] theorem modFlight_images (s : State) (n : Nat) (f : Flight → Flight) : (modFlight s n f).images = s.images := rfl
@[simp] theorem modFlight_tenants (s : State) (n : Nat) (f : Flight → Flight) : (modFlight s n f).tenants = s.tenants := rfl
@[simp] theorem modFlight_remotes (s : State) (n : Nat) (f : Flight → Flight) : (modFlight s n f).remotes = s.remotes := rfl
@[simp] theorem modFlight_windows (s : State) (n : Nat) (f : Flight → Flight) : (modFlight s n f).windows = s.windows := rfl
@[simp] theorem modFlight_quotas (s : State) (n : Nat) (f : Flight → Flight) : (modFlight s n f).quotas = s.quotas := rfl
@[simp] theorem modFlight_loans (s : State) (n : Nat) (f : Flight → Flight) : (modFlight s n f).loans = s.loans := rfl
@[simp] theorem modFlight_stopped (s : State) (n : Nat) (f : Flight → Flight) : (modFlight s n f).stopped = s.stopped := rfl
@[simp] theorem modFlight_stops (s : State) (n : Nat) (f : Flight → Flight) : (modFlight s n f).stops = s.stops := rfl
@[simp] theorem modFlight_sessions (s : State) (n : Nat) (f : Flight → Flight) : (modFlight s n f).sessions = s.sessions := rfl
@[simp] theorem modFlight_fences (s : State) (n : Nat) (f : Flight → Flight) : (modFlight s n f).fences = s.fences := rfl
@[simp] theorem modFlight_keys (s : State) (n : Nat) (f : Flight → Flight) : (modFlight s n f).keys = s.keys := rfl
@[simp] theorem modFlight_ioDead (s : State) (n : Nat) (f : Flight → Flight) : (modFlight s n f).ioDead = s.ioDead := rfl
@[simp] theorem modFlight_dropped (s : State) (n : Nat) (f : Flight → Flight) : (modFlight s n f).dropped = s.dropped := rfl
@[simp] theorem modFlight_lapsed (s : State) (n : Nat) (f : Flight → Flight) : (modFlight s n f).lapsed = s.lapsed := rfl
@[simp] theorem modFlight_sweolo (s : State) (n : Nat) (f : Flight → Flight) : (modFlight s n f).sweolo = s.sweolo := rfl
@[simp] theorem modFlight_sharers (s : State) (n : Nat) (f : Flight → Flight) : (modFlight s n f).sharers = s.sharers := rfl
@[simp] theorem modFlight_idle (s : State) (n : Nat) (f : Flight → Flight) : (modFlight s n f).idle = s.idle := rfl
@[simp] theorem modFlight_frames (s : State) (n : Nat) (f : Flight → Flight) : (modFlight s n f).frames = s.frames := rfl

/-! ### modSession -/

theorem modSession_sessions (s : State) (n : Nat) (f : Session → Session) : (modSession s n f).sessions = s.sessions.map fun x => if x.part = n then f x else x := rfl
@[simp] theorem modSession_agenda (s : State) (n : Nat) (f : Session → Session) : (modSession s n f).agenda = s.agenda := rfl
@[simp] theorem modSession_cur (s : State) (n : Nat) (f : Session → Session) : (modSession s n f).cur = s.cur := rfl
@[simp] theorem modSession_free (s : State) (n : Nat) (f : Session → Session) : (modSession s n f).free = s.free := rfl
@[simp] theorem modSession_fresh (s : State) (n : Nat) (f : Session → Session) : (modSession s n f).fresh = s.fresh := rfl
@[simp] theorem modSession_waves (s : State) (n : Nat) (f : Session → Session) : (modSession s n f).waves = s.waves := rfl
@[simp] theorem modSession_groups (s : State) (n : Nat) (f : Session → Session) : (modSession s n f).groups = s.groups := rfl
@[simp] theorem modSession_shadows (s : State) (n : Nat) (f : Session → Session) : (modSession s n f).shadows = s.shadows := rfl
@[simp] theorem modSession_mem (s : State) (n : Nat) (f : Session → Session) : (modSession s n f).mem = s.mem := rfl
@[simp] theorem modSession_protectNext (s : State) (n : Nat) (f : Session → Session) : (modSession s n f).protectNext = s.protectNext := rfl
@[simp] theorem modSession_protect (s : State) (n : Nat) (f : Session → Session) : (modSession s n f).protect = s.protect := rfl
@[simp] theorem modSession_lineKeys (s : State) (n : Nat) (f : Session → Session) : (modSession s n f).lineKeys = s.lineKeys := rfl
@[simp] theorem modSession_poisonMem (s : State) (n : Nat) (f : Session → Session) : (modSession s n f).poisonMem = s.poisonMem := rfl
@[simp] theorem modSession_poisonMeta (s : State) (n : Nat) (f : Session → Session) : (modSession s n f).poisonMeta = s.poisonMeta := rfl
@[simp] theorem modSession_poisonReg (s : State) (n : Nat) (f : Session → Session) : (modSession s n f).poisonReg = s.poisonReg := rfl
@[simp] theorem modSession_poisonBuf (s : State) (n : Nat) (f : Session → Session) : (modSession s n f).poisonBuf = s.poisonBuf := rfl
@[simp] theorem modSession_poisonCtx (s : State) (n : Nat) (f : Session → Session) : (modSession s n f).poisonCtx = s.poisonCtx := rfl
@[simp] theorem modSession_corrected (s : State) (n : Nat) (f : Session → Session) : (modSession s n f).corrected = s.corrected := rfl
@[simp] theorem modSession_flights (s : State) (n : Nat) (f : Session → Session) : (modSession s n f).flights = s.flights := rfl
@[simp] theorem modSession_l1 (s : State) (n : Nat) (f : Session → Session) : (modSession s n f).l1 = s.l1 := rfl
@[simp] theorem modSession_llc (s : State) (n : Nat) (f : Session → Session) : (modSession s n f).llc = s.llc := rfl
@[simp] theorem modSession_pac (s : State) (n : Nat) (f : Session → Session) : (modSession s n f).pac = s.pac := rfl
@[simp] theorem modSession_fills (s : State) (n : Nat) (f : Session → Session) : (modSession s n f).fills = s.fills := rfl
@[simp] theorem modSession_ranges (s : State) (n : Nat) (f : Session → Session) : (modSession s n f).ranges = s.ranges := rfl
@[simp] theorem modSession_requests (s : State) (n : Nat) (f : Session → Session) : (modSession s n f).requests = s.requests := rfl
@[simp] theorem modSession_grants (s : State) (n : Nat) (f : Session → Session) : (modSession s n f).grants = s.grants := rfl
@[simp] theorem modSession_campion (s : State) (n : Nat) (f : Session → Session) : (modSession s n f).campion = s.campion := rfl
@[simp] theorem modSession_waiters (s : State) (n : Nat) (f : Session → Session) : (modSession s n f).waiters = s.waiters := rfl
@[simp] theorem modSession_wakes (s : State) (n : Nat) (f : Session → Session) : (modSession s n f).wakes = s.wakes := rfl
@[simp] theorem modSession_launches (s : State) (n : Nat) (f : Session → Session) : (modSession s n f).launches = s.launches := rfl
@[simp] theorem modSession_queues (s : State) (n : Nat) (f : Session → Session) : (modSession s n f).queues = s.queues := rfl
@[simp] theorem modSession_cores (s : State) (n : Nat) (f : Session → Session) : (modSession s n f).cores = s.cores := rfl
@[simp] theorem modSession_dies (s : State) (n : Nat) (f : Session → Session) : (modSession s n f).dies = s.dies := rfl
@[simp] theorem modSession_parts (s : State) (n : Nat) (f : Session → Session) : (modSession s n f).parts = s.parts := rfl
@[simp] theorem modSession_images (s : State) (n : Nat) (f : Session → Session) : (modSession s n f).images = s.images := rfl
@[simp] theorem modSession_tenants (s : State) (n : Nat) (f : Session → Session) : (modSession s n f).tenants = s.tenants := rfl
@[simp] theorem modSession_remotes (s : State) (n : Nat) (f : Session → Session) : (modSession s n f).remotes = s.remotes := rfl
@[simp] theorem modSession_windows (s : State) (n : Nat) (f : Session → Session) : (modSession s n f).windows = s.windows := rfl
@[simp] theorem modSession_quotas (s : State) (n : Nat) (f : Session → Session) : (modSession s n f).quotas = s.quotas := rfl
@[simp] theorem modSession_loans (s : State) (n : Nat) (f : Session → Session) : (modSession s n f).loans = s.loans := rfl
@[simp] theorem modSession_stopped (s : State) (n : Nat) (f : Session → Session) : (modSession s n f).stopped = s.stopped := rfl
@[simp] theorem modSession_stops (s : State) (n : Nat) (f : Session → Session) : (modSession s n f).stops = s.stops := rfl
@[simp] theorem modSession_fences (s : State) (n : Nat) (f : Session → Session) : (modSession s n f).fences = s.fences := rfl
@[simp] theorem modSession_keys (s : State) (n : Nat) (f : Session → Session) : (modSession s n f).keys = s.keys := rfl
@[simp] theorem modSession_ioDead (s : State) (n : Nat) (f : Session → Session) : (modSession s n f).ioDead = s.ioDead := rfl
@[simp] theorem modSession_dropped (s : State) (n : Nat) (f : Session → Session) : (modSession s n f).dropped = s.dropped := rfl
@[simp] theorem modSession_lapsed (s : State) (n : Nat) (f : Session → Session) : (modSession s n f).lapsed = s.lapsed := rfl
@[simp] theorem modSession_sweolo (s : State) (n : Nat) (f : Session → Session) : (modSession s n f).sweolo = s.sweolo := rfl
@[simp] theorem modSession_sharers (s : State) (n : Nat) (f : Session → Session) : (modSession s n f).sharers = s.sharers := rfl
@[simp] theorem modSession_idle (s : State) (n : Nat) (f : Session → Session) : (modSession s n f).idle = s.idle := rfl
@[simp] theorem modSession_frames (s : State) (n : Nat) (f : Session → Session) : (modSession s n f).frames = s.frames := rfl

/-! ### dropCur -/

@[simp] theorem dropCur_agenda (s : State) (n : Nat) : (dropCur s n).agenda = s.agenda := rfl
@[simp] theorem dropCur_free (s : State) (n : Nat) : (dropCur s n).free = s.free := rfl
@[simp] theorem dropCur_fresh (s : State) (n : Nat) : (dropCur s n).fresh = s.fresh := rfl
@[simp] theorem dropCur_waves (s : State) (n : Nat) : (dropCur s n).waves = s.waves := rfl
@[simp] theorem dropCur_groups (s : State) (n : Nat) : (dropCur s n).groups = s.groups := rfl
@[simp] theorem dropCur_shadows (s : State) (n : Nat) : (dropCur s n).shadows = s.shadows := rfl
@[simp] theorem dropCur_mem (s : State) (n : Nat) : (dropCur s n).mem = s.mem := rfl
@[simp] theorem dropCur_protectNext (s : State) (n : Nat) : (dropCur s n).protectNext = s.protectNext := rfl
@[simp] theorem dropCur_protect (s : State) (n : Nat) : (dropCur s n).protect = s.protect := rfl
@[simp] theorem dropCur_lineKeys (s : State) (n : Nat) : (dropCur s n).lineKeys = s.lineKeys := rfl
@[simp] theorem dropCur_poisonMem (s : State) (n : Nat) : (dropCur s n).poisonMem = s.poisonMem := rfl
@[simp] theorem dropCur_poisonMeta (s : State) (n : Nat) : (dropCur s n).poisonMeta = s.poisonMeta := rfl
@[simp] theorem dropCur_poisonReg (s : State) (n : Nat) : (dropCur s n).poisonReg = s.poisonReg := rfl
@[simp] theorem dropCur_poisonBuf (s : State) (n : Nat) : (dropCur s n).poisonBuf = s.poisonBuf := rfl
@[simp] theorem dropCur_poisonCtx (s : State) (n : Nat) : (dropCur s n).poisonCtx = s.poisonCtx := rfl
@[simp] theorem dropCur_corrected (s : State) (n : Nat) : (dropCur s n).corrected = s.corrected := rfl
@[simp] theorem dropCur_flights (s : State) (n : Nat) : (dropCur s n).flights = s.flights := rfl
@[simp] theorem dropCur_l1 (s : State) (n : Nat) : (dropCur s n).l1 = s.l1 := rfl
@[simp] theorem dropCur_llc (s : State) (n : Nat) : (dropCur s n).llc = s.llc := rfl
@[simp] theorem dropCur_pac (s : State) (n : Nat) : (dropCur s n).pac = s.pac := rfl
@[simp] theorem dropCur_fills (s : State) (n : Nat) : (dropCur s n).fills = s.fills := rfl
@[simp] theorem dropCur_ranges (s : State) (n : Nat) : (dropCur s n).ranges = s.ranges := rfl
@[simp] theorem dropCur_requests (s : State) (n : Nat) : (dropCur s n).requests = s.requests := rfl
@[simp] theorem dropCur_grants (s : State) (n : Nat) : (dropCur s n).grants = s.grants := rfl
@[simp] theorem dropCur_campion (s : State) (n : Nat) : (dropCur s n).campion = s.campion := rfl
@[simp] theorem dropCur_waiters (s : State) (n : Nat) : (dropCur s n).waiters = s.waiters := rfl
@[simp] theorem dropCur_wakes (s : State) (n : Nat) : (dropCur s n).wakes = s.wakes := rfl
@[simp] theorem dropCur_launches (s : State) (n : Nat) : (dropCur s n).launches = s.launches := rfl
@[simp] theorem dropCur_queues (s : State) (n : Nat) : (dropCur s n).queues = s.queues := rfl
@[simp] theorem dropCur_cores (s : State) (n : Nat) : (dropCur s n).cores = s.cores := rfl
@[simp] theorem dropCur_dies (s : State) (n : Nat) : (dropCur s n).dies = s.dies := rfl
@[simp] theorem dropCur_parts (s : State) (n : Nat) : (dropCur s n).parts = s.parts := rfl
@[simp] theorem dropCur_images (s : State) (n : Nat) : (dropCur s n).images = s.images := rfl
@[simp] theorem dropCur_tenants (s : State) (n : Nat) : (dropCur s n).tenants = s.tenants := rfl
@[simp] theorem dropCur_remotes (s : State) (n : Nat) : (dropCur s n).remotes = s.remotes := rfl
@[simp] theorem dropCur_windows (s : State) (n : Nat) : (dropCur s n).windows = s.windows := rfl
@[simp] theorem dropCur_quotas (s : State) (n : Nat) : (dropCur s n).quotas = s.quotas := rfl
@[simp] theorem dropCur_loans (s : State) (n : Nat) : (dropCur s n).loans = s.loans := rfl
@[simp] theorem dropCur_stopped (s : State) (n : Nat) : (dropCur s n).stopped = s.stopped := rfl
@[simp] theorem dropCur_stops (s : State) (n : Nat) : (dropCur s n).stops = s.stops := rfl
@[simp] theorem dropCur_sessions (s : State) (n : Nat) : (dropCur s n).sessions = s.sessions := rfl
@[simp] theorem dropCur_fences (s : State) (n : Nat) : (dropCur s n).fences = s.fences := rfl
@[simp] theorem dropCur_keys (s : State) (n : Nat) : (dropCur s n).keys = s.keys := rfl
@[simp] theorem dropCur_ioDead (s : State) (n : Nat) : (dropCur s n).ioDead = s.ioDead := rfl
@[simp] theorem dropCur_dropped (s : State) (n : Nat) : (dropCur s n).dropped = s.dropped := rfl
@[simp] theorem dropCur_lapsed (s : State) (n : Nat) : (dropCur s n).lapsed = s.lapsed := rfl
@[simp] theorem dropCur_sweolo (s : State) (n : Nat) : (dropCur s n).sweolo = s.sweolo := rfl
@[simp] theorem dropCur_sharers (s : State) (n : Nat) : (dropCur s n).sharers = s.sharers := rfl
@[simp] theorem dropCur_idle (s : State) (n : Nat) : (dropCur s n).idle = s.idle := rfl
@[simp] theorem dropCur_frames (s : State) (n : Nat) : (dropCur s n).frames = s.frames := rfl

/-! ### dropFlights -/

@[simp] theorem dropFlights_agenda (s : State) : (dropFlights s).agenda = s.agenda := rfl
@[simp] theorem dropFlights_cur (s : State) : (dropFlights s).cur = s.cur := rfl
@[simp] theorem dropFlights_free (s : State) : (dropFlights s).free = s.free := rfl
@[simp] theorem dropFlights_fresh (s : State) : (dropFlights s).fresh = s.fresh := rfl
@[simp] theorem dropFlights_waves (s : State) : (dropFlights s).waves = s.waves := rfl
@[simp] theorem dropFlights_groups (s : State) : (dropFlights s).groups = s.groups := rfl
@[simp] theorem dropFlights_shadows (s : State) : (dropFlights s).shadows = s.shadows := rfl
@[simp] theorem dropFlights_mem (s : State) : (dropFlights s).mem = s.mem := rfl
@[simp] theorem dropFlights_protectNext (s : State) : (dropFlights s).protectNext = s.protectNext := rfl
@[simp] theorem dropFlights_protect (s : State) : (dropFlights s).protect = s.protect := rfl
@[simp] theorem dropFlights_lineKeys (s : State) : (dropFlights s).lineKeys = s.lineKeys := rfl
@[simp] theorem dropFlights_poisonMem (s : State) : (dropFlights s).poisonMem = s.poisonMem := rfl
@[simp] theorem dropFlights_poisonMeta (s : State) : (dropFlights s).poisonMeta = s.poisonMeta := rfl
@[simp] theorem dropFlights_poisonReg (s : State) : (dropFlights s).poisonReg = s.poisonReg := rfl
@[simp] theorem dropFlights_poisonBuf (s : State) : (dropFlights s).poisonBuf = s.poisonBuf := rfl
@[simp] theorem dropFlights_poisonCtx (s : State) : (dropFlights s).poisonCtx = s.poisonCtx := rfl
@[simp] theorem dropFlights_corrected (s : State) : (dropFlights s).corrected = s.corrected := rfl
@[simp] theorem dropFlights_l1 (s : State) : (dropFlights s).l1 = s.l1 := rfl
@[simp] theorem dropFlights_llc (s : State) : (dropFlights s).llc = s.llc := rfl
@[simp] theorem dropFlights_pac (s : State) : (dropFlights s).pac = s.pac := rfl
@[simp] theorem dropFlights_fills (s : State) : (dropFlights s).fills = s.fills := rfl
@[simp] theorem dropFlights_ranges (s : State) : (dropFlights s).ranges = s.ranges := rfl
@[simp] theorem dropFlights_requests (s : State) : (dropFlights s).requests = s.requests := rfl
@[simp] theorem dropFlights_grants (s : State) : (dropFlights s).grants = s.grants := rfl
@[simp] theorem dropFlights_campion (s : State) : (dropFlights s).campion = s.campion := rfl
@[simp] theorem dropFlights_waiters (s : State) : (dropFlights s).waiters = s.waiters := rfl
@[simp] theorem dropFlights_wakes (s : State) : (dropFlights s).wakes = s.wakes := rfl
@[simp] theorem dropFlights_launches (s : State) : (dropFlights s).launches = s.launches := rfl
@[simp] theorem dropFlights_queues (s : State) : (dropFlights s).queues = s.queues := rfl
@[simp] theorem dropFlights_cores (s : State) : (dropFlights s).cores = s.cores := rfl
@[simp] theorem dropFlights_dies (s : State) : (dropFlights s).dies = s.dies := rfl
@[simp] theorem dropFlights_parts (s : State) : (dropFlights s).parts = s.parts := rfl
@[simp] theorem dropFlights_images (s : State) : (dropFlights s).images = s.images := rfl
@[simp] theorem dropFlights_tenants (s : State) : (dropFlights s).tenants = s.tenants := rfl
@[simp] theorem dropFlights_remotes (s : State) : (dropFlights s).remotes = s.remotes := rfl
@[simp] theorem dropFlights_windows (s : State) : (dropFlights s).windows = s.windows := rfl
@[simp] theorem dropFlights_quotas (s : State) : (dropFlights s).quotas = s.quotas := rfl
@[simp] theorem dropFlights_loans (s : State) : (dropFlights s).loans = s.loans := rfl
@[simp] theorem dropFlights_stopped (s : State) : (dropFlights s).stopped = s.stopped := rfl
@[simp] theorem dropFlights_stops (s : State) : (dropFlights s).stops = s.stops := rfl
@[simp] theorem dropFlights_sessions (s : State) : (dropFlights s).sessions = s.sessions := rfl
@[simp] theorem dropFlights_fences (s : State) : (dropFlights s).fences = s.fences := rfl
@[simp] theorem dropFlights_keys (s : State) : (dropFlights s).keys = s.keys := rfl
@[simp] theorem dropFlights_ioDead (s : State) : (dropFlights s).ioDead = s.ioDead := rfl
@[simp] theorem dropFlights_dropped (s : State) : (dropFlights s).dropped = s.dropped := rfl
@[simp] theorem dropFlights_lapsed (s : State) : (dropFlights s).lapsed = s.lapsed := rfl
@[simp] theorem dropFlights_sweolo (s : State) : (dropFlights s).sweolo = s.sweolo := rfl
@[simp] theorem dropFlights_sharers (s : State) : (dropFlights s).sharers = s.sharers := rfl
@[simp] theorem dropFlights_idle (s : State) : (dropFlights s).idle = s.idle := rfl
@[simp] theorem dropFlights_frames (s : State) : (dropFlights s).frames = s.frames := rfl

/-! ### emit -/

@[simp] theorem emit_agenda (s : State) (n : Nat) (r : TraceRec) : (emit s n r).agenda = s.agenda := rfl
@[simp] theorem emit_cur (s : State) (n : Nat) (r : TraceRec) : (emit s n r).cur = s.cur := rfl
@[simp] theorem emit_free (s : State) (n : Nat) (r : TraceRec) : (emit s n r).free = s.free := rfl
@[simp] theorem emit_fresh (s : State) (n : Nat) (r : TraceRec) : (emit s n r).fresh = s.fresh := rfl
@[simp] theorem emit_waves (s : State) (n : Nat) (r : TraceRec) : (emit s n r).waves = s.waves := rfl
@[simp] theorem emit_groups (s : State) (n : Nat) (r : TraceRec) : (emit s n r).groups = s.groups := rfl
@[simp] theorem emit_shadows (s : State) (n : Nat) (r : TraceRec) : (emit s n r).shadows = s.shadows := rfl
@[simp] theorem emit_mem (s : State) (n : Nat) (r : TraceRec) : (emit s n r).mem = s.mem := rfl
@[simp] theorem emit_protectNext (s : State) (n : Nat) (r : TraceRec) : (emit s n r).protectNext = s.protectNext := rfl
@[simp] theorem emit_protect (s : State) (n : Nat) (r : TraceRec) : (emit s n r).protect = s.protect := rfl
@[simp] theorem emit_lineKeys (s : State) (n : Nat) (r : TraceRec) : (emit s n r).lineKeys = s.lineKeys := rfl
@[simp] theorem emit_poisonMem (s : State) (n : Nat) (r : TraceRec) : (emit s n r).poisonMem = s.poisonMem := rfl
@[simp] theorem emit_poisonMeta (s : State) (n : Nat) (r : TraceRec) : (emit s n r).poisonMeta = s.poisonMeta := rfl
@[simp] theorem emit_poisonReg (s : State) (n : Nat) (r : TraceRec) : (emit s n r).poisonReg = s.poisonReg := rfl
@[simp] theorem emit_poisonBuf (s : State) (n : Nat) (r : TraceRec) : (emit s n r).poisonBuf = s.poisonBuf := rfl
@[simp] theorem emit_poisonCtx (s : State) (n : Nat) (r : TraceRec) : (emit s n r).poisonCtx = s.poisonCtx := rfl
@[simp] theorem emit_corrected (s : State) (n : Nat) (r : TraceRec) : (emit s n r).corrected = s.corrected := rfl
@[simp] theorem emit_flights (s : State) (n : Nat) (r : TraceRec) : (emit s n r).flights = s.flights := rfl
@[simp] theorem emit_l1 (s : State) (n : Nat) (r : TraceRec) : (emit s n r).l1 = s.l1 := rfl
@[simp] theorem emit_llc (s : State) (n : Nat) (r : TraceRec) : (emit s n r).llc = s.llc := rfl
@[simp] theorem emit_pac (s : State) (n : Nat) (r : TraceRec) : (emit s n r).pac = s.pac := rfl
@[simp] theorem emit_fills (s : State) (n : Nat) (r : TraceRec) : (emit s n r).fills = s.fills := rfl
@[simp] theorem emit_ranges (s : State) (n : Nat) (r : TraceRec) : (emit s n r).ranges = s.ranges := rfl
@[simp] theorem emit_requests (s : State) (n : Nat) (r : TraceRec) : (emit s n r).requests = s.requests := rfl
@[simp] theorem emit_grants (s : State) (n : Nat) (r : TraceRec) : (emit s n r).grants = s.grants := rfl
@[simp] theorem emit_campion (s : State) (n : Nat) (r : TraceRec) : (emit s n r).campion = s.campion := rfl
@[simp] theorem emit_waiters (s : State) (n : Nat) (r : TraceRec) : (emit s n r).waiters = s.waiters := rfl
@[simp] theorem emit_wakes (s : State) (n : Nat) (r : TraceRec) : (emit s n r).wakes = s.wakes := rfl
@[simp] theorem emit_launches (s : State) (n : Nat) (r : TraceRec) : (emit s n r).launches = s.launches := rfl
@[simp] theorem emit_queues (s : State) (n : Nat) (r : TraceRec) : (emit s n r).queues = s.queues := rfl
@[simp] theorem emit_cores (s : State) (n : Nat) (r : TraceRec) : (emit s n r).cores = s.cores := rfl
@[simp] theorem emit_dies (s : State) (n : Nat) (r : TraceRec) : (emit s n r).dies = s.dies := rfl
@[simp] theorem emit_parts (s : State) (n : Nat) (r : TraceRec) : (emit s n r).parts = s.parts := rfl
@[simp] theorem emit_images (s : State) (n : Nat) (r : TraceRec) : (emit s n r).images = s.images := rfl
@[simp] theorem emit_tenants (s : State) (n : Nat) (r : TraceRec) : (emit s n r).tenants = s.tenants := rfl
@[simp] theorem emit_remotes (s : State) (n : Nat) (r : TraceRec) : (emit s n r).remotes = s.remotes := rfl
@[simp] theorem emit_windows (s : State) (n : Nat) (r : TraceRec) : (emit s n r).windows = s.windows := rfl
@[simp] theorem emit_quotas (s : State) (n : Nat) (r : TraceRec) : (emit s n r).quotas = s.quotas := rfl
@[simp] theorem emit_loans (s : State) (n : Nat) (r : TraceRec) : (emit s n r).loans = s.loans := rfl
@[simp] theorem emit_stopped (s : State) (n : Nat) (r : TraceRec) : (emit s n r).stopped = s.stopped := rfl
@[simp] theorem emit_stops (s : State) (n : Nat) (r : TraceRec) : (emit s n r).stops = s.stops := rfl
@[simp] theorem emit_fences (s : State) (n : Nat) (r : TraceRec) : (emit s n r).fences = s.fences := rfl
@[simp] theorem emit_keys (s : State) (n : Nat) (r : TraceRec) : (emit s n r).keys = s.keys := rfl
@[simp] theorem emit_ioDead (s : State) (n : Nat) (r : TraceRec) : (emit s n r).ioDead = s.ioDead := rfl
@[simp] theorem emit_dropped (s : State) (n : Nat) (r : TraceRec) : (emit s n r).dropped = s.dropped := rfl
@[simp] theorem emit_lapsed (s : State) (n : Nat) (r : TraceRec) : (emit s n r).lapsed = s.lapsed := rfl
@[simp] theorem emit_sharers (s : State) (n : Nat) (r : TraceRec) : (emit s n r).sharers = s.sharers := rfl
@[simp] theorem emit_idle (s : State) (n : Nat) (r : TraceRec) : (emit s n r).idle = s.idle := rfl
@[simp] theorem emit_frames (s : State) (n : Nat) (r : TraceRec) : (emit s n r).frames = s.frames := rfl

/-! ### answer -/

@[simp] theorem answer_agenda (s : State) (x : Output) : (answer s x).agenda = s.agenda := rfl
@[simp] theorem answer_cur (s : State) (x : Output) : (answer s x).cur = s.cur := rfl
@[simp] theorem answer_free (s : State) (x : Output) : (answer s x).free = s.free := rfl
@[simp] theorem answer_fresh (s : State) (x : Output) : (answer s x).fresh = s.fresh := rfl
@[simp] theorem answer_waves (s : State) (x : Output) : (answer s x).waves = s.waves := rfl
@[simp] theorem answer_groups (s : State) (x : Output) : (answer s x).groups = s.groups := rfl
@[simp] theorem answer_shadows (s : State) (x : Output) : (answer s x).shadows = s.shadows := rfl
@[simp] theorem answer_mem (s : State) (x : Output) : (answer s x).mem = s.mem := rfl
@[simp] theorem answer_protectNext (s : State) (x : Output) : (answer s x).protectNext = s.protectNext := rfl
@[simp] theorem answer_protect (s : State) (x : Output) : (answer s x).protect = s.protect := rfl
@[simp] theorem answer_lineKeys (s : State) (x : Output) : (answer s x).lineKeys = s.lineKeys := rfl
@[simp] theorem answer_poisonMem (s : State) (x : Output) : (answer s x).poisonMem = s.poisonMem := rfl
@[simp] theorem answer_poisonMeta (s : State) (x : Output) : (answer s x).poisonMeta = s.poisonMeta := rfl
@[simp] theorem answer_poisonReg (s : State) (x : Output) : (answer s x).poisonReg = s.poisonReg := rfl
@[simp] theorem answer_poisonBuf (s : State) (x : Output) : (answer s x).poisonBuf = s.poisonBuf := rfl
@[simp] theorem answer_poisonCtx (s : State) (x : Output) : (answer s x).poisonCtx = s.poisonCtx := rfl
@[simp] theorem answer_corrected (s : State) (x : Output) : (answer s x).corrected = s.corrected := rfl
@[simp] theorem answer_flights (s : State) (x : Output) : (answer s x).flights = s.flights := rfl
@[simp] theorem answer_l1 (s : State) (x : Output) : (answer s x).l1 = s.l1 := rfl
@[simp] theorem answer_llc (s : State) (x : Output) : (answer s x).llc = s.llc := rfl
@[simp] theorem answer_pac (s : State) (x : Output) : (answer s x).pac = s.pac := rfl
@[simp] theorem answer_fills (s : State) (x : Output) : (answer s x).fills = s.fills := rfl
@[simp] theorem answer_ranges (s : State) (x : Output) : (answer s x).ranges = s.ranges := rfl
@[simp] theorem answer_requests (s : State) (x : Output) : (answer s x).requests = s.requests := rfl
@[simp] theorem answer_grants (s : State) (x : Output) : (answer s x).grants = s.grants := rfl
@[simp] theorem answer_campion (s : State) (x : Output) : (answer s x).campion = s.campion := rfl
@[simp] theorem answer_waiters (s : State) (x : Output) : (answer s x).waiters = s.waiters := rfl
@[simp] theorem answer_wakes (s : State) (x : Output) : (answer s x).wakes = s.wakes := rfl
@[simp] theorem answer_launches (s : State) (x : Output) : (answer s x).launches = s.launches := rfl
@[simp] theorem answer_queues (s : State) (x : Output) : (answer s x).queues = s.queues := rfl
@[simp] theorem answer_cores (s : State) (x : Output) : (answer s x).cores = s.cores := rfl
@[simp] theorem answer_dies (s : State) (x : Output) : (answer s x).dies = s.dies := rfl
@[simp] theorem answer_parts (s : State) (x : Output) : (answer s x).parts = s.parts := rfl
@[simp] theorem answer_images (s : State) (x : Output) : (answer s x).images = s.images := rfl
@[simp] theorem answer_tenants (s : State) (x : Output) : (answer s x).tenants = s.tenants := rfl
@[simp] theorem answer_remotes (s : State) (x : Output) : (answer s x).remotes = s.remotes := rfl
@[simp] theorem answer_windows (s : State) (x : Output) : (answer s x).windows = s.windows := rfl
@[simp] theorem answer_quotas (s : State) (x : Output) : (answer s x).quotas = s.quotas := rfl
@[simp] theorem answer_loans (s : State) (x : Output) : (answer s x).loans = s.loans := rfl
@[simp] theorem answer_stopped (s : State) (x : Output) : (answer s x).stopped = s.stopped := rfl
@[simp] theorem answer_stops (s : State) (x : Output) : (answer s x).stops = s.stops := rfl
@[simp] theorem answer_sessions (s : State) (x : Output) : (answer s x).sessions = s.sessions := rfl
@[simp] theorem answer_fences (s : State) (x : Output) : (answer s x).fences = s.fences := rfl
@[simp] theorem answer_keys (s : State) (x : Output) : (answer s x).keys = s.keys := rfl
@[simp] theorem answer_ioDead (s : State) (x : Output) : (answer s x).ioDead = s.ioDead := rfl
@[simp] theorem answer_dropped (s : State) (x : Output) : (answer s x).dropped = s.dropped := rfl
@[simp] theorem answer_lapsed (s : State) (x : Output) : (answer s x).lapsed = s.lapsed := rfl

end Sys2Proof.Machine
end

