-- ==== Sys2Proof/Laws/Canonical.lean ====
section
/-! SUPPORT. The canonical form of the memories (R5) through results, outcomes, folds and plain updates. -/
namespace Sys2Proof.Machine

/-- The state of a result has canonical memories. -/
def ResC (r : Res) : Prop :=
  match r with
  | .done d => Canon d.s
  | .trap s _ | .wait s _ | .settled s => Canon s
/-- The state of a completed scout instruction has canonical memories. -/
def ScoutC (r : Scout) : Prop :=
  match r with
  | .ends | .skip => True
  | .done d _ => Canon d.s
/-- A next state has canonical memories. -/
def OutC (o : Host.Outcome State Fault Refusal) : Prop :=
  match o with
  | .next t => Canon t
  | _ => True

@[simp] theorem canonOf_fold (s : State) : CanonOf s.mem s.images ↔ Canon s := Iff.rfl
@[simp] theorem canon_mk (x0 x1 x2 x3 x4 x5 x6 x7 x8 x9 x10 x11 x12 x13 x14 x15 x16 x17 x18 x19 x20 x21 x22 x23 x24 x25 x26 x27 x28 x29 x30 x31 x32 x33 x34 x35 x36 x37 x38 x39 x40 x41 x42 x43 x44 x45 x46 x47 x48 x49 x50) :
    Canon (State.mk x0 x1 x2 x3 x4 x5 x6 x7 x8 x9 x10 x11 x12 x13 x14 x15 x16 x17 x18 x19 x20 x21 x22 x23 x24 x25 x26 x27 x28 x29 x30 x31 x32 x33 x34 x35 x36 x37 x38 x39 x40 x41 x42 x43 x44 x45 x46 x47 x48 x49 x50) ↔ CanonOf x7 x36 := Iff.rfl
@[simp] theorem resC_done (d : Done) : ResC (.done d) ↔ Canon d.s := Iff.rfl
@[simp] theorem resC_trap (s x) : ResC (.trap s x) ↔ Canon s := Iff.rfl
@[simp] theorem resC_wait (s x) : ResC (.wait s x) ↔ Canon s := Iff.rfl
@[simp] theorem resC_settled (s) : ResC (.settled s) ↔ Canon s := Iff.rfl
@[simp] theorem scoutC_ends : ScoutC .ends := trivial
@[simp] theorem scoutC_skip : ScoutC .skip := trivial
@[simp] theorem scoutC_done (d p) : ScoutC (.done d p) ↔ Canon d.s := Iff.rfl
@[simp] theorem outC_next (s) : OutC (.next s) ↔ Canon s := Iff.rfl
@[simp] theorem outC_refused (r) : OutC (.refused r) := trivial
@[simp] theorem outC_fault (r) : OutC (.fault r) := trivial

theorem canon_foldl {α : Type} (g : State → α → State) (hg : ∀ t x, Canon t → Canon (g t x)) (l : List α) (s : State)
    (h : Canon s) : Canon (l.foldl g s) := by
  induction l generalizing s with
  | nil => exact h
  | cons x l ih => exact ih _ (hg s x h)
@[simp] theorem modWave_canon (s n f) : Canon (modWave s n f) ↔ Canon s := Iff.rfl
@[simp] theorem modGroup_canon (s n f) : Canon (modGroup s n f) ↔ Canon s := Iff.rfl
@[simp] theorem modLaunch_canon (s n f) : Canon (modLaunch s n f) ↔ Canon s := Iff.rfl
@[simp] theorem modQueue_canon (s n f) : Canon (modQueue s n f) ↔ Canon s := Iff.rfl
@[simp] theorem modPart_canon (s n f) : Canon (modPart s n f) ↔ Canon s := Iff.rfl
@[simp] theorem modFlight_canon (s n f) : Canon (modFlight s n f) ↔ Canon s := Iff.rfl
@[simp] theorem modSession_canon (s n f) : Canon (modSession s n f) ↔ Canon s := Iff.rfl
@[simp] theorem modDie_canon (s n f) : Canon (modDie s n f) ↔ Canon s := Iff.rfl
@[simp] theorem dropCur_canon (s n) : Canon (dropCur s n) ↔ Canon s := Iff.rfl
@[simp] theorem answer_canon (s n) : Canon (answer s n) ↔ Canon s := Iff.rfl
@[simp] theorem modCore_canon (s d n f) : Canon (modCore s d n f) ↔ Canon s := Iff.rfl
@[simp] theorem emit_canon (s n r) : Canon (emit s n r) ↔ Canon s := Iff.rfl
@[simp] theorem dropFlights_canon (s) : Canon (dropFlights s) ↔ Canon s := Iff.rfl
@[simp] theorem canonOf_writeBytes {m l} (h : CanonOf m l) (a bs) : CanonOf (writeBytes m a bs) l := ⟨memWf_writeBytes h.1 a bs, h.2⟩
@[simp] theorem canonOf_writeN {m l} (h : CanonOf m l) (a n x) : CanonOf (writeN m a n x) l := ⟨memWf_writeN h.1 a n x, h.2⟩

theorem canon_foldl1 {α β : Type} (g : State × β → α → State × β) (hg : ∀ t x, Canon t.1 → Canon (g t x).1) (l : List α) (s : State × β)
    (h : Canon s.1) : Canon (l.foldl g s).1 := by
  induction l generalizing s with
  | nil => exact h
  | cons x l ih => exact ih _ (hg s x h)
theorem loaded_foldl {α : Type} (g : Loaded → α → Loaded) (hg : ∀ t x, Canon t.s → Canon (g t x).s) (l : List α) (s : Loaded)
    (h : Canon s.s) : Canon (l.foldl g s).s := by
  induction l generalizing s with
  | nil => exact h
  | cons x l ih => exact ih _ (hg s x h)
theorem memWf_foldl {α : Type} (g : Memory → α → Memory) (hg : ∀ m x, memWf m = true → memWf (g m x) = true) (l : List α) (m : Memory)
    (h : memWf m = true) : memWf (l.foldl g m) = true := by
  induction l generalizing m with
  | nil => exact h
  | cons x l ih => exact ih _ (hg m x h)
/-- A state that is given has canonical memories. -/
def OptC (o : Option State) : Prop :=
  match o with
  | some t => Canon t
  | none => True
/-- The state of a step at a control word has canonical memories. -/
def StepC (x : Stepped) : Prop :=
  match x with
  | .done t | .park t _ => Canon t
  | .fail _ _ => True
@[simp] theorem optC_none : OptC none := trivial
@[simp] theorem optC_some (s) : OptC (some s) ↔ Canon s := Iff.rfl
@[simp] theorem stepC_done (s) : StepC (.done s) ↔ Canon s := Iff.rfl
@[simp] theorem stepC_park (s n) : StepC (.park s n) ↔ Canon s := Iff.rfl
@[simp] theorem stepC_fail (n t) : StepC (.fail n t) := trivial
@[simp] theorem canon_getD {o : Option State} {s : State} (h : OptC o) (hs : Canon s) : Canon (o.getD s) := by
  cases o with
  | none => exact hs
  | some t => exact h
theorem optC_eq_some {o : Option State} {t : State} (h : OptC o) (e : o = some t) : Canon t := by rw [e] at h; exact h
theorem stepC_eq_park {x : Stepped} {t : State} {n} (h : StepC x) (e : x = .park t n) : Canon t := by rw [e] at h; exact h
theorem stepC_eq_done {x : Stepped} {t : State} (h : StepC x) (e : x = .done t) : Canon t := by rw [e] at h; exact h
theorem canon_foldl2 {α β : Type} (g : β × State → α → β × State) (hg : ∀ t x, Canon t.2 → Canon (g t x).2) (l : List α) (s : β × State)
    (h : Canon s.2) : Canon (l.foldl g s).2 := by
  induction l generalizing s with
  | nil => exact h
  | cons x l ih => exact ih _ (hg s x h)
theorem steps_foldl {α : Type} (g : Steps → α → Steps) (hg : ∀ t x, Canon t.s → Canon (g t x).s) (l : List α) (s : Steps)
    (h : Canon s.s) : Canon (l.foldl g s).s := by
  induction l generalizing s with
  | nil => exact h
  | cons x l ih => exact ih _ (hg s x h)
theorem resC_eq_done {r : Res} {d : Done} (h : ResC r) (e : r = .done d) : Canon d.s := by rw [e] at h; exact h
theorem scoutC_eq_done {r : Scout} {d p} (h : ScoutC r) (e : r = .done d p) : Canon d.s := by rw [e] at h; exact h
theorem canon_same {s t : State} (hs : Canon s) (hm : t.mem = s.mem) (hi : t.images = s.images) : Canon t := by
  unfold Canon; rw [hm, hi]; exact hs

end Sys2Proof.Machine
end

