-- ==== Sys2Proof/Laws/CanonCore.lean ====
section
/-! SUPPORT. Canonical memories stay canonical: the operations that all meanings share. -/
namespace Sys2Proof.Machine

set_option linter.unusedVariables false
set_option linter.unusedSimpArgs false

/-! ### Trace -/

@[simp] theorem emitTeasel_canon (s : State) (part kind seq : Nat) (hs : Canon s) : Canon (emitTeasel s part kind seq) := by
  unfold emitTeasel
  (try dsimp only)
  repeat' first | split | (with_reducible refine canon_foldl _ ?_ _ _ ?_) | (with_reducible refine canon_foldl1 _ ?_ _ _ ?_) | (with_reducible refine canon_foldl2 _ ?_ _ _ ?_) | (with_reducible refine loaded_foldl _ ?_ _ _ ?_) | (with_reducible refine steps_foldl _ ?_ _ _ ?_) | (with_reducible refine canon_getD ?_ ?_) | (intro _ _ _; try dsimp only) | (intro _ _; try dsimp only) | (intro _; try dsimp only)
  all_goals try simp (maxDischargeDepth := 20) +contextual [*]
@[simp] theorem sendFor_canon (s : State) (tenant : Nat) (x : Outbound) (hs : Canon s) : Canon (sendFor s tenant x) := by
  unfold sendFor
  (try dsimp only)
  repeat' first | split | (with_reducible refine canon_foldl _ ?_ _ _ ?_) | (with_reducible refine canon_foldl1 _ ?_ _ _ ?_) | (with_reducible refine canon_foldl2 _ ?_ _ _ ?_) | (with_reducible refine loaded_foldl _ ?_ _ _ ?_) | (with_reducible refine steps_foldl _ ?_ _ _ ?_) | (with_reducible refine canon_getD ?_ ?_) | (intro _ _ _; try dsimp only) | (intro _ _; try dsimp only) | (intro _; try dsimp only)
  all_goals try simp (maxDischargeDepth := 20) +contextual [*]

/-! ### Space -/

@[simp] theorem protectSet_canon (s : State) (a : Nat) (x : DWord) (hs : Canon s) : Canon (protectSet s a x) := by
  unfold protectSet
  (try dsimp only)
  repeat' first | split | (with_reducible refine canon_foldl _ ?_ _ _ ?_) | (with_reducible refine canon_foldl1 _ ?_ _ _ ?_) | (with_reducible refine canon_foldl2 _ ?_ _ _ ?_) | (with_reducible refine loaded_foldl _ ?_ _ _ ?_) | (with_reducible refine steps_foldl _ ?_ _ _ ?_) | (with_reducible refine canon_getD ?_ ?_) | (intro _ _ _; try dsimp only) | (intro _ _; try dsimp only) | (intro _; try dsimp only)
  all_goals try simp (maxDischargeDepth := 20) +contextual [*]
@[simp] theorem markPage_canon (s : State) (g : Page) (write : Bool) (hs : Canon s) : Canon (markPage s g write) := by
  unfold markPage
  (try dsimp only)
  repeat' first | split | (with_reducible refine canon_foldl _ ?_ _ _ ?_) | (with_reducible refine canon_foldl1 _ ?_ _ _ ?_) | (with_reducible refine canon_foldl2 _ ?_ _ _ ?_) | (with_reducible refine loaded_foldl _ ?_ _ _ ?_) | (with_reducible refine steps_foldl _ ?_ _ _ ?_) | (with_reducible refine canon_getD ?_ ?_) | (intro _ _ _; try dsimp only) | (intro _ _; try dsimp only) | (intro _; try dsimp only)
  all_goals try simp (maxDischargeDepth := 20) +contextual [*]
@[simp] theorem markAccessed_canon (s : State) (ia : Nat) (write : Bool) (hs : Canon s) : Canon (markAccessed s ia write) := by
  unfold markAccessed
  (try dsimp only)
  repeat' first | split | (with_reducible refine canon_foldl _ ?_ _ _ ?_) | (with_reducible refine canon_foldl1 _ ?_ _ _ ?_) | (with_reducible refine canon_foldl2 _ ?_ _ _ ?_) | (with_reducible refine loaded_foldl _ ?_ _ _ ?_) | (with_reducible refine steps_foldl _ ?_ _ _ ?_) | (with_reducible refine canon_getD ?_ ?_) | (intro _ _ _; try dsimp only) | (intro _ _; try dsimp only) | (intro _; try dsimp only)
  all_goals try simp (maxDischargeDepth := 20) +contextual [*]
@[simp] theorem pacPut_canon (s : State) (e : PacEntry) (hs : Canon s) : Canon (pacPut s e) := by
  unfold pacPut
  (try dsimp only)
  repeat' first | split | (with_reducible refine canon_foldl _ ?_ _ _ ?_) | (with_reducible refine canon_foldl1 _ ?_ _ _ ?_) | (with_reducible refine canon_foldl2 _ ?_ _ _ ?_) | (with_reducible refine loaded_foldl _ ?_ _ _ ?_) | (with_reducible refine steps_foldl _ ?_ _ _ ?_) | (with_reducible refine canon_getD ?_ ?_) | (intro _ _ _; try dsimp only) | (intro _ _; try dsimp only) | (intro _; try dsimp only)
  all_goals try simp (maxDischargeDepth := 20) +contextual [*]
@[simp] theorem pacTouch_canon (s : State) (die core ia : Nat) (mark : Option Bool) (hs : Canon s) : Canon (pacTouch s die core ia mark) := by
  unfold pacTouch
  (try dsimp only)
  repeat' first | split | (with_reducible refine canon_foldl _ ?_ _ _ ?_) | (with_reducible refine canon_foldl1 _ ?_ _ _ ?_) | (with_reducible refine canon_foldl2 _ ?_ _ _ ?_) | (with_reducible refine loaded_foldl _ ?_ _ _ ?_) | (with_reducible refine steps_foldl _ ?_ _ _ ?_) | (with_reducible refine canon_getD ?_ ?_) | (intro _ _ _; try dsimp only) | (intro _ _; try dsimp only) | (intro _; try dsimp only)
  all_goals try simp (maxDischargeDepth := 20) +contextual [*]
@[simp] theorem coreAccess_canon (s : State) (die core ia : Nat) (write : Bool) (hs : Canon s) : Canon (coreAccess s die core ia write) := by
  unfold coreAccess
  (try dsimp only)
  repeat' first | split | (with_reducible refine canon_foldl _ ?_ _ _ ?_) | (with_reducible refine canon_foldl1 _ ?_ _ _ ?_) | (with_reducible refine canon_foldl2 _ ?_ _ _ ?_) | (with_reducible refine loaded_foldl _ ?_ _ _ ?_) | (with_reducible refine steps_foldl _ ?_ _ _ ?_) | (with_reducible refine canon_getD ?_ ?_) | (intro _ _ _; try dsimp only) | (intro _ _; try dsimp only) | (intro _; try dsimp only)
  all_goals try simp (maxDischargeDepth := 20) +contextual [*]
@[simp] theorem underKey_canon (s : State) (key : Nat) (a : Nat) (hs : Canon s) : Canon (underKey s key a) := by
  unfold underKey
  (try dsimp only)
  repeat' first | split | (with_reducible refine canon_foldl _ ?_ _ _ ?_) | (with_reducible refine canon_foldl1 _ ?_ _ _ ?_) | (with_reducible refine canon_foldl2 _ ?_ _ _ ?_) | (with_reducible refine loaded_foldl _ ?_ _ _ ?_) | (with_reducible refine steps_foldl _ ?_ _ _ ?_) | (with_reducible refine canon_getD ?_ ?_) | (intro _ _ _; try dsimp only) | (intro _ _; try dsimp only) | (intro _; try dsimp only)
  all_goals try simp (maxDischargeDepth := 20) +contextual [*]
@[simp] theorem l1Fill_canon (s : State) (die core line : Nat) (x : L1Line) (hs : Canon s) : Canon (l1Fill s die core line x) := by
  unfold l1Fill
  (try dsimp only)
  repeat' first | split | (with_reducible refine canon_foldl _ ?_ _ _ ?_) | (with_reducible refine canon_foldl1 _ ?_ _ _ ?_) | (with_reducible refine canon_foldl2 _ ?_ _ _ ?_) | (with_reducible refine loaded_foldl _ ?_ _ _ ?_) | (with_reducible refine steps_foldl _ ?_ _ _ ?_) | (with_reducible refine canon_getD ?_ ?_) | (intro _ _ _; try dsimp only) | (intro _ _; try dsimp only) | (intro _; try dsimp only)
  all_goals try simp (maxDischargeDepth := 20) +contextual [*]
@[simp] theorem l1Filter_canon (s : State) (p : L1Block → Fin 4 → L1Line → Bool) (hs : Canon s) : Canon (l1Filter s p) := by
  unfold l1Filter
  (try dsimp only)
  repeat' first | split | (with_reducible refine canon_foldl _ ?_ _ _ ?_) | (with_reducible refine canon_foldl1 _ ?_ _ _ ?_) | (with_reducible refine canon_foldl2 _ ?_ _ _ ?_) | (with_reducible refine loaded_foldl _ ?_ _ _ ?_) | (with_reducible refine steps_foldl _ ?_ _ _ ?_) | (with_reducible refine canon_getD ?_ ?_) | (intro _ _ _; try dsimp only) | (intro _ _; try dsimp only) | (intro _; try dsimp only)
  all_goals try simp (maxDischargeDepth := 20) +contextual [*]
@[simp] theorem l1DropAll_canon (s : State) (die core : Nat) (hs : Canon s) : Canon (l1DropAll s die core) := by
  unfold l1DropAll
  (try dsimp only)
  repeat' first | split | (with_reducible refine canon_foldl _ ?_ _ _ ?_) | (with_reducible refine canon_foldl1 _ ?_ _ _ ?_) | (with_reducible refine canon_foldl2 _ ?_ _ _ ?_) | (with_reducible refine loaded_foldl _ ?_ _ _ ?_) | (with_reducible refine steps_foldl _ ?_ _ _ ?_) | (with_reducible refine canon_getD ?_ ?_) | (intro _ _ _; try dsimp only) | (intro _ _; try dsimp only) | (intro _; try dsimp only)
  all_goals try simp (maxDischargeDepth := 20) +contextual [*]
@[simp] theorem l1DropColour_canon (s : State) (die core : Nat) (c : BitVec 6) (hs : Canon s) : Canon (l1DropColour s die core c) := by
  unfold l1DropColour
  (try dsimp only)
  repeat' first | split | (with_reducible refine canon_foldl _ ?_ _ _ ?_) | (with_reducible refine canon_foldl1 _ ?_ _ _ ?_) | (with_reducible refine canon_foldl2 _ ?_ _ _ ?_) | (with_reducible refine loaded_foldl _ ?_ _ _ ?_) | (with_reducible refine steps_foldl _ ?_ _ _ ?_) | (with_reducible refine canon_getD ?_ ?_) | (intro _ _ _; try dsimp only) | (intro _ _; try dsimp only) | (intro _; try dsimp only)
  all_goals try simp (maxDischargeDepth := 20) +contextual [*]
@[simp] theorem l1DropLine_canon (s : State) (die core line : Nat) (hs : Canon s) : Canon (l1DropLine s die core line) := by
  unfold l1DropLine
  (try dsimp only)
  repeat' first | split | (with_reducible refine canon_foldl _ ?_ _ _ ?_) | (with_reducible refine canon_foldl1 _ ?_ _ _ ?_) | (with_reducible refine canon_foldl2 _ ?_ _ _ ?_) | (with_reducible refine loaded_foldl _ ?_ _ _ ?_) | (with_reducible refine steps_foldl _ ?_ _ _ ?_) | (with_reducible refine canon_getD ?_ ?_) | (intro _ _ _; try dsimp only) | (intro _ _; try dsimp only) | (intro _; try dsimp only)
  all_goals try simp (maxDischargeDepth := 20) +contextual [*]
@[simp] theorem l1DropEvery_canon (s : State) (line : Nat) (hs : Canon s) : Canon (l1DropEvery s line) := by
  unfold l1DropEvery
  (try dsimp only)
  repeat' first | split | (with_reducible refine canon_foldl _ ?_ _ _ ?_) | (with_reducible refine canon_foldl1 _ ?_ _ _ ?_) | (with_reducible refine canon_foldl2 _ ?_ _ _ ?_) | (with_reducible refine loaded_foldl _ ?_ _ _ ?_) | (with_reducible refine steps_foldl _ ?_ _ _ ?_) | (with_reducible refine canon_getD ?_ ?_) | (intro _ _ _; try dsimp only) | (intro _ _; try dsimp only) | (intro _; try dsimp only)
  all_goals try simp (maxDischargeDepth := 20) +contextual [*]
@[simp] theorem l1Update_canon (s : State) (die core line : Nat) (f : L1Line → L1Line) (hs : Canon s) : Canon (l1Update s die core line f) := by
  unfold l1Update
  (try dsimp only)
  repeat' first | split | (with_reducible refine canon_foldl _ ?_ _ _ ?_) | (with_reducible refine canon_foldl1 _ ?_ _ _ ?_) | (with_reducible refine canon_foldl2 _ ?_ _ _ ?_) | (with_reducible refine loaded_foldl _ ?_ _ _ ?_) | (with_reducible refine steps_foldl _ ?_ _ _ ?_) | (with_reducible refine canon_getD ?_ ?_) | (intro _ _ _; try dsimp only) | (intro _ _; try dsimp only) | (intro _; try dsimp only)
  all_goals try simp (maxDischargeDepth := 20) +contextual [*]
@[simp] theorem llcSeat_canon (s : State) (b : LlcBlock) (line tenant : Nat) (hs : Canon s) : Canon (llcSeat s b line tenant) := by
  unfold llcSeat
  (try dsimp only)
  repeat' first | split | (with_reducible refine canon_foldl _ ?_ _ _ ?_) | (with_reducible refine canon_foldl1 _ ?_ _ _ ?_) | (with_reducible refine canon_foldl2 _ ?_ _ _ ?_) | (with_reducible refine loaded_foldl _ ?_ _ _ ?_) | (with_reducible refine steps_foldl _ ?_ _ _ ?_) | (with_reducible refine canon_getD ?_ ?_) | (intro _ _ _; try dsimp only) | (intro _ _; try dsimp only) | (intro _; try dsimp only)
  all_goals try simp (maxDischargeDepth := 20) +contextual [*]
@[simp] theorem llcPut_canon (s : State) (die line tenant : Nat) (x : LlcLine) (hs : Canon s) : Canon (llcPut s die line tenant x) := by
  unfold llcPut
  (try dsimp only)
  repeat' first | split | (with_reducible refine canon_foldl _ ?_ _ _ ?_) | (with_reducible refine canon_foldl1 _ ?_ _ _ ?_) | (with_reducible refine canon_foldl2 _ ?_ _ _ ?_) | (with_reducible refine loaded_foldl _ ?_ _ _ ?_) | (with_reducible refine steps_foldl _ ?_ _ _ ?_) | (with_reducible refine canon_getD ?_ ?_) | (intro _ _ _; try dsimp only) | (intro _ _; try dsimp only) | (intro _; try dsimp only)
  all_goals try simp (maxDischargeDepth := 20) +contextual [*]
@[simp] theorem pinLines_canon (s : State) (hs : Canon s) : Canon (pinLines s) := by
  unfold pinLines
  (try dsimp only)
  repeat' first | split | (with_reducible refine canon_foldl _ ?_ _ _ ?_) | (with_reducible refine canon_foldl1 _ ?_ _ _ ?_) | (with_reducible refine canon_foldl2 _ ?_ _ _ ?_) | (with_reducible refine loaded_foldl _ ?_ _ _ ?_) | (with_reducible refine steps_foldl _ ?_ _ _ ?_) | (with_reducible refine canon_getD ?_ ?_) | (intro _ _ _; try dsimp only) | (intro _ _; try dsimp only) | (intro _; try dsimp only)
  all_goals try simp (maxDischargeDepth := 20) +contextual [*]
@[simp] theorem modDieCounters_canon (s : State) (part die : Nat) (f : DieCounters → DieCounters) (hs : Canon s) : Canon (modDieCounters s part die f) := by
  unfold modDieCounters
  (try dsimp only)
  repeat' first | split | (with_reducible refine canon_foldl _ ?_ _ _ ?_) | (with_reducible refine canon_foldl1 _ ?_ _ _ ?_) | (with_reducible refine canon_foldl2 _ ?_ _ _ ?_) | (with_reducible refine loaded_foldl _ ?_ _ _ ?_) | (with_reducible refine steps_foldl _ ?_ _ _ ?_) | (with_reducible refine canon_getD ?_ ?_) | (intro _ _ _; try dsimp only) | (intro _ _; try dsimp only) | (intro _; try dsimp only)
  all_goals try simp (maxDischargeDepth := 20) +contextual [*]
@[simp] theorem llcMeet_canon (s : State) (tenant die line : Nat) (write : Bool) (hs : Canon s) : Canon (llcMeet s tenant die line write) := by
  unfold llcMeet
  (try dsimp only)
  repeat' first | split | (with_reducible refine canon_foldl _ ?_ _ _ ?_) | (with_reducible refine canon_foldl1 _ ?_ _ _ ?_) | (with_reducible refine canon_foldl2 _ ?_ _ _ ?_) | (with_reducible refine loaded_foldl _ ?_ _ _ ?_) | (with_reducible refine steps_foldl _ ?_ _ _ ?_) | (with_reducible refine canon_getD ?_ ?_) | (intro _ _ _; try dsimp only) | (intro _ _; try dsimp only) | (intro _; try dsimp only)
  all_goals try simp (maxDischargeDepth := 20) +contextual [*]
@[simp] theorem llcTouch_canon (s : State) (part tenant die line : Nat) (write : Bool) (hs : Canon s) : Canon (llcTouch s part tenant die line write) := by
  unfold llcTouch
  (try dsimp only)
  repeat' first | split | (with_reducible refine canon_foldl _ ?_ _ _ ?_) | (with_reducible refine canon_foldl1 _ ?_ _ _ ?_) | (with_reducible refine canon_foldl2 _ ?_ _ _ ?_) | (with_reducible refine loaded_foldl _ ?_ _ _ ?_) | (with_reducible refine steps_foldl _ ?_ _ _ ?_) | (with_reducible refine canon_getD ?_ ?_) | (intro _ _ _; try dsimp only) | (intro _ _; try dsimp only) | (intro _; try dsimp only)
  all_goals try simp (maxDischargeDepth := 20) +contextual [*]
@[simp] theorem replicaUpdate_canon (s : State) (die line : Nat) (f : L1Line → L1Line) (hs : Canon s) : Canon (replicaUpdate s die line f) := by
  unfold replicaUpdate
  (try dsimp only)
  repeat' first | split | (with_reducible refine canon_foldl _ ?_ _ _ ?_) | (with_reducible refine canon_foldl1 _ ?_ _ _ ?_) | (with_reducible refine canon_foldl2 _ ?_ _ _ ?_) | (with_reducible refine loaded_foldl _ ?_ _ _ ?_) | (with_reducible refine steps_foldl _ ?_ _ _ ?_) | (with_reducible refine canon_getD ?_ ?_) | (intro _ _ _; try dsimp only) | (intro _ _; try dsimp only) | (intro _; try dsimp only)
  all_goals try simp (maxDischargeDepth := 20) +contextual [*]
@[simp] theorem dropReplicas_canon (s : State) (line : Nat) (hs : Canon s) : Canon (dropReplicas s line) := by
  unfold dropReplicas
  (try dsimp only)
  repeat' first | split | (with_reducible refine canon_foldl _ ?_ _ _ ?_) | (with_reducible refine canon_foldl1 _ ?_ _ _ ?_) | (with_reducible refine canon_foldl2 _ ?_ _ _ ?_) | (with_reducible refine loaded_foldl _ ?_ _ _ ?_) | (with_reducible refine steps_foldl _ ?_ _ _ ?_) | (with_reducible refine canon_getD ?_ ?_) | (intro _ _ _; try dsimp only) | (intro _ _; try dsimp only) | (intro _; try dsimp only)
  all_goals try simp (maxDischargeDepth := 20) +contextual [*]
@[simp] theorem markDirty_canon (s : State) (launch : DWord) (g : Page) (ia : Nat) (hs : Canon s) : Canon (markDirty s launch g ia) := by
  unfold markDirty
  (try dsimp only)
  repeat' first | split | (with_reducible refine canon_foldl _ ?_ _ _ ?_) | (with_reducible refine canon_foldl1 _ ?_ _ _ ?_) | (with_reducible refine canon_foldl2 _ ?_ _ _ ?_) | (with_reducible refine loaded_foldl _ ?_ _ _ ?_) | (with_reducible refine steps_foldl _ ?_ _ _ ?_) | (with_reducible refine canon_getD ?_ ?_) | (intro _ _ _; try dsimp only) | (intro _ _; try dsimp only) | (intro _; try dsimp only)
  all_goals try simp (maxDischargeDepth := 20) +contextual [*]
@[simp] theorem logLine_canon (s : State) (part a : Nat) (hs : Canon s) : Canon (logLine s part a) := by
  unfold logLine
  (try dsimp only)
  repeat' first | split | (with_reducible refine canon_foldl _ ?_ _ _ ?_) | (with_reducible refine canon_foldl1 _ ?_ _ _ ?_) | (with_reducible refine canon_foldl2 _ ?_ _ _ ?_) | (with_reducible refine loaded_foldl _ ?_ _ _ ?_) | (with_reducible refine steps_foldl _ ?_ _ _ ?_) | (with_reducible refine canon_getD ?_ ?_) | (intro _ _ _; try dsimp only) | (intro _ _; try dsimp only) | (intro _; try dsimp only)
  all_goals try simp (maxDischargeDepth := 20) +contextual [*]
@[simp] theorem beforeWrite_canon (s : State) (launch : DWord) (g : Page) (ia : Nat) (hs : Canon s) : Canon (beforeWrite s launch g ia) := by
  unfold beforeWrite
  (try dsimp only)
  repeat' first | split | (with_reducible refine canon_foldl _ ?_ _ _ ?_) | (with_reducible refine canon_foldl1 _ ?_ _ _ ?_) | (with_reducible refine canon_foldl2 _ ?_ _ _ ?_) | (with_reducible refine loaded_foldl _ ?_ _ _ ?_) | (with_reducible refine steps_foldl _ ?_ _ _ ?_) | (with_reducible refine canon_getD ?_ ?_) | (intro _ _ _; try dsimp only) | (intro _ _; try dsimp only) | (intro _; try dsimp only)
  all_goals try simp (maxDischargeDepth := 20) +contextual [*]
@[simp] theorem homeTouch_canon (s : State) (part line : Nat) (write : Bool) (hs : Canon s) : Canon (homeTouch s part line write) := by
  unfold homeTouch
  (try dsimp only)
  repeat' first | split | (with_reducible refine canon_foldl _ ?_ _ _ ?_) | (with_reducible refine canon_foldl1 _ ?_ _ _ ?_) | (with_reducible refine canon_foldl2 _ ?_ _ _ ?_) | (with_reducible refine loaded_foldl _ ?_ _ _ ?_) | (with_reducible refine steps_foldl _ ?_ _ _ ?_) | (with_reducible refine canon_getD ?_ ?_) | (intro _ _ _; try dsimp only) | (intro _ _; try dsimp only) | (intro _; try dsimp only)
  all_goals try simp (maxDischargeDepth := 20) +contextual [*]
@[simp] theorem homeWrite_canon (s : State) (launch : DWord) (ia : Nat) (bs : List Byte) (hs : Canon s) : Canon (homeWrite s launch ia bs) := by
  unfold homeWrite
  (try dsimp only)
  repeat' first | split | (with_reducible refine canon_foldl _ ?_ _ _ ?_) | (with_reducible refine canon_foldl1 _ ?_ _ _ ?_) | (with_reducible refine canon_foldl2 _ ?_ _ _ ?_) | (with_reducible refine loaded_foldl _ ?_ _ _ ?_) | (with_reducible refine steps_foldl _ ?_ _ _ ?_) | (with_reducible refine canon_getD ?_ ?_) | (intro _ _ _; try dsimp only) | (intro _ _; try dsimp only) | (intro _; try dsimp only)
  all_goals try simp (maxDischargeDepth := 20) +contextual [*]
@[simp] theorem homeMeta_canon (s : State) (part : Nat) (launch : DWord) (ia : Nat) (f : BitVec 16 → BitVec 16) (hs : Canon s) : Canon (homeMeta s part launch ia f) := by
  unfold homeMeta
  (try dsimp only)
  repeat' first | split | (with_reducible refine canon_foldl _ ?_ _ _ ?_) | (with_reducible refine canon_foldl1 _ ?_ _ _ ?_) | (with_reducible refine canon_foldl2 _ ?_ _ _ ?_) | (with_reducible refine loaded_foldl _ ?_ _ _ ?_) | (with_reducible refine steps_foldl _ ?_ _ _ ?_) | (with_reducible refine canon_getD ?_ ?_) | (intro _ _ _; try dsimp only) | (intro _ _; try dsimp only) | (intro _; try dsimp only)
  all_goals try simp (maxDischargeDepth := 20) +contextual [*]
@[simp] theorem hardWrite_canon (s : State) (launch : DWord) (ia : Nat) (bs : List Byte) (hs : Canon s) : Canon (hardWrite s launch ia bs) := by
  unfold hardWrite
  (try dsimp only)
  repeat' first | split | (with_reducible refine canon_foldl _ ?_ _ _ ?_) | (with_reducible refine canon_foldl1 _ ?_ _ _ ?_) | (with_reducible refine canon_foldl2 _ ?_ _ _ ?_) | (with_reducible refine loaded_foldl _ ?_ _ _ ?_) | (with_reducible refine steps_foldl _ ?_ _ _ ?_) | (with_reducible refine canon_getD ?_ ?_) | (intro _ _ _; try dsimp only) | (intro _ _; try dsimp only) | (intro _; try dsimp only)
  all_goals try simp (maxDischargeDepth := 20) +contextual [*]

/-! ### Applying -/

@[simp] theorem applyReplica_canon (s : State) (f : Flight) (d : Nat) (hs : Canon s) : Canon (applyReplica s f d) := by
  unfold applyReplica
  (try dsimp only)
  repeat' first | split | (with_reducible refine canon_foldl _ ?_ _ _ ?_) | (with_reducible refine canon_foldl1 _ ?_ _ _ ?_) | (with_reducible refine canon_foldl2 _ ?_ _ _ ?_) | (with_reducible refine loaded_foldl _ ?_ _ _ ?_) | (with_reducible refine steps_foldl _ ?_ _ _ ?_) | (with_reducible refine runWord_canon _ _ _ ?_ ?_) | (with_reducible refine crossWord_canon _ _ _ ?_ ?_) | (with_reducible refine issue_canon _ _ _ _ ?_ ?_ ?_) | (with_reducible refine access_canon _ _ _ _ ?_ ?_ ?_) | (with_reducible refine bufAccess_canon _ _ _ _ ?_ ?_ ?_) | (with_reducible refine canon_getD ?_ ?_) | (intro _ _ _; try dsimp only) | (intro _ _; try dsimp only) | (intro _; try dsimp only)
  all_goals try simp (maxDischargeDepth := 20) +contextual [*]
@[simp] theorem setSharer_canon (s : State) (line d : Nat) (on : Bool) (hs : Canon s) : Canon (setSharer s line d on) := by
  unfold setSharer
  (try dsimp only)
  repeat' first | split | (with_reducible refine canon_foldl _ ?_ _ _ ?_) | (with_reducible refine canon_foldl1 _ ?_ _ _ ?_) | (with_reducible refine canon_foldl2 _ ?_ _ _ ?_) | (with_reducible refine loaded_foldl _ ?_ _ _ ?_) | (with_reducible refine steps_foldl _ ?_ _ _ ?_) | (with_reducible refine runWord_canon _ _ _ ?_ ?_) | (with_reducible refine crossWord_canon _ _ _ ?_ ?_) | (with_reducible refine issue_canon _ _ _ _ ?_ ?_ ?_) | (with_reducible refine access_canon _ _ _ _ ?_ ?_ ?_) | (with_reducible refine bufAccess_canon _ _ _ _ ?_ ?_ ?_) | (with_reducible refine canon_getD ?_ ?_) | (intro _ _ _; try dsimp only) | (intro _ _; try dsimp only) | (intro _; try dsimp only)
  all_goals try simp (maxDischargeDepth := 20) +contextual [*]
@[simp] theorem applyWrite_canon (s : State) (n d : Nat) (hs : Canon s) : Canon (applyWrite s n d) := by
  unfold applyWrite
  (try dsimp only)
  repeat' first | split | (with_reducible refine canon_foldl _ ?_ _ _ ?_) | (with_reducible refine canon_foldl1 _ ?_ _ _ ?_) | (with_reducible refine canon_foldl2 _ ?_ _ _ ?_) | (with_reducible refine loaded_foldl _ ?_ _ _ ?_) | (with_reducible refine steps_foldl _ ?_ _ _ ?_) | (with_reducible refine runWord_canon _ _ _ ?_ ?_) | (with_reducible refine crossWord_canon _ _ _ ?_ ?_) | (with_reducible refine issue_canon _ _ _ _ ?_ ?_ ?_) | (with_reducible refine access_canon _ _ _ _ ?_ ?_ ?_) | (with_reducible refine bufAccess_canon _ _ _ _ ?_ ?_ ?_) | (with_reducible refine canon_getD ?_ ?_) | (intro _ _ _; try dsimp only) | (intro _ _; try dsimp only) | (intro _; try dsimp only)
  all_goals try simp (maxDischargeDepth := 20) +contextual [*]
@[simp] theorem catchUp_canon (s : State) (d : Nat) (hs : Canon s) : Canon (catchUp s d) := by
  unfold catchUp
  (try dsimp only)
  repeat' first | split | (with_reducible refine canon_foldl _ ?_ _ _ ?_) | (with_reducible refine canon_foldl1 _ ?_ _ _ ?_) | (with_reducible refine canon_foldl2 _ ?_ _ _ ?_) | (with_reducible refine loaded_foldl _ ?_ _ _ ?_) | (with_reducible refine steps_foldl _ ?_ _ _ ?_) | (with_reducible refine canon_getD ?_ ?_) | (intro _ _ _; try dsimp only) | (intro _ _; try dsimp only) | (intro _; try dsimp only)
  all_goals try simp (maxDischargeDepth := 20) +contextual [*]

/-! ### Lookup -/

@[simp] theorem emitWave_canon (s : State) (w : Wave) (typ size : Nat) (m : Mask) (pc : Pc) (body : Nat) (hs : Canon s) : Canon (emitWave s w typ size m pc body) := by
  unfold emitWave
  (try dsimp only)
  repeat' first | split | (with_reducible refine canon_foldl _ ?_ _ _ ?_) | (with_reducible refine canon_foldl1 _ ?_ _ _ ?_) | (with_reducible refine canon_foldl2 _ ?_ _ _ ?_) | (with_reducible refine loaded_foldl _ ?_ _ _ ?_) | (with_reducible refine steps_foldl _ ?_ _ _ ?_) | (with_reducible refine canon_getD ?_ ?_) | (intro _ _ _; try dsimp only) | (intro _ _; try dsimp only) | (intro _; try dsimp only)
  all_goals try simp (maxDischargeDepth := 20) +contextual [*]
@[simp] theorem signalGroup_canon (s : State) (g : Nat) (hs : Canon s) : Canon (signalGroup s g) := by
  unfold signalGroup
  (try dsimp only)
  repeat' first | split | (with_reducible refine canon_foldl _ ?_ _ _ ?_) | (with_reducible refine canon_foldl1 _ ?_ _ _ ?_) | (with_reducible refine canon_foldl2 _ ?_ _ _ ?_) | (with_reducible refine loaded_foldl _ ?_ _ _ ?_) | (with_reducible refine steps_foldl _ ?_ _ _ ?_) | (with_reducible refine canon_getD ?_ ?_) | (intro _ _ _; try dsimp only) | (intro _ _; try dsimp only) | (intro _; try dsimp only)
  all_goals try simp (maxDischargeDepth := 20) +contextual [*]
@[simp] theorem endScout_canon (s : State) (wid : Nat) (hs : Canon s) : Canon (endScout s wid) := by
  unfold endScout
  (try dsimp only)
  repeat' first | split | (with_reducible refine canon_foldl _ ?_ _ _ ?_) | (with_reducible refine canon_foldl1 _ ?_ _ _ ?_) | (with_reducible refine canon_foldl2 _ ?_ _ _ ?_) | (with_reducible refine loaded_foldl _ ?_ _ _ ?_) | (with_reducible refine steps_foldl _ ?_ _ _ ?_) | (with_reducible refine canon_getD ?_ ?_) | (intro _ _ _; try dsimp only) | (intro _ _; try dsimp only) | (intro _; try dsimp only)
  all_goals try simp (maxDischargeDepth := 20) +contextual [*]
@[simp] theorem noteClock_canon (s : State) (g : Nat) (c : Clock) (hs : Canon s) : Canon (noteClock s g c) := by
  unfold noteClock
  (try dsimp only)
  repeat' first | split | (with_reducible refine canon_foldl _ ?_ _ _ ?_) | (with_reducible refine canon_foldl1 _ ?_ _ _ ?_) | (with_reducible refine canon_foldl2 _ ?_ _ _ ?_) | (with_reducible refine loaded_foldl _ ?_ _ _ ?_) | (with_reducible refine steps_foldl _ ?_ _ _ ?_) | (with_reducible refine canon_getD ?_ ?_) | (intro _ _ _; try dsimp only) | (intro _ _; try dsimp only) | (intro _; try dsimp only)
  all_goals try simp (maxDischargeDepth := 20) +contextual [*]
@[simp] theorem unpark_canon (s0 : State) (wid : Nat) (l : Lane) (sat : Bool) (clock : Clock) (hs0 : Canon s0) : Canon (unpark s0 wid l sat clock) := by
  unfold unpark
  (try dsimp only)
  repeat' first | split | (with_reducible refine canon_foldl _ ?_ _ _ ?_) | (with_reducible refine canon_foldl1 _ ?_ _ _ ?_) | (with_reducible refine canon_foldl2 _ ?_ _ _ ?_) | (with_reducible refine loaded_foldl _ ?_ _ _ ?_) | (with_reducible refine steps_foldl _ ?_ _ _ ?_) | (with_reducible refine canon_getD ?_ ?_) | (intro _ _ _; try dsimp only) | (intro _ _; try dsimp only) | (intro _; try dsimp only)
  all_goals try simp (maxDischargeDepth := 20) +contextual [*]

/-! ### Campion -/

@[simp] theorem signalOwner_canon (s : State) (e : Campion) (hs : Canon s) : Canon (signalOwner s e) := by
  unfold signalOwner
  (try dsimp only)
  repeat' first | split | (with_reducible refine canon_foldl _ ?_ _ _ ?_) | (with_reducible refine canon_foldl1 _ ?_ _ _ ?_) | (with_reducible refine canon_foldl2 _ ?_ _ _ ?_) | (with_reducible refine loaded_foldl _ ?_ _ _ ?_) | (with_reducible refine steps_foldl _ ?_ _ _ ?_) | (with_reducible refine canon_getD ?_ ?_) | (intro _ _ _; try dsimp only) | (intro _ _; try dsimp only) | (intro _; try dsimp only)
  all_goals try simp (maxDischargeDepth := 20) +contextual [*]
@[simp] theorem signalOwners_canon (s : State) (tenant : Nat) (hs : Canon s) : Canon (signalOwners s tenant) := by
  unfold signalOwners
  (try dsimp only)
  repeat' first | split | (with_reducible refine canon_foldl _ ?_ _ _ ?_) | (with_reducible refine canon_foldl1 _ ?_ _ _ ?_) | (with_reducible refine canon_foldl2 _ ?_ _ _ ?_) | (with_reducible refine loaded_foldl _ ?_ _ _ ?_) | (with_reducible refine steps_foldl _ ?_ _ _ ?_) | (with_reducible refine canon_getD ?_ ?_) | (intro _ _ _; try dsimp only) | (intro _ _; try dsimp only) | (intro _; try dsimp only)
  all_goals try simp (maxDischargeDepth := 20) +contextual [*]
@[simp] theorem campionRequest_canon (s : State) (tenant wave : Nat) (x : Lane × BitVec 6 × BitVec 12) (hs : Canon s) : Canon (campionRequest s tenant wave x) := by
  unfold campionRequest
  (try dsimp only)
  repeat' first | split | (with_reducible refine canon_foldl _ ?_ _ _ ?_) | (with_reducible refine canon_foldl1 _ ?_ _ _ ?_) | (with_reducible refine canon_foldl2 _ ?_ _ _ ?_) | (with_reducible refine loaded_foldl _ ?_ _ _ ?_) | (with_reducible refine steps_foldl _ ?_ _ _ ?_) | (with_reducible refine canon_getD ?_ ?_) | (intro _ _ _; try dsimp only) | (intro _ _; try dsimp only) | (intro _; try dsimp only)
  all_goals try simp (maxDischargeDepth := 20) +contextual [*]
@[simp] theorem campionNext_canon (s : State) (tenant : Nat) (c : BitVec 6) (clock : Clock) (hs : Canon s) : Canon (campionNext s tenant c clock) := by
  unfold campionNext
  (try dsimp only)
  repeat' first | split | (with_reducible refine canon_foldl _ ?_ _ _ ?_) | (with_reducible refine canon_foldl1 _ ?_ _ _ ?_) | (with_reducible refine canon_foldl2 _ ?_ _ _ ?_) | (with_reducible refine loaded_foldl _ ?_ _ _ ?_) | (with_reducible refine steps_foldl _ ?_ _ _ ?_) | (with_reducible refine canon_getD ?_ ?_) | (intro _ _ _; try dsimp only) | (intro _ _; try dsimp only) | (intro _; try dsimp only)
  all_goals try simp (maxDischargeDepth := 20) +contextual [*]
@[simp] theorem campionRelease_canon (s : State) (tenant wave : Nat) (l : Lane) (c : BitVec 6) (clock : Clock) (hs : Canon s) : Canon (campionRelease s tenant wave l c clock) := by
  unfold campionRelease
  (try dsimp only)
  repeat' first | split | (with_reducible refine canon_foldl _ ?_ _ _ ?_) | (with_reducible refine canon_foldl1 _ ?_ _ _ ?_) | (with_reducible refine canon_foldl2 _ ?_ _ _ ?_) | (with_reducible refine loaded_foldl _ ?_ _ _ ?_) | (with_reducible refine steps_foldl _ ?_ _ _ ?_) | (with_reducible refine canon_getD ?_ ?_) | (intro _ _ _; try dsimp only) | (intro _ _; try dsimp only) | (intro _; try dsimp only)
  all_goals try simp (maxDischargeDepth := 20) +contextual [*]
@[simp] theorem withdraw_canon (s : State) (wave : Nat) (l : Lane) (hs : Canon s) : Canon (withdraw s wave l) := by
  unfold withdraw
  (try dsimp only)
  repeat' first | split | (with_reducible refine canon_foldl _ ?_ _ _ ?_) | (with_reducible refine canon_foldl1 _ ?_ _ _ ?_) | (with_reducible refine canon_foldl2 _ ?_ _ _ ?_) | (with_reducible refine loaded_foldl _ ?_ _ _ ?_) | (with_reducible refine steps_foldl _ ?_ _ _ ?_) | (with_reducible refine canon_getD ?_ ?_) | (intro _ _ _; try dsimp only) | (intro _ _; try dsimp only) | (intro _; try dsimp only)
  all_goals try simp (maxDischargeDepth := 20) +contextual [*]
@[simp] theorem freeMonitors_canon (s : State) (mine : Nat → Bool) (hs : Canon s) : Canon (freeMonitors s mine) := by
  unfold freeMonitors
  (try dsimp only)
  repeat' first | split | (with_reducible refine canon_foldl _ ?_ _ _ ?_) | (with_reducible refine canon_foldl1 _ ?_ _ _ ?_) | (with_reducible refine canon_foldl2 _ ?_ _ _ ?_) | (with_reducible refine loaded_foldl _ ?_ _ _ ?_) | (with_reducible refine steps_foldl _ ?_ _ _ ?_) | (with_reducible refine canon_getD ?_ ?_) | (intro _ _ _; try dsimp only) | (intro _ _; try dsimp only) | (intro _; try dsimp only)
  all_goals try simp (maxDischargeDepth := 20) +contextual [*]
@[simp] theorem deliverGrant_canon (st : State) (g : Grant) (hst : Canon st) : Canon (deliverGrant st g) := by
  unfold deliverGrant
  (try dsimp only)
  repeat' first | split | (with_reducible refine canon_foldl _ ?_ _ _ ?_) | (with_reducible refine canon_foldl1 _ ?_ _ _ ?_) | (with_reducible refine canon_foldl2 _ ?_ _ _ ?_) | (with_reducible refine loaded_foldl _ ?_ _ _ ?_) | (with_reducible refine steps_foldl _ ?_ _ _ ?_) | (with_reducible refine canon_getD ?_ ?_) | (intro _ _ _; try dsimp only) | (intro _ _; try dsimp only) | (intro _; try dsimp only)
  all_goals try simp (maxDischargeDepth := 20) +contextual [*]

/-! ### Watch -/

@[simp] theorem hitCount_canon (s : State) (a : Access) (w : Wave) (scope : WScope) (slot die core : Nat) (ctl : DWord) (hs : Canon s) : Canon (hitCount s a w scope slot die core ctl) := by
  unfold hitCount
  (try dsimp only)
  repeat' first | split | (with_reducible refine canon_foldl _ ?_ _ _ ?_) | (with_reducible refine canon_foldl1 _ ?_ _ _ ?_) | (with_reducible refine canon_foldl2 _ ?_ _ _ ?_) | (with_reducible refine loaded_foldl _ ?_ _ _ ?_) | (with_reducible refine steps_foldl _ ?_ _ _ ?_) | (with_reducible refine canon_getD ?_ ?_) | (intro _ _ _; try dsimp only) | (intro _ _; try dsimp only) | (intro _; try dsimp only)
  all_goals try simp (maxDischargeDepth := 20) +contextual [*]
@[simp] theorem hitStop_canon (s : State) (a : Access) (w : Wave) (ctl : DWord) (hs : Canon s) : Canon (hitStop s a w ctl) := by
  unfold hitStop
  (try dsimp only)
  repeat' first | split | (with_reducible refine canon_foldl _ ?_ _ _ ?_) | (with_reducible refine canon_foldl1 _ ?_ _ _ ?_) | (with_reducible refine canon_foldl2 _ ?_ _ _ ?_) | (with_reducible refine loaded_foldl _ ?_ _ _ ?_) | (with_reducible refine steps_foldl _ ?_ _ _ ?_) | (with_reducible refine canon_getD ?_ ?_) | (intro _ _ _; try dsimp only) | (intro _ _; try dsimp only) | (intro _; try dsimp only)
  all_goals try simp (maxDischargeDepth := 20) +contextual [*]
@[simp] theorem takeHit_canon (s : State) (a : Access) (h : WScope × Nat × Nat × Nat × WatchSlot) (hs : Canon s) : Canon (takeHit s a h) := by
  unfold takeHit
  (try dsimp only)
  repeat' first | split | (with_reducible refine canon_foldl _ ?_ _ _ ?_) | (with_reducible refine canon_foldl1 _ ?_ _ _ ?_) | (with_reducible refine canon_foldl2 _ ?_ _ _ ?_) | (with_reducible refine loaded_foldl _ ?_ _ _ ?_) | (with_reducible refine steps_foldl _ ?_ _ _ ?_) | (with_reducible refine canon_getD ?_ ?_) | (intro _ _ _; try dsimp only) | (intro _ _; try dsimp only) | (intro _; try dsimp only)
  all_goals try simp (maxDischargeDepth := 20) +contextual [*]
@[simp] theorem watchAccess_canon (s : State) (a : Access) (hs : Canon s) : Canon (watchAccess s a) := by
  unfold watchAccess
  (try dsimp only)
  repeat' first | split | (with_reducible refine canon_foldl _ ?_ _ _ ?_) | (with_reducible refine canon_foldl1 _ ?_ _ _ ?_) | (with_reducible refine canon_foldl2 _ ?_ _ _ ?_) | (with_reducible refine loaded_foldl _ ?_ _ _ ?_) | (with_reducible refine steps_foldl _ ?_ _ _ ?_) | (with_reducible refine canon_getD ?_ ?_) | (intro _ _ _; try dsimp only) | (intro _ _; try dsimp only) | (intro _; try dsimp only)
  all_goals try simp (maxDischargeDepth := 20) +contextual [*]

/-! ### Ops -/

@[simp] theorem freeGroupSlots_canon (s : State) (g : Nat) (hs : Canon s) : Canon (freeGroupSlots s g) := by
  unfold freeGroupSlots
  (try dsimp only)
  repeat' first | split | (with_reducible refine canon_foldl _ ?_ _ _ ?_) | (with_reducible refine canon_foldl1 _ ?_ _ _ ?_) | (with_reducible refine canon_foldl2 _ ?_ _ _ ?_) | (with_reducible refine loaded_foldl _ ?_ _ _ ?_) | (with_reducible refine steps_foldl _ ?_ _ _ ?_) | (with_reducible refine canon_getD ?_ ?_) | (intro _ _ _; try dsimp only) | (intro _ _; try dsimp only) | (intro _; try dsimp only)
  all_goals try simp (maxDischargeDepth := 20) +contextual [*]
@[simp] theorem freeDieSlots_canon (s : State) (launch : DWord) (hs : Canon s) : Canon (freeDieSlots s launch) := by
  unfold freeDieSlots
  (try dsimp only)
  repeat' first | split | (with_reducible refine canon_foldl _ ?_ _ _ ?_) | (with_reducible refine canon_foldl1 _ ?_ _ _ ?_) | (with_reducible refine canon_foldl2 _ ?_ _ _ ?_) | (with_reducible refine loaded_foldl _ ?_ _ _ ?_) | (with_reducible refine steps_foldl _ ?_ _ _ ?_) | (with_reducible refine canon_getD ?_ ?_) | (intro _ _ _; try dsimp only) | (intro _ _; try dsimp only) | (intro _; try dsimp only)
  all_goals try simp (maxDischargeDepth := 20) +contextual [*]
@[simp] theorem entryDone_canon (s : State) (q : Nat) (seq : Word) (status trap : Nat) (launch : DWord) (part : Option Nat) (hs : Canon s) : Canon (entryDone s q seq status trap launch part) := by
  unfold entryDone
  (try dsimp only)
  repeat' first | split | (with_reducible refine canon_foldl _ ?_ _ _ ?_) | (with_reducible refine canon_foldl1 _ ?_ _ _ ?_) | (with_reducible refine canon_foldl2 _ ?_ _ _ ?_) | (with_reducible refine loaded_foldl _ ?_ _ _ ?_) | (with_reducible refine steps_foldl _ ?_ _ _ ?_) | (with_reducible refine canon_getD ?_ ?_) | (intro _ _ _; try dsimp only) | (intro _ _; try dsimp only) | (intro _; try dsimp only)
  all_goals try simp (maxDischargeDepth := 20) +contextual [*]
@[simp] theorem settleLaunch_canon (s : State) (id : DWord) (hs : Canon s) : Canon (settleLaunch s id) := by
  unfold settleLaunch
  (try dsimp only)
  repeat' first | split | (with_reducible refine canon_foldl _ ?_ _ _ ?_) | (with_reducible refine canon_foldl1 _ ?_ _ _ ?_) | (with_reducible refine canon_foldl2 _ ?_ _ _ ?_) | (with_reducible refine loaded_foldl _ ?_ _ _ ?_) | (with_reducible refine steps_foldl _ ?_ _ _ ?_) | (with_reducible refine canon_getD ?_ ?_) | (intro _ _ _; try dsimp only) | (intro _ _; try dsimp only) | (intro _; try dsimp only)
  all_goals try simp (maxDischargeDepth := 20) +contextual [*]
@[simp] theorem hollowFlights_canon (s : State) (p : Flight → Bool) (hs : Canon s) : Canon (hollowFlights s p) := by
  unfold hollowFlights
  (try dsimp only)
  repeat' first | split | (with_reducible refine canon_foldl _ ?_ _ _ ?_) | (with_reducible refine canon_foldl1 _ ?_ _ _ ?_) | (with_reducible refine canon_foldl2 _ ?_ _ _ ?_) | (with_reducible refine loaded_foldl _ ?_ _ _ ?_) | (with_reducible refine steps_foldl _ ?_ _ _ ?_) | (with_reducible refine canon_getD ?_ ?_) | (intro _ _ _; try dsimp only) | (intro _ _; try dsimp only) | (intro _; try dsimp only)
  all_goals try simp (maxDischargeDepth := 20) +contextual [*]
@[simp] theorem restoreSnapshot_canon (s : State) (l : Launch) (hs : Canon s) : Canon (restoreSnapshot s l) := by
  refine canon_foldl _ (fun t g ht => ?_) _ _ hs
  dsimp only
  split
  · exact ht
  · next p _ =>
    have h1 := underKey_canon _ (pageKey t p) (physIn p (64 * g)) (logLine_canon _ p.owner.n (physIn p (64 * g)) ht)
    exact dropReplicas_canon _ _ (l1DropEvery_canon _ _ (And.intro (memWf_writeN (memWf_writeN h1.1 _ _ _) _ _ _) h1.2))
@[simp] theorem restartLaunch_canon (s : State) (id : DWord) (hs : Canon s) : Canon (restartLaunch s id) := by
  unfold restartLaunch
  (try dsimp only)
  repeat' first | split | (with_reducible refine canon_foldl _ ?_ _ _ ?_) | (with_reducible refine canon_foldl1 _ ?_ _ _ ?_) | (with_reducible refine canon_foldl2 _ ?_ _ _ ?_) | (with_reducible refine loaded_foldl _ ?_ _ _ ?_) | (with_reducible refine steps_foldl _ ?_ _ _ ?_) | (with_reducible refine canon_getD ?_ ?_) | (intro _ _ _; try dsimp only) | (intro _ _; try dsimp only) | (intro _; try dsimp only)
  all_goals try simp (maxDischargeDepth := 20) +contextual [*]
@[simp] theorem removeGroup_canon (s : State) (g : Nat) (hs : Canon s) : Canon (removeGroup s g) := by
  unfold removeGroup
  (try dsimp only)
  repeat' first | split | (with_reducible refine canon_foldl _ ?_ _ _ ?_) | (with_reducible refine canon_foldl1 _ ?_ _ _ ?_) | (with_reducible refine canon_foldl2 _ ?_ _ _ ?_) | (with_reducible refine loaded_foldl _ ?_ _ _ ?_) | (with_reducible refine steps_foldl _ ?_ _ _ ?_) | (with_reducible refine canon_getD ?_ ?_) | (intro _ _ _; try dsimp only) | (intro _ _; try dsimp only) | (intro _; try dsimp only)
  all_goals try simp (maxDischargeDepth := 20) +contextual [*]
@[simp] theorem reap_canon (s : State) (g : Nat) (hs : Canon s) : Canon (reap s g) := by
  unfold reap
  (try dsimp only)
  repeat' first | split | (with_reducible refine canon_foldl _ ?_ _ _ ?_) | (with_reducible refine canon_foldl1 _ ?_ _ _ ?_) | (with_reducible refine canon_foldl2 _ ?_ _ _ ?_) | (with_reducible refine loaded_foldl _ ?_ _ _ ?_) | (with_reducible refine steps_foldl _ ?_ _ _ ?_) | (with_reducible refine canon_getD ?_ ?_) | (intro _ _ _; try dsimp only) | (intro _ _; try dsimp only) | (intro _; try dsimp only)
  all_goals try simp (maxDischargeDepth := 20) +contextual [*]
@[simp] theorem groupFinish_canon (s : State) (g : Nat) (hs : Canon s) : Canon (groupFinish s g) := by
  unfold groupFinish
  (try dsimp only)
  repeat' first | split | (with_reducible refine canon_foldl _ ?_ _ _ ?_) | (with_reducible refine canon_foldl1 _ ?_ _ _ ?_) | (with_reducible refine canon_foldl2 _ ?_ _ _ ?_) | (with_reducible refine loaded_foldl _ ?_ _ _ ?_) | (with_reducible refine steps_foldl _ ?_ _ _ ?_) | (with_reducible refine canon_getD ?_ ?_) | (intro _ _ _; try dsimp only) | (intro _ _; try dsimp only) | (intro _; try dsimp only)
  all_goals try simp (maxDischargeDepth := 20) +contextual [*]
@[simp] theorem barrierCheck_canon (s : State) (g : Nat) (hs : Canon s) : Canon (barrierCheck s g) := by
  unfold barrierCheck
  (try dsimp only)
  repeat' first | split | (with_reducible refine canon_foldl _ ?_ _ _ ?_) | (with_reducible refine canon_foldl1 _ ?_ _ _ ?_) | (with_reducible refine canon_foldl2 _ ?_ _ _ ?_) | (with_reducible refine loaded_foldl _ ?_ _ _ ?_) | (with_reducible refine steps_foldl _ ?_ _ _ ?_) | (with_reducible refine canon_getD ?_ ?_) | (intro _ _ _; try dsimp only) | (intro _ _; try dsimp only) | (intro _; try dsimp only)
  all_goals try simp (maxDischargeDepth := 20) +contextual [*]
@[simp] theorem endTasks_canon (s : State) (gs : List Group) (id : DWord) (part status trap : Nat) (hs : Canon s) : Canon (endTasks s gs id part status trap) := by
  unfold endTasks
  (try dsimp only)
  repeat' first | split | (refine canon_foldl _ ?_ _ _ ?_) | (refine canon_foldl1 _ ?_ _ _ ?_) | (refine canon_foldl2 _ ?_ _ _ ?_) | (refine loaded_foldl _ ?_ _ _ ?_) | (refine steps_foldl _ ?_ _ _ ?_) | (refine canon_getD ?_ ?_) | (intro _ _ _; try dsimp only) | (intro _ _; try dsimp only) | (intro _; try dsimp only)
  all_goals try simp (maxDischargeDepth := 20) +contextual [*]
@[simp] theorem endStepOf_canon (s : State) (n : Nat) (tick : Nat) (hs : Canon s) : Canon (endStepOf s n tick) := by
  unfold endStepOf
  (try dsimp only)
  repeat' first | split | (with_reducible refine canon_foldl _ ?_ _ _ ?_) | (with_reducible refine canon_foldl1 _ ?_ _ _ ?_) | (with_reducible refine canon_foldl2 _ ?_ _ _ ?_) | (with_reducible refine loaded_foldl _ ?_ _ _ ?_) | (with_reducible refine steps_foldl _ ?_ _ _ ?_) | (with_reducible refine canon_getD ?_ ?_) | (intro _ _ _; try dsimp only) | (intro _ _; try dsimp only) | (intro _; try dsimp only)
  all_goals try simp (maxDischargeDepth := 20) +contextual [*]
@[simp] theorem releaseHusk_canon (s : State) (wid : Nat) (hs : Canon s) : Canon (releaseHusk s wid) := by
  unfold releaseHusk
  (try dsimp only)
  repeat' first | split | (with_reducible refine canon_foldl _ ?_ _ _ ?_) | (with_reducible refine canon_foldl1 _ ?_ _ _ ?_) | (with_reducible refine canon_foldl2 _ ?_ _ _ ?_) | (with_reducible refine loaded_foldl _ ?_ _ _ ?_) | (with_reducible refine steps_foldl _ ?_ _ _ ?_) | (with_reducible refine canon_getD ?_ ?_) | (intro _ _ _; try dsimp only) | (intro _ _; try dsimp only) | (intro _; try dsimp only)
  all_goals try simp (maxDischargeDepth := 20) +contextual [*]
@[simp] theorem dropWaits_canon (s : State) (wid : Nat) (hs : Canon s) : Canon (dropWaits s wid) := by
  unfold dropWaits
  (try dsimp only)
  repeat' first | split | (with_reducible refine canon_foldl _ ?_ _ _ ?_) | (with_reducible refine canon_foldl1 _ ?_ _ _ ?_) | (with_reducible refine canon_foldl2 _ ?_ _ _ ?_) | (with_reducible refine loaded_foldl _ ?_ _ _ ?_) | (with_reducible refine steps_foldl _ ?_ _ _ ?_) | (with_reducible refine canon_getD ?_ ?_) | (intro _ _ _; try dsimp only) | (intro _ _; try dsimp only) | (intro _; try dsimp only)
  all_goals try simp (maxDischargeDepth := 20) +contextual [*]
@[simp] theorem stopWave_canon (s0 : State) (wid : Nat) (hs0 : Canon s0) : Canon (stopWave s0 wid) := by
  unfold stopWave
  (try dsimp only)
  repeat' first | split | (with_reducible refine canon_foldl _ ?_ _ _ ?_) | (with_reducible refine canon_foldl1 _ ?_ _ _ ?_) | (with_reducible refine canon_foldl2 _ ?_ _ _ ?_) | (with_reducible refine loaded_foldl _ ?_ _ _ ?_) | (with_reducible refine steps_foldl _ ?_ _ _ ?_) | (with_reducible refine canon_getD ?_ ?_) | (intro _ _ _; try dsimp only) | (intro _ _; try dsimp only) | (intro _; try dsimp only)
  all_goals try simp (maxDischargeDepth := 20) +contextual [*]
@[simp] theorem boundaryStop_canon (s : State) (wid : Nat) (hs : Canon s) : Canon (boundaryStop s wid) := by
  unfold boundaryStop
  (try dsimp only)
  repeat' first | split | (with_reducible refine canon_foldl _ ?_ _ _ ?_) | (with_reducible refine canon_foldl1 _ ?_ _ _ ?_) | (with_reducible refine canon_foldl2 _ ?_ _ _ ?_) | (with_reducible refine loaded_foldl _ ?_ _ _ ?_) | (with_reducible refine steps_foldl _ ?_ _ _ ?_) | (with_reducible refine canon_getD ?_ ?_) | (intro _ _ _; try dsimp only) | (intro _ _; try dsimp only) | (intro _; try dsimp only)
  all_goals try simp (maxDischargeDepth := 20) +contextual [*]
@[simp] theorem endLaunch_canon (s : State) (id : DWord) (st : LaunchState) (status trap : Nat) (record : Bool) (hs : Canon s) : Canon (endLaunch s id st status trap record) := by
  unfold endLaunch
  split
  · exact hs
  · split
    · exact hs
    · extract_lets s1 s2 s3 s4
      have h1 : Canon s1 := canon_foldl _ (fun t x ht => stopWave_canon _ _ ht) _ _ (canon_foldl _ (fun t x ht => endScout_canon _ _ ht) _ _ hs)
      have h2 : Canon s2 := h1
      have h3 : Canon s3 := freeDieSlots_canon _ _ ((modLaunch_canon _ _ _).2 h2)
      have h4 : Canon s4 := endTasks_canon _ _ _ _ _ _ (by split <;> simp [h3])
      exact canon_foldl _ (fun t x ht => reap_canon _ _ ht) _ _ h4
@[simp] theorem endReplay_canon (s : State) (l : Launch) (hs : Canon s) : Canon (endReplay s l) := by
  unfold endReplay
  (try dsimp only)
  repeat' first | split | (with_reducible refine canon_foldl _ ?_ _ _ ?_) | (with_reducible refine canon_foldl1 _ ?_ _ _ ?_) | (with_reducible refine canon_foldl2 _ ?_ _ _ ?_) | (with_reducible refine loaded_foldl _ ?_ _ _ ?_) | (with_reducible refine steps_foldl _ ?_ _ _ ?_) | (with_reducible refine canon_getD ?_ ?_) | (intro _ _ _; try dsimp only) | (intro _ _; try dsimp only) | (intro _; try dsimp only)
  all_goals try simp (maxDischargeDepth := 20) +contextual [*]
@[simp] theorem killLaunch_canon (s : State) (id : DWord) (hs : Canon s) : Canon (killLaunch s id) := by
  unfold killLaunch
  (try dsimp only)
  repeat' first | split | (with_reducible refine canon_foldl _ ?_ _ _ ?_) | (with_reducible refine canon_foldl1 _ ?_ _ _ ?_) | (with_reducible refine canon_foldl2 _ ?_ _ _ ?_) | (with_reducible refine loaded_foldl _ ?_ _ _ ?_) | (with_reducible refine steps_foldl _ ?_ _ _ ?_) | (with_reducible refine canon_getD ?_ ?_) | (intro _ _ _; try dsimp only) | (intro _ _; try dsimp only) | (intro _; try dsimp only)
  all_goals try simp (maxDischargeDepth := 20) +contextual [*]
@[simp] theorem faultLaunch_canon (s : State) (id : DWord) (t : Trap) (hs : Canon s) : Canon (faultLaunch s id t) := by
  unfold faultLaunch
  (try dsimp only)
  repeat' first | split | (with_reducible refine canon_foldl _ ?_ _ _ ?_) | (with_reducible refine canon_foldl1 _ ?_ _ _ ?_) | (with_reducible refine canon_foldl2 _ ?_ _ _ ?_) | (with_reducible refine loaded_foldl _ ?_ _ _ ?_) | (with_reducible refine steps_foldl _ ?_ _ _ ?_) | (with_reducible refine canon_getD ?_ ?_) | (intro _ _ _; try dsimp only) | (intro _ _; try dsimp only) | (intro _; try dsimp only)
  all_goals try simp (maxDischargeDepth := 20) +contextual [*]
@[simp] theorem yieldSlot_canon (s : State) (wid : Nat) (hs : Canon s) : Canon (yieldSlot s wid) := by
  unfold yieldSlot
  (try dsimp only)
  repeat' first | split | (with_reducible refine canon_foldl _ ?_ _ _ ?_) | (with_reducible refine canon_foldl1 _ ?_ _ _ ?_) | (with_reducible refine canon_foldl2 _ ?_ _ _ ?_) | (with_reducible refine loaded_foldl _ ?_ _ _ ?_) | (with_reducible refine steps_foldl _ ?_ _ _ ?_) | (with_reducible refine canon_getD ?_ ?_) | (intro _ _ _; try dsimp only) | (intro _ _; try dsimp only) | (intro _; try dsimp only)
  all_goals try simp (maxDischargeDepth := 20) +contextual [*]
@[simp] theorem endStep_canon (s : State) (wid : Nat) (m : Mask) (pc : Pc) (outcome : Nat) (hs : Canon s) : Canon (endStep s wid m pc outcome) := by
  unfold endStep
  (try dsimp only)
  repeat' first | split | (with_reducible refine canon_foldl _ ?_ _ _ ?_) | (with_reducible refine canon_foldl1 _ ?_ _ _ ?_) | (with_reducible refine canon_foldl2 _ ?_ _ _ ?_) | (with_reducible refine loaded_foldl _ ?_ _ _ ?_) | (with_reducible refine steps_foldl _ ?_ _ _ ?_) | (with_reducible refine canon_getD ?_ ?_) | (intro _ _ _; try dsimp only) | (intro _ _; try dsimp only) | (intro _; try dsimp only)
  all_goals try simp (maxDischargeDepth := 20) +contextual [*]
@[simp] theorem trapWave_canon (s : State) (wid : Nat) (x : TrapInfo) (hs : Canon s) : Canon (trapWave s wid x) := by
  unfold trapWave
  (try dsimp only)
  repeat' first | split | (with_reducible refine canon_foldl _ ?_ _ _ ?_) | (with_reducible refine canon_foldl1 _ ?_ _ _ ?_) | (with_reducible refine canon_foldl2 _ ?_ _ _ ?_) | (with_reducible refine loaded_foldl _ ?_ _ _ ?_) | (with_reducible refine steps_foldl _ ?_ _ _ ?_) | (with_reducible refine canon_getD ?_ ?_) | (intro _ _ _; try dsimp only) | (intro _ _; try dsimp only) | (intro _; try dsimp only)
  all_goals try simp (maxDischargeDepth := 20) +contextual [*]
@[simp] theorem failRendezvous_canon (s : State) (g : Nat) (gang : Word) (x : Trap) (hs : Canon s) : Canon (failRendezvous s g gang x) := by
  unfold failRendezvous
  (try dsimp only)
  repeat' first | split | (with_reducible refine canon_foldl _ ?_ _ _ ?_) | (with_reducible refine canon_foldl1 _ ?_ _ _ ?_) | (with_reducible refine canon_foldl2 _ ?_ _ _ ?_) | (with_reducible refine loaded_foldl _ ?_ _ _ ?_) | (with_reducible refine steps_foldl _ ?_ _ _ ?_) | (with_reducible refine canon_getD ?_ ?_) | (intro _ _ _; try dsimp only) | (intro _ _; try dsimp only) | (intro _; try dsimp only)
  all_goals try simp (maxDischargeDepth := 20) +contextual [*]
@[simp] theorem abortRendezvous_canon (s : State) (g : Nat) (gangs : List Word) (hs : Canon s) : Canon (abortRendezvous s g gangs) := by
  unfold abortRendezvous
  (try dsimp only)
  repeat' first | split | (with_reducible refine canon_foldl _ ?_ _ _ ?_) | (with_reducible refine canon_foldl1 _ ?_ _ _ ?_) | (with_reducible refine canon_foldl2 _ ?_ _ _ ?_) | (with_reducible refine loaded_foldl _ ?_ _ _ ?_) | (with_reducible refine steps_foldl _ ?_ _ _ ?_) | (with_reducible refine canon_getD ?_ ?_) | (intro _ _ _; try dsimp only) | (intro _ _; try dsimp only) | (intro _; try dsimp only)
  all_goals try simp (maxDischargeDepth := 20) +contextual [*]
@[simp] theorem enterTrap_canon (s : State) (wid : Nat) (x : TrapInfo) (hs : Canon s) : Canon (enterTrap s wid x) := by
  unfold enterTrap
  (try dsimp only)
  repeat' first | split | (with_reducible refine canon_foldl _ ?_ _ _ ?_) | (with_reducible refine canon_foldl1 _ ?_ _ _ ?_) | (with_reducible refine canon_foldl2 _ ?_ _ _ ?_) | (with_reducible refine loaded_foldl _ ?_ _ _ ?_) | (with_reducible refine steps_foldl _ ?_ _ _ ?_) | (with_reducible refine canon_getD ?_ ?_) | (intro _ _ _; try dsimp only) | (intro _ _; try dsimp only) | (intro _; try dsimp only)
  all_goals try simp (maxDischargeDepth := 20) +contextual [*]
@[simp] theorem waveFinish_canon (s : State) (wid : Nat) (hs : Canon s) : Canon (waveFinish s wid) := by
  unfold waveFinish
  (try dsimp only)
  repeat' first | split | (with_reducible refine canon_foldl _ ?_ _ _ ?_) | (with_reducible refine canon_foldl1 _ ?_ _ _ ?_) | (with_reducible refine canon_foldl2 _ ?_ _ _ ?_) | (with_reducible refine loaded_foldl _ ?_ _ _ ?_) | (with_reducible refine steps_foldl _ ?_ _ _ ?_) | (with_reducible refine canon_getD ?_ ?_) | (intro _ _ _; try dsimp only) | (intro _ _; try dsimp only) | (intro _; try dsimp only)
  all_goals try simp (maxDischargeDepth := 20) +contextual [*]
@[simp] theorem finishWave_canon (s : State) (wid : Nat) (hs : Canon s) : Canon (finishWave s wid) := by
  unfold finishWave
  (try dsimp only)
  repeat' first | split | (with_reducible refine canon_foldl _ ?_ _ _ ?_) | (with_reducible refine canon_foldl1 _ ?_ _ _ ?_) | (with_reducible refine canon_foldl2 _ ?_ _ _ ?_) | (with_reducible refine loaded_foldl _ ?_ _ _ ?_) | (with_reducible refine steps_foldl _ ?_ _ _ ?_) | (with_reducible refine canon_getD ?_ ?_) | (intro _ _ _; try dsimp only) | (intro _ _; try dsimp only) | (intro _; try dsimp only)
  all_goals try simp (maxDischargeDepth := 20) +contextual [*]
@[simp] theorem tryFinish_canon (s : State) (wid : Nat) (hs : Canon s) : Canon (tryFinish s wid) := by
  unfold tryFinish
  (try dsimp only)
  repeat' first | split | (with_reducible refine canon_foldl _ ?_ _ _ ?_) | (with_reducible refine canon_foldl1 _ ?_ _ _ ?_) | (with_reducible refine canon_foldl2 _ ?_ _ _ ?_) | (with_reducible refine loaded_foldl _ ?_ _ _ ?_) | (with_reducible refine steps_foldl _ ?_ _ _ ?_) | (with_reducible refine canon_getD ?_ ?_) | (intro _ _ _; try dsimp only) | (intro _ _; try dsimp only) | (intro _; try dsimp only)
  all_goals try simp (maxDischargeDepth := 20) +contextual [*]
@[simp] theorem announce_canon (s : State) (f : Flight) (hs : Canon s) : Canon (announce s f) := by
  unfold announce
  (try dsimp only)
  repeat' first | split | (with_reducible refine canon_foldl _ ?_ _ _ ?_) | (with_reducible refine canon_foldl1 _ ?_ _ _ ?_) | (with_reducible refine canon_foldl2 _ ?_ _ _ ?_) | (with_reducible refine loaded_foldl _ ?_ _ _ ?_) | (with_reducible refine steps_foldl _ ?_ _ _ ?_) | (with_reducible refine canon_getD ?_ ?_) | (intro _ _ _; try dsimp only) | (intro _ _; try dsimp only) | (intro _; try dsimp only)
  all_goals try simp (maxDischargeDepth := 20) +contextual [*]
@[simp] theorem waveAccess_canon (s : State) (w : Wave) (ia : Nat) (write : Bool) (hs : Canon s) : Canon (waveAccess s w ia write) := by
  unfold waveAccess
  (try dsimp only)
  repeat' first | split | (with_reducible refine canon_foldl _ ?_ _ _ ?_) | (with_reducible refine canon_foldl1 _ ?_ _ _ ?_) | (with_reducible refine canon_foldl2 _ ?_ _ _ ?_) | (with_reducible refine loaded_foldl _ ?_ _ _ ?_) | (with_reducible refine steps_foldl _ ?_ _ _ ?_) | (with_reducible refine canon_getD ?_ ?_) | (intro _ _ _; try dsimp only) | (intro _ _; try dsimp only) | (intro _; try dsimp only)
  all_goals try simp (maxDischargeDepth := 20) +contextual [*]
@[simp] theorem waveDrop_canon (s : State) (w : Wave) (line : Nat) (hs : Canon s) : Canon (waveDrop s w line) := by
  unfold waveDrop
  (try dsimp only)
  repeat' first | split | (with_reducible refine canon_foldl _ ?_ _ _ ?_) | (with_reducible refine canon_foldl1 _ ?_ _ _ ?_) | (with_reducible refine canon_foldl2 _ ?_ _ _ ?_) | (with_reducible refine loaded_foldl _ ?_ _ _ ?_) | (with_reducible refine steps_foldl _ ?_ _ _ ?_) | (with_reducible refine canon_getD ?_ ?_) | (intro _ _ _; try dsimp only) | (intro _ _; try dsimp only) | (intro _; try dsimp only)
  all_goals try simp (maxDischargeDepth := 20) +contextual [*]
@[simp] theorem placeWrite_canon (s0 : State) (o : Nat) (f : Flight) (hs0 : Canon s0) : Canon (placeWrite s0 o f) := by
  unfold placeWrite
  (try dsimp only)
  repeat' first | split | (with_reducible refine canon_foldl _ ?_ _ _ ?_) | (with_reducible refine canon_foldl1 _ ?_ _ _ ?_) | (with_reducible refine canon_foldl2 _ ?_ _ _ ?_) | (with_reducible refine loaded_foldl _ ?_ _ _ ?_) | (with_reducible refine steps_foldl _ ?_ _ _ ?_) | (with_reducible refine canon_getD ?_ ?_) | (intro _ _ _; try dsimp only) | (intro _ _; try dsimp only) | (intro _; try dsimp only)
  all_goals try simp (maxDischargeDepth := 20) +contextual [*]
@[simp] theorem counterWrite_canon (s : State) (o : Nat) (w : Wave) (l : Lane) (pc : Pc) (exec : Mask) (ptr : DWord) (ia : Nat) (x : Word) (hs : Canon s) : Canon (counterWrite s o w l pc exec ptr ia x) := by
  unfold counterWrite
  (try dsimp only)
  repeat' first | split | (with_reducible refine canon_foldl _ ?_ _ _ ?_) | (with_reducible refine canon_foldl1 _ ?_ _ _ ?_) | (with_reducible refine canon_foldl2 _ ?_ _ _ ?_) | (with_reducible refine loaded_foldl _ ?_ _ _ ?_) | (with_reducible refine steps_foldl _ ?_ _ _ ?_) | (with_reducible refine canon_getD ?_ ?_) | (intro _ _ _; try dsimp only) | (intro _ _; try dsimp only) | (intro _; try dsimp only)
  all_goals try simp (maxDischargeDepth := 20) +contextual [*]
@[simp] theorem counterWatch_canon (s : State) (w : Wave) (l : Lane) (pc : Pc) (exec : Mask) (ptr : DWord) (ia n : Nat) (h : Bool) (hs : Canon s) : Canon (counterWatch s w l pc exec ptr ia n h) := by
  unfold counterWatch
  (try dsimp only)
  repeat' first | split | (with_reducible refine canon_foldl _ ?_ _ _ ?_) | (with_reducible refine canon_foldl1 _ ?_ _ _ ?_) | (with_reducible refine canon_foldl2 _ ?_ _ _ ?_) | (with_reducible refine loaded_foldl _ ?_ _ _ ?_) | (with_reducible refine steps_foldl _ ?_ _ _ ?_) | (with_reducible refine canon_getD ?_ ?_) | (intro _ _ _; try dsimp only) | (intro _ _; try dsimp only) | (intro _; try dsimp only)
  all_goals try simp (maxDischargeDepth := 20) +contextual [*]
@[simp] theorem wakeJoins_canon (s : State) (ia : Nat) (hs : Canon s) : Canon (wakeJoins s ia) := by
  unfold wakeJoins
  (try dsimp only)
  repeat' first | split | (with_reducible refine canon_foldl _ ?_ _ _ ?_) | (with_reducible refine canon_foldl1 _ ?_ _ _ ?_) | (with_reducible refine canon_foldl2 _ ?_ _ _ ?_) | (with_reducible refine loaded_foldl _ ?_ _ _ ?_) | (with_reducible refine steps_foldl _ ?_ _ _ ?_) | (with_reducible refine canon_getD ?_ ?_) | (intro _ _ _; try dsimp only) | (intro _ _; try dsimp only) | (intro _; try dsimp only)
  all_goals try simp (maxDischargeDepth := 20) +contextual [*]
@[simp] theorem joinStep_canon (w : Wave) (t : State) (j : JoinDue) (ht : Canon t) : Canon (joinStep w t j) := by
  unfold joinStep
  (try dsimp only)
  repeat' first | split | (with_reducible refine canon_foldl _ ?_ _ _ ?_) | (with_reducible refine canon_foldl1 _ ?_ _ _ ?_) | (with_reducible refine canon_foldl2 _ ?_ _ _ ?_) | (with_reducible refine loaded_foldl _ ?_ _ _ ?_) | (with_reducible refine steps_foldl _ ?_ _ _ ?_) | (with_reducible refine canon_getD ?_ ?_) | (intro _ _ _; try dsimp only) | (intro _ _; try dsimp only) | (intro _; try dsimp only)
  all_goals try simp (maxDischargeDepth := 20) +contextual [*]
@[simp] theorem flushJoins_canon (s : State) (wid : Nat) (hs : Canon s) : Canon (flushJoins s wid) := by
  unfold flushJoins
  (try dsimp only)
  repeat' first | split | (with_reducible refine canon_foldl _ ?_ _ _ ?_) | (with_reducible refine canon_foldl1 _ ?_ _ _ ?_) | (with_reducible refine canon_foldl2 _ ?_ _ _ ?_) | (with_reducible refine loaded_foldl _ ?_ _ _ ?_) | (with_reducible refine steps_foldl _ ?_ _ _ ?_) | (with_reducible refine canon_getD ?_ ?_) | (intro _ _ _; try dsimp only) | (intro _ _; try dsimp only) | (intro _; try dsimp only)
  all_goals try simp (maxDischargeDepth := 20) +contextual [*]
@[simp] theorem endDouble_canon (s : State) (w : Wave) (a : Aside) (hs : Canon s) : Canon (endDouble s w a) := by
  unfold endDouble
  (try dsimp only)
  repeat' first | split | (with_reducible refine canon_foldl _ ?_ _ _ ?_) | (with_reducible refine canon_foldl1 _ ?_ _ _ ?_) | (with_reducible refine canon_foldl2 _ ?_ _ _ ?_) | (with_reducible refine loaded_foldl _ ?_ _ _ ?_) | (with_reducible refine steps_foldl _ ?_ _ _ ?_) | (with_reducible refine canon_getD ?_ ?_) | (intro _ _ _; try dsimp only) | (intro _ _; try dsimp only) | (intro _; try dsimp only)
  all_goals try simp (maxDischargeDepth := 20) +contextual [*]
@[simp] theorem handlerEnd_canon (s : State) (wid : Nat) (hs : Canon s) : Canon (handlerEnd s wid) := by
  unfold handlerEnd
  (try dsimp only)
  repeat' first | split | (with_reducible refine canon_foldl _ ?_ _ _ ?_) | (with_reducible refine canon_foldl1 _ ?_ _ _ ?_) | (with_reducible refine canon_foldl2 _ ?_ _ _ ?_) | (with_reducible refine loaded_foldl _ ?_ _ _ ?_) | (with_reducible refine steps_foldl _ ?_ _ _ ?_) | (with_reducible refine canon_getD ?_ ?_) | (intro _ _ _; try dsimp only) | (intro _ _; try dsimp only) | (intro _; try dsimp only)
  all_goals try simp (maxDischargeDepth := 20) +contextual [*]

/-! ### Recovery -/

@[simp] theorem saveGroup_canon (s0 : State) (g : Nat) (hs0 : Canon s0) : Canon (saveGroup s0 g) := by
  unfold saveGroup
  (try dsimp only)
  repeat' first | split | (refine canon_foldl _ ?_ _ _ ?_) | (refine canon_foldl1 _ ?_ _ _ ?_) | (refine canon_foldl2 _ ?_ _ _ ?_) | (refine loaded_foldl _ ?_ _ _ ?_) | (refine steps_foldl _ ?_ _ _ ?_) | (refine canon_getD ?_ ?_) | (intro _ _ _; try dsimp only) | (intro _ _; try dsimp only) | (intro _; try dsimp only)
  all_goals try simp (maxDischargeDepth := 20) +contextual [*]
theorem memWf_restoreMemory {s : State} {p : Part} {i : MarkImage} (hs : Canon s) (hi : committedImage s p = some i) :
    memWf (restoreMemory s p i) = true := by
  unfold restoreMemory
  extract_lets others own base kept
  refine memWf_foldl _ (fun m q hm => ?_) _ _ ?_
  · refine memWf_foldl _ (fun m k hm => ?_) _ _ hm
    split
    · refine memWf_foldl _ (fun m b hm => ?_) _ _ hm
      split
      · split
        · exact memWf_writeByte hm _ _
        · exact hm
      · exact hm
    · exact hm
  · exact memWf_foldl _ (fun m c hm => memWf_writeByte hm _ _) _ _ (memWf_filter hs.1 _)
@[simp] theorem rollback_canon (s : State) (part : Nat) (hs : Canon s) : Canon (rollback s part) := by
  unfold rollback
  split
  · exact hs
  · split
    · exact hs
    · next p hp i hi =>
      extract_lets mine resident back theirs gone free s0 s1 s2 s3
      have h0 : Canon s0 := hollowFlights_canon _ _ hs
      have h1 : Canon s1 := And.intro (memWf_restoreMemory hs hi) (fun x hx => hs.2 x (List.mem_filter.1 hx).1)
      have h2 : Canon s2 := (modPart_canon _ _ _).2 h1
      have h3 : Canon s3 := canon_foldl _ (fun t g ht => signalGroup_canon _ _ (saveGroup_canon _ _ ht)) _ _ (pinLines_canon _ h2)
      exact emitTeasel_canon _ _ _ _ h3
@[simp] theorem consumeError_canon (s : State) (id name : DWord) (spn : Bool) (what : Struck) (hs : Canon s) : Canon (consumeError s id name spn what) := by
  unfold consumeError
  (try dsimp only)
  repeat' first | split | (with_reducible refine canon_foldl _ ?_ _ _ ?_) | (with_reducible refine canon_foldl1 _ ?_ _ _ ?_) | (with_reducible refine canon_foldl2 _ ?_ _ _ ?_) | (with_reducible refine loaded_foldl _ ?_ _ _ ?_) | (with_reducible refine steps_foldl _ ?_ _ _ ?_) | (with_reducible refine canon_getD ?_ ?_) | (intro _ _ _; try dsimp only) | (intro _ _; try dsimp only) | (intro _; try dsimp only)
  all_goals try simp (maxDischargeDepth := 20) +contextual [*]
@[simp] theorem consumeBy_canon (s : State) (w : Wave) (m : Mask) (what : Struck) (hs : Canon s) : Canon (consumeBy s w m what) := by
  unfold consumeBy
  (try dsimp only)
  repeat' first | split | (with_reducible refine canon_foldl _ ?_ _ _ ?_) | (with_reducible refine canon_foldl1 _ ?_ _ _ ?_) | (with_reducible refine canon_foldl2 _ ?_ _ _ ?_) | (with_reducible refine loaded_foldl _ ?_ _ _ ?_) | (with_reducible refine steps_foldl _ ?_ _ _ ?_) | (with_reducible refine canon_getD ?_ ?_) | (intro _ _ _; try dsimp only) | (intro _ _; try dsimp only) | (intro _; try dsimp only)
  all_goals try simp (maxDischargeDepth := 20) +contextual [*]
theorem inImages_canon {s : State} {f : MarkImage → MarkImage} (hs : Canon s) (hf : ∀ i, memWf i.mem = true → memWf (f i).mem = true) :
    Canon (inImages s f) := by
  refine And.intro hs.1 (fun i hi => ?_)
  obtain ⟨j, hj, rfl⟩ := List.mem_map.1 hi
  exact hf j (hs.2 j hj)
@[simp] theorem imageWrite_canon (s : State) (a : Nat) (bs : List Byte) (hs : Canon s) : Canon (imageWrite s a bs) := by
  exact inImages_canon hs (fun i hi => memWf_writeBytes hi _ _)
@[simp] theorem writeCompletion_canon (s : State) (q : Queue) (x : Ended) (hs : Canon s) : Canon (writeCompletion s q x) := by
  unfold writeCompletion
  extract_lets a b s1 gone report s2
  have h1 : Canon s1 := hardWrite_canon _ _ _ _ hs
  have h2 : Canon s2 := inImages_canon ((modQueue_canon _ _ _).2 h1) (fun i hi => by
    dsimp only
    split
    · exact memWf_writeBytes hi _ _
    · exact hi)
  split
  · exact h2
  · exact (answer_canon _ _).2 h2
@[simp] theorem advanceHead_canon (n : Nat) (s : State) (k : Nat) (hs : Canon s) : Canon (advanceHead n s k) := by
  induction n generalizing s with
  | zero => exact hs
  | succ n ih =>
    simp only [advanceHead]
    repeat' first | exact hs | split | exact ih _ (by simp [hs])

/-! ### Operands -/

@[simp] theorem gSet_canon (s : State) (w : Wave) (n : Nat) (x : Word) (hs : Canon s) : Canon (gSet s w n x) := by
  unfold gSet
  (try dsimp only)
  repeat' first | split | (with_reducible refine canon_foldl _ ?_ _ _ ?_) | (with_reducible refine canon_foldl1 _ ?_ _ _ ?_) | (with_reducible refine canon_foldl2 _ ?_ _ _ ?_) | (with_reducible refine loaded_foldl _ ?_ _ _ ?_) | (with_reducible refine steps_foldl _ ?_ _ _ ?_) | (with_reducible refine canon_getD ?_ ?_) | (intro _ _ _; try dsimp only) | (intro _ _; try dsimp only) | (intro _; try dsimp only)
  all_goals try simp (maxDischargeDepth := 20) +contextual [*]
@[simp] theorem clearPoison_canon (s : State) (wid k n : Nat) (m : Mask) (hs : Canon s) : Canon (clearPoison s wid k n m) := by
  unfold clearPoison
  (try dsimp only)
  repeat' first | split | (with_reducible refine canon_foldl _ ?_ _ _ ?_) | (with_reducible refine canon_foldl1 _ ?_ _ _ ?_) | (with_reducible refine canon_foldl2 _ ?_ _ _ ?_) | (with_reducible refine loaded_foldl _ ?_ _ _ ?_) | (with_reducible refine steps_foldl _ ?_ _ _ ?_) | (with_reducible refine canon_getD ?_ ?_) | (intro _ _ _; try dsimp only) | (intro _ _; try dsimp only) | (intro _; try dsimp only)
  all_goals try simp (maxDischargeDepth := 20) +contextual [*]
@[simp] theorem writeReg_canon (s : State) (w : Wave) (pc : Pc) (m : Mask) (d : Reg) (n : Nat) (k : Bool) (f : Lane → BitVec 128) (hs : Canon s) : Canon (writeReg s w pc m d n k f) := by
  unfold writeReg
  (try dsimp only)
  repeat' first | split | (with_reducible refine canon_foldl _ ?_ _ _ ?_) | (with_reducible refine canon_foldl1 _ ?_ _ _ ?_) | (with_reducible refine canon_foldl2 _ ?_ _ _ ?_) | (with_reducible refine loaded_foldl _ ?_ _ _ ?_) | (with_reducible refine steps_foldl _ ?_ _ _ ?_) | (with_reducible refine canon_getD ?_ ?_) | (intro _ _ _; try dsimp only) | (intro _ _; try dsimp only) | (intro _; try dsimp only)
  all_goals try simp (maxDischargeDepth := 20) +contextual [*]
@[simp] theorem writePred_canon (s : State) (w : Wave) (m : Mask) (p : Pred) (f : Lane → Bool) (hs : Canon s) : Canon (writePred s w m p f) := by
  unfold writePred
  (try dsimp only)
  repeat' first | split | (with_reducible refine canon_foldl _ ?_ _ _ ?_) | (with_reducible refine canon_foldl1 _ ?_ _ _ ?_) | (with_reducible refine canon_foldl2 _ ?_ _ _ ?_) | (with_reducible refine loaded_foldl _ ?_ _ _ ?_) | (with_reducible refine steps_foldl _ ?_ _ _ ?_) | (with_reducible refine canon_getD ?_ ?_) | (intro _ _ _; try dsimp only) | (intro _ _; try dsimp only) | (intro _; try dsimp only)
  all_goals try simp (maxDischargeDepth := 20) +contextual [*]
@[simp] theorem orFlags_canon (s : State) (wid : Nat) (m : Mask) (f : Lane → BitVec 7) (hs : Canon s) : Canon (orFlags s wid m f) := by
  unfold orFlags
  (try dsimp only)
  repeat' first | split | (with_reducible refine canon_foldl _ ?_ _ _ ?_) | (with_reducible refine canon_foldl1 _ ?_ _ _ ?_) | (with_reducible refine canon_foldl2 _ ?_ _ _ ?_) | (with_reducible refine loaded_foldl _ ?_ _ _ ?_) | (with_reducible refine steps_foldl _ ?_ _ _ ?_) | (with_reducible refine canon_getD ?_ ?_) | (intro _ _ _; try dsimp only) | (intro _ _; try dsimp only) | (intro _; try dsimp only)
  all_goals try simp (maxDischargeDepth := 20) +contextual [*]
@[simp] theorem Ctx_write_canon (c : Ctx) (f : Lane → BitVec 128) (fl : Lane → BitVec 7) (hc : Canon c.s) : ResC (Ctx.write c f fl) := by
  unfold Ctx.write
  (try dsimp only)
  repeat' first | split | (with_reducible refine canon_foldl _ ?_ _ _ ?_) | (with_reducible refine canon_foldl1 _ ?_ _ _ ?_) | (with_reducible refine canon_foldl2 _ ?_ _ _ ?_) | (with_reducible refine loaded_foldl _ ?_ _ _ ?_) | (with_reducible refine steps_foldl _ ?_ _ _ ?_) | (with_reducible refine canon_getD ?_ ?_) | (intro _ _ _; try dsimp only) | (intro _ _; try dsimp only) | (intro _; try dsimp only)
  all_goals try simp (maxDischargeDepth := 20) +contextual [*]
@[simp] theorem Ctx_writeP_canon (c : Ctx) (p : Pred) (f : Lane → Bool) (fl : Lane → BitVec 7) (hc : Canon c.s) : ResC (Ctx.writeP c p f fl) := by
  unfold Ctx.writeP
  (try dsimp only)
  repeat' first | split | (with_reducible refine canon_foldl _ ?_ _ _ ?_) | (with_reducible refine canon_foldl1 _ ?_ _ _ ?_) | (with_reducible refine canon_foldl2 _ ?_ _ _ ?_) | (with_reducible refine loaded_foldl _ ?_ _ _ ?_) | (with_reducible refine steps_foldl _ ?_ _ _ ?_) | (with_reducible refine canon_getD ?_ ?_) | (intro _ _ _; try dsimp only) | (intro _ _; try dsimp only) | (intro _; try dsimp only)
  all_goals try simp (maxDischargeDepth := 20) +contextual [*]
@[simp] theorem Ctx_done_canon (c : Ctx) (s : State) (hc : Canon c.s) (hs : Canon s) : ResC (Ctx.done c s) := by
  unfold Ctx.done
  (try dsimp only)
  repeat' first | split | (with_reducible refine canon_foldl _ ?_ _ _ ?_) | (with_reducible refine canon_foldl1 _ ?_ _ _ ?_) | (with_reducible refine canon_foldl2 _ ?_ _ _ ?_) | (with_reducible refine loaded_foldl _ ?_ _ _ ?_) | (with_reducible refine steps_foldl _ ?_ _ _ ?_) | (with_reducible refine canon_getD ?_ ?_) | (intro _ _ _; try dsimp only) | (intro _ _; try dsimp only) | (intro _; try dsimp only)
  all_goals try simp (maxDischargeDepth := 20) +contextual [*]
@[simp] theorem Ctx_trap_canon (c : Ctx) (t : Trap) (m : Mask) (a : DWord) (hc : Canon c.s) : ResC (Ctx.trap c t m a) := by
  unfold Ctx.trap
  (try dsimp only)
  repeat' first | split | (with_reducible refine canon_foldl _ ?_ _ _ ?_) | (with_reducible refine canon_foldl1 _ ?_ _ _ ?_) | (with_reducible refine canon_foldl2 _ ?_ _ _ ?_) | (with_reducible refine loaded_foldl _ ?_ _ _ ?_) | (with_reducible refine steps_foldl _ ?_ _ _ ?_) | (with_reducible refine canon_getD ?_ ?_) | (intro _ _ _; try dsimp only) | (intro _ _; try dsimp only) | (intro _; try dsimp only)
  all_goals try simp (maxDischargeDepth := 20) +contextual [*]
@[simp] theorem popAcquire_canon (s : State) (w : Wave) (scope : Nat) (hs : Canon s) : Canon (popAcquire s w scope) := by
  unfold popAcquire
  (try dsimp only)
  repeat' first | split | (with_reducible refine canon_foldl _ ?_ _ _ ?_) | (with_reducible refine canon_foldl1 _ ?_ _ _ ?_) | (with_reducible refine canon_foldl2 _ ?_ _ _ ?_) | (with_reducible refine loaded_foldl _ ?_ _ _ ?_) | (with_reducible refine steps_foldl _ ?_ _ _ ?_) | (with_reducible refine canon_getD ?_ ?_) | (intro _ _ _; try dsimp only) | (intro _ _; try dsimp only) | (intro _; try dsimp only)
  all_goals try simp (maxDischargeDepth := 20) +contextual [*]
@[simp] theorem popWord_canon (s : State) (wid : Nat) (l : Lane) (k : Fin 8) (hs : Canon s) : Canon (popWord s wid l k).1 := by
  unfold popWord
  (try dsimp only)
  repeat' first | split | (with_reducible refine canon_foldl _ ?_ _ _ ?_) | (with_reducible refine canon_foldl1 _ ?_ _ _ ?_) | (with_reducible refine canon_foldl2 _ ?_ _ _ ?_) | (with_reducible refine loaded_foldl _ ?_ _ _ ?_) | (with_reducible refine steps_foldl _ ?_ _ _ ?_) | (with_reducible refine canon_getD ?_ ?_) | (intro _ _ _; try dsimp only) | (intro _ _; try dsimp only) | (intro _; try dsimp only)
  all_goals try simp (maxDischargeDepth := 20) +contextual [*]
@[simp] theorem popAll_canon (s : State) (wid : Nat) (m : Mask) (qs : List (Fin 8)) (hs : Canon s) : Canon (popAll s wid m qs).1 := by
  unfold popAll
  refine canon_foldl1 _ (fun t j ht => ?_) _ _ hs
  refine canon_foldl1 _ (fun t j ht => ?_) _ _ ht
  dsimp only
  split
  · split <;> simp (maxDischargeDepth := 20) [*]
  · exact ht
@[simp] theorem returnColour_canon (wid : Nat) (s : State) (x : Lane × BitVec 6) (hs : Canon s) : Canon (returnColour wid s x) := by
  unfold returnColour
  (try dsimp only)
  repeat' first | split | (with_reducible refine canon_foldl _ ?_ _ _ ?_) | (with_reducible refine canon_foldl1 _ ?_ _ _ ?_) | (with_reducible refine canon_foldl2 _ ?_ _ _ ?_) | (with_reducible refine loaded_foldl _ ?_ _ _ ?_) | (with_reducible refine steps_foldl _ ?_ _ _ ?_) | (with_reducible refine canon_getD ?_ ?_) | (intro _ _ _; try dsimp only) | (intro _ _; try dsimp only) | (intro _; try dsimp only)
  all_goals try simp (maxDischargeDepth := 20) +contextual [*]
@[simp] theorem giveBack_canon (s : State) (wid : Nat) (dmask : Mask) (hs : Canon s) : Canon (giveBack s wid dmask) := by
  unfold giveBack
  (try dsimp only)
  repeat' first | split | (refine canon_foldl _ ?_ _ _ ?_) | (refine canon_foldl1 _ ?_ _ _ ?_) | (refine canon_foldl2 _ ?_ _ _ ?_) | (refine loaded_foldl _ ?_ _ _ ?_) | (refine steps_foldl _ ?_ _ _ ?_) | (refine canon_getD ?_ ?_) | (intro _ _ _; try dsimp only) | (intro _ _; try dsimp only) | (intro _; try dsimp only)
  all_goals try simp (maxDischargeDepth := 20) +contextual [*]
@[simp] theorem noteSkid_canon (s : State) (w : Wave) (pc : Pc) (hs : Canon s) : Canon (noteSkid s w pc) := by
  unfold noteSkid
  (try dsimp only)
  repeat' first | split | (with_reducible refine canon_foldl _ ?_ _ _ ?_) | (with_reducible refine canon_foldl1 _ ?_ _ _ ?_) | (with_reducible refine canon_foldl2 _ ?_ _ _ ?_) | (with_reducible refine loaded_foldl _ ?_ _ _ ?_) | (with_reducible refine steps_foldl _ ?_ _ _ ?_) | (with_reducible refine canon_getD ?_ ?_) | (intro _ _ _; try dsimp only) | (intro _ _; try dsimp only) | (intro _; try dsimp only)
  all_goals try simp (maxDischargeDepth := 20) +contextual [*]
@[simp] theorem settle_canon (c : Ctx) (res : Res) (hc : Canon c.s) (hres : ResC res) : Canon (settle c res) := by
  cases res with
  | done d =>
    have hd : Canon d.s := hres
    simp only [settle]
    split <;> simp (maxDischargeDepth := 20) [hd]
  | trap t x =>
    have hd : Canon t := hres
    simp (maxDischargeDepth := 20) [settle, hd]
  | wait t h =>
    have hd : Canon t := hres
    simp (maxDischargeDepth := 20) [settle, hd]
  | settled t => exact hres
@[simp] theorem completeWave_canon (s : State) (wid : Nat) (hs : Canon s) : Canon (completeWave s wid) := by
  unfold completeWave
  (try dsimp only)
  repeat' first | split | (with_reducible refine canon_foldl _ ?_ _ _ ?_) | (with_reducible refine canon_foldl1 _ ?_ _ _ ?_) | (with_reducible refine canon_foldl2 _ ?_ _ _ ?_) | (with_reducible refine loaded_foldl _ ?_ _ _ ?_) | (with_reducible refine steps_foldl _ ?_ _ _ ?_) | (with_reducible refine canon_getD ?_ ?_) | (intro _ _ _; try dsimp only) | (intro _ _; try dsimp only) | (intro _; try dsimp only)
  all_goals try simp (maxDischargeDepth := 20) +contextual [*]
@[simp] theorem idleStep_canon (s : State) (w : Wave) (hs : Canon s) : Canon (idleStep s w) := by
  unfold idleStep
  (try dsimp only)
  repeat' first | split | (with_reducible refine canon_foldl _ ?_ _ _ ?_) | (with_reducible refine canon_foldl1 _ ?_ _ _ ?_) | (with_reducible refine canon_foldl2 _ ?_ _ _ ?_) | (with_reducible refine loaded_foldl _ ?_ _ _ ?_) | (with_reducible refine steps_foldl _ ?_ _ _ ?_) | (with_reducible refine canon_getD ?_ ?_) | (intro _ _ _; try dsimp only) | (intro _ _; try dsimp only) | (intro _; try dsimp only)
  all_goals try simp (maxDischargeDepth := 20) +contextual [*]
@[simp] theorem beginStep_canon (s0 : State) (w0 : Wave) (by' : Option (Nat × Nat)) (hs0 : Canon s0) : Canon (beginStep s0 w0 by') := by
  unfold beginStep
  (try dsimp only)
  repeat' first | split | (with_reducible refine canon_foldl _ ?_ _ _ ?_) | (with_reducible refine canon_foldl1 _ ?_ _ _ ?_) | (with_reducible refine canon_foldl2 _ ?_ _ _ ?_) | (with_reducible refine loaded_foldl _ ?_ _ _ ?_) | (with_reducible refine steps_foldl _ ?_ _ _ ?_) | (with_reducible refine canon_getD ?_ ?_) | (intro _ _ _; try dsimp only) | (intro _ _; try dsimp only) | (intro _; try dsimp only)
  all_goals try simp (maxDischargeDepth := 20) +contextual [*]
@[simp] theorem scoutPast_canon (s : State) (wid : Nat) (hs : Canon s) : Canon (scoutPast s wid) := by
  unfold scoutPast
  (try dsimp only)
  repeat' first | split | (with_reducible refine canon_foldl _ ?_ _ _ ?_) | (with_reducible refine canon_foldl1 _ ?_ _ _ ?_) | (with_reducible refine canon_foldl2 _ ?_ _ _ ?_) | (with_reducible refine loaded_foldl _ ?_ _ _ ?_) | (with_reducible refine steps_foldl _ ?_ _ _ ?_) | (with_reducible refine canon_getD ?_ ?_) | (intro _ _ _; try dsimp only) | (intro _ _; try dsimp only) | (intro _; try dsimp only)
  all_goals try simp (maxDischargeDepth := 20) +contextual [*]
@[simp] theorem scoutWave_canon (i : Instr) (s : State) (w : Wave) (r : Run) (h : Shadow) (sh : Shape) (sc : Ctx → Scout) (hs : Canon s) (hsc : ∀ c, Canon c.s → ScoutC (sc c)) : Canon (scoutWave i s w r h sh sc) := by
  unfold scoutWave
  extract_lets c full usesQ
  split
  · simp [hs]
  · split
    · simp [hs]
    · next d p e =>
      have hd := scoutC_eq_done (hsc c hs) e
      split
      · simp [hs]
      · extract_lets s1
        have h1 : Canon s1 := (modWave_canon _ _ _).2 hd
        exact scoutPast_canon _ _ h1
    · exact scoutPast_canon _ _ hs
@[simp] theorem scoutEnds_canon (u0 : Ctx) (hu0 : Canon u0.s) : ScoutC (scoutEnds u0) := by
  unfold scoutEnds
  (try dsimp only)
  repeat' first | split | (with_reducible refine canon_foldl _ ?_ _ _ ?_) | (with_reducible refine canon_foldl1 _ ?_ _ _ ?_) | (with_reducible refine canon_foldl2 _ ?_ _ _ ?_) | (with_reducible refine loaded_foldl _ ?_ _ _ ?_) | (with_reducible refine steps_foldl _ ?_ _ _ ?_) | (with_reducible refine canon_getD ?_ ?_) | (intro _ _ _; try dsimp only) | (intro _ _; try dsimp only) | (intro _; try dsimp only)
  all_goals try simp (maxDischargeDepth := 20) +contextual [*]
@[simp] theorem scoutRuns_canon (body : Ctx → Res) (c : Ctx) (hbody : ∀ c, Canon c.s → ResC (body c)) (hc : Canon c.s) : ScoutC (scoutRuns body c) := by
  unfold scoutRuns
  have hb := hbody c hc
  split
  · next d e =>
    have hd := resC_eq_done hb e
    split <;> simp [hd]
  · simp
@[simp] theorem scoutWith_canon (body : Ctx → Res) (poison : Shadow → Ctx → Mask) (c : Ctx) (hbody : ∀ c, Canon c.s → ResC (body c)) (hc : Canon c.s) : ScoutC (scoutWith body poison c) := by
  unfold scoutWith
  have hb := hbody c hc
  split
  · next d e =>
    have hd := resC_eq_done hb e
    split <;> simp [hd]
  · simp
@[simp] theorem scoutSkips_canon (c : Ctx) (hc : Canon c.s) : ScoutC (scoutSkips c) := by
  unfold scoutSkips
  (try dsimp only)
  repeat' first | split | (with_reducible refine canon_foldl _ ?_ _ _ ?_) | (with_reducible refine canon_foldl1 _ ?_ _ _ ?_) | (with_reducible refine canon_foldl2 _ ?_ _ _ ?_) | (with_reducible refine loaded_foldl _ ?_ _ _ ?_) | (with_reducible refine steps_foldl _ ?_ _ _ ?_) | (with_reducible refine canon_getD ?_ ?_) | (intro _ _ _; try dsimp only) | (intro _ _; try dsimp only) | (intro _; try dsimp only)
  all_goals try simp (maxDischargeDepth := 20) +contextual [*]
@[simp] theorem holdWave_canon (s : State) (w : Wave) (r : Run) (sh : Shape) (hs : Canon s) : Canon (holdWave s w r sh) := by
  unfold holdWave
  (try dsimp only)
  repeat' first | split | (with_reducible refine canon_foldl _ ?_ _ _ ?_) | (with_reducible refine canon_foldl1 _ ?_ _ _ ?_) | (with_reducible refine canon_foldl2 _ ?_ _ _ ?_) | (with_reducible refine loaded_foldl _ ?_ _ _ ?_) | (with_reducible refine steps_foldl _ ?_ _ _ ?_) | (with_reducible refine canon_getD ?_ ?_) | (intro _ _ _; try dsimp only) | (intro _ _; try dsimp only) | (intro _; try dsimp only)
  all_goals try simp (maxDischargeDepth := 20) +contextual [*]
@[simp] theorem operate_canon (i : Instr) (s : State) (w : Wave) (r : Run) (sh : Shape) (body : Ctx → Res) (hs : Canon s) (hbody : ∀ c, Canon c.s → ResC (body c)) : Canon (operate i s w r sh body) := by
  unfold operate
  (try dsimp only)
  repeat' first | split | (with_reducible refine canon_foldl _ ?_ _ _ ?_) | (with_reducible refine canon_foldl1 _ ?_ _ _ ?_) | (with_reducible refine canon_foldl2 _ ?_ _ _ ?_) | (with_reducible refine loaded_foldl _ ?_ _ _ ?_) | (with_reducible refine steps_foldl _ ?_ _ _ ?_) | (with_reducible refine canon_getD ?_ ?_) | (intro _ _ _; try dsimp only) | (intro _ _; try dsimp only) | (intro _; try dsimp only)
  all_goals try simp (maxDischargeDepth := 20) +contextual [*]
@[simp] theorem issueWave_canon (i : Instr) (s : State) (w : Wave) (r : Run) (sh : Shape) (sc : Ctx → Scout) (body : Ctx → Res) (hs : Canon s) (hsc : ∀ c, Canon c.s → ScoutC (sc c)) (hbody : ∀ c, Canon c.s → ResC (body c)) : Canon (issueWave i s w r sh sc body) := by
  unfold issueWave
  split
  · exact scoutWave_canon _ _ _ _ _ _ _ hs hsc
  · split
    · simp [hs]
    · split
      · simp [hs]
      · split
        · simp [hs]
        · exact operate_canon _ _ _ _ _ _ hs hbody
theorem issue_canon (i : Instr) (s : State) (sc : Ctx → Scout) (body : Ctx → Res) (hs : Canon s) (hsc : ∀ c, Canon c.s → ScoutC (sc c)) (hbody : ∀ c, Canon c.s → ResC (body c)) : OutC (issue i s sc body) := by
  unfold issue
  split
  · exact (outC_next _).2 (issueWave_canon _ _ _ _ _ _ _ hs hsc hbody)
  · simp

end Sys2Proof.Machine
end

