-- ==== Sys2Proof/Laws/CanonMemory.lean ====
section
/-! SUPPORT. Canonical memories stay canonical: memory access, atomics and buffers. -/
namespace Sys2Proof.Machine

set_option linter.unusedVariables false
set_option linter.unusedSimpArgs false

/-! ### Tiles -/

@[simp] theorem modTile_canon (s : State) (g : Nat) (n : Fin 64) (f : Tile → Tile) (hs : Canon s) : Canon (modTile s g n f) := by
  unfold modTile
  (try dsimp only)
  repeat' first | split | (with_reducible refine canon_foldl _ ?_ _ _ ?_) | (with_reducible refine canon_foldl1 _ ?_ _ _ ?_) | (with_reducible refine canon_foldl2 _ ?_ _ _ ?_) | (with_reducible refine loaded_foldl _ ?_ _ _ ?_) | (with_reducible refine steps_foldl _ ?_ _ _ ?_) | (with_reducible refine canon_getD ?_ ?_) | (intro _ _ _; try dsimp only) | (intro _ _; try dsimp only) | (intro _; try dsimp only)
  all_goals try simp (maxDischargeDepth := 20) +contextual [*]
@[simp] theorem setTile_canon (s : State) (g : Nat) (n : Fin 64) (st : TileState) (hs : Canon s) : Canon (setTile s g n st) := by
  unfold setTile
  (try dsimp only)
  repeat' first | split | (with_reducible refine canon_foldl _ ?_ _ _ ?_) | (with_reducible refine canon_foldl1 _ ?_ _ _ ?_) | (with_reducible refine canon_foldl2 _ ?_ _ _ ?_) | (with_reducible refine loaded_foldl _ ?_ _ _ ?_) | (with_reducible refine steps_foldl _ ?_ _ _ ?_) | (with_reducible refine canon_getD ?_ ?_) | (intro _ _ _; try dsimp only) | (intro _ _; try dsimp only) | (intro _; try dsimp only)
  all_goals try simp (maxDischargeDepth := 20) +contextual [*]
@[simp] theorem busyTile_canon (s : State) (g : Nat) (n : Fin 64) (hs : Canon s) : Canon (busyTile s g n) := by
  unfold busyTile
  (try dsimp only)
  repeat' first | split | (with_reducible refine canon_foldl _ ?_ _ _ ?_) | (with_reducible refine canon_foldl1 _ ?_ _ _ ?_) | (with_reducible refine canon_foldl2 _ ?_ _ _ ?_) | (with_reducible refine loaded_foldl _ ?_ _ _ ?_) | (with_reducible refine steps_foldl _ ?_ _ _ ?_) | (with_reducible refine canon_getD ?_ ?_) | (intro _ _ _; try dsimp only) | (intro _ _; try dsimp only) | (intro _; try dsimp only)
  all_goals try simp (maxDischargeDepth := 20) +contextual [*]
@[simp] theorem idleTile_canon (s : State) (g : Nat) (n : Fin 64) (hs : Canon s) : Canon (idleTile s g n) := by
  unfold idleTile
  (try dsimp only)
  repeat' first | split | (with_reducible refine canon_foldl _ ?_ _ _ ?_) | (with_reducible refine canon_foldl1 _ ?_ _ _ ?_) | (with_reducible refine canon_foldl2 _ ?_ _ _ ?_) | (with_reducible refine loaded_foldl _ ?_ _ _ ?_) | (with_reducible refine steps_foldl _ ?_ _ _ ?_) | (with_reducible refine canon_getD ?_ ?_) | (intro _ _ _; try dsimp only) | (intro _ _; try dsimp only) | (intro _; try dsimp only)
  all_goals try simp (maxDischargeDepth := 20) +contextual [*]

/-! ### Access -/

@[simp] theorem countTrap_canon (s : State) (w : Wave) (t : Trap) (hs : Canon s) : Canon (countTrap s w t) := by
  unfold countTrap
  (try dsimp only)
  repeat' first | split | (with_reducible refine canon_foldl _ ?_ _ _ ?_) | (with_reducible refine canon_foldl1 _ ?_ _ _ ?_) | (with_reducible refine canon_foldl2 _ ?_ _ _ ?_) | (with_reducible refine loaded_foldl _ ?_ _ _ ?_) | (with_reducible refine steps_foldl _ ?_ _ _ ?_) | (with_reducible refine access_canon _ _ _ _ ?_ ?_ ?_) | (with_reducible refine canon_getD ?_ ?_) | (intro _ _ _; try dsimp only) | (intro _ _; try dsimp only) | (intro _; try dsimp only)
  all_goals try simp (maxDischargeDepth := 20) +contextual [*]
@[simp] theorem askColours_canon (c : Ctx) (s : State) (n : List (Lane × BitVec 6 × BitVec 12)) (hc : Canon c.s) (hs : Canon s) : ResC (askColours c s n) := by
  unfold askColours
  (try dsimp only)
  repeat' first | split | (with_reducible refine canon_foldl _ ?_ _ _ ?_) | (with_reducible refine canon_foldl1 _ ?_ _ _ ?_) | (with_reducible refine canon_foldl2 _ ?_ _ _ ?_) | (with_reducible refine loaded_foldl _ ?_ _ _ ?_) | (with_reducible refine steps_foldl _ ?_ _ _ ?_) | (with_reducible refine access_canon _ _ _ _ ?_ ?_ ?_) | (with_reducible refine canon_getD ?_ ?_) | (intro _ _ _; try dsimp only) | (intro _ _; try dsimp only) | (intro _; try dsimp only)
  all_goals try simp (maxDischargeDepth := 20) +contextual [*]
@[simp] theorem access_canon (c : Ctx) (v : Lanes Verdict) (perform : Mask → State) (finish : State → Res) (hc : Canon c.s) (hperform : ∀ m, Canon (perform m)) (hfinish : ∀ t, Canon t → ResC (finish t)) : ResC (access c v perform finish) := by
  unfold access
  (try dsimp only)
  repeat' first | split | (with_reducible refine canon_foldl _ ?_ _ _ ?_) | (with_reducible refine canon_foldl1 _ ?_ _ _ ?_) | (with_reducible refine canon_foldl2 _ ?_ _ _ ?_) | (with_reducible refine loaded_foldl _ ?_ _ _ ?_) | (with_reducible refine steps_foldl _ ?_ _ _ ?_) | (with_reducible refine access_canon _ _ _ _ ?_ ?_ ?_) | (with_reducible refine canon_getD ?_ ?_) | (intro _ _ _; try dsimp only) | (intro _ _; try dsimp only) | (intro _; try dsimp only)
  all_goals try simp (maxDischargeDepth := 20) +contextual [*]
@[simp] theorem accessWhole_canon (c : Ctx) (v : Lanes Verdict) (finish : Res) (hc : Canon c.s) (hfinish : ResC finish) : ResC (accessWhole c v finish) := by
  unfold accessWhole
  (try dsimp only)
  repeat' first | split | (with_reducible refine canon_foldl _ ?_ _ _ ?_) | (with_reducible refine canon_foldl1 _ ?_ _ _ ?_) | (with_reducible refine canon_foldl2 _ ?_ _ _ ?_) | (with_reducible refine loaded_foldl _ ?_ _ _ ?_) | (with_reducible refine steps_foldl _ ?_ _ _ ?_) | (with_reducible refine access_canon _ _ _ _ ?_ ?_ ?_) | (with_reducible refine canon_getD ?_ ?_) | (intro _ _ _; try dsimp only) | (intro _ _; try dsimp only) | (intro _; try dsimp only)
  all_goals try simp (maxDischargeDepth := 20) +contextual [*]
@[simp] theorem Ctx_watch_canon (c : Ctx) (s : State) (l : Lane) (kind : Nat) (ptr : DWord) (n : Nat) (hc : Canon c.s) (hs : Canon s) : Canon (Ctx.watch c s l kind ptr n) := by
  unfold Ctx.watch
  (try dsimp only)
  repeat' first | split | (with_reducible refine canon_foldl _ ?_ _ _ ?_) | (with_reducible refine canon_foldl1 _ ?_ _ _ ?_) | (with_reducible refine canon_foldl2 _ ?_ _ _ ?_) | (with_reducible refine loaded_foldl _ ?_ _ _ ?_) | (with_reducible refine steps_foldl _ ?_ _ _ ?_) | (with_reducible refine access_canon _ _ _ _ ?_ ?_ ?_) | (with_reducible refine canon_getD ?_ ?_) | (intro _ _ _; try dsimp only) | (intro _ _; try dsimp only) | (intro _; try dsimp only)
  all_goals try simp (maxDischargeDepth := 20) +contextual [*]
@[simp] theorem bankLine_canon (s : State) (part die line : Nat) (hs : Canon s) : Canon (bankLine s part die line) := by
  unfold bankLine
  (try dsimp only)
  repeat' first | split | (with_reducible refine canon_foldl _ ?_ _ _ ?_) | (with_reducible refine canon_foldl1 _ ?_ _ _ ?_) | (with_reducible refine canon_foldl2 _ ?_ _ _ ?_) | (with_reducible refine loaded_foldl _ ?_ _ _ ?_) | (with_reducible refine steps_foldl _ ?_ _ _ ?_) | (with_reducible refine access_canon _ _ _ _ ?_ ?_ ?_) | (with_reducible refine canon_getD ?_ ?_) | (intro _ _ _; try dsimp only) | (intro _ _; try dsimp only) | (intro _; try dsimp only)
  all_goals try simp (maxDischargeDepth := 20) +contextual [*]
@[simp] theorem touchLine_canon (s : State) (part die core ia : Nat) (hs : Canon s) : Canon (touchLine s part die core ia) := by
  unfold touchLine
  (try dsimp only)
  repeat' first | split | (with_reducible refine canon_foldl _ ?_ _ _ ?_) | (with_reducible refine canon_foldl1 _ ?_ _ _ ?_) | (with_reducible refine canon_foldl2 _ ?_ _ _ ?_) | (with_reducible refine loaded_foldl _ ?_ _ _ ?_) | (with_reducible refine steps_foldl _ ?_ _ _ ?_) | (with_reducible refine access_canon _ _ _ _ ?_ ?_ ?_) | (with_reducible refine canon_getD ?_ ?_) | (intro _ _ _; try dsimp only) | (intro _ _; try dsimp only) | (intro _; try dsimp only)
  all_goals try simp (maxDischargeDepth := 20) +contextual [*]
@[simp] theorem loadSpot_canon (s : State) (c : Ctx) (p : Spot) (n : Nat) (hs : Canon s) (hc : Canon c.s) : Canon (loadSpot s c p n).2.2 := by
  unfold loadSpot
  (try dsimp only)
  repeat' first | split | (with_reducible refine canon_foldl _ ?_ _ _ ?_) | (with_reducible refine canon_foldl1 _ ?_ _ _ ?_) | (with_reducible refine canon_foldl2 _ ?_ _ _ ?_) | (with_reducible refine loaded_foldl _ ?_ _ _ ?_) | (with_reducible refine steps_foldl _ ?_ _ _ ?_) | (with_reducible refine access_canon _ _ _ _ ?_ ?_ ?_) | (with_reducible refine canon_getD ?_ ?_) | (intro _ _ _; try dsimp only) | (intro _ _; try dsimp only) | (intro _; try dsimp only)
  all_goals try simp (maxDischargeDepth := 20) +contextual [*]
@[simp] theorem sendStore_canon (s : State) (c : Ctx) (l : Lane) (ptr : DWord) (ia : Nat) (k : FlightKind) (hs : Canon s) (hc : Canon c.s) : Canon (sendStore s c l ptr ia k) := by
  unfold sendStore
  (try dsimp only)
  repeat' first | split | (with_reducible refine canon_foldl _ ?_ _ _ ?_) | (with_reducible refine canon_foldl1 _ ?_ _ _ ?_) | (with_reducible refine canon_foldl2 _ ?_ _ _ ?_) | (with_reducible refine loaded_foldl _ ?_ _ _ ?_) | (with_reducible refine steps_foldl _ ?_ _ _ ?_) | (with_reducible refine access_canon _ _ _ _ ?_ ?_ ?_) | (with_reducible refine canon_getD ?_ ?_) | (intro _ _ _; try dsimp only) | (intro _ _; try dsimp only) | (intro _; try dsimp only)
  all_goals try simp (maxDischargeDepth := 20) +contextual [*]
@[simp] theorem countSend_canon (s : State) (wid : Nat) (l : Lane) (hs : Canon s) : Canon (countSend s wid l) := by
  unfold countSend
  (try dsimp only)
  repeat' first | split | (with_reducible refine canon_foldl _ ?_ _ _ ?_) | (with_reducible refine canon_foldl1 _ ?_ _ _ ?_) | (with_reducible refine canon_foldl2 _ ?_ _ _ ?_) | (with_reducible refine loaded_foldl _ ?_ _ _ ?_) | (with_reducible refine steps_foldl _ ?_ _ _ ?_) | (with_reducible refine access_canon _ _ _ _ ?_ ?_ ?_) | (with_reducible refine canon_getD ?_ ?_) | (intro _ _ _; try dsimp only) | (intro _ _; try dsimp only) | (intro _; try dsimp only)
  all_goals try simp (maxDischargeDepth := 20) +contextual [*]
@[simp] theorem holdSend_canon (s : State) (wid : Nat) (l : Lane) (e : RemoteEntry) (ia : Nat) (bs : List Byte) (hs : Canon s) : Canon (holdSend s wid l e ia bs) := by
  unfold holdSend
  (try dsimp only)
  repeat' first | split | (with_reducible refine canon_foldl _ ?_ _ _ ?_) | (with_reducible refine canon_foldl1 _ ?_ _ _ ?_) | (with_reducible refine canon_foldl2 _ ?_ _ _ ?_) | (with_reducible refine loaded_foldl _ ?_ _ _ ?_) | (with_reducible refine steps_foldl _ ?_ _ _ ?_) | (with_reducible refine access_canon _ _ _ _ ?_ ?_ ?_) | (with_reducible refine canon_getD ?_ ?_) | (intro _ _ _; try dsimp only) | (intro _ _; try dsimp only) | (intro _; try dsimp only)
  all_goals try simp (maxDischargeDepth := 20) +contextual [*]
@[simp] theorem askRemote_canon (s : State) (w : Wave) (l : Lane) (p : Spot) (n : Nat) (hs : Canon s) : Canon (askRemote s w l p n) := by
  unfold askRemote
  (try dsimp only)
  repeat' first | split | (with_reducible refine canon_foldl _ ?_ _ _ ?_) | (with_reducible refine canon_foldl1 _ ?_ _ _ ?_) | (with_reducible refine canon_foldl2 _ ?_ _ _ ?_) | (with_reducible refine loaded_foldl _ ?_ _ _ ?_) | (with_reducible refine steps_foldl _ ?_ _ _ ?_) | (with_reducible refine access_canon _ _ _ _ ?_ ?_ ?_) | (with_reducible refine canon_getD ?_ ?_) | (intro _ _ _; try dsimp only) | (intro _ _; try dsimp only) | (intro _; try dsimp only)
  all_goals try simp (maxDischargeDepth := 20) +contextual [*]
@[simp] theorem awaitAck_canon (s : State) (c : Ctx) (l : Lane) (ptr : DWord) (ia : Nat) (hs : Canon s) (hc : Canon c.s) : Canon (awaitAck s c l ptr ia) := by
  unfold awaitAck
  (try dsimp only)
  repeat' first | split | (with_reducible refine canon_foldl _ ?_ _ _ ?_) | (with_reducible refine canon_foldl1 _ ?_ _ _ ?_) | (with_reducible refine canon_foldl2 _ ?_ _ _ ?_) | (with_reducible refine loaded_foldl _ ?_ _ _ ?_) | (with_reducible refine steps_foldl _ ?_ _ _ ?_) | (with_reducible refine access_canon _ _ _ _ ?_ ?_ ?_) | (with_reducible refine canon_getD ?_ ?_) | (intro _ _ _; try dsimp only) | (intro _ _; try dsimp only) | (intro _; try dsimp only)
  all_goals try simp (maxDischargeDepth := 20) +contextual [*]
@[simp] theorem sendRemote_canon (s : State) (c : Ctx) (l : Lane) (ptr : DWord) (e : RemoteEntry) (ia : Nat) (bs : List Byte) (hs : Canon s) (hc : Canon c.s) : Canon (sendRemote s c l ptr e ia bs) := by
  unfold sendRemote
  (try dsimp only)
  repeat' first | split | (with_reducible refine canon_foldl _ ?_ _ _ ?_) | (with_reducible refine canon_foldl1 _ ?_ _ _ ?_) | (with_reducible refine canon_foldl2 _ ?_ _ _ ?_) | (with_reducible refine loaded_foldl _ ?_ _ _ ?_) | (with_reducible refine steps_foldl _ ?_ _ _ ?_) | (with_reducible refine access_canon _ _ _ _ ?_ ?_ ?_) | (with_reducible refine canon_getD ?_ ?_) | (intro _ _ _; try dsimp only) | (intro _ _; try dsimp only) | (intro _; try dsimp only)
  all_goals try simp (maxDischargeDepth := 20) +contextual [*]
@[simp] theorem storeSpot_canon (s : State) (c : Ctx) (l : Lane) (ptr : DWord) (p : Spot) (bs : List Byte) (hs : Canon s) (hc : Canon c.s) : Canon (storeSpot s c l ptr p bs) := by
  unfold storeSpot
  (try dsimp only)
  repeat' first | split | (with_reducible refine canon_foldl _ ?_ _ _ ?_) | (with_reducible refine canon_foldl1 _ ?_ _ _ ?_) | (with_reducible refine canon_foldl2 _ ?_ _ _ ?_) | (with_reducible refine loaded_foldl _ ?_ _ _ ?_) | (with_reducible refine steps_foldl _ ?_ _ _ ?_) | (with_reducible refine access_canon _ _ _ _ ?_ ?_ ?_) | (with_reducible refine canon_getD ?_ ?_) | (intro _ _ _; try dsimp only) | (intro _ _; try dsimp only) | (intro _; try dsimp only)
  all_goals try simp (maxDischargeDepth := 20) +contextual [*]

/-! ### Alu -/

theorem runWord_canon (i : Instr) (s : State) (body : Ctx → Res) (hs : Canon s) (hbody : ∀ c, Canon c.s → ResC (body c)) : OutC (runWord i s body) := by
  exact issue_canon _ _ _ _ hs (fun c hc => scoutRuns_canon _ c hbody hc) hbody
theorem crossWord_canon (i : Instr) (s : State) (body : Ctx → Res) (hs : Canon s) (hbody : ∀ c, Canon c.s → ResC (body c)) : OutC (crossWord i s body) := by
  exact issue_canon _ _ _ _ hs (fun c hc => scoutWith_canon _ _ c hbody hc) hbody
@[simp] theorem unary_canon (f : Word → Word) (c : Ctx) (hc : Canon c.s) : ResC (unary f c) := by
  unfold unary
  (try dsimp only)
  repeat' first | split | (with_reducible refine canon_foldl _ ?_ _ _ ?_) | (with_reducible refine canon_foldl1 _ ?_ _ _ ?_) | (with_reducible refine canon_foldl2 _ ?_ _ _ ?_) | (with_reducible refine loaded_foldl _ ?_ _ _ ?_) | (with_reducible refine steps_foldl _ ?_ _ _ ?_) | (with_reducible refine runWord_canon _ _ _ ?_ ?_) | (with_reducible refine crossWord_canon _ _ _ ?_ ?_) | (with_reducible refine issue_canon _ _ _ _ ?_ ?_ ?_) | (with_reducible refine access_canon _ _ _ _ ?_ ?_ ?_) | (with_reducible refine canon_getD ?_ ?_) | (intro _ _ _; try dsimp only) | (intro _ _; try dsimp only) | (intro _; try dsimp only)
  all_goals try simp (maxDischargeDepth := 20) +contextual [*]
@[simp] theorem binary_canon (f : Word → Word → Word) (c : Ctx) (hc : Canon c.s) : ResC (binary f c) := by
  unfold binary
  (try dsimp only)
  repeat' first | split | (with_reducible refine canon_foldl _ ?_ _ _ ?_) | (with_reducible refine canon_foldl1 _ ?_ _ _ ?_) | (with_reducible refine canon_foldl2 _ ?_ _ _ ?_) | (with_reducible refine loaded_foldl _ ?_ _ _ ?_) | (with_reducible refine steps_foldl _ ?_ _ _ ?_) | (with_reducible refine runWord_canon _ _ _ ?_ ?_) | (with_reducible refine crossWord_canon _ _ _ ?_ ?_) | (with_reducible refine issue_canon _ _ _ _ ?_ ?_ ?_) | (with_reducible refine access_canon _ _ _ _ ?_ ?_ ?_) | (with_reducible refine canon_getD ?_ ?_) | (intro _ _ _; try dsimp only) | (intro _ _; try dsimp only) | (intro _; try dsimp only)
  all_goals try simp (maxDischargeDepth := 20) +contextual [*]
@[simp] theorem binaryF_canon (f : Word → Word → Word × Flags) (c : Ctx) (hc : Canon c.s) : ResC (binaryF f c) := by
  unfold binaryF
  (try dsimp only)
  repeat' first | split | (with_reducible refine canon_foldl _ ?_ _ _ ?_) | (with_reducible refine canon_foldl1 _ ?_ _ _ ?_) | (with_reducible refine canon_foldl2 _ ?_ _ _ ?_) | (with_reducible refine loaded_foldl _ ?_ _ _ ?_) | (with_reducible refine steps_foldl _ ?_ _ _ ?_) | (with_reducible refine runWord_canon _ _ _ ?_ ?_) | (with_reducible refine crossWord_canon _ _ _ ?_ ?_) | (with_reducible refine issue_canon _ _ _ _ ?_ ?_ ?_) | (with_reducible refine access_canon _ _ _ _ ?_ ?_ ?_) | (with_reducible refine canon_getD ?_ ?_) | (intro _ _ _; try dsimp only) | (intro _ _; try dsimp only) | (intro _; try dsimp only)
  all_goals try simp (maxDischargeDepth := 20) +contextual [*]
@[simp] theorem ternary_canon (f : Word → Word → Word → Word) (c : Ctx) (hc : Canon c.s) : ResC (ternary f c) := by
  unfold ternary
  (try dsimp only)
  repeat' first | split | (with_reducible refine canon_foldl _ ?_ _ _ ?_) | (with_reducible refine canon_foldl1 _ ?_ _ _ ?_) | (with_reducible refine canon_foldl2 _ ?_ _ _ ?_) | (with_reducible refine loaded_foldl _ ?_ _ _ ?_) | (with_reducible refine steps_foldl _ ?_ _ _ ?_) | (with_reducible refine runWord_canon _ _ _ ?_ ?_) | (with_reducible refine crossWord_canon _ _ _ ?_ ?_) | (with_reducible refine issue_canon _ _ _ _ ?_ ?_ ?_) | (with_reducible refine access_canon _ _ _ _ ?_ ?_ ?_) | (with_reducible refine canon_getD ?_ ?_) | (intro _ _ _; try dsimp only) | (intro _ _; try dsimp only) | (intro _; try dsimp only)
  all_goals try simp (maxDischargeDepth := 20) +contextual [*]
@[simp] theorem unary64_canon (f : DWord → DWord) (c : Ctx) (hc : Canon c.s) : ResC (unary64 f c) := by
  unfold unary64
  (try dsimp only)
  repeat' first | split | (with_reducible refine canon_foldl _ ?_ _ _ ?_) | (with_reducible refine canon_foldl1 _ ?_ _ _ ?_) | (with_reducible refine canon_foldl2 _ ?_ _ _ ?_) | (with_reducible refine loaded_foldl _ ?_ _ _ ?_) | (with_reducible refine steps_foldl _ ?_ _ _ ?_) | (with_reducible refine runWord_canon _ _ _ ?_ ?_) | (with_reducible refine crossWord_canon _ _ _ ?_ ?_) | (with_reducible refine issue_canon _ _ _ _ ?_ ?_ ?_) | (with_reducible refine access_canon _ _ _ _ ?_ ?_ ?_) | (with_reducible refine canon_getD ?_ ?_) | (intro _ _ _; try dsimp only) | (intro _ _; try dsimp only) | (intro _; try dsimp only)
  all_goals try simp (maxDischargeDepth := 20) +contextual [*]
@[simp] theorem binary64_canon (f : DWord → DWord → DWord) (c : Ctx) (hc : Canon c.s) : ResC (binary64 f c) := by
  unfold binary64
  (try dsimp only)
  repeat' first | split | (with_reducible refine canon_foldl _ ?_ _ _ ?_) | (with_reducible refine canon_foldl1 _ ?_ _ _ ?_) | (with_reducible refine canon_foldl2 _ ?_ _ _ ?_) | (with_reducible refine loaded_foldl _ ?_ _ _ ?_) | (with_reducible refine steps_foldl _ ?_ _ _ ?_) | (with_reducible refine runWord_canon _ _ _ ?_ ?_) | (with_reducible refine crossWord_canon _ _ _ ?_ ?_) | (with_reducible refine issue_canon _ _ _ _ ?_ ?_ ?_) | (with_reducible refine access_canon _ _ _ _ ?_ ?_ ?_) | (with_reducible refine canon_getD ?_ ?_) | (intro _ _ _; try dsimp only) | (intro _ _; try dsimp only) | (intro _; try dsimp only)
  all_goals try simp (maxDischargeDepth := 20) +contextual [*]
@[simp] theorem shift64_canon (f : DWord → Word → DWord) (c : Ctx) (hc : Canon c.s) : ResC (shift64 f c) := by
  unfold shift64
  (try dsimp only)
  repeat' first | split | (with_reducible refine canon_foldl _ ?_ _ _ ?_) | (with_reducible refine canon_foldl1 _ ?_ _ _ ?_) | (with_reducible refine canon_foldl2 _ ?_ _ _ ?_) | (with_reducible refine loaded_foldl _ ?_ _ _ ?_) | (with_reducible refine steps_foldl _ ?_ _ _ ?_) | (with_reducible refine runWord_canon _ _ _ ?_ ?_) | (with_reducible refine crossWord_canon _ _ _ ?_ ?_) | (with_reducible refine issue_canon _ _ _ _ ?_ ?_ ?_) | (with_reducible refine access_canon _ _ _ _ ?_ ?_ ?_) | (with_reducible refine canon_getD ?_ ?_) | (intro _ _ _; try dsimp only) | (intro _ _; try dsimp only) | (intro _; try dsimp only)
  all_goals try simp (maxDischargeDepth := 20) +contextual [*]

/-! ### Fetch -/

@[simp] theorem requestPage_canon (s : State) (part : Nat) (g : Page) (hs : Canon s) : Canon (requestPage s part g) := by
  unfold requestPage
  (try dsimp only)
  repeat' first | split | (with_reducible refine canon_foldl _ ?_ _ _ ?_) | (with_reducible refine canon_foldl1 _ ?_ _ _ ?_) | (with_reducible refine canon_foldl2 _ ?_ _ _ ?_) | (with_reducible refine loaded_foldl _ ?_ _ _ ?_) | (with_reducible refine steps_foldl _ ?_ _ _ ?_) | (with_reducible refine runWord_canon _ _ _ ?_ ?_) | (with_reducible refine crossWord_canon _ _ _ ?_ ?_) | (with_reducible refine issue_canon _ _ _ _ ?_ ?_ ?_) | (with_reducible refine access_canon _ _ _ _ ?_ ?_ ?_) | (with_reducible refine canon_getD ?_ ?_) | (intro _ _ _; try dsimp only) | (intro _ _; try dsimp only) | (intro _; try dsimp only)
  all_goals try simp (maxDischargeDepth := 20) +contextual [*]
@[simp] theorem fetchTrap_canon (s : State) (w : Wave) (r : Run) (t : Trap) (hs : Canon s) : Canon (fetchTrap s w r t) := by
  unfold fetchTrap
  (try dsimp only)
  repeat' first | split | (with_reducible refine canon_foldl _ ?_ _ _ ?_) | (with_reducible refine canon_foldl1 _ ?_ _ _ ?_) | (with_reducible refine canon_foldl2 _ ?_ _ _ ?_) | (with_reducible refine loaded_foldl _ ?_ _ _ ?_) | (with_reducible refine steps_foldl _ ?_ _ _ ?_) | (with_reducible refine runWord_canon _ _ _ ?_ ?_) | (with_reducible refine crossWord_canon _ _ _ ?_ ?_) | (with_reducible refine issue_canon _ _ _ _ ?_ ?_ ?_) | (with_reducible refine access_canon _ _ _ _ ?_ ?_ ?_) | (with_reducible refine canon_getD ?_ ?_) | (intro _ _ _; try dsimp only) | (intro _ _; try dsimp only) | (intro _; try dsimp only)
  all_goals try simp (maxDischargeDepth := 20) +contextual [*]
@[simp] theorem fetchWait_canon (s : State) (w : Wave) (g : Page) (hs : Canon s) : Canon (fetchWait s w g) := by
  unfold fetchWait
  (try dsimp only)
  repeat' first | split | (with_reducible refine canon_foldl _ ?_ _ _ ?_) | (with_reducible refine canon_foldl1 _ ?_ _ _ ?_) | (with_reducible refine canon_foldl2 _ ?_ _ _ ?_) | (with_reducible refine loaded_foldl _ ?_ _ _ ?_) | (with_reducible refine steps_foldl _ ?_ _ _ ?_) | (with_reducible refine runWord_canon _ _ _ ?_ ?_) | (with_reducible refine crossWord_canon _ _ _ ?_ ?_) | (with_reducible refine issue_canon _ _ _ _ ?_ ?_ ?_) | (with_reducible refine access_canon _ _ _ _ ?_ ?_ ?_) | (with_reducible refine canon_getD ?_ ?_) | (intro _ _ _; try dsimp only) | (intro _ _; try dsimp only) | (intro _; try dsimp only)
  all_goals try simp (maxDischargeDepth := 20) +contextual [*]
@[simp] theorem fetchLate_canon (s : State) (w : Wave) (hs : Canon s) : Canon (fetchLate s w) := by
  unfold fetchLate
  (try dsimp only)
  repeat' first | split | (with_reducible refine canon_foldl _ ?_ _ _ ?_) | (with_reducible refine canon_foldl1 _ ?_ _ _ ?_) | (with_reducible refine canon_foldl2 _ ?_ _ _ ?_) | (with_reducible refine loaded_foldl _ ?_ _ _ ?_) | (with_reducible refine steps_foldl _ ?_ _ _ ?_) | (with_reducible refine runWord_canon _ _ _ ?_ ?_) | (with_reducible refine crossWord_canon _ _ _ ?_ ?_) | (with_reducible refine issue_canon _ _ _ _ ?_ ?_ ?_) | (with_reducible refine access_canon _ _ _ _ ?_ ?_ ?_) | (with_reducible refine canon_getD ?_ ?_) | (intro _ _ _; try dsimp only) | (intro _ _; try dsimp only) | (intro _; try dsimp only)
  all_goals try simp (maxDischargeDepth := 20) +contextual [*]
@[simp] theorem fetchTouch_canon (s : State) (w : Wave) (ia : Nat) (scout : Bool) (hs : Canon s) : Canon (fetchTouch s w ia scout) := by
  unfold fetchTouch
  (try dsimp only)
  repeat' first | split | (with_reducible refine canon_foldl _ ?_ _ _ ?_) | (with_reducible refine canon_foldl1 _ ?_ _ _ ?_) | (with_reducible refine canon_foldl2 _ ?_ _ _ ?_) | (with_reducible refine loaded_foldl _ ?_ _ _ ?_) | (with_reducible refine steps_foldl _ ?_ _ _ ?_) | (with_reducible refine runWord_canon _ _ _ ?_ ?_) | (with_reducible refine crossWord_canon _ _ _ ?_ ?_) | (with_reducible refine issue_canon _ _ _ _ ?_ ?_ ?_) | (with_reducible refine access_canon _ _ _ _ ?_ ?_ ?_) | (with_reducible refine canon_getD ?_ ?_) | (intro _ _ _; try dsimp only) | (intro _ _; try dsimp only) | (intro _; try dsimp only)
  all_goals try simp (maxDischargeDepth := 20) +contextual [*]

/-! ### Memory -/

@[simp] theorem loadLane_canon (c : Ctx) (v : Lanes Verdict) (a : Lane → DWord) (n : Nat) (ext : Nat → BitVec 128) (x : Loaded) (l : Lane) (hc : Canon c.s) (hx : Canon x.s) : Canon (loadLane c v a n ext x l).s := by
  unfold loadLane
  (try dsimp only)
  repeat' first | split | (with_reducible refine canon_foldl _ ?_ _ _ ?_) | (with_reducible refine canon_foldl1 _ ?_ _ _ ?_) | (with_reducible refine canon_foldl2 _ ?_ _ _ ?_) | (with_reducible refine loaded_foldl _ ?_ _ _ ?_) | (with_reducible refine steps_foldl _ ?_ _ _ ?_) | (with_reducible refine runWord_canon _ _ _ ?_ ?_) | (with_reducible refine crossWord_canon _ _ _ ?_ ?_) | (with_reducible refine issue_canon _ _ _ _ ?_ ?_ ?_) | (with_reducible refine access_canon _ _ _ _ ?_ ?_ ?_) | (with_reducible refine canon_getD ?_ ?_) | (intro _ _ _; try dsimp only) | (intro _ _; try dsimp only) | (intro _; try dsimp only)
  all_goals try simp (maxDischargeDepth := 20) +contextual [*]
@[simp] theorem sendLoad_canon (c : Ctx) (v : Lanes Verdict) (a : Lane → DWord) (n : Nat) (ext : Nat → BitVec 128) (pred : Option Pred) (m : Mask) (hc : Canon c.s) : Canon (sendLoad c v a n ext pred m) := by
  unfold sendLoad
  (try dsimp only)
  repeat' first | split | (refine canon_foldl _ ?_ _ _ ?_) | (refine canon_foldl1 _ ?_ _ _ ?_) | (refine canon_foldl2 _ ?_ _ _ ?_) | (refine loaded_foldl _ ?_ _ _ ?_) | (refine steps_foldl _ ?_ _ _ ?_) | (refine runWord_canon _ _ _ ?_ ?_) | (refine crossWord_canon _ _ _ ?_ ?_) | (refine issue_canon _ _ _ _ ?_ ?_ ?_) | (refine access_canon _ _ _ _ ?_ ?_ ?_) | (refine canon_getD ?_ ?_) | (intro _ _ _; try dsimp only) | (intro _ _; try dsimp only) | (intro _; try dsimp only)
  all_goals try simp (maxDischargeDepth := 20) +contextual [*]
@[simp] theorem askLoads_canon (c : Ctx) (v : Lanes Verdict) (n : Nat) (hc : Canon c.s) : Canon (askLoads c v n) := by
  unfold askLoads
  (try dsimp only)
  repeat' first | split | (with_reducible refine canon_foldl _ ?_ _ _ ?_) | (with_reducible refine canon_foldl1 _ ?_ _ _ ?_) | (with_reducible refine canon_foldl2 _ ?_ _ _ ?_) | (with_reducible refine loaded_foldl _ ?_ _ _ ?_) | (with_reducible refine steps_foldl _ ?_ _ _ ?_) | (with_reducible refine runWord_canon _ _ _ ?_ ?_) | (with_reducible refine crossWord_canon _ _ _ ?_ ?_) | (with_reducible refine issue_canon _ _ _ _ ?_ ?_ ?_) | (with_reducible refine access_canon _ _ _ _ ?_ ?_ ?_) | (with_reducible refine canon_getD ?_ ?_) | (intro _ _ _; try dsimp only) | (intro _ _; try dsimp only) | (intro _; try dsimp only)
  all_goals try simp (maxDischargeDepth := 20) +contextual [*]
@[simp] theorem loadBody_canon (c : Ctx) (a : Lane → DWord) (n : Nat) (ext : Nat → BitVec 128) (pred : Option Pred) (hc : Canon c.s) : ResC (loadBody c a n ext pred) := by
  unfold loadBody
  extract_lets v
  split
  · exact hc
  · split
    · simp [hc]
    · exact access_canon _ _ _ _ hc (fun m => sendLoad_canon _ _ _ _ _ _ _ hc) (fun t ht => ht)
@[simp] theorem scoutLoad_canon (c : Ctx) (h : Shadow) (a : DWord) (n : Nat) (s : State) (l : Lane) (hc : Canon c.s) (hs : Canon s) : Canon (scoutLoad c h a n s l).2 := by
  unfold scoutLoad
  (try dsimp only)
  repeat' first | split | (with_reducible refine canon_foldl _ ?_ _ _ ?_) | (with_reducible refine canon_foldl1 _ ?_ _ _ ?_) | (with_reducible refine canon_foldl2 _ ?_ _ _ ?_) | (with_reducible refine loaded_foldl _ ?_ _ _ ?_) | (with_reducible refine steps_foldl _ ?_ _ _ ?_) | (with_reducible refine runWord_canon _ _ _ ?_ ?_) | (with_reducible refine crossWord_canon _ _ _ ?_ ?_) | (with_reducible refine issue_canon _ _ _ _ ?_ ?_ ?_) | (with_reducible refine access_canon _ _ _ _ ?_ ?_ ?_) | (with_reducible refine canon_getD ?_ ?_) | (intro _ _ _; try dsimp only) | (intro _ _; try dsimp only) | (intro _; try dsimp only)
  all_goals try simp (maxDischargeDepth := 20) +contextual [*]
@[simp] theorem scoutLoads_canon (off : Int) (n : Nat) (ext : Nat → BitVec 128) (pred : Option Pred) (c : Ctx) (hc : Canon c.s) : ScoutC (scoutLoads off n ext pred c) := by
  unfold scoutLoads
  split
  · simp
  · next h _ =>
    extract_lets start x hit val s1 s2
    have hx : Canon x.1 := canon_foldl1 _ (fun t l ht => scoutLoad_canon _ _ _ _ _ _ hc ht) _ _ hc
    have h1 : Canon s1 := by simp only [s1]; split <;> simp [hx]
    have h2 : Canon s2 := by simp only [s2]; split <;> simp [h1]
    exact h2
theorem execLd_canon (e k : Bool) (d a : Reg) (o : BitVec 7) (v : LdW) (s : State) (hs : Canon s) : OutC (execLd e k d a o v s) := by
  unfold execLd
  (try dsimp only)
  repeat' first | split | (with_reducible refine canon_foldl _ ?_ _ _ ?_) | (with_reducible refine canon_foldl1 _ ?_ _ _ ?_) | (with_reducible refine canon_foldl2 _ ?_ _ _ ?_) | (with_reducible refine loaded_foldl _ ?_ _ _ ?_) | (with_reducible refine steps_foldl _ ?_ _ _ ?_) | (with_reducible refine runWord_canon _ _ _ ?_ ?_) | (with_reducible refine crossWord_canon _ _ _ ?_ ?_) | (with_reducible refine issue_canon _ _ _ _ ?_ ?_ ?_) | (with_reducible refine access_canon _ _ _ _ ?_ ?_ ?_) | (with_reducible refine canon_getD ?_ ?_) | (intro _ _ _; try dsimp only) | (intro _ _; try dsimp only) | (intro _; try dsimp only)
  all_goals try simp (maxDischargeDepth := 20) +contextual [*]
theorem execLdR_canon (e k : Bool) (d a : Reg) (p : Fin 8) (o : BitVec 4) (v : LdW) (s : State) (hs : Canon s) : OutC (execLdR e k d a p o v s) := by
  unfold execLdR
  (try dsimp only)
  repeat' first | split | (with_reducible refine canon_foldl _ ?_ _ _ ?_) | (with_reducible refine canon_foldl1 _ ?_ _ _ ?_) | (with_reducible refine canon_foldl2 _ ?_ _ _ ?_) | (with_reducible refine loaded_foldl _ ?_ _ _ ?_) | (with_reducible refine steps_foldl _ ?_ _ _ ?_) | (with_reducible refine runWord_canon _ _ _ ?_ ?_) | (with_reducible refine crossWord_canon _ _ _ ?_ ?_) | (with_reducible refine issue_canon _ _ _ _ ?_ ?_ ?_) | (with_reducible refine access_canon _ _ _ _ ?_ ?_ ?_) | (with_reducible refine canon_getD ?_ ?_) | (intro _ _ _; try dsimp only) | (intro _ _; try dsimp only) | (intro _; try dsimp only)
  all_goals try simp (maxDischargeDepth := 20) +contextual [*]
@[simp] theorem storeLanes_canon (c : Ctx) (v : Lanes Verdict) (a : Lane → DWord) (bytes : Lane → List Byte) (m : Mask) (hc : Canon c.s) : Canon (storeLanes c v a bytes m) := by
  unfold storeLanes
  (try dsimp only)
  repeat' first | split | (with_reducible refine canon_foldl _ ?_ _ _ ?_) | (with_reducible refine canon_foldl1 _ ?_ _ _ ?_) | (with_reducible refine canon_foldl2 _ ?_ _ _ ?_) | (with_reducible refine loaded_foldl _ ?_ _ _ ?_) | (with_reducible refine steps_foldl _ ?_ _ _ ?_) | (with_reducible refine runWord_canon _ _ _ ?_ ?_) | (with_reducible refine crossWord_canon _ _ _ ?_ ?_) | (with_reducible refine issue_canon _ _ _ _ ?_ ?_ ?_) | (with_reducible refine access_canon _ _ _ _ ?_ ?_ ?_) | (with_reducible refine canon_getD ?_ ?_) | (intro _ _ _; try dsimp only) | (intro _ _; try dsimp only) | (intro _; try dsimp only)
  all_goals try simp (maxDischargeDepth := 20) +contextual [*]
@[simp] theorem storeBody_canon (c : Ctx) (off : Int) (n : Nat) (hc : Canon c.s) : ResC (storeBody c off n) := by
  unfold storeBody
  (try dsimp only)
  repeat' first | split | (with_reducible refine canon_foldl _ ?_ _ _ ?_) | (with_reducible refine canon_foldl1 _ ?_ _ _ ?_) | (with_reducible refine canon_foldl2 _ ?_ _ _ ?_) | (with_reducible refine loaded_foldl _ ?_ _ _ ?_) | (with_reducible refine steps_foldl _ ?_ _ _ ?_) | (with_reducible refine runWord_canon _ _ _ ?_ ?_) | (with_reducible refine crossWord_canon _ _ _ ?_ ?_) | (with_reducible refine issue_canon _ _ _ _ ?_ ?_ ?_) | (with_reducible refine access_canon _ _ _ _ ?_ ?_ ?_) | (with_reducible refine canon_getD ?_ ?_) | (intro _ _ _; try dsimp only) | (intro _ _; try dsimp only) | (intro _; try dsimp only)
  all_goals try simp (maxDischargeDepth := 20) +contextual [*]
theorem execSt_canon (e : Bool) (d a : Reg) (o : BitVec 7) (v : StW) (s : State) (hs : Canon s) : OutC (execSt e d a o v s) := by
  unfold execSt
  (try dsimp only)
  repeat' first | split | (with_reducible refine canon_foldl _ ?_ _ _ ?_) | (with_reducible refine canon_foldl1 _ ?_ _ _ ?_) | (with_reducible refine canon_foldl2 _ ?_ _ _ ?_) | (with_reducible refine loaded_foldl _ ?_ _ _ ?_) | (with_reducible refine steps_foldl _ ?_ _ _ ?_) | (with_reducible refine runWord_canon _ _ _ ?_ ?_) | (with_reducible refine crossWord_canon _ _ _ ?_ ?_) | (with_reducible refine issue_canon _ _ _ _ ?_ ?_ ?_) | (with_reducible refine access_canon _ _ _ _ ?_ ?_ ?_) | (with_reducible refine canon_getD ?_ ?_) | (intro _ _ _; try dsimp only) | (intro _ _; try dsimp only) | (intro _; try dsimp only)
  all_goals try simp (maxDischargeDepth := 20) +contextual [*]
@[simp] theorem hint_canon (c : Ctx) (off : Int) (l1 : Bool) (count : Wave → Wave) (m : Mask) (hc : Canon c.s) : Canon (hint c off l1 count m) := by
  unfold hint
  (try dsimp only)
  repeat' first | split | (with_reducible refine canon_foldl _ ?_ _ _ ?_) | (with_reducible refine canon_foldl1 _ ?_ _ _ ?_) | (with_reducible refine canon_foldl2 _ ?_ _ _ ?_) | (with_reducible refine loaded_foldl _ ?_ _ _ ?_) | (with_reducible refine steps_foldl _ ?_ _ _ ?_) | (with_reducible refine runWord_canon _ _ _ ?_ ?_) | (with_reducible refine crossWord_canon _ _ _ ?_ ?_) | (with_reducible refine issue_canon _ _ _ _ ?_ ?_ ?_) | (with_reducible refine access_canon _ _ _ _ ?_ ?_ ?_) | (with_reducible refine canon_getD ?_ ?_) | (intro _ _ _; try dsimp only) | (intro _ _; try dsimp only) | (intro _; try dsimp only)
  all_goals try simp (maxDischargeDepth := 20) +contextual [*]
@[simp] theorem scoutPref_canon (off : Int) (l1 : Bool) (c : Ctx) (hc : Canon c.s) : ScoutC (scoutPref off l1 c) := by
  unfold scoutPref
  (try dsimp only)
  repeat' first | split | (with_reducible refine canon_foldl _ ?_ _ _ ?_) | (with_reducible refine canon_foldl1 _ ?_ _ _ ?_) | (with_reducible refine canon_foldl2 _ ?_ _ _ ?_) | (with_reducible refine loaded_foldl _ ?_ _ _ ?_) | (with_reducible refine steps_foldl _ ?_ _ _ ?_) | (with_reducible refine runWord_canon _ _ _ ?_ ?_) | (with_reducible refine crossWord_canon _ _ _ ?_ ?_) | (with_reducible refine issue_canon _ _ _ _ ?_ ?_ ?_) | (with_reducible refine access_canon _ _ _ _ ?_ ?_ ?_) | (with_reducible refine canon_getD ?_ ?_) | (intro _ _ _; try dsimp only) | (intro _ _; try dsimp only) | (intro _; try dsimp only)
  all_goals try simp (maxDischargeDepth := 20) +contextual [*]
theorem execPrefL1_canon (e : Bool) (a : Reg) (o : BitVec 7) (s : State) (hs : Canon s) : OutC (execPrefL1 e a o s) := by
  unfold execPrefL1
  (try dsimp only)
  repeat' first | split | (with_reducible refine canon_foldl _ ?_ _ _ ?_) | (with_reducible refine canon_foldl1 _ ?_ _ _ ?_) | (with_reducible refine canon_foldl2 _ ?_ _ _ ?_) | (with_reducible refine loaded_foldl _ ?_ _ _ ?_) | (with_reducible refine steps_foldl _ ?_ _ _ ?_) | (with_reducible refine runWord_canon _ _ _ ?_ ?_) | (with_reducible refine crossWord_canon _ _ _ ?_ ?_) | (with_reducible refine issue_canon _ _ _ _ ?_ ?_ ?_) | (with_reducible refine access_canon _ _ _ _ ?_ ?_ ?_) | (with_reducible refine canon_getD ?_ ?_) | (intro _ _ _; try dsimp only) | (intro _ _; try dsimp only) | (intro _; try dsimp only)
  all_goals try simp (maxDischargeDepth := 20) +contextual [*]
theorem execPrefLlc_canon (e : Bool) (a : Reg) (o : BitVec 7) (s : State) (hs : Canon s) : OutC (execPrefLlc e a o s) := by
  unfold execPrefLlc
  (try dsimp only)
  repeat' first | split | (with_reducible refine canon_foldl _ ?_ _ _ ?_) | (with_reducible refine canon_foldl1 _ ?_ _ _ ?_) | (with_reducible refine canon_foldl2 _ ?_ _ _ ?_) | (with_reducible refine loaded_foldl _ ?_ _ _ ?_) | (with_reducible refine steps_foldl _ ?_ _ _ ?_) | (with_reducible refine runWord_canon _ _ _ ?_ ?_) | (with_reducible refine crossWord_canon _ _ _ ?_ ?_) | (with_reducible refine issue_canon _ _ _ _ ?_ ?_ ?_) | (with_reducible refine access_canon _ _ _ _ ?_ ?_ ?_) | (with_reducible refine canon_getD ?_ ?_) | (intro _ _ _; try dsimp only) | (intro _ _; try dsimp only) | (intro _; try dsimp only)
  all_goals try simp (maxDischargeDepth := 20) +contextual [*]
@[simp] theorem requestPages_canon (c : Ctx) (v : Lanes Verdict) (m : Mask) (hc : Canon c.s) : Canon (requestPages c v m) := by
  unfold requestPages
  (try dsimp only)
  repeat' first | split | (with_reducible refine canon_foldl _ ?_ _ _ ?_) | (with_reducible refine canon_foldl1 _ ?_ _ _ ?_) | (with_reducible refine canon_foldl2 _ ?_ _ _ ?_) | (with_reducible refine loaded_foldl _ ?_ _ _ ?_) | (with_reducible refine steps_foldl _ ?_ _ _ ?_) | (with_reducible refine runWord_canon _ _ _ ?_ ?_) | (with_reducible refine crossWord_canon _ _ _ ?_ ?_) | (with_reducible refine issue_canon _ _ _ _ ?_ ?_ ?_) | (with_reducible refine access_canon _ _ _ _ ?_ ?_ ?_) | (with_reducible refine canon_getD ?_ ?_) | (intro _ _ _; try dsimp only) | (intro _ _; try dsimp only) | (intro _; try dsimp only)
  all_goals try simp (maxDischargeDepth := 20) +contextual [*]
theorem execPagereq_canon (e : Bool) (a : Reg) (o : BitVec 7) (s : State) (hs : Canon s) : OutC (execPagereq e a o s) := by
  unfold execPagereq
  (try dsimp only)
  repeat' first | split | (with_reducible refine canon_foldl _ ?_ _ _ ?_) | (with_reducible refine canon_foldl1 _ ?_ _ _ ?_) | (with_reducible refine canon_foldl2 _ ?_ _ _ ?_) | (with_reducible refine loaded_foldl _ ?_ _ _ ?_) | (with_reducible refine steps_foldl _ ?_ _ _ ?_) | (with_reducible refine runWord_canon _ _ _ ?_ ?_) | (with_reducible refine crossWord_canon _ _ _ ?_ ?_) | (with_reducible refine issue_canon _ _ _ _ ?_ ?_ ?_) | (with_reducible refine access_canon _ _ _ _ ?_ ?_ ?_) | (with_reducible refine canon_getD ?_ ?_) | (intro _ _ _; try dsimp only) | (intro _ _; try dsimp only) | (intro _; try dsimp only)
  all_goals try simp (maxDischargeDepth := 20) +contextual [*]
@[simp] theorem writeRange_canon (s : State) (c : Ctx) (l : Lane) (a : DWord) (ps : List Spot) (k : FlightKind) (hs : Canon s) (hc : Canon c.s) : Canon (writeRange s c l a ps k) := by
  unfold writeRange
  (try dsimp only)
  repeat' first | split | (refine canon_foldl _ ?_ _ _ ?_) | (refine canon_foldl1 _ ?_ _ _ ?_) | (refine canon_foldl2 _ ?_ _ _ ?_) | (refine loaded_foldl _ ?_ _ _ ?_) | (refine steps_foldl _ ?_ _ _ ?_) | (refine runWord_canon _ _ _ ?_ ?_) | (refine crossWord_canon _ _ _ ?_ ?_) | (refine issue_canon _ _ _ _ ?_ ?_ ?_) | (refine access_canon _ _ _ _ ?_ ?_ ?_) | (refine canon_getD ?_ ?_) | (intro _ _ _; try dsimp only) | (intro _ _; try dsimp only) | (intro _; try dsimp only)
  all_goals try simp (maxDischargeDepth := 20) +contextual [*]
@[simp] theorem rangeLanes_canon (c : Ctx) (off : Int) (colour : Bool) (kind : Word → FlightKind) (hc : Canon c.s) : Canon (rangeLanes c off colour kind).1 := by
  unfold rangeLanes
  (try dsimp only)
  repeat' first | split | (with_reducible refine canon_foldl _ ?_ _ _ ?_) | (with_reducible refine canon_foldl1 _ ?_ _ _ ?_) | (with_reducible refine canon_foldl2 _ ?_ _ _ ?_) | (with_reducible refine loaded_foldl _ ?_ _ _ ?_) | (with_reducible refine steps_foldl _ ?_ _ _ ?_) | (with_reducible refine runWord_canon _ _ _ ?_ ?_) | (with_reducible refine crossWord_canon _ _ _ ?_ ?_) | (with_reducible refine issue_canon _ _ _ _ ?_ ?_ ?_) | (with_reducible refine access_canon _ _ _ _ ?_ ?_ ?_) | (with_reducible refine canon_getD ?_ ?_) | (intro _ _ _; try dsimp only) | (intro _ _; try dsimp only) | (intro _; try dsimp only)
  all_goals try simp (maxDischargeDepth := 20) +contextual [*]
@[simp] theorem rangeBody_canon (c : Ctx) (off : Int) (colour : Bool) (kind : Word → FlightKind) (hc : Canon c.s) : ResC (rangeBody c off colour kind) := by
  unfold rangeBody
  (try dsimp only)
  repeat' first | split | (with_reducible refine canon_foldl _ ?_ _ _ ?_) | (with_reducible refine canon_foldl1 _ ?_ _ _ ?_) | (with_reducible refine canon_foldl2 _ ?_ _ _ ?_) | (with_reducible refine loaded_foldl _ ?_ _ _ ?_) | (with_reducible refine steps_foldl _ ?_ _ _ ?_) | (with_reducible refine runWord_canon _ _ _ ?_ ?_) | (with_reducible refine crossWord_canon _ _ _ ?_ ?_) | (with_reducible refine issue_canon _ _ _ _ ?_ ?_ ?_) | (with_reducible refine access_canon _ _ _ _ ?_ ?_ ?_) | (with_reducible refine canon_getD ?_ ?_) | (intro _ _ _; try dsimp only) | (intro _ _; try dsimp only) | (intro _; try dsimp only)
  all_goals try simp (maxDischargeDepth := 20) +contextual [*]
theorem execColour_canon (e : Bool) (d a : Reg) (o : BitVec 7) (s : State) (hs : Canon s) : OutC (execColour e d a o s) := by
  unfold execColour
  (try dsimp only)
  repeat' first | split | (with_reducible refine canon_foldl _ ?_ _ _ ?_) | (with_reducible refine canon_foldl1 _ ?_ _ _ ?_) | (with_reducible refine canon_foldl2 _ ?_ _ _ ?_) | (with_reducible refine loaded_foldl _ ?_ _ _ ?_) | (with_reducible refine steps_foldl _ ?_ _ _ ?_) | (with_reducible refine runWord_canon _ _ _ ?_ ?_) | (with_reducible refine crossWord_canon _ _ _ ?_ ?_) | (with_reducible refine issue_canon _ _ _ _ ?_ ?_ ?_) | (with_reducible refine access_canon _ _ _ _ ?_ ?_ ?_) | (with_reducible refine canon_getD ?_ ?_) | (intro _ _ _; try dsimp only) | (intro _ _; try dsimp only) | (intro _; try dsimp only)
  all_goals try simp (maxDischargeDepth := 20) +contextual [*]
theorem execTagset_canon (e : Bool) (d a : Reg) (o : BitVec 7) (s : State) (hs : Canon s) : OutC (execTagset e d a o s) := by
  unfold execTagset
  (try dsimp only)
  repeat' first | split | (with_reducible refine canon_foldl _ ?_ _ _ ?_) | (with_reducible refine canon_foldl1 _ ?_ _ _ ?_) | (with_reducible refine canon_foldl2 _ ?_ _ _ ?_) | (with_reducible refine loaded_foldl _ ?_ _ _ ?_) | (with_reducible refine steps_foldl _ ?_ _ _ ?_) | (with_reducible refine runWord_canon _ _ _ ?_ ?_) | (with_reducible refine crossWord_canon _ _ _ ?_ ?_) | (with_reducible refine issue_canon _ _ _ _ ?_ ?_ ?_) | (with_reducible refine access_canon _ _ _ _ ?_ ?_ ?_) | (with_reducible refine canon_getD ?_ ?_) | (intro _ _ _; try dsimp only) | (intro _ _; try dsimp only) | (intro _; try dsimp only)
  all_goals try simp (maxDischargeDepth := 20) +contextual [*]
@[simp] theorem tagLane_canon (c : Ctx) (v : Lanes Verdict) (a : Lane → DWord) (s : State) (l : Lane) (hc : Canon c.s) (hs : Canon s) : Canon (tagLane c v a s l) := by
  unfold tagLane
  (try dsimp only)
  repeat' first | split | (with_reducible refine canon_foldl _ ?_ _ _ ?_) | (with_reducible refine canon_foldl1 _ ?_ _ _ ?_) | (with_reducible refine canon_foldl2 _ ?_ _ _ ?_) | (with_reducible refine loaded_foldl _ ?_ _ _ ?_) | (with_reducible refine steps_foldl _ ?_ _ _ ?_) | (with_reducible refine runWord_canon _ _ _ ?_ ?_) | (with_reducible refine crossWord_canon _ _ _ ?_ ?_) | (with_reducible refine issue_canon _ _ _ _ ?_ ?_ ?_) | (with_reducible refine access_canon _ _ _ _ ?_ ?_ ?_) | (with_reducible refine canon_getD ?_ ?_) | (intro _ _ _; try dsimp only) | (intro _ _; try dsimp only) | (intro _; try dsimp only)
  all_goals try simp (maxDischargeDepth := 20) +contextual [*]
@[simp] theorem deliver_canon (c : Ctx) (s : State) (m : Mask) (f : Lane → BitVec 128) (hc : Canon c.s) (hs : Canon s) : Canon (deliver c s m f) := by
  unfold deliver
  (try dsimp only)
  repeat' first | split | (with_reducible refine canon_foldl _ ?_ _ _ ?_) | (with_reducible refine canon_foldl1 _ ?_ _ _ ?_) | (with_reducible refine canon_foldl2 _ ?_ _ _ ?_) | (with_reducible refine loaded_foldl _ ?_ _ _ ?_) | (with_reducible refine steps_foldl _ ?_ _ _ ?_) | (with_reducible refine runWord_canon _ _ _ ?_ ?_) | (with_reducible refine crossWord_canon _ _ _ ?_ ?_) | (with_reducible refine issue_canon _ _ _ _ ?_ ?_ ?_) | (with_reducible refine access_canon _ _ _ _ ?_ ?_ ?_) | (with_reducible refine canon_getD ?_ ?_) | (intro _ _ _; try dsimp only) | (intro _ _; try dsimp only) | (intro _; try dsimp only)
  all_goals try simp (maxDischargeDepth := 20) +contextual [*]
@[simp] theorem delivered_canon (c : Ctx) (f : Lane → BitVec 128) (s : State) (hc : Canon c.s) (hs : Canon s) : ResC (delivered c f s) := by
  unfold delivered
  (try dsimp only)
  repeat' first | split | (with_reducible refine canon_foldl _ ?_ _ _ ?_) | (with_reducible refine canon_foldl1 _ ?_ _ _ ?_) | (with_reducible refine canon_foldl2 _ ?_ _ _ ?_) | (with_reducible refine loaded_foldl _ ?_ _ _ ?_) | (with_reducible refine steps_foldl _ ?_ _ _ ?_) | (with_reducible refine runWord_canon _ _ _ ?_ ?_) | (with_reducible refine crossWord_canon _ _ _ ?_ ?_) | (with_reducible refine issue_canon _ _ _ _ ?_ ?_ ?_) | (with_reducible refine access_canon _ _ _ _ ?_ ?_ ?_) | (with_reducible refine canon_getD ?_ ?_) | (intro _ _ _; try dsimp only) | (intro _ _; try dsimp only) | (intro _; try dsimp only)
  all_goals try simp (maxDischargeDepth := 20) +contextual [*]
@[simp] theorem tagBody_canon (c : Ctx) (off : Int) (hc : Canon c.s) : ResC (tagBody c off) := by
  unfold tagBody
  extract_lets v f
  split
  · exact hc
  · refine access_canon _ _ _ _ hc (fun m => deliver_canon _ _ _ _ hc ?_) (fun t ht => delivered_canon _ _ _ hc ht)
    exact canon_foldl _ (fun t l ht => tagLane_canon _ _ _ _ _ hc ht) _ _ hc
@[simp] theorem scoutTag_canon (off : Int) (c : Ctx) (hc : Canon c.s) : ScoutC (scoutTag off c) := by
  unfold scoutTag
  (try dsimp only)
  repeat' first | split | (with_reducible refine canon_foldl _ ?_ _ _ ?_) | (with_reducible refine canon_foldl1 _ ?_ _ _ ?_) | (with_reducible refine canon_foldl2 _ ?_ _ _ ?_) | (with_reducible refine loaded_foldl _ ?_ _ _ ?_) | (with_reducible refine steps_foldl _ ?_ _ _ ?_) | (with_reducible refine runWord_canon _ _ _ ?_ ?_) | (with_reducible refine crossWord_canon _ _ _ ?_ ?_) | (with_reducible refine issue_canon _ _ _ _ ?_ ?_ ?_) | (with_reducible refine access_canon _ _ _ _ ?_ ?_ ?_) | (with_reducible refine canon_getD ?_ ?_) | (intro _ _ _; try dsimp only) | (intro _ _; try dsimp only) | (intro _; try dsimp only)
  all_goals try simp (maxDischargeDepth := 20) +contextual [*]
theorem execTagget_canon (e k : Bool) (d a : Reg) (o : BitVec 7) (s : State) (hs : Canon s) : OutC (execTagget e k d a o s) := by
  unfold execTagget
  (try dsimp only)
  repeat' first | split | (with_reducible refine canon_foldl _ ?_ _ _ ?_) | (with_reducible refine canon_foldl1 _ ?_ _ _ ?_) | (with_reducible refine canon_foldl2 _ ?_ _ _ ?_) | (with_reducible refine loaded_foldl _ ?_ _ _ ?_) | (with_reducible refine steps_foldl _ ?_ _ _ ?_) | (with_reducible refine runWord_canon _ _ _ ?_ ?_) | (with_reducible refine crossWord_canon _ _ _ ?_ ?_) | (with_reducible refine issue_canon _ _ _ _ ?_ ?_ ?_) | (with_reducible refine access_canon _ _ _ _ ?_ ?_ ?_) | (with_reducible refine canon_getD ?_ ?_) | (intro _ _ _; try dsimp only) | (intro _ _; try dsimp only) | (intro _; try dsimp only)
  all_goals try simp (maxDischargeDepth := 20) +contextual [*]
@[simp] theorem acquireAt_canon (s : State) (c : Ctx) (sc : Scope) (hs : Canon s) (hc : Canon c.s) : Canon (acquireAt s c sc) := by
  unfold acquireAt
  (try dsimp only)
  repeat' first | split | (with_reducible refine canon_foldl _ ?_ _ _ ?_) | (with_reducible refine canon_foldl1 _ ?_ _ _ ?_) | (with_reducible refine canon_foldl2 _ ?_ _ _ ?_) | (with_reducible refine loaded_foldl _ ?_ _ _ ?_) | (with_reducible refine steps_foldl _ ?_ _ _ ?_) | (with_reducible refine runWord_canon _ _ _ ?_ ?_) | (with_reducible refine crossWord_canon _ _ _ ?_ ?_) | (with_reducible refine issue_canon _ _ _ _ ?_ ?_ ?_) | (with_reducible refine access_canon _ _ _ _ ?_ ?_ ?_) | (with_reducible refine canon_getD ?_ ?_) | (intro _ _ _; try dsimp only) | (intro _ _; try dsimp only) | (intro _; try dsimp only)
  all_goals try simp (maxDischargeDepth := 20) +contextual [*]
theorem execFence_canon (e : Bool) (sc : Scope) (s : State) (hs : Canon s) : OutC (execFence e sc s) := by
  unfold execFence
  (try dsimp only)
  repeat' first | split | (with_reducible refine canon_foldl _ ?_ _ _ ?_) | (with_reducible refine canon_foldl1 _ ?_ _ _ ?_) | (with_reducible refine canon_foldl2 _ ?_ _ _ ?_) | (with_reducible refine loaded_foldl _ ?_ _ _ ?_) | (with_reducible refine steps_foldl _ ?_ _ _ ?_) | (with_reducible refine runWord_canon _ _ _ ?_ ?_) | (with_reducible refine crossWord_canon _ _ _ ?_ ?_) | (with_reducible refine issue_canon _ _ _ _ ?_ ?_ ?_) | (with_reducible refine access_canon _ _ _ _ ?_ ?_ ?_) | (with_reducible refine canon_getD ?_ ?_) | (intro _ _ _; try dsimp only) | (intro _ _; try dsimp only) | (intro _; try dsimp only)
  all_goals try simp (maxDischargeDepth := 20) +contextual [*]
theorem execAcq_canon (e : Bool) (sc : Scope) (s : State) (hs : Canon s) : OutC (execAcq e sc s) := by
  unfold execAcq
  (try dsimp only)
  repeat' first | split | (with_reducible refine canon_foldl _ ?_ _ _ ?_) | (with_reducible refine canon_foldl1 _ ?_ _ _ ?_) | (with_reducible refine canon_foldl2 _ ?_ _ _ ?_) | (with_reducible refine loaded_foldl _ ?_ _ _ ?_) | (with_reducible refine steps_foldl _ ?_ _ _ ?_) | (with_reducible refine runWord_canon _ _ _ ?_ ?_) | (with_reducible refine crossWord_canon _ _ _ ?_ ?_) | (with_reducible refine issue_canon _ _ _ _ ?_ ?_ ?_) | (with_reducible refine access_canon _ _ _ _ ?_ ?_ ?_) | (with_reducible refine canon_getD ?_ ?_) | (intro _ _ _; try dsimp only) | (intro _ _; try dsimp only) | (intro _; try dsimp only)
  all_goals try simp (maxDischargeDepth := 20) +contextual [*]
theorem execRel_canon (e : Bool) (sc : Scope) (s : State) (hs : Canon s) : OutC (execRel e sc s) := by
  unfold execRel
  (try dsimp only)
  repeat' first | split | (with_reducible refine canon_foldl _ ?_ _ _ ?_) | (with_reducible refine canon_foldl1 _ ?_ _ _ ?_) | (with_reducible refine canon_foldl2 _ ?_ _ _ ?_) | (with_reducible refine loaded_foldl _ ?_ _ _ ?_) | (with_reducible refine steps_foldl _ ?_ _ _ ?_) | (with_reducible refine runWord_canon _ _ _ ?_ ?_) | (with_reducible refine crossWord_canon _ _ _ ?_ ?_) | (with_reducible refine issue_canon _ _ _ _ ?_ ?_ ?_) | (with_reducible refine access_canon _ _ _ _ ?_ ?_ ?_) | (with_reducible refine canon_getD ?_ ?_) | (intro _ _ _; try dsimp only) | (intro _ _; try dsimp only) | (intro _; try dsimp only)
  all_goals try simp (maxDischargeDepth := 20) +contextual [*]
@[simp] theorem joinSharing_canon (s : State) (g : Group) (key : Word) (hs : Canon s) : Canon (joinSharing s g key).1 := by
  unfold joinSharing
  (try dsimp only)
  repeat' first | split | (with_reducible refine canon_foldl _ ?_ _ _ ?_) | (with_reducible refine canon_foldl1 _ ?_ _ _ ?_) | (with_reducible refine canon_foldl2 _ ?_ _ _ ?_) | (with_reducible refine loaded_foldl _ ?_ _ _ ?_) | (with_reducible refine steps_foldl _ ?_ _ _ ?_) | (with_reducible refine runWord_canon _ _ _ ?_ ?_) | (with_reducible refine crossWord_canon _ _ _ ?_ ?_) | (with_reducible refine issue_canon _ _ _ _ ?_ ?_ ?_) | (with_reducible refine access_canon _ _ _ _ ?_ ?_ ?_) | (with_reducible refine canon_getD ?_ ?_) | (intro _ _ _; try dsimp only) | (intro _ _; try dsimp only) | (intro _; try dsimp only)
  all_goals try simp (maxDischargeDepth := 20) +contextual [*]
theorem execCjoin_canon (e k : Bool) (d : Reg) (s : State) (hs : Canon s) : OutC (execCjoin e k d s) := by
  unfold execCjoin
  (try dsimp only)
  repeat' first | split | (with_reducible refine canon_foldl _ ?_ _ _ ?_) | (with_reducible refine canon_foldl1 _ ?_ _ _ ?_) | (with_reducible refine canon_foldl2 _ ?_ _ _ ?_) | (with_reducible refine loaded_foldl _ ?_ _ _ ?_) | (with_reducible refine steps_foldl _ ?_ _ _ ?_) | (with_reducible refine runWord_canon _ _ _ ?_ ?_) | (with_reducible refine crossWord_canon _ _ _ ?_ ?_) | (with_reducible refine issue_canon _ _ _ _ ?_ ?_ ?_) | (with_reducible refine access_canon _ _ _ _ ?_ ?_ ?_) | (with_reducible refine canon_getD ?_ ?_) | (intro _ _ _; try dsimp only) | (intro _ _; try dsimp only) | (intro _; try dsimp only)
  all_goals try simp (maxDischargeDepth := 20) +contextual [*]
theorem execCleave_canon (e : Bool) (s : State) (hs : Canon s) : OutC (execCleave e s) := by
  unfold execCleave
  (try dsimp only)
  repeat' first | split | (with_reducible refine canon_foldl _ ?_ _ _ ?_) | (with_reducible refine canon_foldl1 _ ?_ _ _ ?_) | (with_reducible refine canon_foldl2 _ ?_ _ _ ?_) | (with_reducible refine loaded_foldl _ ?_ _ _ ?_) | (with_reducible refine steps_foldl _ ?_ _ _ ?_) | (with_reducible refine runWord_canon _ _ _ ?_ ?_) | (with_reducible refine crossWord_canon _ _ _ ?_ ?_) | (with_reducible refine issue_canon _ _ _ _ ?_ ?_ ?_) | (with_reducible refine access_canon _ _ _ _ ?_ ?_ ?_) | (with_reducible refine canon_getD ?_ ?_) | (intro _ _ _; try dsimp only) | (intro _ _; try dsimp only) | (intro _; try dsimp only)
  all_goals try simp (maxDischargeDepth := 20) +contextual [*]

/-! ### Atomics -/

@[simp] theorem sendAtom_canon (c : Ctx) (op : AtOp) (sc : Scope) (ret : Bool) (ptr : Lane → DWord) (s : State) (x : Nat × List Lane) (hc : Canon c.s) (hs : Canon s) : Canon (sendAtom c op sc ret ptr s x) := by
  unfold sendAtom
  (try dsimp only)
  repeat' first | split | (with_reducible refine canon_foldl _ ?_ _ _ ?_) | (with_reducible refine canon_foldl1 _ ?_ _ _ ?_) | (with_reducible refine canon_foldl2 _ ?_ _ _ ?_) | (with_reducible refine loaded_foldl _ ?_ _ _ ?_) | (with_reducible refine steps_foldl _ ?_ _ _ ?_) | (with_reducible refine runWord_canon _ _ _ ?_ ?_) | (with_reducible refine crossWord_canon _ _ _ ?_ ?_) | (with_reducible refine issue_canon _ _ _ _ ?_ ?_ ?_) | (with_reducible refine access_canon _ _ _ _ ?_ ?_ ?_) | (with_reducible refine canon_getD ?_ ?_) | (intro _ _ _; try dsimp only) | (intro _ _; try dsimp only) | (intro _; try dsimp only)
  all_goals try simp (maxDischargeDepth := 20) +contextual [*]
@[simp] theorem atomBody_canon (c : Ctx) (op : AtOp) (sc : Scope) (off : Int) (ret : Bool) (hc : Canon c.s) : ResC (atomBody c op sc off ret) := by
  unfold atomBody
  (try dsimp only)
  repeat' first | split | (with_reducible refine canon_foldl _ ?_ _ _ ?_) | (with_reducible refine canon_foldl1 _ ?_ _ _ ?_) | (with_reducible refine canon_foldl2 _ ?_ _ _ ?_) | (with_reducible refine loaded_foldl _ ?_ _ _ ?_) | (with_reducible refine steps_foldl _ ?_ _ _ ?_) | (with_reducible refine runWord_canon _ _ _ ?_ ?_) | (with_reducible refine crossWord_canon _ _ _ ?_ ?_) | (with_reducible refine issue_canon _ _ _ _ ?_ ?_ ?_) | (with_reducible refine access_canon _ _ _ _ ?_ ?_ ?_) | (with_reducible refine canon_getD ?_ ?_) | (intro _ _ _; try dsimp only) | (intro _ _; try dsimp only) | (intro _; try dsimp only)
  all_goals try simp (maxDischargeDepth := 20) +contextual [*]
theorem execAtomInt_canon (e k : Bool) (d a : Reg) (sc : Scope) (o : BitVec 4) (v : RedOp) (s : State) (hs : Canon s) : OutC (execAtomInt e k d a sc o v s) := by
  unfold execAtomInt
  (try dsimp only)
  repeat' first | split | (with_reducible refine canon_foldl _ ?_ _ _ ?_) | (with_reducible refine canon_foldl1 _ ?_ _ _ ?_) | (with_reducible refine canon_foldl2 _ ?_ _ _ ?_) | (with_reducible refine loaded_foldl _ ?_ _ _ ?_) | (with_reducible refine steps_foldl _ ?_ _ _ ?_) | (with_reducible refine runWord_canon _ _ _ ?_ ?_) | (with_reducible refine crossWord_canon _ _ _ ?_ ?_) | (with_reducible refine issue_canon _ _ _ _ ?_ ?_ ?_) | (with_reducible refine access_canon _ _ _ _ ?_ ?_ ?_) | (with_reducible refine canon_getD ?_ ?_) | (intro _ _ _; try dsimp only) | (intro _ _; try dsimp only) | (intro _; try dsimp only)
  all_goals try simp (maxDischargeDepth := 20) +contextual [*]
theorem execAtomExt_canon (e k : Bool) (d a : Reg) (sc : Scope) (o : BitVec 4) (v : AtomX) (s : State) (hs : Canon s) : OutC (execAtomExt e k d a sc o v s) := by
  unfold execAtomExt
  (try dsimp only)
  repeat' first | split | (with_reducible refine canon_foldl _ ?_ _ _ ?_) | (with_reducible refine canon_foldl1 _ ?_ _ _ ?_) | (with_reducible refine canon_foldl2 _ ?_ _ _ ?_) | (with_reducible refine loaded_foldl _ ?_ _ _ ?_) | (with_reducible refine steps_foldl _ ?_ _ _ ?_) | (with_reducible refine runWord_canon _ _ _ ?_ ?_) | (with_reducible refine crossWord_canon _ _ _ ?_ ?_) | (with_reducible refine issue_canon _ _ _ _ ?_ ?_ ?_) | (with_reducible refine access_canon _ _ _ _ ?_ ?_ ?_) | (with_reducible refine canon_getD ?_ ?_) | (intro _ _ _; try dsimp only) | (intro _ _; try dsimp only) | (intro _; try dsimp only)
  all_goals try simp (maxDischargeDepth := 20) +contextual [*]
theorem execRedInt_canon (e : Bool) (d a : Reg) (sc : Scope) (o : BitVec 4) (v : RedOp) (s : State) (hs : Canon s) : OutC (execRedInt e d a sc o v s) := by
  unfold execRedInt
  (try dsimp only)
  repeat' first | split | (with_reducible refine canon_foldl _ ?_ _ _ ?_) | (with_reducible refine canon_foldl1 _ ?_ _ _ ?_) | (with_reducible refine canon_foldl2 _ ?_ _ _ ?_) | (with_reducible refine loaded_foldl _ ?_ _ _ ?_) | (with_reducible refine steps_foldl _ ?_ _ _ ?_) | (with_reducible refine runWord_canon _ _ _ ?_ ?_) | (with_reducible refine crossWord_canon _ _ _ ?_ ?_) | (with_reducible refine issue_canon _ _ _ _ ?_ ?_ ?_) | (with_reducible refine access_canon _ _ _ _ ?_ ?_ ?_) | (with_reducible refine canon_getD ?_ ?_) | (intro _ _ _; try dsimp only) | (intro _ _; try dsimp only) | (intro _; try dsimp only)
  all_goals try simp (maxDischargeDepth := 20) +contextual [*]
theorem execRedExt_canon (e : Bool) (d a : Reg) (sc : Scope) (o : BitVec 4) (v : RedX) (s : State) (hs : Canon s) : OutC (execRedExt e d a sc o v s) := by
  unfold execRedExt
  (try dsimp only)
  repeat' first | split | (with_reducible refine canon_foldl _ ?_ _ _ ?_) | (with_reducible refine canon_foldl1 _ ?_ _ _ ?_) | (with_reducible refine canon_foldl2 _ ?_ _ _ ?_) | (with_reducible refine loaded_foldl _ ?_ _ _ ?_) | (with_reducible refine steps_foldl _ ?_ _ _ ?_) | (with_reducible refine runWord_canon _ _ _ ?_ ?_) | (with_reducible refine crossWord_canon _ _ _ ?_ ?_) | (with_reducible refine issue_canon _ _ _ _ ?_ ?_ ?_) | (with_reducible refine access_canon _ _ _ _ ?_ ?_ ?_) | (with_reducible refine canon_getD ?_ ?_) | (intro _ _ _; try dsimp only) | (intro _ _; try dsimp only) | (intro _; try dsimp only)
  all_goals try simp (maxDischargeDepth := 20) +contextual [*]

/-! ### Buffers -/

@[simp] theorem watchBuf_canon (s : State) (c : Ctx) (l : Lane) (kind : Nat) (p : BufSpot) (n : Nat) (hs : Canon s) (hc : Canon c.s) : Canon (watchBuf s c l kind p n) := by
  unfold watchBuf
  (try dsimp only)
  repeat' first | split | (with_reducible refine canon_foldl _ ?_ _ _ ?_) | (with_reducible refine canon_foldl1 _ ?_ _ _ ?_) | (with_reducible refine canon_foldl2 _ ?_ _ _ ?_) | (with_reducible refine loaded_foldl _ ?_ _ _ ?_) | (with_reducible refine steps_foldl _ ?_ _ _ ?_) | (with_reducible refine runWord_canon _ _ _ ?_ ?_) | (with_reducible refine crossWord_canon _ _ _ ?_ ?_) | (with_reducible refine issue_canon _ _ _ _ ?_ ?_ ?_) | (with_reducible refine access_canon _ _ _ _ ?_ ?_ ?_) | (with_reducible refine bufAccess_canon _ _ _ _ ?_ ?_ ?_) | (with_reducible refine canon_getD ?_ ?_) | (intro _ _ _; try dsimp only) | (intro _ _; try dsimp only) | (intro _; try dsimp only)
  all_goals try simp (maxDischargeDepth := 20) +contextual [*]
@[simp] theorem bufWrite_canon (s : State) (g buf off : Nat) (bs : List Byte) (hs : Canon s) : Canon (bufWrite s g buf off bs) := by
  unfold bufWrite
  (try dsimp only)
  repeat' first | split | (with_reducible refine canon_foldl _ ?_ _ _ ?_) | (with_reducible refine canon_foldl1 _ ?_ _ _ ?_) | (with_reducible refine canon_foldl2 _ ?_ _ _ ?_) | (with_reducible refine loaded_foldl _ ?_ _ _ ?_) | (with_reducible refine steps_foldl _ ?_ _ _ ?_) | (with_reducible refine runWord_canon _ _ _ ?_ ?_) | (with_reducible refine crossWord_canon _ _ _ ?_ ?_) | (with_reducible refine issue_canon _ _ _ _ ?_ ?_ ?_) | (with_reducible refine access_canon _ _ _ _ ?_ ?_ ?_) | (with_reducible refine bufAccess_canon _ _ _ _ ?_ ?_ ?_) | (with_reducible refine canon_getD ?_ ?_) | (intro _ _ _; try dsimp only) | (intro _ _; try dsimp only) | (intro _; try dsimp only)
  all_goals try simp (maxDischargeDepth := 20) +contextual [*]
@[simp] theorem bufAccess_canon (c : Ctx) (v : Lanes BufVerdict) (perform : Mask → State) (finish : State → Res) (hc : Canon c.s) (hperform : ∀ m, Canon (perform m)) (hfinish : ∀ t, Canon t → ResC (finish t)) : ResC (bufAccess c v perform finish) := by
  unfold bufAccess
  (try dsimp only)
  repeat' first | split | (with_reducible refine canon_foldl _ ?_ _ _ ?_) | (with_reducible refine canon_foldl1 _ ?_ _ _ ?_) | (with_reducible refine canon_foldl2 _ ?_ _ _ ?_) | (with_reducible refine loaded_foldl _ ?_ _ _ ?_) | (with_reducible refine steps_foldl _ ?_ _ _ ?_) | (with_reducible refine runWord_canon _ _ _ ?_ ?_) | (with_reducible refine crossWord_canon _ _ _ ?_ ?_) | (with_reducible refine issue_canon _ _ _ _ ?_ ?_ ?_) | (with_reducible refine access_canon _ _ _ _ ?_ ?_ ?_) | (with_reducible refine bufAccess_canon _ _ _ _ ?_ ?_ ?_) | (with_reducible refine canon_getD ?_ ?_) | (intro _ _ _; try dsimp only) | (intro _ _; try dsimp only) | (intro _; try dsimp only)
  all_goals try simp (maxDischargeDepth := 20) +contextual [*]
@[simp] theorem ldaBody_canon (c : Ctx) (o : Int) (n : Nat) (peer : Bool) (hc : Canon c.s) : ResC (ldaBody c o n peer) := by
  unfold ldaBody
  extract_lets v f dirty
  split
  · simp [hc]
  · refine bufAccess_canon _ _ _ _ hc (fun m => deliver_canon _ _ _ _ hc (canon_foldl _ (fun t l ht => ?_) _ _ hc))
      (fun t ht => delivered_canon _ _ _ hc ht)
    split <;> simp [ht, hc]
@[simp] theorem scoutLda_canon (o : Int) (n : Nat) (peer : Bool) (c : Ctx) (hc : Canon c.s) : ScoutC (scoutLda o n peer c) := by
  unfold scoutLda
  (try dsimp only)
  repeat' first | split | (with_reducible refine canon_foldl _ ?_ _ _ ?_) | (with_reducible refine canon_foldl1 _ ?_ _ _ ?_) | (with_reducible refine canon_foldl2 _ ?_ _ _ ?_) | (with_reducible refine loaded_foldl _ ?_ _ _ ?_) | (with_reducible refine steps_foldl _ ?_ _ _ ?_) | (with_reducible refine runWord_canon _ _ _ ?_ ?_) | (with_reducible refine crossWord_canon _ _ _ ?_ ?_) | (with_reducible refine issue_canon _ _ _ _ ?_ ?_ ?_) | (with_reducible refine access_canon _ _ _ _ ?_ ?_ ?_) | (with_reducible refine bufAccess_canon _ _ _ _ ?_ ?_ ?_) | (with_reducible refine canon_getD ?_ ?_) | (intro _ _ _; try dsimp only) | (intro _ _; try dsimp only) | (intro _; try dsimp only)
  all_goals try simp (maxDischargeDepth := 20) +contextual [*]
theorem execLda_canon (e k : Bool) (d a : Reg) (o : BitVec 7) (u : Bool) (w : BufW) (s : State) (hs : Canon s) : OutC (execLda e k d a o u w s) := by
  unfold execLda
  (try dsimp only)
  repeat' first | split | (with_reducible refine canon_foldl _ ?_ _ _ ?_) | (with_reducible refine canon_foldl1 _ ?_ _ _ ?_) | (with_reducible refine canon_foldl2 _ ?_ _ _ ?_) | (with_reducible refine loaded_foldl _ ?_ _ _ ?_) | (with_reducible refine steps_foldl _ ?_ _ _ ?_) | (with_reducible refine runWord_canon _ _ _ ?_ ?_) | (with_reducible refine crossWord_canon _ _ _ ?_ ?_) | (with_reducible refine issue_canon _ _ _ _ ?_ ?_ ?_) | (with_reducible refine access_canon _ _ _ _ ?_ ?_ ?_) | (with_reducible refine bufAccess_canon _ _ _ _ ?_ ?_ ?_) | (with_reducible refine canon_getD ?_ ?_) | (intro _ _ _; try dsimp only) | (intro _ _; try dsimp only) | (intro _; try dsimp only)
  all_goals try simp (maxDischargeDepth := 20) +contextual [*]
@[simp] theorem staLane_canon (c : Ctx) (n : Nat) (s : State) (l : Lane) (p : BufSpot) (hc : Canon c.s) (hs : Canon s) : Canon (staLane c n s l p) := by
  unfold staLane
  (try dsimp only)
  repeat' first | split | (with_reducible refine canon_foldl _ ?_ _ _ ?_) | (with_reducible refine canon_foldl1 _ ?_ _ _ ?_) | (with_reducible refine canon_foldl2 _ ?_ _ _ ?_) | (with_reducible refine loaded_foldl _ ?_ _ _ ?_) | (with_reducible refine steps_foldl _ ?_ _ _ ?_) | (with_reducible refine runWord_canon _ _ _ ?_ ?_) | (with_reducible refine crossWord_canon _ _ _ ?_ ?_) | (with_reducible refine issue_canon _ _ _ _ ?_ ?_ ?_) | (with_reducible refine access_canon _ _ _ _ ?_ ?_ ?_) | (with_reducible refine bufAccess_canon _ _ _ _ ?_ ?_ ?_) | (with_reducible refine canon_getD ?_ ?_) | (intro _ _ _; try dsimp only) | (intro _ _; try dsimp only) | (intro _; try dsimp only)
  all_goals try simp (maxDischargeDepth := 20) +contextual [*]
@[simp] theorem staBody_canon (c : Ctx) (o : Int) (n : Nat) (peer : Bool) (hc : Canon c.s) : ResC (staBody c o n peer) := by
  unfold staBody
  (try dsimp only)
  repeat' first | split | (with_reducible refine canon_foldl _ ?_ _ _ ?_) | (with_reducible refine canon_foldl1 _ ?_ _ _ ?_) | (with_reducible refine canon_foldl2 _ ?_ _ _ ?_) | (with_reducible refine loaded_foldl _ ?_ _ _ ?_) | (with_reducible refine steps_foldl _ ?_ _ _ ?_) | (with_reducible refine runWord_canon _ _ _ ?_ ?_) | (with_reducible refine crossWord_canon _ _ _ ?_ ?_) | (with_reducible refine issue_canon _ _ _ _ ?_ ?_ ?_) | (with_reducible refine access_canon _ _ _ _ ?_ ?_ ?_) | (with_reducible refine bufAccess_canon _ _ _ _ ?_ ?_ ?_) | (with_reducible refine canon_getD ?_ ?_) | (intro _ _ _; try dsimp only) | (intro _ _; try dsimp only) | (intro _; try dsimp only)
  all_goals try simp (maxDischargeDepth := 20) +contextual [*]
theorem execSta_canon (e : Bool) (d a : Reg) (o : BitVec 7) (u : Bool) (w : BufW) (s : State) (hs : Canon s) : OutC (execSta e d a o u w s) := by
  unfold execSta
  (try dsimp only)
  repeat' first | split | (with_reducible refine canon_foldl _ ?_ _ _ ?_) | (with_reducible refine canon_foldl1 _ ?_ _ _ ?_) | (with_reducible refine canon_foldl2 _ ?_ _ _ ?_) | (with_reducible refine loaded_foldl _ ?_ _ _ ?_) | (with_reducible refine steps_foldl _ ?_ _ _ ?_) | (with_reducible refine runWord_canon _ _ _ ?_ ?_) | (with_reducible refine crossWord_canon _ _ _ ?_ ?_) | (with_reducible refine issue_canon _ _ _ _ ?_ ?_ ?_) | (with_reducible refine access_canon _ _ _ _ ?_ ?_ ?_) | (with_reducible refine bufAccess_canon _ _ _ _ ?_ ?_ ?_) | (with_reducible refine canon_getD ?_ ?_) | (intro _ _ _; try dsimp only) | (intro _ _; try dsimp only) | (intro _; try dsimp only)
  all_goals try simp (maxDischargeDepth := 20) +contextual [*]
@[simp] theorem ldcBody_canon (c : Ctx) (o : Int) (n : Nat) (hc : Canon c.s) : ResC (ldcBody c o n) := by
  unfold ldcBody
  (try dsimp only)
  repeat' first | split | (with_reducible refine canon_foldl _ ?_ _ _ ?_) | (with_reducible refine canon_foldl1 _ ?_ _ _ ?_) | (with_reducible refine canon_foldl2 _ ?_ _ _ ?_) | (with_reducible refine loaded_foldl _ ?_ _ _ ?_) | (with_reducible refine steps_foldl _ ?_ _ _ ?_) | (with_reducible refine runWord_canon _ _ _ ?_ ?_) | (with_reducible refine crossWord_canon _ _ _ ?_ ?_) | (with_reducible refine issue_canon _ _ _ _ ?_ ?_ ?_) | (with_reducible refine access_canon _ _ _ _ ?_ ?_ ?_) | (with_reducible refine bufAccess_canon _ _ _ _ ?_ ?_ ?_) | (with_reducible refine canon_getD ?_ ?_) | (intro _ _ _; try dsimp only) | (intro _ _; try dsimp only) | (intro _; try dsimp only)
  all_goals try simp (maxDischargeDepth := 20) +contextual [*]
@[simp] theorem scoutLdc_canon (o : Int) (n : Nat) (c : Ctx) (hc : Canon c.s) : ScoutC (scoutLdc o n c) := by
  unfold scoutLdc
  (try dsimp only)
  repeat' first | split | (with_reducible refine canon_foldl _ ?_ _ _ ?_) | (with_reducible refine canon_foldl1 _ ?_ _ _ ?_) | (with_reducible refine canon_foldl2 _ ?_ _ _ ?_) | (with_reducible refine loaded_foldl _ ?_ _ _ ?_) | (with_reducible refine steps_foldl _ ?_ _ _ ?_) | (with_reducible refine runWord_canon _ _ _ ?_ ?_) | (with_reducible refine crossWord_canon _ _ _ ?_ ?_) | (with_reducible refine issue_canon _ _ _ _ ?_ ?_ ?_) | (with_reducible refine access_canon _ _ _ _ ?_ ?_ ?_) | (with_reducible refine bufAccess_canon _ _ _ _ ?_ ?_ ?_) | (with_reducible refine canon_getD ?_ ?_) | (intro _ _ _; try dsimp only) | (intro _ _; try dsimp only) | (intro _; try dsimp only)
  all_goals try simp (maxDischargeDepth := 20) +contextual [*]
theorem execLdc_canon (e k : Bool) (d a : Reg) (o : BitVec 7) (w : LdcW) (s : State) (hs : Canon s) : OutC (execLdc e k d a o w s) := by
  unfold execLdc
  (try dsimp only)
  repeat' first | split | (with_reducible refine canon_foldl _ ?_ _ _ ?_) | (with_reducible refine canon_foldl1 _ ?_ _ _ ?_) | (with_reducible refine canon_foldl2 _ ?_ _ _ ?_) | (with_reducible refine loaded_foldl _ ?_ _ _ ?_) | (with_reducible refine steps_foldl _ ?_ _ _ ?_) | (with_reducible refine runWord_canon _ _ _ ?_ ?_) | (with_reducible refine crossWord_canon _ _ _ ?_ ?_) | (with_reducible refine issue_canon _ _ _ _ ?_ ?_ ?_) | (with_reducible refine access_canon _ _ _ _ ?_ ?_ ?_) | (with_reducible refine bufAccess_canon _ _ _ _ ?_ ?_ ?_) | (with_reducible refine canon_getD ?_ ?_) | (intro _ _ _; try dsimp only) | (intro _ _; try dsimp only) | (intro _; try dsimp only)
  all_goals try simp (maxDischargeDepth := 20) +contextual [*]

end Sys2Proof.Machine
end

