-- ==== Sys2Proof/Laws/CanonControl.lean ====
section
/-! SUPPORT. Canonical memories stay canonical: control words, cross-lane words, dispatchers and the matrix unit. -/
namespace Sys2Proof.Machine

set_option linter.unusedVariables false
set_option linter.unusedSimpArgs false

/-! ### Quadrant -/

@[simp] theorem freshBlocks_canon (s : State) (w : Wave) (n : Nat) (hs : Canon s) : Canon (freshBlocks s w n) := by
  unfold freshBlocks
  (try dsimp only)
  repeat' first | split | (with_reducible refine canon_foldl _ ?_ _ _ ?_) | (with_reducible refine canon_foldl1 _ ?_ _ _ ?_) | (with_reducible refine canon_foldl2 _ ?_ _ _ ?_) | (with_reducible refine loaded_foldl _ ?_ _ _ ?_) | (with_reducible refine steps_foldl _ ?_ _ _ ?_) | (with_reducible refine runWord_canon _ _ _ ?_ ?_) | (with_reducible refine crossWord_canon _ _ _ ?_ ?_) | (with_reducible refine issue_canon _ _ _ _ ?_ ?_ ?_) | (with_reducible refine access_canon _ _ _ _ ?_ ?_ ?_) | (with_reducible refine bufAccess_canon _ _ _ _ ?_ ?_ ?_) | (with_reducible refine canon_getD ?_ ?_) | (intro _ _ _; try dsimp only) | (intro _ _; try dsimp only) | (intro _; try dsimp only)
  all_goals try simp (maxDischargeDepth := 20) +contextual [*]
@[simp] theorem endScouts_canon (s : State) (die core quad : Nat) (hs : Canon s) : Canon (endScouts s die core quad) := by
  unfold endScouts
  (try dsimp only)
  repeat' first | split | (with_reducible refine canon_foldl _ ?_ _ _ ?_) | (with_reducible refine canon_foldl1 _ ?_ _ _ ?_) | (with_reducible refine canon_foldl2 _ ?_ _ _ ?_) | (with_reducible refine loaded_foldl _ ?_ _ _ ?_) | (with_reducible refine steps_foldl _ ?_ _ _ ?_) | (with_reducible refine runWord_canon _ _ _ ?_ ?_) | (with_reducible refine crossWord_canon _ _ _ ?_ ?_) | (with_reducible refine issue_canon _ _ _ _ ?_ ?_ ?_) | (with_reducible refine access_canon _ _ _ _ ?_ ?_ ?_) | (with_reducible refine bufAccess_canon _ _ _ _ ?_ ?_ ?_) | (with_reducible refine canon_getD ?_ ?_) | (intro _ _ _; try dsimp only) | (intro _ _; try dsimp only) | (intro _; try dsimp only)
  all_goals try simp (maxDischargeDepth := 20) +contextual [*]

/-! ### Control -/

theorem execWinb_canon (e : Bool) (n : Fin 8) (s : State) (hs : Canon s) : OutC (execWinb e n s) := by
  unfold execWinb
  (try dsimp only)
  repeat' first | split | (with_reducible refine canon_foldl _ ?_ _ _ ?_) | (with_reducible refine canon_foldl1 _ ?_ _ _ ?_) | (with_reducible refine canon_foldl2 _ ?_ _ _ ?_) | (with_reducible refine loaded_foldl _ ?_ _ _ ?_) | (with_reducible refine steps_foldl _ ?_ _ _ ?_) | (with_reducible refine runWord_canon _ _ _ ?_ ?_) | (with_reducible refine crossWord_canon _ _ _ ?_ ?_) | (with_reducible refine issue_canon _ _ _ _ ?_ ?_ ?_) | (with_reducible refine access_canon _ _ _ _ ?_ ?_ ?_) | (with_reducible refine bufAccess_canon _ _ _ _ ?_ ?_ ?_) | (with_reducible refine canon_getD ?_ ?_) | (intro _ _ _; try dsimp only) | (intro _ _; try dsimp only) | (intro _; try dsimp only)
  all_goals try simp (maxDischargeDepth := 20) +contextual [*]
@[simp] theorem claimBlocks_canon (c : Ctx) (p : Place) (n : Nat) (hc : Canon c.s) : ResC (claimBlocks c p n) := by
  unfold claimBlocks
  (try dsimp only)
  repeat' first | split | (with_reducible refine canon_foldl _ ?_ _ _ ?_) | (with_reducible refine canon_foldl1 _ ?_ _ _ ?_) | (with_reducible refine canon_foldl2 _ ?_ _ _ ?_) | (with_reducible refine loaded_foldl _ ?_ _ _ ?_) | (with_reducible refine steps_foldl _ ?_ _ _ ?_) | (with_reducible refine runWord_canon _ _ _ ?_ ?_) | (with_reducible refine crossWord_canon _ _ _ ?_ ?_) | (with_reducible refine issue_canon _ _ _ _ ?_ ?_ ?_) | (with_reducible refine access_canon _ _ _ _ ?_ ?_ ?_) | (with_reducible refine bufAccess_canon _ _ _ _ ?_ ?_ ?_) | (with_reducible refine canon_getD ?_ ?_) | (intro _ _ _; try dsimp only) | (intro _ _; try dsimp only) | (intro _; try dsimp only)
  all_goals try simp (maxDischargeDepth := 20) +contextual [*]
theorem execRclaim_canon (e : Bool) (n : Fin 8) (s : State) (hs : Canon s) : OutC (execRclaim e n s) := by
  unfold execRclaim
  (try dsimp only)
  repeat' first | split | (with_reducible refine canon_foldl _ ?_ _ _ ?_) | (with_reducible refine canon_foldl1 _ ?_ _ _ ?_) | (with_reducible refine canon_foldl2 _ ?_ _ _ ?_) | (with_reducible refine loaded_foldl _ ?_ _ _ ?_) | (with_reducible refine steps_foldl _ ?_ _ _ ?_) | (with_reducible refine runWord_canon _ _ _ ?_ ?_) | (with_reducible refine crossWord_canon _ _ _ ?_ ?_) | (with_reducible refine issue_canon _ _ _ _ ?_ ?_ ?_) | (with_reducible refine access_canon _ _ _ _ ?_ ?_ ?_) | (with_reducible refine bufAccess_canon _ _ _ _ ?_ ?_ ?_) | (with_reducible refine canon_getD ?_ ?_) | (intro _ _ _; try dsimp only) | (intro _ _; try dsimp only) | (intro _; try dsimp only)
  all_goals try simp (maxDischargeDepth := 20) +contextual [*]
theorem execRgive_canon (e : Bool) (n : Fin 8) (s : State) (hs : Canon s) : OutC (execRgive e n s) := by
  unfold execRgive
  (try dsimp only)
  repeat' first | split | (with_reducible refine canon_foldl _ ?_ _ _ ?_) | (with_reducible refine canon_foldl1 _ ?_ _ _ ?_) | (with_reducible refine canon_foldl2 _ ?_ _ _ ?_) | (with_reducible refine loaded_foldl _ ?_ _ _ ?_) | (with_reducible refine steps_foldl _ ?_ _ _ ?_) | (with_reducible refine runWord_canon _ _ _ ?_ ?_) | (with_reducible refine crossWord_canon _ _ _ ?_ ?_) | (with_reducible refine issue_canon _ _ _ _ ?_ ?_ ?_) | (with_reducible refine access_canon _ _ _ _ ?_ ?_ ?_) | (with_reducible refine bufAccess_canon _ _ _ _ ?_ ?_ ?_) | (with_reducible refine canon_getD ?_ ?_) | (intro _ _ _; try dsimp only) | (intro _ _; try dsimp only) | (intro _; try dsimp only)
  all_goals try simp (maxDischargeDepth := 20) +contextual [*]
@[simp] theorem branch_canon (c : Ctx) (o : BitVec 20) (taken : Lane → Bool) (hc : Canon c.s) : ResC (branch c o taken) := by
  unfold branch
  (try dsimp only)
  repeat' first | split | (with_reducible refine canon_foldl _ ?_ _ _ ?_) | (with_reducible refine canon_foldl1 _ ?_ _ _ ?_) | (with_reducible refine canon_foldl2 _ ?_ _ _ ?_) | (with_reducible refine loaded_foldl _ ?_ _ _ ?_) | (with_reducible refine steps_foldl _ ?_ _ _ ?_) | (with_reducible refine runWord_canon _ _ _ ?_ ?_) | (with_reducible refine crossWord_canon _ _ _ ?_ ?_) | (with_reducible refine issue_canon _ _ _ _ ?_ ?_ ?_) | (with_reducible refine access_canon _ _ _ _ ?_ ?_ ?_) | (with_reducible refine bufAccess_canon _ _ _ _ ?_ ?_ ?_) | (with_reducible refine canon_getD ?_ ?_) | (intro _ _ _; try dsimp only) | (intro _ _; try dsimp only) | (intro _; try dsimp only)
  all_goals try simp (maxDischargeDepth := 20) +contextual [*]
theorem execBra_canon (e : Bool) (o : BitVec 20) (s : State) (hs : Canon s) : OutC (execBra e o s) := by
  unfold execBra
  (try dsimp only)
  repeat' first | split | (with_reducible refine canon_foldl _ ?_ _ _ ?_) | (with_reducible refine canon_foldl1 _ ?_ _ _ ?_) | (with_reducible refine canon_foldl2 _ ?_ _ _ ?_) | (with_reducible refine loaded_foldl _ ?_ _ _ ?_) | (with_reducible refine steps_foldl _ ?_ _ _ ?_) | (with_reducible refine runWord_canon _ _ _ ?_ ?_) | (with_reducible refine crossWord_canon _ _ _ ?_ ?_) | (with_reducible refine issue_canon _ _ _ _ ?_ ?_ ?_) | (with_reducible refine access_canon _ _ _ _ ?_ ?_ ?_) | (with_reducible refine bufAccess_canon _ _ _ _ ?_ ?_ ?_) | (with_reducible refine canon_getD ?_ ?_) | (intro _ _ _; try dsimp only) | (intro _ _; try dsimp only) | (intro _; try dsimp only)
  all_goals try simp (maxDischargeDepth := 20) +contextual [*]
theorem execBrp_canon (e : Bool) (p : Fin 8) (u : Bool) (o : BitVec 20) (s : State) (hs : Canon s) : OutC (execBrp e p u o s) := by
  unfold execBrp
  (try dsimp only)
  repeat' first | split | (with_reducible refine canon_foldl _ ?_ _ _ ?_) | (with_reducible refine canon_foldl1 _ ?_ _ _ ?_) | (with_reducible refine canon_foldl2 _ ?_ _ _ ?_) | (with_reducible refine loaded_foldl _ ?_ _ _ ?_) | (with_reducible refine steps_foldl _ ?_ _ _ ?_) | (with_reducible refine runWord_canon _ _ _ ?_ ?_) | (with_reducible refine crossWord_canon _ _ _ ?_ ?_) | (with_reducible refine issue_canon _ _ _ _ ?_ ?_ ?_) | (with_reducible refine access_canon _ _ _ _ ?_ ?_ ?_) | (with_reducible refine bufAccess_canon _ _ _ _ ?_ ?_ ?_) | (with_reducible refine canon_getD ?_ ?_) | (intro _ _ _; try dsimp only) | (intro _ _; try dsimp only) | (intro _; try dsimp only)
  all_goals try simp (maxDischargeDepth := 20) +contextual [*]
@[simp] theorem levelsWait_canon (c : Ctx) (write : Bool) (v : List (Lane × Verdict)) (hc : Canon c.s) : OptC (levelsWait c write v) := by
  unfold levelsWait
  dsimp only
  repeat' split
  all_goals first | exact hc | trivial | exact canon_foldl _ (fun t x ht => by simp [ht]) _ _ hc

@[simp] theorem spillOne_canon (s : State) (c : Ctx) (l : Lane) (level : Nat) (hs : Canon s) (hc : Canon c.s) : Canon (spillOne s c l level) := by
  unfold spillOne
  (try dsimp only)
  repeat' first | split | (with_reducible refine canon_foldl _ ?_ _ _ ?_) | (with_reducible refine canon_foldl1 _ ?_ _ _ ?_) | (with_reducible refine canon_foldl2 _ ?_ _ _ ?_) | (with_reducible refine loaded_foldl _ ?_ _ _ ?_) | (with_reducible refine steps_foldl _ ?_ _ _ ?_) | (with_reducible refine runWord_canon _ _ _ ?_ ?_) | (with_reducible refine crossWord_canon _ _ _ ?_ ?_) | (with_reducible refine issue_canon _ _ _ _ ?_ ?_ ?_) | (with_reducible refine access_canon _ _ _ _ ?_ ?_ ?_) | (with_reducible refine bufAccess_canon _ _ _ _ ?_ ?_ ?_) | (with_reducible refine canon_getD ?_ ?_) | (intro _ _ _; try dsimp only) | (intro _ _; try dsimp only) | (intro _; try dsimp only)
  all_goals try simp (maxDischargeDepth := 20) +contextual [*]
theorem levelsStop_canon {c : Ctx} {write : Bool} {levels : Lane → List Nat} {r : Res} (hc : Canon c.s)
    (h : levelsStop c write levels = some r) : ResC r := by
  unfold levelsStop at h
  dsimp only at h
  split at h
  · obtain rfl := Option.some.inj h
    simp (maxDischargeDepth := 20) [hc]
  · split at h
    · obtain rfl := Option.some.inj h
      simp (maxDischargeDepth := 20) [hc]
    · obtain ⟨t, ht, rfl⟩ := Option.map_eq_some_iff.1 h
      exact optC_eq_some (levelsWait_canon c write _ hc) ht
@[simp] theorem pushCalls_canon (c : Ctx) (t : Lane → Pc) (hc : Canon c.s) : ResC (pushCalls c t) := by
  unfold pushCalls
  (try dsimp only)
  repeat' first | split | (refine canon_foldl _ ?_ _ _ ?_) | (refine canon_foldl1 _ ?_ _ _ ?_) | (refine canon_foldl2 _ ?_ _ _ ?_) | (refine loaded_foldl _ ?_ _ _ ?_) | (refine steps_foldl _ ?_ _ _ ?_) | (refine runWord_canon _ _ _ ?_ ?_) | (refine crossWord_canon _ _ _ ?_ ?_) | (refine issue_canon _ _ _ _ ?_ ?_ ?_) | (refine access_canon _ _ _ _ ?_ ?_ ?_) | (refine bufAccess_canon _ _ _ _ ?_ ?_ ?_) | (refine canon_getD ?_ ?_) | (intro _ _ _; try dsimp only) | (intro _ _; try dsimp only) | (intro _; try dsimp only)
  all_goals try simp (maxDischargeDepth := 20) +contextual [*]
@[simp] theorem callTo_canon (c : Ctx) (t : Lane → Pc) (hc : Canon c.s) : ResC (callTo c t) := by
  unfold callTo
  dsimp only
  repeat' split
  all_goals first | exact levelsStop_canon hc ‹_› | simp (maxDischargeDepth := 20) [hc]

theorem execCall_canon (e : Bool) (o : BitVec 20) (s : State) (hs : Canon s) : OutC (execCall e o s) := by
  unfold execCall
  (try dsimp only)
  repeat' first | split | (with_reducible refine canon_foldl _ ?_ _ _ ?_) | (with_reducible refine canon_foldl1 _ ?_ _ _ ?_) | (with_reducible refine canon_foldl2 _ ?_ _ _ ?_) | (with_reducible refine loaded_foldl _ ?_ _ _ ?_) | (with_reducible refine steps_foldl _ ?_ _ _ ?_) | (with_reducible refine runWord_canon _ _ _ ?_ ?_) | (with_reducible refine crossWord_canon _ _ _ ?_ ?_) | (with_reducible refine issue_canon _ _ _ _ ?_ ?_ ?_) | (with_reducible refine access_canon _ _ _ _ ?_ ?_ ?_) | (with_reducible refine bufAccess_canon _ _ _ _ ?_ ?_ ?_) | (with_reducible refine canon_getD ?_ ?_) | (intro _ _ _; try dsimp only) | (intro _ _; try dsimp only) | (intro _; try dsimp only)
  all_goals try simp (maxDischargeDepth := 20) +contextual [*]
theorem execCallr_canon (e : Bool) (a : Reg) (s : State) (hs : Canon s) : OutC (execCallr e a s) := by
  unfold execCallr
  (try dsimp only)
  repeat' first | split | (with_reducible refine canon_foldl _ ?_ _ _ ?_) | (with_reducible refine canon_foldl1 _ ?_ _ _ ?_) | (with_reducible refine canon_foldl2 _ ?_ _ _ ?_) | (with_reducible refine loaded_foldl _ ?_ _ _ ?_) | (with_reducible refine steps_foldl _ ?_ _ _ ?_) | (with_reducible refine runWord_canon _ _ _ ?_ ?_) | (with_reducible refine crossWord_canon _ _ _ ?_ ?_) | (with_reducible refine issue_canon _ _ _ _ ?_ ?_ ?_) | (with_reducible refine access_canon _ _ _ _ ?_ ?_ ?_) | (with_reducible refine bufAccess_canon _ _ _ _ ?_ ?_ ?_) | (with_reducible refine canon_getD ?_ ?_) | (intro _ _ _; try dsimp only) | (intro _ _; try dsimp only) | (intro _; try dsimp only)
  all_goals try simp (maxDischargeDepth := 20) +contextual [*]
@[simp] theorem fillTouch_canon (c : Ctx) (l : Lane) (s : State) (level : Nat) (hc : Canon c.s) (hs : Canon s) : Canon (fillTouch c l s level) := by
  unfold fillTouch
  (try dsimp only)
  repeat' first | split | (with_reducible refine canon_foldl _ ?_ _ _ ?_) | (with_reducible refine canon_foldl1 _ ?_ _ _ ?_) | (with_reducible refine canon_foldl2 _ ?_ _ _ ?_) | (with_reducible refine loaded_foldl _ ?_ _ _ ?_) | (with_reducible refine steps_foldl _ ?_ _ _ ?_) | (with_reducible refine runWord_canon _ _ _ ?_ ?_) | (with_reducible refine crossWord_canon _ _ _ ?_ ?_) | (with_reducible refine issue_canon _ _ _ _ ?_ ?_ ?_) | (with_reducible refine access_canon _ _ _ _ ?_ ?_ ?_) | (with_reducible refine bufAccess_canon _ _ _ _ ?_ ?_ ?_) | (with_reducible refine canon_getD ?_ ?_) | (intro _ _ _; try dsimp only) | (intro _ _; try dsimp only) | (intro _; try dsimp only)
  all_goals try simp (maxDischargeDepth := 20) +contextual [*]
@[simp] theorem fillLevels_canon (c : Ctx) (hc : Canon c.s) : Canon (fillLevels c) := by
  unfold fillLevels
  (try dsimp only)
  repeat' first | split | (with_reducible refine canon_foldl _ ?_ _ _ ?_) | (with_reducible refine canon_foldl1 _ ?_ _ _ ?_) | (with_reducible refine canon_foldl2 _ ?_ _ _ ?_) | (with_reducible refine loaded_foldl _ ?_ _ _ ?_) | (with_reducible refine steps_foldl _ ?_ _ _ ?_) | (with_reducible refine runWord_canon _ _ _ ?_ ?_) | (with_reducible refine crossWord_canon _ _ _ ?_ ?_) | (with_reducible refine issue_canon _ _ _ _ ?_ ?_ ?_) | (with_reducible refine access_canon _ _ _ _ ?_ ?_ ?_) | (with_reducible refine bufAccess_canon _ _ _ _ ?_ ?_ ?_) | (with_reducible refine canon_getD ?_ ?_) | (intro _ _ _; try dsimp only) | (intro _ _; try dsimp only) | (intro _; try dsimp only)
  all_goals try simp (maxDischargeDepth := 20) +contextual [*]
@[simp] theorem addReleases_canon (s : State) (w : Wave) (r : List (Lane × BitVec 6)) (hs : Canon s) : Canon (addReleases s w r) := by
  unfold addReleases
  (try dsimp only)
  repeat' first | split | (with_reducible refine canon_foldl _ ?_ _ _ ?_) | (with_reducible refine canon_foldl1 _ ?_ _ _ ?_) | (with_reducible refine canon_foldl2 _ ?_ _ _ ?_) | (with_reducible refine loaded_foldl _ ?_ _ _ ?_) | (with_reducible refine steps_foldl _ ?_ _ _ ?_) | (with_reducible refine runWord_canon _ _ _ ?_ ?_) | (with_reducible refine crossWord_canon _ _ _ ?_ ?_) | (with_reducible refine issue_canon _ _ _ _ ?_ ?_ ?_) | (with_reducible refine access_canon _ _ _ _ ?_ ?_ ?_) | (with_reducible refine bufAccess_canon _ _ _ _ ?_ ?_ ?_) | (with_reducible refine canon_getD ?_ ?_) | (intro _ _ _; try dsimp only) | (intro _ _; try dsimp only) | (intro _; try dsimp only)
  all_goals try simp (maxDischargeDepth := 20) +contextual [*]
@[simp] theorem popReturns_canon (c : Ctx) (hc : Canon c.s) : ResC (popReturns c) := by
  unfold popReturns
  (try dsimp only)
  repeat' first | split | (with_reducible refine canon_foldl _ ?_ _ _ ?_) | (with_reducible refine canon_foldl1 _ ?_ _ _ ?_) | (with_reducible refine canon_foldl2 _ ?_ _ _ ?_) | (with_reducible refine loaded_foldl _ ?_ _ _ ?_) | (with_reducible refine steps_foldl _ ?_ _ _ ?_) | (with_reducible refine runWord_canon _ _ _ ?_ ?_) | (with_reducible refine crossWord_canon _ _ _ ?_ ?_) | (with_reducible refine issue_canon _ _ _ _ ?_ ?_ ?_) | (with_reducible refine access_canon _ _ _ _ ?_ ?_ ?_) | (with_reducible refine bufAccess_canon _ _ _ _ ?_ ?_ ?_) | (with_reducible refine canon_getD ?_ ?_) | (intro _ _ _; try dsimp only) | (intro _ _; try dsimp only) | (intro _; try dsimp only)
  all_goals try simp (maxDischargeDepth := 20) +contextual [*]
@[simp] theorem retBody_canon (c : Ctx) (hc : Canon c.s) : ResC (retBody c) := by
  unfold retBody
  dsimp only
  repeat' split
  all_goals first | exact levelsStop_canon hc ‹_› | simp (maxDischargeDepth := 20) [hc]

theorem execRet_canon (e : Bool) (s : State) (hs : Canon s) : OutC (execRet e s) := by
  unfold execRet
  (try dsimp only)
  repeat' first | split | (with_reducible refine canon_foldl _ ?_ _ _ ?_) | (with_reducible refine canon_foldl1 _ ?_ _ _ ?_) | (with_reducible refine canon_foldl2 _ ?_ _ _ ?_) | (with_reducible refine loaded_foldl _ ?_ _ _ ?_) | (with_reducible refine steps_foldl _ ?_ _ _ ?_) | (with_reducible refine runWord_canon _ _ _ ?_ ?_) | (with_reducible refine crossWord_canon _ _ _ ?_ ?_) | (with_reducible refine issue_canon _ _ _ _ ?_ ?_ ?_) | (with_reducible refine access_canon _ _ _ _ ?_ ?_ ?_) | (with_reducible refine bufAccess_canon _ _ _ _ ?_ ?_ ?_) | (with_reducible refine canon_getD ?_ ?_) | (intro _ _ _; try dsimp only) | (intro _ _; try dsimp only) | (intro _; try dsimp only)
  all_goals try simp (maxDischargeDepth := 20) +contextual [*]
@[simp] theorem exitLanes_canon (s : State) (c : Ctx) (m : Mask) (hs : Canon s) (hc : Canon c.s) : Canon (exitLanes s c m) := by
  unfold exitLanes
  (try dsimp only)
  repeat' first | split | (with_reducible refine canon_foldl _ ?_ _ _ ?_) | (with_reducible refine canon_foldl1 _ ?_ _ _ ?_) | (with_reducible refine canon_foldl2 _ ?_ _ _ ?_) | (with_reducible refine loaded_foldl _ ?_ _ _ ?_) | (with_reducible refine steps_foldl _ ?_ _ _ ?_) | (with_reducible refine runWord_canon _ _ _ ?_ ?_) | (with_reducible refine crossWord_canon _ _ _ ?_ ?_) | (with_reducible refine issue_canon _ _ _ _ ?_ ?_ ?_) | (with_reducible refine access_canon _ _ _ _ ?_ ?_ ?_) | (with_reducible refine bufAccess_canon _ _ _ _ ?_ ?_ ?_) | (with_reducible refine canon_getD ?_ ?_) | (intro _ _ _; try dsimp only) | (intro _ _; try dsimp only) | (intro _; try dsimp only)
  all_goals try simp (maxDischargeDepth := 20) +contextual [*]
theorem execExit_canon (e : Bool) (s : State) (hs : Canon s) : OutC (execExit e s) := by
  unfold execExit
  (try dsimp only)
  repeat' first | split | (with_reducible refine canon_foldl _ ?_ _ _ ?_) | (with_reducible refine canon_foldl1 _ ?_ _ _ ?_) | (with_reducible refine canon_foldl2 _ ?_ _ _ ?_) | (with_reducible refine loaded_foldl _ ?_ _ _ ?_) | (with_reducible refine steps_foldl _ ?_ _ _ ?_) | (with_reducible refine runWord_canon _ _ _ ?_ ?_) | (with_reducible refine crossWord_canon _ _ _ ?_ ?_) | (with_reducible refine issue_canon _ _ _ _ ?_ ?_ ?_) | (with_reducible refine access_canon _ _ _ _ ?_ ?_ ?_) | (with_reducible refine bufAccess_canon _ _ _ _ ?_ ?_ ?_) | (with_reducible refine canon_getD ?_ ?_) | (intro _ _ _; try dsimp only) | (intro _ _; try dsimp only) | (intro _; try dsimp only)
  all_goals try simp (maxDischargeDepth := 20) +contextual [*]
theorem execNop_canon (e : Bool) (s : State) (hs : Canon s) : OutC (execNop e s) := by
  unfold execNop
  (try dsimp only)
  repeat' first | split | (with_reducible refine canon_foldl _ ?_ _ _ ?_) | (with_reducible refine canon_foldl1 _ ?_ _ _ ?_) | (with_reducible refine canon_foldl2 _ ?_ _ _ ?_) | (with_reducible refine loaded_foldl _ ?_ _ _ ?_) | (with_reducible refine steps_foldl _ ?_ _ _ ?_) | (with_reducible refine runWord_canon _ _ _ ?_ ?_) | (with_reducible refine crossWord_canon _ _ _ ?_ ?_) | (with_reducible refine issue_canon _ _ _ _ ?_ ?_ ?_) | (with_reducible refine access_canon _ _ _ _ ?_ ?_ ?_) | (with_reducible refine bufAccess_canon _ _ _ _ ?_ ?_ ?_) | (with_reducible refine canon_getD ?_ ?_) | (intro _ _ _; try dsimp only) | (intro _ _; try dsimp only) | (intro _; try dsimp only)
  all_goals try simp (maxDischargeDepth := 20) +contextual [*]

/-! ### Cross -/

@[simp] theorem shflBody_canon (m : Shfl) (c : Ctx) (hc : Canon c.s) : ResC (shflBody m c) := by
  unfold shflBody
  (try dsimp only)
  repeat' first | split | (with_reducible refine canon_foldl _ ?_ _ _ ?_) | (with_reducible refine canon_foldl1 _ ?_ _ _ ?_) | (with_reducible refine canon_foldl2 _ ?_ _ _ ?_) | (with_reducible refine loaded_foldl _ ?_ _ _ ?_) | (with_reducible refine steps_foldl _ ?_ _ _ ?_) | (with_reducible refine runWord_canon _ _ _ ?_ ?_) | (with_reducible refine crossWord_canon _ _ _ ?_ ?_) | (with_reducible refine issue_canon _ _ _ _ ?_ ?_ ?_) | (with_reducible refine access_canon _ _ _ _ ?_ ?_ ?_) | (with_reducible refine bufAccess_canon _ _ _ _ ?_ ?_ ?_) | (with_reducible refine canon_getD ?_ ?_) | (intro _ _ _; try dsimp only) | (intro _ _; try dsimp only) | (intro _; try dsimp only)
  all_goals try simp (maxDischargeDepth := 20) +contextual [*]
theorem execShfl_canon (e k : Bool) (d a b : Reg) (m : Shfl) (s : State) (hs : Canon s) : OutC (execShfl e k d a b m s) := by
  exact issue_canon _ _ _ _ hs (fun c hc => scoutWith_canon _ _ c (fun c hc => shflBody_canon _ c hc) hc) (fun c hc => shflBody_canon _ c hc)
theorem execVoteAny_canon (e : Bool) (d a : Pred) (s : State) (hs : Canon s) : OutC (execVoteAny e d a s) := by
  unfold execVoteAny
  (try dsimp only)
  repeat' first | split | (with_reducible refine canon_foldl _ ?_ _ _ ?_) | (with_reducible refine canon_foldl1 _ ?_ _ _ ?_) | (with_reducible refine canon_foldl2 _ ?_ _ _ ?_) | (with_reducible refine loaded_foldl _ ?_ _ _ ?_) | (with_reducible refine steps_foldl _ ?_ _ _ ?_) | (with_reducible refine runWord_canon _ _ _ ?_ ?_) | (with_reducible refine crossWord_canon _ _ _ ?_ ?_) | (with_reducible refine issue_canon _ _ _ _ ?_ ?_ ?_) | (with_reducible refine access_canon _ _ _ _ ?_ ?_ ?_) | (with_reducible refine bufAccess_canon _ _ _ _ ?_ ?_ ?_) | (with_reducible refine canon_getD ?_ ?_) | (intro _ _ _; try dsimp only) | (intro _ _; try dsimp only) | (intro _; try dsimp only)
  all_goals try simp (maxDischargeDepth := 20) +contextual [*]
theorem execVoteAll_canon (e : Bool) (d a : Pred) (s : State) (hs : Canon s) : OutC (execVoteAll e d a s) := by
  unfold execVoteAll
  (try dsimp only)
  repeat' first | split | (with_reducible refine canon_foldl _ ?_ _ _ ?_) | (with_reducible refine canon_foldl1 _ ?_ _ _ ?_) | (with_reducible refine canon_foldl2 _ ?_ _ _ ?_) | (with_reducible refine loaded_foldl _ ?_ _ _ ?_) | (with_reducible refine steps_foldl _ ?_ _ _ ?_) | (with_reducible refine runWord_canon _ _ _ ?_ ?_) | (with_reducible refine crossWord_canon _ _ _ ?_ ?_) | (with_reducible refine issue_canon _ _ _ _ ?_ ?_ ?_) | (with_reducible refine access_canon _ _ _ _ ?_ ?_ ?_) | (with_reducible refine bufAccess_canon _ _ _ _ ?_ ?_ ?_) | (with_reducible refine canon_getD ?_ ?_) | (intro _ _ _; try dsimp only) | (intro _ _; try dsimp only) | (intro _; try dsimp only)
  all_goals try simp (maxDischargeDepth := 20) +contextual [*]
theorem execVoteBallot_canon (e k : Bool) (d : Reg) (a : Pred) (s : State) (hs : Canon s) : OutC (execVoteBallot e k d a s) := by
  unfold execVoteBallot
  (try dsimp only)
  repeat' first | split | (with_reducible refine canon_foldl _ ?_ _ _ ?_) | (with_reducible refine canon_foldl1 _ ?_ _ _ ?_) | (with_reducible refine canon_foldl2 _ ?_ _ _ ?_) | (with_reducible refine loaded_foldl _ ?_ _ _ ?_) | (with_reducible refine steps_foldl _ ?_ _ _ ?_) | (with_reducible refine runWord_canon _ _ _ ?_ ?_) | (with_reducible refine crossWord_canon _ _ _ ?_ ?_) | (with_reducible refine issue_canon _ _ _ _ ?_ ?_ ?_) | (with_reducible refine access_canon _ _ _ _ ?_ ?_ ?_) | (with_reducible refine bufAccess_canon _ _ _ _ ?_ ?_ ?_) | (with_reducible refine canon_getD ?_ ?_) | (intro _ _ _; try dsimp only) | (intro _ _; try dsimp only) | (intro _; try dsimp only)
  all_goals try simp (maxDischargeDepth := 20) +contextual [*]
theorem execVoteEq_canon (e : Bool) (d : Pred) (a : Reg) (s : State) (hs : Canon s) : OutC (execVoteEq e d a s) := by
  unfold execVoteEq
  (try dsimp only)
  repeat' first | split | (with_reducible refine canon_foldl _ ?_ _ _ ?_) | (with_reducible refine canon_foldl1 _ ?_ _ _ ?_) | (with_reducible refine canon_foldl2 _ ?_ _ _ ?_) | (with_reducible refine loaded_foldl _ ?_ _ _ ?_) | (with_reducible refine steps_foldl _ ?_ _ _ ?_) | (with_reducible refine runWord_canon _ _ _ ?_ ?_) | (with_reducible refine crossWord_canon _ _ _ ?_ ?_) | (with_reducible refine issue_canon _ _ _ _ ?_ ?_ ?_) | (with_reducible refine access_canon _ _ _ _ ?_ ?_ ?_) | (with_reducible refine bufAccess_canon _ _ _ _ ?_ ?_ ?_) | (with_reducible refine canon_getD ?_ ?_) | (intro _ _ _; try dsimp only) | (intro _ _; try dsimp only) | (intro _; try dsimp only)
  all_goals try simp (maxDischargeDepth := 20) +contextual [*]
theorem execWred_canon (e k : Bool) (d a : Reg) (o : RedOp) (s : State) (hs : Canon s) : OutC (execWred e k d a o s) := by
  unfold execWred
  (try dsimp only)
  repeat' first | split | (with_reducible refine canon_foldl _ ?_ _ _ ?_) | (with_reducible refine canon_foldl1 _ ?_ _ _ ?_) | (with_reducible refine canon_foldl2 _ ?_ _ _ ?_) | (with_reducible refine loaded_foldl _ ?_ _ _ ?_) | (with_reducible refine steps_foldl _ ?_ _ _ ?_) | (with_reducible refine runWord_canon _ _ _ ?_ ?_) | (with_reducible refine crossWord_canon _ _ _ ?_ ?_) | (with_reducible refine issue_canon _ _ _ _ ?_ ?_ ?_) | (with_reducible refine access_canon _ _ _ _ ?_ ?_ ?_) | (with_reducible refine bufAccess_canon _ _ _ _ ?_ ?_ ?_) | (with_reducible refine canon_getD ?_ ?_) | (intro _ _ _; try dsimp only) | (intro _ _; try dsimp only) | (intro _; try dsimp only)
  all_goals try simp (maxDischargeDepth := 20) +contextual [*]
@[simp] theorem wscanBody_canon (x : Bool) (o : RedOp) (c : Ctx) (hc : Canon c.s) : ResC (wscanBody x o c) := by
  unfold wscanBody
  (try dsimp only)
  repeat' first | split | (with_reducible refine canon_foldl _ ?_ _ _ ?_) | (with_reducible refine canon_foldl1 _ ?_ _ _ ?_) | (with_reducible refine canon_foldl2 _ ?_ _ _ ?_) | (with_reducible refine loaded_foldl _ ?_ _ _ ?_) | (with_reducible refine steps_foldl _ ?_ _ _ ?_) | (with_reducible refine runWord_canon _ _ _ ?_ ?_) | (with_reducible refine crossWord_canon _ _ _ ?_ ?_) | (with_reducible refine issue_canon _ _ _ _ ?_ ?_ ?_) | (with_reducible refine access_canon _ _ _ _ ?_ ?_ ?_) | (with_reducible refine bufAccess_canon _ _ _ _ ?_ ?_ ?_) | (with_reducible refine canon_getD ?_ ?_) | (intro _ _ _; try dsimp only) | (intro _ _; try dsimp only) | (intro _; try dsimp only)
  all_goals try simp (maxDischargeDepth := 20) +contextual [*]
theorem execWscan_canon (e k : Bool) (d a : Reg) (x : Bool) (o : RedOp) (s : State) (hs : Canon s) : OutC (execWscan e k d a x o s) := by
  exact issue_canon _ _ _ _ hs (fun c hc => scoutWith_canon _ _ c (fun c hc => wscanBody_canon _ _ c hc) hc) (fun c hc => wscanBody_canon _ _ c hc)
theorem execPmovR2p_canon (e : Bool) (d : Pred) (a : Reg) (s : State) (hs : Canon s) : OutC (execPmovR2p e d a s) := by
  unfold execPmovR2p
  (try dsimp only)
  repeat' first | split | (with_reducible refine canon_foldl _ ?_ _ _ ?_) | (with_reducible refine canon_foldl1 _ ?_ _ _ ?_) | (with_reducible refine canon_foldl2 _ ?_ _ _ ?_) | (with_reducible refine loaded_foldl _ ?_ _ _ ?_) | (with_reducible refine steps_foldl _ ?_ _ _ ?_) | (with_reducible refine runWord_canon _ _ _ ?_ ?_) | (with_reducible refine crossWord_canon _ _ _ ?_ ?_) | (with_reducible refine issue_canon _ _ _ _ ?_ ?_ ?_) | (with_reducible refine access_canon _ _ _ _ ?_ ?_ ?_) | (with_reducible refine bufAccess_canon _ _ _ _ ?_ ?_ ?_) | (with_reducible refine canon_getD ?_ ?_) | (intro _ _ _; try dsimp only) | (intro _ _; try dsimp only) | (intro _; try dsimp only)
  all_goals try simp (maxDischargeDepth := 20) +contextual [*]
theorem execPmovP2r_canon (e k : Bool) (d : Reg) (a : Pred) (s : State) (hs : Canon s) : OutC (execPmovP2r e k d a s) := by
  unfold execPmovP2r
  (try dsimp only)
  repeat' first | split | (with_reducible refine canon_foldl _ ?_ _ _ ?_) | (with_reducible refine canon_foldl1 _ ?_ _ _ ?_) | (with_reducible refine canon_foldl2 _ ?_ _ _ ?_) | (with_reducible refine loaded_foldl _ ?_ _ _ ?_) | (with_reducible refine steps_foldl _ ?_ _ _ ?_) | (with_reducible refine runWord_canon _ _ _ ?_ ?_) | (with_reducible refine crossWord_canon _ _ _ ?_ ?_) | (with_reducible refine issue_canon _ _ _ _ ?_ ?_ ?_) | (with_reducible refine access_canon _ _ _ _ ?_ ?_ ?_) | (with_reducible refine bufAccess_canon _ _ _ _ ?_ ?_ ?_) | (with_reducible refine canon_getD ?_ ?_) | (intro _ _ _; try dsimp only) | (intro _ _; try dsimp only) | (intro _; try dsimp only)
  all_goals try simp (maxDischargeDepth := 20) +contextual [*]
theorem execPmovAnd_canon (e : Bool) (d a b : Pred) (s : State) (hs : Canon s) : OutC (execPmovAnd e d a b s) := by
  unfold execPmovAnd
  (try dsimp only)
  repeat' first | split | (with_reducible refine canon_foldl _ ?_ _ _ ?_) | (with_reducible refine canon_foldl1 _ ?_ _ _ ?_) | (with_reducible refine canon_foldl2 _ ?_ _ _ ?_) | (with_reducible refine loaded_foldl _ ?_ _ _ ?_) | (with_reducible refine steps_foldl _ ?_ _ _ ?_) | (with_reducible refine runWord_canon _ _ _ ?_ ?_) | (with_reducible refine crossWord_canon _ _ _ ?_ ?_) | (with_reducible refine issue_canon _ _ _ _ ?_ ?_ ?_) | (with_reducible refine access_canon _ _ _ _ ?_ ?_ ?_) | (with_reducible refine bufAccess_canon _ _ _ _ ?_ ?_ ?_) | (with_reducible refine canon_getD ?_ ?_) | (intro _ _ _; try dsimp only) | (intro _ _; try dsimp only) | (intro _; try dsimp only)
  all_goals try simp (maxDischargeDepth := 20) +contextual [*]
theorem execPmovOr_canon (e : Bool) (d a b : Pred) (s : State) (hs : Canon s) : OutC (execPmovOr e d a b s) := by
  unfold execPmovOr
  (try dsimp only)
  repeat' first | split | (with_reducible refine canon_foldl _ ?_ _ _ ?_) | (with_reducible refine canon_foldl1 _ ?_ _ _ ?_) | (with_reducible refine canon_foldl2 _ ?_ _ _ ?_) | (with_reducible refine loaded_foldl _ ?_ _ _ ?_) | (with_reducible refine steps_foldl _ ?_ _ _ ?_) | (with_reducible refine runWord_canon _ _ _ ?_ ?_) | (with_reducible refine crossWord_canon _ _ _ ?_ ?_) | (with_reducible refine issue_canon _ _ _ _ ?_ ?_ ?_) | (with_reducible refine access_canon _ _ _ _ ?_ ?_ ?_) | (with_reducible refine bufAccess_canon _ _ _ _ ?_ ?_ ?_) | (with_reducible refine canon_getD ?_ ?_) | (intro _ _ _; try dsimp only) | (intro _ _; try dsimp only) | (intro _; try dsimp only)
  all_goals try simp (maxDischargeDepth := 20) +contextual [*]
theorem execPmovXor_canon (e : Bool) (d a b : Pred) (s : State) (hs : Canon s) : OutC (execPmovXor e d a b s) := by
  unfold execPmovXor
  (try dsimp only)
  repeat' first | split | (with_reducible refine canon_foldl _ ?_ _ _ ?_) | (with_reducible refine canon_foldl1 _ ?_ _ _ ?_) | (with_reducible refine canon_foldl2 _ ?_ _ _ ?_) | (with_reducible refine loaded_foldl _ ?_ _ _ ?_) | (with_reducible refine steps_foldl _ ?_ _ _ ?_) | (with_reducible refine runWord_canon _ _ _ ?_ ?_) | (with_reducible refine crossWord_canon _ _ _ ?_ ?_) | (with_reducible refine issue_canon _ _ _ _ ?_ ?_ ?_) | (with_reducible refine access_canon _ _ _ _ ?_ ?_ ?_) | (with_reducible refine bufAccess_canon _ _ _ _ ?_ ?_ ?_) | (with_reducible refine canon_getD ?_ ?_) | (intro _ _ _; try dsimp only) | (intro _ _; try dsimp only) | (intro _; try dsimp only)
  all_goals try simp (maxDischargeDepth := 20) +contextual [*]
theorem execPmovAndn_canon (e : Bool) (d a b : Pred) (s : State) (hs : Canon s) : OutC (execPmovAndn e d a b s) := by
  unfold execPmovAndn
  (try dsimp only)
  repeat' first | split | (with_reducible refine canon_foldl _ ?_ _ _ ?_) | (with_reducible refine canon_foldl1 _ ?_ _ _ ?_) | (with_reducible refine canon_foldl2 _ ?_ _ _ ?_) | (with_reducible refine loaded_foldl _ ?_ _ _ ?_) | (with_reducible refine steps_foldl _ ?_ _ _ ?_) | (with_reducible refine runWord_canon _ _ _ ?_ ?_) | (with_reducible refine crossWord_canon _ _ _ ?_ ?_) | (with_reducible refine issue_canon _ _ _ _ ?_ ?_ ?_) | (with_reducible refine access_canon _ _ _ _ ?_ ?_ ?_) | (with_reducible refine bufAccess_canon _ _ _ _ ?_ ?_ ?_) | (with_reducible refine canon_getD ?_ ?_) | (intro _ _ _; try dsimp only) | (intro _ _; try dsimp only) | (intro _; try dsimp only)
  all_goals try simp (maxDischargeDepth := 20) +contextual [*]
theorem execPmovNot_canon (e : Bool) (d a : Pred) (s : State) (hs : Canon s) : OutC (execPmovNot e d a s) := by
  unfold execPmovNot
  (try dsimp only)
  repeat' first | split | (with_reducible refine canon_foldl _ ?_ _ _ ?_) | (with_reducible refine canon_foldl1 _ ?_ _ _ ?_) | (with_reducible refine canon_foldl2 _ ?_ _ _ ?_) | (with_reducible refine loaded_foldl _ ?_ _ _ ?_) | (with_reducible refine steps_foldl _ ?_ _ _ ?_) | (with_reducible refine runWord_canon _ _ _ ?_ ?_) | (with_reducible refine crossWord_canon _ _ _ ?_ ?_) | (with_reducible refine issue_canon _ _ _ _ ?_ ?_ ?_) | (with_reducible refine access_canon _ _ _ _ ?_ ?_ ?_) | (with_reducible refine bufAccess_canon _ _ _ _ ?_ ?_ ?_) | (with_reducible refine canon_getD ?_ ?_) | (intro _ _ _; try dsimp only) | (intro _ _; try dsimp only) | (intro _; try dsimp only)
  all_goals try simp (maxDischargeDepth := 20) +contextual [*]

/-! ### Work -/

@[simp] theorem ringTask_canon (s : State) (q : Queue) (x : Reserved) (hs : Canon s) : Canon (ringTask s q x) := by
  unfold ringTask
  (try dsimp only)
  repeat' first | split | (with_reducible refine canon_foldl _ ?_ _ _ ?_) | (with_reducible refine canon_foldl1 _ ?_ _ _ ?_) | (with_reducible refine canon_foldl2 _ ?_ _ _ ?_) | (with_reducible refine loaded_foldl _ ?_ _ _ ?_) | (with_reducible refine steps_foldl _ ?_ _ _ ?_) | (with_reducible refine runWord_canon _ _ _ ?_ ?_) | (with_reducible refine crossWord_canon _ _ _ ?_ ?_) | (with_reducible refine issue_canon _ _ _ _ ?_ ?_ ?_) | (with_reducible refine access_canon _ _ _ _ ?_ ?_ ?_) | (with_reducible refine bufAccess_canon _ _ _ _ ?_ ?_ ?_) | (with_reducible refine canon_getD ?_ ?_) | (intro _ _ _; try dsimp only) | (intro _ _; try dsimp only) | (intro _; try dsimp only)
  all_goals try simp (maxDischargeDepth := 20) +contextual [*]
@[simp] theorem appendTask_canon (s : State) (q : Queue) (launch : DWord) (x : Nat) (place : Nat × Nat) (hs : Canon s) : Canon (appendTask s q launch x place) := by
  unfold appendTask
  (try dsimp only)
  repeat' first | split | (with_reducible refine canon_foldl _ ?_ _ _ ?_) | (with_reducible refine canon_foldl1 _ ?_ _ _ ?_) | (with_reducible refine canon_foldl2 _ ?_ _ _ ?_) | (with_reducible refine loaded_foldl _ ?_ _ _ ?_) | (with_reducible refine steps_foldl _ ?_ _ _ ?_) | (with_reducible refine runWord_canon _ _ _ ?_ ?_) | (with_reducible refine crossWord_canon _ _ _ ?_ ?_) | (with_reducible refine issue_canon _ _ _ _ ?_ ?_ ?_) | (with_reducible refine access_canon _ _ _ _ ?_ ?_ ?_) | (with_reducible refine bufAccess_canon _ _ _ _ ?_ ?_ ?_) | (with_reducible refine canon_getD ?_ ?_) | (intro _ _ _; try dsimp only) | (intro _ _; try dsimp only) | (intro _; try dsimp only)
  all_goals try simp (maxDischargeDepth := 20) +contextual [*]
theorem moveReserved_canon (n : Nat) (s : State) (k : Nat) (hs : Canon s) : Canon (moveReserved n s k) := by
  induction n generalizing s with
  | zero => exact hs
  | succ n ih =>
    simp only [moveReserved]
    repeat' first | exact hs | split | exact ih _ (by simp [hs])
@[simp] theorem moveAllReserved_canon (s : State) (hs : Canon s) : Canon (moveAllReserved s) := by
  exact canon_foldl _ (fun t q ht => moveReserved_canon _ _ _ ht) _ _ hs
@[simp] theorem gather_canon (s : State) (die core : Nat) (launch : DWord) (pri : BitVec 3) (clock : Clock) (r : BitVec 512) (hs : Canon s) : Canon (gather s die core launch pri clock r) := by
  unfold gather
  (try dsimp only)
  repeat' first | split | (with_reducible refine canon_foldl _ ?_ _ _ ?_) | (with_reducible refine canon_foldl1 _ ?_ _ _ ?_) | (with_reducible refine canon_foldl2 _ ?_ _ _ ?_) | (with_reducible refine loaded_foldl _ ?_ _ _ ?_) | (with_reducible refine steps_foldl _ ?_ _ _ ?_) | (with_reducible refine runWord_canon _ _ _ ?_ ?_) | (with_reducible refine crossWord_canon _ _ _ ?_ ?_) | (with_reducible refine issue_canon _ _ _ _ ?_ ?_ ?_) | (with_reducible refine access_canon _ _ _ _ ?_ ?_ ?_) | (with_reducible refine bufAccess_canon _ _ _ _ ?_ ?_ ?_) | (with_reducible refine canon_getD ?_ ?_) | (intro _ _ _; try dsimp only) | (intro _ _; try dsimp only) | (intro _; try dsimp only)
  all_goals try simp (maxDischargeDepth := 20) +contextual [*]
@[simp] theorem poolAppend_canon (s : State) (l : Launch) (clock : Clock) (r : Nat) (hs : Canon s) : Canon (poolAppend s l clock r) := by
  unfold poolAppend
  (try dsimp only)
  repeat' first | split | (with_reducible refine canon_foldl _ ?_ _ _ ?_) | (with_reducible refine canon_foldl1 _ ?_ _ _ ?_) | (with_reducible refine canon_foldl2 _ ?_ _ _ ?_) | (with_reducible refine loaded_foldl _ ?_ _ _ ?_) | (with_reducible refine steps_foldl _ ?_ _ _ ?_) | (with_reducible refine runWord_canon _ _ _ ?_ ?_) | (with_reducible refine crossWord_canon _ _ _ ?_ ?_) | (with_reducible refine issue_canon _ _ _ _ ?_ ?_ ?_) | (with_reducible refine access_canon _ _ _ _ ?_ ?_ ?_) | (with_reducible refine bufAccess_canon _ _ _ _ ?_ ?_ ?_) | (with_reducible refine canon_getD ?_ ?_) | (intro _ _ _; try dsimp only) | (intro _ _; try dsimp only) | (intro _; try dsimp only)
  all_goals try simp (maxDischargeDepth := 20) +contextual [*]

/-! ### Place -/

@[simp] theorem seatWave_canon (s : State) (wid die core quad : Nat) (hs : Canon s) : Canon (seatWave s wid die core quad) := by
  unfold seatWave
  (try dsimp only)
  repeat' first | split | (with_reducible refine canon_foldl _ ?_ _ _ ?_) | (with_reducible refine canon_foldl1 _ ?_ _ _ ?_) | (with_reducible refine canon_foldl2 _ ?_ _ _ ?_) | (with_reducible refine loaded_foldl _ ?_ _ _ ?_) | (with_reducible refine steps_foldl _ ?_ _ _ ?_) | (with_reducible refine runWord_canon _ _ _ ?_ ?_) | (with_reducible refine crossWord_canon _ _ _ ?_ ?_) | (with_reducible refine issue_canon _ _ _ _ ?_ ?_ ?_) | (with_reducible refine access_canon _ _ _ _ ?_ ?_ ?_) | (with_reducible refine bufAccess_canon _ _ _ _ ?_ ?_ ?_) | (with_reducible refine canon_getD ?_ ?_) | (intro _ _ _; try dsimp only) | (intro _ _; try dsimp only) | (intro _; try dsimp only)
  all_goals try simp (maxDischargeDepth := 20) +contextual [*]
@[simp] theorem seatGroup_canon (s : State) (g die core : Nat) (hs : Canon s) : Canon (seatGroup s g die core) := by
  unfold seatGroup
  (try dsimp only)
  repeat' first | split | (with_reducible refine canon_foldl _ ?_ _ _ ?_) | (with_reducible refine canon_foldl1 _ ?_ _ _ ?_) | (with_reducible refine canon_foldl2 _ ?_ _ _ ?_) | (with_reducible refine loaded_foldl _ ?_ _ _ ?_) | (with_reducible refine steps_foldl _ ?_ _ _ ?_) | (with_reducible refine runWord_canon _ _ _ ?_ ?_) | (with_reducible refine crossWord_canon _ _ _ ?_ ?_) | (with_reducible refine issue_canon _ _ _ _ ?_ ?_ ?_) | (with_reducible refine access_canon _ _ _ _ ?_ ?_ ?_) | (with_reducible refine bufAccess_canon _ _ _ _ ?_ ?_ ?_) | (with_reducible refine canon_getD ?_ ?_) | (intro _ _ _; try dsimp only) | (intro _ _; try dsimp only) | (intro _; try dsimp only)
  all_goals try simp (maxDischargeDepth := 20) +contextual [*]

/-! ### Dispatchers -/

@[simp] theorem balanceCheck_canon (s : State) (p : Part) (r : BitVec 1024) (hs : Canon s) : Canon (balanceCheck s p r).2 := by
  unfold balanceCheck
  (try dsimp only)
  repeat' first | split | (with_reducible refine canon_foldl _ ?_ _ _ ?_) | (with_reducible refine canon_foldl1 _ ?_ _ _ ?_) | (with_reducible refine canon_foldl2 _ ?_ _ _ ?_) | (with_reducible refine loaded_foldl _ ?_ _ _ ?_) | (with_reducible refine steps_foldl _ ?_ _ _ ?_) | (with_reducible refine runWord_canon _ _ _ ?_ ?_) | (with_reducible refine crossWord_canon _ _ _ ?_ ?_) | (with_reducible refine issue_canon _ _ _ _ ?_ ?_ ?_) | (with_reducible refine access_canon _ _ _ _ ?_ ?_ ?_) | (with_reducible refine bufAccess_canon _ _ _ _ ?_ ?_ ?_) | (with_reducible refine canon_getD ?_ ?_) | (intro _ _ _; try dsimp only) | (intro _ _; try dsimp only) | (intro _; try dsimp only)
  all_goals try simp (maxDischargeDepth := 20) +contextual [*]
@[simp] theorem passStart_canon (s : State) (q : Nat) (seq : Word) (hs : Canon s) : Canon (passStart s q seq) := by
  unfold passStart
  (try dsimp only)
  repeat' first | split | (with_reducible refine canon_foldl _ ?_ _ _ ?_) | (with_reducible refine canon_foldl1 _ ?_ _ _ ?_) | (with_reducible refine canon_foldl2 _ ?_ _ _ ?_) | (with_reducible refine loaded_foldl _ ?_ _ _ ?_) | (with_reducible refine steps_foldl _ ?_ _ _ ?_) | (with_reducible refine runWord_canon _ _ _ ?_ ?_) | (with_reducible refine crossWord_canon _ _ _ ?_ ?_) | (with_reducible refine issue_canon _ _ _ _ ?_ ?_ ?_) | (with_reducible refine access_canon _ _ _ _ ?_ ?_ ?_) | (with_reducible refine bufAccess_canon _ _ _ _ ?_ ?_ ?_) | (with_reducible refine canon_getD ?_ ?_) | (intro _ _ _; try dsimp only) | (intro _ _; try dsimp only) | (intro _; try dsimp only)
  all_goals try simp (maxDischargeDepth := 20) +contextual [*]
@[simp] theorem passTurn_canon (s : State) (q : Nat) (hs : Canon s) : Canon (passTurn s q) := by
  unfold passTurn
  (try dsimp only)
  repeat' first | split | (with_reducible refine canon_foldl _ ?_ _ _ ?_) | (with_reducible refine canon_foldl1 _ ?_ _ _ ?_) | (with_reducible refine canon_foldl2 _ ?_ _ _ ?_) | (with_reducible refine loaded_foldl _ ?_ _ _ ?_) | (with_reducible refine steps_foldl _ ?_ _ _ ?_) | (with_reducible refine runWord_canon _ _ _ ?_ ?_) | (with_reducible refine crossWord_canon _ _ _ ?_ ?_) | (with_reducible refine issue_canon _ _ _ _ ?_ ?_ ?_) | (with_reducible refine access_canon _ _ _ _ ?_ ?_ ?_) | (with_reducible refine bufAccess_canon _ _ _ _ ?_ ?_ ?_) | (with_reducible refine canon_getD ?_ ?_) | (intro _ _ _; try dsimp only) | (intro _ _; try dsimp only) | (intro _; try dsimp only)
  all_goals try simp (maxDischargeDepth := 20) +contextual [*]
@[simp] theorem acceptLaunch_canon (s : State) (die : Nat) (q : Queue) (r : BitVec 1024) (hs : Canon s) : Canon (acceptLaunch s die q r) := by
  unfold acceptLaunch
  (try dsimp only)
  repeat' first | split | (with_reducible refine canon_foldl _ ?_ _ _ ?_) | (with_reducible refine canon_foldl1 _ ?_ _ _ ?_) | (with_reducible refine canon_foldl2 _ ?_ _ _ ?_) | (with_reducible refine loaded_foldl _ ?_ _ _ ?_) | (with_reducible refine steps_foldl _ ?_ _ _ ?_) | (with_reducible refine runWord_canon _ _ _ ?_ ?_) | (with_reducible refine crossWord_canon _ _ _ ?_ ?_) | (with_reducible refine issue_canon _ _ _ _ ?_ ?_ ?_) | (with_reducible refine access_canon _ _ _ _ ?_ ?_ ?_) | (with_reducible refine bufAccess_canon _ _ _ _ ?_ ?_ ?_) | (with_reducible refine canon_getD ?_ ?_) | (intro _ _ _; try dsimp only) | (intro _ _; try dsimp only) | (intro _; try dsimp only)
  all_goals try simp (maxDischargeDepth := 20) +contextual [*]
@[simp] theorem placeGroup_canon (s : State) (g : Group) (ws : List Wave) (die core : Nat) (hs : Canon s) : Canon (placeGroup s g ws die core) := by
  unfold placeGroup
  (try dsimp only)
  repeat' first | split | (with_reducible refine canon_foldl _ ?_ _ _ ?_) | (with_reducible refine canon_foldl1 _ ?_ _ _ ?_) | (with_reducible refine canon_foldl2 _ ?_ _ _ ?_) | (with_reducible refine loaded_foldl _ ?_ _ _ ?_) | (with_reducible refine steps_foldl _ ?_ _ _ ?_) | (with_reducible refine runWord_canon _ _ _ ?_ ?_) | (with_reducible refine crossWord_canon _ _ _ ?_ ?_) | (with_reducible refine issue_canon _ _ _ _ ?_ ?_ ?_) | (with_reducible refine access_canon _ _ _ _ ?_ ?_ ?_) | (with_reducible refine bufAccess_canon _ _ _ _ ?_ ?_ ?_) | (with_reducible refine canon_getD ?_ ?_) | (intro _ _ _; try dsimp only) | (intro _ _; try dsimp only) | (intro _; try dsimp only)
  all_goals try simp (maxDischargeDepth := 20) +contextual [*]
@[simp] theorem placeNext_canon (s : State) (die : Nat) (q : Queue) (l : Launch) (hs : Canon s) : OptC (placeNext s die q l) := by
  unfold placeNext
  (try dsimp only)
  repeat' first | split | (with_reducible refine canon_foldl _ ?_ _ _ ?_) | (with_reducible refine canon_foldl1 _ ?_ _ _ ?_) | (with_reducible refine canon_foldl2 _ ?_ _ _ ?_) | (with_reducible refine loaded_foldl _ ?_ _ _ ?_) | (with_reducible refine steps_foldl _ ?_ _ _ ?_) | (with_reducible refine runWord_canon _ _ _ ?_ ?_) | (with_reducible refine crossWord_canon _ _ _ ?_ ?_) | (with_reducible refine issue_canon _ _ _ _ ?_ ?_ ?_) | (with_reducible refine access_canon _ _ _ _ ?_ ?_ ?_) | (with_reducible refine bufAccess_canon _ _ _ _ ?_ ?_ ?_) | (with_reducible refine canon_getD ?_ ?_) | (intro _ _ _; try dsimp only) | (intro _ _; try dsimp only) | (intro _; try dsimp only)
  all_goals try simp (maxDischargeDepth := 20) +contextual [*]
@[simp] theorem refuseEntry_canon (s : State) (q : Queue) (status trap : Nat) (launch : DWord) (part : Option Nat) (hs : Canon s) : Canon (refuseEntry s q status trap launch part) := by
  unfold refuseEntry
  (try dsimp only)
  repeat' first | split | (with_reducible refine canon_foldl _ ?_ _ _ ?_) | (with_reducible refine canon_foldl1 _ ?_ _ _ ?_) | (with_reducible refine canon_foldl2 _ ?_ _ _ ?_) | (with_reducible refine loaded_foldl _ ?_ _ _ ?_) | (with_reducible refine steps_foldl _ ?_ _ _ ?_) | (with_reducible refine runWord_canon _ _ _ ?_ ?_) | (with_reducible refine crossWord_canon _ _ _ ?_ ?_) | (with_reducible refine issue_canon _ _ _ _ ?_ ?_ ?_) | (with_reducible refine access_canon _ _ _ _ ?_ ?_ ?_) | (with_reducible refine bufAccess_canon _ _ _ _ ?_ ?_ ?_) | (with_reducible refine canon_getD ?_ ?_) | (intro _ _ _; try dsimp only) | (intro _ _; try dsimp only) | (intro _; try dsimp only)
  all_goals try simp (maxDischargeDepth := 20) +contextual [*]
@[simp] theorem serveLaunch_canon (s : State) (die : Nat) (q : Queue) (hs : Canon s) : OptC (serveLaunch s die q) := by
  unfold serveLaunch
  extract_lets id r
  split
  · split <;> simp [hs]
  · split
    · simp [hs]
    · split
      · simp [hs]
      · split
        · simp [hs]
        · next p _ =>
          have hb := balanceCheck_canon s p r hs
          split <;> next e => (
            rw [e] at hb
            (try dsimp only)
            repeat' split
            all_goals simp (maxDischargeDepth := 20) [hb])
@[simp] theorem serveTask_canon (s : State) (die : Nat) (q : Queue) (hs : Canon s) : OptC (serveTask s die q) := by
  unfold serveTask
  (try dsimp only)
  repeat' first | split | (with_reducible refine canon_foldl _ ?_ _ _ ?_) | (with_reducible refine canon_foldl1 _ ?_ _ _ ?_) | (with_reducible refine canon_foldl2 _ ?_ _ _ ?_) | (with_reducible refine loaded_foldl _ ?_ _ _ ?_) | (with_reducible refine steps_foldl _ ?_ _ _ ?_) | (with_reducible refine runWord_canon _ _ _ ?_ ?_) | (with_reducible refine crossWord_canon _ _ _ ?_ ?_) | (with_reducible refine issue_canon _ _ _ _ ?_ ?_ ?_) | (with_reducible refine access_canon _ _ _ _ ?_ ?_ ?_) | (with_reducible refine bufAccess_canon _ _ _ _ ?_ ?_ ?_) | (with_reducible refine canon_getD ?_ ?_) | (intro _ _ _; try dsimp only) | (intro _ _; try dsimp only) | (intro _; try dsimp only)
  all_goals try simp (maxDischargeDepth := 20) +contextual [*]
@[simp] theorem serveQueue_canon (s : State) (die : Nat) (q : Queue) (hs : Canon s) : OptC (serveQueue s die q) := by
  unfold serveQueue
  extract_lets head
  split
  · next t e =>
    obtain ⟨l, _, h⟩ := Option.bind_eq_some_iff.1 e
    exact optC_eq_some (placeNext_canon _ _ _ _ hs) h
  · simp only [head]
    repeat' split
    all_goals simp [hs]
@[simp] theorem dispatchNext_canon (s : State) (die : Nat) (hs : Canon s) : OptC (dispatchNext s die) := by
  unfold dispatchNext
  extract_lets qs
  cases h : (sortBy (fun q => ((7 - q.desc.pri.toNat) * (s.fresh + 1) + q.turn) * 4096 + q.n) qs).findSome? (serveQueue s die) with
  | none => trivial
  | some t =>
    obtain ⟨q, _, e⟩ := List.exists_of_findSome?_eq_some h
    exact optC_eq_some (serveQueue_canon _ _ _ hs) e
theorem execGroupDispatch_canon (die : Nat) (s : State) (hs : Canon s) : OutC (execGroupDispatch die s) := by
  unfold execGroupDispatch
  (try dsimp only)
  repeat' first | split | (with_reducible refine canon_foldl _ ?_ _ _ ?_) | (with_reducible refine canon_foldl1 _ ?_ _ _ ?_) | (with_reducible refine canon_foldl2 _ ?_ _ _ ?_) | (with_reducible refine loaded_foldl _ ?_ _ _ ?_) | (with_reducible refine steps_foldl _ ?_ _ _ ?_) | (with_reducible refine runWord_canon _ _ _ ?_ ?_) | (with_reducible refine crossWord_canon _ _ _ ?_ ?_) | (with_reducible refine issue_canon _ _ _ _ ?_ ?_ ?_) | (with_reducible refine access_canon _ _ _ _ ?_ ?_ ?_) | (with_reducible refine bufAccess_canon _ _ _ _ ?_ ?_ ?_) | (with_reducible refine canon_getD ?_ ?_) | (intro _ _ _; try dsimp only) | (intro _ _; try dsimp only) | (intro _; try dsimp only)
  all_goals try simp (maxDischargeDepth := 20) +contextual [*]
@[simp] theorem successorFault_canon (s : State) (g : Group) (t : Trap) (hs : Canon s) : Canon (successorFault s g t) := by
  unfold successorFault
  (try dsimp only)
  repeat' first | split | (with_reducible refine canon_foldl _ ?_ _ _ ?_) | (with_reducible refine canon_foldl1 _ ?_ _ _ ?_) | (with_reducible refine canon_foldl2 _ ?_ _ _ ?_) | (with_reducible refine loaded_foldl _ ?_ _ _ ?_) | (with_reducible refine steps_foldl _ ?_ _ _ ?_) | (with_reducible refine runWord_canon _ _ _ ?_ ?_) | (with_reducible refine crossWord_canon _ _ _ ?_ ?_) | (with_reducible refine issue_canon _ _ _ _ ?_ ?_ ?_) | (with_reducible refine access_canon _ _ _ _ ?_ ?_ ?_) | (with_reducible refine bufAccess_canon _ _ _ _ ?_ ?_ ?_) | (with_reducible refine canon_getD ?_ ?_) | (intro _ _ _; try dsimp only) | (intro _ _; try dsimp only) | (intro _; try dsimp only)
  all_goals try simp (maxDischargeDepth := 20) +contextual [*]
@[simp] theorem appendSuccessor_canon (s : State) (g : Group) (q x : Nat) (hs : Canon s) : OptC (appendSuccessor s g q x) := by
  unfold appendSuccessor
  (try dsimp only)
  repeat' first | split | (with_reducible refine canon_foldl _ ?_ _ _ ?_) | (with_reducible refine canon_foldl1 _ ?_ _ _ ?_) | (with_reducible refine canon_foldl2 _ ?_ _ _ ?_) | (with_reducible refine loaded_foldl _ ?_ _ _ ?_) | (with_reducible refine steps_foldl _ ?_ _ _ ?_) | (with_reducible refine runWord_canon _ _ _ ?_ ?_) | (with_reducible refine crossWord_canon _ _ _ ?_ ?_) | (with_reducible refine issue_canon _ _ _ _ ?_ ?_ ?_) | (with_reducible refine access_canon _ _ _ _ ?_ ?_ ?_) | (with_reducible refine bufAccess_canon _ _ _ _ ?_ ?_ ?_) | (with_reducible refine canon_getD ?_ ?_) | (intro _ _ _; try dsimp only) | (intro _ _; try dsimp only) | (intro _; try dsimp only)
  all_goals try simp (maxDischargeDepth := 20) +contextual [*]
@[simp] theorem decrementSuccessor_canon (s : State) (g : Group) (hs : Canon s) : OptC (decrementSuccessor s g) := by
  unfold decrementSuccessor
  (try dsimp only)
  repeat' first | split | (with_reducible refine canon_foldl _ ?_ _ _ ?_) | (with_reducible refine canon_foldl1 _ ?_ _ _ ?_) | (with_reducible refine canon_foldl2 _ ?_ _ _ ?_) | (with_reducible refine loaded_foldl _ ?_ _ _ ?_) | (with_reducible refine steps_foldl _ ?_ _ _ ?_) | (with_reducible refine runWord_canon _ _ _ ?_ ?_) | (with_reducible refine crossWord_canon _ _ _ ?_ ?_) | (with_reducible refine issue_canon _ _ _ _ ?_ ?_ ?_) | (with_reducible refine access_canon _ _ _ _ ?_ ?_ ?_) | (with_reducible refine bufAccess_canon _ _ _ _ ?_ ?_ ?_) | (with_reducible refine canon_getD ?_ ?_) | (intro _ _ _; try dsimp only) | (intro _ _; try dsimp only) | (intro _; try dsimp only)
  all_goals try simp (maxDischargeDepth := 20) +contextual [*]
@[simp] theorem finishTask_canon (s : State) (gid : Nat) (hs : Canon s) : OptC (finishTask s gid) := by
  unfold finishTask
  (try dsimp only)
  repeat' first | split | (with_reducible refine canon_foldl _ ?_ _ _ ?_) | (with_reducible refine canon_foldl1 _ ?_ _ _ ?_) | (with_reducible refine canon_foldl2 _ ?_ _ _ ?_) | (with_reducible refine loaded_foldl _ ?_ _ _ ?_) | (with_reducible refine steps_foldl _ ?_ _ _ ?_) | (with_reducible refine runWord_canon _ _ _ ?_ ?_) | (with_reducible refine crossWord_canon _ _ _ ?_ ?_) | (with_reducible refine issue_canon _ _ _ _ ?_ ?_ ?_) | (with_reducible refine access_canon _ _ _ _ ?_ ?_ ?_) | (with_reducible refine bufAccess_canon _ _ _ _ ?_ ?_ ?_) | (with_reducible refine canon_getD ?_ ?_) | (intro _ _ _; try dsimp only) | (intro _ _; try dsimp only) | (intro _; try dsimp only)
  all_goals try simp (maxDischargeDepth := 20) +contextual [*]
theorem execTaskGroupFinish_canon (group : Nat) (s : State) (hs : Canon s) : OutC (execTaskGroupFinish group s) := by
  unfold execTaskGroupFinish
  (try dsimp only)
  repeat' first | split | (with_reducible refine canon_foldl _ ?_ _ _ ?_) | (with_reducible refine canon_foldl1 _ ?_ _ _ ?_) | (with_reducible refine canon_foldl2 _ ?_ _ _ ?_) | (with_reducible refine loaded_foldl _ ?_ _ _ ?_) | (with_reducible refine steps_foldl _ ?_ _ _ ?_) | (with_reducible refine runWord_canon _ _ _ ?_ ?_) | (with_reducible refine crossWord_canon _ _ _ ?_ ?_) | (with_reducible refine issue_canon _ _ _ _ ?_ ?_ ?_) | (with_reducible refine access_canon _ _ _ _ ?_ ?_ ?_) | (with_reducible refine bufAccess_canon _ _ _ _ ?_ ?_ ?_) | (with_reducible refine canon_getD ?_ ?_) | (intro _ _ _; try dsimp only) | (intro _ _; try dsimp only) | (intro _; try dsimp only)
  all_goals try simp (maxDischargeDepth := 20) +contextual [*]
@[simp] theorem startForming_canon (s : State) (die core n : Nat) (ok : Bucket → Bool) (hs : Canon s) : Canon (startForming s die core n ok) := by
  unfold startForming
  (try dsimp only)
  repeat' first | split | (with_reducible refine canon_foldl _ ?_ _ _ ?_) | (with_reducible refine canon_foldl1 _ ?_ _ _ ?_) | (with_reducible refine canon_foldl2 _ ?_ _ _ ?_) | (with_reducible refine loaded_foldl _ ?_ _ _ ?_) | (with_reducible refine steps_foldl _ ?_ _ _ ?_) | (with_reducible refine runWord_canon _ _ _ ?_ ?_) | (with_reducible refine crossWord_canon _ _ _ ?_ ?_) | (with_reducible refine issue_canon _ _ _ _ ?_ ?_ ?_) | (with_reducible refine access_canon _ _ _ _ ?_ ?_ ?_) | (with_reducible refine bufAccess_canon _ _ _ _ ?_ ?_ ?_) | (with_reducible refine canon_getD ?_ ?_) | (intro _ _ _; try dsimp only) | (intro _ _; try dsimp only) | (intro _; try dsimp only)
  all_goals try simp (maxDischargeDepth := 20) +contextual [*]
theorem execBucketFull_canon (die core n : Nat) (s : State) (hs : Canon s) : OutC (execBucketFull die core n s) := by
  unfold execBucketFull
  (try dsimp only)
  repeat' first | split | (with_reducible refine canon_foldl _ ?_ _ _ ?_) | (with_reducible refine canon_foldl1 _ ?_ _ _ ?_) | (with_reducible refine canon_foldl2 _ ?_ _ _ ?_) | (with_reducible refine loaded_foldl _ ?_ _ _ ?_) | (with_reducible refine steps_foldl _ ?_ _ _ ?_) | (with_reducible refine runWord_canon _ _ _ ?_ ?_) | (with_reducible refine crossWord_canon _ _ _ ?_ ?_) | (with_reducible refine issue_canon _ _ _ _ ?_ ?_ ?_) | (with_reducible refine access_canon _ _ _ _ ?_ ?_ ?_) | (with_reducible refine bufAccess_canon _ _ _ _ ?_ ?_ ?_) | (with_reducible refine canon_getD ?_ ?_) | (intro _ _ _; try dsimp only) | (intro _ _; try dsimp only) | (intro _; try dsimp only)
  all_goals try simp (maxDischargeDepth := 20) +contextual [*]
theorem execBucketFlush_canon (die core n : Nat) (s : State) (hs : Canon s) : OutC (execBucketFlush die core n s) := by
  unfold execBucketFlush
  (try dsimp only)
  repeat' first | split | (with_reducible refine canon_foldl _ ?_ _ _ ?_) | (with_reducible refine canon_foldl1 _ ?_ _ _ ?_) | (with_reducible refine canon_foldl2 _ ?_ _ _ ?_) | (with_reducible refine loaded_foldl _ ?_ _ _ ?_) | (with_reducible refine steps_foldl _ ?_ _ _ ?_) | (with_reducible refine runWord_canon _ _ _ ?_ ?_) | (with_reducible refine crossWord_canon _ _ _ ?_ ?_) | (with_reducible refine issue_canon _ _ _ _ ?_ ?_ ?_) | (with_reducible refine access_canon _ _ _ _ ?_ ?_ ?_) | (with_reducible refine bufAccess_canon _ _ _ _ ?_ ?_ ?_) | (with_reducible refine canon_getD ?_ ?_) | (intro _ _ _; try dsimp only) | (intro _ _; try dsimp only) | (intro _; try dsimp only)
  all_goals try simp (maxDischargeDepth := 20) +contextual [*]
@[simp] theorem seatClover_canon (s : State) (wid g die core quad : Nat) (hs : Canon s) : Canon (seatClover s wid g die core quad) := by
  unfold seatClover
  (try dsimp only)
  repeat' first | split | (with_reducible refine canon_foldl _ ?_ _ _ ?_) | (with_reducible refine canon_foldl1 _ ?_ _ _ ?_) | (with_reducible refine canon_foldl2 _ ?_ _ _ ?_) | (with_reducible refine loaded_foldl _ ?_ _ _ ?_) | (with_reducible refine steps_foldl _ ?_ _ _ ?_) | (with_reducible refine runWord_canon _ _ _ ?_ ?_) | (with_reducible refine crossWord_canon _ _ _ ?_ ?_) | (with_reducible refine issue_canon _ _ _ _ ?_ ?_ ?_) | (with_reducible refine access_canon _ _ _ _ ?_ ?_ ?_) | (with_reducible refine bufAccess_canon _ _ _ _ ?_ ?_ ?_) | (with_reducible refine canon_getD ?_ ?_) | (intro _ _ _; try dsimp only) | (intro _ _; try dsimp only) | (intro _; try dsimp only)
  all_goals try simp (maxDischargeDepth := 20) +contextual [*]
@[simp] theorem cloverGroup_canon (s : State) (l : Launch) (b : Bucket) (hs : Canon s) : Canon (cloverGroup s l b).1 := by
  unfold cloverGroup
  (try dsimp only)
  repeat' first | split | (with_reducible refine canon_foldl _ ?_ _ _ ?_) | (with_reducible refine canon_foldl1 _ ?_ _ _ ?_) | (with_reducible refine canon_foldl2 _ ?_ _ _ ?_) | (with_reducible refine loaded_foldl _ ?_ _ _ ?_) | (with_reducible refine steps_foldl _ ?_ _ _ ?_) | (with_reducible refine runWord_canon _ _ _ ?_ ?_) | (with_reducible refine crossWord_canon _ _ _ ?_ ?_) | (with_reducible refine issue_canon _ _ _ _ ?_ ?_ ?_) | (with_reducible refine access_canon _ _ _ _ ?_ ?_ ?_) | (with_reducible refine bufAccess_canon _ _ _ _ ?_ ?_ ?_) | (with_reducible refine canon_getD ?_ ?_) | (intro _ _ _; try dsimp only) | (intro _ _; try dsimp only) | (intro _; try dsimp only)
  all_goals try simp (maxDischargeDepth := 20) +contextual [*]
@[simp] theorem waveformRecord_canon (s : State) (w : Wave) (die : Nat) (hs : Canon s) : Canon (waveformRecord s w die) := by
  unfold waveformRecord
  (try dsimp only)
  repeat' first | split | (with_reducible refine canon_foldl _ ?_ _ _ ?_) | (with_reducible refine canon_foldl1 _ ?_ _ _ ?_) | (with_reducible refine canon_foldl2 _ ?_ _ _ ?_) | (with_reducible refine loaded_foldl _ ?_ _ _ ?_) | (with_reducible refine steps_foldl _ ?_ _ _ ?_) | (with_reducible refine runWord_canon _ _ _ ?_ ?_) | (with_reducible refine crossWord_canon _ _ _ ?_ ?_) | (with_reducible refine issue_canon _ _ _ _ ?_ ?_ ?_) | (with_reducible refine access_canon _ _ _ _ ?_ ?_ ?_) | (with_reducible refine bufAccess_canon _ _ _ _ ?_ ?_ ?_) | (with_reducible refine canon_getD ?_ ?_) | (intro _ _ _; try dsimp only) | (intro _ _; try dsimp only) | (intro _; try dsimp only)
  all_goals try simp (maxDischargeDepth := 20) +contextual [*]
@[simp] theorem takeBucket_canon (s : State) (die core n : Nat) (hs : Canon s) : Canon (takeBucket s die core n) := by
  unfold takeBucket
  (try dsimp only)
  repeat' first | split | (with_reducible refine canon_foldl _ ?_ _ _ ?_) | (with_reducible refine canon_foldl1 _ ?_ _ _ ?_) | (with_reducible refine canon_foldl2 _ ?_ _ _ ?_) | (with_reducible refine loaded_foldl _ ?_ _ _ ?_) | (with_reducible refine steps_foldl _ ?_ _ _ ?_) | (with_reducible refine runWord_canon _ _ _ ?_ ?_) | (with_reducible refine crossWord_canon _ _ _ ?_ ?_) | (with_reducible refine issue_canon _ _ _ _ ?_ ?_ ?_) | (with_reducible refine access_canon _ _ _ _ ?_ ?_ ?_) | (with_reducible refine bufAccess_canon _ _ _ _ ?_ ?_ ?_) | (with_reducible refine canon_getD ?_ ?_) | (intro _ _ _; try dsimp only) | (intro _ _; try dsimp only) | (intro _; try dsimp only)
  all_goals try simp (maxDischargeDepth := 20) +contextual [*]
@[simp] theorem formWave_canon (s : State) (die core n : Nat) (hs : Canon s) : OptC (formWave s die core n) := by
  unfold formWave
  (try dsimp only)
  repeat' first | split | (with_reducible refine canon_foldl _ ?_ _ _ ?_) | (with_reducible refine canon_foldl1 _ ?_ _ _ ?_) | (with_reducible refine canon_foldl2 _ ?_ _ _ ?_) | (with_reducible refine loaded_foldl _ ?_ _ _ ?_) | (with_reducible refine steps_foldl _ ?_ _ _ ?_) | (with_reducible refine runWord_canon _ _ _ ?_ ?_) | (with_reducible refine crossWord_canon _ _ _ ?_ ?_) | (with_reducible refine issue_canon _ _ _ _ ?_ ?_ ?_) | (with_reducible refine access_canon _ _ _ _ ?_ ?_ ?_) | (with_reducible refine bufAccess_canon _ _ _ _ ?_ ?_ ?_) | (with_reducible refine canon_getD ?_ ?_) | (intro _ _ _; try dsimp only) | (intro _ _; try dsimp only) | (intro _; try dsimp only)
  all_goals try simp (maxDischargeDepth := 20) +contextual [*]
theorem execWaveForm_canon (die core n : Nat) (s : State) (hs : Canon s) : OutC (execWaveForm die core n s) := by
  unfold execWaveForm
  (try dsimp only)
  repeat' first | split | (with_reducible refine canon_foldl _ ?_ _ _ ?_) | (with_reducible refine canon_foldl1 _ ?_ _ _ ?_) | (with_reducible refine canon_foldl2 _ ?_ _ _ ?_) | (with_reducible refine loaded_foldl _ ?_ _ _ ?_) | (with_reducible refine steps_foldl _ ?_ _ _ ?_) | (with_reducible refine runWord_canon _ _ _ ?_ ?_) | (with_reducible refine crossWord_canon _ _ _ ?_ ?_) | (with_reducible refine issue_canon _ _ _ _ ?_ ?_ ?_) | (with_reducible refine access_canon _ _ _ _ ?_ ?_ ?_) | (with_reducible refine bufAccess_canon _ _ _ _ ?_ ?_ ?_) | (with_reducible refine canon_getD ?_ ?_) | (intro _ _ _; try dsimp only) | (intro _ _; try dsimp only) | (intro _; try dsimp only)
  all_goals try simp (maxDischargeDepth := 20) +contextual [*]
@[simp] theorem movePool_canon (s : State) (id : DWord) (die core : Nat) (hs : Canon s) : OptC (movePool s id die core) := by
  unfold movePool
  (try dsimp only)
  repeat' first | split | (with_reducible refine canon_foldl _ ?_ _ _ ?_) | (with_reducible refine canon_foldl1 _ ?_ _ _ ?_) | (with_reducible refine canon_foldl2 _ ?_ _ _ ?_) | (with_reducible refine loaded_foldl _ ?_ _ _ ?_) | (with_reducible refine steps_foldl _ ?_ _ _ ?_) | (with_reducible refine runWord_canon _ _ _ ?_ ?_) | (with_reducible refine crossWord_canon _ _ _ ?_ ?_) | (with_reducible refine issue_canon _ _ _ _ ?_ ?_ ?_) | (with_reducible refine access_canon _ _ _ _ ?_ ?_ ?_) | (with_reducible refine bufAccess_canon _ _ _ _ ?_ ?_ ?_) | (with_reducible refine canon_getD ?_ ?_) | (intro _ _ _; try dsimp only) | (intro _ _; try dsimp only) | (intro _; try dsimp only)
  all_goals try simp (maxDischargeDepth := 20) +contextual [*]
theorem execPoolRecordMove_canon (launch : DWord) (die core : Nat) (s : State) (hs : Canon s) : OutC (execPoolRecordMove launch die core s) := by
  unfold execPoolRecordMove
  (try dsimp only)
  repeat' first | split | (with_reducible refine canon_foldl _ ?_ _ _ ?_) | (with_reducible refine canon_foldl1 _ ?_ _ _ ?_) | (with_reducible refine canon_foldl2 _ ?_ _ _ ?_) | (with_reducible refine loaded_foldl _ ?_ _ _ ?_) | (with_reducible refine steps_foldl _ ?_ _ _ ?_) | (with_reducible refine runWord_canon _ _ _ ?_ ?_) | (with_reducible refine crossWord_canon _ _ _ ?_ ?_) | (with_reducible refine issue_canon _ _ _ _ ?_ ?_ ?_) | (with_reducible refine access_canon _ _ _ _ ?_ ?_ ?_) | (with_reducible refine bufAccess_canon _ _ _ _ ?_ ?_ ?_) | (with_reducible refine canon_getD ?_ ?_) | (intro _ _ _; try dsimp only) | (intro _ _; try dsimp only) | (intro _; try dsimp only)
  all_goals try simp (maxDischargeDepth := 20) +contextual [*]
@[simp] theorem keepKey_canon (s : State) (h : SendHeader) (hs : Canon s) : Canon (keepKey s h) := by
  unfold keepKey
  (try dsimp only)
  repeat' first | split | (with_reducible refine canon_foldl _ ?_ _ _ ?_) | (with_reducible refine canon_foldl1 _ ?_ _ _ ?_) | (with_reducible refine canon_foldl2 _ ?_ _ _ ?_) | (with_reducible refine loaded_foldl _ ?_ _ _ ?_) | (with_reducible refine steps_foldl _ ?_ _ _ ?_) | (with_reducible refine runWord_canon _ _ _ ?_ ?_) | (with_reducible refine crossWord_canon _ _ _ ?_ ?_) | (with_reducible refine issue_canon _ _ _ _ ?_ ?_ ?_) | (with_reducible refine access_canon _ _ _ _ ?_ ?_ ?_) | (with_reducible refine bufAccess_canon _ _ _ _ ?_ ?_ ?_) | (with_reducible refine canon_getD ?_ ?_) | (intro _ _ _; try dsimp only) | (intro _ _; try dsimp only) | (intro _; try dsimp only)
  all_goals try simp (maxDischargeDepth := 20) +contextual [*]
@[simp] theorem takePacket_canon (s : State) (p : Packet) (hs : Canon s) : Canon (takePacket s p) := by
  unfold takePacket
  (try dsimp only)
  repeat' first | split | (with_reducible refine canon_foldl _ ?_ _ _ ?_) | (with_reducible refine canon_foldl1 _ ?_ _ _ ?_) | (with_reducible refine canon_foldl2 _ ?_ _ _ ?_) | (with_reducible refine loaded_foldl _ ?_ _ _ ?_) | (with_reducible refine steps_foldl _ ?_ _ _ ?_) | (with_reducible refine runWord_canon _ _ _ ?_ ?_) | (with_reducible refine crossWord_canon _ _ _ ?_ ?_) | (with_reducible refine issue_canon _ _ _ _ ?_ ?_ ?_) | (with_reducible refine access_canon _ _ _ _ ?_ ?_ ?_) | (with_reducible refine bufAccess_canon _ _ _ _ ?_ ?_ ?_) | (with_reducible refine canon_getD ?_ ?_) | (intro _ _ _; try dsimp only) | (intro _ _; try dsimp only) | (intro _; try dsimp only)
  all_goals try simp (maxDischargeDepth := 20) +contextual [*]
theorem execLaunchPacket_canon (p : Packet) (s : State) (hs : Canon s) : OutC (execLaunchPacket p s) := by
  unfold execLaunchPacket
  (try dsimp only)
  repeat' first | split | (with_reducible refine canon_foldl _ ?_ _ _ ?_) | (with_reducible refine canon_foldl1 _ ?_ _ _ ?_) | (with_reducible refine canon_foldl2 _ ?_ _ _ ?_) | (with_reducible refine loaded_foldl _ ?_ _ _ ?_) | (with_reducible refine steps_foldl _ ?_ _ _ ?_) | (with_reducible refine runWord_canon _ _ _ ?_ ?_) | (with_reducible refine crossWord_canon _ _ _ ?_ ?_) | (with_reducible refine issue_canon _ _ _ _ ?_ ?_ ?_) | (with_reducible refine access_canon _ _ _ _ ?_ ?_ ?_) | (with_reducible refine bufAccess_canon _ _ _ _ ?_ ?_ ?_) | (with_reducible refine canon_getD ?_ ?_) | (intro _ _ _; try dsimp only) | (intro _ _; try dsimp only) | (intro _; try dsimp only)
  all_goals try simp (maxDischargeDepth := 20) +contextual [*]
@[simp] theorem takeInbound_canon (s : State) (x : Inbound) (write : Bool) (hs : Canon s) : Canon (takeInbound s x write) := by
  unfold takeInbound
  (try dsimp only)
  repeat' first | split | (with_reducible refine canon_foldl _ ?_ _ _ ?_) | (with_reducible refine canon_foldl1 _ ?_ _ _ ?_) | (with_reducible refine canon_foldl2 _ ?_ _ _ ?_) | (with_reducible refine loaded_foldl _ ?_ _ _ ?_) | (with_reducible refine steps_foldl _ ?_ _ _ ?_) | (with_reducible refine runWord_canon _ _ _ ?_ ?_) | (with_reducible refine crossWord_canon _ _ _ ?_ ?_) | (with_reducible refine issue_canon _ _ _ _ ?_ ?_ ?_) | (with_reducible refine access_canon _ _ _ _ ?_ ?_ ?_) | (with_reducible refine bufAccess_canon _ _ _ _ ?_ ?_ ?_) | (with_reducible refine canon_getD ?_ ?_) | (intro _ _ _; try dsimp only) | (intro _ _; try dsimp only) | (intro _; try dsimp only)
  all_goals try simp (maxDischargeDepth := 20) +contextual [*]
theorem execInboundRmaWrite_canon (x : Inbound) (s : State) (hs : Canon s) : OutC (execInboundRmaWrite x s) := by
  unfold execInboundRmaWrite
  (try dsimp only)
  repeat' first | split | (with_reducible refine canon_foldl _ ?_ _ _ ?_) | (with_reducible refine canon_foldl1 _ ?_ _ _ ?_) | (with_reducible refine canon_foldl2 _ ?_ _ _ ?_) | (with_reducible refine loaded_foldl _ ?_ _ _ ?_) | (with_reducible refine steps_foldl _ ?_ _ _ ?_) | (with_reducible refine runWord_canon _ _ _ ?_ ?_) | (with_reducible refine crossWord_canon _ _ _ ?_ ?_) | (with_reducible refine issue_canon _ _ _ _ ?_ ?_ ?_) | (with_reducible refine access_canon _ _ _ _ ?_ ?_ ?_) | (with_reducible refine bufAccess_canon _ _ _ _ ?_ ?_ ?_) | (with_reducible refine canon_getD ?_ ?_) | (intro _ _ _; try dsimp only) | (intro _ _; try dsimp only) | (intro _; try dsimp only)
  all_goals try simp (maxDischargeDepth := 20) +contextual [*]
theorem execInboundRmaRead_canon (x : Inbound) (s : State) (hs : Canon s) : OutC (execInboundRmaRead x s) := by
  unfold execInboundRmaRead
  (try dsimp only)
  repeat' first | split | (with_reducible refine canon_foldl _ ?_ _ _ ?_) | (with_reducible refine canon_foldl1 _ ?_ _ _ ?_) | (with_reducible refine canon_foldl2 _ ?_ _ _ ?_) | (with_reducible refine loaded_foldl _ ?_ _ _ ?_) | (with_reducible refine steps_foldl _ ?_ _ _ ?_) | (with_reducible refine runWord_canon _ _ _ ?_ ?_) | (with_reducible refine crossWord_canon _ _ _ ?_ ?_) | (with_reducible refine issue_canon _ _ _ _ ?_ ?_ ?_) | (with_reducible refine access_canon _ _ _ _ ?_ ?_ ?_) | (with_reducible refine bufAccess_canon _ _ _ _ ?_ ?_ ?_) | (with_reducible refine canon_getD ?_ ?_) | (intro _ _ _; try dsimp only) | (intro _ _; try dsimp only) | (intro _; try dsimp only)
  all_goals try simp (maxDischargeDepth := 20) +contextual [*]

/-! ### Matrix -/

@[simp] theorem defineTile_canon (s : State) (g : Nat) (n : Fin 64) (d : BitVec 128) (hs : Canon s) : Canon (defineTile s g n d) := by
  unfold defineTile
  (try dsimp only)
  repeat' first | split | (with_reducible refine canon_foldl _ ?_ _ _ ?_) | (with_reducible refine canon_foldl1 _ ?_ _ _ ?_) | (with_reducible refine canon_foldl2 _ ?_ _ _ ?_) | (with_reducible refine loaded_foldl _ ?_ _ _ ?_) | (with_reducible refine steps_foldl _ ?_ _ _ ?_) | (with_reducible refine runWord_canon _ _ _ ?_ ?_) | (with_reducible refine crossWord_canon _ _ _ ?_ ?_) | (with_reducible refine issue_canon _ _ _ _ ?_ ?_ ?_) | (with_reducible refine access_canon _ _ _ _ ?_ ?_ ?_) | (with_reducible refine bufAccess_canon _ _ _ _ ?_ ?_ ?_) | (with_reducible refine canon_getD ?_ ?_) | (intro _ _ _; try dsimp only) | (intro _ _; try dsimp only) | (intro _; try dsimp only)
  all_goals try simp (maxDischargeDepth := 20) +contextual [*]
@[simp] theorem freeTile_canon (s : State) (g : Nat) (n : Fin 64) (hs : Canon s) : Canon (freeTile s g n) := by
  unfold freeTile
  (try dsimp only)
  repeat' first | split | (with_reducible refine canon_foldl _ ?_ _ _ ?_) | (with_reducible refine canon_foldl1 _ ?_ _ _ ?_) | (with_reducible refine canon_foldl2 _ ?_ _ _ ?_) | (with_reducible refine loaded_foldl _ ?_ _ _ ?_) | (with_reducible refine steps_foldl _ ?_ _ _ ?_) | (with_reducible refine runWord_canon _ _ _ ?_ ?_) | (with_reducible refine crossWord_canon _ _ _ ?_ ?_) | (with_reducible refine issue_canon _ _ _ _ ?_ ?_ ?_) | (with_reducible refine access_canon _ _ _ _ ?_ ?_ ?_) | (with_reducible refine bufAccess_canon _ _ _ _ ?_ ?_ ?_) | (with_reducible refine canon_getD ?_ ?_) | (intro _ _ _; try dsimp only) | (intro _ _; try dsimp only) | (intro _; try dsimp only)
  all_goals try simp (maxDischargeDepth := 20) +contextual [*]
@[simp] theorem tdefBody_canon (c : Ctx) (g : Group) (n : Fin 64) (d : BitVec 128) (hc : Canon c.s) : ResC (tdefBody c g n d) := by
  unfold tdefBody
  (try dsimp only)
  repeat' first | split | (with_reducible refine canon_foldl _ ?_ _ _ ?_) | (with_reducible refine canon_foldl1 _ ?_ _ _ ?_) | (with_reducible refine canon_foldl2 _ ?_ _ _ ?_) | (with_reducible refine loaded_foldl _ ?_ _ _ ?_) | (with_reducible refine steps_foldl _ ?_ _ _ ?_) | (with_reducible refine runWord_canon _ _ _ ?_ ?_) | (with_reducible refine crossWord_canon _ _ _ ?_ ?_) | (with_reducible refine issue_canon _ _ _ _ ?_ ?_ ?_) | (with_reducible refine access_canon _ _ _ _ ?_ ?_ ?_) | (with_reducible refine bufAccess_canon _ _ _ _ ?_ ?_ ?_) | (with_reducible refine canon_getD ?_ ?_) | (intro _ _ _; try dsimp only) | (intro _ _; try dsimp only) | (intro _; try dsimp only)
  all_goals try simp (maxDischargeDepth := 20) +contextual [*]
theorem execTdef_canon (e : Bool) (t : Fin 64) (q : Reg) (s : State) (hs : Canon s) : OutC (execTdef e t q s) := by
  unfold execTdef
  (try dsimp only)
  repeat' first | split | (with_reducible refine canon_foldl _ ?_ _ _ ?_) | (with_reducible refine canon_foldl1 _ ?_ _ _ ?_) | (with_reducible refine canon_foldl2 _ ?_ _ _ ?_) | (with_reducible refine loaded_foldl _ ?_ _ _ ?_) | (with_reducible refine steps_foldl _ ?_ _ _ ?_) | (with_reducible refine runWord_canon _ _ _ ?_ ?_) | (with_reducible refine crossWord_canon _ _ _ ?_ ?_) | (with_reducible refine issue_canon _ _ _ _ ?_ ?_ ?_) | (with_reducible refine access_canon _ _ _ _ ?_ ?_ ?_) | (with_reducible refine bufAccess_canon _ _ _ _ ?_ ?_ ?_) | (with_reducible refine canon_getD ?_ ?_) | (intro _ _ _; try dsimp only) | (intro _ _; try dsimp only) | (intro _; try dsimp only)
  all_goals try simp (maxDischargeDepth := 20) +contextual [*]
theorem execTset_canon (e : Bool) (t : Fin 64) (st : TileState) (s : State) (hs : Canon s) : OutC (execTset e t st s) := by
  unfold execTset
  (try dsimp only)
  repeat' first | split | (with_reducible refine canon_foldl _ ?_ _ _ ?_) | (with_reducible refine canon_foldl1 _ ?_ _ _ ?_) | (with_reducible refine canon_foldl2 _ ?_ _ _ ?_) | (with_reducible refine loaded_foldl _ ?_ _ _ ?_) | (with_reducible refine steps_foldl _ ?_ _ _ ?_) | (with_reducible refine runWord_canon _ _ _ ?_ ?_) | (with_reducible refine crossWord_canon _ _ _ ?_ ?_) | (with_reducible refine issue_canon _ _ _ _ ?_ ?_ ?_) | (with_reducible refine access_canon _ _ _ _ ?_ ?_ ?_) | (with_reducible refine bufAccess_canon _ _ _ _ ?_ ?_ ?_) | (with_reducible refine canon_getD ?_ ?_) | (intro _ _ _; try dsimp only) | (intro _ _; try dsimp only) | (intro _; try dsimp only)
  all_goals try simp (maxDischargeDepth := 20) +contextual [*]
theorem execCkmode_canon (e : Bool) (m : BitVec 3) (s : State) (hs : Canon s) : OutC (execCkmode e m s) := by
  unfold execCkmode
  (try dsimp only)
  repeat' first | split | (with_reducible refine canon_foldl _ ?_ _ _ ?_) | (with_reducible refine canon_foldl1 _ ?_ _ _ ?_) | (with_reducible refine canon_foldl2 _ ?_ _ _ ?_) | (with_reducible refine loaded_foldl _ ?_ _ _ ?_) | (with_reducible refine steps_foldl _ ?_ _ _ ?_) | (with_reducible refine runWord_canon _ _ _ ?_ ?_) | (with_reducible refine crossWord_canon _ _ _ ?_ ?_) | (with_reducible refine issue_canon _ _ _ _ ?_ ?_ ?_) | (with_reducible refine access_canon _ _ _ _ ?_ ?_ ?_) | (with_reducible refine bufAccess_canon _ _ _ _ ?_ ?_ ?_) | (with_reducible refine canon_getD ?_ ?_) | (intro _ _ _; try dsimp only) | (intro _ _; try dsimp only) | (intro _; try dsimp only)
  all_goals try simp (maxDischargeDepth := 20) +contextual [*]
@[simp] theorem meetGang_canon (c : Ctx) (g : Group) (op : MatOp) (hc : Canon c.s) : ResC (meetGang c g op) := by
  unfold meetGang
  (try dsimp only)
  repeat' first | split | (with_reducible refine canon_foldl _ ?_ _ _ ?_) | (with_reducible refine canon_foldl1 _ ?_ _ _ ?_) | (with_reducible refine canon_foldl2 _ ?_ _ _ ?_) | (with_reducible refine loaded_foldl _ ?_ _ _ ?_) | (with_reducible refine steps_foldl _ ?_ _ _ ?_) | (with_reducible refine runWord_canon _ _ _ ?_ ?_) | (with_reducible refine crossWord_canon _ _ _ ?_ ?_) | (with_reducible refine issue_canon _ _ _ _ ?_ ?_ ?_) | (with_reducible refine access_canon _ _ _ _ ?_ ?_ ?_) | (with_reducible refine bufAccess_canon _ _ _ _ ?_ ?_ ?_) | (with_reducible refine canon_getD ?_ ?_) | (intro _ _ _; try dsimp only) | (intro _ _; try dsimp only) | (intro _; try dsimp only)
  all_goals try simp (maxDischargeDepth := 20) +contextual [*]
@[simp] theorem matBody_canon (c : Ctx) (sparse : Bool) (a b t : Fin 64) (j : Fin 4) (hc : Canon c.s) : ResC (matBody c sparse a b t j) := by
  unfold matBody
  (try dsimp only)
  repeat' first | split | (with_reducible refine canon_foldl _ ?_ _ _ ?_) | (with_reducible refine canon_foldl1 _ ?_ _ _ ?_) | (with_reducible refine canon_foldl2 _ ?_ _ _ ?_) | (with_reducible refine loaded_foldl _ ?_ _ _ ?_) | (with_reducible refine steps_foldl _ ?_ _ _ ?_) | (with_reducible refine runWord_canon _ _ _ ?_ ?_) | (with_reducible refine crossWord_canon _ _ _ ?_ ?_) | (with_reducible refine issue_canon _ _ _ _ ?_ ?_ ?_) | (with_reducible refine access_canon _ _ _ _ ?_ ?_ ?_) | (with_reducible refine bufAccess_canon _ _ _ _ ?_ ?_ ?_) | (with_reducible refine canon_getD ?_ ?_) | (intro _ _ _; try dsimp only) | (intro _ _; try dsimp only) | (intro _; try dsimp only)
  all_goals try simp (maxDischargeDepth := 20) +contextual [*]
theorem execMma_canon (e : Bool) (a b t : Fin 64) (j : Fin 4) (u : Fin 16) (s : State) (hs : Canon s) : OutC (execMma e a b t j u s) := by
  unfold execMma
  (try dsimp only)
  repeat' first | split | (with_reducible refine canon_foldl _ ?_ _ _ ?_) | (with_reducible refine canon_foldl1 _ ?_ _ _ ?_) | (with_reducible refine canon_foldl2 _ ?_ _ _ ?_) | (with_reducible refine loaded_foldl _ ?_ _ _ ?_) | (with_reducible refine steps_foldl _ ?_ _ _ ?_) | (with_reducible refine runWord_canon _ _ _ ?_ ?_) | (with_reducible refine crossWord_canon _ _ _ ?_ ?_) | (with_reducible refine issue_canon _ _ _ _ ?_ ?_ ?_) | (with_reducible refine access_canon _ _ _ _ ?_ ?_ ?_) | (with_reducible refine bufAccess_canon _ _ _ _ ?_ ?_ ?_) | (with_reducible refine canon_getD ?_ ?_) | (intro _ _ _; try dsimp only) | (intro _ _; try dsimp only) | (intro _; try dsimp only)
  all_goals try simp (maxDischargeDepth := 20) +contextual [*]
theorem execMmas_canon (e : Bool) (a b t : Fin 64) (j : Fin 4) (u : Fin 16) (s : State) (hs : Canon s) : OutC (execMmas e a b t j u s) := by
  unfold execMmas
  (try dsimp only)
  repeat' first | split | (with_reducible refine canon_foldl _ ?_ _ _ ?_) | (with_reducible refine canon_foldl1 _ ?_ _ _ ?_) | (with_reducible refine canon_foldl2 _ ?_ _ _ ?_) | (with_reducible refine loaded_foldl _ ?_ _ _ ?_) | (with_reducible refine steps_foldl _ ?_ _ _ ?_) | (with_reducible refine runWord_canon _ _ _ ?_ ?_) | (with_reducible refine crossWord_canon _ _ _ ?_ ?_) | (with_reducible refine issue_canon _ _ _ _ ?_ ?_ ?_) | (with_reducible refine access_canon _ _ _ _ ?_ ?_ ?_) | (with_reducible refine bufAccess_canon _ _ _ _ ?_ ?_ ?_) | (with_reducible refine canon_getD ?_ ?_) | (intro _ _ _; try dsimp only) | (intro _ _; try dsimp only) | (intro _; try dsimp only)
  all_goals try simp (maxDischargeDepth := 20) +contextual [*]
@[simp] theorem leaveGang_canon (s : State) (g : Group) (op : MatOp) (arr : List Arrival) (hs : Canon s) : Canon (leaveGang s g op arr) := by
  unfold leaveGang
  (try dsimp only)
  repeat' first | split | (with_reducible refine canon_foldl _ ?_ _ _ ?_) | (with_reducible refine canon_foldl1 _ ?_ _ _ ?_) | (with_reducible refine canon_foldl2 _ ?_ _ _ ?_) | (with_reducible refine loaded_foldl _ ?_ _ _ ?_) | (with_reducible refine steps_foldl _ ?_ _ _ ?_) | (with_reducible refine runWord_canon _ _ _ ?_ ?_) | (with_reducible refine crossWord_canon _ _ _ ?_ ?_) | (with_reducible refine issue_canon _ _ _ _ ?_ ?_ ?_) | (with_reducible refine access_canon _ _ _ _ ?_ ?_ ?_) | (with_reducible refine bufAccess_canon _ _ _ _ ?_ ?_ ?_) | (with_reducible refine canon_getD ?_ ?_) | (intro _ _ _; try dsimp only) | (intro _ _; try dsimp only) | (intro _; try dsimp only)
  all_goals try simp (maxDischargeDepth := 20) +contextual [*]
@[simp] theorem acceptGang_canon (s : State) (gid : Nat) (hs : Canon s) : Canon (acceptGang s gid) := by
  unfold acceptGang
  (try dsimp only)
  repeat' first | split | (with_reducible refine canon_foldl _ ?_ _ _ ?_) | (with_reducible refine canon_foldl1 _ ?_ _ _ ?_) | (with_reducible refine canon_foldl2 _ ?_ _ _ ?_) | (with_reducible refine loaded_foldl _ ?_ _ _ ?_) | (with_reducible refine steps_foldl _ ?_ _ _ ?_) | (with_reducible refine runWord_canon _ _ _ ?_ ?_) | (with_reducible refine crossWord_canon _ _ _ ?_ ?_) | (with_reducible refine issue_canon _ _ _ _ ?_ ?_ ?_) | (with_reducible refine access_canon _ _ _ _ ?_ ?_ ?_) | (with_reducible refine bufAccess_canon _ _ _ _ ?_ ?_ ?_) | (with_reducible refine canon_getD ?_ ?_) | (intro _ _ _; try dsimp only) | (intro _ _; try dsimp only) | (intro _; try dsimp only)
  all_goals try simp (maxDischargeDepth := 20) +contextual [*]
theorem execMmaAccept_canon (group : Nat) (s : State) (hs : Canon s) : OutC (execMmaAccept group s) := by
  unfold execMmaAccept
  (try dsimp only)
  repeat' first | split | (with_reducible refine canon_foldl _ ?_ _ _ ?_) | (with_reducible refine canon_foldl1 _ ?_ _ _ ?_) | (with_reducible refine canon_foldl2 _ ?_ _ _ ?_) | (with_reducible refine loaded_foldl _ ?_ _ _ ?_) | (with_reducible refine steps_foldl _ ?_ _ _ ?_) | (with_reducible refine runWord_canon _ _ _ ?_ ?_) | (with_reducible refine crossWord_canon _ _ _ ?_ ?_) | (with_reducible refine issue_canon _ _ _ _ ?_ ?_ ?_) | (with_reducible refine access_canon _ _ _ _ ?_ ?_ ?_) | (with_reducible refine bufAccess_canon _ _ _ _ ?_ ?_ ?_) | (with_reducible refine canon_getD ?_ ?_) | (intro _ _ _; try dsimp only) | (intro _ _; try dsimp only) | (intro _; try dsimp only)
  all_goals try simp (maxDischargeDepth := 20) +contextual [*]
@[simp] theorem expireGang_canon (s : State) (gid : Nat) (hs : Canon s) : Canon (expireGang s gid) := by
  unfold expireGang
  (try dsimp only)
  repeat' first | split | (with_reducible refine canon_foldl _ ?_ _ _ ?_) | (with_reducible refine canon_foldl1 _ ?_ _ _ ?_) | (with_reducible refine canon_foldl2 _ ?_ _ _ ?_) | (with_reducible refine loaded_foldl _ ?_ _ _ ?_) | (with_reducible refine steps_foldl _ ?_ _ _ ?_) | (with_reducible refine runWord_canon _ _ _ ?_ ?_) | (with_reducible refine crossWord_canon _ _ _ ?_ ?_) | (with_reducible refine issue_canon _ _ _ _ ?_ ?_ ?_) | (with_reducible refine access_canon _ _ _ _ ?_ ?_ ?_) | (with_reducible refine bufAccess_canon _ _ _ _ ?_ ?_ ?_) | (with_reducible refine canon_getD ?_ ?_) | (intro _ _ _; try dsimp only) | (intro _ _; try dsimp only) | (intro _; try dsimp only)
  all_goals try simp (maxDischargeDepth := 20) +contextual [*]
theorem execRendezvousTimeout_canon (group : Nat) (s : State) (hs : Canon s) : OutC (execRendezvousTimeout group s) := by
  unfold execRendezvousTimeout
  (try dsimp only)
  repeat' first | split | (with_reducible refine canon_foldl _ ?_ _ _ ?_) | (with_reducible refine canon_foldl1 _ ?_ _ _ ?_) | (with_reducible refine canon_foldl2 _ ?_ _ _ ?_) | (with_reducible refine loaded_foldl _ ?_ _ _ ?_) | (with_reducible refine steps_foldl _ ?_ _ _ ?_) | (with_reducible refine runWord_canon _ _ _ ?_ ?_) | (with_reducible refine crossWord_canon _ _ _ ?_ ?_) | (with_reducible refine issue_canon _ _ _ _ ?_ ?_ ?_) | (with_reducible refine access_canon _ _ _ _ ?_ ?_ ?_) | (with_reducible refine bufAccess_canon _ _ _ _ ?_ ?_ ?_) | (with_reducible refine canon_getD ?_ ?_) | (intro _ _ _; try dsimp only) | (intro _ _; try dsimp only) | (intro _; try dsimp only)
  all_goals try simp (maxDischargeDepth := 20) +contextual [*]
@[simp] theorem consumeArray_canon (s : State) (g : Group) (arr : List Arrival) (hs : Canon s) : Canon (consumeArray s g arr) := by
  unfold consumeArray
  (try dsimp only)
  repeat' first | split | (with_reducible refine canon_foldl _ ?_ _ _ ?_) | (with_reducible refine canon_foldl1 _ ?_ _ _ ?_) | (with_reducible refine canon_foldl2 _ ?_ _ _ ?_) | (with_reducible refine loaded_foldl _ ?_ _ _ ?_) | (with_reducible refine steps_foldl _ ?_ _ _ ?_) | (with_reducible refine runWord_canon _ _ _ ?_ ?_) | (with_reducible refine crossWord_canon _ _ _ ?_ ?_) | (with_reducible refine issue_canon _ _ _ _ ?_ ?_ ?_) | (with_reducible refine access_canon _ _ _ _ ?_ ?_ ?_) | (with_reducible refine bufAccess_canon _ _ _ _ ?_ ?_ ?_) | (with_reducible refine canon_getD ?_ ?_) | (intro _ _ _; try dsimp only) | (intro _ _; try dsimp only) | (intro _; try dsimp only)
  all_goals try simp (maxDischargeDepth := 20) +contextual [*]
@[simp] theorem finishArray_canon (s : State) (gid : Nat) (hs : Canon s) : Canon (finishArray s gid) := by
  unfold finishArray
  (try dsimp only)
  repeat' first | split | (with_reducible refine canon_foldl _ ?_ _ _ ?_) | (with_reducible refine canon_foldl1 _ ?_ _ _ ?_) | (with_reducible refine canon_foldl2 _ ?_ _ _ ?_) | (with_reducible refine loaded_foldl _ ?_ _ _ ?_) | (with_reducible refine steps_foldl _ ?_ _ _ ?_) | (with_reducible refine runWord_canon _ _ _ ?_ ?_) | (with_reducible refine crossWord_canon _ _ _ ?_ ?_) | (with_reducible refine issue_canon _ _ _ _ ?_ ?_ ?_) | (with_reducible refine access_canon _ _ _ _ ?_ ?_ ?_) | (with_reducible refine bufAccess_canon _ _ _ _ ?_ ?_ ?_) | (with_reducible refine canon_getD ?_ ?_) | (intro _ _ _; try dsimp only) | (intro _ _; try dsimp only) | (intro _; try dsimp only)
  all_goals try simp (maxDischargeDepth := 20) +contextual [*]
theorem execMmaComplete_canon (group : Nat) (s : State) (hs : Canon s) : OutC (execMmaComplete group s) := by
  unfold execMmaComplete
  (try dsimp only)
  repeat' first | split | (with_reducible refine canon_foldl _ ?_ _ _ ?_) | (with_reducible refine canon_foldl1 _ ?_ _ _ ?_) | (with_reducible refine canon_foldl2 _ ?_ _ _ ?_) | (with_reducible refine loaded_foldl _ ?_ _ _ ?_) | (with_reducible refine steps_foldl _ ?_ _ _ ?_) | (with_reducible refine runWord_canon _ _ _ ?_ ?_) | (with_reducible refine crossWord_canon _ _ _ ?_ ?_) | (with_reducible refine issue_canon _ _ _ _ ?_ ?_ ?_) | (with_reducible refine access_canon _ _ _ _ ?_ ?_ ?_) | (with_reducible refine bufAccess_canon _ _ _ _ ?_ ?_ ?_) | (with_reducible refine canon_getD ?_ ?_) | (intro _ _ _; try dsimp only) | (intro _ _; try dsimp only) | (intro _; try dsimp only)
  all_goals try simp (maxDischargeDepth := 20) +contextual [*]
@[simp] theorem clearTile_canon (s : State) (g : Group) (t : Tile) (hs : Canon s) : Canon (clearTile s g t) := by
  unfold clearTile
  (try dsimp only)
  repeat' first | split | (with_reducible refine canon_foldl _ ?_ _ _ ?_) | (with_reducible refine canon_foldl1 _ ?_ _ _ ?_) | (with_reducible refine canon_foldl2 _ ?_ _ _ ?_) | (with_reducible refine loaded_foldl _ ?_ _ _ ?_) | (with_reducible refine steps_foldl _ ?_ _ _ ?_) | (with_reducible refine runWord_canon _ _ _ ?_ ?_) | (with_reducible refine crossWord_canon _ _ _ ?_ ?_) | (with_reducible refine issue_canon _ _ _ _ ?_ ?_ ?_) | (with_reducible refine access_canon _ _ _ _ ?_ ?_ ?_) | (with_reducible refine bufAccess_canon _ _ _ _ ?_ ?_ ?_) | (with_reducible refine canon_getD ?_ ?_) | (intro _ _ _; try dsimp only) | (intro _ _; try dsimp only) | (intro _; try dsimp only)
  all_goals try simp (maxDischargeDepth := 20) +contextual [*]
theorem execCinit_canon (e : Bool) (t : Fin 64) (s : State) (hs : Canon s) : OutC (execCinit e t s) := by
  unfold execCinit
  (try dsimp only)
  repeat' first | split | (with_reducible refine canon_foldl _ ?_ _ _ ?_) | (with_reducible refine canon_foldl1 _ ?_ _ _ ?_) | (with_reducible refine canon_foldl2 _ ?_ _ _ ?_) | (with_reducible refine loaded_foldl _ ?_ _ _ ?_) | (with_reducible refine steps_foldl _ ?_ _ _ ?_) | (with_reducible refine runWord_canon _ _ _ ?_ ?_) | (with_reducible refine crossWord_canon _ _ _ ?_ ?_) | (with_reducible refine issue_canon _ _ _ _ ?_ ?_ ?_) | (with_reducible refine access_canon _ _ _ _ ?_ ?_ ?_) | (with_reducible refine bufAccess_canon _ _ _ _ ?_ ?_ ?_) | (with_reducible refine canon_getD ?_ ?_) | (intro _ _ _; try dsimp only) | (intro _ _; try dsimp only) | (intro _; try dsimp only)
  all_goals try simp (maxDischargeDepth := 20) +contextual [*]
@[simp] theorem startDrain_canon (s : State) (w : Wave) (die core : Nat) (a t : Fin 64) (r : Rnd) (hs : Canon s) : Canon (startDrain s w die core a t r) := by
  unfold startDrain
  (try dsimp only)
  repeat' first | split | (with_reducible refine canon_foldl _ ?_ _ _ ?_) | (with_reducible refine canon_foldl1 _ ?_ _ _ ?_) | (with_reducible refine canon_foldl2 _ ?_ _ _ ?_) | (with_reducible refine loaded_foldl _ ?_ _ _ ?_) | (with_reducible refine steps_foldl _ ?_ _ _ ?_) | (with_reducible refine runWord_canon _ _ _ ?_ ?_) | (with_reducible refine crossWord_canon _ _ _ ?_ ?_) | (with_reducible refine issue_canon _ _ _ _ ?_ ?_ ?_) | (with_reducible refine access_canon _ _ _ _ ?_ ?_ ?_) | (with_reducible refine bufAccess_canon _ _ _ _ ?_ ?_ ?_) | (with_reducible refine canon_getD ?_ ?_) | (intro _ _ _; try dsimp only) | (intro _ _; try dsimp only) | (intro _; try dsimp only)
  all_goals try simp (maxDischargeDepth := 20) +contextual [*]
@[simp] theorem cdrainBody_canon (c : Ctx) (a t : Fin 64) (r : Rnd) (hc : Canon c.s) : ResC (cdrainBody c a t r) := by
  unfold cdrainBody
  (try dsimp only)
  repeat' first | split | (with_reducible refine canon_foldl _ ?_ _ _ ?_) | (with_reducible refine canon_foldl1 _ ?_ _ _ ?_) | (with_reducible refine canon_foldl2 _ ?_ _ _ ?_) | (with_reducible refine loaded_foldl _ ?_ _ _ ?_) | (with_reducible refine steps_foldl _ ?_ _ _ ?_) | (with_reducible refine runWord_canon _ _ _ ?_ ?_) | (with_reducible refine crossWord_canon _ _ _ ?_ ?_) | (with_reducible refine issue_canon _ _ _ _ ?_ ?_ ?_) | (with_reducible refine access_canon _ _ _ _ ?_ ?_ ?_) | (with_reducible refine bufAccess_canon _ _ _ _ ?_ ?_ ?_) | (with_reducible refine canon_getD ?_ ?_) | (intro _ _ _; try dsimp only) | (intro _ _; try dsimp only) | (intro _; try dsimp only)
  all_goals try simp (maxDischargeDepth := 20) +contextual [*]
theorem execCdrain_canon (e : Bool) (a t : Fin 64) (r : Rnd) (s : State) (hs : Canon s) : OutC (execCdrain e a t r s) := by
  unfold execCdrain
  (try dsimp only)
  repeat' first | split | (with_reducible refine canon_foldl _ ?_ _ _ ?_) | (with_reducible refine canon_foldl1 _ ?_ _ _ ?_) | (with_reducible refine canon_foldl2 _ ?_ _ _ ?_) | (with_reducible refine loaded_foldl _ ?_ _ _ ?_) | (with_reducible refine steps_foldl _ ?_ _ _ ?_) | (with_reducible refine runWord_canon _ _ _ ?_ ?_) | (with_reducible refine crossWord_canon _ _ _ ?_ ?_) | (with_reducible refine issue_canon _ _ _ _ ?_ ?_ ?_) | (with_reducible refine access_canon _ _ _ _ ?_ ?_ ?_) | (with_reducible refine bufAccess_canon _ _ _ _ ?_ ?_ ?_) | (with_reducible refine canon_getD ?_ ?_) | (intro _ _ _; try dsimp only) | (intro _ _; try dsimp only) | (intro _; try dsimp only)
  all_goals try simp (maxDischargeDepth := 20) +contextual [*]
@[simp] theorem countCorrection_canon (s : State) (w : Wave) (m : Mask) (die core : Nat) (t : Fin 64) (fix : Option (Nat × Nat)) (hs : Canon s) : Canon (countCorrection s w m die core t fix) := by
  unfold countCorrection
  (try dsimp only)
  repeat' first | split | (with_reducible refine canon_foldl _ ?_ _ _ ?_) | (with_reducible refine canon_foldl1 _ ?_ _ _ ?_) | (with_reducible refine canon_foldl2 _ ?_ _ _ ?_) | (with_reducible refine loaded_foldl _ ?_ _ _ ?_) | (with_reducible refine steps_foldl _ ?_ _ _ ?_) | (with_reducible refine runWord_canon _ _ _ ?_ ?_) | (with_reducible refine crossWord_canon _ _ _ ?_ ?_) | (with_reducible refine issue_canon _ _ _ _ ?_ ?_ ?_) | (with_reducible refine access_canon _ _ _ _ ?_ ?_ ?_) | (with_reducible refine bufAccess_canon _ _ _ _ ?_ ?_ ?_) | (with_reducible refine canon_getD ?_ ?_) | (intro _ _ _; try dsimp only) | (intro _ _; try dsimp only) | (intro _; try dsimp only)
  all_goals try simp (maxDischargeDepth := 20) +contextual [*]
@[simp] theorem endDrain_canon (s : State) (w : Wave) (a t : Fin 64) (st : TileState) (hs : Canon s) : Canon (endDrain s w a t st) := by
  unfold endDrain
  (try dsimp only)
  repeat' first | split | (with_reducible refine canon_foldl _ ?_ _ _ ?_) | (with_reducible refine canon_foldl1 _ ?_ _ _ ?_) | (with_reducible refine canon_foldl2 _ ?_ _ _ ?_) | (with_reducible refine loaded_foldl _ ?_ _ _ ?_) | (with_reducible refine steps_foldl _ ?_ _ _ ?_) | (with_reducible refine runWord_canon _ _ _ ?_ ?_) | (with_reducible refine crossWord_canon _ _ _ ?_ ?_) | (with_reducible refine issue_canon _ _ _ _ ?_ ?_ ?_) | (with_reducible refine access_canon _ _ _ _ ?_ ?_ ?_) | (with_reducible refine bufAccess_canon _ _ _ _ ?_ ?_ ?_) | (with_reducible refine canon_getD ?_ ?_) | (intro _ _ _; try dsimp only) | (intro _ _; try dsimp only) | (intro _; try dsimp only)
  all_goals try simp (maxDischargeDepth := 20) +contextual [*]
@[simp] theorem dropDrain_canon (s : State) (w : Wave) (g : Group) (a t : Fin 64) (hs : Canon s) : Canon (dropDrain s w g a t) := by
  unfold dropDrain
  (try dsimp only)
  repeat' first | split | (with_reducible refine canon_foldl _ ?_ _ _ ?_) | (with_reducible refine canon_foldl1 _ ?_ _ _ ?_) | (with_reducible refine canon_foldl2 _ ?_ _ _ ?_) | (with_reducible refine loaded_foldl _ ?_ _ _ ?_) | (with_reducible refine steps_foldl _ ?_ _ _ ?_) | (with_reducible refine runWord_canon _ _ _ ?_ ?_) | (with_reducible refine crossWord_canon _ _ _ ?_ ?_) | (with_reducible refine issue_canon _ _ _ _ ?_ ?_ ?_) | (with_reducible refine access_canon _ _ _ _ ?_ ?_ ?_) | (with_reducible refine bufAccess_canon _ _ _ _ ?_ ?_ ?_) | (with_reducible refine canon_getD ?_ ?_) | (intro _ _ _; try dsimp only) | (intro _ _; try dsimp only) | (intro _; try dsimp only)
  all_goals try simp (maxDischargeDepth := 20) +contextual [*]
@[simp] theorem finishDrain_canon (s : State) (wid : Nat) (hs : Canon s) : Canon (finishDrain s wid) := by
  unfold finishDrain
  (try dsimp only)
  repeat' first | split | (with_reducible refine canon_foldl _ ?_ _ _ ?_) | (with_reducible refine canon_foldl1 _ ?_ _ _ ?_) | (with_reducible refine canon_foldl2 _ ?_ _ _ ?_) | (with_reducible refine loaded_foldl _ ?_ _ _ ?_) | (with_reducible refine steps_foldl _ ?_ _ _ ?_) | (with_reducible refine runWord_canon _ _ _ ?_ ?_) | (with_reducible refine crossWord_canon _ _ _ ?_ ?_) | (with_reducible refine issue_canon _ _ _ _ ?_ ?_ ?_) | (with_reducible refine access_canon _ _ _ _ ?_ ?_ ?_) | (with_reducible refine bufAccess_canon _ _ _ _ ?_ ?_ ?_) | (with_reducible refine canon_getD ?_ ?_) | (intro _ _ _; try dsimp only) | (intro _ _; try dsimp only) | (intro _; try dsimp only)
  all_goals try simp (maxDischargeDepth := 20) +contextual [*]
theorem execCdrainComplete_canon (wave : Nat) (s : State) (hs : Canon s) : OutC (execCdrainComplete wave s) := by
  unfold execCdrainComplete
  (try dsimp only)
  repeat' first | split | (with_reducible refine canon_foldl _ ?_ _ _ ?_) | (with_reducible refine canon_foldl1 _ ?_ _ _ ?_) | (with_reducible refine canon_foldl2 _ ?_ _ _ ?_) | (with_reducible refine loaded_foldl _ ?_ _ _ ?_) | (with_reducible refine steps_foldl _ ?_ _ _ ?_) | (with_reducible refine runWord_canon _ _ _ ?_ ?_) | (with_reducible refine crossWord_canon _ _ _ ?_ ?_) | (with_reducible refine issue_canon _ _ _ _ ?_ ?_ ?_) | (with_reducible refine access_canon _ _ _ _ ?_ ?_ ?_) | (with_reducible refine bufAccess_canon _ _ _ _ ?_ ?_ ?_) | (with_reducible refine canon_getD ?_ ?_) | (intro _ _ _; try dsimp only) | (intro _ _; try dsimp only) | (intro _; try dsimp only)
  all_goals try simp (maxDischargeDepth := 20) +contextual [*]

end Sys2Proof.Machine
end

