-- ==== Sys2Proof/Laws/CanonSystem.lean ====
section
/-! SUPPORT. Canonical memories stay canonical: synchronisation, system words, runs, Sweolo and the fabric. -/
namespace Sys2Proof.Machine

set_option linter.unusedVariables false
set_option linter.unusedSimpArgs false

/-! ### Sync -/

@[simp] theorem stepLane_canon (c : Ctx) (v : Lanes Verdict) (a : Lane → DWord) (n : Nat) (f : Steps → Nat → Lane → Stepped) (x : Steps) (l : Lane) (hc : Canon c.s) (hf : ∀ x n l, Canon x.s → StepC (f x n l)) (hx : Canon x.s) : Canon (stepLane c v a n f x l).s := by
  unfold stepLane
  split
  · exact hx
  · next p _ =>
    split
    · exact hx
    · have h := hf x p.ia l hx
      split
      · next t e => simp [stepC_eq_done h e]
      · next t n e => exact stepC_eq_park h e
      · exact hx
@[simp] theorem stepLanes_canon (c : Ctx) (v : Lanes Verdict) (a : Lane → DWord) (n : Nat) (f : Steps → Nat → Lane → Stepped) (hc : Canon c.s) (hf : ∀ x n l, Canon x.s → StepC (f x n l)) : Canon (stepLanes c v a n f).s := by
  exact steps_foldl _ (fun t l ht => stepLane_canon _ _ _ _ _ _ _ hc hf ht) _ _ hc
@[simp] theorem parkMask_canon (s : State) (wid : Nat) (m : Mask) (k : ParkKind) (hs : Canon s) : Canon (parkMask s wid m k) := by
  unfold parkMask
  (try dsimp only)
  repeat' first | split | (with_reducible refine canon_foldl _ ?_ _ _ ?_) | (with_reducible refine canon_foldl1 _ ?_ _ _ ?_) | (with_reducible refine canon_foldl2 _ ?_ _ _ ?_) | (with_reducible refine loaded_foldl _ ?_ _ _ ?_) | (with_reducible refine steps_foldl _ ?_ _ _ ?_) | (with_reducible refine runWord_canon _ _ _ ?_ ?_) | (with_reducible refine crossWord_canon _ _ _ ?_ ?_) | (with_reducible refine issue_canon _ _ _ _ ?_ ?_ ?_) | (with_reducible refine access_canon _ _ _ _ ?_ ?_ ?_) | (with_reducible refine bufAccess_canon _ _ _ _ ?_ ?_ ?_) | (with_reducible refine canon_getD ?_ ?_) | (intro _ _ _; try dsimp only) | (intro _ _; try dsimp only) | (intro _; try dsimp only)
  all_goals try simp (maxDischargeDepth := 20) +contextual [*]
@[simp] theorem parkLanes_canon (s : State) (wid : Nat) (k : ParkKind) (ps : List (Lane × Nat × Word)) (hs : Canon s) : Canon (parkLanes s wid k ps) := by
  unfold parkLanes
  (try dsimp only)
  repeat' first | split | (with_reducible refine canon_foldl _ ?_ _ _ ?_) | (with_reducible refine canon_foldl1 _ ?_ _ _ ?_) | (with_reducible refine canon_foldl2 _ ?_ _ _ ?_) | (with_reducible refine loaded_foldl _ ?_ _ _ ?_) | (with_reducible refine steps_foldl _ ?_ _ _ ?_) | (with_reducible refine runWord_canon _ _ _ ?_ ?_) | (with_reducible refine crossWord_canon _ _ _ ?_ ?_) | (with_reducible refine issue_canon _ _ _ _ ?_ ?_ ?_) | (with_reducible refine access_canon _ _ _ _ ?_ ?_ ?_) | (with_reducible refine bufAccess_canon _ _ _ _ ?_ ?_ ?_) | (with_reducible refine canon_getD ?_ ?_) | (intro _ _ _; try dsimp only) | (intro _ _; try dsimp only) | (intro _; try dsimp only)
  all_goals try simp (maxDischargeDepth := 20) +contextual [*]
@[simp] theorem clearSat_canon (s : State) (wid : Nat) (l : Lane) (hs : Canon s) : Canon (clearSat s wid l) := by
  unfold clearSat
  (try dsimp only)
  repeat' first | split | (with_reducible refine canon_foldl _ ?_ _ _ ?_) | (with_reducible refine canon_foldl1 _ ?_ _ _ ?_) | (with_reducible refine canon_foldl2 _ ?_ _ _ ?_) | (with_reducible refine loaded_foldl _ ?_ _ _ ?_) | (with_reducible refine steps_foldl _ ?_ _ _ ?_) | (with_reducible refine runWord_canon _ _ _ ?_ ?_) | (with_reducible refine crossWord_canon _ _ _ ?_ ?_) | (with_reducible refine issue_canon _ _ _ _ ?_ ?_ ?_) | (with_reducible refine access_canon _ _ _ _ ?_ ?_ ?_) | (with_reducible refine bufAccess_canon _ _ _ _ ?_ ?_ ?_) | (with_reducible refine canon_getD ?_ ?_) | (intro _ _ _; try dsimp only) | (intro _ _; try dsimp only) | (intro _; try dsimp only)
  all_goals try simp (maxDischargeDepth := 20) +contextual [*]
@[simp] theorem stepsEnd_canon (c : Ctx) (v : Lanes Verdict) (k : ParkKind) (after : State → State) (x : Steps) (hc : Canon c.s) (hafter : ∀ t, Canon t → Canon (after t)) (hx : Canon x.s) : ResC (stepsEnd c v k after x) := by
  unfold stepsEnd
  extract_lets all s1
  have h1 : Canon s1 := by simp only [s1]; split <;> simp [hx, hafter]
  split <;> simp [h1, hc]
@[simp] theorem Ctx_meetWord_canon (c : Ctx) (s : State) (ia : Nat) (hc : Canon c.s) (hs : Canon s) : Canon (Ctx.meetWord c s ia) := by
  unfold Ctx.meetWord
  (try dsimp only)
  repeat' first | split | (with_reducible refine canon_foldl _ ?_ _ _ ?_) | (with_reducible refine canon_foldl1 _ ?_ _ _ ?_) | (with_reducible refine canon_foldl2 _ ?_ _ _ ?_) | (with_reducible refine loaded_foldl _ ?_ _ _ ?_) | (with_reducible refine steps_foldl _ ?_ _ _ ?_) | (with_reducible refine runWord_canon _ _ _ ?_ ?_) | (with_reducible refine crossWord_canon _ _ _ ?_ ?_) | (with_reducible refine issue_canon _ _ _ _ ?_ ?_ ?_) | (with_reducible refine access_canon _ _ _ _ ?_ ?_ ?_) | (with_reducible refine bufAccess_canon _ _ _ _ ?_ ?_ ?_) | (with_reducible refine canon_getD ?_ ?_) | (intro _ _ _; try dsimp only) | (intro _ _; try dsimp only) | (intro _; try dsimp only)
  all_goals try simp (maxDischargeDepth := 20) +contextual [*]
@[simp] theorem Ctx_setWord_canon (c : Ctx) (s : State) (l : Lane) (a : DWord) (ia : Nat) (x : Word) (hc : Canon c.s) (hs : Canon s) : Canon (Ctx.setWord c s l a ia x) := by
  unfold Ctx.setWord
  (try dsimp only)
  repeat' first | split | (with_reducible refine canon_foldl _ ?_ _ _ ?_) | (with_reducible refine canon_foldl1 _ ?_ _ _ ?_) | (with_reducible refine canon_foldl2 _ ?_ _ _ ?_) | (with_reducible refine loaded_foldl _ ?_ _ _ ?_) | (with_reducible refine steps_foldl _ ?_ _ _ ?_) | (with_reducible refine runWord_canon _ _ _ ?_ ?_) | (with_reducible refine crossWord_canon _ _ _ ?_ ?_) | (with_reducible refine issue_canon _ _ _ _ ?_ ?_ ?_) | (with_reducible refine access_canon _ _ _ _ ?_ ?_ ?_) | (with_reducible refine bufAccess_canon _ _ _ _ ?_ ?_ ?_) | (with_reducible refine canon_getD ?_ ?_) | (intro _ _ _; try dsimp only) | (intro _ _; try dsimp only) | (intro _; try dsimp only)
  all_goals try simp (maxDischargeDepth := 20) +contextual [*]
theorem grantSem_canon (c : Ctx) (l : Lane) (a : DWord) (ia n : Nat) (s : State) (hc : Canon c.s) (hs : Canon s) :
    Canon (grantSem c l a ia n s) := by
  induction n generalizing s with
  | zero => exact hs
  | succ n ih =>
    simp only [grantSem]
    split
    · exact hs
    · split
      · exact ih _ (by simp (maxDischargeDepth := 20) [hc, hs])
      · exact hs
@[simp] theorem grantAfter_canon (c : Ctx) (v : Lanes Verdict) (a : Lane → DWord) (m : Mask) (s : State) (hc : Canon c.s) (hs : Canon s) : Canon (grantAfter c v a m s) := by
  exact canon_foldl _ (fun t x ht => grantSem_canon _ _ _ _ _ _ hc ht) _ _ hs
@[simp] theorem semsigLane_canon (c : Ctx) (a : Lane → DWord) (x : Steps) (ia : Nat) (l : Lane) (hc : Canon c.s) (hx : Canon x.s) : StepC (semsigLane c a x ia l) := by
  unfold semsigLane
  (try dsimp only)
  repeat' first | split | (with_reducible refine canon_foldl _ ?_ _ _ ?_) | (with_reducible refine canon_foldl1 _ ?_ _ _ ?_) | (with_reducible refine canon_foldl2 _ ?_ _ _ ?_) | (with_reducible refine loaded_foldl _ ?_ _ _ ?_) | (with_reducible refine steps_foldl _ ?_ _ _ ?_) | (with_reducible refine runWord_canon _ _ _ ?_ ?_) | (with_reducible refine crossWord_canon _ _ _ ?_ ?_) | (with_reducible refine issue_canon _ _ _ _ ?_ ?_ ?_) | (with_reducible refine access_canon _ _ _ _ ?_ ?_ ?_) | (with_reducible refine bufAccess_canon _ _ _ _ ?_ ?_ ?_) | (with_reducible refine canon_getD ?_ ?_) | (intro _ _ _; try dsimp only) | (intro _ _; try dsimp only) | (intro _; try dsimp only)
  all_goals try simp (maxDischargeDepth := 20) +contextual [*]
@[simp] theorem semtakeLane_canon (c : Ctx) (a : Lane → DWord) (x : Steps) (ia : Nat) (l : Lane) (hc : Canon c.s) (hx : Canon x.s) : StepC (semtakeLane c a x ia l) := by
  unfold semtakeLane
  (try dsimp only)
  repeat' first | split | (with_reducible refine canon_foldl _ ?_ _ _ ?_) | (with_reducible refine canon_foldl1 _ ?_ _ _ ?_) | (with_reducible refine canon_foldl2 _ ?_ _ _ ?_) | (with_reducible refine loaded_foldl _ ?_ _ _ ?_) | (with_reducible refine steps_foldl _ ?_ _ _ ?_) | (with_reducible refine runWord_canon _ _ _ ?_ ?_) | (with_reducible refine crossWord_canon _ _ _ ?_ ?_) | (with_reducible refine issue_canon _ _ _ _ ?_ ?_ ?_) | (with_reducible refine access_canon _ _ _ _ ?_ ?_ ?_) | (with_reducible refine bufAccess_canon _ _ _ _ ?_ ?_ ?_) | (with_reducible refine canon_getD ?_ ?_) | (intro _ _ _; try dsimp only) | (intro _ _; try dsimp only) | (intro _; try dsimp only)
  all_goals try simp (maxDischargeDepth := 20) +contextual [*]
@[simp] theorem semwaitLane_canon (c : Ctx) (a : Lane → DWord) (x : Steps) (ia : Nat) (l : Lane) (hc : Canon c.s) (hx : Canon x.s) : StepC (semwaitLane c a x ia l) := by
  unfold semwaitLane
  (try dsimp only)
  repeat' first | split | (with_reducible refine canon_foldl _ ?_ _ _ ?_) | (with_reducible refine canon_foldl1 _ ?_ _ _ ?_) | (with_reducible refine canon_foldl2 _ ?_ _ _ ?_) | (with_reducible refine loaded_foldl _ ?_ _ _ ?_) | (with_reducible refine steps_foldl _ ?_ _ _ ?_) | (with_reducible refine runWord_canon _ _ _ ?_ ?_) | (with_reducible refine crossWord_canon _ _ _ ?_ ?_) | (with_reducible refine issue_canon _ _ _ _ ?_ ?_ ?_) | (with_reducible refine access_canon _ _ _ _ ?_ ?_ ?_) | (with_reducible refine bufAccess_canon _ _ _ _ ?_ ?_ ?_) | (with_reducible refine canon_getD ?_ ?_) | (intro _ _ _; try dsimp only) | (intro _ _; try dsimp only) | (intro _; try dsimp only)
  all_goals try simp (maxDischargeDepth := 20) +contextual [*]
theorem execSemsig_canon (e : Bool) (d a : Reg) (sc : Scope) (o : BitVec 4) (s : State) (hs : Canon s) : OutC (execSemsig e d a sc o s) := by
  refine issue_canon _ _ _ _ hs (fun c hc => scoutSkips_canon _ hc) (fun c hc => ?_)
  extract_lets v
  split
  · exact hc
  · exact stepsEnd_canon _ _ _ _ _ hc (fun t ht => grantAfter_canon _ _ _ _ _ hc ht) (stepLanes_canon _ _ _ _ _ hc (fun x n l hx => semsigLane_canon _ _ _ _ _ hc hx))
theorem execSemwait_canon (e : Bool) (d a : Reg) (sc : Scope) (o : BitVec 4) (s : State) (hs : Canon s) : OutC (execSemwait e d a sc o s) := by
  refine issue_canon _ _ _ _ hs (fun c hc => scoutEnds_canon _ hc) (fun c hc => ?_)
  extract_lets v
  split
  · exact hc
  · exact stepsEnd_canon _ _ _ _ _ hc (fun t ht => acquireAt_canon _ _ _ ht hc) (stepLanes_canon _ _ _ _ _ hc (fun x n l hx => semwaitLane_canon _ _ _ _ _ hc hx))
theorem execSemtake_canon (e : Bool) (d a : Reg) (sc : Scope) (o : BitVec 4) (s : State) (hs : Canon s) : OutC (execSemtake e d a sc o s) := by
  refine issue_canon _ _ _ _ hs (fun c hc => scoutSkips_canon _ hc) (fun c hc => ?_)
  extract_lets v
  split
  · exact hc
  · exact stepsEnd_canon _ _ _ _ _ hc (fun t ht => acquireAt_canon _ _ _ ht hc) (stepLanes_canon _ _ _ _ _ hc (fun x n l hx => semtakeLane_canon _ _ _ _ _ hc hx))
@[simp] theorem joinwLane_canon (c : Ctx) (x : Steps) (ia : Nat) (l : Lane) (hc : Canon c.s) (hx : Canon x.s) : StepC (joinwLane c x ia l) := by
  unfold joinwLane
  (try dsimp only)
  repeat' first | split | (with_reducible refine canon_foldl _ ?_ _ _ ?_) | (with_reducible refine canon_foldl1 _ ?_ _ _ ?_) | (with_reducible refine canon_foldl2 _ ?_ _ _ ?_) | (with_reducible refine loaded_foldl _ ?_ _ _ ?_) | (with_reducible refine steps_foldl _ ?_ _ _ ?_) | (with_reducible refine runWord_canon _ _ _ ?_ ?_) | (with_reducible refine crossWord_canon _ _ _ ?_ ?_) | (with_reducible refine issue_canon _ _ _ _ ?_ ?_ ?_) | (with_reducible refine access_canon _ _ _ _ ?_ ?_ ?_) | (with_reducible refine bufAccess_canon _ _ _ _ ?_ ?_ ?_) | (with_reducible refine canon_getD ?_ ?_) | (intro _ _ _; try dsimp only) | (intro _ _; try dsimp only) | (intro _; try dsimp only)
  all_goals try simp (maxDischargeDepth := 20) +contextual [*]
theorem execJoinw_canon (e : Bool) (d a : Reg) (o : BitVec 7) (s : State) (hs : Canon s) : OutC (execJoinw e d a o s) := by
  refine issue_canon _ _ _ _ hs (fun c hc => scoutEnds_canon _ hc) (fun c hc => ?_)
  extract_lets v
  split
  · exact hc
  · exact stepsEnd_canon _ _ _ _ _ hc (fun t ht => acquireAt_canon _ _ _ ht hc) (stepLanes_canon _ _ _ _ _ hc (fun x n l hx => joinwLane_canon _ _ _ _ hc hx))
@[simp] theorem arrive_canon (s : State) (c : Ctx) (m : Mask) (hs : Canon s) (hc : Canon c.s) : Canon (arrive s c m) := by
  unfold arrive
  (try dsimp only)
  repeat' first | split | (with_reducible refine canon_foldl _ ?_ _ _ ?_) | (with_reducible refine canon_foldl1 _ ?_ _ _ ?_) | (with_reducible refine canon_foldl2 _ ?_ _ _ ?_) | (with_reducible refine loaded_foldl _ ?_ _ _ ?_) | (with_reducible refine steps_foldl _ ?_ _ _ ?_) | (with_reducible refine runWord_canon _ _ _ ?_ ?_) | (with_reducible refine crossWord_canon _ _ _ ?_ ?_) | (with_reducible refine issue_canon _ _ _ _ ?_ ?_ ?_) | (with_reducible refine access_canon _ _ _ _ ?_ ?_ ?_) | (with_reducible refine bufAccess_canon _ _ _ _ ?_ ?_ ?_) | (with_reducible refine canon_getD ?_ ?_) | (intro _ _ _; try dsimp only) | (intro _ _; try dsimp only) | (intro _; try dsimp only)
  all_goals try simp (maxDischargeDepth := 20) +contextual [*]
theorem execBar_canon (e : Bool) (s : State) (hs : Canon s) : OutC (execBar e s) := by
  refine issue_canon _ _ _ _ hs (fun c hc => scoutEnds_canon _ hc) (fun c hc => ?_)
  extract_lets held sat s1
  have h1 : Canon s1 := canon_foldl _ (fun t l ht => by simp [ht]) _ _ hc
  split
  · simp [hc]
  · split
    · exact hc
    · exact arrive_canon _ _ _ h1 hc
@[simp] theorem suspendAll_canon (s : State) (wid : Nat) (m : Mask) (hs : Canon s) : Canon (suspendAll s wid m) := by
  unfold suspendAll
  (try dsimp only)
  repeat' first | split | (with_reducible refine canon_foldl _ ?_ _ _ ?_) | (with_reducible refine canon_foldl1 _ ?_ _ _ ?_) | (with_reducible refine canon_foldl2 _ ?_ _ _ ?_) | (with_reducible refine loaded_foldl _ ?_ _ _ ?_) | (with_reducible refine steps_foldl _ ?_ _ _ ?_) | (with_reducible refine runWord_canon _ _ _ ?_ ?_) | (with_reducible refine crossWord_canon _ _ _ ?_ ?_) | (with_reducible refine issue_canon _ _ _ _ ?_ ?_ ?_) | (with_reducible refine access_canon _ _ _ _ ?_ ?_ ?_) | (with_reducible refine bufAccess_canon _ _ _ _ ?_ ?_ ?_) | (with_reducible refine canon_getD ?_ ?_) | (intro _ _ _; try dsimp only) | (intro _ _; try dsimp only) | (intro _; try dsimp only)
  all_goals try simp (maxDischargeDepth := 20) +contextual [*]
@[simp] theorem cwaitLane_canon (c : Ctx) (x : Steps) (ia : Nat) (l : Lane) (hc : Canon c.s) (hx : Canon x.s) : StepC (cwaitLane c x ia l) := by
  unfold cwaitLane
  (try dsimp only)
  repeat' first | split | (with_reducible refine canon_foldl _ ?_ _ _ ?_) | (with_reducible refine canon_foldl1 _ ?_ _ _ ?_) | (with_reducible refine canon_foldl2 _ ?_ _ _ ?_) | (with_reducible refine loaded_foldl _ ?_ _ _ ?_) | (with_reducible refine steps_foldl _ ?_ _ _ ?_) | (with_reducible refine runWord_canon _ _ _ ?_ ?_) | (with_reducible refine crossWord_canon _ _ _ ?_ ?_) | (with_reducible refine issue_canon _ _ _ _ ?_ ?_ ?_) | (with_reducible refine access_canon _ _ _ _ ?_ ?_ ?_) | (with_reducible refine bufAccess_canon _ _ _ _ ?_ ?_ ?_) | (with_reducible refine canon_getD ?_ ?_) | (intro _ _ _; try dsimp only) | (intro _ _; try dsimp only) | (intro _; try dsimp only)
  all_goals try simp (maxDischargeDepth := 20) +contextual [*]
@[simp] theorem cwaitSteps_canon (c : Ctx) (v : Lanes Verdict) (a : Lane → DWord) (sat : Mask) (hc : Canon c.s) : ResC (cwaitSteps c v a sat) := by
  unfold cwaitSteps
  extract_lets x lost s1 s2
  have hx : Canon x.s := stepLanes_canon _ _ _ _ _ hc (fun x n l hx => cwaitLane_canon _ _ _ _ hc hx)
  have h1 : Canon s1 := by
    refine canon_foldl _ (fun t l ht => by simp [ht]) _ _ ?_
    split <;> simp [hx, hc]
  have h2 : Canon s2 := (modWave_canon _ _ _).2 h1
  simp [h2]

@[simp] theorem cwaitBody_canon (c : Ctx) (off : Int) (hc : Canon c.s) : ResC (cwaitBody c off) := by
  unfold cwaitBody
  extract_lets sat v again
  split
  · simp [hc]
  · next d s1 _ _ _ =>
    exact (resC_trap _ _).2 (countTrap_canon _ _ _ (canon_foldl _ (fun t l ht => by simp [ht]) _ _ (by split <;> simp [hc])))
  · repeat' split
    all_goals first | exact hc | exact cwaitSteps_canon _ _ _ _ hc | exact suspendAll_canon _ _ _ hc | exact askColours_canon c (acquireAt c.s c .dev) again hc (acquireAt_canon _ _ _ hc hc)

theorem execCwait_canon (e : Bool) (d a : Reg) (o : BitVec 7) (s : State) (hs : Canon s) : OutC (execCwait e d a o s) := by
  exact issue_canon _ _ _ _ hs (fun c hc => scoutEnds_canon _ hc) (fun c hc => cwaitBody_canon _ _ hc)
@[simp] theorem wakeConditions_canon (s : State) (ia n : Nat) (hs : Canon s) : Canon (wakeConditions s ia n) := by
  unfold wakeConditions
  (try dsimp only)
  repeat' first | split | (with_reducible refine canon_foldl _ ?_ _ _ ?_) | (with_reducible refine canon_foldl1 _ ?_ _ _ ?_) | (with_reducible refine canon_foldl2 _ ?_ _ _ ?_) | (with_reducible refine loaded_foldl _ ?_ _ _ ?_) | (with_reducible refine steps_foldl _ ?_ _ _ ?_) | (with_reducible refine runWord_canon _ _ _ ?_ ?_) | (with_reducible refine crossWord_canon _ _ _ ?_ ?_) | (with_reducible refine issue_canon _ _ _ _ ?_ ?_ ?_) | (with_reducible refine access_canon _ _ _ _ ?_ ?_ ?_) | (with_reducible refine bufAccess_canon _ _ _ _ ?_ ?_ ?_) | (with_reducible refine canon_getD ?_ ?_) | (intro _ _ _; try dsimp only) | (intro _ _; try dsimp only) | (intro _; try dsimp only)
  all_goals try simp (maxDischargeDepth := 20) +contextual [*]
@[simp] theorem csigLane_canon (c : Ctx) (a : Lane → DWord) (x : Steps) (ia : Nat) (l : Lane) (hc : Canon c.s) (hx : Canon x.s) : StepC (csigLane c a x ia l) := by
  unfold csigLane
  (try dsimp only)
  repeat' first | split | (with_reducible refine canon_foldl _ ?_ _ _ ?_) | (with_reducible refine canon_foldl1 _ ?_ _ _ ?_) | (with_reducible refine canon_foldl2 _ ?_ _ _ ?_) | (with_reducible refine loaded_foldl _ ?_ _ _ ?_) | (with_reducible refine steps_foldl _ ?_ _ _ ?_) | (with_reducible refine runWord_canon _ _ _ ?_ ?_) | (with_reducible refine crossWord_canon _ _ _ ?_ ?_) | (with_reducible refine issue_canon _ _ _ _ ?_ ?_ ?_) | (with_reducible refine access_canon _ _ _ _ ?_ ?_ ?_) | (with_reducible refine bufAccess_canon _ _ _ _ ?_ ?_ ?_) | (with_reducible refine canon_getD ?_ ?_) | (intro _ _ _; try dsimp only) | (intro _ _; try dsimp only) | (intro _; try dsimp only)
  all_goals try simp (maxDischargeDepth := 20) +contextual [*]
theorem execCsig_canon (e : Bool) (d a : Reg) (o : BitVec 7) (s : State) (hs : Canon s) : OutC (execCsig e d a o s) := by
  refine issue_canon _ _ _ _ hs (fun c hc => scoutSkips_canon _ hc) (fun c hc => ?_)
  extract_lets v
  split
  · exact hc
  · exact stepsEnd_canon _ _ _ _ _ hc (fun t ht => ht) (stepLanes_canon _ _ _ _ _ hc (fun x n l hx => csigLane_canon _ _ _ _ _ hc hx))
@[simp] theorem spawnLane_canon (c : Ctx) (n : Nat) (v : Lanes Verdict) (x : State × Mask) (l : Lane) (hc : Canon c.s) (hx : Canon x.1) : Canon (spawnLane c n v x l).1 := by
  unfold spawnLane
  (try dsimp only)
  repeat' first | split | (with_reducible refine canon_foldl _ ?_ _ _ ?_) | (with_reducible refine canon_foldl1 _ ?_ _ _ ?_) | (with_reducible refine canon_foldl2 _ ?_ _ _ ?_) | (with_reducible refine loaded_foldl _ ?_ _ _ ?_) | (with_reducible refine steps_foldl _ ?_ _ _ ?_) | (with_reducible refine runWord_canon _ _ _ ?_ ?_) | (with_reducible refine crossWord_canon _ _ _ ?_ ?_) | (with_reducible refine issue_canon _ _ _ _ ?_ ?_ ?_) | (with_reducible refine access_canon _ _ _ _ ?_ ?_ ?_) | (with_reducible refine bufAccess_canon _ _ _ _ ?_ ?_ ?_) | (with_reducible refine canon_getD ?_ ?_) | (intro _ _ _; try dsimp only) | (intro _ _; try dsimp only) | (intro _; try dsimp only)
  all_goals try simp (maxDischargeDepth := 20) +contextual [*]
@[simp] theorem spawnBody_canon (c : Ctx) (n : Nat) (p : Pred) (hc : Canon c.s) : ResC (spawnBody c n p) := by
  unfold spawnBody
  extract_lets v
  refine accessWhole_canon _ _ _ hc ?_
  split
  · exact hc
  · have hx : Canon (c.exec.lanes.foldl (spawnLane c n v) (c.s, 0)).1 :=
      canon_foldl1 _ (fun t l ht => spawnLane_canon _ _ _ _ _ hc ht) _ _ hc
    exact Ctx_done_canon _ _ hc (writePred_canon _ _ _ _ _ hx)
theorem execSpawn_canon (e : Bool) (n : BitVec 5) (k : Fin 4) (j t : Reg) (p : Fin 8) (s : State) (hs : Canon s) : OutC (execSpawn e n k j t p s) := by
  exact issue_canon _ _ _ _ hs (fun c hc => scoutSkips_canon _ hc) (fun c hc => spawnBody_canon _ _ _ hc)
@[simp] theorem enqtLane_canon (c : Ctx) (x : Steps) (ia : Nat) (l : Lane) (hc : Canon c.s) (hx : Canon x.s) : StepC (enqtLane c x ia l) := by
  unfold enqtLane
  (try dsimp only)
  repeat' first | split | (with_reducible refine canon_foldl _ ?_ _ _ ?_) | (with_reducible refine canon_foldl1 _ ?_ _ _ ?_) | (with_reducible refine canon_foldl2 _ ?_ _ _ ?_) | (with_reducible refine loaded_foldl _ ?_ _ _ ?_) | (with_reducible refine steps_foldl _ ?_ _ _ ?_) | (with_reducible refine runWord_canon _ _ _ ?_ ?_) | (with_reducible refine crossWord_canon _ _ _ ?_ ?_) | (with_reducible refine issue_canon _ _ _ _ ?_ ?_ ?_) | (with_reducible refine access_canon _ _ _ _ ?_ ?_ ?_) | (with_reducible refine bufAccess_canon _ _ _ _ ?_ ?_ ?_) | (with_reducible refine canon_getD ?_ ?_) | (intro _ _ _; try dsimp only) | (intro _ _; try dsimp only) | (intro _; try dsimp only)
  all_goals try simp (maxDischargeDepth := 20) +contextual [*]
@[simp] theorem enqtBody_canon (c : Ctx) (off : Int) (hc : Canon c.s) : ResC (enqtBody c off) := by
  unfold enqtBody
  extract_lets v x
  have hx : Canon x.s := stepLanes_canon _ _ _ _ _ hc (fun x n l hx => enqtLane_canon _ _ _ _ hc hx)
  split
  · exact hc
  · split
    · exact hc
    · exact stepsEnd_canon _ _ _ _ _ hc (fun t ht => ht) hx
theorem execEnqt_canon (e : Bool) (d a : Reg) (o : BitVec 7) (s : State) (hs : Canon s) : OutC (execEnqt e d a o s) := by
  unfold execEnqt
  (try dsimp only)
  repeat' first | split | (with_reducible refine canon_foldl _ ?_ _ _ ?_) | (with_reducible refine canon_foldl1 _ ?_ _ _ ?_) | (with_reducible refine canon_foldl2 _ ?_ _ _ ?_) | (with_reducible refine loaded_foldl _ ?_ _ _ ?_) | (with_reducible refine steps_foldl _ ?_ _ _ ?_) | (with_reducible refine runWord_canon _ _ _ ?_ ?_) | (with_reducible refine crossWord_canon _ _ _ ?_ ?_) | (with_reducible refine issue_canon _ _ _ _ ?_ ?_ ?_) | (with_reducible refine access_canon _ _ _ _ ?_ ?_ ?_) | (with_reducible refine bufAccess_canon _ _ _ _ ?_ ?_ ?_) | (with_reducible refine canon_getD ?_ ?_) | (intro _ _ _; try dsimp only) | (intro _ _; try dsimp only) | (intro _; try dsimp only)
  all_goals try simp (maxDischargeDepth := 20) +contextual [*]

/-! ### System -/

@[simp] theorem srdBody_canon (i : Nat) (c : Ctx) (hc : Canon c.s) : ResC (srdBody i c) := by
  unfold srdBody
  (try dsimp only)
  repeat' first | split | (with_reducible refine canon_foldl _ ?_ _ _ ?_) | (with_reducible refine canon_foldl1 _ ?_ _ _ ?_) | (with_reducible refine canon_foldl2 _ ?_ _ _ ?_) | (with_reducible refine loaded_foldl _ ?_ _ _ ?_) | (with_reducible refine steps_foldl _ ?_ _ _ ?_) | (with_reducible refine runWord_canon _ _ _ ?_ ?_) | (with_reducible refine crossWord_canon _ _ _ ?_ ?_) | (with_reducible refine issue_canon _ _ _ _ ?_ ?_ ?_) | (with_reducible refine access_canon _ _ _ _ ?_ ?_ ?_) | (with_reducible refine bufAccess_canon _ _ _ _ ?_ ?_ ?_) | (with_reducible refine canon_getD ?_ ?_) | (intro _ _ _; try dsimp only) | (intro _ _; try dsimp only) | (intro _; try dsimp only)
  all_goals try simp (maxDischargeDepth := 20) +contextual [*]
theorem execSrd_canon (e k : Bool) (d : Reg) (i : BitVec 8) (s : State) (hs : Canon s) : OutC (execSrd e k d i s) := by
  unfold execSrd
  (try dsimp only)
  repeat' first | split | (with_reducible refine canon_foldl _ ?_ _ _ ?_) | (with_reducible refine canon_foldl1 _ ?_ _ _ ?_) | (with_reducible refine canon_foldl2 _ ?_ _ _ ?_) | (with_reducible refine loaded_foldl _ ?_ _ _ ?_) | (with_reducible refine steps_foldl _ ?_ _ _ ?_) | (with_reducible refine runWord_canon _ _ _ ?_ ?_) | (with_reducible refine crossWord_canon _ _ _ ?_ ?_) | (with_reducible refine issue_canon _ _ _ _ ?_ ?_ ?_) | (with_reducible refine access_canon _ _ _ _ ?_ ?_ ?_) | (with_reducible refine bufAccess_canon _ _ _ _ ?_ ?_ ?_) | (with_reducible refine canon_getD ?_ ?_) | (intro _ _ _; try dsimp only) | (intro _ _; try dsimp only) | (intro _; try dsimp only)
  all_goals try simp (maxDischargeDepth := 20) +contextual [*]
@[simp] theorem swrBody_canon (c : Ctx) (i : Nat) (hc : Canon c.s) : ResC (swrBody c i) := by
  unfold swrBody
  (try dsimp only)
  repeat' first | split | (with_reducible refine canon_foldl _ ?_ _ _ ?_) | (with_reducible refine canon_foldl1 _ ?_ _ _ ?_) | (with_reducible refine canon_foldl2 _ ?_ _ _ ?_) | (with_reducible refine loaded_foldl _ ?_ _ _ ?_) | (with_reducible refine steps_foldl _ ?_ _ _ ?_) | (with_reducible refine runWord_canon _ _ _ ?_ ?_) | (with_reducible refine crossWord_canon _ _ _ ?_ ?_) | (with_reducible refine issue_canon _ _ _ _ ?_ ?_ ?_) | (with_reducible refine access_canon _ _ _ _ ?_ ?_ ?_) | (with_reducible refine bufAccess_canon _ _ _ _ ?_ ?_ ?_) | (with_reducible refine canon_getD ?_ ?_) | (intro _ _ _; try dsimp only) | (intro _ _; try dsimp only) | (intro _; try dsimp only)
  all_goals try simp (maxDischargeDepth := 20) +contextual [*]
theorem execSwr_canon (e : Bool) (u : Reg) (i : BitVec 8) (s : State) (hs : Canon s) : OutC (execSwr e u i s) := by
  unfold execSwr
  (try dsimp only)
  repeat' first | split | (with_reducible refine canon_foldl _ ?_ _ _ ?_) | (with_reducible refine canon_foldl1 _ ?_ _ _ ?_) | (with_reducible refine canon_foldl2 _ ?_ _ _ ?_) | (with_reducible refine loaded_foldl _ ?_ _ _ ?_) | (with_reducible refine steps_foldl _ ?_ _ _ ?_) | (with_reducible refine runWord_canon _ _ _ ?_ ?_) | (with_reducible refine crossWord_canon _ _ _ ?_ ?_) | (with_reducible refine issue_canon _ _ _ _ ?_ ?_ ?_) | (with_reducible refine access_canon _ _ _ _ ?_ ?_ ?_) | (with_reducible refine bufAccess_canon _ _ _ _ ?_ ?_ ?_) | (with_reducible refine canon_getD ?_ ?_) | (intro _ _ _; try dsimp only) | (intro _ _; try dsimp only) | (intro _; try dsimp only)
  all_goals try simp (maxDischargeDepth := 20) +contextual [*]
@[simp] theorem codeTrap_canon (c : Ctx) (t : Trap) (code : BitVec 14) (hc : Canon c.s) : ResC (codeTrap c t code) := by
  unfold codeTrap
  (try dsimp only)
  repeat' first | split | (with_reducible refine canon_foldl _ ?_ _ _ ?_) | (with_reducible refine canon_foldl1 _ ?_ _ _ ?_) | (with_reducible refine canon_foldl2 _ ?_ _ _ ?_) | (with_reducible refine loaded_foldl _ ?_ _ _ ?_) | (with_reducible refine steps_foldl _ ?_ _ _ ?_) | (with_reducible refine runWord_canon _ _ _ ?_ ?_) | (with_reducible refine crossWord_canon _ _ _ ?_ ?_) | (with_reducible refine issue_canon _ _ _ _ ?_ ?_ ?_) | (with_reducible refine access_canon _ _ _ _ ?_ ?_ ?_) | (with_reducible refine bufAccess_canon _ _ _ _ ?_ ?_ ?_) | (with_reducible refine canon_getD ?_ ?_) | (intro _ _ _; try dsimp only) | (intro _ _; try dsimp only) | (intro _; try dsimp only)
  all_goals try simp (maxDischargeDepth := 20) +contextual [*]
theorem execTrap_canon (e : Bool) (k : BitVec 14) (s : State) (hs : Canon s) : OutC (execTrap e k s) := by
  unfold execTrap
  (try dsimp only)
  repeat' first | split | (with_reducible refine canon_foldl _ ?_ _ _ ?_) | (with_reducible refine canon_foldl1 _ ?_ _ _ ?_) | (with_reducible refine canon_foldl2 _ ?_ _ _ ?_) | (with_reducible refine loaded_foldl _ ?_ _ _ ?_) | (with_reducible refine steps_foldl _ ?_ _ _ ?_) | (with_reducible refine runWord_canon _ _ _ ?_ ?_) | (with_reducible refine crossWord_canon _ _ _ ?_ ?_) | (with_reducible refine issue_canon _ _ _ _ ?_ ?_ ?_) | (with_reducible refine access_canon _ _ _ _ ?_ ?_ ?_) | (with_reducible refine bufAccess_canon _ _ _ _ ?_ ?_ ?_) | (with_reducible refine canon_getD ?_ ?_) | (intro _ _ _; try dsimp only) | (intro _ _; try dsimp only) | (intro _; try dsimp only)
  all_goals try simp (maxDischargeDepth := 20) +contextual [*]
@[simp] theorem interceptWave_canon (c : Ctx) (hc : Canon c.s) : ResC (interceptWave c) := by
  unfold interceptWave
  (try dsimp only)
  repeat' first | split | (with_reducible refine canon_foldl _ ?_ _ _ ?_) | (with_reducible refine canon_foldl1 _ ?_ _ _ ?_) | (with_reducible refine canon_foldl2 _ ?_ _ _ ?_) | (with_reducible refine loaded_foldl _ ?_ _ _ ?_) | (with_reducible refine steps_foldl _ ?_ _ _ ?_) | (with_reducible refine runWord_canon _ _ _ ?_ ?_) | (with_reducible refine crossWord_canon _ _ _ ?_ ?_) | (with_reducible refine issue_canon _ _ _ _ ?_ ?_ ?_) | (with_reducible refine access_canon _ _ _ _ ?_ ?_ ?_) | (with_reducible refine bufAccess_canon _ _ _ _ ?_ ?_ ?_) | (with_reducible refine canon_getD ?_ ?_) | (intro _ _ _; try dsimp only) | (intro _ _; try dsimp only) | (intro _; try dsimp only)
  all_goals try simp (maxDischargeDepth := 20) +contextual [*]
theorem execBkpt_canon (e : Bool) (k : BitVec 14) (s : State) (hs : Canon s) : OutC (execBkpt e k s) := by
  unfold execBkpt
  (try dsimp only)
  repeat' first | split | (with_reducible refine canon_foldl _ ?_ _ _ ?_) | (with_reducible refine canon_foldl1 _ ?_ _ _ ?_) | (with_reducible refine canon_foldl2 _ ?_ _ _ ?_) | (with_reducible refine loaded_foldl _ ?_ _ _ ?_) | (with_reducible refine steps_foldl _ ?_ _ _ ?_) | (with_reducible refine runWord_canon _ _ _ ?_ ?_) | (with_reducible refine crossWord_canon _ _ _ ?_ ?_) | (with_reducible refine issue_canon _ _ _ _ ?_ ?_ ?_) | (with_reducible refine access_canon _ _ _ _ ?_ ?_ ?_) | (with_reducible refine bufAccess_canon _ _ _ _ ?_ ?_ ?_) | (with_reducible refine canon_getD ?_ ?_) | (intro _ _ _; try dsimp only) | (intro _ _; try dsimp only) | (intro _; try dsimp only)
  all_goals try simp (maxDischargeDepth := 20) +contextual [*]
@[simp] theorem rteBody_canon (c : Ctx) (hc : Canon c.s) : ResC (rteBody c) := by
  unfold rteBody
  (try dsimp only)
  repeat' first | split | (with_reducible refine canon_foldl _ ?_ _ _ ?_) | (with_reducible refine canon_foldl1 _ ?_ _ _ ?_) | (with_reducible refine canon_foldl2 _ ?_ _ _ ?_) | (with_reducible refine loaded_foldl _ ?_ _ _ ?_) | (with_reducible refine steps_foldl _ ?_ _ _ ?_) | (with_reducible refine runWord_canon _ _ _ ?_ ?_) | (with_reducible refine crossWord_canon _ _ _ ?_ ?_) | (with_reducible refine issue_canon _ _ _ _ ?_ ?_ ?_) | (with_reducible refine access_canon _ _ _ _ ?_ ?_ ?_) | (with_reducible refine bufAccess_canon _ _ _ _ ?_ ?_ ?_) | (with_reducible refine canon_getD ?_ ?_) | (intro _ _ _; try dsimp only) | (intro _ _; try dsimp only) | (intro _; try dsimp only)
  all_goals try simp (maxDischargeDepth := 20) +contextual [*]
theorem execRte_canon (e : Bool) (s : State) (hs : Canon s) : OutC (execRte e s) := by
  unfold execRte
  (try dsimp only)
  repeat' first | split | (with_reducible refine canon_foldl _ ?_ _ _ ?_) | (with_reducible refine canon_foldl1 _ ?_ _ _ ?_) | (with_reducible refine canon_foldl2 _ ?_ _ _ ?_) | (with_reducible refine loaded_foldl _ ?_ _ _ ?_) | (with_reducible refine steps_foldl _ ?_ _ _ ?_) | (with_reducible refine runWord_canon _ _ _ ?_ ?_) | (with_reducible refine crossWord_canon _ _ _ ?_ ?_) | (with_reducible refine issue_canon _ _ _ _ ?_ ?_ ?_) | (with_reducible refine access_canon _ _ _ _ ?_ ?_ ?_) | (with_reducible refine bufAccess_canon _ _ _ _ ?_ ?_ ?_) | (with_reducible refine canon_getD ?_ ?_) | (intro _ _ _; try dsimp only) | (intro _ _; try dsimp only) | (intro _; try dsimp only)
  all_goals try simp (maxDischargeDepth := 20) +contextual [*]
@[simp] theorem stepBody_canon (c : Ctx) (hc : Canon c.s) : ResC (stepBody c) := by
  unfold stepBody
  (try dsimp only)
  repeat' first | split | (with_reducible refine canon_foldl _ ?_ _ _ ?_) | (with_reducible refine canon_foldl1 _ ?_ _ _ ?_) | (with_reducible refine canon_foldl2 _ ?_ _ _ ?_) | (with_reducible refine loaded_foldl _ ?_ _ _ ?_) | (with_reducible refine steps_foldl _ ?_ _ _ ?_) | (with_reducible refine runWord_canon _ _ _ ?_ ?_) | (with_reducible refine crossWord_canon _ _ _ ?_ ?_) | (with_reducible refine issue_canon _ _ _ _ ?_ ?_ ?_) | (with_reducible refine access_canon _ _ _ _ ?_ ?_ ?_) | (with_reducible refine bufAccess_canon _ _ _ _ ?_ ?_ ?_) | (with_reducible refine canon_getD ?_ ?_) | (intro _ _ _; try dsimp only) | (intro _ _; try dsimp only) | (intro _; try dsimp only)
  all_goals try simp (maxDischargeDepth := 20) +contextual [*]
theorem execStep_canon (e : Bool) (a : Reg) (s : State) (hs : Canon s) : OutC (execStep e a s) := by
  unfold execStep
  (try dsimp only)
  repeat' first | split | (with_reducible refine canon_foldl _ ?_ _ _ ?_) | (with_reducible refine canon_foldl1 _ ?_ _ _ ?_) | (with_reducible refine canon_foldl2 _ ?_ _ _ ?_) | (with_reducible refine loaded_foldl _ ?_ _ _ ?_) | (with_reducible refine steps_foldl _ ?_ _ _ ?_) | (with_reducible refine runWord_canon _ _ _ ?_ ?_) | (with_reducible refine crossWord_canon _ _ _ ?_ ?_) | (with_reducible refine issue_canon _ _ _ _ ?_ ?_ ?_) | (with_reducible refine access_canon _ _ _ _ ?_ ?_ ?_) | (with_reducible refine bufAccess_canon _ _ _ _ ?_ ?_ ?_) | (with_reducible refine canon_getD ?_ ?_) | (intro _ _ _; try dsimp only) | (intro _ _; try dsimp only) | (intro _; try dsimp only)
  all_goals try simp (maxDischargeDepth := 20) +contextual [*]
@[simp] theorem markRecord_canon (c : Ctx) (k : BitVec 14) (hc : Canon c.s) : Canon (markRecord c k) := by
  unfold markRecord
  (try dsimp only)
  repeat' first | split | (with_reducible refine canon_foldl _ ?_ _ _ ?_) | (with_reducible refine canon_foldl1 _ ?_ _ _ ?_) | (with_reducible refine canon_foldl2 _ ?_ _ _ ?_) | (with_reducible refine loaded_foldl _ ?_ _ _ ?_) | (with_reducible refine steps_foldl _ ?_ _ _ ?_) | (with_reducible refine runWord_canon _ _ _ ?_ ?_) | (with_reducible refine crossWord_canon _ _ _ ?_ ?_) | (with_reducible refine issue_canon _ _ _ _ ?_ ?_ ?_) | (with_reducible refine access_canon _ _ _ _ ?_ ?_ ?_) | (with_reducible refine bufAccess_canon _ _ _ _ ?_ ?_ ?_) | (with_reducible refine canon_getD ?_ ?_) | (intro _ _ _; try dsimp only) | (intro _ _; try dsimp only) | (intro _; try dsimp only)
  all_goals try simp (maxDischargeDepth := 20) +contextual [*]
@[simp] theorem markBody_canon (c : Ctx) (f : Bool) (k : BitVec 14) (hc : Canon c.s) : ResC (markBody c f k) := by
  unfold markBody
  (try dsimp only)
  repeat' first | split | (with_reducible refine canon_foldl _ ?_ _ _ ?_) | (with_reducible refine canon_foldl1 _ ?_ _ _ ?_) | (with_reducible refine canon_foldl2 _ ?_ _ _ ?_) | (with_reducible refine loaded_foldl _ ?_ _ _ ?_) | (with_reducible refine steps_foldl _ ?_ _ _ ?_) | (with_reducible refine runWord_canon _ _ _ ?_ ?_) | (with_reducible refine crossWord_canon _ _ _ ?_ ?_) | (with_reducible refine issue_canon _ _ _ _ ?_ ?_ ?_) | (with_reducible refine access_canon _ _ _ _ ?_ ?_ ?_) | (with_reducible refine bufAccess_canon _ _ _ _ ?_ ?_ ?_) | (with_reducible refine canon_getD ?_ ?_) | (intro _ _ _; try dsimp only) | (intro _ _; try dsimp only) | (intro _; try dsimp only)
  all_goals try simp (maxDischargeDepth := 20) +contextual [*]
theorem execMark_canon (e f : Bool) (k : BitVec 14) (s : State) (hs : Canon s) : OutC (execMark e f k s) := by
  unfold execMark
  (try dsimp only)
  repeat' first | split | (with_reducible refine canon_foldl _ ?_ _ _ ?_) | (with_reducible refine canon_foldl1 _ ?_ _ _ ?_) | (with_reducible refine canon_foldl2 _ ?_ _ _ ?_) | (with_reducible refine loaded_foldl _ ?_ _ _ ?_) | (with_reducible refine steps_foldl _ ?_ _ _ ?_) | (with_reducible refine runWord_canon _ _ _ ?_ ?_) | (with_reducible refine crossWord_canon _ _ _ ?_ ?_) | (with_reducible refine issue_canon _ _ _ _ ?_ ?_ ?_) | (with_reducible refine access_canon _ _ _ _ ?_ ?_ ?_) | (with_reducible refine bufAccess_canon _ _ _ _ ?_ ?_ ?_) | (with_reducible refine canon_getD ?_ ?_) | (intro _ _ _; try dsimp only) | (intro _ _; try dsimp only) | (intro _; try dsimp only)
  all_goals try simp (maxDischargeDepth := 20) +contextual [*]
@[simp] theorem pcntBody_canon (c : Ctx) (n : Nat) (hc : Canon c.s) : ResC (pcntBody c n) := by
  unfold pcntBody
  have hx : Canon (freeIx c.s).2 := hc
  dsimp only
  repeat' split
  all_goals first | exact Ctx_write_canon _ _ _ hx | exact Ctx_write_canon _ _ _ hc
theorem execPcnt_canon (e k : Bool) (d : Reg) (n : BitVec 14) (s : State) (hs : Canon s) : OutC (execPcnt e k d n s) := by
  unfold execPcnt
  (try dsimp only)
  repeat' first | split | (with_reducible refine canon_foldl _ ?_ _ _ ?_) | (with_reducible refine canon_foldl1 _ ?_ _ _ ?_) | (with_reducible refine canon_foldl2 _ ?_ _ _ ?_) | (with_reducible refine loaded_foldl _ ?_ _ _ ?_) | (with_reducible refine steps_foldl _ ?_ _ _ ?_) | (with_reducible refine runWord_canon _ _ _ ?_ ?_) | (with_reducible refine crossWord_canon _ _ _ ?_ ?_) | (with_reducible refine issue_canon _ _ _ _ ?_ ?_ ?_) | (with_reducible refine access_canon _ _ _ _ ?_ ?_ ?_) | (with_reducible refine bufAccess_canon _ _ _ _ ?_ ?_ ?_) | (with_reducible refine canon_getD ?_ ?_) | (intro _ _ _; try dsimp only) | (intro _ _; try dsimp only) | (intro _; try dsimp only)
  all_goals try simp (maxDischargeDepth := 20) +contextual [*]
@[simp] theorem putSlots_canon (c : Ctx) (sc : WScope) (l : List (Option WatchSlot)) (hc : Canon c.s) : Canon (putSlots c sc l) := by
  unfold putSlots
  (try dsimp only)
  repeat' first | split | (with_reducible refine canon_foldl _ ?_ _ _ ?_) | (with_reducible refine canon_foldl1 _ ?_ _ _ ?_) | (with_reducible refine canon_foldl2 _ ?_ _ _ ?_) | (with_reducible refine loaded_foldl _ ?_ _ _ ?_) | (with_reducible refine steps_foldl _ ?_ _ _ ?_) | (with_reducible refine runWord_canon _ _ _ ?_ ?_) | (with_reducible refine crossWord_canon _ _ _ ?_ ?_) | (with_reducible refine issue_canon _ _ _ _ ?_ ?_ ?_) | (with_reducible refine access_canon _ _ _ _ ?_ ?_ ?_) | (with_reducible refine bufAccess_canon _ _ _ _ ?_ ?_ ?_) | (with_reducible refine canon_getD ?_ ?_) | (intro _ _ _; try dsimp only) | (intro _ _; try dsimp only) | (intro _; try dsimp only)
  all_goals try simp (maxDischargeDepth := 20) +contextual [*]
@[simp] theorem wsetBody_canon (c : Ctx) (sc : WScope) (k : Nat) (hc : Canon c.s) : ResC (wsetBody c sc k) := by
  unfold wsetBody
  (try dsimp only)
  repeat' first | split | (with_reducible refine canon_foldl _ ?_ _ _ ?_) | (with_reducible refine canon_foldl1 _ ?_ _ _ ?_) | (with_reducible refine canon_foldl2 _ ?_ _ _ ?_) | (with_reducible refine loaded_foldl _ ?_ _ _ ?_) | (with_reducible refine steps_foldl _ ?_ _ _ ?_) | (with_reducible refine runWord_canon _ _ _ ?_ ?_) | (with_reducible refine crossWord_canon _ _ _ ?_ ?_) | (with_reducible refine issue_canon _ _ _ _ ?_ ?_ ?_) | (with_reducible refine access_canon _ _ _ _ ?_ ?_ ?_) | (with_reducible refine bufAccess_canon _ _ _ _ ?_ ?_ ?_) | (with_reducible refine canon_getD ?_ ?_) | (intro _ _ _; try dsimp only) | (intro _ _; try dsimp only) | (intro _; try dsimp only)
  all_goals try simp (maxDischargeDepth := 20) +contextual [*]
theorem execWset_canon (e : Bool) (sc : WScope) (l : BitVec 5) (a x : Reg) (s : State) (hs : Canon s) : OutC (execWset e sc l a x s) := by
  unfold execWset
  (try dsimp only)
  repeat' first | split | (with_reducible refine canon_foldl _ ?_ _ _ ?_) | (with_reducible refine canon_foldl1 _ ?_ _ _ ?_) | (with_reducible refine canon_foldl2 _ ?_ _ _ ?_) | (with_reducible refine loaded_foldl _ ?_ _ _ ?_) | (with_reducible refine steps_foldl _ ?_ _ _ ?_) | (with_reducible refine runWord_canon _ _ _ ?_ ?_) | (with_reducible refine crossWord_canon _ _ _ ?_ ?_) | (with_reducible refine issue_canon _ _ _ _ ?_ ?_ ?_) | (with_reducible refine access_canon _ _ _ _ ?_ ?_ ?_) | (with_reducible refine bufAccess_canon _ _ _ _ ?_ ?_ ?_) | (with_reducible refine canon_getD ?_ ?_) | (intro _ _ _; try dsimp only) | (intro _ _; try dsimp only) | (intro _; try dsimp only)
  all_goals try simp (maxDischargeDepth := 20) +contextual [*]
theorem execWclr_canon (e : Bool) (sc : WScope) (l : BitVec 5) (s : State) (hs : Canon s) : OutC (execWclr e sc l s) := by
  unfold execWclr
  (try dsimp only)
  repeat' first | split | (with_reducible refine canon_foldl _ ?_ _ _ ?_) | (with_reducible refine canon_foldl1 _ ?_ _ _ ?_) | (with_reducible refine canon_foldl2 _ ?_ _ _ ?_) | (with_reducible refine loaded_foldl _ ?_ _ _ ?_) | (with_reducible refine steps_foldl _ ?_ _ _ ?_) | (with_reducible refine runWord_canon _ _ _ ?_ ?_) | (with_reducible refine crossWord_canon _ _ _ ?_ ?_) | (with_reducible refine issue_canon _ _ _ _ ?_ ?_ ?_) | (with_reducible refine access_canon _ _ _ _ ?_ ?_ ?_) | (with_reducible refine bufAccess_canon _ _ _ _ ?_ ?_ ?_) | (with_reducible refine canon_getD ?_ ?_) | (intro _ _ _; try dsimp only) | (intro _ _; try dsimp only) | (intro _; try dsimp only)
  all_goals try simp (maxDischargeDepth := 20) +contextual [*]

/-! ### Runs -/

@[simp] theorem takeSlot_canon (s : State) (w : Wave) (slot : Nat) (hs : Canon s) : Canon (takeSlot s w slot) := by
  unfold takeSlot
  (try dsimp only)
  repeat' first | split | (with_reducible refine canon_foldl _ ?_ _ _ ?_) | (with_reducible refine canon_foldl1 _ ?_ _ _ ?_) | (with_reducible refine canon_foldl2 _ ?_ _ _ ?_) | (with_reducible refine loaded_foldl _ ?_ _ _ ?_) | (with_reducible refine steps_foldl _ ?_ _ _ ?_) | (with_reducible refine runWord_canon _ _ _ ?_ ?_) | (with_reducible refine crossWord_canon _ _ _ ?_ ?_) | (with_reducible refine issue_canon _ _ _ _ ?_ ?_ ?_) | (with_reducible refine access_canon _ _ _ _ ?_ ?_ ?_) | (with_reducible refine bufAccess_canon _ _ _ _ ?_ ?_ ?_) | (with_reducible refine canon_getD ?_ ?_) | (intro _ _ _; try dsimp only) | (intro _ _; try dsimp only) | (intro _; try dsimp only)
  all_goals try simp (maxDischargeDepth := 20) +contextual [*]
@[simp] theorem slotTurn_canon (s : State) (die core quad slot : Nat) (hs : Canon s) : Canon (slotTurn s die core quad slot) := by
  unfold slotTurn
  (try dsimp only)
  repeat' first | split | (with_reducible refine canon_foldl _ ?_ _ _ ?_) | (with_reducible refine canon_foldl1 _ ?_ _ _ ?_) | (with_reducible refine canon_foldl2 _ ?_ _ _ ?_) | (with_reducible refine loaded_foldl _ ?_ _ _ ?_) | (with_reducible refine steps_foldl _ ?_ _ _ ?_) | (with_reducible refine runWord_canon _ _ _ ?_ ?_) | (with_reducible refine crossWord_canon _ _ _ ?_ ?_) | (with_reducible refine issue_canon _ _ _ _ ?_ ?_ ?_) | (with_reducible refine access_canon _ _ _ _ ?_ ?_ ?_) | (with_reducible refine bufAccess_canon _ _ _ _ ?_ ?_ ?_) | (with_reducible refine canon_getD ?_ ?_) | (intro _ _ _; try dsimp only) | (intro _ _; try dsimp only) | (intro _; try dsimp only)
  all_goals try simp (maxDischargeDepth := 20) +contextual [*]
theorem execRunSelect_canon (die core quad slot : Nat) (s : State) (hs : Canon s) : OutC (execRunSelect die core quad slot s) := by
  unfold execRunSelect
  (try dsimp only)
  repeat' first | split | (with_reducible refine canon_foldl _ ?_ _ _ ?_) | (with_reducible refine canon_foldl1 _ ?_ _ _ ?_) | (with_reducible refine canon_foldl2 _ ?_ _ _ ?_) | (with_reducible refine loaded_foldl _ ?_ _ _ ?_) | (with_reducible refine steps_foldl _ ?_ _ _ ?_) | (with_reducible refine runWord_canon _ _ _ ?_ ?_) | (with_reducible refine crossWord_canon _ _ _ ?_ ?_) | (with_reducible refine issue_canon _ _ _ _ ?_ ?_ ?_) | (with_reducible refine access_canon _ _ _ _ ?_ ?_ ?_) | (with_reducible refine bufAccess_canon _ _ _ _ ?_ ?_ ?_) | (with_reducible refine canon_getD ?_ ?_) | (intro _ _ _; try dsimp only) | (intro _ _; try dsimp only) | (intro _; try dsimp only)
  all_goals try simp (maxDischargeDepth := 20) +contextual [*]
@[simp] theorem ageWave_canon (s : State) (wid : Nat) (hs : Canon s) : Canon (ageWave s wid) := by
  unfold ageWave
  (try dsimp only)
  repeat' first | split | (with_reducible refine canon_foldl _ ?_ _ _ ?_) | (with_reducible refine canon_foldl1 _ ?_ _ _ ?_) | (with_reducible refine canon_foldl2 _ ?_ _ _ ?_) | (with_reducible refine loaded_foldl _ ?_ _ _ ?_) | (with_reducible refine steps_foldl _ ?_ _ _ ?_) | (with_reducible refine runWord_canon _ _ _ ?_ ?_) | (with_reducible refine crossWord_canon _ _ _ ?_ ?_) | (with_reducible refine issue_canon _ _ _ _ ?_ ?_ ?_) | (with_reducible refine access_canon _ _ _ _ ?_ ?_ ?_) | (with_reducible refine bufAccess_canon _ _ _ _ ?_ ?_ ?_) | (with_reducible refine canon_getD ?_ ?_) | (intro _ _ _; try dsimp only) | (intro _ _; try dsimp only) | (intro _; try dsimp only)
  all_goals try simp (maxDischargeDepth := 20) +contextual [*]
theorem execWaveAge_canon (wave : Nat) (s : State) (hs : Canon s) : OutC (execWaveAge wave s) := by
  unfold execWaveAge
  (try dsimp only)
  repeat' first | split | (with_reducible refine canon_foldl _ ?_ _ _ ?_) | (with_reducible refine canon_foldl1 _ ?_ _ _ ?_) | (with_reducible refine canon_foldl2 _ ?_ _ _ ?_) | (with_reducible refine loaded_foldl _ ?_ _ _ ?_) | (with_reducible refine steps_foldl _ ?_ _ _ ?_) | (with_reducible refine runWord_canon _ _ _ ?_ ?_) | (with_reducible refine crossWord_canon _ _ _ ?_ ?_) | (with_reducible refine issue_canon _ _ _ _ ?_ ?_ ?_) | (with_reducible refine access_canon _ _ _ _ ?_ ?_ ?_) | (with_reducible refine bufAccess_canon _ _ _ _ ?_ ?_ ?_) | (with_reducible refine canon_getD ?_ ?_) | (intro _ _ _; try dsimp only) | (intro _ _; try dsimp only) | (intro _; try dsimp only)
  all_goals try simp (maxDischargeDepth := 20) +contextual [*]
@[simp] theorem redirectWave_canon (s : State) (wid : Nat) (hs : Canon s) : Canon (redirectWave s wid) := by
  unfold redirectWave
  (try dsimp only)
  repeat' first | split | (with_reducible refine canon_foldl _ ?_ _ _ ?_) | (with_reducible refine canon_foldl1 _ ?_ _ _ ?_) | (with_reducible refine canon_foldl2 _ ?_ _ _ ?_) | (with_reducible refine loaded_foldl _ ?_ _ _ ?_) | (with_reducible refine steps_foldl _ ?_ _ _ ?_) | (with_reducible refine runWord_canon _ _ _ ?_ ?_) | (with_reducible refine crossWord_canon _ _ _ ?_ ?_) | (with_reducible refine issue_canon _ _ _ _ ?_ ?_ ?_) | (with_reducible refine access_canon _ _ _ _ ?_ ?_ ?_) | (with_reducible refine bufAccess_canon _ _ _ _ ?_ ?_ ?_) | (with_reducible refine canon_getD ?_ ?_) | (intro _ _ _; try dsimp only) | (intro _ _; try dsimp only) | (intro _; try dsimp only)
  all_goals try simp (maxDischargeDepth := 20) +contextual [*]
theorem execSpinRedirect_canon (wave : Nat) (s : State) (hs : Canon s) : OutC (execSpinRedirect wave s) := by
  unfold execSpinRedirect
  (try dsimp only)
  repeat' first | split | (with_reducible refine canon_foldl _ ?_ _ _ ?_) | (with_reducible refine canon_foldl1 _ ?_ _ _ ?_) | (with_reducible refine canon_foldl2 _ ?_ _ _ ?_) | (with_reducible refine loaded_foldl _ ?_ _ _ ?_) | (with_reducible refine steps_foldl _ ?_ _ _ ?_) | (with_reducible refine runWord_canon _ _ _ ?_ ?_) | (with_reducible refine crossWord_canon _ _ _ ?_ ?_) | (with_reducible refine issue_canon _ _ _ _ ?_ ?_ ?_) | (with_reducible refine access_canon _ _ _ _ ?_ ?_ ?_) | (with_reducible refine bufAccess_canon _ _ _ _ ?_ ?_ ?_) | (with_reducible refine canon_getD ?_ ?_) | (intro _ _ _; try dsimp only) | (intro _ _; try dsimp only) | (intro _; try dsimp only)
  all_goals try simp (maxDischargeDepth := 20) +contextual [*]
@[simp] theorem writePending_canon (s : State) (w : Wave) (p : PendLoad) (hs : Canon s) : Canon (writePending s w p) := by
  unfold writePending
  split
  · exact hs
  · split
    · exact clearPoison_canon _ _ _ _ _ hs
    · split
      · split
        · exact canon_foldl _ (fun t x ht => gSet_canon _ _ _ _ ht) _ _ hs
        · exact hs
      · exact writeReg_canon _ _ _ _ _ _ _ _ hs
@[simp] theorem deliverLoad_canon (s : State) (wid n : Nat) (hs : Canon s) : Canon (deliverLoad s wid n) := by
  unfold deliverLoad
  (try dsimp only)
  repeat' first | split | (with_reducible refine canon_foldl _ ?_ _ _ ?_) | (with_reducible refine canon_foldl1 _ ?_ _ _ ?_) | (with_reducible refine canon_foldl2 _ ?_ _ _ ?_) | (with_reducible refine loaded_foldl _ ?_ _ _ ?_) | (with_reducible refine steps_foldl _ ?_ _ _ ?_) | (with_reducible refine runWord_canon _ _ _ ?_ ?_) | (with_reducible refine crossWord_canon _ _ _ ?_ ?_) | (with_reducible refine issue_canon _ _ _ _ ?_ ?_ ?_) | (with_reducible refine access_canon _ _ _ _ ?_ ?_ ?_) | (with_reducible refine bufAccess_canon _ _ _ _ ?_ ?_ ?_) | (with_reducible refine canon_getD ?_ ?_) | (intro _ _ _; try dsimp only) | (intro _ _; try dsimp only) | (intro _; try dsimp only)
  all_goals try simp (maxDischargeDepth := 20) +contextual [*]
@[simp] theorem arriveInScout_canon (s : State) (wid n : Nat) (hs : Canon s) : Canon (arriveInScout s wid n) := by
  unfold arriveInScout
  (try dsimp only)
  repeat' first | split | (with_reducible refine canon_foldl _ ?_ _ _ ?_) | (with_reducible refine canon_foldl1 _ ?_ _ _ ?_) | (with_reducible refine canon_foldl2 _ ?_ _ _ ?_) | (with_reducible refine loaded_foldl _ ?_ _ _ ?_) | (with_reducible refine steps_foldl _ ?_ _ _ ?_) | (with_reducible refine runWord_canon _ _ _ ?_ ?_) | (with_reducible refine crossWord_canon _ _ _ ?_ ?_) | (with_reducible refine issue_canon _ _ _ _ ?_ ?_ ?_) | (with_reducible refine access_canon _ _ _ _ ?_ ?_ ?_) | (with_reducible refine bufAccess_canon _ _ _ _ ?_ ?_ ?_) | (with_reducible refine canon_getD ?_ ?_) | (intro _ _ _; try dsimp only) | (intro _ _; try dsimp only) | (intro _; try dsimp only)
  all_goals try simp (maxDischargeDepth := 20) +contextual [*]
theorem execLoadReturn_canon (wave n : Nat) (s : State) (hs : Canon s) : OutC (execLoadReturn wave n s) := by
  unfold execLoadReturn
  (try dsimp only)
  repeat' first | split | (with_reducible refine canon_foldl _ ?_ _ _ ?_) | (with_reducible refine canon_foldl1 _ ?_ _ _ ?_) | (with_reducible refine canon_foldl2 _ ?_ _ _ ?_) | (with_reducible refine loaded_foldl _ ?_ _ _ ?_) | (with_reducible refine steps_foldl _ ?_ _ _ ?_) | (with_reducible refine runWord_canon _ _ _ ?_ ?_) | (with_reducible refine crossWord_canon _ _ _ ?_ ?_) | (with_reducible refine issue_canon _ _ _ _ ?_ ?_ ?_) | (with_reducible refine access_canon _ _ _ _ ?_ ?_ ?_) | (with_reducible refine bufAccess_canon _ _ _ _ ?_ ?_ ?_) | (with_reducible refine canon_getD ?_ ?_) | (intro _ _ _; try dsimp only) | (intro _ _; try dsimp only) | (intro _; try dsimp only)
  all_goals try simp (maxDischargeDepth := 20) +contextual [*]
@[simp] theorem wakeLane_canon (s : State) (wid : Nat) (l : Lane) (hs : Canon s) : Canon (wakeLane s wid l) := by
  unfold wakeLane
  (try dsimp only)
  repeat' first | split | (with_reducible refine canon_foldl _ ?_ _ _ ?_) | (with_reducible refine canon_foldl1 _ ?_ _ _ ?_) | (with_reducible refine canon_foldl2 _ ?_ _ _ ?_) | (with_reducible refine loaded_foldl _ ?_ _ _ ?_) | (with_reducible refine steps_foldl _ ?_ _ _ ?_) | (with_reducible refine runWord_canon _ _ _ ?_ ?_) | (with_reducible refine crossWord_canon _ _ _ ?_ ?_) | (with_reducible refine issue_canon _ _ _ _ ?_ ?_ ?_) | (with_reducible refine access_canon _ _ _ _ ?_ ?_ ?_) | (with_reducible refine bufAccess_canon _ _ _ _ ?_ ?_ ?_) | (with_reducible refine canon_getD ?_ ?_) | (intro _ _ _; try dsimp only) | (intro _ _; try dsimp only) | (intro _; try dsimp only)
  all_goals try simp (maxDischargeDepth := 20) +contextual [*]
theorem execLaneWake_canon (wave : Nat) (lane : Lane) (s : State) (hs : Canon s) : OutC (execLaneWake wave lane s) := by
  unfold execLaneWake
  (try dsimp only)
  repeat' first | split | (with_reducible refine canon_foldl _ ?_ _ _ ?_) | (with_reducible refine canon_foldl1 _ ?_ _ _ ?_) | (with_reducible refine canon_foldl2 _ ?_ _ _ ?_) | (with_reducible refine loaded_foldl _ ?_ _ _ ?_) | (with_reducible refine steps_foldl _ ?_ _ _ ?_) | (with_reducible refine runWord_canon _ _ _ ?_ ?_) | (with_reducible refine crossWord_canon _ _ _ ?_ ?_) | (with_reducible refine issue_canon _ _ _ _ ?_ ?_ ?_) | (with_reducible refine access_canon _ _ _ _ ?_ ?_ ?_) | (with_reducible refine bufAccess_canon _ _ _ _ ?_ ?_ ?_) | (with_reducible refine canon_getD ?_ ?_) | (intro _ _ _; try dsimp only) | (intro _ _; try dsimp only) | (intro _; try dsimp only)
  all_goals try simp (maxDischargeDepth := 20) +contextual [*]
@[simp] theorem takeWatch_canon (s0 : State) (wid : Nat) (hs0 : Canon s0) : Canon (takeWatch s0 wid) := by
  unfold takeWatch
  (try dsimp only)
  repeat' first | split | (with_reducible refine canon_foldl _ ?_ _ _ ?_) | (with_reducible refine canon_foldl1 _ ?_ _ _ ?_) | (with_reducible refine canon_foldl2 _ ?_ _ _ ?_) | (with_reducible refine loaded_foldl _ ?_ _ _ ?_) | (with_reducible refine steps_foldl _ ?_ _ _ ?_) | (with_reducible refine runWord_canon _ _ _ ?_ ?_) | (with_reducible refine crossWord_canon _ _ _ ?_ ?_) | (with_reducible refine issue_canon _ _ _ _ ?_ ?_ ?_) | (with_reducible refine access_canon _ _ _ _ ?_ ?_ ?_) | (with_reducible refine bufAccess_canon _ _ _ _ ?_ ?_ ?_) | (with_reducible refine canon_getD ?_ ?_) | (intro _ _ _; try dsimp only) | (intro _ _; try dsimp only) | (intro _; try dsimp only)
  all_goals try simp (maxDischargeDepth := 20) +contextual [*]
theorem execWatchTrap_canon (wave : Nat) (s : State) (hs : Canon s) : OutC (execWatchTrap wave s) := by
  unfold execWatchTrap
  (try dsimp only)
  repeat' first | split | (with_reducible refine canon_foldl _ ?_ _ _ ?_) | (with_reducible refine canon_foldl1 _ ?_ _ _ ?_) | (with_reducible refine canon_foldl2 _ ?_ _ _ ?_) | (with_reducible refine loaded_foldl _ ?_ _ _ ?_) | (with_reducible refine steps_foldl _ ?_ _ _ ?_) | (with_reducible refine runWord_canon _ _ _ ?_ ?_) | (with_reducible refine crossWord_canon _ _ _ ?_ ?_) | (with_reducible refine issue_canon _ _ _ _ ?_ ?_ ?_) | (with_reducible refine access_canon _ _ _ _ ?_ ?_ ?_) | (with_reducible refine bufAccess_canon _ _ _ _ ?_ ?_ ?_) | (with_reducible refine canon_getD ?_ ?_) | (intro _ _ _; try dsimp only) | (intro _ _; try dsimp only) | (intro _; try dsimp only)
  all_goals try simp (maxDischargeDepth := 20) +contextual [*]
theorem execWaveFinishAfterCommands_canon (wave : Nat) (s : State) (hs : Canon s) : OutC (execWaveFinishAfterCommands wave s) := by
  unfold execWaveFinishAfterCommands
  (try dsimp only)
  repeat' first | split | (with_reducible refine canon_foldl _ ?_ _ _ ?_) | (with_reducible refine canon_foldl1 _ ?_ _ _ ?_) | (with_reducible refine canon_foldl2 _ ?_ _ _ ?_) | (with_reducible refine loaded_foldl _ ?_ _ _ ?_) | (with_reducible refine steps_foldl _ ?_ _ _ ?_) | (with_reducible refine runWord_canon _ _ _ ?_ ?_) | (with_reducible refine crossWord_canon _ _ _ ?_ ?_) | (with_reducible refine issue_canon _ _ _ _ ?_ ?_ ?_) | (with_reducible refine access_canon _ _ _ _ ?_ ?_ ?_) | (with_reducible refine bufAccess_canon _ _ _ _ ?_ ?_ ?_) | (with_reducible refine canon_getD ?_ ?_) | (intro _ _ _; try dsimp only) | (intro _ _; try dsimp only) | (intro _; try dsimp only)
  all_goals try simp (maxDischargeDepth := 20) +contextual [*]
@[simp] theorem grantClaim_canon (s : State) (wid : Nat) (hs : Canon s) : Canon (grantClaim s wid) := by
  unfold grantClaim
  (try dsimp only)
  repeat' first | split | (with_reducible refine canon_foldl _ ?_ _ _ ?_) | (with_reducible refine canon_foldl1 _ ?_ _ _ ?_) | (with_reducible refine canon_foldl2 _ ?_ _ _ ?_) | (with_reducible refine loaded_foldl _ ?_ _ _ ?_) | (with_reducible refine steps_foldl _ ?_ _ _ ?_) | (with_reducible refine runWord_canon _ _ _ ?_ ?_) | (with_reducible refine crossWord_canon _ _ _ ?_ ?_) | (with_reducible refine issue_canon _ _ _ _ ?_ ?_ ?_) | (with_reducible refine access_canon _ _ _ _ ?_ ?_ ?_) | (with_reducible refine bufAccess_canon _ _ _ _ ?_ ?_ ?_) | (with_reducible refine canon_getD ?_ ?_) | (intro _ _ _; try dsimp only) | (intro _ _; try dsimp only) | (intro _; try dsimp only)
  all_goals try simp (maxDischargeDepth := 20) +contextual [*]
theorem execRegClaimGrant_canon (wave : Nat) (s : State) (hs : Canon s) : OutC (execRegClaimGrant wave s) := by
  unfold execRegClaimGrant
  (try dsimp only)
  repeat' first | split | (with_reducible refine canon_foldl _ ?_ _ _ ?_) | (with_reducible refine canon_foldl1 _ ?_ _ _ ?_) | (with_reducible refine canon_foldl2 _ ?_ _ _ ?_) | (with_reducible refine loaded_foldl _ ?_ _ _ ?_) | (with_reducible refine steps_foldl _ ?_ _ _ ?_) | (with_reducible refine runWord_canon _ _ _ ?_ ?_) | (with_reducible refine crossWord_canon _ _ _ ?_ ?_) | (with_reducible refine issue_canon _ _ _ _ ?_ ?_ ?_) | (with_reducible refine access_canon _ _ _ _ ?_ ?_ ?_) | (with_reducible refine bufAccess_canon _ _ _ _ ?_ ?_ ?_) | (with_reducible refine canon_getD ?_ ?_) | (intro _ _ _; try dsimp only) | (intro _ _; try dsimp only) | (intro _; try dsimp only)
  all_goals try simp (maxDischargeDepth := 20) +contextual [*]
@[simp] theorem claimTimeout_canon (s : State) (wid : Nat) (hs : Canon s) : Canon (claimTimeout s wid) := by
  unfold claimTimeout
  (try dsimp only)
  repeat' first | split | (with_reducible refine canon_foldl _ ?_ _ _ ?_) | (with_reducible refine canon_foldl1 _ ?_ _ _ ?_) | (with_reducible refine canon_foldl2 _ ?_ _ _ ?_) | (with_reducible refine loaded_foldl _ ?_ _ _ ?_) | (with_reducible refine steps_foldl _ ?_ _ _ ?_) | (with_reducible refine runWord_canon _ _ _ ?_ ?_) | (with_reducible refine crossWord_canon _ _ _ ?_ ?_) | (with_reducible refine issue_canon _ _ _ _ ?_ ?_ ?_) | (with_reducible refine access_canon _ _ _ _ ?_ ?_ ?_) | (with_reducible refine bufAccess_canon _ _ _ _ ?_ ?_ ?_) | (with_reducible refine canon_getD ?_ ?_) | (intro _ _ _; try dsimp only) | (intro _ _; try dsimp only) | (intro _; try dsimp only)
  all_goals try simp (maxDischargeDepth := 20) +contextual [*]
theorem execClaimWaitTimeout_canon (wave : Nat) (s : State) (hs : Canon s) : OutC (execClaimWaitTimeout wave s) := by
  unfold execClaimWaitTimeout
  (try dsimp only)
  repeat' first | split | (with_reducible refine canon_foldl _ ?_ _ _ ?_) | (with_reducible refine canon_foldl1 _ ?_ _ _ ?_) | (with_reducible refine canon_foldl2 _ ?_ _ _ ?_) | (with_reducible refine loaded_foldl _ ?_ _ _ ?_) | (with_reducible refine steps_foldl _ ?_ _ _ ?_) | (with_reducible refine runWord_canon _ _ _ ?_ ?_) | (with_reducible refine crossWord_canon _ _ _ ?_ ?_) | (with_reducible refine issue_canon _ _ _ _ ?_ ?_ ?_) | (with_reducible refine access_canon _ _ _ _ ?_ ?_ ?_) | (with_reducible refine bufAccess_canon _ _ _ _ ?_ ?_ ?_) | (with_reducible refine canon_getD ?_ ?_) | (intro _ _ _; try dsimp only) | (intro _ _; try dsimp only) | (intro _; try dsimp only)
  all_goals try simp (maxDischargeDepth := 20) +contextual [*]
@[simp] theorem saveTimeout_canon (s : State) (gid : Nat) (hs : Canon s) : Canon (saveTimeout s gid) := by
  unfold saveTimeout
  (try dsimp only)
  repeat' first | split | (with_reducible refine canon_foldl _ ?_ _ _ ?_) | (with_reducible refine canon_foldl1 _ ?_ _ _ ?_) | (with_reducible refine canon_foldl2 _ ?_ _ _ ?_) | (with_reducible refine loaded_foldl _ ?_ _ _ ?_) | (with_reducible refine steps_foldl _ ?_ _ _ ?_) | (with_reducible refine runWord_canon _ _ _ ?_ ?_) | (with_reducible refine crossWord_canon _ _ _ ?_ ?_) | (with_reducible refine issue_canon _ _ _ _ ?_ ?_ ?_) | (with_reducible refine access_canon _ _ _ _ ?_ ?_ ?_) | (with_reducible refine bufAccess_canon _ _ _ _ ?_ ?_ ?_) | (with_reducible refine canon_getD ?_ ?_) | (intro _ _ _; try dsimp only) | (intro _ _; try dsimp only) | (intro _; try dsimp only)
  all_goals try simp (maxDischargeDepth := 20) +contextual [*]
theorem execGroupSaveTimeout_canon (group : Nat) (s : State) (hs : Canon s) : OutC (execGroupSaveTimeout group s) := by
  unfold execGroupSaveTimeout
  (try dsimp only)
  repeat' first | split | (with_reducible refine canon_foldl _ ?_ _ _ ?_) | (with_reducible refine canon_foldl1 _ ?_ _ _ ?_) | (with_reducible refine canon_foldl2 _ ?_ _ _ ?_) | (with_reducible refine loaded_foldl _ ?_ _ _ ?_) | (with_reducible refine steps_foldl _ ?_ _ _ ?_) | (with_reducible refine runWord_canon _ _ _ ?_ ?_) | (with_reducible refine crossWord_canon _ _ _ ?_ ?_) | (with_reducible refine issue_canon _ _ _ _ ?_ ?_ ?_) | (with_reducible refine access_canon _ _ _ _ ?_ ?_ ?_) | (with_reducible refine bufAccess_canon _ _ _ _ ?_ ?_ ?_) | (with_reducible refine canon_getD ?_ ?_) | (intro _ _ _; try dsimp only) | (intro _ _; try dsimp only) | (intro _; try dsimp only)
  all_goals try simp (maxDischargeDepth := 20) +contextual [*]
@[simp] theorem relaunch_canon (s : State) (gid : Nat) (hs : Canon s) : Canon (relaunch s gid) := by
  unfold relaunch
  (try dsimp only)
  repeat' first | split | (with_reducible refine canon_foldl _ ?_ _ _ ?_) | (with_reducible refine canon_foldl1 _ ?_ _ _ ?_) | (with_reducible refine canon_foldl2 _ ?_ _ _ ?_) | (with_reducible refine loaded_foldl _ ?_ _ _ ?_) | (with_reducible refine steps_foldl _ ?_ _ _ ?_) | (with_reducible refine runWord_canon _ _ _ ?_ ?_) | (with_reducible refine crossWord_canon _ _ _ ?_ ?_) | (with_reducible refine issue_canon _ _ _ _ ?_ ?_ ?_) | (with_reducible refine access_canon _ _ _ _ ?_ ?_ ?_) | (with_reducible refine bufAccess_canon _ _ _ _ ?_ ?_ ?_) | (with_reducible refine canon_getD ?_ ?_) | (intro _ _ _; try dsimp only) | (intro _ _; try dsimp only) | (intro _; try dsimp only)
  all_goals try simp (maxDischargeDepth := 20) +contextual [*]
theorem execGroupRelaunch_canon (group : Nat) (s : State) (hs : Canon s) : OutC (execGroupRelaunch group s) := by
  unfold execGroupRelaunch
  (try dsimp only)
  repeat' first | split | (with_reducible refine canon_foldl _ ?_ _ _ ?_) | (with_reducible refine canon_foldl1 _ ?_ _ _ ?_) | (with_reducible refine canon_foldl2 _ ?_ _ _ ?_) | (with_reducible refine loaded_foldl _ ?_ _ _ ?_) | (with_reducible refine steps_foldl _ ?_ _ _ ?_) | (with_reducible refine runWord_canon _ _ _ ?_ ?_) | (with_reducible refine crossWord_canon _ _ _ ?_ ?_) | (with_reducible refine issue_canon _ _ _ _ ?_ ?_ ?_) | (with_reducible refine access_canon _ _ _ _ ?_ ?_ ?_) | (with_reducible refine bufAccess_canon _ _ _ _ ?_ ?_ ?_) | (with_reducible refine canon_getD ?_ ?_) | (intro _ _ _; try dsimp only) | (intro _ _; try dsimp only) | (intro _; try dsimp only)
  all_goals try simp (maxDischargeDepth := 20) +contextual [*]
@[simp] theorem enterScout_canon (s : State) (wid : Nat) (hs : Canon s) : Canon (enterScout s wid) := by
  unfold enterScout
  (try dsimp only)
  repeat' first | split | (with_reducible refine canon_foldl _ ?_ _ _ ?_) | (with_reducible refine canon_foldl1 _ ?_ _ _ ?_) | (with_reducible refine canon_foldl2 _ ?_ _ _ ?_) | (with_reducible refine loaded_foldl _ ?_ _ _ ?_) | (with_reducible refine steps_foldl _ ?_ _ _ ?_) | (with_reducible refine runWord_canon _ _ _ ?_ ?_) | (with_reducible refine crossWord_canon _ _ _ ?_ ?_) | (with_reducible refine issue_canon _ _ _ _ ?_ ?_ ?_) | (with_reducible refine access_canon _ _ _ _ ?_ ?_ ?_) | (with_reducible refine bufAccess_canon _ _ _ _ ?_ ?_ ?_) | (with_reducible refine canon_getD ?_ ?_) | (intro _ _ _; try dsimp only) | (intro _ _; try dsimp only) | (intro _; try dsimp only)
  all_goals try simp (maxDischargeDepth := 20) +contextual [*]
theorem execScoutEnter_canon (wave : Nat) (s : State) (hs : Canon s) : OutC (execScoutEnter wave s) := by
  unfold execScoutEnter
  (try dsimp only)
  repeat' first | split | (with_reducible refine canon_foldl _ ?_ _ _ ?_) | (with_reducible refine canon_foldl1 _ ?_ _ _ ?_) | (with_reducible refine canon_foldl2 _ ?_ _ _ ?_) | (with_reducible refine loaded_foldl _ ?_ _ _ ?_) | (with_reducible refine steps_foldl _ ?_ _ _ ?_) | (with_reducible refine runWord_canon _ _ _ ?_ ?_) | (with_reducible refine crossWord_canon _ _ _ ?_ ?_) | (with_reducible refine issue_canon _ _ _ _ ?_ ?_ ?_) | (with_reducible refine access_canon _ _ _ _ ?_ ?_ ?_) | (with_reducible refine bufAccess_canon _ _ _ _ ?_ ?_ ?_) | (with_reducible refine canon_getD ?_ ?_) | (intro _ _ _; try dsimp only) | (intro _ _; try dsimp only) | (intro _; try dsimp only)
  all_goals try simp (maxDischargeDepth := 20) +contextual [*]
@[simp] theorem leaveScout_canon (s : State) (wid : Nat) (hs : Canon s) : Canon (leaveScout s wid) := by
  unfold leaveScout
  (try dsimp only)
  repeat' first | split | (with_reducible refine canon_foldl _ ?_ _ _ ?_) | (with_reducible refine canon_foldl1 _ ?_ _ _ ?_) | (with_reducible refine canon_foldl2 _ ?_ _ _ ?_) | (with_reducible refine loaded_foldl _ ?_ _ _ ?_) | (with_reducible refine steps_foldl _ ?_ _ _ ?_) | (with_reducible refine runWord_canon _ _ _ ?_ ?_) | (with_reducible refine crossWord_canon _ _ _ ?_ ?_) | (with_reducible refine issue_canon _ _ _ _ ?_ ?_ ?_) | (with_reducible refine access_canon _ _ _ _ ?_ ?_ ?_) | (with_reducible refine bufAccess_canon _ _ _ _ ?_ ?_ ?_) | (with_reducible refine canon_getD ?_ ?_) | (intro _ _ _; try dsimp only) | (intro _ _; try dsimp only) | (intro _; try dsimp only)
  all_goals try simp (maxDischargeDepth := 20) +contextual [*]
theorem execScoutTimeout_canon (wave : Nat) (s : State) (hs : Canon s) : OutC (execScoutTimeout wave s) := by
  unfold execScoutTimeout
  (try dsimp only)
  repeat' first | split | (with_reducible refine canon_foldl _ ?_ _ _ ?_) | (with_reducible refine canon_foldl1 _ ?_ _ _ ?_) | (with_reducible refine canon_foldl2 _ ?_ _ _ ?_) | (with_reducible refine loaded_foldl _ ?_ _ _ ?_) | (with_reducible refine steps_foldl _ ?_ _ _ ?_) | (with_reducible refine runWord_canon _ _ _ ?_ ?_) | (with_reducible refine crossWord_canon _ _ _ ?_ ?_) | (with_reducible refine issue_canon _ _ _ _ ?_ ?_ ?_) | (with_reducible refine access_canon _ _ _ _ ?_ ?_ ?_) | (with_reducible refine bufAccess_canon _ _ _ _ ?_ ?_ ?_) | (with_reducible refine canon_getD ?_ ?_) | (intro _ _ _; try dsimp only) | (intro _ _; try dsimp only) | (intro _; try dsimp only)
  all_goals try simp (maxDischargeDepth := 20) +contextual [*]
@[simp] theorem exitScout_canon (s : State) (wid : Nat) (hs : Canon s) : Canon (exitScout s wid) := by
  unfold exitScout
  repeat' split
  all_goals simp [*]
theorem execScoutExit_canon (wave : Nat) (s : State) (hs : Canon s) : OutC (execScoutExit wave s) := by
  unfold execScoutExit
  (try dsimp only)
  repeat' first | split | (with_reducible refine canon_foldl _ ?_ _ _ ?_) | (with_reducible refine canon_foldl1 _ ?_ _ _ ?_) | (with_reducible refine canon_foldl2 _ ?_ _ _ ?_) | (with_reducible refine loaded_foldl _ ?_ _ _ ?_) | (with_reducible refine steps_foldl _ ?_ _ _ ?_) | (with_reducible refine runWord_canon _ _ _ ?_ ?_) | (with_reducible refine crossWord_canon _ _ _ ?_ ?_) | (with_reducible refine issue_canon _ _ _ _ ?_ ?_ ?_) | (with_reducible refine access_canon _ _ _ _ ?_ ?_ ?_) | (with_reducible refine bufAccess_canon _ _ _ _ ?_ ?_ ?_) | (with_reducible refine canon_getD ?_ ?_) | (intro _ _ _; try dsimp only) | (intro _ _; try dsimp only) | (intro _; try dsimp only)
  all_goals try simp (maxDischargeDepth := 20) +contextual [*]

/-! ### Sweolo -/

theorem tableFor_canon (ia n k table : Nat) (s : State) (hs : Canon s) : Canon (tableFor ia n k table s).2 := by
  induction n generalizing k table s with
  | zero => exact hs
  | succ n ih =>
    simp only [tableFor]
    split
    · exact ih _ _ _ hs
    · exact ih _ _ _ hs
@[simp] theorem refuse_canon (s : State) (what : Nat) (hs : Canon s) : Canon (refuse s what) := by
  unfold refuse
  (try dsimp only)
  repeat' first | split | (with_reducible refine canon_foldl _ ?_ _ _ ?_) | (with_reducible refine canon_foldl1 _ ?_ _ _ ?_) | (with_reducible refine canon_foldl2 _ ?_ _ _ ?_) | (with_reducible refine loaded_foldl _ ?_ _ _ ?_) | (with_reducible refine steps_foldl _ ?_ _ _ ?_) | (with_reducible refine runWord_canon _ _ _ ?_ ?_) | (with_reducible refine crossWord_canon _ _ _ ?_ ?_) | (with_reducible refine issue_canon _ _ _ _ ?_ ?_ ?_) | (with_reducible refine access_canon _ _ _ _ ?_ ?_ ?_) | (with_reducible refine bufAccess_canon _ _ _ _ ?_ ?_ ?_) | (with_reducible refine canon_getD ?_ ?_) | (intro _ _ _; try dsimp only) | (intro _ _; try dsimp only) | (intro _; try dsimp only)
  all_goals try simp (maxDischargeDepth := 20) +contextual [*]
@[simp] theorem awaitTurn_canon (s : State) (i : Instr) (hs : Canon s) : Canon (awaitTurn s i) := by
  unfold awaitTurn
  (try dsimp only)
  repeat' first | split | (with_reducible refine canon_foldl _ ?_ _ _ ?_) | (with_reducible refine canon_foldl1 _ ?_ _ _ ?_) | (with_reducible refine canon_foldl2 _ ?_ _ _ ?_) | (with_reducible refine loaded_foldl _ ?_ _ _ ?_) | (with_reducible refine steps_foldl _ ?_ _ _ ?_) | (with_reducible refine runWord_canon _ _ _ ?_ ?_) | (with_reducible refine crossWord_canon _ _ _ ?_ ?_) | (with_reducible refine issue_canon _ _ _ _ ?_ ?_ ?_) | (with_reducible refine access_canon _ _ _ _ ?_ ?_ ?_) | (with_reducible refine bufAccess_canon _ _ _ _ ?_ ?_ ?_) | (with_reducible refine canon_getD ?_ ?_) | (intro _ _ _; try dsimp only) | (intro _ _; try dsimp only) | (intro _; try dsimp only)
  all_goals try simp (maxDischargeDepth := 20) +contextual [*]
theorem served_canon (i : Instr) (x : Option State) (s : State) (hx : OptC x) (hs : Canon s) : OutC (served i x s) :=
  (outC_next _).2 (canon_getD hx (awaitTurn_canon s i hs))

@[simp] theorem newTable_canon (s : State) (l : Nat) (hs : Canon s) : Canon (newTable s l).2 := by
  unfold newTable
  (try dsimp only)
  repeat' first | split | (with_reducible refine canon_foldl _ ?_ _ _ ?_) | (with_reducible refine canon_foldl1 _ ?_ _ _ ?_) | (with_reducible refine canon_foldl2 _ ?_ _ _ ?_) | (with_reducible refine loaded_foldl _ ?_ _ _ ?_) | (with_reducible refine steps_foldl _ ?_ _ _ ?_) | (with_reducible refine runWord_canon _ _ _ ?_ ?_) | (with_reducible refine crossWord_canon _ _ _ ?_ ?_) | (with_reducible refine issue_canon _ _ _ _ ?_ ?_ ?_) | (with_reducible refine access_canon _ _ _ _ ?_ ?_ ?_) | (with_reducible refine bufAccess_canon _ _ _ _ ?_ ?_ ?_) | (with_reducible refine canon_getD ?_ ?_) | (intro _ _ _; try dsimp only) | (intro _ _; try dsimp only) | (intro _; try dsimp only)
  all_goals try simp (maxDischargeDepth := 20) +contextual [*]
@[simp] theorem putEntry_canon (s : State) (p : Part) (l : Fin 4) (ia : Nat) (e : DWord) (hs : Canon s) : Canon (putEntry s p l ia e) := by
  exact tableFor_canon ia l.val 0 p.root s hs
@[simp] theorem dropLines_canon (s : State) (lo hi : Nat) (hs : Canon s) : Canon (dropLines s lo hi) := by
  unfold dropLines
  (try dsimp only)
  repeat' first | split | (with_reducible refine canon_foldl _ ?_ _ _ ?_) | (with_reducible refine canon_foldl1 _ ?_ _ _ ?_) | (with_reducible refine canon_foldl2 _ ?_ _ _ ?_) | (with_reducible refine loaded_foldl _ ?_ _ _ ?_) | (with_reducible refine steps_foldl _ ?_ _ _ ?_) | (with_reducible refine runWord_canon _ _ _ ?_ ?_) | (with_reducible refine crossWord_canon _ _ _ ?_ ?_) | (with_reducible refine issue_canon _ _ _ _ ?_ ?_ ?_) | (with_reducible refine access_canon _ _ _ _ ?_ ?_ ?_) | (with_reducible refine bufAccess_canon _ _ _ _ ?_ ?_ ?_) | (with_reducible refine canon_getD ?_ ?_) | (intro _ _ _; try dsimp only) | (intro _ _; try dsimp only) | (intro _; try dsimp only)
  all_goals try simp (maxDischargeDepth := 20) +contextual [*]
@[simp] theorem signalCode_canon (old new : State) (hold : Canon old) (hnew : Canon new) : Canon (signalCode old new) := by
  unfold signalCode
  (try dsimp only)
  repeat' first | split | (with_reducible refine canon_foldl _ ?_ _ _ ?_) | (with_reducible refine canon_foldl1 _ ?_ _ _ ?_) | (with_reducible refine canon_foldl2 _ ?_ _ _ ?_) | (with_reducible refine loaded_foldl _ ?_ _ _ ?_) | (with_reducible refine steps_foldl _ ?_ _ _ ?_) | (with_reducible refine runWord_canon _ _ _ ?_ ?_) | (with_reducible refine crossWord_canon _ _ _ ?_ ?_) | (with_reducible refine issue_canon _ _ _ _ ?_ ?_ ?_) | (with_reducible refine access_canon _ _ _ _ ?_ ?_ ?_) | (with_reducible refine bufAccess_canon _ _ _ _ ?_ ?_ ?_) | (with_reducible refine canon_getD ?_ ?_) | (intro _ _ _; try dsimp only) | (intro _ _; try dsimp only) | (intro _; try dsimp only)
  all_goals try simp (maxDischargeDepth := 20) +contextual [*]
@[simp] theorem rekeyed_canon (s : State) (key : Nat) (p : Nat → Bool) (hs : Canon s) : Canon (rekeyed s key p) := by
  unfold rekeyed
  (try dsimp only)
  repeat' first | split | (with_reducible refine canon_foldl _ ?_ _ _ ?_) | (with_reducible refine canon_foldl1 _ ?_ _ _ ?_) | (with_reducible refine canon_foldl2 _ ?_ _ _ ?_) | (with_reducible refine loaded_foldl _ ?_ _ _ ?_) | (with_reducible refine steps_foldl _ ?_ _ _ ?_) | (with_reducible refine runWord_canon _ _ _ ?_ ?_) | (with_reducible refine crossWord_canon _ _ _ ?_ ?_) | (with_reducible refine issue_canon _ _ _ _ ?_ ?_ ?_) | (with_reducible refine access_canon _ _ _ _ ?_ ?_ ?_) | (with_reducible refine bufAccess_canon _ _ _ _ ?_ ?_ ?_) | (with_reducible refine canon_getD ?_ ?_) | (intro _ _ _; try dsimp only) | (intro _ _; try dsimp only) | (intro _; try dsimp only)
  all_goals try simp (maxDischargeDepth := 20) +contextual [*]
@[simp] theorem zeroMeta_canon (s : State) (p : Part) (l : Fin 4) (e : DWord) (hs : Canon s) : Canon (zeroMeta s p l e) := by
  unfold zeroMeta
  extract_lets f key inside keep t u
  have ht : Canon t := rekeyed_canon _ _ _ hs
  refine inImages_canon (And.intro (memWf_filter ht.1 _) ht.2) (fun i hi => memWf_filter ?_ _)
  exact (rekeyed_canon _ _ _ (show Canon { s with mem := i.mem, lineKeys := i.lineKeys } from And.intro hi hs.2)).1

@[simp] theorem shootdown_canon (s : State) (part ia : Nat) (l : Fin 4) (e : DWord) (hs : Canon s) : OptC (shootdown s part ia l e) := by
  unfold shootdown
  split
  · exact answer_canon _ _ |>.2 hs
  · next p _ =>
    split
    · exact answer_canon _ _ |>.2 hs
    · split
      next k old _ =>
      extract_lets size lo hi leaf moved s1 s2 s3 served s4
      split
      · trivial
      · have h1 : Canon s1 := putEntry_canon _ _ _ _ _ hs
        have h2 : Canon s2 := by simp only [s2]; split <;> simp [h1]
        have h3 : Canon s3 := by simp only [s3]; split <;> simp [h2]
        have h4 : Canon s4 := canon_same h3 rfl rfl
        exact (answer_canon _ _).2 (signalCode_canon _ _ hs h4)

theorem execPageShootdown_canon (part : Nat) (ia : BitVec 52) (leaf : EntryWrite) (s : State) (hs : Canon s) : OutC (execPageShootdown part ia leaf s) :=
  served_canon _ _ _ (shootdown_canon _ _ _ _ _ hs) hs

@[simp] theorem forwardPage_canon (s : State) (part : Nat) (hs : Canon s) : Canon (forwardPage s part) := by
  unfold forwardPage
  (try dsimp only)
  repeat' first | split | (with_reducible refine canon_foldl _ ?_ _ _ ?_) | (with_reducible refine canon_foldl1 _ ?_ _ _ ?_) | (with_reducible refine canon_foldl2 _ ?_ _ _ ?_) | (with_reducible refine loaded_foldl _ ?_ _ _ ?_) | (with_reducible refine steps_foldl _ ?_ _ _ ?_) | (with_reducible refine runWord_canon _ _ _ ?_ ?_) | (with_reducible refine crossWord_canon _ _ _ ?_ ?_) | (with_reducible refine issue_canon _ _ _ _ ?_ ?_ ?_) | (with_reducible refine access_canon _ _ _ _ ?_ ?_ ?_) | (with_reducible refine bufAccess_canon _ _ _ _ ?_ ?_ ?_) | (with_reducible refine canon_getD ?_ ?_) | (intro _ _ _; try dsimp only) | (intro _ _; try dsimp only) | (intro _; try dsimp only)
  all_goals try simp (maxDischargeDepth := 20) +contextual [*]
theorem execPageRequestForward_canon (part : Nat) (s : State) (hs : Canon s) : OutC (execPageRequestForward part s) := by
  unfold execPageRequestForward
  (try dsimp only)
  repeat' first | split | (with_reducible refine canon_foldl _ ?_ _ _ ?_) | (with_reducible refine canon_foldl1 _ ?_ _ _ ?_) | (with_reducible refine canon_foldl2 _ ?_ _ _ ?_) | (with_reducible refine loaded_foldl _ ?_ _ _ ?_) | (with_reducible refine steps_foldl _ ?_ _ _ ?_) | (with_reducible refine runWord_canon _ _ _ ?_ ?_) | (with_reducible refine crossWord_canon _ _ _ ?_ ?_) | (with_reducible refine issue_canon _ _ _ _ ?_ ?_ ?_) | (with_reducible refine access_canon _ _ _ _ ?_ ?_ ?_) | (with_reducible refine bufAccess_canon _ _ _ _ ?_ ?_ ?_) | (with_reducible refine canon_getD ?_ ?_) | (intro _ _ _; try dsimp only) | (intro _ _; try dsimp only) | (intro _; try dsimp only)
  all_goals try simp (maxDischargeDepth := 20) +contextual [*]
@[simp] theorem frameBytesPut_canon (s : State) (g : Page) (a : Nat) (bs : List Byte) (hs : Canon s) : Canon (frameBytesPut s g a bs) := by
  refine canon_foldl _ (fun t q ht => ?_) _ _ hs
  have h1 := underKey_canon t (pageKey t g) (physIn g q.1) ht
  exact inImages_canon (And.intro (memWf_writeBytes h1.1 _ _) h1.2) (fun i hi => memWf_writeBytes hi _ _)
@[simp] theorem frameWordPut_canon (s : State) (g : Page) (a : Nat) (x : BitVec 16) (hs : Canon s) : Canon (frameWordPut s g a x) := by
  have h1 := underKey_canon s (pageKey s g) (physIn g a) hs
  exact inImages_canon (And.intro (memWf_writeN h1.1 _ _ _) h1.2) (fun i hi => memWf_writeN hi _ _ _)
@[simp] theorem fillFrame_canon (s : State) (part ia : Nat) (data : List Byte) (words : List (BitVec 16)) (hs : Canon s) : Canon (fillFrame s part ia data words) := by
  unfold fillFrame
  (try dsimp only)
  repeat' first | split | (with_reducible refine canon_foldl _ ?_ _ _ ?_) | (with_reducible refine canon_foldl1 _ ?_ _ _ ?_) | (with_reducible refine canon_foldl2 _ ?_ _ _ ?_) | (with_reducible refine loaded_foldl _ ?_ _ _ ?_) | (with_reducible refine steps_foldl _ ?_ _ _ ?_) | (with_reducible refine runWord_canon _ _ _ ?_ ?_) | (with_reducible refine crossWord_canon _ _ _ ?_ ?_) | (with_reducible refine issue_canon _ _ _ _ ?_ ?_ ?_) | (with_reducible refine access_canon _ _ _ _ ?_ ?_ ?_) | (with_reducible refine bufAccess_canon _ _ _ _ ?_ ?_ ?_) | (with_reducible refine canon_getD ?_ ?_) | (intro _ _ _; try dsimp only) | (intro _ _; try dsimp only) | (intro _; try dsimp only)
  all_goals try simp (maxDischargeDepth := 20) +contextual [*]
theorem execPagerFrameWrite_canon (part : Nat) (ia : BitVec 52) (data : List Byte) (words : List (BitVec 16)) (s : State) (hs : Canon s) : OutC (execPagerFrameWrite part ia data words s) := by
  unfold execPagerFrameWrite
  (try dsimp only)
  repeat' first | split | (with_reducible refine canon_foldl _ ?_ _ _ ?_) | (with_reducible refine canon_foldl1 _ ?_ _ _ ?_) | (with_reducible refine canon_foldl2 _ ?_ _ _ ?_) | (with_reducible refine loaded_foldl _ ?_ _ _ ?_) | (with_reducible refine steps_foldl _ ?_ _ _ ?_) | (with_reducible refine runWord_canon _ _ _ ?_ ?_) | (with_reducible refine crossWord_canon _ _ _ ?_ ?_) | (with_reducible refine issue_canon _ _ _ _ ?_ ?_ ?_) | (with_reducible refine access_canon _ _ _ _ ?_ ?_ ?_) | (with_reducible refine bufAccess_canon _ _ _ _ ?_ ?_ ?_) | (with_reducible refine canon_getD ?_ ?_) | (intro _ _ _; try dsimp only) | (intro _ _; try dsimp only) | (intro _; try dsimp only)
  all_goals try simp (maxDischargeDepth := 20) +contextual [*]
@[simp] theorem writeRangeReg_canon (s : State) (part : Nat) (i : Fin 16) (r : RangeReg) (hs : Canon s) : OptC (writeRangeReg s part i r) := by
  unfold writeRangeReg
  (try dsimp only)
  repeat' first | split | (with_reducible refine canon_foldl _ ?_ _ _ ?_) | (with_reducible refine canon_foldl1 _ ?_ _ _ ?_) | (with_reducible refine canon_foldl2 _ ?_ _ _ ?_) | (with_reducible refine loaded_foldl _ ?_ _ _ ?_) | (with_reducible refine steps_foldl _ ?_ _ _ ?_) | (with_reducible refine runWord_canon _ _ _ ?_ ?_) | (with_reducible refine crossWord_canon _ _ _ ?_ ?_) | (with_reducible refine issue_canon _ _ _ _ ?_ ?_ ?_) | (with_reducible refine access_canon _ _ _ _ ?_ ?_ ?_) | (with_reducible refine bufAccess_canon _ _ _ _ ?_ ?_ ?_) | (with_reducible refine canon_getD ?_ ?_) | (intro _ _ _; try dsimp only) | (intro _ _; try dsimp only) | (intro _; try dsimp only)
  all_goals try simp (maxDischargeDepth := 20) +contextual [*]
theorem execRangeRegisterWrite_canon (part : Nat) (i : Fin 16) (r : RangeReg) (s : State) (hs : Canon s) : OutC (execRangeRegisterWrite part i r s) :=
  served_canon _ _ _ (writeRangeReg_canon _ _ _ _ hs) hs

@[simp] theorem assignWindow_canon (s : State) (k : Nat) (owner : Option Nat) (exports : List Nat) (hs : Canon s) : OptC (assignWindow s k owner exports) := by
  unfold assignWindow
  (try dsimp only)
  repeat' first | split | (with_reducible refine canon_foldl _ ?_ _ _ ?_) | (with_reducible refine canon_foldl1 _ ?_ _ _ ?_) | (with_reducible refine canon_foldl2 _ ?_ _ _ ?_) | (with_reducible refine loaded_foldl _ ?_ _ _ ?_) | (with_reducible refine steps_foldl _ ?_ _ _ ?_) | (with_reducible refine runWord_canon _ _ _ ?_ ?_) | (with_reducible refine crossWord_canon _ _ _ ?_ ?_) | (with_reducible refine issue_canon _ _ _ _ ?_ ?_ ?_) | (with_reducible refine access_canon _ _ _ _ ?_ ?_ ?_) | (with_reducible refine bufAccess_canon _ _ _ _ ?_ ?_ ?_) | (with_reducible refine canon_getD ?_ ?_) | (intro _ _ _; try dsimp only) | (intro _ _; try dsimp only) | (intro _; try dsimp only)
  all_goals try simp (maxDischargeDepth := 20) +contextual [*]
theorem execWindowAssignment_canon (window : Nat) (owner : Option Nat) (exports : List Nat) (s : State) (hs : Canon s) : OutC (execWindowAssignment window owner exports s) :=
  served_canon _ _ _ (assignWindow_canon _ _ _ _ hs) hs

@[simp] theorem writeQueue_canon (s : State) (n : Nat) (d : QueueDesc) (hs : Canon s) : OptC (writeQueue s n d) := by
  unfold writeQueue
  (try dsimp only)
  repeat' first | split | (with_reducible refine canon_foldl _ ?_ _ _ ?_) | (with_reducible refine canon_foldl1 _ ?_ _ _ ?_) | (with_reducible refine canon_foldl2 _ ?_ _ _ ?_) | (with_reducible refine loaded_foldl _ ?_ _ _ ?_) | (with_reducible refine steps_foldl _ ?_ _ _ ?_) | (with_reducible refine runWord_canon _ _ _ ?_ ?_) | (with_reducible refine crossWord_canon _ _ _ ?_ ?_) | (with_reducible refine issue_canon _ _ _ _ ?_ ?_ ?_) | (with_reducible refine access_canon _ _ _ _ ?_ ?_ ?_) | (with_reducible refine bufAccess_canon _ _ _ _ ?_ ?_ ?_) | (with_reducible refine canon_getD ?_ ?_) | (intro _ _ _; try dsimp only) | (intro _ _; try dsimp only) | (intro _; try dsimp only)
  all_goals try simp (maxDischargeDepth := 20) +contextual [*]
theorem execQueueDescriptorWrite_canon (q : Nat) (r : QueueDesc) (s : State) (hs : Canon s) : OutC (execQueueDescriptorWrite q r s) :=
  served_canon _ _ _ (writeQueue_canon _ _ _ hs) hs

@[simp] theorem putBitmap_canon (s : State) (a : Nat) (x : BitVec 4096) (hs : Canon s) : Canon (putBitmap s a x) :=
  canon_foldl _ (fun _ _ ht => protectSet_canon _ _ _ ht) _ _ hs

@[simp] theorem dropTenant_canon (s : State) (t : Nat) (hs : Canon s) : Canon (dropTenant s t) := by
  unfold dropTenant
  extract_lets k cached s1
  have h1 : Canon s1 := l1Filter_canon _ _ hs
  exact inImages_canon (And.intro (memWf_filter h1.1 _) h1.2) (fun i hi => memWf_filter hi _)

@[simp] theorem removeTenant_canon (s : State) (t : Nat) (hs : Canon s) : OptC (removeTenant s t) := by
  unfold removeTenant
  repeat' split
  · exact (answer_canon _ _).2 hs
  · trivial
  · exact dropTenant_canon _ _ hs

theorem execTenantRemove_canon (t : Nat) (s : State) (hs : Canon s) : OutC (execTenantRemove t s) :=
  served_canon _ _ _ (removeTenant_canon _ _ hs) hs

@[simp] theorem fillSlot_canon (s : State) (k : Nat) (hs : Canon s) : Canon (fillSlot s k) := by
  unfold fillSlot
  (try dsimp only)
  repeat' first | split | (with_reducible refine canon_foldl _ ?_ _ _ ?_) | (with_reducible refine canon_foldl1 _ ?_ _ _ ?_) | (with_reducible refine canon_foldl2 _ ?_ _ _ ?_) | (with_reducible refine loaded_foldl _ ?_ _ _ ?_) | (with_reducible refine steps_foldl _ ?_ _ _ ?_) | (with_reducible refine runWord_canon _ _ _ ?_ ?_) | (with_reducible refine crossWord_canon _ _ _ ?_ ?_) | (with_reducible refine issue_canon _ _ _ _ ?_ ?_ ?_) | (with_reducible refine access_canon _ _ _ _ ?_ ?_ ?_) | (with_reducible refine bufAccess_canon _ _ _ _ ?_ ?_ ?_) | (with_reducible refine canon_getD ?_ ?_) | (intro _ _ _; try dsimp only) | (intro _ _; try dsimp only) | (intro _; try dsimp only)
  all_goals try simp (maxDischargeDepth := 20) +contextual [*]
@[simp] theorem putTenant_canon (s : State) (t : Nat) (w : TenantWrite) (hs : Canon s) : Canon (putTenant s t w) := by
  have h1 := putBitmap_canon s w.entry.qmap.toNat w.queues hs
  unfold putTenant
  generalize putBitmap s w.entry.qmap.toNat w.queues = s1 at h1 ⊢
  dsimp only
  split
  · exact canon_same h1 rfl rfl
  · unfold fillSlot
    exact canon_same h1 rfl rfl

@[simp] theorem writeTenant_canon (s : State) (t : Nat) (w : TenantWrite) (hs : Canon s) : OptC (writeTenant s t w) := by
  unfold writeTenant
  extract_lets r taken s1
  repeat' split
  · exact (answer_canon _ _).2 hs
  · trivial
  · exact putTenant_canon _ _ _ hs
  · have h1 : Canon s1 := by
      simp only [s1]
      split
      · exact dropTenant_canon _ _ hs
      · exact hs
    clear_value s1
    exact canon_same h1 rfl rfl

theorem execTenantTableWrite_canon (t : Nat) (r : TenantWrite) (s : State) (hs : Canon s) : OutC (execTenantTableWrite t r s) :=
  served_canon _ _ _ (writeTenant_canon _ _ _ hs) hs

@[simp] theorem writeRemote_canon (s : State) (t i : Nat) (r : RemoteEntry) (hs : Canon s) : OptC (writeRemote s t i r) := by
  unfold writeRemote
  (try dsimp only)
  repeat' first | split | (with_reducible refine canon_foldl _ ?_ _ _ ?_) | (with_reducible refine canon_foldl1 _ ?_ _ _ ?_) | (with_reducible refine canon_foldl2 _ ?_ _ _ ?_) | (with_reducible refine loaded_foldl _ ?_ _ _ ?_) | (with_reducible refine steps_foldl _ ?_ _ _ ?_) | (with_reducible refine runWord_canon _ _ _ ?_ ?_) | (with_reducible refine crossWord_canon _ _ _ ?_ ?_) | (with_reducible refine issue_canon _ _ _ _ ?_ ?_ ?_) | (with_reducible refine access_canon _ _ _ _ ?_ ?_ ?_) | (with_reducible refine bufAccess_canon _ _ _ _ ?_ ?_ ?_) | (with_reducible refine canon_getD ?_ ?_) | (intro _ _ _; try dsimp only) | (intro _ _; try dsimp only) | (intro _; try dsimp only)
  all_goals try simp (maxDischargeDepth := 20) +contextual [*]
theorem execRemoteTableWrite_canon (t i : Nat) (r : RemoteEntry) (s : State) (hs : Canon s) : OutC (execRemoteTableWrite t i r s) :=
  served_canon _ _ _ (writeRemote_canon _ _ _ _ hs) hs

@[simp] theorem followQuotas_canon (s : State) (t : Nat) (hs : Canon s) : Canon (followQuotas s t) := by
  unfold followQuotas
  (try dsimp only)
  repeat' first | split | (with_reducible refine canon_foldl _ ?_ _ _ ?_) | (with_reducible refine canon_foldl1 _ ?_ _ _ ?_) | (with_reducible refine canon_foldl2 _ ?_ _ _ ?_) | (with_reducible refine loaded_foldl _ ?_ _ _ ?_) | (with_reducible refine steps_foldl _ ?_ _ _ ?_) | (with_reducible refine runWord_canon _ _ _ ?_ ?_) | (with_reducible refine crossWord_canon _ _ _ ?_ ?_) | (with_reducible refine issue_canon _ _ _ _ ?_ ?_ ?_) | (with_reducible refine access_canon _ _ _ _ ?_ ?_ ?_) | (with_reducible refine bufAccess_canon _ _ _ _ ?_ ?_ ?_) | (with_reducible refine canon_getD ?_ ?_) | (intro _ _ _; try dsimp only) | (intro _ _; try dsimp only) | (intro _; try dsimp only)
  all_goals try simp (maxDischargeDepth := 20) +contextual [*]
@[simp] theorem writeQuota_canon (s : State) (t bank lines : Nat) (hs : Canon s) : Canon (writeQuota s t bank lines) := by
  unfold writeQuota
  (try dsimp only)
  repeat' first | split | (with_reducible refine canon_foldl _ ?_ _ _ ?_) | (with_reducible refine canon_foldl1 _ ?_ _ _ ?_) | (with_reducible refine canon_foldl2 _ ?_ _ _ ?_) | (with_reducible refine loaded_foldl _ ?_ _ _ ?_) | (with_reducible refine steps_foldl _ ?_ _ _ ?_) | (with_reducible refine runWord_canon _ _ _ ?_ ?_) | (with_reducible refine crossWord_canon _ _ _ ?_ ?_) | (with_reducible refine issue_canon _ _ _ _ ?_ ?_ ?_) | (with_reducible refine access_canon _ _ _ _ ?_ ?_ ?_) | (with_reducible refine bufAccess_canon _ _ _ _ ?_ ?_ ?_) | (with_reducible refine canon_getD ?_ ?_) | (intro _ _ _; try dsimp only) | (intro _ _; try dsimp only) | (intro _; try dsimp only)
  all_goals try simp (maxDischargeDepth := 20) +contextual [*]
theorem execQuotaWrite_canon (t bank lines : Nat) (s : State) (hs : Canon s) : OutC (execQuotaWrite t bank lines s) := by
  unfold execQuotaWrite
  (try dsimp only)
  repeat' first | split | (with_reducible refine canon_foldl _ ?_ _ _ ?_) | (with_reducible refine canon_foldl1 _ ?_ _ _ ?_) | (with_reducible refine canon_foldl2 _ ?_ _ _ ?_) | (with_reducible refine loaded_foldl _ ?_ _ _ ?_) | (with_reducible refine steps_foldl _ ?_ _ _ ?_) | (with_reducible refine runWord_canon _ _ _ ?_ ?_) | (with_reducible refine crossWord_canon _ _ _ ?_ ?_) | (with_reducible refine issue_canon _ _ _ _ ?_ ?_ ?_) | (with_reducible refine access_canon _ _ _ _ ?_ ?_ ?_) | (with_reducible refine bufAccess_canon _ _ _ _ ?_ ?_ ?_) | (with_reducible refine canon_getD ?_ ?_) | (intro _ _ _; try dsimp only) | (intro _ _; try dsimp only) | (intro _; try dsimp only)
  all_goals try simp (maxDischargeDepth := 20) +contextual [*]
@[simp] theorem restartCores_canon (s : State) (k : Nat) (hs : Canon s) : Canon (restartCores s k) := by
  unfold restartCores
  (try dsimp only)
  repeat' first | split | (refine canon_foldl _ ?_ _ _ ?_) | (refine canon_foldl1 _ ?_ _ _ ?_) | (refine canon_foldl2 _ ?_ _ _ ?_) | (refine loaded_foldl _ ?_ _ _ ?_) | (refine steps_foldl _ ?_ _ _ ?_) | (refine runWord_canon _ _ _ ?_ ?_) | (refine crossWord_canon _ _ _ ?_ ?_) | (refine issue_canon _ _ _ _ ?_ ?_ ?_) | (refine access_canon _ _ _ _ ?_ ?_ ?_) | (refine bufAccess_canon _ _ _ _ ?_ ?_ ?_) | (refine canon_getD ?_ ?_) | (intro _ _ _; try dsimp only) | (intro _ _; try dsimp only) | (intro _; try dsimp only)
  all_goals try simp (maxDischargeDepth := 20) +contextual [*]
@[simp] theorem takeFrames_canon (s : State) (d : PartDesc) (hs : Canon s) : Canon (takeFrames s d) := by
  unfold takeFrames
  (try dsimp only)
  repeat' first | split | (with_reducible refine canon_foldl _ ?_ _ _ ?_) | (with_reducible refine canon_foldl1 _ ?_ _ _ ?_) | (with_reducible refine canon_foldl2 _ ?_ _ _ ?_) | (with_reducible refine loaded_foldl _ ?_ _ _ ?_) | (with_reducible refine steps_foldl _ ?_ _ _ ?_) | (with_reducible refine runWord_canon _ _ _ ?_ ?_) | (with_reducible refine crossWord_canon _ _ _ ?_ ?_) | (with_reducible refine issue_canon _ _ _ _ ?_ ?_ ?_) | (with_reducible refine access_canon _ _ _ _ ?_ ?_ ?_) | (with_reducible refine bufAccess_canon _ _ _ _ ?_ ?_ ?_) | (with_reducible refine canon_getD ?_ ?_) | (intro _ _ _; try dsimp only) | (intro _ _; try dsimp only) | (intro _; try dsimp only)
  all_goals try simp (maxDischargeDepth := 20) +contextual [*]
@[simp] theorem definePart_canon (s : State) (n : Nat) (w : PartWrite) (hs : Canon s) : Canon (definePart s n w) := by
  unfold definePart
  refine canon_foldl _ (fun t k ht => restartCores_canon _ _ ht) _ _ (takeFrames_canon _ _ (And.intro hs.1 (fun i hi => ?_)))
  rcases List.mem_append.1 hi with h | h
  · exact hs.2 i (List.mem_filter.1 h).1
  · obtain rfl := List.mem_singleton.1 h
    exact hs.1

@[simp] theorem undefinePart_canon (s : State) (p : Part) (d : PartDesc) (hs : Canon s) : Canon (undefinePart s p d) := by
  unfold undefinePart
  exact canon_foldl _ (fun t k ht => restartCores_canon _ _ ht) _ _ (And.intro hs.1 (fun i hi => hs.2 i (List.mem_filter.1 hi).1))

@[simp] theorem writePart_canon (s : State) (n : Nat) (w : PartWrite) (hs : Canon s) : OptC (writePart s n w) := by
  unfold writePart
  extract_lets d
  split
  · exact (answer_canon _ _).2 hs
  · split
    · split
      · exact (optC_some _).2 (definePart_canon _ _ _ hs)
      · exact (optC_some _).2 (canon_same hs rfl rfl)
    · next p _ =>
      dsimp only
      repeat' split
      · trivial
      · exact (optC_some _).2 (undefinePart_canon _ _ _ hs)
      · trivial
      · refine (optC_some _).2 (canon_foldl _ (fun t k ht => restartCores_canon _ _ ht) _ _ (takeFrames_canon _ _ ?_))
        exact (modPart_canon _ _ _).2 hs

theorem execPartitionDescriptorWrite_canon (part : Nat) (r : PartWrite) (s : State) (hs : Canon s) : OutC (execPartitionDescriptorWrite part r s) :=
  served_canon _ _ _ (writePart_canon _ _ _ hs) hs

theorem execDebugInterceptSet_canon (part : Nat) (on : Bool) (s : State) (hs : Canon s) : OutC (execDebugInterceptSet part on s) := by
  unfold execDebugInterceptSet
  (try dsimp only)
  repeat' first | split | (with_reducible refine canon_foldl _ ?_ _ _ ?_) | (with_reducible refine canon_foldl1 _ ?_ _ _ ?_) | (with_reducible refine canon_foldl2 _ ?_ _ _ ?_) | (with_reducible refine loaded_foldl _ ?_ _ _ ?_) | (with_reducible refine steps_foldl _ ?_ _ _ ?_) | (with_reducible refine runWord_canon _ _ _ ?_ ?_) | (with_reducible refine crossWord_canon _ _ _ ?_ ?_) | (with_reducible refine issue_canon _ _ _ _ ?_ ?_ ?_) | (with_reducible refine access_canon _ _ _ _ ?_ ?_ ?_) | (with_reducible refine bufAccess_canon _ _ _ _ ?_ ?_ ?_) | (with_reducible refine canon_getD ?_ ?_) | (intro _ _ _; try dsimp only) | (intro _ _; try dsimp only) | (intro _; try dsimp only)
  all_goals try simp (maxDischargeDepth := 20) +contextual [*]
theorem execDieWatchEnable_canon (part : Nat) (on : Bool) (s : State) (hs : Canon s) : OutC (execDieWatchEnable part on s) := by
  unfold execDieWatchEnable
  (try dsimp only)
  repeat' first | split | (with_reducible refine canon_foldl _ ?_ _ _ ?_) | (with_reducible refine canon_foldl1 _ ?_ _ _ ?_) | (with_reducible refine canon_foldl2 _ ?_ _ _ ?_) | (with_reducible refine loaded_foldl _ ?_ _ _ ?_) | (with_reducible refine steps_foldl _ ?_ _ _ ?_) | (with_reducible refine runWord_canon _ _ _ ?_ ?_) | (with_reducible refine crossWord_canon _ _ _ ?_ ?_) | (with_reducible refine issue_canon _ _ _ _ ?_ ?_ ?_) | (with_reducible refine access_canon _ _ _ _ ?_ ?_ ?_) | (with_reducible refine bufAccess_canon _ _ _ _ ?_ ?_ ?_) | (with_reducible refine canon_getD ?_ ?_) | (intro _ _ _; try dsimp only) | (intro _ _; try dsimp only) | (intro _; try dsimp only)
  all_goals try simp (maxDischargeDepth := 20) +contextual [*]
@[simp] theorem saveBuckets_canon (s : State) (k : Nat) (hs : Canon s) : Canon (saveBuckets s k) := by
  unfold saveBuckets
  (try dsimp only)
  repeat' first | split | (with_reducible refine canon_foldl _ ?_ _ _ ?_) | (with_reducible refine canon_foldl1 _ ?_ _ _ ?_) | (with_reducible refine canon_foldl2 _ ?_ _ _ ?_) | (with_reducible refine loaded_foldl _ ?_ _ _ ?_) | (with_reducible refine steps_foldl _ ?_ _ _ ?_) | (with_reducible refine runWord_canon _ _ _ ?_ ?_) | (with_reducible refine crossWord_canon _ _ _ ?_ ?_) | (with_reducible refine issue_canon _ _ _ _ ?_ ?_ ?_) | (with_reducible refine access_canon _ _ _ _ ?_ ?_ ?_) | (with_reducible refine bufAccess_canon _ _ _ _ ?_ ?_ ?_) | (with_reducible refine canon_getD ?_ ?_) | (intro _ _ _; try dsimp only) | (intro _ _; try dsimp only) | (intro _; try dsimp only)
  all_goals try simp (maxDischargeDepth := 20) +contextual [*]
@[simp] theorem lend_canon (s : State) (lender borrower k : Nat) (hs : Canon s) : OptC (lend s lender borrower k) := by
  unfold lend
  split
  · split
    · simp [hs]
    · split
      · trivial
      · extract_lets gs s1 s2 s3
        have h1 : Canon s1 := saveBuckets_canon _ _ (canon_foldl _ (fun t g ht => signalGroup_canon _ _ (saveGroup_canon _ _ ht)) _ _ hs)
        have h2 : Canon s2 := (modPart_canon _ _ _).2 h1
        have h3 : Canon s3 := (modPart_canon _ _ _).2 h2
        clear_value s3
        exact (optC_some _).2 (restartCores_canon _ _ h3)
  · simp [hs]
theorem execClusterLend_canon (lender borrower cluster : Nat) (s : State) (hs : Canon s) : OutC (execClusterLend lender borrower cluster s) :=
  served_canon _ _ _ (lend_canon _ _ _ _ hs) hs

@[simp] theorem reclaim_canon (s : State) (lender k : Nat) (hs : Canon s) : OptC (reclaim s lender k) := by
  unfold reclaim
  split
  · simp [hs]
  · split
    · simp [hs]
    · split
      · trivial
      · extract_lets stood s1 s2 s3 s4
        have h1 : Canon s1 := saveBuckets_canon _ _ (rollback_canon _ _ hs)
        have h2 : Canon s2 := canon_foldl _ (fun t g ht => (modGroup_canon _ _ _).2 ht) _ _ h1
        have h3 : Canon s3 := (modPart_canon _ _ _).2 h2
        have h4 : Canon s4 := (modPart_canon _ _ _).2 h3
        clear_value s4
        exact (optC_some _).2 (restartCores_canon _ _ h4)
theorem execClusterReclaim_canon (lender cluster : Nat) (s : State) (hs : Canon s) : OutC (execClusterReclaim lender cluster s) :=
  served_canon _ _ _ (reclaim_canon _ _ _ hs) hs

@[simp] theorem attempt_canon (s : State) (i : Instr) (hs : Canon s) : OptC (attempt s i) := by
  unfold attempt
  (try dsimp only)
  repeat' first | split | (with_reducible refine canon_foldl _ ?_ _ _ ?_) | (with_reducible refine canon_foldl1 _ ?_ _ _ ?_) | (with_reducible refine canon_foldl2 _ ?_ _ _ ?_) | (with_reducible refine loaded_foldl _ ?_ _ _ ?_) | (with_reducible refine steps_foldl _ ?_ _ _ ?_) | (with_reducible refine runWord_canon _ _ _ ?_ ?_) | (with_reducible refine crossWord_canon _ _ _ ?_ ?_) | (with_reducible refine issue_canon _ _ _ _ ?_ ?_ ?_) | (with_reducible refine access_canon _ _ _ _ ?_ ?_ ?_) | (with_reducible refine bufAccess_canon _ _ _ _ ?_ ?_ ?_) | (with_reducible refine canon_getD ?_ ?_) | (intro _ _ _; try dsimp only) | (intro _ _; try dsimp only) | (intro _; try dsimp only)
  all_goals try simp (maxDischargeDepth := 20) +contextual [*]
@[simp] theorem takeRequest_canon (s : State) (i : Instr) (hs : Canon s) : Canon (takeRequest s i) := by
  unfold takeRequest
  (try dsimp only)
  repeat' first | split | (with_reducible refine canon_foldl _ ?_ _ _ ?_) | (with_reducible refine canon_foldl1 _ ?_ _ _ ?_) | (with_reducible refine canon_foldl2 _ ?_ _ _ ?_) | (with_reducible refine loaded_foldl _ ?_ _ _ ?_) | (with_reducible refine steps_foldl _ ?_ _ _ ?_) | (with_reducible refine runWord_canon _ _ _ ?_ ?_) | (with_reducible refine crossWord_canon _ _ _ ?_ ?_) | (with_reducible refine issue_canon _ _ _ _ ?_ ?_ ?_) | (with_reducible refine access_canon _ _ _ _ ?_ ?_ ?_) | (with_reducible refine bufAccess_canon _ _ _ _ ?_ ?_ ?_) | (with_reducible refine canon_getD ?_ ?_) | (intro _ _ _; try dsimp only) | (intro _ _; try dsimp only) | (intro _; try dsimp only)
  all_goals try simp (maxDischargeDepth := 20) +contextual [*]

/-! ### Debugger -/

@[simp] theorem skidRecord_canon (s : State) (part : Nat) (k : Skid) (hs : Canon s) : Canon (skidRecord s part k) := by
  unfold skidRecord
  (try dsimp only)
  repeat' first | split | (with_reducible refine canon_foldl _ ?_ _ _ ?_) | (with_reducible refine canon_foldl1 _ ?_ _ _ ?_) | (with_reducible refine canon_foldl2 _ ?_ _ _ ?_) | (with_reducible refine loaded_foldl _ ?_ _ _ ?_) | (with_reducible refine steps_foldl _ ?_ _ _ ?_) | (with_reducible refine runWord_canon _ _ _ ?_ ?_) | (with_reducible refine crossWord_canon _ _ _ ?_ ?_) | (with_reducible refine issue_canon _ _ _ _ ?_ ?_ ?_) | (with_reducible refine access_canon _ _ _ _ ?_ ?_ ?_) | (with_reducible refine bufAccess_canon _ _ _ _ ?_ ?_ ?_) | (with_reducible refine canon_getD ?_ ?_) | (intro _ _ _; try dsimp only) | (intro _ _; try dsimp only) | (intro _; try dsimp only)
  all_goals try simp (maxDischargeDepth := 20) +contextual [*]
@[simp] theorem freezeTree_canon (s : State) (die cluster : Nat) (hs : Canon s) : Canon (freezeTree s die cluster) := by
  unfold freezeTree
  (try dsimp only)
  repeat' first | split | (with_reducible refine canon_foldl _ ?_ _ _ ?_) | (with_reducible refine canon_foldl1 _ ?_ _ _ ?_) | (with_reducible refine canon_foldl2 _ ?_ _ _ ?_) | (with_reducible refine loaded_foldl _ ?_ _ _ ?_) | (with_reducible refine steps_foldl _ ?_ _ _ ?_) | (with_reducible refine runWord_canon _ _ _ ?_ ?_) | (with_reducible refine crossWord_canon _ _ _ ?_ ?_) | (with_reducible refine issue_canon _ _ _ _ ?_ ?_ ?_) | (with_reducible refine access_canon _ _ _ _ ?_ ?_ ?_) | (with_reducible refine bufAccess_canon _ _ _ _ ?_ ?_ ?_) | (with_reducible refine canon_getD ?_ ?_) | (intro _ _ _; try dsimp only) | (intro _ _; try dsimp only) | (intro _; try dsimp only)
  all_goals try simp (maxDischargeDepth := 20) +contextual [*]
@[simp] theorem thawTree_canon (s : State) (die cluster : Nat) (hs : Canon s) : Canon (thawTree s die cluster) := by
  unfold thawTree
  (try dsimp only)
  repeat' first | split | (with_reducible refine canon_foldl _ ?_ _ _ ?_) | (with_reducible refine canon_foldl1 _ ?_ _ _ ?_) | (with_reducible refine canon_foldl2 _ ?_ _ _ ?_) | (with_reducible refine loaded_foldl _ ?_ _ _ ?_) | (with_reducible refine steps_foldl _ ?_ _ _ ?_) | (with_reducible refine runWord_canon _ _ _ ?_ ?_) | (with_reducible refine crossWord_canon _ _ _ ?_ ?_) | (with_reducible refine issue_canon _ _ _ _ ?_ ?_ ?_) | (with_reducible refine access_canon _ _ _ _ ?_ ?_ ?_) | (with_reducible refine bufAccess_canon _ _ _ _ ?_ ?_ ?_) | (with_reducible refine canon_getD ?_ ?_) | (intro _ _ _; try dsimp only) | (intro _ _; try dsimp only) | (intro _; try dsimp only)
  all_goals try simp (maxDischargeDepth := 20) +contextual [*]
@[simp] theorem stopCluster_canon (s : State) (q : StopReq) (hs : Canon s) : Canon (stopCluster s q) := by
  unfold stopCluster
  (try dsimp only)
  repeat' first | split | (with_reducible refine canon_foldl _ ?_ _ _ ?_) | (with_reducible refine canon_foldl1 _ ?_ _ _ ?_) | (with_reducible refine canon_foldl2 _ ?_ _ _ ?_) | (with_reducible refine loaded_foldl _ ?_ _ _ ?_) | (with_reducible refine steps_foldl _ ?_ _ _ ?_) | (with_reducible refine runWord_canon _ _ _ ?_ ?_) | (with_reducible refine crossWord_canon _ _ _ ?_ ?_) | (with_reducible refine issue_canon _ _ _ _ ?_ ?_ ?_) | (with_reducible refine access_canon _ _ _ _ ?_ ?_ ?_) | (with_reducible refine bufAccess_canon _ _ _ _ ?_ ?_ ?_) | (with_reducible refine canon_getD ?_ ?_) | (intro _ _ _; try dsimp only) | (intro _ _; try dsimp only) | (intro _; try dsimp only)
  all_goals try simp (maxDischargeDepth := 20) +contextual [*]
theorem execClusterStop_canon (n : Nat) (s : State) (hs : Canon s) : OutC (execClusterStop n s) := by
  unfold execClusterStop
  (try dsimp only)
  repeat' first | split | (with_reducible refine canon_foldl _ ?_ _ _ ?_) | (with_reducible refine canon_foldl1 _ ?_ _ _ ?_) | (with_reducible refine canon_foldl2 _ ?_ _ _ ?_) | (with_reducible refine loaded_foldl _ ?_ _ _ ?_) | (with_reducible refine steps_foldl _ ?_ _ _ ?_) | (with_reducible refine runWord_canon _ _ _ ?_ ?_) | (with_reducible refine crossWord_canon _ _ _ ?_ ?_) | (with_reducible refine issue_canon _ _ _ _ ?_ ?_ ?_) | (with_reducible refine access_canon _ _ _ _ ?_ ?_ ?_) | (with_reducible refine bufAccess_canon _ _ _ _ ?_ ?_ ?_) | (with_reducible refine canon_getD ?_ ?_) | (intro _ _ _; try dsimp only) | (intro _ _; try dsimp only) | (intro _; try dsimp only)
  all_goals try simp (maxDischargeDepth := 20) +contextual [*]
theorem execSweoloStopRequest_canon (die cluster : Nat) (s : State) (hs : Canon s) : OutC (execSweoloStopRequest die cluster s) := by
  unfold execSweoloStopRequest
  (try dsimp only)
  repeat' first | split | (with_reducible refine canon_foldl _ ?_ _ _ ?_) | (with_reducible refine canon_foldl1 _ ?_ _ _ ?_) | (with_reducible refine canon_foldl2 _ ?_ _ _ ?_) | (with_reducible refine loaded_foldl _ ?_ _ _ ?_) | (with_reducible refine steps_foldl _ ?_ _ _ ?_) | (with_reducible refine runWord_canon _ _ _ ?_ ?_) | (with_reducible refine crossWord_canon _ _ _ ?_ ?_) | (with_reducible refine issue_canon _ _ _ _ ?_ ?_ ?_) | (with_reducible refine access_canon _ _ _ _ ?_ ?_ ?_) | (with_reducible refine bufAccess_canon _ _ _ _ ?_ ?_ ?_) | (with_reducible refine canon_getD ?_ ?_) | (intro _ _ _; try dsimp only) | (intro _ _; try dsimp only) | (intro _; try dsimp only)
  all_goals try simp (maxDischargeDepth := 20) +contextual [*]
theorem execClusterResume_canon (die cluster : Nat) (s : State) (hs : Canon s) : OutC (execClusterResume die cluster s) := by
  unfold execClusterResume
  (try dsimp only)
  repeat' first | split | (with_reducible refine canon_foldl _ ?_ _ _ ?_) | (with_reducible refine canon_foldl1 _ ?_ _ _ ?_) | (with_reducible refine canon_foldl2 _ ?_ _ _ ?_) | (with_reducible refine loaded_foldl _ ?_ _ _ ?_) | (with_reducible refine steps_foldl _ ?_ _ _ ?_) | (with_reducible refine runWord_canon _ _ _ ?_ ?_) | (with_reducible refine crossWord_canon _ _ _ ?_ ?_) | (with_reducible refine issue_canon _ _ _ _ ?_ ?_ ?_) | (with_reducible refine access_canon _ _ _ _ ?_ ?_ ?_) | (with_reducible refine bufAccess_canon _ _ _ _ ?_ ?_ ?_) | (with_reducible refine canon_getD ?_ ?_) | (intro _ _ _; try dsimp only) | (intro _ _; try dsimp only) | (intro _; try dsimp only)
  all_goals try simp (maxDischargeDepth := 20) +contextual [*]
@[simp] theorem stepForSweolo_canon (s : State) (wid : Nat) (hs : Canon s) : Canon (stepForSweolo s wid) := by
  unfold stepForSweolo
  (try dsimp only)
  repeat' first | split | (with_reducible refine canon_foldl _ ?_ _ _ ?_) | (with_reducible refine canon_foldl1 _ ?_ _ _ ?_) | (with_reducible refine canon_foldl2 _ ?_ _ _ ?_) | (with_reducible refine loaded_foldl _ ?_ _ _ ?_) | (with_reducible refine steps_foldl _ ?_ _ _ ?_) | (with_reducible refine runWord_canon _ _ _ ?_ ?_) | (with_reducible refine crossWord_canon _ _ _ ?_ ?_) | (with_reducible refine issue_canon _ _ _ _ ?_ ?_ ?_) | (with_reducible refine access_canon _ _ _ _ ?_ ?_ ?_) | (with_reducible refine bufAccess_canon _ _ _ _ ?_ ?_ ?_) | (with_reducible refine canon_getD ?_ ?_) | (intro _ _ _; try dsimp only) | (intro _ _; try dsimp only) | (intro _; try dsimp only)
  all_goals try simp (maxDischargeDepth := 20) +contextual [*]
theorem execSweoloStep_canon (wave : Nat) (s : State) (hs : Canon s) : OutC (execSweoloStep wave s) := by
  unfold execSweoloStep
  (try dsimp only)
  repeat' first | split | (with_reducible refine canon_foldl _ ?_ _ _ ?_) | (with_reducible refine canon_foldl1 _ ?_ _ _ ?_) | (with_reducible refine canon_foldl2 _ ?_ _ _ ?_) | (with_reducible refine loaded_foldl _ ?_ _ _ ?_) | (with_reducible refine steps_foldl _ ?_ _ _ ?_) | (with_reducible refine runWord_canon _ _ _ ?_ ?_) | (with_reducible refine crossWord_canon _ _ _ ?_ ?_) | (with_reducible refine issue_canon _ _ _ _ ?_ ?_ ?_) | (with_reducible refine access_canon _ _ _ _ ?_ ?_ ?_) | (with_reducible refine bufAccess_canon _ _ _ _ ?_ ?_ ?_) | (with_reducible refine canon_getD ?_ ?_) | (intro _ _ _; try dsimp only) | (intro _ _; try dsimp only) | (intro _; try dsimp only)
  all_goals try simp (maxDischargeDepth := 20) +contextual [*]
theorem execWaveDump_canon (wave : Nat) (s : State) (hs : Canon s) : OutC (execWaveDump wave s) := by
  unfold execWaveDump
  (try dsimp only)
  repeat' first | split | (with_reducible refine canon_foldl _ ?_ _ _ ?_) | (with_reducible refine canon_foldl1 _ ?_ _ _ ?_) | (with_reducible refine canon_foldl2 _ ?_ _ _ ?_) | (with_reducible refine loaded_foldl _ ?_ _ _ ?_) | (with_reducible refine steps_foldl _ ?_ _ _ ?_) | (with_reducible refine runWord_canon _ _ _ ?_ ?_) | (with_reducible refine crossWord_canon _ _ _ ?_ ?_) | (with_reducible refine issue_canon _ _ _ _ ?_ ?_ ?_) | (with_reducible refine access_canon _ _ _ _ ?_ ?_ ?_) | (with_reducible refine bufAccess_canon _ _ _ _ ?_ ?_ ?_) | (with_reducible refine canon_getD ?_ ?_) | (intro _ _ _; try dsimp only) | (intro _ _; try dsimp only) | (intro _; try dsimp only)
  all_goals try simp (maxDischargeDepth := 20) +contextual [*]
@[simp] theorem clockRecord_canon (s : State) (die kind cause : Nat) (hs : Canon s) : Canon (clockRecord s die kind cause) := by
  unfold clockRecord
  (try dsimp only)
  repeat' first | split | (with_reducible refine canon_foldl _ ?_ _ _ ?_) | (with_reducible refine canon_foldl1 _ ?_ _ _ ?_) | (with_reducible refine canon_foldl2 _ ?_ _ _ ?_) | (with_reducible refine loaded_foldl _ ?_ _ _ ?_) | (with_reducible refine steps_foldl _ ?_ _ _ ?_) | (with_reducible refine runWord_canon _ _ _ ?_ ?_) | (with_reducible refine crossWord_canon _ _ _ ?_ ?_) | (with_reducible refine issue_canon _ _ _ _ ?_ ?_ ?_) | (with_reducible refine access_canon _ _ _ _ ?_ ?_ ?_) | (with_reducible refine bufAccess_canon _ _ _ _ ?_ ?_ ?_) | (with_reducible refine canon_getD ?_ ?_) | (intro _ _ _; try dsimp only) | (intro _ _; try dsimp only) | (intro _; try dsimp only)
  all_goals try simp (maxDischargeDepth := 20) +contextual [*]
@[simp] theorem releaseLock_canon (s : State) (part : Nat) (hs : Canon s) : Canon (releaseLock s part) := by
  unfold releaseLock
  (try dsimp only)
  repeat' first | split | (refine canon_foldl _ ?_ _ _ ?_) | (refine canon_foldl1 _ ?_ _ _ ?_) | (refine canon_foldl2 _ ?_ _ _ ?_) | (refine loaded_foldl _ ?_ _ _ ?_) | (refine steps_foldl _ ?_ _ _ ?_) | (refine runWord_canon _ _ _ ?_ ?_) | (refine crossWord_canon _ _ _ ?_ ?_) | (refine issue_canon _ _ _ _ ?_ ?_ ?_) | (refine access_canon _ _ _ _ ?_ ?_ ?_) | (refine bufAccess_canon _ _ _ _ ?_ ?_ ?_) | (refine canon_getD ?_ ?_) | (intro _ _ _; try dsimp only) | (intro _ _; try dsimp only) | (intro _; try dsimp only)
  all_goals try simp (maxDischargeDepth := 20) +contextual [*]
@[simp] theorem lockDie_canon (s : State) (d : Nat) (pt : Fin 8) (hs : Canon s) : Canon (lockDie s d pt) := by
  unfold lockDie
  (try dsimp only)
  repeat' first | split | (with_reducible refine canon_foldl _ ?_ _ _ ?_) | (with_reducible refine canon_foldl1 _ ?_ _ _ ?_) | (with_reducible refine canon_foldl2 _ ?_ _ _ ?_) | (with_reducible refine loaded_foldl _ ?_ _ _ ?_) | (with_reducible refine steps_foldl _ ?_ _ _ ?_) | (with_reducible refine runWord_canon _ _ _ ?_ ?_) | (with_reducible refine crossWord_canon _ _ _ ?_ ?_) | (with_reducible refine issue_canon _ _ _ _ ?_ ?_ ?_) | (with_reducible refine access_canon _ _ _ _ ?_ ?_ ?_) | (with_reducible refine bufAccess_canon _ _ _ _ ?_ ?_ ?_) | (with_reducible refine canon_getD ?_ ?_) | (intro _ _ _; try dsimp only) | (intro _ _; try dsimp only) | (intro _; try dsimp only)
  all_goals try simp (maxDischargeDepth := 20) +contextual [*]
@[simp] theorem lockClock_canon (s : State) (part : Nat) (pt : Fin 8) (hs : Canon s) : Canon (lockClock s part pt) := by
  unfold lockClock
  (try dsimp only)
  repeat' first | split | (with_reducible refine canon_foldl _ ?_ _ _ ?_) | (with_reducible refine canon_foldl1 _ ?_ _ _ ?_) | (with_reducible refine canon_foldl2 _ ?_ _ _ ?_) | (with_reducible refine loaded_foldl _ ?_ _ _ ?_) | (with_reducible refine steps_foldl _ ?_ _ _ ?_) | (with_reducible refine runWord_canon _ _ _ ?_ ?_) | (with_reducible refine crossWord_canon _ _ _ ?_ ?_) | (with_reducible refine issue_canon _ _ _ _ ?_ ?_ ?_) | (with_reducible refine access_canon _ _ _ _ ?_ ?_ ?_) | (with_reducible refine bufAccess_canon _ _ _ _ ?_ ?_ ?_) | (with_reducible refine canon_getD ?_ ?_) | (intro _ _ _; try dsimp only) | (intro _ _; try dsimp only) | (intro _; try dsimp only)
  all_goals try simp (maxDischargeDepth := 20) +contextual [*]
theorem execClockLock_canon (part : Nat) (point : Fin 8) (s : State) (hs : Canon s) : OutC (execClockLock part point s) := by
  unfold execClockLock
  (try dsimp only)
  repeat' first | split | (with_reducible refine canon_foldl _ ?_ _ _ ?_) | (with_reducible refine canon_foldl1 _ ?_ _ _ ?_) | (with_reducible refine canon_foldl2 _ ?_ _ _ ?_) | (with_reducible refine loaded_foldl _ ?_ _ _ ?_) | (with_reducible refine steps_foldl _ ?_ _ _ ?_) | (with_reducible refine runWord_canon _ _ _ ?_ ?_) | (with_reducible refine crossWord_canon _ _ _ ?_ ?_) | (with_reducible refine issue_canon _ _ _ _ ?_ ?_ ?_) | (with_reducible refine access_canon _ _ _ _ ?_ ?_ ?_) | (with_reducible refine bufAccess_canon _ _ _ _ ?_ ?_ ?_) | (with_reducible refine canon_getD ?_ ?_) | (intro _ _ _; try dsimp only) | (intro _ _; try dsimp only) | (intro _; try dsimp only)
  all_goals try simp (maxDischargeDepth := 20) +contextual [*]
theorem execClockRelease_canon (part : Nat) (s : State) (hs : Canon s) : OutC (execClockRelease part s) := by
  unfold execClockRelease
  (try dsimp only)
  repeat' first | split | (with_reducible refine canon_foldl _ ?_ _ _ ?_) | (with_reducible refine canon_foldl1 _ ?_ _ _ ?_) | (with_reducible refine canon_foldl2 _ ?_ _ _ ?_) | (with_reducible refine loaded_foldl _ ?_ _ _ ?_) | (with_reducible refine steps_foldl _ ?_ _ _ ?_) | (with_reducible refine runWord_canon _ _ _ ?_ ?_) | (with_reducible refine crossWord_canon _ _ _ ?_ ?_) | (with_reducible refine issue_canon _ _ _ _ ?_ ?_ ?_) | (with_reducible refine access_canon _ _ _ _ ?_ ?_ ?_) | (with_reducible refine bufAccess_canon _ _ _ _ ?_ ?_ ?_) | (with_reducible refine canon_getD ?_ ?_) | (intro _ _ _; try dsimp only) | (intro _ _; try dsimp only) | (intro _; try dsimp only)
  all_goals try simp (maxDischargeDepth := 20) +contextual [*]
theorem execClockBreak_canon (die : Nat) (cause : BreakCause) (found : Forecast) (s : State) (hs : Canon s) : OutC (execClockBreak die cause found s) := by
  unfold execClockBreak
  (try dsimp only)
  repeat' first | split | (with_reducible refine canon_foldl _ ?_ _ _ ?_) | (with_reducible refine canon_foldl1 _ ?_ _ _ ?_) | (with_reducible refine canon_foldl2 _ ?_ _ _ ?_) | (with_reducible refine loaded_foldl _ ?_ _ _ ?_) | (with_reducible refine steps_foldl _ ?_ _ _ ?_) | (with_reducible refine runWord_canon _ _ _ ?_ ?_) | (with_reducible refine crossWord_canon _ _ _ ?_ ?_) | (with_reducible refine issue_canon _ _ _ _ ?_ ?_ ?_) | (with_reducible refine access_canon _ _ _ _ ?_ ?_ ?_) | (with_reducible refine bufAccess_canon _ _ _ _ ?_ ?_ ?_) | (with_reducible refine canon_getD ?_ ?_) | (intro _ _ _; try dsimp only) | (intro _ _; try dsimp only) | (intro _; try dsimp only)
  all_goals try simp (maxDischargeDepth := 20) +contextual [*]
theorem execClockRestore_canon (die : Nat) (s : State) (hs : Canon s) : OutC (execClockRestore die s) := by
  unfold execClockRestore
  (try dsimp only)
  repeat' first | split | (with_reducible refine canon_foldl _ ?_ _ _ ?_) | (with_reducible refine canon_foldl1 _ ?_ _ _ ?_) | (with_reducible refine canon_foldl2 _ ?_ _ _ ?_) | (with_reducible refine loaded_foldl _ ?_ _ _ ?_) | (with_reducible refine steps_foldl _ ?_ _ _ ?_) | (with_reducible refine runWord_canon _ _ _ ?_ ?_) | (with_reducible refine crossWord_canon _ _ _ ?_ ?_) | (with_reducible refine issue_canon _ _ _ _ ?_ ?_ ?_) | (with_reducible refine access_canon _ _ _ _ ?_ ?_ ?_) | (with_reducible refine bufAccess_canon _ _ _ _ ?_ ?_ ?_) | (with_reducible refine canon_getD ?_ ?_) | (intro _ _ _; try dsimp only) | (intro _ _; try dsimp only) | (intro _; try dsimp only)
  all_goals try simp (maxDischargeDepth := 20) +contextual [*]
@[simp] theorem openSession_canon (s : State) (part bytes : Nat) (period : Option Nat) (mgmt : Bool) (hs : Canon s) : Canon (openSession s part bytes period mgmt) := by
  unfold openSession
  (try dsimp only)
  repeat' first | split | (with_reducible refine canon_foldl _ ?_ _ _ ?_) | (with_reducible refine canon_foldl1 _ ?_ _ _ ?_) | (with_reducible refine canon_foldl2 _ ?_ _ _ ?_) | (with_reducible refine loaded_foldl _ ?_ _ _ ?_) | (with_reducible refine steps_foldl _ ?_ _ _ ?_) | (with_reducible refine runWord_canon _ _ _ ?_ ?_) | (with_reducible refine crossWord_canon _ _ _ ?_ ?_) | (with_reducible refine issue_canon _ _ _ _ ?_ ?_ ?_) | (with_reducible refine access_canon _ _ _ _ ?_ ?_ ?_) | (with_reducible refine bufAccess_canon _ _ _ _ ?_ ?_ ?_) | (with_reducible refine canon_getD ?_ ?_) | (intro _ _ _; try dsimp only) | (intro _ _; try dsimp only) | (intro _; try dsimp only)
  all_goals try simp (maxDischargeDepth := 20) +contextual [*]
theorem execTraceSessionOpen_canon (part bytes : Nat) (ask : SessionAsk) (s : State) (hs : Canon s) : OutC (execTraceSessionOpen part bytes ask s) := by
  unfold execTraceSessionOpen
  (try dsimp only)
  repeat' first | split | (with_reducible refine canon_foldl _ ?_ _ _ ?_) | (with_reducible refine canon_foldl1 _ ?_ _ _ ?_) | (with_reducible refine canon_foldl2 _ ?_ _ _ ?_) | (with_reducible refine loaded_foldl _ ?_ _ _ ?_) | (with_reducible refine steps_foldl _ ?_ _ _ ?_) | (with_reducible refine runWord_canon _ _ _ ?_ ?_) | (with_reducible refine crossWord_canon _ _ _ ?_ ?_) | (with_reducible refine issue_canon _ _ _ _ ?_ ?_ ?_) | (with_reducible refine access_canon _ _ _ _ ?_ ?_ ?_) | (with_reducible refine bufAccess_canon _ _ _ _ ?_ ?_ ?_) | (with_reducible refine canon_getD ?_ ?_) | (intro _ _ _; try dsimp only) | (intro _ _; try dsimp only) | (intro _; try dsimp only)
  all_goals try simp (maxDischargeDepth := 20) +contextual [*]
theorem execTraceSessionClose_canon (part : Nat) (s : State) (hs : Canon s) : OutC (execTraceSessionClose part s) := by
  unfold execTraceSessionClose
  (try dsimp only)
  repeat' first | split | (with_reducible refine canon_foldl _ ?_ _ _ ?_) | (with_reducible refine canon_foldl1 _ ?_ _ _ ?_) | (with_reducible refine canon_foldl2 _ ?_ _ _ ?_) | (with_reducible refine loaded_foldl _ ?_ _ _ ?_) | (with_reducible refine steps_foldl _ ?_ _ _ ?_) | (with_reducible refine runWord_canon _ _ _ ?_ ?_) | (with_reducible refine crossWord_canon _ _ _ ?_ ?_) | (with_reducible refine issue_canon _ _ _ _ ?_ ?_ ?_) | (with_reducible refine access_canon _ _ _ _ ?_ ?_ ?_) | (with_reducible refine bufAccess_canon _ _ _ _ ?_ ?_ ?_) | (with_reducible refine canon_getD ?_ ?_) | (intro _ _ _; try dsimp only) | (intro _ _; try dsimp only) | (intro _; try dsimp only)
  all_goals try simp (maxDischargeDepth := 20) +contextual [*]
theorem execTraceAck_canon (part n : Nat) (s : State) (hs : Canon s) : OutC (execTraceAck part n s) := by
  unfold execTraceAck
  (try dsimp only)
  repeat' first | split | (with_reducible refine canon_foldl _ ?_ _ _ ?_) | (with_reducible refine canon_foldl1 _ ?_ _ _ ?_) | (with_reducible refine canon_foldl2 _ ?_ _ _ ?_) | (with_reducible refine loaded_foldl _ ?_ _ _ ?_) | (with_reducible refine steps_foldl _ ?_ _ _ ?_) | (with_reducible refine runWord_canon _ _ _ ?_ ?_) | (with_reducible refine crossWord_canon _ _ _ ?_ ?_) | (with_reducible refine issue_canon _ _ _ _ ?_ ?_ ?_) | (with_reducible refine access_canon _ _ _ _ ?_ ?_ ?_) | (with_reducible refine bufAccess_canon _ _ _ _ ?_ ?_ ?_) | (with_reducible refine canon_getD ?_ ?_) | (intro _ _ _; try dsimp only) | (intro _ _; try dsimp only) | (intro _; try dsimp only)
  all_goals try simp (maxDischargeDepth := 20) +contextual [*]
@[simp] theorem sampleCore_canon (s : State) (die core : Nat) (hs : Canon s) : Canon (sampleCore s die core) := by
  unfold sampleCore
  (try dsimp only)
  repeat' first | split | (with_reducible refine canon_foldl _ ?_ _ _ ?_) | (with_reducible refine canon_foldl1 _ ?_ _ _ ?_) | (with_reducible refine canon_foldl2 _ ?_ _ _ ?_) | (with_reducible refine loaded_foldl _ ?_ _ _ ?_) | (with_reducible refine steps_foldl _ ?_ _ _ ?_) | (with_reducible refine runWord_canon _ _ _ ?_ ?_) | (with_reducible refine crossWord_canon _ _ _ ?_ ?_) | (with_reducible refine issue_canon _ _ _ _ ?_ ?_ ?_) | (with_reducible refine access_canon _ _ _ _ ?_ ?_ ?_) | (with_reducible refine bufAccess_canon _ _ _ _ ?_ ?_ ?_) | (with_reducible refine canon_getD ?_ ?_) | (intro _ _ _; try dsimp only) | (intro _ _; try dsimp only) | (intro _; try dsimp only)
  all_goals try simp (maxDischargeDepth := 20) +contextual [*]
theorem execSample_canon (die core : Nat) (s : State) (hs : Canon s) : OutC (execSample die core s) := by
  unfold execSample
  (try dsimp only)
  repeat' first | split | (with_reducible refine canon_foldl _ ?_ _ _ ?_) | (with_reducible refine canon_foldl1 _ ?_ _ _ ?_) | (with_reducible refine canon_foldl2 _ ?_ _ _ ?_) | (with_reducible refine loaded_foldl _ ?_ _ _ ?_) | (with_reducible refine steps_foldl _ ?_ _ _ ?_) | (with_reducible refine runWord_canon _ _ _ ?_ ?_) | (with_reducible refine crossWord_canon _ _ _ ?_ ?_) | (with_reducible refine issue_canon _ _ _ _ ?_ ?_ ?_) | (with_reducible refine access_canon _ _ _ _ ?_ ?_ ?_) | (with_reducible refine bufAccess_canon _ _ _ _ ?_ ?_ ?_) | (with_reducible refine canon_getD ?_ ?_) | (intro _ _ _; try dsimp only) | (intro _ _; try dsimp only) | (intro _; try dsimp only)
  all_goals try simp (maxDischargeDepth := 20) +contextual [*]
@[simp] theorem snapshotTree_canon (s : State) (part die core : Nat) (hs : Canon s) : Canon (snapshotTree s part die core) := by
  unfold snapshotTree
  (try dsimp only)
  repeat' first | split | (with_reducible refine canon_foldl _ ?_ _ _ ?_) | (with_reducible refine canon_foldl1 _ ?_ _ _ ?_) | (with_reducible refine canon_foldl2 _ ?_ _ _ ?_) | (with_reducible refine loaded_foldl _ ?_ _ _ ?_) | (with_reducible refine steps_foldl _ ?_ _ _ ?_) | (with_reducible refine runWord_canon _ _ _ ?_ ?_) | (with_reducible refine crossWord_canon _ _ _ ?_ ?_) | (with_reducible refine issue_canon _ _ _ _ ?_ ?_ ?_) | (with_reducible refine access_canon _ _ _ _ ?_ ?_ ?_) | (with_reducible refine bufAccess_canon _ _ _ _ ?_ ?_ ?_) | (with_reducible refine canon_getD ?_ ?_) | (intro _ _ _; try dsimp only) | (intro _ _; try dsimp only) | (intro _; try dsimp only)
  all_goals try simp (maxDischargeDepth := 20) +contextual [*]
theorem execTreeSnapshot_canon (part die core : Nat) (s : State) (hs : Canon s) : OutC (execTreeSnapshot part die core s) := by
  unfold execTreeSnapshot
  (try dsimp only)
  repeat' first | split | (with_reducible refine canon_foldl _ ?_ _ _ ?_) | (with_reducible refine canon_foldl1 _ ?_ _ _ ?_) | (with_reducible refine canon_foldl2 _ ?_ _ _ ?_) | (with_reducible refine loaded_foldl _ ?_ _ _ ?_) | (with_reducible refine steps_foldl _ ?_ _ _ ?_) | (with_reducible refine runWord_canon _ _ _ ?_ ?_) | (with_reducible refine crossWord_canon _ _ _ ?_ ?_) | (with_reducible refine issue_canon _ _ _ _ ?_ ?_ ?_) | (with_reducible refine access_canon _ _ _ _ ?_ ?_ ?_) | (with_reducible refine bufAccess_canon _ _ _ _ ?_ ?_ ?_) | (with_reducible refine canon_getD ?_ ?_) | (intro _ _ _; try dsimp only) | (intro _ _; try dsimp only) | (intro _; try dsimp only)
  all_goals try simp (maxDischargeDepth := 20) +contextual [*]

/-! ### Fabric -/

@[simp] theorem leaveDie_canon (s : State) (f : Flight) (hs : Canon s) : Canon (leaveDie s f) := by
  unfold leaveDie
  (try dsimp only)
  repeat' first | split | (with_reducible refine canon_foldl _ ?_ _ _ ?_) | (with_reducible refine canon_foldl1 _ ?_ _ _ ?_) | (with_reducible refine canon_foldl2 _ ?_ _ _ ?_) | (with_reducible refine loaded_foldl _ ?_ _ _ ?_) | (with_reducible refine steps_foldl _ ?_ _ _ ?_) | (with_reducible refine runWord_canon _ _ _ ?_ ?_) | (with_reducible refine crossWord_canon _ _ _ ?_ ?_) | (with_reducible refine issue_canon _ _ _ _ ?_ ?_ ?_) | (with_reducible refine access_canon _ _ _ _ ?_ ?_ ?_) | (with_reducible refine bufAccess_canon _ _ _ _ ?_ ?_ ?_) | (with_reducible refine canon_getD ?_ ?_) | (intro _ _ _; try dsimp only) | (intro _ _; try dsimp only) | (intro _; try dsimp only)
  all_goals try simp (maxDischargeDepth := 20) +contextual [*]
@[simp] theorem countHome_canon (s : State) (f : Flight) (hs : Canon s) : Canon (countHome s f) := by
  unfold countHome
  (try dsimp only)
  repeat' first | split | (with_reducible refine canon_foldl _ ?_ _ _ ?_) | (with_reducible refine canon_foldl1 _ ?_ _ _ ?_) | (with_reducible refine canon_foldl2 _ ?_ _ _ ?_) | (with_reducible refine loaded_foldl _ ?_ _ _ ?_) | (with_reducible refine steps_foldl _ ?_ _ _ ?_) | (with_reducible refine runWord_canon _ _ _ ?_ ?_) | (with_reducible refine crossWord_canon _ _ _ ?_ ?_) | (with_reducible refine issue_canon _ _ _ _ ?_ ?_ ?_) | (with_reducible refine access_canon _ _ _ _ ?_ ?_ ?_) | (with_reducible refine bufAccess_canon _ _ _ _ ?_ ?_ ?_) | (with_reducible refine canon_getD ?_ ?_) | (intro _ _ _; try dsimp only) | (intro _ _; try dsimp only) | (intro _; try dsimp only)
  all_goals try simp (maxDischargeDepth := 20) +contextual [*]
@[simp] theorem writeHome_canon (s : State) (f : Flight) (hs : Canon s) : Canon (writeHome s f) := by
  unfold writeHome
  (try dsimp only)
  repeat' first | split | (with_reducible refine canon_foldl _ ?_ _ _ ?_) | (with_reducible refine canon_foldl1 _ ?_ _ _ ?_) | (with_reducible refine canon_foldl2 _ ?_ _ _ ?_) | (with_reducible refine loaded_foldl _ ?_ _ _ ?_) | (with_reducible refine steps_foldl _ ?_ _ _ ?_) | (with_reducible refine runWord_canon _ _ _ ?_ ?_) | (with_reducible refine crossWord_canon _ _ _ ?_ ?_) | (with_reducible refine issue_canon _ _ _ _ ?_ ?_ ?_) | (with_reducible refine access_canon _ _ _ _ ?_ ?_ ?_) | (with_reducible refine bufAccess_canon _ _ _ _ ?_ ?_ ?_) | (with_reducible refine canon_getD ?_ ?_) | (intro _ _ _; try dsimp only) | (intro _ _; try dsimp only) | (intro _; try dsimp only)
  all_goals try simp (maxDischargeDepth := 20) +contextual [*]
@[simp] theorem performHome_canon (s : State) (f : Flight) (hs : Canon s) : Canon (performHome s f) := by
  unfold performHome
  (try dsimp only)
  repeat' first | split | (with_reducible refine canon_foldl _ ?_ _ _ ?_) | (with_reducible refine canon_foldl1 _ ?_ _ _ ?_) | (with_reducible refine canon_foldl2 _ ?_ _ _ ?_) | (with_reducible refine loaded_foldl _ ?_ _ _ ?_) | (with_reducible refine steps_foldl _ ?_ _ _ ?_) | (with_reducible refine runWord_canon _ _ _ ?_ ?_) | (with_reducible refine crossWord_canon _ _ _ ?_ ?_) | (with_reducible refine issue_canon _ _ _ _ ?_ ?_ ?_) | (with_reducible refine access_canon _ _ _ _ ?_ ?_ ?_) | (with_reducible refine bufAccess_canon _ _ _ _ ?_ ?_ ?_) | (with_reducible refine canon_getD ?_ ?_) | (intro _ _ _; try dsimp only) | (intro _ _; try dsimp only) | (intro _; try dsimp only)
  all_goals try simp (maxDischargeDepth := 20) +contextual [*]
@[simp] theorem watchWrite_canon (s : State) (f : Flight) (hs : Canon s) : Canon (watchWrite s f) := by
  unfold watchWrite
  (try dsimp only)
  repeat' first | split | (with_reducible refine canon_foldl _ ?_ _ _ ?_) | (with_reducible refine canon_foldl1 _ ?_ _ _ ?_) | (with_reducible refine canon_foldl2 _ ?_ _ _ ?_) | (with_reducible refine loaded_foldl _ ?_ _ _ ?_) | (with_reducible refine steps_foldl _ ?_ _ _ ?_) | (with_reducible refine runWord_canon _ _ _ ?_ ?_) | (with_reducible refine crossWord_canon _ _ _ ?_ ?_) | (with_reducible refine issue_canon _ _ _ _ ?_ ?_ ?_) | (with_reducible refine access_canon _ _ _ _ ?_ ?_ ?_) | (with_reducible refine bufAccess_canon _ _ _ _ ?_ ?_ ?_) | (with_reducible refine canon_getD ?_ ?_) | (intro _ _ _; try dsimp only) | (intro _ _; try dsimp only) | (intro _; try dsimp only)
  all_goals try simp (maxDischargeDepth := 20) +contextual [*]
@[simp] theorem performWrite_canon (s : State) (n : Nat) (hs : Canon s) : Canon (performWrite s n) := by
  unfold performWrite
  (try dsimp only)
  repeat' first | split | (with_reducible refine canon_foldl _ ?_ _ _ ?_) | (with_reducible refine canon_foldl1 _ ?_ _ _ ?_) | (with_reducible refine canon_foldl2 _ ?_ _ _ ?_) | (with_reducible refine loaded_foldl _ ?_ _ _ ?_) | (with_reducible refine steps_foldl _ ?_ _ _ ?_) | (with_reducible refine runWord_canon _ _ _ ?_ ?_) | (with_reducible refine crossWord_canon _ _ _ ?_ ?_) | (with_reducible refine issue_canon _ _ _ _ ?_ ?_ ?_) | (with_reducible refine access_canon _ _ _ _ ?_ ?_ ?_) | (with_reducible refine bufAccess_canon _ _ _ _ ?_ ?_ ?_) | (with_reducible refine canon_getD ?_ ?_) | (intro _ _ _; try dsimp only) | (intro _ _; try dsimp only) | (intro _; try dsimp only)
  all_goals try simp (maxDischargeDepth := 20) +contextual [*]
theorem execWritePerformHome_canon (n : Nat) (s : State) (hs : Canon s) : OutC (execWritePerformHome n s) := by
  unfold execWritePerformHome
  (try dsimp only)
  repeat' first | split | (with_reducible refine canon_foldl _ ?_ _ _ ?_) | (with_reducible refine canon_foldl1 _ ?_ _ _ ?_) | (with_reducible refine canon_foldl2 _ ?_ _ _ ?_) | (with_reducible refine loaded_foldl _ ?_ _ _ ?_) | (with_reducible refine steps_foldl _ ?_ _ _ ?_) | (with_reducible refine runWord_canon _ _ _ ?_ ?_) | (with_reducible refine crossWord_canon _ _ _ ?_ ?_) | (with_reducible refine issue_canon _ _ _ _ ?_ ?_ ?_) | (with_reducible refine access_canon _ _ _ _ ?_ ?_ ?_) | (with_reducible refine bufAccess_canon _ _ _ _ ?_ ?_ ?_) | (with_reducible refine canon_getD ?_ ?_) | (intro _ _ _; try dsimp only) | (intro _ _; try dsimp only) | (intro _; try dsimp only)
  all_goals try simp (maxDischargeDepth := 20) +contextual [*]
theorem execWriteApply_canon (n die : Nat) (s : State) (hs : Canon s) : OutC (execWriteApply n die s) := by
  unfold execWriteApply
  (try dsimp only)
  repeat' first | split | (with_reducible refine canon_foldl _ ?_ _ _ ?_) | (with_reducible refine canon_foldl1 _ ?_ _ _ ?_) | (with_reducible refine canon_foldl2 _ ?_ _ _ ?_) | (with_reducible refine loaded_foldl _ ?_ _ _ ?_) | (with_reducible refine steps_foldl _ ?_ _ _ ?_) | (with_reducible refine runWord_canon _ _ _ ?_ ?_) | (with_reducible refine crossWord_canon _ _ _ ?_ ?_) | (with_reducible refine issue_canon _ _ _ _ ?_ ?_ ?_) | (with_reducible refine access_canon _ _ _ _ ?_ ?_ ?_) | (with_reducible refine bufAccess_canon _ _ _ _ ?_ ?_ ?_) | (with_reducible refine canon_getD ?_ ?_) | (intro _ _ _; try dsimp only) | (intro _ _; try dsimp only) | (intro _; try dsimp only)
  all_goals try simp (maxDischargeDepth := 20) +contextual [*]
@[simp] theorem storeDone_canon (s : State) (wid : Nat) (hs : Canon s) : Canon (storeDone s wid) := by
  unfold storeDone
  (try dsimp only)
  repeat' first | split | (with_reducible refine canon_foldl _ ?_ _ _ ?_) | (with_reducible refine canon_foldl1 _ ?_ _ _ ?_) | (with_reducible refine canon_foldl2 _ ?_ _ _ ?_) | (with_reducible refine loaded_foldl _ ?_ _ _ ?_) | (with_reducible refine steps_foldl _ ?_ _ _ ?_) | (with_reducible refine runWord_canon _ _ _ ?_ ?_) | (with_reducible refine crossWord_canon _ _ _ ?_ ?_) | (with_reducible refine issue_canon _ _ _ _ ?_ ?_ ?_) | (with_reducible refine access_canon _ _ _ _ ?_ ?_ ?_) | (with_reducible refine bufAccess_canon _ _ _ _ ?_ ?_ ?_) | (with_reducible refine canon_getD ?_ ?_) | (intro _ _ _; try dsimp only) | (intro _ _; try dsimp only) | (intro _; try dsimp only)
  all_goals try simp (maxDischargeDepth := 20) +contextual [*]
@[simp] theorem ackWrite_canon (s : State) (n : Nat) (hs : Canon s) : Canon (ackWrite s n) := by
  unfold ackWrite
  (try dsimp only)
  repeat' first | split | (with_reducible refine canon_foldl _ ?_ _ _ ?_) | (with_reducible refine canon_foldl1 _ ?_ _ _ ?_) | (with_reducible refine canon_foldl2 _ ?_ _ _ ?_) | (with_reducible refine loaded_foldl _ ?_ _ _ ?_) | (with_reducible refine steps_foldl _ ?_ _ _ ?_) | (with_reducible refine runWord_canon _ _ _ ?_ ?_) | (with_reducible refine crossWord_canon _ _ _ ?_ ?_) | (with_reducible refine issue_canon _ _ _ _ ?_ ?_ ?_) | (with_reducible refine access_canon _ _ _ _ ?_ ?_ ?_) | (with_reducible refine bufAccess_canon _ _ _ _ ?_ ?_ ?_) | (with_reducible refine canon_getD ?_ ?_) | (intro _ _ _; try dsimp only) | (intro _ _; try dsimp only) | (intro _; try dsimp only)
  all_goals try simp (maxDischargeDepth := 20) +contextual [*]
theorem execStoreAck_canon (n : Nat) (s : State) (hs : Canon s) : OutC (execStoreAck n s) := by
  unfold execStoreAck
  (try dsimp only)
  repeat' first | split | (with_reducible refine canon_foldl _ ?_ _ _ ?_) | (with_reducible refine canon_foldl1 _ ?_ _ _ ?_) | (with_reducible refine canon_foldl2 _ ?_ _ _ ?_) | (with_reducible refine loaded_foldl _ ?_ _ _ ?_) | (with_reducible refine steps_foldl _ ?_ _ _ ?_) | (with_reducible refine runWord_canon _ _ _ ?_ ?_) | (with_reducible refine crossWord_canon _ _ _ ?_ ?_) | (with_reducible refine issue_canon _ _ _ _ ?_ ?_ ?_) | (with_reducible refine access_canon _ _ _ _ ?_ ?_ ?_) | (with_reducible refine bufAccess_canon _ _ _ _ ?_ ?_ ?_) | (with_reducible refine canon_getD ?_ ?_) | (intro _ _ _; try dsimp only) | (intro _ _; try dsimp only) | (intro _; try dsimp only)
  all_goals try simp (maxDischargeDepth := 20) +contextual [*]
@[simp] theorem installReplica_canon (s : State) (die line tenant : Nat) (hs : Canon s) : Canon (installReplica s die line tenant) := by
  unfold installReplica
  (try dsimp only)
  repeat' first | split | (with_reducible refine canon_foldl _ ?_ _ _ ?_) | (with_reducible refine canon_foldl1 _ ?_ _ _ ?_) | (with_reducible refine canon_foldl2 _ ?_ _ _ ?_) | (with_reducible refine loaded_foldl _ ?_ _ _ ?_) | (with_reducible refine steps_foldl _ ?_ _ _ ?_) | (with_reducible refine runWord_canon _ _ _ ?_ ?_) | (with_reducible refine crossWord_canon _ _ _ ?_ ?_) | (with_reducible refine issue_canon _ _ _ _ ?_ ?_ ?_) | (with_reducible refine access_canon _ _ _ _ ?_ ?_ ?_) | (with_reducible refine bufAccess_canon _ _ _ _ ?_ ?_ ?_) | (with_reducible refine canon_getD ?_ ?_) | (intro _ _ _; try dsimp only) | (intro _ _; try dsimp only) | (intro _; try dsimp only)
  all_goals try simp (maxDischargeDepth := 20) +contextual [*]
@[simp] theorem fillReplica_canon (s : State) (die line : Nat) (hs : Canon s) : Canon (fillReplica s die line) := by
  unfold fillReplica
  (try dsimp only)
  repeat' first | split | (with_reducible refine canon_foldl _ ?_ _ _ ?_) | (with_reducible refine canon_foldl1 _ ?_ _ _ ?_) | (with_reducible refine canon_foldl2 _ ?_ _ _ ?_) | (with_reducible refine loaded_foldl _ ?_ _ _ ?_) | (with_reducible refine steps_foldl _ ?_ _ _ ?_) | (with_reducible refine runWord_canon _ _ _ ?_ ?_) | (with_reducible refine crossWord_canon _ _ _ ?_ ?_) | (with_reducible refine issue_canon _ _ _ _ ?_ ?_ ?_) | (with_reducible refine access_canon _ _ _ _ ?_ ?_ ?_) | (with_reducible refine bufAccess_canon _ _ _ _ ?_ ?_ ?_) | (with_reducible refine canon_getD ?_ ?_) | (intro _ _ _; try dsimp only) | (intro _ _; try dsimp only) | (intro _; try dsimp only)
  all_goals try simp (maxDischargeDepth := 20) +contextual [*]
theorem execReplicaFill_canon (die line : Nat) (s : State) (hs : Canon s) : OutC (execReplicaFill die line s) := by
  unfold execReplicaFill
  (try dsimp only)
  repeat' first | split | (with_reducible refine canon_foldl _ ?_ _ _ ?_) | (with_reducible refine canon_foldl1 _ ?_ _ _ ?_) | (with_reducible refine canon_foldl2 _ ?_ _ _ ?_) | (with_reducible refine loaded_foldl _ ?_ _ _ ?_) | (with_reducible refine steps_foldl _ ?_ _ _ ?_) | (with_reducible refine runWord_canon _ _ _ ?_ ?_) | (with_reducible refine crossWord_canon _ _ _ ?_ ?_) | (with_reducible refine issue_canon _ _ _ _ ?_ ?_ ?_) | (with_reducible refine access_canon _ _ _ _ ?_ ?_ ?_) | (with_reducible refine bufAccess_canon _ _ _ _ ?_ ?_ ?_) | (with_reducible refine canon_getD ?_ ?_) | (intro _ _ _; try dsimp only) | (intro _ _; try dsimp only) | (intro _; try dsimp only)
  all_goals try simp (maxDischargeDepth := 20) +contextual [*]
@[simp] theorem giveOld_canon (s : State) (f : Flight) (n : Nat) (olds : List (Lane × Nat)) (c : Clock) (hs : Canon s) : Canon (giveOld s f n olds c) := by
  unfold giveOld
  (try dsimp only)
  repeat' first | split | (with_reducible refine canon_foldl _ ?_ _ _ ?_) | (with_reducible refine canon_foldl1 _ ?_ _ _ ?_) | (with_reducible refine canon_foldl2 _ ?_ _ _ ?_) | (with_reducible refine loaded_foldl _ ?_ _ _ ?_) | (with_reducible refine steps_foldl _ ?_ _ _ ?_) | (with_reducible refine runWord_canon _ _ _ ?_ ?_) | (with_reducible refine crossWord_canon _ _ _ ?_ ?_) | (with_reducible refine issue_canon _ _ _ _ ?_ ?_ ?_) | (with_reducible refine access_canon _ _ _ _ ?_ ?_ ?_) | (with_reducible refine bufAccess_canon _ _ _ _ ?_ ?_ ?_) | (with_reducible refine canon_getD ?_ ?_) | (intro _ _ _; try dsimp only) | (intro _ _; try dsimp only) | (intro _; try dsimp only)
  all_goals try simp (maxDischargeDepth := 20) +contextual [*]
@[simp] theorem watchAtom_canon (s : State) (f : Flight) (n bank : Nat) (lanes : List (Lane × DWord × DWord)) (hs : Canon s) : Canon (watchAtom s f n bank lanes) := by
  unfold watchAtom
  (try dsimp only)
  repeat' first | split | (with_reducible refine canon_foldl _ ?_ _ _ ?_) | (with_reducible refine canon_foldl1 _ ?_ _ _ ?_) | (with_reducible refine canon_foldl2 _ ?_ _ _ ?_) | (with_reducible refine loaded_foldl _ ?_ _ _ ?_) | (with_reducible refine steps_foldl _ ?_ _ _ ?_) | (with_reducible refine runWord_canon _ _ _ ?_ ?_) | (with_reducible refine crossWord_canon _ _ _ ?_ ?_) | (with_reducible refine issue_canon _ _ _ _ ?_ ?_ ?_) | (with_reducible refine access_canon _ _ _ _ ?_ ?_ ?_) | (with_reducible refine bufAccess_canon _ _ _ _ ?_ ?_ ?_) | (with_reducible refine canon_getD ?_ ?_) | (intro _ _ _; try dsimp only) | (intro _ _; try dsimp only) | (intro _; try dsimp only)
  all_goals try simp (maxDischargeDepth := 20) +contextual [*]
@[simp] theorem atomHome_canon (s : State) (f : Flight) (op : AtOp) (lanes : List (Lane × DWord × DWord)) (hs : Canon s) : Canon (atomHome s f op lanes) := by
  unfold atomHome
  (try dsimp only)
  repeat' first | split | (with_reducible refine canon_foldl _ ?_ _ _ ?_) | (with_reducible refine canon_foldl1 _ ?_ _ _ ?_) | (with_reducible refine canon_foldl2 _ ?_ _ _ ?_) | (with_reducible refine loaded_foldl _ ?_ _ _ ?_) | (with_reducible refine steps_foldl _ ?_ _ _ ?_) | (with_reducible refine runWord_canon _ _ _ ?_ ?_) | (with_reducible refine crossWord_canon _ _ _ ?_ ?_) | (with_reducible refine issue_canon _ _ _ _ ?_ ?_ ?_) | (with_reducible refine access_canon _ _ _ _ ?_ ?_ ?_) | (with_reducible refine bufAccess_canon _ _ _ _ ?_ ?_ ?_) | (with_reducible refine canon_getD ?_ ?_) | (intro _ _ _; try dsimp only) | (intro _ _; try dsimp only) | (intro _; try dsimp only)
  all_goals try simp (maxDischargeDepth := 20) +contextual [*]
@[simp] theorem reachReplica_canon (s : State) (f : Flight) (hs : Canon s) : Canon (reachReplica s f) := by
  unfold reachReplica
  (try dsimp only)
  repeat' first | split | (with_reducible refine canon_foldl _ ?_ _ _ ?_) | (with_reducible refine canon_foldl1 _ ?_ _ _ ?_) | (with_reducible refine canon_foldl2 _ ?_ _ _ ?_) | (with_reducible refine loaded_foldl _ ?_ _ _ ?_) | (with_reducible refine steps_foldl _ ?_ _ _ ?_) | (with_reducible refine runWord_canon _ _ _ ?_ ?_) | (with_reducible refine crossWord_canon _ _ _ ?_ ?_) | (with_reducible refine issue_canon _ _ _ _ ?_ ?_ ?_) | (with_reducible refine access_canon _ _ _ _ ?_ ?_ ?_) | (with_reducible refine bufAccess_canon _ _ _ _ ?_ ?_ ?_) | (with_reducible refine canon_getD ?_ ?_) | (intro _ _ _; try dsimp only) | (intro _ _; try dsimp only) | (intro _; try dsimp only)
  all_goals try simp (maxDischargeDepth := 20) +contextual [*]
@[simp] theorem atomReplica_canon (s0 : State) (f : Flight) (op : AtOp) (lanes : List (Lane × DWord × DWord)) (hs0 : Canon s0) : Canon (atomReplica s0 f op lanes) := by
  unfold atomReplica
  (try dsimp only)
  repeat' first | split | (with_reducible refine canon_foldl _ ?_ _ _ ?_) | (with_reducible refine canon_foldl1 _ ?_ _ _ ?_) | (with_reducible refine canon_foldl2 _ ?_ _ _ ?_) | (with_reducible refine loaded_foldl _ ?_ _ _ ?_) | (with_reducible refine steps_foldl _ ?_ _ _ ?_) | (with_reducible refine runWord_canon _ _ _ ?_ ?_) | (with_reducible refine crossWord_canon _ _ _ ?_ ?_) | (with_reducible refine issue_canon _ _ _ _ ?_ ?_ ?_) | (with_reducible refine access_canon _ _ _ _ ?_ ?_ ?_) | (with_reducible refine bufAccess_canon _ _ _ _ ?_ ?_ ?_) | (with_reducible refine canon_getD ?_ ?_) | (intro _ _ _; try dsimp only) | (intro _ _; try dsimp only) | (intro _; try dsimp only)
  all_goals try simp (maxDischargeDepth := 20) +contextual [*]
@[simp] theorem consumeAtom_canon (s : State) (f : Flight) (hs : Canon s) : Canon (consumeAtom s f) := by
  unfold consumeAtom
  (try dsimp only)
  repeat' first | split | (with_reducible refine canon_foldl _ ?_ _ _ ?_) | (with_reducible refine canon_foldl1 _ ?_ _ _ ?_) | (with_reducible refine canon_foldl2 _ ?_ _ _ ?_) | (with_reducible refine loaded_foldl _ ?_ _ _ ?_) | (with_reducible refine steps_foldl _ ?_ _ _ ?_) | (with_reducible refine runWord_canon _ _ _ ?_ ?_) | (with_reducible refine crossWord_canon _ _ _ ?_ ?_) | (with_reducible refine issue_canon _ _ _ _ ?_ ?_ ?_) | (with_reducible refine access_canon _ _ _ _ ?_ ?_ ?_) | (with_reducible refine bufAccess_canon _ _ _ _ ?_ ?_ ?_) | (with_reducible refine canon_getD ?_ ?_) | (intro _ _ _; try dsimp only) | (intro _ _; try dsimp only) | (intro _; try dsimp only)
  all_goals try simp (maxDischargeDepth := 20) +contextual [*]
@[simp] theorem atomBank_canon (s : State) (n : Nat) (hs : Canon s) : Canon (atomBank s n) := by
  unfold atomBank
  (try dsimp only)
  repeat' first | split | (with_reducible refine canon_foldl _ ?_ _ _ ?_) | (with_reducible refine canon_foldl1 _ ?_ _ _ ?_) | (with_reducible refine canon_foldl2 _ ?_ _ _ ?_) | (with_reducible refine loaded_foldl _ ?_ _ _ ?_) | (with_reducible refine steps_foldl _ ?_ _ _ ?_) | (with_reducible refine runWord_canon _ _ _ ?_ ?_) | (with_reducible refine crossWord_canon _ _ _ ?_ ?_) | (with_reducible refine issue_canon _ _ _ _ ?_ ?_ ?_) | (with_reducible refine access_canon _ _ _ _ ?_ ?_ ?_) | (with_reducible refine bufAccess_canon _ _ _ _ ?_ ?_ ?_) | (with_reducible refine canon_getD ?_ ?_) | (intro _ _ _; try dsimp only) | (intro _ _; try dsimp only) | (intro _; try dsimp only)
  all_goals try simp (maxDischargeDepth := 20) +contextual [*]
theorem execAtomicAtBank_canon (n : Nat) (s : State) (hs : Canon s) : OutC (execAtomicAtBank n s) := by
  unfold execAtomicAtBank
  (try dsimp only)
  repeat' first | split | (with_reducible refine canon_foldl _ ?_ _ _ ?_) | (with_reducible refine canon_foldl1 _ ?_ _ _ ?_) | (with_reducible refine canon_foldl2 _ ?_ _ _ ?_) | (with_reducible refine loaded_foldl _ ?_ _ _ ?_) | (with_reducible refine steps_foldl _ ?_ _ _ ?_) | (with_reducible refine runWord_canon _ _ _ ?_ ?_) | (with_reducible refine crossWord_canon _ _ _ ?_ ?_) | (with_reducible refine issue_canon _ _ _ _ ?_ ?_ ?_) | (with_reducible refine access_canon _ _ _ _ ?_ ?_ ?_) | (with_reducible refine bufAccess_canon _ _ _ _ ?_ ?_ ?_) | (with_reducible refine canon_getD ?_ ?_) | (intro _ _ _; try dsimp only) | (intro _ _; try dsimp only) | (intro _; try dsimp only)
  all_goals try simp (maxDischargeDepth := 20) +contextual [*]

end Sys2Proof.Machine
end

