-- ==== Sys2Proof/Laws/CanonWords.lean ====
section
/-! SUPPORT. Canonical memories stay canonical: engines, arithmetic words, Teasel, module and monitor events. -/
namespace Sys2Proof.Machine

set_option linter.unusedVariables false
set_option linter.unusedSimpArgs false

/-! ### Engines -/

@[simp] theorem engineWatch_canon (s : State) (x : Eng1) (kind : Nat) (a : DWord) (n : Nat) (bank : Option Nat) (hs : Canon s) : Canon (engineWatch s x kind a n bank) := by
  unfold engineWatch
  (try dsimp only)
  repeat' first | split | (with_reducible refine canon_foldl _ ?_ _ _ ?_) | (with_reducible refine canon_foldl1 _ ?_ _ _ ?_) | (with_reducible refine canon_foldl2 _ ?_ _ _ ?_) | (with_reducible refine loaded_foldl _ ?_ _ _ ?_) | (with_reducible refine steps_foldl _ ?_ _ _ ?_) | (with_reducible refine runWord_canon _ _ _ ?_ ?_) | (with_reducible refine crossWord_canon _ _ _ ?_ ?_) | (with_reducible refine issue_canon _ _ _ _ ?_ ?_ ?_) | (with_reducible refine access_canon _ _ _ _ ?_ ?_ ?_) | (with_reducible refine bufAccess_canon _ _ _ _ ?_ ?_ ?_) | (with_reducible refine canon_getD ?_ ?_) | (intro _ _ _; try dsimp only) | (intro _ _; try dsimp only) | (intro _; try dsimp only)
  all_goals try simp (maxDischargeDepth := 20) +contextual [*]
@[simp] theorem readPiece_canon (s : State) (x : Eng1) (q : DWord × Nat × Nat) (hs : Canon s) : Canon (readPiece s x q).2 := by
  unfold readPiece
  (try dsimp only)
  repeat' first | split | (with_reducible refine canon_foldl _ ?_ _ _ ?_) | (with_reducible refine canon_foldl1 _ ?_ _ _ ?_) | (with_reducible refine canon_foldl2 _ ?_ _ _ ?_) | (with_reducible refine loaded_foldl _ ?_ _ _ ?_) | (with_reducible refine steps_foldl _ ?_ _ _ ?_) | (with_reducible refine runWord_canon _ _ _ ?_ ?_) | (with_reducible refine crossWord_canon _ _ _ ?_ ?_) | (with_reducible refine issue_canon _ _ _ _ ?_ ?_ ?_) | (with_reducible refine access_canon _ _ _ _ ?_ ?_ ?_) | (with_reducible refine bufAccess_canon _ _ _ _ ?_ ?_ ?_) | (with_reducible refine canon_getD ?_ ?_) | (intro _ _ _; try dsimp only) | (intro _ _; try dsimp only) | (intro _; try dsimp only)
  all_goals try simp (maxDischargeDepth := 20) +contextual [*]
@[simp] theorem engineRead_canon (s : State) (x : Eng1) (a : DWord) (n : Nat) (hs : Canon s) : Canon (engineRead s x a n).2 := by
  unfold engineRead
  (try dsimp only)
  repeat' first | split | (refine canon_foldl _ ?_ _ _ ?_) | (refine canon_foldl1 _ ?_ _ _ ?_) | (refine canon_foldl2 _ ?_ _ _ ?_) | (refine loaded_foldl _ ?_ _ _ ?_) | (refine steps_foldl _ ?_ _ _ ?_) | (refine runWord_canon _ _ _ ?_ ?_) | (refine crossWord_canon _ _ _ ?_ ?_) | (refine issue_canon _ _ _ _ ?_ ?_ ?_) | (refine access_canon _ _ _ _ ?_ ?_ ?_) | (refine bufAccess_canon _ _ _ _ ?_ ?_ ?_) | (refine canon_getD ?_ ?_) | (intro _ _ _; try dsimp only) | (intro _ _; try dsimp only) | (intro _; try dsimp only)
  all_goals try simp (maxDischargeDepth := 20) +contextual [*]
@[simp] theorem writeLine_canon (s : State) (x : Eng1) (a : DWord) (ia : Nat) (bs : List Byte) (hs : Canon s) : Canon (writeLine s x a ia bs) := by
  unfold writeLine
  (try dsimp only)
  repeat' first | split | (with_reducible refine canon_foldl _ ?_ _ _ ?_) | (with_reducible refine canon_foldl1 _ ?_ _ _ ?_) | (with_reducible refine canon_foldl2 _ ?_ _ _ ?_) | (with_reducible refine loaded_foldl _ ?_ _ _ ?_) | (with_reducible refine steps_foldl _ ?_ _ _ ?_) | (with_reducible refine runWord_canon _ _ _ ?_ ?_) | (with_reducible refine crossWord_canon _ _ _ ?_ ?_) | (with_reducible refine issue_canon _ _ _ _ ?_ ?_ ?_) | (with_reducible refine access_canon _ _ _ _ ?_ ?_ ?_) | (with_reducible refine bufAccess_canon _ _ _ _ ?_ ?_ ?_) | (with_reducible refine canon_getD ?_ ?_) | (intro _ _ _; try dsimp only) | (intro _ _; try dsimp only) | (intro _; try dsimp only)
  all_goals try simp (maxDischargeDepth := 20) +contextual [*]
@[simp] theorem writePiece_canon (s : State) (x : Eng1) (bs : List Byte) (q : DWord × Nat × Nat) (hs : Canon s) : Canon (writePiece s x bs q) := by
  unfold writePiece
  (try dsimp only)
  repeat' first | split | (with_reducible refine canon_foldl _ ?_ _ _ ?_) | (with_reducible refine canon_foldl1 _ ?_ _ _ ?_) | (with_reducible refine canon_foldl2 _ ?_ _ _ ?_) | (with_reducible refine loaded_foldl _ ?_ _ _ ?_) | (with_reducible refine steps_foldl _ ?_ _ _ ?_) | (with_reducible refine runWord_canon _ _ _ ?_ ?_) | (with_reducible refine crossWord_canon _ _ _ ?_ ?_) | (with_reducible refine issue_canon _ _ _ _ ?_ ?_ ?_) | (with_reducible refine access_canon _ _ _ _ ?_ ?_ ?_) | (with_reducible refine bufAccess_canon _ _ _ _ ?_ ?_ ?_) | (with_reducible refine canon_getD ?_ ?_) | (intro _ _ _; try dsimp only) | (intro _ _; try dsimp only) | (intro _; try dsimp only)
  all_goals try simp (maxDischargeDepth := 20) +contextual [*]
@[simp] theorem engineWrite_canon (s : State) (x : Eng1) (a : DWord) (bs : List Byte) (hs : Canon s) : Canon (engineWrite s x a bs) := by
  unfold engineWrite
  (try dsimp only)
  repeat' first | split | (refine canon_foldl _ ?_ _ _ ?_) | (refine canon_foldl1 _ ?_ _ _ ?_) | (refine canon_foldl2 _ ?_ _ _ ?_) | (refine loaded_foldl _ ?_ _ _ ?_) | (refine steps_foldl _ ?_ _ _ ?_) | (refine runWord_canon _ _ _ ?_ ?_) | (refine crossWord_canon _ _ _ ?_ ?_) | (refine issue_canon _ _ _ _ ?_ ?_ ?_) | (refine access_canon _ _ _ _ ?_ ?_ ?_) | (refine bufAccess_canon _ _ _ _ ?_ ?_ ?_) | (refine canon_getD ?_ ?_) | (intro _ _ _; try dsimp only) | (intro _ _; try dsimp only) | (intro _; try dsimp only)
  all_goals try simp (maxDischargeDepth := 20) +contextual [*]
@[simp] theorem copyRows_canon (s : State) (x : Eng1) (hs : Canon s) : Canon (copyRows s x) := by
  unfold copyRows
  (try dsimp only)
  repeat' first | split | (with_reducible refine canon_foldl _ ?_ _ _ ?_) | (with_reducible refine canon_foldl1 _ ?_ _ _ ?_) | (with_reducible refine canon_foldl2 _ ?_ _ _ ?_) | (with_reducible refine loaded_foldl _ ?_ _ _ ?_) | (with_reducible refine steps_foldl _ ?_ _ _ ?_) | (with_reducible refine runWord_canon _ _ _ ?_ ?_) | (with_reducible refine crossWord_canon _ _ _ ?_ ?_) | (with_reducible refine issue_canon _ _ _ _ ?_ ?_ ?_) | (with_reducible refine access_canon _ _ _ _ ?_ ?_ ?_) | (with_reducible refine bufAccess_canon _ _ _ _ ?_ ?_ ?_) | (with_reducible refine canon_getD ?_ ?_) | (intro _ _ _; try dsimp only) | (intro _ _; try dsimp only) | (intro _; try dsimp only)
  all_goals try simp (maxDischargeDepth := 20) +contextual [*]
@[simp] theorem tileWrite_canon (s : State) (x : Eng1) (kind off : Nat) (bs : List Byte) (hs : Canon s) : Canon (tileWrite s x kind off bs) := by
  unfold tileWrite
  (try dsimp only)
  repeat' first | split | (with_reducible refine canon_foldl _ ?_ _ _ ?_) | (with_reducible refine canon_foldl1 _ ?_ _ _ ?_) | (with_reducible refine canon_foldl2 _ ?_ _ _ ?_) | (with_reducible refine loaded_foldl _ ?_ _ _ ?_) | (with_reducible refine steps_foldl _ ?_ _ _ ?_) | (with_reducible refine runWord_canon _ _ _ ?_ ?_) | (with_reducible refine crossWord_canon _ _ _ ?_ ?_) | (with_reducible refine issue_canon _ _ _ _ ?_ ?_ ?_) | (with_reducible refine access_canon _ _ _ _ ?_ ?_ ?_) | (with_reducible refine bufAccess_canon _ _ _ _ ?_ ?_ ?_) | (with_reducible refine canon_getD ?_ ?_) | (intro _ _ _; try dsimp only) | (intro _ _; try dsimp only) | (intro _; try dsimp only)
  all_goals try simp (maxDischargeDepth := 20) +contextual [*]
@[simp] theorem loadTile_canon (s : State) (x : Eng1) (t : Tile) (hs : Canon s) : Canon (loadTile s x t) := by
  unfold loadTile
  (try dsimp only)
  repeat' first | split | (with_reducible refine canon_foldl _ ?_ _ _ ?_) | (with_reducible refine canon_foldl1 _ ?_ _ _ ?_) | (with_reducible refine canon_foldl2 _ ?_ _ _ ?_) | (with_reducible refine loaded_foldl _ ?_ _ _ ?_) | (with_reducible refine steps_foldl _ ?_ _ _ ?_) | (with_reducible refine runWord_canon _ _ _ ?_ ?_) | (with_reducible refine crossWord_canon _ _ _ ?_ ?_) | (with_reducible refine issue_canon _ _ _ _ ?_ ?_ ?_) | (with_reducible refine access_canon _ _ _ _ ?_ ?_ ?_) | (with_reducible refine bufAccess_canon _ _ _ _ ?_ ?_ ?_) | (with_reducible refine canon_getD ?_ ?_) | (intro _ _ _; try dsimp only) | (intro _ _; try dsimp only) | (intro _; try dsimp only)
  all_goals try simp (maxDischargeDepth := 20) +contextual [*]
@[simp] theorem storeTile_canon (s : State) (x : Eng1) (t : Tile) (hs : Canon s) : Canon (storeTile s x t) := by
  unfold storeTile
  (try dsimp only)
  repeat' first | split | (with_reducible refine canon_foldl _ ?_ _ _ ?_) | (with_reducible refine canon_foldl1 _ ?_ _ _ ?_) | (with_reducible refine canon_foldl2 _ ?_ _ _ ?_) | (with_reducible refine loaded_foldl _ ?_ _ _ ?_) | (with_reducible refine steps_foldl _ ?_ _ _ ?_) | (with_reducible refine runWord_canon _ _ _ ?_ ?_) | (with_reducible refine crossWord_canon _ _ _ ?_ ?_) | (with_reducible refine issue_canon _ _ _ _ ?_ ?_ ?_) | (with_reducible refine access_canon _ _ _ _ ?_ ?_ ?_) | (with_reducible refine bufAccess_canon _ _ _ _ ?_ ?_ ?_) | (with_reducible refine canon_getD ?_ ?_) | (intro _ _ _; try dsimp only) | (intro _ _; try dsimp only) | (intro _; try dsimp only)
  all_goals try simp (maxDischargeDepth := 20) +contextual [*]
@[simp] theorem gatherIndex_canon (s : State) (x : Eng1) (hs : Canon s) : Canon (gatherIndex s x).2 := by
  unfold gatherIndex
  (try dsimp only)
  repeat' first | split | (with_reducible refine canon_foldl _ ?_ _ _ ?_) | (with_reducible refine canon_foldl1 _ ?_ _ _ ?_) | (with_reducible refine canon_foldl2 _ ?_ _ _ ?_) | (with_reducible refine loaded_foldl _ ?_ _ _ ?_) | (with_reducible refine steps_foldl _ ?_ _ _ ?_) | (with_reducible refine runWord_canon _ _ _ ?_ ?_) | (with_reducible refine crossWord_canon _ _ _ ?_ ?_) | (with_reducible refine issue_canon _ _ _ _ ?_ ?_ ?_) | (with_reducible refine access_canon _ _ _ _ ?_ ?_ ?_) | (with_reducible refine bufAccess_canon _ _ _ _ ?_ ?_ ?_) | (with_reducible refine canon_getD ?_ ?_) | (intro _ _ _; try dsimp only) | (intro _ _; try dsimp only) | (intro _; try dsimp only)
  all_goals try simp (maxDischargeDepth := 20) +contextual [*]
@[simp] theorem gatherRows_canon (s : State) (x : Eng1) (t : Tile) (ix : List Nat) (hs : Canon s) : Canon (gatherRows s x t ix) := by
  unfold gatherRows
  (try dsimp only)
  repeat' first | split | (with_reducible refine canon_foldl _ ?_ _ _ ?_) | (with_reducible refine canon_foldl1 _ ?_ _ _ ?_) | (with_reducible refine canon_foldl2 _ ?_ _ _ ?_) | (with_reducible refine loaded_foldl _ ?_ _ _ ?_) | (with_reducible refine steps_foldl _ ?_ _ _ ?_) | (with_reducible refine runWord_canon _ _ _ ?_ ?_) | (with_reducible refine crossWord_canon _ _ _ ?_ ?_) | (with_reducible refine issue_canon _ _ _ _ ?_ ?_ ?_) | (with_reducible refine access_canon _ _ _ _ ?_ ?_ ?_) | (with_reducible refine bufAccess_canon _ _ _ _ ?_ ?_ ?_) | (with_reducible refine canon_getD ?_ ?_) | (intro _ _ _; try dsimp only) | (intro _ _; try dsimp only) | (intro _; try dsimp only)
  all_goals try simp (maxDischargeDepth := 20) +contextual [*]
@[simp] theorem rstoreElement_canon (s : State) (x : Eng1) (op : AtOp) (a : DWord) (v : Nat) (hs : Canon s) : Canon (rstoreElement s x op a v) := by
  unfold rstoreElement
  (try dsimp only)
  repeat' first | split | (refine canon_foldl _ ?_ _ _ ?_) | (refine canon_foldl1 _ ?_ _ _ ?_) | (refine canon_foldl2 _ ?_ _ _ ?_) | (refine loaded_foldl _ ?_ _ _ ?_) | (refine steps_foldl _ ?_ _ _ ?_) | (refine runWord_canon _ _ _ ?_ ?_) | (refine crossWord_canon _ _ _ ?_ ?_) | (refine issue_canon _ _ _ _ ?_ ?_ ?_) | (refine access_canon _ _ _ _ ?_ ?_ ?_) | (refine bufAccess_canon _ _ _ _ ?_ ?_ ?_) | (refine canon_getD ?_ ?_) | (intro _ _ _; try dsimp only) | (intro _ _; try dsimp only) | (intro _; try dsimp only)
  all_goals try simp (maxDischargeDepth := 20) +contextual [*]
@[simp] theorem rstoreDest_canon (s : State) (x : Eng1) (src : List Byte) (d : DWord) (hs : Canon s) : Canon (rstoreDest s x src d) := by
  unfold rstoreDest
  (try dsimp only)
  repeat' first | split | (with_reducible refine canon_foldl _ ?_ _ _ ?_) | (with_reducible refine canon_foldl1 _ ?_ _ _ ?_) | (with_reducible refine canon_foldl2 _ ?_ _ _ ?_) | (with_reducible refine loaded_foldl _ ?_ _ _ ?_) | (with_reducible refine steps_foldl _ ?_ _ _ ?_) | (with_reducible refine runWord_canon _ _ _ ?_ ?_) | (with_reducible refine crossWord_canon _ _ _ ?_ ?_) | (with_reducible refine issue_canon _ _ _ _ ?_ ?_ ?_) | (with_reducible refine access_canon _ _ _ _ ?_ ?_ ?_) | (with_reducible refine bufAccess_canon _ _ _ _ ?_ ?_ ?_) | (with_reducible refine canon_getD ?_ ?_) | (intro _ _ _; try dsimp only) | (intro _ _; try dsimp only) | (intro _; try dsimp only)
  all_goals try simp (maxDischargeDepth := 20) +contextual [*]
@[simp] theorem drainRows_canon (s : State) (x : Eng1) (t : Tile) (m : Memory) (fmt : Fmt) (md : Rnd) (ph : Nat) (hs : Canon s) : Canon (drainRows s x t m fmt md ph).1 := by
  unfold drainRows
  (try dsimp only)
  repeat' first | split | (with_reducible refine canon_foldl _ ?_ _ _ ?_) | (with_reducible refine canon_foldl1 _ ?_ _ _ ?_) | (with_reducible refine canon_foldl2 _ ?_ _ _ ?_) | (with_reducible refine loaded_foldl _ ?_ _ _ ?_) | (with_reducible refine steps_foldl _ ?_ _ _ ?_) | (with_reducible refine runWord_canon _ _ _ ?_ ?_) | (with_reducible refine crossWord_canon _ _ _ ?_ ?_) | (with_reducible refine issue_canon _ _ _ _ ?_ ?_ ?_) | (with_reducible refine access_canon _ _ _ _ ?_ ?_ ?_) | (with_reducible refine bufAccess_canon _ _ _ _ ?_ ?_ ?_) | (with_reducible refine canon_getD ?_ ?_) | (intro _ _ _; try dsimp only) | (intro _ _; try dsimp only) | (intro _; try dsimp only)
  all_goals try simp (maxDischargeDepth := 20) +contextual [*]
@[simp] theorem denied_canon (s : State) (y : Nat × DWord) (hs : Canon s) : Canon (denied s y).s := by
  unfold denied
  (try dsimp only)
  repeat' first | split | (with_reducible refine canon_foldl _ ?_ _ _ ?_) | (with_reducible refine canon_foldl1 _ ?_ _ _ ?_) | (with_reducible refine canon_foldl2 _ ?_ _ _ ?_) | (with_reducible refine loaded_foldl _ ?_ _ _ ?_) | (with_reducible refine steps_foldl _ ?_ _ _ ?_) | (with_reducible refine runWord_canon _ _ _ ?_ ?_) | (with_reducible refine crossWord_canon _ _ _ ?_ ?_) | (with_reducible refine issue_canon _ _ _ _ ?_ ?_ ?_) | (with_reducible refine access_canon _ _ _ _ ?_ ?_ ?_) | (with_reducible refine bufAccess_canon _ _ _ _ ?_ ?_ ?_) | (with_reducible refine canon_getD ?_ ?_) | (intro _ _ _; try dsimp only) | (intro _ _; try dsimp only) | (intro _; try dsimp only)
  all_goals try simp (maxDischargeDepth := 20) +contextual [*]
@[simp] theorem wrote_canon (s : State) (hs : Canon s) : Canon (wrote s).s := by
  unfold wrote
  (try dsimp only)
  repeat' first | split | (with_reducible refine canon_foldl _ ?_ _ _ ?_) | (with_reducible refine canon_foldl1 _ ?_ _ _ ?_) | (with_reducible refine canon_foldl2 _ ?_ _ _ ?_) | (with_reducible refine loaded_foldl _ ?_ _ _ ?_) | (with_reducible refine steps_foldl _ ?_ _ _ ?_) | (with_reducible refine runWord_canon _ _ _ ?_ ?_) | (with_reducible refine crossWord_canon _ _ _ ?_ ?_) | (with_reducible refine issue_canon _ _ _ _ ?_ ?_ ?_) | (with_reducible refine access_canon _ _ _ _ ?_ ?_ ?_) | (with_reducible refine bufAccess_canon _ _ _ _ ?_ ?_ ?_) | (with_reducible refine canon_getD ?_ ?_) | (intro _ _ _; try dsimp only) | (intro _ _; try dsimp only) | (intro _; try dsimp only)
  all_goals try simp (maxDischargeDepth := 20) +contextual [*]
@[simp] theorem struck_canon (s : State) (what : Struck) (hs : Canon s) : Canon (struck s what).s := by
  unfold struck
  (try dsimp only)
  repeat' first | split | (with_reducible refine canon_foldl _ ?_ _ _ ?_) | (with_reducible refine canon_foldl1 _ ?_ _ _ ?_) | (with_reducible refine canon_foldl2 _ ?_ _ _ ?_) | (with_reducible refine loaded_foldl _ ?_ _ _ ?_) | (with_reducible refine steps_foldl _ ?_ _ _ ?_) | (with_reducible refine runWord_canon _ _ _ ?_ ?_) | (with_reducible refine crossWord_canon _ _ _ ?_ ?_) | (with_reducible refine issue_canon _ _ _ _ ?_ ?_ ?_) | (with_reducible refine access_canon _ _ _ _ ?_ ?_ ?_) | (with_reducible refine bufAccess_canon _ _ _ _ ?_ ?_ ?_) | (with_reducible refine canon_getD ?_ ?_) | (intro _ _ _; try dsimp only) | (intro _ _; try dsimp only) | (intro _; try dsimp only)
  all_goals try simp (maxDischargeDepth := 20) +contextual [*]
@[simp] theorem runSingle_canon (s : State) (x : Eng1) (work : State → State) (hs : Canon s) (hwork : ∀ t, Canon t → Canon (work t)) : Canon (runSingle s x work).s := by
  unfold runSingle
  (try dsimp only)
  repeat' first | split | (with_reducible refine canon_foldl _ ?_ _ _ ?_) | (with_reducible refine canon_foldl1 _ ?_ _ _ ?_) | (with_reducible refine canon_foldl2 _ ?_ _ _ ?_) | (with_reducible refine loaded_foldl _ ?_ _ _ ?_) | (with_reducible refine steps_foldl _ ?_ _ _ ?_) | (with_reducible refine runWord_canon _ _ _ ?_ ?_) | (with_reducible refine crossWord_canon _ _ _ ?_ ?_) | (with_reducible refine issue_canon _ _ _ _ ?_ ?_ ?_) | (with_reducible refine access_canon _ _ _ _ ?_ ?_ ?_) | (with_reducible refine bufAccess_canon _ _ _ _ ?_ ?_ ?_) | (with_reducible refine canon_getD ?_ ?_) | (intro _ _ _; try dsimp only) | (intro _ _; try dsimp only) | (intro _; try dsimp only)
  all_goals try simp (maxDischargeDepth := 20) +contextual [*]
@[simp] theorem runStore_canon (s : State) (x : Eng1) (t : Tile) (hs : Canon s) : Canon (runStore s x t).s := by
  unfold runStore
  (try dsimp only)
  repeat' first | split | (with_reducible refine canon_foldl _ ?_ _ _ ?_) | (with_reducible refine canon_foldl1 _ ?_ _ _ ?_) | (with_reducible refine canon_foldl2 _ ?_ _ _ ?_) | (with_reducible refine loaded_foldl _ ?_ _ _ ?_) | (with_reducible refine steps_foldl _ ?_ _ _ ?_) | (with_reducible refine runWord_canon _ _ _ ?_ ?_) | (with_reducible refine crossWord_canon _ _ _ ?_ ?_) | (with_reducible refine issue_canon _ _ _ _ ?_ ?_ ?_) | (with_reducible refine access_canon _ _ _ _ ?_ ?_ ?_) | (with_reducible refine bufAccess_canon _ _ _ _ ?_ ?_ ?_) | (with_reducible refine canon_getD ?_ ?_) | (intro _ _ _; try dsimp only) | (intro _ _; try dsimp only) | (intro _; try dsimp only)
  all_goals try simp (maxDischargeDepth := 20) +contextual [*]
@[simp] theorem runGather_canon (s : State) (x : Eng1) (t : Tile) (hs : Canon s) : Canon (runGather s x t).s := by
  unfold runGather
  (try dsimp only)
  repeat' first | split | (with_reducible refine canon_foldl _ ?_ _ _ ?_) | (with_reducible refine canon_foldl1 _ ?_ _ _ ?_) | (with_reducible refine canon_foldl2 _ ?_ _ _ ?_) | (with_reducible refine loaded_foldl _ ?_ _ _ ?_) | (with_reducible refine steps_foldl _ ?_ _ _ ?_) | (with_reducible refine runWord_canon _ _ _ ?_ ?_) | (with_reducible refine crossWord_canon _ _ _ ?_ ?_) | (with_reducible refine issue_canon _ _ _ _ ?_ ?_ ?_) | (with_reducible refine access_canon _ _ _ _ ?_ ?_ ?_) | (with_reducible refine bufAccess_canon _ _ _ _ ?_ ?_ ?_) | (with_reducible refine canon_getD ?_ ?_) | (intro _ _ _; try dsimp only) | (intro _ _; try dsimp only) | (intro _; try dsimp only)
  all_goals try simp (maxDischargeDepth := 20) +contextual [*]
@[simp] theorem runEach_canon (s : State) (x : Eng1) (each : State → List Byte → DWord → State) (hs : Canon s) (heach : ∀ t b d, Canon t → Canon (each t b d)) : Canon (runEach s x each).s := by
  unfold runEach
  (try dsimp only)
  repeat' first | split | (refine canon_foldl _ ?_ _ _ ?_) | (refine canon_foldl1 _ ?_ _ _ ?_) | (refine canon_foldl2 _ ?_ _ _ ?_) | (refine loaded_foldl _ ?_ _ _ ?_) | (refine steps_foldl _ ?_ _ _ ?_) | (refine runWord_canon _ _ _ ?_ ?_) | (refine crossWord_canon _ _ _ ?_ ?_) | (refine issue_canon _ _ _ _ ?_ ?_ ?_) | (refine access_canon _ _ _ _ ?_ ?_ ?_) | (refine bufAccess_canon _ _ _ _ ?_ ?_ ?_) | (refine canon_getD ?_ ?_) | (intro _ _ _; try dsimp only) | (intro _ _; try dsimp only) | (intro _; try dsimp only)
  all_goals try simp (maxDischargeDepth := 20) +contextual [*]
@[simp] theorem runDrain_canon (s : State) (x : Eng1) (t : Tile) (hs : Canon s) : Canon (runDrain s x t).s := by
  unfold runDrain
  (try dsimp only)
  repeat' first | split | (with_reducible refine canon_foldl _ ?_ _ _ ?_) | (with_reducible refine canon_foldl1 _ ?_ _ _ ?_) | (with_reducible refine canon_foldl2 _ ?_ _ _ ?_) | (with_reducible refine loaded_foldl _ ?_ _ _ ?_) | (with_reducible refine steps_foldl _ ?_ _ _ ?_) | (with_reducible refine runWord_canon _ _ _ ?_ ?_) | (with_reducible refine crossWord_canon _ _ _ ?_ ?_) | (with_reducible refine issue_canon _ _ _ _ ?_ ?_ ?_) | (with_reducible refine access_canon _ _ _ _ ?_ ?_ ?_) | (with_reducible refine bufAccess_canon _ _ _ _ ?_ ?_ ?_) | (with_reducible refine canon_getD ?_ ?_) | (intro _ _ _; try dsimp only) | (intro _ _; try dsimp only) | (intro _; try dsimp only)
  all_goals try simp (maxDischargeDepth := 20) +contextual [*]
@[simp] theorem putQueue_canon (s : State) (wid : Nat) (k : Fin 8) (f : QReg → QReg) (hs : Canon s) : Canon (putQueue s wid k f) := by
  unfold putQueue
  (try dsimp only)
  repeat' first | split | (with_reducible refine canon_foldl _ ?_ _ _ ?_) | (with_reducible refine canon_foldl1 _ ?_ _ _ ?_) | (with_reducible refine canon_foldl2 _ ?_ _ _ ?_) | (with_reducible refine loaded_foldl _ ?_ _ _ ?_) | (with_reducible refine steps_foldl _ ?_ _ _ ?_) | (with_reducible refine runWord_canon _ _ _ ?_ ?_) | (with_reducible refine crossWord_canon _ _ _ ?_ ?_) | (with_reducible refine issue_canon _ _ _ _ ?_ ?_ ?_) | (with_reducible refine access_canon _ _ _ _ ?_ ?_ ?_) | (with_reducible refine bufAccess_canon _ _ _ _ ?_ ?_ ?_) | (with_reducible refine canon_getD ?_ ?_) | (intro _ _ _; try dsimp only) | (intro _ _; try dsimp only) | (intro _; try dsimp only)
  all_goals try simp (maxDischargeDepth := 20) +contextual [*]
@[simp] theorem acceptAs_canon (s : State) (wid : Nat) (k : Fin 8) (c : Command) (hs : Canon s) : Canon (acceptAs s wid k c) := by
  unfold acceptAs
  (try dsimp only)
  repeat' first | split | (with_reducible refine canon_foldl _ ?_ _ _ ?_) | (with_reducible refine canon_foldl1 _ ?_ _ _ ?_) | (with_reducible refine canon_foldl2 _ ?_ _ _ ?_) | (with_reducible refine loaded_foldl _ ?_ _ _ ?_) | (with_reducible refine steps_foldl _ ?_ _ _ ?_) | (with_reducible refine runWord_canon _ _ _ ?_ ?_) | (with_reducible refine crossWord_canon _ _ _ ?_ ?_) | (with_reducible refine issue_canon _ _ _ _ ?_ ?_ ?_) | (with_reducible refine access_canon _ _ _ _ ?_ ?_ ?_) | (with_reducible refine bufAccess_canon _ _ _ _ ?_ ?_ ?_) | (with_reducible refine canon_getD ?_ ?_) | (intro _ _ _; try dsimp only) | (intro _ _; try dsimp only) | (intro _; try dsimp only)
  all_goals try simp (maxDischargeDepth := 20) +contextual [*]
@[simp] theorem rejectCommand_canon (s : State) (wid : Nat) (k : Fin 8) (c : Command) (status : Nat) (hs : Canon s) : Canon (rejectCommand s wid k c status) := by
  unfold rejectCommand
  (try dsimp only)
  repeat' first | split | (with_reducible refine canon_foldl _ ?_ _ _ ?_) | (with_reducible refine canon_foldl1 _ ?_ _ _ ?_) | (with_reducible refine canon_foldl2 _ ?_ _ _ ?_) | (with_reducible refine loaded_foldl _ ?_ _ _ ?_) | (with_reducible refine steps_foldl _ ?_ _ _ ?_) | (with_reducible refine runWord_canon _ _ _ ?_ ?_) | (with_reducible refine crossWord_canon _ _ _ ?_ ?_) | (with_reducible refine issue_canon _ _ _ _ ?_ ?_ ?_) | (with_reducible refine access_canon _ _ _ _ ?_ ?_ ?_) | (with_reducible refine bufAccess_canon _ _ _ _ ?_ ?_ ?_) | (with_reducible refine canon_getD ?_ ?_) | (intro _ _ _; try dsimp only) | (intro _ _; try dsimp only) | (intro _; try dsimp only)
  all_goals try simp (maxDischargeDepth := 20) +contextual [*]
@[simp] theorem holdTile_canon (s : State) (g : Nat) (c : Command) (hs : Canon s) : Canon (holdTile s g c) := by
  unfold holdTile
  (try dsimp only)
  repeat' first | split | (with_reducible refine canon_foldl _ ?_ _ _ ?_) | (with_reducible refine canon_foldl1 _ ?_ _ _ ?_) | (with_reducible refine canon_foldl2 _ ?_ _ _ ?_) | (with_reducible refine loaded_foldl _ ?_ _ _ ?_) | (with_reducible refine steps_foldl _ ?_ _ _ ?_) | (with_reducible refine runWord_canon _ _ _ ?_ ?_) | (with_reducible refine crossWord_canon _ _ _ ?_ ?_) | (with_reducible refine issue_canon _ _ _ _ ?_ ?_ ?_) | (with_reducible refine access_canon _ _ _ _ ?_ ?_ ?_) | (with_reducible refine bufAccess_canon _ _ _ _ ?_ ?_ ?_) | (with_reducible refine canon_getD ?_ ?_) | (intro _ _ _; try dsimp only) | (intro _ _; try dsimp only) | (intro _; try dsimp only)
  all_goals try simp (maxDischargeDepth := 20) +contextual [*]
@[simp] theorem freeHeld_canon (s : State) (g : Nat) (c : Command) (fatal : Bool) (hs : Canon s) : Canon (freeHeld s g c fatal) := by
  unfold freeHeld
  (try dsimp only)
  repeat' first | split | (with_reducible refine canon_foldl _ ?_ _ _ ?_) | (with_reducible refine canon_foldl1 _ ?_ _ _ ?_) | (with_reducible refine canon_foldl2 _ ?_ _ _ ?_) | (with_reducible refine loaded_foldl _ ?_ _ _ ?_) | (with_reducible refine steps_foldl _ ?_ _ _ ?_) | (with_reducible refine runWord_canon _ _ _ ?_ ?_) | (with_reducible refine crossWord_canon _ _ _ ?_ ?_) | (with_reducible refine issue_canon _ _ _ _ ?_ ?_ ?_) | (with_reducible refine access_canon _ _ _ _ ?_ ?_ ?_) | (with_reducible refine bufAccess_canon _ _ _ _ ?_ ?_ ?_) | (with_reducible refine canon_getD ?_ ?_) | (intro _ _ _; try dsimp only) | (intro _ _; try dsimp only) | (intro _; try dsimp only)
  all_goals try simp (maxDischargeDepth := 20) +contextual [*]
@[simp] theorem fatalCommand_canon (x : Eng1) (s : State) (what : Struck) (hs : Canon s) : Canon (fatalCommand x s what) := by
  unfold fatalCommand
  (try dsimp only)
  repeat' first | split | (with_reducible refine canon_foldl _ ?_ _ _ ?_) | (with_reducible refine canon_foldl1 _ ?_ _ _ ?_) | (with_reducible refine canon_foldl2 _ ?_ _ _ ?_) | (with_reducible refine loaded_foldl _ ?_ _ _ ?_) | (with_reducible refine steps_foldl _ ?_ _ _ ?_) | (with_reducible refine runWord_canon _ _ _ ?_ ?_) | (with_reducible refine crossWord_canon _ _ _ ?_ ?_) | (with_reducible refine issue_canon _ _ _ _ ?_ ?_ ?_) | (with_reducible refine access_canon _ _ _ _ ?_ ?_ ?_) | (with_reducible refine bufAccess_canon _ _ _ _ ?_ ?_ ?_) | (with_reducible refine canon_getD ?_ ?_) | (intro _ _ _; try dsimp only) | (intro _ _; try dsimp only) | (intro _; try dsimp only)
  all_goals try simp (maxDischargeDepth := 20) +contextual [*]
@[simp] theorem acceptCommand_canon (s : State) (x : Eng1) (work : State → Eng1 → Ran) (hs : Canon s) (hwork : ∀ t x, Canon t → Canon (work t x).s) : Canon (acceptCommand s x work) := by
  unfold acceptCommand
  (try dsimp only)
  repeat' first | split | (with_reducible refine canon_foldl _ ?_ _ _ ?_) | (with_reducible refine canon_foldl1 _ ?_ _ _ ?_) | (with_reducible refine canon_foldl2 _ ?_ _ _ ?_) | (with_reducible refine loaded_foldl _ ?_ _ _ ?_) | (with_reducible refine steps_foldl _ ?_ _ _ ?_) | (with_reducible refine runWord_canon _ _ _ ?_ ?_) | (with_reducible refine crossWord_canon _ _ _ ?_ ?_) | (with_reducible refine issue_canon _ _ _ _ ?_ ?_ ?_) | (with_reducible refine access_canon _ _ _ _ ?_ ?_ ?_) | (with_reducible refine bufAccess_canon _ _ _ _ ?_ ?_ ?_) | (with_reducible refine canon_getD ?_ ?_) | (intro _ _ _; try dsimp only) | (intro _ _; try dsimp only) | (intro _; try dsimp only)
  all_goals try simp (maxDischargeDepth := 20) +contextual [*]
@[simp] theorem engineTakes_canon (s : State) (wid : Nat) (k : Fin 8) (op : Nat) (work : State → Eng1 → Ran) (hs : Canon s) (hwork : ∀ t x, Canon t → Canon (work t x).s) : Canon (engineTakes s wid k op work) := by
  unfold engineTakes
  (try dsimp only)
  repeat' first | split | (with_reducible refine canon_foldl _ ?_ _ _ ?_) | (with_reducible refine canon_foldl1 _ ?_ _ _ ?_) | (with_reducible refine canon_foldl2 _ ?_ _ _ ?_) | (with_reducible refine loaded_foldl _ ?_ _ _ ?_) | (with_reducible refine steps_foldl _ ?_ _ _ ?_) | (with_reducible refine runWord_canon _ _ _ ?_ ?_) | (with_reducible refine crossWord_canon _ _ _ ?_ ?_) | (with_reducible refine issue_canon _ _ _ _ ?_ ?_ ?_) | (with_reducible refine access_canon _ _ _ _ ?_ ?_ ?_) | (with_reducible refine bufAccess_canon _ _ _ _ ?_ ?_ ?_) | (with_reducible refine canon_getD ?_ ?_) | (intro _ _ _; try dsimp only) | (intro _ _; try dsimp only) | (intro _; try dsimp only)
  all_goals try simp (maxDischargeDepth := 20) +contextual [*]
@[simp] theorem onTile_canon (f : State → Eng1 → Tile → Ran) (s : State) (x : Eng1) (hf : ∀ t x y, Canon t → Canon (f t x y).s) (hs : Canon s) : Canon (onTile f s x).s := by
  unfold onTile
  (try dsimp only)
  repeat' first | split | (with_reducible refine canon_foldl _ ?_ _ _ ?_) | (with_reducible refine canon_foldl1 _ ?_ _ _ ?_) | (with_reducible refine canon_foldl2 _ ?_ _ _ ?_) | (with_reducible refine loaded_foldl _ ?_ _ _ ?_) | (with_reducible refine steps_foldl _ ?_ _ _ ?_) | (with_reducible refine runWord_canon _ _ _ ?_ ?_) | (with_reducible refine crossWord_canon _ _ _ ?_ ?_) | (with_reducible refine issue_canon _ _ _ _ ?_ ?_ ?_) | (with_reducible refine access_canon _ _ _ _ ?_ ?_ ?_) | (with_reducible refine bufAccess_canon _ _ _ _ ?_ ?_ ?_) | (with_reducible refine canon_getD ?_ ?_) | (intro _ _ _; try dsimp only) | (intro _ _; try dsimp only) | (intro _; try dsimp only)
  all_goals try simp (maxDischargeDepth := 20) +contextual [*]
theorem execCopy_canon (wave : Nat) (q : Fin 8) (s : State) (hs : Canon s) : OutC (execCopy wave q s) := by
  unfold execCopy
  (try dsimp only)
  repeat' first | split | (with_reducible refine canon_foldl _ ?_ _ _ ?_) | (with_reducible refine canon_foldl1 _ ?_ _ _ ?_) | (with_reducible refine canon_foldl2 _ ?_ _ _ ?_) | (with_reducible refine loaded_foldl _ ?_ _ _ ?_) | (with_reducible refine steps_foldl _ ?_ _ _ ?_) | (with_reducible refine runWord_canon _ _ _ ?_ ?_) | (with_reducible refine crossWord_canon _ _ _ ?_ ?_) | (with_reducible refine issue_canon _ _ _ _ ?_ ?_ ?_) | (with_reducible refine access_canon _ _ _ _ ?_ ?_ ?_) | (with_reducible refine bufAccess_canon _ _ _ _ ?_ ?_ ?_) | (with_reducible refine canon_getD ?_ ?_) | (intro _ _ _; try dsimp only) | (intro _ _; try dsimp only) | (intro _; try dsimp only)
  all_goals try simp (maxDischargeDepth := 20) +contextual [*]
theorem execLoada_canon (wave : Nat) (q : Fin 8) (s : State) (hs : Canon s) : OutC (execLoada wave q s) := by
  unfold execLoada
  (try dsimp only)
  repeat' first | split | (with_reducible refine canon_foldl _ ?_ _ _ ?_) | (with_reducible refine canon_foldl1 _ ?_ _ _ ?_) | (with_reducible refine canon_foldl2 _ ?_ _ _ ?_) | (with_reducible refine loaded_foldl _ ?_ _ _ ?_) | (with_reducible refine steps_foldl _ ?_ _ _ ?_) | (with_reducible refine runWord_canon _ _ _ ?_ ?_) | (with_reducible refine crossWord_canon _ _ _ ?_ ?_) | (with_reducible refine issue_canon _ _ _ _ ?_ ?_ ?_) | (with_reducible refine access_canon _ _ _ _ ?_ ?_ ?_) | (with_reducible refine bufAccess_canon _ _ _ _ ?_ ?_ ?_) | (with_reducible refine canon_getD ?_ ?_) | (intro _ _ _; try dsimp only) | (intro _ _; try dsimp only) | (intro _; try dsimp only)
  all_goals try simp (maxDischargeDepth := 20) +contextual [*]
theorem execLoadw_canon (wave : Nat) (q : Fin 8) (s : State) (hs : Canon s) : OutC (execLoadw wave q s) := by
  unfold execLoadw
  (try dsimp only)
  repeat' first | split | (with_reducible refine canon_foldl _ ?_ _ _ ?_) | (with_reducible refine canon_foldl1 _ ?_ _ _ ?_) | (with_reducible refine canon_foldl2 _ ?_ _ _ ?_) | (with_reducible refine loaded_foldl _ ?_ _ _ ?_) | (with_reducible refine steps_foldl _ ?_ _ _ ?_) | (with_reducible refine runWord_canon _ _ _ ?_ ?_) | (with_reducible refine crossWord_canon _ _ _ ?_ ?_) | (with_reducible refine issue_canon _ _ _ _ ?_ ?_ ?_) | (with_reducible refine access_canon _ _ _ _ ?_ ?_ ?_) | (with_reducible refine bufAccess_canon _ _ _ _ ?_ ?_ ?_) | (with_reducible refine canon_getD ?_ ?_) | (intro _ _ _; try dsimp only) | (intro _ _; try dsimp only) | (intro _; try dsimp only)
  all_goals try simp (maxDischargeDepth := 20) +contextual [*]
theorem execStorea_canon (wave : Nat) (q : Fin 8) (s : State) (hs : Canon s) : OutC (execStorea wave q s) := by
  unfold execStorea
  (try dsimp only)
  repeat' first | split | (with_reducible refine canon_foldl _ ?_ _ _ ?_) | (with_reducible refine canon_foldl1 _ ?_ _ _ ?_) | (with_reducible refine canon_foldl2 _ ?_ _ _ ?_) | (with_reducible refine loaded_foldl _ ?_ _ _ ?_) | (with_reducible refine steps_foldl _ ?_ _ _ ?_) | (with_reducible refine runWord_canon _ _ _ ?_ ?_) | (with_reducible refine crossWord_canon _ _ _ ?_ ?_) | (with_reducible refine issue_canon _ _ _ _ ?_ ?_ ?_) | (with_reducible refine access_canon _ _ _ _ ?_ ?_ ?_) | (with_reducible refine bufAccess_canon _ _ _ _ ?_ ?_ ?_) | (with_reducible refine canon_getD ?_ ?_) | (intro _ _ _; try dsimp only) | (intro _ _; try dsimp only) | (intro _; try dsimp only)
  all_goals try simp (maxDischargeDepth := 20) +contextual [*]
theorem execGather_canon (wave : Nat) (q : Fin 8) (s : State) (hs : Canon s) : OutC (execGather wave q s) := by
  unfold execGather
  (try dsimp only)
  repeat' first | split | (with_reducible refine canon_foldl _ ?_ _ _ ?_) | (with_reducible refine canon_foldl1 _ ?_ _ _ ?_) | (with_reducible refine canon_foldl2 _ ?_ _ _ ?_) | (with_reducible refine loaded_foldl _ ?_ _ _ ?_) | (with_reducible refine steps_foldl _ ?_ _ _ ?_) | (with_reducible refine runWord_canon _ _ _ ?_ ?_) | (with_reducible refine crossWord_canon _ _ _ ?_ ?_) | (with_reducible refine issue_canon _ _ _ _ ?_ ?_ ?_) | (with_reducible refine access_canon _ _ _ _ ?_ ?_ ?_) | (with_reducible refine bufAccess_canon _ _ _ _ ?_ ?_ ?_) | (with_reducible refine canon_getD ?_ ?_) | (intro _ _ _; try dsimp only) | (intro _ _; try dsimp only) | (intro _; try dsimp only)
  all_goals try simp (maxDischargeDepth := 20) +contextual [*]
theorem execMcast_canon (wave : Nat) (q : Fin 8) (s : State) (hs : Canon s) : OutC (execMcast wave q s) := by
  unfold execMcast
  (try dsimp only)
  repeat' first | split | (with_reducible refine canon_foldl _ ?_ _ _ ?_) | (with_reducible refine canon_foldl1 _ ?_ _ _ ?_) | (with_reducible refine canon_foldl2 _ ?_ _ _ ?_) | (with_reducible refine loaded_foldl _ ?_ _ _ ?_) | (with_reducible refine steps_foldl _ ?_ _ _ ?_) | (with_reducible refine runWord_canon _ _ _ ?_ ?_) | (with_reducible refine crossWord_canon _ _ _ ?_ ?_) | (with_reducible refine issue_canon _ _ _ _ ?_ ?_ ?_) | (with_reducible refine access_canon _ _ _ _ ?_ ?_ ?_) | (with_reducible refine bufAccess_canon _ _ _ _ ?_ ?_ ?_) | (with_reducible refine canon_getD ?_ ?_) | (intro _ _ _; try dsimp only) | (intro _ _; try dsimp only) | (intro _; try dsimp only)
  all_goals try simp (maxDischargeDepth := 20) +contextual [*]
theorem execRstore_canon (wave : Nat) (q : Fin 8) (s : State) (hs : Canon s) : OutC (execRstore wave q s) := by
  unfold execRstore
  (try dsimp only)
  repeat' first | split | (with_reducible refine canon_foldl _ ?_ _ _ ?_) | (with_reducible refine canon_foldl1 _ ?_ _ _ ?_) | (with_reducible refine canon_foldl2 _ ?_ _ _ ?_) | (with_reducible refine loaded_foldl _ ?_ _ _ ?_) | (with_reducible refine steps_foldl _ ?_ _ _ ?_) | (with_reducible refine runWord_canon _ _ _ ?_ ?_) | (with_reducible refine crossWord_canon _ _ _ ?_ ?_) | (with_reducible refine issue_canon _ _ _ _ ?_ ?_ ?_) | (with_reducible refine access_canon _ _ _ _ ?_ ?_ ?_) | (with_reducible refine bufAccess_canon _ _ _ _ ?_ ?_ ?_) | (with_reducible refine canon_getD ?_ ?_) | (intro _ _ _; try dsimp only) | (intro _ _; try dsimp only) | (intro _; try dsimp only)
  all_goals try simp (maxDischargeDepth := 20) +contextual [*]
theorem execDrain_canon (wave : Nat) (q : Fin 8) (s : State) (hs : Canon s) : OutC (execDrain wave q s) := by
  unfold execDrain
  (try dsimp only)
  repeat' first | split | (with_reducible refine canon_foldl _ ?_ _ _ ?_) | (with_reducible refine canon_foldl1 _ ?_ _ _ ?_) | (with_reducible refine canon_foldl2 _ ?_ _ _ ?_) | (with_reducible refine loaded_foldl _ ?_ _ _ ?_) | (with_reducible refine steps_foldl _ ?_ _ _ ?_) | (with_reducible refine runWord_canon _ _ _ ?_ ?_) | (with_reducible refine crossWord_canon _ _ _ ?_ ?_) | (with_reducible refine issue_canon _ _ _ _ ?_ ?_ ?_) | (with_reducible refine access_canon _ _ _ _ ?_ ?_ ?_) | (with_reducible refine bufAccess_canon _ _ _ _ ?_ ?_ ?_) | (with_reducible refine canon_getD ?_ ?_) | (intro _ _ _; try dsimp only) | (intro _ _; try dsimp only) | (intro _; try dsimp only)
  all_goals try simp (maxDischargeDepth := 20) +contextual [*]
@[simp] theorem endCommand_canon (s : State) (w : Wave) (k : Fin 8) (c : Command) (hs : Canon s) : Canon (endCommand s w k c) := by
  unfold endCommand
  (try dsimp only)
  repeat' first | split | (with_reducible refine canon_foldl _ ?_ _ _ ?_) | (with_reducible refine canon_foldl1 _ ?_ _ _ ?_) | (with_reducible refine canon_foldl2 _ ?_ _ _ ?_) | (with_reducible refine loaded_foldl _ ?_ _ _ ?_) | (with_reducible refine steps_foldl _ ?_ _ _ ?_) | (with_reducible refine runWord_canon _ _ _ ?_ ?_) | (with_reducible refine crossWord_canon _ _ _ ?_ ?_) | (with_reducible refine issue_canon _ _ _ _ ?_ ?_ ?_) | (with_reducible refine access_canon _ _ _ _ ?_ ?_ ?_) | (with_reducible refine bufAccess_canon _ _ _ _ ?_ ?_ ?_) | (with_reducible refine canon_getD ?_ ?_) | (intro _ _ _; try dsimp only) | (intro _ _; try dsimp only) | (intro _; try dsimp only)
  all_goals try simp (maxDischargeDepth := 20) +contextual [*]
@[simp] theorem completeCommand_canon (s : State) (wid : Nat) (k : Fin 8) (hs : Canon s) : Canon (completeCommand s wid k) := by
  unfold completeCommand
  (try dsimp only)
  repeat' first | split | (with_reducible refine canon_foldl _ ?_ _ _ ?_) | (with_reducible refine canon_foldl1 _ ?_ _ _ ?_) | (with_reducible refine canon_foldl2 _ ?_ _ _ ?_) | (with_reducible refine loaded_foldl _ ?_ _ _ ?_) | (with_reducible refine steps_foldl _ ?_ _ _ ?_) | (with_reducible refine runWord_canon _ _ _ ?_ ?_) | (with_reducible refine crossWord_canon _ _ _ ?_ ?_) | (with_reducible refine issue_canon _ _ _ _ ?_ ?_ ?_) | (with_reducible refine access_canon _ _ _ _ ?_ ?_ ?_) | (with_reducible refine bufAccess_canon _ _ _ _ ?_ ?_ ?_) | (with_reducible refine canon_getD ?_ ?_) | (intro _ _ _; try dsimp only) | (intro _ _; try dsimp only) | (intro _; try dsimp only)
  all_goals try simp (maxDischargeDepth := 20) +contextual [*]
theorem execEngineCommandComplete_canon (wave : Nat) (q : Fin 8) (s : State) (hs : Canon s) : OutC (execEngineCommandComplete wave q s) := by
  unfold execEngineCommandComplete
  (try dsimp only)
  repeat' first | split | (with_reducible refine canon_foldl _ ?_ _ _ ?_) | (with_reducible refine canon_foldl1 _ ?_ _ _ ?_) | (with_reducible refine canon_foldl2 _ ?_ _ _ ?_) | (with_reducible refine loaded_foldl _ ?_ _ _ ?_) | (with_reducible refine steps_foldl _ ?_ _ _ ?_) | (with_reducible refine runWord_canon _ _ _ ?_ ?_) | (with_reducible refine crossWord_canon _ _ _ ?_ ?_) | (with_reducible refine issue_canon _ _ _ _ ?_ ?_ ?_) | (with_reducible refine access_canon _ _ _ _ ?_ ?_ ?_) | (with_reducible refine bufAccess_canon _ _ _ _ ?_ ?_ ?_) | (with_reducible refine canon_getD ?_ ?_) | (intro _ _ _; try dsimp only) | (intro _ _; try dsimp only) | (intro _; try dsimp only)
  all_goals try simp (maxDischargeDepth := 20) +contextual [*]
@[simp] theorem grantEntry_canon (s : State) (w : Wave) (x : Nat × Nat × Nat) (key : List (Nat × Nat × Nat)) (hs : Canon s) : Canon (grantEntry s w x key) := by
  unfold grantEntry
  (try dsimp only)
  repeat' first | split | (with_reducible refine canon_foldl _ ?_ _ _ ?_) | (with_reducible refine canon_foldl1 _ ?_ _ _ ?_) | (with_reducible refine canon_foldl2 _ ?_ _ _ ?_) | (with_reducible refine loaded_foldl _ ?_ _ _ ?_) | (with_reducible refine steps_foldl _ ?_ _ _ ?_) | (with_reducible refine runWord_canon _ _ _ ?_ ?_) | (with_reducible refine crossWord_canon _ _ _ ?_ ?_) | (with_reducible refine issue_canon _ _ _ _ ?_ ?_ ?_) | (with_reducible refine access_canon _ _ _ _ ?_ ?_ ?_) | (with_reducible refine bufAccess_canon _ _ _ _ ?_ ?_ ?_) | (with_reducible refine canon_getD ?_ ?_) | (intro _ _ _; try dsimp only) | (intro _ _; try dsimp only) | (intro _; try dsimp only)
  all_goals try simp (maxDischargeDepth := 20) +contextual [*]
@[simp] theorem queueCycle_canon (s : State) (w : Wave) (hs : Canon s) : Canon (queueCycle s w) := by
  unfold queueCycle
  (try dsimp only)
  repeat' first | split | (with_reducible refine canon_foldl _ ?_ _ _ ?_) | (with_reducible refine canon_foldl1 _ ?_ _ _ ?_) | (with_reducible refine canon_foldl2 _ ?_ _ _ ?_) | (with_reducible refine loaded_foldl _ ?_ _ _ ?_) | (with_reducible refine steps_foldl _ ?_ _ _ ?_) | (with_reducible refine runWord_canon _ _ _ ?_ ?_) | (with_reducible refine crossWord_canon _ _ _ ?_ ?_) | (with_reducible refine issue_canon _ _ _ _ ?_ ?_ ?_) | (with_reducible refine access_canon _ _ _ _ ?_ ?_ ?_) | (with_reducible refine bufAccess_canon _ _ _ _ ?_ ?_ ?_) | (with_reducible refine canon_getD ?_ ?_) | (intro _ _ _; try dsimp only) | (intro _ _; try dsimp only) | (intro _; try dsimp only)
  all_goals try simp (maxDischargeDepth := 20) +contextual [*]
@[simp] theorem returnToken_canon (s : State) (w : Wave) (l : List (Nat × Nat × Nat)) (hs : Canon s) : Canon (returnToken s w l) := by
  unfold returnToken
  (try dsimp only)
  repeat' first | split | (with_reducible refine canon_foldl _ ?_ _ _ ?_) | (with_reducible refine canon_foldl1 _ ?_ _ _ ?_) | (with_reducible refine canon_foldl2 _ ?_ _ _ ?_) | (with_reducible refine loaded_foldl _ ?_ _ _ ?_) | (with_reducible refine steps_foldl _ ?_ _ _ ?_) | (with_reducible refine runWord_canon _ _ _ ?_ ?_) | (with_reducible refine crossWord_canon _ _ _ ?_ ?_) | (with_reducible refine issue_canon _ _ _ _ ?_ ?_ ?_) | (with_reducible refine access_canon _ _ _ _ ?_ ?_ ?_) | (with_reducible refine bufAccess_canon _ _ _ _ ?_ ?_ ?_) | (with_reducible refine canon_getD ?_ ?_) | (intro _ _ _; try dsimp only) | (intro _ _; try dsimp only) | (intro _; try dsimp only)
  all_goals try simp (maxDischargeDepth := 20) +contextual [*]
@[simp] theorem probe_canon (s : State) (wid : Nat) (k : Fin 8) (hs : Canon s) : Canon (probe s wid k) := by
  unfold probe
  (try dsimp only)
  repeat' first | split | (with_reducible refine canon_foldl _ ?_ _ _ ?_) | (with_reducible refine canon_foldl1 _ ?_ _ _ ?_) | (with_reducible refine canon_foldl2 _ ?_ _ _ ?_) | (with_reducible refine loaded_foldl _ ?_ _ _ ?_) | (with_reducible refine steps_foldl _ ?_ _ _ ?_) | (with_reducible refine runWord_canon _ _ _ ?_ ?_) | (with_reducible refine crossWord_canon _ _ _ ?_ ?_) | (with_reducible refine issue_canon _ _ _ _ ?_ ?_ ?_) | (with_reducible refine access_canon _ _ _ _ ?_ ?_ ?_) | (with_reducible refine bufAccess_canon _ _ _ _ ?_ ?_ ?_) | (with_reducible refine canon_getD ?_ ?_) | (intro _ _ _; try dsimp only) | (intro _ _; try dsimp only) | (intro _; try dsimp only)
  all_goals try simp (maxDischargeDepth := 20) +contextual [*]
theorem execProbeToken_canon (wave : Nat) (q : Fin 8) (s : State) (hs : Canon s) : OutC (execProbeToken wave q s) := by
  unfold execProbeToken
  (try dsimp only)
  repeat' first | split | (with_reducible refine canon_foldl _ ?_ _ _ ?_) | (with_reducible refine canon_foldl1 _ ?_ _ _ ?_) | (with_reducible refine canon_foldl2 _ ?_ _ _ ?_) | (with_reducible refine loaded_foldl _ ?_ _ _ ?_) | (with_reducible refine steps_foldl _ ?_ _ _ ?_) | (with_reducible refine runWord_canon _ _ _ ?_ ?_) | (with_reducible refine crossWord_canon _ _ _ ?_ ?_) | (with_reducible refine issue_canon _ _ _ _ ?_ ?_ ?_) | (with_reducible refine access_canon _ _ _ _ ?_ ?_ ?_) | (with_reducible refine bufAccess_canon _ _ _ _ ?_ ?_ ?_) | (with_reducible refine canon_getD ?_ ?_) | (intro _ _ _; try dsimp only) | (intro _ _; try dsimp only) | (intro _; try dsimp only)
  all_goals try simp (maxDischargeDepth := 20) +contextual [*]

/-! ### Float -/

@[simp] theorem floatWord_canon (f : Nat → Nat → Nat → Nat × Flags) (c : Ctx) (hc : Canon c.s) : ResC (floatWord f c) := by
  unfold floatWord
  (try dsimp only)
  repeat' first | split | (with_reducible refine canon_foldl _ ?_ _ _ ?_) | (with_reducible refine canon_foldl1 _ ?_ _ _ ?_) | (with_reducible refine canon_foldl2 _ ?_ _ _ ?_) | (with_reducible refine loaded_foldl _ ?_ _ _ ?_) | (with_reducible refine steps_foldl _ ?_ _ _ ?_) | (with_reducible refine runWord_canon _ _ _ ?_ ?_) | (with_reducible refine crossWord_canon _ _ _ ?_ ?_) | (with_reducible refine issue_canon _ _ _ _ ?_ ?_ ?_) | (with_reducible refine access_canon _ _ _ _ ?_ ?_ ?_) | (with_reducible refine bufAccess_canon _ _ _ _ ?_ ?_ ?_) | (with_reducible refine canon_getD ?_ ?_) | (intro _ _ _; try dsimp only) | (intro _ _; try dsimp only) | (intro _; try dsimp only)
  all_goals try simp (maxDischargeDepth := 20) +contextual [*]
@[simp] theorem cvtWord_canon (src dst : Fmt) (r : Rnd) (c : Ctx) (hc : Canon c.s) : ResC (cvtWord src dst r c) := by
  unfold cvtWord
  (try dsimp only)
  repeat' first | split | (with_reducible refine canon_foldl _ ?_ _ _ ?_) | (with_reducible refine canon_foldl1 _ ?_ _ _ ?_) | (with_reducible refine canon_foldl2 _ ?_ _ _ ?_) | (with_reducible refine loaded_foldl _ ?_ _ _ ?_) | (with_reducible refine steps_foldl _ ?_ _ _ ?_) | (with_reducible refine runWord_canon _ _ _ ?_ ?_) | (with_reducible refine crossWord_canon _ _ _ ?_ ?_) | (with_reducible refine issue_canon _ _ _ _ ?_ ?_ ?_) | (with_reducible refine access_canon _ _ _ _ ?_ ?_ ?_) | (with_reducible refine bufAccess_canon _ _ _ _ ?_ ?_ ?_) | (with_reducible refine canon_getD ?_ ?_) | (intro _ _ _; try dsimp only) | (intro _ _; try dsimp only) | (intro _; try dsimp only)
  all_goals try simp (maxDischargeDepth := 20) +contextual [*]
theorem execFadd_canon (e k : Bool) (d a b : Reg) (r : Rnd) (s : State) (hs : Canon s) : OutC (execFadd e k d a b r s) := by
  unfold execFadd
  (try dsimp only)
  repeat' first | split | (with_reducible refine canon_foldl _ ?_ _ _ ?_) | (with_reducible refine canon_foldl1 _ ?_ _ _ ?_) | (with_reducible refine canon_foldl2 _ ?_ _ _ ?_) | (with_reducible refine loaded_foldl _ ?_ _ _ ?_) | (with_reducible refine steps_foldl _ ?_ _ _ ?_) | (with_reducible refine runWord_canon _ _ _ ?_ ?_) | (with_reducible refine crossWord_canon _ _ _ ?_ ?_) | (with_reducible refine issue_canon _ _ _ _ ?_ ?_ ?_) | (with_reducible refine access_canon _ _ _ _ ?_ ?_ ?_) | (with_reducible refine bufAccess_canon _ _ _ _ ?_ ?_ ?_) | (with_reducible refine canon_getD ?_ ?_) | (intro _ _ _; try dsimp only) | (intro _ _; try dsimp only) | (intro _; try dsimp only)
  all_goals try simp (maxDischargeDepth := 20) +contextual [*]
theorem execFsub_canon (e k : Bool) (d a b : Reg) (r : Rnd) (s : State) (hs : Canon s) : OutC (execFsub e k d a b r s) := by
  unfold execFsub
  (try dsimp only)
  repeat' first | split | (with_reducible refine canon_foldl _ ?_ _ _ ?_) | (with_reducible refine canon_foldl1 _ ?_ _ _ ?_) | (with_reducible refine canon_foldl2 _ ?_ _ _ ?_) | (with_reducible refine loaded_foldl _ ?_ _ _ ?_) | (with_reducible refine steps_foldl _ ?_ _ _ ?_) | (with_reducible refine runWord_canon _ _ _ ?_ ?_) | (with_reducible refine crossWord_canon _ _ _ ?_ ?_) | (with_reducible refine issue_canon _ _ _ _ ?_ ?_ ?_) | (with_reducible refine access_canon _ _ _ _ ?_ ?_ ?_) | (with_reducible refine bufAccess_canon _ _ _ _ ?_ ?_ ?_) | (with_reducible refine canon_getD ?_ ?_) | (intro _ _ _; try dsimp only) | (intro _ _; try dsimp only) | (intro _; try dsimp only)
  all_goals try simp (maxDischargeDepth := 20) +contextual [*]
theorem execFmul_canon (e k : Bool) (d a b : Reg) (r : Rnd) (s : State) (hs : Canon s) : OutC (execFmul e k d a b r s) := by
  unfold execFmul
  (try dsimp only)
  repeat' first | split | (with_reducible refine canon_foldl _ ?_ _ _ ?_) | (with_reducible refine canon_foldl1 _ ?_ _ _ ?_) | (with_reducible refine canon_foldl2 _ ?_ _ _ ?_) | (with_reducible refine loaded_foldl _ ?_ _ _ ?_) | (with_reducible refine steps_foldl _ ?_ _ _ ?_) | (with_reducible refine runWord_canon _ _ _ ?_ ?_) | (with_reducible refine crossWord_canon _ _ _ ?_ ?_) | (with_reducible refine issue_canon _ _ _ _ ?_ ?_ ?_) | (with_reducible refine access_canon _ _ _ _ ?_ ?_ ?_) | (with_reducible refine bufAccess_canon _ _ _ _ ?_ ?_ ?_) | (with_reducible refine canon_getD ?_ ?_) | (intro _ _ _; try dsimp only) | (intro _ _; try dsimp only) | (intro _; try dsimp only)
  all_goals try simp (maxDischargeDepth := 20) +contextual [*]
theorem execFfma_canon (e k : Bool) (d a b : Reg) (r : Rnd) (s : State) (hs : Canon s) : OutC (execFfma e k d a b r s) := by
  unfold execFfma
  (try dsimp only)
  repeat' first | split | (with_reducible refine canon_foldl _ ?_ _ _ ?_) | (with_reducible refine canon_foldl1 _ ?_ _ _ ?_) | (with_reducible refine canon_foldl2 _ ?_ _ _ ?_) | (with_reducible refine loaded_foldl _ ?_ _ _ ?_) | (with_reducible refine steps_foldl _ ?_ _ _ ?_) | (with_reducible refine runWord_canon _ _ _ ?_ ?_) | (with_reducible refine crossWord_canon _ _ _ ?_ ?_) | (with_reducible refine issue_canon _ _ _ _ ?_ ?_ ?_) | (with_reducible refine access_canon _ _ _ _ ?_ ?_ ?_) | (with_reducible refine bufAccess_canon _ _ _ _ ?_ ?_ ?_) | (with_reducible refine canon_getD ?_ ?_) | (intro _ _ _; try dsimp only) | (intro _ _; try dsimp only) | (intro _; try dsimp only)
  all_goals try simp (maxDischargeDepth := 20) +contextual [*]
theorem execFmin_canon (e k : Bool) (d a b : Reg) (s : State) (hs : Canon s) : OutC (execFmin e k d a b s) := by
  unfold execFmin
  (try dsimp only)
  repeat' first | split | (with_reducible refine canon_foldl _ ?_ _ _ ?_) | (with_reducible refine canon_foldl1 _ ?_ _ _ ?_) | (with_reducible refine canon_foldl2 _ ?_ _ _ ?_) | (with_reducible refine loaded_foldl _ ?_ _ _ ?_) | (with_reducible refine steps_foldl _ ?_ _ _ ?_) | (with_reducible refine runWord_canon _ _ _ ?_ ?_) | (with_reducible refine crossWord_canon _ _ _ ?_ ?_) | (with_reducible refine issue_canon _ _ _ _ ?_ ?_ ?_) | (with_reducible refine access_canon _ _ _ _ ?_ ?_ ?_) | (with_reducible refine bufAccess_canon _ _ _ _ ?_ ?_ ?_) | (with_reducible refine canon_getD ?_ ?_) | (intro _ _ _; try dsimp only) | (intro _ _; try dsimp only) | (intro _; try dsimp only)
  all_goals try simp (maxDischargeDepth := 20) +contextual [*]
theorem execFmax_canon (e k : Bool) (d a b : Reg) (s : State) (hs : Canon s) : OutC (execFmax e k d a b s) := by
  unfold execFmax
  (try dsimp only)
  repeat' first | split | (with_reducible refine canon_foldl _ ?_ _ _ ?_) | (with_reducible refine canon_foldl1 _ ?_ _ _ ?_) | (with_reducible refine canon_foldl2 _ ?_ _ _ ?_) | (with_reducible refine loaded_foldl _ ?_ _ _ ?_) | (with_reducible refine steps_foldl _ ?_ _ _ ?_) | (with_reducible refine runWord_canon _ _ _ ?_ ?_) | (with_reducible refine crossWord_canon _ _ _ ?_ ?_) | (with_reducible refine issue_canon _ _ _ _ ?_ ?_ ?_) | (with_reducible refine access_canon _ _ _ _ ?_ ?_ ?_) | (with_reducible refine bufAccess_canon _ _ _ _ ?_ ?_ ?_) | (with_reducible refine canon_getD ?_ ?_) | (intro _ _ _; try dsimp only) | (intro _ _; try dsimp only) | (intro _; try dsimp only)
  all_goals try simp (maxDischargeDepth := 20) +contextual [*]
theorem execFrcp_canon (e k : Bool) (d a : Reg) (s : State) (hs : Canon s) : OutC (execFrcp e k d a s) := by
  unfold execFrcp
  (try dsimp only)
  repeat' first | split | (with_reducible refine canon_foldl _ ?_ _ _ ?_) | (with_reducible refine canon_foldl1 _ ?_ _ _ ?_) | (with_reducible refine canon_foldl2 _ ?_ _ _ ?_) | (with_reducible refine loaded_foldl _ ?_ _ _ ?_) | (with_reducible refine steps_foldl _ ?_ _ _ ?_) | (with_reducible refine runWord_canon _ _ _ ?_ ?_) | (with_reducible refine crossWord_canon _ _ _ ?_ ?_) | (with_reducible refine issue_canon _ _ _ _ ?_ ?_ ?_) | (with_reducible refine access_canon _ _ _ _ ?_ ?_ ?_) | (with_reducible refine bufAccess_canon _ _ _ _ ?_ ?_ ?_) | (with_reducible refine canon_getD ?_ ?_) | (intro _ _ _; try dsimp only) | (intro _ _; try dsimp only) | (intro _; try dsimp only)
  all_goals try simp (maxDischargeDepth := 20) +contextual [*]
theorem execFrsq_canon (e k : Bool) (d a : Reg) (s : State) (hs : Canon s) : OutC (execFrsq e k d a s) := by
  unfold execFrsq
  (try dsimp only)
  repeat' first | split | (with_reducible refine canon_foldl _ ?_ _ _ ?_) | (with_reducible refine canon_foldl1 _ ?_ _ _ ?_) | (with_reducible refine canon_foldl2 _ ?_ _ _ ?_) | (with_reducible refine loaded_foldl _ ?_ _ _ ?_) | (with_reducible refine steps_foldl _ ?_ _ _ ?_) | (with_reducible refine runWord_canon _ _ _ ?_ ?_) | (with_reducible refine crossWord_canon _ _ _ ?_ ?_) | (with_reducible refine issue_canon _ _ _ _ ?_ ?_ ?_) | (with_reducible refine access_canon _ _ _ _ ?_ ?_ ?_) | (with_reducible refine bufAccess_canon _ _ _ _ ?_ ?_ ?_) | (with_reducible refine canon_getD ?_ ?_) | (intro _ _ _; try dsimp only) | (intro _ _; try dsimp only) | (intro _; try dsimp only)
  all_goals try simp (maxDischargeDepth := 20) +contextual [*]
theorem execFsqrt_canon (e k : Bool) (d a : Reg) (s : State) (hs : Canon s) : OutC (execFsqrt e k d a s) := by
  unfold execFsqrt
  (try dsimp only)
  repeat' first | split | (with_reducible refine canon_foldl _ ?_ _ _ ?_) | (with_reducible refine canon_foldl1 _ ?_ _ _ ?_) | (with_reducible refine canon_foldl2 _ ?_ _ _ ?_) | (with_reducible refine loaded_foldl _ ?_ _ _ ?_) | (with_reducible refine steps_foldl _ ?_ _ _ ?_) | (with_reducible refine runWord_canon _ _ _ ?_ ?_) | (with_reducible refine crossWord_canon _ _ _ ?_ ?_) | (with_reducible refine issue_canon _ _ _ _ ?_ ?_ ?_) | (with_reducible refine access_canon _ _ _ _ ?_ ?_ ?_) | (with_reducible refine bufAccess_canon _ _ _ _ ?_ ?_ ?_) | (with_reducible refine canon_getD ?_ ?_) | (intro _ _ _; try dsimp only) | (intro _ _; try dsimp only) | (intro _; try dsimp only)
  all_goals try simp (maxDischargeDepth := 20) +contextual [*]
theorem execFexp2_canon (e k : Bool) (d a : Reg) (s : State) (hs : Canon s) : OutC (execFexp2 e k d a s) := by
  unfold execFexp2
  (try dsimp only)
  repeat' first | split | (with_reducible refine canon_foldl _ ?_ _ _ ?_) | (with_reducible refine canon_foldl1 _ ?_ _ _ ?_) | (with_reducible refine canon_foldl2 _ ?_ _ _ ?_) | (with_reducible refine loaded_foldl _ ?_ _ _ ?_) | (with_reducible refine steps_foldl _ ?_ _ _ ?_) | (with_reducible refine runWord_canon _ _ _ ?_ ?_) | (with_reducible refine crossWord_canon _ _ _ ?_ ?_) | (with_reducible refine issue_canon _ _ _ _ ?_ ?_ ?_) | (with_reducible refine access_canon _ _ _ _ ?_ ?_ ?_) | (with_reducible refine bufAccess_canon _ _ _ _ ?_ ?_ ?_) | (with_reducible refine canon_getD ?_ ?_) | (intro _ _ _; try dsimp only) | (intro _ _; try dsimp only) | (intro _; try dsimp only)
  all_goals try simp (maxDischargeDepth := 20) +contextual [*]
theorem execFlog2_canon (e k : Bool) (d a : Reg) (s : State) (hs : Canon s) : OutC (execFlog2 e k d a s) := by
  unfold execFlog2
  (try dsimp only)
  repeat' first | split | (with_reducible refine canon_foldl _ ?_ _ _ ?_) | (with_reducible refine canon_foldl1 _ ?_ _ _ ?_) | (with_reducible refine canon_foldl2 _ ?_ _ _ ?_) | (with_reducible refine loaded_foldl _ ?_ _ _ ?_) | (with_reducible refine steps_foldl _ ?_ _ _ ?_) | (with_reducible refine runWord_canon _ _ _ ?_ ?_) | (with_reducible refine crossWord_canon _ _ _ ?_ ?_) | (with_reducible refine issue_canon _ _ _ _ ?_ ?_ ?_) | (with_reducible refine access_canon _ _ _ _ ?_ ?_ ?_) | (with_reducible refine bufAccess_canon _ _ _ _ ?_ ?_ ?_) | (with_reducible refine canon_getD ?_ ?_) | (intro _ _ _; try dsimp only) | (intro _ _; try dsimp only) | (intro _; try dsimp only)
  all_goals try simp (maxDischargeDepth := 20) +contextual [*]
theorem execFsinpi_canon (e k : Bool) (d a : Reg) (s : State) (hs : Canon s) : OutC (execFsinpi e k d a s) := by
  unfold execFsinpi
  (try dsimp only)
  repeat' first | split | (with_reducible refine canon_foldl _ ?_ _ _ ?_) | (with_reducible refine canon_foldl1 _ ?_ _ _ ?_) | (with_reducible refine canon_foldl2 _ ?_ _ _ ?_) | (with_reducible refine loaded_foldl _ ?_ _ _ ?_) | (with_reducible refine steps_foldl _ ?_ _ _ ?_) | (with_reducible refine runWord_canon _ _ _ ?_ ?_) | (with_reducible refine crossWord_canon _ _ _ ?_ ?_) | (with_reducible refine issue_canon _ _ _ _ ?_ ?_ ?_) | (with_reducible refine access_canon _ _ _ _ ?_ ?_ ?_) | (with_reducible refine bufAccess_canon _ _ _ _ ?_ ?_ ?_) | (with_reducible refine canon_getD ?_ ?_) | (intro _ _ _; try dsimp only) | (intro _ _; try dsimp only) | (intro _; try dsimp only)
  all_goals try simp (maxDischargeDepth := 20) +contextual [*]
theorem execFcospi_canon (e k : Bool) (d a : Reg) (s : State) (hs : Canon s) : OutC (execFcospi e k d a s) := by
  unfold execFcospi
  (try dsimp only)
  repeat' first | split | (with_reducible refine canon_foldl _ ?_ _ _ ?_) | (with_reducible refine canon_foldl1 _ ?_ _ _ ?_) | (with_reducible refine canon_foldl2 _ ?_ _ _ ?_) | (with_reducible refine loaded_foldl _ ?_ _ _ ?_) | (with_reducible refine steps_foldl _ ?_ _ _ ?_) | (with_reducible refine runWord_canon _ _ _ ?_ ?_) | (with_reducible refine crossWord_canon _ _ _ ?_ ?_) | (with_reducible refine issue_canon _ _ _ _ ?_ ?_ ?_) | (with_reducible refine access_canon _ _ _ _ ?_ ?_ ?_) | (with_reducible refine bufAccess_canon _ _ _ _ ?_ ?_ ?_) | (with_reducible refine canon_getD ?_ ?_) | (intro _ _ _; try dsimp only) | (intro _ _; try dsimp only) | (intro _; try dsimp only)
  all_goals try simp (maxDischargeDepth := 20) +contextual [*]
theorem execFclass_canon (e k : Bool) (d a : Reg) (s : State) (hs : Canon s) : OutC (execFclass e k d a s) := by
  unfold execFclass
  (try dsimp only)
  repeat' first | split | (with_reducible refine canon_foldl _ ?_ _ _ ?_) | (with_reducible refine canon_foldl1 _ ?_ _ _ ?_) | (with_reducible refine canon_foldl2 _ ?_ _ _ ?_) | (with_reducible refine loaded_foldl _ ?_ _ _ ?_) | (with_reducible refine steps_foldl _ ?_ _ _ ?_) | (with_reducible refine runWord_canon _ _ _ ?_ ?_) | (with_reducible refine crossWord_canon _ _ _ ?_ ?_) | (with_reducible refine issue_canon _ _ _ _ ?_ ?_ ?_) | (with_reducible refine access_canon _ _ _ _ ?_ ?_ ?_) | (with_reducible refine bufAccess_canon _ _ _ _ ?_ ?_ ?_) | (with_reducible refine canon_getD ?_ ?_) | (intro _ _ _; try dsimp only) | (intro _ _; try dsimp only) | (intro _; try dsimp only)
  all_goals try simp (maxDischargeDepth := 20) +contextual [*]
theorem execHadd2_canon (e k : Bool) (d a b : Reg) (s : State) (hs : Canon s) : OutC (execHadd2 e k d a b s) := by
  unfold execHadd2
  (try dsimp only)
  repeat' first | split | (with_reducible refine canon_foldl _ ?_ _ _ ?_) | (with_reducible refine canon_foldl1 _ ?_ _ _ ?_) | (with_reducible refine canon_foldl2 _ ?_ _ _ ?_) | (with_reducible refine loaded_foldl _ ?_ _ _ ?_) | (with_reducible refine steps_foldl _ ?_ _ _ ?_) | (with_reducible refine runWord_canon _ _ _ ?_ ?_) | (with_reducible refine crossWord_canon _ _ _ ?_ ?_) | (with_reducible refine issue_canon _ _ _ _ ?_ ?_ ?_) | (with_reducible refine access_canon _ _ _ _ ?_ ?_ ?_) | (with_reducible refine bufAccess_canon _ _ _ _ ?_ ?_ ?_) | (with_reducible refine canon_getD ?_ ?_) | (intro _ _ _; try dsimp only) | (intro _ _; try dsimp only) | (intro _; try dsimp only)
  all_goals try simp (maxDischargeDepth := 20) +contextual [*]
theorem execHmul2_canon (e k : Bool) (d a b : Reg) (s : State) (hs : Canon s) : OutC (execHmul2 e k d a b s) := by
  unfold execHmul2
  (try dsimp only)
  repeat' first | split | (with_reducible refine canon_foldl _ ?_ _ _ ?_) | (with_reducible refine canon_foldl1 _ ?_ _ _ ?_) | (with_reducible refine canon_foldl2 _ ?_ _ _ ?_) | (with_reducible refine loaded_foldl _ ?_ _ _ ?_) | (with_reducible refine steps_foldl _ ?_ _ _ ?_) | (with_reducible refine runWord_canon _ _ _ ?_ ?_) | (with_reducible refine crossWord_canon _ _ _ ?_ ?_) | (with_reducible refine issue_canon _ _ _ _ ?_ ?_ ?_) | (with_reducible refine access_canon _ _ _ _ ?_ ?_ ?_) | (with_reducible refine bufAccess_canon _ _ _ _ ?_ ?_ ?_) | (with_reducible refine canon_getD ?_ ?_) | (intro _ _ _; try dsimp only) | (intro _ _; try dsimp only) | (intro _; try dsimp only)
  all_goals try simp (maxDischargeDepth := 20) +contextual [*]
theorem execHfma2_canon (e k : Bool) (d a b : Reg) (s : State) (hs : Canon s) : OutC (execHfma2 e k d a b s) := by
  unfold execHfma2
  (try dsimp only)
  repeat' first | split | (with_reducible refine canon_foldl _ ?_ _ _ ?_) | (with_reducible refine canon_foldl1 _ ?_ _ _ ?_) | (with_reducible refine canon_foldl2 _ ?_ _ _ ?_) | (with_reducible refine loaded_foldl _ ?_ _ _ ?_) | (with_reducible refine steps_foldl _ ?_ _ _ ?_) | (with_reducible refine runWord_canon _ _ _ ?_ ?_) | (with_reducible refine crossWord_canon _ _ _ ?_ ?_) | (with_reducible refine issue_canon _ _ _ _ ?_ ?_ ?_) | (with_reducible refine access_canon _ _ _ _ ?_ ?_ ?_) | (with_reducible refine bufAccess_canon _ _ _ _ ?_ ?_ ?_) | (with_reducible refine canon_getD ?_ ?_) | (intro _ _ _; try dsimp only) | (intro _ _; try dsimp only) | (intro _; try dsimp only)
  all_goals try simp (maxDischargeDepth := 20) +contextual [*]
theorem execDot4S8_canon (e k : Bool) (d a b : Reg) (s : State) (hs : Canon s) : OutC (execDot4S8 e k d a b s) := by
  unfold execDot4S8
  (try dsimp only)
  repeat' first | split | (with_reducible refine canon_foldl _ ?_ _ _ ?_) | (with_reducible refine canon_foldl1 _ ?_ _ _ ?_) | (with_reducible refine canon_foldl2 _ ?_ _ _ ?_) | (with_reducible refine loaded_foldl _ ?_ _ _ ?_) | (with_reducible refine steps_foldl _ ?_ _ _ ?_) | (with_reducible refine runWord_canon _ _ _ ?_ ?_) | (with_reducible refine crossWord_canon _ _ _ ?_ ?_) | (with_reducible refine issue_canon _ _ _ _ ?_ ?_ ?_) | (with_reducible refine access_canon _ _ _ _ ?_ ?_ ?_) | (with_reducible refine bufAccess_canon _ _ _ _ ?_ ?_ ?_) | (with_reducible refine canon_getD ?_ ?_) | (intro _ _ _; try dsimp only) | (intro _ _; try dsimp only) | (intro _; try dsimp only)
  all_goals try simp (maxDischargeDepth := 20) +contextual [*]
theorem execDot4Z8_canon (e k : Bool) (d a b : Reg) (s : State) (hs : Canon s) : OutC (execDot4Z8 e k d a b s) := by
  unfold execDot4Z8
  (try dsimp only)
  repeat' first | split | (with_reducible refine canon_foldl _ ?_ _ _ ?_) | (with_reducible refine canon_foldl1 _ ?_ _ _ ?_) | (with_reducible refine canon_foldl2 _ ?_ _ _ ?_) | (with_reducible refine loaded_foldl _ ?_ _ _ ?_) | (with_reducible refine steps_foldl _ ?_ _ _ ?_) | (with_reducible refine runWord_canon _ _ _ ?_ ?_) | (with_reducible refine crossWord_canon _ _ _ ?_ ?_) | (with_reducible refine issue_canon _ _ _ _ ?_ ?_ ?_) | (with_reducible refine access_canon _ _ _ _ ?_ ?_ ?_) | (with_reducible refine bufAccess_canon _ _ _ _ ?_ ?_ ?_) | (with_reducible refine canon_getD ?_ ?_) | (intro _ _ _; try dsimp only) | (intro _ _; try dsimp only) | (intro _; try dsimp only)
  all_goals try simp (maxDischargeDepth := 20) +contextual [*]
theorem execFcmp_canon (e : Bool) (d : Pred) (a b : Reg) (c : FCond) (s : State) (hs : Canon s) : OutC (execFcmp e d a b c s) := by
  unfold execFcmp
  (try dsimp only)
  repeat' first | split | (with_reducible refine canon_foldl _ ?_ _ _ ?_) | (with_reducible refine canon_foldl1 _ ?_ _ _ ?_) | (with_reducible refine canon_foldl2 _ ?_ _ _ ?_) | (with_reducible refine loaded_foldl _ ?_ _ _ ?_) | (with_reducible refine steps_foldl _ ?_ _ _ ?_) | (with_reducible refine runWord_canon _ _ _ ?_ ?_) | (with_reducible refine crossWord_canon _ _ _ ?_ ?_) | (with_reducible refine issue_canon _ _ _ _ ?_ ?_ ?_) | (with_reducible refine access_canon _ _ _ _ ?_ ?_ ?_) | (with_reducible refine bufAccess_canon _ _ _ _ ?_ ?_ ?_) | (with_reducible refine canon_getD ?_ ?_) | (intro _ _ _; try dsimp only) | (intro _ _; try dsimp only) | (intro _; try dsimp only)
  all_goals try simp (maxDischargeDepth := 20) +contextual [*]
theorem execCvt_canon (e k : Bool) (d a : Reg) (f : Fmt) (r : Rnd) (u : Fin 8) (s : State) (hs : Canon s) : OutC (execCvt e k d a f r u s) := by
  unfold execCvt
  (try dsimp only)
  repeat' first | split | (with_reducible refine canon_foldl _ ?_ _ _ ?_) | (with_reducible refine canon_foldl1 _ ?_ _ _ ?_) | (with_reducible refine canon_foldl2 _ ?_ _ _ ?_) | (with_reducible refine loaded_foldl _ ?_ _ _ ?_) | (with_reducible refine steps_foldl _ ?_ _ _ ?_) | (with_reducible refine runWord_canon _ _ _ ?_ ?_) | (with_reducible refine crossWord_canon _ _ _ ?_ ?_) | (with_reducible refine issue_canon _ _ _ _ ?_ ?_ ?_) | (with_reducible refine access_canon _ _ _ _ ?_ ?_ ?_) | (with_reducible refine bufAccess_canon _ _ _ _ ?_ ?_ ?_) | (with_reducible refine canon_getD ?_ ?_) | (intro _ _ _; try dsimp only) | (intro _ _; try dsimp only) | (intro _; try dsimp only)
  all_goals try simp (maxDischargeDepth := 20) +contextual [*]
theorem execCvtFloatSource_canon (e k : Bool) (d a : Reg) (f : Fmt) (r : Rnd) (u : Fin 8) (s : State) (hs : Canon s) : OutC (execCvtFloatSource e k d a f r u s) := by
  unfold execCvtFloatSource
  (try dsimp only)
  repeat' first | split | (with_reducible refine canon_foldl _ ?_ _ _ ?_) | (with_reducible refine canon_foldl1 _ ?_ _ _ ?_) | (with_reducible refine canon_foldl2 _ ?_ _ _ ?_) | (with_reducible refine loaded_foldl _ ?_ _ _ ?_) | (with_reducible refine steps_foldl _ ?_ _ _ ?_) | (with_reducible refine runWord_canon _ _ _ ?_ ?_) | (with_reducible refine crossWord_canon _ _ _ ?_ ?_) | (with_reducible refine issue_canon _ _ _ _ ?_ ?_ ?_) | (with_reducible refine access_canon _ _ _ _ ?_ ?_ ?_) | (with_reducible refine bufAccess_canon _ _ _ _ ?_ ?_ ?_) | (with_reducible refine canon_getD ?_ ?_) | (intro _ _ _; try dsimp only) | (intro _ _; try dsimp only) | (intro _; try dsimp only)
  all_goals try simp (maxDischargeDepth := 20) +contextual [*]
theorem execFrnd_canon (e k : Bool) (d a : Reg) (r : Rnd) (s : State) (hs : Canon s) : OutC (execFrnd e k d a r s) := by
  unfold execFrnd
  (try dsimp only)
  repeat' first | split | (with_reducible refine canon_foldl _ ?_ _ _ ?_) | (with_reducible refine canon_foldl1 _ ?_ _ _ ?_) | (with_reducible refine canon_foldl2 _ ?_ _ _ ?_) | (with_reducible refine loaded_foldl _ ?_ _ _ ?_) | (with_reducible refine steps_foldl _ ?_ _ _ ?_) | (with_reducible refine runWord_canon _ _ _ ?_ ?_) | (with_reducible refine crossWord_canon _ _ _ ?_ ?_) | (with_reducible refine issue_canon _ _ _ _ ?_ ?_ ?_) | (with_reducible refine access_canon _ _ _ _ ?_ ?_ ?_) | (with_reducible refine bufAccess_canon _ _ _ _ ?_ ?_ ?_) | (with_reducible refine canon_getD ?_ ?_) | (intro _ _ _; try dsimp only) | (intro _ _; try dsimp only) | (intro _; try dsimp only)
  all_goals try simp (maxDischargeDepth := 20) +contextual [*]

/-! ### Integer -/

theorem execAddS32_canon (e k : Bool) (d a b : Reg) (s : State) (hs : Canon s) : OutC (execAddS32 e k d a b s) := by
  unfold execAddS32
  (try dsimp only)
  repeat' first | split | (with_reducible refine canon_foldl _ ?_ _ _ ?_) | (with_reducible refine canon_foldl1 _ ?_ _ _ ?_) | (with_reducible refine canon_foldl2 _ ?_ _ _ ?_) | (with_reducible refine loaded_foldl _ ?_ _ _ ?_) | (with_reducible refine steps_foldl _ ?_ _ _ ?_) | (with_reducible refine runWord_canon _ _ _ ?_ ?_) | (with_reducible refine crossWord_canon _ _ _ ?_ ?_) | (with_reducible refine issue_canon _ _ _ _ ?_ ?_ ?_) | (with_reducible refine access_canon _ _ _ _ ?_ ?_ ?_) | (with_reducible refine bufAccess_canon _ _ _ _ ?_ ?_ ?_) | (with_reducible refine canon_getD ?_ ?_) | (intro _ _ _; try dsimp only) | (intro _ _; try dsimp only) | (intro _; try dsimp only)
  all_goals try simp (maxDischargeDepth := 20) +contextual [*]
theorem execSubS32_canon (e k : Bool) (d a b : Reg) (s : State) (hs : Canon s) : OutC (execSubS32 e k d a b s) := by
  unfold execSubS32
  (try dsimp only)
  repeat' first | split | (with_reducible refine canon_foldl _ ?_ _ _ ?_) | (with_reducible refine canon_foldl1 _ ?_ _ _ ?_) | (with_reducible refine canon_foldl2 _ ?_ _ _ ?_) | (with_reducible refine loaded_foldl _ ?_ _ _ ?_) | (with_reducible refine steps_foldl _ ?_ _ _ ?_) | (with_reducible refine runWord_canon _ _ _ ?_ ?_) | (with_reducible refine crossWord_canon _ _ _ ?_ ?_) | (with_reducible refine issue_canon _ _ _ _ ?_ ?_ ?_) | (with_reducible refine access_canon _ _ _ _ ?_ ?_ ?_) | (with_reducible refine bufAccess_canon _ _ _ _ ?_ ?_ ?_) | (with_reducible refine canon_getD ?_ ?_) | (intro _ _ _; try dsimp only) | (intro _ _; try dsimp only) | (intro _; try dsimp only)
  all_goals try simp (maxDischargeDepth := 20) +contextual [*]
theorem execMulS32_canon (e k : Bool) (d a b : Reg) (s : State) (hs : Canon s) : OutC (execMulS32 e k d a b s) := by
  unfold execMulS32
  (try dsimp only)
  repeat' first | split | (with_reducible refine canon_foldl _ ?_ _ _ ?_) | (with_reducible refine canon_foldl1 _ ?_ _ _ ?_) | (with_reducible refine canon_foldl2 _ ?_ _ _ ?_) | (with_reducible refine loaded_foldl _ ?_ _ _ ?_) | (with_reducible refine steps_foldl _ ?_ _ _ ?_) | (with_reducible refine runWord_canon _ _ _ ?_ ?_) | (with_reducible refine crossWord_canon _ _ _ ?_ ?_) | (with_reducible refine issue_canon _ _ _ _ ?_ ?_ ?_) | (with_reducible refine access_canon _ _ _ _ ?_ ?_ ?_) | (with_reducible refine bufAccess_canon _ _ _ _ ?_ ?_ ?_) | (with_reducible refine canon_getD ?_ ?_) | (intro _ _ _; try dsimp only) | (intro _ _; try dsimp only) | (intro _; try dsimp only)
  all_goals try simp (maxDischargeDepth := 20) +contextual [*]
theorem execMulhS32_canon (e k : Bool) (d a b : Reg) (s : State) (hs : Canon s) : OutC (execMulhS32 e k d a b s) := by
  unfold execMulhS32
  (try dsimp only)
  repeat' first | split | (with_reducible refine canon_foldl _ ?_ _ _ ?_) | (with_reducible refine canon_foldl1 _ ?_ _ _ ?_) | (with_reducible refine canon_foldl2 _ ?_ _ _ ?_) | (with_reducible refine loaded_foldl _ ?_ _ _ ?_) | (with_reducible refine steps_foldl _ ?_ _ _ ?_) | (with_reducible refine runWord_canon _ _ _ ?_ ?_) | (with_reducible refine crossWord_canon _ _ _ ?_ ?_) | (with_reducible refine issue_canon _ _ _ _ ?_ ?_ ?_) | (with_reducible refine access_canon _ _ _ _ ?_ ?_ ?_) | (with_reducible refine bufAccess_canon _ _ _ _ ?_ ?_ ?_) | (with_reducible refine canon_getD ?_ ?_) | (intro _ _ _; try dsimp only) | (intro _ _; try dsimp only) | (intro _; try dsimp only)
  all_goals try simp (maxDischargeDepth := 20) +contextual [*]
theorem execMulhZ32_canon (e k : Bool) (d a b : Reg) (s : State) (hs : Canon s) : OutC (execMulhZ32 e k d a b s) := by
  unfold execMulhZ32
  (try dsimp only)
  repeat' first | split | (with_reducible refine canon_foldl _ ?_ _ _ ?_) | (with_reducible refine canon_foldl1 _ ?_ _ _ ?_) | (with_reducible refine canon_foldl2 _ ?_ _ _ ?_) | (with_reducible refine loaded_foldl _ ?_ _ _ ?_) | (with_reducible refine steps_foldl _ ?_ _ _ ?_) | (with_reducible refine runWord_canon _ _ _ ?_ ?_) | (with_reducible refine crossWord_canon _ _ _ ?_ ?_) | (with_reducible refine issue_canon _ _ _ _ ?_ ?_ ?_) | (with_reducible refine access_canon _ _ _ _ ?_ ?_ ?_) | (with_reducible refine bufAccess_canon _ _ _ _ ?_ ?_ ?_) | (with_reducible refine canon_getD ?_ ?_) | (intro _ _ _; try dsimp only) | (intro _ _; try dsimp only) | (intro _; try dsimp only)
  all_goals try simp (maxDischargeDepth := 20) +contextual [*]
theorem execMinS32_canon (e k : Bool) (d a b : Reg) (s : State) (hs : Canon s) : OutC (execMinS32 e k d a b s) := by
  unfold execMinS32
  (try dsimp only)
  repeat' first | split | (with_reducible refine canon_foldl _ ?_ _ _ ?_) | (with_reducible refine canon_foldl1 _ ?_ _ _ ?_) | (with_reducible refine canon_foldl2 _ ?_ _ _ ?_) | (with_reducible refine loaded_foldl _ ?_ _ _ ?_) | (with_reducible refine steps_foldl _ ?_ _ _ ?_) | (with_reducible refine runWord_canon _ _ _ ?_ ?_) | (with_reducible refine crossWord_canon _ _ _ ?_ ?_) | (with_reducible refine issue_canon _ _ _ _ ?_ ?_ ?_) | (with_reducible refine access_canon _ _ _ _ ?_ ?_ ?_) | (with_reducible refine bufAccess_canon _ _ _ _ ?_ ?_ ?_) | (with_reducible refine canon_getD ?_ ?_) | (intro _ _ _; try dsimp only) | (intro _ _; try dsimp only) | (intro _; try dsimp only)
  all_goals try simp (maxDischargeDepth := 20) +contextual [*]
theorem execMaxS32_canon (e k : Bool) (d a b : Reg) (s : State) (hs : Canon s) : OutC (execMaxS32 e k d a b s) := by
  unfold execMaxS32
  (try dsimp only)
  repeat' first | split | (with_reducible refine canon_foldl _ ?_ _ _ ?_) | (with_reducible refine canon_foldl1 _ ?_ _ _ ?_) | (with_reducible refine canon_foldl2 _ ?_ _ _ ?_) | (with_reducible refine loaded_foldl _ ?_ _ _ ?_) | (with_reducible refine steps_foldl _ ?_ _ _ ?_) | (with_reducible refine runWord_canon _ _ _ ?_ ?_) | (with_reducible refine crossWord_canon _ _ _ ?_ ?_) | (with_reducible refine issue_canon _ _ _ _ ?_ ?_ ?_) | (with_reducible refine access_canon _ _ _ _ ?_ ?_ ?_) | (with_reducible refine bufAccess_canon _ _ _ _ ?_ ?_ ?_) | (with_reducible refine canon_getD ?_ ?_) | (intro _ _ _; try dsimp only) | (intro _ _; try dsimp only) | (intro _; try dsimp only)
  all_goals try simp (maxDischargeDepth := 20) +contextual [*]
theorem execMinZ32_canon (e k : Bool) (d a b : Reg) (s : State) (hs : Canon s) : OutC (execMinZ32 e k d a b s) := by
  unfold execMinZ32
  (try dsimp only)
  repeat' first | split | (with_reducible refine canon_foldl _ ?_ _ _ ?_) | (with_reducible refine canon_foldl1 _ ?_ _ _ ?_) | (with_reducible refine canon_foldl2 _ ?_ _ _ ?_) | (with_reducible refine loaded_foldl _ ?_ _ _ ?_) | (with_reducible refine steps_foldl _ ?_ _ _ ?_) | (with_reducible refine runWord_canon _ _ _ ?_ ?_) | (with_reducible refine crossWord_canon _ _ _ ?_ ?_) | (with_reducible refine issue_canon _ _ _ _ ?_ ?_ ?_) | (with_reducible refine access_canon _ _ _ _ ?_ ?_ ?_) | (with_reducible refine bufAccess_canon _ _ _ _ ?_ ?_ ?_) | (with_reducible refine canon_getD ?_ ?_) | (intro _ _ _; try dsimp only) | (intro _ _; try dsimp only) | (intro _; try dsimp only)
  all_goals try simp (maxDischargeDepth := 20) +contextual [*]
theorem execMaxZ32_canon (e k : Bool) (d a b : Reg) (s : State) (hs : Canon s) : OutC (execMaxZ32 e k d a b s) := by
  unfold execMaxZ32
  (try dsimp only)
  repeat' first | split | (with_reducible refine canon_foldl _ ?_ _ _ ?_) | (with_reducible refine canon_foldl1 _ ?_ _ _ ?_) | (with_reducible refine canon_foldl2 _ ?_ _ _ ?_) | (with_reducible refine loaded_foldl _ ?_ _ _ ?_) | (with_reducible refine steps_foldl _ ?_ _ _ ?_) | (with_reducible refine runWord_canon _ _ _ ?_ ?_) | (with_reducible refine crossWord_canon _ _ _ ?_ ?_) | (with_reducible refine issue_canon _ _ _ _ ?_ ?_ ?_) | (with_reducible refine access_canon _ _ _ _ ?_ ?_ ?_) | (with_reducible refine bufAccess_canon _ _ _ _ ?_ ?_ ?_) | (with_reducible refine canon_getD ?_ ?_) | (intro _ _ _; try dsimp only) | (intro _ _; try dsimp only) | (intro _; try dsimp only)
  all_goals try simp (maxDischargeDepth := 20) +contextual [*]
theorem execDivS32_canon (e k : Bool) (d a b : Reg) (s : State) (hs : Canon s) : OutC (execDivS32 e k d a b s) := by
  unfold execDivS32
  (try dsimp only)
  repeat' first | split | (with_reducible refine canon_foldl _ ?_ _ _ ?_) | (with_reducible refine canon_foldl1 _ ?_ _ _ ?_) | (with_reducible refine canon_foldl2 _ ?_ _ _ ?_) | (with_reducible refine loaded_foldl _ ?_ _ _ ?_) | (with_reducible refine steps_foldl _ ?_ _ _ ?_) | (with_reducible refine runWord_canon _ _ _ ?_ ?_) | (with_reducible refine crossWord_canon _ _ _ ?_ ?_) | (with_reducible refine issue_canon _ _ _ _ ?_ ?_ ?_) | (with_reducible refine access_canon _ _ _ _ ?_ ?_ ?_) | (with_reducible refine bufAccess_canon _ _ _ _ ?_ ?_ ?_) | (with_reducible refine canon_getD ?_ ?_) | (intro _ _ _; try dsimp only) | (intro _ _; try dsimp only) | (intro _; try dsimp only)
  all_goals try simp (maxDischargeDepth := 20) +contextual [*]
theorem execDivZ32_canon (e k : Bool) (d a b : Reg) (s : State) (hs : Canon s) : OutC (execDivZ32 e k d a b s) := by
  unfold execDivZ32
  (try dsimp only)
  repeat' first | split | (with_reducible refine canon_foldl _ ?_ _ _ ?_) | (with_reducible refine canon_foldl1 _ ?_ _ _ ?_) | (with_reducible refine canon_foldl2 _ ?_ _ _ ?_) | (with_reducible refine loaded_foldl _ ?_ _ _ ?_) | (with_reducible refine steps_foldl _ ?_ _ _ ?_) | (with_reducible refine runWord_canon _ _ _ ?_ ?_) | (with_reducible refine crossWord_canon _ _ _ ?_ ?_) | (with_reducible refine issue_canon _ _ _ _ ?_ ?_ ?_) | (with_reducible refine access_canon _ _ _ _ ?_ ?_ ?_) | (with_reducible refine bufAccess_canon _ _ _ _ ?_ ?_ ?_) | (with_reducible refine canon_getD ?_ ?_) | (intro _ _ _; try dsimp only) | (intro _ _; try dsimp only) | (intro _; try dsimp only)
  all_goals try simp (maxDischargeDepth := 20) +contextual [*]
theorem execRemS32_canon (e k : Bool) (d a b : Reg) (s : State) (hs : Canon s) : OutC (execRemS32 e k d a b s) := by
  unfold execRemS32
  (try dsimp only)
  repeat' first | split | (with_reducible refine canon_foldl _ ?_ _ _ ?_) | (with_reducible refine canon_foldl1 _ ?_ _ _ ?_) | (with_reducible refine canon_foldl2 _ ?_ _ _ ?_) | (with_reducible refine loaded_foldl _ ?_ _ _ ?_) | (with_reducible refine steps_foldl _ ?_ _ _ ?_) | (with_reducible refine runWord_canon _ _ _ ?_ ?_) | (with_reducible refine crossWord_canon _ _ _ ?_ ?_) | (with_reducible refine issue_canon _ _ _ _ ?_ ?_ ?_) | (with_reducible refine access_canon _ _ _ _ ?_ ?_ ?_) | (with_reducible refine bufAccess_canon _ _ _ _ ?_ ?_ ?_) | (with_reducible refine canon_getD ?_ ?_) | (intro _ _ _; try dsimp only) | (intro _ _; try dsimp only) | (intro _; try dsimp only)
  all_goals try simp (maxDischargeDepth := 20) +contextual [*]
theorem execRemZ32_canon (e k : Bool) (d a b : Reg) (s : State) (hs : Canon s) : OutC (execRemZ32 e k d a b s) := by
  unfold execRemZ32
  (try dsimp only)
  repeat' first | split | (with_reducible refine canon_foldl _ ?_ _ _ ?_) | (with_reducible refine canon_foldl1 _ ?_ _ _ ?_) | (with_reducible refine canon_foldl2 _ ?_ _ _ ?_) | (with_reducible refine loaded_foldl _ ?_ _ _ ?_) | (with_reducible refine steps_foldl _ ?_ _ _ ?_) | (with_reducible refine runWord_canon _ _ _ ?_ ?_) | (with_reducible refine crossWord_canon _ _ _ ?_ ?_) | (with_reducible refine issue_canon _ _ _ _ ?_ ?_ ?_) | (with_reducible refine access_canon _ _ _ _ ?_ ?_ ?_) | (with_reducible refine bufAccess_canon _ _ _ _ ?_ ?_ ?_) | (with_reducible refine canon_getD ?_ ?_) | (intro _ _ _; try dsimp only) | (intro _ _; try dsimp only) | (intro _; try dsimp only)
  all_goals try simp (maxDischargeDepth := 20) +contextual [*]
theorem execAbsS32_canon (e k : Bool) (d a : Reg) (s : State) (hs : Canon s) : OutC (execAbsS32 e k d a s) := by
  unfold execAbsS32
  (try dsimp only)
  repeat' first | split | (with_reducible refine canon_foldl _ ?_ _ _ ?_) | (with_reducible refine canon_foldl1 _ ?_ _ _ ?_) | (with_reducible refine canon_foldl2 _ ?_ _ _ ?_) | (with_reducible refine loaded_foldl _ ?_ _ _ ?_) | (with_reducible refine steps_foldl _ ?_ _ _ ?_) | (with_reducible refine runWord_canon _ _ _ ?_ ?_) | (with_reducible refine crossWord_canon _ _ _ ?_ ?_) | (with_reducible refine issue_canon _ _ _ _ ?_ ?_ ?_) | (with_reducible refine access_canon _ _ _ _ ?_ ?_ ?_) | (with_reducible refine bufAccess_canon _ _ _ _ ?_ ?_ ?_) | (with_reducible refine canon_getD ?_ ?_) | (intro _ _ _; try dsimp only) | (intro _ _; try dsimp only) | (intro _; try dsimp only)
  all_goals try simp (maxDischargeDepth := 20) +contextual [*]
theorem execNegS32_canon (e k : Bool) (d a : Reg) (s : State) (hs : Canon s) : OutC (execNegS32 e k d a s) := by
  unfold execNegS32
  (try dsimp only)
  repeat' first | split | (with_reducible refine canon_foldl _ ?_ _ _ ?_) | (with_reducible refine canon_foldl1 _ ?_ _ _ ?_) | (with_reducible refine canon_foldl2 _ ?_ _ _ ?_) | (with_reducible refine loaded_foldl _ ?_ _ _ ?_) | (with_reducible refine steps_foldl _ ?_ _ _ ?_) | (with_reducible refine runWord_canon _ _ _ ?_ ?_) | (with_reducible refine crossWord_canon _ _ _ ?_ ?_) | (with_reducible refine issue_canon _ _ _ _ ?_ ?_ ?_) | (with_reducible refine access_canon _ _ _ _ ?_ ?_ ?_) | (with_reducible refine bufAccess_canon _ _ _ _ ?_ ?_ ?_) | (with_reducible refine canon_getD ?_ ?_) | (intro _ _ _; try dsimp only) | (intro _ _; try dsimp only) | (intro _; try dsimp only)
  all_goals try simp (maxDischargeDepth := 20) +contextual [*]
theorem execPopc_canon (e k : Bool) (d a : Reg) (s : State) (hs : Canon s) : OutC (execPopc e k d a s) := by
  unfold execPopc
  (try dsimp only)
  repeat' first | split | (with_reducible refine canon_foldl _ ?_ _ _ ?_) | (with_reducible refine canon_foldl1 _ ?_ _ _ ?_) | (with_reducible refine canon_foldl2 _ ?_ _ _ ?_) | (with_reducible refine loaded_foldl _ ?_ _ _ ?_) | (with_reducible refine steps_foldl _ ?_ _ _ ?_) | (with_reducible refine runWord_canon _ _ _ ?_ ?_) | (with_reducible refine crossWord_canon _ _ _ ?_ ?_) | (with_reducible refine issue_canon _ _ _ _ ?_ ?_ ?_) | (with_reducible refine access_canon _ _ _ _ ?_ ?_ ?_) | (with_reducible refine bufAccess_canon _ _ _ _ ?_ ?_ ?_) | (with_reducible refine canon_getD ?_ ?_) | (intro _ _ _; try dsimp only) | (intro _ _; try dsimp only) | (intro _; try dsimp only)
  all_goals try simp (maxDischargeDepth := 20) +contextual [*]
theorem execAndB32_canon (e k : Bool) (d a b : Reg) (s : State) (hs : Canon s) : OutC (execAndB32 e k d a b s) := by
  unfold execAndB32
  (try dsimp only)
  repeat' first | split | (with_reducible refine canon_foldl _ ?_ _ _ ?_) | (with_reducible refine canon_foldl1 _ ?_ _ _ ?_) | (with_reducible refine canon_foldl2 _ ?_ _ _ ?_) | (with_reducible refine loaded_foldl _ ?_ _ _ ?_) | (with_reducible refine steps_foldl _ ?_ _ _ ?_) | (with_reducible refine runWord_canon _ _ _ ?_ ?_) | (with_reducible refine crossWord_canon _ _ _ ?_ ?_) | (with_reducible refine issue_canon _ _ _ _ ?_ ?_ ?_) | (with_reducible refine access_canon _ _ _ _ ?_ ?_ ?_) | (with_reducible refine bufAccess_canon _ _ _ _ ?_ ?_ ?_) | (with_reducible refine canon_getD ?_ ?_) | (intro _ _ _; try dsimp only) | (intro _ _; try dsimp only) | (intro _; try dsimp only)
  all_goals try simp (maxDischargeDepth := 20) +contextual [*]
theorem execOrB32_canon (e k : Bool) (d a b : Reg) (s : State) (hs : Canon s) : OutC (execOrB32 e k d a b s) := by
  unfold execOrB32
  (try dsimp only)
  repeat' first | split | (with_reducible refine canon_foldl _ ?_ _ _ ?_) | (with_reducible refine canon_foldl1 _ ?_ _ _ ?_) | (with_reducible refine canon_foldl2 _ ?_ _ _ ?_) | (with_reducible refine loaded_foldl _ ?_ _ _ ?_) | (with_reducible refine steps_foldl _ ?_ _ _ ?_) | (with_reducible refine runWord_canon _ _ _ ?_ ?_) | (with_reducible refine crossWord_canon _ _ _ ?_ ?_) | (with_reducible refine issue_canon _ _ _ _ ?_ ?_ ?_) | (with_reducible refine access_canon _ _ _ _ ?_ ?_ ?_) | (with_reducible refine bufAccess_canon _ _ _ _ ?_ ?_ ?_) | (with_reducible refine canon_getD ?_ ?_) | (intro _ _ _; try dsimp only) | (intro _ _; try dsimp only) | (intro _; try dsimp only)
  all_goals try simp (maxDischargeDepth := 20) +contextual [*]
theorem execXorB32_canon (e k : Bool) (d a b : Reg) (s : State) (hs : Canon s) : OutC (execXorB32 e k d a b s) := by
  unfold execXorB32
  (try dsimp only)
  repeat' first | split | (with_reducible refine canon_foldl _ ?_ _ _ ?_) | (with_reducible refine canon_foldl1 _ ?_ _ _ ?_) | (with_reducible refine canon_foldl2 _ ?_ _ _ ?_) | (with_reducible refine loaded_foldl _ ?_ _ _ ?_) | (with_reducible refine steps_foldl _ ?_ _ _ ?_) | (with_reducible refine runWord_canon _ _ _ ?_ ?_) | (with_reducible refine crossWord_canon _ _ _ ?_ ?_) | (with_reducible refine issue_canon _ _ _ _ ?_ ?_ ?_) | (with_reducible refine access_canon _ _ _ _ ?_ ?_ ?_) | (with_reducible refine bufAccess_canon _ _ _ _ ?_ ?_ ?_) | (with_reducible refine canon_getD ?_ ?_) | (intro _ _ _; try dsimp only) | (intro _ _; try dsimp only) | (intro _; try dsimp only)
  all_goals try simp (maxDischargeDepth := 20) +contextual [*]
theorem execAndnB32_canon (e k : Bool) (d a b : Reg) (s : State) (hs : Canon s) : OutC (execAndnB32 e k d a b s) := by
  unfold execAndnB32
  (try dsimp only)
  repeat' first | split | (with_reducible refine canon_foldl _ ?_ _ _ ?_) | (with_reducible refine canon_foldl1 _ ?_ _ _ ?_) | (with_reducible refine canon_foldl2 _ ?_ _ _ ?_) | (with_reducible refine loaded_foldl _ ?_ _ _ ?_) | (with_reducible refine steps_foldl _ ?_ _ _ ?_) | (with_reducible refine runWord_canon _ _ _ ?_ ?_) | (with_reducible refine crossWord_canon _ _ _ ?_ ?_) | (with_reducible refine issue_canon _ _ _ _ ?_ ?_ ?_) | (with_reducible refine access_canon _ _ _ _ ?_ ?_ ?_) | (with_reducible refine bufAccess_canon _ _ _ _ ?_ ?_ ?_) | (with_reducible refine canon_getD ?_ ?_) | (intro _ _ _; try dsimp only) | (intro _ _; try dsimp only) | (intro _; try dsimp only)
  all_goals try simp (maxDischargeDepth := 20) +contextual [*]
theorem execShlB32_canon (e k : Bool) (d a b : Reg) (s : State) (hs : Canon s) : OutC (execShlB32 e k d a b s) := by
  unfold execShlB32
  (try dsimp only)
  repeat' first | split | (with_reducible refine canon_foldl _ ?_ _ _ ?_) | (with_reducible refine canon_foldl1 _ ?_ _ _ ?_) | (with_reducible refine canon_foldl2 _ ?_ _ _ ?_) | (with_reducible refine loaded_foldl _ ?_ _ _ ?_) | (with_reducible refine steps_foldl _ ?_ _ _ ?_) | (with_reducible refine runWord_canon _ _ _ ?_ ?_) | (with_reducible refine crossWord_canon _ _ _ ?_ ?_) | (with_reducible refine issue_canon _ _ _ _ ?_ ?_ ?_) | (with_reducible refine access_canon _ _ _ _ ?_ ?_ ?_) | (with_reducible refine bufAccess_canon _ _ _ _ ?_ ?_ ?_) | (with_reducible refine canon_getD ?_ ?_) | (intro _ _ _; try dsimp only) | (intro _ _; try dsimp only) | (intro _; try dsimp only)
  all_goals try simp (maxDischargeDepth := 20) +contextual [*]
theorem execShrB32_canon (e k : Bool) (d a b : Reg) (s : State) (hs : Canon s) : OutC (execShrB32 e k d a b s) := by
  unfold execShrB32
  (try dsimp only)
  repeat' first | split | (with_reducible refine canon_foldl _ ?_ _ _ ?_) | (with_reducible refine canon_foldl1 _ ?_ _ _ ?_) | (with_reducible refine canon_foldl2 _ ?_ _ _ ?_) | (with_reducible refine loaded_foldl _ ?_ _ _ ?_) | (with_reducible refine steps_foldl _ ?_ _ _ ?_) | (with_reducible refine runWord_canon _ _ _ ?_ ?_) | (with_reducible refine crossWord_canon _ _ _ ?_ ?_) | (with_reducible refine issue_canon _ _ _ _ ?_ ?_ ?_) | (with_reducible refine access_canon _ _ _ _ ?_ ?_ ?_) | (with_reducible refine bufAccess_canon _ _ _ _ ?_ ?_ ?_) | (with_reducible refine canon_getD ?_ ?_) | (intro _ _ _; try dsimp only) | (intro _ _; try dsimp only) | (intro _; try dsimp only)
  all_goals try simp (maxDischargeDepth := 20) +contextual [*]
theorem execShraS32_canon (e k : Bool) (d a b : Reg) (s : State) (hs : Canon s) : OutC (execShraS32 e k d a b s) := by
  unfold execShraS32
  (try dsimp only)
  repeat' first | split | (with_reducible refine canon_foldl _ ?_ _ _ ?_) | (with_reducible refine canon_foldl1 _ ?_ _ _ ?_) | (with_reducible refine canon_foldl2 _ ?_ _ _ ?_) | (with_reducible refine loaded_foldl _ ?_ _ _ ?_) | (with_reducible refine steps_foldl _ ?_ _ _ ?_) | (with_reducible refine runWord_canon _ _ _ ?_ ?_) | (with_reducible refine crossWord_canon _ _ _ ?_ ?_) | (with_reducible refine issue_canon _ _ _ _ ?_ ?_ ?_) | (with_reducible refine access_canon _ _ _ _ ?_ ?_ ?_) | (with_reducible refine bufAccess_canon _ _ _ _ ?_ ?_ ?_) | (with_reducible refine canon_getD ?_ ?_) | (intro _ _ _; try dsimp only) | (intro _ _; try dsimp only) | (intro _; try dsimp only)
  all_goals try simp (maxDischargeDepth := 20) +contextual [*]
theorem execRotB32_canon (e k : Bool) (d a b : Reg) (s : State) (hs : Canon s) : OutC (execRotB32 e k d a b s) := by
  unfold execRotB32
  (try dsimp only)
  repeat' first | split | (with_reducible refine canon_foldl _ ?_ _ _ ?_) | (with_reducible refine canon_foldl1 _ ?_ _ _ ?_) | (with_reducible refine canon_foldl2 _ ?_ _ _ ?_) | (with_reducible refine loaded_foldl _ ?_ _ _ ?_) | (with_reducible refine steps_foldl _ ?_ _ _ ?_) | (with_reducible refine runWord_canon _ _ _ ?_ ?_) | (with_reducible refine crossWord_canon _ _ _ ?_ ?_) | (with_reducible refine issue_canon _ _ _ _ ?_ ?_ ?_) | (with_reducible refine access_canon _ _ _ _ ?_ ?_ ?_) | (with_reducible refine bufAccess_canon _ _ _ _ ?_ ?_ ?_) | (with_reducible refine canon_getD ?_ ?_) | (intro _ _ _; try dsimp only) | (intro _ _; try dsimp only) | (intro _; try dsimp only)
  all_goals try simp (maxDischargeDepth := 20) +contextual [*]
theorem execClz_canon (e k : Bool) (d a : Reg) (s : State) (hs : Canon s) : OutC (execClz e k d a s) := by
  unfold execClz
  (try dsimp only)
  repeat' first | split | (with_reducible refine canon_foldl _ ?_ _ _ ?_) | (with_reducible refine canon_foldl1 _ ?_ _ _ ?_) | (with_reducible refine canon_foldl2 _ ?_ _ _ ?_) | (with_reducible refine loaded_foldl _ ?_ _ _ ?_) | (with_reducible refine steps_foldl _ ?_ _ _ ?_) | (with_reducible refine runWord_canon _ _ _ ?_ ?_) | (with_reducible refine crossWord_canon _ _ _ ?_ ?_) | (with_reducible refine issue_canon _ _ _ _ ?_ ?_ ?_) | (with_reducible refine access_canon _ _ _ _ ?_ ?_ ?_) | (with_reducible refine bufAccess_canon _ _ _ _ ?_ ?_ ?_) | (with_reducible refine canon_getD ?_ ?_) | (intro _ _ _; try dsimp only) | (intro _ _; try dsimp only) | (intro _; try dsimp only)
  all_goals try simp (maxDischargeDepth := 20) +contextual [*]
theorem execBrev_canon (e k : Bool) (d a : Reg) (s : State) (hs : Canon s) : OutC (execBrev e k d a s) := by
  unfold execBrev
  (try dsimp only)
  repeat' first | split | (with_reducible refine canon_foldl _ ?_ _ _ ?_) | (with_reducible refine canon_foldl1 _ ?_ _ _ ?_) | (with_reducible refine canon_foldl2 _ ?_ _ _ ?_) | (with_reducible refine loaded_foldl _ ?_ _ _ ?_) | (with_reducible refine steps_foldl _ ?_ _ _ ?_) | (with_reducible refine runWord_canon _ _ _ ?_ ?_) | (with_reducible refine crossWord_canon _ _ _ ?_ ?_) | (with_reducible refine issue_canon _ _ _ _ ?_ ?_ ?_) | (with_reducible refine access_canon _ _ _ _ ?_ ?_ ?_) | (with_reducible refine bufAccess_canon _ _ _ _ ?_ ?_ ?_) | (with_reducible refine canon_getD ?_ ?_) | (intro _ _ _; try dsimp only) | (intro _ _; try dsimp only) | (intro _; try dsimp only)
  all_goals try simp (maxDischargeDepth := 20) +contextual [*]
theorem execBfxS32_canon (e k : Bool) (d a b : Reg) (s : State) (hs : Canon s) : OutC (execBfxS32 e k d a b s) := by
  unfold execBfxS32
  (try dsimp only)
  repeat' first | split | (with_reducible refine canon_foldl _ ?_ _ _ ?_) | (with_reducible refine canon_foldl1 _ ?_ _ _ ?_) | (with_reducible refine canon_foldl2 _ ?_ _ _ ?_) | (with_reducible refine loaded_foldl _ ?_ _ _ ?_) | (with_reducible refine steps_foldl _ ?_ _ _ ?_) | (with_reducible refine runWord_canon _ _ _ ?_ ?_) | (with_reducible refine crossWord_canon _ _ _ ?_ ?_) | (with_reducible refine issue_canon _ _ _ _ ?_ ?_ ?_) | (with_reducible refine access_canon _ _ _ _ ?_ ?_ ?_) | (with_reducible refine bufAccess_canon _ _ _ _ ?_ ?_ ?_) | (with_reducible refine canon_getD ?_ ?_) | (intro _ _ _; try dsimp only) | (intro _ _; try dsimp only) | (intro _; try dsimp only)
  all_goals try simp (maxDischargeDepth := 20) +contextual [*]
theorem execBfxZ32_canon (e k : Bool) (d a b : Reg) (s : State) (hs : Canon s) : OutC (execBfxZ32 e k d a b s) := by
  unfold execBfxZ32
  (try dsimp only)
  repeat' first | split | (with_reducible refine canon_foldl _ ?_ _ _ ?_) | (with_reducible refine canon_foldl1 _ ?_ _ _ ?_) | (with_reducible refine canon_foldl2 _ ?_ _ _ ?_) | (with_reducible refine loaded_foldl _ ?_ _ _ ?_) | (with_reducible refine steps_foldl _ ?_ _ _ ?_) | (with_reducible refine runWord_canon _ _ _ ?_ ?_) | (with_reducible refine crossWord_canon _ _ _ ?_ ?_) | (with_reducible refine issue_canon _ _ _ _ ?_ ?_ ?_) | (with_reducible refine access_canon _ _ _ _ ?_ ?_ ?_) | (with_reducible refine bufAccess_canon _ _ _ _ ?_ ?_ ?_) | (with_reducible refine canon_getD ?_ ?_) | (intro _ _ _; try dsimp only) | (intro _ _; try dsimp only) | (intro _; try dsimp only)
  all_goals try simp (maxDischargeDepth := 20) +contextual [*]
theorem execBfi_canon (e k : Bool) (d a b : Reg) (s : State) (hs : Canon s) : OutC (execBfi e k d a b s) := by
  unfold execBfi
  (try dsimp only)
  repeat' first | split | (with_reducible refine canon_foldl _ ?_ _ _ ?_) | (with_reducible refine canon_foldl1 _ ?_ _ _ ?_) | (with_reducible refine canon_foldl2 _ ?_ _ _ ?_) | (with_reducible refine loaded_foldl _ ?_ _ _ ?_) | (with_reducible refine steps_foldl _ ?_ _ _ ?_) | (with_reducible refine runWord_canon _ _ _ ?_ ?_) | (with_reducible refine crossWord_canon _ _ _ ?_ ?_) | (with_reducible refine issue_canon _ _ _ _ ?_ ?_ ?_) | (with_reducible refine access_canon _ _ _ _ ?_ ?_ ?_) | (with_reducible refine bufAccess_canon _ _ _ _ ?_ ?_ ?_) | (with_reducible refine canon_getD ?_ ?_) | (intro _ _ _; try dsimp only) | (intro _ _; try dsimp only) | (intro _; try dsimp only)
  all_goals try simp (maxDischargeDepth := 20) +contextual [*]
theorem execMadS32_canon (e k : Bool) (d a b : Reg) (s : State) (hs : Canon s) : OutC (execMadS32 e k d a b s) := by
  unfold execMadS32
  (try dsimp only)
  repeat' first | split | (with_reducible refine canon_foldl _ ?_ _ _ ?_) | (with_reducible refine canon_foldl1 _ ?_ _ _ ?_) | (with_reducible refine canon_foldl2 _ ?_ _ _ ?_) | (with_reducible refine loaded_foldl _ ?_ _ _ ?_) | (with_reducible refine steps_foldl _ ?_ _ _ ?_) | (with_reducible refine runWord_canon _ _ _ ?_ ?_) | (with_reducible refine crossWord_canon _ _ _ ?_ ?_) | (with_reducible refine issue_canon _ _ _ _ ?_ ?_ ?_) | (with_reducible refine access_canon _ _ _ _ ?_ ?_ ?_) | (with_reducible refine bufAccess_canon _ _ _ _ ?_ ?_ ?_) | (with_reducible refine canon_getD ?_ ?_) | (intro _ _ _; try dsimp only) | (intro _ _; try dsimp only) | (intro _; try dsimp only)
  all_goals try simp (maxDischargeDepth := 20) +contextual [*]
theorem execMov_canon (e k : Bool) (d a : Reg) (s : State) (hs : Canon s) : OutC (execMov e k d a s) := by
  unfold execMov
  (try dsimp only)
  repeat' first | split | (with_reducible refine canon_foldl _ ?_ _ _ ?_) | (with_reducible refine canon_foldl1 _ ?_ _ _ ?_) | (with_reducible refine canon_foldl2 _ ?_ _ _ ?_) | (with_reducible refine loaded_foldl _ ?_ _ _ ?_) | (with_reducible refine steps_foldl _ ?_ _ _ ?_) | (with_reducible refine runWord_canon _ _ _ ?_ ?_) | (with_reducible refine crossWord_canon _ _ _ ?_ ?_) | (with_reducible refine issue_canon _ _ _ _ ?_ ?_ ?_) | (with_reducible refine access_canon _ _ _ _ ?_ ?_ ?_) | (with_reducible refine bufAccess_canon _ _ _ _ ?_ ?_ ?_) | (with_reducible refine canon_getD ?_ ?_) | (intro _ _ _; try dsimp only) | (intro _ _; try dsimp only) | (intro _; try dsimp only)
  all_goals try simp (maxDischargeDepth := 20) +contextual [*]
theorem execAddS64_canon (e k : Bool) (d a b : Reg) (s : State) (hs : Canon s) : OutC (execAddS64 e k d a b s) := by
  unfold execAddS64
  (try dsimp only)
  repeat' first | split | (with_reducible refine canon_foldl _ ?_ _ _ ?_) | (with_reducible refine canon_foldl1 _ ?_ _ _ ?_) | (with_reducible refine canon_foldl2 _ ?_ _ _ ?_) | (with_reducible refine loaded_foldl _ ?_ _ _ ?_) | (with_reducible refine steps_foldl _ ?_ _ _ ?_) | (with_reducible refine runWord_canon _ _ _ ?_ ?_) | (with_reducible refine crossWord_canon _ _ _ ?_ ?_) | (with_reducible refine issue_canon _ _ _ _ ?_ ?_ ?_) | (with_reducible refine access_canon _ _ _ _ ?_ ?_ ?_) | (with_reducible refine bufAccess_canon _ _ _ _ ?_ ?_ ?_) | (with_reducible refine canon_getD ?_ ?_) | (intro _ _ _; try dsimp only) | (intro _ _; try dsimp only) | (intro _; try dsimp only)
  all_goals try simp (maxDischargeDepth := 20) +contextual [*]
theorem execSubS64_canon (e k : Bool) (d a b : Reg) (s : State) (hs : Canon s) : OutC (execSubS64 e k d a b s) := by
  unfold execSubS64
  (try dsimp only)
  repeat' first | split | (with_reducible refine canon_foldl _ ?_ _ _ ?_) | (with_reducible refine canon_foldl1 _ ?_ _ _ ?_) | (with_reducible refine canon_foldl2 _ ?_ _ _ ?_) | (with_reducible refine loaded_foldl _ ?_ _ _ ?_) | (with_reducible refine steps_foldl _ ?_ _ _ ?_) | (with_reducible refine runWord_canon _ _ _ ?_ ?_) | (with_reducible refine crossWord_canon _ _ _ ?_ ?_) | (with_reducible refine issue_canon _ _ _ _ ?_ ?_ ?_) | (with_reducible refine access_canon _ _ _ _ ?_ ?_ ?_) | (with_reducible refine bufAccess_canon _ _ _ _ ?_ ?_ ?_) | (with_reducible refine canon_getD ?_ ?_) | (intro _ _ _; try dsimp only) | (intro _ _; try dsimp only) | (intro _; try dsimp only)
  all_goals try simp (maxDischargeDepth := 20) +contextual [*]
theorem execMulS64_canon (e k : Bool) (d a b : Reg) (s : State) (hs : Canon s) : OutC (execMulS64 e k d a b s) := by
  unfold execMulS64
  (try dsimp only)
  repeat' first | split | (with_reducible refine canon_foldl _ ?_ _ _ ?_) | (with_reducible refine canon_foldl1 _ ?_ _ _ ?_) | (with_reducible refine canon_foldl2 _ ?_ _ _ ?_) | (with_reducible refine loaded_foldl _ ?_ _ _ ?_) | (with_reducible refine steps_foldl _ ?_ _ _ ?_) | (with_reducible refine runWord_canon _ _ _ ?_ ?_) | (with_reducible refine crossWord_canon _ _ _ ?_ ?_) | (with_reducible refine issue_canon _ _ _ _ ?_ ?_ ?_) | (with_reducible refine access_canon _ _ _ _ ?_ ?_ ?_) | (with_reducible refine bufAccess_canon _ _ _ _ ?_ ?_ ?_) | (with_reducible refine canon_getD ?_ ?_) | (intro _ _ _; try dsimp only) | (intro _ _; try dsimp only) | (intro _; try dsimp only)
  all_goals try simp (maxDischargeDepth := 20) +contextual [*]
theorem execMinS64_canon (e k : Bool) (d a b : Reg) (s : State) (hs : Canon s) : OutC (execMinS64 e k d a b s) := by
  unfold execMinS64
  (try dsimp only)
  repeat' first | split | (with_reducible refine canon_foldl _ ?_ _ _ ?_) | (with_reducible refine canon_foldl1 _ ?_ _ _ ?_) | (with_reducible refine canon_foldl2 _ ?_ _ _ ?_) | (with_reducible refine loaded_foldl _ ?_ _ _ ?_) | (with_reducible refine steps_foldl _ ?_ _ _ ?_) | (with_reducible refine runWord_canon _ _ _ ?_ ?_) | (with_reducible refine crossWord_canon _ _ _ ?_ ?_) | (with_reducible refine issue_canon _ _ _ _ ?_ ?_ ?_) | (with_reducible refine access_canon _ _ _ _ ?_ ?_ ?_) | (with_reducible refine bufAccess_canon _ _ _ _ ?_ ?_ ?_) | (with_reducible refine canon_getD ?_ ?_) | (intro _ _ _; try dsimp only) | (intro _ _; try dsimp only) | (intro _; try dsimp only)
  all_goals try simp (maxDischargeDepth := 20) +contextual [*]
theorem execMaxS64_canon (e k : Bool) (d a b : Reg) (s : State) (hs : Canon s) : OutC (execMaxS64 e k d a b s) := by
  unfold execMaxS64
  (try dsimp only)
  repeat' first | split | (with_reducible refine canon_foldl _ ?_ _ _ ?_) | (with_reducible refine canon_foldl1 _ ?_ _ _ ?_) | (with_reducible refine canon_foldl2 _ ?_ _ _ ?_) | (with_reducible refine loaded_foldl _ ?_ _ _ ?_) | (with_reducible refine steps_foldl _ ?_ _ _ ?_) | (with_reducible refine runWord_canon _ _ _ ?_ ?_) | (with_reducible refine crossWord_canon _ _ _ ?_ ?_) | (with_reducible refine issue_canon _ _ _ _ ?_ ?_ ?_) | (with_reducible refine access_canon _ _ _ _ ?_ ?_ ?_) | (with_reducible refine bufAccess_canon _ _ _ _ ?_ ?_ ?_) | (with_reducible refine canon_getD ?_ ?_) | (intro _ _ _; try dsimp only) | (intro _ _; try dsimp only) | (intro _; try dsimp only)
  all_goals try simp (maxDischargeDepth := 20) +contextual [*]
theorem execMinZ64_canon (e k : Bool) (d a b : Reg) (s : State) (hs : Canon s) : OutC (execMinZ64 e k d a b s) := by
  unfold execMinZ64
  (try dsimp only)
  repeat' first | split | (with_reducible refine canon_foldl _ ?_ _ _ ?_) | (with_reducible refine canon_foldl1 _ ?_ _ _ ?_) | (with_reducible refine canon_foldl2 _ ?_ _ _ ?_) | (with_reducible refine loaded_foldl _ ?_ _ _ ?_) | (with_reducible refine steps_foldl _ ?_ _ _ ?_) | (with_reducible refine runWord_canon _ _ _ ?_ ?_) | (with_reducible refine crossWord_canon _ _ _ ?_ ?_) | (with_reducible refine issue_canon _ _ _ _ ?_ ?_ ?_) | (with_reducible refine access_canon _ _ _ _ ?_ ?_ ?_) | (with_reducible refine bufAccess_canon _ _ _ _ ?_ ?_ ?_) | (with_reducible refine canon_getD ?_ ?_) | (intro _ _ _; try dsimp only) | (intro _ _; try dsimp only) | (intro _; try dsimp only)
  all_goals try simp (maxDischargeDepth := 20) +contextual [*]
theorem execMaxZ64_canon (e k : Bool) (d a b : Reg) (s : State) (hs : Canon s) : OutC (execMaxZ64 e k d a b s) := by
  unfold execMaxZ64
  (try dsimp only)
  repeat' first | split | (with_reducible refine canon_foldl _ ?_ _ _ ?_) | (with_reducible refine canon_foldl1 _ ?_ _ _ ?_) | (with_reducible refine canon_foldl2 _ ?_ _ _ ?_) | (with_reducible refine loaded_foldl _ ?_ _ _ ?_) | (with_reducible refine steps_foldl _ ?_ _ _ ?_) | (with_reducible refine runWord_canon _ _ _ ?_ ?_) | (with_reducible refine crossWord_canon _ _ _ ?_ ?_) | (with_reducible refine issue_canon _ _ _ _ ?_ ?_ ?_) | (with_reducible refine access_canon _ _ _ _ ?_ ?_ ?_) | (with_reducible refine bufAccess_canon _ _ _ _ ?_ ?_ ?_) | (with_reducible refine canon_getD ?_ ?_) | (intro _ _ _; try dsimp only) | (intro _ _; try dsimp only) | (intro _; try dsimp only)
  all_goals try simp (maxDischargeDepth := 20) +contextual [*]
theorem execNegS64_canon (e k : Bool) (d a : Reg) (s : State) (hs : Canon s) : OutC (execNegS64 e k d a s) := by
  unfold execNegS64
  (try dsimp only)
  repeat' first | split | (with_reducible refine canon_foldl _ ?_ _ _ ?_) | (with_reducible refine canon_foldl1 _ ?_ _ _ ?_) | (with_reducible refine canon_foldl2 _ ?_ _ _ ?_) | (with_reducible refine loaded_foldl _ ?_ _ _ ?_) | (with_reducible refine steps_foldl _ ?_ _ _ ?_) | (with_reducible refine runWord_canon _ _ _ ?_ ?_) | (with_reducible refine crossWord_canon _ _ _ ?_ ?_) | (with_reducible refine issue_canon _ _ _ _ ?_ ?_ ?_) | (with_reducible refine access_canon _ _ _ _ ?_ ?_ ?_) | (with_reducible refine bufAccess_canon _ _ _ _ ?_ ?_ ?_) | (with_reducible refine canon_getD ?_ ?_) | (intro _ _ _; try dsimp only) | (intro _ _; try dsimp only) | (intro _; try dsimp only)
  all_goals try simp (maxDischargeDepth := 20) +contextual [*]
theorem execShlB64_canon (e k : Bool) (d a b : Reg) (s : State) (hs : Canon s) : OutC (execShlB64 e k d a b s) := by
  unfold execShlB64
  (try dsimp only)
  repeat' first | split | (with_reducible refine canon_foldl _ ?_ _ _ ?_) | (with_reducible refine canon_foldl1 _ ?_ _ _ ?_) | (with_reducible refine canon_foldl2 _ ?_ _ _ ?_) | (with_reducible refine loaded_foldl _ ?_ _ _ ?_) | (with_reducible refine steps_foldl _ ?_ _ _ ?_) | (with_reducible refine runWord_canon _ _ _ ?_ ?_) | (with_reducible refine crossWord_canon _ _ _ ?_ ?_) | (with_reducible refine issue_canon _ _ _ _ ?_ ?_ ?_) | (with_reducible refine access_canon _ _ _ _ ?_ ?_ ?_) | (with_reducible refine bufAccess_canon _ _ _ _ ?_ ?_ ?_) | (with_reducible refine canon_getD ?_ ?_) | (intro _ _ _; try dsimp only) | (intro _ _; try dsimp only) | (intro _; try dsimp only)
  all_goals try simp (maxDischargeDepth := 20) +contextual [*]
theorem execShrB64_canon (e k : Bool) (d a b : Reg) (s : State) (hs : Canon s) : OutC (execShrB64 e k d a b s) := by
  unfold execShrB64
  (try dsimp only)
  repeat' first | split | (with_reducible refine canon_foldl _ ?_ _ _ ?_) | (with_reducible refine canon_foldl1 _ ?_ _ _ ?_) | (with_reducible refine canon_foldl2 _ ?_ _ _ ?_) | (with_reducible refine loaded_foldl _ ?_ _ _ ?_) | (with_reducible refine steps_foldl _ ?_ _ _ ?_) | (with_reducible refine runWord_canon _ _ _ ?_ ?_) | (with_reducible refine crossWord_canon _ _ _ ?_ ?_) | (with_reducible refine issue_canon _ _ _ _ ?_ ?_ ?_) | (with_reducible refine access_canon _ _ _ _ ?_ ?_ ?_) | (with_reducible refine bufAccess_canon _ _ _ _ ?_ ?_ ?_) | (with_reducible refine canon_getD ?_ ?_) | (intro _ _ _; try dsimp only) | (intro _ _; try dsimp only) | (intro _; try dsimp only)
  all_goals try simp (maxDischargeDepth := 20) +contextual [*]
theorem execShraS64_canon (e k : Bool) (d a b : Reg) (s : State) (hs : Canon s) : OutC (execShraS64 e k d a b s) := by
  unfold execShraS64
  (try dsimp only)
  repeat' first | split | (with_reducible refine canon_foldl _ ?_ _ _ ?_) | (with_reducible refine canon_foldl1 _ ?_ _ _ ?_) | (with_reducible refine canon_foldl2 _ ?_ _ _ ?_) | (with_reducible refine loaded_foldl _ ?_ _ _ ?_) | (with_reducible refine steps_foldl _ ?_ _ _ ?_) | (with_reducible refine runWord_canon _ _ _ ?_ ?_) | (with_reducible refine crossWord_canon _ _ _ ?_ ?_) | (with_reducible refine issue_canon _ _ _ _ ?_ ?_ ?_) | (with_reducible refine access_canon _ _ _ _ ?_ ?_ ?_) | (with_reducible refine bufAccess_canon _ _ _ _ ?_ ?_ ?_) | (with_reducible refine canon_getD ?_ ?_) | (intro _ _ _; try dsimp only) | (intro _ _; try dsimp only) | (intro _; try dsimp only)
  all_goals try simp (maxDischargeDepth := 20) +contextual [*]
theorem execMulhS64_canon (e k : Bool) (d a b : Reg) (s : State) (hs : Canon s) : OutC (execMulhS64 e k d a b s) := by
  unfold execMulhS64
  (try dsimp only)
  repeat' first | split | (with_reducible refine canon_foldl _ ?_ _ _ ?_) | (with_reducible refine canon_foldl1 _ ?_ _ _ ?_) | (with_reducible refine canon_foldl2 _ ?_ _ _ ?_) | (with_reducible refine loaded_foldl _ ?_ _ _ ?_) | (with_reducible refine steps_foldl _ ?_ _ _ ?_) | (with_reducible refine runWord_canon _ _ _ ?_ ?_) | (with_reducible refine crossWord_canon _ _ _ ?_ ?_) | (with_reducible refine issue_canon _ _ _ _ ?_ ?_ ?_) | (with_reducible refine access_canon _ _ _ _ ?_ ?_ ?_) | (with_reducible refine bufAccess_canon _ _ _ _ ?_ ?_ ?_) | (with_reducible refine canon_getD ?_ ?_) | (intro _ _ _; try dsimp only) | (intro _ _; try dsimp only) | (intro _; try dsimp only)
  all_goals try simp (maxDischargeDepth := 20) +contextual [*]
theorem execMulhZ64_canon (e k : Bool) (d a b : Reg) (s : State) (hs : Canon s) : OutC (execMulhZ64 e k d a b s) := by
  unfold execMulhZ64
  (try dsimp only)
  repeat' first | split | (with_reducible refine canon_foldl _ ?_ _ _ ?_) | (with_reducible refine canon_foldl1 _ ?_ _ _ ?_) | (with_reducible refine canon_foldl2 _ ?_ _ _ ?_) | (with_reducible refine loaded_foldl _ ?_ _ _ ?_) | (with_reducible refine steps_foldl _ ?_ _ _ ?_) | (with_reducible refine runWord_canon _ _ _ ?_ ?_) | (with_reducible refine crossWord_canon _ _ _ ?_ ?_) | (with_reducible refine issue_canon _ _ _ _ ?_ ?_ ?_) | (with_reducible refine access_canon _ _ _ _ ?_ ?_ ?_) | (with_reducible refine bufAccess_canon _ _ _ _ ?_ ?_ ?_) | (with_reducible refine canon_getD ?_ ?_) | (intro _ _ _; try dsimp only) | (intro _ _; try dsimp only) | (intro _; try dsimp only)
  all_goals try simp (maxDischargeDepth := 20) +contextual [*]
theorem execAbsS64_canon (e k : Bool) (d a : Reg) (s : State) (hs : Canon s) : OutC (execAbsS64 e k d a s) := by
  unfold execAbsS64
  (try dsimp only)
  repeat' first | split | (with_reducible refine canon_foldl _ ?_ _ _ ?_) | (with_reducible refine canon_foldl1 _ ?_ _ _ ?_) | (with_reducible refine canon_foldl2 _ ?_ _ _ ?_) | (with_reducible refine loaded_foldl _ ?_ _ _ ?_) | (with_reducible refine steps_foldl _ ?_ _ _ ?_) | (with_reducible refine runWord_canon _ _ _ ?_ ?_) | (with_reducible refine crossWord_canon _ _ _ ?_ ?_) | (with_reducible refine issue_canon _ _ _ _ ?_ ?_ ?_) | (with_reducible refine access_canon _ _ _ _ ?_ ?_ ?_) | (with_reducible refine bufAccess_canon _ _ _ _ ?_ ?_ ?_) | (with_reducible refine canon_getD ?_ ?_) | (intro _ _ _; try dsimp only) | (intro _ _; try dsimp only) | (intro _; try dsimp only)
  all_goals try simp (maxDischargeDepth := 20) +contextual [*]
theorem execMadS64_canon (e k : Bool) (d a b : Reg) (s : State) (hs : Canon s) : OutC (execMadS64 e k d a b s) := by
  unfold execMadS64
  (try dsimp only)
  repeat' first | split | (with_reducible refine canon_foldl _ ?_ _ _ ?_) | (with_reducible refine canon_foldl1 _ ?_ _ _ ?_) | (with_reducible refine canon_foldl2 _ ?_ _ _ ?_) | (with_reducible refine loaded_foldl _ ?_ _ _ ?_) | (with_reducible refine steps_foldl _ ?_ _ _ ?_) | (with_reducible refine runWord_canon _ _ _ ?_ ?_) | (with_reducible refine crossWord_canon _ _ _ ?_ ?_) | (with_reducible refine issue_canon _ _ _ _ ?_ ?_ ?_) | (with_reducible refine access_canon _ _ _ _ ?_ ?_ ?_) | (with_reducible refine bufAccess_canon _ _ _ _ ?_ ?_ ?_) | (with_reducible refine canon_getD ?_ ?_) | (intro _ _ _; try dsimp only) | (intro _ _; try dsimp only) | (intro _; try dsimp only)
  all_goals try simp (maxDischargeDepth := 20) +contextual [*]
theorem execLea_canon (e k : Bool) (d a b : Reg) (u : Fin 8) (s : State) (hs : Canon s) : OutC (execLea e k d a b u s) := by
  unfold execLea
  (try dsimp only)
  repeat' first | split | (with_reducible refine canon_foldl _ ?_ _ _ ?_) | (with_reducible refine canon_foldl1 _ ?_ _ _ ?_) | (with_reducible refine canon_foldl2 _ ?_ _ _ ?_) | (with_reducible refine loaded_foldl _ ?_ _ _ ?_) | (with_reducible refine steps_foldl _ ?_ _ _ ?_) | (with_reducible refine runWord_canon _ _ _ ?_ ?_) | (with_reducible refine crossWord_canon _ _ _ ?_ ?_) | (with_reducible refine issue_canon _ _ _ _ ?_ ?_ ?_) | (with_reducible refine access_canon _ _ _ _ ?_ ?_ ?_) | (with_reducible refine bufAccess_canon _ _ _ _ ?_ ?_ ?_) | (with_reducible refine canon_getD ?_ ?_) | (intro _ _ _; try dsimp only) | (intro _ _; try dsimp only) | (intro _; try dsimp only)
  all_goals try simp (maxDischargeDepth := 20) +contextual [*]
theorem execSel_canon (e k : Bool) (d a b : Reg) (p : Fin 8) (s : State) (hs : Canon s) : OutC (execSel e k d a b p s) := by
  unfold execSel
  (try dsimp only)
  repeat' first | split | (with_reducible refine canon_foldl _ ?_ _ _ ?_) | (with_reducible refine canon_foldl1 _ ?_ _ _ ?_) | (with_reducible refine canon_foldl2 _ ?_ _ _ ?_) | (with_reducible refine loaded_foldl _ ?_ _ _ ?_) | (with_reducible refine steps_foldl _ ?_ _ _ ?_) | (with_reducible refine runWord_canon _ _ _ ?_ ?_) | (with_reducible refine crossWord_canon _ _ _ ?_ ?_) | (with_reducible refine issue_canon _ _ _ _ ?_ ?_ ?_) | (with_reducible refine access_canon _ _ _ _ ?_ ?_ ?_) | (with_reducible refine bufAccess_canon _ _ _ _ ?_ ?_ ?_) | (with_reducible refine canon_getD ?_ ?_) | (intro _ _ _; try dsimp only) | (intro _ _; try dsimp only) | (intro _; try dsimp only)
  all_goals try simp (maxDischargeDepth := 20) +contextual [*]
theorem execCmp32_canon (e : Bool) (d : Pred) (a b : Reg) (c : Cond) (s : State) (hs : Canon s) : OutC (execCmp32 e d a b c s) := by
  unfold execCmp32
  (try dsimp only)
  repeat' first | split | (with_reducible refine canon_foldl _ ?_ _ _ ?_) | (with_reducible refine canon_foldl1 _ ?_ _ _ ?_) | (with_reducible refine canon_foldl2 _ ?_ _ _ ?_) | (with_reducible refine loaded_foldl _ ?_ _ _ ?_) | (with_reducible refine steps_foldl _ ?_ _ _ ?_) | (with_reducible refine runWord_canon _ _ _ ?_ ?_) | (with_reducible refine crossWord_canon _ _ _ ?_ ?_) | (with_reducible refine issue_canon _ _ _ _ ?_ ?_ ?_) | (with_reducible refine access_canon _ _ _ _ ?_ ?_ ?_) | (with_reducible refine bufAccess_canon _ _ _ _ ?_ ?_ ?_) | (with_reducible refine canon_getD ?_ ?_) | (intro _ _ _; try dsimp only) | (intro _ _; try dsimp only) | (intro _; try dsimp only)
  all_goals try simp (maxDischargeDepth := 20) +contextual [*]
theorem execCmp64_canon (e : Bool) (d : Pred) (a b : Reg) (c : Cond) (s : State) (hs : Canon s) : OutC (execCmp64 e d a b c s) := by
  unfold execCmp64
  (try dsimp only)
  repeat' first | split | (with_reducible refine canon_foldl _ ?_ _ _ ?_) | (with_reducible refine canon_foldl1 _ ?_ _ _ ?_) | (with_reducible refine canon_foldl2 _ ?_ _ _ ?_) | (with_reducible refine loaded_foldl _ ?_ _ _ ?_) | (with_reducible refine steps_foldl _ ?_ _ _ ?_) | (with_reducible refine runWord_canon _ _ _ ?_ ?_) | (with_reducible refine crossWord_canon _ _ _ ?_ ?_) | (with_reducible refine issue_canon _ _ _ _ ?_ ?_ ?_) | (with_reducible refine access_canon _ _ _ _ ?_ ?_ ?_) | (with_reducible refine bufAccess_canon _ _ _ _ ?_ ?_ ?_) | (with_reducible refine canon_getD ?_ ?_) | (intro _ _ _; try dsimp only) | (intro _ _; try dsimp only) | (intro _; try dsimp only)
  all_goals try simp (maxDischargeDepth := 20) +contextual [*]
theorem execShlB32Imm_canon (e k : Bool) (d a : Reg) (n : BitVec 7) (s : State) (hs : Canon s) : OutC (execShlB32Imm e k d a n s) := by
  unfold execShlB32Imm
  (try dsimp only)
  repeat' first | split | (with_reducible refine canon_foldl _ ?_ _ _ ?_) | (with_reducible refine canon_foldl1 _ ?_ _ _ ?_) | (with_reducible refine canon_foldl2 _ ?_ _ _ ?_) | (with_reducible refine loaded_foldl _ ?_ _ _ ?_) | (with_reducible refine steps_foldl _ ?_ _ _ ?_) | (with_reducible refine runWord_canon _ _ _ ?_ ?_) | (with_reducible refine crossWord_canon _ _ _ ?_ ?_) | (with_reducible refine issue_canon _ _ _ _ ?_ ?_ ?_) | (with_reducible refine access_canon _ _ _ _ ?_ ?_ ?_) | (with_reducible refine bufAccess_canon _ _ _ _ ?_ ?_ ?_) | (with_reducible refine canon_getD ?_ ?_) | (intro _ _ _; try dsimp only) | (intro _ _; try dsimp only) | (intro _; try dsimp only)
  all_goals try simp (maxDischargeDepth := 20) +contextual [*]
theorem execShrB32Imm_canon (e k : Bool) (d a : Reg) (n : BitVec 7) (s : State) (hs : Canon s) : OutC (execShrB32Imm e k d a n s) := by
  unfold execShrB32Imm
  (try dsimp only)
  repeat' first | split | (with_reducible refine canon_foldl _ ?_ _ _ ?_) | (with_reducible refine canon_foldl1 _ ?_ _ _ ?_) | (with_reducible refine canon_foldl2 _ ?_ _ _ ?_) | (with_reducible refine loaded_foldl _ ?_ _ _ ?_) | (with_reducible refine steps_foldl _ ?_ _ _ ?_) | (with_reducible refine runWord_canon _ _ _ ?_ ?_) | (with_reducible refine crossWord_canon _ _ _ ?_ ?_) | (with_reducible refine issue_canon _ _ _ _ ?_ ?_ ?_) | (with_reducible refine access_canon _ _ _ _ ?_ ?_ ?_) | (with_reducible refine bufAccess_canon _ _ _ _ ?_ ?_ ?_) | (with_reducible refine canon_getD ?_ ?_) | (intro _ _ _; try dsimp only) | (intro _ _; try dsimp only) | (intro _; try dsimp only)
  all_goals try simp (maxDischargeDepth := 20) +contextual [*]
theorem execShraS32Imm_canon (e k : Bool) (d a : Reg) (n : BitVec 7) (s : State) (hs : Canon s) : OutC (execShraS32Imm e k d a n s) := by
  unfold execShraS32Imm
  (try dsimp only)
  repeat' first | split | (with_reducible refine canon_foldl _ ?_ _ _ ?_) | (with_reducible refine canon_foldl1 _ ?_ _ _ ?_) | (with_reducible refine canon_foldl2 _ ?_ _ _ ?_) | (with_reducible refine loaded_foldl _ ?_ _ _ ?_) | (with_reducible refine steps_foldl _ ?_ _ _ ?_) | (with_reducible refine runWord_canon _ _ _ ?_ ?_) | (with_reducible refine crossWord_canon _ _ _ ?_ ?_) | (with_reducible refine issue_canon _ _ _ _ ?_ ?_ ?_) | (with_reducible refine access_canon _ _ _ _ ?_ ?_ ?_) | (with_reducible refine bufAccess_canon _ _ _ _ ?_ ?_ ?_) | (with_reducible refine canon_getD ?_ ?_) | (intro _ _ _; try dsimp only) | (intro _ _; try dsimp only) | (intro _; try dsimp only)
  all_goals try simp (maxDischargeDepth := 20) +contextual [*]
theorem execRotB32Imm_canon (e k : Bool) (d a : Reg) (n : BitVec 7) (s : State) (hs : Canon s) : OutC (execRotB32Imm e k d a n s) := by
  unfold execRotB32Imm
  (try dsimp only)
  repeat' first | split | (with_reducible refine canon_foldl _ ?_ _ _ ?_) | (with_reducible refine canon_foldl1 _ ?_ _ _ ?_) | (with_reducible refine canon_foldl2 _ ?_ _ _ ?_) | (with_reducible refine loaded_foldl _ ?_ _ _ ?_) | (with_reducible refine steps_foldl _ ?_ _ _ ?_) | (with_reducible refine runWord_canon _ _ _ ?_ ?_) | (with_reducible refine crossWord_canon _ _ _ ?_ ?_) | (with_reducible refine issue_canon _ _ _ _ ?_ ?_ ?_) | (with_reducible refine access_canon _ _ _ _ ?_ ?_ ?_) | (with_reducible refine bufAccess_canon _ _ _ _ ?_ ?_ ?_) | (with_reducible refine canon_getD ?_ ?_) | (intro _ _ _; try dsimp only) | (intro _ _; try dsimp only) | (intro _; try dsimp only)
  all_goals try simp (maxDischargeDepth := 20) +contextual [*]
theorem execShlB64Imm_canon (e k : Bool) (d a : Reg) (n : BitVec 7) (s : State) (hs : Canon s) : OutC (execShlB64Imm e k d a n s) := by
  unfold execShlB64Imm
  (try dsimp only)
  repeat' first | split | (with_reducible refine canon_foldl _ ?_ _ _ ?_) | (with_reducible refine canon_foldl1 _ ?_ _ _ ?_) | (with_reducible refine canon_foldl2 _ ?_ _ _ ?_) | (with_reducible refine loaded_foldl _ ?_ _ _ ?_) | (with_reducible refine steps_foldl _ ?_ _ _ ?_) | (with_reducible refine runWord_canon _ _ _ ?_ ?_) | (with_reducible refine crossWord_canon _ _ _ ?_ ?_) | (with_reducible refine issue_canon _ _ _ _ ?_ ?_ ?_) | (with_reducible refine access_canon _ _ _ _ ?_ ?_ ?_) | (with_reducible refine bufAccess_canon _ _ _ _ ?_ ?_ ?_) | (with_reducible refine canon_getD ?_ ?_) | (intro _ _ _; try dsimp only) | (intro _ _; try dsimp only) | (intro _; try dsimp only)
  all_goals try simp (maxDischargeDepth := 20) +contextual [*]
theorem execShrB64Imm_canon (e k : Bool) (d a : Reg) (n : BitVec 7) (s : State) (hs : Canon s) : OutC (execShrB64Imm e k d a n s) := by
  unfold execShrB64Imm
  (try dsimp only)
  repeat' first | split | (with_reducible refine canon_foldl _ ?_ _ _ ?_) | (with_reducible refine canon_foldl1 _ ?_ _ _ ?_) | (with_reducible refine canon_foldl2 _ ?_ _ _ ?_) | (with_reducible refine loaded_foldl _ ?_ _ _ ?_) | (with_reducible refine steps_foldl _ ?_ _ _ ?_) | (with_reducible refine runWord_canon _ _ _ ?_ ?_) | (with_reducible refine crossWord_canon _ _ _ ?_ ?_) | (with_reducible refine issue_canon _ _ _ _ ?_ ?_ ?_) | (with_reducible refine access_canon _ _ _ _ ?_ ?_ ?_) | (with_reducible refine bufAccess_canon _ _ _ _ ?_ ?_ ?_) | (with_reducible refine canon_getD ?_ ?_) | (intro _ _ _; try dsimp only) | (intro _ _; try dsimp only) | (intro _; try dsimp only)
  all_goals try simp (maxDischargeDepth := 20) +contextual [*]
theorem execShraS64Imm_canon (e k : Bool) (d a : Reg) (n : BitVec 7) (s : State) (hs : Canon s) : OutC (execShraS64Imm e k d a n s) := by
  unfold execShraS64Imm
  (try dsimp only)
  repeat' first | split | (with_reducible refine canon_foldl _ ?_ _ _ ?_) | (with_reducible refine canon_foldl1 _ ?_ _ _ ?_) | (with_reducible refine canon_foldl2 _ ?_ _ _ ?_) | (with_reducible refine loaded_foldl _ ?_ _ _ ?_) | (with_reducible refine steps_foldl _ ?_ _ _ ?_) | (with_reducible refine runWord_canon _ _ _ ?_ ?_) | (with_reducible refine crossWord_canon _ _ _ ?_ ?_) | (with_reducible refine issue_canon _ _ _ _ ?_ ?_ ?_) | (with_reducible refine access_canon _ _ _ _ ?_ ?_ ?_) | (with_reducible refine bufAccess_canon _ _ _ _ ?_ ?_ ?_) | (with_reducible refine canon_getD ?_ ?_) | (intro _ _ _; try dsimp only) | (intro _ _; try dsimp only) | (intro _; try dsimp only)
  all_goals try simp (maxDischargeDepth := 20) +contextual [*]
theorem execAddS32Imm_canon (e k : Bool) (d a : Reg) (i : BitVec 10) (s : State) (hs : Canon s) : OutC (execAddS32Imm e k d a i s) := by
  unfold execAddS32Imm
  (try dsimp only)
  repeat' first | split | (with_reducible refine canon_foldl _ ?_ _ _ ?_) | (with_reducible refine canon_foldl1 _ ?_ _ _ ?_) | (with_reducible refine canon_foldl2 _ ?_ _ _ ?_) | (with_reducible refine loaded_foldl _ ?_ _ _ ?_) | (with_reducible refine steps_foldl _ ?_ _ _ ?_) | (with_reducible refine runWord_canon _ _ _ ?_ ?_) | (with_reducible refine crossWord_canon _ _ _ ?_ ?_) | (with_reducible refine issue_canon _ _ _ _ ?_ ?_ ?_) | (with_reducible refine access_canon _ _ _ _ ?_ ?_ ?_) | (with_reducible refine bufAccess_canon _ _ _ _ ?_ ?_ ?_) | (with_reducible refine canon_getD ?_ ?_) | (intro _ _ _; try dsimp only) | (intro _ _; try dsimp only) | (intro _; try dsimp only)
  all_goals try simp (maxDischargeDepth := 20) +contextual [*]
theorem execMulS32Imm_canon (e k : Bool) (d a : Reg) (i : BitVec 10) (s : State) (hs : Canon s) : OutC (execMulS32Imm e k d a i s) := by
  unfold execMulS32Imm
  (try dsimp only)
  repeat' first | split | (with_reducible refine canon_foldl _ ?_ _ _ ?_) | (with_reducible refine canon_foldl1 _ ?_ _ _ ?_) | (with_reducible refine canon_foldl2 _ ?_ _ _ ?_) | (with_reducible refine loaded_foldl _ ?_ _ _ ?_) | (with_reducible refine steps_foldl _ ?_ _ _ ?_) | (with_reducible refine runWord_canon _ _ _ ?_ ?_) | (with_reducible refine crossWord_canon _ _ _ ?_ ?_) | (with_reducible refine issue_canon _ _ _ _ ?_ ?_ ?_) | (with_reducible refine access_canon _ _ _ _ ?_ ?_ ?_) | (with_reducible refine bufAccess_canon _ _ _ _ ?_ ?_ ?_) | (with_reducible refine canon_getD ?_ ?_) | (intro _ _ _; try dsimp only) | (intro _ _; try dsimp only) | (intro _; try dsimp only)
  all_goals try simp (maxDischargeDepth := 20) +contextual [*]
theorem execLdi_canon (e k : Bool) (d : Reg) (i : BitVec 17) (s : State) (hs : Canon s) : OutC (execLdi e k d i s) := by
  unfold execLdi
  (try dsimp only)
  repeat' first | split | (with_reducible refine canon_foldl _ ?_ _ _ ?_) | (with_reducible refine canon_foldl1 _ ?_ _ _ ?_) | (with_reducible refine canon_foldl2 _ ?_ _ _ ?_) | (with_reducible refine loaded_foldl _ ?_ _ _ ?_) | (with_reducible refine steps_foldl _ ?_ _ _ ?_) | (with_reducible refine runWord_canon _ _ _ ?_ ?_) | (with_reducible refine crossWord_canon _ _ _ ?_ ?_) | (with_reducible refine issue_canon _ _ _ _ ?_ ?_ ?_) | (with_reducible refine access_canon _ _ _ _ ?_ ?_ ?_) | (with_reducible refine bufAccess_canon _ _ _ _ ?_ ?_ ?_) | (with_reducible refine canon_getD ?_ ?_) | (intro _ _ _; try dsimp only) | (intro _ _; try dsimp only) | (intro _; try dsimp only)
  all_goals try simp (maxDischargeDepth := 20) +contextual [*]
theorem execLdhi_canon (e k : Bool) (d : Reg) (i : BitVec 16) (s : State) (hs : Canon s) : OutC (execLdhi e k d i s) := by
  unfold execLdhi
  (try dsimp only)
  repeat' first | split | (with_reducible refine canon_foldl _ ?_ _ _ ?_) | (with_reducible refine canon_foldl1 _ ?_ _ _ ?_) | (with_reducible refine canon_foldl2 _ ?_ _ _ ?_) | (with_reducible refine loaded_foldl _ ?_ _ _ ?_) | (with_reducible refine steps_foldl _ ?_ _ _ ?_) | (with_reducible refine runWord_canon _ _ _ ?_ ?_) | (with_reducible refine crossWord_canon _ _ _ ?_ ?_) | (with_reducible refine issue_canon _ _ _ _ ?_ ?_ ?_) | (with_reducible refine access_canon _ _ _ _ ?_ ?_ ?_) | (with_reducible refine bufAccess_canon _ _ _ _ ?_ ?_ ?_) | (with_reducible refine canon_getD ?_ ?_) | (intro _ _ _; try dsimp only) | (intro _ _; try dsimp only) | (intro _; try dsimp only)
  all_goals try simp (maxDischargeDepth := 20) +contextual [*]

/-! ### Teasel -/

theorem execMarkIntervalTimeout_canon (part : Nat) (s : State) (hs : Canon s) : OutC (execMarkIntervalTimeout part s) := by
  unfold execMarkIntervalTimeout
  (try dsimp only)
  repeat' first | split | (with_reducible refine canon_foldl _ ?_ _ _ ?_) | (with_reducible refine canon_foldl1 _ ?_ _ _ ?_) | (with_reducible refine canon_foldl2 _ ?_ _ _ ?_) | (with_reducible refine loaded_foldl _ ?_ _ _ ?_) | (with_reducible refine steps_foldl _ ?_ _ _ ?_) | (with_reducible refine runWord_canon _ _ _ ?_ ?_) | (with_reducible refine crossWord_canon _ _ _ ?_ ?_) | (with_reducible refine issue_canon _ _ _ _ ?_ ?_ ?_) | (with_reducible refine access_canon _ _ _ _ ?_ ?_ ?_) | (with_reducible refine bufAccess_canon _ _ _ _ ?_ ?_ ?_) | (with_reducible refine canon_getD ?_ ?_) | (intro _ _ _; try dsimp only) | (intro _ _; try dsimp only) | (intro _; try dsimp only)
  all_goals try simp (maxDischargeDepth := 20) +contextual [*]
@[simp] theorem inboundWrite_canon (s : State) (part : Nat) (a : Nat) (bs : List Byte) (hs : Canon s) : Canon (inboundWrite s part a bs) := by
  refine canon_foldl _ (fun t q ht => ?_) _ _ hs
  extract_lets xs t1 t2
  have h1 : Canon t1 := llcMeet_canon _ _ _ _ _ (homeWrite_canon _ _ _ _ (markAccessed_canon _ _ _ ht))
  have h2 : Canon t2 := canon_foldl _ (fun u d hu => replicaUpdate_canon _ _ _ _ hu) _ _ h1
  split
  · exact imageWrite_canon _ _ _ h2
  · exact h2
@[simp] theorem performInbound_canon (s : State) (part : Nat) (x : Inbound) (hs : Canon s) : Canon (performInbound s part x) := by
  unfold performInbound
  split
  · exact hs
  · exact inboundWrite_canon _ _ _ _ hs
@[simp] theorem startSnapshots_canon (s : State) (part : Nat) (hs : Canon s) : Canon (startSnapshots s part) := by
  unfold startSnapshots
  (try dsimp only)
  repeat' first | split | (with_reducible refine canon_foldl _ ?_ _ _ ?_) | (with_reducible refine canon_foldl1 _ ?_ _ _ ?_) | (with_reducible refine canon_foldl2 _ ?_ _ _ ?_) | (with_reducible refine loaded_foldl _ ?_ _ _ ?_) | (with_reducible refine steps_foldl _ ?_ _ _ ?_) | (with_reducible refine runWord_canon _ _ _ ?_ ?_) | (with_reducible refine crossWord_canon _ _ _ ?_ ?_) | (with_reducible refine issue_canon _ _ _ _ ?_ ?_ ?_) | (with_reducible refine access_canon _ _ _ _ ?_ ?_ ?_) | (with_reducible refine bufAccess_canon _ _ _ _ ?_ ?_ ?_) | (with_reducible refine canon_getD ?_ ?_) | (intro _ _ _; try dsimp only) | (intro _ _; try dsimp only) | (intro _; try dsimp only)
  all_goals try simp (maxDischargeDepth := 20) +contextual [*]
@[simp] theorem takeMark_canon (s : State) (p : Part) (hs : Canon s) : Canon (takeMark s p) := by
  unfold takeMark
  extract_lets s1 s2 s3 s4
  have h1 : Canon s1 := canon_foldl _ (fun t n ht => endScout_canon _ _ ht) _ _ hs
  have h2 : Canon s2 := canon_foldl _ (fun t x ht => performInbound_canon _ _ _ ht) _ _ h1
  have h4 : Canon s4 := h2
  refine And.intro h4.1 (fun i hi => ?_)
  rcases List.mem_append.1 hi with h | h
  · exact h4.2 i h
  · rw [List.mem_singleton.1 h]; exact h4.1
theorem execCheckpointMark_canon (part : Nat) (s : State) (hs : Canon s) : OutC (execCheckpointMark part s) := by
  unfold execCheckpointMark
  (try dsimp only)
  repeat' first | split | (with_reducible refine canon_foldl _ ?_ _ _ ?_) | (with_reducible refine canon_foldl1 _ ?_ _ _ ?_) | (with_reducible refine canon_foldl2 _ ?_ _ _ ?_) | (with_reducible refine loaded_foldl _ ?_ _ _ ?_) | (with_reducible refine steps_foldl _ ?_ _ _ ?_) | (with_reducible refine runWord_canon _ _ _ ?_ ?_) | (with_reducible refine crossWord_canon _ _ _ ?_ ?_) | (with_reducible refine issue_canon _ _ _ _ ?_ ?_ ?_) | (with_reducible refine access_canon _ _ _ _ ?_ ?_ ?_) | (with_reducible refine bufAccess_canon _ _ _ _ ?_ ?_ ?_) | (with_reducible refine canon_getD ?_ ?_) | (intro _ _ _; try dsimp only) | (intro _ _; try dsimp only) | (intro _; try dsimp only)
  all_goals try simp (maxDischargeDepth := 20) +contextual [*]
@[simp] theorem releaseSend_canon (s : State) (tenant : Nat) (x : Outbound) (hs : Canon s) : Canon (releaseSend s tenant x) := by
  unfold releaseSend
  (try dsimp only)
  repeat' first | split | (with_reducible refine canon_foldl _ ?_ _ _ ?_) | (with_reducible refine canon_foldl1 _ ?_ _ _ ?_) | (with_reducible refine canon_foldl2 _ ?_ _ _ ?_) | (with_reducible refine loaded_foldl _ ?_ _ _ ?_) | (with_reducible refine steps_foldl _ ?_ _ _ ?_) | (with_reducible refine runWord_canon _ _ _ ?_ ?_) | (with_reducible refine crossWord_canon _ _ _ ?_ ?_) | (with_reducible refine issue_canon _ _ _ _ ?_ ?_ ?_) | (with_reducible refine access_canon _ _ _ _ ?_ ?_ ?_) | (with_reducible refine bufAccess_canon _ _ _ _ ?_ ?_ ?_) | (with_reducible refine canon_getD ?_ ?_) | (intro _ _ _; try dsimp only) | (intro _ _; try dsimp only) | (intro _; try dsimp only)
  all_goals try simp (maxDischargeDepth := 20) +contextual [*]
@[simp] theorem commitEntries_canon (s : State) (i : MarkImage) (hs : Canon s) : Canon (commitEntries s i) := by
  unfold commitEntries
  (try dsimp only)
  repeat' first | split | (with_reducible refine canon_foldl _ ?_ _ _ ?_) | (with_reducible refine canon_foldl1 _ ?_ _ _ ?_) | (with_reducible refine canon_foldl2 _ ?_ _ _ ?_) | (with_reducible refine loaded_foldl _ ?_ _ _ ?_) | (with_reducible refine steps_foldl _ ?_ _ _ ?_) | (with_reducible refine runWord_canon _ _ _ ?_ ?_) | (with_reducible refine crossWord_canon _ _ _ ?_ ?_) | (with_reducible refine issue_canon _ _ _ _ ?_ ?_ ?_) | (with_reducible refine access_canon _ _ _ _ ?_ ?_ ?_) | (with_reducible refine bufAccess_canon _ _ _ _ ?_ ?_ ?_) | (with_reducible refine canon_getD ?_ ?_) | (intro _ _ _; try dsimp only) | (intro _ _; try dsimp only) | (intro _; try dsimp only)
  all_goals try simp (maxDischargeDepth := 20) +contextual [*]
@[simp] theorem commitMark_canon (s : State) (p : Part) (hs : Canon s) : Canon (commitMark s p) := by
  unfold commitMark
  extract_lets s1 s2 s3 s4
  have h1 : Canon s1 := canon_foldl _ (fun t x ht => releaseSend_canon _ _ _ ht) _ _ hs
  have h2 : Canon s2 := (modPart_canon _ _ _).2 h1
  have h3 : Canon s3 := by simp only [s3]; split <;> simp [h2]
  have h4 : Canon s4 := moveAllReserved_canon _ (canon_foldl _ (fun t q ht => advanceHead_canon _ _ _ ht) _ _ h3)
  exact emitTeasel_canon _ _ _ _ (And.intro h4.1 (fun i hi => h4.2 i (List.mem_filter.1 hi).1))
theorem execMarkCommit_canon (part : Nat) (s : State) (hs : Canon s) : OutC (execMarkCommit part s) := by
  unfold execMarkCommit
  (try dsimp only)
  repeat' first | split | (with_reducible refine canon_foldl _ ?_ _ _ ?_) | (with_reducible refine canon_foldl1 _ ?_ _ _ ?_) | (with_reducible refine canon_foldl2 _ ?_ _ _ ?_) | (with_reducible refine loaded_foldl _ ?_ _ _ ?_) | (with_reducible refine steps_foldl _ ?_ _ _ ?_) | (with_reducible refine runWord_canon _ _ _ ?_ ?_) | (with_reducible refine crossWord_canon _ _ _ ?_ ?_) | (with_reducible refine issue_canon _ _ _ _ ?_ ?_ ?_) | (with_reducible refine access_canon _ _ _ _ ?_ ?_ ?_) | (with_reducible refine bufAccess_canon _ _ _ _ ?_ ?_ ?_) | (with_reducible refine canon_getD ?_ ?_) | (intro _ _ _; try dsimp only) | (intro _ _; try dsimp only) | (intro _; try dsimp only)
  all_goals try simp (maxDischargeDepth := 20) +contextual [*]
theorem execSliceEnd_canon (part : Nat) (s : State) (hs : Canon s) : OutC (execSliceEnd part s) := by
  unfold execSliceEnd
  (try dsimp only)
  repeat' first | split | (with_reducible refine canon_foldl _ ?_ _ _ ?_) | (with_reducible refine canon_foldl1 _ ?_ _ _ ?_) | (with_reducible refine canon_foldl2 _ ?_ _ _ ?_) | (with_reducible refine loaded_foldl _ ?_ _ _ ?_) | (with_reducible refine steps_foldl _ ?_ _ _ ?_) | (with_reducible refine runWord_canon _ _ _ ?_ ?_) | (with_reducible refine crossWord_canon _ _ _ ?_ ?_) | (with_reducible refine issue_canon _ _ _ _ ?_ ?_ ?_) | (with_reducible refine access_canon _ _ _ _ ?_ ?_ ?_) | (with_reducible refine bufAccess_canon _ _ _ _ ?_ ?_ ?_) | (with_reducible refine canon_getD ?_ ?_) | (intro _ _ _; try dsimp only) | (intro _ _; try dsimp only) | (intro _; try dsimp only)
  all_goals try simp (maxDischargeDepth := 20) +contextual [*]
@[simp] theorem strike_canon (s : State) (x : ErrorSite) (hs : Canon s) : Canon (strike s x) := by
  unfold strike
  (try dsimp only)
  repeat' first | split | (with_reducible refine canon_foldl _ ?_ _ _ ?_) | (with_reducible refine canon_foldl1 _ ?_ _ _ ?_) | (with_reducible refine canon_foldl2 _ ?_ _ _ ?_) | (with_reducible refine loaded_foldl _ ?_ _ _ ?_) | (with_reducible refine steps_foldl _ ?_ _ _ ?_) | (with_reducible refine runWord_canon _ _ _ ?_ ?_) | (with_reducible refine crossWord_canon _ _ _ ?_ ?_) | (with_reducible refine issue_canon _ _ _ _ ?_ ?_ ?_) | (with_reducible refine access_canon _ _ _ _ ?_ ?_ ?_) | (with_reducible refine bufAccess_canon _ _ _ _ ?_ ?_ ?_) | (with_reducible refine canon_getD ?_ ?_) | (intro _ _ _; try dsimp only) | (intro _ _; try dsimp only) | (intro _; try dsimp only)
  all_goals try simp (maxDischargeDepth := 20) +contextual [*]
theorem execSoftError_canon (site : ErrorSite) (corrected : Bool) (s : State) (hs : Canon s) : OutC (execSoftError site corrected s) := by
  unfold execSoftError
  (try dsimp only)
  repeat' first | split | (with_reducible refine canon_foldl _ ?_ _ _ ?_) | (with_reducible refine canon_foldl1 _ ?_ _ _ ?_) | (with_reducible refine canon_foldl2 _ ?_ _ _ ?_) | (with_reducible refine loaded_foldl _ ?_ _ _ ?_) | (with_reducible refine steps_foldl _ ?_ _ _ ?_) | (with_reducible refine runWord_canon _ _ _ ?_ ?_) | (with_reducible refine crossWord_canon _ _ _ ?_ ?_) | (with_reducible refine issue_canon _ _ _ _ ?_ ?_ ?_) | (with_reducible refine access_canon _ _ _ _ ?_ ?_ ?_) | (with_reducible refine bufAccess_canon _ _ _ _ ?_ ?_ ?_) | (with_reducible refine canon_getD ?_ ?_) | (intro _ _ _; try dsimp only) | (intro _ _; try dsimp only) | (intro _; try dsimp only)
  all_goals try simp (maxDischargeDepth := 20) +contextual [*]
theorem execUncorrectable_canon (x : Consumed) (s : State) (hs : Canon s) : OutC (execUncorrectable x s) := by
  unfold execUncorrectable
  (try dsimp only)
  repeat' first | split | (with_reducible refine canon_foldl _ ?_ _ _ ?_) | (with_reducible refine canon_foldl1 _ ?_ _ _ ?_) | (with_reducible refine canon_foldl2 _ ?_ _ _ ?_) | (with_reducible refine loaded_foldl _ ?_ _ _ ?_) | (with_reducible refine steps_foldl _ ?_ _ _ ?_) | (with_reducible refine runWord_canon _ _ _ ?_ ?_) | (with_reducible refine crossWord_canon _ _ _ ?_ ?_) | (with_reducible refine issue_canon _ _ _ _ ?_ ?_ ?_) | (with_reducible refine access_canon _ _ _ _ ?_ ?_ ?_) | (with_reducible refine bufAccess_canon _ _ _ _ ?_ ?_ ?_) | (with_reducible refine canon_getD ?_ ?_) | (intro _ _ _; try dsimp only) | (intro _ _; try dsimp only) | (intro _; try dsimp only)
  all_goals try simp (maxDischargeDepth := 20) +contextual [*]
theorem execLaunchKill_canon (launch : DWord) (s : State) (hs : Canon s) : OutC (execLaunchKill launch s) := by
  unfold execLaunchKill
  (try dsimp only)
  repeat' first | split | (with_reducible refine canon_foldl _ ?_ _ _ ?_) | (with_reducible refine canon_foldl1 _ ?_ _ _ ?_) | (with_reducible refine canon_foldl2 _ ?_ _ _ ?_) | (with_reducible refine loaded_foldl _ ?_ _ _ ?_) | (with_reducible refine steps_foldl _ ?_ _ _ ?_) | (with_reducible refine runWord_canon _ _ _ ?_ ?_) | (with_reducible refine crossWord_canon _ _ _ ?_ ?_) | (with_reducible refine issue_canon _ _ _ _ ?_ ?_ ?_) | (with_reducible refine access_canon _ _ _ _ ?_ ?_ ?_) | (with_reducible refine bufAccess_canon _ _ _ _ ?_ ?_ ?_) | (with_reducible refine canon_getD ?_ ?_) | (intro _ _ _; try dsimp only) | (intro _ _; try dsimp only) | (intro _; try dsimp only)
  all_goals try simp (maxDischargeDepth := 20) +contextual [*]
@[simp] theorem fence_canon (s : State) (f : FenceId) (hs : Canon s) : Canon (fence s f) := by
  unfold fence
  (try dsimp only)
  repeat' first | split | (refine canon_foldl _ ?_ _ _ ?_) | (refine canon_foldl1 _ ?_ _ _ ?_) | (refine canon_foldl2 _ ?_ _ _ ?_) | (refine loaded_foldl _ ?_ _ _ ?_) | (refine steps_foldl _ ?_ _ _ ?_) | (refine runWord_canon _ _ _ ?_ ?_) | (refine crossWord_canon _ _ _ ?_ ?_) | (refine issue_canon _ _ _ _ ?_ ?_ ?_) | (refine access_canon _ _ _ _ ?_ ?_ ?_) | (refine bufAccess_canon _ _ _ _ ?_ ?_ ?_) | (refine canon_getD ?_ ?_) | (intro _ _ _; try dsimp only) | (intro _ _; try dsimp only) | (intro _; try dsimp only)
  all_goals try simp (maxDischargeDepth := 20) +contextual [*]
theorem execLinkTimeout_canon (part : FenceId) (s : State) (hs : Canon s) : OutC (execLinkTimeout part s) := by
  unfold execLinkTimeout
  (try dsimp only)
  repeat' first | split | (with_reducible refine canon_foldl _ ?_ _ _ ?_) | (with_reducible refine canon_foldl1 _ ?_ _ _ ?_) | (with_reducible refine canon_foldl2 _ ?_ _ _ ?_) | (with_reducible refine loaded_foldl _ ?_ _ _ ?_) | (with_reducible refine steps_foldl _ ?_ _ _ ?_) | (with_reducible refine runWord_canon _ _ _ ?_ ?_) | (with_reducible refine crossWord_canon _ _ _ ?_ ?_) | (with_reducible refine issue_canon _ _ _ _ ?_ ?_ ?_) | (with_reducible refine access_canon _ _ _ _ ?_ ?_ ?_) | (with_reducible refine bufAccess_canon _ _ _ _ ?_ ?_ ?_) | (with_reducible refine canon_getD ?_ ?_) | (intro _ _ _; try dsimp only) | (intro _ _; try dsimp only) | (intro _; try dsimp only)
  all_goals try simp (maxDischargeDepth := 20) +contextual [*]
theorem execSwitchTimeout_canon (die : Nat) (s : State) (hs : Canon s) : OutC (execSwitchTimeout die s) := by
  unfold execSwitchTimeout
  (try dsimp only)
  repeat' first | split | (refine canon_foldl _ ?_ _ _ ?_) | (refine canon_foldl1 _ ?_ _ _ ?_) | (refine canon_foldl2 _ ?_ _ _ ?_) | (refine loaded_foldl _ ?_ _ _ ?_) | (refine steps_foldl _ ?_ _ _ ?_) | (refine runWord_canon _ _ _ ?_ ?_) | (refine crossWord_canon _ _ _ ?_ ?_) | (refine issue_canon _ _ _ _ ?_ ?_ ?_) | (refine access_canon _ _ _ _ ?_ ?_ ?_) | (refine bufAccess_canon _ _ _ _ ?_ ?_ ?_) | (refine canon_getD ?_ ?_) | (intro _ _ _; try dsimp only) | (intro _ _; try dsimp only) | (intro _; try dsimp only)
  all_goals try simp (maxDischargeDepth := 20) +contextual [*]
theorem execPeerTimeout_canon (tenant : Nat) (endpoint : Word) (s : State) (hs : Canon s) : OutC (execPeerTimeout tenant endpoint s) := by
  unfold execPeerTimeout
  (try dsimp only)
  repeat' first | split | (with_reducible refine canon_foldl _ ?_ _ _ ?_) | (with_reducible refine canon_foldl1 _ ?_ _ _ ?_) | (with_reducible refine canon_foldl2 _ ?_ _ _ ?_) | (with_reducible refine loaded_foldl _ ?_ _ _ ?_) | (with_reducible refine steps_foldl _ ?_ _ _ ?_) | (with_reducible refine runWord_canon _ _ _ ?_ ?_) | (with_reducible refine crossWord_canon _ _ _ ?_ ?_) | (with_reducible refine issue_canon _ _ _ _ ?_ ?_ ?_) | (with_reducible refine access_canon _ _ _ _ ?_ ?_ ?_) | (with_reducible refine bufAccess_canon _ _ _ _ ?_ ?_ ?_) | (with_reducible refine canon_getD ?_ ?_) | (intro _ _ _; try dsimp only) | (intro _ _; try dsimp only) | (intro _; try dsimp only)
  all_goals try simp (maxDischargeDepth := 20) +contextual [*]
theorem execFenceLift_canon (part : FenceId) (s : State) (hs : Canon s) : OutC (execFenceLift part s) := by
  unfold execFenceLift
  (try dsimp only)
  repeat' first | split | (with_reducible refine canon_foldl _ ?_ _ _ ?_) | (with_reducible refine canon_foldl1 _ ?_ _ _ ?_) | (with_reducible refine canon_foldl2 _ ?_ _ _ ?_) | (with_reducible refine loaded_foldl _ ?_ _ _ ?_) | (with_reducible refine steps_foldl _ ?_ _ _ ?_) | (with_reducible refine runWord_canon _ _ _ ?_ ?_) | (with_reducible refine crossWord_canon _ _ _ ?_ ?_) | (with_reducible refine issue_canon _ _ _ _ ?_ ?_ ?_) | (with_reducible refine access_canon _ _ _ _ ?_ ?_ ?_) | (with_reducible refine bufAccess_canon _ _ _ _ ?_ ?_ ?_) | (with_reducible refine canon_getD ?_ ?_) | (intro _ _ _; try dsimp only) | (intro _ _; try dsimp only) | (intro _; try dsimp only)
  all_goals try simp (maxDischargeDepth := 20) +contextual [*]

/-! ### Module -/

theorem execOperatingPointChange_canon (die : Nat) (found : Forecast) (s : State) (hs : Canon s) : OutC (execOperatingPointChange die found s) := by
  unfold execOperatingPointChange
  (try dsimp only)
  repeat' first | split | (with_reducible refine canon_foldl _ ?_ _ _ ?_) | (with_reducible refine canon_foldl1 _ ?_ _ _ ?_) | (with_reducible refine canon_foldl2 _ ?_ _ _ ?_) | (with_reducible refine loaded_foldl _ ?_ _ _ ?_) | (with_reducible refine steps_foldl _ ?_ _ _ ?_) | (with_reducible refine runWord_canon _ _ _ ?_ ?_) | (with_reducible refine crossWord_canon _ _ _ ?_ ?_) | (with_reducible refine issue_canon _ _ _ _ ?_ ?_ ?_) | (with_reducible refine access_canon _ _ _ _ ?_ ?_ ?_) | (with_reducible refine bufAccess_canon _ _ _ _ ?_ ?_ ?_) | (with_reducible refine canon_getD ?_ ?_) | (intro _ _ _; try dsimp only) | (intro _ _; try dsimp only) | (intro _; try dsimp only)
  all_goals try simp (maxDischargeDepth := 20) +contextual [*]
theorem execPowerLimitSet_canon (watts : Nat) (s : State) (hs : Canon s) : OutC (execPowerLimitSet watts s) := by
  unfold execPowerLimitSet
  (try dsimp only)
  repeat' first | split | (with_reducible refine canon_foldl _ ?_ _ _ ?_) | (with_reducible refine canon_foldl1 _ ?_ _ _ ?_) | (with_reducible refine canon_foldl2 _ ?_ _ _ ?_) | (with_reducible refine loaded_foldl _ ?_ _ _ ?_) | (with_reducible refine steps_foldl _ ?_ _ _ ?_) | (with_reducible refine runWord_canon _ _ _ ?_ ?_) | (with_reducible refine crossWord_canon _ _ _ ?_ ?_) | (with_reducible refine issue_canon _ _ _ _ ?_ ?_ ?_) | (with_reducible refine access_canon _ _ _ _ ?_ ?_ ?_) | (with_reducible refine bufAccess_canon _ _ _ _ ?_ ?_ ?_) | (with_reducible refine canon_getD ?_ ?_) | (intro _ _ _; try dsimp only) | (intro _ _; try dsimp only) | (intro _; try dsimp only)
  all_goals try simp (maxDischargeDepth := 20) +contextual [*]
theorem execTelemetryReport_canon (r : Readings) (s : State) (hs : Canon s) : OutC (execTelemetryReport r s) := by
  unfold execTelemetryReport
  (try dsimp only)
  repeat' first | split | (with_reducible refine canon_foldl _ ?_ _ _ ?_) | (with_reducible refine canon_foldl1 _ ?_ _ _ ?_) | (with_reducible refine canon_foldl2 _ ?_ _ _ ?_) | (with_reducible refine loaded_foldl _ ?_ _ _ ?_) | (with_reducible refine steps_foldl _ ?_ _ _ ?_) | (with_reducible refine runWord_canon _ _ _ ?_ ?_) | (with_reducible refine crossWord_canon _ _ _ ?_ ?_) | (with_reducible refine issue_canon _ _ _ _ ?_ ?_ ?_) | (with_reducible refine access_canon _ _ _ _ ?_ ?_ ?_) | (with_reducible refine bufAccess_canon _ _ _ _ ?_ ?_ ?_) | (with_reducible refine canon_getD ?_ ?_) | (intro _ _ _; try dsimp only) | (intro _ _; try dsimp only) | (intro _; try dsimp only)
  all_goals try simp (maxDischargeDepth := 20) +contextual [*]
theorem execThermalShutdown_canon (cause : ThermalCause) (s : State) (hs : Canon s) : OutC (execThermalShutdown cause s) := by
  unfold execThermalShutdown
  (try dsimp only)
  repeat' first | split | (with_reducible refine canon_foldl _ ?_ _ _ ?_) | (with_reducible refine canon_foldl1 _ ?_ _ _ ?_) | (with_reducible refine canon_foldl2 _ ?_ _ _ ?_) | (with_reducible refine loaded_foldl _ ?_ _ _ ?_) | (with_reducible refine steps_foldl _ ?_ _ _ ?_) | (with_reducible refine runWord_canon _ _ _ ?_ ?_) | (with_reducible refine crossWord_canon _ _ _ ?_ ?_) | (with_reducible refine issue_canon _ _ _ _ ?_ ?_ ?_) | (with_reducible refine access_canon _ _ _ _ ?_ ?_ ?_) | (with_reducible refine bufAccess_canon _ _ _ _ ?_ ?_ ?_) | (with_reducible refine canon_getD ?_ ?_) | (intro _ _ _; try dsimp only) | (intro _ _; try dsimp only) | (intro _; try dsimp only)
  all_goals try simp (maxDischargeDepth := 20) +contextual [*]
theorem reset_canon : Canon State.reset := And.intro rfl (fun i hi => absurd hi (List.not_mem_nil))
@[simp] theorem recover_canon (s base : State) (step : Nat) (hs : Canon s) (hbase : Canon base) : Canon (recover s base step) :=
  And.intro hs.1 hbase.2

@[simp] theorem resetModule_canon (s : State) (failed : BootFailures) (hs : Canon s) : Canon (resetModule s failed) := by
  unfold resetModule
  extract_lets f parts base
  have hb : Canon base := canon_same reset_canon rfl rfl
  split
  · exact canon_same hb rfl rfl
  · exact recover_canon _ _ _ hs hb

theorem execModuleReset_canon (u0 : ResetCause) (failed : BootFailures) (s : State) (hs : Canon s) : OutC (execModuleReset u0 failed s) := by
  unfold execModuleReset
  (try dsimp only)
  repeat' first | split | (with_reducible refine canon_foldl _ ?_ _ _ ?_) | (with_reducible refine canon_foldl1 _ ?_ _ _ ?_) | (with_reducible refine canon_foldl2 _ ?_ _ _ ?_) | (with_reducible refine loaded_foldl _ ?_ _ _ ?_) | (with_reducible refine steps_foldl _ ?_ _ _ ?_) | (with_reducible refine runWord_canon _ _ _ ?_ ?_) | (with_reducible refine crossWord_canon _ _ _ ?_ ?_) | (with_reducible refine issue_canon _ _ _ _ ?_ ?_ ?_) | (with_reducible refine access_canon _ _ _ _ ?_ ?_ ?_) | (with_reducible refine bufAccess_canon _ _ _ _ ?_ ?_ ?_) | (with_reducible refine canon_getD ?_ ?_) | (intro _ _ _; try dsimp only) | (intro _ _; try dsimp only) | (intro _; try dsimp only)
  all_goals try simp (maxDischargeDepth := 20) +contextual [*]
theorem execImageUpdate_canon (image : Image) (s : State) (hs : Canon s) : OutC (execImageUpdate image s) := by
  unfold execImageUpdate
  (try dsimp only)
  repeat' first | split | (with_reducible refine canon_foldl _ ?_ _ _ ?_) | (with_reducible refine canon_foldl1 _ ?_ _ _ ?_) | (with_reducible refine canon_foldl2 _ ?_ _ _ ?_) | (with_reducible refine loaded_foldl _ ?_ _ _ ?_) | (with_reducible refine steps_foldl _ ?_ _ _ ?_) | (with_reducible refine runWord_canon _ _ _ ?_ ?_) | (with_reducible refine crossWord_canon _ _ _ ?_ ?_) | (with_reducible refine issue_canon _ _ _ _ ?_ ?_ ?_) | (with_reducible refine access_canon _ _ _ _ ?_ ?_ ?_) | (with_reducible refine bufAccess_canon _ _ _ _ ?_ ?_ ?_) | (with_reducible refine canon_getD ?_ ?_) | (intro _ _ _; try dsimp only) | (intro _ _; try dsimp only) | (intro _; try dsimp only)
  all_goals try simp (maxDischargeDepth := 20) +contextual [*]
@[simp] theorem spdm_canon (s : State) (io : Fin 2) (kind arg : Nat) (hs : Canon s) : Canon (spdm s io kind arg) := by
  unfold spdm
  (try dsimp only)
  repeat' first | split | (with_reducible refine canon_foldl _ ?_ _ _ ?_) | (with_reducible refine canon_foldl1 _ ?_ _ _ ?_) | (with_reducible refine canon_foldl2 _ ?_ _ _ ?_) | (with_reducible refine loaded_foldl _ ?_ _ _ ?_) | (with_reducible refine steps_foldl _ ?_ _ _ ?_) | (with_reducible refine runWord_canon _ _ _ ?_ ?_) | (with_reducible refine crossWord_canon _ _ _ ?_ ?_) | (with_reducible refine issue_canon _ _ _ _ ?_ ?_ ?_) | (with_reducible refine access_canon _ _ _ _ ?_ ?_ ?_) | (with_reducible refine bufAccess_canon _ _ _ _ ?_ ?_ ?_) | (with_reducible refine canon_getD ?_ ?_) | (intro _ _ _; try dsimp only) | (intro _ _; try dsimp only) | (intro _; try dsimp only)
  all_goals try simp (maxDischargeDepth := 20) +contextual [*]
theorem execGetVersion_canon (io : Fin 2) (s : State) (hs : Canon s) : OutC (execGetVersion io s) := by
  unfold execGetVersion
  (try dsimp only)
  repeat' first | split | (with_reducible refine canon_foldl _ ?_ _ _ ?_) | (with_reducible refine canon_foldl1 _ ?_ _ _ ?_) | (with_reducible refine canon_foldl2 _ ?_ _ _ ?_) | (with_reducible refine loaded_foldl _ ?_ _ _ ?_) | (with_reducible refine steps_foldl _ ?_ _ _ ?_) | (with_reducible refine runWord_canon _ _ _ ?_ ?_) | (with_reducible refine crossWord_canon _ _ _ ?_ ?_) | (with_reducible refine issue_canon _ _ _ _ ?_ ?_ ?_) | (with_reducible refine access_canon _ _ _ _ ?_ ?_ ?_) | (with_reducible refine bufAccess_canon _ _ _ _ ?_ ?_ ?_) | (with_reducible refine canon_getD ?_ ?_) | (intro _ _ _; try dsimp only) | (intro _ _; try dsimp only) | (intro _; try dsimp only)
  all_goals try simp (maxDischargeDepth := 20) +contextual [*]
theorem execGetCapabilities_canon (io : Fin 2) (s : State) (hs : Canon s) : OutC (execGetCapabilities io s) := by
  unfold execGetCapabilities
  (try dsimp only)
  repeat' first | split | (with_reducible refine canon_foldl _ ?_ _ _ ?_) | (with_reducible refine canon_foldl1 _ ?_ _ _ ?_) | (with_reducible refine canon_foldl2 _ ?_ _ _ ?_) | (with_reducible refine loaded_foldl _ ?_ _ _ ?_) | (with_reducible refine steps_foldl _ ?_ _ _ ?_) | (with_reducible refine runWord_canon _ _ _ ?_ ?_) | (with_reducible refine crossWord_canon _ _ _ ?_ ?_) | (with_reducible refine issue_canon _ _ _ _ ?_ ?_ ?_) | (with_reducible refine access_canon _ _ _ _ ?_ ?_ ?_) | (with_reducible refine bufAccess_canon _ _ _ _ ?_ ?_ ?_) | (with_reducible refine canon_getD ?_ ?_) | (intro _ _ _; try dsimp only) | (intro _ _; try dsimp only) | (intro _; try dsimp only)
  all_goals try simp (maxDischargeDepth := 20) +contextual [*]
theorem execNegotiateAlgorithms_canon (io : Fin 2) (s : State) (hs : Canon s) : OutC (execNegotiateAlgorithms io s) := by
  unfold execNegotiateAlgorithms
  (try dsimp only)
  repeat' first | split | (with_reducible refine canon_foldl _ ?_ _ _ ?_) | (with_reducible refine canon_foldl1 _ ?_ _ _ ?_) | (with_reducible refine canon_foldl2 _ ?_ _ _ ?_) | (with_reducible refine loaded_foldl _ ?_ _ _ ?_) | (with_reducible refine steps_foldl _ ?_ _ _ ?_) | (with_reducible refine runWord_canon _ _ _ ?_ ?_) | (with_reducible refine crossWord_canon _ _ _ ?_ ?_) | (with_reducible refine issue_canon _ _ _ _ ?_ ?_ ?_) | (with_reducible refine access_canon _ _ _ _ ?_ ?_ ?_) | (with_reducible refine bufAccess_canon _ _ _ _ ?_ ?_ ?_) | (with_reducible refine canon_getD ?_ ?_) | (intro _ _ _; try dsimp only) | (intro _ _; try dsimp only) | (intro _; try dsimp only)
  all_goals try simp (maxDischargeDepth := 20) +contextual [*]
theorem execGetDigests_canon (io : Fin 2) (s : State) (hs : Canon s) : OutC (execGetDigests io s) := by
  unfold execGetDigests
  (try dsimp only)
  repeat' first | split | (with_reducible refine canon_foldl _ ?_ _ _ ?_) | (with_reducible refine canon_foldl1 _ ?_ _ _ ?_) | (with_reducible refine canon_foldl2 _ ?_ _ _ ?_) | (with_reducible refine loaded_foldl _ ?_ _ _ ?_) | (with_reducible refine steps_foldl _ ?_ _ _ ?_) | (with_reducible refine runWord_canon _ _ _ ?_ ?_) | (with_reducible refine crossWord_canon _ _ _ ?_ ?_) | (with_reducible refine issue_canon _ _ _ _ ?_ ?_ ?_) | (with_reducible refine access_canon _ _ _ _ ?_ ?_ ?_) | (with_reducible refine bufAccess_canon _ _ _ _ ?_ ?_ ?_) | (with_reducible refine canon_getD ?_ ?_) | (intro _ _ _; try dsimp only) | (intro _ _; try dsimp only) | (intro _; try dsimp only)
  all_goals try simp (maxDischargeDepth := 20) +contextual [*]
theorem execGetCertificate_canon (io : Fin 2) (s : State) (hs : Canon s) : OutC (execGetCertificate io s) := by
  unfold execGetCertificate
  (try dsimp only)
  repeat' first | split | (with_reducible refine canon_foldl _ ?_ _ _ ?_) | (with_reducible refine canon_foldl1 _ ?_ _ _ ?_) | (with_reducible refine canon_foldl2 _ ?_ _ _ ?_) | (with_reducible refine loaded_foldl _ ?_ _ _ ?_) | (with_reducible refine steps_foldl _ ?_ _ _ ?_) | (with_reducible refine runWord_canon _ _ _ ?_ ?_) | (with_reducible refine crossWord_canon _ _ _ ?_ ?_) | (with_reducible refine issue_canon _ _ _ _ ?_ ?_ ?_) | (with_reducible refine access_canon _ _ _ _ ?_ ?_ ?_) | (with_reducible refine bufAccess_canon _ _ _ _ ?_ ?_ ?_) | (with_reducible refine canon_getD ?_ ?_) | (intro _ _ _; try dsimp only) | (intro _ _; try dsimp only) | (intro _; try dsimp only)
  all_goals try simp (maxDischargeDepth := 20) +contextual [*]
theorem execChallenge_canon (io : Fin 2) (nonce : Nat) (s : State) (hs : Canon s) : OutC (execChallenge io nonce s) := by
  unfold execChallenge
  (try dsimp only)
  repeat' first | split | (with_reducible refine canon_foldl _ ?_ _ _ ?_) | (with_reducible refine canon_foldl1 _ ?_ _ _ ?_) | (with_reducible refine canon_foldl2 _ ?_ _ _ ?_) | (with_reducible refine loaded_foldl _ ?_ _ _ ?_) | (with_reducible refine steps_foldl _ ?_ _ _ ?_) | (with_reducible refine runWord_canon _ _ _ ?_ ?_) | (with_reducible refine crossWord_canon _ _ _ ?_ ?_) | (with_reducible refine issue_canon _ _ _ _ ?_ ?_ ?_) | (with_reducible refine access_canon _ _ _ _ ?_ ?_ ?_) | (with_reducible refine bufAccess_canon _ _ _ _ ?_ ?_ ?_) | (with_reducible refine canon_getD ?_ ?_) | (intro _ _ _; try dsimp only) | (intro _ _; try dsimp only) | (intro _; try dsimp only)
  all_goals try simp (maxDischargeDepth := 20) +contextual [*]
theorem execGetMeasurements_canon (io : Fin 2) (who : Requester) (index : Nat) (s : State) (hs : Canon s) : OutC (execGetMeasurements io who index s) := by
  unfold execGetMeasurements
  (try dsimp only)
  repeat' first | split | (with_reducible refine canon_foldl _ ?_ _ _ ?_) | (with_reducible refine canon_foldl1 _ ?_ _ _ ?_) | (with_reducible refine canon_foldl2 _ ?_ _ _ ?_) | (with_reducible refine loaded_foldl _ ?_ _ _ ?_) | (with_reducible refine steps_foldl _ ?_ _ _ ?_) | (with_reducible refine runWord_canon _ _ _ ?_ ?_) | (with_reducible refine crossWord_canon _ _ _ ?_ ?_) | (with_reducible refine issue_canon _ _ _ _ ?_ ?_ ?_) | (with_reducible refine access_canon _ _ _ _ ?_ ?_ ?_) | (with_reducible refine bufAccess_canon _ _ _ _ ?_ ?_ ?_) | (with_reducible refine canon_getD ?_ ?_) | (intro _ _ _; try dsimp only) | (intro _ _; try dsimp only) | (intro _; try dsimp only)
  all_goals try simp (maxDischargeDepth := 20) +contextual [*]
theorem execSpdmUnsupportedRequest_canon (io : Fin 2) (request : Byte) (s : State) (hs : Canon s) : OutC (execSpdmUnsupportedRequest io request s) := by
  unfold execSpdmUnsupportedRequest
  (try dsimp only)
  repeat' first | split | (with_reducible refine canon_foldl _ ?_ _ _ ?_) | (with_reducible refine canon_foldl1 _ ?_ _ _ ?_) | (with_reducible refine canon_foldl2 _ ?_ _ _ ?_) | (with_reducible refine loaded_foldl _ ?_ _ _ ?_) | (with_reducible refine steps_foldl _ ?_ _ _ ?_) | (with_reducible refine runWord_canon _ _ _ ?_ ?_) | (with_reducible refine crossWord_canon _ _ _ ?_ ?_) | (with_reducible refine issue_canon _ _ _ _ ?_ ?_ ?_) | (with_reducible refine access_canon _ _ _ _ ?_ ?_ ?_) | (with_reducible refine bufAccess_canon _ _ _ _ ?_ ?_ ?_) | (with_reducible refine canon_getD ?_ ?_) | (intro _ _ _; try dsimp only) | (intro _ _; try dsimp only) | (intro _; try dsimp only)
  all_goals try simp (maxDischargeDepth := 20) +contextual [*]
theorem execCompletionNotice_canon (origin : Word) (launch : DWord) (s : State) (hs : Canon s) : OutC (execCompletionNotice origin launch s) := by
  unfold execCompletionNotice
  (try dsimp only)
  repeat' first | split | (with_reducible refine canon_foldl _ ?_ _ _ ?_) | (with_reducible refine canon_foldl1 _ ?_ _ _ ?_) | (with_reducible refine canon_foldl2 _ ?_ _ _ ?_) | (with_reducible refine loaded_foldl _ ?_ _ _ ?_) | (with_reducible refine steps_foldl _ ?_ _ _ ?_) | (with_reducible refine runWord_canon _ _ _ ?_ ?_) | (with_reducible refine crossWord_canon _ _ _ ?_ ?_) | (with_reducible refine issue_canon _ _ _ _ ?_ ?_ ?_) | (with_reducible refine access_canon _ _ _ _ ?_ ?_ ?_) | (with_reducible refine bufAccess_canon _ _ _ _ ?_ ?_ ?_) | (with_reducible refine canon_getD ?_ ?_) | (intro _ _ _; try dsimp only) | (intro _ _; try dsimp only) | (intro _; try dsimp only)
  all_goals try simp (maxDischargeDepth := 20) +contextual [*]
theorem execIoDieFailure_canon (io : Fin 2) (s : State) (hs : Canon s) : OutC (execIoDieFailure io s) := by
  unfold execIoDieFailure
  (try dsimp only)
  repeat' first | split | (with_reducible refine canon_foldl _ ?_ _ _ ?_) | (with_reducible refine canon_foldl1 _ ?_ _ _ ?_) | (with_reducible refine canon_foldl2 _ ?_ _ _ ?_) | (with_reducible refine loaded_foldl _ ?_ _ _ ?_) | (with_reducible refine steps_foldl _ ?_ _ _ ?_) | (with_reducible refine runWord_canon _ _ _ ?_ ?_) | (with_reducible refine crossWord_canon _ _ _ ?_ ?_) | (with_reducible refine issue_canon _ _ _ _ ?_ ?_ ?_) | (with_reducible refine access_canon _ _ _ _ ?_ ?_ ?_) | (with_reducible refine bufAccess_canon _ _ _ _ ?_ ?_ ?_) | (with_reducible refine canon_getD ?_ ?_) | (intro _ _ _; try dsimp only) | (intro _ _; try dsimp only) | (intro _; try dsimp only)
  all_goals try simp (maxDischargeDepth := 20) +contextual [*]
theorem execUnsupportedPacket_canon (kind : BadPacket) (s : State) (hs : Canon s) : OutC (execUnsupportedPacket kind s) := by
  unfold execUnsupportedPacket
  (try dsimp only)
  repeat' first | split | (with_reducible refine canon_foldl _ ?_ _ _ ?_) | (with_reducible refine canon_foldl1 _ ?_ _ _ ?_) | (with_reducible refine canon_foldl2 _ ?_ _ _ ?_) | (with_reducible refine loaded_foldl _ ?_ _ _ ?_) | (with_reducible refine steps_foldl _ ?_ _ _ ?_) | (with_reducible refine runWord_canon _ _ _ ?_ ?_) | (with_reducible refine crossWord_canon _ _ _ ?_ ?_) | (with_reducible refine issue_canon _ _ _ _ ?_ ?_ ?_) | (with_reducible refine access_canon _ _ _ _ ?_ ?_ ?_) | (with_reducible refine bufAccess_canon _ _ _ _ ?_ ?_ ?_) | (with_reducible refine canon_getD ?_ ?_) | (intro _ _ _; try dsimp only) | (intro _ _; try dsimp only) | (intro _; try dsimp only)
  all_goals try simp (maxDischargeDepth := 20) +contextual [*]

/-! ### Monitor -/

@[simp] theorem serveRequest_canon (s : State) (n : Nat) (hs : Canon s) : Canon (serveRequest s n) := by
  unfold serveRequest
  (try dsimp only)
  repeat' first | split | (with_reducible refine canon_foldl _ ?_ _ _ ?_) | (with_reducible refine canon_foldl1 _ ?_ _ _ ?_) | (with_reducible refine canon_foldl2 _ ?_ _ _ ?_) | (with_reducible refine loaded_foldl _ ?_ _ _ ?_) | (with_reducible refine steps_foldl _ ?_ _ _ ?_) | (with_reducible refine runWord_canon _ _ _ ?_ ?_) | (with_reducible refine crossWord_canon _ _ _ ?_ ?_) | (with_reducible refine issue_canon _ _ _ _ ?_ ?_ ?_) | (with_reducible refine access_canon _ _ _ _ ?_ ?_ ?_) | (with_reducible refine bufAccess_canon _ _ _ _ ?_ ?_ ?_) | (with_reducible refine canon_getD ?_ ?_) | (intro _ _ _; try dsimp only) | (intro _ _; try dsimp only) | (intro _; try dsimp only)
  all_goals try simp (maxDischargeDepth := 20) +contextual [*]
theorem execMonitorRequest_canon (n : Nat) (s : State) (hs : Canon s) : OutC (execMonitorRequest n s) := by
  unfold execMonitorRequest
  (try dsimp only)
  repeat' first | split | (with_reducible refine canon_foldl _ ?_ _ _ ?_) | (with_reducible refine canon_foldl1 _ ?_ _ _ ?_) | (with_reducible refine canon_foldl2 _ ?_ _ _ ?_) | (with_reducible refine loaded_foldl _ ?_ _ _ ?_) | (with_reducible refine steps_foldl _ ?_ _ _ ?_) | (with_reducible refine runWord_canon _ _ _ ?_ ?_) | (with_reducible refine crossWord_canon _ _ _ ?_ ?_) | (with_reducible refine issue_canon _ _ _ _ ?_ ?_ ?_) | (with_reducible refine access_canon _ _ _ _ ?_ ?_ ?_) | (with_reducible refine bufAccess_canon _ _ _ _ ?_ ?_ ?_) | (with_reducible refine canon_getD ?_ ?_) | (intro _ _ _; try dsimp only) | (intro _ _; try dsimp only) | (intro _; try dsimp only)
  all_goals try simp (maxDischargeDepth := 20) +contextual [*]
@[simp] theorem grantLane_canon (s : State) (wid : Nat) (l : Lane) (hs : Canon s) : Canon (grantLane s wid l) := by
  unfold grantLane
  (try dsimp only)
  repeat' first | split | (with_reducible refine canon_foldl _ ?_ _ _ ?_) | (with_reducible refine canon_foldl1 _ ?_ _ _ ?_) | (with_reducible refine canon_foldl2 _ ?_ _ _ ?_) | (with_reducible refine loaded_foldl _ ?_ _ _ ?_) | (with_reducible refine steps_foldl _ ?_ _ _ ?_) | (with_reducible refine runWord_canon _ _ _ ?_ ?_) | (with_reducible refine crossWord_canon _ _ _ ?_ ?_) | (with_reducible refine issue_canon _ _ _ _ ?_ ?_ ?_) | (with_reducible refine access_canon _ _ _ _ ?_ ?_ ?_) | (with_reducible refine bufAccess_canon _ _ _ _ ?_ ?_ ?_) | (with_reducible refine canon_getD ?_ ?_) | (intro _ _ _; try dsimp only) | (intro _ _; try dsimp only) | (intro _; try dsimp only)
  all_goals try simp (maxDischargeDepth := 20) +contextual [*]
theorem execMonitorGrant_canon (wave : Nat) (lane : Lane) (s : State) (hs : Canon s) : OutC (execMonitorGrant wave lane s) := by
  unfold execMonitorGrant
  (try dsimp only)
  repeat' first | split | (with_reducible refine canon_foldl _ ?_ _ _ ?_) | (with_reducible refine canon_foldl1 _ ?_ _ _ ?_) | (with_reducible refine canon_foldl2 _ ?_ _ _ ?_) | (with_reducible refine loaded_foldl _ ?_ _ _ ?_) | (with_reducible refine steps_foldl _ ?_ _ _ ?_) | (with_reducible refine runWord_canon _ _ _ ?_ ?_) | (with_reducible refine crossWord_canon _ _ _ ?_ ?_) | (with_reducible refine issue_canon _ _ _ _ ?_ ?_ ?_) | (with_reducible refine access_canon _ _ _ _ ?_ ?_ ?_) | (with_reducible refine bufAccess_canon _ _ _ _ ?_ ?_ ?_) | (with_reducible refine canon_getD ?_ ?_) | (intro _ _ _; try dsimp only) | (intro _ _; try dsimp only) | (intro _; try dsimp only)
  all_goals try simp (maxDischargeDepth := 20) +contextual [*]
@[simp] theorem sendReleases_canon (s : State) (wid : Nat) (hs : Canon s) : Canon (sendReleases s wid) := by
  unfold sendReleases
  split
  · exact hs
  · split
    · exact hs
    · extract_lets s1
      have h1 : Canon s1 := hs
      exact tryFinish_canon _ _ (canon_foldl _ (fun t x ht => campionRelease_canon _ _ _ _ _ _ ht) _ _ h1)
theorem execMonitorRelease_canon (wave : Nat) (s : State) (hs : Canon s) : OutC (execMonitorRelease wave s) := by
  unfold execMonitorRelease
  (try dsimp only)
  repeat' first | split | (with_reducible refine canon_foldl _ ?_ _ _ ?_) | (with_reducible refine canon_foldl1 _ ?_ _ _ ?_) | (with_reducible refine canon_foldl2 _ ?_ _ _ ?_) | (with_reducible refine loaded_foldl _ ?_ _ _ ?_) | (with_reducible refine steps_foldl _ ?_ _ _ ?_) | (with_reducible refine runWord_canon _ _ _ ?_ ?_) | (with_reducible refine crossWord_canon _ _ _ ?_ ?_) | (with_reducible refine issue_canon _ _ _ _ ?_ ?_ ?_) | (with_reducible refine access_canon _ _ _ _ ?_ ?_ ?_) | (with_reducible refine bufAccess_canon _ _ _ _ ?_ ?_ ?_) | (with_reducible refine canon_getD ?_ ?_) | (intro _ _ _; try dsimp only) | (intro _ _; try dsimp only) | (intro _; try dsimp only)
  all_goals try simp (maxDischargeDepth := 20) +contextual [*]

/-! ### Queues -/

@[simp] theorem bindQueue_canon (c : Ctx) (k : Fin 8) (g : Eng) (i : Nat) (hc : Canon c.s) : ResC (bindQueue c k g i) := by
  unfold bindQueue
  (try dsimp only)
  repeat' first | split | (with_reducible refine canon_foldl _ ?_ _ _ ?_) | (with_reducible refine canon_foldl1 _ ?_ _ _ ?_) | (with_reducible refine canon_foldl2 _ ?_ _ _ ?_) | (with_reducible refine loaded_foldl _ ?_ _ _ ?_) | (with_reducible refine steps_foldl _ ?_ _ _ ?_) | (with_reducible refine runWord_canon _ _ _ ?_ ?_) | (with_reducible refine crossWord_canon _ _ _ ?_ ?_) | (with_reducible refine issue_canon _ _ _ _ ?_ ?_ ?_) | (with_reducible refine access_canon _ _ _ _ ?_ ?_ ?_) | (with_reducible refine bufAccess_canon _ _ _ _ ?_ ?_ ?_) | (with_reducible refine canon_getD ?_ ?_) | (intro _ _ _; try dsimp only) | (intro _ _; try dsimp only) | (intro _; try dsimp only)
  all_goals try simp (maxDischargeDepth := 20) +contextual [*]
theorem execQbind_canon (e : Bool) (q : Fin 8) (g i : BitVec 3) (s : State) (hs : Canon s) : OutC (execQbind e q g i s) := by
  unfold execQbind
  (try dsimp only)
  repeat' first | split | (with_reducible refine canon_foldl _ ?_ _ _ ?_) | (with_reducible refine canon_foldl1 _ ?_ _ _ ?_) | (with_reducible refine canon_foldl2 _ ?_ _ _ ?_) | (with_reducible refine loaded_foldl _ ?_ _ _ ?_) | (with_reducible refine steps_foldl _ ?_ _ _ ?_) | (with_reducible refine runWord_canon _ _ _ ?_ ?_) | (with_reducible refine crossWord_canon _ _ _ ?_ ?_) | (with_reducible refine issue_canon _ _ _ _ ?_ ?_ ?_) | (with_reducible refine access_canon _ _ _ _ ?_ ?_ ?_) | (with_reducible refine bufAccess_canon _ _ _ _ ?_ ?_ ?_) | (with_reducible refine canon_getD ?_ ?_) | (intro _ _ _; try dsimp only) | (intro _ _; try dsimp only) | (intro _; try dsimp only)
  all_goals try simp (maxDischargeDepth := 20) +contextual [*]
theorem execQstat_canon (e k : Bool) (q : Fin 8) (d : Reg) (s : State) (hs : Canon s) : OutC (execQstat e k q d s) := by
  unfold execQstat
  (try dsimp only)
  repeat' first | split | (with_reducible refine canon_foldl _ ?_ _ _ ?_) | (with_reducible refine canon_foldl1 _ ?_ _ _ ?_) | (with_reducible refine canon_foldl2 _ ?_ _ _ ?_) | (with_reducible refine loaded_foldl _ ?_ _ _ ?_) | (with_reducible refine steps_foldl _ ?_ _ _ ?_) | (with_reducible refine runWord_canon _ _ _ ?_ ?_) | (with_reducible refine crossWord_canon _ _ _ ?_ ?_) | (with_reducible refine issue_canon _ _ _ _ ?_ ?_ ?_) | (with_reducible refine access_canon _ _ _ _ ?_ ?_ ?_) | (with_reducible refine bufAccess_canon _ _ _ _ ?_ ?_ ?_) | (with_reducible refine canon_getD ?_ ?_) | (intro _ _ _; try dsimp only) | (intro _ _; try dsimp only) | (intro _; try dsimp only)
  all_goals try simp (maxDischargeDepth := 20) +contextual [*]

end Sys2Proof.Machine
end

