-- ==== Sys2Proof/Laws/Lanes.lean ====
section
/-! SUPPORT. Sets of lanes, lanes of a wave, finding a wave, and registers of a lane (R2, R14, R20). -/
namespace Sys2Proof

theorem laneList_length : laneList.length = 32 := by simp [laneList]
theorem mem_laneList (l : Lane) : l ∈ laneList := List.mem_finRange l

theorem maskFold (p : Lane → Bool) (k : Nat) (hk : k ≤ 32) :
    let n := (laneList.take k).foldl (fun n l => if p l then n + 2 ^ l.val else n) 0
    n < 2 ^ k ∧ ∀ l : Lane, l.val < k → n.testBit l.val = p l := by
  induction k with
  | zero => simp
  | succ k ih =>
    obtain ⟨h1, h2⟩ := ih (by omega)
    have hget : laneList[k]? = some ⟨k, by omega⟩ := by simp [laneList, show k < 32 by omega]
    rw [List.take_add_one, hget, Option.toList_some, List.foldl_append]
    generalize (laneList.take k).foldl (fun n l => if p l then n + 2 ^ l.val else n) 0 = n at h1 h2 ⊢
    simp only [List.foldl_cons, List.foldl_nil]
    constructor
    · rw [Nat.pow_succ]; split <;> omega
    · intro l hl
      by_cases e : l.val = k
      · obtain rfl : k = l.val := e.symm
        split
        · next hp => rw [Nat.add_comm, Nat.testBit_two_pow_add_eq, Nat.testBit_lt_two_pow h1, hp]; rfl
        · next hp => rw [Nat.testBit_lt_two_pow h1]; simpa using hp
      · have hlt : l.val < k := by omega
        rw [← h2 l hlt]
        split
        · rw [Nat.add_comm, Nat.testBit_two_pow_add_gt hlt]
        · rfl

/-- A lane is in the set of the lanes for which a test holds exactly when the test holds. -/
@[simp] theorem Mask.has_of (p : Lane → Bool) (l : Lane) : (Mask.of p).has l = p l := by
  have h := (maskFold p 32 (Nat.le_refl _)).2 l l.isLt
  rw [List.take_of_length_le (by simp [laneList])] at h
  simp only [Mask.has, Mask.of, BitVec.getLsbD_ofNat, h, decide_eq_true l.isLt, Bool.true_and]

@[simp] theorem Mask.has_or (a b : Mask) (l : Lane) : Mask.has (a ||| b) l = (a.has l || b.has l) := by simp [Mask.has]
@[simp] theorem Mask.has_and (a b : Mask) (l : Lane) : Mask.has (a &&& b) l = (a.has l && b.has l) := by simp [Mask.has]
@[simp] theorem Mask.has_not (a : Mask) (l : Lane) : Mask.has (~~~a) l = !a.has l := by simp [Mask.has]
@[simp] theorem Mask.has_zero (l : Lane) : Mask.has 0#32 l = false := by simp [Mask.has]
theorem Mask.mem_lanes (m : Mask) (l : Lane) : l ∈ m.lanes ↔ m.has l = true := by simp [Mask.lanes, mem_laneList]
/-- A set that is not empty has a lane. -/
theorem Mask.exists_of_ne_zero {m : Mask} (h : m ≠ 0) : ∃ l, m.has l = true := by
  refine Classical.byContradiction fun hn => h (BitVec.eq_of_getLsbD_eq fun i hi => ?_)
  have := fun hl => hn ⟨⟨i, hi⟩, hl⟩
  simpa [Mask.has] using this
@[simp] theorem Lanes.get_of {α : Type} (f : Lane → α) (l : Lane) : (Lanes.of f).get l = f l := by
  exact Vector.getElem_ofFn l.isLt

namespace Machine

@[simp] theorem laneOf_mapLanes (w : Wave) (m : Mask) (f) (l : Lane) :
    laneOf (mapLanes w m f) l = if m.has l then f l (laneOf w l) else laneOf w l := by simp [laneOf, mapLanes]
@[simp] theorem laneOf_modLane (w : Wave) (k : Lane) (f) (l : Lane) :
    laneOf (modLane w k f) l = if l = k then f (laneOf w l) else laneOf w l := by simp [laneOf, modLane]

/-- A wave changed is found as it was changed, and every other wave as it was. -/
theorem findWave_modWave (s : State) (n k : Nat) (f : Wave → Wave) (hf : ∀ w, (f w).id = w.id) :
    findWave (modWave s n f) k = (findWave s k).map fun w => if w.id = n then f w else w := by
  simp only [findWave, modWave]
  induction s.waves with
  | nil => rfl
  | cons w l ih =>
    by_cases hw : w.id = n <;> by_cases hk : w.id = k <;> simp_all

theorem findWave_id {s : State} {n : Nat} {w : Wave} (h : findWave s n = some w) : w.id = n := by
  simpa using List.find?_some h

theorem putRegs_regs (x : LaneCtx) (k : Nat) (v : BitVec 128) (n j : Nat) :
    spGet (putRegs x k v n).regs j = if k ≤ j ∧ j < k + n then wordOf128 v (j - k) else spGet x.regs j := by
  induction n with
  | zero => simp [putRegs, show ¬ (k ≤ j ∧ j < k) by omega]
  | succ n ih =>
    simp only [putRegs, spGet_spSet, ih]
    by_cases h : j = k + n
    · subst h; rw [if_pos rfl, if_pos (by omega)]; congr 1; omega
    · rw [if_neg h]
      by_cases h2 : k ≤ j ∧ j < k + n
      · rw [if_pos h2, if_pos (by omega)]
      · rw [if_neg h2, if_neg (by omega)]

/-- A lane with registers written keeps everything else. -/
theorem putRegs_rest (x : LaneCtx) (k : Nat) (v : BitVec 128) (n : Nat) :
    putRegs x k v n = { x with regs := (putRegs x k v n).regs } := by
  induction n with
  | zero => rfl
  | succ n ih => simp only [putRegs]; rw [ih]

end Machine
end Sys2Proof
end

