-- ==== Sys2Proof/Laws/Completion.lean ====
section
/-! SUPPORT. What a word that comes to its own operation and completes leaves: the frame of a completion, and what
`Ctx.write` and `Ctx.writeP` then leave (R16, R21 to R27, R33). -/
namespace Sys2Proof.Machine

theorem foldl_keeps {α β γ : Type} (p : β → γ) (g : β → α → β) (hg : ∀ t x, p (g t x) = p t) (l : List α) (s : β) :
    p (l.foldl g s) = p s := by
  induction l generalizing s with
  | nil => rfl
  | cons x l ih => rw [List.foldl_cons, ih, hg]

theorem l1DropAll_shadows (s : State) (d c : Nat) : (l1DropAll s d c).shadows = s.shadows := rfl
theorem popAcquire_shadows (s : State) (w : Wave) (k : Nat) : (popAcquire s w k).shadows = s.shadows := by
  unfold popAcquire; split
  · split <;> rfl
  · rfl
theorem popWord_shadows (s : State) (n : Nat) (l : Lane) (k : Fin 8) : (popWord s n l k).1.shadows = s.shadows := by
  unfold popWord
  split
  · rfl
  · dsimp only
    split
    · rfl
    · split
      · rfl
      · rw [popAcquire_shadows]; rfl
theorem popAll_shadows (s : State) (n : Nat) (m : Mask) (qs : List (Fin 8)) : (popAll s n m qs).1.shadows = s.shadows := by
  unfold popAll
  rw [foldl_keeps (p := fun t : State × Option (Lane × Trap × Completion) => t.1.shadows)]
  intro t j
  rw [foldl_keeps (p := fun t : State × Option (Lane × Trap × Completion) => t.1.shadows)]
  intro t l
  split
  · split
    · rfl
    · exact popWord_shadows _ _ _ _
  · rfl

/-- What `begins` says, and that the word then comes to its own operation. -/
theorem begins_spec {i : Instr} {s : State} {w : Wave} {c : Ctx} (h : begins i s = some (w, c)) :
    i.wellFormed = true ∧ i.shape = some c.sh ∧ c.exec ≠ 0 ∧ c.exec = execMask w c.r ∧ findWave c.s c.w.id = some c.w ∧ c.w.id = w.id
      ∧ shadowOf c.s c.w.id = none ∧ ∀ sc body, issue i s sc body = .next (finish c (body c)) := by
  unfold begins at h
  split at h
  · next w0 r sh hc hs =>
    dsimp only at h
    split at h
    · cases h
    · next hn =>
      simp only [Bool.or_eq_true, not_or, Bool.not_eq_true, Option.isSome_eq_false_iff, Option.isNone_iff_eq_none,
        decide_eq_false_iff_not, Bool.and_eq_false_iff] at hn
      obtain ⟨⟨⟨⟨⟨⟨h1, h2⟩, h3⟩, h4⟩, h5⟩, h6⟩, h7⟩ := hn
      split at h
      · next v hp hv =>
        split at h
        · next hpush =>
          cases h
          have hid := findWave_id hv
          refine ⟨?_, hs, h6, rfl, by simpa [hid] using hv, hid, ?_, fun sc body => ?_⟩
          · unfold wordTrap at h2
            split at h2
            · cases h2
            · next hw => simpa using hw
          · simp only [shadowOf, popAll_shadows, hid]; exact h1
          · have h7' : popCheck w (execMask w r) (qSources sh) = .go := by simpa using h7
            have h4' : (!(qSources sh).isEmpty && !w.pend.isEmpty) = false := by
              rw [Bool.and_eq_false_iff]; simpa using h4
            simp only [issue, hc, hs, issueWave, h1, h2, h3, h4', h5, operate, h6, h7', hp, hv, hpush, finish, Bool.or_self,
              if_false, Bool.false_eq_true]
        · cases h
      · cases h
  · cases h

@[simp] theorem noteSkid_waves (s : State) (w : Wave) (pc : Pc) : (noteSkid s w pc).waves = s.waves := by unfold noteSkid; split <;> rfl
theorem noteSkid_eq (s : State) (w : Wave) (pc : Pc) : noteSkid s w pc = { s with stops := (noteSkid s w pc).stops } := by
  unfold noteSkid; split <;> rfl
@[simp] theorem endRun_id (w : Wave) (b : Bool) : (endRun w b).id = w.id := by unfold endRun; split <;> rfl
@[simp] theorem endRun_lanes (w : Wave) (b : Bool) : (endRun w b).lanes = w.lanes := by unfold endRun; split <;> rfl
theorem endRun_eq (w : Wave) (b : Bool) :
    endRun w b = { w with run := (endRun w b).run, hold := (endRun w b).hold, issue := (endRun w b).issue
                          spin := (endRun w b).spin, floor := (endRun w b).floor } := by
  unfold endRun; split <;> rfl
theorem retire_cases (w : Wave) (c : Ctx) (d : Done) (m : Mask) :
    retire w c d m = retired w c d m ∨ retire w c d m = endRun (retired w c d m) d.back := by
  unfold retire; split
  · exact .inr rfl
  · exact .inl rfl

@[simp] theorem retire_id (w : Wave) (c : Ctx) (d : Done) (m : Mask) : (retire w c d m).id = w.id := by
  rcases retire_cases w c d m with h | h <;> rw [h]
  · simp only [retired]
  · rw [endRun_id]; simp only [retired]
theorem endRun_run (w : Wave) (b : Bool) : (endRun w b).run = none := by unfold endRun; split <;> simp_all

theorem retired_lane (w : Wave) (c : Ctx) (d : Done) (m : Mask) (l : Lane) :
    laneOf (retired w c d m) l = if (d.adv ||| m).has l then laneBehind d l (laneOf w l) else settled (laneOf w l) :=
  Lanes.get_of _ l

/-- A lane of a wave whose instruction has completed. -/
theorem retire_lane (w : Wave) (c : Ctx) (d : Done) (m : Mask) (l : Lane) :
    laneOf (retire w c d m) l = if (d.adv ||| m).has l then laneBehind d l (laneOf w l) else settled (laneOf w l) := by
  rw [← retired_lane w c]
  rcases retire_cases w c d m with h | h <;> rw [h]
  simp only [laneOf, endRun_lanes]

/-- Of a wave whose instruction has completed, only these fields are new. -/
theorem retire_eq (w : Wave) (c : Ctx) (d : Done) (m : Mask) :
    retire w c d m = { w with lanes := (retire w c d m).lanes, tags := (retire w c d m).tags, tick := w.tick + 1
                              skip := (retire w c d m).skip, hold := (retire w c d m).hold, run := (retire w c d m).run
                              issue := (retire w c d m).issue, spin := (retire w c d m).spin, floor := (retire w c d m).floor
                              counters := countRetired w.counters (onScalar c.w c.sh)
                              asked := if w.asked = some c.r.pc then none else w.asked } := by
  rcases retire_cases w c d m with h | h <;> rw [h]
  · simp only [retired]
  · rw [endRun_eq]; simp only [retired]

/-- The latch that a completed instruction leaves in a run that goes on. -/
theorem retire_latch (w : Wave) (c : Ctx) (d : Done) (m : Mask) (r : Run) (h : (retire w c d m).run = some r) :
    r.latches.head? = some d.vals := by
  rcases retire_cases w c d m with hc | hc <;> rw [hc] at h
  · cases h; rfl
  · rw [endRun_run] at h; cases h

/-- No single step ends in a wave that issues for none. -/
theorem endStep_steady {s : State} {n : Nat} {w : Wave} {m : Mask} {pc : Pc} {o : Nat} (hw : findWave s n = some w)
    (h : w.stepping = none) : endStep s n m pc o = s := by
  simp [endStep, hw, h]

theorem findWave_modWave_self {s : State} {n : Nat} {w : Wave} (f : Wave → Wave) (hf : ∀ w, (f w).id = w.id)
    (h : findWave s n = some w) : findWave (modWave s n f) n = some (f w) := by
  rw [findWave_modWave _ _ _ _ hf, h]; simp [findWave_id h]
theorem findWave_modWave_other {s : State} {n k : Nat} (f : Wave → Wave) (hf : ∀ w, (f w).id = w.id) (hk : k ≠ n) :
    findWave (modWave s n f) k = findWave s k := by
  rw [findWave_modWave _ _ _ _ hf]
  cases h : findWave s k with
  | none => rfl
  | some w => simp [findWave_id h, hk]

/-- Where a run that is over gives the slot up: the wave changes in the stamp of its last run alone. -/
theorem yieldIf_spec {s : State} {n : Nat} {w : Wave} (b : Bool) (h : findWave s n = some w) :
    (∃ k, findWave (if b then yieldSlot s n else s) n = some { w with lastRun := k })
      ∧ (∀ k, k ≠ n → findWave (if b then yieldSlot s n else s) k = findWave s k)
      ∧ (if b then yieldSlot s n else s)
          = { s with waves := (if b then yieldSlot s n else s).waves, cur := (if b then yieldSlot s n else s).cur
                     fresh := (if b then yieldSlot s n else s).fresh } := by
  cases b
  · exact ⟨⟨w.lastRun, h⟩, fun _ _ => rfl, rfl⟩
  · exact ⟨⟨s.fresh, findWave_modWave_self _ (fun _ => rfl) h⟩, fun k hk => findWave_modWave_other _ (fun _ => rfl) hk, rfl⟩

/-- An instruction that completes in a wave with a lane that has not exited: its wave is changed as `retire` says, and
nothing follows. -/
theorem settle_done (c : Ctx) (d : Done) (v : Wave) (hv : findWave d.s c.w.id = some v) (hstep : v.stepping = none) (l : Lane)
    (hl : (laneOf v l).state ≠ .exited) :
    (∃ n, findWave (settle c (.done d)) c.w.id = some { retire v c d (skipMask c.w c.r) with lastRun := n })
      ∧ (∀ k, k ≠ c.w.id → findWave (settle c (.done d)) k = findWave d.s k)
      ∧ settle c (.done d) = { d.s with waves := (settle c (.done d)).waves, cur := (settle c (.done d)).cur, fresh := (settle c (.done d)).fresh, stops := (settle c (.done d)).stops } := by
  have hid : v.id = c.w.id := findWave_id hv
  have key : ∀ t n, findWave t c.w.id = some { retire v c d (skipMask c.w c.r) with lastRun := n } → tryFinish (handlerEnd t c.w.id) c.w.id = t := by
    intro t n ht
    have hst : (laneOf (retire v c d (skipMask c.w c.r)) l).state ≠ .exited := by
      rw [retire_lane]; split <;> exact hl
    have h1 : handlerEnd t c.w.id = t := by
      simp only [handlerEnd, ht]
      split
      · rfl
      · rw [if_pos]
        exact List.any_eq_true.2 ⟨l, mem_laneList l, decide_eq_true hst⟩
    rw [h1]
    simp only [tryFinish, ht]
    rw [if_neg]
    intro hr
    simp only [readyToFinish, Bool.and_eq_true] at hr
    have ha := hr.1.1.1.1.1.1
    unfold allExited at ha
    split at ha
    · have := List.all_eq_true.1 ha l (mem_laneList l)
      exact hst (of_decide_eq_true this)
    · cases ha
  have hm : findWave (modWave (noteSkid d.s c.w c.r.pc) c.w.id fun w => retire w c d (skipMask c.w c.r)) c.w.id
      = some (retire v c d (skipMask c.w c.r)) := by
    rw [findWave_modWave _ _ _ _ (fun u => retire_id u c d _)]
    simp only [findWave, noteSkid_waves]
    rw [show d.s.waves.find? (fun w => decide (w.id = c.w.id)) = some v from hv]
    simp [hid]
  have ho : ∀ k, k ≠ c.w.id → findWave (modWave (noteSkid d.s c.w c.r.pc) c.w.id fun w => retire w c d (skipMask c.w c.r)) k = findWave d.s k := by
    intro k hk
    rw [findWave_modWave _ _ _ _ (fun u => retire_id u c d _)]
    simp only [findWave, noteSkid_waves]
    cases hf : d.s.waves.find? (fun w => decide (w.id = k)) with
    | none => rfl
    | some u =>
      have : u.id = k := by simpa using List.find?_some hf
      simp [this, hk]
  simp only [settle]
  generalize hs1 : (modWave (noteSkid d.s c.w c.r.pc) c.w.id fun w => retire w c d (skipMask c.w c.r)) = s1 at hm ho ⊢
  obtain ⟨⟨n, hn⟩, hk, he⟩ := yieldIf_spec (runOver s1 c.w.id) hm
  generalize (if runOver s1 c.w.id = true then yieldSlot s1 c.w.id else s1) = s2 at hn hk he ⊢
  have hst : (retire v c d (skipMask c.w c.r)).stepping = none := by rw [retire_eq]; exact hstep
  rw [endStep_steady hn hst, key s2 n hn]
  refine ⟨⟨n, hn⟩, fun k hne => (hk k hne).trans (ho k hne), ?_⟩
  have e1 : s1 = { d.s with waves := s1.waves, stops := s1.stops } := by
    rw [← hs1]
    show modWave _ _ _ = _
    simp only [modWave]
    rw [noteSkid_eq]
  rw [he, e1]

/-- A completed word whose own operation has left the wave u in the state st. -/
theorem finish_frame {c : Ctx} {st : State} {u : Wave} {lv : Option (Lanes Word)} {ends : Bool}
    {regs : Lane → Sparse 32} {preds : Lane → BitVec 7} {fl : Lane → Flags}
    (hstep : c.w.stepping = none) (hlive : ∀ l, c.exec.has l = true → (laneOf c.w l).state = .live) (hexec : c.exec ≠ 0)
    (hu : findWave st c.w.id = some u) (ho : ∀ k, k ≠ c.w.id → findWave st k = findWave c.s k)
    (hst : st = { c.s with waves := st.waves, groups := st.groups, poisonReg := st.poisonReg })
    (hw : u = { c.w with lanes := u.lanes, queues := u.queues })
    (hl : ∀ l, laneOf u l = { laneOf c.w l with regs := regs l, preds := preds l, nflg := fl l })
    (hk : ∀ l, (passed c).has l = false → laneOf u l = laneOf c.w l) :
    ∃ v, Framed c v (finish c (.done ⟨st, c.exec, lv, ends, false, onward⟩)) ∧ LaneAfter c v regs preds fl
      ∧ v.queues = u.queues ∧ (finish c (.done ⟨st, c.exec, lv, ends, false, onward⟩)).groups = st.groups
      ∧ ∀ r, v.run = some r → r.latches.head? = some lv := by
  obtain ⟨l, hlx⟩ := Mask.exists_of_ne_zero hexec
  have hnx : (laneOf u l).state ≠ .exited := by rw [hl]; simp [hlive l hlx]
  obtain ⟨⟨n, h1⟩, h2, h3⟩ := settle_done c ⟨st, c.exec, lv, ends, false, onward⟩ u hu (by rw [hw]; exact hstep) l hnx
  rw [finish]
  have hv := retire_eq u c ⟨st, c.exec, lv, ends, false, onward⟩ (skipMask c.w c.r)
  refine ⟨_, ⟨h1, ?_, fun k hk => (h2 k hk).trans (ho k hk), ?_⟩, fun l => ?_, ?_, ?_, fun r => retire_latch _ _ _ _ r⟩
  · rw [hv]
    rw [hw]
  · rw [h3]
    dsimp only
    rw [hst]
  · refine (retire_lane u c _ _ l).trans ?_
    show (if (passed c).has l then _ else _) = _
    split
    · rw [hl]; simp only [laneBehind, settled, onward, Option.getD_none, ite_self]
    · next h => rw [hk l (by simpa using h)]; rfl
  · rw [hv]
  · rw [h3]

theorem passed_of_exec {c : Ctx} {l : Lane} (h : (passed c).has l = false) : c.exec.has l = false := by
  simp only [passed, Mask.has_or, Bool.or_eq_false_iff] at h; exact h.1

theorem mapLanes_eq (w : Wave) (m : Mask) (f) : mapLanes w m f = { w with lanes := (mapLanes w m f).lanes } := rfl
@[simp] theorem mapLanes_queues (w : Wave) (m : Mask) (f) : (mapLanes w m f).queues = w.queues := by simp only [mapLanes]
@[simp] theorem mapLanes_id (w : Wave) (m : Mask) (f) : (mapLanes w m f).id = w.id := by simp only [mapLanes]

theorem clearPoison_eq (s : State) (w k n : Nat) (m : Mask) :
    clearPoison s w k n m = { s with poisonReg := (clearPoison s w k n m).poisonReg } := by
  unfold clearPoison; split <;> rfl
theorem clearPoison_findWave (s : State) (w k n : Nat) (m : Mask) (j : Nat) : findWave (clearPoison s w k n m) j = findWave s j := by
  rw [clearPoison_eq]; rfl

/-- Raising flags: the wave after it. -/
theorem orFlags_spec {s : State} {n : Nat} {w : Wave} (m : Mask) (fl : Lane → BitVec 7) (h : findWave s n = some w) :
    ∃ u, findWave (orFlags s n m fl) n = some u ∧ (∀ k, k ≠ n → findWave (orFlags s n m fl) k = findWave s k)
      ∧ orFlags s n m fl = { s with waves := (orFlags s n m fl).waves }
      ∧ u = { w with lanes := u.lanes }
      ∧ ∀ l, laneOf u l = { laneOf w l with nflg := if m.has l then (laneOf w l).nflg ||| fl l else (laneOf w l).nflg } := by
  refine ⟨_, findWave_modWave_self _ (fun _ => mapLanes_id ..) h, fun k hk => findWave_modWave_other _ (fun _ => mapLanes_id ..) hk, rfl, mapLanes_eq .., ?_⟩
  intro l
  rw [laneOf_mapLanes]
  split <;> rfl

/-- A destination names one, two or four registers (R49). -/
theorem shape_dst {i : Instr} {sh : Shape} (h : i.shape = some sh) {d : Reg} {n : Nat} (hd : sh.dst = some (d, n)) :
    n = 1 ∨ n = 2 ∨ n = 4 := by
  cases i <;> simp only [Instr.shape, Option.some.injEq, reduceCtorEq] at h <;> subst h <;>
    simp only [Shape.reg, Shape.plain, Shape.pred, Option.some.injEq, Prod.mk.injEq, reduceCtorEq] at hd <;>
    obtain ⟨-, rfl⟩ := hd <;> first
      | exact .inl rfl
      | exact .inr (.inl rfl)
      | (unfold regsOfBytes; split; exact .inl rfl; split; exact .inr (.inl rfl); exact .inr (.inr rfl))
      | (unfold Fmt.regs; split <;> simp)
      | (rename_i v; cases v <;> simp [AtomX.oldRegs])

/-- A destination of group registers lies within them (R23, R49). -/
theorem wellFormed_dst_g {i : Instr} (hw : i.wellFormed = true) {sh : Shape} (h : i.shape = some sh) {x : Fin 16} {n : Nat}
    (hd : sh.dst = some (.g x, n)) : x.val + n ≤ 16 := by
  have hn := shape_dst h hd
  simp only [Instr.wellFormed, Instr.error, h, Option.isNone_iff_eq_none] at hw
  split at hw
  · cases hw
  · simp only [Shape.error, hd, Option.bind_some] at hw
    split at hw
    · cases hw
    · next he =>
      unfold dstError at he
      simp only [Reg.group?] at he
      rcases hn with rfl | rfl | rfl
      · omega
      · simp at he; omega
      · simp at he; omega


theorem findGroup_modGroup_self {s : State} {n : Nat} {g : Group} (f : Group → Group) (hf : ∀ g, (f g).id = g.id)
    (h : findGroup s n = some g) : findGroup (modGroup s n f) n = some (f g) := by
  simp only [findGroup, modGroup] at *
  induction hl : s.groups generalizing s with
  | nil => simp [hl] at h
  | cons a l ih =>
    rw [hl] at h
    by_cases ha : a.id = n
    · simp only [List.find?_cons, ha, decide_true] at h
      cases h
      simp [ha, hf]
    · simp only [List.find?_cons, ha, decide_false] at h
      simp only [List.map_cons, ha, if_false, List.find?_cons, decide_false]
      exact ih (s := { s with groups := l }) h rfl

/-- Group registers written from register x on. -/
theorem gSets_spec (s : State) (w : Wave) (x n : Nat) (v : BitVec 128) (hx : x + n ≤ 16) (hn : shadowOf s w.id = none) :
    let t := (List.range n).foldl (fun t i => gSet t w (x + i) (wordOf128 v i)) s
    t = { s with groups := t.groups } ∧ ∀ g, findGroup s w.group = some g → ∃ g', findGroup t w.group = some g' ∧ g' = { g with g := g'.g }
      ∧ ∀ j : Fin 16, g'.g.get j = if x ≤ j.val ∧ j.val < x + n then wordOf128 v (j.val - x) else g.g.get j := by
  induction n with
  | zero =>
    refine ⟨rfl, fun g hg => ⟨g, hg, rfl, fun j => ?_⟩⟩
    rw [if_neg (by omega)]
  | succ n ih =>
    obtain ⟨h1, h2⟩ := ih (by omega)
    rw [List.range_succ, List.foldl_append]
    generalize (List.range n).foldl (fun t i => gSet t w (x + i) (wordOf128 v i)) s = t at h1 h2 ⊢
    have hs : shadowOf t w.id = none := by rw [h1]; exact hn
    simp only [List.foldl_cons, List.foldl_nil, gSet, hs]
    refine ⟨by conv => { lhs; rw [h1] }; rfl, fun g hg => ?_⟩
    obtain ⟨g', hg', he, hj⟩ := h2 g hg
    refine ⟨_, findGroup_modGroup_self _ (fun _ => rfl) hg', by rw [he], fun j => ?_⟩
    have hget : ∀ f : Fin 16 → Word, (Vector.ofFn f).get j = f j := fun f => Vector.getElem_ofFn j.isLt
    dsimp only
    rw [hget, hj]
    by_cases hjn : j = Fin.ofNat 16 (x + n)
    · have : j.val = x + n := by rw [hjn]; simp [Fin.ofNat]; omega
      rw [if_pos hjn, if_pos (by omega)]
      congr 1; omega
    · have : j.val ≠ x + n := fun e => hjn (Fin.ext (by simp [Fin.ofNat]; omega))
      rw [if_neg hjn]
      by_cases hc : x ≤ j.val ∧ j.val < x + n
      · rw [if_pos hc, if_pos (by omega)]
      · rw [if_neg hc, if_neg (by omega)]


/-- The highest of the lanes that execute. -/
theorem highest_of {c : Ctx} (h : c.exec ≠ 0) : c.exec.highest = some c.top := by
  obtain ⟨l, hl⟩ := Mask.exists_of_ne_zero h
  unfold Ctx.top
  cases hh : c.exec.highest with
  | some k => rfl
  | none =>
    have := (Mask.mem_lanes _ _).2 hl
    simp only [Mask.highest, List.getLast?_eq_none_iff] at hh
    rw [hh] at this
    cases this

theorem laneOf_congr {u v : Wave} (h : u.lanes = v.lanes) (l : Lane) : laneOf u l = laneOf v l := by simp only [laneOf, h]

theorem vector_get_set {α : Type} {n : Nat} (v : Vector α n) (i j : Fin n) (x : α) :
    (v.set i.val x i.isLt).get j = if j = i then x else v.get j := by
  show (v.set i.val x i.isLt)[j.val] = _
  rw [Vector.getElem_set]
  by_cases h : j = i
  · rw [if_pos h, if_pos (by rw [h])]
  · rw [if_neg h, if_neg (fun e => h (Fin.ext e.symm))]; rfl

/-- A predicate written: p7 is discarded (R27). -/
theorem setPred_bit (x : LaneCtx) (p : Pred) (b : Bool) (k : Fin 7) :
    (setPred x p b).preds.getLsbD k.val = if p.val = k.val then b else x.preds.getLsbD k.val := by
  unfold setPred
  split
  · next h => rw [if_neg (by rw [h]; exact (Nat.ne_of_lt k.isLt).symm)]
  · cases b <;> simp only [Bool.false_eq_true, if_true, if_false, BitVec.getLsbD_or, BitVec.getLsbD_and, BitVec.getLsbD_not,
      BitVec.getLsbD_ofNat, Nat.testBit_two_pow, k.isLt, decide_true, Bool.true_and] <;>
      by_cases h : p.val = k.val <;> simp [h]

theorem writes_of {i : Instr} {s : State} {w : Wave} {c : Ctx} (h : begins i s = some (w, c)) (hs : Steady c)
    (f : Lane → BitVec 128) (fl : Lane → Flags) (hfl : c.sh.dst = none → ∀ l, fl l = 0) : Writes c f fl (finish c (c.write f fl)) := by
  obtain ⟨hwf, hsh, hx, hex, hw, hid, hno, -⟩ := begins_spec h
  obtain ⟨hstep, hlive⟩ := hs
  have passedx : ∀ l, (passed c).has l = false → c.exec.has l = false := fun l => passed_of_exec
  cases hd : c.sh.dst with
  | none =>
    have hz := hfl hd
    obtain ⟨v, hv, hl, hq, hg, hr⟩ := finish_frame (c := c) (st := c.s) (u := c.w) (lv := none) (ends := c.sh.ends)
      (regs := fun l => (laneOf c.w l).regs) (preds := fun l => (laneOf c.w l).preds) (fl := fun l => (laneOf c.w l).nflg)
      hstep hlive hx hw (fun _ _ => rfl) rfl rfl (fun _ => rfl) (fun _ _ => rfl)
    have e : c.write f fl = .done ⟨c.s, c.exec, none, c.sh.ends, false, onward⟩ := by simp only [Ctx.write, hd]
    rw [e]
    refine ⟨v, hv, ⟨fun l => (laneOf c.w l).regs, ?_, fun l => ?_⟩, ?_, ?_, ?_⟩
    · intro l; rw [hl l]; simp only [hz, show ∀ x : Flags, x ||| 0 = x from fun x => BitVec.or_zero, ite_self]
    · rw [hd]
    · rw [hd]; exact hg
    · rw [hd]; exact hq
    · rw [hd]; exact hr
  | some dn =>
    obtain ⟨d, n⟩ := dn
    have e : c.write f fl = .done ⟨orFlags (writeReg c.s c.w c.r.pc c.exec d n c.sh.k f) c.w.id c.exec fl, c.exec, latchOf c d f,
      c.sh.ends, false, onward⟩ := by simp only [Ctx.write, hd]
    rw [e]
    cases d with
    | v x =>
      by_cases hk : c.sh.k = true
      · obtain ⟨u, hu, ho, hst, hue, hul⟩ := orFlags_spec c.exec fl hw
        have hwr : writeReg c.s c.w c.r.pc c.exec (.v x) n c.sh.k f = c.s := by simp only [writeReg, hk, if_true]
        rw [hwr]
        obtain ⟨v, hv, hl, hq, hg, hr⟩ := finish_frame (c := c) (lv := latchOf c (.v x) f) (ends := c.sh.ends)
          (regs := fun l => (laneOf c.w l).regs) (preds := fun l => (laneOf c.w l).preds) hstep hlive hx hu ho
          (by rw [hst]) (by rw [hue]) hul (fun l hp => by rw [hul, passedx l hp]; rfl)
        refine ⟨v, hv, ⟨_, hl, fun l => ?_⟩, ?_, ?_, ?_⟩
        · simp only [hd, hk, Bool.not_true, Bool.and_false, Bool.false_eq_true, if_false]
        · rw [hd, hg, hst]
        · rw [hd, hq, hue]
        · simp only [hd]; exact hr
      · have hkf : c.sh.k = false := by simpa using hk
        have hp : findWave (clearPoison c.s c.w.id (windowReg c.w x.val) n c.exec) c.w.id = some c.w := by
          rw [clearPoison_findWave]; exact hw
        have hwr : writeReg c.s c.w c.r.pc c.exec (.v x) n c.sh.k f =
            modWave (clearPoison c.s c.w.id (windowReg c.w x.val) n c.exec) c.w.id fun w' =>
              mapLanes w' c.exec fun l y => putRegs y (windowReg c.w x.val) (f l) n := by
          simp only [writeReg, hkf, Bool.false_eq_true, if_false]
        rw [hwr]
        have h1 := findWave_modWave_self (fun w' => mapLanes w' c.exec fun l y => putRegs y (windowReg c.w x.val) (f l) n)
          (fun _ => mapLanes_id ..) hp
        have h2 := fun k (hk : k ≠ c.w.id) => findWave_modWave_other (s := clearPoison c.s c.w.id (windowReg c.w x.val) n c.exec) (k := k)
          (fun w' => mapLanes w' c.exec fun l y => putRegs y (windowReg c.w x.val) (f l) n) (fun _ => mapLanes_id ..) hk
        obtain ⟨u, hu, ho, hst, hue, hul⟩ := orFlags_spec c.exec fl h1
        have hul' : ∀ l, laneOf u l = { laneOf c.w l with
            regs := if c.exec.has l then (putRegs (laneOf c.w l) (windowReg c.w x.val) (f l) n).regs else (laneOf c.w l).regs
            preds := (laneOf c.w l).preds
            nflg := if c.exec.has l then (laneOf c.w l).nflg ||| fl l else (laneOf c.w l).nflg } := by
          intro l
          rw [hul, laneOf_mapLanes]
          by_cases hb : c.exec.has l = true
          · simp only [hb, if_true]; rw [putRegs_rest]
          · simp only [hb, if_false, Bool.false_eq_true]
        obtain ⟨v, hv, hl, hq, hg, hr⟩ := finish_frame (c := c) (lv := latchOf c (.v x) f) (ends := c.sh.ends)
          hstep hlive hx hu
          (fun k hk => by rw [ho k hk, h2 k hk, clearPoison_findWave])
          (by rw [hst, modWave, clearPoison_eq])
          (by rw [hue, mapLanes_eq]) hul' (fun l hp => by rw [hul' l, passedx l hp]; rfl)
        refine ⟨v, hv, ⟨_, hl, fun l => ?_⟩, ?_, ?_, ?_⟩
        · simp only [hd, hkf, Bool.not_false, Bool.and_true]
          by_cases hb : c.exec.has l = true
          · simp only [hb, if_true]
            intro j
            exact putRegs_regs _ _ _ _ _
          · simp only [hb, if_false, Bool.false_eq_true]
        · rw [hd, hg, hst, modWave, clearPoison_eq]
        · rw [hd, hq, hue]; simp only [mapLanes_queues]
        · simp only [hd]; exact hr
    | g x =>
      by_cases hk : c.sh.k = true
      · obtain ⟨u, hu, ho, hst, hue, hul⟩ := orFlags_spec c.exec fl hw
        have hwr : writeReg c.s c.w c.r.pc c.exec (.g x) n c.sh.k f = c.s := by simp only [writeReg, hk, if_true]
        rw [hwr]
        obtain ⟨v, hv, hl, hq, hg, hr⟩ := finish_frame (c := c) (lv := latchOf c (.g x) f) (ends := c.sh.ends)
          (regs := fun l => (laneOf c.w l).regs) (preds := fun l => (laneOf c.w l).preds) hstep hlive hx hu ho
          (by rw [hst]) (by rw [hue]) hul (fun l hp => by rw [hul, passedx l hp]; rfl)
        refine ⟨v, hv, ⟨_, hl, fun l => ?_⟩, ?_, ?_, ?_⟩
        · rw [hd]
        · rw [hd]; simp only [hk, if_true]; rw [hg, hst]
        · rw [hd, hq, hue]
        · simp only [hd]; exact hr
      · have hkf : c.sh.k = false := by simpa using hk
        have hwr : writeReg c.s c.w c.r.pc c.exec (.g x) n c.sh.k f =
            (List.range n).foldl (fun t i => gSet t c.w (x.val + i) (wordOf128 (f c.top) i)) c.s := by
          simp only [writeReg, hkf, Bool.false_eq_true, if_false, highest_of hx]
        rw [hwr]
        obtain ⟨g1, g2⟩ := gSets_spec c.s c.w x.val n (f c.top) (wellFormed_dst_g hwf hsh hd) hno
        generalize (List.range n).foldl (fun t i => gSet t c.w (x.val + i) (wordOf128 (f c.top) i)) c.s = tg at g1 g2 ⊢
        have hfg : ∀ k, findWave tg k = findWave c.s k := by intro k; rw [g1]; rfl
        obtain ⟨u, hu, ho, hst, hue, hul⟩ := orFlags_spec (s := tg) c.exec fl (by rw [hfg]; exact hw)
        obtain ⟨v, hv, hl, hq, hg, hr⟩ := finish_frame (c := c) (lv := latchOf c (.g x) f) (ends := c.sh.ends)
          (regs := fun l => (laneOf c.w l).regs) (preds := fun l => (laneOf c.w l).preds) hstep hlive hx hu
          (fun k hk => by rw [ho k hk, hfg])
          (by rw [hst]; dsimp only; rw [g1]) (by rw [hue]) hul (fun l hp => by rw [hul, passedx l hp]; rfl)
        have hgr : (orFlags tg c.w.id c.exec fl).groups = tg.groups := by rw [hst]
        refine ⟨v, hv, ⟨_, hl, fun l => ?_⟩, ?_, ?_, ?_⟩
        · rw [hd]
        · rw [hd]; simp only [hkf, Bool.false_eq_true, if_false]
          intro g hg0
          obtain ⟨g', hg', he, hj⟩ := g2 g hg0
          refine ⟨g', ?_, he, hj⟩
          simp only [findGroup, hg, hgr]; exact hg'
        · rw [hd, hq, hue]
        · simp only [hd]; exact hr
    | q x =>
      have hwr : writeReg c.s c.w c.r.pc c.exec (.q x) n c.sh.k f = modWave c.s c.w.id fun w' =>
          { w' with queues := w'.queues.set x.val (c.exec.lanes.foldl (fun q l => pushWord q l c.r.pc w'.h w'.place w'.tick (wordOf128 (f l) 0)) (w'.queues.get x)) x.isLt } := rfl
      rw [hwr]
      have h1 := findWave_modWave_self (fun w' : Wave => { w' with queues := w'.queues.set x.val (c.exec.lanes.foldl (fun q l => pushWord q l c.r.pc w'.h w'.place w'.tick (wordOf128 (f l) 0)) (w'.queues.get x)) x.isLt })
          (fun _ => rfl) hw
      have h2 := fun k (hk : k ≠ c.w.id) => findWave_modWave_other (s := c.s) (k := k) (fun w' : Wave => { w' with queues := w'.queues.set x.val (c.exec.lanes.foldl (fun q l => pushWord q l c.r.pc w'.h w'.place w'.tick (wordOf128 (f l) 0)) (w'.queues.get x)) x.isLt })
          (fun _ => rfl) hk
      obtain ⟨u, hu, ho, hst, hue, hul⟩ := orFlags_spec c.exec fl h1
      obtain ⟨v, hv, hl, hq, hg, hr⟩ := finish_frame (c := c) (lv := latchOf c (.q x) f) (ends := c.sh.ends)
          (regs := fun l => (laneOf c.w l).regs) (preds := fun l => (laneOf c.w l).preds)
          hstep hlive hx hu (fun k hk => by rw [ho k hk, h2 k hk])
          (by rw [hst, modWave]) (by rw [hue]) hul (fun l hp => by rw [hul, passedx l hp]; rfl)
      refine ⟨v, hv, ⟨_, hl, fun l => ?_⟩, ?_, ?_, ?_⟩
      · rw [hd]
      · rw [hd, hg, hst, modWave]
      · rw [hd, hq, hue]
        refine ⟨?_, fun k hk => ?_⟩
        · rw [vector_get_set, if_pos rfl]
        · rw [vector_get_set, if_neg hk]
      · simp only [hd]; exact hr
    | b x =>
      obtain ⟨u, hu, ho, hst, hue, hul⟩ := orFlags_spec c.exec fl hw
      have hwr : writeReg c.s c.w c.r.pc c.exec (.b x) n c.sh.k f = c.s := rfl
      rw [hwr]
      obtain ⟨v, hv, hl, hq, hg, hr⟩ := finish_frame (c := c) (lv := latchOf c (.b x) f) (ends := c.sh.ends)
          (regs := fun l => (laneOf c.w l).regs) (preds := fun l => (laneOf c.w l).preds) hstep hlive hx hu ho
          (by rw [hst]) (by rw [hue]) hul (fun l hp => by rw [hul, passedx l hp]; rfl)
      refine ⟨v, hv, ⟨_, hl, fun l => ?_⟩, ?_, ?_, ?_⟩
      · rw [hd]
      · rw [hd, hg, hst]
      · rw [hd, hq, hue]
      · simp only [hd]; exact hr

theorem writesP_of {i : Instr} {s : State} {w : Wave} {c : Ctx} (h : begins i s = some (w, c)) (hs : Steady c)
    (p : Pred) (f : Lane → Bool) (fl : Lane → Flags) : WritesP c p f fl (finish c (c.writeP p f fl)) := by
  obtain ⟨hwf, hsh, hx, hex, hw, hid, hno, -⟩ := begins_spec h
  obtain ⟨hstep, hlive⟩ := hs
  have h1 := findWave_modWave_self (fun w' => mapLanes w' c.exec fun l y => setPred y p (f l)) (fun _ => mapLanes_id ..) hw
  have h2 := fun k (hk : k ≠ c.w.id) => findWave_modWave_other (s := c.s) (k := k) (fun w' => mapLanes w' c.exec fun l y => setPred y p (f l))
    (fun _ => mapLanes_id ..) hk
  obtain ⟨u, hu, ho, hst, hue, hul⟩ := orFlags_spec c.exec fl h1
  have hul' : ∀ l, laneOf u l = { laneOf c.w l with
            regs := (laneOf c.w l).regs
            preds := if c.exec.has l then (setPred (laneOf c.w l) p (f l)).preds else (laneOf c.w l).preds
            nflg := if c.exec.has l then (laneOf c.w l).nflg ||| fl l else (laneOf c.w l).nflg } := by
          intro l
          rw [hul, laneOf_mapLanes]
          by_cases hb : c.exec.has l = true
          · simp only [hb, if_true]; unfold setPred; split <;> rfl
          · simp only [hb, if_false, Bool.false_eq_true]
  obtain ⟨v, hv, hl, hq, hg, hr⟩ := finish_frame (c := c) (lv := none) (ends := c.sh.ends)
          hstep hlive hx hu (fun k hk => by rw [ho k hk, h2 k hk])
          (by rw [hst, modWave]) (by rw [hue, mapLanes_eq]) hul' (fun l hp => by rw [hul' l, passed_of_exec hp]; rfl)
  refine ⟨v, hv, ?_, ?_, ⟨_, hl, fun l k => ?_⟩⟩
  · refine hg.trans ?_
    rw [hst, modWave]
  · rw [hq, hue]; simp only [mapLanes_queues]
  · by_cases hb : c.exec.has l = true
    · simp only [hb, if_true, Bool.true_and]
      rw [setPred_bit]; simp only [beq_iff_eq]
    · simp only [hb, if_false, Bool.false_eq_true, Bool.false_and]

/-- An arm that issues a word whose operation writes its destination. -/
theorem gives_of {i : Instr} {k : Bool} {d : Reg} {n : Nat} {rs : List Reg} {f : Ctx → Lane → BitVec 128} {fl : Ctx → Lane → Flags}
    (hd : Form i k d n rs)
    (he : ∀ s, ∃ sc body, exec i s = issue i s sc body ∧ ∀ c, i.shape = some c.sh → body c = c.write (f c) (fl c)) :
    Gives i k d n rs f fl := by
  refine ⟨hd, fun s w c h hs => ?_⟩
  obtain ⟨sc, body, h1, h2⟩ := he s
  obtain ⟨-, hsh, -, -, -, -, -, hr⟩ := begins_spec h
  refine ⟨_, by rw [h1, hr, h2 c hsh], writes_of h hs _ _ fun hn => ?_⟩
  obtain ⟨sh, e, -, hdst, -⟩ := hd
  rw [e] at hsh
  cases hsh
  rw [hn] at hdst
  cases hdst

/-- An arm that issues a word whose operation writes a predicate. -/
theorem givesP_of {i : Instr} {p : Pred} {rs : List Reg} {f : Ctx → Lane → Bool} {fl : Ctx → Lane → Flags} (hd : FormP i rs)
    (he : ∀ s, ∃ sc body, exec i s = issue i s sc body ∧ ∀ c, i.shape = some c.sh → body c = c.writeP p (f c) (fl c)) :
    GivesP i p rs f fl := by
  refine ⟨hd, fun s w c h hs => ?_⟩
  obtain ⟨sc, body, h1, h2⟩ := he s
  obtain ⟨-, hsh, -, -, -, -, -, hr⟩ := begins_spec h
  exact ⟨_, by rw [h1, hr, h2 c hsh], writesP_of h hs p _ _⟩

/-- An arm that issues a word. -/
theorem ends_of {i : Instr} {P : Ctx → Prop} {res : Ctx → Res}
    (he : ∀ s, ∃ sc body, exec i s = issue i s sc body ∧ ∀ c, i.shape = some c.sh → P c → body c = res c) : Ends i P res := by
  intro s w c h hp
  obtain ⟨sc, body, h1, h2⟩ := he s
  obtain ⟨-, hsh, -, -, -, -, -, hr⟩ := begins_spec h
  rw [h1, hr, h2 c hsh hp]

end Sys2Proof.Machine
end

