-- ==== Sys2Proof/Laws/Fields.lean ====
section
/-! SUPPORT. Fields of words: a word as the list of its fields from bit 0 up, the value of each field, and the codes of
registers and coded fields (R43, R48, R54 to R63). -/
namespace Sys2Proof

theorem Reg.code_lt (r : Reg) : r.code < 128 := by
  cases r <;> simp only [Reg.code] <;> omega
theorem Reg.ofCode_code (r : Reg) : Reg.ofCode r.code = r := by
  cases r <;> rename_i n <;> revert n <;> decide
theorem bit_eq (e : Bool) : decide (e.toNat = 1) = e := by cases e <;> rfl
theorem bits_eq {z lo n v : Nat} (r h : Nat) (hz : z = r + 2 ^ lo * (v + 2 ^ n * h)) (hr : r < 2 ^ lo) (hv : v < 2 ^ n) :
    bitsOf z lo n = v := by
  subst hz
  rw [bitsOf, Nat.add_mul_div_left _ _ (Nat.two_pow_pos lo), Nat.div_eq_of_lt hr, Nat.zero_add, Nat.add_mul_mod_self_left, Nat.mod_eq_of_lt hv]
/-- The number whose fields, from bit 0 up, have the given widths and values. -/
def pack : List (Nat × Nat) → Nat
  | [] => 0
  | (n, v) :: l => v + 2 ^ n * pack l
/-- Every value fits its width. -/
def bounded : List (Nat × Nat) → Bool
  | [] => true
  | (n, v) :: l => decide (v < 2 ^ n) && bounded l
/-- The bits that a list of fields takes. -/
def lowOf (l : List (Nat × Nat)) : Nat := (l.map Prod.fst).sum
theorem pack_lt (l) (h : bounded l = true) : pack l < 2 ^ lowOf l := by
  induction l with
  | nil => simp [pack, lowOf]
  | cons x l ih =>
    obtain ⟨n, v⟩ := x
    simp only [bounded, Bool.and_eq_true, decide_eq_true_eq] at h
    have := ih h.2
    simp only [pack, lowOf, List.map_cons, List.sum_cons, Nat.pow_add] at this ⊢
    calc v + 2 ^ n * pack l < 2 ^ n + 2 ^ n * pack l := by omega
      _ = 2 ^ n * (pack l + 1) := by rw [Nat.mul_add, Nat.mul_one, Nat.add_comm]
      _ ≤ _ := Nat.mul_le_mul_left _ this
theorem bitsOf_pack (l : List (Nat × Nat)) (hb : bounded l = true) (i n v : Nat) (hi : l[i]? = some (n, v)) :
    bitsOf (pack l) (lowOf (l.take i)) n = v := by
  induction l generalizing i with
  | nil => simp at hi
  | cons x l ih =>
    obtain ⟨m, u⟩ := x
    simp only [bounded, Bool.and_eq_true, decide_eq_true_eq] at hb
    cases i with
    | zero =>
      simp at hi
      obtain ⟨rfl, rfl⟩ := hi
      simp [lowOf, bitsOf, pack, Nat.mod_eq_of_lt hb.1]
    | succ i =>
      have := ih hb.2 i (by simpa using hi)
      simp only [List.take_succ_cons, lowOf, List.map_cons, List.sum_cons, bitsOf, pack] at this ⊢
      rw [Nat.pow_add, ← Nat.div_div_eq_div_mul, Nat.add_mul_div_left _ _ (Nat.two_pow_pos m), Nat.div_eq_of_lt hb.1, Nat.zero_add]
      exact this
theorem bits_pack {z lo n v : Nat} {l : List (Nat × Nat)} (hz : z = pack l) (hb : bounded l = true) (i : Nat)
    (hi : (l[i]?, lowOf (l.take i)) = (some (n, v), lo)) : bitsOf z lo n = v := by
  simp only [Prod.mk.injEq] at hi
  rw [hz, ← hi.2]; exact bitsOf_pack l hb i n v hi.1
theorem bvF_eq {w lo n : Nat} {x : BitVec n} (h : bitsOf w lo n = x.toNat) : bvF w lo n = x := by
  apply BitVec.eq_of_toNat_eq
  simpa [bvF, bitsOf] using h
theorem Fin.ofNat_val {n : Nat} [NeZero n] (x : Fin n) : Fin.ofNat n x.val = x := by
  ext; simp [Fin.ofNat, Nat.mod_eq_of_lt x.isLt]
theorem okBind {α β ε : Type} (x : α) (f : α → Except ε β) : (Except.ok x).bind f = f x := rfl

theorem Rnd.ofCode_code (x : Rnd) : Rnd.ofCode? x.code = some x := by cases x <;> rfl
theorem Rnd.code_lt (x : Rnd) : x.code < 8 := by cases x <;> simp [Rnd.code]
theorem Fmt.ofCode_code (x : Fmt) : Fmt.ofCode? x.code = some x := by cases x <;> rfl
theorem Fmt.code_lt (x : Fmt) : x.code < 16 := by cases x <;> simp [Fmt.code]
theorem Cond.ofCode_code (x : Cond) : Cond.ofCode? x.code = some x := by cases x <;> rfl
theorem Cond.code_lt (x : Cond) : x.code < 8 := by cases x <;> simp [Cond.code]
theorem FCond.ofCode_code (x : FCond) : FCond.ofCode? x.code = some x := by cases x <;> rfl
theorem FCond.code_lt (x : FCond) : x.code < 8 := by cases x <;> simp [FCond.code]
theorem Shfl.ofCode_code (x : Shfl) : Shfl.ofCode? x.code = some x := by cases x <;> rfl
theorem Shfl.code_lt (x : Shfl) : x.code < 4 := by cases x <;> simp [Shfl.code]
theorem RedOp.ofCode_code (x : RedOp) : RedOp.ofCode? x.code = some x := by cases x <;> rfl
theorem RedOp.code_lt (x : RedOp) : x.code < 8 := by cases x <;> simp [RedOp.code]
theorem LdW.ofCode_code (x : LdW) : LdW.ofCode? x.code = some x := by cases x <;> rfl
theorem LdW.code_lt (x : LdW) : x.code < 8 := by cases x <;> simp [LdW.code]
theorem StW.ofCode_code (x : StW) : StW.ofCode? x.code = some x := by cases x <;> rfl
theorem StW.code_lt (x : StW) : x.code < 8 := by cases x <;> simp [StW.code]
theorem BufW.ofCode_code (x : BufW) : BufW.ofCode? x.code = some x := by cases x <;> rfl
theorem BufW.code_lt (x : BufW) : x.code < 4 := by cases x <;> simp [BufW.code]
theorem LdcW.ofCode_code (x : LdcW) : LdcW.ofCode? x.code = some x := by cases x <;> rfl
theorem LdcW.code_lt (x : LdcW) : x.code < 4 := by cases x <;> simp [LdcW.code]
theorem Scope.ofCode_code (x : Scope) : Scope.ofCode? x.code = some x := by cases x <;> rfl
theorem Scope.code_lt (x : Scope) : x.code < 8 := by cases x <;> simp [Scope.code]
theorem AtomX.ofCode_code (x : AtomX) : AtomX.ofCode? x.code = some x := by cases x <;> rfl
theorem AtomX.code_lt (x : AtomX) : x.code < 8 := by cases x <;> simp [AtomX.code]
theorem RedX.ofCode_code (x : RedX) : RedX.ofCode? x.code = some x := by cases x <;> rfl
theorem RedX.code_lt (x : RedX) : x.code < 4 := by cases x <;> simp [RedX.code]
theorem TileState.ofCode_code (x : TileState) : TileState.ofCode? x.code = some x := by cases x <;> rfl
theorem TileState.code_lt (x : TileState) : x.code < 4 := by cases x <;> simp [TileState.code]
theorem WScope.ofCode_code (x : WScope) : WScope.ofCode? x.code = some x := by cases x <;> rfl
theorem WScope.code_lt (x : WScope) : x.code < 4 := by cases x <;> simp [WScope.code]
theorem Eng.ofCode_code (x : Eng) : Eng.ofCode? x.code = some x := by cases x <;> rfl
theorem Eng.code_lt (x : Eng) : x.code < 4 := by cases x <;> simp [Eng.code]

end Sys2Proof
end

