-- ==== Sys2Proof/Laws/PerInstr.lean ====
section
/-! SUPPORT. Per instruction: the decoder reads the fields back from the instruction's word, and the instruction is an
instruction word exactly when it has a word (R43 to R52). -/
namespace Sys2Proof.Laws.RoundTrip

set_option linter.unusedSimpArgs false

/-- The word of the instruction, if it has one, is a word of 32 bits whose fields decode to the instruction; and it has
one exactly when it is an instruction word. -/
def Statement (i : Instr) : Prop :=
  (∀ z, encodeNat i = some z → decodeFields z = .ok i ∧ z < 2 ^ 32) ∧ (encodeNat i).isSome = i.shape.isSome

set_option Elab.async false in
theorem addS32 (e k d a b) : Statement (.addS32 e k d a b) := by
  refine ⟨?_, rfl⟩
  intro z hz
  have e1 := e.toNat_lt
  have k1 := k.toNat_lt
  have d1 := d.code_lt
  have a1 := a.code_lt
  have b1 := b.code_lt
  simp only [encodeNat, Option.some.injEq, wordOf] at hz
  replace hz : z = pack [(3, 0), (7, b.code), (7, a.code), (7, d.code), (1, k.toNat), (6, 1), (1, e.toNat)] := by simp only [pack]; omega
  have hb : bounded [(3, 0), (7, b.code), (7, a.code), (7, d.code), (1, k.toNat), (6, 1), (1, e.toNat)] = true := by simp only [bounded, Bool.and_eq_true, decide_eq_true_eq, and_true]; omega
  have h0 : bitsOf z 25 6 = 1 := bits_pack hz hb 5 rfl
  have h1 : bitsOf z 0 3 = 0 := bits_pack hz hb 0 rfl
  have h2 : bitsOf z 31 1 = e.toNat := bits_pack hz hb 6 rfl
  have h3 : bitsOf z 24 1 = k.toNat := bits_pack hz hb 4 rfl
  have h4 : bitsOf z 17 7 = d.code := bits_pack hz hb 3 rfl
  have h5 : bitsOf z 10 7 = a.code := bits_pack hz hb 2 rfl
  have h6 : bitsOf z 3 7 = b.code := bits_pack hz hb 1 rfl
  refine ⟨?_, hz ▸ pack_lt _ hb⟩
  simp [decodeFields, fields1, reserved, kZero, bitB, regF, predF, enumF, h0, h1, h2, h3, h4, h5, h6, Reg.ofCode_code, bit_eq, Fin.ofNat_val, Except.bind, okBind]

theorem subS32 (e k d a b) : Statement (.subS32 e k d a b) := by
  refine ⟨?_, rfl⟩
  intro z hz
  have e1 := e.toNat_lt
  have k1 := k.toNat_lt
  have d1 := d.code_lt
  have a1 := a.code_lt
  have b1 := b.code_lt
  simp only [encodeNat, Option.some.injEq, wordOf] at hz
  replace hz : z = pack [(3, 1), (7, b.code), (7, a.code), (7, d.code), (1, k.toNat), (6, 1), (1, e.toNat)] := by simp only [pack]; omega
  have hb : bounded [(3, 1), (7, b.code), (7, a.code), (7, d.code), (1, k.toNat), (6, 1), (1, e.toNat)] = true := by simp only [bounded, Bool.and_eq_true, decide_eq_true_eq, and_true]; omega
  have h0 : bitsOf z 25 6 = 1 := bits_pack hz hb 5 rfl
  have h1 : bitsOf z 0 3 = 1 := bits_pack hz hb 0 rfl
  have h2 : bitsOf z 31 1 = e.toNat := bits_pack hz hb 6 rfl
  have h3 : bitsOf z 24 1 = k.toNat := bits_pack hz hb 4 rfl
  have h4 : bitsOf z 17 7 = d.code := bits_pack hz hb 3 rfl
  have h5 : bitsOf z 10 7 = a.code := bits_pack hz hb 2 rfl
  have h6 : bitsOf z 3 7 = b.code := bits_pack hz hb 1 rfl
  refine ⟨?_, hz ▸ pack_lt _ hb⟩
  simp [decodeFields, fields1, reserved, kZero, bitB, regF, predF, enumF, h0, h1, h2, h3, h4, h5, h6, Reg.ofCode_code, bit_eq, Fin.ofNat_val, Except.bind, okBind]

theorem mulS32 (e k d a b) : Statement (.mulS32 e k d a b) := by
  refine ⟨?_, rfl⟩
  intro z hz
  have e1 := e.toNat_lt
  have k1 := k.toNat_lt
  have d1 := d.code_lt
  have a1 := a.code_lt
  have b1 := b.code_lt
  simp only [encodeNat, Option.some.injEq, wordOf] at hz
  replace hz : z = pack [(3, 2), (7, b.code), (7, a.code), (7, d.code), (1, k.toNat), (6, 1), (1, e.toNat)] := by simp only [pack]; omega
  have hb : bounded [(3, 2), (7, b.code), (7, a.code), (7, d.code), (1, k.toNat), (6, 1), (1, e.toNat)] = true := by simp only [bounded, Bool.and_eq_true, decide_eq_true_eq, and_true]; omega
  have h0 : bitsOf z 25 6 = 1 := bits_pack hz hb 5 rfl
  have h1 : bitsOf z 0 3 = 2 := bits_pack hz hb 0 rfl
  have h2 : bitsOf z 31 1 = e.toNat := bits_pack hz hb 6 rfl
  have h3 : bitsOf z 24 1 = k.toNat := bits_pack hz hb 4 rfl
  have h4 : bitsOf z 17 7 = d.code := bits_pack hz hb 3 rfl
  have h5 : bitsOf z 10 7 = a.code := bits_pack hz hb 2 rfl
  have h6 : bitsOf z 3 7 = b.code := bits_pack hz hb 1 rfl
  refine ⟨?_, hz ▸ pack_lt _ hb⟩
  simp [decodeFields, fields1, reserved, kZero, bitB, regF, predF, enumF, h0, h1, h2, h3, h4, h5, h6, Reg.ofCode_code, bit_eq, Fin.ofNat_val, Except.bind, okBind]

theorem mulhS32 (e k d a b) : Statement (.mulhS32 e k d a b) := by
  refine ⟨?_, rfl⟩
  intro z hz
  have e1 := e.toNat_lt
  have k1 := k.toNat_lt
  have d1 := d.code_lt
  have a1 := a.code_lt
  have b1 := b.code_lt
  simp only [encodeNat, Option.some.injEq, wordOf] at hz
  replace hz : z = pack [(3, 3), (7, b.code), (7, a.code), (7, d.code), (1, k.toNat), (6, 1), (1, e.toNat)] := by simp only [pack]; omega
  have hb : bounded [(3, 3), (7, b.code), (7, a.code), (7, d.code), (1, k.toNat), (6, 1), (1, e.toNat)] = true := by simp only [bounded, Bool.and_eq_true, decide_eq_true_eq, and_true]; omega
  have h0 : bitsOf z 25 6 = 1 := bits_pack hz hb 5 rfl
  have h1 : bitsOf z 0 3 = 3 := bits_pack hz hb 0 rfl
  have h2 : bitsOf z 31 1 = e.toNat := bits_pack hz hb 6 rfl
  have h3 : bitsOf z 24 1 = k.toNat := bits_pack hz hb 4 rfl
  have h4 : bitsOf z 17 7 = d.code := bits_pack hz hb 3 rfl
  have h5 : bitsOf z 10 7 = a.code := bits_pack hz hb 2 rfl
  have h6 : bitsOf z 3 7 = b.code := bits_pack hz hb 1 rfl
  refine ⟨?_, hz ▸ pack_lt _ hb⟩
  simp [decodeFields, fields1, reserved, kZero, bitB, regF, predF, enumF, h0, h1, h2, h3, h4, h5, h6, Reg.ofCode_code, bit_eq, Fin.ofNat_val, Except.bind, okBind]

theorem mulhZ32 (e k d a b) : Statement (.mulhZ32 e k d a b) := by
  refine ⟨?_, rfl⟩
  intro z hz
  have e1 := e.toNat_lt
  have k1 := k.toNat_lt
  have d1 := d.code_lt
  have a1 := a.code_lt
  have b1 := b.code_lt
  simp only [encodeNat, Option.some.injEq, wordOf] at hz
  replace hz : z = pack [(3, 4), (7, b.code), (7, a.code), (7, d.code), (1, k.toNat), (6, 1), (1, e.toNat)] := by simp only [pack]; omega
  have hb : bounded [(3, 4), (7, b.code), (7, a.code), (7, d.code), (1, k.toNat), (6, 1), (1, e.toNat)] = true := by simp only [bounded, Bool.and_eq_true, decide_eq_true_eq, and_true]; omega
  have h0 : bitsOf z 25 6 = 1 := bits_pack hz hb 5 rfl
  have h1 : bitsOf z 0 3 = 4 := bits_pack hz hb 0 rfl
  have h2 : bitsOf z 31 1 = e.toNat := bits_pack hz hb 6 rfl
  have h3 : bitsOf z 24 1 = k.toNat := bits_pack hz hb 4 rfl
  have h4 : bitsOf z 17 7 = d.code := bits_pack hz hb 3 rfl
  have h5 : bitsOf z 10 7 = a.code := bits_pack hz hb 2 rfl
  have h6 : bitsOf z 3 7 = b.code := bits_pack hz hb 1 rfl
  refine ⟨?_, hz ▸ pack_lt _ hb⟩
  simp [decodeFields, fields1, reserved, kZero, bitB, regF, predF, enumF, h0, h1, h2, h3, h4, h5, h6, Reg.ofCode_code, bit_eq, Fin.ofNat_val, Except.bind, okBind]

theorem minS32 (e k d a b) : Statement (.minS32 e k d a b) := by
  refine ⟨?_, rfl⟩
  intro z hz
  have e1 := e.toNat_lt
  have k1 := k.toNat_lt
  have d1 := d.code_lt
  have a1 := a.code_lt
  have b1 := b.code_lt
  simp only [encodeNat, Option.some.injEq, wordOf] at hz
  replace hz : z = pack [(3, 5), (7, b.code), (7, a.code), (7, d.code), (1, k.toNat), (6, 1), (1, e.toNat)] := by simp only [pack]; omega
  have hb : bounded [(3, 5), (7, b.code), (7, a.code), (7, d.code), (1, k.toNat), (6, 1), (1, e.toNat)] = true := by simp only [bounded, Bool.and_eq_true, decide_eq_true_eq, and_true]; omega
  have h0 : bitsOf z 25 6 = 1 := bits_pack hz hb 5 rfl
  have h1 : bitsOf z 0 3 = 5 := bits_pack hz hb 0 rfl
  have h2 : bitsOf z 31 1 = e.toNat := bits_pack hz hb 6 rfl
  have h3 : bitsOf z 24 1 = k.toNat := bits_pack hz hb 4 rfl
  have h4 : bitsOf z 17 7 = d.code := bits_pack hz hb 3 rfl
  have h5 : bitsOf z 10 7 = a.code := bits_pack hz hb 2 rfl
  have h6 : bitsOf z 3 7 = b.code := bits_pack hz hb 1 rfl
  refine ⟨?_, hz ▸ pack_lt _ hb⟩
  simp [decodeFields, fields1, reserved, kZero, bitB, regF, predF, enumF, h0, h1, h2, h3, h4, h5, h6, Reg.ofCode_code, bit_eq, Fin.ofNat_val, Except.bind, okBind]

theorem maxS32 (e k d a b) : Statement (.maxS32 e k d a b) := by
  refine ⟨?_, rfl⟩
  intro z hz
  have e1 := e.toNat_lt
  have k1 := k.toNat_lt
  have d1 := d.code_lt
  have a1 := a.code_lt
  have b1 := b.code_lt
  simp only [encodeNat, Option.some.injEq, wordOf] at hz
  replace hz : z = pack [(3, 6), (7, b.code), (7, a.code), (7, d.code), (1, k.toNat), (6, 1), (1, e.toNat)] := by simp only [pack]; omega
  have hb : bounded [(3, 6), (7, b.code), (7, a.code), (7, d.code), (1, k.toNat), (6, 1), (1, e.toNat)] = true := by simp only [bounded, Bool.and_eq_true, decide_eq_true_eq, and_true]; omega
  have h0 : bitsOf z 25 6 = 1 := bits_pack hz hb 5 rfl
  have h1 : bitsOf z 0 3 = 6 := bits_pack hz hb 0 rfl
  have h2 : bitsOf z 31 1 = e.toNat := bits_pack hz hb 6 rfl
  have h3 : bitsOf z 24 1 = k.toNat := bits_pack hz hb 4 rfl
  have h4 : bitsOf z 17 7 = d.code := bits_pack hz hb 3 rfl
  have h5 : bitsOf z 10 7 = a.code := bits_pack hz hb 2 rfl
  have h6 : bitsOf z 3 7 = b.code := bits_pack hz hb 1 rfl
  refine ⟨?_, hz ▸ pack_lt _ hb⟩
  simp [decodeFields, fields1, reserved, kZero, bitB, regF, predF, enumF, h0, h1, h2, h3, h4, h5, h6, Reg.ofCode_code, bit_eq, Fin.ofNat_val, Except.bind, okBind]

theorem minZ32 (e k d a b) : Statement (.minZ32 e k d a b) := by
  refine ⟨?_, rfl⟩
  intro z hz
  have e1 := e.toNat_lt
  have k1 := k.toNat_lt
  have d1 := d.code_lt
  have a1 := a.code_lt
  have b1 := b.code_lt
  simp only [encodeNat, Option.some.injEq, wordOf] at hz
  replace hz : z = pack [(3, 7), (7, b.code), (7, a.code), (7, d.code), (1, k.toNat), (6, 1), (1, e.toNat)] := by simp only [pack]; omega
  have hb : bounded [(3, 7), (7, b.code), (7, a.code), (7, d.code), (1, k.toNat), (6, 1), (1, e.toNat)] = true := by simp only [bounded, Bool.and_eq_true, decide_eq_true_eq, and_true]; omega
  have h0 : bitsOf z 25 6 = 1 := bits_pack hz hb 5 rfl
  have h1 : bitsOf z 0 3 = 7 := bits_pack hz hb 0 rfl
  have h2 : bitsOf z 31 1 = e.toNat := bits_pack hz hb 6 rfl
  have h3 : bitsOf z 24 1 = k.toNat := bits_pack hz hb 4 rfl
  have h4 : bitsOf z 17 7 = d.code := bits_pack hz hb 3 rfl
  have h5 : bitsOf z 10 7 = a.code := bits_pack hz hb 2 rfl
  have h6 : bitsOf z 3 7 = b.code := bits_pack hz hb 1 rfl
  refine ⟨?_, hz ▸ pack_lt _ hb⟩
  simp [decodeFields, fields1, reserved, kZero, bitB, regF, predF, enumF, h0, h1, h2, h3, h4, h5, h6, Reg.ofCode_code, bit_eq, Fin.ofNat_val, Except.bind, okBind]

theorem maxZ32 (e k d a b) : Statement (.maxZ32 e k d a b) := by
  refine ⟨?_, rfl⟩
  intro z hz
  have e1 := e.toNat_lt
  have k1 := k.toNat_lt
  have d1 := d.code_lt
  have a1 := a.code_lt
  have b1 := b.code_lt
  simp only [encodeNat, Option.some.injEq, wordOf] at hz
  replace hz : z = pack [(3, 0), (7, b.code), (7, a.code), (7, d.code), (1, k.toNat), (6, 2), (1, e.toNat)] := by simp only [pack]; omega
  have hb : bounded [(3, 0), (7, b.code), (7, a.code), (7, d.code), (1, k.toNat), (6, 2), (1, e.toNat)] = true := by simp only [bounded, Bool.and_eq_true, decide_eq_true_eq, and_true]; omega
  have h0 : bitsOf z 25 6 = 2 := bits_pack hz hb 5 rfl
  have h1 : bitsOf z 0 3 = 0 := bits_pack hz hb 0 rfl
  have h2 : bitsOf z 31 1 = e.toNat := bits_pack hz hb 6 rfl
  have h3 : bitsOf z 24 1 = k.toNat := bits_pack hz hb 4 rfl
  have h4 : bitsOf z 17 7 = d.code := bits_pack hz hb 3 rfl
  have h5 : bitsOf z 10 7 = a.code := bits_pack hz hb 2 rfl
  have h6 : bitsOf z 3 7 = b.code := bits_pack hz hb 1 rfl
  refine ⟨?_, hz ▸ pack_lt _ hb⟩
  simp [decodeFields, fields2, reserved, kZero, bitB, regF, predF, enumF, h0, h1, h2, h3, h4, h5, h6, Reg.ofCode_code, bit_eq, Fin.ofNat_val, Except.bind, okBind]

theorem divS32 (e k d a b) : Statement (.divS32 e k d a b) := by
  refine ⟨?_, rfl⟩
  intro z hz
  have e1 := e.toNat_lt
  have k1 := k.toNat_lt
  have d1 := d.code_lt
  have a1 := a.code_lt
  have b1 := b.code_lt
  simp only [encodeNat, Option.some.injEq, wordOf] at hz
  replace hz : z = pack [(3, 1), (7, b.code), (7, a.code), (7, d.code), (1, k.toNat), (6, 2), (1, e.toNat)] := by simp only [pack]; omega
  have hb : bounded [(3, 1), (7, b.code), (7, a.code), (7, d.code), (1, k.toNat), (6, 2), (1, e.toNat)] = true := by simp only [bounded, Bool.and_eq_true, decide_eq_true_eq, and_true]; omega
  have h0 : bitsOf z 25 6 = 2 := bits_pack hz hb 5 rfl
  have h1 : bitsOf z 0 3 = 1 := bits_pack hz hb 0 rfl
  have h2 : bitsOf z 31 1 = e.toNat := bits_pack hz hb 6 rfl
  have h3 : bitsOf z 24 1 = k.toNat := bits_pack hz hb 4 rfl
  have h4 : bitsOf z 17 7 = d.code := bits_pack hz hb 3 rfl
  have h5 : bitsOf z 10 7 = a.code := bits_pack hz hb 2 rfl
  have h6 : bitsOf z 3 7 = b.code := bits_pack hz hb 1 rfl
  refine ⟨?_, hz ▸ pack_lt _ hb⟩
  simp [decodeFields, fields2, reserved, kZero, bitB, regF, predF, enumF, h0, h1, h2, h3, h4, h5, h6, Reg.ofCode_code, bit_eq, Fin.ofNat_val, Except.bind, okBind]

theorem divZ32 (e k d a b) : Statement (.divZ32 e k d a b) := by
  refine ⟨?_, rfl⟩
  intro z hz
  have e1 := e.toNat_lt
  have k1 := k.toNat_lt
  have d1 := d.code_lt
  have a1 := a.code_lt
  have b1 := b.code_lt
  simp only [encodeNat, Option.some.injEq, wordOf] at hz
  replace hz : z = pack [(3, 2), (7, b.code), (7, a.code), (7, d.code), (1, k.toNat), (6, 2), (1, e.toNat)] := by simp only [pack]; omega
  have hb : bounded [(3, 2), (7, b.code), (7, a.code), (7, d.code), (1, k.toNat), (6, 2), (1, e.toNat)] = true := by simp only [bounded, Bool.and_eq_true, decide_eq_true_eq, and_true]; omega
  have h0 : bitsOf z 25 6 = 2 := bits_pack hz hb 5 rfl
  have h1 : bitsOf z 0 3 = 2 := bits_pack hz hb 0 rfl
  have h2 : bitsOf z 31 1 = e.toNat := bits_pack hz hb 6 rfl
  have h3 : bitsOf z 24 1 = k.toNat := bits_pack hz hb 4 rfl
  have h4 : bitsOf z 17 7 = d.code := bits_pack hz hb 3 rfl
  have h5 : bitsOf z 10 7 = a.code := bits_pack hz hb 2 rfl
  have h6 : bitsOf z 3 7 = b.code := bits_pack hz hb 1 rfl
  refine ⟨?_, hz ▸ pack_lt _ hb⟩
  simp [decodeFields, fields2, reserved, kZero, bitB, regF, predF, enumF, h0, h1, h2, h3, h4, h5, h6, Reg.ofCode_code, bit_eq, Fin.ofNat_val, Except.bind, okBind]

theorem remS32 (e k d a b) : Statement (.remS32 e k d a b) := by
  refine ⟨?_, rfl⟩
  intro z hz
  have e1 := e.toNat_lt
  have k1 := k.toNat_lt
  have d1 := d.code_lt
  have a1 := a.code_lt
  have b1 := b.code_lt
  simp only [encodeNat, Option.some.injEq, wordOf] at hz
  replace hz : z = pack [(3, 3), (7, b.code), (7, a.code), (7, d.code), (1, k.toNat), (6, 2), (1, e.toNat)] := by simp only [pack]; omega
  have hb : bounded [(3, 3), (7, b.code), (7, a.code), (7, d.code), (1, k.toNat), (6, 2), (1, e.toNat)] = true := by simp only [bounded, Bool.and_eq_true, decide_eq_true_eq, and_true]; omega
  have h0 : bitsOf z 25 6 = 2 := bits_pack hz hb 5 rfl
  have h1 : bitsOf z 0 3 = 3 := bits_pack hz hb 0 rfl
  have h2 : bitsOf z 31 1 = e.toNat := bits_pack hz hb 6 rfl
  have h3 : bitsOf z 24 1 = k.toNat := bits_pack hz hb 4 rfl
  have h4 : bitsOf z 17 7 = d.code := bits_pack hz hb 3 rfl
  have h5 : bitsOf z 10 7 = a.code := bits_pack hz hb 2 rfl
  have h6 : bitsOf z 3 7 = b.code := bits_pack hz hb 1 rfl
  refine ⟨?_, hz ▸ pack_lt _ hb⟩
  simp [decodeFields, fields2, reserved, kZero, bitB, regF, predF, enumF, h0, h1, h2, h3, h4, h5, h6, Reg.ofCode_code, bit_eq, Fin.ofNat_val, Except.bind, okBind]

theorem remZ32 (e k d a b) : Statement (.remZ32 e k d a b) := by
  refine ⟨?_, rfl⟩
  intro z hz
  have e1 := e.toNat_lt
  have k1 := k.toNat_lt
  have d1 := d.code_lt
  have a1 := a.code_lt
  have b1 := b.code_lt
  simp only [encodeNat, Option.some.injEq, wordOf] at hz
  replace hz : z = pack [(3, 4), (7, b.code), (7, a.code), (7, d.code), (1, k.toNat), (6, 2), (1, e.toNat)] := by simp only [pack]; omega
  have hb : bounded [(3, 4), (7, b.code), (7, a.code), (7, d.code), (1, k.toNat), (6, 2), (1, e.toNat)] = true := by simp only [bounded, Bool.and_eq_true, decide_eq_true_eq, and_true]; omega
  have h0 : bitsOf z 25 6 = 2 := bits_pack hz hb 5 rfl
  have h1 : bitsOf z 0 3 = 4 := bits_pack hz hb 0 rfl
  have h2 : bitsOf z 31 1 = e.toNat := bits_pack hz hb 6 rfl
  have h3 : bitsOf z 24 1 = k.toNat := bits_pack hz hb 4 rfl
  have h4 : bitsOf z 17 7 = d.code := bits_pack hz hb 3 rfl
  have h5 : bitsOf z 10 7 = a.code := bits_pack hz hb 2 rfl
  have h6 : bitsOf z 3 7 = b.code := bits_pack hz hb 1 rfl
  refine ⟨?_, hz ▸ pack_lt _ hb⟩
  simp [decodeFields, fields2, reserved, kZero, bitB, regF, predF, enumF, h0, h1, h2, h3, h4, h5, h6, Reg.ofCode_code, bit_eq, Fin.ofNat_val, Except.bind, okBind]

theorem absS32 (e k d a) : Statement (.absS32 e k d a) := by
  refine ⟨?_, rfl⟩
  intro z hz
  have e1 := e.toNat_lt
  have k1 := k.toNat_lt
  have d1 := d.code_lt
  have a1 := a.code_lt
  simp only [encodeNat, Option.some.injEq, wordOf] at hz
  replace hz : z = pack [(3, 5), (7, 0), (7, a.code), (7, d.code), (1, k.toNat), (6, 2), (1, e.toNat)] := by simp only [pack]; omega
  have hb : bounded [(3, 5), (7, 0), (7, a.code), (7, d.code), (1, k.toNat), (6, 2), (1, e.toNat)] = true := by simp only [bounded, Bool.and_eq_true, decide_eq_true_eq, and_true]; omega
  have h0 : bitsOf z 25 6 = 2 := bits_pack hz hb 5 rfl
  have h1 : bitsOf z 0 3 = 5 := bits_pack hz hb 0 rfl
  have h2 : bitsOf z 3 7 = 0 := bits_pack hz hb 1 rfl
  have h3 : bitsOf z 31 1 = e.toNat := bits_pack hz hb 6 rfl
  have h4 : bitsOf z 24 1 = k.toNat := bits_pack hz hb 4 rfl
  have h5 : bitsOf z 17 7 = d.code := bits_pack hz hb 3 rfl
  have h6 : bitsOf z 10 7 = a.code := bits_pack hz hb 2 rfl
  refine ⟨?_, hz ▸ pack_lt _ hb⟩
  simp [decodeFields, fields2, reserved, kZero, bitB, regF, predF, enumF, h0, h1, h2, h3, h4, h5, h6, Reg.ofCode_code, bit_eq, Fin.ofNat_val, Except.bind, okBind]

theorem negS32 (e k d a) : Statement (.negS32 e k d a) := by
  refine ⟨?_, rfl⟩
  intro z hz
  have e1 := e.toNat_lt
  have k1 := k.toNat_lt
  have d1 := d.code_lt
  have a1 := a.code_lt
  simp only [encodeNat, Option.some.injEq, wordOf] at hz
  replace hz : z = pack [(3, 6), (7, 0), (7, a.code), (7, d.code), (1, k.toNat), (6, 2), (1, e.toNat)] := by simp only [pack]; omega
  have hb : bounded [(3, 6), (7, 0), (7, a.code), (7, d.code), (1, k.toNat), (6, 2), (1, e.toNat)] = true := by simp only [bounded, Bool.and_eq_true, decide_eq_true_eq, and_true]; omega
  have h0 : bitsOf z 25 6 = 2 := bits_pack hz hb 5 rfl
  have h1 : bitsOf z 0 3 = 6 := bits_pack hz hb 0 rfl
  have h2 : bitsOf z 3 7 = 0 := bits_pack hz hb 1 rfl
  have h3 : bitsOf z 31 1 = e.toNat := bits_pack hz hb 6 rfl
  have h4 : bitsOf z 24 1 = k.toNat := bits_pack hz hb 4 rfl
  have h5 : bitsOf z 17 7 = d.code := bits_pack hz hb 3 rfl
  have h6 : bitsOf z 10 7 = a.code := bits_pack hz hb 2 rfl
  refine ⟨?_, hz ▸ pack_lt _ hb⟩
  simp [decodeFields, fields2, reserved, kZero, bitB, regF, predF, enumF, h0, h1, h2, h3, h4, h5, h6, Reg.ofCode_code, bit_eq, Fin.ofNat_val, Except.bind, okBind]

theorem popc (e k d a) : Statement (.popc e k d a) := by
  refine ⟨?_, rfl⟩
  intro z hz
  have e1 := e.toNat_lt
  have k1 := k.toNat_lt
  have d1 := d.code_lt
  have a1 := a.code_lt
  simp only [encodeNat, Option.some.injEq, wordOf] at hz
  replace hz : z = pack [(3, 7), (7, 0), (7, a.code), (7, d.code), (1, k.toNat), (6, 2), (1, e.toNat)] := by simp only [pack]; omega
  have hb : bounded [(3, 7), (7, 0), (7, a.code), (7, d.code), (1, k.toNat), (6, 2), (1, e.toNat)] = true := by simp only [bounded, Bool.and_eq_true, decide_eq_true_eq, and_true]; omega
  have h0 : bitsOf z 25 6 = 2 := bits_pack hz hb 5 rfl
  have h1 : bitsOf z 0 3 = 7 := bits_pack hz hb 0 rfl
  have h2 : bitsOf z 3 7 = 0 := bits_pack hz hb 1 rfl
  have h3 : bitsOf z 31 1 = e.toNat := bits_pack hz hb 6 rfl
  have h4 : bitsOf z 24 1 = k.toNat := bits_pack hz hb 4 rfl
  have h5 : bitsOf z 17 7 = d.code := bits_pack hz hb 3 rfl
  have h6 : bitsOf z 10 7 = a.code := bits_pack hz hb 2 rfl
  refine ⟨?_, hz ▸ pack_lt _ hb⟩
  simp [decodeFields, fields2, reserved, kZero, bitB, regF, predF, enumF, h0, h1, h2, h3, h4, h5, h6, Reg.ofCode_code, bit_eq, Fin.ofNat_val, Except.bind, okBind]

theorem andB32 (e k d a b) : Statement (.andB32 e k d a b) := by
  refine ⟨?_, rfl⟩
  intro z hz
  have e1 := e.toNat_lt
  have k1 := k.toNat_lt
  have d1 := d.code_lt
  have a1 := a.code_lt
  have b1 := b.code_lt
  simp only [encodeNat, Option.some.injEq, wordOf] at hz
  replace hz : z = pack [(3, 0), (7, b.code), (7, a.code), (7, d.code), (1, k.toNat), (6, 3), (1, e.toNat)] := by simp only [pack]; omega
  have hb : bounded [(3, 0), (7, b.code), (7, a.code), (7, d.code), (1, k.toNat), (6, 3), (1, e.toNat)] = true := by simp only [bounded, Bool.and_eq_true, decide_eq_true_eq, and_true]; omega
  have h0 : bitsOf z 25 6 = 3 := bits_pack hz hb 5 rfl
  have h1 : bitsOf z 0 3 = 0 := bits_pack hz hb 0 rfl
  have h2 : bitsOf z 31 1 = e.toNat := bits_pack hz hb 6 rfl
  have h3 : bitsOf z 24 1 = k.toNat := bits_pack hz hb 4 rfl
  have h4 : bitsOf z 17 7 = d.code := bits_pack hz hb 3 rfl
  have h5 : bitsOf z 10 7 = a.code := bits_pack hz hb 2 rfl
  have h6 : bitsOf z 3 7 = b.code := bits_pack hz hb 1 rfl
  refine ⟨?_, hz ▸ pack_lt _ hb⟩
  simp [decodeFields, fields3, reserved, kZero, bitB, regF, predF, enumF, h0, h1, h2, h3, h4, h5, h6, Reg.ofCode_code, bit_eq, Fin.ofNat_val, Except.bind, okBind]

theorem orB32 (e k d a b) : Statement (.orB32 e k d a b) := by
  refine ⟨?_, rfl⟩
  intro z hz
  have e1 := e.toNat_lt
  have k1 := k.toNat_lt
  have d1 := d.code_lt
  have a1 := a.code_lt
  have b1 := b.code_lt
  simp only [encodeNat, Option.some.injEq, wordOf] at hz
  replace hz : z = pack [(3, 1), (7, b.code), (7, a.code), (7, d.code), (1, k.toNat), (6, 3), (1, e.toNat)] := by simp only [pack]; omega
  have hb : bounded [(3, 1), (7, b.code), (7, a.code), (7, d.code), (1, k.toNat), (6, 3), (1, e.toNat)] = true := by simp only [bounded, Bool.and_eq_true, decide_eq_true_eq, and_true]; omega
  have h0 : bitsOf z 25 6 = 3 := bits_pack hz hb 5 rfl
  have h1 : bitsOf z 0 3 = 1 := bits_pack hz hb 0 rfl
  have h2 : bitsOf z 31 1 = e.toNat := bits_pack hz hb 6 rfl
  have h3 : bitsOf z 24 1 = k.toNat := bits_pack hz hb 4 rfl
  have h4 : bitsOf z 17 7 = d.code := bits_pack hz hb 3 rfl
  have h5 : bitsOf z 10 7 = a.code := bits_pack hz hb 2 rfl
  have h6 : bitsOf z 3 7 = b.code := bits_pack hz hb 1 rfl
  refine ⟨?_, hz ▸ pack_lt _ hb⟩
  simp [decodeFields, fields3, reserved, kZero, bitB, regF, predF, enumF, h0, h1, h2, h3, h4, h5, h6, Reg.ofCode_code, bit_eq, Fin.ofNat_val, Except.bind, okBind]

theorem xorB32 (e k d a b) : Statement (.xorB32 e k d a b) := by
  refine ⟨?_, rfl⟩
  intro z hz
  have e1 := e.toNat_lt
  have k1 := k.toNat_lt
  have d1 := d.code_lt
  have a1 := a.code_lt
  have b1 := b.code_lt
  simp only [encodeNat, Option.some.injEq, wordOf] at hz
  replace hz : z = pack [(3, 2), (7, b.code), (7, a.code), (7, d.code), (1, k.toNat), (6, 3), (1, e.toNat)] := by simp only [pack]; omega
  have hb : bounded [(3, 2), (7, b.code), (7, a.code), (7, d.code), (1, k.toNat), (6, 3), (1, e.toNat)] = true := by simp only [bounded, Bool.and_eq_true, decide_eq_true_eq, and_true]; omega
  have h0 : bitsOf z 25 6 = 3 := bits_pack hz hb 5 rfl
  have h1 : bitsOf z 0 3 = 2 := bits_pack hz hb 0 rfl
  have h2 : bitsOf z 31 1 = e.toNat := bits_pack hz hb 6 rfl
  have h3 : bitsOf z 24 1 = k.toNat := bits_pack hz hb 4 rfl
  have h4 : bitsOf z 17 7 = d.code := bits_pack hz hb 3 rfl
  have h5 : bitsOf z 10 7 = a.code := bits_pack hz hb 2 rfl
  have h6 : bitsOf z 3 7 = b.code := bits_pack hz hb 1 rfl
  refine ⟨?_, hz ▸ pack_lt _ hb⟩
  simp [decodeFields, fields3, reserved, kZero, bitB, regF, predF, enumF, h0, h1, h2, h3, h4, h5, h6, Reg.ofCode_code, bit_eq, Fin.ofNat_val, Except.bind, okBind]

theorem andnB32 (e k d a b) : Statement (.andnB32 e k d a b) := by
  refine ⟨?_, rfl⟩
  intro z hz
  have e1 := e.toNat_lt
  have k1 := k.toNat_lt
  have d1 := d.code_lt
  have a1 := a.code_lt
  have b1 := b.code_lt
  simp only [encodeNat, Option.some.injEq, wordOf] at hz
  replace hz : z = pack [(3, 3), (7, b.code), (7, a.code), (7, d.code), (1, k.toNat), (6, 3), (1, e.toNat)] := by simp only [pack]; omega
  have hb : bounded [(3, 3), (7, b.code), (7, a.code), (7, d.code), (1, k.toNat), (6, 3), (1, e.toNat)] = true := by simp only [bounded, Bool.and_eq_true, decide_eq_true_eq, and_true]; omega
  have h0 : bitsOf z 25 6 = 3 := bits_pack hz hb 5 rfl
  have h1 : bitsOf z 0 3 = 3 := bits_pack hz hb 0 rfl
  have h2 : bitsOf z 31 1 = e.toNat := bits_pack hz hb 6 rfl
  have h3 : bitsOf z 24 1 = k.toNat := bits_pack hz hb 4 rfl
  have h4 : bitsOf z 17 7 = d.code := bits_pack hz hb 3 rfl
  have h5 : bitsOf z 10 7 = a.code := bits_pack hz hb 2 rfl
  have h6 : bitsOf z 3 7 = b.code := bits_pack hz hb 1 rfl
  refine ⟨?_, hz ▸ pack_lt _ hb⟩
  simp [decodeFields, fields3, reserved, kZero, bitB, regF, predF, enumF, h0, h1, h2, h3, h4, h5, h6, Reg.ofCode_code, bit_eq, Fin.ofNat_val, Except.bind, okBind]

theorem shlB32 (e k d a b) : Statement (.shlB32 e k d a b) := by
  refine ⟨?_, rfl⟩
  intro z hz
  have e1 := e.toNat_lt
  have k1 := k.toNat_lt
  have d1 := d.code_lt
  have a1 := a.code_lt
  have b1 := b.code_lt
  simp only [encodeNat, Option.some.injEq, wordOf] at hz
  replace hz : z = pack [(3, 4), (7, b.code), (7, a.code), (7, d.code), (1, k.toNat), (6, 3), (1, e.toNat)] := by simp only [pack]; omega
  have hb : bounded [(3, 4), (7, b.code), (7, a.code), (7, d.code), (1, k.toNat), (6, 3), (1, e.toNat)] = true := by simp only [bounded, Bool.and_eq_true, decide_eq_true_eq, and_true]; omega
  have h0 : bitsOf z 25 6 = 3 := bits_pack hz hb 5 rfl
  have h1 : bitsOf z 0 3 = 4 := bits_pack hz hb 0 rfl
  have h2 : bitsOf z 31 1 = e.toNat := bits_pack hz hb 6 rfl
  have h3 : bitsOf z 24 1 = k.toNat := bits_pack hz hb 4 rfl
  have h4 : bitsOf z 17 7 = d.code := bits_pack hz hb 3 rfl
  have h5 : bitsOf z 10 7 = a.code := bits_pack hz hb 2 rfl
  have h6 : bitsOf z 3 7 = b.code := bits_pack hz hb 1 rfl
  refine ⟨?_, hz ▸ pack_lt _ hb⟩
  simp [decodeFields, fields3, reserved, kZero, bitB, regF, predF, enumF, h0, h1, h2, h3, h4, h5, h6, Reg.ofCode_code, bit_eq, Fin.ofNat_val, Except.bind, okBind]

theorem shrB32 (e k d a b) : Statement (.shrB32 e k d a b) := by
  refine ⟨?_, rfl⟩
  intro z hz
  have e1 := e.toNat_lt
  have k1 := k.toNat_lt
  have d1 := d.code_lt
  have a1 := a.code_lt
  have b1 := b.code_lt
  simp only [encodeNat, Option.some.injEq, wordOf] at hz
  replace hz : z = pack [(3, 5), (7, b.code), (7, a.code), (7, d.code), (1, k.toNat), (6, 3), (1, e.toNat)] := by simp only [pack]; omega
  have hb : bounded [(3, 5), (7, b.code), (7, a.code), (7, d.code), (1, k.toNat), (6, 3), (1, e.toNat)] = true := by simp only [bounded, Bool.and_eq_true, decide_eq_true_eq, and_true]; omega
  have h0 : bitsOf z 25 6 = 3 := bits_pack hz hb 5 rfl
  have h1 : bitsOf z 0 3 = 5 := bits_pack hz hb 0 rfl
  have h2 : bitsOf z 31 1 = e.toNat := bits_pack hz hb 6 rfl
  have h3 : bitsOf z 24 1 = k.toNat := bits_pack hz hb 4 rfl
  have h4 : bitsOf z 17 7 = d.code := bits_pack hz hb 3 rfl
  have h5 : bitsOf z 10 7 = a.code := bits_pack hz hb 2 rfl
  have h6 : bitsOf z 3 7 = b.code := bits_pack hz hb 1 rfl
  refine ⟨?_, hz ▸ pack_lt _ hb⟩
  simp [decodeFields, fields3, reserved, kZero, bitB, regF, predF, enumF, h0, h1, h2, h3, h4, h5, h6, Reg.ofCode_code, bit_eq, Fin.ofNat_val, Except.bind, okBind]

theorem shraS32 (e k d a b) : Statement (.shraS32 e k d a b) := by
  refine ⟨?_, rfl⟩
  intro z hz
  have e1 := e.toNat_lt
  have k1 := k.toNat_lt
  have d1 := d.code_lt
  have a1 := a.code_lt
  have b1 := b.code_lt
  simp only [encodeNat, Option.some.injEq, wordOf] at hz
  replace hz : z = pack [(3, 6), (7, b.code), (7, a.code), (7, d.code), (1, k.toNat), (6, 3), (1, e.toNat)] := by simp only [pack]; omega
  have hb : bounded [(3, 6), (7, b.code), (7, a.code), (7, d.code), (1, k.toNat), (6, 3), (1, e.toNat)] = true := by simp only [bounded, Bool.and_eq_true, decide_eq_true_eq, and_true]; omega
  have h0 : bitsOf z 25 6 = 3 := bits_pack hz hb 5 rfl
  have h1 : bitsOf z 0 3 = 6 := bits_pack hz hb 0 rfl
  have h2 : bitsOf z 31 1 = e.toNat := bits_pack hz hb 6 rfl
  have h3 : bitsOf z 24 1 = k.toNat := bits_pack hz hb 4 rfl
  have h4 : bitsOf z 17 7 = d.code := bits_pack hz hb 3 rfl
  have h5 : bitsOf z 10 7 = a.code := bits_pack hz hb 2 rfl
  have h6 : bitsOf z 3 7 = b.code := bits_pack hz hb 1 rfl
  refine ⟨?_, hz ▸ pack_lt _ hb⟩
  simp [decodeFields, fields3, reserved, kZero, bitB, regF, predF, enumF, h0, h1, h2, h3, h4, h5, h6, Reg.ofCode_code, bit_eq, Fin.ofNat_val, Except.bind, okBind]

theorem rotB32 (e k d a b) : Statement (.rotB32 e k d a b) := by
  refine ⟨?_, rfl⟩
  intro z hz
  have e1 := e.toNat_lt
  have k1 := k.toNat_lt
  have d1 := d.code_lt
  have a1 := a.code_lt
  have b1 := b.code_lt
  simp only [encodeNat, Option.some.injEq, wordOf] at hz
  replace hz : z = pack [(3, 7), (7, b.code), (7, a.code), (7, d.code), (1, k.toNat), (6, 3), (1, e.toNat)] := by simp only [pack]; omega
  have hb : bounded [(3, 7), (7, b.code), (7, a.code), (7, d.code), (1, k.toNat), (6, 3), (1, e.toNat)] = true := by simp only [bounded, Bool.and_eq_true, decide_eq_true_eq, and_true]; omega
  have h0 : bitsOf z 25 6 = 3 := bits_pack hz hb 5 rfl
  have h1 : bitsOf z 0 3 = 7 := bits_pack hz hb 0 rfl
  have h2 : bitsOf z 31 1 = e.toNat := bits_pack hz hb 6 rfl
  have h3 : bitsOf z 24 1 = k.toNat := bits_pack hz hb 4 rfl
  have h4 : bitsOf z 17 7 = d.code := bits_pack hz hb 3 rfl
  have h5 : bitsOf z 10 7 = a.code := bits_pack hz hb 2 rfl
  have h6 : bitsOf z 3 7 = b.code := bits_pack hz hb 1 rfl
  refine ⟨?_, hz ▸ pack_lt _ hb⟩
  simp [decodeFields, fields3, reserved, kZero, bitB, regF, predF, enumF, h0, h1, h2, h3, h4, h5, h6, Reg.ofCode_code, bit_eq, Fin.ofNat_val, Except.bind, okBind]

theorem clz (e k d a) : Statement (.clz e k d a) := by
  refine ⟨?_, rfl⟩
  intro z hz
  have e1 := e.toNat_lt
  have k1 := k.toNat_lt
  have d1 := d.code_lt
  have a1 := a.code_lt
  simp only [encodeNat, Option.some.injEq, wordOf] at hz
  replace hz : z = pack [(3, 0), (7, 0), (7, a.code), (7, d.code), (1, k.toNat), (6, 4), (1, e.toNat)] := by simp only [pack]; omega
  have hb : bounded [(3, 0), (7, 0), (7, a.code), (7, d.code), (1, k.toNat), (6, 4), (1, e.toNat)] = true := by simp only [bounded, Bool.and_eq_true, decide_eq_true_eq, and_true]; omega
  have h0 : bitsOf z 25 6 = 4 := bits_pack hz hb 5 rfl
  have h1 : bitsOf z 0 3 = 0 := bits_pack hz hb 0 rfl
  have h2 : bitsOf z 3 7 = 0 := bits_pack hz hb 1 rfl
  have h3 : bitsOf z 31 1 = e.toNat := bits_pack hz hb 6 rfl
  have h4 : bitsOf z 24 1 = k.toNat := bits_pack hz hb 4 rfl
  have h5 : bitsOf z 17 7 = d.code := bits_pack hz hb 3 rfl
  have h6 : bitsOf z 10 7 = a.code := bits_pack hz hb 2 rfl
  refine ⟨?_, hz ▸ pack_lt _ hb⟩
  simp [decodeFields, fields4, reserved, kZero, bitB, regF, predF, enumF, h0, h1, h2, h3, h4, h5, h6, Reg.ofCode_code, bit_eq, Fin.ofNat_val, Except.bind, okBind]

theorem brev (e k d a) : Statement (.brev e k d a) := by
  refine ⟨?_, rfl⟩
  intro z hz
  have e1 := e.toNat_lt
  have k1 := k.toNat_lt
  have d1 := d.code_lt
  have a1 := a.code_lt
  simp only [encodeNat, Option.some.injEq, wordOf] at hz
  replace hz : z = pack [(3, 1), (7, 0), (7, a.code), (7, d.code), (1, k.toNat), (6, 4), (1, e.toNat)] := by simp only [pack]; omega
  have hb : bounded [(3, 1), (7, 0), (7, a.code), (7, d.code), (1, k.toNat), (6, 4), (1, e.toNat)] = true := by simp only [bounded, Bool.and_eq_true, decide_eq_true_eq, and_true]; omega
  have h0 : bitsOf z 25 6 = 4 := bits_pack hz hb 5 rfl
  have h1 : bitsOf z 0 3 = 1 := bits_pack hz hb 0 rfl
  have h2 : bitsOf z 3 7 = 0 := bits_pack hz hb 1 rfl
  have h3 : bitsOf z 31 1 = e.toNat := bits_pack hz hb 6 rfl
  have h4 : bitsOf z 24 1 = k.toNat := bits_pack hz hb 4 rfl
  have h5 : bitsOf z 17 7 = d.code := bits_pack hz hb 3 rfl
  have h6 : bitsOf z 10 7 = a.code := bits_pack hz hb 2 rfl
  refine ⟨?_, hz ▸ pack_lt _ hb⟩
  simp [decodeFields, fields4, reserved, kZero, bitB, regF, predF, enumF, h0, h1, h2, h3, h4, h5, h6, Reg.ofCode_code, bit_eq, Fin.ofNat_val, Except.bind, okBind]

theorem bfxS32 (e k d a b) : Statement (.bfxS32 e k d a b) := by
  refine ⟨?_, rfl⟩
  intro z hz
  have e1 := e.toNat_lt
  have k1 := k.toNat_lt
  have d1 := d.code_lt
  have a1 := a.code_lt
  have b1 := b.code_lt
  simp only [encodeNat, Option.some.injEq, wordOf] at hz
  replace hz : z = pack [(3, 2), (7, b.code), (7, a.code), (7, d.code), (1, k.toNat), (6, 4), (1, e.toNat)] := by simp only [pack]; omega
  have hb : bounded [(3, 2), (7, b.code), (7, a.code), (7, d.code), (1, k.toNat), (6, 4), (1, e.toNat)] = true := by simp only [bounded, Bool.and_eq_true, decide_eq_true_eq, and_true]; omega
  have h0 : bitsOf z 25 6 = 4 := bits_pack hz hb 5 rfl
  have h1 : bitsOf z 0 3 = 2 := bits_pack hz hb 0 rfl
  have h2 : bitsOf z 31 1 = e.toNat := bits_pack hz hb 6 rfl
  have h3 : bitsOf z 24 1 = k.toNat := bits_pack hz hb 4 rfl
  have h4 : bitsOf z 17 7 = d.code := bits_pack hz hb 3 rfl
  have h5 : bitsOf z 10 7 = a.code := bits_pack hz hb 2 rfl
  have h6 : bitsOf z 3 7 = b.code := bits_pack hz hb 1 rfl
  refine ⟨?_, hz ▸ pack_lt _ hb⟩
  simp [decodeFields, fields4, reserved, kZero, bitB, regF, predF, enumF, h0, h1, h2, h3, h4, h5, h6, Reg.ofCode_code, bit_eq, Fin.ofNat_val, Except.bind, okBind]

theorem bfxZ32 (e k d a b) : Statement (.bfxZ32 e k d a b) := by
  refine ⟨?_, rfl⟩
  intro z hz
  have e1 := e.toNat_lt
  have k1 := k.toNat_lt
  have d1 := d.code_lt
  have a1 := a.code_lt
  have b1 := b.code_lt
  simp only [encodeNat, Option.some.injEq, wordOf] at hz
  replace hz : z = pack [(3, 3), (7, b.code), (7, a.code), (7, d.code), (1, k.toNat), (6, 4), (1, e.toNat)] := by simp only [pack]; omega
  have hb : bounded [(3, 3), (7, b.code), (7, a.code), (7, d.code), (1, k.toNat), (6, 4), (1, e.toNat)] = true := by simp only [bounded, Bool.and_eq_true, decide_eq_true_eq, and_true]; omega
  have h0 : bitsOf z 25 6 = 4 := bits_pack hz hb 5 rfl
  have h1 : bitsOf z 0 3 = 3 := bits_pack hz hb 0 rfl
  have h2 : bitsOf z 31 1 = e.toNat := bits_pack hz hb 6 rfl
  have h3 : bitsOf z 24 1 = k.toNat := bits_pack hz hb 4 rfl
  have h4 : bitsOf z 17 7 = d.code := bits_pack hz hb 3 rfl
  have h5 : bitsOf z 10 7 = a.code := bits_pack hz hb 2 rfl
  have h6 : bitsOf z 3 7 = b.code := bits_pack hz hb 1 rfl
  refine ⟨?_, hz ▸ pack_lt _ hb⟩
  simp [decodeFields, fields4, reserved, kZero, bitB, regF, predF, enumF, h0, h1, h2, h3, h4, h5, h6, Reg.ofCode_code, bit_eq, Fin.ofNat_val, Except.bind, okBind]

theorem bfi (e k d a b) : Statement (.bfi e k d a b) := by
  refine ⟨?_, rfl⟩
  intro z hz
  have e1 := e.toNat_lt
  have k1 := k.toNat_lt
  have d1 := d.code_lt
  have a1 := a.code_lt
  have b1 := b.code_lt
  simp only [encodeNat, Option.some.injEq, wordOf] at hz
  replace hz : z = pack [(3, 4), (7, b.code), (7, a.code), (7, d.code), (1, k.toNat), (6, 4), (1, e.toNat)] := by simp only [pack]; omega
  have hb : bounded [(3, 4), (7, b.code), (7, a.code), (7, d.code), (1, k.toNat), (6, 4), (1, e.toNat)] = true := by simp only [bounded, Bool.and_eq_true, decide_eq_true_eq, and_true]; omega
  have h0 : bitsOf z 25 6 = 4 := bits_pack hz hb 5 rfl
  have h1 : bitsOf z 0 3 = 4 := bits_pack hz hb 0 rfl
  have h2 : bitsOf z 31 1 = e.toNat := bits_pack hz hb 6 rfl
  have h3 : bitsOf z 24 1 = k.toNat := bits_pack hz hb 4 rfl
  have h4 : bitsOf z 17 7 = d.code := bits_pack hz hb 3 rfl
  have h5 : bitsOf z 10 7 = a.code := bits_pack hz hb 2 rfl
  have h6 : bitsOf z 3 7 = b.code := bits_pack hz hb 1 rfl
  refine ⟨?_, hz ▸ pack_lt _ hb⟩
  simp [decodeFields, fields4, reserved, kZero, bitB, regF, predF, enumF, h0, h1, h2, h3, h4, h5, h6, Reg.ofCode_code, bit_eq, Fin.ofNat_val, Except.bind, okBind]

theorem madS32 (e k d a b) : Statement (.madS32 e k d a b) := by
  refine ⟨?_, rfl⟩
  intro z hz
  have e1 := e.toNat_lt
  have k1 := k.toNat_lt
  have d1 := d.code_lt
  have a1 := a.code_lt
  have b1 := b.code_lt
  simp only [encodeNat, Option.some.injEq, wordOf] at hz
  replace hz : z = pack [(3, 5), (7, b.code), (7, a.code), (7, d.code), (1, k.toNat), (6, 4), (1, e.toNat)] := by simp only [pack]; omega
  have hb : bounded [(3, 5), (7, b.code), (7, a.code), (7, d.code), (1, k.toNat), (6, 4), (1, e.toNat)] = true := by simp only [bounded, Bool.and_eq_true, decide_eq_true_eq, and_true]; omega
  have h0 : bitsOf z 25 6 = 4 := bits_pack hz hb 5 rfl
  have h1 : bitsOf z 0 3 = 5 := bits_pack hz hb 0 rfl
  have h2 : bitsOf z 31 1 = e.toNat := bits_pack hz hb 6 rfl
  have h3 : bitsOf z 24 1 = k.toNat := bits_pack hz hb 4 rfl
  have h4 : bitsOf z 17 7 = d.code := bits_pack hz hb 3 rfl
  have h5 : bitsOf z 10 7 = a.code := bits_pack hz hb 2 rfl
  have h6 : bitsOf z 3 7 = b.code := bits_pack hz hb 1 rfl
  refine ⟨?_, hz ▸ pack_lt _ hb⟩
  simp [decodeFields, fields4, reserved, kZero, bitB, regF, predF, enumF, h0, h1, h2, h3, h4, h5, h6, Reg.ofCode_code, bit_eq, Fin.ofNat_val, Except.bind, okBind]

theorem mov (e k d a) : Statement (.mov e k d a) := by
  refine ⟨?_, rfl⟩
  intro z hz
  have e1 := e.toNat_lt
  have k1 := k.toNat_lt
  have d1 := d.code_lt
  have a1 := a.code_lt
  simp only [encodeNat, Option.some.injEq, wordOf] at hz
  replace hz : z = pack [(3, 6), (7, 0), (7, a.code), (7, d.code), (1, k.toNat), (6, 4), (1, e.toNat)] := by simp only [pack]; omega
  have hb : bounded [(3, 6), (7, 0), (7, a.code), (7, d.code), (1, k.toNat), (6, 4), (1, e.toNat)] = true := by simp only [bounded, Bool.and_eq_true, decide_eq_true_eq, and_true]; omega
  have h0 : bitsOf z 25 6 = 4 := bits_pack hz hb 5 rfl
  have h1 : bitsOf z 0 3 = 6 := bits_pack hz hb 0 rfl
  have h2 : bitsOf z 3 7 = 0 := bits_pack hz hb 1 rfl
  have h3 : bitsOf z 31 1 = e.toNat := bits_pack hz hb 6 rfl
  have h4 : bitsOf z 24 1 = k.toNat := bits_pack hz hb 4 rfl
  have h5 : bitsOf z 17 7 = d.code := bits_pack hz hb 3 rfl
  have h6 : bitsOf z 10 7 = a.code := bits_pack hz hb 2 rfl
  refine ⟨?_, hz ▸ pack_lt _ hb⟩
  simp [decodeFields, fields4, reserved, kZero, bitB, regF, predF, enumF, h0, h1, h2, h3, h4, h5, h6, Reg.ofCode_code, bit_eq, Fin.ofNat_val, Except.bind, okBind]

theorem addS64 (e k d a b) : Statement (.addS64 e k d a b) := by
  refine ⟨?_, rfl⟩
  intro z hz
  have e1 := e.toNat_lt
  have k1 := k.toNat_lt
  have d1 := d.code_lt
  have a1 := a.code_lt
  have b1 := b.code_lt
  simp only [encodeNat, Option.some.injEq, wordOf] at hz
  replace hz : z = pack [(3, 0), (7, b.code), (7, a.code), (7, d.code), (1, k.toNat), (6, 5), (1, e.toNat)] := by simp only [pack]; omega
  have hb : bounded [(3, 0), (7, b.code), (7, a.code), (7, d.code), (1, k.toNat), (6, 5), (1, e.toNat)] = true := by simp only [bounded, Bool.and_eq_true, decide_eq_true_eq, and_true]; omega
  have h0 : bitsOf z 25 6 = 5 := bits_pack hz hb 5 rfl
  have h1 : bitsOf z 0 3 = 0 := bits_pack hz hb 0 rfl
  have h2 : bitsOf z 31 1 = e.toNat := bits_pack hz hb 6 rfl
  have h3 : bitsOf z 24 1 = k.toNat := bits_pack hz hb 4 rfl
  have h4 : bitsOf z 17 7 = d.code := bits_pack hz hb 3 rfl
  have h5 : bitsOf z 10 7 = a.code := bits_pack hz hb 2 rfl
  have h6 : bitsOf z 3 7 = b.code := bits_pack hz hb 1 rfl
  refine ⟨?_, hz ▸ pack_lt _ hb⟩
  simp [decodeFields, fields5, reserved, kZero, bitB, regF, predF, enumF, h0, h1, h2, h3, h4, h5, h6, Reg.ofCode_code, bit_eq, Fin.ofNat_val, Except.bind, okBind]

theorem subS64 (e k d a b) : Statement (.subS64 e k d a b) := by
  refine ⟨?_, rfl⟩
  intro z hz
  have e1 := e.toNat_lt
  have k1 := k.toNat_lt
  have d1 := d.code_lt
  have a1 := a.code_lt
  have b1 := b.code_lt
  simp only [encodeNat, Option.some.injEq, wordOf] at hz
  replace hz : z = pack [(3, 1), (7, b.code), (7, a.code), (7, d.code), (1, k.toNat), (6, 5), (1, e.toNat)] := by simp only [pack]; omega
  have hb : bounded [(3, 1), (7, b.code), (7, a.code), (7, d.code), (1, k.toNat), (6, 5), (1, e.toNat)] = true := by simp only [bounded, Bool.and_eq_true, decide_eq_true_eq, and_true]; omega
  have h0 : bitsOf z 25 6 = 5 := bits_pack hz hb 5 rfl
  have h1 : bitsOf z 0 3 = 1 := bits_pack hz hb 0 rfl
  have h2 : bitsOf z 31 1 = e.toNat := bits_pack hz hb 6 rfl
  have h3 : bitsOf z 24 1 = k.toNat := bits_pack hz hb 4 rfl
  have h4 : bitsOf z 17 7 = d.code := bits_pack hz hb 3 rfl
  have h5 : bitsOf z 10 7 = a.code := bits_pack hz hb 2 rfl
  have h6 : bitsOf z 3 7 = b.code := bits_pack hz hb 1 rfl
  refine ⟨?_, hz ▸ pack_lt _ hb⟩
  simp [decodeFields, fields5, reserved, kZero, bitB, regF, predF, enumF, h0, h1, h2, h3, h4, h5, h6, Reg.ofCode_code, bit_eq, Fin.ofNat_val, Except.bind, okBind]

theorem mulS64 (e k d a b) : Statement (.mulS64 e k d a b) := by
  refine ⟨?_, rfl⟩
  intro z hz
  have e1 := e.toNat_lt
  have k1 := k.toNat_lt
  have d1 := d.code_lt
  have a1 := a.code_lt
  have b1 := b.code_lt
  simp only [encodeNat, Option.some.injEq, wordOf] at hz
  replace hz : z = pack [(3, 2), (7, b.code), (7, a.code), (7, d.code), (1, k.toNat), (6, 5), (1, e.toNat)] := by simp only [pack]; omega
  have hb : bounded [(3, 2), (7, b.code), (7, a.code), (7, d.code), (1, k.toNat), (6, 5), (1, e.toNat)] = true := by simp only [bounded, Bool.and_eq_true, decide_eq_true_eq, and_true]; omega
  have h0 : bitsOf z 25 6 = 5 := bits_pack hz hb 5 rfl
  have h1 : bitsOf z 0 3 = 2 := bits_pack hz hb 0 rfl
  have h2 : bitsOf z 31 1 = e.toNat := bits_pack hz hb 6 rfl
  have h3 : bitsOf z 24 1 = k.toNat := bits_pack hz hb 4 rfl
  have h4 : bitsOf z 17 7 = d.code := bits_pack hz hb 3 rfl
  have h5 : bitsOf z 10 7 = a.code := bits_pack hz hb 2 rfl
  have h6 : bitsOf z 3 7 = b.code := bits_pack hz hb 1 rfl
  refine ⟨?_, hz ▸ pack_lt _ hb⟩
  simp [decodeFields, fields5, reserved, kZero, bitB, regF, predF, enumF, h0, h1, h2, h3, h4, h5, h6, Reg.ofCode_code, bit_eq, Fin.ofNat_val, Except.bind, okBind]

theorem minS64 (e k d a b) : Statement (.minS64 e k d a b) := by
  refine ⟨?_, rfl⟩
  intro z hz
  have e1 := e.toNat_lt
  have k1 := k.toNat_lt
  have d1 := d.code_lt
  have a1 := a.code_lt
  have b1 := b.code_lt
  simp only [encodeNat, Option.some.injEq, wordOf] at hz
  replace hz : z = pack [(3, 3), (7, b.code), (7, a.code), (7, d.code), (1, k.toNat), (6, 5), (1, e.toNat)] := by simp only [pack]; omega
  have hb : bounded [(3, 3), (7, b.code), (7, a.code), (7, d.code), (1, k.toNat), (6, 5), (1, e.toNat)] = true := by simp only [bounded, Bool.and_eq_true, decide_eq_true_eq, and_true]; omega
  have h0 : bitsOf z 25 6 = 5 := bits_pack hz hb 5 rfl
  have h1 : bitsOf z 0 3 = 3 := bits_pack hz hb 0 rfl
  have h2 : bitsOf z 31 1 = e.toNat := bits_pack hz hb 6 rfl
  have h3 : bitsOf z 24 1 = k.toNat := bits_pack hz hb 4 rfl
  have h4 : bitsOf z 17 7 = d.code := bits_pack hz hb 3 rfl
  have h5 : bitsOf z 10 7 = a.code := bits_pack hz hb 2 rfl
  have h6 : bitsOf z 3 7 = b.code := bits_pack hz hb 1 rfl
  refine ⟨?_, hz ▸ pack_lt _ hb⟩
  simp [decodeFields, fields5, reserved, kZero, bitB, regF, predF, enumF, h0, h1, h2, h3, h4, h5, h6, Reg.ofCode_code, bit_eq, Fin.ofNat_val, Except.bind, okBind]

theorem maxS64 (e k d a b) : Statement (.maxS64 e k d a b) := by
  refine ⟨?_, rfl⟩
  intro z hz
  have e1 := e.toNat_lt
  have k1 := k.toNat_lt
  have d1 := d.code_lt
  have a1 := a.code_lt
  have b1 := b.code_lt
  simp only [encodeNat, Option.some.injEq, wordOf] at hz
  replace hz : z = pack [(3, 4), (7, b.code), (7, a.code), (7, d.code), (1, k.toNat), (6, 5), (1, e.toNat)] := by simp only [pack]; omega
  have hb : bounded [(3, 4), (7, b.code), (7, a.code), (7, d.code), (1, k.toNat), (6, 5), (1, e.toNat)] = true := by simp only [bounded, Bool.and_eq_true, decide_eq_true_eq, and_true]; omega
  have h0 : bitsOf z 25 6 = 5 := bits_pack hz hb 5 rfl
  have h1 : bitsOf z 0 3 = 4 := bits_pack hz hb 0 rfl
  have h2 : bitsOf z 31 1 = e.toNat := bits_pack hz hb 6 rfl
  have h3 : bitsOf z 24 1 = k.toNat := bits_pack hz hb 4 rfl
  have h4 : bitsOf z 17 7 = d.code := bits_pack hz hb 3 rfl
  have h5 : bitsOf z 10 7 = a.code := bits_pack hz hb 2 rfl
  have h6 : bitsOf z 3 7 = b.code := bits_pack hz hb 1 rfl
  refine ⟨?_, hz ▸ pack_lt _ hb⟩
  simp [decodeFields, fields5, reserved, kZero, bitB, regF, predF, enumF, h0, h1, h2, h3, h4, h5, h6, Reg.ofCode_code, bit_eq, Fin.ofNat_val, Except.bind, okBind]

theorem minZ64 (e k d a b) : Statement (.minZ64 e k d a b) := by
  refine ⟨?_, rfl⟩
  intro z hz
  have e1 := e.toNat_lt
  have k1 := k.toNat_lt
  have d1 := d.code_lt
  have a1 := a.code_lt
  have b1 := b.code_lt
  simp only [encodeNat, Option.some.injEq, wordOf] at hz
  replace hz : z = pack [(3, 5), (7, b.code), (7, a.code), (7, d.code), (1, k.toNat), (6, 5), (1, e.toNat)] := by simp only [pack]; omega
  have hb : bounded [(3, 5), (7, b.code), (7, a.code), (7, d.code), (1, k.toNat), (6, 5), (1, e.toNat)] = true := by simp only [bounded, Bool.and_eq_true, decide_eq_true_eq, and_true]; omega
  have h0 : bitsOf z 25 6 = 5 := bits_pack hz hb 5 rfl
  have h1 : bitsOf z 0 3 = 5 := bits_pack hz hb 0 rfl
  have h2 : bitsOf z 31 1 = e.toNat := bits_pack hz hb 6 rfl
  have h3 : bitsOf z 24 1 = k.toNat := bits_pack hz hb 4 rfl
  have h4 : bitsOf z 17 7 = d.code := bits_pack hz hb 3 rfl
  have h5 : bitsOf z 10 7 = a.code := bits_pack hz hb 2 rfl
  have h6 : bitsOf z 3 7 = b.code := bits_pack hz hb 1 rfl
  refine ⟨?_, hz ▸ pack_lt _ hb⟩
  simp [decodeFields, fields5, reserved, kZero, bitB, regF, predF, enumF, h0, h1, h2, h3, h4, h5, h6, Reg.ofCode_code, bit_eq, Fin.ofNat_val, Except.bind, okBind]

theorem maxZ64 (e k d a b) : Statement (.maxZ64 e k d a b) := by
  refine ⟨?_, rfl⟩
  intro z hz
  have e1 := e.toNat_lt
  have k1 := k.toNat_lt
  have d1 := d.code_lt
  have a1 := a.code_lt
  have b1 := b.code_lt
  simp only [encodeNat, Option.some.injEq, wordOf] at hz
  replace hz : z = pack [(3, 6), (7, b.code), (7, a.code), (7, d.code), (1, k.toNat), (6, 5), (1, e.toNat)] := by simp only [pack]; omega
  have hb : bounded [(3, 6), (7, b.code), (7, a.code), (7, d.code), (1, k.toNat), (6, 5), (1, e.toNat)] = true := by simp only [bounded, Bool.and_eq_true, decide_eq_true_eq, and_true]; omega
  have h0 : bitsOf z 25 6 = 5 := bits_pack hz hb 5 rfl
  have h1 : bitsOf z 0 3 = 6 := bits_pack hz hb 0 rfl
  have h2 : bitsOf z 31 1 = e.toNat := bits_pack hz hb 6 rfl
  have h3 : bitsOf z 24 1 = k.toNat := bits_pack hz hb 4 rfl
  have h4 : bitsOf z 17 7 = d.code := bits_pack hz hb 3 rfl
  have h5 : bitsOf z 10 7 = a.code := bits_pack hz hb 2 rfl
  have h6 : bitsOf z 3 7 = b.code := bits_pack hz hb 1 rfl
  refine ⟨?_, hz ▸ pack_lt _ hb⟩
  simp [decodeFields, fields5, reserved, kZero, bitB, regF, predF, enumF, h0, h1, h2, h3, h4, h5, h6, Reg.ofCode_code, bit_eq, Fin.ofNat_val, Except.bind, okBind]

theorem negS64 (e k d a) : Statement (.negS64 e k d a) := by
  refine ⟨?_, rfl⟩
  intro z hz
  have e1 := e.toNat_lt
  have k1 := k.toNat_lt
  have d1 := d.code_lt
  have a1 := a.code_lt
  simp only [encodeNat, Option.some.injEq, wordOf] at hz
  replace hz : z = pack [(3, 7), (7, 0), (7, a.code), (7, d.code), (1, k.toNat), (6, 5), (1, e.toNat)] := by simp only [pack]; omega
  have hb : bounded [(3, 7), (7, 0), (7, a.code), (7, d.code), (1, k.toNat), (6, 5), (1, e.toNat)] = true := by simp only [bounded, Bool.and_eq_true, decide_eq_true_eq, and_true]; omega
  have h0 : bitsOf z 25 6 = 5 := bits_pack hz hb 5 rfl
  have h1 : bitsOf z 0 3 = 7 := bits_pack hz hb 0 rfl
  have h2 : bitsOf z 3 7 = 0 := bits_pack hz hb 1 rfl
  have h3 : bitsOf z 31 1 = e.toNat := bits_pack hz hb 6 rfl
  have h4 : bitsOf z 24 1 = k.toNat := bits_pack hz hb 4 rfl
  have h5 : bitsOf z 17 7 = d.code := bits_pack hz hb 3 rfl
  have h6 : bitsOf z 10 7 = a.code := bits_pack hz hb 2 rfl
  refine ⟨?_, hz ▸ pack_lt _ hb⟩
  simp [decodeFields, fields5, reserved, kZero, bitB, regF, predF, enumF, h0, h1, h2, h3, h4, h5, h6, Reg.ofCode_code, bit_eq, Fin.ofNat_val, Except.bind, okBind]

theorem shlB64 (e k d a b) : Statement (.shlB64 e k d a b) := by
  refine ⟨?_, rfl⟩
  intro z hz
  have e1 := e.toNat_lt
  have k1 := k.toNat_lt
  have d1 := d.code_lt
  have a1 := a.code_lt
  have b1 := b.code_lt
  simp only [encodeNat, Option.some.injEq, wordOf] at hz
  replace hz : z = pack [(3, 0), (7, b.code), (7, a.code), (7, d.code), (1, k.toNat), (6, 6), (1, e.toNat)] := by simp only [pack]; omega
  have hb : bounded [(3, 0), (7, b.code), (7, a.code), (7, d.code), (1, k.toNat), (6, 6), (1, e.toNat)] = true := by simp only [bounded, Bool.and_eq_true, decide_eq_true_eq, and_true]; omega
  have h0 : bitsOf z 25 6 = 6 := bits_pack hz hb 5 rfl
  have h1 : bitsOf z 0 3 = 0 := bits_pack hz hb 0 rfl
  have h2 : bitsOf z 31 1 = e.toNat := bits_pack hz hb 6 rfl
  have h3 : bitsOf z 24 1 = k.toNat := bits_pack hz hb 4 rfl
  have h4 : bitsOf z 17 7 = d.code := bits_pack hz hb 3 rfl
  have h5 : bitsOf z 10 7 = a.code := bits_pack hz hb 2 rfl
  have h6 : bitsOf z 3 7 = b.code := bits_pack hz hb 1 rfl
  refine ⟨?_, hz ▸ pack_lt _ hb⟩
  simp [decodeFields, fields6, reserved, kZero, bitB, regF, predF, enumF, h0, h1, h2, h3, h4, h5, h6, Reg.ofCode_code, bit_eq, Fin.ofNat_val, Except.bind, okBind]

theorem shrB64 (e k d a b) : Statement (.shrB64 e k d a b) := by
  refine ⟨?_, rfl⟩
  intro z hz
  have e1 := e.toNat_lt
  have k1 := k.toNat_lt
  have d1 := d.code_lt
  have a1 := a.code_lt
  have b1 := b.code_lt
  simp only [encodeNat, Option.some.injEq, wordOf] at hz
  replace hz : z = pack [(3, 1), (7, b.code), (7, a.code), (7, d.code), (1, k.toNat), (6, 6), (1, e.toNat)] := by simp only [pack]; omega
  have hb : bounded [(3, 1), (7, b.code), (7, a.code), (7, d.code), (1, k.toNat), (6, 6), (1, e.toNat)] = true := by simp only [bounded, Bool.and_eq_true, decide_eq_true_eq, and_true]; omega
  have h0 : bitsOf z 25 6 = 6 := bits_pack hz hb 5 rfl
  have h1 : bitsOf z 0 3 = 1 := bits_pack hz hb 0 rfl
  have h2 : bitsOf z 31 1 = e.toNat := bits_pack hz hb 6 rfl
  have h3 : bitsOf z 24 1 = k.toNat := bits_pack hz hb 4 rfl
  have h4 : bitsOf z 17 7 = d.code := bits_pack hz hb 3 rfl
  have h5 : bitsOf z 10 7 = a.code := bits_pack hz hb 2 rfl
  have h6 : bitsOf z 3 7 = b.code := bits_pack hz hb 1 rfl
  refine ⟨?_, hz ▸ pack_lt _ hb⟩
  simp [decodeFields, fields6, reserved, kZero, bitB, regF, predF, enumF, h0, h1, h2, h3, h4, h5, h6, Reg.ofCode_code, bit_eq, Fin.ofNat_val, Except.bind, okBind]

theorem shraS64 (e k d a b) : Statement (.shraS64 e k d a b) := by
  refine ⟨?_, rfl⟩
  intro z hz
  have e1 := e.toNat_lt
  have k1 := k.toNat_lt
  have d1 := d.code_lt
  have a1 := a.code_lt
  have b1 := b.code_lt
  simp only [encodeNat, Option.some.injEq, wordOf] at hz
  replace hz : z = pack [(3, 2), (7, b.code), (7, a.code), (7, d.code), (1, k.toNat), (6, 6), (1, e.toNat)] := by simp only [pack]; omega
  have hb : bounded [(3, 2), (7, b.code), (7, a.code), (7, d.code), (1, k.toNat), (6, 6), (1, e.toNat)] = true := by simp only [bounded, Bool.and_eq_true, decide_eq_true_eq, and_true]; omega
  have h0 : bitsOf z 25 6 = 6 := bits_pack hz hb 5 rfl
  have h1 : bitsOf z 0 3 = 2 := bits_pack hz hb 0 rfl
  have h2 : bitsOf z 31 1 = e.toNat := bits_pack hz hb 6 rfl
  have h3 : bitsOf z 24 1 = k.toNat := bits_pack hz hb 4 rfl
  have h4 : bitsOf z 17 7 = d.code := bits_pack hz hb 3 rfl
  have h5 : bitsOf z 10 7 = a.code := bits_pack hz hb 2 rfl
  have h6 : bitsOf z 3 7 = b.code := bits_pack hz hb 1 rfl
  refine ⟨?_, hz ▸ pack_lt _ hb⟩
  simp [decodeFields, fields6, reserved, kZero, bitB, regF, predF, enumF, h0, h1, h2, h3, h4, h5, h6, Reg.ofCode_code, bit_eq, Fin.ofNat_val, Except.bind, okBind]

theorem mulhS64 (e k d a b) : Statement (.mulhS64 e k d a b) := by
  refine ⟨?_, rfl⟩
  intro z hz
  have e1 := e.toNat_lt
  have k1 := k.toNat_lt
  have d1 := d.code_lt
  have a1 := a.code_lt
  have b1 := b.code_lt
  simp only [encodeNat, Option.some.injEq, wordOf] at hz
  replace hz : z = pack [(3, 3), (7, b.code), (7, a.code), (7, d.code), (1, k.toNat), (6, 6), (1, e.toNat)] := by simp only [pack]; omega
  have hb : bounded [(3, 3), (7, b.code), (7, a.code), (7, d.code), (1, k.toNat), (6, 6), (1, e.toNat)] = true := by simp only [bounded, Bool.and_eq_true, decide_eq_true_eq, and_true]; omega
  have h0 : bitsOf z 25 6 = 6 := bits_pack hz hb 5 rfl
  have h1 : bitsOf z 0 3 = 3 := bits_pack hz hb 0 rfl
  have h2 : bitsOf z 31 1 = e.toNat := bits_pack hz hb 6 rfl
  have h3 : bitsOf z 24 1 = k.toNat := bits_pack hz hb 4 rfl
  have h4 : bitsOf z 17 7 = d.code := bits_pack hz hb 3 rfl
  have h5 : bitsOf z 10 7 = a.code := bits_pack hz hb 2 rfl
  have h6 : bitsOf z 3 7 = b.code := bits_pack hz hb 1 rfl
  refine ⟨?_, hz ▸ pack_lt _ hb⟩
  simp [decodeFields, fields6, reserved, kZero, bitB, regF, predF, enumF, h0, h1, h2, h3, h4, h5, h6, Reg.ofCode_code, bit_eq, Fin.ofNat_val, Except.bind, okBind]

theorem mulhZ64 (e k d a b) : Statement (.mulhZ64 e k d a b) := by
  refine ⟨?_, rfl⟩
  intro z hz
  have e1 := e.toNat_lt
  have k1 := k.toNat_lt
  have d1 := d.code_lt
  have a1 := a.code_lt
  have b1 := b.code_lt
  simp only [encodeNat, Option.some.injEq, wordOf] at hz
  replace hz : z = pack [(3, 4), (7, b.code), (7, a.code), (7, d.code), (1, k.toNat), (6, 6), (1, e.toNat)] := by simp only [pack]; omega
  have hb : bounded [(3, 4), (7, b.code), (7, a.code), (7, d.code), (1, k.toNat), (6, 6), (1, e.toNat)] = true := by simp only [bounded, Bool.and_eq_true, decide_eq_true_eq, and_true]; omega
  have h0 : bitsOf z 25 6 = 6 := bits_pack hz hb 5 rfl
  have h1 : bitsOf z 0 3 = 4 := bits_pack hz hb 0 rfl
  have h2 : bitsOf z 31 1 = e.toNat := bits_pack hz hb 6 rfl
  have h3 : bitsOf z 24 1 = k.toNat := bits_pack hz hb 4 rfl
  have h4 : bitsOf z 17 7 = d.code := bits_pack hz hb 3 rfl
  have h5 : bitsOf z 10 7 = a.code := bits_pack hz hb 2 rfl
  have h6 : bitsOf z 3 7 = b.code := bits_pack hz hb 1 rfl
  refine ⟨?_, hz ▸ pack_lt _ hb⟩
  simp [decodeFields, fields6, reserved, kZero, bitB, regF, predF, enumF, h0, h1, h2, h3, h4, h5, h6, Reg.ofCode_code, bit_eq, Fin.ofNat_val, Except.bind, okBind]

theorem absS64 (e k d a) : Statement (.absS64 e k d a) := by
  refine ⟨?_, rfl⟩
  intro z hz
  have e1 := e.toNat_lt
  have k1 := k.toNat_lt
  have d1 := d.code_lt
  have a1 := a.code_lt
  simp only [encodeNat, Option.some.injEq, wordOf] at hz
  replace hz : z = pack [(3, 5), (7, 0), (7, a.code), (7, d.code), (1, k.toNat), (6, 6), (1, e.toNat)] := by simp only [pack]; omega
  have hb : bounded [(3, 5), (7, 0), (7, a.code), (7, d.code), (1, k.toNat), (6, 6), (1, e.toNat)] = true := by simp only [bounded, Bool.and_eq_true, decide_eq_true_eq, and_true]; omega
  have h0 : bitsOf z 25 6 = 6 := bits_pack hz hb 5 rfl
  have h1 : bitsOf z 0 3 = 5 := bits_pack hz hb 0 rfl
  have h2 : bitsOf z 3 7 = 0 := bits_pack hz hb 1 rfl
  have h3 : bitsOf z 31 1 = e.toNat := bits_pack hz hb 6 rfl
  have h4 : bitsOf z 24 1 = k.toNat := bits_pack hz hb 4 rfl
  have h5 : bitsOf z 17 7 = d.code := bits_pack hz hb 3 rfl
  have h6 : bitsOf z 10 7 = a.code := bits_pack hz hb 2 rfl
  refine ⟨?_, hz ▸ pack_lt _ hb⟩
  simp [decodeFields, fields6, reserved, kZero, bitB, regF, predF, enumF, h0, h1, h2, h3, h4, h5, h6, Reg.ofCode_code, bit_eq, Fin.ofNat_val, Except.bind, okBind]

theorem madS64 (e k d a b) : Statement (.madS64 e k d a b) := by
  refine ⟨?_, rfl⟩
  intro z hz
  have e1 := e.toNat_lt
  have k1 := k.toNat_lt
  have d1 := d.code_lt
  have a1 := a.code_lt
  have b1 := b.code_lt
  simp only [encodeNat, Option.some.injEq, wordOf] at hz
  replace hz : z = pack [(3, 6), (7, b.code), (7, a.code), (7, d.code), (1, k.toNat), (6, 6), (1, e.toNat)] := by simp only [pack]; omega
  have hb : bounded [(3, 6), (7, b.code), (7, a.code), (7, d.code), (1, k.toNat), (6, 6), (1, e.toNat)] = true := by simp only [bounded, Bool.and_eq_true, decide_eq_true_eq, and_true]; omega
  have h0 : bitsOf z 25 6 = 6 := bits_pack hz hb 5 rfl
  have h1 : bitsOf z 0 3 = 6 := bits_pack hz hb 0 rfl
  have h2 : bitsOf z 31 1 = e.toNat := bits_pack hz hb 6 rfl
  have h3 : bitsOf z 24 1 = k.toNat := bits_pack hz hb 4 rfl
  have h4 : bitsOf z 17 7 = d.code := bits_pack hz hb 3 rfl
  have h5 : bitsOf z 10 7 = a.code := bits_pack hz hb 2 rfl
  have h6 : bitsOf z 3 7 = b.code := bits_pack hz hb 1 rfl
  refine ⟨?_, hz ▸ pack_lt _ hb⟩
  simp [decodeFields, fields6, reserved, kZero, bitB, regF, predF, enumF, h0, h1, h2, h3, h4, h5, h6, Reg.ofCode_code, bit_eq, Fin.ofNat_val, Except.bind, okBind]

theorem lea (e k d a b s) : Statement (.lea e k d a b s) := by
  refine ⟨?_, rfl⟩
  intro z hz
  have e1 := e.toNat_lt
  have k1 := k.toNat_lt
  have d1 := d.code_lt
  have a1 := a.code_lt
  have b1 := b.code_lt
  have s1 := s.isLt
  simp only [encodeNat, Option.some.injEq, wordOf] at hz
  replace hz : z = pack [(3, s.val), (7, b.code), (7, a.code), (7, d.code), (1, k.toNat), (6, 7), (1, e.toNat)] := by simp only [pack]; omega
  have hb : bounded [(3, s.val), (7, b.code), (7, a.code), (7, d.code), (1, k.toNat), (6, 7), (1, e.toNat)] = true := by simp only [bounded, Bool.and_eq_true, decide_eq_true_eq, and_true]; omega
  have h0 : bitsOf z 25 6 = 7 := bits_pack hz hb 5 rfl
  have h1 : bitsOf z 0 3 = s.val := bits_pack hz hb 0 rfl
  have h2 : bitsOf z 31 1 = e.toNat := bits_pack hz hb 6 rfl
  have h3 : bitsOf z 24 1 = k.toNat := bits_pack hz hb 4 rfl
  have h4 : bitsOf z 17 7 = d.code := bits_pack hz hb 3 rfl
  have h5 : bitsOf z 10 7 = a.code := bits_pack hz hb 2 rfl
  have h6 : bitsOf z 3 7 = b.code := bits_pack hz hb 1 rfl
  refine ⟨?_, hz ▸ pack_lt _ hb⟩
  simp [decodeFields, fields7, reserved, kZero, bitB, regF, predF, enumF, h0, h1, h2, h3, h4, h5, h6, Reg.ofCode_code, bit_eq, Fin.ofNat_val, Except.bind, okBind]

theorem sel (e k d a b p) : Statement (.sel e k d a b p) := by
  refine ⟨?_, rfl⟩
  intro z hz
  have e1 := e.toNat_lt
  have k1 := k.toNat_lt
  have d1 := d.code_lt
  have a1 := a.code_lt
  have b1 := b.code_lt
  have p1 := p.isLt
  simp only [encodeNat, Option.some.injEq, wordOf] at hz
  replace hz : z = pack [(3, p.val), (7, b.code), (7, a.code), (7, d.code), (1, k.toNat), (6, 8), (1, e.toNat)] := by simp only [pack]; omega
  have hb : bounded [(3, p.val), (7, b.code), (7, a.code), (7, d.code), (1, k.toNat), (6, 8), (1, e.toNat)] = true := by simp only [bounded, Bool.and_eq_true, decide_eq_true_eq, and_true]; omega
  have h0 : bitsOf z 25 6 = 8 := bits_pack hz hb 5 rfl
  have h1 : bitsOf z 0 3 = p.val := bits_pack hz hb 0 rfl
  have h2 : bitsOf z 31 1 = e.toNat := bits_pack hz hb 6 rfl
  have h3 : bitsOf z 24 1 = k.toNat := bits_pack hz hb 4 rfl
  have h4 : bitsOf z 17 7 = d.code := bits_pack hz hb 3 rfl
  have h5 : bitsOf z 10 7 = a.code := bits_pack hz hb 2 rfl
  have h6 : bitsOf z 3 7 = b.code := bits_pack hz hb 1 rfl
  refine ⟨?_, hz ▸ pack_lt _ hb⟩
  simp [decodeFields, fields8, reserved, kZero, bitB, regF, predF, enumF, h0, h1, h2, h3, h4, h5, h6, Reg.ofCode_code, bit_eq, Fin.ofNat_val, Except.bind, okBind]

theorem cmp32 (e d a b c) : Statement (.cmp32 e d a b c) := by
  refine ⟨?_, rfl⟩
  intro z hz
  have e1 := e.toNat_lt
  have d1 := d.isLt
  have a1 := a.code_lt
  have b1 := b.code_lt
  have c1 := c.code_lt
  simp only [encodeNat, Option.some.injEq, wordOf, Bool.toNat_false] at hz
  replace hz : z = pack [(3, c.code), (7, b.code), (7, a.code), (7, d.val), (1, 0), (6, 9), (1, e.toNat)] := by simp only [pack]; omega
  have hb : bounded [(3, c.code), (7, b.code), (7, a.code), (7, d.val), (1, 0), (6, 9), (1, e.toNat)] = true := by simp only [bounded, Bool.and_eq_true, decide_eq_true_eq, and_true]; omega
  have h0 : bitsOf z 25 6 = 9 := bits_pack hz hb 5 rfl
  have h1 : bitsOf z 31 1 = e.toNat := bits_pack hz hb 6 rfl
  have h2 : bitsOf z 17 7 = d.val := bits_pack hz hb 3 rfl
  have h3 : bitsOf z 10 7 = a.code := bits_pack hz hb 2 rfl
  have h4 : bitsOf z 3 7 = b.code := bits_pack hz hb 1 rfl
  have h5 : bitsOf z 0 3 = c.code := bits_pack hz hb 0 rfl
  have h6 : bitsOf z 24 1 = 0 := bits_pack hz hb 4 rfl
  refine ⟨?_, hz ▸ pack_lt _ hb⟩
  simp [decodeFields, fields9, reserved, kZero, bitB, regF, predF, enumF, h0, h1, h2, h3, h4, h5, h6, Reg.ofCode_code, bit_eq, Fin.ofNat_val, Except.bind, okBind, Cond.ofCode_code, d1]

theorem cmp64 (e d a b c) : Statement (.cmp64 e d a b c) := by
  refine ⟨?_, rfl⟩
  intro z hz
  have e1 := e.toNat_lt
  have d1 := d.isLt
  have a1 := a.code_lt
  have b1 := b.code_lt
  have c1 := c.code_lt
  simp only [encodeNat, Option.some.injEq, wordOf, Bool.toNat_false] at hz
  replace hz : z = pack [(3, c.code), (7, b.code), (7, a.code), (7, d.val), (1, 0), (6, 10), (1, e.toNat)] := by simp only [pack]; omega
  have hb : bounded [(3, c.code), (7, b.code), (7, a.code), (7, d.val), (1, 0), (6, 10), (1, e.toNat)] = true := by simp only [bounded, Bool.and_eq_true, decide_eq_true_eq, and_true]; omega
  have h0 : bitsOf z 25 6 = 10 := bits_pack hz hb 5 rfl
  have h1 : bitsOf z 31 1 = e.toNat := bits_pack hz hb 6 rfl
  have h2 : bitsOf z 17 7 = d.val := bits_pack hz hb 3 rfl
  have h3 : bitsOf z 10 7 = a.code := bits_pack hz hb 2 rfl
  have h4 : bitsOf z 3 7 = b.code := bits_pack hz hb 1 rfl
  have h5 : bitsOf z 0 3 = c.code := bits_pack hz hb 0 rfl
  have h6 : bitsOf z 24 1 = 0 := bits_pack hz hb 4 rfl
  refine ⟨?_, hz ▸ pack_lt _ hb⟩
  simp [decodeFields, fields10, reserved, kZero, bitB, regF, predF, enumF, h0, h1, h2, h3, h4, h5, h6, Reg.ofCode_code, bit_eq, Fin.ofNat_val, Except.bind, okBind, Cond.ofCode_code, d1]

theorem shlB32Imm (e k d a n) : Statement (.shlB32Imm e k d a n) := by
  refine ⟨?_, rfl⟩
  intro z hz
  have e1 := e.toNat_lt
  have k1 := k.toNat_lt
  have d1 := d.code_lt
  have a1 := a.code_lt
  have n1 := n.isLt
  simp only [encodeNat, Option.some.injEq, wordOf] at hz
  replace hz : z = pack [(3, 0), (7, n.toNat), (7, a.code), (7, d.code), (1, k.toNat), (6, 11), (1, e.toNat)] := by simp only [pack]; omega
  have hb : bounded [(3, 0), (7, n.toNat), (7, a.code), (7, d.code), (1, k.toNat), (6, 11), (1, e.toNat)] = true := by simp only [bounded, Bool.and_eq_true, decide_eq_true_eq, and_true]; omega
  have h0 : bitsOf z 25 6 = 11 := bits_pack hz hb 5 rfl
  have h1 : bitsOf z 0 3 = 0 := bits_pack hz hb 0 rfl
  have h2 : bitsOf z 31 1 = e.toNat := bits_pack hz hb 6 rfl
  have h3 : bitsOf z 24 1 = k.toNat := bits_pack hz hb 4 rfl
  have h4 : bitsOf z 17 7 = d.code := bits_pack hz hb 3 rfl
  have h5 : bitsOf z 10 7 = a.code := bits_pack hz hb 2 rfl
  have h6 : bitsOf z 3 7 = n.toNat := bits_pack hz hb 1 rfl
  have b0 : bvF z 3 7 = n := bvF_eq h6
  refine ⟨?_, hz ▸ pack_lt _ hb⟩
  simp [decodeFields, fields11, reserved, kZero, bitB, regF, predF, enumF, h0, h1, h2, h3, h4, h5, h6, b0, Reg.ofCode_code, bit_eq, Fin.ofNat_val, Except.bind, okBind]

theorem shrB32Imm (e k d a n) : Statement (.shrB32Imm e k d a n) := by
  refine ⟨?_, rfl⟩
  intro z hz
  have e1 := e.toNat_lt
  have k1 := k.toNat_lt
  have d1 := d.code_lt
  have a1 := a.code_lt
  have n1 := n.isLt
  simp only [encodeNat, Option.some.injEq, wordOf] at hz
  replace hz : z = pack [(3, 1), (7, n.toNat), (7, a.code), (7, d.code), (1, k.toNat), (6, 11), (1, e.toNat)] := by simp only [pack]; omega
  have hb : bounded [(3, 1), (7, n.toNat), (7, a.code), (7, d.code), (1, k.toNat), (6, 11), (1, e.toNat)] = true := by simp only [bounded, Bool.and_eq_true, decide_eq_true_eq, and_true]; omega
  have h0 : bitsOf z 25 6 = 11 := bits_pack hz hb 5 rfl
  have h1 : bitsOf z 0 3 = 1 := bits_pack hz hb 0 rfl
  have h2 : bitsOf z 31 1 = e.toNat := bits_pack hz hb 6 rfl
  have h3 : bitsOf z 24 1 = k.toNat := bits_pack hz hb 4 rfl
  have h4 : bitsOf z 17 7 = d.code := bits_pack hz hb 3 rfl
  have h5 : bitsOf z 10 7 = a.code := bits_pack hz hb 2 rfl
  have h6 : bitsOf z 3 7 = n.toNat := bits_pack hz hb 1 rfl
  have b0 : bvF z 3 7 = n := bvF_eq h6
  refine ⟨?_, hz ▸ pack_lt _ hb⟩
  simp [decodeFields, fields11, reserved, kZero, bitB, regF, predF, enumF, h0, h1, h2, h3, h4, h5, h6, b0, Reg.ofCode_code, bit_eq, Fin.ofNat_val, Except.bind, okBind]

theorem shraS32Imm (e k d a n) : Statement (.shraS32Imm e k d a n) := by
  refine ⟨?_, rfl⟩
  intro z hz
  have e1 := e.toNat_lt
  have k1 := k.toNat_lt
  have d1 := d.code_lt
  have a1 := a.code_lt
  have n1 := n.isLt
  simp only [encodeNat, Option.some.injEq, wordOf] at hz
  replace hz : z = pack [(3, 2), (7, n.toNat), (7, a.code), (7, d.code), (1, k.toNat), (6, 11), (1, e.toNat)] := by simp only [pack]; omega
  have hb : bounded [(3, 2), (7, n.toNat), (7, a.code), (7, d.code), (1, k.toNat), (6, 11), (1, e.toNat)] = true := by simp only [bounded, Bool.and_eq_true, decide_eq_true_eq, and_true]; omega
  have h0 : bitsOf z 25 6 = 11 := bits_pack hz hb 5 rfl
  have h1 : bitsOf z 0 3 = 2 := bits_pack hz hb 0 rfl
  have h2 : bitsOf z 31 1 = e.toNat := bits_pack hz hb 6 rfl
  have h3 : bitsOf z 24 1 = k.toNat := bits_pack hz hb 4 rfl
  have h4 : bitsOf z 17 7 = d.code := bits_pack hz hb 3 rfl
  have h5 : bitsOf z 10 7 = a.code := bits_pack hz hb 2 rfl
  have h6 : bitsOf z 3 7 = n.toNat := bits_pack hz hb 1 rfl
  have b0 : bvF z 3 7 = n := bvF_eq h6
  refine ⟨?_, hz ▸ pack_lt _ hb⟩
  simp [decodeFields, fields11, reserved, kZero, bitB, regF, predF, enumF, h0, h1, h2, h3, h4, h5, h6, b0, Reg.ofCode_code, bit_eq, Fin.ofNat_val, Except.bind, okBind]

theorem rotB32Imm (e k d a n) : Statement (.rotB32Imm e k d a n) := by
  refine ⟨?_, rfl⟩
  intro z hz
  have e1 := e.toNat_lt
  have k1 := k.toNat_lt
  have d1 := d.code_lt
  have a1 := a.code_lt
  have n1 := n.isLt
  simp only [encodeNat, Option.some.injEq, wordOf] at hz
  replace hz : z = pack [(3, 3), (7, n.toNat), (7, a.code), (7, d.code), (1, k.toNat), (6, 11), (1, e.toNat)] := by simp only [pack]; omega
  have hb : bounded [(3, 3), (7, n.toNat), (7, a.code), (7, d.code), (1, k.toNat), (6, 11), (1, e.toNat)] = true := by simp only [bounded, Bool.and_eq_true, decide_eq_true_eq, and_true]; omega
  have h0 : bitsOf z 25 6 = 11 := bits_pack hz hb 5 rfl
  have h1 : bitsOf z 0 3 = 3 := bits_pack hz hb 0 rfl
  have h2 : bitsOf z 31 1 = e.toNat := bits_pack hz hb 6 rfl
  have h3 : bitsOf z 24 1 = k.toNat := bits_pack hz hb 4 rfl
  have h4 : bitsOf z 17 7 = d.code := bits_pack hz hb 3 rfl
  have h5 : bitsOf z 10 7 = a.code := bits_pack hz hb 2 rfl
  have h6 : bitsOf z 3 7 = n.toNat := bits_pack hz hb 1 rfl
  have b0 : bvF z 3 7 = n := bvF_eq h6
  refine ⟨?_, hz ▸ pack_lt _ hb⟩
  simp [decodeFields, fields11, reserved, kZero, bitB, regF, predF, enumF, h0, h1, h2, h3, h4, h5, h6, b0, Reg.ofCode_code, bit_eq, Fin.ofNat_val, Except.bind, okBind]

theorem shlB64Imm (e k d a n) : Statement (.shlB64Imm e k d a n) := by
  refine ⟨?_, rfl⟩
  intro z hz
  have e1 := e.toNat_lt
  have k1 := k.toNat_lt
  have d1 := d.code_lt
  have a1 := a.code_lt
  have n1 := n.isLt
  simp only [encodeNat, Option.some.injEq, wordOf] at hz
  replace hz : z = pack [(3, 4), (7, n.toNat), (7, a.code), (7, d.code), (1, k.toNat), (6, 11), (1, e.toNat)] := by simp only [pack]; omega
  have hb : bounded [(3, 4), (7, n.toNat), (7, a.code), (7, d.code), (1, k.toNat), (6, 11), (1, e.toNat)] = true := by simp only [bounded, Bool.and_eq_true, decide_eq_true_eq, and_true]; omega
  have h0 : bitsOf z 25 6 = 11 := bits_pack hz hb 5 rfl
  have h1 : bitsOf z 0 3 = 4 := bits_pack hz hb 0 rfl
  have h2 : bitsOf z 31 1 = e.toNat := bits_pack hz hb 6 rfl
  have h3 : bitsOf z 24 1 = k.toNat := bits_pack hz hb 4 rfl
  have h4 : bitsOf z 17 7 = d.code := bits_pack hz hb 3 rfl
  have h5 : bitsOf z 10 7 = a.code := bits_pack hz hb 2 rfl
  have h6 : bitsOf z 3 7 = n.toNat := bits_pack hz hb 1 rfl
  have b0 : bvF z 3 7 = n := bvF_eq h6
  refine ⟨?_, hz ▸ pack_lt _ hb⟩
  simp [decodeFields, fields11, reserved, kZero, bitB, regF, predF, enumF, h0, h1, h2, h3, h4, h5, h6, b0, Reg.ofCode_code, bit_eq, Fin.ofNat_val, Except.bind, okBind]

theorem shrB64Imm (e k d a n) : Statement (.shrB64Imm e k d a n) := by
  refine ⟨?_, rfl⟩
  intro z hz
  have e1 := e.toNat_lt
  have k1 := k.toNat_lt
  have d1 := d.code_lt
  have a1 := a.code_lt
  have n1 := n.isLt
  simp only [encodeNat, Option.some.injEq, wordOf] at hz
  replace hz : z = pack [(3, 5), (7, n.toNat), (7, a.code), (7, d.code), (1, k.toNat), (6, 11), (1, e.toNat)] := by simp only [pack]; omega
  have hb : bounded [(3, 5), (7, n.toNat), (7, a.code), (7, d.code), (1, k.toNat), (6, 11), (1, e.toNat)] = true := by simp only [bounded, Bool.and_eq_true, decide_eq_true_eq, and_true]; omega
  have h0 : bitsOf z 25 6 = 11 := bits_pack hz hb 5 rfl
  have h1 : bitsOf z 0 3 = 5 := bits_pack hz hb 0 rfl
  have h2 : bitsOf z 31 1 = e.toNat := bits_pack hz hb 6 rfl
  have h3 : bitsOf z 24 1 = k.toNat := bits_pack hz hb 4 rfl
  have h4 : bitsOf z 17 7 = d.code := bits_pack hz hb 3 rfl
  have h5 : bitsOf z 10 7 = a.code := bits_pack hz hb 2 rfl
  have h6 : bitsOf z 3 7 = n.toNat := bits_pack hz hb 1 rfl
  have b0 : bvF z 3 7 = n := bvF_eq h6
  refine ⟨?_, hz ▸ pack_lt _ hb⟩
  simp [decodeFields, fields11, reserved, kZero, bitB, regF, predF, enumF, h0, h1, h2, h3, h4, h5, h6, b0, Reg.ofCode_code, bit_eq, Fin.ofNat_val, Except.bind, okBind]

theorem shraS64Imm (e k d a n) : Statement (.shraS64Imm e k d a n) := by
  refine ⟨?_, rfl⟩
  intro z hz
  have e1 := e.toNat_lt
  have k1 := k.toNat_lt
  have d1 := d.code_lt
  have a1 := a.code_lt
  have n1 := n.isLt
  simp only [encodeNat, Option.some.injEq, wordOf] at hz
  replace hz : z = pack [(3, 6), (7, n.toNat), (7, a.code), (7, d.code), (1, k.toNat), (6, 11), (1, e.toNat)] := by simp only [pack]; omega
  have hb : bounded [(3, 6), (7, n.toNat), (7, a.code), (7, d.code), (1, k.toNat), (6, 11), (1, e.toNat)] = true := by simp only [bounded, Bool.and_eq_true, decide_eq_true_eq, and_true]; omega
  have h0 : bitsOf z 25 6 = 11 := bits_pack hz hb 5 rfl
  have h1 : bitsOf z 0 3 = 6 := bits_pack hz hb 0 rfl
  have h2 : bitsOf z 31 1 = e.toNat := bits_pack hz hb 6 rfl
  have h3 : bitsOf z 24 1 = k.toNat := bits_pack hz hb 4 rfl
  have h4 : bitsOf z 17 7 = d.code := bits_pack hz hb 3 rfl
  have h5 : bitsOf z 10 7 = a.code := bits_pack hz hb 2 rfl
  have h6 : bitsOf z 3 7 = n.toNat := bits_pack hz hb 1 rfl
  have b0 : bvF z 3 7 = n := bvF_eq h6
  refine ⟨?_, hz ▸ pack_lt _ hb⟩
  simp [decodeFields, fields11, reserved, kZero, bitB, regF, predF, enumF, h0, h1, h2, h3, h4, h5, h6, b0, Reg.ofCode_code, bit_eq, Fin.ofNat_val, Except.bind, okBind]

theorem addS32Imm (e k d a i) : Statement (.addS32Imm e k d a i) := by
  refine ⟨?_, rfl⟩
  intro z hz
  have e1 := e.toNat_lt
  have k1 := k.toNat_lt
  have d1 := d.code_lt
  have a1 := a.code_lt
  have i1 := i.isLt
  simp only [encodeNat, Option.some.injEq, wordOf] at hz
  replace hz : z = pack [(10, i.toNat), (7, a.code), (7, d.code), (1, k.toNat), (6, 12), (1, e.toNat)] := by simp only [pack]; omega
  have hb : bounded [(10, i.toNat), (7, a.code), (7, d.code), (1, k.toNat), (6, 12), (1, e.toNat)] = true := by simp only [bounded, Bool.and_eq_true, decide_eq_true_eq, and_true]; omega
  have h0 : bitsOf z 25 6 = 12 := bits_pack hz hb 4 rfl
  have h1 : bitsOf z 31 1 = e.toNat := bits_pack hz hb 5 rfl
  have h2 : bitsOf z 24 1 = k.toNat := bits_pack hz hb 3 rfl
  have h3 : bitsOf z 17 7 = d.code := bits_pack hz hb 2 rfl
  have h4 : bitsOf z 10 7 = a.code := bits_pack hz hb 1 rfl
  have h5 : bitsOf z 0 10 = i.toNat := bits_pack hz hb 0 rfl
  have b0 : bvF z 0 10 = i := bvF_eq h5
  refine ⟨?_, hz ▸ pack_lt _ hb⟩
  simp [decodeFields, fields12, reserved, kZero, bitB, regF, predF, enumF, h0, h1, h2, h3, h4, h5, b0, Reg.ofCode_code, bit_eq, Fin.ofNat_val, Except.bind, okBind]

theorem mulS32Imm (e k d a i) : Statement (.mulS32Imm e k d a i) := by
  refine ⟨?_, rfl⟩
  intro z hz
  have e1 := e.toNat_lt
  have k1 := k.toNat_lt
  have d1 := d.code_lt
  have a1 := a.code_lt
  have i1 := i.isLt
  simp only [encodeNat, Option.some.injEq, wordOf] at hz
  replace hz : z = pack [(10, i.toNat), (7, a.code), (7, d.code), (1, k.toNat), (6, 13), (1, e.toNat)] := by simp only [pack]; omega
  have hb : bounded [(10, i.toNat), (7, a.code), (7, d.code), (1, k.toNat), (6, 13), (1, e.toNat)] = true := by simp only [bounded, Bool.and_eq_true, decide_eq_true_eq, and_true]; omega
  have h0 : bitsOf z 25 6 = 13 := bits_pack hz hb 4 rfl
  have h1 : bitsOf z 31 1 = e.toNat := bits_pack hz hb 5 rfl
  have h2 : bitsOf z 24 1 = k.toNat := bits_pack hz hb 3 rfl
  have h3 : bitsOf z 17 7 = d.code := bits_pack hz hb 2 rfl
  have h4 : bitsOf z 10 7 = a.code := bits_pack hz hb 1 rfl
  have h5 : bitsOf z 0 10 = i.toNat := bits_pack hz hb 0 rfl
  have b0 : bvF z 0 10 = i := bvF_eq h5
  refine ⟨?_, hz ▸ pack_lt _ hb⟩
  simp [decodeFields, fields13, reserved, kZero, bitB, regF, predF, enumF, h0, h1, h2, h3, h4, h5, b0, Reg.ofCode_code, bit_eq, Fin.ofNat_val, Except.bind, okBind]

theorem ldi (e k d i) : Statement (.ldi e k d i) := by
  refine ⟨?_, rfl⟩
  intro z hz
  have e1 := e.toNat_lt
  have k1 := k.toNat_lt
  have d1 := d.code_lt
  have i1 := i.isLt
  simp only [encodeNat, Option.some.injEq, wordOf] at hz
  replace hz : z = pack [(17, i.toNat), (7, d.code), (1, k.toNat), (6, 14), (1, e.toNat)] := by simp only [pack]; omega
  have hb : bounded [(17, i.toNat), (7, d.code), (1, k.toNat), (6, 14), (1, e.toNat)] = true := by simp only [bounded, Bool.and_eq_true, decide_eq_true_eq, and_true]; omega
  have h0 : bitsOf z 25 6 = 14 := bits_pack hz hb 3 rfl
  have h1 : bitsOf z 31 1 = e.toNat := bits_pack hz hb 4 rfl
  have h2 : bitsOf z 24 1 = k.toNat := bits_pack hz hb 2 rfl
  have h3 : bitsOf z 17 7 = d.code := bits_pack hz hb 1 rfl
  have h4 : bitsOf z 0 17 = i.toNat := bits_pack hz hb 0 rfl
  have b0 : bvF z 0 17 = i := bvF_eq h4
  refine ⟨?_, hz ▸ pack_lt _ hb⟩
  simp [decodeFields, fields14, reserved, kZero, bitB, regF, predF, enumF, h0, h1, h2, h3, h4, b0, Reg.ofCode_code, bit_eq, Fin.ofNat_val, Except.bind, okBind]

theorem ldhi (e k d i) : Statement (.ldhi e k d i) := by
  refine ⟨?_, rfl⟩
  intro z hz
  have e1 := e.toNat_lt
  have k1 := k.toNat_lt
  have d1 := d.code_lt
  have i1 := i.isLt
  simp only [encodeNat, Option.some.injEq, wordOf] at hz
  replace hz : z = pack [(16, i.toNat), (1, 0), (7, d.code), (1, k.toNat), (6, 15), (1, e.toNat)] := by simp only [pack]; omega
  have hb : bounded [(16, i.toNat), (1, 0), (7, d.code), (1, k.toNat), (6, 15), (1, e.toNat)] = true := by simp only [bounded, Bool.and_eq_true, decide_eq_true_eq, and_true]; omega
  have h0 : bitsOf z 25 6 = 15 := bits_pack hz hb 4 rfl
  have h1 : bitsOf z 16 1 = 0 := bits_pack hz hb 1 rfl
  have h2 : bitsOf z 31 1 = e.toNat := bits_pack hz hb 5 rfl
  have h3 : bitsOf z 24 1 = k.toNat := bits_pack hz hb 3 rfl
  have h4 : bitsOf z 17 7 = d.code := bits_pack hz hb 2 rfl
  have h5 : bitsOf z 0 16 = i.toNat := bits_pack hz hb 0 rfl
  have b0 : bvF z 0 16 = i := bvF_eq h5
  refine ⟨?_, hz ▸ pack_lt _ hb⟩
  simp [decodeFields, fields15, reserved, kZero, bitB, regF, predF, enumF, h0, h1, h2, h3, h4, h5, b0, Reg.ofCode_code, bit_eq, Fin.ofNat_val, Except.bind, okBind]

theorem fadd (e k d a b r) : Statement (.fadd e k d a b r) := by
  refine ⟨?_, rfl⟩
  intro z hz
  have e1 := e.toNat_lt
  have k1 := k.toNat_lt
  have d1 := d.code_lt
  have a1 := a.code_lt
  have b1 := b.code_lt
  have r1 := r.code_lt
  simp only [encodeNat, Option.some.injEq, wordOf] at hz
  replace hz : z = pack [(3, r.code), (7, b.code), (7, a.code), (7, d.code), (1, k.toNat), (6, 16), (1, e.toNat)] := by simp only [pack]; omega
  have hb : bounded [(3, r.code), (7, b.code), (7, a.code), (7, d.code), (1, k.toNat), (6, 16), (1, e.toNat)] = true := by simp only [bounded, Bool.and_eq_true, decide_eq_true_eq, and_true]; omega
  have h0 : bitsOf z 25 6 = 16 := bits_pack hz hb 5 rfl
  have h1 : bitsOf z 31 1 = e.toNat := bits_pack hz hb 6 rfl
  have h2 : bitsOf z 24 1 = k.toNat := bits_pack hz hb 4 rfl
  have h3 : bitsOf z 17 7 = d.code := bits_pack hz hb 3 rfl
  have h4 : bitsOf z 10 7 = a.code := bits_pack hz hb 2 rfl
  have h5 : bitsOf z 3 7 = b.code := bits_pack hz hb 1 rfl
  have h6 : bitsOf z 0 3 = r.code := bits_pack hz hb 0 rfl
  refine ⟨?_, hz ▸ pack_lt _ hb⟩
  simp [decodeFields, fields16, reserved, kZero, bitB, regF, predF, enumF, h0, h1, h2, h3, h4, h5, h6, Reg.ofCode_code, bit_eq, Fin.ofNat_val, Except.bind, okBind, Rnd.ofCode_code]

theorem fsub (e k d a b r) : Statement (.fsub e k d a b r) := by
  refine ⟨?_, rfl⟩
  intro z hz
  have e1 := e.toNat_lt
  have k1 := k.toNat_lt
  have d1 := d.code_lt
  have a1 := a.code_lt
  have b1 := b.code_lt
  have r1 := r.code_lt
  simp only [encodeNat, Option.some.injEq, wordOf] at hz
  replace hz : z = pack [(3, r.code), (7, b.code), (7, a.code), (7, d.code), (1, k.toNat), (6, 17), (1, e.toNat)] := by simp only [pack]; omega
  have hb : bounded [(3, r.code), (7, b.code), (7, a.code), (7, d.code), (1, k.toNat), (6, 17), (1, e.toNat)] = true := by simp only [bounded, Bool.and_eq_true, decide_eq_true_eq, and_true]; omega
  have h0 : bitsOf z 25 6 = 17 := bits_pack hz hb 5 rfl
  have h1 : bitsOf z 31 1 = e.toNat := bits_pack hz hb 6 rfl
  have h2 : bitsOf z 24 1 = k.toNat := bits_pack hz hb 4 rfl
  have h3 : bitsOf z 17 7 = d.code := bits_pack hz hb 3 rfl
  have h4 : bitsOf z 10 7 = a.code := bits_pack hz hb 2 rfl
  have h5 : bitsOf z 3 7 = b.code := bits_pack hz hb 1 rfl
  have h6 : bitsOf z 0 3 = r.code := bits_pack hz hb 0 rfl
  refine ⟨?_, hz ▸ pack_lt _ hb⟩
  simp [decodeFields, fields17, reserved, kZero, bitB, regF, predF, enumF, h0, h1, h2, h3, h4, h5, h6, Reg.ofCode_code, bit_eq, Fin.ofNat_val, Except.bind, okBind, Rnd.ofCode_code]

theorem fmul (e k d a b r) : Statement (.fmul e k d a b r) := by
  refine ⟨?_, rfl⟩
  intro z hz
  have e1 := e.toNat_lt
  have k1 := k.toNat_lt
  have d1 := d.code_lt
  have a1 := a.code_lt
  have b1 := b.code_lt
  have r1 := r.code_lt
  simp only [encodeNat, Option.some.injEq, wordOf] at hz
  replace hz : z = pack [(3, r.code), (7, b.code), (7, a.code), (7, d.code), (1, k.toNat), (6, 18), (1, e.toNat)] := by simp only [pack]; omega
  have hb : bounded [(3, r.code), (7, b.code), (7, a.code), (7, d.code), (1, k.toNat), (6, 18), (1, e.toNat)] = true := by simp only [bounded, Bool.and_eq_true, decide_eq_true_eq, and_true]; omega
  have h0 : bitsOf z 25 6 = 18 := bits_pack hz hb 5 rfl
  have h1 : bitsOf z 31 1 = e.toNat := bits_pack hz hb 6 rfl
  have h2 : bitsOf z 24 1 = k.toNat := bits_pack hz hb 4 rfl
  have h3 : bitsOf z 17 7 = d.code := bits_pack hz hb 3 rfl
  have h4 : bitsOf z 10 7 = a.code := bits_pack hz hb 2 rfl
  have h5 : bitsOf z 3 7 = b.code := bits_pack hz hb 1 rfl
  have h6 : bitsOf z 0 3 = r.code := bits_pack hz hb 0 rfl
  refine ⟨?_, hz ▸ pack_lt _ hb⟩
  simp [decodeFields, fields18, reserved, kZero, bitB, regF, predF, enumF, h0, h1, h2, h3, h4, h5, h6, Reg.ofCode_code, bit_eq, Fin.ofNat_val, Except.bind, okBind, Rnd.ofCode_code]

theorem ffma (e k d a b r) : Statement (.ffma e k d a b r) := by
  refine ⟨?_, rfl⟩
  intro z hz
  have e1 := e.toNat_lt
  have k1 := k.toNat_lt
  have d1 := d.code_lt
  have a1 := a.code_lt
  have b1 := b.code_lt
  have r1 := r.code_lt
  simp only [encodeNat, Option.some.injEq, wordOf] at hz
  replace hz : z = pack [(3, r.code), (7, b.code), (7, a.code), (7, d.code), (1, k.toNat), (6, 19), (1, e.toNat)] := by simp only [pack]; omega
  have hb : bounded [(3, r.code), (7, b.code), (7, a.code), (7, d.code), (1, k.toNat), (6, 19), (1, e.toNat)] = true := by simp only [bounded, Bool.and_eq_true, decide_eq_true_eq, and_true]; omega
  have h0 : bitsOf z 25 6 = 19 := bits_pack hz hb 5 rfl
  have h1 : bitsOf z 31 1 = e.toNat := bits_pack hz hb 6 rfl
  have h2 : bitsOf z 24 1 = k.toNat := bits_pack hz hb 4 rfl
  have h3 : bitsOf z 17 7 = d.code := bits_pack hz hb 3 rfl
  have h4 : bitsOf z 10 7 = a.code := bits_pack hz hb 2 rfl
  have h5 : bitsOf z 3 7 = b.code := bits_pack hz hb 1 rfl
  have h6 : bitsOf z 0 3 = r.code := bits_pack hz hb 0 rfl
  refine ⟨?_, hz ▸ pack_lt _ hb⟩
  simp [decodeFields, fields19, reserved, kZero, bitB, regF, predF, enumF, h0, h1, h2, h3, h4, h5, h6, Reg.ofCode_code, bit_eq, Fin.ofNat_val, Except.bind, okBind, Rnd.ofCode_code]

theorem fmin (e k d a b) : Statement (.fmin e k d a b) := by
  refine ⟨?_, rfl⟩
  intro z hz
  have e1 := e.toNat_lt
  have k1 := k.toNat_lt
  have d1 := d.code_lt
  have a1 := a.code_lt
  have b1 := b.code_lt
  simp only [encodeNat, Option.some.injEq, wordOf] at hz
  replace hz : z = pack [(3, 0), (7, b.code), (7, a.code), (7, d.code), (1, k.toNat), (6, 20), (1, e.toNat)] := by simp only [pack]; omega
  have hb : bounded [(3, 0), (7, b.code), (7, a.code), (7, d.code), (1, k.toNat), (6, 20), (1, e.toNat)] = true := by simp only [bounded, Bool.and_eq_true, decide_eq_true_eq, and_true]; omega
  have h0 : bitsOf z 25 6 = 20 := bits_pack hz hb 5 rfl
  have h1 : bitsOf z 0 3 = 0 := bits_pack hz hb 0 rfl
  have h2 : bitsOf z 31 1 = e.toNat := bits_pack hz hb 6 rfl
  have h3 : bitsOf z 24 1 = k.toNat := bits_pack hz hb 4 rfl
  have h4 : bitsOf z 17 7 = d.code := bits_pack hz hb 3 rfl
  have h5 : bitsOf z 10 7 = a.code := bits_pack hz hb 2 rfl
  have h6 : bitsOf z 3 7 = b.code := bits_pack hz hb 1 rfl
  refine ⟨?_, hz ▸ pack_lt _ hb⟩
  simp [decodeFields, fields20, reserved, kZero, bitB, regF, predF, enumF, h0, h1, h2, h3, h4, h5, h6, Reg.ofCode_code, bit_eq, Fin.ofNat_val, Except.bind, okBind]

theorem fmax (e k d a b) : Statement (.fmax e k d a b) := by
  refine ⟨?_, rfl⟩
  intro z hz
  have e1 := e.toNat_lt
  have k1 := k.toNat_lt
  have d1 := d.code_lt
  have a1 := a.code_lt
  have b1 := b.code_lt
  simp only [encodeNat, Option.some.injEq, wordOf] at hz
  replace hz : z = pack [(3, 1), (7, b.code), (7, a.code), (7, d.code), (1, k.toNat), (6, 20), (1, e.toNat)] := by simp only [pack]; omega
  have hb : bounded [(3, 1), (7, b.code), (7, a.code), (7, d.code), (1, k.toNat), (6, 20), (1, e.toNat)] = true := by simp only [bounded, Bool.and_eq_true, decide_eq_true_eq, and_true]; omega
  have h0 : bitsOf z 25 6 = 20 := bits_pack hz hb 5 rfl
  have h1 : bitsOf z 0 3 = 1 := bits_pack hz hb 0 rfl
  have h2 : bitsOf z 31 1 = e.toNat := bits_pack hz hb 6 rfl
  have h3 : bitsOf z 24 1 = k.toNat := bits_pack hz hb 4 rfl
  have h4 : bitsOf z 17 7 = d.code := bits_pack hz hb 3 rfl
  have h5 : bitsOf z 10 7 = a.code := bits_pack hz hb 2 rfl
  have h6 : bitsOf z 3 7 = b.code := bits_pack hz hb 1 rfl
  refine ⟨?_, hz ▸ pack_lt _ hb⟩
  simp [decodeFields, fields20, reserved, kZero, bitB, regF, predF, enumF, h0, h1, h2, h3, h4, h5, h6, Reg.ofCode_code, bit_eq, Fin.ofNat_val, Except.bind, okBind]

theorem frcp (e k d a) : Statement (.frcp e k d a) := by
  refine ⟨?_, rfl⟩
  intro z hz
  have e1 := e.toNat_lt
  have k1 := k.toNat_lt
  have d1 := d.code_lt
  have a1 := a.code_lt
  simp only [encodeNat, Option.some.injEq, wordOf] at hz
  replace hz : z = pack [(3, 2), (7, 0), (7, a.code), (7, d.code), (1, k.toNat), (6, 20), (1, e.toNat)] := by simp only [pack]; omega
  have hb : bounded [(3, 2), (7, 0), (7, a.code), (7, d.code), (1, k.toNat), (6, 20), (1, e.toNat)] = true := by simp only [bounded, Bool.and_eq_true, decide_eq_true_eq, and_true]; omega
  have h0 : bitsOf z 25 6 = 20 := bits_pack hz hb 5 rfl
  have h1 : bitsOf z 0 3 = 2 := bits_pack hz hb 0 rfl
  have h2 : bitsOf z 3 7 = 0 := bits_pack hz hb 1 rfl
  have h3 : bitsOf z 31 1 = e.toNat := bits_pack hz hb 6 rfl
  have h4 : bitsOf z 24 1 = k.toNat := bits_pack hz hb 4 rfl
  have h5 : bitsOf z 17 7 = d.code := bits_pack hz hb 3 rfl
  have h6 : bitsOf z 10 7 = a.code := bits_pack hz hb 2 rfl
  refine ⟨?_, hz ▸ pack_lt _ hb⟩
  simp [decodeFields, fields20, reserved, kZero, bitB, regF, predF, enumF, h0, h1, h2, h3, h4, h5, h6, Reg.ofCode_code, bit_eq, Fin.ofNat_val, Except.bind, okBind]

theorem frsq (e k d a) : Statement (.frsq e k d a) := by
  refine ⟨?_, rfl⟩
  intro z hz
  have e1 := e.toNat_lt
  have k1 := k.toNat_lt
  have d1 := d.code_lt
  have a1 := a.code_lt
  simp only [encodeNat, Option.some.injEq, wordOf] at hz
  replace hz : z = pack [(3, 3), (7, 0), (7, a.code), (7, d.code), (1, k.toNat), (6, 20), (1, e.toNat)] := by simp only [pack]; omega
  have hb : bounded [(3, 3), (7, 0), (7, a.code), (7, d.code), (1, k.toNat), (6, 20), (1, e.toNat)] = true := by simp only [bounded, Bool.and_eq_true, decide_eq_true_eq, and_true]; omega
  have h0 : bitsOf z 25 6 = 20 := bits_pack hz hb 5 rfl
  have h1 : bitsOf z 0 3 = 3 := bits_pack hz hb 0 rfl
  have h2 : bitsOf z 3 7 = 0 := bits_pack hz hb 1 rfl
  have h3 : bitsOf z 31 1 = e.toNat := bits_pack hz hb 6 rfl
  have h4 : bitsOf z 24 1 = k.toNat := bits_pack hz hb 4 rfl
  have h5 : bitsOf z 17 7 = d.code := bits_pack hz hb 3 rfl
  have h6 : bitsOf z 10 7 = a.code := bits_pack hz hb 2 rfl
  refine ⟨?_, hz ▸ pack_lt _ hb⟩
  simp [decodeFields, fields20, reserved, kZero, bitB, regF, predF, enumF, h0, h1, h2, h3, h4, h5, h6, Reg.ofCode_code, bit_eq, Fin.ofNat_val, Except.bind, okBind]

theorem fsqrt (e k d a) : Statement (.fsqrt e k d a) := by
  refine ⟨?_, rfl⟩
  intro z hz
  have e1 := e.toNat_lt
  have k1 := k.toNat_lt
  have d1 := d.code_lt
  have a1 := a.code_lt
  simp only [encodeNat, Option.some.injEq, wordOf] at hz
  replace hz : z = pack [(3, 4), (7, 0), (7, a.code), (7, d.code), (1, k.toNat), (6, 20), (1, e.toNat)] := by simp only [pack]; omega
  have hb : bounded [(3, 4), (7, 0), (7, a.code), (7, d.code), (1, k.toNat), (6, 20), (1, e.toNat)] = true := by simp only [bounded, Bool.and_eq_true, decide_eq_true_eq, and_true]; omega
  have h0 : bitsOf z 25 6 = 20 := bits_pack hz hb 5 rfl
  have h1 : bitsOf z 0 3 = 4 := bits_pack hz hb 0 rfl
  have h2 : bitsOf z 3 7 = 0 := bits_pack hz hb 1 rfl
  have h3 : bitsOf z 31 1 = e.toNat := bits_pack hz hb 6 rfl
  have h4 : bitsOf z 24 1 = k.toNat := bits_pack hz hb 4 rfl
  have h5 : bitsOf z 17 7 = d.code := bits_pack hz hb 3 rfl
  have h6 : bitsOf z 10 7 = a.code := bits_pack hz hb 2 rfl
  refine ⟨?_, hz ▸ pack_lt _ hb⟩
  simp [decodeFields, fields20, reserved, kZero, bitB, regF, predF, enumF, h0, h1, h2, h3, h4, h5, h6, Reg.ofCode_code, bit_eq, Fin.ofNat_val, Except.bind, okBind]

theorem fexp2 (e k d a) : Statement (.fexp2 e k d a) := by
  refine ⟨?_, rfl⟩
  intro z hz
  have e1 := e.toNat_lt
  have k1 := k.toNat_lt
  have d1 := d.code_lt
  have a1 := a.code_lt
  simp only [encodeNat, Option.some.injEq, wordOf] at hz
  replace hz : z = pack [(3, 5), (7, 0), (7, a.code), (7, d.code), (1, k.toNat), (6, 20), (1, e.toNat)] := by simp only [pack]; omega
  have hb : bounded [(3, 5), (7, 0), (7, a.code), (7, d.code), (1, k.toNat), (6, 20), (1, e.toNat)] = true := by simp only [bounded, Bool.and_eq_true, decide_eq_true_eq, and_true]; omega
  have h0 : bitsOf z 25 6 = 20 := bits_pack hz hb 5 rfl
  have h1 : bitsOf z 0 3 = 5 := bits_pack hz hb 0 rfl
  have h2 : bitsOf z 3 7 = 0 := bits_pack hz hb 1 rfl
  have h3 : bitsOf z 31 1 = e.toNat := bits_pack hz hb 6 rfl
  have h4 : bitsOf z 24 1 = k.toNat := bits_pack hz hb 4 rfl
  have h5 : bitsOf z 17 7 = d.code := bits_pack hz hb 3 rfl
  have h6 : bitsOf z 10 7 = a.code := bits_pack hz hb 2 rfl
  refine ⟨?_, hz ▸ pack_lt _ hb⟩
  simp [decodeFields, fields20, reserved, kZero, bitB, regF, predF, enumF, h0, h1, h2, h3, h4, h5, h6, Reg.ofCode_code, bit_eq, Fin.ofNat_val, Except.bind, okBind]

theorem flog2 (e k d a) : Statement (.flog2 e k d a) := by
  refine ⟨?_, rfl⟩
  intro z hz
  have e1 := e.toNat_lt
  have k1 := k.toNat_lt
  have d1 := d.code_lt
  have a1 := a.code_lt
  simp only [encodeNat, Option.some.injEq, wordOf] at hz
  replace hz : z = pack [(3, 6), (7, 0), (7, a.code), (7, d.code), (1, k.toNat), (6, 20), (1, e.toNat)] := by simp only [pack]; omega
  have hb : bounded [(3, 6), (7, 0), (7, a.code), (7, d.code), (1, k.toNat), (6, 20), (1, e.toNat)] = true := by simp only [bounded, Bool.and_eq_true, decide_eq_true_eq, and_true]; omega
  have h0 : bitsOf z 25 6 = 20 := bits_pack hz hb 5 rfl
  have h1 : bitsOf z 0 3 = 6 := bits_pack hz hb 0 rfl
  have h2 : bitsOf z 3 7 = 0 := bits_pack hz hb 1 rfl
  have h3 : bitsOf z 31 1 = e.toNat := bits_pack hz hb 6 rfl
  have h4 : bitsOf z 24 1 = k.toNat := bits_pack hz hb 4 rfl
  have h5 : bitsOf z 17 7 = d.code := bits_pack hz hb 3 rfl
  have h6 : bitsOf z 10 7 = a.code := bits_pack hz hb 2 rfl
  refine ⟨?_, hz ▸ pack_lt _ hb⟩
  simp [decodeFields, fields20, reserved, kZero, bitB, regF, predF, enumF, h0, h1, h2, h3, h4, h5, h6, Reg.ofCode_code, bit_eq, Fin.ofNat_val, Except.bind, okBind]

theorem fsinpi (e k d a) : Statement (.fsinpi e k d a) := by
  refine ⟨?_, rfl⟩
  intro z hz
  have e1 := e.toNat_lt
  have k1 := k.toNat_lt
  have d1 := d.code_lt
  have a1 := a.code_lt
  simp only [encodeNat, Option.some.injEq, wordOf] at hz
  replace hz : z = pack [(3, 7), (7, 0), (7, a.code), (7, d.code), (1, k.toNat), (6, 20), (1, e.toNat)] := by simp only [pack]; omega
  have hb : bounded [(3, 7), (7, 0), (7, a.code), (7, d.code), (1, k.toNat), (6, 20), (1, e.toNat)] = true := by simp only [bounded, Bool.and_eq_true, decide_eq_true_eq, and_true]; omega
  have h0 : bitsOf z 25 6 = 20 := bits_pack hz hb 5 rfl
  have h1 : bitsOf z 0 3 = 7 := bits_pack hz hb 0 rfl
  have h2 : bitsOf z 3 7 = 0 := bits_pack hz hb 1 rfl
  have h3 : bitsOf z 31 1 = e.toNat := bits_pack hz hb 6 rfl
  have h4 : bitsOf z 24 1 = k.toNat := bits_pack hz hb 4 rfl
  have h5 : bitsOf z 17 7 = d.code := bits_pack hz hb 3 rfl
  have h6 : bitsOf z 10 7 = a.code := bits_pack hz hb 2 rfl
  refine ⟨?_, hz ▸ pack_lt _ hb⟩
  simp [decodeFields, fields20, reserved, kZero, bitB, regF, predF, enumF, h0, h1, h2, h3, h4, h5, h6, Reg.ofCode_code, bit_eq, Fin.ofNat_val, Except.bind, okBind]

theorem fcospi (e k d a) : Statement (.fcospi e k d a) := by
  refine ⟨?_, rfl⟩
  intro z hz
  have e1 := e.toNat_lt
  have k1 := k.toNat_lt
  have d1 := d.code_lt
  have a1 := a.code_lt
  simp only [encodeNat, Option.some.injEq, wordOf] at hz
  replace hz : z = pack [(3, 0), (7, 0), (7, a.code), (7, d.code), (1, k.toNat), (6, 21), (1, e.toNat)] := by simp only [pack]; omega
  have hb : bounded [(3, 0), (7, 0), (7, a.code), (7, d.code), (1, k.toNat), (6, 21), (1, e.toNat)] = true := by simp only [bounded, Bool.and_eq_true, decide_eq_true_eq, and_true]; omega
  have h0 : bitsOf z 25 6 = 21 := bits_pack hz hb 5 rfl
  have h1 : bitsOf z 0 3 = 0 := bits_pack hz hb 0 rfl
  have h2 : bitsOf z 3 7 = 0 := bits_pack hz hb 1 rfl
  have h3 : bitsOf z 31 1 = e.toNat := bits_pack hz hb 6 rfl
  have h4 : bitsOf z 24 1 = k.toNat := bits_pack hz hb 4 rfl
  have h5 : bitsOf z 17 7 = d.code := bits_pack hz hb 3 rfl
  have h6 : bitsOf z 10 7 = a.code := bits_pack hz hb 2 rfl
  refine ⟨?_, hz ▸ pack_lt _ hb⟩
  simp [decodeFields, fields21, reserved, kZero, bitB, regF, predF, enumF, h0, h1, h2, h3, h4, h5, h6, Reg.ofCode_code, bit_eq, Fin.ofNat_val, Except.bind, okBind]

theorem fclass (e k d a) : Statement (.fclass e k d a) := by
  refine ⟨?_, rfl⟩
  intro z hz
  have e1 := e.toNat_lt
  have k1 := k.toNat_lt
  have d1 := d.code_lt
  have a1 := a.code_lt
  simp only [encodeNat, Option.some.injEq, wordOf] at hz
  replace hz : z = pack [(3, 1), (7, 0), (7, a.code), (7, d.code), (1, k.toNat), (6, 21), (1, e.toNat)] := by simp only [pack]; omega
  have hb : bounded [(3, 1), (7, 0), (7, a.code), (7, d.code), (1, k.toNat), (6, 21), (1, e.toNat)] = true := by simp only [bounded, Bool.and_eq_true, decide_eq_true_eq, and_true]; omega
  have h0 : bitsOf z 25 6 = 21 := bits_pack hz hb 5 rfl
  have h1 : bitsOf z 0 3 = 1 := bits_pack hz hb 0 rfl
  have h2 : bitsOf z 3 7 = 0 := bits_pack hz hb 1 rfl
  have h3 : bitsOf z 31 1 = e.toNat := bits_pack hz hb 6 rfl
  have h4 : bitsOf z 24 1 = k.toNat := bits_pack hz hb 4 rfl
  have h5 : bitsOf z 17 7 = d.code := bits_pack hz hb 3 rfl
  have h6 : bitsOf z 10 7 = a.code := bits_pack hz hb 2 rfl
  refine ⟨?_, hz ▸ pack_lt _ hb⟩
  simp [decodeFields, fields21, reserved, kZero, bitB, regF, predF, enumF, h0, h1, h2, h3, h4, h5, h6, Reg.ofCode_code, bit_eq, Fin.ofNat_val, Except.bind, okBind]

theorem hadd2 (e k d a b) : Statement (.hadd2 e k d a b) := by
  refine ⟨?_, rfl⟩
  intro z hz
  have e1 := e.toNat_lt
  have k1 := k.toNat_lt
  have d1 := d.code_lt
  have a1 := a.code_lt
  have b1 := b.code_lt
  simp only [encodeNat, Option.some.injEq, wordOf] at hz
  replace hz : z = pack [(3, 2), (7, b.code), (7, a.code), (7, d.code), (1, k.toNat), (6, 21), (1, e.toNat)] := by simp only [pack]; omega
  have hb : bounded [(3, 2), (7, b.code), (7, a.code), (7, d.code), (1, k.toNat), (6, 21), (1, e.toNat)] = true := by simp only [bounded, Bool.and_eq_true, decide_eq_true_eq, and_true]; omega
  have h0 : bitsOf z 25 6 = 21 := bits_pack hz hb 5 rfl
  have h1 : bitsOf z 0 3 = 2 := bits_pack hz hb 0 rfl
  have h2 : bitsOf z 31 1 = e.toNat := bits_pack hz hb 6 rfl
  have h3 : bitsOf z 24 1 = k.toNat := bits_pack hz hb 4 rfl
  have h4 : bitsOf z 17 7 = d.code := bits_pack hz hb 3 rfl
  have h5 : bitsOf z 10 7 = a.code := bits_pack hz hb 2 rfl
  have h6 : bitsOf z 3 7 = b.code := bits_pack hz hb 1 rfl
  refine ⟨?_, hz ▸ pack_lt _ hb⟩
  simp [decodeFields, fields21, reserved, kZero, bitB, regF, predF, enumF, h0, h1, h2, h3, h4, h5, h6, Reg.ofCode_code, bit_eq, Fin.ofNat_val, Except.bind, okBind]

theorem hmul2 (e k d a b) : Statement (.hmul2 e k d a b) := by
  refine ⟨?_, rfl⟩
  intro z hz
  have e1 := e.toNat_lt
  have k1 := k.toNat_lt
  have d1 := d.code_lt
  have a1 := a.code_lt
  have b1 := b.code_lt
  simp only [encodeNat, Option.some.injEq, wordOf] at hz
  replace hz : z = pack [(3, 3), (7, b.code), (7, a.code), (7, d.code), (1, k.toNat), (6, 21), (1, e.toNat)] := by simp only [pack]; omega
  have hb : bounded [(3, 3), (7, b.code), (7, a.code), (7, d.code), (1, k.toNat), (6, 21), (1, e.toNat)] = true := by simp only [bounded, Bool.and_eq_true, decide_eq_true_eq, and_true]; omega
  have h0 : bitsOf z 25 6 = 21 := bits_pack hz hb 5 rfl
  have h1 : bitsOf z 0 3 = 3 := bits_pack hz hb 0 rfl
  have h2 : bitsOf z 31 1 = e.toNat := bits_pack hz hb 6 rfl
  have h3 : bitsOf z 24 1 = k.toNat := bits_pack hz hb 4 rfl
  have h4 : bitsOf z 17 7 = d.code := bits_pack hz hb 3 rfl
  have h5 : bitsOf z 10 7 = a.code := bits_pack hz hb 2 rfl
  have h6 : bitsOf z 3 7 = b.code := bits_pack hz hb 1 rfl
  refine ⟨?_, hz ▸ pack_lt _ hb⟩
  simp [decodeFields, fields21, reserved, kZero, bitB, regF, predF, enumF, h0, h1, h2, h3, h4, h5, h6, Reg.ofCode_code, bit_eq, Fin.ofNat_val, Except.bind, okBind]

theorem hfma2 (e k d a b) : Statement (.hfma2 e k d a b) := by
  refine ⟨?_, rfl⟩
  intro z hz
  have e1 := e.toNat_lt
  have k1 := k.toNat_lt
  have d1 := d.code_lt
  have a1 := a.code_lt
  have b1 := b.code_lt
  simp only [encodeNat, Option.some.injEq, wordOf] at hz
  replace hz : z = pack [(3, 4), (7, b.code), (7, a.code), (7, d.code), (1, k.toNat), (6, 21), (1, e.toNat)] := by simp only [pack]; omega
  have hb : bounded [(3, 4), (7, b.code), (7, a.code), (7, d.code), (1, k.toNat), (6, 21), (1, e.toNat)] = true := by simp only [bounded, Bool.and_eq_true, decide_eq_true_eq, and_true]; omega
  have h0 : bitsOf z 25 6 = 21 := bits_pack hz hb 5 rfl
  have h1 : bitsOf z 0 3 = 4 := bits_pack hz hb 0 rfl
  have h2 : bitsOf z 31 1 = e.toNat := bits_pack hz hb 6 rfl
  have h3 : bitsOf z 24 1 = k.toNat := bits_pack hz hb 4 rfl
  have h4 : bitsOf z 17 7 = d.code := bits_pack hz hb 3 rfl
  have h5 : bitsOf z 10 7 = a.code := bits_pack hz hb 2 rfl
  have h6 : bitsOf z 3 7 = b.code := bits_pack hz hb 1 rfl
  refine ⟨?_, hz ▸ pack_lt _ hb⟩
  simp [decodeFields, fields21, reserved, kZero, bitB, regF, predF, enumF, h0, h1, h2, h3, h4, h5, h6, Reg.ofCode_code, bit_eq, Fin.ofNat_val, Except.bind, okBind]

theorem dot4S8 (e k d a b) : Statement (.dot4S8 e k d a b) := by
  refine ⟨?_, rfl⟩
  intro z hz
  have e1 := e.toNat_lt
  have k1 := k.toNat_lt
  have d1 := d.code_lt
  have a1 := a.code_lt
  have b1 := b.code_lt
  simp only [encodeNat, Option.some.injEq, wordOf] at hz
  replace hz : z = pack [(3, 5), (7, b.code), (7, a.code), (7, d.code), (1, k.toNat), (6, 21), (1, e.toNat)] := by simp only [pack]; omega
  have hb : bounded [(3, 5), (7, b.code), (7, a.code), (7, d.code), (1, k.toNat), (6, 21), (1, e.toNat)] = true := by simp only [bounded, Bool.and_eq_true, decide_eq_true_eq, and_true]; omega
  have h0 : bitsOf z 25 6 = 21 := bits_pack hz hb 5 rfl
  have h1 : bitsOf z 0 3 = 5 := bits_pack hz hb 0 rfl
  have h2 : bitsOf z 31 1 = e.toNat := bits_pack hz hb 6 rfl
  have h3 : bitsOf z 24 1 = k.toNat := bits_pack hz hb 4 rfl
  have h4 : bitsOf z 17 7 = d.code := bits_pack hz hb 3 rfl
  have h5 : bitsOf z 10 7 = a.code := bits_pack hz hb 2 rfl
  have h6 : bitsOf z 3 7 = b.code := bits_pack hz hb 1 rfl
  refine ⟨?_, hz ▸ pack_lt _ hb⟩
  simp [decodeFields, fields21, reserved, kZero, bitB, regF, predF, enumF, h0, h1, h2, h3, h4, h5, h6, Reg.ofCode_code, bit_eq, Fin.ofNat_val, Except.bind, okBind]

theorem dot4Z8 (e k d a b) : Statement (.dot4Z8 e k d a b) := by
  refine ⟨?_, rfl⟩
  intro z hz
  have e1 := e.toNat_lt
  have k1 := k.toNat_lt
  have d1 := d.code_lt
  have a1 := a.code_lt
  have b1 := b.code_lt
  simp only [encodeNat, Option.some.injEq, wordOf] at hz
  replace hz : z = pack [(3, 6), (7, b.code), (7, a.code), (7, d.code), (1, k.toNat), (6, 21), (1, e.toNat)] := by simp only [pack]; omega
  have hb : bounded [(3, 6), (7, b.code), (7, a.code), (7, d.code), (1, k.toNat), (6, 21), (1, e.toNat)] = true := by simp only [bounded, Bool.and_eq_true, decide_eq_true_eq, and_true]; omega
  have h0 : bitsOf z 25 6 = 21 := bits_pack hz hb 5 rfl
  have h1 : bitsOf z 0 3 = 6 := bits_pack hz hb 0 rfl
  have h2 : bitsOf z 31 1 = e.toNat := bits_pack hz hb 6 rfl
  have h3 : bitsOf z 24 1 = k.toNat := bits_pack hz hb 4 rfl
  have h4 : bitsOf z 17 7 = d.code := bits_pack hz hb 3 rfl
  have h5 : bitsOf z 10 7 = a.code := bits_pack hz hb 2 rfl
  have h6 : bitsOf z 3 7 = b.code := bits_pack hz hb 1 rfl
  refine ⟨?_, hz ▸ pack_lt _ hb⟩
  simp [decodeFields, fields21, reserved, kZero, bitB, regF, predF, enumF, h0, h1, h2, h3, h4, h5, h6, Reg.ofCode_code, bit_eq, Fin.ofNat_val, Except.bind, okBind]

theorem fcmp (e d a b c) : Statement (.fcmp e d a b c) := by
  refine ⟨?_, rfl⟩
  intro z hz
  have e1 := e.toNat_lt
  have d1 := d.isLt
  have a1 := a.code_lt
  have b1 := b.code_lt
  have c1 := c.code_lt
  simp only [encodeNat, Option.some.injEq, wordOf, Bool.toNat_false] at hz
  replace hz : z = pack [(3, c.code), (7, b.code), (7, a.code), (7, d.val), (1, 0), (6, 22), (1, e.toNat)] := by simp only [pack]; omega
  have hb : bounded [(3, c.code), (7, b.code), (7, a.code), (7, d.val), (1, 0), (6, 22), (1, e.toNat)] = true := by simp only [bounded, Bool.and_eq_true, decide_eq_true_eq, and_true]; omega
  have h0 : bitsOf z 25 6 = 22 := bits_pack hz hb 5 rfl
  have h1 : bitsOf z 31 1 = e.toNat := bits_pack hz hb 6 rfl
  have h2 : bitsOf z 17 7 = d.val := bits_pack hz hb 3 rfl
  have h3 : bitsOf z 10 7 = a.code := bits_pack hz hb 2 rfl
  have h4 : bitsOf z 3 7 = b.code := bits_pack hz hb 1 rfl
  have h5 : bitsOf z 0 3 = c.code := bits_pack hz hb 0 rfl
  have h6 : bitsOf z 24 1 = 0 := bits_pack hz hb 4 rfl
  refine ⟨?_, hz ▸ pack_lt _ hb⟩
  simp [decodeFields, fields22, reserved, kZero, bitB, regF, predF, enumF, h0, h1, h2, h3, h4, h5, h6, Reg.ofCode_code, bit_eq, Fin.ofNat_val, Except.bind, okBind, FCond.ofCode_code, d1]

theorem cvt (e k d a f r s) : Statement (.cvt e k d a f r s) := by
  refine ⟨?_, rfl⟩
  intro z hz
  have e1 := e.toNat_lt
  have k1 := k.toNat_lt
  have d1 := d.code_lt
  have a1 := a.code_lt
  have f1 := f.code_lt
  have r1 := r.code_lt
  have s1 := s.isLt
  simp only [encodeNat, Option.some.injEq, wordOf] at hz
  replace hz : z = pack [(3, s.val), (3, r.code), (4, f.code), (7, a.code), (7, d.code), (1, k.toNat), (6, 23), (1, e.toNat)] := by simp only [pack]; omega
  have hb : bounded [(3, s.val), (3, r.code), (4, f.code), (7, a.code), (7, d.code), (1, k.toNat), (6, 23), (1, e.toNat)] = true := by simp only [bounded, Bool.and_eq_true, decide_eq_true_eq, and_true]; omega
  have h0 : bitsOf z 25 6 = 23 := bits_pack hz hb 6 rfl
  have h1 : bitsOf z 0 3 = s.val := bits_pack hz hb 0 rfl
  have h2 : bitsOf z 31 1 = e.toNat := bits_pack hz hb 7 rfl
  have h3 : bitsOf z 24 1 = k.toNat := bits_pack hz hb 5 rfl
  have h4 : bitsOf z 17 7 = d.code := bits_pack hz hb 4 rfl
  have h5 : bitsOf z 10 7 = a.code := bits_pack hz hb 3 rfl
  have h6 : bitsOf z 6 4 = f.code := bits_pack hz hb 2 rfl
  have h7 : bitsOf z 3 3 = r.code := bits_pack hz hb 1 rfl
  refine ⟨?_, hz ▸ pack_lt _ hb⟩
  simp [decodeFields, fields23, reserved, kZero, bitB, regF, predF, enumF, h0, h1, h2, h3, h4, h5, h6, h7, Reg.ofCode_code, bit_eq, Fin.ofNat_val, Except.bind, okBind, Fmt.ofCode_code, Rnd.ofCode_code]

theorem cvtFloatSource (e k d a f r s) : Statement (.cvtFloatSource e k d a f r s) := by
  refine ⟨?_, rfl⟩
  intro z hz
  have e1 := e.toNat_lt
  have k1 := k.toNat_lt
  have d1 := d.code_lt
  have a1 := a.code_lt
  have f1 := f.code_lt
  have r1 := r.code_lt
  have s1 := s.isLt
  simp only [encodeNat, Option.some.injEq, wordOf] at hz
  replace hz : z = pack [(3, s.val), (3, r.code), (4, f.code), (7, a.code), (7, d.code), (1, k.toNat), (6, 24), (1, e.toNat)] := by simp only [pack]; omega
  have hb : bounded [(3, s.val), (3, r.code), (4, f.code), (7, a.code), (7, d.code), (1, k.toNat), (6, 24), (1, e.toNat)] = true := by simp only [bounded, Bool.and_eq_true, decide_eq_true_eq, and_true]; omega
  have h0 : bitsOf z 25 6 = 24 := bits_pack hz hb 6 rfl
  have h1 : bitsOf z 0 3 = s.val := bits_pack hz hb 0 rfl
  have h2 : bitsOf z 31 1 = e.toNat := bits_pack hz hb 7 rfl
  have h3 : bitsOf z 24 1 = k.toNat := bits_pack hz hb 5 rfl
  have h4 : bitsOf z 17 7 = d.code := bits_pack hz hb 4 rfl
  have h5 : bitsOf z 10 7 = a.code := bits_pack hz hb 3 rfl
  have h6 : bitsOf z 6 4 = f.code := bits_pack hz hb 2 rfl
  have h7 : bitsOf z 3 3 = r.code := bits_pack hz hb 1 rfl
  refine ⟨?_, hz ▸ pack_lt _ hb⟩
  simp [decodeFields, fields24, reserved, kZero, bitB, regF, predF, enumF, h0, h1, h2, h3, h4, h5, h6, h7, Reg.ofCode_code, bit_eq, Fin.ofNat_val, Except.bind, okBind, Fmt.ofCode_code, Rnd.ofCode_code]

theorem frnd (e k d a r) : Statement (.frnd e k d a r) := by
  refine ⟨?_, rfl⟩
  intro z hz
  have e1 := e.toNat_lt
  have k1 := k.toNat_lt
  have d1 := d.code_lt
  have a1 := a.code_lt
  have r1 := r.code_lt
  simp only [encodeNat, Option.some.injEq, wordOf] at hz
  replace hz : z = pack [(3, r.code), (7, 0), (7, a.code), (7, d.code), (1, k.toNat), (6, 25), (1, e.toNat)] := by simp only [pack]; omega
  have hb : bounded [(3, r.code), (7, 0), (7, a.code), (7, d.code), (1, k.toNat), (6, 25), (1, e.toNat)] = true := by simp only [bounded, Bool.and_eq_true, decide_eq_true_eq, and_true]; omega
  have h0 : bitsOf z 25 6 = 25 := bits_pack hz hb 5 rfl
  have h1 : bitsOf z 3 7 = 0 := bits_pack hz hb 1 rfl
  have h2 : bitsOf z 31 1 = e.toNat := bits_pack hz hb 6 rfl
  have h3 : bitsOf z 24 1 = k.toNat := bits_pack hz hb 4 rfl
  have h4 : bitsOf z 17 7 = d.code := bits_pack hz hb 3 rfl
  have h5 : bitsOf z 10 7 = a.code := bits_pack hz hb 2 rfl
  have h6 : bitsOf z 0 3 = r.code := bits_pack hz hb 0 rfl
  refine ⟨?_, hz ▸ pack_lt _ hb⟩
  simp [decodeFields, fields25, reserved, kZero, bitB, regF, predF, enumF, h0, h1, h2, h3, h4, h5, h6, Reg.ofCode_code, bit_eq, Fin.ofNat_val, Except.bind, okBind, Rnd.ofCode_code]

theorem shfl (e k d a b m) : Statement (.shfl e k d a b m) := by
  refine ⟨?_, rfl⟩
  intro z hz
  have e1 := e.toNat_lt
  have k1 := k.toNat_lt
  have d1 := d.code_lt
  have a1 := a.code_lt
  have b1 := b.code_lt
  have m1 := m.code_lt
  simp only [encodeNat, Option.some.injEq, wordOf] at hz
  replace hz : z = pack [(3, m.code), (7, b.code), (7, a.code), (7, d.code), (1, k.toNat), (6, 26), (1, e.toNat)] := by simp only [pack]; omega
  have hb : bounded [(3, m.code), (7, b.code), (7, a.code), (7, d.code), (1, k.toNat), (6, 26), (1, e.toNat)] = true := by simp only [bounded, Bool.and_eq_true, decide_eq_true_eq, and_true]; omega
  have h0 : bitsOf z 25 6 = 26 := bits_pack hz hb 5 rfl
  have h1 : bitsOf z 0 3 = m.code := bits_pack hz hb 0 rfl
  have h2 : bitsOf z 31 1 = e.toNat := bits_pack hz hb 6 rfl
  have h3 : bitsOf z 24 1 = k.toNat := bits_pack hz hb 4 rfl
  have h4 : bitsOf z 17 7 = d.code := bits_pack hz hb 3 rfl
  have h5 : bitsOf z 10 7 = a.code := bits_pack hz hb 2 rfl
  have h6 : bitsOf z 3 7 = b.code := bits_pack hz hb 1 rfl
  have h7 : bitsOf z 0 2 = m.code := by simp only [bitsOf, hz, pack]; omega
  refine ⟨?_, hz ▸ pack_lt _ hb⟩
  have hc : m.code < 4 := m1
  cases m <;> simp [decodeFields, fields26, reserved, kZero, bitB, regF, predF, enumF, h0, h1, h2, h3, h4, h5, h6, h7, Reg.ofCode_code, bit_eq, Fin.ofNat_val, Except.bind, okBind, Shfl.ofCode_code, Shfl.code, Shfl.ofCode?]

theorem voteAny (e d a) : Statement (.voteAny e d a) := by
  refine ⟨?_, rfl⟩
  intro z hz
  have e1 := e.toNat_lt
  have d1 := d.isLt
  have a1 := a.isLt
  simp only [encodeNat, Option.some.injEq, wordOf, Bool.toNat_false] at hz
  replace hz : z = pack [(3, 0), (7, 0), (7, a.val), (7, d.val), (1, 0), (6, 27), (1, e.toNat)] := by simp only [pack]; omega
  have hb : bounded [(3, 0), (7, 0), (7, a.val), (7, d.val), (1, 0), (6, 27), (1, e.toNat)] = true := by simp only [bounded, Bool.and_eq_true, decide_eq_true_eq, and_true]; omega
  have h0 : bitsOf z 25 6 = 27 := bits_pack hz hb 5 rfl
  have h1 : bitsOf z 0 3 = 0 := bits_pack hz hb 0 rfl
  have h2 : bitsOf z 3 7 = 0 := bits_pack hz hb 1 rfl
  have h3 : bitsOf z 31 1 = e.toNat := bits_pack hz hb 6 rfl
  have h4 : bitsOf z 17 7 = d.val := bits_pack hz hb 3 rfl
  have h5 : bitsOf z 10 7 = a.val := bits_pack hz hb 2 rfl
  have h6 : bitsOf z 24 1 = 0 := bits_pack hz hb 4 rfl
  refine ⟨?_, hz ▸ pack_lt _ hb⟩
  simp [decodeFields, fields27, reserved, kZero, bitB, regF, predF, enumF, h0, h1, h2, h3, h4, h5, h6, Reg.ofCode_code, bit_eq, Fin.ofNat_val, Except.bind, okBind, d1, a1]

theorem voteAll (e d a) : Statement (.voteAll e d a) := by
  refine ⟨?_, rfl⟩
  intro z hz
  have e1 := e.toNat_lt
  have d1 := d.isLt
  have a1 := a.isLt
  simp only [encodeNat, Option.some.injEq, wordOf, Bool.toNat_false] at hz
  replace hz : z = pack [(3, 1), (7, 0), (7, a.val), (7, d.val), (1, 0), (6, 27), (1, e.toNat)] := by simp only [pack]; omega
  have hb : bounded [(3, 1), (7, 0), (7, a.val), (7, d.val), (1, 0), (6, 27), (1, e.toNat)] = true := by simp only [bounded, Bool.and_eq_true, decide_eq_true_eq, and_true]; omega
  have h0 : bitsOf z 25 6 = 27 := bits_pack hz hb 5 rfl
  have h1 : bitsOf z 0 3 = 1 := bits_pack hz hb 0 rfl
  have h2 : bitsOf z 3 7 = 0 := bits_pack hz hb 1 rfl
  have h3 : bitsOf z 31 1 = e.toNat := bits_pack hz hb 6 rfl
  have h4 : bitsOf z 17 7 = d.val := bits_pack hz hb 3 rfl
  have h5 : bitsOf z 10 7 = a.val := bits_pack hz hb 2 rfl
  have h6 : bitsOf z 24 1 = 0 := bits_pack hz hb 4 rfl
  refine ⟨?_, hz ▸ pack_lt _ hb⟩
  simp [decodeFields, fields27, reserved, kZero, bitB, regF, predF, enumF, h0, h1, h2, h3, h4, h5, h6, Reg.ofCode_code, bit_eq, Fin.ofNat_val, Except.bind, okBind, d1, a1]

theorem voteBallot (e k d a) : Statement (.voteBallot e k d a) := by
  refine ⟨?_, rfl⟩
  intro z hz
  have e1 := e.toNat_lt
  have k1 := k.toNat_lt
  have d1 := d.code_lt
  have a1 := a.isLt
  simp only [encodeNat, Option.some.injEq, wordOf] at hz
  replace hz : z = pack [(3, 2), (7, 0), (7, a.val), (7, d.code), (1, k.toNat), (6, 27), (1, e.toNat)] := by simp only [pack]; omega
  have hb : bounded [(3, 2), (7, 0), (7, a.val), (7, d.code), (1, k.toNat), (6, 27), (1, e.toNat)] = true := by simp only [bounded, Bool.and_eq_true, decide_eq_true_eq, and_true]; omega
  have h0 : bitsOf z 25 6 = 27 := bits_pack hz hb 5 rfl
  have h1 : bitsOf z 0 3 = 2 := bits_pack hz hb 0 rfl
  have h2 : bitsOf z 3 7 = 0 := bits_pack hz hb 1 rfl
  have h3 : bitsOf z 31 1 = e.toNat := bits_pack hz hb 6 rfl
  have h4 : bitsOf z 24 1 = k.toNat := bits_pack hz hb 4 rfl
  have h5 : bitsOf z 10 7 = a.val := bits_pack hz hb 2 rfl
  have h6 : bitsOf z 17 7 = d.code := bits_pack hz hb 3 rfl
  refine ⟨?_, hz ▸ pack_lt _ hb⟩
  simp [decodeFields, fields27, reserved, kZero, bitB, regF, predF, enumF, h0, h1, h2, h3, h4, h5, h6, Reg.ofCode_code, bit_eq, Fin.ofNat_val, Except.bind, okBind, a1]

theorem voteEq (e d a) : Statement (.voteEq e d a) := by
  refine ⟨?_, rfl⟩
  intro z hz
  have e1 := e.toNat_lt
  have d1 := d.isLt
  have a1 := a.code_lt
  simp only [encodeNat, Option.some.injEq, wordOf, Bool.toNat_false] at hz
  replace hz : z = pack [(3, 3), (7, 0), (7, a.code), (7, d.val), (1, 0), (6, 27), (1, e.toNat)] := by simp only [pack]; omega
  have hb : bounded [(3, 3), (7, 0), (7, a.code), (7, d.val), (1, 0), (6, 27), (1, e.toNat)] = true := by simp only [bounded, Bool.and_eq_true, decide_eq_true_eq, and_true]; omega
  have h0 : bitsOf z 25 6 = 27 := bits_pack hz hb 5 rfl
  have h1 : bitsOf z 0 3 = 3 := bits_pack hz hb 0 rfl
  have h2 : bitsOf z 3 7 = 0 := bits_pack hz hb 1 rfl
  have h3 : bitsOf z 31 1 = e.toNat := bits_pack hz hb 6 rfl
  have h4 : bitsOf z 17 7 = d.val := bits_pack hz hb 3 rfl
  have h5 : bitsOf z 10 7 = a.code := bits_pack hz hb 2 rfl
  have h6 : bitsOf z 24 1 = 0 := bits_pack hz hb 4 rfl
  refine ⟨?_, hz ▸ pack_lt _ hb⟩
  simp [decodeFields, fields27, reserved, kZero, bitB, regF, predF, enumF, h0, h1, h2, h3, h4, h5, h6, Reg.ofCode_code, bit_eq, Fin.ofNat_val, Except.bind, okBind, d1]

theorem wred (e k d a o) : Statement (.wred e k d a o) := by
  refine ⟨?_, rfl⟩
  intro z hz
  have e1 := e.toNat_lt
  have k1 := k.toNat_lt
  have d1 := d.code_lt
  have a1 := a.code_lt
  have o1 := o.code_lt
  simp only [encodeNat, Option.some.injEq, wordOf] at hz
  replace hz : z = pack [(3, o.code), (7, 0), (7, a.code), (7, d.code), (1, k.toNat), (6, 28), (1, e.toNat)] := by simp only [pack]; omega
  have hb : bounded [(3, o.code), (7, 0), (7, a.code), (7, d.code), (1, k.toNat), (6, 28), (1, e.toNat)] = true := by simp only [bounded, Bool.and_eq_true, decide_eq_true_eq, and_true]; omega
  have h0 : bitsOf z 25 6 = 28 := bits_pack hz hb 5 rfl
  have h1 : bitsOf z 3 7 = 0 := bits_pack hz hb 1 rfl
  have h2 : bitsOf z 31 1 = e.toNat := bits_pack hz hb 6 rfl
  have h3 : bitsOf z 24 1 = k.toNat := bits_pack hz hb 4 rfl
  have h4 : bitsOf z 17 7 = d.code := bits_pack hz hb 3 rfl
  have h5 : bitsOf z 10 7 = a.code := bits_pack hz hb 2 rfl
  have h6 : bitsOf z 0 3 = o.code := bits_pack hz hb 0 rfl
  refine ⟨?_, hz ▸ pack_lt _ hb⟩
  simp [decodeFields, fields28, reserved, kZero, bitB, regF, predF, enumF, h0, h1, h2, h3, h4, h5, h6, Reg.ofCode_code, bit_eq, Fin.ofNat_val, Except.bind, okBind, RedOp.ofCode_code]

theorem wscan (e k d a x o) : Statement (.wscan e k d a x o) := by
  refine ⟨?_, rfl⟩
  intro z hz
  have e1 := e.toNat_lt
  have k1 := k.toNat_lt
  have d1 := d.code_lt
  have a1 := a.code_lt
  have x1 := x.toNat_lt
  have o1 := o.code_lt
  simp only [encodeNat, Option.some.injEq, wordOf] at hz
  replace hz : z = pack [(3, o.code), (1, x.toNat), (6, 0), (7, a.code), (7, d.code), (1, k.toNat), (6, 29), (1, e.toNat)] := by simp only [pack]; omega
  have hb : bounded [(3, o.code), (1, x.toNat), (6, 0), (7, a.code), (7, d.code), (1, k.toNat), (6, 29), (1, e.toNat)] = true := by simp only [bounded, Bool.and_eq_true, decide_eq_true_eq, and_true]; omega
  have h0 : bitsOf z 25 6 = 29 := bits_pack hz hb 6 rfl
  have h1 : bitsOf z 4 6 = 0 := bits_pack hz hb 2 rfl
  have h2 : bitsOf z 31 1 = e.toNat := bits_pack hz hb 7 rfl
  have h3 : bitsOf z 24 1 = k.toNat := bits_pack hz hb 5 rfl
  have h4 : bitsOf z 3 1 = x.toNat := bits_pack hz hb 1 rfl
  have h5 : bitsOf z 17 7 = d.code := bits_pack hz hb 4 rfl
  have h6 : bitsOf z 10 7 = a.code := bits_pack hz hb 3 rfl
  have h7 : bitsOf z 0 3 = o.code := bits_pack hz hb 0 rfl
  refine ⟨?_, hz ▸ pack_lt _ hb⟩
  simp [decodeFields, fields29, reserved, kZero, bitB, regF, predF, enumF, h0, h1, h2, h3, h4, h5, h6, h7, Reg.ofCode_code, bit_eq, Fin.ofNat_val, Except.bind, okBind, RedOp.ofCode_code]

theorem pmovR2p (e d a) : Statement (.pmovR2p e d a) := by
  refine ⟨?_, rfl⟩
  intro z hz
  have e1 := e.toNat_lt
  have d1 := d.isLt
  have a1 := a.code_lt
  simp only [encodeNat, Option.some.injEq, wordOf, Bool.toNat_false] at hz
  replace hz : z = pack [(3, 0), (7, 0), (7, a.code), (7, d.val), (1, 0), (6, 30), (1, e.toNat)] := by simp only [pack]; omega
  have hb : bounded [(3, 0), (7, 0), (7, a.code), (7, d.val), (1, 0), (6, 30), (1, e.toNat)] = true := by simp only [bounded, Bool.and_eq_true, decide_eq_true_eq, and_true]; omega
  have h0 : bitsOf z 25 6 = 30 := bits_pack hz hb 5 rfl
  have h1 : bitsOf z 0 3 = 0 := bits_pack hz hb 0 rfl
  have h2 : bitsOf z 3 7 = 0 := bits_pack hz hb 1 rfl
  have h3 : bitsOf z 31 1 = e.toNat := bits_pack hz hb 6 rfl
  have h4 : bitsOf z 17 7 = d.val := bits_pack hz hb 3 rfl
  have h5 : bitsOf z 10 7 = a.code := bits_pack hz hb 2 rfl
  have h6 : bitsOf z 24 1 = 0 := bits_pack hz hb 4 rfl
  refine ⟨?_, hz ▸ pack_lt _ hb⟩
  simp [decodeFields, fields30, reserved, kZero, bitB, regF, predF, enumF, h0, h1, h2, h3, h4, h5, h6, Reg.ofCode_code, bit_eq, Fin.ofNat_val, Except.bind, okBind, d1]

theorem pmovP2r (e k d a) : Statement (.pmovP2r e k d a) := by
  refine ⟨?_, rfl⟩
  intro z hz
  have e1 := e.toNat_lt
  have k1 := k.toNat_lt
  have d1 := d.code_lt
  have a1 := a.isLt
  simp only [encodeNat, Option.some.injEq, wordOf] at hz
  replace hz : z = pack [(3, 1), (7, 0), (7, a.val), (7, d.code), (1, k.toNat), (6, 30), (1, e.toNat)] := by simp only [pack]; omega
  have hb : bounded [(3, 1), (7, 0), (7, a.val), (7, d.code), (1, k.toNat), (6, 30), (1, e.toNat)] = true := by simp only [bounded, Bool.and_eq_true, decide_eq_true_eq, and_true]; omega
  have h0 : bitsOf z 25 6 = 30 := bits_pack hz hb 5 rfl
  have h1 : bitsOf z 0 3 = 1 := bits_pack hz hb 0 rfl
  have h2 : bitsOf z 3 7 = 0 := bits_pack hz hb 1 rfl
  have h3 : bitsOf z 31 1 = e.toNat := bits_pack hz hb 6 rfl
  have h4 : bitsOf z 24 1 = k.toNat := bits_pack hz hb 4 rfl
  have h5 : bitsOf z 10 7 = a.val := bits_pack hz hb 2 rfl
  have h6 : bitsOf z 17 7 = d.code := bits_pack hz hb 3 rfl
  refine ⟨?_, hz ▸ pack_lt _ hb⟩
  simp [decodeFields, fields30, reserved, kZero, bitB, regF, predF, enumF, h0, h1, h2, h3, h4, h5, h6, Reg.ofCode_code, bit_eq, Fin.ofNat_val, Except.bind, okBind, a1]

theorem pmovAnd (e d a b) : Statement (.pmovAnd e d a b) := by
  refine ⟨?_, rfl⟩
  intro z hz
  have e1 := e.toNat_lt
  have d1 := d.isLt
  have a1 := a.isLt
  have b1 := b.isLt
  simp only [encodeNat, Option.some.injEq, wordOf, Bool.toNat_false] at hz
  replace hz : z = pack [(3, 2), (7, b.val), (7, a.val), (7, d.val), (1, 0), (6, 30), (1, e.toNat)] := by simp only [pack]; omega
  have hb : bounded [(3, 2), (7, b.val), (7, a.val), (7, d.val), (1, 0), (6, 30), (1, e.toNat)] = true := by simp only [bounded, Bool.and_eq_true, decide_eq_true_eq, and_true]; omega
  have h0 : bitsOf z 25 6 = 30 := bits_pack hz hb 5 rfl
  have h1 : bitsOf z 0 3 = 2 := bits_pack hz hb 0 rfl
  have h2 : bitsOf z 31 1 = e.toNat := bits_pack hz hb 6 rfl
  have h3 : bitsOf z 17 7 = d.val := bits_pack hz hb 3 rfl
  have h4 : bitsOf z 10 7 = a.val := bits_pack hz hb 2 rfl
  have h5 : bitsOf z 3 7 = b.val := bits_pack hz hb 1 rfl
  have h6 : bitsOf z 24 1 = 0 := bits_pack hz hb 4 rfl
  refine ⟨?_, hz ▸ pack_lt _ hb⟩
  simp [decodeFields, fields30, reserved, kZero, bitB, regF, predF, enumF, h0, h1, h2, h3, h4, h5, h6, Reg.ofCode_code, bit_eq, Fin.ofNat_val, Except.bind, okBind, d1, a1, b1]

theorem pmovOr (e d a b) : Statement (.pmovOr e d a b) := by
  refine ⟨?_, rfl⟩
  intro z hz
  have e1 := e.toNat_lt
  have d1 := d.isLt
  have a1 := a.isLt
  have b1 := b.isLt
  simp only [encodeNat, Option.some.injEq, wordOf, Bool.toNat_false] at hz
  replace hz : z = pack [(3, 3), (7, b.val), (7, a.val), (7, d.val), (1, 0), (6, 30), (1, e.toNat)] := by simp only [pack]; omega
  have hb : bounded [(3, 3), (7, b.val), (7, a.val), (7, d.val), (1, 0), (6, 30), (1, e.toNat)] = true := by simp only [bounded, Bool.and_eq_true, decide_eq_true_eq, and_true]; omega
  have h0 : bitsOf z 25 6 = 30 := bits_pack hz hb 5 rfl
  have h1 : bitsOf z 0 3 = 3 := bits_pack hz hb 0 rfl
  have h2 : bitsOf z 31 1 = e.toNat := bits_pack hz hb 6 rfl
  have h3 : bitsOf z 17 7 = d.val := bits_pack hz hb 3 rfl
  have h4 : bitsOf z 10 7 = a.val := bits_pack hz hb 2 rfl
  have h5 : bitsOf z 3 7 = b.val := bits_pack hz hb 1 rfl
  have h6 : bitsOf z 24 1 = 0 := bits_pack hz hb 4 rfl
  refine ⟨?_, hz ▸ pack_lt _ hb⟩
  simp [decodeFields, fields30, reserved, kZero, bitB, regF, predF, enumF, h0, h1, h2, h3, h4, h5, h6, Reg.ofCode_code, bit_eq, Fin.ofNat_val, Except.bind, okBind, d1, a1, b1]

theorem pmovXor (e d a b) : Statement (.pmovXor e d a b) := by
  refine ⟨?_, rfl⟩
  intro z hz
  have e1 := e.toNat_lt
  have d1 := d.isLt
  have a1 := a.isLt
  have b1 := b.isLt
  simp only [encodeNat, Option.some.injEq, wordOf, Bool.toNat_false] at hz
  replace hz : z = pack [(3, 4), (7, b.val), (7, a.val), (7, d.val), (1, 0), (6, 30), (1, e.toNat)] := by simp only [pack]; omega
  have hb : bounded [(3, 4), (7, b.val), (7, a.val), (7, d.val), (1, 0), (6, 30), (1, e.toNat)] = true := by simp only [bounded, Bool.and_eq_true, decide_eq_true_eq, and_true]; omega
  have h0 : bitsOf z 25 6 = 30 := bits_pack hz hb 5 rfl
  have h1 : bitsOf z 0 3 = 4 := bits_pack hz hb 0 rfl
  have h2 : bitsOf z 31 1 = e.toNat := bits_pack hz hb 6 rfl
  have h3 : bitsOf z 17 7 = d.val := bits_pack hz hb 3 rfl
  have h4 : bitsOf z 10 7 = a.val := bits_pack hz hb 2 rfl
  have h5 : bitsOf z 3 7 = b.val := bits_pack hz hb 1 rfl
  have h6 : bitsOf z 24 1 = 0 := bits_pack hz hb 4 rfl
  refine ⟨?_, hz ▸ pack_lt _ hb⟩
  simp [decodeFields, fields30, reserved, kZero, bitB, regF, predF, enumF, h0, h1, h2, h3, h4, h5, h6, Reg.ofCode_code, bit_eq, Fin.ofNat_val, Except.bind, okBind, d1, a1, b1]

theorem pmovAndn (e d a b) : Statement (.pmovAndn e d a b) := by
  refine ⟨?_, rfl⟩
  intro z hz
  have e1 := e.toNat_lt
  have d1 := d.isLt
  have a1 := a.isLt
  have b1 := b.isLt
  simp only [encodeNat, Option.some.injEq, wordOf, Bool.toNat_false] at hz
  replace hz : z = pack [(3, 5), (7, b.val), (7, a.val), (7, d.val), (1, 0), (6, 30), (1, e.toNat)] := by simp only [pack]; omega
  have hb : bounded [(3, 5), (7, b.val), (7, a.val), (7, d.val), (1, 0), (6, 30), (1, e.toNat)] = true := by simp only [bounded, Bool.and_eq_true, decide_eq_true_eq, and_true]; omega
  have h0 : bitsOf z 25 6 = 30 := bits_pack hz hb 5 rfl
  have h1 : bitsOf z 0 3 = 5 := bits_pack hz hb 0 rfl
  have h2 : bitsOf z 31 1 = e.toNat := bits_pack hz hb 6 rfl
  have h3 : bitsOf z 17 7 = d.val := bits_pack hz hb 3 rfl
  have h4 : bitsOf z 10 7 = a.val := bits_pack hz hb 2 rfl
  have h5 : bitsOf z 3 7 = b.val := bits_pack hz hb 1 rfl
  have h6 : bitsOf z 24 1 = 0 := bits_pack hz hb 4 rfl
  refine ⟨?_, hz ▸ pack_lt _ hb⟩
  simp [decodeFields, fields30, reserved, kZero, bitB, regF, predF, enumF, h0, h1, h2, h3, h4, h5, h6, Reg.ofCode_code, bit_eq, Fin.ofNat_val, Except.bind, okBind, d1, a1, b1]

theorem pmovNot (e d a) : Statement (.pmovNot e d a) := by
  refine ⟨?_, rfl⟩
  intro z hz
  have e1 := e.toNat_lt
  have d1 := d.isLt
  have a1 := a.isLt
  simp only [encodeNat, Option.some.injEq, wordOf, Bool.toNat_false] at hz
  replace hz : z = pack [(3, 6), (7, 0), (7, a.val), (7, d.val), (1, 0), (6, 30), (1, e.toNat)] := by simp only [pack]; omega
  have hb : bounded [(3, 6), (7, 0), (7, a.val), (7, d.val), (1, 0), (6, 30), (1, e.toNat)] = true := by simp only [bounded, Bool.and_eq_true, decide_eq_true_eq, and_true]; omega
  have h0 : bitsOf z 25 6 = 30 := bits_pack hz hb 5 rfl
  have h1 : bitsOf z 0 3 = 6 := bits_pack hz hb 0 rfl
  have h2 : bitsOf z 3 7 = 0 := bits_pack hz hb 1 rfl
  have h3 : bitsOf z 31 1 = e.toNat := bits_pack hz hb 6 rfl
  have h4 : bitsOf z 17 7 = d.val := bits_pack hz hb 3 rfl
  have h5 : bitsOf z 10 7 = a.val := bits_pack hz hb 2 rfl
  have h6 : bitsOf z 24 1 = 0 := bits_pack hz hb 4 rfl
  refine ⟨?_, hz ▸ pack_lt _ hb⟩
  simp [decodeFields, fields30, reserved, kZero, bitB, regF, predF, enumF, h0, h1, h2, h3, h4, h5, h6, Reg.ofCode_code, bit_eq, Fin.ofNat_val, Except.bind, okBind, d1, a1]

theorem winb (e n) : Statement (.winb e n) := by
  refine ⟨?_, rfl⟩
  intro z hz
  have e1 := e.toNat_lt
  have n1 := n.isLt
  simp only [encodeNat, Option.some.injEq, wordOf, Bool.toNat_false] at hz
  replace hz : z = pack [(3, n.val), (11, 0), (3, 0), (7, 0), (1, 0), (6, 31), (1, e.toNat)] := by simp only [pack]; omega
  have hb : bounded [(3, n.val), (11, 0), (3, 0), (7, 0), (1, 0), (6, 31), (1, e.toNat)] = true := by simp only [bounded, Bool.and_eq_true, decide_eq_true_eq, and_true]; omega
  have h0 : bitsOf z 25 6 = 31 := bits_pack hz hb 5 rfl
  have h1 : bitsOf z 14 3 = 0 := bits_pack hz hb 2 rfl
  have h2 : bitsOf z 3 11 = 0 := bits_pack hz hb 1 rfl
  have h3 : bitsOf z 17 7 = 0 := bits_pack hz hb 3 rfl
  have h4 : bitsOf z 0 3 = n.val := bits_pack hz hb 0 rfl
  have h5 : bitsOf z 31 1 = e.toNat := bits_pack hz hb 6 rfl
  have h6 : bitsOf z 24 1 = 0 := bits_pack hz hb 4 rfl
  refine ⟨?_, hz ▸ pack_lt _ hb⟩
  simp [decodeFields, fields31, reserved, kZero, bitB, regF, predF, enumF, h0, h1, h2, h3, h4, h5, h6, Reg.ofCode_code, bit_eq, Fin.ofNat_val, Except.bind, okBind]

theorem rclaim (e n) : Statement (.rclaim e n) := by
  refine ⟨?_, rfl⟩
  intro z hz
  have e1 := e.toNat_lt
  have n1 := n.isLt
  simp only [encodeNat, Option.some.injEq, wordOf, Bool.toNat_false] at hz
  replace hz : z = pack [(3, n.val), (11, 0), (3, 1), (7, 0), (1, 0), (6, 31), (1, e.toNat)] := by simp only [pack]; omega
  have hb : bounded [(3, n.val), (11, 0), (3, 1), (7, 0), (1, 0), (6, 31), (1, e.toNat)] = true := by simp only [bounded, Bool.and_eq_true, decide_eq_true_eq, and_true]; omega
  have h0 : bitsOf z 25 6 = 31 := bits_pack hz hb 5 rfl
  have h1 : bitsOf z 14 3 = 1 := bits_pack hz hb 2 rfl
  have h2 : bitsOf z 3 11 = 0 := bits_pack hz hb 1 rfl
  have h3 : bitsOf z 17 7 = 0 := bits_pack hz hb 3 rfl
  have h4 : bitsOf z 0 3 = n.val := bits_pack hz hb 0 rfl
  have h5 : bitsOf z 31 1 = e.toNat := bits_pack hz hb 6 rfl
  have h6 : bitsOf z 24 1 = 0 := bits_pack hz hb 4 rfl
  refine ⟨?_, hz ▸ pack_lt _ hb⟩
  simp [decodeFields, fields31, reserved, kZero, bitB, regF, predF, enumF, h0, h1, h2, h3, h4, h5, h6, Reg.ofCode_code, bit_eq, Fin.ofNat_val, Except.bind, okBind]

theorem rgive (e n) : Statement (.rgive e n) := by
  refine ⟨?_, rfl⟩
  intro z hz
  have e1 := e.toNat_lt
  have n1 := n.isLt
  simp only [encodeNat, Option.some.injEq, wordOf, Bool.toNat_false] at hz
  replace hz : z = pack [(3, n.val), (11, 0), (3, 2), (7, 0), (1, 0), (6, 31), (1, e.toNat)] := by simp only [pack]; omega
  have hb : bounded [(3, n.val), (11, 0), (3, 2), (7, 0), (1, 0), (6, 31), (1, e.toNat)] = true := by simp only [bounded, Bool.and_eq_true, decide_eq_true_eq, and_true]; omega
  have h0 : bitsOf z 25 6 = 31 := bits_pack hz hb 5 rfl
  have h1 : bitsOf z 14 3 = 2 := bits_pack hz hb 2 rfl
  have h2 : bitsOf z 3 11 = 0 := bits_pack hz hb 1 rfl
  have h3 : bitsOf z 17 7 = 0 := bits_pack hz hb 3 rfl
  have h4 : bitsOf z 0 3 = n.val := bits_pack hz hb 0 rfl
  have h5 : bitsOf z 31 1 = e.toNat := bits_pack hz hb 6 rfl
  have h6 : bitsOf z 24 1 = 0 := bits_pack hz hb 4 rfl
  refine ⟨?_, hz ▸ pack_lt _ hb⟩
  simp [decodeFields, fields31, reserved, kZero, bitB, regF, predF, enumF, h0, h1, h2, h3, h4, h5, h6, Reg.ofCode_code, bit_eq, Fin.ofNat_val, Except.bind, okBind]

theorem bra (e o) : Statement (.bra e o) := by
  refine ⟨?_, rfl⟩
  intro z hz
  have e1 := e.toNat_lt
  have o1 := o.isLt
  simp only [encodeNat, Option.some.injEq, wordOf, Bool.toNat_false] at hz
  replace hz : z = pack [(20, o.toNat), (4, 0), (1, 0), (6, 32), (1, e.toNat)] := by simp only [pack]; omega
  have hb : bounded [(20, o.toNat), (4, 0), (1, 0), (6, 32), (1, e.toNat)] = true := by simp only [bounded, Bool.and_eq_true, decide_eq_true_eq, and_true]; omega
  have h0 : bitsOf z 25 6 = 32 := bits_pack hz hb 3 rfl
  have h1 : bitsOf z 20 4 = 0 := bits_pack hz hb 1 rfl
  have h2 : bitsOf z 31 1 = e.toNat := bits_pack hz hb 4 rfl
  have h3 : bitsOf z 0 20 = o.toNat := bits_pack hz hb 0 rfl
  have h4 : bitsOf z 24 1 = 0 := bits_pack hz hb 2 rfl
  have b0 : bvF z 0 20 = o := bvF_eq h3
  refine ⟨?_, hz ▸ pack_lt _ hb⟩
  simp [decodeFields, fields32, reserved, kZero, bitB, regF, predF, enumF, h0, h1, h2, h3, h4, b0, Reg.ofCode_code, bit_eq, Fin.ofNat_val, Except.bind, okBind]

theorem brp (e p s o) : Statement (.brp e p s o) := by
  refine ⟨?_, rfl⟩
  intro z hz
  have e1 := e.toNat_lt
  have p1 := p.isLt
  have s1 := s.toNat_lt
  have o1 := o.isLt
  simp only [encodeNat, Option.some.injEq, wordOf, Bool.toNat_false] at hz
  replace hz : z = pack [(20, o.toNat), (1, s.toNat), (3, p.val), (1, 0), (6, 33), (1, e.toNat)] := by simp only [pack]; omega
  have hb : bounded [(20, o.toNat), (1, s.toNat), (3, p.val), (1, 0), (6, 33), (1, e.toNat)] = true := by simp only [bounded, Bool.and_eq_true, decide_eq_true_eq, and_true]; omega
  have h0 : bitsOf z 25 6 = 33 := bits_pack hz hb 4 rfl
  have h1 : bitsOf z 21 3 = p.val := bits_pack hz hb 2 rfl
  have h2 : bitsOf z 31 1 = e.toNat := bits_pack hz hb 5 rfl
  have h3 : bitsOf z 20 1 = s.toNat := bits_pack hz hb 1 rfl
  have h4 : bitsOf z 0 20 = o.toNat := bits_pack hz hb 0 rfl
  have h5 : bitsOf z 24 1 = 0 := bits_pack hz hb 3 rfl
  have b0 : bvF z 0 20 = o := bvF_eq h4
  refine ⟨?_, hz ▸ pack_lt _ hb⟩
  simp [decodeFields, fields33, reserved, kZero, bitB, regF, predF, enumF, h0, h1, h2, h3, h4, h5, b0, Reg.ofCode_code, bit_eq, Fin.ofNat_val, Except.bind, okBind]

theorem call (e o) : Statement (.call e o) := by
  refine ⟨?_, rfl⟩
  intro z hz
  have e1 := e.toNat_lt
  have o1 := o.isLt
  simp only [encodeNat, Option.some.injEq, wordOf, Bool.toNat_false] at hz
  replace hz : z = pack [(20, o.toNat), (4, 0), (1, 0), (6, 34), (1, e.toNat)] := by simp only [pack]; omega
  have hb : bounded [(20, o.toNat), (4, 0), (1, 0), (6, 34), (1, e.toNat)] = true := by simp only [bounded, Bool.and_eq_true, decide_eq_true_eq, and_true]; omega
  have h0 : bitsOf z 25 6 = 34 := bits_pack hz hb 3 rfl
  have h1 : bitsOf z 20 4 = 0 := bits_pack hz hb 1 rfl
  have h2 : bitsOf z 31 1 = e.toNat := bits_pack hz hb 4 rfl
  have h3 : bitsOf z 0 20 = o.toNat := bits_pack hz hb 0 rfl
  have h4 : bitsOf z 24 1 = 0 := bits_pack hz hb 2 rfl
  have b0 : bvF z 0 20 = o := bvF_eq h3
  refine ⟨?_, hz ▸ pack_lt _ hb⟩
  simp [decodeFields, fields34, reserved, kZero, bitB, regF, predF, enumF, h0, h1, h2, h3, h4, b0, Reg.ofCode_code, bit_eq, Fin.ofNat_val, Except.bind, okBind]

theorem callr (e a) : Statement (.callr e a) := by
  refine ⟨?_, rfl⟩
  intro z hz
  have e1 := e.toNat_lt
  have a1 := a.code_lt
  simp only [encodeNat, Option.some.injEq, wordOf, Bool.toNat_false] at hz
  replace hz : z = pack [(3, 0), (7, 0), (7, a.code), (7, 0), (1, 0), (6, 35), (1, e.toNat)] := by simp only [pack]; omega
  have hb : bounded [(3, 0), (7, 0), (7, a.code), (7, 0), (1, 0), (6, 35), (1, e.toNat)] = true := by simp only [bounded, Bool.and_eq_true, decide_eq_true_eq, and_true]; omega
  have h0 : bitsOf z 25 6 = 35 := bits_pack hz hb 5 rfl
  have h1 : bitsOf z 0 3 = 0 := bits_pack hz hb 0 rfl
  have h2 : bitsOf z 3 7 = 0 := bits_pack hz hb 1 rfl
  have h3 : bitsOf z 17 7 = 0 := bits_pack hz hb 3 rfl
  have h4 : bitsOf z 31 1 = e.toNat := bits_pack hz hb 6 rfl
  have h5 : bitsOf z 10 7 = a.code := bits_pack hz hb 2 rfl
  have h6 : bitsOf z 24 1 = 0 := bits_pack hz hb 4 rfl
  refine ⟨?_, hz ▸ pack_lt _ hb⟩
  simp [decodeFields, fields35, reserved, kZero, bitB, regF, predF, enumF, h0, h1, h2, h3, h4, h5, h6, Reg.ofCode_code, bit_eq, Fin.ofNat_val, Except.bind, okBind]

theorem ret (e) : Statement (.ret e) := by
  refine ⟨?_, rfl⟩
  intro z hz
  have e1 := e.toNat_lt
  simp only [encodeNat, Option.some.injEq, wordOf, Bool.toNat_false] at hz
  replace hz : z = pack [(3, 0), (21, 0), (1, 0), (6, 36), (1, e.toNat)] := by simp only [pack]; omega
  have hb : bounded [(3, 0), (21, 0), (1, 0), (6, 36), (1, e.toNat)] = true := by simp only [bounded, Bool.and_eq_true, decide_eq_true_eq, and_true]; omega
  have h0 : bitsOf z 25 6 = 36 := bits_pack hz hb 3 rfl
  have h1 : bitsOf z 0 3 = 0 := bits_pack hz hb 0 rfl
  have h2 : bitsOf z 3 21 = 0 := bits_pack hz hb 1 rfl
  have h3 : bitsOf z 31 1 = e.toNat := bits_pack hz hb 4 rfl
  have h4 : bitsOf z 24 1 = 0 := bits_pack hz hb 2 rfl
  refine ⟨?_, hz ▸ pack_lt _ hb⟩
  simp [decodeFields, fields36, reserved, kZero, bitB, regF, predF, enumF, h0, h1, h2, h3, h4, Reg.ofCode_code, bit_eq, Fin.ofNat_val, Except.bind, okBind]

theorem exit (e) : Statement (.exit e) := by
  refine ⟨?_, rfl⟩
  intro z hz
  have e1 := e.toNat_lt
  simp only [encodeNat, Option.some.injEq, wordOf, Bool.toNat_false] at hz
  replace hz : z = pack [(3, 1), (21, 0), (1, 0), (6, 36), (1, e.toNat)] := by simp only [pack]; omega
  have hb : bounded [(3, 1), (21, 0), (1, 0), (6, 36), (1, e.toNat)] = true := by simp only [bounded, Bool.and_eq_true, decide_eq_true_eq, and_true]; omega
  have h0 : bitsOf z 25 6 = 36 := bits_pack hz hb 3 rfl
  have h1 : bitsOf z 0 3 = 1 := bits_pack hz hb 0 rfl
  have h2 : bitsOf z 3 21 = 0 := bits_pack hz hb 1 rfl
  have h3 : bitsOf z 31 1 = e.toNat := bits_pack hz hb 4 rfl
  have h4 : bitsOf z 24 1 = 0 := bits_pack hz hb 2 rfl
  refine ⟨?_, hz ▸ pack_lt _ hb⟩
  simp [decodeFields, fields36, reserved, kZero, bitB, regF, predF, enumF, h0, h1, h2, h3, h4, Reg.ofCode_code, bit_eq, Fin.ofNat_val, Except.bind, okBind]

theorem nop (e) : Statement (.nop e) := by
  refine ⟨?_, rfl⟩
  intro z hz
  have e1 := e.toNat_lt
  simp only [encodeNat, Option.some.injEq, wordOf, Bool.toNat_false] at hz
  replace hz : z = pack [(3, 2), (21, 0), (1, 0), (6, 36), (1, e.toNat)] := by simp only [pack]; omega
  have hb : bounded [(3, 2), (21, 0), (1, 0), (6, 36), (1, e.toNat)] = true := by simp only [bounded, Bool.and_eq_true, decide_eq_true_eq, and_true]; omega
  have h0 : bitsOf z 25 6 = 36 := bits_pack hz hb 3 rfl
  have h1 : bitsOf z 0 3 = 2 := bits_pack hz hb 0 rfl
  have h2 : bitsOf z 3 21 = 0 := bits_pack hz hb 1 rfl
  have h3 : bitsOf z 31 1 = e.toNat := bits_pack hz hb 4 rfl
  have h4 : bitsOf z 24 1 = 0 := bits_pack hz hb 2 rfl
  refine ⟨?_, hz ▸ pack_lt _ hb⟩
  simp [decodeFields, fields36, reserved, kZero, bitB, regF, predF, enumF, h0, h1, h2, h3, h4, Reg.ofCode_code, bit_eq, Fin.ofNat_val, Except.bind, okBind]

theorem ld (e k d a o v) : Statement (.ld e k d a o v) := by
  refine ⟨?_, rfl⟩
  intro z hz
  have e1 := e.toNat_lt
  have k1 := k.toNat_lt
  have d1 := d.code_lt
  have a1 := a.code_lt
  have o1 := o.isLt
  have v1 := v.code_lt
  simp only [encodeNat, Option.some.injEq, wordOf] at hz
  replace hz : z = pack [(3, v.code), (7, o.toNat), (7, a.code), (7, d.code), (1, k.toNat), (6, 40), (1, e.toNat)] := by simp only [pack]; omega
  have hb : bounded [(3, v.code), (7, o.toNat), (7, a.code), (7, d.code), (1, k.toNat), (6, 40), (1, e.toNat)] = true := by simp only [bounded, Bool.and_eq_true, decide_eq_true_eq, and_true]; omega
  have h0 : bitsOf z 25 6 = 40 := bits_pack hz hb 5 rfl
  have h1 : bitsOf z 31 1 = e.toNat := bits_pack hz hb 6 rfl
  have h2 : bitsOf z 24 1 = k.toNat := bits_pack hz hb 4 rfl
  have h3 : bitsOf z 17 7 = d.code := bits_pack hz hb 3 rfl
  have h4 : bitsOf z 10 7 = a.code := bits_pack hz hb 2 rfl
  have h5 : bitsOf z 3 7 = o.toNat := bits_pack hz hb 1 rfl
  have h6 : bitsOf z 0 3 = v.code := bits_pack hz hb 0 rfl
  have b0 : bvF z 3 7 = o := bvF_eq h5
  refine ⟨?_, hz ▸ pack_lt _ hb⟩
  simp [decodeFields, fields40, reserved, kZero, bitB, regF, predF, enumF, h0, h1, h2, h3, h4, h5, h6, b0, Reg.ofCode_code, bit_eq, Fin.ofNat_val, Except.bind, okBind, LdW.ofCode_code]

theorem ldR (e k d a p o v) : Statement (.ldR e k d a p o v) := by
  refine ⟨?_, rfl⟩
  intro z hz
  have e1 := e.toNat_lt
  have k1 := k.toNat_lt
  have d1 := d.code_lt
  have a1 := a.code_lt
  have p1 := p.isLt
  have o1 := o.isLt
  have v1 := v.code_lt
  simp only [encodeNat, Option.some.injEq, wordOf] at hz
  replace hz : z = pack [(3, v.code), (4, o.toNat), (3, p.val), (7, a.code), (7, d.code), (1, k.toNat), (6, 41), (1, e.toNat)] := by simp only [pack]; omega
  have hb : bounded [(3, v.code), (4, o.toNat), (3, p.val), (7, a.code), (7, d.code), (1, k.toNat), (6, 41), (1, e.toNat)] = true := by simp only [bounded, Bool.and_eq_true, decide_eq_true_eq, and_true]; omega
  have h0 : bitsOf z 25 6 = 41 := bits_pack hz hb 6 rfl
  have h1 : bitsOf z 7 3 = p.val := bits_pack hz hb 2 rfl
  have h2 : bitsOf z 31 1 = e.toNat := bits_pack hz hb 7 rfl
  have h3 : bitsOf z 24 1 = k.toNat := bits_pack hz hb 5 rfl
  have h4 : bitsOf z 17 7 = d.code := bits_pack hz hb 4 rfl
  have h5 : bitsOf z 10 7 = a.code := bits_pack hz hb 3 rfl
  have h6 : bitsOf z 3 4 = o.toNat := bits_pack hz hb 1 rfl
  have h7 : bitsOf z 0 3 = v.code := bits_pack hz hb 0 rfl
  have b0 : bvF z 3 4 = o := bvF_eq h6
  refine ⟨?_, hz ▸ pack_lt _ hb⟩
  simp [decodeFields, fields41, reserved, kZero, bitB, regF, predF, enumF, h0, h1, h2, h3, h4, h5, h6, h7, b0, Reg.ofCode_code, bit_eq, Fin.ofNat_val, Except.bind, okBind, LdW.ofCode_code]

theorem st (e d a o v) : Statement (.st e d a o v) := by
  refine ⟨?_, rfl⟩
  intro z hz
  have e1 := e.toNat_lt
  have d1 := d.code_lt
  have a1 := a.code_lt
  have o1 := o.isLt
  have v1 := v.code_lt
  simp only [encodeNat, Option.some.injEq, wordOf, Bool.toNat_false] at hz
  replace hz : z = pack [(3, v.code), (7, o.toNat), (7, a.code), (7, d.code), (1, 0), (6, 42), (1, e.toNat)] := by simp only [pack]; omega
  have hb : bounded [(3, v.code), (7, o.toNat), (7, a.code), (7, d.code), (1, 0), (6, 42), (1, e.toNat)] = true := by simp only [bounded, Bool.and_eq_true, decide_eq_true_eq, and_true]; omega
  have h0 : bitsOf z 25 6 = 42 := bits_pack hz hb 5 rfl
  have h1 : bitsOf z 31 1 = e.toNat := bits_pack hz hb 6 rfl
  have h2 : bitsOf z 17 7 = d.code := bits_pack hz hb 3 rfl
  have h3 : bitsOf z 10 7 = a.code := bits_pack hz hb 2 rfl
  have h4 : bitsOf z 3 7 = o.toNat := bits_pack hz hb 1 rfl
  have h5 : bitsOf z 0 3 = v.code := bits_pack hz hb 0 rfl
  have h6 : bitsOf z 24 1 = 0 := bits_pack hz hb 4 rfl
  have b0 : bvF z 3 7 = o := bvF_eq h4
  refine ⟨?_, hz ▸ pack_lt _ hb⟩
  simp [decodeFields, fields42, reserved, kZero, bitB, regF, predF, enumF, h0, h1, h2, h3, h4, h5, h6, b0, Reg.ofCode_code, bit_eq, Fin.ofNat_val, Except.bind, okBind, StW.ofCode_code]

theorem lda (e k d a o s w) : Statement (.lda e k d a o s w) := by
  refine ⟨?_, rfl⟩
  intro z hz
  have e1 := e.toNat_lt
  have k1 := k.toNat_lt
  have d1 := d.code_lt
  have a1 := a.code_lt
  have o1 := o.isLt
  have s1 := s.toNat_lt
  have w1 := w.code_lt
  simp only [encodeNat, Option.some.injEq, wordOf] at hz
  replace hz : z = pack [(2, w.code), (1, s.toNat), (7, o.toNat), (7, a.code), (7, d.code), (1, k.toNat), (6, 43), (1, e.toNat)] := by simp only [pack]; omega
  have hb : bounded [(2, w.code), (1, s.toNat), (7, o.toNat), (7, a.code), (7, d.code), (1, k.toNat), (6, 43), (1, e.toNat)] = true := by simp only [bounded, Bool.and_eq_true, decide_eq_true_eq, and_true]; omega
  have h0 : bitsOf z 25 6 = 43 := bits_pack hz hb 6 rfl
  have h1 : bitsOf z 31 1 = e.toNat := bits_pack hz hb 7 rfl
  have h2 : bitsOf z 24 1 = k.toNat := bits_pack hz hb 5 rfl
  have h3 : bitsOf z 2 1 = s.toNat := bits_pack hz hb 1 rfl
  have h4 : bitsOf z 17 7 = d.code := bits_pack hz hb 4 rfl
  have h5 : bitsOf z 10 7 = a.code := bits_pack hz hb 3 rfl
  have h6 : bitsOf z 3 7 = o.toNat := bits_pack hz hb 2 rfl
  have h7 : bitsOf z 0 2 = w.code := bits_pack hz hb 0 rfl
  have b0 : bvF z 3 7 = o := bvF_eq h6
  refine ⟨?_, hz ▸ pack_lt _ hb⟩
  simp [decodeFields, fields43, reserved, kZero, bitB, regF, predF, enumF, h0, h1, h2, h3, h4, h5, h6, h7, b0, Reg.ofCode_code, bit_eq, Fin.ofNat_val, Except.bind, okBind, BufW.ofCode_code]

theorem sta (e d a o s w) : Statement (.sta e d a o s w) := by
  refine ⟨?_, rfl⟩
  intro z hz
  have e1 := e.toNat_lt
  have d1 := d.code_lt
  have a1 := a.code_lt
  have o1 := o.isLt
  have s1 := s.toNat_lt
  have w1 := w.code_lt
  simp only [encodeNat, Option.some.injEq, wordOf, Bool.toNat_false] at hz
  replace hz : z = pack [(2, w.code), (1, s.toNat), (7, o.toNat), (7, a.code), (7, d.code), (1, 0), (6, 44), (1, e.toNat)] := by simp only [pack]; omega
  have hb : bounded [(2, w.code), (1, s.toNat), (7, o.toNat), (7, a.code), (7, d.code), (1, 0), (6, 44), (1, e.toNat)] = true := by simp only [bounded, Bool.and_eq_true, decide_eq_true_eq, and_true]; omega
  have h0 : bitsOf z 25 6 = 44 := bits_pack hz hb 6 rfl
  have h1 : bitsOf z 31 1 = e.toNat := bits_pack hz hb 7 rfl
  have h2 : bitsOf z 2 1 = s.toNat := bits_pack hz hb 1 rfl
  have h3 : bitsOf z 17 7 = d.code := bits_pack hz hb 4 rfl
  have h4 : bitsOf z 10 7 = a.code := bits_pack hz hb 3 rfl
  have h5 : bitsOf z 3 7 = o.toNat := bits_pack hz hb 2 rfl
  have h6 : bitsOf z 0 2 = w.code := bits_pack hz hb 0 rfl
  have h7 : bitsOf z 24 1 = 0 := bits_pack hz hb 5 rfl
  have b0 : bvF z 3 7 = o := bvF_eq h5
  refine ⟨?_, hz ▸ pack_lt _ hb⟩
  simp [decodeFields, fields44, reserved, kZero, bitB, regF, predF, enumF, h0, h1, h2, h3, h4, h5, h6, h7, b0, Reg.ofCode_code, bit_eq, Fin.ofNat_val, Except.bind, okBind, BufW.ofCode_code]

theorem ldc (e k d a o w) : Statement (.ldc e k d a o w) := by
  refine ⟨?_, rfl⟩
  intro z hz
  have e1 := e.toNat_lt
  have k1 := k.toNat_lt
  have d1 := d.code_lt
  have a1 := a.code_lt
  have o1 := o.isLt
  have w1 := w.code_lt
  simp only [encodeNat, Option.some.injEq, wordOf] at hz
  replace hz : z = pack [(3, w.code), (7, o.toNat), (7, a.code), (7, d.code), (1, k.toNat), (6, 45), (1, e.toNat)] := by simp only [pack]; omega
  have hb : bounded [(3, w.code), (7, o.toNat), (7, a.code), (7, d.code), (1, k.toNat), (6, 45), (1, e.toNat)] = true := by simp only [bounded, Bool.and_eq_true, decide_eq_true_eq, and_true]; omega
  have h0 : bitsOf z 25 6 = 45 := bits_pack hz hb 5 rfl
  have h1 : bitsOf z 0 3 = w.code := bits_pack hz hb 0 rfl
  have h2 : bitsOf z 31 1 = e.toNat := bits_pack hz hb 6 rfl
  have h3 : bitsOf z 24 1 = k.toNat := bits_pack hz hb 4 rfl
  have h4 : bitsOf z 17 7 = d.code := bits_pack hz hb 3 rfl
  have h5 : bitsOf z 10 7 = a.code := bits_pack hz hb 2 rfl
  have h6 : bitsOf z 3 7 = o.toNat := bits_pack hz hb 1 rfl
  have h7 : bitsOf z 0 2 = w.code := by simp only [bitsOf, hz, pack]; omega
  have b0 : bvF z 3 7 = o := bvF_eq h6
  refine ⟨?_, hz ▸ pack_lt _ hb⟩
  have hc : w.code < 4 := w1
  cases w <;> simp [decodeFields, fields45, reserved, kZero, bitB, regF, predF, enumF, h0, h1, h2, h3, h4, h5, h6, h7, b0, Reg.ofCode_code, bit_eq, Fin.ofNat_val, Except.bind, okBind, LdcW.ofCode_code, LdcW.code, LdcW.ofCode?]

theorem prefL1 (e a o) : Statement (.prefL1 e a o) := by
  refine ⟨?_, rfl⟩
  intro z hz
  have e1 := e.toNat_lt
  have a1 := a.code_lt
  have o1 := o.isLt
  simp only [encodeNat, Option.some.injEq, wordOf, Bool.toNat_false] at hz
  replace hz : z = pack [(3, 4), (7, o.toNat), (7, a.code), (7, 0), (1, 0), (6, 45), (1, e.toNat)] := by simp only [pack]; omega
  have hb : bounded [(3, 4), (7, o.toNat), (7, a.code), (7, 0), (1, 0), (6, 45), (1, e.toNat)] = true := by simp only [bounded, Bool.and_eq_true, decide_eq_true_eq, and_true]; omega
  have h0 : bitsOf z 25 6 = 45 := bits_pack hz hb 5 rfl
  have h1 : bitsOf z 0 3 = 4 := bits_pack hz hb 0 rfl
  have h2 : bitsOf z 17 7 = 0 := bits_pack hz hb 3 rfl
  have h3 : bitsOf z 31 1 = e.toNat := bits_pack hz hb 6 rfl
  have h4 : bitsOf z 10 7 = a.code := bits_pack hz hb 2 rfl
  have h5 : bitsOf z 3 7 = o.toNat := bits_pack hz hb 1 rfl
  have h6 : bitsOf z 24 1 = 0 := bits_pack hz hb 4 rfl
  have b0 : bvF z 3 7 = o := bvF_eq h5
  refine ⟨?_, hz ▸ pack_lt _ hb⟩
  simp [decodeFields, fields45, reserved, kZero, bitB, regF, predF, enumF, h0, h1, h2, h3, h4, h5, h6, b0, Reg.ofCode_code, bit_eq, Fin.ofNat_val, Except.bind, okBind]

theorem prefLlc (e a o) : Statement (.prefLlc e a o) := by
  refine ⟨?_, rfl⟩
  intro z hz
  have e1 := e.toNat_lt
  have a1 := a.code_lt
  have o1 := o.isLt
  simp only [encodeNat, Option.some.injEq, wordOf, Bool.toNat_false] at hz
  replace hz : z = pack [(3, 5), (7, o.toNat), (7, a.code), (7, 0), (1, 0), (6, 45), (1, e.toNat)] := by simp only [pack]; omega
  have hb : bounded [(3, 5), (7, o.toNat), (7, a.code), (7, 0), (1, 0), (6, 45), (1, e.toNat)] = true := by simp only [bounded, Bool.and_eq_true, decide_eq_true_eq, and_true]; omega
  have h0 : bitsOf z 25 6 = 45 := bits_pack hz hb 5 rfl
  have h1 : bitsOf z 0 3 = 5 := bits_pack hz hb 0 rfl
  have h2 : bitsOf z 17 7 = 0 := bits_pack hz hb 3 rfl
  have h3 : bitsOf z 31 1 = e.toNat := bits_pack hz hb 6 rfl
  have h4 : bitsOf z 10 7 = a.code := bits_pack hz hb 2 rfl
  have h5 : bitsOf z 3 7 = o.toNat := bits_pack hz hb 1 rfl
  have h6 : bitsOf z 24 1 = 0 := bits_pack hz hb 4 rfl
  have b0 : bvF z 3 7 = o := bvF_eq h5
  refine ⟨?_, hz ▸ pack_lt _ hb⟩
  simp [decodeFields, fields45, reserved, kZero, bitB, regF, predF, enumF, h0, h1, h2, h3, h4, h5, h6, b0, Reg.ofCode_code, bit_eq, Fin.ofNat_val, Except.bind, okBind]

theorem pagereq (e a o) : Statement (.pagereq e a o) := by
  refine ⟨?_, rfl⟩
  intro z hz
  have e1 := e.toNat_lt
  have a1 := a.code_lt
  have o1 := o.isLt
  simp only [encodeNat, Option.some.injEq, wordOf, Bool.toNat_false] at hz
  replace hz : z = pack [(3, 6), (7, o.toNat), (7, a.code), (7, 0), (1, 0), (6, 45), (1, e.toNat)] := by simp only [pack]; omega
  have hb : bounded [(3, 6), (7, o.toNat), (7, a.code), (7, 0), (1, 0), (6, 45), (1, e.toNat)] = true := by simp only [bounded, Bool.and_eq_true, decide_eq_true_eq, and_true]; omega
  have h0 : bitsOf z 25 6 = 45 := bits_pack hz hb 5 rfl
  have h1 : bitsOf z 0 3 = 6 := bits_pack hz hb 0 rfl
  have h2 : bitsOf z 17 7 = 0 := bits_pack hz hb 3 rfl
  have h3 : bitsOf z 31 1 = e.toNat := bits_pack hz hb 6 rfl
  have h4 : bitsOf z 10 7 = a.code := bits_pack hz hb 2 rfl
  have h5 : bitsOf z 3 7 = o.toNat := bits_pack hz hb 1 rfl
  have h6 : bitsOf z 24 1 = 0 := bits_pack hz hb 4 rfl
  have b0 : bvF z 3 7 = o := bvF_eq h5
  refine ⟨?_, hz ▸ pack_lt _ hb⟩
  simp [decodeFields, fields45, reserved, kZero, bitB, regF, predF, enumF, h0, h1, h2, h3, h4, h5, h6, b0, Reg.ofCode_code, bit_eq, Fin.ofNat_val, Except.bind, okBind]

theorem colour (e d a o) : Statement (.colour e d a o) := by
  refine ⟨?_, rfl⟩
  intro z hz
  have e1 := e.toNat_lt
  have d1 := d.code_lt
  have a1 := a.code_lt
  have o1 := o.isLt
  simp only [encodeNat, Option.some.injEq, wordOf, Bool.toNat_false] at hz
  replace hz : z = pack [(3, 0), (7, o.toNat), (7, a.code), (7, d.code), (1, 0), (6, 46), (1, e.toNat)] := by simp only [pack]; omega
  have hb : bounded [(3, 0), (7, o.toNat), (7, a.code), (7, d.code), (1, 0), (6, 46), (1, e.toNat)] = true := by simp only [bounded, Bool.and_eq_true, decide_eq_true_eq, and_true]; omega
  have h0 : bitsOf z 25 6 = 46 := bits_pack hz hb 5 rfl
  have h1 : bitsOf z 0 3 = 0 := bits_pack hz hb 0 rfl
  have h2 : bitsOf z 31 1 = e.toNat := bits_pack hz hb 6 rfl
  have h3 : bitsOf z 17 7 = d.code := bits_pack hz hb 3 rfl
  have h4 : bitsOf z 10 7 = a.code := bits_pack hz hb 2 rfl
  have h5 : bitsOf z 3 7 = o.toNat := bits_pack hz hb 1 rfl
  have h6 : bitsOf z 24 1 = 0 := bits_pack hz hb 4 rfl
  have b0 : bvF z 3 7 = o := bvF_eq h5
  refine ⟨?_, hz ▸ pack_lt _ hb⟩
  simp [decodeFields, fields46, reserved, kZero, bitB, regF, predF, enumF, h0, h1, h2, h3, h4, h5, h6, b0, Reg.ofCode_code, bit_eq, Fin.ofNat_val, Except.bind, okBind]

theorem tagset (e d a o) : Statement (.tagset e d a o) := by
  refine ⟨?_, rfl⟩
  intro z hz
  have e1 := e.toNat_lt
  have d1 := d.code_lt
  have a1 := a.code_lt
  have o1 := o.isLt
  simp only [encodeNat, Option.some.injEq, wordOf, Bool.toNat_false] at hz
  replace hz : z = pack [(3, 1), (7, o.toNat), (7, a.code), (7, d.code), (1, 0), (6, 46), (1, e.toNat)] := by simp only [pack]; omega
  have hb : bounded [(3, 1), (7, o.toNat), (7, a.code), (7, d.code), (1, 0), (6, 46), (1, e.toNat)] = true := by simp only [bounded, Bool.and_eq_true, decide_eq_true_eq, and_true]; omega
  have h0 : bitsOf z 25 6 = 46 := bits_pack hz hb 5 rfl
  have h1 : bitsOf z 0 3 = 1 := bits_pack hz hb 0 rfl
  have h2 : bitsOf z 31 1 = e.toNat := bits_pack hz hb 6 rfl
  have h3 : bitsOf z 17 7 = d.code := bits_pack hz hb 3 rfl
  have h4 : bitsOf z 10 7 = a.code := bits_pack hz hb 2 rfl
  have h5 : bitsOf z 3 7 = o.toNat := bits_pack hz hb 1 rfl
  have h6 : bitsOf z 24 1 = 0 := bits_pack hz hb 4 rfl
  have b0 : bvF z 3 7 = o := bvF_eq h5
  refine ⟨?_, hz ▸ pack_lt _ hb⟩
  simp [decodeFields, fields46, reserved, kZero, bitB, regF, predF, enumF, h0, h1, h2, h3, h4, h5, h6, b0, Reg.ofCode_code, bit_eq, Fin.ofNat_val, Except.bind, okBind]

theorem tagget (e k d a o) : Statement (.tagget e k d a o) := by
  refine ⟨?_, rfl⟩
  intro z hz
  have e1 := e.toNat_lt
  have k1 := k.toNat_lt
  have d1 := d.code_lt
  have a1 := a.code_lt
  have o1 := o.isLt
  simp only [encodeNat, Option.some.injEq, wordOf] at hz
  replace hz : z = pack [(3, 2), (7, o.toNat), (7, a.code), (7, d.code), (1, k.toNat), (6, 46), (1, e.toNat)] := by simp only [pack]; omega
  have hb : bounded [(3, 2), (7, o.toNat), (7, a.code), (7, d.code), (1, k.toNat), (6, 46), (1, e.toNat)] = true := by simp only [bounded, Bool.and_eq_true, decide_eq_true_eq, and_true]; omega
  have h0 : bitsOf z 25 6 = 46 := bits_pack hz hb 5 rfl
  have h1 : bitsOf z 0 3 = 2 := bits_pack hz hb 0 rfl
  have h2 : bitsOf z 31 1 = e.toNat := bits_pack hz hb 6 rfl
  have h3 : bitsOf z 24 1 = k.toNat := bits_pack hz hb 4 rfl
  have h4 : bitsOf z 17 7 = d.code := bits_pack hz hb 3 rfl
  have h5 : bitsOf z 10 7 = a.code := bits_pack hz hb 2 rfl
  have h6 : bitsOf z 3 7 = o.toNat := bits_pack hz hb 1 rfl
  have b0 : bvF z 3 7 = o := bvF_eq h6
  refine ⟨?_, hz ▸ pack_lt _ hb⟩
  simp [decodeFields, fields46, reserved, kZero, bitB, regF, predF, enumF, h0, h1, h2, h3, h4, h5, h6, b0, Reg.ofCode_code, bit_eq, Fin.ofNat_val, Except.bind, okBind]

theorem fence (e s) : Statement (.fence e s) := by
  refine ⟨?_, rfl⟩
  intro z hz
  have e1 := e.toNat_lt
  have s1 := s.code_lt
  simp only [encodeNat, Option.some.injEq, wordOf, Bool.toNat_false] at hz
  replace hz : z = pack [(3, 3), (14, 0), (3, s.code), (4, 0), (1, 0), (6, 46), (1, e.toNat)] := by simp only [pack]; omega
  have hb : bounded [(3, 3), (14, 0), (3, s.code), (4, 0), (1, 0), (6, 46), (1, e.toNat)] = true := by simp only [bounded, Bool.and_eq_true, decide_eq_true_eq, and_true]; omega
  have h0 : bitsOf z 25 6 = 46 := bits_pack hz hb 5 rfl
  have h1 : bitsOf z 0 3 = 3 := bits_pack hz hb 0 rfl
  have h2 : bitsOf z 3 14 = 0 := bits_pack hz hb 1 rfl
  have h3 : bitsOf z 20 4 = 0 := bits_pack hz hb 3 rfl
  have h4 : bitsOf z 31 1 = e.toNat := bits_pack hz hb 6 rfl
  have h5 : bitsOf z 17 3 = s.code := bits_pack hz hb 2 rfl
  have h6 : bitsOf z 24 1 = 0 := bits_pack hz hb 4 rfl
  refine ⟨?_, hz ▸ pack_lt _ hb⟩
  simp [decodeFields, fields46, reserved, kZero, bitB, regF, predF, enumF, h0, h1, h2, h3, h4, h5, h6, Reg.ofCode_code, bit_eq, Fin.ofNat_val, Except.bind, okBind, Scope.ofCode_code]

theorem acq (e s) : Statement (.acq e s) := by
  refine ⟨?_, rfl⟩
  intro z hz
  have e1 := e.toNat_lt
  have s1 := s.code_lt
  simp only [encodeNat, Option.some.injEq, wordOf, Bool.toNat_false] at hz
  replace hz : z = pack [(3, 4), (14, 0), (3, s.code), (4, 0), (1, 0), (6, 46), (1, e.toNat)] := by simp only [pack]; omega
  have hb : bounded [(3, 4), (14, 0), (3, s.code), (4, 0), (1, 0), (6, 46), (1, e.toNat)] = true := by simp only [bounded, Bool.and_eq_true, decide_eq_true_eq, and_true]; omega
  have h0 : bitsOf z 25 6 = 46 := bits_pack hz hb 5 rfl
  have h1 : bitsOf z 0 3 = 4 := bits_pack hz hb 0 rfl
  have h2 : bitsOf z 3 14 = 0 := bits_pack hz hb 1 rfl
  have h3 : bitsOf z 20 4 = 0 := bits_pack hz hb 3 rfl
  have h4 : bitsOf z 31 1 = e.toNat := bits_pack hz hb 6 rfl
  have h5 : bitsOf z 17 3 = s.code := bits_pack hz hb 2 rfl
  have h6 : bitsOf z 24 1 = 0 := bits_pack hz hb 4 rfl
  refine ⟨?_, hz ▸ pack_lt _ hb⟩
  simp [decodeFields, fields46, reserved, kZero, bitB, regF, predF, enumF, h0, h1, h2, h3, h4, h5, h6, Reg.ofCode_code, bit_eq, Fin.ofNat_val, Except.bind, okBind, Scope.ofCode_code]

theorem rel (e s) : Statement (.rel e s) := by
  refine ⟨?_, rfl⟩
  intro z hz
  have e1 := e.toNat_lt
  have s1 := s.code_lt
  simp only [encodeNat, Option.some.injEq, wordOf, Bool.toNat_false] at hz
  replace hz : z = pack [(3, 5), (14, 0), (3, s.code), (4, 0), (1, 0), (6, 46), (1, e.toNat)] := by simp only [pack]; omega
  have hb : bounded [(3, 5), (14, 0), (3, s.code), (4, 0), (1, 0), (6, 46), (1, e.toNat)] = true := by simp only [bounded, Bool.and_eq_true, decide_eq_true_eq, and_true]; omega
  have h0 : bitsOf z 25 6 = 46 := bits_pack hz hb 5 rfl
  have h1 : bitsOf z 0 3 = 5 := bits_pack hz hb 0 rfl
  have h2 : bitsOf z 3 14 = 0 := bits_pack hz hb 1 rfl
  have h3 : bitsOf z 20 4 = 0 := bits_pack hz hb 3 rfl
  have h4 : bitsOf z 31 1 = e.toNat := bits_pack hz hb 6 rfl
  have h5 : bitsOf z 17 3 = s.code := bits_pack hz hb 2 rfl
  have h6 : bitsOf z 24 1 = 0 := bits_pack hz hb 4 rfl
  refine ⟨?_, hz ▸ pack_lt _ hb⟩
  simp [decodeFields, fields46, reserved, kZero, bitB, regF, predF, enumF, h0, h1, h2, h3, h4, h5, h6, Reg.ofCode_code, bit_eq, Fin.ofNat_val, Except.bind, okBind, Scope.ofCode_code]

theorem cjoin (e k d) : Statement (.cjoin e k d) := by
  refine ⟨?_, rfl⟩
  intro z hz
  have e1 := e.toNat_lt
  have k1 := k.toNat_lt
  have d1 := d.code_lt
  simp only [encodeNat, Option.some.injEq, wordOf] at hz
  replace hz : z = pack [(3, 6), (14, 0), (7, d.code), (1, k.toNat), (6, 46), (1, e.toNat)] := by simp only [pack]; omega
  have hb : bounded [(3, 6), (14, 0), (7, d.code), (1, k.toNat), (6, 46), (1, e.toNat)] = true := by simp only [bounded, Bool.and_eq_true, decide_eq_true_eq, and_true]; omega
  have h0 : bitsOf z 25 6 = 46 := bits_pack hz hb 4 rfl
  have h1 : bitsOf z 0 3 = 6 := bits_pack hz hb 0 rfl
  have h2 : bitsOf z 3 14 = 0 := bits_pack hz hb 1 rfl
  have h3 : bitsOf z 31 1 = e.toNat := bits_pack hz hb 5 rfl
  have h4 : bitsOf z 24 1 = k.toNat := bits_pack hz hb 3 rfl
  have h5 : bitsOf z 17 7 = d.code := bits_pack hz hb 2 rfl
  refine ⟨?_, hz ▸ pack_lt _ hb⟩
  simp [decodeFields, fields46, reserved, kZero, bitB, regF, predF, enumF, h0, h1, h2, h3, h4, h5, Reg.ofCode_code, bit_eq, Fin.ofNat_val, Except.bind, okBind]

theorem cleave (e) : Statement (.cleave e) := by
  refine ⟨?_, rfl⟩
  intro z hz
  have e1 := e.toNat_lt
  simp only [encodeNat, Option.some.injEq, wordOf, Bool.toNat_false] at hz
  replace hz : z = pack [(3, 7), (21, 0), (1, 0), (6, 46), (1, e.toNat)] := by simp only [pack]; omega
  have hb : bounded [(3, 7), (21, 0), (1, 0), (6, 46), (1, e.toNat)] = true := by simp only [bounded, Bool.and_eq_true, decide_eq_true_eq, and_true]; omega
  have h0 : bitsOf z 25 6 = 46 := bits_pack hz hb 3 rfl
  have h1 : bitsOf z 0 3 = 7 := bits_pack hz hb 0 rfl
  have h2 : bitsOf z 3 21 = 0 := bits_pack hz hb 1 rfl
  have h3 : bitsOf z 31 1 = e.toNat := bits_pack hz hb 4 rfl
  have h4 : bitsOf z 24 1 = 0 := bits_pack hz hb 2 rfl
  refine ⟨?_, hz ▸ pack_lt _ hb⟩
  simp [decodeFields, fields46, reserved, kZero, bitB, regF, predF, enumF, h0, h1, h2, h3, h4, Reg.ofCode_code, bit_eq, Fin.ofNat_val, Except.bind, okBind]

theorem atomInt (e k d a s o v) : Statement (.atomInt e k d a s o v) := by
  refine ⟨?_, rfl⟩
  intro z hz
  have e1 := e.toNat_lt
  have k1 := k.toNat_lt
  have d1 := d.code_lt
  have a1 := a.code_lt
  have s1 := s.code_lt
  have o1 := o.isLt
  have v1 := v.code_lt
  simp only [encodeNat, Option.some.injEq, wordOf] at hz
  replace hz : z = pack [(3, v.code), (4, o.toNat), (3, s.code), (7, a.code), (7, d.code), (1, k.toNat), (6, 48), (1, e.toNat)] := by simp only [pack]; omega
  have hb : bounded [(3, v.code), (4, o.toNat), (3, s.code), (7, a.code), (7, d.code), (1, k.toNat), (6, 48), (1, e.toNat)] = true := by simp only [bounded, Bool.and_eq_true, decide_eq_true_eq, and_true]; omega
  have h0 : bitsOf z 25 6 = 48 := bits_pack hz hb 6 rfl
  have h1 : bitsOf z 31 1 = e.toNat := bits_pack hz hb 7 rfl
  have h2 : bitsOf z 24 1 = k.toNat := bits_pack hz hb 5 rfl
  have h3 : bitsOf z 17 7 = d.code := bits_pack hz hb 4 rfl
  have h4 : bitsOf z 10 7 = a.code := bits_pack hz hb 3 rfl
  have h5 : bitsOf z 3 4 = o.toNat := bits_pack hz hb 1 rfl
  have h6 : bitsOf z 7 3 = s.code := bits_pack hz hb 2 rfl
  have h7 : bitsOf z 0 3 = v.code := bits_pack hz hb 0 rfl
  have b0 : bvF z 3 4 = o := bvF_eq h5
  refine ⟨?_, hz ▸ pack_lt _ hb⟩
  simp [decodeFields, fields48, reserved, kZero, bitB, regF, predF, enumF, h0, h1, h2, h3, h4, h5, h6, h7, b0, Reg.ofCode_code, bit_eq, Fin.ofNat_val, Except.bind, okBind, RedOp.ofCode_code, Scope.ofCode_code]

theorem atomExt (e k d a s o v) : Statement (.atomExt e k d a s o v) := by
  refine ⟨?_, rfl⟩
  intro z hz
  have e1 := e.toNat_lt
  have k1 := k.toNat_lt
  have d1 := d.code_lt
  have a1 := a.code_lt
  have s1 := s.code_lt
  have o1 := o.isLt
  have v1 := v.code_lt
  simp only [encodeNat, Option.some.injEq, wordOf] at hz
  replace hz : z = pack [(3, v.code), (4, o.toNat), (3, s.code), (7, a.code), (7, d.code), (1, k.toNat), (6, 49), (1, e.toNat)] := by simp only [pack]; omega
  have hb : bounded [(3, v.code), (4, o.toNat), (3, s.code), (7, a.code), (7, d.code), (1, k.toNat), (6, 49), (1, e.toNat)] = true := by simp only [bounded, Bool.and_eq_true, decide_eq_true_eq, and_true]; omega
  have h0 : bitsOf z 25 6 = 49 := bits_pack hz hb 6 rfl
  have h1 : bitsOf z 31 1 = e.toNat := bits_pack hz hb 7 rfl
  have h2 : bitsOf z 24 1 = k.toNat := bits_pack hz hb 5 rfl
  have h3 : bitsOf z 17 7 = d.code := bits_pack hz hb 4 rfl
  have h4 : bitsOf z 10 7 = a.code := bits_pack hz hb 3 rfl
  have h5 : bitsOf z 3 4 = o.toNat := bits_pack hz hb 1 rfl
  have h6 : bitsOf z 7 3 = s.code := bits_pack hz hb 2 rfl
  have h7 : bitsOf z 0 3 = v.code := bits_pack hz hb 0 rfl
  have b0 : bvF z 3 4 = o := bvF_eq h5
  refine ⟨?_, hz ▸ pack_lt _ hb⟩
  simp [decodeFields, fields49, reserved, kZero, bitB, regF, predF, enumF, h0, h1, h2, h3, h4, h5, h6, h7, b0, Reg.ofCode_code, bit_eq, Fin.ofNat_val, Except.bind, okBind, AtomX.ofCode_code, Scope.ofCode_code]

theorem redInt (e d a s o v) : Statement (.redInt e d a s o v) := by
  refine ⟨?_, rfl⟩
  intro z hz
  have e1 := e.toNat_lt
  have d1 := d.code_lt
  have a1 := a.code_lt
  have s1 := s.code_lt
  have o1 := o.isLt
  have v1 := v.code_lt
  simp only [encodeNat, Option.some.injEq, wordOf, Bool.toNat_false] at hz
  replace hz : z = pack [(3, v.code), (4, o.toNat), (3, s.code), (7, a.code), (7, d.code), (1, 0), (6, 50), (1, e.toNat)] := by simp only [pack]; omega
  have hb : bounded [(3, v.code), (4, o.toNat), (3, s.code), (7, a.code), (7, d.code), (1, 0), (6, 50), (1, e.toNat)] = true := by simp only [bounded, Bool.and_eq_true, decide_eq_true_eq, and_true]; omega
  have h0 : bitsOf z 25 6 = 50 := bits_pack hz hb 6 rfl
  have h1 : bitsOf z 31 1 = e.toNat := bits_pack hz hb 7 rfl
  have h2 : bitsOf z 17 7 = d.code := bits_pack hz hb 4 rfl
  have h3 : bitsOf z 10 7 = a.code := bits_pack hz hb 3 rfl
  have h4 : bitsOf z 3 4 = o.toNat := bits_pack hz hb 1 rfl
  have h5 : bitsOf z 7 3 = s.code := bits_pack hz hb 2 rfl
  have h6 : bitsOf z 0 3 = v.code := bits_pack hz hb 0 rfl
  have h7 : bitsOf z 24 1 = 0 := bits_pack hz hb 5 rfl
  have b0 : bvF z 3 4 = o := bvF_eq h4
  refine ⟨?_, hz ▸ pack_lt _ hb⟩
  simp [decodeFields, fields50, reserved, kZero, bitB, regF, predF, enumF, h0, h1, h2, h3, h4, h5, h6, h7, b0, Reg.ofCode_code, bit_eq, Fin.ofNat_val, Except.bind, okBind, RedOp.ofCode_code, Scope.ofCode_code]

theorem redExt (e d a s o v) : Statement (.redExt e d a s o v) := by
  refine ⟨?_, rfl⟩
  intro z hz
  have e1 := e.toNat_lt
  have d1 := d.code_lt
  have a1 := a.code_lt
  have s1 := s.code_lt
  have o1 := o.isLt
  have v1 := v.code_lt
  simp only [encodeNat, Option.some.injEq, wordOf, Bool.toNat_false] at hz
  replace hz : z = pack [(3, v.code), (4, o.toNat), (3, s.code), (7, a.code), (7, d.code), (1, 0), (6, 51), (1, e.toNat)] := by simp only [pack]; omega
  have hb : bounded [(3, v.code), (4, o.toNat), (3, s.code), (7, a.code), (7, d.code), (1, 0), (6, 51), (1, e.toNat)] = true := by simp only [bounded, Bool.and_eq_true, decide_eq_true_eq, and_true]; omega
  have h0 : bitsOf z 25 6 = 51 := bits_pack hz hb 6 rfl
  have h1 : bitsOf z 0 3 = v.code := bits_pack hz hb 0 rfl
  have h2 : bitsOf z 31 1 = e.toNat := bits_pack hz hb 7 rfl
  have h3 : bitsOf z 17 7 = d.code := bits_pack hz hb 4 rfl
  have h4 : bitsOf z 10 7 = a.code := bits_pack hz hb 3 rfl
  have h5 : bitsOf z 3 4 = o.toNat := bits_pack hz hb 1 rfl
  have h6 : bitsOf z 7 3 = s.code := bits_pack hz hb 2 rfl
  have h7 : bitsOf z 0 2 = v.code := by simp only [bitsOf, hz, pack]; omega
  have h8 : bitsOf z 24 1 = 0 := bits_pack hz hb 5 rfl
  have b0 : bvF z 3 4 = o := bvF_eq h5
  refine ⟨?_, hz ▸ pack_lt _ hb⟩
  have hc : v.code < 4 := v1
  cases v <;> simp [decodeFields, fields51, reserved, kZero, bitB, regF, predF, enumF, h0, h1, h2, h3, h4, h5, h6, h7, h8, b0, Reg.ofCode_code, bit_eq, Fin.ofNat_val, Except.bind, okBind, RedX.ofCode_code, Scope.ofCode_code, RedX.code, RedX.ofCode?]

theorem semsig (e d a s o) : Statement (.semsig e d a s o) := by
  refine ⟨?_, rfl⟩
  intro z hz
  have e1 := e.toNat_lt
  have d1 := d.code_lt
  have a1 := a.code_lt
  have s1 := s.code_lt
  have o1 := o.isLt
  simp only [encodeNat, Option.some.injEq, wordOf, Bool.toNat_false] at hz
  replace hz : z = pack [(3, 0), (4, o.toNat), (3, s.code), (7, a.code), (7, d.code), (1, 0), (6, 52), (1, e.toNat)] := by simp only [pack]; omega
  have hb : bounded [(3, 0), (4, o.toNat), (3, s.code), (7, a.code), (7, d.code), (1, 0), (6, 52), (1, e.toNat)] = true := by simp only [bounded, Bool.and_eq_true, decide_eq_true_eq, and_true]; omega
  have h0 : bitsOf z 25 6 = 52 := bits_pack hz hb 6 rfl
  have h1 : bitsOf z 0 3 = 0 := bits_pack hz hb 0 rfl
  have h2 : bitsOf z 31 1 = e.toNat := bits_pack hz hb 7 rfl
  have h3 : bitsOf z 17 7 = d.code := bits_pack hz hb 4 rfl
  have h4 : bitsOf z 10 7 = a.code := bits_pack hz hb 3 rfl
  have h5 : bitsOf z 3 4 = o.toNat := bits_pack hz hb 1 rfl
  have h6 : bitsOf z 7 3 = s.code := bits_pack hz hb 2 rfl
  have h7 : bitsOf z 24 1 = 0 := bits_pack hz hb 5 rfl
  have b0 : bvF z 3 4 = o := bvF_eq h5
  refine ⟨?_, hz ▸ pack_lt _ hb⟩
  simp [decodeFields, fields52, reserved, kZero, bitB, regF, predF, enumF, h0, h1, h2, h3, h4, h5, h6, h7, b0, Reg.ofCode_code, bit_eq, Fin.ofNat_val, Except.bind, okBind, Scope.ofCode_code]

theorem semwait (e d a s o) : Statement (.semwait e d a s o) := by
  refine ⟨?_, rfl⟩
  intro z hz
  have e1 := e.toNat_lt
  have d1 := d.code_lt
  have a1 := a.code_lt
  have s1 := s.code_lt
  have o1 := o.isLt
  simp only [encodeNat, Option.some.injEq, wordOf, Bool.toNat_false] at hz
  replace hz : z = pack [(3, 1), (4, o.toNat), (3, s.code), (7, a.code), (7, d.code), (1, 0), (6, 52), (1, e.toNat)] := by simp only [pack]; omega
  have hb : bounded [(3, 1), (4, o.toNat), (3, s.code), (7, a.code), (7, d.code), (1, 0), (6, 52), (1, e.toNat)] = true := by simp only [bounded, Bool.and_eq_true, decide_eq_true_eq, and_true]; omega
  have h0 : bitsOf z 25 6 = 52 := bits_pack hz hb 6 rfl
  have h1 : bitsOf z 0 3 = 1 := bits_pack hz hb 0 rfl
  have h2 : bitsOf z 31 1 = e.toNat := bits_pack hz hb 7 rfl
  have h3 : bitsOf z 17 7 = d.code := bits_pack hz hb 4 rfl
  have h4 : bitsOf z 10 7 = a.code := bits_pack hz hb 3 rfl
  have h5 : bitsOf z 3 4 = o.toNat := bits_pack hz hb 1 rfl
  have h6 : bitsOf z 7 3 = s.code := bits_pack hz hb 2 rfl
  have h7 : bitsOf z 24 1 = 0 := bits_pack hz hb 5 rfl
  have b0 : bvF z 3 4 = o := bvF_eq h5
  refine ⟨?_, hz ▸ pack_lt _ hb⟩
  simp [decodeFields, fields52, reserved, kZero, bitB, regF, predF, enumF, h0, h1, h2, h3, h4, h5, h6, h7, b0, Reg.ofCode_code, bit_eq, Fin.ofNat_val, Except.bind, okBind, Scope.ofCode_code]

theorem semtake (e d a s o) : Statement (.semtake e d a s o) := by
  refine ⟨?_, rfl⟩
  intro z hz
  have e1 := e.toNat_lt
  have d1 := d.code_lt
  have a1 := a.code_lt
  have s1 := s.code_lt
  have o1 := o.isLt
  simp only [encodeNat, Option.some.injEq, wordOf, Bool.toNat_false] at hz
  replace hz : z = pack [(3, 2), (4, o.toNat), (3, s.code), (7, a.code), (7, d.code), (1, 0), (6, 52), (1, e.toNat)] := by simp only [pack]; omega
  have hb : bounded [(3, 2), (4, o.toNat), (3, s.code), (7, a.code), (7, d.code), (1, 0), (6, 52), (1, e.toNat)] = true := by simp only [bounded, Bool.and_eq_true, decide_eq_true_eq, and_true]; omega
  have h0 : bitsOf z 25 6 = 52 := bits_pack hz hb 6 rfl
  have h1 : bitsOf z 0 3 = 2 := bits_pack hz hb 0 rfl
  have h2 : bitsOf z 31 1 = e.toNat := bits_pack hz hb 7 rfl
  have h3 : bitsOf z 17 7 = d.code := bits_pack hz hb 4 rfl
  have h4 : bitsOf z 10 7 = a.code := bits_pack hz hb 3 rfl
  have h5 : bitsOf z 3 4 = o.toNat := bits_pack hz hb 1 rfl
  have h6 : bitsOf z 7 3 = s.code := bits_pack hz hb 2 rfl
  have h7 : bitsOf z 24 1 = 0 := bits_pack hz hb 5 rfl
  have b0 : bvF z 3 4 = o := bvF_eq h5
  refine ⟨?_, hz ▸ pack_lt _ hb⟩
  simp [decodeFields, fields52, reserved, kZero, bitB, regF, predF, enumF, h0, h1, h2, h3, h4, h5, h6, h7, b0, Reg.ofCode_code, bit_eq, Fin.ofNat_val, Except.bind, okBind, Scope.ofCode_code]

theorem spawn (e n c j t p) : Statement (.spawn e n c j t p) := by
  refine ⟨?_, rfl⟩
  intro z hz
  have e1 := e.toNat_lt
  have n1 := n.isLt
  have c1 := c.isLt
  have j1 := j.code_lt
  have t1 := t.code_lt
  have p1 := p.isLt
  simp only [encodeNat, Option.some.injEq, wordOf, Bool.toNat_false] at hz
  replace hz : z = pack [(3, p.val), (7, t.code), (7, j.code), (2, c.val), (5, n.toNat), (1, 0), (6, 53), (1, e.toNat)] := by simp only [pack]; omega
  have hb : bounded [(3, p.val), (7, t.code), (7, j.code), (2, c.val), (5, n.toNat), (1, 0), (6, 53), (1, e.toNat)] = true := by simp only [bounded, Bool.and_eq_true, decide_eq_true_eq, and_true]; omega
  have h0 : bitsOf z 25 6 = 53 := bits_pack hz hb 6 rfl
  have h1 : bitsOf z 17 2 = c.val := bits_pack hz hb 3 rfl
  have h2 : bitsOf z 0 3 = p.val := bits_pack hz hb 0 rfl
  have h3 : bitsOf z 31 1 = e.toNat := bits_pack hz hb 7 rfl
  have h4 : bitsOf z 10 7 = j.code := bits_pack hz hb 2 rfl
  have h5 : bitsOf z 3 7 = t.code := bits_pack hz hb 1 rfl
  have h6 : bitsOf z 19 5 = n.toNat := bits_pack hz hb 4 rfl
  have h7 : bitsOf z 24 1 = 0 := bits_pack hz hb 5 rfl
  have b0 : bvF z 19 5 = n := bvF_eq h6
  refine ⟨?_, hz ▸ pack_lt _ hb⟩
  simp [decodeFields, fields53, reserved, kZero, bitB, regF, predF, enumF, h0, h1, h2, h3, h4, h5, h6, h7, b0, Reg.ofCode_code, bit_eq, Fin.ofNat_val, Except.bind, okBind]

theorem joinw (e d a o) : Statement (.joinw e d a o) := by
  refine ⟨?_, rfl⟩
  intro z hz
  have e1 := e.toNat_lt
  have d1 := d.code_lt
  have a1 := a.code_lt
  have o1 := o.isLt
  simp only [encodeNat, Option.some.injEq, wordOf, Bool.toNat_false] at hz
  replace hz : z = pack [(3, 0), (7, o.toNat), (7, a.code), (7, d.code), (1, 0), (6, 54), (1, e.toNat)] := by simp only [pack]; omega
  have hb : bounded [(3, 0), (7, o.toNat), (7, a.code), (7, d.code), (1, 0), (6, 54), (1, e.toNat)] = true := by simp only [bounded, Bool.and_eq_true, decide_eq_true_eq, and_true]; omega
  have h0 : bitsOf z 25 6 = 54 := bits_pack hz hb 5 rfl
  have h1 : bitsOf z 0 3 = 0 := bits_pack hz hb 0 rfl
  have h2 : bitsOf z 31 1 = e.toNat := bits_pack hz hb 6 rfl
  have h3 : bitsOf z 17 7 = d.code := bits_pack hz hb 3 rfl
  have h4 : bitsOf z 10 7 = a.code := bits_pack hz hb 2 rfl
  have h5 : bitsOf z 3 7 = o.toNat := bits_pack hz hb 1 rfl
  have h6 : bitsOf z 24 1 = 0 := bits_pack hz hb 4 rfl
  have b0 : bvF z 3 7 = o := bvF_eq h5
  refine ⟨?_, hz ▸ pack_lt _ hb⟩
  simp [decodeFields, fields54, reserved, kZero, bitB, regF, predF, enumF, h0, h1, h2, h3, h4, h5, h6, b0, Reg.ofCode_code, bit_eq, Fin.ofNat_val, Except.bind, okBind]

theorem bar (e) : Statement (.bar e) := by
  refine ⟨?_, rfl⟩
  intro z hz
  have e1 := e.toNat_lt
  simp only [encodeNat, Option.some.injEq, wordOf, Bool.toNat_false] at hz
  replace hz : z = pack [(3, 1), (21, 0), (1, 0), (6, 54), (1, e.toNat)] := by simp only [pack]; omega
  have hb : bounded [(3, 1), (21, 0), (1, 0), (6, 54), (1, e.toNat)] = true := by simp only [bounded, Bool.and_eq_true, decide_eq_true_eq, and_true]; omega
  have h0 : bitsOf z 25 6 = 54 := bits_pack hz hb 3 rfl
  have h1 : bitsOf z 0 3 = 1 := bits_pack hz hb 0 rfl
  have h2 : bitsOf z 3 21 = 0 := bits_pack hz hb 1 rfl
  have h3 : bitsOf z 31 1 = e.toNat := bits_pack hz hb 4 rfl
  have h4 : bitsOf z 24 1 = 0 := bits_pack hz hb 2 rfl
  refine ⟨?_, hz ▸ pack_lt _ hb⟩
  simp [decodeFields, fields54, reserved, kZero, bitB, regF, predF, enumF, h0, h1, h2, h3, h4, Reg.ofCode_code, bit_eq, Fin.ofNat_val, Except.bind, okBind]

theorem cwait (e d a o) : Statement (.cwait e d a o) := by
  refine ⟨?_, rfl⟩
  intro z hz
  have e1 := e.toNat_lt
  have d1 := d.code_lt
  have a1 := a.code_lt
  have o1 := o.isLt
  simp only [encodeNat, Option.some.injEq, wordOf, Bool.toNat_false] at hz
  replace hz : z = pack [(3, 2), (7, o.toNat), (7, a.code), (7, d.code), (1, 0), (6, 54), (1, e.toNat)] := by simp only [pack]; omega
  have hb : bounded [(3, 2), (7, o.toNat), (7, a.code), (7, d.code), (1, 0), (6, 54), (1, e.toNat)] = true := by simp only [bounded, Bool.and_eq_true, decide_eq_true_eq, and_true]; omega
  have h0 : bitsOf z 25 6 = 54 := bits_pack hz hb 5 rfl
  have h1 : bitsOf z 0 3 = 2 := bits_pack hz hb 0 rfl
  have h2 : bitsOf z 31 1 = e.toNat := bits_pack hz hb 6 rfl
  have h3 : bitsOf z 17 7 = d.code := bits_pack hz hb 3 rfl
  have h4 : bitsOf z 10 7 = a.code := bits_pack hz hb 2 rfl
  have h5 : bitsOf z 3 7 = o.toNat := bits_pack hz hb 1 rfl
  have h6 : bitsOf z 24 1 = 0 := bits_pack hz hb 4 rfl
  have b0 : bvF z 3 7 = o := bvF_eq h5
  refine ⟨?_, hz ▸ pack_lt _ hb⟩
  simp [decodeFields, fields54, reserved, kZero, bitB, regF, predF, enumF, h0, h1, h2, h3, h4, h5, h6, b0, Reg.ofCode_code, bit_eq, Fin.ofNat_val, Except.bind, okBind]

theorem csig (e d a o) : Statement (.csig e d a o) := by
  refine ⟨?_, rfl⟩
  intro z hz
  have e1 := e.toNat_lt
  have d1 := d.code_lt
  have a1 := a.code_lt
  have o1 := o.isLt
  simp only [encodeNat, Option.some.injEq, wordOf, Bool.toNat_false] at hz
  replace hz : z = pack [(3, 3), (7, o.toNat), (7, a.code), (7, d.code), (1, 0), (6, 54), (1, e.toNat)] := by simp only [pack]; omega
  have hb : bounded [(3, 3), (7, o.toNat), (7, a.code), (7, d.code), (1, 0), (6, 54), (1, e.toNat)] = true := by simp only [bounded, Bool.and_eq_true, decide_eq_true_eq, and_true]; omega
  have h0 : bitsOf z 25 6 = 54 := bits_pack hz hb 5 rfl
  have h1 : bitsOf z 0 3 = 3 := bits_pack hz hb 0 rfl
  have h2 : bitsOf z 31 1 = e.toNat := bits_pack hz hb 6 rfl
  have h3 : bitsOf z 17 7 = d.code := bits_pack hz hb 3 rfl
  have h4 : bitsOf z 10 7 = a.code := bits_pack hz hb 2 rfl
  have h5 : bitsOf z 3 7 = o.toNat := bits_pack hz hb 1 rfl
  have h6 : bitsOf z 24 1 = 0 := bits_pack hz hb 4 rfl
  have b0 : bvF z 3 7 = o := bvF_eq h5
  refine ⟨?_, hz ▸ pack_lt _ hb⟩
  simp [decodeFields, fields54, reserved, kZero, bitB, regF, predF, enumF, h0, h1, h2, h3, h4, h5, h6, b0, Reg.ofCode_code, bit_eq, Fin.ofNat_val, Except.bind, okBind]

theorem enqt (e d a o) : Statement (.enqt e d a o) := by
  refine ⟨?_, rfl⟩
  intro z hz
  have e1 := e.toNat_lt
  have d1 := d.code_lt
  have a1 := a.code_lt
  have o1 := o.isLt
  simp only [encodeNat, Option.some.injEq, wordOf, Bool.toNat_false] at hz
  replace hz : z = pack [(3, 4), (7, o.toNat), (7, a.code), (7, d.code), (1, 0), (6, 54), (1, e.toNat)] := by simp only [pack]; omega
  have hb : bounded [(3, 4), (7, o.toNat), (7, a.code), (7, d.code), (1, 0), (6, 54), (1, e.toNat)] = true := by simp only [bounded, Bool.and_eq_true, decide_eq_true_eq, and_true]; omega
  have h0 : bitsOf z 25 6 = 54 := bits_pack hz hb 5 rfl
  have h1 : bitsOf z 0 3 = 4 := bits_pack hz hb 0 rfl
  have h2 : bitsOf z 31 1 = e.toNat := bits_pack hz hb 6 rfl
  have h3 : bitsOf z 17 7 = d.code := bits_pack hz hb 3 rfl
  have h4 : bitsOf z 10 7 = a.code := bits_pack hz hb 2 rfl
  have h5 : bitsOf z 3 7 = o.toNat := bits_pack hz hb 1 rfl
  have h6 : bitsOf z 24 1 = 0 := bits_pack hz hb 4 rfl
  have b0 : bvF z 3 7 = o := bvF_eq h5
  refine ⟨?_, hz ▸ pack_lt _ hb⟩
  simp [decodeFields, fields54, reserved, kZero, bitB, regF, predF, enumF, h0, h1, h2, h3, h4, h5, h6, b0, Reg.ofCode_code, bit_eq, Fin.ofNat_val, Except.bind, okBind]

theorem mma (e a b c j s) : Statement (.mma e a b c j s) := by
  refine ⟨?_, rfl⟩
  intro z hz
  have e1 := e.toNat_lt
  have a1 := a.isLt
  have b1 := b.isLt
  have c1 := c.isLt
  have j1 := j.isLt
  have s1 := s.isLt
  simp only [encodeNat, Option.some.injEq, wordOf, Bool.toNat_false] at hz
  replace hz : z = pack [(4, s.val), (2, j.val), (6, c.val), (6, b.val), (6, a.val), (1, 0), (6, 56), (1, e.toNat)] := by simp only [pack]; omega
  have hb : bounded [(4, s.val), (2, j.val), (6, c.val), (6, b.val), (6, a.val), (1, 0), (6, 56), (1, e.toNat)] = true := by simp only [bounded, Bool.and_eq_true, decide_eq_true_eq, and_true]; omega
  have h0 : bitsOf z 25 6 = 56 := bits_pack hz hb 6 rfl
  have h1 : bitsOf z 18 6 = a.val := bits_pack hz hb 4 rfl
  have h2 : bitsOf z 12 6 = b.val := bits_pack hz hb 3 rfl
  have h3 : bitsOf z 6 6 = c.val := bits_pack hz hb 2 rfl
  have h4 : bitsOf z 4 2 = j.val := bits_pack hz hb 1 rfl
  have h5 : bitsOf z 0 4 = s.val := bits_pack hz hb 0 rfl
  have h6 : bitsOf z 31 1 = e.toNat := bits_pack hz hb 7 rfl
  have h7 : bitsOf z 24 1 = 0 := bits_pack hz hb 5 rfl
  refine ⟨?_, hz ▸ pack_lt _ hb⟩
  simp [decodeFields, fields56, reserved, kZero, bitB, regF, predF, enumF, h0, h1, h2, h3, h4, h5, h6, h7, Reg.ofCode_code, bit_eq, Fin.ofNat_val, Except.bind, okBind]

theorem mmas (e a b c j s) : Statement (.mmas e a b c j s) := by
  refine ⟨?_, rfl⟩
  intro z hz
  have e1 := e.toNat_lt
  have a1 := a.isLt
  have b1 := b.isLt
  have c1 := c.isLt
  have j1 := j.isLt
  have s1 := s.isLt
  simp only [encodeNat, Option.some.injEq, wordOf, Bool.toNat_false] at hz
  replace hz : z = pack [(4, s.val), (2, j.val), (6, c.val), (6, b.val), (6, a.val), (1, 0), (6, 57), (1, e.toNat)] := by simp only [pack]; omega
  have hb : bounded [(4, s.val), (2, j.val), (6, c.val), (6, b.val), (6, a.val), (1, 0), (6, 57), (1, e.toNat)] = true := by simp only [bounded, Bool.and_eq_true, decide_eq_true_eq, and_true]; omega
  have h0 : bitsOf z 25 6 = 57 := bits_pack hz hb 6 rfl
  have h1 : bitsOf z 18 6 = a.val := bits_pack hz hb 4 rfl
  have h2 : bitsOf z 12 6 = b.val := bits_pack hz hb 3 rfl
  have h3 : bitsOf z 6 6 = c.val := bits_pack hz hb 2 rfl
  have h4 : bitsOf z 4 2 = j.val := bits_pack hz hb 1 rfl
  have h5 : bitsOf z 0 4 = s.val := bits_pack hz hb 0 rfl
  have h6 : bitsOf z 31 1 = e.toNat := bits_pack hz hb 7 rfl
  have h7 : bitsOf z 24 1 = 0 := bits_pack hz hb 5 rfl
  refine ⟨?_, hz ▸ pack_lt _ hb⟩
  simp [decodeFields, fields57, reserved, kZero, bitB, regF, predF, enumF, h0, h1, h2, h3, h4, h5, h6, h7, Reg.ofCode_code, bit_eq, Fin.ofNat_val, Except.bind, okBind]

theorem cinit (e c) : Statement (.cinit e c) := by
  refine ⟨?_, rfl⟩
  intro z hz
  have e1 := e.toNat_lt
  have c1 := c.isLt
  simp only [encodeNat, Option.some.injEq, wordOf, Bool.toNat_false] at hz
  replace hz : z = pack [(3, 0), (3, 0), (6, c.val), (12, 0), (1, 0), (6, 58), (1, e.toNat)] := by simp only [pack]; omega
  have hb : bounded [(3, 0), (3, 0), (6, c.val), (12, 0), (1, 0), (6, 58), (1, e.toNat)] = true := by simp only [bounded, Bool.and_eq_true, decide_eq_true_eq, and_true]; omega
  have h0 : bitsOf z 25 6 = 58 := bits_pack hz hb 5 rfl
  have h1 : bitsOf z 0 3 = 0 := bits_pack hz hb 0 rfl
  have h2 : bitsOf z 3 3 = 0 := bits_pack hz hb 1 rfl
  have h3 : bitsOf z 12 12 = 0 := bits_pack hz hb 3 rfl
  have h4 : bitsOf z 6 6 = c.val := bits_pack hz hb 2 rfl
  have h5 : bitsOf z 31 1 = e.toNat := bits_pack hz hb 6 rfl
  have h6 : bitsOf z 24 1 = 0 := bits_pack hz hb 4 rfl
  refine ⟨?_, hz ▸ pack_lt _ hb⟩
  simp [decodeFields, fields58, reserved, kZero, bitB, regF, predF, enumF, h0, h1, h2, h3, h4, h5, h6, Reg.ofCode_code, bit_eq, Fin.ofNat_val, Except.bind, okBind]

theorem cdrain (e a c r) : Statement (.cdrain e a c r) := by
  refine ⟨?_, rfl⟩
  intro z hz
  have e1 := e.toNat_lt
  have a1 := a.isLt
  have c1 := c.isLt
  have r1 := r.code_lt
  simp only [encodeNat, Option.some.injEq, wordOf, Bool.toNat_false] at hz
  replace hz : z = pack [(3, 1), (3, r.code), (6, c.val), (6, 0), (6, a.val), (1, 0), (6, 58), (1, e.toNat)] := by simp only [pack]; omega
  have hb : bounded [(3, 1), (3, r.code), (6, c.val), (6, 0), (6, a.val), (1, 0), (6, 58), (1, e.toNat)] = true := by simp only [bounded, Bool.and_eq_true, decide_eq_true_eq, and_true]; omega
  have h0 : bitsOf z 25 6 = 58 := bits_pack hz hb 6 rfl
  have h1 : bitsOf z 0 3 = 1 := bits_pack hz hb 0 rfl
  have h2 : bitsOf z 12 6 = 0 := bits_pack hz hb 3 rfl
  have h3 : bitsOf z 18 6 = a.val := bits_pack hz hb 4 rfl
  have h4 : bitsOf z 6 6 = c.val := bits_pack hz hb 2 rfl
  have h5 : bitsOf z 31 1 = e.toNat := bits_pack hz hb 7 rfl
  have h6 : bitsOf z 3 3 = r.code := bits_pack hz hb 1 rfl
  have h7 : bitsOf z 24 1 = 0 := bits_pack hz hb 5 rfl
  refine ⟨?_, hz ▸ pack_lt _ hb⟩
  simp [decodeFields, fields58, reserved, kZero, bitB, regF, predF, enumF, h0, h1, h2, h3, h4, h5, h6, h7, Reg.ofCode_code, bit_eq, Fin.ofNat_val, Except.bind, okBind, Rnd.ofCode_code]

theorem tdef (e t q) : Statement (.tdef e t q) := by
  refine ⟨?_, rfl⟩
  intro z hz
  have e1 := e.toNat_lt
  have t1 := t.isLt
  have q1 := q.code_lt
  simp only [encodeNat, Option.some.injEq, wordOf, Bool.toNat_false] at hz
  replace hz : z = pack [(3, 2), (7, 0), (7, q.code), (1, 0), (6, t.val), (1, 0), (6, 58), (1, e.toNat)] := by simp only [pack]; omega
  have hb : bounded [(3, 2), (7, 0), (7, q.code), (1, 0), (6, t.val), (1, 0), (6, 58), (1, e.toNat)] = true := by simp only [bounded, Bool.and_eq_true, decide_eq_true_eq, and_true]; omega
  have h0 : bitsOf z 25 6 = 58 := bits_pack hz hb 6 rfl
  have h1 : bitsOf z 0 3 = 2 := bits_pack hz hb 0 rfl
  have h2 : bitsOf z 3 7 = 0 := bits_pack hz hb 1 rfl
  have h3 : bitsOf z 17 1 = 0 := bits_pack hz hb 3 rfl
  have h4 : bitsOf z 18 6 = t.val := bits_pack hz hb 4 rfl
  have h5 : bitsOf z 31 1 = e.toNat := bits_pack hz hb 7 rfl
  have h6 : bitsOf z 10 7 = q.code := bits_pack hz hb 2 rfl
  have h7 : bitsOf z 24 1 = 0 := bits_pack hz hb 5 rfl
  refine ⟨?_, hz ▸ pack_lt _ hb⟩
  simp [decodeFields, fields58, reserved, kZero, bitB, regF, predF, enumF, h0, h1, h2, h3, h4, h5, h6, h7, Reg.ofCode_code, bit_eq, Fin.ofNat_val, Except.bind, okBind]

theorem tset (e t s) : Statement (.tset e t s) := by
  refine ⟨?_, rfl⟩
  intro z hz
  have e1 := e.toNat_lt
  have t1 := t.isLt
  have s1 := s.code_lt
  simp only [encodeNat, Option.some.injEq, wordOf, Bool.toNat_false] at hz
  replace hz : z = pack [(3, 3), (13, 0), (2, s.code), (6, t.val), (1, 0), (6, 58), (1, e.toNat)] := by simp only [pack]; omega
  have hb : bounded [(3, 3), (13, 0), (2, s.code), (6, t.val), (1, 0), (6, 58), (1, e.toNat)] = true := by simp only [bounded, Bool.and_eq_true, decide_eq_true_eq, and_true]; omega
  have h0 : bitsOf z 25 6 = 58 := bits_pack hz hb 5 rfl
  have h1 : bitsOf z 0 3 = 3 := bits_pack hz hb 0 rfl
  have h2 : bitsOf z 3 13 = 0 := bits_pack hz hb 1 rfl
  have h3 : bitsOf z 18 6 = t.val := bits_pack hz hb 3 rfl
  have h4 : bitsOf z 31 1 = e.toNat := bits_pack hz hb 6 rfl
  have h5 : bitsOf z 16 2 = s.code := bits_pack hz hb 2 rfl
  have h6 : bitsOf z 24 1 = 0 := bits_pack hz hb 4 rfl
  refine ⟨?_, hz ▸ pack_lt _ hb⟩
  simp [decodeFields, fields58, reserved, kZero, bitB, regF, predF, enumF, h0, h1, h2, h3, h4, h5, h6, Reg.ofCode_code, bit_eq, Fin.ofNat_val, Except.bind, okBind, TileState.ofCode_code]

theorem ckmode (e m) : Statement (.ckmode e m) := by
  refine ⟨?_, rfl⟩
  intro z hz
  have e1 := e.toNat_lt
  have m1 := m.isLt
  simp only [encodeNat, Option.some.injEq, wordOf, Bool.toNat_false] at hz
  replace hz : z = pack [(3, 4), (3, m.toNat), (18, 0), (1, 0), (6, 58), (1, e.toNat)] := by simp only [pack]; omega
  have hb : bounded [(3, 4), (3, m.toNat), (18, 0), (1, 0), (6, 58), (1, e.toNat)] = true := by simp only [bounded, Bool.and_eq_true, decide_eq_true_eq, and_true]; omega
  have h0 : bitsOf z 25 6 = 58 := bits_pack hz hb 4 rfl
  have h1 : bitsOf z 0 3 = 4 := bits_pack hz hb 0 rfl
  have h2 : bitsOf z 6 18 = 0 := bits_pack hz hb 2 rfl
  have h3 : bitsOf z 31 1 = e.toNat := bits_pack hz hb 5 rfl
  have h4 : bitsOf z 3 3 = m.toNat := bits_pack hz hb 1 rfl
  have h5 : bitsOf z 24 1 = 0 := bits_pack hz hb 3 rfl
  have b0 : bvF z 3 3 = m := bvF_eq h4
  refine ⟨?_, hz ▸ pack_lt _ hb⟩
  simp [decodeFields, fields58, reserved, kZero, bitB, regF, predF, enumF, h0, h1, h2, h3, h4, h5, b0, Reg.ofCode_code, bit_eq, Fin.ofNat_val, Except.bind, okBind]

theorem qbind (e q g i) : Statement (.qbind e q g i) := by
  refine ⟨?_, rfl⟩
  intro z hz
  have e1 := e.toNat_lt
  have q1 := q.isLt
  have g1 := g.isLt
  have i1 := i.isLt
  simp only [encodeNat, Option.some.injEq, wordOf, Bool.toNat_false] at hz
  replace hz : z = pack [(3, 5), (12, 0), (3, i.toNat), (3, g.toNat), (3, q.val), (1, 0), (6, 58), (1, e.toNat)] := by simp only [pack]; omega
  have hb : bounded [(3, 5), (12, 0), (3, i.toNat), (3, g.toNat), (3, q.val), (1, 0), (6, 58), (1, e.toNat)] = true := by simp only [bounded, Bool.and_eq_true, decide_eq_true_eq, and_true]; omega
  have h0 : bitsOf z 25 6 = 58 := bits_pack hz hb 6 rfl
  have h1 : bitsOf z 0 3 = 5 := bits_pack hz hb 0 rfl
  have h2 : bitsOf z 3 12 = 0 := bits_pack hz hb 1 rfl
  have h3 : bitsOf z 21 3 = q.val := bits_pack hz hb 4 rfl
  have h4 : bitsOf z 31 1 = e.toNat := bits_pack hz hb 7 rfl
  have h5 : bitsOf z 18 3 = g.toNat := bits_pack hz hb 3 rfl
  have h6 : bitsOf z 15 3 = i.toNat := bits_pack hz hb 2 rfl
  have h7 : bitsOf z 24 1 = 0 := bits_pack hz hb 5 rfl
  have b0 : bvF z 18 3 = g := bvF_eq h5
  have b1 : bvF z 15 3 = i := bvF_eq h6
  refine ⟨?_, hz ▸ pack_lt _ hb⟩
  simp [decodeFields, fields58, reserved, kZero, bitB, regF, predF, enumF, h0, h1, h2, h3, h4, h5, h6, h7, b0, b1, Reg.ofCode_code, bit_eq, Fin.ofNat_val, Except.bind, okBind]

theorem qstat (e k q d) : Statement (.qstat e k q d) := by
  refine ⟨?_, rfl⟩
  intro z hz
  have e1 := e.toNat_lt
  have k1 := k.toNat_lt
  have q1 := q.isLt
  have d1 := d.code_lt
  simp only [encodeNat, Option.some.injEq, wordOf] at hz
  replace hz : z = pack [(3, 6), (7, 0), (7, d.code), (4, 0), (3, q.val), (1, k.toNat), (6, 58), (1, e.toNat)] := by simp only [pack]; omega
  have hb : bounded [(3, 6), (7, 0), (7, d.code), (4, 0), (3, q.val), (1, k.toNat), (6, 58), (1, e.toNat)] = true := by simp only [bounded, Bool.and_eq_true, decide_eq_true_eq, and_true]; omega
  have h0 : bitsOf z 25 6 = 58 := bits_pack hz hb 6 rfl
  have h1 : bitsOf z 0 3 = 6 := bits_pack hz hb 0 rfl
  have h2 : bitsOf z 3 7 = 0 := bits_pack hz hb 1 rfl
  have h3 : bitsOf z 17 4 = 0 := bits_pack hz hb 3 rfl
  have h4 : bitsOf z 21 3 = q.val := bits_pack hz hb 4 rfl
  have h5 : bitsOf z 31 1 = e.toNat := bits_pack hz hb 7 rfl
  have h6 : bitsOf z 24 1 = k.toNat := bits_pack hz hb 5 rfl
  have h7 : bitsOf z 10 7 = d.code := bits_pack hz hb 2 rfl
  refine ⟨?_, hz ▸ pack_lt _ hb⟩
  simp [decodeFields, fields58, reserved, kZero, bitB, regF, predF, enumF, h0, h1, h2, h3, h4, h5, h6, h7, Reg.ofCode_code, bit_eq, Fin.ofNat_val, Except.bind, okBind]

theorem srd (e k d i) : Statement (.srd e k d i) := by
  refine ⟨?_, rfl⟩
  intro z hz
  have e1 := e.toNat_lt
  have k1 := k.toNat_lt
  have d1 := d.code_lt
  have i1 := i.isLt
  simp only [encodeNat, Option.some.injEq, wordOf] at hz
  replace hz : z = pack [(8, i.toNat), (8, 0), (1, 0), (7, d.code), (1, k.toNat), (6, 60), (1, e.toNat)] := by simp only [pack]; omega
  have hb : bounded [(8, i.toNat), (8, 0), (1, 0), (7, d.code), (1, k.toNat), (6, 60), (1, e.toNat)] = true := by simp only [bounded, Bool.and_eq_true, decide_eq_true_eq, and_true]; omega
  have h0 : bitsOf z 25 6 = 60 := bits_pack hz hb 5 rfl
  have h1 : bitsOf z 16 1 = 0 := bits_pack hz hb 2 rfl
  have h2 : bitsOf z 8 8 = 0 := bits_pack hz hb 1 rfl
  have h3 : bitsOf z 31 1 = e.toNat := bits_pack hz hb 6 rfl
  have h4 : bitsOf z 24 1 = k.toNat := bits_pack hz hb 4 rfl
  have h5 : bitsOf z 17 7 = d.code := bits_pack hz hb 3 rfl
  have h6 : bitsOf z 0 8 = i.toNat := bits_pack hz hb 0 rfl
  have b0 : bvF z 0 8 = i := bvF_eq h6
  refine ⟨?_, hz ▸ pack_lt _ hb⟩
  simp [decodeFields, fields60, reserved, kZero, bitB, regF, predF, enumF, h0, h1, h2, h3, h4, h5, h6, b0, Reg.ofCode_code, bit_eq, Fin.ofNat_val, Except.bind, okBind]

theorem swr (e s i) : Statement (.swr e s i) := by
  refine ⟨?_, rfl⟩
  intro z hz
  have e1 := e.toNat_lt
  have s1 := s.code_lt
  have i1 := i.isLt
  simp only [encodeNat, Option.some.injEq, wordOf, Bool.toNat_false] at hz
  replace hz : z = pack [(8, i.toNat), (8, 0), (1, 1), (7, s.code), (1, 0), (6, 60), (1, e.toNat)] := by simp only [pack]; omega
  have hb : bounded [(8, i.toNat), (8, 0), (1, 1), (7, s.code), (1, 0), (6, 60), (1, e.toNat)] = true := by simp only [bounded, Bool.and_eq_true, decide_eq_true_eq, and_true]; omega
  have h0 : bitsOf z 25 6 = 60 := bits_pack hz hb 5 rfl
  have h1 : bitsOf z 16 1 = 1 := bits_pack hz hb 2 rfl
  have h2 : bitsOf z 8 8 = 0 := bits_pack hz hb 1 rfl
  have h3 : bitsOf z 31 1 = e.toNat := bits_pack hz hb 6 rfl
  have h4 : bitsOf z 17 7 = s.code := bits_pack hz hb 3 rfl
  have h5 : bitsOf z 0 8 = i.toNat := bits_pack hz hb 0 rfl
  have h6 : bitsOf z 24 1 = 0 := bits_pack hz hb 4 rfl
  have b0 : bvF z 0 8 = i := bvF_eq h5
  refine ⟨?_, hz ▸ pack_lt _ hb⟩
  simp [decodeFields, fields60, reserved, kZero, bitB, regF, predF, enumF, h0, h1, h2, h3, h4, h5, h6, b0, Reg.ofCode_code, bit_eq, Fin.ofNat_val, Except.bind, okBind]

theorem trap (e c) : Statement (.trap e c) := by
  refine ⟨?_, rfl⟩
  intro z hz
  have e1 := e.toNat_lt
  have c1 := c.isLt
  simp only [encodeNat, Option.some.injEq, wordOf, Bool.toNat_false] at hz
  replace hz : z = pack [(3, 0), (14, c.toNat), (7, 0), (1, 0), (6, 61), (1, e.toNat)] := by simp only [pack]; omega
  have hb : bounded [(3, 0), (14, c.toNat), (7, 0), (1, 0), (6, 61), (1, e.toNat)] = true := by simp only [bounded, Bool.and_eq_true, decide_eq_true_eq, and_true]; omega
  have h0 : bitsOf z 25 6 = 61 := bits_pack hz hb 4 rfl
  have h1 : bitsOf z 0 3 = 0 := bits_pack hz hb 0 rfl
  have h2 : bitsOf z 17 7 = 0 := bits_pack hz hb 2 rfl
  have h3 : bitsOf z 31 1 = e.toNat := bits_pack hz hb 5 rfl
  have h4 : bitsOf z 3 14 = c.toNat := bits_pack hz hb 1 rfl
  have h5 : bitsOf z 24 1 = 0 := bits_pack hz hb 3 rfl
  have b0 : bvF z 3 14 = c := bvF_eq h4
  refine ⟨?_, hz ▸ pack_lt _ hb⟩
  simp [decodeFields, fields61, reserved, kZero, bitB, regF, predF, enumF, h0, h1, h2, h3, h4, h5, b0, Reg.ofCode_code, bit_eq, Fin.ofNat_val, Except.bind, okBind]

theorem rte (e) : Statement (.rte e) := by
  refine ⟨?_, rfl⟩
  intro z hz
  have e1 := e.toNat_lt
  simp only [encodeNat, Option.some.injEq, wordOf, Bool.toNat_false] at hz
  replace hz : z = pack [(3, 1), (21, 0), (1, 0), (6, 61), (1, e.toNat)] := by simp only [pack]; omega
  have hb : bounded [(3, 1), (21, 0), (1, 0), (6, 61), (1, e.toNat)] = true := by simp only [bounded, Bool.and_eq_true, decide_eq_true_eq, and_true]; omega
  have h0 : bitsOf z 25 6 = 61 := bits_pack hz hb 3 rfl
  have h1 : bitsOf z 0 3 = 1 := bits_pack hz hb 0 rfl
  have h2 : bitsOf z 3 21 = 0 := bits_pack hz hb 1 rfl
  have h3 : bitsOf z 31 1 = e.toNat := bits_pack hz hb 4 rfl
  have h4 : bitsOf z 24 1 = 0 := bits_pack hz hb 2 rfl
  refine ⟨?_, hz ▸ pack_lt _ hb⟩
  simp [decodeFields, fields61, reserved, kZero, bitB, regF, predF, enumF, h0, h1, h2, h3, h4, Reg.ofCode_code, bit_eq, Fin.ofNat_val, Except.bind, okBind]

theorem bkpt (e c) : Statement (.bkpt e c) := by
  refine ⟨?_, rfl⟩
  intro z hz
  have e1 := e.toNat_lt
  have c1 := c.isLt
  simp only [encodeNat, Option.some.injEq, wordOf, Bool.toNat_false] at hz
  replace hz : z = pack [(3, 2), (14, c.toNat), (7, 0), (1, 0), (6, 61), (1, e.toNat)] := by simp only [pack]; omega
  have hb : bounded [(3, 2), (14, c.toNat), (7, 0), (1, 0), (6, 61), (1, e.toNat)] = true := by simp only [bounded, Bool.and_eq_true, decide_eq_true_eq, and_true]; omega
  have h0 : bitsOf z 25 6 = 61 := bits_pack hz hb 4 rfl
  have h1 : bitsOf z 0 3 = 2 := bits_pack hz hb 0 rfl
  have h2 : bitsOf z 17 7 = 0 := bits_pack hz hb 2 rfl
  have h3 : bitsOf z 31 1 = e.toNat := bits_pack hz hb 5 rfl
  have h4 : bitsOf z 3 14 = c.toNat := bits_pack hz hb 1 rfl
  have h5 : bitsOf z 24 1 = 0 := bits_pack hz hb 3 rfl
  have b0 : bvF z 3 14 = c := bvF_eq h4
  refine ⟨?_, hz ▸ pack_lt _ hb⟩
  simp [decodeFields, fields61, reserved, kZero, bitB, regF, predF, enumF, h0, h1, h2, h3, h4, h5, b0, Reg.ofCode_code, bit_eq, Fin.ofNat_val, Except.bind, okBind]

theorem step (e a) : Statement (.step e a) := by
  refine ⟨?_, rfl⟩
  intro z hz
  have e1 := e.toNat_lt
  have a1 := a.code_lt
  simp only [encodeNat, Option.some.injEq, wordOf, Bool.toNat_false] at hz
  replace hz : z = pack [(3, 3), (7, 0), (7, a.code), (7, 0), (1, 0), (6, 61), (1, e.toNat)] := by simp only [pack]; omega
  have hb : bounded [(3, 3), (7, 0), (7, a.code), (7, 0), (1, 0), (6, 61), (1, e.toNat)] = true := by simp only [bounded, Bool.and_eq_true, decide_eq_true_eq, and_true]; omega
  have h0 : bitsOf z 25 6 = 61 := bits_pack hz hb 5 rfl
  have h1 : bitsOf z 0 3 = 3 := bits_pack hz hb 0 rfl
  have h2 : bitsOf z 3 7 = 0 := bits_pack hz hb 1 rfl
  have h3 : bitsOf z 17 7 = 0 := bits_pack hz hb 3 rfl
  have h4 : bitsOf z 31 1 = e.toNat := bits_pack hz hb 6 rfl
  have h5 : bitsOf z 10 7 = a.code := bits_pack hz hb 2 rfl
  have h6 : bitsOf z 24 1 = 0 := bits_pack hz hb 4 rfl
  refine ⟨?_, hz ▸ pack_lt _ hb⟩
  simp [decodeFields, fields61, reserved, kZero, bitB, regF, predF, enumF, h0, h1, h2, h3, h4, h5, h6, Reg.ofCode_code, bit_eq, Fin.ofNat_val, Except.bind, okBind]

theorem mark (e f c) : Statement (.mark e f c) := by
  refine ⟨?_, rfl⟩
  intro z hz
  have e1 := e.toNat_lt
  have f1 := f.toNat_lt
  have c1 := c.isLt
  simp only [encodeNat, Option.some.injEq, wordOf, Bool.toNat_false] at hz
  replace hz : z = pack [(3, 4), (14, c.toNat), (1, f.toNat), (6, 0), (1, 0), (6, 61), (1, e.toNat)] := by simp only [pack]; omega
  have hb : bounded [(3, 4), (14, c.toNat), (1, f.toNat), (6, 0), (1, 0), (6, 61), (1, e.toNat)] = true := by simp only [bounded, Bool.and_eq_true, decide_eq_true_eq, and_true]; omega
  have h0 : bitsOf z 25 6 = 61 := bits_pack hz hb 5 rfl
  have h1 : bitsOf z 0 3 = 4 := bits_pack hz hb 0 rfl
  have h2 : bitsOf z 18 6 = 0 := bits_pack hz hb 3 rfl
  have h3 : bitsOf z 31 1 = e.toNat := bits_pack hz hb 6 rfl
  have h4 : bitsOf z 17 1 = f.toNat := bits_pack hz hb 2 rfl
  have h5 : bitsOf z 3 14 = c.toNat := bits_pack hz hb 1 rfl
  have h6 : bitsOf z 24 1 = 0 := bits_pack hz hb 4 rfl
  have b0 : bvF z 3 14 = c := bvF_eq h5
  refine ⟨?_, hz ▸ pack_lt _ hb⟩
  simp [decodeFields, fields61, reserved, kZero, bitB, regF, predF, enumF, h0, h1, h2, h3, h4, h5, h6, b0, Reg.ofCode_code, bit_eq, Fin.ofNat_val, Except.bind, okBind]

theorem pcnt (e k d n) : Statement (.pcnt e k d n) := by
  refine ⟨?_, rfl⟩
  intro z hz
  have e1 := e.toNat_lt
  have k1 := k.toNat_lt
  have d1 := d.code_lt
  have n1 := n.isLt
  simp only [encodeNat, Option.some.injEq, wordOf] at hz
  replace hz : z = pack [(3, 5), (14, n.toNat), (7, d.code), (1, k.toNat), (6, 61), (1, e.toNat)] := by simp only [pack]; omega
  have hb : bounded [(3, 5), (14, n.toNat), (7, d.code), (1, k.toNat), (6, 61), (1, e.toNat)] = true := by simp only [bounded, Bool.and_eq_true, decide_eq_true_eq, and_true]; omega
  have h0 : bitsOf z 25 6 = 61 := bits_pack hz hb 4 rfl
  have h1 : bitsOf z 0 3 = 5 := bits_pack hz hb 0 rfl
  have h2 : bitsOf z 31 1 = e.toNat := bits_pack hz hb 5 rfl
  have h3 : bitsOf z 24 1 = k.toNat := bits_pack hz hb 3 rfl
  have h4 : bitsOf z 17 7 = d.code := bits_pack hz hb 2 rfl
  have h5 : bitsOf z 3 14 = n.toNat := bits_pack hz hb 1 rfl
  have b0 : bvF z 3 14 = n := bvF_eq h5
  refine ⟨?_, hz ▸ pack_lt _ hb⟩
  simp [decodeFields, fields61, reserved, kZero, bitB, regF, predF, enumF, h0, h1, h2, h3, h4, h5, b0, Reg.ofCode_code, bit_eq, Fin.ofNat_val, Except.bind, okBind]

theorem wset (e s l a c) : Statement (.wset e s l a c) := by
  refine ⟨?_, rfl⟩
  intro z hz
  have e1 := e.toNat_lt
  have s1 := s.code_lt
  have l1 := l.isLt
  have a1 := a.code_lt
  have c1 := c.code_lt
  simp only [encodeNat, Option.some.injEq, wordOf, Bool.toNat_false] at hz
  replace hz : z = pack [(3, 6), (7, c.code), (7, a.code), (5, l.toNat), (2, s.code), (1, 0), (6, 61), (1, e.toNat)] := by simp only [pack]; omega
  have hb : bounded [(3, 6), (7, c.code), (7, a.code), (5, l.toNat), (2, s.code), (1, 0), (6, 61), (1, e.toNat)] = true := by simp only [bounded, Bool.and_eq_true, decide_eq_true_eq, and_true]; omega
  have h0 : bitsOf z 25 6 = 61 := bits_pack hz hb 6 rfl
  have h1 : bitsOf z 0 3 = 6 := bits_pack hz hb 0 rfl
  have h2 : bitsOf z 31 1 = e.toNat := bits_pack hz hb 7 rfl
  have h3 : bitsOf z 10 7 = a.code := bits_pack hz hb 2 rfl
  have h4 : bitsOf z 3 7 = c.code := bits_pack hz hb 1 rfl
  have h5 : bitsOf z 17 5 = l.toNat := bits_pack hz hb 3 rfl
  have h6 : bitsOf z 22 2 = s.code := bits_pack hz hb 4 rfl
  have h7 : bitsOf z 24 1 = 0 := bits_pack hz hb 5 rfl
  have b0 : bvF z 17 5 = l := bvF_eq h5
  refine ⟨?_, hz ▸ pack_lt _ hb⟩
  simp [decodeFields, fields61, reserved, kZero, bitB, regF, predF, enumF, h0, h1, h2, h3, h4, h5, h6, h7, b0, Reg.ofCode_code, bit_eq, Fin.ofNat_val, Except.bind, okBind, WScope.ofCode_code]

theorem wclr (e s l) : Statement (.wclr e s l) := by
  refine ⟨?_, rfl⟩
  intro z hz
  have e1 := e.toNat_lt
  have s1 := s.code_lt
  have l1 := l.isLt
  simp only [encodeNat, Option.some.injEq, wordOf, Bool.toNat_false] at hz
  replace hz : z = pack [(3, 7), (14, 0), (5, l.toNat), (2, s.code), (1, 0), (6, 61), (1, e.toNat)] := by simp only [pack]; omega
  have hb : bounded [(3, 7), (14, 0), (5, l.toNat), (2, s.code), (1, 0), (6, 61), (1, e.toNat)] = true := by simp only [bounded, Bool.and_eq_true, decide_eq_true_eq, and_true]; omega
  have h0 : bitsOf z 25 6 = 61 := bits_pack hz hb 5 rfl
  have h1 : bitsOf z 0 3 = 7 := bits_pack hz hb 0 rfl
  have h2 : bitsOf z 3 14 = 0 := bits_pack hz hb 1 rfl
  have h3 : bitsOf z 31 1 = e.toNat := bits_pack hz hb 6 rfl
  have h4 : bitsOf z 17 5 = l.toNat := bits_pack hz hb 2 rfl
  have h5 : bitsOf z 22 2 = s.code := bits_pack hz hb 3 rfl
  have h6 : bitsOf z 24 1 = 0 := bits_pack hz hb 4 rfl
  have b0 : bvF z 17 5 = l := bvF_eq h4
  refine ⟨?_, hz ▸ pack_lt _ hb⟩
  simp [decodeFields, fields61, reserved, kZero, bitB, regF, predF, enumF, h0, h1, h2, h3, h4, h5, h6, b0, Reg.ofCode_code, bit_eq, Fin.ofNat_val, Except.bind, okBind, WScope.ofCode_code]

theorem runSelect (die core quad slot) : Statement (.runSelect die core quad slot) := ⟨(fun _ h => nomatch h), rfl⟩
theorem waveAge (wave) : Statement (.waveAge wave) := ⟨(fun _ h => nomatch h), rfl⟩
theorem spinRedirect (wave) : Statement (.spinRedirect wave) := ⟨(fun _ h => nomatch h), rfl⟩
theorem loadReturn (wave n) : Statement (.loadReturn wave n) := ⟨(fun _ h => nomatch h), rfl⟩
theorem storeAck (n) : Statement (.storeAck n) := ⟨(fun _ h => nomatch h), rfl⟩
theorem writePerformHome (n) : Statement (.writePerformHome n) := ⟨(fun _ h => nomatch h), rfl⟩
theorem writeApply (n die) : Statement (.writeApply n die) := ⟨(fun _ h => nomatch h), rfl⟩
theorem atomicAtBank (n) : Statement (.atomicAtBank n) := ⟨(fun _ h => nomatch h), rfl⟩
theorem replicaFill (die line) : Statement (.replicaFill die line) := ⟨(fun _ h => nomatch h), rfl⟩
theorem clusterStop (n) : Statement (.clusterStop n) := ⟨(fun _ h => nomatch h), rfl⟩
theorem watchTrap (wave) : Statement (.watchTrap wave) := ⟨(fun _ h => nomatch h), rfl⟩
theorem monitorRequest (n) : Statement (.monitorRequest n) := ⟨(fun _ h => nomatch h), rfl⟩
theorem monitorGrant (wave lane) : Statement (.monitorGrant wave lane) := ⟨(fun _ h => nomatch h), rfl⟩
theorem monitorRelease (wave) : Statement (.monitorRelease wave) := ⟨(fun _ h => nomatch h), rfl⟩
theorem laneWake (wave lane) : Statement (.laneWake wave lane) := ⟨(fun _ h => nomatch h), rfl⟩
theorem waveFinishAfterCommands (wave) : Statement (.waveFinishAfterCommands wave) := ⟨(fun _ h => nomatch h), rfl⟩
theorem regClaimGrant (wave) : Statement (.regClaimGrant wave) := ⟨(fun _ h => nomatch h), rfl⟩
theorem claimWaitTimeout (wave) : Statement (.claimWaitTimeout wave) := ⟨(fun _ h => nomatch h), rfl⟩
theorem groupSaveTimeout (group) : Statement (.groupSaveTimeout group) := ⟨(fun _ h => nomatch h), rfl⟩
theorem groupRelaunch (group) : Statement (.groupRelaunch group) := ⟨(fun _ h => nomatch h), rfl⟩
theorem scoutEnter (wave) : Statement (.scoutEnter wave) := ⟨(fun _ h => nomatch h), rfl⟩
theorem scoutTimeout (wave) : Statement (.scoutTimeout wave) := ⟨(fun _ h => nomatch h), rfl⟩
theorem scoutExit (wave) : Statement (.scoutExit wave) := ⟨(fun _ h => nomatch h), rfl⟩
theorem mmaAccept (group) : Statement (.mmaAccept group) := ⟨(fun _ h => nomatch h), rfl⟩
theorem mmaComplete (group) : Statement (.mmaComplete group) := ⟨(fun _ h => nomatch h), rfl⟩
theorem rendezvousTimeout (group) : Statement (.rendezvousTimeout group) := ⟨(fun _ h => nomatch h), rfl⟩
theorem cdrainComplete (wave) : Statement (.cdrainComplete wave) := ⟨(fun _ h => nomatch h), rfl⟩
theorem copy (wave q) : Statement (.copy wave q) := ⟨(fun _ h => nomatch h), rfl⟩
theorem loada (wave q) : Statement (.loada wave q) := ⟨(fun _ h => nomatch h), rfl⟩
theorem loadw (wave q) : Statement (.loadw wave q) := ⟨(fun _ h => nomatch h), rfl⟩
theorem storea (wave q) : Statement (.storea wave q) := ⟨(fun _ h => nomatch h), rfl⟩
theorem gather (wave q) : Statement (.gather wave q) := ⟨(fun _ h => nomatch h), rfl⟩
theorem mcast (wave q) : Statement (.mcast wave q) := ⟨(fun _ h => nomatch h), rfl⟩
theorem rstore (wave q) : Statement (.rstore wave q) := ⟨(fun _ h => nomatch h), rfl⟩
theorem drain (wave q) : Statement (.drain wave q) := ⟨(fun _ h => nomatch h), rfl⟩
theorem engineCommandComplete (wave q) : Statement (.engineCommandComplete wave q) := ⟨(fun _ h => nomatch h), rfl⟩
theorem probeToken (wave q) : Statement (.probeToken wave q) := ⟨(fun _ h => nomatch h), rfl⟩
theorem launchPacket (p) : Statement (.launchPacket p) := ⟨(fun _ h => nomatch h), rfl⟩
theorem inboundRmaWrite (x) : Statement (.inboundRmaWrite x) := ⟨(fun _ h => nomatch h), rfl⟩
theorem inboundRmaRead (x) : Statement (.inboundRmaRead x) := ⟨(fun _ h => nomatch h), rfl⟩
theorem groupDispatch (die) : Statement (.groupDispatch die) := ⟨(fun _ h => nomatch h), rfl⟩
theorem taskGroupFinish (group) : Statement (.taskGroupFinish group) := ⟨(fun _ h => nomatch h), rfl⟩
theorem bucketFull (die core n) : Statement (.bucketFull die core n) := ⟨(fun _ h => nomatch h), rfl⟩
theorem bucketFlush (die core n) : Statement (.bucketFlush die core n) := ⟨(fun _ h => nomatch h), rfl⟩
theorem waveForm (die core n) : Statement (.waveForm die core n) := ⟨(fun _ h => nomatch h), rfl⟩
theorem poolRecordMove (launch die core) : Statement (.poolRecordMove launch die core) := ⟨(fun _ h => nomatch h), rfl⟩
theorem markIntervalTimeout (part) : Statement (.markIntervalTimeout part) := ⟨(fun _ h => nomatch h), rfl⟩
theorem checkpointMark (part) : Statement (.checkpointMark part) := ⟨(fun _ h => nomatch h), rfl⟩
theorem markCommit (part) : Statement (.markCommit part) := ⟨(fun _ h => nomatch h), rfl⟩
theorem sliceEnd (part) : Statement (.sliceEnd part) := ⟨(fun _ h => nomatch h), rfl⟩
theorem softError (site corrected) : Statement (.softError site corrected) := ⟨(fun _ h => nomatch h), rfl⟩
theorem uncorrectable (x) : Statement (.uncorrectable x) := ⟨(fun _ h => nomatch h), rfl⟩
theorem launchKill (launch) : Statement (.launchKill launch) := ⟨(fun _ h => nomatch h), rfl⟩
theorem linkTimeout (part) : Statement (.linkTimeout part) := ⟨(fun _ h => nomatch h), rfl⟩
theorem switchTimeout (die) : Statement (.switchTimeout die) := ⟨(fun _ h => nomatch h), rfl⟩
theorem peerTimeout (tenant endpoint) : Statement (.peerTimeout tenant endpoint) := ⟨(fun _ h => nomatch h), rfl⟩
theorem fenceLift (part) : Statement (.fenceLift part) := ⟨(fun _ h => nomatch h), rfl⟩
theorem pageShootdown (part ia leaf) : Statement (.pageShootdown part ia leaf) := ⟨(fun _ h => nomatch h), rfl⟩
theorem pageRequestForward (part) : Statement (.pageRequestForward part) := ⟨(fun _ h => nomatch h), rfl⟩
theorem rangeRegisterWrite (part i r) : Statement (.rangeRegisterWrite part i r) := ⟨(fun _ h => nomatch h), rfl⟩
theorem queueDescriptorWrite (q r) : Statement (.queueDescriptorWrite q r) := ⟨(fun _ h => nomatch h), rfl⟩
theorem tenantTableWrite (t r) : Statement (.tenantTableWrite t r) := ⟨(fun _ h => nomatch h), rfl⟩
theorem tenantRemove (t) : Statement (.tenantRemove t) := ⟨(fun _ h => nomatch h), rfl⟩
theorem partitionDescriptorWrite (part r) : Statement (.partitionDescriptorWrite part r) := ⟨(fun _ h => nomatch h), rfl⟩
theorem remoteTableWrite (t i r) : Statement (.remoteTableWrite t i r) := ⟨(fun _ h => nomatch h), rfl⟩
theorem quotaWrite (t bank lines) : Statement (.quotaWrite t bank lines) := ⟨(fun _ h => nomatch h), rfl⟩
theorem clusterLend (lender borrower cluster) : Statement (.clusterLend lender borrower cluster) := ⟨(fun _ h => nomatch h), rfl⟩
theorem clusterReclaim (lender cluster) : Statement (.clusterReclaim lender cluster) := ⟨(fun _ h => nomatch h), rfl⟩
theorem debugInterceptSet (part on) : Statement (.debugInterceptSet part on) := ⟨(fun _ h => nomatch h), rfl⟩
theorem dieWatchEnable (part on) : Statement (.dieWatchEnable part on) := ⟨(fun _ h => nomatch h), rfl⟩
theorem traceSessionOpen (part bytes ask) : Statement (.traceSessionOpen part bytes ask) := ⟨(fun _ h => nomatch h), rfl⟩
theorem traceSessionClose (part) : Statement (.traceSessionClose part) := ⟨(fun _ h => nomatch h), rfl⟩
theorem traceAck (part n) : Statement (.traceAck part n) := ⟨(fun _ h => nomatch h), rfl⟩
theorem sample (die core) : Statement (.sample die core) := ⟨(fun _ h => nomatch h), rfl⟩
theorem treeSnapshot (part die core) : Statement (.treeSnapshot part die core) := ⟨(fun _ h => nomatch h), rfl⟩
theorem clockLock (part point) : Statement (.clockLock part point) := ⟨(fun _ h => nomatch h), rfl⟩
theorem clockRelease (part) : Statement (.clockRelease part) := ⟨(fun _ h => nomatch h), rfl⟩
theorem clockBreak (die cause point) : Statement (.clockBreak die cause point) := ⟨(fun _ h => nomatch h), rfl⟩
theorem clockRestore (die) : Statement (.clockRestore die) := ⟨(fun _ h => nomatch h), rfl⟩
theorem clusterResume (die cluster) : Statement (.clusterResume die cluster) := ⟨(fun _ h => nomatch h), rfl⟩
theorem sweoloStep (wave) : Statement (.sweoloStep wave) := ⟨(fun _ h => nomatch h), rfl⟩
theorem waveDump (wave) : Statement (.waveDump wave) := ⟨(fun _ h => nomatch h), rfl⟩
theorem operatingPointChange (die point) : Statement (.operatingPointChange die point) := ⟨(fun _ h => nomatch h), rfl⟩
theorem powerLimitSet (watts) : Statement (.powerLimitSet watts) := ⟨(fun _ h => nomatch h), rfl⟩
theorem telemetryReport (r) : Statement (.telemetryReport r) := ⟨(fun _ h => nomatch h), rfl⟩
theorem thermalShutdown (cause) : Statement (.thermalShutdown cause) := ⟨(fun _ h => nomatch h), rfl⟩
theorem moduleReset (cause failed) : Statement (.moduleReset cause failed) := ⟨(fun _ h => nomatch h), rfl⟩
theorem imageUpdate (image) : Statement (.imageUpdate image) := ⟨(fun _ h => nomatch h), rfl⟩
theorem getVersion (io) : Statement (.getVersion io) := ⟨(fun _ h => nomatch h), rfl⟩
theorem getCapabilities (io) : Statement (.getCapabilities io) := ⟨(fun _ h => nomatch h), rfl⟩
theorem negotiateAlgorithms (io) : Statement (.negotiateAlgorithms io) := ⟨(fun _ h => nomatch h), rfl⟩
theorem getDigests (io) : Statement (.getDigests io) := ⟨(fun _ h => nomatch h), rfl⟩
theorem getCertificate (io) : Statement (.getCertificate io) := ⟨(fun _ h => nomatch h), rfl⟩
theorem challenge (io nonce) : Statement (.challenge io nonce) := ⟨(fun _ h => nomatch h), rfl⟩
theorem getMeasurements (io who index) : Statement (.getMeasurements io who index) := ⟨(fun _ h => nomatch h), rfl⟩
theorem spdmUnsupportedRequest (io request) : Statement (.spdmUnsupportedRequest io request) := ⟨(fun _ h => nomatch h), rfl⟩
theorem completionNotice (origin launch) : Statement (.completionNotice origin launch) := ⟨(fun _ h => nomatch h), rfl⟩
theorem ioDieFailure (io) : Statement (.ioDieFailure io) := ⟨(fun _ h => nomatch h), rfl⟩
theorem unsupportedPacket (kind) : Statement (.unsupportedPacket kind) := ⟨(fun _ h => nomatch h), rfl⟩
theorem sweoloStopRequest (die cluster) : Statement (.sweoloStopRequest die cluster) := ⟨(fun _ h => nomatch h), rfl⟩
theorem windowAssignment (window owner exports) : Statement (.windowAssignment window owner exports) := ⟨(fun _ h => nomatch h), rfl⟩
theorem pagerFrameWrite (part ia data words) : Statement (.pagerFrameWrite part ia data words) := ⟨(fun _ h => nomatch h), rfl⟩

end Sys2Proof.Laws.RoundTrip
end

