-- ==== Sys2Proof/Machine/Assembler.lean ====
section
/-! DEFINITION. What vlas computes of lines that have been read (R235 to R256): expressions, the forms it expands, sections
and symbols, data and metadata, relocations and the loader, launch records and balance tables, run ends, latches, windows,
colour order, and its diagnostics. Source.lean reads the text, Forms.lean the operands, Vlas.lean the whole (log 40). -/
namespace Sys2Proof.Machine.Vlas

/-! ### Diagnostics and the exit status (R235, R236, R256) -/

inductive Severity where
  | error | warning | note
deriving DecidableEq, Repr, Inhabited

/-- A source line: its file and its number from 1. Inside an expansion the line of the use comes first, then that of the
body (R247). -/
abbrev Place := List (String × Nat)

/-- A diagnostic: its number, the line it names and its message. -/
structure Diag where
  n : Nat
  place : Place
  message : String
deriving DecidableEq, Repr, Inhabited

/-- The messages of R256. -/
def messageOf (n : Nat) : String :=
  match n with
  | 101 => "unknown mnemonic or directive"
  | 102 => "wrong operands"
  | 103 => "immediate out of range"
  | 104 => "offset not a multiple of width, or out of range"
  | 105 => "bad pair or quad"
  | 106 => "latch or `_` not allowed here"
  | 107 => "latch may cross a run boundary"
  | 108 => "register or block outside window"
  | 109 => "q register not allowed here"
  | 110 => "colour order"
  | 111 => "more than 8 colours in stretch"
  | 112 => "semaphore instruction without .semuse"
  | 113 => "bad .semuse"
  | 114 => "undefined symbol"
  | 115 => "symbol defined twice"
  | 116 => "branch target out of range"
  | 117 => "value out of range in directive"
  | 118 => "launch record without .entry"
  | 119 => "wrong content for section"
  | 120 => "macro error"
  | 121 => "include not found, or nested too deep"
  | 122 => ".run does not hold"
  | 123 => "run of 24 words without end"
  | 124 => "name in .sems is not a .sem"
  | 201 => "`_` result never read"
  | 202 => "bank hot"
  | 203 => "word after unconditional branch or exit unreachable"
  | 204 => "semaphore checked by no launch"
  | 205 => ".regs contradicts the state followed"
  | 301 => "run ended after 24 words"
  | _ => ""

/-- A diagnostic with its message of R256. -/
def diag (n : Nat) (p : Place) : Diag := ⟨n, p, messageOf n⟩

/-- The options of R236. -/
structure Options where
  /-- `-o` -/
  output : String := "a.vli"
  /-- `-l` -/
  listing : Option String := none
  /-- `-I` -/
  dirs : List String := []
  /-- `-D` -/
  defines : List (String × BitVec 64) := []
  noAutoEnd : Bool := false
  banks : Bool := false
  suppressed : List Nat := []
  werror : Bool := false
deriving DecidableEq, Repr, Inhabited

/-- The kind of a diagnostic: 101 to 124, 201 to 205, 301 (R256); a warning is an error under `--werror`. -/
def severity (o : Options) (n : Nat) : Severity :=
  if n < 200 then .error else if n < 300 then (if o.werror then .error else .warning) else .note

/-- What is reported: `-W n` suppresses warning n, and warning 202 needs `--banks` (R236). -/
def reported (o : Options) (ds : List Diag) : List Diag :=
  ds.filter fun d => !(200 ≤ d.n && d.n < 300 && (o.suppressed.contains d.n || (d.n = 202 && !o.banks)))

/-- The exit status of an invocation whose command line is right, and with it whether an image is written (R235). -/
def exitStatus (o : Options) (ds : List Diag) : Nat := if (reported o ds).any fun d => severity o d.n = .error then 1 else 0

/-- `file:line` of each line a place names. -/
def placeText (p : Place) : String := String.intercalate ":" (p.map fun x => x.1 ++ ":" ++ Nat.repr x.2)

/-- A diagnostic as it reads, `file:line: kind n: message` (R256). Inside an expansion the use's file and line stand before
those of the body (log 40). -/
def Diag.text (o : Options) (d : Diag) : String :=
  let kind := match severity o d.n with | .error => "error" | .warning => "warning" | .note => "note"
  placeText d.place ++ ": " ++ kind ++ " " ++ Nat.repr d.n ++ ": " ++ d.message

/-! ### Expressions (R237) -/

inductive BinOp where
  | add | sub | mul | div | rem | shl | shr | and | or | xor
deriving DecidableEq, Repr, Inhabited

inductive Expr where
  | num (n : BitVec 64)
  | sym (name : String)
  | neg (a : Expr)
  | not (a : Expr)
  | bin (o : BinOp) (a b : Expr)
deriving DecidableEq, Repr, Inhabited

/-- A value: absolute, or a relocatable symbol and an addend. -/
inductive Val where
  | abs (n : BitVec 64)
  | rel (sym : String) (addend : BitVec 64)
deriving DecidableEq, Repr, Inhabited

/-- An operation on 64-bit two's-complement integers; none where a divisor is zero or a shift count is not 0 to 63, for
which R237 gives no result. -/
def BinOp.eval (o : BinOp) (x y : BitVec 64) : Option (BitVec 64) :=
  match o with
  | .add => some (x + y)
  | .sub => some (x - y)
  | .mul => some (x * y)
  | .div => if y = 0 then none else some (x.sdiv y)
  | .rem => if y = 0 then none else some (x.srem y)
  | .shl => if y.toNat < 64 then some (x <<< y.toNat) else none
  | .shr => if y.toNat < 64 then some (x.sshiftRight y.toNat) else none
  | .and => some (x &&& y)
  | .or => some (x ||| y)
  | .xor => some (x ^^^ y)

/-- The value of an expression, under what the symbols stand for. A relocatable symbol may only have absolute terms added
or subtracted; a difference of two symbols of one section is absolute (R237, R242). `same` gives that difference. -/
def Expr.eval (env : List (String × Val)) (same : String → String → Option (BitVec 64)) : Expr → Option Val
  | .num n => some (.abs n)
  | .sym name => env.lookup name
  | .neg a => match a.eval env same with
    | some (.abs n) => some (.abs (-n))
    | _ => none
  | .not a => match a.eval env same with
    | some (.abs n) => some (.abs (~~~n))
    | _ => none
  | .bin o a b => match a.eval env same, b.eval env same with
    | some (.abs x), some (.abs y) => (o.eval x y).map Val.abs
    | some (.rel s x), some (.abs y) =>
      match o with
      | .add => some (.rel s (x + y))
      | .sub => some (.rel s (x - y))
      | _ => none
    | some (.abs x), some (.rel s y) => if o = .add then some (.rel s (x + y)) else none
    | some (.rel s x), some (.rel t y) => if o = .sub then (same s t).map fun d => .abs (d + x - y) else none
    | _, _ => none

/-! ### Sections, symbols and relocations (R240 to R243) -/

inductive Section where
  | text | data | rodata | launch | balance
deriving DecidableEq, Repr, Inhabited

/-- The alignment of a section (R240). -/
def Section.align : Section → Nat
  | .text => 4
  | .data | .rodata | .balance => 64
  | .launch => 128

/-- How the loader places a section: read, write and execute. The last two are read by the dispatcher only (R240), through the
partition's translation, which must let it read the balance tables (R320): they are placed to be read, and nothing in them is
written or executed (DESIGN CHOICE, log 40: no page refuses a thread what the dispatcher may read). -/
structure Placement where
  read : Bool
  write : Bool
  exec : Bool
deriving DecidableEq, Repr, Inhabited

def Section.placement : Section → Placement
  | .text => ⟨true, false, true⟩
  | .data => ⟨true, true, false⟩
  | .rodata | .launch | .balance => ⟨true, false, false⟩

structure Symbol where
  name : String
  sec : Section
  offset : Nat
  key : BitVec 4
deriving DecidableEq, Repr, Inhabited

inductive RelocKind where
  | la0 | la1 | la2 | la3 | d32 | d64
deriving DecidableEq, Repr, Inhabited

structure Reloc where
  kind : RelocKind
  sec : Section
  offset : Nat
  sym : String
  addend : BitVec 64
deriving DecidableEq, Repr, Inhabited

/-- The placed address of a symbol: its key in [59:56], and [62:60] equal to bit 63 (R140, R242). -/
def placedAddress (base : Section → BitVec 64) (y : Symbol) : BitVec 64 :=
  let a := base y.sec + BitVec.ofNat 64 y.offset
  (if a.getLsbD 63 then 7#4 ++ (0 : BitVec 60) else 0) ||| (a &&& 0x80FFFFFFFFFFFFFF#64) ||| (y.key.setWidth 64 <<< 56)

/-- The bits a relocation writes over the old contents of its target, 64 bits wide; none where the loader rejects the
image (R242). -/
def RelocKind.apply (k : RelocKind) (v old : BitVec 64) : Option (BitVec 64) :=
  let imm (m : BitVec 64) (lo : Nat) := (old &&& ~~~m) ||| (v >>> lo &&& 0xFFFF#64)
  match k with
  | .la0 => some (imm 0x1FFFF#64 0)
  | .la1 => some (imm 0xFFFF#64 16)
  | .la2 => some (imm 0x1FFFF#64 32)
  | .la3 => some (imm 0xFFFF#64 48)
  | .d32 => if v.toNat < 2 ^ 32 then some v else none
  | .d64 => some v

/-- How many bytes a relocation's target has. -/
def RelocKind.bytes : RelocKind → Nat
  | .d64 => 8
  | _ => 4

/-- A run of granules with one colour and one key (R243, R245). -/
structure MetaRun where
  sec : Section
  offset : Nat
  granules : Nat
  colour : BitVec 6
  key : BitVec 4
deriving DecidableEq, Repr, Inhabited

/-- An image: the parts of R243 that its tables hold. -/
structure Image where
  contents : List (Section × List Byte)
  symbols : List Symbol
  relocs : List Reloc
  runs : List MetaRun
deriving DecidableEq, Repr, Inhabited

/-- The contents of a section. -/
def Image.bytes (m : Image) (s : Section) : List Byte := (m.contents.lookup s).getD []

/-- Bytes of a list as a little-endian number. -/
def littleEndian : List Byte → Nat
  | [] => 0
  | b :: l => b.toNat + 256 * littleEndian l

/-- A number as n little-endian bytes. -/
def leBytes (x : Nat) : Nat → List Byte
  | 0 => []
  | n + 1 => BitVec.ofNat 8 x :: leBytes (x / 256) n

/-- Bytes put over a list at an offset. -/
def putBytes (l : List Byte) (o : Nat) (b : List Byte) : List Byte := l.take o ++ b ++ l.drop (o + b.length)

/-- One relocation applied with V = S + A; none where the loader rejects the image or the symbol is absent. -/
def Image.relocate (base : Section → BitVec 64) (m : Image) (r : Reloc) : Option Image :=
  match m.symbols.find? fun y => y.name = r.sym with
  | none => none
  | some y =>
    let l := m.bytes r.sec
    let old := BitVec.ofNat 64 (littleEndian ((l.drop r.offset).take r.kind.bytes))
    (r.kind.apply (placedAddress base y + r.addend) old).map fun v =>
      { m with contents := m.contents.map fun c =>
          if c.1 = r.sec then (c.1, putBytes c.2 r.offset (leBytes v.toNat r.kind.bytes)) else c }

/-- The sections in the order of the image's table. -/
def Section.all : List Section := [.text, .data, .rodata, .launch, .balance]

/-- The name of a section, as its directive writes it. -/
def Section.name : Section → String
  | .text => ".text"
  | .data => ".data"
  | .rodata => ".rodata"
  | .launch => ".launch"
  | .balance => ".balance"

/-- A section's number in the image's tables. -/
def Section.index : Section → Nat
  | .text => 0
  | .data => 1
  | .rodata => 2
  | .launch => 3
  | .balance => 4

/-- A relocation type's number in the image, the order of R242. -/
def RelocKind.index : RelocKind → Nat
  | .la0 => 0
  | .la1 => 1
  | .la2 => 2
  | .la3 => 3
  | .d32 => 4
  | .d64 => 5

/-- A name in the image: its length in bytes, and its bytes. -/
def nameBytes (s : String) : List Byte := leBytes s.length 4 ++ s.toList.map fun c => BitVec.ofNat 8 c.toNat

/-- The 64-byte header: the magic, the version and the counts of sections, symbols, relocations and metadata runs (R243). -/
def Image.header (m : Image) : List Byte :=
  leBytes 0x31494C56 4 ++ leBytes 1 4 ++ leBytes Section.all.length 4 ++ leBytes m.symbols.length 4 ++ leBytes m.relocs.length 4
    ++ leBytes m.runs.length 4 ++ leBytes 0 40

/-- The section table, for contents that begin at a file offset. -/
def Image.sectionTable (m : Image) : List Section → Nat → List Byte
  | [], _ => []
  | s :: l, o =>
    let n := (m.bytes s).length
    nameBytes s.name ++ leBytes n 8 ++ leBytes s.align 8 ++ leBytes o 8 ++ m.sectionTable l (o + n)

/-- The image's bytes, its parts in the order of R243; the fields of its tables have the widths of log 40. -/
def Image.file (m : Image) : List Byte :=
  let o := 64 + (m.sectionTable Section.all 0).length
  let symbol (y : Symbol) : List Byte := nameBytes y.name ++ leBytes y.sec.index 4 ++ leBytes y.key.toNat 4 ++ leBytes y.offset 8
  let number (name : String) : Nat := m.symbols.findIdx fun y => y.name = name
  let reloc (r : Reloc) : List Byte :=
    leBytes r.kind.index 4 ++ leBytes r.sec.index 4 ++ leBytes r.offset 8 ++ leBytes (number r.sym) 8 ++ leBytes r.addend.toNat 8
  let run (r : MetaRun) : List Byte :=
    leBytes r.sec.index 4 ++ leBytes r.offset 8 ++ leBytes r.granules 8 ++ leBytes r.colour.toNat 2 ++ leBytes r.key.toNat 2
  m.header ++ m.sectionTable Section.all o ++ Section.all.flatMap m.bytes ++ m.symbols.flatMap symbol ++ m.relocs.flatMap reloc
    ++ m.runs.flatMap run

/-- An image with every relocation applied; none where the loader rejects it (R242, R243). -/
def Image.placed (base : Section → BitVec 64) (m : Image) : Option Image := m.relocs.foldlM (Image.relocate base) m

/-! ### Data (R240, R241, R244, R245, R254) -/

inductive DataLine where
  | label (name : String)
  | word (v : Val)
  | dword (v : Val)
  | space (n : Nat)
  | align (n : Nat)
  | colour (c : Nat)
  | key (k : Nat)
  /-- `.sem name, init, final, ext` -/
  | sem (name : String) (init final ext : Int)
  /-- the section is switched away from and back to -/
  | switch
deriving DecidableEq, Repr, Inhabited

/-- A `.sem` definition. -/
structure SemDef where
  name : String
  init : Int
  final : Int
  ext : Int
  /-- where it is defined -/
  place : Place := []
deriving DecidableEq, Repr, Inhabited

/-- A data section as far as it is assembled. -/
structure DataOut where
  bytes : List Byte := []
  /-- labels that wait for the next value placed, with the key in force where they stand -/
  pending : List (String × BitVec 4) := []
  symbols : List Symbol := []
  relocs : List Reloc := []
  runs : List MetaRun := []
  /-- where the run in force began -/
  start : Nat := 0
  colour : BitVec 6 := 0
  key : BitVec 4 := 0
  sems : List SemDef := []
  /-- the line of the directive -/
  place : Place := []
  diags : List Diag := []
deriving DecidableEq, Repr, Inhabited

/-- Padded with zero bytes to a multiple of n. -/
def DataOut.pad (o : DataOut) (n : Nat) : DataOut :=
  { o with bytes := o.bytes ++ List.replicate ((n - o.bytes.length % n) % n) 0 }

/-- The labels that wait take the address reached (R241). -/
def DataOut.settle (o : DataOut) (sec : Section) : DataOut :=
  { o with symbols := o.symbols ++ o.pending.map fun p => ⟨p.1, sec, o.bytes.length, p.2⟩, pending := [] }

/-- A value of some bytes at an alignment, with the relocation it takes. -/
def DataOut.value (o : DataOut) (sec : Section) (n : Nat) (k : RelocKind) (v : Val) : DataOut :=
  let p := (o.pad n).settle sec
  match v with
  | .abs x => { p with bytes := p.bytes ++ leBytes x.toNat n }
  | .rel s a =>
    { p with bytes := p.bytes ++ List.replicate n 0, relocs := p.relocs ++ [⟨k, sec, p.bytes.length, s, a⟩] }

/-- The run in force closed at a granule boundary, and another colour and key from there (R245). -/
def DataOut.recolour (o : DataOut) (sec : Section) (c : BitVec 6) (k : BitVec 4) : DataOut :=
  let p := o.pad 64
  let g := (p.bytes.length - p.start) / 64
  { p with runs := if g = 0 then p.runs else p.runs ++ [⟨sec, p.start, g, p.colour, p.key⟩]
           start := p.bytes.length, colour := c, key := k }

/-- A diagnostic added. -/
def DataOut.say (o : DataOut) (n : Nat) : DataOut := { o with diags := o.diags ++ [diag n o.place] }

/-- A directive written in a data section (R240, R244, R245, R254). -/
def DataOut.line (sec : Section) (o : DataOut) (d : DataLine) : DataOut :=
  if sec = .text || sec = .balance then o.say 119
  else match d with
  | .label name => { o with pending := o.pending ++ [(name, o.key)] }
  | .word v => o.value sec 4 .d32 v
  | .dword v => o.value sec 8 .d64 v
  | .space n => if n = 0 then o else let p := o.settle sec; { p with bytes := p.bytes ++ List.replicate n 0 }
  | .align n => if 4 ≤ n && n ≤ 4096 && 2 ^ n.log2 = n then o.pad n else o.say 117
  | .colour c =>
    if sec ≠ .data && sec ≠ .rodata then o.say 119
    else if c < 64 then o.recolour sec (BitVec.ofNat 6 c) o.key else o.say 117
  | .key k =>
    if sec ≠ .data && sec ≠ .rodata then o.say 119
    else if k < 16 then o.recolour sec o.colour (BitVec.ofNat 4 k) else o.say 117
  | .sem name i f e =>
    if sec ≠ .data || o.colour ≠ 0 then o.say 119
    else
      let p := (o.pad 4).settle sec
      { p with symbols := p.symbols ++ [⟨name, sec, p.bytes.length, p.key⟩]
               bytes := p.bytes ++ leBytes (BitVec.ofInt 32 i).toNat 4
               sems := p.sems ++ [⟨name, i, f, e, o.place⟩] }
  | .switch => if o.colour = 0 && o.key = 0 then o else o.recolour sec 0 0

/-- A data section assembled: a label that no value follows has the address of the section's end (R241), and the run in
force covers the last granule. -/
def assembleData (sec : Section) (ls : List (Place × DataLine)) : DataOut :=
  let o := (ls.foldl (fun (o : DataOut) l => DataOut.line sec { o with place := l.1 } l.2) ({} : DataOut)).settle sec
  let g := (o.bytes.length - o.start + 63) / 64
  if g = 0 then o else { o with runs := o.runs ++ [⟨sec, o.start, g, o.colour, o.key⟩] }

/-! ### The forms that are expanded (R239) -/

/-- Does LDI hold n (R51)? -/
def fitsLdi (n : BitVec 64) : Bool := -65536 ≤ n.toInt && n.toInt ≤ 65535

/-- `mov d, #n`: one word when n is known at the line and fits, and otherwise LDI and LDHI (R57, R239); K stands in every
word of a `_` destination. -/
def expandMov (k : Bool) (d : Reg) (n : BitVec 64) (known : Bool) : List Instr :=
  if known && fitsLdi n then [.ldi false k d (n.extractLsb' 0 17)]
  else [.ldi false k d ((n.extractLsb' 0 16).setWidth 17), .ldhi false k d (n.extractLsb' 16 16)]

/-- `sub.s32 d, a, #n`; none is error 103. -/
def expandSub (k : Bool) (d a : Reg) (n : Int) : Option Instr :=
  if -512 ≤ -n && -n ≤ 511 then some (.addS32Imm false k d a (BitVec.ofInt 10 (-n))) else none

/-- The conditions `gt` and `ge` of an integer compare, signed or unsigned (R54). -/
def expandCmp (wide signed orEqual : Bool) (p : Pred) (a b : Reg) : Instr :=
  let c : Cond := if orEqual then (if signed then .leS else .leZ) else (if signed then .ltS else .ltZ)
  if wide then .cmp64 false p b a c else .cmp32 false p b a c

/-- The conditions `gt` and `ge` of a float compare (R54). -/
def expandFcmp (orEqual : Bool) (p : Pred) (a b : Reg) : Instr := .fcmp false p b a (if orEqual then .le else .lt)

/-- The words of `la v, expr` with the relocations they carry; none is error 105. -/
def expandLa (d : Reg) : Option (List (Instr × RelocKind)) :=
  let hi := Reg.ofCode (d.code + 1)
  if d.group? 2 then
    some [(.ldi false false d 0, .la0), (.ldhi false false d 0, .la1), (.ldi false false hi 0, .la2), (.ldhi false false hi 0, .la3)]
  else none

/-- The offset field of an M or Ms form, from an offset in bytes; none is error 104 (R51, R238). -/
def offsetField (n w : Nat) (bytes : Int) : Option (BitVec n) :=
  if bytes % w = 0 && -(2 ^ (n - 1) : Nat) ≤ bytes / w && bytes / w < (2 ^ (n - 1) : Nat) then some (BitVec.ofInt n (bytes / w)) else none

/-- The offset20 of a branch, from byte offsets in `.text`; none is error 116 (R51, R242). -/
def branchField (branch target : Int) : Option (BitVec 20) := offsetField 20 4 (target - branch)

/-! ### Text (R240, R248 to R251) -/

/-- A word of `.text` and what stands with it on its line or just before it. -/
structure TextWord where
  instr : Instr
  /-- the line the word comes from, and its text -/
  place : Place := []
  source : List Char := []
  /-- `!` -/
  bang : Bool := false
  /-- a label stands at the word -/
  label : Bool := false
  /-- the label is one that a branch or a call names -/
  named : Bool := false
  /-- `.run` is placed before the word -/
  run : Bool := false
  /-- `.regs n, b` -/
  regs : Option (Nat × Nat) := none
  /-- the blocks of the launches whose `.entry` is here -/
  entry : List Nat := []
  /-- `.semuse name, inc, dec` immediately precedes the word -/
  semuse : Option (String × Int × Int) := none
  /-- the word is the first of an `la` of the symbol, with an addend -/
  la : Option (String × Int) := none
deriving DecidableEq, Repr, Inhabited

/-- A diagnostic of a word. -/
def TextWord.diag (t : TextWord) (n : Nat) : Diag := Vlas.diag n t.place

/-- The diagnostics of words, each looked at with its number. -/
def eachWord (ts : List TextWord) (f : Nat → TextWord → List Diag) : List Diag := (ts.mapIdx f).flatten

/-- Does a word end its run by its kind (R16, R46)? -/
def endsByKind (i : Instr) : Bool := match i.shape with | some s => s.ends | none => false

/-- The E bit of every word, and note 301 or error 123 where a 24th word is reached without one (R248). -/
def setEnds (noAuto : Bool) : Nat → List TextWord → List Bool × List Diag
  | _, [] => ([], [])
  | n, t :: l =>
    let own := t.bang || endsByKind t.instr
    let auto := !own && 23 ≤ n
    let e := own || (auto && !noAuto)
    let r := setEnds noAuto (if own || auto then 0 else n + 1) l
    (e :: r.1, (if auto then [t.diag (if noAuto then 123 else 301)] else []) ++ r.2)

/-- The word placed: the instruction's, with the E bit. -/
def placedWord (t : TextWord) (e : Bool) : Option Word := (encode t.instr).map fun w => if e then w ||| 0x80000000#32 else w

/-- Does a word read a v, g or q source, and no latch? -/
def readsRegister (i : Instr) : Bool :=
  match i.shape with
  | none => false
  | some s => !s.srcs.isEmpty && s.srcs.all fun x => match x.r with | .b _ => false | _ => true

/-- Is a run boundary possible before word k (R249)? -/
def boundary (ts : List TextWord) (es : List Bool) (k : Nat) : Bool :=
  match ts[k]? with
  | none => true
  | some t => t.label || k = 0 || es.getD (k - 1) true || readsRegister t.instr

/-- The latches a word reads. -/
def latches (i : Instr) : List Nat :=
  match i.shape with
  | none => []
  | some s => s.srcs.filterMap fun x => match x.r with | .b n => some (n.val + 1) | _ => none

/-- Has a word a v or g destination (R25)? -/
def hasResult (i : Instr) : Bool :=
  match i.shape.bind Shape.dst with
  | some (.v _, _) => true
  | some (.g _, _) => true
  | _ => false

/-- Is a latch source bk of word n accepted (R250)? -/
def latchOk (ts : List TextWord) (es : List Bool) (n k : Nat) : Bool :=
  k ≤ n && ((List.range k).all fun j => !boundary ts es (n - j))
    && (match ts[n - k]? with | some t => hasResult t.instr | none => false)

/-- The message of error 107 for bk of word n: the line before which the boundary may fall, the nearest of several (log 40),
the first line of `.text` where fewer than k words precede; where none may fall, the kth word before has no v or g result. -/
def latchMessage (ts : List TextWord) (es : List Bool) (n k : Nat) : String :=
  let name := "latch b" ++ Nat.repr k
  match (List.range (min k (n + 1))).find? fun j => boundary ts es (n - j) with
  | some j => name ++ " may cross a run boundary before line " ++ placeText ((ts[n - j]?.map (·.place)).getD [])
  | none => name ++ " names a word without a v or g result"

/-- Error 107 for every latch that may cross a boundary (R250). -/
def latchErrors (ts : List TextWord) (es : List Bool) : List Diag :=
  eachWord ts fun n t =>
    ((latches t.instr).eraseDups.filter fun k => !latchOk ts es n k).map fun k => ⟨107, t.place, latchMessage ts es n k⟩

/-- The words of `.run` that R249 names: every later word up to the first word with E = 1 from the one marked on. -/
def runHolds (ts : List TextWord) (es : List Bool) : Nat → Nat → Bool
  | 0, _ => true
  | fuel + 1, n => es.getD n true || (!boundary ts es (n + 1) && runHolds ts es fuel (n + 1))

/-- Error 122 where `.run` does not hold (R249). -/
def runErrors (ts : List TextWord) (es : List Bool) : List Diag :=
  eachWord ts fun n t => if t.run && !runHolds ts es ts.length n then [t.diag 122] else []

/-- Warning 202: each stretch of 8 or more words whose vectors share bank k (R251), from the word reached, with the line that
begins the stretch in progress and its length. -/
def bankStretches (k : Nat) : Place → Nat → List TextWord → List Diag
  | p, run, [] => hot p run
  | p, run, t :: l =>
    if t.instr.banks.getLsbD k then bankStretches k (if run = 0 then t.place else p) (run + 1) l
    else hot p run ++ bankStretches k p 0 l
where
  /-- The warning of a stretch that ends. -/
  hot (p : Place) (run : Nat) : List Diag :=
    if 8 ≤ run then [⟨202, p, "bank " ++ Nat.repr k ++ " hot over " ++ Nat.repr run ++ " words"⟩] else []

/-- Warning 203: a word without a label after BRA, RET or EXIT (R256). -/
def unreachable (ts : List TextWord) : List Diag :=
  eachWord ts fun n t =>
    match t.instr, ts[n + 1]? with
    | .bra .., some u | .ret .., some u | .exit .., some u => if u.label then [] else [u.diag 203]
    | _, _ => []

/-! ### Windows (R252) -/

/-- What is known of the wave at a word: its blocks and its base; none while unknown. -/
abbrev Window := Option (Nat × Nat)

/-- The window before a word, from the one the words before it leave, with warning 205 where `.regs` contradicts it. -/
def windowAt (w : Window) (t : TextWord) : Window × Bool :=
  let x : Window := match t.entry with
    | [] => if t.named then none else w
    | b :: l => if l.all (· = b) then some (b, 0) else none
  match t.regs with
  | none => (x, false)
  | some r => (some r, match x with | some y => y ≠ r | none => false)

/-- Is every register a word names in the window (R21), and would WINB, RCLAIM or RGIVE not trap by the blocks alone (R114 to
R116)? -/
def windowOk (blocks base : Nat) (i : Instr) : Bool :=
  (match i.shape with
    | none => true
    | some s => s.named.all fun r => match r with | .v n => decide (32 * base + n.val < 32 * blocks) | _ => true)
  && match i with
    | .winb _ n => decide (n.val < blocks)
    | .rclaim _ n => decide (blocks + n.val ≤ 8)
    | .rgive _ n => decide (n.val < blocks && base < blocks - n.val)
    | _ => true

/-- The window after a word. -/
def windowAfter (w : Window) (i : Instr) : Window :=
  w.map fun x => match i with
    | .winb _ n => (x.1, n.val)
    | .rclaim _ n => (x.1 + n.val, x.2)
    | .rgive _ n => (x.1 - n.val, x.2)
    | _ => x

/-- Error 108 and warning 205 through `.text` in address order (R252). -/
def windowErrors : Window → List TextWord → List Diag
  | _, [] => []
  | w, t :: l =>
    let x := windowAt w t
    (if x.2 then [t.diag 205] else [])
      ++ (match x.1 with | some y => if windowOk y.1 y.2 t.instr then [] else [t.diag 108] | none => [])
      ++ windowErrors (windowAfter x.1 t.instr) l

/-! ### Colour order (R253) -/

/-- The pair and the offset in bytes of an access of R141 that acquires a colour; COLOUR and TAGSET acquire those of their
range (R155), of which the addressed granule is the first. -/
def colouredAccess : Instr → Option (Reg × Int)
  | .colour _ _ a o | .tagset _ _ a o => some (a, o.toInt * 64)
  | .ld _ _ _ a o v => some (a, o.toInt * v.bytes)
  | .ldR _ _ _ a _ o v => some (a, o.toInt * v.bytes)
  | .st _ _ a o v => some (a, o.toInt * v.bytes)
  | .atomInt _ _ _ a _ o _ => some (a, o.toInt * 4)
  | .atomExt _ _ _ a _ o v => some (a, o.toInt * v.bytes)
  | .redInt _ _ a _ o _ => some (a, o.toInt * 4)
  | .redExt _ _ a _ o v => some (a, o.toInt * (if v = .add64 then 8 else 4))
  | _ => none

/-- The colour of a byte of a section, by the metadata runs (R245). -/
def colourAt (runs : List MetaRun) (sec : Section) (o : Int) : BitVec 6 :=
  match runs.find? fun r => r.sec = sec && (r.offset : Int) ≤ o && o < (r.offset + 64 * r.granules : Nat) with
  | some r => r.colour
  | none => 0

/-- What a stretch has shown: the pairs it knows, and the colours touched. -/
structure Stretch where
  pairs : List (Reg × String × Int) := []
  colours : List (BitVec 6) := []
deriving DecidableEq, Repr, Inhabited

/-- The pairs still known after a word: those neither of whose registers it writes (R253); K = 1
writes none. -/
def keepPairs (i : Instr) (ps : List (Reg × String × Int)) : List (Reg × String × Int) :=
  match i.shape.bind fun s => if s.k then none else s.dst with
  | none => ps
  | some (d, n) => ps.filter fun p => !((p.1.span 2).any fun r => (d.span n).contains r)

/-- Errors 110 and 111 of one word, and what the stretch has then shown. An access to a granule of colour 0 acquires no
colour (R36). -/
def colourWord (symbols : List Symbol) (runs : List MetaRun) (x : Stretch) (t : TextWord) : Stretch × List Diag :=
  let c : BitVec 6 := match colouredAccess t.instr with
    | none => 0
    | some (a, o) =>
      match x.pairs.find? fun p => p.1 = a with
      | none => 0
      | some (_, name, addend) =>
        match symbols.find? fun y => y.name = name with
        | none => 0
        | some y => colourAt runs y.sec (y.offset + addend + o)
  let fresh := c ≠ 0 && !x.colours.contains c
  let above := if c = 0 then none else x.colours.find? fun d => c.toNat < d.toNat
  let cs := if fresh then x.colours ++ [c] else x.colours
  (⟨keepPairs t.instr x.pairs, cs⟩,
    (match above with
      | some d => [⟨110, t.place, "colour order: " ++ Nat.repr c.toNat ++ " after " ++ Nat.repr d.toNat⟩]
      | none => [])
    ++ (if fresh && cs.length = 9 then [t.diag 111] else []))

/-- Errors 110 and 111 through `.text`: a named label begins a stretch, and CALL, CALLR, RET and EXIT end one. The pair of an
`la` is known from its fourth word on. -/
def colourErrors (symbols : List Symbol) (runs : List MetaRun) : Stretch → Option (Nat × Reg × String × Int) → List TextWord → List Diag
  | _, _, [] => []
  | x, la, t :: l =>
    let x0 : Stretch := if t.named then {} else x
    let la0 := if t.named then none else la
    let la1 : Option (Nat × Reg × String × Int) := match t.la, t.instr with
      | some (name, a), .ldi _ _ d _ => some (3, d, name, a)
      | _, _ => la0
    let r := colourWord symbols runs x0 t
    let x1 : Stretch := match la1 with
      | some (0, d, name, a) => { r.1 with pairs := r.1.pairs ++ [(d, name, a)] }
      | _ => r.1
    let la2 := match la1 with | some (k + 1, y) => some (k, y) | _ => none
    let x2 : Stretch := match t.instr with
      | .call .. | .callr .. | .ret .. | .exit .. => {}
      | _ => x1
    r.2 ++ colourErrors symbols runs x2 la2 l

/-! ### Semaphore balance (R254, R255) -/

/-- Is the word a semaphore instruction, and which of inc and dec may be positive? -/
def semKind : Instr → Option (Bool × Bool)
  | .semsig .. => some (true, false)
  | .semwait .. | .semtake .. => some (false, true)
  | _ => none

/-- Errors 112 and 113. -/
def semErrors (sems : List SemDef) (ts : List TextWord) : List Diag :=
  eachWord ts fun _ t =>
    match semKind t.instr, t.semuse with
    | none, none => []
    | none, some _ => [t.diag 113]
    | some _, none => [t.diag 112]
    | some (i, d), some (name, inc, dec) =>
      if (sems.any fun y => y.name = name) && (i || inc ≤ 0) && (d || dec ≤ 0) then [] else [t.diag 113]

/-- INC and DEC of a semaphore, summed over the whole image. -/
def semSums (ts : List TextWord) (name : String) : Int × Int :=
  ts.foldl (fun s t => match t.semuse with
    | some (y, i, d) => if y = name then (s.1 + i, s.2 + d) else s
    | none => s) (0, 0)

/-- A signed value as a 32-bit field. -/
def field32 (x : Int) : List Byte := leBytes (BitVec.ofInt 32 x).toNat 4

/-- The bytes of a balance table: its header, and an entry for each name (R255); ADDR is left to a D64 relocation. -/
def balanceTable (sems : List SemDef) (ts : List TextWord) (names : List String) : List Byte :=
  leBytes names.length 64 ++ names.flatMap fun name =>
    match sems.find? fun y => y.name = name with
    | none => List.replicate 32 0
    | some y =>
      leBytes 0 8 ++ field32 y.init ++ field32 y.final ++ field32 y.ext
        ++ field32 (semSums ts name).1 ++ field32 (semSums ts name).2 ++ leBytes 0 4

/-- The D64 relocations of a balance table that begins at an offset of `.balance`. -/
def balanceRelocs (offset : Nat) (names : List String) : List Reloc :=
  (List.range names.length).map fun k => ⟨.d64, .balance, offset + 64 + 32 * k, names.getD k "", 0⟩

/-! ### Launch records (R246) -/

/-- The directives of one launch record. -/
structure LaunchLines where
  /-- the line that begins the record -/
  place : Place := []
  entry : Option String := none
  wid : List Nat := []
  extents : List Nat := []
  group : Nat := 1
  roles : List (List Nat × Nat) := []
  blocks : Nat := 0
  abuf : Nat := 0
  cbuf : Nat := 0
  wbuf : Nat := 0
  pool : Option (String × Nat) := none
  handler : Option String := none
  snapshot : Bool := false
  sems : List String := []
  levels : Nat := 1
  contexts : Option Nat := none
  spawnctx : Nat := 0
deriving DecidableEq, Repr, Inhabited

/-- Are the widths in their limits? -/
def widthsOk (ws : List Nat) : Bool :=
  match ws with
  | [] => true
  | w :: l => 5 ≤ w && w ≤ 10 && l.all (1 ≤ ·) && (ws.take 5).sum ≤ 63 && ws.length ≤ 6
      && (ws.length < 6 || ws.getD 5 0 = 64 - (ws.take 5).sum)

/-- The width of Fk: the field above the last width given takes the rest of the 64 bits, and there is none above it. -/
def widthOf (ws : List Nat) (k : Nat) : Nat :=
  let l := ws.take 5
  if k < l.length then l.getD k 0 else if k = l.length && l ≠ [] then 64 - l.sum else 0

/-- WIDF: Bk is w0 + … + w(k−1) (R11). -/
def widfOf (ws : List Nat) : Nat :=
  ((List.range (ws.take 5).length).map fun k => (ws.take (k + 1)).sum * 2 ^ (6 * k)).sum

/-- G, the product of the extents. -/
def groupsOf (r : LaunchLines) : Nat := r.extents.foldl (· * ·) 1

/-- CTXN: `.contexts`, or (WAVES + 1) × G, where WAVES + 1 is the waves of a group (R246). -/
def LaunchLines.ctxn (r : LaunchLines) : Nat := r.contexts.getD (r.group * groupsOf r)

/-- The role of a wave: the one of the first list that names it, 0 where none does (R246). -/
def LaunchLines.role (r : LaunchLines) (w : Nat) : Nat :=
  match r.roles.find? fun x => x.1.contains w with | some x => x.2 | none => 0

/-- Is every wave given one role? A wave listed with two roles is out of the limits (DESIGN CHOICE, log 40). -/
def LaunchLines.rolesAgree (r : LaunchLines) : Bool := r.roles.all fun x => x.1.all fun w => r.role w = x.2

/-- Every value of a record in its limits; the CTXN that stands by default has those of `.contexts`. -/
def LaunchLines.ok (r : LaunchLines) : Bool :=
  widthsOk r.wid && r.extents.length ≤ 5
    && ((List.range r.extents.length).all fun k =>
      1 ≤ r.extents.getD k 0 && r.extents.getD k 0 ≤ 2 ^ widthOf r.wid (k + 1))
    && 1 ≤ r.group && r.group ≤ 2 ^ (r.wid.headD 5 - 5) && (r.roles.all fun x => x.2 < 4 && x.1.all (· < 32)) && r.rolesAgree
    && r.blocks ≤ 8 && r.abuf ≤ 512 && r.cbuf ≤ 256 && r.wbuf ≤ 1024
    && (match r.pool with | some p => decide (p.2 < 2 ^ 24) | none => true)
    && r.sems.length ≤ 64 && r.levels ≤ 4095 && r.spawnctx ≤ 4095
    && 1 ≤ r.ctxn && r.ctxn < 2 ^ 32

/-- The diagnostics of a record: 118 without `.entry`, 117 outside the limits, 114 and 124 for its `.sems` (R246, R254);
`defined` says what is defined at all. -/
def LaunchLines.errors (r : LaunchLines) (defined : String → Bool) (sems : List SemDef) : List Diag :=
  (if r.entry.isNone then [diag 118 r.place] else []) ++ (if r.ok then [] else [diag 117 r.place])
    ++ r.sems.filterMap fun n =>
      if sems.any fun y => y.name = n then none else some (diag (if defined n then 124 else 114) r.place)

/-- A record as a number, with the layout of R319: fields that no directive names are zero, but for LEVELS and CTXN. An
address that is an absolute symbol has its value, and the others are left to relocations. -/
def LaunchLines.record (r : LaunchLines) (equs : List (String × Val)) : Nat :=
  let fixed (s : Option String) : Nat := match s.bind fun n => equs.lookup n with
    | some (.abs v) => v.toNat
    | _ => 0
  fixed (r.pool.map Prod.fst) * 2 ^ 320 + fixed r.handler * 2 ^ 448 + widfOf r.wid * 2 ^ 128 + (r.group - 1) * 2 ^ 160 + r.blocks * 2 ^ 168 + r.abuf * 2 ^ 176 + r.cbuf * 2 ^ 192
    + r.wbuf * 2 ^ 208 + r.snapshot.toNat * 2 ^ 230 + r.levels * 2 ^ 232 + ((List.range 32).map fun w => r.role w * 2 ^ (256 + 2 * w)).sum
    + (match r.pool with | some p => p.2 | none => 0) * 2 ^ 384 + r.spawnctx * 2 ^ 408
    + r.ctxn * 2 ^ 640
    + ((List.range r.extents.length).map fun k => (r.extents.getD k 1 - 1) * 2 ^ (704 + 64 * k)).sum

/-- The relocations of a record at an offset of `.launch`: ENTRY, POOL, HANDLER and the link to its balance table. -/
def LaunchLines.relocs (r : LaunchLines) (offset : Nat) (balance : String) : List Reloc :=
  let one (bit : Nat) (s : Option String) : List Reloc := match s with
    | some n => [⟨.d64, .launch, offset + bit / 8, n, 0⟩]
    | none => []
  one 0 r.entry ++ one 320 (r.pool.map Prod.fst) ++ one 448 r.handler ++ one 512 (if r.sems = [] then none else some balance)

/-- Warning 204: a semaphore that no launch lists (R254). -/
def uncheckedSems (sems : List SemDef) (rs : List LaunchLines) : List Diag :=
  sems.filterMap fun y => if rs.any fun r => r.sems.contains y.name then none else some (diag 204 y.place)

/-! ### The text checked and written -/

/-- The error that names what is wrong with a word (R256). -/
def wordError (x : IllFormed) : Nat :=
  match x with
  | .immediate | .watchSlot | .counterNumber => 103
  | .badPair | .badQuad => 105
  | .latchDest | .latchForbidden | .kForbidden => 106
  | .qForbidden => 109
  | _ => 102

/-- The error of every word that no form allows; a latch in a destination field is 106 before it is a bad pair (R250). -/
def wordErrors (ts : List TextWord) : List Diag :=
  eachWord ts fun _ t =>
    match t.instr.error, t.instr.shape.bind Shape.dst with
    | none, _ => []
    | some _, some (.b _, _) => [t.diag 106]
    | some x, _ => [t.diag (wordError x)]

/-- Warning 201: a result that K keeps out of its register and that no latch reference reads (R256). -/
def unreadResults (ts : List TextWord) : List Diag :=
  eachWord ts fun n t =>
    match t.instr.shape with
    | none => []
    | some s =>
      if s.k && !((List.range 8).any fun j =>
          match ts[n + j + 1]? with | some u => (latches u.instr).contains (j + 1) | none => false)
      then [t.diag 201] else []

/-- All the diagnostics of `.text` (R248 to R254). -/
def textDiags (o : Options) (data : DataOut) (ts : List TextWord) : List Diag :=
  let es := setEnds o.noAutoEnd 0 ts
  wordErrors ts ++ unreadResults ts ++ es.2 ++ latchErrors ts es.1 ++ runErrors ts es.1 ++ unreachable ts
    ++ windowErrors none ts ++ colourErrors data.symbols data.runs {} none ts ++ semErrors data.sems ts
    ++ (List.range 8).flatMap fun k => bankStretches k [] 0 ts

/-- An entry of the listing: address in `.text`, word with its E and K, bank-use vector, relocation and source line (R236). -/
structure Listed where
  address : Nat
  word : Option Word
  e : Bool
  k : Bool
  banks : BitVec 8
  reloc : Option Reloc
  source : List Char
deriving DecidableEq, Repr, Inhabited

/-- The words of `.text` as the listing gives them (R236, R251). -/
def textWords (o : Options) (relocs : List Reloc) (ts : List TextWord) : List Listed :=
  let es := (setEnds o.noAutoEnd 0 ts).1
  ts.mapIdx fun n t =>
    { address := 4 * n, word := placedWord t (es.getD n false), e := es.getD n false
      k := match t.instr.shape with | some s => s.k | none => false
      banks := t.instr.banks, reloc := relocs.find? fun r => r.sec = .text && r.offset = 4 * n, source := t.source }

end Sys2Proof.Machine.Vlas
end

