-- ==== Sys2Proof/Machine/Source.lean ====
section
/-! DEFINITION. The source text of vlas: characters, lines, numbers, expressions and operands (R237, R238), the instruction
forms as they are written (chapters 04 to 09), `.include` (R244) and macros (R247). A line is a list of characters. -/
namespace Sys2Proof.Machine.Vlas

/-! ### Characters and tokens (R237) -/

inductive Tok where
  /-- a name, mnemonic or directive, as written -/
  | word (s : List Char)
  | num (n : BitVec 64)
  | str (s : List Char)
  | sym (c : Char)
  /-- `<<` and `>>` -/
  | shl
  | shr
  /-- what no token is -/
  | bad
deriving DecidableEq, Repr, Inhabited

def isLetter (c : Char) : Bool := (65 ≤ c.toNat && c.toNat ≤ 90) || (97 ≤ c.toNat && c.toNat ≤ 122)
def isDigit (c : Char) : Bool := 48 ≤ c.toNat && c.toNat ≤ 57
def nameStart (c : Char) : Bool := isLetter c || c = '.' || c = '_'
def nameChar (c : Char) : Bool := nameStart c || isDigit c

/-- A letter in lowercase. -/
def lowerChar (c : Char) : Char := if 65 ≤ c.toNat && c.toNat ≤ 90 then Char.ofNat (c.toNat + 32) else c

/-- A word in lowercase: mnemonics, suffixes, registers and directives are case-insensitive. -/
def lower (l : List Char) : List Char := l.map lowerChar

/-- The value of a digit. -/
def digitOf (c : Char) : Option Nat :=
  if isDigit c then some (c.toNat - 48)
  else let d := lowerChar c; if 97 ≤ d.toNat && d.toNat ≤ 102 then some (d.toNat - 87) else none

/-- The value of digits in a base; underscores are ignored. -/
def numberIn (base : Nat) : Nat → List Char → Option Nat
  | n, [] => some n
  | n, c :: l =>
    if c = '_' then numberIn base n l
    else match digitOf c with
      | some d => if d < base then numberIn base (base * n + d) l else none
      | none => none

/-- A number: decimal, 0x hexadecimal or 0b binary. -/
def number (l : List Char) : Tok :=
  let r := match l with
    | '0' :: 'x' :: x => numberIn 16 0 x
    | '0' :: 'X' :: x => numberIn 16 0 x
    | '0' :: 'b' :: x => numberIn 2 0 x
    | '0' :: 'B' :: x => numberIn 2 0 x
    | x => numberIn 10 0 x
  match r with
  | some n => .num (BitVec.ofNat 64 n)
  | none => .bad

/-- The tokens of a line; `fuel` is its length. A comment runs from `;` to the end. -/
def tokens : Nat → List Char → List Tok
  | 0, _ => []
  | fuel + 1, l =>
    match l with
    | [] => []
    | ';' :: _ => []
    | '<' :: '<' :: r => .shl :: tokens fuel r
    | '>' :: '>' :: r => .shr :: tokens fuel r
    | '"' :: r => .str (r.takeWhile (· ≠ '"')) :: tokens fuel ((r.dropWhile (· ≠ '"')).drop 1)
    | c :: r =>
      if c = ' ' || c = '\t' || c = '\r' then tokens fuel r
      else if nameStart c then .word (l.takeWhile nameChar) :: tokens fuel (l.dropWhile nameChar)
      else if isDigit c then number (l.takeWhile nameChar) :: tokens fuel (l.dropWhile nameChar)
      else .sym c :: tokens fuel r

/-- The tokens of a whole line. -/
def lex (l : List Char) : List Tok := tokens (l.length + 1) l

/-! ### Expressions (R237) -/

/-- The operator a token is at a level of C precedence, 0 the loosest. -/
def opAt (level : Nat) (t : Tok) : Option BinOp :=
  match level, t with
  | 0, .sym '|' => some .or
  | 1, .sym '^' => some .xor
  | 2, .sym '&' => some .and
  | 3, .shl => some .shl
  | 3, .shr => some .shr
  | 4, .sym '+' => some .add
  | 4, .sym '-' => some .sub
  | 5, .sym '*' => some .mul
  | 5, .sym '/' => some .div
  | 5, .sym '%' => some .rem
  | _, _ => none

/-- The number after the letter of a register, a predicate or a tile. -/
def numbered (l : List Char) (max : Nat) : Option Nat :=
  if l.isEmpty || !l.all isDigit || (l.length > 1 && l.head? = some '0') then none
  else (numberIn 10 0 l).bind fun n => if n ≤ max then some n else none

/-- The register a word names (R238). -/
def registerOf (l : List Char) : Option Reg :=
  match lower l with
  | 'v' :: r => (numbered r 95).map Reg.ofCode
  | 'g' :: r => (numbered r 15).map fun n => Reg.ofCode (96 + n)
  | 'q' :: r => (numbered r 7).map fun n => Reg.ofCode (112 + n)
  | 'b' :: r => (numbered r 8).bind fun n => if n = 0 then none else some (Reg.ofCode (119 + n))
  | _ => none

def predicateOf (l : List Char) : Option Pred :=
  match lower l with
  | 'p' :: r => (numbered r 7).map fun n => Fin.ofNat 8 n
  | _ => none

def tileOf (l : List Char) : Option (Fin 64) :=
  match lower l with
  | 't' :: r => (numbered r 63).map fun n => Fin.ofNat 64 n
  | _ => none

/-- May a word be a symbol? A register or a tile may not, nor `_` alone (R237). -/
def symbolName (l : List Char) : Bool := l ≠ ['_'] && (registerOf l).isNone && (tileOf l).isNone

/-- An expression from a level of precedence up (6 and more: a unary or primary one), and the tokens after it. The first
argument bounds the depth of the text. -/
def parseExpr : Nat → Nat → List Tok → Option (Expr × List Tok)
  | 0, _, _ => none
  | fuel + 1, level, ts =>
    if level < 6 then
      match parseExpr fuel (level + 1) ts with
      | none => none
      | some (a, r) => some (rest fuel level a r)
    else
      match ts with
      | .num n :: r => some (.num n, r)
      | .word s :: r => if symbolName s then some (.sym (String.ofList s), r) else none
      | .sym '+' :: r => parseExpr fuel 6 r
      | .sym '-' :: r => (parseExpr fuel 6 r).map fun x => (.neg x.1, x.2)
      | .sym '~' :: r => (parseExpr fuel 6 r).map fun x => (.not x.1, x.2)
      | .sym '(' :: r =>
        match parseExpr fuel 0 r with
        | some (a, .sym ')' :: r2) => some (a, r2)
        | _ => none
      | _ => none
where
  /-- The operators of one level, from the left. -/
  rest : Nat → Nat → Expr → List Tok → Expr × List Tok
    | 0, _, a, ts => (a, ts)
    | fuel + 1, level, a, ts =>
      match ts with
      | t :: r =>
        match opAt level t with
        | some o =>
          match parseExpr fuel (level + 1) r with
          | some (b, r2) => rest fuel level (.bin o a b) r2
          | none => (a, ts)
        | none => (a, ts)
      | [] => (a, ts)

/-- An expression that is all of the tokens. -/
def wholeExpr (ts : List Tok) : Option Expr :=
  match parseExpr (20 * ts.length + 20) 0 ts with
  | some (e, []) => some e
  | _ => none

/-! ### Operands (R238) -/

inductive Operand where
  | reg (r : Reg)
  | pred (p : Pred)
  | tile (t : Fin 64)
  /-- `_` -/
  | none
  | imm (e : Expr)
  /-- `[base + offset].space` -/
  | mem (base : Reg) (offset : Expr) (space : List Char)
  | expr (e : Expr)
deriving DecidableEq, Repr, Inhabited

/-- An operand. -/
def operand (ts : List Tok) : Option Operand :=
  match ts with
  | [.word s] =>
    if s = ['_'] then some .none
    else match registerOf s, predicateOf s, tileOf s with
      | some r, _, _ => some (.reg r)
      | _, some p, _ => some (.pred p)
      | _, _, some t => some (.tile t)
      | _, _, _ => some (.expr (.sym (String.ofList s)))
  | .sym '#' :: r => (wholeExpr r).map .imm
  | .sym '[' :: .word b :: r =>
    match registerOf b, r.getLast?, r.dropLast.getLast? with
    | some base, some (.word sp), some (.sym ']') =>
      let o := r.dropLast.dropLast
      match o with
      | .sym '+' :: x => (wholeExpr x).map fun e => .mem base e (lower sp)
      | .sym '-' :: x => (wholeExpr (.sym '-' :: x)).map fun e => .mem base e (lower sp)
      | _ => Option.none
    | _, _, _ => Option.none
  | _ => (wholeExpr ts).map .expr

/-- Tokens between commas. -/
def splitCommas : List Tok → List (List Tok)
  | [] => [[]]
  | .sym ',' :: r => [] :: splitCommas r
  | t :: r =>
    match splitCommas r with
    | x :: l => (t :: x) :: l
    | [] => [[t]]

/-! ### Source lines (R237) -/

/-- A line as it is read: the number of its file, where it stands, and its text. -/
structure Line where
  file : Nat
  place : Place
  text : List Char
deriving DecidableEq, Repr, Inhabited

/-- A line in its parts. -/
structure Source where
  file : Nat
  label : Option (List Char)
  /-- mnemonic or directive, in lowercase -/
  head : Option (List Char)
  args : List (List Tok)
  bang : Bool
deriving DecidableEq, Repr, Inhabited

/-- The parts of a line. -/
def parseLine (file : Nat) (l : List Char) : Source :=
  let ts := lex l
  let x : Option (List Char) × List Tok := match ts with
    | .word s :: .sym ':' :: r => (some s, r)
    | r => (none, r)
  let b := x.2.getLast? = some (.sym '!')
  let r := if b then x.2.dropLast else x.2
  match r with
  | .word h :: a => ⟨file, x.1, some (lower h), if a.isEmpty then [] else splitCommas a, b⟩
  | [] => ⟨file, x.1, none, [], b⟩
  | _ => ⟨file, x.1, some ['?'], [], b⟩

/-! ### Macros and inclusion (R244, R247) -/

structure Macro where
  name : List Char
  params : List (List Char)
  body : List (Place × List Char)
deriving DecidableEq, Repr, Inhabited

/-- A number in decimal. -/
def decimal (n : Nat) : List Char := (Nat.repr n).toList

/-- A body line with `%p` replaced by the argument of parameter p, and `%=` by the expansion's number. -/
def expandText (ps : List (List Char × List Char)) (n : Nat) : Nat → List Char → List Char
  | 0, l => l
  | fuel + 1, l =>
    match l with
    | [] => []
    | '%' :: '=' :: r => decimal n ++ expandText ps n fuel r
    | '%' :: r =>
      match ps.lookup (r.takeWhile fun c => isLetter c || isDigit c || c = '_') with
      | some a => a ++ expandText ps n fuel (r.dropWhile fun c => isLetter c || isDigit c || c = '_')
      | none => '%' :: expandText ps n fuel r
    | c :: r => c :: expandText ps n fuel r

def blank (c : Char) : Bool := c = ' ' || c = '\t' || c = '\r'

/-- A text between its commas, blanks at the ends removed. -/
def splitText (l : List Char) : List (List Char) :=
  let trim (x : List Char) : List Char := ((x.dropWhile blank).reverse.dropWhile blank).reverse
  let cut := l.foldr (fun c (s : List (List Char)) => match s with
    | x :: r => if c = ',' then [] :: x :: r else (c :: x) :: r
    | [] => [[c]]) [[]]
  if (trim l).isEmpty then [] else cut.map trim

/-- A line without its comment, and its first words: a label if any, and what follows. -/
def headOf (l : List Char) : Option (List Char) × List Char :=
  let t := (l.takeWhile (· ≠ ';')).dropWhile blank
  match (t.dropWhile nameChar).dropWhile blank with
  | ':' :: x => (some (t.takeWhile nameChar), x.dropWhile blank)
  | _ => (none, t)

/-- The first word of a line after its label, in lowercase. -/
def firstWord (l : List Char) : List Char := lower ((headOf l).2.takeWhile nameChar)

/-- A line's label as a line of its own. -/
def labelLine (p : Place) (l : List Char) : List (Place × List Char) :=
  match (headOf l).1 with
  | some x => [(p, x ++ [':'])]
  | none => []

/-- The files of an invocation: names, and lines. -/
abbrev FileSet := List (List Char × List (List Char))

/-- What has been read: macros, the lines that remain, the number of expansions, and errors 120 and 121. -/
structure Reader where
  macros : List Macro := []
  lines : List Line := []
  expansions : Nat := 0
  diags : List Diag := []
deriving DecidableEq, Repr, Inhabited

/-- The lines of a file, each with its place. -/
def placedLines (f : List Char × List (List Char)) : List (Place × List Char) :=
  f.2.mapIdx fun k l => ([(String.ofList f.1, k + 1)], l)

/-- The first file of some names that is present. -/
def findFile (fs : FileSet) : List (List Char) → Option (List Char × List (List Char))
  | [] => none
  | n :: l => match fs.find? fun f => f.1 = n with | some f => some f | none => findFile fs l

/-- The directory part of a file name, with its `/`. -/
def dirOf (n : List Char) : List Char := (n.reverse.dropWhile (· ≠ '/')).reverse

/-- Lines read with inclusion and macros: `mnemonic` names what no macro may be called, `depth` bounds nesting (16 levels of
`.include`, 16 of expansions), `dirs` are those of `-I`. A label on a line of `.include`, `.macro` or `.endm`, or before the use
of a macro, stands where that line stands (R237). A line keeps the number of the file it stands in: a `.` name of an included
file is local to the included file, not to the file that includes it (DESIGN CHOICE, log 40: R241 says `local to its file`). -/
def readLines (fs : FileSet) (dirs : List (List Char)) (mnemonic : List Char → Bool) :
    Nat → Nat → Nat → List Char → List (Place × List Char) → Reader → Reader
  | 0, _, _, _, _, r => r
  | _, _, _, _, [], r => r
  | fuel + 1, inc, mac, file, (p, l) :: ls, r0 =>
    let number := fs.findIdx fun f => f.1 = file
    let put (x : List (Place × List Char)) (r : Reader) : Reader := { r with lines := r.lines ++ x.map fun y => ⟨number, y.1, y.2⟩ }
    let err (n : Nat) (x : Reader) : Reader := { x with diags := x.diags ++ [diag n p] }
    let h := headOf l
    let w := h.2.takeWhile nameChar
    let tail := h.2.dropWhile nameChar
    if firstWord l = ".macro".toList then
      let r := put (labelLine p l) r0
      let name := (tail.dropWhile blank).takeWhile nameChar
      let params := splitText ((tail.dropWhile blank).dropWhile nameChar)
      let body := ls.takeWhile fun x => firstWord x.2 ≠ ".endm".toList
      let rest := ls.dropWhile fun x => firstWord x.2 ≠ ".endm".toList
      let bad := rest.isEmpty || (body.any fun x => firstWord x.2 = ".macro".toList) || mnemonic (lower name) || name.isEmpty
      let r1 := { r with macros := r.macros ++ [⟨name, params, body⟩] }
      let r2 := if bad then err 120 r1 else r1
      readLines fs dirs mnemonic fuel inc mac file (rest.drop 1)
        (match rest with | x :: _ => put (labelLine x.1 x.2) r2 | [] => r2)
    else if firstWord l = ".include".toList then
      let r := put (labelLine p l) r0
      match lex tail with
      | [.str name] =>
        match findFile fs ((dirOf file ++ name) :: dirs.map fun d => d ++ ['/'] ++ name) with
        | some f =>
          if 16 ≤ inc then readLines fs dirs mnemonic fuel inc mac file ls (err 121 r)
          else readLines fs dirs mnemonic fuel inc mac file ls
            (readLines fs dirs mnemonic fuel (inc + 1) mac f.1 (placedLines f) r)
        | none => readLines fs dirs mnemonic fuel inc mac file ls (err 121 r)
      | _ => readLines fs dirs mnemonic fuel inc mac file ls (err 102 r)
    else
      match r0.macros.find? fun m => m.name = w with
      | some m =>
        if 16 ≤ mac then readLines fs dirs mnemonic fuel inc mac file ls (err 120 r0)
        else
          let args := splitText tail
          let ps := (List.range m.params.length).map fun k => (m.params.getD k [], args.getD k [])
          let n := r0.expansions
          let text := labelLine p l ++ m.body.map fun b => (p ++ b.1, expandText ps n (b.2.length + 1) b.2)
          readLines fs dirs mnemonic fuel inc mac file ls
            (readLines fs dirs mnemonic fuel inc (mac + 1) file text { r0 with expansions := n + 1 })
      | none => readLines fs dirs mnemonic fuel inc mac file ls (put [(p, l)] r0)

end Sys2Proof.Machine.Vlas
end

