-- ==== Sys2Proof/Machine/Forms.lean ====
section
/-! DEFINITION. The instruction forms as vlas writes them (chapters 04 to 09, R53 to R64, R238, R239). A form is a name and
operands; an answer is the instructions it stands for, or the number of its error (R256). The E bit is set later (R248). -/
namespace Sys2Proof.Machine.Vlas

/-- What operands refer to where a line stands. -/
structure At where
  /-- the value of an expression -/
  value : Expr → Option Val
  /-- the offset in `.text` that an expression names -/
  target : Expr → Option Int
  /-- is every symbol of the expression defined by now (R239)? -/
  known : Expr → Bool
  /-- is every symbol of the expression defined anywhere (R241)? -/
  defined : Expr → Bool
  /-- the offset of the line's first word in `.text` -/
  here : Nat

/-- A word of a line: its instruction, with the relocation it carries and the symbol of the `la` that it begins. -/
structure Placed where
  instr : Instr
  reloc : Option (RelocKind × String × BitVec 64) := none
  la : Option (String × Int) := none
deriving DecidableEq, Repr, Inhabited

abbrev Answer := Except Nat (List Placed)

def one (i : Instr) : Answer := .ok [⟨i, none, none⟩]

/-- The error of an expression without the value it should have: 114 for an undefined symbol (R241), otherwise 102. -/
def At.noValue (x : At) (e : Expr) : Nat := if x.defined e then 102 else 114

/-- An integer that an expression gives; error 102 for a relocatable one, 114 for an undefined symbol. -/
def At.int (x : At) (e : Expr) : Except Nat Int :=
  match x.value e with
  | some (.abs n) => .ok n.toInt
  | _ => .error (x.noValue e)

/-- An immediate between two bounds; error 103 outside them. -/
def At.imm (x : At) (e : Expr) (lo hi : Int) : Except Nat Int :=
  (x.int e).bind fun n => if lo ≤ n && n ≤ hi then .ok n else .error 103

/-- An unsigned immediate of n bits. -/
def At.uimm (x : At) (e : Expr) (n : Nat) : Except Nat (BitVec n) := (x.imm e 0 (2 ^ n - 1 : Nat)).map (BitVec.ofInt n)

/-- A destination: `_` is register code 0 with K = 1 (R238). -/
def dest : Operand → Option (Bool × Reg)
  | .none => some (true, Reg.ofCode 0)
  | .reg r => some (false, r)
  | _ => Option.none

/-- An offset of n bits scaled by w; error 104 (R51, R238). -/
def At.offset (x : At) (e : Expr) (n w : Nat) : Except Nat (BitVec n) :=
  (x.int e).bind fun o => match offsetField n w o with | some f => .ok f | none => .error 104

/-- Where an answer is one instruction. -/
def answer (r : Except Nat Instr) : Answer := r.bind one

/-- A form whose operands are not as they must be. -/
def wrong : Answer := .error 102

/-! ### Names of codes -/

/-- The suffix of a scope (R60). -/
def scopeOf (l : List Char) : Option Scope :=
  [("thread", Scope.thread), ("wave", .wave), ("group", .group), ("clus", .clus), ("die", .die), ("dev", .dev), ("sys", .sys)].lookup (String.ofList l)

/-- The suffix of a rounding mode (R55). -/
def rndOf (l : List Char) : Option Rnd :=
  [("rne", Rnd.rne), ("rtz", .rtz), ("rdn", .rdn), ("rup", .rup), ("rna", .rna), ("dth", .dth)].lookup (String.ofList l)

/-- The suffix of a format (R56). -/
def fmtOf (l : List Char) : Option Fmt :=
  [("s8", Fmt.s8), ("z8", .z8), ("s16", .s16), ("z16", .z16), ("s32", .s32), ("z32", .z32), ("s64", .s64), ("z64", .z64),
    ("f32", .f32), ("f16", .f16), ("bf16", .bf16), ("e4m3", .e4m3), ("e5m2", .e5m2), ("e5m3", .e5m3)].lookup (String.ofList l)

/-- The operations of WRED, WSCAN, ATOM and RED (R61, R111), with their type. -/
def redOf (l : List Char) : Option RedOp :=
  [("add.s32", RedOp.add), ("min.s32", .minS), ("max.s32", .maxS), ("min.z32", .minZ), ("max.z32", .maxZ), ("and.b32", .and),
    ("or.b32", .or), ("xor.b32", .xor)].lookup (String.ofList l)

/-- The other operations of ATOM (R61). -/
def atomOf (l : List Char) : Option AtomX :=
  [("exch.b32", AtomX.exch32), ("cas.b32", .cas32), ("add.f32", .addF), ("min.f32", .minF), ("max.f32", .maxF),
    ("exch.b64", .exch64), ("cas.b64", .cas64), ("add.s64", .add64)].lookup (String.ofList l)

/-- The other operations of RED (R61). -/
def redXOf (l : List Char) : Option RedX :=
  [("add.f32", RedX.addF), ("min.f32", .minF), ("max.f32", .maxF), ("add.s64", .add64)].lookup (String.ofList l)

/-- A special register by its name in lowercase (R29). -/
def specialOf (l : List Char) : Option (BitVec 8) :=
  [("lane", 0), ("wave", 1), ("role", 2), ("gang", 3), ("winb", 4), ("blks", 5), ("widlo", 6), ("widhi", 7), ("widf", 8),
    ("sser", 9), ("launchlo", 0x0A), ("launchhi", 0x0B), ("arglo", 0x0C), ("arghi", 0x0D), ("csplo", 0x10), ("csphi", 0x11),
    ("csz", 0x12), ("depth", 0x13), ("held.0", 0x18), ("held.1", 0x19), ("held.2", 0x1A), ("held.3", 0x1B), ("held.4", 0x1C),
    ("held.5", 0x1D), ("held.6", 0x1E), ("held.7", 0x1F), ("nflg", 0x20), ("rmiss", 0x21), ("stat", 0x22)].lookup (String.ofList l)

/-- The name an operand is, in lowercase. -/
def bareName : Operand → List Char
  | .expr (.sym s) => lower s.toList
  | _ => []

/-- A name cut at its first dot. -/
def cutDot (l : List Char) : List Char × List Char := (l.takeWhile (· ≠ '.'), (l.dropWhile (· ≠ '.')).drop 1)

/-- A name cut at its last dot. -/
def cutLast (l : List Char) : List Char × List Char :=
  let r := (l.reverse.takeWhile (· ≠ '.')).reverse
  (l.take (l.length - r.length - 1), r)

/-! ### Arithmetic (R97 to R106, R127 to R137) -/

/-- Forms of a destination and two registers. -/
def threeForms : List (String × (Bool → Bool → Reg → Reg → Reg → Instr)) := [
  ("add.s32", .addS32), ("sub.s32", .subS32), ("mul.s32", .mulS32), ("mulh.s32", .mulhS32), ("mulh.z32", .mulhZ32),
  ("min.s32", .minS32), ("max.s32", .maxS32), ("min.z32", .minZ32), ("max.z32", .maxZ32), ("div.s32", .divS32),
  ("div.z32", .divZ32), ("rem.s32", .remS32), ("rem.z32", .remZ32), ("and.b32", .andB32), ("or.b32", .orB32),
  ("xor.b32", .xorB32), ("andn.b32", .andnB32), ("shl.b32", .shlB32), ("shr.b32", .shrB32), ("shra.s32", .shraS32),
  ("rot.b32", .rotB32), ("bfx.s32", .bfxS32), ("bfx.z32", .bfxZ32), ("bfi", .bfi), ("mad.s32", .madS32),
  ("add.s64", .addS64), ("sub.s64", .subS64), ("mul.s64", .mulS64), ("min.s64", .minS64), ("max.s64", .maxS64),
  ("min.z64", .minZ64), ("max.z64", .maxZ64), ("shl.b64", .shlB64), ("shr.b64", .shrB64), ("shra.s64", .shraS64),
  ("mulh.s64", .mulhS64), ("mulh.z64", .mulhZ64), ("mad.s64", .madS64), ("fmin", .fmin), ("fmax", .fmax), ("hadd2", .hadd2),
  ("hmul2", .hmul2), ("hfma2", .hfma2), ("dot4.s8", .dot4S8), ("dot4.z8", .dot4Z8)]

/-- Forms of a destination and one register. -/
def twoForms : List (String × (Bool → Bool → Reg → Reg → Instr)) := [
  ("abs.s32", .absS32), ("neg.s32", .negS32), ("popc", .popc), ("clz", .clz), ("brev", .brev), ("mov", .mov),
  ("neg.s64", .negS64), ("abs.s64", .absS64), ("frcp", .frcp), ("frsq", .frsq), ("fsqrt", .fsqrt), ("fexp2", .fexp2),
  ("flog2", .flog2), ("fsinpi", .fsinpi), ("fcospi", .fcospi), ("fclass", .fclass)]

/-- Shifts by an immediate count, with the greatest count. -/
def shiftForms : List (String × Nat × (Bool → Bool → Reg → Reg → BitVec 7 → Instr)) := [
  ("shl.b32", 31, .shlB32Imm), ("shr.b32", 31, .shrB32Imm), ("shra.s32", 31, .shraS32Imm), ("rot.b32", 31, .rotB32Imm),
  ("shl.b64", 63, .shlB64Imm), ("shr.b64", 63, .shrB64Imm), ("shra.s64", 63, .shraS64Imm)]

/-- Forms with a rounding mode. -/
def roundForms : List (String × (Bool → Bool → Reg → Reg → Reg → Rnd → Instr)) :=
  [("fadd", .fadd), ("fsub", .fsub), ("fmul", .fmul), ("ffma", .ffma)]

/-- A form's answer where the name is the family's; none otherwise. -/
abbrev Family := At → List Char → List Operand → Option Answer

def arithmetic : Family := fun x h as =>
  let n := String.ofList h
  match as with
  | [d, .reg a, .imm i] =>
    (dest d).bind fun (k, d) =>
      if h = "add.s32".toList then some (answer ((x.imm i (-512) 511).map fun v => .addS32Imm false k d a (BitVec.ofInt 10 v)))
      else if h = "sub.s32".toList then
        some (answer ((x.int i).bind fun v => match expandSub k d a v with | some w => .ok w | none => .error 103))
      else if h = "mul.s32".toList then some (answer ((x.imm i (-512) 511).map fun v => .mulS32Imm false k d a (BitVec.ofInt 10 v)))
      else (shiftForms.lookup n).map fun f => answer ((x.imm i 0 f.1).map fun v => f.2 false k d a (BitVec.ofInt 7 v))
  | [d, .reg a, .reg b] => (dest d).bind fun (k, d) => (threeForms.lookup n).map fun f => one (f false k d a b)
  | [d, .reg a] => (dest d).bind fun (k, d) => (twoForms.lookup n).map fun f => one (f false k d a)
  | _ => none

/-- FADD, FSUB, FMUL, FFMA and FRND, with `.f32` allowed before the mode, and CVT. -/
def floats : Family := fun _ h as =>
  let c := cutDot h
  let m := if (cutDot c.2).1 = "f32".toList && c.1 ≠ "cvt".toList then (cutDot c.2).2 else c.2
  let r : Option Rnd := if m.isEmpty then some .rne else rndOf m
  match roundForms.lookup (String.ofList c.1), r, as with
  | some f, some r, [d, .reg a, .reg b] => (dest d).map fun (k, d) => one (f false k d a b r)
  | _, some r, [d, .reg a] =>
    if c.1 = "frnd".toList then (dest d).map fun (k, d) => one (.frnd false k d a r) else none
  | _, _, [d, .reg a] =>
    if c.1 = "cvt".toList then
      let f := cutDot c.2
      let g := cutDot f.2
      match fmtOf f.1, fmtOf g.1, (if g.2.isEmpty then some .rne else rndOf g.2) with
      | some t, some s, some r => (dest d).map fun (k, d) =>
        one (if s.code < 8 then .cvt false k d a t r (Fin.ofNat 8 s.code) else .cvtFloatSource false k d a t r (Fin.ofNat 8 (s.code - 8)))
      | _, _, _ => none
    else none
  | _, _, _ => none

/-- CMP and FCMP (R54, R106, R131). -/
def compares : Family := fun _ h as =>
  match as with
  | [.pred p, .reg a, .reg b] =>
    let c := cutDot h
    let t := cutDot c.2
    let cond := String.ofList t.1
    if c.1 = "fcmp".toList then
      if !t.2.isEmpty then none
      else match cond with
      | "eq" => some (one (.fcmp false p a b .eq))
      | "ne" => some (one (.fcmp false p a b .ne))
      | "lt" => some (one (.fcmp false p a b .lt))
      | "le" => some (one (.fcmp false p a b .le))
      | "un" => some (one (.fcmp false p a b .un))
      | "num" => some (one (.fcmp false p a b .num))
      | "gt" => some (one (expandFcmp false p a b))
      | "ge" => some (one (expandFcmp true p a b))
      | _ => none
    else if c.1 = "cmp".toList then
      let ty := String.ofList t.2
      let wide := ty = "s64" || ty = "z64" || ty = "b64"
      let signed := ty = "s32" || ty = "s64"
      let typed := signed || ty = "z32" || ty = "z64"
      let make (c : Cond) : Instr := if wide then .cmp64 false p a b c else .cmp32 false p a b c
      if !(typed || ty = "b32" || ty = "b64") then none
      else match cond with
        | "eq" => some (one (make .eq))
        | "ne" => some (one (make .ne))
        | "lt" => if typed then some (one (make (if signed then .ltS else .ltZ))) else none
        | "le" => if typed then some (one (make (if signed then .leS else .leZ))) else none
        | "gt" => if typed then some (one (expandCmp wide signed false p a b)) else none
        | "ge" => if typed then some (one (expandCmp wide signed true p a b)) else none
        | _ => none
    else none
  | _ => none

/-- LEA, SEL, LDI, LDHI, lane forms, predicates and windows (R104, R105, R57, R108 to R116). -/
def lanes : Family := fun x h as =>
  let c := cutDot h
  match String.ofList c.1, as with
  | "lea", [d, .reg a, .reg b, .imm i] =>
    (dest d).map fun (k, d) => answer ((x.imm i 0 7).map fun n => .lea false k d a b (Fin.ofNat 8 n.toNat))
  | "sel", [d, .pred p, .reg a, .reg b] => (dest d).map fun (k, d) => one (.sel false k d a b p)
  | "ldi", [d, .imm i] =>
    (dest d).map fun (k, d) => answer ((x.imm i (-65536) 65535).map fun n => .ldi false k d (BitVec.ofInt 17 n))
  | "ldhi", [d, .imm i] =>
    (dest d).map fun (k, d) => answer ((x.imm i 0 65535).map fun n => .ldhi false k d (BitVec.ofInt 16 n))
  | "shfl", [d, .reg a, .reg b] =>
    (dest d).bind fun (k, d) =>
      ([("idx", Shfl.idx), ("up", .up), ("down", .down), ("xor", .xor)].lookup (String.ofList c.2)).map fun m => one (.shfl false k d a b m)
  | "vote", [.pred d, .pred a] =>
    if c.2 = "any".toList then some (one (.voteAny false d a)) else if c.2 = "all".toList then some (one (.voteAll false d a)) else none
  | "vote", [.pred d, .reg a] => if c.2 = "eq".toList then some (one (.voteEq false d a)) else none
  | "vote", [d, .pred a] => if c.2 = "ballot".toList then (dest d).map fun (k, d) => one (.voteBallot false k d a) else none
  | "wred", [d, .reg a] => (dest d).bind fun (k, d) => (redOf c.2).map fun o => one (.wred false k d a o)
  | "wscan", [d, .reg a] =>
    let l := cutLast c.2
    (dest d).bind fun (k, d) =>
      if l.2 = "ex".toList then (redOf l.1).map fun o => one (.wscan false k d a true o)
      else (redOf c.2).map fun o => one (.wscan false k d a false o)
  | "pmov", [.pred d, .pred a, .pred b] =>
    ([("and", Instr.pmovAnd false d a b), ("or", .pmovOr false d a b), ("xor", .pmovXor false d a b),
      ("andn", .pmovAndn false d a b)].lookup (String.ofList c.2)).map one
  | "pmov", [.pred d, .pred a] => if c.2 = "not".toList then some (one (.pmovNot false d a)) else none
  | "pmov", [.pred d, .reg a] => if c.2.isEmpty then some (one (.pmovR2p false d a)) else none
  | "pmov", [d, .pred a] => if c.2.isEmpty then (dest d).map fun (k, d) => one (.pmovP2r false k d a) else none
  | "winb", [.imm i] => some (answer ((x.imm i 0 7).map fun n => .winb false (Fin.ofNat 8 n.toNat)))
  | "rclaim", [.imm i] => some (answer ((x.imm i 1 7).map fun n => .rclaim false (Fin.ofNat 8 n.toNat)))
  | "rgive", [.imm i] => some (answer ((x.imm i 1 7).map fun n => .rgive false (Fin.ofNat 8 n.toNat)))
  | _, _ => none

/-- The field of a branch; error 114 for an undefined target, 102 for one that is no place of `.text`, 116 where it is too
far. -/
def At.branch (x : At) (e : Expr) : Except Nat (BitVec 20) :=
  match x.target e with
  | none => .error (x.noValue e)
  | some t => match branchField x.here t with | some f => .ok f | none => .error 116

/-- A branch target: an expression, which may be a symbol spelled like a predicate. -/
def targetExpr : Operand → Option Expr
  | .expr e => some e
  | .pred p => some (.sym (String.ofList ('p' :: decimal p.val)))
  | _ => none

/-- Control flow and system forms (R117 to R123, R221, R227 to R233). -/
def control : Family := fun x h as =>
  let c := cutDot h
  let code (i : Expr) (f : BitVec 14 → Instr) : Option Answer := some (answer ((x.uimm i 14).map f))
  let scope := [("thread", WScope.thread), ("group", .group), ("die", .die)].lookup (String.ofList c.2)
  match String.ofList h, as with
  | "bra", [t] => (targetExpr t).map fun e => answer ((x.branch e).map (.bra false))
  | "brp", [.pred p, t] => (targetExpr t).map fun e => answer ((x.branch e).map (.brp false p false))
  | "brp.f", [.pred p, t] => (targetExpr t).map fun e => answer ((x.branch e).map (.brp false p true))
  | "call", [t] => (targetExpr t).map fun e => answer ((x.branch e).map (.call false))
  | "callr", [.reg a] => some (one (.callr false a))
  | "ret", [] => some (one (.ret false))
  | "exit", [] => some (one (.exit false))
  | "nop", [] => some (one (.nop false))
  | "trap", [.imm i] => code i (.trap false)
  | "bkpt", [.imm i] => code i (.bkpt false)
  | "rte", [] => some (one (.rte false))
  | "step", [.reg a] => some (one (.step false a))
  | "mark", [.imm i] => code i (.mark false false)
  | "mark.f", [.imm i] => code i (.mark false true)
  | "pcnt", [d, .imm i] => (dest d).bind fun (k, d) => code i (.pcnt false k d)
  | "srd", [d, s] => (dest d).bind fun (k, d) => (specialOf (bareName s)).map fun n => one (.srd false k d n)
  | "swr", [s, .reg a] => (specialOf (bareName s)).map fun n => one (.swr false a n)
  | _, [.imm i, .reg a, .reg b] =>
    if c.1 = "wset".toList then scope.map fun s => answer ((x.uimm i 5).map fun n => .wset false s n a b) else none
  | _, [.imm i] => if c.1 = "wclr".toList then scope.map fun s => answer ((x.uimm i 5).map fun n => .wclr false s n) else none
  | _, _ => none

/-! ### Memory (R145 to R160) -/

def memory : Family := fun x h as =>
  let c := cutDot h
  let w := String.ofList c.2
  match String.ofList c.1, as with
  | "ld", [d, .pred p, .mem a o ['.', 'g']] =>
    let r := cutDot c.2
    (dest d).bind fun (k, d) => if r.1 ≠ "r".toList then none else
      (loads.lookup (String.ofList r.2)).map fun v => answer ((x.offset o 4 v.bytes).map fun f => .ldR false k d a p f v)
  | "ld", [d, .mem a o ['.', 'g']] =>
    (dest d).bind fun (k, d) => (loads.lookup w).map fun v => answer ((x.offset o 7 v.bytes).map fun f => .ld false k d a f v)
  | "st", [.mem a o ['.', 'g'], .reg d] =>
    ([("b8", StW.b8), ("b16", .b16), ("b32", .b32), ("b64", .b64), ("b128", .b128)].lookup w).map fun v =>
      answer ((x.offset o 7 v.bytes).map fun f => .st false d a f v)
  | "lda", [d, .mem a o sp] =>
    (dest d).bind fun (k, d) => (space sp).bind fun s =>
      ([("z16", BufW.b16), ("b32", .b32), ("b64", .b64), ("b128", .b128)].lookup w).map fun v =>
        answer ((x.offset o 7 v.bytes).map fun f => .lda false k d a f s v)
  | "sta", [.mem a o sp, .reg d] =>
    (space sp).bind fun s => ([("b16", BufW.b16), ("b32", .b32), ("b64", .b64), ("b128", .b128)].lookup w).map fun v =>
      answer ((x.offset o 7 v.bytes).map fun f => .sta false d a f s v)
  | "ldc", [d, .mem a o ['.', 'c']] =>
    (dest d).bind fun (k, d) => ([("b32", LdcW.b32), ("b64", .b64), ("b128", .b128)].lookup w).map fun v =>
      answer ((x.offset o 7 v.bytes).map fun f => .ldc false k d a f v)
  | "pref", [.mem a o ['.', 'g']] =>
    if w = "l1" then some (answer ((x.offset o 7 1).map (.prefL1 false a)))
    else if w = "llc" then some (answer ((x.offset o 7 1).map (.prefLlc false a))) else none
  | "pagereq", [.mem a o ['.', 'g']] => some (answer ((x.offset o 7 1).map (.pagereq false a)))
  | "colour", [.mem a o ['.', 'g'], .reg d] => some (answer ((x.offset o 7 64).map (.colour false d a)))
  | "tagset", [.mem a o ['.', 'g'], .reg d] => some (answer ((x.offset o 7 64).map (.tagset false d a)))
  | "tagget", [d, .mem a o ['.', 'g']] => (dest d).map fun (k, d) => answer ((x.offset o 7 64).map (.tagget false k d a))
  | "fence", [] => (scopeOf c.2).map fun s => one (.fence false s)
  | "acq", [] => (scopeOf c.2).map fun s => one (.acq false s)
  | "rel", [] => (scopeOf c.2).map fun s => one (.rel false s)
  | "cjoin", [d] => (dest d).map fun (k, d) => one (.cjoin false k d)
  | "cleave", [] => some (one (.cleave false))
  | _, _ => none
where
  loads : List (String × LdW) :=
    [("s8", .s8), ("z8", .z8), ("s16", .s16), ("z16", .z16), ("b32", .b32), ("b64", .b64), ("b128", .b128)]
  space (l : List Char) : Option Bool := if l = ".a".toList then some false else if l = ".pa".toList then some true else none

/-! ### Synchronisation (R175 to R190) -/

def sync : Family := fun x h as =>
  let c := cutDot h
  let l := cutLast c.2
  let word (a : Reg) (o : Expr) (f : Reg → BitVec 7 → Instr) (w : Nat) : Option Answer :=
    some (answer ((x.offset o 7 w).map (f a)))
  match String.ofList c.1, as with
  | "atom", [d, .mem a o ['.', 'g']] =>
    (dest d).bind fun (k, d) => (scopeOf l.2).bind fun s => match redOf l.1, atomOf l.1 with
      | some v, _ => some (answer ((x.offset o 4 4).map fun f => .atomInt false k d a s f v))
      | _, some v => some (answer ((x.offset o 4 v.bytes).map fun f => .atomExt false k d a s f v))
      | _, _ => none
  | "red", [.mem a o ['.', 'g'], .reg d] =>
    (scopeOf l.2).bind fun s => match redOf l.1, redXOf l.1 with
      | some v, _ => some (answer ((x.offset o 4 4).map fun f => .redInt false d a s f v))
      | _, some v => some (answer ((x.offset o 4 (if v = .add64 then 8 else 4)).map fun f => .redExt false d a s f v))
      | _, _ => none
  | "semsig", [.mem a o ['.', 'g'], .reg d] => (scopeOf c.2).map fun s => answer ((x.offset o 4 4).map (.semsig false d a s))
  | "semwait", [.mem a o ['.', 'g'], .reg d] => (scopeOf c.2).map fun s => answer ((x.offset o 4 4).map (.semwait false d a s))
  | "semtake", [.mem a o ['.', 'g'], .reg d] => (scopeOf c.2).map fun s => answer ((x.offset o 4 4).map (.semtake false d a s))
  | "spawn", [.pred p, .reg t, .reg j, .reg v, .imm i] =>
    match v with
    | .v n => if n.val % 4 = 0 then
        some (answer ((x.imm i 1 4).map fun m => .spawn false (BitVec.ofNat 5 (n.val / 4)) (Fin.ofNat 4 (m.toNat - 1)) j t p)) else none
    | _ => none
  | "joinw", [.mem a o ['.', 'g'], .reg d] => word a o (.joinw false d) 4
  | "cwait", [.mem a o ['.', 'g'], .reg d] => word a o (.cwait false d) 4
  | "csig", [.mem a o ['.', 'g'], .reg d] => word a o (.csig false d) 4
  | "enqt", [.mem a o ['.', 'g'], .reg d] => word a o (.enqt false d) 64
  | "bar", [] => some (one (.bar false))
  | _, _ => none

/-! ### Matrix and engine forms (R193 to R214) -/

def matrix : Family := fun x h as =>
  let c := cutDot h
  let gang (f : Fin 4 → Fin 16 → Instr) (s : Reg) (i : Expr) : Option Answer := match s with
    | .v n => if n.val < 16 then some (answer ((x.imm i 0 3).map fun b => f (Fin.ofNat 4 b.toNat) (Fin.ofNat 16 n.val))) else none
    | _ => none
  match String.ofList c.1, as with
  | "mma", [.tile tc, .tile ta, .tile tb, .reg s, .imm i] => gang (.mma false ta tb tc) s i
  | "mmas", [.tile tc, .tile ta, .tile tb, .reg s, .imm i] => gang (.mmas false ta tb tc) s i
  | "cinit", [.tile t] => some (one (.cinit false t))
  | "cdrain", [.tile a, .tile t] => (if c.2.isEmpty then some .rne else rndOf c.2).map fun r => one (.cdrain false a t r)
  | "tdef", [.tile t, .reg q] => some (one (.tdef false t q))
  | "tset", [.tile t, s] =>
    ([("empty", TileState.empty), ("filling", .filling), ("ready", .ready), ("draining", .draining)].lookup (String.ofList (bareName s))).map fun v =>
      one (.tset false t v)
  | "ckmode", [m] =>
    ([("correct", (0 : BitVec 3)), ("detect", 1), ("inject", 2)].lookup (String.ofList (bareName m))).map fun v => one (.ckmode false v)
  | "qbind", [.reg (.q q), k, .imm i] =>
    if bareName k = "copy".toList then some (answer ((x.imm i 0 3).map fun n => .qbind false q 0 (BitVec.ofInt 3 n))) else none
  | "qbind", [.reg (.q q), k] =>
    ([("gather", (1 : BitVec 3)), ("coll", 2), ("drain", 3)].lookup (String.ofList (bareName k))).map fun v => one (.qbind false q v 0)
  | "qstat", [d, .reg (.q q)] => (dest d).map fun (k, d) => one (.qstat false k q d)
  | _, _ => none

/-! ### A line -/

/-- The names at the head of a form, up to the first dot: what is not among them is error 101. -/
def heads : List String := ["add", "sub", "mul", "mulh", "min", "max", "div", "rem", "abs", "neg", "popc", "and", "or", "xor",
  "andn", "shl", "shr", "shra", "rot", "clz", "brev", "bfx", "bfi", "mad", "mov", "lea", "sel", "cmp", "ldi", "ldhi", "la",
  "fadd", "fsub", "fmul", "ffma", "fmin", "fmax", "frcp", "frsq", "fsqrt", "fexp2", "flog2", "fsinpi", "fcospi", "fclass",
  "hadd2", "hmul2", "hfma2", "dot4", "fcmp", "cvt", "frnd", "shfl", "vote", "wred", "wscan", "pmov", "winb", "rclaim", "rgive",
  "bra", "brp", "call", "callr", "ret", "exit", "nop", "ld", "st", "lda", "sta", "ldc", "pref", "pagereq", "colour", "tagset",
  "tagget", "fence", "acq", "rel", "cjoin", "cleave", "atom", "red", "semsig", "semwait", "semtake", "spawn", "joinw", "bar",
  "cwait", "csig", "enqt", "mma", "mmas", "cinit", "cdrain", "tdef", "tset", "ckmode", "qbind", "qstat", "srd", "swr", "trap",
  "rte", "bkpt", "step", "mark", "pcnt", "wset", "wclr"]

/-- The heads that take no suffix. -/
def plainHeads : List String := ["popc", "clz", "brev", "bfi", "mov", "lea", "sel", "ldi", "ldhi", "la", "frcp", "frsq", "fsqrt",
  "fexp2", "flog2", "fsinpi", "fcospi", "fclass", "fmin", "fmax", "hadd2", "hmul2", "hfma2", "winb", "rclaim", "rgive", "bra",
  "call", "callr", "ret", "exit", "nop", "pagereq", "colour", "tagset", "tagget", "cjoin", "cleave", "spawn", "joinw", "bar",
  "cwait", "csig", "enqt", "mma", "mmas", "cinit", "tdef", "tset", "ckmode", "qbind", "qstat", "srd", "swr", "trap", "rte", "bkpt",
  "step", "pcnt"]

/-- Does a name begin with a head of the forms? -/
def isHead (h : List Char) : Bool := heads.contains (String.ofList (cutDot h).1)

/-- A suffix where none belongs, or a dot without one. -/
def badSuffix (h : List Char) : Bool :=
  h.getLast? = some '.' || (h.contains '.' && plainHeads.contains (String.ofList (cutDot h).1))

/-- The name under which a form is encoded: ADD, SUB, MUL, MAD and NEG take .z32, .b32, .z64 and .b64, and are encoded as the
signed form (R53). -/
def signedName (h : List Char) : List Char :=
  let c := cutDot h
  if ["add", "sub", "mul", "mad", "neg"].contains (String.ofList c.1) then
    match String.ofList c.2 with
    | "z32" | "b32" => c.1 ++ ".s32".toList
    | "z64" | "b64" => c.1 ++ ".s64".toList
    | _ => h
  else h

/-- `mov d, #n` (R239): error 102 for a relocatable n; n may be any 32-bit value, signed or not. -/
def movImm (x : At) (d : Operand) (e : Expr) : Answer :=
  match dest d, x.int e with
  | none, _ => .error 102
  | some _, .error n => .error n
  | some (k, r), .ok n =>
    if n < -(2 ^ 31 : Nat) || (2 ^ 32 : Nat) ≤ n then .error 103
    else .ok ((expandMov k r (BitVec.ofInt 64 n) (x.known e)).map fun i => ⟨i, none, none⟩)

/-- `la v, expr` (R239). -/
def laForm (x : At) (d : Reg) (e : Expr) : Answer :=
  match expandLa d, x.value e with
  | none, _ => .error 105
  | some l, some (.rel s a) => .ok ((l.mapIdx fun k w => ⟨w.1, some (w.2, s, a), if k = 0 then some (s, a.toInt) else none⟩))
  | some l, some (.abs n) =>
    .ok (l.mapIdx fun k w => ⟨match w.1 with
      | .ldi e k2 r _ => .ldi e k2 r ((n >>> (16 * k)).setWidth 16 |>.setWidth 17)
      | .ldhi e k2 r _ => .ldhi e k2 r ((n >>> (16 * k)).setWidth 16)
      | i => i, none, none⟩)
  | some _, none => .error (x.noValue e)

/-- What a name and operands stand for; none where no form has them. -/
def answerOf (x : At) (h : List Char) (as : List Operand) : Option Answer :=
  if badSuffix h then none
  else match String.ofList h, as with
  | "mov", [d, .imm e] => some (movImm x d e)
  | "la", [.reg r, .expr e] => some (laForm x r e)
  | "la", [.reg r, .imm e] => some (laForm x r e)
  | _, _ => [arithmetic, floats, compares, lanes, control, memory, sync, matrix].findSome? fun f => f x (signedName h) as

/-- Operands of every kind, to stand in the place of a `_`. -/
def anyOperand : List Operand :=
  [.reg (Reg.ofCode 0), .reg (Reg.ofCode 112), .pred 0, .tile 0, .imm (.num 0), .expr (.sym "lane"), .expr (.sym "empty"),
    .expr (.sym "correct"), .expr (.sym "copy"), .expr (.sym "gather"), .mem (Reg.ofCode 0) (.num 0) ".g".toList,
    .mem (Reg.ofCode 0) (.num 0) ".a".toList, .mem (Reg.ofCode 0) (.num 0) ".c".toList]

/-- The operands with one of some others in the place of each `_`. -/
def filled : List Operand → List (List Operand)
  | [] => [[]]
  | a :: l => (if a = .none then anyOperand else [a]).flatMap fun b => (filled l).map (b :: ·)

/-- Would the operands be a form's with other operands in the place of each `_`? -/
def fitsWithout (x : At) (h : List Char) (as : List Operand) : Bool :=
  as.contains .none && (filled as).any fun l => (answerOf x h l).isSome

/-- Is operand k the predicate that a form writes? The form is sought with one predicate there, and with another. -/
def writesPred (x : At) (h : List Char) (as : List Operand) (k : Nat) : Bool :=
  [(0 : Pred), 1].all fun p => match answerOf x h (as.set k (.pred p)) with
    | some (.ok l) => l.any fun w => match w.instr.shape with | some s => s.predsW.contains p | none => false
    | _ => false

/-- Does a latch stand where a form writes a predicate (R250)? -/
def latchForPred (x : At) (h : List Char) (as : List Operand) : Bool :=
  (List.range as.length).any fun k => match as[k]? with
    | some (.reg (.b _)) => writesPred x h as k
    | _ => false

/-- The instructions of a line with a mnemonic: error 101 for an unknown name, 106 for a `_` where K = 1 is illegal (R238) and
for a latch in a predicate destination (R250), 102 for other operands that are not the form's. -/
def form (x : At) (h : List Char) (args : List (List Tok)) : Answer :=
  if !isHead h then .error 101
  else match args.mapM operand with
  | none => wrong
  | some as => (answerOf x h as).getD (if fitsWithout x h as || latchForPred x h as then .error 106 else wrong)

/-- Is a name a mnemonic, with the suffixes of a form (R247)? A form is sought for it among operands of every shape. -/
def isMnemonic (h : List Char) : Bool :=
  let zero : Expr := .num 0
  let r : Operand := .reg (Reg.ofCode 0)
  let q : Operand := .reg (Reg.ofCode 112)
  let p : Operand := .pred 0
  let t : Operand := .tile 0
  let m (s : String) : Operand := .mem (Reg.ofCode 0) zero s.toList
  let name (s : String) : Operand := .expr (.sym s)
  let shapes : List (List Operand) := [[], [r], [t], [.imm zero], [name "x"], [name "correct"], [r, r], [r, .imm zero], [r, p], [p, r],
    [p, p], [p, name "x"], [r, name "x"], [r, name "lane"], [name "lane", r], [r, q], [t, q], [t, name "empty"], [t, t], [q, name "gather"],
    [r, r, r], [p, r, r], [p, p, p], [r, r, .imm zero], [.imm zero, r, r], [q, name "copy", .imm zero], [m ".g"], [m ".g", r], [r, m ".g"],
    [r, m ".a"], [m ".a", r], [r, m ".c"], [r, p, m ".g"], [r, r, r, .imm zero], [r, p, r, r], [p, r, r, r, .imm zero],
    [t, t, t, r, .imm zero]]
  let x : At := ⟨fun _ => some (.abs 0), fun _ => some 0, fun _ => true, fun _ => true, 0⟩
  isHead h && (!h.contains '.' || shapes.any fun as => (answerOf x h as).isSome)

end Sys2Proof.Machine.Vlas
end

