-- ==== Sys2Proof/Machine/Vlas.lean ====
section
/-! DEFINITION. vlas as a whole (R235 to R254): files in, an image and its diagnostics out. The lines are read again and again,
each time with the symbols of the time before, until a reading finds the symbols it was given. -/
namespace Sys2Proof.Machine.Vlas

/-- What an invocation has assembled. -/
structure Pass where
  sec : Section := .text
  text : List TextWord := []
  textSymbols : List Symbol := []
  textRelocs : List Reloc := []
  data : List (Place × DataLine) := []
  rodata : List (Place × DataLine) := []
  launches : List (String × LaunchLines) := []
  launchLabels : List Symbol := []
  /-- a record is open -/
  open_ : Bool := false
  equs : List (String × Val) := []
  /-- names defined so far, with their file -/
  defs : List (Nat × String) := []
  /-- what stands before the next word of `.text` -/
  label : Bool := false
  run : Bool := false
  regs : Option (Nat × Nat) := none
  semuse : Option (String × Int × Int) := none
  /-- the line of that `.semuse` -/
  semuseAt : Place := []
  /-- the line being read -/
  place : Place := []
  source : List Char := []
  diags : List Diag := []
deriving DecidableEq, Repr, Inhabited

/-- The symbols that the time before found: names of `.text` and of data, and `.equ` names. -/
structure Names where
  symbols : List Symbol := []
  equs : List (String × Val) := []
deriving DecidableEq, Repr, Inhabited

/-- A name in its scope: one that begins with `.` is local to its file (R241). -/
def inScope (file : Nat) (n : String) : String := if n.startsWith "." then String.ofList (decimal file) ++ ":" ++ n else n

/-- An expression with its names in their scopes. -/
def Expr.scope (file : Nat) : Expr → Expr
  | .num n => .num n
  | .sym s => .sym (inScope file s)
  | .neg a => .neg (a.scope file)
  | .not a => .not (a.scope file)
  | .bin o a b => .bin o (a.scope file) (b.scope file)

/-- The symbols of an expression. -/
def Expr.names : Expr → List String
  | .num _ => []
  | .sym s => [s]
  | .neg a | .not a => a.names
  | .bin _ a b => a.names ++ b.names

/-- Is a name defined by a line of the invocation, or by `-D`? -/
def Pass.isDefined (p : Pass) (n : Names) (s : String) : Bool :=
  (p.defs.any fun d => d.2 = s) || (n.symbols.any fun y => y.name = s) || n.equs.any fun x => x.1 = s

/-- The difference of two symbols of one section (R242). -/
def Names.difference (n : Names) (s t : String) : Option (BitVec 64) :=
  match n.symbols.find? (fun y => y.name = s), n.symbols.find? (fun y => y.name = t) with
  | some a, some b => if a.sec = b.sec then some (BitVec.ofInt 64 (a.offset - b.offset)) else none
  | _, _ => none

/-- The value of an expression of a file, with the `.equ` names of this reading before those of the last. -/
def valueOf (n : Names) (p : Pass) (file : Nat) (e : Expr) : Option Val :=
  (e.scope file).eval (p.equs ++ n.equs ++ n.symbols.map fun y => (y.name, Val.rel y.name 0)) n.difference

/-- The offset in `.text` that an expression names. -/
def targetOf (n : Names) (p : Pass) (file : Nat) (e : Expr) : Option Int :=
  match valueOf n p file e with
  | some (.rel s a) => (n.symbols.find? fun y => y.name = s && y.sec = .text).map fun y => y.offset + a.toInt
  | _ => none

/-- Is every name of an expression defined anywhere (R241)? -/
def definedIn (n : Names) (p : Pass) (file : Nat) (e : Expr) : Bool :=
  (e.scope file).names.all fun s => p.isDefined n s

/-- Is every name of an expression defined by now? -/
def knownBy (p : Pass) (file : Nat) (e : Expr) : Bool := (e.scope file).names.all fun s => p.defs.any fun d => d.2 = s

def Pass.say (p : Pass) (n : Nat) : Pass := { p with diags := p.diags ++ [diag n p.place] }

/-- A name defined; error 115 where it is already (R241). -/
def Pass.define (p : Pass) (file : Nat) (name : String) : Pass :=
  let q := { p with defs := p.defs ++ [(file, name)] }
  if p.defs.any fun d => d.2 = name then q.say 115 else q

/-- A line of a data section. -/
def Pass.dataLine (p : Pass) (d : DataLine) : Pass :=
  match p.sec with
  | .data => { p with data := p.data ++ [(p.place, d)] }
  | .rodata => { p with rodata := p.rodata ++ [(p.place, d)] }
  | .text | .launch | .balance => p.say 119

/-- A section switched to; a data section that is switched back to returns to colour 0 and key 0 (R245). -/
def Pass.switch (p : Pass) (s : Section) : Pass :=
  let q := { p with sec := s, open_ := false }
  if (s = .data || s = .rodata) && p.sec ≠ s then q.dataLine .switch else q

/-- Words put into `.text`. -/
def Pass.words (p : Pass) (ws : List Placed) (bang : Bool) : Pass :=
  ws.foldl (fun q w =>
    let last := q.text.length + 1 = p.text.length + ws.length
    let t : TextWord := { instr := w.instr, place := p.place, source := p.source, bang := bang && last, label := q.label
                          named := false, run := q.run, regs := q.regs, entry := [], semuse := q.semuse, la := w.la }
    { q with
      text := q.text ++ [t]
      textRelocs := match w.reloc with
        | some (k, s, a) => q.textRelocs ++ [⟨k, .text, 4 * q.text.length, s, a⟩]
        | none => q.textRelocs
      label := false, run := false, regs := none, semuse := none }) p

/-- A field of the open launch record; error 119 where none is open. -/
def Pass.field (p : Pass) (f : LaunchLines → LaunchLines) : Pass :=
  if !p.open_ then p.say 119
  else match p.launches.reverse with
    | (n, r) :: l => { p with launches := (l.reverse) ++ [(n, f r)] }
    | [] => p.say 119

/-- A name standing alone. -/
def aloneName (ts : List Tok) : Option String :=
  match ts with
  | [.word s] => if symbolName s then some (String.ofList s) else none
  | _ => none

/-- The waves of a `.role` list. -/
def roleWaves (ts : List Tok) : Option (List Nat) :=
  match ts with
  | [.num n] => some [n.toNat]
  | [.num a, .sym '-', .num b] => some ((List.range (b.toNat + 1 - a.toNat)).map (a.toNat + ·))
  | _ => none

/-- Error 113 for a `.semuse` that waits and that no word follows: another `.semuse` or the end of `.text` comes first (DESIGN
CHOICE, log 40: R254 has it immediately precede a semaphore instruction, and gives 113 to a bad one). -/
def Pass.looseSemuse (p : Pass) : List Diag := if p.semuse.isSome then [diag 113 p.semuseAt] else []

/-- A directive (R236, R240, R244 to R246, R249, R252, R254). -/
def directive (n : Names) (file : Nat) (h : String) (args : List (List Tok)) (p : Pass) : Pass :=
  let value (ts : List Tok) : Except Nat Val := match wholeExpr ts with
    | none => .error 102
    | some e => match valueOf n p file e with
      | some v => .ok v
      | none => .error (if definedIn n p file e then 102 else 114)
  let int (ts : List Tok) : Except Nat Int := match value ts with
    | .ok (.abs x) => .ok x.toInt
    | .ok (.rel ..) => .error 102
    | .error x => .error x
  let nat (ts : List Tok) : Except Nat Nat := (int ts).bind fun x => if 0 ≤ x then .ok x.toNat else .error 117
  let use (r : Except Nat Pass) : Pass := match r with | .ok q => q | .error x => p.say x
  let named (ts : List Tok) : Except Nat String := match aloneName ts with | some s => .ok (inScope file s) | none => .error 102
  let number (f : Nat → LaunchLines → LaunchLines) : Pass := match args with
    | [a] => use ((nat a).map fun x => p.field (f x))
    | _ => p.say 102
  if p.sec = .balance && !(h = ".text" || h = ".data" || h = ".rodata" || h = ".launch") then p.say 119
  else match h, args with
  | ".text", [] => p.switch .text
  | ".data", [] => p.switch .data
  | ".rodata", [] => p.switch .rodata
  | ".balance", [] => p.switch .balance
  | ".launch", [] => p.switch .launch
  | ".launch", [a] =>
    use ((named a).map fun s =>
      let q := (p.switch .launch).define file s
      { q with launches := q.launches ++ [(s, { place := p.place })], open_ := true })
  | ".equ", [a, b] =>
    use ((named a).map fun s =>
      let q := p.define file s
      match int b with
      | .ok v => { q with equs := q.equs ++ [(s, .abs (BitVec.ofInt 64 v))] }
      | .error x => q.say x)
  | ".word", _ :: _ => args.foldl (fun q a => match value a with | .ok v => q.dataLine (.word v) | .error x => (q.dataLine (.word (.abs 0))).say x) p
  | ".dword", _ :: _ => args.foldl (fun q a => match value a with | .ok v => q.dataLine (.dword v) | .error x => (q.dataLine (.dword (.abs 0))).say x) p
  | ".space", [a] => use ((nat a).map fun x => p.dataLine (.space x))
  | ".align", [a] =>
    use ((nat a).map fun x =>
      if p.sec = .text then
        if 4 ≤ x && x ≤ 4096 && 2 ^ x.log2 = x then
          p.words (List.replicate ((x - 4 * p.text.length % x) % x / 4) ⟨.nop false, none, none⟩) false
        else p.say 117
      else p.dataLine (.align x))
  | ".colour", [a] => use ((nat a).map fun x => p.dataLine (.colour x))
  | ".key", [a] => use ((nat a).map fun x => p.dataLine (.key x))
  | ".sem", [a, i, f, e] =>
    use ((named a).bind fun s => (int i).bind fun i => (int f).bind fun f => (int e).map fun e =>
      (p.define file s).dataLine (.sem s i f e))
  | ".semuse", [a, i, d] =>
    use ((named a).bind fun s => (int i).bind fun i => (int d).map fun d =>
      { p with diags := p.diags ++ p.looseSemuse, semuse := some (s, i, d), semuseAt := p.place })
  | ".run", [] => if p.sec = .text then { p with run := true } else p.say 119
  | ".regs", [a, b] => use ((nat a).bind fun x => (nat b).map fun y => { p with regs := some (x, y) })
  | ".entry", [a] => use ((named a).map fun s => p.field fun r => { r with entry := some s })
  | ".wid", _ :: _ => use ((args.mapM nat).map fun l => p.field fun r => { r with wid := l })
  | ".extent", _ :: _ => use ((args.mapM nat).map fun l => p.field fun r => { r with extents := l })
  | ".group", _ => number fun x r => { r with group := x }
  | ".role", _ :: _ :: _ =>
    match args.dropLast.mapM roleWaves, args.getLast? with
    | some l, some a => use ((nat a).map fun x => p.field fun r => { r with roles := r.roles ++ [(l.flatten, x)] })
    | _, _ => p.say 102
  | ".blocks", _ => number fun x r => { r with blocks := if x = 0 then 9 else x }  -- 0 is out of its limits
  | ".abuf", _ => number fun x r => { r with abuf := x }
  | ".cbuf", _ => number fun x r => { r with cbuf := x }
  | ".wbuf", _ => number fun x r => { r with wbuf := x }
  | ".pool", [a, b] => use ((named a).bind fun s => (nat b).map fun x => p.field fun r => { r with pool := some (s, x) })
  | ".handler", [a] => use ((named a).map fun s => p.field fun r => { r with handler := some s })
  | ".snapshot", [] => p.field fun r => { r with snapshot := true }
  | ".sems", _ :: _ => use ((args.mapM named).map fun l => p.field fun r => { r with sems := r.sems ++ l })
  | ".levels", _ => number fun x r => { r with levels := x }
  | ".contexts", _ => number fun x r => { r with contexts := some x }
  | ".spawnctx", _ => number fun x r => { r with spawnctx := x }
  | ".endm", _ => p.say 120
  | _, _ => p.say (if directives.contains h then 102 else 101)
where
  /-- The directives, for what is unknown and what is badly used. -/
  directives : List String := [".text", ".data", ".rodata", ".launch", ".balance", ".equ", ".word", ".dword", ".space", ".align",
    ".colour", ".key", ".sem", ".semuse", ".run", ".regs", ".entry", ".wid", ".extent", ".group", ".role", ".blocks", ".abuf",
    ".cbuf", ".wbuf", ".pool", ".handler", ".snapshot", ".sems", ".levels", ".contexts", ".spawnctx"]

/-- A label: in `.text` the next word's address, elsewhere that of the next value, which in `.launch` is the next record (R241). -/
def Pass.labelled (p : Pass) (file : Nat) (l : List Char) : Pass :=
  let s := inScope file (String.ofList l)
  let q := if symbolName l then p.define file s else p.say 102
  match p.sec with
  | .text => { q with textSymbols := q.textSymbols ++ [⟨s, .text, 4 * q.text.length, 0⟩], label := true }
  | .data | .rodata => q.dataLine (.label s)
  | .launch => { q with launchLabels := q.launchLabels ++ [⟨s, .launch, 128 * q.launches.length, 0⟩] }
  | .balance => q.say 119

/-- A source line. `!` ends the run of the words of its line (R248); on a line without an instruction R237 gives it no meaning, and
it is error 102 (DESIGN CHOICE, log 40). -/
def Pass.line (n : Names) (p1 : Pass) (l : Line) : Pass :=
  let x := parseLine l.file l.text
  let p0 : Pass := { p1 with place := l.place, source := l.text }
  let p := match x.label with | some s => p0.labelled l.file s | none => p0
  match x.head with
  | none => if x.bang then p.say 102 else p
  | some h =>
    if h.head? = some '.' then if x.bang then p.say 102 else directive n l.file (String.ofList h) x.args p
    else if p.sec ≠ .text then p.say 119
    else
      let at_ : At := ⟨valueOf n p l.file, targetOf n p l.file, knownBy p l.file, definedIn n p l.file, 4 * p.text.length⟩
      match form at_ h x.args with
      | .ok ws => p.words ws x.bang
      | .error e => (p.words [⟨.nop false, none, none⟩] x.bang).say e

/-- One reading of all the lines; the symbols of `-D` come first, and one defined twice is error 115. -/
def pass (defines : List (String × BitVec 64)) (ls : List Line) (n : Names) : Pass :=
  ls.foldl (Pass.line n)
    (defines.foldl (fun p d => let q := p.define 0 d.1; { q with equs := q.equs ++ [(d.1, .abs d.2)] }) ({} : Pass))

/-- The records of `.launch`, and where each balance table stands in `.balance`. -/
def launchSymbols (p : Pass) : List Symbol :=
  (List.range p.launches.length).map fun k => ⟨(p.launches.getD k ("", {})).1, .launch, 128 * k, 0⟩

/-- The bytes of a balance table. -/
def tableBytes (r : LaunchLines) : Nat := if r.sems = [] then 0 else 64 * ((64 + 32 * r.sems.length + 63) / 64)

/-- Where the balance table of record k stands. -/
def tableOffset (p : Pass) (k : Nat) : Nat := (((p.launches.take k).map fun x => tableBytes x.2)).sum

/-- The name under which a record's balance table is linked. -/
def tableName (launch : String) : String := launch ++ ":balance"

/-- All the symbols of a reading. -/
def Pass.names (p : Pass) : Names :=
  { symbols := p.textSymbols ++ (assembleData .data p.data).symbols
      ++ (assembleData .rodata p.rodata).symbols ++ launchSymbols p ++ p.launchLabels
    equs := p.equs }

/-- Readings until one finds the symbols it was given, so that every difference is that of the words placed (R242); the first
argument bounds them. The answer is the reading, the symbols it was given, and whether they are those it found. -/
def settled (defines : List (String × BitVec 64)) (ls : List Line) : Nat → Names → Pass × Names × Bool
  | 0, n => (pass defines ls n, n, false)
  | fuel + 1, n =>
    let p := pass defines ls n
    if p.names = n then (p, n, true) else settled defines ls fuel p.names

/-- The word index that a branch or a call names. -/
def branchTarget (k : Nat) (i : Instr) : Option Int :=
  match i with
  | .bra _ o | .call _ o => some (k + o.toInt)
  | .brp _ _ _ o => some (k + o.toInt)
  | _ => none

/-- The text with the labels that branches name, and the entries of launches with their blocks. -/
def Pass.marked (p : Pass) (n : Names) : List TextWord :=
  let ts := (List.range p.text.length).filterMap fun k => p.text[k]?.bind fun t => branchTarget k t.instr
  let es := p.launches.filterMap fun x => x.2.entry.bind fun s =>
    (n.symbols.find? fun y => y.name = s && y.sec = .text).map fun y => (y.offset / 4, x.2.blocks)
  p.text.mapIdx fun k t => { t with named := t.label && ts.contains (k : Int)
                                    entry := es.filterMap fun e => if e.1 = k then some e.2 else none }

/-- The image of a reading (R243). -/
def Pass.image (p : Pass) (o : Options) (ts : List TextWord) : Image :=
  let d := assembleData .data p.data
  let r := assembleData .rodata p.rodata
  let tables := (List.range p.launches.length).filterMap fun k =>
    match p.launches[k]? with
    | some x => if x.2.sems = [] then none else some (k, x.1, x.2)
    | none => none
  let bytes (k : Nat) (b : List Byte) : List Byte := b ++ List.replicate (k - b.length) 0
  { contents := [
      (.text, (textWords o [] ts).flatMap fun w => leBytes (w.word.getD 0).toNat 4),
      (.data, d.bytes), (.rodata, r.bytes),
      (.launch, p.launches.flatMap fun x => leBytes (x.2.record p.equs) 128),
      (.balance, tables.flatMap fun x => bytes (tableBytes x.2.2) (balanceTable (d.sems ++ r.sems) ts x.2.2.sems))]
    symbols := p.names.symbols ++ tables.map fun x => ⟨tableName x.2.1, .balance, tableOffset p x.1, 0⟩
    relocs := p.textRelocs ++ d.relocs ++ r.relocs
      ++ ((List.range p.launches.length).flatMap fun k => match p.launches[k]? with
        | some x => (x.2.relocs (128 * k) (tableName x.1)).filter fun r => (p.equs.lookup r.sym).isNone
        | none => [])
      ++ tables.flatMap fun x => balanceRelocs (tableOffset p x.1) x.2.2.sems
    runs := d.runs ++ r.runs }

/-- What the assembly of some files gives: its exit status, its diagnostics, the listing, and the image where no error is
reported. -/
structure Result where
  status : Nat
  diags : List Diag
  listing : List Listed
  image : Option Image
deriving DecidableEq, Repr, Inhabited

/-- Some of the files present assembled together (R235, R236). Symbols that no reading settles, a shape of text for which R242
has no answer, are error 117 of the last line (log 40). A file named on the command line that is not present is error 121 at its
line 0, with status 1 (DESIGN CHOICE, log 40: R235 gives no outcome, and the command line itself is not wrong). -/
def assemble (o : Options) (fs : FileSet) (files : List (List Char)) : Result :=
  let fuel := 40 * (fs.map fun f => f.2.length).sum + 1000
  let r := files.foldl (fun (r : Reader) n => match fs.find? fun f => f.1 = n with
    | some f => readLines fs (o.dirs.map String.toList) isMnemonic fuel 0 0 n (placedLines f) r
    | none => { r with diags := r.diags ++ [diag 121 [(String.ofList n, 0)]] }) ({} : Reader)
  let (p, n, stable) := settled o.defines r.lines (r.lines.length + 8) {}
  let ts := p.marked n
  let d := assembleData .data p.data
  let rd := assembleData .rodata p.rodata
  let sems := d.sems ++ rd.sems
  let both : DataOut := { d with symbols := n.symbols, runs := d.runs ++ rd.runs, sems := sems }
  let ds := r.diags ++ p.diags ++ p.looseSemuse ++ d.diags ++ rd.diags ++ (if stable then [] else [diag 117 p.place]) ++ textDiags o both ts
    ++ (p.launches.flatMap fun x => x.2.errors (p.isDefined n) sems ++ missing n p x.2) ++ uncheckedSems sems (p.launches.map Prod.snd)
  let status := exitStatus o ds
  let relocs := p.textRelocs
  ⟨status, reported o ds, textWords o relocs ts, if status = 0 then some (p.image o ts) else none⟩
where
  /-- Symbols of a record that are defined nowhere (114), and an entry that is not in `.text` (117). -/
  missing (n : Names) (p : Pass) (r : LaunchLines) : List Diag :=
    let gone (s : Option String) : Bool := match s with
      | some x => !p.isDefined n x
      | none => false
    (if gone r.entry || gone r.handler || gone (r.pool.map Prod.fst) then [diag 114 r.place] else [])
      ++ (match r.entry with
        | some x => if (p.equs.lookup x).isSome || n.symbols.any (fun y => y.name = x && y.sec ≠ .text) then [diag 117 r.place] else []
        | none => [])

/-! ### The command line (R235, R236) -/

/-- `name=value` of `-D`: a symbol's name, and an expression without symbols. -/
def defineOf (l : List Char) : Option (String × BitVec 64) :=
  let name := l.takeWhile (· ≠ '=')
  match lex name, l.dropWhile (· ≠ '='), (wholeExpr (lex ((l.dropWhile (· ≠ '=')).drop 1))).bind (Expr.eval [] fun _ _ => none) with
  | [.word w], '=' :: _, some (.abs v) => if w = name && symbolName w then some (String.ofList w, v) else none
  | _, _, _ => none

/-- One option, with the arguments after it: the options it makes, and the arguments that remain. -/
def option (o : Options) (a : String) (l : List (List Char)) : Option (Options × List (List Char)) :=
  match a, l with
  | "--no-auto-end", _ => some ({ o with noAutoEnd := true }, l)
  | "--banks", _ => some ({ o with banks := true }, l)
  | "--werror", _ => some ({ o with werror := true }, l)
  | "-o", x :: r => some ({ o with output := String.ofList x }, r)
  | "-l", x :: r => some ({ o with listing := some (String.ofList x) }, r)
  | "-I", x :: r => some ({ o with dirs := o.dirs ++ [String.ofList x] }, r)
  | "-D", x :: r => (defineOf x).map fun d => ({ o with defines := o.defines ++ [d] }, r)
  | "-W", x :: r =>
    if x.isEmpty then none else (numberIn 10 0 x).map fun n => ({ o with suppressed := o.suppressed ++ [n] }, r)
  | _, _ => none

/-- The options and the files of a command line, options first; none where it is wrong: an unknown option, an argument that is
missing or is not of its kind, no file, or an option after a file (log 40). The first argument is the number of words. -/
def commandLine : Nat → Options → List (List Char) → Option (Options × List (List Char))
  | 0, _, _ | _, _, [] => none
  | fuel + 1, o, a :: l =>
    if a.head? = some '-' then (option o (String.ofList a) l).bind fun x => commandLine fuel x.1 x.2
    else if l.any fun x => x.head? = some '-' then none
    else some (o, a :: l)

/-- What an invocation of vlas leaves: its exit status, the lines of its diagnostics, and the files it writes. -/
structure Outcome where
  status : Nat
  diags : List String
  /-- the image file's name and bytes; none unless the status is 0 -/
  image : Option (String × List Byte)
  /-- the listing file's name and entries -/
  listing : Option (String × List Listed)
deriving DecidableEq, Repr, Inhabited

/-- An invocation `vlas [options] file ...` where some files are present (R235, R236, R256). -/
def run (fs : FileSet) (args : List (List Char)) : Outcome :=
  match commandLine args.length {} args with
  | none => ⟨2, [], none, none⟩
  | some (o, files) =>
    let r := assemble o fs files
    ⟨r.status, r.diags.map (Diag.text o), r.image.map fun m => (o.output, m.file), o.listing.map fun f => (f, r.listing)⟩

end Sys2Proof.Machine.Vlas
end

