-- ==== Sys2Proof/Machine/Loader.lean ====
section
/-! DEFINITION. What the loader has done before a launch of an image starts (R240, R242, R243): its sections placed in pages that
the driver mapped for them, its relocations applied, its metadata runs written into the granules' metadata words. -/
namespace Sys2Proof.Machine.Vlas

/-- A section's address and where it stops. -/
def sectionEnd (base : Section → BitVec 64) (m : Image) (x : Section) : Nat := (base x).toNat + (m.bytes x).length

/-- May the loader place a section at its base (R240)? Aligned, in the lowest 2^48 bytes if it is `.text` (R44), and every
granule mapped with the permissions of the section and no other. An empty section takes no place. -/
def placeOk (s : State) (part : Nat) (base : Section → BitVec 64) (m : Image) (x : Section) : Bool :=
  let a := (base x).toNat
  (m.bytes x).isEmpty || (a % x.align = 0 && (x ≠ .text || sectionEnd base m x ≤ 2 ^ 48)
    && (List.range ((sectionEnd base m x + 63) / 64 - a / 64)).all fun k =>
      match locate s part (BitVec.ofNat 64 (64 * (a / 64 + k))) with
      | some q => q.page.isSome && (⟨q.rp, q.wp, q.xp⟩ : Placement) = x.placement
      | none => false)

/-- Bytes written from a virtual address of a partition, line by line. -/
def loadBytes (part : Nat) (va : Nat) (bs : List Byte) (s : State) : State :=
  (iaPieces va bs.length).foldl (fun t p =>
    match locate t part (BitVec.ofNat 64 p.1) with
    | some q => hardWrite t 0 q.ia ((bs.drop p.2.1).take p.2.2)
    | none => t) s

/-- The metadata word of a granule written: its colour and its key. -/
def loadMeta (part : Nat) (c : BitVec 6) (k : BitVec 4) (va : Nat) (s : State) : State :=
  match locate s part (BitVec.ofNat 64 va) with
  | some q => homeMeta s part 0 q.ia fun m => metaColour (metaKey m k) c
  | none => s

/-- The state after the loader has placed an image in a partition with its sections at their bases; none where it rejects the
image. Code is written with colour 0 and key 0 (R44, R240). -/
def Image.load (s : State) (part : Nat) (base : Section → BitVec 64) (m : Image) : Option State :=
  if !Section.all.all (placeOk s part base m) then none
  else (m.placed base).map fun x =>
    let s1 := Section.all.foldl (fun t y => loadBytes part (base y).toNat (x.bytes y) t) s
    let code := (base .text).toNat / 64
    let s2 := (List.range ((sectionEnd base m .text + 63) / 64 - code)).foldl (fun t k => loadMeta part 0 0 (64 * (code + k)) t) s1
    m.runs.foldl (fun t r =>
      (List.range r.granules).foldl (fun u g => loadMeta part r.colour r.key ((base r.sec).toNat + r.offset + 64 * g) u) t) s2

end Sys2Proof.Machine.Vlas
end

