-- ==== Sys2Proof/Tests/Slice0.lean ====
section
/-! SUPPORT. Our own tests: ill-formed instructions are refused; words written out from the encodings of R43 to R64 decode;
single steps give the results of the spec's rules; and every statement that has hypotheses has a state that meets them. -/
namespace Sys2Proof.Tests
open Sys2Proof Sys2Proof.Machine

set_option Elab.async false

/-! ### Well-formed instructions (R67) -/

/-- Each instruction shows the fault beside it. -/
def wrong (l : List (Instr × IllFormed)) : Bool := l.all fun x => x.1.error == some x.2 && !x.1.wellFormed

theorem test_ill_formed_registers : wrong [
    (.addS32 false false (.b 0) (.v 1) (.v 2), .latchDest),
    (.madS32 false false (.q 0) (.v 1) (.v 2), .qForbidden),
    (.bfi false false (.q 0) (.v 1) (.v 2), .qForbidden),
    (.lda false false (.v 0) (.q 1) 0 false .b32, .qForbidden),
    (.cjoin false false (.b 0), .latchDest),
    (.cjoin false false (.q 0), .qForbidden),
    (.addS64 false false (.v 1) (.v 2) (.v 4), .badPair),
    (.addS64 false false (.v 0) (.v 3) (.v 4), .badPair),
    (.ld false false (.v 0) (.q 1) 0 .b32, .badPair),
    (.callr false (.b 0), .badPair),
    (.ld false false (.v 2) (.v 4) 0 .b128, .badQuad),
    (.tdef false 0 (.v 6), .badQuad)] = true := by decide +kernel

theorem test_ill_formed_fields : wrong [
    (.addS32 false true (.q 0) (.v 1) (.v 2), .kForbidden),
    (.shlB32Imm false false (.v 0) (.v 1) 32, .immediate),
    (.shlB64Imm false false (.v 0) (.v 2) 64, .immediate),
    (.rclaim false 0, .immediate), (.rgive false 0, .immediate),
    (.spawn false 24 0 (.v 0) (.v 2) 0, .immediate),
    (.fadd false false (.v 0) (.v 1) (.v 2) .dth, .rounding),
    (.cvtFloatSource false false (.v 0) (.v 1) .f32 .rne 6, .format),
    (.ckmode false 3, .modeOrEngine), (.qbind false 0 0 4, .modeOrEngine),
    (.qbind false 0 1 1, .modeOrEngine), (.qbind false 0 4 0, .modeOrEngine),
    (.srd false false (.v 0) 0x0E, .specialIndex), (.swr false (.v 0) 0x23, .specialIndex),
    (.pcnt false false (.v 0) 0x00A, .counterNumber),
    (.wset false .thread 2 (.v 0) (.v 2), .watchSlot), (.wclr false .group 4, .watchSlot),
    (.wclr false .die 16, .watchSlot)] = true := by decide +kernel

/-! ### Decoding: one word of every form, written out from its encoding -/

/-- Each word decodes to the instruction beside it. -/
def decodes (l : List (Nat × Instr)) : Bool := l.all fun x => decodeTableWord 32 x.1 == some x.2
/-- No word decodes. -/
def refused (l : List Nat) : Bool := l.all fun x => decodeTableWord 32 x == none

/-- R53: majors 0x01 to 0x04. -/
def integerWords : List (Nat × Instr) := [
  (0x82696040, .addS32 true false (.v 52) (.v 88) (.v 8)),
  (0x02614041, .subS32 false false (.v 48) (.v 80) (.v 8)),
  (0x0218F202, .mulS32 false false (.v 12) (.v 60) (.v 64)),
  (0x021931E3, .mulhS32 false false (.v 12) (.v 76) (.v 60)),
  (0x024162E4, .mulhZ32 false false (.v 32) (.v 88) (.v 92)),
  (0x02109065, .minS32 false false (.v 8) (.v 36) (.v 12)),
  (0x02705286, .maxS32 false false (.v 56) (.v 20) (.v 80)),
  (0x029170C7, .minZ32 false false (.v 72) (.v 92) (.v 24)),
  (0x04604280, .maxZ32 false false (.v 48) (.v 16) (.v 80)),
  (0x04A07221, .divS32 false false (.v 80) (.v 28) (.v 68)),
  (0x84794202, .divZ32 true false (.v 60) (.v 80) (.v 64)),
  (0x84406143, .remS32 true false (.v 32) (.v 24) (.v 40)),
  (0x04890164, .remZ32 false false (.v 68) (.v 64) (.v 44)),
  (0x84A03005, .absS32 true false (.v 80) (.v 12)),
  (0x0430C006, .negS32 false false (.v 24) (.v 48)),
  (0x04702007, .popc false false (.v 56) (.v 8)),
  (0x0658D2C0, .andB32 false false (.v 44) (.v 52) (.v 88)),
  (0x86184161, .orB32 true false (.v 12) (.v 16) (.v 44)),
  (0x8610B2E2, .xorB32 true false (.v 8) (.v 44) (.v 92)),
  (0x86B8D183, .andnB32 true false (.v 92) (.v 52) (.v 48)),
  (0x066062C4, .shlB32 false false (.v 48) (.v 24) (.v 88)),
  (0x06108185, .shrB32 false false (.v 8) (.v 32) (.v 48)),
  (0x0668E246, .shraS32 false false (.v 52) (.v 56) (.v 72)),
  (0x0678D287, .rotB32 false false (.v 60) (.v 52) (.v 80)),
  (0x88713000, .clz true false (.v 56) (.v 76)),
  (0x88617001, .brev true false (.v 48) (.v 92)),
  (0x88283102, .bfxS32 true false (.v 20) (.v 12) (.v 32)),
  (0x08B08023, .bfxZ32 false false (.v 88) (.v 32) (.v 4)),
  (0x8848B024, .bfi true false (.v 36) (.v 44) (.v 4)),
  (0x0890C2C5, .madS32 false false (.v 72) (.v 48) (.v 88)),
  (0x88B91006, .mov true false (.v 92) (.v 68))]

/-- R52, R53: majors 0x05 to 0x08. -/
def pairWords : List (Nat × Instr) := [
  (0x0AB121A0, .addS64 false false (.v 88) (.v 72) (.v 52)),
  (0x8A684241, .subS64 true false (.v 52) (.v 16) (.v 72)),
  (0x8A383122, .mulS64 true false (.v 28) (.v 12) (.v 36)),
  (0x8A20C2C3, .minS64 true false (.v 16) (.v 48) (.v 88)),
  (0x0A0940C4, .maxS64 false false (.v 4) (.v 80) (.v 24)),
  (0x0AA01085, .minZ64 false false (.v 80) (.v 4) (.v 16)),
  (0x0A296146, .maxZ64 false false (.v 20) (.v 88) (.v 40)),
  (0x8A804007, .negS64 true false (.v 64) (.v 16)),
  (0x0C791240, .shlB64 false false (.v 60) (.v 68) (.v 72)),
  (0x8C2841A1, .shrB64 true false (.v 20) (.v 16) (.v 52)),
  (0x8CB86242, .shraS64 true false (.v 92) (.v 24) (.v 72)),
  (0x0C88C0A3, .mulhS64 false false (.v 68) (.v 48) (.v 20)),
  (0x0CA83144, .mulhZ64 false false (.v 84) (.v 12) (.v 40)),
  (0x8C608005, .absS64 true false (.v 48) (.v 32)),
  (0x8CA07126, .madS64 true false (.v 80) (.v 28) (.v 36)),
  (0x8E392223, .lea true false (.v 28) (.v 72) (.v 68) 3),
  (0x10491142, .sel false false (.v 36) (.v 68) (.v 40) 2)]

/-- R52 to R54: majors 0x09 to 0x0F. -/
def compareWords : List (Nat × Instr) := [
  (0x9208C1A1, .cmp32 true 4 (.v 48) (.v 52) .ne),
  (0x14028222, .cmp64 false 1 (.v 32) (.v 68) .ltS),
  (0x968150E8, .shlB32Imm true false (.v 64) (.v 84) 29#7),
  (0x16A8C0A9, .shrB32Imm false false (.v 84) (.v 48) 21#7),
  (0x166870EA, .shraS32Imm false false (.v 52) (.v 28) 29#7),
  (0x16A8B0D3, .rotB32Imm false false (.v 84) (.v 44) 26#7),
  (0x96683034, .shlB64Imm true false (.v 52) (.v 12) 6#7),
  (0x160860ED, .shrB64Imm false false (.v 4) (.v 24) 29#7),
  (0x96A15086, .shraS64Imm true false (.v 80) (.v 84) 16#7),
  (0x98913087, .addS32Imm true false (.v 72) (.v 76) 135#10),
  (0x1AA8421C, .mulS32Imm false false (.v 84) (.v 16) 540#10),
  (0x1C39A6FE, .ldi false false (.v 28) 108286#17),
  (0x1E483679, .ldhi false false (.v 36) 13945#16)]

/-- R52, R55, R56: majors 0x10 to 0x19. -/
def floatWords : List (Nat × Instr) := [
  (0xA098B124, .fadd true false (.v 76) (.v 44) (.v 36) .rna),
  (0x226102A4, .fsub false false (.v 48) (.v 64) (.v 84) .rna),
  (0x24892024, .fmul false false (.v 68) (.v 72) (.v 4) .rna),
  (0x262870C4, .ffma false false (.v 20) (.v 28) (.v 24) .rna),
  (0x28597240, .fmin false false (.v 44) (.v 92) (.v 72)),
  (0xA8902121, .fmax true false (.v 72) (.v 8) (.v 36)),
  (0x28105002, .frcp false false (.v 8) (.v 20)),
  (0xA8190003, .frsq true false (.v 12) (.v 64)),
  (0xA8B89004, .fsqrt true false (.v 92) (.v 36)),
  (0xA8888005, .fexp2 true false (.v 68) (.v 32)),
  (0xA8785006, .flog2 true false (.v 60) (.v 20)),
  (0xA8690007, .fsinpi true false (.v 52) (.v 64)),
  (0xAAB08000, .fcospi true false (.v 88) (.v 32)),
  (0xAA397001, .fclass true false (.v 28) (.v 92)),
  (0xAA2961A2, .hadd2 true false (.v 20) (.v 88) (.v 52)),
  (0x2A290123, .hmul2 false false (.v 20) (.v 64) (.v 36)),
  (0x2A806124, .hfma2 false false (.v 64) (.v 24) (.v 36)),
  (0x2A88D165, .dot4S8 false false (.v 68) (.v 52) (.v 44)),
  (0xAA60B066, .dot4Z8 true false (.v 48) (.v 44) (.v 12)),
  (0xAC02B264, .fcmp true 1 (.v 44) (.v 76) .un),
  (0xAE68B26B, .cvt true false (.v 52) (.v 44) .f16 .dth 3),
  (0x30404098, .cvtFloatSource false false (.v 32) (.v 16) .s16 .rup 0),
  (0x3228F003, .frnd false false (.v 20) (.v 60) .rup)]

/-- R58. -/
def laneWords : List (Nat × Instr) := [
  (0xB49112A2, .shfl true false (.v 72) (.v 68) (.v 84) .down),
  (0xB6020C00, .voteAny true 1 3),
  (0x360E1801, .voteAll false 7 6),
  (0x36180C02, .voteBallot false false (.v 12) 3),
  (0x360C3003, .voteEq false 6 (.v 12)),
  (0xB8A08001, .wred true false (.v 80) (.v 32) .minS),
  (0xBA78100D, .wscan true false (.v 60) (.v 4) true .and),
  (0xBC074000, .pmovR2p true 3 (.v 80)),
  (0x3C881801, .pmovP2r false false (.v 68) 6),
  (0x3C02081A, .pmovAnd false 1 2 3),
  (0x3C04081B, .pmovOr false 2 2 3),
  (0xBC0A1C14, .pmovXor true 5 7 2),
  (0xBC081435, .pmovAndn true 4 5 6),
  (0x3C060C06, .pmovNot false 3 3),
  (0x3E000003, .winb false 3),
  (0x3E004001, .rclaim false 1),
  (0x3E008006, .rgive false 6)]

/-- R47, R52: majors 0x20 to 0x24. -/
def controlWords : List (Nat × Instr) := [
  (0x40083A4F, .bra false 539215#20),
  (0xC251B355, .brp true 2 true 111445#20),
  (0xC40A8111, .call true 688401#20),
  (0xC6012000, .callr true (.v 72)),
  (0xC8000000, .ret true),
  (0xC8000001, .exit true),
  (0x48000002, .nop false)]

/-- R59, R60. -/
def memoryWords : List (Nat × Instr) := [
  (0x50396094, .ld false false (.v 28) (.v 88) 18#7 .b32),
  (0xD22810DE, .ldR true false (.v 20) (.v 4) 1 11#4 .b128),
  (0xD4706041, .st true (.v 56) (.v 24) 8#7 .b16),
  (0xD6A082CD, .lda true false (.v 80) (.v 32) 89#7 true .b32),
  (0xD830711D, .sta true (.v 24) (.v 28) 35#7 true .b32),
  (0xDA593151, .ldc true false (.v 44) (.v 76) 42#7 .b64),
  (0x5A00A0E4, .prefL1 false (.v 40) 28#7),
  (0xDA00600D, .prefLlc true (.v 24) 1#7),
  (0xDA00D05E, .pagereq true (.v 52) 11#7),
  (0xDC4922A0, .colour true (.v 36) (.v 72) 84#7),
  (0x5C412321, .tagset false (.v 32) (.v 72) 100#7),
  (0x5C48309A, .tagget false false (.v 36) (.v 12) 19#7),
  (0xDC0A0003, .fence true .dev),
  (0x5C080004, .acq false .die),
  (0x5C060005, .rel false .clus),
  (0xDC180006, .cjoin true false (.v 12)),
  (0x5C000007, .cleave false)]

/-- R60 to R62. -/
def syncWords : List (Nat × Instr) := [
  (0xE08051E5, .atomInt true false (.v 64) (.v 20) .clus 12#4 .and),
  (0x62B9133E, .atomExt false false (.v 92) (.v 68) .sys 7#4 .cas64),
  (0x648922F7, .redInt false (.v 68) (.v 72) .dev 14#4 .xor),
  (0x66B1335B, .redExt false (.v 88) (.v 76) .sys 11#4 .add64),
  (0x68181098, .semsig false (.v 12) (.v 4) .wave 3#4),
  (0xE820E249, .semwait true (.v 16) (.v 56) .die 9#4),
  (0x68A8134A, .semtake false (.v 84) (.v 4) .sys 9#4),
  (0x6A4AF066, .spawn false 9#5 1 (.v 60) (.v 12) 6),
  (0x6CB11048, .joinw false (.v 88) (.v 68) 9#7),
  (0xEC000001, .bar true),
  (0xEC18A0FA, .cwait true (.v 12) (.v 40) 31#7),
  (0x6C4163EB, .csig false (.v 32) (.v 88) 125#7),
  (0xEC80D054, .enqt true (.v 64) (.v 52) 10#7)]

/-- R63. -/
def matrixWords : List (Nat × Instr) := [
  (0xF0EEC4DA, .mma true 59 44 19 1 10),
  (0x721672A5, .mmas false 5 39 10 2 5),
  (0xF4000A00, .cinit true 40),
  (0x740407C9, .cdrain false 1 31 .rtz),
  (0xF4496002, .tdef true 18 (.v 88)),
  (0x74B50003, .tset false 45 .filling),
  (0xF4000014, .ckmode true 2#3),
  (0xF4818005, .qbind true 4 0#3 3#3),
  (0x74603006, .qstat false false 3 (.v 12))]

/-- R64. -/
def systemWords : List (Nat × Instr) := [
  (0xF8500021, .srd true false (.v 40) 33#8),
  (0x78890010, .swr false (.v 68) 16#8),
  (0xFA01FCF0, .trap true 16286#14),
  (0xFA000001, .rte true),
  (0xFA006B72, .bkpt true 3438#14),
  (0x7A003003, .step false (.v 12)),
  (0x7A017EBC, .mark false false 12247#14),
  (0xFA2808DD, .pcnt true false (.v 20) 283#14),
  (0xFA42C106, .wset true .group 1#5 (.v 48) (.v 32)),
  (0xFA820007, .wclr true .die 1#5)]

theorem test_decode_integer : decodes integerWords = true := by decide +kernel
theorem test_decode_pair : decodes pairWords = true := by decide +kernel
theorem test_decode_compare : decodes compareWords = true := by decide +kernel
theorem test_decode_float : decodes floatWords = true := by decide +kernel
theorem test_decode_lane : decodes laneWords = true := by decide +kernel
theorem test_decode_control : decodes controlWords = true := by decide +kernel
theorem test_decode_memory : decodes memoryWords = true := by decide +kernel
theorem test_decode_sync : decodes syncWords = true := by decide +kernel
theorem test_decode_matrix : decodes matrixWords = true := by decide +kernel
theorem test_decode_system : decodes systemWords = true := by decide +kernel

/-- R48: g, q and latch codes; R26: K. -/
theorem test_decode_register_codes : decodes [
    (0x03C00000 ||| 0x0001EC00 ||| 0x380, .addS32 false true (.g 0) (.b 3) (.q 0)),
    (0x82DFBFF8, .addS32 true false (.g 15) (.g 15) (.b 7)),
    (0x02E00000 ||| 0x0001DC00, .addS32 false false (.q 0) (.q 7) (.v 0))] = true := by decide +kernel

/-- Words of the listings of 19 to 23. -/
theorem test_decode_listings : decodes [
    (0xC24FFFF4, .brp true 2 false 0xFFFF4#20), (0x62124280, .atomExt false false (.v 9) (.v 16) .dev 0#4 .exch32),
    (0xF2001088, .mmas true 0 1 2 0 8), (0xF8130003, .swr true (.v 9) 3#8), (0x78060001, .srd false false (.v 3) 1#8),
    (0xBE008002, .rgive true 2), (0xBE004002, .rclaim true 2), (0xBE000001, .winb true 1),
    (0xEC043000, .joinw true (.v 2) (.v 12) 0#7), (0xF40C00A9, .cdrain true 3 2 .dth), (0xF4000014, .ckmode true 2#3),
    (0x3C043C00, .pmovR2p false 2 (.v 15)), (0x9A060C0A, .mulS32Imm true false (.v 3) (.v 3) 10#10)] = true := by decide +kernel

/-- R7, R50 to R64: reserved majors, minors and fields, and codes without a meaning. -/
theorem test_decode_refuses : refused [0, 0x4A000000, 0x4C000000, 0x4E000000, 0x5E000000, 0x6E000000, 0x76000000, 0x7C000000,
    0x7E000000, 0x08000007, 0x0C000007, 0x16000007, 0x12000006, 0x12000007, 0x2C000006, 0x20000006, 0x34000004, 0x36000004,
    0x3C000007, 0x3E00C000, 0x40100000, 0x48000003, 0x48000008, 0x50000007, 0x54000005, 0x5A000003, 0x5A000007, 0x5C0E0003,
    0x60000380, 0x66000004, 0x68000003, 0x6A000000 ||| 0x00C00000, 0x6C000005, 0x74000007, 0x74002000, 0x78000100, 0x7A000001 ||| 8,
    0x7AC00006, 0x04000005 ||| 8, 0x13000000, 0x12100000] = true := by decide +kernel

/-! ### A wave that issues, and the words that come to their own operation in it -/

/-- A launch of one group of one wave on die 0, its 32 lanes live at 0x1000 (log 21). -/
def base : State := setupLaunched State.reset
/-- The one wave changed. -/
def wave (f : Wave → Wave) : State := modWave base 0 f
/-- The one group changed. -/
def group (f : Group → Group) : State := modGroup base 0 f
/-- A register of each lane holds a value. -/
def reg (n : Nat) (x : Lane → Word) (w : Wave) : Wave :=
  { w with lanes := Lanes.of fun l => { w.lanes.get l with regs := spSet (w.lanes.get l).regs n (x l) } }
/-- The wave with number 0 is as said. -/
def w0 (s : State) (p : Wave → Bool) : Bool := (findWave s 0).any p
/-- The group with number 0 is as said. -/
def g0 (s : State) (p : Group → Bool) : Bool := (findGroup s 0).any p
/-- The run is of lanes 0 and 31 only. -/
def few (s : State) : State := modWave s 0 fun w => { w with run := w.run.map fun r => { r with exec := 0x80000001#32 } }
/-- Each lane changed. -/
def lanes (f : LaneCtx → LaneCtx) (w : Wave) : Wave := { w with lanes := Lanes.of fun l => f (w.lanes.get l) }

/-- The word comes to its own operation, in a steady wave. -/
def comes (s : State) (i : Instr) : Bool :=
  match begins i s with
  | some (w, c) => w.stepping.isNone && laneList.all fun l => !c.exec.has l || (laneOf c.w l).state == .live
  | none => false

/-- The word comes to its own operation, and what that sees is as said. -/
def meets (i : Instr) (s : State) (p : Ctx → Bool) : Bool :=
  match begins i s with
  | some (_, c) => p c
  | none => false

/-- The lanes that execute are all as said. -/
def each (c : Ctx) (p : Lane → Bool) : Bool := laneList.all fun l => !c.exec.has l || p l
/-- The lanes that execute may do what the verdicts are about. -/
def may (c : Ctx) (v : Lanes Verdict) : Bool := each c fun l => mayDo (v.get l)

theorem wit_comes_integer : integerWords.all (fun x => comes base x.2) = true := by decide +kernel
theorem wit_comes_pair : pairWords.all (fun x => comes base x.2) = true := by decide +kernel
theorem wit_comes_compare : compareWords.all (fun x => comes base x.2) = true := by decide +kernel
theorem wit_comes_float : floatWords.all (fun x => comes base x.2) = true := by decide +kernel
theorem wit_comes_lane : laneWords.all (fun x => comes base x.2) = true := by decide +kernel
theorem wit_comes_control : controlWords.all (fun x => comes base x.2) = true := by decide +kernel
/-- With a group register, a latch and K. -/
theorem wit_comes_register_codes : [Instr.addS32 false false (.g 3) (.v 0) (.g 15), .addS32 true true (.v 95) (.v 95) (.v 95),
    .ffma false true (.g 0) (.v 1) (.v 2) .rup].all (comes base) = true
  ∧ comes (wave fun w => { w with run := w.run.map fun r => { r with latches := [some (Lanes.of fun _ => 1)] } })
      (.addS32 false false (.v 0) (.b 0) (.v 1)) = true
  ∧ comes (wave fun w => { w with queues := w.queues.set 0 { QReg.unbound with bound := some (.copy, 0) } })
      (.addS32 false false (.q 0) (.v 0) (.v 1)) = true := by decide +kernel

theorem wit_conversion_sources : [0, 7].all (fun n => (Fmt.ofCode? n).isSome) = true ∧ [8, 13].all (fun n => (Fmt.ofCode? n).isSome) = true := by
  decide

theorem wit_float_values : isSig (.nan true) = true ∧ isNan (.nan false) = true ∧ isSig (.nan false) = false ∧ (1 : Nat) ≠ 0
    ∧ floatVal f32Fmt 0x7F800001 = .nan true ∧ floatVal f32Fmt 0xC0000000 = .fin true (2 ^ 23) (-22) := by decide +kernel
theorem wit_rounding : [Fmt.f32, .f16, .bf16, .e4m3, .e5m2, .e5m3].all (fun f => (fmtFloat f).isSome) = true ∧ 2 ^ 32 - 1 < 2 ^ 32
    ∧ (0 < 1 ∧ 1 < 2) ∧ (1 < 3 ∧ 2 * 1 < 3) ∧ (2 < 3 ∧ 3 < 2 * 2) := by decide
/-- DTH at position 1 with threshold (16 + 1/2) / 32: 2 / 4 lies below it, 3 / 4 above (R84). -/
theorem test_dither : roundsUp .dth 1 false 7 2 4 = false ∧ roundsUp .dth 1 false 7 3 4 = true ∧ roundsUp .dth 1 true 7 1 4 = false := by decide

/-- A word with condition code 6 is fetched. -/
theorem wit_condition_code : (let s := placeWord State.reset 0x12000006#32
    s.agenda.isEmpty && !halted s && match current s with
      | some (v, r) => (shadowOf s v.id).isNone && (match fetchAt s v r.pc with | .word ia x => ia == 0x1000 && x == 0x12000006#32 | _ => false)
      | none => false) = true := by decide +kernel

/-! ### Windows, control flow, loads and stores: the conditions of the statements -/

theorem wit_windows : meets (.winb false 2) base (fun c => (2 : Fin 8).val < c.w.blks.toNat) = true
  ∧ meets (.winb false 3) base (fun c => c.w.blks.toNat ≤ (3 : Fin 8).val) = true
  ∧ meets (.rgive false 2) base (fun c => 2 < c.w.blks.toNat && decide (c.w.winb.toNat < c.w.blks.toNat - 2)) = true
  ∧ meets (.rgive true 3) base (fun c => c.w.blks.toNat ≤ 3) = true
  ∧ meets (.rgive false 2) (wave fun w => { w with winb := 1 }) (fun c => 2 < c.w.blks.toNat && decide (c.w.blks.toNat - 2 ≤ c.w.winb.toNat)) = true
  := by decide +kernel

theorem wit_claims :
  meets (.rclaim false 5) base (fun c => c.w.place.any fun p => c.w.granted == false && c.w.claim == none && decide (c.w.blks.toNat + 5 ≤ 8)
      && decide (5 ≤ claimBound c.s c.w p 0) && decide (5 ≤ freeBlocks c.s p.die p.core p.quad)
      && (quadClaims (endScouts c.s p.die p.core p.quad) p.die p.core p.quad).all fun x => x.1.id == c.w.id) = true
  ∧ meets (.rclaim false 5) (wave fun w => { w with granted := true }) (fun c => c.w.place.isSome && c.w.granted) = true
  ∧ meets (.rclaim false 6) base (fun c => c.w.place.isSome && c.w.granted == false && decide (8 < c.w.blks.toNat + 6)) = true := by
  decide +kernel

theorem wit_branches : [Instr.bra false 0x7FFFF, .brp true 7 true 0x80000, .nop false].all
    (fun i => meets i base fun c => c.exec ≠ 0) = true := by decide +kernel

/-- Each lane has two levels, both on chip. -/
def called : State := wave (lanes fun x => { x with depth := 2, ret := [0x3000, 0x3004] })

theorem wit_calls :
  (let room (c : Ctx) : Bool := laneList.all fun l => !c.exec.has l || ((laneOf c.w l).depth != 4095 && (laneOf c.w l).ret.length < 16)
   meets (.call false 0x80000) base (fun c => room c && (c.r.pc + 4 * (0x80000#20).signExtend 48).extractLsb' 0 2 == 0)
   && meets (.callr false (.v 0)) base (fun c => room c && each c fun l => (c.pair 0 l).extractLsb' 0 2 == 0)
   && meets (.callr false (.v 0)) (wave (reg 0 fun l => if l = 31 then 2 else 0)) (fun c => c.exec.has 31 && (c.pair 0 31).extractLsb' 0 2 != 0)
   && meets (.call false 1) (wave (lanes fun x => { x with depth := 4095 }))
        (fun c => c.exec.has 0 && (laneOf c.w 0).depth == 4095 && (c.r.pc + 4 * (1#20).signExtend 48).extractLsb' 0 2 == 0)) = true := by
  decide +kernel

theorem wit_returns :
  (meets (.ret false) called (fun c => each c fun l => (laneOf c.w l).depth != 0 && (laneOf c.w l).trapLevel != some (laneOf c.w l).depth
      && decide (2 ≤ (laneOf c.w l).ret.length) && ((laneOf c.w l).ret.head?.getD 0).extractLsb' 48 16 == 0
      && ((laneOf c.w l).ret.head?.getD 0).extractLsb' 0 2 == 0)
   && meets (.ret false) (wave (lanes fun x => { x with depth := 1, ret := [0x3000] })) (fun c => each c fun l => (laneOf c.w l).depth == 1
      && (laneOf c.w l).trapLevel != some 1 && (laneOf c.w l).ret == [0x3000])
   && meets (.ret false) base (fun c => c.exec.has 0 && (laneOf c.w 0).depth == 0)) = true := by decide +kernel

/-- A spawned wave whose lanes have the join counter at 0x8000. -/
def spawned : State := wave fun w => { lanes (fun x => { x with join := 0x8000 }) w with spn := true }

/-- Each lane stands at a depth with n entries on chip; the spill area starts at a place and holds n levels. -/
def deep (d : BitVec 12) (n : Nat) (x : DWord) (csp : DWord) (csz : BitVec 12) : State :=
  wave fun w => { lanes (fun y => { y with depth := d, ret := List.replicate n x }) w with csp := csp, csz := csz }

theorem wit_spills :
  (let room (c : Ctx) : Bool := each c fun l => (laneOf c.w l).depth != 4095
   let up (l : Ctx) (k : Lane) : List Nat := spillLevelsOf (laneOf l.w k)
   let down (l : Ctx) (k : Lane) : List Nat := fillLevelsOf (laneOf l.w k)
   let live (c : Ctx) : Bool := each c fun l => (laneOf c.w l).depth != 0 && (laneOf c.w l).trapLevel != some (laneOf c.w l).depth
   let bad (c : Ctx) (l : Lane) : Bool := ((laneOf c.w l).ret.head?.getD 0).extractLsb' 0 2 != 0
   meets (.call false 4) (few (deep 16 16 0x3000 0x8000 16)) (fun c => room c && (levelsStop c true (up c)).isNone && (spillLevelsOf (laneOf c.w 31)).length == 8)
   && meets (.callr false (.v 0)) (few (deep 16 16 0x3000 0x8000 16)) (fun c => room c && (levelsStop c true (up c)).isNone && (c.pair 0 31).extractLsb' 0 2 == 0)
   && [(0x8000#64, 7#12), (0x20000, 16)].all (fun x => meets (.call false 4) (few (deep 16 16 0x3000 x.1 x.2)) fun c => room c
        && (levelVerdicts c true (up c)).all (fun y => (poisonIn y.2).isNone) && (worstLevels c true (up c)).isSome)
   && meets (.ret false) (few (deep 9 1 0x3000 0x8000 16)) (fun c => live c && (levelsStop c false (down c)).isNone
        && (refillLevels (laneOf c.w 31)).length == 8 && each c fun l => !bad c l)
   && meets (.ret false) (few (deep 9 1 0x3002 0x8000 16)) (fun c => live c && (levelsStop c false (down c)).isNone && bad c 0)
   && meets (.ret false) (few (deep 1 1 0x3002 0x8000 16)) (fun c => live c && (levelsStop c false (down c)).isNone && bad c 31)
   && meets (.ret false) (few (deep 9 1 0x3000 0x20000 16)) (fun c => live c
        && (levelVerdicts c false (down c)).all (fun y => (poisonIn y.2).isNone) && (worstLevels c false (down c)).isSome)
   && meets (.ret false) (few (wave (lanes fun x => { x with depth := 2, ret := [0, 0x3000], trapLevel := some 2 })))
        (fun c => each c fun l => (laneOf c.w l).depth != 0 && (laneOf c.w l).trapLevel == some (laneOf c.w l).depth)
   && 8 ∈ spillLevelsOf { LaneCtx.empty with depth := 16, ret := List.replicate 16 0 } && decide ((7#12).toNat < 8)
   && 8 ∈ fillLevelsOf { LaneCtx.empty with depth := 9, ret := [0] }) = true := by decide +kernel

/-- The join counter's word is not mapped. -/
theorem wit_exit_trap : meets (.exit false) (few (wave fun w => { lanes (fun x => { x with join := 0x20000 }) w with spn := true })) (fun c =>
    let v : Lanes Verdict := Lanes.of fun l => verdictWord c.s c.w (laneOf c.w l).join 4
    c.w.spn && (laneOf c.w 31).join != 0 && (poisoned v c.exec).isNone && (needs c.w v c.exec).isEmpty && (worst v c.exec).isSome) = true := by decide +kernel

theorem wit_exit : [base, spawned].all (fun s => meets (.exit false) s fun c => may c (Lanes.of fun l =>
    if c.w.spn && (laneOf c.w l).join ≠ 0 then verdictWord c.s c.w (laneOf c.w l).join 4 else .absent ⟨0, none, none, true, true, true, true⟩))
    = true := by decide +kernel

/-- The effective addresses of the lanes. -/
def there (c : Ctx) (o : Int) (n : Nat) (l : Lane) : DWord := c.pair 0 l + BitVec.ofInt 64 (o * n)
/-- v0 holds an address in each lane: 64 bytes for each lane, from 0x4000 on. -/
def pointing : State := wave (reg 0 fun l => 0x4000 + 64 * BitVec.ofNat 32 l.val)
/-- A second page, at 0x10000, is mapped and not resident, and v0 points to it. -/
def pageAbsent : State :=
  let s := modPart base 0 fun p =>
    { p with ranges := p.ranges.set 1 { v := true, rp := true, wp := true, xp := true, remote := false, vbase := 1, vlast := 1, iabase := 1 } }
  match findPart s 0 with
  | some p => modWave (putEntry s p 3 0x10000 0x13B) 0 (reg 0 fun _ => 0x10000)
  | none => s

theorem wit_loads :
  (let ok (c : Ctx) (o : Int) (n : Nat) : Lanes Verdict := Lanes.of fun l => loadVerdict c.s c.w (verdictOf c.s c.w l (there c o n l) n false)
   let ready (c : Ctx) (o : Int) (n : Nat) : Bool := may c (ok c o n) && !meetsAtomic c (ok c o n) && !remoteUnasked c (ok c o n)
   meets (.ld false false (.v 4) (.v 0) 0x40#7 .b128) pointing (fun c => ready c (0x40#7).toInt 16)
   && meets (.ld false true (.v 4) (.v 0) 0x3F#7 .s8) pointing (fun c => ready c (0x3F#7).toInt 1)
   && meets (.ldR false false (.v 4) (.v 0) 2 0x8#4 .b64) pointing (fun c => ready c (0x8#4).toInt 8)
   && meets (.ldR false false (.v 4) (.v 0) 2 0#4 .b64) pageAbsent (fun c => ready c 0 8 && (spotIn ((ok c 0 8).get 0)).isNone)) = true := by decide +kernel

theorem wit_stores :
  (let ok (c : Ctx) (o : Int) (n : Nat) : Lanes Verdict := Lanes.of fun l => verdictOf c.s c.w l (there c o n l) n true
   meets (.st false (.v 4) (.v 0) 0x40#7 .b128) pointing (fun c => may c (ok c (0x40#7).toInt 16) && !storeWaits c (ok c (0x40#7).toInt 16) 16)
   && meets (.st false (.v 5) (.v 0) 0#7 .b8) pointing (fun c => may c (ok c 0 1) && !storeWaits c (ok c 0 1) 1)) = true := by decide +kernel

/-! ### Memory, buffers and synchronisation -/

theorem wit_access_effects :
  (let s := pointing
   match findWave s 0, findGroup s 0 with
   | some w, some _ => w.id == 0 && (match verdictOf s w 0 0x4000 4 false with | .ok p => p.remote.isNone | _ => false)
   | _, _ => false) = true := by decide +kernel

theorem wit_hints :
  ([Instr.prefL1 false (.v 0) 3#7, .prefLlc false (.v 0) 0x40#7].all fun i => meets i base fun c => c.exec ≠ 0)
  && [pointing, pageAbsent].all (fun s => meets (.pagereq false (.v 0) 1#7) s fun c => each c fun l =>
      match locate c.s c.w.part (there c 1 1 l) with | some q => q.rp || q.wp | none => false) = true := by decide +kernel

theorem wit_barriers :
  (let wide (sc : Scope) : Bool := match sc with | .thread | .wave | .group => false | .clus | .die | .dev | .sys => true
   let stored := wave fun w => { w with stores := 1 }
   [Scope.thread, .group, .clus, .sys].all (fun sc => meets (.fence false sc) base (fun c => c.w.pend.isEmpty && (!wide sc || c.w.stores == 0))
       && meets (.rel false sc) base (fun c => c.w.pend.isEmpty && (!wide sc || c.w.stores == 0)) && meets (.acq false sc) stored fun c => c.w.pend.isEmpty)
   && [Scope.clus, .sys].all (fun sc => meets (.fence false sc) stored (fun c => wide sc && c.w.stores != 0)
       && meets (.rel false sc) stored fun c => wide sc && c.w.stores != 0)) = true := by decide +kernel

theorem wit_metadata :
  (let colour (x : Word) : FlightKind := .colour (x.extractLsb' 0 6)
   let key (x : Word) : FlightKind := .key (x.extractLsb' 0 4)
   let s := wave fun w => reg 0 (fun l => 0x4000 + 512 * BitVec.ofNat 32 l.val) (reg 2 (fun _ => 0x141#32) w)
   meets (.colour false (.v 2) (.v 0) 0#7) s (fun c => (rangeLanes c 0 true colour).2.isEmpty)
   && meets (.tagset false (.v 2) (.v 0) 1#7) s (fun c => (rangeLanes c 1 false key).2.isEmpty)
   && meets (.tagget false false (.v 4) (.v 0) 0x7F#7) pointing (fun c =>
      let v : Lanes Verdict := Lanes.of fun l => verdictTag c.s c.w (there c (-1) 64 l)
      may c v && laneList.all fun l => homeCounted c (v.get l))) = true := by
  decide +kernel

theorem wit_sharing :
  (let s := wave (reg 1 fun _ => 7)
   meets (.cjoin false false (.v 1)) s (fun c => (findGroup c.s c.w.group).any fun g => g.sharing.isNone && c.x 0 c.top != 0
      && !(c.s.groups.any fun x => x.sharing = some (c.x 0 c.top) && x.part = g.part && x.place = g.place && g.place.isSome))
   && meets (.cjoin false false (.v 1)) (group fun g => { g with sharing := some 7 }) (fun c => (findGroup c.s c.w.group).any fun g => g.sharing.isSome)
   && meets (.cleave true) base fun c => c.exec ≠ 0) = true := by decide +kernel

/-- The group has tiles: 0 of 64 rows of 128 elements (.s8) in the A-buffer, 1 in the W-buffer (.s8, 2 planes), 2 in the
C-buffer (.s32), with the given states (R195). -/
def tiled (sa sb sc : TileState) : State :=
  group fun g => { g with waves := 2, tiles :=
    [⟨0, 0x00000080000000000001A000#128, sa, 0, [], [], 0⟩, ⟨1, 0x00018081#128, sb, 0, [], [], 0⟩, ⟨2, 0x00002006#128, sc, 0, [], [], 0⟩] }

theorem wit_buffers :
  (let at' (c : Ctx) (o : Int) (n : Nat) (l : Lane) : Word := c.x 0 l + BitVec.ofInt 32 (o * n)
   let vb (c : Ctx) (o : Int) (n : Nat) (wr : Bool) (l : Lane) : Option BufSpot := bufSpot (verdictBuf c.s c.w (at' c o n l) n false wr)
   let vc (c : Ctx) (o : Int) (n : Nat) (l : Lane) : Option BufSpot := bufSpot (verdictCell c.s c.w (at' c o n l) n)
   meets (.lda false false (.v 4) (.v 0) 0x3F#7 false .b128) pointing (fun c => each c fun l =>
      (vb c 0x3F 16 false l).any fun p => !bufPoisoned c.s p.group 0 p.off 16)
   && meets (.sta false (.v 4) (.v 0) 0x40#7 false .b16) pointing (fun c => each c fun l => (vb c (-64) 2 true l).isSome)
   && meets (.ldc false true (.v 4) (.v 0) 1#7 .b128) (tiled .empty .empty .ready) (fun c => each c fun l =>
      (vc c 1 16 l).any fun p => !bufPoisoned c.s p.group 2 p.off 16)) = true := by decide +kernel

theorem wit_atomics :
  (let ok (c : Ctx) (o : Int) (n : Nat) : Lanes Verdict := Lanes.of fun l => verdictAtom c.s c.w l (there c o n l) n
   meets (.atomInt false false (.v 4) (.v 0) .clus 0x8#4 .maxZ) pointing (fun c => may c (ok c (-8) 4))
   && meets (.atomExt false false (.v 4) (.v 0) .dev 7#4 .cas64) pointing (fun c => may c (ok c 7 8))
   && meets (.redInt false (.v 4) (.v 0) .die 0#4 .add) base (fun c => may c (ok c 0 4))
   && meets (.redExt false (.v 4) (.v 0) .sys 0#4 .add64) base (fun c => may c (ok c 0 8))) = true ∧
  [AtOp.i .add, .x .exch32, .x .exch64, .x .cas32, .x .cas64, .x .minF, .x .maxF, .x .add64].all (fun o => !combines o) = true := by
  decide +kernel

/-- Lane l points to the word at 0x4000 + 64 l, which holds 5 (IA 0x4000 is byte 0x1000 of die 0's channel 0, R308), and has n in v2. -/
def counting (n : Word) : State :=
  { modWave (few pointing) 0 (reg 2 fun _ => n) with mem := laneList.map fun l => (0x1000 + 64 * l.val, 5) }

theorem wit_control_words :
  (let ok (c : Ctx) (h : Bool) : Lanes Verdict := Lanes.of fun l => verdictCtl c.s c.w l (there c 0 4 l) 4 h
   let ready (c : Ctx) (h : Bool) : Bool := may c (ok c h) && c.w.pend.isEmpty && c.w.stores == 0 && homesReady c (ok c h)
   let steps (c : Ctx) (h : Bool) (f : Steps → Nat → Lane → Stepped) : Bool := (stepLanes c (ok c h) (there c 0 4) 4 f).fails.isEmpty
   [1#32, 0x7FFFFFFA#32].all (fun n => meets (.semsig false (.v 2) (.v 0) .dev 0#4) (counting n) fun c =>
      ready c false && released c.w .dev && steps c false (semsigLane c (there c 0 4)))
   && [0#32, 5#32].all (fun n => meets (.semtake false (.v 2) (.v 0) .dev 0#4) (counting n) fun c =>
      ready c false && homesCounted c (ok c false) && acquirable c.w .dev && steps c false (semtakeLane c (there c 0 4)))
   && [5#32, 6#32].all (fun n => meets (.semwait false (.v 2) (.v 0) .clus 0#4) (counting n) fun c =>
      ready c true && homesCounted c (ok c true) && acquirable c.w .clus && steps c true (semwaitLane c (there c 0 4)))
   && [4#32, 5#32].all (fun n => meets (.joinw false (.v 2) (.v 0) 0#7) (counting n) fun c =>
      ready c true && homesCounted c (ok c true) && acquirable c.w .dev && steps c true (joinwLane c))
   && meets (.csig false (.v 2) (.v 0) 0#7) (counting 1) fun c => ready c false && steps c false (csigLane c (there c 0 4))) = true := by
  decide +kernel

/-- What a word in memory holds, as a lane's step sees it. -/
def sees (s : State) (x : Word) (sat : Bool) (n : Word) : Bool :=
  meets (.semwait false (.v 2) (.v 0) .dev 0#4) s fun c => counterWord c.s 0x4000 == x && c.x 1 0 == n && (laneOf c.w 0).waitSat == sat
    && !c.s.waiters.any fun q => q.kind == .semaphore && q.ia == 0x4000

theorem wit_semaphore_steps : sees (counting 5) 5 false 5 = true ∧ sees (counting 6) 5 false 6 = true ∧ sees (counting 0x7FFFFFFB) 5 false 0x7FFFFFFB = true
  ∧ sees (modWave (counting 1) 0 (lanes fun x => { x with waitSat := true })) 5 true 1 = true
  ∧ sees { counting 1 with mem := [(0x1003, 0x80)] } 0x80000000 false 1 = true
  ∧ (0 : Int) ≤ 5 ∧ (5 : Int) + 0x7FFFFFFA < 2 ^ 31 ∧ (2 : Int) ^ 31 ≤ 5 + 0x7FFFFFFB ∧ (0x80000000#32).toInt < 0 := by decide +kernel

theorem wit_barrier :
  (let held (s : State) := modWave s 0 (lanes fun x => { x with held := [⟨3, 0, false, false⟩] })
   meets (.bar false) base (fun c => (each c fun l => (laneOf c.w l).held.isEmpty) && c.w.pend.isEmpty)
   && meets (.bar false) (held base) fun c => c.exec.has 31 && !(laneOf c.w 31).held.isEmpty) = true := by decide +kernel

theorem wit_cwait :
  [5#32, 4#32].all (fun n => meets (.cwait false (.v 2) (.v 0) 0#7) (counting n) fun c =>
    let ok : Lanes Verdict := Lanes.of fun l => verdictCtl c.s c.w l (there c 0 4 l) 4 false
    (each c fun l => mayDo (ok.get l) && (laneOf c.w l).held.isEmpty) && c.w.release.isEmpty && c.w.pend.isEmpty && released c.w .dev && homesReady c ok
      && homesCounted c ok) = true
  ∧ meets (.cwait false (.v 2) (.v 0) 0#7) (modWave (counting 5) 0 (lanes fun x => { x with waitSat := true })) (fun c =>
      (each c fun l => (laneOf c.w l).waitSat && (laneOf c.w l).held.isEmpty) && c.w.release.isEmpty && c.w.pend.isEmpty) = true := by
  decide +kernel

/-- Queue 5 is a task queue of tenant 0, its ring at 0x8000 (R315); v0 points to a record of one wave and one block. -/
def tasks : State :=
  { modWave (few base) 0 (fun w => { reg 2 (fun _ => 5) w with widf := 5 }) with
    mem := [(33, 1)]
    queues := [{ n := 5, desc := ⟨true, true, 0, 0, 4, 0x8000, 0xC000⟩, tail := 0, start := 0, head := 0, done := [],
                 after := [], origins := [], void := [], emergency := [], reserved := [], turn := 0 }] }

theorem wit_spawn_enqueue :
  (let sp (c : Ctx) : Lanes Verdict := Lanes.of (verdictSpawn c)
   let eq (c : Ctx) : Lanes Verdict := Lanes.of (verdictEnqt c 0)
   [base, modWave pointing 0 (reg 2 fun _ => 0x2000)].all (fun s => meets (.spawn false 1 3 (.v 0) (.v 2) 1) s fun c =>
      may c (sp c) && released c.w .dev && homesReady c (sp c))
   && meets (.enqt false (.v 2) (.v 0) 0#7) tasks (fun c => may c (eq c) && released c.w .dev && homesReady c (eq c)
      && (stepLanes c (eq c) (there c 0 64) 64 (enqtLane c)).fails.isEmpty && (stepLanes c (eq c) (there c 0 64) 64 (enqtLane c)).done != 0)
   && meets (.enqt false (.v 2) (.v 0) 0#7) { tasks with queues := tasks.queues.map fun q => { q with tail := 15 } } (fun c => may c (eq c)
      && homesReady c (eq c) && (stepLanes c (eq c) (there c 0 64) 64 (enqtLane c)).fails.isEmpty
      && (stepLanes c (eq c) (there c 0 64) 64 (enqtLane c)).done == 1)) = true := by
  decide +kernel

/-! ### Matrix, queue and system words -/

/-- A quad from v4 on in each lane. -/
def quad (x : BitVec 128) (w : Wave) : Wave :=
  reg 4 (fun _ => x.extractLsb' 0 32) (reg 5 (fun _ => x.extractLsb' 32 32) (reg 6 (fun _ => x.extractLsb' 64 32) (reg 7 (fun _ => x.extractLsb' 96 32) w)))

/-- The tiles as said, each with a reader when asked. -/
def busyTiles (s : State) : State := modGroup s 0 fun g => { g with tiles := g.tiles.map fun x => { x with busy := 1 } }
/-- A quad from v4 on, in a state. -/
def quadIn (s : State) (x : BitVec 128) : State := modWave (few s) 0 (quad x)
/-- Another group of the core has 64 tiles. -/
def crowded (s : State) : State :=
  { s with groups := s.groups ++ (s.groups.map fun g => { g with id := 1, tiles := List.replicate 64 ⟨9, 0, .empty, 0, [], [], 0⟩ }) }

theorem wit_tdef :
  (let d (c : Ctx) : BitVec 128 := c.quad 0 c.top
   let held (x : Tile) : Bool := x.busy != 0 || x.state == .filling || x.state == .draining
   let may (n : Fin 64) (c : Ctx) (p : Group → Bool) : Bool := (findGroup c.s c.w.group).any fun g => (findTile g n).all (fun x => !held x) && p g
   let sound (c : Ctx) : Bool := tdOk (d c) && tdKind (d c) != 3
   let fits (c : Ctx) (g : Group) : Bool := decide (tdBase (d c) + tdBytes (d c) ≤ (bufOf g (tdKind (d c))).2)
   let room (n : Fin 64) (c : Ctx) (g : Group) : Bool := (findTile g n).isSome || decide (entriesUsed c.s g.place < Config.tileEntries)
   let all := tiled .ready .empty .empty
   let good : BitVec 128 := 0x00000080000040000001A000
   let td (n : Fin 64) (s : State) (x : BitVec 128) (p : Ctx → Group → Bool) : Bool := meets (.tdef false n (.v 4)) (quadIn s x) fun c => may n c (p c)
   [tiled .filling .empty .empty, tiled .draining .empty .empty, busyTiles all].all (fun s => meets (.tdef false 0 (.v 4)) (quadIn s good) fun c =>
      (findGroup c.s c.w.group).any fun g => (findTile g 0).any held)
   && [0, 63].all (fun n => td n all good (fun c g => sound c && tdBase (d c) % 64 == 0 && fits c g && room n c g)
      && td n all 3 (fun c _ => tdOk (d c) && tdKind (d c) == 3)
      && td n all 0x20000 (fun c _ => !tdOk (d c))
      && td n all 0x00000080000040010001A000 (fun c _ => sound c && tdBase (d c) % 64 != 0)
      && td n all 0x00000080000100000001A000 (fun c g => sound c && tdBase (d c) % 64 == 0 && !fits c g))
   && td 63 (crowded all) good (fun c g => sound c && tdBase (d c) % 64 == 0 && fits c g && !room 63 c g)) = true := by decide +kernel

theorem wit_tile_words :
  (let tile (c : Ctx) (n : Fin 64) (p : Tile → Bool) : Bool := (findGroup c.s c.w.group).any fun g => (findTile g n).any p
   let no (c : Ctx) (n : Fin 64) : Bool := (findGroup c.s c.w.group).any fun g => (findTile g n).isNone
   let s := tiled .empty .ready .ready
   let pair (c : Ctx) (n : Fin 64) (p : Tile × Tile → Bool) : Bool := c.w.drain == none && (findGroup c.s c.w.group).any fun g => (drainTiles g 0 n).any p
   meets (.tset false 0 .filling) s (fun c => tile c 0 fun x => x.busy == 0)
   && meets (.tset false 0 .filling) (busyTiles s) (fun c => tile c 0 fun x => x.busy != 0) && meets (.tset false 9 .empty) s (fun c => no c 9)
   && meets (.cinit false 2) s (fun c => tile c 2 fun x => tdKind x.desc == 2 && x.state == .ready && x.busy == 0)
   && meets (.cinit false 2) (busyTiles s) (fun c => tile c 2 fun x => tdKind x.desc == 2 && x.busy != 0)
   && meets (.cinit false 2) (tiled .empty .ready .filling) (fun c => tile c 2 fun x => tdKind x.desc == 2 && x.state != .ready)
   && meets (.cinit false 1) s (fun c => tile c 1 fun x => tdKind x.desc != 2) && meets (.cinit false 9) s (fun c => no c 9)
   && meets (.ckmode false 2#3) base (fun c => c.exec != 0)
   && meets (.cdrain false 0 2 .dth) s (fun c => pair c 2 fun z => z.2.state == .ready && z.2.busy == 0 && z.1.state == .empty && z.1.busy == 0)
   && meets (.cdrain false 0 2 .rne) (tiled .ready .ready .ready) (fun c => pair c 2 fun z => z.1.state != .empty)
   && meets (.cdrain false 0 1 .rne) s (fun c => c.w.drain == none && (findGroup c.s c.w.group).any fun g => (drainTiles g 0 1).isNone)
   && g0 s (fun g => (findTile g 2).any fun x => tdKind x.desc == 2)) = true := by decide +kernel

/-- The gang of waves 0 and 1 with tiles 0, 1, 2; those that have arrived. -/
def gangOp : MatOp := { sparse := false, ta := 0, tb := 1, tc := 2, j := 3, gang := 3 }
def arrival (k : BitVec 5) : Arrival := ⟨k, Lanes.of fun _ => 0, false⟩
def arrivals (n : Nat) : List Arrival := (List.range n).map fun k => arrival (BitVec.ofNat 5 k)

theorem wit_matrix_words :
  (let legal (c : Ctx) (p : Group → Bool) : Bool := (findGroup c.s c.w.group).any fun g =>
     decide (2 ≤ Mask.count c.w.gang) && decide (Mask.count c.w.gang ≤ 6) && c.w.gang.getLsbD c.w.index.toNat && decide (c.w.gang.toNat < 2 ^ g.waves) && p g
   let in' (gang : Word) (n : Nat) (rv : List (MatOp × List Arrival)) (tiles : Bool) : State :=
     modWave (modGroup (tiled .ready .ready .ready) 0 fun g => { g with waves := n, rendezvous := rv, tiles := if tiles then g.tiles else [] }) 0
       fun w => { w with gang := gang }
   let op (c : Ctx) (sp : Bool) (j : Fin 4) : MatOp := { sparse := sp, ta := 0, tb := 1, tc := 2, j := j, gang := c.w.gang }
   let joins (c : Ctx) (p : MatOp × List Arrival → Group → Bool) : Bool := legal c fun g =>
     (rendezvousOf g c.w.index).any fun z => (z.2.all fun y => y.index != c.w.index) && p z g
   let all (z : MatOp × List Arrival) (c : Ctx) : Bool := allArrived z.1 (z.2 ++ [arrival c.w.index])
   let seven : MatOp := { gangOp with gang := 7 }
   let i (j : Fin 4) : Instr := .mma false 0 1 2 j 15
   let one : List Arrival := [arrival 1]
   [Instr.mma false 0 1 2 0 15, .mmas true 63 1 2 3 0].all (fun x => meets x (in' 1 2 [] true) (fun c => (findGroup c.s c.w.group).any fun g => !gangOk g c.w)
     && meets x (in' 3 2 [({ gangOp with gang := 6 }, one)] true) fun c => legal c fun g => c.s.groups.length == 1
          && g.rendezvous.all fun y => !y.1.gang.getLsbD c.w.index.toNat && y.2.all fun v => v.index != c.w.index)
   && meets (i 3) (in' 7 3 [(seven, one)] true) (fun c => joins c fun z _ => z.1 == op c false 3 && !all z c)
   && meets (i 3) (in' 3 2 [(gangOp, one)] true) (fun c => joins c fun z g => z.1 == op c false 3 && all z c && (matTiles g (op c false 3)).isSome)
   && meets (i 3) (in' 3 2 [(gangOp, one)] false) (fun c => joins c fun z g => z.1 == op c false 3 && all z c && (matTiles g (op c false 3)).isNone)
   && [i 0, .mmas false 0 1 2 3 15].all (fun x => meets x (in' 3 2 [(gangOp, one)] true) fun c => joins c fun z _ => z.1 == gangOp)) = true := by
  decide +kernel

theorem wit_queue_words : [0, 3].all (fun n => (Eng.ofCode? n).isSome) = true ∧
  meets (.qbind false 7 0#3 3#3) base (fun c => ownsEngine c.s c.w.part c.die .copy 3 && (c.w.queues.get 7).bound == none && !qBusy (c.w.queues.get 7)) = true
  ∧ (let s (q : QReg) := modWave base 0 fun w => { w with queues := w.queues.set 0 q }
     meets (.qbind false 0 0#3 0#3) (s { QReg.unbound with bound := some (.copy, 0) }) (fun c => (c.w.queues.get 0).bound == some (.copy, 0))
     && meets (.qbind false 0 2#3 0#3) (s { QReg.unbound with bound := some (.copy, 0), done := [⟨0, false, 0, 0x1000, 1, 5, 0, false⟩] })
          fun c => (c.w.queues.get 0).bound == some (.copy, 0) && ownsEngine c.s c.w.part c.die .coll 0 && qBusy (c.w.queues.get 0)) = true
  ∧ meets (.qbind false 0 2#3 0#3) (modPart base 0 fun p => { p with desc := { p.desc with engines := 0 } })
      (fun c => (c.w.queues.get 0).bound != some (.coll, 0) && !ownsEngine c.s c.w.part c.die .coll 0) = true
  ∧ [Instr.qstat false false 7 (.v 1), .srd false false (.v 1) 0x22, .pcnt false false (.v 2) 0, .pcnt false false (.v 2) 0x22F].all (comes base) = true
  ∧ countsTime 1 = false ∧ countsTime 0 = true := by decide +kernel

theorem wit_special_writes :
  [0x03#8, 0x10, 0x11, 0x12, 0x20, 0x21].all (fun i => meets (.swr false (.v 0) i) base fun c => c.exec != 0 && laneList.all fun l => !spilled c.w l)
    = true
  ∧ [0x10#8, 0x11, 0x12].all (fun i => meets (.swr false (.v 0) i) (wave (lanes fun x => { x with depth := 1 })) fun c => spilled c.w 31) = true := by
  decide +kernel

/-- SRD of every listed index (R29), and SWR of each, come to their own operation. -/
theorem wit_special_words : (List.range 0x23).all (fun n => let i := BitVec.ofNat 8 n
  if (Instr.srd false false (.v 1) i).wellFormed then comes base (.srd false false (.v 1) i)
      && meets (.swr false (.v 0) i) base fun c => laneList.all fun l => !spilled c.w l
  else [0x02, 0x0E, 0x0F].contains n || 0x14 ≤ n) = true := by decide +kernel

theorem wit_trap_words :
  meets (.trap false 0x3FFF#14) base (fun c => c.exec != 0) = true
  ∧ meets (.bkpt false 0#14) base (fun c => !intercepts c.s c.w.part) = true
  ∧ meets (.bkpt false 0#14) (modPart base 0 fun p => { p with intercept := true }) (fun c => intercepts c.s c.w.part) = true
  ∧ meets (.rte false) (wave fun w => { w with h := true }) (fun c => c.w.h) = true
  ∧ meets (.rte false) base (fun c => !c.w.h) = true := by decide +kernel

/-- A second wave of the group, stopped, and its index in v0. -/
def two : State :=
  let s := wave (reg 0 fun _ => 1)
  { s with waves := s.waves ++ [{ setupWave 1 0 0 0 with index := 1, stopped := true, issue := none, place := some ⟨0, 0, 0, 1, false⟩ }] }
/-- A trace session of the partition. -/
def traced (s : State) : State := { s with sessions := [⟨0, false, 0, 2 ^ 20, none, [], 0, none, [], []⟩] }

theorem wit_debug_words :
  meets (.step false (.v 0)) two (fun c => !c.w.stepDone && (stepTarget c).any canStep) = true
  ∧ meets (.step false (.v 0)) (modWave two 0 fun w => { w with stepDone := true }) (fun c => c.w.stepDone) = true
  ∧ meets (.step false (.v 0)) (modWave two 1 (lanes fun x => { x with state := .parked .join }) |> fun s => modWave s 1 fun w => { w with run := none })
      (fun c => !c.w.stepDone && (stepTarget c).any fun w => !canStep w) = true
  ∧ meets (.step false (.v 0)) base (fun c => !c.w.stepDone && (stepTarget c).isNone) = true
  ∧ meets (.mark false false 0#14) (traced base) (fun c => c.w.waitMark == none && hasSession c.s c.w.part) = true
  ∧ meets (.mark false false 0#14) base (fun c => c.w.waitMark == none && !hasSession c.s c.w.part) = true
  ∧ meets (.mark false true 7#14) (traced base) (fun c => c.w.waitMark == none && hasSession c.s c.w.part) = true
  ∧ meets (.mark false true 7#14) base (fun c => c.w.waitMark == none && !hasSession c.s c.w.part && (findPart c.s c.w.part).isSome) = true
  ∧ meets (.mark false true 7#14) (wave fun w => { w with waitMark := some 1 }) (fun c => c.w.waitMark.any fun m => !markDone c.s c.w.part m) = true
  ∧ meets (.mark false true 7#14) (wave fun w => { w with waitMark := some 0 }) (fun c => c.w.waitMark.any (markDone c.s c.w.part)) = true := by
  decide +kernel

/-- v0 and v1 hold an address, v2 and v3 a control pair (R229). -/
def watching (a c : DWord) (on : Bool) : State :=
  modPart (wave fun w => reg 0 (fun _ => a.extractLsb' 0 32) (reg 1 (fun _ => a.extractLsb' 32 32)
    (reg 2 (fun _ => c.extractLsb' 0 32) (reg 3 (fun _ => c.extractLsb' 32 32) w)))) 0 fun p => { p with dieWatch := on }

theorem wit_watch_words :
  (let mine (sc : WScope) (n : Nat) (c : Ctx) : Bool := !slotTaken c sc n && (sc != .die || dieWatchOn c.s c.w.part)
   let good (sc : WScope) (c : Ctx) : Bool := controlOk sc (c.pair 1 c.top)
   let even (c : Ctx) : Bool := controlAligned (c.pair 0 c.top) (c.pair 1 c.top)
   [(WScope.thread, 1#5), (.group, 3), (.die, 15)].all (fun x =>
      meets (.wset false x.1 x.2 (.v 0) (.v 2)) (watching 0x4000 0x10000 true) (fun c => good x.1 c && even c && mine x.1 x.2.toNat c)
      && meets (.wset false x.1 x.2 (.v 0) (.v 2)) (watching 0x4000 0 true) (fun c => !good x.1 c)
      && meets (.wset false x.1 x.2 (.v 0) (.v 2)) (watching 0x4001 0x10200 true) (fun c => good x.1 c && !even c)
      && meets (.wclr false x.1 x.2) base (fun c => !slotTaken c x.1 x.2.toNat))
   && meets (.wset false .group 3 (.v 0) (.v 2)) (modCore (watching 0x4000 0x10000 true) 0 0 fun x => { x with watch := [none, none, none, some ⟨0, 0x10000, 9⟩] })
        (fun c => good .group c && even c && slotTaken c .group 3)
   && meets (.wset false .die 15 (.v 0) (.v 2)) (watching 0x4000 0x10000 false) (fun c => good .die c && even c && !dieWatchOn c.s c.w.part)
   && meets (.wclr false .group 3) (modCore base 0 0 fun x => { x with watch := [none, none, none, some ⟨0, 0x10000, 9⟩] }) (fun c => slotTaken c .group 3)) = true := by
  decide +kernel

/-! ### Events of a core: the conditions of the statements -/

/-- The wave has no run. -/
def idle : State := { wave (fun w => { w with run := none, issue := none }) with cur := none }

theorem wit_run_selection :
  ((slotWave base 0 0 0 0).any (fun w => w.hold == none)
   && (slotWave idle 0 0 0 1).isNone && (pickWave idle 0 0 0).isSome && idle.waves.all (fun v => v.lastRun ≤ idle.fresh)
   && w0 idle (fun w => w.issue == none && ready idle w && w.run == none && (minPc w (liveMask w)).isSome && w.spin < 64)
   && (let s := modWave idle 0 fun w => { w with spin := 64, lanes := w.lanes.set 31 { w.lanes.get 31 with pc := 0x1004 } }
       w0 s fun w => w.place == some ⟨0, 0, 0, 0, false⟩ && 64 ≤ w.spin && w.run == none && (pickWave s 0 0 0).any (fun v => v.id == 0)
        && (slotWave s 0 0 0 0).isNone && (laneOf w 31).state == .live && some (laneOf w 31).pc != minPc w (liveMask w))) = true := by decide +kernel

/-- A result for v95 of lane 31, known and not yet written. -/
def loaded : State := wave fun w => { w with pend :=
  [⟨none, some (95, 1), 0x1000, none, 0x80000000#32, Lanes.of fun _ => 7, 0, Clock.zero, false⟩] }
/-- Lane 3 waits at a semaphore, and its wake is on its way. -/
def parked : State :=
  { wave (fun w => { w with lanes := w.lanes.set 3 { w.lanes.get 3 with state := .parked .semaphore } }) with wakes := [⟨0, 3, Clock.zero⟩] }
/-- A hit of thread slot 1 waits. -/
def hit : State := modWave idle 0 fun w => { w with watchPend := [⟨.thread, 1, 1, 0x4000, 0x0FFC, 1, none⟩] }
/-- Every lane has exited. -/
def allGone : State := modWave idle 0 (lanes fun x => { x with state := .exited, pc := exitedPc })

theorem wit_results :
  (w0 loaded (fun w => (shadowOf loaded w.id).isNone && (match w.pend[0]? with
      | some p => p.flight == none && p.pred == none && p.dst == some (95, 1) && clockReaches loaded w p.clock
      | none => false) && 95 + 1 ≤ 32 * w.blks.toNat && decide (32 * w.blks.toNat ≤ 256) && !allExited w && w.joins.isEmpty)
   && w0 parked (fun w => (wakeFor parked 0 3).isSome && isParked (laneOf w 3).state && w.aside == none)
   && w0 hit (fun w => (watchDue hit w).isSome)
   && w0 allGone (fun w => readyToFinish w && !hasCommands w && badCompletion w == none)) = true := by decide +kernel

/-- A flight of the wave, from a die, of a kind. -/
def flying (die : Nat) (k : FlightKind) (left : Option (Nat × Clock)) (perf : Option Nat) (todo : List Nat) : Flight :=
  { id := 9, wave := 0, launch := 0, part := 0, die := die, core := 0, lane := 0, pc := 0x1000, exec := 1, ptr := 0x4000, byHandler := false, ia := 0x4000
    kind := k, counted := false, left := left, performed := perf, acked := false, todo := todo, issued := 9, atReplica := false }
def inFlight (f : Flight) (p : State → Bool) : Bool := let s := { base with flights := [f] }; (findFlight s 9).isSome && p s

theorem wit_flights :
  (let st : FlightKind := .store [1, 2]
   let at' (sc : Scope) : FlightKind := .atom (.i .add) sc [(0, 1, 0)] none
   let f1 := flying 1 st none none []
   let f0 := flying 0 st none none []
   let fp := flying 1 st (some (1, Clock.zero)) (some 0) [1, 2]
   inFlight f1 (fun s => isWrite f1 && mayLeave s f1)
   && inFlight f0 (fun s => isWrite f0 && !mayLeave s f0 && homeMay s f0 && (pageOf s f0.ia).any fun g =>
        physIn g f0.ia == 0x1000 && keyHere s g (physIn g f0.ia) && decide (f0.ia % 64 + 2 ≤ 64))
   && inFlight fp (fun s => applyMay s fp 1 && applyMay s fp 2 && ackMay s fp && !fp.counted)
   && inFlight { fp with counted := true } (fun s => ackMay s { fp with counted := true } && w0 s fun w => !allExited w && w.joins.isEmpty)
   && inFlight (flying 1 (at' .die) none none []) (fun s => !atomPoisoned s (flying 1 (at' .die) none none []) (.i .add) .die && atReplicaOf (flying 1 (at' .die) none none []) .die
        && replicaMay s (flying 1 (at' .die) none none []))
   && inFlight (flying 1 (at' .dev) none none []) (fun s => !atReplicaOf (flying 1 (at' .dev) none none []) .dev && mayLeave s (flying 1 (at' .dev) none none []))
   && inFlight (flying 0 (at' .die) none none []) (fun s => !atReplicaOf (flying 0 (at' .die) none none []) .die
        && !mayLeave s (flying 0 (at' .die) none none []) && homeMay s (flying 0 (at' .die) none none [])
        && !atomPoisoned s (flying 0 (at' .die) none none []) (.i .add) .die && (pageOf s 0x4000).any fun g => keyHere s g (physIn g 0x4000))
   && (let s : State := { base with fills := [(1, 0x100, 0)] }
       (s.fills.find? fun y => y.1 = 1 && y.2.1 = 0x100).isSome && clockCounts (clockOf s 1) (clockOf s (homeDie (64 * 0x100))))) = true := by decide +kernel

/-- Lane 4 holds colour 5, which lane 7 waits for; the release has been asked for. -/
def owned : State :=
  { wave (fun w => { w with release := [(4, 5)], lanes := w.lanes.set 4 { w.lanes.get 4 with held := [⟨5, 0, true, false⟩] } }) with
    campion := [⟨0, 5, ⟨0, 4, 0⟩, Clock.zero, [⟨0, 7, 0⟩]⟩] }
/-- A grant of colour 63 to lane 31 is on its way. -/
def granted : State := { base with grants := [⟨0, 31, 63, 0, Clock.zero⟩] }

theorem wit_monitors :
  ((findCampion base 0 5).isNone && (findCampion owned 0 5).isSome
   && w0 granted (fun w => (shadowOf granted w.id).isNone && (grantFor granted w.id 31).any (fun g => !(laneOf w 31).held.any fun h => h.colour == g.colour)
        && w.aside == none)
   && w0 owned (fun w => releaseMay owned w && w.release == [(4, 5)] && !allExited w
        && (findCampion owned (tenantOf owned w.part) 5).any fun e => e.owner.wave == w.id && e.owner.lane == 4)) = true := by decide +kernel

/-- The wave waits for a claim of n blocks. -/
def claiming (n : Nat) : State := modWave idle 0 fun w => { w with claim := some (n, 0) }
/-- The group is saved, and signalled. -/
def saved : State := signalGroup (saveGroup idle 0) 0
/-- The word at the PC reads v4, whose load missed the last-level cache. -/
def blocked : State := modWave (placeWord base 0x02001020#32) 0 fun w =>
  { w with pend := [⟨none, some (4, 1), 0x0FFC, none, 0xFFFFFFFF#32, Lanes.of fun _ => 7, 0, Clock.zero, true⟩] }
def scouting : State := modWave (enterScout blocked 0) 0 fun w => { w with run := none }

theorem wit_claims_saves_scout :
  (w0 (claiming 5) (fun w => w.place.any (fun p => 5 ≤ freeBlocks (claiming 5) p.die p.core p.quad
        && (quadClaims (claiming 5) p.die p.core p.quad).all fun x => 0 ≤ x.2.2) && w.claim == some (5, 0))
   && g0 (claiming 5) (fun g => saveable (claiming 5) g) && w0 (claiming 5) (fun w => !heldStopped w)
   && (let s := modGroup (claiming 5) 0 fun g => { g with place := none }
       g0 s fun g => g.place == none && groupFits s g)
   && (let s := modWave idle 0 (lanes fun x => { x with state := .parked .join })
       g0 s fun g => saveable s g && (wavesOf s g.id).all fun w => waiting s w)
   && g0 saved (fun g => (findPart saved g.part).any (fun p => (relaunchHead saved g.part).any (fun x => x.id == g.id)
        && (chooseCore saved p (needOf saved g) (launchDie saved g.launch) none g.clock).isSome) && saved.shadows.isEmpty
        && !saved.poisonCtx.contains g.id)
   && w0 blocked (fun w => (blockedAt blocked w).isSome && mayScout blocked w)
   && w0 scouting (fun w => w.run == none && (shadowOf scouting w.id).any fun h => scoutArrived scouting w h
        && match w.pend[0]? with
          | some p => p.flight == none && clockReaches scouting w p.clock && h.awaits.contains p.tick && !h.ending
          | none => false)) = true := by decide +kernel

/-! ### Arrays and engines: the conditions of the statements -/

theorem wit_gangs :
  (let at' (n : Nat) := modGroup (tiled .ready .ready .ready) 0 fun g => { g with rendezvous := [({ gangOp with gang := 12 }, []), (gangOp, arrivals n)] }
   let bad := modGroup (at' 2) 0 fun g => { g with tiles := [] }
   let busy := modGroup (tiled .ready .ready .ready) 0 fun g => { g with array := [(gangOp, arrivals 2)] }
   g0 (at' 2) (fun g => !gangGoes g ({ gangOp with gang := 12 }, []) && allArrived gangOp (arrivals 2) && g.place.isSome && (matTiles g gangOp).any tilesReady)
   && (at' 2).waves.all (fun w => w.aside == none && !allExited w && w.stepping == none)
   && ((wavesOf (at' 2) 0).find? fun v => v.index == 0).any (fun w => w0 (at' 2) (· == w) && (reformWave w).run.isSome)
   && g0 bad (fun g => allArrived gangOp (arrivals 2) && g.place.isSome && (matTiles g gangOp).isNone)
   && g0 (modGroup (at' 1) 0 fun g => { g with rendezvous := g.rendezvous.drop 1 }) (fun g => !allArrived gangOp (arrivals 1) && g.place.isSome && (wavesOf (at' 1) 0).all fun w => !w.stopped)
   && g0 busy (fun g => (matTiles g gangOp).any fun x => !matPoisoned busy g gangOp (arrivals 2) x.1 x.2.1 x.2.2)) = true := by decide +kernel

theorem wit_drain :
  (let s := modWave (tiled .filling .empty .draining) 0 fun w => { w with drain := some (0, 2, .dth, 5) }
   w0 s fun w => !allExited w && w.group == 0 && g0 s fun g => (findTile g 0).any fun x => (findTile g 2).any fun y =>
     !bufPoisoned s g.id 2 (tdBase y.desc) (tdBytes y.desc) && (tdFmtA x.desc).isSome && (drainCheck g y w.ckmode.toNat).isSome) = true := by decide +kernel

/-- A command of the words, pushed by lane 0 at 0x1000. -/
def command (ws : List Word) (st : CmdState) : Command := ⟨ws, 0, 0x1000, 0, 0, false, 3, st, 3, 0, 1, 0, 0⟩
/-- The command stands in q0, bound to an engine; the tiles have the given states. -/
def queued (e : Eng) (ws : List Word) (sa sc : TileState) : State := modWave (tiled sa .empty sc) 0 fun w =>
  { w with queues := w.queues.set 0 { QReg.unbound with bound := some (e, 0), cmds := [command ws .pushed] } }
/-- An engine may take the command, or would but for its tile. -/
def taken (op : Nat) (e : Eng) (ws : List Word) (sa sc : TileState) : Bool × Bool :=
  let s := queued e ws sa sc
  let c := command ws .pushed
  match findWave s 0, findGroup s 0 with
  | some w, some g =>
    let takes := nextCommand (w.queues.get 0) == some c && !w.finished && !markHolds s w.part && c.op == op && commandOk g (w.queues.get 0).bound c
    (takes && tileOk g c && commandMay s ⟨w, g, 0, c⟩, takes && !tileOk g c)
  | _, _ => (false, false)

theorem wit_commands : [
    (1, Eng.copy, [0x5701, 0x4000, 0, 0x5000, 0, 256, 1, 0#32], TileState.empty, TileState.empty),
    (2, .copy, [0x5302, 0x4000, 0, 0], .empty, .empty), (3, .copy, [0x5303, 0x4000, 0, 1], .empty, .empty),
    (4, .copy, [0x5304, 0, 0x5000, 0], .ready, .empty), (16, .gather, [0x5610, 0x4000, 0, 0x5000, 0, 0x00400080, 0], .empty, .empty),
    (32, .coll, [0x5520, 0x4000, 0, 64, 0x5000, 0], .empty, .empty), (33, .coll, [0x5521, 0x4000, 0, 0x05000010, 0x5000, 0], .empty, .empty),
    (48, .drain, [0x5430, 2, 0x5000, 0, 128], .empty, .ready)].all (fun x => (taken x.1 x.2.1 x.2.2.1 x.2.2.2.1 x.2.2.2.2).1) = true := by decide +kernel

theorem wit_rejected : [
    (2, Eng.copy, [0x5302, 0x4000, 0, 0#32], TileState.ready, TileState.empty), (3, .copy, [0x5303, 0x4000, 0, 63], .ready, .empty),
    (4, .copy, [0x5304, 0, 0x5000, 0], .empty, .empty), (16, .gather, [0x5610, 0x4000, 0, 0x5000, 0, 0x00400080, 0], .ready, .empty),
    (48, .drain, [0x5430, 2, 0x5000, 0, 128], .empty, .empty)].all (fun x => (taken x.1 x.2.1 x.2.2.1 x.2.2.2.1 x.2.2.2.2).2) = true := by decide +kernel

/-- A copy from a place that is mapped to another, from one that is not, and to one that is not. -/
theorem wit_command_sides :
  (let at' (a b : Word) : Option Eng1 := match findWave base 0, findGroup base 0 with
     | some w, some g => some ⟨w, g, 0, command [0x5701, a, 0, b, 0, 256, 1, 0] .pushed⟩
     | _, _ => none
   (at' 0x4000 0x5000).any (fun x => (firstBad base x (sources x)).isNone && (firstBad base x (destinations x)).isNone
        && meetsError base x == none)
   && (let s : State := { base with poisonMem := [0x1000 / 64] }
       (at' 0x4000 0x5000).any fun x => (firstBad s x (sources x)).isNone && (firstBad s x (destinations x)).isNone && (meetsError s x).isSome)
   && (at' 0x10000 0x5000).any (fun x => (firstBad base x (sources x)).isSome)
   && (at' 0x4000 0x10000).any (fun x => (firstBad base x (sources x)).isNone && (firstBad base x (destinations x)).isSome)) = true := by decide +kernel

/-- A command that its engine has taken; n completions wait; the word at the PC pushes to q0. -/
def pushing (nc : Bool) (n : Nat) (em : List (List (Nat × Nat × Nat))) : State :=
  let done : Completion := ⟨0, false, 0, 0x1000, 1, 5, 0, false⟩
  modWave (placeWord base 0x08E01006#32) 0 fun w => { w with
    hold := some .engineQueue
    queues := w.queues.set 0
      { bound := some (.copy, 0)
        part := some (command (0x5701 :: List.replicate 6 0) .pushed)
        cmds := command [if nc then 0xD701 else 0x5701, 0x4000, 0, 0x5000, 0, 256, 1, 0] .accepted
          :: List.replicate 6 (command (List.replicate 8 0x5701) .pushed)
        done := List.replicate (min n 16) done ++ List.replicate (n - 16) ⟨0, false, 0, 0x1000, 1, 5, 0, true⟩
        emergency := em } }

/-- Page 1, at 0x10000, is remote memory, an endpoint of its own. -/
def remote (s : State) : State :=
  { modPart s 0 (fun p =>
      { p with ranges := p.ranges.set 1 { v := true, rp := true, wp := true, xp := false, remote := true, vbase := 1, vlast := 1, iabase := 0x800000000 } })
    with remotes := [(0, 0, ⟨true, true, true, 9, BitVec.ofNat 52 (2 ^ 51), 0xFFFF, 0⟩)] }

/-- What an engine runs: a command of one wave, its words, its tiles. -/
def engined (s : State) (ws : List Word) (p : Eng1 → Bool) : Bool :=
  match findWave s 0, findGroup s 0 with
  | some w, some g => p ⟨w, g, 0, command ws .pushed⟩
  | _, _ => false

theorem wit_collective :
  (let two (a b : Word) : List Word := [0x5720, 0x4000, 0, 64, a, 0, b, 0]
   let free (s : State) (x : Eng1) : Bool := (firstBad s x (sources x)).isNone && meetsError s x == none
   let bad (s : State) (x : Eng1) : List Bool := (destinations x).map fun d => (sideStatus s x.w x.c.lane d).isSome
   let plain (s : State) (x : Eng1) : Bool := free s x && (destinations x).all fun d => (sideColour s x.w x.c.lane d).isNone
   let owned := homeMeta base 0 0 0x5000 (metaColour · 5)
   engined base (two 0x5000 0x6000) (fun x => plain base x && bad base x == [false, false])
   && engined base (two 0x5000 0x20000) (fun x => plain base x && bad base x == [false, true])
   && engined base (two 0x20000 0x30000) (fun x => plain base x && bad base x == [true, true])
   && engined owned (two 0x20000 0x5000) (fun x => free owned x && ((destinations x).findSome? (sideColour owned x.w x.c.lane)).isSome)
   && engined base (two 0x5000 0x6000 |>.set 1 0x20000) (fun x => (firstBad base x (sources x)).isSome)) = true := by decide +kernel

theorem wit_engine_work :
  (let s := tiled .ready .empty .empty
   let ga : List Word := [0x5610, 0x4000, 0, 0x5000, 0, 0x00020080, 0]
   let r := remote base
   engined s [0x5304, 0, 0x5000, 0] (fun x => (firstBad s x (destinations x)).isNone && meetsError s x == none
      && x.g.tiles.head?.any fun y => !bufPoisoned s x.g.id 0 (tdBase y.desc) (tdBytes y.desc))
   && engined s ga (fun x => let q := gatherIndex s x
      (firstBad s x (sources x)).isNone && meetsError s x == none && (firstBad q.2 x (rowSides x.c q.1)).isNone
        && (struckIn q.2 x.w x.c.die (rowSides x.c q.1) (rowSides x.c q.1)).isNone && q.1 == [0, 0])
   && engined r ga (fun x => (locate r x.w.part 0x4000).any (fun p => p.remote.isNone && (pageOf r p.ia).any fun g => keyHere r g (physIn g p.ia))
        && (locate r x.w.part 0x10000).any (fun p => p.remote.isSome) && (wholeRemote r x.w.part 0x10000 64).isSome
        && (wholeRemote r x.w.part 0x4000 64).isNone && (wholeRemote r x.w.part 0x1FFC0 65).isNone)) = true := by decide +kernel

theorem wit_completions :
  (w0 (pushing false 15 []) (fun w => match (w.queues.get 0).cmds.head? with
      | some c => c.state == .accepted && !w.finished && !allExited w && delivers c && completionRoom (w.queues.get 0)
          && engineReleased (pushing false 15 []) w.id c.die && g0 (pushing false 15 []) (fun g => !g.finished)
      | none => false)
   && w0 (pushing true 16 []) (fun w => match (w.queues.get 0).cmds.head? with
      | some c => c.state == .accepted && !w.finished && !delivers c && engineReleased (pushing true 16 []) w.id c.die
      | none => false)
   && (let l : List (Nat × Nat × Nat) := [(0, 0, 0), (2, 0, 0), (1, 0, 0)]
       [(16, []), (17, [l])].all fun x =>
         let s := pushing false x.1 x.2
         w0 s fun w => w.run.isSome && !w.finished && blockedOn s w == some (0, w.id, 0) && blockedCompletion (w.queues.get 0))
   && w0 base (fun w => originOf base w 0 == none)) = true := by decide +kernel

/-! ### Work and the outside: the conditions of the statements -/

/-- A launch record (R319): one block, four contexts, a pool of 16 records at 0x4000. -/
def record : BitVec 1024 := 0x1#1024 <<< 168 ||| 0x4#1024 <<< 640 ||| 0x4000#1024 <<< 320 ||| 0x10#1024 <<< 384
/-- A launch queue of tenant 0. -/
def queue (tail : Word) (task : Bool) : Queue :=
  { n := 0, desc := ⟨true, task, 0, 0, 4, 0x8000, 0xC000⟩, tail := tail, start := 0, head := 0, done := [], after := [], origins := [], void := []
    emergency := [], reserved := [], turn := 0 }
/-- The launch has a second group, and pool records. -/
def working : State := { base with
  launches := base.launches.map fun l => { l with record := record, groups := 2, next := 1, poolTail := 3 }
  queues := [queue 1 false] }
/-- The task group has finished; its successor counts 2. -/
def finishedTask : State := { group (fun g => { g with finished := true, task := true, succ := 0x4000 }) with mem := [(0x1000, 2)] }
/-- A bucket of n records on core 0 of die 0. -/
def bucket (n : Nat) (forming : Bool) : State := modCore base 0 0 fun c => { c with buckets := [⟨0, 0x3000, List.replicate n 0x3000, forming, 0, Clock.zero⟩] }

theorem wit_dispatch :
  ((dispatchNext working 0).isSome
   && (findPart working 0).any (fun p => (findLaunch working 0).any fun l => l.started && decide (l.after ≤ p.inboundDone) && decide (l.next < l.groups)
        && (freeContexts working l.id 0 (lrCtxN l.record) (lrWaves l.record)).isSome
        && (chooseCore working p (freshNeed (lrWaves l.record) (lrBlocks l.record) (lrAbuf l.record) (lrWbuf l.record) (lrCbuf l.record)) 0 none l.clock).isSome)
   && (finishTask finishedTask 0).isSome
   && g0 finishedTask (fun g => g.finished && g.task && g.succ != 0 && g.appending == none && (lastWave finishedTask 0).any fun w =>
        match verdictWord finishedTask w g.succ 4, verdictWord finishedTask w (g.succ + 64) 64 with
        | .ok p, .ok _ => clockCounts (clockOf finishedTask (homeDie p.ia)) (clockOf finishedTask (finishPlace g p.ia).1)
            && (finishedTask.groups.filter fun y => y.appending.isSome && (y.place.map (·.1)) = (g.place.map (·.1))).length < 256
            && counterWord finishedTask p.ia == 1 + 1
        | _, _ => false)) = true := by decide +kernel

theorem wit_first_group :
  (let s : State := { working with queues := [{ queue 1 false with after := [(0, 0)] }] }
   s.queues.all (fun q => q.desc.v && !q.desc.task && q.start != q.tail && (replayed s q).isNone
      && (s.launches.find? fun y => y.id == launchId q.n q.start && !y.reported).any fun l => l.state == .running && decide (l.next < l.groups)
          && (placeNext s (q.n % 4) q l).isSome)) = true := by decide +kernel

/-- The successor of the finished task counts 1, and names queue 5; its record, at 0x4040, is of one wave and one block. -/
def lastCount (n : Byte) (q : Byte) : State :=
  { tasks with groups := finishedTask.groups, mem := [(0x1000, n), (0x1004, q), (0x1061, 1)] }

theorem wit_successor :
  (let ready (s : State) (p : Group → Spot → Spot → Bool) : Bool := g0 s fun g =>
     g.finished && g.task && g.succ != 0 && g.appending == none && (lastWave s g.id).any fun w =>
       match verdictWord s w g.succ 4, verdictWord s w (g.succ + 64) 64 with
       | .ok a, .ok r => clockCounts (clockOf s (homeDie a.ia)) (clockOf s (finishPlace g a.ia).1)
           && (s.groups.filter fun y => y.appending.isSome && (y.place.map (·.1)) = (g.place.map (·.1))).length < 256 && p g a r
       | _, _ => false
   let at0 (s : State) (g : Group) (a r : Spot) (p : State → Nat → Nat → Bool) : Bool := counterWord s a.ia == 1 && (lastWave s g.id).any fun w =>
     let t := wakeJoins (counterWrite s (finishPlace g a.ia).1 w 0 exitedPc 0 g.succ a.ia 0) a.ia
     !memPoisoned t a.ia 64 && !memPoisoned t r.ia 64 && p t (homeRead t a.ia 64) (homeRead t r.ia 64)
   let good (s : State) (g : Group) (e x : Nat) : Bool := bitsOf e 44 468 == 0 && (findLaunch s g.launch).any fun l => trOk (widB1 (lrWidf l.record)) x
   ready (lastCount 2 5) (fun _ a _ => counterWord (lastCount 2 5) a.ia == 2)
   && ready (lastCount 1 5) (fun g a r => at0 (lastCount 1 5) g a r fun t e x => good t g e x
        && (taskQueue t (bitsOf e 32 12) (tenantOf (lastCount 1 5) g.part)).any fun q => !queueFull q)
   && ready (lastCount 1 6) (fun g a r => at0 (lastCount 1 6) g a r fun t e _ => (taskQueue t (bitsOf e 32 12) (tenantOf (lastCount 1 6) g.part)).isNone)
   && (let s := modGroup (lastCount 1 5) 0 fun g => { g with succ := 0, appending := some (5, 0) }
       g0 s fun g => g.appending.any fun x => (taskQueue s x.1 (tenantOf s g.part)).any fun q => !queueFull q)) = true := by decide +kernel

theorem wit_buckets :
  ([32, 1].all (fun n => (coreAt (bucket n false) 0 0).buckets.any fun b => !b.forming && b.recs.length == n)
   && (coreAt (bucket 2 true) 0 0).buckets.any (fun b => b.forming && (findLaunch (bucket 2 true) b.launch).any fun l =>
        (findPart (bucket 2 true) l.part).any fun p => (coresOf p).contains (0, 0) && startReady (bucket 2 true) 0 Clock.zero
          && (cloverQuad (bucket 2 true) 0 0).isSome && (bucket 2 true).waves.all fun v => v.id < (bucket 2 true).fresh)
   && (findLaunch working 0).any (fun l => (findPart working l.part).any fun p => l.state == .running && l.poolHead != l.poolTail
        && (coresOf p).contains (0, 3) && (poolIa working l l.poolHead).any fun ia => !memPoisoned working ia 64
          && gathererRoom (coreAt working 0 3) l.id (srEntry (BitVec.ofNat 512 (homeRead working ia 64)))
          && srOk (BitVec.ofNat 512 (homeRead working ia 64)))) = true := by decide +kernel

def header : SendHeader := ⟨7, 1, 2, 3, 0, false⟩
/-- A launch packet for a queue, in the partition of number p. -/
def packet (q p len : Nat) (job : BitVec 24) : Packet := ⟨15, job, 0, header, len, BitVec.ofNat 1088 (q * 2 ^ 1024 + p * 2 ^ 224)⟩
/-- The tenant may use queue 0 and partition 0. -/
def receiving (s : State) : State :=
  putBitmap { s with tenants := s.tenants.set 0 { v := true, keyix := 1, job := 0, sdi := 0, parts := 1, qmap := 2 ^ 40 } } (2 ^ 40) 1
def answers (s : State) (p : Packet) (n : Nat) : Bool := match packetCheck s p with | .error m => m == n | .ok _ => false

theorem wit_packets :
  (answers (receiving working) (packet 0 0 135 0) 6 && answers (receiving working) (packet 0 0 136 1) 1 && answers (receiving working) (packet 1 0 136 0) 2
   && answers (receiving working) (packet 0 1 136 0) 3 && answers (receiving { working with queues := [queue 0 true] }) (packet 0 0 136 0) 4
   && answers (receiving { working with queues := [queue 16 false] }) (packet 0 0 136 0) 5
   && (match packetCheck (receiving working) (packet 0 0 136 0) with | .ok (some _) => true | _ => false)
   && portUp working 15 && !portUp { working with ioDead := [1] } 8 && (tenantOfJob working 1 0).isNone && bitsOf (packet 0 0 136 1).bytes.toNat 1036 52 == 0) = true := by decide +kernel

theorem wit_inbound :
  (let x (ia : BitVec 52) (d : List Byte) (n : Nat) : Inbound := ⟨3, 0, 0, header, ia, d, n⟩
   !keySeen base header && keySeen { base with keys := [header] } header && !keySeen { base with keys := [{ header with spn := true }] } header
   && inboundStatus base (x 0x4000 [1] 0) true == 0 && inboundStatus base (x 0x4000 [] 64) false == 0 && (windowOwner base 0x4000).isSome
   && inboundStatus base (x 0x1000000000 [1] 0) true == 8 + 1 && inboundStatus pageAbsent (x 0x10000 [] 64) false == 3 + 1
   && portUp base 3 && inboundWaits (modPart base 0 fun p => { p with inbound := [x 0x4000 [1] 0] }) header && !inboundWaits base header
   && decide (BadPacket.rudi ≠ .atomic)) = true := by decide +kernel

/-- A mark of the partition is due. -/
def due : State := { idle with parts := idle.parts.map fun p => { p with markDue := true } }
/-- The mark of the due state. -/
def marked : State := match exec (.checkpointMark 0) due with | .next t => t | .fault _ | .refused _ => due
/-- The mark has committed, with the group saved. -/
def committed : State :=
  { marked with parts := marked.parts.map fun p => { p with committed := true }
                images := marked.images.map fun i => { i with groups := i.groups.map fun g => { g with place := none } } }

theorem wit_marks :
  ((findPart due 0).any (fun p => markMay due p && p.inbound.isEmpty && due.shadows.isEmpty && due.sessions.isEmpty)
   && (findPart marked 0).any (fun p => !p.committed && marked.queues.isEmpty && p.mark == 1)
   && (findPart committed 0).any (fun p => (committedImage committed p).any fun i => i.mark == 1 && i.groups.all fun g => g.place == none)
   && (let s := { marked with parts := marked.parts.map fun p => { p with committed := true } }
       s.shadows.isEmpty && (findPart s 0).any fun p => (committedImage s p).any fun i => i.groups.any fun g => g.place.isSome)
   && (findPart marked 0).any (fun p => marked.sessions.isEmpty && !p.committed)
   && !base.fences.contains (.peer 0 9)) = true := by
  decide +kernel

/-- The launch's replays, and the mark that it may start again from. -/
def ending (snap : Bool) (n : Nat) (replay : Bool) : State :=
  { base with launches := base.launches.map fun l =>
      { l with replays := n, replay := replay, state := if replay then .faulted .uncorrectable else .running
               snapshot := if snap then some default else none } }

theorem wit_ends :
  ([ending false 0 false, ending true 2 false, ending true 0 false].all (fun s => (findLaunch s 0).any fun l => l.state == .running && !l.replay
      && s.shadows.isEmpty && s.groups.any (fun g => g.launch == l.id) && (findPart s l.part).isSome)
   && (findLaunch (ending true 2 false) 0).any (fun l => l.snapshot.isSome && decide (2 ≤ l.replays))
   && (findLaunch (ending true 0 false) 0).any (fun l => l.snapshot.isSome && decide (l.replays < 2))
   && (findLaunch (ending true 0 true) 0).any (fun l => l.replay)
   && idle.waves.any (fun w => w.launch == 0 && !midRun w) && idle.shadows.isEmpty) = true := by decide +kernel

theorem wit_fences :
  (let one : State := { State.reset with fences := [.router 0] }
   [FenceId.portLink 15, .boundaryLink 3 7, .router 3, .peer 63 9].all (fun f => !base.fences.contains f && base.sessions.isEmpty && partExists f)
   && !partExists (.portLink 16) && !partExists (.boundaryLink 4 0) && !partExists (.boundaryLink 0 8) && !partExists (.router 4)
   && !diesSplit base && !diesSplit (fence base (.router 3)) && !diesSplit one && diesSplit { one with fences := [.router 0, .router 3] }
   && one.parts.isEmpty && one.sessions.isEmpty && !one.fences.contains (.router 3)
   && ({ base with fences := [.peer 0 9] } : State).fences.contains (.peer 0 9)) = true := by decide +kernel

/-! ### Sweolo: the conditions of the statements -/

/-- A SKID record's header and body by the layouts of R389 and R390: TYPE 4 at bit 0, PART at 16, TIME at 32, LAUNCH at 96, PC at
256; COUNT at bit 320, CUT at 326, the first PC at 384, the stop PC at 448. -/
theorem test_recordBits : recordBits 3 9 ⟨4, 0, false, false, true, 5, 6, 1, 0x2224, none, 5 + 2 ^ 6 + 0x2210 * 2 ^ 64 + 0x2224 * 2 ^ 128⟩ =
    BitVec.ofNat 1536 (4 + 2 ^ 13 + 3 * 2 ^ 16 + 9 * 2 ^ 32 + 5 * 2 ^ 96 + 6 * 2 ^ 160 + 2 ^ 224 + 0x2224 * 2 ^ 256
      + 5 * 2 ^ 320 + 2 ^ 326 + 0x2210 * 2 ^ 384 + 0x2224 * 2 ^ 448) := by decide +kernel

/-- A stop cuts the run of a wave that holds its slot, and leaves one that waits where it stands (R394). -/
theorem test_haltWave : ((base.waves.map fun w => (haltWave { w with issue := some 0 }).run.map (·.cut)),
    (base.waves.map fun w => (haltWave { w with issue := none, hold := some .monitor }).run.map (·.cut))) = ([some true], [some false]) := by
  decide +kernel

/-- A signature is 4,627 bytes (R383). -/
theorem test_signature (n : Nat) : (signature n).length = 4627 := by simp [signature]

/-- No group is resident. -/
def empty : State := { base with groups := [], waves := [], cur := none }

theorem wit_tables :
  (let r : RemoteEntry := ⟨true, true, true, 9, BitVec.ofNat 52 (2 ^ 51), 0xFFF, 0⟩
   let t : TenantEntry := { v := true, keyix := 255, job := 1, sdi := 1, parts := 0, qmap := 0 }
   let q : QueueDesc := ⟨true, true, 7, 0, 20, BitVec.ofNat 52 (128 * 2 ^ 20), 0⟩
   quotaSum base 255 63 + 16384 ≤ 16384 && quotaSum { base with quotas := [(0, 255, 16000)] } 255 63 + 384 ≤ 16384
   && r.v && decide (2 ^ 51 ≤ r.iabase.toNat) && r.iabase.toNat % 4096 == 0 && !tenantResident empty 0
   && t.v && t.keyix != 0 && t.job != empty.sweolo.job
   && [63, 0].all (fun n => (List.finRange 64).all fun k => k.val == n || !(empty.tenants.get k).v || (empty.tenants.get k).keyix != t.keyix)
   && (empty.tenants.get 0).v && (empty.tenants.get 0).keyix != t.keyix && !(empty.tenants.get 63).v
   && tenantFrame (receiving { empty with frames := empty.frames.set 0 1 }) 0 0x1000
   && q.v && decide (4 ≤ q.log2n.toNat) && decide (q.log2n.toNat ≤ 20) && q.base.toNat % (128 * 2 ^ q.log2n.toNat) == 0 && !tenantResident empty q.tenant.toNat
   && (findQueue empty 4095).isNone && (findQueue { empty with queues := [queue 0 false] } 0).any (fun x => !tenantResident empty x.desc.tenant.toNat)
   && (findPart empty 0).isSome && !anyResident empty 0 && (empty.windows.find? fun x => x.1 = 4095).isNone) = true := by decide +kernel

theorem wit_partition_tables :
  (let d : PartDesc := { (setupPart 0 0 0).desc with savei := 1000, marki := 500, clusters := 2, owned := 2, channels := 0, engines := 0 }
   let u : PartDesc := { d with v := false }
   let r : RangeReg := { v := true, rp := true, wp := false, xp := false, remote := false, vbase := 1, vlast := 1, iabase := 1 }
   (findPart empty 0).any (fun p => rangeOk empty p 15 r && descOk empty p.n d && d.v) && !anyResident empty 0
   && descOk empty 63 d && (findPart empty 63).isNone
   && [0, 63].all (fun n => descOk empty n u && empty.groups.all fun g => g.part != n)
   && (attempt base (.rangeRegisterWrite 0 15 r)).isNone) = true := by decide +kernel

/-- A second partition, which borrows or lends clusters. -/
def lending : State := { empty with parts := empty.parts.map (fun p => { p with desc := { p.desc with clusters := 3, owned := 3 } }) ++
  [{ setupPart 5 0 0 with desc := { (setupPart 5 0 0).desc with clusters := 4, owned := 4, channels := 0, engines := 0 } }] }
def lent : State := { lending with loans := [(63, 0, 5)] }
/-- The pages of die 0's walker. -/
def asking : State := modDie pageAbsent 0 fun d => { d with pages := [(0x10000, 3, 0)] }

theorem wit_pages :
  ((findPart pageAbsent 0).any (fun p => 0x10000 % pageBytes 3 == 0 && (windowOwner pageAbsent 0x10000).any (fun x => x.1 == p.n) && pageAbsent.flights.isEmpty
      && (ownPage pageAbsent p.n 0x10000).any fun g => !g.leaf.res && decide (0x10000 + 64 ≤ g.base + pageBytes g.leaf.level)
        && keyHere pageAbsent g (physIn g 0x10000))
   && (findPart asking 0).any (fun p => (unringed asking p).isSome && ringRoom p)
   && (findPart lending 0).any (fun p => (findPart lending 5).any fun b => b.n != p.n && b.desc.v && p.desc.owned.getLsbD 1 && p.desc.clusters.getLsbD 1
        && clusterSaveable lending 1 && lending.cores.isEmpty)
   && (findPart lent 0).any (fun p => (findPart lent 5).any fun b => b.n != p.n && b.committed
        && (lent.loans.find? fun x => x.1 = 63 && x.2.1 = p.n) == some (63, p.n, b.n))) = true := by decide +kernel

theorem wit_stops :
  (let s (f : Wave → Wave) : State := modWave idle 0 fun w => f { w with stopped := true }
   let q : StopReq := ⟨2, 0, 0, 0, 0, false, 0, 0, []⟩
   ({ base with stops := [q] } : State).stops[0]? == some q && !stopping base 3 15
   && w0 (s id) (fun w => w.stopped && !w.h && !w.finished && w.stepping == none && canStep w && (shadowOf (s id) w.id).isNone)
   && w0 (s (lanes fun x => { x with state := .exited })) (fun w => w.stopped && !w.h && !w.finished && w.stepping == none && !canStep w)) = true := by
  decide +kernel

/-- A wave that is dumped, not in scout and in scout. -/
theorem wit_dump : w0 base (fun w => (dumpOf base w.id).isSome && (findGroup base w.group).isSome && (shadowOf base w.id).isNone) = true
    ∧ w0 scouting (fun w => (dumpOf scouting w.id).isSome && (shadowOf scouting w.id).isSome) = true := by decide +kernel

/-- A session of the base state that has some records, and has lost some. -/
def session (recs : List TraceRec) (lost : Nat) : Session := ⟨0, false, 0, 2 ^ 20, some 20, recs, lost, none, [], []⟩

theorem wit_trace :
  (let x := session [] 0
   let s : State := { base with sessions := [x] }
   let r := sampleRecord s 0 3 0
   let used (l : List TraceRec) : Nat := l.foldl (fun n y => n + recBytes y) 0
   (findPart base 0).isSome && (findPart base 9).isNone && (findSession base 0).isNone && (findSession s 0).any (fun y => y.lock == none && y.locked.isEmpty && y.sample.isEmpty)
   && decide (used [] + recBytes r ≤ 2 ^ 20) && (session [r] 3).lost == 3 && decide (used [r] + recBytes r + 64 ≤ 2 ^ 20)
   && decide (({ session [r] 0 with bytes := 64 } : Session).bytes < used [r] + recBytes r)
   && (findPart s x.part).any (fun p => p.desc.clusters.getLsbD (16 * 0 + 3 / 4)) && x.period == some 20) = true := by decide +kernel

theorem wit_clocks :
  (let s : State := { base with sessions := [session [] 0] }
   let low : State := modDie s 0 fun d => { d with limit := 2 }
   let locked : State := modDie { s with sessions := [{ session [] 0 with lock := some 3, locked := [0] }] } 0 fun d => { d with lock := some 3 }
   let broken : State := modDie locked 0 fun d => { d with broken := true }
   let hot : Forecast := ⟨Vector.replicate 8 900, Vector.replicate 8 105, Vector.replicate 8 true⟩
   let mild : Forecast := { hot with celsius := Vector.ofFn fun k => 85 + 5 * k.val }
   (findPart s 0).isSome && (diesOf s 0).contains 0 && !(dieAt s 0).broken && decide ((7 : Fin 8) ≤ (dieAt s 0).limit) && decide ((dieAt low 0).limit < 3)
   && causeHolds s hot .temperature (dieAt s 0).point && causeHolds locked mild .sweolo 3 && !causeHolds s mild .temperature 3
   && (List.finRange 8).all (fun k => !withinLimits s hot k) && withinLimits s mild 3 && !withinLimits s mild 4
   && (dieAt broken 0).lock == some 3 && (dieAt broken 0).broken && locked.sessions.head?.any (fun x => x.locked.contains 0)
   && (dieAt s 0).lock == none && (dieAt locked 0).lock.isSome) = true := by decide +kernel

theorem wit_module :
  (let good : Image := ⟨1, 9, 0, true⟩
   let fw := base.sweolo.firmware
   let none2 := { fw with a := Vector.replicate 3 none, b := Vector.replicate 3 none }
   decide (1200 ≤ Config.powerLimit) && (List.finRange 3).all (fun k => (bootImage fw k).isSome)
   && failingStep fw ⟨false, []⟩ == none && failingStep fw ⟨true, []⟩ == some 2 && (bootImage none2 2).isNone && (failingStep none2 ⟨false, []⟩).isSome
   && shutsDown (.dieTemp 0 115) && !shutsDown (.dieTemp 0 114)
   && good.sigOk && !fw.revoked.get good.root && decide ((fw.counters.get good.which).val ≤ good.version)
   && base.ioDead.isEmpty && ({ base with ioDead := [1] } : State).ioDead.contains 1) = true := by decide +kernel

/-! ### The machine as a whole: the conditions of the statements -/

theorem wit_encoded : (integerWords ++ pairWords ++ compareWords ++ floatWords ++ laneWords ++ controlWords ++ memoryWords ++ syncWords ++ matrixWords
    ++ systemWords).all (fun x => x.2.wellFormed && x.2.shape.isSome && encode x.2 == some (BitVec.ofNat 32 x.1)) = true := by decide +kernel

theorem wit_reserved_majors : ((0x7E000000#32).extractLsb' 25 6 = 0x3F#6) ∧ ((0#32).extractLsb' 25 6 = 0#6) := by decide

/-- What the wave that issues next fetches. -/
def fetches (s : State) (p : State → Wave → Run → Fetched → Bool) : Bool :=
  s.agenda.isEmpty && !halted s && match current s with
    | some (w, r) => (shadowOf s w.id).isNone && p s w r (fetchAt s w r.pc)
    | none => false

theorem wit_steps :
  (fetches (placeWord State.reset 0x48000002#32) (fun _ _ _ f => match f with
      | .word _ x => (match decode x with | .ok i => i == .nop false | .error _ => false)
      | _ => false)
   && fetches (placeWord State.reset 0) (fun _ _ _ f => match f with
      | .word _ x => (match decode x with | .ok _ => false | .error _ => true)
      | _ => false)
   && fetches (wave fun w => { w with run := w.run.map fun r => { r with pc := 0x10000 } }) (fun _ _ _ f => match f with | .trap _ => true | _ => false)
   && fetches (modWave pageAbsent 0 fun w => { w with run := w.run.map fun r => { r with pc := 0x10000 } }) (fun _ _ _ f => match f with | .absent _ => true | _ => false)
   && fetches (let s := placeWord State.reset 0; { s with poisonMem := [(physOf s 0x1000).getD 0 / 64] }) (fun _ _ _ f => match f with | .poison _ => true | _ => false)
   && !halted { base with agenda := [.waveAge 0] } && (Instr.waveAge 0).shape.isNone
   && idle.agenda.isEmpty && !halted idle && (current idle).isNone && (nextEvent idle).isSome) = true := by decide +kernel

/-- A canonical state has a step to a next state. -/
theorem wit_canonical_step : Canon base ∧ (match step base with | .next _ => true | .fault _ | .refused _ => false) = true :=
  ⟨⟨by decide +kernel, by intro i hi; cases hi⟩, by decide +kernel⟩

theorem wit_word_checks :
  (let reads (s : State) (i : Instr) (t : Option Trap) : Bool := match current s, i.shape with
     | some (w, r), some sh => (shadowOf s w.id).isNone && (if i.wellFormed = false then some Trap.illegalOp else if outsideWindow w sh then some .window
        else if badLatch r sh then some .illegalLatch else none) == t
     | _, _ => false
   reads base (.addS64 false false (.v 1) (.v 2) (.v 4)) (some .illegalOp)
   && reads (wave fun w => { w with blks := 1 }) (.ld false false (.v 32) (.v 0) 0 .b32) (some .window)
   && reads (wave fun w => { w with blks := 1 }) (.addS32 false false (.v 31) (.v 0) (.v 31)) none
   && reads base (.addS32 false false (.v 0) (.b 0) (.v 1)) (some .illegalLatch)) = true := by decide +kernel

theorem wit_word_sources :
  meets (.addS32 false false (.v 0) (.v 95) (.g 15)) base (fun c => c.sh.srcs[0]?.any (fun x => x.r == .v 95) && c.sh.srcs[1]?.any (fun x => x.r == .g 15)
      && (findGroup c.s c.w.group).isSome && (shadowOf c.s c.w.id).isNone) = true
  ∧ meets (.addS32 false false (.v 0) (.b 0) (.v 1)) (wave fun w => { w with run := w.run.map fun r => { r with latches := [some (Lanes.of fun _ => 1)] } })
      (fun c => c.r.latches[0]?.any fun x => x.isSome) = true := by decide +kernel

theorem wit_completion :
  meets (.addS32 false false (.v 0) (.v 1) (.v 2)) base (fun c => c.w.stepping == none && (findWave c.s c.w.id).isSome && (laneOf c.w 31).state != .exited)
    = true := by decide +kernel

theorem wit_trap_entry :
  (let ok (s : State) (h : Bool) : Bool := w0 s fun w => w.stepping == none && gangsOf s w.group w.index == []
      && (recordPlace s w).any (fun ia => ia % 64 == 0 && (pageOf s ia).any fun g => keyHere s g (physIn g ia)) && w.handler != 0 && w.h == h
      && (!w.spn || w.ctx.isSome) && (laneList.all fun l => (laneOf w l).depth != 4095) && (findLaunch s w.launch).any fun l => l.state == .running
   ok base false && ok (wave fun w => { w with h := true }) true
   && w0 (wave fun w => { w with handler := 0 }) (fun w => w.handler == 0)) = true := by decide +kernel

/-! ### Single steps (the expected values are worked out from the rules named) -/

/-- One step that runs the word gives a next state that is as said. -/
def runs (s : State) (x : Word) (p : State → Wave → Bool) : Bool :=
  match step (placeWord s x) with
  | .next t => w0 t (p t)
  | .fault _ | .refused _ => false
/-- Register n of lane l. -/
def v (w : Wave) (l : Lane) (n : Nat) : Word := spGet (laneOf w l).regs n
/-- v1 and v2 hold values in every lane. -/
def two32 (a b : Word) : State := wave fun w => reg 1 (fun _ => a) (reg 2 (fun _ => b) w)
/-- v3 of lane 31 after the word on v1 and v2. -/
def gives (x : Word) (a b r : Word) (f : Flags) : Bool := runs (two32 a b) x fun _ w => v w 31 3 == r && (laneOf w 31).nflg == f && (laneOf w 31).pc == 0x1004

/-- add.s32 v3, v1, v2 and mulh.s32, sub.s32 (R98). -/
theorem test_integer_wraps : (gives 0x02060410#32 0xFFFFFFFF 2 1 0 && gives 0x02060413#32 0xFFFFFFFF 2 0xFFFFFFFF 0 && gives 0x02060414#32 0xFFFFFFFF 2 1 0
    && gives 0x02060411#32 0 1 0xFFFFFFFF 0) = true := by decide +kernel
/-- div.s32, div.z32, rem.s32 (R99). -/
theorem test_division : (gives 0x04060411#32 0x80000000 0xFFFFFFFF 0x80000000 0 && gives 0x04060411#32 0xFFFFFFF9 2 0xFFFFFFFD 0
    && gives 0x04060411#32 0xFFFFFFF9 0 0x80000000 fDZ && gives 0x04060412#32 7 0 0xFFFFFFFF fDZ && gives 0x04060413#32 0xFFFFFFF9 2 0xFFFFFFFF 0) = true := by
  decide +kernel
/-- shl.b32 and shra.s32 by 32, rot.b32 by 33 (R100); bfx.s32 of 4 bits at 4 (R101). -/
theorem test_shifts_and_fields : (gives 0x06060414#32 1 32 0 0 && gives 0x06060416#32 0x80000000 32 0xFFFFFFFF 0 && gives 0x06060417#32 0x80000000 33 1 0
    && gives 0x08060412#32 0x000000C0 0x00000404 0xFFFFFFFC 0) = true := by decide +kernel
/-- mul.s32 with the immediate -512 (R103); ldi #-65536 (R103). -/
theorem test_immediates : (gives 0x1A060600#32 3 0 0xFFFFFA00 0 && gives 0x1C070000#32 0 0 0xFFFF0000 0) = true := by decide +kernel
/-- lea v4, v0, v2, #7 with v2 = -1 and v0:v1 = 2^32: 2^32 - 128 (R104). -/
theorem test_lea : runs (two32 1 0xFFFFFFFF) 0x0E080017#32 (fun _ w => v w 0 4 == 0xFFFFFF80 && v w 0 5 == 0) = true := by decide +kernel
/-- cmp.lt.s32 and cmp.lt.z32 p1, v1, v2 of -1 and 1 (R106). -/
theorem test_compare : (runs (two32 0xFFFFFFFF 1) 0x12020412#32 (fun _ w => predOf w 5 1) && runs (two32 0xFFFFFFFF 1) 0x12020414#32 (fun _ w => !predOf w 5 1))
    = true := by decide +kernel
/-- fadd.rne of 1 and 2^-24: the tie goes to the even 1.0, inexact; fmul of +infinity and 0 is invalid (R83, R129). -/
theorem test_float : (gives 0x20060410#32 0x3F800000 0x33800000 0x3F800000 fNX && gives 0x20060413#32 0x3F800000 0x33800000 0x3F800001 fNX
    && gives 0x24060410#32 0x7F800000 0 0x7FC00000 fNV) = true := by decide +kernel
/-- cvt.s32.f32.rne v3, v1 of 2.5 and of 2^31 (R83, R86, R88, R137). -/
theorem test_convert : (gives 0x30060500#32 0x40200000 0 2 fNX && gives 0x30060500#32 0x4F000000 0 0x7FFFFFFF (fSAT ||| fNX)) = true := by decide +kernel
/-- wred.add.s32 of 1 in 32 lanes; wscan.add.s32.ex gives the lane's rank (R111); shfl.xor with 1 (R109). -/
theorem test_lanes : (gives 0x38060400#32 1 0 32 0 && gives 0x3A060408#32 1 0 31 0
    && runs (wave fun w => reg 1 (fun l => BitVec.ofNat 32 l.val) (reg 2 (fun _ => 1) w)) 0x34060413#32 (fun _ w => v w 4 3 == 5)) = true := by decide +kernel
/-- brp.t p1, #-2 where p1 holds in lane 0 only (R117): the run ends. -/
theorem test_branch : runs (wave fun w => { w with lanes := w.lanes.set 0 { w.lanes.get 0 with preds := 2 } }) 0x422FFFFE#32
    (fun _ w => (laneOf w 0).pc == 0x0FF8 && (laneOf w 1).pc == 0x1004 && w.run.isNone) = true := by decide +kernel
/-- call #16 (R120). -/
theorem test_call : runs base 0x44000010#32 (fun _ w => (laneOf w 9).pc == 0x1040 && (laneOf w 9).depth == 1 && (laneOf w 9).ret == [0x1004]) = true := by
  decide +kernel
/-- rgive #2 (R116): the wave keeps one block. -/
theorem test_rgive : runs base 0x3E008002#32 (fun _ w => w.blks == 1) = true := by decide +kernel
/-- ld.s8 v4, [v0 + 1] samples the byte and its sign; st.b32 leaves memory as it is until it is performed (R145, R146, R71). -/
theorem test_load_store : (runs { pointing with mem := [(0x1001, 0xFE)] } 0x50080008#32
      (fun _ w => w.pend.length == 1 && w.pend.all fun p => p.vals.get 0 == 0xFFFFFFFE && p.vals.get 1 == 0 && p.dst == some (4, 1))
    && runs pointing 0x54060002#32 (fun t w => w.stores == 32 && t.flights.length == 32 && readByte t.mem 0x1000 == 0)) = true := by decide +kernel
/-- semtake of 5 from 5 and of 6 from 5 (R177). -/
theorem test_semtake : (runs (counting 5) 0x68040282#32 (fun t w => counterWord t 0x4000 == 0 && (laneOf w 0).pc == 0x1004)
    && runs (counting 6) 0x68040282#32 (fun _ w => w.h && (w.aside.any fun a => a.trap == .semUnder))) = true := by decide +kernel
/-- bar parks every lane, and a barrier that all have reached is complete (R180). -/
theorem test_barrier : runs base 0x6C000001#32 (fun t _ => g0 t fun g => g.barrier == 1) = true := by decide +kernel
/-- ckmode #1 (R209), qbind q1, gather (R211), srd of the wave index (R29), swr gang (R31). -/
theorem test_system : (runs base 0x7400000C#32 (fun _ w => w.ckmode == 1) && runs base 0x74240005#32 (fun _ w => (w.queues.get 1).bound == some (.gather, 0))
    && runs (wave fun w => { w with index := 9 }) 0x78060001#32 (fun _ w => v w 3 3 == 9) && runs (two32 3 0) 0x78030003#32 (fun _ w => w.gang == 3)) = true := by
  decide +kernel
/-- trap #5 (R221, R223): the handler starts one level deeper; the record's first word is at the context's record. -/
theorem test_trap : runs base 0x7A000028#32 (fun _ w => w.h && (laneOf w 2).pc == 0x2000 && (laneOf w 2).depth == 1
    && (w.aside.any fun a => a.trap == .trap && a.pc == 0x1000)) = true := by decide +kernel
/-- exit of every lane: the wave has finished, and with it the launch (R122, R343, R318). -/
theorem test_exit : (match step (placeWord base 0x48000001#32) with
    | .next t => (findWave t 0).all (·.finished) && t.mem.length == 2
    | .fault _ | .refused _ => false) = true := by decide +kernel

/-! ### The assembler (chapter 10, "A launch, assembled") -/

/-- The source of chapter 10. -/
def demoSource : List String := [
  "        .data", "        .align  64", "buf:    .space  256", "        .sem    full, 0, 0, 0", "        .launch demo",
  "        .entry  start", "        .wid    6", "        .extent 1", "        .group  2", "        .role   1, 1",
  "        .blocks 1", "        .sems   full", "        .text", "start:  srd     v2, role", "        srd     v3, lane",
  "        la      v4, buf", "        la      v6, full", "        lea     v8, v4, v3, #2  ; v8:v9", "        ldi     v10, #1",
  "        ldi     v11, #0", "        cmp.eq.s32 p1, v2, v11", "        brp.f   p1, consume", "        add.s32 v12, v3, #100",
  "        st.b32  [v8 + 0].g, v12", "        .semuse full, 32, 0", "        semsig.dev [v6 + 0].g, v10", "        exit",
  "consume:", "        .semuse full, 0, 32", "        semwait.dev [v6 + 0].g, v10", "        ld.b32  _, [v8 + 0].g",
  "        add.s32 _, b1, b1", "        st.b32  [v8 + 128].g, b1 !", "        exit"]

/-- vlas on some lines. -/
def vlas (ls : List String) : Vlas.Result := Vlas.assemble {} [(['a'], ls.map String.toList)] [['a']]
/-- The words of the listing, and the numbers of the diagnostics. -/
def placed (ls : List String) : List (Option Word) := (vlas (".text" :: ls)).listing.map (·.word)
def errors (ls : List String) : List Nat := (vlas (".text" :: ls)).diags.map (·.n)

/-- The words and the bank-use vectors of the listing of chapter 10, with no diagnostic. -/
theorem test_vlas_listing : ((vlas demoSource).listing.map fun l => (l.word, l.banks)) =
    [(some 0x78040002, 0), (some 0x78060000, 0),
     (some 0x1C080000, 0), (some 0x1E080000, 0b00010000), (some 0x1C0A0000, 0), (some 0x1E0A0000, 0b00100000),
     (some 0x1C0C0000, 0), (some 0x1E0C0000, 0b01000000), (some 0x1C0E0000, 0), (some 0x1E0E0000, 0b10000000),
     (some 0x0E10101A, 0b00111000), (some 0x1C140001, 0), (some 0x1C160000, 0), (some 0x12020858, 0b00001100),
     (some 0xC2300005, 0), (some 0x18180C64, 0b00001000), (some 0x54182002, 0b00010011), (some 0xE8141A80, 0b11000100),
     (some 0xC8000001, 0), (some 0xE8141A81, 0b11000100), (some 0x51002004, 0b00000011), (some 0x0301E3C0, 0),
     (some 0xD4F02102, 0b00000011), (some 0xC8000001, 0)] := by decide +kernel

/-- The launch is accepted; `full` stands after the 256 bytes of `buf`; its balance entry has INC 32 and DEC 32, and the
dispatcher's sum accepts it (R255); the record has B1 = 6, two waves, and CTXN = 2 (R246). -/
theorem test_vlas_image : (match (vlas demoSource).image with
    | none => false
    | some m => (vlas demoSource).diags.isEmpty
        && (m.symbols.find? fun y => y.name = "full").map (·.offset) = some 256
        && balanceEntry 1 (Vlas.littleEndian ((m.bytes .balance).drop 64) % 2 ^ 256)
        && bitsOf (Vlas.littleEndian ((m.bytes .balance).drop 64)) 160 64 = 32 + 32 * 2 ^ 32
        && (let r := BitVec.ofNat 1024 (Vlas.littleEndian (m.bytes .launch))
            widB1 (lrWidf r) = 6 && lrWaves r = 2 && lrCtxN r = 2 && lrBlocks r = 1)) = true := by decide +kernel

/-- A word that reads registers put between the load and the latch gives error 107 (chapter 10, R250), an undefined symbol
114, also as an immediate, an unknown mnemonic 101, an immediate out of range 103, a discarded destination where K = 1 is
illegal 106, a wrong suffix 102 (R238, R241, R256). -/
theorem test_vlas_errors : errors ["ld.b32 v12, [v8 + 0].g", "add.s32 v13, v10, v11", "add.s32 _, b2, b2 !"] = [201, 107]
  ∧ [["bra nowhere"], ["mov v1, #nowhere"], ["fadd2 v1, v2"], ["add.s32 v1, v2, #512"], ["cmp.eq.s32 _, v1, v2"], ["bar.foo"]].map errors
    = [[114], [114], [101], [103], [106], [102]] := by decide +kernel

/-- A macro, a local label in it, and `mov` in one and two words (R239, R247); the suffixes that R53 accepts beside .s32; and
`mov _`, whose word has K set. -/
theorem test_vlas_macro : ((vlas [".macro twice r, n", "again%=: add.s32 %r, %r, #%n", "bra again%=", ".endm", ".text",
    "twice v1, 5", "mov v2, #65536"]).listing.map (·.word)) =
    [some 0x18020405, some 0xC00FFFFF, some 0x1C040000, some 0x1E040001]
  ∧ placed ["add.z32 v3, v1, v2", "add.b32 v3, v1, v2", "add.s32 v3, v1, v2", "mov _, #5"] =
    [some 0x02060410, some 0x02060410, some 0x02060410, some 0x1D000005] := by decide +kernel

/-- A wrong command line has exit status 2, an error 1 and no image, and neither 0 (R235). -/
theorem test_vlas_status : (let go (args : List String) (src : List String) : Nat × Bool :=
      let o := Vlas.run [(['a'], src.map String.toList)] (args.map String.toList)
      (o.status, o.image.isSome)
    [go [] [], go ["-q", "a"] [], go ["-W"] [], go ["a"] [".text", "nop !"], go ["-D", "n=3", "-o", "b", "a"] [".text", "ldi v1, #n"], go ["a"] ["fadd2 v1"]]) =
    [(2, false), (2, false), (2, false), (0, true), (0, true), (1, false)] := by decide +kernel

end Sys2Proof.Tests
end

section
/-! SUPPORT. A word is the sum of its fields, wherever it is cut, and the field that a code was read from holds that code
(R43, R48, R50, R54 to R64). -/
namespace Sys2Proof

/-! ### A word as its fields -/

theorem bitsOf_split (w lo m n : Nat) : bitsOf w lo (m + n) = bitsOf w lo m + 2 ^ m * bitsOf w (lo + m) n := by
  simp only [bitsOf, Nat.pow_add, Nat.mod_mul, Nat.div_div_eq_div_mul]

/-- The fields of a word from bit lo up, of the given widths. -/
def slices (w lo : Nat) : List Nat → List (Nat × Nat)
  | [] => []
  | n :: ns => (n, bitsOf w lo n) :: slices w (lo + n) ns

theorem pack_slices (w lo : Nat) (ns : List Nat) : pack (slices w lo ns) = bitsOf w lo ns.sum := by
  induction ns generalizing lo with
  | nil => simp [slices, pack, bitsOf, Nat.mod_one]
  | cons n ns ih =>
    rw [List.sum_cons, bitsOf_split, ← ih]
    rfl

/-- R43: bits [23:0] in any fields, then K, the major opcode and E. -/
theorem word_layout {w : Nat} (hw : w < 2 ^ 32) (ns : List Nat) (hns : ns.sum = 24) :
    w = pack (slices w 0 ns) + 2 ^ 24 * bitsOf w 24 1 + 2 ^ 25 * bitsOf w 25 6 + 2 ^ 31 * bitsOf w 31 1 := by
  rw [pack_slices, hns]
  calc w = bitsOf w 0 (24 + (1 + (6 + 1))) := by simpa [bitsOf] using (Nat.mod_eq_of_lt hw).symm
    _ = _ := by
      rw [bitsOf_split, bitsOf_split, bitsOf_split]
      simp only [Nat.reduceAdd]
      omega

/-- The layout of most words: two sources, or one and a reserved field, and a destination, under a minor opcode (R53). -/
theorem registers_layout {w : Nat} (hw : w < 2 ^ 32) :
    w = bitsOf w 0 3 + 2 ^ 3 * (bitsOf w 3 7 + 2 ^ 7 * (bitsOf w 10 7 + 2 ^ 7 * bitsOf w 17 7))
      + 2 ^ 24 * bitsOf w 24 1 + 2 ^ 25 * bitsOf w 25 6 + 2 ^ 31 * bitsOf w 31 1 :=
  word_layout hw [3, 7, 7, 7] rfl

/-! ### What a field that has been read holds -/

@[simp] theorem bitsOf_mod {m n : Nat} (w lo : Nat) (h : m = 2 ^ n) : bitsOf w lo n % m = bitsOf w lo n := by
  rw [h, bitsOf, Nat.mod_mod]
@[simp] theorem bitB_toNat (w lo : Nat) : (bitB w lo).toNat = bitsOf w lo 1 := by
  have h : bitsOf w lo 1 < 2 := Nat.mod_lt _ (by decide)
  unfold bitB
  obtain h0 | h1 : bitsOf w lo 1 = 0 ∨ bitsOf w lo 1 = 1 := by omega
  · simp only [h0, Nat.zero_ne_one, decide_false, Bool.toNat_false]
  · simp only [h1, decide_true, Bool.toNat_true]
@[simp] theorem regF_code (w lo : Nat) : (regF w lo).code = bitsOf w lo 7 := by
  have hlt : bitsOf w lo 7 < 128 := Nat.mod_lt _ (by decide)
  have hcode : ∀ c : Fin 128, (Reg.ofCode c.val).code = c.val := by decide
  exact hcode ⟨_, hlt⟩
@[simp] theorem bvF_toNat (w lo n : Nat) : (bvF w lo n).toNat = bitsOf w lo n := by
  simp [bvF, bitsOf]

@[simp] theorem Rnd.ofCode_eq_some {n : Nat} {x : Rnd} : Rnd.ofCode? n = some x ↔ x.code = n := by
  refine ⟨fun h => ?_, fun h => h ▸ x.ofCode_code⟩
  unfold Rnd.ofCode? at h
  split at h <;> cases h <;> rfl
@[simp] theorem Fmt.ofCode_eq_some {n : Nat} {x : Fmt} : Fmt.ofCode? n = some x ↔ x.code = n := by
  refine ⟨fun h => ?_, fun h => h ▸ x.ofCode_code⟩
  unfold Fmt.ofCode? at h
  split at h <;> cases h <;> rfl
@[simp] theorem Cond.ofCode_eq_some {n : Nat} {x : Cond} : Cond.ofCode? n = some x ↔ x.code = n := by
  refine ⟨fun h => ?_, fun h => h ▸ x.ofCode_code⟩
  unfold Cond.ofCode? at h
  split at h <;> cases h <;> rfl
@[simp] theorem FCond.ofCode_eq_some {n : Nat} {x : FCond} : FCond.ofCode? n = some x ↔ x.code = n := by
  refine ⟨fun h => ?_, fun h => h ▸ x.ofCode_code⟩
  unfold FCond.ofCode? at h
  split at h <;> cases h <;> rfl
@[simp] theorem Shfl.ofCode_eq_some {n : Nat} {x : Shfl} : Shfl.ofCode? n = some x ↔ x.code = n := by
  refine ⟨fun h => ?_, fun h => h ▸ x.ofCode_code⟩
  unfold Shfl.ofCode? at h
  split at h <;> cases h <;> rfl
@[simp] theorem RedOp.ofCode_eq_some {n : Nat} {x : RedOp} : RedOp.ofCode? n = some x ↔ x.code = n := by
  refine ⟨fun h => ?_, fun h => h ▸ x.ofCode_code⟩
  unfold RedOp.ofCode? at h
  split at h <;> cases h <;> rfl
@[simp] theorem LdW.ofCode_eq_some {n : Nat} {x : LdW} : LdW.ofCode? n = some x ↔ x.code = n := by
  refine ⟨fun h => ?_, fun h => h ▸ x.ofCode_code⟩
  unfold LdW.ofCode? at h
  split at h <;> cases h <;> rfl
@[simp] theorem StW.ofCode_eq_some {n : Nat} {x : StW} : StW.ofCode? n = some x ↔ x.code = n := by
  refine ⟨fun h => ?_, fun h => h ▸ x.ofCode_code⟩
  unfold StW.ofCode? at h
  split at h <;> cases h <;> rfl
@[simp] theorem BufW.ofCode_eq_some {n : Nat} {x : BufW} : BufW.ofCode? n = some x ↔ x.code = n := by
  refine ⟨fun h => ?_, fun h => h ▸ x.ofCode_code⟩
  unfold BufW.ofCode? at h
  split at h <;> cases h <;> rfl
@[simp] theorem LdcW.ofCode_eq_some {n : Nat} {x : LdcW} : LdcW.ofCode? n = some x ↔ x.code = n := by
  refine ⟨fun h => ?_, fun h => h ▸ x.ofCode_code⟩
  unfold LdcW.ofCode? at h
  split at h <;> cases h <;> rfl
@[simp] theorem Scope.ofCode_eq_some {n : Nat} {x : Scope} : Scope.ofCode? n = some x ↔ x.code = n := by
  refine ⟨fun h => ?_, fun h => h ▸ x.ofCode_code⟩
  unfold Scope.ofCode? at h
  split at h <;> cases h <;> rfl
@[simp] theorem AtomX.ofCode_eq_some {n : Nat} {x : AtomX} : AtomX.ofCode? n = some x ↔ x.code = n := by
  refine ⟨fun h => ?_, fun h => h ▸ x.ofCode_code⟩
  unfold AtomX.ofCode? at h
  split at h <;> cases h <;> rfl
@[simp] theorem RedX.ofCode_eq_some {n : Nat} {x : RedX} : RedX.ofCode? n = some x ↔ x.code = n := by
  refine ⟨fun h => ?_, fun h => h ▸ x.ofCode_code⟩
  unfold RedX.ofCode? at h
  split at h <;> cases h <;> rfl
@[simp] theorem TileState.ofCode_eq_some {n : Nat} {x : TileState} : TileState.ofCode? n = some x ↔ x.code = n := by
  refine ⟨fun h => ?_, fun h => h ▸ x.ofCode_code⟩
  unfold TileState.ofCode? at h
  split at h <;> cases h <;> rfl
@[simp] theorem WScope.ofCode_eq_some {n : Nat} {x : WScope} : WScope.ofCode? n = some x ↔ x.code = n := by
  refine ⟨fun h => ?_, fun h => h ▸ x.ofCode_code⟩
  unfold WScope.ofCode? at h
  split at h <;> cases h <;> rfl

end Sys2Proof
end

section
/-! SUPPORT. The decoder read backwards: what it answers for a word is an instruction whose word is that word, so no bit
is ignored and no two words stand for one instruction (R7, R43, R67). -/
namespace Sys2Proof

/-- An instruction read from the word w, if there is one, has the word w. -/
def Exact (w : Nat) (r : Except DecodeError Instr) : Prop := ∀ i, r = .ok i → encodeNat i = some w

/-! ### Through the readers of fields -/

@[simp] theorem exact_ok (w : Nat) (i : Instr) : Exact w (.ok i) ↔ encodeNat i = some w := by
  simp [Exact]
@[simp] theorem exact_error (w : Nat) (e : DecodeError) : Exact w (.error e) := fun _ h => nomatch h
/-- A reserved field that is read as zero is the zero of the instruction's word (R7). -/
@[simp] theorem exact_reserved (w f : Nat) (r : Except DecodeError Instr) :
    Exact w (reserved f r) ↔ (f = 0 → Exact w r) := by
  unfold reserved
  split <;> simp [*]
@[simp] theorem exact_kZero (w x : Nat) (r : Except DecodeError Instr) :
    Exact w (kZero x r) ↔ (bitsOf x 24 1 = 0 → Exact w r) := by
  unfold kZero
  split <;> simp [*]
@[simp] theorem exact_predF (w x lo : Nat) (f : Pred → Except DecodeError Instr) :
    Exact w ((predF x lo).bind f) ↔ ∀ p : Pred, p.val = bitsOf x lo 7 → Exact w (f p) := by
  unfold predF
  split
  next h =>
    rw [okBind]
    refine ⟨fun hf p hp => ?_, fun hf => hf _ (Nat.mod_eq_of_lt h)⟩
    rwa [← hp, Fin.ofNat_val] at hf
  next h => exact iff_of_true (exact_error w _) fun p hp => absurd (hp ▸ p.isLt) h
@[simp] theorem exact_enumF {α : Type} (w : Nat) (g : Nat → Option α) (e : DecodeError) (x lo n : Nat)
    (f : α → Except DecodeError Instr) :
    Exact w ((enumF g e x lo n).bind f) ↔ ∀ a, g (bitsOf x lo n) = some a → Exact w (f a) := by
  unfold enumF
  split
  next a h => simp [h, okBind]
  next h => exact iff_of_true (exact_error w _) (by simp [h])

/-! ### By major opcode

In each proof hl cuts the word at the fields of its layout, so that the word of the instruction, a sum of the same fields,
is the word by linear arithmetic; hv relates a minor opcode to the width code in its low two bits. -/

section
variable {w : Nat} (hw : w < 2 ^ 32)
include hw

theorem fields1_exact (hm : bitsOf w 25 6 = 1) : Exact w (fields1 w) := by
  have hl := registers_layout hw
  unfold fields1
  split <;> simp [encodeNat, wordOf] <;> omega

theorem fields2_exact (hm : bitsOf w 25 6 = 2) : Exact w (fields2 w) := by
  have hl := registers_layout hw
  unfold fields2
  split <;> simp [encodeNat, wordOf] <;> omega

theorem fields3_exact (hm : bitsOf w 25 6 = 3) : Exact w (fields3 w) := by
  have hl := registers_layout hw
  unfold fields3
  split <;> simp [encodeNat, wordOf] <;> omega

theorem fields4_exact (hm : bitsOf w 25 6 = 4) : Exact w (fields4 w) := by
  have hl := registers_layout hw
  unfold fields4
  split <;> simp [encodeNat, wordOf] <;> omega

theorem fields5_exact (hm : bitsOf w 25 6 = 5) : Exact w (fields5 w) := by
  have hl := registers_layout hw
  unfold fields5
  split <;> simp [encodeNat, wordOf] <;> omega

theorem fields6_exact (hm : bitsOf w 25 6 = 6) : Exact w (fields6 w) := by
  have hl := registers_layout hw
  unfold fields6
  split <;> simp [encodeNat, wordOf] <;> omega

theorem fields7_exact (hm : bitsOf w 25 6 = 7) : Exact w (fields7 w) := by
  have hl := registers_layout hw
  unfold fields7
  simp [encodeNat, wordOf]
  omega

theorem fields8_exact (hm : bitsOf w 25 6 = 8) : Exact w (fields8 w) := by
  have hl := registers_layout hw
  unfold fields8
  simp [encodeNat, wordOf]
  omega

theorem fields9_exact (hm : bitsOf w 25 6 = 9) : Exact w (fields9 w) := by
  have hl := registers_layout hw
  unfold fields9
  simp [encodeNat, wordOf]
  omega

theorem fields10_exact (hm : bitsOf w 25 6 = 10) : Exact w (fields10 w) := by
  have hl := registers_layout hw
  unfold fields10
  simp [encodeNat, wordOf]
  omega

theorem fields11_exact (hm : bitsOf w 25 6 = 11) : Exact w (fields11 w) := by
  have hl := registers_layout hw
  unfold fields11
  split <;> simp [encodeNat, wordOf] <;> omega

theorem fields12_exact (hm : bitsOf w 25 6 = 12) : Exact w (fields12 w) := by
  have hl := word_layout hw [10, 7, 7] rfl
  simp only [slices, pack, Nat.reduceAdd] at hl
  unfold fields12
  simp [encodeNat, wordOf]
  omega

theorem fields13_exact (hm : bitsOf w 25 6 = 13) : Exact w (fields13 w) := by
  have hl := word_layout hw [10, 7, 7] rfl
  simp only [slices, pack, Nat.reduceAdd] at hl
  unfold fields13
  simp [encodeNat, wordOf]
  omega

theorem fields14_exact (hm : bitsOf w 25 6 = 14) : Exact w (fields14 w) := by
  have hl := word_layout hw [17, 7] rfl
  simp only [slices, pack, Nat.reduceAdd] at hl
  unfold fields14
  simp [encodeNat, wordOf]
  omega

theorem fields15_exact (hm : bitsOf w 25 6 = 15) : Exact w (fields15 w) := by
  have hl := word_layout hw [16, 1, 7] rfl
  simp only [slices, pack, Nat.reduceAdd] at hl
  unfold fields15
  simp [encodeNat, wordOf]
  omega

theorem fields16_exact (hm : bitsOf w 25 6 = 16) : Exact w (fields16 w) := by
  have hl := registers_layout hw
  unfold fields16
  simp [encodeNat, wordOf]
  omega

theorem fields17_exact (hm : bitsOf w 25 6 = 17) : Exact w (fields17 w) := by
  have hl := registers_layout hw
  unfold fields17
  simp [encodeNat, wordOf]
  omega

theorem fields18_exact (hm : bitsOf w 25 6 = 18) : Exact w (fields18 w) := by
  have hl := registers_layout hw
  unfold fields18
  simp [encodeNat, wordOf]
  omega

theorem fields19_exact (hm : bitsOf w 25 6 = 19) : Exact w (fields19 w) := by
  have hl := registers_layout hw
  unfold fields19
  simp [encodeNat, wordOf]
  omega

theorem fields20_exact (hm : bitsOf w 25 6 = 20) : Exact w (fields20 w) := by
  have hl := registers_layout hw
  unfold fields20
  split <;> simp [encodeNat, wordOf] <;> omega

theorem fields21_exact (hm : bitsOf w 25 6 = 21) : Exact w (fields21 w) := by
  have hl := registers_layout hw
  unfold fields21
  split <;> simp [encodeNat, wordOf] <;> omega

theorem fields22_exact (hm : bitsOf w 25 6 = 22) : Exact w (fields22 w) := by
  have hl := registers_layout hw
  unfold fields22
  simp [encodeNat, wordOf]
  omega

theorem fields23_exact (hm : bitsOf w 25 6 = 23) : Exact w (fields23 w) := by
  have hl := word_layout hw [3, 3, 4, 7, 7] rfl
  simp only [slices, pack, Nat.reduceAdd] at hl
  unfold fields23
  simp [encodeNat, wordOf]
  omega

theorem fields24_exact (hm : bitsOf w 25 6 = 24) : Exact w (fields24 w) := by
  have hl := word_layout hw [3, 3, 4, 7, 7] rfl
  simp only [slices, pack, Nat.reduceAdd] at hl
  unfold fields24
  simp [encodeNat, wordOf]
  omega

theorem fields25_exact (hm : bitsOf w 25 6 = 25) : Exact w (fields25 w) := by
  have hl := registers_layout hw
  unfold fields25
  simp [encodeNat, wordOf]
  omega

theorem fields26_exact (hm : bitsOf w 25 6 = 26) : Exact w (fields26 w) := by
  have hl := registers_layout hw
  have hv : bitsOf w 0 3 = bitsOf w 0 2 + 2 ^ 2 * bitsOf w 2 1 := bitsOf_split w 0 2 1
  unfold fields26
  split <;> simp [encodeNat, wordOf] <;> omega

theorem fields27_exact (hm : bitsOf w 25 6 = 27) : Exact w (fields27 w) := by
  have hl := registers_layout hw
  unfold fields27
  split <;> simp [encodeNat, wordOf] <;> omega

theorem fields28_exact (hm : bitsOf w 25 6 = 28) : Exact w (fields28 w) := by
  have hl := registers_layout hw
  unfold fields28
  simp [encodeNat, wordOf]
  omega

theorem fields29_exact (hm : bitsOf w 25 6 = 29) : Exact w (fields29 w) := by
  have hl := word_layout hw [3, 1, 6, 7, 7] rfl
  simp only [slices, pack, Nat.reduceAdd] at hl
  unfold fields29
  simp [encodeNat, wordOf]
  omega

theorem fields30_exact (hm : bitsOf w 25 6 = 30) : Exact w (fields30 w) := by
  have hl := registers_layout hw
  unfold fields30
  split <;> simp [encodeNat, wordOf] <;> omega

theorem fields31_exact (hm : bitsOf w 25 6 = 31) : Exact w (fields31 w) := by
  have hl := word_layout hw [3, 11, 3, 7] rfl
  simp only [slices, pack, Nat.reduceAdd] at hl
  unfold fields31
  split <;> simp [encodeNat, wordOf] <;> omega

theorem fields32_exact (hm : bitsOf w 25 6 = 32) : Exact w (fields32 w) := by
  have hl := word_layout hw [20, 4] rfl
  simp only [slices, pack, Nat.reduceAdd] at hl
  unfold fields32
  simp [encodeNat, wordOf]
  omega

theorem fields33_exact (hm : bitsOf w 25 6 = 33) : Exact w (fields33 w) := by
  have hl := word_layout hw [20, 1, 3] rfl
  simp only [slices, pack, Nat.reduceAdd] at hl
  unfold fields33
  simp [encodeNat, wordOf]
  omega

theorem fields34_exact (hm : bitsOf w 25 6 = 34) : Exact w (fields34 w) := by
  have hl := word_layout hw [20, 4] rfl
  simp only [slices, pack, Nat.reduceAdd] at hl
  unfold fields34
  simp [encodeNat, wordOf]
  omega

theorem fields35_exact (hm : bitsOf w 25 6 = 35) : Exact w (fields35 w) := by
  have hl := registers_layout hw
  unfold fields35
  split
  · simp [encodeNat, wordOf]
    omega
  · exact exact_error w _

theorem fields36_exact (hm : bitsOf w 25 6 = 36) : Exact w (fields36 w) := by
  have hl := word_layout hw [3, 21] rfl
  simp only [slices, pack, Nat.reduceAdd] at hl
  unfold fields36
  split <;> simp [encodeNat, wordOf] <;> omega

theorem fields40_exact (hm : bitsOf w 25 6 = 40) : Exact w (fields40 w) := by
  have hl := registers_layout hw
  unfold fields40
  simp [encodeNat, wordOf]
  omega

theorem fields41_exact (hm : bitsOf w 25 6 = 41) : Exact w (fields41 w) := by
  have hl := word_layout hw [3, 4, 3, 7, 7] rfl
  simp only [slices, pack, Nat.reduceAdd] at hl
  unfold fields41
  simp [encodeNat, wordOf]
  omega

theorem fields42_exact (hm : bitsOf w 25 6 = 42) : Exact w (fields42 w) := by
  have hl := registers_layout hw
  unfold fields42
  simp [encodeNat, wordOf]
  omega

theorem fields43_exact (hm : bitsOf w 25 6 = 43) : Exact w (fields43 w) := by
  have hl := word_layout hw [2, 1, 7, 7, 7] rfl
  simp only [slices, pack, Nat.reduceAdd] at hl
  unfold fields43
  simp [encodeNat, wordOf]
  omega

theorem fields44_exact (hm : bitsOf w 25 6 = 44) : Exact w (fields44 w) := by
  have hl := word_layout hw [2, 1, 7, 7, 7] rfl
  simp only [slices, pack, Nat.reduceAdd] at hl
  unfold fields44
  simp [encodeNat, wordOf]
  omega

theorem fields45_exact (hm : bitsOf w 25 6 = 45) : Exact w (fields45 w) := by
  have hl := registers_layout hw
  have hv : bitsOf w 0 3 = bitsOf w 0 2 + 2 ^ 2 * bitsOf w 2 1 := bitsOf_split w 0 2 1
  unfold fields45
  split <;> simp [encodeNat, wordOf] <;> omega

theorem fields46_exact (hm : bitsOf w 25 6 = 46) : Exact w (fields46 w) := by
  unfold fields46
  split
  · have hl := registers_layout hw
    simp [encodeNat, wordOf]
    omega
  · have hl := registers_layout hw
    simp [encodeNat, wordOf]
    omega
  · have hl := registers_layout hw
    simp [encodeNat, wordOf]
    omega
  · have hl := word_layout hw [3, 14, 3, 4] rfl
    simp only [slices, pack, Nat.reduceAdd] at hl
    simp [encodeNat, wordOf]
    omega
  · have hl := word_layout hw [3, 14, 3, 4] rfl
    simp only [slices, pack, Nat.reduceAdd] at hl
    simp [encodeNat, wordOf]
    omega
  · have hl := word_layout hw [3, 14, 3, 4] rfl
    simp only [slices, pack, Nat.reduceAdd] at hl
    simp [encodeNat, wordOf]
    omega
  · have hl := word_layout hw [3, 14, 7] rfl
    simp only [slices, pack, Nat.reduceAdd] at hl
    simp [encodeNat, wordOf]
    omega
  · have hl := word_layout hw [3, 21] rfl
    simp only [slices, pack, Nat.reduceAdd] at hl
    simp [encodeNat, wordOf]
    omega
  · exact exact_error w _

theorem fields48_exact (hm : bitsOf w 25 6 = 48) : Exact w (fields48 w) := by
  have hl := word_layout hw [3, 4, 3, 7, 7] rfl
  simp only [slices, pack, Nat.reduceAdd] at hl
  unfold fields48
  simp [encodeNat, wordOf]
  omega

theorem fields49_exact (hm : bitsOf w 25 6 = 49) : Exact w (fields49 w) := by
  have hl := word_layout hw [3, 4, 3, 7, 7] rfl
  simp only [slices, pack, Nat.reduceAdd] at hl
  unfold fields49
  simp [encodeNat, wordOf]
  omega

theorem fields50_exact (hm : bitsOf w 25 6 = 50) : Exact w (fields50 w) := by
  have hl := word_layout hw [3, 4, 3, 7, 7] rfl
  simp only [slices, pack, Nat.reduceAdd] at hl
  unfold fields50
  simp [encodeNat, wordOf]
  omega

theorem fields51_exact (hm : bitsOf w 25 6 = 51) : Exact w (fields51 w) := by
  have hl := word_layout hw [3, 4, 3, 7, 7] rfl
  simp only [slices, pack, Nat.reduceAdd] at hl
  have hv : bitsOf w 0 3 = bitsOf w 0 2 + 2 ^ 2 * bitsOf w 2 1 := bitsOf_split w 0 2 1
  unfold fields51
  split <;> simp [encodeNat, wordOf] <;> omega

theorem fields52_exact (hm : bitsOf w 25 6 = 52) : Exact w (fields52 w) := by
  have hl := word_layout hw [3, 4, 3, 7, 7] rfl
  simp only [slices, pack, Nat.reduceAdd] at hl
  unfold fields52
  split <;> simp [encodeNat, wordOf] <;> omega

theorem fields53_exact (hm : bitsOf w 25 6 = 53) : Exact w (fields53 w) := by
  have hl := word_layout hw [3, 7, 7, 2, 5] rfl
  simp only [slices, pack, Nat.reduceAdd] at hl
  unfold fields53
  simp [encodeNat, wordOf]
  omega

theorem fields54_exact (hm : bitsOf w 25 6 = 54) : Exact w (fields54 w) := by
  unfold fields54
  split
  · have hl := registers_layout hw
    simp [encodeNat, wordOf]
    omega
  · have hl := word_layout hw [3, 21] rfl
    simp only [slices, pack, Nat.reduceAdd] at hl
    simp [encodeNat, wordOf]
    omega
  · have hl := registers_layout hw
    simp [encodeNat, wordOf]
    omega
  · have hl := registers_layout hw
    simp [encodeNat, wordOf]
    omega
  · have hl := registers_layout hw
    simp [encodeNat, wordOf]
    omega
  · exact exact_error w _

theorem fields56_exact (hm : bitsOf w 25 6 = 56) : Exact w (fields56 w) := by
  have hl := word_layout hw [4, 2, 6, 6, 6] rfl
  simp only [slices, pack, Nat.reduceAdd] at hl
  unfold fields56
  simp [encodeNat, wordOf]
  omega

theorem fields57_exact (hm : bitsOf w 25 6 = 57) : Exact w (fields57 w) := by
  have hl := word_layout hw [4, 2, 6, 6, 6] rfl
  simp only [slices, pack, Nat.reduceAdd] at hl
  unfold fields57
  simp [encodeNat, wordOf]
  omega

theorem fields58_exact (hm : bitsOf w 25 6 = 58) : Exact w (fields58 w) := by
  unfold fields58
  split
  · have hl := word_layout hw [3, 3, 6, 12] rfl
    simp only [slices, pack, Nat.reduceAdd] at hl
    simp [encodeNat, wordOf]
    omega
  · have hl := word_layout hw [3, 3, 6, 6, 6] rfl
    simp only [slices, pack, Nat.reduceAdd] at hl
    simp [encodeNat, wordOf]
    omega
  · have hl := word_layout hw [3, 7, 7, 1, 6] rfl
    simp only [slices, pack, Nat.reduceAdd] at hl
    simp [encodeNat, wordOf]
    omega
  · have hl := word_layout hw [3, 13, 2, 6] rfl
    simp only [slices, pack, Nat.reduceAdd] at hl
    simp [encodeNat, wordOf]
    omega
  · have hl := word_layout hw [3, 3, 18] rfl
    simp only [slices, pack, Nat.reduceAdd] at hl
    simp [encodeNat, wordOf]
    omega
  · have hl := word_layout hw [3, 12, 3, 3, 3] rfl
    simp only [slices, pack, Nat.reduceAdd] at hl
    simp [encodeNat, wordOf]
    omega
  · have hl := word_layout hw [3, 7, 7, 4, 3] rfl
    simp only [slices, pack, Nat.reduceAdd] at hl
    simp [encodeNat, wordOf]
    omega
  · exact exact_error w _

theorem fields60_exact (hm : bitsOf w 25 6 = 60) : Exact w (fields60 w) := by
  have hl := word_layout hw [8, 8, 1, 7] rfl
  simp only [slices, pack, Nat.reduceAdd] at hl
  unfold fields60
  split <;> simp [encodeNat, wordOf] <;> omega

theorem fields61_exact (hm : bitsOf w 25 6 = 61) : Exact w (fields61 w) := by
  unfold fields61
  split
  · have hl := word_layout hw [3, 14, 7] rfl
    simp only [slices, pack, Nat.reduceAdd] at hl
    simp [encodeNat, wordOf]
    omega
  · have hl := word_layout hw [3, 21] rfl
    simp only [slices, pack, Nat.reduceAdd] at hl
    simp [encodeNat, wordOf]
    omega
  · have hl := word_layout hw [3, 14, 7] rfl
    simp only [slices, pack, Nat.reduceAdd] at hl
    simp [encodeNat, wordOf]
    omega
  · have hl := registers_layout hw
    simp [encodeNat, wordOf]
    omega
  · have hl := word_layout hw [3, 14, 1, 6] rfl
    simp only [slices, pack, Nat.reduceAdd] at hl
    simp [encodeNat, wordOf]
    omega
  · have hl := word_layout hw [3, 14, 7] rfl
    simp only [slices, pack, Nat.reduceAdd] at hl
    simp [encodeNat, wordOf]
    omega
  · have hl := word_layout hw [3, 7, 7, 5, 2] rfl
    simp only [slices, pack, Nat.reduceAdd] at hl
    simp [encodeNat, wordOf]
    omega
  · have hl := word_layout hw [3, 14, 5, 2] rfl
    simp only [slices, pack, Nat.reduceAdd] at hl
    simp [encodeNat, wordOf]
    omega
  · exact exact_error w _

theorem decodeFields_exact : Exact w (decodeFields w) := by
  unfold decodeFields
  split
  · exact fields1_exact hw ‹_›
  · exact fields2_exact hw ‹_›
  · exact fields3_exact hw ‹_›
  · exact fields4_exact hw ‹_›
  · exact fields5_exact hw ‹_›
  · exact fields6_exact hw ‹_›
  · exact fields7_exact hw ‹_›
  · exact fields8_exact hw ‹_›
  · exact fields9_exact hw ‹_›
  · exact fields10_exact hw ‹_›
  · exact fields11_exact hw ‹_›
  · exact fields12_exact hw ‹_›
  · exact fields13_exact hw ‹_›
  · exact fields14_exact hw ‹_›
  · exact fields15_exact hw ‹_›
  · exact fields16_exact hw ‹_›
  · exact fields17_exact hw ‹_›
  · exact fields18_exact hw ‹_›
  · exact fields19_exact hw ‹_›
  · exact fields20_exact hw ‹_›
  · exact fields21_exact hw ‹_›
  · exact fields22_exact hw ‹_›
  · exact fields23_exact hw ‹_›
  · exact fields24_exact hw ‹_›
  · exact fields25_exact hw ‹_›
  · exact fields26_exact hw ‹_›
  · exact fields27_exact hw ‹_›
  · exact fields28_exact hw ‹_›
  · exact fields29_exact hw ‹_›
  · exact fields30_exact hw ‹_›
  · exact fields31_exact hw ‹_›
  · exact fields32_exact hw ‹_›
  · exact fields33_exact hw ‹_›
  · exact fields34_exact hw ‹_›
  · exact fields35_exact hw ‹_›
  · exact fields36_exact hw ‹_›
  · exact fields40_exact hw ‹_›
  · exact fields41_exact hw ‹_›
  · exact fields42_exact hw ‹_›
  · exact fields43_exact hw ‹_›
  · exact fields44_exact hw ‹_›
  · exact fields45_exact hw ‹_›
  · exact fields46_exact hw ‹_›
  · exact fields48_exact hw ‹_›
  · exact fields49_exact hw ‹_›
  · exact fields50_exact hw ‹_›
  · exact fields51_exact hw ‹_›
  · exact fields52_exact hw ‹_›
  · exact fields53_exact hw ‹_›
  · exact fields54_exact hw ‹_›
  · exact fields56_exact hw ‹_›
  · exact fields57_exact hw ‹_›
  · exact fields58_exact hw ‹_›
  · exact fields60_exact hw ‹_›
  · exact fields61_exact hw ‹_›
  · exact exact_error w _

end

/-- A word decodes to the instruction of its fields when that breaks no rule of R67. -/
theorem decode_eq_ok (w : Word) (i : Instr) : decode w = .ok i ↔ decodeFields w.toNat = .ok i ∧ i.error = none := by
  unfold decode
  cases decodeFields w.toNat with
  | error e => simp [Except.bind]
  | ok j =>
    rw [okBind]
    split
    next h => simpa using fun e => e ▸ h
    next x h =>
      refine iff_of_false (fun e => nomatch e) fun e => ?_
      cases e.1
      exact nomatch h.symm.trans e.2

/-- Settles O51: each reader of a field loses nothing, so the fields of the word make up the word again. -/
theorem decodingIsExact : Obligations.DecodingIsExact := by
  intro w i h
  obtain ⟨hfields, herror⟩ := (decode_eq_ok w i).1 h
  have hnat : encodeNat i = some w.toNat := decodeFields_exact w.isLt i hfields
  constructor
  · rw [Instr.wellFormed, herror]
    rfl
  · rw [encode, hnat, Option.map_some, BitVec.ofNat_toNat, BitVec.setWidth_eq]

end Sys2Proof
end

section
/-! SUPPORT. Every step keeps the canonical form of the memories (R5, R405): the rows by their meanings, the fetch, and
the choice that a step makes between the agenda, the issuing wave and the events. -/
namespace Sys2Proof.Machine

/-! ### The parts of a step -/

/-- What a fetch leaves, of a word that decodes or of a fault or wait. -/
def FetchC (f : Instr × State ⊕ State) : Prop :=
  match f with
  | .inl p => Canon p.2
  | .inr t => Canon t

/-- Each row of the opcode table keeps the canonical form, by its own law. -/
theorem exec_canon (i : Instr) (s : State) (hs : Canon s) : OutC (exec i s) :=
  match i with
  | .addS32 .. => execAddS32_canon (hs := hs) ..
  | .subS32 .. => execSubS32_canon (hs := hs) ..
  | .mulS32 .. => execMulS32_canon (hs := hs) ..
  | .mulhS32 .. => execMulhS32_canon (hs := hs) ..
  | .mulhZ32 .. => execMulhZ32_canon (hs := hs) ..
  | .minS32 .. => execMinS32_canon (hs := hs) ..
  | .maxS32 .. => execMaxS32_canon (hs := hs) ..
  | .minZ32 .. => execMinZ32_canon (hs := hs) ..
  | .maxZ32 .. => execMaxZ32_canon (hs := hs) ..
  | .divS32 .. => execDivS32_canon (hs := hs) ..
  | .divZ32 .. => execDivZ32_canon (hs := hs) ..
  | .remS32 .. => execRemS32_canon (hs := hs) ..
  | .remZ32 .. => execRemZ32_canon (hs := hs) ..
  | .absS32 .. => execAbsS32_canon (hs := hs) ..
  | .negS32 .. => execNegS32_canon (hs := hs) ..
  | .popc .. => execPopc_canon (hs := hs) ..
  | .andB32 .. => execAndB32_canon (hs := hs) ..
  | .orB32 .. => execOrB32_canon (hs := hs) ..
  | .xorB32 .. => execXorB32_canon (hs := hs) ..
  | .andnB32 .. => execAndnB32_canon (hs := hs) ..
  | .shlB32 .. => execShlB32_canon (hs := hs) ..
  | .shrB32 .. => execShrB32_canon (hs := hs) ..
  | .shraS32 .. => execShraS32_canon (hs := hs) ..
  | .rotB32 .. => execRotB32_canon (hs := hs) ..
  | .clz .. => execClz_canon (hs := hs) ..
  | .brev .. => execBrev_canon (hs := hs) ..
  | .bfxS32 .. => execBfxS32_canon (hs := hs) ..
  | .bfxZ32 .. => execBfxZ32_canon (hs := hs) ..
  | .bfi .. => execBfi_canon (hs := hs) ..
  | .madS32 .. => execMadS32_canon (hs := hs) ..
  | .mov .. => execMov_canon (hs := hs) ..
  | .addS64 .. => execAddS64_canon (hs := hs) ..
  | .subS64 .. => execSubS64_canon (hs := hs) ..
  | .mulS64 .. => execMulS64_canon (hs := hs) ..
  | .minS64 .. => execMinS64_canon (hs := hs) ..
  | .maxS64 .. => execMaxS64_canon (hs := hs) ..
  | .minZ64 .. => execMinZ64_canon (hs := hs) ..
  | .maxZ64 .. => execMaxZ64_canon (hs := hs) ..
  | .negS64 .. => execNegS64_canon (hs := hs) ..
  | .shlB64 .. => execShlB64_canon (hs := hs) ..
  | .shrB64 .. => execShrB64_canon (hs := hs) ..
  | .shraS64 .. => execShraS64_canon (hs := hs) ..
  | .mulhS64 .. => execMulhS64_canon (hs := hs) ..
  | .mulhZ64 .. => execMulhZ64_canon (hs := hs) ..
  | .absS64 .. => execAbsS64_canon (hs := hs) ..
  | .madS64 .. => execMadS64_canon (hs := hs) ..
  | .lea .. => execLea_canon (hs := hs) ..
  | .sel .. => execSel_canon (hs := hs) ..
  | .cmp32 .. => execCmp32_canon (hs := hs) ..
  | .cmp64 .. => execCmp64_canon (hs := hs) ..
  | .shlB32Imm .. => execShlB32Imm_canon (hs := hs) ..
  | .shrB32Imm .. => execShrB32Imm_canon (hs := hs) ..
  | .shraS32Imm .. => execShraS32Imm_canon (hs := hs) ..
  | .rotB32Imm .. => execRotB32Imm_canon (hs := hs) ..
  | .shlB64Imm .. => execShlB64Imm_canon (hs := hs) ..
  | .shrB64Imm .. => execShrB64Imm_canon (hs := hs) ..
  | .shraS64Imm .. => execShraS64Imm_canon (hs := hs) ..
  | .addS32Imm .. => execAddS32Imm_canon (hs := hs) ..
  | .mulS32Imm .. => execMulS32Imm_canon (hs := hs) ..
  | .ldi .. => execLdi_canon (hs := hs) ..
  | .ldhi .. => execLdhi_canon (hs := hs) ..
  | .fadd .. => execFadd_canon (hs := hs) ..
  | .fsub .. => execFsub_canon (hs := hs) ..
  | .fmul .. => execFmul_canon (hs := hs) ..
  | .ffma .. => execFfma_canon (hs := hs) ..
  | .fmin .. => execFmin_canon (hs := hs) ..
  | .fmax .. => execFmax_canon (hs := hs) ..
  | .frcp .. => execFrcp_canon (hs := hs) ..
  | .frsq .. => execFrsq_canon (hs := hs) ..
  | .fsqrt .. => execFsqrt_canon (hs := hs) ..
  | .fexp2 .. => execFexp2_canon (hs := hs) ..
  | .flog2 .. => execFlog2_canon (hs := hs) ..
  | .fsinpi .. => execFsinpi_canon (hs := hs) ..
  | .fcospi .. => execFcospi_canon (hs := hs) ..
  | .fclass .. => execFclass_canon (hs := hs) ..
  | .hadd2 .. => execHadd2_canon (hs := hs) ..
  | .hmul2 .. => execHmul2_canon (hs := hs) ..
  | .hfma2 .. => execHfma2_canon (hs := hs) ..
  | .dot4S8 .. => execDot4S8_canon (hs := hs) ..
  | .dot4Z8 .. => execDot4Z8_canon (hs := hs) ..
  | .fcmp .. => execFcmp_canon (hs := hs) ..
  | .cvt .. => execCvt_canon (hs := hs) ..
  | .cvtFloatSource .. => execCvtFloatSource_canon (hs := hs) ..
  | .frnd .. => execFrnd_canon (hs := hs) ..
  | .shfl .. => execShfl_canon (hs := hs) ..
  | .voteAny .. => execVoteAny_canon (hs := hs) ..
  | .voteAll .. => execVoteAll_canon (hs := hs) ..
  | .voteBallot .. => execVoteBallot_canon (hs := hs) ..
  | .voteEq .. => execVoteEq_canon (hs := hs) ..
  | .wred .. => execWred_canon (hs := hs) ..
  | .wscan .. => execWscan_canon (hs := hs) ..
  | .pmovR2p .. => execPmovR2p_canon (hs := hs) ..
  | .pmovP2r .. => execPmovP2r_canon (hs := hs) ..
  | .pmovAnd .. => execPmovAnd_canon (hs := hs) ..
  | .pmovOr .. => execPmovOr_canon (hs := hs) ..
  | .pmovXor .. => execPmovXor_canon (hs := hs) ..
  | .pmovAndn .. => execPmovAndn_canon (hs := hs) ..
  | .pmovNot .. => execPmovNot_canon (hs := hs) ..
  | .winb .. => execWinb_canon (hs := hs) ..
  | .rclaim .. => execRclaim_canon (hs := hs) ..
  | .rgive .. => execRgive_canon (hs := hs) ..
  | .bra .. => execBra_canon (hs := hs) ..
  | .brp .. => execBrp_canon (hs := hs) ..
  | .call .. => execCall_canon (hs := hs) ..
  | .callr .. => execCallr_canon (hs := hs) ..
  | .ret .. => execRet_canon (hs := hs) ..
  | .exit .. => execExit_canon (hs := hs) ..
  | .nop .. => execNop_canon (hs := hs) ..
  | .ld .. => execLd_canon (hs := hs) ..
  | .ldR .. => execLdR_canon (hs := hs) ..
  | .st .. => execSt_canon (hs := hs) ..
  | .lda .. => execLda_canon (hs := hs) ..
  | .sta .. => execSta_canon (hs := hs) ..
  | .ldc .. => execLdc_canon (hs := hs) ..
  | .prefL1 .. => execPrefL1_canon (hs := hs) ..
  | .prefLlc .. => execPrefLlc_canon (hs := hs) ..
  | .pagereq .. => execPagereq_canon (hs := hs) ..
  | .colour .. => execColour_canon (hs := hs) ..
  | .tagset .. => execTagset_canon (hs := hs) ..
  | .tagget .. => execTagget_canon (hs := hs) ..
  | .fence .. => execFence_canon (hs := hs) ..
  | .acq .. => execAcq_canon (hs := hs) ..
  | .rel .. => execRel_canon (hs := hs) ..
  | .cjoin .. => execCjoin_canon (hs := hs) ..
  | .cleave .. => execCleave_canon (hs := hs) ..
  | .atomInt .. => execAtomInt_canon (hs := hs) ..
  | .atomExt .. => execAtomExt_canon (hs := hs) ..
  | .redInt .. => execRedInt_canon (hs := hs) ..
  | .redExt .. => execRedExt_canon (hs := hs) ..
  | .semsig .. => execSemsig_canon (hs := hs) ..
  | .semwait .. => execSemwait_canon (hs := hs) ..
  | .semtake .. => execSemtake_canon (hs := hs) ..
  | .spawn .. => execSpawn_canon (hs := hs) ..
  | .joinw .. => execJoinw_canon (hs := hs) ..
  | .bar .. => execBar_canon (hs := hs) ..
  | .cwait .. => execCwait_canon (hs := hs) ..
  | .csig .. => execCsig_canon (hs := hs) ..
  | .enqt .. => execEnqt_canon (hs := hs) ..
  | .mma .. => execMma_canon (hs := hs) ..
  | .mmas .. => execMmas_canon (hs := hs) ..
  | .cinit .. => execCinit_canon (hs := hs) ..
  | .cdrain .. => execCdrain_canon (hs := hs) ..
  | .tdef .. => execTdef_canon (hs := hs) ..
  | .tset .. => execTset_canon (hs := hs) ..
  | .ckmode .. => execCkmode_canon (hs := hs) ..
  | .qbind .. => execQbind_canon (hs := hs) ..
  | .qstat .. => execQstat_canon (hs := hs) ..
  | .srd .. => execSrd_canon (hs := hs) ..
  | .swr .. => execSwr_canon (hs := hs) ..
  | .trap .. => execTrap_canon (hs := hs) ..
  | .rte .. => execRte_canon (hs := hs) ..
  | .bkpt .. => execBkpt_canon (hs := hs) ..
  | .step .. => execStep_canon (hs := hs) ..
  | .mark .. => execMark_canon (hs := hs) ..
  | .pcnt .. => execPcnt_canon (hs := hs) ..
  | .wset .. => execWset_canon (hs := hs) ..
  | .wclr .. => execWclr_canon (hs := hs) ..
  | .runSelect .. => execRunSelect_canon (hs := hs) ..
  | .waveAge .. => execWaveAge_canon (hs := hs) ..
  | .spinRedirect .. => execSpinRedirect_canon (hs := hs) ..
  | .loadReturn .. => execLoadReturn_canon (hs := hs) ..
  | .storeAck .. => execStoreAck_canon (hs := hs) ..
  | .writePerformHome .. => execWritePerformHome_canon (hs := hs) ..
  | .writeApply .. => execWriteApply_canon (hs := hs) ..
  | .atomicAtBank .. => execAtomicAtBank_canon (hs := hs) ..
  | .replicaFill .. => execReplicaFill_canon (hs := hs) ..
  | .clusterStop .. => execClusterStop_canon (hs := hs) ..
  | .watchTrap .. => execWatchTrap_canon (hs := hs) ..
  | .monitorRequest .. => execMonitorRequest_canon (hs := hs) ..
  | .monitorGrant .. => execMonitorGrant_canon (hs := hs) ..
  | .monitorRelease .. => execMonitorRelease_canon (hs := hs) ..
  | .laneWake .. => execLaneWake_canon (hs := hs) ..
  | .waveFinishAfterCommands .. => execWaveFinishAfterCommands_canon (hs := hs) ..
  | .regClaimGrant .. => execRegClaimGrant_canon (hs := hs) ..
  | .claimWaitTimeout .. => execClaimWaitTimeout_canon (hs := hs) ..
  | .groupSaveTimeout .. => execGroupSaveTimeout_canon (hs := hs) ..
  | .groupRelaunch .. => execGroupRelaunch_canon (hs := hs) ..
  | .scoutEnter .. => execScoutEnter_canon (hs := hs) ..
  | .scoutTimeout .. => execScoutTimeout_canon (hs := hs) ..
  | .scoutExit .. => execScoutExit_canon (hs := hs) ..
  | .mmaAccept .. => execMmaAccept_canon (hs := hs) ..
  | .mmaComplete .. => execMmaComplete_canon (hs := hs) ..
  | .rendezvousTimeout .. => execRendezvousTimeout_canon (hs := hs) ..
  | .cdrainComplete .. => execCdrainComplete_canon (hs := hs) ..
  | .copy .. => execCopy_canon (hs := hs) ..
  | .loada .. => execLoada_canon (hs := hs) ..
  | .loadw .. => execLoadw_canon (hs := hs) ..
  | .storea .. => execStorea_canon (hs := hs) ..
  | .gather .. => execGather_canon (hs := hs) ..
  | .mcast .. => execMcast_canon (hs := hs) ..
  | .rstore .. => execRstore_canon (hs := hs) ..
  | .drain .. => execDrain_canon (hs := hs) ..
  | .engineCommandComplete .. => execEngineCommandComplete_canon (hs := hs) ..
  | .probeToken .. => execProbeToken_canon (hs := hs) ..
  | .launchPacket .. => execLaunchPacket_canon (hs := hs) ..
  | .inboundRmaWrite .. => execInboundRmaWrite_canon (hs := hs) ..
  | .inboundRmaRead .. => execInboundRmaRead_canon (hs := hs) ..
  | .groupDispatch .. => execGroupDispatch_canon (hs := hs) ..
  | .taskGroupFinish .. => execTaskGroupFinish_canon (hs := hs) ..
  | .bucketFull .. => execBucketFull_canon (hs := hs) ..
  | .bucketFlush .. => execBucketFlush_canon (hs := hs) ..
  | .waveForm .. => execWaveForm_canon (hs := hs) ..
  | .poolRecordMove .. => execPoolRecordMove_canon (hs := hs) ..
  | .markIntervalTimeout .. => execMarkIntervalTimeout_canon (hs := hs) ..
  | .checkpointMark .. => execCheckpointMark_canon (hs := hs) ..
  | .markCommit .. => execMarkCommit_canon (hs := hs) ..
  | .sliceEnd .. => execSliceEnd_canon (hs := hs) ..
  | .softError .. => execSoftError_canon (hs := hs) ..
  | .uncorrectable .. => execUncorrectable_canon (hs := hs) ..
  | .launchKill .. => execLaunchKill_canon (hs := hs) ..
  | .linkTimeout .. => execLinkTimeout_canon (hs := hs) ..
  | .switchTimeout .. => execSwitchTimeout_canon (hs := hs) ..
  | .peerTimeout .. => execPeerTimeout_canon (hs := hs) ..
  | .fenceLift .. => execFenceLift_canon (hs := hs) ..
  | .pageShootdown .. => execPageShootdown_canon (hs := hs) ..
  | .pageRequestForward .. => execPageRequestForward_canon (hs := hs) ..
  | .rangeRegisterWrite .. => execRangeRegisterWrite_canon (hs := hs) ..
  | .queueDescriptorWrite .. => execQueueDescriptorWrite_canon (hs := hs) ..
  | .tenantTableWrite .. => execTenantTableWrite_canon (hs := hs) ..
  | .tenantRemove .. => execTenantRemove_canon (hs := hs) ..
  | .partitionDescriptorWrite .. => execPartitionDescriptorWrite_canon (hs := hs) ..
  | .remoteTableWrite .. => execRemoteTableWrite_canon (hs := hs) ..
  | .quotaWrite .. => execQuotaWrite_canon (hs := hs) ..
  | .clusterLend .. => execClusterLend_canon (hs := hs) ..
  | .clusterReclaim .. => execClusterReclaim_canon (hs := hs) ..
  | .debugInterceptSet .. => execDebugInterceptSet_canon (hs := hs) ..
  | .dieWatchEnable .. => execDieWatchEnable_canon (hs := hs) ..
  | .traceSessionOpen .. => execTraceSessionOpen_canon (hs := hs) ..
  | .traceSessionClose .. => execTraceSessionClose_canon (hs := hs) ..
  | .traceAck .. => execTraceAck_canon (hs := hs) ..
  | .sample .. => execSample_canon (hs := hs) ..
  | .treeSnapshot .. => execTreeSnapshot_canon (hs := hs) ..
  | .clockLock .. => execClockLock_canon (hs := hs) ..
  | .clockRelease .. => execClockRelease_canon (hs := hs) ..
  | .clockBreak .. => execClockBreak_canon (hs := hs) ..
  | .clockRestore .. => execClockRestore_canon (hs := hs) ..
  | .clusterResume .. => execClusterResume_canon (hs := hs) ..
  | .sweoloStep .. => execSweoloStep_canon (hs := hs) ..
  | .waveDump .. => execWaveDump_canon (hs := hs) ..
  | .operatingPointChange .. => execOperatingPointChange_canon (hs := hs) ..
  | .powerLimitSet .. => execPowerLimitSet_canon (hs := hs) ..
  | .telemetryReport .. => execTelemetryReport_canon (hs := hs) ..
  | .thermalShutdown .. => execThermalShutdown_canon (hs := hs) ..
  | .moduleReset c x => execModuleReset_canon c x s hs
  | .imageUpdate .. => execImageUpdate_canon (hs := hs) ..
  | .getVersion .. => execGetVersion_canon (hs := hs) ..
  | .getCapabilities .. => execGetCapabilities_canon (hs := hs) ..
  | .negotiateAlgorithms .. => execNegotiateAlgorithms_canon (hs := hs) ..
  | .getDigests .. => execGetDigests_canon (hs := hs) ..
  | .getCertificate .. => execGetCertificate_canon (hs := hs) ..
  | .challenge .. => execChallenge_canon (hs := hs) ..
  | .getMeasurements .. => execGetMeasurements_canon (hs := hs) ..
  | .spdmUnsupportedRequest .. => execSpdmUnsupportedRequest_canon (hs := hs) ..
  | .completionNotice .. => execCompletionNotice_canon (hs := hs) ..
  | .ioDieFailure .. => execIoDieFailure_canon (hs := hs) ..
  | .unsupportedPacket .. => execUnsupportedPacket_canon (hs := hs) ..
  | .sweoloStopRequest .. => execSweoloStopRequest_canon (hs := hs) ..
  | .windowAssignment .. => execWindowAssignment_canon (hs := hs) ..
  | .pagerFrameWrite .. => execPagerFrameWrite_canon (hs := hs) ..

/-- A word that cannot be fetched or decoded ends scout, or traps (R45). -/
theorem endScout_or_fetchTrap_canon (s : State) (w : Wave) (r : Run) (t : Trap) (scout : Bool) (hs : Canon s) :
    Canon (if scout then endScout s w.id else fetchTrap s w r t) := by
  split
  · exact endScout_canon s w.id hs
  · exact fetchTrap_canon s w r t hs

/-- A fetch touches the caches, takes a trap or waits; by each thing that it can find (R44, R45). -/
theorem fetchNext_canon (s : State) (w : Wave) (r : Run) (hs : Canon s) : FetchC (fetchNext s w r) := by
  unfold fetchNext
  dsimp only
  split
  case h_1 t _ => exact endScout_or_fetchTrap_canon s w r t _ hs
  case h_2 g _ => exact fetchWait_canon s w g hs
  case h_3 => exact fetchLate_canon s w hs
  case h_4 x _ =>
    show Canon (if (shadowOf s w.id).isSome then endScout s w.id else consumeBy s w (execMask w r) x)
    split
    · exact endScout_canon s w.id hs
    · exact consumeBy_canon s w _ x hs
  case h_5 ia x _ =>
    have hu : Canon (fetchTouch s w ia (shadowOf s w.id).isSome) := fetchTouch_canon s w ia _ hs
    split
    · exact hu
    · exact endScout_or_fetchTrap_canon _ w r .illegalOp _ hu

/-- Taking the head of the agenda changes no memory. -/
theorem agenda_canon (s : State) (l : List Instr) : Canon { s with agenda := l } ↔ Canon s := Iff.rfl

/-- The choices of a step (log 1): the head of the agenda, the word of the issuing wave, the first event that can happen. -/
theorem step_canon (s : State) (hs : Canon s) : OutC (step s) := by
  unfold step
  split
  case h_1 i rest _ =>
    have hu : Canon { s with agenda := rest } := (agenda_canon s rest).2 hs
    split
    · exact hu
    · split
      · exact awaitTurn_canon _ i hu
      · exact exec_canon i _ hu
  case h_2 =>
    split
    · exact outC_fault _
    · split
      case h_1 w r _ =>
        have hf := fetchNext_canon s w r hs
        split
        case h_1 i u hu => exact exec_canon i u (by rw [hu] at hf; exact hf)
        case h_2 u hu => rw [hu] at hf; exact hf
      case h_2 =>
        split
        case h_1 i _ => exact exec_canon i _ (takeRequest_canon s i hs)
        case h_2 => exact hs

/-- Settles O55, by the law of the canonical form of each part of a step. -/
theorem stepKeepsCanonicalMemory : Obligations.StepKeepsCanonicalMemory := by
  intro s t hs h
  have hout : OutC (step s) := step_canon s hs
  rw [h] at hout
  exact hout

end Sys2Proof.Machine
end

section
/-! SUPPORT. The choices of a step, one equation for each: the head of the agenda, the word that the issuing wave fetches,
the next event; and what a fetch leads to out of scout (R42, R44, R67, R68, log 1). -/
namespace Sys2Proof.Machine

/-! ### The choices of a step -/

theorem step_of_agenda {s : State} {i : Instr} {rest : List Instr} (h : s.agenda = i :: rest) :
    step s = if unheard s i then .next { s with agenda := rest }
      else if queuesUp s i then .next (awaitTurn { s with agenda := rest } i)
      else exec i { s with agenda := rest } := by
  simp only [step, h]

theorem step_of_issuing {s : State} {w : Wave} {r : Run} (ha : s.agenda = []) (hh : halted s = false) (hc : current s = some (w, r)) :
    step s = (fetchNext s w r).elim (fun p => exec p.1 p.2) .next := by
  simp only [step, ha, hh, hc, Bool.false_eq_true, if_false]
  cases fetchNext s w r <;> rfl

theorem step_of_event {s : State} {i : Instr} (ha : s.agenda = []) (hh : halted s = false) (hc : current s = none)
    (he : nextEvent s = some i) : step s = exec i (takeRequest s i) := by
  simp only [step, ha, hh, hc, he, Bool.false_eq_true, if_false]

theorem step_of_no_event {s : State} (ha : s.agenda = []) (hh : halted s = false) (hc : current s = none) (he : nextEvent s = none) :
    step s = .next s := by
  simp only [step, ha, hh, hc, he, Bool.false_eq_true, if_false]

/-! ### A fetch leaves the shadows of scout alone -/

@[simp] theorem markPage_shadows (s : State) (g : Page) (write : Bool) : (markPage s g write).shadows = s.shadows := by
  unfold markPage; split <;> rfl
@[simp] theorem pacPut_shadows (s : State) (e : PacEntry) : (pacPut s e).shadows = s.shadows := rfl
@[simp] theorem pacTouch_shadows (s : State) (die core ia : Nat) (mark : Option Bool) :
    (pacTouch s die core ia mark).shadows = s.shadows := by
  unfold pacTouch
  split
  · rfl
  · dsimp only
    split
    · rfl
    · split
      · rfl
      · exact markPage_shadows _ _ _
@[simp] theorem llcSeat_shadows (s : State) (b : LlcBlock) (line tenant : Nat) : (llcSeat s b line tenant).shadows = s.shadows := by
  unfold llcSeat; split <;> rfl
@[simp] theorem llcPut_shadows (s : State) (die line tenant : Nat) (x : LlcLine) : (llcPut s die line tenant x).shadows = s.shadows := by
  unfold llcPut
  dsimp only
  split
  · split
    · exact llcSeat_shadows _ _ _ _
    · rfl
  · exact llcSeat_shadows _ _ _ _
@[simp] theorem llcMeet_shadows (s : State) (tenant die line : Nat) (write : Bool) :
    (llcMeet s tenant die line write).shadows = s.shadows := by
  unfold llcMeet
  split
  · dsimp only
    split
    · exact llcPut_shadows _ _ _ _ _
    · rfl
  · split
    · exact llcPut_shadows _ _ _ _ _
    · rfl
@[simp] theorem llcTouch_shadows (s : State) (part tenant die line : Nat) (write : Bool) :
    (llcTouch s part tenant die line write).shadows = s.shadows := llcMeet_shadows _ _ _ _ _
@[simp] theorem bankLine_shadows (s : State) (part die line : Nat) : (bankLine s part die line).shadows = s.shadows := by
  unfold bankLine
  dsimp only
  split
  · exact llcTouch_shadows _ _ _ _ _ _
  · split
    · rw [llcTouch_shadows, llcTouch_shadows]
    · exact (llcTouch_shadows ..).trans (llcTouch_shadows ..)
@[simp] theorem touchLine_shadows (s : State) (part die core ia : Nat) : (touchLine s part die core ia).shadows = s.shadows := by
  unfold touchLine
  dsimp only
  split
  · rfl
  · exact bankLine_shadows _ _ _ _
@[simp] theorem fetchTouch_shadows (s : State) (w : Wave) (ia : Nat) (scout : Bool) : (fetchTouch s w ia scout).shadows = s.shadows := by
  unfold fetchTouch
  split
  · rfl
  · simp only [apply_ite State.shadows, touchLine_shadows, pacTouch_shadows, ite_self]

/-! ### What a fetch leads to out of scout -/

theorem endScout_of_none {s : State} {n : Nat} (h : shadowOf s n = none) : endScout s n = s := by
  simp only [endScout, h]

/-- A fault of a fetch out of scout enters its trap at the word's PC (R45, R68). -/
theorem fetchTrap_of_none {s : State} {w : Wave} (h : shadowOf s w.id = none) (r : Run) (t : Trap) :
    fetchTrap s w r t = enterTrap s w.id (.at t (execMask w r) 0 r (r.pc.zeroExtend 64)) := by
  rw [fetchTrap, endScout_of_none h]

/-- Settles O53: each choice of a step by its equation, and each end of a fetch by what it finds. -/
theorem stepRunsTheWord : Obligations.StepRunsTheWord := by
  intro s
  refine ⟨fun w r ha hh hc hn => ?_, fun i rest h => ?_, fun i ha hh hc he => ?_, step_of_no_event⟩
  · have hstep := step_of_issuing ha hh hc
    have hu (ia : Nat) : shadowOf (fetchTouch s w ia false) w.id = none := by
      rw [shadowOf, fetchTouch_shadows]; exact hn
    simp only [fetchNext, hn, Option.isSome_none, Bool.false_eq_true, if_false] at hstep
    refine ⟨fun ia x i hf hd => ?_, fun ia x e hf hd => ?_, fun t hf => ?_, fun g hf => ?_, fun hf => ?_, fun x hf => ?_⟩
    · simpa only [hf, hd, Sum.elim_inl] using hstep
    · simpa only [hf, hd, Sum.elim_inr, fetchTrap_of_none (hu ia)] using hstep
    · simpa only [hf, Sum.elim_inr, fetchTrap_of_none hn] using hstep
    all_goals simpa only [hf, Sum.elim_inr] using hstep
  · have hstep := step_of_agenda h
    refine ⟨fun h1 => ?_, fun h1 h2 => ?_, fun h1 h2 => ?_⟩
    · rwa [if_pos h1] at hstep
    · rwa [if_neg (Bool.eq_false_iff.1 h1), if_pos h2] at hstep
    · rwa [if_neg (Bool.eq_false_iff.1 h1), if_neg (Bool.eq_false_iff.1 h2)] at hstep
  · have hstep := step_of_event ha hh hc he
    refine ⟨fun hp => ?_, fun hp => ?_⟩
    · rwa [takeRequest, if_neg hp] at hstep
    · rwa [takeRequest, if_pos hp] at hstep

end Sys2Proof.Machine
end

section
/-! SUPPORT. What stands before a word's own operation: the checks of R68 in their order, the registers that a word names
(R21, R49), and what each form of source reads (R21, R23, R25, R27). -/
namespace Sys2Proof

/-! ### The registers of an operand -/

theorem Reg.ofCode_of_lt {c : Nat} (h : c < 96) : Reg.ofCode c = .v ⟨c, h⟩ := by
  have hc : c % 128 = c := Nat.mod_eq_of_lt (by omega)
  simp only [Reg.ofCode, hc, if_pos h, Reg.v.injEq]
  exact Fin.ext (Nat.mod_eq_of_lt h)

/-- A code from 96 up is no wave register. -/
theorem Reg.ofCode_ne_v {c : Nat} (h : 96 ≤ c) (h' : c < 128) (n : Fin 96) : Reg.ofCode c ≠ .v n := by
  have hc : c % 128 = c := Nat.mod_eq_of_lt h'
  unfold Reg.ofCode
  rw [hc, if_neg (by omega)]
  split
  · exact nofun
  · split <;> exact nofun

/-- Of the operands that R49 allows, those of wave registers alone name wave registers: the n from the first one on. -/
theorem Reg.v_mem_span {r : Reg} {n : Nat} (hn : n = 1 ∨ n = 2 ∨ n = 4) (hr : n = 1 ∨ r.group? n = true) (j : Fin 96) :
    .v j ∈ r.span n ↔ ∃ k, r = .v k ∧ k.val ≤ j.val ∧ j.val < k.val + n := by
  simp only [Reg.span, List.mem_map, List.mem_range]
  cases r with
  | v k =>
    have hk := k.isLt
    have hin : k.val + n ≤ 96 := by
      simp only [Reg.group?, decide_eq_true_eq] at hr
      rcases hn with rfl | rfl | rfl <;> omega
    constructor
    · rintro ⟨i, hi, he⟩
      rw [Reg.code, Reg.ofCode_of_lt (by omega)] at he
      have hj : k.val + i = j.val := congrArg Fin.val (Reg.v.inj he)
      exact ⟨k, rfl, by omega, by omega⟩
    · rintro ⟨k', hk', h1, h2⟩
      cases hk'
      refine ⟨j.val - k.val, by omega, ?_⟩
      rw [Reg.code, Nat.add_sub_cancel' h1, Reg.ofCode_of_lt j.isLt]
  | g m | q m | b m =>
    refine iff_of_false ?_ (by rintro ⟨k, hk, -⟩; cases hk)
    rintro ⟨i, hi, he⟩
    have hm := m.isLt
    refine Reg.ofCode_ne_v ?_ ?_ j he
    · simp only [Reg.code]; omega
    · simp only [Reg.group?, decide_eq_true_eq] at hr
      simp only [Reg.code]
      rcases hn with rfl | rfl | rfl <;> omega

/-- The source takes one, two or four registers (R49). -/
def Src.Sized (x : Src) : Prop := x.n = 1 ∨ x.n = 2 ∨ x.n = 4

@[simp] theorem Src.one_sized (r : Reg) : (Src.one r).Sized := .inl rfl
@[simp] theorem Src.noQ_sized (r : Reg) : (Src.noQ r).Sized := .inl rfl
@[simp] theorem Src.pair_sized (r : Reg) : (Src.pair r).Sized := .inr (.inl rfl)
@[simp] theorem Src.quad_sized (r : Reg) : (Src.quad r).Sized := .inr (.inr rfl)
theorem Src.data_sized (r : Reg) {n : Nat} (h : n = 1 ∨ n = 2 ∨ n = 4) : (Src.data r n).Sized := by
  unfold Src.data
  split
  · exact Src.one_sized r
  · exact h

theorem regsOfBytes_sized (w : Nat) : regsOfBytes w = 1 ∨ regsOfBytes w = 2 ∨ regsOfBytes w = 4 := by
  unfold regsOfBytes
  split
  · exact .inl rfl
  · split
    · exact .inr (.inl rfl)
    · exact .inr (.inr rfl)
theorem Fmt.regs_sized (f : Fmt) : f.regs = 1 ∨ f.regs = 2 ∨ f.regs = 4 := by cases f <;> decide
theorem AtomX.dataRegs_sized (v : AtomX) : v.dataRegs = 1 ∨ v.dataRegs = 2 ∨ v.dataRegs = 4 := by cases v <;> decide

/-- Every source of a word takes one, two or four registers (R49). -/
theorem Instr.shape_sized {i : Instr} {sh : Shape} (h : i.shape = some sh) : ∀ x ∈ sh.srcs, x.Sized := by
  cases i with
  | cvt e k d a f r s =>
    cases h
    refine List.forall_mem_singleton.2 (Src.data_sized a ?_)
    split
    · exact Fmt.regs_sized _
    · exact .inl rfl
  | atomExt e k d a sc o v =>
    cases h
    refine List.forall_mem_cons.2 ⟨Src.pair_sized a, List.forall_mem_singleton.2 ?_⟩
    split
    · exact Src.noQ_sized d
    · exact Src.data_sized d (AtomX.dataRegs_sized v)
  | redExt e d a sc o v =>
    cases h
    refine List.forall_mem_cons.2 ⟨Src.pair_sized a, List.forall_mem_singleton.2 (Src.data_sized d ?_)⟩
    split
    · exact .inr (.inl rfl)
    · exact .inl rfl
  | spawn e n c j t p =>
    cases h
    refine List.forall_mem_cons.2 ⟨Src.pair_sized j, List.forall_mem_cons.2 ⟨Src.pair_sized t, fun x hx => ?_⟩⟩
    obtain ⟨_, -, rfl⟩ := List.mem_map.1 hx
    exact Src.one_sized _
  | cjoin e k d =>
    cases h
    exact List.forall_mem_singleton.2 (.inl rfl)
  | _ => cases h <;> simp only [Shape.reg, Shape.plain, Shape.pred, List.forall_mem_cons, List.not_mem_nil, false_implies, implies_true,
      Src.one_sized, Src.noQ_sized, Src.pair_sized, Src.quad_sized, Src.data_sized, regsOfBytes_sized, and_self]

theorem group_of_srcError {x : Src} (h : x.error = none) : x.n = 1 ∨ x.r.group? x.n = true := by
  unfold Src.error at h
  split at h
  next hn => exact .inl hn
  next =>
    split at h
    next hg => exact .inr hg
    next => split at h <;> cases h

theorem group_of_dstError {d : Reg} {n : Nat} (h : dstError (d, n) = none) : d.group? n = true := by
  unfold dstError at h
  split at h
  · cases h
  next r n' hne he =>
    cases he
    split at h
    next hg => exact hg
    next => split at h <;> cases h

/-- In a well-formed word a group of registers starts where R49 has it. -/
theorem Instr.operands_of_wellFormed {i : Instr} {sh : Shape} (hw : i.wellFormed = true) (h : i.shape = some sh) :
    (∀ x ∈ sh.srcs, x.n = 1 ∨ x.r.group? x.n = true) ∧ ∀ d n, sh.dst = some (d, n) → d.group? n = true := by
  have herr : sh.error = none := by
    simp only [Instr.wellFormed, Instr.error, h, Option.isNone_iff_eq_none] at hw
    split at hw
    · cases hw
    · exact hw
  unfold Shape.error at herr
  split at herr
  · cases herr
  next hd =>
    split at herr
    · cases herr
    next hs =>
      exact ⟨fun x hx => group_of_srcError (List.findSome?_eq_none_iff.1 hs x hx), fun d n e => group_of_dstError (by rwa [e] at hd)⟩

/-- The wave registers that a well-formed word names are those of its operands. -/
theorem Shape.v_mem_named {i : Instr} {sh : Shape} (hw : i.wellFormed = true) (h : i.shape = some sh) (j : Fin 96) :
    .v j ∈ sh.named ↔ ∃ k n, (sh.dst = some (.v k, n) ∨ ∃ x ∈ sh.srcs, x.r = .v k ∧ x.n = n) ∧ k.val ≤ j.val ∧ j.val < k.val + n := by
  obtain ⟨hsrcs, hdst⟩ := Instr.operands_of_wellFormed hw h
  have hsized := Instr.shape_sized h
  simp only [Shape.named, List.mem_append, List.mem_flatMap]
  constructor
  · rintro (⟨x, hx, hj⟩ | hj)
    · obtain ⟨k, hk, hkj⟩ := (Reg.v_mem_span (hsized x hx) (hsrcs x hx) j).1 hj
      exact ⟨k, x.n, .inr ⟨x, hx, hk, rfl⟩, hkj⟩
    · split at hj
      next d n e =>
        obtain ⟨k, hk, hkj⟩ := (Reg.v_mem_span (Machine.shape_dst h e) (.inr (hdst d n e)) j).1 hj
        exact ⟨k, n, .inl (by rw [e, hk]), hkj⟩
      next => cases hj
  · rintro ⟨k, n, e | ⟨x, hx, hk, rfl⟩, hkj⟩
    · rw [e]
      exact .inr ((Reg.v_mem_span (Machine.shape_dst h e) (.inr (hdst _ n e)) j).2 ⟨k, rfl, hkj⟩)
    · exact .inl ⟨x, hx, (Reg.v_mem_span (hsized x hx) (hsrcs x hx) j).2 ⟨k, hk, hkj⟩⟩

/-- A group of wave registers of a well-formed word has a last register. -/
theorem Shape.operand_bounds {i : Instr} {sh : Shape} (hw : i.wellFormed = true) (h : i.shape = some sh) {k : Fin 96} {n : Nat}
    (ho : sh.dst = some (.v k, n) ∨ ∃ x ∈ sh.srcs, x.r = .v k ∧ x.n = n) : 0 < n ∧ k.val + n ≤ 96 := by
  obtain ⟨hsrcs, hdst⟩ := Instr.operands_of_wellFormed hw h
  have hk := k.isLt
  have hboth : (n = 1 ∨ n = 2 ∨ n = 4) ∧ (n = 1 ∨ Reg.group? (.v k) n = true) := by
    rcases ho with e | ⟨x, hx, hr, rfl⟩
    · exact ⟨Machine.shape_dst h e, .inr (hdst _ _ e)⟩
    · exact ⟨Instr.shape_sized h x hx, hr ▸ hsrcs x hx⟩
  obtain ⟨hn, hg⟩ := hboth
  simp only [Reg.group?, decide_eq_true_eq] at hg
  rcases hn with rfl | rfl | rfl <;> omega

end Sys2Proof

namespace Sys2Proof.Machine

/-! ### The checks -/

/-- Every instruction word is issued: the checks of R68 stand before its own operation. A row with no word has no shape. -/
theorem exec_eq_issue {i : Instr} {sh : Shape} (h : i.shape = some sh) (s : State) :
    ∃ sc body, exec i s = issue i s sc body := by
  cases i <;> first | exact ⟨_, _, rfl⟩ | cases h

theorem wordTrap_eq (i : Instr) (sh : Shape) (w : Wave) (r : Run) :
    wordTrap i sh w r = if i.wellFormed = false then some .illegalOp else if outsideWindow w sh then some .window
      else if badLatch r sh then some .illegalLatch else none := by
  simp only [wordTrap, Bool.not_eq_true']

/-- A word that fails a check out of scout traps at its PC (R68). -/
theorem issue_of_wordTrap {i : Instr} {s : State} {w : Wave} {r : Run} {sh : Shape} {t : Trap} (hc : current s = some (w, r))
    (hs : i.shape = some sh) (hn : shadowOf s w.id = none) (ht : wordTrap i sh w r = some t) (sc : Ctx → Scout) (body : Ctx → Res) :
    issue i s sc body = .next (enterTrap s w.id (.at t (execMask w r) 0 r (r.pc.zeroExtend 64))) := by
  simp only [issue, hc, hs, issueWave, hn, ht]

theorem outsideWindow_iff {i : Instr} {sh : Shape} (hw : i.wellFormed = true) (h : i.shape = some sh) (w : Wave) :
    outsideWindow w sh = true ↔ ∃ k n, (sh.dst = some (.v k, n) ∨ ∃ x ∈ sh.srcs, x.r = .v k ∧ x.n = n)
      ∧ 32 * w.blks.toNat < 32 * w.winb.toNat + k.val + n := by
  rw [outsideWindow, List.any_eq_true]
  constructor
  · rintro ⟨r, hr, hout⟩
    split at hout
    next j =>
      obtain ⟨k, n, ho, hkj⟩ := (Shape.v_mem_named hw h j).1 hr
      have : 32 * w.blks.toNat ≤ 32 * w.winb.toNat + j.val := of_decide_eq_true hout
      exact ⟨k, n, ho, by omega⟩
    next => cases hout
  · rintro ⟨k, n, ho, hlt⟩
    obtain ⟨hn, hk⟩ := Shape.operand_bounds hw h ho
    refine ⟨.v ⟨k.val + n - 1, by omega⟩, (Shape.v_mem_named hw h _).2 ⟨k, n, ho, ?_, ?_⟩, decide_eq_true ?_⟩
    · show k.val ≤ k.val + n - 1; omega
    · show k.val + n - 1 < k.val + n; omega
    · show 32 * w.blks.toNat ≤ 32 * w.winb.toNat + (k.val + n - 1); omega

/-! ### The sources -/

/-- The first register of source k is read as its own form of register is (R41). -/
theorem Ctx.x_eq {c : Ctx} {k : Nat} {x : Src} (h : c.sh.srcs[k]? = some x) (l : Lane) :
    c.x k l = readReg c.s c.w c.r c.r.exec x.r (qIndex c.sh.srcs k) l := by
  simp only [Ctx.x, Ctx.word, h, if_true]

theorem Ctx.x_v {c : Ctx} {k : Nat} {x : Src} (h : c.sh.srcs[k]? = some x) {n : Fin 96} (hx : x.r = .v n) (l : Lane) :
    c.x k l = spGet (laneOf c.w l).regs (32 * c.w.winb.toNat + n.val) := by
  rw [Ctx.x_eq h, hx]
  rfl

/-- A pair of wave registers: the register named and the next one (R49). -/
theorem Ctx.pair_v {c : Ctx} {k : Nat} {x : Src} (h : c.sh.srcs[k]? = some x) {n : Fin 96} (hx : x.r = .v n) (hn : n.val + 1 < 96)
    (l : Lane) : c.pair k l = spGet (laneOf c.w l).regs (32 * c.w.winb.toNat + n.val + 1) ++ spGet (laneOf c.w l).regs (32 * c.w.winb.toNat + n.val) := by
  have hnext : c.word k 1 l = spGet (laneOf c.w l).regs (32 * c.w.winb.toNat + n.val + 1) := by
    simp only [Ctx.word, h, hx, Reg.code, Reg.ofCode_of_lt hn]
    rfl
  rw [Ctx.pair, hnext, show c.word k 0 l = _ from Ctx.x_v h hx l]
  rfl

theorem Ctx.x_g {c : Ctx} {k : Nat} {x : Src} (h : c.sh.srcs[k]? = some x) {n : Fin 16} (hx : x.r = .g n) {g : Group}
    (hg : findGroup c.s c.w.group = some g) (hn : shadowOf c.s c.w.id = none) (l : Lane) : c.x k l = g.g.get n := by
  rw [Ctx.x_eq h, hx]
  simp only [readReg, gGet, hn, Option.bind_none, hg, Fin.ofNat_val]

theorem Ctx.x_b {c : Ctx} {k : Nat} {x : Src} (h : c.sh.srcs[k]? = some x) {n : Fin 8} (hx : x.r = .b n) {v : Lanes Word}
    (hv : c.r.latches[n.val]? = some (some v)) (l : Lane) : c.x k l = if c.r.exec.has l then v.get l else 0 := by
  rw [Ctx.x_eq h, hx]
  simp only [readReg, nthD, hv, Option.getD_some, Option.map_some]

theorem predOf_seven (w : Wave) (l : Lane) : predOf w l 7 = true := rfl

theorem predOf_of_ne {w : Wave} {l : Lane} {p : Pred} (h : p ≠ 7) : predOf w l p = (laneOf w l).preds.getLsbD p.val := by
  rw [predOf, decide_eq_false h, Bool.false_or]

/-- Settles O58: the first check that fails is the trap, and each form of source reads as its own lemma says. -/
theorem wordChecksAndSources : Obligations.WordChecksAndSources := by
  refine ⟨fun i s w r sh hc hs hn => ⟨fun t ht => ?_, fun hw => outsideWindow_iff hw hs w⟩, fun c k x l h => ?_⟩
  · obtain ⟨sc, body, he⟩ := exec_eq_issue hs s
    rw [he]
    exact issue_of_wordTrap hc hs hn ((wordTrap_eq i sh w r).trans ht) sc body
  · exact ⟨fun n hx => ⟨Ctx.x_v h hx l, fun hn => Ctx.pair_v h hx hn l⟩, fun n g hx hg hn => Ctx.x_g h hx hg hn l,
      fun n v hx hv => Ctx.x_b h hx hv l, predOf_seven c.w l, fun p hp => predOf_of_ne hp⟩

end Sys2Proof.Machine
end

section
/-! SUPPORT. What the completion of a word changes beside the word's own effect: the lanes that have it behind them, and the
run, which goes on or ends (R16, R25, R344). -/
namespace Sys2Proof.Machine

/-- A lane that has the word behind it changes in its PC, its kept words and its grants alone. -/
theorem laneBehind_frame (d : Done) (l : Lane) (x : LaneCtx) :
    (laneBehind d l x).regs = x.regs ∧ (laneBehind d l x).preds = x.preds ∧ (laneBehind d l x).nflg = x.nflg
      ∧ (laneBehind d l x).state = x.state
      ∧ (laneBehind d l x).pc = if d.adv.has l then (d.goes l).getD (x.pc + 4) else x.pc + 4 := ⟨rfl, rfl, rfl, rfl, rfl⟩

theorem countRetired_retired (x : WaveCounters) (sc : Bool) : (countRetired x sc).retired = x.retired + 1 := rfl

/-- The run of a wave that has completed a word, when the word ends it (R16). -/
theorem retire_run_of_ends {w : Wave} {c : Ctx} {d : Done} (m : Mask) (h : runEnds w c d = true) : (retire w c d m).run = none := by
  rw [retire, if_pos h, endRun_run]

/-- The run of a wave that has completed a word, when it goes on (R16, R25). -/
theorem retire_run_of_goes_on {w : Wave} {c : Ctx} {d : Done} (m : Mask) (h : runEnds w c d = false) :
    (retire w c d m).run = some (runNext w c.r d.vals) := by
  rw [retire, if_neg (Bool.eq_false_iff.1 h)]
  rfl

theorem runEnds_eq (w : Wave) (c : Ctx) (d : Done) :
    runEnds w c d = ((c.sh.e || d.ends || decide (24 ≤ c.r.count + 1)) || decide (goneOf w c.r ≠ 0)) := rfl

/-- Settles O59: the wave is changed as `retire` says, and nothing follows. -/
theorem completionFrame : Obligations.CompletionFrame := by
  intro c d v k hstep hv hk
  obtain ⟨⟨n, hu⟩, hother, hframe⟩ := settle_done c d v hv hstep k hk
  refine ⟨hother, hframe, _, hu, ?_, ?_, ?_, ?_, fun l hl => ?_, fun l hl => ?_, ?_⟩
  · rw [retire_eq]
  · rw [retire_eq]
  · rw [retire_eq]; exact countRetired_retired ..
  · rw [retire_eq]; exact hstep
  · exact (retire_lane v c d _ l).trans (if_neg (Bool.eq_false_iff.1 hl))
  · have hlane : laneOf (retire v c d (skipMask c.w c.r)) l = laneBehind d l (laneOf v l) :=
      (retire_lane v c d _ l).trans (if_pos hl)
    have hrest := laneBehind_frame d l (laneOf v l)
    rw [← hlane] at hrest
    exact hrest
  · have hends := runEnds_eq v c d
    split
    next h => exact retire_run_of_ends _ (by rw [hends, h, Bool.true_or])
    next h =>
      rw [Bool.not_eq_true] at h
      split
      next hg => exact ⟨_, retire_run_of_goes_on _ (by rw [hends, h, Bool.false_or]; exact decide_eq_false (not_not_intro hg)), rfl, rfl, rfl, rfl⟩
      next hg => exact retire_run_of_ends _ (by rw [hends, h, Bool.false_or]; exact decide_eq_true hg)

end Sys2Proof.Machine
end

section
/-! SUPPORT. The special registers by their index: the value that SRD reads (R29, R31 to R33), and the wave that SWR leaves
(R227). -/
namespace Sys2Proof.Machine

/-! ### Values of the special registers -/

theorem toNat_append_eq_add {m n : Nat} (x : BitVec m) (y : BitVec n) : (x ++ y).toNat = x.toNat * 2 ^ n + y.toNat := by
  rw [BitVec.toNat_append, ← Nat.shiftLeft_add_eq_or_of_lt y.isLt, Nat.shiftLeft_eq]

theorem hi32_append_lo32 (x : DWord) : hi32 x ++ lo32 x = x := by
  apply BitVec.eq_of_toNat_eq
  simp only [toNat_append_eq_add, hi32, lo32, BitVec.extractLsb'_toNat, Nat.shiftRight_eq_div_pow]
  omega

/-- A held colour's entry, field by field (R32). -/
theorem heldWord_eq (x : LaneCtx) (k : Nat) :
    heldWord x k = match x.held[k]? with
      | some h => 1#1 ++ 0#13 ++ h.depth ++ h.colour
      | none => 0#32 := by
  unfold heldWord
  cases x.held[k]? with
  | none => rfl
  | some h =>
    apply BitVec.eq_of_toNat_eq
    have hd := h.depth.isLt
    have hc := h.colour.isLt
    simp only [toNat_append_eq_add, BitVec.toNat_ofNat]
    omega

theorem specialReg_held (w : Wave) (l : Lane) {k : Nat} (hk : k < 8) : specialReg w l (0x18 + k) = heldWord (laneOf w l) k :=
  match k, hk with
  | 0, _ | 1, _ | 2, _ | 3, _ | 4, _ | 5, _ | 6, _ | 7, _ => rfl

/-- STAT, field by field (R33). -/
theorem statWord_eq (w : Wave) :
    statWord w = 0#25 ++ w.pri ++ 0#1 ++ BitVec.ofBool w.snap ++ BitVec.ofBool w.spn ++ BitVec.ofBool w.h := by
  apply BitVec.eq_of_toNat_eq
  have hp := w.pri.isLt
  simp only [statWord, toNat_append_eq_add, BitVec.toNat_ofNat, BitVec.toNat_ofBool]
  cases w.h <;> cases w.spn <;> cases w.snap <;> simp only [Bool.toNat_true, Bool.toNat_false] <;> omega

/-! ### SWR -/

/-- The wave after SWR has written x to the register of index i (R227): NFLG is cleared lane by lane, and an index that is
read only leaves the wave alone. -/
def swrPut (c : Ctx) (i : BitVec 8) (x : Word) (w : Wave) : Wave :=
  if i = 0x03#8 then { w with gang := x }
  else if i = 0x10#8 then { w with csp := w.csp.extractLsb' 32 32 ++ (x &&& 0xFFFFFF00#32) }
  else if i = 0x11#8 then { w with csp := x ++ w.csp.extractLsb' 0 32 }
  else if i = 0x12#8 then { w with csz := x.extractLsb' 0 12 }
  else if i = 0x20#8 then mapLanes w c.exec fun l y => { y with nflg := y.nflg &&& ~~~(c.x 0 l).extractLsb' 0 7 }
  else if i = 0x21#8 then { w with rmiss := w.rmiss &&& ~~~x }
  else w

theorem modWave_self (s : State) (n : Nat) : modWave s n (fun w => w) = s := by
  simp only [modWave, ite_self, List.map_id']

theorem any_spilled (w : Wave) : laneList.any (spilled w) = true ↔ ∃ l, spilled w l = true := by
  simp only [List.any_eq_true, mem_laneList, true_and]

/-- SWR of a register of the spill area traps with PERM while a level is spilled. -/
theorem swrBody_spill (c : Ctx) {i : BitVec 8} (hi : i ∈ [0x10#8, 0x11#8, 0x12#8]) :
    swrBody c i.toNat = if laneList.any (spilled c.w) then c.trap .perm c.exec 0
      else c.done (modWave c.s c.w.id (swrPut c i (c.x 0 c.top))) := by
  simp only [List.mem_cons, List.not_mem_nil, or_false] at hi
  rcases hi with rfl | rfl | rfl <;> rfl

/-- SWR of any other register does as `swrPut` says. -/
theorem swrBody_rest (c : Ctx) {i : BitVec 8} (hi : i ∉ [0x10#8, 0x11#8, 0x12#8]) :
    swrBody c i.toNat = c.done (modWave c.s c.w.id (swrPut c i (c.x 0 c.top))) := by
  have hne (n : BitVec 8) (h : ¬ i = n) : ¬ i.toNat = n.toNat := fun e => h (BitVec.eq_of_toNat_eq e)
  simp only [List.mem_cons, List.not_mem_nil, or_false, not_or] at hi
  obtain ⟨h10, h11, h12⟩ := hi
  by_cases h3 : i = 0x03#8
  · subst h3; rfl
  by_cases h20 : i = 0x20#8
  · subst h20; rfl
  by_cases h21 : i = 0x21#8
  · subst h21; rfl
  have hput : swrPut c i (c.x 0 c.top) = fun w => w := by
    funext w
    simp only [swrPut, h3, h10, h11, h12, h20, h21, if_false]
  have n10 : i.toNat ≠ 0x10 := hne _ h10
  have n11 : i.toNat ≠ 0x11 := hne _ h11
  have n12 : i.toNat ≠ 0x12 := hne _ h12
  have n3 : i.toNat ≠ 0x03 := hne _ h3
  have n20 : i.toNat ≠ 0x20 := hne _ h20
  have n21 : i.toNat ≠ 0x21 := hne _ h21
  have hspill : (decide (0x10 ≤ i.toNat) && decide (i.toNat ≤ 0x12)) = false := by
    simp only [Bool.and_eq_false_iff, decide_eq_false_iff_not]
    omega
  rw [hput, modWave_self]
  simp only [swrBody, n3, n20, n21, hspill, Bool.false_eq_true, if_false]

theorem swrBody_of_no_spill (c : Ctx) {i : BitVec 8} (h : i ∈ [0x10#8, 0x11#8, 0x12#8] → ∀ l, spilled c.w l = false) :
    swrBody c i.toNat = c.done (modWave c.s c.w.id (swrPut c i (c.x 0 c.top))) := by
  by_cases hi : i ∈ [0x10#8, 0x11#8, 0x12#8]
  · rw [swrBody_spill c hi, if_neg]
    rw [any_spilled]
    rintro ⟨l, hl⟩
    exact absurd hl (by rw [h hi l]; exact Bool.false_ne_true)
  · exact swrBody_rest c hi

/-- SWR ends its run by its kind. -/
theorem done_of_swr {c : Ctx} {e : Bool} {r : Reg} {i : BitVec 8} (h : (Instr.swr e r i).shape = some c.sh) (s : State) :
    c.done s = .done ⟨s, c.exec, none, true, false, fun _ => none⟩ := by
  have hends : c.sh.ends = true := by rw [← Option.some.inj h]; rfl
  rw [Ctx.done, hends]
  rfl

theorem swr_ends (e : Bool) (r : Reg) (i : BitVec 8) :
    Ends (.swr e r i) (fun c => i ∈ [0x10#8, 0x11#8, 0x12#8] → ∀ l, spilled c.w l = false)
      (fun c => .done ⟨modWave c.s c.w.id (swrPut c i (c.x 0 c.top)), c.exec, none, true, false, fun _ => none⟩) :=
  ends_of fun _ => ⟨_, _, rfl, fun c hsh h => (swrBody_of_no_spill c h).trans (done_of_swr hsh _)⟩

theorem swr_traps (e : Bool) (r : Reg) {i : BitVec 8} (hi : i ∈ [0x10#8, 0x11#8, 0x12#8]) :
    Ends (.swr e r i) (fun c => ∃ l, spilled c.w l = true) (fun c => .trap c.s (.at .perm c.exec 0 c.r 0)) :=
  ends_of fun _ => ⟨_, _, rfl, fun c _ h => by
    show swrBody c i.toNat = _
    rw [swrBody_spill c hi, if_pos ((any_spilled _).2 h), Ctx.trap]⟩

/-! ### The statements -/

theorem srd_gives (e k : Bool) (d : Reg) (i : BitVec 8) :
    Gives (.srd e k d i) k d 1 [] (fun c l => w32 (specialReg c.w l i.toNat)) (fun _ _ => 0) :=
  gives_of ⟨_, rfl, rfl, rfl, rfl⟩ fun _ => ⟨_, _, rfl, fun _ _ => rfl⟩

/-- A word that ends with a result under a condition ends with it under a stronger one. -/
theorem Ends.imp {i : Instr} {P Q : Ctx → Prop} {res : Ctx → Res} (h : Ends i P res) (hQ : ∀ c, Q c → P c) : Ends i Q res :=
  fun s w c hb hq => h s w c hb (hQ c hq)

/-- Settles O30: each index by its own equation, and SWR by `swrPut`. -/
theorem specialRegisters : Obligations.SpecialRegisters := by
  refine ⟨fun e k d i => ⟨srd_gives e k d i, fun w l => ?_⟩, fun e r => ?_, fun w l h => ?_⟩
  · refine ⟨rfl, rfl, rfl, rfl, rfl, rfl, hi32_append_lo32 _, rfl, rfl, hi32_append_lo32 _, hi32_append_lo32 _, hi32_append_lo32 _,
      rfl, rfl, fun k hk => ?_, rfl, rfl, statWord_eq w⟩
    rw [specialReg_held w l hk]
    exact heldWord_eq _ k
  · exact ⟨(swr_ends e r 0x03#8).imp fun _ _ h => absurd h (by decide), (swr_ends e r 0x10#8).imp fun _ h _ => h,
      (swr_ends e r 0x11#8).imp fun _ h _ => h, (swr_ends e r 0x12#8).imp fun _ h _ => h,
      (swr_ends e r 0x20#8).imp fun _ _ h => absurd h (by decide), (swr_ends e r 0x21#8).imp fun _ _ h => absurd h (by decide),
      fun i hi => swr_traps e r hi⟩
  · simp only [spilled, h, Bool.and_eq_true, Bool.not_eq_true', decide_eq_false_iff_not, decide_eq_true_eq, ne_eq]

/-- Settles O31, by the meanings of SRD and SWR for every index. -/
theorem specialRegisterWords : Obligations.SpecialRegisterWords := fun e k d r i =>
  ⟨(srd_gives e k d i).2, swr_ends e r i⟩

end Sys2Proof.Machine
end

section
/-! SUPPORT. Which wave a free slot takes, and which lanes its run holds (R13, R15, R19, R332). -/
namespace Sys2Proof.Machine

/-! ### The least element -/

theorem minBy_eq_none {α : Type} {f : α → Nat} {l : List α} : minBy f l = none ↔ l = [] := by
  cases l with
  | nil => exact iff_of_true rfl rfl
  | cons x l =>
    refine iff_of_false ?_ (List.cons_ne_nil x l)
    rw [minBy]
    split
    · exact nofun
    · split <;> exact nofun

theorem minBy_spec {α : Type} {f : α → Nat} {l : List α} {x : α} (h : minBy f l = some x) : x ∈ l ∧ ∀ y ∈ l, f x ≤ f y := by
  induction l generalizing x with
  | nil => cases h
  | cons a l ih =>
    rw [minBy] at h
    split at h
    next hn =>
      cases h
      rw [minBy_eq_none.1 hn]
      exact ⟨List.mem_cons_self, List.forall_mem_singleton.2 (Nat.le_refl _)⟩
    next y hy =>
      obtain ⟨hmem, hle⟩ := ih hy
      split at h
      next hlt =>
        cases h
        exact ⟨List.mem_cons_of_mem _ hmem, List.forall_mem_cons.2 ⟨Nat.le_of_lt hlt, hle⟩⟩
      next hge =>
        cases h
        exact ⟨List.mem_cons_self, List.forall_mem_cons.2 ⟨Nat.le_refl _, fun z hz => Nat.le_trans (Nat.le_of_not_lt hge) (hle z hz)⟩⟩

/-! ### The wave that a free slot takes -/

theorem mem_waves_of_mem_quadWaves {s : State} {d c q : Nat} {w : Wave} (h : w ∈ quadWaves s d c q) : w ∈ s.waves :=
  (List.mem_filter.1 h).1

theorem effective8_le (w : Wave) : effective8 w ≤ 8 := by
  have := w.pri.isLt
  unfold effective8
  split <;> omega

/-- The order of waves by one number: the higher effective priority first, then the earlier last run (R332). -/
theorem priority_of_key_le {F a b x y : Nat} (ha : a ≤ 8) (hb : b ≤ 8) (hy : y ≤ F)
    (h : (8 - a) * (F + 1) + x ≤ (8 - b) * (F + 1) + y) : b ≤ a ∧ (b = a → x ≤ y) := by
  constructor
  · refine Nat.le_of_not_lt fun hlt => ?_
    have hmul : (8 - b + 1) * (F + 1) ≤ (8 - a) * (F + 1) := Nat.mul_le_mul_right _ (by omega)
    rw [Nat.add_mul, Nat.one_mul] at hmul
    omega
  · rintro rfl
    exact Nat.le_of_add_le_add_left h

/-- The wave that a free slot takes is a ready wave of the quadrant without a run in a slot. -/
theorem pickWave_mem {s : State} {d c q : Nat} {w : Wave} (h : pickWave s d c q = some w) :
    w ∈ quadWaves s d c q ∧ w.issue = none ∧ ready s w = true := by
  obtain ⟨hq, hp⟩ := List.mem_filter.1 (minBy_spec h).1
  simp only [Bool.and_eq_true, Option.isNone_iff_eq_none] at hp
  exact ⟨hq, hp⟩

/-- No other such wave comes before it (R332). -/
theorem pickWave_first {s : State} {d c q : Nat} {w v : Wave} (h : pickWave s d c q = some w) (hv : v ∈ quadWaves s d c q)
    (hi : v.issue = none) (hr : ready s v = true) (hlast : v.lastRun ≤ s.fresh) :
    effective8 v ≤ effective8 w ∧ (effective8 v = effective8 w → w.lastRun ≤ v.lastRun) :=
  priority_of_key_le (effective8_le w) (effective8_le v) hlast
    ((minBy_spec h).2 v (List.mem_filter.2 ⟨hv, by rw [hi, hr]; rfl⟩))

/-! ### The lanes of a run -/

theorem has_liveMask (w : Wave) (l : Lane) : (liveMask w).has l = true ↔ (laneOf w l).state = .live := by
  rw [liveMask, Mask.has_of, decide_eq_true_iff]

/-- The PCs of the live lanes. -/
theorem mem_livePcs (w : Wave) (p : Pc) :
    p ∈ (liveMask w).lanes.map (fun l => (laneOf w l).pc) ↔ ∃ l, (laneOf w l).state = .live ∧ (laneOf w l).pc = p := by
  simp only [List.mem_map, Mask.mem_lanes, has_liveMask]

theorem minPc_le {w : Wave} {m : Pc} (h : minPc w (liveMask w) = some m) {l : Lane} (hl : (laneOf w l).state = .live) :
    m.toNat ≤ (laneOf w l).pc.toNat :=
  (minBy_spec h).2 _ ((mem_livePcs w _).2 ⟨l, hl, rfl⟩)

theorem lt_of_pcAbove {w : Wave} {m p : Pc} {lo : List Pc} (h : pcAbove w (m :: lo) = some p) : m.toNat < p.toNat := by
  have hp := (List.mem_filter.1 (minBy_spec h).1).2
  exact of_decide_eq_true (List.all_eq_true.1 hp m List.mem_cons_self)

/-- A live lane above a PC: then there is a least one. -/
theorem pcAbove_ne_none {w : Wave} {m : Pc} {l : Lane} (hl : (laneOf w l).state = .live) (hlt : m.toNat < (laneOf w l).pc.toNat) :
    pcAbove w [m] ≠ none := by
  intro h
  have hmem : (laneOf w l).pc ∈ ((liveMask w).lanes.map fun l => (laneOf w l).pc).filter fun p => [m].all fun b => b.toNat < p.toNat :=
    List.mem_filter.2 ⟨(mem_livePcs w _).2 ⟨l, hl, rfl⟩, List.all_eq_true.2 (List.forall_mem_singleton.2 (decide_eq_true hlt))⟩
  rw [minBy_eq_none.1 h] at hmem
  cases hmem

/-- Where no spin redirects a wave, its next run starts at the lowest PC of a live lane (R15). -/
theorem issueAddress_of_lt {w : Wave} {m : Pc} (h : minPc w (liveMask w) = some m) (hs : w.spin < 64) :
    issueAddress w = some (m, w.floor, false) := by
  simp only [issueAddress, h]
  exact if_pos hs

/-- After 64 runs that spun, the next run starts above it, where a live lane is there (R19). -/
theorem issueAddress_of_spun {w : Wave} {m : Pc} (h : minPc w (liveMask w) = some m) (hs : 64 ≤ w.spin) {l : Lane}
    (hl : (laneOf w l).state = .live) (hne : (laneOf w l).pc ≠ m) :
    ∃ p, m.toNat < p.toNat ∧ issueAddress w = some (p, some p, true) := by
  have hlt : m.toNat < (laneOf w l).pc.toNat :=
    Nat.lt_of_le_of_ne (minPc_le h hl) fun e => hne (BitVec.eq_of_toNat_eq e.symm)
  simp only [issueAddress, h]
  rw [if_neg (show ¬ w.spin < Config.spinLimit from Nat.not_lt.2 hs)]
  split
  next p hp => exact ⟨p, lt_of_pcAbove hp, rfl⟩
  next =>
    split
    next p hp => exact ⟨p, lt_of_pcAbove hp, rfl⟩
    next hn => exact absurd hn (pcAbove_ne_none hl hlt)

/-- A wave without a run starts one at its issue address. -/
theorem startRun_of_none {w : Wave} {x : Pc × Option Pc × Bool} (hr : w.run = none) (hx : issueAddress w = some x) (k n : Nat) :
    startRun w k n = newRun w k n x := by
  simp only [startRun, hr, hx]

theorem has_runAt (w : Wave) (p : Pc) (redir : Bool) (l : Lane) :
    (runAt w p redir).exec.has l = true ↔ (laneOf w l).state = .live ∧ (laneOf w l).pc = p := by
  simp only [runAt, Mask.has_of, Bool.and_eq_true, decide_eq_true_eq]

/-- Settles O34, by the least key of `pickWave` and the issue address of `startRun`. -/
theorem runSelection : Obligations.RunSelection := by
  refine ⟨fun s d c q k w => ⟨fun hw hh => ?_, fun hn hk hp => ?_, fun hw hi hr => ?_, fun hw hpl hsp hrun hp hn => ?_⟩,
    fun w k n m hrun hm => ⟨fun l hl => minPc_le hm hl, fun hs => ?_, fun hs ⟨l, hl, hne⟩ => ?_⟩⟩
  · show Host.Outcome.next (slotTurn s d c q k) = _
    simp only [slotTurn, hw, hh, Option.isNone_none, Bool.true_or, if_true]
  · obtain ⟨hq, hi, hr⟩ := pickWave_mem hp
    refine ⟨?_, hq, hi, hr, fun hlast v hv hvi hvr => pickWave_first hp hv hvi hvr (hlast v (mem_waves_of_mem_quadWaves hv))⟩
    show Host.Outcome.next (slotTurn s d c q k) = _
    simp only [slotTurn, hn, hk, hp, if_true]
    rfl
  · show Host.Outcome.next (ageWave s w.id) = _
    simp only [ageWave, hw, hi, hr, Option.isNone_none, Bool.and_self, if_true]
    rfl
  · have hspin : (decide (w.spin < Config.spinLimit) || w.run.isSome) = false := by
      rw [hrun, decide_eq_false (show ¬ w.spin < Config.spinLimit from Nat.not_lt.2 hsp)]
      rfl
    have hfree : [0, 1].find? (fun k => (slotWave s d c q k).isNone) = some 0 := by
      simp only [List.find?_cons, hn, Option.isNone_none]
    show Host.Outcome.next (redirectWave s w.id) = _
    simp only [redirectWave, hw, hpl, hspin, hfree, hp, Bool.false_eq_true, if_false, if_true]
    rfl
  · rw [startRun_of_none hrun (issueAddress_of_lt hm hs)]
    exact ⟨_, rfl, rfl, rfl, has_runAt w m false⟩
  · obtain ⟨p, hlt, hx⟩ := issueAddress_of_spun hm hs hl hne
    rw [startRun_of_none hrun hx]
    exact ⟨_, rfl, hlt, rfl, has_runAt w p true⟩

end Sys2Proof.Machine
end

section
/-! SUPPORT. Sets of lanes: equality, emptiness and the lowest lane; and the field of a word as a bit vector (R2, R5). -/
namespace Sys2Proof

theorem Mask.ext_has {a b : Mask} (h : ∀ l, a.has l = b.has l) : a = b :=
  BitVec.eq_of_getLsbD_eq fun i hi => h ⟨i, hi⟩

theorem Mask.of_has (m : Mask) : Mask.of m.has = m := Mask.ext_has fun l => Mask.has_of _ l

theorem Mask.of_eq_zero {p : Lane → Bool} : Mask.of p = 0 ↔ ∀ l, p l = false := by
  constructor
  · intro h l
    rw [← Mask.has_of p l, h]
    exact Mask.has_zero l
  · exact fun h => Mask.ext_has fun l => by rw [Mask.has_of, h l]; exact (Mask.has_zero l).symm

theorem Mask.of_ne_zero {p : Lane → Bool} {l : Lane} (h : p l = true) : Mask.of p ≠ 0 := fun he => by
  rw [Mask.of_eq_zero.1 he l] at h
  cases h

theorem Mask.lowest_of_eq_none {p : Lane → Bool} : (Mask.of p).lowest = none ↔ ∀ l, p l = false := by
  rw [Mask.lowest, List.head?_eq_none_iff, Mask.lanes, List.filter_eq_nil_iff]
  simp only [mem_laneList, forall_const, Mask.has_of, Bool.not_eq_true]

theorem Mask.lowest_of_ne_none {p : Lane → Bool} {l : Lane} (h : p l = true) : ∃ k, (Mask.of p).lowest = some k := by
  refine Option.ne_none_iff_exists'.1 fun hn => ?_
  rw [Mask.lowest_of_eq_none.1 hn l] at h
  cases h

/-- No lane of a set passes a test that fails in all of them. -/
theorem Mask.and_test_eq_false {m : Mask} {p : Lane → Bool} (h : ∀ l, m.has l = true → p l = false) (l : Lane) : (m.has l && p l) = false := by
  cases hm : m.has l with
  | false => rfl
  | true => exact h l hm

/-- The lanes of a set for which a test holds, where it holds in all of them. -/
theorem Mask.of_and_of_all {m : Mask} {p : Lane → Bool} (h : ∀ l, m.has l = true → p l = true) :
    Mask.of (fun l => m.has l && p l) = m := by
  refine Mask.ext_has fun l => ?_
  rw [Mask.has_of]
  cases hm : m.has l with
  | false => rfl
  | true => exact h l hm

theorem bitsOf_ne_zero {n : Nat} (x : BitVec n) (lo k : Nat) : decide (bitsOf x.toNat lo k ≠ 0) = (x.extractLsb' lo k != 0) := by
  have h : bitsOf x.toNat lo k = (x.extractLsb' lo k).toNat := by
    rw [bitsOf, BitVec.extractLsb'_toNat, Nat.shiftRight_eq_div_pow]
  rw [h, bne, Bool.beq_eq_decide_eq, ← decide_not]
  exact decide_eq_decide.2 (not_congr ⟨fun e => BitVec.eq_of_toNat_eq e, fun e => congrArg BitVec.toNat e⟩)

end Sys2Proof
end

section
/-! SUPPORT. What the lanes of an access find together, and a completion's lanes: nothing fails where no lane fails (R42), and
where a lane that does not go on would go plays no part. -/
namespace Sys2Proof.Machine

/-! ### Verdicts -/

theorem worst_eq_none {v : Lanes Verdict} {m : Mask} (h : ∀ l, m.has l = true → rankIn (v.get l) = none) : worst v m = none := by
  have hnil : (m.lanes.filterMap fun l => (rankIn (v.get l)).map fun x => (l, x)) = [] :=
    List.filterMap_eq_nil_iff.2 fun l hl => by rw [h l ((Mask.mem_lanes m l).1 hl)]; rfl
  simp only [worst, hnil, minBy]

theorem poisoned_eq_none {v : Lanes Verdict} {m : Mask} (h : ∀ l, m.has l = true → poisonIn (v.get l) = none) : poisoned v m = none := by
  have hnil : (m.lanes.filterMap fun l => (poisonIn (v.get l)).map fun x => (l, x)) = [] :=
    List.filterMap_eq_nil_iff.2 fun l hl => by rw [h l ((Mask.mem_lanes m l).1 hl)]; rfl
  simp only [poisoned, hnil]

theorem needs_eq_nil {w : Wave} {v : Lanes Verdict} {m : Mask} (h : ∀ l, m.has l = true → mayDo (v.get l) = true) : needs w v m = [] := by
  refine List.filterMap_eq_nil_iff.2 fun l hl => ?_
  have hm := h l ((Mask.mem_lanes m l).1 hl)
  split
  next hv => rw [hv] at hm; cases hm
  all_goals rfl

theorem rankIn_of_mayDo {v : Verdict} (h : mayDo v = true) : rankIn v = none :=
  match v, h with
  | .ok _, _ | .absent _, _ => rfl
theorem poisonIn_of_mayDo {v : Verdict} (h : mayDo v = true) : poisonIn v = none :=
  match v, h with
  | .ok _, _ | .absent _, _ => rfl

/-- An access that every lane may do (R9, R42). -/
theorem access_of_passes {c : Ctx} {v : Lanes Verdict} (h : Passes c v) (perform : Mask → State) (fin : State → Res) :
    access c v perform fin = fin (perform c.exec) := by
  have hok : (Mask.of fun l => c.exec.has l && mayDo (v.get l)) = c.exec := Mask.of_and_of_all h
  simp only [access, poisoned_eq_none fun l hl => poisonIn_of_mayDo (h l hl), needs_eq_nil (w := c.w) h,
    worst_eq_none fun l hl => rankIn_of_mayDo (h l hl), hok]

/-- An access in which a lane fails, with no error and no colour to ask for (R42, R164). -/
theorem access_of_worst {c : Ctx} {v : Lanes Verdict} {t : Trap} {m : Mask} {a : DWord} (hp : poisoned v c.exec = none)
    (hn : needs c.w v c.exec = []) (hw : worst v c.exec = some (t, m, a)) (perform : Mask → State) (fin : State → Res) :
    access c v perform fin = .trap (countTrap (perform (Mask.of fun l => c.exec.has l && mayDo (v.get l))) c.w t)
      (.at t m ((Mask.of fun l => c.exec.has l && mayDo (v.get l)) ||| skipMask c.w c.r) c.r a) := by
  simp only [access, hp, hn, hw]

/-! ### Completion -/

theorem mapLanes_congr {w : Wave} {m : Mask} {f g : Lane → LaneCtx → LaneCtx} (h : ∀ l, m.has l = true → ∀ x, f l x = g l x) :
    mapLanes w m f = mapLanes w m g := by
  have hl : (Lanes.of fun l => if m.has l then f l (w.lanes.get l) else w.lanes.get l)
      = Lanes.of fun l => if m.has l then g l (w.lanes.get l) else w.lanes.get l := by
    congr 1
    funext l
    split
    next hm => exact h l hm _
    next => rfl
  simp only [mapLanes, hl]

/-- Where the lanes that do not go on would go plays no part in a completion. -/
theorem settle_goes_congr (c : Ctx) (d : Done) {g : Lane → Option Pc} (h : ∀ l, d.adv.has l = true → g l = d.goes l) :
    settle c (.done { d with goes := g }) = settle c (.done d) := by
  have hlane : laneBehind { d with goes := g } = laneBehind d := by
    funext l x
    cases ha : d.adv.has l with
    | false => simp only [laneBehind, ha, Bool.false_eq_true, if_false]
    | true => simp only [laneBehind, h l ha]
  have hretire : ∀ w m, retire w c { d with goes := g } m = retire w c d m := by
    intro w m
    have hretired : retired w c { d with goes := g } m = retired w c d m := by simp only [retired, hlane]
    simp only [retire, hretired]
    rfl
  simp only [settle, hretire]
  rfl

/-- A word that settles as a given result of its own operation settles. -/
theorem ends_of_settle {i : Instr} {P : Ctx → Prop} {res : Ctx → Res}
    (he : ∀ s, ∃ sc body, exec i s = issue i s sc body ∧ ∀ c, i.shape = some c.sh → P c → settle c (body c) = settle c (res c)) :
    Ends i P res := by
  intro s w c h hp
  obtain ⟨sc, body, h1, h2⟩ := he s
  obtain ⟨-, hsh, -, -, -, -, -, hr⟩ := begins_spec h
  rw [h1, hr, finish, h2 c hsh hp, finish]

end Sys2Proof.Machine
end

section
/-! SUPPORT. CALL, CALLR, RET and EXIT, part by part: the levels that a push spills and a return reads back, what keeps them from
being performed, and what each word then leaves (R34 to R37, R120 to R122, R187). -/
namespace Sys2Proof.Machine

/-! ### Levels that are spilled or read back -/

theorem mem_spillLevelsOf (x : LaneCtx) (v : Nat) :
    v ∈ spillLevelsOf x ↔ 16 ≤ x.ret.length ∧ x.depth.toNat - x.ret.length < v ∧ v ≤ x.depth.toNat - x.ret.length + 8
      ∧ x.trapLevel ≠ some (BitVec.ofNat 12 v) := by
  unfold spillLevelsOf
  split
  next h =>
    have h16 : 16 ≤ x.ret.length := h
    simp only [List.mem_filter, List.mem_map, List.mem_range, Config.spillLevels, decide_eq_true_eq, h16, true_and]
    rw [← and_assoc]
    refine and_congr_left fun _ => ⟨?_, fun ⟨h1, h2⟩ => ⟨v - (x.depth.toNat - x.ret.length + 1), by omega, by omega⟩⟩
    rintro ⟨k, hk, rfl⟩
    omega
  next h =>
    have h16 : ¬ 16 ≤ x.ret.length := h
    simp only [List.not_mem_nil, h16, false_and]

theorem spillLevelsOf_of_room {x : LaneCtx} (h : x.ret.length < 16) : spillLevelsOf x = [] := if_neg (Nat.not_le.2 h)

/-- A level beyond the spill area is the first check of a spill (R36, log 86). -/
theorem verdictLevel_beyond_area (s : State) (w : Wave) (l : Lane) {v : Nat} (h : w.csz.toNat < v) :
    verdictLevel s w l true v = .fail 0 .callStack (w.csp + BitVec.ofNat 64 ((v - 1) * 256 + l.val * 8)) := by
  simp only [verdictLevel, h, decide_true, Bool.and_self, if_true]
  rfl

theorem refillLevels_of_one {x : LaneCtx} (h : x.ret.length = 1) :
    refillLevels x = (List.range (min 8 (x.depth.toNat - 1))).map fun k => x.depth.toNat - 1 - k := by
  have hne : x.ret.isEmpty = false := by
    rw [List.isEmpty_eq_false_iff, ← List.length_pos_iff, h]
    exact Nat.one_pos
  simp only [refillLevels, hne, h, Bool.false_eq_true, if_false, if_true]
  rfl

theorem refillLevels_of_two {x : LaneCtx} (h : 2 ≤ x.ret.length) : refillLevels x = [] := by
  have hne : x.ret.isEmpty = false := by
    rw [List.isEmpty_eq_false_iff, ← List.length_pos_iff]
    omega
  simp only [refillLevels, hne, show ¬ x.ret.length = 1 by omega, Bool.false_eq_true, if_false, Nat.min_zero, List.range_zero, List.map_nil]

theorem mem_fillLevelsOf (x : LaneCtx) (v : Nat) :
    v ∈ fillLevelsOf x ↔ v ∈ refillLevels x ∧ x.trapLevel ≠ some (BitVec.ofNat 12 v) := by
  simp only [fillLevelsOf, List.mem_filter, isEntryLevel, Bool.not_eq_true', decide_eq_false_iff_not, ne_eq]

/-! ### What keeps levels from being spilled or read back -/

theorem levelsStop_of_no_levels {c : Ctx} {levels : Lane → List Nat} (wr : Bool) (h : ∀ l, c.exec.has l = true → levels l = []) :
    levelsStop c wr levels = none := by
  have hverdicts : levelVerdicts c wr levels = [] :=
    List.flatMap_eq_nil_iff.2 fun l hl => by rw [h l ((Mask.mem_lanes _ l).1 hl), List.map_nil]
  have hworst : worstLevels c wr levels = none := worst_eq_none fun l hl => by
    rw [Lanes.get_of, h l hl]
    rfl
  simp only [levelsStop, hverdicts, hworst, List.filterMap_nil]
  have hwait : levelsWait c wr [] = none := by
    cases wr with
    | true => rfl
    | false => simp only [levelsWait, List.filterMap_nil, List.filter_nil, List.any_nil, List.isEmpty_nil, Bool.not_true, Bool.and_false,
        Bool.false_eq_true, if_false]
  rw [hwait, Option.map_none]

theorem levelsStop_of_worst {c : Ctx} {levels : Lane → List Nat} {wr : Bool} {t : Trap} {m : Mask} {a : DWord}
    (hp : ∀ x ∈ levelVerdicts c wr levels, poisonIn x.2 = none) (hw : worstLevels c wr levels = some (t, m, a)) :
    levelsStop c wr levels = some (c.trap t m a) := by
  have hnil : ((levelVerdicts c wr levels).filterMap fun x => (poisonIn x.2).map fun y => (x.1, y)) = [] :=
    List.filterMap_eq_nil_iff.2 fun x hx => by rw [hp x hx, Option.map_none]
  simp only [levelsStop, hnil, hw]

/-- The trap of the earliest check that fails, with no lane done. -/
def worstTrap (c : Ctx) (x : Option (Trap × Mask × DWord)) : Res :=
  match x with
  | some (t, m, a) => .trap c.s (.at t m 0 c.r a)
  | none => .settled c.s

theorem levelsStop_eq_worstTrap {c : Ctx} {levels : Lane → List Nat} {wr : Bool}
    (hp : ∀ x ∈ levelVerdicts c wr levels, poisonIn x.2 = none) (hw : (worstLevels c wr levels).isSome) :
    levelsStop c wr levels = some (worstTrap c (worstLevels c wr levels)) := by
  obtain ⟨⟨t, m, a⟩, h⟩ := Option.isSome_iff_exists.1 hw
  rw [levelsStop_of_worst hp h, h]
  rfl

/-! ### CALL and CALLR -/

/-- The state after the spills of a push. -/
def spillAll (c : Ctx) : State :=
  c.exec.lanes.foldl (fun s l => (spillLevelsOf (laneOf c.w l)).foldl (fun s v => spillOne s c l v) s) c.s

/-- The lane after a push: the entries that were spilled are no longer on chip (R34, R35). -/
def pushedLane (pc : Pc) (x : LaneCtx) : LaneCtx :=
  { x with depth := x.depth + 1
           ret := (pc + 4).zeroExtend 64 :: if 16 ≤ x.ret.length then x.ret.take (x.ret.length - 8) else x.ret }

/-- The lanes pushed in a state in which their levels have been spilled. -/
def pushed (c : Ctx) (s : State) (t : Lane → Pc) : Res :=
  .done ⟨modWave s c.w.id fun w => mapLanes w c.exec fun _ x => pushedLane c.r.pc x, c.exec, none, true, false, fun l => some (t l)⟩

theorem foldl_of_fixed {α β : Type} {f : β → α → β} {l : List α} (h : ∀ x ∈ l, ∀ b, f b x = b) (b : β) : l.foldl f b = b := by
  induction l with
  | nil => rfl
  | cons x l ih =>
    rw [List.foldl_cons, h x List.mem_cons_self]
    exact ih fun y hy => h y (List.mem_cons_of_mem _ hy)

theorem spillAll_of_room {c : Ctx} (h : ∀ l, c.exec.has l = true → (laneOf c.w l).ret.length < 16) : spillAll c = c.s :=
  foldl_of_fixed (fun l hl b => by rw [spillLevelsOf_of_room (h l ((Mask.mem_lanes _ l).1 hl)), List.foldl_nil]) c.s

theorem pushCalls_eq (c : Ctx) (t : Lane → Pc) :
    pushCalls c t = pushed c (spillAll c) t := by
  have hlane : ∀ x : LaneCtx, { x with
      depth := x.depth + 1
      ret := (c.r.pc + 4).zeroExtend 64 :: x.ret.take (x.ret.length - if Config.chipLevels ≤ x.ret.length then Config.spillLevels else 0) }
        = pushedLane c.r.pc x := by
    intro x
    unfold pushedLane
    congr 2
    by_cases h : 16 ≤ x.ret.length
    · rw [if_pos h, if_pos (show Config.chipLevels ≤ _ from h)]
      rfl
    · rw [if_neg h, if_neg (show ¬ Config.chipLevels ≤ _ from h), Nat.sub_zero, List.take_length]
  simp only [pushCalls, hlane]
  rfl

section
variable {c : Ctx} {t : Lane → Pc} (hd : ∀ l, c.exec.has l = true → (laneOf c.w l).depth ≠ 4095)
  (ht : ∀ l, c.exec.has l = true → (t l).extractLsb' 0 2 = 0)
include hd ht

/-- A call whose targets are aligned, with depth to spare, is stopped by its spills alone (R120). -/
theorem callTo_of_legal :
    callTo c t = (levelsStop c true fun l => spillLevelsOf (laneOf c.w l)).getD (pushCalls c t) := by
  have hbad : (Mask.of fun l => c.exec.has l && bitsOf (t l).toNat 0 2 ≠ 0).lowest = none :=
    Mask.lowest_of_eq_none.2 (Mask.and_test_eq_false fun l hl => by rw [bitsOf_ne_zero, ht l hl]; rfl)
  have hfull : (Mask.of fun l => c.exec.has l && (laneOf c.w l).depth = 4095).lowest = none :=
    Mask.lowest_of_eq_none.2 (Mask.and_test_eq_false fun l hl => decide_eq_false (hd l hl))
  simp only [callTo, hbad, hfull]
  cases levelsStop c true fun l => spillLevelsOf (laneOf c.w l) <;> rfl

/-- A push with its spills performed (R35). -/
theorem callTo_of_spills (hs : (levelsStop c true fun l => spillLevelsOf (laneOf c.w l)) = none) :
    callTo c t = pushed c (spillAll c) t := by
  rw [callTo_of_legal hd ht, hs, Option.getD_none, pushCalls_eq]

/-- A push of which a spill fails a check (R36). -/
theorem callTo_of_worst
    (hp : ∀ x ∈ levelVerdicts c true (fun l => spillLevelsOf (laneOf c.w l)), poisonIn x.2 = none)
    (hw : (worstLevels c true fun l => spillLevelsOf (laneOf c.w l)).isSome) :
    callTo c t = worstTrap c (worstLevels c true fun l => spillLevelsOf (laneOf c.w l)) := by
  rw [callTo_of_legal hd ht, levelsStop_eq_worstTrap hp hw, Option.getD_some]

end

/-- A push with no level to spill changes its lanes alone (R120). -/
theorem callTo_of_room {c : Ctx} {t : Lane → Pc}
    (hroom : ∀ l, c.exec.has l = true → (laneOf c.w l).depth ≠ 4095 ∧ (laneOf c.w l).ret.length < 16)
    (ht : ∀ l, c.exec.has l = true → (t l).extractLsb' 0 2 = 0) :
    callTo c t = pushed c c.s t := by
  rw [callTo_of_legal (fun l hl => (hroom l hl).1) ht,
    levelsStop_of_no_levels true fun l hl => spillLevelsOf_of_room (hroom l hl).2, Option.getD_none, pushCalls_eq,
    spillAll_of_room fun l hl => (hroom l hl).2]

/-- The target of a lane that traps with ALIGN. -/
def misaligned (c : Ctx) (t : Lane → Pc) (l : Lane) : Bool := c.exec.has l && (t l).extractLsb' 0 2 != 0

theorem callTo_of_misaligned {c : Ctx} {t : Lane → Pc} {l : Lane} (h : misaligned c t l = true) :
    callTo c t = c.trap .align (Mask.of (misaligned c t)) ((t ((Mask.of (misaligned c t)).lowest.getD 0)).zeroExtend 64) := by
  obtain ⟨k, hk⟩ := Mask.lowest_of_ne_none h
  have hbad : (Mask.of fun l => c.exec.has l && bitsOf (t l).toNat 0 2 ≠ 0) = Mask.of (misaligned c t) := by
    congr 1
    funext l
    rw [bitsOf_ne_zero, misaligned]
  simp only [callTo, hbad, hk, Option.getD_some]

theorem callTo_of_full {c : Ctx} {t : Lane → Pc} (ht : ∀ l, (t l).extractLsb' 0 2 = 0) {l : Lane} (hl : c.exec.has l = true)
    (hd : (laneOf c.w l).depth = 4095) :
    callTo c t = c.trap .callStack (Mask.of fun l => c.exec.has l && (laneOf c.w l).depth = 4095) (c.r.pc.zeroExtend 64) := by
  have hbad : (Mask.of fun l => c.exec.has l && bitsOf (t l).toNat 0 2 ≠ 0).lowest = none :=
    Mask.lowest_of_eq_none.2 fun l => by rw [bitsOf_ne_zero, ht l]; exact Bool.and_false _
  obtain ⟨k, hk⟩ := Mask.lowest_of_ne_none (p := fun l => c.exec.has l && (laneOf c.w l).depth = 4095) (l := l) (by rw [hl, hd]; rfl)
  simp only [callTo, hbad, hk]

/-! ### RET -/

/-- The lane's levels on chip once those that its return needs have been read back. -/
def levelsBack (c : Ctx) (l : Lane) : List DWord :=
  (laneOf c.w l).ret ++ (refillLevels (laneOf c.w l)).map fun v =>
    if (laneOf c.w l).trapLevel = some (BitVec.ofNat 12 v) then 0 else fillOne c l v

/-- The lanes popped in a state in which the given levels are on chip (R37, R121). -/
def returned (c : Ctx) (s : State) (levels : Lane → List DWord) : Res :=
  .done
    { s := modWave (addReleases s c.w (c.exec.lanes.flatMap fun l => releasesAt (laneOf c.w l) (laneOf c.w l).depth l)) c.w.id
        fun w => mapLanes w c.exec fun l x => { x with depth := x.depth - 1, ret := (levels l).drop 1 }
      adv := c.exec, vals := none, ends := true, back := false, goes := fun l => some (((levels l).head?.getD 0).extractLsb' 0 48) }

/-- The levels of lanes that do not return play no part. -/
theorem settle_returned_congr (c : Ctx) (s : State) {f g : Lane → List DWord} (h : ∀ l, c.exec.has l = true → f l = g l) :
    settle c (returned c s f) = settle c (returned c s g) := by
  have hlanes : ∀ w, (mapLanes w c.exec fun l x => { x with depth := x.depth - 1, ret := (f l).drop 1 })
      = mapLanes w c.exec fun l x => { x with depth := x.depth - 1, ret := (g l).drop 1 } :=
    fun w => mapLanes_congr fun l hl x => by rw [h l hl]
  simp only [returned, hlanes]
  refine settle_goes_congr c ⟨_, c.exec, none, true, false, fun l => some (((g l).head?.getD 0).extractLsb' 0 48)⟩
    (g := fun l => some (((f l).head?.getD 0).extractLsb' 0 48)) fun l hl => ?_
  exact congrArg (fun x : List DWord => some ((x.head?.getD 0).extractLsb' 0 48)) (h l hl)

/-- The entry that a lane returns by. -/
def retEntry (c : Ctx) (l : Lane) : DWord := (levelsBack c l).head?.getD 0

/-- A lane whose entry is no address of a word. -/
def badEntry (c : Ctx) (l : Lane) : Bool :=
  c.exec.has l && ((retEntry c l).extractLsb' 48 16 != 0 || (retEntry c l).extractLsb' 0 2 != 0)

theorem filled_ret (c : Ctx) (l : Lane) : (filled c l).ret = levelsBack c l := by
  simp only [filled, levelsBack, isEntryLevel, decide_eq_true_eq]

theorem nthD_filled (c : Ctx) (l : Lane) : nthD (filled c l).ret 0 0 = retEntry c l := by
  rw [filled_ret, nthD, retEntry, List.head?_eq_getElem?]

theorem badEntries_eq (c : Ctx) :
    (Mask.of fun l => c.exec.has l && (bitsOf (nthD (filled c l).ret 0 0).toNat 48 16 ≠ 0 || bitsOf (nthD (filled c l).ret 0 0).toNat 0 2 ≠ 0))
      = Mask.of (badEntry c) := by
  congr 1
  funext l
  rw [nthD_filled, bitsOf_ne_zero, bitsOf_ne_zero, badEntry]

theorem popReturns_of_bad {c : Ctx} {l : Lane} (h : badEntry c l = true) :
    popReturns c = c.trap .callStack (Mask.of fun l => some l = (Mask.of (badEntry c)).lowest) (c.r.pc.zeroExtend 64) := by
  obtain ⟨k, hk⟩ := Mask.lowest_of_ne_none h
  simp only [popReturns, badEntries_eq, hk, Option.some.injEq]

theorem popReturns_of_good {c : Ctx} (h : ∀ l, badEntry c l = false) :
    popReturns c = returned c (if retFills c then fillLevels c else c.s) (levelsBack c) := by
  simp only [popReturns, badEntries_eq, Mask.lowest_of_eq_none.2 h]
  simp only [nthD_filled]
  simp only [filled_ret, returned, retEntry]

theorem retBody_of_empty {c : Ctx} {l : Lane} (hl : c.exec.has l = true) (hd : (laneOf c.w l).depth = 0) :
    retBody c = c.trap .callStack (Mask.of fun l => c.exec.has l && (laneOf c.w l).depth = 0) (c.r.pc.zeroExtend 64) := by
  have hzero := Mask.of_ne_zero (p := fun l => c.exec.has l && (laneOf c.w l).depth = 0) (l := l) (by rw [hl, hd]; rfl)
  simp only [retBody]
  rw [if_pos hzero]

theorem emptyLanes_eq_zero {c : Ctx} (hd : ∀ l, c.exec.has l = true → (laneOf c.w l).depth ≠ 0) :
    (Mask.of fun l => c.exec.has l && (laneOf c.w l).depth = 0) = 0 :=
  Mask.of_eq_zero.2 (Mask.and_test_eq_false fun l hl => decide_eq_false (hd l hl))

theorem retBody_of_trap_entry {c : Ctx} (hd : ∀ l, c.exec.has l = true → (laneOf c.w l).depth ≠ 0) {l : Lane} (hl : c.exec.has l = true)
    (he : (laneOf c.w l).trapLevel = some (laneOf c.w l).depth) :
    retBody c = c.trap .callStack (Mask.of fun l => c.exec.has l && (laneOf c.w l).trapLevel = some (laneOf c.w l).depth)
      (c.r.pc.zeroExtend 64) := by
  have hentry := Mask.of_ne_zero (p := fun l => c.exec.has l && (laneOf c.w l).trapLevel = some (laneOf c.w l).depth) (l := l)
    (by rw [hl, he, decide_eq_true rfl]; rfl)
  simp only [retBody]
  rw [if_neg (not_not_intro (emptyLanes_eq_zero hd)), if_pos hentry]

/-- A lane whose return leaves a level on chip, or none to read back, reads none back (R35). -/
theorem refillLevels_of_held {x : LaneCtx} (h : 2 ≤ x.ret.length ∨ x.ret.length = 1 ∧ x.depth = 1) : refillLevels x = [] := by
  rcases h with h | ⟨h, hd⟩
  · exact refillLevels_of_two h
  · rw [refillLevels_of_one h, hd]
    rfl

theorem retFills_iff (c : Ctx) : retFills c = true ↔ ∃ l, c.exec.has l = true ∧ refillLevels (laneOf c.w l) ≠ [] := by
  simp only [retFills, List.any_eq_true, Mask.mem_lanes, Bool.not_eq_true', List.isEmpty_eq_false_iff]

/-- A return that reads no level back leaves the lanes with what they had on chip (R121). -/
theorem levelsBack_of_held {c : Ctx} {l : Lane} (h : refillLevels (laneOf c.w l) = []) : levelsBack c l = (laneOf c.w l).ret := by
  rw [levelsBack, h, List.map_nil, List.append_nil]

theorem fillLevelsOf_of_held {x : LaneCtx} (h : refillLevels x = []) : fillLevelsOf x = [] := by
  rw [fillLevelsOf, h, List.filter_nil]

section
variable {c : Ctx}
  (hlive : ∀ l, c.exec.has l = true → (laneOf c.w l).depth ≠ 0 ∧ (laneOf c.w l).trapLevel ≠ some (laneOf c.w l).depth)
include hlive

/-- A return from levels that are none of them empty or a trap's is stopped by its fills alone (R121). -/
theorem retBody_of_live :
    retBody c = (levelsStop c false fun l => fillLevelsOf (laneOf c.w l)).getD (popReturns c) := by
  have hentry : (Mask.of fun l => c.exec.has l && (laneOf c.w l).trapLevel = some (laneOf c.w l).depth) = 0 :=
    Mask.of_eq_zero.2 (Mask.and_test_eq_false fun l hl => decide_eq_false (hlive l hl).2)
  simp only [retBody]
  rw [if_neg (not_not_intro (emptyLanes_eq_zero fun l hl => (hlive l hl).1)), if_neg (not_not_intro hentry)]
  cases levelsStop c false fun l => fillLevelsOf (laneOf c.w l) <;> rfl

/-- A return whose levels are all on chip. -/
theorem retBody_of_held (hheld : ∀ l, c.exec.has l = true → refillLevels (laneOf c.w l) = []) (hgood : ∀ l, badEntry c l = false) :
    retBody c = returned c c.s (levelsBack c) := by
  have hnofill : retFills c = false := Bool.eq_false_iff.2 fun h => by
    obtain ⟨l, hl, hne⟩ := (retFills_iff c).1 h
    exact hne (hheld l hl)
  rw [retBody_of_live hlive, levelsStop_of_no_levels false fun l hl => fillLevelsOf_of_held (hheld l hl), Option.getD_none,
    popReturns_of_good hgood, hnofill]
  rfl

/-- A return that reads levels back. -/
theorem retBody_of_fills (hs : (levelsStop c false fun l => fillLevelsOf (laneOf c.w l)) = none)
    (hfills : ∃ l, c.exec.has l = true ∧ refillLevels (laneOf c.w l) ≠ []) (hgood : ∀ l, badEntry c l = false) :
    retBody c = returned c (fillLevels c) (levelsBack c) := by
  rw [retBody_of_live hlive, hs, Option.getD_none, popReturns_of_good hgood, if_pos ((retFills_iff c).2 hfills)]

/-- A return of which a lane has a bad entry: the lowest such lane traps (R8, R9). -/
theorem retBody_of_bad (hs : (levelsStop c false fun l => fillLevelsOf (laneOf c.w l)) = none) {l : Lane} (hbad : badEntry c l = true) :
    retBody c = c.trap .callStack (Mask.of fun l => some l = (Mask.of (badEntry c)).lowest) (c.r.pc.zeroExtend 64) := by
  rw [retBody_of_live hlive, hs, Option.getD_none, popReturns_of_bad hbad]

/-- A return of which a fill fails a check (R36). -/
theorem retBody_of_worst (hp : ∀ x ∈ levelVerdicts c false (fun l => fillLevelsOf (laneOf c.w l)), poisonIn x.2 = none)
    (hw : (worstLevels c false fun l => fillLevelsOf (laneOf c.w l)).isSome) :
    retBody c = worstTrap c (worstLevels c false fun l => fillLevelsOf (laneOf c.w l)) := by
  rw [retBody_of_live hlive, levelsStop_eq_worstTrap hp hw, Option.getD_some]

end

/-- RET with its levels on chip: the entry of each lane that executes is the one on top. -/
theorem ret_ends_of_held (e : Bool) :
    Ends (.ret e) (fun c => ∀ l, c.exec.has l = true → (laneOf c.w l).depth ≠ 0 ∧ (laneOf c.w l).trapLevel ≠ some (laneOf c.w l).depth
        ∧ (2 ≤ (laneOf c.w l).ret.length ∨ (laneOf c.w l).ret.length = 1 ∧ (laneOf c.w l).depth = 1)
        ∧ ((laneOf c.w l).ret.head?.getD 0).extractLsb' 48 16 = 0 ∧ ((laneOf c.w l).ret.head?.getD 0).extractLsb' 0 2 = 0)
      (fun c => returned c c.s fun l => (laneOf c.w l).ret) := by
  refine ends_of_settle fun _ => ⟨_, _, rfl, fun c _ h => ?_⟩
  have hheld : ∀ l, c.exec.has l = true → refillLevels (laneOf c.w l) = [] := fun l hl => refillLevels_of_held (h l hl).2.2.1
  have hback : ∀ l, c.exec.has l = true → levelsBack c l = (laneOf c.w l).ret := fun l hl => levelsBack_of_held (hheld l hl)
  have hgood : ∀ l, badEntry c l = false := Mask.and_test_eq_false fun l hl => by
    obtain ⟨-, -, -, h48, h0⟩ := h l hl
    rw [retEntry, hback l hl, h48, h0]
    rfl
  rw [retBody_of_held (fun l hl => ⟨(h l hl).1, (h l hl).2.1⟩) hheld hgood]
  exact settle_returned_congr c c.s hback

/-! ### The words -/

theorem call_ends {e : Bool} {o : BitVec 20} {P : Ctx → Prop} {res : Ctx → Res}
    (h : ∀ c, P c → callTo c (fun _ => target c.r.pc o) = res c) : Ends (.call e o) P res :=
  ends_of fun _ => ⟨_, _, rfl, fun c _ hp => h c hp⟩

theorem callr_ends {e : Bool} {a : Reg} {P : Ctx → Prop} {res : Ctx → Res}
    (h : ∀ c, P c → callTo c (fun l => (c.pair 0 l).extractLsb' 0 48) = res c) : Ends (.callr e a) P res :=
  ends_of fun _ => ⟨_, _, rfl, fun c _ hp => h c hp⟩

theorem ret_ends {e : Bool} {P : Ctx → Prop} {res : Ctx → Res} (h : ∀ c, P c → retBody c = res c) : Ends (.ret e) P res :=
  ends_of fun _ => ⟨_, _, rfl, fun c _ hp => h c hp⟩

/-- EXIT is an access to the join counters of the lanes (R187). -/
theorem exit_ends {e : Bool} {P : Ctx → Prop} {res : Ctx → Res}
    (h : ∀ c, P c → access c (Lanes.of fun l => exitVerdict c l) (fun m => flushJoins (exitLanes c.s c m) c.w.id)
      (fun t => .done ⟨t, c.exec, none, true, false, fun _ => some exitedPc⟩) = res c) : Ends (.exit e) P res :=
  ends_of fun _ => ⟨_, _, rfl, fun c _ hp => h c hp⟩

/-- Settles O17, word by word: CALL and CALLR by `callTo`, RET by `retBody`, EXIT by its access to the join counters. -/
theorem callsAndReturns : Obligations.CallsAndReturns := by
  refine ⟨fun e o a => ⟨call_ends fun c ⟨hroom, ht⟩ => callTo_of_room hroom fun _ _ => ht,
      callr_ends fun c ⟨hroom, ht⟩ => callTo_of_room hroom ht⟩,
    fun e o a => ⟨mem_spillLevelsOf, fun s w l v wr hwr hv => hwr ▸ verdictLevel_beyond_area s w l hv,
      call_ends fun c ⟨hd, ht, hs⟩ => callTo_of_spills hd (fun _ _ => ht) hs, callr_ends fun c ⟨hd, ht, hs⟩ => callTo_of_spills hd ht hs,
      call_ends fun c ⟨hd, ht, hp, hw⟩ => callTo_of_worst hd (fun _ _ => ht) hp hw,
      callr_ends fun c ⟨hd, ht, hp, hw⟩ => callTo_of_worst hd ht hp hw⟩,
    fun e o a => ⟨callr_ends fun c ⟨l, hl⟩ => callTo_of_misaligned hl, call_ends fun c ⟨ht, l, hl, hd⟩ => callTo_of_full (fun _ => ht) hl hd⟩,
    fun e => ⟨ret_ends_of_held e, ret_ends fun c ⟨l, hl, hd⟩ => retBody_of_empty hl hd⟩,
    fun e => ⟨fun _ => refillLevels_of_one, fun _ => refillLevels_of_two, mem_fillLevelsOf,
      ret_ends fun c ⟨hlive, hs, hfills, hgood⟩ => retBody_of_fills hlive hs hfills hgood,
      ret_ends fun c ⟨hlive, hs, l, hbad⟩ => retBody_of_bad hlive hs hbad,
      ret_ends fun c ⟨hd, l, hl, he⟩ => retBody_of_trap_entry hd hl he,
      ret_ends fun c ⟨hlive, hp, hw⟩ => retBody_of_worst hlive hp hw⟩,
    fun e => ⟨exit_ends fun c hpass => access_of_passes hpass _ _, exit_ends fun c ⟨hp, hn, hw⟩ => ?_⟩⟩
  obtain ⟨⟨t, m, a⟩, h⟩ := Option.isSome_iff_exists.1 hw
  rw [h]
  exact access_of_worst hp hn h _ _

end Sys2Proof.Machine
end

section
/-! SUPPORT. The encoder read forwards: every instruction that has a word is read back from that word, so every operand is
read back at every value; and the words that no instruction has: those of a reserved major (R43 to R64, R67). -/
namespace Sys2Proof

/-- Every row: the fields of its word, if it has one, are those that the decoder reads. -/
theorem Laws.RoundTrip.statement_holds (i : Instr) : Laws.RoundTrip.Statement i := by
  cases i with
  | addS32 => exact addS32 ..
  | subS32 => exact subS32 ..
  | mulS32 => exact mulS32 ..
  | mulhS32 => exact mulhS32 ..
  | mulhZ32 => exact mulhZ32 ..
  | minS32 => exact minS32 ..
  | maxS32 => exact maxS32 ..
  | minZ32 => exact minZ32 ..
  | maxZ32 => exact maxZ32 ..
  | divS32 => exact divS32 ..
  | divZ32 => exact divZ32 ..
  | remS32 => exact remS32 ..
  | remZ32 => exact remZ32 ..
  | absS32 => exact absS32 ..
  | negS32 => exact negS32 ..
  | popc => exact popc ..
  | andB32 => exact andB32 ..
  | orB32 => exact orB32 ..
  | xorB32 => exact xorB32 ..
  | andnB32 => exact andnB32 ..
  | shlB32 => exact shlB32 ..
  | shrB32 => exact shrB32 ..
  | shraS32 => exact shraS32 ..
  | rotB32 => exact rotB32 ..
  | clz => exact clz ..
  | brev => exact brev ..
  | bfxS32 => exact bfxS32 ..
  | bfxZ32 => exact bfxZ32 ..
  | bfi => exact bfi ..
  | madS32 => exact madS32 ..
  | mov => exact mov ..
  | addS64 => exact addS64 ..
  | subS64 => exact subS64 ..
  | mulS64 => exact mulS64 ..
  | minS64 => exact minS64 ..
  | maxS64 => exact maxS64 ..
  | minZ64 => exact minZ64 ..
  | maxZ64 => exact maxZ64 ..
  | negS64 => exact negS64 ..
  | shlB64 => exact shlB64 ..
  | shrB64 => exact shrB64 ..
  | shraS64 => exact shraS64 ..
  | mulhS64 => exact mulhS64 ..
  | mulhZ64 => exact mulhZ64 ..
  | absS64 => exact absS64 ..
  | madS64 => exact madS64 ..
  | lea => exact lea ..
  | sel => exact sel ..
  | cmp32 => exact cmp32 ..
  | cmp64 => exact cmp64 ..
  | shlB32Imm => exact shlB32Imm ..
  | shrB32Imm => exact shrB32Imm ..
  | shraS32Imm => exact shraS32Imm ..
  | rotB32Imm => exact rotB32Imm ..
  | shlB64Imm => exact shlB64Imm ..
  | shrB64Imm => exact shrB64Imm ..
  | shraS64Imm => exact shraS64Imm ..
  | addS32Imm => exact addS32Imm ..
  | mulS32Imm => exact mulS32Imm ..
  | ldi => exact ldi ..
  | ldhi => exact ldhi ..
  | fadd => exact fadd ..
  | fsub => exact fsub ..
  | fmul => exact fmul ..
  | ffma => exact ffma ..
  | fmin => exact fmin ..
  | fmax => exact fmax ..
  | frcp => exact frcp ..
  | frsq => exact frsq ..
  | fsqrt => exact fsqrt ..
  | fexp2 => exact fexp2 ..
  | flog2 => exact flog2 ..
  | fsinpi => exact fsinpi ..
  | fcospi => exact fcospi ..
  | fclass => exact fclass ..
  | hadd2 => exact hadd2 ..
  | hmul2 => exact hmul2 ..
  | hfma2 => exact hfma2 ..
  | dot4S8 => exact dot4S8 ..
  | dot4Z8 => exact dot4Z8 ..
  | fcmp => exact fcmp ..
  | cvt => exact cvt ..
  | cvtFloatSource => exact cvtFloatSource ..
  | frnd => exact frnd ..
  | shfl => exact shfl ..
  | voteAny => exact voteAny ..
  | voteAll => exact voteAll ..
  | voteBallot => exact voteBallot ..
  | voteEq => exact voteEq ..
  | wred => exact wred ..
  | wscan => exact wscan ..
  | pmovR2p => exact pmovR2p ..
  | pmovP2r => exact pmovP2r ..
  | pmovAnd => exact pmovAnd ..
  | pmovOr => exact pmovOr ..
  | pmovXor => exact pmovXor ..
  | pmovAndn => exact pmovAndn ..
  | pmovNot => exact pmovNot ..
  | winb => exact winb ..
  | rclaim => exact rclaim ..
  | rgive => exact rgive ..
  | bra => exact bra ..
  | brp => exact brp ..
  | call => exact call ..
  | callr => exact callr ..
  | ret => exact ret ..
  | exit => exact exit ..
  | nop => exact nop ..
  | ld => exact ld ..
  | ldR => exact ldR ..
  | st => exact st ..
  | lda => exact lda ..
  | sta => exact sta ..
  | ldc => exact ldc ..
  | prefL1 => exact prefL1 ..
  | prefLlc => exact prefLlc ..
  | pagereq => exact pagereq ..
  | colour => exact colour ..
  | tagset => exact tagset ..
  | tagget => exact tagget ..
  | fence => exact fence ..
  | acq => exact acq ..
  | rel => exact rel ..
  | cjoin => exact cjoin ..
  | cleave => exact cleave ..
  | atomInt => exact atomInt ..
  | atomExt => exact atomExt ..
  | redInt => exact redInt ..
  | redExt => exact redExt ..
  | semsig => exact semsig ..
  | semwait => exact semwait ..
  | semtake => exact semtake ..
  | spawn => exact spawn ..
  | joinw => exact joinw ..
  | bar => exact bar ..
  | cwait => exact cwait ..
  | csig => exact csig ..
  | enqt => exact enqt ..
  | mma => exact mma ..
  | mmas => exact mmas ..
  | cinit => exact cinit ..
  | cdrain => exact cdrain ..
  | tdef => exact tdef ..
  | tset => exact tset ..
  | ckmode => exact ckmode ..
  | qbind => exact qbind ..
  | qstat => exact qstat ..
  | srd => exact srd ..
  | swr => exact swr ..
  | trap => exact trap ..
  | rte => exact rte ..
  | bkpt => exact bkpt ..
  | step => exact step ..
  | mark => exact mark ..
  | pcnt => exact pcnt ..
  | wset => exact wset ..
  | wclr => exact wclr ..
  | _ => exact ⟨fun _ h => (nomatch h), rfl⟩

/-- The instructions that have a word are those with a shape. -/
theorem encode_isSome (i : Instr) : (encode i).isSome = i.shape.isSome := by
  rw [encode, Option.isSome_map, (Laws.RoundTrip.statement_holds i).2]

theorem decode_of_encode {i : Instr} {w : Word} (hi : i.wellFormed = true) (hw : encode i = some w) : decode w = .ok i := by
  obtain ⟨z, hz, rfl⟩ := Option.map_eq_some_iff.1 hw
  obtain ⟨hfields, hlt⟩ := (Laws.RoundTrip.statement_holds i).1 z hz
  refine (decode_eq_ok _ i).2 ⟨?_, Option.isNone_iff_eq_none.1 hi⟩
  rwa [BitVec.toNat_ofNat, Nat.mod_eq_of_lt hlt]

/-- Settles O50: an instruction with a shape has a word, and the decoder reads its fields back. -/
theorem encodingRoundTrip : Obligations.EncodingRoundTrip := by
  intro i hi hshape
  obtain ⟨w, hw⟩ := Option.isSome_iff_exists.1 ((encode_isSome i).trans hshape)
  exact ⟨w, hw, decode_of_encode hi hw⟩

/-! ### Words that are written out -/

/-- The field of a word as the decoder reads it (R5). -/
theorem bitsOf_toNat {n : Nat} (x : BitVec n) (lo k : Nat) : bitsOf x.toNat lo k = (x.extractLsb' lo k).toNat := by
  rw [bitsOf, BitVec.extractLsb'_toNat, Nat.shiftRight_eq_div_pow]

theorem bitsOf_toNat_mem {n : Nat} {x : BitVec n} {lo k : Nat} {l : List (BitVec k)} (h : x.extractLsb' lo k ∈ l) :
    bitsOf x.toNat lo k ∈ l.map BitVec.toNat := by
  rw [bitsOf_toNat]
  exact List.mem_map_of_mem h

theorem decode_of_error {w : Word} {x : DecodeError} (h : decodeFields w.toNat = .error x) : decode w = .error x := by
  rw [decode, h]
  rfl

/-- R52: the majors that no instruction has. -/
theorem decodeFields_of_reserved {w : Nat} (h : bitsOf w 25 6 ∈ [0x00, 0x25, 0x26, 0x27, 0x2F, 0x37, 0x3B, 0x3E, 0x3F]) :
    decodeFields w = .error (.reservedMajor (bitsOf w 25 6)) := by
  simp only [List.mem_cons, List.not_mem_nil, or_false] at h
  obtain h | h | h | h | h | h | h | h | h := h <;> simp only [decodeFields, h]

/-- Settles O52: each word is that of its instruction, which the decoder reads back; a reserved major has no fields. -/
theorem wordsDecode : Obligations.WordsDecode := by
  refine ⟨?_, fun w h => decode_of_error ?_⟩
  · and_intros <;> exact decode_of_encode rfl rfl
  · rw [← bitsOf_toNat]
    exact decodeFields_of_reserved (bitsOf_toNat_mem h)

end Sys2Proof
end

section
/-! SUPPORT. CMP and FCMP: the predicate that each condition writes, and the condition codes that no word has (R54, R106, R131). -/
namespace Sys2Proof

/-! ### The codes of the conditions -/

/-- A word with a predicate destination and a condition does not decode when its condition has no meaning (R54). -/
theorem condition_error {α : Type} {g : Nat → Option α} {w : Nat} (h : g (bitsOf w 0 3) = none)
    (f : Pred → α → Except DecodeError Instr) :
    ∃ x, kZero w ((predF w 17).bind fun d => (enumF g .condition w 0 3).bind (f d)) = .error x := by
  have henum : enumF g .condition w 0 3 = .error .condition := by rw [enumF, h]
  rw [henum]
  unfold kZero
  split
  · cases predF w 17 with
    | error x => exact ⟨x, rfl⟩
    | ok d => exact ⟨.condition, rfl⟩
  · exact ⟨_, rfl⟩

/-- R54: the codes 6 and 7 stand for no condition. -/
theorem compare_error {w : Nat} (hm : bitsOf w 25 6 ∈ [0x09, 0x0A, 0x16]) (hc : bitsOf w 0 3 ∈ [6, 7]) :
    ∃ x, decodeFields w = .error x := by
  have hcond : Cond.ofCode? (bitsOf w 0 3) = none ∧ FCond.ofCode? (bitsOf w 0 3) = none := by
    generalize bitsOf w 0 3 = c at hc
    simp only [List.mem_cons, List.not_mem_nil, or_false] at hc
    obtain rfl | rfl := hc <;> exact ⟨rfl, rfl⟩
  simp only [List.mem_cons, List.not_mem_nil, or_false] at hm
  obtain hm | hm | hm := hm <;> simp only [decodeFields, hm]
  · exact condition_error hcond.1 _
  · exact condition_error hcond.1 _
  · exact condition_error hcond.2 _

end Sys2Proof

namespace Sys2Proof.Machine

/-! ### CMP -/

theorem cmpBits_ne {n : Nat} (x y : BitVec n) : cmpBits .ne x y = (x != y) := decide_not

theorem cmp32_gives (e : Bool) (d : Pred) (a b : Reg) (k : Cond) :
    GivesP (.cmp32 e d a b k) d [a, b] (fun c l => cmpBits k (c.x 0 l) (c.x 1 l)) (fun _ _ => 0) :=
  givesP_of ⟨_, rfl, rfl, rfl⟩ fun _ => ⟨_, _, rfl, fun _ _ => rfl⟩

theorem cmp64_gives (e : Bool) (d : Pred) (a b : Reg) (k : Cond) :
    GivesP (.cmp64 e d a b k) d [a, b] (fun c l => cmpBits k (c.pair 0 l) (c.pair 1 l)) (fun _ _ => 0) :=
  givesP_of ⟨_, rfl, rfl, rfl⟩ fun _ => ⟨_, _, rfl, fun _ _ => rfl⟩

/-! ### FCMP -/

/-- Two values have no order when either is a NaN (R131). -/
theorem isNone_cmpNum (x y : Num) : (cmpNum x y).isNone = (isNan x || isNan y) := by
  cases x <;> cases y <;> rfl

/-- The predicate that a condition of FCMP gives by the order of the values (R54, R131). -/
def fcmpTest (k : FCond) (x y : Num) : Bool :=
  match k with
  | .eq => cmpNum x y == some .eq
  | .ne => cmpNum x y != some .eq
  | .lt => cmpNum x y == some .lt
  | .le => cmpNum x y == some .lt || cmpNum x y == some .eq
  | .un => cmpNum x y == none
  | .num => cmpNum x y != none

/-- The flags of FCMP: a NaN is invalid in an ordered condition, a signalling one in every condition (R88, R131). -/
def fcmpFlags (k : FCond) (x y : Num) : Flags :=
  match k with
  | .lt | .le => flagIf (isNan x || isNan y) fNV
  | .eq | .ne | .un | .num => flagIf (isSig x || isSig y) fNV

theorem fcmpNum_eq (k : FCond) (x y : Num) : fcmpNum k x y = (fcmpTest k x y, fcmpFlags k x y) := by
  cases k with
  | eq => simp only [fcmpNum, fcmpTest, fcmpFlags, Bool.beq_eq_decide_eq]
  | ne => simp only [fcmpNum, fcmpTest, fcmpFlags, bne, Bool.beq_eq_decide_eq, decide_not]
  | lt => simp only [fcmpNum, fcmpTest, fcmpFlags, Bool.beq_eq_decide_eq, isNone_cmpNum]
  | le => simp only [fcmpNum, fcmpTest, fcmpFlags, Bool.beq_eq_decide_eq, isNone_cmpNum]
  | un => simp only [fcmpNum, fcmpTest, fcmpFlags, Option.beq_none]
  | num => simp only [fcmpNum, fcmpTest, fcmpFlags, bne, Option.beq_none, Option.not_isNone]

/-- Source j of a lane as an FP32 value. -/
def floatOf (c : Ctx) (j : Nat) (l : Lane) : Num := floatVal f32Fmt (c.x j l).toNat

theorem fcmp_gives (e : Bool) (d : Pred) (a b : Reg) (k : FCond) :
    GivesP (.fcmp e d a b k) d [a, b] (fun c l => fcmpTest k (floatOf c 0 l) (floatOf c 1 l))
      (fun c l => fcmpFlags k (floatOf c 0 l) (floatOf c 1 l)) :=
  givesP_of ⟨_, rfl, rfl, rfl⟩ fun _ => ⟨_, _, rfl, fun _ _ => by simp only [fcmpNum_eq, floatOf, v32]⟩

/-! ### The statement -/

/-- Settles O6: each condition by its equation; a word with code 6 or 7 has no condition, and its step traps as O53 says. -/
theorem compares : Obligations.Compares := by
  refine ⟨fun e d a b => ?_, fun e d a b => ?_, rfl, rfl, fun w hm hc => ?_⟩
  · have hne32 := cmp32_gives e d a b .ne
    have hne64 := cmp64_gives e d a b .ne
    simp only [cmpBits_ne] at hne32 hne64
    exact ⟨cmp32_gives e d a b .eq, hne32, cmp32_gives e d a b .ltS, cmp32_gives e d a b .leS, cmp32_gives e d a b .ltZ,
      cmp32_gives e d a b .leZ, cmp64_gives e d a b .eq, hne64, cmp64_gives e d a b .ltS, cmp64_gives e d a b .leS,
      cmp64_gives e d a b .ltZ, cmp64_gives e d a b .leZ⟩
  · exact ⟨fcmp_gives e d a b .eq, fcmp_gives e d a b .ne, fcmp_gives e d a b .lt, fcmp_gives e d a b .le,
      fcmp_gives e d a b .un, fcmp_gives e d a b .num⟩
  · obtain ⟨x, hx⟩ := compare_error (bitsOf_toNat_mem hm) (bitsOf_toNat_mem hc)
    have hdecode : decode w = .error x := decode_of_error hx
    refine ⟨⟨x, hdecode⟩, fun s v r ia ha hh hcur hn hfetch => ?_⟩
    obtain ⟨hword, -⟩ := stepRunsTheWord s
    obtain ⟨-, hillegal, -⟩ := hword v r ha hh hcur hn
    exact hillegal ia w x hfetch hdecode

end Sys2Proof.Machine
end

section
/-! SUPPORT. Exact sums and products of NaNs, infinities and zeros (R74, R75, R93, R129). -/
namespace Sys2Proof.Machine

/-! ### NaNs -/

theorem eq_nan_of_isNan {x : Num} (h : isNan x = true) : x = .nan (isSig x) := by
  cases x with
  | nan s => rfl
  | inf n => cases h
  | fin n m e => cases h

theorem isNan_of_isSig {x : Num} (h : isSig x = true) : isNan x = true := by
  cases x with
  | nan s => rfl
  | inf n => cases h
  | fin n m e => cases h

theorem addNum_nan_right (md : Rnd) (x : Num) (b : Bool) : addNum md x (.nan b) = (.nan false, flagIf (isSig x || b) fNV) := by
  cases x with
  | nan a => rfl
  | inf n => simp only [addNum, isSig, Bool.or_false, Bool.false_or]
  | fin n m e => simp only [addNum, isSig, Bool.or_false, Bool.false_or]

theorem mulNum_nan_right (x : Num) (b : Bool) : mulNum x (.nan b) = (.nan false, flagIf (isSig x || b) fNV) := by
  cases x with
  | nan a => rfl
  | inf n => simp only [mulNum, isSig, Bool.or_false, Bool.false_or]
  | fin n m e => simp only [mulNum, isSig, Bool.or_false, Bool.false_or]

/-- A sum with a NaN is the canonical NaN, and invalid when one is signalling (R75, R93). -/
theorem addNum_of_isNan (md : Rnd) {x y : Num} (h : isNan x = true ∨ isNan y = true) :
    addNum md x y = (.nan false, flagIf (isSig x || isSig y) fNV) := by
  rcases h with hx | hy
  · rw [eq_nan_of_isNan hx]; rfl
  · rw [eq_nan_of_isNan hy]; exact addNum_nan_right md x _

/-- A product with a NaN is the canonical NaN, and invalid when one is signalling (R75, R93). -/
theorem mulNum_of_isNan {x y : Num} (h : isNan x = true ∨ isNan y = true) :
    mulNum x y = (.nan false, flagIf (isSig x || isSig y) fNV) := by
  rcases h with hx | hy
  · rw [eq_nan_of_isNan hx]; rfl
  · rw [eq_nan_of_isNan hy]; exact mulNum_nan_right x _

theorem addNum_mulNum_nan (md : Rnd) (s : Bool) (x : Num) :
    (addNum md (.nan s) x).1 = .nan false ∧ (addNum md x (.nan s)).1 = .nan false
      ∧ (mulNum (.nan s) x).1 = .nan false ∧ (mulNum x (.nan s)).1 = .nan false :=
  ⟨rfl, by rw [addNum_nan_right], rfl, by rw [mulNum_nan_right]⟩

theorem addNum_mulNum_flags_of_isSig (md : Rnd) {x y : Num} (h : isSig x = true ∨ isSig y = true) :
    (addNum md x y).2 = fNV ∧ (mulNum x y).2 = fNV := by
  have hn : isNan x = true ∨ isNan y = true := h.imp isNan_of_isSig isNan_of_isSig
  have hs : (isSig x || isSig y) = true := by rwa [Bool.or_eq_true]
  rw [addNum_of_isNan md hn, mulNum_of_isNan hn, hs]
  exact ⟨rfl, rfl⟩

theorem addNum_mulNum_flags_of_quiet (md : Rnd) {x y : Num} (hn : isNan x = true) (hx : isSig x = false) (hy : isSig y = false) :
    (addNum md x y).2 = 0 ∧ (mulNum x y).2 = 0 := by
  rw [addNum_of_isNan md (.inl hn), mulNum_of_isNan (.inl hn), hx, hy]
  exact ⟨rfl, rfl⟩

/-! ### Infinities -/

theorem addNum_inf_inf (md : Rnd) (n : Bool) :
    addNum md (.inf n) (.inf !n) = (.nan false, fNV) ∧ addNum md (.inf n) (.inf n) = (.inf n, 0) :=
  ⟨if_neg (by cases n <;> decide), if_pos rfl⟩

theorem mulNum_inf_fin {n n' : Bool} {m : Nat} {e : Int} (h : m ≠ 0) :
    mulNum (.inf n) (.fin n' m e) = (.inf (n != n'), 0) ∧ mulNum (.fin n' m e) (.inf n) = (.inf (n' != n), 0) := by
  constructor
  · simp only [mulNum, isZero, signOf, Bool.or_self, Bool.false_eq_true, if_false]
  · simp only [mulNum, isZero, signOf, Bool.or_self, Bool.false_eq_true, if_false]

/-- NV of the product stays set whatever is added. -/
theorem fmaNum_inf_zero (md : Rnd) (n : Bool) (z : Num) :
    (fmaNum md (.inf n) (.fin false 0 0) z).1 = .nan false ∧ (fmaNum md (.inf n) (.fin false 0 0) z).2 &&& fNV = fNV := by
  refine ⟨rfl, ?_⟩
  show (fNV ||| (addNum md (.nan false) z).2) &&& fNV = fNV
  generalize (addNum md (.nan false) z).2 = fl
  ext i hi
  simp only [BitVec.getElem_and, BitVec.getElem_or]
  cases fNV[i] <;> simp

/-! ### Sums of finite values that are zero (R74) -/

@[simp] theorem mant_not (n : Bool) (m : Nat) : mant (!n) m = -mant n m := by cases n <;> simp [mant]
@[simp] theorem mant_zero (n : Bool) : mant n 0 = 0 := by cases n <;> rfl

/-- A sum that cancels is a zero, with the sign that the mode gives. -/
theorem addNum_cancel (md : Rnd) (n : Bool) {m : Nat} (e : Int) (h : m ≠ 0) :
    (addNum md (.fin n m e) (.fin (!n) m e)).1 = .fin (decide (md = .rdn)) 0 0 := by
  have hs : mant n m * pow2 (e - min e e) + mant (!n) m * pow2 (e - min e e) = 0 := by
    rw [mant_not, Int.neg_mul, Int.add_right_neg]
  simp only [addNum, hs, numOf, h, decide_false, Bool.false_and, if_true, Bool.false_eq_true, if_false]

/-- Zeros of one sign keep it. -/
theorem addNum_zero_zero (md : Rnd) (n : Bool) (e e' : Int) : (addNum md (.fin n 0 e) (.fin n 0 e')).1 = .fin n 0 0 := by
  simp only [addNum, mant_zero, Int.zero_mul, Int.add_zero, numOf, decide_true, Bool.and_self, if_true]

/-- Settles O8: NaNs by `addNum_of_isNan` and `mulNum_of_isNan`, infinities and exact zeros each by their own equation. -/
theorem floatSpecialValues : Obligations.FloatSpecialValues := by
  refine ⟨addNum_mulNum_nan, fun md _ _ => addNum_mulNum_flags_of_isSig md, fun md _ _ => addNum_mulNum_flags_of_quiet md,
    addNum_inf_inf, fun _ _ _ _ _ => ⟨rfl, rfl⟩, fun _ _ _ => ⟨rfl, rfl⟩, fun _ _ _ _ => mulNum_inf_fin, fun _ _ => rfl,
    fmaNum_inf_zero, fun md n m e hm => ?_, fun md n e e' => ?_⟩
  · rw [addNum_cancel md n e hm]
    exact ⟨rfl, rfl⟩
  · rw [addNum_zero_zero]
    rfl

end Sys2Proof.Machine
end

section
/-! SUPPORT. Rounding a value of a float format: the significand and the unit of a pattern, and why the value is rounded to the
pattern that it came from (R73, R75, R83). -/
namespace Sys2Proof.Machine

/-! ### A pattern as a significand and a unit (R73) -/

/-- The significand of a magnitude: its fraction bits, with the hidden bit of a normal one. -/
def fracOf (f : FloatFmt) (p : Nat) : Nat := if p / 2 ^ f.w = 0 then p % 2 ^ f.w else p % 2 ^ f.w + 2 ^ f.w

/-- The exponent of the unit in which the significand of a magnitude counts. -/
def unitOf (f : FloatFmt) (p : Nat) : Int := (max 1 (p / 2 ^ f.w) : Nat) - f.bias - f.w

theorem magOf_of_le {f : FloatFmt} {p : Nat} (h : p ≤ f.big) (neg : Bool) : magOf f neg p = .fin neg (fracOf f p) (unitOf f p) := by
  simp only [magOf, if_pos h, fracOf, unitOf]
  split
  · next he => rw [he]; rfl
  · next he => rw [Nat.max_eq_right (Nat.one_le_iff_ne_zero.2 he)]

theorem magOf_of_gt {f : FloatFmt} {p : Nat} (h : f.big < p) (neg : Bool) :
    magOf f neg p = if some p = f.inf then .inf neg else .nan (f.signals && p / 2 ^ (f.w - 1) % 2 = 0) := by
  simp only [magOf, if_neg (Nat.not_le.2 h)]

/-- A pattern is its significand and, above the first exponent, a multiple of the hidden bit. -/
theorem frac_add_exponent (f : FloatFmt) (p : Nat) : (max 1 (p / 2 ^ f.w) - 1) * 2 ^ f.w + fracOf f p = p := by
  have hp : 2 ^ f.w * (p / 2 ^ f.w) + p % 2 ^ f.w = p := Nat.div_add_mod ..
  unfold fracOf
  split
  · next he => rw [he] at hp ⊢; simpa using hp
  · next he =>
    rw [Nat.max_eq_right (Nat.one_le_iff_ne_zero.2 he)]
    calc (p / 2 ^ f.w - 1) * 2 ^ f.w + (p % 2 ^ f.w + 2 ^ f.w)
        = (p / 2 ^ f.w - 1 + 1) * 2 ^ f.w + p % 2 ^ f.w := by
          rw [Nat.add_mul, Nat.one_mul, Nat.add_assoc, Nat.add_comm (2 ^ f.w)]
      _ = p := by rw [Nat.sub_add_cancel (Nat.one_le_iff_ne_zero.2 he), Nat.mul_comm]; exact hp

theorem fracOf_eq_zero {f : FloatFmt} {p : Nat} : fracOf f p = 0 ↔ p = 0 := by
  constructor
  · intro h
    have hp := Nat.div_add_mod p (2 ^ f.w)
    unfold fracOf at h
    split at h
    · next he => rw [he, h] at hp; simpa using hp.symm
    · have := Nat.two_pow_pos f.w; omega
  · rintro rfl
    simp [fracOf]

theorem fracOf_lt (f : FloatFmt) (p : Nat) : fracOf f p < 2 ^ (f.w + 1) := by
  have h := Nat.mod_lt p (Nat.two_pow_pos f.w)
  unfold fracOf
  split <;> omega

theorem le_fracOf {f : FloatFmt} {p : Nat} (h : p / 2 ^ f.w ≠ 0) : 2 ^ f.w ≤ fracOf f p := by
  rw [fracOf, if_neg h]
  exact Nat.le_add_left ..

/-- The leading bit of a subnormal significand lies below the hidden bit, and that of a normal one is the hidden bit: the last
fraction bit of the format counts in the unit of the pattern. -/
theorem roundingUnit_eq_unitOf {f : FloatFmt} {p : Nat} (h : p ≠ 0) :
    max ((fracOf f p).log2 + unitOf f p) (1 - f.bias) - f.w = unitOf f p := by
  have hne : fracOf f p ≠ 0 := mt fracOf_eq_zero.1 h
  by_cases he : p / 2 ^ f.w = 0
  · have hlog : (fracOf f p).log2 < f.w := by
      rw [Nat.log2_lt hne, fracOf, if_pos he]
      exact Nat.mod_lt _ (Nat.two_pow_pos _)
    have hu : unitOf f p = 1 - f.bias - f.w := by rw [unitOf, he]; rfl
    omega
  · have hlog : (fracOf f p).log2 = f.w := (Nat.log2_eq_iff hne).2 ⟨le_fracOf he, fracOf_lt f p⟩
    have hu : unitOf f p = ((p / 2 ^ f.w : Nat) : Int) - f.bias - f.w := by
      rw [unitOf, Nat.max_eq_right (Nat.one_le_iff_ne_zero.2 he)]
    generalize p / 2 ^ f.w = d at he hu
    omega

/-! ### Patterns in the order of their values -/

theorem unitOf_le {f : FloatFmt} {p q : Nat} (h : p ≤ q) : unitOf f p ≤ unitOf f q := by
  have := Nat.div_le_div_right (c := 2 ^ f.w) h
  unfold unitOf
  omega

/-- A smaller pattern is a smaller magnitude. -/
theorem magGt_of_le {f : FloatFmt} {p q : Nat} (h : p ≤ q) : magGt (fracOf f p) (unitOf f p) (fracOf f q) (unitOf f q) = false := by
  have hu := unitOf_le (f := f) h
  simp only [magGt, Int.min_eq_left hu, Int.sub_self, decide_eq_false_iff_not, Nat.not_lt]
  have hp1 : fracOf f p * pow2 0 = fracOf f p := Nat.mul_one _
  rw [hp1]
  rcases Int.lt_or_eq_of_le hu with hlt | he
  · have hq : q / 2 ^ f.w ≠ 0 := by unfold unitOf at hlt; omega
    calc fracOf f p ≤ 2 ^ f.w * 2 ^ 1 := Nat.le_of_lt (fracOf_lt f p)
      _ ≤ fracOf f q * 2 ^ (unitOf f q - unitOf f p).toNat :=
        Nat.mul_le_mul (le_fracOf hq) (Nat.pow_le_pow_right (by decide) (by omega))
  · have hmax : max 1 (p / 2 ^ f.w) = max 1 (q / 2 ^ f.w) := by unfold unitOf at he; omega
    have hp := frac_add_exponent f p
    have hq := frac_add_exponent f q
    rw [hmax] at hp
    rw [he, Int.sub_self]
    show fracOf f p ≤ fracOf f q * 1
    omega

/-! ### Rounding -/

/-- In its own unit a magnitude is exact. -/
theorem roundUnit_self (md : Rnd) (t : Nat) (neg : Bool) (m : Nat) (e : Int) : roundUnit md t neg m e e = (m, false) := by
  have hs : split m e e = (m, 0, 1) := by simp [split, pow2]
  simp [roundUnit, hs, roundsUp]

theorem roundFin_value {f : FloatFmt} {p : Nat} (h0 : p ≠ 0) (h : p ≤ f.big) (md : Rnd) (t : Nat) (neg : Bool) :
    roundFin f md t neg (fracOf f p) (unitOf f p) = (signed f neg p, 0) := by
  have hunit := roundingUnit_eq_unitOf (f := f) h0
  have hexp : (max ((fracOf f p).log2 + unitOf f p) (1 - f.bias) - (1 - f.bias)).toNat = max 1 (p / 2 ^ f.w) - 1 := by
    unfold unitOf at hunit ⊢
    omega
  simp only [roundFin, magOf_of_le (Nat.le_refl _), hunit, hexp, roundUnit_self, frac_add_exponent, magGt_of_le h, Nat.not_lt.2 h, decide_false,
    Bool.and_false, Bool.false_and, Bool.or_self, Bool.false_eq_true, if_false]
  rfl

/-- Rounding a magnitude's value, with its sign where the format has one. -/
theorem roundTo_magOf {f : FloatFmt} {neg : Bool} (hs : f.sgn = none → neg = false) (md : Rnd) (t p : Nat) :
    roundTo f md t (magOf f neg p) =
      if isNan (magOf f neg p) then (f.nan, flagIf (isSig (magOf f neg p)) fNV) else (signed f neg p, 0) := by
  rcases Nat.lt_or_ge f.big p with hgt | hle
  · rw [magOf_of_gt hgt]
    by_cases hi : some p = f.inf
    · rw [if_pos hi]
      simp only [roundTo, ← hi, isNan, Bool.false_eq_true, if_false]
    · rw [if_neg hi]
      rfl
  · rw [magOf_of_le hle]
    by_cases h0 : p = 0
    · subst h0
      simp only [roundTo, fracOf_eq_zero.2 rfl, isNan, if_true, Bool.false_eq_true, if_false]
    · have hneg : (neg && f.sgn.isNone) = false := by
        cases hsgn : f.sgn with
        | none => rw [hs hsgn]; rfl
        | some b => exact Bool.and_false _
      simp only [roundTo, mt fracOf_eq_zero.1 h0, hneg, isNan, roundFin_value h0 hle, Bool.false_eq_true, if_false]

/-- The number of patterns of a format: with a sign bit on top, else the eight bits of E5M3 (R76, R80). -/
def FloatFmt.patterns (f : FloatFmt) : Nat :=
  match f.sgn with
  | some b => 2 ^ (b + 1)
  | none => 256

/-- A pattern is its magnitude with its sign. -/
theorem floatVal_eq_magOf {f : FloatFmt} {p : Nat} (h : p < f.patterns) :
    ∃ neg q, floatVal f p = magOf f neg q ∧ signed f neg q = p ∧ (f.sgn = none → neg = false) := by
  cases hsgn : f.sgn with
  | none =>
    simp only [FloatFmt.patterns, hsgn] at h
    simp only [floatVal, signed, hsgn]
    exact ⟨false, p % 256, rfl, Nat.mod_eq_of_lt h, fun _ => rfl⟩
  | some b =>
    simp only [FloatFmt.patterns, hsgn, Nat.pow_succ] at h
    simp only [floatVal, signed, hsgn]
    refine ⟨_, _, rfl, ?_, fun hn => by cases hn⟩
    have hdiv : p / 2 ^ b < 2 := Nat.div_lt_of_lt_mul h
    have hp : 2 ^ b * (p / 2 ^ b) + p % 2 ^ b = p := Nat.div_add_mod ..
    rw [Nat.mod_eq_of_lt hdiv]
    by_cases hd : p / 2 ^ b = 1
    · rw [hd] at hp
      simp only [hd, decide_true, if_true]
      omega
    · have hd0 : p / 2 ^ b = 0 := Nat.lt_one_iff.1 (Nat.lt_of_le_of_ne (Nat.le_of_lt_succ hdiv) hd)
      rw [hd0] at hp
      simp only [hd, decide_false, Bool.false_eq_true, if_false]
      omega

/-- A value of a format is rounded to its pattern, and a NaN to the canonical one (R75, R83). -/
theorem roundTo_floatVal {f : FloatFmt} {p : Nat} (h : p < f.patterns) (md : Rnd) (t : Nat) :
    roundTo f md t (floatVal f p) =
      if isNan (floatVal f p) then (f.nan, flagIf (isSig (floatVal f p)) fNV) else (p, 0) := by
  obtain ⟨neg, q, hv, hp, hs⟩ := floatVal_eq_magOf h
  rw [hv, roundTo_magOf hs, hp]

/-- Settles O9: every format by `roundTo_floatVal`, with its number of patterns. -/
theorem roundingKeepsValues : Obligations.RoundingKeepsValues := by
  intro f g md t p hf hp
  refine roundTo_floatVal (Nat.lt_of_lt_of_eq hp ?_) md t
  cases f <;> cases hf <;> rfl

end Sys2Proof.Machine
end

section
/-! SUPPORT. Which of its two neighbours each rounding mode takes (R83, R84). -/
namespace Sys2Proof.Machine

/-- The five bits of a position, in reversed order (R84): only they count, so the thirty-two positions decide. -/
theorem testBit_bitrev5 (k j : Nat) (h : j < 5) : (bitrev5 k).testBit j = k.testBit (4 - j) := by
  have hlow : bitrev5 k = bitrev5 (k % 2 ^ 5) := by unfold bitrev5; omega
  have hbit : k.testBit (4 - j) = (k % 2 ^ 5).testBit (4 - j) := by
    rw [Nat.testBit_mod_two_pow, decide_eq_true (by omega : 4 - j < 5), Bool.true_and]
  have hall : ∀ m < 2 ^ 5, ∀ i < 5, (bitrev5 m).testBit i = m.testBit (4 - i) := by decide
  rw [hlow, hbit]
  exact hall _ (Nat.mod_lt _ (by decide)) j h

/-! ### The modes one by one -/

theorem roundsUp_exact (md : Rnd) (t : Nat) (neg : Bool) (n q : Nat) : roundsUp md t neg n 0 q = false := if_pos rfl

theorem roundsUp_rtz (t : Nat) (neg : Bool) (n r q : Nat) : roundsUp .rtz t neg n r q = false := ite_self _

theorem roundsUp_directed (t : Nat) (neg : Bool) (n : Nat) {r : Nat} (q : Nat) (h : 0 < r) :
    roundsUp .rdn t neg n r q = neg ∧ roundsUp .rup t neg n r q = !neg := ⟨if_neg (Nat.ne_of_gt h), if_neg (Nat.ne_of_gt h)⟩

/-- RNE and RNA of an inexact value: beyond the middle the greater neighbour, and on a tie the even or the greater one. -/
theorem roundsUp_nearest (t : Nat) (neg : Bool) (n : Nat) {r : Nat} (q : Nat) (h : 0 < r) :
    roundsUp .rne t neg n r q = (decide (q < 2 * r) || (decide (2 * r = q) && n % 2 == 1))
      ∧ roundsUp .rna t neg n r q = decide (q ≤ 2 * r) := by
  simp only [roundsUp, if_neg (Nat.ne_of_gt h), Bool.beq_eq_decide_eq, and_self]

theorem roundsUp_nearest_below (t : Nat) (neg : Bool) (n : Nat) {r q : Nat} (h : 2 * r < q) :
    roundsUp .rne t neg n r q = false ∧ roundsUp .rna t neg n r q = false := by
  rcases Nat.eq_zero_or_pos r with rfl | hr
  · exact ⟨roundsUp_exact .., roundsUp_exact ..⟩
  · obtain ⟨he, ha⟩ := roundsUp_nearest t neg n q hr
    rw [he, ha, decide_eq_false (by omega : ¬q < 2 * r), decide_eq_false (by omega : ¬2 * r = q), decide_eq_false (by omega : ¬q ≤ 2 * r)]
    exact ⟨rfl, rfl⟩

theorem roundsUp_nearest_beyond (t : Nat) (neg : Bool) (n : Nat) {r q : Nat} (h : q < 2 * r) :
    roundsUp .rne t neg n r q = true ∧ roundsUp .rna t neg n r q = true := by
  obtain ⟨he, ha⟩ := roundsUp_nearest t neg n q (by omega : 0 < r)
  rw [he, ha, decide_eq_true h, decide_eq_true (Nat.le_of_lt h)]
  exact ⟨rfl, rfl⟩

theorem roundsUp_nearest_tie (t : Nat) (neg : Bool) (n : Nat) {r q : Nat} (hr : 0 < r) (h : 2 * r = q) :
    roundsUp .rne t neg n r q = (n % 2 == 1) ∧ roundsUp .rna t neg n r q = true := by
  obtain ⟨he, ha⟩ := roundsUp_nearest t neg n q hr
  rw [he, ha, decide_eq_false (by omega : ¬q < 2 * r), decide_eq_true h, decide_eq_true (by omega : q ≤ 2 * r)]
  exact ⟨rfl, rfl⟩

/-! ### DTH (R84) -/

/-- A part x / y of the unit against the threshold b + 1/2 of thirty-two, in whole numbers. -/
theorem threshold_le_iff {b x y : Nat} (hy : 0 < y) : ((b : Rat) + 1 / 2) / 32 ≤ (x : Rat) / y ↔ (2 * b + 1) * y ≤ 64 * x := by
  have hy' : (0 : Rat) < y := Rat.natCast_pos.2 hy
  have hscale : ((b : Rat) + 1 / 2) / 32 * y = ((2 * b + 1) * y : Nat) / 64 := by
    rw [Rat.natCast_mul, Rat.natCast_add, Rat.natCast_mul]
    grind
  rw [← Rat.not_lt, Rat.div_lt_iff hy', hscale, Rat.lt_div_iff (by decide), ← Nat.not_lt, Nat.mul_comm 64]
  have hcast : ((x * 64 : Nat) : Rat) = x * 64 := Rat.natCast_mul x 64
  rw [← hcast, Rat.natCast_lt_natCast]

/-- The part above the lower neighbour decides: for a negative value it is what its magnitude lacks of the greater one. -/
theorem roundsUp_dth (t : Nat) (neg : Bool) (n : Nat) {r q : Nat} (h : r < q) (hr : 0 < r) :
    roundsUp .dth t neg n r q =
      if neg then !decide (((bitrev5 (t % 32) : Rat) + 1 / 2) / 32 ≤ 1 - (r : Rat) / q)
      else decide (((bitrev5 (t % 32) : Rat) + 1 / 2) / 32 ≤ (r : Rat) / q) := by
  have hq : 0 < q := by omega
  have hrest : 1 - (r : Rat) / q = ((q - r : Nat) : Rat) / q := by
    have hsum : (q : Rat) = ((q - r : Nat) : Rat) + r := by rw [← Rat.natCast_add, Nat.sub_add_cancel (Nat.le_of_lt h)]
    have hq' : (q : Rat) ≠ 0 := mt Rat.natCast_eq_zero_iff.1 (Nat.ne_of_gt hq)
    grind
  rw [hrest]
  simp only [roundsUp, if_neg (Nat.ne_of_gt hr), threshold_le_iff hq]

/-- Settles O10: the reversed bits, and then mode by mode. -/
theorem roundingIsToANeighbour : Obligations.RoundingIsToANeighbour := by
  refine ⟨testBit_bitrev5, fun md t neg n r q hrq => ⟨?_, roundsUp_rtz t neg n r q, roundsUp_directed t neg n q,
    roundsUp_nearest_below t neg n, roundsUp_nearest_beyond t neg n, roundsUp_nearest_tie t neg n, fun hr => ?_⟩⟩
  · rintro rfl
    exact roundsUp_exact md t neg n q
  · rw [roundsUp_dth t neg n hrq hr]
    cases neg with
    | false => rfl
    | true => rfl

end Sys2Proof.Machine
end

section
/-! SUPPORT. What an atomic leaves at its location, and what the lanes of one address are given (R94, R175, R176). -/
namespace Sys2Proof.Machine

/-- A 32-bit integer operation is the operation on words (R176). -/
theorem atStep_int (o : RedOp) (old v y : Word) : atStep (.i o) old.toNat v.toNat y.toNat = (redOp o old v).toNat := by
  simp only [atStep, BitVec.ofNat_toNat, BitVec.setWidth_eq]

/-- Lanes of one address that are not combined first are taken one after another: each gets the value before its own step (R94). -/
theorem atCombine_cons {op : AtOp} (h : combines op = false) (old : Nat) (l : Lane) (v y : DWord) (rest : List (Lane × DWord × DWord)) :
    (atCombine op old ((l, v, y) :: rest)).1 = (atCombine op (atStep op old v.toNat y.toNat) rest).1
      ∧ (atCombine op old ((l, v, y) :: rest)).2 = (l, old) :: (atCombine op (atStep op old v.toNat y.toNat) rest).2 := by
  simp only [atCombine, h, atLanes, Bool.false_eq_true, if_false, and_self]

theorem atCombine_nil (op : AtOp) (old : Nat) : atCombine op old [] = (old, []) := ite_self _

theorem atLanes_lanes (op : AtOp) (old : Nat) (ls : List (Lane × DWord × DWord)) : (atLanes op old ls).2.map (·.1) = ls.map (·.1) := by
  induction ls generalizing old with
  | nil => rfl
  | cons x rest ih => exact congrArg (x.1 :: ·) (ih _)

theorem partials_length (op : AtOp) (acc : Nat) (ls : List (Lane × DWord × DWord)) : (partials op acc ls).length = ls.length := by
  induction ls generalizing acc with
  | nil => rfl
  | cons x rest ih => exact congrArg (· + 1) (ih _)

/-- Every lane of an address gets a value, in the order in which the lanes stand, combined first or not (R94). -/
theorem atCombine_lanes (op : AtOp) (old : Nat) (ls : List (Lane × DWord × DWord)) :
    (atCombine op old ls).2.map (·.1) = ls.map (·.1) := by
  unfold atCombine
  split
  · cases ls with
    | nil => rfl
    | cons x rest =>
      obtain ⟨l, v, y⟩ := x
      have hlen : rest.length ≤ ((l, v.toNat) :: partials op v.toNat rest).length := by
        rw [List.length_cons, partials_length]
        exact Nat.le_succ _
      have hzip := congrArg (List.map (·.1)) (List.map_fst_zip hlen)
      simpa only [List.map_cons, List.map_map, Function.comp_def, List.cons.injEq, true_and] using hzip
  · exact atLanes_lanes op old ls

/-- Settles O25: each operation by its equation, the lanes of an address by `atCombine`. -/
theorem atomicOperations : Obligations.AtomicOperations :=
  ⟨atStep_int, fun _ _ _ => ⟨rfl, rfl, rfl, rfl, rfl⟩,
    fun op old h => ⟨atCombine_nil op old, fun l v y rest => atCombine_cons h old l v y rest⟩, atCombine_lanes⟩

end Sys2Proof.Machine
end

section
/-! SUPPORT. What a load samples and what it leaves alone, a store on its way, and a write of a buffer (R71, R142 to R147): the
lookups of pages and lines that an access makes change caches, tables and counters only, and a watch slot that it hits changes no
register and no result that is pending. -/
namespace Sys2Proof

theorem Mask.lanes_of_eq (l : Lane) : (Mask.of (· = l)).lanes = [l] := by
  have hone : laneList.filter (· = l) = [l] := by
    rw [List.filter_eq, (show laneList.Nodup from List.nodup_finRange 32).count, if_pos (mem_laneList l), List.replicate_one]
  rw [← hone, Mask.lanes]
  exact List.filter_congr fun k _ => Mask.has_of _ k

end Sys2Proof

namespace Sys2Proof.Machine

/-! ### Extension (R71) -/

theorem signedOf_eq_toInt (x n : Nat) (hn : 0 < n) : signedOf x n = (BitVec.ofNat n x).toInt := by
  have hpow : 2 ^ (n - 1) * 2 = 2 ^ n := Nat.two_pow_pred_mul_two hn
  rw [signedOf, BitVec.toInt_eq_toNat_cond, BitVec.toNat_ofNat]
  by_cases h : x % 2 ^ n < 2 ^ (n - 1)
  · rw [if_pos h, if_pos (by omega)]
  · rw [if_neg h, if_neg (by omega)]

/-- Narrow loads extend their sign or zeros, and the wider ones keep all bits (R71). -/
theorem extend_eq (x : Nat) :
    extend .s8 x = ((BitVec.ofNat 8 x).signExtend 32).zeroExtend 128 ∧ extend .s16 x = ((BitVec.ofNat 16 x).signExtend 32).zeroExtend 128
      ∧ (∀ b : BitVec 8, extend .z8 b.toNat = b.zeroExtend 128) ∧ (∀ b : BitVec 16, extend .z16 b.toNat = b.zeroExtend 128)
      ∧ (∀ b : BitVec 32, extend .b32 b.toNat = b.zeroExtend 128) ∧ (∀ b : BitVec 64, extend .b64 b.toNat = b.zeroExtend 128)
      ∧ ∀ b : BitVec 128, extend .b128 b.toNat = b := by
  refine ⟨?_, ?_, fun b => BitVec.ofNat_toNat .., fun b => BitVec.ofNat_toNat .., fun b => BitVec.ofNat_toNat ..,
    fun b => BitVec.ofNat_toNat .., fun b => (BitVec.ofNat_toNat ..).trans (BitVec.setWidth_eq b)⟩
  · rw [extend, signedOf_eq_toInt x 8 (by decide)]; rfl
  · rw [extend, signedOf_eq_toInt x 16 (by decide)]; rfl

/-! ### Lookups of pages and lines -/

/-- Device memory, the waves and the writes on their way are as they were. -/
structure LooksUp (s t : State) : Prop where
  mem : t.mem = s.mem
  waves : t.waves = s.waves
  flights : t.flights = s.flights

theorem LooksUp.refl (s : State) : LooksUp s s := ⟨rfl, rfl, rfl⟩
theorem LooksUp.trans {s t u : State} (h : LooksUp s t) (k : LooksUp t u) : LooksUp s u :=
  ⟨k.mem.trans h.mem, k.waves.trans h.waves, k.flights.trans h.flights⟩

theorem LooksUp.findWave {s t : State} (h : LooksUp s t) (n : Nat) : findWave t n = findWave s n := by
  simp only [Machine.findWave, h.waves]

theorem markPage_looksUp (s : State) (g : Page) (write : Bool) : LooksUp s (markPage s g write) := by
  unfold markPage
  split
  · exact .refl s
  · exact ⟨rfl, rfl, rfl⟩

theorem pacPut_looksUp (s : State) (e : PacEntry) : LooksUp s (pacPut s e) := ⟨rfl, rfl, rfl⟩

theorem pacTouch_looksUp (s : State) (die core ia : Nat) (mark : Option Bool) : LooksUp s (pacTouch s die core ia mark) := by
  unfold pacTouch
  split
  · exact .refl s
  · dsimp only
    split
    · exact pacPut_looksUp s _
    · split
      · exact pacPut_looksUp s _
      · exact (pacPut_looksUp s _).trans (markPage_looksUp _ _ _)

theorem coreAccess_looksUp (s : State) (die core ia : Nat) (write : Bool) : LooksUp s (coreAccess s die core ia write) :=
  pacTouch_looksUp ..

theorem l1Fill_looksUp (s : State) (die core line : Nat) (x : L1Line) : LooksUp s (l1Fill s die core line x) := ⟨rfl, rfl, rfl⟩

theorem llcSeat_looksUp (s : State) (b : LlcBlock) (line tenant : Nat) : LooksUp s (llcSeat s b line tenant) := by
  unfold llcSeat
  split
  · exact .refl s
  · exact ⟨rfl, rfl, rfl⟩

theorem llcPut_looksUp (s : State) (die line tenant : Nat) (x : LlcLine) : LooksUp s (llcPut s die line tenant x) := by
  unfold llcPut
  dsimp only
  split
  · split
    · refine .trans ?_ (llcSeat_looksUp _ _ _ _)
      exact ⟨rfl, rfl, rfl⟩
    · exact ⟨rfl, rfl, rfl⟩
  · exact llcSeat_looksUp s _ _ _

theorem llcMeet_looksUp (s : State) (tenant die line : Nat) (write : Bool) : LooksUp s (llcMeet s tenant die line write) := by
  unfold llcMeet
  split
  · dsimp only
    split
    · exact llcPut_looksUp s _ _ _ _
    · exact ⟨rfl, rfl, rfl⟩
  · split
    · exact llcPut_looksUp s _ _ _ _
    · exact .refl s

theorem modDieCounters_looksUp (s : State) (part die : Nat) (f : DieCounters → DieCounters) : LooksUp s (modDieCounters s part die f) :=
  ⟨rfl, rfl, rfl⟩

theorem llcTouch_looksUp (s : State) (part tenant die line : Nat) (write : Bool) : LooksUp s (llcTouch s part tenant die line write) :=
  (modDieCounters_looksUp s _ _ _).trans (llcMeet_looksUp _ _ _ _ _)

theorem bankLine_looksUp (s : State) (part die line : Nat) : LooksUp s (bankLine s part die line) := by
  have htwice := (llcTouch_looksUp s part (tenantOf s part) die line false).trans
    (llcTouch_looksUp _ part (tenantOf s part) (homeDie (64 * line)) line false)
  unfold bankLine
  dsimp only
  split
  · exact llcTouch_looksUp ..
  · split
    · exact htwice
    · exact htwice.trans ⟨rfl, rfl, rfl⟩

theorem touchLine_looksUp (s : State) (part die core ia : Nat) : LooksUp s (touchLine s part die core ia) := by
  unfold touchLine
  dsimp only
  split
  · exact l1Fill_looksUp s _ _ _ _
  · exact (bankLine_looksUp s _ _ _).trans (l1Fill_looksUp _ _ _ _ _)

/-- A load of device memory reads the line that its core sees, and looks up its page and its line (R143). -/
theorem loadSpot_local (s : State) (c : Ctx) {p : Spot} (n : Nat) (h : p.remote = none) :
    (loadSpot s c p n).1 = lineGet (coreLine s c.die c.core (p.ia / 64)) (p.ia % 64) n ∧ LooksUp s (loadSpot s c p n).2.2 := by
  unfold loadSpot
  rw [h]
  exact ⟨rfl, (coreAccess_looksUp s _ _ _ _).trans (touchLine_looksUp _ _ _ _ _)⟩

/-! ### Watch slots -/

/-- The lanes of a wave and its pending results. -/
def lanesAndPend (s : State) (n : Nat) : Option (Lanes LaneCtx × List PendLoad) := (findWave s n).map fun w => (w.lanes, w.pend)

/-- Device memory is as it was, and so are the lanes and the pending results of every wave. -/
structure KeepsLanes (s t : State) : Prop where
  mem : t.mem = s.mem
  waves : ∀ n, lanesAndPend t n = lanesAndPend s n

theorem KeepsLanes.refl (s : State) : KeepsLanes s s := ⟨rfl, fun _ => rfl⟩
theorem KeepsLanes.trans {s t u : State} (h : KeepsLanes s t) (k : KeepsLanes t u) : KeepsLanes s u :=
  ⟨k.mem.trans h.mem, fun n => (k.waves n).trans (h.waves n)⟩

theorem KeepsLanes.of_waves {s t : State} (hm : t.mem = s.mem) (hw : t.waves = s.waves) : KeepsLanes s t :=
  ⟨hm, fun n => by simp only [lanesAndPend, findWave, hw]⟩

/-- A wave that is found before is found after, with its lanes and its pending results. -/
theorem KeepsLanes.findWave {s t : State} (h : KeepsLanes s t) {n : Nat} {w : Wave} (hw : findWave s n = some w) :
    ∃ v, Machine.findWave t n = some v ∧ v.lanes = w.lanes ∧ v.pend = w.pend := by
  have hv := h.waves n
  rw [lanesAndPend, lanesAndPend, hw, Option.map_some, Option.map_eq_some_iff] at hv
  obtain ⟨v, hfind, heq⟩ := hv
  exact ⟨v, hfind, congrArg Prod.fst heq, congrArg Prod.snd heq⟩

theorem modWave_keepsLanes (s : State) (k : Nat) {f : Wave → Wave}
    (hf : ∀ w, (f w).id = w.id ∧ (f w).lanes = w.lanes ∧ (f w).pend = w.pend) : KeepsLanes s (modWave s k f) := by
  refine ⟨rfl, fun n => ?_⟩
  rw [lanesAndPend, findWave_modWave s k n f fun w => (hf w).1, Option.map_map]
  refine congrArg (Option.map · (findWave s n)) (funext fun w => ?_)
  obtain ⟨-, hl, hp⟩ := hf w
  simp only [Function.comp_apply]
  split
  · rw [hl, hp]
  · rfl

theorem hitCount_keepsLanes (s : State) (a : Access) (w : Wave) (scope : WScope) (slot die core : Nat) (ctl : DWord) :
    KeepsLanes s (hitCount s a w scope slot die core ctl) := by
  unfold hitCount
  split
  · cases scope with
    | thread => exact modWave_keepsLanes s _ fun _ => ⟨rfl, rfl, rfl⟩
    | group => exact .of_waves rfl rfl
    | die => exact .of_waves rfl rfl
  · exact .refl s

theorem hitStop_keepsLanes (s : State) (a : Access) (w : Wave) (ctl : DWord) : KeepsLanes s (hitStop s a w ctl) := by
  unfold hitStop
  dsimp only
  split
  · exact .of_waves rfl rfl
  · exact .refl s

/-- A hit counts, emits a record, stops a cluster and waits to be taken as a trap (R231): none of it changes a lane. -/
theorem takeHit_keepsLanes (s : State) (a : Access) (h : WScope × Nat × Nat × Nat × WatchSlot) : KeepsLanes s (takeHit s a h) := by
  obtain ⟨scope, slot, die, core, x⟩ := h
  unfold takeHit
  split
  · exact .refl s
  next w _ =>
    dsimp -zeta only
    extract_lets lanes gone trap acts s1 body record s2 s3
    have h1 : KeepsLanes s s1 := hitCount_keepsLanes s a w scope slot die core x.ctl
    have h2 : KeepsLanes s s2 := by
      unfold s2
      split
      · exact h1.trans (.of_waves rfl rfl)
      · exact h1
    have h3 : KeepsLanes s s3 := h2.trans (hitStop_keepsLanes s2 a w x.ctl)
    split
    · exact h3.trans (modWave_keepsLanes _ _ fun _ => ⟨rfl, rfl, rfl⟩)
    · exact h3

theorem watchAccess_keepsLanes (s : State) (a : Access) : KeepsLanes s (watchAccess s a) := by
  unfold watchAccess
  generalize watchHits s a = hits
  induction hits generalizing s with
  | nil => exact .refl s
  | cons h hits ih => exact (takeHit_keepsLanes s a h).trans (ih _)

/-! ### Loads and stores -/

/-- One lane's load of device memory: its value sampled, with no change to device memory or to a lane (R143, R145). -/
theorem loadLane_local (c : Ctx) {v : Lanes Verdict} (a : Lane → DWord) (n : Nat) (ext : Nat → BitVec 128) (x : Loaded) {l : Lane}
    {p : Spot} (hv : v.get l = .ok p) (hp : p.remote = none) :
    (loadLane c v a n ext x l).vals = x.vals ++ [(l, ext (lineGet (coreLine x.s c.die c.core (p.ia / 64)) (p.ia % 64) n))]
      ∧ KeepsLanes x.s (loadLane c v a n ext x l).s := by
  obtain ⟨hval, hlook⟩ := loadSpot_local x.s c n hp
  simp only [loadLane, hv]
  exact ⟨by rw [hval], (KeepsLanes.of_waves hlook.mem hlook.waves).trans (watchAccess_keepsLanes _ _)⟩

/-- A load of one lane: a pending result with the bytes that its core sees, and nothing else in memory or the lanes. -/
theorem sendLoad_one_lane (c : Ctx) (v : Lanes Verdict) (a : Lane → DWord) (n : Nat) (ext : Nat → BitVec 128) (q : Option Pred) (l : Lane)
    (p : Spot) (w : Wave) (hv : v.get l = .ok p) (hp : p.remote = none) (hw : findWave c.s c.w.id = some w) :
    let t := sendLoad c v a n ext q (Mask.of (· = l))
    t.mem = c.s.mem ∧ ∃ w' x, findWave t c.w.id = some w' ∧ w'.lanes = w.lanes ∧ w'.pend = w.pend ++ [x] ∧ x.mask = Mask.of (· = l)
      ∧ x.vals.get l = ext (lineGet (coreLine c.s c.die c.core (p.ia / 64)) (p.ia % 64) n) := by
  obtain ⟨hvals, hkeep⟩ := loadLane_local c a n ext { s := c.s, vals := [], clock := Clock.zero, missed := false } hv hp
  obtain ⟨u, hu, hlanes, hpend⟩ := hkeep.findWave hw
  intro t
  simp only [t, sendLoad, Mask.lanes_of_eq, List.foldl_cons, List.foldl_nil]
  refine ⟨hkeep.mem, _, _, findWave_modWave_self _ (fun _ => rfl) hu, hlanes, congrArg (· ++ _) hpend, rfl, ?_⟩
  rw [Lanes.get_of, Loaded.val, hvals]
  simp

/-- A store on its way (R143, R144, R146): device memory is as it was, the store is a flight that has not been performed, and its
wave counts one more. -/
theorem sendStore_on_its_way (s : State) (c : Ctx) (l : Lane) (a : DWord) (ia : Nat) (k : FlightKind) (w : Wave)
    (hw : findWave s c.w.id = some w) :
    let t := sendStore s c l a ia k
    t.mem = s.mem ∧ (∃ f, t.flights = s.flights ++ [f] ∧ f.ia = ia ∧ f.kind = k ∧ f.wave = c.w.id ∧ f.performed = none)
      ∧ ∃ w', findWave t c.w.id = some w' ∧ w' = { w with stores := w.stores + 1 } := by
  have hlook := coreAccess_looksUp s c.die c.core ia true
  exact ⟨hlook.mem, ⟨_, congrArg (· ++ _) hlook.flights, rfl, rfl, rfl, rfl⟩,
    _, findWave_modWave_self _ (fun _ => rfl) ((hlook.findWave _).trans hw), rfl⟩

/-- A write of an A-buffer reservation changes exactly its bytes (R142, R147). -/
theorem bufWrite_bytes (s : State) (g off : Nat) (bs : List Byte) (x : Group) (hx : findGroup s g = some x) :
    let t := bufWrite s g 0 off bs
    t.mem = s.mem ∧ t.waves = s.waves ∧ ∃ y, findGroup t g = some y ∧ y.wbuf = x.wbuf ∧ y.cbuf = x.cbuf
      ∧ ∀ j, readByte y.abuf j = if off ≤ j ∧ j < off + bs.length then bs.getD (j - off) 0 else readByte x.abuf j := by
  refine ⟨rfl, rfl, _, findGroup_modGroup_self _ (fun _ => rfl) hx, rfl, rfl, fun j => ?_⟩
  exact (readByte_writeBytes x.abuf off j bs).trans (by rw [List.getD_eq_getElem?_getD])

/-- Settles O20: extension, a load of one lane, a store on its way and a write of a buffer, each by its own law. -/
theorem accessEffects : Obligations.AccessEffects :=
  ⟨extend_eq, sendLoad_one_lane, sendStore_on_its_way, bufWrite_bytes⟩

end Sys2Proof.Machine
end

section
/-! SUPPORT. The integer operations as arithmetic on bit vectors (R98 to R104): high halves of products, quotients and remainders, counts
of bits, shifts and bit fields. -/
namespace Sys2Proof.Machine

/-! ### Arithmetic (R98, R99, R102) -/

theorem mulHighZ_eq {n : Nat} (x y : BitVec n) : mulHighZ x y = (x.zeroExtend (n + n) * y.zeroExtend (n + n)).extractLsb' n n := by
  have hlt : x.toNat * y.toNat < 2 ^ (n + n) := by
    rw [Nat.pow_add]; exact Nat.mul_lt_mul'' x.isLt y.isLt
  apply BitVec.eq_of_toNat_eq
  rw [mulHighZ, BitVec.toNat_ofNat, BitVec.extractLsb'_toNat, BitVec.toNat_mul, BitVec.toNat_setWidth_of_le (Nat.le_add_left n n),
    BitVec.toNat_setWidth_of_le (Nat.le_add_left n n), Nat.mod_eq_of_lt hlt, Nat.shiftRight_eq_div_pow]

/-- The high half of a value's 2n low bits is its bits from n on. -/
theorem extractLsb'_ofInt (n : Nat) (z : Int) : (BitVec.ofInt (n + n) z).extractLsb' n n = BitVec.ofInt n (z / (2 ^ n : Nat)) := by
  have hpos : (0 : Int) < (2 ^ n : Nat) := by exact_mod_cast Nat.two_pow_pos n
  have hsplit : z / (2 ^ n : Nat) = z % (2 ^ (n + n) : Nat) / (2 ^ n : Nat) + (2 ^ n : Nat) * (z / (2 ^ (n + n) : Nat)) := by
    rw [← Int.add_mul_ediv_left _ _ (Int.ne_of_gt hpos), ← Int.mul_assoc, ← Int.natCast_mul, ← Nat.pow_add, Int.emod_add_mul_ediv]
  apply BitVec.eq_of_toNat_eq
  rw [BitVec.extractLsb'_toNat, BitVec.toNat_ofInt, BitVec.toNat_ofInt, Nat.shiftRight_eq_div_pow, hsplit, Int.add_mul_emod_self_left]
  have hmod : 0 ≤ z % (2 ^ (n + n) : Nat) := Int.emod_nonneg _ (by exact_mod_cast Nat.ne_of_gt (Nat.two_pow_pos _))
  obtain ⟨m, hm⟩ := Int.eq_ofNat_of_zero_le hmod
  rw [hm, Int.toNat_natCast, ← Int.natCast_ediv, ← Int.natCast_emod, Int.toNat_natCast]

theorem mulHighS_eq {n : Nat} (x y : BitVec n) : mulHighS x y = (x.signExtend (n + n) * y.signExtend (n + n)).extractLsb' n n := by
  have hprod : x.signExtend (n + n) * y.signExtend (n + n) = BitVec.ofInt (n + n) (x.toInt * y.toInt) := (BitVec.ofInt_mul ..).symm
  rw [hprod, extractLsb'_ofInt, mulHighS]

/-- A choice by a test is one by a stricter test where it does not matter in the cases between. -/
theorem ite_eq_ite_of_stricter {α : Type} {p q : Prop} [Decidable p] [Decidable q] {a b : α} (hqp : q → p) (hab : p → ¬q → a = b) :
    (if p then a else b) = if q then a else b := by
  by_cases hq : q
  · rw [if_pos hq, if_pos (hqp hq)]
  · by_cases hp : p
    · rw [if_pos hp, if_neg hq, hab hp hq]
    · rw [if_neg hp, if_neg hq]

theorem eq_of_toInt_le_of_not_lt {n : Nat} {x y : BitVec n} (hle : x.toInt ≤ y.toInt) (hlt : ¬ x.toInt < y.toInt) : x = y :=
  BitVec.eq_of_toInt_eq (Int.le_antisymm hle (Int.not_lt.1 hlt))

theorem eq_of_toNat_le_of_not_lt {n : Nat} {x y : BitVec n} (hle : x.toNat ≤ y.toNat) (hlt : ¬ x.toNat < y.toNat) : x = y :=
  BitVec.eq_of_toNat_eq (Nat.le_antisymm hle (Nat.not_lt.1 hlt))

theorem minS_eq {n : Nat} (x y : BitVec n) : minS x y = if x.slt y then x else y := by
  simp only [BitVec.slt_eq_decide, decide_eq_true_eq]
  exact ite_eq_ite_of_stricter Int.le_of_lt fun hle hlt => eq_of_toInt_le_of_not_lt hle hlt

theorem maxS_eq {n : Nat} (x y : BitVec n) : maxS x y = if x.slt y then y else x := by
  simp only [BitVec.slt_eq_decide, decide_eq_true_eq]
  exact ite_eq_ite_of_stricter Int.le_of_lt fun hle hlt => (eq_of_toInt_le_of_not_lt hle hlt).symm

theorem minZ_eq {n : Nat} (x y : BitVec n) : minZ x y = if x.ult y then x else y := by
  simp only [BitVec.ult, decide_eq_true_eq]
  exact ite_eq_ite_of_stricter Nat.le_of_lt fun hle hlt => eq_of_toNat_le_of_not_lt hle hlt

theorem maxZ_eq {n : Nat} (x y : BitVec n) : maxZ x y = if x.ult y then y else x := by
  simp only [BitVec.ult, decide_eq_true_eq]
  exact ite_eq_ite_of_stricter Nat.le_of_lt fun hle hlt => (eq_of_toNat_le_of_not_lt hle hlt).symm

theorem absS_eq {n : Nat} (x : BitVec n) : absS x = if x.msb then -x else x := by
  simp only [absS, BitVec.msb_eq_toInt, decide_eq_true_eq]

/-- The quotient of R99 is that of division toward zero. -/
theorem ofInt_tdiv (x y : Word) : BitVec.ofInt 32 (x.toInt.tdiv y.toInt) = x.sdiv y :=
  BitVec.eq_of_toInt_eq (by rw [BitVec.toInt_ofInt, BitVec.toInt_sdiv])

theorem divS_eq (x y : Word) :
    divS x y = (if y = 0 then (if x.msb then 0x80000000#32 else 0x7FFFFFFF#32) else x.sdiv y, if y = 0 then fDZ else 0) := by
  by_cases hy : y = 0
  · simp only [divS, hy, if_true, BitVec.msb_eq_toInt, decide_eq_true_eq, ← Int.not_le, ite_not]
  · simp only [divS, hy, if_false, ofInt_tdiv]

theorem divZ_eq (x y : Word) : divZ x y = (if y = 0 then 0xFFFFFFFF#32 else x / y, if y = 0 then fDZ else 0) := by
  by_cases hy : y = 0
  · simp only [divZ, hy, if_true]
  · have hdiv : BitVec.ofNat 32 (x.toNat / y.toNat) = x / y := by
      rw [← BitVec.toNat_udiv, BitVec.ofNat_toNat, BitVec.setWidth_eq]
    simp only [divZ, hy, if_false, hdiv]

/-- x - y × DIV(x, y) is the remainder that has the sign of x (R99). -/
theorem sub_mul_sdiv (x y : Word) : x - y * x.sdiv y = x.srem y := by
  have hself : ∀ v : Word, BitVec.ofInt 32 v.toInt = v := fun _ => BitVec.ofInt_toInt
  rw [BitVec.sub_eq_iff_eq_add, BitVec.add_comm, ← hself (x.srem y), BitVec.toInt_srem, ← ofInt_tdiv]
  calc x = BitVec.ofInt 32 (y.toInt * x.toInt.tdiv y.toInt + x.toInt.tmod y.toInt) := by rw [Int.mul_tdiv_add_tmod, hself]
    _ = _ := by rw [BitVec.ofInt_add, BitVec.ofInt_mul, hself]

theorem sub_mul_udiv (x y : Word) : x - y * (x / y) = x % y := by
  rw [BitVec.sub_eq_iff_eq_add, BitVec.add_comm]
  apply BitVec.eq_of_toNat_eq
  rw [BitVec.toNat_add, BitVec.toNat_mul, BitVec.toNat_udiv, BitVec.toNat_umod, Nat.mod_add_mod, Nat.div_add_mod, Nat.mod_eq_of_lt x.isLt]

theorem remS_eq (x y : Word) : remS x y = (if y = 0 then x else x.srem y, if y = 0 then fDZ else 0) := by
  by_cases hy : y = 0
  · simp only [remS, hy, if_true]
  · simp only [remS, divS_eq, hy, if_false, sub_mul_sdiv]

theorem remZ_eq (x y : Word) : remZ x y = (x % y, if y = 0 then fDZ else 0) := by
  by_cases hy : y = 0
  · simp only [remZ, hy, if_true]
    rw [show x % 0 = x from BitVec.umod_zero]
  · simp only [remZ, divZ_eq, hy, if_false, sub_mul_udiv]

/-! ### Counts of bits and reversal (R98) -/

theorem popCount_eq (n x : Nat) : popCount x n = (List.range n).countP x.testBit := by
  induction n generalizing x with
  | zero => rfl
  | succ n ih =>
    have htail : (x.testBit ∘ Nat.succ) = (x / 2).testBit := funext (Nat.testBit_succ x)
    rw [popCount, ih, List.range_succ_eq_map, List.countP_cons, List.countP_map, htail, Nat.testBit_zero]
    obtain h | h := Nat.mod_two_eq_zero_or_one x <;> simp [h, Nat.add_comm]

theorem popCount_lanes (x : Word) : popCount x.toNat 32 = laneList.countP fun i => x.getLsbD i.val := by
  have hrange : List.range 32 = laneList.map Fin.val := by decide
  rw [popCount_eq, hrange, List.countP_map]
  rfl

theorem leadingZeros_eq (x : Word) : leadingZeros x = ((List.range 32).find? fun i => x.getLsbD (31 - i)).getD 32 := by
  by_cases hx : x = 0
  · have hnone : (List.range 32).find? (fun i => x.getLsbD (31 - i)) = none := by
      rw [List.find?_range_eq_none]; simp [hx]
    rw [hnone, leadingZeros, if_pos hx, Option.getD_none]
  · have hne : x.toNat ≠ 0 := fun h => hx (BitVec.eq_of_toNat_eq h)
    have hlog : x.toNat.log2 < 32 := (Nat.log2_lt hne).2 x.isLt
    have hsome : (List.range 32).find? (fun i => x.getLsbD (31 - i)) = some (31 - x.toNat.log2) := by
      rw [List.find?_range_eq_some]
      refine ⟨?_, List.mem_range.2 (by omega), fun j hj => ?_⟩
      · rw [show 31 - (31 - x.toNat.log2) = x.toNat.log2 by omega]
        exact Nat.testBit_log2 hne
      · have habove : x.toNat.testBit (31 - j) = false :=
          Nat.testBit_lt_two_pow (Nat.lt_of_lt_of_le Nat.lt_log2_self (Nat.pow_le_pow_right (by decide) (by omega)))
        exact congrArg not habove
    rw [hsome, leadingZeros, if_neg hx, Option.getD_some]

theorem revBits_lt (n x : Nat) : revBits x n < 2 ^ n := by
  induction n generalizing x with
  | zero => exact Nat.one_pos
  | succ n ih =>
    have hrest := ih (x / 2)
    rw [revBits, Nat.pow_succ]
    obtain h | h := Nat.mod_two_eq_zero_or_one x <;> rw [h] <;> omega

theorem testBit_revBits {n j : Nat} (x : Nat) (hj : j < n) : (revBits x n).testBit j = x.testBit (n - 1 - j) := by
  induction n generalizing x with
  | zero => exact absurd hj (Nat.not_lt_zero j)
  | succ n ih =>
    rw [revBits, Nat.mul_comm, Nat.testBit_two_pow_mul_add _ (revBits_lt n _)]
    by_cases hjn : j < n
    · rw [if_pos hjn, ih _ hjn, ← Nat.testBit_succ]
      congr 1; omega
    · obtain rfl : j = n := by omega
      rw [if_neg hjn, Nat.sub_self, Nat.add_sub_cancel, Nat.sub_self, Nat.testBit_zero, Nat.testBit_zero, Nat.mod_mod]

theorem revBits_lanes (x : Word) : BitVec.ofNat 32 (revBits x.toNat 32) = Mask.of fun i => x.getLsbD (31 - i.val) :=
  Mask.ext_has fun l => by
    rw [Mask.has_of, Mask.has, BitVec.getLsbD_ofNat, testBit_revBits _ l.isLt, decide_eq_true l.isLt, Bool.true_and]
    rfl

/-! ### Shifts and rotates (R100, R102) -/

theorem shl_eq {n : Nat} (x : BitVec n) (k : Nat) : shl x k = x <<< k := by
  unfold shl
  split
  · next h => exact (BitVec.shiftLeft_eq_zero h).symm
  · exact BitVec.eq_of_toNat_eq (by rw [BitVec.toNat_ofNat, BitVec.toNat_shiftLeft, Nat.shiftLeft_eq])

theorem shr_eq {n : Nat} (x : BitVec n) (k : Nat) : shr x k = x >>> k := by
  unfold shr
  split
  · next h => exact (BitVec.ushiftRight_eq_zero h).symm
  · rw [← Nat.shiftRight_eq_div_pow, ← BitVec.toNat_ushiftRight, BitVec.ofNat_toNat, BitVec.setWidth_eq]

/-- A shift by the width or more leaves the sign alone. -/
theorem toInt_ediv_of_le {n k : Nat} (x : BitVec n) (h : n ≤ k) : x.toInt / (2 ^ k : Nat) = if 0 ≤ x.toInt then 0 else -1 := by
  have hpow : (2 : Int) ^ n ≤ 2 ^ k := by exact_mod_cast Nat.pow_le_pow_right (by decide) h
  have hlt := @BitVec.two_mul_toInt_lt n x
  have hle := @BitVec.le_two_mul_toInt n x
  push_cast
  split
  · exact Int.ediv_eq_zero_of_lt ‹_› (by omega)
  · exact Int.ediv_eq_neg_one_of_neg_of_le (by omega) (by omega)

theorem shra_eq {n : Nat} (x : BitVec n) (k : Nat) : shra x k = x.sshiftRight k := by
  rw [BitVec.sshiftRight_eq, Int.shiftRight_eq_div_pow, shra]
  split
  · next h =>
    rw [toInt_ediv_of_le x h]
    split
    · rfl
    · rw [BitVec.ofInt_neg]; exact BitVec.neg_one_eq_allOnes.symm
  · rfl

theorem rot_eq (x : Word) (k : Nat) : rot x k = x.rotateLeft k := by
  have hr : k % 32 < 32 := Nat.mod_lt _ (by decide)
  rw [BitVec.rotateLeft_def, rot, BitVec.ofNat_add]
  generalize k % 32 = r at hr
  have hl : BitVec.ofNat 32 (x.toNat * 2 ^ r) = x <<< r := by rw [← shl_eq, shl, if_neg (Nat.not_le.2 hr)]
  have hh : BitVec.ofNat 32 (x.toNat / 2 ^ (32 - r)) = x >>> (32 - r) := by
    rw [← Nat.shiftRight_eq_div_pow, ← BitVec.toNat_ushiftRight, BitVec.ofNat_toNat, BitVec.setWidth_eq]
  rw [hl, hh]
  refine BitVec.add_eq_or_of_and_eq_zero _ _ (BitVec.eq_of_getLsbD_eq fun i hi => ?_)
  simp only [BitVec.getLsbD_and, BitVec.getLsbD_shiftLeft, BitVec.getLsbD_ushiftRight, BitVec.getLsbD_zero]
  by_cases hir : i < r
  · simp [hir]
  · rw [BitVec.getLsbD_of_ge x (32 - r + i) (by omega), Bool.and_false]

theorem leaSum_eq (x : DWord) (y : Word) (n : Nat) : leaSum x y n = x + y.signExtend 64 <<< n := by
  have hpow : BitVec.ofNat 64 (2 ^ n) = BitVec.twoPow 64 n :=
    BitVec.eq_of_toNat_eq (by rw [BitVec.toNat_ofNat, BitVec.toNat_twoPow])
  rw [leaSum, BitVec.shiftLeft_eq_mul_twoPow, ← hpow, BitVec.ofInt_mul, BitVec.ofInt_natCast]
  rfl

/-! ### Bit fields (R101) -/

theorem testBit_bitsOf (x lo n j : Nat) : (bitsOf x lo n).testBit j = (decide (j < n) && x.testBit (lo + j)) := by
  rw [bitsOf, Nat.testBit_mod_two_pow, Nat.testBit_div_two_pow, Nat.add_comm]

theorem bfxZ_eq (x y : Word) :
    bfxZ x y = Mask.of fun j => decide (j.val < fieldWidth y) && x.getLsbD (fieldPos y + j.val) :=
  Mask.ext_has fun l => by
    rw [Mask.has_of, bfxZ, Mask.has, BitVec.getLsbD_ofNat, testBit_bitsOf, decide_eq_true l.isLt, Bool.true_and]
    rfl

theorem bfxS_eq (x y : Word) :
    bfxS x y = Mask.of fun j => decide (fieldWidth y ≠ 0) && x.getLsbD (fieldPos y + min j.val (fieldWidth y - 1)) := by
  refine Mask.ext_has fun l => ?_
  rw [Mask.has_of, bfxS]
  by_cases hw : fieldWidth y = 0
  · simp [hw]
  · have hpos : 0 < fieldWidth y := Nat.pos_of_ne_zero hw
    rw [if_neg hw, signedOf_eq_toInt _ _ hpos, decide_eq_true hw, Bool.true_and, Mask.has]
    have hext : ∀ v : BitVec (fieldWidth y), BitVec.ofInt 32 v.toInt = v.signExtend 32 := fun _ => rfl
    rw [hext, BitVec.getLsbD_signExtend, BitVec.msb_eq_getLsbD_last, decide_eq_true l.isLt, Bool.true_and]
    by_cases hl : l.val < fieldWidth y
    · rw [if_pos hl, BitVec.getLsbD_ofNat, testBit_bitsOf, show min l.val (fieldWidth y - 1) = l.val by omega]
      rw [decide_eq_true hl, Bool.true_and]
      rfl
    · rw [if_neg hl, BitVec.getLsbD_ofNat, testBit_bitsOf, show min l.val (fieldWidth y - 1) = fieldWidth y - 1 by omega]
      rw [decide_eq_true (Nat.sub_lt hpos Nat.one_pos), Bool.true_and, Bool.true_and]
      rfl

/-- The bits of a number whose n bits from p on are those of f, and whose other bits are those of z. -/
theorem testBit_insert (z f p n j : Nat) (hf : f < 2 ^ n) :
    (z % 2 ^ p + f * 2 ^ p + z / 2 ^ (p + n) * 2 ^ (p + n)).testBit j = if p ≤ j ∧ j < p + n then f.testBit (j - p) else z.testBit j := by
  have hlow : z % 2 ^ p < 2 ^ p := Nat.mod_lt _ (Nat.two_pow_pos p)
  have hmid : z % 2 ^ p + f * 2 ^ p < 2 ^ (p + n) := by
    have := Nat.mul_le_mul_right (2 ^ p) (Nat.succ_le_of_lt hf)
    rw [Nat.pow_add, Nat.mul_comm (2 ^ p) (2 ^ n)]
    rw [Nat.succ_mul] at this
    omega
  rw [Nat.add_comm, Nat.mul_comm, Nat.testBit_two_pow_mul_add _ hmid, Nat.add_comm (z % 2 ^ p), Nat.mul_comm f,
    Nat.testBit_two_pow_mul_add _ hlow]
  by_cases hjp : j < p
  · rw [if_pos (by omega), if_pos hjp, if_neg (by omega), Nat.testBit_mod_two_pow, decide_eq_true hjp, Bool.true_and]
  · by_cases hjn : j < p + n
    · rw [if_pos hjn, if_neg hjp, if_pos ⟨Nat.le_of_not_lt hjp, hjn⟩]
    · rw [if_neg hjn, if_neg (fun h => hjn h.2), Nat.testBit_div_two_pow, Nat.sub_add_cancel (Nat.le_of_not_lt hjn)]

theorem bfi_eq (x y z : Word) : bfi x y z = Mask.of fun j =>
    if fieldPos y ≤ j.val ∧ j.val < fieldPos y + fieldWidth y then x.getLsbD (j.val - fieldPos y) else z.getLsbD j.val := by
  refine Mask.ext_has fun l => ?_
  have hfield : bitsOf x.toNat 0 (fieldWidth y) < 2 ^ fieldWidth y := Nat.mod_lt _ (Nat.two_pow_pos _)
  rw [Mask.has_of, bfi, Mask.has, BitVec.getLsbD_ofNat, testBit_insert _ _ _ _ _ hfield, decide_eq_true l.isLt,
    Bool.true_and, testBit_bitsOf, Nat.zero_add]
  by_cases h : fieldPos y ≤ l.val ∧ l.val < fieldPos y + fieldWidth y
  · rw [if_pos h, if_pos h, decide_eq_true (show l.val - fieldPos y < fieldWidth y by omega), Bool.true_and]
    rfl
  · rw [if_neg h, if_neg h]
    rfl

theorem fieldPos_eq (y : Word) : fieldPos y = (y.extractLsb' 0 5).toNat := bitsOf_toNat y 0 5

theorem fieldWidth_eq (y : Word) : fieldWidth y = min (min (y.extractLsb' 8 6).toNat 32) (32 - (y.extractLsb' 0 5).toNat) := by
  rw [fieldWidth, fieldPos_eq, bitsOf_toNat]

end Sys2Proof.Machine
end

section
/-! SUPPORT. The integer words: each writes its operation's value, by the equation of that operation. -/
namespace Sys2Proof.Machine

/-! ### Words that write their destination -/

/-- A word whose body writes its destination. -/
theorem gives_of_issue {i : Instr} {k : Bool} {d : Reg} {n : Nat} {rs : List Reg} {f op : Ctx → Lane → BitVec 128}
    {fl ofl : Ctx → Lane → Flags} (hvalue : ∀ c l, op c l = f c l) (hflags : ∀ c l, ofl c l = fl c l)
    (hform : Form i k d n rs := by exact ⟨_, rfl, rfl, rfl, rfl⟩)
    (harm : ∀ s, ∃ sc, exec i s = issue i s sc fun c => c.write (op c) (ofl c) := by exact fun _ => ⟨_, rfl⟩) : Gives i k d n rs f fl :=
  gives_of hform fun s =>
    have ⟨sc, h⟩ := harm s
    ⟨sc, _, h, fun c _ => by rw [funext (hvalue c), funext (hflags c)]⟩

/-- One that raises no flag. -/
theorem gives_of_value {i : Instr} {k : Bool} {d : Reg} {n : Nat} {rs : List Reg} {f op : Ctx → Lane → BitVec 128}
    (hvalue : ∀ c l, op c l = f c l) (hform : Form i k d n rs := by exact ⟨_, rfl, rfl, rfl, rfl⟩)
    (harm : ∀ s, ∃ sc, exec i s = issue i s sc fun c => c.write (op c) noFlags := by exact fun _ => ⟨_, rfl⟩) :
    Gives i k d n rs f (fun _ _ => 0) :=
  gives_of_issue hvalue (fun _ _ => rfl) hform harm

/-- A word that raises no flag and whose body writes a predicate. -/
theorem givesP_of_value {i : Instr} {p : Pred} {rs : List Reg} {f op : Ctx → Lane → Bool} (hvalue : ∀ c l, op c l = f c l)
    (hform : FormP i rs := by exact ⟨_, rfl, rfl, rfl⟩)
    (harm : ∀ s, ∃ sc, exec i s = issue i s sc fun c => c.writeP p (op c) noFlags := by exact fun _ => ⟨_, rfl⟩) :
    GivesP i p rs f (fun _ _ => 0) :=
  givesP_of hform fun s =>
    have ⟨sc, h⟩ := harm s
    ⟨sc, _, h, fun c _ => congrArg (c.writeP p · noFlags) (funext (hvalue c))⟩

/-- Settles O1: each word by its arm and the equation of its operation. -/
theorem integerArithmetic : Obligations.IntegerArithmetic := fun _ _ _ _ _ =>
  ⟨gives_of_value fun _ _ => rfl,
    gives_of_value fun _ _ => rfl,
    gives_of_value fun _ _ => rfl,
    gives_of_value fun _ _ => congrArg w32 (mulHighS_eq ..),
    gives_of_value fun _ _ => congrArg w32 (mulHighZ_eq ..),
    gives_of_value fun _ _ => rfl,
    gives_of_value fun _ _ => congrArg w32 (minS_eq ..),
    gives_of_value fun _ _ => congrArg w32 (maxS_eq ..),
    gives_of_value fun _ _ => congrArg w32 (minZ_eq ..),
    gives_of_value fun _ _ => congrArg w32 (maxZ_eq ..),
    gives_of_value fun _ _ => congrArg w32 (absS_eq _),
    gives_of_value fun _ _ => rfl,
    gives_of_value fun _ _ => rfl,
    gives_of_issue (fun _ _ => congrArg (w32 ·.1) (divS_eq ..)) fun _ _ => congrArg (·.2) (divS_eq ..),
    gives_of_issue (fun _ _ => congrArg (w32 ·.1) (divZ_eq ..)) fun _ _ => congrArg (·.2) (divZ_eq ..),
    gives_of_issue (fun _ _ => congrArg (w32 ·.1) (remS_eq ..)) fun _ _ => congrArg (·.2) (remS_eq ..),
    gives_of_issue (fun _ _ => congrArg (w32 ·.1) (remZ_eq ..)) fun _ _ => congrArg (·.2) (remZ_eq ..)⟩

/-- Settles O2: each word by its arm and the equation of its operation. -/
theorem integerBitsAndShifts : Obligations.IntegerBitsAndShifts := fun _ _ _ _ _ _ =>
  ⟨gives_of_value fun _ _ => rfl,
    gives_of_value fun _ _ => rfl,
    gives_of_value fun _ _ => rfl,
    gives_of_value fun _ _ => rfl,
    gives_of_value fun _ _ => congrArg w32 (congrArg (BitVec.ofNat 32) (popCount_lanes _)),
    gives_of_value fun _ _ => congrArg w32 (congrArg (BitVec.ofNat 32) (leadingZeros_eq _)),
    gives_of_value fun _ _ => congrArg w32 (revBits_lanes _),
    gives_of_value fun _ _ => congrArg w32 (shl_eq ..),
    gives_of_value fun _ _ => congrArg w32 (shr_eq ..),
    gives_of_value fun _ _ => congrArg w32 (shra_eq ..),
    gives_of_value fun _ _ => congrArg w32 (rot_eq ..),
    gives_of_value fun _ _ => congrArg w64 (shl_eq ..),
    gives_of_value fun _ _ => congrArg w64 (shr_eq ..),
    gives_of_value fun _ _ => congrArg w64 (shra_eq ..),
    gives_of_value fun _ _ => congrArg w32 (shl_eq ..),
    gives_of_value fun _ _ => congrArg w32 (shr_eq ..),
    gives_of_value fun _ _ => congrArg w32 (shra_eq ..),
    gives_of_value fun _ _ => congrArg w32 (rot_eq ..),
    gives_of_value fun _ _ => congrArg w64 (shl_eq ..),
    gives_of_value fun _ _ => congrArg w64 (shr_eq ..),
    gives_of_value fun _ _ => congrArg w64 (shra_eq ..)⟩

/-- Settles O3: the bits of each result, with the position and the width read from the control word. -/
theorem integerBitFields : Obligations.IntegerBitFields := by
  intro e k d a b pos w
  have hpos : ∀ c l, fieldPos (c.x 1 l) = pos c l := fun c l => fieldPos_eq _
  have hw : ∀ c l, fieldWidth (c.x 1 l) = w c l := fun c l => fieldWidth_eq _
  refine ⟨gives_of_value (op := fun c l => w32 (bfxZ (c.x 0 l) (c.x 1 l))) fun c l => ?_,
    gives_of_value (op := fun c l => w32 (bfxS (c.x 0 l) (c.x 1 l))) fun c l => ?_,
    gives_of_value (op := fun c l => w32 (bfi (c.x 0 l) (c.x 1 l) (c.x 2 l))) fun c l => ?_⟩
  · rw [bfxZ_eq, hpos, hw]
  · rw [bfxS_eq, hpos, hw]
  · rw [bfi_eq, hpos, hw]

/-- Settles O4: each word by its arm and the equation of its operation. -/
theorem integer64 : Obligations.Integer64 := fun _ _ _ _ _ _ =>
  ⟨gives_of_value fun _ _ => rfl,
    gives_of_value fun _ _ => rfl,
    gives_of_value fun _ _ => rfl,
    gives_of_value fun _ _ => congrArg w64 (minS_eq ..),
    gives_of_value fun _ _ => congrArg w64 (maxS_eq ..),
    gives_of_value fun _ _ => congrArg w64 (minZ_eq ..),
    gives_of_value fun _ _ => congrArg w64 (maxZ_eq ..),
    gives_of_value fun _ _ => rfl,
    gives_of_value fun _ _ => congrArg w64 (absS_eq _),
    gives_of_value fun _ _ => congrArg w64 (mulHighS_eq ..),
    gives_of_value fun _ _ => congrArg w64 (mulHighZ_eq ..),
    gives_of_value fun _ _ => rfl,
    gives_of_value fun _ _ => congrArg w64 (leaSum_eq ..)⟩

/-- Settles O5: each word's operation is written out in its arm. -/
theorem immediatesAndSelect : Obligations.ImmediatesAndSelect := fun _ _ _ _ _ _ _ _ _ =>
  ⟨gives_of_value fun _ _ => rfl,
    gives_of_value fun _ _ => rfl,
    gives_of_value fun _ _ => rfl,
    gives_of_value fun _ _ => rfl,
    gives_of_value fun _ _ => rfl⟩

end Sys2Proof.Machine
end

section
/-! SUPPORT. Predicate moves and the words across lanes: quantifiers over the lanes of a set, the source lane of SHFL, and the
operations that WRED, WSCAN and the integer atomics combine with (R108 to R111). -/
namespace Sys2Proof.Machine

/-- Settles O14: each word's operation is written out in its arm. -/
theorem predicateMoves : Obligations.PredicateMoves := fun _ _ _ _ _ _ =>
  ⟨givesP_of_value fun _ _ => decide_not,
    gives_of_value fun _ _ => rfl,
    givesP_of_value fun _ _ => rfl,
    givesP_of_value fun _ _ => rfl,
    givesP_of_value fun _ _ => rfl,
    givesP_of_value fun _ _ => rfl,
    givesP_of_value fun _ _ => rfl⟩

/-! ### SHFL (R109) -/

/-- The lane of a number, none when there is no such lane. -/
def laneAt (n : Int) : Option Lane := if h : 0 ≤ n ∧ n < 32 then some ⟨n.toNat, by omega⟩ else none

theorem laneAt_natCast {n : Nat} (h : n < 32) : laneAt n = some ⟨n, h⟩ := dif_pos ⟨Int.natCast_nonneg n, by exact_mod_cast h⟩

theorem laneAt_of_not_lt {n : Nat} (h : ¬ n < 32) : laneAt n = none := dif_neg fun ⟨_, hn⟩ => h (by exact_mod_cast hn)

theorem shflLane_idx (l : Lane) (k : Word) : shflLane .idx l k = laneAt k.toNat := by
  simp only [shflLane]
  split
  · next h => rw [laneAt_natCast h]
  · next h => rw [laneAt_of_not_lt h]

theorem shflLane_up (l : Lane) (k : Word) : shflLane .up l k = laneAt (l.val - k.toNat) := by
  simp only [shflLane]
  split
  · next h => rw [← Int.ofNat_sub h, laneAt_natCast (by omega)]; congr 1; exact Fin.ext (Nat.mod_eq_of_lt (by omega))
  · next h =>
    have hnone : laneAt (l.val - k.toNat) = none := dif_neg (by omega)
    rw [hnone]

theorem shflLane_down (l : Lane) (k : Word) : shflLane .down l k = laneAt (l.val + k.toNat) := by
  simp only [shflLane, ← Int.natCast_add]
  split
  · next h => rw [laneAt_natCast h]
  · next h => rw [laneAt_of_not_lt h]

theorem shflLane_xor (l : Lane) (k : Word) : shflLane .xor l k = if k.toNat ≤ 31 then laneAt ((l.val ^^^ k.toNat : Nat) : Int) else none := by
  simp only [shflLane, Nat.lt_succ_iff]
  split
  · next h =>
    have hlt : l.val ^^^ k.toNat < 32 := Nat.xor_lt_two_pow (n := 5) l.isLt (Nat.lt_succ_of_le h)
    rw [laneAt_natCast hlt]
    congr 1
    exact Fin.ext (Nat.mod_eq_of_lt hlt)
  · rfl

/-- What a lane receives from the lane of a number: its own value when there is no such lane. -/
theorem x_laneAt (c : Ctx) (l : Lane) (n : Int) :
    c.x 0 ((laneAt n).getD l) = if h : 0 ≤ n ∧ n < 32 then c.x 0 ⟨n.toNat, by omega⟩ else c.x 0 l := by
  unfold laneAt
  split <;> rfl

theorem shfl_gives (e k : Bool) (d a b : Reg) (m : Shfl) {f : Ctx → Lane → Word}
    (h : ∀ c l, c.x 0 ((shflLane m l (c.x 1 l)).getD l) = f c l) :
    Gives (.shfl e k d a b m) k d 1 [a, b] (fun c l => w32 (f c l)) (fun _ _ => 0) :=
  gives_of_value fun c l => congrArg w32 (h c l)

/-! ### VOTE (R110) -/

theorem any_lanes (m : Mask) (p : Lane → Bool) : m.lanes.any p = decide (∃ l, m.has l = true ∧ p l = true) := by
  rw [Bool.eq_iff_iff, List.any_eq_true, decide_eq_true_eq]
  simp only [Mask.mem_lanes]

theorem all_lanes (m : Mask) (p : Lane → Bool) : m.lanes.all p = decide (∀ l, m.has l = true → p l = true) := by
  rw [Bool.eq_iff_iff, List.all_eq_true, decide_eq_true_eq]
  simp only [Mask.mem_lanes]

/-- The lanes of a set agree with its lowest one exactly when they all agree. -/
theorem all_lanes_lowest (m : Mask) (f : Lane → Word) :
    (m.lanes.all fun l => f l = f (m.lowest.getD 0)) = decide (∀ l k, m.has l = true → m.has k = true → f l = f k) := by
  rw [all_lanes]
  refine decide_eq_decide.2 ⟨fun h l k hl hk => ?_, fun h l hl => ?_⟩
  · exact (of_decide_eq_true (h l hl)).trans (of_decide_eq_true (h k hk)).symm
  · have hlow : m.has (m.lowest.getD 0) = true := by
      cases hlo : m.lowest with
      | none => exact absurd ((Mask.mem_lanes m l).2 hl) (by rw [List.head?_eq_none_iff.1 hlo]; exact List.not_mem_nil)
      | some k => exact (Mask.mem_lanes m k).1 (List.mem_of_mem_head? hlo)
    exact decide_eq_true (h _ _ hl hlow)

/-! ### The operations of WRED and WSCAN (R111) -/

theorem toInt_minS (x y : Word) : (minS x y).toInt = min x.toInt y.toInt :=
  (apply_ite BitVec.toInt _ _ _).trans (Int.min_def ..).symm
theorem toInt_maxS (x y : Word) : (maxS x y).toInt = max x.toInt y.toInt :=
  (apply_ite BitVec.toInt _ _ _).trans (Int.max_def ..).symm
theorem toNat_minZ (x y : Word) : (minZ x y).toNat = min x.toNat y.toNat :=
  (apply_ite BitVec.toNat _ _ _).trans Nat.min_def.symm
theorem toNat_maxZ (x y : Word) : (maxZ x y).toNat = max x.toNat y.toNat :=
  (apply_ite BitVec.toNat _ _ _).trans Nat.max_def.symm

theorem redOp_comm (o : RedOp) (x y : Word) : redOp o x y = redOp o y x := by
  cases o with
  | add => exact BitVec.add_comm x y
  | minS => exact BitVec.eq_of_toInt_eq (by simp only [redOp, toInt_minS]; exact Int.min_comm ..)
  | maxS => exact BitVec.eq_of_toInt_eq (by simp only [redOp, toInt_maxS]; exact Int.max_comm ..)
  | minZ => exact BitVec.eq_of_toNat_eq (by simp only [redOp, toNat_minZ]; exact Nat.min_comm ..)
  | maxZ => exact BitVec.eq_of_toNat_eq (by simp only [redOp, toNat_maxZ]; exact Nat.max_comm ..)
  | and => exact BitVec.and_comm x y
  | or => exact BitVec.or_comm x y
  | xor => exact BitVec.xor_comm x y

theorem redOp_assoc (o : RedOp) (x y z : Word) : redOp o (redOp o x y) z = redOp o x (redOp o y z) := by
  cases o with
  | add => exact BitVec.add_assoc x y z
  | minS => exact BitVec.eq_of_toInt_eq (by simp only [redOp, toInt_minS]; exact Int.min_assoc ..)
  | maxS => exact BitVec.eq_of_toInt_eq (by simp only [redOp, toInt_maxS]; exact Int.max_assoc ..)
  | minZ => exact BitVec.eq_of_toNat_eq (by simp only [redOp, toNat_minZ]; exact Nat.min_assoc ..)
  | maxZ => exact BitVec.eq_of_toNat_eq (by simp only [redOp, toNat_maxZ]; exact Nat.max_assoc ..)
  | and => exact BitVec.and_assoc x y z
  | or => exact BitVec.or_assoc x y z
  | xor => exact BitVec.xor_assoc x y z

/-- The identity of a least or a greatest value is the end of its range. -/
theorem redOp_unit (o : RedOp) (x : Word) : redOp o (redUnit o) x = x := by
  have hlt : x.toInt < 2 ^ 31 := BitVec.toInt_lt
  have hle : -2 ^ 31 ≤ x.toInt := BitVec.le_toInt x
  cases o with
  | add => exact BitVec.zero_add x
  | minS => exact BitVec.eq_of_toInt_eq ((toInt_minS ..).trans (Int.min_eq_right (Int.le_of_lt_add_one hlt)))
  | maxS => exact BitVec.eq_of_toInt_eq ((toInt_maxS ..).trans (Int.max_eq_right hle))
  | minZ => exact BitVec.eq_of_toNat_eq ((toNat_minZ ..).trans (Nat.min_eq_right (Nat.le_of_lt_succ x.isLt)))
  | maxZ => exact BitVec.eq_of_toNat_eq ((toNat_maxZ ..).trans (Nat.max_eq_right (Nat.zero_le _)))
  | and => exact BitVec.allOnes_and
  | or => exact BitVec.zero_or
  | xor => exact BitVec.zero_xor

theorem scanLanes_eq (x : Bool) (m : Mask) (l : Lane) :
    scanLanes x m l = laneList.filter fun k => m.has k && (decide (k < l) || (!x && decide (k = l))) := by
  rw [scanLanes, Mask.lanes, List.filter_filter]
  exact List.filter_congr fun k _ => Bool.and_comm ..

/-- Settles O15: the source lane of each mode of SHFL, the quantifiers of VOTE, and the lanes and operations of WRED and WSCAN. -/
theorem crossLane : Obligations.CrossLane := by
  refine ⟨fun e k x d a b p q o => ?_, fun x y => ?_⟩
  · intro from'
    have hfrom : ∀ c l n, c.x 0 ((laneAt n).getD l) = from' c l n := x_laneAt
    refine ⟨shfl_gives e k d a b .idx fun c l => by rw [shflLane_idx, hfrom], shfl_gives e k d a b .up fun c l => by rw [shflLane_up, hfrom],
      shfl_gives e k d a b .down fun c l => by rw [shflLane_down, hfrom], shfl_gives e k d a b .xor fun c l => ?_,
      givesP_of_value fun c _ => any_lanes c.exec _, givesP_of_value fun c _ => all_lanes c.exec _,
      gives_of_value fun _ _ => rfl, givesP_of_value fun c _ => all_lanes_lowest c.exec (c.x 0),
      gives_of_value fun _ _ => rfl, gives_of_value fun c l => congrArg (w32 ∘ reduceOver o c) (scanLanes_eq x c.exec l)⟩
    rw [shflLane_xor]
    split
    · rw [hfrom]
    · rfl
  · exact ⟨rfl, minS_eq x y, maxS_eq x y, minZ_eq x y, maxZ_eq x y, rfl, rfl, rfl,
      fun o z => ⟨redOp_unit o x, redOp_comm o x y, redOp_assoc o x y z⟩⟩

end Sys2Proof.Machine
end

section
/-! SUPPORT. The register window, claims met at once, blocks given back, branches and NOP (R114 to R119, R123). -/
namespace Sys2Proof.Machine

/-! ### Claims (R115) -/

/-- No claim of the quadrant is older than that of a wave when there is no other wave's. -/
theorem no_older_claim {l : List (Wave × Nat × Nat)} {n : Nat} (h : ∀ x ∈ l, x.1.id = n) (p : Wave × Nat × Nat → Bool) :
    (l.any fun x => x.1.id ≠ n && p x) = false := by
  rw [List.any_eq_false]
  intro x hx
  simp [h x hx]

section
variable {c : Ctx} {p : Place} {n : Nat}

/-- The grant of a claim that has waited is used up. -/
theorem claimBlocks_of_granted (h : c.w.granted = true) :
    claimBlocks c p n = c.done (modWave c.s c.w.id fun w => { w with granted := false }) := if_pos h

theorem claimBlocks_of_bound (hg : c.w.granted = false) (h : 8 < c.w.blks.toNat + n ∨ claimBound c.s c.w p 0 < n) :
    claimBlocks c p n = c.trap .regClaim c.exec 0 := by
  rw [claimBlocks, if_neg (Bool.eq_false_iff.1 hg), if_pos (by simpa using h)]

theorem claimBlocks_of_free (hg : c.w.granted = false) (hmax : c.w.blks.toNat + n ≤ 8) (hbound : n ≤ claimBound c.s c.w p 0)
    (hfree : n ≤ freeBlocks c.s p.die p.core p.quad)
    (hfirst : ∀ x ∈ quadClaims (endScouts c.s p.die p.core p.quad) p.die p.core p.quad, x.1.id = c.w.id) :
    claimBlocks c p n = c.done (modWave (freshBlocks c.s c.w n) c.w.id fun w => { addBlocks w n with claim := none }) := by
  rw [claimBlocks, if_neg (Bool.eq_false_iff.1 hg), if_neg (by rw [Bool.or_eq_true, decide_eq_true_eq, decide_eq_true_eq]; omega)]
  simp only [no_older_claim hfirst, decide_eq_true hfree, Bool.not_false, Bool.and_self, if_true]

theorem rclaim_ends {e : Bool} {n : Fin 8} {P : Ctx → Prop} {res : Ctx → Res}
    (h : ∀ c, P c → ∃ p, c.w.place = some p ∧ claimBlocks c p n.val = res c) : Ends (.rclaim e n) P res :=
  ends_of fun _ => ⟨_, _, rfl, fun c _ hc => by
    obtain ⟨p, hp, hres⟩ := h c hc
    simp only [hp, hres]⟩
end

/-! ### Window and blocks (R114, R116) -/

theorem winb_ends (e : Bool) (n : Fin 8) : Ends (.winb e n) (fun c => n.val < c.w.blks.toNat)
    (fun c => c.done (modWave c.s c.w.id fun w => { w with winb := BitVec.ofFin n })) :=
  ends_of fun _ => ⟨_, _, rfl, fun _ _ h => if_neg (Nat.not_le.2 h)⟩

theorem winb_traps (e : Bool) (n : Fin 8) : Ends (.winb e n) (fun c => c.w.blks.toNat ≤ n.val)
    (fun c => .trap c.s (.at .window c.exec 0 c.r 0)) :=
  ends_of fun _ => ⟨_, _, rfl, fun _ _ h => if_pos h⟩

theorem rgive_ends (e : Bool) (n : Fin 8) : Ends (.rgive e n) (fun c => n.val < c.w.blks.toNat ∧ c.w.winb.toNat < c.w.blks.toNat - n.val)
    (fun c => c.done (modWave c.s c.w.id fun w => dropBlocks w n.val)) :=
  ends_of fun _ => ⟨_, _, rfl, fun _ _ ⟨hn, hw⟩ => (if_neg (Nat.not_le.2 hn)).trans (if_neg (Nat.not_le.2 hw))⟩

theorem rgive_traps_claim (e : Bool) (n : Fin 8) : Ends (.rgive e n) (fun c => c.w.blks.toNat ≤ n.val)
    (fun c => .trap c.s (.at .regClaim c.exec 0 c.r 0)) :=
  ends_of fun _ => ⟨_, _, rfl, fun _ _ h => if_pos h⟩

theorem rgive_traps_window (e : Bool) (n : Fin 8) :
    Ends (.rgive e n) (fun c => n.val < c.w.blks.toNat ∧ c.w.blks.toNat - n.val ≤ c.w.winb.toNat)
      (fun c => .trap c.s (.at .window c.exec 0 c.r 0)) :=
  ends_of fun _ => ⟨_, _, rfl, fun _ _ ⟨hn, hw⟩ => (if_neg (Nat.not_le.2 hn)).trans (if_pos hw)⟩

/-- Settles O16: RCLAIM by the equations of `claimBlocks`, the other words by theirs; a branch is `branch` written out. -/
theorem windowsAndBranches : Obligations.WindowsAndBranches := by
  refine ⟨fun e n => ⟨winb_ends e n, winb_traps e n, rclaim_ends ?_, rclaim_ends ?_, rclaim_ends ?_, rgive_ends e n, rgive_traps_claim e n,
    rgive_traps_window e n⟩, fun e u p o => ⟨?_, ?_, ?_⟩⟩
  · rintro c ⟨p, hp, hg, -, hmax, hbound, hfree, hfirst⟩
    exact ⟨p, hp, claimBlocks_of_free hg hmax hbound hfree hfirst⟩
  · rintro c ⟨hp, hg⟩
    obtain ⟨p, hp⟩ := Option.isSome_iff_exists.1 hp
    exact ⟨p, hp, claimBlocks_of_granted hg⟩
  · rintro c ⟨p, hp, hg, h⟩
    exact ⟨p, hp, claimBlocks_of_bound hg h⟩
  · exact ends_of fun _ => ⟨_, _, rfl, fun _ _ _ => rfl⟩
  · exact ends_of fun _ => ⟨_, _, rfl, fun _ _ _ => rfl⟩
  · exact ends_of fun _ => ⟨_, _, rfl, fun c hsh _ => by rw [Ctx.done, ← Option.some.inj hsh]; rfl⟩

end Sys2Proof.Machine
end

section
/-! SUPPORT. Claims that wait, groups that are saved and placed again, and scout from its entry to its end (R115, R329 to R331,
R335 to R337). -/
namespace Sys2Proof.Machine

/-! ### Claims and blocks (R115) -/

theorem grantable_of_oldest {s : State} {w : Wave} {p : Place} {n ord : Nat} (hp : w.place = some p) (hc : w.claim = some (n, ord))
    (hfree : n ≤ freeBlocks s p.die p.core p.quad) (hold : ∀ x ∈ quadClaims s p.die p.core p.quad, ord ≤ x.2.2) : grantable s w = some n := by
  have hall : ((quadClaims s p.die p.core p.quad).all fun x => decide (ord ≤ x.2.2)) = true :=
    List.all_eq_true.2 fun x hx => decide_eq_true (hold x hx)
  simp only [grantable, hp, hc, hall, decide_eq_true hfree, Bool.and_self, if_true]

/-- No mark of the registers named stays, and every other one does (R356). -/
theorem mem_clearPoison_all (s : State) (wid k n : Nat) (x : Nat × Nat × Nat) :
    x ∈ (clearPoison s wid k n (Mask.of fun _ => true)).poisonReg
      ↔ x ∈ s.poisonReg ∧ ¬ (x.1 = wid ∧ k ≤ x.2.2 ∧ x.2.2 < k + n) := by
  unfold clearPoison
  split
  · next h => simp [List.isEmpty_iff.1 h]
  · simp only [List.mem_filter, Mask.has_of, Bool.and_true, Bool.not_eq_eq_eq_not, Bool.not_true, ← Bool.not_eq_true, Bool.and_eq_true,
      decide_eq_true_eq, and_assoc]

theorem grantClaim_eq {s : State} {w : Wave} {n : Nat} (hw : findWave s w.id = some w) (hn : grantable s w = some n) :
    grantClaim s w.id = { clearPoison s w.id (32 * w.blks.toNat) (32 * n) (Mask.of fun _ => true) with
      waves := s.waves.map fun v =>
        if v.id = w.id then { v with blks := v.blks + BitVec.ofNat 4 n, claim := none, granted := true } else v } := by
  simp only [grantClaim, hw, hn, freshBlocks, modWave]
  rw [clearPoison_eq]
  rfl

theorem isSome_place_of_saveable {s : State} {g : Group} (h : saveable s g = true) : g.place.isSome = true := by
  simp only [saveable, Bool.and_eq_true] at h
  obtain ⟨⟨⟨⟨hplace, -⟩, -⟩, -⟩, -⟩ := h
  exact hplace

theorem claimTimeout_of_saveable {s : State} {w : Wave} {g : Group} (hw : findWave s w.id = some w) (hg : findGroup s w.group = some g)
    (hc : w.claim.isSome) (hs : heldStopped w = false) (h : saveable s g = true) : claimTimeout s w.id = saveGroup s g.id := by
  have hplace : g.place.isNone = false := by rw [← Option.not_isSome, isSome_place_of_saveable h, Bool.not_true]
  have hclaim : w.claim.isNone = false := by rw [← Option.not_isSome, hc, Bool.not_true]
  simp [claimTimeout, hw, hg, hclaim, hs, hplace, h]

theorem claimTimeout_of_fits {s : State} {w : Wave} {g : Group} (hw : findWave s w.id = some w) (hg : findGroup s w.group = some g)
    (hc : w.claim.isSome) (hs : heldStopped w = false) (hp : g.place = none) (h : groupFits s g = true) :
    claimTimeout s w.id = signalGroup s g.id := by
  have hclaim : w.claim.isNone = false := by rw [← Option.not_isSome, hc, Bool.not_true]
  simp [claimTimeout, hw, hg, hclaim, hs, hp, h]

/-! ### Groups saved and placed again (R329 to R331) -/

theorem saveTimeout_of_waiting {s : State} {g : Group} (hg : findGroup s g.id = some g) (hs : saveable s g = true)
    (hw : ∀ w ∈ wavesOf s g.id, w.finished = true ∨ waiting s w = true) : saveTimeout s g.id = saveGroup s g.id := by
  have hall : ((wavesOf s g.id).all fun w => w.finished || waiting s w) = true :=
    List.all_eq_true.2 fun w h => Bool.or_eq_true_iff.2 (hw w h)
  simp only [saveTimeout, hg, hs, hall, Bool.and_self, if_true]

theorem relaunch_of_head {s : State} {g : Group} {p : Part} {d c : Nat} (hg : findGroup s g.id = some g) (hp : findPart s g.part = some p)
    (hhead : (relaunchHead s g.part).map (·.id) = some g.id)
    (hcore : chooseCore s p (needOf s g) (launchDie s g.launch) none g.clock = some (d, c)) (hctx : s.poisonCtx.contains g.id = false) :
    relaunch s g.id = { seatGroup s g.id d c with
      waves := (seatGroup s g.id d c).waves.map fun w => if w.group = g.id then relaunchWave w else w } := by
  simp only [relaunch, hg, hp, hhead, hcore, hctx, if_true, Bool.false_eq_true, if_false]

theorem findGroup_modGroup (s : State) (n k : Nat) (f : Group → Group) (hf : ∀ g, (f g).id = g.id) :
    findGroup (modGroup s n f) k = (findGroup s k).map fun g => if g.id = n then f g else g := by
  have hid : ∀ g : Group, (if g.id = n then f g else g).id = g.id := fun g => by split <;> simp only [hf]
  simp only [findGroup, modGroup_groups, List.find?_map, Function.comp_def, hid]

/-- Only the signals of groups may differ (R331), beside the count that orders them. -/
structure SignalsOnly (s t : State) : Prop where
  mem : t.mem = s.mem
  waves : t.waves = s.waves
  group : ∀ k y, findGroup s k = some y → ∃ x, findGroup t k = some { y with signal := x }

theorem SignalsOnly.refl (s : State) : SignalsOnly s s := ⟨rfl, rfl, fun _ y h => ⟨y.signal, h⟩⟩

theorem SignalsOnly.trans {s t u : State} (h : SignalsOnly s t) (k : SignalsOnly t u) : SignalsOnly s u :=
  ⟨k.mem.trans h.mem, k.waves.trans h.waves, fun n y hy => by
    obtain ⟨x, hx⟩ := h.group n y hy
    obtain ⟨x', hx'⟩ := k.group n _ hx
    exact ⟨x', hx'⟩⟩

theorem signalGroup_signalsOnly (s : State) (g : Nat) : SignalsOnly s (signalGroup s g) := by
  unfold signalGroup
  split
  · split
    · refine ⟨rfl, rfl, fun k y hy => ?_⟩
      rw [findGroup_modGroup _ g k (fun y => { y with signal := some s.fresh }) fun _ => rfl]
      have hy' : findGroup { s with fresh := s.fresh + 1 } k = some y := hy
      rw [hy', Option.map_some]
      split
      · exact ⟨some s.fresh, rfl⟩
      · exact ⟨y.signal, rfl⟩
    · exact .refl s
  · exact .refl s

theorem signalOwner_signalsOnly (s : State) (e : Campion) : SignalsOnly s (signalOwner s e) := by
  unfold signalOwner
  split
  · split
    · exact signalGroup_signalsOnly ..
    · exact .refl s
  · exact .refl s

theorem signalOwners_signalsOnly (s : State) (tenant : Nat) : SignalsOnly s (signalOwners s tenant) := by
  unfold signalOwners
  generalize s.campion.filter (fun e => e.tenant = tenant) = l
  induction l generalizing s with
  | nil => exact .refl s
  | cons e l ih => exact (signalOwner_signalsOnly s e).trans (ih _)

/-- A group as its save leaves it (R330). -/
def savedGroup (s : State) (g : Group) : Group :=
  { g with place := none, sharing := none, context := some s.free
           clock := match g.place with | some c => clockOf s c.1 | none => g.clock }

theorem foldl_endScout_of_no_shadow {s : State} (hs : s.shadows = []) (l : List Nat) : l.foldl endScout s = s := by
  induction l with
  | nil => rfl
  | cons n l ih => rw [List.foldl_cons, endScout_of_none (by simp only [shadowOf, hs, List.find?_nil]), ih]

/-- The save of a group none of whose waves scouts: what it leaves before the owners of monitors are signalled (R286). -/
theorem saveGroup_signalsOnly {s : State} {g : Group} (hs : s.shadows = []) (hg : findGroup s g.id = some g) :
    ∃ u, SignalsOnly u (saveGroup s g.id) ∧ u.mem = s.mem ∧ (u.waves = s.waves.map fun w => if w.group = g.id then saveWave w else w)
      ∧ findGroup u g.id = some (savedGroup s g) := by
  have hscout : ((wavesOf s g.id).map (·.id)).foldl endScout s = s :=
    foldl_endScout_of_no_shadow hs _
  have hfind : findGroup (modGroup s g.id (savedGroup s)) g.id = some (savedGroup s g) :=
    findGroup_modGroup_self _ (fun _ => rfl) hg
  simp only [saveGroup, hscout]
  split
  · exact ⟨_, signalOwners_signalsOnly .., rfl, rfl, hfind⟩
  next hnone =>
    have hsome : some (savedGroup s g) = none := hfind.symm.trans hnone
    cases hsome

/-! ### Scout (R335 to R337) -/

theorem length_distinct_le {α : Type} [DecidableEq α] (l : List α) : (distinct l).length ≤ l.length := by
  have hacc : ∀ acc : List α, (l.foldl (fun acc x => if acc.contains x then acc else acc ++ [x]) acc).length ≤ acc.length + l.length := by
    induction l with
    | nil => exact fun acc => Nat.le_refl _
    | cons x l ih =>
      intro acc
      refine Nat.le_trans (ih _) ?_
      have hone : (if acc.contains x then acc else acc ++ [x]).length ≤ acc.length + 1 := by
        split
        · exact Nat.le_succ _
        · exact Nat.le_of_eq (by rw [List.length_append, List.length_singleton])
      exact Nat.le_trans (Nat.add_le_add_right hone _) (by rw [List.length_cons]; omega)
  simpa [distinct] using hacc []

theorem length_dstKeys_le {i : Instr} {sh : Shape} (h : i.shape = some sh) (w : Wave) : (dstKeys w sh).length ≤ 4 := by
  unfold dstKeys
  split
  next d n hd =>
    split
    · exact Nat.zero_le 4
    · have hn := shape_dst h hd
      refine Nat.le_trans (List.length_filterMap_le ..) ?_
      rw [Reg.span, List.length_map, List.length_range]
      omega
  · exact Nat.zero_le 4

/-- The first instruction of a scout does not fill its shadow. -/
theorem markShadow_not_ending {i : Instr} {sh : Shape} (hi : i.shape = some sh) {h : Shadow} (hw : h.written = []) (he : h.ending = false)
    (w : Wave) (m p : Mask) : (markShadow h w sh m p).ending = false := by
  have hlen : (shadowRegs h w sh).length ≤ 4 := by
    rw [shadowRegs, hw, List.nil_append]
    exact Nat.le_trans (length_distinct_le _) (Nat.le_trans (List.length_filter_le ..) (length_dstKeys_le hi w))
  show (h.ending || decide (64 ≤ (shadowRegs h w sh).length)) = false
  rw [he, Bool.false_or, decide_eq_false_iff_not]
  omega

/-- The word at which a wave is blocked has a shape. -/
theorem shape_of_blockedAt {s : State} {w : Wave} {r : Run} {sh : Shape} (h : blockedAt s w = some (r, sh)) : ∃ i : Instr, i.shape = some sh := by
  unfold blockedAt at h
  split at h
  · cases h
  · split at h
    · split at h
      next i _ =>
        split at h
        next hi =>
          split at h
          · cases h
            exact ⟨i, hi⟩
          · cases h
        · cases h
      · cases h
    all_goals cases h

/-- A wave past the word at which it is blocked: the lanes of the word's run stand behind it, and its run is over (R335). -/
def passOver (r : Run) (m : Mask) (v : Wave) : Wave :=
  { mapLanes v m (fun _ x => { x with pc := r.pc + 4 }) with
    run := none, hold := none, issue := none, counters := { v.counters with scoutEntries := v.counters.scoutEntries + 1 } }

theorem passOver_id (r : Run) (m : Mask) (v : Wave) : (passOver r m v).id = v.id := by simp only [passOver, mapLanes_id]
theorem passOver_pend (r : Run) (m : Mask) (v : Wave) : (passOver r m v).pend = v.pend := by simp only [passOver, mapLanes]
theorem passOver_run (r : Run) (m : Mask) (v : Wave) : (passOver r m v).run = none := by simp only [passOver]
theorem laneOf_passOver (r : Run) (m : Mask) (v : Wave) (l : Lane) :
    laneOf (passOver r m v) l = if m.has l then { laneOf v l with pc := r.pc + 4 } else laneOf v l := by
  simp only [laneOf, passOver, mapLanes, Lanes.get_of]

/-- The shadow with which a wave enters scout at a word (R335, R336). -/
def entryShadow (w : Wave) (r : Run) (sh : Shape) : Shadow :=
  markShadow { wave := w.id, saved := w, poison := pendPoison w, poisonP := pendPoisonP w, poisonL := [], written := [], g := []
               awaits := ((waitsFor w sh).filter (·.missed)).map (·.tick), ending := false } w sh (execMask w r) (execMask w r)

theorem enterScout_eq {s : State} {w : Wave} {r : Run} {sh : Shape} (hw : findWave s w.id = some w) (hb : blockedAt s w = some (r, sh))
    (hm : mayScout s w = true) :
    enterScout s w.id = modWave { s with shadows := s.shadows ++ [entryShadow w r sh] } w.id (passOver r (execMask w r)) := by
  simp only [enterScout, hw, hb, hm, Bool.not_true, Bool.false_eq_true, if_false]
  rfl

theorem shadowOf_of_mayScout {s : State} {w : Wave} (h : mayScout s w = true) : shadowOf s w.id = none := by
  simp only [mayScout, Bool.and_eq_true] at h
  obtain ⟨⟨-, hnone⟩, -⟩ := h
  exact Option.isNone_iff_eq_none.1 hnone

theorem shadowOf_append {s : State} {n : Nat} {h : Shadow} (hn : shadowOf s n = none) (hh : h.wave = n) :
    shadowOf { s with shadows := s.shadows ++ [h] } n = some h := by
  unfold shadowOf at hn ⊢
  rw [List.find?_append, hn, Option.none_or, List.find?_singleton, if_pos (decide_eq_true hh)]

theorem endScout_of_some {s : State} {n : Nat} {h : Shadow} (hh : shadowOf s n = some h) :
    endScout s n = { modWave s n (unscout h.saved) with
      shadows := s.shadows.filter fun x => x.wave ≠ n
      cur := s.cur.bind fun c => if c = n then none else some c } := by
  simp only [endScout, hh]
  rfl

theorem shadowOf_endScout (s : State) (n : Nat) : shadowOf (endScout s n) n = none := by
  cases hh : shadowOf s n with
  | none => rw [endScout_of_none hh, hh]
  | some h =>
    rw [endScout_of_some hh]
    refine List.find?_eq_none.2 fun x hx => ?_
    simpa using (List.mem_filter.1 hx).2

theorem unscout_id (u w : Wave) : (unscout u w).id = w.id := by simp only [unscout]
theorem unscout_lanes (u w : Wave) : (unscout u w).lanes = u.lanes := by simp only [unscout]
theorem unscout_pend (u w : Wave) : (unscout u w).pend = w.pend := by simp only [unscout]
theorem unscout_stores (u w : Wave) : (unscout u w).stores = w.stores := by simp only [unscout]

theorem findWave_endScout {s : State} {w : Wave} {h : Shadow} (hw : findWave s w.id = some w) (hh : shadowOf s w.id = some h) :
    findWave (endScout s w.id) w.id = some (unscout h.saved w) := by
  rw [endScout_of_some hh]
  exact findWave_modWave_self _ (unscout_id _) hw

section
variable {s : State} {w : Wave} {h : Shadow}

theorem leaveScout_of_no_run (hw : findWave s w.id = some w) (hr : w.run = none) : leaveScout s w.id = endScout s w.id := by
  simp only [leaveScout, hw, hr, Option.isNone_none, if_true]

theorem exitScout_of_arrived (hw : findWave s w.id = some w) (hr : w.run = none) (hh : shadowOf s w.id = some h)
    (ha : scoutArrived s w h = true) : exitScout s w.id = endScout s w.id := by
  simp only [exitScout, hw, hh, ha, if_true, leaveScout_of_no_run hw hr]

/-- An awaited result that can be delivered ends scout, and is written then (R337). -/
theorem loadReturn_in_scout {n : Nat} {p : PendLoad} (hw : findWave s w.id = some w) (hr : w.run = none) (hh : shadowOf s w.id = some h)
    (hp : w.pend[n]? = some p) (hf : p.flight = none) (hc : clockReaches s w p.clock = true) (ha : h.awaits.contains p.tick = true)
    (he : h.ending = false) : execLoadReturn w.id n s = .next (deliverLoad (endScout s w.id) w.id n) := by
  have hready : loadReady s w.id n = true := by simp only [loadReady, hw, hp, hf, hc, hh, ha, he]; rfl
  simp only [execLoadReturn, hready, hh, if_true, arriveInScout, hw, hr, Option.isSome_none, Bool.false_eq_true, if_false]
end

/-! ### The statement -/

theorem saveGroup_of_no_scout {s : State} {g : Group} (hs : s.shadows = []) (hg : findGroup s g.id = some g) :
    (saveGroup s g.id).mem = s.mem
      ∧ (∃ y, findGroup (saveGroup s g.id) g.id = some y ∧ (∀ d c, g.place = some (d, c) → y.clock = clockOf s d)
          ∧ y = { g with place := none, sharing := none, context := some s.free, clock := y.clock, signal := y.signal })
      ∧ (saveGroup s g.id).waves = s.waves.map fun w => if w.group = g.id then saveWave w else w := by
  obtain ⟨u, hsig, hmem, hwaves, hfind⟩ := saveGroup_signalsOnly hs hg
  obtain ⟨x, hx⟩ := hsig.group _ _ hfind
  exact ⟨hsig.mem.trans hmem, ⟨_, hx, fun d c hplace => by simp only [savedGroup, hplace], rfl⟩, hsig.waves.trans hwaves⟩

/-- Entering scout keeps memory, pending results and registers; the lanes of the word stand behind it (R335). -/
theorem scoutEnter_ends {s : State} {w : Wave} {r : Run} {sh : Shape} (hw : findWave s w.id = some w) (hb : blockedAt s w = some (r, sh))
    (hm : mayScout s w = true) :
    ∃ t v h, exec (.scoutEnter w.id) s = .next t ∧ findWave t w.id = some v ∧ shadowOf t w.id = some h ∧ h.saved = w ∧ t.mem = s.mem
      ∧ v.pend = w.pend ∧ v.run = none ∧ h.ending = false ∧ h.awaits = ((waitsFor w sh).filter (·.missed)).map (·.tick)
      ∧ ∀ l, (laneOf v l).regs = (laneOf w l).regs ∧ (laneOf v l).pc = if (execMask w r).has l then r.pc + 4 else (laneOf w l).pc := by
  have hadd := shadowOf_append (h := entryShadow w r sh) (shadowOf_of_mayScout hm) rfl
  obtain ⟨i, hi⟩ := shape_of_blockedAt hb
  have hending : (entryShadow w r sh).ending = false := markShadow_not_ending hi rfl rfl w _ _
  refine ⟨_, passOver r (execMask w r) w, entryShadow w r sh, congrArg Host.Outcome.next (enterScout_eq hw hb hm),
    findWave_modWave_self _ (passOver_id r _) hw, hadd, rfl, rfl, passOver_pend .., passOver_run .., hending, rfl, fun l => ?_⟩
  rw [laneOf_passOver]
  split
  · exact ⟨rfl, rfl⟩
  · exact ⟨rfl, rfl⟩

/-- Scout's end keeps memory, what is pending and the store counts; the lanes are those of its entry (R336, R337). -/
theorem endScout_keeps {s : State} {w : Wave} {h : Shadow} (hw : findWave s w.id = some w) (hh : shadowOf s w.id = some h) :
    (endScout s w.id).mem = s.mem ∧ shadowOf (endScout s w.id) w.id = none
      ∧ ∀ v, findWave (endScout s w.id) w.id = some v → v.lanes = h.saved.lanes ∧ v.pend = w.pend ∧ v.stores = w.stores := by
  refine ⟨by rw [endScout_of_some hh]; rfl, shadowOf_endScout s w.id, fun v hv => ?_⟩
  obtain rfl := Option.some.inj ((findWave_endScout hw hh).symm.trans hv)
  exact ⟨unscout_lanes .., unscout_pend .., unscout_stores ..⟩

/-- Settles O38: each row by the equation of its meaning under the statement's hypotheses. -/
theorem claimsSavesAndScout : Obligations.ClaimsSavesAndScout := by
  refine ⟨fun s => ⟨?_, ?_, ?_, ?_, ?_⟩,
    fun s w hw => ⟨fun r sh => scoutEnter_ends hw, fun hr h hh => ⟨?_, ?_, ?_, endScout_keeps hw hh⟩⟩⟩
  · exact fun w p n ord hw hp hc hfree hold =>
      ⟨congrArg Host.Outcome.next (grantClaim_eq hw (grantable_of_oldest hp hc hfree hold)), clearPoison_eq .., mem_clearPoison_all _ _ _ _⟩
  · exact fun w g hw hg hc hs => ⟨fun h => congrArg Host.Outcome.next (claimTimeout_of_saveable hw hg hc hs h),
      fun hp h => congrArg Host.Outcome.next (claimTimeout_of_fits hw hg hc hs hp h)⟩
  · exact fun g hg hs hw => congrArg Host.Outcome.next (saveTimeout_of_waiting hg hs hw)
  · exact fun g p d c hg hp hhead hcore hctx => congrArg Host.Outcome.next (relaunch_of_head hg hp hhead hcore hctx)
  · exact fun g hs => saveGroup_of_no_scout hs
  · exact congrArg Host.Outcome.next (leaveScout_of_no_run hw hr)
  · exact fun ha => congrArg Host.Outcome.next (exitScout_of_arrived hw hr hh ha)
  · exact fun n p hp hf hc ha he => loadReturn_in_scout hw hr hh hp hf hc ha he

end Sys2Proof.Machine
end

section
/-! SUPPORT. The floating-point words that write the exact result rounded once, element by element for the packed forms, and the
byte products of DOT4 (R129, R134, R135). -/
namespace Sys2Proof.Machine

/-! ### FP32 and packed FP16 arithmetic -/

/-- Element i of a source of a packed word, as an FP16 value. -/
def halfOf (c : Ctx) (j i : Nat) (l : Lane) : Num := floatVal f16Fmt ((c.x j l).extractLsb' (16 * i) 16).toNat

/-- Two elements in one register, with the flags of both. -/
def twoElements (lo hi : Nat × Flags) : Nat × Flags := (lo.1 + 65536 * hi.1, lo.2 ||| hi.2)

/-- A packed word rounds each of its two elements by itself (R134). -/
theorem packed_eq (f : Num → Num → Num → Num × Flags) (c : Ctx) (l : Lane) :
    packed f (c.x 0 l).toNat (c.x 1 l).toNat (c.x 2 l).toNat =
      twoElements (rounded f16Fmt .rne (f (halfOf c 0 0 l) (halfOf c 1 0 l) (halfOf c 2 0 l)))
        (rounded f16Fmt .rne (f (halfOf c 0 1 l) (halfOf c 1 1 l) (halfOf c 2 1 l))) := by
  simp only [packed, twoElements, bitsOf_toNat, halfOf, Nat.reducePow]

/-- A word that computes on FP32 patterns writes the pattern that its rule gives, and raises the rule's flags. -/
theorem gives_of_floatWord {i : Instr} {k : Bool} {d : Reg} {rs : List Reg} {f : Nat → Nat → Nat → Nat × Flags} {g : Ctx → Lane → Nat × Flags}
    (hrule : ∀ c l, f (c.x 0 l).toNat (c.x 1 l).toNat (c.x 2 l).toNat = g c l)
    (hform : Form i k d 1 rs := by exact ⟨_, rfl, rfl, rfl, rfl⟩)
    (harm : ∀ s, exec i s = runWord i s (floatWord f) := by exact fun _ => rfl) :
    Gives i k d 1 rs (fun c l => w32 (BitVec.ofNat 32 (g c l).1)) (fun c l => (g c l).2) :=
  gives_of_issue (fun c l => congrArg (fun r : Nat × Flags => w32 (BitVec.ofNat 32 r.1)) (hrule c l))
    (fun c l => congrArg Prod.snd (hrule c l)) hform fun s => ⟨_, harm s⟩

/-- Settles O7: the FP32 words by their arms, the packed ones element by element. -/
theorem floatArithmetic : Obligations.FloatArithmetic := fun _ _ _ _ _ _ =>
  ⟨gives_of_floatWord fun _ _ => rfl,
    gives_of_floatWord fun _ _ => rfl,
    gives_of_floatWord fun _ _ => rfl,
    gives_of_floatWord fun _ _ => rfl,
    gives_of_floatWord (packed_eq _),
    gives_of_floatWord (packed_eq _),
    gives_of_floatWord (packed_eq _)⟩

/-! ### DOT4 -/

/-- A byte of a word, extended with its sign or with zeros (R135). -/
def byteOf (sg : Bool) (x : Word) (i : Nat) : Word :=
  if sg then (x.extractLsb' (8 * i) 8).signExtend 32 else (x.extractLsb' (8 * i) 8).zeroExtend 32

/-- The number that DOT4 reads in a byte is the extended byte modulo 2^32. -/
theorem ofInt_byte (sg : Bool) (x : Word) (i : Nat) :
    BitVec.ofInt 32 (if sg then signedOf (bitsOf x.toNat (8 * i) 8) 8 else (bitsOf x.toNat (8 * i) 8 : Nat)) = byteOf sg x i := by
  rw [bitsOf_toNat]
  cases sg with
  | false =>
    rw [if_neg Bool.false_ne_true, BitVec.ofInt_natCast, BitVec.ofNat_toNat]
    rfl
  | true =>
    rw [if_pos rfl, signedOf_eq_toInt _ 8 (by decide), BitVec.ofNat_toNat, BitVec.setWidth_eq]
    rfl

/-- DOT4 adds the four products one by one (R135). -/
theorem dot4_eq (sg : Bool) (x y z : Word) :
    dot4 sg x y z = z + byteOf sg x 0 * byteOf sg y 0 + byteOf sg x 1 * byteOf sg y 1 + byteOf sg x 2 * byteOf sg y 2
      + byteOf sg x 3 * byteOf sg y 3 := by
  simp only [dot4, BitVec.ofInt_add, BitVec.ofInt_mul, ofInt_byte, BitVec.add_assoc]

/-- Settles O13: both forms by the equation of DOT4. -/
theorem byteDotProducts : Obligations.ByteDotProducts := fun _ _ _ _ _ =>
  ⟨gives_of_value fun _ _ => congrArg w32 (dot4_eq true ..), gives_of_value fun _ _ => congrArg w32 (dot4_eq false ..)⟩

end Sys2Proof.Machine
end

section
/-! SUPPORT. FMIN, FMAX, FCLASS, FRND, and the functions at zeros, infinities, NaNs and negative numbers (R130, R132, R133, R136). -/
namespace Sys2Proof.Machine

/-! ### Patterns of one value -/

/-- A smaller pattern is a strictly smaller magnitude, counted in the unit of the smaller. -/
theorem fracOf_lt_of_lt {f : FloatFmt} {p q : Nat} (h : p < q) : fracOf f p < fracOf f q * pow2 (unitOf f q - unitOf f p) := by
  rcases Int.lt_or_eq_of_le (unitOf_le (f := f) (Nat.le_of_lt h)) with hlt | he
  · have hq : q / 2 ^ f.w ≠ 0 := by unfold unitOf at hlt; omega
    calc fracOf f p < 2 ^ f.w * 2 ^ 1 := fracOf_lt f p
      _ ≤ fracOf f q * 2 ^ (unitOf f q - unitOf f p).toNat :=
        Nat.mul_le_mul (le_fracOf hq) (Nat.pow_le_pow_right (by decide) (by omega))
  · have hmax : max 1 (p / 2 ^ f.w) = max 1 (q / 2 ^ f.w) := by unfold unitOf at he; omega
    have hp := frac_add_exponent f p
    have hq := frac_add_exponent f q
    have hone : pow2 (unitOf f q - unitOf f p) = 1 := by rw [he, Int.sub_self]; rfl
    rw [hone, Nat.mul_one]
    rw [hmax] at hp
    omega

/-- Magnitudes that are equal in the smaller unit have one pattern. -/
theorem eq_of_magnitude_eq {f : FloatFmt} {p q : Nat}
    (h : fracOf f p * pow2 (unitOf f p - min (unitOf f p) (unitOf f q)) = fracOf f q * pow2 (unitOf f q - min (unitOf f p) (unitOf f q))) :
    p = q := by
  have hself : ∀ u : Int, pow2 (u - u) = 1 := fun u => by rw [Int.sub_self]; rfl
  rcases Nat.lt_trichotomy p q with hlt | heq | hgt
  · have hless := fracOf_lt_of_lt (f := f) hlt
    rw [Int.min_eq_left (unitOf_le (Nat.le_of_lt hlt)), hself, Nat.mul_one] at h
    omega
  · exact heq
  · have hless := fracOf_lt_of_lt (f := f) hgt
    rw [Int.min_eq_right (unitOf_le (Nat.le_of_lt hgt)), hself, Nat.mul_one] at h
    omega

theorem mant_mul (n : Bool) (m k : Nat) : mant n m * k = mant n (m * k) := by
  cases n with
  | false => exact (Int.natCast_mul m k).symm
  | true => exact (Int.neg_mul ..).trans (congrArg Neg.neg (Int.natCast_mul m k).symm)

theorem mant_inj {n : Bool} {m m' : Nat} (h : mant n m = mant n m') : m = m' := by
  cases n with
  | false => exact Int.ofNat.inj h
  | true => exact Int.ofNat.inj (Int.neg_inj.1 h)

/-- A pattern that is no NaN is that of a finite value or of the infinity (R73). -/
theorem magOf_of_not_isNan {f : FloatFmt} {neg : Bool} {p : Nat} (h : isNan (magOf f neg p) = false) :
    magOf f neg p = .fin neg (fracOf f p) (unitOf f p) ∨ (some p = f.inf ∧ magOf f neg p = .inf neg) := by
  rcases Nat.lt_or_ge f.big p with hgt | hle
  · rw [magOf_of_gt hgt] at h ⊢
    split at h
    · next hi => exact .inr ⟨hi, if_pos hi⟩
    · cases h
  · exact .inl (magOf_of_le hle neg)

theorem signOf_magOf {f : FloatFmt} {neg : Bool} {p : Nat} (h : isNan (magOf f neg p) = false) : signOf (magOf f neg p) = neg := by
  rcases magOf_of_not_isNan h with hp | ⟨-, hp⟩
  · rw [hp]; rfl
  · rw [hp]; rfl

theorem not_isNan_of_cmpNum {x y : Num} {o : Ordering} (h : cmpNum x y = some o) : isNan x = false ∧ isNan y = false := by
  have hnone := isNone_cmpNum x y
  rw [h] at hnone
  exact Bool.or_eq_false_iff.1 hnone.symm

theorem cmpNum_fin_eq {n : Bool} {m m' : Nat} {e e' : Int} (h : cmpNum (.fin n m e) (.fin n m' e') = some .eq) :
    m * pow2 (e - min e e') = m' * pow2 (e' - min e e') := by
  have hmant := Std.LawfulEqCmp.eq_of_compare (Option.some.inj h)
  rw [mant_mul, mant_mul] at hmant
  exact mant_inj hmant

/-- Magnitudes under one sign that are equal have one pattern. -/
theorem eq_of_cmpNum_magOf {f : FloatFmt} {n : Bool} {p q : Nat} (h : cmpNum (magOf f n p) (magOf f n q) = some .eq) : p = q := by
  obtain ⟨hnp, hnq⟩ := not_isNan_of_cmpNum h
  rcases magOf_of_not_isNan hnp with hp | ⟨hip, hp⟩ <;> rcases magOf_of_not_isNan hnq with hq | ⟨hiq, hq⟩ <;> rw [hp, hq] at h
  · exact eq_of_magnitude_eq (cmpNum_fin_eq h)
  · cases n <;> cases h
  · cases n <;> cases h
  · exact Option.some.inj (hip.trans hiq.symm)

/-- Values of one sign that are equal have one pattern: FMIN and FMAX may deliver either operand then (R130). -/
theorem eq_of_cmpNum_eq {f : FloatFmt} {a b : Nat} (ha : a < f.patterns) (hb : b < f.patterns)
    (h : cmpNum (floatVal f a) (floatVal f b) = some .eq) (hs : signOf (floatVal f a) = signOf (floatVal f b)) : a = b := by
  obtain ⟨hna, hnb⟩ := not_isNan_of_cmpNum h
  obtain ⟨n, p, hva, rfl, -⟩ := floatVal_eq_magOf ha
  obtain ⟨n', q, hvb, rfl, -⟩ := floatVal_eq_magOf hb
  rw [hva] at h hs hna
  rw [hvb] at h hs hnb
  rw [signOf_magOf hna, signOf_magOf hnb] at hs
  subst hs
  rw [eq_of_cmpNum_magOf h]

/-! ### FMIN and FMAX (R130) -/

/-- Does FMIN prefer x to y: the lesser value, or -0 before +0? -/
def floatBefore (x y : Num) : Bool := cmpNum x y = some .lt || (cmpNum x y = some .eq && signOf x && !signOf y)

/-- The operand that FMIN or FMAX delivers, or the canonical NaN. -/
def minMaxWord (least : Bool) (a b : Word) : Word :=
  if isNan (floatVal f32Fmt a.toNat) && isNan (floatVal f32Fmt b.toNat) then 0x7FC00000#32
  else if isNan (floatVal f32Fmt a.toNat) then b
  else if isNan (floatVal f32Fmt b.toNat) then a
  else if floatBefore (floatVal f32Fmt a.toNat) (floatVal f32Fmt b.toNat) = least then a else b

theorem minMaxWord_of_ordered {a b : Word} {o : Ordering} (h : cmpNum (floatVal f32Fmt a.toNat) (floatVal f32Fmt b.toNat) = some o)
    (least : Bool) : minMaxWord least a b = if floatBefore (floatVal f32Fmt a.toNat) (floatVal f32Fmt b.toNat) = least then a else b := by
  obtain ⟨ha, hb⟩ := not_isNan_of_cmpNum h
  simp only [minMaxWord, ha, hb, Bool.and_self, Bool.false_eq_true, if_false]

theorem minMaxWord_of_nan {a b : Word} (h : isNan (floatVal f32Fmt a.toNat) = true ∨ isNan (floatVal f32Fmt b.toNat) = true) (least : Bool) :
    minMaxWord least a b =
      if isNan (floatVal f32Fmt a.toNat) && isNan (floatVal f32Fmt b.toNat) then 0x7FC00000#32
      else if isNan (floatVal f32Fmt a.toNat) then b else a := by
  unfold minMaxWord
  rcases h with ha | hb
  · rw [if_pos ha, if_pos ha]
  · rw [if_pos hb]

theorem minMax_flags (least : Bool) (a b : Nat) :
    (minMax least a b).2 = flagIf (isSig (floatVal f32Fmt a) || isSig (floatVal f32Fmt b)) fNV := by
  simp only [minMax]
  cases cmpNum (floatVal f32Fmt a) (floatVal f32Fmt b) with
  | none => rfl
  | some o => cases o <;> rfl

theorem floatBefore_of_lt {x y : Num} (h : cmpNum x y = some .lt) : floatBefore x y = true := by
  rw [floatBefore, h]
  rfl

theorem floatBefore_of_gt {x y : Num} (h : cmpNum x y = some .gt) : floatBefore x y = false := by
  rw [floatBefore, h]
  rfl

/-- Of two values that are equal, FMIN prefers the negative zero to the positive one. -/
theorem floatBefore_of_eq {x y : Num} (h : cmpNum x y = some .eq) (hs : signOf x ≠ signOf y) : floatBefore x y = signOf x := by
  have hy : signOf y = !signOf x := Bool.eq_not.2 hs.symm
  rw [floatBefore, h, hy, Bool.not_not]
  exact Bool.and_self _

/-- The pattern that FMIN or FMAX delivers. For equal values the model asks for the sign of the first operand alone, which makes a
difference only between the two zeros. -/
theorem minMax_word (least : Bool) (a b : Word) : BitVec.ofNat 32 (minMax least a.toNat b.toNat).1 = minMaxWord least a b := by
  have hword : ∀ x : Word, BitVec.ofNat 32 x.toNat = x := fun x => by rw [BitVec.ofNat_toNat, BitVec.setWidth_eq]
  cases h : cmpNum (floatVal f32Fmt a.toNat) (floatVal f32Fmt b.toNat) with
  | none =>
    have hnan : isNan (floatVal f32Fmt a.toNat) = true ∨ isNan (floatVal f32Fmt b.toNat) = true := by
      rw [← Bool.or_eq_true, ← isNone_cmpNum, h]; rfl
    rw [minMaxWord_of_nan hnan]
    simp only [minMax, h, apply_ite (BitVec.ofNat 32), hword]
    rfl
  | some o =>
    rw [minMaxWord_of_ordered h]
    cases o with
    | lt =>
      rw [floatBefore_of_lt h]
      cases least <;> simp only [minMax, h, hword, if_true, Bool.false_eq_true, Bool.true_eq_false, if_false]
    | gt =>
      rw [floatBefore_of_gt h]
      cases least <;> simp only [minMax, h, hword, if_true, Bool.false_eq_true, if_false]
    | eq =>
      by_cases hs : signOf (floatVal f32Fmt a.toNat) = signOf (floatVal f32Fmt b.toNat)
      · obtain rfl : a = b := BitVec.eq_of_toNat_eq (eq_of_cmpNum_eq (f := f32Fmt) a.isLt b.isLt h hs)
        simp only [minMax, h, ite_self, hword]
      · rw [floatBefore_of_eq h hs]
        simp only [minMax, h, apply_ite (BitVec.ofNat 32), hword]

/-! ### FCLASS (R132) -/

/-- The class of a value, as a bit number. -/
def classOf (x : Num) : Nat :=
  match x with
  | .nan s => if s then 0 else 1
  | .inf n => if n then 2 else 9
  | .fin n m _ => if m = 0 then (if n then 5 else 6) else if m < 2 ^ 23 then (if n then 4 else 7) else (if n then 3 else 8)

theorem classBit_eq (p : Nat) : classBit p = classOf (floatVal f32Fmt p) := by
  unfold classBit classOf
  cases floatVal f32Fmt p with
  | nan s => rfl
  | inf n => rfl
  | fin n m e =>
    cases n with
    | false =>
      simp only [Bool.false_eq_true, if_false]
      split
      · rfl
      · split <;> rfl
    | true =>
      simp only [if_true]
      split
      · rfl
      · split <;> rfl

/-! ### The functions (R133) -/

theorem fn32_of_nan (f : Fn) {p : Nat} {s : Bool} (h : floatVal f32Fmt p = .nan s) : fn32 f p = (0x7FC00000, flagIf s fNV) := by
  have hnum : fnNum f (.nan s) = (.nan false, flagIf s fNV) := by cases f <;> rfl
  rw [fn32, h, hnum]
  exact congrArg (Prod.mk _) (BitVec.zero_or ..)

/-- An invalid operation gives the canonical NaN and NV (R75, R88). -/
theorem fn32_of_invalid {f : Fn} {p : Nat} (h : fnNum f (floatVal f32Fmt p) = (.nan false, fNV)) : fn32 f p = (0x7FC00000, fNV) := by
  rw [fn32, h]
  rfl

/-- Roots and logarithms of a negative number are invalid. -/
theorem fn32_of_negative {p m : Nat} {e : Int} (h : floatVal f32Fmt p = .fin true m e) (hm : m ≠ 0) :
    fn32 .rsq p = (0x7FC00000, fNV) ∧ fn32 .sqrt p = (0x7FC00000, fNV) ∧ fn32 .log2 p = (0x7FC00000, fNV) :=
  ⟨fn32_of_invalid (h ▸ if_neg hm), fn32_of_invalid (h ▸ if_neg hm), fn32_of_invalid (h ▸ if_neg hm)⟩

/-- Settles O11: FMIN and FMAX by the pattern that they deliver, FCLASS by the class, the functions by their arms; the special
cases at the four patterns of zeros and infinities by evaluation. -/
theorem floatSelectionsAndFunctions : Obligations.FloatSelectionsAndFunctions := by
  refine ⟨fun e k d a b r => ?_, fun e k d a => ⟨?_, rfl, rfl, rfl, rfl, fun f p s => fn32_of_nan f, fun p m e => fn32_of_negative⟩⟩
  · exact ⟨gives_of_issue (fun _ _ => congrArg w32 (minMax_word true ..)) fun _ _ => minMax_flags ..,
      gives_of_issue (fun _ _ => congrArg w32 (minMax_word false ..)) fun _ _ => minMax_flags ..,
      gives_of_issue (fun _ _ => congrArg (fun n => w32 (BitVec.ofNat 32 (2 ^ n))) (classBit_eq _)) fun _ _ => rfl,
      gives_of_floatWord fun _ _ => rfl⟩
  · exact ⟨gives_of_floatWord fun _ _ => rfl, gives_of_floatWord fun _ _ => rfl, gives_of_floatWord fun _ _ => rfl,
      gives_of_floatWord fun _ _ => rfl, gives_of_floatWord fun _ _ => rfl, gives_of_floatWord fun _ _ => rfl,
      gives_of_floatWord fun _ _ => rfl⟩

end Sys2Proof.Machine
end

section
/-! SUPPORT. CVT for every pair of formats, and its corners (R56, R85, R137). -/
namespace Sys2Proof.Machine

/-! ### The words -/

/-- The pattern that CVT reads: of a pair for a 64-bit source, else of one register (R137). -/
def cvtInput (src : Fmt) (c : Ctx) (l : Lane) : Nat := if src.regs = 2 then (c.pair 0 l).toNat else (c.x 0 l).toNat

/-- A word of CVT writes as many registers as the destination's format has; the lane's number is the position under DTH (R85). -/
theorem gives_of_cvtWord {i : Instr} {k : Bool} {d a : Reg} {f src : Fmt} {r : Rnd} (hform : Form i k d f.regs [a])
    (harm : ∀ s, exec i s = runWord i s (cvtWord src f r)) :
    Gives i k d f.regs [a] (fun c l => w64 (convert src f r l.val (cvtInput src c l)).1)
      (fun c l => (convert src f r l.val (cvtInput src c l)).2) :=
  gives_of_issue (fun _ _ => rfl) (fun _ _ => rfl) hform fun s => ⟨_, harm s⟩

/-- A source operand names its register, whatever its width. -/
theorem data_r (a : Reg) (n : Nat) : (Src.data a n).r = a := by
  unfold Src.data
  split <;> rfl

theorem cvt_form (e k : Bool) (d a : Reg) (f : Fmt) (r : Rnd) (u : Fin 8) : Form (.cvt e k d a f r u) k d f.regs [a] :=
  ⟨_, rfl, rfl, rfl, congrArg (· :: []) (data_r a _)⟩

theorem exec_cvt {u : Fin 8} {src : Fmt} (h : Fmt.ofCode? u.val = some src) (e k : Bool) (d a : Reg) (f : Fmt) (r : Rnd) (s : State) :
    exec (.cvt e k d a f r u) s = runWord (.cvt e k d a f r u) s (cvtWord src f r) := by
  have hsrc : cvtSource false u = some src := h
  show execCvt e k d a f r u s = _
  rw [execCvt, hsrc, Option.getD_some]

theorem exec_cvtFloatSource {u : Fin 8} {src : Fmt} (h : Fmt.ofCode? (8 + u.val) = some src) (e k : Bool) (d a : Reg) (f : Fmt) (r : Rnd)
    (s : State) : exec (.cvtFloatSource e k d a f r u) s = runWord (.cvtFloatSource e k d a f r u) s (cvtWord src f r) := by
  have hsrc : cvtSource true u = some src := h
  show execCvtFloatSource e k d a f r u s = _
  rw [execCvtFloatSource, hsrc, Option.getD_some]

/-! ### Integers to their own format -/

/-- An integer within the bounds of the destination is converted to itself, in every mode. -/
theorem roundInt_of_mem {w : Nat} {sg : Bool} {z : Int} (hlo : intLo w sg ≤ z) (hhi : z ≤ intHi w sg) (md : Rnd) (t : Nat) :
    roundInt w sg md t (.fin (decide (z < 0)) z.natAbs 0) = (z, 0) := by
  have hneg : (!sg && decide (z < 0) && decide (z.natAbs ≠ 0)) = false := by
    cases sg with
    | true => rfl
    | false =>
      have hz : 0 ≤ z := hlo
      simp only [Int.not_lt.2 hz, decide_false, Bool.and_false, Bool.false_and]
  have hvalue : (if decide (z < 0) = true then -(z.natAbs : Int) else z.natAbs) = z := by
    simp only [decide_eq_true_eq]
    split <;> omega
  simp only [roundInt, hneg, roundUnit_self, hvalue, Int.not_lt.2 hlo, Int.not_lt.2 hhi, Bool.false_eq_true, if_false]
  rfl

theorem roundInt_signed {w : Nat} (hw : 0 < w) (x : BitVec w) (md : Rnd) (t : Nat) :
    roundInt w true md t (intVal w true x.toNat) = (x.toInt, 0) := by
  have hval : intVal w true x.toNat = .fin (decide (x.toInt < 0)) x.toInt.natAbs 0 := by
    simp only [intVal, if_true, signedOf_eq_toInt _ w hw, BitVec.ofNat_toNat, BitVec.setWidth_eq]
  have hlt : x.toInt < 2 ^ (w - 1) := BitVec.toInt_lt
  have hle : -2 ^ (w - 1) ≤ x.toInt := BitVec.le_toInt x
  rw [hval]
  have hcast : ((2 ^ (w - 1) : Nat) : Int) = 2 ^ (w - 1) := Int.natCast_pow 2 (w - 1)
  refine roundInt_of_mem ?_ ?_ md t
  · rw [intLo, if_pos rfl, hcast]
    exact hle
  · rw [intHi, if_pos rfl, hcast]
    exact Int.le_sub_one_of_lt hlt

theorem roundInt_unsigned {w : Nat} (x : BitVec w) (md : Rnd) (t : Nat) :
    roundInt w false md t (intVal w false x.toNat) = ((x.toNat : Int), 0) := by
  have hval : intVal w false x.toNat = .fin (decide ((x.toNat : Int) < 0)) (x.toNat : Int).natAbs 0 := by
    simp only [intVal, Bool.false_eq_true, if_false, Nat.mod_eq_of_lt x.isLt]
  have hlt : (x.toNat : Int) < (2 ^ w : Nat) := by exact_mod_cast x.isLt
  rw [hval]
  exact roundInt_of_mem (Int.natCast_nonneg _) (Int.le_sub_one_of_lt hlt) md t

theorem isSig_intVal (w : Nat) (sg : Bool) (p : Nat) : isSig (intVal w sg p) = false := rfl

/-- A conversion between integer formats places the rounded value as the destination's width says (R71). -/
theorem convert_int_self (f : Fmt) {w p : Nat} {sg : Bool} {z : Int} {md : Rnd} {t : Nat} (hf : fmtFloat f = none)
    (hw : fmtInt f = (w, sg)) (hz : roundInt w sg md t (intVal w sg p) = (z, 0)) :
    convert f f md t p = (if w = 64 then BitVec.ofInt 64 z else (BitVec.ofInt 32 z).zeroExtend 64, 0) := by
  simp only [convert, valOf, hf, hw, hz, isSig_intVal]
  rfl

theorem convert_word_self (md : Rnd) (t : Nat) (x : Word) :
    convert .s32 .s32 md t x.toNat = (x.zeroExtend 64, 0) ∧ convert .z32 .z32 md t x.toNat = (x.zeroExtend 64, 0) := by
  rw [convert_int_self .s32 rfl rfl (roundInt_signed (by decide) x md t), convert_int_self .z32 rfl rfl (roundInt_unsigned x md t),
    if_neg (by decide), if_neg (by decide), BitVec.ofInt_toInt, BitVec.ofInt_natCast, BitVec.ofNat_toNat, BitVec.setWidth_eq]
  exact ⟨rfl, rfl⟩

theorem convert_pair_self (md : Rnd) (t : Nat) (x : DWord) :
    convert .s64 .s64 md t x.toNat = (x, 0) ∧ convert .z64 .z64 md t x.toNat = (x, 0) := by
  rw [convert_int_self .s64 rfl rfl (roundInt_signed (by decide) x md t), convert_int_self .z64 rfl rfl (roundInt_unsigned x md t),
    if_pos rfl, if_pos rfl, BitVec.ofInt_toInt, BitVec.ofInt_natCast, BitVec.ofNat_toNat, BitVec.setWidth_eq]
  exact ⟨rfl, rfl⟩

/-! ### Floats, and values without room -/

theorem isSig_of_not_isNan {x : Num} (h : isNan x = false) : isSig x = false :=
  Bool.eq_false_iff.2 fun hs => by rw [isNan_of_isSig hs] at h; cases h

theorem convert_f32_self (md : Rnd) (t : Nat) {x : Word} (h : isNan (floatVal f32Fmt x.toNat) = false) :
    convert .f32 .f32 md t x.toNat = (x.zeroExtend 64, 0) := by
  have hround : roundTo f32Fmt md t (floatVal f32Fmt x.toNat) = (x.toNat, 0) := by
    rw [roundTo_floatVal (f := f32Fmt) x.isLt, if_neg (by rw [h]; exact Bool.false_ne_true)]
  simp only [convert, valOf, fmtFloat, hround, isSig_of_not_isNan h, BitVec.ofNat_toNat]
  rfl

/-- An unsigned destination has no room for a negative value. -/
theorem roundInt_unsigned_negative (w : Nat) (md : Rnd) (t : Nat) {m : Nat} (e : Int) (h : m ≠ 0) :
    roundInt w false md t (.fin true m e) = (0, fSAT ||| fNX) :=
  if_pos (decide_eq_true h)

/-- Settles O12: the words by `gives_of_cvtWord`, and then corner by corner. -/
theorem conversions : Obligations.Conversions := by
  refine ⟨fun e k d a f src r u => ⟨fun h => ?_, fun h => ?_⟩, convert_word_self, convert_pair_self, fun md t x => convert_f32_self md t,
    fun w sg md t => ⟨fun _ => rfl, rfl, rfl⟩, fun w md t m e => roundInt_unsigned_negative w md t e⟩
  · exact gives_of_cvtWord (cvt_form e k d a f r u) (exec_cvt h e k d a f r)
  · exact gives_of_cvtWord ⟨_, rfl, rfl, rfl, rfl⟩ (exec_cvtFloatSource h e k d a f r)

end Sys2Proof.Machine
end

section
/-! SUPPORT. Loads, stores, hints, barriers, metadata words and buffer words (R140 to R162): what the operation of each comes to when
no lane of it fails, waits or meets an error. -/
namespace Sys2Proof.Machine

/-! ### Completion of a word with no destination -/

/-- A word that completes with no value for the latch ends its run or not by its kind. -/
theorem done_of_shape {c : Ctx} {i : Instr} {sh : Shape} (hsh : i.shape = some c.sh) (hi : i.shape = some sh) (s : State) :
    c.done s = .done ⟨s, c.exec, none, sh.ends, false, fun _ => none⟩ := by
  obtain rfl : sh = c.sh := Option.some.inj (hi.symm.trans hsh)
  rfl

/-! ### LD and ST (R145, R146) -/

/-- What the lanes of a load find at their addresses. -/
def loadVerdicts (c : Ctx) (a : Lane → DWord) (n : Nat) : Lanes Verdict :=
  Lanes.of fun l => loadVerdict c.s c.w (verdictOf c.s c.w l (a l) n false)

/-- The latch of a load until its result returns: zeros, and none when the result is pushed to a queue. -/
def loadLatch (d : Reg) : Option (Lanes Word) :=
  match d with
  | .q _ => none
  | .v _ | .g _ | .b _ => some (Lanes.of fun _ => 0)

/-- A load that nothing keeps from being sent. -/
theorem loadBody_of_passes {c : Ctx} {a : Lane → DWord} {n : Nat} {d : Reg} {k : Nat} (ext : Nat → BitVec 128) (q : Option Pred)
    (hd : c.sh.dst = some (d, k)) (h : Passes c (loadVerdicts c a n)) (hat : meetsAtomic c (loadVerdicts c a n) = false)
    (hremote : remoteUnasked c (loadVerdicts c a n) = false) :
    loadBody c a n ext q
      = .done ⟨sendLoad c (loadVerdicts c a n) a n ext q c.exec, c.exec, loadLatch d, c.sh.ends, false, fun _ => none⟩ := by
  have hbody : loadBody c a n ext q = access c (loadVerdicts c a n) (sendLoad c (loadVerdicts c a n) a n ext q) fun t =>
      .done ⟨t, c.exec, match c.sh.dst with | some (.q _, _) => none | _ => some (Lanes.of fun _ => 0), c.sh.ends, false, onward⟩ :=
    (if_neg (Bool.eq_false_iff.1 hat)).trans (if_neg (Bool.eq_false_iff.1 hremote))
  rw [hbody, access_of_passes h, hd]
  cases d <;> rfl

theorem load_ends {i : Instr} {sh : Shape} {d : Reg} {k n : Nat} {a : Ctx → Lane → DWord} {ext : Nat → BitVec 128} {q : Option Pred}
    (hi : i.shape = some sh) (hd : sh.dst = some (d, k)) (hends : sh.ends = false)
    (harm : ∀ s, ∃ sc, exec i s = issue i s sc fun c => loadBody c (a c) n ext q) :
    Ends i (fun c => Passes c (loadVerdicts c (a c) n) ∧ meetsAtomic c (loadVerdicts c (a c) n) = false
        ∧ remoteUnasked c (loadVerdicts c (a c) n) = false)
      (fun c => .done ⟨sendLoad c (loadVerdicts c (a c) n) (a c) n ext q c.exec, c.exec, loadLatch d, false, false, fun _ => none⟩) :=
  ends_of fun s =>
    have ⟨sc, h⟩ := harm s
    ⟨sc, _, h, fun c hsh ⟨hpass, hat, hremote⟩ => by
      obtain rfl : sh = c.sh := Option.some.inj (hi.symm.trans hsh)
      rw [loadBody_of_passes ext q hd hpass hat hremote, hends]⟩

/-- Settles O18: both words are the load of `load_ends`. -/
theorem loads : Obligations.Loads := fun _ _ _ _ _ _ _ _ =>
  ⟨load_ends rfl rfl rfl fun _ => ⟨_, rfl⟩, load_ends rfl rfl rfl fun _ => ⟨_, rfl⟩⟩

/-- A store of which no lane fails and none waits for room. -/
theorem storeBody_of_passes {c : Ctx} {o : Int} {n : Nat} (h : Passes c (Lanes.of fun l => verdictOf c.s c.w l (c.ptr o n l) n true))
    (hroom : storeWaits c (Lanes.of fun l => verdictOf c.s c.w l (c.ptr o n l) n true) n = false) :
    storeBody c o n = c.done (storeLanes c (Lanes.of fun l => verdictOf c.s c.w l (c.ptr o n l) n true) (c.ptr o n)
      (fun l => bytesOf (c.data 1 (regsOfBytes n) l).toNat n) c.exec) :=
  (if_neg (Bool.eq_false_iff.1 hroom)).trans (access_of_passes h _ _)

/-- Settles O19, by the equation of a store that nothing stops. -/
theorem stores : Obligations.Stores := fun _ _ _ _ _ =>
  ends_of fun _ => ⟨_, _, rfl, fun _ hsh ⟨hpass, hroom⟩ => (storeBody_of_passes hpass hroom).trans (done_of_shape hsh rfl _)⟩

/-! ### Hints (R152, R153) -/

theorem accessWhole_of_passes {c : Ctx} {v : Lanes Verdict} (h : Passes c v) (fin : Res) : accessWhole c v fin = fin := by
  simp only [accessWhole, poisoned_eq_none fun l hl => poisonIn_of_mayDo (h l hl), worst_eq_none fun l hl => rankIn_of_mayDo (h l hl),
    needs_eq_nil (w := c.w) h]

theorem verdictPage_of_mapped {s : State} {w : Wave} {a : DWord} {q : Spot} (hq : locate s w.part a = some q)
    (hp : (q.rp || q.wp) = true) : verdictPage s w a = .ok q := by
  simp only [verdictPage, hq, hp, if_true]

/-! ### FENCE, ACQ and REL (R158, R159) -/

/-- A scope that other cores belong to. -/
def wideScope (sc : Scope) : Bool :=
  match sc with
  | .thread | .wave | .group => false
  | .clus | .die | .dev | .sys => true

theorem acquireAt_eq (s : State) (c : Ctx) (sc : Scope) :
    acquireAt s c sc = if wideScope sc then l1DropAll s c.die c.core else s := by
  cases sc <;> rfl

theorem acquirable_of_returned {w : Wave} (hp : w.pend = []) (sc : Scope) : acquirable w sc = true := by
  cases sc <;> simp only [acquirable, hp, List.isEmpty_nil]

theorem released_of_quiet {w : Wave} {sc : Scope} (hp : w.pend = []) (hs : wideScope sc = true → w.stores = 0) : released w sc = true := by
  cases sc with
  | thread => rfl
  | wave | group => simp only [released, hp, List.isEmpty_nil]
  | clus | die | dev | sys => simp only [released, hp, hs rfl, List.isEmpty_nil, decide_true, Bool.and_self]

theorem not_released_of_stores {w : Wave} {sc : Scope} (hw : wideScope sc = true) (hs : w.stores ≠ 0) : released w sc = false := by
  cases sc with
  | thread | wave | group => cases hw
  | clus | die | dev | sys => simp only [released, hs, decide_false, Bool.and_false]

/-- Settles O21: a hint completes as it is given, and a fence by what has been released and what can be acquired. -/
theorem hintsAndBarriers : Obligations.HintsAndBarriers := by
  refine ⟨fun e a o => ⟨?_, ?_, ?_⟩, fun e sc => ⟨?_, ?_, ?_, ?_, ?_⟩⟩
  · exact ends_of fun _ => ⟨_, _, rfl, fun _ hsh _ => done_of_shape hsh rfl _⟩
  · exact ends_of fun _ => ⟨_, _, rfl, fun _ hsh _ => done_of_shape hsh rfl _⟩
  · refine ends_of fun _ => ⟨_, _, rfl, fun c hsh h => ?_⟩
    refine (accessWhole_of_passes (fun l hl => ?_) _).trans (done_of_shape hsh rfl _)
    obtain ⟨q, hq, hp⟩ := h l hl
    rw [Lanes.get_of, show verdictPage c.s c.w (c.ptr o.toInt 1 l) = .ok q from verdictPage_of_mapped hq hp]
    rfl
  · refine ends_of fun _ => ⟨_, _, rfl, fun c hsh ⟨hp, hs⟩ => ?_⟩
    rw [if_pos (released_of_quiet hp hs), acquireAt_eq]
    exact done_of_shape hsh rfl _
  · refine ends_of fun _ => ⟨_, _, rfl, fun c hsh hp => ?_⟩
    rw [if_pos (acquirable_of_returned hp sc), acquireAt_eq]
    exact done_of_shape hsh rfl _
  · refine ends_of fun _ => ⟨_, _, rfl, fun c hsh ⟨hp, hs⟩ => ?_⟩
    rw [if_pos (released_of_quiet hp hs)]
    exact done_of_shape hsh rfl _
  · exact ends_of fun _ => ⟨_, _, rfl, fun c _ ⟨hw, hs⟩ => if_neg (Bool.eq_false_iff.1 (not_released_of_stores hw hs))⟩
  · exact ends_of fun _ => ⟨_, _, rfl, fun c _ ⟨hw, hs⟩ => if_neg (Bool.eq_false_iff.1 (not_released_of_stores hw hs))⟩

/-! ### COLOUR, TAGSET and TAGGET (R155, R156) -/

/-- COLOUR and TAGSET when every lane has its granules written. -/
theorem rangeBody_of_written {c : Ctx} {o : Int} {colour : Bool} {kind : Word → FlightKind} (h : (rangeLanes c o colour kind).2 = []) :
    rangeBody c o colour kind = c.done (rangeLanes c o colour kind).1 := by
  unfold rangeBody
  refine access_of_passes (fun l _ => ?_) _ _
  rw [Lanes.get_of, h]
  rfl

/-- TAGGET when no lane fails and the die counts what the home of each has sent. -/
theorem tagBody_of_passes {c : Ctx} {o : Int} (h : Passes c (Lanes.of fun l => verdictTag c.s c.w (c.ptr o 64 l)))
    (hh : ∀ l, homeCounted c ((Lanes.of fun l => verdictTag c.s c.w (c.ptr o 64 l)).get l) = true) :
    tagBody c o = delivered c (fun l => tagValue c ((Lanes.of fun l => verdictTag c.s c.w (c.ptr o 64 l)).get l))
      (deliver c (c.exec.lanes.foldl (tagLane c (Lanes.of fun l => verdictTag c.s c.w (c.ptr o 64 l)) (c.ptr o 64)) c.s) c.exec
        fun l => tagValue c ((Lanes.of fun l => verdictTag c.s c.w (c.ptr o 64 l)).get l)) := by
  have hall : (c.exec.lanes.all fun l => homeCounted c ((Lanes.of fun l => verdictTag c.s c.w (c.ptr o 64 l)).get l)) = true :=
    List.all_eq_true.2 fun l _ => hh l
  simp only [tagBody, hall, Bool.not_true, Bool.false_eq_true, if_false]
  exact access_of_passes h _ _

/-! ### CJOIN (R160, R161) -/

theorem findGroup_id {s : State} {n : Nat} {g : Group} (h : findGroup s n = some g) : g.id = n := by
  simpa using List.find?_some h

/-- A group that is a member of no sharing group enters that of a key which no group of its core has joined. -/
theorem joinSharing_of_new {s : State} {g : Group} {key : Word} (hg : g.sharing = none) (hk : key ≠ 0)
    (hother : (s.groups.any fun x => x.sharing = some key && x.part = g.part && x.place = g.place && g.place.isSome) = false) :
    joinSharing s g key = (modGroup s g.id fun x => { x with sharing := some key },
      membersOf (modGroup s g.id fun x => { x with sharing := some key }) { g with sharing := some key } key) := by
  simp only [joinSharing, hg, hk, hother, if_false, Bool.false_eq_true]

/-- A group that is already a member changes nothing. -/
theorem joinSharing_of_member {s : State} {g : Group} {q : Word} (hg : g.sharing = some q) (key : Word) :
    joinSharing s g key = (s, membersOf s g q ||| 0x40000000#32) := by
  simp only [joinSharing, hg]

/-- Settles O22: each word by the equation of its operation under the statement's conditions. -/
theorem metadataAndSharing : Obligations.MetadataAndSharing := by
  refine ⟨fun e k d a o => ⟨?_, ?_, ?_⟩, fun e k d => ⟨?_, ?_, ?_⟩⟩
  · exact ends_of fun _ => ⟨_, _, rfl, fun _ hsh h => (rangeBody_of_written h).trans (done_of_shape hsh rfl _)⟩
  · exact ends_of fun _ => ⟨_, _, rfl, fun _ hsh h => (rangeBody_of_written h).trans (done_of_shape hsh rfl _)⟩
  · exact ends_of fun _ => ⟨_, _, rfl, fun _ _ ⟨hpass, hh⟩ => tagBody_of_passes hpass hh⟩
  · refine ends_of fun _ => ⟨_, _, rfl, fun c _ ⟨g, hg, hsharing, hkey, hother⟩ => ?_⟩
    simp only [hg, joinSharing_of_new hsharing hkey hother, findGroup_id hg]
  · refine ends_of fun _ => ⟨_, _, rfl, fun c _ ⟨g, q, hg, hsharing⟩ => ?_⟩
    simp only [hg, joinSharing_of_member hsharing, hsharing, Option.getD_some]
  · exact ends_of fun _ => ⟨_, _, rfl, fun _ hsh _ => done_of_shape hsh rfl _⟩

/-! ### LDA, STA and LDC (R147, R148) -/

/-- A buffer access whose lanes each have their place (R142, R164, R200). -/
theorem bufAccess_of_places {c : Ctx} {v : Lane → BufVerdict} (h : ∀ l, c.exec.has l = true → (bufSpot (v l)).isSome)
    (perform : Mask → State) (fin : State → Res) : bufAccess c (Lanes.of v) perform fin = fin (perform c.exec) := by
  have hplace : ∀ l, c.exec.has l = true → ∃ p, v l = .ok p := fun l hl => by
    have hl' := h l hl
    cases hv : v l with
    | ok p => exact ⟨p, rfl⟩
    | wait => rw [hv] at hl'; cases hl'
    | fail r t a => rw [hv] at hl'; cases hl'
  have hok : (Mask.of fun l => c.exec.has l && (bufSpot (v l)).isSome) = c.exec := Mask.of_and_of_all h
  have hrank : worst (Lanes.of fun l => bufRank (v l)) c.exec = none := worst_eq_none fun l hl => by
    obtain ⟨p, hp⟩ := hplace l hl
    rw [Lanes.get_of, hp]
    rfl
  have hwait : (c.exec.lanes.any fun l => bufWaits (v l)) = false := List.any_eq_false.2 fun l hl => by
    obtain ⟨p, hp⟩ := hplace l ((Mask.mem_lanes _ l).1 hl)
    rw [hp]
    exact Bool.false_ne_true
  simp only [bufAccess, Lanes.get_of, hok, hrank, hwait, Bool.false_eq_true, if_false]

/-- No lane that executes reads a poisoned word of a buffer. -/
theorem dirty_eq_zero {c : Ctx} {v : Lane → BufVerdict} {buf n : Nat}
    (h : ∀ l, c.exec.has l = true → ∃ p, bufSpot (v l) = some p ∧ bufPoisoned c.s p.group buf p.off n = false) :
    (c.exec &&& Mask.of fun l => bufDirty c.s (v l) buf n) = 0 := by
  refine Mask.ext_has fun l => ?_
  rw [Mask.has_and, Mask.has_of, show Mask.has 0 l = false from Mask.has_zero l]
  cases hl : c.exec.has l with
  | true =>
    obtain ⟨p, hp, hclean⟩ := h l hl
    simp only [bufDirty, hp, hclean, Bool.and_false]
  | false => rfl

/-- LDA of lanes that have their places, none of which holds a poisoned word. -/
theorem ldaBody_of_places {c : Ctx} {o : Int} {n : Nat} {peer : Bool}
    (h : ∀ l, c.exec.has l = true → ∃ p, bufSpot (verdictBuf c.s c.w (c.off32 o n l) n peer false) = some p
      ∧ bufPoisoned c.s p.group 0 p.off n = false) :
    ldaBody c o n peer =
      let place (l : Lane) := bufSpot (verdictBuf c.s c.w (c.off32 o n l) n peer false)
      let f (l : Lane) : BitVec 128 := match place l with
        | some p => BitVec.ofNat 128 (abufRead c.s p n)
        | none => 0
      delivered c f (deliver c (c.exec.lanes.foldl (fun s l => match place l with
        | some p => watchBuf s c l 0 p n
        | none => s) c.s) c.exec f) := by
  have hbody := bufAccess_of_places fun l hl => have ⟨p, hp, _⟩ := h l hl; Option.isSome_of_eq_some hp
  simp only [ldaBody, Lanes.get_of, dirty_eq_zero h, hbody, ne_eq, not_true_eq_false, if_false] <;> rfl

/-- STA of lanes that have their places. -/
theorem staBody_of_places {c : Ctx} {o : Int} {n : Nat} {peer : Bool}
    (h : ∀ l, c.exec.has l = true → (bufSpot (verdictBuf c.s c.w (c.off32 o n l) n peer true)).isSome) :
    staBody c o n peer = c.done (c.exec.lanes.foldl (fun s l => match bufSpot (verdictBuf c.s c.w (c.off32 o n l) n peer true) with
      | some p => staLane c n s l p
      | none => s) c.s) := by
  simp only [staBody, Lanes.get_of, bufAccess_of_places h] <;> rfl

/-- LDC of lanes whose cells are in a ready tile, none of which holds a poisoned word. -/
theorem ldcBody_of_places {c : Ctx} {o : Int} {n : Nat}
    (h : ∀ l, c.exec.has l = true → ∃ p, bufSpot (verdictCell c.s c.w (c.off32 o n l) n) = some p
      ∧ bufPoisoned c.s p.group 2 p.off n = false) :
    ldcBody c o n =
      let f (l : Lane) : BitVec 128 := match bufSpot (verdictCell c.s c.w (c.off32 o n l) n) with
        | some p => BitVec.ofNat 128 (cbufRead c.s p n)
        | none => 0
      delivered c f (deliver c c.s c.exec f) := by
  have hbody := bufAccess_of_places fun l hl => have ⟨p, hp, _⟩ := h l hl; Option.isSome_of_eq_some hp
  simp only [ldcBody, Lanes.get_of, dirty_eq_zero h, hbody, ne_eq, not_true_eq_false, if_false] <;> rfl

/-- Settles O23: each word by the equation of a buffer access whose lanes have their places. -/
theorem bufferWords : Obligations.BufferWords := fun _ _ _ _ _ _ _ _ =>
  ⟨ends_of fun _ => ⟨_, _, rfl, fun _ _ h => ldaBody_of_places h⟩,
    ends_of fun _ => ⟨_, _, rfl, fun _ hsh h => (staBody_of_places h).trans (done_of_shape hsh rfl _)⟩,
    ends_of fun _ => ⟨_, _, rfl, fun _ _ h => ldcBody_of_places h⟩⟩

end Sys2Proof.Machine
end

section
/-! SUPPORT. Results that return, wakes and watch hits taken, and waves that finish (R145, R174, R231, R343): what an event does to a
wave that is not ready to finish and has no join to make. -/
namespace Sys2Proof

theorem Lanes.of_get {α : Type} (v : Lanes α) : Lanes.of v.get = v :=
  Vector.ext fun _ hi => Vector.getElem_ofFn hi

end Sys2Proof

namespace Sys2Proof.Machine

/-! ### Waves found -/

/-- A wave changed is found as it was changed, when the change keeps its number. -/
theorem findWave_modWave_of_found {s : State} {n : Nat} {w : Wave} (f : Wave → Wave) (hw : findWave s n = some w) (hf : (f w).id = w.id) :
    findWave (modWave s n f) n = some (f w) := by
  have hid : w.id = n := findWave_id hw
  simp only [findWave, modWave] at hw ⊢
  generalize s.waves = l at hw ⊢
  induction l with
  | nil => cases hw
  | cons v l ih =>
    by_cases hv : v.id = n
    · obtain rfl : v = w := by simpa [List.find?_cons, hv] using hw
      simp [hf, hid]
    · simp only [List.find?_cons, hv, decide_false] at hw
      simp only [List.map_cons, hv, if_false, List.find?_cons, decide_false]
      exact ih hw

/-! ### Waves that nothing ends -/

/-- Whether all lanes of a wave have exited depends on their states and on the lanes held aside alone (R18). -/
theorem allExited_congr {v w : Wave} (ha : v.aside = w.aside) (hs : ∀ l, (laneOf v l).state = (laneOf w l).state) :
    allExited v = allExited w := by
  simp only [allExited, ha, hs]

/-- A wave of which a lane has not exited does not finish. -/
theorem tryFinish_of_not_exited {s : State} {n : Nat} {w : Wave} (hw : findWave s n = some w) (hx : allExited w = false) :
    tryFinish s n = s := by
  simp only [tryFinish, hw, readyToFinish, hx, Bool.false_and, Bool.false_eq_true, if_false]

/-- A wave with no exited lane's join to make makes none. -/
theorem flushJoins_of_no_joins {s : State} {n : Nat} {w : Wave} (hw : findWave s n = some w) (hj : w.joins = []) :
    flushJoins s n = s := by
  simp only [flushJoins, hw, hj, List.isEmpty_nil, Bool.true_or, if_true]

/-! ### LOAD_RETURN (R145) -/

/-- A latch that a result fills belongs to the run. -/
theorem fillLatch_eq (w : Wave) (p : PendLoad) : fillLatch w p = { w with run := (fillLatch w p).run } := by
  unfold fillLatch
  split
  · rfl
  · dsimp only
    split <;> rfl

/-- The lanes of a result with c registers written from register k on. -/
def putResult (p : PendLoad) (k c : Nat) (w : Wave) : Wave := mapLanes w p.mask fun l y => putRegs y k (p.vals.get l) c

theorem putResult_id (p : PendLoad) (k c : Nat) (w : Wave) : (putResult p k c w).id = w.id := mapLanes_id ..

/-- A result of no registers changes nothing. -/
theorem putResult_none (p : PendLoad) (k : Nat) : putResult p k 0 = fun w => w := by
  funext w
  simp only [putResult, mapLanes, putRegs, ite_self]
  rw [Lanes.of_get]

/-- A result for registers within the wave's blocks is written to them, and their poison marks are cleared (R145, R356). -/
theorem writePending_of_registers {s : State} {w : Wave} {p : PendLoad} {k c : Nat} (hd : p.dst = some (k, c))
    (hk : k + c ≤ 32 * w.blks.toNat) (hb : 32 * w.blks.toNat ≤ 256) :
    ∃ m, writePending s w p = modWave { s with poisonReg := m } w.id (putResult p k c) := by
  by_cases hlt : k < 256
  · have hc : min c (32 * w.blks.toNat - k) = c := by omega
    simp only [writePending, hd, hlt, if_true, hc]
    rw [clearPoison_eq]
    exact ⟨_, rfl⟩
  · obtain rfl : c = 0 := by omega
    have hk' : k < 272 := by omega
    refine ⟨s.poisonReg, ?_⟩
    rw [putResult_none, modWave_self]
    simp only [writePending, hd, hlt, hk', if_true, if_false, List.range_zero, List.foldl_nil]
    split <;> rfl

/-- The wave after its result n, for registers, has been delivered. -/
def afterResult (w : Wave) (n : Nat) (p : PendLoad) (k c : Nat) : Wave :=
  putResult p k c { fillLatch w p with pend := w.pend.eraseIdx n }

theorem afterResult_id (w : Wave) (n : Nat) (p : PendLoad) (k c : Nat) : (afterResult w n p k c).id = w.id := by
  rw [afterResult, putResult_id, fillLatch_eq]

theorem afterResult_pend (w : Wave) (n : Nat) (p : PendLoad) (k c : Nat) : (afterResult w n p k c).pend = w.pend.eraseIdx n := rfl
theorem afterResult_joins (w : Wave) (n : Nat) (p : PendLoad) (k c : Nat) : (afterResult w n p k c).joins = w.joins := by
  simp only [afterResult, putResult, mapLanes]
  rw [fillLatch_eq]
theorem afterResult_aside (w : Wave) (n : Nat) (p : PendLoad) (k c : Nat) : (afterResult w n p k c).aside = w.aside := by
  simp only [afterResult, putResult, mapLanes]
  rw [fillLatch_eq]

theorem laneOf_afterResult (w : Wave) (n : Nat) (p : PendLoad) (k c : Nat) (l : Lane) :
    laneOf (afterResult w n p k c) l = if p.mask.has l then putRegs (laneOf w l) k (p.vals.get l) c else laneOf w l := by
  rw [afterResult, putResult, laneOf_mapLanes, fillLatch_eq]
  rfl

/-- A lane of the result has its registers; every other register, and every other lane, is as it was. -/
theorem afterResult_lane (w : Wave) (n : Nat) (p : PendLoad) (k c : Nat) (l : Lane) :
    (laneOf (afterResult w n p k c) l).preds = (laneOf w l).preds ∧ (laneOf (afterResult w n p k c) l).pc = (laneOf w l).pc
      ∧ (laneOf (afterResult w n p k c) l).state = (laneOf w l).state
      ∧ if p.mask.has l then RegsHave (laneOf w l).regs (laneOf (afterResult w n p k c) l).regs k c (p.vals.get l)
        else (laneOf (afterResult w n p k c) l).regs = (laneOf w l).regs := by
  rw [laneOf_afterResult]
  split
  · rw [putRegs_rest]
    exact ⟨rfl, rfl, rfl, fun j => putRegs_regs _ _ _ _ j⟩
  · exact ⟨rfl, rfl, rfl, rfl⟩

/-- A result for registers delivered to a wave of which a lane has not exited. -/
theorem deliverLoad_of_registers {s : State} {w : Wave} {n k c : Nat} {p : PendLoad} (hw : findWave s w.id = some w) (hp : w.pend[n]? = some p)
    (hq : p.pred = none) (hd : p.dst = some (k, c)) (hk : k + c ≤ 32 * w.blks.toNat) (hb : 32 * w.blks.toNat ≤ 256)
    (hx : allExited w = false) (hj : w.joins = []) :
    findWave (deliverLoad s w.id n) w.id = some (afterResult w n p k c)
      ∧ (∀ j, j ≠ w.id → findWave (deliverLoad s w.id n) j = findWave s j)
      ∧ deliverLoad s w.id n = { s with waves := (deliverLoad s w.id n).waves, poisonReg := (deliverLoad s w.id n).poisonReg } := by
  obtain ⟨m, hm⟩ := writePending_of_registers (s := modWave s w.id fun v => { fillLatch v p with pend := v.pend.eraseIdx n }) hd hk hb
  have hfill : ∀ v : Wave, ({ fillLatch v p with pend := v.pend.eraseIdx n } : Wave).id = v.id := fun v => by rw [fillLatch_eq]
  have hfound : findWave (writePending (modWave s w.id fun v => { fillLatch v p with pend := v.pend.eraseIdx n }) w p) w.id
      = some (afterResult w n p k c) := by
    rw [hm]
    exact findWave_modWave_self _ (putResult_id p k c) (findWave_modWave_self _ hfill hw)
  have hexited : allExited (afterResult w n p k c) = false :=
    (allExited_congr (afterResult_aside w n p k c) fun l => (afterResult_lane w n p k c l).2.2.1).trans hx
  have hload : deliverLoad s w.id n = writePending (modWave s w.id fun v => { fillLatch v p with pend := v.pend.eraseIdx n }) w p := by
    simp only [deliverLoad, hw, hp, hq]
    rw [tryFinish_of_not_exited hfound hexited, flushJoins_of_no_joins hfound ((afterResult_joins w n p k c).trans hj)]
  rw [hload]
  refine ⟨hfound, fun j hj => ?_, by rw [hm]; rfl⟩
  rw [hm, findWave_modWave_other _ (putResult_id p k c) hj]
  exact findWave_modWave_other _ hfill hj

theorem loadReady_of_arrived {s : State} {w : Wave} {n : Nat} {p : PendLoad} (hw : findWave s w.id = some w) (hh : shadowOf s w.id = none)
    (hp : w.pend[n]? = some p) (hf : p.flight = none) (hc : clockReaches s w p.clock = true) : loadReady s w.id n = true := by
  simp only [loadReady, hw, hp, hf, hc, hh, Option.isNone_none, Bool.and_self]

/-! ### LANE_WAKE (R174) -/

theorem signalGroup_wakes (s : State) (g : Nat) : (signalGroup s g).wakes = s.wakes := by
  unfold signalGroup
  split
  · split <;> rfl
  · rfl

/-- The lane live, its wait satisfied where `sat` says so. -/
def wakeUp (l : Lane) (sat : Bool) (w : Wave) : Wave := modLane w l fun x => { x with state := .live, waitSat := x.waitSat || sat }

/-- A parked lane of a wave that is neither in scout nor in a handler is made live; only the wave's group hears of it beside. -/
theorem unpark_of_parked {s : State} {w : Wave} {l : Lane} (hw : findWave s w.id = some w) (hh : shadowOf s w.id = none)
    (hp : isParked (laneOf w l).state = true) (ha : w.aside = none) (sat : Bool) (k : Clock) :
    findWave (unpark s w.id l sat k) w.id = some (wakeUp l sat w) ∧ (unpark s w.id l sat k).wakes = s.wakes
      ∧ (unpark s w.id l sat k).mem = s.mem := by
  simp only [unpark, endScout_of_none hh, hw]
  refine ⟨?_, by rw [signalGroup_wakes]; rfl, (signalGroup_signalsOnly _ _).mem⟩
  simp only [findWave, (signalGroup_signalsOnly _ _).waves]
  refine (findWave_modWave_of_found _ hw ?_).trans ?_
  · simp only [ha, hp, if_true, modLane]
  · simp only [ha, hp, if_true, wakeUp]

theorem wakeUp_lane (l : Lane) (w : Wave) :
    (laneOf (wakeUp l true w) l).state = .live ∧ (laneOf (wakeUp l true w) l).waitSat = true := by
  rw [wakeUp, laneOf_modLane, if_pos rfl]
  exact ⟨rfl, Bool.or_true _⟩

/-! ### WATCH_TRAP and WAVE_FINISH_AFTER_COMMANDS (R231, R343) -/

theorem takeWatch_of_due {s : State} {w : Wave} {h : WatchHit} (hw : findWave s w.id = some w) (hh : shadowOf s w.id = none)
    (hdue : watchDue s w = some h) :
    takeWatch s w.id = enterTrap (modWave s w.id fun v => { v with watchPend := v.watchPend.erase h, run := none, hold := none }) w.id
      (watchInfo w h) := by
  simp only [takeWatch, hw, Option.bind_some, hdue, endScout_of_none hh]

theorem tryFinish_of_ready {s : State} {w : Wave} (hw : findWave s w.id = some w) (hr : readyToFinish w = true)
    (hcmd : hasCommands w = false) (hbad : badCompletion w = none) : tryFinish s w.id = waveFinish s w.id := by
  simp only [tryFinish, hw, hr, hcmd, Bool.not_false, Bool.and_self, if_true, finishWave, hbad]

/-! ### The statement -/

/-- Settles O35, event by event. -/
theorem results : Obligations.Results := by
  intro s w n l hw hh
  refine ⟨fun p k c hp hf hq hd hk hb hc hx hj => ?_, fun q hq hp ha => ?_,
    fun h hdue => ⟨congrArg Host.Outcome.next (takeWatch_of_due hw hh hdue), rfl, rfl, rfl⟩,
    fun hr hcmd hbad => congrArg (fun t => Host.Outcome.next (boundaryStop t w.id)) (tryFinish_of_ready hw hr hcmd hbad)⟩
  · obtain ⟨hfound, hother, hframe⟩ := deliverLoad_of_registers hw hp hq hd hk hb hx hj
    refine ⟨_, _, ?_, hfound, afterResult_pend w n p k c, hframe, hother, fun l => ?_⟩
    · show Host.Outcome.next (if loadReady s w.id n then _ else _) = _
      rw [if_pos (loadReady_of_arrived hw hh hp hf hc), hh]
    · obtain ⟨hpreds, hpc, -, hregs⟩ := afterResult_lane w n p k c l
      exact ⟨hpreds, hpc, hregs⟩
  · obtain ⟨hfound, hwakes, hmem⟩ := unpark_of_parked (s := { s with wakes := s.wakes.erase q }) hw hh hp ha true q.clock
    obtain ⟨hlive, hsat⟩ := wakeUp_lane l w
    refine ⟨_, _, ?_, hfound, hlive, hsat, hwakes, hmem⟩
    show Host.Outcome.next (wakeLane s w.id l) = _
    simp only [wakeLane, hq]

end Sys2Proof.Machine
end

section
/-! SUPPORT. Writes on their way, from their die to their home, at each die, and acknowledged; atomics at their banks; replicas that
arrive (R143, R144, R170, R257, R262, R263, R301): what each step leaves of device memory, of the waves and of the caches. -/
namespace Sys2Proof.Machine

/-! ### Clocks and flights -/

theorem clockAt_clockSet_self (c : Clock) (e : Nat) (x : Word) : clockAt (clockSet c e x) e = x := by
  unfold clockAt clockSet
  split
  · rfl
  · split
    · rfl
    · split <;> rfl

theorem clockOf_modDie_self (s : State) (d : Nat) (f : Die → Die) : clockOf (modDie s d f) d = (f (dieAt s d)).clock := by
  simp only [clockOf, dieAt, modDie]
  rw [show ∀ g : Fin 4 → Die, (Vector.ofFn g).get (Fin.ofNat 4 d) = g (Fin.ofNat 4 d) from fun g => Vector.getElem_ofFn _, if_pos rfl]

/-- A write that leaves its die takes the next value of the die's own entry (R263). -/
theorem clockAt_leaveDie (s : State) (f : Flight) :
    clockAt (clockOf (leaveDie s f) f.die) f.die = clockAt (clockOf s f.die) f.die + 1 := by
  have hclock : clockOf (leaveDie s f) f.die = clockSet (clockOf s f.die) f.die (clockAt (clockOf s f.die) f.die + 1) :=
    clockOf_modDie_self s f.die fun d => { d with clock := clockSet (clockOf s f.die) f.die (clockAt (clockOf s f.die) f.die + 1) }
  rw [hclock, clockAt_clockSet_self]

theorem findFlight_mem {s : State} {n : Nat} {f : Flight} (h : findFlight s n = some f) : f ∈ s.flights := List.mem_of_find?_eq_some h

/-- A flight that has been changed and is still on its way is found as it was changed. -/
theorem findFlight_changed {s : State} {n : Nat} {c : Flight → Flight} {g : Flight}
    (h : findFlight (dropFlights (modFlight s n c)) n = some g) : ∃ f, g = c f := by
  have hid : g.id = n := by simpa using List.find?_some h
  obtain ⟨f, -, hf⟩ := List.mem_map.1 (List.mem_filter.1 (List.mem_of_find?_eq_some h)).1
  by_cases hn : f.id = n
  · exact ⟨f, by rw [← hf, if_pos hn]⟩
  · rw [if_neg hn] at hf
    exact absurd (hf ▸ hid) hn

/-! ### Writes at their homes (R257) -/

theorem logLine_looksUp (s : State) (part a : Nat) : LooksUp s (logLine s part a) := ⟨rfl, rfl, rfl⟩

theorem markDirty_looksUp (s : State) (launch : DWord) (g : Page) (ia : Nat) :
    LooksUp s (markDirty s launch g ia) ∧ (markDirty s launch g ia).lineKeys = s.lineKeys := by
  unfold markDirty
  split
  · exact ⟨.refl s, rfl⟩
  · split
    · exact ⟨.refl s, rfl⟩
    · dsimp only
      split
      · exact ⟨⟨rfl, rfl, rfl⟩, rfl⟩
      · split <;> exact ⟨⟨rfl, rfl, rfl⟩, rfl⟩

theorem underKey_waves (s : State) (key a : Nat) : (underKey s key a).waves = s.waves := by
  unfold underKey
  split
  · split <;> rfl
  · rfl

/-- A line under a key, or never written, keeps its bytes when it is put under that key (R381). -/
theorem underKey_mem_of_here {s : State} {key a : Nat} (h : (lineKeyOf s a).all (· = key) = true) : (underKey s key a).mem = s.mem := by
  unfold underKey
  split
  next k hk =>
    rw [hk] at h
    rw [if_pos (of_decide_eq_true h)]
  next => rfl

theorem beforeWrite_waves (s : State) (launch : DWord) (g : Page) (ia : Nat) : (beforeWrite s launch g ia).waves = s.waves :=
  (underKey_waves ..).trans (markDirty_looksUp ..).1.waves

theorem beforeWrite_mem_of_here {s : State} {g : Page} {ia : Nat} (launch : DWord) (h : keyHere s g (physIn g ia) = true) :
    (beforeWrite s launch g ia).mem = s.mem := by
  obtain ⟨hlook, hkeys⟩ := markDirty_looksUp (logLine s g.owner.n (physIn g ia)) launch g ia
  refine (underKey_mem_of_here ?_).trans hlook.mem
  simp only [lineKeyOf, hkeys]
  exact h

theorem homeWrite_waves (s : State) (launch : DWord) (ia : Nat) (bs : List Byte) : (homeWrite s launch ia bs).waves = s.waves := by
  unfold homeWrite
  split
  · rfl
  · split
    · rfl
    · exact beforeWrite_waves ..

/-- A write at its home writes its bytes at the physical address of its page (R257, R308). -/
theorem homeWrite_mem {s : State} {g : Page} {ia : Nat} (launch : DWord) (bs : List Byte) (hg : pageOf s ia = some g)
    (hk : keyHere s g (physIn g ia) = true) : (homeWrite s launch ia bs).mem = writeBytes s.mem (physIn g ia) bs := by
  simp only [homeWrite, hg]
  cases bs with
  | nil => rfl
  | cons b bs => exact congrArg (writeBytes · (physIn g ia) (b :: bs)) (beforeWrite_mem_of_here launch hk)

theorem homeTouch_looksUp (s : State) (part line : Nat) (write : Bool) : LooksUp s (homeTouch s part line write) := llcTouch_looksUp ..

theorem writeHome_store {s : State} {f : Flight} {bs : List Byte} (hf : f.kind = .store bs) :
    LooksUp (homeWrite s f.launch f.ia bs) (writeHome s f) := by
  simp only [writeHome, hf]
  split
  next h =>
    obtain rfl : bs = [] := List.isEmpty_iff.1 h
    have hnone : homeWrite s f.launch f.ia [] = s := by
      unfold homeWrite
      split <;> rfl
    rw [hnone]
    exact .refl s
  next => exact homeTouch_looksUp ..

/-- Device memory and the waves are as they were. -/
structure KeepsMemory (s t : State) : Prop where
  mem : t.mem = s.mem
  waves : t.waves = s.waves

theorem KeepsMemory.trans {s t u : State} (h : KeepsMemory s t) (k : KeepsMemory t u) : KeepsMemory s u :=
  ⟨k.mem.trans h.mem, k.waves.trans h.waves⟩

theorem countHome_keepsMemory (s : State) (f : Flight) : KeepsMemory s (countHome s f) := by
  unfold countHome
  split <;> exact ⟨rfl, rfl⟩

theorem announce_keepsMemory (s : State) (f : Flight) : KeepsMemory s (announce s f) := by
  unfold announce
  dsimp only
  split
  · exact ⟨rfl, rfl⟩
  · split <;> exact ⟨rfl, rfl⟩

/-- Taking its place in the order of writes changes nothing in memory and in the waves beside the write itself (R263). -/
theorem performHome_keepsMemory (s : State) (f : Flight) : KeepsMemory (writeHome s f) (performHome s f) :=
  (countHome_keepsMemory _ f).trans ((announce_keepsMemory _ _).trans ⟨rfl, rfl⟩)

theorem performHome_store_waves {s : State} {f : Flight} {bs : List Byte} (hf : f.kind = .store bs) : (performHome s f).waves = s.waves :=
  (performHome_keepsMemory s f).waves.trans ((writeHome_store hf).waves.trans (homeWrite_waves ..))

theorem performHome_store_mem {s : State} {f : Flight} {bs : List Byte} {g : Page} (hf : f.kind = .store bs) (hg : pageOf s f.ia = some g)
    (hk : keyHere s g (physIn g f.ia) = true) : (performHome s f).mem = writeBytes s.mem (physIn g f.ia) bs :=
  (performHome_keepsMemory s f).mem.trans ((writeHome_store hf).mem.trans (homeWrite_mem _ bs hg hk))

theorem watchWrite_mem (s : State) (f : Flight) : (watchWrite s f).mem = s.mem := by
  unfold watchWrite
  split
  · rfl
  · exact (watchAccess_keepsLanes ..).mem

section
variable {s : State} {f : Flight} (hf : findFlight s f.id = some f) (hw : isWrite f = true)
include hf hw

theorem performWrite_of_leaves (hl : mayLeave s f = true) : performWrite s f.id = leaveDie s f := by
  simp only [performWrite, hf, hw, hl, Bool.not_true, Bool.false_eq_true, if_false, if_true]

theorem performWrite_of_home (hl : mayLeave s f = false) (hh : homeMay s f = true) :
    performWrite s f.id = watchWrite (performHome s f) f := by
  simp only [performWrite, hf, hw, hl, hh, Bool.not_true, Bool.false_eq_true, if_false, if_true]
end

/-! ### Writes applied (R262) -/

theorem applyReplica_mem (s : State) (f : Flight) (d : Nat) : (applyReplica s f d).mem = s.mem := by
  unfold applyReplica
  split
  · split
    · rfl
    · refine foldl_keeps (fun t : State => t.mem) _ (fun t k => ?_) _ s
      split <;> rfl
  · rfl

/-- A die that may apply a write does so, and has it to do no more. -/
theorem applyWrite_of_may {s : State} {f : Flight} {d : Nat} (hf : findFlight s f.id = some f) (ha : applyMay s f d = true) :
    (applyWrite s f.id d).mem = s.mem ∧ ∀ g, findFlight (applyWrite s f.id d) f.id = some g → d ∉ g.todo := by
  have hform : ∃ u : State, u.mem = s.mem
      ∧ applyWrite s f.id d = dropFlights (modFlight u f.id fun g => { g with todo := g.todo.filter (· ≠ d) }) := by
    simp only [applyWrite, hf, ha, Bool.not_true, Bool.false_eq_true, if_false]
    refine ⟨_, ?_, rfl⟩
    have hshare : (if sharesBlock s d (f.ia / 64) then applyReplica s f d else setSharer (applyReplica s f d) (f.ia / 64) d false).mem = s.mem := by
      split
      · exact applyReplica_mem ..
      · exact applyReplica_mem ..
    split
    · split <;> exact hshare
    · exact hshare
  obtain ⟨u, hmem, hu⟩ := hform
  rw [hu]
  refine ⟨hmem, fun g hg => ?_⟩
  obtain ⟨g0, rfl⟩ := findFlight_changed hg
  simp

/-! ### Acknowledgements (R144) -/

/-- The state with a flight acknowledged, and gone when nothing else of it is left to do. -/
def acknowledged (s : State) (n : Nat) : State := dropFlights (modFlight s n fun g => { g with acked := true })

theorem acked_of_found {s : State} {n : Nat} {g : Flight} (h : findFlight (acknowledged s n) n = some g) : g.acked = true := by
  obtain ⟨f, rfl⟩ := findFlight_changed h
  rfl

/-- The store count of a wave of which a lane has not exited falls, and nothing follows. -/
theorem storeDone_of_live {s : State} {n : Nat} {w : Wave} (hw : findWave s n = some w) (hx : allExited w = false) (hj : w.joins = []) :
    storeDone s n = modWave s n fun w => { w with stores := w.stores - 1 } := by
  have hfound := findWave_modWave_self (fun w : Wave => { w with stores := w.stores - 1 }) (fun _ => rfl) hw
  have hexited : allExited { w with stores := w.stores - 1 } = false := (allExited_congr rfl fun _ => rfl).trans hx
  simp only [storeDone]
  rw [flushJoins_of_no_joins hfound hj, tryFinish_of_not_exited hfound hexited]

theorem ackWrite_of_may {s : State} {f : Flight} (hf : findFlight s f.id = some f) (ha : ackMay s f = true) :
    ackWrite s f.id = if f.counted then storeDone (acknowledged s f.id) f.wave else acknowledged s f.id := by
  simp only [ackWrite, hf, ha, if_true, acknowledged]

/-! ### Lookups and watch hits leave caches and flights (R170) -/

/-- The writes on their way and the last-level caches are as they were. -/
structure KeepsLines (s t : State) : Prop where
  llc : t.llc = s.llc
  flights : t.flights = s.flights

theorem KeepsLines.refl (s : State) : KeepsLines s s := ⟨rfl, rfl⟩
theorem KeepsLines.trans {s t u : State} (h : KeepsLines s t) (k : KeepsLines t u) : KeepsLines s u :=
  ⟨k.llc.trans h.llc, k.flights.trans h.flights⟩

theorem KeepsLines.replicaOf {s t : State} (h : KeepsLines s t) (die line : Nat) : replicaOf t die line = Machine.replicaOf s die line := by
  simp only [Machine.replicaOf, llcLine, llcFind, h.llc]

theorem hitCount_keepsLines (s : State) (a : Access) (w : Wave) (scope : WScope) (slot die core : Nat) (ctl : DWord) :
    KeepsLines s (hitCount s a w scope slot die core ctl) := by
  unfold hitCount
  split
  · cases scope <;> exact ⟨rfl, rfl⟩
  · exact .refl s

theorem hitStop_keepsLines (s : State) (a : Access) (w : Wave) (ctl : DWord) : KeepsLines s (hitStop s a w ctl) := by
  unfold hitStop
  dsimp only
  split
  · exact ⟨rfl, rfl⟩
  · exact .refl s

theorem takeHit_keepsLines (s : State) (a : Access) (h : WScope × Nat × Nat × Nat × WatchSlot) : KeepsLines s (takeHit s a h) := by
  obtain ⟨scope, slot, die, core, x⟩ := h
  unfold takeHit
  split
  · exact .refl s
  next w _ =>
    dsimp -zeta only
    extract_lets lanes gone trap acts s1 body record s2 s3
    have h1 : KeepsLines s s1 := hitCount_keepsLines s a w scope slot die core x.ctl
    have h2 : KeepsLines s s2 := by
      unfold s2
      split
      · exact h1.trans ⟨rfl, rfl⟩
      · exact h1
    have h3 : KeepsLines s s3 := h2.trans (hitStop_keepsLines s2 a w x.ctl)
    split
    · exact h3.trans ⟨rfl, rfl⟩
    · exact h3

theorem watchAccess_keepsLines (s : State) (a : Access) : KeepsLines s (watchAccess s a) := by
  unfold watchAccess
  generalize watchHits s a = hits
  induction hits generalizing s with
  | nil => exact .refl s
  | cons h hits ih => exact (takeHit_keepsLines s a h).trans (ih _)

theorem watchAtom_keeps (s : State) (f : Flight) (n bank : Nat) (ls : List (Lane × DWord × DWord)) :
    KeepsLanes s (watchAtom s f n bank ls) ∧ KeepsLines s (watchAtom s f n bank ls) := by
  unfold watchAtom
  induction ls generalizing s with
  | nil => exact ⟨.refl s, .refl s⟩
  | cons x ls ih =>
    obtain ⟨hlanes, hlines⟩ := ih (watchAccess s
      { wave := f.wave, lane := x.1, pc := f.pc, exec := f.exec, kind := 2, eng := none, ptr := f.ptr, len := n, die := f.die
        core := f.core, bank := some bank, abuf := none, byHandler := f.byHandler })
    exact ⟨(watchAccess_keepsLanes ..).trans hlanes, (watchAccess_keepsLines ..).trans hlines⟩

/-! ### Replicas (R301) -/

theorem setSharer_looksUp (s : State) (line d : Nat) (on : Bool) : LooksUp s (setSharer s line d on) := ⟨rfl, rfl, rfl⟩

theorem llcSeat_fills (s : State) (b : LlcBlock) (line tenant : Nat) : (llcSeat s b line tenant).fills = s.fills := by
  unfold llcSeat
  split <;> rfl

theorem llcPut_fills (s : State) (die line tenant : Nat) (x : LlcLine) : (llcPut s die line tenant x).fills = s.fills := by
  unfold llcPut
  dsimp only
  split
  · split
    · exact llcSeat_fills ..
    · rfl
  · exact llcSeat_fills ..

theorem installReplica_keeps (s : State) (die line tenant : Nat) :
    LooksUp s (installReplica s die line tenant) ∧ (installReplica s die line tenant).fills = s.fills := by
  unfold installReplica
  dsimp only
  split
  · exact ⟨(llcPut_looksUp ..).trans (setSharer_looksUp ..), llcPut_fills ..⟩
  · exact ⟨(llcPut_looksUp ..).trans ((llcPut_looksUp ..).trans (setSharer_looksUp ..)), (llcPut_fills ..).trans (llcPut_fills ..)⟩

theorem reachReplica_looksUp (s : State) (f : Flight) : LooksUp s (reachReplica s f) := by
  unfold reachReplica
  dsimp only
  split
  · exact llcTouch_looksUp ..
  · exact (llcTouch_looksUp ..).trans ((homeTouch_looksUp ..).trans (installReplica_keeps ..).1)

/-- A replica that is requested arrives, and is requested no more. -/
theorem fillReplica_of_counted {s : State} {die line : Nat} {x : Nat × Nat × Nat}
    (hx : (s.fills.find? fun y => y.1 = die && y.2.1 = line) = some x)
    (hc : clockCounts (clockOf s die) (clockOf s (homeDie (64 * line))) = true) :
    (fillReplica s die line).mem = s.mem ∧ (fillReplica s die line).fills = s.fills.erase x := by
  simp only [fillReplica, hx, hc, if_true]
  split
  · exact ⟨rfl, rfl⟩
  · obtain ⟨hlook, hfills⟩ := installReplica_keeps { s with fills := s.fills.erase x } die line (tenantOf s x.2.2)
    exact ⟨hlook.mem, hfills⟩

/-- A superblock with the replica of one of its lines changed. -/
def updateBlock (line : Nat) (f : L1Line → L1Line) (b : LlcBlock) : LlcBlock :=
  { b with lines := Vector.ofFn fun k =>
      if k = Fin.ofNat 4 line then (b.lines.get k).map fun x => { x with replica := x.replica.map f } else b.lines.get k }

theorem llcFind_replicaUpdate (s : State) (die line : Nat) (f : L1Line → L1Line) :
    llcFind (replicaUpdate s die line f) die line = (llcFind s die line).map (updateBlock line f) := by
  have hkeep : ∀ b : LlcBlock, (decide ((if b.die = die && b.tag = line / 4 then updateBlock line f b else b).die = die)
      && decide ((if b.die = die && b.tag = line / 4 then updateBlock line f b else b).tag = line / 4))
        = (decide (b.die = die) && decide (b.tag = line / 4)) := fun b => by split <;> rfl
  have hmap : llcFind (replicaUpdate s die line f) die line
      = (llcFind s die line).map fun b => if b.die = die && b.tag = line / 4 then updateBlock line f b else b :=
    (List.find?_map ..).trans (congrArg (fun p => (s.llc.find? p).map _) (funext hkeep))
  rw [hmap]
  cases hb : llcFind s die line with
  | none => rfl
  | some b => exact congrArg some (if_pos (List.find?_some hb))

/-- The replica of a line changed where the die holds one (R263). -/
theorem replicaOf_replicaUpdate (s : State) (die line : Nat) (f : L1Line → L1Line) :
    replicaOf (replicaUpdate s die line f) die line = (replicaOf s die line).map f := by
  have hget : ∀ g : Fin 4 → Option LlcLine, (Vector.ofFn g).get (Fin.ofNat 4 line) = g (Fin.ofNat 4 line) :=
    fun g => Vector.getElem_ofFn _
  simp only [replicaOf, llcLine, llcFind_replicaUpdate]
  cases llcFind s die line with
  | none => rfl
  | some b =>
    simp only [Option.map_some, updateBlock, hget, if_true]
    cases b.lines.get (Fin.ofNat 4 line) <;> rfl

/-! ### Atomics (R94, R170) -/

/-- The results of a wave after those of a flight have been given to their lanes. -/
def givenTo (f : Flight) (n : Nat) (olds : List (Lane × Nat)) (p : PendLoad) : Option Nat × Lanes (BitVec 128) :=
  if p.flight = some f.id then
    (none, Lanes.of fun l => BitVec.ofNat 128 (((olds.find? fun x => x.1 = l).map (·.2)).getD 0 % 2 ^ (8 * n)))
  else (p.flight, p.vals)

theorem giveOld_pend {s : State} {f : Flight} {w : Wave} (n : Nat) (olds : List (Lane × Nat)) (c : Clock)
    (hw : findWave s f.wave = some w) : ∃ v, findWave (giveOld s f n olds c) f.wave = some v
      ∧ v.pend.map (fun p => (p.flight, p.vals)) = w.pend.map (givenTo f n olds) := by
  refine ⟨_, findWave_modWave_self _ (fun _ => rfl) hw, ?_⟩
  rw [List.map_map]
  refine List.map_congr_left fun p _ => ?_
  simp only [Function.comp_apply, givenTo]
  split <;> rfl

theorem giveOld_keepsLines (s : State) (f : Flight) (n : Nat) (olds : List (Lane × Nat)) (c : Clock) :
    KeepsLines s (giveOld s f n olds c) := ⟨rfl, rfl⟩

/-- A flight whose result is a write of the given bytes. -/
def Flight.storing (f : Flight) (bs : List Byte) : Flight := { f with kind := .store bs }

/-- What an atomic at a bank leaves at its location, and the value that each lane is given there. -/
def combinedAtHome (s : State) (f : Flight) (op : AtOp) (ls : List (Lane × DWord × DWord)) : Nat × List (Lane × Nat) :=
  atCombine op (homeRead s f.ia (atBytes op)) ls

/-- The parts of an atomic at its home, in their order. -/
theorem atomHome_eq (s : State) (f : Flight) (op : AtOp) (ls : List (Lane × DWord × DWord)) :
    atomHome s f op ls =
      let g := f.storing (bytesOf (combinedAtHome s f op ls).1 (atBytes op))
      let s1 := performHome (modFlight s f.id fun _ => g) g
      watchAtom (giveOld s1 f (atBytes op) (combinedAtHome s f op ls).2 (clockOf s1 (homeDie f.ia))) f (atBytes op) (homeDie f.ia) ls := rfl

/-- The values that the lanes of a flight's results are given, where the waves are those of a known state. -/
theorem watchAtom_giveOld_pend {s t : State} {f : Flight} {w : Wave} (n bank : Nat) (olds : List (Lane × Nat)) (c : Clock)
    (ls : List (Lane × DWord × DWord)) (ht : t.waves = s.waves) (hw : findWave s f.wave = some w) :
    ∃ v, findWave (watchAtom (giveOld t f n olds c) f n bank ls) f.wave = some v
      ∧ v.pend.map (fun p => (p.flight, p.vals)) = w.pend.map (givenTo f n olds) := by
  have hw' : findWave t f.wave = some w := by rw [findWave, ht]; exact hw
  obtain ⟨u, hu, hpend⟩ := giveOld_pend n olds c hw'
  obtain ⟨v, hv, -, hsame⟩ := (watchAtom_keeps _ f n bank ls).1.findWave hu
  exact ⟨v, hv, by rw [hsame, hpend]⟩

theorem atomHome_given {s : State} {f : Flight} {w : Wave} (op : AtOp) (ls : List (Lane × DWord × DWord)) (hw : findWave s f.wave = some w) :
    ∃ v, findWave (atomHome s f op ls) f.wave = some v
      ∧ v.pend.map (fun p => (p.flight, p.vals)) = w.pend.map (givenTo f (atBytes op) (combinedAtHome s f op ls).2) := by
  rw [atomHome_eq]
  exact watchAtom_giveOld_pend _ _ _ _ _ (performHome_store_waves rfl) hw

/-- An atomic at its home leaves its result there (R170). -/
theorem atomHome_mem {s : State} {f : Flight} {g : Page} (op : AtOp) (ls : List (Lane × DWord × DWord)) (hg : pageOf s f.ia = some g)
    (hk : keyHere s g (physIn g f.ia) = true) :
    (atomHome s f op ls).mem = writeBytes s.mem (physIn g f.ia) (bytesOf (combinedAtHome s f op ls).1 (atBytes op)) := by
  rw [atomHome_eq]
  exact (watchAtom_keeps ..).1.mem.trans (performHome_store_mem (f := f.storing _) rfl hg hk)

/-- The value that an atomic finds in a replica, or 0 where there is none. -/
def replicaRead (s : State) (f : Flight) (n : Nat) : Nat :=
  match replicaOf s f.die (f.ia / 64) with
  | some x => lineGet x (f.ia % 64) n
  | none => 0

/-- What an atomic at a replica leaves there, and the value that each lane is given. -/
def combinedAtReplica (s : State) (f : Flight) (op : AtOp) (ls : List (Lane × DWord × DWord)) : Nat × List (Lane × Nat) :=
  atCombine op (replicaRead (reachReplica s f) f (atBytes op)) ls

/-- The state in which an atomic has changed the replica that it has reached, and its result is a write to the home (R170). -/
def writtenReplica (s : State) (f : Flight) (bs : List Byte) : State :=
  let r := reachReplica s f
  let t := replicaUpdate r f.die (f.ia / 64) fun x => linePut x (f.ia % 64) bs
  modFlight { t with fresh := t.fresh + 1 } f.id fun g => { g with id := t.fresh, kind := .store bs, atReplica := true }

/-- The parts of an atomic at a replica, in their order. -/
theorem atomReplica_eq (s : State) (f : Flight) (op : AtOp) (ls : List (Lane × DWord × DWord)) :
    atomReplica s f op ls = watchAtom (giveOld (writtenReplica s f (bytesOf (combinedAtReplica s f op ls).1 (atBytes op))) f (atBytes op)
      (combinedAtReplica s f op ls).2 Clock.zero) f (atBytes op) f.die ls := rfl

theorem atomReplica_mem (s : State) (f : Flight) (op : AtOp) (ls : List (Lane × DWord × DWord)) : (atomReplica s f op ls).mem = s.mem := by
  rw [atomReplica_eq]
  exact (watchAtom_keeps ..).1.mem.trans (reachReplica_looksUp s f).mem

theorem atomReplica_given {s : State} {f : Flight} {w : Wave} (op : AtOp) (ls : List (Lane × DWord × DWord)) (hw : findWave s f.wave = some w) :
    ∃ v, findWave (atomReplica s f op ls) f.wave = some v
      ∧ v.pend.map (fun p => (p.flight, p.vals)) = w.pend.map (givenTo f (atBytes op) (combinedAtReplica s f op ls).2) := by
  rw [atomReplica_eq]
  exact watchAtom_giveOld_pend _ _ _ _ _ (reachReplica_looksUp s f).waves hw

theorem atomReplica_keepsLines (s : State) (f : Flight) (op : AtOp) (ls : List (Lane × DWord × DWord)) :
    KeepsLines (writtenReplica s f (bytesOf (combinedAtReplica s f op ls).1 (atBytes op))) (atomReplica s f op ls) := by
  rw [atomReplica_eq]
  exact (giveOld_keepsLines ..).trans (watchAtom_keeps ..).2

/-- An atomic at a replica leaves its result in it. -/
theorem atomReplica_replicaOf (s : State) (f : Flight) (op : AtOp) (ls : List (Lane × DWord × DWord)) :
    replicaOf (atomReplica s f op ls) f.die (f.ia / 64) = (replicaOf (reachReplica s f) f.die (f.ia / 64)).map
      fun y => linePut y (f.ia % 64) (bytesOf (combinedAtReplica s f op ls).1 (atBytes op)) := by
  rw [(atomReplica_keepsLines s f op ls).replicaOf]
  exact replicaOf_replicaUpdate ..

/-- The result of an atomic at a replica goes to its home as a write of its own. -/
theorem atomReplica_flight {s : State} {f : Flight} (op : AtOp) (ls : List (Lane × DWord × DWord)) (hf : findFlight s f.id = some f) :
    ∃ g ∈ (atomReplica s f op ls).flights, g.kind = .store (bytesOf (combinedAtReplica s f op ls).1 (atBytes op)) ∧ g.ia = f.ia
      ∧ g.atReplica = true ∧ g.performed = f.performed := by
  rw [(atomReplica_keepsLines s f op ls).flights]
  have hmem : f ∈ (reachReplica s f).flights := (reachReplica_looksUp s f).flights ▸ findFlight_mem hf
  exact ⟨_, List.mem_map_of_mem hmem, by rw [if_pos rfl]; exact ⟨rfl, rfl, rfl, rfl⟩⟩

/-- The ways of an atomic that meets no error: at the replica of its die, out of its die, at its home. -/
theorem atomBank_of_clean {s : State} {f : Flight} {op : AtOp} {sc : Scope} {ls : List (Lane × DWord × DWord)} {n : Option Nat}
    (hf : findFlight s f.id = some f) (hk : f.kind = .atom op sc ls n) (hp : atomPoisoned s f op sc = false) :
    atomBank s f.id = if atReplicaOf f sc then (if replicaMay s f then atomReplica s f op ls else s)
      else if mayLeave s f then leaveDie s f else if homeMay s f then atomHome s f op ls else s := by
  simp only [atomBank, hf, hk, hp, Bool.false_eq_true, if_false]

/-- Settles O36, step by step. -/
theorem writesOnTheirWay : Obligations.WritesOnTheirWay := by
  intro s f hf
  refine ⟨fun hw hl => ⟨congrArg Host.Outcome.next (performWrite_of_leaves hf hw hl), clockAt_leaveDie s f, rfl⟩,
    fun hw hl hh => ⟨congrArg Host.Outcome.next (performWrite_of_home hf hw hl hh), fun bs g hk _ hg hkey _ => ?_⟩,
    fun d ha => ⟨_, rfl, applyWrite_of_may hf ha⟩, fun ha hc => ?_, fun w ha hc hw hx hj => ?_, fun op sc ls n hk hp => ?_,
    fun d line x hx hc => ⟨_, rfl, fillReplica_of_counted hx hc⟩⟩
  · exact (watchWrite_mem ..).trans (performHome_store_mem hk hg hkey)
  · refine ⟨_, congrArg Host.Outcome.next (ackWrite_of_may hf ha), ?_⟩
    rw [hc, if_neg Bool.false_ne_true]
    exact ⟨rfl, rfl, fun g => acked_of_found⟩
  · refine ⟨_, congrArg Host.Outcome.next (ackWrite_of_may hf ha), ?_⟩
    rw [hc, if_pos rfl, storeDone_of_live (s := acknowledged s f.id) hw hx hj]
    exact ⟨findWave_modWave_self _ (fun _ => rfl) hw, fun k hne => findWave_modWave_other _ (fun _ => rfl) hne, rfl, fun g => acked_of_found⟩
  · have hbank := atomBank_of_clean hf hk hp
    refine ⟨fun hr hm => ⟨congrArg Host.Outcome.next ?_, atomReplica_mem s f op ls, fun w => atomReplica_given op ls,
        atomReplica_replicaOf s f op ls, atomReplica_flight op ls hf⟩,
      fun hr hl => congrArg Host.Outcome.next ?_,
      fun hr hl hh => ⟨congrArg Host.Outcome.next ?_, fun w => atomHome_given op ls, fun g => atomHome_mem op ls⟩⟩
    · rw [hbank, if_pos hr, if_pos hm]
    · rw [hbank, hr, hl]
      rfl
    · rw [hbank, hr, hl, hh]
      rfl

end Sys2Proof.Machine
end

section
/-! SUPPORT. Atomics, steps at control words, BAR, CWAIT, SPAWN and ENQT (R168 to R189): what the operation of each comes to when no
lane of it fails, waits or meets an error. -/
namespace Sys2Proof.Machine

/-! ### ATOM and RED (R175, R176) -/

/-- What the lanes of an atomic of n bytes find at their addresses. -/
def atomVerdicts (c : Ctx) (off : Int) (n : Nat) : Lanes Verdict := Lanes.of fun l => verdictAtom c.s c.w l (c.ptr off n l) n

/-- The state in which the lanes of an atomic have sent one request for each of their addresses. -/
def atomSent (c : Ctx) (op : AtOp) (sc : Scope) (off : Int) (n : Nat) (ret : Bool) : State :=
  (byAddress (atomVerdicts c off n) c.exec).foldl (sendAtom c op sc ret (c.ptr off n)) c.s

theorem atomBody_of_passes {c : Ctx} {op : AtOp} {off : Int} (h : Passes c (atomVerdicts c off (atBytes op))) (sc : Scope) (ret : Bool) :
    atomBody c op sc off ret = .done
      ⟨atomSent c op sc off (atBytes op) ret, c.exec, if ret then some (Lanes.of fun _ => 0) else none, c.sh.ends, false, onward⟩ := by
  unfold atomBody
  exact access_of_passes h _ _

/-- An atomic word, which leaves its wave's run going, ends with the requests of its lanes. -/
theorem atom_ends {i : Instr} {sh : Shape} {op : AtOp} {sc : Scope} {off : Int} {n : Nat} {ret : Bool} (hi : i.shape = some sh)
    (hends : sh.ends = false) (hn : atBytes op = n)
    (harm : ∀ s, ∃ x, exec i s = issue i s x fun c => atomBody c op sc off ret) :
    Ends i (fun c => Passes c (atomVerdicts c off n))
      (fun c => .done ⟨atomSent c op sc off n ret, c.exec, if ret then some (Lanes.of fun _ => 0) else none, false, false, fun _ => none⟩) :=
  ends_of fun s =>
    have ⟨x, h⟩ := harm s
    ⟨x, _, h, fun c hsh hpass => by
      subst hn
      obtain rfl : sh = c.sh := Option.some.inj (hi.symm.trans hsh)
      rw [atomBody_of_passes hpass, hends]
      rfl⟩

/-- Settles O24: the four words are the atomic word of `atom_ends`. -/
theorem atomicWords : Obligations.AtomicWords := by
  intro e k d a sc o i x r
  refine ⟨?_, ?_, ?_, ?_⟩
  · exact atom_ends (op := .i i) (n := 4) (ret := true) rfl rfl rfl fun _ => ⟨_, rfl⟩
  · exact atom_ends (op := .x x) (n := x.bytes) (ret := true) rfl rfl rfl fun _ => ⟨_, rfl⟩
  · exact atom_ends (op := .i i) (n := 4) (ret := false) rfl rfl rfl fun _ => ⟨_, rfl⟩
  · exact atom_ends (op := .x (redX r)) (n := (redX r).bytes) (ret := false) rfl rfl rfl fun _ => ⟨_, rfl⟩

/-! ### Steps at control words (R171, R177) -/

/-- The steps of an instruction of which no lane fails: it completes for the lanes done, and the others park. -/
theorem stepsEnd_of_passes {c : Ctx} {v : Lanes Verdict} {x : Steps} (h : Passes c v) (hx : x.fails = []) (k : ParkKind)
    (after : State → State) :
    stepsEnd c v k after x = .done
      ⟨parkLanes (if x.done = 0 then x.s else after x.s) c.w.id k x.parks, x.done, none, c.sh.ends, false, onward⟩ := by
  have hall : (Lanes.of fun l => ((x.fails.find? fun y => y.1 = l).map (·.2)).getD (v.get l)) = v := by
    simp only [hx, List.find?_nil, Option.map_none, Option.getD_none]
    exact Lanes.of_get v
  simp only [stepsEnd, hall, poisoned_eq_none fun l hl => poisonIn_of_mayDo (h l hl),
    worst_eq_none fun l hl => rankIn_of_mayDo (h l hl)]

/-- A word that completes for the lanes of its steps ends its run or not by its kind. -/
theorem stepped_of_shape {c : Ctx} {i : Instr} {sh : Shape} (hsh : i.shape = some c.sh) (hi : i.shape = some sh) (s : State) (m : Mask) :
    Res.done ⟨s, m, none, c.sh.ends, false, onward⟩ = .done ⟨s, m, none, sh.ends, false, fun _ => none⟩ := by
  obtain rfl : sh = c.sh := Option.some.inj (hi.symm.trans hsh)
  rfl

/-- A word at control words of which no lane fails, at its checks or at its step, once what it waits for is ready. -/
theorem steps_of_passes {c : Ctx} {i : Instr} {sh : Shape} (hsh : i.shape = some c.sh) (hi : i.shape = some sh) {v : Lanes Verdict}
    {x : Steps} {ready : Bool} (h : Passes c v) (hready : ready = true) (hx : x.fails = []) (k : ParkKind) (after : State → State)
    (wait : Res) :
    (if (someMay c v && !ready) = true then wait else stepsEnd c v k after x) = .done
      ⟨parkLanes (if x.done = 0 then x.s else after x.s) c.w.id k x.parks, x.done, none, sh.ends, false, fun _ => none⟩ := by
  rw [hready, Bool.not_true, Bool.and_false, if_neg Bool.false_ne_true, stepsEnd_of_passes h hx, stepped_of_shape hsh hi]

/-- Settles O26: each word's operation is the one of `steps_of_passes`; what it waits for is its release or its acquire. -/
theorem controlWords : Obligations.ControlWords := by
  intro e d a sc o4 o7
  refine ⟨?semsig, ?semtake, ?semwait, ?joinw, ?csig⟩
  case semsig | csig =>
    exact ends_of fun _ => ⟨_, _, rfl, fun _ hsh ⟨hpass, hrel, hhomes, hfails⟩ =>
      steps_of_passes hsh rfl hpass (Bool.and_eq_true_iff.2 ⟨hrel, hhomes⟩) hfails _ _ _⟩
  case semtake | semwait | joinw =>
    exact ends_of fun _ => ⟨_, _, rfl, fun _ hsh ⟨hpass, hready, hfails⟩ => steps_of_passes hsh rfl hpass hready hfails _ _ _⟩

/-! ### ENQT and SPAWN (R183, R189) -/

/-- SPAWN of which no lane fails, once the release may be made: one record for each lane that finds room. -/
theorem spawnBody_of_passes {c : Ctx} (h : Passes c (Lanes.of (verdictSpawn c))) (hrel : released c.w .dev = true)
    (hhomes : homesReady c (Lanes.of (verdictSpawn c)) = true) (n : Nat) (p : Pred) :
    spawnBody c n p =
      let made := c.exec.lanes.foldl (spawnLane c n (Lanes.of (verdictSpawn c))) (c.s, 0)
      c.done (writePred made.1 c.w c.exec p made.2.has) := by
  refine (accessWhole_of_passes h _).trans ?_
  rw [hrel, hhomes, Bool.and_self, Bool.not_true, if_neg Bool.false_ne_true]

/-- ENQT of which no lane fails and some lane has appended: the lanes that found the queue full stay as they are. -/
theorem enqtBody_of_appended {c : Ctx} {o : Int} (h : Passes c (Lanes.of (verdictEnqt c o))) (hrel : released c.w .dev = true)
    (hhomes : homesReady c (Lanes.of (verdictEnqt c o)) = true)
    (hfails : (stepLanes c (Lanes.of (verdictEnqt c o)) (c.ptr o 64) 64 (enqtLane c)).fails = [])
    (hdone : (stepLanes c (Lanes.of (verdictEnqt c o)) (c.ptr o 64) 64 (enqtLane c)).done ≠ 0) :
    enqtBody c o =
      let x := stepLanes c (Lanes.of (verdictEnqt c o)) (c.ptr o 64) 64 (enqtLane c)
      .done ⟨parkLanes x.s c.w.id .join [], x.done, none, c.sh.ends, false, onward⟩ := by
  have hwaits : ¬ (someMay c (Lanes.of (verdictEnqt c o)) && !(released c.w .dev && homesReady c (Lanes.of (verdictEnqt c o)))) = true := by
    rw [hrel, hhomes, Bool.and_self, Bool.not_true, Bool.and_false]
    exact Bool.false_ne_true
  unfold enqtBody
  simp only [if_neg hwaits, hdone, decide_false, Bool.and_false, Bool.false_eq_true, if_false,
    stepsEnd_of_passes h (x := { stepLanes c (Lanes.of (verdictEnqt c o)) (c.ptr o 64) 64 (enqtLane c) with parks := [] }) hfails]
  rfl

/-- Settles O28, by the equations of both words. -/
theorem spawnAndEnqueue : Obligations.SpawnAndEnqueue := by
  intro e n k j t p d a o
  refine ⟨?_, ?_⟩
  · exact ends_of fun _ => ⟨_, _, rfl, fun c hsh ⟨hpass, hrel, hhomes⟩ =>
      (spawnBody_of_passes hpass hrel hhomes _ _).trans (done_of_shape hsh rfl _)⟩
  · exact ends_of fun _ => ⟨_, _, rfl, fun c hsh ⟨hpass, hrel, hhomes, hfails, hdone⟩ =>
      (enqtBody_of_appended hpass hrel hhomes hfails hdone).trans (stepped_of_shape hsh rfl _ _)⟩

/-! ### One lane's step at a semaphore (R177) -/

section
variable (c : Ctx) (a : Lane → DWord) (x : Steps) (ia : Nat) (l : Lane)

/-- A semaphore below zero has no step. -/
theorem semaphore_of_negative (h : (counterWord x.s ia).toInt < 0) :
    semsigLane c a x ia l = .fail (rankOf .semUnder) .semUnder ∧ semtakeLane c a x ia l = .fail (rankOf .semUnder) .semUnder
      ∧ semwaitLane c a x ia l = .fail (rankOf .semUnder) .semUnder := by
  simp only [semsigLane, semtakeLane, semwaitLane, h, decide_true, Bool.true_or, if_true, and_self]

theorem semsigLane_of_fits (h : 0 ≤ (counterWord x.s ia).toInt) (hn : (counterWord x.s ia).toInt + (c.x 1 l).toNat < 2 ^ 31) :
    semsigLane c a x ia l = .done (c.setWord x.s l (a l) ia (BitVec.ofInt 32 ((counterWord x.s ia).toInt + (c.x 1 l).toNat))) :=
  (if_neg (Int.not_lt.2 h)).trans (if_neg (Int.not_lt.2 (Int.le_sub_one_of_lt hn)))

theorem semsigLane_of_over (h : 0 ≤ (counterWord x.s ia).toInt) (hn : 2 ^ 31 ≤ (counterWord x.s ia).toInt + (c.x 1 l).toNat) :
    semsigLane c a x ia l = .fail (rankOf .semOver) .semOver :=
  (if_neg (Int.not_lt.2 h)).trans (if_pos (Int.sub_one_lt_of_le hn))

theorem semtakeLane_of_holds (h : 0 ≤ (counterWord x.s ia).toInt) (hn : ((c.x 1 l).toNat : Int) ≤ (counterWord x.s ia).toInt) :
    semtakeLane c a x ia l = .done (c.setWord x.s l (a l) ia (BitVec.ofInt 32 ((counterWord x.s ia).toInt - (c.x 1 l).toNat))) := by
  simp only [semtakeLane, Int.not_lt.2 h, Int.not_lt.2 (Int.sub_nonneg_of_le hn), decide_false, Bool.or_self, Bool.false_eq_true, if_false]

theorem semtakeLane_of_under (hn : (counterWord x.s ia).toInt < (c.x 1 l).toNat) :
    semtakeLane c a x ia l = .fail (rankOf .semUnder) .semUnder := by
  simp only [semtakeLane, Int.sub_neg_of_lt hn, decide_true, Bool.or_true, if_true]

/-- Does a lane wait at the word before this one: from an earlier instruction, or of this one? -/
def semQueued : Bool := x.s.waiters.any (fun q => q.kind = .semaphore && q.ia = ia) || x.parks.any fun q => q.2.1 = ia

theorem semwaitLane_of_woken (h : 0 ≤ (counterWord x.s ia).toInt) (hs : (laneOf c.w l).waitSat = true) :
    semwaitLane c a x ia l = .done (clearSat x.s c.w.id l) :=
  (if_neg (Int.not_lt.2 h)).trans (if_pos hs)

/-- A lane that asks for what a semaphore can hold takes it at once when the word holds it and nobody waits, and parks otherwise. -/
theorem semwaitLane_of_asks (h : 0 ≤ (counterWord x.s ia).toInt) (hs : (laneOf c.w l).waitSat = false) (hpos : 0 < (c.x 1 l).toNat)
    (hlt : ((c.x 1 l).toNat : Int) < 2 ^ 31) :
    semwaitLane c a x ia l = if ((c.x 1 l).toNat : Int) ≤ (counterWord x.s ia).toInt ∧ semQueued x ia = false then
        .done (c.setWord x.s l (a l) ia (BitVec.ofInt 32 ((counterWord x.s ia).toInt - (c.x 1 l).toNat)))
      else .park (c.meetWord x.s ia) (c.x 1 l) := by
  have hzero : ((c.x 1 l).toNat : Int) ≠ 0 := by omega
  simp only [semwaitLane, Int.not_lt.2 h, hs, hzero, Int.not_lt.2 (Int.le_sub_one_of_lt hlt), Bool.false_eq_true, if_false, semQueued,
    Bool.or_eq_false_iff, Bool.and_eq_true, decide_eq_true_eq, Bool.not_eq_true', and_assoc]

end

/-! ### BAR (R180) -/

/-- BAR of lanes that hold no colour, when the wave's loads have returned: the woken lanes go on and the others park. -/
theorem bar_ends (e : Bool) :
    Ends (.bar e) (fun c => (∀ l, c.exec.has l = true → (laneOf c.w l).held = []) ∧ c.w.pend = [])
      (fun c => .done ⟨arrive ((cwaitSat c).lanes.foldl (fun t l => clearSat t c.w.id l) c.s) c (c.exec &&& ~~~cwaitSat c), cwaitSat c, none,
        true, false, fun _ => none⟩) := by
  refine ends_of fun _ => ⟨_, _, rfl, fun c hsh ⟨hheld, hpend⟩ => ?_⟩
  have hfree : (Mask.of fun l => c.exec.has l && !(laneOf c.w l).held.isEmpty) = 0 :=
    Mask.of_eq_zero.2 <| Mask.and_test_eq_false fun l hl => by rw [hheld l hl]; rfl
  simp only [hfree, hpend, ne_eq, not_true_eq_false, if_false, List.isEmpty_nil, Bool.not_true, Bool.false_eq_true]
  exact stepped_of_shape hsh rfl _ _

/-- BAR while a lane holds a colour. -/
theorem bar_traps (e : Bool) :
    Ends (.bar e) (fun c => ∃ l, c.exec.has l = true ∧ (laneOf c.w l).held ≠ [])
      (fun c => .trap c.s (.at .monitorWait (Mask.of fun l => c.exec.has l && !(laneOf c.w l).held.isEmpty) 0 c.r 0)) := by
  refine ends_of fun _ => ⟨_, _, rfl, fun c _ ⟨l, hl, hheld⟩ => if_pos (Mask.of_ne_zero (l := l) ?_)⟩
  rw [hl, List.isEmpty_eq_false_iff.2 hheld]
  rfl

/-! ### CWAIT (R181) -/

theorem foldl_congr_of_mem {α β : Type} {f g : β → α → β} {l : List α} (h : ∀ b, ∀ a ∈ l, f b a = g b a) (b : β) :
    l.foldl f b = l.foldl g b := by
  induction l generalizing b with
  | nil => rfl
  | cons a l ih =>
    rw [List.foldl_cons, List.foldl_cons, h b a List.mem_cons_self]
    exact ih (fun b a ha => h b a (List.mem_cons_of_mem _ ha)) _

theorem filterMap_congr_of_mem {α β : Type} {f g : α → Option β} {l : List α} (h : ∀ a ∈ l, f a = g a) : l.filterMap f = l.filterMap g := by
  induction l with
  | nil => rfl
  | cons a l ih =>
    rw [List.filterMap_cons, List.filterMap_cons, h a List.mem_cons_self, ih fun a ha => h a (List.mem_cons_of_mem _ ha)]

/-- The steps of the lanes depend on what these find alone. -/
theorem stepLanes_congr {c : Ctx} {v u : Lanes Verdict} (h : ∀ l, c.exec.has l = true → v.get l = u.get l) (a : Lane → DWord) (n : Nat)
    (f : Steps → Nat → Lane → Stepped) : stepLanes c v a n f = stepLanes c u a n f :=
  foldl_congr_of_mem (fun x l hl => by simp only [stepLane, h l ((Mask.mem_lanes _ l).1 hl)]) _

theorem stepHomes_congr {c : Ctx} {v u : Lanes Verdict} (h : ∀ l, c.exec.has l = true → v.get l = u.get l) :
    stepHomes c v = stepHomes c u :=
  congrArg distinct (filterMap_congr_of_mem fun l hl => by rw [h l ((Mask.mem_lanes _ l).1 hl)])

/-- What the lanes of a CWAIT find that holds no colour: a woken lane has nothing to ask. -/
def cwaitFinds (c : Ctx) (off : Int) : Lanes Verdict :=
  Lanes.of fun l => if (cwaitSat c).has l then .need 0 else verdictCtl c.s c.w l (c.ptr off 4 l) 4 false

section
variable {c : Ctx} (hheld : ∀ l, c.exec.has l = true → (laneOf c.w l).held = [])
include hheld

theorem cwaitBegun_of_no_colours : cwaitBegun c = false :=
  List.any_eq_false.2 fun l hl => by
    rw [hheld l ((Mask.mem_lanes _ l).1 hl), List.any_nil, Bool.and_false]
    exact Bool.false_ne_true

theorem cwaitMark_of_no_colours : cwaitMark c = 0 :=
  Mask.of_eq_zero.2 fun l => by
    cases hl : c.exec.has l with
    | true => rw [hheld l hl, List.any_nil, Bool.and_false]
    | false => simp only [Bool.false_and]

theorem suspendedOf_of_no_colours {l : Lane} (hl : c.exec.has l = true) : suspendedOf (laneOf c.w l) = none := by
  rw [suspendedOf, hheld l hl, List.find?_nil]

theorem cwaitVerdict_of_no_colours (off : Int) {l : Lane} (hl : c.exec.has l = true) :
    (cwaitVerdict c off).get l = (cwaitFinds c off).get l := by
  simp only [cwaitVerdict, cwaitFinds, cwaitSat, Lanes.get_of, Mask.has_of, hl, Bool.true_and, cwaitBegun_of_no_colours hheld,
    Bool.false_eq_true, if_false]

end

/-- A lane that has been woken executes. -/
theorem exec_of_cwaitSat {c : Ctx} {l : Lane} (h : (cwaitSat c).has l = true) : c.exec.has l = true := by
  rw [cwaitSat, Mask.has_of, Bool.and_eq_true] at h
  exact h.1

/-- The checks of a control word never let a lane go on without its word. -/
theorem spotIn_of_verdictWord {s : State} {w : Wave} {a : DWord} {n : Nat} (h : mayDo (verdictWord s w a n) = true) :
    (spotIn (verdictWord s w a n)).isSome = true := by
  unfold verdictWord at h ⊢
  split at h
  next => cases h
  next hAlign =>
    rw [if_neg hAlign]
    cases hp : locate s w.part a with
    | none => rw [hp] at h; cases h
    | some p =>
      simp only [hp] at h ⊢
      iterate 7 (split at h; · cases h)
      simp only [*, if_false]
      rfl

theorem spotIn_of_verdictCtl {s : State} {w : Wave} {l : Lane} {a : DWord} {n : Nat}
    (h : mayDo (verdictCtl s w l a n false) = true) : (spotIn (verdictCtl s w l a n false)).isSome = true :=
  spotIn_of_verdictWord h

theorem mapLanes_zero (w : Wave) (f : Lane → LaneCtx → LaneCtx) : mapLanes w 0 f = w := by
  have h : (Lanes.of fun l => if Mask.has 0 l then f l (w.lanes.get l) else w.lanes.get l) = w.lanes := by
    simp only [show ∀ l, Mask.has 0 l = false from Mask.has_zero, Bool.false_eq_true, if_false]
    exact Lanes.of_get w.lanes
  rw [mapLanes, h]

/-- The steps of a CWAIT whose lanes all stand at their words or have been woken: the woken lanes go on. -/
theorem cwaitSteps_of_passes {c : Ctx} {v u : Lanes Verdict} (a : Lane → DWord)
    (hu : ∀ l, c.exec.has l = true → v.get l = u.get l)
    (h : ∀ l, c.exec.has l = true → (cwaitSat c).has l = false → (spotIn (v.get l)).isSome = true) :
    cwaitSteps c v a (cwaitSat c) =
      let x := stepLanes { c with exec := c.exec &&& ~~~cwaitSat c } u a 4 (cwaitLane c)
      .done ⟨parkLanes ((cwaitSat c).lanes.foldl (fun t l => clearSat t c.w.id l) (if cwaitSat c = 0 then x.s else acquireAt x.s c .dev))
        c.w.id .condition x.parks, cwaitSat c, none, c.sh.ends, false, onward⟩ := by
  have hlost : (Mask.of fun l => c.exec.has l && !(cwaitSat c).has l && (spotIn (v.get l)).isNone) = 0 :=
    Mask.of_eq_zero.2 fun l => by
      cases hl : c.exec.has l with
      | false => rfl
      | true =>
        cases hsat : (cwaitSat c).has l with
        | true => rfl
        | false => rw [Option.isNone_eq_false_iff.2 (h l hl hsat)]; rfl
  have hsteps : stepLanes { c with exec := c.exec &&& ~~~cwaitSat c } v a 4 (cwaitLane c)
      = stepLanes { c with exec := c.exec &&& ~~~cwaitSat c } u a 4 (cwaitLane c) :=
    stepLanes_congr (fun l hl => hu l (by rw [Mask.has_and, Bool.and_eq_true] at hl; exact hl.1)) _ _ _
  have hnone : ∀ s : State, (modWave s c.w.id fun w => mapLanes w 0 fun _ y => { y with waitSat := true }) = s := fun s => by
    simp only [mapLanes_zero, modWave_self]
  simp only [cwaitSteps, hlost, hsteps, hnone]

/-- CWAIT of lanes that hold no colour, of which none fails, once the release has been made and the homes have been heard. -/
theorem cwaitBody_of_passes {c : Ctx} {off : Int}
    (hpass : ∀ l, c.exec.has l = true → (cwaitSat c).has l = false → mayDo ((cwaitFinds c off).get l) = true)
    (hheld : ∀ l, c.exec.has l = true → (laneOf c.w l).held = []) (hrelease : c.w.release = []) (hpend : c.w.pend = [])
    (hrel : cwaitSat c ≠ c.exec → released c.w .dev = true) (hready : homesReady c (cwaitFinds c off) = true)
    (hcount : homesCounted c (cwaitFinds c off) = true) :
    cwaitBody c off =
      let x := stepLanes { c with exec := c.exec &&& ~~~cwaitSat c } (cwaitFinds c off) (c.ptr off 4) 4 (cwaitLane c)
      .done ⟨parkLanes ((cwaitSat c).lanes.foldl (fun t l => clearSat t c.w.id l) (if cwaitSat c = 0 then x.s else acquireAt x.s c .dev))
        c.w.id .condition x.parks, cwaitSat c, none, c.sh.ends, false, onward⟩ := by
  have hfinds : ∀ l, c.exec.has l = true → (cwaitVerdict c off).get l = (cwaitFinds c off).get l :=
    fun l hl => cwaitVerdict_of_no_colours hheld off hl
  have hcases : ∀ l, c.exec.has l = true → (cwaitFinds c off).get l = .need 0 ∨ mayDo ((cwaitFinds c off).get l) = true := fun l hl => by
    cases hsat : (cwaitSat c).has l with
    | true => exact .inl (by rw [cwaitFinds, Lanes.get_of, hsat, if_pos rfl])
    | false => exact .inr (hpass l hl hsat)
  have hpoison : poisoned (cwaitVerdict c off) c.exec = none := poisoned_eq_none fun l hl => by
    rw [hfinds l hl]
    rcases hcases l hl with h | h
    · rw [h]; rfl
    · exact poisonIn_of_mayDo h
  have hworst : worst (cwaitVerdict c off) c.exec = none := worst_eq_none fun l hl => by
    rw [hfinds l hl]
    rcases hcases l hl with h | h
    · rw [h]; rfl
    · exact rankIn_of_mayDo h
  have hholds : cwaitHolds c off = false := by
    have hreleased : (decide (c.exec &&& ~~~cwaitSat c ≠ 0) && !released c.w .dev) = false := by
      by_cases hall : cwaitSat c = c.exec
      · rw [hall, BitVec.and_not_self]; rfl
      · rw [hrel hall, Bool.not_true, Bool.and_false]
    have hready' : homesReady c (cwaitVerdict c off) = true := by rw [homesReady, stepHomes_congr hfinds]; exact hready
    have hcount' : homesCounted c (cwaitVerdict c off) = true := by rw [homesCounted, stepHomes_congr hfinds]; exact hcount
    simp only [cwaitHolds, hrelease, hpend, hreleased, hready', hcount', List.isEmpty_nil, Bool.not_true, Bool.or_self, Bool.and_self,
      Bool.and_false]
  have hagain : ((cwaitSat c).lanes.filterMap fun l => (suspendedOf (laneOf c.w l)).map fun h => (l, h.colour, h.depth)) = [] :=
    List.filterMap_eq_nil_iff.2 fun l hl => by
      rw [suspendedOf_of_no_colours hheld (exec_of_cwaitSat ((Mask.mem_lanes _ l).1 hl)), Option.map_none]
  have hthere : ∀ l, c.exec.has l = true → (cwaitSat c).has l = false → (spotIn ((cwaitVerdict c off).get l)).isSome = true := by
    intro l hl hsat
    have hl' := hpass l hl hsat
    rw [hfinds l hl]
    rw [cwaitFinds, Lanes.get_of, if_neg (Bool.eq_false_iff.1 hsat)] at hl' ⊢
    exact spotIn_of_verdictCtl hl'
  simp only [cwaitBody, hpoison, hworst, cwaitMark_of_no_colours hheld, hholds, hagain, ne_eq, not_true_eq_false, if_false, List.isEmpty_nil,
    Bool.not_true, Bool.false_eq_true, cwaitSteps_of_passes _ hfinds hthere]

/-- Settles O27: a semaphore's steps by what the word holds, BAR and CWAIT by the equations of their operations. -/
theorem synchronisation : Obligations.Synchronisation := by
  refine ⟨fun c a x ia l => ?_, fun e => ⟨bar_ends e, bar_traps e⟩, fun e d a o => ?_⟩
  · refine ⟨semaphore_of_negative c a x ia l, semsigLane_of_fits c a x ia l, semsigLane_of_over c a x ia l, semtakeLane_of_holds c a x ia l,
      fun _ => semtakeLane_of_under c a x ia l, fun hy hs hpos hn hq => ?_, fun hy hs hpos hlt hn => ?_, semwaitLane_of_woken c a x ia l⟩
    · have hlt : ((c.x 1 l).toNat : Int) < 2 ^ 31 := Int.lt_of_le_of_lt hn BitVec.toInt_lt
      rw [semwaitLane_of_asks c a x ia l hy hs (Int.natCast_pos.1 hpos) hlt, if_pos ⟨hn, hq⟩]
    · rw [semwaitLane_of_asks c a x ia l hy hs (Int.natCast_pos.1 hpos) hlt, if_neg]
      rintro ⟨hle, hfree⟩
      rcases hn with hn | hq
      · exact absurd hle (Int.not_le.2 hn)
      · exact absurd hq (Bool.eq_false_iff.1 hfree)
  · exact ends_of fun _ => ⟨_, _, rfl, fun c hsh ⟨hpass, hheld, hrelease, hpend, hrel, hready, hcount⟩ =>
      (cwaitBody_of_passes hpass hheld hrelease hpend hrel hready hcount).trans (stepped_of_shape hsh rfl _ _)⟩

end Sys2Proof.Machine
end

section
/-! SUPPORT. Dispatch (R191, R321 to R327): the next group of a launch, the ends of task groups, buckets and the waves they form, and
records that leave the spawn pool. -/
namespace Sys2Proof.Machine

/-! ### GROUP_DISPATCH (R321 to R324) -/

theorem groupDispatch_of_some {s t : State} {d : Nat} (h : dispatchNext s d = some t) : exec (.groupDispatch d) s = .next t := by
  show execGroupDispatch d s = _
  rw [execGroupDispatch, h, Option.getD_some]

/-- A launch queue whose entry at START is a running launch with groups left places the next of them. -/
theorem serveQueue_of_running {s : State} {q : Queue} {l : Launch} {die : Nat} (htask : q.desc.task = false) (hwork : q.start ≠ q.tail)
    (hreplay : replayed s q = none) (hl : (s.launches.find? fun y => y.id = launchId q.n q.start && !y.reported) = some l)
    (hrun : l.state = .running) (hnext : l.next < l.groups) : serveQueue s die q = placeNext s die q l := by
  simp only [serveQueue, hreplay, Option.bind_none, hwork, htask, serveLaunch, hl, hrun, Nat.not_le.2 hnext, if_false,
    Bool.false_eq_true, ne_eq, not_true_eq_false, decide_false, Bool.or_self]

theorem dispatchNext_of_one_queue {s : State} {q : Queue} (hq : s.queues = [q]) (hv : q.desc.v = true) :
    dispatchNext s (q.n % 4) = serveQueue s (q.n % 4) q := by
  have hmine : (s.queues.filter fun x => x.desc.v && x.n % 4 = q.n % 4) = [q] := by
    simp only [hq, List.filter_cons, hv, decide_true, Bool.and_self, if_true, List.filter_nil]
  simp only [dispatchNext, hmine, sortBy, List.foldl_cons, List.foldl_nil, insBy, List.findSome?_singleton]

/-- The wave as it is in a slot: seating gives it its place and what comes with that. -/
def Seated (w v : Wave) : Prop :=
  v = { w with place := v.place, stopped := v.stopped, lastRun := v.lastRun, queues := v.queues }

theorem Seated.refl (w : Wave) : Seated w w := rfl

theorem Seated.trans {w v u : Wave} (h : Seated w v) (k : Seated v u) : Seated w u := by
  unfold Seated at h k ⊢
  rw [k, h]

theorem seatWave_seats (s : State) (n die core quad : Nat) {w : Wave} (hw : w ∈ s.waves) :
    ∃ v ∈ (seatWave s n die core quad).waves, Seated w v := by
  refine ⟨_, List.mem_map_of_mem hw, ?_⟩
  split
  · rfl
  · exact .refl w

/-- Waves put into slots one after another. -/
theorem seatWaves_seat (die core : Nat) (ws : List Wave) {s : State} {w : Wave} (hw : w ∈ s.waves) :
    ∃ v ∈ (ws.foldl (fun t x => seatWave t x.id die core (quadOf x.index.toNat)) s).waves, Seated w v := by
  induction ws generalizing s w with
  | nil => exact ⟨w, hw, .refl w⟩
  | cons x ws ih =>
    obtain ⟨v, hv, hseat⟩ := seatWave_seats s x.id die core (quadOf x.index.toNat) hw
    obtain ⟨u, hu, hseat'⟩ := ih hv
    exact ⟨u, hu, hseat.trans hseat'⟩

theorem seatWaves_groups (die core : Nat) (ws : List Wave) (s : State) :
    (ws.foldl (fun t x => seatWave t x.id die core (quadOf x.index.toNat)) s).groups = s.groups := by
  induction ws generalizing s with
  | nil => rfl
  | cons x ws ih => exact ih _

/-- Every wave of a group that is placed, and every other, is there afterwards, but for its slot. -/
theorem placeGroup_seats (s : State) (g : Group) {ws : List Wave} (die core : Nat) {w : Wave} (hw : w ∈ ws) :
    ∃ v ∈ (placeGroup s g ws die core).waves, Seated w v :=
  seatWaves_seat _ _ _ (List.mem_append_right _ hw)

/-- A group that is placed stands on its core. -/
theorem mem_placeGroup (s : State) (g : Group) (ws : List Wave) (die core : Nat) :
    { g with place := some (die, core), signal := none, raised := false, context := none } ∈ (placeGroup s g ws die core).groups := by
  rw [placeGroup, seatGroup, seatWaves_groups]
  refine List.mem_map.2 ⟨g, List.mem_append_right _ (List.mem_singleton_self g), ?_⟩
  rw [if_pos rfl]

/-- The next group of a launch, and its waves, before they are placed (R38, R321). -/
def nextGroup (s : State) (l : Launch) : Group :=
  startGroup s.fresh l (lrWaves l.record) (lrAbuf l.record) (lrWbuf l.record) (lrCbuf l.record) false false none 0 (lrBlocks l.record) l.clock
def nextWaves (s : State) (q : Queue) (l : Launch) (ctx : List Nat) : List Wave :=
  groupWaves l s.fresh (lrWaves l.record) (lrBlocks l.record) (recField l.record 256 64) q.desc.pri.toNat ctx (l.record.extractLsb' 0 64)
    (lrWid l.record l.next)

theorem passTurn_groups (s : State) (q : Nat) : (passTurn s q).groups = s.groups := rfl
theorem passTurn_waves (s : State) (q : Nat) : (passTurn s q).waves = s.waves := rfl

/-- A started launch with groups left, contexts free and a core that fits places its next group there. -/
theorem placeNext_of_room {s : State} {die d c : Nat} (q : Queue) {l : Launch} {p : Part} {ctx : List Nat} (hp : findPart s l.part = some p)
    (hstarted : l.started = true) (hafter : l.after ≤ p.inboundDone) (hnext : l.next < l.groups)
    (hctx : freeContexts s l.id 0 (lrCtxN l.record) (lrWaves l.record) = some ctx)
    (hcore : chooseCore s p (freshNeed (lrWaves l.record) (lrBlocks l.record) (lrAbuf l.record) (lrWbuf l.record) (lrCbuf l.record)) die none
      l.clock = some (d, c)) :
    ∃ t, placeNext s die q l = some t ∧ t.groups = (placeGroup s (nextGroup s l) (nextWaves s q l ctx) d c).groups
      ∧ t.waves = (placeGroup s (nextGroup s l) (nextWaves s q l ctx) d c).waves := by
  simp only [placeNext, hp, hstarted, Nat.not_lt.2 hafter, Nat.not_le.2 hnext, hctx, hcore, decide_false, Bool.not_true, Bool.or_self,
    Bool.false_eq_true, if_false]
  refine ⟨_, rfl, ?_, ?_⟩
  · rw [passTurn_groups]
    split <;> rfl
  · rw [passTurn_waves]
    split <;> rfl

theorem extractLsb'_entry (r : BitVec 1024) : (r.extractLsb' 0 64).extractLsb' 0 48 = r.extractLsb' 0 48 := by
  refine BitVec.eq_of_getLsbD_eq fun i hi => ?_
  simp only [BitVec.getLsbD_extractLsb', hi, Nat.zero_add, show i < 64 by omega, decide_true, Bool.true_and]

/-- Every wave of the next group starts at the entry in all its lanes, with zero registers (R38). -/
theorem nextWaves_start (s : State) (q : Queue) (l : Launch) (ctx : List Nat) {i : Nat} (hi : i < lrWaves l.record) :
    ∃ w ∈ nextWaves s q l ctx, w.group = s.fresh ∧ w.index = BitVec.ofNat 5 i ∧ w.launch = l.id
      ∧ ∀ k, (laneOf w k).state = .live ∧ (laneOf w k).pc = l.record.extractLsb' 0 48 ∧ (laneOf w k).regs = [] := by
  refine ⟨_, List.mem_map_of_mem (List.mem_range.2 hi), rfl, rfl, rfl, fun k => ?_⟩
  have hlane : (Lanes.of fun _ => startLane (l.record.extractLsb' 0 64)).get k = startLane (l.record.extractLsb' 0 64) := Lanes.get_of _ k
  simp only [laneOf, startWave, hlane]
  exact ⟨rfl, extractLsb'_entry l.record, rfl⟩

/-! ### Buckets (R325) -/

theorem coreAt_die (s : State) (die core : Nat) : (coreAt s die core).die = die ∧ (coreAt s die core).core = core := by
  unfold coreAt
  cases h : s.cores.find? fun c => c.die = die && c.core = core with
  | none => exact ⟨rfl, rfl⟩
  | some c => simpa using List.find?_some h

theorem find_putBy {α : Type} {p : α → Bool} {x : α} (hx : p x = true) (l : List α) : (putBy p x l).find? p = some x := by
  unfold putBy
  split
  next h =>
    induction l with
    | nil => cases h
    | cons y l ih =>
      rw [List.map_cons]
      cases hy : p y with
      | true => rw [if_pos rfl, List.find?_cons_of_pos hx]
      | false =>
        rw [if_neg Bool.false_ne_true, List.find?_cons_of_neg (Bool.eq_false_iff.1 hy)]
        exact ih (by rwa [List.any_cons, hy, Bool.false_or] at h)
  next h =>
    rw [List.find?_append, List.find?_eq_none.2 fun y hy hp => h (List.any_eq_true.2 ⟨y, hy, hp⟩), Option.none_or,
      List.find?_cons_of_pos hx]

/-- A core that is changed, and keeps its place, is found as it was changed. -/
theorem coreAt_modCore_self (s : State) {die core : Nat} {f : Core → Core} (hd : (f (coreAt s die core)).die = die)
    (hc : (f (coreAt s die core)).core = core) : coreAt (modCore s die core f) die core = f (coreAt s die core) := by
  have h : (modCore s die core f).cores.find? (fun c => c.die = die && c.core = core) = some (f (coreAt s die core)) :=
    find_putBy (by simp only [hd, hc, decide_true, Bool.and_self]) _
  rw [coreAt, h, Option.getD_some]

theorem modCore_congr (s : State) {die core : Nat} {f g : Core → Core} (h : f (coreAt s die core) = g (coreAt s die core)) :
    modCore s die core f = modCore s die core g := by
  rw [modCore, modCore, h]

/-- A bucket that is not forming yet, and passes the test, starts to form. -/
theorem startForming_of_ready {s : State} {d c n : Nat} {b : Bucket} (hb : (coreAt s d c).buckets[n]? = some b) (hf : b.forming = false)
    {ok : Bucket → Bool} (hok : ok b = true) :
    startForming s d c n ok = modCore s d c fun x => { x with buckets := x.buckets.set n { b with forming := true } } :=
  modCore_congr s (by simp only [hb, hf, hok, Bool.not_false, Bool.and_self, if_true])

/-! ### WAVE_FORM (R187, R325) -/

/-- The lanes of the wave of a bucket: one for each record, and the others exited (R187). -/
def bucketLanes (b : Bucket) : Lanes LaneCtx := Lanes.of fun k => match b.recs[k.val]? with | some r => cloverLane r | none => LaneCtx.empty

theorem cloverGroup_waves (s : State) (l : Launch) (b : Bucket) :
    ∃ w, (cloverGroup s l b).1.waves = s.waves ++ [w] ∧ w.id = s.fresh + 1 ∧ w.launch = l.id ∧ w.blks = 1 ∧ w.spn = true
      ∧ w.lanes = bucketLanes b :=
  ⟨_, rfl, rfl, rfl, rfl, rfl, rfl⟩

theorem findWave_cloverGroup {s : State} (l : Launch) (b : Bucket) (hfresh : ∀ v ∈ s.waves, v.id < s.fresh) :
    ∃ w, findWave (cloverGroup s l b).1 (s.fresh + 1) = some w ∧ w.launch = l.id ∧ w.blks = 1 ∧ w.spn = true ∧ w.lanes = bucketLanes b := by
  obtain ⟨w, hw, hid, hrest⟩ := cloverGroup_waves s l b
  refine ⟨w, ?_, hrest⟩
  have hnone : s.waves.find? (fun v => v.id = s.fresh + 1) = none := List.find?_eq_none.2 fun v hv h => by
    have hlt := hfresh v hv
    have heq : v.id = s.fresh + 1 := of_decide_eq_true h
    omega
  rw [findWave, hw, List.find?_append, hnone, Option.none_or]
  exact List.find?_cons_of_pos (decide_eq_true hid)

/-- A Clover wave is put into a slot of its quadrant, and is otherwise as it was (R326). -/
theorem findWave_seatClover {s : State} {n : Nat} {w : Wave} (hw : findWave s n = some w) (g die core quad : Nat) :
    ∃ y v, findWave (seatClover s n g die core quad) n = some v ∧ v.place = some y ∧ y.die = die ∧ y.core = core ∧ y.quad = quad
      ∧ v.launch = w.launch ∧ v.blks = w.blks ∧ v.spn = w.spn ∧ v.lanes = w.lanes := by
  refine ⟨_, _, findWave_modWave_self _ (fun _ => rfl) hw, rfl, rfl, rfl, rfl, rfl, rfl, rfl, rfl⟩

theorem findWave_waveformRecord (s : State) (w : Wave) (die n : Nat) : findWave (waveformRecord s w die) n = findWave s n := rfl

/-- The wave of a bucket that may form, in its slot. -/
theorem formWave_of_ready {s : State} {d c n q : Nat} {b : Bucket} {l : Launch} {p : Part} (hb : (coreAt s d c).buckets[n]? = some b)
    (hf : b.forming = true) (hl : findLaunch s b.launch = some l) (hp : findPart s l.part = some p) (hmem : (d, c) ∈ coresOf p)
    (hstart : startReady s d b.clock = true) (hq : cloverQuad s d c = some q) (hfresh : ∀ v ∈ s.waves, v.id < s.fresh) :
    ∃ t w, formWave s d c n = some t ∧ findWave t (s.fresh + 1) = some w ∧ w.launch = l.id ∧ w.blks = 1 ∧ w.spn = true
      ∧ (∃ y, w.place = some y ∧ y.die = d ∧ y.core = c ∧ y.quad = q) ∧ w.lanes = bucketLanes b := by
  obtain ⟨w, hw, hlaunch, hblks, hspn, hlanes⟩ := findWave_cloverGroup (s := takeBucket s d c n) l b hfresh
  obtain ⟨y, v, hv, hplace, hdie, hcore, hquad, hvlaunch, hvblks, hvspn, hvlanes⟩ := findWave_seatClover hw s.fresh d c q
  have hseated : findWave (seatClover (cloverGroup (takeBucket s d c n) l b).1 (s.fresh + 1) s.fresh d c q) (s.fresh + 1) = some v := hv
  have hform : formWave s d c n
      = some (waveformRecord (seatClover (cloverGroup (takeBucket s d c n) l b).1 (s.fresh + 1) s.fresh d c q) v d) := by
    simp only [formWave, hb, hl, hp, hf, List.contains_iff_mem.2 hmem, hstart, hq, Bool.not_true, Bool.or_self, Bool.false_eq_true, if_false]
    exact congrArg some (by rw [show (cloverGroup (takeBucket s d c n) l b).2 = s.fresh from rfl, hseated])
  exact ⟨_, v, hform, hv, hvlaunch.trans hlaunch, hvblks.trans hblks, hvspn.trans hspn, ⟨y, hplace, hdie, hcore, hquad⟩, hvlanes.trans hlanes⟩

theorem waveForm_of_some {s t : State} {d c n : Nat} (h : formWave s d c n = some t) : exec (.waveForm d c n) s = .next t := by
  show execWaveForm d c n s = _
  rw [execWaveForm, h, Option.getD_some]

theorem bucketLanes_state (b : Bucket) (k : Lane) : ((bucketLanes b).get k).state = if k.val < b.recs.length then .live else .exited := by
  rw [bucketLanes, Lanes.get_of]
  split
  next r hr => rw [if_pos (List.getElem?_eq_some_iff.1 hr).1]; rfl
  next hr => rw [if_neg (Nat.not_lt.2 (List.getElem?_eq_none_iff.1 hr))]; rfl

/-- A lane of a record starts at its entry, with its serial and its payload (R38, R187). -/
theorem bucketLanes_record {b : Bucket} {k : Lane} {r : BitVec 512} (hr : b.recs[k.val]? = some r) :
    ((bucketLanes b).get k).pc = (srEntry r).extractLsb' 0 48 ∧ ((bucketLanes b).get k).serial = srSerial r
      ∧ ∀ j, j < 4 → spGet ((bucketLanes b).get k).regs j = srPayload r j := by
  have hlane : (bucketLanes b).get k = cloverLane r := by rw [bucketLanes, Lanes.get_of, hr]
  rw [hlane]
  refine ⟨rfl, rfl, fun j hj => ?_⟩
  simp only [cloverLane, List.range_succ, List.range_zero, List.nil_append, List.foldl_append, List.foldl_cons, List.foldl_nil, spGet_spSet]
  obtain rfl | rfl | rfl | rfl : j = 0 ∨ j = 1 ∨ j = 2 ∨ j = 3 := by omega
  all_goals rfl

/-! ### POOL_RECORD_MOVE (R327) -/

/-- A gatherer that has room for a record holds it after (R186). -/
theorem mem_bucketInsert (launch entry : DWord) (pri : BitVec 3) (clock : Clock) (r : BitVec 512) (l : List Bucket) :
    ∃ b ∈ bucketInsert launch entry pri clock r l, b.launch = launch ∧ r ∈ b.recs := by
  induction l with
  | nil => exact ⟨_, List.mem_singleton_self _, rfl, List.mem_singleton_self r⟩
  | cons b l ih =>
    rw [bucketInsert]
    split
    next h =>
      have hlaunch : b.launch = launch := by simp only [Bool.and_eq_true, decide_eq_true_eq] at h; exact h.1.1.1
      exact ⟨_, List.mem_cons_self, hlaunch, List.mem_append_right _ (List.mem_singleton_self r)⟩
    next =>
      obtain ⟨b', hb', h⟩ := ih
      exact ⟨b', List.mem_cons_of_mem _ hb', h⟩

/-- The gatherer of a core receives the record of a running launch, and holds it then. -/
theorem gather_of_running {s : State} {l : Launch} {id : DWord} (hl : findLaunch s id = some l) (hrun : l.state = .running) (d c : Nat)
    (pri : BitVec 3) (clock : Clock) (r : BitVec 512) :
    ∃ b ∈ (coreAt (gather s d c id pri clock r) d c).buckets, b.launch = id ∧ r ∈ b.recs := by
  have hgather : gather s d c id pri clock r
      = modCore s d c fun x => { x with buckets := bucketInsert id (srEntry r) pri clock r x.buckets } := by
    simp only [gather, hl, Option.any_some, hrun, ne_eq, not_true_eq_false, decide_false, Bool.false_eq_true, if_false]
  obtain ⟨hd, hc⟩ := coreAt_die s d c
  rw [hgather, coreAt_modCore_self s (f := fun x => { x with buckets := bucketInsert id (srEntry r) pri clock r x.buckets }) hd hc]
  exact mem_bucketInsert ..

theorem gather_keeps (s : State) (d c : Nat) (id : DWord) (pri : BitVec 3) (clock : Clock) (r : BitVec 512) :
    (gather s d c id pri clock r).mem = s.mem ∧ (gather s d c id pri clock r).launches = s.launches := by
  unfold gather
  split <;> exact ⟨rfl, rfl⟩

/-- A launch of which a bucket holds a record is not complete (R321). -/
theorem settleLaunch_of_bucket {s : State} {id : DWord} {d c : Nat} {b : Bucket} (hb : b ∈ (coreAt s d c).buckets) (hl : b.launch = id) :
    settleLaunch s id = s := by
  have hcore : (s.cores.all fun c => c.buckets.all fun b => b.launch ≠ id) = false := by
    refine Bool.eq_false_iff.2 fun hall => ?_
    unfold coreAt at hb
    cases hf : s.cores.find? fun x => x.die = d && x.core = c with
    | none => rw [hf] at hb; cases hb
    | some x =>
      rw [hf] at hb
      exact of_decide_eq_true (List.all_eq_true.1 (List.all_eq_true.1 hall x (List.mem_of_find?_eq_some hf)) b hb) hl
  unfold settleLaunch
  split
  · rfl
  · simp only [hcore, Bool.and_false, Bool.false_and, Bool.false_eq_true, if_false]

/-- A launch whose oldest pool record has gone. -/
def popPool (l : Launch) : Launch := { l with poolHead := l.poolHead + 1, poolClocks := l.poolClocks.drop 1 }

/-- The state in which a gatherer has received record r, the oldest of a launch's pool. -/
def poolMoved (s : State) (l : Launch) (id : DWord) (d c : Nat) (r : BitVec 512) : State :=
  modLaunch (gather s d c id (parentPri s l r) (l.poolClocks.head?.getD Clock.zero) r) id popPool

theorem poolMoved_keeps (s : State) (l : Launch) (id : DWord) (d c : Nat) (r : BitVec 512) :
    (poolMoved s l id d c r).mem = s.mem
      ∧ (poolMoved s l id d c r).launches = s.launches.map fun x => if x.id = id then popPool x else x := by
  obtain ⟨hmem, hlaunches⟩ := gather_keeps s d c id (parentPri s l r) (l.poolClocks.head?.getD Clock.zero) r
  exact ⟨hmem, congrArg (List.map _) hlaunches⟩

/-- The oldest record of a running launch's pool goes to a gatherer with room. -/
theorem movePool_of_room {s : State} {l : Launch} {p : Part} {id : DWord} {ia d c : Nat} (hl : findLaunch s id = some l)
    (hp : findPart s l.part = some p) (hia : poolIa s l l.poolHead = some ia) (hrun : l.state = .running) (hne : l.poolHead ≠ l.poolTail)
    (hmem : (d, c) ∈ coresOf p) (hroom : gathererRoom (coreAt s d c) id (srEntry (BitVec.ofNat 512 (homeRead s ia 64))) = true)
    (hclean : memPoisoned s ia 64 = false) (hok : srOk (BitVec.ofNat 512 (homeRead s ia 64)) = true) :
    movePool s id d c = some (poolMoved s l id d c (BitVec.ofNat 512 (homeRead s ia 64))) := by
  obtain ⟨b, hb, hlaunch, -⟩ := gather_of_running hl hrun d c (parentPri s l (BitVec.ofNat 512 (homeRead s ia 64)))
    (l.poolClocks.head?.getD Clock.zero) (BitVec.ofNat 512 (homeRead s ia 64))
  have hsettle : settleLaunch (poolMoved s l id d c (BitVec.ofNat 512 (homeRead s ia 64))) id
      = poolMoved s l id d c (BitVec.ofNat 512 (homeRead s ia 64)) := settleLaunch_of_bucket hb hlaunch
  simp only [movePool, hl, hp, hia, hrun, hne, List.contains_iff_mem.2 hmem, hroom, hclean, hok, ne_eq, not_true_eq_false, decide_false,
    Bool.not_true, Bool.or_self, Bool.false_eq_true, if_false, if_true]
  exact congrArg some hsettle

theorem poolRecordMove_of_some {s t : State} {id : DWord} {d c : Nat} (h : movePool s id d c = some t) :
    exec (.poolRecordMove id d c) s = .next t := by
  show execPoolRecordMove id d c s = _
  rw [execPoolRecordMove, h, Option.getD_some]

/-! ### Tenants of partitions

What a control word's step at its home leaves of the partitions: their counters and undo logs move on, their tenants stay. -/

/-- Every partition has the tenant it had. -/
def KeepsTenants (s t : State) : Prop := ∀ n, tenantOf t n = tenantOf s n

theorem KeepsTenants.of_parts {s t : State} (h : t.parts = s.parts) : KeepsTenants s t := fun n => by
  rw [tenantOf, tenantOf, findPart, findPart, h]
theorem KeepsTenants.refl (s : State) : KeepsTenants s s := .of_parts rfl
theorem KeepsTenants.trans {s t u : State} (h : KeepsTenants s t) (k : KeepsTenants t u) : KeepsTenants s u :=
  fun n => (k n).trans (h n)

theorem modPart_keepsTenants (s : State) (n : Nat) {f : Part → Part} (hn : ∀ p, (f p).n = p.n) (hd : ∀ p, (f p).desc = p.desc) :
    KeepsTenants s (modPart s n f) := fun k => by
  have hfind : findPart (modPart s n f) k = (findPart s k).map fun p => if p.n = n then f p else p := by
    rw [findPart, modPart_parts, List.find?_map]
    congr 2
    funext p
    simp only [Function.comp]
    split
    · rw [hn]
    · rfl
  unfold tenantOf
  rw [hfind]
  cases findPart s k with
  | none => rfl
  | some p =>
    rw [Option.map_some]
    dsimp only
    split
    · rw [hd]
    · rfl

theorem markPage_parts (s : State) (g : Page) (write : Bool) : (markPage s g write).parts = s.parts := by
  unfold markPage
  split <;> rfl

theorem pacTouch_parts (s : State) (die core ia : Nat) (mark : Option Bool) : (pacTouch s die core ia mark).parts = s.parts := by
  unfold pacTouch
  split
  · rfl
  · dsimp only
    split
    · rfl
    · split
      · rfl
      · exact markPage_parts ..

theorem waveAccess_parts (s : State) (w : Wave) (ia : Nat) (write : Bool) : (waveAccess s w ia write).parts = s.parts := by
  unfold waveAccess
  split
  · exact pacTouch_parts ..
  · unfold markAccessed
    split
    · rfl
    · exact markPage_parts ..

theorem waveDrop_parts (s : State) (w : Wave) (line : Nat) : (waveDrop s w line).parts = s.parts := by
  unfold waveDrop
  split <;> rfl

theorem markDirty_parts (s : State) (launch : DWord) (g : Page) (ia : Nat) : (markDirty s launch g ia).parts = s.parts := by
  unfold markDirty
  split
  · rfl
  · split
    · rfl
    · dsimp only
      split
      · rfl
      · split <;> rfl

theorem underKey_parts (s : State) (key a : Nat) : (underKey s key a).parts = s.parts := by
  unfold underKey
  split
  · split <;> rfl
  · rfl

theorem beforeWrite_keepsTenants (s : State) (launch : DWord) (g : Page) (ia : Nat) : KeepsTenants s (beforeWrite s launch g ia) := by
  have hlog : KeepsTenants s (logLine s g.owner.n (physIn g ia)) := by
    refine modPart_keepsTenants s _ (fun p => ?_) (fun p => ?_) <;> split <;> rfl
  exact hlog.trans (.of_parts ((underKey_parts ..).trans (markDirty_parts ..)))

theorem homeWrite_keepsTenants (s : State) (launch : DWord) (ia : Nat) (bs : List Byte) : KeepsTenants s (homeWrite s launch ia bs) := by
  unfold homeWrite
  split
  · exact .refl s
  · split
    · exact .refl s
    · exact (beforeWrite_keepsTenants s launch _ ia).trans (.of_parts rfl)

theorem llcSeat_parts (s : State) (b : LlcBlock) (line tenant : Nat) : (llcSeat s b line tenant).parts = s.parts := by
  unfold llcSeat
  split <;> rfl

theorem llcPut_parts (s : State) (die line tenant : Nat) (x : LlcLine) : (llcPut s die line tenant x).parts = s.parts := by
  unfold llcPut
  dsimp only
  split
  · split
    · exact llcSeat_parts ..
    · rfl
  · exact llcSeat_parts ..

theorem llcMeet_parts (s : State) (tenant die line : Nat) (write : Bool) : (llcMeet s tenant die line write).parts = s.parts := by
  unfold llcMeet
  split
  · dsimp only
    split
    · exact llcPut_parts ..
    · rfl
  · split
    · exact llcPut_parts ..
    · rfl

theorem modDieCounters_keepsTenants (s : State) (part die : Nat) (f : DieCounters → DieCounters) :
    KeepsTenants s (modDieCounters s part die f) :=
  modPart_keepsTenants s part (fun _ => rfl) fun _ => rfl

theorem homeTouch_keepsTenants (s : State) (part line : Nat) (write : Bool) : KeepsTenants s (homeTouch s part line write) := by
  unfold homeTouch llcTouch
  exact (modDieCounters_keepsTenants s part _ _).trans (.of_parts (llcMeet_parts ..))

theorem applyReplica_parts (s : State) (f : Flight) (d : Nat) : (applyReplica s f d).parts = s.parts := by
  unfold applyReplica
  split
  next bs _ _ _ _ _ _ =>
    split
    · rfl
    · refine List.foldlRecOn (motive := fun t : State => t.parts = s.parts) _ _ rfl fun t ht k _ => ?_
      split <;> exact ht
  next => rfl

theorem applyWrite_parts (s : State) (n d : Nat) : (applyWrite s n d).parts = s.parts := by
  unfold applyWrite
  split
  · rfl
  · split
    · rfl
    · dsimp only
      rw [dropFlights_parts, modFlight_parts]
      split
      · split
        · split <;> exact applyReplica_parts ..
        · rw [modDie_parts]
          split <;> exact applyReplica_parts ..
      · split <;> exact applyReplica_parts ..

theorem catchUp_parts (s : State) (d : Nat) : (catchUp s d).parts = s.parts :=
  List.foldlRecOn (motive := fun t : State => t.parts = s.parts) _ _ rfl fun t ht n _ => (applyWrite_parts t n d).trans ht

theorem announce_parts (s : State) (f : Flight) : (announce s f).parts = s.parts := by
  unfold announce
  split
  · rfl
  · split <;> rfl

theorem placeWrite_parts (s : State) (o : Nat) (f : Flight) : (placeWrite s o f).parts = s.parts := by
  unfold placeWrite
  dsimp only
  split
  · split
    · rw [announce_parts]
    · rfl
  · split <;> exact catchUp_parts s (homeDie f.ia)

theorem counterWrite_keepsTenants (s : State) (o : Nat) (w : Wave) (l : Lane) (pc : Pc) (exec : Mask) (ptr : DWord) (ia : Nat) (x : Word) :
    KeepsTenants s (counterWrite s o w l pc exec ptr ia x) := by
  have haccess : KeepsTenants s (waveAccess s w ia true) := .of_parts (waveAccess_parts ..)
  have hwrite := haccess.trans (homeWrite_keepsTenants _ w.launch ia (bytesOf x.toNat 4))
  have hdrop := hwrite.trans (.of_parts (waveDrop_parts _ w (ia / 64)))
  exact (hdrop.trans (homeTouch_keepsTenants _ w.part (ia / 64) true)).trans (.of_parts (placeWrite_parts ..))

/-! ### TASK_GROUP_FINISH (R191) -/

theorem exec_taskGroupFinish (n : Nat) (s : State) : exec (.taskGroupFinish n) s = .next ((finishTask s n).getD s) := rfl

theorem taskGroupFinish_of_some {s t : State} {n : Nat} (h : finishTask s n = some t) : exec (.taskGroupFinish n) s = .next t := by
  rw [exec_taskGroupFinish, h, Option.getD_some]

/-- A successor's record appended to a queue by a group, which leaves then. -/
def successorAppended (s : State) (g : Group) (q : Queue) (x : Nat) : State :=
  removeGroup (modGroup (appendTask s q g.launch x (finishPlace g 0)) g.id fun z => { z with appending := none }) g.id

theorem appendSuccessor_of_queue {s : State} {g : Group} {n x : Nat} {q : Queue} (hq : taskQueue s n (tenantOf s g.part) = some q) :
    appendSuccessor s g n x = if queueFull q then none else some (successorAppended s g q x) := by
  simp only [appendSuccessor, hq]
  rfl

/-- The state in which the count of a group's successor at p stands at n, and the waiters that reaches are woken. -/
def successorCounted (s : State) (g : Group) (w : Wave) (p : Spot) (n : Word) : State :=
  wakeJoins (counterWrite s (finishPlace g p.ia).1 w 0 exitedPc 0 g.succ p.ia n) p.ia

theorem successorCounted_keepsTenants (s : State) (g : Group) (w : Wave) (p : Spot) (n : Word) :
    KeepsTenants s (successorCounted s g w p n) :=
  (counterWrite_keepsTenants s (finishPlace g p.ia).1 w 0 exitedPc 0 g.succ p.ia n).trans (.of_parts rfl)

/-- Appends by groups of the group's die that wait for room (R316). -/
def appendsWaiting (s : State) (g : Group) : Nat :=
  (s.groups.filter fun y => y.appending.isSome && (y.place.map (·.1)) = (g.place.map (·.1))).length

section
variable {s : State} {g : Group} {w : Wave} {p r : Spot} (hw : lastWave s g.id = some w) (hp : verdictWord s w g.succ 4 = .ok p)
  (hr : verdictWord s w (g.succ + 64) 64 = .ok r) (hclock : clockCounts (clockOf s (homeDie p.ia)) (clockOf s (finishPlace g p.ia).1) = true)
  (hroom : appendsWaiting s g < 256)
include hw hp hr hclock hroom

/-- A successor with predecessors still to finish. -/
theorem decrementSuccessor_of_more {n : Word} (hcount : counterWord s p.ia = n + 1) (hn : n ≠ 0) :
    decrementSuccessor s g = some (removeGroup (successorCounted s g w p n) g.id) := by
  have hsub : n + 1 - 1 = n := BitVec.add_sub_cancel n 1
  have hroom' := Nat.not_le.2 hroom
  unfold appendsWaiting at hroom'
  simp only [decrementSuccessor, hw, hp, hr, hclock, hroom', hcount, hsub, hn, Bool.not_true, decide_false, Bool.or_self, Bool.false_eq_true,
    if_false, ne_eq, not_false_eq_true, if_true]
  rfl

/-- The queue that a successor's block names, and its record (R191). -/
def successorQueue (s : State) (p : Spot) : Nat := bitsOf (homeRead s p.ia 64) 32 12
def successorRecord (s : State) (r : Spot) : Nat := homeRead s r.ia 64

/-- Do the block and the record of a successor keep their maps (R190, R191)? -/
def SuccessorOk (s : State) (p r : Spot) (l : Launch) : Prop :=
  bitsOf (homeRead s p.ia 64) 44 468 = 0 ∧ trOk (widB1 (lrWidf l.record)) (successorRecord s r) = true

/-- A finished group with its successor's record to append. -/
def appendingGroup (s : State) (g : Group) (p r : Spot) : Group :=
  { g with succ := 0, appending := some (successorQueue s p, successorRecord s r) }

section
variable (hcount : counterWord s p.ia = 1) {l : Launch} (hl : findLaunch s g.launch = some l)
  (hclean : memPoisoned (successorCounted s g w p 0) p.ia 64 = false) (hclean' : memPoisoned (successorCounted s g w p 0) r.ia 64 = false)
include hcount hl hclean hclean'

/-- A successor whose last predecessor has finished, in words that hold no error: the tests of its record and its queue. -/
theorem decrementSuccessor_of_last :
    decrementSuccessor s g =
      let t := successorCounted s g w p 0
      let u := modGroup t g.id fun _ => appendingGroup t g p r
      if bitsOf (homeRead t p.ia 64) 44 468 ≠ 0 || !trOk (widB1 (lrWidf l.record)) (successorRecord t r) then some (successorFault t g .engine)
      else if (taskQueue t (successorQueue t p) (tenantOf s g.part)).isNone then some (successorFault t g .engine)
      else some ((appendSuccessor u (appendingGroup t g p r) (successorQueue t p) (successorRecord t r)).getD u) := by
  have hroom' := Nat.not_le.2 hroom
  unfold appendsWaiting at hroom'
  unfold successorCounted at hclean hclean'
  have hzero : (1 : Word) - 1 = 0 := rfl
  simp only [decrementSuccessor, hw, hp, hr, hclock, hroom', hcount, hzero, hl, hclean, hclean', Bool.not_true, decide_false, Bool.or_self,
    Bool.false_eq_true, if_false, ne_eq, not_true_eq_false]
  rfl

/-- A record or a queue that fails its test faults the launch (R191). -/
theorem decrementSuccessor_of_bad
    (hbad : ¬ SuccessorOk (successorCounted s g w p 0) p r l
      ∨ taskQueue (successorCounted s g w p 0) (successorQueue (successorCounted s g w p 0) p) (tenantOf s g.part) = none) :
    decrementSuccessor s g = some (successorFault (successorCounted s g w p 0) g .engine) := by
  rw [decrementSuccessor_of_last hw hp hr hclock hroom hcount hl hclean hclean']
  dsimp only
  split
  next => rfl
  next hmap =>
    rw [Bool.or_eq_true, not_or, decide_eq_true_eq, Classical.not_not, Bool.not_eq_true', Bool.not_eq_false] at hmap
    rw [hbad.resolve_left (not_not_intro hmap), Option.isNone_none, if_pos rfl]

/-- A record that keeps its map is appended to its queue, or waits while that is full (R191, R316). -/
theorem decrementSuccessor_of_queue (hok : SuccessorOk (successorCounted s g w p 0) p r l) {q : Queue}
    (hq : taskQueue (successorCounted s g w p 0) (successorQueue (successorCounted s g w p 0) p) (tenantOf s g.part) = some q) :
    decrementSuccessor s g =
      let t := successorCounted s g w p 0
      let u := modGroup t g.id fun _ => appendingGroup t g p r
      some (if queueFull q then u else successorAppended u g q (successorRecord t r)) := by
  obtain ⟨hblock, hrecord⟩ := hok
  have hq' : taskQueue (modGroup (successorCounted s g w p 0) g.id fun _ => appendingGroup (successorCounted s g w p 0) g p r)
      (successorQueue (successorCounted s g w p 0) p)
      (tenantOf (modGroup (successorCounted s g w p 0) g.id fun _ => appendingGroup (successorCounted s g w p 0) g p r)
        (appendingGroup (successorCounted s g w p 0) g p r).part) = some q := by
    rw [← hq, ← successorCounted_keepsTenants s g w p 0 g.part]
    rfl
  rw [decrementSuccessor_of_last hw hp hr hclock hroom hcount hl hclean hclean']
  simp only [hblock, hrecord, hq, appendSuccessor_of_queue hq', ne_eq, not_true_eq_false, decide_false, Bool.not_true, Bool.or_self,
    Bool.false_eq_true, if_false, Option.isNone_some]
  split <;> rfl

end

end

/-- A finished task group with a successor, of which no append waits, decrements its successor (R191). -/
theorem finishTask_of_finished {s : State} {g : Group} (hg : findGroup s g.id = some g) (hfin : g.finished = true) (htask : g.task = true)
    (hsucc : g.succ ≠ 0) (happ : g.appending = none) : finishTask s g.id = decrementSuccessor s g := by
  simp only [finishTask, hg, happ, hfin, htask, hsucc, ne_eq, not_false_eq_true, decide_true, Bool.and_self, if_true]

theorem finishTask_of_appending {s : State} {g : Group} {n x : Nat} (hg : findGroup s g.id = some g) (happ : g.appending = some (n, x)) :
    finishTask s g.id = appendSuccessor s g n x := by
  simp only [finishTask, hg, happ]

/-! ### The statement -/

/-- Settles O42, event by event. -/
theorem dispatching : Obligations.Dispatching := by
  intro s
  refine ⟨?dispatch, ?launch, ?place, ?finish, ?more, ?last, ?append, ?buckets, ?form, ?pool⟩
  case dispatch => exact fun d t => groupDispatch_of_some
  case launch =>
    intro q l t hq hv htask hwork hreplay hl hrun hnext ht
    rw [dispatchNext_of_one_queue hq hv, serveQueue_of_running htask hwork hreplay hl hrun hnext, ht]
  case place =>
    intro die q l p ctx d c hp hstarted hafter hnext hctx hcore
    obtain ⟨t, ht, hgroups, hwaves⟩ := placeNext_of_room q hp hstarted hafter hnext hctx hcore
    refine ⟨t, _, ht, hgroups ▸ mem_placeGroup s (nextGroup s l) (nextWaves s q l ctx) d c, rfl, rfl, rfl, rfl, fun i hi => ?_⟩
    obtain ⟨w, hw, hgroup, hindex, hlaunch, hlanes⟩ := nextWaves_start s q l ctx hi
    obtain ⟨v, hv, hseat⟩ := placeGroup_seats s (nextGroup s l) d c hw
    rw [← hwaves] at hv
    refine ⟨v, hv, ?_⟩
    rw [hseat]
    exact ⟨hgroup, hindex, hlaunch, hlanes⟩
  case finish => exact fun x t => taskGroupFinish_of_some
  case more =>
    intro g w p r n hg hfin htask hsucc happ hw hp hr hclock hroom hcount hn
    refine taskGroupFinish_of_some ?_
    rw [finishTask_of_finished hg hfin htask hsucc happ, decrementSuccessor_of_more hw hp hr hclock hroom hcount hn]
    rfl
  case last =>
    intro g w p r l hg hfin htask hsucc happ hw hp hr hclock hroom hcount hl
    refine fun hclean hclean' => ⟨fun q hok hq => taskGroupFinish_of_some ?_, fun hbad => taskGroupFinish_of_some ?_⟩
    · rw [finishTask_of_finished hg hfin htask hsucc happ]
      exact decrementSuccessor_of_queue hw hp hr hclock hroom hcount hl hclean hclean' hok hq
    · rw [finishTask_of_finished hg hfin htask hsucc happ]
      exact decrementSuccessor_of_bad hw hp hr hclock hroom hcount hl hclean hclean' hbad
  case append =>
    intro g n x q hg happ hq
    rw [exec_taskGroupFinish, finishTask_of_appending hg happ, appendSuccessor_of_queue hq]
    split <;> rfl
  case buckets =>
    intro d c n b hb hf
    refine ⟨fun hfull => ?_, fun hrecs => ?_⟩
    · exact congrArg Host.Outcome.next (startForming_of_ready hb hf (decide_eq_true hfull))
    · exact congrArg Host.Outcome.next (startForming_of_ready hb hf (by rw [List.isEmpty_eq_false_iff.2 hrecs]; rfl))
  case form =>
    intro d c n b l p q hb hf hl hp hmem hstart hq hfresh
    obtain ⟨t, w, ht, hw, hlaunch, hblks, hspn, hplace, hlanes⟩ := formWave_of_ready hb hf hl hp hmem hstart hq hfresh
    refine ⟨t, w, waveForm_of_some ht, hw, hlaunch, hblks, hspn, hplace, fun k => ?_⟩
    rw [laneOf, hlanes]
    exact ⟨bucketLanes_state b k, fun r => bucketLanes_record⟩
  case pool =>
    intro l p ia d c hl hp hia hrun hne hmem hroom hclean hok
    obtain ⟨b, hb, hheld⟩ := gather_of_running hl hrun d c (parentPri s l (BitVec.ofNat 512 (homeRead s ia 64)))
      (l.poolClocks.head?.getD Clock.zero) (BitVec.ofNat 512 (homeRead s ia 64))
    obtain ⟨hmemory, hlaunches⟩ := poolMoved_keeps s l l.id d c (BitVec.ofNat 512 (homeRead s ia 64))
    exact ⟨_, poolRecordMove_of_some (movePool_of_room hl hp hia hrun hne hmem hroom hclean hok), hmemory, hlaunches,
      b, hb, hheld⟩

end Sys2Proof.Machine
end


section
/-! SUPPORT. The tiles of a group (R194 to R199): what a change of one tile leaves of the groups and of the rest of the state. -/
namespace Sys2Proof.Machine

/-! ### Changes of tiles -/

/-- The groups alone are new, and of each of them the tiles alone. -/
structure TilesOnly (s t : State) : Prop where
  rest : t = { s with groups := t.groups }
  group : ∀ n h, findGroup t n = some h → ∃ g, findGroup s n = some g ∧ h = { g with tiles := h.tiles }

theorem TilesOnly.refl (s : State) : TilesOnly s s := ⟨rfl, fun _ h hh => ⟨h, hh, rfl⟩⟩

theorem TilesOnly.trans {s t u : State} (h : TilesOnly s t) (k : TilesOnly t u) : TilesOnly s u := by
  refine ⟨?_, fun n y hy => ?_⟩
  · have hk := k.rest
    rw [h.rest] at hk
    exact hk
  · obtain ⟨z, hz, hyz⟩ := k.group n y hy
    obtain ⟨g, hg, hzg⟩ := h.group n z hz
    exact ⟨g, hg, by rw [hyz, hzg]⟩

theorem TilesOnly.mem {s t : State} (h : TilesOnly s t) : t.mem = s.mem := by rw [h.rest]
theorem TilesOnly.waves {s t : State} (h : TilesOnly s t) : t.waves = s.waves := by rw [h.rest]
theorem TilesOnly.ranges {s t : State} (h : TilesOnly s t) : t.ranges = s.ranges := by rw [h.rest]

theorem modTile_tilesOnly (s : State) (g : Nat) (n : Fin 64) (f : Tile → Tile) : TilesOnly s (modTile s g n f) := by
  refine ⟨rfl, fun k h hh => ?_⟩
  rw [modTile, findGroup_modGroup s g k (fun x => { x with tiles := x.tiles.map fun t => if t.n = n then f t else t }) fun _ => rfl,
    Option.map_eq_some_iff] at hh
  obtain ⟨y, hy, rfl⟩ := hh
  refine ⟨y, hy, ?_⟩
  split <;> rfl

theorem setTile_tilesOnly (s : State) (g : Nat) (n : Fin 64) (st : TileState) : TilesOnly s (setTile s g n st) := modTile_tilesOnly ..
theorem busyTile_tilesOnly (s : State) (g : Nat) (n : Fin 64) : TilesOnly s (busyTile s g n) := modTile_tilesOnly ..
theorem idleTile_tilesOnly (s : State) (g : Nat) (n : Fin 64) : TilesOnly s (idleTile s g n) := modTile_tilesOnly ..

theorem freeHeld_tilesOnly (s : State) (g : Nat) (c : Command) (fatal : Bool) : TilesOnly s (freeHeld s g c fatal) := by
  unfold freeHeld
  split
  · exact (idleTile_tilesOnly ..).trans (setTile_tilesOnly ..)
  · exact .refl s

end Sys2Proof.Machine
end

section
/-! SUPPORT. The end of an engine command and its completion word (R212, R213, R217), and the probe token of a push that is blocked on a
full completion buffer (R339). -/
namespace Sys2Proof.Machine

/-! ### ENGINE_COMMAND_COMPLETE -/

/-- The completion word as its fields (R217). -/
theorem completionWord_eq (c : Command) : completionWord c
    = c.status.zeroExtend 32 + 16 * c.dmask.zeroExtend 32 + 256 * c.flags.zeroExtend 32 + BitVec.ofNat 32 (65536 * c.tag) := by
  have hfield : ∀ {n : Nat} (x : BitVec n), BitVec.ofNat 32 x.toNat = x.zeroExtend 32 := fun x => BitVec.ofNat_toNat ..
  simp only [completionWord, BitVec.ofNat_add, BitVec.ofNat_mul, hfield]
  rfl

/-- An accepted command that finds room for its word, once the engine's writes are visible, ends. -/
theorem completeCommand_of_accepted {s : State} {w : Wave} {k : Fin 8} {c : Command} {rest : List Command}
    (hw : findWave s w.id = some w) (hcmds : (w.queues.get k).cmds = c :: rest) (hacc : c.state = .accepted)
    (hroom : delivers c = false ∨ completionRoom (w.queues.get k) = true) (hrel : engineReleased s w.id c.die = true) :
    completeCommand s w.id k = endCommand s w k c := by
  have hroom' : (w.finished || !delivers c || completionRoom (w.queues.get k)) = true := by
    rcases hroom with h | h <;> simp only [h, Bool.not_false, Bool.or_true, Bool.true_or]
  simp only [completeCommand, hw, hcmds, hacc, hroom', hrel, Bool.and_self, if_true]

theorem findWave_putQueue_self {s : State} {w : Wave} {k : Fin 8} (f : QReg → QReg) (hw : findWave s w.id = some w) :
    findWave (putQueue s w.id k f) w.id = some { w with queues := w.queues.set k.val (f (w.queues.get k)) k.isLt } :=
  findWave_modWave_self _ (fun _ => rfl) hw

/-- A wave that runs has no husk to release. -/
theorem releaseHusk_of_running {s : State} {n : Nat} {w : Wave} (hw : findWave s n = some w) (hf : w.finished = false) :
    releaseHusk s n = s := by
  simp only [releaseHusk, hw, hf, Bool.not_false, Bool.true_or, if_true]

/-- A group that runs does not leave. -/
theorem reap_of_running {s : State} {n : Nat} (h : ∀ g, findGroup s n = some g → g.finished = false) : reap s n = s := by
  unfold reap
  split
  next => rfl
  next g hg => simp only [h g hg, Bool.false_and, Bool.false_eq_true, if_false]

/-- The completion that a command delivers (R213, R217). -/
def completionOf (w : Wave) (k : Fin 8) (c : Command) : Completion :=
  { word := completionWord c, reported := false, lane := c.lane, pc := c.pc, op := BitVec.ofNat 8 c.op, scope := BitVec.ofNat 3 c.scope
    addr := c.addr, extra := ordinaryFull (w.queues.get k) }

/-- A queue register that its oldest command has left with its completion. -/
def withCompletion (w : Wave) (k : Fin 8) (c : Command) (q : QReg) : QReg :=
  { q with cmds := q.cmds.drop 1, done := q.done ++ [completionOf w k c] }

/-- The ranges and the tile of an ended command are free (R216, R198). -/
def rangesFreed (s : State) (w : Wave) (c : Command) : State :=
  let s1 := { s with ranges := s.ranges.filter fun r => r.cmd ≠ c.id }
  if c.status = 3 || c.status = 10 then s1 else freeHeld s1 w.group c false

theorem rangesFreed_tilesOnly (s : State) (w : Wave) (c : Command) :
    TilesOnly { s with ranges := s.ranges.filter fun r => r.cmd ≠ c.id } (rangesFreed s w c) := by
  unfold rangesFreed
  dsimp only
  split
  · exact .refl _
  · exact freeHeld_tilesOnly ..

/-- The end of a command of a wave and a group that run: its word is pushed, and nothing follows. -/
theorem endCommand_of_running {s : State} {w : Wave} {k : Fin 8} {c : Command} (hw : findWave s w.id = some w) (hf : w.finished = false)
    (hx : allExited w = false) (hd : delivers c = true) (hg : ∀ g, findGroup s w.group = some g → g.finished = false) :
    endCommand s w k c = putQueue (rangesFreed s w c) w.id k (withCompletion w k c) := by
  have htiles := rangesFreed_tilesOnly s w c
  have hwave : findWave (rangesFreed s w c) w.id = some w := by
    rw [findWave, htiles.waves]
    exact hw
  have hput := findWave_putQueue_self (k := k) (withCompletion w k c) hwave
  have hgroup : ∀ h, findGroup (putQueue (rangesFreed s w c) w.id k (withCompletion w k c)) w.group = some h → h.finished = false := by
    intro h hh
    obtain ⟨g, hfound, he⟩ := htiles.group w.group h hh
    rw [he]
    exact hg g hfound
  have hpush : ∀ q : QReg, (if (delivers c && !w.finished) = true then q.done ++ [completionOf w k c] else q.done)
      = q.done ++ [completionOf w k c] := fun q => if_pos (by rw [hd, hf]; rfl)
  have hform : endCommand s w k c = tryFinish (reap (releaseHusk (putQueue (rangesFreed s w c) w.id k (withCompletion w k c)) w.id)
      w.group) w.id := by
    unfold endCommand
    dsimp only
    simp only [← completionOf.eq_1, hpush]
    rfl
  rw [hform, releaseHusk_of_running hput hf, reap_of_running hgroup, tryFinish_of_not_exited hput hx]

/-! ### PROBE_TOKEN (R339) -/

/-- The chain of a push that is blocked on its own completion buffer: the command buffer, its engine stream and the completion buffer. -/
def ownChain (w : Wave) (k : Fin 8) : List (Nat × Nat × Nat) := [(0, w.id, k.val), (2, w.id, k.val), (1, w.id, k.val)]

section
variable {s : State} {w : Wave} {k : Fin 8} (hw : findWave s w.id = some w) (hb : blockedOn s w = some (0, w.id, k.val))

theorem fin_ofNat_val (k : Fin 8) : Fin.ofNat 8 k.val = k := Fin.ext (Nat.mod_eq_of_lt k.isLt)

include hb in
theorem originOf_of_blocked (hf : w.finished = false) : originOf s w k = some (0, w.id, k.val) := by
  simp [originOf, hf, hb]

include hw hb in
theorem tokenPath_of_own_chain (hc : blockedCompletion (w.queues.get k) = true) :
    tokenPath s (0, w.id, k.val) 8 (0, w.id, k.val) = some (ownChain w k) := by
  have h0 : consumerBlocked s (0, w.id, k.val) = [(2, w.id, k.val)] := by simp only [consumerBlocked, hw, fin_ofNat_val, hc, if_true]
  have h2 : consumerBlocked s (2, w.id, k.val) = [(1, w.id, k.val)] := rfl
  have h1 : consumerBlocked s (1, w.id, k.val) = [(0, w.id, k.val)] := by
    simp only [consumerBlocked, hw, Option.bind_some, hb, Option.toList_some]
  simp [tokenPath, h0, h1, h2, ownChain]

include hw hb in
/-- The token of such a push returns with its chain. -/
theorem probe_of_own_chain (hf : w.finished = false) (hc : blockedCompletion (w.queues.get k) = true) :
    probe s w.id k = returnToken s w (ownChain w k) := by
  simp only [probe, hw, originOf_of_blocked hb hf, tokenPath_of_own_chain hw hb hc]

theorem last_ownChain : ((ownChain w k).getLast?).getD (0, 0, 0) = (1, w.id, k.val) := rfl

include hw in
/-- The entries granted for a chain that ends in a completion buffer are those of its queue register. -/
theorem grantsOf_own_chain : grantsOf s (1, w.id, k.val) = (w.queues.get k).emergency := by simp [grantsOf, hw]

include hw in
/-- A token that returns with an entry for its chain still to be consumed traps its wave. -/
theorem returnToken_of_granted {r : Run} (hr : w.run = some r) (h : ownChain w k ∈ (w.queues.get k).emergency) :
    returnToken s w (ownChain w k)
      = enterTrap (emitWave s w 0x0A 2 (execMask w r) r.pc (chainBody s (ownChain w k) 1)) w.id (.at .queueCycle (execMask w r) 0 r 0) := by
  have hin : (grantsOf s (1, w.id, k.val)).contains (chainKey (ownChain w k)) = true := by
    rw [grantsOf_own_chain hw]
    exact List.contains_iff_mem.2 h
  simp only [returnToken, hr, last_ownChain, hin, if_true, queueCycle]

/-- A queue register with an emergency entry for a chain (R339). -/
def withEmergency (key : List (Nat × Nat × Nat)) (q : QReg) : QReg := { q with emergency := q.emergency ++ [key] }

include hw in
/-- A token that returns with no entry for its chain opens one in the completion buffer. -/
theorem returnToken_of_not_granted {r : Run} (hr : w.run = some r) (h : ownChain w k ∉ (w.queues.get k).emergency) :
    ∃ t, returnToken s w (ownChain w k) = putQueue t w.id k (withEmergency (ownChain w k)) ∧ t.mem = s.mem ∧ t.waves = s.waves := by
  have hin : ¬ (grantsOf s (1, w.id, k.val)).contains (chainKey (ownChain w k)) = true := by
    rw [grantsOf_own_chain hw]
    exact fun hc => h (List.contains_iff_mem.1 hc)
  simp only [returnToken, hr, last_ownChain, if_neg hin, grantEntry, fin_ofNat_val, show ¬ (1 = 3) from by decide, if_false]
  refine ⟨_, rfl, ?_, ?_⟩ <;> split <;> rfl

end

/-- Settles O41: the end of a command by the equation of a wave that runs, and the token by the chain that it returns with. -/
theorem engineCompletion : Obligations.EngineCompletion := by
  intro s w k c rest hw hcmds
  refine ⟨fun hacc hf hx hd hroom hrel hg => ?_, fun hacc hf hd hrel => ?_, fun ho => ?_, fun r hr hf hb hc => ⟨fun hl => ?_, fun hl => ?_⟩⟩
  · have htiles := rangesFreed_tilesOnly s w c
    have hwave : findWave (rangesFreed s w c) w.id = some w := by
      rw [findWave, htiles.waves]
      exact hw
    have hcomplete := completeCommand_of_accepted hw hcmds hacc (.inr hroom) hrel
    refine ⟨_, _, congrArg Host.Outcome.next (hcomplete.trans (endCommand_of_running hw hf hx hd hg)),
      findWave_putQueue_self _ hwave, ?_, ?_, htiles.ranges, htiles.mem⟩
    · rw [vector_get_set, if_pos rfl, withCompletion, hcmds]
      rfl
    · rw [vector_get_set, if_pos rfl, withCompletion, List.map_append, ← completionWord_eq]
      rfl
  · exact congrArg Host.Outcome.next (completeCommand_of_accepted hw hcmds hacc (.inl hd) hrel)
  · exact congrArg Host.Outcome.next (by simp only [probe, hw, ho])
  · obtain ⟨t, ht, hmem, hwaves⟩ := returnToken_of_not_granted hw hr hl
    have hwave : findWave t w.id = some w := by
      rw [findWave, hwaves]
      exact hw
    refine ⟨_, _, congrArg Host.Outcome.next ((probe_of_own_chain hw hb hf hc).trans ht), findWave_putQueue_self _ hwave, hmem, ?_, ?_⟩ <;>
      rw [vector_get_set, if_pos rfl, withEmergency]
    rfl
  · exact congrArg Host.Outcome.next ((probe_of_own_chain hw hb hf hc).trans (returnToken_of_granted hw hr hl))

end Sys2Proof.Machine
end

section
/-! SUPPORT. The words of the matrix array and of the queue registers (R194 to R211, R214): what TDEF, TSET and CINIT leave of the tile
table, what the operation of each word comes to, and the rendezvous as an MMA or MMAS meets it. -/
namespace Sys2Proof.Machine

/-! ### The tile table -/

/-- A list whose keys rise, with an element put in its place, answers a test on the key as the list with the element behind it. -/
theorem find_insBy {α : Type} {f : α → Nat} {p : α → Bool} (hp : ∀ a b, p a = true → p b = true → f a = f b) (x : α) {l : List α}
    (hl : l.Pairwise fun a b => f a ≤ f b) : (insBy f x l).find? p = (l.find? p).or (if p x then some x else none) := by
  induction l with
  | nil => cases hx : p x <;> simp [insBy, hx]
  | cons y l ih =>
    obtain ⟨hy, hl⟩ := List.pairwise_cons.1 hl
    unfold insBy
    split
    next hlt =>
      cases hx : p x with
      | false => rw [List.find?_cons_of_neg (Bool.eq_false_iff.1 hx), if_neg Bool.false_ne_true, Option.or_none]
      | true =>
        have hnone : (y :: l).find? p = none := List.find?_eq_none.2 fun z hz hpz => by
          have hzx := hp z x hpz hx
          rcases List.mem_cons.1 hz with rfl | hz
          · omega
          · have := hy z hz
            omega
        rw [List.find?_cons_of_pos hx, hnone, if_pos rfl, Option.none_or]
    next =>
      cases hpy : p y with
      | true => rw [List.find?_cons_of_pos hpy, List.find?_cons_of_pos hpy, Option.some_or]
      | false =>
        rw [List.find?_cons_of_neg (Bool.eq_false_iff.1 hpy), List.find?_cons_of_neg (Bool.eq_false_iff.1 hpy)]
        exact ih hl

theorem mem_insBy {α : Type} (f : α → Nat) (x : α) (l : List α) {y : α} (h : y ∈ insBy f x l) : y = x ∨ y ∈ l := by
  induction l with
  | nil => exact .inl (List.mem_singleton.1 h)
  | cons z l ih =>
    unfold insBy at h
    split at h
    · exact List.mem_cons.1 h
    · rcases List.mem_cons.1 h with rfl | h
      · exact .inr List.mem_cons_self
      · exact (ih h).imp_right (List.mem_cons_of_mem _)

theorem insBy_rises {α : Type} (f : α → Nat) (x : α) {l : List α} (hl : l.Pairwise fun a b => f a ≤ f b) :
    (insBy f x l).Pairwise fun a b => f a ≤ f b := by
  induction l with
  | nil => exact List.pairwise_singleton ..
  | cons y l ih =>
    obtain ⟨hy, hl'⟩ := List.pairwise_cons.1 hl
    unfold insBy
    split
    next hlt =>
      refine List.pairwise_cons.2 ⟨fun z hz => ?_, hl⟩
      rcases List.mem_cons.1 hz with rfl | hz
      · exact Nat.le_of_lt hlt
      · exact Nat.le_trans (Nat.le_of_lt hlt) (hy z hz)
    next hle =>
      refine List.pairwise_cons.2 ⟨fun z hz => ?_, ih hl'⟩
      rcases mem_insBy f x l hz with rfl | hz
      · exact Nat.le_of_not_lt hle
      · exact hy z hz

/-- Sorting by a key leaves the first element of each key the first of it. -/
theorem find_sortBy {α : Type} {f : α → Nat} {p : α → Bool} (hp : ∀ a b, p a = true → p b = true → f a = f b) (l : List α) :
    (sortBy f l).find? p = l.find? p := by
  have hfold : ∀ (l acc : List α), acc.Pairwise (fun a b => f a ≤ f b) →
      (l.foldl (fun acc x => insBy f x acc) acc).find? p = (acc.find? p).or (l.find? p) := by
    intro l
    induction l with
    | nil => exact fun acc _ => (Option.or_none).symm
    | cons x l ih =>
      intro acc hacc
      rw [List.foldl_cons, ih _ (insBy_rises f x hacc), find_insBy hp x hacc, Option.or_assoc]
      cases hx : p x with
      | true => rw [List.find?_cons_of_pos hx, if_pos rfl, Option.some_or]
      | false => rw [List.find?_cons_of_neg (Bool.eq_false_iff.1 hx), if_neg Bool.false_ne_true, Option.none_or]
  rw [sortBy, hfold l [] List.Pairwise.nil, List.find?_nil, Option.none_or]

/-- The tile of a number in a table. -/
def tileIn (l : List Tile) (n : Fin 64) : Option Tile := l.find? fun t => t.n = n

theorem findTile_eq (g : Group) (n : Fin 64) : findTile g n = tileIn g.tiles n := rfl

theorem tileIn_sortBy (l : List Tile) (n : Fin 64) : tileIn (sortBy (fun t => t.n.val) l) n = tileIn l n :=
  find_sortBy (fun a b ha hb => by rw [of_decide_eq_true ha, of_decide_eq_true hb]) l

theorem tileIn_putBy_other {k n : Fin 64} (h : k ≠ n) {x : Tile} (hx : x.n = n) (l : List Tile) :
    tileIn (putBy (fun t => t.n = n) x l) k = tileIn l k := by
  have hput : ∀ t : Tile, decide ((if decide (t.n = n) = true then x else t).n = k) = decide (t.n = k) := fun t => by
    by_cases ht : t.n = n
    · simp only [ht, decide_true, if_true, hx]
    · simp only [ht, decide_false, Bool.false_eq_true, if_false]
  unfold putBy tileIn
  split
  · rw [List.find?_map, show ((fun t : Tile => decide (t.n = k)) ∘ fun y => if decide (y.n = n) = true then x else y)
      = fun t => decide (t.n = k) from funext hput]
    cases hl : l.find? fun t => decide (t.n = k) with
    | none => rfl
    | some t =>
      have ht : t.n = k := by simpa using List.find?_some hl
      have hne : ¬ decide (t.n = n) = true := by simpa [ht] using h
      rw [Option.map_some, if_neg hne]
  · rw [List.find?_append, List.find?_cons_of_neg (by simpa [hx] using h.symm), List.find?_nil, Option.or_none]

theorem tileIn_map (l : List Tile) (n k : Fin 64) {f : Tile → Tile} (hf : ∀ t, (f t).n = t.n) :
    tileIn (l.map fun t => if t.n = n then f t else t) k = (tileIn l k).map fun t => if t.n = n then f t else t := by
  have hn : ∀ t : Tile, (if t.n = n then f t else t).n = t.n := fun t => by split <;> simp only [hf]
  simp only [tileIn, List.find?_map, Function.comp_def, hn]

theorem tileIn_map_other (l : List Tile) {n k : Fin 64} (h : k ≠ n) {f : Tile → Tile} (hf : ∀ t, (f t).n = t.n) :
    tileIn (l.map fun t => if t.n = n then f t else t) k = tileIn l k := by
  rw [tileIn_map l n k hf]
  cases hl : tileIn l k with
  | none => rfl
  | some t =>
    have ht : t.n = k := by simpa using List.find?_some hl
    rw [Option.map_some, if_neg (by rw [ht]; exact h)]

theorem tileIn_map_self (l : List Tile) (n : Fin 64) {f : Tile → Tile} (hf : ∀ t, (f t).n = t.n) :
    tileIn (l.map fun t => if t.n = n then f t else t) n = (tileIn l n).map f := by
  rw [tileIn_map l n n hf]
  cases hl : tileIn l n with
  | none => rfl
  | some t =>
    have ht : t.n = n := by simpa using List.find?_some hl
    rw [Option.map_some, Option.map_some, if_pos ht]

theorem tileIn_filter_self (l : List Tile) (n : Fin 64) : tileIn (l.filter fun t => t.n ≠ n) n = none :=
  List.find?_eq_none.2 fun t ht => by simpa using (List.mem_filter.1 ht).2

theorem tileIn_filter_other (l : List Tile) {n k : Fin 64} (h : k ≠ n) : tileIn (l.filter fun t => t.n ≠ n) k = tileIn l k := by
  rw [tileIn, List.find?_filter]
  refine congrArg (List.find? · l) (funext fun t => ?_)
  by_cases ht : t.n = k
  · simp [ht, h]
  · simp [ht]

/-- The table of one group changed: of the groups that group alone is new, with its tiles alone, and of these tile n alone. -/
def OneTile (s : State) (g : Group) (n : Fin 64) (P : Option Tile → Prop) (t : State) : Prop :=
  (∀ k, k ≠ g.id → findGroup t k = findGroup s k)
    ∧ ∃ h, findGroup t g.id = some h ∧ h = { g with tiles := h.tiles } ∧ P (findTile h n) ∧ ∀ k, k ≠ n → findTile h k = findTile g k

theorem findGroup_modGroup_other {s : State} {n k : Nat} (f : Group → Group) (hf : ∀ g, (f g).id = g.id) (hk : k ≠ n) :
    findGroup (modGroup s n f) k = findGroup s k := by
  rw [findGroup_modGroup s n k f hf]
  cases h : findGroup s k with
  | none => rfl
  | some g => rw [Option.map_some, if_neg (by rw [findGroup_id h]; exact hk)]

theorem oneTile_of_table {s : State} {g : Group} {n : Fin 64} (hg : findGroup s g.id = some g) {f : List Tile → List Tile}
    {P : Option Tile → Prop} (hself : P (tileIn (f g.tiles) n)) (hother : ∀ k, k ≠ n → tileIn (f g.tiles) k = tileIn g.tiles k) :
    OneTile s g n P (modGroup s g.id fun x => { x with tiles := f x.tiles }) :=
  ⟨fun _ hk => findGroup_modGroup_other _ (fun _ => rfl) hk, _, findGroup_modGroup_self _ (fun _ => rfl) hg, rfl, hself, hother⟩

/-- The checksums of a tile just defined or cleared are zero (R196, R206). -/
theorem clearSums_eq (d : BitVec 128) : clearSums d
    = if tdKind d = 2 then (List.replicate (32 * tdRb d) ⟨0, 0, 0, 0⟩, List.replicate 128 ⟨0, 0, 0, 0⟩) else ([], []) := rfl

section
variable {s : State} {g : Group} (hg : findGroup s g.id = some g) (n : Fin 64)
include hg

theorem defineTile_oneTile (d : BitVec 128) :
    OneTile s g n (· = some ⟨n, d, .empty, 0, (clearSums d).1, (clearSums d).2, 0⟩) (defineTile s g.id n d) :=
  oneTile_of_table hg (f := fun l => sortBy (fun t => t.n.val) (putBy (fun t => t.n = n) (newTile n d) l))
    ((tileIn_sortBy _ n).trans (find_putBy (p := fun t : Tile => decide (t.n = n)) (x := newTile n d) (decide_eq_true rfl) g.tiles))
    fun k hk => (tileIn_sortBy _ k).trans (tileIn_putBy_other hk rfl _)

theorem freeTile_oneTile : OneTile s g n (· = none) (freeTile s g.id n) :=
  oneTile_of_table hg (f := fun l => l.filter fun t => t.n ≠ n) (tileIn_filter_self _ n) fun _ hk => tileIn_filter_other _ hk

theorem setTile_oneTile (st : TileState) :
    OneTile s g n (· = (findTile g n).map fun x => { x with state := st }) (setTile s g.id n st) :=
  oneTile_of_table hg (f := fun l => l.map fun t => if t.n = n then { t with state := st } else t)
    (tileIn_map_self _ n (f := fun t => { t with state := st }) fun _ => rfl)
    fun _ hk => tileIn_map_other _ hk (f := fun t => { t with state := st }) fun _ => rfl

end

theorem readByte_zeroBytes (m : Memory) (lo n a : Nat) :
    readByte (zeroBytes m lo n) a = if lo ≤ a ∧ a < lo + n then 0 else readByte m a := by
  unfold readByte zeroBytes
  induction m with
  | nil => simp [spGet]
  | cons c m ih =>
    obtain ⟨b, v⟩ := c
    by_cases hb : b < lo ∨ lo + n ≤ b
    · rw [List.filter_cons_of_pos (by simpa using hb)]
      by_cases ha : a = b
      · rw [spGet, spGet, if_pos ha, if_pos ha, if_neg (by omega)]
      · rw [spGet, spGet, if_neg ha, if_neg ha, ih]
    · rw [List.filter_cons_of_neg (by simpa using hb), ih]
      by_cases hin : lo ≤ a ∧ a < lo + n
      · rw [if_pos hin, if_pos hin]
      · rw [if_neg hin, if_neg hin, spGet, if_neg (by omega)]

/-- A tile with its checksums and flags cleared (R206). -/
def clearedTile (x t : Tile) : Tile := { t with rows := (clearSums x.desc).1, cols := (clearSums x.desc).2, flags := 0 }

/-- CINIT clears the cells and the sums of its tile, and nothing else of its group (R206). -/
theorem clearTile_spec {s : State} {g : Group} {n : Fin 64} {x : Tile} (hg : findGroup s g.id = some g) (hx : findTile g n = some x) :
    ∃ h, findGroup (clearTile s g x) g.id = some h ∧ h = { g with tiles := h.tiles, cbuf := h.cbuf }
      ∧ findTile h n = some (clearedTile x x) ∧ (∀ k, k ≠ n → findTile h k = findTile g k)
      ∧ ∀ a, readByte h.cbuf a = if tdBase x.desc ≤ a ∧ a < tdBase x.desc + tdBytes x.desc then 0 else readByte g.cbuf a := by
  obtain rfl : x.n = n := by simpa using List.find?_some hx
  refine ⟨_, findGroup_modGroup_self (f := fun y => { y with tiles := y.tiles.map fun t => if t.n = x.n then clearedTile x t else t })
    (fun _ => rfl) (findGroup_modGroup_self (s := s) (f := fun y => { y with cbuf := zeroBytes y.cbuf (tdBase x.desc) (tdBytes x.desc) })
      (fun _ => rfl) hg), rfl, ?_, fun k hk => ?_, fun a => readByte_zeroBytes ..⟩
  · exact (tileIn_map_self g.tiles x.n (f := clearedTile x) fun _ => rfl).trans (congrArg (Option.map (clearedTile x)) hx)
  · exact tileIn_map_other g.tiles hk (f := clearedTile x) fun _ => rfl

/-! ### TDEF, TSET, CINIT (R196, R199, R206) -/

/-- The group of the issuing wave has defined tile n, with a property. -/
def HasTile (c : Ctx) (n : Fin 64) (P : Tile → Prop) : Prop := ∃ g x, findGroup c.s c.w.group = some g ∧ findTile g n = some x ∧ P x
/-- The group of the issuing wave has no tile n. -/
def NoTile (c : Ctx) (n : Fin 64) : Prop := ∃ g, findGroup c.s c.w.group = some g ∧ findTile g n = none
/-- TDEF waits for the tile. -/
def TileHeld (x : Tile) : Prop := x.busy ≠ 0 ∨ x.state = .filling ∨ x.state = .draining

theorem tileHeld_iff (x : Tile) : (decide (x.busy ≠ 0) || decide (x.state = .filling) || decide (x.state = .draining)) = true ↔ TileHeld x := by
  simp only [Bool.or_eq_true, decide_eq_true_eq, TileHeld, or_assoc]

theorem tdef_waits (e : Bool) (n : Fin 64) (q : Reg) : Ends (.tdef e n q) (fun c => HasTile c n TileHeld) (fun c => .wait c.s .tile) :=
  ends_of fun _ => ⟨_, _, rfl, fun c _ ⟨g, x, hg, hx, hheld⟩ => by
    simp only [hg, hx, if_pos ((tileHeld_iff x).2 hheld)]⟩

/-- TDEF comes to its own checks where its tile is new, or is not held. -/
theorem tdef_ends (e : Bool) (n : Fin 64) (q : Reg) {P : Ctx → Group → Prop} {res : Ctx → Res}
    (hbody : ∀ c g, (Instr.tdef e n q).shape = some c.sh → g.id = c.w.group → P c g → tdefBody c g n (c.quad 0 c.top) = res c) :
    Ends (.tdef e n q) (fun c => (NoTile c n ∨ HasTile c n fun x => ¬ TileHeld x) ∧ ∃ g, findGroup c.s c.w.group = some g ∧ P c g) res :=
  ends_of fun _ => ⟨_, _, rfl, fun c hsh ⟨hfree, g, hg, hP⟩ => by
    rw [← hbody c g hsh (findGroup_id hg) hP]
    rcases hfree with ⟨g', hg', hx⟩ | ⟨g', x, hg', hx, hheld⟩ <;> obtain rfl : g = g' := Option.some.inj (hg.symm.trans hg')
    · simp only [hg, hx, Bool.false_eq_true, if_false]
    · simp only [hg, hx, if_neg (mt (tileHeld_iff x).1 hheld)]⟩

/-- The region of a descriptor lies in its buffer (R196). -/
def RegionFits (g : Group) (d : BitVec 128) : Prop := tdBase d + tdBytes d ≤ (bufOf g (tdKind d)).2
/-- A tile has an entry, or there is a free one (R292). -/
def EntryFree (c : Ctx) (g : Group) (n : Fin 64) : Prop := (findTile g n).isSome ∨ entriesUsed c.s g.place < Config.tileEntries

section
variable (c : Ctx) (g : Group) (n : Fin 64) {d : BitVec 128}

theorem tdefBody_of_bad (h : tdOk d = false) : tdefBody c g n d = c.trap .engine c.exec 0 := by simp [tdefBody, h]

theorem tdefBody_of_free (h : tdOk d = true) (hk : tdKind d = 3) : tdefBody c g n d = c.done (freeTile c.s g.id n) := by
  simp [tdefBody, h, hk]

variable (h : tdOk d = true) (hk : tdKind d ≠ 3)
include h hk

theorem tdefBody_of_misaligned (ha : tdBase d % 64 ≠ 0) :
    tdefBody c g n d = c.trap .align c.exec (BitVec.ofNat 64 (tdBase d)) := by
  simp [tdefBody, h, hk, ha]

theorem tdefBody_of_outside (ha : tdBase d % 64 = 0) (hf : ¬ RegionFits g d) :
    tdefBody c g n d = c.trap .perm c.exec (BitVec.ofNat 64 (tdBase d)) := by
  simp [tdefBody, h, hk, ha, if_pos (Nat.lt_of_not_le hf)]

theorem tdefBody_of_full (ha : tdBase d % 64 = 0) (hf : RegionFits g d) (hr : ¬ EntryFree c g n) :
    tdefBody c g n d = c.trap .engine c.exec 0 := by
  have hfull : ((findTile g n).isNone && decide (Config.tileEntries ≤ entriesUsed c.s g.place)) = true := by
    simpa [EntryFree] using hr
  simp only [tdefBody, h, hk, ha, if_neg (Nat.not_lt.2 hf), hfull, Bool.not_true, Bool.false_eq_true, if_false, ne_eq,
    not_true_eq_false, if_true]

theorem tdefBody_of_room (ha : tdBase d % 64 = 0) (hf : RegionFits g d) (hr : EntryFree c g n) :
    tdefBody c g n d = c.done (defineTile c.s g.id n d) := by
  have hroom : ((findTile g n).isNone && decide (Config.tileEntries ≤ entriesUsed c.s g.place)) = false := by
    rw [Bool.and_eq_false_iff]
    refine hr.imp (fun hs => ?_) fun hu => decide_eq_false (Nat.not_le.2 hu)
    rw [Option.isNone_eq_false_iff]
    exact hs
  simp only [tdefBody, h, hk, ha, if_neg (Nat.not_lt.2 hf), hroom, Bool.not_true, Bool.false_eq_true, if_false, ne_eq,
    not_true_eq_false]

end

/-- TSET, on a tile that its group has defined. -/
theorem tset_ends (e : Bool) (n : Fin 64) (st : TileState) {P : Tile → Prop} {res : Ctx → Res}
    (hbody : ∀ c x, (Instr.tset e n st).shape = some c.sh → P x →
      (if x.busy ≠ 0 then .wait c.s .tile else c.done (setTile c.s c.w.group n st)) = res c) :
    Ends (.tset e n st) (fun c => HasTile c n P) res :=
  ends_of fun _ => ⟨_, _, rfl, fun c hsh ⟨g, x, hg, hx, hP⟩ => by
    rw [← hbody c x hsh hP]
    simp only [hg, Option.bind_some, hx]⟩

theorem tset_traps (e : Bool) (n : Fin 64) (st : TileState) :
    Ends (.tset e n st) (fun c => NoTile c n) (fun c => c.trap .engine c.exec 0) :=
  ends_of fun _ => ⟨_, _, rfl, fun c _ ⟨g, hg, hx⟩ => by simp only [hg, Option.bind_some, hx]⟩

/-- CINIT, on a tile that its group has defined. -/
theorem cinit_ends (e : Bool) (n : Fin 64) {P : Tile → Prop} {res : Ctx → Res}
    (hbody : ∀ c g x, (Instr.cinit e n).shape = some c.sh → findGroup c.s c.w.group = some g → findTile g n = some x → P x →
      (if tdKind x.desc ≠ 2 then c.trap .engine c.exec 0
        else if x.state ≠ .ready || x.busy ≠ 0 then .wait c.s .tile else c.done (clearTile c.s g x)) = res c) :
    Ends (.cinit e n) (fun c => HasTile c n P) res :=
  ends_of fun _ => ⟨_, _, rfl, fun c hsh ⟨g, x, hg, hx, hP⟩ => by
    rw [← hbody c g x hsh hg hx hP]
    simp only [hg, hx]⟩

theorem cinit_traps_none (e : Bool) (n : Fin 64) : Ends (.cinit e n) (fun c => NoTile c n) (fun c => c.trap .engine c.exec 0) :=
  ends_of fun _ => ⟨_, _, rfl, fun c _ ⟨g, hg, hx⟩ => by simp only [hg, hx]⟩

/-- A word that ends with one result under each of two conditions. -/
theorem Ends.or {i : Instr} {P Q : Ctx → Prop} {res : Ctx → Res} (h : Ends i P res) (k : Ends i Q res) : Ends i (fun c => P c ∨ Q c) res :=
  fun s w c hb hc => hc.elim (h s w c hb) (k s w c hb)

/-- The tile and the group from which CINIT clears, looked up again. -/
def cleared (c : Ctx) (n : Fin 64) : State :=
  match findGroup c.s c.w.group with
  | some g => (match findTile g n with | some x => clearTile c.s g x | none => c.s)
  | none => c.s

theorem cleared_of_found {c : Ctx} {n : Fin 64} {g : Group} {x : Tile} (hg : findGroup c.s c.w.group = some g) (hx : findTile g n = some x) :
    cleared c n = clearTile c.s g x := by
  simp only [cleared, hg, hx]

/-! ### The rendezvous (R202) -/

/-- The gang of a wave is legal (R202). -/
def GangLegal (g : Group) (w : Wave) : Prop :=
  2 ≤ Mask.count w.gang ∧ Mask.count w.gang ≤ 6 ∧ w.gang.getLsbD w.index.toNat = true ∧ w.gang.toNat < 2 ^ g.waves

theorem gangOk_iff (g : Group) (w : Wave) : gangOk g w = true ↔ GangLegal g w := by
  simp only [gangOk, GangLegal, Bool.and_eq_true, decide_eq_true_eq, and_assoc]

/-- The operation that the issuing wave asks for. -/
def operationOf (c : Ctx) (sp : Bool) (a b t : Fin 64) (j : Fin 4) : MatOp :=
  { sparse := sp, ta := a, tb := b, tc := t, j := j, gang := c.w.gang }

/-- The rendezvous that names the issuing wave, or one of its own with nobody there. -/
def meetingOf (c : Ctx) (op : MatOp) : MatOp × List Arrival :=
  ((findGroup c.s c.w.group).bind fun g => rendezvousOf g c.w.index).getD (op, [])

/-- The state in which the issuing wave has come to its rendezvous. -/
def arrivedAt (c : Ctx) (op : MatOp) : State :=
  modGroup c.s c.w.group fun x => putGang x (meetingOf c op).1 ((meetingOf c op).2 ++ [arrival c])

/-- Whether all members of that gang have come. -/
def completeAt (c : Ctx) (op : MatOp) : Bool := allArrived (meetingOf c op).1 ((meetingOf c op).2 ++ [arrival c])

/-- MMA, or MMAS. -/
def matInstr (e sp : Bool) (a b t : Fin 64) (j : Fin 4) (u : Fin 16) : Instr := if sp then .mmas e a b t j u else .mma e a b t j u

/-- Both words run the operation of `matBody`. -/
theorem mat_ends {e sp : Bool} {a b t : Fin 64} {j : Fin 4} {u : Fin 16} {P : Ctx → Prop} {res : Ctx → Res}
    (hbody : ∀ c, P c → matBody c sp a b t j = res c) : Ends (matInstr e sp a b t j u) P res := by
  cases sp <;> exact ends_of fun _ => ⟨_, _, rfl, fun c _ => hbody c⟩

theorem matBody_of_illegal {c : Ctx} {g : Group} (hg : findGroup c.s c.w.group = some g) (h : gangOk g c.w = false) (sp : Bool)
    (a b t : Fin 64) (j : Fin 4) : matBody c sp a b t j = c.trap .gang c.exec 0 := by
  simp only [matBody, hg, h, Bool.false_eq_true, if_false]

section
variable {c : Ctx} {g : Group} {op : MatOp} (hg : findGroup c.s c.w.group = some g)
include hg

theorem matBody_of_legal (hgang : GangLegal g c.w) (sp : Bool) (a b t : Fin 64) (j : Fin 4) :
    matBody c sp a b t j = meetGang c g (operationOf c sp a b t j) := by
  simp only [matBody, hg, (gangOk_iff g c.w).2 hgang, if_true, operationOf]

/-- A wave that is not there yet comes to the rendezvous: what follows from who is there and from the fields. -/
theorem meetGang_of_new (hnew : ∀ y ∈ (meetingOf c op).2, y.index ≠ c.w.index) :
    meetGang c g op = if op ≠ (meetingOf c op).1 then .settled (failRendezvous (arrivedAt c op) c.w.group (meetingOf c op).1.gang .gang)
      else if !completeAt c op then .wait (arrivedAt c op) .rendezvous
      else if (matTiles g op).isNone then .settled (failRendezvous (arrivedAt c op) c.w.group (meetingOf c op).1.gang .engine)
      else .wait (arrivedAt c op) .tile := by
  have hid : g.id = c.w.group := findGroup_id hg
  have hz : (rendezvousOf g c.w.index).getD (op, []) = meetingOf c op := by simp only [meetingOf, hg, Option.bind_some]
  have hno : ((meetingOf c op).2.any fun a => decide (a.index = c.w.index)) = false :=
    List.any_eq_false.2 fun y hy => by simpa using hnew y hy
  simp only [meetGang, hz, hno, Bool.false_eq_true, if_false, hid, ← arrivedAt.eq_1]
  by_cases hop : op = (meetingOf c op).1
  · simp only [← hop, ne_eq, not_true_eq_false, if_false, completeAt]
  · simp only [ne_eq, hop, not_false_eq_true, if_true]

variable (hnew : ∀ y ∈ (meetingOf c op).2, y.index ≠ c.w.index)
include hnew

theorem meetGang_of_other_fields (hop : op ≠ (meetingOf c op).1) :
    meetGang c g op = .settled (failRendezvous (arrivedAt c op) c.w.group (meetingOf c op).1.gang .gang) := by
  rw [meetGang_of_new hg hnew, if_pos hop]

variable (hop : op = (meetingOf c op).1)
include hop

theorem meetGang_of_missing (hall : completeAt c op = false) : meetGang c g op = .wait (arrivedAt c op) .rendezvous := by
  rw [meetGang_of_new hg hnew, if_neg (not_not.2 hop), hall, Bool.not_false, if_pos rfl]

variable (hall : completeAt c op = true)
include hall

theorem meetGang_of_complete (ht : (matTiles g op).isSome) : meetGang c g op = .wait (arrivedAt c op) .tile := by
  rw [meetGang_of_new hg hnew, if_neg (not_not.2 hop), hall, Bool.not_true, if_neg Bool.false_ne_true,
    if_neg (by rw [Option.isNone_iff_eq_none]; exact Option.isSome_iff_ne_none.1 ht)]

theorem meetGang_of_refused (ht : matTiles g op = none) :
    meetGang c g op = .settled (failRendezvous (arrivedAt c op) c.w.group (meetingOf c op).1.gang .engine) := by
  rw [meetGang_of_new hg hnew, if_neg (not_not.2 hop), hall, Bool.not_true, if_neg Bool.false_ne_true, if_pos (by rw [ht]; rfl)]

end

/-- A gang of two or more is not complete with one of them. -/
theorem allArrived_singleton {op : MatOp} (h : 2 ≤ Mask.count op.gang) (x : Arrival) : allArrived op [x] = false := by
  refine Bool.eq_false_iff.2 fun hall => ?_
  have hsame : ∀ k ∈ Mask.lanes op.gang, x.index.toNat = k.val := fun k hk => by
    simpa using List.all_eq_true.1 hall k hk
  have hnodup : (Mask.lanes op.gang).Nodup := List.Nodup.filter _ (List.nodup_finRange 32)
  unfold Mask.count at h
  match hl : Mask.lanes op.gang, h with
  | k :: k' :: l, _ =>
    rw [hl] at hsame hnodup
    have hk := hsame k List.mem_cons_self
    have hk' := hsame k' (List.mem_cons_of_mem _ List.mem_cons_self)
    exact (List.nodup_cons.1 hnodup).1 (Fin.ext (hk.symm.trans hk') ▸ List.mem_cons_self)

theorem modGroup_congr (s : State) {n : Nat} {f h : Group → Group} (hfh : ∀ x ∈ s.groups, x.id = n → f x = h x) :
    modGroup s n f = modGroup s n h := by
  simp only [modGroup]
  congr 1
  refine List.map_congr_left fun x hx => ?_
  by_cases hn : x.id = n
  · rw [if_pos hn, if_pos hn, hfh x hx hn]
  · rw [if_neg hn, if_neg hn]

/-- The issuing wave is named by no rendezvous of its group, and is at none. -/
def NamedNowhere (c : Ctx) : Prop :=
  ∀ x ∈ c.s.groups, x.id = c.w.group → ∀ y ∈ x.rendezvous, y.1.gang.getLsbD c.w.index.toNat = false ∧ ∀ v ∈ y.2, v.index ≠ c.w.index

/-- The first arrival makes the rendezvous of its gang (R202). -/
theorem meetGang_of_first {c : Ctx} {g : Group} {op : MatOp} (hg : findGroup c.s c.w.group = some g) (hgang : GangLegal g c.w)
    (hop : op.gang = c.w.gang) (h : NamedNowhere c) :
    meetGang c g op = .wait (modGroup c.s c.w.group fun x => { x with rendezvous := x.rendezvous ++ [(op, [arrival c])] }) .rendezvous := by
  have hmem : g ∈ c.s.groups := List.mem_of_find?_eq_some hg
  obtain ⟨htwo, -, hbit, -⟩ := hgang
  have hnone : rendezvousOf g c.w.index = none := by
    have hat : (g.rendezvous.find? fun z => z.2.any fun a => decide (a.index = c.w.index)) = none :=
      List.find?_eq_none.2 fun y hy hany => by
        obtain ⟨v, hv, heq⟩ := List.any_eq_true.1 hany
        exact (h g hmem (findGroup_id hg) y hy).2 v hv (of_decide_eq_true heq)
    simp only [rendezvousOf, hat]
    exact List.find?_eq_none.2 fun y hy hz => by
      rw [(h g hmem (findGroup_id hg) y hy).1, Bool.false_and] at hz
      exact Bool.false_ne_true hz
  have hmeet : meetingOf c op = (op, []) := by simp only [meetingOf, hg, Option.bind_some, hnone, Option.getD_none]
  have hmake : arrivedAt c op = modGroup c.s c.w.group fun x => { x with rendezvous := x.rendezvous ++ [(op, [arrival c])] } := by
    simp only [arrivedAt, hmeet, List.nil_append]
    refine modGroup_congr _ fun x hx hid => ?_
    have hother : (x.rendezvous.any fun z => decide (z.1.gang = op.gang)) = false := List.any_eq_false.2 fun y hy heq => by
      have hy' := (h x hx hid y hy).1
      rw [of_decide_eq_true heq, hop, hbit] at hy'
      exact Bool.false_ne_true hy'.symm
    simp only [putGang, hother, Bool.false_eq_true, if_false]
  have halone : completeAt c op = false := by
    simp only [completeAt, hmeet, List.nil_append]
    exact allArrived_singleton (by rw [hop]; exact htwo) _
  rw [meetGang_of_missing hg (by simp [hmeet]) (by rw [hmeet]) halone, hmake]

/-! ### CDRAIN (R210) -/

/-- CDRAIN that its wave has not started, by the tiles that its checks find. -/
theorem cdrain_ends (e : Bool) (a t : Fin 64) (r : Rnd) {P : Group → Prop} {res : Ctx → Res}
    (hbody : ∀ c g, P g → (match drainTiles g a t with
        | none => c.trap .engine c.exec 0
        | some (x, y) =>
          if y.state ≠ .ready || y.busy ≠ 0 || x.state ≠ .empty || x.busy ≠ 0 then .wait c.s .tile
          else .wait (startDrain c.s c.w c.die c.core a t r) .tile) = res c) :
    Ends (.cdrain e a t r) (fun c => c.w.drain = none ∧ ∃ g, findGroup c.s c.w.group = some g ∧ P g) res :=
  ends_of fun _ => ⟨_, _, rfl, fun c _ ⟨hd, g, hg, hP⟩ => by
    rw [← hbody c g hP]
    simp only [cdrainBody, hd, hg, Option.isSome_none, Bool.false_eq_true, if_false] <;> rfl⟩

/-! ### QBIND (R211) -/

theorem qbind_ends (e : Bool) (q : Fin 8) {g i : BitVec 3} {x : Eng} (hx : Eng.ofCode? g.toNat = some x) {P : Ctx → Prop} {res : Ctx → Res}
    (hbody : ∀ c, (Instr.qbind e q g i).shape = some c.sh → P c → bindQueue c q x i.toNat = res c) : Ends (.qbind e q g i) P res :=
  ends_of fun _ => ⟨_, _, rfl, fun c hsh hP => by simp only [hx, hbody c hsh hP]⟩

section
variable {c : Ctx} {q : Fin 8} {x : Eng} {i : Nat}

theorem bindQueue_of_bound (h : (c.w.queues.get q).bound = some (x, i)) : bindQueue c q x i = c.done c.s := by
  simp only [bindQueue, h, if_true]

variable (h : (c.w.queues.get q).bound ≠ some (x, i))
include h

theorem bindQueue_of_foreign (ho : ownsEngine c.s c.w.part c.die x i = false) : bindQueue c q x i = c.trap .perm c.exec 0 := by
  unfold Ctx.die at ho
  simp only [bindQueue, h, ho, if_false, Bool.not_false, if_true]

variable (ho : ownsEngine c.s c.w.part c.die x i = true)
include ho

theorem bindQueue_of_busy (hb : qBusy (c.w.queues.get q) = true) : bindQueue c q x i = c.trap .engine c.exec 0 := by
  unfold Ctx.die at ho
  simp only [bindQueue, h, ho, hb, if_false, Bool.not_true, Bool.false_eq_true, if_true]

theorem bindQueue_of_free (hb : qBusy (c.w.queues.get q) = false) :
    bindQueue c q x i = c.done (modWave c.s c.w.id fun w => { w with
      queues := w.queues.set q.val { c.w.queues.get q with bound := some (x, i) } q.isLt }) := by
  unfold Ctx.die at ho
  simp only [bindQueue, h, ho, hb, if_false, Bool.not_true, Bool.false_eq_true]

end

/-! ### The statements -/

/-- Settles O29: TDEF by its checks, the words on one tile by the tile that they find, MMA and MMAS by the rendezvous that they meet, QBIND by
what its queue register holds. -/
theorem matrixAndQueueWords : Obligations.MatrixAndQueueWords := by
  refine ⟨fun e n q st m => ?tiles, fun s g n d st hg => ?table, fun e a b t j u r sp => ?gangs, fun e k q g i d x hx => ?queues⟩
  case tiles =>
    refine ⟨tdef_waits e n q, tdef_ends e n q fun c g hsh hid hP => ?room, tdef_ends e n q fun c g hsh hid hP => ?free,
      tdef_ends e n q fun c g _ _ hbad => tdefBody_of_bad c g n hbad,
      tdef_ends e n q fun c g _ _ ⟨⟨hok, hk⟩, ha⟩ => tdefBody_of_misaligned c g n hok hk ha,
      tdef_ends e n q fun c g _ _ ⟨⟨hok, hk⟩, ha, hf⟩ => tdefBody_of_outside c g n hok hk ha hf,
      tdef_ends e n q fun c g _ _ ⟨⟨hok, hk⟩, ha, hf, hr⟩ => tdefBody_of_full c g n hok hk ha hf hr,
      tset_ends e n st fun c x hsh hb => (if_neg (not_not.2 hb)).trans (done_of_shape hsh rfl _),
      tset_ends e n st fun c x _ hb => if_pos hb, tset_traps e n st,
      cinit_ends e n fun c g x hsh hg hx ⟨hk, hs, hb⟩ => ?clear, cinit_ends e n fun c g x _ _ _ ⟨hk, hs⟩ => ?wait,
      (cinit_traps_none e n).or (cinit_ends e n fun c g x _ _ _ hk => if_pos hk),
      ends_of fun _ => ⟨_, _, rfl, fun c hsh _ => done_of_shape hsh rfl _⟩⟩
    case room =>
      obtain ⟨⟨hok, hk⟩, ha, hf, hr⟩ := hP
      rw [tdefBody_of_room c g n hok hk ha hf hr, hid]
      exact done_of_shape hsh rfl _
    case free =>
      obtain ⟨hok, hk⟩ := hP
      rw [tdefBody_of_free c g n hok hk, hid]
      exact done_of_shape hsh rfl _
    case clear =>
      rw [if_neg (not_not.2 hk), hs, hb, ← cleared_of_found hg hx]
      exact done_of_shape hsh rfl _
    case wait =>
      rw [if_neg (not_not.2 hk), if_pos (by simpa using hs)]
  case table =>
    refine ⟨defineTile_oneTile hg n d, freeTile_oneTile hg n, setTile_oneTile hg n st, fun t ht => ?_, fun x hx hk => ⟨rfl, ?_⟩⟩
    · simp only [List.mem_cons, List.not_mem_nil, or_false] at ht
      rcases ht with rfl | rfl | rfl <;> rfl
    · obtain ⟨h, hh, he, htile, hrest⟩ := clearTile_spec hg hx
      rw [clearedTile, clearSums_eq, if_pos hk] at htile
      exact ⟨h, hh, he, htile, hrest⟩
  case gangs =>
    refine ⟨mat_ends fun c ⟨g, hg, hbad⟩ => matBody_of_illegal hg hbad sp a b t j, mat_ends fun c ⟨g, hg, hgang, hno⟩ => ?_,
      mat_ends fun c ⟨g, hg, hgang, _, hnew, hop, hall⟩ => (matBody_of_legal hg hgang sp a b t j).trans (meetGang_of_missing hg hnew hop hall),
      mat_ends fun c ⟨g, hg, hgang, _, hnew, hop, hall, ht⟩ =>
        (matBody_of_legal hg hgang sp a b t j).trans (meetGang_of_complete hg hnew hop hall ht),
      mat_ends fun c ⟨g, hg, hgang, _, hnew, hop, hall, ht⟩ =>
        (matBody_of_legal hg hgang sp a b t j).trans (meetGang_of_refused hg hnew hop hall ht),
      mat_ends fun c ⟨g, hg, hgang, _, hnew, hop⟩ => (matBody_of_legal hg hgang sp a b t j).trans (meetGang_of_other_fields hg hnew hop),
      ?start, ?wait, ?trap⟩
    · exact (matBody_of_legal hg hgang sp a b t j).trans (meetGang_of_first hg hgang rfl hno)
    case start =>
      refine (cdrain_ends e a t r (P := fun g => ∃ x y, drainTiles g a t = some (x, y) ∧ y.state = .ready ∧ y.busy = 0 ∧ x.state = .empty
        ∧ x.busy = 0) fun c g ⟨x, y, ht, hys, hyb, hxs, hxb⟩ => ?_).imp fun c ⟨hd, g, x, y, hg, h⟩ => ⟨hd, g, hg, x, y, h⟩
      simp [ht, hys, hyb, hxs, hxb]
    case wait =>
      refine (cdrain_ends e a t r (P := fun g => ∃ x y, drainTiles g a t = some (x, y)
        ∧ (y.state ≠ .ready ∨ y.busy ≠ 0 ∨ x.state ≠ .empty ∨ x.busy ≠ 0)) fun c g ⟨x, y, ht, hbusy⟩ => ?_).imp
        fun c ⟨hd, g, x, y, hg, h⟩ => ⟨hd, g, hg, x, y, h⟩
      have hbusy' : (decide (y.state ≠ .ready) || decide (y.busy ≠ 0) || decide (x.state ≠ .empty) || decide (x.busy ≠ 0)) = true := by
        simpa only [Bool.or_eq_true, decide_eq_true_eq, or_assoc] using hbusy
      simp only [ht, hbusy', if_true]
    case trap => exact cdrain_ends e a t r fun c g ht => by simp only [ht]; rfl
  case queues =>
    refine ⟨qbind_ends e q hx fun c hsh h => (bindQueue_of_bound h).trans (done_of_shape hsh rfl _),
      qbind_ends e q hx fun c hsh ⟨h, ho, hb⟩ => (bindQueue_of_free h ho hb).trans (done_of_shape hsh rfl _),
      qbind_ends e q hx fun c _ ⟨h, ho⟩ => bindQueue_of_foreign h ho, qbind_ends e q hx fun c _ ⟨h, ho, hb⟩ => bindQueue_of_busy h ho hb,
      gives_of ⟨_, rfl, rfl, rfl, rfl⟩ fun _ => ⟨_, _, rfl, fun _ _ => rfl⟩⟩

end Sys2Proof.Machine
end



section
/-! SUPPORT. What memory accesses leave of device memory and of the groups with their buffers: lookups, watch slots and writes on their
way change neither, and a mark in a page's entry leaves the page where it is (R257, R263, R306 to R309). -/
namespace Sys2Proof.Machine

/-- Device memory and the groups, with their buffers, are as they were. -/
structure KeepsBytes (s t : State) : Prop where
  mem : t.mem = s.mem
  groups : t.groups = s.groups

theorem KeepsBytes.refl (s : State) : KeepsBytes s s := ⟨rfl, rfl⟩
theorem KeepsBytes.trans {s t u : State} (h : KeepsBytes s t) (k : KeepsBytes t u) : KeepsBytes s u :=
  ⟨k.mem.trans h.mem, k.groups.trans h.groups⟩

theorem KeepsBytes.findGroup {s t : State} (h : KeepsBytes s t) (n : Nat) : findGroup t n = findGroup s n := by
  simp only [Machine.findGroup, h.groups]

/-- A fold of steps each of which leaves the bytes leaves them. -/
theorem foldl_keepsBytes {α : Type} {f : State → α → State} (hf : ∀ t x, KeepsBytes t (f t x)) (l : List α) (s : State) :
    KeepsBytes s (l.foldl f s) := by
  induction l generalizing s with
  | nil => exact .refl s
  | cons x l ih => exact (hf s x).trans (ih _)

/-! ### Lookups -/

theorem markPage_keepsBytes (s : State) (g : Page) (write : Bool) : KeepsBytes s (markPage s g write) := by
  unfold markPage
  split
  · exact .refl s
  · exact ⟨rfl, rfl⟩

theorem markAccessed_keepsBytes (s : State) (ia : Nat) (write : Bool) : KeepsBytes s (markAccessed s ia write) := by
  unfold markAccessed
  split
  · exact .refl s
  · exact markPage_keepsBytes ..

theorem llcSeat_keepsBytes (s : State) (b : LlcBlock) (line tenant : Nat) : KeepsBytes s (llcSeat s b line tenant) := by
  unfold llcSeat
  split
  · exact .refl s
  · exact ⟨rfl, rfl⟩

theorem llcPut_keepsBytes (s : State) (die line tenant : Nat) (x : LlcLine) : KeepsBytes s (llcPut s die line tenant x) := by
  unfold llcPut
  dsimp only
  split
  · split
    · refine .trans ?_ (llcSeat_keepsBytes ..)
      exact ⟨rfl, rfl⟩
    · exact ⟨rfl, rfl⟩
  · exact llcSeat_keepsBytes ..

theorem llcMeet_keepsBytes (s : State) (tenant die line : Nat) (write : Bool) : KeepsBytes s (llcMeet s tenant die line write) := by
  unfold llcMeet
  split
  · dsimp only
    split
    · exact llcPut_keepsBytes ..
    · exact ⟨rfl, rfl⟩
  · split
    · exact llcPut_keepsBytes ..
    · exact .refl s

theorem llcTouch_keepsBytes (s : State) (part tenant die line : Nat) (write : Bool) :
    KeepsBytes s (llcTouch s part tenant die line write) := by
  refine .trans ?_ (llcMeet_keepsBytes ..)
  exact ⟨rfl, rfl⟩

theorem homeTouch_keepsBytes (s : State) (part line : Nat) (write : Bool) : KeepsBytes s (homeTouch s part line write) :=
  llcTouch_keepsBytes ..

theorem bankLine_keepsBytes (s : State) (part die line : Nat) : KeepsBytes s (bankLine s part die line) := by
  have htwice := (llcTouch_keepsBytes s part (tenantOf s part) die line false).trans
    (llcTouch_keepsBytes _ part (tenantOf s part) (homeDie (64 * line)) line false)
  unfold bankLine
  dsimp only
  split
  · exact llcTouch_keepsBytes ..
  · split
    · exact htwice
    · exact htwice.trans ⟨rfl, rfl⟩

/-! ### Watch slots -/

theorem hitCount_keepsBytes (s : State) (a : Access) (w : Wave) (scope : WScope) (slot die core : Nat) (ctl : DWord) :
    KeepsBytes s (hitCount s a w scope slot die core ctl) := by
  unfold hitCount
  split
  · cases scope <;> exact ⟨rfl, rfl⟩
  · exact .refl s

theorem hitStop_keepsBytes (s : State) (a : Access) (w : Wave) (ctl : DWord) : KeepsBytes s (hitStop s a w ctl) := by
  unfold hitStop
  dsimp only
  split
  · exact ⟨rfl, rfl⟩
  · exact .refl s

theorem takeHit_keepsBytes (s : State) (a : Access) (h : WScope × Nat × Nat × Nat × WatchSlot) : KeepsBytes s (takeHit s a h) := by
  obtain ⟨scope, slot, die, core, x⟩ := h
  unfold takeHit
  split
  · exact .refl s
  next w _ =>
    dsimp -zeta only
    extract_lets lanes gone trap acts s1 body record s2 s3
    have h1 : KeepsBytes s s1 := hitCount_keepsBytes s a w scope slot die core x.ctl
    have h2 : KeepsBytes s s2 := by
      unfold s2
      split
      · exact h1.trans ⟨rfl, rfl⟩
      · exact h1
    have h3 : KeepsBytes s s3 := h2.trans (hitStop_keepsBytes s2 a w x.ctl)
    split
    · exact h3.trans ⟨rfl, rfl⟩
    · exact h3

theorem watchAccess_keepsBytes (s : State) (a : Access) : KeepsBytes s (watchAccess s a) :=
  foldl_keepsBytes (fun t h => takeHit_keepsBytes t a h) _ s

/-! ### Writes on their way -/

theorem applyReplica_keepsBytes (s : State) (f : Flight) (d : Nat) : KeepsBytes s (applyReplica s f d) := by
  unfold applyReplica
  split
  · split
    · exact .refl s
    · refine foldl_keepsBytes (fun t k => ?_) _ s
      split
      · exact .refl t
      · exact ⟨rfl, rfl⟩
  · exact .refl s

theorem applyWrite_keepsBytes (s : State) (n d : Nat) : KeepsBytes s (applyWrite s n d) := by
  unfold applyWrite
  split
  · exact .refl s
  next f _ =>
    split
    · exact .refl s
    · extract_lets s1 s2 s3
      have h1 : KeepsBytes s s1 := applyReplica_keepsBytes ..
      have h2 : KeepsBytes s s2 := by
        unfold s2
        split
        · exact h1
        · exact h1.trans ⟨rfl, rfl⟩
      have h3 : KeepsBytes s s3 := by
        unfold s3
        split
        · split
          · exact h2
          · exact h2.trans ⟨rfl, rfl⟩
        · exact h2
      exact h3.trans ⟨rfl, rfl⟩

theorem catchUp_keepsBytes (s : State) (d : Nat) : KeepsBytes s (catchUp s d) := foldl_keepsBytes (fun t n => applyWrite_keepsBytes t n d) _ s

theorem announce_keepsBytes (s : State) (f : Flight) : KeepsBytes s (announce s f) := by
  unfold announce
  dsimp only
  split
  · exact ⟨rfl, rfl⟩
  · split <;> exact ⟨rfl, rfl⟩

theorem placeWrite_keepsBytes (s : State) (o : Nat) (f : Flight) : KeepsBytes s (placeWrite s o f) := by
  unfold placeWrite
  dsimp only
  split
  · split
    · refine .trans ?_ (announce_keepsBytes ..)
      exact ⟨rfl, rfl⟩
    · exact .refl s
  · refine (catchUp_keepsBytes s (homeDie f.ia)).trans ?_
    split <;> exact ⟨rfl, rfl⟩

theorem holdSend_keepsBytes (s : State) (n : Nat) (l : Lane) (e : RemoteEntry) (ia : Nat) (bs : List Byte) :
    KeepsBytes s (holdSend s n l e ia bs) := by
  unfold holdSend
  split
  · exact .refl s
  · dsimp only
    split
    · exact ⟨rfl, rfl⟩
    · split <;> exact ⟨rfl, rfl⟩

/-! ### Writes at their homes -/

theorem markDirty_groups (s : State) (launch : DWord) (g : Page) (ia : Nat) : (markDirty s launch g ia).groups = s.groups := by
  unfold markDirty
  split
  · rfl
  · split
    · rfl
    · dsimp only
      split
      · rfl
      · split <;> rfl

theorem underKey_groups (s : State) (key a : Nat) : (underKey s key a).groups = s.groups := by
  unfold underKey
  split
  · split <;> rfl
  · rfl

theorem beforeWrite_groups (s : State) (launch : DWord) (g : Page) (ia : Nat) : (beforeWrite s launch g ia).groups = s.groups :=
  (underKey_groups ..).trans (markDirty_groups ..)

theorem homeWrite_groups (s : State) (launch : DWord) (ia : Nat) (bs : List Byte) : (homeWrite s launch ia bs).groups = s.groups := by
  unfold homeWrite
  split
  · rfl
  · split
    · rfl
    · exact beforeWrite_groups ..

/-! ### A page whose entry is marked (R306, R309) -/

theorem protectGet_protectSet (s : State) (a b : Nat) (x : DWord) :
    protectGet (protectSet s a x) b = if b / 8 = a / 8 then x else protectGet s b := spGet_spSet ..

/-- A walk ends at a leaf entry, with the word that stands there. -/
theorem walkFrom_leaf {s : State} {ia n table : Nat} {l : Fin 4} {e : DWord} {a : Nat} (h : walkFrom s ia n table = some (l, e, a)) :
    entryLeaf e = true ∧ entryOk l e = true ∧ e = protectGet s a := by
  induction n generalizing table with
  | zero => cases h
  | succ n ih =>
    simp only [walkFrom] at h
    split at h
    · cases h
    next hok =>
      split at h
      next hleaf =>
        cases h
        exact ⟨hleaf, by simpa using hok, rfl⟩
      next => exact ih h

/-- A walk reads the entry at which it ends, and no other entry of it is a leaf: with another leaf there it ends at the same place. -/
theorem walkFrom_protectSet {s : State} {ia n table : Nat} {l : Fin 4} {e x : DWord} {a : Nat}
    (h : walkFrom s ia n table = some (l, e, a)) (hleaf : entryLeaf x = true) (hok : entryOk l x = true) :
    walkFrom (protectSet s a x) ia n table = some (l, x, a) := by
  obtain ⟨heleaf, -, he⟩ := walkFrom_leaf h
  induction n generalizing table with
  | zero => cases h
  | succ n ih =>
    simp only [walkFrom] at h ⊢
    split at h
    · cases h
    next hok' =>
      split at h
      next =>
        cases h
        rw [protectGet_protectSet, if_pos rfl, hok, hleaf, Bool.not_true, if_neg Bool.false_ne_true, if_pos rfl]
      next hnleaf =>
        have hne : entryAddr table (Fin.ofNat 4 (3 - n)) ia / 8 ≠ a / 8 := fun heq => hnleaf (by
          have hsame : protectGet s (entryAddr table (Fin.ofNat 4 (3 - n)) ia) = protectGet s a := by
            rw [protectGet, protectGet, heq]
          rw [hsame, ← he]
          exact heleaf)
        rw [protectGet_protectSet, if_neg hne, if_neg hok', if_neg hnleaf]
        exact ih h

/-- Two entries that differ in AB and DB alone. -/
def SameButMarks (x e : DWord) : Prop :=
  x.getLsbD 0 = e.getLsbD 0 ∧ x.getLsbD 1 = e.getLsbD 1 ∧ x.extractLsb' 54 2 = e.extractLsb' 54 2 ∧ x.extractLsb' 56 8 = e.extractLsb' 56 8
    ∧ x.extractLsb' 8 8 = e.extractLsb' 8 8 ∧ x.extractLsb' 16 38 = e.extractLsb' 16 38

theorem sameButMarks_or (e : DWord) (write : Bool) : SameButMarks (e ||| (if write then 0xC0 else 0x40)) e := by
  cases write <;> simp [SameButMarks, BitVec.extractLsb'_or]

section
variable {x e : DWord} (h : SameButMarks x e)
include h

theorem entryLeaf_of_sameButMarks : entryLeaf x = entryLeaf e := by
  obtain ⟨-, hleaf, -⟩ := h
  exact hleaf

theorem entryOk_of_sameButMarks (hleaf : entryLeaf e = true) (l : Fin 4) : entryOk l x = entryOk l e := by
  have hleaf' : entryLeaf x = true := (entryLeaf_of_sameButMarks h).trans hleaf
  obtain ⟨hv, -, hres, htop, -⟩ := h
  have hv' : entryV x = entryV e := hv
  simp only [entryOk, hleaf, hleaf', if_true, bitsOf_toNat, hres, htop, hv']

/-- The leaf of an entry with the marks of another. -/
theorem leafOfEntry_of_sameButMarks (l : Fin 4) :
    leafOfEntry l x = { leafOfEntry l e with ab := x.getLsbD 6, db := x.getLsbD 7, res := x.getLsbD 2, rp := x.getLsbD 3
                                             wp := x.getLsbD 4, xp := x.getLsbD 5 } := by
  obtain ⟨hv, -, -, -, hkey, hframe⟩ := h
  simp only [leafOfEntry, hv, hkey, hframe]

end

/-- Two pages at one place under one key: their base, their owner and what of the leaf gives the place and the key. -/
structure SamePlace (y g : Page) : Prop where
  base : y.base = g.base
  owner : y.owner = g.owner
  frame : y.leaf.frame = g.leaf.frame
  keyix : y.leaf.keyix = g.leaf.keyix

theorem SamePlace.physIn {y g : Page} (h : SamePlace y g) (ia : Nat) : physIn y ia = physIn g ia := by
  simp only [Machine.physIn, h.base, h.owner, h.frame]

theorem pageOf_eq_some {s : State} {ia : Nat} {g : Page} (h : pageOf s ia = some g) :
    ∃ o xs p l e a, windowOwner s ia = some (o, xs) ∧ findPart s o = some p ∧ walk s p ia = some (l, e, a)
      ∧ leafOk s p (leafOfEntry l e) = true ∧ g = ⟨ia / pageBytes l * pageBytes l, leafOfEntry l e, p, a⟩ := by
  unfold pageOf at h
  split at h
  · cases h
  next o xs ho =>
    split at h
    · cases h
    next p hp =>
      split at h
      · cases h
      next l e a hw =>
        split at h
        next hok =>
          cases h
          exact ⟨o, xs, p, l, e, a, ho, hp, hw, hok, rfl⟩
        next => cases h

/-- A page stays where it is when its entry is marked (R309). -/
theorem pageOf_markAccessed {s : State} {ia : Nat} {g : Page} (h : pageOf s ia = some g) (write : Bool) :
    ∃ y, pageOf (markAccessed s ia write) ia = some y ∧ SamePlace y g := by
  simp only [markAccessed, h]
  unfold markPage
  split
  · exact ⟨g, h, rfl, rfl, rfl, rfl⟩
  next =>
    obtain ⟨o, xs, p, l, e, a, ho, hp, hw, hok, rfl⟩ := pageOf_eq_some h
    obtain ⟨hleaf, hentry, he⟩ := walkFrom_leaf hw
    have hmarks : SameButMarks (protectGet s a ||| if write = true then 0xC0 else 0x40) e := by
      rw [he]
      exact sameButMarks_or _ write
    generalize (protectGet s a ||| if write = true then 0xC0 else 0x40 : DWord) = x at hmarks ⊢
    have hwalk : walk (protectSet s a x) p ia = some (l, x, a) :=
      walkFrom_protectSet hw ((entryLeaf_of_sameButMarks hmarks).trans hleaf) ((entryOk_of_sameButMarks hmarks hleaf l).trans hentry)
    have hok' : leafOk (protectSet s a x) p (leafOfEntry l x) = true := by
      rw [leafOfEntry_of_sameButMarks hmarks]
      exact hok
    have hwindow : windowOwner (protectSet s a x) ia = some (o, xs) := ho
    have hpart : findPart (protectSet s a x) o = some p := hp
    refine ⟨⟨ia / pageBytes l * pageBytes l, leafOfEntry l x, p, a⟩, ?_, rfl, rfl, ?_, ?_⟩
    · simp only [pageOf, hwindow, hpart, hwalk, hok', if_true]
    · rw [leafOfEntry_of_sameButMarks hmarks]
    · rw [leafOfEntry_of_sameButMarks hmarks]

theorem markAccessed_keys (s : State) (ia : Nat) (write : Bool) :
    (markAccessed s ia write).lineKeys = s.lineKeys ∧ (markAccessed s ia write).sweolo = s.sweolo := by
  unfold markAccessed
  split
  · exact ⟨rfl, rfl⟩
  · unfold markPage
    split <;> exact ⟨rfl, rfl⟩

theorem keyHere_markAccessed {s : State} {y g : Page} (h : SamePlace y g) (ia a : Nat) (write : Bool) :
    keyHere (markAccessed s ia write) y a = keyHere s g a := by
  obtain ⟨hkeys, hslots⟩ := markAccessed_keys s ia write
  simp only [keyHere, lineKeyOf, pageKey, slotKey, hkeys, hslots, h.keyix] <;> rfl

/-- A write at the home of a page that has been marked writes its bytes where the page was found. -/
theorem homeWrite_markAccessed_mem {s : State} {g : Page} {ia : Nat} (launch : DWord) (bs : List Byte) (hg : pageOf s ia = some g)
    (hk : keyHere s g (physIn g ia) = true) :
    (homeWrite (markAccessed s ia true) launch ia bs).mem = writeBytes s.mem (physIn g ia) bs := by
  obtain ⟨y, hy, hsame⟩ := pageOf_markAccessed hg true
  have hkey : keyHere (markAccessed s ia true) y (physIn y ia) = true := by
    rw [keyHere_markAccessed hsame, hsame.physIn]
    exact hk
  rw [homeWrite_mem launch bs hy hkey, hsame.physIn, (markAccessed_keepsBytes ..).mem]

end Sys2Proof.Machine
end

section
/-! SUPPORT. A gang that leaves the rendezvous (R202): its members complete their MMA or MMAS one after another, and of the other waves and
of the groups nothing changes with them. -/
namespace Sys2Proof.Machine

/-! ### Waves that go on -/

/-- A wave that goes on: its names, the states of its lanes and the lanes held aside are as they were, and it starts no single step. -/
structure GoesOn (w v : Wave) : Prop where
  id : v.id = w.id
  group : v.group = w.group
  index : v.index = w.index
  aside : v.aside = w.aside
  states : ∀ l, (laneOf v l).state = (laneOf w l).state
  stepping : w.stepping = none → v.stepping = none

theorem GoesOn.refl (w : Wave) : GoesOn w w := ⟨rfl, rfl, rfl, rfl, fun _ => rfl, fun h => h⟩
theorem GoesOn.trans {w v u : Wave} (h : GoesOn w v) (k : GoesOn v u) : GoesOn w u :=
  ⟨k.id.trans h.id, k.group.trans h.group, k.index.trans h.index, k.aside.trans h.aside, fun l => (k.states l).trans (h.states l),
    fun hw => k.stepping (h.stepping hw)⟩

theorem reformWave_goesOn (w : Wave) : GoesOn w (reformWave w) := ⟨rfl, rfl, rfl, rfl, fun _ => rfl, fun h => h⟩

theorem endRun_goesOn (w : Wave) (back : Bool) : GoesOn w (endRun w back) := by
  rw [endRun_eq]
  exact ⟨rfl, rfl, rfl, rfl, fun _ => rfl, fun h => h⟩

theorem retire_goesOn (w : Wave) (c : Ctx) (d : Done) (m : Mask) : GoesOn w (retire w c d m) := by
  have hstates (l : Lane) : (laneOf (retire w c d m) l).state = (laneOf w l).state := by
    rw [retire_lane]
    split <;> rfl
  rw [retire_eq]
  exact ⟨rfl, rfl, rfl, rfl, hstates, fun h => h⟩

theorem stopAgain_goesOn (w : Wave) (cut : Bool) : GoesOn w (stopAgain w cut) := by
  have hstop : GoesOn w { w with stepping := none, issue := none } := ⟨rfl, rfl, rfl, rfl, fun _ => rfl, fun _ => rfl⟩
  unfold stopAgain
  dsimp only
  split
  · exact ⟨rfl, rfl, rfl, rfl, fun _ => rfl, fun _ => rfl⟩
  · split
    · exact hstop
    · exact hstop.trans (endRun_goesOn ..)

/-- The groups are as they were, and every wave goes on. -/
structure WavesGoOn (s t : State) : Prop where
  groups : t.groups = s.groups
  waves : ∃ f : Wave → Wave, t.waves = s.waves.map f ∧ ∀ w, GoesOn w (f w)

theorem WavesGoOn.of_same {s t : State} (hg : t.groups = s.groups) (hw : t.waves = s.waves) : WavesGoOn s t :=
  ⟨hg, id, by rw [hw, List.map_id], .refl⟩
theorem WavesGoOn.refl (s : State) : WavesGoOn s s := .of_same rfl rfl

theorem WavesGoOn.trans {s t u : State} (h : WavesGoOn s t) (k : WavesGoOn t u) : WavesGoOn s u := by
  obtain ⟨f, hf, hfw⟩ := h.waves
  obtain ⟨e, he, hew⟩ := k.waves
  exact ⟨k.groups.trans h.groups, e ∘ f, by rw [he, hf, List.map_map], fun w => (hfw w).trans (hew (f w))⟩

theorem modWave_wavesGoOn (s : State) (n : Nat) {f : Wave → Wave} (hf : ∀ w, GoesOn w (f w)) : WavesGoOn s (modWave s n f) := by
  refine ⟨rfl, _, rfl, fun w => ?_⟩
  split
  · exact hf w
  · exact .refl w

theorem yieldSlot_wavesGoOn (s : State) (n : Nat) : WavesGoOn s (yieldSlot s n) :=
  (modWave_wavesGoOn s n (f := fun w => { w with lastRun := s.fresh }) fun _ => ⟨rfl, rfl, rfl, rfl, fun _ => rfl, fun h => h⟩).trans
    (.of_same rfl rfl)

theorem endStep_wavesGoOn (s : State) (n : Nat) (m : Mask) (pc : Pc) (outcome : Nat) : WavesGoOn s (endStep s n m pc outcome) := by
  unfold endStep
  split
  · exact .refl s
  next w _ =>
    split
    · exact .refl s
    next by' cut _ =>
      have hstop : WavesGoOn s (emitWave (dropCur (modWave s n fun v => stopAgain v cut) n) w 0x05 0 m pc outcome) :=
        (modWave_wavesGoOn s n fun v => stopAgain_goesOn v cut).trans (.of_same rfl rfl)
      dsimp only
      split
      · refine hstop.trans (modWave_wavesGoOn _ _ fun v => ?_)
        split
        · exact ⟨rfl, rfl, rfl, rfl, fun _ => rfl, fun h => h⟩
        · exact .refl v
      · exact hstop

/-! ### Waves that stand -/

/-- No wave is in a handler, and each has a lane that has not exited. -/
def AllStand (s : State) : Prop := ∀ w ∈ s.waves, w.aside = none ∧ allExited w = false

theorem AllStand.goOn {s t : State} (h : AllStand s) (k : WavesGoOn s t) : AllStand t := by
  obtain ⟨f, hf, hfw⟩ := k.waves
  intro v hv
  rw [hf, List.mem_map] at hv
  obtain ⟨w, hw, rfl⟩ := hv
  obtain ⟨haside, hexited⟩ := h w hw
  exact ⟨(hfw w).aside.trans haside, (allExited_congr (hfw w).aside (hfw w).states).trans hexited⟩

/-- No handler ends and no wave finishes where all waves stand. -/
theorem tryFinish_handlerEnd_of_allStand {s : State} (h : AllStand s) (n : Nat) : tryFinish (handlerEnd s n) n = s := by
  cases hw : findWave s n with
  | none => simp only [handlerEnd, tryFinish, hw]
  | some w =>
    obtain ⟨haside, hexited⟩ := h w (List.mem_of_find?_eq_some hw)
    have hend : handlerEnd s n = s := by simp only [handlerEnd, hw, haside]
    rw [hend, tryFinish_of_not_exited hw hexited]

/-- An instruction that completes, up to what may end with it: its wave has retired it, gives up the slot, and stops after a single step. -/
def beforeEnd (c : Ctx) (d : Done) : State :=
  let s1 := modWave (noteSkid d.s c.w c.r.pc) c.w.id fun w => retire w c d (skipMask c.w c.r)
  endStep (if runOver s1 c.w.id then yieldSlot s1 c.w.id else s1) c.w.id c.r.exec c.r.pc (if parksLanes c d then 1 else 0)

theorem settle_done_eq (c : Ctx) (d : Done) : settle c (.done d) = tryFinish (handlerEnd (beforeEnd c d) c.w.id) c.w.id := rfl

theorem beforeEnd_wavesGoOn (c : Ctx) (d : Done) : WavesGoOn d.s (beforeEnd c d) := by
  have hretire : WavesGoOn d.s (modWave (noteSkid d.s c.w c.r.pc) c.w.id fun w => retire w c d (skipMask c.w c.r)) :=
    .trans (.of_same (by rw [noteSkid_eq]) (noteSkid_waves ..)) (modWave_wavesGoOn _ _ fun w => retire_goesOn w c d _)
  refine .trans ?_ (endStep_wavesGoOn ..)
  split
  · exact hretire.trans (yieldSlot_wavesGoOn ..)
  · exact hretire

theorem settle_done_wavesGoOn {c : Ctx} {d : Done} (h : AllStand d.s) : WavesGoOn d.s (settle c (.done d)) := by
  rw [settle_done_eq, tryFinish_handlerEnd_of_allStand (h.goOn (beforeEnd_wavesGoOn c d))]
  exact beforeEnd_wavesGoOn c d

/-! ### An instruction that has waited -/

theorem completeWave_of_no_run {s : State} {n : Nat} {w : Wave} (hw : findWave s n = some w) (hr : w.run = none) : completeWave s n = s := by
  simp only [completeWave, hw, hr]

/-- The instruction that a wave's waiting run completes, as an instruction that goes on in the lanes of its EXEC. -/
def waitedCtx (s : State) (w : Wave) (r : Run) : Ctx := ⟨s, w, r, execMask w r, Shape.plain false [] true, .nop false⟩
def waitedDone (s : State) (w : Wave) (r : Run) : Done := ⟨s, execMask w r, none, true, false, onward⟩

theorem completeWave_of_run {s : State} {n : Nat} {w : Wave} {r : Run} (hw : findWave s n = some w) (hr : w.run = some r) :
    completeWave s n = settle (waitedCtx s w r) (.done (waitedDone s w r)) := by
  simp only [completeWave, hw, hr]
  rfl

theorem completeWave_wavesGoOn {s : State} (h : AllStand s) (n : Nat) : WavesGoOn s (completeWave s n) := by
  cases hw : findWave s n with
  | none =>
    simp only [completeWave, hw]
    exact .refl s
  | some w =>
    cases hr : w.run with
    | none =>
      rw [completeWave_of_no_run hw hr]
      exact .refl s
    | some r =>
      rw [completeWave_of_run hw hr]
      exact settle_done_wavesGoOn (d := waitedDone s w r) h

/-! ### The members of a gang -/

/-- The member of a gang that an arrival names goes on behind its MMA or MMAS. -/
def passMember (g : Nat) (t : State) (a : Arrival) : State :=
  match (wavesOf t g).find? fun w => w.index = a.index with
  | some w => completeWave (modWave t w.id reformWave) w.id
  | none => t

/-- The rendezvous that a gang has left: the array takes its operation, and its tiles are busy. -/
def leftRendezvous (s : State) (g : Group) (op : MatOp) (arr : List Arrival) : State :=
  let s1 := modGroup s g.id fun x =>
    { x with rendezvous := x.rendezvous.filter fun z => z.1.gang ≠ op.gang, array := x.array ++ [(op, arr)] }
  busyTile (busyTile (busyTile s1 g.id op.ta) g.id op.tb) g.id op.tc

theorem leaveGang_eq (s : State) (g : Group) (op : MatOp) (arr : List Arrival) :
    leaveGang s g op arr = arr.foldl (passMember g.id) (leftRendezvous s g op arr) := rfl

theorem passMember_wavesGoOn {t : State} (h : AllStand t) (g : Nat) (a : Arrival) : WavesGoOn t (passMember g t a) := by
  unfold passMember
  split
  next w _ =>
    have hreform := modWave_wavesGoOn t w.id reformWave_goesOn
    exact hreform.trans (completeWave_wavesGoOn (h.goOn hreform) w.id)
  next => exact .refl t

theorem foldl_passMember_wavesGoOn {t : State} (h : AllStand t) (g : Nat) (arr : List Arrival) : WavesGoOn t (arr.foldl (passMember g) t) := by
  induction arr generalizing t with
  | nil => exact .refl t
  | cons a arr ih =>
    have hstep := passMember_wavesGoOn h g a
    exact hstep.trans (ih (h.goOn hstep))

theorem leftRendezvous_waves (s : State) (g : Group) (op : MatOp) (arr : List Arrival) : (leftRendezvous s g op arr).waves = s.waves := rfl

theorem findGroup_leftRendezvous {s : State} {g h : Group} {op : MatOp} {arr : List Arrival} (hg : findGroup s g.id = some g)
    (hh : findGroup (leftRendezvous s g op arr) g.id = some h) :
    h.rendezvous = g.rendezvous.filter (fun z => z.1.gang ≠ op.gang) ∧ h.array = g.array ++ [(op, arr)] := by
  obtain ⟨y, hy, hyh⟩ := ((busyTile_tilesOnly ..).trans ((busyTile_tilesOnly ..).trans (busyTile_tilesOnly ..))).group _ _ hh
  rw [findGroup_modGroup_self (fun x => { x with rendezvous := x.rendezvous.filter fun z => z.1.gang ≠ op.gang, array := x.array ++ [(op, arr)] })
    (fun _ => rfl) hg, Option.some.injEq] at hy
  rw [hyh, ← hy]
  exact ⟨rfl, rfl⟩

/-- Where all waves stand, a gang that leaves changes its group as the rendezvous that it has left. -/
theorem findGroup_leaveGang {s : State} {g h : Group} {op : MatOp} {arr : List Arrival} (hg : findGroup s g.id = some g) (hs : AllStand s)
    (hh : findGroup (leaveGang s g op arr) g.id = some h) :
    h.rendezvous = g.rendezvous.filter (fun z => z.1.gang ≠ op.gang) ∧ h.array = g.array ++ [(op, arr)] := by
  have hgroups := (foldl_passMember_wavesGoOn (t := leftRendezvous s g op arr) hs g.id arr).groups
  refine findGroup_leftRendezvous hg ?_
  rw [leaveGang_eq, findGroup, hgroups] at hh
  exact hh

/-! ### One member -/

/-- All waves stand, and none issues a single step. -/
def AllSteady (s : State) : Prop := ∀ w ∈ s.waves, w.aside = none ∧ allExited w = false ∧ w.stepping = none

theorem AllSteady.allStand {s : State} (h : AllSteady s) : AllStand s := fun w hw => ⟨(h w hw).1, (h w hw).2.1⟩

theorem AllSteady.goOn {s t : State} (h : AllSteady s) (k : WavesGoOn s t) : AllSteady t := by
  have hstand := h.allStand.goOn k
  obtain ⟨f, hf, hfw⟩ := k.waves
  intro v hv
  obtain ⟨haside, hexited⟩ := hstand v hv
  rw [hf, List.mem_map] at hv
  obtain ⟨w, hw, rfl⟩ := hv
  exact ⟨haside, hexited, (hfw w).stepping (h w hw).2.2⟩

theorem exists_lane_of_not_exited {w : Wave} (ha : w.aside = none) (h : allExited w = false) : ∃ l, (laneOf w l).state ≠ .exited := by
  simp only [allExited, ha, List.all_eq_false, decide_eq_true_eq] at h
  obtain ⟨l, -, hl⟩ := h
  exact ⟨l, hl⟩

/-- The wave has its instruction behind it: its run is over, one more instruction has retired, and the lanes of its EXEC, or that skip it, are
at the next word. -/
def HasPassed (w : Wave) (r : Run) (v : Wave) : Prop :=
  v.run = none ∧ v.counters.retired = w.counters.retired + 1
    ∧ ∀ l, (laneOf v l).pc = if (execMask (reformWave w) r ||| skipMask (reformWave w) r).has l then (laneOf w l).pc + 4 else (laneOf w l).pc

theorem hasPassed_retire {s : State} {w : Wave} {r : Run} (n : Nat) :
    HasPassed w r { retire (reformWave w) (waitedCtx s (reformWave w) r) (waitedDone s (reformWave w) r) (skipMask (reformWave w) r) with
      lastRun := n } := by
  refine ⟨retire_run_of_ends _ ?_, ?_, fun l => ?_⟩
  · simp only [runEnds, waitedDone, Bool.or_true, Bool.true_or]
  · rw [retire_eq]
    exact countRetired_retired ..
  · have hlane := retire_lane (reformWave w) (waitedCtx s (reformWave w) r) (waitedDone s (reformWave w) r) (skipMask (reformWave w) r) l
    by_cases hm : (execMask (reformWave w) r ||| skipMask (reformWave w) r).has l = true
    · obtain ⟨-, -, -, -, hpc⟩ := laneBehind_frame (waitedDone s (reformWave w) r) l (laneOf (reformWave w) l)
      refine (congrArg LaneCtx.pc (hlane.trans (if_pos hm))).trans (hpc.trans ?_)
      rw [if_pos hm]
      exact ite_self _
    · rw [if_neg hm]
      exact (congrArg LaneCtx.pc (hlane.trans (if_neg hm))).trans rfl

/-- A member that has no run is left alone. -/
theorem completeWave_reform_of_no_run {s : State} {n : Nat} {w : Wave} (hw : findWave s n = some w) (hr : w.run = none) :
    findWave (completeWave (modWave s n reformWave) n) n = some w := by
  have hsame : reformWave w = w := by rw [reformWave, hr, Option.map_none, ← hr]
  have hreform : findWave (modWave s n reformWave) n = some w := by
    rw [findWave_modWave_self reformWave (fun _ => rfl) hw, hsame]
  rw [completeWave_of_no_run hreform hr, hreform]

section
variable {s : State} (hs : AllSteady s)
include hs

theorem completeWave_other {n k : Nat} (hk : k ≠ n) : findWave (completeWave s n) k = findWave s k := by
  cases hw : findWave s n with
  | none => simp only [completeWave, hw]
  | some w =>
    cases hr : w.run with
    | none => rw [completeWave_of_no_run hw hr]
    | some r =>
      obtain ⟨haside, hexited, hstep⟩ := hs w (List.mem_of_find?_eq_some hw)
      obtain ⟨l, hl⟩ := exists_lane_of_not_exited haside hexited
      have hid : w.id = n := findWave_id hw
      obtain ⟨-, hother, -⟩ := settle_done (waitedCtx s w r) (waitedDone s w r) w (by rw [← hid] at hw; exact hw) hstep l hl
      rw [completeWave_of_run hw hr]
      exact hother k (by rw [← hid] at hk; exact hk)

theorem completeWave_self {n : Nat} {w : Wave} {r : Run} (hw : findWave s n = some w) (hr : w.run = some r) :
    ∃ k, findWave (completeWave s n) n = some { retire w (waitedCtx s w r) (waitedDone s w r) (skipMask w r) with lastRun := k } := by
  obtain ⟨haside, hexited, hstep⟩ := hs w (List.mem_of_find?_eq_some hw)
  obtain ⟨l, hl⟩ := exists_lane_of_not_exited haside hexited
  obtain rfl : w.id = n := findWave_id hw
  obtain ⟨hself, -, -⟩ := settle_done (waitedCtx s w r) (waitedDone s w r) w hw hstep l hl
  rw [completeWave_of_run hw hr]
  exact hself

/-- A member whose run waits is passed. -/
theorem passed_of_reform {w : Wave} {r : Run} (hw : findWave s w.id = some w) (hr : (reformWave w).run = some r) :
    ∃ v, findWave (completeWave (modWave s w.id reformWave) w.id) w.id = some v ∧ HasPassed w r v := by
  obtain ⟨k, hk⟩ := completeWave_self (hs.goOn (modWave_wavesGoOn s w.id reformWave_goesOn))
    (findWave_modWave_self reformWave (fun _ => rfl) hw) hr
  exact ⟨_, hk, hasPassed_retire k⟩

end

/-! ### All members -/

/-- The wave of an index is the same in a state whose waves have gone on. -/
theorem WavesGoOn.member {s t : State} (h : WavesGoOn s t) (g : Nat) (i : BitVec 5) :
    ((wavesOf t g).find? fun w => w.index = i).map (·.id) = ((wavesOf s g).find? fun w => w.index = i).map (·.id) := by
  obtain ⟨f, hf, hfw⟩ := h.waves
  have hgroup (w : Wave) : (f w).group = w.group := (hfw w).group
  have hindex (w : Wave) : (f w).index = w.index := (hfw w).index
  have hid (w : Wave) : (f w).id = w.id := (hfw w).id
  simp only [wavesOf, hf, List.filter_map, List.find?_map, Option.map_map, Function.comp_def, hgroup, hindex, hid]

/-- An arrival of another wave leaves the wave. -/
theorem findWave_passMember_other {t : State} (ht : AllSteady t) {g n : Nat} {a : Arrival}
    (hn : ((wavesOf t g).find? fun w => w.index = a.index).map (·.id) ≠ some n) : findWave (passMember g t a) n = findWave t n := by
  unfold passMember
  split
  next w hw =>
    rw [hw, Option.map_some] at hn
    have hne : n ≠ w.id := fun h => hn (congrArg some h.symm)
    rw [completeWave_other (ht.goOn (modWave_wavesGoOn t w.id reformWave_goesOn)) hne,
      findWave_modWave_other reformWave (fun _ => rfl) hne]
  next => rfl

/-- An arrival of the wave completes its instruction. -/
theorem passMember_of_member {g n : Nat} {t : State} {a : Arrival}
    (hn : ((wavesOf t g).find? fun w => w.index = a.index).map (·.id) = some n) :
    passMember g t a = completeWave (modWave t n reformWave) n := by
  obtain ⟨w, hw, rfl⟩ := Option.map_eq_some_iff.mp hn
  simp only [passMember, hw]

/-- A wave that has passed stays as it is. -/
theorem hasPassed_foldl {w : Wave} {r : Run} (g : Nat) (arr : List Arrival) {t : State} (ht : AllSteady t)
    (h : ∃ v, findWave t w.id = some v ∧ HasPassed w r v) : ∃ v, findWave (arr.foldl (passMember g) t) w.id = some v ∧ HasPassed w r v := by
  induction arr generalizing t with
  | nil => exact h
  | cons a arr ih =>
    refine ih (ht.goOn (passMember_wavesGoOn ht.allStand g a)) ?_
    obtain ⟨v, hv, hpassed⟩ := h
    refine ⟨v, ?_, hpassed⟩
    by_cases hn : ((wavesOf t g).find? fun u => u.index = a.index).map (·.id) = some w.id
    · rw [passMember_of_member hn, completeWave_reform_of_no_run hv hpassed.1]
    · rw [findWave_passMember_other ht hn, hv]

/-- Each member whose run waits has passed when all have. -/
theorem foldl_passMember_hasPassed {w : Wave} {r : Run} {g : Nat} {a : Arrival} (arr : List Arrival) {t : State} (ht : AllSteady t)
    (ha : a ∈ arr) (hn : ((wavesOf t g).find? fun u => u.index = a.index).map (·.id) = some w.id) (hw : findWave t w.id = some w)
    (hr : (reformWave w).run = some r) : ∃ v, findWave (arr.foldl (passMember g) t) w.id = some v ∧ HasPassed w r v := by
  induction arr generalizing t with
  | nil => cases ha
  | cons b arr ih =>
    have hgo := passMember_wavesGoOn ht.allStand g b
    by_cases hb : ((wavesOf t g).find? fun u => u.index = b.index).map (·.id) = some w.id
    · refine hasPassed_foldl g arr (ht.goOn hgo) ?_
      rw [passMember_of_member hb]
      exact passed_of_reform ht hw hr
    · have hrest : a ∈ arr := (List.mem_cons.mp ha).resolve_left fun hab => hb (by rw [← hab]; exact hn)
      exact ih (ht.goOn hgo) hrest (by rw [hgo.member]; exact hn) (by rw [findWave_passMember_other ht hb, hw])

theorem leaveGang_hasPassed {s : State} {g : Group} {op : MatOp} {arr : List Arrival} {a : Arrival} {w : Wave} {r : Run} (hs : AllSteady s)
    (ha : a ∈ arr) (hn : (wavesOf s g.id).find? (fun v => v.index = a.index) = some w) (hw : findWave s w.id = some w)
    (hr : (reformWave w).run = some r) : ∃ v, findWave (leaveGang s g op arr) w.id = some v ∧ HasPassed w r v := by
  have hmember : ((wavesOf (leftRendezvous s g op arr) g.id).find? fun u => u.index = a.index).map (·.id) = some w.id := by
    rw [← Option.map_some (f := fun u : Wave => u.id), ← hn]
    rfl
  rw [leaveGang_eq]
  exact foldl_passMember_hasPassed arr hs ha hmember hw hr

end Sys2Proof.Machine
end

section
/-! SUPPORT. Work that ends leaves the buffers of the groups that stay (R18, R226, R343, R346): each group that is left has the A-buffer and
the C-buffer that it had. -/
namespace Sys2Proof.Machine

/-- Each group that is left has the A-buffer and the C-buffer that it had. -/
structure KeepsBuffers (s t : State) : Prop where
  group : ∀ n h, findGroup t n = some h → ∃ g, findGroup s n = some g ∧ h.abuf = g.abuf ∧ h.cbuf = g.cbuf

theorem KeepsBuffers.refl (s : State) : KeepsBuffers s s := ⟨fun _ h hh => ⟨h, hh, rfl, rfl⟩⟩

theorem KeepsBuffers.trans {s t u : State} (h : KeepsBuffers s t) (k : KeepsBuffers t u) : KeepsBuffers s u := by
  refine ⟨fun n y hy => ?_⟩
  obtain ⟨z, hz, hza, hzc⟩ := k.group n y hy
  obtain ⟨g, hg, hga, hgc⟩ := h.group n z hz
  exact ⟨g, hg, hza.trans hga, hzc.trans hgc⟩

theorem KeepsBuffers.of_groups {s t : State} (h : t.groups = s.groups) : KeepsBuffers s t :=
  ⟨fun _ y hy => ⟨y, by rw [findGroup, ← h]; exact hy, rfl, rfl⟩⟩

theorem KeepsBuffers.after {s t u : State} (k : KeepsBuffers t u) (h : t.groups = s.groups) : KeepsBuffers s u :=
  (KeepsBuffers.of_groups h).trans k

/-- Groups changed beside their numbers and these buffers. -/
theorem KeepsBuffers.of_map {s t : State} (f : Group → Group) (h : t.groups = s.groups.map f)
    (hf : ∀ g, (f g).id = g.id ∧ (f g).abuf = g.abuf ∧ (f g).cbuf = g.cbuf) : KeepsBuffers s t := by
  refine ⟨fun n y hy => ?_⟩
  have hid (g : Group) : (f g).id = g.id := (hf g).1
  simp only [findGroup, h, List.find?_map, Function.comp_def, hid, Option.map_eq_some_iff] at hy
  obtain ⟨g, hg, rfl⟩ := hy
  exact ⟨g, hg, (hf g).2⟩

/-- The groups of one number gone. -/
theorem KeepsBuffers.of_filter {s t : State} (k : Nat) (h : t.groups = s.groups.filter fun g => g.id ≠ k) : KeepsBuffers s t := by
  refine ⟨fun n y hy => ?_⟩
  refine ⟨y, ?_, rfl, rfl⟩
  have hmem := List.mem_of_find?_eq_some hy
  rw [h, List.mem_filter, decide_eq_true_eq, findGroup_id hy] at hmem
  rw [findGroup, h, List.find?_filter] at hy
  rw [findGroup, ← hy]
  congr 1
  funext g
  by_cases hg : g.id = n
  · simp [hg, hmem.2]
  · simp [hg]

theorem foldl_keepsBuffers {α : Type} {f : State → α → State} (hf : ∀ t x, KeepsBuffers t (f t x)) (l : List α) (s : State) :
    KeepsBuffers s (l.foldl f s) := by
  induction l generalizing s with
  | nil => exact .refl s
  | cons x l ih => exact (hf s x).trans (ih _)

theorem modGroup_keepsBuffers (s : State) (n : Nat) {f : Group → Group}
    (hf : ∀ g, (f g).id = g.id ∧ (f g).abuf = g.abuf ∧ (f g).cbuf = g.cbuf) : KeepsBuffers s (modGroup s n f) := by
  refine .of_map _ rfl fun g => ?_
  split
  · exact hf g
  · exact ⟨rfl, rfl, rfl⟩

theorem TilesOnly.keepsBuffers {s t : State} (h : TilesOnly s t) : KeepsBuffers s t := by
  refine ⟨fun n y hy => ?_⟩
  obtain ⟨g, hg, hgy⟩ := h.group n y hy
  exact ⟨g, hg, by rw [hgy], by rw [hgy]⟩

/-! ### What leaves the groups as they are -/

theorem endScout_groups (s : State) (n : Nat) : (endScout s n).groups = s.groups := by
  unfold endScout
  split <;> rfl

theorem campionNext_groups (s : State) (tenant : Nat) (c : BitVec 6) (clock : Clock) : (campionNext s tenant c clock).groups = s.groups := by
  unfold campionNext
  split
  · rfl
  · split <;> rfl

theorem freeMonitors_groups (s : State) (mine : Nat → Bool) : (freeMonitors s mine).groups = s.groups :=
  foldl_keeps State.groups _ (fun _ _ => campionNext_groups ..) _ _

theorem releaseHusk_groups (s : State) (n : Nat) : (releaseHusk s n).groups = s.groups := by
  unfold releaseHusk
  split
  · rfl
  · split
    · rfl
    · split
      · rfl
      · exact freeMonitors_groups ..

theorem stopWave_groups (s : State) (n : Nat) : (stopWave s n).groups = s.groups := by
  have hrelease (t : State) (ht : t.groups = s.groups) : (releaseHusk (modWave (dropWaits t n) n husk) n).groups = s.groups :=
    (releaseHusk_groups ..).trans ht
  unfold stopWave
  dsimp only
  split
  · exact endScout_groups s n
  · split
    · split <;> exact hrelease _ (endScout_groups s n)
    · exact hrelease _ (endScout_groups s n)

theorem endTasks_groups (s : State) (gs : List Group) (id : DWord) (part status trap : Nat) :
    (endTasks s gs id part status trap).groups = s.groups := by
  refine foldl_keeps State.groups _ (fun t g => ?_) gs s
  split <;> rfl

theorem restoreSnapshot_groups (s : State) (l : Launch) : (restoreSnapshot s l).groups = s.groups := by
  refine foldl_keeps State.groups _ (fun t g => ?_) _ s
  split
  · rfl
  · exact underKey_groups ..

theorem settleLaunch_groups (s : State) (id : DWord) : (settleLaunch s id).groups = s.groups := by
  unfold settleLaunch
  split
  · rfl
  · split <;> rfl

theorem restartLaunch_groups (s : State) (id : DWord) : (restartLaunch s id).groups = s.groups := by
  unfold restartLaunch
  split
  · rfl
  · split
    · exact (freeMonitors_groups ..).trans (restoreSnapshot_groups ..)
    · rfl

theorem dropReplicas_l1DropEvery_groups (s : State) (line : Nat) : (dropReplicas (l1DropEvery s line) line).groups = s.groups := rfl

theorem hardWrite_groups (s : State) (launch : DWord) (ia : Nat) (bs : List Byte) : (hardWrite s launch ia bs).groups = s.groups := by
  refine foldl_keeps State.groups _ (fun t q => ?_) _ s
  dsimp only
  rw [dropReplicas_l1DropEvery_groups, (llcMeet_keepsBytes ..).groups, homeWrite_groups, (markAccessed_keepsBytes ..).groups]

/-! ### Groups that leave -/

theorem removeGroup_keepsBuffers (s : State) (n : Nat) : KeepsBuffers s (removeGroup s n) := by
  unfold removeGroup
  split
  · exact .refl s
  · extract_lets s1 s2
    have hfreed : s2.groups = s.groups.filter fun g => g.id ≠ n := by
      unfold s2
      split <;> rfl
    exact .of_filter n ((restartLaunch_groups ..).trans ((settleLaunch_groups ..).trans hfreed))

theorem reap_keepsBuffers (s : State) (n : Nat) : KeepsBuffers s (reap s n) := by
  unfold reap
  split
  · exact .refl s
  · split
    · exact removeGroup_keepsBuffers ..
    · exact .refl s

theorem groupFinish_keepsBuffers (s : State) (n : Nat) : KeepsBuffers s (groupFinish s n) := by
  unfold groupFinish
  split
  · exact .refl s
  · split
    · exact reap_keepsBuffers ..
    · split
      · exact (modGroup_keepsBuffers s n (f := fun y => { y with finished := true, sharing := none }) fun g => ⟨rfl, rfl, rfl⟩).trans
          (.of_groups rfl)
      · exact removeGroup_keepsBuffers ..

theorem endLaunch_keepsBuffers (s : State) (id : DWord) (st : LaunchState) (status trap : Nat) (record : Bool) :
    KeepsBuffers s (endLaunch s id st status trap record) := by
  unfold endLaunch
  split
  · exact .refl s
  · split
    · exact .refl s
    · extract_lets s1 s2 s3 s4
      have hstopped : s1.groups = s.groups :=
        (foldl_keeps State.groups _ stopWave_groups _ _).trans (foldl_keeps State.groups _ endScout_groups _ s)
      have hended : KeepsBuffers s s2 := .trans (.of_groups hstopped) (.of_map _ rfl fun g => by split <;> exact ⟨rfl, rfl, rfl⟩)
      have htasks : s4.groups = s2.groups := by
        refine (endTasks_groups ..).trans ?_
        split <;> rfl
      exact hended.trans ((foldl_keepsBuffers reap_keepsBuffers _ s4).after htasks)

theorem faultLaunch_keepsBuffers (s : State) (id : DWord) (t : Trap) : KeepsBuffers s (faultLaunch s id t) := endLaunch_keepsBuffers ..

/-! ### Traps -/

theorem trapWave_keepsBuffers (s : State) (n : Nat) (x : TrapInfo) : KeepsBuffers s (trapWave s n x) := by
  unfold trapWave
  split
  · exact .refl s
  · extract_lets _ w s0 body
    have hstep : s0.groups = s.groups := (endStep_wavesGoOn ..).groups
    have hfault (u : State) (hu : u.groups = s.groups) (id : DWord) (t : Trap) : KeepsBuffers s (faultLaunch u id t) :=
      (faultLaunch_keepsBuffers ..).after hu
    split
    · refine hfault _ ?_ _ _
      exact hstep
    · have hwrite : ∀ ia, (hardWrite s0 w.launch ia (bytesOf body 64)).groups = s.groups := fun ia => (hardWrite_groups ..).trans hstep
      dsimp only
      split
      · exact hfault _ (hwrite _) _ _
      · split
        · exact hfault _ (hwrite _) _ _
        · exact .of_groups (hwrite _)

theorem failRendezvous_keepsBuffers (s : State) (n : Nat) (gang : Word) (x : Trap) : KeepsBuffers s (failRendezvous s n gang x) := by
  unfold failRendezvous
  split
  · exact .refl s
  · split
    · exact .refl s
    · refine .trans ?_ (foldl_keepsBuffers (fun t a => ?_) _ _)
      · exact modGroup_keepsBuffers s n fun g => ⟨rfl, rfl, rfl⟩
      · split
        · exact .refl t
        · split
          · exact .refl t
          · exact trapWave_keepsBuffers ..

theorem abortRendezvous_keepsBuffers (s : State) (n : Nat) (gangs : List Word) : KeepsBuffers s (abortRendezvous s n gangs) :=
  foldl_keepsBuffers (fun _ _ => failRendezvous_keepsBuffers ..) gangs s

/-! ### Waves that finish -/

theorem barrierCheck_keepsBuffers (s : State) (n : Nat) : KeepsBuffers s (barrierCheck s n) := by
  unfold barrierCheck
  dsimp only
  split
  · refine .trans ?_ (foldl_keepsBuffers (fun t w => ?_) _ _)
    · exact modGroup_keepsBuffers s n fun g => ⟨rfl, rfl, rfl⟩
    · exact .of_groups rfl
  · exact .refl s

theorem waveFinish_keepsBuffers (s : State) (n : Nat) : KeepsBuffers s (waveFinish s n) := by
  unfold waveFinish
  split
  · exact .refl s
  next w _ =>
    extract_lets _ s1 s2
    have hleft : KeepsBuffers s s2 := (abortRendezvous_keepsBuffers s1 w.group (gangsOf s w.group w.index)).after rfl
    split
    · exact hleft.trans (groupFinish_keepsBuffers ..)
    · exact hleft.trans (barrierCheck_keepsBuffers ..)

theorem finishWave_keepsBuffers (s : State) (n : Nat) : KeepsBuffers s (finishWave s n) := by
  unfold finishWave
  split
  · exact .refl s
  · split
    · exact waveFinish_keepsBuffers ..
    · exact (trapWave_keepsBuffers ..).after rfl

theorem tryFinish_keepsBuffers (s : State) (n : Nat) : KeepsBuffers s (tryFinish s n) := by
  unfold tryFinish
  split
  · exact .refl s
  · split
    · exact finishWave_keepsBuffers ..
    · exact .refl s

theorem handlerEnd_keepsBuffers (s : State) (n : Nat) : KeepsBuffers s (handlerEnd s n) := by
  unfold handlerEnd
  split
  · exact .refl s
  · split
    · exact .refl s
    · split
      · exact .refl s
      · split
        · exact trapWave_keepsBuffers ..
        · split
          · exact trapWave_keepsBuffers ..
          · exact (tryFinish_keepsBuffers ..).after rfl

theorem settle_done_keepsBuffers (c : Ctx) (d : Done) : KeepsBuffers d.s (settle c (.done d)) := by
  rw [settle_done_eq]
  exact ((handlerEnd_keepsBuffers _ c.w.id).trans (tryFinish_keepsBuffers ..)).after (beforeEnd_wavesGoOn c d).groups

theorem completeWave_keepsBuffers (s : State) (n : Nat) : KeepsBuffers s (completeWave s n) := by
  unfold completeWave
  split
  · exact .refl s
  · split
    · exact .refl s
    · exact settle_done_keepsBuffers _ ⟨s, _, none, true, false, onward⟩

end Sys2Proof.Machine
end

section
/-! SUPPORT. The rendezvous, the array and the drain (R202, R204, R205, R210): the statement on matrix events (O39). -/
namespace Sys2Proof.Machine

/-! ### The rendezvous -/

/-- The first element that a test takes, behind elements that it does not take. -/
theorem find?_of_first {α : Type} {p : α → Bool} {l pre post : List α} {x : α} (hl : l = pre ++ x :: post) (hpre : ∀ z ∈ pre, p z = false)
    (hx : p x = true) : l.find? p = some x :=
  List.find?_eq_some_iff_append.mpr ⟨hx, pre, post, hl, fun z hz => by simp [hpre z hz]⟩

theorem ne_none_of_isSome {α : Type} {o : Option α} (h : o.isSome) : o.isNone = false := by
  cases o with
  | none => cases h
  | some _ => rfl

section
variable {s : State} {g : Group} {op : MatOp} {arr : List Arrival} (hg : findGroup s g.id = some g) (hp : g.place.isSome)
include hg hp

theorem acceptGang_of_ready {x : Tile × Tile × Tile} (hfirst : g.rendezvous.find? (gangGoes g) = some (op, arr))
    (ht : matTiles g op = some x) : acceptGang s g.id = leaveGang s g op arr := by
  simp only [acceptGang, hg, hfirst, ne_none_of_isSome hp, ht, Bool.false_eq_true, if_false]

theorem acceptGang_of_refused (hfirst : g.rendezvous.find? (gangGoes g) = some (op, arr)) (ht : matTiles g op = none) :
    acceptGang s g.id = failRendezvous s g.id op.gang .engine := by
  simp only [acceptGang, hg, hfirst, ne_none_of_isSome hp, ht, Bool.false_eq_true, if_false]

theorem expireGang_of_waiting (hfirst : g.rendezvous.find? (gangWaits s g.id) = some (op, arr)) :
    expireGang s g.id = failRendezvous s g.id op.gang .gang := by
  simp only [expireGang, hg, hfirst, ne_none_of_isSome hp, Bool.false_eq_true, if_false]

end

theorem gangGoes_of_ready {g : Group} {op : MatOp} {arr : List Arrival} {x : Tile × Tile × Tile} (ha : allArrived op arr = true)
    (ht : matTiles g op = some x) (hr : tilesReady x = true) : gangGoes g (op, arr) = true := by
  simp only [gangGoes, ha, ht, hr, Bool.and_self]

theorem gangGoes_of_refused {g : Group} {op : MatOp} {arr : List Arrival} (ha : allArrived op arr = true) (ht : matTiles g op = none) :
    gangGoes g (op, arr) = true := by
  simp only [gangGoes, ha, ht, Bool.and_self]

theorem gangWaits_of_running {s : State} {n : Nat} {op : MatOp} {arr : List Arrival} (ha : allArrived op arr = false)
    (hw : ∀ w ∈ wavesOf s n, w.stopped = false) : gangWaits s n (op, arr) = true := by
  have hnone : ((wavesOf s n).any fun w => w.stopped && arr.any fun a => a.index = w.index) = false :=
    List.any_eq_false.mpr fun w hmem => by simp [hw w hmem]
  simp only [gangWaits, ha, hnone, Bool.not_false, Bool.and_self]

/-! ### The array -/

theorem findTile_of_matTiles {g : Group} {op : MatOp} {a b c : Tile} (h : matTiles g op = some (a, b, c)) :
    findTile g op.ta = some a ∧ findTile g op.tb = some b ∧ findTile g op.tc = some c := by
  unfold matTiles at h
  split at h
  next ha hb hc =>
    dsimp only at h
    split at h
    · cases h
      exact ⟨ha, hb, hc⟩
    · cases h
  next => cases h

/-- The sums of a C tile replaced by those of an operation's result. -/
def putSums (x : CTile) (t : Tile) : Tile := { t with rows := x.rows, cols := x.cols, flags := x.flags }

/-- The array without its oldest operation, whose tiles are busy no more with it. -/
def arrayBehind (s : State) (gid : Nat) (op : MatOp) (rest : List (MatOp × List Arrival)) : State :=
  idleTile (idleTile (idleTile (modGroup s gid fun x => { x with array := rest }) gid op.ta) gid op.tb) gid op.tc

theorem finishArray_of_clean {s : State} {g : Group} {op : MatOp} {arr : List Arrival} {rest : List (MatOp × List Arrival)} {a b c : Tile}
    (hg : findGroup s g.id = some g) (harray : g.array = (op, arr) :: rest) (ht : matTiles g op = some (a, b, c))
    (hclean : matPoisoned s g op arr a b c = false) :
    finishArray s g.id = modTile (modGroup (arrayBehind s g.id op rest) g.id fun y => { y with cbuf := (matApply g op arr a b c).buf }) g.id op.tc
      (putSums (matApply g op arr a b c)) := by
  obtain ⟨ha, hb, hc⟩ := findTile_of_matTiles ht
  simp only [finishArray, hg, harray, ha, hb, hc, hclean, Bool.false_eq_true, if_false]
  rfl

/-- The group whose array has done its oldest operation: beside its tiles and the array, its C-buffer alone is new. -/
theorem findGroup_finishArray {s : State} {g h : Group} {op : MatOp} {arr : List Arrival} {rest : List (MatOp × List Arrival)} {a b c : Tile}
    (hg : findGroup s g.id = some g) (harray : g.array = (op, arr) :: rest) (ht : matTiles g op = some (a, b, c))
    (hclean : matPoisoned s g op arr a b c = false) (hh : findGroup (finishArray s g.id) g.id = some h) :
    h.array = rest ∧ h.abuf = g.abuf ∧ h.wbuf = g.wbuf ∧ h.cbuf = (matApply g op arr a b c).buf := by
  rw [finishArray_of_clean hg harray ht hclean] at hh
  obtain ⟨y, hy, hhy⟩ := (modTile_tilesOnly ..).group _ _ hh
  rw [findGroup_modGroup _ _ _ (fun y => { y with cbuf := (matApply g op arr a b c).buf }) fun _ => rfl, Option.map_eq_some_iff] at hy
  obtain ⟨z, hz, rfl⟩ := hy
  obtain ⟨x, hx, hzx⟩ := ((idleTile_tilesOnly ..).trans ((idleTile_tilesOnly ..).trans (idleTile_tilesOnly ..))).group _ _ hz
  rw [findGroup_modGroup_self (fun x => { x with array := rest }) (fun _ => rfl) hg, Option.some.injEq] at hx
  rw [if_pos (findGroup_id hz)] at hhy
  rw [hhy, hzx, ← hx]
  exact ⟨rfl, rfl, rfl, rfl⟩

theorem finishArray_mem {s : State} {g : Group} {op : MatOp} {arr : List Arrival} {rest : List (MatOp × List Arrival)} {a b c : Tile}
    (hg : findGroup s g.id = some g) (harray : g.array = (op, arr) :: rest) (ht : matTiles g op = some (a, b, c))
    (hclean : matPoisoned s g op arr a b c = false) : (finishArray s g.id).mem = s.mem := by
  rw [finishArray_of_clean hg harray ht hclean]
  rfl

/-! ### The drain -/

theorem countCorrection_groups (s : State) (w : Wave) (m : Mask) (die core : Nat) (t : Fin 64) (fix : Option (Nat × Nat)) :
    (countCorrection s w m die core t fix).groups = s.groups := by
  unfold countCorrection
  split <;> rfl

theorem endDrain_keepsBuffers (s : State) (w : Wave) (a t : Fin 64) (st : TileState) : KeepsBuffers s (endDrain s w a t st) := by
  have htiles : TilesOnly s (setTile (setTile (idleTile (idleTile s w.group a) w.group t) w.group t .ready) w.group a st) :=
    (idleTile_tilesOnly ..).trans ((idleTile_tilesOnly ..).trans ((setTile_tilesOnly ..).trans (setTile_tilesOnly ..)))
  exact htiles.keepsBuffers.trans (.of_groups rfl)

/-- A drain that passes its checks leaves the converted cells in the A-buffer and the checked ones in the C-buffer, and then nothing but ends. -/
theorem finishDrain_keepsBuffers {s : State} {g : Group} {w : Wave} {a t : Fin 64} {md : Rnd} {ph : BitVec 5} {x y : Tile} {m : Memory}
    {fix : Option (Nat × Nat)} {fmt : Fmt} (hg : findGroup s w.group = some g) (hw : findWave s w.id = some w)
    (hd : w.drain = some (a, t, md, ph)) (hx : findTile g a = some x) (hy : findTile g t = some y)
    (hclean : bufPoisoned s g.id 2 (tdBase y.desc) (tdBytes y.desc) = false) (hcheck : drainCheck g y w.ckmode.toNat = some (m, fix))
    (hfmt : tdFmtA x.desc = some fmt) :
    KeepsBuffers (modGroup s g.id fun z => { z with abuf := (convertTile g.abuf m x.desc y.desc fmt md ph.toNat).1, cbuf := m })
      (finishDrain s w.id) := by
  simp only [finishDrain, hw, hd, hg, hx, hy, hclean, hcheck, hfmt, Bool.false_eq_true, if_false]
  refine ((endDrain_keepsBuffers _ w a t .ready).trans (completeWave_keepsBuffers ..)).after ?_
  exact countCorrection_groups ..

/-- Settles O39: the gang's group and members by the fold over its arrivals, the failing gangs by the first that goes or waits, the array by its
one step, and the drain because all that follows its last pass keeps the buffers. -/
theorem matrixEvents : Obligations.MatrixEvents := by
  intro s g hg
  refine ⟨fun pre op arr post x hrv hpre ha hp ht hr => ?_, fun pre op arr post hrv hpre ha hp ht => ?_,
    fun pre op arr post hrv hpre ha hp hw => ?_, fun op arr rest a b c harray ht hclean => ?_,
    fun w a t md ph x y m fix fmt hw hgroup hd hx hy hclean _ hcheck hfmt => ⟨rfl, fun h hh => ?_⟩⟩
  · have hfirst := find?_of_first hrv hpre (gangGoes_of_ready ha ht hr)
    refine ⟨congrArg Host.Outcome.next (acceptGang_of_ready hg hp hfirst ht), fun hs h => findGroup_leaveGang hg hs, ?_⟩
    exact fun hs b hb w r hn hw => leaveGang_hasPassed hs hb hn hw
  · have hfirst := find?_of_first hrv hpre (gangGoes_of_refused ha ht)
    exact congrArg Host.Outcome.next (acceptGang_of_refused hg hp hfirst ht)
  · have hfirst := find?_of_first hrv hpre (gangWaits_of_running ha hw)
    exact congrArg Host.Outcome.next (expireGang_of_waiting hg hp hfirst)
  · exact ⟨rfl, finishArray_mem hg harray ht hclean, fun h => findGroup_finishArray hg harray ht hclean⟩
  · have hg' : findGroup s w.group = some g := by rw [hgroup, hg]
    obtain ⟨z, hz, hza, hzc⟩ := (finishDrain_keepsBuffers hg' hw hd hx hy hclean hcheck hfmt).group _ _ hh
    rw [findGroup_modGroup_self (fun z => { z with abuf := (convertTile g.abuf m x.desc y.desc fmt md ph.toNat).1, cbuf := m })
      (fun _ => rfl) hg, Option.some.injEq] at hz
    rw [hza, hzc, ← hz]
    exact ⟨rfl, rfl⟩

end Sys2Proof.Machine
end

section
/-! SUPPORT. An engine that takes a command, and what its work comes to (R216 to R218). -/
namespace Sys2Proof.Machine

/-! ### The next command of a queue register (R216) -/

/-- The command is the next of its queue register, with the OP of the event and well formed, and no mark of its partition is due. -/
def CommandNext (s : State) (w : Wave) (k : Fin 8) (g : Group) (c : Command) (op : Nat) : Prop :=
  findWave s w.id = some w ∧ findGroup s w.group = some g ∧ nextCommand (w.queues.get k) = some c ∧ w.finished = false
    ∧ markHolds s w.part = false ∧ c.op = op ∧ commandOk g (w.queues.get k).bound c = true

theorem engineTakes_of_next {s : State} {w : Wave} {k : Fin 8} {g : Group} {c : Command} {op : Nat} (h : CommandNext s w k g c op)
    (work : State → Eng1 → Ran) :
    engineTakes s w.id k op work = if tileOk g c then (if commandMay s ⟨w, g, k, c⟩ then acceptCommand s ⟨w, g, k, c⟩ work else s)
      else rejectCommand s w.id k c 3 := by
  obtain ⟨hw, hg, hc, hf, hm, ho, hok⟩ := h
  cases ht : tileOk g c <;> simp [engineTakes, hw, hg, hc, hf, hm, ho, hok, ht]

theorem engineTakes_of_ready {s : State} {w : Wave} {k : Fin 8} {g : Group} {c : Command} {op : Nat}
    (h : CommandNext s w k g c op ∧ tileOk g c = true ∧ commandMay s ⟨w, g, k, c⟩ = true) (work : State → Eng1 → Ran) :
    engineTakes s w.id k op work = acceptCommand s ⟨w, g, k, c⟩ work := by
  obtain ⟨hnext, htile, hmay⟩ := h
  rw [engineTakes_of_next hnext, if_pos htile, if_pos hmay]

theorem engineTakes_of_wrong_tile {s : State} {w : Wave} {k : Fin 8} {g : Group} {c : Command} {op : Nat} (h : CommandNext s w k g c op)
    (ht : tileOk g c = false) (work : State → Eng1 → Ran) : engineTakes s w.id k op work = rejectCommand s w.id k c 3 := by
  rw [engineTakes_of_next h, if_neg (by simp [ht])]

/-- Every command that names a tile is rejected where the tile is in a wrong state. -/
theorem exec_of_wrong_tile {s : State} {w : Wave} {k : Fin 8} {g : Group} {c : Command} {n : Nat} (h : CommandNext s w k g c n)
    (ht : tileOk g c = false) {i : Instr}
    (hi : (n, i) ∈ [(2, Instr.loada w.id k), (3, .loadw w.id k), (4, .storea w.id k), (16, .gather w.id k), (48, .drain w.id k)]) :
    exec i s = .next (rejectCommand s w.id k c 3) := by
  have htakes := engineTakes_of_wrong_tile h ht
  simp only [List.mem_cons, Prod.mk.injEq, List.not_mem_nil, or_false] at hi
  rcases hi with ⟨rfl, rfl⟩ | ⟨rfl, rfl⟩ | ⟨rfl, rfl⟩ | ⟨rfl, rfl⟩ | ⟨rfl, rfl⟩
  all_goals exact congrArg Host.Outcome.next (htakes _)

/-! ### What the work comes to (R217) -/

theorem runSingle_of_denied {t : State} {x : Eng1} {y : Nat × DWord} {f : State → State}
    (h : firstBad t x (sources x) = some y ∨ (firstBad t x (sources x) = none ∧ firstBad t x (destinations x) = some y)) :
    runSingle t x f = denied t y := by
  rcases h with h | ⟨hs, hd⟩
  · simp only [runSingle, h]
  · simp only [runSingle, hs, hd]

theorem runSingle_of_permitted {t : State} {x : Eng1} {f : State → State} (hs : firstBad t x (sources x) = none)
    (hd : firstBad t x (destinations x) = none) :
    runSingle t x f = match meetsError t x with | none => wrote (f t) | some what => struck t what := by
  cases h : meetsError t x <;> simp only [runSingle, hs, hd, h]

theorem eachStatus_of_all_none {bad : List (Option (Nat × DWord))} (h : ∀ b ∈ bad, b = none) : eachStatus bad = (0, 0) := by
  have hnone : bad.findSome? id = none := List.findSome?_eq_none_iff.mpr h
  simp only [eachStatus, hnone]

theorem eachStatus_of_some_none {bad : List (Option (Nat × DWord))} (h : ∃ b ∈ bad, b = none) (h' : ∃ b ∈ bad, b ≠ none) :
    (eachStatus bad).1 = 1 := by
  obtain ⟨b, hb, rfl⟩ := h
  have hany : bad.any (·.isNone) = true := List.any_eq_true.mpr ⟨none, hb, rfl⟩
  cases hfirst : bad.findSome? id with
  | none =>
    obtain ⟨c, hc, hne⟩ := h'
    exact absurd (List.findSome?_eq_none_iff.mp hfirst c hc) hne
  | some y => simp only [eachStatus, hfirst, hany, if_true]

theorem eachStatus_of_all_denied {y : Nat × DWord} {l : List (Option (Nat × DWord))} (h : ∀ b ∈ l, b ≠ none) :
    eachStatus (some y :: l) = y := by
  have hany : l.any (·.isNone) = false := List.any_eq_false.mpr fun b hb => by simpa using h b hb
  simp [eachStatus, hany]

theorem runEach_of_denied {t : State} {x : Eng1} {y : Nat × DWord} (f : State → List Byte → DWord → State)
    (h : firstBad t x (sources x) = some y) : runEach t x f = denied t y := by
  simp only [runEach, h]

section
variable {t : State} {x : Eng1} (f : State → List Byte → DWord → State) (hs : firstBad t x (sources x) = none) (he : meetsError t x = none)
include hs he

/-- One colour that is not held stops every destination (R284). -/
theorem runEach_of_colour {y : Nat × DWord} (h : (destinations x).findSome? (sideColour t x.w x.c.lane) = some y) :
    runEach t x f = denied t y := by
  simp only [runEach, hs, he, h]

theorem runEach_of_no_colour (h : (destinations x).findSome? (sideColour t x.w x.c.lane) = none) :
    let ds := destinations x
    let bad := ds.map fun d => sideStatus t x.w x.c.lane d
    let src := engineRead t x (x.c.at2 1) ((sources x).foldl (fun n y => n + y.n) 0)
    let ok := (List.range ds.length).filter fun k => (nthD bad k none).isNone
    runEach t x f = ⟨ok.foldl (fun u k => match ds[k]? with | some d => f u src.1 d.ptr | none => u) src.2, (eachStatus bad).1,
      ok.foldl (fun n k => n + 2 ^ k) 0, 0, (eachStatus bad).2, none⟩ := by
  simp only [runEach, hs, he, h] <;> rfl

end

theorem runStore_of_permitted {t : State} {x : Eng1} {y : Tile} (hd : firstBad t x (destinations x) = none) (he : meetsError t x = none)
    (hp : bufPoisoned t x.g.id 0 (tdBase y.desc) (tdBytes y.desc) = false) : runStore t x y = wrote (storeTile t x y) := by
  simp only [runStore, hd, he, hp, Bool.false_eq_true, if_false]

theorem runGather_of_permitted {t : State} {x : Eng1} {y : Tile} (hs : firstBad t x (sources x) = none) (he : meetsError t x = none)
    (hrows : firstBad (gatherIndex t x).2 x (rowSides x.c (gatherIndex t x).1) = none)
    (hstruck : struckIn t x.w x.c.die (rowSides x.c (gatherIndex t x).1) (rowSides x.c (gatherIndex t x).1) = none) :
    runGather t x y = wrote (gatherRows (gatherIndex t x).2 x y (gatherIndex t x).1) := by
  simp only [runGather, hs, he, hrows, hstruck]

/-! ### Acceptance (R216) -/

theorem acceptCommand_of_not_fatal {s : State} {x : Eng1} {work : State → Eng1 → Ran} :
    let s1 := holdTile { s with fresh := s.fresh + 1, ranges := s.ranges ++ locksOf x.g s.fresh x.c } x.g.id x.c
    let r := work s1 x
    r.fatal = none → acceptCommand s x work = acceptAs r.s x.w.id x.q
      { x.c with state := .accepted, id := s.fresh, status := BitVec.ofNat 4 r.status, dmask := BitVec.ofNat 4 r.dmask, flags := r.flags
                 addr := r.addr } := by
  intro s1 r h
  simp only [acceptCommand]
  split
  next what hfatal => exact absurd (hfatal.symm.trans h) (by simp)
  next => rfl

end Sys2Proof.Machine
end

section
/-! SUPPORT. What an engine reads and writes (R218): the pieces of a range, one piece at its place, and the bytes of a tile's buffer. -/
namespace Sys2Proof.Machine

/-! ### The pieces of a range -/

/-- Bytes of a range before its line k. -/
def pieceLo (a : DWord) (k : Nat) : Nat := if k = 0 then 0 else 64 * k - a.toNat % 64

theorem piecesOf_eq {a : DWord} {n : Nat} (hn : n ≠ 0) :
    piecesOf a n = (List.range ((a.toNat % 64 + n + 63) / 64)).map fun k =>
      (a + BitVec.ofNat 64 (pieceLo a k), pieceLo a k, min n (64 * (k + 1) - a.toNat % 64) - pieceLo a k) := by
  simp only [piecesOf, hn, if_false]
  rfl

/-- A piece has bytes, and they lie in one line. -/
theorem mem_piecesOf {a : DWord} {n : Nat} {y : DWord × Nat × Nat} (hy : y ∈ piecesOf a n) :
    y.1 = a + BitVec.ofNat 64 y.2.1 ∧ 0 < y.2.2 ∧ y.1.toNat % 64 + y.2.2 ≤ 64 := by
  by_cases hn : n = 0
  · simp [piecesOf, hn] at hy
  · rw [piecesOf_eq hn, List.mem_map] at hy
    obtain ⟨k, hk, rfl⟩ := hy
    rw [List.mem_range] at hk
    refine ⟨rfl, ?_, ?_⟩
    · simp only [pieceLo]
      split <;> omega
    · simp only [pieceLo, BitVec.toNat_add, BitVec.toNat_ofNat]
      split <;> omega

/-- The pieces that end before line m cover the bytes before it. -/
theorem flatMap_pieces (a : DWord) (n m : Nat) (hm : m ≤ (a.toNat % 64 + n + 63) / 64) :
    (List.range m).flatMap (fun k => List.range' (pieceLo a k) (min n (64 * (k + 1) - a.toNat % 64) - pieceLo a k))
      = List.range (min n (64 * m - a.toNat % 64)) := by
  induction m with
  | zero => simp
  | succ m ih =>
    have hlo : pieceLo a m = min n (64 * m - a.toNat % 64) := by
      simp only [pieceLo]
      split <;> omega
    have hlen : min n (64 * m - a.toNat % 64) + (min n (64 * (m + 1) - a.toNat % 64) - min n (64 * m - a.toNat % 64))
        = min n (64 * (m + 1) - a.toNat % 64) := by omega
    rw [List.range_succ, List.flatMap_append, ih (by omega), List.flatMap_singleton, hlo, List.range_eq_range', List.range_eq_range', ← hlen,
      ← List.range'_append_1, hlen, Nat.zero_add]

/-- The pieces cover the range, in order. -/
theorem piecesOf_cover (a : DWord) (n : Nat) : (piecesOf a n).flatMap (fun y => List.range' y.2.1 y.2.2) = List.range n := by
  by_cases hn : n = 0
  · simp [piecesOf, hn]
  · have hall : min n (64 * ((a.toNat % 64 + n + 63) / 64) - a.toNat % 64) = n := by omega
    rw [piecesOf_eq hn, List.flatMap_map, flatMap_pieces a n _ le_rfl, hall]

theorem piecesOf_single {a : DWord} {n : Nat} (hn : n ≠ 0) (h : a.toNat % 64 + n ≤ 64) : piecesOf a n = [(a, 0, n)] := by
  have hone : (a.toNat % 64 + n + 63) / 64 = 1 := by omega
  have hlen : min n (64 * (0 + 1) - a.toNat % 64) = n := by omega
  simp [piecesOf_eq hn, hone, pieceLo]
  omega

/-! ### Bytes as numbers -/

theorem bytesOf_natOfBytes (l : List Byte) : bytesOf (natOfBytes l) l.length = l := by
  induction l with
  | nil => rfl
  | cons b l ih =>
    have hbyte : BitVec.ofNat 8 (b.toNat + 256 * natOfBytes l) = b := by
      apply BitVec.eq_of_toNat_eq
      rw [BitVec.toNat_ofNat]
      omega
    have hrest : (b.toNat + 256 * natOfBytes l) / 256 = natOfBytes l := by omega
    rw [natOfBytes, List.length_cons, bytesOf, hbyte, hrest, ih]

theorem bytesOf_length (x n : Nat) : (bytesOf x n).length = n := by
  induction n generalizing x with
  | zero => rfl
  | succ n ih => rw [bytesOf, List.length_cons, ih]

theorem natOfBytes_bytesOf_homeRead (s : State) (ia n : Nat) : natOfBytes (bytesOf (homeRead s ia n) n) = homeRead s ia n := by
  have h := bytesOf_natOfBytes ((List.range n).map fun k => match pageOf s (ia + k) with | some g => pageByte s g (ia + k) | none => 0)
  rw [List.length_map, List.length_range] at h
  exact congrArg natOfBytes h

/-! ### One piece -/

/-- The place is in device memory, on a page that is there under its key. -/
def PlaceHere (s : State) (p : Spot) (g : Page) : Prop := p.remote = none ∧ pageOf s p.ia = some g ∧ keyHere s g (physIn g p.ia) = true

/-- What follows the write of a line at its home: the bank's line, its place among the writes of the die, and a replica there. -/
theorem writeLine_after_home (s : State) (x : Eng1) (a : DWord) (ia : Nat) (bs : List Byte) :
    KeepsBytes (homeWrite (markAccessed s ia true) x.w.launch ia bs) (writeLine s x a ia bs) := by
  have hplaced (f : Flight) := (homeTouch_keepsBytes (homeWrite (markAccessed s ia true) x.w.launch ia bs) x.w.part (ia / 64) true).trans
    (placeWrite_keepsBytes _ x.c.die f)
  unfold writeLine
  dsimp only
  split
  · exact (hplaced _).trans (catchUp_keepsBytes ..)
  · exact hplaced _

theorem writeLine_mem {s : State} {x : Eng1} {a : DWord} {ia : Nat} {bs : List Byte} {g : Page} (hg : pageOf s ia = some g)
    (hk : keyHere s g (physIn g ia) = true) : (writeLine s x a ia bs).mem = writeBytes s.mem (physIn g ia) bs :=
  (writeLine_after_home s x a ia bs).mem.trans (homeWrite_markAccessed_mem _ _ hg hk)

theorem writeLine_groups (s : State) (x : Eng1) (a : DWord) (ia : Nat) (bs : List Byte) : (writeLine s x a ia bs).groups = s.groups :=
  (writeLine_after_home s x a ia bs).groups.trans ((homeWrite_groups ..).trans (markAccessed_keepsBytes ..).groups)

section
variable {s : State} {x : Eng1} {q : DWord × Nat × Nat} {p : Spot} (bs : List Byte) (hp : locate s x.w.part q.1 = some p)
include hp

theorem writePiece_of_here (hr : p.remote = none) : writePiece s x bs q = writeLine s x q.1 p.ia ((bs.drop q.2.1).take q.2.2) := by
  simp only [writePiece, hp, hr]

theorem writePiece_of_remote {e : RemoteEntry} (hr : p.remote = some e) :
    writePiece s x bs q = holdSend s x.w.id x.c.lane e p.ia ((bs.drop q.2.1).take q.2.2) := by
  simp only [writePiece, hp, hr]

theorem writePiece_mem {g : Page} (hg : PlaceHere s p g) :
    (writePiece s x bs q).mem = writeBytes s.mem (physIn g p.ia) ((bs.drop q.2.1).take q.2.2) := by
  obtain ⟨hr, hpage, hkey⟩ := hg
  rw [writePiece_of_here bs hp hr, writeLine_mem hpage hkey]

theorem readPiece_of_here (hr : p.remote = none) :
    readPiece s x q = (bytesOf (lineGet (dieLine s x.c.die Config.cores (p.ia / 64)) (p.ia % 64) q.2.2) q.2.2,
      bankLine (markAccessed s p.ia false) x.w.part x.c.die (p.ia / 64)) := by
  simp only [readPiece, hp, hr]

end

theorem writePiece_groups (s : State) (x : Eng1) (bs : List Byte) (q : DWord × Nat × Nat) : (writePiece s x bs q).groups = s.groups := by
  cases hp : locate s x.w.part q.1 with
  | none => simp only [writePiece, hp]
  | some p =>
    cases hr : p.remote with
    | none => rw [writePiece_of_here bs hp hr, writeLine_groups]
    | some e => rw [writePiece_of_remote bs hp hr, (holdSend_keepsBytes ..).groups]

theorem readPiece_keepsBytes (s : State) (x : Eng1) (q : DWord × Nat × Nat) : KeepsBytes s (readPiece s x q).2 := by
  unfold readPiece
  split
  · exact .refl s
  · split
    · exact ⟨rfl, rfl⟩
    · exact (markAccessed_keepsBytes ..).trans (bankLine_keepsBytes ..)

theorem engineWatch_keepsBytes (s : State) (x : Eng1) (kind : Nat) (a : DWord) (n : Nat) (b : Option Nat) :
    KeepsBytes s (engineWatch s x kind a n b) := watchAccess_keepsBytes ..

/-! ### Ranges -/

/-- The bytes read so far, and the state, with one piece more. -/
theorem foldl_readPiece_keepsBytes (x : Eng1) (l : List (DWord × Nat × Nat)) (acc : List Byte × State) :
    KeepsBytes acc.2 (l.foldl (fun (acc : List Byte × State) q => let y := readPiece acc.2 x q; (acc.1 ++ y.1, y.2)) acc).2 := by
  induction l generalizing acc with
  | nil => exact .refl _
  | cons q l ih =>
    rw [List.foldl_cons]
    exact (readPiece_keepsBytes acc.2 x q).trans (ih (acc.1 ++ (readPiece acc.2 x q).1, (readPiece acc.2 x q).2))

theorem engineRead_keepsBytes (s : State) (x : Eng1) (a : DWord) (n : Nat) : KeepsBytes s (engineRead s x a n).2 :=
  (foldl_readPiece_keepsBytes x (piecesOf a n) ([], s)).trans (engineWatch_keepsBytes ..)

theorem engineRead_of_line {s : State} {x : Eng1} {a : DWord} {n : Nat} {p : Spot} (hn : n ≠ 0) (hline : a.toNat % 64 + n ≤ 64)
    (hp : locate s x.w.part a = some p) (hr : p.remote = none) :
    (engineRead s x a n).1 = bytesOf (lineGet (dieLine s x.c.die Config.cores (p.ia / 64)) (p.ia % 64) n) n := by
  simp only [engineRead, piecesOf_single hn hline, List.foldl_cons, List.foldl_nil, readPiece_of_here (q := (a, 0, n)) hp hr, List.nil_append]

theorem engineWrite_of_remote {s : State} {x : Eng1} {a : DWord} {bs : List Byte} {e : RemoteEntry} {ia : Nat}
    (h : wholeRemote s x.w.part a bs.length = some (e, ia)) :
    engineWrite s x a bs = engineWatch (holdSend s x.w.id x.c.lane e ia bs) x 1 a bs.length none := by
  simp only [engineWrite, h]

theorem engineWrite_of_pieces {s : State} {x : Eng1} {a : DWord} {bs : List Byte} (h : wholeRemote s x.w.part a bs.length = none) :
    engineWrite s x a bs = engineWatch ((piecesOf a bs.length).foldl (fun t q => writePiece t x bs q) s) x 1 a bs.length none := by
  simp only [engineWrite, h]

/-! ### Tiles -/

theorem setBuf_id (g : Group) (kind : Nat) (m : Memory) : (setBuf g kind m).id = g.id := by
  unfold setBuf
  split <;> rfl

theorem tileWrite_mem (s : State) (x : Eng1) (kind off : Nat) (bs : List Byte) : (tileWrite s x kind off bs).mem = s.mem := rfl

theorem findGroup_tileWrite_self {s : State} {x : Eng1} {g : Group} (kind off : Nat) (bs : List Byte) (hg : findGroup s x.g.id = some g) :
    findGroup (tileWrite s x kind off bs) x.g.id = some (setBuf g kind (writeBytes (bufOf g kind).1 off bs)) :=
  findGroup_modGroup_self (fun y => setBuf y kind (writeBytes (bufOf y kind).1 off bs)) (fun _ => setBuf_id ..) hg

theorem findGroup_tileWrite_other {s : State} {x : Eng1} (kind off : Nat) (bs : List Byte) {k : Nat} (hk : k ≠ x.g.id) :
    findGroup (tileWrite s x kind off bs) k = findGroup s k :=
  findGroup_modGroup_other (fun y => setBuf y kind (writeBytes (bufOf y kind).1 off bs)) (fun _ => setBuf_id ..) hk

theorem findGroup_loadTile {s : State} {x : Eng1} {g : Group} (t : Tile) (hg : findGroup s x.g.id = some g) :
    findGroup (loadTile s x t) x.g.id = some (setBuf g (tdKind t.desc)
      (writeBytes (bufOf g (tdKind t.desc)).1 (tdBase t.desc) (engineRead s x (x.c.at2 1) (tdBytes t.desc)).1)) :=
  findGroup_tileWrite_self _ _ _ (((engineRead_keepsBytes ..).findGroup _).trans hg)

theorem storeTile_of_found {s : State} {x : Eng1} {g : Group} (t : Tile) (hg : findGroup s x.g.id = some g) :
    storeTile s x t = engineWrite s x (x.c.at2 2) (readBytes g.abuf (tdBase t.desc) (tdBytes t.desc)) := by
  simp only [storeTile, hg]

/-! ### GATHER -/

theorem nthD_append_left {α : Type} {l : List α} {k : Nat} (h : k < l.length) (l' : List α) (d : α) : nthD (l ++ l') k d = nthD l k d := by
  rw [nthD, nthD, List.getElem?_append_left h]

theorem nthD_concat {α : Type} (l : List α) (y d : α) : nthD (l ++ [y]) l.length d = y := by simp [nthD]

/-- One row of a GATHER: the row that an index word selects, or zeros, written to the tile. -/
def gatherOne (x : Eng1) (t : Tile) (u : State) (r i : Nat) : State :=
  let w := bitsOf (x.c.w 5) 0 16
  let y := if i = 0xFFFFFFFF then (List.replicate w (0 : Byte), u) else engineRead u x (gatherRow x.c i) w
  tileWrite y.2 x 0 (aElement t.desc r 0) y.1

theorem gatherRows_eq (s : State) (x : Eng1) (t : Tile) (ix : List Nat) :
    gatherRows s x t ix = (List.range ix.length).foldl (fun u r => gatherOne x t u r (nthD ix r 0)) s := rfl

theorem gatherOne_mem (x : Eng1) (t : Tile) (u : State) (r i : Nat) : (gatherOne x t u r i).mem = u.mem := by
  unfold gatherOne
  dsimp only
  rw [tileWrite_mem]
  split
  · rfl
  · exact (engineRead_keepsBytes ..).mem

theorem gatherRows_concat (s : State) (x : Eng1) (t : Tile) (ix : List Nat) (i : Nat) :
    gatherRows s x t (ix ++ [i]) = gatherOne x t (gatherRows s x t ix) ix.length i := by
  rw [gatherRows_eq, gatherRows_eq, List.length_append, List.length_singleton, List.range_succ, List.foldl_append, List.foldl_cons,
    List.foldl_nil, nthD_concat]
  congr 1
  exact foldl_congr_of_mem (fun u r hr => by rw [nthD_append_left (List.mem_range.mp hr)]) s

theorem gatherRows_mem (s : State) (x : Eng1) (t : Tile) (ix : List Nat) : (gatherRows s x t ix).mem = s.mem := by
  rw [gatherRows_eq]
  exact foldl_keeps (·.mem) (fun u r => gatherOne x t u r (nthD ix r 0)) (fun u r => gatherOne_mem x t u r _) _ s

/-! ### RSTORE -/

section
variable {s : State} {x : Eng1} {a : DWord} {p : Spot} (op : AtOp) (v : Nat) (hline : a.toNat % 64 ≤ 60) (hp : locate s x.w.part a = some p)
  (hr : p.remote = none)
include hline hp hr

/-- An element in one line is read at its home, and one piece is written. -/
theorem rstoreElement_of_line : ∃ bank, rstoreElement s x op a v =
    engineWatch (writePiece s x (bytesOf (atStep op (homeRead s p.ia 4) v 0) 4) (a, 0, 4)) x 2 a 4 bank := by
  have hpieces : piecesOf a 4 = [(a, 0, 4)] := piecesOf_single (by decide) (by omega)
  simp only [rstoreElement, hpieces, List.foldl_cons, List.foldl_nil, hp, hr, List.nil_append, natOfBytes_bytesOf_homeRead]
  exact ⟨_, rfl⟩

theorem rstoreElement_mem {g : Page} (hg : PlaceHere s p g) :
    (rstoreElement s x op a v).mem = writeBytes s.mem (physIn g p.ia) (bytesOf (atStep op (homeRead s p.ia 4) v 0) 4) := by
  obtain ⟨bank, h⟩ := rstoreElement_of_line op v hline hp hr
  rw [h, (engineWatch_keepsBytes ..).mem, writePiece_mem (q := (a, 0, 4)) _ hp hg]
  exact congrArg _ (List.take_of_length_le (bytesOf_length ..).le)

theorem rstoreElement_groups : (rstoreElement s x op a v).groups = s.groups := by
  obtain ⟨bank, h⟩ := rstoreElement_of_line op v hline hp hr
  rw [h, (engineWatch_keepsBytes ..).groups, writePiece_groups]

end

end Sys2Proof.Machine
end

section
/-! SUPPORT. The statement on engine commands (O40). -/
namespace Sys2Proof.Machine

/-- Settles O40: an engine takes its next command or rejects it by its tile; its work is denied by the first check that fails, struck, or
done; and each read and write of that work is one of pieces, each in one line. -/
theorem engineCommands : Obligations.EngineCommands := by
  refine ⟨fun s w k g c n => ?_, fun s x work => ?_, fun s x a bs n kind off v q t op => ?_⟩
  · intro x takes runs
    have htakes (op : Nat) (work : State → Eng1 → Ran) (h : runs op) :
        Host.Outcome.next (engineTakes s w.id k op work) = (.next (acceptCommand s x work) : Host.Outcome State Fault Refusal) :=
      congrArg _ (engineTakes_of_ready h work)
    exact ⟨htakes 1 _, htakes 2 _, htakes 3 _, htakes 4 _, htakes 16 _, htakes 32 _, htakes 33 _, htakes 48 _,
      fun h ht _ hi => exec_of_wrong_tile h ht hi⟩
  · intro s1 r
    refine ⟨acceptCommand_of_not_fatal, fun t y f => runSingle_of_denied, fun t y f => runEach_of_denied f,
      fun t f hs hd => ⟨fun he => ?_, fun what he => ?_⟩, fun t f hs he => ?_, fun t y => runStore_of_permitted,
      fun t y hs he => runGather_of_permitted hs he⟩
    · rw [runSingle_of_permitted hs hd, he]
      rfl
    · rw [runSingle_of_permitted hs hd, he]
      rfl
    · intro ds bad src ok
      refine ⟨fun y => runEach_of_colour f hs he, fun hcolour => ?_⟩
      rw [runEach_of_no_colour f hs he hcolour]
      exact ⟨rfl, rfl, rfl, fun h => congrArg Prod.fst (eachStatus_of_all_none h), eachStatus_of_some_none,
        fun y l hbad h => by
          have hstatus : eachStatus bad = y := by rw [hbad, eachStatus_of_all_denied h]
          exact ⟨congrArg Prod.fst hstatus, congrArg Prod.snd hstatus⟩⟩
  · intro seg here
    refine ⟨⟨fun y => mem_piecesOf, piecesOf_cover a n⟩, fun p g hp => writePiece_mem bs hp,
      fun p e hp hr => ?_, writePiece_groups .., fun k b => ?_, fun e ia => engineWrite_of_remote, engineWrite_of_pieces, ?_,
      fun p => engineRead_of_line, rfl, fun g hg => ?_, ⟨rfl, fun ix i => ⟨gatherRows_concat s x t ix i, gatherRows_mem s x t ix⟩⟩,
      fun src => rfl, fun p g hline hp hg => ⟨rstoreElement_mem op v hline hp hg.1 hg, rstoreElement_groups op v hline hp hg.1⟩⟩
    · rw [writePiece_of_remote bs hp hr]
      exact ⟨rfl, (holdSend_keepsBytes ..).mem⟩
    · obtain ⟨hmem, hgroups⟩ := engineWatch_keepsBytes s x k a n b
      exact ⟨hmem, hgroups⟩
    · obtain ⟨hmem, hgroups⟩ := engineRead_keepsBytes s x a n
      exact ⟨hmem, hgroups⟩
    · exact ⟨findGroup_tileWrite_self kind off bs hg, fun k => findGroup_tileWrite_other kind off bs, rfl, (engineRead_keepsBytes ..).mem,
        findGroup_loadTile t hg, storeTile_of_found t hg⟩

end Sys2Proof.Machine
end

section
/-! SUPPORT. TRAP, BKPT and RTE (R221, R225, R226), STEP, MARK and PCNT (R228, R232, R233), WSET and WCLR (R229, R230): what the
operation of each comes to in each of its cases. -/
namespace Sys2Proof.Machine

/-! ### TRAP, BKPT and RTE -/

theorem rteBody_of_handler {c : Ctx} (h : c.w.h = true) :
    rteBody c = .done
      { s := modWave c.s c.w.id fun w => { mapLanes w c.exec (fun _ x => leaveHandler x) with
          release := w.release ++ c.exec.lanes.flatMap fun l => releasesAt (laneOf c.w l) (laneOf c.w l).depth l }
        adv := c.exec, vals := none, ends := true, back := false, goes := fun _ => some exitedPc } := by
  rw [rteBody, h]
  rfl

theorem rteBody_outside_handler {c : Ctx} (h : c.w.h = false) : rteBody c = c.trap .perm c.exec 0 := by
  rw [rteBody, h]
  rfl

/-- Settles O32, word by word: BKPT by whether debug intercept is set, RTE by whether the wave is in a handler. -/
theorem trapAndReturnWords : Obligations.TrapAndReturnWords := by
  refine ⟨fun e k => ⟨?_, ?_, ?_⟩, fun e => ⟨?_, ?_⟩⟩
  · exact ends_of fun _ => ⟨_, _, rfl, fun _ _ _ => rfl⟩
  · exact ends_of fun _ => ⟨_, _, rfl, fun _ _ h => if_neg (Bool.eq_false_iff.1 h)⟩
  · exact ends_of fun _ => ⟨_, _, rfl, fun _ _ h => if_pos h⟩
  · exact ends_of fun _ => ⟨_, _, rfl, fun _ _ h => rteBody_of_handler h⟩
  · exact ends_of fun _ => ⟨_, _, rfl, fun _ _ h => rteBody_outside_handler h⟩

/-! ### STEP (R232) -/

/-- A STEP whose instruction has completed completes. -/
theorem stepBody_of_done {c : Ctx} (h : c.w.stepDone = true) :
    stepBody c = c.done (modWave c.s c.w.id fun w => { w with stepDone := false }) := if_pos h

section
variable {c : Ctx} (hd : c.w.stepDone = false)
include hd

theorem stepBody_of_issues {w : Wave} (hw : stepTarget c = some w) (hc : canStep w = true) :
    stepBody c =
      .settled (beginStep (modWave c.s c.w.id fun v => { v with hold := some .fence, issue := none }) w (some (c.w.id, c.w.tick))) := by
  simp only [stepBody, hd, hw, hc, Bool.false_eq_true, if_false, if_true]

/-- A STEP of a wave that only waits completes at once, with its record. -/
theorem stepBody_of_idle {w : Wave} (hw : stepTarget c = some w) (hc : canStep w = false) : stepBody c = c.done (idleStep c.s w) := by
  simp only [stepBody, hd, hw, hc, Bool.false_eq_true, if_false]

theorem stepBody_of_no_target (hw : stepTarget c = none) : stepBody c = c.trap .perm c.exec 0 := by
  simp only [stepBody, hd, hw, Bool.false_eq_true, if_false]
end

/-! ### MARK (R233) -/

theorem markRecord_of_session {c : Ctx} (h : hasSession c.s c.w.part = true) (k : BitVec 14) :
    markRecord c k = emitWave c.s c.w 0x01 0 c.exec c.r.pc k.toNat := if_pos h

theorem markRecord_of_no_session {c : Ctx} (h : hasSession c.s c.w.part = false) (k : BitVec 14) :
    markRecord c k = modPart c.s c.w.part fun p => { p with unrecorded := p.unrecorded + 1 } := if_neg (Bool.eq_false_iff.1 h)

section
variable {c : Ctx} (h : c.w.waitMark = none) (k : BitVec 14)
include h

theorem markBody_at_once : markBody c false k = c.done (markRecord c k) := by
  simp only [markBody, h, Bool.false_eq_true, if_false]

theorem markBody_awaits_commit :
    markBody c true k = .wait (modWave (modPart (markRecord c k) c.w.part fun p => { p with markDue := true }) c.w.id
      fun w => { w with waitMark := some (nextMark (markRecord c k) c.w.part) }) .commit := by
  simp only [markBody, h, if_true]
end

theorem markBody_of_committed {c : Ctx} {m : Nat} (h : c.w.waitMark = some m) (hm : markDone c.s c.w.part m = true) (f : Bool) (k : BitVec 14) :
    markBody c f k = c.done (modWave c.s c.w.id fun w => { w with waitMark := none }) := by
  simp only [markBody, h, hm, if_true]

theorem markBody_of_uncommitted {c : Ctx} {m : Nat} (h : c.w.waitMark = some m) (hm : markDone c.s c.w.part m = false) (f : Bool)
    (k : BitVec 14) : markBody c f k = .wait c.s .commit := by
  simp only [markBody, h, hm, Bool.false_eq_true, if_false]

/-- Two changes of one partition are one change. -/
theorem modPart_modPart (s : State) (n : Nat) {f : Part → Part} (g : Part → Part) (hf : ∀ p, (f p).n = p.n) :
    modPart (modPart s n f) n g = modPart s n fun p => g (f p) := by
  simp only [modPart, List.map_map]
  congr 1
  refine List.map_congr_left fun p _ => ?_
  by_cases hp : p.n = n
  · simp only [Function.comp, hp, if_true, hf]
  · simp only [Function.comp, hp, if_false]

theorem findPart_modPart (s : State) (n : Nat) {f : Part → Part} (hf : ∀ p, (f p).n = p.n) :
    findPart (modPart s n f) n = (findPart s n).map f := by
  simp only [findPart, modPart]
  induction s.parts with
  | nil => rfl
  | cons p l ih =>
    by_cases hp : p.n = n
    · simp [hp, hf]
    · simpa [hp] using ih

/-- A change that leaves a partition's latest mark leaves the one that follows. -/
theorem nextMark_of_part {s : State} {n : Nat} {p : Part} (hp : findPart s n = some p) {f : Part → Part} (hn : ∀ q, (f q).n = q.n)
    (hm : ∀ q, (f q).mark = q.mark) : nextMark (modPart s n f) n = p.mark + 1 := by
  simp only [nextMark, findPart_modPart s n hn, hp, Option.map_some, hm]

/-- MARK.F without a session counts its loss and awaits the next mark. -/
theorem markBody_unrecorded {c : Ctx} {p : Part} (hw : c.w.waitMark = none) (hs : hasSession c.s c.w.part = false)
    (hp : findPart c.s c.w.part = some p) (k : BitVec 14) :
    markBody c true k = .wait (modWave (modPart c.s c.w.part fun p => { p with unrecorded := p.unrecorded + 1, markDue := true }) c.w.id
      fun w => { w with waitMark := some (p.mark + 1) }) .commit := by
  have hnext := nextMark_of_part (f := fun q => { q with unrecorded := q.unrecorded + 1 }) hp (fun _ => rfl) fun _ => rfl
  have hboth := modPart_modPart c.s c.w.part (f := fun q => { q with unrecorded := q.unrecorded + 1 })
    (fun q => { q with markDue := true }) fun _ => rfl
  rw [markBody_awaits_commit hw, markRecord_of_no_session hs, hnext, hboth]

/-! ### PCNT (R228) -/

theorem pcntBody_of_events {n : Nat} (h : countsTime n = false) (c : Ctx) :
    pcntBody c n = c.write (fun _ => w64 (counter c.s c.w c.die c.core n)) (fun _ => 0) := by
  simp only [pcntBody, h, Bool.false_eq_true, if_false, Ctx.die, Ctx.core]
  cases c.w.place <;> rfl

theorem pcntBody_of_time {n : Nat} (h : countsTime n = true) (c : Ctx) :
    pcntBody c n = ({ c with s := { c.s with free := c.s.free + 1 } }).write (fun _ => w64 (Config.freeCount c.s.free)) (fun _ => 0) := by
  simp only [pcntBody, h, if_true, freeIx]

/-! ### WSET and WCLR (R229, R230) -/

section
variable {c : Ctx} {sc : WScope} {n : Nat}

theorem wsetBody_of_bad_control (h : controlOk sc (c.pair 1 c.top) = false) : wsetBody c sc n = c.trap .engine c.exec 0 := by
  simp only [wsetBody, h, Bool.not_false, if_true]

variable (hk : controlOk sc (c.pair 1 c.top) = true)
include hk

theorem wsetBody_of_misaligned (ha : controlAligned (c.pair 0 c.top) (c.pair 1 c.top) = false) :
    wsetBody c sc n = c.trap .align c.exec (c.pair 0 c.top) := by
  simp only [wsetBody, hk, ha, Bool.not_true, Bool.not_false, Bool.false_eq_true, if_false, if_true]

variable (ha : controlAligned (c.pair 0 c.top) (c.pair 1 c.top) = true)
include ha

theorem wsetBody_of_held (h : slotTaken c sc n = true ∨ (sc = .die ∧ dieWatchOn c.s c.w.part = false)) :
    wsetBody c sc n = c.trap .perm c.exec 0 := by
  have hheld : (slotTaken c sc n || (decide (sc = .die) && !dieWatchOn c.s c.w.part)) = true := by simpa using h
  simp only [wsetBody, hk, ha, hheld, Bool.not_true, Bool.false_eq_true, if_false, if_true]

theorem wsetBody_of_mine (h : slotTaken c sc n = false ∧ (sc = .die → dieWatchOn c.s c.w.part = true)) :
    wsetBody c sc n = c.done (putSlots c sc (setNth (slotsOf c sc).1 n (some ⟨c.pair 0 c.top, c.pair 1 c.top, (slotsOf c sc).2⟩))) := by
  have hmine : (slotTaken c sc n || (decide (sc = .die) && !dieWatchOn c.s c.w.part)) = false := by
    rw [h.1, Bool.false_or, Bool.and_eq_false_iff, decide_eq_false_iff_not, Bool.not_eq_false']
    exact not_or_of_imp h.2
  simp only [wsetBody, hk, ha, hmine, Bool.not_true, Bool.false_eq_true, if_false]
end

/-! ### The statement -/

/-- Settles O33, word by word and case by case, by the equations of their operations. -/
theorem debugWords : Obligations.DebugWords := by
  refine ⟨fun e k f d a n => ⟨?_, ?_, ?_, ?_, ?_, ?_, ?_, ?_, ?_, ?_, fun h => ?_, fun h => ?_⟩, fun e sc n a x => ⟨?_, ?_, ?_, ?_, ?_, ?_⟩⟩
  case refine_1 =>
    exact ends_of fun _ => ⟨_, _, rfl, fun c _ ⟨hd, w, hw, hc⟩ => by simp only [stepBody_of_issues hd hw hc, hw]⟩
  case refine_2 => exact ends_of fun _ => ⟨_, _, rfl, fun c hsh h => (stepBody_of_done h).trans (done_of_shape hsh rfl _)⟩
  case refine_3 =>
    exact ends_of fun _ => ⟨_, _, rfl, fun c hsh ⟨hd, w, hw, hc⟩ => by
      simp only [hw]
      exact (stepBody_of_idle hd hw hc).trans (done_of_shape hsh rfl _)⟩
  case refine_4 => exact ends_of fun _ => ⟨_, _, rfl, fun c _ ⟨hd, hw⟩ => stepBody_of_no_target hd hw⟩
  case refine_5 =>
    exact ends_of fun _ => ⟨_, _, rfl, fun c hsh ⟨hw, hs⟩ =>
      ((markBody_at_once hw n).trans (congrArg c.done (markRecord_of_session hs n))).trans (done_of_shape hsh rfl _)⟩
  case refine_6 =>
    exact ends_of fun _ => ⟨_, _, rfl, fun c hsh ⟨hw, hs⟩ =>
      ((markBody_at_once hw n).trans (congrArg c.done (markRecord_of_no_session hs n))).trans (done_of_shape hsh rfl _)⟩
  case refine_7 =>
    exact ends_of fun _ => ⟨_, _, rfl, fun c _ ⟨hw, hs⟩ => by simp only [markBody_awaits_commit hw, markRecord_of_session hs]⟩
  case refine_8 =>
    exact ends_of fun _ => ⟨_, _, rfl, fun c _ ⟨hw, hs, hp⟩ => by
      obtain ⟨p, hp⟩ := Option.isSome_iff_exists.1 hp
      simp only [hp, Option.map_some]
      exact markBody_unrecorded hw hs hp n⟩
  case refine_9 => exact ends_of fun _ => ⟨_, _, rfl, fun c _ ⟨m, hw, hm⟩ => markBody_of_uncommitted hw hm f n⟩
  case refine_10 =>
    exact ends_of fun _ => ⟨_, _, rfl, fun c hsh ⟨m, hw, hm⟩ => (markBody_of_committed hw hm f n).trans (done_of_shape hsh rfl _)⟩
  case refine_11 => exact gives_of ⟨_, rfl, rfl, rfl, rfl⟩ fun _ => ⟨_, _, rfl, fun c _ => pcntBody_of_events h c⟩
  case refine_12 => exact ends_of fun _ => ⟨_, _, rfl, fun c _ _ => pcntBody_of_time h c⟩
  case refine_13 =>
    exact ends_of fun _ => ⟨_, _, rfl, fun c hsh ⟨hk, ha, h⟩ => (wsetBody_of_mine hk ha h).trans (done_of_shape hsh rfl _)⟩
  case refine_14 => exact ends_of fun _ => ⟨_, _, rfl, fun c _ h => wsetBody_of_bad_control h⟩
  case refine_15 => exact ends_of fun _ => ⟨_, _, rfl, fun c _ ⟨hk, ha⟩ => wsetBody_of_misaligned hk ha⟩
  case refine_16 => exact ends_of fun _ => ⟨_, _, rfl, fun c _ ⟨hk, ha, h⟩ => wsetBody_of_held hk ha h⟩
  case refine_17 =>
    exact ends_of fun _ => ⟨_, _, rfl, fun c hsh h => (if_neg (Bool.eq_false_iff.1 h)).trans (done_of_shape hsh rfl _)⟩
  case refine_18 => exact ends_of fun _ => ⟨_, _, rfl, fun c _ h => if_pos h⟩

end Sys2Proof.Machine
end

section
/-! SUPPORT. Sweolo's tables (R295, R302, R306, R313, R315, R371, R377, R380, R381, R411): what each request writes when it is legal and
nothing resident uses what it writes, and the requests that wait. -/
namespace Sys2Proof.Machine

/-! ### Requests served, and tables by their index -/

theorem served_of_some {i : Instr} {x : Option State} {s t : State} (h : x = some t) : served i x s = .next t := by
  rw [served, h]
  rfl

theorem served_of_none {i : Instr} {x : Option State} {s : State} (h : x = none) : served i x s = .next (awaitTurn s i) := by
  rw [served, h]
  rfl

/-- A request that has to wait joins those that are pending, whatever it is (R411). -/
theorem exec_of_waits {i : Instr} {s : State} (h : attempt s i = none) : exec i s = .next (awaitTurn s i) := by
  unfold attempt at h
  split at h
  case h_11 => cases h
  all_goals exact served_of_none h

theorem vector_get_ofFn {α : Type} {n : Nat} (f : Fin n → α) (k : Fin n) : (Vector.ofFn f).get k = f k := Vector.getElem_ofFn k.isLt

theorem ofNat_ne_of_val_ne {t : Nat} (ht : t < 64) {k : Fin 64} (h : k.val ≠ t) : k ≠ Fin.ofNat 64 t := by
  rintro rfl
  exact h (Nat.mod_eq_of_lt ht)

/-! ### Quotas, remote memory, windows and range registers -/

theorem writeQuota_of_room {s : State} {t bank n : Nat} (ht : t < 64) (hb : bank < 256) (h : quotaSum s bank t + n ≤ 16384) :
    writeQuota s t bank n =
      followQuotas { s with quotas := s.quotas.filter (fun q => !(q.1 = t && q.2.1 = bank)) ++ (if n = 0 then [] else [(t, bank, n)]) } t := by
  rw [writeQuota, if_neg]
  simp only [Bool.or_eq_true, decide_eq_true_eq]
  omega

theorem writeRemote_of_legal {s : State} {t i : Nat} {r : RemoteEntry} (ht : t < 64) (hi : i < 256) (hv : r.v = true)
    (hlo : 2 ^ 51 ≤ r.iabase.toNat) (hal : r.iabase.toNat % 4096 = 0) (hres : tenantResident s t = false) :
    writeRemote s t i r = some { s with remotes := s.remotes.filter (fun x => !(x.1 = t && x.2.1 = i)) ++ [(t, i, r)] } := by
  have hok : (decide (64 ≤ t) || decide (256 ≤ i) || (r.v && (decide (r.iabase.toNat < 2 ^ 51) || decide (r.iabase.toNat % 4096 ≠ 0)))) = false := by
    simp only [hv, hal, Bool.or_eq_false_iff, Bool.and_eq_false_iff, decide_eq_false_iff_not]
    omega
  rw [writeRemote, if_neg (Bool.eq_false_iff.1 hok)]
  simp only [hres, hv, Bool.and_false, Bool.false_eq_true, if_false, if_true]

theorem assignWindow_of_free {s : State} {k o : Nat} {xs : List Nat} {p : Part} (hk : k < 4096) (hp : findPart s o = some p)
    (hres : anyResident s o = false) (hw : (s.windows.find? fun x => x.1 = k) = none) :
    assignWindow s k (some o) xs = some { s with windows := s.windows.filter (fun x => x.1 ≠ k) ++ [(k, o, xs)] } := by
  have hlt : ¬ 4096 ≤ k := Nat.not_le.2 hk
  simp [assignWindow, hw, hp, hres, hlt]

theorem writeRangeReg_of_legal {s : State} {p : Part} {i : Fin 16} {r : RangeReg} (hp : findPart s p.n = some p)
    (hok : rangeOk s p i r = true) (hres : anyResident s p.n = false) :
    writeRangeReg s p.n i r = some (modPart s p.n fun y => { y with ranges := y.ranges.set i.val r i.isLt }) := by
  simp only [writeRangeReg, hp, hok, hres, Bool.not_true, Bool.false_eq_true, if_false]

/-! ### Queues (R315) -/

/-- A queue descriptor with its ring aligned to a legal size. -/
def QueueLegal (n : Nat) (d : QueueDesc) : Prop :=
  n < 4096 ∧ d.v = true ∧ 4 ≤ d.log2n.toNat ∧ d.log2n.toNat ≤ 20 ∧ d.base.toNat % (128 * 2 ^ d.log2n.toNat) = 0

theorem not_refused_of_queueLegal {n : Nat} {d : QueueDesc} (h : QueueLegal n d) :
    (decide (4096 ≤ n) || (d.v && (decide (d.log2n.toNat < 4) || decide (20 < d.log2n.toNat)
      || decide (d.base.toNat % (128 * 2 ^ d.log2n.toNat) ≠ 0)))) = false := by
  obtain ⟨hn, hv, hlo, hhi, hal⟩ := h
  simp only [hv, hal, Bool.or_eq_false_iff, Bool.and_eq_false_iff, decide_eq_false_iff_not]
  omega

theorem writeQueue_of_new {s : State} {n : Nat} {d : QueueDesc} (h : QueueLegal n d) (hres : tenantResident s d.tenant.toNat = false)
    (hq : findQueue s n = none) :
    writeQueue s n d = some { s with queues := s.queues ++
      [{ n := n, desc := d, tail := 0, start := 0, head := 0, done := [], after := [], origins := [], void := [], emergency := [], reserved := [], turn := 0 }] } := by
  simp only [writeQueue, not_refused_of_queueLegal h, hres, hq, Bool.or_self, Bool.false_eq_true, if_false]

theorem writeQueue_of_old {s : State} {n : Nat} {d : QueueDesc} {q : Queue} (h : QueueLegal n d)
    (hres : tenantResident s d.tenant.toNat = false) (hq : findQueue s n = some q) (hold : tenantResident s q.desc.tenant.toNat = false) :
    writeQueue s n d = some (modQueue s n fun q => { q with desc := d }) := by
  simp only [writeQueue, not_refused_of_queueLegal h, hres, hq, hold, Bool.or_self, Bool.false_eq_true, if_false]

/-! ### Tenants (R371, R380, R381) -/

/-- Words written to the protected region change nothing else. -/
theorem foldl_protectSet_frame (f : Nat → Nat) (g : Nat → DWord) (l : List Nat) (s : State) :
    l.foldl (fun t k => protectSet t (f k) (g k)) s
      = { s with protect := (l.foldl (fun t k => protectSet t (f k) (g k)) s).protect } := by
  induction l generalizing s with
  | nil => rfl
  | cons k l ih => exact ih _

theorem putBitmap_frame (s : State) (a : Nat) (x : BitVec 4096) :
    putBitmap s a x = { s with protect := (putBitmap s a x).protect } :=
  foldl_protectSet_frame (fun k => a + 8 * k) (fun k => x.extractLsb' (64 * k) 64) _ s

/-- The words of a bitmap follow each other from its address on. -/
theorem protectGet_bitmap_words (s : State) (a : Nat) (x : BitVec 4096) (n : Nat) : ∀ k, k < n →
    protectGet ((List.range n).foldl (fun t k => protectSet t (a + 8 * k) (x.extractLsb' (64 * k) 64)) s) (a + 8 * k)
      = x.extractLsb' (64 * k) 64 := by
  induction n with
  | zero => exact fun k hk => absurd hk (Nat.not_lt_zero k)
  | succ n ih =>
    intro k hk
    rw [List.range_succ, List.foldl_append, List.foldl_cons, List.foldl_nil, protectGet_protectSet]
    by_cases h : k = n
    · subst h
      rw [if_pos rfl]
    · rw [if_neg (by omega)]
      exact ih k (by omega)

/-- Bit q of the bitmap is read where QMAP points. -/
theorem qmapBit_putBitmap (s : State) (e : TenantEntry) (x : BitVec 4096) {q : Nat} (hq : q < 4096) :
    qmapBit (putBitmap s e.qmap.toNat x) e q = x.getLsbD q := by
  rw [qmapBit, putBitmap, protectGet_bitmap_words _ _ _ _ _ (by omega), BitVec.getLsbD_extractLsb', Nat.div_add_mod,
    decide_eq_true (Nat.mod_lt q (by decide)), Bool.true_and]

theorem qmapBit_congr {s t : State} (h : t.protect = s.protect) (e : TenantEntry) (q : Nat) : qmapBit t e q = qmapBit s e q := by
  simp only [qmapBit, protectGet, h]

/-- A slot that is filled has its new key alone, and no other slot is touched (R380). -/
theorem mem_fillSlot (s : State) (k j d : Nat) :
    (j, d) ∈ (fillSlot s k).sweolo.keySlots ↔ if j = k then d = s.fresh + 1 else (j, d) ∈ s.sweolo.keySlots := by
  simp only [fillSlot, List.mem_append, List.mem_filter, List.mem_singleton, Prod.mk.injEq, decide_eq_true_eq]
  split
  next h => simp [h]
  next h => simp [h]

/-- The entry of a tenant as it stands. -/
def tenantAt (s : State) (t : Nat) : TenantEntry := s.tenants.get (Fin.ofNat 64 t)

/-- The key slots of a tenant whose entry was `old` when its index becomes k: unchanged when the index is (R380). -/
def withTenantKey (u : State) (old : TenantEntry) (k : Byte) : State :=
  if old.v && old.keyix = k then u
  else fillSlot { u with sweolo := { u.sweolo with keySlots := u.sweolo.keySlots.filter fun x => !old.v || x.1 ≠ old.keyix.toNat } } k.toNat

theorem withTenantKey_frame (u : State) (old : TenantEntry) (k : Byte) :
    withTenantKey u old k = { u with fresh := (withTenantKey u old k).fresh, sweolo := (withTenantKey u old k).sweolo } := by
  unfold withTenantKey
  split <;> rfl

theorem putTenant_eq (s : State) (t : Nat) (w : TenantWrite) :
    putTenant s t w = { withTenantKey (putBitmap s w.entry.qmap.toNat w.queues) (tenantAt s t) w.entry.keyix with
      tenants := Vector.ofFn fun k => if k = Fin.ofNat 64 t then w.entry else s.tenants.get k } := rfl

section
variable {s : State} {t : Nat} (w : TenantWrite)

theorem putTenant_tenants (k : Fin 64) : (putTenant s t w).tenants.get k = if k = Fin.ofNat 64 t then w.entry else s.tenants.get k :=
  vector_get_ofFn _ k

theorem putTenant_protect : (putTenant s t w).protect = (putBitmap s w.entry.qmap.toNat w.queues).protect := by
  rw [putTenant_eq, withTenantKey_frame]

theorem putTenant_mem : (putTenant s t w).mem = s.mem := by
  rw [putTenant_eq, withTenantKey_frame, putBitmap_frame]

theorem putTenant_keySlots_of_same (hv : (tenantAt s t).v = true) (hk : (tenantAt s t).keyix = w.entry.keyix) :
    (putTenant s t w).sweolo.keySlots = s.sweolo.keySlots := by
  have hsame : ((tenantAt s t).v && decide ((tenantAt s t).keyix = w.entry.keyix)) = true := by
    rw [hv, hk, decide_eq_true rfl, Bool.and_true]
  rw [putTenant_eq, withTenantKey, if_pos hsame, putBitmap_frame]

/-- A tenant that is defined or takes another index has a new key, and the slot that it leaves is erased (R380). -/
theorem mem_putTenant_keySlots (h : (tenantAt s t).v = false ∨ (tenantAt s t).keyix ≠ w.entry.keyix) (j d : Nat) :
    (j, d) ∈ (putTenant s t w).sweolo.keySlots ↔
      if j = w.entry.keyix.toNat then d = s.fresh + 1
      else (j, d) ∈ s.sweolo.keySlots ∧ ((tenantAt s t).v = true → j ≠ (tenantAt s t).keyix.toNat) := by
  have hnew : ((tenantAt s t).v && decide ((tenantAt s t).keyix = w.entry.keyix)) = false := by
    rw [Bool.and_eq_false_iff, decide_eq_false_iff_not]
    exact h
  rw [putTenant_eq, withTenantKey, if_neg (Bool.eq_false_iff.1 hnew), mem_fillSlot, putBitmap_frame]
  simp only [List.mem_filter, Bool.or_eq_true, Bool.not_eq_true', decide_eq_true_eq, imp_iff_not_or, Bool.not_eq_true]

theorem writeTenant_of_legal (ht : t < 64) (hv : w.entry.v = true) (hk : w.entry.keyix ≠ 0) (hj : w.entry.job ≠ s.sweolo.job)
    (hres : tenantResident s t = false)
    (hfree : ∀ k : Fin 64, k.val ≠ t → (s.tenants.get k).v = true → (s.tenants.get k).keyix ≠ w.entry.keyix) :
    writeTenant s t w = some (putTenant s t w) := by
  have htaken : ((List.range 64).any fun k =>
      k ≠ t && (s.tenants.get (Fin.ofNat 64 k)).v && (s.tenants.get (Fin.ofNat 64 k)).keyix = w.entry.keyix) = false := by
    rw [List.any_eq_false]
    intro k hmem
    have hval : (Fin.ofNat 64 k).val = k := Nat.mod_eq_of_lt (List.mem_range.1 hmem)
    simp only [Bool.and_eq_true, decide_eq_true_eq, not_and]
    rintro ⟨hne, hkv⟩
    exact hfree _ (by rwa [hval]) hkv
  have hlt : decide (64 ≤ t) = false := decide_eq_false (Nat.not_le.2 ht)
  simp only [writeTenant, htaken, hlt, hv, hk, hj, hres, decide_false, Bool.or_self, Bool.and_false, Bool.false_eq_true, if_false, if_true]
end

theorem removeTenant_of_idle {s : State} {t : Nat} (ht : t < 64) (hres : tenantResident s t = false) :
    removeTenant s t = some (dropTenant s t) := by
  simp only [removeTenant, Nat.not_le.2 ht, hres, Bool.false_eq_true, if_false]

theorem dropTenant_entry (s : State) (t : Nat) : tenantAt (dropTenant s t) t = TenantEntry.unused :=
  (vector_get_ofFn _ _).trans (if_pos rfl)

/-- The frames of a tenant that is removed are zero (R381). -/
theorem mem_dropTenant_mem (s : State) (t a : Nat) (x : Byte) :
    (a, x) ∈ (dropTenant s t).mem ↔ (a, x) ∈ s.mem ∧ tenantFrame s t a = false := by
  show (a, x) ∈ s.mem.filter (fun c => !tenantFrame s t c.1) ↔ _
  rw [List.mem_filter, Bool.not_eq_true']

theorem dropTenant_images {s : State} {t : Nat} {i : MarkImage} (h : i ∈ (dropTenant s t).images) :
    ∀ c ∈ i.mem, tenantFrame s t c.1 = false := by
  obtain ⟨j, -, rfl⟩ := List.mem_map.1 h
  intro c hc
  simpa using (List.mem_filter.1 hc).2

/-- The key slot of a tenant that is removed is erased, but never slot 0 (R380). -/
theorem mem_dropTenant_keySlots (s : State) (t j d : Nat) :
    (j, d) ∈ (dropTenant s t).sweolo.keySlots ↔ (j, d) ∈ s.sweolo.keySlots ∧ (j = (tenantAt s t).keyix.toNat → (tenantAt s t).keyix.toNat = 0) := by
  show (j, d) ∈ s.sweolo.keySlots.filter (fun x => x.1 ≠ (tenantAt s t).keyix.toNat || x.1 = 0) ↔ _
  rw [List.mem_filter]
  refine and_congr_right fun _ => ?_
  simp only [Bool.or_eq_true, decide_eq_true_eq]
  constructor
  · rintro (h | h) rfl
    · exact absurd rfl h
    · exact h
  · intro h
    by_cases hj : j = (tenantAt s t).keyix.toNat
    · exact .inr (hj ▸ h hj)
    · exact .inl hj

/-! ### Partitions (R228, R376, R377) -/

/-- A core with its counters at zero, where it is one of cluster k. -/
def restartCore (k : Nat) (c : Core) : Core :=
  if 16 * c.die + c.core / 4 = k then { c with corrections := 0, emergencies := 0, hits := List.replicate 4 0 } else c

/-- The counters of a core are zero. -/
def CountersZero (c : Core) : Prop := c.corrections = 0 ∧ c.emergencies = 0 ∧ ∀ x ∈ c.hits, x = 0

theorem foldl_l1DropAll_frame (l : List (Nat × Nat)) (s : State) :
    l.foldl (fun t c => l1DropAll t c.1 c.2) s = { s with l1 := (l.foldl (fun t c => l1DropAll t c.1 c.2) s).l1 } := by
  induction l generalizing s with
  | nil => rfl
  | cons c l ih => exact ih _

theorem restartCores_frame (s : State) (k : Nat) :
    restartCores s k = { s with l1 := (restartCores s k).l1, cores := s.cores.map (restartCore k) } := by
  unfold restartCores
  rw [foldl_l1DropAll_frame]
  rfl

/-- Restarting the cores of clusters changes the L1s and the cores alone. -/
theorem foldl_restartCores_frame (ks : List Nat) (s : State) :
    ks.foldl restartCores s = { s with l1 := (ks.foldl restartCores s).l1, cores := (ks.foldl restartCores s).cores } := by
  induction ks generalizing s with
  | nil => rfl
  | cons k ks ih =>
    rw [List.foldl_cons]
    refine (ih _).trans ?_
    generalize ks.foldl restartCores (restartCores s k) = u
    rw [restartCores_frame]

theorem restartCore_place (k : Nat) (c : Core) : (restartCore k c).die = c.die ∧ (restartCore k c).core = c.core := by
  unfold restartCore
  split <;> exact ⟨rfl, rfl⟩

theorem restartCore_reset (k d c : Nat) : restartCore k (Core.reset d c) = Core.reset d c := by
  unfold restartCore
  split <;> rfl

theorem coreAt_restartCores (s : State) (k d c : Nat) : coreAt (restartCores s k) d c = restartCore k (coreAt s d c) := by
  have hsame : ((fun x : Core => decide (x.die = d) && decide (x.core = c)) ∘ restartCore k)
      = fun x : Core => decide (x.die = d) && decide (x.core = c) := by
    funext x
    obtain ⟨hd, hc⟩ := restartCore_place k x
    simp only [Function.comp, hd, hc]
  rw [coreAt, restartCores_frame, List.find?_map, hsame, coreAt]
  cases s.cores.find? fun x => decide (x.die = d) && decide (x.core = c) with
  | none => exact (restartCore_reset k d c).symm
  | some x => rfl

theorem coreAt_place (s : State) (d c : Nat) : (coreAt s d c).die = d ∧ (coreAt s d c).core = c := by
  unfold coreAt
  cases h : s.cores.find? fun x => decide (x.die = d) && decide (x.core = c) with
  | none => exact ⟨rfl, rfl⟩
  | some x => simpa using List.find?_some h

theorem countersZero_restartCore {k : Nat} {c : Core} (h : 16 * c.die + c.core / 4 = k ∨ CountersZero c) : CountersZero (restartCore k c) := by
  unfold restartCore
  split
  · exact ⟨rfl, rfl, fun x hx => List.eq_of_mem_replicate hx⟩
  next hk => exact h.resolve_left hk

/-- A core of one of the clusters that restart has its counters at zero (R228). -/
theorem countersZero_of_restarted {ks : List Nat} {s : State} {d c : Nat} (h : 16 * d + c / 4 ∈ ks ∨ CountersZero (coreAt s d c)) :
    CountersZero (coreAt (ks.foldl restartCores s) d c) := by
  induction ks generalizing s with
  | nil => exact h.resolve_left List.not_mem_nil
  | cons k ks ih =>
    rw [List.foldl_cons]
    refine ih (s := restartCores s k) ?_
    rw [coreAt_restartCores]
    obtain ⟨hd, hc⟩ := coreAt_place s d c
    rcases h with h | h
    · rcases List.mem_cons.1 h with h | h
      · exact .inr (countersZero_restartCore (.inl (by rw [hd, hc, h])))
      · exact .inl h
    · exact .inr (countersZero_restartCore (.inr h))

theorem mem_clustersIn {b : BitVec 64} {k : Nat} (h : b.getLsbD k = true) : k ∈ clustersIn b :=
  List.mem_filter.2 ⟨List.mem_range.2 (BitVec.lt_of_getLsbD h), h⟩

theorem writePart_of_new {s : State} {n : Nat} {w : PartWrite} (hok : descOk s n w.desc = true) (hv : w.desc.v = true)
    (hp : findPart s n = none) : writePart s n w = some (definePart s n w) := by
  simp only [writePart, hok, hp, hv, Bool.not_true, Bool.false_eq_true, if_false, if_true]

/-- A partition that is defined: its row and the marks beside what restarting its cores changes. -/
theorem definePart_frame (s : State) (n : Nat) (w : PartWrite) :
    (definePart s n w).mem = s.mem
      ∧ (definePart s n w).parts = s.parts ++ [{ freshPart n w.desc s.protectNext (s.protectNext + Config.tableBytes 0) with logSize := w.log }]
      ∧ (definePart s n w).frames = Vector.ofFn fun k =>
          if k = Fin.ofNat 64 w.desc.tenant.toNat then s.frames.get k ||| w.desc.channels else s.frames.get k &&& ~~~w.desc.channels := by
  unfold definePart
  dsimp only
  rw [foldl_restartCores_frame]
  exact ⟨rfl, rfl, rfl⟩

theorem writePart_of_old {s : State} {p : Part} {w : PartWrite} (hp : findPart s p.n = some p) (hok : descOk s p.n w.desc = true)
    (hv : w.desc.v = true) (hres : anyResident s p.n = false) :
    writePart s p.n w = some ((clustersIn (w.desc.clusters &&& ~~~p.desc.clusters)).foldl restartCores
      (takeFrames (modPart s p.n fun y => { y with desc := w.desc, logSize := w.log }) w.desc)) := by
  simp only [writePart, hok, hp, hv, hres, Bool.not_true, Bool.and_false, Bool.false_eq_true, if_false]

theorem writePart_ends {s : State} {n : Nat} {w : PartWrite} {p : Part} (hok : descOk s n w.desc = true) (hv : w.desc.v = false)
    (hp : findPart s n = some p) (hg : ∀ g ∈ s.groups, g.part ≠ n) : writePart s n w = some (undefinePart s p w.desc) := by
  have hnone : (s.groups.any fun g => decide (g.part = n)) = false := by simpa using hg
  simp only [writePart, hok, hp, hv, hnone, Bool.not_true, Bool.not_false, Bool.false_eq_true, if_false, if_true]

/-- A descriptor of no partition kept as written. -/
def keepIdle (s : State) (n : Nat) (d : PartDesc) : State :=
  { s with idle := Vector.ofFn fun k => if k = Fin.ofNat 64 n then d else s.idle.get k }

theorem writePart_of_undefined {s : State} {n : Nat} {w : PartWrite} (hok : descOk s n w.desc = true) (hv : w.desc.v = false)
    (hp : findPart s n = none) : writePart s n w = some (keepIdle s n w.desc) := by
  simp only [writePart, hok, hp, hv, Bool.not_true, Bool.false_eq_true, if_false, keepIdle]

theorem descOf_of_idle {s : State} {n : Nat} {d : PartDesc} (hp : findPart s n = none)
    (hi : s.idle.get (Fin.ofNat 64 n) = d) : descOf s n = d := by
  rw [descOf, hp]
  exact hi

theorem keepIdle_leaves {s : State} {n : Nat} (hp : findPart s n = none) (d : PartDesc) :
    (keepIdle s n d).mem = s.mem ∧ findPart (keepIdle s n d) n = none ∧ descOf (keepIdle s n d) n = d := by
  have hnone : findPart (keepIdle s n d) n = none := by
    rw [findPart, keepIdle]
    exact hp
  have hidle : (keepIdle s n d).idle.get (Fin.ofNat 64 n) = d := by rw [keepIdle, vector_get_ofFn, if_pos rfl]
  exact ⟨by rw [keepIdle], hnone, descOf_of_idle hnone hidle⟩

/-- A partition that ends is found no more, and its descriptor stays as written (R376). -/
theorem undefinePart_leaves (s : State) (p : Part) (d : PartDesc) :
    (undefinePart s p d).mem = s.mem ∧ findPart (undefinePart s p d) p.n = none ∧ descOf (undefinePart s p d) p.n = d := by
  have hnone : findPart (undefinePart s p d) p.n = none := by
    rw [findPart, undefinePart, foldl_restartCores_frame, List.find?_eq_none]
    intro q hq
    simpa using (List.mem_filter.1 hq).2
  refine ⟨?_, hnone, descOf_of_idle hnone ?_⟩
  · rw [undefinePart, foldl_restartCores_frame]
  · rw [undefinePart, foldl_restartCores_frame]
    exact (vector_get_ofFn _ _).trans (if_pos rfl)

/-! ### The statement -/

/-- Settles O45, request by request. -/
theorem tableWrites : Obligations.TableWrites := by
  intro s
  refine ⟨?_, ?_, ?_, ?_, ?_, ?_, ?_, ?_, ?_, ?_, ?_, fun i h => exec_of_waits h⟩
  case refine_1 => exact fun t bank n ht hb h => congrArg Host.Outcome.next (writeQuota_of_room ht hb h)
  case refine_2 => exact fun t i r ht hi hv hlo hal hres => served_of_some (writeRemote_of_legal ht hi hv hlo hal hres)
  case refine_3 =>
    intro t r ht hv hk hj hres hfree
    refine ⟨_, served_of_some (writeTenant_of_legal r ht hv hk hj hres hfree), (putTenant_tenants r _).trans (if_pos rfl),
      putTenant_keySlots_of_same r, fun h => ⟨fun d => ?_, fun hold d hd => ?_⟩, fun q hq _ => ?_, fun k hkt => ?_, putTenant_mem r⟩
    · rw [mem_putTenant_keySlots r h, if_pos rfl]
    · have hne : (s.tenants.get (Fin.ofNat 64 t)).keyix.toNat ≠ r.entry.keyix.toNat := fun e =>
        h.elim (fun hf => Bool.false_ne_true (hf.symm.trans hold)) fun hf => hf (BitVec.eq_of_toNat_eq e)
      rw [mem_putTenant_keySlots r h, if_neg hne] at hd
      exact hd.2 hold rfl
    · rw [qmapBit_congr (putTenant_protect r), qmapBit_putBitmap _ _ _ hq]
    · exact (putTenant_tenants r k).trans (if_neg (ofNat_ne_of_val_ne ht hkt))
  case refine_4 =>
    exact fun t ht hres => ⟨_, served_of_some (removeTenant_of_idle ht hres), congrArg TenantEntry.v (dropTenant_entry s t),
      mem_dropTenant_mem s t, fun i hi => dropTenant_images hi, mem_dropTenant_keySlots s t⟩
  case refine_5 =>
    intro n d hn hv hlo hhi hal hres
    have hlegal : QueueLegal n d := ⟨hn, hv, hlo, hhi, hal⟩
    exact ⟨fun hq => served_of_some (writeQueue_of_new hlegal hres hq), fun q hq hold => served_of_some (writeQueue_of_old hlegal hres hq hold)⟩
  case refine_6 => exact fun k o xs p hk hp hres hw => served_of_some (assignWindow_of_free hk hp hres hw)
  case refine_7 => exact fun p i r hp hok hres => served_of_some (writeRangeReg_of_legal hp hok hres)
  case refine_8 =>
    intro n w hok hv hp
    obtain ⟨hmem, hparts, hframes⟩ := definePart_frame s n w
    exact ⟨_, served_of_some (writePart_of_new hok hv hp), hmem, hparts, fun k => by rw [hframes, vector_get_ofFn],
      fun d c hdc => countersZero_of_restarted (.inl (mem_clustersIn hdc))⟩
  case refine_9 =>
    intro p w hp hok hv hres
    refine ⟨_, served_of_some (writePart_of_old hp hok hv hres), ?_⟩
    rw [foldl_restartCores_frame]
    rfl
  case refine_10 =>
    intro n w hok hv hg
    cases hp : findPart s n with
    | none =>
      exact ⟨_, served_of_some (writePart_of_undefined hok hv hp), keepIdle_leaves hp w.desc⟩
    | some p =>
      obtain rfl : p.n = n := by simpa using List.find?_some hp
      exact ⟨_, served_of_some (writePart_ends hok hv hp hg), undefinePart_leaves s p w.desc⟩
  case refine_11 =>
    refine fun n b => ⟨fun hp => ?_, fun hp => ?_⟩
    · exact ⟨congrArg Host.Outcome.next (if_pos (by rw [hp]; rfl)), congrArg Host.Outcome.next (if_pos (by rw [hp]; rfl))⟩
    · have hsome : ¬ (findPart s n).isNone = true := fun h => by
        rw [Option.isNone_iff_eq_none.1 h] at hp
        cases hp
      exact ⟨congrArg Host.Outcome.next (if_neg hsome), congrArg Host.Outcome.next (if_neg hsome)⟩

end Sys2Proof.Machine
end

section
/-! SUPPORT. Taking a trap (R223 to R225): the record in its slot and the handler's wave, the launch faulted where there is no handler; and
the launch that is owed a replay (R357), for which the statement of O60 fails. -/
namespace Sys2Proof.Machine

/-! ### The record in its slot (R223, R225) -/

/-- The bytes of one whole line are one piece. -/
theorem iaPieces_of_line {ia : Nat} (h : ia % 64 = 0) : iaPieces ia 64 = [(ia, 0, 64)] := by
  have hone : (ia + 64 + 63) / 64 - ia / 64 = 1 := by omega
  have hlo : max ia (64 * (ia / 64 + 0)) = ia := by omega
  have hhi : min (ia + 64) (64 * (ia / 64 + 0) + 64) = ia + 64 := by omega
  simp only [iaPieces, hone, List.range_one, List.filterMap_cons, List.filterMap_nil, hlo, hhi, Nat.lt_add_of_pos_right (by decide : 0 < 64),
    if_true, Nat.sub_self, Nat.add_sub_cancel_left]

/-- A whole line that the hardware writes is written at the physical address of its page (R308). -/
theorem hardWrite_line_mem {s : State} {g : Page} {ia : Nat} (launch : DWord) {bs : List Byte} (hbs : bs.length = 64) (hal : ia % 64 = 0)
    (hg : pageOf s ia = some g) (hk : keyHere s g (physIn g ia) = true) :
    (hardWrite s launch ia bs).mem = writeBytes s.mem (physIn g ia) bs := by
  have hall : (bs.drop 0).take 64 = bs := List.take_of_length_le hbs.le
  simp only [hardWrite, hbs, iaPieces_of_line hal, List.foldl_cons, List.foldl_nil, hall]
  exact (llcMeet_keepsBytes ..).mem.trans (homeWrite_markAccessed_mem launch bs hg hk)

theorem hardWrite_waves (s : State) (launch : DWord) (ia : Nat) (bs : List Byte) : (hardWrite s launch ia bs).waves = s.waves := by
  refine foldl_keeps State.waves _ (fun t q => ?_) _ s
  have hmark : (markAccessed t q.1 true).waves = t.waves := by
    unfold markAccessed
    split
    · rfl
    · exact (markPage_looksUp ..).waves
  exact (llcMeet_looksUp ..).waves.trans ((homeWrite_waves ..).trans hmark)

/-! ### The trapped wave and its handler (R223) -/

/-- The wave at the end of the run in which it trapped. -/
def trappedWave (w : Wave) : Wave := { endRun w false with stepDone := false }

theorem trappedWave_eq (w : Wave) :
    trappedWave w = { w with run := none, hold := (trappedWave w).hold, issue := (trappedWave w).issue, spin := (trappedWave w).spin
                             floor := (trappedWave w).floor, stepDone := false } := by
  have hrun := endRun_run w false
  unfold trappedWave
  rw [endRun_eq] at hrun ⊢
  rw [hrun]

/-- The state in which the record of a trap is written: the wave has given its slot up. -/
def atTrap (s : State) (w : Wave) : State := yieldSlot (modWave s w.id fun _ => trappedWave w) w.id

/-- What the trap leaves of the wave when its record is written. -/
def afterTrap (s : State) (w : Wave) : Wave := { trappedWave w with lastRun := s.fresh }

theorem trappedWave_id (w : Wave) : (trappedWave w).id = w.id := endRun_id w false

/-- Waves of other numbers are found as they were, when one keeps its number. -/
theorem findWave_modWave_ne {s : State} {n k : Nat} {f : Wave → Wave} (hf : ∀ w, w.id = n → (f w).id = n) (hk : k ≠ n) :
    findWave (modWave s n f) k = findWave s k := by
  simp only [findWave, modWave]
  induction s.waves with
  | nil => rfl
  | cons w l ih =>
    by_cases hw : w.id = n
    · simpa [hw, hf w hw, Ne.symm hk] using ih
    · simp only [List.map_cons, hw, if_false, List.find?_cons, ih]

section
variable {s : State} {w : Wave} (hw : findWave s w.id = some w)
include hw

theorem findWave_atTrap : findWave (atTrap s w) w.id = some (afterTrap s w) := by
  have hmod : findWave (modWave s w.id fun _ => trappedWave w) w.id = some (trappedWave w) :=
    findWave_modWave_of_found _ hw (trappedWave_id w)
  exact findWave_modWave_of_found (s := modWave s w.id fun _ => trappedWave w) (fun v => { v with lastRun := s.fresh }) hmod rfl

omit hw in
theorem findWave_atTrap_other {k : Nat} (hk : k ≠ w.id) : findWave (atTrap s w) k = findWave s k :=
  (findWave_modWave_ne (s := modWave s w.id fun _ => trappedWave w) (f := fun v => { v with lastRun := s.fresh }) (fun _ h => h) hk).trans
    (findWave_modWave_ne (fun _ _ => trappedWave_id w) hk)

/-- A wave that no gang of its group waits for takes its trap alone: the record is written to its slot, and the handler is formed, or
the launch is faulted. -/
theorem enterTrap_of_placed (hst : w.stepping = none) (hg : gangsOf s w.group w.index = []) {ia : Nat} (hp : recordPlace s w = some ia)
    (x : TrapInfo) :
    enterTrap s w.id x =
      let t := hardWrite (atTrap s w) w.launch ia (bytesOf (faultRecord w x) 64)
      if w.handler = 0 then faultLaunch t w.launch x.trap
      else if w.h || (w.spn && w.ctx.isNone) || x.mask.lanes.any (fun l => (laneOf w l).depth = 4095) then faultLaunch t w.launch .double
      else modWave t w.id fun v => formHandler v v.handler x := by
  have hfound : findWave (yieldSlot (modWave s w.id fun _ => { endRun w false with stepDone := false }) w.id) w.id = some (afterTrap s w) :=
    findWave_atTrap hw
  have hstep : (afterTrap s w).stepping = none := by
    rw [afterTrap, trappedWave_eq]
    exact hst
  have hrec : recordPlace s (trappedWave w) = some ia := by
    rw [trappedWave_eq]
    exact hp
  have hbody : faultRecord (trappedWave w) x = faultRecord w x := by
    rw [trappedWave_eq]
    rfl
  have hrest : (endRun w false).launch = w.launch ∧ (endRun w false).handler = w.handler ∧ (endRun w false).h = w.h
      ∧ (endRun w false).spn = w.spn ∧ (endRun w false).ctx = w.ctx := by
    rw [endRun_eq]
    exact ⟨rfl, rfl, rfl, rfl, rfl⟩
  obtain ⟨hlaunch, hhandler, hh, hspn, hctx⟩ := hrest
  have hlane : ∀ l, laneOf (trappedWave w) l = laneOf w l := fun l => by
    rw [trappedWave_eq]
    rfl
  simp only [trappedWave] at hrec hbody hlane
  simp only [enterTrap, hw, hg, abortRendezvous, List.foldl_nil, trapWave, endStep_steady hfound hstep, hrec, hbody, hlane]
  rw [← hlaunch, ← hhandler, ← hh, ← hspn, ← hctx]
  rfl

end

/-- A lane of a handler: live at its entry one level deeper where the trap mask has it, exited where it has not (R223). -/
theorem laneOf_formHandler (w : Wave) (a : DWord) (x : TrapInfo) (l : Lane) :
    laneOf (formHandler w a x) l =
      if x.mask.has l then
        { laneOf w l with pc := a.extractLsb' 0 48, state := .live, depth := (laneOf w l).depth + 1
                          trapLevel := some ((laneOf w l).depth + 1), ret := 0 :: (laneOf w l).ret, kept := [] }
      else { laneOf w l with pc := exitedPc, state := .exited, kept := [] } := Lanes.get_of _ l

theorem laneOf_afterTrap (s : State) (w : Wave) (l : Lane) : laneOf (afterTrap s w) l = laneOf w l := by
  rw [afterTrap, trappedWave_eq]
  rfl

/-- v is the wave w in the handler of a trap: what it was is held aside, the lanes of the trap mask are live at the handler's entry one
level deeper, every other lane is exited, and nothing else of the lanes and of the wave is new (R223). -/
def InHandler (w : Wave) (x : TrapInfo) (v : Wave) : Prop :=
  ∃ y, v.h = true ∧ v.run = none ∧ v.aside = some y ∧ y.stand = x.stand ∧ y.lanes = x.lanes ∧ y.pc = x.pc ∧ v.winb = w.winb ∧ v.blks = w.blks
    ∧ v.queues = w.queues
    ∧ ∀ l, y.pcs.get l = (laneOf w l).pc ∧ y.states.get l = (laneOf w l).state
      ∧ (laneOf v l).regs = (laneOf w l).regs ∧ (laneOf v l).preds = (laneOf w l).preds ∧ (laneOf v l).nflg = (laneOf w l).nflg
      ∧ (laneOf v l).held = (laneOf w l).held
      ∧ if x.mask.has l then (laneOf v l).pc = w.handler.extractLsb' 0 48 ∧ (laneOf v l).state = .live
          ∧ (laneOf v l).depth = (laneOf w l).depth + 1 ∧ (laneOf v l).trapLevel = some ((laneOf w l).depth + 1)
        else (laneOf v l).pc = exitedPc ∧ (laneOf v l).state = .exited ∧ (laneOf v l).depth = (laneOf w l).depth

theorem inHandler_formHandler (s : State) (w : Wave) (x : TrapInfo) : InHandler w x (formHandler (afterTrap s w) w.handler x) := by
  have hrest : (afterTrap s w).run = none ∧ (afterTrap s w).winb = w.winb ∧ (afterTrap s w).blks = w.blks ∧ (afterTrap s w).queues = w.queues := by
    rw [afterTrap, trappedWave_eq]
    exact ⟨rfl, rfl, rfl, rfl⟩
  obtain ⟨hrun, hwinb, hblks, hqueues⟩ := hrest
  refine ⟨_, rfl, hrun, rfl, rfl, rfl, rfl, hwinb, hblks, hqueues, fun l => ?_⟩
  rw [Lanes.get_of, Lanes.get_of, laneOf_formHandler, laneOf_afterTrap]
  split
  next => exact ⟨rfl, rfl, rfl, rfl, rfl, rfl, rfl, rfl, rfl, rfl⟩
  next => exact ⟨rfl, rfl, rfl, rfl, rfl, rfl, rfl, rfl, rfl⟩

/-! ### Where the wave has a handler -/

section
variable {s : State} {w : Wave} (hw : findWave s w.id = some w) (hst : w.stepping = none) (hg : gangsOf s w.group w.index = []) {ia : Nat}
  (hp : recordPlace s w = some ia) (x : TrapInfo)
include hw hst hg hp

theorem enterTrap_of_handler (hh : w.handler ≠ 0) (h : w.h = false) (hctx : w.spn = true → w.ctx.isSome)
    (hdepth : ∀ l, x.mask.has l = true → (laneOf w l).depth ≠ 4095) :
    enterTrap s w.id x =
      modWave (hardWrite (atTrap s w) w.launch ia (bytesOf (faultRecord w x) 64)) w.id fun v => formHandler v v.handler x := by
  have hlanes : (x.mask.lanes.any fun l => (laneOf w l).depth = 4095) = false := by
    rw [List.any_eq_false]
    exact fun l hl => by simpa using hdepth l ((Mask.mem_lanes _ l).1 hl)
  have hspn : (w.spn && w.ctx.isNone) = false := by
    cases hs : w.spn with
    | false => rfl
    | true => rw [Option.isNone_eq_false_iff.2 (hctx hs)]; rfl
  rw [enterTrap_of_placed hw hst hg hp]
  simp only [hh, h, hspn, hlanes, Bool.or_self, Bool.false_eq_true, if_false]

/-- The record is written to its line; the wave is in its handler; other waves and the groups are as they were (R223). -/
theorem enterTrap_handler_leaves (hh : w.handler ≠ 0) (h : w.h = false) (hctx : w.spn = true → w.ctx.isSome)
    (hdepth : ∀ l, x.mask.has l = true → (laneOf w l).depth ≠ 4095) :
    (∀ g, pageOf s ia = some g → ia % 64 = 0 → keyHere s g (physIn g ia) = true →
        (enterTrap s w.id x).mem = writeBytes s.mem (physIn g ia) (bytesOf (faultRecord w x) 64))
      ∧ (∀ k, k ≠ w.id → findWave (enterTrap s w.id x) k = findWave s k) ∧ (enterTrap s w.id x).groups = s.groups
      ∧ ∃ v, findWave (enterTrap s w.id x) w.id = some v ∧ InHandler w x v := by
  rw [enterTrap_of_handler hw hst hg hp x hh h hctx hdepth]
  have hwaves := hardWrite_waves (atTrap s w) w.launch ia (bytesOf (faultRecord w x) 64)
  have hfind : ∀ k, findWave (hardWrite (atTrap s w) w.launch ia (bytesOf (faultRecord w x) 64)) k = findWave (atTrap s w) k := fun k => by
    rw [findWave, hwaves, findWave]
  have hhandler : (afterTrap s w).handler = w.handler := by
    rw [afterTrap, trappedWave_eq]
  refine ⟨fun g hpage hal hkey => ?_, fun k hk => ?_, hardWrite_groups .., ?_⟩
  · exact hardWrite_line_mem (s := atTrap s w) w.launch (bytesOf_length ..) hal hpage hkey
  · exact (findWave_modWave_ne (f := fun v => formHandler v v.handler x) (fun v hv => hv) hk).trans ((hfind k).trans (findWave_atTrap_other hk))
  · refine ⟨_, findWave_modWave_of_found _ ((hfind w.id).trans (findWave_atTrap hw)) rfl, ?_⟩
    rw [hhandler]
    exact inHandler_formHandler s w x

end

/-! ### Where the launch is faulted (R346) -/

/-- A launch, while it is found, has the state and is owed no replay. -/
def LaunchStands (id : DWord) (st : LaunchState) (s : State) : Prop := ∀ y, findLaunch s id = some y → y.state = st ∧ y.replay = false

theorem LaunchStands.of_launches {id : DWord} {st : LaunchState} {s t : State} (h : LaunchStands id st s) (hl : t.launches = s.launches) :
    LaunchStands id st t := fun y hy => h y (by rwa [findLaunch, hl] at hy)

theorem foldl_launchStands {α : Type} {id : DWord} {st : LaunchState} {f : State → α → State}
    (hf : ∀ t x, LaunchStands id st t → LaunchStands id st (f t x)) (l : List α) {s : State} (h : LaunchStands id st s) :
    LaunchStands id st (l.foldl f s) := by
  induction l generalizing s with
  | nil => exact h
  | cons x l ih => exact ih (hf s x h)

theorem findLaunch_modLaunch (s : State) (n id : DWord) {f : Launch → Launch} (hf : ∀ l, (f l).id = l.id) :
    findLaunch (modLaunch s n f) id = (findLaunch s id).map fun l => if l.id = n then f l else l := by
  rw [findLaunch, modLaunch, List.find?_map, findLaunch]
  congr 2
  funext l
  simp only [Function.comp]
  split
  · rw [hf]
  · rfl

theorem findLaunch_id {s : State} {id : DWord} {l : Launch} (h : findLaunch s id = some l) : l.id = id := by simpa using List.find?_some h

theorem findLaunch_modLaunch_other (s : State) {n id : DWord} {f : Launch → Launch} (hf : ∀ l, (f l).id = l.id) (hn : id ≠ n) :
    findLaunch (modLaunch s n f) id = findLaunch s id := by
  rw [findLaunch_modLaunch s n id hf]
  cases h : findLaunch s id with
  | none => rfl
  | some l => rw [Option.map_some, if_neg (by rwa [findLaunch_id h])]

/-- A change that leaves the state of a launch and what it is owed. -/
theorem LaunchStands.modLaunch {id : DWord} {st : LaunchState} {s : State} (h : LaunchStands id st s) (n : DWord) {f : Launch → Launch}
    (hf : ∀ l, (f l).id = l.id ∧ (f l).state = l.state ∧ (f l).replay = l.replay) : LaunchStands id st (modLaunch s n f) := by
  intro y hy
  rw [findLaunch_modLaunch s n id fun l => (hf l).1, Option.map_eq_some_iff] at hy
  obtain ⟨l, hl, rfl⟩ := hy
  obtain ⟨-, hstate, hreplay⟩ := hf l
  split
  · rw [hstate, hreplay]
    exact h l hl
  · exact h l hl

theorem LaunchStands.modLaunch_other {id n : DWord} {st : LaunchState} {s : State} (h : LaunchStands id st s) (hn : id ≠ n)
    {f : Launch → Launch} (hf : ∀ l, (f l).id = l.id) : LaunchStands id st (Machine.modLaunch s n f) := fun y hy =>
  h y (by rwa [findLaunch_modLaunch_other s hf hn] at hy)

/-- The launch given another state. -/
theorem LaunchStands.becomes {id : DWord} {st st' : LaunchState} {s : State} (h : LaunchStands id st s) {f : Launch → Launch}
    (hf : ∀ l, (f l).id = l.id ∧ (f l).state = st' ∧ (f l).replay = l.replay) : LaunchStands id st' (Machine.modLaunch s id f) := by
  intro y hy
  rw [findLaunch_modLaunch s id id fun l => (hf l).1, Option.map_eq_some_iff] at hy
  obtain ⟨l, hl, rfl⟩ := hy
  obtain ⟨-, hstate, hreplay⟩ := hf l
  rw [if_pos (findLaunch_id hl), hstate, hreplay]
  exact ⟨rfl, (h l hl).2⟩

theorem LaunchStands.freeDieSlots {id : DWord} {st : LaunchState} {s : State} (h : LaunchStands id st s) (n : DWord) :
    LaunchStands id st (freeDieSlots s n) := h.of_launches rfl

theorem LaunchStands.modPart {id : DWord} {st : LaunchState} {s : State} (h : LaunchStands id st s) (n : Nat) (f : Part → Part) :
    LaunchStands id st (modPart s n f) := h.of_launches rfl

/-! #### What leaves the launches as they are -/

theorem endScout_launches (s : State) (n : Nat) : (endScout s n).launches = s.launches := by
  unfold endScout
  split <;> rfl

theorem campionNext_launches (s : State) (tenant : Nat) (c : BitVec 6) (clock : Clock) : (campionNext s tenant c clock).launches = s.launches := by
  unfold campionNext
  split
  · rfl
  · split <;> rfl

theorem freeMonitors_launches (s : State) (mine : Nat → Bool) : (freeMonitors s mine).launches = s.launches :=
  foldl_keeps State.launches _ (fun _ _ => campionNext_launches ..) _ _

theorem underKey_launches (s : State) (key a : Nat) : (underKey s key a).launches = s.launches := by
  unfold underKey
  split
  · split <;> rfl
  · rfl

theorem restoreSnapshot_launches (s : State) (l : Launch) : (restoreSnapshot s l).launches = s.launches := by
  refine foldl_keeps State.launches _ (fun t g => ?_) _ s
  split
  · rfl
  · exact underKey_launches ..

theorem endTasks_launches (s : State) (gs : List Group) (id : DWord) (part status trap : Nat) :
    (endTasks s gs id part status trap).launches = s.launches := by
  refine foldl_keeps State.launches _ (fun t g => ?_) gs s
  split <;> rfl

theorem llcSeat_launches (s : State) (b : LlcBlock) (line tenant : Nat) : (llcSeat s b line tenant).launches = s.launches := by
  unfold llcSeat
  split <;> rfl

theorem llcPut_launches (s : State) (die line tenant : Nat) (x : LlcLine) : (llcPut s die line tenant x).launches = s.launches := by
  unfold llcPut
  dsimp only
  split
  · split
    · exact llcSeat_launches ..
    · rfl
  · exact llcSeat_launches ..

theorem llcMeet_launches (s : State) (tenant die line : Nat) (write : Bool) : (llcMeet s tenant die line write).launches = s.launches := by
  unfold llcMeet
  split
  · dsimp only
    split
    · exact llcPut_launches ..
    · rfl
  · split
    · exact llcPut_launches ..
    · rfl

/-! #### What leaves the launch as it stands -/

section
variable {id : DWord} {st : LaunchState} {s : State} (h : LaunchStands id st s)
include h

/-- A launch that a write makes dirty stands as before (R358). -/
theorem LaunchStands.markDirty (launch : DWord) (g : Page) (ia : Nat) : LaunchStands id st (markDirty s launch g ia) := by
  unfold Machine.markDirty
  split
  · exact h
  · split
    · exact h
    · dsimp only
      split
      · exact h.modLaunch launch fun _ => ⟨rfl, rfl, rfl⟩
      · split
        · exact h.modLaunch launch fun _ => ⟨rfl, rfl, rfl⟩
        · exact (h.modLaunch launch (f := fun x => { x with snapshot := none, dirty := [], copies := [] }) fun _ => ⟨rfl, rfl, rfl⟩).of_launches rfl

theorem LaunchStands.homeWrite (launch : DWord) (ia : Nat) (bs : List Byte) : LaunchStands id st (homeWrite s launch ia bs) := by
  unfold Machine.homeWrite
  split
  · exact h
  next g _ =>
    split
    · exact h
    · have hlog : LaunchStands id st (logLine s g.owner.n (physIn g ia)) := h.of_launches rfl
      exact (hlog.markDirty launch g ia).of_launches (underKey_launches ..)

theorem LaunchStands.markAccessed (ia : Nat) (write : Bool) : LaunchStands id st (markAccessed s ia write) := by
  refine h.of_launches ?_
  unfold Machine.markAccessed
  split
  · rfl
  · unfold markPage
    split <;> rfl

theorem LaunchStands.hardWrite (launch : DWord) (ia : Nat) (bs : List Byte) : LaunchStands id st (hardWrite s launch ia bs) :=
  foldl_launchStands (fun _ q ht => ((ht.markAccessed q.1 true).homeWrite launch q.1 _).of_launches (llcMeet_launches ..)) _ h

theorem LaunchStands.releaseHusk (n : Nat) : LaunchStands id st (releaseHusk s n) := by
  unfold Machine.releaseHusk
  split
  · exact h
  · split
    · exact h
    · split
      · exact h.modLaunch _ fun _ => ⟨rfl, rfl, rfl⟩
      · exact h.of_launches (freeMonitors_launches ..)

theorem LaunchStands.stopWave (n : Nat) : LaunchStands id st (stopWave s n) := by
  have hs : LaunchStands id st (endScout s n) := h.of_launches (endScout_launches ..)
  have hrelease : LaunchStands id st (Machine.releaseHusk (modWave (dropWaits (endScout s n) n) n husk) n) :=
    LaunchStands.releaseHusk (s := modWave (dropWaits (endScout s n) n) n husk) (hs.of_launches rfl) n
  unfold Machine.stopWave
  dsimp only
  split
  · exact hs
  · split
    · split <;> exact hrelease.of_launches rfl
    · exact hrelease.of_launches rfl

variable (hst : st ≠ .running)
include hst

/-- A launch that has ended does not complete. -/
theorem LaunchStands.settleLaunch (n : DWord) : LaunchStands id st (settleLaunch s n) := by
  unfold Machine.settleLaunch
  split
  · exact h
  next l hl =>
    split
    next hc =>
      simp only [Bool.and_eq_true, decide_eq_true_eq] at hc
      have hne : id ≠ n := by
        rintro rfl
        exact hst ((h l hl).1.symm.trans hc.1.1.1.1.1)
      exact (h.modLaunch_other hne (f := fun x => { x with state := .done }) fun _ => rfl).of_launches rfl
    next => exact h

omit hst in
/-- A launch that is owed no replay does not start again. -/
theorem LaunchStands.restartLaunch (n : DWord) : LaunchStands id st (restartLaunch s n) := by
  unfold Machine.restartLaunch
  split
  · exact h
  next l hl =>
    split
    next hc =>
      rw [Bool.and_eq_true] at hc
      have hne : id ≠ n := by
        rintro rfl
        exact Bool.false_ne_true ((h l hl).2.symm.trans hc.1)
      have hrestored : LaunchStands id st (restoreSnapshot (hollowFlights s fun f => f.launch = n) l) :=
        h.of_launches (restoreSnapshot_launches ..)
      refine LaunchStands.of_launches (LaunchStands.modPart (hrestored.modLaunch_other hne ?_) _ _) (freeMonitors_launches ..)
      exact fun _ => rfl
    next => exact h

theorem LaunchStands.removeGroup (n : Nat) : LaunchStands id st (removeGroup s n) := by
  unfold Machine.removeGroup
  split
  · exact h
  · extract_lets s1 s2
    have hfreed : s2.launches = s.launches := by
      unfold s2
      split <;> rfl
    exact LaunchStands.restartLaunch (LaunchStands.settleLaunch (h.of_launches hfreed) hst _) _

theorem LaunchStands.reap (n : Nat) : LaunchStands id st (reap s n) := by
  unfold Machine.reap
  split
  · exact h
  · split
    · exact h.removeGroup hst n
    · exact h

end

/-- A running launch that is owed no replay is faulted with the trap's name. -/
theorem faultLaunch_stands {id : DWord} {s : State} (h : LaunchStands id .running s) (t : Trap) :
    LaunchStands id (.faulted t) (faultLaunch s id t) := by
  unfold faultLaunch endLaunch
  split
  next hnone => exact fun y hy => absurd (hnone.symm.trans hy) nofun
  next l hl =>
    rw [(h l hl).1, if_neg (not_not_intro rfl)]
    extract_lets s1 s2 s3 s4
    have hstopped : LaunchStands id .running s1 :=
      foldl_launchStands (fun _ n ht => ht.stopWave n) _ (foldl_launchStands (fun _ n ht => ht.of_launches (endScout_launches _ n)) _ h)
    have hfaulted : LaunchStands id (.faulted t) s3 := by
      refine LaunchStands.freeDieSlots (LaunchStands.becomes (s := s2) (hstopped.of_launches rfl) ?_) id
      exact fun _ => ⟨rfl, rfl, rfl⟩
    have htasks : LaunchStands id (.faulted t) s4 := hfaulted.of_launches (endTasks_launches ..)
    have hended : LaunchState.faulted t ≠ .running := nofun
    exact foldl_launchStands (fun _ n ht => ht.reap hended n) _ htasks

/-! ### What holds, and what does not -/

/-- The statement of O60 for a launch that is owed no replay: the handler entered, or the launch faulted with the trap's name, or with
DOUBLE in a handler. -/
theorem trapEntry_of_no_replay (s : State) (w : Wave) (x : TrapInfo) (ia : Nat) (hw : findWave s w.id = some w) (hst : w.stepping = none)
    (hg : gangsOf s w.group w.index = []) (hp : recordPlace s w = some ia) :
    (w.handler ≠ 0 → w.h = false → (w.spn = true → w.ctx.isSome) → (∀ l, x.mask.has l = true → (laneOf w l).depth ≠ 4095) →
        (∀ g, pageOf s ia = some g → ia % 64 = 0 → keyHere s g (physIn g ia) = true →
            (enterTrap s w.id x).mem = writeBytes s.mem (physIn g ia) (bytesOf (faultRecord w x) 64))
          ∧ (∀ k, k ≠ w.id → findWave (enterTrap s w.id x) k = findWave s k) ∧ (enterTrap s w.id x).groups = s.groups
          ∧ ∃ v, findWave (enterTrap s w.id x) w.id = some v ∧ InHandler w x v)
      ∧ (∀ l, findLaunch s w.launch = some l → l.state = .running → l.replay = false →
          (w.handler = 0 → LaunchStands w.launch (.faulted x.trap) (enterTrap s w.id x))
          ∧ (w.handler ≠ 0 → w.h = true → LaunchStands w.launch (.faulted .double) (enterTrap s w.id x))) := by
  refine ⟨fun hh h hctx hdepth => enterTrap_handler_leaves hw hst hg hp x hh h hctx hdepth, fun l hl hrun hreplay => ?_⟩
  have hstands : LaunchStands w.launch .running s := fun y hy => by
    obtain rfl : l = y := Option.some.inj (hl.symm.trans hy)
    exact ⟨hrun, hreplay⟩
  have hwritten : LaunchStands w.launch .running (hardWrite (atTrap s w) w.launch ia (bytesOf (faultRecord w x) 64)) :=
    LaunchStands.hardWrite (s := atTrap s w) (hstands.of_launches rfl) _ _ _
  rw [enterTrap_of_placed hw hst hg hp]
  refine ⟨fun hh => ?_, fun hh h => ?_⟩
  · rw [hh]
    exact faultLaunch_stands hwritten x.trap
  · simp only [hh, h, Bool.true_or, if_true, if_false]
    exact faultLaunch_stands hwritten .double

/-- The one wave of the laid-out launch without a handler, its launch running and yet owed a replay (R357). -/
def owedReplay : State :=
  modLaunch (modWave (setupLaunched State.reset) 0 fun w => { w with handler := 0 }) 0 fun l => { l with replay := true }

/-- A PERM trap of all lanes at the entry of the launch. -/
def entryTrap : TrapInfo :=
  { trap := .perm, mask := 0xFFFFFFFF#32, dmask := 0, pc := 0x1000, rpc := 0x1000, addr := 0, code := 0, eng := none, wscope := 0, wslot := 0
    lanes := 0xFFFFFFFF#32, stand := 0x1000 }

/-- Refutes O60: it lets the launch be owed a replay while it runs. The trap faults the launch, its one group leaves with its wave, and
with no group left the launch starts again: it is running, not faulted. Without a replay the statement holds (`trapEntry_of_no_replay`). -/
theorem not_trapEntry : ¬ Obligations.TrapEntry := by
  intro h
  have hw : findWave owedReplay 0 = some { setupWave 0 0 0 0 with handler := 0 } := by decide +kernel
  have hg : gangsOf owedReplay 0 0 = [] := by decide +kernel
  have hp : recordPlace owedReplay { setupWave 0 0 0 0 with handler := 0 } = some 0x7FC0 := by decide +kernel
  have hl : findLaunch owedReplay 0 = some { setupLaunch 0 0 with replay := true } := by decide +kernel
  have hruns : ((findLaunch (enterTrap owedReplay 0 entryTrap) 0).any fun y => y.state = .running) = true := by decide +kernel
  obtain ⟨y, hy, hrun⟩ := (Option.any_eq_true ..).1 hruns
  have hfaulted : y.state = .faulted .perm := (((h owedReplay _ entryTrap _ hw rfl hg hp).2 _ hl rfl).1 rfl) y hy
  rw [hfaulted] at hrun
  exact absurd hrun (by decide)

end Sys2Proof.Machine
end

section
/-! SUPPORT. Monitors at their homes and at their lanes (R277 to R283): what a request, a grant and a release leave of the table, of the
grants on their way, of the waves and of device memory. -/
namespace Sys2Proof.Machine

/-! ### Signals and unparked lanes (R174, R331) -/

theorem signalGroup_grants (s : State) (g : Nat) : (signalGroup s g).grants = s.grants := by
  unfold signalGroup
  split
  · split <;> rfl
  · rfl

theorem signalOwner_grants (s : State) (e : Campion) : (signalOwner s e).grants = s.grants := by
  unfold signalOwner
  split
  · split
    · exact signalGroup_grants ..
    · rfl
  · rfl

/-- Waves are found alike where the states have the same ones. -/
theorem findWave_congr {s t : State} (h : t.waves = s.waves) (n : Nat) : findWave t n = findWave s n := by simp only [findWave, h]

/-- The wave with a lane unparked, in the PCV held aside when it is parked there (R224). -/
def madeLive (l : Lane) (sat : Bool) (w : Wave) : Wave :=
  match w.aside with
  | some a =>
    if isParked (a.states.get l) then
      modLane { w with aside := some { a with states := Lanes.of fun k => if k = l then .live else a.states.get k } } l
        fun x => { x with waitSat := x.waitSat || sat }
    else if isParked (laneOf w l).state then wakeUp l sat w else w
  | none => if isParked (laneOf w l).state then wakeUp l sat w else w

theorem unpark_of_no_shadow {s : State} {w : Wave} (hw : findWave s w.id = some w) (hh : shadowOf s w.id = none) (l : Lane) (sat : Bool)
    (k : Clock) :
    unpark s w.id l sat k = signalGroup (noteClock (modWave s w.id (madeLive l sat)) w.group k) w.group := by
  simp only [unpark, endScout_of_none hh, hw]
  rfl

theorem modLane_id (w : Wave) (l : Lane) (f : LaneCtx → LaneCtx) : (modLane w l f).id = w.id := by simp only [modLane]

theorem wakeUp_held (l : Lane) (sat : Bool) (w : Wave) : (laneOf (wakeUp l sat w) l).held = (laneOf w l).held := by
  rw [wakeUp, laneOf_modLane, if_pos rfl]

theorem madeLive_id (l : Lane) (sat : Bool) (w : Wave) : (madeLive l sat w).id = w.id := by
  unfold madeLive
  split
  · split
    · exact modLane_id ..
    · split
      · exact modLane_id ..
      · rfl
  · split
    · exact modLane_id ..
    · rfl

theorem madeLive_held (l : Lane) (sat : Bool) (w : Wave) : (laneOf (madeLive l sat w) l).held = (laneOf w l).held := by
  unfold madeLive
  split
  · split
    · rw [laneOf_modLane, if_pos rfl]
      rfl
    · split
      · exact wakeUp_held l sat w
      · rfl
  · split
    · exact wakeUp_held l sat w
    · rfl

/-- Out of a handler no lane that is unparked stays parked. -/
theorem madeLive_not_parked {w : Wave} (h : w.aside = none) (l : Lane) (sat : Bool) : isParked (laneOf (madeLive l sat w) l).state = false := by
  simp only [madeLive, h]
  split
  · rw [wakeUp, laneOf_modLane, if_pos rfl]
    rfl
  next hlive => exact Bool.eq_false_of_not_eq_true hlive

/-- Beside the group, which hears of it, only the wave changes when a lane is unparked. -/
theorem unpark_spec {s : State} {w : Wave} (hw : findWave s w.id = some w) (hh : shadowOf s w.id = none) (l : Lane) (sat : Bool) (k : Clock) :
    findWave (unpark s w.id l sat k) w.id = some (madeLive l sat w) ∧ (unpark s w.id l sat k).grants = s.grants
      ∧ (unpark s w.id l sat k).mem = s.mem := by
  rw [unpark_of_no_shadow hw hh]
  have hsignal := signalGroup_signalsOnly (noteClock (modWave s w.id (madeLive l sat)) w.group k) w.group
  exact ⟨(findWave_congr hsignal.waves _).trans (findWave_modWave_of_found (s := s) (madeLive l sat) hw (madeLive_id l sat w)),
    signalGroup_grants .., hsignal.mem⟩

/-! ### Entries of the table (R274, R275) -/

/-- The entry of a colour changed is found as it was changed, when it stays the entry of that colour. -/
theorem findCampion_map_of_found {s t : State} {tenant : Nat} {c : BitVec 6} {e : Campion} (f : Campion → Campion)
    (ht : t.campion = s.campion.map fun y => if y.tenant = tenant && y.colour = c then f y else y)
    (hf : ∀ y, (f y).tenant = y.tenant ∧ (f y).colour = y.colour) (he : findCampion s tenant c = some e) :
    findCampion t tenant c = some (f e) := by
  have hsame : ∀ y : Campion, (decide ((if y.tenant = tenant && y.colour = c then f y else y).tenant = tenant)
      && decide ((if y.tenant = tenant && y.colour = c then f y else y).colour = c)) = (decide (y.tenant = tenant) && decide (y.colour = c)) :=
    fun y => by split <;> simp only [(hf y).1, (hf y).2]
  unfold findCampion at he ⊢
  have hmine := List.find?_some he
  simp only [ht, List.find?_map, Function.comp_def, hsame, he, Option.map_some, hmine, if_true]

/-- No entry of a colour is found in a table from which its entries are taken. -/
theorem findCampion_filter (s : State) (tenant : Nat) (c : BitVec 6) :
    findCampion { s with campion := s.campion.filter fun y => !(y.tenant = tenant && y.colour = c) } tenant c = none := by
  simp only [findCampion, List.find?_eq_none, List.mem_filter, Bool.not_eq_true', and_imp, Bool.not_eq_true]
  exact fun _ _ h => h

/-! ### MONITOR_REQUEST (R277, R278) -/

/-- A request for a free colour makes its lane the owner, and the grant is on its way with the home's clock. -/
theorem campionRequest_of_free {s : State} {tenant : Nat} {c : BitVec 6} (h : findCampion s tenant c = none) (n : Nat) (l : Lane) (d : BitVec 12) :
    campionRequest s tenant n (l, c, d) =
      pinLines { s with campion := s.campion ++ [⟨tenant, c, ⟨n, l, d⟩, Clock.zero, []⟩]
                        grants := s.grants ++ [⟨n, l, c, d, clockOf s (colourHome c)⟩] } := by
  simp only [campionRequest, h]

/-- The wave with a lane parked for a colour. -/
def parkedFor (l : Lane) (c : BitVec 6) (w : Wave) : Wave :=
  { modLane w l (fun y => { y with state := .parked (.monitor c.toNat) }) with
    counters := { w.counters with parks := w.counters.parks + 1 }
    run := w.run.map fun r => { r with gone := r.gone ||| Mask.of (· = l) } }

theorem laneOf_parkedFor (l k : Lane) (c : BitVec 6) (w : Wave) :
    laneOf (parkedFor l c w) k = if k = l then { laneOf w k with state := .parked (.monitor c.toNat) } else laneOf w k := by
  simp only [laneOf, parkedFor, modLane, Lanes.get_of]

theorem parkedFor_id (l : Lane) (c : BitVec 6) (w : Wave) : (parkedFor l c w).id = w.id := by simp only [parkedFor, modLane]

/-- A request for an owned colour is queued behind the entry's waiters and parks its lane. -/
theorem campionRequest_of_owned {s : State} {tenant : Nat} {c : BitVec 6} {e : Campion} (h : findCampion s tenant c = some e) (n : Nat) (l : Lane)
    (d : BitVec 12) :
    campionRequest s tenant n (l, c, d) =
      modWave { signalOwner s { e with queue := e.queue ++ [⟨n, l, d⟩] } with
        campion := s.campion.map fun y => if y.tenant = tenant && y.colour = c then { y with queue := y.queue ++ [⟨n, l, d⟩] } else y }
        n (parkedFor l c) := by
  simp only [campionRequest, h]
  rfl

/-- The waiter is last in its queue, no grant is sent, and of the waves only the lane's own changes, in that lane alone. -/
theorem campionRequest_queues {s : State} {tenant : Nat} {c : BitVec 6} {e : Campion} (he : findCampion s tenant c = some e) (n : Nat) (l : Lane)
    (d : BitVec 12) :
    findCampion (campionRequest s tenant n (l, c, d)) tenant c = some { e with queue := e.queue ++ [⟨n, l, d⟩] }
      ∧ (campionRequest s tenant n (l, c, d)).grants = s.grants
      ∧ ∀ v, findWave s n = some v → findWave (campionRequest s tenant n (l, c, d)) n = some (parkedFor l c v) := by
  rw [campionRequest_of_owned he]
  refine ⟨?_, signalOwner_grants .., fun v hv => findWave_modWave_of_found (parkedFor l c) ((findWave_congr ?_ n).trans hv) ?_⟩
  · exact findCampion_map_of_found (fun y => { y with queue := y.queue ++ [⟨n, l, d⟩] }) rfl (fun _ => ⟨rfl, rfl⟩) he
  · exact (signalOwner_signalsOnly ..).waves
  · exact parkedFor_id ..

/-! ### MONITOR_GRANT (R279) -/

theorem mem_heldInsert (h : Held) (l : List Held) : h ∈ heldInsert h l := by
  induction l with
  | nil => exact List.mem_singleton_self h
  | cons x l ih =>
    unfold heldInsert
    split
    · exact List.mem_cons_self
    · exact List.mem_cons_of_mem x ih

/-- The grant that is found for a lane names that lane. -/
theorem grantFor_names {s : State} {n : Nat} {l : Lane} {g : Grant} (h : grantFor s n l = some g) : g.wave = n ∧ g.lane = l := by
  have hnames := List.find?_some h
  simp only [Bool.and_eq_true, decide_eq_true_eq] at hnames
  exact hnames.1

/-- What is done to a lane depends on what it does to that lane's context. -/
theorem modLane_congr {w : Wave} {l : Lane} {f h : LaneCtx → LaneCtx} (hf : f (laneOf w l) = h (laneOf w l)) : modLane w l f = modLane w l h := by
  have hlanes : (fun k => if k = l then f (w.lanes.get k) else w.lanes.get k) = fun k => if k = l then h (w.lanes.get k) else w.lanes.get k := by
    funext k
    split
    · next hk => exact hk ▸ hf
    · rfl
  simp only [modLane, hlanes]

/-- The wave with a grant recorded for a lane that has no entry of its colour; b says whether the instruction could give it back. -/
def withGrant (g : Grant) (b : Bool) (w : Wave) : Wave :=
  modLane w g.lane fun x => { x with held := heldInsert ⟨g.colour, g.depth, false, b⟩ x.held }

theorem withGrant_lane (g : Grant) (b : Bool) (w : Wave) :
    laneOf (withGrant g b w) g.lane
      = { laneOf w g.lane with held := heldInsert ⟨g.colour, g.depth, false, b⟩ (laneOf w g.lane).held } := by
  rw [withGrant, laneOf_modLane, if_pos rfl]

/-- In state t the grant g is in the held set of its lane of wave w of state s; the lane is not unparked yet. -/
structure Recorded (s : State) (w : Wave) (g : Grant) (t : State) : Prop where
  grants : t.grants = s.grants
  mem : t.mem = s.mem
  shadow : shadowOf t w.id = none
  wave : ∃ b, findWave t w.id = some (withGrant g b w)

theorem Recorded.of_modWave {s t : State} {w : Wave} {g : Grant} {f : Wave → Wave} {b : Bool} (hw : findWave s w.id = some w)
    (hh : shadowOf s w.id = none) (ht : t = { s with l1 := t.l1 }) (hf : f w = withGrant g b w) : Recorded s w g (modWave t w.id f) := by
  rw [ht]
  refine ⟨rfl, rfl, hh, b, ?_⟩
  rw [findWave_modWave_of_found f (s := { s with l1 := t.l1 }) hw (by rw [hf]; exact modLane_id ..), hf]

/-- A delivered grant is recorded first; then its lane is unparked if it is parked, in a handler also where it is parked aside (R224, R279). -/
theorem deliverGrant_records_first {s : State} {w : Wave} {g : Grant} (hg : g.wave = w.id) (hw : findWave s w.id = some w)
    (hh : shadowOf s w.id = none) (hnew : (laneOf w g.lane).held.any (fun h => h.colour = g.colour) = false) :
    ∃ t parked, Recorded s w g t ∧ (w.aside = none → parked = isParked (laneOf w g.lane).state)
      ∧ deliverGrant s g = if parked then unpark t w.id g.lane false g.clock else t := by
  simp only [deliverGrant, hg, endScout_of_none hh, hw]
  refine ⟨_, _, ?_, ?_, rfl⟩
  · exact Recorded.of_modWave hw hh (by cases w.place <;> rfl) (modLane_congr (if_neg (Bool.eq_false_iff.1 hnew)))
  · intro ha
    simp only [ha]

/-- A grant delivered out of scout, for a colour that its lane has no entry of: the entry is in the held set with its depth, not
suspended, and out of a handler the lane is parked no more. -/
theorem deliverGrant_records {s : State} {w : Wave} {g : Grant} (hg : g.wave = w.id) (hw : findWave s w.id = some w) (hh : shadowOf s w.id = none)
    (hnew : (laneOf w g.lane).held.any (fun h => h.colour = g.colour) = false) :
    (deliverGrant s g).grants = s.grants ∧ (deliverGrant s g).mem = s.mem
      ∧ ∃ v, findWave (deliverGrant s g) w.id = some v
        ∧ (∃ h, h ∈ (laneOf v g.lane).held ∧ h.colour = g.colour ∧ h.depth = g.depth ∧ h.suspended = false)
        ∧ (w.aside = none → isParked (laneOf v g.lane).state = false) := by
  obtain ⟨t, parked, ⟨hgrants, hmem, hshadow, b, hwave⟩, hparked, heq⟩ := deliverGrant_records_first hg hw hh hnew
  have hid : (withGrant g b w).id = w.id := modLane_id ..
  have haside : (withGrant g b w).aside = w.aside := by simp only [withGrant, modLane]
  have hheld : ∃ h, h ∈ (laneOf (withGrant g b w) g.lane).held ∧ h.colour = g.colour ∧ h.depth = g.depth ∧ h.suspended = false := by
    rw [withGrant_lane]
    exact ⟨_, mem_heldInsert _ _, rfl, rfl, rfl⟩
  rw [heq]
  cases parked with
  | false =>
    refine ⟨hgrants, hmem, _, hwave, hheld, fun ha => ?_⟩
    rw [withGrant_lane]
    exact (hparked ha).symm
  | true =>
    obtain ⟨hwave', hgrants', hmem'⟩ := unpark_spec (hid.symm ▸ hwave) (hid.symm ▸ hshadow) g.lane false g.clock
    rw [hid] at hwave' hgrants' hmem'
    refine ⟨hgrants'.trans hgrants, hmem'.trans hmem, _, hwave', ?_, fun ha => madeLive_not_parked (haside.trans ha) ..⟩
    rwa [madeLive_held]

/-! ### MONITOR_RELEASE (R282) -/

theorem campionNext_frame (s : State) (tenant : Nat) (c : BitVec 6) (k : Clock) :
    campionNext s tenant c k = { s with campion := (campionNext s tenant c k).campion, grants := (campionNext s tenant c k).grants } := by
  unfold campionNext
  split
  · rfl
  · split <;> rfl

theorem campionRelease_frame (s : State) (tenant n : Nat) (l : Lane) (c : BitVec 6) (k : Clock) :
    campionRelease s tenant n l c k =
      { s with campion := (campionRelease s tenant n l c k).campion, grants := (campionRelease s tenant n l c k).grants } := by
  unfold campionRelease
  split
  · split
    · exact campionNext_frame ..
    · rfl
  · rfl

/-- A release by the owner hands the entry on. -/
theorem campionRelease_of_owner {s : State} {tenant : Nat} {c : BitVec 6} {e : Campion} (he : findCampion s tenant c = some e) (k : Clock) :
    campionRelease s tenant e.owner.wave e.owner.lane c k = campionNext s tenant c k := by
  simp only [campionRelease, he, decide_true, Bool.and_self, if_true]

/-- What a release leaves of the entry: freed where nobody waits, else the head of the queue is its owner and is granted with the depth of
its request. -/
theorem campionNext_handsOn {s : State} {tenant : Nat} {c : BitVec 6} {e : Campion} (he : findCampion s tenant c = some e) (k : Clock) :
    match e.queue with
    | [] => findCampion (campionNext s tenant c k) tenant c = none
    | h :: q => (∃ e', findCampion (campionNext s tenant c k) tenant c = some e' ∧ e'.owner = h ∧ e'.queue = q)
        ∧ ∃ g ∈ (campionNext s tenant c k).grants, g.wave = h.wave ∧ g.lane = h.lane ∧ g.colour = c ∧ g.depth = h.depth := by
  cases hq : e.queue with
  | nil =>
    simp only [campionNext, he, hq]
    exact findCampion_filter ..
  | cons h q =>
    simp only [campionNext, he, hq]
    refine ⟨⟨_, findCampion_map_of_found (fun y => { y with owner := h, clock := k, queue := q }) rfl (fun _ => ⟨rfl, rfl⟩) he, rfl, rfl⟩,
      _, List.mem_append_right _ (List.mem_singleton_self _), rfl, rfl, rfl, rfl⟩

/-- The wave after its release of one colour of a lane has been sent. -/
def afterRelease (l : Lane) (c : BitVec 6) (w : Wave) : Wave := dropHeld { w with release := [] } l c

theorem laneOf_afterRelease (l k : Lane) (c : BitVec 6) (w : Wave) :
    laneOf (afterRelease l c w) k = if k = l then { laneOf w k with held := (laneOf w k).held.filter fun h => h.colour ≠ c || h.suspended }
      else laneOf w k := by
  simp only [laneOf, afterRelease, dropHeld, modLane, Lanes.get_of]

theorem afterRelease_id (l : Lane) (c : BitVec 6) (w : Wave) : (afterRelease l c w).id = w.id := by simp only [afterRelease, dropHeld, modLane]
theorem afterRelease_release (l : Lane) (c : BitVec 6) (w : Wave) : (afterRelease l c w).release = [] := by
  simp only [afterRelease, dropHeld, modLane]
theorem afterRelease_aside (l : Lane) (c : BitVec 6) (w : Wave) : (afterRelease l c w).aside = w.aside := by
  simp only [afterRelease, dropHeld, modLane]

/-- Only an entry that CWAIT has suspended is left of the released colour. -/
theorem afterRelease_held {l : Lane} {c : BitVec 6} {w : Wave} {h : Held} (hm : h ∈ (laneOf (afterRelease l c w) l).held) (hc : h.colour = c) :
    h.suspended = true := by
  rw [laneOf_afterRelease, if_pos rfl] at hm
  simpa [hc] using (List.mem_filter.1 hm).2

theorem campionRelease_waves (s : State) (tenant n : Nat) (l : Lane) (c : BitVec 6) (k : Clock) :
    (campionRelease s tenant n l c k).waves = s.waves := by
  rw [campionRelease_frame]

theorem campionRelease_mem (s : State) (tenant n : Nat) (l : Lane) (c : BitVec 6) (k : Clock) :
    (campionRelease s tenant n l c k).mem = s.mem := by
  rw [campionRelease_frame]

theorem allExited_afterRelease (l : Lane) (c : BitVec 6) (w : Wave) : allExited (afterRelease l c w) = allExited w := by
  refine allExited_congr (afterRelease_aside l c w) fun k => ?_
  rw [laneOf_afterRelease]
  split <;> rfl

/-- The one release of a wave that goes on: the lane's entry is gone, and the home has served it. -/
theorem sendReleases_of_one {s : State} {w : Wave} {l : Lane} {c : BitVec 6} (hw : findWave s w.id = some w) (hm : releaseMay s w = true)
    (hr : w.release = [(l, c)]) (hx : allExited w = false) :
    sendReleases s w.id = campionRelease (modWave s w.id (afterRelease l c)) (tenantOf s w.part) w.id l c (waveClock s w)
      ∧ findWave (sendReleases s w.id) w.id = some (afterRelease l c w) := by
  have hfound : findWave (campionRelease (modWave s w.id (afterRelease l c)) (tenantOf s w.part) w.id l c (waveClock s w)) w.id
      = some (afterRelease l c w) :=
    (findWave_congr (campionRelease_waves ..) _).trans (findWave_modWave_of_found (afterRelease l c) hw (afterRelease_id l c w))
  have hsend : sendReleases s w.id = campionRelease (modWave s w.id (afterRelease l c)) (tenantOf s w.part) w.id l c (waveClock s w) := by
    simp only [sendReleases, hw, hm, hr, Bool.not_true, Bool.false_eq_true, if_false, List.foldl_cons, List.foldl_nil]
    exact tryFinish_of_not_exited hfound ((allExited_afterRelease l c w).trans hx)
  exact ⟨hsend, hsend ▸ hfound⟩

/-! ### The statement -/

/-- Settles O37, message by message. -/
theorem monitorMessages : Obligations.MonitorMessages := by
  intro s
  refine ⟨fun n r hr => ?_, fun t n l c d => ⟨fun hfree => ?_, fun e he => ?_⟩, fun w l g hw hh hg hnew => ?_, fun w l c hw hm hr hx => ?_⟩
  · show Host.Outcome.next (serveRequest s n) = _
    simp only [serveRequest, hr]
  · rw [campionRequest_of_free hfree]
    rfl
  · obtain ⟨hentry, hgrants, hwave⟩ := campionRequest_queues he n l d
    refine ⟨hentry, hgrants, fun v hv => ⟨_, hwave v hv, ?_, fun k hk => ?_⟩⟩
    · rw [laneOf_parkedFor, if_pos rfl]
    · rw [laneOf_parkedFor, if_neg hk]
  · obtain ⟨hwave, rfl⟩ := grantFor_names hg
    obtain ⟨hgrants, hmem, v, hfound, hheld, hlive⟩ := deliverGrant_records (s := { s with grants := s.grants.erase g }) hwave hw hh hnew
    refine ⟨_, v, ?_, hfound, hgrants, hheld, hlive, hmem⟩
    show Host.Outcome.next (grantLane s w.id g.lane) = _
    simp only [grantLane, hg]
  · obtain ⟨hsend, hfound⟩ := sendReleases_of_one hw hm hr hx
    refine ⟨_, _, rfl, hfound, afterRelease_release .., ?_, fun _ => afterRelease_held, fun e he hwave hlane => ?_⟩
    · exact (congrArg State.mem hsend).trans (campionRelease_mem ..)
    · subst hlane
      have hhome : findCampion (modWave s w.id (afterRelease e.owner.lane c)) (tenantOf s w.part) c = some e := he
      rw [hsend, ← hwave, campionRelease_of_owner (hwave ▸ hhome)]
      exact campionNext_handsOn (hwave ▸ hhome) _

end Sys2Proof.Machine
end

section
/-! SUPPORT. The module after a reset (R402, R403, R405): what a boot brings up and what a failing step leaves; and a state in which a
step has no answer. -/
namespace Sys2Proof.Machine

/-! ### The state after reset (R405) -/

theorem reset_dies_get (k : Fin 4) : State.reset.dies.get k = Die.reset := by
  fin_cases k <;> rfl

theorem reset_tenants_get (k : Fin 64) : State.reset.tenants.get k = TenantEntry.unused := Vector.getElem_replicate k.isLt

theorem descOf_reset (n : Nat) : descOf State.reset n = PartDesc.unused := Vector.getElem_replicate (Fin.ofNat 64 n).isLt

theorem clockOf_reset (d : Nat) : clockOf State.reset d = Clock.zero := by
  rw [clockOf, dieAt, reset_dies_get]
  rfl

/-- Settles O56, by the law of the canonical form of the state after reset. -/
theorem resetIsCanonical : Obligations.ResetIsCanonical := reset_canon

/-! ### A module that is reset -/

/-- The state after reset, in which what the model plans and counts goes on (log 6). -/
def resetBase (s : State) : State := { State.reset with agenda := s.agenda, free := s.free, fresh := s.fresh }

/-- The module when every step of the boot has gone well (R402). -/
def bootedModule (s : State) (x : BootFailures) : State :=
  { resetBase s with
    fences := x.parts.filter partExists
    sweolo := { State.reset.sweolo with
      firmware := advanceCounters s.sweolo.firmware, loaded := loadedImages s.sweolo.firmware none
      out := s.sweolo.out ++ (x.parts.filter partExists).map Output.event ++ s.sweolo.report.toList.map Output.shutdown ++ [.ready] } }

theorem resetModule_of_boot {s : State} {x : BootFailures} (h : failingStep s.sweolo.firmware x = none) :
    resetModule s x = bootedModule s x := by
  simp only [resetModule, h]
  rfl

theorem resetModule_of_failure {s : State} {x : BootFailures} {n : Nat} (h : failingStep s.sweolo.firmware x = some n) :
    resetModule s x = recover s (resetBase s) n := by
  simp only [resetModule, h]
  rfl

/-- Settles O57: the fields of the state after reset, and a reset by whether a step of the boot fails. -/
theorem resetState : Obligations.ResetState := by
  refine ⟨⟨rfl, fun k => congrArg TenantEntry.v (reset_tenants_get k), rfl, rfl, fun _ _ => rfl,
    fun _ _ => ⟨rfl, rfl, fun _ => List.eq_of_mem_replicate⟩, rfl, rfl, rfl, clockOf_reset, rfl,
    fun d => congrArg Die.point (reset_dies_get d), fun _ => rfl⟩, fun n => ?_, fun s c x => ⟨_, rfl, ?_, fun h => ?_⟩⟩
  · rw [descOf_reset]
    exact ⟨rfl, rfl, rfl⟩
  · cases h : failingStep s.sweolo.firmware x with
    | none => rw [resetModule_of_boot h]; rfl
    | some n => rw [resetModule_of_failure h]; rfl
  · rw [resetModule_of_boot h]
    exact ⟨rfl, rfl, rfl⟩

/-! ### A step without an answer -/

/-- The module after reset, with an instruction word among the requests that wait: no row brings one there. -/
def wordPending : State := { State.reset with sweolo := { State.reset.sweolo with pending := [.nop false] } }

theorem halted_wordPending : halted wordPending = false := by decide

/-- The word is served as a request that need not wait, and as a word it has no wave that issues it (R15). -/
theorem step_wordPending : step wordPending = .refused .noIssuingWave :=
  step_of_event (i := .nop false) rfl halted_wordPending rfl rfl

/-- Refutes O54: it speaks of every state, also of one that no run reaches, in which an instruction word stands among the requests that
wait for Sweolo. The step takes it as the oldest request, and a word outside a run is refused. -/
theorem not_stepAnswers : ¬ Obligations.StepAnswers := by
  intro h
  rcases h wordPending with ⟨t, ht⟩ | ⟨-, hhalted, -⟩
  · cases step_wordPending.symm.trans ht
  · exact absurd (halted_wordPending.symm.trans hhalted) Bool.false_ne_true

end Sys2Proof.Machine
end

section
/-! SUPPORT. The module's own events (R382 to R384, R402 to R404, R408, R409): limits and shutdown, the boot of the images, image updates and
attestation. -/
namespace Sys2Proof.Machine

/-! ### Power and temperature (R408, R409) -/

theorem powerLimitSet_of_legal {s : State} {n : Nat} (hlo : 1200 ≤ n) (hhi : n ≤ Config.powerLimit) :
    exec (.powerLimitSet n) s = .next { s with sweolo := { s.sweolo with powerLimit := n } } :=
  congrArg Host.Outcome.next (if_pos (by simp only [hlo, hhi, decide_true, Bool.and_self]))

theorem powerLimitSet_of_illegal {s : State} {n : Nat} (h : n < 1200 ∨ Config.powerLimit < n) :
    exec (.powerLimitSet n) s = .next (refuse s 408) :=
  congrArg Host.Outcome.next (if_neg (by simp only [Bool.and_eq_true, decide_eq_true_eq]; omega))

theorem halted_of_shutdown {s : State} (h : s.sweolo.shutdown.isSome = true) : halted s = true := by
  simp only [halted, h, Bool.true_or]

theorem halted_of_recovery {s : State} (h : s.sweolo.recovery = true) : halted s = true := by
  simp only [halted, h, Bool.or_true, Bool.true_or]

/-! ### The boot (R382, R402, R403) -/

/-- A boot goes well where every image verifies in one of its copies and step 2 does not fail. -/
theorem failingStep_eq_none (f : Firmware) (x : BootFailures) :
    failingStep f x = none ↔ (∀ k : Fin 3, (bootImage f k).isSome) ∧ x.step2 = false := by
  simp only [failingStep, Fin.forall_fin_succ, Fin.succ_zero_eq_one, Fin.succ_one_eq_two, IsEmpty.forall_iff, and_true]
  split_ifs <;> simp_all [Option.isSome_iff_ne_none]

theorem counterTo_val (c : Fin 65) (version : Nat) : (counterTo c version).val = max c.val (min version 64) :=
  Nat.mod_eq_of_lt (by omega)

theorem loadedImages_of_boot (f : Firmware) (k : Fin 3) : (loadedImages f none).get k = bootImage f k := vector_get_ofFn _ k

theorem advanceCounters_of_booted {f : Firmware} {k : Fin 3} (h : f.fresh.get k = false) :
    (advanceCounters f).counters.get k = f.counters.get k := by
  simp only [advanceCounters, vector_get_ofFn, h, Bool.false_eq_true, if_false]

theorem advanceCounters_of_fresh {f : Firmware} {k : Fin 3} {i : Image} (h : f.fresh.get k = true) (hi : bootImage f k = some i) :
    (advanceCounters f).counters.get k = counterTo (f.counters.get k) i.version := by
  simp only [advanceCounters, vector_get_ofFn, h, hi, if_true]

/-! ### Image updates (R404) -/

theorem imageOk_iff (f : Firmware) (i : Image) :
    imageOk f i = true ↔ i.sigOk = true ∧ f.revoked.get i.root = false ∧ (f.counters.get i.which).val ≤ i.version := by
  simp only [imageOk, Bool.and_eq_true, Bool.not_eq_true', decide_eq_true_eq, and_assoc]

theorem imageOk_writeImage (f : Firmware) (x : Image) : imageOk (writeImage f x) = imageOk f := by
  funext i
  simp only [imageOk, writeImage, apply_ite Firmware.revoked, apply_ite Firmware.counters, ite_self]

theorem vector_get_set_self {α : Type} {n : Nat} (v : Vector α n) (k : Fin n) (x : α) : (v.set k.val x k.isLt).get k = x :=
  Vector.getElem_set_self k.isLt

theorem vector_get_set_ne {α : Type} {n : Nat} (v : Vector α n) {k j : Fin n} (x : α) (h : j ≠ k) :
    (v.set k.val x k.isLt).get j = v.get j := Vector.getElem_set_ne k.isLt j.isLt fun e => h (Fin.ext e.symm)

/-- The copy of an image that boots first, and the one behind it (R403). -/
def activeCopy (f : Firmware) (k : Fin 3) : Option Image := if f.activeA.get k then f.a.get k else f.b.get k
def otherCopy (f : Firmware) (k : Fin 3) : Option Image := if f.activeA.get k then f.b.get k else f.a.get k

theorem bootImage_eq (f : Firmware) (k : Fin 3) :
    bootImage f k = ((activeCopy f k).filter (imageOk f)).or ((otherCopy f k).filter (imageOk f)) := by
  simp only [bootImage, activeCopy, otherCopy]
  cases f.activeA.get k
  · simp only [Bool.false_eq_true, if_false]
    cases (f.b.get k).filter (imageOk f) <;> rfl
  · simp only [if_true]
    cases (f.a.get k).filter (imageOk f) <;> rfl

theorem bootImage_of_active {f : Firmware} {k : Fin 3} {i : Image} (h : activeCopy f k = some i) (hok : imageOk f i = true) :
    bootImage f k = some i := by
  rw [bootImage_eq, h, Option.filter_some_pos hok]
  rfl

section
variable (f : Firmware) (x : Image)

theorem writeImage_a : (writeImage f x).a = if f.activeA.get x.which then f.a else f.a.set x.which.val (some x) x.which.isLt := by
  unfold writeImage
  dsimp only
  split <;> rfl

theorem writeImage_b : (writeImage f x).b = if f.activeA.get x.which then f.b.set x.which.val (some x) x.which.isLt else f.b := by
  unfold writeImage
  dsimp only
  split <;> rfl

theorem writeImage_active : (writeImage f x).activeA.get x.which = !f.activeA.get x.which := by
  unfold writeImage
  dsimp only
  rw [vector_get_set_self]

theorem writeImage_active_other {k : Fin 3} (h : k ≠ x.which) : (writeImage f x).activeA.get k = f.activeA.get k := by
  unfold writeImage
  dsimp only
  rw [vector_get_set_ne _ _ h]
  split <;> rfl

theorem activeCopy_writeImage : activeCopy (writeImage f x) x.which = some x := by
  rw [activeCopy, writeImage_active, writeImage_a, writeImage_b]
  cases f.activeA.get x.which
  · exact vector_get_set_self ..
  · exact vector_get_set_self ..

theorem copies_writeImage_other {k : Fin 3} (h : k ≠ x.which) :
    activeCopy (writeImage f x) k = activeCopy f k ∧ otherCopy (writeImage f x) k = otherCopy f k := by
  rw [activeCopy, otherCopy, writeImage_active_other f x h, writeImage_a, writeImage_b, activeCopy, otherCopy]
  cases f.activeA.get x.which
  · simp only [Bool.false_eq_true, if_false, vector_get_set_ne _ _ h, and_self]
  · simp only [if_true, vector_get_set_ne _ _ h, and_self]

theorem bootImage_writeImage_other {k : Fin 3} (h : k ≠ x.which) : bootImage (writeImage f x) k = bootImage f k := by
  obtain ⟨hactive, hother⟩ := copies_writeImage_other f x h
  rw [bootImage_eq, bootImage_eq, imageOk_writeImage, hactive, hother]

theorem writeImage_counters : (writeImage f x).counters = f.counters := by
  unfold writeImage
  dsimp only
  split <;> rfl
end

theorem imageUpdate_of_verified {s : State} {i : Image} (h : imageOk s.sweolo.firmware i = true) :
    exec (.imageUpdate i) s = .next { s with sweolo := { s.sweolo with firmware := writeImage s.sweolo.firmware i } } :=
  congrArg Host.Outcome.next (if_pos h)

theorem imageUpdate_of_unverified {s : State} {i : Image} (h : imageOk s.sweolo.firmware i = false) :
    exec (.imageUpdate i) s = .next (refuse s 404) :=
  congrArg Host.Outcome.next (if_neg (Bool.eq_false_iff.1 h))

/-! ### Attestation (R383, R384) -/

/-- The answer that an SPDM message has from an I/O die: none where the die has failed (R365, R383). -/
def byDie (s : State) (io : Fin 2) (x : Output) : State := if s.ioDead.contains io.val then s else answer s x

theorem byDie_of_up {s : State} {io : Fin 2} (h : io.val ∉ s.ioDead) (x : Output) : byDie s io x = answer s x :=
  if_neg fun hc => h (List.contains_iff_mem.1 hc)

theorem byDie_of_failed {s : State} {io : Fin 2} (h : io.val ∈ s.ioDead) (x : Output) : byDie s io x = s :=
  if_pos (List.contains_iff_mem.2 h)

theorem signature_length (nonce : Nat) : (signature nonce).length = 4627 := by
  rw [signature, List.length_map, List.length_range]

theorem spdm_of_up {s : State} {io : Fin 2} (h : io.val ∉ s.ioDead) {i : Instr} {x : Output} (hi : exec i s = .next (byDie s io x)) :
    exec i s = .next (answer s x) := by
  rw [hi, byDie_of_up h]

/-! ### The statement -/

/-- Settles O49, event by event: the boot by its failing step, an update by whether its image verifies. -/
theorem moduleEvents : Obligations.ModuleEvents := by
  intro s
  refine ⟨fun n hlo hhi => powerLimitSet_of_legal hlo hhi, fun n h => powerLimitSet_of_illegal h, fun r => rfl, fun x h => ?_, fun x h => ?_,
    fun d t => ⟨rfl, rfl⟩, fun q ms => ?_, failingStep_eq_none _, fun c x h => ?_, fun c x n h => ?_, fun i hsig hroot hver => ?_,
    fun i h => ?_, fun io h => ?_, fun io h => ?_⟩
  · exact ⟨_, congrArg Host.Outcome.next (if_pos h), rfl, halted_of_shutdown rfl, rfl, rfl⟩
  · exact congrArg Host.Outcome.next (if_neg (Bool.eq_false_iff.1 h))
  · exact (Bool.decide_and ..).symm
  · refine ⟨_, congrArg Host.Outcome.next (resetModule_of_boot h), rfl, rfl, rfl, rfl, rfl, ?_, fun y hy => ?_, fun k =>
      ⟨loadedImages_of_boot _ k, advanceCounters_of_booted, fun i hf hi => ?_⟩⟩
    · exact List.mem_append_right _ (List.mem_singleton_self _)
    · refine List.mem_append_left _ (List.mem_append_right _ ?_)
      rw [hy]
      exact List.mem_singleton_self _
    · exact (congrArg Fin.val (advanceCounters_of_fresh hf hi)).trans (counterTo_val ..)
  · exact ⟨_, congrArg Host.Outcome.next (resetModule_of_failure h), rfl, rfl, halted_of_recovery rfl, rfl, rfl, rfl⟩
  · have hok : imageOk s.sweolo.firmware i = true := (imageOk_iff _ i).2 ⟨hsig, hroot, hver⟩
    exact ⟨_, imageUpdate_of_verified hok, writeImage_active _ i,
      bootImage_of_active (activeCopy_writeImage _ i) (by rw [imageOk_writeImage]; exact hok),
      fun k hk => bootImage_writeImage_other _ i hk, rfl, writeImage_counters _ i⟩
  · refine imageUpdate_of_unverified (Bool.eq_false_iff.2 fun hok => ?_)
    obtain ⟨hsig, hroot, hver⟩ := (imageOk_iff _ i).1 hok
    rcases h with h | h | h
    · exact Bool.false_ne_true (h.symm.trans hsig)
    · exact Bool.false_ne_true (hroot.symm.trans h)
    · omega
  · exact ⟨⟨_, spdm_of_up h rfl⟩, ⟨_, spdm_of_up h rfl⟩, ⟨_, spdm_of_up h rfl⟩, ⟨_, spdm_of_up h rfl⟩, ⟨_, spdm_of_up h rfl⟩,
      fun n => ⟨_, _, signature_length n, spdm_of_up h rfl⟩, fun r => ⟨_, spdm_of_up h rfl⟩, fun who n => spdm_of_up h rfl⟩
  · intro i hi
    fin_cases hi <;> exact congrArg Host.Outcome.next (byDie_of_failed h _)

end Sys2Proof.Machine
end

section
/-! SUPPORT. The debugger's stops (R390, R393 to R397): what a stop leaves, the start of a single step, and what a dump shows. -/
namespace Sys2Proof.Machine

/-! ### Trace records -/

/-- Only sessions and what leaves the module differ. -/
structure RecordsOnly (s t : State) : Prop where
  rest : t = { s with sessions := t.sessions, sweolo := t.sweolo }

theorem RecordsOnly.refl (s : State) : RecordsOnly s s := ⟨rfl⟩

section
variable {s t : State} (h : RecordsOnly s t)
include h

theorem RecordsOnly.trans {u : State} (k : RecordsOnly t u) : RecordsOnly s u := ⟨by rw [k.rest, h.rest]⟩

theorem RecordsOnly.waves : t.waves = s.waves := by rw [h.rest]
theorem RecordsOnly.mem : t.mem = s.mem := by rw [h.rest]
theorem RecordsOnly.stops : t.stops = s.stops := by rw [h.rest]
theorem RecordsOnly.stopped : t.stopped = s.stopped := by rw [h.rest]
end

theorem emit_recordsOnly (s : State) (part : Nat) (r : TraceRec) : RecordsOnly s (emit s part r) := ⟨rfl⟩

theorem foldl_recordsOnly {α : Type} {f : State → α → State} (hf : ∀ t x, RecordsOnly t (f t x)) (l : List α) (s : State) :
    RecordsOnly s (l.foldl f s) := by
  induction l generalizing s with
  | nil => exact .refl s
  | cons x l ih => exact (hf s x).trans (ih _)

/-! ### Stops (R394 to R396) -/

theorem skidRecord_recordsOnly (s : State) (part : Nat) (k : Skid) : RecordsOnly s (skidRecord s part k) := by
  unfold skidRecord
  split
  · exact .refl s
  · exact emit_recordsOnly ..

/-- The trees that are held take free values, and stand in the cores. -/
theorem freezeTree_frame (s : State) (die cluster : Nat) :
    freezeTree s die cluster = { s with free := (freezeTree s die cluster).free, cores := (freezeTree s die cluster).cores } := by
  unfold freezeTree
  generalize List.range 4 = l
  induction l generalizing s with
  | nil => rfl
  | cons j l ih => exact ih _

/-- The state of a stop before its records of the waves that ran. -/
def stopTaken (s : State) (q : StopReq) : State :=
  let s1 := emit s ((clusterPart s q.die q.cluster).getD 64) (stopRecord q (dieAt s q.die).broken)
  { s1 with
    stopped := s1.stopped ++ [(q.die, q.cluster)], stops := s1.stops.erase q
    waves := s1.waves.map fun w => if waveOn w q.die q.cluster && !w.finished then haltWave w else w
    cur := s1.cur.bind fun c => if s1.waves.any (fun w => w.id = c && waveOn w q.die q.cluster && !w.h) then none else some c }

theorem stopCluster_recordsOnly (s : State) (q : StopReq) :
    RecordsOnly (freezeTree (stopTaken s q) q.die q.cluster) (stopCluster s q) :=
  foldl_recordsOnly (fun t k => skidRecord_recordsOnly t _ k) q.skids _

theorem stopCluster_leaves (s : State) (q : StopReq) :
    (stopCluster s q).stopped = s.stopped ++ [(q.die, q.cluster)] ∧ (stopCluster s q).mem = s.mem ∧ (stopCluster s q).stops = s.stops.erase q
      ∧ (stopCluster s q).waves = s.waves.map fun w => if waveOn w q.die q.cluster && !w.finished then haltWave w else w := by
  have h := stopCluster_recordsOnly s q
  rw [h.stopped, h.mem, h.stops, h.waves, freezeTree_frame]
  exact ⟨rfl, rfl, rfl, rfl⟩

/-! ### Single steps (R397) -/

theorem issueAddress_isSome {w : Wave} (h : liveMask w ≠ 0) : ∃ x, issueAddress w = some x := by
  have hmin : minPc w (liveMask w) ≠ none := fun hn => h <| Mask.of_eq_zero.2 fun l => by
    have hnil := List.map_eq_nil_iff.1 (minBy_eq_none.1 hn)
    refine Bool.eq_false_iff.2 fun hl => ?_
    have hmem : l ∈ (liveMask w).lanes := (Mask.mem_lanes _ l).2 ((has_liveMask w l).2 (of_decide_eq_true hl))
    rw [hnil] at hmem
    cases hmem
  obtain ⟨m, hm⟩ := Option.ne_none_iff_exists'.1 hmin
  simp only [issueAddress, hm]
  split_ifs
  · exact ⟨_, rfl⟩
  · split
    · exact ⟨_, rfl⟩
    · split <;> exact ⟨_, rfl⟩

/-- A wave with an instruction to issue has a run once it is started, and stays the wave that it is. -/
theorem startRun_of_canStep {w : Wave} (h : canStep w = true) (k n : Nat) : (startRun w k n).run.isSome = true := by
  unfold startRun
  dsimp only
  split
  · split
    · split <;> rfl
    · rfl
    · rfl
  next hr =>
    obtain ⟨x, hx⟩ := issueAddress_isSome (w := w) (by simpa [canStep, hr] using h)
    rw [hx]
    rfl

theorem startRun_stands (w : Wave) (k n : Nat) : (startRun w k n).id = w.id ∧ (startRun w k n).stopped = w.stopped := by
  unfold startRun
  dsimp only
  split
  · split
    · split <;> exact ⟨rfl, rfl⟩
    · exact ⟨rfl, rfl⟩
    · exact ⟨rfl, rfl⟩
  · split <;> exact ⟨rfl, rfl⟩

/-- The wave as it starts to issue one instruction; `cut` says whether its run was cut before. -/
def steppingWave (by' : Option (Nat × Nat)) (cut : Bool) (turn : Nat) (v : Wave) : Wave :=
  { startRun v 0 turn with stepping := some (by', cut), hold := none }

theorem beginStep_of_no_scout {s : State} {w : Wave} (hw : findWave s w.id = some w) (hn : shadowOf s w.id = none) (by' : Option (Nat × Nat)) :
    ∃ cut, beginStep s w by' = { modWave { s with fresh := s.fresh + 1 } w.id (steppingWave by' cut s.fresh) with cur := some w.id } := by
  simp only [beginStep, endScout_of_none hn, hw, Option.getD_some]
  exact ⟨_, rfl⟩

theorem findWave_steppingWave {s : State} {w : Wave} (hw : findWave s w.id = some w) (by' : Option (Nat × Nat)) (cut : Bool) (n : Nat) :
    findWave (modWave s w.id (steppingWave by' cut n)) w.id = some (steppingWave by' cut n w) :=
  findWave_modWave_of_found _ hw (startRun_stands ..).1

section
variable {s : State} {w : Wave} (hw : findWave s w.id = some w) (hs : w.stopped = true) (hh : w.h = false) (hf : w.finished = false)
  (hn : w.stepping = none)
include hw hs hh hf hn

theorem stepForSweolo_of_stopped : stepForSweolo s w.id = if canStep w then beginStep s w none else idleStep s w := by
  simp only [stepForSweolo, hw, hs, hh, hf, hn, Option.isSome_none, Bool.not_true, Bool.false_and, Bool.or_self, Bool.false_eq_true, if_false]
end

/-! ### Dumps (R39, R40, R386, R397) -/

/-- A queue register as it is dumped: its commands without the places from which they were pushed. -/
def dumpedQueue (q : QReg) : QReg :=
  { q with part := q.part.map fun c => { c with die := 0, core := 0 }, cmds := q.cmds.map fun c => { c with die := 0, core := 0 } }

/-- A wave as it is dumped out of scout. -/
def dumped (w : Wave) : Wave := { w with place := none, queues := Vector.ofFn fun k => dumpedQueue (w.queues.get k) }

theorem dumped_queue (w : Wave) (k : Fin 8) : (dumped w).queues.get k = dumpedQueue (w.queues.get k) := vector_get_ofFn _ k

/-- A wave as it stands before its scout, where it scouts (R40). -/
def standing (s : State) (w : Wave) : Wave :=
  match shadowOf s w.id with
  | some h => unscout h.saved w
  | none => w

theorem standing_of_no_scout {s : State} {w : Wave} (hn : shadowOf s w.id = none) : standing s w = w := by
  rw [standing, hn]

theorem standing_of_scout {s : State} {w : Wave} {h : Shadow} (hh : shadowOf s w.id = some h) : standing s w = unscout h.saved w := by
  rw [standing, hh]

theorem standing_keeps (s : State) (w : Wave) : (standing s w).group = w.group ∧ (standing s w).queues = w.queues := by
  cases hh : shadowOf s w.id with
  | none => rw [standing_of_no_scout hh]; exact ⟨rfl, rfl⟩
  | some h => rw [standing_of_scout hh]; exact ⟨rfl, rfl⟩

theorem dumpOf_of_found {s : State} {w : Wave} (hw : findWave s w.id = some w) : dumpOf s w.id = some (dumped (standing s w)) := by
  cases hh : shadowOf s w.id with
  | none =>
    rw [dumpOf, endScout_of_none hh, hw, standing_of_no_scout hh]
    rfl
  | some h =>
    rw [dumpOf, findWave_endScout hw hh, standing_of_scout hh]
    rfl

/-! ### The statement -/

/-- Settles O47: a stop by what its records leave, a step by whether the wave has an instruction to issue, a dump by whether it scouts. -/
theorem stopsAndSteps : Obligations.StopsAndSteps := by
  intro s
  refine ⟨fun n q hq => ?_, fun d c h => ?_, fun d c => rfl, fun w v hw hv => ?_, fun w hw hs hh hf hn hc hsh => ?_,
    fun w hw hs hh hf hn hc => ?_⟩
  · obtain ⟨hstopped, hmem, hstops, hwaves⟩ := stopCluster_leaves s q
    refine ⟨_, by simp only [exec, execClusterStop, hq], ?_, hmem, hstops, hwaves⟩
    rw [hstopped]
    exact List.mem_append_right _ (List.mem_singleton_self _)
  · exact ⟨_, congrArg Host.Outcome.next (if_neg (Bool.eq_false_iff.1 h))⟩
  · obtain rfl : dumped (standing s w) = v := Option.some.inj ((dumpOf_of_found hw).symm.trans hv)
    obtain ⟨hgroup, hqueues⟩ := standing_keeps s w
    refine ⟨fun g hg => ?_, ?_, fun hn => ?_, fun h hh => ?_, fun k => ?_⟩
    · simp only [exec, execWaveDump, hv, dumped, hgroup, hg]
    · cases hh : shadowOf s w.id with
      | none => rw [standing_of_no_scout hh]; rfl
      | some h => rw [standing_of_scout hh]; rfl
    · rw [standing_of_no_scout hn]
      rfl
    · rw [standing_of_scout hh]
      rfl
    · rw [dumped_queue, hqueues]
      exact ⟨rfl, rfl, rfl⟩
  · obtain ⟨cut, hbegin⟩ := beginStep_of_no_scout hw hsh none
    have hnext : exec (.sweoloStep w.id) s = .next (beginStep s w none) :=
      congrArg Host.Outcome.next ((stepForSweolo_of_stopped hw hs hh hf hn).trans (if_pos hc))
    rw [hnext, hbegin]
    exact ⟨_, _, rfl, rfl, findWave_steppingWave (s := { s with fresh := s.fresh + 1 }) hw none cut s.fresh, rfl, (startRun_stands ..).2.trans hs,
      startRun_of_canStep hc .., rfl⟩
  · exact ⟨_, congrArg Host.Outcome.next ((stepForSweolo_of_stopped hw hs hh hf hn).trans (if_neg (Bool.eq_false_iff.1 hc))),
      (emit_recordsOnly ..).rest⟩

end Sys2Proof.Machine
end

section
/-! SUPPORT. Trace sessions and clocks (R386, R388, R391, R392, R399 to R401, R407): what a session's buffer takes of a record, the points of
the dies, and locks. -/
namespace Sys2Proof.Machine

/-! ### Records in a session's buffer (R388, R391) -/

/-- Bytes of a session's buffer that its records take. -/
def usedBytes (x : Session) : Nat := x.recs.foldl (fun n y => n + recBytes y) 0

/-- A record as the session's requester may see it (R386). -/
def shownTo (x : Session) (r : TraceRec) : TraceRec := { r with place := if x.mgmt then r.place else none }

/-- The DROP record of the records that a session has lost before r (R391). -/
def dropRecord (x : Session) (r : TraceRec) : TraceRec :=
  { typ := 0x0F, size := 0, spn := false, ix := false, brk := r.brk, launch := 0, name := 0, lmask := 0, pc := 0, place := none, body := x.lost }

section
variable {x : Session} {r : TraceRec}

theorem recordsFor_of_room (hl : x.lost = 0) (h : usedBytes x + recBytes r ≤ x.bytes) : recordsFor x r = [shownTo x r] := by
  simp only [recordsFor, hl, if_true]
  exact if_pos h

theorem recordsFor_of_room_after_loss (hl : 0 < x.lost) (h : usedBytes x + recBytes r + 64 ≤ x.bytes) :
    recordsFor x r = [dropRecord x r, shownTo x r] := by
  simp only [recordsFor, Nat.ne_of_gt hl, if_false]
  exact if_pos h

theorem recordsFor_of_full (h : x.bytes < usedBytes x + recBytes r) : recordsFor x r = [] :=
  if_neg (Nat.not_le.2 (Nat.lt_of_lt_of_le h (Nat.le_add_right _ _)))
end

/-- A record written where there is one session, for its partition. -/
theorem emit_of_one_session {s : State} {x : Session} (hs : s.sessions = [x]) (r : TraceRec) :
    emit s x.part r = { s with
      sessions := [{ x with recs := x.recs ++ recordsFor x r, lost := if (recordsFor x r).isEmpty then x.lost + 1 else 0 }]
      sweolo := { s.sweolo with out := s.sweolo.out ++ (recordsFor x r).map fun y => .trace x.part y } } := by
  simp only [emit, hs, List.map_cons, List.map_nil, List.flatMap_cons, List.flatMap_nil, List.append_nil, if_true]

theorem emit_kept {s : State} {x : Session} (hs : s.sessions = [x]) {r : TraceRec} (hl : x.lost = 0)
    (h : usedBytes x + recBytes r ≤ x.bytes) :
    emit s x.part r = { s with sessions := [{ x with recs := x.recs ++ [shownTo x r] }]
                               sweolo := { s.sweolo with out := s.sweolo.out ++ [.trace x.part (shownTo x r)] } } := by
  rw [emit_of_one_session hs, recordsFor_of_room hl h, ← hl]
  rfl

theorem emit_after_loss {s : State} {x : Session} (hs : s.sessions = [x]) {r : TraceRec} (hl : 0 < x.lost)
    (h : usedBytes x + recBytes r + 64 ≤ x.bytes) :
    emit s x.part r = { s with
      sessions := [{ x with recs := x.recs ++ [dropRecord x r, shownTo x r], lost := 0 }]
      sweolo := { s.sweolo with out := s.sweolo.out ++ [.trace x.part (dropRecord x r), .trace x.part (shownTo x r)] } } := by
  rw [emit_of_one_session hs, recordsFor_of_room_after_loss hl h]
  rfl

theorem emit_lost {s : State} {x : Session} (hs : s.sessions = [x]) {r : TraceRec} (h : x.bytes < usedBytes x + recBytes r) :
    emit s x.part r = { s with sessions := [{ x with lost := x.lost + 1 }] } := by
  rw [emit_of_one_session hs, recordsFor_of_full h]
  simp only [List.append_nil, List.map_nil, List.isEmpty_nil, if_true]

/-! ### Sessions, samples and snapshots (R388, R392, R399) -/

theorem openSession_of_legal {s : State} {p n k : Nat} (m : Bool) (hp : (findPart s p).isSome) (hs : findSession s p = none) (hlo : 2 ^ 20 ≤ n)
    (hhi : n ≤ 2 ^ 30) (hk : 10 ≤ k) (hk' : k ≤ 20) :
    openSession s p n (some k) m = { s with
      sessions := s.sessions ++ [⟨p, m, s.protectNext, n, some k, [], 0, none, [], []⟩], protectNext := s.protectNext + n } := by
  have hlo' : ¬ n < 2 ^ 20 := by omega
  have hhi' : ¬ 2 ^ 30 < n := by omega
  simp only [openSession, Option.isNone_eq_false_iff.2 hp, hs, hlo', hhi', hk, hk', Option.isSome_none, decide_true, decide_false, Bool.and_self,
    Bool.not_true, Bool.or_self, Bool.false_eq_true, if_false]

theorem openSession_of_illegal {s : State} {p n k : Nat} (m : Bool)
    (h : findPart s p = none ∨ (findSession s p).isSome ∨ n < 2 ^ 20 ∨ 2 ^ 30 < n ∨ k < 10 ∨ 20 < k) :
    openSession s p n (some k) m = refuse s 388 := by
  refine if_pos ?_
  simp only [Bool.or_eq_true, decide_eq_true_eq, Bool.not_eq_true', Bool.and_eq_false_iff, decide_eq_false_iff_not, Option.isNone_iff_eq_none,
    Nat.not_le]
  tauto

/-- Changing the session of a partition leaves those of the others. -/
theorem otherSessions_modSession (s : State) (p : Nat) (f : Session → Session) (hf : ∀ y, (f y).part = y.part) :
    (modSession s p f).sessions.filter (fun y => y.part ≠ p) = s.sessions.filter fun y => y.part ≠ p := by
  show (s.sessions.map fun y => if y.part = p then f y else y).filter (fun y => y.part ≠ p) = _
  induction s.sessions with
  | nil => rfl
  | cons y l ih => by_cases hy : y.part = p <;> simpa [hy, hf] using ih

/-- A session that holds no lock closes, and nothing else changes. -/
theorem closeSession_of_no_lock {s : State} {p : Nat} {x : Session} (hx : findSession s p = some x) (hl : x.locked = []) :
    exec (.traceSessionClose p) s = .next { s with sessions := s.sessions.filter fun y => y.part ≠ p } := by
  simp only [exec, execTraceSessionClose, releaseLock, hx, hl, List.filter_nil, List.foldl_nil]
  rw [otherSessions_modSession s p (fun y => { y with lock := none, locked := [] }) fun _ => rfl]
  rfl

theorem snapshotTree_of_session {s : State} {p d c : Nat} (h : (findSession s p).isSome) :
    RecordsOnly { s with free := s.free + 12 } (snapshotTree s p d c) := by
  unfold snapshotTree
  rw [if_neg (by rw [Option.isNone_eq_false_iff.2 h]; exact Bool.false_ne_true)]
  exact emit_recordsOnly ..

/-- A core's first sample for its one session, in a buffer that is empty. -/
theorem sampleCore_of_one_session {s : State} {d c : Nat} {p : Part} {x : Session} {k : Nat} (hs : s.sessions = [x])
    (hp : findPart s x.part = some p) (hc : p.desc.clusters.getLsbD (16 * d + c / 4) = true) (hk : x.period = some k) (hn : x.sample = [])
    (hl : x.lost = 0) (hr : x.recs = []) (hb : 64 ≤ x.bytes) :
    sampleCore s d c = { s with
      sessions := [{ x with recs := [shownTo x (sampleRecord s d c 0)], sample := [(d, c, 1)] }]
      sweolo := { s.sweolo with out := s.sweolo.out ++ [.trace x.part (shownTo x (sampleRecord s d c 0))] } } := by
  have hsize : (sampleRecord s d c 0).size = 0 := by
    unfold sampleRecord
    dsimp only
    split <;> rfl
  have hroom : usedBytes x + recBytes (sampleRecord s d c 0) ≤ x.bytes := by
    rw [usedBytes, hr, recBytes, hsize]
    exact hb
  have hemit := emit_kept hs (r := sampleRecord s d c 0) hl hroom
  rw [hr, List.nil_append] at hemit
  simp only [sampleCore, hs, List.filter_cons, List.filter_nil, hk, hp, hc, hn, Option.isSome_some, Bool.and_self, if_true, List.foldl_cons,
    List.foldl_nil, List.find?_nil, hemit, modSession, List.map_cons, List.map_nil]
  rfl

/-! ### The points of the dies (R401, R407) -/

theorem highestPoint_of_none {s : State} {x : Forecast} (h : ∀ k, withinLimits s x k = false) : highestPoint s x = 0 := by
  rw [highestPoint, List.filter_eq_nil_iff.2 fun k _ => Bool.eq_false_iff.1 (h k)]
  rfl

/-- The highest point within the limits, where there is one. -/
theorem highestPoint_spec {s : State} {x : Forecast} {k : Fin 8} (h : withinLimits s x k = true) :
    k ≤ highestPoint s x ∧ withinLimits s x (highestPoint s x) = true := by
  have hk : k ∈ (List.finRange 8).filter (withinLimits s x) := List.mem_filter.2 ⟨List.mem_finRange k, h⟩
  have hsorted : ((List.finRange 8).filter (withinLimits s x)).Pairwise (· < ·) := (List.pairwise_lt_finRange 8).filter _
  obtain ⟨m, hm⟩ := Option.ne_none_iff_exists'.1 fun hn => List.ne_nil_of_mem hk (List.getLast?_eq_none_iff.1 hn)
  have hhigh : highestPoint s x = m := by rw [highestPoint, hm]; rfl
  obtain ⟨l, hlist⟩ := List.getLast?_eq_some_iff.1 hm
  rw [hhigh]
  refine ⟨?_, (List.mem_filter.1 (List.mem_of_getLast? hm)).2⟩
  rw [hlist] at hk hsorted
  rcases List.mem_append.1 hk with hk | hk
  · exact Fin.le_of_lt ((List.pairwise_append.1 hsorted).2.2 k hk m (List.mem_singleton_self m))
  · exact Fin.le_of_eq (List.mem_singleton.1 hk)

theorem dieAt_modDie (s : State) (d e : Nat) (f : Die → Die) :
    dieAt (modDie s d f) e = if Fin.ofNat 4 e = Fin.ofNat 4 d then f (dieAt s e) else dieAt s e := vector_get_ofFn _ _

theorem dieAt_modDie_self (s : State) (d : Nat) (f : Die → Die) : dieAt (modDie s d f) d = f (dieAt s d) := by
  rw [dieAt_modDie, if_pos rfl]

theorem RecordsOnly.dieAt {s t : State} (h : RecordsOnly s t) (d : Nat) : Machine.dieAt t d = Machine.dieAt s d := by
  rw [h.rest]
  rfl

theorem clockRecord_recordsOnly (s : State) (die kind cause : Nat) : RecordsOnly s (clockRecord s die kind cause) :=
  foldl_recordsOnly (fun t _ => emit_recordsOnly t ..) _ _

theorem dieAt_clockRecord (s : State) (die kind cause d : Nat) : dieAt (clockRecord s die kind cause) d = dieAt s d :=
  (clockRecord_recordsOnly ..).dieAt d

/-! ### Steps that change one die alike -/

/-- Each step of f changes the die that it names by g, and no other. -/
def ChangesDie (g : Die → Die) (f : State → Nat → State) : Prop :=
  ∀ t d e, dieAt (f t d) e = if Fin.ofNat 4 e = Fin.ofNat 4 d then g (dieAt t e) else dieAt t e

section
variable {g : Die → Die} {f : State → Nat → State} (hf : ChangesDie g f)
include hf

theorem ChangesDie.foldl_keeps {P : Die → Prop} (hg : ∀ x, P x → P (g x)) (l : List Nat) (s : State) (e : Nat) (h : P (dieAt s e)) :
    P (dieAt (l.foldl f s) e) := by
  induction l generalizing s with
  | nil => exact h
  | cons d l ih =>
    refine ih _ ?_
    rw [hf s d e]
    split
    · exact hg _ h
    · exact h

theorem ChangesDie.foldl_mem {P : Die → Prop} (hg : ∀ x, P (g x)) {l : List Nat} {e : Nat} (he : e ∈ l) (s : State) :
    P (dieAt (l.foldl f s) e) := by
  obtain ⟨l1, l2, rfl⟩ := List.append_of_mem he
  rw [List.foldl_append, List.foldl_cons]
  refine hf.foldl_keeps (fun x _ => hg x) l2 _ e ?_
  rw [hf _ e e, if_pos rfl]
  exact hg _

theorem ChangesDie.foldl_other {l : List Nat} {e : Nat} (h : ∀ d ∈ l, Fin.ofNat 4 e ≠ Fin.ofNat 4 d) (s : State) :
    dieAt (l.foldl f s) e = dieAt s e := by
  induction l generalizing s with
  | nil => rfl
  | cons d l ih =>
    rw [List.foldl_cons, ih (fun k hk => h k (List.mem_cons_of_mem _ hk)), hf s d e, if_neg (h d List.mem_cons_self)]

/-- A die that the list names once is changed once. -/
theorem ChangesDie.foldl_once {l : List Nat} {e : Nat} (he : e ∈ l) (hl : l.Nodup) (h4 : ∀ d ∈ l, d < 4) (s : State) :
    dieAt (l.foldl f s) e = g (dieAt s e) := by
  obtain ⟨l1, l2, rfl⟩ := List.append_of_mem he
  have hne : ∀ d ∈ l1 ++ l2, Fin.ofNat 4 e ≠ Fin.ofNat 4 d := fun d hd h => by
    have hd4 : d < 4 := h4 d (by rcases List.mem_append.1 hd with h | h <;> simp [h])
    have he4 : e < 4 := h4 e he
    have hmod : e % 4 = d % 4 := congrArg Fin.val h
    have hde : e = d := by rwa [Nat.mod_eq_of_lt hd4, Nat.mod_eq_of_lt he4] at hmod
    subst hde
    exact (List.nodup_cons.1 (List.nodup_middle.1 hl)).1 hd
  rw [List.foldl_append, List.foldl_cons, hf.foldl_other (fun d hd => hne d (List.mem_append_right _ hd)), hf _ e e, if_pos rfl,
    hf.foldl_other fun d hd => hne d (List.mem_append_left _ hd)]
end

/-! ### Locks (R400, R401) -/

/-- A die whose lock has ended. -/
def unlocked (y : Die) : Die := { y with lock := none, broken := false }

/-- A die that is locked at a point, broken at once under a lower limit. -/
def lockedAt (pt : Fin 8) (y : Die) : Die :=
  if !y.broken && y.limit < pt then { y with lock := some pt, broken := true, point := y.limit }
  else { y with lock := some pt, point := if y.broken then y.point else pt }

/-- The lock of one die given up, and recorded. -/
def unlockDie (t : State) (d : Nat) : State := clockRecord (modDie t d unlocked) d 3 0

theorem unlockDie_changes : ChangesDie unlocked unlockDie := fun t d e => by
  rw [unlockDie, dieAt_clockRecord, dieAt_modDie]

theorem lockDie_changes (pt : Fin 8) : ChangesDie (lockedAt pt) fun t d => lockDie t d pt := fun t d e => by
  simp only [lockDie]
  by_cases he : Fin.ofNat 4 e = Fin.ofNat 4 d
  · have hd : dieAt t d = dieAt t e := by rw [dieAt, dieAt, he]
    split
    next h =>
      rw [dieAt_clockRecord, dieAt_modDie, if_pos he, dieAt_clockRecord, dieAt_modDie, if_pos he, ← hd, lockedAt, if_pos h]
    next h => rw [dieAt_clockRecord, dieAt_modDie, if_pos he, ← hd, lockedAt, if_neg h]
  · split <;> simp only [dieAt_clockRecord, dieAt_modDie, if_neg he]

theorem unlockDie_waves (t : State) (d : Nat) : (unlockDie t d).waves = t.waves := (clockRecord_recordsOnly ..).waves

theorem lockDie_waves (t : State) (d : Nat) (pt : Fin 8) : (lockDie t d pt).waves = t.waves := by
  simp only [lockDie]
  split
  · exact (clockRecord_recordsOnly ..).waves.trans (clockRecord_recordsOnly ..).waves
  · exact (clockRecord_recordsOnly ..).waves

theorem foldl_waves {f : State → Nat → State} (hf : ∀ t d, (f t d).waves = t.waves) (l : List Nat) (s : State) :
    (l.foldl f s).waves = s.waves := by
  induction l generalizing s with
  | nil => rfl
  | cons d l ih => exact (ih _).trans (hf s d)

theorem mem_diesOf {s : State} {p d : Nat} (h : d ∈ diesOf s p) : d < 4 := by
  unfold diesOf at h
  split at h
  · exact List.mem_range.1 (List.mem_filter.1 h).1
  · exact absurd h (List.not_mem_nil)

theorem diesOf_nodup (s : State) (p : Nat) : (diesOf s p).Nodup := by
  unfold diesOf
  split
  · exact List.nodup_range.filter _
  · exact List.nodup_nil

section
variable {s : State} {x : Session} (hs : s.sessions = [x])
include hs

theorem findSession_of_one_session : findSession s x.part = some x := by
  rw [findSession, hs]
  exact List.find?_cons_of_pos (decide_eq_true rfl)

theorem lockedByOther_of_one_session (d : Nat) : lockedByOther s x.part d = none := by
  simp [lockedByOther, hs]

/-- The one session gives its lock up on every die that it locked. -/
theorem releaseLock_of_one_session :
    releaseLock s x.part = modSession ((x.locked.filter fun d => (dieAt s d).lock.isSome).foldl unlockDie s) x.part
      fun y => { y with lock := none, locked := [] } := by
  simp only [releaseLock, findSession_of_one_session hs, lockedByOther_of_one_session hs, Option.isNone_none, Bool.true_and]
  rfl

/-- The one session is refused no point. -/
theorem lockClock_of_one_session (pt : Fin 8) :
    lockClock s x.part pt = (diesOf s x.part).foldl (fun t d => lockDie t d pt)
      (modSession (releaseLock s x.part) x.part fun y => { y with lock := some pt, locked := diesOf s x.part }) := by
  refine if_neg ?_
  simp only [findSession_of_one_session hs, lockedByOther_of_one_session hs, Option.isNone_some, Bool.false_or, Bool.not_eq_true]
  exact List.any_eq_false.2 fun _ _ => Bool.false_ne_true

theorem releaseLock_keeps {P : Die → Prop} (hP : ∀ y, P y → P (unlocked y)) {d : Nat} (h : P (dieAt s d)) :
    P (dieAt (releaseLock s x.part) d) := by
  rw [releaseLock_of_one_session hs]
  exact unlockDie_changes.foldl_keeps hP _ s d h

theorem releaseLock_waves : (releaseLock s x.part).waves = s.waves := by
  rw [releaseLock_of_one_session hs]
  exact foldl_waves unlockDie_waves _ s

/-- The die of a lock, where none was broken. -/
theorem dieAt_lockClock {pt : Fin 8} {d : Nat} (hd : d ∈ diesOf s x.part) (hb : (dieAt s d).broken = false) :
    ∃ y : Die, y.limit = (dieAt s d).limit ∧ y.broken = false ∧ dieAt (lockClock s x.part pt) d = lockedAt pt y := by
  refine ⟨dieAt (releaseLock s x.part) d, releaseLock_keeps hs (P := fun y => y.limit = _) (fun _ h => h) rfl,
    releaseLock_keeps hs (P := fun y => y.broken = false) (fun _ _ => rfl) hb, ?_⟩
  rw [lockClock_of_one_session hs]
  exact (lockDie_changes pt).foldl_once hd (diesOf_nodup s x.part) (fun _ => mem_diesOf) _

theorem clockLock_one_session {pt : Fin 8} {d : Nat} (hd : d ∈ diesOf s x.part) (hb : (dieAt s d).broken = false) :
    ∃ t, exec (.clockLock x.part pt) s = .next t ∧ (dieAt t d).lock = some pt ∧ t.waves = s.waves
      ∧ (pt ≤ (dieAt s d).limit → (dieAt t d).point = pt ∧ (dieAt t d).broken = false)
      ∧ ((dieAt s d).limit < pt → (dieAt t d).point = (dieAt s d).limit ∧ (dieAt t d).broken = true) := by
  obtain ⟨y, hlimit, hbroken, hdie⟩ := dieAt_lockClock hs (pt := pt) hd hb
  have hwaves : (lockClock s x.part pt).waves = s.waves := by
    rw [lockClock_of_one_session hs, foldl_waves fun t d => lockDie_waves t d pt]
    exact releaseLock_waves hs
  refine ⟨_, rfl, ?_, hwaves, fun h => ?_, fun h => ?_⟩
  · rw [hdie, lockedAt]
    split <;> rfl
  · rw [hdie, lockedAt, hbroken, hlimit, if_neg (by simpa using h)]
    exact ⟨rfl, rfl⟩
  · rw [hdie, lockedAt, hbroken, hlimit, if_pos (by simpa using h)]
    exact ⟨rfl, rfl⟩

theorem clockRelease_one_session {d : Nat} (hd : d ∈ x.locked) (hl : (dieAt s d).lock.isSome) :
    ∃ t, exec (.clockRelease x.part) s = .next t ∧ (dieAt t d).lock = none ∧ (dieAt t d).broken = false := by
  refine ⟨_, rfl, ?_⟩
  rw [releaseLock_of_one_session hs]
  exact unlockDie_changes.foldl_mem (P := fun y => y.lock = none ∧ y.broken = false) (fun _ => ⟨rfl, rfl⟩)
    (List.mem_filter.2 ⟨hd, hl⟩) s
end

/-! ### Limits (R401, R407) -/

theorem clockBreak_of_cause {s : State} {d : Nat} {c : BreakCause} {found : Forecast} (h : causeHolds s found c (dieAt s d).point = true) :
    ∃ t, exec (.clockBreak d c found) s = .next t ∧ (dieAt t d).broken = (dieAt s d).lock.isSome ∧ (dieAt t d).point = highestPoint s found
      ∧ (dieAt t d).limit = highestPoint s found ∧ (dieAt t d).lock = (dieAt s d).lock := by
  refine ⟨_, rfl, ?_⟩
  rw [h]
  simp only [Bool.not_true, Bool.false_eq_true, if_false]
  split <;> simp only [dieAt_clockRecord, dieAt_modDie_self, and_self]

theorem clockBreak_of_no_cause {s : State} {d : Nat} {c : BreakCause} {found : Forecast}
    (h : causeHolds s found c (dieAt s d).point = false) : exec (.clockBreak d c found) s = .next s := by
  simp only [exec, execClockBreak, h, Bool.not_false, if_true]

/-- The die after a restore: no limit, and a broken lock's point in force again. -/
def restored (y : Die) : Die :=
  match y.lock with
  | some p => if y.broken then { y with limit := 7, broken := false, point := p } else { y with limit := 7 }
  | none => { y with limit := 7 }

theorem clockRestore_die (s : State) (d : Nat) : ∃ t, exec (.clockRestore d) s = .next t ∧ dieAt t d = restored (dieAt s d) := by
  refine ⟨_, rfl, ?_⟩
  unfold restored
  cases hl : (dieAt s d).lock with
  | none =>
    dsimp only
    rw [dieAt_modDie_self, hl]
  | some p =>
    dsimp only
    split
    · rw [dieAt_clockRecord, dieAt_modDie_self, dieAt_modDie_self, ← hl]
    · rw [dieAt_modDie_self, ← hl]

theorem restored_spec (y : Die) : (restored y).limit = 7 ∧ (restored y).lock = y.lock
    ∧ (∀ p, y.lock = some p → y.broken = true → (restored y).broken = false ∧ (restored y).point = p)
    ∧ (y.lock = none ∨ y.broken = false → (restored y).point = y.point ∧ (restored y).broken = y.broken) := by
  unfold restored
  cases hl : y.lock with
  | none => simp
  | some p => cases y.broken <;> simp

theorem operatingPointChange_of_unlocked {s : State} {d : Nat} {found : Forecast} (h : (dieAt s d).lock = none) :
    ∃ t, exec (.operatingPointChange d found) s = .next t ∧ (dieAt t d).point = highestPoint s found ∧ t = { s with dies := t.dies } := by
  refine ⟨_, rfl, ?_⟩
  rw [if_pos (Option.isNone_iff_eq_none.2 h), dieAt_modDie_self]
  exact ⟨rfl, rfl⟩

theorem operatingPointChange_of_locked {s : State} {d : Nat} {found : Forecast} (h : (dieAt s d).lock.isSome) :
    exec (.operatingPointChange d found) s = .next s := by
  rw [Option.isSome_iff_ne_none] at h
  simp only [exec, execOperatingPointChange, Option.isNone_iff_eq_none, h, if_false]

/-- Settles O48, clause by clause: a record is told by what the one session's buffer has room for, and a lock by the one change that each step of a
fold makes at the die that it names. -/
theorem traceAndClocks : Obligations.TraceAndClocks := by
  refine ⟨fun s => ⟨?_, ?_, ?_, fun _ _ => rfl, ?_, ?_, ?_⟩, fun s x hs => ⟨?_, ?_, ?_, ?_, ?_, ?_, ?_, ?_⟩⟩
  · intro p n k m hp hx hlo hhi hk hk'
    exact congrArg _ (openSession_of_legal m hp hx hlo hhi hk hk')
  · intro p n k m h
    exact congrArg _ (openSession_of_illegal m h)
  · intro p x hx _ hl
    exact closeSession_of_no_lock hx hl
  · rintro _ r x hs rfl
    exact ⟨emit_kept hs, fun hl h => ⟨dropRecord x r, rfl, rfl, rfl, emit_after_loss hs hl h⟩, emit_lost hs⟩
  · intro d c p x k hs hp hc hk hn hl hr hb
    exact congrArg _ (sampleCore_of_one_session hs hp hc hk hn hl hr hb)
  · intro p d c h
    exact ⟨_, rfl, (snapshotTree_of_session h).rest⟩
  · intro p pt d _ hd hb
    exact clockLock_one_session hs hd hb
  · intro d c found _ h
    exact clockBreak_of_cause h
  · intro d c found h
    exact clockBreak_of_no_cause h
  · intro found k h
    exact highestPoint_spec h
  · intro found h
    exact highestPoint_of_none h
  · intro d _
    obtain ⟨t, hnext, hdie⟩ := clockRestore_die s d
    exact ⟨t, hnext, hdie ▸ restored_spec (dieAt s d)⟩
  · intro d hd hl
    exact clockRelease_one_session hs hd hl
  · intro d found
    exact ⟨operatingPointChange_of_unlocked, operatingPointChange_of_locked⟩

end Sys2Proof.Machine
end

section
/-! SUPPORT. A killed launch among groups of one number (R346, R357): the state that refutes O44. -/
namespace Sys2Proof.Machine

/-- A launch that has consumed an error and waits for its one group, which has finished; its snapshot holds a 1 in the granule of 0x1000. -/
def waitsForReplay : Launch :=
  { setupLaunch 1 0 with state := .faulted .uncorrectable, replay := true, dirty := [0x40], copies := spSet [] 0x40 1 }

/-- Launch 0 runs its one group, which bears the number of the finished group of the launch that waits to start again. -/
def twoGroupsOfOneNumber : State :=
  { setupLaunched State.reset with
    launches := [setupLaunch 0 0, waitsForReplay]
    groups := [{ setupGroup 0 0 1 with finished := true }, setupGroup 0 0 0]
    waves := []
    cur := none }

/-- The kill of launch 0 reaps group 0, and finds the group of the other launch: that launch starts again, and its snapshot is restored. -/
theorem killLaunch_twoGroupsOfOneNumber :
    twoGroupsOfOneNumber.mem.isEmpty = true ∧ (killLaunch twoGroupsOfOneNumber 0).mem.isEmpty = false := by
  decide +kernel

/-- Refutes O44: it says of every state that a killed launch leaves memory as it is. Where two groups bear one number, a kill takes away a
finished group of another launch, whose snapshot is then restored (`killLaunch_twoGroupsOfOneNumber`). -/
theorem not_marksErrorsAndFences : ¬ Obligations.MarksErrorsAndFences := by
  intro h
  obtain ⟨p, hp⟩ := Option.isSome_iff_exists.1 (show (findPart twoGroupsOfOneNumber 0).isSome = true by decide +kernel)
  have hn : p.n = 0 := of_decide_eq_true (List.find?_some (p := fun x : Part => decide (x.n = 0)) hp)
  have hpart : findPart twoGroupsOfOneNumber p.n = some p := hn ▸ hp
  have hlaunch : findLaunch twoGroupsOfOneNumber (setupLaunch 0 0).id = some (setupLaunch 0 0) := by decide +kernel
  obtain ⟨-, -, -, -, -, -, -, -, hkills⟩ := h.1 twoGroupsOfOneNumber p hpart
  obtain ⟨t, hnext, -, hmem, -⟩ := (hkills (setupLaunch 0 0) hlaunch).1 rfl rfl
  obtain rfl : killLaunch twoGroupsOfOneNumber 0 = t := Host.Outcome.next.inj hnext
  obtain ⟨hempty, hwritten⟩ := killLaunch_twoGroupsOfOneNumber
  rw [hmem, hempty] at hwritten
  exact Bool.noConfusion hwritten

end Sys2Proof.Machine
end

section
/-! SUPPORT. A launch packet whose entry lapses a snapshot (R358, R373): what the module's own writes add to its outputs, and the state that
refutes O43. -/
namespace Sys2Proof.Machine

/-! ### What the module's own writes say (R390) -/

theorem emit_out (s : State) (part : Nat) (r : TraceRec) : s.sweolo.out <+: (emit s part r).sweolo.out := List.prefix_append ..

theorem markDirty_out (s : State) (launch : DWord) (g : Page) (ia : Nat) : s.sweolo.out <+: (markDirty s launch g ia).sweolo.out := by
  unfold markDirty
  split
  · exact List.prefix_rfl
  · split
    · exact List.prefix_rfl
    · dsimp only
      split
      · exact List.prefix_rfl
      · split
        · exact List.prefix_rfl
        · exact emit_out ..

theorem underKey_sweolo (s : State) (key a : Nat) : (underKey s key a).sweolo = s.sweolo := by
  unfold underKey
  split
  · split <;> rfl
  · rfl

theorem beforeWrite_sweolo (s : State) (launch : DWord) (g : Page) (ia : Nat) :
    (beforeWrite s launch g ia).sweolo = (markDirty (logLine s g.owner.n (physIn g ia)) launch g ia).sweolo :=
  underKey_sweolo ..

theorem homeWrite_out (s : State) (launch : DWord) (ia : Nat) (bs : List Byte) : s.sweolo.out <+: (homeWrite s launch ia bs).sweolo.out := by
  unfold homeWrite
  split
  · exact List.prefix_rfl
  next g _ =>
    split
    · exact List.prefix_rfl
    · rw [show (_ : State).sweolo = (beforeWrite s launch g ia).sweolo from rfl, beforeWrite_sweolo]
      exact markDirty_out (logLine s g.owner.n (physIn g ia)) launch g ia

/-- Where a page is marked as written, the outputs, the sessions and the launches stand. -/
theorem markAccessed_rest (s : State) (ia : Nat) (write : Bool) :
    (markAccessed s ia write).sweolo = s.sweolo ∧ (markAccessed s ia write).sessions = s.sessions
      ∧ (markAccessed s ia write).launches = s.launches := by
  unfold markAccessed
  split
  · exact ⟨rfl, rfl, rfl⟩
  · unfold markPage
    split <;> exact ⟨rfl, rfl, rfl⟩

theorem llcSeat_sweolo (s : State) (b : LlcBlock) (line tenant : Nat) : (llcSeat s b line tenant).sweolo = s.sweolo := by
  unfold llcSeat
  split <;> rfl

theorem llcPut_sweolo (s : State) (die line tenant : Nat) (x : LlcLine) : (llcPut s die line tenant x).sweolo = s.sweolo := by
  unfold llcPut
  dsimp only
  split
  · split
    · exact llcSeat_sweolo ..
    · rfl
  · exact llcSeat_sweolo ..

theorem llcMeet_sweolo (s : State) (tenant die line : Nat) (write : Bool) : (llcMeet s tenant die line write).sweolo = s.sweolo := by
  unfold llcMeet
  split
  · dsimp only
    split
    · exact llcPut_sweolo ..
    · rfl
  · split
    · exact llcPut_sweolo ..
    · rfl

/-- One line of a write of the module's own. -/
def hardLine (launch : DWord) (tenant : Nat) (bs : List Byte) (t : State) (q : Nat × Nat × Nat) : State :=
  let t1 := homeWrite (markAccessed t q.1 true) launch q.1 ((bs.drop q.2.1).take q.2.2)
  dropReplicas (l1DropEvery (llcMeet t1 tenant (homeDie q.1) (q.1 / 64) true) (q.1 / 64)) (q.1 / 64)

theorem hardWrite_eq (s : State) (launch : DWord) (ia : Nat) (bs : List Byte) :
    hardWrite s launch ia bs = (iaPieces ia bs.length).foldl (hardLine launch (tenantOf s (partFor s launch ia)) bs) s := rfl

theorem hardLine_sweolo (launch : DWord) (tenant : Nat) (bs : List Byte) (t : State) (q : Nat × Nat × Nat) :
    (hardLine launch tenant bs t q).sweolo = (homeWrite (markAccessed t q.1 true) launch q.1 ((bs.drop q.2.1).take q.2.2)).sweolo :=
  llcMeet_sweolo ..

theorem hardLine_out (launch : DWord) (tenant : Nat) (bs : List Byte) (t : State) (q : Nat × Nat × Nat) :
    t.sweolo.out <+: (hardLine launch tenant bs t q).sweolo.out := by
  rw [hardLine_sweolo, ← (markAccessed_rest t q.1 true).1]
  exact homeWrite_out ..

theorem foldl_hardLine_out (launch : DWord) (tenant : Nat) (bs : List Byte) (l : List (Nat × Nat × Nat)) (s : State) :
    s.sweolo.out <+: (l.foldl (hardLine launch tenant bs) s).sweolo.out := by
  induction l generalizing s with
  | nil => exact List.prefix_rfl
  | cons q l ih => exact (hardLine_out ..).trans (ih _)

/-! ### A snapshot that lapses (R358) -/

/-- The launch has a snapshot that has no room for the piece of an IA, and a trace session hears of it. -/
def Lapses (s : State) (id : DWord) (ia : Nat) : Prop :=
  ∃ l ps x, s.launches.find? (fun l => l.id = id) = some l ∧ l.snapshot = some ps ∧ ps.contains (ia / 65536) = false
    ∧ ¬ snapshotPieces s l.part < Config.snapshotArea l.part
    ∧ s.sessions = [x] ∧ x.part = l.part ∧ x.lost = 0 ∧ usedBytes x + 64 ≤ x.bytes

theorem Lapses.of_rest {s t : State} {id : DWord} {ia : Nat} (h : Lapses s id ia) (hl : t.launches = s.launches)
    (hs : t.sessions = s.sessions) : Lapses t id ia := by
  unfold Lapses snapshotPieces
  rw [hl, hs]
  exact h

/-- A record of 64 bytes that its session has room for is told. -/
theorem emit_told {s : State} {x : Session} {p : Nat} {r : TraceRec} (hs : s.sessions = [x]) (hp : x.part = p) (hlost : x.lost = 0)
    (hroom : usedBytes x + recBytes r ≤ x.bytes) : s.sweolo.out.length < (emit s p r).sweolo.out.length := by
  rw [← hp, emit_kept hs hlost hroom, List.length_append]
  exact Nat.lt_add_of_pos_right Nat.one_pos

/-- A write that lapses a snapshot is told (R390). -/
theorem markDirty_of_lapse {s : State} {id : DWord} {ia : Nat} (h : Lapses s id ia) (g : Page) :
    s.sweolo.out.length < (markDirty s id g ia).sweolo.out.length := by
  obtain ⟨l, ps, x, hl, hps, hpiece, hfull, hs, hpart, hlost, hroom⟩ := h
  unfold markDirty
  simp only [hl, hps, hpiece, hfull, Bool.false_eq_true, if_false]
  exact emit_told (by exact hs) hpart hlost hroom

theorem homeWrite_of_lapse {s : State} {id : DWord} {ia : Nat} {bs : List Byte} {g : Page} (h : Lapses s id ia) (hg : pageOf s ia = some g)
    (hbs : bs.isEmpty = false) : s.sweolo.out.length < (homeWrite s id ia bs).sweolo.out.length := by
  unfold homeWrite
  simp only [hg, hbs, Bool.false_eq_true, if_false, beforeWrite_sweolo]
  exact markDirty_of_lapse (s := logLine s g.owner.n (physIn g ia)) (h.of_rest rfl rfl) g

/-- A write of the module's own whose first line lapses a snapshot. -/
theorem hardWrite_of_lapse {s : State} {id : DWord} {ia n : Nat} {bs : List Byte} {l : List (Nat × Nat × Nat)} (h : Lapses s id ia)
    (hpieces : iaPieces ia bs.length = (ia, 0, n) :: l) (hg : (pageOf (markAccessed s ia true) ia).isSome = true)
    (hbs : (bs.take n).isEmpty = false) : s.sweolo.out.length < (hardWrite s id ia bs).sweolo.out.length := by
  obtain ⟨g, hg⟩ := Option.isSome_iff_exists.1 hg
  obtain ⟨hout, hsessions, hlaunches⟩ := markAccessed_rest s ia true
  have hfirst := homeWrite_of_lapse (h.of_rest hlaunches hsessions) hg hbs
  rw [hout] at hfirst
  rw [hardWrite_eq, hpieces, List.foldl_cons]
  refine Nat.lt_of_lt_of_le ?_ (foldl_hardLine_out ..).length_le
  rw [hardLine_sweolo]
  exact hfirst

/-! ### The packet (R373) -/

/-- A queue of tenant 0 with no entry, at 0x8000; its first entry's launch bears number 0 (R346). -/
def emptyQueue : Queue :=
  { n := 0, desc := ⟨true, false, 0, 0, 4, 0x8000, 0xC000⟩, tail := 0, start := 0, head := 0, done := [], after := [], origins := [], void := []
    emergency := [], reserved := [], turn := 0 }

/-- Launch 0, its snapshot as large as the snapshot area of its partition. -/
def fullSnapshot : Launch := { setupLaunch 0 0 with snapshot := some (List.replicate (Config.snapshotArea 0) 1) }

/-- A trace session of partition 0 that holds no record. -/
def freshSession : Session := ⟨0, false, 0, 2 ^ 20, none, [], 0, none, [], []⟩

/-- The tenant may use queue 0, which is empty; launch 0 has a full snapshot, and its partition a trace session. -/
def fullSnapshotState : State :=
  let s := setupLaunched State.reset
  { protectSet s (2 ^ 40) 1 with
    tenants := s.tenants.set 0 { v := true, keyix := 1, job := 0, sdi := 0, parts := 1, qmap := 2 ^ 40 }
    queues := [emptyQueue]
    launches := [fullSnapshot]
    sessions := [freshSession] }

/-- A packet for queue 0 in partition 0. -/
def firstPacket : Packet := ⟨0, 0, 0, ⟨7, 1, 2, 3, 0, false⟩, 136, 0⟩

/-- A packet that passes: its entry is written, the queue's TAIL advances, and the sender is answered. -/
theorem launchPacket_of_ok {s : State} {p : Packet} {q : Queue} (hup : portUp s p.port = true) (h : packetCheck s p = .ok (some q)) :
    exec (.launchPacket p) s = .next (answer (modQueue
      (hardWrite (keepKey s p.hdr) (launchId q.n q.tail) (entryIa q q.tail) (bytesOf p.bytes.toNat 128)) q.n fun x =>
        { x with tail := x.tail + 1, after := x.after ++ [(q.tail, sentBefore s (bitsOf p.bytes.toNat 224 6) p.hdr.origin)] })
      (.packet p.hdr 0)) := by
  simp only [exec, execLaunchPacket, takePacket, hup, h, Bool.not_true, Bool.false_eq_true, if_false]

/-- Where the entry's bytes are told of, the answer is not all that the packet adds to the outputs. -/
theorem launchPacket_out_of_told {s t : State} {p : Packet} {q : Queue} {id : DWord} {ia : Nat} (hid : launchId q.n q.tail = id)
    (hia : entryIa q q.tail = ia) (hup : portUp s p.port = true) (h : packetCheck s p = .ok (some q))
    (htold : s.sweolo.out.length < (hardWrite (keepKey s p.hdr) id ia (bytesOf p.bytes.toNat 128)).sweolo.out.length)
    (hnext : exec (.launchPacket p) s = .next t) : t.sweolo.out ≠ s.sweolo.out ++ [.packet p.hdr 0] := by
  intro hout
  rw [launchPacket_of_ok hup h, hid, hia] at hnext
  rw [← Host.Outcome.next.inj hnext] at hout
  have hsame : (hardWrite (keepKey s p.hdr) id ia (bytesOf p.bytes.toNat 128)).sweolo.out = s.sweolo.out := List.append_cancel_right hout
  rw [hsame] at htold
  exact Nat.lt_irrefl _ htold

theorem firstPacket_passes : portUp fullSnapshotState 0 = true ∧ packetCheck fullSnapshotState firstPacket = .ok (some emptyQueue) := by
  decide +kernel

theorem fullSnapshotState_lapses : Lapses (keepKey fullSnapshotState firstPacket.hdr) 0 0x8000 := by
  refine ⟨fullSnapshot, _, freshSession, rfl, rfl, ?_, ?_, rfl, rfl, rfl, by decide⟩
  · simp
  · have hpieces : snapshotPieces (keepKey fullSnapshotState firstPacket.hdr) 0 = Config.snapshotArea 0 := by
      simp [snapshotPieces, keepKey, fullSnapshotState, fullSnapshot, setupLaunch]
    exact Nat.not_lt.2 hpieces.ge

/-- Refutes O43: it says of every state that a packet that passes is answered and nothing else. Where the entry's launch number is that of a
launch whose snapshot is full, the entry's bytes lapse the snapshot, and a trace session hears of it before the answer. -/
theorem not_fromOutside : ¬ Obligations.FromOutside := by
  intro h
  obtain ⟨-, -, -, -, -, hpasses, -⟩ := h fullSnapshotState
  obtain ⟨t, hnext, hout, -⟩ := hpasses firstPacket emptyQueue firstPacket_passes.1 firstPacket_passes.2
  have hpieces : iaPieces 0x8000 (bytesOf firstPacket.bytes.toNat 128).length = [(0x8000, 0, 64), (0x8040, 64, 64)] := by decide +kernel
  have hpage : (pageOf (markAccessed (keepKey fullSnapshotState firstPacket.hdr) 0x8000 true) 0x8000).isSome = true := by decide +kernel
  have hbytes : ((bytesOf firstPacket.bytes.toNat 128).take 64).isEmpty = false := by decide +kernel
  have htold := hardWrite_of_lapse fullSnapshotState_lapses hpieces hpage hbytes
  exact launchPacket_out_of_told (by decide +kernel) (by decide +kernel) firstPacket_passes.1 firstPacket_passes.2 htold hnext hout

end Sys2Proof.Machine
end

section
/-! SUPPORT. Page tables and lent clusters (R310 to R312, R378, R379, R381): what an entry's change, a request, a page fill and a moved cluster
leave; and what O46 asks of the free value of R381. -/
namespace Sys2Proof.Machine

/-! ### Bytes of a line -/

theorem readN_lt (m : Memory) (a n : Nat) : readN m a n < 2 ^ (8 * n) := by
  induction n generalizing a with
  | zero => exact Nat.two_pow_pos 0
  | succ n ih =>
    have hbyte := (readByte m a).isLt
    have hrest := ih (a + 1)
    rw [readN, Nat.mul_succ, Nat.pow_add]
    omega

theorem bytesOf_readN (m : Memory) (a n : Nat) : bytesOf (readN m a n) n = readBytes m a n := by
  induction n generalizing a with
  | zero => rfl
  | succ n ih =>
    have hbyte : BitVec.ofNat 8 ((readByte m a).toNat + 256 * readN m (a + 1) n) = readByte m a := by
      apply BitVec.eq_of_toNat_eq
      rw [BitVec.toNat_ofNat]
      omega
    have hrest : ((readByte m a).toNat + 256 * readN m (a + 1) n) / 256 = readN m (a + 1) n := by omega
    rw [readN, bytesOf, hbyte, hrest, ih, readBytes]

theorem readBytes_getElem? (m : Memory) (a n k : Nat) (h : k < n) : (readBytes m a n)[k]? = some (readByte m (a + k)) := by
  induction n generalizing a k with
  | zero => exact absurd h (Nat.not_lt_zero k)
  | succ n ih =>
    cases k with
    | zero => rfl
    | succ k =>
      rw [readBytes, List.getElem?_cons_succ, ih (a + 1) k (by omega)]
      congr 2
      omega

/-- Bytes written back as they stand change nothing. -/
theorem readByte_writeN_readN (m : Memory) (a n x : Nat) : readByte (writeN m a n (readN m a n)) x = readByte m x := by
  rw [writeN, readByte_writeBytes, bytesOf_readN]
  split
  next h =>
    have hlen : (readBytes m a n).length = n := by rw [← bytesOf_readN, bytesOf_length]
    rw [readBytes_getElem? m a n (x - a) (by omega), Option.getD_some, Nat.add_sub_cancel' h.1]
  next => rfl

theorem readByte_writeN_outside {m : Memory} {a n x : Nat} (v : Nat) (h : ¬ (a ≤ x ∧ x < a + n)) :
    readByte (writeN m a n v) x = readByte m x := by
  rw [writeN, readByte_writeBytes, bytesOf_length, if_neg h]

/-! ### Lines under another key (R381) -/

/-- Is a physical byte one of a frame, not of the metadata area (R308, R314)? -/
def DataByte (a : Nat) : Prop := a % Config.channelBytes < Config.frameBytes

/-- Every byte of the frames reads alike. -/
def SameData (m m' : Memory) : Prop := ∀ a, DataByte a → readByte m' a = readByte m a

/-- The free value of R381 keeps the data bits of a line, whatever the two keys are. R381 gives neither this nor its negation. -/
def GarbleKeepsData : Prop :=
  ∀ k key n v, (Config.garble (Config.keyBits k) (Config.keyBits key) n v).extractLsb' 0 512 = v.extractLsb' 0 512

theorem toNat_ofNat_readN (m : Memory) (a n : Nat) : (BitVec.ofNat (8 * n) (readN m a n)).toNat = readN m a n := by
  rw [BitVec.toNat_ofNat, Nat.mod_eq_of_lt (readN_lt m a n)]

theorem lineRaw_data (s : State) (a : Nat) : ((lineRaw s a).extractLsb' 0 512).toNat = readN s.mem (64 * (a / 64)) 64 := by
  rw [lineRaw, BitVec.extractLsb'_append_eq_right]
  exact toNat_ofNat_readN s.mem (64 * (a / 64)) 64

/-- A line of a frame lies in front of its metadata word. -/
theorem metaAddr_outside {a x : Nat} (ha : DataByte (64 * a)) (hx : DataByte x) : ¬ (metaAddr (64 * a) ≤ x ∧ x < metaAddr (64 * a) + 2) := by
  simp only [DataByte, metaAddr, Config.channelBytes, Config.frameBytes] at *
  omega

theorem underKey_sameData (hg : GarbleKeepsData) (s : State) (key : Nat) {n : Nat} (hn : DataByte (64 * n)) :
    SameData s.mem (underKey s key (64 * n)).mem := by
  intro x hx
  have hline : 64 * n / 64 = n := by omega
  unfold underKey
  split
  next k hk =>
    split
    · rfl
    next hne =>
      have hview : ((lineView s key (64 * n)).extractLsb' 0 512).toNat = readN s.mem (64 * (64 * n / 64)) 64 := by
        rw [lineView, hk]
        simp only [hne, if_false]
        rw [hg, lineRaw_data]
      dsimp only
      rw [readByte_writeN_outside _ (metaAddr_outside (by rwa [hline]) hx), hview]
      exact readByte_writeN_readN ..
  next => rfl

theorem rekeyed_sameData (hg : GarbleKeepsData) (s : State) (key : Nat) {p : Nat → Bool} (hp : ∀ n, p n = true → DataByte (64 * n)) :
    SameData s.mem (rekeyed s key p).mem := by
  unfold rekeyed
  have hall : ∀ x ∈ s.lineKeys.filter (fun x => p x.1), DataByte (64 * x.1) := fun x hx => hp _ (List.mem_filter.1 hx).2
  revert hall
  generalize s.lineKeys.filter (fun x => p x.1) = l
  intro hall
  induction l generalizing s with
  | nil => exact fun _ _ => rfl
  | cons x l ih =>
    intro a ha
    have hrest := ih (underKey s key (64 * x.1)) (fun y hy => hall y (List.mem_cons_of_mem _ hy)) a ha
    exact hrest.trans (underKey_sameData hg s key (hall x List.mem_cons_self) a ha)

/-- Cells left out of a memory change no byte elsewhere. -/
theorem spGet_filter_kept {w : Nat} (m : Sparse w) (p : Nat × BitVec w → Bool) {k : Nat} (hk : ∀ v, p (k, v) = true) :
    spGet (m.filter p) k = spGet m k := by
  induction m with
  | nil => rfl
  | cons c m ih =>
    obtain ⟨a, v⟩ := c
    by_cases ha : k = a
    · subst ha
      rw [List.filter_cons_of_pos (hk v), spGet, spGet, if_pos rfl, if_pos rfl]
    · by_cases hc : p (a, v) = true
      · rw [List.filter_cons_of_pos hc, spGet, spGet, if_neg ha, if_neg ha, ih]
      · rw [List.filter_cons_of_neg hc, spGet, if_neg ha, ih]

theorem metaOffset_of_data {p : Part} {a : Nat} (h : DataByte a) : metaOffset p a = none := by
  unfold metaOffset
  dsimp only
  split
  · exact if_pos h
  · rfl

theorem dataByte_of_frameOffset {p : Part} {a x : Nat} (h : frameOffset p a = some x) : DataByte a := by
  unfold frameOffset at h
  dsimp only at h
  split at h
  · split at h
    · assumption
    · cases h
  · cases h

/-- Does an offset lie in the frame of a leaf? -/
def inFrame (l : Fin 4) (e : DWord) (o : Option Nat) : Bool :=
  o.any fun x => (leafOfEntry l e).frame.toNat ≤ x && x < (leafOfEntry l e).frame.toNat + pageBytes l / 4

theorem zeroMeta_sameData (hg : GarbleKeepsData) (s : State) (p : Part) (l : Fin 4) (e : DWord) :
    SameData s.mem (zeroMeta s p l e).mem := by
  intro a ha
  have hkept := rekeyed_sameData hg s (slotKey s (leafOfEntry l e).keyix.toNat)
    (p := fun x => inFrame l e (frameOffset p (64 * x)))
    (fun n hn => by
      obtain ⟨y, hy, -⟩ := (Option.any_eq_true ..).1 hn
      exact dataByte_of_frameOffset hy) a ha
  refine Eq.trans ?_ hkept
  refine spGet_filter_kept _ _ fun v => ?_
  rw [metaOffset_of_data ha]
  rfl

/-! ### Entries of a page table (R310) -/

/-- Finding the table of an IA makes tables in the protected region, and nothing else. -/
theorem tableFor_rest (ia n k table : Nat) (s : State) :
    (tableFor ia n k table s).2 = { s with
      protect := (tableFor ia n k table s).2.protect, protectNext := (tableFor ia n k table s).2.protectNext } := by
  induction n generalizing k table s with
  | zero => rfl
  | succ n ih =>
    rw [tableFor]
    dsimp only
    split
    · exact ih ..
    · exact ih ..

theorem putEntry_eq (s : State) (p : Part) (l : Fin 4) (ia : Nat) (e : DWord) :
    putEntry s p l ia e = protectSet (tableFor ia l.val 0 p.root s).2 (entryAddr (tableFor ia l.val 0 p.root s).1 l ia) e := rfl

theorem putEntry_rest (s : State) (p : Part) (l : Fin 4) (ia : Nat) (e : DWord) :
    putEntry s p l ia e = { s with
      protect := (putEntry s p l ia e).protect, protectNext := (putEntry s p l ia e).protectNext } := by
  have hrest := tableFor_rest ia l.val 0 p.root s
  rw [putEntry_eq]
  generalize (tableFor ia l.val 0 p.root s).2 = u at hrest
  rw [hrest, protectSet]

theorem protectGet_putEntry (s : State) (p : Part) (l : Fin 4) (ia : Nat) (e : DWord) :
    protectGet (putEntry s p l ia e) (entryAddr (tableFor ia l.val 0 p.root s).1 l ia) = e := by
  rw [putEntry_eq]
  exact (spGet_spSet ..).trans (if_pos rfl)

theorem underKey_rest (s : State) (key a : Nat) :
    underKey s key a = { s with mem := (underKey s key a).mem, lineKeys := (underKey s key a).lineKeys } := by
  unfold underKey
  split
  · split <;> rfl
  · rfl

theorem rekeyed_rest (s : State) (key : Nat) (p : Nat → Bool) :
    rekeyed s key p = { s with mem := (rekeyed s key p).mem, lineKeys := (rekeyed s key p).lineKeys } := by
  unfold rekeyed
  generalize s.lineKeys.filter (fun x => p x.1) = l
  induction l generalizing s with
  | nil => rfl
  | cons x l ih =>
    rw [List.foldl_cons, ih, underKey_rest]

/-- What zeroing the metadata of a frame leaves of everything but memory. -/
structure ZeroedOnly (s t : State) : Prop where
  waves : t.waves = s.waves
  protect : t.protect = s.protect
  sweolo : t.sweolo = s.sweolo

theorem zeroMeta_only (s : State) (p : Part) (l : Fin 4) (e : DWord) : ZeroedOnly s (zeroMeta s p l e) := by
  unfold zeroMeta inImages
  dsimp only
  rw [rekeyed_rest]
  exact ⟨rfl, rfl, rfl⟩

/-- Is the new entry a leaf that maps its page where it did not lie (R314)? -/
def mapsAnew (s : State) (p : Part) (l : Fin 4) (ia : Nat) (e : DWord) : Bool :=
  let (k, old) := entryAt s ia l.val 0 p.root
  (entryLeaf e && entryV e) && !(entryV old && entryLeaf old && k = l.val && old.extractLsb' 16 40 = e.extractLsb' 16 40)

/-- The state with the entry written, and with the metadata of the frame zeroed where the page is mapped anew. -/
def entryWritten (s : State) (p : Part) (l : Fin 4) (ia : Nat) (e : DWord) : State :=
  if mapsAnew s p l ia e then zeroMeta (putEntry s p l ia e) p l e else putEntry s p l ia e

theorem entryWritten_only (s : State) (p : Part) (l : Fin 4) (ia : Nat) (e : DWord) :
    ZeroedOnly (putEntry s p l ia e) (entryWritten s p l ia e) := by
  unfold entryWritten
  split
  · exact zeroMeta_only ..
  · exact ⟨rfl, rfl, rfl⟩

theorem entryWritten_sameData (hg : GarbleKeepsData) (s : State) (p : Part) (l : Fin 4) (ia : Nat) (e : DWord) :
    SameData s.mem (entryWritten s p l ia e).mem := by
  have hput : (putEntry s p l ia e).mem = s.mem := by rw [putEntry_rest]
  rw [← hput, entryWritten]
  split
  · exact zeroMeta_sameData hg _ p l e
  · exact fun _ _ => rfl

/-- Dropping lines from the caches leaves memory, and what a zeroed frame leaves. -/
theorem dropLines_only (c : Bool) (s : State) (lo hi : Nat) :
    ZeroedOnly s (if c then dropLines s lo hi else s) ∧ (if c then dropLines s lo hi else s).mem = s.mem := by
  split <;> exact ⟨⟨rfl, rfl, rfl⟩, rfl⟩

/-- A shootdown that need not wait: the entry written, what is cached of the page dropped, waiting groups signalled, and completion reported. -/
theorem shootdown_performed {s : State} {p : Part} {ia : Nat} {l : Fin 4} (e : DWord) (hp : findPart s p.n = some p) (ha : ia % pageBytes l = 0)
    (hia : ia < 2 ^ 48) (hw : (windowOwner s ia).map (·.1) = some p.n) (hf : s.flights = []) :
    ∃ u, shootdown s p.n ia l e = some (answer (signalCode s u) (.unmapped p.n (BitVec.ofNat 52 ia)))
      ∧ ZeroedOnly (entryWritten s p l ia e) u ∧ u.mem = (entryWritten s p l ia e).mem := by
  have hwindow : ia / 2 ^ 48 = 0 := Nat.div_eq_of_lt hia
  simp only [shootdown, hp, ha, hwindow, hw, hf, List.any_nil, ne_eq, not_true_eq_false, decide_false, Bool.or_self, Bool.false_eq_true, if_false]
  have drop {lo hi : Nat} (c : Bool) := dropLines_only c (entryWritten s p l ia e) lo hi
  refine ⟨_, rfl, ?_, ?_⟩
  · exact ⟨(drop _).1.waves, (drop _).1.protect, (drop _).1.sweolo⟩
  · exact (drop _).2

/-- A signal changes the groups and the count that orders signals, and nothing else (R331). -/
theorem signalGroup_rest (s : State) (g : Nat) :
    signalGroup s g = { s with fresh := (signalGroup s g).fresh, groups := (signalGroup s g).groups } := by
  unfold signalGroup
  split
  · split <;> rfl
  · rfl

/-- What signals leave. -/
theorem signalGroup_keeps {α : Type} (f : State → α) (hf : ∀ s n gs, f { s with fresh := n, groups := gs } = f s) (s : State) (g : Nat) :
    f (signalGroup s g) = f s := by
  rw [signalGroup_rest, hf]

theorem signalCode_keeps {α : Type} (f : State → α) (hf : ∀ s n gs, f { s with fresh := n, groups := gs } = f s) (s t : State) :
    f (signalCode s t) = f t :=
  foldl_keeps f _ (fun u (g : Group) => signalGroup_keeps f hf u g.id) _ t

theorem pageShootdown_performed {s : State} {p : Part} {ia : BitVec 52} {w : EntryWrite} (hp : findPart s p.n = some p)
    (ha : ia.toNat % pageBytes w.level = 0) (hia : ia.toNat < 2 ^ 48) (hw : (windowOwner s ia.toNat).map (·.1) = some p.n) (hf : s.flights = []) :
    ∃ t, exec (.pageShootdown p.n ia w) s = .next t ∧ t.waves = s.waves
      ∧ protectGet t (entryAddr (tableFor ia.toNat w.level.val 0 p.root s).1 w.level ia.toNat) = w.entry
      ∧ t.mem = (entryWritten s p w.level ia.toNat w.entry).mem ∧ t.sweolo.out = s.sweolo.out ++ [.unmapped p.n ia] := by
  obtain ⟨u, hshoot, hrest, hmem⟩ := shootdown_performed w.entry hp ha hia hw hf
  have hput := entryWritten_only s p w.level ia.toNat w.entry
  have hbase := putEntry_rest s p w.level ia.toNat w.entry
  have hentry := protectGet_putEntry s p w.level ia.toNat w.entry
  refine ⟨_, congrArg (fun x => served _ x s) hshoot, ?_, ?_, ?_, ?_⟩
  · show (signalCode s u).waves = s.waves
    rw [signalCode_keeps State.waves (fun _ _ _ => rfl), hrest.waves, hput.waves, hbase]
  · show spGet (signalCode s u).protect _ = _
    rw [signalCode_keeps State.protect (fun _ _ _ => rfl), hrest.protect, hput.protect]
    exact hentry
  · show (signalCode s u).mem = _
    rw [signalCode_keeps State.mem (fun _ _ _ => rfl), hmem]
  · show (signalCode s u).sweolo.out ++ [.unmapped p.n (BitVec.ofNat 52 ia.toNat)] = _
    rw [signalCode_keeps State.sweolo (fun _ _ _ => rfl), hrest.sweolo, hput.sweolo, hbase, BitVec.ofNat_toNat, BitVec.setWidth_eq]

/-! ### Requests and fills (R311, R312) -/

/-- Two neighbouring words of the protected region, written one after the other. -/
theorem protectGet_pair (s : State) (a : Nat) (lo hi : DWord) :
    spGet (spSet (spSet s.protect (a / 8) lo) ((a + 8) / 8) hi) (a / 8) = lo
      ∧ spGet (spSet (spSet s.protect (a / 8) lo) ((a + 8) / 8) hi) ((a + 8) / 8) = hi := by
  have hnext : a / 8 ≠ (a + 8) / 8 := by omega
  rw [spGet_spSet, if_neg hnext, spGet_spSet, if_pos rfl, spGet_spSet, if_pos rfl]
  exact ⟨rfl, rfl⟩

/-- A request written to the ring at a place, and forwarded. -/
def requestForwarded (s : State) (n a : Nat) (e : BitVec 128) : State :=
  answer (modPart (protectSet (protectSet s a (e.extractLsb' 0 64)) (a + 8) (e.extractLsb' 64 64)) n
    fun y => { y with ring := y.ring ++ [e], ringSeq := y.ringSeq + 1 }) (.pageRequest e)

theorem requestForwarded_spec (s : State) (n a : Nat) (e : BitVec 128) :
    protectGet (requestForwarded s n a e) a = e.extractLsb' 0 64 ∧ protectGet (requestForwarded s n a e) (a + 8) = e.extractLsb' 64 64
      ∧ requestForwarded s n a e = { modPart s n fun y => { y with ring := y.ring ++ [e], ringSeq := y.ringSeq + 1 } with
          protect := (requestForwarded s n a e).protect, sweolo := { s.sweolo with out := s.sweolo.out ++ [.pageRequest e] } } :=
  ⟨(protectGet_pair ..).1, (protectGet_pair ..).2, rfl⟩

theorem forwardPage_of_room {s : State} {p : Part} {x : Nat × Fin 4 × Nat} (hp : findPart s p.n = some p) (hx : unringed s p = some x)
    (hr : ringRoom p = true) :
    forwardPage s p.n = requestForwarded s p.n (p.ringBase + 16 * (p.ringSeq.toNat % Config.ringEntries)) (pageEntry p.n x p.ringSeq) := by
  simp only [forwardPage, hp, hx, hr, Bool.not_true, Bool.false_eq_true, if_false, requestForwarded]

theorem iaPieces_of_one_line {a n : Nat} (hn : n ≠ 0) (h : a % 64 + n ≤ 64) : iaPieces a n = [(a, 0, n)] := by
  have hone : (a + n + 63) / 64 - a / 64 = 1 := by omega
  have hlo : max a (64 * (a / 64)) = a := by omega
  have hhi : min (a + n) (64 * (a / 64) + 64) = a + n := by omega
  have hlt : a < a + n := by omega
  simp only [iaPieces, hone, List.range_one, List.filterMap_cons, List.filterMap_nil, Nat.add_zero, hlo, hhi, hlt, if_true, Nat.sub_self,
    Nat.add_sub_cancel_left]

theorem pagerFrameWrite_one_line {s : State} {p : Nat} {ia : BitVec 52} {g : Page} {data : List Byte} (hg : ownPage s p ia.toNat = some g)
    (hres : g.leaf.res = false) (hroom : ia.toNat + data.length ≤ g.base + pageBytes g.leaf.level) (hdata : data ≠ [])
    (hline : ia.toNat % 64 + data.length ≤ 64) (hkey : keyHere s g (physIn g ia.toNat) = true) :
    ∃ t, exec (.pagerFrameWrite p ia data []) s = .next t ∧ t.mem = writeBytes s.mem (physIn g ia.toNat) data ∧ t.waves = s.waves := by
  have hfits : ¬ g.base + pageBytes g.leaf.level - ia.toNat < data.length := by omega
  have hpieces := iaPieces_of_one_line (mt List.length_eq_zero_iff.1 hdata) hline
  have hfill : fillFrame s p ia.toNat data [] = frameBytesPut s g ia.toNat data := by
    simp [fillFrame, hg, hres, hfits]
  refine ⟨_, congrArg Host.Outcome.next hfill, ?_, ?_⟩
  · rw [frameBytesPut, hpieces]
    show writeBytes (underKey s (pageKey s g) (physIn g ia.toNat)).mem _ ((data.drop 0).take data.length) = _
    rw [underKey_mem_of_here hkey, List.drop_zero, List.take_length]
  · rw [frameBytesPut, hpieces]
    exact underKey_waves ..

/-! ### Lent clusters (R378, R379) -/

theorem findPart_modPart_other (s : State) {n k : Nat} (hk : k ≠ n) {f : Part → Part} (hf : ∀ p, (f p).n = p.n) :
    findPart (modPart s n f) k = findPart s k := by
  have hn : ((fun p : Part => decide (p.n = k)) ∘ fun p => if p.n = n then f p else p) = fun p => decide (p.n = k) := by
    funext p
    show decide ((if p.n = n then f p else p).n = k) = _
    split
    · rw [hf]
    · rfl
  rw [findPart, modPart, List.find?_map, hn, findPart]
  cases h : s.parts.find? fun p => decide (p.n = k) with
  | none => rfl
  | some p =>
    have hpn : p.n ≠ n := fun h' => hk ((of_decide_eq_true (List.find?_some (p := fun p : Part => decide (p.n = k)) h)).symm.trans h')
    rw [Option.map_some, if_neg hpn]

/-- A change of a partition defines and undefines none. -/
theorem isSome_findPart_modPart (s : State) (n : Nat) (f : Part → Part) (k : Nat) (hf : ∀ p, (f p).n = p.n) :
    (findPart (modPart s n f) k).isSome = (findPart s k).isSome := by
  by_cases hk : k = n
  · rw [hk, findPart_modPart s n hf, Option.isSome_map]
  · rw [findPart_modPart_other s hk hf]

theorem getLsbD_bitOf {k : Nat} (hk : k < 64) : (bitOf k).getLsbD k = true := by
  rw [bitOf, BitVec.getLsbD_ofNat, Nat.testBit_two_pow_self, decide_eq_true hk]
  rfl

/-- A descriptor without, and with, cluster k. -/
def withoutCluster (k : Nat) (y : Part) : Part := { y with desc := { y.desc with clusters := y.desc.clusters &&& ~~~bitOf k } }
def withCluster (k : Nat) (y : Part) : Part := { y with desc := { y.desc with clusters := y.desc.clusters ||| bitOf k } }

theorem withoutCluster_bit {k : Nat} (hk : k < 64) (y : Part) : (withoutCluster k y).desc.clusters.getLsbD k = false := by
  simp [withoutCluster, getLsbD_bitOf hk]

theorem withCluster_bit {k : Nat} (hk : k < 64) (y : Part) : (withCluster k y).desc.clusters.getLsbD k = true := by
  simp [withCluster, getLsbD_bitOf hk]

/-- A cluster's bit moved from one descriptor to another. -/
def moveCluster (s : State) (a b k : Nat) : State := modPart (modPart s a (withoutCluster k)) b (withCluster k)

theorem moveCluster_parts {s : State} {a b k : Nat} (hab : a ≠ b) (hk : k < 64) (ha : (findPart s a).isSome) (hb : (findPart s b).isSome) :
    ∃ x y, findPart (moveCluster s a b k) a = some x ∧ findPart (moveCluster s a b k) b = some y
      ∧ x.desc.clusters.getLsbD k = false ∧ y.desc.clusters.getLsbD k = true := by
  obtain ⟨p, hp⟩ := Option.isSome_iff_exists.1 ha
  obtain ⟨q, hq⟩ := Option.isSome_iff_exists.1 hb
  refine ⟨withoutCluster k p, withCluster k q, ?_, ?_, withoutCluster_bit hk p, withCluster_bit hk q⟩
  · rw [moveCluster, findPart_modPart_other _ hab (f := withCluster k) fun _ => rfl, findPart_modPart _ _ (f := withoutCluster k) fun _ => rfl, hp]
    rfl
  · rw [moveCluster, findPart_modPart _ _ (f := withCluster k) fun _ => rfl, findPart_modPart_other _ hab.symm (f := withoutCluster k) fun _ => rfl, hq]
    rfl

/-- The partitions, the loans and memory stand. -/
structure KeepsLoans (s t : State) : Prop where
  parts : t.parts = s.parts
  loans : t.loans = s.loans
  mem : t.mem = s.mem

theorem KeepsLoans.refl (s : State) : KeepsLoans s s := ⟨rfl, rfl, rfl⟩

theorem KeepsLoans.trans {s t u : State} (h : KeepsLoans s t) (k : KeepsLoans t u) : KeepsLoans s u :=
  ⟨k.parts.trans h.parts, k.loans.trans h.loans, k.mem.trans h.mem⟩

theorem KeepsLoans.findPart {s t : State} (h : KeepsLoans s t) (n : Nat) : Machine.findPart t n = Machine.findPart s n := by
  rw [Machine.findPart, h.parts, Machine.findPart]

theorem foldl_keepsLoans {α : Type} {f : State → α → State} (hf : ∀ t x, KeepsLoans t (f t x)) (l : List α) (s : State) :
    KeepsLoans s (l.foldl f s) := by
  induction l generalizing s with
  | nil => exact .refl s
  | cons x l ih => exact (hf s x).trans (ih _)

theorem signalGroup_keepsLoans (s : State) (g : Nat) : KeepsLoans s (signalGroup s g) := by
  rw [signalGroup_rest]
  exact ⟨rfl, rfl, rfl⟩

theorem signalOwner_keepsLoans (s : State) (e : Campion) : KeepsLoans s (signalOwner s e) := by
  unfold signalOwner
  split
  · split
    · exact signalGroup_keepsLoans ..
    · exact .refl s
  · exact .refl s

theorem signalOwners_keepsLoans (s : State) (tenant : Nat) : KeepsLoans s (signalOwners s tenant) :=
  foldl_keepsLoans signalOwner_keepsLoans _ s

theorem endScout_keepsLoans (s : State) (n : Nat) : KeepsLoans s (endScout s n) := by
  unfold endScout
  split <;> exact ⟨rfl, rfl, rfl⟩

theorem saveGroup_keepsLoans (s : State) (g : Nat) : KeepsLoans s (saveGroup s g) := by
  have hscout := foldl_keepsLoans endScout_keepsLoans ((wavesOf s g).map (·.id)) s
  unfold saveGroup
  dsimp only
  split
  · refine KeepsLoans.trans (hscout.trans ?_) (signalOwners_keepsLoans ..)
    exact ⟨rfl, rfl, rfl⟩
  · exact hscout.trans ⟨rfl, rfl, rfl⟩

theorem saveSignalled_keepsLoans (s : State) (g : Nat) : KeepsLoans s (signalGroup (saveGroup s g) g) :=
  (saveGroup_keepsLoans s g).trans (signalGroup_keepsLoans ..)

theorem saveBuckets_keepsLoans (s : State) (k : Nat) : KeepsLoans s (saveBuckets s k) := by
  refine foldl_keepsLoans (fun t c => foldl_keepsLoans (fun u b => ?_) _ t) _ s
  split
  · exact .refl u
  next l _ =>
    refine KeepsLoans.trans ?_ (signalGroup_keepsLoans ..)
    split <;> exact ⟨rfl, rfl, rfl⟩

theorem restartCores_keepsLoans (s : State) (k : Nat) : KeepsLoans s (restartCores s k) := by
  rw [restartCores_frame]
  exact ⟨rfl, rfl, rfl⟩

/-- A partition as a rollback to a mark leaves it (R353). -/
def atMark (m : Nat) (p : Part) : Part := { p with held := [], closing := [], mark := m, committed := true, markDue := false, logged := [] }

/-- A partition stays defined through a rollback of one. -/
theorem findPart_rollback (s : State) (n k : Nat) (h : (findPart s k).isSome) : (findPart (rollback s n) k).isSome := by
  unfold rollback
  split
  · exact h
  · split
    · exact h
    next i _ =>
      refine (congrArg Option.isSome ((foldl_keepsLoans (fun t (g : Group) => saveSignalled_keepsLoans t g.id) _ _).findPart k)).trans ?_
      exact (isSome_findPart_modPart _ n (atMark i.mark) k fun _ => rfl).trans h

/-- The groups and the buckets of a cluster saved. -/
def savedCluster (s : State) (k : Nat) : State :=
  saveBuckets (((s.groups.filter fun g => onCluster g k && !g.finished).map (·.id)).foldl (fun t g => signalGroup (saveGroup t g) g) s) k

theorem savedCluster_keepsLoans (s : State) (k : Nat) : KeepsLoans s (savedCluster s k) :=
  (foldl_keepsLoans saveSignalled_keepsLoans _ s).trans (saveBuckets_keepsLoans _ k)

/-- A cluster moved, its loan entered, and its cores started anew. -/
def lentCluster (u : State) (a b k : Nat) : State :=
  restartCores { moveCluster u a b k with loans := (moveCluster u a b k).loans ++ [(k, a, b)] } k

/-- A cluster moved back, its loan struck, and its cores started anew. -/
def returnedCluster (u : State) (a b k : Nat) : State :=
  restartCores { moveCluster u b a k with loans := (moveCluster u b a k).loans.filter fun x => x.1 ≠ k } k

theorem lentCluster_keepsLoans (u : State) (a b k : Nat) :
    KeepsLoans { moveCluster u a b k with loans := u.loans ++ [(k, a, b)] } (lentCluster u a b k) := restartCores_keepsLoans ..

theorem returnedCluster_keepsLoans (u : State) (a b k : Nat) :
    KeepsLoans { moveCluster u b a k with loans := u.loans.filter fun x => x.1 ≠ k } (returnedCluster u a b k) := restartCores_keepsLoans ..

theorem exec_of_lend {s t : State} {a b k : Nat} (h : lend s a b k = some t) : exec (.clusterLend a b k) s = .next t :=
  congrArg (fun x => served (.clusterLend a b k) x s) h

theorem exec_of_reclaim {s t : State} {a k : Nat} (h : reclaim s a k = some t) : exec (.clusterReclaim a k) s = .next t :=
  congrArg (fun x => served (.clusterReclaim a k) x s) h

theorem lend_of_saveable {s : State} {p b : Part} {k : Nat} (hp : findPart s p.n = some p) (hb : findPart s b.n = some b) (hbp : b.n ≠ p.n)
    (hv : b.desc.v = true) (hk : k < 64) (ho : p.desc.owned.getLsbD k = true) (hc : p.desc.clusters.getLsbD k = true)
    (hs : clusterSaveable s k = true) : lend s p.n b.n k = some (lentCluster (savedCluster s k) p.n b.n k) := by
  simp only [lend, hp, hb, hv, ho, hc, hs, hbp.symm, Nat.not_le.2 hk, decide_false, Bool.not_true, Bool.or_self, Bool.false_eq_true, if_false]
  rfl

theorem clusterLend_moves {s : State} {p b : Part} {k : Nat} (hp : findPart s p.n = some p) (hb : findPart s b.n = some b) (hbp : b.n ≠ p.n)
    (hv : b.desc.v = true) (hk : k < 64) (ho : p.desc.owned.getLsbD k = true) (hc : p.desc.clusters.getLsbD k = true)
    (hs : clusterSaveable s k = true) :
    ∃ t x y, exec (.clusterLend p.n b.n k) s = .next t ∧ findPart t p.n = some x ∧ findPart t b.n = some y ∧ t.loans = s.loans ++ [(k, p.n, b.n)]
      ∧ x.desc.clusters.getLsbD k = false ∧ y.desc.clusters.getLsbD k = true ∧ t.mem = s.mem := by
  have hlend := lend_of_saveable hp hb hbp hv hk ho hc hs
  have hsaved := savedCluster_keepsLoans s k
  generalize savedCluster s k = u at hlend hsaved
  obtain ⟨x, y, hx, hy, hxk, hyk⟩ := moveCluster_parts (s := u) hbp.symm hk (by rw [hsaved.findPart, hp]; rfl) (by rw [hsaved.findPart, hb]; rfl)
  have hend := lentCluster_keepsLoans u p.n b.n k
  refine ⟨_, x, y, exec_of_lend hlend, (hend.findPart _).trans hx, (hend.findPart _).trans hy, ?_, hxk, hyk, hend.mem.trans hsaved.mem⟩
  rw [hend.loans, hsaved.loans]

/-- The groups that stood on a cluster when the mark that a partition returns to was taken. -/
def stoodOn (s : State) (p : Part) (k : Nat) : List Nat :=
  match committedImage s p with
  | some i => (i.groups.filter fun g => onCluster g k).map (·.id)
  | none => []

/-- Groups that a reclaim raises above others of their priority. -/
def raisedGroups (s : State) (l : List Nat) : State := l.foldl (fun t n => modGroup t n fun x => { x with raised := true }) s

theorem raisedGroups_keepsLoans (s : State) (l : List Nat) : KeepsLoans s (raisedGroups s l) :=
  foldl_keepsLoans (f := fun t n => modGroup t n fun x => { x with raised := true }) (fun _ _ => ⟨rfl, rfl, rfl⟩) l s

theorem reclaim_of_committed {s : State} {p b : Part} {k : Nat} (hb : findPart s b.n = some b) (hc : b.committed = true)
    (hl : (s.loans.find? fun x => x.1 = k && x.2.1 = p.n) = some (k, p.n, b.n)) :
    ∃ u, (∀ n, (findPart s n).isSome → (findPart u n).isSome) ∧ reclaim s p.n k = some (returnedCluster u p.n b.n k) := by
  refine ⟨raisedGroups (saveBuckets (rollback s b.n) k) (stoodOn s b k), fun n h => ?_, ?_⟩
  · rw [(raisedGroups_keepsLoans ..).findPart, (saveBuckets_keepsLoans ..).findPart]
    exact findPart_rollback s b.n n h
  · simp only [reclaim, hl, hb, hc, Bool.not_true, Bool.false_eq_true, if_false]
    rfl

theorem clusterReclaim_moves {s : State} {p b : Part} {k : Nat} (hp : findPart s p.n = some p) (hb : findPart s b.n = some b) (hbp : b.n ≠ p.n)
    (hc : b.committed = true) (hk : k < 64) (hl : (s.loans.find? fun x => x.1 = k && x.2.1 = p.n) = some (k, p.n, b.n)) :
    ∃ t x y, exec (.clusterReclaim p.n k) s = .next t ∧ findPart t p.n = some x ∧ findPart t b.n = some y
      ∧ (∀ z ∈ t.loans, z.1 ≠ k) ∧ x.desc.clusters.getLsbD k = true ∧ y.desc.clusters.getLsbD k = false := by
  obtain ⟨u, hu, hreclaim⟩ := reclaim_of_committed hb hc hl
  obtain ⟨y, x, hy, hx, hyk, hxk⟩ := moveCluster_parts hbp hk (hu b.n (by rw [hb]; rfl)) (hu p.n (by rw [hp]; rfl))
  have hend := returnedCluster_keepsLoans u p.n b.n k
  refine ⟨returnedCluster u p.n b.n k, x, y, exec_of_reclaim hreclaim, (hend.findPart _).trans hx, (hend.findPart _).trans hy,
    fun z hz => ?_, hxk, hyk⟩
  rw [hend.loans] at hz
  exact of_decide_eq_true (List.mem_filter.1 hz).2

/-- What O46 comes to: it holds where the free value of R381 keeps the data bits of a line. The model gives that value no such property, nor the
opposite one (`garbledData_of_pagesAndClusters`), so neither O46 nor its negation follows from the model. -/
theorem pagesAndClusters_of_garble (hg : GarbleKeepsData) : Obligations.PagesAndClusters := by
  refine fun s p hp => ⟨?_, ?_, ?_, ?_, ?_⟩
  · intro ia l ha hia hw hf
    obtain ⟨t, hnext, hwaves, hentry, hmem, hout⟩ := pageShootdown_performed hp ha hia hw hf
    exact ⟨t, hnext, hwaves, hentry, hmem ▸ entryWritten_sameData hg s p l.level ia.toNat l.entry, hout⟩
  · intro x hx hr
    exact ⟨_, congrArg Host.Outcome.next (forwardPage_of_room hp hx hr), requestForwarded_spec ..⟩
  · intro ia g data hpage hres hroom hdata hline hkey
    exact pagerFrameWrite_one_line hpage hres hroom hdata hline hkey
  · intro b k hb hbp hv hk ho hc hs _
    exact clusterLend_moves hp hb hbp hv hk ho hc hs
  · intro b k hb hbp hc hk hl
    exact clusterReclaim_moves hp hb hbp hc hk hl

/-! ### What O46 asks of the free value (R381) -/

theorem eq_zero_of_bytesOf {x n : Nat} (hx : x < 2 ^ (8 * n)) (h : ∀ j, j < n → ((bytesOf x n)[j]?).getD 0 = 0) : x = 0 := by
  induction n generalizing x with
  | zero => exact Nat.lt_one_iff.1 hx
  | succ n ih =>
    have hbyte : BitVec.ofNat 8 x = 0 := h 0 (Nat.succ_pos n)
    have hlow : x % 2 ^ 8 = 0 := by simpa using congrArg BitVec.toNat hbyte
    rw [Nat.mul_succ, Nat.pow_add] at hx
    have hhigh : x / 256 = 0 := ih (by omega) fun j hj => h (j + 1) (Nat.succ_lt_succ hj)
    omega

theorem bitVec_eq_zero_of_bytesOf {n : Nat} {v : BitVec (8 * n)} (h : ∀ j, j < n → ((bytesOf v.toNat n)[j]?).getD 0 = 0) : v = 0 := by
  apply BitVec.eq_of_toNat_eq
  rw [eq_zero_of_bytesOf v.isLt h]
  rfl

/-- The data bits of a line read under another key. -/
def garbledData (k key n : Nat) (v : BitVec 528) : BitVec 512 :=
  (Config.garble (Config.keyBits k) (Config.keyBits key) n v).extractLsb' 0 512

theorem dataByte_of_lt {j : Nat} (hj : j < 64) : DataByte j := by
  simp only [DataByte, Config.channelBytes, Config.frameBytes]
  omega

theorem rekeyed_of_one_line {s : State} {n k key : Nat} {p : Nat → Bool} (hkeys : s.lineKeys = [(n, k)]) (hp : p n = true) :
    rekeyed s key p = underKey s key (64 * n) := by
  rw [rekeyed, hkeys, List.filter_cons_of_pos (by exact hp)]
  rfl

/-- Line 0, written under another key, reads as the free value of R381 gives it once its frame is mapped anew. -/
theorem readByte_zeroMeta_line0 {s : State} {p : Part} {l : Fin 4} {e : DWord} {k key : Nat} (hkeys : s.lineKeys = [(0, k)])
    (hkey : slotKey s (leafOfEntry l e).keyix.toNat = key) (hne : k ≠ key)
    (hin : inFrame l e (frameOffset p 0) = true)
    {j : Nat} (hj : j < 64) :
    readByte (zeroMeta s p l e).mem j = ((bytesOf (garbledData k key 0 (lineRaw s 0)).toNat 64)[j]?).getD 0 := by
  have hdata := dataByte_of_lt hj
  have hmeta : ¬ (metaAddr 0 ≤ j ∧ j < metaAddr 0 + 2) := by
    simp only [metaAddr, Config.channelBytes, Config.frameBytes]
    omega
  have hview : lineView s key 0 = Config.garble (Config.keyBits k) (Config.keyBits key) 0 (lineRaw s 0) := by
    simp only [lineView, lineKeyOf, hkeys, List.find?_cons, Nat.zero_div, decide_true, Option.map_some, hne, if_false]
  have hline := rekeyed_of_one_line (key := key) (p := fun x => inFrame l e (frameOffset p (64 * x))) hkeys hin
  have hunder : (underKey s key 0).mem
      = writeN (writeN s.mem 0 64 (garbledData k key 0 (lineRaw s 0)).toNat) (metaAddr 0) 2 ((lineView s key 0).extractLsb' 512 16).toNat := by
    rw [garbledData, ← hview]
    simp only [underKey, lineKeyOf, hkeys, List.find?_cons, Nat.zero_div, decide_true, Option.map_some, hne, if_false]
  have hkept : readByte (zeroMeta s p l e).mem j = readByte (underKey s key 0).mem j := by
    rw [show underKey s key 0 = underKey s key (64 * 0) from rfl, ← hline, ← hkey]
    refine spGet_filter_kept _ _ fun v => ?_
    rw [metaOffset_of_data hdata]
    rfl
  rw [hkept, hunder, readByte_writeN_outside _ hmeta, writeN, readByte_writeBytes, bytesOf_length, if_pos ⟨Nat.zero_le j, by omega⟩]
  rfl

/-- The launch laid out, line 0 of the first channel written under the key of draw 1. -/
def foreignLine : State := { setupLaunched State.reset with lineKeys := [(0, 1)] }

/-- A leaf that maps the page of IA 0x10000 to frame 0, under the key of draw 0. -/
def frameZero : EntryWrite := ⟨3, 0x3⟩

/-- What makes that page's shootdown read line 0 under draw 0. -/
def foreignReady (p : Part) : Bool :=
  let s := putEntry foreignLine p 3 0x10000 0x3
  decide (p.n = 0) && decide ((windowOwner foreignLine 0x10000).map (·.1) = some 0) && mapsAnew foreignLine p 3 0x10000 0x3
    && inFrame 3 0x3 (frameOffset p 0) && decide (slotKey s (leafOfEntry 3 0x3).keyix.toNat = 0) && decide (lineRaw s 0 = 0)
    && decide (s.lineKeys = [(0, 1)])

/-- O46 settles a bit of the free value: a line of zeros, written under one key and read under another, would have to read as zeros. R381 does
not say so. -/
theorem garbledData_of_pagesAndClusters (h : Obligations.PagesAndClusters) : garbledData 1 0 0 0 = 0 := by
  obtain ⟨p, hp, hready⟩ := (Option.any_eq_true ..).1 (show (findPart foreignLine 0).any foreignReady = true by decide +kernel)
  simp only [foreignReady, Bool.and_eq_true, decide_eq_true_eq] at hready
  obtain ⟨⟨⟨⟨⟨⟨hn, howner⟩, hanew⟩, hframe⟩, hkey⟩, hzero⟩, hkeys⟩ := hready
  have hp : findPart foreignLine p.n = some p := hn ▸ hp
  obtain ⟨t, hnext, -, -, hmem, -⟩ := pageShootdown_performed (ia := 0x10000) (w := frameZero) hp (by decide) (by decide) (hn ▸ howner) rfl
  obtain ⟨t', hnext', -, -, hsame, -⟩ := (h foreignLine p hp).1 0x10000 frameZero (by decide) (by decide) (hn ▸ howner) rfl
  obtain rfl : t = t' := Host.Outcome.next.inj (hnext.symm.trans hnext')
  have hwritten : t.mem = (zeroMeta (putEntry foreignLine p 3 0x10000 0x3) p 3 0x3).mem := hmem.trans (congrArg State.mem (if_pos hanew))
  have hbytes : ∀ j, j < 64 → ((bytesOf (garbledData 1 0 0 0).toNat 64)[j]?).getD 0 = 0 := fun j hj => by
    have hread := readByte_zeroMeta_line0 hkeys hkey Nat.one_ne_zero hframe hj
    rw [hzero, ← hwritten] at hread
    rw [← hread]
    exact hsame j (dataByte_of_lt hj)
  exact bitVec_eq_zero_of_bytesOf (n := 64) hbytes

end Sys2Proof.Machine
end
